-- ==== Sys2Proof/Word.lean ====
section
/-! DEFINITION. The byte and the byte string of the EV-7100 (R9, R10). -/

namespace Sys2Proof

/-- One byte. -/
abbrev Byte := BitVec 8

/-- A byte string, lowest address or first transmitted byte first. -/
abbrev Bytes := List Byte

end Sys2Proof
end

