-- ==== Sys2Proof/Machine/Bytes.lean ====
section
/-! DEFINITION. Byte order, slices and bit fields of byte strings (R9, R10). -/

namespace Sys2Proof.Machine

open Sys2Proof

/-- `n` little-endian bytes of `v` (R9). -/
def leN : Nat → Nat → Bytes
  | 0, _ => []
  | n + 1, v => BitVec.ofNat 8 v :: leN n (v / 256)

/-- The number that little-endian bytes spell (R9). -/
def ofLE : Bytes → Nat
  | [] => 0
  | b :: r => b.toNat + 256 * ofLE r

/-- `n` big-endian bytes of `v`, for the standards that use that order (R10). -/
def beN (n v : Nat) : Bytes := (leN n v).reverse

/-- The number that big-endian bytes spell. -/
def ofBE (b : Bytes) : Nat := ofLE b.reverse

/-- `n` zero bytes. -/
def zeros (n : Nat) : Bytes := List.replicate n 0

/-- Bytes `off` to `off + n - 1`. -/
def slice (b : Bytes) (off n : Nat) : Bytes := (b.drop off).take n

/-- Byte `off`, 0 past the end. -/
def u8 (b : Bytes) (off : Nat) : Nat := (b.getD off 0).toNat

/-- A little-endian integer of `n` bytes at `off` (R9). -/
def uLE (b : Bytes) (off n : Nat) : Nat := ofLE (slice b off n)

/-- Bytes from natural numbers. -/
def bytesOf (l : List Nat) : Bytes := l.map (BitVec.ofNat 8)

/-- The ASCII bytes of a string. -/
def ascii (s : String) : Bytes := s.toList.map (fun c => BitVec.ofNat 8 c.toNat)

/-- Byte-wise exclusive or. -/
def xorB (a b : Bytes) : Bytes := List.zipWith (· ^^^ ·) a b

/-- A string cut or zero-filled on the right to `n` bytes. -/
def fit (n : Nat) (b : Bytes) : Bytes := (b ++ zeros n).take n

/-- Every byte is zero. -/
def allZero (b : Bytes) : Bool := b.all (· == 0)

/-- Bit `k` of a number. -/
def bitN (v k : Nat) : Bool := v.testBit k

/-- Bits `hi` to `lo` of a number. -/
def field (v hi lo : Nat) : Nat := (v / 2 ^ lo) % 2 ^ (hi + 1 - lo)

/-- 1 for true. -/
def b2n (b : Bool) : Nat := if b then 1 else 0

/-- Ceiling division. -/
def ceilDiv (a b : Nat) : Nat := (a + b - 1) / b

/-- Two's complement reading of a 32-bit value (type I32 of R417). -/
def i32 (v : Nat) : Int := if v < 2147483648 then (v : Int) else (v : Int) - 4294967296

/-- The 32-bit two's complement word of an integer. -/
def ofI32 (v : Int) : Nat := (v % 4294967296).toNat

/-- Bytes packed from `n` bits, bit `d` in byte `d / 8` (R549). -/
def packBits (n : Nat) (f : Nat → Bool) : Bytes :=
  (List.range n).map (fun k =>
    BitVec.ofNat 8 ((List.range 8).foldl (fun a j => a + b2n (f (8 * k + j)) * 2 ^ j) 0))

/-- Set bit `k` of a mask. -/
def setBit {n : Nat} (m : BitVec n) (k : Nat) : BitVec n := m ||| BitVec.ofNat n (2 ^ k)

/-- Clear the bits of `c`. -/
def clearBits {n : Nat} (m c : BitVec n) : BitVec n := m &&& ~~~ c

/-- Split into pieces of `n` bytes, the last perhaps shorter; `fuel` bounds the pieces. -/
def chunksAux (n : Nat) : Nat → Bytes → List Bytes
  | 0, _ => []
  | k + 1, b => if b.isEmpty then [] else b.take n :: chunksAux n k (b.drop n)

/-- The pieces of `n` bytes of a string. -/
def chunks (n : Nat) (b : Bytes) : List Bytes := chunksAux n b.length b

/-- Replace element `i`. -/
def updAt {α : Type} (l : List α) (i : Nat) (f : α → α) : List α :=
  l.mapIdx (fun k x => if k == i then f x else x)

/-- Insert or replace the value of a key in a list sorted by key. -/
def putKey {α : Type} (l : List (Nat × α)) (k : Nat) (v : α) : List (Nat × α) :=
  match l with
  | [] => [(k, v)]
  | (j, w) :: r => if k < j then (k, v) :: (j, w) :: r
                   else if k = j then (k, v) :: r
                   else (j, w) :: putKey r k v

/-- Remove a key. -/
def dropKey {α : Type} (l : List (Nat × α)) (k : Nat) : List (Nat × α) :=
  l.filter (fun p => p.1 != k)

/-- The value of a key. -/
def getKey {α : Type} (l : List (Nat × α)) (k : Nat) : Option α :=
  (l.find? (fun p => p.1 == k)).map (·.2)

end Sys2Proof.Machine
end

