-- ==== Sys2Proof/Machine/Hash.lean ====
section
/-! DEFINITION. SHA-256, SHA-384, SHA-512, HMAC and CRC-32C, as FIPS 180-4, FIPS 198-1 and the Castagnoli
polynomial define them. PRESUMED (log 8): the spec names these functions and leaves them to their standards. -/

namespace Sys2Proof.Machine

open Sys2Proof

/-- The parameters that tell the 32-bit and the 64-bit SHA-2 compression apart. -/
structure ShaKind where
  w : Nat
  rounds : Nat
  s0 : Nat × Nat × Nat
  s1 : Nat × Nat × Nat
  g0 : Nat × Nat × Nat
  g1 : Nat × Nat × Nat
  k : List Nat

/-- The `n` digits of a number in base 2^64, the most significant one first. -/
def digits64 : Nat → Nat → List Nat
  | 0, _ => []
  | n + 1, v => v / 2 ^ (64 * n) % 2 ^ 64 :: digits64 n v

/-- The round constants of the 64-bit functions: the first 64 bits of the fractional parts of the cube roots of the first 80
primes, eight to a number. Their high halves are the constants of the 32-bit function (FIPS 180-4, 4.2). -/
def sha512K : List Nat :=
  [0x428a2f98d728ae227137449123ef65cdb5c0fbcfec4d3b2fe9b5dba58189dbbc3956c25bf348b53859f111f1b605d019923f82a4af194f9bab1c5ed5da6d8118,
   0xd807aa98a303024212835b0145706fbe243185be4ee4b28c550c7dc3d5ffb4e272be5d74f27b896f80deb1fe3b1696b19bdc06a725c71235c19bf174cf692694,
   0xe49b69c19ef14ad2efbe4786384f25e30fc19dc68b8cd5b5240ca1cc77ac9c652de92c6f592b02754a7484aa6ea6e4835cb0a9dcbd41fbd476f988da831153b5,
   0x983e5152ee66dfaba831c66d2db43210b00327c898fb213fbf597fc7beef0ee4c6e00bf33da88fc2d5a79147930aa72506ca6351e003826f142929670a0e6e70,
   0x27b70a8546d22ffc2e1b21385c26c9264d2c6dfc5ac42aed53380d139d95b3df650a73548baf63de766a0abb3c77b2a881c2c92e47edaee692722c851482353b,
   0xa2bfe8a14cf10364a81a664bbc423001c24b8b70d0f89791c76c51a30654be30d192e819d6ef5218d69906245565a910f40e35855771202a106aa07032bbd1b8,
   0x19a4c116b8d2d0c81e376c085141ab532748774cdf8eeb9934b0bcb5e19b48a8391c0cb3c5c95a634ed8aa4ae3418acb5b9cca4f7763e373682e6ff3d6b2b8a3,
   0x748f82ee5defb2fc78a5636f43172f6084c87814a1f0ab728cc702081a6439ec90befffa23631e28a4506cebde82bde9bef9a3f7b2c67915c67178f2e372532b,
   0xca273eceea26619cd186b8c721c0c207eada7dd6cde0eb1ef57d4f7fee6ed17806f067aa72176fba0a637dc5a2c898a6113f9804bef90dae1b710b35131c471b,
   0x28db77f523047d8432caab7b40c724933c9ebe0a15c9bebc431d67c49c100d4c4cc5d4becb3e42b6597f299cfc657e2a5fcb6fab3ad6faec6c44198c4a475817].flatMap (digits64 8)

/-- SHA-256 parameters. -/
def sha256Kind : ShaKind :=
  { w := 32, rounds := 64, s0 := (2, 13, 22), s1 := (6, 11, 25), g0 := (7, 18, 3), g1 := (17, 19, 10),
    k := (sha512K.take 64).map (fun c => c / 2 ^ 32) }

/-- SHA-384 and SHA-512 parameters. -/
def sha512Kind : ShaKind :=
  { w := 64, rounds := 80, s0 := (28, 34, 39), s1 := (14, 18, 41), g0 := (1, 8, 7), g1 := (19, 61, 6),
    k := sha512K }

/-- Rotate a `w`-bit number right. -/
def rotr (w x n : Nat) : Nat := (x >>> n) ||| ((x <<< (w - n)) % 2 ^ w)

/-- The two large sigma functions. -/
def bigSigma (w : Nat) (t : Nat × Nat × Nat) (x : Nat) : Nat :=
  rotr w x t.1 ^^^ rotr w x t.2.1 ^^^ rotr w x t.2.2

/-- The two small sigma functions. -/
def smallSigma (w : Nat) (t : Nat × Nat × Nat) (x : Nat) : Nat :=
  rotr w x t.1 ^^^ rotr w x t.2.1 ^^^ (x >>> t.2.2)

/-- One compression round; the last 16 schedule words are kept, oldest first. -/
def shaRound (p : ShaKind) (st : List Nat × List Nat) (k : Nat) : List Nat × List Nat :=
  let m := 2 ^ p.w
  match st.1, st.2 with
  | [a, b, c, d, e, f, g, h], w0 :: ws =>
    let t1 := (h + bigSigma p.w p.s1 e + ((e &&& f) ^^^ ((m - 1 - e) &&& g)) + k + w0) % m
    let t2 := (bigSigma p.w p.s0 a + ((a &&& b) ^^^ (a &&& c) ^^^ (b &&& c))) % m
    let wn := (smallSigma p.w p.g1 (ws.getD 13 0) + ws.getD 8 0 + smallSigma p.w p.g0 (ws.getD 0 0) + w0) % m
    ([(t1 + t2) % m, a, b, c, (d + t1) % m, e, f, g], ws ++ [wn])
  | v, w => (v, w)

/-- Compress one block into the chaining value. -/
def shaBlock (p : ShaKind) (h : List Nat) (blk : Bytes) : List Nat :=
  let ws := (chunks (p.w / 8) blk).map ofBE
  let r := (p.k.foldl (shaRound p) (h, ws)).1
  List.zipWith (fun x y => (x + y) % 2 ^ p.w) h r

/-- Padding of a message of `len` bytes. -/
def shaPad (p : ShaKind) (len : Nat) : Bytes :=
  let blk := 2 * p.w
  let lw := p.w / 4
  let z := (blk - (len + 1 + lw) % blk) % blk
  [0x80] ++ zeros z ++ beN lw (8 * len)

/-- Hash a message from an initial value. -/
def shaRun (p : ShaKind) (iv : List Nat) (outLen : Nat) (m : Bytes) : Bytes :=
  let h := (chunks (2 * p.w) (m ++ shaPad p m.length)).foldl (shaBlock p) iv
  (h.flatMap (beN (p.w / 8))).take outLen

/-- SHA-256 initial value. -/
def sha256IV : List Nat :=
  [0x6a09e667, 0xbb67ae85, 0x3c6ef372, 0xa54ff53a, 0x510e527f, 0x9b05688c, 0x1f83d9ab, 0x5be0cd19]

/-- SHA-384 initial value. -/
def sha384IV : List Nat :=
  [0xcbbb9d5dc1059ed8, 0x629a292a367cd507, 0x9159015a3070dd17, 0x152fecd8f70e5939,
   0x67332667ffc00b31, 0x8eb44a8768581511, 0xdb0c2e0d64f98fa7, 0x47b5481dbefa4fa4]

/-- SHA-512 initial value. -/
def sha512IV : List Nat :=
  [0x6a09e667f3bcc908, 0xbb67ae8584caa73b, 0x3c6ef372fe94f82b, 0xa54ff53a5f1d36f1,
   0x510e527fade682d1, 0x9b05688c2b3e6c1f, 0x1f83d9abfb41bd6b, 0x5be0cd19137e2179]

/-- SHA-256. -/
def sha256 (m : Bytes) : Bytes := shaRun sha256Kind sha256IV 32 m

/-- SHA-384. -/
def sha384 (m : Bytes) : Bytes := shaRun sha512Kind sha384IV 48 m

/-- SHA-512. -/
def sha512 (m : Bytes) : Bytes := shaRun sha512Kind sha512IV 64 m

/-- The three digest algorithms of the digest lanes (R249). -/
inductive HashAlg where
  | sha256
  | sha384
  | sha512
  deriving DecidableEq, Repr

/-- The digest of a message. -/
def HashAlg.run : HashAlg → Bytes → Bytes
  | .sha256, m => Sys2Proof.Machine.sha256 m
  | .sha384, m => Sys2Proof.Machine.sha384 m
  | .sha512, m => Sys2Proof.Machine.sha512 m

/-- Digest length in bytes. -/
def HashAlg.len : HashAlg → Nat
  | .sha256 => 32
  | .sha384 => 48
  | .sha512 => 64

/-- Block length in bytes. -/
def HashAlg.block : HashAlg → Nat
  | .sha256 => 64
  | .sha384 => 128
  | .sha512 => 128

/-- HMAC (FIPS 198-1). -/
def hmac (a : HashAlg) (key msg : Bytes) : Bytes :=
  let k0 := fit a.block (if key.length > a.block then a.run key else key)
  a.run (k0.map (· ^^^ 0x5c) ++ a.run (k0.map (· ^^^ 0x36) ++ msg))

/-- HMAC-SHA-384, the composition of R67. -/
def hmac384 (key msg : Bytes) : Bytes := hmac .sha384 key msg

/-- The message that pure ML-DSA signs under a context string (FIPS 204, the form that R74 names). -/
def mlDsaPure (ctx m : Bytes) : Bytes := [0] ++ leN 1 ctx.length ++ ctx ++ m

/-- One bit step of the reflected CRC-32C register (polynomial 0x1EDC6F41). -/
def crcBit (c : Nat) : Nat := if c % 2 = 1 then (c / 2) ^^^ 0x82F63B78 else c / 2

/-- One byte enters the CRC-32C register. -/
def crcByte (c : Nat) (b : Byte) : Nat :=
  crcBit (crcBit (crcBit (crcBit (crcBit (crcBit (crcBit (crcBit (c ^^^ b.toNat))))))))

/-- CRC-32C of a byte string, the check word of the MRAM records (R90). -/
def crc32c (b : Bytes) : Nat := b.foldl crcByte 0xFFFFFFFF ^^^ 0xFFFFFFFF

/-- First 8 bytes of SHA-256, the form of a Logbook value digest half (R446). -/
def h8 (b : Bytes) : Bytes := (sha256 b).take 8

/-- First 16 bytes of SHA-256, the form of a Logbook chain link (R446). -/
def h16 (b : Bytes) : Bytes := (sha256 b).take 16

end Sys2Proof.Machine
end

