-- ==== Sys2Proof/Machine/StateA.lean ====
section
/-! DEFINITION. State of the core, the start, the Halter and the Stile ports (files 00 to 06, 20, 21). -/

namespace Sys2Proof.Machine

open Sys2Proof

/-- The operating states of R17. -/
inductive Op where
  | off | booting | holding | running | recovery | alarmHalt | deepSleep
  deriving DecidableEq, Repr

/-- Reset causes of R547, in the ENUM order of R549. -/
inductive ResetCause where
  | powerOn | sysRst | fwRestart | trialExpired | alarmClear | cascade | lcToken | refclkLoss | wake
  deriving DecidableEq, Repr

/-- Wake sources of R545, in the ENUM order of R549. -/
inductive WakeSource where
  | none | hi | timer | perst | alarm
  deriving DecidableEq, Repr

/-- Operating state, frame count and scratch register (R5, R17, R31, R32, R522). `tick` counts the frames since the
start; it differs from `frameCt` only by a master's count adopted under R31, and it times every duration (log 1). -/
structure Core where
  op : Op
  before : Op
  zSince : Bool
  frameCt : Nat
  tick : Nat
  frameHi : BitVec 32
  scratch : BitVec 32
  resetCause : ResetCause
  starts : Nat
  wakeLast : WakeSource
  fullReset : Option ResetCause
  deriving DecidableEq, Repr

/-- The wake record that stage 1 leaves in retention SRAM (text before R95): the fields under the MAC, then the facts that
R95 and the handover need beside them (log 90). -/
structure WakeRec where
  bodyDigest : Bytes
  slotB : Bool
  svn : Nat
  ledgerSeq : Nat
  mac : Bytes
  byCommand : Bool
  retained : Bool
  lcCode : Nat
  keyIndex : Nat
  release : Nat
  deriving DecidableEq, Repr

/-- Supplies, straps, clocks, domains, sleep (R491, R532 to R549). `sram` is what the hardware loader wrote to service SRAM:
load address and body (R76). -/
structure Pwr where
  vinGood : Bool
  vinMv : Nat
  vioMg : Bool
  sysRst : Bool
  perst : Bool
  link : Bool
  pll : Bool
  clkLost : Option Nat
  hoPol : BitVec 4
  cascadeId : BitVec 3
  bootSel : BitVec 2
  vioSensed : List Nat
  ppm : Int
  gated : BitVec 152
  waking : List (Nat × Nat)
  sleepAt : Option Nat
  sleepReq : Bool
  poweredDown : Bool
  wakeLatched : Option WakeSource
  vbatOk : Bool
  sramKept : Bool
  sram : Option (Nat × Bytes)
  wakeRec : Option WakeRec
  halted : Bool
  deriving DecidableEq, Repr

/-- Supply hold and its reporting (R491 to R495, R505). -/
structure Sup where
  crossing : Bool
  hold : Bool
  holdFrames : Nat
  calm : Nat
  begun : List Nat
  holds : Nat
  longest : Nat
  lastEntry : Option Nat
  counted : Nat
  countedLongest : Nat
  abortDue : Bool
  deriving DecidableEq, Repr

/-- The fuses of R69. `rsv` are the reserved fuses that are not said to read 0, in ascending order. FUSE_ECC follows from the
words (`Fuse.check`); `flips` lists what senses other than it was blown: word and bit, 64 to 71 for the check bits. -/
structure Fuse where
  serial : BitVec 64
  mfgInfo : BitVec 64
  uds : Bytes
  vendorDigest : List Bytes
  vendorRevoke : BitVec 32
  arbFloor : BitVec 255
  lcState : BitVec 64
  owner0 : Bytes
  owner1 : Bytes
  ownerAlg : BitVec 2
  debugKey : Bytes
  bfMode : BitVec 2
  bootselLock : Bool
  rsv : BitVec 156
  flips : List (Nat × Nat)
  deriving DecidableEq, Repr

/-- Slot states of R90. -/
inductive SlotState where
  | empty | writing | staged | active | trial | bad | retired
  deriving DecidableEq, Repr

/-- Image slots: A and B of the device and of a port, R of a port (R146). -/
inductive Slot where
  | a | b | r
  deriving DecidableEq, Repr

/-- The bytes of the two banks of an MRAM record store (R90, R170, R468). -/
structure Banks where
  bank0 : Bytes
  bank1 : Bytes
  deriving DecidableEq, Repr

/-- A record of the device-firmware slot ledger (R90). -/
structure DevLedger where
  seq : BitVec 32
  active : Option Slot
  trial : Option Slot
  stA : SlotState
  stB : SlotState
  count : Nat
  target : Nat
  svnA : Nat
  svnB : Nat
  digA : Bytes
  digB : Bytes
  deriving DecidableEq, Repr

/-- A boot record of R65. -/
structure BootRecord where
  slotB : Bool
  reason : Nat
  svn : Nat
  frame : Nat
  logged : Bool
  deriving DecidableEq, Repr

/-- The header facts the dictionary reports of a slot (R98). -/
structure HeaderInfo where
  release : Nat
  digest : Bytes
  keyIndex : Nat
  svn : Nat
  deriving DecidableEq, Repr

/-- The handover buffer of R86. -/
structure Handover where
  kv : Bytes
  cdi1 : Bytes
  sId : Bytes
  sAud : Bytes
  slotB : Bool
  path : Nat
  svn : Nat
  floor : Nat
  fallback : Bool
  lastFail : Nat
  findings : Nat
  deriving DecidableEq, Repr

/-- Start state (R62 to R98). -/
structure Boot where
  romLock : Bool
  coreRelease : BitVec 3
  handoverLock : Bool
  handover : Option Handover
  ledger : Banks
  records : List BootRecord
  slotB : Bool
  path : Nat
  trial : Bool
  fallback : Bool
  svn : Nat
  floor : Nat
  lastFail : Nat
  release : Nat
  keyIndex : Nat
  bodyDigest : Bytes
  retain : Bool
  infoA : HeaderInfo
  infoB : HeaderInfo
  romDone : Bool
  stuck : Option Nat
  tackBuilt : Bool
  trialFrom : Option Nat
  findH : Bool
  cdi1 : Bytes
  sId : Bytes
  sAud : Bytes
  bootKey : Bytes
  deriving DecidableEq, Repr

/-- Schedule states of `HALTER_STEP.STATE` (R115). PAUSED is derived under R112. -/
inductive HalSt where
  | idle | running | done | stopped
  deriving DecidableEq, Repr

/-- One release-schedule step (R107). -/
structure HStep where
  wait : Nat
  operand : Nat
  action : Nat
  last : Bool
  cont : Bool
  mask : BitVec 32
  count : Nat
  width : Nat
  deriving DecidableEq, Repr

/-- The Halter (R99 to R116). Levels: 1 is asserted. `samples` are the raw levels of HI0 to HI31 at the last four boundaries, the
newest first (R106); `met` and `fails` say what the last boundary found of the current step's wait (R109). -/
structure Hal where
  level : BitVec 32
  step : Nat
  st : HalSt
  steps : List HStep
  counted : Nat
  pulses : List (Nat × Nat)
  portHold : BitVec 4
  alarmHold : Bool
  hiLevel : BitVec 32
  samples : List (BitVec 32)
  met : Bool
  fails : Bool
  deriving DecidableEq, Repr

/-- Serving modes of R117. -/
inductive PortMode where
  | off | measure | manifest
  deriving DecidableEq, Repr

/-- Port phases of R120. -/
inductive Phase where
  | hold | verify | serve | update
  deriving DecidableEq, Repr

/-- Upstream wire state of R144. -/
inductive Wire where
  | spi | qpi | octal
  deriving DecidableEq, Repr

/-- Start verdicts (R183). -/
inductive Verdict where
  | none | pass | fail
  deriving DecidableEq, Repr

/-- A record of a port ledger (R170). -/
structure PortLedger where
  seq : BitVec 32
  active : Option Slot
  trial : Option Slot
  stA : SlotState
  stB : SlotState
  stR : SlotState
  count : Nat
  svA : Nat
  svB : Nat
  svR : Nat
  digA : Bytes
  digB : Bytes
  digR : Bytes
  deriving DecidableEq, Repr

/-- A downstream read the flash advertises: mode (1 to 6 in the ENUM order of `stile.portN.down_mode`) and its
clocks before data (R131, R142). -/
structure FlashRead where
  mode : Nat
  clocks : Nat
  deriving DecidableEq, Repr

/-- What the attach probe of R122 and R142 finds on a port. `octal` is the flash's own command sequence to 8D-8D-8D. -/
structure Probe where
  id0 : Bytes
  id1 : Bytes
  sizeKib : Nat
  reads : List FlashRead
  octal : List Bytes
  deriving DecidableEq, Repr

/-- The downstream read in use: mode, clocks before data, clock in kHz (R131, R142). -/
structure DownRead where
  mode : Nat
  clocks : Nat
  khz : Nat
  deriving DecidableEq, Repr

/-- An allow-list record of R136. -/
structure AllowRec where
  opcode : Nat
  cls : Nat
  phases : Nat
  wires : Nat
  deriving DecidableEq, Repr

/-- One Stile port (R117 to R184). `busyCs` and `pollAt` belong to a passed write: its chip select, and the frame from which the
next status poll may come (R141, R143). `measBits` and `measLead` are the data bits that the measurement read has taken and the
command bits still to send (R25). `sweepAt` counts the blocks that the running sweep has verified, and `sweepRead` tells that the
next one has been read (R164). -/
structure Port where
  mode : PortMode
  phase : Phase
  attached : Bool
  recAttached : Bool
  wire : Wire
  addr4 : Bool
  flashId : Bytes
  flashSize : Nat
  reads : List FlashRead
  down : Option DownRead
  wel : Bool
  busyUntil : Option Nat
  passedBusy : Bool
  busyCs : Nat
  pollAt : Nat
  resetArmed : Bool
  refused : Nat
  lateBytes : Nat
  unknown : Nat
  refEntryAt : Option Nat
  refSince : Nat
  refSealed : Nat
  verdict : Verdict
  reason : Nat
  serving : Option Slot
  cand : Option Slot
  fallbackOf : Option Slot
  trialServed : Bool
  debts : List Nat
  tagPend : List (Nat × Bytes)
  overflow : Bool
  debtOverflows : Nat
  tagFail : Nat
  failAt : Option Nat
  sweep : Option Nat
  sweepAgain : Bool
  sweepLate : Bool
  sweepAt : Nat
  sweepRead : Bool
  trialEnd : Option Nat
  recoverDue : Bool
  recovering : Bool
  recHold : Bool
  measDigest : Option Bytes
  measBits : Nat
  measLead : Nat
  manOk : List Bool
  ledger : Banks
  tagSecret : Bytes
  tagKey : Option (Nat × Nat)
  shedBase : Nat
  tagBase : Nat
  dummy : List Nat
  fastMax : Nat
  sfdp : Bytes
  allow : List AllowRec
  deriving DecidableEq, Repr

/-- Firmware-device states of DSP0267 in the order of R184. -/
inductive FdState where
  | idle | learn | ready | download | verify | apply | activate
  deriving DecidableEq, Repr

/-- A portion of a component with what programming it and, for the last one, reading it back gives (R179). -/
structure Portion where
  data : Bytes
  flashOk : Bool
  readback : Option (List Bytes)
  deriving DecidableEq, Repr

/-- The PLDM firmware device (R176 to R180, R184). `portion` waits for the end of a supply hold; `readback` is what the readback
under way will find; `checking` tells that the signature of the component's manifest is being checked (R152). -/
structure Pldm where
  st : FdState
  component : Nat
  received : Nat
  size : Nat
  stamp : Nat
  xfer : Nat
  transport : Nat
  target : Option Slot
  data : Bytes
  manifestDone : Bool
  updated : List (Nat × Slot)
  portion : Option Portion
  readback : Option (List Bytes)
  checking : Bool
  deriving DecidableEq, Repr

end Sys2Proof.Machine
end

