-- ==== Sys2Proof/Machine/StateC.lean ====
section
/-! DEFINITION. State of the dictionary, Logbook, life cycle, monitors and attention tree (files 15 to 19). -/

namespace Sys2Proof.Machine

open Sys2Proof

/-- A protected channel: the origin interface code of R447 (3 mailbox, 4 VDM, 5 and 6 IC2 and IC3, 7 and 8 ME0 and
ME1, 9 Cucen Link) and the SPDM session or DTLS connection that carries it. -/
structure Chan where
  iface : Nat
  id : Nat
  deriving DecidableEq, Repr

/-- A dictionary response as R428 lays it out: status, the word of bytes 12 to 13, payload. -/
structure Reply where
  status : Nat
  info : Nat
  payload : Bytes
  deriving DecidableEq, Repr

/-- A dictionary session (R425 to R429). `role` is the role code of R419, 0 before AUTH; `lastOp` the operation of the last
request. -/
structure Sess where
  slot : Nat
  id : Nat
  chan : Chan
  cred : Nat
  role : Nat
  keyDig : Bytes
  nonce : Bytes
  lastSeq : Nat
  lastOp : Nat
  lastReply : Option Reply
  busy : Bool
  staging : Option (Nat × Bytes)
  lastAt : Nat
  deriving DecidableEq, Repr

/-- A live proposal (R434). `target` is byte 11 of the request (R428): 0, or 8 and the stack member that it addresses. -/
structure Proposal where
  id : Nat
  key : Nat
  target : Nat
  value : Bytes
  cred : Nat
  keyDig : Bytes
  slot : Nat
  iface : Nat
  expiry : Nat
  deriving DecidableEq, Repr

/-- A dictionary bank (R439): the snapshot is the list of stored values that differ from their defaults. -/
structure DictBank where
  seq : Nat
  changes : Nat
  vals : List (Nat × Bytes)
  deriving DecidableEq, Repr

/-- A DTLS connection of R423. -/
structure Dtls where
  port : Nat
  id : Nat
  lastAt : Nat
  deriving DecidableEq, Repr

/-- The object dictionary (R416 to R441). Keys are index times 256 plus sub-index. -/
structure Dict where
  vals : List (Nat × Bytes)
  bankA : Option DictBank
  bankB : Option DictBank
  changes : Nat
  committed : Nat
  restoreKept : Nat
  serials : List (Nat × Nat)
  proposals : List Proposal
  nextProp : Nat
  sessions : List Sess
  ended : List (Nat × Nat)
  dead : Nat
  authFails : List (Chan × Nat)
  conns : List Dtls
  endSess : List Nat
  endConns : List Nat
  deriving DecidableEq, Repr

/-- The content of a Logbook entry before it has a sequence, a stamp and a link (R446). `mon` marks an alarm entry
with its monitor number for the order of R444. `fixedStamp` is the stamp a FIFO entry brings (R452). -/
structure LogDesc where
  iface : Nat
  detail : Nat
  role : Nat
  code : Nat
  ref : Nat
  old : Bytes
  new : Bytes
  mon : Option Nat
  fixedStamp : Option Nat
  deriving DecidableEq, Repr

/-- A head record of R445. -/
structure LogHead where
  next : Nat
  link : Bytes
  deriving DecidableEq, Repr

/-- Life cycle and debug (R462 to R481). The progress mark is R468's. -/
structure LcMark where
  seq : BitVec 32
  source : Nat
  target : Nat
  step : Nat
  record : Bytes
  deriving DecidableEq, Repr

/-- Life-cycle and debug state. `scopes` bit 0 STEWARD_HALT, 1 TRACE, 2 YARD_DIAG. -/
structure Lc where
  mark : Banks
  epoch : Nat
  scopes : BitVec 3
  scopesDue : BitVec 3
  nonce : Option (Bytes × Nat)
  jtagNonce : Option Bytes
  deriving DecidableEq, Repr

/-- A backup event FIFO entry (R502). -/
structure FifoRec where
  secs : Nat
  mon : Nat
  cls : Nat
  hold : Bool
  battery : Bool
  count : Nat
  deriving DecidableEq, Repr

/-- Test results of `mon.test.result` (R506). -/
inductive TestResult where
  | none | running | pass | fail
  deriving DecidableEq, Repr

/-- Monitors and backup domain (R482 to R506). Classes: 0 L, 1 T, 2 H, 3 Z. `cfg` holds the configurations in force, which the
backup domain keeps while main power is off (log 40). -/
structure Mon where
  latched : BitVec 24
  cls : List Nat
  active : BitVec 24
  inactiveAt : List Nat
  due : BitVec 24
  zDue : Bool
  temps : List Int
  word : BitVec 24
  wordZ : BitVec 24
  fifo : List FifoRec
  holdRec : Bool
  valid : Bool
  fifoAtStart : List FifoRec
  rootLost : Bool
  backupLost : Bool
  testMon : Nat
  testEnd : Option Nat
  testResult : TestResult
  heldBack : BitVec 24
  cfg : List Nat
  deriving DecidableEq, Repr

/-- The attention tree (R507 to R516), and MSI-X (R517, R520): functions with MSI-X enabled, table entries that differ from
their reset value, pending bits. Entry and pending keys are 64 times the function plus the vector. -/
structure Atn where
  cause : List (BitVec 16)
  enable : List (BitVec 16)
  fresh : List (BitVec 16)
  irqEn : Bool
  pin : Bool
  rearm : Bool
  dueEn : List (Nat × BitVec 16)
  pfEn : List (Nat × BitVec 16)
  msixEn : List Nat
  table : List (Nat × Bytes)
  pend : List Nat
  deriving DecidableEq, Repr

end Sys2Proof.Machine
end

