-- ==== Sys2Proof/Machine/StateB.lean ====
section
/-! DEFINITION. State of partners, Tack Room, Yard, paddocks and cascade (files 07 to 14). -/

namespace Sys2Proof.Machine

open Sys2Proof

/-- Partner entry states of R190. -/
inductive PState where
  | empty | found | endpoint | attesting | pass | fail | departed
  deriving DecidableEq, Repr

/-- A partner table entry and the attestation run on it (R190, R194, R197). `runNo` numbers the runs, `half` is the device's half of
the session ID (R210), `sessAt` the last traffic of its session (R209), `lastTag` the message tag last used towards it (R200), and
`checking` tells that a C0 programme checks what the partner has answered (R195). -/
structure Partner where
  st : PState
  bus : Nat
  addr : Nat
  eid : Nat
  pid : Bytes
  bcr : Nat
  dcr : Nat
  version : Nat
  reason : Nat
  sig : Nat
  hash : Nat
  session : Nat
  departures : Nat
  verdictAt : Nat
  chainDig : Bytes
  measDig : Bytes
  noPolicy : Bool
  step : Nat
  attempts : Nat
  waiting : Bool
  tag : Nat
  chain : Bytes
  summary : Bytes
  missed : Nat
  again : Bool
  restart : Bool
  sentAt : Nat
  polledAt : Nat
  runNo : Nat
  half : Nat
  sessAt : Nat
  lastTag : Nat
  checking : Bool
  deriving DecidableEq, Repr

/-- A signed response that a connection owes (R202): its code and parameters, the request's payload, when it was asked for, how
many of its C0 programmes are still to end, and whether ResponseNotReady has been sent for it. -/
structure Owed where
  code : Nat
  a : Nat
  b : Nat
  payload : Bytes
  askedAt : Nat
  left : Nat
  told : Bool
  deriving DecidableEq, Repr

/-- A responder connection with one SPDM requester (R201, R202). -/
structure SpdmConn where
  transport : Nat
  peer : Nat
  version : Nat
  stage : Nat
  owed : Option Owed
  transcript : Bytes
  measFrom : Option Nat
  deriving DecidableEq, Repr

/-- A responder session (R209, R210). -/
structure SpdmSess where
  id : Nat
  transport : Nat
  peer : Nat
  chainDig : Bytes
  established : Bool
  lastAt : Nat
  th2 : Bytes
  keyEpoch : Nat
  deriving DecidableEq, Repr

/-- Partners, endpoint IDs, SPDM (R185 to R211). `blocks` are the measurement blocks as they stood at the last boundary, and
`measSerial` counts their changes (R208); `aliasCert` is the Alias certificate of this start (R204). `ended` holds the device's halves of
session IDs that have ended (R210). -/
structure Par where
  table : List Partner
  ic0 : Bool
  ic1 : Bool
  eidQuar : List (Nat × Nat)
  addrQuar : List (Nat × Nat × Nat)
  dyn2 : Option Nat
  dyn3 : Option Nat
  eidIc2 : Nat
  eidIc3 : Nat
  eidPcie : Nat
  late : Nat
  dead : Nat
  conns : List SpdmConn
  sessions : List SpdmSess
  ended : List (Nat × Nat)
  deadTags : List (Nat × Nat × Nat)
  strays : List (Nat × Nat)
  measSerial : Nat
  blocks : List (Nat × Bytes)
  aliasCert : Bytes
  reattestAt : Nat
  deriving DecidableEq, Repr

/-- Key states of R214. EMPTY and RETIRED slots hold no key record. -/
inductive KeyState where
  | active | draining | exhausted | revoked | lost
  deriving DecidableEq, Repr

/-- The attribute record of R214 and the secret of R212, for the run that begins at `slot`. -/
structure Key where
  slot : Nat
  run : Nat
  typ : Nat
  st : KeyState
  depth : Nat
  initial : Bool
  exportCls : Nat
  debugOff : Bool
  persistent : Bool
  gen : Nat
  world : BitVec 5
  lcMask : BitVec 6
  usage : BitVec 13
  owner : Nat
  group : Nat
  shared : Bool
  parent : Option (Nat × Nat)
  useCount : Nat
  useLimit : Nat
  secret : Bytes
  mark : Nat
  origin : Option Nat
  drainEnd : Option Nat
  deriving DecidableEq, Repr

/-- The attributes a key command asks for (R227, R247, R349). -/
structure NewKey where
  typ : Nat
  flags : Nat
  world : Nat
  lcMask : Nat
  usage : Nat
  owner : Nat
  limit : Nat
  deriving DecidableEq, Repr

/-- Who asks for a key command (R226): a paddock's job, an officer, or service firmware. -/
inductive KeyReq where
  | paddock (p : Nat) (job : Nat)
  | officer
  | steward
  deriving DecidableEq, Repr

/-- A key command of R226 as R247 or a job carries it. -/
structure KeyCmd where
  code : Nat
  method : Nat
  handle : Nat
  parent : Nat
  attrs : NewKey
  timeout : Nat
  data : Bytes
  req : KeyReq
  deriving DecidableEq, Repr

/-- The MRAM record of a persistent key (R224, R243): its attribute record in clear, the use mark, and the secret wrapped under
RFC 5649. -/
structure KeyRecord where
  slot : Nat
  attrs : Bytes
  mark : Nat
  wrapped : Bytes
  deriving DecidableEq, Repr

/-- The Tack Room (R212 to R248). `gens` lists the non-zero slot generations; `hampers` gives slot and generation of the
hamper key of a paddock (R267). `srk` and `bootKey` stand in the backup key RAM beside the check value `srkCheck`, which offset 64
holds (R242). -/
structure Tack where
  keys : List Key
  gens : List (Nat × Nat)
  retired : List Nat
  mram : List KeyRecord
  ptr : Nat
  sptr : Nat
  hampers : List (Nat × Nat × Nat)
  srk : Option Bytes
  srkCheck : Bytes
  bootKey : Option Bytes
  sweeps : Nat
  swept : Nat
  mono : List Nat
  drbgOk : Bool
  draws : Nat
  result : Bytes
  exported : Bytes
  inspect : Nat
  strikes : List (Nat × Nat)
  cmdsThisFrame : Nat
  loads : List (Nat × Nat)
  deriving DecidableEq, Repr

/-- Lane kinds of R43 and R50. -/
inductive LaneKind where
  | tag | pk | lattice | block | digest
  deriving DecidableEq, Repr

/-- One lane row (R50); a pair is one lane. `load` is the load record of R222, `regs` the working key register, with one copy per
member of a pair (R220), `operands` what the operand memory of a pair holds after the input screen (R298, R316). `spent` tells that
a load failed on it in this frame (R221). -/
structure Lane where
  job : Option Nat
  zero : Nat
  disabled : Bool
  quarantine : Bool
  needTest : Bool
  load : List Nat
  regs : List Bytes
  operands : List Bytes
  spent : Bool
  deriving DecidableEq, Repr

/-- Where a job comes from: a paddock, a Register Digest Window, the master of the stack with its job number and the
paddock's shared-group mask (R408), one signature of a
batch verification (R313), or the wrapping or unwrapping of a hamper for a stream job (R266). -/
inductive JobSrc where
  | paddock
  | window (steward : Bool)
  | peer (master mask : Nat)
  | part (parent : Nat)
  | hamper (job stream : Nat) (out : Bool)
  deriving DecidableEq, Repr

/-- An accepted job (R44, R373). `accAt` is the frame that orders its queue, `readyAt` the frame in which it became
ready, `data` its source bytes followed by the expected value a compare form reads, `clsTyp` the key
type by which a MAC job was classed (R285). -/
structure Job where
  id : Nat
  src : JobSrc
  pad : Nat
  pgen : Nat
  group : Nat
  op : Nat
  tag : Nat
  ring : Nat
  pushed : Bool
  quiet : Bool
  inl : Bool
  keyA : Nat
  keyB : Nat
  param : Nat
  srcLen : Nat
  dstLen : Nat
  dstAddr : Nat
  data : Bytes
  short : Bool
  ready : Bool
  readyAt : Nat
  accAt : Nat
  cls : Nat
  clsTyp : Option Nat
  kind : LaneKind
  steps : Nat
  taken : Nat
  segmented : Bool
  lane : Option Nat
  lastLane : Nat
  loadedA : Option Key
  loadedB : Option Key
  begun : Bool
  held : Bool
  drawNo : Nat
  status : Option Nat
  result : Bytes
  dest : Bytes
  resLen : Nat
  newKey : Option Key
  settled : Bool
  completeAt : Option Nat
  forwarded : Option Nat
  passed : Nat
  waitsLog : Bool
  acks : List Nat
  deriving DecidableEq, Repr

/-- A sheet of the stored Timetable (R49, R50). -/
structure Sheet where
  len : Nat
  lend : Bool
  body : Bytes
  deriving DecidableEq, Repr

/-- The stored Timetable (R49 to R51). -/
structure Timetable where
  serial : Nat
  safe : Nat
  sheets : List Sheet
  image : Bytes
  deriving DecidableEq, Repr

/-- What a C0 programme on a pair is for, which goes on when it ends (R38): a write or an approval that waits for a signature
check or a key pair (R152, R226), an AUTH (R425), the manifest of an update (R179), a responder's signature or ECDH (R202), or the
check of what a partner has answered in attestation run `run` (R195), with `left` further programmes to come. The members of the pair
agree (log 121). -/
inductive C0End where
  | auth (x : Sess) (seq : Nat) (key : Bytes) (ok : Bool)
  | write (x : Sess) (key : Nat) (v : Bytes)
  | approve (x : Sess) (id : Nat) (digest : Bytes)
  | update
  | sign (transport peer : Nat)
  | partner (k run left : Nat) (payload : Bytes) (ok : Bool) (session : Nat)
  deriving DecidableEq, Repr

/-- The device jobs that take frames in this model (R38, R168, R195, R202, R226, R233, R324, R455, R497). `digest` hashes what a
port's verification reads, step by step; `pair` runs on a PK pair or on a lattice pair, in C0 slots and, where `c2`, in C2 slots. -/
inductive DevWhat where
  | sweep
  | selfTest (lane : Nat)
  | zeroPass
  | checkpoint
  | pairCheck (lane : Nat)
  | digest (port frames : Nat)
  | pair (lattice c2 : Bool) (frames : Nat) (after : C0End)
  deriving DecidableEq, Repr

/-- A device job: since when it is ready, its lane and the steps it has taken. -/
structure DevJob where
  id : Nat
  what : DevWhat
  since : Nat
  lane : Option Nat
  taken : Nat
  deriving DecidableEq, Repr

/-- The mask generator of a pair (R301): the DRBG draw that seeded it and the programmes that it has served since. -/
structure MaskGen where
  seed : Nat
  served : Nat
  deriving DecidableEq, Repr

/-- The Yard (R29 to R61, R300 to R330, R497). `masks` are the mask generators of the 24 pairs, and `waiting` the jobs of each
reserve group that waited at the last boundary (R61). -/
structure Yard where
  lanes : List Lane
  masks : List MaskGen
  waiting : List (Nat × Nat)
  sheet : Nat
  base : Nat
  pending : Option Nat
  safeDue : Bool
  loadDue : Bool
  safe : Bool
  timetable : Option Timetable
  leaving : Option Timetable
  rr : List (Nat × Nat)
  dispatched : List (Nat × Nat)
  faults : Nat
  faultFrames : List Nat
  screenRejects : Nat
  signRetry : Nat
  curveRejects : Nat
  macSegmented : Nat
  macMismatch : Nat
  pinBad : Nat
  dukptExh : Nat
  arqcMis : Nat
  pinTrans : Nat
  hampersOut : Nat
  hampersIn : Nat
  hampersRef : Nat
  lastPeriod : Nat
  ctxReserve : Nat
  deriving DecidableEq, Repr

/-- Paddock states of R360. -/
inductive PadState where
  | disabled | enabled | resetting
  deriving DecidableEq, Repr

/-- Registers and counts of one ring (R370, R371, R377, R378). -/
structure Ring where
  sqBase : Nat
  cqBase : Nat
  depthLog2 : Nat
  enable : Bool
  active : Bool
  code : Nat
  tail : Nat
  head : Nat
  sqHead : Nat
  error : Bool
  cqNext : Nat
  written : Nat
  jobs : Nat
  sealed : Nat
  fetched : Nat
  deriving DecidableEq, Repr

/-- A push-window slot (R375). -/
structure PushSlot where
  num : Nat
  data : Bytes
  dwords : BitVec 16
  sealed : Bool
  deriving DecidableEq, Repr

/-- A digest stream (R263 to R268): table entry and state. `absorbed` stands for the chaining state and buffer. -/
structure Stream where
  num : Nat
  handle : Nat
  alg : HashAlg
  key : Option (Nat × Nat × Nat)
  secret : Bytes
  absorbed : Bytes
  onChip : Bool
  exportSeq : Nat
  lastUse : Nat
  deriving DecidableEq, Repr

/-- A dirty-page log (R391 to R393): active bitmap and the bits set in it. -/
structure DirtyLog where
  base : Nat
  first : Nat
  pages : Nat
  bits : List Nat
  deriving DecidableEq, Repr

/-- A configured paddock (R358 to R395). -/
structure Pad where
  num : Nat
  st : PadState
  group : Nat
  keyQuota : Nat
  ctxQuota : Nat
  streamLimit : Nat
  rings : Nat
  maxDepth : Nat
  families : BitVec 7
  shared : BitVec 16
  hamperBase : Nat
  pasid : Nat
  ring : List Ring
  slots : List PushSlot
  atn : BitVec 7
  atnNew : BitVec 7
  atnEn : BitVec 7
  refTag : Nat
  refRing : Nat
  refSlot : Nat
  refCode : Nat
  refCount : Nat
  accepted : Nat
  queueFull : Nat
  pushFaults : Nat
  resets : Nat
  sinceQuery : Nat
  streams : List Stream
  streamGens : List (Nat × Nat)
  log : Option DirtyLog
  resetAt : Option Nat
  struck : Bool
  destroy : Bool
  mgrWaits : List Nat
  deriving DecidableEq, Repr

/-- Paddock generations and export counters kept in MRAM (R385, R386). -/
structure Pmem where
  pgen : List (Nat × Nat)
  expCtr : List (Nat × Nat)
  expMark : List (Nat × Nat)
  deriving DecidableEq, Repr

/-- A descriptor that has reached the front end (R379). -/
structure FrontDesc where
  pad : Nat
  ring : Nat
  slot : Option Nat
  data : Bytes
  deriving DecidableEq, Repr

/-- What an outstanding non-posted read is for (R390). -/
inductive ReadFor where
  | fetch (ring count : Nat)
  | source (job : Nat)
  deriving DecidableEq, Repr

/-- An outstanding non-posted read (R390). -/
structure PciRead where
  tag : Nat
  pad : Nat
  what : ReadFor
  at_ : Nat
  deriving DecidableEq, Repr

/-- The PCIe side: SR-IOV, PASID, front end, reads, manager mailbox (R359, R360, R364, R379, R390). `turn` is 4 × paddock + ring
of the ring at which the fetch engine goes on (R379, log 114). -/
structure Pci where
  vfEnable : Bool
  numVfs : Nat
  pasid : Bool
  front : List FrontDesc
  accepted : Nat
  reads : List PciRead
  quar : List (Nat × Nat)
  nextTag : Nat
  turn : Nat
  lateCpl : Nat
  mgrCmd : Bytes
  mgrBusy : Bool
  mgrCode : Nat
  mgrResult : Bytes
  mgrDiscard : Bool
  mboxEnd : Bool
  pResult : Bytes
  deriving DecidableEq, Repr

/-- A Register Digest Window (R270 to R275). -/
structure Rdw where
  alg : Nat
  keyed : Bool
  compare : Bool
  key : Nat
  length : Nat
  lastCount : Nat
  st : Nat
  early : Bool
  code : Nat
  free : Nat
  expLen : Nat
  result : Bytes
  expect : Bytes
  words : Nat
  half : Option Bytes
  msg : Bytes
  job : Option Nat
  deriving DecidableEq, Repr

/-- The object dictionary mailbox registers (R424). -/
structure Dmb where
  req : Bytes
  resp : Bytes
  len : Nat
  busy : Bool
  valid : Bool
  respLen : Nat
  deriving DecidableEq, Repr

/-- Stack roles of R399. -/
inductive CasRole where
  | standalone | master | member | orphan
  deriving DecidableEq, Repr

/-- A keyed link to a peer, a member or 8 for the master (R402): the keys of both directions, the messages since they were made,
and when that was. -/
structure LinkKey where
  peer : Nat
  keys : Bytes
  msgs : Nat
  keyedAt : Nat
  deriving DecidableEq, Repr

/-- The Cucen Link (R396 to R415). `arrived` holds the replica changes to be applied at the next boundary (R406); `fwd` tells that the
CL0-CL1 forwarder runs (R398). -/
structure Cas where
  enabled : Bool
  fwd : Bool
  role : CasRole
  present : BitVec 8
  lost : BitVec 8
  cl0 : Bool
  cl1 : Bool
  tickOffset : Int
  formAt : Option Nat
  formDone : Bool
  credits : List Nat
  suspect : List (Nat × Nat)
  links : List LinkKey
  forwarded : Nat
  peerLost : Nat
  acksWaited : List (Nat × Nat × List Nat)
  changes : List (Nat × Nat × Nat)
  cancels : List Nat
  arrived : List (Nat × Nat × Bytes)
  remote : Option (Nat × Nat × Bool)
  orphanDue : Bool
  deriving DecidableEq, Repr

/-- A requested or recorded change that takes effect when its Logbook entry is written (R14, R444). -/
inductive Effect where
  | none
  | entry (key : Nat) (value : Bytes) (cred : Nat)
  | propose (p : Proposal)
  | approve (id : Nat) (cred : Nat)
  | remote (target key : Nat) (value : Bytes) (answer : Reply)
  | job (id : Nat)
  | manager (cmd : Bytes) (sess : Option Nat)
  | withdraw (p : Proposal) (code : Nat)
  deriving DecidableEq, Repr

/-- An entry that is due and the change that waits for it (R444). -/
structure LogDue where
  desc : LogDesc
  eff : Effect
  due : Nat
  deriving DecidableEq, Repr

/-- The Logbook (R442 to R461). Entries are the raw 64 bytes of R446 or R454, oldest first. -/
structure Log where
  headA : Option LogHead
  headB : Option LogHead
  acked : Nat
  entries : List Bytes
  overwritten : Nat
  ckptLast : Nat
  timeBase : Nat
  discont : Nat
  due : List LogDue
  written : Nat
  unlogged : Nat
  ovwSince : Nat
  ovwAt : Option Nat
  winStart : Nat
  owed : Bool
  sinceCkpt : Nat
  signing : Option Bytes
  warned : Bool
  stSeen : Nat
  auditCert : Bytes
  secs : Nat
  fracFrames : Nat
  deriving DecidableEq, Repr

/-- How the Stile ends a refused command downstream so that the flash ignores it (R118): before its last address bit, before the
last bit of its first data byte, or after 3 further clocks. -/
inductive CutAt where
  | address | data | clocks
  deriving DecidableEq, Repr

/-- What the device sent, drove or answered in the last command: the model's own record (log 7). -/
inductive Out where
  | up (port : Nat) (data : Bytes)
  | down (port cs opcode addr : Nat) (data : Bytes)
  | cut (port opcode : Nat) (at_ : CutAt)
  | downSeq (port : Nat) (cmds : List Bytes)
  | undriven (port : Nat)
  | reply (sess seq status info : Nat) (payload : Bytes)
  | spdm (transport peer code : Nat) (payload : Bytes)
  | pldm (transport code : Nat) (payload : Bytes)
  | mctp (bus binding addr src dst tag : Nat) (payload : Bytes)
  | secured (transport peer session code : Nat) (payload : Bytes)
  | i3c (bus code : Nat)
  | dtls (port code : Nat)
  | read (value : Nat)
  | dmaRead (pad tag addr len : Nat)
  | dmaWrite (pad addr : Nat) (data : Bytes)
  | msix (fn vector : Nat)
  | bootFlash (opcode addrBytes khz addr len : Nat)
  | bootWrite (addr : Nat) (data : Bytes)
  | link (member code : Nat) (payload : Bytes)
  | passed (port member : Nat)
  | jtag (payload : Bytes)
  | discard
  deriving DecidableEq, Repr

end Sys2Proof.Machine
end

