-- ==== Sys2Proof/Syntax.lean ====
section
/-! DEFINITION. The commands of the EV-7100: one constructor per row of spec/opcode_table.json, with the facts the
row brings from outside the device as operands (log 6). -/

namespace Sys2Proof

open Sys2Proof.Machine

/-- Levels sampled with VIN or reset (R99, R78, R396, R532). -/
structure Straps where
  hoPol : BitVec 4
  cascadeId : BitVec 3
  bootSel : BitVec 2
  vio : List Nat
  deriving DecidableEq, Repr

/-- A request on a dictionary session: session ID, sequence, and, for a quorum entry, the session of the officer who
approves it in the same step, if any (R425 to R435). -/
structure Req where
  sid : Nat
  seq : Nat
  approver : Option Nat
  deriving DecidableEq, Repr

/-- One reading of a boot flash slot: header bytes and body bytes, `none` for a read error or stall (R76). -/
structure BootRead where
  header : Option Bytes
  body : Option Bytes
  deriving DecidableEq, Repr

/-- What the ROM finds outside itself at a start: known-answer test results, two readings of each slot (R63), the bytes of the
resident body that the sleep has changed (R95), and the levels sampled at a full reset that no pin row brings (R532,
R568). -/
structure RomInput where
  katOk : Bool
  katFastOk : Bool
  a1 : BootRead
  a2 : BootRead
  b1 : BootRead
  b2 : BootRead
  damage : List (Nat × Byte)
  bootSel : BitVec 2
  vio : List Nat
  deriving DecidableEq, Repr

/-- A partner found on a controller port (R188, R199). `spdm`: its message types include SPDM. -/
structure Found where
  bus : Nat
  kind : Nat
  pid : Bytes
  bcr : Nat
  dcr : Nat
  eidOk : Bool
  spdm : Bool
  deriving DecidableEq, Repr

/-- What entry to HOLDING finds outside: probes of the four ports, partners, self-tests of stage 1, a good DRBG. -/
structure HoldInput where
  probes : List Probe
  found : List Found
  selfTests : Bool
  i3cTraffic2 : Bool
  i3cTraffic3 : Bool
  deriving DecidableEq, Repr

/-- Wire modes of R123 in the order 1-1-1, 1-1-2, 1-2-2, 1-1-4, 1-4-4, 4-4-4, 8D-8D-8D. -/
inductive WMode where
  | w111 | w112 | w122 | w114 | w144 | w444 | w8d
  deriving DecidableEq, Repr

/-- An upstream flash command: port, dedicated 4-byte form, wire mode, address, byte count, clock in kHz, opcode
extension right (8D), data (bytes written, or the bytes the flash returns for this read). -/
structure SpiCmd where
  port : Nat
  form4 : Bool
  wire : WMode
  addr : Nat
  len : Nat
  khz : Nat
  extOk : Bool
  data : Bytes
  deriving DecidableEq, Repr

/-- An SPDM request to the device: transport bit of R211, peer EID, version, well-formed, payload. -/
structure SpdmReq where
  transport : Nat
  peer : Nat
  version : Nat
  valid : Bool
  payload : Bytes
  deriving DecidableEq, Repr

/-- Where a manager command comes from: the mailbox, or a session with its request (R364). -/
inductive Via where
  | mailbox
  | session (r : Req)
  deriving DecidableEq, Repr

/-- An SPDM response from a partner to the device's request: message tag, source EID and address, offered versions and algorithms,
payload, and what its checks give. `session` is the session of a secured message, or the partner's half of the session ID in
KEY_EXCHANGE_RSP; `aeadOk` tells that a secured message decrypts. -/
structure Resp where
  tag : Nat
  srcEid : Nat
  srcAddr : Nat
  versions : List Nat
  sig : Nat
  hash : Nat
  dhe : Nat
  aead : Nat
  more : Bool
  payload : Bytes
  sigOk : Bool
  session : Nat
  aeadOk : Bool
  deriving DecidableEq, Repr

/-- What a device presents at step 3 of formation (R401): its DeviceID key, body and Timetable digests, whether it is in FIELD. -/
structure PeerFacts where
  peerKey : Bytes
  bodyDigest : Bytes
  timetableDigest : Bytes
  inField : Bool
  deriving DecidableEq, Repr

/-- Where a PLDM request comes from: its transport and the EID that sent it (R176, R198). -/
structure PldmFrom where
  transport : Nat
  src : Nat
  deriving DecidableEq, Repr

/-- A component as PLDM names it: classification and identifier (R176). -/
structure Component where
  cls : Nat
  id : Nat
  deriving DecidableEq, Repr

/-- Where an MCTP message comes from: its bus, its EID and, on IC0 and IC1, its address (R187, R198). -/
structure MctpFrom where
  bus : Nat
  src : Nat
  addr : Nat
  deriving DecidableEq, Repr

/-- The levels at a boundary: the monitor inputs that are active, and the HI pins (R106, R500). -/
structure Levels where
  active : Nat
  hi : BitVec 32
  deriving DecidableEq, Repr

/-- A rekey of the link to a peer, and whether it succeeds (R402). -/
structure Rekey where
  peer : Nat
  ok : Bool
  deriving DecidableEq, Repr

/-- The outcome of the steps of stack formation (R401): whether the neighbour's ID fits, the failing step or 0, the master and what it
presents, the tick offset, the two shared secrets with the transcript hash, the master's frame count, sheet and base. -/
structure FormInput where
  idOk : Bool
  master : Nat
  peer : PeerFacts
  failStep : Nat
  offset : Int
  secret : Bytes
  transcript : Bytes
  frame : Nat
  sheet : Nat
  base : Nat
  deriving DecidableEq, Repr

/-- A member's join at the master (R401): the member, what it presents, the two shared secrets with the transcript hash. -/
structure JoinInput where
  member : Nat
  actingBelow : Bool
  peer : PeerFacts
  sigOk : Bool
  secret : Bytes
  transcript : Bytes
  deriving DecidableEq, Repr

/-- The commands. `agree` says whether the primary and the twin of the pair produced the same result (R302, log 13). -/
inductive Instr where
  | vinRise (mv : Nat) (st : Straps)
  | vinFall (mv : Nat)
  | vinWarnCrossing (mv : Nat)
  | supplyHoldEnd
  | supplyHoldAbort
  | supplyHoldEpisodeEntry
  | sysRstNLow
  | sysRstNRelease (st : Straps)
  | perstNChange (high : Bool)
  | pllLock
  | refclkRecoveryTimeout
  | frameBoundary (vinMv : Nat) (levels : Levels) (temps : List Int) (ppm : Int)
  | sheetSwitch
  | domainWakeEnd (d : Nat)
  | romStart (r : RomInput)
  | getstatus
  | romLockWrite (v : BitVec 32)
  | coreReleaseWrite (v : BitVec 32)
  | handoverLockWrite (v : BitVec 32)
  | stackFormation (f : FormInput)
  | formTimeout
  | enterHolding (h : HoldInput)
  | trialWatchdogExpiry
  | releaseStepActs
  | waitTimeout
  | pulseEnd (k : Nat)
  | hiLevelChange (k : Nat) (level : Bool)
  | measurementRecorded (port : Nat) (data : Bytes)
  | startVerificationEnd (port : Nat) (data : Option (List Bytes))
  | stileRead (c : SpiCmd)
  | fastRead (c : SpiCmd)
  | dualOutputFastRead (c : SpiCmd)
  | dualIoFastRead (c : SpiCmd)
  | quadOutputFastRead (c : SpiCmd)
  | quadIoFastRead (c : SpiCmd)
  | octalDtrRead (c : SpiCmd)
  | readStatusRegister (c : SpiCmd)
  | readJedecId (c : SpiCmd)
  | readSfdp (c : SpiCmd)
  | writeEnable (c : SpiCmd)
  | writeDisable (c : SpiCmd)
  | pageProgram (c : SpiCmd)
  | quadInputPageProgram (c : SpiCmd)
  | erase4Kib (c : SpiCmd)
  | erase64Kib (c : SpiCmd)
  | chipErase (c : SpiCmd) (alt : Bool)
  | writeStatusRegister (c : SpiCmd)
  | writeVolatileConfiguration (c : SpiCmd)
  | securityRegisterCommand (c : SpiCmd) (erase : Bool)
  | enter4ByteAddressMode (c : SpiCmd)
  | exit4ByteAddressMode (c : SpiCmd)
  | enterQpi (c : SpiCmd)
  | exitQpi (c : SpiCmd)
  | resetEnable (c : SpiCmd)
  | stileReset (c : SpiCmd)
  | unknownCommand (c : SpiCmd) (opcode : Nat)
  | stnRstNLow (port : Nat)
  | refusedBusyEnd (port : Nat)
  | downstreamStatusPoll (port : Nat) (idle : Bool)
  | tagVerdict (port host : Nat) (block : Bytes)
  | debtClearRead (port : Nat)
  | sweepComplete (port : Nat)
  | sweepLate (port : Nat)
  | platformTrialExpiry (port : Nat)
  | recoveryComplete (port : Nat) (h : HoldInput)
  | queryDeviceIdentifiers (q : PldmFrom)
  | getFirmwareParameters (q : PldmFrom)
  | requestUpdate (q : PldmFrom) (maxXfer : Nat)
  | passComponentTable (q : PldmFrom) (comp : Component)
  | updateComponent (q : PldmFrom) (comp : Component) (stamp size : Nat)
  | firmwareDataReceived (q : PldmFrom) (data : Bytes) (flashOk : Bool) (readback : Option (List Bytes))
  | activateFirmware (q : PldmFrom) (selfContained : Bool)
  | getStatus (q : PldmFrom)
  | cancelUpdateComponent (q : PldmFrom)
  | cancelUpdate (q : PldmFrom)
  | pldmTimeout
  | setEndpointId (bus eid : Nat)
  | dynamicAddressAssignment (bus addr : Nat)
  | rstdaa (bus : Nat)
  | enthdr (bus transfers : Nat)
  | hotJoin (f : Found)
  | requesterResponse (k : Nat) (r : Resp)
  | requesterTimeout (k : Nat)
  | partnerPoll (k : Nat) (answered : Bool)
  | quarantineExpiry (eid : Bool) (bus v : Nat)
  | reattestTimer
  | getVersion (q : SpdmReq)
  | getCapabilities (q : SpdmReq)
  | negotiateAlgorithms (q : SpdmReq) (common : Bool)
  | getDigests (q : SpdmReq)
  | getCertificate (q : SpdmReq) (slot off len : Nat)
  | challenge (q : SpdmReq) (slot summary : Nat)
  | getMeasurements (q : SpdmReq) (index : Nat) (sign : Bool)
  | keyExchange (q : SpdmReq) (slot : Nat)
  | finish (q : SpdmReq) (sid : Nat) (hmacOk : Bool)
  | heartbeat (q : SpdmReq) (sid : Nat)
  | keyUpdate (q : SpdmReq) (sid op : Nat)
  | respondIfReady (q : SpdmReq)
  | unsupportedSpdmRequest (q : SpdmReq) (code : Nat)
  | securedMessage (q : SpdmReq) (sid : Nat) (aeadOk : Bool)
  | sessionHeartbeatTimeout (sid : Nat)
  | clientHello (port conn : Nat) (acceptable : Bool)
  | dictOpen (ch : Chan) (cred : Nat)
  | dictAuth (r : Req) (key sig : Bytes) (binding : Bytes)
  | dictClose (r : Req)
  | dictRead (ch : Chan) (r : Req) (index sub off : Nat)
  | dictWrite (r : Req) (index sub : Nat) (value : Bytes)
  | writePart (r : Req) (index sub off : Nat) (data : Bytes)
  | writeEnd (r : Req) (index sub total : Nat) (digest : Bytes)
  | approve (r : Req) (id : Nat) (digest : Bytes)
  | withdraw (r : Req) (id : Nat)
  | proposalExpiry (id : Nat)
  | dictSessionIdle (sid : Nat) (conn : Bool)
  | remoteRequest (r : Req) (target op index sub : Nat) (value : Bytes) (role : Nat) (answer : Option Reply)
  | fwActivate (r : Req) (slot : Nat)
  | fwConfirm (r : Req) (v : Nat)
  | fwRestart (r : Req) (v : Nat)
  | fwFloorRequest (r : Req) (target : Nat)
  | timetableLoad (r : Req) (image : Bytes)
  | sheetSwitchRequest (r : Req) (sheet : Nat)
  | halterScheduleWrite (r : Req) (value : Bytes)
  | halterResume (r : Req) (v : Nat)
  | halterHoldClear (r : Req) (v : Nat)
  | stileActivate (r : Req) (port slot : Nat)
  | stileConfirm (r : Req) (port v : Nat)
  | stileRestart (r : Req) (port v : Nat)
  | manifestWrite (r : Req) (port slot : Nat) (value : Bytes)
  | stileFloorWrite (r : Req) (port v : Nat)
  | slotBaseWrite (r : Req) (port item v : Nat)
  | stileClockConfigWrite (r : Req) (port item v : Nat)
  | create (r : Req) (header data : Bytes)
  | import_ (r : Req) (header data : Bytes)
  | derive_ (r : Req) (header data : Bytes)
  | revoke (r : Req) (header : Bytes)
  | erase (r : Req) (header : Bytes)
  | rewrite (r : Req) (header : Bytes)
  | drain (r : Req) (header : Bytes)
  | export_ (r : Req) (header : Bytes)
  | drainErase (slot : Nat)
  | drainTimeout (slot : Nat)
  | lineageSweepEnd
  | srkGenerate (r : Req) (v : Nat)
  | monoInc (r : Req) (n k : Nat)
  | entropyTestFail
  | drbgRecovery
  | pushSlotSeal (pad slot off : Nat) (data : Bytes)
  | ringSqTailWrite (pad ring v : Nat)
  | ringCqHeadWrite (pad ring v : Nat)
  | ringEnable (pad ring : Nat)
  | ringDisable (pad ring : Nat)
  | fetchCompletion (tag : Nat) (data : Option Bytes)
  | pinTranslate (id : Nat)
  | pinVerify (id : Nat)
  | dukptPinTranslate (id : Nat)
  | pinCheckValue (id : Nat)
  | macGenerate (id : Nat)
  | macVerify (id : Nat)
  | cryptogramVerify (id : Nat)
  | cryptogramVerifyRespond (id : Nat)
  | keyGenerate (id : Nat)
  | keyPairGenerate (id : Nat) (agree : Bool)
  | keyImport (id : Nat)
  | keyImportWrapped (id : Nat)
  | keyExport (id : Nat)
  | keyDerive (id : Nat)
  | keyRevoke (id : Nat)
  | keyErase (id : Nat)
  | keyRewrite (id : Nat)
  | keyDrain (id : Nat)
  | kcv (id : Nat)
  | keyStorePublic (id : Nat) (agree : Bool)
  | digest (id : Nat)
  | hmacJob (id : Nat)
  | digestCompare (id : Nat)
  | hmacCompare (id : Nat)
  | openStream (id : Nat)
  | openKeyed (id : Nat)
  | update (id : Nat)
  | final (id : Nat)
  | finalCompare (id : Nat)
  | abandon (id : Nat)
  | sign (id : Nat) (agree : Bool)
  | verify (id : Nat) (agree : Bool)
  | batchVerify (id : Nat) (agree : Bool)
  | ecdh (id : Nat) (agree : Bool)
  | encapsulateReturn (id : Nat) (agree : Bool)
  | encapsulateAes (id : Nat) (agree : Bool)
  | encapsulateHmac (id : Nat) (agree : Bool)
  | decapsulateAes (id : Nat) (agree : Bool)
  | decapsulateHmac (id : Nat) (agree : Bool)
  | random (id : Nat)
  | sourceDataArrival (id : Nat) (data : Option Bytes)
  | jobDispatch (lane : Nat) (hamper : Bytes)
  | jobComplete (id : Nat)
  | pairCheckComplete (lane : Nat) (pass : Bool)
  | pkRetest (r : Req) (v : Nat)
  | selfTestPeriod
  | selfTestResult (lane : Nat) (pass : Bool)
  | paddockCreate (v : Via) (cmd : Bytes)
  | modify (v : Via) (cmd : Bytes)
  | paddockResetCommand (v : Via) (cmd : Bytes)
  | destroy (v : Via) (cmd : Bytes)
  | query (v : Via) (cmd : Bytes)
  | logStart (v : Via) (cmd : Bytes)
  | logStop (v : Via) (cmd : Bytes)
  | logDrain (v : Via) (cmd : Bytes)
  | paddockResetWrite (pad : Nat) (v : Nat)
  | vfFlr (n : Nat)
  | pfFlr
  | hotReset
  | vfEnableChange (enable : Bool) (numVfs : Nat)
  | pasidEnableChange (enable : Bool)
  | paddockResetComplete (pad : Nat)
  | lateCompletion (tag : Nat)
  | completionTimeout (tag : Nat)
  | rdwStart (steward : Bool) (ctrl : Nat)
  | rdwAbort (steward : Bool) (ctrl : Nat)
  | rdwDataWrite (steward high : Bool) (w : Bytes)
  | rdwLastwordWrite (steward high : Bool) (w : Bytes)
  | rdwLastcountWrite (steward : Bool) (v : Nat)
  | rdwResultRead (steward : Bool) (word : Nat)
  | frameCtLoRead
  | atnCauseClear (g v : Nat)
  | atnEnableWrite (g v : Nat)
  | atnRearm
  | registerWrite (fn off : Nat) (data : Bytes)
  | atnClearEntry (r : Req) (value : Bytes)
  | atnEnableEntry (r : Req) (g v : Nat)
  | mePortConfigWrite (r : Req) (port item : Nat) (value : Bytes)
  | policyRecordWrite (r : Req) (k : Nat) (value : Bytes)
  | ownerCertWrite (r : Req) (value : Bytes)
  | credentialWrite (r : Req) (n : Nat) (value : Bytes)
  | dictCommit (r : Req) (v : Nat)
  | restoreDefaults (r : Req) (v : Nat)
  | logEntryWrite
  | checkpointDue
  | checkpointWritten
  | logExportAck (r : Req) (value : Bytes)
  | logWindowStartWrite (r : Req) (v : Nat)
  | logTimeEpochWrite (r : Req) (v : Nat)
  | logPolicyWrite (r : Req) (v : Nat)
  | monitorDetect (n : Nat)
  | alarmResponse
  | latchSelfClear (n : Nat)
  | monClear (r : Req) (v : Nat)
  | leaveAlarmHalt (h : HoldInput)
  | monTest (r : Req) (n : Nat)
  | monTestWindowEnd (detected real : Bool)
  | monConfigWrite (r : Req) (n v : Nat)
  | backupDetection (n : Nat)
  | vbatCollapse
  | lcRequest (r : Req) (value : Bytes)
  | lcCancel (r : Req) (v : Nat)
  | lcMailboxToken (token : Bytes)
  | debugNonceRead (r : Req)
  | nonceExpiry
  | debugToken (r : Req) (value : Bytes)
  | cascadeEnableWrite (r : Req) (v : Nat)
  | cascadePromote (r : Req) (v : Nat)
  | actingMasterClear (r : Req) (v : Nat)
  | promotionNotice
  | linkDown (port : Nat)
  | memberLost (d : Nat)
  | linkRekey (r : Rekey) (secret transcript : Bytes)
  | forwardedJob (desc data : Bytes) (master : Nat) (mask : Nat)
  | forwardedResult (id : Nat) (status lane : Nat) (result dest : Bytes)
  | keyReplication (k : Key) (master : Nat)
  | replicaChange (master what : Nat) (secret : Bytes)
  | forwardCancellation (id : Nat)
  | remoteSheetSwitch (sheet base : Nat) (safe : Bool)
  | powerSleep (r : Req) (v : Nat)
  | wake (w : WakeSource) (hi : Nat)
  | wakeTimerExpiry
  | vioMgRise (st : Straps)
  | debuggerHalt
  | debuggerResume
  | vectorUnmask (fn vector : Nat)
  | smbusTimeout (bus : Nat)
  | pushWindowWrite (pad slot off : Nat) (data : Bytes)
  | mctpControlRequest (m : MctpFrom) (eid cmd typ : Nat)
  | memberJoin (j : JoinInput)
  | replicationAck (member master : Nat)
  | stackClassTReport (member : Nat)
  deriving DecidableEq, Repr

end Sys2Proof
end

