-- ==== Sys2Proof/Machine/Cipher.lean ====
section
/-! DEFINITION. AES, DES and TDEA, and what is built on them: CMAC, the ISO 9797-1 MACs, RFC 5649 key wrap
(R276 to R288, R266). PRESUMED (log 8): FIPS 197, SP 800-67, SP 800-38B and RFC 5649 give them. -/

namespace Sys2Proof.Machine

open Sys2Proof

/-! ### AES -/

/-- Doubling in GF(2^8). -/
def xtime (a : Nat) : Nat := let d := 2 * a; if d < 256 then d else (d - 256) ^^^ 0x1b

/-- Product in GF(2^8), `n` bits of `b`. -/
def gmulAux : Nat → Nat → Nat → Nat
  | 0, _, _ => 0
  | n + 1, a, b => (if b % 2 = 1 then a else 0) ^^^ gmulAux n (xtime a) (b / 2)

/-- Product in GF(2^8). -/
def gmul (a b : Nat) : Nat := gmulAux 8 a b

/-- Inverse in GF(2^8): the 254th power. -/
def ginv (a : Nat) : Nat :=
  let a2 := gmul a a
  let a3 := gmul a2 a
  let a6 := gmul a3 a3
  let a7 := gmul a6 a
  let a14 := gmul a7 a7
  let a15 := gmul a14 a
  let a30 := gmul a15 a15
  let a31 := gmul a30 a
  let a62 := gmul a31 a31
  let a63 := gmul a62 a
  let a126 := gmul a63 a63
  let a127 := gmul a126 a
  gmul a127 a127

/-- Rotate a byte left. -/
def rotl8 (a n : Nat) : Nat := (a * 2 ^ n) % 256 ||| (a / 2 ^ (8 - n))

/-- The AES S-box. -/
def sbox (a : Nat) : Nat :=
  let i := ginv a
  i ^^^ rotl8 i 1 ^^^ rotl8 i 2 ^^^ rotl8 i 3 ^^^ rotl8 i 4 ^^^ 0x63

/-- The inverse S-box. -/
def sboxInv (a : Nat) : Nat := ginv (rotl8 a 1 ^^^ rotl8 a 3 ^^^ rotl8 a 6 ^^^ 0x05)

/-- Natural numbers of a byte string. -/
def natsOf (b : Bytes) : List Nat := b.map (·.toNat)

/-- Pieces of `n` elements. -/
def groupsAux {α : Type} (n : Nat) : Nat → List α → List (List α)
  | 0, _ => []
  | k + 1, l => if l.isEmpty then [] else l.take n :: groupsAux n k (l.drop n)

/-- Pieces of `n` elements of a list. -/
def groups {α : Type} (n : Nat) (l : List α) : List (List α) := groupsAux n l.length l

/-- Element-wise exclusive or. -/
def xorN (a b : List Nat) : List Nat := List.zipWith (· ^^^ ·) a b

/-- Key expansion: words are kept newest first; `i` is the index of the next word. -/
def aesWords (nk : Nat) : Nat → Nat → Nat → List (List Nat) → List (List Nat)
  | 0, _, _, ws => ws
  | fuel + 1, i, rc, ws =>
    let prev := ws.headD []
    let back := ws.getD (nk - 1) []
    let t := if i % nk = 0 then
        match (prev.drop 1 ++ prev.take 1).map sbox with
        | x :: r => (x ^^^ rc) :: r
        | [] => []
      else if nk > 6 ∧ i % nk = 4 then prev.map sbox else prev
    aesWords nk fuel (i + 1) (if i % nk = 0 then xtime rc else rc) (xorN back t :: ws)

/-- Round keys, 16 bytes each. -/
def aesKeys (key : Bytes) : List (List Nat) :=
  let nk := key.length / 4
  let ws := (groups 4 (natsOf key)).reverse
  groups 16 ((aesWords nk (4 * (nk + 7) - nk) nk 1 ws).reverse.flatten)

/-- Shift rows, by the index each byte comes from. -/
def shiftRows (s : List Nat) : List Nat := (List.range 16).map (fun i => s.getD ((i + 4 * (i % 4)) % 16) 0)

/-- Inverse shift rows. -/
def shiftRowsInv (s : List Nat) : List Nat := (List.range 16).map (fun i => s.getD ((i + 12 * (i % 4)) % 16) 0)

/-- Multiply each column by a circulant matrix. -/
def mixCols (m : List Nat) (s : List Nat) : List Nat :=
  (List.range 16).map (fun i =>
    (List.range 4).foldl (fun a j => a ^^^ gmul (m.getD ((j + 4 - i % 4) % 4) 0) (s.getD (4 * (i / 4) + j) 0)) 0)

/-- Encrypt a block under expanded keys. -/
def aesEncK (ks : List (List Nat)) (b : Bytes) : Bytes :=
  let n := ks.length - 1
  let s := xorN (natsOf b) (ks.headD [])
  let s := ((ks.drop 1).take (n - 1)).foldl (fun s k => xorN (mixCols [2, 3, 1, 1] (shiftRows (s.map sbox))) k) s
  bytesOf (xorN (shiftRows (s.map sbox)) (ks.getD n []))

/-- Decrypt a block under expanded keys. -/
def aesDecK (ks : List (List Nat)) (b : Bytes) : Bytes :=
  let n := ks.length - 1
  let s := xorN (natsOf b) (ks.getD n [])
  let s := ((ks.drop 1).take (n - 1)).reverse.foldl
    (fun s k => mixCols [14, 11, 13, 9] (xorN ((shiftRowsInv s).map sboxInv) k)) s
  bytesOf (xorN ((shiftRowsInv s).map sboxInv) (ks.headD []))

/-! ### DES and TDEA -/

/-- Bits of a byte string, most significant first. -/
def bitsOf (b : Bytes) : List Bool := b.flatMap (fun x => (List.range 8).map (fun i => x.toNat.testBit (7 - i)))

/-- Byte string of bits. -/
def ofBits (l : List Bool) : Bytes := (groups 8 l).map (fun g => BitVec.ofNat 8 (g.foldl (fun a x => 2 * a + b2n x) 0))

/-- Select bits by positions counted from 1. -/
def permute (t : List Nat) (l : List Bool) : List Bool := t.map (fun i => l.getD (i - 1) false)

/-- Initial permutation. -/
def desIP : List Nat := (List.range 64).map (fun k =>
  let row := k / 8
  (if row < 4 then 58 + 2 * row else 57 + 2 * (row - 4)) - 8 * (k % 8))

/-- Final permutation: the inverse of the initial one. -/
def desFP : List Nat := (List.range 64).map (fun k => (desIP.findIdx (· == k + 1)) + 1)

/-- Expansion. -/
def desE : List Nat := (List.range 48).map (fun k => (4 * (k / 6) + k % 6 + 31) % 32 + 1)

/-- The permutation after the S-boxes. -/
def desP : List Nat := [16, 7, 20, 21, 29, 12, 28, 17, 1, 15, 23, 26, 5, 18, 31, 10,
  2, 8, 24, 14, 32, 27, 3, 9, 19, 13, 30, 6, 22, 11, 4, 25]

/-- Key permutation 1. -/
def desPC1 : List Nat := [57, 49, 41, 33, 25, 17, 9, 1, 58, 50, 42, 34, 26, 18, 10, 2, 59, 51, 43, 35, 27, 19, 11, 3,
  60, 52, 44, 36, 63, 55, 47, 39, 31, 23, 15, 7, 62, 54, 46, 38, 30, 22, 14, 6, 61, 53, 45, 37, 29, 21, 13, 5,
  28, 20, 12, 4]

/-- Key permutation 2. -/
def desPC2 : List Nat := [14, 17, 11, 24, 1, 5, 3, 28, 15, 6, 21, 10, 23, 19, 12, 4, 26, 8, 16, 7, 27, 20, 13, 2,
  41, 52, 31, 37, 47, 55, 30, 40, 51, 45, 33, 48, 44, 49, 39, 56, 34, 53, 46, 42, 50, 36, 29, 32]

/-- The S-boxes: four rows of 16 nibbles each, one row to a 64-bit number, leftmost nibble first. -/
def desS : List Nat := [
  0xE4D12FB83A6C5907, 0x0F74E2D1A6CB9538, 0x41E8D62BFC973A50, 0xFC8249175B3EA06D,
  0xF18E6B34972DC05A, 0x3D47F28EC01A69B5, 0x0E7BA4D158C6932F, 0xD8A13F42B67C05E9,
  0xA09E63F51DC7B428, 0xD709346A285ECBF1, 0xD6498F30B12C5AE7, 0x1AD069874FE3B52C,
  0x7DE3069A1285BC4F, 0xD8B56F03472C1AE9, 0xA690CB7DF13E5284, 0x3F06A1D8945BC72E,
  0x2C417AB6853FD0E9, 0xEB2C47D150FA3986, 0x421BAD78F9C5630E, 0xB8C71E2D6F09A453,
  0xC1AF92680D34E75B, 0xAF427C9561DE0B38, 0x9EF528C3704A1DB6, 0x432C95FABE17608D,
  0x4B2EF08D3C975A61, 0xD0B7491AE35C2F86, 0x14BDC37EAF680592, 0x6BD814A7950FE23C,
  0xD2846FB1A93E50C7, 0x1FD8A374C56B0E92, 0x7B419CE206ADF358, 0x21E74A8DFC90356B]

/-- Left half-key rotations. -/
def desShifts : List Nat := [1, 1, 2, 2, 2, 2, 2, 2, 1, 2, 2, 2, 2, 2, 2, 1]

/-- The round keys of a DES key, as bit lists. -/
def desKeys (key : Bytes) : List (List Bool) :=
  let cd := permute desPC1 (bitsOf key)
  (desShifts.foldl (fun (a : Nat × List (List Bool)) n =>
    let r := a.1 + n
    let rot := fun (l : List Bool) => l.drop r ++ l.take r
    (r, a.2 ++ [permute desPC2 (rot (cd.take 28) ++ rot (cd.drop 28))])) (0, [])).2

/-- Exclusive or of bit lists. -/
def xorBits (a b : List Bool) : List Bool := List.zipWith (fun x y => x != y) a b

/-- The round function. -/
def desF (r k : List Bool) : List Bool :=
  let x := groups 6 (xorBits (permute desE r) k)
  permute desP ((x.mapIdx (fun i g =>
    let b := fun j => b2n (g.getD j false)
    let row := 2 * b 0 + b 5
    let col := 8 * b 1 + 4 * b 2 + 2 * b 3 + b 4
    let v := (desS.getD (4 * i + row) 0 / 16 ^ (15 - col)) % 16
    (List.range 4).map (fun j => v.testBit (3 - j)))).flatten)

/-- DES with round keys in the given order. -/
def desRun (ks : List (List Bool)) (b : Bytes) : Bytes :=
  let x := permute desIP (bitsOf b)
  let lr := ks.foldl (fun (a : List Bool × List Bool) k => (a.2, xorBits a.1 (desF a.2 k))) (x.take 32, x.drop 32)
  ofBits (permute desFP (lr.2 ++ lr.1))

/-- Single DES encryption. -/
def desEnc (key b : Bytes) : Bytes := desRun (desKeys key) b

/-- Single DES decryption. -/
def desDec (key b : Bytes) : Bytes := desRun (desKeys key).reverse b

/-- Third key of a TDEA key: K3 = K1 for a two-key one (R278). -/
def tdeaK3 (key : Bytes) : Bytes := if key.length ≥ 24 then slice key 16 8 else slice key 0 8

/-- TDEA encryption. -/
def tdeaEnc (key b : Bytes) : Bytes := desEnc (tdeaK3 key) (desDec (slice key 8 8) (desEnc (slice key 0 8) b))

/-- TDEA decryption. -/
def tdeaDec (key b : Bytes) : Bytes := desDec (slice key 0 8) (desEnc (slice key 8 8) (desDec (tdeaK3 key) b))

/-! ### Ciphers by key type (R278) -/

/-- An AES key type. -/
def isAes (t : Nat) : Bool := 1 ≤ t && t ≤ 3

/-- A TDEA key type. -/
def isTdea (t : Nat) : Bool := t == 4 || t == 5

/-- Block length of a key type. -/
def blockLen (t : Nat) : Nat := if isTdea t then 8 else 16

/-- Encrypt one block under a key of a type. -/
def encBlock (t : Nat) (key b : Bytes) : Bytes := if isTdea t then tdeaEnc key b else aesEncK (aesKeys key) b

/-- Decrypt one block. -/
def decBlock (t : Nat) (key b : Bytes) : Bytes := if isTdea t then tdeaDec key b else aesDecK (aesKeys key) b

/-- CBC encryption; the last block is the CBC-MAC. -/
def cbcEnc (t : Nat) (key iv m : Bytes) : Bytes :=
  ((chunks (blockLen t) m).foldl (fun (a : Bytes × Bytes) b =>
    let c := encBlock t key (xorB a.1 b)
    (c, a.2 ++ c)) (iv, [])).2

/-- CBC decryption. -/
def cbcDec (t : Nat) (key iv m : Bytes) : Bytes :=
  ((chunks (blockLen t) m).foldl (fun (a : Bytes × Bytes) b => (b, a.2 ++ xorB a.1 (decBlock t key b))) (iv, [])).2

/-- The chaining value after whole blocks, from zero. -/
def cbcMac (t : Nat) (key m : Bytes) : Bytes :=
  (chunks (blockLen t) m).foldl (fun a b => encBlock t key (xorB a b)) (zeros (blockLen t))

/-- Doubling of a CMAC subkey (R281). -/
def cmacDouble (b : Bytes) : Bytes :=
  let n := b.length
  let v := ofBE b
  let d := (2 * v) % 2 ^ (8 * n)
  beN n (if v < 2 ^ (8 * n - 1) then d else d ^^^ (if n = 8 then 0x1B else 0x87))

/-- CMAC (R281, R282). -/
def cmac (t : Nat) (key m : Bytes) : Bytes :=
  let n := blockLen t
  let k1 := cmacDouble (encBlock t key (zeros n))
  let full := m.length ≠ 0 ∧ m.length % n = 0
  let keep := if full then m.length - n else n * (m.length / n)
  let last := m.drop keep
  let z := if full then xorB last k1 else xorB (fit n (last ++ [0x80])) (cmacDouble k1)
  cbcMac t key (m.take keep ++ z)

/-- Padding method 1 or 2 of ISO 9797-1 (R283). -/
def isoPad (n : Nat) (two : Bool) (m : Bytes) : Bytes :=
  if two then fit (n * (m.length / n + 1)) (m ++ [0x80]) else fit (n * max 1 (ceilDiv m.length n)) m

/-- ISO 9797-1 MAC algorithm 3 on padded blocks (R282). -/
def macAlg3 (key m : Bytes) : Bytes :=
  let k1 := slice key 0 8
  desEnc k1 (desDec (slice key 8 8) ((chunks 8 m).foldl (fun a b => desEnc k1 (xorB a b)) (zeros 8)))

/-- The MAC of a method code (R282). -/
def macOf (method t : Nat) (key m : Bytes) : Bytes :=
  match method with
  | 1 => cmac t key m
  | 2 => cbcMac t key (isoPad (blockLen t) false m)
  | 3 => cbcMac t key (isoPad (blockLen t) true m)
  | 4 => macAlg3 key (isoPad 8 false m)
  | _ => macAlg3 key (isoPad 8 true m)

/-- Key check value in the ZERO_ENC or the CMAC form (R288). -/
def kcvOf (t : Nat) (useCmac : Bool) (key : Bytes) : Bytes :=
  if isAes t ∨ isTdea t then
    (if useCmac ∧ isAes t then cmac t key (zeros 16) else encBlock t key (zeros (blockLen t))).take 3
  else zeros 3

/-! ### RFC 5649 (R266, R243) -/

/-- One pass of the wrapping function over `n` semiblocks. -/
def kwSteps (ks : List (List Nat)) (n : Nat) (st : Bytes × List Bytes) : Bytes × List Bytes :=
  (List.range (6 * n)).foldl (fun st t =>
    let i := t % n
    let b := aesEncK ks (st.1 ++ st.2.getD i [])
    (beN 8 (ofBE (b.take 8) ^^^ (t + 1)), updAt st.2 i (fun _ => b.drop 8))) st

/-- The inverse pass. -/
def kwStepsInv (ks : List (List Nat)) (n : Nat) (st : Bytes × List Bytes) : Bytes × List Bytes :=
  (List.range (6 * n)).reverse.foldl (fun st t =>
    let i := t % n
    let b := aesDecK ks (beN 8 (ofBE st.1 ^^^ (t + 1)) ++ st.2.getD i [])
    (b.take 8, updAt st.2 i (fun _ => b.drop 8))) st

/-- Key wrap with padding. -/
def kwpWrap (key p : Bytes) : Bytes :=
  let ks := aesKeys key
  let n := ceilDiv p.length 8
  let iv := [0xA6, 0x59, 0x59, 0xA6] ++ beN 4 p.length
  let q := chunks 8 (fit (8 * n) p)
  if n = 1 then aesEncK ks (iv ++ q.flatten)
  else
    let r := kwSteps ks n (iv, q)
    r.1 ++ r.2.flatten

/-- Key unwrap with padding; `none` where the integrity check fails. -/
def kwpUnwrap (key c : Bytes) : Option Bytes :=
  let ks := aesKeys key
  let n := c.length / 8 - 1
  if c.length % 8 ≠ 0 ∨ n = 0 then none
  else
    let r := if n = 1 then
        let b := aesDecK ks c
        (b.take 8, b.drop 8)
      else
        let x := kwStepsInv ks n (c.take 8, chunks 8 (c.drop 8))
        (x.1, x.2.flatten)
    let len := ofBE (slice r.1 4 4)
    if slice r.1 0 4 = [0xA6, 0x59, 0x59, 0xA6] ∧ 8 * (n - 1) < len ∧ len ≤ 8 * n ∧ allZero (r.2.drop len) then
      some (r.2.take len)
    else none

end Sys2Proof.Machine
end

