-- ==== Sys2Proof/Config.lean ====
section
/-! DEFINITION. What the spec leaves open: free values and the functions that other standards define (logs 9, 10,
12). None of these constants has a body, so no proof can rest on a value of one. -/

namespace Sys2Proof.Config

open Sys2Proof

/-- Byte `i` of DRBG draw number `n` (R246, log 10). -/
opaque drbgByte : Nat → Nat → Byte

/-- Draw number `n` of the DRBG, `len` bytes. -/
def drbg (n len : Nat) : Bytes := (List.range len).map (drbgByte n)

/-- Byte `j` of value `i` drawn again in draw number `n` (R279, log 113). -/
opaque redrawByte : Nat → Nat → Nat → Byte

/-- Value `i` drawn again in draw number `n`, `len` bytes. -/
def redraw (n i len : Nat) : Bytes := (List.range len).map (redrawByte n i)

/-- The eight SECDED check bits of a fuse word (R69): the rule names no code (log 130). -/
opaque eccCheck : BitVec 64 → BitVec 8

/-- Dwords of the composed SFDP table that R135 leaves open: parameter table, dword, and the facts that the table depends on. -/
opaque sfdpOpen : Nat → Nat → List Nat → BitVec 32

/-- The events of families 0x05 to 0x09, whose low code byte only `log.codes` gives (R448, log 12). -/
inductive Ev where
  | halterAction | halterTimeout | halterStopped | holdBegan | holdEnded | pulseEnded
  | refusedCommand | refusedSummary | tagFail | response | overflow | sweepBegan | sweepEnded | sweepLate
  | portVerdict | portMeasured | portTrialExpired | portTrialConfirmed | portLedger | manifestAbsent
  | recoveryBegan | recoveryIgnored | recoveryRefused | recoveryEnded
  | updateBegan | updateStaged | updateFailed | updateCancelled | updateActivated
  | partnerVerdict | partnerDeparted | partnerFull | partnerNoPolicy
  | spdmSessionOpened | spdmSessionClosed
  | alarm | alarmTest | supplyEpisode | selfTestFail | fifoAlarm | backupLost | rootLost
  | pairQuarantined | pairPassed | sleepRefused | zeroByte
  | stateChange | bootRecord | sheetDiscard | sheetSubstitute | timetableRefused
  | lcTransition | lcMarkCleared | fwLedger | dictLoss | atnEnable | pairDisabled
  | pairEnabled | memberJoined | memberLost | masterLost | linkRefused | formFailed | rekey | promotion
  | stackSheet
  deriving DecidableEq, Repr

/-- The low byte of the code of an event of families 0x05 to 0x09 (R448). -/
opaque codeLow : Ev → Byte

/-- The object reference of such an event, from the facts the spec says it names (R449). -/
opaque eventRef : Ev → List Nat → BitVec 32

/-- `log.codes`, which the firmware release fixes (R448, R461). -/
opaque logCodes : Bytes

/-- The CA certificates and the DeviceID certificate of slot 0, issued at TEST for the DeviceID key (R205): a function of its
seed. -/
opaque certSlot0 : Bytes → Bytes

/-- The number of certificates of a chain, each with a signature to check (R194). -/
opaque chainCount : Bytes → Nat

/-- The audit certificate of R453. -/
opaque auditCert : Bytes → Bytes

/-- MAC address of ME0 and ME1, "from fuses" (R441). -/
opaque meMac : Nat → Bytes

/-- Verification of a signature. Algorithms: 1 ECDSA, 2 ML-DSA, 3 RSA, 4 EdDSA; the type code of R212 selects the
parameter set. Inputs: type, public key, message or digest as the scheme takes it, parameter, signature. -/
opaque sigVerify : Nat → Bytes → Bytes → Nat → Bytes → Bool

/-- A signature: type, private key, message, parameter, hedging draw (R307). -/
opaque sigMake : Nat → Bytes → Bytes → Nat → Bytes → Bytes

/-- Whether an ML-DSA signing finds a signature in its fixed window (R323). -/
opaque signFits : Nat → Bytes → Bytes → Bytes → Bool

/-- The secret key of a type from a draw (R226, R312). -/
opaque keyFrom : Nat → Bytes → Bytes

/-- The public key of a private key of a type (R312). -/
opaque publicOf : Nat → Bytes → Bytes

/-- The shared secret of a private key and a public key of a type (R311). -/
opaque agree : Nat → Bytes → Bytes → Bytes

/-- Encapsulation: type, encapsulation key, draw; the pair is ciphertext and secret. -/
opaque encap : Nat → Bytes → Bytes → Bytes × Bytes

/-- Decapsulation: type, decapsulation key, ciphertext. -/
opaque decap : Nat → Bytes → Bytes → Bytes

/-- The bytes of an SPDM, PLDM or MCTP message whose layout DSP0274, DSP0277, DSP0267 or DSP0236 gives, from the
fields this spec fixes. -/
opaque message : Nat → List Nat → Bytes → Bytes

/-- Curve parameter checks of a custom curve that need number theory beyond the equation (R319): check number, set. -/
opaque curveCheck : Nat → Bytes → Bool

/-- Checks on an encoded Edwards point (R315): 0 decodes to a curve point, 1 order; the code names the curve. -/
opaque edCheck : Nat → Nat → Bytes → Bool

/-- Subgroup membership of a point on a custom curve (R320): parameter set, point. -/
opaque inSubgroup : Bytes → Bytes → Bool

/-- An asymmetric key in the key data of an X9.143 block (R239): header, key data; the pair is the type of R212, 0 where
it is none, and the secret. -/
opaque asymKey : Bytes → Bytes → Nat × Bytes

/-- The key data of an asymmetric key in an X9.143 block: type, secret. -/
opaque asymData : Nat → Bytes → Bytes

/-- Whether a DER certificate chain is well formed, signed link by link and ends with the given key (R194, R206). -/
opaque chainOk : Bytes → Bool

/-- The root certificate of a chain (R191). -/
opaque chainRoot : Bytes → Bytes

/-- The leaf public key of a chain. -/
opaque chainLeaf : Bytes → Bytes

/-- A fresh value that the spec leaves open, by draw number and position (log 10). -/
opaque freeByte : Nat → Nat → Byte

/-- The fixed test modulus of R316 for a modulus length in bytes: the spec gives no value (log 106). -/
opaque testModulus : Nat → Bytes

/-- The fixed test primes of R316 in CRT form for a modulus length in bytes: the spec gives no value (log 106). -/
opaque testPrimes : Nat → Bytes

/-- The fixed ML-KEM test key of R316 by algorithm code: the spec gives no value (log 106). -/
opaque testKemKey : Nat → Bytes

end Sys2Proof.Config
end

