-- ==== Sys2Proof/Machine/State.lean ====
section
/-! DEFINITION. The state of the EV-7100, its stops, and the state right after reset. -/

namespace Sys2Proof.Machine

open Sys2Proof

/-- Why the machine stops with a fault. -/
inductive Fault where
  /-- Raised by a Shed access at an address of 64 MiB or above, which R155 says does not exist. Safe: the device never
  allocates there (R155, R156). -/
  | noSuchShedAddress
  deriving DecidableEq, Repr

/-- Why a command has no meaning. -/
inductive Refusal where
  /-- Raised by a dispatch arm whose meaning is not written. Safe: nothing can be proved of it. -/
  | notModelled (mnemonic : String)
  /-- Raised by ENTER_HOLDING when the image that the ROM started is of a release other than 1.0, which R1 and R2 place outside
  the manual. Safe: the manual says nothing of what its firmware does. -/
  | otherRelease
  deriving DecidableEq, Repr

/-- The whole state of the block. -/
structure State where
  core : Core
  pwr : Pwr
  sup : Sup
  fuse : Fuse
  boot : Boot
  hal : Hal
  ports : List Port
  shed : List Host.Cell
  tagTable : List (Nat × Bytes)
  shedLost : Bool
  pldm : Pldm
  par : Par
  tack : Tack
  yard : Yard
  jobs : List Job
  devJobs : List DevJob
  nextJob : Nat
  pads : List Pad
  pmem : Pmem
  pci : Pci
  rdw : Rdw
  rdwSc : Rdw
  dmb : Dmb
  cas : Cas
  dict : Dict
  log : Log
  lc : Lc
  mon : Mon
  atn : Atn
  pending : List Instr
  out : List Out
  deriving DecidableEq, Repr

/-- An empty two-bank store. -/
def noBanks : Banks := { bank0 := [], bank1 := [] }

/-- No header read yet. -/
def noHeader : HeaderInfo := { release := 0, digest := zeros 48, keyIndex := 0, svn := 0 }

/-- Default allow-list (R136): every first opcode of R127 except 0x01, phase mask 0x0C, wire mask 0x07; STATUS, ID,
MODE and RESET rows carry phase mask 0x0F. -/
def defaultAllow : List AllowRec :=
  [(0x03, 1), (0x0B, 1), (0x3B, 1), (0xBB, 1), (0x6B, 1), (0xEB, 1), (0xEE, 1), (0x05, 2), (0x9F, 3), (0x5A, 3),
   (0x06, 4), (0x02, 5), (0x32, 5), (0x20, 6), (0xD8, 6), (0xC7, 6), (0x81, 9), (0xB7, 8), (0x38, 9), (0x66, 10)].map
    (fun p => { opcode := p.1, cls := p.2, wires := 7,
                phases := if p.2 == 2 || p.2 == 3 || p.2 == 9 || p.2 == 10 then 0x0F else 0x0C })

/-- A port at a start (R121, R144, R145). -/
def portReset (ledger : Banks) : Port :=
  { mode := .off, phase := .hold, attached := false, recAttached := false, wire := .spi, addr4 := false,
    flashId := zeros 3, flashSize := 0, reads := [], down := none, wel := false, busyUntil := none, passedBusy := false, busyCs := 0,
    pollAt := 0,
    resetArmed := false, refused := 0, lateBytes := 0, unknown := 0, refEntryAt := none, refSince := 0, refSealed := 0,
    verdict := .none, reason := 0, serving := none, cand := none, fallbackOf := none, trialServed := false,
    debts := [], tagPend := [], overflow := false, debtOverflows := 0, tagFail := 0, failAt := none, sweep := none, sweepAgain := false,
    sweepLate := false, sweepAt := 0, sweepRead := false, trialEnd := none, recoverDue := false, recovering := false, recHold := false,
    measDigest := none, measBits := 0, measLead := 40, manOk := [false, false, false], ledger := ledger,
    tagSecret := [], tagKey := none, shedBase := 0, tagBase := 0, dummy := [8, 4, 8, 6, 8], fastMax := 50000,
    sfdp := zeros 512, allow := defaultAllow }

/-- A lane that is free and holds power. -/
def laneReset : Lane :=
  { job := none, zero := 0, disabled := false, quarantine := false, needTest := false, load := [], regs := [],
    operands := [], spent := false }

/-- A ring at its register reset values (R370). -/
def ringReset : Ring :=
  { sqBase := 0, cqBase := 0, depthLog2 := 0, enable := false, active := false, code := 0, tail := 0, head := 0,
    sqHead := 0, error := false, cqNext := 0, written := 0, jobs := 0, sealed := 0, fetched := 0 }

/-- A configured paddock with its page at the reset values (R361, R372). -/
def padFresh (num : Nat) : Pad :=
  { num := num, st := .enabled, group := 0, keyQuota := 0, ctxQuota := 0, streamLimit := 0, rings := 1,
    maxDepth := 16, families := 0x7F, shared := 0, hamperBase := 0, pasid := 0,
    ring := [ringReset, ringReset, ringReset, ringReset], slots := [], atn := 0, atnNew := 0, atnEn := 0x7F,
    refTag := 0, refRing := 0, refSlot := 0, refCode := 0, refCount := 0, accepted := 0, queueFull := 0,
    pushFaults := 0, resets := 0, sinceQuery := 0, streams := [], streamGens := [], log := none, resetAt := none,
    struck := false, destroy := false, mgrWaits := [] }

/-- Paddock 0 at every start (R27, R28, R361, R362). -/
def padZero : Pad := { padFresh 0 with ctxQuota := 16, streamLimit := 16, rings := 4, maxDepth := 4096 }

/-- A Register Digest Window at its reset values (R270). -/
def rdwReset : Rdw :=
  { alg := 0, keyed := false, compare := false, key := 0, length := 0, lastCount := 0, st := 0, early := false,
    code := 0, free := 4096, expLen := 0, result := zeros 64, expect := zeros 64, words := 0, half := none,
    msg := [], job := none }

/-- The dictionary mailbox at its reset values (R424). -/
def dmbReset : Dmb :=
  { req := zeros 8192, resp := zeros 8192, len := 0, busy := false, valid := false, respLen := 0 }

/-- An EMPTY partner table entry (R190). -/
def partnerReset : Partner :=
  { st := .empty, bus := 0, addr := 0, eid := 0, pid := zeros 6, bcr := 0, dcr := 0, version := 0, reason := 0,
    sig := 0, hash := 0, session := 0, departures := 0, verdictAt := 0, chainDig := zeros 48, measDig := zeros 48,
    noPolicy := false, step := 0, attempts := 0, waiting := false, tag := 0, chain := [], summary := [],
    missed := 0, again := false, restart := false, sentAt := 0, polledAt := 0,
    runNo := 0, half := 0, sessAt := 0, lastTag := 7, checking := false }

/-- Partners at a start: counters and tables empty (R211). -/
def parReset : Par :=
  { table := List.replicate 64 partnerReset, ic0 := false, ic1 := false, eidQuar := [], addrQuar := [],
    dyn2 := none, dyn3 := none, eidIc2 := 0, eidIc3 := 0, eidPcie := 0,
    late := 0, dead := 0, conns := [], sessions := [], ended := [], deadTags := [], strays := [],
    measSerial := 0, blocks := [], aliasCert := [], reattestAt := 0 }

/-- The firmware device at a start (R184). -/
def pldmReset : Pldm :=
  { st := .idle, component := 0, received := 0, size := 0, stamp := 0, xfer := 0, transport := 0, target := none,
    data := [], manifestDone := false, updated := [], portion := none, readback := none,
    checking := false }

/-- A mask generator that has not been seeded (R301). -/
def maskZero : MaskGen := { seed := 0, served := 0 }

/-- The Yard at a start (R45, R54, R61). -/
def yardReset (tt : Option Timetable) : Yard :=
  { lanes := List.replicate 92 laneReset, masks := List.replicate 24 maskZero, waiting := [], sheet := 0, base := 0, pending := none,
    safeDue := false, loadDue := false, safe := false, timetable := tt, leaving := none, rr := [], dispatched := [], faults := 0, faultFrames := [],
    screenRejects := 0, signRetry := 0, curveRejects := 0, macSegmented := 0,
    macMismatch := 0, pinBad := 0, dukptExh := 0, arqcMis := 0, pinTrans := 0, hampersOut := 0, hampersIn := 0,
    hampersRef := 0, lastPeriod := 0, ctxReserve := 0 }

/-- The Cucen Link at a start (R397, R414, R415). -/
def casReset (enabled fwd : Bool) (role : CasRole) : Cas :=
  { enabled := enabled, fwd := fwd, role := role, present := 0, lost := 0, cl0 := false, cl1 := false, tickOffset := 0,
    formAt := none, formDone := false, credits := List.replicate 8 1024, suspect := [],
    links := [], forwarded := 0, peerLost := 0, acksWaited := [], changes := [],
    cancels := [], arrived := [], remote := none, orphanDue := false }

/-- The PCIe side at a start (R359, R360, R364, R524). -/
def pciReset : Pci :=
  { vfEnable := false, numVfs := 0, pasid := false, front := [], accepted := 0, reads := [], quar := [],
    nextTag := 0, turn := 0, lateCpl := 0, mgrCmd := zeros 64, mgrBusy := false, mgrCode := 0, mgrResult := zeros 64,
    mgrDiscard := false, mboxEnd := false, pResult := zeros 64 }

/-- The attention tree at entry to BOOTING (R507, R509). -/
def atnReset : Atn :=
  { cause := List.replicate 24 0, enable := List.replicate 24 0, fresh := List.replicate 24 0, irqEn := true,
    pin := false, rearm := false, dueEn := [], pfEn := [], msixEn := [], table := [], pend := [] }

/-- The Halter at entry to BOOTING: every schedule level asserted (R102), registers as R115 gives. -/
def halReset : Hal :=
  { level := 0xFFFFFFFF, step := 0, st := .idle, steps := [], counted := 0,
    pulses := [], portHold := 0, alarmHold := false, hiLevel := 0,
    samples := [0, 0, 0, 0], met := false, fails := false }

/-- Supply reporting at a start (R505). -/
def supReset : Sup :=
  { crossing := false, hold := false, holdFrames := 0, calm := 0, begun := [], holds := 0, longest := 0,
    lastEntry := none, counted := 0, countedLongest := 0, abortDue := false }

/-- Start registers before the ROM has run (R86, R89). -/
def bootReset (ledger : Banks) (records : List BootRecord) : Boot :=
  { romLock := false, coreRelease := 0, handoverLock := false, handover := none, ledger := ledger,
    records := records, slotB := false, path := 0, trial := false, fallback := false, svn := 0, floor := 0,
    lastFail := 0, release := 0, keyIndex := 0, bodyDigest := zeros 48, retain := false, infoA := noHeader, infoB := noHeader,
    romDone := false, stuck := none, tackBuilt := false, trialFrom := none, findH := false, cdi1 := [], sId := [],
    sAud := [], bootKey := [] }

/-- The default configurations of the monitors (R482, R483): class, hold flag, and the enable that only monitors 0 to 11
can lack. -/
def defaultMonCfg : List Nat := List.replicate 12 7 ++ [14, 15, 14, 14, 8, 8, 14, 14, 10, 14, 9, 8]

/-- Entry 0 of the Logbook of a unit whose serial is `serial` (R446); its other fields are zero (log 4). -/
def logEntry0 (serial : BitVec 64) : Bytes :=
  zeros 39 ++ h16 (ascii "EV7100-LOGBOOK" ++ leN 8 serial.toNat) ++ zeros 9

/-- The fuses of the shipped unit of R570 that the reset state stands for (log 3). -/
def fuseReset : Fuse :=
  { serial := 0, mfgInfo := 0, uds := zeros 32, vendorDigest := List.replicate 4 (zeros 48), vendorRevoke := 0,
    arbFloor := 0, lcState := 0xFFFF, owner0 := List.replicate 48 1, owner1 := zeros 48, ownerAlg := 1,
    debugKey := zeros 48, bfMode := 0, bootselLock := false, rsv := 0, flips := [] }

/-- The machine right after reset: entry to BOOTING from OFF by POWER_ON (R547) of a shipped unit (R570). -/
def State.reset : State :=
  { core := { op := .booting, before := .booting, zSince := false, frameCt := 0, tick := 0, frameHi := 0, scratch := 0,
              resetCause := .powerOn, starts := 1, wakeLast := .none, fullReset := none },
    pwr := { vinGood := true, vinMv := 1000, vioMg := true, sysRst := true, perst := true, link := false,
             pll := true, clkLost := none, hoPol := 0, cascadeId := 0, bootSel := 0,
             vioSensed := [2, 2, 2, 2, 2, 2], ppm := 0, gated := 0, waking := [], sleepAt := none,
             sleepReq := false, poweredDown := false, wakeLatched := none, vbatOk := true, sramKept := false,
             sram := none, wakeRec := none, halted := false },
    sup := supReset, fuse := fuseReset, boot := bootReset noBanks [], hal := halReset,
    ports := List.replicate 4 (portReset noBanks), shed := [], tagTable := [], shedLost := false,
    pldm := pldmReset, par := parReset,
    tack := { keys := [], gens := [], retired := [], mram := [], ptr := 256, sptr := 1, hampers := [], srk := none,
              srkCheck := zeros 8, bootKey := none, sweeps := 0, swept := 0,
              mono := List.replicate 16 0, drbgOk := true, draws := 0, result := zeros 16,
              exported := [], inspect := 0, strikes := [], cmdsThisFrame := 0, loads := [] },
    yard := yardReset none, jobs := [], devJobs := [], nextJob := 0, pads := [padZero],
    pmem := { pgen := [], expCtr := [], expMark := [] }, pci := pciReset, rdw := rdwReset, rdwSc := rdwReset,
    dmb := dmbReset, cas := casReset false true .standalone,
    dict := { vals := [], bankA := none, bankB := none, changes := 0, committed := 0, restoreKept := 0,
              serials := [], proposals := [], nextProp := 1, sessions := [], ended := [], dead := 0,
              authFails := [], conns := [], endSess := [], endConns := [] },
    log := { headA := some { next := 1, link := h16 (logEntry0 0) }, headB := none, acked := 0,
             entries := [logEntry0 0], overwritten := 0, ckptLast := 0, timeBase := 0, discont := 0, due := [],
             written := 0, unlogged := 0, ovwSince := 0, ovwAt := none, winStart := 0, owed := false,
             sinceCkpt := 1, signing := none, warned := false, stSeen := 0, auditCert := [], secs := 0,
             fracFrames := 0 },
    lc := { mark := noBanks, epoch := 0, scopes := 0, scopesDue := 0, nonce := none,
            jtagNonce := none },
    mon := { latched := 0, cls := List.replicate 24 0, active := 0, inactiveAt := List.replicate 24 0, due := 0,
             zDue := false, temps := List.replicate 8 0, word := 0, wordZ := 0, fifo := [], holdRec := false,
             valid := true, fifoAtStart := [], rootLost := false, backupLost := false, testMon := 0,
             testEnd := none, testResult := .none, heldBack := 0,
             cfg := defaultMonCfg },
    atn := atnReset, pending := [], out := [] }

end Sys2Proof.Machine
end

