-- ==== Sys2Proof/Machine/Mods.lean ====
section
/-! DEFINITION. One modifier per part of the state; every meaning changes the state through these. -/

namespace Sys2Proof.Machine

open Sys2Proof

/-- Change `core`. -/
def State.modCore (s : State) (f : Core → Core) : State := { s with core := f s.core }

/-- Change `pwr`. -/
def State.modPwr (s : State) (f : Pwr → Pwr) : State := { s with pwr := f s.pwr }

/-- Change `sup`. -/
def State.modSup (s : State) (f : Sup → Sup) : State := { s with sup := f s.sup }

/-- Change `fuse`. -/
def State.modFuse (s : State) (f : Fuse → Fuse) : State := { s with fuse := f s.fuse }

/-- Change `boot`. -/
def State.modBoot (s : State) (f : Boot → Boot) : State := { s with boot := f s.boot }

/-- Change `hal`. -/
def State.modHal (s : State) (f : Hal → Hal) : State := { s with hal := f s.hal }

/-- Change `ports`. -/
def State.modPorts (s : State) (f : List Port → List Port) : State := { s with ports := f s.ports }

/-- Change `shed`. -/
def State.modShed (s : State) (f : List Host.Cell → List Host.Cell) : State := { s with shed := f s.shed }

/-- Change `tagTable`. -/
def State.modTagTable (s : State) (f : List (Nat × Bytes) → List (Nat × Bytes)) : State := { s with tagTable := f s.tagTable }

/-- Change `shedLost`. -/
def State.modShedLost (s : State) (f : Bool → Bool) : State := { s with shedLost := f s.shedLost }

/-- Change `pldm`. -/
def State.modPldm (s : State) (f : Pldm → Pldm) : State := { s with pldm := f s.pldm }

/-- Change `par`. -/
def State.modPar (s : State) (f : Par → Par) : State := { s with par := f s.par }

/-- Change `tack`. -/
def State.modTack (s : State) (f : Tack → Tack) : State := { s with tack := f s.tack }

/-- Change `yard`. -/
def State.modYard (s : State) (f : Yard → Yard) : State := { s with yard := f s.yard }

/-- Change `jobs`. -/
def State.modJobs (s : State) (f : List Job → List Job) : State := { s with jobs := f s.jobs }

/-- Change `devJobs`. -/
def State.modDevJobs (s : State) (f : List DevJob → List DevJob) : State := { s with devJobs := f s.devJobs }

/-- Change `nextJob`. -/
def State.modNextJob (s : State) (f : Nat → Nat) : State := { s with nextJob := f s.nextJob }

/-- Change `pads`. -/
def State.modPads (s : State) (f : List Pad → List Pad) : State := { s with pads := f s.pads }

/-- Change `pmem`. -/
def State.modPmem (s : State) (f : Pmem → Pmem) : State := { s with pmem := f s.pmem }

/-- Change `pci`. -/
def State.modPci (s : State) (f : Pci → Pci) : State := { s with pci := f s.pci }

/-- Change `rdw`. -/
def State.modRdw (s : State) (f : Rdw → Rdw) : State := { s with rdw := f s.rdw }

/-- Change `rdwSc`. -/
def State.modRdwSc (s : State) (f : Rdw → Rdw) : State := { s with rdwSc := f s.rdwSc }

/-- Change `dmb`. -/
def State.modDmb (s : State) (f : Dmb → Dmb) : State := { s with dmb := f s.dmb }

/-- Change `cas`. -/
def State.modCas (s : State) (f : Cas → Cas) : State := { s with cas := f s.cas }

/-- Change `dict`. -/
def State.modDict (s : State) (f : Dict → Dict) : State := { s with dict := f s.dict }

/-- Change `log`. -/
def State.modLog (s : State) (f : Log → Log) : State := { s with log := f s.log }

/-- Change `lc`. -/
def State.modLc (s : State) (f : Lc → Lc) : State := { s with lc := f s.lc }

/-- Change `mon`. -/
def State.modMon (s : State) (f : Mon → Mon) : State := { s with mon := f s.mon }

/-- Change `atn`. -/
def State.modAtn (s : State) (f : Atn → Atn) : State := { s with atn := f s.atn }

/-- Change `out`. -/
def State.modOut (s : State) (f : List Out → List Out) : State := { s with out := f s.out }

end Sys2Proof.Machine
end

