-- ==== Sys2Proof/Machine/Dict.lean ====
section
/-! DEFINITION. The entry table of the object dictionary, from the dictionary tables of every chapter (R61, R98, R116,
R145, R183, R184, R211, R248, R394, R395, R415, R441, R461, R481, R506, R516, R549 and the lane chapters), and the
reading and writing of working values (R416 to R418, R437). -/

namespace Sys2Proof.Machine

open Sys2Proof

/-- Value types of R417. -/
inductive Ty where
  | u (n : Nat) | i32 | bool | enum (n : Nat) | bytes (n : Nat) | str (n : Nat) | digest | keyref | time
  deriving DecidableEq, Repr

/-- An entry: index range, sub-index range, type, read mask (bit 7: outside any session), write mask, quorum flag,
stored flag, default (R416, R418). -/
structure Entry where
  ilo : Nat
  ihi : Nat
  slo : Nat
  shi : Nat
  ty : Ty
  read : Nat
  write : Nat
  quorum : Bool
  stored : Bool
  dflt : Bytes
  deriving DecidableEq, Repr

/-- A schedule step as its 16-byte record (R107). -/
def stepBytes (h : HStep) : Bytes :=
  bytesOf [h.wait, h.operand, h.action, b2n h.last + 2 * b2n h.cont] ++ leN 4 h.mask.toNat ++ leN 4 h.count ++
    leN 4 h.width

/-- Step `k` of the default schedule, from 1 to 32 (R114). -/
def defaultStep (k : Nat) : HStep :=
  { wait := if k == 1 then 5 else 1, operand := 0, action := 1, last := k == 32, cont := false,
    mask := BitVec.ofNat 32 (2 ^ (k - 1)), count := if k == 1 then 0 else 2000, width := 0 }

/-- The default of `halter.schedule` (R114). -/
def defaultSchedule : Bytes :=
  fit 1024 ((List.range 32).flatMap (fun k => stepBytes (defaultStep (k + 1))))

/-- An allow-list as its 32 records of 8 bytes (R136). -/
def allowBytes (l : List AllowRec) : Bytes :=
  fit 256 (l.flatMap (fun r => bytesOf [r.opcode, r.cls, r.phases, r.wires] ++ zeros 4))

/-- Entries, part 1. -/
def entries1 : List Entry := [
  /- yard.timetable.image -/ ⟨0x6000, 0x6000, 0x01, 0x01, .bytes 3145728, 0x05, 0x01, true, true, []⟩,
  /- yard.timetable.serial -/ ⟨0x6000, 0x6000, 0x02, 0x02, .u 4, 0x7F, 0x00, false, false, leN 4 0⟩,
  /- yard.timetable.digest -/ ⟨0x6000, 0x6000, 0x03, 0x03, .digest, 0x7F, 0x00, false, false, zeros 48⟩,
  /- yard.timetable.signer -/ ⟨0x6000, 0x6000, 0x04, 0x04, .digest, 0x05, 0x01, true, true, zeros 48⟩,
  /- yard.timetable.sheets -/ ⟨0x6000, 0x6000, 0x05, 0x05, .u 1, 0x7F, 0x00, false, false, leN 1 0⟩,
  /- yard.timetable.safe -/ ⟨0x6000, 0x6000, 0x06, 0x06, .u 1, 0x7F, 0x00, false, false, leN 1 0⟩,
  /- yard.sheet.active -/ ⟨0x6001, 0x6001, 0x01, 0x01, .u 1, 0x7F, 0x00, false, false, leN 1 0⟩,
  /- yard.sheet.next -/ ⟨0x6001, 0x6001, 0x02, 0x02, .u 1, 0x7F, 0x01, true, false, leN 1 0⟩,
  /- yard.sheet.base -/ ⟨0x6001, 0x6001, 0x03, 0x03, .u 8, 0x7F, 0x00, false, false, leN 8 0⟩,
  /- yard.sheet.round -/ ⟨0x6001, 0x6001, 0x04, 0x04, .u 2, 0x7F, 0x00, false, false, leN 2 64⟩,
  /- yard.sheet.boot -/ ⟨0x6001, 0x6001, 0x05, 0x05, .u 1, 0x7F, 0x01, true, true, leN 1 0⟩,
  /- yard.const_activity -/ ⟨0x6002, 0x6002, 0x01, 0x01, .enum 2, 0x7F, 0x01, true, true, leN 1 0⟩,
  /- yard.groupNN.dispatched -/ ⟨0x6010, 0x6010, 0x00, 0x3F, .u 8, 0x17, 0x00, false, false, leN 8 0⟩,
  /- yard.groupNN.waiting -/ ⟨0x6011, 0x6011, 0x00, 0x3F, .u 4, 0x17, 0x00, false, false, leN 4 0⟩,
  /- fw.active -/ ⟨0x1100, 0x1100, 0x01, 0x01, .enum 3, 0x7F, 0x00, false, false, leN 1 2⟩,
  /- fw.booted -/ ⟨0x1100, 0x1100, 0x02, 0x02, .enum 2, 0x7F, 0x00, false, false, leN 1 0⟩,
  /- fw.boot_path -/ ⟨0x1100, 0x1100, 0x03, 0x03, .enum 3, 0x7F, 0x00, false, false, leN 1 0⟩,
  /- fw.floor -/ ⟨0x1100, 0x1100, 0x04, 0x04, .u 1, 0x7F, 0x00, false, false, leN 1 0⟩,
  /- fw.floor.request -/ ⟨0x1100, 0x1100, 0x05, 0x05, .u 1, 0x7F, 0x01, true, false, leN 1 0⟩,
  /- fw.trial.window -/ ⟨0x1100, 0x1100, 0x06, 0x06, .u 4, 0x7F, 0x01, true, true, leN 4 120⟩,
  /- fw.trial.confirm_mode -/ ⟨0x1100, 0x1100, 0x07, 0x07, .enum 2, 0x7F, 0x01, true, true, leN 1 0⟩,
  /- fw.confirm -/ ⟨0x1100, 0x1100, 0x08, 0x08, .bool, 0x7F, 0x01, false, false, leN 1 0⟩,
  /- fw.trial.remaining -/ ⟨0x1100, 0x1100, 0x09, 0x09, .u 4, 0x7F, 0x00, false, false, leN 4 0⟩,
  /- fw.activate -/ ⟨0x1100, 0x1100, 0x0A, 0x0A, .enum 3, 0x7F, 0x01, true, false, leN 1 0⟩,
  /- fw.restart -/ ⟨0x1100, 0x1100, 0x0B, 0x0B, .bool, 0x7F, 0x01, true, false, leN 1 0⟩,
  /- fw.ledger.sequence -/ ⟨0x1100, 0x1100, 0x0C, 0x0C, .u 4, 0x7F, 0x00, false, false, leN 4 0⟩,
  /- fw.last_failure -/ ⟨0x1100, 0x1100, 0x0D, 0x0D, .u 1, 0x7F, 0x00, false, false, leN 1 0⟩,
  /- fw.slotA.state -/ ⟨0x1101, 0x1101, 0x01, 0x01, .enum 7, 0x7F, 0x00, false, false, leN 1 0⟩,
  /- fw.slotB.state -/ ⟨0x1102, 0x1102, 0x01, 0x01, .enum 7, 0x7F, 0x00, false, false, leN 1 0⟩,
  /- fw.slotA.svn -/ ⟨0x1101, 0x1101, 0x02, 0x02, .u 1, 0x7F, 0x00, false, false, leN 1 0⟩,
  /- fw.slotB.svn -/ ⟨0x1102, 0x1102, 0x02, 0x02, .u 1, 0x7F, 0x00, false, false, leN 1 0⟩,
  /- fw.slotA.release -/ ⟨0x1101, 0x1101, 0x03, 0x03, .u 4, 0x7F, 0x00, false, false, leN 4 0⟩,
  /- fw.slotB.release -/ ⟨0x1102, 0x1102, 0x03, 0x03, .u 4, 0x7F, 0x00, false, false, leN 4 0⟩,
  /- fw.slotA.digest -/ ⟨0x1101, 0x1101, 0x04, 0x04, .digest, 0x7F, 0x00, false, false, zeros 48⟩,
  /- fw.slotB.digest -/ ⟨0x1102, 0x1102, 0x04, 0x04, .digest, 0x7F, 0x00, false, false, zeros 48⟩,
  /- fw.slotA.key_index -/ ⟨0x1101, 0x1101, 0x05, 0x05, .u 1, 0x7F, 0x00, false, false, leN 1 0⟩,
  /- fw.slotB.key_index -/ ⟨0x1102, 0x1102, 0x05, 0x05, .u 1, 0x7F, 0x00, false, false, leN 1 0⟩,
  /- halter.schedule -/ ⟨0x2000, 0x2000, 0x01, 0x01, .bytes 1024, 0x0D, 0x01, true, true, defaultSchedule⟩,
  /- halter.schedule.digest -/ ⟨0x2000, 0x2000, 0x02, 0x02, .digest, 0x7F, 0x00, false, false, zeros 48⟩,
  /- halter.step -/ ⟨0x2000, 0x2000, 0x03, 0x03, .u 1, 0x7F, 0x00, false, false, leN 1 0⟩]

/-- Entries, part 2. -/
def entries2 : List Entry := [
  /- halter.state -/ ⟨0x2000, 0x2000, 0x04, 0x04, .enum 5, 0x7F, 0x00, false, false, leN 1 0⟩,
  /- halter.resume -/ ⟨0x2000, 0x2000, 0x05, 0x05, .bool, 0x7F, 0x01, true, false, leN 1 0⟩,
  /- halter.out.drive_pp -/ ⟨0x2001, 0x2001, 0x01, 0x01, .u 4, 0x7F, 0x01, true, true, leN 4 0⟩,
  /- halter.out.polarity -/ ⟨0x2001, 0x2001, 0x02, 0x02, .u 4, 0x7F, 0x00, false, false, zeros 4⟩,
  /- halter.out.asserted -/ ⟨0x2001, 0x2001, 0x03, 0x03, .u 4, 0x7F, 0x00, false, false, leN 4 4294967295⟩,
  /- halter.hold.alarm_mask -/ ⟨0x2001, 0x2001, 0x04, 0x04, .u 4, 0x7F, 0x01, true, true, leN 4 4294967295⟩,
  /- halter.hold.clear -/ ⟨0x2001, 0x2001, 0x05, 0x05, .u 1, 0x7F, 0x01, true, false, leN 1 0⟩,
  /- halter.hold.active -/ ⟨0x2001, 0x2001, 0x06, 0x06, .u 1, 0x7F, 0x00, false, false, leN 1 0⟩,
  /- halter.in.active_low -/ ⟨0x2002, 0x2002, 0x01, 0x01, .u 4, 0x7F, 0x01, true, true, leN 4 0⟩,
  /- halter.in.level -/ ⟨0x2002, 0x2002, 0x02, 0x02, .u 4, 0x7F, 0x00, false, false, leN 4 0⟩,
  /- halter.bind.st0`–`halter.bind.st3 -/ ⟨0x2003, 0x2003, 0x01, 0x04, .u 4, 0x7F, 0x01, true, true, leN 4 0⟩,
  /- stile.port0.mode -/ ⟨0x2100, 0x2100, 0x01, 0x01, .enum 3, 0x7F, 0x01, true, true, leN 1 1⟩,
  /- stile.port1.mode -/ ⟨0x2200, 0x2200, 0x01, 0x01, .enum 3, 0x7F, 0x01, true, true, leN 1 1⟩,
  /- stile.port2.mode -/ ⟨0x2300, 0x2300, 0x01, 0x01, .enum 3, 0x7F, 0x01, true, true, leN 1 1⟩,
  /- stile.port3.mode -/ ⟨0x2400, 0x2400, 0x01, 0x01, .enum 3, 0x7F, 0x01, true, true, leN 1 1⟩,
  /- stile.port0.phase -/ ⟨0x2100, 0x2100, 0x02, 0x02, .enum 4, 0x7F, 0x00, false, false, leN 1 0⟩,
  /- stile.port1.phase -/ ⟨0x2200, 0x2200, 0x02, 0x02, .enum 4, 0x7F, 0x00, false, false, leN 1 0⟩,
  /- stile.port2.phase -/ ⟨0x2300, 0x2300, 0x02, 0x02, .enum 4, 0x7F, 0x00, false, false, leN 1 0⟩,
  /- stile.port3.phase -/ ⟨0x2400, 0x2400, 0x02, 0x02, .enum 4, 0x7F, 0x00, false, false, leN 1 0⟩,
  /- stile.port0.attached -/ ⟨0x2100, 0x2100, 0x03, 0x03, .bool, 0x7F, 0x00, false, false, leN 1 0⟩,
  /- stile.port1.attached -/ ⟨0x2200, 0x2200, 0x03, 0x03, .bool, 0x7F, 0x00, false, false, leN 1 0⟩,
  /- stile.port2.attached -/ ⟨0x2300, 0x2300, 0x03, 0x03, .bool, 0x7F, 0x00, false, false, leN 1 0⟩,
  /- stile.port3.attached -/ ⟨0x2400, 0x2400, 0x03, 0x03, .bool, 0x7F, 0x00, false, false, leN 1 0⟩,
  /- stile.port0.rec_attached -/ ⟨0x2100, 0x2100, 0x04, 0x04, .bool, 0x7F, 0x00, false, false, leN 1 0⟩,
  /- stile.port1.rec_attached -/ ⟨0x2200, 0x2200, 0x04, 0x04, .bool, 0x7F, 0x00, false, false, leN 1 0⟩,
  /- stile.port2.rec_attached -/ ⟨0x2300, 0x2300, 0x04, 0x04, .bool, 0x7F, 0x00, false, false, leN 1 0⟩,
  /- stile.port3.rec_attached -/ ⟨0x2400, 0x2400, 0x04, 0x04, .bool, 0x7F, 0x00, false, false, leN 1 0⟩,
  /- stile.port0.flash_id -/ ⟨0x2100, 0x2100, 0x05, 0x05, .bytes 3, 0x7F, 0x00, false, false, zeros 3⟩,
  /- stile.port1.flash_id -/ ⟨0x2200, 0x2200, 0x05, 0x05, .bytes 3, 0x7F, 0x00, false, false, zeros 3⟩,
  /- stile.port2.flash_id -/ ⟨0x2300, 0x2300, 0x05, 0x05, .bytes 3, 0x7F, 0x00, false, false, zeros 3⟩,
  /- stile.port3.flash_id -/ ⟨0x2400, 0x2400, 0x05, 0x05, .bytes 3, 0x7F, 0x00, false, false, zeros 3⟩,
  /- stile.port0.flash_size -/ ⟨0x2100, 0x2100, 0x06, 0x06, .u 4, 0x7F, 0x00, false, false, leN 4 0⟩,
  /- stile.port1.flash_size -/ ⟨0x2200, 0x2200, 0x06, 0x06, .u 4, 0x7F, 0x00, false, false, leN 4 0⟩,
  /- stile.port2.flash_size -/ ⟨0x2300, 0x2300, 0x06, 0x06, .u 4, 0x7F, 0x00, false, false, leN 4 0⟩,
  /- stile.port3.flash_size -/ ⟨0x2400, 0x2400, 0x06, 0x06, .u 4, 0x7F, 0x00, false, false, leN 4 0⟩,
  /- stile.port0.up_profile -/ ⟨0x2100, 0x2100, 0x07, 0x07, .enum 3, 0x7F, 0x01, true, true, leN 1 0⟩,
  /- stile.port1.up_profile -/ ⟨0x2200, 0x2200, 0x07, 0x07, .enum 3, 0x7F, 0x01, true, true, leN 1 0⟩,
  /- stile.port2.up_profile -/ ⟨0x2300, 0x2300, 0x07, 0x07, .enum 3, 0x7F, 0x01, true, true, leN 1 0⟩,
  /- stile.port3.up_profile -/ ⟨0x2400, 0x2400, 0x07, 0x07, .enum 3, 0x7F, 0x01, true, true, leN 1 0⟩,
  /- stile.port0.up_max_khz -/ ⟨0x2100, 0x2100, 0x08, 0x08, .u 4, 0x7F, 0x01, true, true, leN 4 50000⟩]

/-- Entries, part 3. -/
def entries3 : List Entry := [
  /- stile.port1.up_max_khz -/ ⟨0x2200, 0x2200, 0x08, 0x08, .u 4, 0x7F, 0x01, true, true, leN 4 50000⟩,
  /- stile.port2.up_max_khz -/ ⟨0x2300, 0x2300, 0x08, 0x08, .u 4, 0x7F, 0x01, true, true, leN 4 50000⟩,
  /- stile.port3.up_max_khz -/ ⟨0x2400, 0x2400, 0x08, 0x08, .u 4, 0x7F, 0x01, true, true, leN 4 50000⟩,
  /- stile.port0.down_mode -/ ⟨0x2100, 0x2100, 0x09, 0x09, .enum 7, 0x7F, 0x01, true, true, leN 1 0⟩,
  /- stile.port1.down_mode -/ ⟨0x2200, 0x2200, 0x09, 0x09, .enum 7, 0x7F, 0x01, true, true, leN 1 0⟩,
  /- stile.port2.down_mode -/ ⟨0x2300, 0x2300, 0x09, 0x09, .enum 7, 0x7F, 0x01, true, true, leN 1 0⟩,
  /- stile.port3.down_mode -/ ⟨0x2400, 0x2400, 0x09, 0x09, .enum 7, 0x7F, 0x01, true, true, leN 1 0⟩,
  /- stile.port0.down_max_khz -/ ⟨0x2100, 0x2100, 0x0A, 0x0A, .u 4, 0x7F, 0x01, true, true, leN 4 104000⟩,
  /- stile.port1.down_max_khz -/ ⟨0x2200, 0x2200, 0x0A, 0x0A, .u 4, 0x7F, 0x01, true, true, leN 4 104000⟩,
  /- stile.port2.down_max_khz -/ ⟨0x2300, 0x2300, 0x0A, 0x0A, .u 4, 0x7F, 0x01, true, true, leN 4 104000⟩,
  /- stile.port3.down_max_khz -/ ⟨0x2400, 0x2400, 0x0A, 0x0A, .u 4, 0x7F, 0x01, true, true, leN 4 104000⟩,
  /- stile.port0.jedec_id -/ ⟨0x2100, 0x2100, 0x0B, 0x0B, .bytes 3, 0x7F, 0x01, true, true, zeros 3⟩,
  /- stile.port1.jedec_id -/ ⟨0x2200, 0x2200, 0x0B, 0x0B, .bytes 3, 0x7F, 0x01, true, true, zeros 3⟩,
  /- stile.port2.jedec_id -/ ⟨0x2300, 0x2300, 0x0B, 0x0B, .bytes 3, 0x7F, 0x01, true, true, zeros 3⟩,
  /- stile.port3.jedec_id -/ ⟨0x2400, 0x2400, 0x0B, 0x0B, .bytes 3, 0x7F, 0x01, true, true, zeros 3⟩,
  /- stile.port0.allowlist -/ ⟨0x2100, 0x2100, 0x0C, 0x0C, .bytes 256, 0x7F, 0x01, true, true, allowBytes defaultAllow⟩,
  /- stile.port1.allowlist -/ ⟨0x2200, 0x2200, 0x0C, 0x0C, .bytes 256, 0x7F, 0x01, true, true, allowBytes defaultAllow⟩,
  /- stile.port2.allowlist -/ ⟨0x2300, 0x2300, 0x0C, 0x0C, .bytes 256, 0x7F, 0x01, true, true, allowBytes defaultAllow⟩,
  /- stile.port3.allowlist -/ ⟨0x2400, 0x2400, 0x0C, 0x0C, .bytes 256, 0x7F, 0x01, true, true, allowBytes defaultAllow⟩,
  /- stile.port0.fast_read_max_khz -/ ⟨0x2100, 0x2100, 0x0D, 0x0D, .u 4, 0x7F, 0x00, false, false, leN 4 50000⟩,
  /- stile.port1.fast_read_max_khz -/ ⟨0x2200, 0x2200, 0x0D, 0x0D, .u 4, 0x7F, 0x00, false, false, leN 4 50000⟩,
  /- stile.port2.fast_read_max_khz -/ ⟨0x2300, 0x2300, 0x0D, 0x0D, .u 4, 0x7F, 0x00, false, false, leN 4 50000⟩,
  /- stile.port3.fast_read_max_khz -/ ⟨0x2400, 0x2400, 0x0D, 0x0D, .u 4, 0x7F, 0x00, false, false, leN 4 50000⟩,
  /- stile.port0.dummy -/ ⟨0x2100, 0x2100, 0x0E, 0x0E, .bytes 5, 0x7F, 0x00, false, false, bytesOf [8, 4, 8, 6, 8]⟩,
  /- stile.port1.dummy -/ ⟨0x2200, 0x2200, 0x0E, 0x0E, .bytes 5, 0x7F, 0x00, false, false, bytesOf [8, 4, 8, 6, 8]⟩,
  /- stile.port2.dummy -/ ⟨0x2300, 0x2300, 0x0E, 0x0E, .bytes 5, 0x7F, 0x00, false, false, bytesOf [8, 4, 8, 6, 8]⟩,
  /- stile.port3.dummy -/ ⟨0x2400, 0x2400, 0x0E, 0x0E, .bytes 5, 0x7F, 0x00, false, false, bytesOf [8, 4, 8, 6, 8]⟩,
  /- stile.port0.refused -/ ⟨0x2100, 0x2100, 0x0F, 0x0F, .u 8, 0x7F, 0x00, false, false, leN 8 0⟩,
  /- stile.port1.refused -/ ⟨0x2200, 0x2200, 0x0F, 0x0F, .u 8, 0x7F, 0x00, false, false, leN 8 0⟩,
  /- stile.port2.refused -/ ⟨0x2300, 0x2300, 0x0F, 0x0F, .u 8, 0x7F, 0x00, false, false, leN 8 0⟩,
  /- stile.port3.refused -/ ⟨0x2400, 0x2400, 0x0F, 0x0F, .u 8, 0x7F, 0x00, false, false, leN 8 0⟩,
  /- stile.port0.late_bytes -/ ⟨0x2100, 0x2100, 0x10, 0x10, .u 8, 0x7F, 0x00, false, false, leN 8 0⟩,
  /- stile.port1.late_bytes -/ ⟨0x2200, 0x2200, 0x10, 0x10, .u 8, 0x7F, 0x00, false, false, leN 8 0⟩,
  /- stile.port2.late_bytes -/ ⟨0x2300, 0x2300, 0x10, 0x10, .u 8, 0x7F, 0x00, false, false, leN 8 0⟩,
  /- stile.port3.late_bytes -/ ⟨0x2400, 0x2400, 0x10, 0x10, .u 8, 0x7F, 0x00, false, false, leN 8 0⟩,
  /- stile.port0.unknown -/ ⟨0x2100, 0x2100, 0x11, 0x11, .u 8, 0x7F, 0x00, false, false, leN 8 0⟩,
  /- stile.port1.unknown -/ ⟨0x2200, 0x2200, 0x11, 0x11, .u 8, 0x7F, 0x00, false, false, leN 8 0⟩,
  /- stile.port2.unknown -/ ⟨0x2300, 0x2300, 0x11, 0x11, .u 8, 0x7F, 0x00, false, false, leN 8 0⟩,
  /- stile.port3.unknown -/ ⟨0x2400, 0x2400, 0x11, 0x11, .u 8, 0x7F, 0x00, false, false, leN 8 0⟩,
  /- stile.port0.sfdp -/ ⟨0x2100, 0x2100, 0x12, 0x12, .bytes 512, 0x7F, 0x00, false, false, zeros 512⟩]

/-- Entries, part 4. -/
def entries4 : List Entry := [
  /- stile.port1.sfdp -/ ⟨0x2200, 0x2200, 0x12, 0x12, .bytes 512, 0x7F, 0x00, false, false, zeros 512⟩,
  /- stile.port2.sfdp -/ ⟨0x2300, 0x2300, 0x12, 0x12, .bytes 512, 0x7F, 0x00, false, false, zeros 512⟩,
  /- stile.port3.sfdp -/ ⟨0x2400, 0x2400, 0x12, 0x12, .bytes 512, 0x7F, 0x00, false, false, zeros 512⟩,
  /- stile.port0.manifest.a -/ ⟨0x2101, 0x2101, 0x01, 0x01, .bytes 12288, 0x7F, 0x01, true, true, []⟩,
  /- stile.port1.manifest.a -/ ⟨0x2201, 0x2201, 0x01, 0x01, .bytes 12288, 0x7F, 0x01, true, true, []⟩,
  /- stile.port2.manifest.a -/ ⟨0x2301, 0x2301, 0x01, 0x01, .bytes 12288, 0x7F, 0x01, true, true, []⟩,
  /- stile.port3.manifest.a -/ ⟨0x2401, 0x2401, 0x01, 0x01, .bytes 12288, 0x7F, 0x01, true, true, []⟩,
  /- stile.port0.manifest.b -/ ⟨0x2101, 0x2101, 0x02, 0x02, .bytes 12288, 0x7F, 0x01, true, true, []⟩,
  /- stile.port1.manifest.b -/ ⟨0x2201, 0x2201, 0x02, 0x02, .bytes 12288, 0x7F, 0x01, true, true, []⟩,
  /- stile.port2.manifest.b -/ ⟨0x2301, 0x2301, 0x02, 0x02, .bytes 12288, 0x7F, 0x01, true, true, []⟩,
  /- stile.port3.manifest.b -/ ⟨0x2401, 0x2401, 0x02, 0x02, .bytes 12288, 0x7F, 0x01, true, true, []⟩,
  /- stile.port0.manifest.r -/ ⟨0x2101, 0x2101, 0x03, 0x03, .bytes 12288, 0x7F, 0x01, true, true, []⟩,
  /- stile.port1.manifest.r -/ ⟨0x2201, 0x2201, 0x03, 0x03, .bytes 12288, 0x7F, 0x01, true, true, []⟩,
  /- stile.port2.manifest.r -/ ⟨0x2301, 0x2301, 0x03, 0x03, .bytes 12288, 0x7F, 0x01, true, true, []⟩,
  /- stile.port3.manifest.r -/ ⟨0x2401, 0x2401, 0x03, 0x03, .bytes 12288, 0x7F, 0x01, true, true, []⟩,
  /- stile.port0.slot_base_a -/ ⟨0x2101, 0x2101, 0x04, 0x04, .u 4, 0x7F, 0x01, true, true, leN 4 0⟩,
  /- stile.port1.slot_base_a -/ ⟨0x2201, 0x2201, 0x04, 0x04, .u 4, 0x7F, 0x01, true, true, leN 4 0⟩,
  /- stile.port2.slot_base_a -/ ⟨0x2301, 0x2301, 0x04, 0x04, .u 4, 0x7F, 0x01, true, true, leN 4 0⟩,
  /- stile.port3.slot_base_a -/ ⟨0x2401, 0x2401, 0x04, 0x04, .u 4, 0x7F, 0x01, true, true, leN 4 0⟩,
  /- stile.port0.slot_base_b -/ ⟨0x2101, 0x2101, 0x05, 0x05, .u 4, 0x7F, 0x01, true, true, leN 4 33554432⟩,
  /- stile.port1.slot_base_b -/ ⟨0x2201, 0x2201, 0x05, 0x05, .u 4, 0x7F, 0x01, true, true, leN 4 33554432⟩,
  /- stile.port2.slot_base_b -/ ⟨0x2301, 0x2301, 0x05, 0x05, .u 4, 0x7F, 0x01, true, true, leN 4 33554432⟩,
  /- stile.port3.slot_base_b -/ ⟨0x2401, 0x2401, 0x05, 0x05, .u 4, 0x7F, 0x01, true, true, leN 4 33554432⟩,
  /- stile.port0.slot_size -/ ⟨0x2101, 0x2101, 0x06, 0x06, .u 4, 0x7F, 0x01, true, true, leN 4 32768⟩,
  /- stile.port1.slot_size -/ ⟨0x2201, 0x2201, 0x06, 0x06, .u 4, 0x7F, 0x01, true, true, leN 4 32768⟩,
  /- stile.port2.slot_size -/ ⟨0x2301, 0x2301, 0x06, 0x06, .u 4, 0x7F, 0x01, true, true, leN 4 32768⟩,
  /- stile.port3.slot_size -/ ⟨0x2401, 0x2401, 0x06, 0x06, .u 4, 0x7F, 0x01, true, true, leN 4 32768⟩,
  /- stile.port0.fail_response -/ ⟨0x2101, 0x2101, 0x07, 0x07, .u 1, 0x7F, 0x01, true, true, leN 1 3⟩,
  /- stile.port1.fail_response -/ ⟨0x2201, 0x2201, 0x07, 0x07, .u 1, 0x7F, 0x01, true, true, leN 1 3⟩,
  /- stile.port2.fail_response -/ ⟨0x2301, 0x2301, 0x07, 0x07, .u 1, 0x7F, 0x01, true, true, leN 1 3⟩,
  /- stile.port3.fail_response -/ ⟨0x2401, 0x2401, 0x07, 0x07, .u 1, 0x7F, 0x01, true, true, leN 1 3⟩,
  /- stile.port0.overflow_response -/ ⟨0x2101, 0x2101, 0x08, 0x08, .u 1, 0x7F, 0x01, true, true, leN 1 6⟩,
  /- stile.port1.overflow_response -/ ⟨0x2201, 0x2201, 0x08, 0x08, .u 1, 0x7F, 0x01, true, true, leN 1 6⟩,
  /- stile.port2.overflow_response -/ ⟨0x2301, 0x2301, 0x08, 0x08, .u 1, 0x7F, 0x01, true, true, leN 1 6⟩,
  /- stile.port3.overflow_response -/ ⟨0x2401, 0x2401, 0x08, 0x08, .u 1, 0x7F, 0x01, true, true, leN 1 6⟩,
  /- stile.port0.floor -/ ⟨0x2101, 0x2101, 0x09, 0x09, .u 2, 0x7F, 0x01, true, true, leN 2 0⟩,
  /- stile.port1.floor -/ ⟨0x2201, 0x2201, 0x09, 0x09, .u 2, 0x7F, 0x01, true, true, leN 2 0⟩,
  /- stile.port2.floor -/ ⟨0x2301, 0x2301, 0x09, 0x09, .u 2, 0x7F, 0x01, true, true, leN 2 0⟩,
  /- stile.port3.floor -/ ⟨0x2401, 0x2401, 0x09, 0x09, .u 2, 0x7F, 0x01, true, true, leN 2 0⟩,
  /- stile.port0.serving -/ ⟨0x2101, 0x2101, 0x0A, 0x0A, .enum 4, 0x7F, 0x00, false, false, leN 1 0⟩]

/-- Entries, part 5. -/
def entries5 : List Entry := [
  /- stile.port1.serving -/ ⟨0x2201, 0x2201, 0x0A, 0x0A, .enum 4, 0x7F, 0x00, false, false, leN 1 0⟩,
  /- stile.port2.serving -/ ⟨0x2301, 0x2301, 0x0A, 0x0A, .enum 4, 0x7F, 0x00, false, false, leN 1 0⟩,
  /- stile.port3.serving -/ ⟨0x2401, 0x2401, 0x0A, 0x0A, .enum 4, 0x7F, 0x00, false, false, leN 1 0⟩,
  /- stile.port0.verdict -/ ⟨0x2101, 0x2101, 0x0B, 0x0B, .enum 3, 0x7F, 0x00, false, false, leN 1 0⟩,
  /- stile.port1.verdict -/ ⟨0x2201, 0x2201, 0x0B, 0x0B, .enum 3, 0x7F, 0x00, false, false, leN 1 0⟩,
  /- stile.port2.verdict -/ ⟨0x2301, 0x2301, 0x0B, 0x0B, .enum 3, 0x7F, 0x00, false, false, leN 1 0⟩,
  /- stile.port3.verdict -/ ⟨0x2401, 0x2401, 0x0B, 0x0B, .enum 3, 0x7F, 0x00, false, false, leN 1 0⟩,
  /- stile.port0.verdict_reason -/ ⟨0x2101, 0x2101, 0x0C, 0x0C, .u 1, 0x7F, 0x00, false, false, leN 1 0⟩,
  /- stile.port1.verdict_reason -/ ⟨0x2201, 0x2201, 0x0C, 0x0C, .u 1, 0x7F, 0x00, false, false, leN 1 0⟩,
  /- stile.port2.verdict_reason -/ ⟨0x2301, 0x2301, 0x0C, 0x0C, .u 1, 0x7F, 0x00, false, false, leN 1 0⟩,
  /- stile.port3.verdict_reason -/ ⟨0x2401, 0x2401, 0x0C, 0x0C, .u 1, 0x7F, 0x00, false, false, leN 1 0⟩,
  /- stile.port0.debt -/ ⟨0x2101, 0x2101, 0x0D, 0x0D, .u 2, 0x7F, 0x00, false, false, leN 2 0⟩,
  /- stile.port1.debt -/ ⟨0x2201, 0x2201, 0x0D, 0x0D, .u 2, 0x7F, 0x00, false, false, leN 2 0⟩,
  /- stile.port2.debt -/ ⟨0x2301, 0x2301, 0x0D, 0x0D, .u 2, 0x7F, 0x00, false, false, leN 2 0⟩,
  /- stile.port3.debt -/ ⟨0x2401, 0x2401, 0x0D, 0x0D, .u 2, 0x7F, 0x00, false, false, leN 2 0⟩,
  /- stile.port0.debt_overflows -/ ⟨0x2101, 0x2101, 0x0E, 0x0E, .u 8, 0x7F, 0x00, false, false, leN 8 0⟩,
  /- stile.port1.debt_overflows -/ ⟨0x2201, 0x2201, 0x0E, 0x0E, .u 8, 0x7F, 0x00, false, false, leN 8 0⟩,
  /- stile.port2.debt_overflows -/ ⟨0x2301, 0x2301, 0x0E, 0x0E, .u 8, 0x7F, 0x00, false, false, leN 8 0⟩,
  /- stile.port3.debt_overflows -/ ⟨0x2401, 0x2401, 0x0E, 0x0E, .u 8, 0x7F, 0x00, false, false, leN 8 0⟩,
  /- stile.port0.tag_fail -/ ⟨0x2101, 0x2101, 0x0F, 0x0F, .u 8, 0x7F, 0x00, false, false, leN 8 0⟩,
  /- stile.port1.tag_fail -/ ⟨0x2201, 0x2201, 0x0F, 0x0F, .u 8, 0x7F, 0x00, false, false, leN 8 0⟩,
  /- stile.port2.tag_fail -/ ⟨0x2301, 0x2301, 0x0F, 0x0F, .u 8, 0x7F, 0x00, false, false, leN 8 0⟩,
  /- stile.port3.tag_fail -/ ⟨0x2401, 0x2401, 0x0F, 0x0F, .u 8, 0x7F, 0x00, false, false, leN 8 0⟩,
  /- stile.port0.sweep -/ ⟨0x2101, 0x2101, 0x10, 0x10, .enum 2, 0x7F, 0x00, false, false, leN 1 0⟩,
  /- stile.port1.sweep -/ ⟨0x2201, 0x2201, 0x10, 0x10, .enum 2, 0x7F, 0x00, false, false, leN 1 0⟩,
  /- stile.port2.sweep -/ ⟨0x2301, 0x2301, 0x10, 0x10, .enum 2, 0x7F, 0x00, false, false, leN 1 0⟩,
  /- stile.port3.sweep -/ ⟨0x2401, 0x2401, 0x10, 0x10, .enum 2, 0x7F, 0x00, false, false, leN 1 0⟩,
  /- stile.port0.shed_kib -/ ⟨0x2101, 0x2101, 0x11, 0x11, .u 4, 0x7F, 0x00, false, false, leN 4 0⟩,
  /- stile.port1.shed_kib -/ ⟨0x2201, 0x2201, 0x11, 0x11, .u 4, 0x7F, 0x00, false, false, leN 4 0⟩,
  /- stile.port2.shed_kib -/ ⟨0x2301, 0x2301, 0x11, 0x11, .u 4, 0x7F, 0x00, false, false, leN 4 0⟩,
  /- stile.port3.shed_kib -/ ⟨0x2401, 0x2401, 0x11, 0x11, .u 4, 0x7F, 0x00, false, false, leN 4 0⟩,
  /- stile.port0.tags -/ ⟨0x2101, 0x2101, 0x12, 0x12, .u 4, 0x7F, 0x00, false, false, leN 4 0⟩,
  /- stile.port1.tags -/ ⟨0x2201, 0x2201, 0x12, 0x12, .u 4, 0x7F, 0x00, false, false, leN 4 0⟩,
  /- stile.port2.tags -/ ⟨0x2301, 0x2301, 0x12, 0x12, .u 4, 0x7F, 0x00, false, false, leN 4 0⟩,
  /- stile.port3.tags -/ ⟨0x2401, 0x2401, 0x12, 0x12, .u 4, 0x7F, 0x00, false, false, leN 4 0⟩,
  /- stile.port0.ledger.sequence -/ ⟨0x2102, 0x2102, 0x01, 0x01, .u 4, 0x7F, 0x00, false, false, leN 4 0⟩,
  /- stile.port1.ledger.sequence -/ ⟨0x2202, 0x2202, 0x01, 0x01, .u 4, 0x7F, 0x00, false, false, leN 4 0⟩,
  /- stile.port2.ledger.sequence -/ ⟨0x2302, 0x2302, 0x01, 0x01, .u 4, 0x7F, 0x00, false, false, leN 4 0⟩,
  /- stile.port3.ledger.sequence -/ ⟨0x2402, 0x2402, 0x01, 0x01, .u 4, 0x7F, 0x00, false, false, leN 4 0⟩,
  /- stile.port0.slotA.state -/ ⟨0x2102, 0x2102, 0x02, 0x02, .enum 7, 0x7F, 0x00, false, false, leN 1 0⟩]

/-- Entries, part 6. -/
def entries6 : List Entry := [
  /- stile.port1.slotA.state -/ ⟨0x2202, 0x2202, 0x02, 0x02, .enum 7, 0x7F, 0x00, false, false, leN 1 0⟩,
  /- stile.port2.slotA.state -/ ⟨0x2302, 0x2302, 0x02, 0x02, .enum 7, 0x7F, 0x00, false, false, leN 1 0⟩,
  /- stile.port3.slotA.state -/ ⟨0x2402, 0x2402, 0x02, 0x02, .enum 7, 0x7F, 0x00, false, false, leN 1 0⟩,
  /- stile.port0.slotB.state -/ ⟨0x2102, 0x2102, 0x03, 0x03, .enum 7, 0x7F, 0x00, false, false, leN 1 0⟩,
  /- stile.port1.slotB.state -/ ⟨0x2202, 0x2202, 0x03, 0x03, .enum 7, 0x7F, 0x00, false, false, leN 1 0⟩,
  /- stile.port2.slotB.state -/ ⟨0x2302, 0x2302, 0x03, 0x03, .enum 7, 0x7F, 0x00, false, false, leN 1 0⟩,
  /- stile.port3.slotB.state -/ ⟨0x2402, 0x2402, 0x03, 0x03, .enum 7, 0x7F, 0x00, false, false, leN 1 0⟩,
  /- stile.port0.slotR.state -/ ⟨0x2102, 0x2102, 0x04, 0x04, .enum 7, 0x7F, 0x00, false, false, leN 1 0⟩,
  /- stile.port1.slotR.state -/ ⟨0x2202, 0x2202, 0x04, 0x04, .enum 7, 0x7F, 0x00, false, false, leN 1 0⟩,
  /- stile.port2.slotR.state -/ ⟨0x2302, 0x2302, 0x04, 0x04, .enum 7, 0x7F, 0x00, false, false, leN 1 0⟩,
  /- stile.port3.slotR.state -/ ⟨0x2402, 0x2402, 0x04, 0x04, .enum 7, 0x7F, 0x00, false, false, leN 1 0⟩,
  /- stile.port0.active -/ ⟨0x2102, 0x2102, 0x05, 0x05, .enum 3, 0x7F, 0x00, false, false, leN 1 0⟩,
  /- stile.port1.active -/ ⟨0x2202, 0x2202, 0x05, 0x05, .enum 3, 0x7F, 0x00, false, false, leN 1 0⟩,
  /- stile.port2.active -/ ⟨0x2302, 0x2302, 0x05, 0x05, .enum 3, 0x7F, 0x00, false, false, leN 1 0⟩,
  /- stile.port3.active -/ ⟨0x2402, 0x2402, 0x05, 0x05, .enum 3, 0x7F, 0x00, false, false, leN 1 0⟩,
  /- stile.port0.trial -/ ⟨0x2102, 0x2102, 0x06, 0x06, .enum 3, 0x7F, 0x00, false, false, leN 1 0⟩,
  /- stile.port1.trial -/ ⟨0x2202, 0x2202, 0x06, 0x06, .enum 3, 0x7F, 0x00, false, false, leN 1 0⟩,
  /- stile.port2.trial -/ ⟨0x2302, 0x2302, 0x06, 0x06, .enum 3, 0x7F, 0x00, false, false, leN 1 0⟩,
  /- stile.port3.trial -/ ⟨0x2402, 0x2402, 0x06, 0x06, .enum 3, 0x7F, 0x00, false, false, leN 1 0⟩,
  /- stile.port0.trial.count -/ ⟨0x2102, 0x2102, 0x07, 0x07, .u 1, 0x7F, 0x00, false, false, leN 1 0⟩,
  /- stile.port1.trial.count -/ ⟨0x2202, 0x2202, 0x07, 0x07, .u 1, 0x7F, 0x00, false, false, leN 1 0⟩,
  /- stile.port2.trial.count -/ ⟨0x2302, 0x2302, 0x07, 0x07, .u 1, 0x7F, 0x00, false, false, leN 1 0⟩,
  /- stile.port3.trial.count -/ ⟨0x2402, 0x2402, 0x07, 0x07, .u 1, 0x7F, 0x00, false, false, leN 1 0⟩,
  /- stile.port0.trial.remaining -/ ⟨0x2102, 0x2102, 0x08, 0x08, .u 4, 0x7F, 0x00, false, false, leN 4 0⟩,
  /- stile.port1.trial.remaining -/ ⟨0x2202, 0x2202, 0x08, 0x08, .u 4, 0x7F, 0x00, false, false, leN 4 0⟩,
  /- stile.port2.trial.remaining -/ ⟨0x2302, 0x2302, 0x08, 0x08, .u 4, 0x7F, 0x00, false, false, leN 4 0⟩,
  /- stile.port3.trial.remaining -/ ⟨0x2402, 0x2402, 0x08, 0x08, .u 4, 0x7F, 0x00, false, false, leN 4 0⟩,
  /- stile.port0.activate -/ ⟨0x2102, 0x2102, 0x09, 0x09, .enum 4, 0x7F, 0x01, true, false, leN 1 0⟩,
  /- stile.port1.activate -/ ⟨0x2202, 0x2202, 0x09, 0x09, .enum 4, 0x7F, 0x01, true, false, leN 1 0⟩,
  /- stile.port2.activate -/ ⟨0x2302, 0x2302, 0x09, 0x09, .enum 4, 0x7F, 0x01, true, false, leN 1 0⟩,
  /- stile.port3.activate -/ ⟨0x2402, 0x2402, 0x09, 0x09, .enum 4, 0x7F, 0x01, true, false, leN 1 0⟩,
  /- stile.port0.confirm -/ ⟨0x2102, 0x2102, 0x0A, 0x0A, .bool, 0x7F, 0x09, false, false, leN 1 0⟩,
  /- stile.port1.confirm -/ ⟨0x2202, 0x2202, 0x0A, 0x0A, .bool, 0x7F, 0x09, false, false, leN 1 0⟩,
  /- stile.port2.confirm -/ ⟨0x2302, 0x2302, 0x0A, 0x0A, .bool, 0x7F, 0x09, false, false, leN 1 0⟩,
  /- stile.port3.confirm -/ ⟨0x2402, 0x2402, 0x0A, 0x0A, .bool, 0x7F, 0x09, false, false, leN 1 0⟩,
  /- stile.port0.restart -/ ⟨0x2102, 0x2102, 0x0B, 0x0B, .bool, 0x7F, 0x09, false, false, leN 1 0⟩,
  /- stile.port1.restart -/ ⟨0x2202, 0x2202, 0x0B, 0x0B, .bool, 0x7F, 0x09, false, false, leN 1 0⟩,
  /- stile.port2.restart -/ ⟨0x2302, 0x2302, 0x0B, 0x0B, .bool, 0x7F, 0x09, false, false, leN 1 0⟩,
  /- stile.port3.restart -/ ⟨0x2402, 0x2402, 0x0B, 0x0B, .bool, 0x7F, 0x09, false, false, leN 1 0⟩,
  /- platform.trial.window -/ ⟨0x2800, 0x2800, 0x01, 0x01, .u 4, 0x7F, 0x01, true, true, leN 4 600⟩]

/-- Entries, part 7. -/
def entries7 : List Entry := [
  /- platform.update.activation -/ ⟨0x2800, 0x2800, 0x02, 0x02, .enum 2, 0x7F, 0x01, true, true, leN 1 0⟩,
  /- platform.update.transports -/ ⟨0x2800, 0x2800, 0x03, 0x03, .u 1, 0x7F, 0x01, true, true, leN 1 7⟩,
  /- platform.update.max_transfer -/ ⟨0x2800, 0x2800, 0x04, 0x04, .u 4, 0x7F, 0x01, true, true, leN 4 1024⟩,
  /- platform.update.state -/ ⟨0x2800, 0x2800, 0x05, 0x05, .enum 7, 0x7F, 0x00, false, false, leN 1 0⟩,
  /- platform.update.component -/ ⟨0x2800, 0x2800, 0x06, 0x06, .u 2, 0x7F, 0x00, false, false, leN 2 0⟩,
  /- platform.update.received -/ ⟨0x2800, 0x2800, 0x07, 0x07, .u 4, 0x7F, 0x00, false, false, leN 4 0⟩,
  /- partner.ic0.enable -/ ⟨0x3000, 0x3000, 0x01, 0x01, .bool, 0x7F, 0x01, true, true, leN 1 0⟩,
  /- partner.ic1.enable -/ ⟨0x3000, 0x3000, 0x02, 0x02, .bool, 0x7F, 0x01, true, true, leN 1 0⟩,
  /- partner.ic2.static_addr -/ ⟨0x3000, 0x3000, 0x03, 0x03, .u 1, 0x7F, 0x01, true, true, leN 1 112⟩,
  /- partner.ic3.static_addr -/ ⟨0x3000, 0x3000, 0x04, 0x04, .u 1, 0x7F, 0x01, true, true, leN 1 113⟩,
  /- partner.eid.own -/ ⟨0x3000, 0x3000, 0x05, 0x05, .u 1, 0x7F, 0x01, true, true, leN 1 8⟩,
  /- partner.eid.pool_base -/ ⟨0x3000, 0x3000, 0x06, 0x06, .u 1, 0x7F, 0x01, true, true, leN 1 32⟩,
  /- partner.eid.pool_size -/ ⟨0x3000, 0x3000, 0x07, 0x07, .u 1, 0x7F, 0x01, true, true, leN 1 96⟩,
  /- partner.poll_ms -/ ⟨0x3000, 0x3000, 0x08, 0x08, .u 2, 0x7F, 0x01, true, true, leN 2 1000⟩,
  /- partner.reattest_s -/ ⟨0x3000, 0x3000, 0x09, 0x09, .u 4, 0x7F, 0x01, true, true, leN 4 0⟩,
  /- partner.responder.transports -/ ⟨0x3000, 0x3000, 0x0A, 0x0A, .u 1, 0x7F, 0x01, true, true, leN 1 7⟩,
  /- partner.spdm.dead_msgs -/ ⟨0x3000, 0x3000, 0x0B, 0x0B, .u 8, 0x7F, 0x00, false, false, leN 8 0⟩,
  /- partner.mctp.late_msgs -/ ⟨0x3000, 0x3000, 0x0C, 0x0C, .u 8, 0x7F, 0x00, false, false, leN 8 0⟩,
  /- partner.spdm.sessions -/ ⟨0x3000, 0x3000, 0x0D, 0x0D, .u 1, 0x7F, 0x00, false, false, leN 1 0⟩,
  /- partner.tableNN -/ ⟨0x3100, 0x3100, 0x00, 0x3F, .bytes 128, 0x7F, 0x00, false, false, zeros 128⟩,
  /- partner.policyNN -/ ⟨0x3200, 0x3200, 0x00, 0x3F, .bytes 128, 0x0D, 0x01, true, true, zeros 128⟩,
  /- partner.cert.owner -/ ⟨0x3300, 0x3300, 0x01, 0x01, .bytes 8192, 0x7F, 0x01, true, true, []⟩,
  /- partner.cert.slot0 -/ ⟨0x3300, 0x3300, 0x02, 0x02, .digest, 0x7F, 0x00, false, false, zeros 48⟩,
  /- partner.cert.slot1 -/ ⟨0x3300, 0x3300, 0x03, 0x03, .digest, 0x7F, 0x00, false, false, zeros 48⟩,
  /- tack.slots.used -/ ⟨0x4000, 0x4000, 0x01, 0x01, .u 4, 0x7F, 0x00, false, false, leN 4 0⟩,
  /- tack.slots.persistent -/ ⟨0x4000, 0x4000, 0x02, 0x02, .u 4, 0x7F, 0x00, false, false, leN 4 0⟩,
  /- tack.slots.retired -/ ⟨0x4000, 0x4000, 0x03, 0x03, .u 4, 0x7F, 0x00, false, false, leN 4 0⟩,
  /- tack.srk.present -/ ⟨0x4000, 0x4000, 0x04, 0x04, .bool, 0x7F, 0x00, false, false, leN 1 0⟩,
  /- tack.srk.generate -/ ⟨0x4000, 0x4000, 0x05, 0x05, .bool, 0x7F, 0x01, true, false, leN 1 0⟩,
  /- tack.command -/ ⟨0x4000, 0x4000, 0x06, 0x06, .bytes 12352, 0x05, 0x01, true, false, []⟩,
  /- tack.result -/ ⟨0x4000, 0x4000, 0x07, 0x07, .bytes 16, 0x05, 0x00, false, false, zeros 16⟩,
  /- tack.export -/ ⟨0x4000, 0x4000, 0x08, 0x08, .bytes 12288, 0x01, 0x00, false, false, []⟩,
  /- tack.inspect -/ ⟨0x4000, 0x4000, 0x09, 0x09, .keyref, 0x15, 0x15, false, false, leN 4 0⟩,
  /- tack.inspect.record -/ ⟨0x4000, 0x4000, 0x0A, 0x0A, .bytes 32, 0x15, 0x00, false, false, zeros 32⟩,
  /- tack.sweeps -/ ⟨0x4000, 0x4000, 0x0B, 0x0B, .u 8, 0x7F, 0x00, false, false, leN 8 0⟩,
  /- tack.drbg.state -/ ⟨0x4000, 0x4000, 0x0C, 0x0C, .enum 2, 0x7F, 0x00, false, false, leN 1 0⟩,
  /- tack.monoNN -/ ⟨0x4001, 0x4001, 0x00, 0x0F, .u 8, 0x7F, 0x00, false, false, leN 8 0⟩,
  /- tack.monoNN.inc -/ ⟨0x4002, 0x4002, 0x00, 0x0F, .u 4, 0x7F, 0x09, false, false, leN 4 0⟩,
  /- yard.digest.pool.free -/ ⟨0x6020, 0x6020, 0x01, 0x01, .u 2, 0x7F, 0x00, false, false, leN 2 944⟩,
  /- yard.digest.reserve.free -/ ⟨0x6020, 0x6020, 0x02, 0x02, .u 1, 0x7F, 0x00, false, false, leN 1 64⟩]

/-- Entries, part 8. -/
def entries8 : List Entry := [
  /- yard.digest.streams.open -/ ⟨0x6020, 0x6020, 0x03, 0x03, .u 4, 0x17, 0x00, false, false, leN 4 0⟩,
  /- yard.digest.hampers.exported -/ ⟨0x6020, 0x6020, 0x04, 0x04, .u 8, 0x17, 0x00, false, false, leN 8 0⟩,
  /- yard.digest.hampers.imported -/ ⟨0x6020, 0x6020, 0x05, 0x05, .u 8, 0x17, 0x00, false, false, leN 8 0⟩,
  /- yard.digest.hampers.refused -/ ⟨0x6020, 0x6020, 0x06, 0x06, .u 8, 0x17, 0x00, false, false, leN 8 0⟩,
  /- yard.digest.state_cache.used -/ ⟨0x6020, 0x6020, 0x07, 0x07, .u 2, 0x7F, 0x00, false, false, leN 2 0⟩,
  /- yard.block.kcv_aes_form -/ ⟨0x6030, 0x6030, 0x01, 0x01, .enum 2, 0x7F, 0x01, true, true, leN 1 0⟩,
  /- yard.block.c4_lanes -/ ⟨0x6030, 0x6030, 0x02, 0x02, .u 1, 0x7F, 0x00, false, false, leN 1 0⟩,
  /- yard.block.mac_segmented -/ ⟨0x6030, 0x6030, 0x03, 0x03, .u 8, 0x17, 0x00, false, false, leN 8 0⟩,
  /- yard.block.mac_mismatch -/ ⟨0x6030, 0x6030, 0x04, 0x04, .u 8, 0x17, 0x00, false, false, leN 8 0⟩,
  /- yard.pk.faults -/ ⟨0x6040, 0x6040, 0x01, 0x01, .u 8, 0x7F, 0x00, false, false, leN 8 0⟩,
  /- yard.pk.pairs_disabled -/ ⟨0x6040, 0x6040, 0x02, 0x02, .u 2, 0x7F, 0x00, false, false, leN 2 0⟩,
  /- yard.lt.pairs_disabled -/ ⟨0x6040, 0x6040, 0x03, 0x03, .u 1, 0x7F, 0x00, false, false, leN 1 0⟩,
  /- yard.pk.retest -/ ⟨0x6040, 0x6040, 0x04, 0x04, .bool, 0x7F, 0x01, true, false, leN 1 0⟩,
  /- yard.pk.screen_rejects -/ ⟨0x6040, 0x6040, 0x05, 0x05, .u 8, 0x17, 0x00, false, false, leN 8 0⟩,
  /- yard.pk.sign_retry -/ ⟨0x6040, 0x6040, 0x06, 0x06, .u 8, 0x17, 0x00, false, false, leN 8 0⟩,
  /- yard.pk.curves -/ ⟨0x6040, 0x6040, 0x07, 0x07, .u 2, 0x7F, 0x00, false, false, leN 2 0⟩,
  /- yard.pk.curve_rejects -/ ⟨0x6040, 0x6040, 0x08, 0x08, .u 8, 0x17, 0x00, false, false, leN 8 0⟩,
  /- yard.txn.pin_matrix -/ ⟨0x6050, 0x6050, 0x01, 0x01, .u 2, 0x7F, 0x01, true, true, leN 2 36093⟩,
  /- yard.txn.pin_bad_blocks -/ ⟨0x6050, 0x6050, 0x02, 0x02, .u 8, 0x17, 0x00, false, false, leN 8 0⟩,
  /- yard.txn.dukpt_exhausted -/ ⟨0x6050, 0x6050, 0x03, 0x03, .u 8, 0x17, 0x00, false, false, leN 8 0⟩,
  /- yard.txn.arqc_mismatch -/ ⟨0x6050, 0x6050, 0x04, 0x04, .u 8, 0x17, 0x00, false, false, leN 8 0⟩,
  /- yard.txn.pin_translations -/ ⟨0x6050, 0x6050, 0x05, 0x05, .u 8, 0x17, 0x00, false, false, leN 8 0⟩,
  /- paddock.command -/ ⟨0x5000, 0x5000, 0x01, 0x01, .bytes 64, 0x15, 0x10, false, false, zeros 64⟩,
  /- paddock.result -/ ⟨0x5000, 0x5000, 0x02, 0x02, .bytes 64, 0x15, 0x00, false, false, zeros 64⟩,
  /- paddock.pool.key_slots -/ ⟨0x5000, 0x5000, 0x03, 0x03, .u 4, 0x7F, 0x00, false, false, leN 4 28672⟩,
  /- paddock.granted.key_slots -/ ⟨0x5000, 0x5000, 0x04, 0x04, .u 4, 0x7F, 0x00, false, false, leN 4 0⟩,
  /- paddock.granted.contexts -/ ⟨0x5000, 0x5000, 0x05, 0x05, .u 2, 0x7F, 0x00, false, false, leN 2 16⟩,
  /- paddock.granted.streams -/ ⟨0x5000, 0x5000, 0x06, 0x06, .u 4, 0x7F, 0x00, false, false, leN 4 16⟩,
  /- paddock.enabled -/ ⟨0x5000, 0x5000, 0x07, 0x07, .u 2, 0x7F, 0x00, false, false, leN 2 1⟩,
  /- paddock.pcie.cpl_timeout -/ ⟨0x5000, 0x5000, 0x08, 0x08, .u 4, 0x7F, 0x10, false, true, leN 4 10000⟩,
  /- paddock.quarantined_tags -/ ⟨0x5000, 0x5000, 0x09, 0x09, .u 2, 0x7F, 0x00, false, false, leN 2 0⟩,
  /- paddock.late_completions -/ ⟨0x5000, 0x5000, 0x0A, 0x0A, .u 8, 0x7F, 0x00, false, false, leN 8 0⟩,
  /- cascade.id -/ ⟨0x9000, 0x9000, 0x01, 0x01, .u 1, 0x7F, 0x00, false, false, zeros 1⟩,
  /- cascade.role -/ ⟨0x9000, 0x9000, 0x02, 0x02, .enum 4, 0x7F, 0x00, false, false, leN 1 0⟩,
  /- cascade.enable -/ ⟨0x9000, 0x9000, 0x03, 0x03, .bool, 0x7F, 0x01, true, true, leN 1 0⟩,
  /- cascade.members -/ ⟨0x9000, 0x9000, 0x04, 0x04, .bytes 384, 0x7F, 0x01, true, true, zeros 384⟩,
  /- cascade.form_timeout -/ ⟨0x9000, 0x9000, 0x05, 0x05, .u 4, 0x7F, 0x01, true, true, leN 4 2000⟩,
  /- cascade.forward_after -/ ⟨0x9000, 0x9000, 0x06, 0x06, .u 2, 0x7F, 0x01, true, true, leN 2 4⟩,
  /- cascade.forward_classes -/ ⟨0x9000, 0x9000, 0x07, 0x07, .u 1, 0x7F, 0x01, true, true, leN 1 14⟩,
  /- cascade.peer_group -/ ⟨0x9000, 0x9000, 0x08, 0x08, .u 1, 0x7F, 0x01, true, true, leN 1 63⟩]

/-- Entries, part 9. -/
def entries9 : List Entry := [
  /- cascade.promote -/ ⟨0x9000, 0x9000, 0x09, 0x09, .bool, 0x7F, 0x01, true, false, leN 1 0⟩,
  /- cascade.acting_master -/ ⟨0x9000, 0x9000, 0x0A, 0x0A, .bool, 0x7F, 0x01, true, true, leN 1 0⟩,
  /- cascade.tick_offset -/ ⟨0x9000, 0x9000, 0x0B, 0x0B, .i32, 0x7F, 0x00, false, false, leN 4 0⟩,
  /- cascade.replica_slots -/ ⟨0x9000, 0x9000, 0x0C, 0x0C, .u 2, 0x7F, 0x00, false, false, leN 2 0⟩,
  /- cascade.forwarded -/ ⟨0x9000, 0x9000, 0x0D, 0x0D, .u 8, 0x17, 0x00, false, false, leN 8 0⟩,
  /- cascade.peer_lost -/ ⟨0x9000, 0x9000, 0x0E, 0x0E, .u 8, 0x17, 0x00, false, false, leN 8 0⟩,
  /- identity.vendor -/ ⟨0x0000, 0x0000, 0x01, 0x01, .str 16, 0xFF, 0x00, false, false, ascii "Trobital"⟩,
  /- identity.part -/ ⟨0x0000, 0x0000, 0x02, 0x02, .str 16, 0xFF, 0x00, false, false, ascii "EV-7100"⟩,
  /- identity.serial -/ ⟨0x0000, 0x0000, 0x03, 0x03, .bytes 8, 0xFF, 0x00, false, false, []⟩,
  /- identity.stepping -/ ⟨0x0000, 0x0000, 0x04, 0x04, .str 4, 0xFF, 0x00, false, false, ascii "A1"⟩,
  /- identity.fw_release -/ ⟨0x0000, 0x0000, 0x05, 0x05, .u 4, 0xFF, 0x00, false, false, zeros 4⟩,
  /- identity.rom_version -/ ⟨0x0000, 0x0000, 0x06, 0x06, .u 4, 0xFF, 0x00, false, false, leN 4 65536⟩,
  /- identity.deviceid -/ ⟨0x0000, 0x0000, 0x07, 0x07, .digest, 0xFF, 0x00, false, false, zeros 48⟩,
  /- identity.frame_ct -/ ⟨0x0000, 0x0000, 0x08, 0x08, .u 8, 0xFF, 0x00, false, false, leN 8 0⟩,
  /- identity.time -/ ⟨0x0000, 0x0000, 0x09, 0x09, .time, 0xFF, 0x00, false, false, zeros 8⟩,
  /- identity.state -/ ⟨0x0000, 0x0000, 0x0A, 0x0A, .enum 5, 0xFF, 0x00, false, false, leN 1 0⟩,
  /- dict.commit -/ ⟨0x0010, 0x0010, 0x01, 0x01, .u 8, 0x7F, 0x11, false, false, leN 8 0⟩,
  /- dict.changes -/ ⟨0x0010, 0x0010, 0x02, 0x02, .u 8, 0x7F, 0x00, false, false, leN 8 0⟩,
  /- dict.restore_defaults -/ ⟨0x0010, 0x0010, 0x03, 0x03, .bool, 0x7F, 0x01, true, false, leN 1 0⟩,
  /- dict.committed -/ ⟨0x0010, 0x0010, 0x04, 0x04, .u 8, 0x7F, 0x00, false, false, zeros 8⟩,
  /- dict.restore_kept -/ ⟨0x0010, 0x0010, 0x05, 0x05, .u 4, 0x7F, 0x00, false, false, leN 4 0⟩,
  /- dict.bank_digest -/ ⟨0x0010, 0x0010, 0x06, 0x06, .digest, 0x7F, 0x00, false, false, zeros 48⟩,
  /- role.sessions.open -/ ⟨0x0100, 0x0100, 0x01, 0x01, .u 1, 0x7F, 0x00, false, false, leN 1 0⟩,
  /- role.session.idle_s -/ ⟨0x0100, 0x0100, 0x02, 0x02, .u 4, 0x7F, 0x01, true, true, leN 4 600⟩,
  /- role.officers -/ ⟨0x0100, 0x0100, 0x03, 0x03, .u 1, 0x7F, 0x00, false, false, leN 1 0⟩,
  /- role.dead_msgs -/ ⟨0x0100, 0x0100, 0x04, 0x04, .u 8, 0x7F, 0x00, false, false, leN 8 0⟩,
  /- role.proposals -/ ⟨0x0100, 0x0100, 0x05, 0x05, .bytes 1024, 0x05, 0x00, false, false, []⟩,
  /- role.self -/ ⟨0x0100, 0x0100, 0x06, 0x06, .bytes 8, 0x7F, 0x00, false, false, zeros 8⟩,
  /- role.credNN -/ ⟨0x0101, 0x0101, 0x00, 0x1F, .bytes 64, 0x05, 0x01, true, true, zeros 64⟩,
  /- iface.dict.transports -/ ⟨0xA000, 0xA000, 0x01, 0x01, .u 1, 0x7F, 0x01, true, true, leN 1 15⟩,
  /- iface.me0.enable -/ ⟨0xA010, 0xA010, 0x01, 0x01, .bool, 0x7F, 0x01, true, true, leN 1 0⟩,
  /- iface.me1.enable -/ ⟨0xA011, 0xA011, 0x01, 0x01, .bool, 0x7F, 0x01, true, true, leN 1 0⟩,
  /- iface.me0.mode -/ ⟨0xA010, 0xA010, 0x02, 0x02, .enum 2, 0x7F, 0x01, true, true, leN 1 0⟩,
  /- iface.me1.mode -/ ⟨0xA011, 0xA011, 0x02, 0x02, .enum 2, 0x7F, 0x01, true, true, leN 1 0⟩,
  /- iface.me0.ipv6 -/ ⟨0xA010, 0xA010, 0x03, 0x03, .bytes 17, 0x7F, 0x01, true, true, []⟩,
  /- iface.me1.ipv6 -/ ⟨0xA011, 0xA011, 0x03, 0x03, .bytes 17, 0x7F, 0x01, true, true, []⟩,
  /- iface.me0.ipv4 -/ ⟨0xA010, 0xA010, 0x04, 0x04, .bytes 5, 0x7F, 0x01, true, true, []⟩,
  /- iface.me1.ipv4 -/ ⟨0xA011, 0xA011, 0x04, 0x04, .bytes 5, 0x7F, 0x01, true, true, []⟩,
  /- iface.me0.udp_port -/ ⟨0xA010, 0xA010, 0x05, 0x05, .u 2, 0x7F, 0x01, true, true, leN 2 5071⟩,
  /- iface.me1.udp_port -/ ⟨0xA011, 0xA011, 0x05, 0x05, .u 2, 0x7F, 0x01, true, true, leN 2 5071⟩]

/-- Entries, part 10. -/
def entries10 : List Entry := [
  /- iface.me0.mac -/ ⟨0xA010, 0xA010, 0x06, 0x06, .bytes 6, 0x7F, 0x00, false, false, []⟩,
  /- iface.me1.mac -/ ⟨0xA011, 0xA011, 0x06, 0x06, .bytes 6, 0x7F, 0x00, false, false, []⟩,
  /- log.head -/ ⟨0x8000, 0x8000, 0x01, 0x01, .u 8, 0x7F, 0x00, false, false, zeros 8⟩,
  /- log.acked -/ ⟨0x8000, 0x8000, 0x02, 0x02, .u 8, 0x7F, 0x00, false, false, zeros 8⟩,
  /- log.room -/ ⟨0x8000, 0x8000, 0x03, 0x03, .u 4, 0x7F, 0x00, false, false, zeros 4⟩,
  /- log.state -/ ⟨0x8000, 0x8000, 0x04, 0x04, .enum 3, 0x7F, 0x00, false, false, leN 1 0⟩,
  /- log.policy -/ ⟨0x8000, 0x8000, 0x05, 0x05, .enum 2, 0x7F, 0x01, true, true, leN 1 0⟩,
  /- log.warn_room -/ ⟨0x8000, 0x8000, 0x06, 0x06, .u 4, 0x7F, 0x01, true, true, leN 4 16384⟩,
  /- log.unlogged -/ ⟨0x8000, 0x8000, 0x07, 0x07, .u 8, 0x7F, 0x00, false, false, leN 8 0⟩,
  /- log.overwritten -/ ⟨0x8000, 0x8000, 0x08, 0x08, .u 8, 0x7F, 0x00, false, false, zeros 8⟩,
  /- log.window.start -/ ⟨0x8001, 0x8001, 0x01, 0x01, .u 8, 0x05, 0x05, false, false, leN 8 0⟩,
  /- log.window -/ ⟨0x8001, 0x8001, 0x02, 0x02, .bytes 8128, 0x05, 0x00, false, false, []⟩,
  /- log.export.ack -/ ⟨0x8001, 0x8001, 0x03, 0x03, .bytes 24, 0x05, 0x05, false, false, zeros 24⟩,
  /- log.checkpoint.last -/ ⟨0x8002, 0x8002, 0x01, 0x01, .u 8, 0x7F, 0x00, false, false, zeros 8⟩,
  /- log.checkpoint.owed -/ ⟨0x8002, 0x8002, 0x02, 0x02, .bool, 0x7F, 0x00, false, false, leN 1 0⟩,
  /- log.audit.cert -/ ⟨0x8002, 0x8002, 0x03, 0x03, .bytes 2048, 0x7F, 0x00, false, false, []⟩,
  /- log.audit.key -/ ⟨0x8002, 0x8002, 0x04, 0x04, .digest, 0x7F, 0x00, false, false, zeros 48⟩,
  /- log.time.epoch_utc -/ ⟨0x8003, 0x8003, 0x01, 0x01, .u 8, 0x7F, 0x01, false, true, leN 8 0⟩,
  /- log.time.now -/ ⟨0x8003, 0x8003, 0x02, 0x02, .time, 0x7F, 0x00, false, false, zeros 8⟩,
  /- log.time.discontinuities -/ ⟨0x8003, 0x8003, 0x03, 0x03, .u 4, 0x7F, 0x00, false, false, zeros 4⟩,
  /- log.codes -/ ⟨0x8004, 0x8004, 0x01, 0x01, .bytes 16384, 0x7F, 0x00, false, false, []⟩,
  /- lc.state -/ ⟨0x1000, 0x1000, 0x01, 0x01, .enum 6, 0x7F, 0x00, false, false, leN 1 0⟩,
  /- lc.request -/ ⟨0x1000, 0x1000, 0x02, 0x02, .bytes 128, 0x45, 0x41, true, false, zeros 128⟩,
  /- lc.pending -/ ⟨0x1000, 0x1000, 0x03, 0x03, .enum 6, 0x7F, 0x00, false, false, leN 1 0⟩,
  /- lc.cancel -/ ⟨0x1000, 0x1000, 0x04, 0x04, .bool, 0x7F, 0x41, true, false, leN 1 0⟩,
  /- debug.nonce -/ ⟨0x1001, 0x1001, 0x01, 0x01, .bytes 32, 0x01, 0x00, false, false, zeros 32⟩,
  /- debug.token -/ ⟨0x1001, 0x1001, 0x02, 0x02, .bytes 5325, 0x05, 0x01, false, false, []⟩,
  /- debug.scopes -/ ⟨0x1001, 0x1001, 0x03, 0x03, .u 1, 0x7F, 0x00, false, false, leN 1 0⟩,
  /- debug.epoch -/ ⟨0x1001, 0x1001, 0x04, 0x04, .u 4, 0x7F, 0x00, false, false, zeros 4⟩,
  /- debug.key -/ ⟨0x1001, 0x1001, 0x05, 0x05, .digest, 0x7F, 0x00, false, false, zeros 48⟩,
  /- mon.latched -/ ⟨0x7000, 0x7000, 0x01, 0x01, .u 4, 0x7F, 0x00, false, false, zeros 4⟩,
  /- mon.active -/ ⟨0x7000, 0x7000, 0x02, 0x02, .u 4, 0x7F, 0x00, false, false, leN 4 0⟩,
  /- mon.clear -/ ⟨0x7000, 0x7000, 0x03, 0x03, .u 4, 0x7F, 0x01, true, false, leN 4 0⟩,
  /- mon.test -/ ⟨0x7000, 0x7000, 0x04, 0x04, .u 1, 0x7F, 0x03, false, false, leN 1 0⟩,
  /- mon.test.result -/ ⟨0x7000, 0x7000, 0x05, 0x05, .enum 4, 0x7F, 0x00, false, false, leN 1 0⟩,
  /- mon.vin_warn_mv -/ ⟨0x7000, 0x7000, 0x06, 0x06, .u 2, 0x7F, 0x01, true, true, leN 2 860⟩,
  /- mon.temp_high -/ ⟨0x7000, 0x7000, 0x07, 0x07, .i32, 0x7F, 0x01, true, true, leN 4 1300⟩,
  /- mon.temp_low -/ ⟨0x7000, 0x7000, 0x08, 0x08, .i32, 0x7F, 0x01, true, true, leN 4 4294966716⟩,
  /- mon.selftest.period_s -/ ⟨0x7000, 0x7000, 0x09, 0x09, .u 4, 0x7F, 0x01, true, true, leN 4 60⟩,
  /- mon.supply.holds -/ ⟨0x7000, 0x7000, 0x0A, 0x0A, .u 4, 0x7F, 0x00, false, false, leN 4 0⟩]

/-- Entries, part 11. -/
def entries11 : List Entry := [
  /- mon.supply.longest -/ ⟨0x7000, 0x7000, 0x0B, 0x0B, .u 4, 0x7F, 0x00, false, false, leN 4 0⟩,
  /- mon.backup.fifo -/ ⟨0x7000, 0x7000, 0x0C, 0x0C, .bytes 512, 0x05, 0x00, false, false, []⟩,
  /- mon.backup.state -/ ⟨0x7000, 0x7000, 0x0D, 0x0D, .enum 2, 0x7F, 0x00, false, false, leN 1 0⟩,
  /- mon.root_lost -/ ⟨0x7000, 0x7000, 0x0E, 0x0E, .bool, 0x7F, 0x00, false, false, zeros 1⟩,
  /- mon.temp.sensorN -/ ⟨0x7001, 0x7001, 0x00, 0x07, .i32, 0x7F, 0x00, false, false, leN 4 0⟩,
  /- mon.00.config -/ ⟨0x7010, 0x7010, 0x00, 0x00, .u 1, 0x7F, 0x01, true, true, leN 1 7⟩,
  /- mon.01.config -/ ⟨0x7010, 0x7010, 0x01, 0x01, .u 1, 0x7F, 0x01, true, true, leN 1 7⟩,
  /- mon.02.config -/ ⟨0x7010, 0x7010, 0x02, 0x02, .u 1, 0x7F, 0x01, true, true, leN 1 7⟩,
  /- mon.03.config -/ ⟨0x7010, 0x7010, 0x03, 0x03, .u 1, 0x7F, 0x01, true, true, leN 1 7⟩,
  /- mon.04.config -/ ⟨0x7010, 0x7010, 0x04, 0x04, .u 1, 0x7F, 0x01, true, true, leN 1 7⟩,
  /- mon.05.config -/ ⟨0x7010, 0x7010, 0x05, 0x05, .u 1, 0x7F, 0x01, true, true, leN 1 7⟩,
  /- mon.06.config -/ ⟨0x7010, 0x7010, 0x06, 0x06, .u 1, 0x7F, 0x01, true, true, leN 1 7⟩,
  /- mon.07.config -/ ⟨0x7010, 0x7010, 0x07, 0x07, .u 1, 0x7F, 0x01, true, true, leN 1 7⟩,
  /- mon.08.config -/ ⟨0x7010, 0x7010, 0x08, 0x08, .u 1, 0x7F, 0x01, true, true, leN 1 7⟩,
  /- mon.09.config -/ ⟨0x7010, 0x7010, 0x09, 0x09, .u 1, 0x7F, 0x01, true, true, leN 1 7⟩,
  /- mon.0A.config -/ ⟨0x7010, 0x7010, 0x0A, 0x0A, .u 1, 0x7F, 0x01, true, true, leN 1 7⟩,
  /- mon.0B.config -/ ⟨0x7010, 0x7010, 0x0B, 0x0B, .u 1, 0x7F, 0x01, true, true, leN 1 7⟩,
  /- mon.0C.config -/ ⟨0x7010, 0x7010, 0x0C, 0x0C, .u 1, 0x7F, 0x01, true, true, leN 1 14⟩,
  /- mon.0D.config -/ ⟨0x7010, 0x7010, 0x0D, 0x0D, .u 1, 0x7F, 0x01, true, true, leN 1 15⟩,
  /- mon.0E.config -/ ⟨0x7010, 0x7010, 0x0E, 0x0E, .u 1, 0x7F, 0x01, true, true, leN 1 14⟩,
  /- mon.0F.config -/ ⟨0x7010, 0x7010, 0x0F, 0x0F, .u 1, 0x7F, 0x01, true, true, leN 1 14⟩,
  /- mon.10.config -/ ⟨0x7010, 0x7010, 0x10, 0x10, .u 1, 0x7F, 0x01, true, true, leN 1 8⟩,
  /- mon.11.config -/ ⟨0x7010, 0x7010, 0x11, 0x11, .u 1, 0x7F, 0x01, true, true, leN 1 8⟩,
  /- mon.12.config -/ ⟨0x7010, 0x7010, 0x12, 0x12, .u 1, 0x7F, 0x01, true, true, leN 1 14⟩,
  /- mon.13.config -/ ⟨0x7010, 0x7010, 0x13, 0x13, .u 1, 0x7F, 0x01, true, true, leN 1 14⟩,
  /- mon.14.config -/ ⟨0x7010, 0x7010, 0x14, 0x14, .u 1, 0x7F, 0x01, true, true, leN 1 10⟩,
  /- mon.15.config -/ ⟨0x7010, 0x7010, 0x15, 0x15, .u 1, 0x7F, 0x01, true, true, leN 1 14⟩,
  /- mon.16.config -/ ⟨0x7010, 0x7010, 0x16, 0x16, .u 1, 0x7F, 0x01, true, true, leN 1 9⟩,
  /- mon.17.config -/ ⟨0x7010, 0x7010, 0x17, 0x17, .u 1, 0x7F, 0x01, true, true, leN 1 8⟩,
  /- iface.atn.enable00 -/ ⟨0xA020, 0xA020, 0x00, 0x00, .u 2, 0x7F, 0x1B, false, true, leN 2 65535⟩,
  /- iface.atn.enable01 -/ ⟨0xA020, 0xA020, 0x01, 0x01, .u 2, 0x7F, 0x1B, false, true, leN 2 65535⟩,
  /- iface.atn.enable02 -/ ⟨0xA020, 0xA020, 0x02, 0x02, .u 2, 0x7F, 0x1B, false, true, leN 2 65535⟩,
  /- iface.atn.enable03 -/ ⟨0xA020, 0xA020, 0x03, 0x03, .u 2, 0x7F, 0x1B, false, true, leN 2 0⟩,
  /- iface.atn.enable04 -/ ⟨0xA020, 0xA020, 0x04, 0x04, .u 2, 0x7F, 0x1B, false, true, leN 2 0⟩,
  /- iface.atn.enable05 -/ ⟨0xA020, 0xA020, 0x05, 0x05, .u 2, 0x7F, 0x1B, false, true, leN 2 65535⟩,
  /- iface.atn.enable06 -/ ⟨0xA020, 0xA020, 0x06, 0x06, .u 2, 0x7F, 0x1B, false, true, leN 2 65535⟩,
  /- iface.atn.enable07 -/ ⟨0xA020, 0xA020, 0x07, 0x07, .u 2, 0x7F, 0x1B, false, true, leN 2 65535⟩,
  /- iface.atn.enable08 -/ ⟨0xA020, 0xA020, 0x08, 0x08, .u 2, 0x7F, 0x1B, false, true, leN 2 65535⟩,
  /- iface.atn.enable09 -/ ⟨0xA020, 0xA020, 0x09, 0x09, .u 2, 0x7F, 0x1B, false, true, leN 2 65535⟩,
  /- iface.atn.enable0A -/ ⟨0xA020, 0xA020, 0x0A, 0x0A, .u 2, 0x7F, 0x1B, false, true, leN 2 65535⟩]

/-- Entries, part 12. -/
def entries12 : List Entry := [
  /- iface.atn.enable0B -/ ⟨0xA020, 0xA020, 0x0B, 0x0B, .u 2, 0x7F, 0x1B, false, true, leN 2 65535⟩,
  /- iface.atn.enable0C -/ ⟨0xA020, 0xA020, 0x0C, 0x0C, .u 2, 0x7F, 0x1B, false, true, leN 2 65535⟩,
  /- iface.atn.enable0D -/ ⟨0xA020, 0xA020, 0x0D, 0x0D, .u 2, 0x7F, 0x1B, false, true, leN 2 65535⟩,
  /- iface.atn.enable0E -/ ⟨0xA020, 0xA020, 0x0E, 0x0E, .u 2, 0x7F, 0x1B, false, true, leN 2 65535⟩,
  /- iface.atn.enable0F -/ ⟨0xA020, 0xA020, 0x0F, 0x0F, .u 2, 0x7F, 0x1B, false, true, leN 2 65535⟩,
  /- iface.atn.enable10 -/ ⟨0xA020, 0xA020, 0x10, 0x10, .u 2, 0x7F, 0x1B, false, true, leN 2 65535⟩,
  /- iface.atn.enable11 -/ ⟨0xA020, 0xA020, 0x11, 0x11, .u 2, 0x7F, 0x1B, false, true, leN 2 65535⟩,
  /- iface.atn.enable12 -/ ⟨0xA020, 0xA020, 0x12, 0x12, .u 2, 0x7F, 0x1B, false, true, leN 2 65535⟩,
  /- iface.atn.enable13 -/ ⟨0xA020, 0xA020, 0x13, 0x13, .u 2, 0x7F, 0x1B, false, true, leN 2 65535⟩,
  /- iface.atn.enable14 -/ ⟨0xA020, 0xA020, 0x14, 0x14, .u 2, 0x7F, 0x1B, false, true, leN 2 65535⟩,
  /- iface.atn.enable15 -/ ⟨0xA020, 0xA020, 0x15, 0x15, .u 2, 0x7F, 0x1B, false, true, leN 2 65535⟩,
  /- iface.atn.enable16 -/ ⟨0xA020, 0xA020, 0x16, 0x16, .u 2, 0x7F, 0x1B, false, true, leN 2 0⟩,
  /- iface.atn.enable17 -/ ⟨0xA020, 0xA020, 0x17, 0x17, .u 2, 0x7F, 0x1B, false, true, leN 2 65535⟩,
  /- iface.atn.summary -/ ⟨0xA021, 0xA021, 0x01, 0x01, .u 4, 0x7F, 0x00, false, false, leN 4 0⟩,
  /- iface.atn.raw -/ ⟨0xA021, 0xA021, 0x02, 0x02, .u 4, 0x7F, 0x00, false, false, leN 4 0⟩,
  /- iface.atn.causeGG -/ ⟨0xA022, 0xA022, 0x00, 0x17, .u 2, 0x7F, 0x00, false, false, leN 2 0⟩,
  /- iface.atn.clear -/ ⟨0xA023, 0xA023, 0x01, 0x01, .bytes 4, 0x7F, 0x1B, false, false, zeros 4⟩,
  /- power.sleep -/ ⟨0x7100, 0x7100, 0x01, 0x01, .bool, 0x7F, 0x09, false, false, leN 1 0⟩,
  /- power.wake.hi_mask -/ ⟨0x7100, 0x7100, 0x02, 0x02, .u 4, 0x7F, 0x09, false, true, leN 4 0⟩,
  /- power.wake.timer_s -/ ⟨0x7100, 0x7100, 0x03, 0x03, .u 4, 0x7F, 0x09, false, true, leN 4 0⟩,
  /- power.wake.perst -/ ⟨0x7100, 0x7100, 0x04, 0x04, .bool, 0x7F, 0x09, false, true, leN 1 1⟩,
  /- power.wake.last -/ ⟨0x7100, 0x7100, 0x05, 0x05, .enum 5, 0x7F, 0x00, false, false, leN 1 0⟩,
  /- power.reset.cause -/ ⟨0x7100, 0x7100, 0x06, 0x06, .enum 9, 0x7F, 0x00, false, false, leN 1 0⟩,
  /- power.starts -/ ⟨0x7100, 0x7100, 0x07, 0x07, .u 8, 0x7F, 0x00, false, false, zeros 8⟩,
  /- power.domains.gated -/ ⟨0x7100, 0x7100, 0x08, 0x08, .bytes 19, 0x7F, 0x00, false, false, zeros 19⟩,
  /- power.vio.sensed -/ ⟨0x7100, 0x7100, 0x09, 0x09, .bytes 6, 0x7F, 0x00, false, false, []⟩,
  /- power.refclk.ppm -/ ⟨0x7100, 0x7100, 0x0A, 0x0A, .i32, 0x7F, 0x00, false, false, leN 4 0⟩,
  /- power.vin.mv -/ ⟨0x7100, 0x7100, 0x0B, 0x0B, .u 2, 0x7F, 0x00, false, false, leN 2 0⟩,
  /- paddock.NNN.state -/ ⟨0x5200, 0x531F, 0x01, 0x01, .enum 3, 0x17, 0x00, false, false, leN 1 0⟩,
  /- paddock.NNN.group -/ ⟨0x5200, 0x531F, 0x02, 0x02, .u 1, 0x17, 0x00, false, false, leN 1 0⟩,
  /- paddock.NNN.key_quota -/ ⟨0x5200, 0x531F, 0x03, 0x03, .u 4, 0x17, 0x00, false, false, leN 4 0⟩,
  /- paddock.NNN.keys_used -/ ⟨0x5200, 0x531F, 0x04, 0x04, .u 4, 0x17, 0x00, false, false, leN 4 0⟩,
  /- paddock.NNN.context_quota -/ ⟨0x5200, 0x531F, 0x05, 0x05, .u 2, 0x17, 0x00, false, false, leN 2 0⟩,
  /- paddock.NNN.stream_limit -/ ⟨0x5200, 0x531F, 0x06, 0x06, .u 2, 0x17, 0x00, false, false, leN 2 0⟩,
  /- paddock.NNN.rings -/ ⟨0x5200, 0x531F, 0x07, 0x07, .u 1, 0x17, 0x00, false, false, leN 1 0⟩,
  /- paddock.NNN.max_depth -/ ⟨0x5200, 0x531F, 0x08, 0x08, .u 2, 0x17, 0x00, false, false, leN 2 0⟩,
  /- paddock.NNN.families -/ ⟨0x5200, 0x531F, 0x09, 0x09, .u 1, 0x17, 0x00, false, false, leN 1 0⟩,
  /- paddock.NNN.shared_groups -/ ⟨0x5200, 0x531F, 0x0A, 0x0A, .u 2, 0x17, 0x00, false, false, leN 2 0⟩,
  /- paddock.NNN.hamper_base -/ ⟨0x5200, 0x531F, 0x0B, 0x0B, .u 8, 0x17, 0x00, false, false, leN 8 0⟩,
  /- paddock.NNN.pasid -/ ⟨0x5200, 0x531F, 0x0C, 0x0C, .u 4, 0x17, 0x00, false, false, leN 4 0⟩]

/-- Entries, part 13. -/
def entries13 : List Entry := [
  /- paddock.NNN.pgen -/ ⟨0x5200, 0x531F, 0x0D, 0x0D, .u 1, 0x17, 0x00, false, false, leN 1 0⟩,
  /- paddock.NNN.accepted -/ ⟨0x5200, 0x531F, 0x0E, 0x0E, .u 8, 0x17, 0x00, false, false, leN 8 0⟩,
  /- paddock.NNN.queue_full -/ ⟨0x5200, 0x531F, 0x0F, 0x0F, .u 8, 0x17, 0x00, false, false, leN 8 0⟩,
  /- paddock.NNN.push_faults -/ ⟨0x5200, 0x531F, 0x10, 0x10, .u 8, 0x17, 0x00, false, false, leN 8 0⟩,
  /- paddock.NNN.resets -/ ⟨0x5200, 0x531F, 0x11, 0x11, .u 4, 0x17, 0x00, false, false, leN 4 0⟩,
  /- paddock.NNN.log -/ ⟨0x5200, 0x531F, 0x12, 0x12, .enum 2, 0x17, 0x00, false, false, leN 1 0⟩]

/-- Every entry of the dictionary. -/
def entryTable : List Entry := entries1 ++ entries2 ++ entries3 ++ entries4 ++ entries5 ++ entries6 ++ entries7 ++ entries8 ++ entries9 ++ entries10 ++ entries11 ++ entries12 ++ entries13

/-- The key of an index and sub-index. -/
def mkKey (index sub : Nat) : Nat := index * 256 + sub

/-- The entry that a key names (R416). -/
def entryOf (key : Nat) : Option Entry :=
  entryTable.find? (fun e => e.ilo ≤ key / 256 && key / 256 ≤ e.ihi && e.slo ≤ key % 256 && key % 256 ≤ e.shi)

/-- The default of a key (R416). -/
def dfltOf (key : Nat) : Bytes := match entryOf key with
  | some e => e.dflt
  | none => []

/-- The working value of an entry that holds a setting (R437). -/
def State.val (s : State) (key : Nat) : Bytes := (getKey s.dict.vals key).getD (dfltOf key)

/-- The working value as an unsigned number. -/
def State.valU (s : State) (key : Nat) : Nat := ofLE (s.val key)

/-- Set a working value; a value equal to the default is not listed, so that equal settings are equal data. -/
def State.setVal (s : State) (key : Nat) (v : Bytes) : State :=
  s.modDict (fun d => { d with vals := if v = dfltOf key then dropKey d.vals key else putKey d.vals key v })

/-- The bytes are UTF-8 (R417); `need` continuation bytes are still due, the next of them from `lo` to `hi`. -/
def utf8Ok (need lo hi : Nat) : Bytes → Bool
  | [] => need == 0
  | b :: r =>
    let v := b.toNat
    match need with
    | n + 1 => lo ≤ v && v ≤ hi && utf8Ok n 0x80 0xBF r
    | 0 =>
      if v < 0x80 then utf8Ok 0 0 0 r
      else if 0xC2 ≤ v ∧ v < 0xE0 then utf8Ok 1 0x80 0xBF r
      else if 0xE0 ≤ v ∧ v < 0xF0 then utf8Ok 2 (if v = 0xE0 then 0xA0 else 0x80) (if v = 0xED then 0x9F else 0xBF) r
      else if 0xF0 ≤ v ∧ v ≤ 0xF4 then utf8Ok 3 (if v = 0xF0 then 0x90 else 0x80) (if v = 0xF4 then 0x8F else 0xBF) r
      else false

/-- The length and domain rules of a type (R417). -/
def Ty.fits : Ty → Bytes → Bool
  | .u n, v => v.length == n
  | .i32, v => v.length == 4
  | .bool, v => v.length == 1 && u8 v 0 < 2
  | .enum n, v => v.length == 1 && u8 v 0 < n
  | .bytes n, v => v.length ≤ n
  | .str n, v => v.length ≤ n && v.all (· != 0) && utf8Ok 0 0 0 v
  | .digest, v => v.length == 48
  | .keyref, v => v.length == 4
  | .time, v => v.length == 8 && uLE v 0 8 < 2 ^ 61 && field (uLE v 0 8) 60 40 < 2000000

end Sys2Proof.Machine
end

