-- ==== Sys2Proof/Machine/Records.lean ====
section
/-! DEFINITION. The two-bank MRAM records: their bytes, their validity by magic and CRC-32C and the choice of the one in force (R90, R170,
R468). -/

namespace Sys2Proof.Machine

open Sys2Proof

/-- How a record lies in its bank: the bytes of the bank, the magic, and what stands between the sequence number and the CRC-32C. -/
structure RecordForm (α : Type) where
  size : Nat
  magic : Bytes
  seq : α → BitVec 32
  body : α → Bytes
  parse : Bytes → α

/-- The bytes of a record: magic, sequence number, fields, CRC-32C over all that precedes it (R90). -/
def RecordForm.encode {α : Type} (f : RecordForm α) (r : α) : Bytes :=
  let b := f.magic ++ leN 4 (f.seq r).toNat ++ f.body r
  b ++ leN 4 (crc32c b)

/-- A record is valid if its magic is right and its CRC-32C matches (R90). -/
def RecordForm.valid {α : Type} (f : RecordForm α) (b : Bytes) : Bool :=
  b.length == f.size && slice b 0 4 == f.magic && uLE b (f.size - 4) 4 == crc32c (b.take (f.size - 4))

/-- What a bank holds; an invalid or torn record is ignored (R90). -/
def RecordForm.read {α : Type} (f : RecordForm α) (b : Bytes) : Option α :=
  if f.valid b then some (f.parse b) else none

/-- The record in force of a two-bank store whose records carry 32-bit sequence numbers (R90). -/
def Banks.inForce {α : Type} (b : Banks) (f : RecordForm α) : Option α :=
  match f.read b.bank0, f.read b.bank1 with
  | none, x => x
  | x, none => x
  | some x, some y =>
    if f.seq y = f.seq x + 1 then some y
    else if f.seq x = f.seq y + 1 then some x
    else if (f.seq x).toNat < (f.seq y).toNat then some y else some x

/-- A new record goes to the bank that does not hold the record in force (R90). With no valid record it goes to bank 0 (log 97). -/
def Banks.put {α : Type} (b : Banks) (f : RecordForm α) (r : α) : Banks :=
  let one := { b with bank1 := f.encode r }
  let zero := { b with bank0 := f.encode r }
  match f.read b.bank0, f.read b.bank1 with
  | some _, none => one
  | some x, some y =>
    if f.seq y = f.seq x + 1 then zero
    else if f.seq x = f.seq y + 1 then one
    else if (f.seq x).toNat < (f.seq y).toNat then zero
    else one
  | none, _ => zero

/-- The code of a slot's state (R90). -/
def SlotState.code : SlotState → Nat
  | .empty => 0 | .writing => 1 | .staged => 2 | .active => 3 | .trial => 4 | .bad => 5 | .retired => 6

/-- The state that a code names. -/
def SlotState.ofCode : Nat → SlotState
  | 1 => .writing | 2 => .staged | 3 => .active | 4 => .trial | 5 => .bad | 6 => .retired | _ => .empty

/-- A slot byte of a ledger: 0 A, 1 B, 0xFF none (R90). -/
def slotByte : Option Slot → Nat
  | some .a => 0
  | some .b => 1
  | _ => 0xFF

/-- The slot that a ledger byte names. -/
def byteSlot (v : Nat) : Option Slot := if v = 0 then some .a else if v = 1 then some .b else none

/-- The device-firmware slot ledger, magic "DFL1" (R90). -/
def devForm : RecordForm DevLedger :=
  { size := 64, magic := bytesOf [0x44, 0x46, 0x4C, 0x31], seq := (·.seq),
    body := fun l => leN 1 (slotByte l.active) ++ leN 1 (slotByte l.trial) ++ leN 1 l.stA.code ++ leN 1 l.stB.code ++
      leN 1 l.count ++ leN 1 l.target ++ zeros 2 ++ leN 1 l.svnA ++ leN 1 l.svnB ++ zeros 2 ++ fit 16 l.digA ++ fit 16 l.digB ++
      zeros 8,
    parse := fun b =>
      { seq := BitVec.ofNat 32 (uLE b 4 4), active := byteSlot (u8 b 8), trial := byteSlot (u8 b 9), stA := .ofCode (u8 b 10),
        stB := .ofCode (u8 b 11), count := u8 b 12, target := u8 b 13, svnA := u8 b 16, svnB := u8 b 17,
        digA := slice b 20 16, digB := slice b 36 16 } }

/-- A port ledger, magic "PSL1" (R170). -/
def portForm : RecordForm PortLedger :=
  { size := 64, magic := bytesOf [0x50, 0x53, 0x4C, 0x31], seq := (·.seq),
    body := fun l => leN 1 (slotByte l.active) ++ leN 1 (slotByte l.trial) ++ leN 1 l.stA.code ++ leN 1 l.stB.code ++
      leN 1 l.count ++ leN 1 l.stR.code ++ zeros 2 ++ leN 2 l.svA ++ leN 2 l.svB ++ leN 2 l.svR ++ zeros 2 ++ fit 12 l.digA ++
      fit 12 l.digB ++ fit 12 l.digR,
    parse := fun b =>
      { seq := BitVec.ofNat 32 (uLE b 4 4), active := byteSlot (u8 b 8), trial := byteSlot (u8 b 9), stA := .ofCode (u8 b 10),
        stB := .ofCode (u8 b 11), count := u8 b 12, stR := .ofCode (u8 b 13), svA := uLE b 16 2, svB := uLE b 18 2,
        svR := uLE b 20 2, digA := slice b 24 12, digB := slice b 36 12, digR := slice b 48 12 } }

/-- The life-cycle progress mark, magic "LCP1" (R468). -/
def markForm : RecordForm LcMark :=
  { size := 192, magic := bytesOf [0x4C, 0x43, 0x50, 0x31], seq := (·.seq),
    body := fun m => leN 1 m.source ++ leN 1 m.target ++ leN 1 m.step ++ zeros 5 ++ fit 128 m.record ++ zeros 44,
    parse := fun b =>
      { seq := BitVec.ofNat 32 (uLE b 4 4), source := u8 b 8, target := u8 b 9, step := u8 b 10, record := slice b 16 128 } }

end Sys2Proof.Machine
end

