-- ==== Sys2Proof/Machine/Status.lean ====
section
/-! DEFINITION. The status codes of R526. No meaning answers 0x0502 or 0x0503 (R528), and a status is reported
where R527 says and nowhere else. -/

namespace Sys2Proof.Machine

def stOk : Nat := 0x0000
def stMismatch : Nat := 0x0001
def stSignRetry : Nat := 0x0002
def stBadOpcode : Nat := 0x0101
def stBadLength : Nat := 0x0102
def stLengthMismatch : Nat := 0x0103
def stBadAlignment : Nat := 0x0104
def stBadFormat : Nat := 0x0105
def stKeyAbsent : Nat := 0x0201
def stKeyDenied : Nat := 0x0202
def stKeyRevoked : Nat := 0x0203
def stKeyErased : Nat := 0x0204
def stKeyExhausted : Nat := 0x0205
def stKeyUsage : Nat := 0x0206
def stKeyDraining : Nat := 0x0207
def stResultNotReady : Nat := 0x0301
def stInputZero : Nat := 0x0302
def stInputRange : Nat := 0x0303
def stPointInvalid : Nat := 0x0304
def stParamRejected : Nat := 0x0305
def stFaultDetected : Nat := 0x0306
def stContextInvalid : Nat := 0x0308
def stEntropy : Nat := 0x0309
def stPaddockReset : Nat := 0x0402
def stQueueFull : Nat := 0x0403
def stRole : Nat := 0x0404
def stPeerLost : Nat := 0x0405
def stImageInvalid : Nat := 0x0501
def stQuorumPending : Nat := 0x0601
def stStaleCommit : Nat := 0x0602
def stLogFull : Nat := 0x0603
def stReadOnly : Nat := 0x0604
def stType : Nat := 0x0605
def stRange : Nat := 0x0606
def stHeld : Nat := 0x0701
def stLifecycle : Nat := 0x0702

end Sys2Proof.Machine
end

