-- ==== Sys2Proof/Machine/Ops.lean ====
section
/-! DEFINITION. Operations that every family uses: time, attention, outputs, random draws, two-bank records, the
Logbook's room and the falling due of entries. -/

namespace Sys2Proof.Machine

open Sys2Proof

/-- The outcome type of every meaning. -/
abbrev Res := Host.Outcome State Fault Refusal

/-- Frames since the start: the clock of every duration (R5, log 1). -/
def State.now (s : State) : Nat := s.core.tick

/-- Frames in one second (R5). -/
def secFrames : Nat := 2000000

/-- Record something the device sent, drove or answered (log 7). -/
def State.emit (s : State) (o : Out) : State := s.modOut (fun l => l ++ [o])

/-- A message on the link to a peer counts towards its next rekey (R402). -/
def Cas.count (c : Cas) (d : Nat) : Cas :=
  { c with links := c.links.map (fun l => if l.peer = d then { l with msgs := l.msgs + 1 } else l) }

/-- Send a message on the Cucen Link: member 8 stands for the master (R400, R402). -/
def State.linkSend (s : State) (d code : Nat) (p : Bytes) : State := (s.emit (.link d code p)).modCas (·.count d)

/-- A powered state in which the device serves (R17). -/
def Op.powered : Op → Bool
  | .holding | .running | .recovery | .alarmHalt => true
  | _ => false

/-- The state code of `GLB_STATE.STATE` (R17); OFF has none and reads 0. -/
def Op.code : Op → Nat
  | .off => 0 | .booting => 1 | .holding => 2 | .running => 3 | .recovery => 4 | .alarmHalt => 5 | .deepSleep => 6

/-- Latch leaf `k` of group `g` (R508). `fresh` remembers the leaves whose events fall in this frame. -/
def State.latch (s : State) (g k : Nat) : State :=
  s.modAtn (fun a => { a with cause := updAt a.cause g (setBit · k), fresh := updAt a.fresh g (setBit · k) })

/-- Clear leaves of a group; a leaf whose event fell in the same frame remains latched (R508). -/
def State.clearLeaves (s : State) (g : Nat) (m : BitVec 16) : State :=
  s.modAtn (fun a => { a with
    cause := updAt a.cause g (fun c => clearBits c (clearBits m (a.fresh.getD g 0))) })

/-- `ATN_SUMMARY` (R507). -/
def State.atnSummary (s : State) : Nat :=
  (List.range 24).foldl (fun m g =>
    m + b2n (s.atn.cause.getD g 0 &&& s.atn.enable.getD g 0 != 0) * 2 ^ g) 0

/-- `ATN_RAW` (R507). -/
def State.atnRaw (s : State) : Nat :=
  (List.range 24).foldl (fun m g => m + b2n (s.atn.cause.getD g 0 != 0) * 2 ^ g) 0

/-- Port `n`; an index that names no port gives a port at its reset values. -/
def State.port (s : State) (n : Nat) : Port := s.ports.getD n (portReset noBanks)

/-- Change port `n`. -/
def State.modPort (s : State) (n : Nat) (f : Port → Port) : State := s.modPorts (fun l => updAt l n f)

/-- The configured paddock `n`. -/
def State.pad? (s : State) (n : Nat) : Option Pad := s.pads.find? (fun p => p.num == n)

/-- Change paddock `n`. -/
def State.modPad (s : State) (n : Nat) (f : Pad → Pad) : State :=
  s.modPads (fun l => l.map (fun p => if p.num == n then f p else p))

/-- Lane row `n` (R50). -/
def State.lane (s : State) (n : Nat) : Lane := s.yard.lanes.getD n laneReset

/-- Change lane row `n`. -/
def State.modLane (s : State) (n : Nat) (f : Lane → Lane) : State :=
  s.modYard (fun y => { y with lanes := updAt y.lanes n f })

/-- The job with an acceptance number. -/
def State.job? (s : State) (id : Nat) : Option Job := s.jobs.find? (fun j => j.id == id)

/-- Change a job. -/
def State.modJob (s : State) (id : Nat) (f : Job → Job) : State :=
  s.modJobs (fun l => l.map (fun j => if j.id == id then f j else j))

/-- Remove a job. -/
def State.dropJob (s : State) (id : Nat) : State := s.modJobs (fun l => l.filter (fun j => j.id != id))

/-- `len` fresh bytes from the DRBG and the state with its draw counted (R246, log 10). -/
def State.draw (s : State) (len : Nat) : Bytes × State :=
  (Config.drbg s.tack.draws len, s.modTack (fun t => { t with draws := t.draws + 1 }))

/-- The life-cycle state code that the state fuses read (R463). -/
def lcCodeOf (f : BitVec 64) : Nat :=
  (List.range 5).foldl (fun c g => if (f.toNat / 2 ^ (8 * g)) % 256 != 0 then g + 1 else c) 0

/-- The current life-cycle state code (R462): 0 RAW to 5 SCRAP. -/
def State.lcCode (s : State) : Nat := lcCodeOf s.fuse.lcState

/-- A debug scope counts as open: by token, or in RAW, TEST and RETURN (R462, R477). -/
def State.scopeOpen (s : State) : Bool :=
  s.lc.scopes != 0 || s.lcCode == 0 || s.lcCode == 1 || s.lcCode == 4

/-- The pending life-cycle mark in force (R468). -/
def State.lcMark (s : State) : Option LcMark := s.lc.mark.inForce markForm

/-- A class H or Z latch is set. -/
def State.haltLatched (s : State) : Bool :=
  (List.range 24).any (fun k => s.mon.latched.getLsbD k && 2 ≤ s.mon.cls.getD k 0)

/-! ### The Logbook -/

/-- Entries the ring holds (R445). -/
def ringSize : Nat := 131072

/-- The head record in force: the valid one with the higher next sequence number (R445). -/
def Log.headRec (l : Log) : LogHead :=
  match l.headA, l.headB with
  | some a, some b => if a.next < b.next then b else a
  | some a, none => a
  | none, some b => b
  | none, none => { next := 0, link := zeros 16 }

/-- `log.head` (R461). -/
def Log.head (l : Log) : Nat := l.headRec.next

/-- Room under R458. -/
def Log.room (l : Log) : Nat := ringSize - (l.head - l.acked)

/-- OVERWRITE_OLDEST is selected (R460). -/
def State.overwrites (s : State) : Bool := s.valU (mkKey 0x8000 0x05) == 1

/-- Logbook state: 0 OPEN, 1 FULL, 2 SEALED (R458, R460, R445). -/
def State.logState (s : State) : Nat :=
  if s.log.head ≥ 2 ^ 48 - 1 then 2
  else if s.overwrites then 0
  else if s.log.room = 0 then 2
  else if s.log.room ≤ 1024 then 1 else 0

/-- The seconds of the current stamp (R451). -/
def Log.stampSecs (l : Log) : Nat := l.secs + l.timeBase

/-- The stamp of R446 as the TIME value of R417. -/
def Log.stamp (l : Log) : Nat := l.stampSecs % 2 ^ 40 + min l.fracFrames 1999999 * 2 ^ 40

/-- The last entry written. -/
def Log.last (l : Log) : Bytes := l.entries.getLastD (zeros 64)

/-- The stamp an entry carries; a FIFO entry brings its own seconds, never before the last entry's (R452). -/
def Log.stampFor (l : Log) (d : LogDesc) : Nat :=
  match d.fixedStamp with
  | none => l.stamp
  | some secs =>
    let v := (secs + l.timeBase) % 2 ^ 40
    let lastS := uLE l.last 6 8
    if lastS % 2 ^ 40 > v ∨ (lastS % 2 ^ 40 = v ∧ lastS / 2 ^ 40 > 0) then lastS else v

/-- The 64 bytes of an entry (R446). -/
def Log.entryBytes (l : Log) (d : LogDesc) : Bytes :=
  leN 6 l.head ++ leN 8 (l.stampFor d) ++ leN 2 (d.iface * 4096 + d.detail % 4096) ++ leN 1 d.role ++
    leN 2 d.code ++ leN 4 d.ref ++ fit 8 d.old ++ fit 8 d.new ++ fit 16 l.headRec.link ++ zeros 9

/-- Append 64 bytes and write the new head record to the other bank (R445). -/
def Log.append (l : Log) (e : Bytes) : Log :=
  let r : LogHead := { next := l.head + 1, link := h16 e }
  let l := { l with entries := (l.entries ++ [e]).drop (l.entries.length + 1 - ringSize) }
  match l.headA, l.headB with
  | some a, some b => if a.next < b.next then { l with headA := some r } else { l with headB := some r }
  | some _, none => { l with headB := some r }
  | none, _ => { l with headA := some r }

/-- A Logbook description of an event of the device itself (R446, R447). -/
def devDesc (subsystem code ref : Nat) : LogDesc :=
  { iface := 0, detail := subsystem, role := 0, code := code, ref := ref, old := [], new := [], mon := none,
    fixedStamp := none }

/-- The code of an event of families 0x05 to 0x09 (R448). -/
def evCode (family : Nat) (e : Config.Ev) : Nat := family * 256 + (Config.codeLow e).toNat

/-- Where an entry that falls due stands: alarm entries of the same frame first, in monitor order, then arrival
order (R444). -/
def insertDue (l : List LogDue) (d : LogDue) : List LogDue :=
  match d.desc.mon with
  | none => l ++ [d]
  | some n =>
    let before := fun (x : LogDue) => x.due < d.due || (match x.desc.mon with | some m => m ≤ n | none => false)
    l.takeWhile before ++ d :: l.dropWhile before

/-- An entry falls due, with the change that waits for it (R444). -/
def State.logDueAdd (s : State) (d : LogDesc) (e : Effect) : State :=
  s.modLog (fun l => { l with due := insertDue l.due { desc := d, eff := e, due := s.now } })

/-- An event falls due (R443). -/
def State.logEv (s : State) (d : LogDesc) : State := s.logDueAdd d .none

/-- An event of families 0x05 to 0x09 with the facts it names (R448, R449). -/
def State.ev (s : State) (subsystem family : Nat) (e : Config.Ev) (facts : List Nat) : State :=
  s.logEv (devDesc subsystem (evCode family e) (Config.eventRef e facts).toNat)

/-- Enter an operating state: `GLB_STATE.STATE` changes, leaf 0 of group 0 latches, the transition is an event. -/
def State.setOp (s : State) (o : Op) : State :=
  if s.core.op = o then s
  else ((s.modCore (fun c => { c with op := o })).latch 0 0).ev 0 8 .stateChange [s.core.op.code, o.code]

/-! ### The Halter's outputs -/

/-- `halter.bind.stN` (R116). -/
def State.bind (s : State) (n : Nat) : BitVec 32 := BitVec.ofNat 32 (s.valU (mkKey 0x2003 (n + 1)))

/-- `HALTER_OUT`: which outputs are asserted (R101). -/
def State.halterOut (s : State) : BitVec 32 :=
  if s.core.op = .booting ∨ s.core.op = .deepSleep then 0xFFFFFFFF
  else
    let h := s.hal.level
    let p := (List.range 4).foldl (fun m n => if s.hal.portHold.getLsbD n then m ||| s.bind n else m) h
    if s.hal.alarmHold then p ||| BitVec.ofNat 32 (s.valU (mkKey 0x2001 0x04)) else p

/-- Steps of the schedule may not act (R112, R480). -/
def State.halterPaused (s : State) : Bool :=
  s.sup.hold || s.pwr.halted || s.core.op == .recovery || s.core.op == .alarmHalt

/-- The device drives the outputs (R18, R100). -/
def State.hoDriven (s : State) : Bool := s.core.op != .off

/-- The level HO`k` is driven to: `none` where the pin is not driven, or left to the board's resistor by open-drain
drive (R18, R99, R100). -/
def State.hoPin (s : State) (k : Nat) : Option Bool :=
  if s.hoDriven then
    let high := s.halterOut.getLsbD k == s.pwr.hoPol.getLsbD (k / 8)
    if high && s.core.op != .booting && !(s.valU (mkKey 0x2001 0x01)).testBit k then none else some high
  else none

/-- `HALTER_STEP.STATE`: 0 IDLE, 1 RUNNING, 2 DONE, 3 STOPPED, 4 PAUSED (R112, R115). -/
def State.halterState (s : State) : Nat :=
  match s.hal.st with
  | .idle => 0
  | .running => if s.halterPaused then 4 else 1
  | .done => 2
  | .stopped => 3

/-- A port hold begins (R103); a hold already in force changes nothing. -/
def State.beginPortHold (s : State) (n : Nat) : State :=
  if s.hal.portHold.getLsbD n then s
  else ((s.modHal (fun h => { h with portHold := setBit h.portHold n })).latch 5 3).ev 4 5 .holdBegan [n]

/-- A port hold ends (R103). -/
def State.endPortHold (s : State) (n : Nat) : State :=
  if s.hal.portHold.getLsbD n then
    ((s.modHal (fun h => { h with portHold := clearBits h.portHold (BitVec.ofNat 4 (2 ^ n)) })).latch 5 5).ev 4 5
      .holdEnded [n]
  else s

/-- An alarm hold begins and is recorded in the backup domain (R104). -/
def State.beginAlarmHold (s : State) : State :=
  let s := s.modMon (fun m => { m with holdRec := true })
  if s.hal.alarmHold then s
  else ((s.modHal (fun h => { h with alarmHold := true })).latch 5 4).ev 4 5 .holdBegan [4]

/-- The alarm hold ends with its record (R104). -/
def State.endAlarmHold (s : State) : State :=
  if s.hal.alarmHold then
    (((s.modHal (fun h => { h with alarmHold := false })).modMon (fun m => { m with holdRec := false })).latch 5 5).ev
      4 5 .holdEnded [4]
  else s

/-- Ports with a flash attached and not OFF (R108, R117). -/
def State.attachedPorts (s : State) : List Nat := (List.range 4).filter (fun n => (s.port n).attached && (s.port n).mode != .off)

/-- The bank in force: the valid one with the higher sequence number (R439). -/
def Dict.bank (d : Dict) : Option DictBank :=
  match d.bankA, d.bankB with
  | some a, some b => if a.seq < b.seq then some b else some a
  | some a, none => some a
  | none, b => b

/-- The committed value of an entry (R437): what a start finds in the bank in force. -/
def State.bankVal (s : State) (key : Nat) : Bytes := match s.dict.bank with
  | some b => (getKey b.vals key).getD (dfltOf key)
  | none => dfltOf key

/-- A stored value as the bank in force holds it, before the dictionary is loaded (R437). -/
def State.bankU (s : State) (key : Nat) : Nat := ofLE (s.bankVal key)

/-- The forwarder passes link traffic between CL0 and CL1 without firmware, in every state from PLL lock until VIN falls, while the
stored `cascade.enable` keeps its ports out of reset (R397, R398). A message that is for another device leaves by the other port:
0 is CL0, toward the master (log 127). -/
def State.passOn (s : State) (port member : Nat) : State :=
  let on := if s.core.op.powered then s.cas.enabled else s.bankU (mkKey 0x9000 0x03) == 1
  if s.cas.fwd && on && s.cas.role != .master then s.emit (.passed port member) else s

/-- `fw.trial.window` in frames (R93): from the bank in force until the working values are loaded. -/
def State.trialWindow (s : State) : Nat :=
  let k := mkKey 0x1100 0x06
  secFrames * (if s.core.op = .booting then
      match s.dict.bank with
      | some b => ofLE ((getKey b.vals k).getD (dfltOf k))
      | none => ofLE (dfltOf k)
    else s.valU k)

/-! ### Management buses (R185 to R189, R198): 0 and 1 are IC0 and IC1, 2 and 3 IC2 and IC3, 4 is PCIe -/

/-- An identifier that ended less than 10 s before is still barred (R198, R210, R426). -/
def recent (now : Nat) (l : List (Nat × Nat)) (v : Nat) : Bool := l.any (fun e => e.1 == v && now < e.2 + 20000000)

/-- A target port, 2 or 3. -/
def isTarget (bus : Nat) : Bool := bus == 2 || bus == 3

/-- The dynamic address of a target port. -/
def State.dynAddr (s : State) (bus : Nat) : Option Nat := if bus = 2 then s.par.dyn2 else if bus = 3 then s.par.dyn3 else none

/-- The address at which a target port answers: the dynamic one, or its static address (R186). -/
def State.targetAddr (s : State) (bus : Nat) : Nat := (s.dynAddr bus).getD (s.valU (mkKey 0x3000 (bus + 1)))

/-- The device's endpoint ID on a bus (R187, R189). -/
def State.ownEid (s : State) (bus : Nat) : Nat :=
  if bus < 2 then s.valU (mkKey 0x3000 0x05)
  else if bus = 2 then s.par.eidIc2 else if bus = 3 then s.par.eidIc3 else s.par.eidPcie

/-- A response is pending on a target port: an in-band interrupt (R186), whose data byte DSP0233 gives. -/
def State.inBand (s : State) (bus : Nat) : State := if isTarget bus ∧ (s.dynAddr bus).isSome then s.emit (.i3c bus 0xAE) else s

/-- Send an MCTP control message. The binding follows R185: DSP0233 to an I3C address, DSP0237 to a static one, DSP0238 on PCIe. -/
def State.mctpSend (s : State) (bus addr dst tag : Nat) (static : Bool) (p : Bytes) : State :=
  s.emit (.mctp bus (if bus = 4 then 0x238 else if static then 0x237 else 0x233) addr (s.ownEid bus) dst tag p)

/-- Answer an MCTP control request on IC2, IC3 or PCIe (R186, R187). -/
def State.mctpAnswer (s : State) (bus dst : Nat) (p : Bytes) : State :=
  (s.mctpSend bus (if isTarget bus then s.targetAddr bus else 0) dst 0 (s.dynAddr bus).isNone p).inBand bus

/-- An MCTP message or transfer is discarded and counted (R187, R198, R200). -/
def State.lateMctp (s : State) : State := (s.modPar (fun p => { p with late := p.late + 1 })).latch 10 14

/-- A source EID is in quarantine (R198). -/
def State.eidQuarantined (s : State) (eid : Nat) : Bool := recent s.now s.par.eidQuar eid

/-- An address of IC0 or IC1 is in quarantine (R198). -/
def State.addrQuarantined (s : State) (bus a : Nat) : Bool :=
  s.par.addrQuar.any (fun q => q.1 == bus && q.2.1 == a && s.now < q.2.2 + 20000000)

/-- The bus of a transport bit of R184 and R211: PCIe VDM, IC2, IC3, IC0, IC1. -/
def transportBus (t : Nat) : Nat := if t = 0 then 4 else if t < 3 then t + 1 else t - 3

/-- A message on IC0 or IC1 whose source EID is in quarantine (R198). -/
def State.fromQuarantine (s : State) (t eid : Nat) : Bool := (t == 3 || t == 4) && s.eidQuarantined eid

/-! ### Device jobs -/

/-- A lane with nothing loaded: its working key register and operand memory hold nothing (R220, R221, R298). -/
def Lane.empty (l : Lane) : Lane := { l with job := none, load := [], regs := [], operands := [] }

/-- Steps of a device job (R38, R233, R324, R497; R39 for the checkpoint's signature). -/
def DevWhat.steps : DevWhat → Nat
  | .sweep => 64
  | .selfTest _ => 1
  | .zeroPass => 64
  | .checkpoint => 36
  | .pairCheck lane => if lane < 20 then 64 else 16
  | .digest _ n => n
  | .pair _ _ n _ => n

/-- A device job whose steps are dispatched one by one (R36, R257). -/
def DevWhat.segmented : DevWhat → Bool
  | .digest _ _ => true
  | _ => false

/-- Add a device job. -/
def State.addDev (s : State) (w : DevWhat) : State :=
  (s.modDevJobs (fun l => l ++ [{ id := s.nextJob, what := w, since := s.now, lane := none, taken := 0 }])).modNextJob (· + 1)

/-- Change a device job. -/
def State.modDev (s : State) (id : Nat) (f : DevJob → DevJob) : State :=
  s.modDevJobs (fun l => l.map (fun d => if d.id == id then f d else d))

/-- Device jobs of a kind leave, and the lanes that they run on are free. -/
def State.dropWhat (s : State) (p : DevWhat → Bool) : State :=
  let mine := s.devJobs.filter (fun d => p d.what)
  (s.modYard (fun y => { y with lanes := y.lanes.map (fun l => if mine.any (fun d => l.job == some d.id) then l.empty else l) })).modDevJobs
    (fun l => l.filter (fun d => !p d.what))

/-- A device job whose last step has ended and whose lane is free again. -/
def DevJob.ended (d : DevJob) : Bool := d.lane.isNone && d.what.steps ≤ d.taken

/-- A device job of a kind has ended. -/
def State.devEnded (s : State) (w : DevWhat) : Bool := s.devJobs.any (fun d => d.what == w && d.ended)

/-- An ended device job leaves. -/
def State.dropDev (s : State) (w : DevWhat) : State := s.modDevJobs (fun l => l.filter (fun d => !(d.what == w && d.ended)))

/-- The clear time of every command: outputs of the last command are forgotten first (log 7). -/
def State.fresh (s : State) : State := s.modOut (fun _ => [])

end Sys2Proof.Machine
end

