-- ==== Sys2Proof/Machine/Halter.lean ====
section
/-! DEFINITION. The Halter: release schedule, inputs, pulses (R99 to R116). -/

namespace Sys2Proof.Machine

open Sys2Proof

/-- Read one 16-byte step record (R107). -/
def stepOf (b : Bytes) : HStep :=
  { wait := u8 b 0, operand := u8 b 1, action := u8 b 2, last := bitN (u8 b 3) 0, cont := bitN (u8 b 3) 1,
    mask := BitVec.ofNat 32 (uLE b 4 4), count := uLE b 8 4, width := uLE b 12 4 }

/-- The steps of a schedule, up to and including the one marked LAST. -/
def stepsUpToLast : List Bytes → List HStep
  | [] => []
  | b :: r => if bitN (u8 b 3) 0 then [stepOf b] else stepOf b :: stepsUpToLast r

/-- The schedule that a value of `halter.schedule` holds. -/
def scheduleOf (v : Bytes) : List HStep := stepsUpToLast (chunks 16 v)

/-- Structural faults of one record (R113). -/
def stepStructBad (b : Bytes) : Bool :=
  let h := stepOf b
  h.wait > 6 || h.action > 3 || u8 b 3 ≥ 4 ||
    ((h.wait == 0 || h.wait == 1 || h.wait == 5) && h.operand != 0) ||
    (h.action == 0 && h.mask != 0) || (h.action != 3 && h.width != 0)

/-- Range faults of one record (R113). -/
def stepRangeBad (b : Bytes) : Bool :=
  let h := stepOf b
  ((h.wait == 2 || h.wait == 3) && h.operand > 31) || (h.wait == 4 && h.operand > 3) ||
    (h.wait == 6 && h.operand > 63) || (h.action != 0 && h.mask == 0) ||
    (h.wait == 1 && h.count == 0) || h.count > 240000000 ||
    (h.action == 3 && (h.width == 0 || h.width > 2000000))

/-- The check of a written schedule (R113): the first kind of fault found, structural before range. -/
def scheduleCheck (v : Bytes) : Nat :=
  if v.length ≠ 1024 then stBadFormat
  else
    let recs := chunks 16 v
    let k := (scheduleOf v).length
    let used := recs.take k
    if !(used.any (fun b => bitN (u8 b 3) 0)) || used.any stepStructBad || !(recs.drop k).all allZero then stBadFormat
    else if used.any stepRangeBad then stRange
    else stOk

/-- The debounced active state of the inputs, `HALTER_IN` (R106). -/
def State.halterIn (s : State) : BitVec 32 := s.hal.hiLevel ^^^ BitVec.ofNat 32 (s.valU (mkKey 0x2002 0x01))

/-- Port `n` has passed its start verification and entered SERVE (R108 kind 0x04). -/
def Port.passed (p : Port) : Bool := p.verdict == .pass && (p.phase == .serve || p.phase == .update)

/-- The wait of a step is satisfied (R108); for DELAY the count has elapsed since the previous action (R109). -/
def State.waitMet (s : State) (h : HStep) : Bool :=
  if h.wait = 1 then h.count ≤ s.hal.counted
  else decide (1 ≤ s.hal.counted) &&
    (match h.wait with
     | 0 => true
     | 2 => s.halterIn.getLsbD h.operand
     | 3 => !s.halterIn.getLsbD h.operand
     | 4 => (s.port h.operand).passed
     | 5 => s.attachedPorts.all (fun n => (s.port n).passed)
     | 6 => (s.par.table.getD h.operand partnerReset).st == .pass
     | _ => false)

/-- A failing verdict for a port or partner that the step names, found from the frame after the previous action on (R109,
R111, R192). -/
def State.waitFails (s : State) (h : HStep) : Bool :=
  decide (1 ≤ s.hal.counted) && match h.wait with
  | 4 => (s.port h.operand).verdict == .fail
  | 5 => s.attachedPorts.any (fun n => (s.port n).verdict == .fail)
  | 6 => (s.par.table.getD h.operand partnerReset).st == .fail
  | _ => false

/-- The indices of the bits of a mask. -/
def maskBits (m : BitVec 32) : List Nat := (List.range 32).filter (fun k => m.getLsbD k)

/-- Perform the action of a step in this frame (R110). -/
def Hal.act (h : Hal) (now : Nat) (st : HStep) : Hal :=
  let others := h.pulses.filter (fun p => !st.mask.getLsbD p.1)
  match st.action with
  | 1 => { h with level := clearBits h.level st.mask, pulses := others }
  | 2 => { h with level := h.level ||| st.mask, pulses := others }
  | 3 => { h with level := h.level ||| st.mask,
                  pulses := others ++ (maskBits st.mask).map (fun k => (k, now + st.width)) }
  | _ => h

/-- The schedule goes on after a step acted in this frame (R109): the next step, or the end after LAST. -/
def Hal.advance (h : Hal) (st : HStep) : Hal :=
  if st.last then { h with st := .done, counted := 0, met := false, fails := false }
  else { h with step := h.step + 1, counted := 0, met := false, fails := false }

/-- The current step of a running schedule that may act now. -/
def State.currentStep (s : State) : Option HStep :=
  if s.core.op = .holding ∧ s.hal.st = .running ∧ s.halterPaused = false ∧ 1 ≤ s.hal.step
  then s.hal.steps[s.hal.step - 1]? else none

/-- A step acts: its action, its log entry, the step after it (R109, R110). -/
def State.stepActs (s : State) (st : HStep) : State :=
  let t := (s.modHal (fun h => (h.act s.now st).advance st)).ev 4 5 .halterAction
    [s.hal.step, st.action, st.mask.toNat]
  if st.last then t.latch 5 1 else t

/-- The schedule stops at its step (R111). -/
def State.stopSchedule (s : State) : State :=
  ((s.modHal (fun h => { h with st := .stopped })).latch 5 0).ev 4 5 .halterStopped [s.hal.step]

/-- The schedule begins at step 1 in the frame of an entry to HOLDING (R109, R113). -/
def State.beginSchedule (s : State) : State :=
  let v := s.val (mkKey 0x2000 0x01)
  s.modHal (fun h => { h with step := 1, st := .running, steps := scheduleOf v, counted := 0,
                              met := false, fails := false })

/-- A stopped schedule restarts at the same step with a fresh timeout (R111). -/
def State.resumeSchedule (s : State) : State :=
  if s.hal.st = .stopped then s.modHal (fun h => { h with st := .running, counted := 0, met := false, fails := false })
  else s

/-- What a boundary finds of the current step's wait, from levels and verdicts latched up to the frame that ends (R109). -/
def State.halterSees (s : State) : State :=
  let st := s.currentStep
  s.modHal (fun h => { h with met := (st.map s.waitMet).getD false, fails := (st.map s.waitFails).getD false })

/-- RELEASE_STEP_ACTS (R109, R111): a failing verdict that the last boundary found stops the schedule, a wait that it found
satisfied acts. -/
def execReleaseStepActs (s : State) : Res :=
  let s := s.fresh
  .next (match s.currentStep with
    | none => s
    | some st => if s.hal.fails then s.stopSchedule else if s.hal.met then s.stepActs st else s)

/-- WAIT_TIMEOUT (R111): a wait that has reached its timeout stops the schedule, or acts with CONTINUE. -/
def execWaitTimeout (s : State) : Res :=
  let s := s.fresh
  .next (match s.currentStep with
    | none => s
    | some st =>
      if st.wait = 1 ∨ st.count = 0 ∨ s.hal.counted < st.count then s
      else if s.hal.fails then s.stopSchedule
      else if s.hal.met then s.stepActs st
      else if st.cont then ((s.latch 5 2).ev 4 5 .halterTimeout [s.hal.step]).stepActs st
      else (s.ev 4 5 .halterTimeout [s.hal.step]).stopSchedule)

/-- PULSE_END (R110): the output's pulse has run its width and its schedule level becomes released. -/
def execPulseEnd (k : Nat) (s : State) : Res :=
  let s := s.fresh
  .next (if s.hal.pulses.any (fun p => p.1 == k && p.2 ≤ s.now) then
      (s.modHal (fun h => { h with level := clearBits h.level (BitVec.ofNat 32 (2 ^ k)),
                                   pulses := h.pulses.filter (fun p => p.1 != k) })).ev 4 5 .pulseEnded [k]
    else s)

/-- The attention leaf of input `k` (R514). -/
def State.latchInput (s : State) (k : Nat) : State := if k < 16 then s.latch 3 k else s.latch 4 (k - 16)

/-- The raw levels of the inputs are sampled at a boundary (R106, log 119). -/
def State.sampleInputs (s : State) (hi : BitVec 32) : State :=
  s.modHal (fun h => { h with samples := hi :: h.samples.take 3 })

/-- Input `k` shows `level` in the last four samples (R106). -/
def Hal.steady (h : Hal) (k : Nat) (level : Bool) : Bool :=
  h.samples.length == 4 && h.samples.all (fun v => v.getLsbD k == level)

/-- HI_LEVEL_CHANGE (R106): a new raw level that 4 consecutive samples show becomes the debounced level. -/
def execHiLevelChange (k : Nat) (level : Bool) (s : State) : Res :=
  let s := s.fresh
  .next (if s.hal.hiLevel.getLsbD k = level ∨ 32 ≤ k ∨ s.core.op = .off ∨ s.hal.steady k level = false then s
    else (s.modHal (fun h => { h with
      hiLevel := if level then setBit h.hiLevel k else clearBits h.hiLevel (BitVec.ofNat 32 (2 ^ k)) })).latchInput k)

end Sys2Proof.Machine
end

