-- ==== Sys2Proof/Machine/LogWrite.lean ====
section
/-! DEFINITION. Writing Logbook entries: room, policy, summaries, overwriting, checkpoints (R8, R444 to R446, R454 to R460). -/

namespace Sys2Proof.Machine

open Sys2Proof

/-- Once the Logbook takes entries again, each port whose refused commands had no entry gets one summary (R140). -/
def State.refusedSummaries (s : State) : State :=
  (List.range 4).foldl (fun s n =>
    let k := (s.port n).refSealed
    if k = 0 then s else (s.ev 3 5 .refusedSummary [n, k]).modPort n (fun p => { p with refSealed := 0 })) s

/-- Latches of the Logbook state and the warning level after room has changed (R459, R514). -/
def State.logLatches (s : State) : State :=
  let st := s.logState
  let low := s.log.room < s.valU (mkKey 0x8000 0x06)
  let s := if low && !s.log.warned then s.latch 2 8 else s
  let s := if st = s.log.stSeen then s else s.latch 2 (match st with | 0 => 11 | 1 => 9 | _ => 10)
  let s := s.modLog (fun l => { l with warned := low, stSeen := st })
  if st = 2 then s else s.refusedSummaries

/-- Put 64 bytes at the head of the ring. With no room, which happens under OVERWRITE_OLDEST alone, the oldest entry is
overwritten first (R460). -/
def State.ringPut (s : State) (mk : Log → Bytes) : State :=
  let full := s.log.room = 0
  let s := if full then s.modLog (fun l => { l with acked := l.acked + 1, overwritten := l.overwritten + 1,
                                                    ovwSince := l.ovwSince + 1 }) else s
  let s := s.modLog (fun l => { (l.append (mk l)) with written := l.written + 1, sinceCkpt := l.sinceCkpt + 1 })
  let s := s.logLatches
  if full ∧ s.log.ovwAt ≠ some s.log.stampSecs then
    ((s.modLog (fun l => { l with ovwAt := some l.stampSecs, ovwSince := 0 })).latch 2 14).logEv
      (devDesc 8 0x0F05 (min s.log.ovwSince 0xFFFFFFFF))
  else s

/-- Once room has returned, the count of events that could not be written is written first (R458). -/
def State.summarise (s : State) : State :=
  if 0 < s.log.unlogged ∧ s.logState ≠ 2 then
    let d := devDesc 8 0x0F03 (min s.log.unlogged 0xFFFFFFFF)
    ((s.ringPut (fun l => l.entryBytes d)).modLog (fun l => { l with unlogged := 0 })).latch 2 15
  else s

/-- The FIFO record of an alarm on main power is removed once the alarm's entry has been written (R485). -/
def dropFifo (l : List FifoRec) (n : Nat) : List FifoRec :=
  match l with
  | [] => []
  | r :: t => if r.mon == n && !r.battery then t else r :: dropFifo t n

/-- Write an event, or count it while the Logbook is SEALED (R443, R458). -/
def State.writeEvent (s : State) (d : LogDesc) : State :=
  let s := s.summarise
  if s.logState = 2 then s.modLog (fun l => { l with unlogged := l.unlogged + 1 })
  else
    let s := s.ringPut (fun l => l.entryBytes d)
    match d.mon, d.fixedStamp with
    | some n, none => s.modMon (fun m => { m with fifo := dropFifo m.fifo n })
    | _, _ => s

/-- Entry A of a checkpoint with its 32 signature bytes zero (R454). -/
def Log.ckptBody (l : Log) : Bytes :=
  leN 6 l.head ++ leN 8 l.stamp ++ zeros 3 ++ leN 2 0x0F00 ++ zeros 20 ++ fit 16 l.headRec.link ++ zeros 9

/-- Entries A and B of a checkpoint from its body and its 96-byte signature (R454). -/
def ckptPair (body sig : Bytes) : Bytes × Bytes :=
  (slice body 0 14 ++ slice sig 0 3 ++ slice body 17 2 ++ slice sig 3 20 ++ slice body 39 16 ++ slice sig 23 9,
   slice sig 32 64)

/-- The order of P-384, from the standard (log 8). -/
def p384Order : Nat :=
  0xffffffffffffffffffffffffffffffffffffffffffffffffc7634d81f4372ddf581a0db248b0a77aecec196accc52973

/-- The private key d = (OS2IP(seed) mod (n - 1)) + 1 of R203. -/
def p384Key (seed : Bytes) : Bytes := beN 48 (ofBE seed % (p384Order - 1) + 1)

/-- The audit key's private half, derived from S_AUD (R453, R203). -/
def State.auditKey (s : State) : Bytes := p384Key s.boot.sAud

/-- The DeviceID private key, derived from S_ID (R203). -/
def State.deviceKey (s : State) : Bytes := p384Key s.boot.sId

/-- The Alias private key, derived from CDI_1 (R203). -/
def State.aliasKey (s : State) : Bytes := p384Key (hmac384 s.boot.cdi1 (ascii "EV7100-ALIAS"))

/-- Write a checkpoint pair composed as `body` (R454, R455). -/
def State.writeCheckpoint (s : State) (body : Bytes) : State :=
  let d := s.draw 48
  let s := d.2
  let sig := fit 96 (Config.sigMake 0x11 s.auditKey body 0 d.1)
  let p := ckptPair body sig
  let a := s.log.head
  let s := (s.ringPut (fun _ => p.1)).ringPut (fun _ => p.2)
  s.modLog (fun l => { l with ckptLast := a, owed := false, sinceCkpt := 0, signing := none })

/-- A checkpoint pair can be written: room for two entries, and the DRBG serves (R455, R458). -/
def State.ckptRoom (s : State) : Bool :=
  s.log.head < 2 ^ 48 - 2 && (s.overwrites || decide (2 ≤ s.log.room))

end Sys2Proof.Machine
end

