-- ==== Sys2Proof/Machine/Reset.lean ====
section
/-! DEFINITION. Leaving and entering BOOTING: what a start clears and what it keeps (R21, R31, R102, R217, R509, R547,
R548). -/

namespace Sys2Proof.Machine

open Sys2Proof

/-- The generation of a slot (R217). -/
def Tack.gen (t : Tack) (slot : Nat) : Nat := (getKey t.gens slot).getD 0

/-- One slot's generation increments; at 4,095 the slot becomes RETIRED instead (R217). -/
def Tack.bump (t : Tack) (slot : Nat) : Tack :=
  if t.gen slot ≥ 4095 then { t with retired := if t.retired.contains slot then t.retired else slot :: t.retired }
  else { t with gens := putKey t.gens slot (t.gen slot + 1) }

/-- The generations of the slots of a run increment together (R217). -/
def Tack.bumpRun (t : Tack) (slot run : Nat) : Tack :=
  (List.range run).foldl (fun t i => t.bump (slot + i)) t

/-- The Tack Room's SRAM is cleared; every slot that held a non-persistent key takes the next generation (R217, R548). -/
def Tack.atStart (t : Tack) : Tack :=
  let t := t.keys.foldl (fun t k => if k.persistent then t else t.bumpRun k.slot k.run) t
  { t with keys := [], hampers := [], ptr := 256, sptr := 1, sweeps := 0, swept := 0,
           drbgOk := true, result := zeros 16, exported := [], inspect := 0, strikes := [],
           cmdsThisFrame := 0, loads := [] }

/-- Logbook state at a start: the ring, its head records and the kept counters stay, everything else is at its
default (R461). -/
def Log.atStart (l : Log) : Log :=
  { l with due := [], written := 0, unlogged := 0, ovwSince := 0, ovwAt := none, winStart := 0, owed := false,
           signing := none, warned := false, stSeen := 0, auditCert := [] }

/-- Monitors at a start: only the latches of the backup latch word survive (R485, R503). -/
def Mon.atStart (m : Mon) : Mon :=
  { m with latched := m.word,
           cls := (List.range 24).map (fun k => if m.wordZ.getLsbD k then 3 else if m.word.getLsbD k then 2 else 0),
           inactiveAt := List.replicate 24 0, due := 0, zDue := false, fifoAtStart := [], rootLost := false,
           backupLost := false, testMon := 0, testEnd := none, testResult := .none,
           heldBack := 0 }

/-- Dictionary state at a start: banks stay, working values, sessions and proposals go (R426, R436, R437). -/
def Dict.atStart (d : Dict) : Dict :=
  { d with vals := [], changes := 0, committed := 0, restoreKept := 0, serials := [], proposals := [],
           sessions := [], ended := [], dead := 0, authFails := [], conns := [], endSess := [], endConns := [] }

/-- Everything that a loss of main power or a full reset clears (R548). MRAM, fuses, the backup domain, the pins and the
command queue stay. -/
def State.clearVolatile (s : State) : State :=
  { s with
    sup := supReset,
    boot := bootReset s.boot.ledger s.boot.records,
    hal := { halReset with hiLevel := s.hal.hiLevel, samples := s.hal.samples },
    ports := s.ports.map (fun p => portReset p.ledger),
    shed := [], tagTable := [], shedLost := false, pldm := pldmReset, par := parReset,
    tack := s.tack.atStart, yard := yardReset s.yard.timetable, jobs := [], devJobs := [], nextJob := 0,
    pads := [padZero], pci := pciReset, rdw := rdwReset, rdwSc := rdwReset, dmb := dmbReset,
    cas := casReset false s.cas.fwd .standalone, dict := s.dict.atStart, log := s.log.atStart,
    lc := { s.lc with scopes := 0, scopesDue := 0, nonce := none, jtagNonce := none },
    mon := s.mon.atStart, atn := atnReset }

/-- At a start every paddock number takes its next generation (R385), and the export counters resume at their marks (R224, R386). -/
def Pmem.bumpAll (m : Pmem) : Pmem :=
  { m with expCtr := m.expMark, pgen := (List.range 288).map (fun p => (p, ((getKey m.pgen p).getD 0 + 1) % 256)) }

/-- Enter OFF (R17, R18, R21): nothing on main power keeps its state. No way into OFF keeps the
retention SRAM of a sleep (R546). -/
def State.toOff (s : State) : State :=
  let s := s.clearVolatile
  (s.modCore (fun c => { c with op := .off, before := .booting, zSince := false, frameCt := 0, tick := 0,
                                frameHi := 0, scratch := 0, fullReset := none })).modPwr (fun p =>
    { p with link := false, clkLost := none, gated := 0, waking := [], sleepAt := none,
             sleepReq := false, poweredDown := false, wakeLatched := none, sramKept := false, sram := none,
             wakeRec := none, halted := false })

/-- Enter BOOTING (R21, R31, R102, R509, R547): a start with its cause. A wake keeps the retention SRAM. -/
def State.beginStart (s : State) (cause : ResetCause) : State :=
  let was := s.core.op
  let s := (s.modPmem (·.bumpAll)).clearVolatile
  let s := s.modCore (fun c => { c with op := .booting, before := .booting, zSince := false, frameCt := 0, tick := 0,
                                        frameHi := 0, scratch := 0, resetCause := cause, starts := c.starts + 1,
                                        wakeLast := if cause = .wake then c.wakeLast else .none, fullReset := none })
  let s := s.modPwr (fun p =>
    { p with link := false, clkLost := none, gated := 0, waking := [], sleepAt := none,
             sleepReq := false, poweredDown := false, wakeLatched := none,
             sramKept := decide (cause = .wake) && p.sramKept,
             sram := if cause = .wake then p.sram else none,
             wakeRec := if cause = .wake then p.wakeRec else none, halted := false })
  if was = .off then s else s.ev 0 8 .stateChange [was.code, 1]

/-- Straps sampled as VIN rises or VIO_MG reaches its level (R99, R533). -/
def State.sampleStraps (s : State) (st : Straps) : State :=
  s.modPwr (fun p => { p with hoPol := st.hoPol, cascadeId := st.cascadeId, bootSel := st.bootSel,
                              vioSensed := (List.range 6).map (fun k => st.vio.getD k 0) })

/-- BOOT_SEL is sampled and the banks are sensed at the release of SYS_RST_N (R78, R532, R568). -/
def State.sampleBoot (s : State) (st : Straps) : State :=
  s.modPwr (fun p => { p with bootSel := st.bootSel,
                              vioSensed := (List.range 6).map (fun k => st.vio.getD k 0) })

/-- A full reset is due at the next boundary for this cause (R21, R547). -/
def State.fullResetDue (s : State) (c : ResetCause) : State :=
  s.modCore (fun k => { k with fullReset := some (k.fullReset.getD c) })

end Sys2Proof.Machine
end

