-- ==== Sys2Proof/Machine/Slots.lean ====
section
/-! DEFINITION. Placing and removing key runs, and the keys that service firmware and the platform hold for themselves
(R87, R157, R213, R214, R242, R243, R267, R453). -/

namespace Sys2Proof.Machine

open Sys2Proof

/-- The key whose run begins at a slot. -/
def Tack.key? (t : Tack) (slot : Nat) : Option Key := t.keys.find? (fun k => k.slot == slot)

/-- No key, no RETIRED slot and no run that a curve load has reserved meets the run (R213, R319). -/
def Tack.fits (t : Tack) (start run : Nat) : Bool :=
  t.keys.all (fun k => k.slot + k.run ≤ start || start + run ≤ k.slot) &&
    t.retired.all (fun r => r < start || start + run ≤ r) &&
    t.loads.all (fun x => x.2 + 7 ≤ start || start + run ≤ x.2)

/-- The first free run at or after a pointer, wrapping once from `hi` to `lo` (R213). -/
def Tack.search (t : Tack) (lo hi run : Nat) : Nat → Nat → Option Nat
  | 0, _ => none
  | n + 1, p => if p + run ≤ hi ∧ t.fits p run then some p
                else t.search lo hi run n (if p + 1 < hi then p + 1 else lo)

/-- The end of the general region: replicas hold what lies above it while the cascade is enabled (R213, R405). -/
def State.tackTop (s : State) : Nat := if s.valU (mkKey 0x9000 0x03) = 1 then 30720 else 32768

/-- Place a run (R213): the slot and the Tack Room with its pointer moved. -/
def State.place (s : State) (run : Nat) (steward : Bool) : Option (Nat × Tack) :=
  let t := s.tack
  match (if steward then t.search 1 256 run 255 t.sptr else none) with
  | some p => some (p, { t with sptr := if p + run < 256 then p + run else 1 })
  | none => match t.search 256 s.tackTop run (s.tackTop - 256) t.ptr with
    | some p => some (p, { t with ptr := if p + run < s.tackTop then p + run else 256 })
    | none => none

/-- The place of the key that job `id` makes: the run that a curve load reserved at dispatch (R319), or a new one. -/
def State.jobPlace (s : State) (id run : Nat) (steward : Bool) : Option (Nat × Tack) := match getKey s.tack.loads id with
  | some p => some (p, { s.tack with loads := dropKey s.tack.loads id })
  | none => s.place run steward

/-- The state code of an attribute record (R214). -/
def KeyState.code : KeyState → Nat
  | .active => 1 | .draining => 2 | .exhausted => 3 | .revoked => 4 | .lost => 5

/-- The 32 bytes of an attribute record (R214). -/
def Key.attrs (k : Key) : Bytes :=
  let par := match k.parent with | some p => p.1 + p.2 * 32768 + 2 ^ 27 | none => 0
  bytesOf [k.typ, k.st.code, k.run, k.depth + 8 * b2n k.initial + 16 * k.exportCls + 64 * b2n k.debugOff +
    128 * b2n k.persistent] ++ leN 2 k.gen ++ bytesOf [k.world.toNat, k.lcMask.toNat] ++ leN 2 k.usage.toNat ++
    leN 2 (k.owner + 512 * k.group + 8192 * b2n k.shared) ++ leN 4 par ++ leN 7 k.useCount ++ leN 7 k.useLimit ++ zeros 2

/-- The key that an attribute record describes (R214), with its secret and its use mark. -/
def keyOfAttrs (slot mark : Nat) (a secret : Bytes) : Key :=
  let f := u8 a 3
  let o := uLE a 10 2
  let p := uLE a 12 4
  { slot := slot, run := u8 a 2, typ := u8 a 0,
    st := match u8 a 1 with | 1 => .active | 2 => .draining | 3 => .exhausted | 4 => .revoked | _ => .lost,
    depth := f % 8, initial := bitN f 3, exportCls := field f 5 4, debugOff := bitN f 6, persistent := bitN f 7,
    gen := uLE a 4 2, world := BitVec.ofNat 5 (u8 a 6), lcMask := BitVec.ofNat 6 (u8 a 7), usage := BitVec.ofNat 13 (uLE a 8 2),
    owner := o % 512, group := field o 12 9, shared := bitN o 13,
    parent := if bitN p 27 then some (p % 32768, p / 32768 % 4096) else none,
    useCount := uLE a 16 7, useLimit := uLE a 23 7, secret := secret, mark := mark, origin := none, drainEnd := none }

/-- The key that wraps the secret of a persistent run (R243). -/
def slotWrapKey (srk : Bytes) (slot : Nat) (attrs : Bytes) : Bytes :=
  (hmac384 srk (ascii "EV7100-SLOT" ++ leN 2 slot ++
    sha384 (attrs.take 1 ++ zeros 1 ++ slice attrs 2 14 ++ zeros 7 ++ attrs.drop 23))).take 32

/-- The MRAM record of a run (R243); a zeroized secret is wrapped as 8 zero bytes (log 125). -/
def Key.record (srk : Bytes) (k : Key) : KeyRecord :=
  { slot := k.slot, attrs := k.attrs, mark := k.mark,
    wrapped := kwpWrap (slotWrapKey srk k.slot k.attrs) (if k.secret.isEmpty then zeros 8 else k.secret) }

/-- The key that an MRAM record gives at a start (R244): LOST where its secret does not unwrap, or with no Storage Root Key. -/
def KeyRecord.key (srk : Option Bytes) (r : KeyRecord) : Key :=
  match srk.bind (fun x => kwpUnwrap (slotWrapKey x r.slot r.attrs) r.wrapped) with
  | some v =>
    let k := keyOfAttrs r.slot r.mark r.attrs v
    if k.st = .revoked then { k with secret := [] } else k
  | none => { keyOfAttrs r.slot r.mark r.attrs [] with st := .lost }

/-- The check value of a Storage Root Key (R242). -/
def srkCheckOf (srk : Bytes) : Bytes := (hmac384 srk (ascii "EV7100-K")).take 8

/-- Put or replace the record of a run; a persistent record reaches MRAM too (R243). -/
def Tack.put (t : Tack) (k : Key) : Tack :=
  { t with
    keys := t.keys.filter (fun x => x.slot != k.slot) ++ [k],
    mram := match t.srk with
      | some x => if k.persistent then t.mram.filter (fun x => x.slot != k.slot) ++ [k.record x] else t.mram
      | none => t.mram }

/-- Remove a run and its MRAM record. -/
def Tack.remove (t : Tack) (slot : Nat) : Tack :=
  { t with keys := t.keys.filter (fun k => k.slot != slot), mram := t.mram.filter (fun k => k.slot != slot) }

/-- A key that service firmware or the platform holds for itself (R87, R157, R267, R453): not persistent, export class
NEVER, at depth 1, with no owner and no use limit. What those rules do not give of its record is the model's (log 66). -/
def serviceKey (world : BitVec 5) (typ : Nat) (usage : BitVec 13) (secret : Bytes) : Key :=
  { slot := 0, run := 1, typ := typ, st := .active, depth := 1, initial := false, exportCls := 0, debugOff := false,
    persistent := false, gen := 0, world := world, lcMask := 0x3F, usage := usage, owner := 0x1FF, group := 0,
    shared := false, parent := none, useCount := 0, useLimit := 0, secret := secret, mark := 0, origin := none,
    drainEnd := none }

/-- A key is held in a slot of its world (R213): slot and generation, none where no run fits. -/
def State.hold (s : State) (k : Key) : Option (Nat × Nat) × State :=
  match s.place k.run (k.world.getLsbD 0) with
  | none => (none, s)
  | some (slot, t) => (some (slot, t.gen slot), s.modTack (fun _ =>
      { t with keys := t.keys ++ [{ k with slot := slot, gen := t.gen slot }] }))

/-- The slot still holds the key of that world that was held there, REVOKED or not. -/
def Tack.holds (t : Tack) (w : BitVec 5) (h : Nat × Nat) : Bool := t.keys.any (fun k => k.slot == h.1 && k.world == w &&
  (t.gen h.1 == h.2 || (k.st == .revoked && t.gen h.1 == h.2 + 1)))

/-- A held key is erased (R235). -/
def State.unhold (s : State) (w : BitVec 5) (h : Option (Nat × Nat)) : State := match h with
  | some h => if s.tack.holds w h then s.modTack (fun t =>
      { t.bumpRun h.1 1 with keys := t.keys.filter (fun k => k.slot != h.1 || k.world != w) }) else s
  | none => s

/-- The keys that stage 1 moves into STEWARD slots or derives from them: K_v, CDI_1, S_ID, S_AUD, the DeviceID, Alias and
audit keys (R87, R203, R453). -/
def State.holdSecrets (s : State) (kv : Bytes) : State :=
  let d := [kv, s.boot.cdi1, s.boot.sId, s.boot.sAud].map (serviceKey 1 0x07 0x0040)
  let p := [s.deviceKey, s.aliasKey, s.auditKey].map (serviceKey 1 0x11 0x0080)
  (d ++ p).foldl (fun s k => (s.hold k).2) s

/-- The current generation of a paddock (R385). -/
def State.pgen (s : State) (p : Nat) : Nat := (getKey s.pmem.pgen p).getD 0

/-- The hamper key of a paddock (R267). -/
def State.hamperKey (s : State) (p : Nat) : Option Bytes :=
  s.tack.srk.map (fun k => (hmac384 k (ascii "EV7100-HAMPER" ++ leN 2 p ++ leN 1 (s.pgen p))).take 32)

/-- The hamper key of a paddock goes with it. -/
def State.dropHamper (s : State) (p : Nat) : State :=
  (s.unhold 1 (getKey s.tack.hampers p)).modTack (fun t => { t with hampers := dropKey t.hampers p })

/-- The hamper key of a paddock is derived into a STEWARD slot in the place of the one before (R267). -/
def State.deriveHamper (s : State) (p : Nat) : State :=
  let s := s.dropHamper p
  match s.hamperKey p with
  | none => s
  | some v =>
    let r := s.hold (serviceKey 1 0x03 0x0030 v)
    match r.1 with
    | some h => r.2.modTack (fun t => { t with hampers := putKey t.hampers p h })
    | none => r.2

/-- Hamper keys of every paddock that is not DISABLED, at a start and under a new Storage Root Key (R267). -/
def State.deriveHampers (s : State) : State :=
  s.pads.foldl (fun s q => if q.st = .disabled then s else s.deriveHamper q.num) s

end Sys2Proof.Machine
end

