-- ==== Sys2Proof/Machine/Start.lean ====
section
/-! DEFINITION. The mask ROM: fuses, life-cycle steps, slot choice, image checks, floor, ladder, fast wake
(R62 to R96, R462 to R472). -/

namespace Sys2Proof.Machine

open Sys2Proof

/-! ### Fuses and life cycle -/

/-- The fuse words of the field that step `k` of a transition to `target` blows, where it blows an ECC-covered one
(R69, R469). -/
def lcStepWords (target k : Nat) : List Nat :=
  if target = 2 ∧ k = 1 then [36, 37, 38, 39, 40, 41]
  else if target = 2 ∧ k = 2 then [42, 43, 44, 45, 46, 47]
  else if target = 2 ∧ k = 3 then [48]
  else if target = 3 ∧ k = 1 then [49, 50, 51, 52, 53, 54]
  else if target = 3 ∧ k = 2 then [55]
  else []

/-- Word `w` of the fuses, for the words that carry fields (R69); the bytes of a field stand at rising bits (log 91). -/
def Fuse.dataWord (f : Fuse) (w : Nat) : BitVec 64 :=
  let part := fun (b : Bytes) (k : Nat) => BitVec.ofNat 64 (uLE b (8 * k) 8)
  if w = 0 then f.serial
  else if w = 1 then f.mfgInfo
  else if w < 6 then part f.uds (w - 2)
  else if w < 30 then part (f.vendorDigest.getD ((w - 6) / 6) []) ((w - 6) % 6)
  else if w = 30 then f.rsv.extractLsb' 0 32 ++ f.vendorRevoke
  else if w < 34 then f.arbFloor.extractLsb' (64 * (w - 31)) 64
  else if w = 34 then f.rsv.extractLsb' 32 1 ++ f.arbFloor.extractLsb' 192 63
  else if w = 35 then f.lcState
  else if w < 42 then part f.owner0 (w - 36)
  else if w < 48 then part f.owner1 (w - 42)
  else if w = 48 then f.rsv.extractLsb' 33 62 ++ f.ownerAlg
  else if w < 55 then part f.debugKey (w - 49)
  else if w = 55 then f.rsv.extractLsb' 95 61 ++ BitVec.ofBool f.bootselLock ++ f.bfMode
  else 0

/-- A data word under SECDED: every one but words 30 to 35 (R69). -/
def eccCovered (w : Nat) : Bool := w < 448 && (w < 30 || 35 < w)

/-- The check bits of a word: unblown for a word outside the ECC and for one with no fuse blown (R69). -/
def Fuse.check (f : Fuse) (w : Nat) : BitVec 8 :=
  if !eccCovered w || f.dataWord w == 0 then 0 else Config.eccCheck (f.dataWord w)

/-- Word `w` of all 512, with FUSE_ECC in words 448 to 503 (R69). -/
def Fuse.word (f : Fuse) (w : Nat) : BitVec 64 :=
  if w < 448 then f.dataWord w
  else if w < 504 then BitVec.ofNat 64 ((List.range 8).foldl (fun a k => a + (f.check (8 * (w - 448) + k)).toNat * 2 ^ (8 * k)) 0)
  else 0

/-- The covered words in which two bits or more sense wrong: one is corrected, two are detected, and more are counted as
detected too (R69, log 91). -/
def Fuse.eccBad (f : Fuse) : List Nat :=
  (f.flips.map (·.1)).filter (fun w => eccCovered w && 2 ≤ (f.flips.filter (fun x => x.1 == w && x.2 < 72)).length)

/-- The fuse shadow: UDS and the reserved fields read 0 once ROM_LOCK is set (R70). -/
def State.shadow (s : State) : Fuse := if s.boot.romLock then { s.fuse with uds := zeros 32, rsv := 0 } else s.fuse

/-- Failing words that R470 excuses: words of a field whose blowing step the mark names and has not completed. -/
def State.eccExcused (s : State) : List Nat :=
  match s.lcMark with
  | none => []
  | some m => ((List.range 5).filter (fun k => m.step < k)).flatMap (lcStepWords m.target)

/-- The step that blows the state group of a target (R469). -/
def lcGroupStep (target : Nat) : Nat := if target = 2 then 4 else 3

/-- Bitwise or of two byte strings: a fuse once blown stays blown. -/
def orB (a b : Bytes) : Bytes := List.zipWith (· ||| ·) a b

/-- Group `g` of LC_STATE, all 8 fuses blown (R463). -/
def blowGroup (f : BitVec 64) (g : Nat) : BitVec 64 := f ||| BitVec.ofNat 64 (0xFF * 2 ^ (8 * (g - 1)))

/-- Backup key RAM is zeroized (R469). -/
def State.wipeBackupKeys (s : State) : State :=
  s.modTack (fun t => { t with srk := none, srkCheck := zeros 8, bootKey := none })

/-- Persistent Tack Room records and dictionary banks are destroyed (R469). -/
def State.wipeStores (s : State) : State :=
  (s.modTack (fun t => { t with mram := [] })).modDict (fun d => { d with bankA := none, bankB := none })

/-- One ROM step of a transition (R469). Each can be repeated without harm. -/
def State.lcStep (s : State) (target : Nat) (rec : Bytes) (k : Nat) : State :=
  let done := fun (f : Fuse) => { f with flips := f.flips.filter (fun x => !(lcStepWords target k).contains x.1) }
  if k = lcGroupStep target then s.modFuse (fun f => { f with lcState := blowGroup f.lcState target })
  else if target = 2 then
    if k = 1 then s.modFuse (fun f => done { f with owner0 := orB f.owner0 (slice rec 8 48) })
    else if k = 2 then s.modFuse (fun f => done { f with owner1 := orB f.owner1 (slice rec 56 48) })
    else if k = 3 then s.modFuse (fun f => done { f with ownerAlg := f.ownerAlg ||| BitVec.ofNat 2 (u8 rec 1) })
    else s
  else if target = 3 then
    if k = 1 then s.modFuse (fun f => done { f with debugKey := orB f.debugKey (slice rec 8 48) })
    else if k = 2 then s.modFuse (fun f => done { f with
      bfMode := f.bfMode ||| BitVec.ofNat 2 (u8 rec 2), bootselLock := f.bootselLock || bitN (u8 rec 2) 2 })
    else s
  else
    if k = 1 then (s.wipeBackupKeys).modLc (fun l => { l with epoch := min (l.epoch + 1) 0xFFFFFFFF })
    else if k = 2 then s.wipeStores
    else s

/-- Write a progress mark under the rules of R90, or clear it with `none`, which leaves no valid record (R468). -/
def State.putMark (s : State) (m : Option LcMark) : State :=
  s.modLc (fun l => { l with mark := match m with
    | none => noBanks
    | some x => l.mark.put markForm { x with seq := match l.mark.inForce markForm with | some y => y.seq + 1 | none => 0 } })

/-- The remaining steps of a mark, from `from_` on, each followed by a new mark, up to the step that clears it. -/
def State.lcSteps (s : State) (m : LcMark) (from_ : Nat) : State :=
  (List.range 5).foldl (fun s k =>
    if from_ ≤ k ∧ 1 ≤ k ∧ k ≤ lcGroupStep m.target then (s.lcStep m.target m.record k).putMark (some { m with step := k })
    else s) s

/-- The pending mark at a start (R469 to R471): a stale one is cleared, another is carried on to its end. -/
def State.lcMarkRun (s : State) : State :=
  match s.lcMark with
  | none => s
  | some m =>
    if m.target < s.lcCode then (s.putMark none).ev 0 8 .lcMarkCleared [m.source, m.target]
    else
      let t := if m.target = s.lcCode ∧ lcGroupStep m.target ≤ m.step then s else s.lcSteps m (m.step + 1)
      (t.putMark none).ev 0 8 .lcTransition [m.source, m.target]

/-- What every start does in its state: complete the group of the state, and in RETURN and SCRAP destroy what is left of
the customer's keys (R471). -/
def State.lcEveryStart (s : State) : State :=
  let c := s.lcCode
  let s := if c = 0 then s else s.modFuse (fun f => { f with lcState := blowGroup f.lcState c })
  if c = 4 ∨ c = 5 then
    (s.modTack (fun t => { t with srk := none, srkCheck := zeros 8, mram := [] })).modDict (fun d => { d with bankA := none, bankB := none })
  else s

/-! ### The image -/

/-- The anti-rollback floor that the fuses read (R81). -/
def floorOf (f : BitVec 255) : Nat :=
  (List.range 255).foldl (fun a k => if f.getLsbD k then k + 1 else a) 0

/-- Vendor key `k` is revoked (R69). -/
def Fuse.revoked (f : Fuse) (k : Nat) : Bool := (f.vendorRevoke.toNat / 2 ^ (8 * k)) % 256 != 0

/-- Body length of a header. -/
def hdrBodyLen (h : Bytes) : Nat := uLE h 16 4

/-- SVN of a header. -/
def hdrSvn (h : Bytes) : Nat := u8 h 10

/-- The layout rules of R71 with the placement rules of R72 and R73. -/
def hdrLayoutOk (h : Bytes) : Bool :=
  let body := hdrBodyLen h
  let load := uLE h 20 4
  let flags := uLE h 28 4
  slice h 0 4 == [0x45, 0x56, 0x46, 0x57] && uLE h 4 2 == 1 && uLE h 6 2 == 8192 && u8 h 8 ≤ 3 && u8 h 9 == 1 &&
    u8 h 11 == 0 && 4096 ≤ body && body ≤ 8380416 && body % 4096 == 0 && load % 4096 == 0 &&
    uLE h 24 4 < body && uLE h 24 4 % 4 == 0 && flags < 2 && uLE h 80 2 < 2 && allZero (slice h 82 14) &&
    allZero (slice h 7507 685) && load + body ≤ 16777216 && (flags == 0 || load + body ≤ 0x00400000)

/-- The header check of R72, in its order: 0 or a reason code. -/
def State.hdrCheck (s : State) (h : Bytes) : Nat :=
  if h.length ≠ 8192 then 0x10
  else if !hdrLayoutOk h then 0x11
  else if uLE h 80 2 ≠ 1 then 0x19
  else if s.fuse.revoked (u8 h 8) then 0x12
  else if sha384 (slice h 96 2688) ≠ s.fuse.vendorDigest.getD (u8 h 8) [] then 0x13
  else if hdrSvn h < floorOf s.fuse.arbFloor then 0x14
  else 0

/-- The hybrid signature check (R74, R75): ECDSA P-384 over SHA-384 and pure ML-DSA-87 with an empty context; both
verifications always run. -/
def sigReason (h : Bytes) : Nat :=
  let m := slice h 0 2784
  let e := Config.sigVerify 0x21 (slice h 96 96) (sha384 m) 0 (slice h 2784 96)
  let l := Config.sigVerify 0x46 (slice h 192 2592) (mlDsaPure [] m) 0 (slice h 2880 4627)
  match e, l with
  | true, true => 0
  | false, true => 0x15
  | true, false => 0x16
  | false, false => 0x17

/-- The body bytes of a reading. -/
def readBody (h : Bytes) (r : BootRead) : Option Bytes :=
  match r.body with
  | none => none
  | some b => if b.length < hdrBodyLen h then none else some (b.take (hdrBodyLen h))

/-- Steps 6 and 7 of R62 on one reading: 0, or the reason code of the step that fails. -/
def State.headReason (s : State) (r : BootRead) : Nat :=
  if s.pwr.vioSensed.getD 4 0 = 0 then 0x10
  else match r.header with
    | none => 0x10
    | some h => if s.hdrCheck h ≠ 0 then s.hdrCheck h else sigReason h

/-- Steps 6 to 8 of R62 on one reading: 0, or the reason code of the first step that fails. -/
def State.imageReason (s : State) (r : BootRead) : Nat :=
  if s.headReason r ≠ 0 then s.headReason r
  else
    let h := r.header.getD []
    match readBody h r with
    | none => 0x10
    | some b => if sha384 b = slice h 32 48 then 0 else 0x18

/-- The boot flash read that `BF_MODE` selects: opcode, address bytes, clock in kHz (R77). -/
def bfRead (m : BitVec 2) : Nat × Nat × Nat :=
  if m = 0 then (0xEB, 3, 100000) else if m = 1 then (0xEE, 4, 200000) else (0x0B, 3, 25000)

/-- Where a slot begins in the boot flash (R77). -/
def slotStart : Slot → Nat
  | .b => 0x00800000
  | _ => 0

/-- A read of the boot flash (R76, R77). -/
def State.bootFlashRead (s : State) (addr len : Nat) : State :=
  let m := bfRead s.fuse.bfMode
  s.emit (.bootFlash m.1 m.2.1 m.2.2 addr len)

/-- What steps 6 to 8 do on one reading: the header is read, and, once it and both signatures pass, the body is read from the
slot's body start and written to service SRAM at its load address (R62, R76, R77). -/
def State.loadSlot (s : State) (x : Slot) (r : BootRead) : State :=
  if s.pwr.vioSensed.getD 4 0 = 0 then s
  else
    let s := s.bootFlashRead (slotStart x) 8192
    if s.headReason r ≠ 0 then s
    else
      let h := r.header.getD []
      let s := s.bootFlashRead (slotStart x + 8192) (hdrBodyLen h)
      match readBody h r with
      | none => s
      | some b => s.modPwr (fun p => { p with sram := some (uLE h 20 4, b) })

/-- Dictionary facts of a header (R98); a header that was not read gives none. -/
def infoOf (r : BootRead) : HeaderInfo :=
  match r.header with
  | none => noHeader
  | some h => if hdrLayoutOk h then
      { release := uLE h 12 4, digest := slice h 32 48, keyIndex := u8 h 8, svn := hdrSvn h } else noHeader

/-! ### The ledger -/

/-- The ledger record in force (R90). -/
def State.ledger (s : State) : Option DevLedger := s.boot.ledger.inForce devForm

/-- A ledger with nothing in it, the base of a first record. -/
def ledgerZero : DevLedger :=
  { seq := 0, active := none, trial := none, stA := .empty, stB := .empty, count := 0, target := 0, svnA := 0,
    svnB := 0, digA := zeros 16, digB := zeros 16 }

/-- State of a slot in a record. -/
def DevLedger.st (l : DevLedger) : Slot → SlotState
  | .a => l.stA
  | _ => l.stB

/-- Change the state of a slot. -/
def DevLedger.setSt (l : DevLedger) (x : Slot) (v : SlotState) : DevLedger :=
  match x with
  | .a => { l with stA := v }
  | _ => { l with stB := v }

/-- The other boot flash slot. -/
def otherSlot : Slot → Slot
  | .a => .b
  | _ => .a

/-- Write a new ledger record, changed from the one in force (R90). The first one has sequence number 0 (log 97). -/
def State.putLedger (s : State) (f : DevLedger → DevLedger) : State :=
  let old := (s.ledger).getD ledgerZero
  let r := { f old with seq := if s.ledger.isNone then 0 else old.seq + 1 }
  (s.modBoot (fun b => { b with ledger := b.ledger.put devForm r })).ev 0 8 .fwLedger [r.seq.toNat]

/-- A boot record of R65 joins the 16-entry ring. -/
def State.bootRecord (s : State) (slotB : Bool) (reason svn : Nat) : State :=
  s.modBoot (fun b =>
    let l := b.records ++ [{ slotB := slotB, reason := reason, svn := svn, frame := s.core.frameCt, logged := false }]
    { b with records := l.drop (l.length - 16) })

/-- A failed attempt of this start: its boot record, and the reason code that the start reports (R65, R89). -/
def State.bootFail (s : State) (slotB : Bool) (reason svn : Nat) : State :=
  (s.bootRecord slotB reason svn).modBoot (fun b => { b with lastFail := reason })

/-- The ROM stops in BOOTING with a reason code (R62, R64). -/
def State.romStop (s : State) (reason : Nat) : State :=
  s.modBoot (fun b => { b with stuck := some reason, romDone := true, lastFail := if reason = 0 then b.lastFail else reason })

/-- A slot fails for good: BAD in the ledger, if there is one and the boot is not forced (R63, R79, R80). The same record takes
the slot out of its place as trial slot (log 92). -/
def State.slotBad (s : State) (x : Slot) (forced : Bool) : State :=
  if forced ∨ s.ledger.isNone then s
  else s.putLedger (fun l =>
    { l.setSt x .bad with trial := if l.trial = some x then none else l.trial })

/-- Steps 6 to 8 with the retry of R63: the state after the failures' records, and the reading that passed. -/
def State.trySlot (s : State) (x : Slot) (forced : Bool) (r1 r2 : BootRead) : State × Option BootRead :=
  let b := decide (x = .b)
  let svn := fun (r : BootRead) => match r.header with | some h => hdrSvn h | none => 0
  let c1 := s.imageReason r1
  let s := s.loadSlot x r1
  if c1 = 0 then (s, some r1)
  else
    let s := s.bootFail b c1 (svn r1)
    if c1 = 0x14 ∨ c1 = 0x12 then (s.slotBad x forced, none)
    else
      let c2 := s.imageReason r2
      let s := s.loadSlot x r2
      if c2 = 0 then (s, some r2)
      else ((s.bootFail b c2 (svn r2)).slotBad x forced, none)

/-- The two readings of a slot. -/
def romReads (r : RomInput) (x : Slot) : BootRead × BootRead :=
  match x with
  | .a => (r.a1, r.a2)
  | _ => (r.b1, r.b2)

/-- BOOT_SEL after BOOTSEL_LOCK (R78). -/
def State.bootSel (s : State) : Nat :=
  let v := s.pwr.bootSel.toNat
  if s.fuse.bootselLock ∧ (v = 1 ∨ v = 2) then 0 else v

/-- BOOT_SEL 11: the ROM has released the boot flash, and its pins are high impedance (R78). -/
def State.bfReleased (s : State) : Bool := s.core.op == .booting && s.boot.romDone && s.bootSel == 3

/-- How a slot was chosen (R79, R80). -/
structure Chosen where
  slot : Slot
  trial : Bool
  forced : Bool
  fallback : Bool
  read : BootRead

/-- Items 1 and 2 of R79: a trial start is counted, or a trial at its limit is marked BAD with reason 0x41; the SVN of that boot
record is the ledger's (log 93). -/
def State.trialItem (s : State) : State × Option Slot :=
  match s.ledger with
  | none => (s, none)
  | some l => match l.trial with
    | none => (s, none)
    | some t =>
      if l.count < 3 then (s.putLedger (fun l => { l with count := l.count + 1 }), some t)
      else ((s.bootFail (decide (t = .b)) 0x41 (if t = .b then l.svnB else l.svnA)).putLedger
              (fun l => { l.setSt t .bad with trial := none }), none)

/-- Items 3 and 4 of R79: the ACTIVE slot, then the other one if it is RETIRED; without a record slot A, then B. -/
def State.activeItem (s : State) (r : RomInput) : State × Option Chosen :=
  let go := fun (s : State) (x : Slot) => s.trySlot x false (romReads r x).1 (romReads r x).2
  match s.ledger with
  | none =>
    let a := go s .a
    match a.2 with
    | some rd => (a.1, some { slot := .a, trial := false, forced := false, fallback := false, read := rd })
    | none =>
      let b := go a.1 .b
      (b.1, b.2.map (fun rd => { slot := .b, trial := false, forced := false, fallback := false, read := rd }))
  | some l => match l.active with
    | none => (s, none)
    | some x =>
      let a := if l.st x = .active then go s x else (s, none)
      match a.2 with
      | some rd => (a.1, some { slot := x, trial := false, forced := false, fallback := false, read := rd })
      | none =>
        let y := otherSlot x
        if l.st y = .retired then
          let b := go a.1 y
          match b.2 with
          | none => (b.1, none)
          | some rd =>
            (b.1.putLedger (fun l => { (l.setSt y .active).setSt x .bad with active := some y }),
             some { slot := y, trial := false, forced := false, fallback := true, read := rd })
        else (a.1, none)

/-- Step 5 with the attempts that follow it (R63, R79, R80). -/
def State.chooseSlot (s : State) (r : RomInput) : State × Option Chosen :=
  let sel := s.bootSel
  if sel = 1 ∨ sel = 2 then
    let x := if sel = 1 then Slot.a else Slot.b
    let t := s.trySlot x true (romReads r x).1 (romReads r x).2
    (t.1, t.2.map (fun rd => { slot := x, trial := false, forced := true, fallback := false, read := rd }))
  else
    let t := s.trialItem
    match t.2 with
    | none => t.1.activeItem r
    | some x =>
      let a := t.1.trySlot x false (romReads r x).1 (romReads r x).2
      match a.2 with
      | some rd => (a.1, some { slot := x, trial := true, forced := false, fallback := false, read := rd })
      | none => a.1.activeItem r

/-! ### Floor, ladder, handover -/

/-- Step 9: fuses blown one at a time and in ascending order until the floor equals the target (R83). The order begins at fuse
0, so unblown fuses below the present floor are blown too (log 94). -/
def State.blowFloor (s : State) (c : Chosen) (svn : Nat) : State :=
  match s.ledger with
  | none => s
  | some l =>
    if c.trial ∨ c.forced ∨ l.active ≠ some c.slot ∨ svn < l.target ∨ l.target ≤ floorOf s.fuse.arbFloor then s
    else s.modFuse (fun f => { f with
      arbFloor := f.arbFloor ||| BitVec.ofNat 255 (2 ^ l.target - 1) })

/-- Hash `n` times (R84). -/
def ladder : Nat → Bytes → Bytes
  | 0, k => k
  | n + 1, k => ladder n (sha384 k)

/-- K_v for an image at SVN `v` (R84). -/
def ladderKey (uds : Bytes) (lc v : Nat) : Bytes :=
  ladder (255 - v) (hmac384 uds (ascii "EV7100-LADDER" ++ leN 1 lc))

/-- CDI_1 (R85). -/
def cdi1 (uds digest : Bytes) (svn lc epoch : Nat) : Bytes :=
  hmac384 uds (digest ++ leN 1 svn ++ leN 1 lc ++ leN 4 epoch)

/-- The wake record's MAC (text before R95). -/
def wakeMac (key : Bytes) (w : WakeRec) : Bytes :=
  hmac384 key (w.bodyDigest ++ leN 1 (b2n w.slotB) ++ leN 1 w.svn ++ leN 4 w.ledgerSeq)

/-- A class H or Z finding in the backup latch word or event FIFO (R88, R95, R503). -/
def Mon.findH (m : Mon) : Bool := m.word != 0 || m.fifo.any (fun r => 2 ≤ r.cls)

/-- The resident body as a wake finds it: what the loader wrote, with the bytes that the sleep has changed (R95). -/
def resident (body : Bytes) (damage : List (Nat × Byte)) : Bytes :=
  damage.foldl (fun b d => updAt b d.1 (fun _ => d.2)) body

/-- Item 7 of R95: the resident body has the wake record's digest. -/
def State.residentOk (s : State) (digest : Bytes) (damage : List (Nat × Byte)) : Bool := match s.pwr.sram with
  | some m => sha384 (resident m.2 damage) == digest
  | none => false

/-- The conditions of R95 in order: 0, or the reason code of the first that fails (R96). -/
def State.fastReason (s : State) (r : RomInput) : Nat :=
  match s.pwr.wakeRec with
  | none => 0x32
  | some w =>
    if !(w.byCommand && s.pwr.vbatOk && s.mon.valid) then 0x32
    else if s.mon.findH then 0x32
    else if !w.retained then 0x32
    else if (match s.ledger with | some l => l.seq.toNat != w.ledgerSeq | none => true) then 0x32
    else if s.lcCode ≠ w.lcCode ∨ s.lcMark.isSome then 0x32
    else if w.svn < floorOf s.fuse.arbFloor ∨
        s.fuse.revoked w.keyIndex then 0x32
    else if !(s.pwr.sramKept && s.residentOk w.bodyDigest r.damage) then 0x30
    else match s.tack.bootKey with
      | none => 0x31
      | some k => if wakeMac k w = w.mac then 0 else 0x31

/-- Steps 10 to 12: the handover buffer is filled, the watchdog armed, the ROM locked and left (R84 to R86, R89). -/
def State.romJump (s : State) (slot : Slot) (path : Nat) (trial fallback : Bool) (svn : Nat) (digest : Bytes)
    (release keyIndex : Nat) (retain : Bool) : State :=
  let uds := s.shadow.uds
  let floor := floorOf s.fuse.arbFloor
  let c := cdi1 uds digest svn s.lcCode s.lc.epoch
  let sid := hmac384 uds (ascii "EV7100-DEVICEID")
  let sad := hmac384 uds (ascii "EV7100-AUDIT")
  let find := b2n s.mon.findH + 2 * b2n s.mon.rootLost + 4 * b2n s.mon.backupLost
  s.modBoot (fun b => { b with
    romLock := true, romDone := true, slotB := decide (slot = .b), path := path, trial := trial, fallback := fallback,
    svn := svn, floor := floor, release := release, keyIndex := keyIndex, bodyDigest := digest, retain := retain,
    trialFrom := if trial then some 0 else none, findH := s.mon.findH,
    handover := some { kv := ladderKey uds s.lcCode svn, cdi1 := c, sId := sid, sAud := sad, slotB := decide (slot = .b),
                       path := path, svn := svn, floor := floor, fallback := fallback, lastFail := b.lastFail,
                       findings := find } })

/-- Step 5 after a fast wake that failed: the same slot, by the item of R79 that names it (R96). -/
def State.sameSlot (s : State) (x : Slot) (r : RomInput) : State × Option Chosen :=
  let held := fun (f : DevLedger → Option Slot) => (s.ledger.map f).getD none == some x
  if (s.bootSel != 0 || held (·.trial)) then s.chooseSlot r
  else if held (·.active) then s.activeItem r
  else
    let t := s.trySlot x false (romReads r x).1 (romReads r x).2
    match t.2 with
    | some rd => (t.1, some { slot := x, trial := false, forced := false, fallback := false, read := rd })
    | none => t.1.chooseSlot r

/-- Steps 5 to 12 on the full path, of one slot where a fast wake has failed (R62, R96). Where no slot is left the reason code is
0x20 (log 95), and its boot record names slot A (log 93). -/
def State.fullBoot (s : State) (same : Option Slot) (r : RomInput) : State :=
  if s.bootSel = 3 then s.romStop 0
  else
    let c := match same with | some x => s.sameSlot x r | none => s.chooseSlot r
    match c.2 with
    | none => (c.1.bootFail false 0x20 0).romStop 0x20
    | some ch =>
      let h := ch.read.header.getD []
      let s := c.1.blowFloor ch (hdrSvn h)
      s.romJump ch.slot (if ch.forced then 2 else 0) ch.trial ch.fallback (hdrSvn h) (slice h 32 48) (uLE h 12 4)
        (u8 h 8) (bitN (uLE h 28 4) 0)

/-- Step 4: the backup domain is read (R503, R504); the Storage Root Key is found present when its check value matches (R242). -/
def State.readBackup (s : State) : State :=
  let s := s.modTack (fun t => { t with srk := t.srk.filter (fun k => srkCheckOf k == t.srkCheck) })
  s.modMon (fun m => { m with fifoAtStart := m.fifo, rootLost := s.tack.srk.isNone, backupLost := !m.valid,
                              latched := m.latched ||| m.word })

/-- Header facts of both slots as stage 1 reports them (R98). -/
def State.readInfo (s : State) (r : RomInput) : State :=
  s.modBoot (fun b => { b with infoA := infoOf r.a1, infoB := infoOf r.b1 })

/-- Steps 3 to 12: known-answer tests, backup domain, path, boot (R62, R95, R96). -/
def State.romAfterLc (s : State) (r : RomInput) : State :=
  let wake := decide (s.core.resetCause = .wake)
  if !(if wake then r.katFastOk else r.katOk) then (s.bootFail false 2 0).romStop 2
  else
    let s := (s.readBackup).readInfo r
    if wake then
      let f := s.fastReason r
      let w := s.pwr.wakeRec
      let s := s.modTack (fun t => { t with bootKey := none })
      match f, w with
      | 0, some w =>
        s.romJump (if w.slotB then .b else .a) 1 false false w.svn w.bodyDigest w.release w.keyIndex true
      | _, _ =>
        let s := s.bootFail ((w.map (·.slotB)).getD false) f ((w.map (·.svn)).getD 0)
        if r.katOk then s.fullBoot (w.map (fun w => if w.slotB then .b else .a)) r else (s.bootFail false 2 0).romStop 2
    else s.fullBoot none r

/-- Steps 1 and 2, then the rest (R62, R462, R470). A boot record of a failure that names no slot names slot A (log 93). -/
def State.romRun (s : State) (r : RomInput) : State :=
  if s.fuse.eccBad.any (fun w => !s.eccExcused.contains w) then (s.bootFail false 1 0).romStop 1
  else
    let s := s.lcMarkRun.lcEveryStart
    if s.lcCode = 0 ∨ s.lcCode = 5 then s.romStop 0
    else s.romAfterLc r

/-- Release 1.0 of the service firmware, the one this manual describes (R1, R2): major 1, minor 0. -/
def releaseOk (v : Nat) : Bool := v / 2 ^ 24 == 1 && (v / 2 ^ 16) % 256 == 0

/-- Levels sampled at the start: the banks at every one, BOOT_SEL at a full reset, which no pin row brings. A departure from OFF
samples both with the row of its pin, and a wake does not sample BOOT_SEL (R78, R532, R568). -/
def State.sampleStart (s : State) (r : RomInput) : State :=
  let c := s.core.resetCause
  if c = .powerOn ∨ c = .sysRst then s
  else s.modPwr (fun p => { p with
    bootSel := if c = .wake then p.bootSel else r.bootSel, vioSensed := (List.range 6).map (fun k => r.vio.getD k 0) })

/-- ROM_START (R62): the start steps of the mask ROM. It runs once per entry to BOOTING, not while a supply hold pauses it
(R68). -/
def execRomStart (r : RomInput) (s : State) : Res :=
  let s := s.fresh
  .next (if s.core.op ≠ .booting ∨ s.boot.romDone ∨ s.sup.hold ∨ !s.pwr.pll then s else (s.sampleStart r).romRun r)

/-- GETSTATUS (R64, R462): while the ROM waits, IC2 answers with the reason code in bits 15:8. -/
def execGetstatus (s : State) : Res :=
  let s := s.fresh
  .next (match s.core.op, s.boot.stuck with
    | .booting, some c => s.emit (.i3c 2 (c * 256))
    | _, _ => s)

/-- ROM_LOCK_WRITE (R70): writing 1 sets LOCK; writing 0 has no effect. -/
def execRomLockWrite (v : BitVec 32) (s : State) : Res :=
  let s := s.fresh
  .next (s.modBoot (fun b => { b with romLock := b.romLock || v.getLsbD 0 }))

/-- CORE_RELEASE_WRITE (R87): bit n releases SCn and stays set. -/
def execCoreReleaseWrite (v : BitVec 32) (s : State) : Res :=
  let s := s.fresh
  .next (s.modBoot (fun b => { b with coreRelease := b.coreRelease ||| (v >>> 1).setWidth 3 }))

/-- HANDOVER_LOCK_WRITE (R86, R87): stage 1, with the Tack Room built, moves the four secrets into STEWARD slots and derives the
DeviceID, Alias and audit keys; the
buffer is zeroized, and stack formation may begin (R401). -/
def execHandoverLockWrite (v : BitVec 32) (s : State) : Res :=
  let s := s.fresh
  .next (if v.getLsbD 0 then
      let s := if s.boot.handover.isSome then s.modCas (fun c => { c with formAt := some s.now }) else s
      match s.boot.handover with
      | none => s.modBoot (fun b => { b with handoverLock := true })
      | some h => (s.modBoot (fun b => { b with
          handoverLock := true, handover := none, tackBuilt := true, cdi1 := h.cdi1, sId := h.sId, sAud := h.sAud,
          bootKey := h.kv })).holdSecrets h.kv
    else s)

/-- TRIAL_WATCHDOG_EXPIRY (R21, R93): the trial slot becomes BAD with reason 0x40, and a full reset follows, in whatever state the
device is (log 96). -/
def execTrialWatchdogExpiry (s : State) : Res :=
  let s := s.fresh
  .next (match s.boot.trialFrom with
    | none => s
    | some f =>
      if s.core.op = .off ∨ s.now < f + s.trialWindow then s
      else
        let s := s.bootRecord s.boot.slotB 0x40 s.boot.svn
        let s := s.putLedger (fun l => { l.setSt (if s.boot.slotB then .b else .a) .bad with trial := none })
        s.beginStart .trialExpired)

end Sys2Proof.Machine
end

