-- ==== Sys2Proof/Machine/Power.lean ====
section
/-! DEFINITION. Supplies, resets, clocks and waking (R17 to R21, R99, R491 to R495, R532, R533, R541 to R548). -/

namespace Sys2Proof.Machine

open Sys2Proof

/-- VIN_RST in millivolts (R491). -/
def vinRst : Nat := 800

/-- `mon.vin_warn_mv` (R491). -/
def State.vinWarn (s : State) : Nat := s.valU (mkKey 0x7000 0x06)

/-- The conditions for leaving OFF (R533), and no wait for the clocks (R542). -/
def State.mayLeaveOff (s : State) : Bool :=
  s.core.op == .off && s.pwr.vinGood && s.pwr.vioMg && s.pwr.sysRst && s.core.fullReset.isNone

/-- VIN_RISE (R21, R99, R533): VIN rises above VIN_RST; the polarity straps are sampled and the device leaves OFF where
the other conditions hold. -/
def execVinRise (mv : Nat) (st : Straps) (s : State) : Res :=
  let s := s.fresh
  .next (if mv ≤ vinRst ∨ s.pwr.vinGood then s.modPwr (fun p => { p with vinMv := mv })
    else
      let s := (s.modPwr (fun p => { p with vinGood := true, vinMv := mv, pll := false })).sampleStraps st
      let s := s.modCas (fun c => { c with fwd := false })
      if s.mayLeaveOff then s.beginStart .powerOn else s)

/-- With neither supply the backup domain loses its keys, latch word, FIFO, hold record and seconds (R504). -/
def State.loseBackup (s : State) : State :=
  let s := s.modTack (fun t => { t with srk := none, srkCheck := zeros 8, bootKey := none })
  let s := s.modMon (fun m => { m with latched := 0, word := 0, wordZ := 0, fifo := [], holdRec := false,
                                       valid := false, cfg := defaultMonCfg })
  s.modLog (fun l => { l with secs := 0, fracFrames := 0 })

/-- VIN_FALL (R18, R21, R398, R504, R546): VIN falls below VIN_RST in any state; the Cucen forwarder stops, and with a collapsed cell the
backup domain is lost. -/
def execVinFall (mv : Nat) (s : State) : Res :=
  let s := s.fresh
  .next (if vinRst ≤ mv then s.modPwr (fun p => { p with vinMv := mv })
    else
      let s := ((s.toOff).modPwr (fun p => { p with vinGood := false, vinMv := mv, pll := false })).modCas
        (fun c => { c with fwd := false })
      if s.pwr.vbatOk then s else s.loseBackup)

/-- SYS_RST_N_LOW (R21, R547): OFF while SYS_RST_N is low. -/
def execSysRstNLow (s : State) : Res :=
  let s := s.fresh
  .next ((if s.core.op = .off then s else s.toOff).modPwr (fun p => { p with sysRst := false }))

/-- SYS_RST_N_RELEASE (R21, R78, R547): the full reset on release of SYS_RST_N. -/
def execSysRstNRelease (st : Straps) (s : State) : Res :=
  let s := s.fresh
  .next (if s.pwr.sysRst then s
    else
      let s := s.modPwr (fun p => { p with sysRst := true })
      if s.mayLeaveOff then (s.sampleBoot st).beginStart .sysRst else s)

/-- VIO_MG_RISE (R533): the straps are sampled when VIO_MG reaches 1.62 V late. -/
def execVioMgRise (st : Straps) (s : State) : Res :=
  let s := s.fresh
  .next (if s.pwr.vioMg then s
    else
      let s := s.modPwr (fun p => { p with vioMg := true })
      if s.core.op = .off then
        let s := s.sampleStraps st
        if s.mayLeaveOff then s.beginStart .powerOn else s
      else s)

/-- PLL_LOCK (R398, R541, R542): the PLLs lock and the Cucen forwarder runs; a device that waits in OFF for its clocks
starts. -/
def execPllLock (s : State) : Res :=
  let s := s.fresh
  .next (
    let s := (s.modPwr (fun p => { p with pll := true, clkLost := none })).modCas (fun c => { c with fwd := true })
    if s.core.op = .off ∧ s.core.fullReset = some .refclkLoss then
      let s := s.modCore (fun c => { c with fullReset := none })
      if s.mayLeaveOff then s.beginStart .refclkLoss else s
    else s)

/-- REFCLK_RECOVERY_TIMEOUT (R542): 20,000 frames after the loss the device waits in OFF until the PLLs lock. -/
def execRefclkRecoveryTimeout (s : State) : Res :=
  let s := s.fresh
  .next (match s.pwr.clkLost with
    | none => s
    | some f =>
      if s.core.op = .off ∨ s.now < f + 20000 then s
      else ((s.toOff).modPwr (fun p => { p with pll := false })).modCore
        (fun c => { c with fullReset := some .refclkLoss }))

/-! ### Waking -/

/-- The device wakes: BOOTING with cause WAKE (R545). The PLLs lock from cold (R548). -/
def State.wakeNow (s : State) (w : WakeSource) : State :=
  (((s.modCore (fun c => { c with wakeLast := w })).beginStart .wake).modPwr (fun p => { p with pll := false })).modCas
    (fun c => { c with fwd := false })

/-- A wake event: latched during the power-down, acted on once it has ended (R546). -/
def State.wakeEvent (s : State) (w : WakeSource) : State :=
  if s.core.op = .deepSleep then
    if s.pwr.poweredDown then s.wakeNow w
    else s.modPwr (fun p => { p with wakeLatched := some (p.wakeLatched.getD w) })
  else s

/-- The source is enabled (R545). -/
def State.wakeEnabled (s : State) (w : WakeSource) (hi : Nat) : Bool :=
  match w with
  | .hi => hi < 32 && (s.valU (mkKey 0x7100 0x02)).testBit hi
  | .timer => s.valU (mkKey 0x7100 0x03) != 0
  | .perst => s.valU (mkKey 0x7100 0x04) == 1
  | .alarm => s.mon.findH
  | .none => false

/-- WAKE (R545): an enabled wake source acts in DEEP_SLEEP; an HI input becomes active, or PERST_N rises. -/
def execWake (w : WakeSource) (hi : Nat) (s : State) : Res :=
  let s := s.fresh
  .next (if s.core.op = .deepSleep ∧ s.wakeEnabled w hi = true then
      (if w = .perst then s.modPwr (fun p => { p with perst := true }) else s).wakeEvent w
    else s)

/-- WAKE_TIMER_EXPIRY (R545): `power.wake.timer_s` expires. -/
def execWakeTimerExpiry (s : State) : Res :=
  let s := s.fresh
  .next (if s.core.op = .deepSleep ∧ s.wakeEnabled .timer 0 = true then s.wakeEvent .timer else s)

/-! ### Supply hold -/

/-- The configuration of monitor `n` in force (R483). -/
def State.monConfig (s : State) (n : Nat) : Nat := s.mon.cfg.getD n 0

/-- The alarm's attention leaf (R514). -/
def State.latchMonitor (s : State) (n : Nat) : State := if n < 16 then s.latch 1 n else s.latch 2 (n - 16)

/-- Add a FIFO entry; with 63 held the 64th is an overflow record that counts (R502). -/
def fifoAdd (l : List FifoRec) (r : FifoRec) : List FifoRec :=
  if l.length < 63 then l ++ [r]
  else if l.length = 63 then l ++ [{ secs := r.secs, mon := 0xFF, cls := 0, hold := false, battery := r.battery, count := 1 }]
  else updAt l 63 (fun o => { o with count := min 255 (o.count + 1) })

/-- A job stops with the class Z stop (R327, R486): it holds a lane, or it is a batch whose running programme stops with none left
in its queue, or what such a batch has already ended. -/
def State.stopsZ (s : State) (j : Job) : Bool :=
  let batch := fun (id : Nat) => s.jobs.any (fun k => k.src == .part id && k.lane.isSome) &&
    !s.jobs.any (fun k => k.src == .part id && k.lane.isNone && !k.settled)
  j.lane.isSome || batch j.id || (match j.src with | .part p => batch p | _ => false)

/-- Class Z zeroization (R486): backup keys, working keys, Tack Room, operand memories, contexts, mask generators, Shed, tag table;
every programme stops and writes no completion. Persistent MRAM records stay. -/
def State.zeroize (s : State) : State :=
  let s := s.modTack (fun t =>
    let t := t.keys.foldl (fun t k => if k.persistent then t else t.bumpRun k.slot k.run) t
    { t with srk := none, srkCheck := zeros 8, bootKey := none, keys := [] })
  let s := s.modPorts (fun l => l.map (fun p => { p with tagSecret := [] }))
  let s := ((s.modShed (fun _ => [])).modTagTable (fun _ => [])).modShedLost (fun _ => true)
  let run := s.jobs.filter s.stopsZ
  let s := s.modDevJobs (fun l => l.map (fun d => if d.lane.isSome then { d with lane := none, taken := 0, since := s.now } else d))
  let s := s.modLog (fun l => { l with signing := none })
  let s := s.modYard (fun y => { y with
    ctxReserve := y.ctxReserve - (run.filter (·.held)).length,
    masks := y.masks.map (fun m => { m with seed := 0 }),
    lanes := y.lanes.map (fun l => { l.empty with zero := if l.job.isSome then 2 else l.zero }) })
  let s := s.modJobs (fun l => l.filter (fun j => !run.any (fun k => k.id == j.id)))
  s.modPads (fun l => l.map (fun p => { p with streams := [], ring := p.ring.mapIdx (fun i r =>
    { r with jobs := r.jobs - (run.filter (fun j => j.src == .paddock && j.pad == p.num && j.ring == i)).length }) }))

/-- A monitor latches (R482, R485): attention, backup latch word and FIFO, log entry; its other actions are due at the
next boundary; a class Z latch zeroizes at once (R486). -/
def State.monLatch (s : State) (n : Nat) : State :=
  if s.mon.latched.getLsbD n then s
  else
    let cfg := s.monConfig n
    let cls := cfg % 4
    let hold := cfg.testBit 2
    let rec_ : FifoRec := { secs := s.log.secs, mon := n, cls := cls, hold := hold, battery := false, count := 1 }
    let s := s.modMon (fun m => { m with
      latched := setBit m.latched n, cls := updAt m.cls n (fun _ => cls), due := setBit m.due n,
      inactiveAt := updAt m.inactiveAt n (fun _ => s.now),
      word := if 2 ≤ cls then setBit m.word n else m.word,
      wordZ := if cls = 3 then setBit m.wordZ n else m.wordZ,
      fifo := if 2 ≤ cls then fifoAdd m.fifo rec_ else m.fifo })
    let s := s.latchMonitor n
    let s := s.logEv { (devDesc 6 (evCode 7 .alarm) (Config.eventRef .alarm [n, cls]).toNat) with mon := some n }
    if cls = 3 then (s.modMon (fun m => { m with zDue := true })).zeroize else s

/-- A monitor's real condition or event; while the monitor is under test its response is suppressed (R499). -/
def State.monDetect (s : State) (n : Nat) : State :=
  if n < 12 ∧ ¬ (s.monConfig n).testBit 3 then s
  else if s.mon.testEnd.isSome ∧ s.mon.testMon = n then
    s.modMon (fun m => { m with heldBack := setBit m.heldBack n })
  else s.monLatch n

/-- VIN_WARN_CROSSING (R491): a crossing latches; the hold takes effect at order 3 of the next boundary. -/
def execVinWarnCrossing (mv : Nat) (s : State) : Res :=
  let s := s.fresh
  .next (if s.core.op = .off ∨ s.core.op = .deepSleep ∨ s.vinWarn ≤ mv then s
    else s.modSup (fun u => { u with crossing := true, calm := 0 }))

/-- The supply hold begins (R491, R494): counted, signalled, and monitor 22 latches at the 16th start within 1 s. -/
def State.beginHold (s : State) : State :=
  let recent := s.sup.begun.filter (fun f => s.now ≤ f + secFrames)
  let counts := s.sup.lastEntry.isSome
  let s := s.modSup (fun u => { u with
    crossing := false, hold := true, holdFrames := 0, calm := 0, begun := recent ++ [s.now],
    holds := min (u.holds + 1) 0xFFFFFFFF, counted := if counts then u.counted + 1 else u.counted })
  let s := s.latch 0 1
  if 15 ≤ recent.length then s.monDetect 22 else s

/-- An entry of a hold episode: the count of holds and the longest hold. At the end of a hold it stands before the writes
that the hold deferred (R495). -/
def State.holdEntry (s : State) (first : Bool) : State :=
  let d := devDesc 6 (evCode 7 .supplyEpisode) (Config.eventRef .supplyEpisode [s.sup.counted, s.sup.countedLongest]).toNat
  let s := if first then s.modLog (fun l => { l with due := { desc := d, eff := .none, due := s.now } :: l.due }) else s.logEv d
  s.modSup (fun u => { u with lastEntry := some s.now, counted := 0, countedLongest := 0 })

/-- The hold ends after `len` frames (R492); the first hold of an episode writes its entry here (R495). -/
def State.endHold (s : State) (len : Nat) : State :=
  let first := s.sup.lastEntry.isNone
  let s := (s.modSup (fun u => { u with
    hold := false, calm := 0, abortDue := false, longest := max u.longest len,
    countedLongest := max u.countedLongest len })).latch 0 2
  if first then (s.modSup (fun u => { u with counted := 1 })).holdEntry true else s

/-- Order 3 of R33: the supply-hold state of the frame that starts; `calm` tells whether VIN stayed above VIN_WARN + 20 mV
throughout the frame that ended. At 20,000 frames monitor 22 latches (R494). -/
def State.fixHold (s : State) (calm : Bool) : State :=
  let s := s.modSup (fun u => { u with calm := if calm && !u.crossing then u.calm + 1 else 0 })
  if s.sup.hold then
    if 8 ≤ s.sup.calm then s.endHold (s.sup.holdFrames + 1)
    else
      let s := s.modSup (fun u => { u with crossing := false, holdFrames := u.holdFrames + 1,
                                           longest := max u.longest (u.holdFrames + 1) })
      if s.sup.holdFrames = 20000 then s.monDetect 22 else s
  else if s.sup.crossing then s.beginHold
  else s

/-- SUPPLY_HOLD_END (R492, R495): at the boundary after 8 consecutive frames above VIN_WARN + 20 mV, of which the last is
the one that ends now, the hold ends. -/
def execSupplyHoldEnd (s : State) : Res :=
  let s := s.fresh
  .next (if s.sup.hold ∧ 7 ≤ s.sup.calm ∧ s.sup.crossing = false then s.endHold (s.sup.holdFrames + 1) else s)

/-- SUPPLY_HOLD_EPISODE_ENTRY (R495): one second after the previous entry, with no hold in force, the holds counted since
are reported; with none counted the episode is over. -/
def execSupplyHoldEpisodeEntry (s : State) : Res :=
  let s := s.fresh
  .next (match s.sup.lastEntry with
    | none => s
    | some f =>
      if s.now < f + secFrames ∨ s.sup.hold then s
      else if s.sup.counted = 0 then s.modSup (fun u => { u with lastEntry := none, countedLongest := 0 })
      else s.holdEntry false)

/-- SUPPLY_HOLD_ABORT (R493): a hold that has lasted 2,000 frames with the one that ends now aborts, at the boundary,
every programme that has begun. In BOOTING nothing aborts. -/
def execSupplyHoldAbort (s : State) : Res :=
  let s := s.fresh
  .next (if s.sup.hold ∧ 1999 ≤ s.sup.holdFrames ∧ s.core.op ≠ .booting then
      s.modSup (fun u => { u with abortDue := true })
    else s)

end Sys2Proof.Machine
end

