-- ==== Sys2Proof/Machine/Sheet.lean ====
section
/-! DEFINITION. Sheets and Timetable images: sheet 0, the stored sheets, the check of an image (R41 to R52). -/

namespace Sys2Proof.Machine

open Sys2Proof

/-- Kind of a lane row, in the row order TG0-TG3, P0-P15, L0-L7, BL0-BL31, DG0-DG31 (R50). -/
def laneKind (n : Nat) : LaneKind :=
  if n < 4 then .tag else if n < 20 then .pk else if n < 28 then .lattice else if n < 60 then .block else .digest

/-- The rows of a kind. -/
def lanesOf : LaneKind → List Nat
  | .tag => List.range 4
  | .pk => (List.range 16).map (· + 4)
  | .lattice => (List.range 8).map (· + 20)
  | .block => (List.range 32).map (· + 28)
  | .digest => (List.range 32).map (· + 60)

/-- Class of sheet 0 for a row at a round and position (R52). Its group is always ANY. -/
def sheet0Class (lane round pos : Nat) : Nat :=
  let even := round % 2 == 0
  if lane < 4 ∨ lane = 60 then 0
  else if lane < 12 then (if even then 2 else 3)
  else if lane < 20 then (if even then 3 else 2)
  else if lane < 24 then 2
  else if lane < 28 then 3
  else if lane < 44 then 1
  else if lane < 60 then (if pos = 0 then 5 else 1)
  else if lane < 69 then 1
  else if lane < 85 then 4
  else (if pos = 0 then 5 else 1)

/-- Sheet `n` of a Timetable; loaded sheets are numbered from 1. -/
def sheetIn (t : Option Timetable) (n : Nat) : Option Sheet :=
  match t with
  | none => none
  | some t => if n = 0 then none else t.sheets[n - 1]?

/-- A loaded sheet as the device runs it: a sheet of the replaced Timetable stays in force until the switch that the load
forces (R58). -/
def State.sheet? (s : State) (n : Nat) : Option Sheet :=
  sheetIn (if s.yard.loadDue then s.yard.leaving else s.yard.timetable) n

/-- Sheet `n` is stored: sheet 0 always is. -/
def State.hasSheet (s : State) (n : Nat) : Bool := n == 0 || (sheetIn s.yard.timetable n).isSome

/-- Round length of a sheet: 64 frames for sheet 0 (R52). -/
def State.sheetLen (s : State) (n : Nat) : Nat := match s.sheet? n with
  | some x => max 1 x.len
  | none => 64

/-- The entry of a lane row: class and group, 0xFF for ANY (R50). -/
def State.sheetEntry (s : State) (n lane round pos : Nat) : Nat × Nat :=
  match s.sheet? n with
  | some x => let o := 2 * (lane * x.len + pos); (u8 x.body o, u8 x.body (o + 1))
  | none => (sheet0Class lane round pos, 0xFF)

/-- Position of a frame within the round of the active sheet. -/
def State.posAt (s : State) (frame : Nat) : Nat := (frame - s.yard.base) % s.sheetLen s.yard.sheet

/-- Round number of a frame. -/
def State.roundAt (s : State) (frame : Nat) : Nat := (frame - s.yard.base) / s.sheetLen s.yard.sheet

/-- A frame starts a round of the active sheet (R54). -/
def State.roundBoundary (s : State) (frame : Nat) : Bool := s.posAt frame == 0 && s.yard.base < frame

/-- The classes that a row of a sheet holds anywhere in its rounds. -/
def State.rowHas (s : State) (n lane cls : Nat) : Bool :=
  match s.sheet? n with
  | some x => (List.range x.len).any (fun p => (s.sheetEntry n lane 0 p).1 == cls)
  | none => sheet0Class lane 0 0 == cls || sheet0Class lane 1 0 == cls || sheet0Class lane 0 1 == cls

/-- The active sheet gives some slot of a class on a lane of a kind. -/
def State.classOn (s : State) (k : LaneKind) (cls : Nat) : Bool :=
  (lanesOf k).any (fun l => s.rowHas s.yard.sheet l cls)

/-- A row is C6 at every position of a sheet (R60). -/
def State.rowIdle (s : State) (n lane : Nat) : Bool :=
  match s.sheet? n with
  | some x => (List.range x.len).all (fun p => (s.sheetEntry n lane 0 p).1 == 6)
  | none => false

/-! ### The image -/

/-- Classes a lane kind may carry (R43). -/
def classOk : LaneKind → Nat → Bool
  | .tag, c => c == 0
  | .pk, c => c == 0 || c == 2 || c == 3 || c == 6
  | .lattice, c => c == 0 || c == 2 || c == 3 || c == 6
  | .block, c => c == 1 || c == 4 || c == 5 || c == 6
  | .digest, c => c == 0 || c == 1 || c == 4 || c == 5 || c == 6

/-- Length of a public key of an owner algorithm (R49, R148). -/
def ownerKeyLen (alg : Nat) : Nat := if alg = 1 then 96 else 1952

/-- Length of a signature of an owner algorithm. -/
def ownerSigLen (alg : Nat) : Nat := if alg = 1 then 96 else 3309

/-- The public-key type of an owner algorithm: ECDSA P-384 or ML-DSA-65 (R212). -/
def ownerKeyType (alg : Nat) : Nat := if alg = 1 then 0x21 else 0x45

/-- Verification of a signature of an owner, officer or signer key: ECDSA P-384 over SHA-384, or ML-DSA-65 in its pure form with
an empty context (R51, R149, R425, R474). -/
def ownerVerify (alg : Nat) (key m sig : Bytes) : Bool :=
  Config.sigVerify (ownerKeyType alg) key (if alg = 1 then sha384 m else mlDsaPure [] m) 0 sig

/-- The directory record of sheet position `k`, from 0. -/
def dirRec (b : Bytes) (k : Nat) : Bytes := slice b (64 + 16 * k) 16

/-- Body length of sheet position `k`. -/
def dirBodyLen (b : Bytes) (k : Nat) : Nat := 184 * uLE (dirRec b k) 4 2

/-- Where the bodies end. -/
def bodiesEnd (b : Bytes) (n : Nat) : Nat := (List.range n).foldl (fun a k => a + dirBodyLen b k) 128

/-- The sheet at a directory position. -/
def imageSheet (b : Bytes) (k : Nat) : Sheet :=
  let r := dirRec b k
  { len := uLE r 4 2, lend := bitN (uLE r 6 2) 0, body := slice b (uLE r 0 4) (dirBodyLen b k) }

/-- The entry rules of R50 and R51 for one sheet. -/
def sheetOk (x : Sheet) : Bool :=
  let at_ := fun (lane p : Nat) => (u8 x.body (2 * (lane * x.len + p)), u8 x.body (2 * (lane * x.len + p) + 1))
  let rows := List.range 92
  let ps := List.range x.len
  x.body.length == 184 * x.len &&
  rows.all (fun l => ps.all (fun p =>
    let e := at_ l p
    classOk (laneKind l) e.1 && (e.2 ≤ 0x3F || e.2 == 0xFF) &&
      (!(e.1 == 0 || e.1 == 5 || e.1 == 6) || e.2 == 0xFF))) &&
  (lanesOf .block ++ lanesOf .digest).any (fun l => ps.any (fun p => (at_ l p).1 == 5)) &&
  (lanesOf .digest).any (fun l => ps.any (fun p => (at_ l p).1 == 0)) &&
  (lanesOf .pk).any (fun l => ps.any (fun p => (at_ l p).1 == 0))

/-- The structure check of R51 item 1. -/
def timetableLayout (b : Bytes) : Bool :=
  let n := u8 b 6
  let alg := uLE b 14 2
  let e := bodiesEnd b n
  let kl := ownerKeyLen alg
  slice b 0 4 == [0x4C, 0x54, 0x54, 0x31] && uLE b 4 2 == 1 && 1 ≤ n && n ≤ 4 && u8 b 7 ≤ n && uLE b 12 2 == 92 &&
  (alg == 1 || alg == 2) &&
  (List.range 4).all (fun k =>
    if k < n then
      let r := dirRec b k
      uLE r 0 4 == bodiesEnd b k && 1 ≤ uLE r 4 2 && uLE r 4 2 ≤ 4096 && uLE r 6 2 < 2 && allZero (slice r 8 8)
    else allZero (dirRec b k)) &&
  b.length == e + kl + 4 + ownerSigLen alg && uLE b (e + kl) 4 == ownerSigLen alg &&
  (List.range n).all (fun k => sheetOk (imageSheet b k))

/-- The check of a Timetable image in the order of R51: 0, or the status of the first fault. -/
def State.timetableCheck (s : State) (b : Bytes) : Nat :=
  if !timetableLayout b then stBadFormat
  else
    let alg := uLE b 14 2
    let e := bodiesEnd b (u8 b 6)
    let key := slice b e (ownerKeyLen alg)
    let signer := s.val (mkKey 0x6000 0x04)
    let signed := b.take (e + ownerKeyLen alg + 4)
    let sig := b.drop (e + ownerKeyLen alg + 4)
    if alg ≠ s.fuse.ownerAlg.toNat then stImageInvalid
    else if allZero signer ∨ slice b 16 48 ≠ signer ∨ sha384 key ≠ signer then stImageInvalid
    else if !ownerVerify alg key signed sig then stImageInvalid
    else match s.yard.timetable with
      | none => 0
      | some t =>
        if uLE b 8 4 < t.serial ∨ (uLE b 8 4 = t.serial ∧ b ≠ t.image) then stImageInvalid else 0

/-- The Timetable that an accepted image makes. -/
def timetableOf (b : Bytes) : Timetable :=
  { serial := uLE b 8 4, safe := u8 b 7, sheets := (List.range (u8 b 6)).map (imageSheet b), image := b }

/-- The safe sheet (R56). -/
def State.safeSheet (s : State) : Nat := match s.yard.timetable with
  | some t => t.safe
  | none => 0

end Sys2Proof.Machine
end

