-- ==== Sys2Proof/Machine/Shed.lean ====
section
/-! DEFINITION. The Shed and the tag table: 64 MiB of bytes and 2,097,152 tags, as canonical lists (R155, R156). An
unlisted Shed byte reads as 0: the Shed is cleared at every start (R548). -/

namespace Sys2Proof.Machine

open Sys2Proof

/-- Bytes in the Shed: 65,536 KiB (R155). -/
def shedSize : Nat := 67108864

/-- The byte at an address of a canonical memory. -/
def memRead (m : List Host.Cell) (a : Nat) : Byte :=
  match m.find? (fun c => c.1 == a) with
  | some c => c.2
  | none => 0

/-- The listed cells of a run of bytes from `a`. -/
def memCells (a : Nat) : Bytes → List Host.Cell
  | [] => []
  | b :: r => if b = 0 then memCells (a + 1) r else (a, b) :: memCells (a + 1) r

/-- Write a run of bytes from `a`. -/
def memWrite (m : List Host.Cell) (a : Nat) (b : Bytes) : List Host.Cell :=
  m.filter (fun c => c.1 < a) ++ memCells a b ++ m.filter (fun c => a + b.length ≤ c.1)

/-- Canonical form: addresses strictly rising, no listed byte equal to what an unlisted one reads as. -/
def Memory.wf : List Host.Cell → Bool
  | [] => true
  | [c] => c.2 != 0
  | c :: d :: r => c.2 != 0 && decide (c.1 < d.1) && Memory.wf (d :: r)

/-- The tag at an index, if one is stored. -/
def tagAt (t : List (Nat × Bytes)) (k : Nat) : Option Bytes := getKey t k

/-- Store a run of tags from index `k`. -/
def tagsWrite (t : List (Nat × Bytes)) (k : Nat) (v : List Bytes) : List (Nat × Bytes) :=
  t.filter (fun c => c.1 < k) ++ v.mapIdx (fun i x => (k + i, x)) ++ t.filter (fun c => k + v.length ≤ c.1)

/-- A Shed byte (R119): 0xFF after class Z zeroization. -/
def State.shedByte (s : State) (a : Nat) : Byte := if s.shedLost then 0xFF else memRead s.shed a

end Sys2Proof.Machine
end

