-- ==== Sys2Proof/Machine/Manifest.lean ====
section
/-! DEFINITION. Platform Manifests: layout, checks, mapping of host addresses, allocation (R146 to R158, R170). -/

namespace Sys2Proof.Machine

open Sys2Proof

/-- A region record of R148. Classes: 1 CACHED, 2 STREAMED, 3 DATA. -/
structure Region where
  host : Nat
  len : Nat
  off : Nat
  cls : Nat
  cs : Nat
  flags : Nat
  digest : Bytes
  deriving DecidableEq, Repr

/-- Number of regions of a manifest. -/
def manCount (m : Bytes) : Nat := uLE m 6 2

/-- Record `k` of a manifest. -/
def manRecord (m : Bytes) (k : Nat) : Bytes := slice m (64 + 80 * k) 80

/-- Region `k`. -/
def manRegion (m : Bytes) (k : Nat) : Region :=
  let r := manRecord m k
  { host := uLE r 0 4, len := uLE r 4 4, off := uLE r 8 4, cls := u8 r 12, cs := u8 r 13, flags := uLE r 14 2,
    digest := slice r 16 48 }

/-- The regions, in manifest order. -/
def manRegions (m : Bytes) : List Region := (List.range (manCount m)).map (manRegion m)

/-- Security version (R148). -/
def manVersion (m : Bytes) : Nat := uLE m 12 2

/-- Host-visible size. -/
def manHostSize (m : Bytes) : Nat := 2 ^ u8 m 16

/-- The length a manifest of these header fields has. -/
def manLength (m : Bytes) : Nat :=
  let alg := uLE m 14 2
  64 + 80 * manCount m + ownerKeyLen alg + ownerSigLen alg

/-- Total length of the regions of a class. -/
def regionTotal (l : List Region) (cls : Nat) : Nat := l.foldl (fun a r => if r.cls = cls then a + r.len else a) 0

/-- The structural rules of R148 and the port rule of R150; W flags and EXEC on a wrong class count as structural. -/
def manStruct (m : Bytes) (port : Nat) : Bool :=
  let c := manCount m
  let rs := manRegions m
  let alg := uLE m 14 2
  slice m 0 4 == [0x50, 0x4D, 0x46, 0x31] && uLE m 4 2 == 1 && 1 ≤ c && c ≤ 64 && (alg == 1 || alg == 2) &&
  16 ≤ u8 m 16 && u8 m 16 ≤ 31 && u8 m 17 ≤ 1 && u8 m 18 == port && u8 m 19 == 0 && allZero (slice m 24 40) &&
  m.length == manLength m && uLE m 20 4 == regionTotal rs 1 + regionTotal rs 2 &&
  (List.range c).all (fun k =>
    let r := manRegion m k
    r.host % 4096 == 0 && r.len % 4096 == 0 && 4096 ≤ r.len && r.off % 4096 == 0 && 1 ≤ r.cls && r.cls ≤ 3 &&
    (if r.cls == 3 then r.cs ≤ 1 && allZero r.digest else r.cs == 0) && r.flags < 8 &&
    (r.flags % 4 == 0 || r.cls == 3) && (r.flags < 4 || r.cls == 1) && allZero (slice (manRecord m k) 68 12) &&
    (k == 0 || (manRegion m (k - 1)).host < r.host))

/-- Two ranges meet. -/
def meets (a al b bl : Nat) : Bool := a < b + bl && b < a + al

/-- Every pair of a list keeps a relation. -/
def allPairs {α : Type} (f : α → α → Bool) : List α → Bool
  | [] => true
  | x :: r => r.all (f x) && allPairs f r

/-- Keys of the port's entries (R145, R183). -/
def pKey (n sub : Nat) : Nat := mkKey (0x2100 + 0x100 * n) sub
def iKey (n sub : Nat) : Nat := mkKey (0x2101 + 0x100 * n) sub
def lKey (n sub : Nat) : Nat := mkKey (0x2102 + 0x100 * n) sub

/-- The sub-index of a slot's manifest. -/
def slotSub : Slot → Nat
  | .a => 1
  | .b => 2
  | .r => 3

/-- The stored manifest of a slot. -/
def State.manifest (s : State) (n : Nat) (x : Slot) : Bytes := s.val (iKey n (slotSub x))

/-- Slot size in bytes. -/
def State.slotSize (s : State) (n : Nat) : Nat := s.valU (iKey n 0x06) * 1024

/-- Slot base: R is at address 0 of CS1 (R146). -/
def State.slotBase (s : State) (n : Nat) : Slot → Nat
  | .a => s.valU (iKey n 0x04)
  | .b => s.valU (iKey n 0x05)
  | .r => 0

/-- Chip select of a slot. -/
def slotCs : Slot → Nat
  | .r => 1
  | _ => 0

/-- The range rules of R150 but for the allocation sums. -/
def State.manRange (s : State) (n : Nat) (m : Bytes) : Bool :=
  let rs := manRegions m
  let img := rs.filter (fun r => r.cls != 3)
  let dat := rs.filter (fun r => r.cls == 3)
  let sz := s.slotSize n
  rs.all (fun r => r.host + r.len ≤ manHostSize m) &&
  allPairs (fun a b => !meets a.host a.len b.host b.len) rs &&
  img.all (fun r => r.off + r.len ≤ sz) && allPairs (fun a b => !meets a.off a.len b.off b.len) img &&
  dat.all (fun r => if r.cs == 0 then !meets r.off r.len (s.slotBase n .a) sz && !meets r.off r.len (s.slotBase n .b) sz
                    else !meets r.off r.len 0 sz) &&
  allPairs (fun a b => a.cs != b.cs || !meets a.off a.len b.off b.len) dat

/-- Stored manifests of a port, with one replaced. -/
def State.manifestsWith (s : State) (n : Nat) (x : Option (Slot × Bytes)) : List Bytes :=
  [Slot.a, .b, .r].map (fun y => match x with
    | some (z, m) => if z = y then m else s.manifest n y
    | none => s.manifest n y)

/-- Largest total of a class among manifests (R155). -/
def largest (l : List Bytes) (cls : Nat) : Nat := l.foldl (fun a m => max a (regionTotal (manRegions m) cls)) 0

/-- Shed requirement of a port in bytes (R155). -/
def State.shedReq (s : State) (n : Nat) : Nat := largest (s.manifestsWith n none) 1

/-- Tag requirement of a port (R155). -/
def State.tagReq (s : State) (n : Nat) : Nat := largest (s.manifestsWith n none) 2 / 256

/-- The sums of R155 with a manifest of port `n` replaced. -/
def State.allocFits (s : State) (n : Nat) (x : Slot) (m : Bytes) : Bool :=
  let req := fun (k cls : Nat) => largest (s.manifestsWith k (if k = n then some (x, m) else none)) cls
  let sum := fun (cls : Nat) => (List.range 4).foldl (fun a k => a + req k cls) 0
  sum 1 ≤ shedSize && (List.range 4).foldl (fun a k => a + req k 2 / 256) 0 ≤ 2097152

/-- The owner signature of a manifest (R149). -/
def State.manSigOk (s : State) (m : Bytes) : Bool :=
  let alg := uLE m 14 2
  let o := 64 + 80 * manCount m
  let key := slice m o (ownerKeyLen alg)
  let want := if u8 m 17 = 0 then s.fuse.owner0 else s.fuse.owner1
  alg == s.fuse.ownerAlg.toNat && sha384 key == want &&
    ownerVerify alg key (m.take (o + ownerKeyLen alg)) (m.drop (o + ownerKeyLen alg))

/-- The checks of R148 to R150 on a manifest for a slot: 0 or a status. -/
def State.manCheck (s : State) (n : Nat) (x : Slot) (m : Bytes) : Nat :=
  if !manStruct m n then stBadFormat
  else if !s.manRange n m ∨ !s.allocFits n x m then stRange
  else if !s.manSigOk m ∨ manVersion m < s.valU (iKey n 0x09) then stImageInvalid
  else 0

/-- The C0 slot that a manifest's signature check needs (R152). -/
def State.manSlotFree (s : State) (m : Bytes) : Bool :=
  if uLE m 14 2 = 2 then s.classOn .lattice 0 else s.classOn .pk 0

/-- The manifest of the source a port serves. -/
def State.served (s : State) (n : Nat) : Bytes := match (s.port n).serving with
  | some x => s.manifest n x
  | none => []

/-- The region of the served manifest that holds a host address. -/
def State.regionAt (s : State) (n a : Nat) : Option (Nat × Region) :=
  let rs := manRegions (s.served n)
  match rs.findIdx? (fun r => r.host ≤ a && a < r.host + r.len) with
  | some k => rs[k]?.map (fun r => (k, r))
  | none => none

/-- Where the bytes of a region lie in flash: chip select and address (R147). -/
def State.regionFlash (s : State) (n : Nat) (x : Option Slot) (r : Region) : Nat × Nat :=
  if r.cls = 3 then (r.cs, r.off)
  else match x with
    | some x => (slotCs x, s.slotBase n x + r.off)
    | none => (0, r.off)

/-- Flash address of a host address (R147). -/
def State.flashAt (s : State) (n a : Nat) : Option (Nat × Nat) :=
  match s.regionAt n a with
  | none => none
  | some (_, r) => let f := s.regionFlash n (s.port n).serving r; some (f.1, f.2 + (a - r.host))

/-- Total of a class before region `k`. -/
def totalBefore (l : List Region) (k cls : Nat) : Nat := regionTotal (l.take k) cls

/-- Shed address of a CACHED host address (R156). -/
def State.shedAt (s : State) (n a : Nat) : Option Nat :=
  match s.regionAt n a with
  | some (k, r) => if r.cls = 1 then some ((s.port n).shedBase + totalBefore (manRegions (s.served n)) k 1 + (a - r.host)) else none
  | none => none

/-- Tag index of a STREAMED host address (R156). -/
def State.tagIdx (s : State) (n a : Nat) : Option Nat :=
  match s.regionAt n a with
  | some (k, r) => if r.cls = 2 then
      some ((s.port n).tagBase + totalBefore (manRegions (s.served n)) k 2 / 256 + (a - r.host) / 256) else none
  | none => none

/-- The tag of a block (R158): port, chip select, region index, zero, flash address, block. -/
def blockTag (key : Bytes) (port cs region addr : Nat) (block : Bytes) : Bytes :=
  (hmac .sha256 key (bytesOf [port, cs, region, 0] ++ leN 4 addr ++ block)).take 16

/-- The port ledger record in force (R170). -/
def State.portLedger (s : State) (n : Nat) : Option PortLedger := (s.port n).ledger.inForce portForm

/-- A port ledger with nothing in it. -/
def portLedgerZero : PortLedger :=
  { seq := 0, active := none, trial := none, stA := .empty, stB := .empty, stR := .empty, count := 0, svA := 0,
    svB := 0, svR := 0, digA := zeros 12, digB := zeros 12, digR := zeros 12 }

/-- State of a slot. -/
def PortLedger.st (l : PortLedger) : Slot → SlotState
  | .a => l.stA
  | .b => l.stB
  | .r => l.stR

/-- Change the state of a slot. -/
def PortLedger.setSt (l : PortLedger) (x : Slot) (v : SlotState) : PortLedger :=
  match x with
  | .a => { l with stA := v }
  | .b => { l with stB := v }
  | .r => { l with stR := v }

/-- Record the version and digest of a slot's manifest. -/
def PortLedger.setMan (l : PortLedger) (x : Slot) (m : Bytes) : PortLedger :=
  let d := (sha384 m).take 12
  match x with
  | .a => { l with svA := manVersion m, digA := d }
  | .b => { l with svB := manVersion m, digB := d }
  | .r => { l with svR := manVersion m, digR := d }

/-- Security version of a slot. -/
def PortLedger.sv (l : PortLedger) : Slot → Nat
  | .a => l.svA
  | .b => l.svB
  | .r => l.svR

/-- Write a new port ledger record, changed from the one in force (R170). -/
def State.putPortLedger (s : State) (n : Nat) (f : PortLedger → PortLedger) : State :=
  let old := (s.portLedger n).getD portLedgerZero
  let r := { f old with seq := if (s.portLedger n).isNone then 0 else old.seq + 1 }
  (s.modPort n (fun p => { p with ledger := p.ledger.put portForm r })).ev 3 5 .portLedger [n, r.seq.toNat]

end Sys2Proof.Machine
end

