-- ==== Sys2Proof/Machine/Sfdp.lean ====
section
/-! DEFINITION. The SFDP table that a MANIFEST port presents (R135). The places of the fields are those of JESD216, PRESUMED
(log 98); what R135 says of a field is written out, and a field that it leaves open is a free value. -/

namespace Sys2Proof.Machine

open Sys2Proof

/-- A dword from fields: value and lowest bit. -/
def dwordOf (l : List (Nat × Nat)) : Nat := l.foldl (fun a f => a + f.1 * 2 ^ f.2) 0

/-- The bits `mask` of a dword that R135 leaves open. -/
def sfdpFill (table k : Nat) (facts : List Nat) (mask : Nat) : Nat := (Config.sfdpOpen table k facts).toNat &&& mask

/-- What the table depends on: host size as a power of 2, profile (0 SPI, 1 QPI, 2 OCTAL_DTR), the five dummy counts of R131. -/
structure SfdpFacts where
  logSize : Nat
  profile : Nat
  dummy : List Nat

/-- The facts as a list, for the open fields. -/
def SfdpFacts.list (f : SfdpFacts) : List Nat := f.logSize :: f.profile :: f.dummy

/-- Wait states, mode clocks and opcode of a fast read in 16 bits; the count D holds both kinds of clocks (R131). -/
def fastRead16 (d mode op : Nat) : Nat := dwordOf [(d - mode, 0), (mode, 5), (op, 8)]

/-- Dword `k` (1 to 20) of the Basic Flash Parameter Table: 4 KiB erase, 3 or 4 address bytes, density, fast reads of the
profile, erase types, page size; 2-2-2, suspend and deep power-down unsupported; no quad enable bit; 0xB7 and 0xE9; 0x66 with
0x99 (R126, R127, R135). -/
def SfdpFacts.basic (f : SfdpFacts) (k : Nat) : Nat :=
  let d := fun i => f.dummy.getD i 0
  match k with
  | 1 => dwordOf [(0xE5, 0), (0x20, 8), (1, 16), (1, 17), (1, 20), (1, 21), (1, 22), (511, 23)]
  | 2 => if f.logSize + 3 ≤ 31 then 2 ^ (f.logSize + 3) - 1 else 2 ^ 31 + (f.logSize + 3)
  | 3 => dwordOf [(fastRead16 (d 3) 2 0xEB, 0), (fastRead16 (d 2) 0 0x6B, 16)]
  | 4 => dwordOf [(fastRead16 (d 0) 0 0x3B, 0), (fastRead16 (d 1) 4 0xBB, 16)]
  | 5 => dwordOf [(7, 1), (b2n (f.profile == 1), 4), (2 ^ 27 - 1, 5)]
  | 6 => 0xFF00FFFF
  | 7 => if f.profile = 1 then dwordOf [(0xFFFF, 0), (fastRead16 (d 3) 2 0xEB, 16)] else 0xFF00FFFF
  | 8 => dwordOf [(12, 0), (0x20, 8), (16, 16), (0xD8, 24)]
  | 9 => 0xFF00FF00
  | 11 => dwordOf [(8, 4), (sfdpFill 0 11 f.list 0xFFFFFF0F, 0)]
  | 12 => 2 ^ 31
  | 13 => 0
  | 14 => dwordOf [(7, 0), (1, 31)]
  | 15 => dwordOf [(b2n (f.profile == 1), 1), (b2n (f.profile == 1), 5), (0xFF, 24)]
  | 16 => dwordOf [(1, 7), (1, 12), (1, 14), (1, 24), (1, 30)]
  | 17 => 0
  | 18 => dwordOf [(b2n (f.profile == 2), 29)]
  | 19 => 0
  | _ => sfdpFill 0 k f.list 0xFFFFFFFF

/-- A dword of the 4-byte Address Instruction Table: the dedicated forms of R127. -/
def sfdp4byte (k : Nat) : Nat := if k = 1 then dwordOf [(0x6FF, 0), (0x7F, 25)] else dwordOf [(0x21, 0), (0xDC, 8), (0xFFFF, 16)]

/-- The Command Sequences to Change to Octal DDR table: Write Enable, then Write Volatile Configuration with address 0 and data
0xE7 (R125). -/
def sfdpOctal (k : Nat) : Nat :=
  match k with
  | 1 => 0x01060000
  | 3 => 0x05810000
  | 4 => 0x00E70000
  | _ => 0

/-- The parameter tables: ID and dwords (R135). -/
def SfdpFacts.tables (f : SfdpFacts) : List (Nat × List Nat) :=
  let ds := fun (n : Nat) (g : Nat → Nat) => (List.range n).map (fun i => g (i + 1))
  [(0xFF00, ds 20 f.basic), (0xFF84, ds 2 sfdp4byte)] ++
    (if f.profile = 2 then [(0xFF05, ds 5 (fun k => sfdpFill 5 k f.list 0xFFFFFFFF)), (0xFF0A, ds 8 sfdpOctal)] else [])

/-- A parameter header: ID, revision, length in dwords, pointer. -/
def sfdpHeader (id len ptr : Nat) : Bytes :=
  bytesOf [id % 256, if id = 0xFF00 then 8 else 0, 1, len] ++ leN 3 ptr ++ bytesOf [id / 256]

/-- The parameter headers, the first table standing at `ptr`. -/
def sfdpHeaders : Nat → List (Nat × List Nat) → Bytes
  | _, [] => []
  | ptr, t :: r => sfdpHeader t.1 t.2.length ptr ++ sfdpHeaders (ptr + 4 * t.2.length) r

/-- The whole table: signature "SFDP", revision, headers, tables. -/
def SfdpFacts.table (f : SfdpFacts) : Bytes :=
  let ts := f.tables
  ascii "SFDP" ++ bytesOf [8, 1, ts.length - 1, 0xFF] ++ sfdpHeaders (8 + 8 * ts.length) ts ++
    ts.flatMap (fun t => t.2.flatMap (leN 4))

end Sys2Proof.Machine
end

