-- ==== Sys2Proof/Machine/Ports.lean ====
section
/-! DEFINITION. Port operations: phases, clocks and downstream reads, failure and overflow responses, debts, source choice
and start verification, recovery (R120 to R122, R131, R132, R142, R157 to R182). -/

namespace Sys2Proof.Machine

open Sys2Proof

/-- The attention group of a port (R514). -/
def portGroup (n : Nat) : Nat := 6 + n

/-- Change a port's phase (R121, R514). -/
def State.setPhase (s : State) (n : Nat) (ph : Phase) : State :=
  if (s.port n).phase = ph then s else (s.modPort n (fun p => { p with phase := ph })).latch (portGroup n) 0

/-- A port enters HOLD: back to 1-1-1 with 3-byte addresses, presented WEL clear (R121, R126). -/
def State.toHold (s : State) (n : Nat) : State :=
  (s.modPort n (fun p => { p with wire := .spi, addr4 := false, wel := false, resetArmed := false })).setPhase n .hold

/-! ### Downstream reads -/

/-- Bytes per 8 clocks of a downstream mode (1 to 6 in the ENUM order of `down_mode`). -/
def modeRate (m : Nat) : Nat :=
  if m = 6 then 16 else if m = 4 ∨ m = 5 then 4 else if m = 2 ∨ m = 3 then 2 else 1

/-- The read chosen from what the flash advertises under the configured mode (R142); `none` where the mode written is not
advertised. A flash without SFDP is read with 0x0B at 50 MHz. -/
def chooseRead (cfg maxKhz : Nat) (reads : List FlashRead) : Option DownRead :=
  let pick := fun m => (reads.find? (fun r => r.mode == m)).map (fun r =>
    ({ mode := m, clocks := r.clocks, khz := min maxKhz (if m = 6 then 200000 else 133000) } : DownRead))
  if cfg ≠ 0 then pick cfg
  else if reads.isEmpty then some { mode := 1, clocks := 40, khz := 50000 }
  else [6, 5, 4, 3, 2, 1].findSome? pick

/-- `stile.portN.up_max_khz`. -/
def State.upMax (s : State) (n : Nat) : Nat := s.valU (pKey n 0x08)

/-- The upstream limit of a wire mode in kHz (R124). -/
def State.upLimit (s : State) (n : Nat) (manifest : Bool) (read03 : Bool) (w : WMode) : Nat :=
  min (s.upMax n) (if w = .w8d then 200000 else if read03 then 50000 else if manifest then 133000 else 104000)

/-- D of R131 for a minimum, a limit and the chosen read: max(D_min, ceil(L f / 1,000,000)). -/
def dummyCount (dmin f : Nat) (d : DownRead) : Nat :=
  max dmin (ceilDiv ((20 * d.khz + d.clocks * 1000000) * f) (1000000 * d.khz))

/-- The five dummy counts, for 0x3B, 0xBB, 0x6B, 0xEB and 0xEE (R131). -/
def State.dummies (s : State) (n : Nat) (d : DownRead) : List Nat :=
  let f := s.upLimit n true false .w111
  let o := s.upLimit n true false .w8d
  [dummyCount 8 f d, dummyCount 4 f d, dummyCount 8 f d, dummyCount 6 f d, dummyCount 8 o d]

/-- `fast_read_max_khz`: floor(8,000,000 / L) (R131). -/
def fastMaxOf (d : DownRead) : Nat := (8000000 * d.khz) / (20 * d.khz + d.clocks * 1000000)

/-- The profile of a port (R123): 0 SPI, 1 QPI, 2 OCTAL_DTR. -/
def State.profile (s : State) (n : Nat) : Nat := s.valU (pKey n 0x07)

/-- The two conditions of R132: no accepted read needs D above 31, which only a flash-sourced region can ask for (R131), and the
downstream rate is not lower than the fastest accepted upstream rate. -/
def State.rateOk (s : State) (n : Nat) (d : DownRead) (src : Bool) : Bool :=
  let ds := if src then s.dummies n d else []
  let oct := s.profile n == 2
  let upRate := if oct then max (16 * s.upLimit n true false .w8d) (4 * s.upLimit n true false .w144)
                else 4 * s.upLimit n true false .w144
  (ds.take 4).all (· ≤ 31) && (!oct || ds.getD 4 0 ≤ 31) && upRate ≤ modeRate d.mode * d.khz

/-- Whether a manifest has bytes that come from the flash (R130). -/
def flashSourced (m : Bytes) : Bool := (manRegions m).any (fun r => r.cls != 1)

/-- R168 step 2: the conditions of R132 and of R165 for a manifest. -/
def State.downOk (s : State) (n : Nat) (m : Bytes) : Bool :=
  match (s.port n).down with
  | none => false
  | some d => s.rateOk n d (flashSourced m) &&
      2 * 8 * regionTotal (manRegions m) 2 ≤ 3 * modeRate d.mode * d.khz * 1000

/-! ### Responses -/

/-- `iface` actions shared by R163 and R164. -/
def State.recoverAsk (s : State) (n : Nat) : State := s.modPort n (fun p => { p with recoverDue := true })

/-- A port hold asked for by a response; one asked for while the port recovers outlives the hold of step 1 (R182). -/
def State.responseHold (s : State) (n : Nat) : State :=
  (if (s.port n).recovering then s.modPort n (fun p => { p with recHold := true }) else s).beginPortHold n

/-- The failure response of a port (R163). -/
def State.failResponse (s : State) (n : Nat) : State :=
  let v := s.valU (iKey n 0x07)
  let s := if v.testBit 0 then s.responseHold n else s
  let s := if v.testBit 1 then s.latch (portGroup n) 3 else s
  let s := if v.testBit 2 then s.recoverAsk n else s
  s.ev 3 5 .response [n, v]

/-- A sweep begins, which ends the overflow episode (R164); during a running sweep another is wanted after it (R165). -/
def State.beginSweep (s : State) (n : Nat) : State :=
  match (s.port n).sweep with
  | some _ => s.modPort n (fun p => { p with sweepAgain := true })
  | none => ((s.modPort n (fun p => { p with
      sweep := some s.now, sweepLate := false, overflow := false, sweepAt := 0, sweepRead := false })).latch
      (portGroup n) 5).ev 3 5 .sweepBegan [n]

/-- The overflow response of a port (R164). -/
def State.overflowResponse (s : State) (n : Nat) : State :=
  let v := s.valU (iKey n 0x08)
  let s := s.ev 3 5 .overflow [n]
  let s := if v.testBit 0 then s.responseHold n else s
  let s := if v.testBit 1 then s.latch (portGroup n) 4 else s
  let s := if v.testBit 2 then s.beginSweep n else s
  if v.testBit 3 then s.recoverAsk n else s

/-- Append a debt (R160, R164). -/
def State.addDebt (s : State) (n idx : Nat) : State :=
  let p := s.port n
  if p.debts.contains idx then s
  else if p.debts.length < 1024 then s.modPort n (fun p => { p with debts := p.debts ++ [idx] })
  else
    let s := s.modPort n (fun p => { p with debtOverflows := p.debtOverflows + 1, overflow := true })
    if p.overflow then s else s.overflowResponse n

/-! ### Start verification -/

/-- Items 1 and 2 of R167: the trial slot with its count, or its end. -/
def State.portTrialItem (s : State) (n : Nat) : State × Option Slot :=
  match s.portLedger n with
  | none => (s, none)
  | some l => match l.trial with
    | none => (s, none)
    | some t =>
      if l.count < 3 then (s.putPortLedger n (fun l => { l with count := l.count + 1 }), some t)
      else (s.putPortLedger n (fun l => { l.setSt t .bad with trial := none }), none)

/-- The source after `x` has failed (R167 items 3 to 5); with `none`, the first one that is no trial. `fb` is the ACTIVE
slot for which a RETIRED one stands in. -/
def State.nextSource (s : State) (n : Nat) (x : Option Slot) (trial : Bool) (fb : Option Slot) :
    Option (Slot × Option Slot) :=
  match s.portLedger n with
  | none => none
  | some l =>
    let r : Option (Slot × Option Slot) := if l.stR = .active then some (.r, none) else none
    let other := fun y => if y = Slot.a then Slot.b else Slot.a
    let first : Option (Slot × Option Slot) := match l.active with
      | some y => if l.st y = .active then some (y, none) else r
      | none => r
    match x with
    | none => first
    | some y =>
      if trial then first
      else if y = .r then none
      else if fb.isSome then r
      else if l.st (other y) = .retired then some (other y, some y) else r

/-- A start verdict FAIL with its reason (R122, R169). -/
def State.verdictFail (s : State) (n reason : Nat) : State :=
  ((s.modPort n (fun p => { p with verdict := .fail, reason := reason, cand := none, fallbackOf := none,
                                   serving := none, trialServed := false, trialEnd := none })).latch
    (portGroup n) 2).ev 3 5 .portVerdict [n, 2, reason]

/-! ### The digest lanes' work for a port (R23, R168) -/

/-- Bytes that the measurement of a port reads: the first 1 MiB, or the whole flash if it is smaller (R23). -/
def Port.measureLen (p : Port) : Nat :=
  if p.flashSize = 0 then 0x100000 else min 0x100000 (p.flashSize * 1024)

/-- Digest steps of SHA-384 over messages of these lengths: six blocks a step (R256). -/
def sha384Frames (lens : List Nat) : Nat := lens.foldl (fun a m => a + max 1 (ceilDiv (ceilDiv (m + 17) 128) 6)) 0

/-- A device job hashes what port `n` reads. -/
def DevWhat.digestOf (w : DevWhat) (n : Nat) : Bool := match w with
  | .digest m _ => m == n
  | _ => false

/-- The digest job of a port leaves, and its lane is free. -/
def State.dropDigest (s : State) (n : Nat) : State := s.dropWhat (·.digestOf n)

/-- A digest job for what port `n` is to read takes the place of the one it has. -/
def State.startDigest (s : State) (n : Nat) (lens : List Nat) : State := (s.dropDigest n).addDev (.digest n (sha384Frames lens))

/-- The steps that the port's digest job has ended. -/
def State.digestTaken (s : State) (n : Nat) : Nat :=
  match s.devJobs.find? (fun d => d.what.digestOf n) with
  | some d => if d.lane.isSome then d.taken - 1 else d.taken
  | none => 0

/-- The indexes of the regions of a manifest that start verification reads: all but the DATA regions (R168). -/
def imageIndexes (m : Bytes) : List Nat := (List.range (manCount m)).filter (fun k => (manRegion m k).cls != 3)

/-- The regions of a manifest that start verification reads (R168). -/
def imageRegions (m : Bytes) : List Region := (imageIndexes m).map (manRegion m)

/-- The reason with which a source fails on what it read, or 0 (R168, R169). DEDUCED: an absent manifest is 2 (log 89). -/
def State.sourceReason (s : State) (n : Nat) (x : Slot) (data : Option (List Bytes)) : Nat :=
  let m := s.manifest n x
  let ok := (s.port n).manOk.getD (slotSub x - 1) false
  let img := imageRegions m
  if m.isEmpty then 2
  else if !ok ∨ manVersion m < s.valU (iKey n 0x09) then 7
  else if !s.downOk n m then 5
  else if !s.tack.drbgOk then 6
  else match data with
    | none => 4
    | some l => if l.length = img.length ∧
        (List.zipWith (fun (r : Region) (b : Bytes) => b.length == r.len && sha384 b == r.digest) img l).all id
      then 0 else 3

/-- The source under check: its regions are hashed as they are read, unless its first checks fail it (R168). -/
def State.tryCand (s : State) (n : Nat) : State :=
  match (s.port n).cand with
  | none => s.dropDigest n
  | some x => if s.sourceReason n x none = 4 then s.startDigest n ((imageRegions (s.manifest n x)).map (·.len)) else s.dropDigest n

/-- The verification of a port fails: HOLD, and the failure response runs (R121, R167 item 6). -/
def State.verifyFail (s : State) (n reason : Nat) : State := (((s.verdictFail n reason).dropDigest n).toHold n).failResponse n

/-- Spaces of a port in the Shed and the tag table at entry to VERIFY (R156). -/
def State.placePort (s : State) (n : Nat) : State :=
  let sb := (List.range n).foldl (fun a k => a + s.shedReq k) 0
  let tb := (List.range n).foldl (fun a k => a + s.tagReq k) 0
  s.modPort n (fun p => { p with shedBase := sb, tagBase := tb })

/-- A port enters VERIFY (R121); in MANIFEST mode it chooses its source (R167). -/
def State.enterVerify (s : State) (n : Nat) : State :=
  let s := (s.setPhase n .verify).modPort n (fun p => { p with
    wel := false, debts := [], tagPend := [], overflow := false, sweep := none, sweepAgain := false, sweepAt := 0,
    sweepRead := false, measBits := 0, measLead := 40,
    cand := none, fallbackOf := none, trialServed := false, trialEnd := none,
    serving := if p.mode = .manifest then none else p.serving })
  if (s.port n).mode ≠ .manifest then s.startDigest n [(s.port n).measureLen]
  else
    let s := s.placePort n
    let t := s.portTrialItem n
    match t.2 with
    | some x => (t.1.modPort n (fun p => { p with cand := some x, trialServed := true })).tryCand n
    | none => match t.1.nextSource n none false none with
      | none => t.1.verifyFail n 2
      | some (x, fb) => (t.1.modPort n (fun p => { p with cand := some x, fallbackOf := fb })).tryCand n

/-- A fresh tag key (R157): drawn into a PLATFORM-world slot, loaded into TGn, the previous one erased. -/
def State.freshTagKey (s : State) (n : Nat) : State :=
  let d := s.draw 32
  let h := d.2.hold (serviceKey 2 0x06 0x0400 d.1)
  (h.2.unhold 2 (s.port n).tagKey).modPort n (fun p => { p with
    tagSecret := d.1, tagKey := h.1, debts := [], tagPend := [], overflow := false })

/-- The 256-byte blocks of a STREAMED region with their tags (R156, R158). -/
def regionTags (key : Bytes) (n cs region base : Nat) (data : Bytes) : List Bytes :=
  (chunks 256 data).mapIdx (fun i b => blockTag key n cs region (base + 256 * i) b)

/-- Fill the Shed and the tag table from the regions read (R168 step 4). -/
def State.fillPort (s : State) (n : Nat) (x : Slot) (data : List Bytes) : State :=
  let m := s.manifest n x
  let rs := manRegions m
  let key := (s.port n).tagSecret
  ((imageIndexes m).zip data).foldl (fun s kd =>
    let r := manRegion m kd.1
    if r.cls = 1 then s.modShed (fun l => memWrite l ((s.port n).shedBase + totalBefore rs kd.1 1) kd.2)
    else
      let f := s.regionFlash n (some x) r
      s.modTagTable (fun t => tagsWrite t ((s.port n).tagBase + totalBefore rs kd.1 2 / 256)
        (regionTags key n f.1 kd.1 f.2 kd.2))) s

/-- The Shed space of a source lies in the Shed (R155). -/
def State.shedFits (s : State) (n : Nat) (x : Slot) : Bool :=
  (s.port n).shedBase + regionTotal (manRegions (s.manifest n x)) 1 ≤ shedSize

/-- The SFDP table that the Stile composes from the served manifest (R135, R169). -/
def State.composeSfdp (s : State) (n : Nat) (m : Bytes) (dummy : List Nat) : Bytes :=
  SfdpFacts.table { logSize := u8 m 16, profile := s.profile n, dummy := dummy }

/-- The dummy counts, `fast_read_max_khz` and the SFDP table of a port that serves a source (R131, R135): they follow the limits
of R124 in force. -/
def State.advertise (s : State) (n : Nat) : State :=
  match (s.port n).serving with
  | none => s
  | some x =>
    let m := s.manifest n x
    let own := flashSourced m
    let f := s.upLimit n true false .w111
    let r := match (s.port n).down with
      | some d => if own then (s.dummies n d, fastMaxOf d) else ([8, 4, 8, 6, 8], f)
      | none => ([8, 4, 8, 6, 8], f)
    let sf := s.composeSfdp n m r.1
    s.modPort n (fun p => { p with dummy := r.1, fastMax := r.2, sfdp := sf })

/-- A source passes (R167, R169): measurements, SFDP, dummy counts, SERVE; a fallback is made ACTIVE in one record. -/
def State.sourcePass (s : State) (n : Nat) (x : Slot) : State :=
  let fb := (s.port n).fallbackOf
  let s := match fb with
    | some y => s.putPortLedger n (fun l => { (l.setSt x .active).setSt y .bad with active := some x })
    | none => s
  let window := s.valU (mkKey 0x2800 0x01) * secFrames
  let s := s.modPort n (fun p => { p with
    verdict := .pass, reason := 0, serving := some x, cand := none, fallbackOf := none,
    trialEnd := if p.trialServed then some (s.now + window) else none })
  let s := (s.advertise n).dropDigest n
  let s := if (s.port n).trialServed then s.latch 5 9 else s
  ((s.latch (portGroup n) 1).setPhase n .serve).ev 3 5 .portVerdict [n, 1, 0]

/-- A source fails: the next one, or the verdict (R167). -/
def State.sourceFail (s : State) (n : Nat) (x : Slot) (reason : Nat) : State :=
  let p := s.port n
  let s := if p.trialServed then s.putPortLedger n (fun l => { l.setSt x .bad with trial := none }) else s
  let nxt := s.nextSource n (some x) p.trialServed p.fallbackOf
  match nxt with
  | none => s.verifyFail n reason
  | some (y, fb) => (s.modPort n (fun p => { p with cand := some y, fallbackOf := fb, trialServed := false })).tryCand n

/-! ### Attach probe and entry to HOLDING -/

/-- Three ID bytes that are a flash's (R23). -/
def idPresent (b : Bytes) : Bool := b.length == 3 && !b.all (· == 0) && !b.all (· == 0xFF)

/-- The commands of the attach probe (R122, R142): the ID on both chip selects, the SFDP of a flash on CS0, and the flash's own
sequence where its reads will be in 8D-8D-8D. -/
def State.probeSends (s : State) (n : Nat) (pr : Probe) (d : Option DownRead) : State :=
  let s := (s.emit (.down n 0 0x9F 0 [])).emit (.down n 1 0x9F 0 [])
  if idPresent pr.id0 then
    let s := s.emit (.down n 0 0x5A 0 [])
    match d with
    | some r => if r.mode = 6 then s.emit (.downSeq n pr.octal) else s
    | none => s
  else s

/-- The reads that a flash on CS0 offers: 8D-8D-8D only with the flash's own command sequence (R142). -/
def Probe.offers (pr : Probe) : List FlashRead := pr.reads.filter (fun r => r.mode != 6 || !pr.octal.isEmpty)

/-- The attach probe of a port at entry to HOLDING (R122, R142), then VERIFY where R121 gives it; an OFF port is not probed
(R117). Where the flash found cannot meet R132 whatever its manifest, or lacks the mode written (R142), the verification fails at
once. -/
def State.probePort (s : State) (n : Nat) (pr : Probe) : State :=
  let powered := s.pwr.vioSensed.getD n 0 != 0
  let md := match s.valU (pKey n 0x01) with | 0 => PortMode.off | 1 => .measure | _ => .manifest
  let a0 := powered && idPresent pr.id0
  let a1 := powered && idPresent pr.id1
  let s := s.modPort n (fun p => { p with mode := md, allow := (chunks 8 (s.val (pKey n 0x0C))).filterMap (fun r =>
      if u8 r 1 = 0 then none else some { opcode := u8 r 0, cls := u8 r 1, phases := u8 r 2, wires := u8 r 3 }) })
  if (s.port n).phase ≠ .hold then s
  else if md = .off ∨ !powered then
    let s := s.modPort n (fun p => { p with
      attached := false, recAttached := false, flashId := zeros 3, flashSize := 0, reads := [], down := none })
    if md = .manifest then s.verdictFail n 1 else s
  else
    let d := chooseRead (s.valU (pKey n 0x09)) (s.valU (pKey n 0x0A)) pr.offers
    let s := s.probeSends n pr d
    let s := s.modPort n (fun p => { p with
      attached := a0, recAttached := a1, flashId := fit 3 pr.id0,
      flashSize := if a0 then pr.sizeKib else 0, reads := if a0 then pr.offers else [], down := if a0 then d else none })
    if md = .measure then (if a0 then s.enterVerify n else s)
    else if !a0 then s.verdictFail n 1
    else if (match d with | some x => s.rateOk n x false | none => false) then s.enterVerify n
    else (s.setPhase n .verify).verifyFail n 5

/-- A probe that finds nothing. -/
def noProbe : Probe := { id0 := zeros 3, id1 := zeros 3, sizeKib := 0, reads := [], octal := [] }

/-- The ports at an entry to HOLDING (R121, R122). -/
def State.probePorts (s : State) (l : List Probe) : State :=
  (List.range 4).foldl (fun s n => s.probePort n (l.getD n noProbe)) s

/-! ### Recovery -/

/-- A C0 programme checks the manifest of an update (R152, R179). -/
def DevWhat.forUpdate (w : DevWhat) : Bool := match w with
  | .pair _ _ _ .update => true
  | _ => false

/-- Nothing is in transfer any more. -/
def Pldm.rest (p : Pldm) (st : FdState) : Pldm :=
  { p with st := st, target := none, data := [], received := 0, size := 0, component := 0, manifestDone := false, portion := none,
           readback := none, checking := false }

/-- The transfer of a port's component ends (R180): the target returns from WRITING to EMPTY, the port to SERVE. -/
def State.endTransfer (s : State) : State :=
  let c := s.pldm.component
  let busy := s.pldm.st == .download || s.pldm.st == .verify || s.pldm.st == .apply
  let n := c % 16
  let s := match s.pldm.target with
    | some x =>
      if c = 0x7100 then
        (match s.ledger with
         | some l => if l.st x = SlotState.writing then s.putLedger (fun l => l.setSt x .empty) else s
         | none => s)
      else
        (match s.portLedger n with
         | some l => if l.st x = SlotState.writing then s.putPortLedger n (fun l => l.setSt x .empty) else s
         | none => s)
    | none => s
  let s := if c ≠ 0x7100 ∧ (s.port n).phase = .update then (s.setPhase n .serve).latch (portGroup n) 15 else s
  let s := (s.dropWhat (·.forUpdate)).modPldm (fun p => p.rest (if busy then .ready else p.st))
  if busy then (s.latch 5 8).ev 3 5 .updateCancelled [c] else s

/-- The port that a running transfer updates. -/
def State.updating (s : State) (n : Nat) : Bool :=
  s.pldm.target.isSome && s.pldm.component != 0x7100 && s.pldm.component % 16 == n

/-- The recovery sequence of a port starts (R181 steps 1 and 2, R182). -/
def State.startRecovery (s : State) (n : Nat) : State :=
  let s := s.modPort n (fun p => { p with recoverDue := false })
  if s.core.op = .alarmHalt ∨ (s.core.op ≠ .holding ∧ s.core.op ≠ .running ∧ s.core.op ≠ .recovery) then
    s.ev 3 5 .recoveryRefused [n]
  else if (s.port n).recovering then s.ev 3 5 .recoveryIgnored [n]
  else
    let s := (s.setOp .recovery).beginPortHold n
    let s := (s.modPort n (fun p => { p with recovering := true, recHold := false })).latch (portGroup n) 11
    let s := s.ev 3 5 .recoveryBegan [n]
    let s := if s.updating n then s.endTransfer else s
    if (s.port n).phase = .serve ∨ (s.port n).phase = .update then s.enterVerify n else s

/-- Recovery starts that fall due at this boundary; `alarm` tells that an alarm wins (R22, R182). -/
def State.takeRecoveries (s : State) (alarm : Bool) : State :=
  (List.range 4).foldl (fun s n =>
    if (s.port n).recoverDue then
      if alarm then (s.modPort n (fun p => { p with recoverDue := false })).ev 3 5 .recoveryRefused [n]
      else s.startRecovery n
    else s) s

end Sys2Proof.Machine
end

