-- ==== Sys2Proof/Machine/Stile.lean ====
section
/-! DEFINITION. The commands on the wire: the transparent and the proxy path, the allow-list, refused and unknown commands
(R24, R117 to R141). -/

namespace Sys2Proof.Machine

open Sys2Proof

/-- Bit of the wire mask that a wire mode falls under (R136). -/
def wireBit : WMode → Nat
  | .w444 => 1
  | .w8d => 2
  | _ => 0

/-- The wire state that a wire mode needs (R123). -/
def wireState : WMode → Wire
  | .w444 => .qpi
  | .w8d => .octal
  | _ => .spi

/-- Bit of the phase mask (R136). -/
def phaseBit : Phase → Nat
  | .hold => 0
  | .verify => 1
  | .serve => 2
  | .update => 3

/-- All wire modes of an "All" row of R127. -/
def allModes : List WMode := [.w111, .w112, .w122, .w114, .w144, .w444, .w8d]

/-- A row of R127: first opcode, class, wire modes, the dedicated 4-byte form, and for a command that is another opcode of its row
that opcode; 0 where there is none. -/
structure OpRow where
  op : Nat
  cls : Nat
  modes : List WMode
  op4 : Nat := 0
  other : Nat := 0

/-- The opcode that the host sent (R127, R138, R140). -/
def OpRow.sent (r : OpRow) (c : SpiCmd) : Nat := if r.other ≠ 0 then r.other else if c.form4 then r.op4 else r.op

/-- The address takes 4 bytes: the dedicated form, 8D-8D-8D, or the first form in 4-byte address mode. Read SFDP and Write
Volatile Configuration keep 3 bytes outside 8D-8D-8D (R125, R127). -/
def State.addrLong (s : State) (c : SpiCmd) (r : OpRow) : Bool :=
  c.form4 || c.wire == .w8d || ((s.port c.port).addr4 && r.op != 0x5A && r.op != 0x81)

/-- The command with the address that its 3 or 4 address bytes spell (R127). -/
def State.sized (s : State) (c : SpiCmd) (r : OpRow) : SpiCmd :=
  { c with addr := c.addr % (if s.addrLong c r then 2 ^ 32 else 2 ^ 24) }

/-- The outcome of the checks before a command's own rule. -/
inductive StileAct where
  | off | pass | overclocked | unknown | refused
  deriving DecidableEq, Repr

/-- The command is a data-returning one: classes READ, STATUS and ID (R124). -/
def returnsData (cls : Nat) : Bool := cls == 1 || cls == 2 || cls == 3

/-- The states in which ports verify and the Yard's C0 work runs: HOLDING, RUNNING, RECOVERY (R20, R489). -/
def Op.working : Op → Bool
  | .holding | .running | .recovery => true
  | _ => false

/-- The measurement read of a port runs: not in a supply hold, not while its flash is busy, and not once it has everything
(R25). -/
def State.measuring (s : State) (n : Nat) : Bool :=
  let p := s.port n
  s.core.op.working && !s.sup.hold && p.mode == .measure && p.phase == .verify && !p.passedBusy &&
    decide (p.measBits < 8 * p.measureLen)

/-- An upstream transaction ends the measurement read at a byte boundary; it resumes at the next unread address with a command
of its own: opcode, address and dummy byte (R25, log 120). -/
def State.interrupt (s : State) (n : Nat) : State :=
  if s.measuring n then s.modPort n (fun p => { p with measBits := p.measBits / 8 * 8, measLead := 40 }) else s

/-- The limit on the transparent path (R124); a command that interrupts the measurement read is held to 25 MHz. -/
def State.clearLimit (s : State) (c : SpiCmd) (read03 : Bool) : Nat :=
  let l := s.upLimit c.port false read03 c.wire
  if s.measuring c.port then min l 25000 else l

/-- The checks of the proxy path in their order (R124, R125, R127, R128, R137). -/
def State.proxyCheck (s : State) (c : SpiCmd) (r : OpRow) : StileAct :=
  let p := s.port c.port
  if s.upLimit c.port true (r.op == 0x03) c.wire < c.khz then
    if returnsData r.cls then .overclocked else .unknown
  else if (c.form4 && r.op4 == 0) ∨ !r.modes.contains c.wire ∨ wireState c.wire ≠ p.wire ∨ (c.wire = .w8d ∧ c.extOk = false) then .unknown
  else if p.allow.any (fun a => a.opcode == r.op && a.cls == r.cls && a.phases.testBit (phaseBit p.phase) &&
      a.wires.testBit (wireBit c.wire)) then .pass
  else if r.cls = 5 ∨ r.cls = 6 ∨ r.cls = 7 ∨ r.cls = 9 then .refused
  else .unknown

/-- A port serves nothing: mode OFF, or a state without the Stile (R17, R117). -/
def State.stileOff (s : State) (n : Nat) : Bool :=
  (s.port n).mode == .off || !s.core.op.powered

/-- Presented WIP (R139, R141). -/
def State.wip (s : State) (n : Nat) : Bool :=
  let p := s.port n
  p.passedBusy || (match p.busyUntil with | some f => decide (s.now < f) | none => false)

/-- Every command clears the armed reset but the one that arms it (R126). -/
def State.disarm (s : State) (n : Nat) : State := s.modPort n (fun p => { p with resetArmed := false })

/-- An unknown command: nothing is driven, the count grows (R128, R514). -/
def State.unknownCmd (s : State) (n : Nat) : State :=
  ((s.modPort n (fun p => { p with unknown := p.unknown + 1 })).latch (portGroup n) 10).emit (.undriven n)

/-- Late bytes: counted and signalled (R124, R130). -/
def State.lateBytes (s : State) (n k : Nat) : State :=
  if k = 0 then s else (s.modPort n (fun p => { p with lateBytes := p.lateBytes + k })).latch (portGroup n) 9

/-- Every data byte of an overclocked command is a late byte (R124). -/
def State.allLate (s : State) (c : SpiCmd) : State :=
  (s.lateBytes c.port c.len).emit (.up c.port (List.replicate c.len 0xFF))

/-- The transparent path cancels a command downstream: CS0 rises off a byte boundary, then Write Disable (R118). -/
def State.cancelDown (s : State) (n op : Nat) (at_ : CutAt) : State := (s.emit (.cut n op at_)).emit (.down n 0 0x04 0 [])

/-- Where the Stile cuts a command of a row (R118): program, erase, security register and configuration commands carry an
address, Write Status Register only data, Chip Erase and the other rows neither (log 122). -/
def OpRow.cutAt (r : OpRow) : CutAt :=
  if r.op = 0xC7 then .clocks
  else if r.cls = 5 ∨ r.cls = 6 ∨ r.op = 0x81 ∨ r.op = 0x42 ∨ r.op = 0x44 then .address
  else if r.cls = 7 then .data else .clocks

/-- The log entry of a refused command: the first of each second, with the count since the previous one (R140). While the
Logbook writes nothing the count goes on. -/
def State.refusedEntry (s : State) (n op addr : Nat) : State :=
  let p := s.port n
  if s.logState = 2 then s.modPort n (fun p => { p with refSealed := p.refSealed + 1 })
  else if (match p.refEntryAt with | some f => decide (s.now < f + secFrames) | none => false) then
    s.modPort n (fun p => { p with refSince := p.refSince + 1 })
  else (s.ev 3 5 .refusedCommand [n, op, addr, p.refSince]).modPort n (fun p =>
    { p with refEntryAt := some s.now, refSince := 0 })

/-- A refused command (R139, R140): presented busy for its time, presented WEL ends, counted, signalled. -/
def State.refuse (s : State) (c : SpiCmd) (op : Nat) (at_ : CutAt) (busy : Nat) : State :=
  let n := c.port
  let s := s.modPort n (fun p => { p with refused := p.refused + 1, busyUntil := some (s.now + busy), wel := false })
  let s := if (s.port n).mode = .measure then s.cancelDown n op at_ else s
  (s.latch (portGroup n) 8).refusedEntry n op c.addr

/-- A port returns to its state after reset (R126): a refused command's busy period ends, a passed write's does not. -/
def State.portResetWire (s : State) (n : Nat) : State :=
  s.modPort n (fun p => { p with wire := .spi, addr4 := false, wel := false, busyUntil := none, resetArmed := false })

/-- Pass a command through the transparent path with what the flash answers (R117, R138). -/
def State.passThrough (s : State) (c : SpiCmd) (op : Nat) (ret : Bool) : State :=
  let s := s.emit (.down c.port 0 op c.addr (if ret then [] else c.data))
  if ret then s.emit (.up c.port (fit c.len c.data)) else s

/-- The transparent path of a data-returning command: overclocked bytes are late (R124). -/
def State.clearRead (s : State) (c : SpiCmd) (op : Nat) (read03 : Bool) : State :=
  if s.clearLimit c read03 < c.khz then s.allLate c else s.passThrough c op true

/-! ### Reads -/

/-- Half-clocks per byte of a wire mode. -/
def halfClocks : WMode → Nat
  | .w111 => 16
  | .w112 => 8
  | .w122 => 8
  | .w114 => 4
  | .w144 => 4
  | .w444 => 4
  | .w8d => 1

/-- Byte `k` after a downstream start, with `dummy` upstream clocks before it, is to be driven before it has come: the lead L of
R131 and `k` downstream byte times after the start (R130). -/
def lateAt (d : Option DownRead) (w : WMode) (khz dummy k : Nat) : Bool :=
  match d with
  | none => true
  | some r =>
    let m := modeRate r.mode
    (2 * dummy + k * halfClocks w) * 500000 * r.khz * m < (20 * r.khz * m + r.clocks * 1000000 * m + 8000000 * k) * khz

/-- The opcode of the downstream read of a mode (R142, log 123). -/
def downOp (d : Option DownRead) : Nat :=
  match (d.map (·.mode)).getD 1 with
  | 2 => 0x3B | 3 => 0xBB | 4 => 0x6B | 5 => 0xEB | 6 => 0xEE | _ => 0x0B

/-- How one byte of a proxy read is answered. -/
inductive ByteSrc where
  | hole
  | shed (a : Nat)
  | flash (cs a : Nat)
  deriving DecidableEq, Repr

/-- Source of the byte at a host address (R119). -/
def State.byteSrc (s : State) (n a : Nat) : ByteSrc :=
  match s.shedAt n a with
  | some x => .shed x
  | none => match s.flashAt n a with
    | some f => .flash f.1 f.2
    | none => .hole

/-- The mapped flash addresses run on from byte to byte, so that no crossing lies between (R133). -/
def contiguous (x y : Option (Nat × Nat)) : Bool :=
  match x, y with
  | some a, some b => a.1 == b.1 && b.2 == a.2 + 1
  | _, _ => false

/-- For every byte of a read, the index of the byte at which its downstream read began. -/
def State.readStarts (s : State) (n addr len : Nat) : List Nat :=
  ((List.range len).foldl (fun (acc : List Nat × Nat × Option (Nat × Nat)) i =>
    let f := s.flashAt n (addr + i)
    let st := if i = 0 ∨ contiguous acc.2.2 f then acc.2.1 else i
    (acc.1 ++ [st], st, f)) ([], 0, none)).1

/-- A Shed address of a read that the Shed does not have (R155). -/
def State.shedHole (s : State) (n addr len : Nat) : Bool :=
  (List.range len).any (fun i => match s.shedAt n (addr + i) with | some a => decide (shedSize ≤ a) | none => false)

/-- The byte answered at index `i` and whether it is late (R119, R130, R133, R143, R154). -/
def State.readByte (s : State) (c : SpiCmd) (dummy : Nat) (starts : List Nat) (i : Nat) : Byte × Bool :=
  let p := s.port c.port
  match s.byteSrc c.port (c.addr + i) with
  | .hole => (0xFF, false)
  | .shed a => (s.shedByte a, false)
  | .flash cs _ =>
    let st := starts.getD i 0
    let lost := s.shedLost && (match s.regionAt c.port (c.addr + i) with | some (_, r) => r.cls == 2 | none => false)
    let late := dummy = 0 || (p.passedBusy && cs == p.busyCs) ||
      lateAt p.down c.wire c.khz (if st = 0 then dummy else 0) (i - st)
    if lost then (0xFF, false) else if late then (0xFF, true) else (c.data.getD i 0xFF, false)

/-- Bytes of STREAMED blocks that a read touched: host address of each block start, in order. -/
def State.touchedBlocks (s : State) (n addr len : Nat) : List Nat :=
  ((List.range len).filterMap (fun i => match s.regionAt n (addr + i) with
    | some (_, r) => if r.cls = 2 then some (r.host + (addr + i - r.host) / 256 * 256) else none
    | none => none)).eraseDups

/-- A block read whole by one downstream read (R159). -/
def wholeBlock (addr len blk : Nat) (starts : List Nat) : Bool :=
  addr ≤ blk && blk + 256 ≤ addr + len && starts.getD (blk - addr) 0 == starts.getD (blk + 255 - addr) 0

/-- The flash of a chip select is busy with a passed program or erase (R143). -/
def Port.csBusy (p : Port) (cs : Nat) : Bool := p.passedBusy && p.busyCs == cs

/-- What a read leaves for the tag lane: blocks read whole from a flash that is not busy wait for their verdict, the others
become debts (R143, R159, R160). -/
def State.readBlocks (s : State) (c : SpiCmd) (starts : List Nat) : State :=
  let n := c.port
  if s.shedLost then s
  else (s.touchedBlocks n c.addr c.len).foldl (fun s b =>
    if (wholeBlock c.addr c.len b starts && !(s.port n).csBusy ((s.flashAt n b).getD (0, 0)).1) = true then
      s.modPort n (fun p => { p with tagPend := p.tagPend ++ [(b, slice c.data (b - c.addr) 256)] })
    else match s.tagIdx n b with
      | some k => s.addDebt n k
      | none => s) s

/-- The downstream reads that serve an upstream read: one at the mapped address of its first byte, and one at every crossing,
with its own chip select (R130, R133, R142). -/
def State.startReads (s : State) (c : SpiCmd) (starts : List Nat) : State :=
  let op := downOp (s.port c.port).down
  if flashSourced (s.served c.port) then
    starts.eraseDups.foldl (fun s i => match s.flashAt c.port (c.addr + i) with
      | some f => s.emit (.down c.port f.1 op f.2 [])
      | none => s) s
  else s

/-- A read on the proxy path in a phase that serves (R119, R120, R130). -/
def State.proxyRead (s : State) (c : SpiCmd) (dummy : Nat) : State :=
  let n := c.port
  let ph := (s.port n).phase
  if ph = .hold ∨ ph = .verify then s.emit (.up n (List.replicate c.len 0xFF))
  else
    let starts := s.readStarts n c.addr c.len
    let l := (List.range c.len).map (s.readByte c dummy starts)
    let s := s.startReads c starts
    let s := s.lateBytes n (l.filter (·.2)).length
    (s.emit (.up n (l.map (·.1)))).readBlocks c starts

/-- A READ-class command (R119, R124, R130). A Shed address that does not exist stops the machine (R155). -/
def State.readCmd (s : State) (c : SpiCmd) (r : OpRow) (dummy : State → Nat) : Res :=
  let s := ((s.fresh).disarm c.port).interrupt c.port
  let c := s.sized c r
  if s.stileOff c.port then .next (s.emit (.undriven c.port))
  else if (s.port c.port).mode = .measure then .next (s.clearRead c (r.sent c) (r.op == 0x03))
  else match s.proxyCheck c r with
    | .overclocked => .next (s.allLate c)
    | .pass =>
      if s.shedHole c.port c.addr c.len then .fault .noSuchShedAddress else .next (s.proxyRead c (dummy s))
    | _ => .next (s.unknownCmd c.port)

/-- A dummy count the port advertises (R131). -/
def adv (n k : Nat) (s : State) : Nat := (s.port n).dummy.getD k 8

/-- STILE_READ: Read 0x03, 0x13 (R127, R130). -/
def execStileRead (c : SpiCmd) (s : State) : Res :=
  s.readCmd c { op := 0x03, cls := 1, modes := [.w111], op4 := 0x13 } (fun _ => 0)

/-- FAST_READ: 0x0B, 0x0C with 8 dummy clocks (R127, R131). -/
def execFastRead (c : SpiCmd) (s : State) : Res :=
  s.readCmd c { op := 0x0B, cls := 1, modes := [.w111, .w444], op4 := 0x0C } (fun _ => 8)

/-- DUAL_OUTPUT_FAST_READ: 0x3B, 0x3C (R127, R131). -/
def execDualOutputFastRead (c : SpiCmd) (s : State) : Res :=
  s.readCmd c { op := 0x3B, cls := 1, modes := [.w112], op4 := 0x3C } (adv c.port 0)

/-- DUAL_IO_FAST_READ: 0xBB, 0xBC (R127, R131). -/
def execDualIoFastRead (c : SpiCmd) (s : State) : Res :=
  s.readCmd c { op := 0xBB, cls := 1, modes := [.w122], op4 := 0xBC } (adv c.port 1)

/-- QUAD_OUTPUT_FAST_READ: 0x6B, 0x6C (R127, R131). -/
def execQuadOutputFastRead (c : SpiCmd) (s : State) : Res :=
  s.readCmd c { op := 0x6B, cls := 1, modes := [.w114], op4 := 0x6C } (adv c.port 2)

/-- QUAD_IO_FAST_READ: 0xEB, 0xEC (R127, R131). -/
def execQuadIoFastRead (c : SpiCmd) (s : State) : Res :=
  s.readCmd c { op := 0xEB, cls := 1, modes := [.w144, .w444], op4 := 0xEC } (adv c.port 3)

/-- OCTAL_DTR_READ: 0xEE (R127, R131). -/
def execOctalDtrRead (c : SpiCmd) (s : State) : Res :=
  s.readCmd c { op := 0xEE, cls := 1, modes := [.w8d] } (adv c.port 4)

/-! ### Status and identity -/

/-- The status byte the Stile presents (R120, R128, R139). -/
def State.statusByte (s : State) (n : Nat) : Byte :=
  let ph := (s.port n).phase
  if ph = .hold ∨ ph = .verify then 0x01
  else BitVec.ofNat 8 (b2n (s.wip n) + 2 * b2n (s.port n).wel)

/-- A STATUS or ID command: one answer on the proxy path, one on the transparent path (R117, R124, R137). -/
def State.dataCmd (s : State) (c : SpiCmd) (r : OpRow) (proxy : State → Bytes) (clear : State → Bytes) : Res :=
  let s := ((s.fresh).disarm c.port).interrupt c.port
  let c := s.sized c r
  .next (
    if s.stileOff c.port then s.emit (.undriven c.port)
    else if (s.port c.port).mode = .measure then
      if s.clearLimit c false < c.khz then s.allLate c
      else (s.emit (.down c.port 0 (r.sent c) c.addr [])).emit (.up c.port (clear s))
    else match s.proxyCheck c r with
      | .overclocked => s.allLate c
      | .pass => s.emit (.up c.port (proxy s))
      | _ => s.unknownCmd c.port)

/-- READ_STATUS_REGISTER (R120, R128, R139): on the transparent path the presented bits of a refused command replace the
status byte of the flash. -/
def execReadStatusRegister (c : SpiCmd) (s : State) : Res :=
  s.dataCmd c { op := 0x05, cls := 2, modes := allModes }
    (fun s => List.replicate c.len (s.statusByte c.port))
    (fun s => if (match (s.port c.port).busyUntil with | some f => decide (s.now < f) | none => false)
      then List.replicate c.len 0x01 else fit c.len c.data)

/-- READ_JEDEC_ID (R134). -/
def execReadJedecId (c : SpiCmd) (s : State) : Res :=
  s.dataCmd c { op := 0x9F, cls := 3, modes := [.w111, .w444, .w8d] }
    (fun s =>
      let v := s.val (pKey c.port 0x0B)
      fit c.len (if allZero v then (s.port c.port).flashId else v))
    (fun _ => fit c.len c.data)

/-- READ_SFDP (R135): addresses beyond the end of the table read as 0xFF. -/
def execReadSfdp (c : SpiCmd) (s : State) : Res :=
  s.dataCmd c { op := 0x5A, cls := 3, modes := [.w111, .w8d] }
    (fun s => (List.range c.len).map (fun i => (s.port c.port).sfdp.getD ((s.sized c { op := 0x5A, cls := 3, modes := [] }).addr + i) 0xFF))
    (fun _ => fit c.len c.data)

/-! ### Writes and modes -/

/-- A command that returns no data: what it does on the transparent path, when refused, and when it passes the proxy's
checks (R117, R124, R137). -/
def State.plainCmd (s : State) (c : SpiCmd) (r : OpRow) (clear : State → State) (refuse : State → State)
    (proxy : State → State) : Res :=
  let s := s.interrupt c.port
  .next (
    if s.stileOff c.port then s.emit (.undriven c.port)
    else if (s.port c.port).mode = .measure then
      if s.clearLimit c false < c.khz then
        ((s.modPort c.port (fun p => { p with unknown := p.unknown + 1 })).latch (portGroup c.port) 10).cancelDown c.port
          (r.sent c) r.cutAt
      else clear s
    else match s.proxyCheck c r with
      | .pass => proxy s
      | .refused => refuse s
      | _ => s.unknownCmd c.port)

/-- WRITE_ENABLE (R128): presented WEL is set. -/
def execWriteEnable (c : SpiCmd) (s : State) : Res :=
  ((s.fresh).disarm c.port).plainCmd c { op := 0x06, cls := 4, modes := allModes }
    (fun s => (s.passThrough c 0x06 false).modPort c.port (fun p => { p with wel := true }))
    (fun s => s.unknownCmd c.port)
    (fun s => s.modPort c.port (fun p => { p with wel := true }))

/-- WRITE_DISABLE (R128): presented WEL is cleared. Its record is the one of its row's first opcode (R136). -/
def execWriteDisable (c : SpiCmd) (s : State) : Res :=
  ((s.fresh).disarm c.port).plainCmd c { op := 0x06, cls := 4, modes := allModes, other := 0x04 }
    (fun s => (s.passThrough c 0x04 false).modPort c.port (fun p => { p with wel := false }))
    (fun s => s.unknownCmd c.port)
    (fun s => s.modPort c.port (fun p => { p with wel := false }))

/-- The DATA region flag that permits writes in the current phase (R153). -/
def writeFlag : Phase → Option Nat
  | .serve => some 0
  | .update => some 1
  | _ => none

/-- Every byte of a host range lies in DATA regions whose flag for the phase is set, and the flash bytes that the command changes
at its mapped address are those bytes and no others (R137, R153). A region is whole 4 KiB pages, so its 256-byte pages decide. -/
def State.mayWrite (s : State) (n addr len : Nat) : Bool :=
  match writeFlag (s.port n).phase, s.flashAt n addr with
  | some b, some f => f.2 % len == 0 && (List.range (ceilDiv len 256)).all (fun i =>
      s.flashAt n (addr + 256 * i) == some (f.1, f.2 + 256 * i) &&
      (match s.regionAt n (addr + 256 * i) with
       | some (_, r) => r.cls == 3 && r.flags.testBit b
       | none => false))
  | _, _ => false

/-- A program or erase has been issued downstream: presented WIP until a status poll of its chip select, each 8 frames after the
one before, finds the flash idle (R141). Presented WEL clears with it (log 99). -/
def State.passedWrite (s : State) (n cs : Nat) : State :=
  s.modPort n (fun p => { p with wel := false, passedBusy := true, busyCs := cs, pollAt := s.now + 8 })

/-- Transparent path, PROGRAM and ERASE (R24, R120): refused in HOLD, or when it touches the first 1 MiB; otherwise it
passes and the flash's status is polled. -/
def State.clearWrite (s : State) (c : SpiCmd) (r : OpRow) (first busy : Nat) : State :=
  if (s.port c.port).phase = .hold ∨ first < 0x100000 then s.refuse c (r.sent c) r.cutAt busy
  else (s.passThrough c (r.sent c) false).passedWrite c.port 0

/-- Proxy path, PROGRAM and ERASE (R128, R137, R141): without presented WEL no effect; refused whole, or issued downstream
at the mapped address. -/
def State.proxyWrite (s : State) (c : SpiCmd) (r : OpRow) (first len busy : Nat) : State :=
  if !(s.port c.port).wel then s
  else if s.mayWrite c.port first len then
    match s.flashAt c.port c.addr with
    | some f => (s.emit (.down c.port f.1 (r.sent c) f.2 c.data)).passedWrite c.port f.1
    | none => s.refuse c (r.sent c) r.cutAt busy
  else s.refuse c (r.sent c) r.cutAt busy

/-- A refusal by the allow-list; a program or erase without presented WEL has no effect (R128, R137). -/
def State.listRefuse (s : State) (c : SpiCmd) (op : Nat) (at_ : CutAt) (busy : Nat) : State :=
  if (s.port c.port).wel then s.refuse c op at_ busy else s

/-- PROGRAM and ERASE commands, over the range they touch. -/
def State.writeCmd (s : State) (c : SpiCmd) (r : OpRow) (size busy : Nat) : Res :=
  let s := (s.fresh).disarm c.port
  let c := s.sized c r
  let first := c.addr / size * size
  s.plainCmd c r (fun s => s.clearWrite c r first busy) (fun s => s.listRefuse c (r.sent c) r.cutAt busy)
    (fun s => s.proxyWrite c r first size busy)

/-- PAGE_PROGRAM: 0x02, 0x12 (R127, R137, R139). It touches the 256-byte page at its address. -/
def execPageProgram (c : SpiCmd) (s : State) : Res :=
  s.writeCmd c { op := 0x02, cls := 5, modes := [.w111, .w444, .w8d], op4 := 0x12 } 256 800

/-- QUAD_INPUT_PAGE_PROGRAM: 0x32, 0x34. -/
def execQuadInputPageProgram (c : SpiCmd) (s : State) : Res :=
  s.writeCmd c { op := 0x32, cls := 5, modes := [.w114], op4 := 0x34 } 256 800

/-- ERASE_4_KIB: 0x20, 0x21. -/
def execErase4Kib (c : SpiCmd) (s : State) : Res :=
  s.writeCmd c { op := 0x20, cls := 6, modes := allModes, op4 := 0x21 } 4096 60000

/-- ERASE_64_KIB: 0xD8, 0xDC. -/
def execErase64Kib (c : SpiCmd) (s : State) : Res :=
  s.writeCmd c { op := 0xD8, cls := 6, modes := allModes, op4 := 0xDC } 65536 240000

/-- CHIP_ERASE: 0xC7, 0x60 (R137): it touches every address, so it is always refused. -/
def execChipErase (c : SpiCmd) (alt : Bool) (s : State) : Res :=
  let op := if alt then 0x60 else 0xC7
  ((s.fresh).disarm c.port).plainCmd c { op := 0xC7, cls := 6, modes := allModes, other := if alt then 0x60 else 0 }
    (fun s => s.refuse c op .clocks 20000000) (fun s => s.listRefuse c op .clocks 20000000)
    (fun s => s.listRefuse c op .clocks 20000000)

/-- WRITE_STATUS_REGISTER: 0x01, refused on either path (R128, R138, R139). -/
def execWriteStatusRegister (c : SpiCmd) (s : State) : Res :=
  ((s.fresh).disarm c.port).plainCmd c { op := 0x01, cls := 7, modes := [.w111, .w444] }
    (fun s => s.refuse c 0x01 .data 10000) (fun s => s.refuse c 0x01 .data 10000) (fun s => s.refuse c 0x01 .data 10000)

/-- WRITE_VOLATILE_CONFIGURATION: 0x81 (R125, R128): the enable sequence of OCTAL_DTR with its 3-byte address, otherwise refused.
With 8D-8D-8D, whose addresses are 4 bytes, ADDR4 is set (log 100). -/
def execWriteVolatileConfiguration (c : SpiCmd) (s : State) : Res :=
  ((s.fresh).disarm c.port).plainCmd c { op := 0x81, cls := 9, modes := [.w111] }
    (fun s => s.passThrough c 0x81 false) (fun s => s.refuse c 0x81 .address 10000)
    (fun s =>
      if s.profile c.port = 2 ∧ (s.port c.port).wel ∧ (s.port c.port).addr4 = false ∧ c.addr = 0 ∧ c.data = [0xE7] then
        s.modPort c.port (fun p => { p with wire := .octal, addr4 := true, wel := false })
      else s.refuse c 0x81 .address 10000)

/-- SECURITY_REGISTER_COMMAND: 0x42, 0x44 (R138): refused on the transparent path, unknown on the proxy path. -/
def execSecurityRegisterCommand (c : SpiCmd) (erase : Bool) (s : State) : Res :=
  let op := if erase then 0x44 else 0x42
  ((s.fresh).disarm c.port).plainCmd c { op := op, cls := 0, modes := [] }
    (fun s => s.refuse c op .address 10000) (fun s => s.unknownCmd c.port) (fun s => s.unknownCmd c.port)

/-- ENTER_4BYTE_ADDRESS_MODE: 0xB7 (R127). On the transparent path ADDR4 follows the command that passes (log 101). -/
def execEnter4ByteAddressMode (c : SpiCmd) (s : State) : Res :=
  ((s.fresh).disarm c.port).plainCmd c { op := 0xB7, cls := 8, modes := allModes }
    (fun s => (s.passThrough c 0xB7 false).modPort c.port (fun p => { p with addr4 := true }))
    (fun s => s.unknownCmd c.port) (fun s => s.modPort c.port (fun p => { p with addr4 := true }))

/-- EXIT_4BYTE_ADDRESS_MODE: 0xE9 (R127, log 101). -/
def execExit4ByteAddressMode (c : SpiCmd) (s : State) : Res :=
  ((s.fresh).disarm c.port).plainCmd c { op := 0xB7, cls := 8, modes := allModes, other := 0xE9 }
    (fun s => (s.passThrough c 0xE9 false).modPort c.port (fun p => { p with addr4 := false }))
    (fun s => s.unknownCmd c.port) (fun s => s.modPort c.port (fun p => { p with addr4 := false }))

/-- ENTER_QPI: 0x38 (R123): 4-4-4 on a port whose profile accepts it. Refused by the allow-list it presents the busy time of a
register command (log 102); on the transparent path WIRE does not follow it (log 101). -/
def execEnterQpi (c : SpiCmd) (s : State) : Res :=
  ((s.fresh).disarm c.port).plainCmd c { op := 0x38, cls := 9, modes := [.w111] }
    (fun s => s.passThrough c 0x38 false) (fun s => s.refuse c 0x38 .clocks 10000)
    (fun s => if s.profile c.port = 1 then s.modPort c.port (fun p => { p with wire := .qpi }) else s)

/-- A port is back in 1-1-1 with 3-byte addresses, and its presented WEL is clear (R126). -/
def State.leaveQpi (s : State) (n : Nat) : State := s.modPort n (fun p => { p with wire := .spi, addr4 := false, wel := false })

/-- EXIT_QPI: 0xF5 (R126): on either path back to 1-1-1 with 3-byte addresses, and presented WEL clears. -/
def execExitQpi (c : SpiCmd) (s : State) : Res :=
  ((s.fresh).disarm c.port).plainCmd c { op := 0x38, cls := 9, modes := [.w444], other := 0xF5 }
    (fun s => (s.passThrough c 0xF5 false).leaveQpi c.port) (fun s => s.refuse c 0xF5 .clocks 10000)
    (fun s => s.leaveQpi c.port)

/-- RESET_ENABLE: 0x66 (R126): arms a Reset that follows as the next command. -/
def execResetEnable (c : SpiCmd) (s : State) : Res :=
  ((s.fresh).disarm c.port).plainCmd c { op := 0x66, cls := 10, modes := allModes }
    (fun s => (s.passThrough c 0x66 false).modPort c.port (fun p => { p with resetArmed := true }))
    (fun s => s.unknownCmd c.port) (fun s => s.modPort c.port (fun p => { p with resetArmed := true }))

/-- STILE_RESET: 0x99 (R126): acts after Reset Enable as the previous command. -/
def execStileReset (c : SpiCmd) (s : State) : Res :=
  let armed := (s.port c.port).resetArmed
  ((s.fresh).disarm c.port).plainCmd c { op := 0x66, cls := 10, modes := allModes, other := 0x99 }
    (fun s =>
      let s := s.passThrough c 0x99 false
      if armed then s.portResetWire c.port else s)
    (fun s => s.unknownCmd c.port)
    (fun s => if armed then s.portResetWire c.port else s)

/-- UNKNOWN_COMMAND (R128, R138): an opcode outside R127. On the transparent path 0x31 and 0x11 are refused as register
writes, every other opcode passes unchanged. -/
def execUnknownCommand (c : SpiCmd) (opcode : Nat) (s : State) : Res :=
  let s := ((s.fresh).disarm c.port).interrupt c.port
  .next (
    if s.stileOff c.port then s.emit (.undriven c.port)
    else if (s.port c.port).mode = .measure then
      if s.clearLimit c false < c.khz then
        ((s.modPort c.port (fun p => { p with unknown := p.unknown + 1 })).latch (portGroup c.port) 10).cancelDown c.port
          opcode (if c.data.isEmpty then .clocks else .data)
      else if opcode = 0x31 ∨ opcode = 0x11 then s.refuse c opcode .data 10000
      else s.passThrough c opcode (decide (0 < c.len))
    else s.unknownCmd c.port)

/-- STN_RST_N_LOW (R126): the port's reset input held low for at least 1 us. -/
def execStnRstNLow (port : Nat) (s : State) : Res :=
  let s := s.fresh
  .next (s.portResetWire port)

/-- REFUSED_BUSY_END (R139): the presented busy period of a refused command has run out. -/
def execRefusedBusyEnd (port : Nat) (s : State) : Res :=
  let s := s.fresh
  .next (match (s.port port).busyUntil with
    | some f => if s.now < f then s else s.modPort port (fun p => { p with busyUntil := none })
    | none => s)

/-- DOWNSTREAM_STATUS_POLL (R25, R141): every 8 frames the flash that a passed write keeps busy is polled; a poll that finds it
idle ends the presented busy. -/
def execDownstreamStatusPoll (port : Nat) (idle : Bool) (s : State) : Res :=
  let s := s.fresh
  let p := s.port port
  .next (if p.passedBusy ∧ p.mode ≠ .off ∧ p.pollAt ≤ s.now then
      let s := s.emit (.down port p.busyCs 0x05 0 [])
      s.modPort port (fun p => { p with passedBusy := !idle, pollAt := s.now + 8 })
    else s)

end Sys2Proof.Machine
end

