-- ==== Sys2Proof/Machine/Verify.lean ====
section
/-! DEFINITION. Measurements, start verification, tag verdicts, sweeps, trials and recovery as they end (R23, R25, R122,
R159 to R173, R181, R182). -/

namespace Sys2Proof.Machine

open Sys2Proof

/-- A frame of the measurement read at 50 MHz in 1-1-1 (R23, R25): 25 clocks, of which the opcode, the address and the dummy byte
take the first 40 of each command (log 120). -/
def State.measureFrame (s : State) (n : Nat) : State :=
  if s.measuring n then
    let p := s.port n
    let s := if p.measLead = 40 then s.emit (.down n 0 0x0B (p.measBits / 8) []) else s
    s.modPort n (fun p => { p with
      measLead := p.measLead - 25, measBits := min (8 * p.measureLen) (p.measBits + (25 - min 25 p.measLead)) })
  else s

/-- MEASUREMENT_RECORDED (R23, R25, R122): with everything read and hashed, the digest is recorded at a boundary with no supply hold
(in the Logbook as its entry's new value), the verdict is PASS, and the port serves. -/
def execMeasurementRecorded (port : Nat) (data : Bytes) (s : State) : Res :=
  let s := s.fresh
  let p := s.port port
  .next (if s.core.op.working ∧ p.mode = .measure ∧ p.phase = .verify ∧ s.sup.hold = false ∧
      data.length = p.measureLen ∧ 8 * p.measureLen ≤ p.measBits ∧ sha384Frames [p.measureLen] ≤ s.digestTaken port then
      let d := sha384 data
      let s := (s.modPort port (fun p => { p with measDigest := some d, verdict := .pass, reason := 0 })).dropDigest port
      ((s.latch (portGroup port) 1).setPhase port .serve).logEv
        { devDesc 3 (evCode 5 .portMeasured) (Config.eventRef .portMeasured [port]).toNat with new := h8 d }
    else s)

/-- The regions that a verification has read once it has ended: up to the first whose digest fails (R168). -/
def regionsRead (rs : List Region) (data : Option (List Bytes)) : List Region :=
  match data with
  | none => []
  | some l =>
    let bad := (rs.zip l).findIdx (fun x => !(x.2.length == x.1.len && sha384 x.2 == x.1.digest))
    rs.take (bad + 1)

/-- The downstream reads of a verification: one for each region, at priority 3 (R168, R142, R143). -/
def State.regionReads (s : State) (n : Nat) (x : Slot) (rs : List Region) : State :=
  rs.foldl (fun s r => let f := s.regionFlash n (some x) r; s.emit (.down n f.1 (downOp (s.port n).down) f.2 [])) s

/-- START_VERIFICATION_END (R167 to R169): the verification of the source under check ends with what was read of its
regions, in manifest order, once the digest lanes have hashed it; `none` is a downstream read error. A source that its first checks
fail ends at once. -/
def execStartVerificationEnd (port : Nat) (data : Option (List Bytes)) (s : State) : Res :=
  let s := s.fresh
  let p := s.port port
  if s.core.op.working ∧ p.mode = .manifest ∧ p.phase = .verify then
    match p.cand with
    | none => .next s
    | some x =>
      let r := s.sourceReason port x data
      let early := r == 2 || r == 7 || r == 5 || r == 6
      let read := regionsRead (imageRegions (s.manifest port x)) data
      if !early ∧ s.digestTaken port < sha384Frames (read.map (·.len)) then .next s
      else
        let s := if early then s else (s.freshTagKey port).regionReads port x read
        if r ≠ 0 then .next (s.sourceFail port x r)
        else if !s.shedFits port x then .fault .noSuchShedAddress
        else .next ((s.fillPort port x (data.getD [])).sourcePass port x)
  else .next s

/-- The flash place of a STREAMED block of the served source: region index, chip select, address. -/
def State.blockPlace (s : State) (n host : Nat) : Option (Nat × Nat × Nat) :=
  match s.regionAt n host with
  | some (k, r) =>
    if r.cls = 2 ∧ (host - r.host) % 256 = 0 then
      let f := s.regionFlash n (s.port n).serving r
      some (k, f.1, f.2 + (host - r.host))
    else none
  | none => none

/-- A failing tag verdict (R162, R163): counted, logged with its addresses; the response runs once per frame. -/
def State.tagFailed (s : State) (n host flash : Nat) : State :=
  let again := (s.port n).failAt == some s.now
  let s := (s.modPort n (fun p => { p with tagFail := p.tagFail + 1, failAt := some s.now })).ev 3 5 .tagFail
    [n, host, flash]
  if again then s else s.failResponse n

/-- The block whose index a running sweep verifies next has been read for it; its verdict takes the sweep on (R164). -/
def Port.sweepOn (p : Port) (idx : Nat) : Port :=
  if p.sweep.isSome && p.sweepRead && idx == p.tagBase + p.sweepAt then { p with sweepAt := p.sweepAt + 1, sweepRead := false } else p

/-- TAG_VERDICT (R158 to R162, R164): the tag of a STREAMED block, named by the host address of its first byte, is compared; a
block read in line is the one that waits, otherwise the block that debt clearing or a sweep has read. -/
def execTagVerdict (port host : Nat) (block : Bytes) (s : State) : Res :=
  let s := s.fresh
  let p := s.port port
  .next (if s.core.op.powered ∧ p.mode = .manifest ∧ (p.phase = .serve ∨ p.phase = .update) ∧ s.shedLost = false ∧
      (s.lane port).disabled = false ∧ (s.lane port).needTest = false then
      match s.blockPlace port host, s.tagIdx port host with
      | some (k, cs, a), some idx =>
        let b := (getKey p.tagPend host).getD block
        let ok := tagAt s.tagTable idx == some (blockTag p.tagSecret port cs k a b)
        let s := s.modPort port (fun p =>
          let q := if (getKey p.tagPend host).isSome then p else p.sweepOn idx
          { q with debts := p.debts.filter (· != idx), tagPend := dropKey p.tagPend host })
        if ok then s else s.tagFailed port host a
      | _, _ => s
    else s)

/-- Host address of the block that a tag index names (R156). -/
def State.hostOfTag (s : State) (n idx : Nat) : Option Nat :=
  let rs := manRegions (s.served n)
  (List.range rs.length).findSome? (fun k =>
    let r := rs.getD k (manRegion [] k)
    let lo := (s.port n).tagBase + totalBefore rs k 2 / 256
    if r.cls = 2 ∧ lo ≤ idx ∧ idx < lo + r.len / 256 then some (r.host + (idx - lo) * 256) else none)

/-- The whole block of a tag index is read; not from a flash that is busy (R143, R161, R164). -/
def State.readBlock (s : State) (n idx : Nat) : Option State :=
  match (s.hostOfTag n idx).bind (s.blockPlace n) with
  | some (_, cs, a) => if (s.port n).csBusy cs then none else some (s.emit (.down n cs (downOp (s.port n).down) a []))
  | none => none

/-- DEBT_CLEAR_READ (R161): in idle time the block of the oldest debt is read whole; its TAG_VERDICT removes the entry. A
flash that is busy cannot be read (R143). -/
def execDebtClearRead (port : Nat) (s : State) : Res :=
  let s := s.fresh
  let p := s.port port
  .next (if s.core.op.powered ∧ p.mode = .manifest ∧ (p.phase = .serve ∨ p.phase = .update) then
      match p.debts with
      | [] => s
      | idx :: _ => match s.readBlock port idx with
        | some t => t
        | none => s
    else s)

/-- Blocks that a sweep verifies: every STREAMED block of the served source (R164). -/
def State.sweepLen (s : State) (n : Nat) : Nat := regionTotal (manRegions (s.served n)) 2 / 256

/-- A frame of a running sweep (R164): the next STREAMED block is read for its tag lane, in host-address order, once the one before it
has its verdict. -/
def State.sweepFrame (s : State) (n : Nat) : State :=
  let p := s.port n
  if p.sweep.isSome ∧ !p.sweepRead ∧ p.sweepAt < s.sweepLen n ∧ s.shedLost = false ∧ (p.phase = .serve ∨ p.phase = .update) then
    match s.readBlock n (p.tagBase + p.sweepAt) with
    | some t => t.modPort n (fun p => { p with sweepRead := true })
    | none => s
  else s

/-- What the ports do by themselves in a frame: measurement reads and sweeps (R25, R164). -/
def State.portsFrame (s : State) : State :=
  (List.range 4).foldl (fun s n => (s.measureFrame n).sweepFrame n) s

/-- SWEEP_COMPLETE (R164, R165): a running sweep that has verified every block ends; an overflow during it starts a new one. -/
def execSweepComplete (port : Nat) (s : State) : Res :=
  let s := s.fresh
  .next (match (s.port port).sweep with
    | none => s
    | some _ =>
      if s.shedLost = true ∨ (s.port port).sweepAt < s.sweepLen port then s else
      let again := (s.port port).sweepAgain
      let s := ((s.modPort port (fun p => { p with sweep := none, sweepAgain := false, sweepLate := false })).latch
        (portGroup port) 7).ev 3 5 .sweepEnded [port]
      if again then s.beginSweep port else s)

/-- SWEEP_LATE (R165): a sweep is unfinished after 2 s; it continues. -/
def execSweepLate (port : Nat) (s : State) : Res :=
  let s := s.fresh
  .next (match (s.port port).sweep with
    | none => s
    | some f =>
      if (s.port port).sweepLate ∨ s.now < f + 2 * secFrames then s
      else ((s.modPort port (fun p => { p with sweepLate := true })).latch (portGroup port) 6).ev 3 5 .sweepLate [port])

/-- PLATFORM_TRIAL_EXPIRY (R173): the trial window of a port expires and its recovery sequence starts. -/
def execPlatformTrialExpiry (port : Nat) (s : State) : Res :=
  let s := s.fresh
  .next (match (s.port port).trialEnd with
    | none => s
    | some e =>
      if s.now < e then s
      else (((s.modPort port (fun p => { p with trialEnd := none })).latch 5 10).ev 3 5 .portTrialExpired
        [port]).recoverAsk port)

end Sys2Proof.Machine
end

