-- ==== Sys2Proof/Machine/Pldm.lean ====
section
/-! DEFINITION. PLDM for Firmware Update: the firmware device (R91, R92, R171 to R180, R184). The command and completion
codes of DSP0267 are PRESUMED (log 8). -/

namespace Sys2Proof.Machine

open Sys2Proof

/-- A PLDM message leaves; on a target port it is announced (R186). -/
def State.pldmSend (s : State) (t cmd : Nat) (p : Bytes) : State := (s.emit (.pldm t cmd p)).inBand (transportBus t)

/-- Answer a PLDM request: command code, completion code, payload. -/
def State.pldmReply (s : State) (t cmd code : Nat) (p : Bytes) : State := s.pldmSend t cmd (leN 1 code ++ p)

/-- PLDM is served: a powered state, no steward halted (R17, R480). -/
def State.pldmOn (s : State) : Bool := s.core.op.powered && !s.pwr.halted

/-- A request command: nothing while PLDM waits, UNABLE_TO_INITIATE_UPDATE from a transport that is not enabled (R176); discarded from
an EID in quarantine (R198). -/
def State.pldmReq (s : State) (t src cmd : Nat) (f : State → State) : Res :=
  let s := s.fresh
  .next (if !s.pldmOn then s
    else if s.fromQuarantine t src then s.lateMctp
    else if !(s.valU (mkKey 0x2800 0x03)).testBit t then s.pldmReply t cmd 0x8A []
    else f s)

/-- The state code of `platform.update.state` (R184). -/
def FdState.code : FdState → Nat
  | .idle => 0 | .learn => 1 | .ready => 2 | .download => 3 | .verify => 4 | .apply => 5 | .activate => 6

/-- The classification of every component (R176). -/
def compClass : Nat := 0x000A

/-- The component identifiers that the device offers (R176). -/
def compIds : List Nat := [0x7100, 0x0200, 0x0201, 0x0202, 0x0203, 0x0210, 0x0211, 0x0212, 0x0213]

/-- A component identifier the device offers (R176). -/
def compKnown (c : Nat) : Bool := compIds.contains c

/-- Port of a platform or recovery component. -/
def compPort (c : Nat) : Nat := c % 16

/-- A recovery component. -/
def compRecovery (c : Nat) : Bool := 0x0210 ≤ c && c < 0x0214

/-- QUERY_DEVICE_IDENTIFIERS (R176, R177). -/
def execQueryDeviceIdentifiers (q : PldmFrom) (s : State) : Res :=
  s.pldmReq q.transport q.src 0x01 (fun s => s.pldmReply q.transport 0x01 0 (Config.message 0x01 [s.fuse.serial.toNat] []))

/-- The comparison stamps of a component (R176): of what runs or is ACTIVE, and of what waits for activation or is on trial, 0 for
neither. -/
def State.compStamps (s : State) (c : Nat) : Nat × Nat :=
  let waits := fun (st : SlotState) (v : Nat) => if st = .staged ∨ st = .trial then v else 0
  if c = 0x7100 then
    (s.boot.svn, match s.ledger with
      | some l => max (waits l.stA l.svnA) (waits l.stB l.svnB)
      | none => 0)
  else
    let l := (s.portLedger (compPort c)).getD portLedgerZero
    if compRecovery c then (if l.stR = .active then l.svR else 0, waits l.stR l.svR)
    else ((l.active.map l.sv).getD 0, max (waits l.stA l.svA) (waits l.stB l.svB))

/-- GET_FIRMWARE_PARAMETERS (R176, R177): the components, each with its classification, identifier and comparison stamps. The rest of
DSP0267's table stands in no rule (log 8). -/
def execGetFirmwareParameters (q : PldmFrom) (s : State) : Res :=
  s.pldmReq q.transport q.src 0x02 (fun s => s.pldmReply q.transport 0x02 0 (leN 2 compIds.length ++ compIds.flatMap (fun c =>
    leN 2 compClass ++ leN 2 c ++ leN 4 (s.compStamps c).1 ++ leN 4 (s.compStamps c).2) ++ Config.message 0x02 [] []))

/-- REQUEST_UPDATE (R177): the transfer size is the smaller of the two. -/
def execRequestUpdate (q : PldmFrom) (maxXfer : Nat) (s : State) : Res :=
  s.pldmReq q.transport q.src 0x10 (fun s =>
    if s.pldm.st ≠ .idle then s.pldmReply q.transport 0x10 0x81 []
    else (s.modPldm (fun p => { p with st := .learn, transport := q.transport, updated := [],
                                       xfer := min (s.valU (mkKey 0x2800 0x04)) maxXfer })).pldmReply q.transport 0x10 0 [])

/-- PASS_COMPONENT_TABLE (R176, R177): whether the device offers the component named by classification and identifier. -/
def execPassComponentTable (q : PldmFrom) (comp : Component) (s : State) : Res :=
  s.pldmReq q.transport q.src 0x13 (fun s =>
    if s.pldm.st ≠ .learn ∧ s.pldm.st ≠ .ready then s.pldmReply q.transport 0x13 0x84 []
    else (s.modPldm (fun p => { p with st := .ready })).pldmReply q.transport 0x13 0 (bytesOf [b2n (comp.cls != compClass || !compKnown comp.id)]))

/-- The boot flash slot that an update may write: neither ACTIVE nor TRIAL (R91); with no valid ledger record, the one that did
not boot (R80). -/
def State.fwTarget (s : State) : Option Slot :=
  match s.ledger with
  | none => some (if s.boot.slotB then .a else .b)
  | some l => [Slot.a, .b].find? (fun x => l.active != some x && l.trial != some x)

/-- The slot of a port that an update writes (R178). -/
def State.portTarget (s : State) (n : Nat) (recovery : Bool) : Option Slot :=
  let l := (s.portLedger n).getD portLedgerZero
  if recovery then (if (s.port n).serving = some .r then none else some .r)
  else [Slot.a, .b].find? (fun x => l.active != some x && l.trial != some x && (s.port n).serving != some x)

/-- Whether UpdateComponent is accepted, and for which slot (R92, R178). -/
def State.updateTarget (s : State) (c stamp : Nat) : Option Slot :=
  if c = 0x7100 then
    if stamp < floorOf s.fuse.arbFloor then none else s.fwTarget
  else if !compKnown c then none
  else
    let n := compPort c
    let p := s.port n
    if p.mode ≠ .manifest ∨ p.phase ≠ .serve ∨ p.trialServed ∨
        s.yard.sheet = 0 ∨ stamp < s.valU (iKey n 0x09) then none
    else s.portTarget n (compRecovery c)

/-- Length of the portion asked for next (R177, R179): of a platform or recovery component the 64-byte header first, then the rest of
the manifest, then the payload. -/
def Pldm.requestLen (p : Pldm) : Nat :=
  let upTo := if p.component = 0x7100 ∨ p.manifestDone then p.size
    else if p.received < 64 then min 64 p.size else min (manLength p.data) p.size
  min p.xfer (upTo - p.received)

/-- The next RequestFirmwareData (R177, R179). -/
def State.requestData (s : State) : State :=
  let p := s.pldm
  if p.received < p.size then s.pldmSend p.transport 0x15 (leN 4 p.received ++ leN 4 p.requestLen) else s

/-- UPDATE_COMPONENT (R91, R92, R178): accepted with the first data request, or "cannot be updated". A device image whose stamp, the
SVN, is below the floor fails with `ST_IMAGE_INVALID` (R92). -/
def execUpdateComponent (q : PldmFrom) (comp : Component) (stamp size : Nat) (s : State) : Res :=
  s.pldmReq q.transport q.src 0x14 (fun s =>
    if s.pldm.st ≠ .ready then s.pldmReply q.transport 0x14 0x84 []
    else match (if comp.cls = compClass then s.updateTarget comp.id stamp else none) with
      | none =>
        let s := s.pldmReply q.transport 0x14 0 (bytesOf [1])
        if comp.cls = compClass ∧ comp.id = 0x7100 ∧ stamp < floorOf s.fuse.arbFloor then
          (s.latch 5 8).ev 3 5 .updateFailed [comp.id, stImageInvalid, 0x14]
        else s
      | some x =>
        let s := s.modPldm (fun p => { p.rest .download with component := comp.id, size := size, stamp := stamp, target := some x })
        (((s.latch 5 6).ev 3 5 .updateBegan [comp.id]).pldmReply q.transport 0x14 0 (bytesOf [0])).requestData)

/-- The transfer fails (R92, R179): TransferComplete or VerifyComplete with a failure code, the slot BAD where `bad`; of a device
image the reason is kept in a boot record (log 108). -/
def State.updateFails (s : State) (cmd : Nat) (bad : Bool) (reason : Nat) : State :=
  let c := s.pldm.component
  let n := compPort c
  let s := match s.pldm.target with
    | some x =>
      if !bad then s
      else if c = 0x7100 then (s.putLedger (fun l => l.setSt x .bad)).bootRecord (decide (x = Slot.b)) reason s.pldm.stamp
      else s.putPortLedger n (fun l => l.setSt x .bad)
    | none => s
  let s := if c ≠ 0x7100 ∧ (s.port n).phase = .update then (s.setPhase n .serve).latch (portGroup n) 15 else s
  let s := s.modPldm (fun p => p.rest .ready)
  ((s.latch 5 8).ev 3 5 .updateFailed [c, stImageInvalid, reason]).pldmSend s.pldm.transport cmd [1]

/-- Keep a value in MRAM at once: the working value and the value in the stored banks (R179). -/
def State.storeNow (s : State) (key : Nat) (v : Bytes) : State :=
  let s := s.setVal key v
  let put := fun (b : DictBank) => { b with vals := if v = dfltOf key then dropKey b.vals key else putKey b.vals key v }
  s.modDict (fun d => if d.bankA.isNone && d.bankB.isNone then
      { d with bankA := some (put { seq := 1, changes := 0, vals := [] }) }
    else { d with bankA := d.bankA.map put, bankB := d.bankB.map put })

/-- The slot is STAGED and ApplyComplete succeeds (R91 step 2, R179 step 5). -/
def State.updateStaged (s : State) (x : Slot) : State :=
  let p := s.pldm
  let c := p.component
  let n := compPort c
  let s := if c = 0x7100 then
      let h := p.data.take 8192
      ((s.putLedger (fun l =>
        let l := l.setSt x .staged
        if x = .b then { l with svnB := hdrSvn h, digB := slice h 32 16 }
        else { l with svnA := hdrSvn h, digA := slice h 32 16 })).modBoot (fun b =>
          let i : HeaderInfo := { release := uLE h 12 4, digest := slice h 32 48, keyIndex := u8 h 8, svn := hdrSvn h }
          if x = .b then { b with infoB := i } else { b with infoA := i })).latch 5 12
    else
      let m := p.data.take (manLength p.data)
      let s := s.storeNow (iKey n (slotSub x)) m
      let s := s.modPort n (fun q => { q with manOk := updAt q.manOk (slotSub x - 1) (fun _ => true) })
      let s := s.putPortLedger n (fun l => (l.setSt x .staged).setMan x m)
      (s.setPhase n .serve).latch (portGroup n) 15
  let s := s.modPldm (fun p => { p.rest .ready with updated := p.updated ++ [(c, x)] })
  ((s.latch 5 7).ev 3 5 .updateStaged [c]).pldmSend p.transport 0x18 [0]

/-- Frames of the C0 programme that checks a signature of an owner algorithm (R39, R40, R152). -/
def ownerFrames (alg : Nat) : Nat := if alg = 1 then 92 else 6

/-- Steps 1 and 2 of R179 once the manifest has arrived, whose signature a C0 programme checks (R152), and the SVN check of R92 once
the header has. -/
def State.updateHead (s : State) (x : Slot) : State :=
  let p := s.pldm
  let c := p.component
  if p.manifestDone then s
  else if c = 0x7100 then
    if p.data.length < 11 then s
    else if hdrSvn p.data < floorOf s.fuse.arbFloor then s.updateFails 0x16 false 0x14
    else (s.putLedger (fun l => l.setSt x .writing)).modPldm (fun p => { p with manifestDone := true })
  else if p.data.length < 64 ∨ p.data.length < manLength p.data then s
  else
    let e := s.manCheck (compPort c) x p.data
    if e = stBadFormat ∨ e = stRange then s.updateFails 0x16 false 0
    else
      let alg := uLE p.data 14 2
      (s.modPldm (fun p => { p with checking := true })).addDev (.pair (alg == 2) false (ownerFrames alg) .update)

/-! ### Writing the flash (R91, R179 step 3) -/

/-- The erases of a flash range: 64 KiB where one is aligned and fits, 4 KiB otherwise (R179). `fuel` bounds their number. -/
def erasesOf : Nat → Nat → Nat → List (Nat × Nat)
  | 0, _, _ => []
  | _, _, 0 => []
  | fuel + 1, a, len =>
    if a % 65536 = 0 ∧ 65536 ≤ len then (0xD8, a) :: erasesOf fuel (a + 65536) (len - 65536)
    else (0x20, a) :: erasesOf fuel (a + 4096) (len - 4096)

/-- Erase the flash range of each region whose first byte has come, then program the pages that are whole (R179 step 3); `o` and `e`
bound the payload that has come with this portion. -/
def State.writePayload (s : State) (x : Slot) (o e : Nat) : State :=
  let p := s.pldm
  let n := compPort p.component
  let m := p.data.take (manLength p.data)
  let rs := imageRegions m
  (List.range rs.length).foldl (fun s k =>
    let r := rs.getD k (manRegion m k)
    let lo := (rs.take k).foldl (fun a r => a + r.len) 0
    let f := s.regionFlash n (some x) r
    let s := if o ≤ lo ∧ lo < e then (erasesOf (r.len / 4096) f.2 r.len).foldl (fun s c => s.emit (.down n f.1 c.1 c.2 [])) s else s
    (List.range (r.len / 256)).foldl (fun s i =>
      let last := lo + 256 * (i + 1)
      if o < last ∧ last ≤ e then
        s.emit (.down n f.1 0x02 (f.2 + 256 * i) (slice p.data (m.length + lo + 256 * i) 256))
      else s) s) s

/-- Write what a portion brought, from byte `o` of the component: to the boot flash slot, or to the regions' flash. -/
def State.writePortion (s : State) (x : Slot) (o : Nat) : State :=
  let p := s.pldm
  if p.component = 0x7100 then s.emit (.bootWrite (slotStart x + o) (p.data.drop o))
  else
    let h := manLength p.data
    s.writePayload x (o - h) (p.received - h)

/-- The readback after the transfer: 0, or the reason with which it fails (R91, R179). -/
def State.readbackReason (s : State) (readback : Option (List Bytes)) : Nat :=
  let p := s.pldm
  match readback with
  | none => 0x10
  | some l =>
    if p.component = 0x7100 then s.imageReason { header := l[0]?, body := l[1]? }
    else
      let img := (manRegions p.data).filter (fun r => r.cls != 3)
      if l.length = img.length ∧ (List.zipWith (fun (r : Region) (b : Bytes) => sha384 b == r.digest) img l).all id
      then 0 else 3

/-- The whole component has the length its content gives (R148, R176). -/
def State.lengthRight (s : State) : Bool :=
  let p := s.pldm
  if p.component = 0x7100 then 8192 + hdrBodyLen p.data ≤ p.size
  else p.size == manLength p.data + uLE p.data 20 4

/-- After a portion: the next request, or, with the whole component written, TransferComplete and the readback (R179 steps 3 and 4). -/
def State.portionDone (s : State) : State :=
  if s.pldm.received < s.pldm.size then s.requestData
  else if !s.pldm.manifestDone ∨ !s.lengthRight then s.updateFails 0x16 s.pldm.manifestDone 0x11
  else (s.pldmSend s.pldm.transport 0x16 [0]).modPldm (fun p => { p with st := .verify })

/-- A portion is checked or written (R91, R92, R179). -/
def State.portionIn (s : State) (x : Slot) (r : Portion) : State :=
  let o := s.pldm.received
  let d := r.data.take s.pldm.requestLen
  let s := s.modPldm (fun p => { p with data := p.data ++ d, received := p.received + d.length, portion := none, readback := r.readback })
  let s := s.updateHead x
  if s.pldm.target.isNone ∨ s.pldm.checking then s
  else if s.pldm.manifestDone then
    if !r.flashOk then s.updateFails 0x16 true 0x10 else (s.writePortion x o).portionDone
  else s.portionDone

/-- The C0 programme for the manifest of an update has ended (R152, R179 steps 1 and 2). -/
def State.updateChecked (s : State) : State :=
  match s.pldm.target with
  | none => s
  | some x =>
    let n := compPort s.pldm.component
    let s := s.modPldm (fun p => { p with checking := false })
    if s.manCheck n x s.pldm.data ≠ 0 then s.updateFails 0x16 false 0
    else
      let s := s.putPortLedger n (fun l => l.setSt x .writing)
      (((s.setPhase n .update).latch (portGroup n) 14).modPldm (fun p => { p with manifestDone := true })).portionDone

/-- FIRMWARE_DATA_RECEIVED (R179): a portion arrives; it is checked or written, and the next one is requested. While a supply hold
pauses the device's writes or a steward is halted, the portion waits (R180, R480). -/
def execFirmwareDataReceived (q : PldmFrom) (data : Bytes) (flashOk : Bool) (readback : Option (List Bytes)) (s : State) : Res :=
  let s := s.fresh
  .next (match s.pldm.target with
    | none => s
    | some x =>
      let p := s.pldm
      let r : Portion := { data := data, flashOk := flashOk, readback := readback }
      if s.core.op.powered ∧ s.fromQuarantine q.transport q.src then s.lateMctp
      else if !s.core.op.powered ∨ p.st ≠ .download ∨ p.transport ≠ q.transport ∨ p.checking ∨ p.portion.isSome then s
      else if s.pwr.halted ∨ (s.sup.hold ∧ (p.manifestDone ∨ p.component = 0x7100)) then
        s.modPldm (fun p => { p with portion := some r })
      else s.portionIn x r)

/-- The readback of an update, and what it ends with: VerifyComplete (R91 step 2, R179 step 4). -/
def State.pldmVerify (s : State) (x : Slot) : State :=
  let p := s.pldm
  let s := if p.component = 0x7100 then s.bootFlashRead (slotStart x) p.size
    else s.regionReads (compPort p.component) x (imageRegions (p.data.take (manLength p.data)))
  let r := s.readbackReason p.readback
  if r ≠ 0 then s.updateFails 0x17 true r
  else (s.pldmSend p.transport 0x17 [0]).modPldm (fun p => { p with st := .apply })

/-- A boundary of the firmware device (R179, R180, R184): a waiting portion, the readback, the staging; after ActivateFirmware it is
IDLE again. -/
def State.pldmBoundary (s : State) : State :=
  if !s.pldmOn ∨ s.sup.hold then s
  else match s.pldm.target, s.pldm.portion with
    | none, _ => if s.pldm.st = .activate then s.modPldm (fun p => { p with st := .idle }) else s
    | some x, some r => s.portionIn x r
    | some x, none => match s.pldm.st with
      | .verify => s.pldmVerify x
      | .apply => s.updateStaged x
      | _ => s

/-- The record of R172 for a STAGED slot of a port; a status where it is refused. -/
def State.portActivate (s : State) (n : Nat) (x : Slot) : State :=
  match s.portLedger n with
  | none => s
  | some l =>
    if l.st x ≠ .staged then s
    else if x = .r then s.putPortLedger n (fun l => l.setSt .r .active)
    else if l.active.isNone then s.putPortLedger n (fun l => { l.setSt x .active with active := some x })
    else s.putPortLedger n (fun l => { l.setSt x .trial with trial := some x, count := 0 })

/-- Whether the record of R172 may be written. -/
def State.portStaged (s : State) (n : Nat) (x : Slot) : Bool :=
  match s.portLedger n with
  | none => false
  | some l => l.st x == .staged

/-- ACTIVATE_FIRMWARE (R177, R179 step 6). -/
def execActivateFirmware (q : PldmFrom) (selfContained : Bool) (s : State) : Res :=
  s.pldmReq q.transport q.src 0x1A (fun s =>
    if selfContained then s.pldmReply q.transport 0x1A 0x8C []
    else if s.pldm.st ≠ .ready then s.pldmReply q.transport 0x1A 0x84 []
    else
      let agent := s.valU (mkKey 0x2800 0x02) == 1
      let s := if agent then s.pldm.updated.foldl (fun s c =>
          if c.1 = 0x7100 ∨ compRecovery c.1 then s else s.portActivate (compPort c.1) c.2) s
        else s
      ((s.modPldm (fun p => { p with st := .activate, updated := [] })).ev 3 5 .updateActivated [b2n agent]).pldmReply
        q.transport 0x1A 0 [])

/-- GET_STATUS (R177): the firmware device state. -/
def execGetStatus (q : PldmFrom) (s : State) : Res :=
  s.pldmReq q.transport q.src 0x1B (fun s => s.pldmReply q.transport 0x1B 0 (bytesOf [s.pldm.st.code]))

/-- CANCEL_UPDATE_COMPONENT (R180). -/
def execCancelUpdateComponent (q : PldmFrom) (s : State) : Res :=
  s.pldmReq q.transport q.src 0x1C (fun s =>
    if s.pldm.st = .idle then s.pldmReply q.transport 0x1C 0x80 []
    else if s.pldm.target.isNone then s.pldmReply q.transport 0x1C 0x84 []
    else (s.endTransfer).pldmReply q.transport 0x1C 0 [])

/-- CANCEL_UPDATE (R180): the device leaves update mode. -/
def execCancelUpdate (q : PldmFrom) (s : State) : Res :=
  s.pldmReq q.transport q.src 0x1D (fun s =>
    if s.pldm.st = .idle then s.pldmReply q.transport 0x1D 0x80 []
    else ((s.endTransfer).modPldm (fun p => { p with st := .idle, updated := [] })).pldmReply q.transport 0x1D 0 [])

/-- PLDM_TIMEOUT (R180): a timeout under DSP0267 ends the transfer and update mode. -/
def execPldmTimeout (s : State) : Res :=
  let s := s.fresh
  .next (if s.pldm.st = .idle ∨ !s.pldmOn then s
    else (s.endTransfer).modPldm (fun p => { p with st := .idle, updated := [] }))

end Sys2Proof.Machine
end

