-- ==== Sys2Proof/Machine/Tack.lean ====
section
/-! DEFINITION. The Tack Room: key types, handles, the check on use, lineage
(R212 to R227, R231 to R238, R320). -/

namespace Sys2Proof.Machine

open Sys2Proof

/-- Run length and secret length of each key type (R212; the ML-KEM lengths are those of FIPS 203, log 8). -/
def keyTypes : List (Nat × Nat × Nat) :=
  [(0x01, 1, 16), (0x02, 1, 24), (0x03, 1, 32), (0x04, 1, 16), (0x05, 1, 24), (0x06, 1, 32), (0x07, 1, 48),
   (0x08, 1, 64), (0x10, 1, 32), (0x11, 1, 48), (0x12, 2, 66), (0x13, 1, 32), (0x14, 1, 48), (0x15, 1, 32),
   (0x16, 1, 32), (0x17, 1, 57), (0x18, 1, 56), (0x19, 2, 70), (0x20, 1, 64), (0x21, 2, 96), (0x22, 3, 132),
   (0x23, 1, 64), (0x24, 2, 96), (0x25, 1, 32), (0x26, 1, 32), (0x27, 1, 57), (0x28, 1, 56), (0x29, 3, 136)] ++
  [(0x30, 10, 640), (0x31, 15, 960), (0x32, 20, 1280), (0x34, 4, 256), (0x35, 6, 384), (0x36, 8, 512),
   (0x40, 39, 2496), (0x41, 62, 3968), (0x42, 76, 4832), (0x44, 21, 1312), (0x45, 31, 1952), (0x46, 41, 2592),
   (0x48, 26, 1632), (0x49, 38, 2400), (0x4A, 50, 3168), (0x4C, 13, 800), (0x4D, 19, 1184), (0x4E, 25, 1568),
   (0x50, 7, 397)]

/-- A defined key type. -/
def keyDefined (t : Nat) : Bool := keyTypes.any (fun e => e.1 == t)

/-- Slots of a run. -/
def keyRun (t : Nat) : Nat := ((getKey keyTypes t).getD (1, 0)).1

/-- Bytes of the secret. -/
def keyLen (t : Nat) : Nat := ((getKey keyTypes t).getD (1, 0)).2

def isSym (t : Nat) : Bool := 1 ≤ t && t ≤ 8
def isHmac (t : Nat) : Bool := 6 ≤ t && t ≤ 8
def isEccPriv (t : Nat) : Bool := 0x10 ≤ t && t ≤ 0x19
def isRsaPriv (t : Nat) : Bool := 0x30 ≤ t && t ≤ 0x32
def isDsaPriv (t : Nat) : Bool := 0x40 ≤ t && t ≤ 0x42
def isDecap (t : Nat) : Bool := 0x48 ≤ t && t ≤ 0x4A
def isEncap (t : Nat) : Bool := 0x4C ≤ t && t ≤ 0x4E
def isVerifyKey (t : Nat) : Bool := (0x20 ≤ t && t ≤ 0x29) || (0x34 ≤ t && t ≤ 0x36) || (0x44 ≤ t && t ≤ 0x46)

/-- A public value, which R228 lets anyone give in clear. -/
def isPublicKey (t : Nat) : Bool := isVerifyKey t || isEncap t || t == 0x50

/-- The private key types that the device generates (R39, R349). -/
def isGenPriv (t : Nat) : Bool := isEccPriv t || isDsaPriv t || isDecap t

/-- The public type of a generated private type. -/
def publicType (t : Nat) : Nat :=
  if t = 0x15 then 0x25 else if t = 0x16 then 0x26 else if t = 0x17 then 0x27 else if t = 0x18 then 0x28
  else if t = 0x19 then 0x29 else if t = 0x13 then 0x23 else if t = 0x14 then 0x24
  else if t ≤ 0x12 then t + 0x10 else t + 4

/-- Usage bits of R214. -/
def uPinEnc : Nat := 0x0001
def uPinVer : Nat := 0x0002
def uMacGen : Nat := 0x0004
def uMacVer : Nat := 0x0008
def uWrap : Nat := 0x0010
def uUnwrap : Nat := 0x0020
def uDerive : Nat := 0x0040
def uSign : Nat := 0x0080
def uVerify : Nat := 0x0100
def uKem : Nat := 0x0200
def uHmac : Nat := 0x0400
def uBdk : Nat := 0x0800
def uCryptogram : Nat := 0x1000

/-- The usage families that a type can serve (R215; types that cannot serve a family by R308, R310, R311, R335, R346
are left out of it, DEDUCED, log 30). -/
def usageFamilies (t : Nat) : List Nat :=
  if isAes t ∨ t = 4 then [0x3, 0xC, 0x30, uDerive, uBdk, uCryptogram]
  else if t = 5 then [0x3, 0xC, 0x30, uDerive, uBdk]
  else if isHmac t then [uDerive, uHmac]
  else if t = 0x15 ∨ t = 0x17 ∨ isRsaPriv t ∨ isDsaPriv t then [uSign]
  else if t = 0x16 ∨ t = 0x18 then [uDerive]
  else if isEccPriv t then [uSign + uDerive]
  else if isVerifyKey t then [uVerify]
  else if isDecap t ∨ isEncap t then [uKem]
  else [0]

/-- R215 for a type and a usage mask. -/
def usageOk (t u : Nat) : Bool := (usageFamilies t).any (fun f => u &&& f == u)

/-! ### Handles -/

/-- The handle of a slot at its current generation (R216). -/
def Tack.handleOf (t : Tack) (slot : Nat) : Nat := slot + t.gen slot * 32768

/-- The key that a handle names, or the status of check 1 (R216, R218). -/
def State.named (s : State) (h : Nat) : Except Nat Key :=
  let c := h / 0x8000000
  if c ≠ 0 ∧ c ≠ 0x10 + s.pwr.cascadeId.toNat then .error stKeyAbsent
  else match s.tack.key? (h % 32768) with
    | none => .error stKeyAbsent
    | some k =>
      let g := h / 32768 % 4096
      let cur := s.tack.gen k.slot
      match k.st with
      | .revoked => if g = cur ∨ g + 1 = cur then .error stKeyRevoked else .error stKeyAbsent
      | .lost => .error stKeyAbsent
      | _ => if g = cur then .ok k else .error stKeyAbsent

/-- Every ancestor slot named by the parent chain holds the recorded generation (check 6). -/
def Tack.chainOk (t : Tack) : Nat → Option (Nat × Nat) → Bool
  | 0, _ => true
  | _, none => true
  | n + 1, some (p, g) => match t.key? p with
    | none => false
    | some k => t.gen p == g && t.chainOk n k.parent

/-- Slot ancestors of a key, at most three (R222). -/
def Tack.ancestors (t : Tack) : Nat → Option (Nat × Nat) → List Nat
  | 0, _ => []
  | _, none => []
  | n + 1, some (p, _) => p :: (match t.key? p with
    | none => []
    | some k => t.ancestors n k.parent)

/-- The load record of a key (R222). -/
def State.loadOf (s : State) (k : Key) : List Nat := k.slot :: s.tack.ancestors 3 k.parent

/-- The curve handle that a key of type 0x19 or 0x29 carries. -/
def Key.curve (k : Key) : Option Nat :=
  if k.typ = 0x19 then some (uLE k.secret 66 4) else if k.typ = 0x29 then some (uLE k.secret 132 4) else none

/-- The curve of such a key still stands (R320). -/
def State.curveHolds (s : State) (k : Key) : Bool :=
  match k.curve with
  | none => true
  | some h => match s.named h with
    | .ok c => c.typ == 0x50
    | .error _ => false

/-- A debug scope has been opened since the last full reset (R219 check 5, R462). -/
def State.debugSeen (s : State) : Bool := s.scopeOpen

/-- The shared-group membership of a paddock. -/
def State.padShared (s : State) (p : Nat) : Nat := match s.pad? p with
  | some q => q.shared.toNat
  | none => 0

/-- The world bit of a paddock: 3 PADDOCK, 2 SLICE (R219). -/
def padWorld (p : Nat) : Nat := if p < 256 then 3 else 2

/-- Check 3 of R219. For a PEER, `p` is the shared-group mask of the originating paddock (R408). -/
def State.ownerOk (s : State) (k : Key) (w p : Nat) : Bool :=
  if w = 4 then k.origin.isSome || (k.shared && p.testBit k.group)
  else (w != 2 && w != 3) || k.owner == p || (k.shared && (s.padShared p).testBit k.group)

/-- The check of R219 on one key: with check 6 or without it (R408), with EXHAUSTED passing check 8 or not (R226), world, paddock,
uses, needed usage, handle, the extra part of check 8 (R344) and of check 9 (the type rules of the lane chapters). -/
def State.checkKeyAt (s : State) (six spent : Bool) (w p uses usage h : Nat) (ok8 : Key → Bool) (ok9 : Key → Nat) :
    Except Nat Key :=
  match s.named h with
  | .error e => .error e
  | .ok k =>
    if !k.world.getLsbD w then .error stKeyDenied
    else if !s.ownerOk k w p then .error stKeyDenied
    else if !k.lcMask.getLsbD s.lcCode then .error stKeyDenied
    else if k.debugOff && s.debugSeen then .error stKeyDenied
    else if six ∧ (!s.tack.chainOk 4 k.parent ∨ !s.curveHolds k) then .error stKeyRevoked
    else if k.st = .draining then .error stKeyDraining
    else if (k.st = .exhausted ∧ !spent) ∨ (k.useLimit ≠ 0 ∧ k.useLimit < k.useCount + uses ∧ !spent) ∨ !ok8 k then .error stKeyExhausted
    else if usage ≠ 0 ∧ k.usage.toNat &&& usage = 0 then .error stKeyUsage
    else
      let e := ok9 k
      if e = 0 then .ok k else .error e

/-- An increment would take some slot of the run past 4,095 (R217). -/
def Tack.worn (t : Tack) (k : Key) : Bool := (List.range k.run).any (fun i => t.gen (k.slot + i) ≥ 4095)

/-- Strike at the next boundary (R232, R235, R238): slot and kind, 0 revoked, 1 erased, 2 debug opened. -/
def Tack.strike (t : Tack) (slot kind : Nat) : Tack := { t with strikes := t.strikes ++ [(slot, kind)] }

/-- Some key names the slot as its parent. -/
def Tack.hasChildren (t : Tack) (slot : Nat) : Bool :=
  t.keys.any (fun k => match k.parent with | some p => p.1 == slot | none => false)

/-- A change of a key with descendants queues a lineage sweep; at most one waits (R233). -/
def State.queueSweep (s : State) (slot : Nat) : State :=
  if s.tack.hasChildren slot ∧ !s.devJobs.any (fun d => d.what == .sweep && d.lane.isNone && d.taken == 0) then s.addDev .sweep
  else s

/-- A change that reaches a STACK-ONLY key of the master is sent to the members at the next boundary (R406): slot, kind
(0 REVOKE, 1 ERASE, 2 REWRITE, 3 DRAIN), generation before it. -/
def State.tellStack (s : State) (k : Key) (kind : Nat) : State :=
  if k.exportCls = 2 ∧ s.cas.role = .master then
    s.modCas (fun c => { c with changes := c.changes ++ [(k.slot, kind, s.tack.gen k.slot)] })
  else s

/-- REVOKE takes effect (R217, R231): the generation increments, the secret is zeroized, the run stays allocated; a worn
run is freed at once. -/
def State.revokeKey (s : State) (k : Key) : State :=
  let s := (s.tellStack k 0).queueSweep k.slot
  s.modTack (fun t =>
    let worn := t.worn k
    let t := (t.bumpRun k.slot k.run).strike k.slot 0
    if worn then t.remove k.slot
    else t.put { k with st := .revoked, secret := [], gen := t.gen k.slot, drainEnd := none })

/-- ERASE takes effect (R235). -/
def State.eraseKey (s : State) (k : Key) : State :=
  let s := (s.tellStack k 1).queueSweep k.slot
  s.modTack (fun t => ((t.bumpRun k.slot k.run).strike k.slot 1).remove k.slot)

/-- REWRITE takes effect with a new secret (R226, R235). -/
def State.rewriteKey (s : State) (k : Key) (secret : Bytes) : State :=
  let s := (s.tellStack k 2).queueSweep k.slot
  s.modTack (fun t =>
    let t := (t.bumpRun k.slot k.run).strike k.slot 1
    t.put { k with st := .active, secret := secret, gen := t.gen k.slot, useCount := 0, mark := 0 })

/-- Entries of the state cache in use (R251): a REVOKED key keeps its entry until its run is erased. -/
def State.stateCacheUsed (s : State) : Nat :=
  (s.tack.keys.filter (fun k => k.st != .lost &&
    (k.usage.toNat &&& uHmac != 0 || (isSym k.typ && k.usage.toNat &&& uDerive != 0)))).length

/-- Slots that a paddock owns (R231, R361). -/
def State.slotsOwned (s : State) (p : Nat) : Nat :=
  s.tack.keys.foldl (fun a k => if k.owner = p then a + k.run else a) 0

/-- The event of a key that becomes EXHAUSTED (0x10) or LOST (0x11) (R229, R449). -/
def State.keyEvent (s : State) (code : Nat) (k : Key) : State :=
  (s.latch 0 15).logEv (devDesc 2 (0x0200 + code) (s.tack.handleOf k.slot))

/-- A key becomes EXHAUSTED (R223). -/
def State.exhaust (s : State) (k : Key) : State :=
  (s.modTack (fun t => t.put { k with st := .exhausted })).keyEvent 0x10 k

/-- Take uses of a key (R223, R224): the count, the mark in MRAM, and EXHAUSTED at the limit. -/
def State.takeUses (s : State) (slot uses : Nat) : State :=
  match s.tack.key? slot with
  | none => s
  | some k =>
    let n := k.useCount + uses
    let mark := if k.persistent ∧ k.useLimit ≠ 0 ∧ k.mark < n then min k.useLimit (n - 1 + 1024) else k.mark
    let k := { k with useCount := n, mark := mark }
    let s := s.modTack (fun t => t.put k)
    if k.useLimit ≠ 0 ∧ k.useLimit ≤ n then s.exhaust k else s

/-! ### Attributes of a new key -/

/-- The 20 bytes of a template or of bytes 12 to 31 of an officer command (R247, R349). -/
def newKeyOf (b : Bytes) : NewKey :=
  { typ := u8 b 0, flags := u8 b 3, world := u8 b 6, lcMask := u8 b 7, usage := uLE b 8 2, owner := uLE b 10 2,
    limit := uLE b 12 7 }

/-- The fields the Tack Room sets are 0, and so are the reserved ones (R7, R214, R349). -/
def templateOk (b : Bytes) : Bool :=
  u8 b 1 == 0 && u8 b 2 == 0 && u8 b 3 % 8 == 0 && field (u8 b 3) 5 4 < 3 && uLE b 4 2 == 0 && u8 b 6 < 32 &&
    u8 b 7 < 64 && uLE b 8 2 < 0x2000 && uLE b 10 2 < 0x4000 && u8 b 19 == 0

/-- Looseness of an export class: NEVER, STACK-ONLY, WRAPPED (R227). -/
def exportRank (c : Nat) : Nat := if c = 0 then 0 else if c = 2 then 1 else 2

/-- The owner paddock of an owner field. -/
def NewKey.own (a : NewKey) : Nat := a.owner % 512

/-- R227 for a new key, with the limits of R251, R404 and R405: 0 or the failing status. `w` and `p` are the
requester's world and paddock; an officer has world 5. -/
def State.newKeyCheck (s : State) (w p : Nat) (parent : Option Key) (a : NewKey) : Nat :=
  let persistent := bitN a.flags 7
  let ex := field a.flags 5 4
  let pOk := match parent with
    | none => true
    | some k => k.depth < 4 && a.lcMask &&& k.lcMask.toNat == a.lcMask && exportRank ex ≤ exportRank k.exportCls &&
        (!persistent || k.persistent)
  let padded := w = 2 ∨ w = 3
  let quota := match s.pad? p with | some q => q.keyQuota | none => 0
  let cached := (a.usage &&& uHmac ≠ 0) ∨ (isSym a.typ ∧ a.usage &&& uDerive ≠ 0)
  if !pOk then stKeyDenied
  else if persistent ∧ s.tack.srk.isNone then stKeyAbsent
  else if padded ∧ (a.own ≠ p ∨ a.world ≠ 2 ^ w ∨ quota < s.slotsOwned p + keyRun a.typ) then stKeyDenied
  else if w = 5 ∧ bitN a.world 0 then stKeyDenied
  else if 2 ^ 48 < a.limit then stBadLength
  else if !usageOk a.typ a.usage ∨ (bitN a.flags 3 ∧ a.usage ≠ uBdk) then stKeyUsage
  else if cached ∧ 8192 ≤ s.stateCacheUsed then stKeyDenied
  else if ex = 2 ∧ s.cas.role = .member then stKeyDenied
  else if ex = 2 ∧ 2048 < s.tack.keys.foldl (fun n k => if k.exportCls = 2 then n + k.run else n) (keyRun a.typ) then
    stKeyDenied
  else 0

/-- The record of a new key; its slot and generation come with its place. -/
def makeKey (parent : Option Key) (t : Tack) (a : NewKey) (secret : Bytes) : Key :=
  { slot := 0, run := keyRun a.typ, typ := a.typ, st := .active,
    depth := match parent with | some k => k.depth + 1 | none => 1,
    initial := bitN a.flags 3, exportCls := field a.flags 5 4,
    debugOff := bitN a.flags 6 || (match parent with | some k => k.debugOff | none => false),
    persistent := bitN a.flags 7, gen := 0, world := BitVec.ofNat 5 a.world, lcMask := BitVec.ofNat 6 a.lcMask,
    usage := BitVec.ofNat 13 a.usage, owner := a.own, group := field a.owner 12 9, shared := bitN a.owner 13,
    parent := parent.map (fun k => (k.slot, t.gen k.slot)), useCount := 0, useLimit := a.limit, secret := secret,
    mark := 0, origin := none, drainEnd := none }

/-- Present members of the stack other than this device. -/
def State.members (s : State) : List Nat :=
  (List.range 8).filter (fun d => s.cas.present.getLsbD d && d != s.pwr.cascadeId.toNat)

/-- A STACK-ONLY key is sent to every present member, and its acknowledgements are awaited (R404). -/
def State.replicate (s : State) (k : Key) : State :=
  if k.exportCls = 2 ∧ s.cas.role = .master then
    let s := s.members.foldl (fun s d => s.linkSend d 1 (leN 4 (s.tack.handleOf k.slot))) s
    if s.members.isEmpty then s
    else s.modCas (fun c => { c with acksWaited := c.acksWaited.filter (fun a => a.1 != k.slot) ++ [(k.slot, s.now, s.members)] })
  else s

/-- Put a new key in its place: its slot, or `ST_KEY_DENIED` where no run fits. -/
def State.addKeyAt (s : State) (place : Option (Nat × Tack)) (k : Key) : Except Nat (State × Nat) :=
  match place with
  | none => .error stKeyDenied
  | some (slot, t) =>
    let k := { k with slot := slot, gen := t.gen slot }
    .ok ((s.modTack (fun _ => t.put k)).replicate k, slot)

/-- Place a new key (R213). -/
def State.addKey (s : State) (k : Key) : Except Nat (State × Nat) := s.addKeyAt (s.place k.run (k.world.getLsbD 0)) k

/-- The default check value of a key (R288, R289). -/
def State.defaultKcv (s : State) (t : Nat) (secret : Bytes) : Bytes :=
  kcvOf t (s.valU (mkKey 0x6030 0x01) == 0) secret

/-- A request that draws on the DRBG completes with `ST_ENTROPY` while a test has failed (R246). -/
def State.drbgFails (s : State) : Bool := !s.tack.drbgOk

/-- A fresh secret of a type from one draw, whose bytes are free (R246, log 10); whether CREATE takes a TDEA value is its own check
(R279). -/
def State.freshSecret (s : State) (t : Nat) : Bytes × State :=
  if isSym t then s.draw (keyLen t)
  else
    let d := s.draw 96
    (Config.keyFrom t d.1, d.2)

/-- The TDEA halves that R279 refuses. -/
def tdeaWeak (t : Nat) (key : Bytes) : Bool :=
  let np := fun (b : Bytes) => b.map (· &&& 0xFE)
  (isTdea t && np (slice key 0 8) == np (slice key 8 8)) || (t == 5 && np (slice key 8 8) == np (slice key 16 8))

end Sys2Proof.Machine
end

