-- ==== Sys2Proof/Machine/Accept.lean ====
section
/-! DEFINITION. Descriptors: the checks at acceptance, the header of a source, and the class, lane kind and step count of
a job (R12, R13, R38 to R40, R253 to R259, R282 to R293, R303 to R306, R331 to R355, R373, R374, R380). -/

namespace Sys2Proof.Machine

open Sys2Proof

/-- The defined opcodes (R331). -/
def opDefined (op : Nat) : Bool :=
  (0x10 ≤ op && op ≤ 0x13) || op == 0x20 || op == 0x21 || op == 0x28 || op == 0x29 || (0x30 ≤ op && op ≤ 0x3B) ||
    (0x40 ≤ op && op ≤ 0x49) || (0x50 ≤ op && op ≤ 0x58) || op == 0x70

/-- The family bit of an opcode (R361). -/
def opFamily (op : Nat) : Nat :=
  if op < 0x20 then 0 else if op < 0x28 then 1 else if op < 0x30 then 2 else if op < 0x40 then 3
  else if op < 0x50 then 4 else if op < 0x60 then 5 else 6

/-- Jobs that take no step (R349). A KEY_STORE_PUBLIC that loads a curve or checks a subgroup takes steps. -/
def opNoStep (op : Nat) : Bool := op == 0x36 || op == 0x37 || op == 0x39 || op == 0x3B

/-- Compare forms, whose destination is read (R253). -/
def opCompare (op : Nat) : Bool := op == 0x42 || op == 0x43 || op == 0x48

/-- Jobs of the digest family that name a stream (R253). -/
def opStream (op : Nat) : Bool := 0x46 ≤ op && op ≤ 0x49

/-- The hash of an algorithm code of R254. -/
def hashOfCode (c : Nat) : HashAlg := if c = 1 then .sha256 else if c = 2 then .sha384 else .sha512

/-- Jobs whose value has no inline place, which therefore need a destination address (R333, R353). -/
def opNeedsDest (op : Nat) : Bool := op == 0x31 || op == 0x34 || op == 0x54 || op == 0x55 || op == 0x56

/-! ### Public-key algorithms -/

/-- Signing codes of R303. -/
def algSigns (a : Nat) : Bool :=
  (1 ≤ a && a ≤ 6) || a == 8 || a == 9 || (0x10 ≤ a && a ≤ 0x12) || (0x14 ≤ a && a ≤ 0x16) ||
    (0x20 ≤ a && a ≤ 0x22) || (0x24 ≤ a && a ≤ 0x26)

/-- ECDSA and ECDH codes on short Weierstrass curves. -/
def algEc (a : Nat) : Bool := 1 ≤ a && a ≤ 6

/-- RSA codes. -/
def algRsa (a : Nat) : Bool := (0x10 ≤ a && a ≤ 0x12) || (0x14 ≤ a && a ≤ 0x16)

/-- ML-DSA codes, either form. -/
def algDsa (a : Nat) : Bool := (0x20 ≤ a && a ≤ 0x22) || (0x24 ≤ a && a ≤ 0x26)

/-- ML-KEM codes. -/
def algKem (a : Nat) : Bool := 0x28 ≤ a && a ≤ 0x2A

/-- The algorithms of each public-key opcode (R353). -/
def opAlg (op a : Nat) : Bool :=
  if op = 0x50 ∨ op = 0x51 then algSigns a
  else if op = 0x52 then algSigns a && !(a == 8 || a == 9 || (0x20 ≤ a && a ≤ 0x22))
  else if op = 0x53 then algEc a || a == 0x0A || a == 0x0B
  else algKem a

/-- The private key types that serve a code (R303). -/
def algPriv (a t : Nat) : Bool :=
  if a ≤ 3 then t == 0x0F + a else if a ≤ 5 then t == 0x0F + a else if a = 6 then t == 0x19
  else if a = 8 then t == 0x15 else if a = 9 then t == 0x17 else if a = 0x0A then t == 0x16
  else if a = 0x0B then t == 0x18 else if algRsa a then isRsaPriv t
  else if algDsa a then t == 0x40 + a % 4 else t == 0x48 + (a - 0x28)

/-- The public key types that serve a code (R303). -/
def algPub (a t : Nat) : Bool :=
  if a ≤ 5 then t == 0x1F + a else if a = 6 then t == 0x29 else if a = 8 then t == 0x25 else if a = 9 then t == 0x27
  else if a = 0x0A then t == 0x26 else if a = 0x0B then t == 0x28 else if algRsa a then 0x34 ≤ t && t ≤ 0x36
  else if algDsa a then t == 0x44 + a % 4 else t == 0x4C + (a - 0x28)

/-- The public key type that an inline key of a code has. `k` is the modulus length for RSA. -/
def inlineType (a k : Nat) : Nat :=
  if a ≤ 5 then 0x1F + a else if a = 6 then 0x29 else if a = 8 then 0x25 else if a = 9 then 0x27
  else if a = 0x0A then 0x26 else if a = 0x0B then 0x28
  else if algRsa a then (if k = 256 then 0x34 else if k = 384 then 0x35 else 0x36)
  else if algDsa a then 0x44 + a % 4 else 0x4C + (a - 0x28)

/-- Bytes that hold a number. -/
def byteLen (v : Nat) : Nat := if v = 0 then 0 else Nat.log2 v / 8 + 1

/-- Fields of a curve parameter set (R212, R318). -/
def curveP (c : Bytes) : Nat := ofBE (slice c 0 66)

/-- The order of a curve parameter set. -/
def curveN (c : Bytes) : Nat := ofBE (slice c 330 66)

/-- The cofactor of a curve parameter set. -/
def curveH (c : Bytes) : Nat := u8 c 396

/-- The parameter set that a handle names, as public state (R285's reading, log 31). -/
def State.curveAt (s : State) (h : Nat) : Option Bytes := match s.named h with
  | .ok k => if k.typ = 0x50 then some k.secret else none
  | .error _ => none

/-- The type recorded in the slot that a handle names, as public state (R285). -/
def State.typeAt (s : State) (h : Nat) : Option Nat := match s.named h with
  | .ok k => some k.typ
  | .error _ => none

/-- Lp and Ln of R305 for a curve code. -/
def State.curveLens (s : State) (a keyB : Nat) : Option (Nat × Nat) :=
  if a = 1 ∨ a = 4 then some (32, 32) else if a = 2 ∨ a = 5 then some (48, 48) else if a = 3 then some (66, 66)
  else (s.curveAt keyB).map (fun c => (byteLen (curveP c), byteLen (curveN c)))

/-- Hash length of an RSA code. -/
def rsaHash (a : Nat) : Nat := if a % 4 = 0 then 32 else if a % 4 = 1 then 48 else 64

/-- Modulus length of an RSA key type. -/
def rsaK (t : Nat) : Nat := if t % 4 = 0 then 256 else if t % 4 = 1 then 384 else 512

/-- Signature lengths: EdDSA and ML-DSA. -/
def dsaSigLen (a : Nat) : Nat := if a % 4 = 0 then 2420 else if a % 4 = 1 then 3309 else 4627

/-- Public key lengths of ML-DSA. -/
def dsaPubLen (a : Nat) : Nat := if a % 4 = 0 then 1312 else if a % 4 = 1 then 1952 else 2592

/-- Ciphertext lengths of ML-KEM (R305). -/
def kemCtLen (a : Nat) : Nat := if a = 0x28 then 768 else if a = 0x29 then 1088 else 1568

/-- Encapsulation key lengths of ML-KEM. -/
def kemEkLen (a : Nat) : Nat := if a = 0x28 then 800 else if a = 0x29 then 1184 else 1568

/-- The lengths a signing source may have (R305). -/
def signSrcOk (a n : Nat) : Bool :=
  if algEc a then n == 32 || n == 48 || n == 64
  else if a = 8 ∨ a = 9 then n ≤ 1024
  else if algRsa a then n == rsaHash a
  else if 0x24 ≤ a then n == 64
  else 1 ≤ n && n ≤ 4352

/-- Modulus lengths an RSA job may mean: that of the stored key, any where the key is inline or unknown (R305). -/
def State.rsaKs (s : State) (h : Nat) : List Nat := match (if h = 0 then none else s.typeAt h) with
  | some t => if isRsaPriv t ∨ (0x34 ≤ t ∧ t ≤ 0x36) then [rsaK t] else [256, 384, 512]
  | none => [256, 384, 512]

/-- The result lengths a signature of a code may have; empty where the curve is unknown. -/
def State.sigLens (s : State) (a keyA keyB : Nat) : List Nat :=
  if algEc a then (match s.curveLens a keyB with | some l => [2 * l.2] | none => [])
  else if a = 8 then [64] else if a = 9 then [114]
  else if algRsa a then s.rsaKs keyA
  else [dsaSigLen a]

/-- The length of a verification's source fits R305. -/
def State.verifySrcOk (s : State) (a keyA keyB n : Nat) : Bool :=
  let il := keyA == 0
  if algEc a then match s.curveLens a keyB with
    | none => true
    | some l => let base := (if il then 2 * l.1 else 0) + 2 * l.2
                base ≤ n && signSrcOk a (n - base)
  else if a = 8 ∨ a = 9 then
    let base := if a = 8 then (if il then 96 else 64) else (if il then 171 else 114)
    base ≤ n && n ≤ base + 1024
  else if algRsa a then (s.rsaKs keyA).any (fun k => n == (if il then 2 * k else k) + rsaHash a)
  else
    let base := (if il then dsaPubLen a else 0) + dsaSigLen a
    base ≤ n && signSrcOk a (n - base)

/-! ### Frame counts (R39, R40) -/

/-- Frame counts of a curve row: sign, verify, ECDH. -/
def curveFrames (c : Nat) : Nat × Nat × Nat :=
  if c = 1 then (16, 40, 30) else if c = 2 then (36, 92, 70) else if c = 3 then (80, 210, 160)
  else if c = 4 then (20, 48, 36) else if c = 5 then (44, 110, 84) else (96, 250, 190)

/-- The row of a custom curve by the bit length of its prime (R39). -/
def customRow (p : Nat) : Nat :=
  let bits := if p = 0 then 0 else Nat.log2 p + 1
  if bits ≤ 256 then 4 else if bits ≤ 384 then 5 else 6

/-- The curve row of a code; an unknown custom curve takes the last row. -/
def State.curveRow (s : State) (a keyB : Nat) : Nat :=
  if a < 6 then a else match s.curveAt keyB with
    | some c => customRow (curveP c)
    | none => 6

/-- Frames of a signature. -/
def State.signFrames (s : State) (a keyA keyB k : Nat) : Nat :=
  if algEc a then (curveFrames (s.curveRow a keyB)).1
  else if a = 8 then 14 else if a = 9 then 40
  else if algRsa a then
    let k := match s.typeAt keyA with | some t => if isRsaPriv t then rsaK t else k | none => k
    if k = 256 then 640 else if k = 384 then 1900 else 4300
  else if a % 4 = 0 then 56 else if a % 4 = 1 then 80 else 112

/-- Frames of a verification; `n` is the source length. -/
def State.verifyFrames (s : State) (a keyA keyB n : Nat) : Nat :=
  if algEc a then (curveFrames (s.curveRow a keyB)).2.1
  else if a = 8 then 36 else if a = 9 then 100
  else if algRsa a then
    let k := if keyA = 0 then (n - rsaHash a) / 2 else n - rsaHash a
    if k = 256 then 24 else if k = 384 then 50 else 86
  else if a % 4 = 0 then 4 else if a % 4 = 1 then 6 else 9

/-- Frames of an ECDH or of a key-pair generation on the same row. -/
def State.ecdhFrames (s : State) (a keyB : Nat) : Nat :=
  if a = 0x0A ∨ a = 8 then 24 else if a = 0x0B ∨ a = 9 then 60 else (curveFrames (s.curveRow a keyB)).2.2

/-- The code of a generated private type. -/
def algOfPriv (t : Nat) : Nat :=
  if t ≤ 0x14 then t - 0x0F else if t = 0x15 then 8 else if t = 0x16 then 0x0A else if t = 0x17 then 9
  else if t = 0x18 then 0x0B else 6

/-- Frames of a key-pair generation. -/
def State.genFrames (s : State) (t keyB : Nat) : Nat :=
  if isDsaPriv t then (if t = 0x40 then 6 else if t = 0x41 then 8 else 12)
  else if isDecap t then (if t = 0x48 then 2 else if t = 0x49 then 3 else 4)
  else s.ecdhFrames (algOfPriv t) keyB

/-- Steps of a KEM job: decapsulation, encapsulation. -/
def kemFrames (a : Nat) : Nat × Nat := if a = 0x28 then (3, 2) else if a = 0x29 then (4, 3) else (5, 4)

/-! ### Counts of the block and digest lanes -/

/-- Padded block count of a MAC (R283). -/
def macBlocks (method n m : Nat) : Nat := if method = 3 ∨ method = 5 then m / n + 1 else max 1 (ceilDiv m n)

/-- Compressions of a whole message with its padding, and the outer one of an HMAC (R256). -/
def digestK (a : HashAlg) (keyed : Bool) (m : Nat) : Nat :=
  ceilDiv (m + (if a.block = 64 then 9 else 17)) a.block + b2n keyed

/-- Steps of k compressions (R256). -/
def digestSteps (a : HashAlg) (k : Nat) : Nat := max 1 (ceilDiv k (if a.block = 64 then 9 else 6))

/-! ### The job of a descriptor -/

/-- The job that a descriptor spells, before any check (R373). -/
def jobOf (id pad pgen group : Nat) (pushed : Bool) (now : Nat) (d : Bytes) : Job :=
  let fl := u8 d 1
  let inl := bitN fl 0
  let srcLen := if inl then u8 d 61 else uLE d 24 8
  let op := u8 d 0
  { id := id, src := .paddock, pad := pad, pgen := pgen, group := group, op := op, tag := uLE d 2 2,
    ring := field fl 2 1, pushed := pushed, quiet := bitN fl 3, inl := inl, keyA := uLE d 4 4, keyB := uLE d 56 4,
    param := u8 d 60, srcLen := srcLen, dstLen := if inl then u8 d 62 else uLE d 32 4,
    dstAddr := if inl then 0 else uLE d 16 8, data := if inl then slice d 8 (min srcLen 48) else [], short := false,
    ready := false, readyAt := 0, accAt := now, cls := 1, clsTyp := none, kind := .block, steps := 1, taken := 0, segmented := false,
    lane := none, lastLane := 0xFFFF, loadedA := none, loadedB := none, begun := false, held := false, drawNo := 0,
    status := none, result := [], dest := [], resLen := 0, newKey := none, settled := false, completeAt := none,
    forwarded := none, passed := 0, waitsLog := false, acks := [] }

/-- The fields that a job uses: key A, key B, source, destination length, destination address (R332). -/
def opUses (op param keyA : Nat) : Bool × Bool × Bool × Bool × Bool :=
  match op with
  | 0x10 => (true, true, true, false, false)
  | 0x11 => (true, true, true, false, false)
  | 0x12 => (true, true, true, false, false)
  | 0x13 => (true, true, true, false, false)
  | 0x20 => (true, false, true, true, true)
  | 0x21 => (true, false, true, true, false)
  | 0x28 => (true, false, true, false, false)
  | 0x29 => (true, false, true, false, false)
  | 0x30 => (false, false, true, false, false)
  | 0x31 => (false, true, true, true, true)
  | 0x32 => (true, false, true, false, false)
  | 0x33 => (true, false, true, false, false)
  | 0x34 => (true, true, false, true, true)
  | 0x35 => (true, false, true, false, false)
  | 0x36 => (true, false, false, false, false)
  | 0x37 => (true, false, false, false, false)
  | 0x38 => (true, false, false, false, false)
  | 0x39 => (true, false, true, false, false)
  | 0x3A => (true, false, false, false, false)
  | 0x3B => (false, true, true, false, false)
  | 0x40 => (false, false, true, true, true)
  | 0x41 => (true, false, true, true, true)
  | 0x42 => (false, false, true, true, true)
  | 0x43 => (true, false, true, true, true)
  | 0x44 => (false, false, false, false, false)
  | 0x45 => (true, false, false, false, false)
  | 0x46 => (false, true, true, false, false)
  | 0x47 => (false, true, true, true, true)
  | 0x48 => (false, true, true, true, true)
  | 0x49 => (false, true, false, false, false)
  | 0x50 => (true, param == 6, true, true, true)
  | 0x51 => (true, param == 6, true, false, false)
  | 0x52 => (true, param == 6, true, true, false)
  | 0x53 => (true, param == 6, true, false, false)
  | 0x54 => (false, false, true, true, true)
  | 0x55 => (true, false, keyA == 0, true, true)
  | 0x56 => (true, false, keyA == 0, true, true)
  | 0x57 => (true, false, true, false, false)
  | 0x58 => (true, false, true, false, false)
  | _ => (false, false, false, true, true)

/-- The parameter byte holds a code the opcode defines (R254, R282, R288, R303, R340, R342, R347, R349). -/
def paramOk (op p : Nat) : Bool :=
  if op = 0x11 ∨ op = 0x12 then p == 1 || p == 2
  else if op = 0x20 ∨ op = 0x21 then 1 ≤ p && p ≤ 5
  else if op = 0x28 then p < 2
  else if op = 0x29 then p < 16 && p % 4 < 2 && (p / 4 == 1 || p / 4 == 2)
  else if op = 0x35 then p == 0 || p == 2
  else if op = 0x3A then p < 3
  else if 0x40 ≤ op ∧ op ≤ 0x45 then 1 ≤ p && p ≤ 3
  else if 0x50 ≤ op ∧ op ≤ 0x58 then opAlg op p
  else p == 0

/-- Order 2 of R380: flags, reserved fields, padding, seal, ring, unused fields, addresses, codes (R332, R373, R374). A KCV job that
declares source data is left to order 3 (R293). -/
def Job.formatOk (j : Job) (d : Bytes) (ring : Option Nat) : Bool :=
  let u := opUses j.op j.param j.keyA
  u8 d 1 < 16 && u8 d 63 == 0xA5 && (match ring with | some r => r == j.ring | none => true) &&
  (if j.inl then j.srcLen > 48 || allZero (slice d (8 + j.srcLen) (48 - j.srcLen))
   else allZero (slice d 36 20) && u8 d 61 == 0 && u8 d 62 == 0 && (j.srcLen == 0 || uLE d 8 8 != 0) &&
        (u.2.2.1 || uLE d 8 8 == 0 || (j.op == 0x3A && j.srcLen != 0))) &&
  paramOk j.op j.param &&
  (u.1 || j.keyA == 0) && (u.2.1 || j.keyB == 0) && (u.2.2.1 || j.srcLen == 0 || j.op == 0x3A) &&
  (u.2.2.2.1 || j.dstLen == 0) && (u.2.2.2.2 || j.dstAddr == 0) &&
  !((opNeedsDest j.op || opCompare j.op) && j.dstAddr == 0)

/-- The block size that bounds T, from the type read at acceptance (R284, R285). -/
def State.macBlock (s : State) (h : Nat) : Nat := match s.typeAt h with
  | some t => if isTdea t then 8 else 16
  | none => 16

/-- Message length of a MAC job (R345). -/
def Job.macLen (j : Job) : Nat := if j.op = 0x21 then j.srcLen - j.dstLen else j.srcLen

/-- Order 3 of R380: the lengths of the opcode (R254, R259, R293, R306, R338, R342, R345, R347, R349, R354, R355). -/
def State.lengthOk (s : State) (j : Job) : Bool :=
  let n := j.srcLen
  let full := (hashOfCode j.param).len
  !(j.inl && 48 < n) &&
  match j.op with
  | 0x10 => n == 32
  | 0x11 => n == 48
  | 0x12 => n == 48
  | 0x13 => n == 32
  | 0x20 => 4 ≤ j.dstLen && j.dstLen ≤ s.macBlock j.keyA && n ≤ (if j.param = 1 then 1048576 else 65536)
  | 0x21 => 4 ≤ j.dstLen && j.dstLen ≤ s.macBlock j.keyA && j.dstLen ≤ n &&
            j.macLen ≤ (if j.param = 1 then 1048576 else 65536)
  | 0x28 => 49 ≤ n && n ≤ 240
  | 0x29 => 49 ≤ n && n ≤ 240
  | 0x30 => n == 20
  | 0x31 => n == 20
  | 0x32 => 20 ≤ n
  | 0x33 => 20 ≤ n
  | 0x35 => if j.param = 0 then 24 ≤ n && n ≤ 152 else n == 28 || n == 30
  | 0x39 => n == 4
  | 0x3A => n == 0
  | 0x3B => 20 ≤ n
  | 0x40 => n ≤ 4294967296 && j.dstLen == (if j.dstAddr = 0 then 0 else full)
  | 0x41 => n ≤ 4294967296 && j.dstLen == (if j.dstAddr = 0 then 0 else full)
  | 0x42 => n ≤ 4294967296 && j.dstLen == full
  | 0x43 => n ≤ 4294967296 && 16 ≤ j.dstLen && j.dstLen ≤ full
  | 0x46 => 1 ≤ n && n ≤ 4294967296
  | 0x47 => n ≤ 4294967296
  | 0x48 => n ≤ 4294967296 && 16 ≤ j.dstLen && j.dstLen ≤ 64
  | 0x50 => signSrcOk j.param n && (let l := s.sigLens j.param j.keyA j.keyB; l.isEmpty || l.contains j.dstLen)
  | 0x51 => s.verifySrcOk j.param j.keyA j.keyB n
  | 0x52 => 1 ≤ j.dstLen && j.dstLen ≤ 64 && n % j.dstLen == 0 &&
            s.verifySrcOk j.param j.keyA j.keyB (n / j.dstLen)
  | 0x53 => if j.param = 0x0A then n == 32 else if j.param = 0x0B then n == 56
            else match s.curveLens j.param j.keyB with | some l => n == 2 * l.1 | none => true
  | 0x54 => n == kemEkLen j.param && j.dstLen == kemCtLen j.param + 32
  | 0x55 => n == (if j.keyA = 0 then kemEkLen j.param else 0) && j.dstLen == kemCtLen j.param
  | 0x56 => n == (if j.keyA = 0 then kemEkLen j.param else 0) && j.dstLen == kemCtLen j.param
  | 0x57 => n == kemCtLen j.param
  | 0x58 => n == kemCtLen j.param
  | 0x70 => 1 ≤ j.dstLen && j.dstLen ≤ 65536 && (j.dstAddr != 0 || j.dstLen ≤ 16)
  | _ => true

/-! ### Headers of sources (R334) -/

/-- PIN format codes. -/
def pinFormat (f : Nat) : Bool := f == 0 || f == 1 || f == 3 || f == 4

/-- Index of a format in `yard.txn.pin_matrix` (R337). -/
def pinIndex (f : Nat) : Nat := if f = 0 then 0 else if f = 1 then 1 else if f = 3 then 2 else 3

/-- The nibbles of a string, high nibble first. -/
def nibbles (b : Bytes) : List Nat := b.flatMap (fun x => [x.toNat / 16, x.toNat % 16])

/-- A PAN field: digits, then nibbles F (R338, R347). -/
def panOk (len : Nat) (b : Bytes) : Bool :=
  let n := nibbles b
  (n.take len).all (· < 10) && (n.drop len).all (· == 15)

/-- An 8-byte block in a 16-byte field has zeros after it. -/
def pinField (f : Nat) (b : Bytes) : Bool := f == 4 || allZero (slice b 8 8)

/-- Header rules of the PIN jobs (R337, R338, R342). -/
def State.pinHeader (s : State) (j : Job) : Bool :=
  let d := j.data
  let f := u8 d 0
  let g := u8 d 1
  let pl := u8 d 2
  let needs := j.op = 0x13 ∨ (j.op = 0x11 ∧ j.param = 2) ∨ f ≠ 1 ∨
    ((j.op = 0x10 ∨ j.op = 0x12 ∨ (j.op = 0x11 ∧ j.param = 1)) ∧ g ≠ 1)
  let matrix := bitN (s.valU (mkKey 0x6050 0x01)) (4 * pinIndex f + pinIndex g)
  pinFormat f && (if pl = 0 then !decide needs else 12 ≤ pl && pl ≤ 19) && u8 d 3 == 0 && panOk pl (slice d 4 10) &&
  allZero (slice d 14 2) && pinField f (slice d 16 16) &&
  (match j.op with
   | 0x10 => pinFormat g && matrix
   | 0x11 => if j.param = 1 then pinFormat g && pinField g (slice d 32 16) else g == 0 && allZero (slice d 36 12)
   | 0x12 => pinFormat g && matrix &&
             (if j.param = 1 then f == 4 && allZero (slice d 44 4) else f != 4 && allZero (slice d 42 6))
   | _ => g == 0)

/-- Header of a cryptogram job: 0 or the failing status (R347). -/
def arqcHeader (j : Job) : Nat :=
  let d := j.data
  let m := j.param / 4
  let n := u8 d 14
  let pal := u8 d 15
  if !(12 ≤ u8 d 0 && u8 d 0 ≤ 19 && panOk (u8 d 0) (slice d 1 10) && u8 d 11 / 16 < 10 && u8 d 11 % 16 < 10 &&
      1 ≤ n && n ≤ 192 && pal ≤ 8 && (pal == 0 || m == 2) &&
      (m == 2 || allZero (slice d 26 2)) && (m != 0 || allZero (slice d 24 4)) &&
      allZero (slice d (28 + pal) (8 - pal)) && allZero (slice d 36 12)) then stBadFormat
  else if j.srcLen ≠ 48 + n then stBadLength
  else 0

/-- A hexadecimal digit in ASCII. -/
def hexVal (x : Byte) : Option Nat :=
  let v := x.toNat
  if 0x30 ≤ v ∧ v ≤ 0x39 then some (v - 0x30) else if 0x41 ≤ v ∧ v ≤ 0x46 then some (v - 0x37)
  else if 0x61 ≤ v ∧ v ≤ 0x66 then some (v - 0x57) else none

/-- Bytes of a hexadecimal string. -/
def hexBytes : Bytes → Option Bytes
  | [] => some []
  | [_] => none
  | a :: b :: r => match hexVal a, hexVal b, hexBytes r with
    | some x, some y, some t => some (BitVec.ofNat 8 (16 * x + y) :: t)
    | _, _, _ => none

/-- The bytes of an optional block at `o` (R239, log 8): two hexadecimal digits, or, where they are 00, a number whose width in
bytes the next two digits give. -/
def kbOptLen (b : Bytes) (o : Nat) : Option Nat :=
  match hexBytes (slice b (o + 2) 2) with
  | some [l] =>
    if l.toNat ≠ 0 then (if l.toNat < 4 then none else some l.toNat)
    else match hexBytes (slice b (o + 4) 2) with
      | some [w] => match hexBytes (slice b (o + 6) (2 * w.toNat)) with
        | some v => if v.length ≠ w.toNat ∨ ofBE v < 6 + 2 * w.toNat then none else some (ofBE v)
        | none => none
      | _ => none
  | _ => none

/-- The optional blocks of a key block end here: `n` blocks from `o`, skipped (R239). -/
def kbOptEnd (b : Bytes) : Nat → Nat → Option Nat
  | 0, o => some o
  | n + 1, o => match kbOptLen b o with
    | some l => if b.length < o + l then none else kbOptEnd b n (o + l)
    | none => none

/-- A number in ASCII decimal digits; `none` where they are no digits. -/
def decVal (b : Bytes) : Option Nat :=
  if b.all (fun x => 0x30 ≤ x.toNat && x.toNat ≤ 0x39) then some (b.foldl (fun a x => 10 * a + (x.toNat - 0x30)) 0) else none

/-- A key block taken apart (R239): header with its optional blocks, encrypted payload, MAC. -/
structure KeyBlock where
  version : Nat
  header : Bytes
  payload : Bytes
  mac : Bytes
  deriving DecidableEq, Repr

/-- Take an X9.143 key block apart; `none` for a malformed header. -/
def keyBlockOf (b : Bytes) : Option KeyBlock :=
  let v := u8 b 0
  let macLen := if v = 0x44 then 32 else 16
  let unit := if v = 0x44 then 16 else 8
  match decVal (slice b 1 4), decVal (slice b 12 2), decVal (slice b 14 2) with
  | some n, some c, some r =>
    if n ≠ b.length ∨ n < 16 + macLen ∨ r ≠ 0 then none
    else match kbOptEnd b c 16 with
      | none => none
      | some o =>
        if o % unit ≠ 0 ∨ n < o + macLen + 2 * unit then none
        else match hexBytes (slice b o (n - macLen - o)), hexBytes (b.drop (n - macLen)) with
          | some p, some m => if p.length % unit = 0 then
              some { version := v, header := b.take o, payload := p, mac := m } else none
          | _, _ => none
  | _, _, _ => none

/-- The data of an officer's IMPORT is a key block, well-formed or not, and no RFC 5649 blob: its first byte is a version ID and its
16 header bytes are printable (R239, R247; DESIGN CHOICE, log 107). -/
def looksKeyBlock (b : Bytes) : Bool :=
  0x41 ≤ u8 b 0 && u8 b 0 ≤ 0x44 && 16 ≤ b.length && (b.take 16).all (fun x => 0x20 ≤ x.toNat && x.toNat < 0x7F)

/-- The private and public key types that a template of R349 may name, by opcode. -/
def templateType (op t : Nat) : Bool :=
  match op with
  | 0x30 => isSym t
  | 0x31 => isGenPriv t
  | 0x3B => keyDefined t
  | 0x33 => keyDefined t
  | 0x32 => t == 0 || keyDefined t
  | _ => keyDefined t

/-- Header of a source: 0 or the status of its first fault (R334, R349, R351). -/
def State.headerCheck (s : State) (j : Job) : Nat :=
  let d := j.data
  let t := newKeyOf d
  if j.op ≤ 0x13 then (if s.pinHeader j then 0 else stBadFormat)
  else if j.op = 0x28 ∨ j.op = 0x29 then arqcHeader j
  else if j.op = 0x30 ∨ j.op = 0x31 ∨ j.op = 0x32 ∨ j.op = 0x33 ∨ j.op = 0x35 ∨ j.op = 0x3B then
    if !templateOk (d.take 20) ∨ !templateType j.op t.typ then stBadFormat
    else if j.op = 0x31 then
      if t.typ ≠ 0x19 ∧ j.keyB ≠ 0 then stBadFormat
      else if j.dstLen ≠ keyLen (publicType t.typ) then stBadLength else 0
    else if j.op = 0x32 then
      match keyBlockOf (d.drop 20) with
      | none => stBadFormat
      | some k => if k.version = 0x44 ∨ k.version = 0x42 then 0 else stBadFormat
    else if j.op = 0x33 then
      if j.srcLen < 36 ∨ (j.srcLen - 20) % 8 ≠ 0 then stBadLength else 0
    else if j.op = 0x35 then
      if j.param = 0 then
        if u8 d 22 ≠ 0 ∨ u8 d 23 ≠ 0 then stBadFormat
        else if 64 < u8 d 20 ∨ 64 < u8 d 21 ∨ j.srcLen ≠ 24 + u8 d 20 + u8 d 21 then stBadLength else 0
      else 0
    else if j.op = 0x3B then
      if j.keyB ≠ 0 ∧ t.typ ≠ 0x29 ∧ t.typ ≠ 0x19 then stBadFormat
      else if isPublicKey t.typ ∧ j.srcLen ≠ 20 + keyLen t.typ then stBadLength else 0
    else 0
  else if j.op = 0x39 then
    if ofLE d = 0 ∨ 8192 < ofLE d then stBadLength else 0
  else if j.op = 0x50 ∧ 0x20 ≤ j.param ∧ j.param ≤ 0x22 then
    if j.srcLen < 1 + u8 d 0 ∨ 1 + u8 d 0 + 4096 < j.srcLen then stBadLength else 0
  else if j.op = 0x51 ∧ 0x20 ≤ j.param ∧ j.param ≤ 0x22 then
    let base := (if j.keyA = 0 then dsaPubLen j.param else 0) + dsaSigLen j.param
    let c := u8 d base
    if j.srcLen < base + 1 + c ∨ base + 1 + c + 4096 < j.srcLen then stBadLength else 0
  else 0

/-! ### Class, lane kind and steps -/

/-- Encrypted payload of a key block in 16-byte blocks; one step for a TDEA KEK (R38, R292). -/
def kbSteps (payload : Nat) : Nat := max 1 (ceilDiv (ceilDiv payload 16) 24)

/-- The payload of an exported key block: a 2-byte length, the key and padding to whole blocks (R239). -/
def kbPayload (unit len : Nat) : Nat := unit * ceilDiv (len + 2) unit

/-- The type that a template names; where none of a curve load's 417 bytes has come, its declared length names it (R317, DEDUCED,
log 105). -/
def Job.template (j : Job) : Nat := if j.op = 0x3B ∧ j.data.isEmpty ∧ j.srcLen = 417 then 0x50 else u8 j.data 0

/-- Set class, lane kind and steps under R38 and the chapter tables. Called at acceptance and when the header arrives. -/
def State.shape (s : State) (j : Job) : Job :=
  let one := fun (c : Nat) (k : LaneKind) (n : Nat) => { j with cls := c, kind := k, steps := n, segmented := false }
  let a := j.param
  let pkKind : LaneKind := if 0x20 ≤ a then .lattice else .pk
  let t := j.template
  match j.op with
  | 0x20 | 0x21 =>
    let n := s.macBlock j.keyA
    let m := j.macLen
    let j := { j with clsTyp := s.typeAt j.keyA }
    let one := fun (c : Nat) (k : LaneKind) (n : Nat) => { j with cls := c, kind := k, steps := n, segmented := false }
    if m ≤ (if n = 16 then 768 else 256) then one 1 .block 1
    else { j with cls := 4, kind := .block, segmented := true,
                  steps := ceilDiv (macBlocks a n m) (if n = 16 then 48 else 32) }
  | 0x31 => one 2 (if 0x40 ≤ t then .lattice else .pk) (s.genFrames t j.keyB)
  | 0x32 => one 1 .block (match keyBlockOf (j.data.drop 20) with
      | some k => if k.version = 0x42 then 1 else kbSteps k.payload.length
      | none => 1)
  | 0x33 => one 1 .block (kbSteps (j.srcLen - 20))
  | 0x34 => one 1 .block (match s.named j.keyA with
      | .ok k => match s.typeAt j.keyB with
        | some u => if isTdea u then 1 else kbSteps (kbPayload 16 k.secret.length)
        | none => 1
      | .error _ => 1)
  | 0x35 => if a = 0 then one 1 .digest 1 else one 1 .block 1
  | 0x3B =>
    if t = 0x50 then one 2 .pk 4000
    else if t = 0x29 then one 2 .pk (s.ecdhFrames 6 j.keyB)
    else one 2 .pk 0
  | 0x40 | 0x41 | 0x42 | 0x43 =>
    let h := hashOfCode a
    if j.srcLen ≤ 448 then one 1 .digest 1
    else { j with cls := 4, kind := .digest, segmented := true,
                  steps := digestSteps h (digestK h (j.op % 2 == 1) j.srcLen) }
  | 0x44 | 0x45 | 0x46 | 0x47 | 0x48 | 0x49 => { j with cls := 4, kind := .digest, segmented := true, steps := 1 }
  | 0x50 => one 2 pkKind (s.signFrames a j.keyA j.keyB j.dstLen)
  | 0x51 => one 3 pkKind (s.verifyFrames a j.keyA j.keyB j.srcLen)
  | 0x52 => one 3 pkKind (s.verifyFrames a j.keyA j.keyB (j.srcLen / max 1 j.dstLen))
  | 0x53 => one 2 .pk (s.ecdhFrames a j.keyB)
  | 0x54 | 0x55 | 0x56 => one 3 .lattice (kemFrames a).2
  | 0x57 | 0x58 => one 2 .lattice (kemFrames a).1
  | 0x70 => one 1 .block (ceilDiv j.dstLen 768)
  | _ => one 1 .block 1

/-- KEY_STORE_PUBLIC takes steps only for a curve load, or for the subgroup check of a point on a curve whose cofactor is
above 1 (R320, R349). -/
def State.noStep (s : State) (j : Job) : Bool :=
  if j.op = 0x3B then
    let t := j.template
    !(t == 0x50 || (t == 0x29 && (match s.curveAt j.keyB with | some c => decide (1 < curveH c) | none => false)))
  else opNoStep j.op

/-- The check of a descriptor at acceptance: 0 or the first failing status of R380. -/
def State.acceptCheck (s : State) (families : BitVec 7) (j : Job) (d : Bytes) (ring : Option Nat) : Nat :=
  if !opDefined j.op then stBadOpcode
  else if !j.formatOk d ring then stBadFormat
  else
    let lenOk := s.lengthOk j
    let h := if j.inl && lenOk then s.headerCheck j else 0
    if h = stBadFormat then h
    else if !lenOk then stBadLength
    else if h ≠ 0 then h
    else if !families.getLsbD (opFamily j.op) then stRole
    else 0

end Sys2Proof.Machine
end

