-- ==== Sys2Proof/Machine/Load.lean ====
section
/-! DEFINITION. The load window: streams, key checks, draws and uses of a job's first step, and the repeated checks of
later steps (R219 to R223, R260 to R264, R278 to R286, R303, R318, R320, R335 to R353). -/

namespace Sys2Proof.Machine

open Sys2Proof

/-- The world of a requester (R219): 0 STEWARD, 2 SLICE, 3 PADDOCK, 4 PEER. -/
def Job.world (j : Job) : Nat := match j.src with
  | .paddock => padWorld j.pad
  | .window steward => if steward then 0 else 3
  | .peer _ _ => 4
  | .part _ => padWorld j.pad
  | .hamper _ _ _ => 0

/-- One key that a job names: handle, uses, needed usage, the extra part of check 8, and the rules applied at check 9. `spent` is a
key that may be EXHAUSTED: the one that a KEY_REWRITE names (R226). -/
structure Need where
  h : Nat
  uses : Nat
  usage : Nat
  ok8 : Key → Bool
  ok9 : Key → Nat
  spent : Bool := false

/-- A rule on the key type: `ST_KEY_USAGE` where it does not hold. -/
def typeRule (p : Nat → Bool) (k : Key) : Nat := if p k.typ then 0 else stKeyUsage

/-- The key types of a PIN format (R335). -/
def pinSuits (f t : Nat) : Bool := if f = 4 then isAes t else isTdea t

/-- One-bits of a number of `n` bits. -/
def popcount (n v : Nat) : Nat := (List.range n).foldl (fun a i => a + b2n (v.testBit i)) 0

/-- The DUKPT transaction counter of a job is valid (R225, R342). -/
def Job.counterOk (j : Job) : Bool :=
  if j.param = 1 then popcount 32 (ofBE (slice j.data 40 4)) ≤ 16
  else popcount 21 (ofBE (slice j.data 32 10) % 2 ^ 21) ≤ 10

/-- The key types of a MAC method (R282). -/
def macTypes (method t : Nat) : Bool := if method = 4 ∨ method = 5 then t == 4 else isAes t || isTdea t

/-- HMAC types by algorithm code (R250). -/
def hmacType (code t : Nat) : Bool := t == 5 + code

/-- Uses that a job takes of the key in a field: both fields count where they name one slot (R223). A KEY_REWRITE sets the count
to 0 and takes none (R226). -/
def Job.usesOf (j : Job) (h : Nat) : Nat :=
  (if j.keyA ≠ 0 ∧ j.keyA % 32768 = h % 32768 then (match j.op with | 0x52 => j.dstLen | 0x38 => 0 | _ => 1) else 0) +
    (if j.keyB ≠ 0 ∧ !opStream j.op ∧ j.keyB % 32768 = h % 32768 then 1 else 0)

/-- The keys that a job names, key A before key B, with what each must allow (R219 and the lane chapters). -/
def Job.needs (j : Job) : List Need :=
  let f := u8 j.data 0
  let g := u8 j.data 1
  let t := newKeyOf j.data
  let yes : Key → Bool := fun _ => true
  let mk := fun (h usage : Nat) (ok9 : Key → Nat) => ({ h := h, uses := j.usesOf h, usage := usage, ok8 := yes, ok9 := ok9 } : Need)
  let curve := fun (h : Nat) => mk h 0 (typeRule (· == 0x50))
  let custom := if j.param = 6 then [curve j.keyB] else []
  let onCurve := fun (k : Key) => k.curve.isNone || k.curve == some j.keyB
  match j.op with
  | 0x10 => [mk j.keyA uPinEnc (typeRule (pinSuits f)), mk j.keyB uPinEnc (typeRule (pinSuits g))]
  | 0x11 => [mk j.keyA uPinEnc (typeRule (pinSuits f)),
             mk j.keyB uPinVer (typeRule (if j.param = 1 then pinSuits g else isAes))]
  | 0x12 => [{ h := j.keyA, uses := j.usesOf j.keyA, usage := uBdk, ok8 := fun _ => j.counterOk,
               ok9 := typeRule (if j.param = 1 then isAes else (· == 4)) },
             mk j.keyB uPinEnc (typeRule (pinSuits g))]
  | 0x13 => [mk j.keyA uPinEnc (typeRule (pinSuits f)), mk j.keyB uPinVer (typeRule isAes)]
  | 0x20 => [mk j.keyA uMacGen (typeRule (fun x => macTypes j.param x &&
      (match j.clsTyp with | some c => x == c | none => isAes x)))]
  | 0x21 => [mk j.keyA uMacVer (typeRule (fun x => macTypes j.param x &&
      (match j.clsTyp with | some c => x == c | none => isAes x)))]
  | 0x28 => [mk j.keyA uCryptogram (typeRule (fun x => isAes x || x == 4))]
  | 0x29 => [mk j.keyA uCryptogram (typeRule (fun x => isAes x || x == 4))]
  | 0x31 => if t.typ = 0x19 then [curve j.keyB] else []
  | 0x32 => [mk j.keyA uUnwrap (fun k => if !(isAes k.typ || isTdea k.typ) then stKeyUsage
      else if (u8 j.data 20 == 0x44) == isAes k.typ then 0 else stBadFormat)]
  | 0x33 => [mk j.keyA uUnwrap (typeRule isAes)]
  | 0x34 => [mk j.keyA 0 (fun k => if k.owner = j.pad ∧ k.exportCls = 1 then 0 else stKeyDenied),
             mk j.keyB uWrap (typeRule (fun x => isAes x || isTdea x))]
  | 0x35 => [mk j.keyA (if j.param = 0 then uDerive else uBdk) (fun k =>
      if j.param = 0 then (if isSym k.typ ∧ isSym t.typ then 0 else stKeyUsage)
      else if k.initial ∨ t.usage ≠ uBdk ∨ !bitN t.flags 3 ∨ !(isAes t.typ || isTdea t.typ) then stKeyUsage
      else if j.srcLen ≠ (if isAes k.typ then 28 else 30) then stBadLength else 0)]
  | 0x38 => [{ mk j.keyA 0 (fun k => if k.owner ≠ j.pad then stKeyDenied else if isSym k.typ then 0 else stKeyUsage) with
               spent := true }]
  | 0x3A => [mk j.keyA 0 (fun k => if !(isAes k.typ || isTdea k.typ) ∨ (j.param = 2 ∧ isTdea k.typ) then stKeyUsage
      else 0)]
  | 0x3B => if t.typ = 0x29 then [curve j.keyB] else []
  | 0x41 => [mk j.keyA uHmac (typeRule (hmacType j.param))]
  | 0x43 => [mk j.keyA uHmac (typeRule (hmacType j.param))]
  | 0x45 => [mk j.keyA uHmac (typeRule (hmacType j.param))]
  | 0x50 => mk j.keyA uSign (fun k => if algPriv j.param k.typ ∧ onCurve k ∧
      (!algRsa j.param ∨ rsaK k.typ = j.dstLen) then 0 else stKeyUsage) :: custom
  | 0x51 => (if j.keyA = 0 then [] else [mk j.keyA uVerify (fun k => if algPub j.param k.typ ∧ onCurve k ∧
      (!algRsa j.param ∨ rsaK k.typ + rsaHash j.param = j.srcLen) then 0 else stKeyUsage)]) ++ custom
  | 0x52 => (if j.keyA = 0 then [] else [mk j.keyA uVerify (fun k => if algPub j.param k.typ ∧ onCurve k ∧
      (!algRsa j.param ∨ (rsaK k.typ + rsaHash j.param) * j.dstLen = j.srcLen) then 0 else stKeyUsage)]) ++ custom
  | 0x53 => mk j.keyA uDerive (fun k => if algPriv j.param k.typ ∧ onCurve k then 0 else stKeyUsage) :: custom
  | 0x55 => if j.keyA = 0 then [] else [mk j.keyA uKem (typeRule (algPub j.param))]
  | 0x56 => if j.keyA = 0 then [] else [mk j.keyA uKem (typeRule (algPub j.param))]
  | 0x57 => [mk j.keyA uKem (typeRule (algPriv j.param))]
  | 0x58 => [mk j.keyA uKem (typeRule (algPriv j.param))]
  | _ => []

/-- What check 3 goes by: the paddock, or for a peer the paddock's shared-group mask (R219, R408). -/
def Job.maskArg (j : Job) : Nat := match j.src with
  | .peer _ mask => mask
  | _ => j.pad

/-- Check the needed keys in order (R219): the keys, or the status of the first failing check. -/
def State.checkNeeds (s : State) (six : Bool) (w p : Nat) : List Need → Except Nat (List Key)
  | [] => .ok []
  | n :: r => match s.checkKeyAt six n.spent w p n.uses n.usage n.h n.ok8 n.ok9 with
    | .error e => .error e
    | .ok k => match s.checkNeeds six w p r with
      | .error e => .error e
      | .ok l => .ok (k :: l)

/-- The job draws on the DRBG (R226, R246, R307, R309, R310, R335). -/
def Job.draws (j : Job) : Bool :=
  let g := u8 j.data 1
  match j.op with
  | 0x10 => g != 0
  | 0x12 => g != 0
  | 0x30 => true
  | 0x31 => true
  | 0x38 => true
  | 0x3B => j.template == 0x50
  | 0x50 => algEc j.param || (0x14 ≤ j.param && j.param ≤ 0x16) || algDsa j.param
  | 0x54 => true
  | 0x55 => true
  | 0x56 => true
  | 0x70 => true
  | _ => false

/-- Strength in bits of a key type as X9.143 orders it (R239, log 8). -/
def keyStrength (t : Nat) : Nat :=
  if t = 4 then 80 else if t = 5 then 112 else if t = 1 then 128 else if t = 2 then 192 else if t = 3 then 256
  else if isHmac t then 128 else if t = 0x10 ∨ t = 0x13 ∨ t = 0x15 ∨ t = 0x16 then 128
  else if t = 0x11 ∨ t = 0x14 then 192 else if t = 0x17 ∨ t = 0x18 then 224
  else if t = 0x12 ∨ t = 0x19 then 256 else if t = 0x30 then 112 else if t = 0x31 then 128 else if t = 0x32 then 152
  else if t = 0x40 ∨ t = 0x48 then 128 else if t = 0x41 ∨ t = 0x49 then 192
  else if t = 0x42 ∨ t = 0x4A then 256 else 0

/-- Length of the key block that an export writes (R239): header, encrypted payload and MAC in hexadecimal. -/
def kbExportLen (kek k : Key) : Nat :=
  if isTdea kek.typ then 16 + 2 * kbPayload 8 k.secret.length + 16
  else 16 + 2 * kbPayload 16 k.secret.length + 32

/-! ### Streams (R263, R264) -/

/-- The open stream of a paddock that a handle names. -/
def State.stream? (s : State) (p h : Nat) : Option Stream := match s.pad? p with
  | some q => q.streams.find? (fun x => x.handle == h)
  | none => none

/-- Change a stream. -/
def State.modStream (s : State) (p h : Nat) (f : Stream → Stream) : State :=
  s.modPad p (fun q => { q with streams := q.streams.map (fun x => if x.handle == h then f x else x) })

/-- Close a stream: its number is freed and its context zeroized (R264). -/
def State.closeStream (s : State) (p h : Nat) : State :=
  s.modPad p (fun q => { q with streams := q.streams.filter (fun x => x.handle != h) })

/-- Held contexts of a paddock in use. -/
def Pad.contexts (q : Pad) : Nat := (q.streams.filter (·.onChip)).length

/-- The limit of R263 refuses an OPEN. -/
def Pad.streamsFull (q : Pad) : Bool := q.ctxQuota == 0 || q.streamLimit ≤ q.streams.length

/-- Orders 4 and 5 of R260 for a keyed stream: 0 or the failing status. -/
def State.streamKey (s : State) (x : Stream) : Nat := match x.key with
  | none => 0
  | some (slot, gen, _) => match s.tack.key? slot with
    | none => stContextInvalid
    | some k => if s.tack.gen slot ≠ gen ∨ k.st = .revoked then stContextInvalid
                else if !s.tack.chainOk 4 k.parent then stKeyRevoked else 0

/-- Open a stream with the lowest free number and its next generation (R264). -/
def State.openStream (s : State) (p : Nat) (alg : HashAlg) (key : Option Key) : State × Nat :=
  match s.pad? p with
  | none => (s, 0)
  | some q =>
    let n := ((List.range 1024).find? (fun i => !q.streams.any (fun x => x.num == i))).getD 0
    let g := ((getKey q.streamGens n).getD 0 + 1) % 4096
    let h := n + g * 1024 + s.pgen p * 2 ^ 22
    let x : Stream := { num := n, handle := h, alg := alg,
                        key := key.map (fun k => (k.slot, s.tack.gen k.slot, s.tack.handleOf k.slot)),
                        secret := match key with | some k => k.secret | none => [],
                        absorbed := [], onChip := true, exportSeq := 0, lastUse := s.now }
    (s.modPad p (fun q => { q with streams := q.streams ++ [x], streamGens := putKey q.streamGens n g }), h)

/-- Steps of a stream's job, from the bytes its state has absorbed (R256). -/
def streamSteps (x : Stream) (j : Job) : Nat :=
  let b := x.absorbed.length % x.alg.block
  if j.op = 0x46 then digestSteps x.alg ((b + j.srcLen) / x.alg.block)
  else if j.op = 0x49 then 1
  else digestSteps x.alg (digestK x.alg x.key.isSome (b + j.srcLen))

/-- The key command (R226) that a job is logged under, 0 for a job that changes no key (R229, R349, R352, R353). -/
def opKeyCode (op : Nat) : Nat :=
  if op = 0x30 ∨ op = 0x31 ∨ op = 0x3B then 1
  else if op = 0x32 ∨ op = 0x33 then 2
  else if op = 0x35 ∨ op = 0x53 ∨ (0x55 ≤ op ∧ op ≤ 0x58) then 3
  else if op = 0x36 then 4 else if op = 0x37 then 5 else if op = 0x38 then 6 else if op = 0x39 then 7
  else if op = 0x34 then 8 else 0

/-- A key as a record keeps it once its working key register has been cleared (R221). -/
def Key.wiped (k : Key) : Key := { k with secret := [] }

/-- A job whose working keys have been cleared from its lane (R221). -/
def Job.wiped (j : Job) : Job := { j with loadedA := j.loadedA.map Key.wiped, loadedB := j.loadedB.map Key.wiped }

/-- The destination length of a FINAL or the expected length of a FINAL_COMPARE does not fit its stream (R254, R255); it is checked
directly after order 2 of R260. -/
def Stream.badLength (x : Stream) (j : Job) : Bool :=
  let full := x.alg.len
  (j.op == 0x47 && j.dstLen != (if j.dstAddr = 0 then 0 else full)) ||
    (j.op == 0x48 && (full < j.dstLen || (x.key.isNone && j.dstLen != full)))

/-! ### The first load -/

/-- A job is a one-shot digest or MAC that is segmented and so needs a reserve context (R258, R285). -/
def Job.oneShot (j : Job) : Bool := j.segmented && !(0x44 ≤ j.op && j.op ≤ 0x49) && (match j.src with | .window _ => false | _ => true)

/-- Load checks other than those on keys: 0 or the failing status. -/
def State.loadExtra (s : State) (j : Job) (ks : List Key) : Nat :=
  let full := fun (p : Nat) => match s.pad? p with | some q => q.streamsFull | none => true
  match j.op, ks with
  | 0x34, k :: kek :: _ => if keyStrength kek.typ < keyStrength k.typ then stKeyDenied
                           else if j.dstLen < kbExportLen kek k then stBadLength else 0
  | 0x44, _ => if full j.pad then stRange else 0
  | 0x45, _ => if full j.pad then stRange else 0
  | op, _ =>
    if 0x50 ≤ op ∧ op ≤ 0x53 ∧ j.param = 6 then
      let cofactor := match s.curveAt j.keyB with | some c => curveH c | none => 1
      if 1 < cofactor ∧ (op = 0x53 ∨ (op ≠ 0x50 ∧ j.keyA = 0)) then stBadFormat
      else if !s.lengthOk j then stBadLength else 0
    else if op = 0x3B ∧ u8 j.data 0 = 0x50 ∧ j.srcLen ≠ 417 then stBadLength
    else 0

/-- Take the uses of a job's keys (R223): one per field, as many as signatures for a batch. -/
def State.takeJobUses (s : State) (j : Job) (ks : List Key) : State :=
  let slots := (ks.map (·.slot)).eraseDups
  slots.foldl (fun s x => s.takeUses x (j.usesOf (s.tack.handleOf x))) s

/-- The working keys of a load and their ancestors (R222). -/
def State.loadRecord (s : State) (ks : List Key) : List Nat := ks.flatMap s.loadOf

/-- A curve load reserves its run at dispatch (R319): a run whose load has ended is free again at the next boundary. -/
def State.reserveRun (s : State) (j : Job) : Option State :=
  if j.op = 0x3B ∧ j.template = 0x50 then
    match s.place (keyRun 0x50) false with
    | none => none
    | some (slot, t) => some (s.modTack (fun _ => { t with loads := putKey t.loads j.id slot }))
  else some s

/-- The first load of a job: the job with what it holds and the lane's load record, or the failing status
(R221, R260, R294, R321, R529). -/
def State.firstLoad (s : State) (j : Job) : Except Nat (State × Job × List Nat) :=
  if opStream j.op then
    match s.stream? j.pad j.keyB with
    | none => .error stContextInvalid
    | some x =>
      if j.op = 0x49 then .ok (s, { j with begun := true, steps := 1 }, [])
      else
        if x.badLength j then .error stBadLength
        else
          let e := s.streamKey x
          if e ≠ 0 then .error e
          else
            let rec_ := match x.key with
              | none => []
              | some (slot, _, _) => match s.tack.key? slot with
                | some k => s.loadOf k
                | none => []
            .ok (s, { j with begun := true, steps := streamSteps x j }, rec_)
  else
    match s.checkNeeds true j.world j.maskArg j.needs with
    | .error e => .error e
    | .ok ks =>
      let e := s.loadExtra j ks
      if e ≠ 0 then .error e
      else if j.draws ∧ s.drbgFails then .error stEntropy
      else match s.reserveRun j with
      | none => .error stKeyDenied
      | some s =>
        let rec_ := s.loadRecord ks
        let s := s.takeJobUses j ks
        let j := { j with begun := true, loadedA := ks.head?, loadedB := (ks.drop 1).head?,
                          drawNo := s.tack.draws, held := j.oneShot }
        let s := if j.draws then s.modTack (fun t => { t with draws := t.draws + 1 }) else s
        let s := if j.held then s.modYard (fun y => { y with ctxReserve := y.ctxReserve + 1 }) else s
        if j.op = 0x44 ∨ j.op = 0x45 then
          let r := s.openStream j.pad (hashOfCode j.param) (if j.op = 0x45 then ks.head? else none)
          .ok (r.1, { j with keyB := r.2 }, rec_)
        else .ok (s, j, rec_)

/-- A key that a running job holds, at a later step of it (R221, R286): 0 or the failing status. -/
def State.heldKey (s : State) (k : Key) : Nat := match s.tack.key? k.slot with
  | none => stKeyErased
  | some x =>
    if x.st = .revoked ∧ s.tack.gen k.slot ≤ k.gen + 1 then stKeyRevoked
    else if s.tack.gen k.slot ≠ k.gen then stKeyErased
    else if !s.tack.chainOk 4 x.parent then stKeyRevoked else 0

/-- The check that a later step repeats (R221, R260, R286): 0 or the failing status. -/
def State.reload (s : State) (j : Job) : Nat :=
  if 0x44 ≤ j.op ∧ j.op ≤ 0x48 then match s.stream? j.pad j.keyB with
    | none => stContextInvalid
    | some x => s.streamKey x
  else
    let f := fun (k : Option Key) => match k with | some k => s.heldKey k | none => 0
    let a := f j.loadedA
    if a ≠ 0 then a else f j.loadedB

/-- The side effect of a failing DUKPT counter (R225, R344): an INITIAL key becomes EXHAUSTED, and the exhaustion counts. -/
def State.dukptFail (s : State) (j : Job) (e : Nat) : State :=
  if j.op = 0x12 ∧ e = stKeyExhausted ∧ !j.counterOk then
    match s.named j.keyA with
    | .ok k =>
      let s := s.modYard (fun y => { y with dukptExh := y.dukptExh + 1 })
      if k.initial ∧ k.st = .active then s.exhaust k else s
    | .error _ => s
  else s

end Sys2Proof.Machine
end

