-- ==== Sys2Proof/Machine/Yard.lean ====
section
/-! DEFINITION. Lanes and queues: which job a slot takes, loading it, aborting it, strikes, device jobs and hampers
(R33 to R37, R44 to R48, R220 to R234, R257 to R268, R324, R354, R497). -/

namespace Sys2Proof.Machine

open Sys2Proof

/-- A power domain is powered and awake (R538). -/
def State.domainOn (s : State) (d : Nat) : Bool := !s.pwr.gated.getLsbD d && !s.pwr.waking.any (·.1 == d)

/-- A lane has no programme and no zeroization and is awake. -/
def State.laneIdle (s : State) (n : Nat) : Bool :=
  let l := s.lane n
  l.job.isNone && l.zero == 0 && s.domainOn n

/-- A lane is free: idle and enabled. -/
def State.laneFree (s : State) (n : Nat) : Bool := s.laneIdle n && !(s.lane n).disabled

/-- Index of a lane kind. -/
def LaneKind.idx : LaneKind → Nat
  | .tag => 0
  | .pk => 1
  | .lattice => 2
  | .block => 3
  | .digest => 4

/-- The member whose class 0x10 + d one of the job's keys carries (R407). -/
def State.jobMember (s : State) (j : Job) : Option Nat :=
  let d := fun (h : Nat) =>
    let c := h / 0x8000000
    if 0x10 ≤ c ∧ c < 0x18 ∧ c ≠ 0x10 + s.pwr.cascadeId.toNat then some (c - 0x10) else none
  if s.cas.role ≠ .master ∨ opStream j.op then none
  else match d j.keyA with
    | some m => some m
    | none => d j.keyB

/-- A batch verification, which runs only as its parts (R354). -/
def Job.isBatch (j : Job) : Bool := j.op == 0x52 && j.src == .paddock

/-- An earlier job on the same stream has not ended (log 32). -/
def State.streamBusy (s : State) (j : Job) : Bool :=
  opStream j.op && s.jobs.any (fun k => k.id < j.id && k.pad == j.pad && opStream k.op && k.keyB == j.keyB &&
    k.src == .paddock && k.status.isNone && !k.settled)

/-- The hamper jobs of a waiting job. -/
def State.hampersFor (s : State) (id : Nat) (out : Bool) : Bool :=
  s.jobs.any (fun j => match j.src with | .hamper i _ o => i == id && o == out | _ => false)

/-- Imports under way into a context that is free: no export is still making room for them (R265). -/
def State.importsIn (s : State) (p : Nat) : Nat :=
  (s.jobs.filter (fun k => k.pad == p && (match k.src with | .hamper i _ o => !o && !s.hampersFor i true | _ => false))).length

/-- The job's next step has the context it needs (R258, R265). -/
def State.ctxReady (s : State) (j : Job) : Bool :=
  match s.pad? j.pad with
  | none => true
  | some q =>
    if j.op = 0x44 ∨ j.op = 0x45 then j.begun || q.streamsFull || decide (q.contexts + s.importsIn q.num < q.ctxQuota)
    else if opStream j.op ∧ j.op ≠ 0x49 then
      match s.stream? j.pad j.keyB with
      | none => true
      | some x => x.onChip || x.badLength j || s.streamKey x != 0
    else if j.oneShot ∧ !j.held then decide (s.yard.ctxReserve < 56)
    else true

/-- A Register Digest Window: the steward's or the PF's (R270, R275). -/
def State.window (s : State) (steward : Bool) : Rdw := if steward then s.rdwSc else s.rdw

/-- Change a Register Digest Window. -/
def State.modWindow (s : State) (steward : Bool) (f : Rdw → Rdw) : State := if steward then s.modRdwSc f else s.modRdw f

/-- Message bytes that one step of a window's message consumes (R256, R276). -/
def Rdw.perStep (r : Rdw) : Nat := if (hashOfCode r.alg).block = 64 then 576 else 768

/-- The buffer holds the bytes that the next step of a window's message consumes, with one held back until the last word
has arrived (R274). -/
def State.windowReady (s : State) (j : Job) : Bool := match j.src with
  | .window steward =>
    let r := s.window steward
    r.st == 2 || decide ((j.taken + 1) * r.perStep < r.msg.length)
  | _ => true

/-- The slot that a REVOKE, ERASE, REWRITE or DRAIN of an officer changes (R247). -/
def cmdChanges (v : Bytes) : Option Nat := if 4 ≤ u8 v 0 ∧ u8 v 0 ≤ 7 then some (uLE v 4 4 % 32768) else none

/-- The slot that a change waiting for its entry changes (R230). -/
def State.effSlot (s : State) (e : Effect) : Option Nat := match e with
  | .entry key v _ => if key = 0x400006 then cmdChanges v else none
  | .approve id _ => (s.dict.proposals.find? (fun p => p.id == id && p.key == 0x400006)).bind (fun p => cmdChanges p.value)
  | _ => none

/-- A change of a slot that was asked for before job `id` has not taken effect yet (R230). -/
def State.slotWaits (s : State) (id slot : Nat) : Bool :=
  s.jobs.any (fun k => k.id < id && 4 ≤ opKeyCode k.op && opKeyCode k.op ≤ 7 && k.keyA % 32768 == slot &&
    (!k.settled || k.waitsLog) && k.forwarded.isNone) ||
  s.log.due.any (fun d => s.effSlot d.eff == some slot)

/-- A key command waits for the earlier changes of the slots that it names (R230). -/
def State.commandWaits (s : State) (j : Job) : Bool :=
  opKeyCode j.op != 0 && ((j.keyA != 0 && s.slotWaits j.id (j.keyA % 32768)) ||
    (j.op == 0x34 && s.slotWaits j.id (j.keyB % 32768)))

/-- The job can be offered a slot now (R44, R257). -/
def State.offered (s : State) (j : Job) : Bool :=
  j.ready && j.readyAt < s.now && j.accAt < s.now && j.status.isNone && !j.settled && j.lane.isNone &&
    j.taken < max 1 j.steps && !s.noStep j && !j.isBatch && j.forwarded.isNone && (s.jobMember j).isNone &&
    !s.streamBusy j && !s.commandWaits j && s.ctxReady j && s.windowReady j

/-- The older of two queue positions. -/
def older (a b : Nat × Nat) : Bool := a.1 < b.1 || (a.1 == b.1 && a.2 < b.2)

/-- The oldest of a list of jobs, in acceptance order (R44). -/
def oldest : List Job → Option Job
  | [] => none
  | j :: r => match oldest r with
    | none => some j
    | some k => if older (k.accAt, k.id) (j.accAt, j.id) then some k else some j

/-- The oldest of a list of device jobs. -/
def oldestDev : List DevJob → Option DevJob
  | [] => none
  | j :: r => match oldestDev r with
    | none => some j
    | some k => if older (k.since, k.id) (j.since, j.id) then some k else some j

/-- Jobs of a class, group and lane kind that can be offered a slot. -/
def State.queue (s : State) (cls : Nat) (kind : LaneKind) (p : Nat → Bool) : List Job :=
  s.jobs.filter (fun j => j.cls == cls && j.kind == kind && p j.group && s.offered j)

/-- A device job may run on a lane in a slot of a class. -/
def DevWhat.fits (w : DevWhat) (lane cls : Nat) : Bool := match w with
  | .sweep => cls == 5
  | .selfTest l => l == lane && (cls == 5 || (lane < 4 && cls == 0))
  | .zeroPass => cls == 5 && 60 ≤ lane
  | .checkpoint => cls == 0 && 4 ≤ lane && lane < 20
  | .pairCheck _ => false
  | .digest _ _ => cls == 0 && 60 ≤ lane
  | .pair lattice c2 _ _ => (cls == 0 || (c2 && cls == 2)) &&
      (if lattice then 20 ≤ lane && lane < 28 else 4 ≤ lane && lane < 20)

/-! ### The end of a job's work -/

/-- Parts of a batch verification. -/
def State.parts (s : State) (parent : Nat) : List Job := s.jobs.filter (fun j => j.src == .part parent)

/-- Bit `i` of a bitmap of the parts. -/
def bitmap (l : List Job) (f : Job → Bool) : Nat := (l.mapIdx (fun i j => b2n (f j) * 2 ^ i)).foldl (· + ·) 0

/-- Statuses of the input screen (R315). -/
def screenStatus (e : Nat) : Bool := e == stInputZero || e == stInputRange || e == stPointInvalid

/-- The batch that a part belongs to: once every part has ended its status and bitmaps are set; once a strike or a load
failure has set its status the queued parts are withdrawn, and it completes when none runs (R313, R354). -/
def State.batchCheck (s : State) (parent at_ : Nat) : State :=
  match s.job? parent with
  | none => s
  | some b =>
    let ps := s.parts parent
    match b.status with
    | some _ =>
      let s := s.modJobs (fun l => l.filter (fun j => !(j.src == .part parent && j.lane.isNone && !j.settled)))
      if b.completeAt.isNone ∧ !(s.parts parent).any (fun j => j.lane.isSome && !j.settled) then
        s.modJob parent (fun b => { b.wiped with completeAt := some at_, settled := true })
      else s
    | none =>
      if ps.all (·.settled) ∧ b.completeAt.isNone then
        let has := fun e => ps.any (fun j => j.status == some e)
        let good := bitmap ps (fun j => j.status == some stOk)
        let bad := bitmap ps (fun j => match j.status with | some e => screenStatus e | none => false)
        let st := if has stFaultDetected then stFaultDetected
                  else if has stLengthMismatch then stLengthMismatch
                  else if good + 1 = 2 ^ ps.length then stOk else stMismatch
        let maps := if st = stOk ∨ st = stMismatch then leN 8 good ++ leN 8 bad else []
        s.modJob parent (fun b => { b.wiped with
          status := some st, settled := true, completeAt := some at_, result := maps, lastLane := (ps.getLast?.map (·.lastLane)).getD 0xFFFF })
      else s

/-- A job ends with a status and no result; `at_` is the frame of its completion. -/
def State.endJob (s : State) (id st at_ : Nat) : State :=
  match s.job? id with
  | none => s
  | some j =>
    let s := if j.held then s.modYard (fun y => { y with ctxReserve := y.ctxReserve - 1 }) else s
    let s := s.modJob id (fun j => { j.wiped with
      status := some st, settled := true, completeAt := some at_, lane := none, held := false, waitsLog := false, result := [], dest := [], resLen := 0, newKey := none })
    match j.src with
    | .part parent =>
      (s.modJob parent (fun b => if b.status.isSome then b else { b with status := some st })).batchCheck parent at_
    | _ => s

/-- A job fails in the load window of a lane: it completes in this frame without this step, and the lane takes nothing else in
this frame (R221, R260). -/
def State.failLoad (s : State) (j : Job) (lane e : Nat) : State :=
  let s := (s.dukptFail j e).modLane lane (fun l => { l with spent := true })
  let s := if 0x44 ≤ j.op ∧ j.op ≤ 0x48 then match s.stream? j.pad j.keyB with
      | some x => if s.streamKey x ≠ 0 then s.closeStream j.pad j.keyB else s
      | none => s
    else s
  s.endJob j.id e s.now

/-- A lane whose programme aborts: it zeroizes in this frame and the next (R34). -/
def Lane.aborted (l : Lane) : Lane := { l.empty with zero := 2 }

/-- Abort a job at this boundary (R34, R327): its lane stops and zeroizes in this frame and the next, a stream it had begun
to change closes (R261); with a status it completes in the next frame. -/
def State.abortJob (s : State) (id : Nat) (st : Option Nat) : State :=
  match s.job? id with
  | none => s
  | some j =>
    let s := match j.lane with
      | some l => s.modLane l Lane.aborted
      | none => s
    let s := s.modJob id (fun k => { k.wiped with lastLane := j.lane.getD k.lastLane, lane := none })
    let s := if 0x44 ≤ j.op ∧ j.op ≤ 0x49 ∧ j.begun ∧ j.src == .paddock then s.closeStream j.pad j.keyB else s
    match j.src, st with
    | .hamper _ _ _, _ => s.dropJob id
    | _, some e => s.endJob id e (s.now + 1)
    | _, none =>
      let s := if j.held then s.modYard (fun y => { y with ctxReserve := y.ctxReserve - 1 }) else s
      s.dropJob id

/-- A device job leaves its lane at an abort and waits again from its first step; a checkpoint is composed anew (R455). -/
def State.abortDev (s : State) (d : DevJob) : State :=
  let s := if d.what = .checkpoint then s.modLog (fun l => { l with signing := none }) else s
  match d.lane with
  | none => s
  | some l => (s.modLane l Lane.aborted).modDev d.id
      (fun d => { d with lane := none, taken := 0, since := s.now })

/-- Entry to ALARM_HALT by class H, and a supply hold of 2,000 frames: every programme that has taken a step and not
ended aborts with `ST_HELD` (R20, R493). -/
def State.haltYard (s : State) : State :=
  let s := s.jobs.foldl (fun s j => if j.status.isNone ∧ !j.settled ∧ (j.lane.isSome ∨ (j.begun ∧ j.forwarded.isNone ∧ j.taken < max 1 j.steps)) ∧
      !j.isBatch then
    s.abortJob j.id (some stHeld) else s) s
  s.devJobs.foldl (fun s d => s.abortDev d) s

/-- At the boundary after a class Z detection every job still queued completes with `ST_HELD` (R486). DESIGN CHOICE (log 103): a
segmented programme between two steps holds no lane and counts as a job still queued. -/
def State.holdQueue (s : State) : State :=
  s.jobs.foldl (fun s j => if j.status.isNone ∧ !j.settled ∧ j.forwarded.isNone then (match j.src with
    | .hamper _ _ _ => s.dropJob j.id
    | .part _ => s.dropJob j.id
    | _ => s.endJob j.id stHeld s.now) else s) s

/-- The status that a strike gives a running job (R232, R235, R238). -/
def State.strikeStatus (s : State) (j : Job) (slot kind : Nat) : Nat :=
  let working := (match j.loadedA with | some k => k.slot == slot | none => false) ||
    (match j.loadedB with | some k => k.slot == slot | none => false) ||
    (opStream j.op && (match s.stream? j.pad j.keyB with
      | some x => (match x.key with | some k => k.1 == slot | none => false)
      | none => false))
  if kind = 0 then stKeyRevoked else if kind = 1 then (if working then stKeyErased else stKeyRevoked) else stKeyDenied

/-- Strike the lanes whose load record names a slot (R232); a tag lane holds its port's tag key (R157), and a strike
clears its register. -/
def State.strikeLanes (s : State) (slot kind : Nat) : State :=
  let s := s.modPorts (fun l => l.map (fun p => if (match p.tagKey with | some k => k.1 == slot | none => false) then
    { p with tagSecret := [] } else p))
  s.jobs.foldl (fun s j => match j.lane with
    | some l => if (s.lane l).load.contains slot then s.abortJob j.id (some (s.strikeStatus j slot kind)) else s
    | none => s) s

/-- The strikes that the previous frame left (order 2 of R33). -/
def State.runStrikes (s : State) : State :=
  let s := s.tack.strikes.foldl (fun s x => s.strikeLanes x.1 x.2) s
  s.modTack (fun t => { t with strikes := [] })

/-! ### Hampers (R265 to R268) -/

/-- The 256-byte context of a stream, whose layout the spec does not give (log 33). -/
def Stream.context (x : Stream) : Bytes := fit 256 (Config.message 0x4000 [x.num, x.absorbed.length] x.absorbed)

/-- The hamper of a stream at an export sequence (R266). -/
def State.hamperOf (s : State) (p : Nat) (x : Stream) (key : Bytes) (seq : Nat) : Bytes :=
  let head : Bytes := bytesOf [0x48, 0x4D, 0x50, 0x31] ++ leN 4 x.handle ++ leN 4 (match x.key with | some k => k.2.2 | none => 0) ++
    leN 4 (seq % 2 ^ 32)
  let binding : Bytes := head ++ leN 1 (s.pgen p) ++ zeros 1 ++ leN 2 (match x.key with | some k => k.2.1 | none => 0) ++ leN 2 p ++
    zeros 10
  head ++ zeros 8 ++ kwpWrap key (binding ++ x.context)

/-- The logged pages that a DMA write touches (R391). -/
def DirtyLog.touched (l : DirtyLog) (addr len : Nat) : List Nat :=
  if len = 0 then []
  else
    let lo := addr / 4096
    let first := l.first / 4096
    (((List.range ((addr + len - 1) / 4096 + 1 - lo)).map (· + lo)).filter
      (fun p => first ≤ p && p < first + l.pages)).map (· - first)

/-- A DMA write of a paddock sets the bits of the pages it touches (R391). -/
def dirtyBits (l : DirtyLog) (addr len : Nat) : DirtyLog := { l with bits := (l.bits ++ l.touched addr len).eraseDups }

/-- The bitmap words that a DMA write touches, as they stand after it (R392). -/
def dirtyWords (l : DirtyLog) (addr len : Nat) : List (Nat × Bytes) :=
  let ws := ((l.touched addr len).map (· / 64)).eraseDups
  ws.map (fun w => (l.base + 8 * w, packBits 8 (fun i => l.bits.contains (64 * w + i))))

/-- The device writes to host memory for a paddock (R359, R382); while a log runs, the bitmap writes follow in the PF's DMA
space (R391, R392). -/
def State.dma (s : State) (p addr : Nat) (d : Bytes) : State :=
  if d.isEmpty then s
  else
    let s := (s.emit (.dmaWrite p addr d)).modPad p
      (fun q => { q with log := q.log.map (fun l => dirtyBits l addr d.length) })
    match (s.pad? p).bind (·.log) with
    | none => s
    | some l => (dirtyWords l addr d.length).foldl (fun s w => s.emit (.dmaWrite 0 w.1 w.2)) s

/-- The next value of a paddock's export counter, with its mark in MRAM (R386). -/
def State.nextExport (s : State) (p : Nat) : Nat × State :=
  let v := (getKey s.pmem.expCtr p).getD 0 + 1
  let mark := (getKey s.pmem.expMark p).getD 0
  (v, s.modPmem (fun m => { m with expCtr := putKey m.expCtr p v,
                                   expMark := if mark < v then putKey m.expMark p (v - 1 + 65536) else m.expMark }))

/-- An unwrapped hamper is accepted: the integrity check passes, its handle, paddock and `PGEN` are current, its export sequence is the
stream table's, and the key's slot generation is unchanged (R268). -/
def State.hamperFits (s : State) (p : Nat) (x : Stream) (key hamper : Bytes) : Bool := match kwpUnwrap key (slice hamper 24 296) with
  | none => false
  | some v => v.length == 288 && uLE v 4 4 == x.handle && uLE v 12 4 == x.exportSeq % 2 ^ 32 && u8 v 16 == s.pgen p && uLE v 20 2 == p &&
      uLE v 18 2 == (match x.key with | some k => k.2.1 | none => 0) && s.streamKey x != stContextInvalid

/-- A wrapping programme ends: the hamper is written and the context freed; or an unwrapping one ends, and the stream is
on chip again or closes (R268). `now` is the frame that starts. -/
def State.hamperDone (s : State) (h : Job) : State :=
  match h.src with
  | .hamper id handle out =>
    let s := s.dropJob h.id
    match s.pad? h.pad, s.stream? h.pad handle, s.hamperKey h.pad with
    | some q, some x, some key =>
      if out then
        let r := s.nextExport h.pad
        let b := r.2.hamperOf h.pad x key r.1
        ((r.2.dma h.pad (q.hamperBase + 320 * x.num) b).modStream h.pad handle
          (fun x => { x with onChip := false, exportSeq := r.1 })).modYard
            (fun y => { y with hampersOut := y.hampersOut + 1 })
      else if s.hamperFits h.pad x key h.data then
        (s.modStream h.pad handle (fun x => { x with onChip := true, lastUse := s.now })).modYard
          (fun y => { y with hampersIn := y.hampersIn + 1 })
      else
        let s := ((s.modYard (fun y => { y with hampersRef := y.hampersRef + 1 })).latch 23 15).closeStream h.pad handle
        s.endJob id stContextInvalid s.now
    | _, _, _ => s.endJob id stKeyAbsent s.now
  | _ => s

/-- The least recently used on-chip stream with no step queued or running and no export of its own (R265). -/
def State.lruStream (s : State) (q : Pad) : Option Stream :=
  let idle := q.streams.filter (fun x => x.onChip &&
    !s.jobs.any (fun j => j.pad == q.num && !j.settled &&
      (match j.src with | .hamper _ hd _ => hd == x.handle | _ => 0x44 ≤ j.op && j.op ≤ 0x49 && j.keyB == x.handle)))
  idle.foldl (fun m x => match m with
    | none => some x
    | some y => if older (x.lastUse, x.num) (y.lastUse, y.num) then some x else some y) none

/-- A hamper programme for a waiting job: 9 steps of class C1 on a block lane of the paddock's group (R266). -/
def State.addHamper (s : State) (j : Job) (handle : Nat) (out : Bool) : State :=
  let h := jobOf s.nextJob j.pad j.pgen j.group false (s.now - 1) []
  (s.modJobs (fun l => l ++ [{ h with src := .hamper j.id handle out, op := 0, ready := true, readyAt := s.now - 1,
                                      keyA := 0, keyB := 0, steps := 9 }])).modNextJob (· + 1)

/-- A waiting stream job starts the programmes that bring it a context (R265, R267). -/
def State.startHamper (s : State) (j : Job) : State :=
  match s.pad? j.pad with
  | none => s
  | some q =>
    let isOpen := j.op == 0x44 || j.op == 0x45
    if !(isOpen || opStream j.op) ∨ j.src ≠ .paddock ∨ !j.ready ∨ s.now ≤ j.readyAt ∨ j.settled ∨ j.lane.isSome ∨
        s.streamBusy j ∨ s.ctxReady j ∨ s.hampersFor j.id true ∨ s.hampersFor j.id false then s
    else
      let full := decide (q.ctxQuota ≤ q.contexts + s.importsIn q.num)
      if (full ∧ q.hamperBase = 0) then s
      else if s.tack.srk.isNone then s.endJob j.id stKeyAbsent s.now
      else match (if full then s.lruStream q else none) with
        | some x =>
          let s := s.addHamper j x.handle true
          if isOpen then s else s.addHamper j j.keyB false
        | none => if full ∨ isOpen then s else s.addHamper j j.keyB false

/-! ### Dispatch (R45) -/

/-- A programme begins on a lane: a pair's mask generator serves it, reseeded from the DRBG after 2^20 programmes, or at the first
programme after them for which the DRBG serves (R301). -/
def State.maskProgram (s : State) (lane : Nat) : State :=
  if lane < 4 ∨ 28 ≤ lane then s
  else
    let due := 2 ^ 20 ≤ (s.yard.masks.getD (lane - 4) maskZero).served
    if due ∧ s.tack.drbgOk then
      (s.modYard (fun y => { y with masks := updAt y.masks (lane - 4) (fun _ => { seed := s.tack.draws, served := 1 }) })).modTack
        (fun t => { t with draws := t.draws + 1 })
    else s.modYard (fun y => { y with masks := updAt y.masks (lane - 4) (fun m => { m with served := m.served + 1 }) })

/-- The mask generators are seeded at start; while the DRBG is failed the reseed stays due (R301, log 124). -/
def State.seedMasks (s : State) : State :=
  if s.tack.drbgOk then
    (s.modYard (fun y => { y with masks := (List.range 24).map (fun i => { seed := s.tack.draws + i, served := 0 }) })).modTack
      (fun t => { t with draws := t.draws + 24 })
  else s.modYard (fun y => { y with masks := y.masks.map (fun m => { m with served := 2 ^ 20 }) })

/-- The lane takes a job for its next step; `first` is the job's own load record. -/
def State.onLane (s : State) (j : Job) (lane : Nat) (load : List Nat) : State :=
  let s := (if j.taken = 0 then s.maskProgram lane else s).modLane lane (fun l => { l with job := some j.id, load := load })
  let s := s.modJob j.id (fun _ => { j with lane := some lane, lastLane := lane, taken := j.taken + 1 })
  let s := match j.src with
    | .window w => s.modWindow w (fun r => { r with free := min 4096 (r.free + r.perStep) })
    | _ => s
  let n := (getKey s.yard.dispatched j.group).getD 0 + 1
  if j.cls = 0 ∨ j.cls = 5 then s else s.modYard (fun y => { y with dispatched := putKey y.dispatched j.group n })

/-- Offer a job to a lane: its load checks, then its step (R221). The first part of a batch takes the batch's uses, the
others repeat check 6 (R223, R354). -/
def State.offer (s : State) (j : Job) (lane : Nat) (hamper : Bytes) : State :=
  match j.src with
  | .hamper _ _ out => s.onLane { j with begun := true, data := if out then [] else hamper } lane []
  | .part parent =>
    match s.job? parent with
    | none => s.dropJob j.id
    | some b =>
      if b.begun then
        let j := { j with loadedA := b.loadedA, loadedB := b.loadedB, begun := true }
        let e := s.reload j
        if e = 0 then s.onLane j lane (s.loadRecord (j.loadedA.toList ++ j.loadedB.toList)) else s.failLoad j lane e
      else match s.firstLoad b with
        | .error e => s.failLoad j lane e
        | .ok (s, b, load) =>
          let s := s.modJob parent (fun _ => b)
          s.onLane { j with loadedA := b.loadedA, loadedB := b.loadedB, begun := true } lane load
  | _ =>
    if j.begun then
      let e := s.reload j
      if e = 0 then s.onLane j lane (s.loadRecord (j.loadedA.toList ++ j.loadedB.toList)) else s.failLoad j lane e
    else match s.firstLoad j with
      | .error e => s.failLoad j lane e
      | .ok (s, j, load) => s.onLane j lane load

/-- The lane takes a device job; a checkpoint is composed in the frame of its dispatch (R455). -/
def State.devOnLane (s : State) (d : DevJob) (lane : Nat) : State :=
  let s := if d.what = .checkpoint then s.modLog (fun l => { l with signing := some l.ckptBody }) else s
  ((s.maskProgram lane).modLane lane (fun l => { l with job := some d.id })).modDev d.id (fun d => { d with lane := some lane, taken := d.taken + 1 })

/-- A device job is ready: a checkpoint with room for its pair and a DRBG that serves (R455), a responder's signature with a DRBG
that serves (R202), a lineage sweep once the one before it has ended (R233), a measurement's digest when the bytes of its next
step have been read (R25). -/
def State.devReady (s : State) (d : DevJob) : Bool := match d.what with
  | .checkpoint => s.ckptRoom && !s.drbgFails
  | .sweep => !s.devJobs.any (fun x => x.what == .sweep && x.id != d.id && 0 < x.taken)
  | .pair _ _ _ (.sign _ _) => !s.drbgFails
  | .digest n _ => (s.port n).mode != .measure ||
      decide (8 * min (768 * (d.taken + 1)) (s.port n).measureLen ≤ (s.port n).measBits)
  | _ => true

/-- The groups after the last one served, in round-robin order. -/
def nextGroup (last : Nat) (p : Nat → Bool) : Option Nat :=
  ((List.range 64).map (fun i => (last + 1 + i) % 64)).find? p

/-- The oldest job of a class at an ANY entry, and the round-robin pointer it leaves (R45). -/
def State.anyJob (s : State) (cls : Nat) (kind : LaneKind) : Option (Job × State) :=
  let key := cls * 8 + kind.idx
  match nextGroup ((getKey s.yard.rr key).getD 63) (fun g => !(s.queue cls kind (· == g)).isEmpty) with
  | none => none
  | some g => (oldest (s.queue cls kind (· == g))).map
      (fun j => (j, s.modYard (fun y => { y with rr := putKey y.rr key g })))

/-- An import of a hamper needs the bytes that its read brings. -/
def Job.needsHamper (j : Job) : Bool := match j.src with
  | .hamper _ _ out => !out
  | _ => false

/-- The sheet lets the lanes of a sheet lend their slots (R49). -/
def State.lends (s : State) : Bool := match s.sheet? s.yard.sheet with
  | some x => x.lend
  | none => false

/-- One free lane at this boundary (R45): a pair check first (R324), then what its entry names. `hamper` is the read of an
import, `none` where the boundary itself dispatches. -/
def State.dispatchLane (s : State) (lane : Nat) (hamper : Option Bytes) : State :=
  let l := s.lane lane
  let kind := laneKind lane
  let e := s.sheetEntry s.yard.sheet lane (s.roundAt s.core.frameCt) (s.posAt s.core.frameCt)
  if !s.laneIdle lane ∨ l.spent ∨ e.1 = 6 then s
  else match s.devJobs.find? (fun d => d.what == .pairCheck lane && d.lane.isNone && d.taken == 0) with
    | some d => s.devOnLane d lane
    | none =>
      let fit := s.devJobs.filter (fun d => d.lane.isNone && d.taken < d.what.steps && d.since < s.now && d.what.fits lane e.1 &&
        s.devReady d)
      if l.quarantine ∨ l.disabled then s
      else if l.needTest then match oldestDev (fit.filter (fun d => d.what == .selfTest lane)) with
        | some d => s.devOnLane d lane
        | none => s
      else
        let q := if e.1 = 0 ∨ e.1 = 5 then
            match oldestDev fit, oldest (s.queue e.1 kind (fun _ => true)) with
            | some d, some j => if older (d.since, d.id) (j.accAt, j.id) then none else some (j, s)
            | some _, none => none
            | none, some j => some (j, s)
            | none, none => none
          else if e.2 = 0xFF then s.anyJob e.1 kind
          else match oldest (s.queue e.1 kind (· == e.2)) with
            | some j => some (j, s)
            | none => if s.lends then s.anyJob e.1 kind else none
        match q with
        | some (j, s') => match j.needsHamper, hamper with
          | true, none => s
          | _, h => s'.offer j lane (h.getD [])
        | none => match oldestDev fit with
          | some d => s.devOnLane d lane
          | none => s

/-- Step 4 of R33: every free lane in sheet row order. -/
def State.dispatchAll (s : State) : State := (List.range 92).foldl (fun s l => s.dispatchLane l none) s

/-- A class with ready jobs and no slot anywhere in the active sheet (R48). -/
def State.classWithoutSlots (s : State) : Bool :=
  s.jobs.any (fun j => s.offered j && !s.classOn j.kind j.cls)

/-! ### Steps (R33 order 5, R36, R37) -/

/-- Step `k` of a lineage sweep, from 1: 512 slots in index order; every slot whose chain fails is revoked (R233). -/
def State.sweepStep (s : State) (k : Nat) : State :=
  s.tack.keys.foldl (fun s x =>
    if 512 * (k - 1) ≤ x.slot ∧ x.slot < 512 * k then match s.tack.key? x.slot with
      | some x => if x.st ≠ .revoked ∧ x.st ≠ .lost ∧ !s.tack.chainOk 4 x.parent then
          (s.revokeKey x).modTack (fun t => { t with swept := t.swept + 1 }) else s
      | none => s
    else s) s

/-- Running programmes take their next step. -/
def State.stepAll (s : State) : State :=
  (s.modJobs (fun l => l.map (fun j => if j.lane.isSome then { j with taken := j.taken + 1 } else j))).modDevJobs
    (fun l => l.map (fun d => if d.lane.isSome then { d with taken := d.taken + 1 } else d))

/-- The slots that a lineage sweep examines in the step that it has just taken; `before` is how the device jobs stood. -/
def State.sweepSteps (s : State) (before : List DevJob) : State :=
  s.devJobs.foldl (fun s d =>
    if d.what ≠ .sweep ∨ d.lane.isNone ∨ before.any (fun x => x.id == d.id && x.taken == d.taken) then s
    else (if d.taken = 1 then s.modTack (fun t => { t with swept := 0 }) else s).sweepStep d.taken) s

/-- At the start of a boundary the lanes whose programme or whose segmented step has ended are free, and a segmented job
counts as accepted in the frame that ended (R36, R257); zeroizations count down (R34). -/
def State.endSteps (s : State) : State :=
  let s := s.modYard (fun y => { y with lanes := y.lanes.map (fun l => { l with zero := l.zero - 1, spent := false }) })
  let free := fun (s : State) (l : Nat) => s.modLane l Lane.empty
  let s := s.jobs.foldl (fun s j => match j.lane with
    | none => s
    | some l => if j.segmented ∨ j.steps ≤ j.taken then
        let s := (free s l).modJob j.id (fun j => { j with lane := none, accAt := s.now - 1 })
        let s := if 0x44 ≤ j.op ∧ j.op ≤ 0x48 then s.modStream j.pad j.keyB (fun x => { x with lastUse := s.now - 1 }) else s
        match j.src with
        | .hamper _ _ _ => s.hamperDone j
        | _ => s
      else s) s
  s.devJobs.foldl (fun s d => match d.lane with
    | some l => if d.what.segmented ∨ d.what.steps ≤ d.taken then
        (free s l).modDev d.id (fun d => { d with lane := none, since := s.now - 1 }) else s
    | none => s) s

/-! ### Faults (R324, R325) -/

/-- The attention leaf of a pair. -/
def State.latchPair (s : State) (lane : Nat) : State := if lane < 20 then s.latch 15 (lane - 4) else s.latch 16 (lane - 20)

/-- A fault counts, and the fourth within 1 s raises monitor 21 (R325, R496). -/
def State.countFault (s : State) : State :=
  let f := s.yard.faultFrames
  let third := f.getD (f.length - 3) 0
  let hit := 3 ≤ f.length ∧ s.now ≤ third + secFrames
  let s := s.modYard (fun y => { y with faults := y.faults + 1, faultFrames := (f ++ [s.now]).drop (f.length - 3) })
  if hit then s.monDetect 21 else s

/-- A pair is quarantined and its pair check waits (R324). -/
def State.quarantinePair (s : State) (lane : Nat) : State :=
  let s := s.countFault.modLane lane (fun l => { l with quarantine := true })
  let s := (s.latchPair lane).ev 1 8 .pairQuarantined [lane]
  if s.devJobs.any (fun d => d.what == .pairCheck lane) then s else s.addDev (.pairCheck lane)

end Sys2Proof.Machine
end

