-- ==== Sys2Proof/Machine/Services.lean ====
section
/-! DEFINITION. What the block-lane services compute: PIN blocks, DUKPT, cryptograms, key blocks, derivation
(R239 to R241, R278 to R289, R335 to R351). PRESUMED (log 8): ISO 9564-1, X9.24-3, EMV Book 2 and X9.143 give them. -/

namespace Sys2Proof.Machine

open Sys2Proof

/-- How a job ends: status, inline result, destination bytes, result length, new key. -/
structure Ending where
  st : Nat
  inl : Bytes
  dest : Bytes
  len : Nat
  key : Option Key
  deriving DecidableEq, Repr

/-- A job that ends without a result. -/
def bare (st : Nat) : Ending := { st := st, inl := [], dest := [], len := 0, key := none }

/-- A job whose result is a value: the first 16 bytes inline, all of it at the destination (R333). -/
def value (v : Bytes) : Ending := { st := stOk, inl := v.take 16, dest := v, len := v.length, key := none }

/-- A value that goes inline only. -/
def inlineOnly (v : Bytes) : Ending := { st := stOk, inl := v, dest := [], len := v.length, key := none }

/-- The key in the first loaded field. -/
def Job.secA (j : Job) : Bytes := match j.loadedA with | some k => k.secret | none => []

/-- The key in the second loaded field. -/
def Job.secB (j : Job) : Bytes := match j.loadedB with | some k => k.secret | none => []

/-- Type of the first loaded key. -/
def Job.typA (j : Job) : Nat := match j.loadedA with | some k => k.typ | none => 0

/-- Type of the second loaded key. -/
def Job.typB (j : Job) : Nat := match j.loadedB with | some k => k.typ | none => 0

/-! ### PIN blocks (R335 to R341) -/

/-- Pack nibbles into bytes. -/
def packNibbles (l : List Nat) : Bytes := (groups 2 l).map (fun g => BitVec.ofNat 8 (16 * g.getD 0 0 + g.getD 1 0))

/-- The PAN digits of a source. -/
def panDigits (len off : Nat) (d : Bytes) : List Nat := (nibbles (slice d off 10)).take len

/-- The 12 rightmost digits excluding the check digit, zero-filled on the left. -/
def pan12 (pan : List Nat) : List Nat :=
  let b := pan.dropLast
  let t := b.drop (b.length - 12)
  List.replicate (12 - t.length) 0 ++ t

/-- The PAN field of formats 0 and 3. -/
def panField8 (pan : List Nat) : Bytes := packNibbles ([0, 0, 0, 0] ++ pan12 pan)

/-- The PAN field of format 4. -/
def panField16 (pan : List Nat) : Bytes :=
  let l := (pan.length - 12) :: pan
  packNibbles (l ++ List.replicate (32 - l.length) 0)

/-- The PIN that a deciphered field holds, or `none` where R336 refuses it. -/
def pinOfField (f : Nat) (n : List Nat) : Option (List Nat) :=
  let len := n.getD 1 0
  let digits := (n.drop 2).take len
  let fill := (n.take 16).drop (2 + len)
  let fillOk := if f = 0 then fill.all (· == 15) else if f = 3 then fill.all (10 ≤ ·) else if f = 4 then fill.all (· == 10)
    else true
  if n.getD 0 0 = f ∧ 4 ≤ len ∧ len ≤ 12 ∧ digits.all (· < 10) ∧ fillOk then some digits else none

/-- Decipher a PIN block (R335, R336). -/
def pinDecode (f t : Nat) (key : Bytes) (pan : List Nat) (b : Bytes) : Option (List Nat) :=
  if f = 4 then
    let a := xorB (decBlock t key b) (panField16 pan)
    pinOfField 4 (nibbles (decBlock t key a))
  else
    let x := tdeaDec key (b.take 8)
    pinOfField f (nibbles (if f = 1 then x else xorB x (panField8 pan)))

/-- Encipher a PIN in a format with fill from a draw (R335). -/
def pinEncode (f t : Nat) (key : Bytes) (pan pin : List Nat) (rnd : Bytes) : Bytes :=
  let r := nibbles rnd
  let fill := fun (n : Nat) => if f = 0 then List.replicate n 15 else if f = 4 then List.replicate n 10
    else if f = 3 then (r.take n).map (fun x => 10 + x % 6) else r.take n
  let head := f :: pin.length :: pin
  let field := packNibbles (head ++ fill (16 - head.length))
  if f = 4 then
    encBlock t key (xorB (encBlock t key (field ++ (rnd.drop 8).take 8)) (panField16 pan))
  else tdeaEnc key (if f = 1 then field else xorB field (panField8 pan))

/-- The check value of a PIN (R341). -/
def pinCheck (t : Nat) (key : Bytes) (pan pin : List Nat) : Bytes :=
  (cmac t key (bytesOf [0x50, pin.length] ++ packNibbles (pin ++ List.replicate (12 - pin.length) 15) ++
    packNibbles (pan12 pan) ++ zeros 2)).take 4

/-- The PAN of a PIN job. -/
def Job.pan (j : Job) : List Nat := panDigits (u8 j.data 2) 4 j.data

/-- PIN_TRANSLATE from a deciphering key (R339). -/
def pinTranslateFrom (j : Job) (t : Nat) (key : Bytes) : Ending :=
  let g := u8 j.data 1
  match pinDecode (u8 j.data 0) t key j.pan (slice j.data 16 16) with
  | none => bare stInputRange
  | some pin => inlineOnly (pinEncode g j.typB j.secB j.pan pin (Config.drbg j.drawNo 16))

/-- PIN_TRANSLATE. -/
def Job.pinTranslate (j : Job) : Ending := pinTranslateFrom j j.typA j.secA

/-- PIN_VERIFY (R340). -/
def Job.pinVerify (j : Job) : Ending :=
  let g := u8 j.data 1
  let input := pinDecode (u8 j.data 0) j.typA j.secA j.pan (slice j.data 16 16)
  if j.param = 1 then
    match input, pinDecode g j.typB j.secB j.pan (slice j.data 32 16) with
    | some a, some b => bare (if a = b then stOk else stMismatch)
    | _, _ => bare stInputRange
  else match input with
    | some a => bare (if pinCheck j.typB j.secB j.pan a = slice j.data 32 4 then stOk else stMismatch)
    | none => bare stInputRange

/-- PIN_CHECK_VALUE (R341). -/
def Job.pinCheckValue (j : Job) : Ending :=
  match pinDecode (u8 j.data 0) j.typA j.secA j.pan (slice j.data 16 16) with
  | none => bare stInputRange
  | some pin => inlineOnly (pinCheck j.typB j.secB j.pan pin)

/-- Blocks that R336 refused in an ended PIN job. -/
def Job.pinBad (j : Job) : Nat :=
  let input := pinDecode (u8 j.data 0) j.typA j.secA j.pan (slice j.data 16 16)
  b2n input.isNone + (if j.op = 0x11 ∧ j.param = 1 then
    b2n (pinDecode (u8 j.data 1) j.typB j.secB j.pan (slice j.data 32 16)).isNone else 0)

/-! ### DUKPT (R342 to R344) -/

/-- AES DUKPT derivation data of X9.24-3 for a derived key of `bits` bits. -/
def dukptData (n usage bits : Nat) (tail : Bytes) : Bytes :=
  bytesOf [1, n] ++ beN 2 usage ++ beN 2 (if bits = 128 then 2 else if bits = 192 then 3 else 4) ++ beN 2 bits ++ tail

/-- One AES DUKPT derivation. -/
def dukptAes (t : Nat) (key : Bytes) (usage bits : Nat) (tail : Bytes) : Bytes :=
  ((List.range (ceilDiv bits 128)).flatMap (fun i => encBlock t key (dukptData (i + 1) usage bits tail))).take (bits / 8)

/-- Initial key of an AES BDK. -/
def dukptAesInitial (t : Nat) (bdk : Bytes) (bits : Nat) (id : Bytes) : Bytes := dukptAes t bdk 0x8001 bits id

/-- The PIN encryption key of AES DUKPT for a counter, 16 steps from the top bit down. -/
def dukptAesPin (t : Nat) (ik id : Bytes) (ctr : Nat) : Bytes :=
  let st := (List.range 32).foldl (fun (a : Nat × Bytes × Nat) i =>
    let bit := 31 - i
    if ctr.testBit bit then
      let w := a.1 + 2 ^ bit
      (w, dukptAes a.2.2 a.2.1 0x8000 128 (slice id 4 4 ++ beN 4 w), 1)
    else a) (0, ik, t)
  dukptAes st.2.2 st.2.1 0x1000 128 (slice id 4 4 ++ beN 4 ctr)

/-- The mask that marks the variant keys of TDEA DUKPT. -/
def dukptMask : Bytes := bytesOf [0xC0, 0xC0, 0xC0, 0xC0, 0, 0, 0, 0, 0xC0, 0xC0, 0xC0, 0xC0, 0, 0, 0, 0]

/-- A key serial number with its counter bits zero. -/
def ksnBase (ksn : Bytes) : Bytes := beN 10 (ofBE ksn / 2 ^ 21 * 2 ^ 21)

/-- Initial key of a TDEA BDK. -/
def dukptTdeaInitial (bdk ksn : Bytes) : Bytes :=
  let k := (ksnBase ksn).take 8
  tdeaEnc bdk k ++ tdeaEnc (xorB bdk dukptMask) k

/-- Non-reversible key generation. -/
def dukptNext (cur r8 : Bytes) : Bytes :=
  let half := fun (k : Bytes) => xorB (desEnc (k.take 8) (xorB r8 (k.drop 8))) (k.drop 8)
  half (xorB cur dukptMask) ++ half cur

/-- The PIN encryption key of TDEA DUKPT. -/
def dukptTdeaPin (ik ksn : Bytes) : Bytes :=
  let ctr := ofBE ksn % 2 ^ 21
  let base := ofBE ((ksnBase ksn).drop 2)
  let st := (List.range 21).foldl (fun (a : Nat × Bytes) i =>
    let bit := 20 - i
    if ctr.testBit bit then
      let w := a.1 + 2 ^ bit
      (w, dukptNext a.2 (beN 8 (base + w)))
    else a) (0, ik)
  xorB st.2 (bytesOf [0, 0, 0, 0, 0, 0, 0, 0xFF, 0, 0, 0, 0, 0, 0, 0, 0xFF])

/-- DUKPT_PIN_TRANSLATE (R343). -/
def Job.dukptTranslate (j : Job) : Ending :=
  let initial := match j.loadedA with | some k => k.initial | none => false
  if j.param = 1 then
    let id := slice j.data 32 8
    let ik := if initial then j.secA else dukptAesInitial j.typA j.secA 128 id
    pinTranslateFrom j 1 (dukptAesPin (if initial then j.typA else 1) ik id (ofBE (slice j.data 40 4)))
  else
    let ksn := slice j.data 32 10
    let ik := if initial then j.secA else dukptTdeaInitial j.secA ksn
    pinTranslateFrom j 4 (dukptTdeaPin ik ksn)

/-! ### MACs (R345) and cryptograms (R346 to R348) -/

/-- MAC_GENERATE. -/
def Job.macGenerate (j : Job) : Ending := value ((macOf j.param j.typA j.secA j.data).take j.dstLen)

/-- MAC_VERIFY. -/
def Job.macVerify (j : Job) : Ending :=
  bare (if (macOf j.param j.typA j.secA (j.data.drop j.dstLen)).take j.dstLen = j.data.take j.dstLen then stOk
    else stMismatch)

/-- Exclusive or with all ones. -/
def invB (b : Bytes) : Bytes := b.map (fun x => ~~~x)

/-- The card master key: option A for TDEA, option C for AES (R346). -/
def cardKey (t : Nat) (imk : Bytes) (pan : List Nat) (psn : Nat) : Bytes :=
  let l := pan ++ [psn / 16, psn % 16]
  if isTdea t then
    let y := packNibbles (List.replicate (16 - l.length) 0 ++ l.drop (l.length - 16))
    tdeaEnc imk y ++ tdeaEnc imk (invB y)
  else
    let y := packNibbles (List.replicate (32 - l.length) 0 ++ l)
    (encBlock t imk y ++ encBlock t imk (invB y)).take (keyLen t)

/-- Common session key derivation (R346). -/
def sessionKey (t : Nat) (mk atc : Bytes) : Bytes :=
  let n := blockLen t
  let r := fun (x : Nat) => fit n (atc ++ bytesOf [x])
  if keyLen t = n then encBlock t mk (r 0)
  else (encBlock t mk (r 0xF0) ++ encBlock t mk (r 0x0F)).take (keyLen t)

/-- The MAC of a cryptogram: ISO 9797-1 algorithm 3 with padding method 2, or CMAC. -/
def arqcMac (t : Nat) (sk m : Bytes) : Bytes := if isTdea t then macAlg3 sk (isoPad 8 true m) else (cmac t sk m).take 8

/-- Card, session key and cryptogram of a cryptogram job. -/
def Job.arqcKey (j : Job) : Bytes :=
  let mk := cardKey j.typA j.secA ((nibbles (slice j.data 1 10)).take (u8 j.data 0)) (u8 j.data 11)
  if j.param % 4 = 0 then sessionKey j.typA mk (slice j.data 12 2) else mk

/-- The response cryptogram, method 1 or 2. -/
def Job.arpc (j : Job) : Bytes :=
  let sk := j.arqcKey
  let arqc := slice j.data 16 8
  if j.param / 4 = 1 then
    let x := xorB arqc (slice j.data 24 2 ++ zeros 6)
    if isTdea j.typA then tdeaEnc sk x else (encBlock j.typA sk (x ++ zeros 8)).take 8
  else (arqcMac j.typA sk (arqc ++ slice j.data 24 4 ++ slice j.data 28 (u8 j.data 15))).take 4

/-- The cryptogram matches. -/
def Job.arqcOk (j : Job) : Bool := arqcMac j.typA j.arqcKey (slice j.data 48 (u8 j.data 14)) == slice j.data 16 8

/-- CRYPTOGRAM_VERIFY. -/
def Job.cryptogram (j : Job) : Ending := bare (if j.arqcOk then stOk else stMismatch)

/-- CRYPTOGRAM_VERIFY_RESPOND. -/
def Job.cryptogramRespond (j : Job) : Ending := if j.arqcOk then inlineOnly j.arpc else bare stMismatch

/-! ### Derivation (R351) -/

/-- Method 0: SP 800-108 in counter mode with HMAC-SHA-384. -/
def kdf (key label ctx : Bytes) (len : Nat) : Bytes :=
  ((List.range (ceilDiv len 48)).flatMap (fun i =>
    hmac384 key (beN 4 (i + 1) ++ label ++ zeros 1 ++ ctx ++ beN 4 (8 * len)))).take len

/-- Method 2: the DUKPT initial key. -/
def dukptInitial (t : Nat) (bdk : Bytes) (newTyp : Nat) (data : Bytes) : Bytes :=
  if isAes t then dukptAesInitial t bdk (8 * keyLen newTyp) data else dukptTdeaInitial bdk data

/-- The derived secret of a method, from the parent, the new type and the derivation data. -/
def deriveSecret (method : Nat) (parent : Key) (newTyp : Nat) (data : Bytes) : Bytes :=
  if method = 0 then
    let l := u8 data 0
    kdf parent.secret (slice data 4 l) (slice data (4 + l) (u8 data 1)) (keyLen newTyp)
  else fit (keyLen newTyp) (dukptInitial parent.typ parent.secret newTyp data)

/-! ### Key blocks (R239 to R241) -/

/-- The keys of a key block: encryption, MAC (log 8). -/
def kbKeys (t : Nat) (kek : Bytes) : Bytes × Bytes :=
  let alg := if t = 4 then 0 else if t = 5 then 1 else if t = 1 then 2 else if t = 2 then 3 else 4
  let n := blockLen t
  let mk := fun (usage : Nat) => ((List.range (ceilDiv kek.length n)).flatMap (fun i =>
    cmac t kek (bytesOf [i + 1] ++ beN 2 usage ++ zeros 1 ++ beN 2 alg ++ beN 2 (8 * kek.length)))).take kek.length
  (mk 0, mk 1)

/-- The usage bits of a header, and whether INITIAL is set; `none` for another usage or mode (R240). -/
def kbUsage (h : Bytes) (priv : Bool) : Option (Nat × Bool) :=
  let u := u8 h 5
  let v := u8 h 6 - 0x30
  let m := u8 h 8
  let pair := fun (a b : Nat) =>
    if m = 0x42 ∨ m = 0x4E then some (a + b, false)
    else if m = 0x45 ∨ m = 0x47 then some (a, false)
    else if m = 0x44 ∨ m = 0x56 then some (b, false) else none
  if u = 0x50 ∧ v = 0 then some (uPinEnc, false)
  else if u = 0x56 ∧ v ≤ 2 then some (uPinVer, false)
  else if u = 0x4D ∧ (v = 0 ∨ v = 1 ∨ v = 3 ∨ v = 6) then pair uMacGen uMacVer
  else if u = 0x4B ∧ v ≤ 1 then pair uWrap uUnwrap
  else if u = 0x42 ∧ v = 0 then some (uBdk, false)
  else if u = 0x42 ∧ v = 1 then some (uBdk, true)
  else if u = 0x45 ∧ v ≤ 2 then some (uCryptogram, false)
  else if u = 0x53 ∧ v ≤ 2 then some (if priv then uSign else uVerify, false)
  else none

/-- The key type that a header's algorithm and a key length name. -/
def kbType (h : Bytes) (len : Nat) : Nat :=
  let a := u8 h 7
  if a = 0x41 then (if len = 16 then 1 else if len = 24 then 2 else if len = 32 then 3 else 0)
  else if a = 0x54 then (if len = 16 then 4 else if len = 24 then 5 else 0)
  else 0

/-- What an imported block gives: type, secret, usage, INITIAL, export class; or the failing status. -/
def kbImport (kek : Key) (b : Bytes) : Except Nat (Nat × Bytes × Nat × Bool × Nat) :=
  match keyBlockOf b with
  | none => .error stBadFormat
  | some k =>
    let ks := kbKeys kek.typ kek.secret
    let n := blockLen kek.typ
    if (k.version = 0x44) ≠ isAes kek.typ then .error stBadFormat
    else if (kbUsage k.header true).isNone then .error stKeyUsage
    else
      let plain := cbcDec kek.typ ks.1 (k.mac.take n) k.payload
      if cmac kek.typ ks.2 (k.header ++ plain) ≠ k.mac then .error stMismatch
      else
        let len := ofBE (plain.take 2) / 8
        let data := slice plain 2 len
        let sym := kbType k.header len
        let r := if sym ≠ 0 then (sym, data) else Config.asymKey k.header data
        let ex := if u8 k.header 11 = 0x45 then 1 else 0
        if plain.length < 2 + len ∨ r.1 = 0 ∨ !keyDefined r.1 ∨ r.2.length ≠ keyLen r.1 then .error stBadFormat
        else match kbUsage k.header (isEccPriv r.1 || isRsaPriv r.1 || isDsaPriv r.1) with
          | none => .error stKeyUsage
          | some u => if keyStrength kek.typ < keyStrength r.1 then .error stKeyDenied
                      else .ok (r.1, r.2, u.1, u.2, ex)

/-- The attributes that an import gives, from its template and the header (R241, R349). -/
def importAttrs (t : NewKey) (r : Nat × Bytes × Nat × Bool × Nat) : Except Nat NewKey :=
  let ask := field t.flags 5 4
  let ex := if exportRank ask ≤ exportRank r.2.2.2.2 then ask else r.2.2.2.2
  let fl := (t.flags - t.flags % 64) + 16 * ex + (if r.2.2.2.1 then 8 else 0)
  if (t.typ ≠ 0 ∧ t.typ ≠ r.1) ∨ (t.usage ≠ 0 ∧ t.usage ≠ r.2.2.1) then .error stKeyUsage
  else .ok { t with typ := r.1, usage := r.2.2.1, flags := fl }

/-- The header's key usage and mode of an exported key; `none` where R240 has none (log 34). -/
def exportUsage (k : Key) : Option (String × String) :=
  let u := k.usage.toNat
  let mode := fun (a b : Nat) => if u = a then "G" else if u = b then "V" else "B"
  let wrap := fun (a b : Nat) => if u = a then "E" else if u = b then "D" else "B"
  if u = uPinEnc then some ("P0", "B") else if u = uPinVer then some ("V0", "V")
  else if u &&& 0xC ≠ 0 then some (if isAes k.typ then "M6" else "M3", mode uMacGen uMacVer)
  else if u &&& 0x30 ≠ 0 then some ("K0", wrap uWrap uUnwrap)
  else if u = uBdk then some (if k.initial then "B1" else "B0", "N")
  else if u = uCryptogram then some ("E0", "N")
  else if u &&& uSign ≠ 0 then some ("S0", "N") else if u = uVerify then some ("S0", "V")
  else none

/-- The algorithm character of an exported key. -/
def exportAlg (t : Nat) : String :=
  if isAes t then "A" else if isTdea t then "T" else if isRsaPriv t ∨ (0x34 ≤ t ∧ t ≤ 0x36) then "R" else "E"

/-- Upper-case hexadecimal in ASCII. -/
def hexOf (b : Bytes) : Bytes :=
  (nibbles b).map (fun v => BitVec.ofNat 8 (if v < 10 then 0x30 + v else 0x37 + v))

/-- Four decimal digits in ASCII. -/
def dec4 (n : Nat) : Bytes := bytesOf ([n / 1000 % 10, n / 100 % 10, n / 10 % 10, n % 10].map (· + 0x30))

/-- The key data of a key in a block. -/
def kbData (k : Key) : Bytes := if isSym k.typ then k.secret else Config.asymData k.typ k.secret

/-- An exported key block (R239, R241); its padding bytes are free (log 34). -/
def kbExport (kek k : Key) (never : Bool) (pad : Bytes) : Option Bytes :=
  match exportUsage k with
  | none => none
  | some (u, m) =>
    let unit := blockLen kek.typ
    let macLen := if isAes kek.typ then 16 else 8
    let data := beN 2 (8 * k.secret.length) ++ fit k.secret.length (kbData k)
    let plain := data ++ pad.take (kbPayload unit k.secret.length - data.length)
    let total := 16 + 2 * plain.length + 2 * macLen
    let head := ascii (if isAes kek.typ then "D" else "B") ++ dec4 total ++ ascii u ++ ascii (exportAlg k.typ) ++ ascii m ++
      ascii "00" ++ ascii (if never then "N" else "E") ++ ascii "0000"
    let ks := kbKeys kek.typ kek.secret
    let mac := cmac kek.typ ks.2 (head ++ plain)
    some (head ++ hexOf (cbcEnc kek.typ ks.1 (mac.take unit) plain) ++ hexOf mac)

/-- Free bytes for the padding of an exported block. -/
def State.freePad (s : State) : Bytes := (List.range 32).map (Config.freeByte s.tack.draws)

/-- A key of the parent chain, or the key itself, has export class NEVER (R241). -/
def State.chainNever (s : State) (k : Key) : Bool :=
  (k.slot :: s.tack.ancestors 3 k.parent).any (fun x => match s.tack.key? x with
    | some q => q.exportCls == 0
    | none => false)

end Sys2Proof.Machine
end

