-- ==== Sys2Proof/Machine/Pk.lean ====
section
/-! DEFINITION. What the pairs compute: the input screen, signatures, agreement, KEM, key pairs, curve loads
(R302, R305 to R323). The number theory is uninterpreted (log 9); the curve constants are those of FIPS 186-5, SP 800-186
and RFC 5639 (log 8). -/

namespace Sys2Proof.Machine

open Sys2Proof

/-- A short Weierstrass curve: p, a, b, generator, n, cofactor. -/
structure Curve where
  p : Nat
  a : Nat
  b : Nat
  gx : Nat
  gy : Nat
  n : Nat
  h : Nat
  deriving DecidableEq, Repr

/-- The built-in curves by code (R303). -/
def builtinCurve (c : Nat) : Curve :=
  match c with
  | 1 => { p := 0xffffffff00000001000000000000000000000000ffffffffffffffffffffffff,
           a := 0xffffffff00000001000000000000000000000000fffffffffffffffffffffffc,
           b := 0x5ac635d8aa3a93e7b3ebbd55769886bc651d06b0cc53b0f63bce3c3e27d2604b,
           gx := 0x6b17d1f2e12c4247f8bce6e563a440f277037d812deb33a0f4a13945d898c296,
           gy := 0x4fe342e2fe1a7f9b8ee7eb4a7c0f9e162bce33576b315ececbb6406837bf51f5,
           n := 0xffffffff00000000ffffffffffffffffbce6faada7179e84f3b9cac2fc632551, h := 1 }
  | 2 => { p := 2 ^ 384 - 2 ^ 128 - 2 ^ 96 + 2 ^ 32 - 1, a := 2 ^ 384 - 2 ^ 128 - 2 ^ 96 + 2 ^ 32 - 4,
           b := 0xb3312fa7e23ee7e4988e056be3f82d19181d9c6efe8141120314088f5013875ac656398d8a2ed19d2a85c8edd3ec2aef,
           gx := 0xaa87ca22be8b05378eb1c71ef320ad746e1d3b628ba79b9859f741e082542a385502f25dbf55296c3a545e3872760ab7,
           gy := 0x3617de4a96262c6f5d9e98bf9292dc29f8f41dbd289a147ce9da3113b5f0b8c00a60b1ce1d7e819d7a431d7c90ea0e5f,
           n := 0xffffffffffffffffffffffffffffffffffffffffffffffffc7634d81f4372ddf581a0db248b0a77aecec196accc52973,
           h := 1 }
  | 3 => { p := 2 ^ 521 - 1, a := 2 ^ 521 - 4,
           b := 0x051953eb9618e1c9a1f929a21a0b68540eea2da725b99b315f3b8b489918ef109e156193951ec7e937b1652c0bd3bb1bf073573df883d2c34f1ef451fd46b503f00,
           gx := 0x00c6858e06b70404e9cd9e3ecb662395b4429c648139053fb521f828af606b4d3dbaa14b5e77efe75928fe1dc127a2ffa8de3348b3c1856a429bf97e7e31c2e5bd66,
           gy := 0x011839296a789a3bc0045c8a5fb42c7d1bd998f54449579b446817afbd17273e662c97ee72995ef42640c550b9013fad0761353c7086a272c24088be94769fd16650,
           n := 0x1fffffffffffffffffffffffffffffffffffffffffffffffffffffffffffffffffa51868783bf2f966b7fcc0148f709a5d03bb5c9b8899c47aebb6fb71e91386409,
           h := 1 }
  | 4 => { p := 0xa9fb57dba1eea9bc3e660a909d838d726e3bf623d52620282013481d1f6e5377,
           a := 0x7d5a0975fc2c3057eef67530417affe7fb8055c126dc5c6ce94a4b44f330b5d9,
           b := 0x26dc5c6ce94a4b44f330b5d9bbd77cbf958416295cf7e1ce6bccdc18ff8c07b6,
           gx := 0x8bd2aeb9cb7e57cb2c4b482ffc81b7afb9de27e1e3bd23c23a4453bd9ace3262,
           gy := 0x547ef835c3dac4fd97f8461a14611dc9c27745132ded8e545c1d54c72f046997,
           n := 0xa9fb57dba1eea9bc3e660a909d838d718c397aa3b561a6f7901e0e82974856a7, h := 1 }
  | _ => { p := 0x8cb91e82a3386d280f5d6f7e50e641df152f7109ed5456b412b1da197fb71123acd3a729901d1a71874700133107ec53,
           a := 0x7bc382c63d8c150c3c72080ace05afa0c2bea28e4fb22787139165efba91f90f8aa5814a503ad4eb04a8c7dd22ce2826,
           b := 0x04a8c7dd22ce28268b39b55416f0447c2fb77de107dcd2a62e880ea53eeb62d57cb4390295dbc9943ab78696fa504c11,
           gx := 0x1d1c64f068cf45ffa2a63a81b7c13f6b8847a3e77ef14fe3db7fcafe0cbd10e8e826e03436d646aaef87b2e247d4af1e,
           gy := 0x8abe1d7520f9c2a45cb1eb8e95cfd55262b70b29feec5864e19c054ff99129280e4646217791811142820341263c5315,
           n := 0x8cb91e82a3386d280f5d6f7e50e641df152f7109ed5456b31f166e6cac0425a7cf3ab6af6b7fc3103b883202e9046565,
           h := 1 }

/-- The curve of a parameter set (R212). -/
def curveOf (c : Bytes) : Curve :=
  { p := curveP c, a := ofBE (slice c 66 66), b := ofBE (slice c 132 66), gx := ofBE (slice c 198 66),
    gy := ofBE (slice c 264 66), n := curveN c, h := curveH c }

/-- The curve of a job: built in, or the set in key B. -/
def Job.curve (j : Job) : Curve :=
  if j.param < 6 then builtinCurve j.param
  else match (match j.loadedB with | some k => some k | none => j.loadedA) with
    | some k => curveOf k.secret
    | none => builtinCurve 1

/-- Lp and Ln of a job's curve. -/
def Job.lens (j : Job) : Nat × Nat := (byteLen j.curve.p, byteLen j.curve.n)

/-- Screen of a point, checks 1 to 4 of R315. -/
def screenPoint (c : Curve) (l : Nat) (q : Bytes) : Nat :=
  let x := ofBE (q.take l)
  let y := ofBE (slice q l l)
  if allZero q then stPointInvalid
  else if x = 0 ∨ y = 0 then stInputZero
  else if c.p ≤ x ∨ c.p ≤ y then stInputRange
  else if (y * y) % c.p ≠ (x * x * x + c.a * x + c.b) % c.p then stPointInvalid else 0

/-- The first non-zero status. -/
def firstSt (l : List Nat) : Nat := (l.find? (· != 0)).getD 0

/-- Screen of a scalar against an order. -/
def screenScalar (n v : Nat) : Nat := if v = 0 then stInputZero else if n ≤ v then stInputRange else 0

/-- Screen of r and s: a zero in either first, then the range (R315). -/
def screenRs (n r t : Nat) : Nat :=
  if r = 0 ∨ t = 0 then stInputZero else if n ≤ r ∨ n ≤ t then stInputRange else 0

/-- The primes of Curve25519 and Curve448, and the orders of the Edwards groups. -/
def p25519 : Nat := 2 ^ 255 - 19
def p448 : Nat := 2 ^ 448 - 2 ^ 224 - 1
def l25519 : Nat := 2 ^ 252 + 27742317777372353535851937790883648493
def l448 : Nat := 2 ^ 446 - 13818066809895115352007386748515426880336692474882178609894547503885

/-- The y of an encoded Edwards point. -/
def edY (code : Nat) (b : Bytes) : Nat := if code = 8 then ofLE b % 2 ^ 255 else ofLE (b.take 56)

/-- Screen of an Edwards verification (R315). -/
def screenEd (code : Nat) (a r sc : Bytes) : Nat :=
  let p := if code = 8 then p25519 else p448
  let l := if code = 8 then l25519 else l448
  if p ≤ edY code a ∨ p ≤ edY code r then stInputRange
  else if !Config.edCheck code 0 a ∨ !Config.edCheck code 0 r then stPointInvalid
  else if !Config.edCheck code 1 a then stPointInvalid
  else if ofLE sc = 0 then stInputZero else if l ≤ ofLE sc then stInputRange else 0

/-- Screen of a Montgomery u coordinate (R315). -/
def screenU (code : Nat) (u : Bytes) : Nat :=
  if ofLE u = 0 then stInputZero
  else if code = 0x0A then (if p25519 ≤ ofLE u % 2 ^ 255 then stInputRange else 0)
  else if p448 ≤ ofLE u then stInputRange else 0

/-- Screen of an RSA public key and signature (R315). -/
def screenRsaPub (n sig : Bytes) : Nat :=
  if ofBE n % 2 = 0 ∨ ofBE n < 2 ^ (8 * n.length - 1) then stInputRange
  else if ofBE sig = 0 then stInputZero else if ofBE n ≤ ofBE sig then stInputRange else 0

/-- Screen of an RSA private key (R315). -/
def screenRsaPriv (key : Bytes) (k : Nat) : Nat :=
  let p := ofBE (key.take (k / 2))
  let q := ofBE (slice key (k / 2) (k / 2))
  if p % 2 = 0 ∨ q % 2 = 0 ∨ p * q < 2 ^ (8 * k - 1) then stInputRange else 0

/-- The modulus check of FIPS 203: every 12-bit coefficient is below 3,329. -/
def kemKeyOk (ek : Bytes) : Bool :=
  (chunks 3 (ek.take (ek.length - 32))).all (fun c =>
    let v := ofLE c
    v % 4096 < 3329 && v / 4096 < 3329)

/-- The public key of a verification, and the rest of the source: stored, or inline in front (R304). -/
def Job.pubKey (j : Job) (len : Nat) : Bytes × Bytes :=
  if j.keyA = 0 then (j.data.take len, j.data.drop len) else (j.secA, j.data)

/-- The point of a public key on a job's curve: a stored one on a custom curve has 66-byte coordinates (R212). -/
def Job.point (j : Job) (q : Bytes) : Bytes :=
  let lp := j.lens.1
  if j.typA = 0x29 ∧ j.keyA ≠ 0 then slice q (66 - lp) lp ++ slice q (132 - lp) lp else q.take (2 * lp)

/-! ### Operand memory (R298, R314 to R317) -/

/-- An operand of `len` bytes, or its substitute where the screen fails it or the source ended early (R316, R317). -/
def screened (bad : Bool) (b sub : Bytes) : Bytes := if bad then sub else b

/-- The scalar 1 in `len` big-endian bytes (R316). -/
def scalarOne (len : Nat) : Bytes := beN len 1

/-- The generator of a job's curve (R316); on the Edwards and Montgomery curves its encoding, u = 9 or u = 5 for the latter. -/
def Job.generator (j : Job) : Bytes :=
  if algEc j.param then beN j.lens.1 j.curve.gx ++ beN j.lens.1 j.curve.gy
  else if j.param = 8 then leN 32 0x6666666666666666666666666666666666666666666666666666666666666658
  else if j.param = 9 then leN 57 0x693f46716eb6bc248876203756c9c7624bea73736ca3984087789c1e05a0c2d73ad3ff1ce67c39c4fdbd132c4ed7c8ad9808795bf230fa14
  else if j.param = 0x0A then leN 32 9 else leN 56 5

/-- What the operand memories of a pair hold in a public-key or lattice programme once step 1 has screened it: the fields of R305 in
their order, key first, with the substitutes of R316 in the place of what failed. -/
def Job.operands (j : Job) : List Bytes :=
  let a := j.param
  let lp := j.lens.1
  let ln := j.lens.2
  let st := fun (e : Nat) => j.short || e != 0
  match j.op with
  | 0x50 =>
    if algEc a then
      let d := if j.typA = 0x19 then j.secA.take 66 else j.secA.take (byteLen j.curve.p)
      [screened (st (screenScalar j.curve.n (ofBE d))) d (scalarOne d.length), j.data]
    else if algRsa a then [screened (st (screenRsaPriv j.secA j.dstLen)) j.secA (Config.testPrimes j.dstLen), j.data]
    else [j.secA, j.data]
  | 0x53 =>
    if algEc a then
      let d := if j.typA = 0x19 then j.secA.take 66 else j.secA.take (byteLen j.curve.p)
      [screened (st (screenScalar j.curve.n (ofBE d))) d (scalarOne d.length),
       screened (st (screenPoint j.curve lp j.data)) j.data j.generator]
    else [j.secA, screened (st (screenU a j.data)) j.data j.generator]
  | 0x54 | 0x55 | 0x56 =>
    let ek := if j.keyA = 0 then j.data else j.secA
    [screened (j.short || !kemKeyOk ek) ek (Config.testKemKey a)]
  | 0x57 | 0x58 => [j.secA, j.data]
  | 0x51 | 0x52 =>
    let k := if j.keyA = 0 then (j.data.length - rsaHash a) / 2 else j.data.length - rsaHash a
    let pl := if algEc a then 2 * lp else if a = 8 then 32 else if a = 9 then 57 else if algRsa a then k else dsaPubLen a
    let q := j.pubKey pl
    let pt := if algEc a then j.point q.1 else q.1
    if algEc a then
      let sc := fun (b : Bytes) => screened (st (screenScalar j.curve.n (ofBE b))) b (scalarOne ln)
      [screened (st (screenPoint j.curve lp pt)) pt j.generator, sc (q.2.take ln), sc (slice q.2 ln ln), q.2.drop (2 * ln)]
    else if a = 8 ∨ a = 9 then
      let half := if a = 8 then 32 else 57
      let order := if a = 8 then l25519 else l448
      let prime := if a = 8 then p25519 else p448
      let pt := fun (b : Bytes) (small : Bool) => screened (j.short || decide (prime ≤ edY a b) || !Config.edCheck a 0 b ||
        (small && !Config.edCheck a 1 b)) b j.generator
      let sc := slice q.2 half half
      [pt q.1 true, pt (q.2.take half) false, screened (st (screenScalar order (ofLE sc))) sc (leN half 1), q.2.drop (2 * half)]
    else if algRsa a then
      let n := screened (j.short || decide (ofBE q.1 % 2 = 0 ∨ ofBE q.1 < 2 ^ (8 * q.1.length - 1))) q.1 (Config.testModulus k)
      let sig := q.2.take k
      [n, screened (j.short || decide (ofBE sig = 0 ∨ ofBE q.1 ≤ ofBE sig)) sig (beN k 2), q.2.drop k]
    else [q.1, q.2]
  | _ => if j.data.isEmpty then [] else [j.data]

/-- What the lanes that run jobs hold: the working key register, one copy per member of a pair, key B in the place of key A where
a job names both (R220), and the operand memory of a pair (R298). -/
def State.loadLanes (s : State) : State :=
  s.modYard (fun y => { y with lanes := y.lanes.mapIdx (fun n l =>
    match s.jobs.find? (fun j => j.lane == some n) with
    | none => l
    | some j =>
      let pair := decide (4 ≤ n ∧ n < 28)
      let key := match j.loadedB with | some k => some k.secret | none => j.loadedA.map (·.secret)
      { l with regs := (match key with | some k => if pair then [k, k] else [k] | none => []),
               operands := if pair then j.operands else [] }) })

/-! ### Endings -/

/-- SIGN (R307 to R310, R321). -/
def Job.sign (j : Job) : Ending :=
  let a := j.param
  let rnd := Config.drbg j.drawNo 64
  let sig := Config.sigMake j.typA j.secA j.data a rnd
  if algEc a then
    let l := j.lens.2
    let d := ofBE (j.secA.take (byteLen j.curve.p))
    let d := if j.typA = 0x19 then ofBE (j.secA.take 66) else d
    let e := screenScalar j.curve.n d
    let sig := fit (2 * l) sig
    if e ≠ 0 then bare e
    else if allZero (sig.take l) ∨ allZero (sig.drop l) then bare stSignRetry else value sig
  else if a = 8 ∨ a = 9 then value (fit (if a = 8 then 64 else 114) sig)
  else if algRsa a then
    let e := screenRsaPriv j.secA j.dstLen
    if e ≠ 0 then bare e else value (fit j.dstLen sig)
  else if !Config.signFits j.typA j.secA j.data rnd then bare stSignRetry
  else value (fit (dsaSigLen a) sig)

/-- One verification of a public key and a source without it (R307 to R310, R315). -/
def Job.verifyOne (j : Job) : Nat :=
  let a := j.param
  let k := if j.keyA = 0 then (j.data.length - rsaHash a) / 2 else j.data.length - rsaHash a
  let lp := j.lens.1
  let ln := j.lens.2
  let pl := if algEc a then 2 * lp else if a = 8 then 32 else if a = 9 then 57 else if algRsa a then k else dsaPubLen a
  let q := j.pubKey pl
  let typ := if j.keyA = 0 then inlineType a k else j.typA
  let sl := if algEc a then 2 * ln else if a = 8 then 64 else if a = 9 then 114 else if algRsa a then k else dsaSigLen a
  let sig := q.2.take sl
  let msg := q.2.drop sl
  let pt := if algEc a then j.point q.1 else q.1
  let e := if algEc a then firstSt [screenPoint j.curve lp pt,
                screenRs j.curve.n (ofBE (sig.take ln)) (ofBE (sig.drop ln))]
    else if a = 8 then screenEd 8 pt (sig.take 32) (sig.drop 32)
    else if a = 9 then screenEd 9 pt (sig.take 57) (sig.drop 57)
    else if algRsa a then screenRsaPub pt sig else 0
  if e ≠ 0 then e else if Config.sigVerify typ pt msg a sig then stOk else stMismatch

/-- Attributes of a slot made without a template (R352): under key A, or, for an inline key, under the Storage Root Key. -/
def Job.slotAttrs (j : Job) (typ usage : Nat) : NewKey :=
  match j.loadedA with
  | some k =>
    let own := decide (j.world = 2 ∨ j.world = 3)
    { typ := typ, flags := if k.debugOff then 64 else 0, world := if own then 2 ^ j.world else k.world.toNat,
      lcMask := k.lcMask.toNat, usage := usage,
      owner := (if own then j.pad else k.owner) + 512 * k.group + 8192 * b2n k.shared, limit := 0 }
  | none => { typ := typ, flags := 0, world := 2 ^ j.world, lcMask := 8, usage := usage, owner := j.pad, limit := 0 }

/-- A job that makes a slot of a parent: the new key, or the failing status of R227. -/
def State.newSlot (s : State) (j : Job) (parent : Option Key) (a : NewKey) (secret dest : Bytes) (len : Nat) : Ending :=
  let e := s.newKeyCheck j.world j.pad parent a
  if e ≠ 0 then bare e
  else { st := stOk, inl := [], dest := dest, len := len, key := some (makeKey parent s.tack a secret) }

/-- ECDH (R311, R353): the secret keys method 0 with the label "EV7100-ECDH". -/
def State.ecdhEnd (s : State) (j : Job) : Ending :=
  let a := j.param
  let z := Config.agree j.typA j.secA j.data
  let e := if algEc a then firstSt [screenPoint j.curve j.lens.1 j.data,
      screenScalar j.curve.n (ofBE (j.secA.take (if j.typA = 0x19 then 66 else byteLen j.curve.p)))]
    else screenU a j.data
  if e ≠ 0 then bare e
  else if !algEc a ∧ allZero z then bare stPointInvalid
  else s.newSlot j j.loadedA (j.slotAttrs 3 uDerive) (kdf z (ascii "EV7100-ECDH") [] 32) [] 4

/-- The type and usage of a KEM slot: _AES or _HMAC (R353). -/
def kemSlot (op : Nat) : Nat × Nat := if op = 0x55 ∨ op = 0x57 then (3, uDerive) else (6, uHmac)

/-- ENCAPSULATE (R310, R353). -/
def State.encapEnd (s : State) (j : Job) : Ending :=
  let ek := if j.keyA = 0 then j.data else j.secA
  let typ := if j.keyA = 0 then inlineType j.param 0 else j.typA
  let r := Config.encap typ ek (Config.drbg j.drawNo 32)
  let ct := fit (kemCtLen j.param) r.1
  if !kemKeyOk ek then bare stInputRange
  else if j.op = 0x54 then value (ct ++ fit 32 r.2)
  else
    let t := kemSlot j.op
    s.newSlot j j.loadedA (j.slotAttrs t.1 t.2) (fit 32 r.2) ct ct.length

/-- DECAPSULATE (R310, R311). -/
def State.decapEnd (s : State) (j : Job) : Ending :=
  let t := kemSlot j.op
  s.newSlot j j.loadedA (j.slotAttrs t.1 t.2) (fit 32 (Config.decap j.typA j.secA j.data)) [] 4

/-- KEY_PAIR_GENERATE (R312, R349). -/
def State.pairEnd (s : State) (j : Job) : Ending :=
  let a := newKeyOf j.data
  let sec := Config.keyFrom a.typ (Config.drbg j.drawNo 96)
  let secret := if a.typ = 0x19 then fit 66 sec ++ leN 4 j.keyB else fit (keyLen a.typ) sec
  let pub := fit (keyLen (publicType a.typ)) (Config.publicOf a.typ secret)
  s.newSlot j none a secret pub pub.length

/-! ### Public keys and curves (R318 to R320) -/

/-- The first failing check of R319, 0 where all hold. -/
def curveFail (b : Bytes) : Nat :=
  let c := curveOf b
  let gx := ofBE (slice b 198 66)
  let gy := ofBE (slice b 264 66)
  let d := if c.h * c.n ≤ c.p + 1 then c.p + 1 - c.h * c.n else c.h * c.n - (c.p + 1)
  let ok := fun (k : Nat) => match k with
    | 1 => decide (2 ^ 160 ≤ c.p ∧ c.p < 2 ^ 521)
    | 2 => Config.curveCheck 2 b
    | 3 => decide (c.a < c.p ∧ c.b < c.p ∧ gx < c.p ∧ gy < c.p)
    | 4 => decide ((4 * c.a ^ 3 + 27 * c.b ^ 2) % c.p ≠ 0)
    | 5 => decide ((gy * gy) % c.p = (gx * gx * gx + c.a * gx + c.b) % c.p)
    | 6 => Config.curveCheck 6 b && decide (2 ^ 160 < c.n)
    | 7 => decide (1 ≤ c.h ∧ c.h ≤ 8 ∧ d * d ≤ 4 * c.p)
    | 8 => Config.curveCheck 8 b
    | 9 => decide (c.p ≠ c.n)
    | _ => decide (((List.range 20).foldl (fun (a : Nat × Bool) _ =>
        let v := a.1 * c.p % c.n
        (v, a.2 && v != 1)) (1, true)).2 = true)
  ((List.range 10).map (· + 1)).find? (fun k => !ok k) |>.getD 0

/-- A public key on a custom curve as it enters the Tack Room (R320): 0, or the status of a missing curve or of a point outside the
subgroup. -/
def State.curvePoint (s : State) (t : Nat) (v : Bytes) : Nat :=
  if t ≠ 0x29 then 0
  else match s.curveAt (uLE v 132 4) with
    | none => stKeyRevoked
    | some c => if 1 < curveH c ∧ !Config.inSubgroup c (v.take 132) then stPointInvalid else 0

/-- KEY_STORE_PUBLIC: a public key, a point on a custom curve, or a curve (R228, R318 to R320). -/
def State.storeEnd (s : State) (j : Job) : Ending :=
  let a := newKeyOf j.data
  let v := j.data.drop 20
  if !isPublicKey a.typ then bare stKeyDenied
  else if a.typ = 0x50 then
    let n := curveFail v
    if n ≠ 0 then { st := stParamRejected, inl := bytesOf [n], dest := [], len := 0, key := none }
    else s.newSlot j none a v [] 4
  else if a.typ = 0x29 then
    if uLE v 132 4 ≠ j.keyB then bare stBadFormat
    else if s.curvePoint a.typ v ≠ 0 then bare (s.curvePoint a.typ v)
    else s.newSlot j none a v [] 4
  else s.newSlot j none a v [] 4

end Sys2Proof.Machine
end

