-- ==== Sys2Proof/Machine/KeyOps.lean ====
section
/-! DEFINITION. Key commands as they are checked and as they take effect (R226 to R244, R247, R349, R350). -/

namespace Sys2Proof.Machine

open Sys2Proof

/-- The key that a REVOKE, ERASE, REWRITE or DRAIN acts on; `w` 5 is an officer. ERASE also frees a REVOKED run (R231). -/
def State.cmdTarget (s : State) (code w p h : Nat) : Except Nat Key :=
  let own := fun (k : Key) =>
    if w = 5 then (if k.world.getLsbD 0 then Except.error stKeyDenied else .ok k)
    else if w = 0 then .ok k
    else if k.owner = p then .ok k else .error stKeyDenied
  match s.named h with
  | .ok k => own k
  | .error e => match s.tack.key? (h % 32768) with
    | some k => if e = stKeyRevoked ∧ code = 5 ∧ k.st = .revoked then own k else .error e
    | none => .error e

/-- The checks of REVOKE, ERASE, REWRITE and DRAIN beyond the target (R217, R236): 0 or the failing status. A REWRITE acts on the
types that the device generates (R226, R349). -/
def State.changeCheck (s : State) (code : Nat) (k : Key) : Nat :=
  if code = 6 then
    if k.st = .draining then stKeyDraining
    else if !(isSym k.typ || isGenPriv k.typ) then stKeyUsage
    else if s.tack.worn k then stKeyDenied
    else if s.drbgFails then stEntropy else 0
  else if code = 7 ∧ k.st = .draining then stKeyDraining
  else 0

/-- DRAIN takes effect (R236): the key takes no new load until its timeout. -/
def State.drainKey (s : State) (k : Key) (timeout : Nat) : State :=
  (s.tellStack k 3).modTack (fun t => t.put { k with st := .draining, drainEnd := some (s.now + timeout) })

/-- The users of a key (R236): jobs past their first load and not completed, and open streams keyed by it. -/
def State.keyUsed (s : State) (slot : Nat) : Bool :=
  s.jobs.any (fun j => j.begun && ((match j.loadedA with | some k => k.slot == slot | none => false) ||
    (match j.loadedB with | some k => k.slot == slot | none => false))) ||
  s.pads.any (fun q => q.streams.any (fun x => match x.key with | some k => k.1 == slot | none => false))

/-- A TDEA value of draw `n` for a REWRITE: the first of the values drawn whose halves differ (R279); after 64 redraws the last one
stands (log 113). -/
def tdeaDraw (t n : Nat) : Bytes :=
  let v := Config.drbg n (keyLen t)
  if !tdeaWeak t v then v
  else (((List.range 64).map (fun i => Config.redraw n i (keyLen t))).find? (fun x => !tdeaWeak t x)).getD (Config.redraw n 64 (keyLen t))

/-- The new secret of a REWRITE: a value of the same type from draw `n`, on the same curve (R226, R279). -/
def rewriteSecret (k : Key) (n : Nat) : Bytes :=
  if isTdea k.typ then tdeaDraw k.typ n
  else if isSym k.typ then Config.drbg n (keyLen k.typ)
  else if k.typ = 0x19 then fit 66 (Config.keyFrom k.typ (Config.drbg n 96)) ++ k.secret.drop 66
  else fit (keyLen k.typ) (Config.keyFrom k.typ (Config.drbg n 96))

/-- A REWRITE, ERASE, REVOKE or DRAIN of a checked key takes effect; a REWRITE's value comes from draw `n`, and a STACK-ONLY
key is replicated again (R404). -/
def State.changeKey (s : State) (code : Nat) (k : Key) (timeout n : Nat) : State :=
  if code = 4 then (if k.st = .revoked then s else s.revokeKey k)
  else if code = 5 then s.eraseKey k
  else if code = 6 then (s.rewriteKey k (rewriteSecret k n)).replicate k
  else s.drainKey k timeout

/-- Handle and check value that a created or rewritten key returns (R333, R289). -/
def State.slotAnswer (s : State) (slot : Nat) : Bytes := match s.tack.key? slot with
  | some k => leN 4 (s.tack.handleOf slot) ++ (if isSym k.typ then s.defaultKcv k.typ k.secret else zeros 3)
  | none => []

/-! ### Officer commands (R247) -/

/-- A key that an officer names, checked as R219 has it for an officer, who acts on any key outside the STEWARD world (R226);
`usage` is what the command needs, 0 for an exported key. -/
def State.officerUse (s : State) (h usage : Nat) : Except Nat Key :=
  match s.named h with
  | .error e => .error e
  | .ok k =>
    if k.world.getLsbD 0 then .error stKeyDenied
    else if !k.lcMask.getLsbD s.lcCode ∨ (k.debugOff ∧ s.debugSeen) then .error stKeyDenied
    else if !s.tack.chainOk 4 k.parent ∨ !s.curveHolds k then .error stKeyRevoked
    else if k.st = .draining then .error stKeyDraining
    else if k.st = .exhausted then .error stKeyExhausted
    else if usage ≠ 0 ∧ k.usage.toNat &&& usage = 0 then .error stKeyUsage
    else .ok k

/-- What a command of R247 does once its checks pass: nothing new, a new key of a parent, or a change of a key. -/
inductive KeyPlan where
  | add (parent : Option Key) (a : NewKey) (secret : Bytes)
  | change (k : Key)
  | blockOut (block : Bytes)
  deriving DecidableEq, Repr

/-- The secret of a new key: R228, R279, R319, R320 and the length of its type. -/
def State.secretCheck (s : State) (t : Nat) (v : Bytes) (clear : Bool) : Nat :=
  if clear ∧ !isPublicKey t ∧ s.lcCode ≠ 2 then stKeyDenied
  else if v.length ≠ keyLen t then stBadLength
  else if tdeaWeak t v then stKeyUsage
  else if t = 0x50 ∧ curveFail v ≠ 0 then stParamRejected
  else s.curvePoint t v

/-- The plan of a command, or its failing status (R226 to R228, R236, R239 to R241, R247). -/
def State.keyPlan (s : State) (c : KeyCmd) : Except Nat KeyPlan :=
  let new := fun (parent : Option Key) (a : NewKey) (v : Bytes) (clear : Bool) =>
    let e := s.newKeyCheck 5 0x1FF parent a
    let f := s.secretCheck a.typ v clear
    if e ≠ 0 then Except.error e
    else if f ≠ 0 then .error f
    else if (s.place (keyRun a.typ) false).isNone then .error stKeyDenied
    else .ok (KeyPlan.add parent a v)
  match c.code with
  | 1 =>
    if isRsaPriv c.attrs.typ ∨ !keyDefined c.attrs.typ then .error stBadFormat
    else if c.attrs.typ = 0x50 ∧ s.drbgFails then .error stEntropy
    else if !c.data.isEmpty then new none c.attrs c.data true
    else if isPublicKey c.attrs.typ then .error stBadLength
    else if s.drbgFails then .error stEntropy
    else
      let v := (s.freshSecret c.attrs.typ).1
      new none c.attrs (fit (keyLen c.attrs.typ) v) false
  | 2 => match s.officerUse c.parent uUnwrap with
    | .error e => .error e
    | .ok kek =>
      if looksKeyBlock c.data then match kbImport kek c.data with
        | .error e => .error e
        | .ok r => match importAttrs c.attrs r with
          | .error e => .error e
          | .ok a => new (some kek) a r.2.1 false
      else if !isAes kek.typ then .error stKeyUsage
      else match kwpUnwrap kek.secret c.data with
        | none => .error stMismatch
        | some v => if keyStrength kek.typ < keyStrength c.attrs.typ then .error stKeyDenied
                    else new (some kek) c.attrs v false
  | 3 => match s.officerUse c.parent (if c.method = 2 then uBdk else uDerive) with
    | .error e => .error e
    | .ok k =>
      let t := c.attrs.typ
      if c.method = 0 then
        if !isSym k.typ ∨ !isSym t then .error stKeyUsage
        else if c.data.length ≠ 4 + u8 c.data 0 + u8 c.data 1 ∨ 64 < u8 c.data 0 ∨ 64 < u8 c.data 1 then .error stBadLength
        else new (some k) c.attrs (deriveSecret 0 k t c.data) false
      else if c.method = 1 then
        let l := keyLen (publicType k.typ)
        let d := c.data.drop l
        if !isEccPriv k.typ ∨ k.typ = 0x15 ∨ k.typ = 0x17 ∨ !isSym t then .error stKeyUsage
        else if c.data.length < l + 4 ∨ d.length ≠ 4 + u8 d 0 + u8 d 1 then .error stBadLength
        else new (some k) c.attrs (kdf (Config.agree k.typ k.secret (c.data.take l)) (slice d 4 (u8 d 0))
          (slice d (4 + u8 d 0) (u8 d 1)) (keyLen t)) false
      else if c.method = 2 then
        if k.initial ∨ c.attrs.usage ≠ uBdk ∨ !bitN c.attrs.flags 3 then .error stKeyUsage
        else if c.data.length ≠ (if isAes k.typ then 8 else 10) then .error stBadLength
        else new (some k) c.attrs (deriveSecret 2 k t c.data) false
      else .error stBadFormat
  | 8 => match s.officerUse c.handle 0 with
    | .error e => .error e
    | .ok k =>
      if k.exportCls ≠ 1 then .error stKeyDenied
      else match s.officerUse c.parent uWrap with
        | .error e => .error e
        | .ok kek =>
          if keyStrength kek.typ < keyStrength k.typ then .error stKeyDenied
          else match kbExport kek k (s.chainNever k) s.freePad with
            | none => .error stKeyUsage
            | some b => .ok (.blockOut b)
  | _ => match s.cmdTarget c.code (match c.req with | .steward => 0 | _ => 5) 0x1FF c.handle with
    | .error e => .error e
    | .ok k =>
      let e := s.changeCheck c.code k
      if e ≠ 0 then .error e
      else if c.code = 7 ∧ (c.timeout = 0 ∨ 8192 < c.timeout) then .error stBadLength
      else .ok (.change k)

/-- `tack.result` (R247). -/
def tackResult (st handle : Nat) (kcv : Bytes) : Bytes := leN 2 st ++ zeros 2 ++ leN 4 handle ++ fit 3 kcv ++ zeros 5

/-- A paddock's slot usage exceeds its quota (R363). -/
def State.overQuota (s : State) (p : Nat) : State := match s.pad? p with
  | some q => if q.keyQuota < s.slotsOwned p then s.latch 23 14 else s
  | none => s

/-- A key command takes effect as its Logbook entry is written (R230): the status, and the state with `tack.result`. -/
def State.runCommand (s : State) (c : KeyCmd) : Nat × State :=
  let fail := fun e => (e, s.modTack (fun t => { t with result := tackResult e 0 [] }))
  match s.keyPlan c with
  | .error e => fail e
  | .ok (.blockOut b) => (stOk, s.modTack (fun t => { t with exported := b, result := tackResult stOk c.handle [] }))
  | .ok (.add parent a v) =>
    match s.addKey (makeKey parent s.tack a v) with
    | .error e => fail e
    | .ok (s, slot) =>
      let s := if c.code = 1 ∧ (c.data.isEmpty ∨ a.typ = 0x50) then s.modTack (fun t => { t with draws := t.draws + 1 }) else s
      let ans := s.slotAnswer slot
      (stOk, (s.modTack (fun t => { t with result := tackResult stOk (s.tack.handleOf slot) (ans.drop 4) })).overQuota a.own)
  | .ok (.change k) =>
    let n := s.tack.draws
    let s := if c.code = 6 then s.modTack (fun t => { t with draws := t.draws + 1 }) else s
    let s := s.changeKey c.code k c.timeout n
    (stOk, s.modTack (fun t => { t with
      result := if c.code = 6 then tackResult stOk (s.tack.handleOf k.slot) ((s.slotAnswer k.slot).drop 4)
                else tackResult stOk c.handle [] }))

/-! ### Logbook entries of key changes (R449) -/

/-- The half of the value digest that an attribute record gives (R446, R450). -/
def keyHalf (k : Option Key) : Bytes := match k with
  | none => []
  | some k => h8 k.attrs

end Sys2Proof.Machine
end

