-- ==== Sys2Proof/Machine/Jobs.lean ====
section
/-! DEFINITION. From acceptance to completion: the front end, the arrival of source data, the end of a job's last step, the
changes that key jobs make, completion records (R8, R44, R229, R230, R313, R333, R349, R350, R356,
R379 to R383, R529). -/

namespace Sys2Proof.Machine

open Sys2Proof

/-- The handle that a key job names: the key it acts on, or 0 for a new key. -/
def Job.changes (j : Job) : Nat := if 4 ≤ opKeyCode j.op then j.keyA else 0

/-! ### Acceptance (R379, R380) -/

/-- Bytes that accepted jobs have yet to add to a stream (R259). -/
def State.queuedParts (s : State) (j : Job) : Nat :=
  s.jobs.foldl (fun n k => if k.id < j.id && k.pad == j.pad && 0x46 ≤ k.op && k.op ≤ 0x48 && k.keyB == j.keyB && !k.settled
    then n + k.srcLen else n) 0

/-- One descriptor leaves the front end: it is accepted, checked, and its source is read, and the expected value of a compare form
from its destination (R44, R253, R376, R377, R379, R380). A batch takes acceptance numbers for its parts. A fetched descriptor with
another ring in `RING` fails order 2, and completes on the ring that fetched it (log 104). -/
def State.acceptOne (s : State) (f : FrontDesc) : State :=
  match s.pad? f.pad with
  | none => s
  | some q =>
    let id := s.nextJob
    let d := f.data
    let pushed := f.slot.isSome
    let own := jobOf id f.pad (s.pgen f.pad) q.group pushed s.now d
    let j := if pushed then own else { own with ring := f.ring }
    let count := if j.op = 0x52 then min 64 j.dstLen else 0
    let s := s.modNextJob (fun _ => id + 1 + count)
    let s := s.modPad f.pad (fun q => { q with
      accepted := q.accepted + 1,
      ring := updAt q.ring j.ring (fun r => { r with
        jobs := r.jobs + 1, sealed := if pushed then r.sealed - 1 else r.sealed,
        fetched := if pushed then r.fetched else r.fetched - 1 }),
      slots := match f.slot with
        | some n => q.slots.filter (fun x => x.num != n)
        | none => q.slots })
    let lost := (List.range 8).any (fun m => s.cas.lost.getLsbD m && (j.keyA / 0x8000000 == 0x10 + m ||
      (!opStream j.op && j.keyB / 0x8000000 == 0x10 + m)))
    let e := if s.core.op = .alarmHalt then stHeld
             else s.acceptCheck q.families own d (if pushed then none else some f.ring)
    let s := s.modJobs (fun l => l ++ [j])
    if e ≠ 0 then s.endJob id e (s.now + 1)
    else if (lost && s.cas.role == CasRole.master) = true then s.endJob id stPeerLost (s.now + 1)
    else if (0x46 ≤ j.op && j.op ≤ 0x48 && (match s.stream? j.pad j.keyB with
        | some x => decide (2 ^ 40 < x.absorbed.length + j.srcLen + s.queuedParts j)
        | none => false)) = true then s.endJob id stBadLength (s.now + 1)
    else
      let j := s.shape j
      let s := s.modJob id (fun _ => j)
      let addr := uLE d 8 8
      let expect := if opCompare j.op then j.dstLen else 0
      if j.inl ∨ j.srcLen + expect = 0 then
        (s.modJob id (fun j => { j with ready := true, readyAt := s.now }))
      else
        let parts := ((if j.srcLen = 0 then [] else [(addr, j.srcLen)]) ++ (if expect = 0 then [] else [(j.dstAddr, expect)]))
        parts.foldl (fun s x =>
          let tag := s.pci.nextTag
          (s.emit (.dmaRead f.pad tag x.1 x.2)).modPci (fun p => { p with
            nextTag := tag + 1, reads := p.reads ++ [{ tag := tag, pad := f.pad, what := .source id, at_ := s.now }] })) s

/-- The front end accepts up to 8 descriptors in a frame, in the order in which they reached it (R44, R379). -/
def State.acceptSome : Nat → State → State
  | 0, s => s
  | n + 1, s =>
    if s.pci.accepted < 8 then match s.pci.front with
      | [] => s
      | f :: r => ((s.modPci (fun p => { p with front := r, accepted := p.accepted + 1 })).acceptOne f).acceptSome n
    else s

/-- Acceptance of what waits. -/
def State.acceptFront (s : State) : State := s.acceptSome 8

/-! ### Source data -/

/-- The parts of a batch verification: one programme per signature, in index order (R313, R354). -/
def State.splitBatch (s : State) (b : Job) : State :=
  let n := b.dstLen
  let e := b.srcLen / max 1 n
  s.modJobs (fun l => l ++ (List.range n).map (fun i =>
    { b with id := b.id + 1 + i, src := .part b.id, data := slice b.data (e * i) e, srcLen := e,
             short := decide (b.data.length < e * i + e), ready := true, readyAt := s.now }))

/-- A job's source data has arrived (R44, R334): a header fault ends it, otherwise it is ready. `data` is the source
followed by the expected value of a compare form; `none` is a read error. -/
def State.arrive (s : State) (id : Nat) (data : Option Bytes) : State :=
  match s.job? id with
  | none => s
  | some j =>
    let want := j.srcLen + (if opCompare j.op then j.dstLen else 0)
    let d := data.getD []
    let short := data.isNone || decide (d.length < want)
    let j := { j with data := d.take want, short := short, ready := true, readyAt := s.now }
    let s := s.modPci (fun p => { p with reads := p.reads.filter (fun r => r.what != .source id) })
    let s := s.modJob id (fun _ => j)
    let e := if short then 0 else s.headerCheck j
    if e ≠ 0 then s.endJob id e (s.now + 1)
    else
      let j := s.shape j
      let s := s.modJob id (fun _ => j)
      if j.isBatch then s.splitBatch j else s

/-! ### The end of the last step -/

/-- A job's last step has ended in this frame or before it, and it has no status yet. -/
def Job.atEnd (j : Job) (op : Nat) : Bool :=
  j.op == op && j.begun && j.status.isNone && !j.settled && max 1 j.steps ≤ j.taken &&
    (match j.src with | .hamper _ _ _ => false | _ => true)

/-- The job takes its ending, and its working keys are cleared (R221); the blocks that R336 refused count. A job that changes keys waits for its Logbook entry (R229); any other completes in the next
frame. -/
def State.settle (s : State) (id : Nat) (e : Ending) : State :=
  match s.job? id with
  | none => s
  | some j =>
    let bad := if j.op ≤ 0x13 ∧ e.st = stInputRange then (if j.op = 0x12 then 1 else j.pinBad) else 0
    let s := s.modYard (fun y => { y with ctxReserve := y.ctxReserve - b2n j.held, pinBad := y.pinBad + bad })
    let waits := e.st = stOk ∧ opKeyCode j.op ≠ 0
    let s := s.modJob id (fun j => { j.wiped with
      status := some e.st, settled := true, held := false, result := e.inl, dest := e.dest, resLen := e.len,
      newKey := e.key, waitsLog := decide waits, completeAt := if waits then none else some (s.now + 1) })
    match j.src with
    | .part parent => s.batchCheck parent (s.now + 1)
    | _ => s

/-- The end of a job's last step (R529 rows 7 to 12): disagreement, a short source, then what the service computes. A
stream whose job fails closes (R261). -/
def State.endStep (s : State) (op id : Nat) (agree : Bool) (f : State → Job → State × Ending) : State :=
  match s.job? id with
  | none => s
  | some j =>
    if !j.atEnd op then s
    else if !agree then s.settle id (bare stFaultDetected)
    else if j.short then
      (if opStream op then s.closeStream j.pad j.keyB else s).settle id (bare stLengthMismatch)
    else
      let r := f s j
      r.1.settle id r.2

/-- A service that changes nothing but its job. -/
def State.endPlain (s : State) (op id : Nat) (agree : Bool) (f : Job → Ending) : State :=
  s.endStep op id agree (fun s j => (s, f j))

/-- A service that reads the state. -/
def State.endWith (s : State) (op id : Nat) (agree : Bool) (f : State → Job → Ending) : State :=
  s.endStep op id agree (fun s j => (s, f s j))

/-! ### Digest endings (R253 to R255) -/

/-- The digest or MAC of a one-shot job. -/
def Job.digestOut (j : Job) : Bytes :=
  let h := hashOfCode j.param
  let m := j.data.take j.srcLen
  if j.op % 2 = 1 then hmac h j.secA m else h.run m

/-- The expected value of a compare form. -/
def Job.expected (j : Job) : Bytes := (j.data.drop j.srcLen).take j.dstLen

/-- DIGEST and HMAC. -/
def Job.digestEnd (j : Job) : Ending := value j.digestOut

/-- DIGEST_COMPARE and HMAC_COMPARE: only the leading bytes are compared (R255). -/
def Job.compareEnd (j : Job) : Ending :=
  bare (if j.digestOut.take j.dstLen = j.expected then stOk else stMismatch)

/-- OPEN and OPEN_KEYED return the stream handle (R254). -/
def Job.openEnd (j : Job) : Ending := inlineOnly (leN 4 j.keyB)

/-- UPDATE absorbs a message part. -/
def State.updateEnd (s : State) (j : Job) : State × Ending :=
  (s.modStream j.pad j.keyB (fun x => { x with absorbed := x.absorbed ++ j.data.take j.srcLen }), bare stOk)

/-- What a stream with the last part gives. -/
def State.streamOut (s : State) (j : Job) : Bytes := match s.stream? j.pad j.keyB with
  | none => []
  | some x =>
    let m := x.absorbed ++ j.data.take j.srcLen
    if x.key.isSome then hmac x.alg x.secret m else x.alg.run m

/-- FINAL: the result, and the stream closes (R264). -/
def State.finalEnd (s : State) (j : Job) : State × Ending := (s.closeStream j.pad j.keyB, value (s.streamOut j))

/-- FINAL_COMPARE. -/
def State.finalCompareEnd (s : State) (j : Job) : State × Ending :=
  (s.closeStream j.pad j.keyB,
   bare (if (s.streamOut j).take j.dstLen = j.expected then stOk else stMismatch))

/-- ABANDON. -/
def State.abandonEnd (s : State) (j : Job) : State × Ending := (s.closeStream j.pad j.keyB, bare stOk)

/-! ### Key jobs (R349, R350) -/

/-- A derivation (R351): method 0, or a DUKPT initial key. -/
def State.deriveEnd (s : State) (j : Job) : Ending :=
  let a := newKeyOf j.data
  match j.loadedA with
  | none => bare stKeyAbsent
  | some k =>
    let v := deriveSecret j.param k a.typ (j.data.drop 20)
    if tdeaWeak a.typ v then bare stKeyUsage else s.newSlot j (some k) a v [] 4

/-- KEY_GENERATE (R279, R349). -/
def State.generateEnd (s : State) (j : Job) : Ending :=
  let a := newKeyOf j.data
  let v := Config.drbg j.drawNo (keyLen a.typ)
  if tdeaWeak a.typ v then bare stKeyUsage else s.newSlot j none a v [] 4

/-- KEY_IMPORT (R239, R240, R349). -/
def State.importEnd (s : State) (j : Job) : Ending := match j.loadedA with
  | none => bare stKeyAbsent
  | some kek => match kbImport kek (j.data.drop 20) with
    | .error e => bare e
    | .ok r => match importAttrs (newKeyOf j.data) r with
      | .error e => bare e
      | .ok a => if r.2.1.length ≠ keyLen a.typ then bare stBadLength
                 else if tdeaWeak a.typ r.2.1 then bare stKeyUsage
                 else if s.curvePoint a.typ r.2.1 ≠ 0 then bare (s.curvePoint a.typ r.2.1)
                 else s.newSlot j (some kek) a r.2.1 [] 4

/-- KEY_IMPORT_WRAPPED (R241, R349): the length of the blob must give the type's secret. -/
def State.importWrappedEnd (s : State) (j : Job) : Ending := match j.loadedA with
  | none => bare stKeyAbsent
  | some kek =>
    let a := newKeyOf j.data
    match kwpUnwrap kek.secret (j.data.drop 20) with
    | none => bare stMismatch
    | some v =>
      if v.length ≠ keyLen a.typ then bare stBadLength
      else if keyStrength kek.typ < keyStrength a.typ then bare stKeyDenied
      else if tdeaWeak a.typ v then bare stKeyUsage
      else if s.curvePoint a.typ v ≠ 0 then bare (s.curvePoint a.typ v)
      else s.newSlot j (some kek) a v [] 4

/-- KEY_EXPORT (R239, R349). -/
def State.exportEnd (s : State) (j : Job) : Ending := match j.loadedA, j.loadedB with
  | some k, some kek => match kbExport kek k (s.chainNever k) s.freePad with
    | some b => value b
    | none => bare stKeyUsage
  | _, _ => bare stKeyAbsent

/-- KCV (R288, R289): the value of the form asked for. -/
def State.kcvEnd (s : State) (j : Job) : Ending :=
  inlineOnly (if j.param = 0 then s.defaultKcv j.typA j.secA else kcvOf j.typA (j.param == 2) j.secA)

/-- RANDOM (R355): every byte at the destination, the first 16 inline. -/
def Job.randomEnd (j : Job) : Ending := value (Config.drbg j.drawNo j.dstLen)

/-- 0, or the status with which a key job ends in place of its change, when the change is about to take effect (R230). -/
def State.jobCheck (s : State) (j : Job) : Nat :=
  let code := opKeyCode j.op
  match j.newKey with
  | some k =>
    let padded := j.world = 2 ∨ j.world = 3
    let quota := match s.pad? j.pad with | some q => q.keyQuota | none => 0
    if !s.tack.chainOk 4 k.parent ∨ !s.curveHolds k then stKeyRevoked
    else if k.persistent ∧ s.tack.srk.isNone then stKeyAbsent
    else if padded ∧ quota < s.slotsOwned j.pad + k.run then stKeyDenied
    else if (s.jobPlace j.id k.run (k.world.getLsbD 0)).isNone then stKeyDenied else 0
  | none =>
    if code = 8 then s.reload j
    else match s.cmdTarget code j.world j.pad j.keyA with
      | .error e => e
      | .ok k => let e := s.changeCheck code k
                 if e = stEntropy then 0 else e

/-- A key job's change takes effect (R226, R230, R349, R350): the job completes in the next frame, or once every member has
acknowledged a STACK-ONLY key (R404). -/
def State.jobApply (s : State) (id : Nat) : State :=
  match s.job? id with
  | none => s
  | some j =>
    let fin := fun (s : State) (r : Bytes) (slot : List Nat) =>
      s.modJob id (fun j => { j with
        waitsLog := false, completeAt := some (s.now + 1), result := if r.isEmpty then j.result else r,
        resLen := if r.isEmpty then j.resLen else if j.dest.isEmpty then 4 else j.dest.length, newKey := none,
        acks := slot.filter (fun x => s.cas.acksWaited.any (fun a => a.1 == x)) })
    let code := opKeyCode j.op
    match j.newKey with
    | some k => match s.addKeyAt (s.jobPlace id k.run (k.world.getLsbD 0)) k with
      | .error _ => s
      | .ok (s, slot) => (fin s (s.slotAnswer slot) [slot]).overQuota j.pad
    | none =>
      if code = 8 then fin s [] []
      else match s.cmdTarget code j.world j.pad j.keyA with
        | .error _ => s
        | .ok k =>
          let s := s.changeKey code k (if code = 7 then ofLE j.data else 0) j.drawNo
          if code = 6 then fin s (s.slotAnswer k.slot) [k.slot] else fin s [] []

/-- A no-step job can be performed (R230, R349). -/
def State.noStepReady (s : State) (j : Job) (op : Nat) : Bool :=
  j.op == op && j.ready && j.readyAt < s.now && j.status.isNone && !j.settled && s.noStep j && !s.commandWaits j

/-! ### Completion (R381 to R383) -/

/-- The completion record of a job (R381). -/
def State.record (s : State) (j : Job) (r : Ring) : Bytes :=
  leN 2 j.tag ++ leN 1 j.pgen ++
    leN 1 (b2n (r.written / 2 ^ r.depthLog2 % 2 == 0) + 2 * b2n j.pushed + 4 * j.ring) ++
    leN 2 (j.status.getD 0) ++ leN 2 j.lastLane ++ leN 4 j.resLen ++ leN 4 (s.core.frameCt % 2 ^ 32) ++ fit 16 j.result

/-- Counters that completions move (R287, R315, R319, R330, R339, R348). -/
def State.countJob (s : State) (j : Job) : State :=
  let st := j.status.getD 0
  let pk := (0x50 ≤ j.op && j.op ≤ 0x58) || j.op == 0x3B || j.op == 0x31
  let up := fun (b : Bool) => b2n b
  let s := s.modYard (fun y => { y with
    screenRejects := y.screenRejects + up (pk && screenStatus st),
    signRetry := y.signRetry + up (st == stSignRetry),
    curveRejects := y.curveRejects + up (st == stParamRejected),
    macSegmented := y.macSegmented + up ((j.op == 0x20 || j.op == 0x21) && j.segmented),
    macMismatch := y.macMismatch + up (j.op == 0x21 && st == stMismatch),
    arqcMis := y.arqcMis + up ((j.op == 0x28 || j.op == 0x29) && st == stMismatch),
    pinTrans := y.pinTrans + up ((j.op == 0x10 || j.op == 0x12) && st == stOk) })
  if st = stParamRejected then s.latch 16 13 else s

/-- The pairs whose members disagreed in a job or in its parts. -/
def State.faultyLanes (s : State) (j : Job) : List Nat :=
  if j.status ≠ some stFaultDetected then []
  else if j.isBatch then
    (((s.parts j.id).filter (fun p => p.status == some stFaultDetected)).map (·.lastLane)).eraseDups
  else [j.lastLane]

/-- Completion of a paddock's job: destination bytes, then the record (R382), then the queue's attention bit (R383). -/
def State.writeCompletion (s : State) (j : Job) : State :=
  match s.pad? j.pad with
  | none => s
  | some q =>
    let r := q.ring.getD j.ring ringReset
    let s := if j.dstAddr = 0 ∨ j.dest.isEmpty then s else s.dma j.pad j.dstAddr j.dest
    let s := s.dma j.pad (r.cqBase + 32 * r.cqNext) (s.record j r)
    s.modPad j.pad (fun q => { q with
      ring := updAt q.ring j.ring (fun r => { r with
        cqNext := (r.cqNext + 1) % 2 ^ r.depthLog2, written := r.written + 1 }),
      atn := if j.quiet then q.atn else setBit q.atn j.ring,
      atnNew := if j.quiet then q.atnNew else setBit q.atnNew j.ring })

/-- A job completes and leaves the device. A Register Digest Window takes its status and result (R273); a forwarded job's
result goes to the master (R408). -/
def State.complete (s : State) (j : Job) : State :=
  let bad := s.faultyLanes j
  let s := s.countJob j
  let s := match j.src with
    | .paddock => s.writeCompletion j
    | .window w => s.modWindow w (fun r => { r with
        st := 3, job := none, code := j.status.getD 0,
        result := if j.status = some stOk ∧ !r.compare then fit 64 j.dest else zeros 64 })
    | .peer m _ => s.linkSend 8 2 (leN 4 m ++ leN 2 (j.status.getD 0) ++ leN 2 j.lastLane ++ leN 4 j.resLen ++
        fit 16 j.result ++ j.dest)
    | _ => s
  let s := bad.foldl (fun s l => s.quarantinePair l) s
  s.modJobs (fun l => l.filter (fun k => k.id != j.id && k.src != .part j.id))

/-- The job may complete now: its frame has come, no acknowledgement is awaited, its paddock has not been reset since it was
accepted, and no job that was accepted earlier is due (R382, R385, R389, R404). -/
def State.completes (s : State) (j : Job) : Bool :=
  let due := fun (k : Job) =>
    (match k.completeAt with | some f => decide (f ≤ s.now) | none => false) && !k.waitsLog &&
    k.acks.all (fun x => !s.cas.acksWaited.any (fun a => a.1 == x)) &&
    (match k.src with
     | .paddock => (match s.pad? k.pad with | some q => q.st != .resetting && k.pgen == s.pgen k.pad | none => false)
     | .part _ => false
     | .hamper _ _ _ => false
     | _ => true)
  due j && !s.jobs.any (fun k => k.id < j.id && due k)

end Sys2Proof.Machine
end

