-- ==== Sys2Proof/Machine/Reply.lean ====
section
/-! DEFINITION. Responses on dictionary sessions and in the PF dictionary mailbox (R424, R427 to R429). -/

namespace Sys2Proof.Machine

open Sys2Proof

/-- The PF mailbox has its answer (R424). -/
def State.mboxAnswer (s : State) (b : Bytes) : State :=
  s.modDmb (fun d => { d with busy := false, valid := true, resp := fit 8192 b, respLen := b.length })

/-- The bytes of a dictionary response (R428). -/
def dictResponse (op seq sid : Nat) (r : Reply) : Bytes :=
  bytesOf [1, 0x80 + op] ++ leN 2 seq ++ leN 4 sid ++ leN 2 r.status ++ zeros 2 ++ leN 2 r.info ++ leN 2 r.payload.length ++
    r.payload

/-- A response leaves on a channel; on a target port it is announced (R186). In the PF mailbox it is a secured message, whose form DSP0277 gives (log 8). -/
def State.sendReply (s : State) (c : Chan) (op seq sid : Nat) (r : Reply) : State :=
  let s := (s.emit (.reply sid seq r.status r.info r.payload)).inBand (c.iface - 3)
  if c.iface = 3 then s.mboxAnswer (bytesOf [6] ++ Config.message 6 [c.id] (dictResponse op seq sid r)) else s

/-- The session in a slot. -/
def State.session? (s : State) (slot : Nat) : Option Sess := s.dict.sessions.find? (fun x => x.slot == slot)

/-- Change the session in a slot. -/
def State.modSession (s : State) (slot : Nat) (f : Sess → Sess) : State :=
  s.modDict (fun d => { d with sessions := d.sessions.map (fun x => if x.slot == slot then f x else x) })

/-- The request of a session is answered, and the response is kept for a repetition (R427). -/
def State.answer (s : State) (slot : Nat) (r : Reply) : State := match s.session? slot with
  | none => s
  | some x => (s.sendReply x.chan x.lastOp x.lastSeq x.id r).modSession slot (fun x => { x with busy := false, lastReply := some r })

end Sys2Proof.Machine
end

