-- ==== Sys2Proof/Machine/Pads.lean ====
section
/-! DEFINITION. Paddocks: push windows, rings, fetching, resets, manager commands (R358 to R394, R524, R525). -/

namespace Sys2Proof.Machine

open Sys2Proof

/-- A paddock whose page takes writes: the link is up and the paddock is ENABLED (R389, R521). -/
def State.openPad (s : State) (p : Nat) : Option Pad :=
  if s.pwr.link then (s.pad? p).filter (fun q => q.st == .enabled) else none

/-! ### Push windows (R375) -/

/-- The outstanding count of a ring (R377). -/
def Ring.outstanding (r : Ring) : Nat := r.jobs + r.sealed + r.fetched

/-- D of a ring (R370). -/
def Ring.depth (r : Ring) : Nat := 2 ^ r.depthLog2

/-- `ACTIVE` falls once a disabled ring has nothing outstanding (R371). -/
def Ring.idleOff (r : Ring) : Ring := if !r.enable ∧ r.outstanding = 0 then { r with active := false } else r

/-- Change a ring of a paddock. -/
def State.modRing (s : State) (p r : Nat) (f : Ring → Ring) : State :=
  s.modPad p (fun q => { q with ring := updAt q.ring r (fun x => (f x).idleOff) })

/-- A push is refused (R372, R375): nothing completes; the refusal is recorded and latched. -/
def State.refusePush (s : State) (p slot tag ring code : Nat) : State :=
  let s := s.modPad p (fun q => { q with
    refTag := tag, refRing := ring, refSlot := slot, refCode := code, refCount := min 0xFFFF (q.refCount + 1),
    queueFull := if code = stQueueFull then q.queueFull + 1 else q.queueFull,
    pushFaults := if code = stQueueFull then q.pushFaults else q.pushFaults + 1,
    atn := setBit q.atn 4, atnNew := setBit q.atnNew 4 })
  let s := s.latch 23 6
  if code = stQueueFull then s.latch 23 8 else s

/-- A write TLP to a push-window slot: bytes in address order, whole dwords; byte 63 seals (R375, R376). -/
def State.pushWrite (s : State) (p n off : Nat) (data : Bytes) : State :=
  match s.openPad p with
  | none => s
  | some q =>
    let old := (q.slots.find? (fun x => x.num == n)).getD { num := n, data := zeros 64, dwords := 0, sealed := false }
    let b := (old.data.take off ++ data ++ old.data.drop (off + data.length)).take 64
    let dw := (List.range 16).foldl (fun (m : BitVec 16) i =>
      if off ≤ 4 * i ∧ 4 * i < off + data.length then setBit m i else m) old.dwords
    let known := dw.getLsbD 0 && !old.sealed
    let tag := if known then uLE b 2 2 else if old.sealed ∧ off = 0 then uLE data 2 2 else 0
    let ring := if known then field (u8 b 1) 2 1 else if old.sealed ∧ off = 0 then field (u8 data 1) 2 1 else 0
    let free := fun (s : State) => s.modPad p (fun q => { q with slots := q.slots.filter (fun x => x.num != n) })
    let r := q.ring.getD ring ringReset
    if off % 4 ≠ 0 ∨ data.length % 4 ≠ 0 ∨ data.isEmpty ∨ 64 < off + data.length then
      (if old.sealed then s else free s).refusePush p n tag ring stBadAlignment
    else if old.sealed then s.refusePush p n tag ring stBadFormat
    else if off + data.length < 64 then
      (free s).modPad p (fun q => { q with slots := q.slots ++ [{ num := n, data := b, dwords := dw, sealed := false }] })
    else if u8 b 63 ≠ 0xA5 ∨ dw ≠ 0xFFFF then (free s).refusePush p n tag ring stBadFormat
    else if !r.active then (free s).refusePush p n tag ring stBadFormat
    else if r.depth ≤ r.outstanding then (free s).refusePush p n tag ring stQueueFull
    else
      let s := (free s).modPad p (fun q => { q with
        slots := q.slots ++ [{ num := n, data := b, dwords := dw, sealed := true }],
        ring := updAt q.ring ring (fun r => { r with sealed := r.sealed + 1 }) })
      s.modPci (fun c => { c with front := c.front ++ [{ pad := p, ring := ring, slot := some n, data := b }] })

/-! ### Rings (R370, R371, R377, R378) -/

/-- A ring stops (R378). -/
def State.stopRing (s : State) (p r : Nat) : State :=
  (s.modPad p (fun q => { q with ring := updAt q.ring r (fun x => { x with error := true }),
                                 atn := setBit q.atn 5, atnNew := setBit q.atnNew 5 })).latch 23 7

/-- Fetched descriptors that the fetch engine holds or has asked for (R379). -/
def State.fetchHeld (s : State) : Nat := s.pads.foldl (fun n q => q.ring.foldl (fun n r => n + r.fetched) n) 0

/-- The next fetch read of a ring: at most 8 entries, no more than keep the count at or below D, and up to the end of the
ring (R377, R378). -/
def State.fetchRing (s : State) (p r : Nat) : State :=
  match s.openPad p with
  | none => s
  | some q =>
    let x := q.ring.getD r ringReset
    let d := x.depth
    let avail := (x.tail + d - x.sqHead) % d
    let n := min (min 8 avail) (min (d - x.outstanding) (min (d - x.sqHead) (64 - s.fetchHeld)))
    if !x.active ∨ !x.enable ∨ x.error ∨ n = 0 then s
    else
      let tag := s.pci.nextTag
      let s := s.emit (.dmaRead p tag (x.sqBase + 64 * x.sqHead) (64 * n))
      let s := s.modRing p r (fun x => { x with sqHead := (x.sqHead + n) % d, fetched := x.fetched + n })
      s.modPci (fun c => { c with nextTag := tag + 1, turn := 4 * p + r + 1,
                                  reads := c.reads ++ [{ tag := tag, pad := p, what := .fetch r n, at_ := s.now }] })

/-- The fetch engine serves the rings in turn by paddock and ring number, from the one after the last served (R379, log 114). -/
def State.fetchAll (s : State) : State :=
  let l := s.pads.flatMap (fun q => (List.range 4).map (4 * q.num + ·))
  (l.filter (s.pci.turn ≤ ·) ++ l.filter (· < s.pci.turn)).foldl (fun s k => s.fetchRing (k / 4) (k % 4)) s

/-- A write of the submission tail (R378). -/
def State.writeTail (s : State) (p r v : Nat) : State :=
  match s.openPad p with
  | none => s
  | some q =>
    let x := q.ring.getD r ringReset
    let v := v % 65536
    let s := s.modRing p r (fun x => { x with tail := v })
    if x.active ∧ x.depth ≤ v then s.stopRing p r else s.fetchAll

/-- Accepted jobs of a ring that have not completed. -/
def State.liveJobs (s : State) (p r : Nat) : Nat :=
  (s.jobs.filter (fun j => j.src == .paddock && j.pad == p && j.ring == r)).length

/-- A write of the completion head (R377, R378): entries up to it are released. -/
def State.writeHead (s : State) (p r v : Nat) : State :=
  match s.openPad p with
  | none => s
  | some q =>
    let x := q.ring.getD r ringReset
    let v := v % 65536
    let n := (v + x.depth - x.head) % x.depth
    if !x.active then s.modRing p r (fun x => { x with head := v })
    else if x.depth ≤ v ∨ x.jobs < n + s.liveJobs p r then
      (s.modRing p r (fun x => { x with head := v })).stopRing p r
    else (s.modRing p r (fun x => { x with head := v, jobs := x.jobs - n })).fetchAll

/-- A write of 1 to `RING_CFG.ENABLE` (R371). -/
def State.enableRing (s : State) (p r : Nat) : State :=
  match s.openPad p with
  | none => s
  | some q =>
    let x := q.ring.getD r ringReset
    if x.active then (s.modRing p r (fun x => { x with enable := true })).fetchAll
    else if q.rings ≤ r ∨ x.depthLog2 < 4 ∨ 12 < x.depthLog2 ∨ q.maxDepth < x.depth then
      s.modRing p r (fun x => { x with enable := true, code := stRange })
    else if x.sqBase % 4096 ≠ 0 ∨ x.cqBase % 4096 ≠ 0 then
      s.modRing p r (fun x => { x with enable := true, code := stBadAlignment })
    else s.modRing p r (fun x => { x with
      enable := true, active := true, code := stOk, tail := 0, head := 0, sqHead := 0, cqNext := 0, written := 0,
      jobs := 0, sealed := 0, fetched := 0 })

/-- A write of 0 to `RING_CFG.ENABLE` (R371). -/
def State.disableRing (s : State) (p r : Nat) : State :=
  match s.openPad p with
  | none => s
  | some _ => s.modRing p r (fun x => { x with enable := false })

/-- An outstanding read ends. -/
def State.dropRead (s : State) (tag : Nat) : State :=
  s.modPci (fun c => { c with reads := c.reads.filter (fun r => r.tag != tag) })

/-- A fetch read brings its entries, or fails and stops its ring (R378). -/
def State.fetchDone (s : State) (tag : Nat) (data : Option Bytes) : State :=
  match s.pci.reads.find? (fun r => r.tag == tag) with
  | none => s
  | some x => match x.what with
    | .source _ => s
    | .fetch r n =>
      let s := s.dropRead tag
      match data with
      | some d =>
        if d.length = 64 * n then
          let es : List FrontDesc := (chunks 64 d).map (fun e => { pad := x.pad, ring := r, slot := none, data := e })
          s.modPci (fun c => { c with front := c.front ++ es })
        else (s.modRing x.pad r (fun y => { y with fetched := y.fetched - n })).stopRing x.pad r
      | none => (s.modRing x.pad r (fun y => { y with fetched := y.fetched - n })).stopRing x.pad r

/-! ### Presence and resets (R359, R360, R385 to R390) -/

/-- The function of a paddock is present (R359, R360). -/
def State.padPresent (s : State) (p : Nat) : Bool :=
  p == 0 || (if p < 256 then s.pci.vfEnable && p ≤ s.pci.numVfs else p < 288 && s.pci.pasid)

/-- A reset is accepted in this frame (R387, R388): the generation increments, the page returns to its reset values (R389, log 115),
the paddock's reads go to quarantine. A paddock that is RESETTING joins the reset in progress; a DISABLED one takes none. -/
def State.resetPad (s : State) (p : Nat) : State :=
  match s.pad? p with
  | none => s
  | some q =>
    if q.st ≠ .enabled then s
    else
      let mine := s.pci.reads.filter (fun r => r.pad == p)
      let s := s.modPmem (fun m => { m with pgen := putKey m.pgen p ((s.pgen p + 1) % 256) })
      let s := s.modPad p (fun q => { q with
        st := .resetting, slots := [], ring := [ringReset, ringReset, ringReset, ringReset], atn := 0, atnNew := 0,
        atnEn := 0x7F, refTag := 0, refRing := 0, refSlot := 0, refCode := 0, refCount := 0,
        resets := q.resets + 1, sinceQuery := q.sinceQuery + 1, resetAt := some s.now, struck := false })
      let empty := s.pci.quar.isEmpty
      let s := s.modPci (fun c => { c with
        front := c.front.filter (fun f => f.pad != p),
        reads := c.reads.filter (fun r => r.pad != p),
        quar := c.quar ++ mine.map (fun r => (r.tag, r.at_)) })
      let s := if empty ∧ !mine.isEmpty then s.latch 23 3 else s
      s.latch 23 1

/-- Boundary r+1 (R388): the jobs of the old generation are cancelled without a completion, running programmes abort, and
contexts and streams go, and the hamper key for the new generation is derived. A forwarded job's cancellation is sent to its member (R409). -/
def State.strikePad (s : State) (p : Nat) : State :=
  let s := s.jobs.foldl (fun s j =>
    if j.pad = p ∧ (match j.src with | .window _ => false | .peer _ _ => false | _ => true) = true then
      let s := match j.forwarded with
        | some m => (s.linkSend m 3 (leN 4 j.id)).modCas (fun c => { c with credits := updAt c.credits m (· + 1) })
        | none => s
      if (s.job? j.id).isSome then s.abortJob j.id none else s
    else s) s
  let s := s.modPad p (fun q => { q with streams := [], struck := true })
  if (match s.pad? p with | some q => q.destroy | none => true) then s else s.deriveHamper p

/-- The cancellations of paddock resets at a boundary (order 2 of R33). -/
def State.strikePads (s : State) : State :=
  s.pads.foldl (fun s q => match q.resetAt with
    | some r => if !q.struck ∧ r < s.now then s.strikePad q.num else s
    | none => s) s

/-- The Register Digest Window at a reset of paddock 0 (R524). -/
def State.windowReset (s : State) : State :=
  let s := match s.rdw.job with
    | some id => if (s.job? id).isSome then s.abortJob id none else s
    | none => s
  s.modRdw (fun _ => rdwReset)

/-- Reset several paddocks; paddock 0 takes the Register Digest Window with it. -/
def State.resetPads (s : State) (l : List Nat) : State :=
  l.foldl (fun s p => let s := if p = 0 ∧ (match s.pad? 0 with | some q => q.st == .enabled | none => false) = true then s.windowReset else s
                      s.resetPad p) s

/-- Every slot that a paddock owns is erased (R237). -/
def State.eraseOwned (s : State) (p : Nat) : State :=
  s.tack.keys.foldl (fun s k => if k.owner = p ∧ !k.world.getLsbD 0 then s.eraseKey k else s) s

/-! ### The manager (R364 to R368) -/

/-- The bytes of a command from `a` up to `b` are 0. -/
def zeroFrom (c : Bytes) (a b : Nat) : Bool := allZero (slice c a (b - a))

/-- Order of the fields a command uses: the format part of R366 and R7. -/
def mgrFormat (c : Bytes) : Bool :=
  u8 c 1 == 0 && zeroFrom c 44 64 && uLE c 8 2 < 128 && uLE c 20 4 < 2 ^ 20 &&
  (match u8 c 0 with
   | 1 => zeroFrom c 32 44 && (256 ≤ uLE c 2 2 || uLE c 20 4 == 0)
   | 2 => zeroFrom c 20 24 && zeroFrom c 32 44
   | 6 => zeroFrom c 4 24
   | 8 => zeroFrom c 4 24 && zeroFrom c 32 44
   | _ => zeroFrom c 4 44)

/-- The alignment part of R366 and R392. -/
def mgrAligned (c : Bytes) : Bool := match u8 c 0 with
  | 1 => uLE c 24 8 % 4096 == 0
  | 2 => uLE c 24 8 % 4096 == 0
  | 6 => uLE c 24 8 % 8 == 0 && uLE c 32 8 % 4096 == 0
  | 8 => uLE c 24 8 % 8 == 0
  | _ => true

/-- The ranges and pool sums of R361 and R363 for a configuration of paddock `p`. -/
def State.quotaOk (s : State) (p : Nat) (c : Bytes) : Bool :=
  let sum := fun (f : Pad → Nat) => s.pads.foldl (fun n q => if q.num = p then n else n + f q) 0
  let depth := uLE c 6 2
  u8 c 4 < 64 && 1 ≤ u8 c 5 && u8 c 5 ≤ 4 && (List.range 9).any (fun k => depth == 2 ^ (k + 4)) &&
  uLE c 12 4 + sum (·.keyQuota) ≤ 28672 && uLE c 16 2 ≤ 960 && uLE c 16 2 + sum (·.ctxQuota) ≤ 960 &&
  uLE c 18 2 ≤ 1024 && uLE c 18 2 + sum (·.streamLimit) ≤ 65536 &&
  (uLE c 24 8 != 0 || uLE c 18 2 ≤ uLE c 16 2)

/-- The check of a manager command: 0 or its refusal (R366). -/
def State.mgrCheck (s : State) (c : Bytes) : Nat :=
  let code := u8 c 0
  let p := uLE c 2 2
  let q := s.pad? p
  let resetting := match q with | some q => q.st == .resetting | none => false
  let disabled := match q with | some q => q.st == .disabled | none => true
  if code = 0 ∨ 8 < code then stBadOpcode
  else if !mgrFormat c then stBadFormat
  else if !mgrAligned c then stBadAlignment
  else if (code = 2 ∨ code = 4 ∨ 6 ≤ code) ∧ resetting = true then stPaddockReset
  else if 287 < p then stRange
  else
    let ok := match code with
      | 1 => q.isNone && s.padPresent p && s.quotaOk p c &&
          (p < 256 || (1 ≤ uLE c 20 4 && !s.pads.any (fun x => 256 ≤ x.num && x.pasid == uLE c 20 4)))
      | 2 => (match q with
          | none => false
          | some q => s.quotaOk p c && q.contexts ≤ uLE c 16 2 && q.streams.length ≤ uLE c 18 2 &&
              (List.range 4).all (fun r => let x := q.ring.getD r ringReset
                !x.active || (r < u8 c 5 && x.depth ≤ uLE c 6 2)))
      | 3 => !disabled
      | 4 => p != 0
      | 5 => true
      | 6 => (match q with
          | none => false
          | some q => q.log.isNone && 1 ≤ uLE c 40 4 && uLE c 32 8 + 4096 * uLE c 40 4 ≤ 2 ^ 64)
      | _ => (match q with | none => false | some q => q.log.isSome)
    if ok = true then 0 else stRange

/-- The result of a command (R368). -/
def State.mgrResult (s : State) (p st : Nat) : Bytes :=
  let q := s.pad? p
  let n := fun (f : Pad → Nat) => match q with | some q => f q | none => 0
  let state := n (fun q => match q.st with | .disabled => 0 | .enabled => 1 | .resetting => 2)
  let since := n (·.sinceQuery)
  leN 2 st ++ leN 1 state ++ leN 1 (s.pgen p) ++ leN 4 (s.slotsOwned p) ++ leN 2 (n (·.contexts)) ++
    leN 2 (n (·.streams.length)) ++ leN 4 (n (fun q => q.ring.foldl (fun a r => a + r.outstanding) 0)) ++ leN 4 since ++
    leN 2 (if since = 0 then 0 else stPaddockReset) ++ zeros 42

/-- Where a manager command's result goes: 0 the mailbox, k + 1 the session in slot k, 1001 and more the master that sent it
over the Cucen Link (R364, R430). -/
def State.mgrEnd (s : State) (who : Nat) (res : Bytes) : State :=
  let st := uLE res 0 2
  let s := s.latch 23 0
  if who = 0 then s.modPci (fun c => { c with
      mgrBusy := false, mgrDiscard := false,
      mgrCode := if c.mgrDiscard then 0 else st, mgrResult := if c.mgrDiscard then zeros 64 else res })
  else
    let s := s.modPci (fun c => { c with pResult := res })
    if 1000 < who then s.linkSend 8 11 (leN 2 (who - 1001) ++ leN 2 st ++ leN 2 0)
    else s.answer (who - 1) { status := st, info := 0, payload := [] }

/-- A configuration that a command carries. -/
def configOf (q : Pad) (c : Bytes) : Pad :=
  { q with group := u8 c 4, rings := u8 c 5, maxDepth := uLE c 6 2, families := BitVec.ofNat 7 (uLE c 8 2),
           shared := BitVec.ofNat 16 (uLE c 10 2), keyQuota := uLE c 12 4, ctxQuota := uLE c 16 2,
           streamLimit := uLE c 18 2, hamperBase := uLE c 24 8 }

/-- Paddocks stand in number order. -/
def insertPad (q : Pad) : List Pad → List Pad
  | [] => [q]
  | x :: r => if q.num < x.num then q :: x :: r else x :: insertPad q r

/-- A paddock's configuration ends. -/
def State.dropPad (s : State) (p : Nat) : State := s.modPads (fun l => l.filter (fun q => q.num != p))

/-- A command takes effect (R366, R388, R391 to R393). `who` waits where the command completes only with a reset. -/
def State.mgrApply (s : State) (c : Bytes) (who : Nat) : State :=
  let p := uLE c 2 2
  let fin := fun (s : State) => s.mgrEnd who (s.mgrResult p stOk)
  match u8 c 0 with
  | 1 => fin ((s.modPads (insertPad { configOf (padFresh p) c with pasid := uLE c 20 4 })).deriveHamper p)
  | 2 => fin ((s.modPad p (fun q => configOf q c)).overQuota p)
  | 3 => (s.resetPads [p]).modPad p (fun q => { q with mgrWaits := q.mgrWaits ++ [who] })
  | 4 =>
    let s := (s.eraseOwned p).dropHamper p
    let enabled := match s.pad? p with | some q => q.st != .disabled | none => false
    if enabled = true then
      (s.resetPad p).modPad p (fun q => { q with destroy := true, mgrWaits := q.mgrWaits ++ [who] })
    else fin (s.dropPad p)
  | 5 => (fin s).modPad p (fun q => { q with sinceQuery := 0 })
  | 6 => fin (s.modPad p (fun q => { q with
      log := some { base := uLE c 24 8, first := uLE c 32 8, pages := uLE c 40 4, bits := [] } }))
  | 7 => (fin (s.modPad p (fun q => { q with log := none }))).latch 23 9
  | _ => (fin (s.modPad p (fun q => { q with log := q.log.map (fun l =>
      if uLE c 24 8 = 0 then l else { l with base := uLE c 24 8, bits := [] }) }))).latch 23 9

/-- A refused command: its result, and no effect. -/
def State.mgrRefuse (s : State) (c : Bytes) (who e : Nat) : State :=
  s.mgrEnd who (s.mgrResult (uLE c 2 2) e)

/-- A reset completes (R388): with its lanes free, the paddock is ENABLED again, or DISABLED where its function has gone,
or gone after DESTROY; the commands that waited complete. -/
def State.resetDone (s : State) (p : Nat) : State :=
  match s.pad? p with
  | none => s
  | some q => match q.resetAt with
    | none => s
    | some r =>
      if !q.struck ∨ s.now ≤ r ∨ (s.now < r + 3 ∧ s.yard.lanes.any (fun l => l.zero != 0)) then s
      else
        let s := s.modPad p (fun q => { q with
          st := if s.padPresent p then .enabled else .disabled, resetAt := none, struck := false, mgrWaits := [],
          destroy := false, atn := setBit q.atn 6, atnNew := setBit q.atnNew 6 })
        let s := s.latch 23 2
        let s := if q.destroy then s.dropPad p else s
        q.mgrWaits.foldl (fun s w => s.mgrEnd w (s.mgrResult p stOk)) s

/-- The function of a paddock appears or goes (R359, R360). -/
def State.presence (s : State) (p : Nat) : State :=
  match s.pad? p with
  | none => s
  | some q =>
    if s.padPresent p then (if q.st = .disabled then (s.modPad p (fun q => { q with st := .enabled })).deriveHamper p else s)
    else s.resetPad p

/-- The PF mailboxes at a PF FLR, a hot reset or a link-down (R525), and `GLB_SCRATCH` (R524). -/
def State.pfMailboxes (s : State) : State :=
  let s := match s.rdw.job with
    | some id => if (s.job? id).isSome then s.abortJob id none else s
    | none => s
  let s := s.modRdw (fun _ => rdwReset)
  let s := s.modPci (fun c => { c with mgrCmd := zeros 64, mgrResult := zeros 64, mgrCode := 0, mgrDiscard := c.mgrBusy,
                                       mboxEnd := true })
  let s := s.modDmb (fun _ => dmbReset)
  s.modCore (fun c => { c with scratch := 0 })

end Sys2Proof.Machine
end

