-- ==== Sys2Proof/Machine/Window.lean ====
section
/-! DEFINITION. The Register Digest Windows (R270 to R275). -/

namespace Sys2Proof.Machine

open Sys2Proof

/-- A window can be reached: the PF's over the link, the stewards' while the device is powered (R275, R521). -/
def State.windowOpen (s : State) (steward : Bool) : Bool :=
  if steward then s.core.op != .off && s.core.op != .deepSleep else s.pwr.link

/-- The window's job goes, and its context is zeroized. -/
def State.windowDrop (s : State) (w : Bool) : State :=
  let s := match (s.window w).job with
    | some id => if (s.job? id).isSome then s.abortJob id none else s
    | none => s
  s.modWindow w (fun r => { r with job := none })

/-- A message fails (R272): `STATE` DONE and no result. -/
def State.windowFail (s : State) (w : Bool) (code : Nat) : State :=
  (s.windowDrop w).modWindow w (fun r => { r with st := 3, code := code, result := zeros 64 })

/-- Words that the window takes through `RDW_DATA`. -/
def Rdw.plain (r : Rdw) : Nat := ceilDiv r.length 8 - 1

/-- The job of a message: class C1 or C4 in paddock 0's group, or a device job of class C0, in no group, for the stewards (R42, R274,
R275). -/
def State.windowJob (s : State) (w : Bool) : State :=
  let r := s.window w
  let group := match s.pad? 0 with | some q => q.group | none => 0
  let j := jobOf s.nextJob 0 (s.pgen 0) group false s.now []
  let j := { j with src := .window w, op := 0x40 + b2n r.keyed + 2 * b2n r.compare, param := r.alg, srcLen := r.length,
                    keyA := if r.keyed then r.key else 0, keyB := 0,
                    dstLen := if r.compare then r.expLen else 0, ready := true, readyAt := s.now,
                    data := r.msg ++ (if r.compare then r.expect.take r.expLen else []) }
  let j := s.shape j
  let j := if w then { j with cls := 0, group := 64 } else j
  let s := (s.modJobs (fun l => l ++ [j])).modNextJob (· + 1)
  s.modWindow w (fun r => { r with job := some j.id })

/-- A message whose last word has come: its job, or, in BOOTING, DG0 at once (R66, R275). -/
def State.windowEnd (s : State) (w : Bool) : State :=
  let s := s.modWindow w (fun r => { r with st := 2 })
  let r := s.window w
  if s.core.op = .booting then
    let out := (hashOfCode r.alg).run r.msg
    s.modWindow w (fun r =>
      if r.keyed then { r with st := 3, code := stKeyAbsent, result := zeros 64 }
      else if r.compare then
        { r with st := 3, code := if out = r.expect.take r.expLen then stOk else stMismatch, result := zeros 64 }
      else { r with st := 3, code := stOk, result := fit 64 out })
  else match r.job with
    | some id => s.modJob id (fun j => { j with data := r.msg ++ (if r.compare then r.expect.take r.expLen else []) })
    | none => s.windowJob w

/-- The length of an expected value that R255 allows. -/
def Rdw.expOk (r : Rdw) : Bool :=
  let full := (hashOfCode r.alg).len
  if r.keyed then 16 ≤ r.expLen && r.expLen ≤ full else r.expLen == full

/-- A write of `RDW_CTRL.START` (R271). -/
def State.windowStart (s : State) (w : Bool) (ctrl : Nat) : State :=
  let s := s.windowDrop w
  let s := s.modWindow w (fun r => { r with
    alg := ctrl % 4, keyed := bitN ctrl 2, compare := bitN ctrl 3, lastCount := 0, result := zeros 64, st := 1,
    words := 0, half := none, msg := [], free := 4096 })
  let r := s.window w
  let refuse := fun (e : Nat) => s.modWindow w (fun r => { r with st := 0, code := e })
  if 2 ^ 32 < r.length then refuse stBadLength
  else if r.alg = 0 then refuse stBadFormat
  else if r.compare ∧ !r.expOk then refuse stBadLength
  else if r.length = 0 then s.windowEnd w
  else if 448 < r.length ∧ s.core.op ≠ .booting then s.windowJob w
  else s

/-- A word arrives; the high half completes it (R270). -/
def State.windowWord (s : State) (w high : Bool) (b : Bytes) : State × Option Bytes :=
  let r := s.window w
  if 8 ≤ b.length then (s, some (b.take 8))
  else if high then
    (s.modWindow w (fun r => { r with half := none }), some (fit 4 (r.half.getD (zeros 4)) ++ fit 4 b))
  else (s.modWindow w (fun r => { r with half := some (fit 4 b) }), none)

/-- A word for `RDW_DATA` (R272). -/
def State.windowData (s : State) (w high : Bool) (b : Bytes) : State :=
  if (s.window w).st = 0 then s
  else match s.windowWord w high b with
    | (s, none) => s
    | (s, some v) =>
      let r := s.window w
      if r.st = 1 ∧ r.words < r.plain ∧ 8 ≤ r.free then
        s.modWindow w (fun r => { r with msg := r.msg ++ v, words := r.words + 1,
                                         free := if s.core.op = .booting then r.free else r.free - 8 })
      else s.windowFail w stLengthMismatch

/-- The last word (R272). -/
def State.windowLast (s : State) (w high : Bool) (b : Bytes) : State :=
  if (s.window w).st = 0 then s
  else match s.windowWord w high b with
    | (s, none) => s
    | (s, some v) =>
      let r := s.window w
      if r.st ≠ 1 ∨ r.free < 8 then s.windowFail w stLengthMismatch
      else if r.lastCount = 0 then s.windowFail w stBadLength
      else if 8 * r.words + r.lastCount ≠ r.length then s.windowFail w stLengthMismatch
      else (s.modWindow w (fun r => { r with msg := r.msg ++ v.take r.lastCount })).windowEnd w

/-- RDW_START (R271). -/
def execRdwStart (steward : Bool) (ctrl : Nat) (s : State) : Res :=
  let s := s.fresh
  .next (if s.windowOpen steward then s.windowStart steward ctrl else s)

/-- RDW_ABORT (R270): the open message is abandoned without a result. -/
def execRdwAbort (steward : Bool) (ctrl : Nat) (s : State) : Res :=
  let s := s.fresh
  .next (if s.windowOpen steward then
      (s.windowDrop steward).modWindow steward (fun r => { r with
        alg := ctrl % 4, keyed := bitN ctrl 2, compare := bitN ctrl 3, st := if r.st = 3 then 3 else 0, half := none,
        msg := [], words := 0, free := 4096 })
    else s)

/-- RDW_DATA_WRITE (R272). -/
def execRdwDataWrite (steward high : Bool) (w : Bytes) (s : State) : Res :=
  let s := s.fresh
  .next (if s.windowOpen steward then s.windowData steward high w else s)

/-- RDW_LASTWORD_WRITE (R272). -/
def execRdwLastwordWrite (steward high : Bool) (w : Bytes) (s : State) : Res :=
  let s := s.fresh
  .next (if s.windowOpen steward then s.windowLast steward high w else s)

/-- RDW_LASTCOUNT_WRITE (R272): a value outside 1 to 8 is refused and the message stays open. -/
def execRdwLastcountWrite (steward : Bool) (v : Nat) (s : State) : Res :=
  let s := s.fresh
  .next (if s.windowOpen steward then
      s.modWindow steward (fun r => if 1 ≤ v % 16 ∧ v % 16 ≤ 8 then { r with lastCount := v % 16 }
        else { r with code := stBadLength })
    else s)

/-- RDW_RESULT_READ (R273): before DONE the read gives 0 and sets `EARLY`. -/
def execRdwResultRead (steward : Bool) (word : Nat) (s : State) : Res :=
  let s := s.fresh
  .next (if !s.windowOpen steward then s
    else if (s.window steward).st = 3 then s.emit (.read (uLE (s.window steward).result (4 * word) 4))
    else (s.modWindow steward (fun r => { r with early := true, code := stResultNotReady })).emit (.read 0))

end Sys2Proof.Machine
end

