-- ==== Sys2Proof/Machine/Rings.lean ====
section
/-! DEFINITION. Commands of the host's data path: push windows, rings, reads, resets of functions (R359, R360, R375 to R379,
R387 to R390, R524, R525). -/

namespace Sys2Proof.Machine

open Sys2Proof

/-- What the front end does when something has reached it or left it in this frame. -/
def State.serveFront (s : State) : State := s.acceptFront.fetchAll

/-- PUSH_SLOT_SEAL (R375, R376, R379): the write that brings byte 63. -/
def execPushSlotSeal (pad slot off : Nat) (data : Bytes) (s : State) : Res :=
  let s := s.fresh
  .next (if off + data.length = 64 ∧ slot < 64 then (s.pushWrite pad slot off data).serveFront else s)

/-- PUSH_WINDOW_WRITE (R375): a write that does not bring byte 63. -/
def execPushWindowWrite (pad slot off : Nat) (data : Bytes) (s : State) : Res :=
  let s := s.fresh
  .next (if off + data.length < 64 ∧ slot < 64 then s.pushWrite pad slot off data else s)

/-- RING_SQ_TAIL_WRITE (R378). -/
def execRingSqTailWrite (pad ring v : Nat) (s : State) : Res :=
  let s := s.fresh
  .next (if ring < 4 then s.writeTail pad ring v else s)

/-- RING_CQ_HEAD_WRITE (R377, R378). -/
def execRingCqHeadWrite (pad ring v : Nat) (s : State) : Res :=
  let s := s.fresh
  .next (if ring < 4 then s.writeHead pad ring v else s)

/-- RING_ENABLE (R371). -/
def execRingEnable (pad ring : Nat) (s : State) : Res :=
  let s := s.fresh
  .next (if ring < 4 then s.enableRing pad ring else s)

/-- RING_DISABLE (R371). -/
def execRingDisable (pad ring : Nat) (s : State) : Res :=
  let s := s.fresh
  .next (if ring < 4 then s.disableRing pad ring else s)

/-- FETCH_COMPLETION (R378, R379): the entries reach the front end in ring order, or the ring stops. -/
def execFetchCompletion (tag : Nat) (data : Option Bytes) (s : State) : Res :=
  let s := s.fresh
  .next (s.fetchDone tag data).serveFront

/-- SOURCE_DATA_ARRIVAL (R44, R261, R334): the source of job `id` is there, or its read failed. -/
def execSourceDataArrival (id : Nat) (data : Option Bytes) (s : State) : Res :=
  let s := s.fresh
  .next (if s.pci.reads.any (fun r => r.what == .source id) then s.arrive id data else s)

/-- LATE_COMPLETION (R390): the completion of a quarantined tag is discarded. -/
def execLateCompletion (tag : Nat) (s : State) : Res :=
  let s := s.fresh
  .next (if s.pci.quar.any (fun q => q.1 == tag) then
      (s.modPci (fun c => { c with quar := c.quar.filter (fun q => q.1 != tag), lateCpl := c.lateCpl + 1 })).latch 23 4
    else s)

/-- `paddock.pcie.cpl_timeout` in frames (R390). -/
def State.cplTimeout (s : State) : Nat := 2 * s.valU (mkKey 0x5000 0x08)

/-- COMPLETION_TIMEOUT (R390): a quarantined tag is released; a live read fails. -/
def execCompletionTimeout (tag : Nat) (s : State) : Res :=
  let s := s.fresh
  .next (
    let old := fun (at_ : Nat) => decide (at_ + s.cplTimeout ≤ s.now)
    if s.pci.quar.any (fun q => q.1 == tag && old q.2) then
      s.modPci (fun c => { c with quar := c.quar.filter (fun q => q.1 != tag) })
    else match s.pci.reads.find? (fun r => r.tag == tag && old r.at_) with
      | none => s
      | some r =>
        let s := s.latch 23 5
        match r.what with
        | .fetch _ _ => (s.fetchDone tag none).serveFront
        | .source id => s.arrive id none)

/-- PADDOCK_RESET_WRITE (R387): a write of 1 to `PADDOCK_CTRL.RESET`. -/
def execPaddockResetWrite (pad : Nat) (v : Nat) (s : State) : Res :=
  let s := s.fresh
  .next (if v % 2 = 1 ∧ (s.openPad pad).isSome then s.resetPads [pad] else s)

/-- PADDOCK_RESET_COMPLETE (R388). -/
def execPaddockResetComplete (pad : Nat) (s : State) : Res :=
  let s := s.fresh
  .next (s.resetDone pad)

/-- The MSI-X state of a function returns to its PCIe reset value: disabled, every vector masked (R524). -/
def State.msixReset (s : State) (fn : Nat) : State :=
  s.modAtn (fun a => { a with msixEn := a.msixEn.filter (· != fn), table := a.table.filter (fun e => e.1 / 64 != fn),
                              pend := a.pend.filter (fun v => v / 64 != fn) })

/-- VF_FLR (R387, R524): the VF's paddock resets. -/
def execVfFlr (n : Nat) (s : State) : Res :=
  let s := s.fresh
  .next (if s.pwr.link ∧ 1 ≤ n ∧ n < 256 ∧ s.padPresent n then (s.resetPad n).msixReset n else s)

/-- Paddocks of the VFs and of the slices. -/
def vfPads : List Nat := (List.range 255).map (· + 1)

/-- Paddocks of the slices. -/
def slicePads : List Nat := (List.range 32).map (· + 256)

/-- PF_FLR (R387, R524, R525): paddock 0 and the slices reset, the VFs go, and the PF mailboxes return to reset values. -/
def execPfFlr (s : State) : Res :=
  let s := s.fresh
  .next (if !s.pwr.link then s
    else
      let s := ((s.pfMailboxes.latch 23 10).resetPads (0 :: slicePads)).modPci
        (fun c => { c with vfEnable := false, numVfs := 0 })
      (vfPads.foldl (fun s n => s.presence n) s).msixReset 0)

/-- What a hot reset and a link-down do (R387, R524, R525). -/
def State.hotReset (s : State) : State :=
  let s := (s.pfMailboxes.latch 23 11).resetPads (0 :: vfPads ++ slicePads)
  (0 :: vfPads).foldl (fun s n => s.msixReset n) s

/-- HOT_RESET (R387, R524, R525): a hot reset or a link-down. -/
def execHotReset (s : State) : Res :=
  let s := s.fresh
  .next (if s.pwr.link then s.hotReset else s)

/-- VF_ENABLE_CHANGE (R360): VF paddocks appear, or reset and become DISABLED with their configuration kept. -/
def execVfEnableChange (enable : Bool) (numVfs : Nat) (s : State) : Res :=
  let s := s.fresh
  .next (if !s.pwr.link ∨ 255 < numVfs ∨ (s.pci.vfEnable = enable ∧ s.pci.numVfs = numVfs) then s
    else
      let s := (s.modPci (fun c => { c with vfEnable := enable, numVfs := numVfs })).latch 23 12
      vfPads.foldl (fun s n => s.presence n) s)

/-- PASID_ENABLE_CHANGE (R359): the slices appear, or reset and become DISABLED with their configuration kept. -/
def execPasidEnableChange (enable : Bool) (s : State) : Res :=
  let s := s.fresh
  .next (if !s.pwr.link ∨ s.pci.pasid = enable then s
    else
      let s := (s.modPci (fun c => { c with pasid := enable })).latch 23 13
      slicePads.foldl (fun s n => s.presence n) s)

end Sys2Proof.Machine
end

