-- ==== Sys2Proof/Machine/Attention.lean ====
section
/-! DEFINITION. The attention tree at work and MSI-X messages (R383, R507 to R513). -/

namespace Sys2Proof.Machine

open Sys2Proof

/-- An MSI-X table entry: address and data 0 and masked at reset. -/
def State.msixEntry (s : State) (key : Nat) : Bytes := (getKey s.atn.table key).getD (zeros 12 ++ leN 4 1)

/-- Write an MSI-X table entry. -/
def State.setMsix (s : State) (key : Nat) (e : Bytes) : State :=
  s.modAtn (fun a => { a with table := if e = zeros 12 ++ leN 4 1 then dropKey a.table key else putKey a.table key e })

/-- A message is sent, or pends while MSI-X is disabled or the vector masked (R511). -/
def State.sendMsix (s : State) (fn vector : Nat) : State :=
  let key := 64 * fn + vector
  if s.atn.msixEn.contains fn ∧ !bitN (u8 (s.msixEntry key) 12) 0 then s.emit (.msix fn vector)
  else s.modAtn (fun a => { a with pend := if a.pend.contains key then a.pend else a.pend ++ [key] })

/-- The attention pin and vector 0 at a boundary, from the state that the frame left; then the enables that were written
in it (R510 to R512). -/
def State.atnBoundary (s : State) : State :=
  let up := s.core.op.powered && s.atn.irqEn && s.atnSummary != 0
  let rise := up && !s.atn.pin
  let again := up && s.atn.rearm
  let s := s.modAtn (fun a => { a with
    pin := up, rearm := false, fresh := List.replicate 24 0, dueEn := [], pfEn := [],
    enable := (a.dueEn ++ a.pfEn).foldl (fun l e => updAt l e.1 (fun _ => e.2)) a.enable })
  let s := if rise then s.sendMsix 0 0 else s
  if again then s.sendMsix 0 0 else s

/-- The function and vector of a paddock (R358). -/
def padVector (p : Nat) : Nat × Nat := if p = 0 then (0, 1) else if p < 256 then (p, 0) else (0, 2 + (p - 256))

/-- Paddock messages at a boundary (R383). -/
def State.padMessages (s : State) : State :=
  s.pads.foldl (fun s q =>
    let s := if q.atnNew &&& q.atnEn = 0 ∨ q.st ≠ .enabled then s
             else s.sendMsix (padVector q.num).1 (padVector q.num).2
    s.modPad q.num (fun q => { q with atnNew := 0 })) s

/-- ATN_CAUSE_CLEAR (R508): the leaves whose bits are 1 clear. -/
def execAtnCauseClear (g v : Nat) (s : State) : Res :=
  let s := s.fresh
  .next (if s.pwr.link ∧ g < 24 then s.clearLeaves g (BitVec.ofNat 16 v) else s)

/-- A PF write of a working enable (R512): it changes at the next boundary, and the write is an event. -/
def State.writeEnable (s : State) (g v : Nat) : State :=
  (s.modAtn (fun a => { a with pfEn := a.pfEn ++ [(g, BitVec.ofNat 16 v)] })).logEv
    { devDesc (0x104 + 0x10 * g) (evCode 8 .atnEnable) (Config.eventRef .atnEnable [g, v]).toNat with iface := 11 }

/-- ATN_ENABLE_WRITE (R512). -/
def execAtnEnableWrite (g v : Nat) (s : State) : Res :=
  let s := s.fresh
  .next (if s.pwr.link ∧ g < 24 then s.writeEnable g v else s)

/-- ATN_REARM (R511). -/
def execAtnRearm (s : State) : Res :=
  let s := s.fresh
  .next (if s.pwr.link then s.modAtn (fun a => { a with rearm := true }) else s)

/-- VECTOR_UNMASK (R511): MSI-X of a function is enabled and a vector unmasked; a pending message is sent. -/
def execVectorUnmask (fn vector : Nat) (s : State) : Res :=
  let s := s.fresh
  .next (
    let key := 64 * fn + vector
    if !s.pwr.link ∨ 255 < fn ∨ (if fn = 0 then 33 else 0) < vector then s
    else
      let e := s.msixEntry key
      let s := s.setMsix key (e.take 12 ++ leN 4 (uLE e 12 4 / 2 * 2))
      let s := s.modAtn (fun a => { a with msixEn := if a.msixEn.contains fn then a.msixEn else a.msixEn ++ [fn] })
      if s.atn.pend.contains key then (s.modAtn (fun a => { a with pend := a.pend.filter (· != key) })).emit (.msix fn vector)
      else s)

end Sys2Proof.Machine
end

