-- ==== Sys2Proof/Machine/Switch.lean ====
section
/-! DEFINITION. Sheet switches (R54 to R58, R403). -/

namespace Sys2Proof.Machine

open Sys2Proof

/-- The sheet that the next round boundary makes active, with a switch due: the safe sheet before a quorum switch, a quorum
switch before the return to sheet 0 that a load forces (R55, R56, R58). -/
def State.ownSheet (s : State) : Option Nat :=
  if s.yard.safeDue then some s.safeSheet
  else match s.yard.pending with
    | some n => some n
    | none => if s.yard.loadDue then some 0 else none

/-- The sheet of the switch that is due: on a MEMBER the master's, at the boundary that it names (R403). -/
def State.nextSheet (s : State) : Option Nat := match s.cas.remote with
  | some r => some r.1
  | none => s.ownSheet

/-- A quorum switch that has not taken effect is discarded, and the discard is logged (R56, R58). -/
def State.discardSwitch (s : State) : State :=
  match s.yard.pending with
  | none => s
  | some n => (s.modYard (fun y => { y with pending := none })).ev 1 8 .sheetDiscard [n]

/-- A sheet becomes active with its base frame (R54, R56); a master sends its switch to every member and logs a
stack-wide safe sheet (R403). Link message 5 carries sheet, base and SAFE. -/
def State.activate (s : State) (sheet base : Nat) (safe : Bool) : State :=
  let s := if safe then s.discardSwitch else s
  let s := s.modYard (fun y => { y with
    sheet := sheet, base := base, safe := safe, pending := none, safeDue := false, loadDue := false, leaving := none })
  let s := s.latch 0 11
  let s := if safe then s.latch 0 10 else s
  if s.cas.role = .master then
    let s := s.members.foldl (fun s d => s.linkSend d 5 (leN 1 sheet ++ leN 8 base ++ leN 1 (b2n safe))) s
    if safe then s.ev 9 9 .stackSheet [sheet] else s
  else s

/-- Order 1 of R33 for the frame `f` that starts: the master's switch on a MEMBER at the boundary it names (R403), or the
switch that is due at a round boundary. -/
def State.takeSwitch (s : State) (f : Nat) : State :=
  match s.cas.remote with
  | some (n, b, safe) =>
    if b ≤ f then (s.modCas (fun c => { c with remote := none })).activate n b safe else s
  | none =>
    if s.roundBoundary f then match s.ownSheet with
      | some n => s.activate n f s.yard.safeDue
      | none => s
    else s

/-- The safe sheet falls due without quorum; if it is active nothing changes (R56). Before dispatch begins there is no
active sheet yet (R490). -/
def State.makeSafeDue (s : State) : State :=
  if s.core.op ≠ .booting ∧ s.yard.sheet = s.safeSheet ∧ s.yard.loadDue = false then s
  else s.modYard (fun y => { y with safeDue := true })

/-- A class T response (R484, R403): a MEMBER sends it to the master, which makes the safe sheet due for the stack. Link
message 4 is the report; member 8 stands for the master. -/
def State.classT (s : State) : State :=
  if s.cas.role = .member then s.linkSend 8 4 (leN 1 s.pwr.cascadeId.toNat) else s.makeSafeDue

/-- SHEET_SWITCH (R54): at the boundary that ends this frame, if it is a round boundary and a switch is due. -/
def execSheetSwitch (s : State) : Res :=
  let s := s.fresh
  .next (if s.core.op.powered then s.takeSwitch (s.core.frameCt + 1) else s)

/-- STACK_CLASS_T_REPORT (R398, R403): the master makes the safe sheet due on every device of the stack. -/
def execStackClassTReport (member : Nat) (s : State) : Res :=
  let s := s.fresh
  .next (if s.cas.role = .master ∧ s.members.contains member then s.makeSafeDue else s.passOn 0 member)

/-- REMOTE_SHEET_SWITCH (R403): a MEMBER switches at the boundary that the master names. -/
def execRemoteSheetSwitch (sheet base : Nat) (safe : Bool) (s : State) : Res :=
  let s := s.fresh
  .next (if s.cas.role = .member ∧ s.hasSheet sheet then
      let s := s.modCas (fun c => { c with remote := some (sheet, base, safe) })
      if base ≤ s.core.frameCt then s.takeSwitch s.core.frameCt else s
    else s)

end Sys2Proof.Machine
end

