-- ==== Sys2Proof/Machine/Monitors.lean ====
section
/-! DEFINITION. Monitors at work, self-tests, the backup domain, the DRBG's health and the ends of device jobs (R233, R236,
R246, R324 to R326, R482 to R504). -/

namespace Sys2Proof.Machine

open Sys2Proof

/-! ### Alarms -/

/-- The monitors of a mask. -/
def monitorsIn (m : BitVec 24) : List Nat := (List.range 24).filter (fun k => m.getLsbD k)

/-- Some of these monitors latched with the class. -/
def State.latchedAs (s : State) (l : List Nat) (cls : Nat) : Bool := l.any (fun k => s.mon.cls.getD k 0 == cls)

/-- The actions of the alarms that latched, at order 2 of the boundary (R484, R485, R487, R490): the union of the hold
flags, the safe sheet, ALARM_HALT. In BOOTING stage 1 enters ALARM_HALT itself (R88). -/
def State.alarmRespond (s : State) : State :=
  let l := monitorsIn s.mon.due
  let s := s.modMon (fun m => { m with due := 0 })
  let s := if l.any (fun k => (s.monConfig k).testBit 2) then s.beginAlarmHold else s
  let s := if s.latchedAs l 1 then s.classT else s
  let z := s.latchedAs l 3
  if !z ∧ !s.latchedAs l 2 then s
  else match s.core.op with
    | .alarmHalt => s.modCore (fun c => { c with zSince := c.zSince || z })
    | .holding | .running | .recovery =>
      let s := s.modCore (fun c => { c with before := c.op, zSince := z })
      let s := s.setOp .alarmHalt
      if s.latchedAs l 2 then s.modSup (fun u => { u with abortDue := true }) else s
    | _ => s

/-- The latches of a mask are cleared with their backup latch word bits (R488). -/
def State.clearMonitors (s : State) (m : BitVec 24) : State :=
  s.modMon (fun x => { x with latched := clearBits x.latched m, word := clearBits x.word m, wordZ := clearBits x.wordZ m })

/-- MONITOR_DETECT (R482, R485): on main power a monitor's input meets its rule. Monitors 21 to 23 watch events of the
device itself, which raise them where they happen. -/
def execMonitorDetect (n : Nat) (s : State) : Res :=
  let s := s.fresh
  .next (if 21 ≤ n ∨ s.core.op = .off ∨ s.core.op = .deepSleep ∨ (n < 12 ∧ ¬ (s.monConfig n).testBit 3) then s
    else (s.modMon (fun m => { m with active := setBit m.active n })).monDetect n)

/-- ALARM_RESPONSE (R485). -/
def execAlarmResponse (s : State) : Res :=
  let s := s.fresh
  .next (if s.mon.due = 0 then s else s.alarmRespond)

/-- LATCH_SELF_CLEAR (R488): a class L or T latch, after one second without activity, or at once for monitors 21 to 23. -/
def execLatchSelfClear (n : Nat) (s : State) : Res :=
  let s := s.fresh
  .next (if s.mon.latched.getLsbD n ∧ s.mon.cls.getD n 0 < 2 ∧ s.mon.due.getLsbD n = false ∧
      (21 ≤ n ∨ (s.mon.active.getLsbD n = false ∧ s.mon.inactiveAt.getD n 0 + secFrames ≤ s.now)) then
      s.modMon (fun m => { m with latched := clearBits m.latched (BitVec.ofNat 24 (2 ^ n)) })
    else s)

/-! ### Built-in tests (R499) -/

/-- Frames of a test window. -/
def testWindow (n : Nat) : Nat :=
  if n < 12 then 4 else if n < 14 then 8 else if n < 18 then 4 else if n < 21 then 8 else 2

/-- A test begins. -/
def State.beginTest (s : State) (n : Nat) : State :=
  s.modMon (fun m => { m with testMon := n, testEnd := some (s.now + testWindow n), testResult := .running, heldBack := 0 })

/-- MON_TEST_WINDOW_END (R499): the result is recorded and logged, a failure latches SELF_TEST, and a real condition or a
held-back event latches. -/
def execMonTestWindowEnd (detected real : Bool) (s : State) : Res :=
  let s := s.fresh
  .next (match s.mon.testEnd with
    | none => s
    | some e =>
      if s.now < e then s
      else
        let n := s.mon.testMon
        let back := s.mon.heldBack.getLsbD n
        let s := s.modMon (fun m => { m with testEnd := none, heldBack := 0,
                                             testResult := if detected then .pass else .fail })
        let s := s.ev 6 7 .alarmTest [n, b2n detected]
        let s := if detected then s else s.monDetect 23
        if (if n < 21 then real else back) then s.monDetect n else s)

/-! ### The backup domain (R500 to R504) -/

/-- Monitors that the backup domain watches alone (R500). -/
def backupWatched (n : Nat) : Bool := n < 14 || n == 17 || n == 20

/-- A detection on the backup cell (R501). -/
def State.backupDetect (s : State) (n : Nat) : State :=
  let cfg := s.monConfig n
  let cls := cfg % 4
  let hold := cfg.testBit 2
  let r : FifoRec := { secs := s.log.secs, mon := n, cls := cls, hold := hold,
                       battery := !s.pwr.vinGood || s.core.op == .deepSleep, count := 1 }
  let s := s.modMon (fun m => { m with
    fifo := fifoAdd m.fifo r,
    word := if 2 ≤ cls then setBit m.word n else m.word,
    wordZ := if cls = 3 then setBit m.wordZ n else m.wordZ,
    holdRec := m.holdRec || hold })
  if cls = 3 then
    let s := s.modTack (fun t => { t with srk := none, srkCheck := zeros 8, bootKey := none })
    s.modPwr (fun p => { p with sramKept := false, sram := none, wakeRec := none })
  else s

/-- BACKUP_DETECTION (R500, R501): in OFF or DEEP_SLEEP; a class H or Z latch does not fire again (R488). -/
def execBackupDetection (n : Nat) (s : State) : Res :=
  let s := s.fresh
  .next (if (s.core.op = .off ∨ s.core.op = .deepSleep) ∧ backupWatched n = true ∧ s.mon.word.getLsbD n = false ∧
      (s.pwr.vinGood ∨ s.pwr.vbatOk) ∧ (12 ≤ n ∨ (s.monConfig n).testBit 3) then s.backupDetect n
    else s)

/-- VBAT_COLLAPSE (R504): with VIN absent the backup domain loses its keys, latch word, FIFO, hold record and seconds. -/
def execVbatCollapse (s : State) : Res :=
  let s := s.fresh
  .next (
    let s := s.modPwr (fun p => { p with vbatOk := false })
    if s.pwr.vinGood then s else s.loseBackup)

/-! ### Self-tests (R497, R498) -/

/-- A lane has a self-test of its kind: block and digest lanes. -/
def hasSelfTest (lane : Nat) : Bool := 28 ≤ lane && lane < 92

/-- SELF_TEST_PERIOD (R497): once per period each enabled block and digest lane is tested, and one zeroization pass runs. -/
def execSelfTestPeriod (s : State) : Res :=
  let s := s.fresh
  .next (if !s.core.op.powered ∨ s.now < s.yard.lastPeriod + s.valU (mkKey 0x7000 0x09) * secFrames then s
    else
      let s := s.modYard (fun y => { y with lastPeriod := s.now })
      let add := fun (s : State) (w : DevWhat) => if s.devJobs.any (·.what == w) then s else s.addDev w
      add ((List.range 92).foldl (fun s n => if hasSelfTest n && !(s.lane n).disabled then add s (.selfTest n) else s) s)
        .zeroPass)

/-- The attention leaf of a lane that failed its test (R514). -/
def State.latchLane (s : State) (n : Nat) : State :=
  if n < 4 then s.latch 16 (8 + n)
  else if n < 60 then s.latch (17 + (n - 28) / 16) ((n - 28) % 16)
  else s.latch (19 + (n - 60) / 16) ((n - 60) % 16)

/-- SELF_TEST_RESULT (R497, R498): a lane's test ends; a number past the lanes is the zeroization pass. -/
def execSelfTestResult (lane : Nat) (pass : Bool) (s : State) : Res :=
  let s := s.fresh
  .next (
    if lane < 92 then
      if !s.devEnded (.selfTest lane) then s
      else
        let s := s.dropDev (.selfTest lane)
        if pass then s.modLane lane (fun l => { l with needTest := false })
        else (((s.modLane lane (fun l => { l with disabled := true })).latchLane lane).ev 1 7 .selfTestFail [lane]).monDetect 23
    else if !s.devEnded .zeroPass then s
    else
      let s := s.dropDev .zeroPass
      if pass then s else ((s.latch 16 15).ev 2 7 .zeroByte [lane]).monDetect 23)

/-- PAIR_CHECK_COMPLETE (R324 to R326, R497). A check that fails counts as a fault. -/
def execPairCheckComplete (lane : Nat) (pass : Bool) (s : State) : Res :=
  let s := s.fresh
  .next (if !s.devEnded (.pairCheck lane) then s
    else
      let s := s.dropDev (.pairCheck lane)
      let off := (s.lane lane).disabled
      if pass then
        let s := (s.modLane lane (fun l => { l with quarantine := false, disabled := false, needTest := false })).latchPair lane
        if off then (s.latch 16 14).ev 1 8 .pairEnabled [lane] else s.ev 1 8 .pairPassed [lane]
      else
        let s := s.countFault.modLane lane (fun l => { l with quarantine := false, disabled := true })
        (s.latchPair lane).ev 1 8 .pairDisabled [lane])

/-! ### DRBG, drains, sweeps -/

/-- ENTROPY_TEST_FAIL (R246). -/
def execEntropyTestFail (s : State) : Res :=
  let s := s.fresh
  .next (if s.core.op = .off ∨ s.core.op = .deepSleep ∨ s.tack.drbgOk = false then s
    else ((s.modTack (fun t => { t with drbgOk := false })).latch 0 5).logEv (devDesc 2 0x0220 0))

/-- DRBG_RECOVERY (R246): 4,096 consecutive samples have passed and a reseed has completed. -/
def execDrbgRecovery (s : State) : Res :=
  let s := s.fresh
  .next (if s.core.op = .off ∨ s.core.op = .deepSleep ∨ s.tack.drbgOk then s
    else ((s.modTack (fun t => { t with drbgOk := true })).latch 0 6).logEv (devDesc 2 0x0221 0))

/-- The key that drains in a slot. -/
def State.draining (s : State) (slot : Nat) : Option Key := (s.tack.key? slot).filter (fun k => k.st == .draining)

/-- DRAIN_ERASE (R236): the last user has ended. -/
def execDrainErase (slot : Nat) (s : State) : Res :=
  let s := s.fresh
  .next (match s.draining slot with
    | some k => if s.keyUsed slot then s else s.eraseKey k
    | none => s)

/-- DRAIN_TIMEOUT (R236): the erase pre-empts the remaining users. -/
def execDrainTimeout (slot : Nat) (s : State) : Res :=
  let s := s.fresh
  .next (match s.draining slot with
    | some k => if (match k.drainEnd with | some e => decide (e ≤ s.now) | none => false) then s.eraseKey k else s
    | none => s)

/-- LINEAGE_SWEEP_END (R233): the sweep's entry carries the number of slots it revoked. -/
def execLineageSweepEnd (s : State) : Res :=
  let s := s.fresh
  .next (if !s.devEnded .sweep then s
    else
      let s := (s.dropDev .sweep).modTack (fun t => { t with sweeps := t.sweeps + 1 })
      (s.latch 16 12).logEv (devDesc 2 0x0212 s.tack.swept))

end Sys2Proof.Machine
end

