-- ==== Sys2Proof/Machine/Sess.lean ====
section
/-! DEFINITION. The ends of sessions and channels, and the drawing of session IDs (R209, R210, R423, R425, R426). -/

namespace Sys2Proof.Machine

open Sys2Proof

/-- The device's halves of session IDs that it may not draw: of live sessions, on either side, and of those that ended less than 10 s
before (R210). -/
def State.halfBarred (s : State) (v : Nat) : Bool :=
  s.par.sessions.any (fun x => x.id / 65536 == v) || s.par.table.any (fun p => p.session != 0 && p.half == v) ||
    recent s.now s.par.ended v

/-- How many halves are barred at most. -/
def State.halfBars (s : State) : Nat := s.par.sessions.length + s.par.table.length + s.par.ended.length

/-- The stewards serve requests: a powered state and no steward halted (R17, R480). -/
def State.serving (s : State) : Bool := s.core.op.powered && !s.pwr.halted

/-- A number drawn again until it is not barred (R210, R426): sixteen draws of `len` bytes, then the next number up that is
free, a case that no run is expected to reach. -/
def State.freshId (s : State) (len : Nat) (barred : Nat → Bool) (bars : Nat) : Nat × State :=
  let v := fun i => ofLE (Config.drbg (s.tack.draws + i) len)
  match (List.range 16).find? (fun i => !barred (v i)) with
  | some i => (v i, s.modTack (fun t => { t with draws := t.draws + i + 1 }))
  | none =>
    let w := fun i => (v 15 + i) % 256 ^ len
    (w (((List.range (bars + 2)).find? (fun i => !barred (w i))).getD 0), s.modTack (fun t => { t with draws := t.draws + 16 }))

/-- A Logbook description that a session causes (R446, R447). -/
def Sess.desc (x : Sess) (code ref : Nat) (old new : Bytes) : LogDesc :=
  { iface := x.chan.iface, detail := x.slot, role := x.role, code := code, ref := ref, old := old, new := new, mon := none,
    fixedStamp := none }

/-- A dictionary session ends (R426). One that has authenticated was logged as opened and is logged as closed. -/
def State.endSession (s : State) (x : Sess) : State :=
  let s := s.modDict (fun d => { d with
    sessions := d.sessions.filter (fun y => y.slot != x.slot), ended := d.ended ++ [(x.id, s.now)] })
  if x.role = 0 then s else (s.latch 22 1).logEv (x.desc 0x0302 x.id [] [])

/-- Every session that a test names ends. -/
def State.endSessions (s : State) (p : Sess → Bool) : State :=
  (s.dict.sessions.filter p).foldl (fun s x => s.endSession x) s

/-- A channel ends, and the session that it carries (R426). -/
def State.endChannel (s : State) (c : Chan) : State :=
  (s.endSessions (fun x => x.chan == c)).modDict (fun d => { d with authFails := d.authFails.filter (fun a => a.1 != c) })

/-- The interface code of an SPDM transport: bits 0 to 2 of R211 are PCIe VDM, IC2 and IC3, and 5 stands for the PF mailbox;
IC0 and IC1 carry no dictionary (R422, R447). -/
def transportIface (t : Nat) : Nat := if t = 0 then 4 else if t = 1 then 5 else if t = 2 then 6 else if t = 5 then 3 else 15

/-- A responder session ends and is logged, and its channel with it (R209, R426). -/
def State.endSpdm (s : State) (x : SpdmSess) : State :=
  let s := s.modPar (fun p => { p with sessions := p.sessions.filter (fun y => y.id != x.id),
                                       ended := p.ended ++ [(x.id / 65536, s.now)] })
  let s := s.endChannel { iface := transportIface x.transport, id := x.id }
  s.ev 5 6 .spdmSessionClosed [x.id]

/-- A DTLS connection ends with the session that it carries (R423, R426). -/
def State.endDtls (s : State) (c : Dtls) : State :=
  (s.modDict (fun d => { d with conns := d.conns.filter (fun x => !(x.port == c.port && x.id == c.id)) })).endChannel
    { iface := 7 + c.port, id := c.id }

end Sys2Proof.Machine
end

