-- ==== Sys2Proof/Machine/Partners.lean ====
section
/-! DEFINITION. Partners: discovery, attestation as requester, departure, quarantine (R185 to R200). SPDM codes are those of
DSP0274 and the reserved I3C addresses those of the I3C standard, PRESUMED (log 8). -/

namespace Sys2Proof.Machine

open Sys2Proof

/-- Frames in a millisecond. -/
def msFrames : Nat := 2000

/-- Partner table entry `k`. -/
def State.partner (s : State) (k : Nat) : Partner := s.par.table.getD k partnerReset

/-- Change partner table entry `k`. -/
def State.modPartner (s : State) (k : Nat) (f : Partner → Partner) : State :=
  s.modPar (fun p => { p with table := updAt p.table k f })

/-- Policy record `k` (R191). -/
def State.policy (s : State) (k : Nat) : Bytes := s.val (mkKey 0x3200 k)

/-- The sheet gives a C0 slot on a PK pair. -/
def State.c0Pk (s : State) : Bool := s.classOn .pk 0

/-- An I2C or SMBus partner, which has no dynamic address: its match key is its static address. -/
def Partner.isStatic (p : Partner) : Bool := p.pid == bytesOf [p.addr, 0, 0, 0, 0, 0]

/-! ### Requests -/

/-- The SPDM request code of a step of R194, numbered 1 to 8. -/
def stepCode (pol : Bytes) (k : Nat) : Nat :=
  if k = 1 then 0x84 else if k = 2 then 0xE1 else if k = 3 then 0xE3 else if k = 4 then 0x81 else if k = 5 then 0x82
  else if k = 6 then (if bitN (u8 pol 10) 0 then 0xE4 else 0x83) else if k = 7 then 0xE5 else 0xE0

/-- What a request carries that this spec fixes: the algorithms offered (R193), the portion of the chain, the summary asked for or
the device's half of the session ID (R210), the block index. -/
def stepPayload (p : Partner) (pol : Bytes) (k : Nat) : Bytes :=
  if k = 3 then bytesOf [3, 3, 3, 3, 1]
  else if k = 5 then leN 2 p.chain.length ++ leN 2 1024
  else if k = 6 then (if bitN (u8 pol 10) 0 then leN 2 p.half else bytesOf [0, b2n (u8 pol 8 == 1)])
  else if k = 8 then bytesOf [0xFF, 1] else []

/-- The next message tag towards a partner, 0 to 7 in turn: not one that rests after a timeout, nor that of an outstanding request
(R200). -/
def State.nextTag (s : State) (k : Nat) : Nat :=
  let p := s.partner k
  let barred := fun t => s.par.deadTags.any (fun d => d.1 == p.eid && d.2.1 == t && s.now < d.2.2) || (p.waiting && p.tag == t)
  (((List.range 8).map (fun i => (p.lastTag + 1 + i) % 8)).find? (fun t => !barred t)).getD ((p.lastTag + 1) % 8)

/-- A tag whose request timed out rests towards its EID for 100 ms (R200). -/
def State.restTag (s : State) (k t : Nat) : State :=
  s.modPar (fun q => { q with deadTags := q.deadTags.filter (fun d => s.now < d.2.2) ++ [((s.partner k).eid, t, s.now + 100 * msFrames)] })

/-- An MCTP control request to a partner: its command and data (R188, R197, R200). -/
def State.ctrlReq (s : State) (k cmd : Nat) (d : Bytes) : State :=
  let p := s.partner k
  let t := s.nextTag k
  (s.modPartner k (fun p => { p with lastTag := t })).mctpSend p.bus p.addr p.eid t p.isStatic (bytesOf [0x80, cmd] ++ d)

/-- Send the current request with the next usable tag (R194, R200); FINISH and GET_MEASUREMENTS go inside the session when one
exists. -/
def State.sendReq (s : State) (k : Nat) : State :=
  let p := s.partner k
  let pol := s.policy k
  let tag := s.nextTag k
  let s := s.modPartner k (fun p => { p with
    tag := tag, lastTag := tag, waiting := true, attempts := p.attempts + 1, sentAt := s.now })
  if p.session ≠ 0 ∧ 7 ≤ p.step then s.emit (.secured (3 + p.bus) p.eid p.session (stepCode pol p.step) (stepPayload p pol p.step))
  else s.emit (.spdm (3 + p.bus) p.eid (stepCode pol p.step) (stepPayload p pol p.step))

/-- A requester's session ends and is logged (R196, R197, R209). -/
def State.endOwnSession (s : State) (k : Nat) : State :=
  let p := s.partner k
  if p.session = 0 then s
  else ((s.modPar (fun q => { q with ended := q.ended ++ [(p.half, s.now)] })).modPartner k
    (fun p => { p with session := 0 })).ev 5 6 .spdmSessionClosed [p.session]

/-- A C0 programme checks what partner `k` has answered (R195). -/
def DevWhat.forPartner (w : DevWhat) (k : Nat) : Bool := match w with
  | .pair _ _ _ (.partner n _ _ _ _ _) => n == k
  | _ => false

/-- Nothing of an attestation runs any more. -/
def State.stopAttest (s : State) (k : Nat) : State :=
  ((s.endOwnSession k).dropWhat (·.forPartner k)).modPartner k (fun p => { p with
    step := 0, waiting := false, attempts := 0, again := false, restart := false, checking := false })

/-- Go to a step and send its request. Step 5 does not begin without a C0 slot on a PK pair: the entry then reads ENDPOINT
(R195). KEY_EXCHANGE draws the device's half of the session ID (R210). -/
def State.toStep (s : State) (k n : Nat) : State :=
  let s := s.modPartner k (fun p => { p with
    step := n, attempts := 0, waiting := false,
    st := if p.again then p.st else if s.c0Pk then .attesting else .endpoint })
  if n = 5 ∧ !s.c0Pk then s
  else if n = 6 ∧ bitN (u8 (s.policy k) 10) 0 then
    let d := s.freshId 2 s.halfBarred s.halfBars
    (d.2.modPartner k (fun p => { p with half := d.1 })).sendReq k
  else s.sendReq k

/-- Attestation of an entry begins (R194). -/
def State.attest (s : State) (k : Nat) (again : Bool) : State :=
  ((s.stopAttest k).modPartner k (fun p => { p with again := again, chain := [], summary := [], runNo := p.runNo + 1 })).toStep k 1

/-- The leaf of an entry whose state became PASS, FAIL or DEPARTED (R514). -/
def State.latchEntry (s : State) (k : Nat) : State := s.latch (11 + k / 16) (k % 16)

/-- A verdict (R192, R194, R196): logged with its reason and the chain and measurement digests. -/
def State.partnerVerdict (s : State) (k : Nat) (reason : Nat) : State :=
  let p := s.partner k
  let st := if reason = 0 then PState.pass else .fail
  let s := s.modPartner k (fun p => { p with st := st, reason := reason, verdictAt := s.core.frameCt, step := 0,
                                             waiting := false, again := false, attempts := 0, checking := false })
  let s := if p.st = st then s else (s.latch 10 (if reason = 0 then 8 else 6)).latchEntry k
  let s := if p.again then s.latch 10 9 else s
  let q := s.partner k
  s.logEv { devDesc 5 (evCode 6 .partnerVerdict) (Config.eventRef .partnerVerdict [k, reason]).toNat with
    old := h8 q.chainDig, new := h8 q.measDig }

/-- The comparison of step 6 (R191, R194): a partner with no policy record never passes. -/
def State.compareEntry (s : State) (k : Nat) : State :=
  let p := s.partner k
  let pol := s.policy k
  let want := slice pol 64 48
  let reason := if p.noPolicy then 9
    else match u8 pol 8 with
      | 0 => 0
      | 1 => if fit 48 p.summary = want then 0 else 6
      | _ => if p.measDig = want then 0 else 6
  s.partnerVerdict k reason

/-- Measurements are asked for: rule 2, or a partner without a record (R191, R194). -/
def Partner.wantsAll (p : Partner) (pol : Bytes) : Bool := p.noPolicy || u8 pol 8 == 2

/-- A C0 programme for one signature of a partner: 40 frames for P-256, 92 for P-384 (R39, R195, log 126); `left` more follow it. -/
def State.checkJob (s : State) (k left : Nat) (payload : Bytes) (ok : Bool) (session : Nat) : State :=
  let p := s.partner k
  (s.modPartner k (fun p => { p with checking := true })).addDev
    (.pair false false (if p.sig = 2 then 92 else 40) (.partner k p.runNo left payload ok session))

/-- The certificate chain of a partner, its signatures checked (R194 step 3). -/
def State.chainChecked (s : State) (k : Nat) : State :=
  let p := s.partner k
  if !Config.chainOk p.chain then s.partnerVerdict k 4
  else if !p.noPolicy ∧ sha384 (Config.chainRoot p.chain) ≠ slice (s.policy k) 16 48 then s.partnerVerdict k 3
  else s.toStep k 6

/-- What follows the signature of CHALLENGE_AUTH, KEY_EXCHANGE_RSP or MEASUREMENTS (R194 steps 4 to 6). -/
def State.answerChecked (s : State) (k : Nat) (payload : Bytes) (ok : Bool) (session : Nat) : State :=
  let p := s.partner k
  let pol := s.policy k
  if p.step = 6 then
    if !ok then s.partnerVerdict k 5
    else if bitN (u8 pol 10) 0 then
      (s.modPartner k (fun p => { p with summary := payload, session := p.half + session % 65536 * 65536, sessAt := s.now })).toStep k 7
    else
      let s := s.modPartner k (fun p => { p with summary := payload })
      if p.wantsAll pol then s.toStep k 8 else s.compareEntry k
  else if !ok then s.partnerVerdict k 7
  else (s.modPartner k (fun p => { p with measDig := sha384 payload })).compareEntry k

/-- A C0 programme of attestation run `run` has ended: the next signature, or what follows the last (R195). -/
def State.partnerChecked (s : State) (k run left : Nat) (payload : Bytes) (ok : Bool) (session : Nat) : State :=
  let p := s.partner k
  if p.runNo ≠ run ∨ !p.checking then s
  else if 0 < left then s.checkJob k (left - 1) payload ok session
  else
    let s := s.modPartner k (fun p => { p with checking := false })
    if p.step = 5 then s.chainChecked k else s.answerChecked k payload ok session

/-- The algorithms that a partner answers are among those offered (R193); key exchange and AEAD matter where the policy asks for a
session (log 111). -/
def algsCommon (pol : Bytes) (r : Resp) : Bool :=
  let two := fun (v : Nat) => v == 1 || v == 2
  two r.sig && two r.hash && (!bitN (u8 pol 10) 0 || (two r.dhe && two r.aead))

/-- A response to the outstanding request: the next step, a check, or a verdict (R193 to R195). -/
def State.stepDone (s : State) (k : Nat) (r : Resp) : State :=
  let p := s.partner k
  let pol := s.policy k
  match p.step with
  | 1 =>
    let least := if p.noPolicy then 0x12 else u8 pol 9
    let ok := fun v => r.versions.contains v && least ≤ v
    if ok 0x13 then (s.modPartner k (fun p => { p with version := 0x13 })).toStep k 2
    else if ok 0x12 then (s.modPartner k (fun p => { p with version := 0x12 })).toStep k 2
    else s.partnerVerdict k 2
  | 2 => s.toStep k 3
  | 3 =>
    if algsCommon pol r then (s.modPartner k (fun p => { p with sig := r.sig, hash := r.hash })).toStep k 4
    else s.partnerVerdict k 2
  | 4 => s.toStep k 5
  | 5 =>
    let chain := p.chain ++ r.payload
    let s := s.modPartner k (fun p => { p with chain := chain })
    if r.more then (s.modPartner k (fun p => { p with attempts := 0 })).sendReq k
    else (s.modPartner k (fun p => { p with chainDig := sha384 chain })).checkJob k (Config.chainCount chain - 1) [] true 0
  | 6 => s.checkJob k 0 r.payload r.sigOk r.session
  | 7 => if p.wantsAll pol then s.toStep k 8 else s.compareEntry k
  | 8 => s.checkJob k 0 r.payload r.sigOk 0
  | _ => s

/-- A response of step 7 or 8 that should have come inside the session and did not, or does not decrypt (R194, R210). -/
def Partner.outside (p : Partner) (r : Resp) : Bool := p.session != 0 && 7 ≤ p.step && (r.session != p.session || !r.aeadOk)

/-- REQUESTER_RESPONSE (R194, R198, R200, R209). -/
def execRequesterResponse (k : Nat) (r : Resp) (s : State) : Res :=
  let s := s.fresh
  let p := s.partner k
  .next (if !s.serving then s
    else if s.eidQuarantined r.srcEid ∨ s.addrQuarantined p.bus r.srcAddr ∨ !p.waiting ∨ p.tag ≠ r.tag ∨ p.eid ≠ r.srcEid then
      s.lateMctp
    else if p.outside r then (s.modPar (fun q => { q with dead := q.dead + 1 })).latch 10 13
    else (s.modPartner k (fun p => { p with waiting := false, sessAt := s.now })).stepDone k r)

/-- REQUESTER_TIMEOUT (R194, R200): sent again at most twice; the tag rests for 100 ms. -/
def execRequesterTimeout (k : Nat) (s : State) : Res :=
  let s := s.fresh
  let p := s.partner k
  .next (if !s.serving ∨ !p.waiting ∨ s.now < p.sentAt + 100 * msFrames then s
    else
      let s := (s.restTag k p.tag).modPartner k (fun p => { p with waiting := false })
      if p.attempts < 3 then s.sendReq k else s.partnerVerdict k 8)

/-! ### Departure -/

/-- An entry departs (R197): its session and attestation end, its EID and dynamic address go to quarantine. -/
def State.depart (s : State) (k : Nat) : State :=
  let p := s.partner k
  let s := s.modPar (fun q => { q with
    eidQuar := if p.eid = 0 then q.eidQuar else q.eidQuar ++ [(p.eid, s.now)],
    addrQuar := if p.isStatic then q.addrQuar else q.addrQuar ++ [(p.bus, p.addr, s.now)] })
  let s := (s.stopAttest k).modPartner k (fun p => { p with
    st := .departed, eid := 0, departures := min 0xFFFF (p.departures + 1), missed := 0 })
  (((s.latch 10 7).latchEntry k).ev 5 6 .partnerDeparted [k])

/-- A polled state (R197). -/
def PState.polled : PState → Bool
  | .endpoint | .attesting | .pass | .fail => true
  | _ => false

/-- PARTNER_POLL (R197, R200): a Get Endpoint ID and whether it was answered within 100 ms. -/
def execPartnerPoll (k : Nat) (answered : Bool) (s : State) : Res :=
  let s := s.fresh
  let p := s.partner k
  .next (if !s.serving ∨ !p.st.polled ∨ s.now < p.polledAt + s.valU (mkKey 0x3000 0x08) * msFrames then s
    else
      let t := s.nextTag k
      let s := s.ctrlReq k 2 []
      let s := if answered then s else s.restTag k t
      let s := s.modPartner k (fun p => { p with polledAt := s.now, missed := if answered then 0 else p.missed + 1 })
      if 3 ≤ (s.partner k).missed then s.depart k else s)

/-! ### Discovery -/

/-- I3C reserves these dynamic addresses. -/
def i3cReserved (a : Nat) : Bool := a == 0x3E || a == 0x5E || a == 0x6E || a == 0x76 || 0x78 ≤ a

/-- A live entry. -/
def PState.live (p : PState) : Bool := p != .empty && p != .departed

/-- The next free dynamic address of a bus from 0x10 upward (R188 step 2). -/
def State.freeAddr (s : State) (bus : Nat) : Option Nat :=
  ((List.range 0x68).map (· + 0x10)).find? (fun a => !i3cReserved a &&
    !s.par.table.any (fun p => p.st.live && p.bus == bus && p.addr == a) && !s.par.strays.contains (bus, a) &&
    !s.addrQuarantined bus a)

/-- The lowest free EID of the pool (R188 step 4, R198). -/
def State.freeEid (s : State) : Option Nat :=
  let base := s.valU (mkKey 0x3000 0x06)
  ((List.range (s.valU (mkKey 0x3000 0x07))).map (· + base)).find? (fun e =>
    !s.par.table.any (fun p => p.st.live && p.eid == e) && !s.eidQuarantined e)

/-- The policy record that binds a partner (R190). -/
def State.policyFor (s : State) (f : Found) : Option Nat :=
  (List.range 64).find? (fun k =>
    let r := s.policy k
    u8 r 0 == f.kind && f.kind != 0 && slice r 2 6 == f.pid && (f.kind == 1 || u8 r 1 == f.bus))

/-- The entry of a partner without a record: the one it had, or the highest free one whose record is unused (R191, R199). -/
def State.spareEntry (s : State) (f : Found) : Option Nat :=
  let l := (List.range 64).reverse
  match l.find? (fun k => (s.partner k).st != .empty && (s.partner k).pid == f.pid && (s.partner k).noPolicy) with
  | some k => some k
  | none => l.find? (fun k => u8 (s.policy k) 0 == 0 && (s.partner k).st == .empty)

/-- Steps 4 to 6 of R188: an EID, the message types, attestation. A partner that does not take its EID stays FOUND with the reason of
a request without a response (log 111). -/
def State.joinMctp (s : State) (k : Nat) (eidOk spdm : Bool) : State :=
  match s.freeEid with
  | none => (s.latch 10 4).modPartner k (fun p => { p with summary := bytesOf [b2n eidOk, b2n spdm] })
  | some e =>
    let s := s.ctrlReq k 1 (bytesOf [0, e])
    if !eidOk then s.modPartner k (fun p => { p with reason := if p.noPolicy then 9 else 8, summary := [] })
    else
      let s := (s.modPartner k (fun p => { p with
        eid := e, st := .endpoint, polledAt := s.now, reason := if p.noPolicy then 9 else 0 })).ctrlReq k 5 []
      if spdm then s.attest k false else s.partnerVerdict k 1

/-- The live entry of a partner (R190, R199). -/
def State.entryOfFound (s : State) (f : Found) : Option Nat :=
  (List.range 64).find? (fun k =>
    let p := s.partner k
    p.st.live && p.pid == f.pid && p.isStatic == (f.kind == 2) && (f.kind == 1 || p.bus == f.bus))

/-- A target joins: steps 2 to 6 of R188 (R191, R199). A target that cannot take an address or an entry is left out. -/
def State.discover (s : State) (f : Found) : State :=
  let rec_ := s.policyFor f
  let k? := match rec_ with | some k => some k | none => s.spareEntry f
  let s := match s.entryOfFound f with
    | some k => s.depart k
    | none => s
  let s := match k? with
    | some k => if (s.partner k).st.live then s.depart k else s
    | none => s
  let addr? := if f.kind = 2 then some (u8 f.pid 0) else s.freeAddr f.bus
  match addr? with
  | none => s.latch 10 3
  | some a => match k? with
    | none => ((s.modPar (fun p => { p with strays := p.strays ++ [(f.bus, a)] })).latch 10 3).ev 5 6 .partnerFull [f.bus, a]
    | some k =>
      let s := s.modPartner k (fun p => { partnerReset with
        st := .found, bus := f.bus, addr := a, pid := f.pid, bcr := f.bcr, dcr := f.dcr, noPolicy := rec_.isNone,
        reason := if rec_.isNone then 9 else 0, departures := p.departures, lastTag := p.lastTag, runNo := p.runNo })
      let s := if rec_.isNone then (s.latch 10 5).ev 5 6 .partnerNoPolicy [k] else s
      s.joinMctp k f.eidOk f.spdm

/-- Discovery on an enabled controller port is on. -/
def State.busOn (s : State) (bus : Nat) : Bool := if bus = 0 then s.par.ic0 else bus == 1 && s.par.ic1

/-- The static address that policy record `k` names on a bus (R188, R191). -/
def staticOf (pol : Bytes) (bus : Nat) : Option Nat := if u8 pol 0 = 2 ∧ u8 pol 1 = bus then some (u8 pol 2) else none

/-- The I2C and SMBus partners of a bus (R188 step 3): each static address of a policy record is probed with Get Endpoint ID. -/
def State.probeStatic (s : State) (bus : Nat) (l : List Found) : State :=
  (List.range 64).foldl (fun s k => match staticOf (s.policy k) bus with
    | none => s
    | some a =>
      let s := s.mctpSend bus a 0 0 true (bytesOf [0x80, 2])
      match l.find? (fun f => f.kind == 2 && f.bus == bus && u8 f.pid 0 == a) with
      | some f => s.discover f
      | none => s) s

/-- A discovery run of an enabled port, at entry to HOLDING (R185, R188): RSTDAA and ENEC with hot-join in the first run alone, then
ENTDAA for the I3C targets and the probes of the others. -/
def State.discoverBus (s : State) (bus : Nat) (first : Bool) (l : List Found) : State :=
  if s.busOn bus then
    let s := if first then (s.emit (.i3c bus 0x06)).emit (.i3c bus 0x00) else s
    let s := s.emit (.i3c bus 0x07)
    (((l.filter (fun f => f.bus == bus && f.kind == 1)).foldl (fun s f => s.discover f) s).probeStatic bus l).latch 10 bus
  else s

/-- HOT_JOIN (R188, R199). -/
def execHotJoin (f : Found) (s : State) : Res :=
  let s := s.fresh
  .next (if s.serving ∧ s.busOn f.bus ∧ f.kind = 1 then ((s.latch 10 2).emit (.i3c f.bus 0x07)).discover f else s)

/-- QUARANTINE_EXPIRY (R188, R198): an EID or address is free again; with an EID, the lowest entry that waits for one goes
on. -/
def execQuarantineExpiry (eid : Bool) (bus v : Nat) (s : State) : Res :=
  let s := s.fresh
  .next (if eid then
      if s.par.eidQuar.any (fun q => q.1 == v && q.2 + 20000000 ≤ s.now) then
        let s := s.modPar (fun p => { p with eidQuar := p.eidQuar.filter (fun q => !(q.1 == v && q.2 + 20000000 ≤ s.now)) })
        match (List.range 64).find? (fun k => (s.partner k).st == .found && !(s.partner k).summary.isEmpty) with
        | some k => s.joinMctp k (u8 (s.partner k).summary 0 == 1) (u8 (s.partner k).summary 1 == 1)
        | none => s
      else s
    else s.modPar (fun p => { p with addrQuar := p.addrQuar.filter (fun q =>
      !(q.1 == bus && q.2.1 == v && q.2.2 + 20000000 ≤ s.now)) }))

/-- REATTEST_TIMER (R196): every entry in PASS is attested again, in entry order. -/
def execReattestTimer (s : State) : Res :=
  let s := s.fresh
  let period := s.valU (mkKey 0x3000 0x09) * secFrames
  .next (if !s.serving ∨ period = 0 ∨ s.now < s.par.reattestAt + period then s
    else (List.range 64).foldl (fun s k =>
      if (s.partner k).st = .pass ∧ (s.partner k).step = 0 then s.attest k true else s)
      (s.modPar (fun p => { p with reattestAt := s.now })))

/-- A partner equals a policy record (R190). -/
def Partner.equals (p : Partner) (pol : Bytes) : Bool :=
  u8 pol 0 != 0 && (u8 pol 0 == 2) == p.isStatic && slice pol 2 6 == p.pid && (u8 pol 0 == 1 || u8 pol 1 == p.bus)

/-- The partner that equals record `k` occupies entry `k`: it changes places with what stands there (R190, log 126). -/
def State.bindEntry (s : State) (k : Nat) : State :=
  match (List.range 64).find? (fun j => (s.partner j).st.live && (s.partner j).equals (s.policy k)) with
  | some j =>
    if j = k then s
    else
      let a := s.partner j
      let b := s.partner k
      ((s.dropWhat (fun w => w.forPartner j || w.forPartner k)).modPartner j (fun _ => b)).modPartner k (fun _ => a)
  | none => s

/-- A policy record has been written (R190, R196): entry `k` takes the partner that equals the record, goes back to ENDPOINT, and its
session ends; attestation starts at the next boundary. -/
def State.policyWritten (s : State) (k : Nat) : State :=
  let at0 := s.partner k
  let s := s.bindEntry k
  let s := (List.range 64).foldl (fun s j =>
    let p := s.partner j
    if !p.st.live then s
    else
      let none_ := !p.equals (s.policy j)
      let moved := j == k || (at0.st.live && p.pid == at0.pid && p.bus == at0.bus)
      let s := s.modPartner j (fun p => { p with
        noPolicy := none_, reason := if none_ then 9 else if p.reason = 9 then 0 else p.reason })
      if moved ∧ p.st.polled then (s.stopAttest j).modPartner j (fun p => { p with st := .endpoint, restart := true }) else s) s
  s

/-- At a boundary: attestations that a policy write started, and those that waited for a C0 slot (R195, R196). -/
def State.partnerBoundary (s : State) : State :=
  (List.range 64).foldl (fun s k =>
    let p := s.partner k
    if p.restart then s.attest k false
    else if p.step = 5 ∧ !p.waiting ∧ !p.checking ∧ s.c0Pk then s.toStep k 5 else s) s

/-- The 128 bytes of a partner table entry (R191). -/
def Partner.bytes (p : Partner) : Bytes :=
  let st := match p.st with
    | .empty => 0 | .found => 1 | .endpoint => 2 | .attesting => 3 | .pass => 4 | .fail => 5 | .departed => 6
  bytesOf [st, p.bus, p.addr, p.eid] ++ fit 6 p.pid ++ bytesOf [p.bcr, p.dcr, p.version, p.reason, p.sig, p.hash] ++
    leN 4 p.session ++ leN 2 p.departures ++ zeros 2 ++ leN 8 p.verdictAt ++ fit 48 p.chainDig ++ fit 48 p.measDig

end Sys2Proof.Machine
end

