-- ==== Sys2Proof/Machine/Banks.lean ====
section
/-! DEFINITION. The dictionary banks: which is in force, the entry data and its digest (R437 to R439). -/

namespace Sys2Proof.Machine

open Sys2Proof

/-- The keys of an entry row, in order. -/
def Entry.keys (e : Entry) : List Nat :=
  (List.range (e.ihi + 1 - e.ilo)).flatMap (fun i => (List.range (e.shi + 1 - e.slo)).map (fun k => mkKey (e.ilo + i) (e.slo + k)))

/-- Insert a key in ascending order. -/
def insertKey (k : Nat) : List Nat → List Nat
  | [] => [k]
  | x :: r => if k < x then k :: x :: r else x :: insertKey k r

/-- The keys of the stored entries, in ascending order of index and sub-index (R439). -/
def storedKeys : List Nat := ((entryTable.filter (·.stored)).flatMap Entry.keys).foldl (fun l k => insertKey k l) []

/-- The entry data of a bank (R439). -/
def entryData (vals : List (Nat × Bytes)) : Bytes :=
  storedKeys.flatMap (fun k =>
    let v := (getKey vals k).getD (dfltOf k)
    leN 2 (k / 256) ++ leN 1 (k % 256) ++ zeros 1 ++ leN 4 v.length ++ v)

/-- The header of a bank: magic "DCM1", sequence number, `dict.changes`, length and SHA-384 of the entry data, CRC-32C (R439). A bank is
written whole, so that the checks over it hold (log 116). -/
def DictBank.header (b : DictBank) : Bytes :=
  let d := entryData b.vals
  let h := bytesOf [0x44, 0x43, 0x4D, 0x31] ++ leN 8 b.seq ++ leN 8 b.changes ++ leN 4 d.length ++ sha384 d
  h ++ leN 4 (crc32c h)

/-- Write a snapshot to the bank that is not in force (R438). -/
def Dict.putBank (d : Dict) (vals : List (Nat × Bytes)) : Dict :=
  let r : DictBank := { seq := match d.bank with | some b => b.seq + 1 | none => 0, changes := d.changes, vals := vals }
  match d.bankA, d.bankB with
  | some a, some b => if a.seq < b.seq then { d with bankA := some r } else { d with bankB := some r }
  | some _, none => { d with bankB := some r }
  | none, _ => { d with bankA := some r }

/-- The digest of the bank in force, zero where no bank is valid (R207, R439). -/
def State.bankDigest (s : State) : Bytes := match s.dict.bank with
  | some b => slice b.header 24 48
  | none => zeros 48

/-- `yard.timetable.digest` (R61). -/
def State.timetableDigest (s : State) : Bytes := match s.yard.timetable with
  | some t => sha384 t.image
  | none => zeros 48

end Sys2Proof.Machine
end

