-- ==== Sys2Proof/Machine/Responder.lean ====
section
/-! DEFINITION. The device as MCTP endpoint and SPDM responder (R185 to R187, R201 to R210, R423, R560). Message codes are
those of DSP0274, PRESUMED (log 8). -/

namespace Sys2Proof.Machine

open Sys2Proof

/-! ### MCTP on IC2, IC3 and PCIe -/

/-- The port takes traffic: the link trained for PCIe, a powered state for the others (R64, R185). -/
def State.endpointOn (s : State) (bus : Nat) : Bool := s.serving && (isTarget bus || (bus == 4 && s.pwr.link))

/-- SET_ENDPOINT_ID (R187): one EID per bus; bus 4 is PCIe. -/
def execSetEndpointId (bus eid : Nat) (s : State) : Res :=
  let s := s.fresh
  .next (if !s.endpointOn bus ∨ eid < 8 ∨ 0xFE < eid then s
    else
      let s := s.modPar (fun p =>
        if bus = 2 then { p with eidIc2 := eid } else if bus = 3 then { p with eidIc3 := eid } else { p with eidPcie := eid })
      s.mctpAnswer bus 0 (bytesOf [0, 1, 0, eid]))

/-- Set the dynamic address of a target port, or clear it; leaf 15 latches (R186, R514). -/
def State.setDyn (s : State) (bus : Nat) (a : Option Nat) : State :=
  (s.modPar (fun p => if bus = 2 then { p with dyn2 := a } else { p with dyn3 := a })).latch 10 15

/-- DYNAMIC_ADDRESS_ASSIGNMENT (R186): ENTDAA or SETDASA. -/
def execDynamicAddressAssignment (bus addr : Nat) (s : State) : Res :=
  let s := s.fresh
  .next (if s.core.op.powered ∧ isTarget bus ∧ addr < 128 then s.setDyn bus (some addr) else s)

/-- RSTDAA (R186): the port answers at its static address again. -/
def execRstdaa (bus : Nat) (s : State) : Res :=
  let s := s.fresh
  .next (if s.core.op.powered ∧ isTarget bus then s.setDyn bus none else s)

/-- ENTHDR (R185): the command and the transfers up to the HDR exit pattern are ignored. -/
def execEnthdr (_bus _transfers : Nat) (s : State) : Res :=
  .next s.fresh

/-- MCTP message types that the device takes (R187, R422). -/
def mctpKnown (t : Nat) : Bool := t == 0 || t == 1 || t == 5 || t == 6 || t == 0x7E

/-- The PLDM commands that the device takes as requests (R177). -/
def pldmKnown (c : Nat) : Bool := [0x01, 0x02, 0x10, 0x13, 0x14, 0x1A, 0x1B, 0x1C, 0x1D].contains c

/-- The transport bit of R184 for a bus. -/
def busTransport (bus : Nat) : Nat := if bus = 4 then 0 else if bus < 2 then bus + 3 else bus - 1

/-- MCTP_CONTROL_REQUEST (R187): answered at EID 0x00 before an assignment. The row also carries what no other row does: a message of
an unknown type is discarded and counted, so is one from quarantine (R198), and a PLDM command that the device does not support is
answered with ERROR_UNSUPPORTED_PLDM_CMD (R177). -/
def execMctpControlRequest (m : MctpFrom) (eid cmd typ : Nat) (s : State) : Res :=
  let s := s.fresh
  .next (if m.bus < 2 ∧ s.serving ∧ s.busOn m.bus then
      if s.eidQuarantined m.src ∨ s.addrQuarantined m.bus m.addr ∨ !mctpKnown typ then s.lateMctp
      else if typ = 1 ∧ !pldmKnown cmd then s.pldmReply (busTransport m.bus) cmd 0x05 []
      else s
    else if !s.endpointOn m.bus then s
    else if !mctpKnown typ then s.lateMctp
    else if eid ≠ 0 ∧ eid ≠ s.ownEid m.bus then s
    else if typ = 1 ∧ !pldmKnown cmd then s.pldmReply (busTransport m.bus) cmd 0x05 []
    else if typ ≠ 0 then s
    else s.mctpAnswer m.bus m.src (bytesOf [0, cmd, 0, s.ownEid m.bus]))

/-- SMBUS_TIMEOUT (R560): in SMBus mode, which is without a dynamic address, the transaction is discarded. -/
def execSmbusTimeout (bus : Nat) (s : State) : Res :=
  let s := s.fresh
  .next (if s.core.op.powered ∧ isTarget bus ∧ s.dynAddr bus = none then s.emit .discard else s)

/-! ### Certificates and measurements -/

/-- Stage 1 issues the Alias certificate of this start, signed by the DeviceID key (R204): its encoding is X.509's; this spec fixes
what goes into it. -/
def State.issueAlias (s : State) : State :=
  let body := Config.message 0x5039 [s.fuse.serial.toNat, s.boot.svn, b2n (s.lc.epoch != 0)]
    (Config.publicOf 0x11 s.aliasKey ++ s.boot.bodyDigest)
  let d := s.draw 48
  d.2.modPar (fun p => { p with aliasCert := body ++ fit 96 (Config.sigMake 0x11 s.deviceKey body 0 d.1) })

/-- The chain in a certificate slot (R205). -/
def State.certChain (s : State) (slot : Nat) : Option Bytes :=
  if slot = 0 then (if 2 ≤ s.lcCode then some (Config.certSlot0 s.boot.sId ++ s.par.aliasCert) else none)
  else if slot = 1 then
    let o := s.val (mkKey 0x3300 0x01)
    if o.isEmpty ∨ s.lcCode = 4 ∨ s.lcCode = 5 then none else some (o ++ s.par.aliasCert)
  else none

/-- The debug epoch that block 4 reports: one opened in this frame shows from the next boundary (R477). -/
def State.epochShown (s : State) : Nat := s.lc.epoch - b2n (s.lc.scopesDue != 0)

/-- A measurement block: index, DMTF type with bit 7 for a raw value, value. -/
def measBlock (i t : Nat) (raw : Bool) (v : Bytes) : Nat × Bytes :=
  (i, bytesOf [i, 1] ++ leN 2 (v.length + 3) ++ bytesOf [t + 128 * b2n raw] ++ leN 2 v.length ++ v)

/-- The measurement blocks of R207, in index order. -/
def State.measBlocks (s : State) : List (Nat × Bytes) :=
  let fixed := [
    measBlock 1 0 true (leN 4 0x00010000),
    measBlock 2 1 false s.boot.bodyDigest,
    measBlock 3 7 true (bytesOf [s.boot.svn, s.boot.floor, s.boot.path, b2n s.boot.slotB] ++ leN 4 s.boot.release),
    measBlock 4 3 true (leN 1 s.lcCode ++ zeros 3 ++ leN 4 s.epochShown),
    measBlock 5 3 false s.timetableDigest,
    measBlock 6 3 false s.bankDigest]
  let ports := List.range 4
  let man := ports.filter (fun n => (s.port n).mode == .manifest && (s.port n).serving.isSome)
  let dig := ports.filterMap (fun n => match (s.port n).mode with
    | .measure => (s.port n).measDigest.map (fun d => measBlock (16 + n) 1 false d)
    | .manifest => if man.contains n then some (measBlock (16 + n) 1 false (sha384 (s.served n))) else none
    | .off => none)
  fixed ++ dig ++
    man.map (fun n => measBlock (20 + n) 4 true ((manRegions (s.served n)).flatMap (·.digest))) ++
    man.map (fun n => measBlock (24 + n) 6 true (leN 2 (manVersion (s.served n)) ++
      bytesOf [match (s.port n).serving with | some .b => 1 | some .r => 2 | _ => 0, b2n (s.port n).trialServed]))

/-- The blocks take the values of a frame boundary; a change counts (R208). -/
def State.snapBlocks (s : State) : State :=
  let b := s.measBlocks
  s.modPar (fun p => { p with blocks := b, measSerial := p.measSerial + b2n (b != p.blocks) })

/-- The summary hash of CHALLENGE_AUTH (R207): blocks 1 to 4, or every block. -/
def State.measSummary (s : State) (all : Bool) : Bytes :=
  sha384 ((s.par.blocks.filter (fun b => all || b.1 ≤ 4)).flatMap (·.2))

/-! ### The responder -/

/-- A request in the PF mailbox is discarded: `RESP_VALID` stays 0 (R424). -/
def State.mboxDiscard (s : State) : State := s.modDmb (fun d => { d with busy := false })

/-- SPDM is answered on a transport (R201, R424): the bits of R211, and 5 for the PF mailbox while its request is pending. -/
def State.spdmOn (s : State) (t : Nat) : Bool :=
  s.serving && (if t = 5 then s.pwr.link && s.dmb.busy && (s.valU (mkKey 0xA000 0x01)).testBit 3
    else (s.valU (mkKey 0x3000 0x0A)).testBit t &&
      (if t = 0 then s.pwr.link else if t = 3 then s.par.ic0 else if t = 4 then s.par.ic1 else t < 3))

/-- Send a response: code, payload (R186, R201). -/
def State.spdmReply (s : State) (t peer code : Nat) (p : Bytes) : State :=
  let s := (s.emit (.spdm t peer code p)).inBand (if t < 5 then transportBus t else 5)
  if t = 5 then s.mboxAnswer (bytesOf [5, 0x12, code] ++ p) else s

/-- An ERROR response. -/
def State.spdmErr (s : State) (q : SpdmReq) (e : Nat) (data : Bytes) : State := s.spdmReply q.transport q.peer 0x7F (bytesOf [e] ++ data)

/-- The connection with a requester. -/
def State.conn? (s : State) (t peer : Nat) : Option SpdmConn :=
  s.par.conns.find? (fun c => c.transport == t && c.peer == peer)

/-- Put a connection. -/
def State.putConn (s : State) (c : SpdmConn) : State :=
  s.modPar (fun p => { p with conns := p.conns.filter (fun x => !(x.transport == c.transport && x.peer == c.peer)) ++ [c] })

/-- A message that the responder takes (R198, R201, R424): `none` where it does not, with what becomes of it. -/
def State.spdmTakes (s : State) (q : SpdmReq) : Option State :=
  if !s.spdmOn q.transport then some s else if s.fromQuarantine q.transport q.peer then some s.lateMctp else none

/-- The requester has a request outstanding (R201). -/
def State.spdmBusy (s : State) (q : SpdmReq) : Bool := match s.conn? q.transport q.peer with
  | some c => c.owed.isSome
  | none => false

/-- A request that needs a connection at a stage: one outstanding, invalid, out of sequence, another version (R201). -/
def State.spdmReq (s : State) (q : SpdmReq) (lo hi : Nat) (f : State → SpdmConn → State) : Res :=
  let s := s.fresh
  .next (match s.spdmTakes q with
    | some t => t
    | none =>
      if s.spdmBusy q then s.spdmErr q 0x03 []
      else if !q.valid then s.spdmErr q 0x01 []
      else match s.conn? q.transport q.peer with
        | none => s.spdmErr q 0x04 []
        | some c =>
          if c.stage < lo ∨ hi < c.stage then s.spdmErr q 0x04 []
          else if 2 ≤ c.stage ∧ q.version ≠ c.version then s.spdmErr q 0x41 []
          else f (s.putConn { c with transcript := c.transcript ++ q.payload }) { c with transcript := c.transcript ++ q.payload })

/-- GET_VERSION (R201): the connection starts again. -/
def execGetVersion (q : SpdmReq) (s : State) : Res :=
  let s := s.fresh
  .next (match s.spdmTakes q with
    | some t => t
    | none =>
      if s.spdmBusy q then s.spdmErr q 0x03 []
      else if !q.valid then s.spdmErr q 0x01 []
      else
        let c : SpdmConn := { transport := q.transport, peer := q.peer, version := 0, stage := 1, owed := none,
                              transcript := q.payload, measFrom := none }
        (s.putConn c).spdmReply q.transport q.peer 0x04 (bytesOf [0x12, 0x13]))

/-- The capability flags of R201 in DSP0274's places: CERT, CHAL, MEAS with signature, MEAS_FRESH, ENCRYPT, MAC, KEY_EX, HBEAT, KEY_UPD
(log 8). -/
def spdmCaps : Nat := 2 ^ 1 + 2 ^ 2 + 2 ^ 4 + 2 ^ 5 + 2 ^ 6 + 2 ^ 7 + 2 ^ 9 + 2 ^ 13 + 2 ^ 14

/-- The selected algorithms of R201 in DSP0274's places: DMTF measurements, SHA-384, ECDSA P-384, SHA-384, secp384r1, AES-256-GCM and the
SPDM key schedule (log 8). -/
def spdmAlgs : Bytes := leN 1 1 ++ leN 4 4 ++ leN 4 0x80 ++ leN 4 2 ++ leN 2 0x10 ++ leN 2 2 ++ leN 2 1

/-- GET_CAPABILITIES (R201): CTExponent 12, the capability flags, a version of 1.2 or 1.3. -/
def execGetCapabilities (q : SpdmReq) (s : State) : Res :=
  s.spdmReq q 1 1 (fun s c =>
    if q.version ≠ 0x12 ∧ q.version ≠ 0x13 then s.spdmErr q 0x41 []
    else (s.putConn { c with version := q.version, stage := 2 }).spdmReply q.transport q.peer 0x61
      (bytesOf [q.version, 12] ++ leN 4 spdmCaps))

/-- NEGOTIATE_ALGORITHMS (R201): the selected algorithms, or InvalidRequest. -/
def execNegotiateAlgorithms (q : SpdmReq) (common : Bool) (s : State) : Res :=
  s.spdmReq q 2 2 (fun s c =>
    if common then (s.putConn { c with stage := 3 }).spdmReply q.transport q.peer 0x63 spdmAlgs else s.spdmErr q 0x01 [])

/-- GET_DIGESTS (R205): absent slots are omitted. -/
def execGetDigests (q : SpdmReq) (s : State) : Res :=
  s.spdmReq q 3 3 (fun s _ =>
    let l := (List.range 2).filterMap s.certChain
    s.spdmReply q.transport q.peer 0x01 (l.flatMap sha384))

/-- GET_CERTIFICATE (R205). -/
def execGetCertificate (q : SpdmReq) (slot off len : Nat) (s : State) : Res :=
  s.spdmReq q 3 3 (fun s _ => match s.certChain slot with
    | none => s.spdmErr q 0x01 []
    | some b =>
      if b.length ≤ off ∨ len = 0 then s.spdmErr q 0x01 []
      else
        let p := slice b off len
        s.spdmReply q.transport q.peer 0x02 (leN 2 p.length ++ leN 2 (b.length - off - p.length) ++ p))

/-- A signature by the Alias key (R202, R203, R307). -/
def State.aliasSign (s : State) (m : Bytes) : Bytes × State :=
  let d := s.draw 48
  (fit 96 (Config.sigMake 0x11 s.aliasKey m 0 d.1), d.2)

/-- The measurement record for an index (R207): 0 the number of blocks, 0xFF all of them; from one snapshot (R208). -/
def State.measRecord (s : State) (index : Nat) : Option Bytes :=
  if index = 0 then some (leN 1 s.par.blocks.length)
  else if index = 0xFF then some (s.par.blocks.flatMap (·.2))
  else (getKey s.par.blocks index)

/-- SPDM 1.3 reports that a block changed after the first GET_MEASUREMENTS of the transcript (R208). -/
def State.measNote (s : State) (c : SpdmConn) : Nat :=
  if c.version = 0x13 then (match c.measFrom with | some n => b2n (n != s.par.measSerial) | none => 0) else 0

/-- KEY_EXCHANGE_RSP (R202, R209, R210): the device's half of the session ID is drawn, its ephemeral key and its signature follow. At
most 8 sessions are held. -/
def State.keyExchangeReply (s : State) (c : SpdmConn) (o : Owed) : State :=
  let q : SpdmReq := { transport := c.transport, peer := c.peer, version := c.version, valid := true, payload := o.payload }
  if 8 ≤ s.par.sessions.length then ((s.putConn { c with owed := none }).latch 10 11).spdmErr q 0x0A []
  else
    let chain := (s.certChain o.a).getD []
    let r := s.freshId 2 s.halfBarred s.halfBars
    let id := uLE o.payload 0 2 + r.1 * 65536
    let d := r.2.draw 48
    let pub := Config.publicOf 0x11 d.1
    let g := d.2.aliasSign (c.transcript ++ leN 4 id ++ pub)
    let x : SpdmSess := { id := id, transport := c.transport, peer := c.peer, chainDig := sha384 chain, established := false,
                          lastAt := s.now, th2 := [], keyEpoch := 0 }
    let s := g.2.modPar (fun p => { p with sessions := p.sessions ++ [x] })
    (s.putConn { c with owed := none }).spdmReply c.transport c.peer 0x64 (leN 4 id ++ pub ++ g.1)

/-- A signed response that a connection owes: CHALLENGE_AUTH 3, MEASUREMENTS 0x60, KEY_EXCHANGE_RSP 0x64 (R202). -/
def State.signedReply (s : State) (c : SpdmConn) (o : Owed) : State :=
  if o.code = 0x64 then s.keyExchangeReply c o
  else
    let chain := (s.certChain (if o.code = 3 then o.a else 0)).getD []
    let body := if o.code = 3 then
        sha384 chain ++ (if o.b = 1 then s.measSummary false else if o.b = 0xFF then s.measSummary true else [])
      else bytesOf [o.a, s.measNote c] ++ (s.measRecord o.a).getD []
    let g := s.aliasSign (c.transcript ++ body)
    (g.2.putConn { c with owed := none }).spdmReply c.transport c.peer o.code (body ++ g.1)

/-- ERROR ResponseNotReady with RDTExponent 12 (R202). -/
def State.notReady (s : State) (c : SpdmConn) (o : Owed) : State :=
  ((s.putConn { c with owed := some { o with told := true } }).latch 10 10).spdmReply c.transport c.peer 0x7F
    (bytesOf [0x42, 12, o.code])

/-- A response that needs a signature: a C0 signing programme of 36 frames, and for KEY_EXCHANGE_RSP an ECDH programme of 70, are queued.
Without a C0 slot on a PK pair it is ResponseNotReady at once (R202). -/
def State.signOwed (s : State) (q : SpdmReq) (c : SpdmConn) (code a b : Nat) : State :=
  let o : Owed := { code := code, a := a, b := b, payload := q.payload, askedAt := s.now,
                    left := if code = 0x64 then 2 else 1, told := false }
  let job := fun (s : State) n => s.addDev (.pair false false n (.sign q.transport q.peer))
  let s := job (s.putConn { c with owed := some o }) 36
  let s := if code = 0x64 then job s 70 else s
  if s.c0Pk then s else s.notReady c o

/-- A C0 programme of a signed response has ended: after the last one the response leaves, or waits for RESPOND_IF_READY (R202). -/
def State.signDone (s : State) (t peer : Nat) : State :=
  match s.conn? t peer with
  | none => s
  | some c => match c.owed with
    | none => s
    | some o =>
      let o := { o with left := o.left - 1 }
      let s := s.putConn { c with owed := some o }
      if o.left = 0 ∧ !o.told then s.signedReply { c with owed := some o } o else s

/-- A signed response that has not left within 4,096 us (R202). -/
def State.signLate (s : State) : State :=
  s.par.conns.foldl (fun s c => match c.owed with
    | some o => if !o.told ∧ o.askedAt + 8192 ≤ s.now then s.notReady c o else s
    | none => s) s

/-- CHALLENGE (R202, R205, R207). -/
def execChallenge (q : SpdmReq) (slot summary : Nat) (s : State) : Res :=
  s.spdmReq q 3 3 (fun s c =>
    if (s.certChain slot).isNone ∨ (summary ≠ 0 ∧ summary ≠ 1 ∧ summary ≠ 0xFF) then s.spdmErr q 0x01 []
    else s.signOwed q c 3 slot summary)

/-- GET_MEASUREMENTS (R207, R208). -/
def execGetMeasurements (q : SpdmReq) (index : Nat) (sign : Bool) (s : State) : Res :=
  s.spdmReq q 3 3 (fun s c =>
    let c := { c with measFrom := some (c.measFrom.getD s.par.measSerial) }
    let s := s.putConn c
    match s.measRecord index with
    | none => s.spdmErr q 0x01 []
    | some r =>
      if sign then s.signOwed q c 0x60 index 0
      else s.spdmReply q.transport q.peer 0x60 (bytesOf [index, s.measNote c] ++ r))

/-- KEY_EXCHANGE (R209): at most 8 sessions. -/
def execKeyExchange (q : SpdmReq) (slot : Nat) (s : State) : Res :=
  s.spdmReq q 3 3 (fun s c =>
    if (s.certChain slot).isNone then s.spdmErr q 0x01 []
    else if 8 ≤ s.par.sessions.length then (s.latch 10 11).spdmErr q 0x0A []
    else s.signOwed q c 0x64 slot 0)

/-- RESPOND_IF_READY (R202): completes a response for which ResponseNotReady was sent. -/
def execRespondIfReady (q : SpdmReq) (s : State) : Res :=
  let s := s.fresh
  .next (match s.spdmTakes q with
    | some t => t
    | none => match (s.conn? q.transport q.peer).bind (fun c => c.owed.map (fun o => (c, o))) with
      | none => s.spdmErr q 0x04 []
      | some (c, o) =>
        if !o.told then s.spdmErr q 0x03 []
        else if !q.valid then s.spdmErr q 0x01 []
        else if q.version ≠ c.version then s.spdmErr q 0x41 []
        else if o.left = 0 then s.signedReply c o
        else s.notReady c o)

/-- UNSUPPORTED_SPDM_REQUEST (R201). -/
def execUnsupportedSpdmRequest (q : SpdmReq) (_code : Nat) (s : State) : Res :=
  let s := s.fresh
  .next (match s.spdmTakes q with
    | some t => t
    | none => if s.spdmBusy q then s.spdmErr q 0x03 [] else s.spdmErr q 0x07 [])

/-- The live session of a peer with an ID (R210). -/
def State.spdmSess? (s : State) (q : SpdmReq) (sid : Nat) : Option SpdmSess :=
  s.par.sessions.find? (fun x => x.id == sid && x.transport == q.transport && x.peer == q.peer)

/-- Change a responder session. -/
def State.modSpdm (s : State) (sid : Nat) (f : SpdmSess → SpdmSess) : State :=
  s.modPar (fun p => { p with sessions := p.sessions.map (fun x => if x.id == sid then f x else x) })

/-- A secured message is discarded and counted (R210). -/
def State.deadSpdm (s : State) (q : SpdmReq) : State :=
  let s := (s.modPar (fun p => { p with dead := p.dead + 1 })).latch 10 13
  if q.transport = 5 then s.mboxDiscard else s

/-- A message in a session: a dead one is discarded; traffic keeps the session alive (R209, R210). -/
def State.spdmIn (s : State) (q : SpdmReq) (sid : Nat) (f : State → SpdmSess → State) : Res :=
  let s := s.fresh
  .next (match s.spdmTakes q with
    | some t => t
    | none => match s.spdmSess? q sid with
      | none => s.deadSpdm q
      | some x => f (s.modSpdm sid (fun x => { x with lastAt := s.now })) x)

/-- A request in a session: one outstanding, or of another version than the connection's (R201). -/
def State.spdmInReq (s : State) (q : SpdmReq) (sid : Nat) (f : State → SpdmSess → State) : Res :=
  s.spdmIn q sid (fun s x =>
    if s.spdmBusy q then s.spdmErr q 0x03 []
    else if (match s.conn? q.transport q.peer with | some c => c.version != q.version | none => false) then s.spdmErr q 0x41 []
    else f s x)

/-- FINISH (R209): the session is established, and its transcript hash TH2 is fixed; a failing HMAC ends it. -/
def execFinish (q : SpdmReq) (sid : Nat) (hmacOk : Bool) (s : State) : Res :=
  s.spdmInReq q sid (fun s x =>
    if x.established then s.spdmErr q 0x04 []
    else if !hmacOk then (s.spdmErr q 0x06 []).endSpdm x
    else
      let t := (s.conn? q.transport q.peer).map (·.transcript)
      let s := s.modSpdm sid (fun x => { x with established := true,
                                                th2 := fit 48 (Config.message 0xE5 [sid] (t.getD [] ++ q.payload)) })
      (s.spdmReply q.transport q.peer 0x65 []).ev 5 6 .spdmSessionOpened [sid])

/-- HEARTBEAT (R209). -/
def execHeartbeat (q : SpdmReq) (sid : Nat) (s : State) : Res :=
  s.spdmInReq q sid (fun s x =>
    if x.established then s.spdmReply q.transport q.peer 0x68 [] else s.spdmErr q 0x04 [])

/-- KEY_UPDATE (R210): operations 1 and 2 update keys, 3 verifies them. -/
def execKeyUpdate (q : SpdmReq) (sid op : Nat) (s : State) : Res :=
  s.spdmInReq q sid (fun s x =>
    if !x.established then s.spdmErr q 0x04 []
    else if op = 0 ∨ 3 < op then s.spdmErr q 0x01 []
    else (s.modSpdm sid (fun x => { x with keyEpoch := if op = 3 then x.keyEpoch else x.keyEpoch + 1 })).spdmReply
      q.transport q.peer 0x69 (bytesOf [op]))

/-- SECURED_MESSAGE (R210): its content reaches the protocol it carries, which has commands of its own; a decryption failure
is answered with DecryptError and ends the session. -/
def execSecuredMessage (q : SpdmReq) (sid : Nat) (aeadOk : Bool) (s : State) : Res :=
  s.spdmIn q sid (fun s x => if aeadOk then s else ((s.spdmErr q 0x06 []).endSpdm x).latch 10 12)

/-- SESSION_HEARTBEAT_TIMEOUT (R209): two periods of 60 s without traffic, on a responder's or a requester's session. -/
def execSessionHeartbeatTimeout (sid : Nat) (s : State) : Res :=
  let s := s.fresh
  .next (match s.par.sessions.find? (·.id == sid) with
    | none => match (List.range 64).find? (fun k => sid != 0 && (s.partner k).session == sid) with
      | some k => if s.serving = false ∨ s.now < (s.partner k).sessAt + 120 * secFrames then s else (s.endOwnSession k).latch 10 12
      | none => s
    | some x => if s.serving = false ∨ s.now < x.lastAt + 120 * secFrames then s else (s.endSpdm x).latch 10 12)

/-- CLIENT_HELLO (R423): at most 8 connections per port, and a handshake_failure alert where none of the offers is
allowed. -/
def execClientHello (port conn : Nat) (acceptable : Bool) (s : State) : Res :=
  let s := s.fresh
  .next (if !s.serving ∨ 1 < port ∨ s.valU (mkKey (0xA010 + port) 0x01) ≠ 1 then s
    else if 8 ≤ (s.dict.conns.filter (·.port == port)).length then (s.emit .discard).latch 22 11
    else if !acceptable then s.emit (.dtls port 40)
    else if s.dict.conns.any (fun c => c.port == port && c.id == conn) then s.emit .discard
    else (s.modDict (fun d => { d with conns := d.conns ++ [{ port := port, id := conn, lastAt := s.now }] })).emit (.dtls port 2))

end Sys2Proof.Machine
end

