-- ==== Sys2Proof/Machine/Sleep.lean ====
section
/-! DEFINITION. Power domains, the PCIe link and deep sleep (R60, R521, R536 to R539, R543 to R547). -/

namespace Sys2Proof.Machine

open Sys2Proof

/-! ### Power domains -/

/-- `yard.const_activity` is ON (R59). -/
def State.constAct (s : State) : Bool := s.valU (mkKey 0x6002 0x01) == 1

/-- A row of the sheet that a due switch makes active is C6 at every position (R539). -/
def State.dueRowIdle (s : State) (n lane : Nat) : Bool :=
  match sheetIn s.yard.timetable n with
  | some x => (List.range x.len).all (fun p => u8 x.body (2 * (lane * x.len + p)) == 6)
  | none => false

/-- A lane's domain is to be gated: idle in the active sheet and in the one that is due, or disabled with no pair check
waiting; never with constant activity (R537, R539). -/
def State.laneGates (s : State) (lane : Nat) : Bool :=
  let l := s.lane lane
  !s.constAct &&
    ((s.rowIdle s.yard.sheet lane && (match s.nextSheet with | some n => s.dueRowIdle n lane | none => true)) ||
     (l.disabled && !s.devJobs.any (fun d => d.what == .pairCheck lane)))

/-- End of the Shed space that the ports use, and of their tag space (R156). -/
def State.shedEnd (s : State) : Nat :=
  (List.range 4).foldl (fun a n => if (s.port n).mode = .manifest ∧ 0 < s.shedReq n then max a ((s.port n).shedBase + s.shedReq n) else a) 0

/-- End of the tag space that the ports use, in tags. -/
def State.tagEnd (s : State) : Nat :=
  (List.range 4).foldl (fun a n => if (s.port n).mode = .manifest ∧ 0 < s.tagReq n then max a ((s.port n).tagBase + s.tagReq n) else a) 0

/-- A device-firmware transfer of R91 runs. -/
def State.fwTransfer (s : State) : Bool :=
  s.pldm.component == 0x7100 && (s.pldm.st == .download || s.pldm.st == .verify || s.pldm.st == .apply)

/-- A domain that is no lane is to be gated in a powered state (R536). -/
def State.domainGates (s : State) (d : Nat) : Bool :=
  if d < 92 then false
  else if 93 ≤ d ∧ d < 96 then !s.boot.coreRelease.getLsbD (d - 93)
  else if 112 ≤ d ∧ d < 128 then s.shedEnd ≤ (d - 112) * 4194304
  else if 128 ≤ d ∧ d < 132 then 16 * s.tagEnd ≤ (d - 128) * 8388608
  else if 132 ≤ d ∧ d < 136 then (s.port (d - 132)).mode == .off
  else if d = 138 then s.valU (mkKey 0xA010 0x01) == 0
  else if d = 139 then s.valU (mkKey 0xA011 0x01) == 0
  else if d = 140 ∨ d = 141 then s.valU (mkKey 0x9000 0x03) == 0
  else if d = 146 then !s.fwTransfer
  else false

/-- Gating and waking at a boundary (R537 to R539): a lane gates once it is free; a wake takes 24 frames. -/
def State.domainsBoundary (s : State) : State :=
  let waking := s.pwr.waking.filter (fun w => s.now < w.2 + 24)
  let lane := fun (d : Nat) => 4 ≤ d && d < 92
  let want := (List.range 152).map (fun d => if lane d then s.laneGates d else s.domainGates d)
  let gates := fun (d : Nat) => want.getD d false
  let free := fun (d : Nat) => !lane d || ((s.lane d).job.isNone && (s.lane d).zero == 0)
  let stays := fun (d : Nat) => s.pwr.gated.getLsbD d
  let begins := (List.range 152).filter (fun d => stays d && !gates d)
  let gated := (List.range 152).filter (fun d => gates d && (stays d || free d))
  s.modPwr (fun p => { p with
    gated := gated.foldl (fun m d => setBit m d) 0,
    waking := waking.filter (fun w => !gated.contains w.1) ++ begins.map (fun d => (d, s.now)) })

/-- DOMAIN_WAKE_END (R538): the 24th frame of a wake ends. -/
def execDomainWakeEnd (d : Nat) (s : State) : Res :=
  let s := s.fresh
  .next (s.modPwr (fun p => { p with waking := p.waking.filter (fun w => !(w.1 == d && w.2 + 23 ≤ s.now)) }))

/-! ### The PCIe link -/

/-- The link goes down: paddocks reset, and the PF sees a link-down (R387, R521, R524, R525). -/
def State.dropLink (s : State) : State :=
  if s.pwr.link then s.hotReset.modPwr (fun p => { p with link := false }) else s

/-- PERST_N_CHANGE (R545, R547): the link stays down while PERST_N is low; it trains once PERST_N is high and the device has
reached HOLDING. In DEEP_SLEEP a rise wakes where it is a wake source. -/
def execPerstNChange (high : Bool) (s : State) : Res :=
  let s := s.fresh
  .next (
    let rise := high && !s.pwr.perst
    let s := s.modPwr (fun p => { p with perst := high })
    if !high then s.dropLink
    else if s.core.op.powered then s.modPwr (fun p => { p with link := true })
    else if s.core.op = .deepSleep ∧ rise ∧ s.wakeEnabled .perst 0 = true then s.wakeEvent .perst
    else s)

/-! ### Deep sleep -/

/-- The checks of a sleep request in the order of R543, but for the Logbook's: 0 or the failing status. -/
def State.sleepCheck (s : State) : Nat :=
  if (s.core.op ≠ .holding ∧ s.core.op ≠ .running) ∨ s.haltLatched then stHeld
  else if s.scopeOpen ∨ s.lcMark.isSome then stLifecycle
  else if s.cas.role ≠ .standalone ∨ s.pads.any (fun q => q.ring.any (fun r => r.outstanding != 0)) ∨
      s.ports.any (fun p => p.phase == .verify || p.phase == .update) ∨ s.pldm.target.isSome then stRange
  else 0

/-- The sleep command takes effect at the boundary after its entry (R544); an alarm wins, and the refusal is logged (R22).
Work that runs aborts without completion; the paddocks reset with the link (log 131). -/
def State.enterSleep (s : State) : State :=
  if !s.pwr.sleepReq then s
  else
    let s := s.modPwr (fun p => { p with sleepReq := false })
    if s.core.op ≠ .holding ∧ s.core.op ≠ .running then s.ev 10 8 .sleepRefused [s.core.op.code]
    else
      let s := s.dropLink
      let s := (List.range 4).foldl (fun s n => s.toHold n) s
      let s := (s.modJobs (fun _ => [])).modDevJobs (fun _ => [])
      let s := s.modYard (fun y => { y with lanes := y.lanes.map (fun l => { l.empty with zero := 0 }) })
      let s := s.modLog (fun l => { l with signing := none })
      let s := s.modSup (fun u => { u with hold := false, crossing := false, abortDue := false })
      let s := s.modCas (fun c => { c with fwd := false })
      (s.setOp .deepSleep).modPwr (fun p => { p with sleepAt := some s.now, poweredDown := false })

/-- The domains that hold no power in DEEP_SLEEP (R536). -/
def sleepGated : BitVec 152 :=
  (List.range 152).foldl (fun m d => if (96 ≤ d ∧ d < 100) ∨ 150 ≤ d then m else setBit m d) 0

/-- The power-down ends: the boot key and the wake record are in place (log 90), retention SRAM keeps a RETAIN image (R73), and a wake
that came meanwhile acts (R544, R546, text before R95). -/
def State.finishSleep (s : State) : State :=
  let d := s.draw 32
  let s := d.2
  let w : WakeRec :=
    { bodyDigest := s.boot.bodyDigest, slotB := s.boot.slotB, svn := s.boot.svn,
      ledgerSeq := match s.ledger with | some l => l.seq.toNat | none => 0, mac := [], byCommand := true,
      retained := s.boot.retain && !s.boot.trial && s.boot.path != 2, lcCode := s.lcCode, keyIndex := s.boot.keyIndex,
      release := s.boot.release }
  let s := s.modTack (fun t => { t with bootKey := if t.drbgOk then some d.1 else none })
  let s := s.modPwr (fun p => { p with
    wakeRec := some { w with mac := wakeMac d.1 w }, sramKept := true, sram := if s.boot.retain then p.sram else none, poweredDown := true, gated := sleepGated,
    waking := [] })
  match s.pwr.wakeLatched with
  | some x => s.wakeNow x
  | none => s

/-- A frame of the power-down passes (R544). -/
def State.sleepFrame (s : State) : State :=
  match s.pwr.sleepAt with
  | some f => if !s.pwr.poweredDown ∧ f + 20000 ≤ s.now then s.finishSleep else s
  | none => s

end Sys2Proof.Machine
end

