-- ==== Sys2Proof/Machine/Cascade.lean ====
section
/-! DEFINITION. The Cucen Link: formation, joins, keys, replicas, forwarded jobs, loss of members and of the master
(R396 to R413). -/

namespace Sys2Proof.Machine

open Sys2Proof

/-! ### Formation -/

/-- A device that joins a master: the cascade enabled, and neither CASCADE_ID 0 nor an acting master (R399, R401). -/
def State.joins (s : State) : Bool :=
  s.bankU (mkKey 0x9000 0x03) == 1 && s.pwr.cascadeId != 0 && s.bankU (mkKey 0x9000 0x0A) == 0

/-- Formation may run: in BOOTING, after the Tack Room has been built, once (R401). -/
def State.forming (s : State) : Bool :=
  s.core.op == .booting && s.boot.tackBuilt && s.joins && !s.cas.formDone && !s.sup.hold

/-- Both keys of a link (R402): bytes 0 to 63 of T1 and T2. -/
def linkKeysOf (secret transcript : Bytes) : Bytes :=
  let t := fun (i : Nat) => hmac384 secret (leN 1 i ++ ascii "EV7100-CUCEN" ++ transcript)
  (t 1 ++ t 2).take 64

/-- The link to a peer is keyed (R402). -/
def State.keyLink (s : State) (peer : Nat) (secret transcript : Bytes) : State :=
  s.modCas (fun c => { c with links := c.links.filter (fun l => l.peer != peer) ++
    [{ peer := peer, keys := linkKeysOf secret transcript, msgs := 0, keyedAt := s.now }] })

/-- Formation has failed at a step, 0 for the timeout: the device runs standalone (R401). -/
def State.formFails (s : State) (step : Nat) : State :=
  ((s.modCas (fun c => { c with formDone := true, role := .standalone, cl0 := false })).latch 21 10).ev 9 9 .formFailed [step]

/-- A link is refused (R396, R401, R413). -/
def State.refuseLink (s : State) (facts : List Nat) : State := (s.latch 21 11).ev 9 9 .linkRefused facts

/-- What the two sides compare at step 3 (R401): the peer's DeviceID key, both life-cycle states, body and Timetable digests. -/
def State.peerFits (s : State) (members : Bytes) (d : Nat) (p : PeerFacts) : Bool :=
  p.inField && s.lcCode == 3 && p.bodyDigest == s.boot.bodyDigest && p.timetableDigest == s.timetableDigest &&
    sha384 p.peerKey == slice members (48 * d) 48

/-- An acting master in BOOTING, which finds its CL0 refused by the device above it (R413). -/
def State.actingUp (s : State) : Bool :=
  s.core.op == .booting && s.bankU (mkKey 0x9000 0x03) == 1 && s.pwr.cascadeId != 0 && s.bankU (mkKey 0x9000 0x0A) == 1 && !s.cas.formDone

/-- STACK_FORMATION (R396, R401 to R403, R413): the steps end; with the adoption the member has the master's frame count and
sheet. The command stands in the adoption frame. An acting master only logs that its CL0 is refused. -/
def execStackFormation (f : FormInput) (s : State) : Res :=
  let s := s.fresh
  .next (if !s.forming then
      (if s.actingUp && !f.idOk then (s.modCas (fun c => { c with formDone := true })).refuseLink [s.pwr.cascadeId.toNat, 0] else s)
    else if !f.idOk then
      (s.modCas (fun c => { c with formDone := true, role := .standalone })).refuseLink [s.pwr.cascadeId.toNat]
    else if f.failStep = 1 then s.formFails 1
    else if f.failStep = 2 ∨ f.offset < -2 ∨ 2 < f.offset then s.formFails 2
    else if f.failStep = 3 ∨ !s.peerFits (s.bankVal (mkKey 0x9000 0x04)) f.master f.peer then s.formFails 3
    else if f.failStep ≠ 0 then s.formFails f.failStep
    else
      let s := s.modCas (fun c => { c with
        formDone := true, role := .member, cl0 := true, tickOffset := f.offset,
        present := setBit 0 s.pwr.cascadeId.toNat })
      let s := s.keyLink 8 f.secret f.transcript
      let s := s.modYard (fun y => { y with sheet := f.sheet, base := f.base })
      (((s.modCore (fun c => { c with frameCt := f.frame })).latch 21 9).ev 9 9 .memberJoined [s.pwr.cascadeId.toNat]))

/-- FORM_TIMEOUT (R401). -/
def execFormTimeout (s : State) : Res :=
  let s := s.fresh
  .next (match s.cas.formAt with
    | some f =>
      if s.forming ∧ f + s.bankU (mkKey 0x9000 0x05) * msFrames ≤ s.now then s.formFails 0 else s
    | none => s)

/-- STACK-ONLY keys that a master holds. -/
def State.stackKeys (s : State) : List Key := s.tack.keys.filter (fun k => k.exportCls == 2 && k.st != .revoked && k.st != .lost)

/-- A member's frame is heard: it is no longer suspect (R400, R410). -/
def State.heard (s : State) (d : Nat) : State :=
  s.modCas (fun c => { (c.count d) with suspect := c.suspect.filter (fun x => x.1 != d) })

/-- The adoption frame that a master names: a round boundary at least 64 frames ahead (R401 step 6). -/
def State.adoptionFrame (s : State) : Nat :=
  let l := s.sheetLen s.yard.sheet
  s.core.frameCt + 64 + (l - s.posAt (s.core.frameCt + 64)) % l

/-- MEMBER_JOIN (R398, R401, R404, R413): the master's half; without a C0 slot on both kinds of pair it answers no join. Link
message 7 names the adoption frame. -/
def execMemberJoin (j : JoinInput) (s : State) : Res :=
  let s := s.fresh
  .next (if s.cas.role ≠ .master ∨ !s.core.op.powered then s.passOn 0 j.member
    else if s.core.op = .alarmHalt ∨ 7 < j.member ∨ j.member = s.pwr.cascadeId.toNat then s
    else if j.actingBelow ∧ s.pwr.cascadeId = 0 then s.refuseLink [j.member, 0]
    else if !(s.c0Pk && s.classOn .lattice 0) then s
    else if !s.peerFits (s.val (mkKey 0x9000 0x04)) j.member j.peer then s.refuseLink [j.member, 3]
    else if !j.sigOk then s.refuseLink [j.member, 4]
    else
      let d := j.member
      let s := s.modCas (fun c => { c with
        present := setBit c.present d, lost := clearBits c.lost (BitVec.ofNat 8 (2 ^ d)), cl1 := true,
        credits := updAt c.credits d (fun _ => 1024), suspect := c.suspect.filter (fun x => x.1 != d) })
      let s := s.keyLink d j.secret j.transcript
      let s := s.linkSend d 7 (leN 8 s.adoptionFrame)
      let s := s.stackKeys.foldl (fun s k =>
        (s.linkSend d 1 (leN 4 (s.tack.handleOf k.slot))).modCas (fun c => { c with
          acksWaited := c.acksWaited ++ [(k.slot, s.now, [d])] })) s
      (s.latch 21 9).ev 9 9 .memberJoined [d])

/-- LINK_REKEY (R402): after 2^32 messages or 3,600 s on the link to a peer; a failed rekey makes the link down (log 128). -/
def execLinkRekey (r : Rekey) (secret transcript : Bytes) (s : State) : Res :=
  let s := s.fresh
  .next (if !s.cas.links.any (fun l => l.peer == r.peer && (2 ^ 32 ≤ l.msgs || l.keyedAt + 3600 * secFrames ≤ s.now)) then s
    else if r.ok then (s.keyLink r.peer secret transcript).ev 9 9 .rekey [1]
    else
      let s := (s.latch 21 14).ev 9 9 .rekey [0]
      if s.cas.role = .member then (s.modCas (fun c => { c with cl0 := false, orphanDue := true })).latch 21 12
      else (s.modCas (fun c => { c with cl1 := false, suspect := s.members.map (fun d => (d, s.now)) })).latch 21 13)

/-! ### Links and losses -/

/-- LINK_DOWN (R400, R410, R411): port 0 is CL0 and port 1 is CL1. Port 8 + d stands for member d's echo, which the master
no longer hears (log 41). -/
def execLinkDown (port : Nat) (s : State) : Res :=
  let s := s.fresh
  .next (if port = 0 ∧ s.cas.cl0 then
      let s := (s.modCas (fun c => { c with cl0 := false })).latch 21 12
      if s.cas.role = .member then s.modCas (fun c => { c with orphanDue := true }) else s
    else
      let add := fun (l : List (Nat × Nat)) (d : Nat) => if l.any (·.1 == d) then l else l ++ [(d, s.now)]
      if port = 1 ∧ s.cas.cl1 then
        let s := (s.modCas (fun c => { c with cl1 := false })).latch 21 13
        if s.cas.role = .master then s.modCas (fun c => { c with suspect := s.members.foldl add c.suspect }) else s
      else if 8 ≤ port ∧ s.cas.role = .master ∧ s.members.contains (port - 8) then
        s.modCas (fun c => { c with suspect := add c.suspect (port - 8) })
      else s)

/-- MEMBER_LOST (R404, R410): a member that has been suspect for 64 frames, or that has left a replication unacknowledged for
as long, is lost with its forwarded jobs. -/
def execMemberLost (d : Nat) (s : State) : Res :=
  let s := s.fresh
  let late := s.cas.suspect.any (fun x => x.1 == d && x.2 + 64 ≤ s.now) ||
    s.cas.acksWaited.any (fun a => a.2.1 + 64 ≤ s.now && a.2.2.contains d)
  .next (if s.cas.role ≠ .master ∨ !s.members.contains d ∨ !late then s
    else
      let gone := s.jobs.filter (fun j => !j.settled && (j.forwarded == some d ||
        (j.forwarded.isNone && s.jobMember j == some d)))
      let s := gone.foldl (fun s j => s.endJob j.id stPeerLost (s.now + 1)) s
      let s := s.modCas (fun c => { c with
        present := clearBits c.present (BitVec.ofNat 8 (2 ^ d)), lost := setBit c.lost d,
        suspect := c.suspect.filter (fun x => x.1 != d), peerLost := c.peerLost + gone.length,
        links := c.links.filter (fun l => l.peer != d),
        acksWaited := (c.acksWaited.map (fun a => (a.1, a.2.1, a.2.2.filter (· != d)))).filter (fun a => !a.2.2.isEmpty) })
      (s.latch 21 d).ev 9 9 .memberLost [d])

/-- The actions of a member that has lost its master (R411). -/
def State.orphan (s : State) : State :=
  if !s.cas.orphanDue then s
  else
    let s := s.modCas (fun c => { c with
      orphanDue := false, role := .orphan, cl0 := false, remote := none, cancels := [], arrived := [], links := [] })
    let s := s.jobs.foldl (fun s j => match j.src with
      | .peer _ _ => s.abortJob j.id none
      | _ => s) s
    let s := (s.tack.keys.filter (fun k => k.origin.isSome)).foldl (fun s k => s.eraseKey k) s
    (s.latch 21 8).ev 9 9 .masterLost []

/-- PROMOTION_NOTICE (R398, R413): it goes down the chain; an ORPHAN logs it and performs a full reset. -/
def execPromotionNotice (s : State) : Res :=
  let s := s.fresh.passOn 1 (s.pwr.cascadeId.toNat + 1)
  .next (if s.cas.role = .orphan then ((s.latch 21 15).ev 9 9 .promotion []).fullResetDue .cascade else s)

/-! ### Replicas (R404 to R406) -/

/-- The replica of a master's slot. -/
def State.replica (s : State) (slot : Nat) : Option Key :=
  s.tack.keys.find? (fun k => match k.origin with | some h => h % 32768 == slot | none => false)

/-- The first free run of the replica region. -/
def Tack.replicaPlace (t : Tack) (run : Nat) : Option Nat :=
  ((List.range 2048).map (· + 30720)).find? (fun p => p + run ≤ 32768 && t.fits p run)

/-- KEY_REPLICATION (R404, R405): a member stores a replica and acknowledges it with link message 8. A replica of the same
slot is replaced in its place. -/
def execKeyReplication (k : Key) (master : Nat) (s : State) : Res :=
  let s := s.fresh
  .next (if s.cas.role ≠ .member then s
    else
      let r : Key := { k with
        run := keyRun k.typ, st := .active, depth := 1, persistent := false, world := BitVec.ofNat 5 16,
        parent := none, useCount := 0, useLimit := 0, mark := 0, origin := some master, drainEnd := none }
      let ack := fun (s : State) => s.linkSend 8 8 (leN 4 master)
      match s.replica (master % 32768) with
      | some o =>
        if o.origin = some master then ack s
        else
          let s := s.eraseKey o
          ack (s.modTack (fun t => t.put { r with slot := o.slot, gen := t.gen o.slot }))
      | none => match s.tack.replicaPlace r.run with
        | none => s
        | some p => ack (s.modTack (fun t => t.put { r with slot := p, gen := t.gen p })))

/-- A change reaches the replica of the key that had the handle `master` on the master (R406): 0 REVOKE, 1 ERASE, 2 REWRITE with
its new secret, 3 DRAIN. -/
def State.changeReplica (s : State) (master what : Nat) (secret : Bytes) : State :=
  match s.tack.keys.find? (fun k => k.origin == some master) with
  | none => s
  | some k =>
    if what = 0 then (if k.st = .revoked then s else s.revokeKey k)
    else if what = 1 then s.eraseKey k
    else if what = 2 then s.rewriteKey { k with origin := some (master % 2 ^ 27 / 32768 * 32768 + 32768 + master % 32768) } secret
    else if what = 3 then s.modTack (fun t => t.put { k with st := .draining, drainEnd := none })
    else s

/-- REPLICA_CHANGE (R406): a member applies it at the first boundary after arrival. -/
def execReplicaChange (master what : Nat) (secret : Bytes) (s : State) : Res :=
  let s := s.fresh
  .next (if s.cas.role ≠ .member then s
    else s.modCas (fun c => { (c.count 8) with arrived := c.arrived ++ [(master, what, secret)] }))

/-- The replica changes that arrived (order 2 of R33); their lanes are struck at the same boundary. -/
def State.runReplicas (s : State) : State :=
  let l := s.cas.arrived
  l.foldl (fun s x => s.changeReplica x.1 x.2.1 x.2.2) (s.modCas (fun c => { c with arrived := [] }))

/-- REPLICATION_ACK (R398, R404): the key command completes once every member has acknowledged. -/
def execReplicationAck (member master : Nat) (s : State) : Res :=
  let s := s.fresh
  .next (if s.cas.role ≠ .master then s.passOn 0 member
    else if !s.members.contains member then s
    else (s.heard member).modCas (fun c => { c with
      acksWaited := (c.acksWaited.map (fun a => if a.1 = master % 32768 then (a.1, a.2.1, a.2.2.filter (· != member)) else a)).filter
        (fun a => !a.2.2.isEmpty) }))

/-- At a boundary the master sends every change that reached a STACK-ONLY key (R406): link message 9 carries the handle that
the key had and the kind. -/
def State.sendChanges (s : State) : State :=
  let l := s.cas.changes
  let s := s.modCas (fun c => { c with changes := [] })
  if s.cas.role ≠ .master then s
  else l.foldl (fun s x => s.members.foldl (fun s d => s.linkSend d 9 (leN 4 (x.1 + 32768 * x.2.2) ++ leN 1 x.2.1)) s) s

/-! ### Forwarded jobs (R407 to R409) -/

/-- Opcodes that may be forwarded (R407). -/
def Job.forwardable (j : Job) : Bool :=
  (0x10 ≤ j.op && j.op ≤ 0x13) || j.op == 0x28 || j.op == 0x29 || j.op == 0x50 || j.op == 0x51 || j.op == 0x54 ||
    j.op == 0x70 ||
    ((j.op == 0x20 || j.op == 0x21 || (0x40 ≤ j.op && j.op ≤ 0x43)) && j.cls == 1 && j.steps == 1)

/-- A handle names a STACK-ONLY key of class 0x00. -/
def State.stackHandle (s : State) (h : Nat) : Bool := h / 0x8000000 == 0 && (match s.named h with
  | .ok k => k.exportCls == 2
  | .error _ => false)

/-- The keys that a forwarded job names fit (R407): inline, STACK-ONLY, or of member `m`. -/
def State.forwardKeys (s : State) (j : Job) (m : Option Nat) : Bool :=
  [j.keyA, j.keyB].all (fun h => h == 0 || s.stackHandle h || (match m with | some d => h / 0x8000000 == 0x10 + d | none => false))

/-- A member beyond or at a suspect one gets nothing (R410). -/
def State.reachable (s : State) (d : Nat) : Bool := s.members.contains d && !s.cas.suspect.any (fun x => x.1 ≤ d)

/-- The member that takes a job: the most free credits, the lowest ID on ties (R407). -/
def State.bestMember (s : State) : Option Nat :=
  (s.members.filter (fun d => s.reachable d && s.cas.credits.getD d 0 != 0)).foldl (fun b d => match b with
    | none => some d
    | some e => if s.cas.credits.getD e 0 < s.cas.credits.getD d 0 then some d else some e) none

/-- A job goes to a member: the master's key checks, its key uses, the link message (R407, R408). Link message 6 carries the
job number, the shared-group mask and what the job needs. -/
def State.forward (s : State) (j : Job) (d : Nat) : State :=
  let own := j.needs.filter (fun n => n.h / 0x8000000 == 0)
  match s.checkNeeds false j.world j.pad own with
  | .error e => (s.dukptFail j e).endJob j.id e s.now
  | .ok ks =>
    let zero := fun (h : Nat) => if h / 0x8000000 = 0 then h else 0
    let e := s.loadExtra j ks
    if e ≠ 0 then s.endJob j.id e s.now
    else
      let s := s.takeJobUses { j with keyA := zero j.keyA, keyB := zero j.keyB } ks
      let s := s.modJob j.id (fun j => { j with
        forwarded := some d, begun := true, loadedA := ks.head?, loadedB := (ks.drop 1).head? })
      let s := s.modCas (fun c => { c with forwarded := c.forwarded + 1, credits := updAt c.credits d (· - 1) })
      s.linkSend d 6 (leN 4 j.id ++ leN 2 (s.padShared j.pad) ++ bytesOf [j.op, j.param] ++ leN 4 j.keyA ++ leN 4 j.keyB ++
        leN 4 j.srcLen ++ leN 4 j.dstLen ++ j.data)

/-- A job that could be offered a slot, or that names a member's key and so waits for none. -/
def State.forwardReady (s : State) (j : Job) : Bool :=
  j.src == .paddock && j.ready && j.readyAt < s.now && j.status.isNone && !j.settled && j.lane.isNone && !j.begun &&
    j.forwarded.isNone

/-- The master forwards at a boundary, before its own dispatch (R407, R410). -/
def State.forwardJobs (s : State) : State :=
  if s.cas.role ≠ .master then s
  else s.jobs.foldl (fun s j =>
    if !s.forwardReady j then s
    else match s.jobMember j with
      | some d =>
        if s.cas.lost.getLsbD d then
          (s.endJob j.id stPeerLost s.now).modCas (fun c => { c with peerLost := c.peerLost + 1 })
        else if !s.members.contains d then s.endJob j.id stKeyAbsent s.now
        else if !j.forwardable ∨ !s.forwardKeys j (some d) then s.endJob j.id stKeyDenied s.now
        else if s.reachable d ∧ s.cas.credits.getD d 0 ≠ 0 then s.forward j d else s
      | none =>
        if j.forwardable ∧ (s.valU (mkKey 0x9000 0x07)).testBit j.cls ∧ s.valU (mkKey 0x9000 0x06) ≤ j.passed ∧
            s.forwardKeys j none then
          match s.bestMember with
          | some d => s.forward j d
          | none => s
        else s) s

/-- After dispatch a job that could have been dispatched and was not has one more boundary behind it (R407). -/
def State.passJobs (s : State) : State :=
  if s.cas.role ≠ .master then s
  else s.modJobs (fun l => l.map (fun j => if s.offered j then { j with passed := j.passed + 1 } else j))

/-- The handle by which a member knows a key that the master's job names: its own, or that of the replica (R405, R408). -/
def State.localHandle (s : State) (h : Nat) : Nat :=
  if h = 0 ∨ h / 0x8000000 ≠ 0 then h
  else match s.tack.keys.find? (fun k => k.origin == some h) with
    | some k => s.tack.handleOf k.slot
    | none => 0xFFFFFFFF

/-- FORWARDED_JOB (R408): the member queues it in `cascade.peer_group`. `master` is the job's number at the master, `mask`
the shared groups of its paddock. -/
def execForwardedJob (desc data : Bytes) (master mask : Nat) (s : State) : Res :=
  let s := s.fresh
  .next (if s.cas.role ≠ .member ∨ s.cas.orphanDue ∨ !s.core.op.powered then s
    else
      let id := s.nextJob
      let j := jobOf id 0 0 (s.valU (mkKey 0x9000 0x08)) false s.now desc
      let j : Job := { j with
        src := .peer master mask, keyA := s.localHandle j.keyA, keyB := s.localHandle j.keyB, data := data,
        short := decide (data.length < j.srcLen), ready := true, readyAt := s.now }
      let j := s.shape j
      let s := s.modCas (fun c => { (c.count 8) with forwarded := c.forwarded + 1 })
      (s.modJobs (fun l => l ++ [j])).modNextJob (fun _ => id + 1))

/-- FORWARDED_RESULT (R408 to R410): the result of a job that ran on a member; the completion is written in the next frame. A
result that comes after 64 frames of a suspect member is not accepted. -/
def execForwardedResult (id status lane : Nat) (result dest : Bytes) (s : State) : Res :=
  let s := s.fresh
  .next (match s.job? id with
    | none => s
    | some j => match j.forwarded with
      | none => s
      | some d =>
        if s.cas.role ≠ .master ∨ j.settled ∨ !s.members.contains d ∨
            s.cas.suspect.any (fun x => x.1 == d && x.2 + 64 ≤ s.now) then s
        else
          let s := (s.heard d).modCas (fun c => { c with credits := updAt c.credits d (· + 1) })
          s.modJob id (fun j => { j with
            status := some status, settled := true, completeAt := some (s.now + 1),
            lastLane := 0x8000 + 4096 * d + lane % 4096,
            result := if status = stOk then result.take 16 else [], dest := if status = stOk then dest else [],
            resLen := if status ≠ stOk then 0 else if dest.isEmpty then result.length else dest.length }))

/-- FORWARD_CANCELLATION (R409): the member aborts at the first boundary after arrival. -/
def execForwardCancellation (id : Nat) (s : State) : Res :=
  let s := s.fresh
  .next (if s.cas.role = .member then s.modCas (fun c => { (c.count 8) with cancels := c.cancels ++ [id] }) else s)

/-- The cancellations that arrived (order 2 of R33): nothing is reported of the jobs. -/
def State.runCancels (s : State) : State :=
  let l := s.cas.cancels
  let s := s.modCas (fun c => { c with cancels := [] })
  s.jobs.foldl (fun s j => match j.src with
    | .peer m _ => if l.contains m then s.abortJob j.id none else s
    | _ => s) s

/-- An officer's promotion takes effect (R413): the device is MASTER of the devices beyond it, which get link message 10. -/
def State.promote (s : State) : State :=
  let s := s.storeNow (mkKey 0x9000 0x0A) [1]
  ((s.modCas (fun c => { c with role := .master, present := 0, lost := 0 })).linkSend
    (s.pwr.cascadeId.toNat + 1) 10 []).ev 9 9 .promotion [s.pwr.cascadeId.toNat]

end Sys2Proof.Machine
end

