-- ==== Sys2Proof/Machine/Lifecycle.lean ====
section
/-! DEFINITION. Life-cycle requests, the JTAG mailbox, debug tokens and the debugger (R238, R465 to R480). -/

namespace Sys2Proof.Machine

open Sys2Proof

/-! ### Transition requests -/

/-- Transitions between two states that a role may request (R465); roles 1 OFFICER, 7 VENDOR. -/
def lcPair (from_ goal role : Nat) : Bool :=
  (from_ == 1 && goal == 2 && role == 7) || (from_ == 1 && goal == 5 && role == 7) || (from_ == 2 && goal == 3 && role == 1) ||
    (from_ == 2 && goal == 5 && role == 1) || (from_ == 3 && (goal == 4 || goal == 5) && role == 1) ||
    (from_ == 4 && goal == 5 && role == 7)

/-- The form of a request record (R467): fields that the target does not use are 0. -/
def lcRecordOk (v : Bytes) : Bool :=
  let t := u8 v 0
  v.length == 128 && allZero (slice v 3 5) && allZero (slice v 104 24) && (t == 2 || u8 v 1 == 0) && (t == 3 || u8 v 2 == 0) &&
    u8 v 2 < 8 && (t == 2 || t == 3 || allZero (slice v 8 48)) && (t == 2 || allZero (slice v 56 48))

/-- Stored values whose digest a commit has kept (R438): nothing changed since. -/
def Dict.clean (d : Dict) : Bool := d.changes == d.committed

/-- OFFICER credential records: those whose role byte is 1 (R420). -/
def State.officerCreds (s : State) : Nat :=
  ((List.range 32).filter (fun n => u8 (s.val (mkKey 0x0101 n)) 0 == 1)).length

/-- The preconditions of R465 for a target. -/
def State.lcReady (s : State) (v : Bytes) : Bool :=
  if u8 v 0 = 2 then s.log.head != 0 && (u8 v 1 == 1 || u8 v 1 == 2) && !allZero (slice v 8 48)
  else if u8 v 0 = 3 then 2 ≤ s.officerCreds && s.dict.clean
  else true

/-- The check of `lc.request` (R465 to R467), life-cycle limits first (R431): 0 or the failing status. -/
def State.lcRequestCheck (s : State) (role : Nat) (v : Bytes) : Nat :=
  if v.length ≠ 128 then stBadFormat
  else if !lcPair s.lcCode (u8 v 0) role ∨ !s.lcReady v then stLifecycle
  else if !lcRecordOk v then stBadFormat
  else if s.lcMark.isSome ∨ s.boot.trialFrom.isSome ∨ s.bootSel ≠ 0 then stRange
  else 0

/-- A progress mark with last step 0 (R466, R468). -/
def State.lcRequest (s : State) (v : Bytes) : State :=
  (s.putMark (some { seq := 0, source := s.lcCode, target := u8 v 0, step := 0, record := v })).latch 0 13

/-- A mark whose last step is 0 can be cancelled (R466). -/
def State.lcCancelable (s : State) : Bool := match s.lcMark with
  | some m => m.step == 0
  | none => false

/-! ### Tokens (R474) -/

/-- The layout of a token of a kind with the owner's algorithm (R474). -/
def State.tokenOk (s : State) (kind : Nat) (t : Bytes) : Bool :=
  let alg := s.fuse.ownerAlg.toNat
  (alg == 1 || alg == 2) && slice t 0 4 == [0x44, 0x42, 0x54, 0x31] && u8 t 4 == kind && uLE t 8 2 == alg &&
    allZero (slice t 10 6) && allZero (slice t 56 8) && t.length == 64 + ownerKeyLen alg + ownerSigLen alg &&
    (if kind = 1 then u8 t 5 < 8 && u8 t 6 == 0 && u8 t 7 == 0
     else u8 t 5 == 0 && (u8 t 6 == 4 || u8 t 6 == 5) && u8 t 7 < 2)

/-- Serial, nonce, key digest and signature of a token (R473, R476). -/
def State.tokenSigned (s : State) (t : Bytes) (nonce : Option Bytes) (digest : Bytes) : Bool :=
  let alg := s.fuse.ownerAlg.toNat
  let key := slice t 64 (ownerKeyLen alg)
  let n := 64 + ownerKeyLen alg
  slice t 16 8 == leN 8 s.fuse.serial.toNat && nonce == some (slice t 24 32) && !allZero digest && sha384 key == digest &&
    ownerVerify alg key (t.take n) (t.drop n)

/-- LC_MAILBOX_TOKEN (R473): in SCRAP the mailbox returns the serial. While the ROM waits in MANUFACTURE or FIELD an empty
token asks for the nonce; a token that passes writes the mark, and a full reset follows. -/
def execLcMailboxToken (token : Bytes) (s : State) : Res :=
  let s := s.fresh
  .next (if s.core.op ≠ .booting ∨ s.boot.stuck.isNone then s
    else if s.lcCode = 5 then s.emit (.jtag (leN 8 s.fuse.serial.toNat))
    else if s.lcCode ≠ 2 ∧ s.lcCode ≠ 3 then s
    else if token.isEmpty then
      let d := s.draw 32
      (d.2.modLc (fun l => { l with jtagNonce := some d.1 })).emit (.jtag d.1)
    else
      let nonce := s.lc.jtagNonce
      let s := s.modLc (fun l => { l with jtagNonce := none })
      if s.tokenOk 2 token && s.tokenSigned token nonce (if u8 token 7 = 0 then s.fuse.owner0 else s.fuse.owner1) &&
          lcPair s.lcCode (u8 token 6) 1 then
        (s.putMark (some { seq := 0, source := s.lcCode, target := u8 token 6, step := 0,
                           record := leN 1 (u8 token 6) ++ zeros 127 })).beginStart .lcToken
      else s)

/-- The live debug nonce (R475). -/
def State.debugNonce (s : State) : Option Bytes := match s.lc.nonce with
  | some (v, f) => if s.now < f + 600000000 then some v else none
  | none => none

/-- The checks of `debug.token` up to the Logbook's (R476): 0 or the failing status. -/
def State.debugTokenCheck (s : State) (t : Bytes) : Nat :=
  if !s.tokenOk 1 t then stBadFormat
  else if s.lcCode ≠ 2 ∧ s.lcCode ≠ 3 then stLifecycle
  else if !s.tokenSigned t s.debugNonce s.fuse.debugKey then stRole
  else if u8 t 5 &&& (7 - s.lc.scopes.toNat) = 0 ∨ 0xFFFFFFFF ≤ s.lc.epoch then stRange
  else 0

/-- Check 3 of R476 has been reached, which ends the nonce. -/
def State.tokenSpends (s : State) (t : Bytes) : Bool := s.tokenOk 1 t && (s.lcCode == 2 || s.lcCode == 3)

/-- The nonce ends (R475). -/
def State.endNonce (s : State) : State := s.modLc (fun l => { l with nonce := none })

/-- A debug token takes effect (R477): the epoch now, the scopes at the next boundary. -/
def State.debugOpen (s : State) (t : Bytes) : State :=
  s.modLc (fun l => { l with epoch := l.epoch + 1, scopesDue := l.scopesDue ||| BitVec.ofNat 3 (u8 t 5) })

/-- The boundary at which the scopes open (R238, R477, R479). -/
def State.openScopes (s : State) : State :=
  if s.lc.scopesDue = 0 then s
  else
    let due := s.lc.scopesDue
    let s := s.modLc (fun l => { l with scopes := l.scopes ||| due, scopesDue := 0 })
    let s := s.latch 0 14
    let s := (s.tack.keys.filter (·.debugOff)).foldl (fun s k => s.strikeLanes k.slot 2) s
    if due.getLsbD 0 ∨ due.getLsbD 1 then
      let s := s.endSessions (fun _ => true)
      let s := s.par.sessions.foldl (fun s x => s.endSpdm x) s
      s.dict.conns.foldl (fun s c => s.endDtls c) s
    else s

/-- NONCE_EXPIRY (R475): a debug nonce ends after 300 s. -/
def execNonceExpiry (s : State) : Res :=
  let s := s.fresh
  .next (match s.lc.nonce with
    | some (_, f) => if f + 600000000 ≤ s.now then s.endNonce else s
    | none => s)

/-! ### The debugger (R480) -/

/-- The STEWARD_HALT scope is open: by token, or always (R462). -/
def State.haltScope (s : State) : Bool := s.lc.scopes.getLsbD 0 || s.lcCode == 0 || s.lcCode == 1 || s.lcCode == 4

/-- DEBUGGER_HALT (R480). -/
def execDebuggerHalt (s : State) : Res :=
  let s := s.fresh
  .next (if s.haltScope ∧ s.core.op ≠ .off ∧ s.core.op ≠ .deepSleep then s.modPwr (fun p => { p with halted := true }) else s)

/-- DEBUGGER_RESUME (R480). -/
def execDebuggerResume (s : State) : Res :=
  let s := s.fresh
  .next (s.modPwr (fun p => { p with halted := false }))

end Sys2Proof.Machine
end

