-- ==== Sys2Proof/Machine/Values.lean ====
section
/-! DEFINITION. The values that reads of dictionary entries return (R61, R98, R116, R145, R183, R184, R211, R248, R394, R395, R415,
R441, R461, R481, R506, R516, R549 and the lane chapters). An entry that no case names returns its working value. -/

namespace Sys2Proof.Machine

open Sys2Proof

/-- Position of a slot in an ENUM that starts with NONE. -/
def slotNo : Option Slot → Nat
  | none => 0
  | some .a => 1
  | some .b => 2
  | some .r => 3

/-- Whole seconds that are left until a frame. -/
def State.secsLeft (s : State) (f : Nat) : Nat := ceilDiv (f - s.now) secFrames

/-! ### The Yard -/

/-- Timetable and sheets (R61). -/
def State.readTimetable (s : State) (key : Nat) : Bytes :=
  let t := s.yard.timetable
  match key % 65536 with
  | 0x0002 => leN 4 (match t with | some t => t.serial | none => 0)
  | 0x0003 => s.timetableDigest
  | 0x0005 => leN 1 (match t with | some t => t.sheets.length | none => 0)
  | 0x0006 => leN 1 (match t with | some t => t.safe | none => 0)
  | 0x0101 => leN 1 s.yard.sheet
  | 0x0103 => leN 8 s.yard.base
  | 0x0104 => leN 2 (s.sheetLen s.yard.sheet)
  | _ => s.val key

/-- Ready jobs of a group that waited at the last boundary (R61). -/
def State.groupWaiting (s : State) (g : Nat) : Nat := (getKey s.yard.waiting g).getD 0

/-- Reserve contexts that are taken: those of segmented one-shot jobs and of the Register Digest Windows (R258, R262). -/
def State.reserveUsed (s : State) : Nat := s.yard.ctxReserve + b2n s.rdw.job.isSome + b2n s.rdwSc.job.isSome

/-- Lane chapters. -/
def State.readLanes (s : State) (key : Nat) : Bytes :=
  let y := s.yard
  let disabled := fun (l : List Nat) => l.foldl (fun a n => a + b2n (s.lane n).disabled * 2 ^ (n - l.headD 0)) 0
  match key % 65536 with
  | 0x2001 => leN 2 (960 - s.pads.foldl (fun a q => a + q.ctxQuota) 0)
  | 0x2002 => leN 1 (64 - s.reserveUsed)
  | 0x2003 => leN 4 (s.pads.foldl (fun a q => a + q.streams.length) 0)
  | 0x2004 => leN 8 y.hampersOut
  | 0x2005 => leN 8 y.hampersIn
  | 0x2006 => leN 8 y.hampersRef
  | 0x2007 => leN 2 s.stateCacheUsed
  | 0x3002 => leN 1 ((lanesOf .block).filter (fun n => s.rowHas y.sheet n 4)).length
  | 0x3003 => leN 8 y.macSegmented
  | 0x3004 => leN 8 y.macMismatch
  | 0x4001 => leN 8 y.faults
  | 0x4002 => leN 2 (disabled (lanesOf .pk))
  | 0x4003 => leN 1 (disabled (lanesOf .lattice))
  | 0x4005 => leN 8 y.screenRejects
  | 0x4006 => leN 8 y.signRetry
  | 0x4007 => leN 2 (s.tack.keys.filter (fun k => k.typ == 0x50 && k.st != .revoked && k.st != .lost)).length
  | 0x4008 => leN 8 y.curveRejects
  | 0x5002 => leN 8 y.pinBad
  | 0x5003 => leN 8 y.dukptExh
  | 0x5004 => leN 8 y.arqcMis
  | 0x5005 => leN 8 y.pinTrans
  | k =>
    if k / 256 = 0x10 then leN 8 ((getKey y.dispatched (k % 256)).getD 0)
    else if k / 256 = 0x11 then leN 4 (s.groupWaiting (k % 256))
    else if k / 256 < 2 then s.readTimetable key
    else s.val key

/-! ### Device firmware, Halter -/

/-- Device-firmware slots (R98). -/
def State.readFw (s : State) (key : Nat) : Bytes :=
  let l := s.ledger.getD ledgerZero
  let slot := fun (k : Nat) (st : SlotState) (svn : Nat) (h : HeaderInfo) => match k with
    | 1 => leN 1 st.code
    | 2 => leN 1 svn
    | 3 => leN 4 h.release
    | 4 => h.digest
    | _ => leN 1 h.keyIndex
  if key / 256 = 0x1101 then slot (key % 256) l.stA l.svnA s.boot.infoA
  else if key / 256 = 0x1102 then slot (key % 256) l.stB l.svnB s.boot.infoB
  else match key % 256 with
    | 0x01 => leN 1 (match l.active with | some .a => 0 | some .b => 1 | _ => 2)
    | 0x02 => leN 1 (b2n s.boot.slotB)
    | 0x03 => leN 1 s.boot.path
    | 0x04 => leN 1 (floorOf s.fuse.arbFloor)
    | 0x05 => leN 1 l.target
    | 0x09 => leN 4 (match s.boot.trialFrom with
        | some f => s.secsLeft (f + s.trialWindow)
        | none => 0)
    | 0x0C => leN 4 l.seq.toNat
    | 0x0D => leN 1 s.boot.lastFail
    | _ => s.val key

/-- The holds in force in the layout of `halter.hold.clear` (R116). -/
def State.holdsActive (s : State) : Nat := s.hal.portHold.toNat + 16 * b2n s.hal.alarmHold

/-- The polarity of each output (R99). -/
def State.polarity (s : State) : Nat :=
  (List.range 32).foldl (fun a k => a + b2n (s.pwr.hoPol.getLsbD (k / 8)) * 2 ^ k) 0

/-- The Halter (R116). -/
def State.readHalter (s : State) (key : Nat) : Bytes := match key % 65536 with
  | 0x0002 => sha384 (s.val (mkKey 0x2000 0x01))
  | 0x0003 => leN 1 s.hal.step
  | 0x0004 => leN 1 s.halterState
  | 0x0102 => leN 4 s.polarity
  | 0x0103 => leN 4 s.halterOut.toNat
  | 0x0106 => leN 1 s.holdsActive
  | 0x0202 => leN 4 s.halterIn.toNat
  | _ => s.val key

/-! ### Ports -/

/-- A port's entries (R145, R183). -/
def State.readPort (s : State) (key : Nat) : Bytes :=
  let n := (key / 256 - 0x2100) / 256
  let p := s.port n
  let l := (s.portLedger n).getD portLedgerZero
  match key / 256 % 256 * 256 + key % 256 with
  | 0x0002 => leN 1 (match p.phase with | .hold => 0 | .verify => 1 | .serve => 2 | .update => 3)
  | 0x0003 => leN 1 (b2n p.attached)
  | 0x0004 => leN 1 (b2n p.recAttached)
  | 0x0005 => p.flashId
  | 0x0006 => leN 4 p.flashSize
  | 0x000D => leN 4 p.fastMax
  | 0x000E => bytesOf p.dummy
  | 0x000F => leN 8 p.refused
  | 0x0010 => leN 8 p.lateBytes
  | 0x0011 => leN 8 p.unknown
  | 0x0012 => p.sfdp
  | 0x010A => leN 1 (slotNo p.serving)
  | 0x010B => leN 1 (match p.verdict with | .none => 0 | .pass => 1 | .fail => 2)
  | 0x010C => leN 1 p.reason
  | 0x010D => leN 2 p.debts.length
  | 0x010E => leN 8 p.debtOverflows
  | 0x010F => leN 8 p.tagFail
  | 0x0110 => leN 1 (b2n p.sweep.isSome)
  | 0x0111 => leN 4 (s.shedReq n / 1024)
  | 0x0112 => leN 4 (s.tagReq n)
  | 0x0201 => leN 4 l.seq.toNat
  | 0x0202 => leN 1 l.stA.code
  | 0x0203 => leN 1 l.stB.code
  | 0x0204 => leN 1 l.stR.code
  | 0x0205 => leN 1 (slotNo l.active)
  | 0x0206 => leN 1 (slotNo l.trial)
  | 0x0207 => leN 1 l.count
  | 0x0208 => leN 4 (match p.trialEnd with | some f => s.secsLeft f | none => 0)
  | _ => s.val key

/-- Updates and partners (R184, R211). -/
def State.readPartner (s : State) (key : Nat) : Bytes := match key with
  | 0x280005 => leN 1 s.pldm.st.code
  | 0x280006 => leN 2 s.pldm.component
  | 0x280007 => leN 4 s.pldm.received
  | 0x30000B => leN 8 s.par.dead
  | 0x30000C => leN 8 s.par.late
  | 0x30000D => leN 1 s.par.sessions.length
  | 0x330002 => sha384 ((s.certChain 0).getD [])
  | 0x330003 => (match s.certChain 1 with | some c => sha384 c | none => zeros 48)
  | _ => if key / 256 = 0x3100 then (s.partner (key % 256)).bytes else s.val key

/-! ### Tack Room and paddocks -/

/-- The Tack Room (R248). -/
def State.readTack (s : State) (key : Nat) : Bytes :=
  let slots := fun (p : Key → Bool) => (s.tack.keys.filter p).foldl (fun a k => a + k.run) 0
  match key % 65536 with
  | 0x0001 => leN 4 (slots (fun _ => true))
  | 0x0002 => leN 4 (slots (·.persistent))
  | 0x0003 => leN 4 s.tack.retired.length
  | 0x0004 => leN 1 (b2n s.tack.srk.isSome)
  | 0x0007 => s.tack.result
  | 0x0008 => s.tack.exported
  | 0x0009 => leN 4 s.tack.inspect
  | 0x000A => (match s.named s.tack.inspect with | .ok k => k.attrs | .error _ => zeros 32)
  | 0x000B => leN 8 s.tack.sweeps
  | 0x000C => leN 1 (b2n s.drbgFails)
  | k => if k / 256 = 1 then leN 8 (s.tack.mono.getD (k % 256) 0) else s.val key

/-- Paddock administration (R394). -/
def State.readPads (s : State) (key : Nat) : Bytes :=
  let sum := fun (f : Pad → Nat) => s.pads.foldl (fun a q => a + f q) 0
  match key % 256 with
  | 0x02 => s.pci.pResult
  | 0x03 => leN 4 28672
  | 0x04 => leN 4 (sum (·.keyQuota))
  | 0x05 => leN 2 (sum (·.ctxQuota))
  | 0x06 => leN 4 (sum (·.streamLimit))
  | 0x07 => leN 2 (s.pads.filter (fun q => q.st == .enabled)).length
  | 0x09 => leN 2 s.pci.quar.length
  | 0x0A => leN 8 s.pci.lateCpl
  | _ => s.val key

/-- The entries of one paddock (R395). -/
def State.readPad (s : State) (key : Nat) : Bytes :=
  let p := key / 256 - 0x5200
  let q := s.pad? p
  let num := fun (n : Nat) (f : Pad → Nat) => leN n (match q with | some q => f q | none => 0)
  match key % 256 with
  | 0x01 => num 1 (fun q => match q.st with | .disabled => 0 | .enabled => 1 | .resetting => 2)
  | 0x02 => num 1 (·.group)
  | 0x03 => num 4 (·.keyQuota)
  | 0x04 => leN 4 (s.slotsOwned p)
  | 0x05 => num 2 (·.ctxQuota)
  | 0x06 => num 2 (·.streamLimit)
  | 0x07 => num 1 (·.rings)
  | 0x08 => num 2 (·.maxDepth)
  | 0x09 => num 1 (·.families.toNat)
  | 0x0A => num 2 (·.shared.toNat)
  | 0x0B => num 8 (·.hamperBase)
  | 0x0C => num 4 (·.pasid)
  | 0x0D => leN 1 (s.pgen p)
  | 0x0E => num 8 (·.accepted)
  | 0x0F => num 8 (·.queueFull)
  | 0x10 => num 8 (·.pushFaults)
  | 0x11 => num 4 (·.resets)
  | _ => num 1 (fun q => b2n q.log.isSome)

/-! ### Cascade, identity, roles -/

/-- The code of a stack role (R399, R414). -/
def CasRole.code : CasRole → Nat
  | .standalone => 0 | .master => 1 | .member => 2 | .orphan => 3

/-- The cascade (R415). -/
def State.readCascade (s : State) (key : Nat) : Bytes := match key % 256 with
  | 0x01 => leN 1 s.pwr.cascadeId.toNat
  | 0x02 => leN 1 s.cas.role.code
  | 0x0B => leN 4 (ofI32 s.cas.tickOffset)
  | 0x0C => leN 2 ((s.tack.keys.filter (fun k => k.origin.isSome)).foldl (fun a k => a + k.run) 0)
  | 0x0D => leN 8 s.cas.forwarded
  | 0x0E => leN 8 s.cas.peerLost
  | _ => s.val key

/-- `role.proposals` (R441). -/
def Proposal.bytes (p : Proposal) : Bytes :=
  leN 2 p.id ++ leN 2 (p.key / 256) ++ leN 1 (p.key % 256) ++ leN 1 p.cred ++ zeros 2 ++ leN 8 p.expiry ++ sha384 p.value

/-- The transport bit of an interface code (R422). -/
def ifaceBit (i : Nat) : Nat := match i with
  | 3 => 3 | 4 => 0 | 5 => 1 | 6 => 2 | 7 => 4 | 8 => 5 | _ => 7

/-- Identity, commit and roles (R441). -/
def State.readIdentity (s : State) (x : Option Sess) (key : Nat) : Bytes := match key with
  | 0x000003 => leN 8 s.fuse.serial.toNat
  | 0x000005 => leN 4 s.boot.release
  | 0x000007 => sha384 (Config.publicOf 0x11 s.deviceKey)
  | 0x000008 => leN 8 s.core.frameCt
  | 0x000009 => leN 8 s.log.stamp
  | 0x00000A => leN 1 (s.core.op.code - 1)
  | 0x001002 => leN 8 s.dict.changes
  | 0x001004 => leN 8 s.dict.committed
  | 0x001005 => leN 4 s.dict.restoreKept
  | 0x001006 => s.bankDigest
  | 0x010001 => leN 1 s.dict.sessions.length
  | 0x010003 => leN 1 s.officerCreds
  | 0x010004 => leN 8 s.dict.dead
  | 0x010005 => s.dict.proposals.flatMap Proposal.bytes
  | 0x010006 => (match x with
      | some x => leN 4 x.id ++ leN 1 x.cred ++ leN 1 x.role ++ leN 1 (ifaceBit x.chan.iface) ++ zeros 1
      | none => zeros 8)
  | 0xA01006 => Config.meMac 0
  | 0xA01106 => Config.meMac 1
  | _ => s.val key

/-! ### Logbook, life cycle, monitors, power -/

/-- Sequence of the oldest entry in the ring. -/
def Log.oldest (l : Log) : Nat := l.head - l.entries.length

/-- `log.window` (R456). -/
def State.logWindow (s : State) : Bytes :=
  let l := s.log
  if l.winStart < l.oldest ∨ l.head ≤ l.winStart then []
  else ((l.entries.drop (l.winStart - l.oldest)).take 127).flatten

/-- The Logbook (R461). -/
def State.readLog (s : State) (key : Nat) : Bytes :=
  let l := s.log
  match key % 65536 with
  | 0x0001 => leN 8 l.head
  | 0x0002 => leN 8 l.acked
  | 0x0003 => leN 4 l.room
  | 0x0004 => leN 1 s.logState
  | 0x0007 => leN 8 l.unlogged
  | 0x0008 => leN 8 l.overwritten
  | 0x0101 => leN 8 l.winStart
  | 0x0102 => s.logWindow
  | 0x0201 => leN 8 l.ckptLast
  | 0x0202 => leN 1 (b2n l.owed)
  | 0x0203 => l.auditCert
  | 0x0204 => sha384 (Config.publicOf 0x11 s.auditKey)
  | 0x0302 => leN 8 l.stamp
  | 0x0303 => leN 4 l.discont
  | 0x0401 => Config.logCodes
  | _ => s.val key

/-- Life cycle and debug (R481). `debug.nonce` is read by DEBUG_NONCE_READ, which draws it. -/
def State.readLc (s : State) (key : Nat) : Bytes := match key % 65536 with
  | 0x0001 => leN 1 s.lcCode
  | 0x0003 => leN 1 (match s.lcMark with | some m => m.target | none => 0)
  | 0x0101 => s.debugNonce.getD (zeros 32)
  | 0x0103 => leN 1 s.lc.scopes.toNat
  | 0x0104 => leN 4 s.lc.epoch
  | 0x0105 => s.fuse.debugKey
  | _ => s.val key

/-- A FIFO entry as its 8 bytes (R502). -/
def FifoRec.bytes (r : FifoRec) : Bytes :=
  leN 5 r.secs ++ leN 1 r.mon ++ leN 1 (r.cls + 4 * b2n r.hold + 8 * b2n r.battery) ++ leN 1 r.count

/-- The code of a test result (R505). -/
def TestResult.code : TestResult → Nat
  | .none => 0 | .running => 1 | .pass => 2 | .fail => 3

/-- Monitors (R506). -/
def State.readMon (s : State) (key : Nat) : Bytes :=
  let m := s.mon
  match key % 65536 with
  | 0x0001 => leN 4 m.latched.toNat
  | 0x0002 => leN 4 m.active.toNat
  | 0x0005 => leN 1 m.testResult.code
  | 0x000A => leN 4 s.sup.holds
  | 0x000B => leN 4 s.sup.longest
  | 0x000C => m.fifoAtStart.flatMap FifoRec.bytes
  | 0x000D => leN 1 (b2n m.backupLost)
  | 0x000E => leN 1 (b2n m.rootLost)
  | k => if k / 256 = 1 then leN 4 (ofI32 (m.temps.getD (k % 256) 0)) else s.val key

/-- Position of a wake source in the ENUM of R549. -/
def WakeSource.code : WakeSource → Nat
  | .none => 0 | .hi => 1 | .timer => 2 | .perst => 3 | .alarm => 4

/-- Position of a reset cause in the ENUM of R549. -/
def ResetCause.code : ResetCause → Nat
  | .powerOn => 0 | .sysRst => 1 | .fwRestart => 2 | .trialExpired => 3 | .alarmClear => 4 | .cascade => 5 | .lcToken => 6
  | .refclkLoss => 7 | .wake => 8

/-- Power and clocks (R549). -/
def State.readPower (s : State) (key : Nat) : Bytes := match key % 256 with
  | 0x05 => leN 1 s.core.wakeLast.code
  | 0x06 => leN 1 s.core.resetCause.code
  | 0x07 => leN 8 s.core.starts
  | 0x08 => packBits 19 (fun d => s.pwr.gated.getLsbD d)
  | 0x09 => bytesOf s.pwr.vioSensed
  | 0x0A => leN 4 (ofI32 s.pwr.ppm)
  | 0x0B => leN 2 s.pwr.vinMv
  | _ => s.val key

/-- The attention tree (R516). -/
def State.readAtn (s : State) (key : Nat) : Bytes := match key with
  | 0xA02101 => leN 4 s.atnSummary
  | 0xA02102 => leN 4 s.atnRaw
  | _ => if key / 256 = 0xA022 then leN 2 (s.atn.cause.getD (key % 256) 0).toNat else s.val key

/-- The value that a read of an entry returns to a session, or outside any (R428, R432). -/
def State.readValue (s : State) (x : Option Sess) (key : Nat) : Bytes :=
  let i := key / 256
  if i < 0x1000 then s.readIdentity x key
  else if i < 0x1100 then s.readLc key
  else if i < 0x2000 then s.readFw key
  else if i < 0x2100 then s.readHalter key
  else if i < 0x2500 then s.readPort key
  else if i < 0x4000 then s.readPartner key
  else if i < 0x5000 then s.readTack key
  else if i < 0x5200 then s.readPads key
  else if i < 0x6000 then s.readPad key
  else if i < 0x7000 then s.readLanes key
  else if i < 0x7100 then s.readMon key
  else if i < 0x8000 then s.readPower key
  else if i < 0x9000 then s.readLog key
  else if i < 0xA000 then s.readCascade key
  else if i < 0xA020 then s.readIdentity x key
  else s.readAtn key

end Sys2Proof.Machine
end

