-- ==== Sys2Proof/Machine/Entries.lean ====
section
/-! DEFINITION. What each dictionary entry refuses (checks 5 and 6 of R431) and what a write of it does once it takes effect,
from the rules that the entry tables name. -/

namespace Sys2Proof.Machine

open Sys2Proof

/-! ### Rules of single entries -/

/-- The first opcodes of the rows of R127 with their classes (R136). -/
def firstOpcodes : List (Nat × Nat) := (0x01, 7) :: defaultAllow.map (fun r => (r.opcode, r.cls))

/-- One allow-list record in use (R136). -/
def allowRecOk (b : Bytes) : Bool :=
  firstOpcodes.contains (u8 b 0, u8 b 1) && u8 b 2 < 16 && u8 b 3 < 8 && allZero (slice b 4 4)

/-- The form of an allow-list (R136). -/
def allowListOk (v : Bytes) : Bool :=
  let recs := chunks 8 v
  let used := recs.takeWhile (fun b => u8 b 1 != 0)
  v.length == 256 && used.all allowRecOk && (recs.drop (used.length + 1)).all allZero

/-- The form of a policy record (R191). -/
def policyOk (v : Bytes) : Bool :=
  let kind := u8 v 0
  v.length == 128 && kind < 3 && u8 v 1 < 2 && u8 v 8 < 3 && u8 v 10 < 2 && allZero (slice v 11 5) && allZero (slice v 112 16) &&
    (kind == 0 || u8 v 9 == 0x12 || u8 v 9 == 0x13) && (kind != 2 || (u8 v 2 < 128 && allZero (slice v 3 5)))

/-- Two policy records in use have the same match key (R190). -/
def sameMatch (a b : Bytes) : Bool :=
  u8 a 0 != 0 && u8 a 0 == u8 b 0 && slice a 2 6 == slice b 2 6 && (u8 a 0 == 1 || u8 a 1 == u8 b 1)

/-- The form of a credential record (R419). -/
def credOk (v : Bytes) : Bool :=
  let role := u8 v 0
  v.length == 64 && role < 7 && allZero (slice v 4 12) &&
    (role == 0 || ((u8 v 1 == 1 || u8 v 1 == 2) && (if role = 6 then uLE v 2 2 < 288 else uLE v 2 2 == 0)))

/-- The limits of R420 on a credential write that would leave these records. -/
def State.credRange (s : State) (n : Nat) (v : Bytes) : Bool :=
  let recs := (List.range 32).map (fun k => if k = n then v else s.val (mkKey 0x0101 k))
  let officers := (recs.filter (fun r => u8 r 0 == 1)).length
  let same := u8 v 0 != 0 && (List.range 32).any (fun k => k != n &&
    (let r := s.val (mkKey 0x0101 k)
     u8 r 0 != 0 && slice r 16 48 == slice v 16 48))
  officers ≤ 8 && !same && (s.lcCode != 3 || 2 ≤ officers)

/-- The EID pool keeps clear of the values that R189 names. -/
def State.eidPoolOk (s : State) : Bool :=
  let own := s.valU (mkKey 0x3000 0x05)
  let base := s.valU (mkKey 0x3000 0x06)
  let size := s.valU (mkKey 0x3000 0x07)
  8 ≤ base && base + size ≤ 255 && !(base ≤ own && own < base + size)

/-- The downstream read that R132 judges a configuration by: the one that the flash found would be read with, or the mode
written with no clocks before its data; `none` where AUTO has no flash to choose from (log 43). -/
def State.judgedRead (s : State) (n : Nat) : Option DownRead :=
  let p := s.port n
  let cfg := s.valU (pKey n 0x09)
  let khz := s.valU (pKey n 0x0A)
  let plain : Option DownRead :=
    if cfg = 0 then none else some { mode := cfg, clocks := 0, khz := min khz (if cfg = 6 then 200000 else 133000) }
  if p.attached then (match chooseRead cfg khz p.reads with | some d => some d | none => plain) else plain

/-- A manifest by which R132 is judged has bytes that come from the flash (R130): the one served, or without one any of those
stored. -/
def State.flashUsed (s : State) (n : Nat) : Bool :=
  if (s.port n).serving.isSome then flashSourced (s.served n)
  else [Slot.a, .b, .r].any (fun x => flashSourced (s.manifest n x))

/-- R132 for a configuration as written. -/
def State.clockOk (s : State) (n : Nat) : Bool := match s.judgedRead n with
  | some d => s.rateOk n d (s.flashUsed n)
  | none => true

/-- R146: bases and sizes are whole 4 KiB pages, and slots A and B do not meet. -/
def State.slotsOk (s : State) (n : Nat) : Bool :=
  let a := s.slotBase n .a
  let b := s.slotBase n .b
  let z := s.slotSize n
  a % 4096 == 0 && b % 4096 == 0 && z % 4096 == 0 && !meets a z b z

/-- A slot by the number that `stile.portN.activate` gives it, 1 A, 2 B, 3 R (R172). -/
def slotOf (v : Nat) : Option Slot := if v = 1 then some .a else if v = 2 then some .b else if v = 3 then some .r else none

/-- A manifest write for a slot (R146 to R152, R174). The empty value is the entry's default. -/
def State.manifestRule (s : State) (n : Nat) (x : Slot) (v : Bytes) : Nat :=
  let trial := match s.portLedger n with | some l => l.trial == some x | none => false
  if (s.port n).serving = some x ∨ trial = true then stRange
  else if v.isEmpty then 0
  else s.manCheck n x v

/-- Rules of a port's entries (R132, R136, R145, R146, R172 to R175, R183). -/
def State.portRule (s : State) (key : Nat) (v : Bytes) : Nat :=
  let n := (key / 256 - 0x2100) / 256
  let w := ofLE v
  let range := fun (b : Bool) => if b then 0 else stRange
  let t := s.setVal key v
  match key / 256 % 256 * 256 + key % 256 with
  | 0x0007 => range (t.clockOk n)
  | 0x0008 => range (1000 ≤ w && w ≤ 200000 && t.clockOk n)
  | 0x0009 => range (t.clockOk n)
  | 0x000A => range (1000 ≤ w && w ≤ 200000 && t.clockOk n)
  | 0x000B => if v.length = 3 then 0 else stBadFormat
  | 0x000C => if allowListOk v then 0 else stBadFormat
  | 0x0101 => s.manifestRule n .a v
  | 0x0102 => s.manifestRule n .b v
  | 0x0103 => s.manifestRule n .r v
  | 0x0104 => range (t.slotsOk n)
  | 0x0105 => range (t.slotsOk n)
  | 0x0106 => range (t.slotsOk n)
  | 0x0109 =>
    let top := match s.portLedger n with
      | some l => (match l.active with | some x => l.sv x | none => 0)
      | none => 0
    range (s.valU (iKey n 0x09) ≤ w && w ≤ top)
  | 0x0209 => match slotOf w with
    | some x => range (s.portStaged n x)
    | none => stRange
  | 0x020A => range ((s.port n).trialServed && (s.port n).serving.isSome)
  | _ => 0

/-- Rules of the device-firmware entries (R82, R91, R94, R98). -/
def State.fwRule (s : State) (key : Nat) (v : Bytes) : Nat :=
  let w := ofLE v
  let range := fun (b : Bool) => if b then 0 else stRange
  match key with
  | 0x110005 =>
    let top := match s.ledger with
      | some l => (match l.active with | some .a => l.svnA | some _ => l.svnB | none => 0)
      | none => 0
    range (floorOf s.fuse.arbFloor ≤ w && w ≤ top)
  | 0x110006 => range (10 ≤ w && w ≤ 3600)
  | 0x110008 => range s.boot.trialFrom.isSome
  | 0x11000A => match s.ledger with
    | some l => range ((w == 1 && l.stA == .staged) || (w == 2 && l.stB == .staged))
    | none => stRange
  | _ => 0

/-- A key command of R247. -/
def keyCmdOf (v : Bytes) : KeyCmd :=
  { code := u8 v 0, method := u8 v 1, handle := uLE v 4 4, parent := uLE v 8 4, attrs := newKeyOf (slice v 12 20),
    timeout := uLE v 32 2, data := v.drop 64, req := .officer }

/-- The form of a key command (R7, R226, R247): 0, or the failing status. -/
def keyCmdForm (v : Bytes) : Nat :=
  let c := u8 v 0
  if v.length < 64 then stBadFormat
  else if c = 0 ∨ 8 < c then stBadOpcode
  else if uLE v 2 2 ≠ v.length - 64 ∨ !allZero (slice v 34 30) ∨ (c ≠ 3 ∧ u8 v 1 ≠ 0) ∨
      (c ≤ 3 ∧ (uLE v 4 4 ≠ 0 ∨ templateOk (slice v 12 20) = false)) then stBadFormat
  else 0

/-- Rules of the partner, Tack Room and Yard entries (R55, R61, R189 to R191, R206, R211, R242, R245, R247, R248, R302, R326). -/
def State.unitRule (s : State) (key : Nat) (v : Bytes) : Nat :=
  let w := ofLE v
  let range := fun (b : Bool) => if b then 0 else stRange
  let t := s.setVal key v
  match key with
  | 0x280001 => range (60 ≤ w && w ≤ 86400)
  | 0x280003 => range (w < 32)
  | 0x280004 => range (64 ≤ w && w ≤ 4096)
  | 0x300003 => range (8 ≤ w && w ≤ 0x77)
  | 0x300004 => range (8 ≤ w && w ≤ 0x77)
  | 0x300005 => range t.eidPoolOk
  | 0x300006 => range t.eidPoolOk
  | 0x300007 => range (64 ≤ w && w ≤ 128 && t.eidPoolOk)
  | 0x300008 => range (100 ≤ w && w ≤ 60000)
  | 0x300009 => range (w == 0 || (60 ≤ w && w ≤ 604800))
  | 0x30000A => range (w < 32)
  | 0x330001 => if v.isEmpty ∨ (Config.chainOk v && Config.chainLeaf v == Config.publicOf 0x11 s.deviceKey) = true then 0
                else stBadFormat
  | 0x400005 => if s.tack.srk.isSome then stRange else if w = 1 ∧ s.drbgFails = true then stEntropy else 0
  | 0x400006 =>
    let e := keyCmdForm v
    if e ≠ 0 then e else match s.keyPlan (keyCmdOf v) with
      | .ok _ => 0
      | .error e => e
  | 0x600101 => 0
  | 0x600001 => s.timetableCheck v
  | 0x600102 => if s.cas.role = .member then stRole else range (s.hasSheet w)
  | 0x604004 => range ((List.range 24).any (fun l => (s.lane (4 + l)).disabled))
  | _ =>
    if key / 256 = 0x3200 then
      if !policyOk v then stBadFormat
      else range (!(List.range 64).any (fun k => k != key % 256 && sameMatch v (s.val (mkKey 0x3200 k))))
    else if key / 256 = 0x4002 then range (w != 0 && s.tack.mono.getD (key % 256) 0 != 2 ^ 64 - 1)
    else 0

/-- A persistent run stands in the replica region (R405). -/
def State.replicaRegionHeld (s : State) : Bool := s.tack.keys.any (fun k => k.persistent && 30720 < k.slot + k.run)

/-- Rules of the paddock, cascade, life-cycle, monitor, power, Logbook and interface entries (R364, R394, R415, R420, R438,
R441, R456, R457, R461, R465 to R467, R476, R483, R488, R499, R506, R513, R543, R549). -/
def State.systemRule (s : State) (role key : Nat) (v : Bytes) : Nat :=
  let w := ofLE v
  let range := fun (b : Bool) => if b then 0 else stRange
  match key with
  | 0x001001 => if w = s.dict.changes then 0 else stStaleCommit
  | 0x010002 => range (60 ≤ w && w ≤ 86400)
  | 0x100002 => s.lcRequestCheck role v
  | 0x100004 => range s.lcCancelable
  | 0x100102 => s.debugTokenCheck v
  | 0x200001 => scheduleCheck v
  | 0x200005 => range (s.hal.st == .stopped)
  | 0x200105 => range (w < 32)
  | 0x500008 => range (50 ≤ w && w ≤ 50000)
  | 0x700003 => range (w < 2 ^ 24 && (BitVec.ofNat 24 w &&& s.mon.active) == 0)
  | 0x700004 => if 24 ≤ w ∨ s.mon.testEnd.isSome then stRange else if s.monConfig w % 4 = 3 ∧ role ≠ 1 then stRole else 0
  | 0x700006 => range (840 ≤ w && w ≤ 1700)
  | 0x700007 => range (600 ≤ i32 w && i32 w ≤ 1300)
  | 0x700008 => range (-580 ≤ i32 w && i32 w ≤ 0)
  | 0x700009 => range (10 ≤ w && w ≤ 3600)
  | 0x710001 => if w = 1 then s.sleepCheck else 0
  | 0x710003 => range (w ≤ 604800)
  | 0x800006 => range (2048 ≤ w && w ≤ 65536)
  | 0x800103 =>
    let n := uLE v 0 8
    if v.length ≠ 24 then stBadFormat
    else if n < s.log.acked ∨ s.log.head ≤ n then stRange
    else if slice v 8 16 ≠ h16 (s.log.entries.getD (n + s.log.entries.length - s.log.head) []) then stMismatch
    else 0
  | 0x900003 => range (!(w == 1 && s.replicaRegionHeld))
  | 0x900004 => if v.length = 384 then 0 else stBadFormat
  | 0x900005 => range (500 ≤ w && w ≤ 10000)
  | 0x900006 => range (1 ≤ w && w ≤ 4096)
  | 0x900007 => range (w % 2 == 0 && w < 16)
  | 0x900008 => range (w < 64)
  | 0x900009 => range (s.cas.role == .orphan)
  | 0x90000A => range (w == 0)
  | 0xA00001 => range (w < 64)
  | 0xA02301 => if v.length ≠ 4 ∨ u8 v 1 ≠ 0 then stBadFormat else range (u8 v 0 < 24)
  | _ =>
    if key / 256 = 0x0101 then if !credOk v then stBadFormat else range (s.credRange (key % 256) v)
    else if key / 256 = 0x7010 then
      let n := key % 256
      range (w < 32 && (n < 12 || w.testBit 3) && ((4 ≤ n && n < 12) || !w.testBit 4))
    else if key / 256 = 0xA010 ∨ key / 256 = 0xA011 then match key % 256 with
      | 3 => if v.length ≠ 0 ∧ v.length ≠ 17 then stBadFormat else range (u8 v 16 ≤ 128)
      | 4 => if v.length ≠ 0 ∧ v.length ≠ 5 then stBadFormat else range (u8 v 4 ≤ 32)
      | 5 => range (1024 ≤ w)
      | _ => 0
    else 0

/-- Check 5 of R431: the life-cycle limits of an entry (R206, R242), and the slot entries under a forced boot (R80). -/
def State.lifecycleRule (s : State) (key : Nat) : Nat :=
  if key = 0x330001 ∧ s.lcCode ≠ 2 then stLifecycle
  else if key = 0x400005 ∧ s.lcCode ≠ 2 ∧ s.lcCode ≠ 3 then stLifecycle
  else if (key = 0x110005 ∨ key = 0x110008 ∨ key = 0x11000A) ∧ s.bootSel ≠ 0 then stLifecycle
  else 0

/-- The length of an entry whose chapter gives its BYTES value a fixed one (R417). -/
def fixedLen (key : Nat) : Option Nat :=
  let i := key / 256
  if key = 0x200001 then some 1024
  else if key = 0x500001 then some 64
  else if key = 0x800103 then some 24
  else if key = 0x900004 then some 384
  else if key = 0xA02301 then some 4
  else if key = 0x100002 then some 128
  else if i = 0x0101 then some 64
  else if i = 0x3200 then some 128
  else if 0x2100 ≤ i ∧ i < 0x2500 ∧ i % 256 = 0 ∧ key % 256 = 0x0B then some 3
  else if 0x2100 ≤ i ∧ i < 0x2500 ∧ i % 256 = 0 ∧ key % 256 = 0x0C then some 256
  else none

/-- Checks 5 and 6 of R431: life cycle, a fixed length (R417), type, then the entry's own rules. -/
def State.entryCheck (s : State) (role key : Nat) (v : Bytes) : Nat :=
  match entryOf key with
  | none => stRange
  | some e =>
    if s.lifecycleRule key ≠ 0 then s.lifecycleRule key
    else if (match fixedLen key with | some n => v.length != n | none => false) = true then stBadFormat
    else if !e.ty.fits v then stType
    else
      let i := key / 256
      if 0x1100 ≤ i ∧ i < 0x1200 then s.fwRule key v
      else if 0x2100 ≤ i ∧ i < 0x2500 then s.portRule key v
      else if (0x2800 ≤ i ∧ i < 0x5000) ∨ (0x6000 ≤ i ∧ i < 0x7000) then s.unitRule key v
      else s.systemRule role key v

/-! ### Effects -/

/-- The step 5 record of R91: the running trial is confirmed and its watchdog stops (R94). -/
def State.confirmTrial (s : State) : State :=
  match s.boot.trialFrom with
  | none => s
  | some _ =>
    let x : Slot := if s.boot.slotB then .b else .a
    ((s.putLedger (fun l => { (l.setSt x .active).setSt (otherSlot x) .retired with active := some x, trial := none })).modBoot
      (fun b => { b with trialFrom := none })).latch 5 14

/-- The step 5 record of R171: the trial that a port serves is confirmed, and its window stops (R173). -/
def State.confirmPort (s : State) (n : Nat) : State :=
  match s.portLedger n with
  | none => s
  | some l => match l.trial with
    | none => s
    | some x =>
      let s := s.putPortLedger n (fun l => { (l.setSt x .active).setSt (if x = .a then .b else .a) .retired with
        active := some x, trial := none })
      let s := s.modPort n (fun p => { p with trialEnd := none, trialServed := false })
      (s.latch 5 11).ev 3 5 .portTrialConfirmed [n]

/-- A manifest takes effect: its slot becomes STAGED (R174), so that it is no longer the ACTIVE one (R167). The empty value
leaves the ledger as it is. -/
def State.manifestWritten (s : State) (n : Nat) (x : Slot) (v : Bytes) : State :=
  if v.isEmpty then s
  else (s.modPort n (fun p => { p with manOk := updAt p.manOk (slotSub x - 1) (fun _ => true) })).putPortLedger n
    (fun l => { (l.setSt x .staged).setMan x v with active := if l.active = some x then none else l.active })

/-- A Timetable image takes effect (R58): a loaded sheet stays active up to its round boundary, and a switch that waits is
discarded. -/
def State.timetableLoaded (s : State) (v : Bytes) : State :=
  let s := s.discardSwitch
  let s := s.modYard (fun y => { y with
    timetable := some (timetableOf v), leaving := if y.sheet = 0 then none else (y.leaving <|> y.timetable),
    loadDue := decide (y.sheet ≠ 0) })
  s.latch 0 12

/-- A Storage Root Key is generated, every LOST run is erased, and the hamper keys change with it (R242, R244, R267). -/
def State.srkGenerated (s : State) : State :=
  let d := s.draw 32
  let s := d.2.modTack (fun t => { t with srk := some d.1, srkCheck := srkCheckOf d.1 })
  ((s.tack.keys.filter (fun k => k.st == .lost)).foldl (fun s k => s.eraseKey k) s).deriveHampers

/-- A monotonic counter advances (R245): the status and the state. -/
def State.monoAdd (s : State) (n k : Nat) : Nat × State :=
  let v := s.tack.mono.getD n 0 + k
  let past := decide (2 ^ 64 - 1 < v)
  (if past then stRange else stOk, s.modTack (fun t => { t with mono := updAt t.mono n (fun _ => min v (2 ^ 64 - 1)) }))

/-- A pair check is queued on every disabled pair (R326). -/
def State.retestPairs (s : State) : State :=
  (List.range 24).foldl (fun s l =>
    if (s.lane (4 + l)).disabled ∧ s.devJobs.any (fun d => d.what == .pairCheck (4 + l)) = false then s.addDev (.pairCheck (4 + l)) else s) s

/-- The holds whose bits are written end (R103, R104). -/
def State.clearHolds (s : State) (w : Nat) : State :=
  let s := (List.range 4).foldl (fun s n => if w.testBit n then s.endPortHold n else s) s
  if w.testBit 4 then s.endAlarmHold else s

/-- The values of the stored entries in the working set (R437): credentials and everything else that differs from its
default. -/
def State.snapshot (s : State) : List (Nat × Bytes) :=
  s.dict.vals.filter (fun p => match entryOf p.1 with | some e => e.stored | none => false)

/-- A commit takes effect (R438). -/
def State.commit (s : State) : State :=
  (s.modDict (fun d => { (d.putBank s.snapshot) with committed := d.changes })).latch 22 7

/-- Effects of writes on the start, the Halter and the ports. -/
def State.applyPlatform (s : State) (key : Nat) (v : Bytes) : State :=
  let w := ofLE v
  match key with
  | 0x110005 => s.putLedger (fun l => { l with target := w })
  | 0x110008 => if w = 1 then s.confirmTrial else s
  | 0x11000A =>
    let x : Slot := if w = 2 then .b else .a
    s.putLedger (fun l => { l.setSt x .trial with trial := some x, count := 0 })
  | 0x11000B => if w = 1 then s.fullResetDue .fwRestart else s
  | 0x200005 => if w = 1 then s.resumeSchedule else s
  | 0x200105 => s.clearHolds w
  | _ =>
    let i := key / 256
    if i < 0x2100 ∨ 0x2500 ≤ i then s
    else
      let n := (i - 0x2100) / 256
      match i % 256 * 256 + key % 256 with
      | 0x0101 => s.manifestWritten n .a v
      | 0x0102 => s.manifestWritten n .b v
      | 0x0103 => s.manifestWritten n .r v
      | 0x0007 => s.advertise n
      | 0x0008 => s.advertise n
      | 0x0209 => match slotOf w with
        | some x => s.portActivate n x
        | none => s
      | 0x020A => if w = 1 then s.confirmPort n else s
      | 0x020B => if w = 1 then s.recoverAsk n else s
      | _ => s

/-- Effects of writes on the other units: the status and the state. -/
def State.applyUnit (s : State) (key : Nat) (v : Bytes) : Nat × State :=
  let w := ofLE v
  match key with
  | 0x001001 => (stOk, s.commit)
  | 0x100002 => (stOk, s.lcRequest v)
  | 0x100004 => (stOk, if w = 1 then s.putMark none else s)
  | 0x100102 => (stOk, (s.debugOpen v).endNonce)
  | 0x400005 => (stOk, if w = 1 then s.srkGenerated else s)
  | 0x400006 => s.runCommand (keyCmdOf v)
  | 0x600001 => (stOk, s.timetableLoaded v)
  | 0x600102 => (stOk, s.modYard (fun y => { y with pending := some w }))
  | 0x604004 => (stOk, if w = 1 then s.retestPairs else s)
  | 0x700003 => (stOk, s.clearMonitors (BitVec.ofNat 24 w))
  | 0x700004 => (stOk, s.beginTest w)
  | 0x710001 => (stOk, if w = 1 then s.modPwr (fun p => { p with sleepReq := true }) else s)
  | 0x800005 => (stOk, s.logLatches)
  | 0x800006 => (stOk, s.logLatches)
  | 0x900009 => (stOk, if w = 1 then s.promote else s)
  | 0xA02301 => (stOk, s.clearLeaves (u8 v 0) (BitVec.ofNat 16 (uLE v 2 2)))
  | _ =>
    let i := key / 256
    if i = 0x0101 then
      (stOk, (s.modDict (fun d => { d with endSess := d.endSess ++ [key % 256] })).latch 22 10)
    else if i = 0x3200 then (stOk, s.policyWritten (key % 256))
    else if i = 0x4002 then s.monoAdd (key % 256) w
    else if (i = 0xA010 ∨ i = 0xA011) ∧ key % 256 ≤ 5 then
      (stOk, s.modDict (fun d => { d with endConns := d.endConns ++ [i - 0xA010] }))
    else if i = 0xA020 then
      (stOk, s.modAtn (fun a => { a with dueEn := a.dueEn ++ [(key % 256, BitVec.ofNat 16 w)] }))
    else (stOk, s.applyPlatform key v)

/-- Clearing `cascade.acting_master` reaches the stored banks and performs a full reset (R413). -/
def State.clearActing (s : State) : State :=
  if s.valU (mkKey 0x9000 0x0A) = 1 then (s.storeNow (mkKey 0x9000 0x0A) [0]).fullResetDue .cascade else s

/-- The bookkeeping of a write that takes effect (R428, R437, R438): serial, working value, `dict.changes`. -/
def State.written (s : State) (key : Nat) (v : Bytes) : State :=
  let st := match entryOf key with | some e => e.stored | none => false
  let n := (getKey s.dict.serials key).getD 0
  (s.setVal key v).modDict (fun d => { d with
    serials := putKey d.serials key ((n + 1) % 65536), changes := if st then d.changes + 1 else d.changes })

/-- A checked write takes effect (R432): the status of its completion, and the state. -/
def State.applyEntry (s : State) (key : Nat) (v : Bytes) : Nat × State :=
  if key = 0x90000A then (stOk, (s.clearActing).written key v)
  else if key = 0x400009 then (stOk, (s.written key v).modTack (fun t => { t with inspect := ofLE v }))
  else (s.written key v).applyUnit key v

/-- The entries that a restore writes: stored ones but the credential records (R440). -/
def restoreKeys : List Nat := storedKeys.filter (fun k => k / 256 != 0x0101)

/-- A restore of defaults (R440): every stored entry whose rules take its default, in index order; the others are counted. -/
def State.restoreDefaults (s : State) : State :=
  let s := s.modDict (fun d => { d with restoreKept := 0 })
  let s := restoreKeys.foldl (fun s k =>
    if s.val k = dfltOf k then s
    else if s.entryCheck 1 k (dfltOf k) = 0 then (s.applyEntry k (dfltOf k)).2
    else s.modDict (fun d => { d with restoreKept := d.restoreKept + 1 })) s
  s.latch 22 9

end Sys2Proof.Machine
end

