-- ==== Sys2Proof/Machine/Changes.lean ====
section
/-! DEFINITION. Changes and the entries that they wait for (R14, R229, R230, R367, R431 to R436, R442 to R455, R458). -/

namespace Sys2Proof.Machine

open Sys2Proof

/-! ### The checks of a write (R431) -/

/-- The bit of a role code in a role mask (R418, R419). -/
def roleIn (mask role : Nat) : Bool := role != 0 && mask.testBit (role - 1)

/-- Check 1 of R431, and the vendor range of the index table. -/
def existCheck (role key : Nat) : Nat :=
  if 0xF000 ≤ key / 256 ∧ role ≠ 7 then stRole else if (entryOf key).isNone then stRange else 0

/-- `log.window.start` and `log.export.ack`, which are handled in every device state (R431, R433, R456, R457). -/
def exportEntry (key : Nat) : Bool := key == 0x800101 || key == 0x800103

/-- Check 4 of R431. -/
def State.heldCheck (s : State) (iface key : Nat) : Nat :=
  let i := key / 256
  if s.core.op = .alarmHalt ∧ key ≠ 0x700003 ∧ exportEntry key = false then stHeld
  else if (s.cas.role = .member ∨ s.cas.role = .orphan) ∧ 0x2000 ≤ i ∧ i < 0x4000 ∧ iface ≠ 9 then stRole
  else 0

/-- Another command's change of a slot waits for its entry (R230). -/
def State.slotDue (s : State) (slot : Nat) : Bool := s.log.due.any (fun d =>
  s.effSlot d.eff == some slot || (match d.eff with
    | .job id => (match s.job? id with | some j => j.keyA % 32768 == slot | none => false)
    | _ => false))

/-- A key command names a slot whose change waits for its entry: it is checked only against the result (R230). -/
def State.cmdLater (s : State) (key : Nat) (v : Bytes) : Bool :=
  key == 0x400006 && keyCmdForm v == 0 &&
    ((3 < u8 v 0 && s.slotDue (uLE v 4 4 % 32768)) || ((u8 v 0 == 2 || u8 v 0 == 3 || u8 v 0 == 8) && s.slotDue (uLE v 8 4 % 32768)))

/-- Checks 1 to 6 of R431 for a requester. -/
def State.writeCheck (s : State) (x : Sess) (key : Nat) (v : Bytes) : Nat :=
  match entryOf key with
  | none => existCheck x.role key
  | some e =>
    if e.write = 0 then stReadOnly
    else if !roleIn e.write x.role then stRole
    else if s.heldCheck x.chan.iface key ≠ 0 then s.heldCheck x.chan.iface key
    else if s.cmdLater key v then (if e.ty.fits v then 0 else stType)
    else s.entryCheck x.role key v

/-- Quorum applies to an officer's write (R421, R434, R465, R481). -/
def State.needsQuorum (s : State) (role key : Nat) : Bool := match entryOf key with
  | some e => e.quorum && role == 1 && s.lcCode != 2 && ((key != 0x100002 && key != 0x100004) || s.lcCode == 3)
  | none => false

/-! ### Where a request is answered -/

/-- A request is answered (R427, R430): on its session, or on the Cucen Link to the master that sent it (link message 11). -/
def State.finish (s : State) (d : LogDesc) (r : Reply) : State :=
  if 3 ≤ d.iface ∧ d.iface ≤ 8 then s.answer d.detail r
  else if d.iface = 9 then s.linkSend 8 11 (leN 2 d.detail ++ leN 2 r.status ++ leN 2 r.info ++ r.payload)
  else s

/-- A response that carries a status alone. -/
def plain (st : Nat) : Reply := { status := st, info := 0, payload := [] }

/-- Where a manager command's result goes: 0 the mailbox, k + 1 the session in slot k, 1001 and more the Cucen Link. -/
def mgrWho (sess : Option Nat) : Nat := match sess with
  | some k => k + 1
  | none => 0

/-! ### Proposals (R434 to R436) -/

/-- A live proposal whose expiry frame has not passed (R435). -/
def State.proposal? (s : State) (id : Nat) : Option Proposal :=
  s.dict.proposals.find? (fun p => p.id == id && s.now ≤ p.expiry)

/-- The object reference of a dictionary event (R449). -/
def dictRef (key target : Nat) : Nat := key / 256 + key % 256 * 65536 + target * 16777216

/-- The entry of a proposal that ends without effect: withdrawn or voided 0x0105, expired 0x0104 (R435, R436, R448). -/
def Proposal.endDesc (p : Proposal) (code : Nat) : LogDesc :=
  { iface := p.iface, detail := p.slot, role := 1, code := code, ref := dictRef p.key p.target, old := [], new := h8 p.value,
    mon := none, fixedStamp := none }

/-- A proposal leaves. -/
def State.dropProposal (s : State) (p : Proposal) : State :=
  (s.modDict (fun d => { d with proposals := d.proposals.filter (fun q => q.id != p.id) })).latch 22 6

/-- A proposal is voided by the logged one that takes its place (R436). -/
def State.endProposal (s : State) (p : Proposal) (code : Nat) : State := (s.dropProposal p).logEv (p.endDesc code)

/-- The limits of R436, for a proposal that voids those of the same entry. -/
def State.proposalRoom (s : State) (p : Proposal) : Bool :=
  let l := s.dict.proposals.filter (fun q => !(q.key == p.key && q.target == p.target))
  l.length < 16 && l.foldl (fun n q => n + q.value.length) p.value.length ≤ 4194304

/-- An ID that no live proposal holds (R434). -/
def Dict.freeProposal (d : Dict) : Nat :=
  let id := fun i => (d.nextProp - 1 + i) % 65535 + 1
  id (((List.range 17).find? (fun i => !d.proposals.any (fun p => p.id == id i))).getD 0)

/-! ### Entries of changes -/

/-- Attribute record of the key in a slot, before or after a key event (R450). -/
def State.slotHalf (s : State) (slot : Nat) : Bytes := keyHalf (s.tack.key? slot)

/-- The entry of a key command of an officer (R229, R448 to R450): the handle, and the record before and after. -/
def State.keyDesc (s : State) (d : LogDesc) (c : KeyCmd) : LogDesc :=
  let after := (s.runCommand c).2
  let h := if c.code ≤ 3 then uLE after.tack.result 4 4 else c.handle
  { d with code := 0x0200 + c.code, ref := h, old := if c.code ≤ 3 then [] else s.slotHalf (h % 32768),
           new := after.slotHalf (h % 32768) }

/-- The entry of a key job (R229, R447): the job's paddock is the origin. -/
def State.jobDesc (s : State) (j : Job) : LogDesc :=
  let d : LogDesc := { iface := 1, detail := j.pad, role := 0, code := 0x0200 + opKeyCode j.op, ref := j.keyA, old := [],
                       new := [], mon := none, fixedStamp := none }
  match j.newKey with
  | some k => match s.addKey k with
    | .ok (t, slot) => { d with ref := t.tack.handleOf slot, new := t.slotHalf slot }
    | .error _ => d
  | none => { d with old := s.slotHalf (j.keyA % 32768), new := (s.jobApply j.id).slotHalf (j.keyA % 32768) }

/-- The entry of a dictionary write (R448, R449, R452); that of a debug token holds scope bits (R477, log 117). `code` is 0x0101, or
0x0103 for an approval. -/
def State.entryDesc (s : State) (d : LogDesc) (code key : Nat) (v : Bytes) : LogDesc :=
  let w := { d with code := code, ref := dictRef key 0, old := h8 (s.readValue none key), new := h8 v }
  match key with
  | 0x001001 => { w with code := 0x0110 }
  | 0x001003 => if ofLE v = 1 then { w with code := 0x0111 } else w
  | 0x800301 => { w with code := 0x0F01, old := fit 8 (s.val key), new := fit 8 v }
  | 0x400006 => s.keyDesc d (keyCmdOf v)
  | 0x100102 => { w with old := h8 (leN 1 s.lc.scopes.toNat), new := h8 (leN 1 (u8 v 5)) }
  | _ => w

/-- The entry that a change writes. -/
def State.fullDesc (s : State) (d : LogDesc) (e : Effect) : LogDesc := match e with
  | .none => d
  | .entry key v _ => s.entryDesc d 0x0101 key v
  | .propose p => { d with code := 0x0102, ref := dictRef p.key p.target, new := h8 p.value }
  | .approve id _ => match s.proposal? id with
    | some p => if p.target = 0 then s.entryDesc d 0x0103 p.key p.value
                else { d with code := 0x0103, ref := dictRef p.key p.target, new := h8 p.value }
    | none => d
  | .remote t key v _ => { d with code := 0x0101, ref := dictRef key t, new := h8 v }
  | .job id => match s.job? id with
    | some j => s.jobDesc j
    | none => d
  | .manager c _ => { d with code := 0x0400 + u8 c 0, ref := uLE c 2 2 }
  | .withdraw p code => p.endDesc code

/-- The check that a change takes again when its entry is about to be written (R230, R435): 0 or the failing status. -/
def State.effCheck (s : State) (d : LogDesc) (e : Effect) : Nat := match e with
  | .none => 0
  | .entry key v _ => if s.heldCheck d.iface key ≠ 0 then s.heldCheck d.iface key else s.entryCheck d.role key v
  | .propose p => if s.proposalRoom p then 0 else stRange
  | .approve id _ => match s.proposal? id with
    | none => stRange
    | some p => if p.target ≠ 0 then 0
                else if s.heldCheck d.iface p.key ≠ 0 then s.heldCheck d.iface p.key else s.entryCheck 1 p.key p.value
  | .remote _ _ _ _ => 0
  | .job id => match s.job? id with
    | some j => s.jobCheck j
    | none => 0
  | .manager c _ => s.mgrCheck c
  | .withdraw p _ => if s.dict.proposals.any (fun q => q.id == p.id) then 0 else stRange

/-- What a refused value of some entries leaves behind: the refusal of an image is logged (R51), a stale commit latches
(R514), a key command leaves its status in `tack.result` (R247), a debug token spends its nonce (R476), and a sleep command
that loses to an alarm of its frame is logged (R22). -/
def State.refusedValue (s : State) (key : Nat) (v : Bytes) (e : Nat) : State := match key with
  | 0x600001 => (s.latch 0 12).ev 1 8 .timetableRefused [e]
  | 0x001001 => if e = stStaleCommit then s.latch 22 8 else s
  | 0x400006 => s.modTack (fun t => { t with result := tackResult e 0 [] })
  | 0x100102 => if s.tokenSpends v then s.endNonce else s
  | 0x710001 => if e = stHeld ∧ s.haltLatched ∧ s.mon.due ≠ 0 then s.ev 10 8 .sleepRefused [s.core.op.code] else s
  | _ => s

/-- A change that does not take effect: its requester gets the status. A refused value leaves what a refusal leaves (R51, R247). -/
def State.effFail (s : State) (d : LogDesc) (e : Effect) (st : Nat) : State := match e with
  | .none => s
  | .job id => s.endJob id st (s.now + 1)
  | .manager c w => s.mgrRefuse c (mgrWho w) st
  | .entry key v _ => (if st = stLogFull then s else s.refusedValue key v st).finish d (plain st)
  | .approve id _ => (if st = stLogFull then s else match s.proposal? id with
      | some p => if p.target = 0 then s.refusedValue p.key p.value st else s
      | none => s).finish d (plain st)
  | .withdraw _ code => if code = 0x0105 then s.finish d (plain st) else s
  | _ => s.finish d (plain st)

/-- A write takes effect (R432, R438, R440). -/
def State.takeWrite (s : State) (key : Nat) (v : Bytes) : Nat × State :=
  let r := s.applyEntry key v
  if key = 0x001003 ∧ ofLE v = 1 then (stOk, r.2.restoreDefaults) else r

/-- A request is forwarded to a stack member (R430): link message 12. -/
def State.sendRemote (s : State) (target key : Nat) (v : Bytes) : State := s.linkSend (target % 8) 12 (leN 4 key ++ v)

/-- A change takes effect in the frame in which its entry is written (R14, R432). -/
def State.effApply (s : State) (d : LogDesc) (e : Effect) : State := match e with
  | .none => s
  | .entry key v _ =>
    let r := s.takeWrite key v
    r.2.finish d (plain r.1)
  | .propose p =>
    let s := (s.dict.proposals.filter (fun q => q.key == p.key && q.target == p.target)).foldl
      (fun s q => s.endProposal q 0x0105) s
    let id := s.dict.freeProposal
    let s := s.modDict (fun d => { d with
      proposals := d.proposals ++ [{ p with id := id, expiry := s.now + 600000000 }], nextProp := id % 65535 + 1 })
    (s.latch 22 4).finish d { status := stQuorumPending, info := id, payload := [] }
  | .approve id _ => match s.proposal? id with
    | none => s
    | some p =>
      let s := (s.modDict (fun d => { d with proposals := d.proposals.filter (fun q => q.id != id) })).latch 22 5
      if p.target ≠ 0 then (s.sendRemote p.target p.key p.value).finish d (plain stOk)
      else
        let r := s.takeWrite p.key p.value
        r.2.finish d (plain r.1)
  | .remote t key v ans => (s.sendRemote t key v).finish d ans
  | .job id => (s.jobApply id).modTack (fun t => { t with cmdsThisFrame := t.cmdsThisFrame + 1 })
  | .manager c w => s.mgrApply c (mgrWho w)
  | .withdraw p code => if code = 0x0105 then (s.dropProposal p).finish d (plain stOk) else s.dropProposal p

/-- A withdrawal or an expiry, which the Logbook's policy does not stop (R433, R435): its entry is written as an event is. -/
def Effect.always : Effect → Bool
  | .withdraw _ _ => true
  | _ => false

/-- A key command of R226, of which eight are performed in a frame (R230, log 129). -/
def Effect.isKey : Effect → Bool
  | .job _ => true
  | .entry key _ _ => key == 0x400006
  | _ => false

/-- A change writes its entry and takes effect, or fails the check that it takes again. -/
def State.writeChange (s : State) (d : LogDesc) (e : Effect) : State :=
  let st := s.effCheck d e
  if st ≠ 0 then s.effFail d e st
  else
    let full := s.fullDesc d e
    (if e.always then s.writeEvent full else s.ringPut (fun l => l.entryBytes full)).effApply d e

/-! ### Writing entries (R444) -/

/-- Entries wait: MRAM writes are deferred in a supply hold, a halted steward writes nothing, and a checkpoint is being signed
(R230, R455, R480). In OFF, in BOOTING and with the device powered down nothing is written either. -/
def State.logBlocked (s : State) : Bool :=
  s.sup.hold || s.pwr.halted || s.log.signing.isSome ||
    !(s.core.op.powered || (s.core.op == .deepSleep && !s.pwr.poweredDown))

/-- The summary of R458 is to be written before anything else. -/
def State.summaryDue (s : State) : Bool := 0 < s.log.unlogged && s.logState != 2

/-- A job whose change waits still wants it: a job that was aborted or cancelled has gone. -/
def State.stillWanted (s : State) (e : Effect) : Bool := match e with
  | .job id => (match s.job? id with | some j => j.waitsLog | none => false)
  | _ => true

/-- Write what is due, up to four entries in a frame; `fuel` bounds the entries looked at (R444, R458). -/
def State.writeDue : Nat → State → State
  | 0, s => s
  | n + 1, s =>
    if s.logBlocked ∨ 4 ≤ s.log.written then s
    else if s.summaryDue then State.writeDue n s.summarise
    else match s.log.due with
      | [] => s
      | d :: rest =>
        let drop := fun (s : State) => s.modLog (fun l => { l with due := rest })
        if d.eff = .none then State.writeDue n ((drop s).writeEvent d.desc)
        else if !s.stillWanted d.eff then State.writeDue n (drop s)
        else if s.logState ≠ 0 ∧ !d.eff.always then State.writeDue n ((drop s).effFail d.desc d.eff stLogFull)
        else if d.eff.isKey ∧ 8 ≤ s.tack.cmdsThisFrame then s
        else State.writeDue n ((drop s).writeChange d.desc d.eff)

/-- A requested change (R14, R431 check 8, R433): refused by the Logbook, written in this frame, or waiting for its turn. -/
def State.logChange (s : State) (d : LogDesc) (e : Effect) : State :=
  if s.logState ≠ 0 ∧ !e.always then s.effFail d e stLogFull
  else if s.logBlocked ∨ 4 ≤ s.log.written ∨ s.summaryDue ∨ s.log.due.isEmpty = false ∨ (e.isKey ∧ 8 ≤ s.tack.cmdsThisFrame)
    then s.logDueAdd d e
  else s.writeChange d e

/-- A key job asks for its change once its service has ended (R229, R349). -/
def State.askJob (s : State) (id : Nat) : State := match s.job? id with
  | some j => if j.waitsLog then s.logChange (s.jobDesc j) (.job id) else s
  | none => s

/-- LOG_ENTRY_WRITE (R444). -/
def execLogEntryWrite (s : State) : Res :=
  let s := s.fresh
  .next (State.writeDue (s.log.due.length + 1) s)

/-- CHECKPOINT_DUE (R455): after 1,022 entries, or with a checkpoint owed since the start, its signing is queued. -/
def execCheckpointDue (s : State) : Res :=
  let s := s.fresh
  .next (if !s.core.op.powered ∨ (s.log.sinceCkpt < 1022 ∧ !s.log.owed) ∨ s.devJobs.any (fun d => d.what == .checkpoint) then s
    else
      let s := (s.modLog (fun l => { l with owed := true })).addDev .checkpoint
      if !s.ckptRoom ∨ s.drbgFails then s.latch 2 12 else s)

/-- CHECKPOINT_WRITTEN (R454, R455): the signing has ended, and the pair is written in one frame. -/
def execCheckpointWritten (s : State) : Res :=
  let s := s.fresh
  .next (match s.log.signing with
    | none => s
    | some body =>
      if !s.devEnded .checkpoint ∨ s.sup.hold ∨ s.pwr.halted ∨ 2 < s.log.written ∨ !s.ckptRoom then s
      else (s.dropDev .checkpoint).writeCheckpoint body)

/-! ### Writes and approvals -/

/-- The change that a requester's write asks for: a proposal where quorum applies, which for a stack member is kept on the
master (R430, R434). -/
def State.askWrite (s : State) (x : Sess) (key : Nat) (v : Bytes) : State :=
  let d := x.desc 0 0 [] []
  if s.needsQuorum x.role key ∧ x.chan.iface ≠ 9 then
    let p : Proposal := { id := 0, key := key, target := 0, value := v, cred := x.cred, keyDig := x.keyDig, slot := x.slot,
                          iface := x.chan.iface, expiry := 0 }
    if !s.proposalRoom p then s.finish d (plain stRange) else s.logChange d (.propose p)
  else s.logChange d (.entry key v x.cred)

/-- A manager command from the mailbox or a session (R364 to R367): one that is no change is always performed and logged as
an event. -/
def State.askManager (s : State) (d : LogDesc) (sess : Option Nat) (c : Bytes) : State :=
  let who := mgrWho sess
  let e := s.mgrCheck c
  let code := u8 c 0
  if e ≠ 0 then s.mgrRefuse c who e
  else if code = 3 ∨ code = 5 ∨ code = 8 then
    (s.logEv { d with code := 0x0400 + code, ref := uLE c 2 2 }).mgrApply c who
  else s.logChange d (.manager c sess)

/-- The export entries take their values at once (R456, R457): an acknowledgement is logged in the room that it frees. -/
def State.writeExport (s : State) (x : Sess) (key : Nat) (v : Bytes) : State :=
  let s := s.written key v
  let n := uLE v 0 8
  let s := if key = 0x800101 then s.modLog (fun l => { l with winStart := n })
    else ((s.modLog (fun l => { l with acked := n + 1 })).logLatches.latch 22 15).logEv (x.desc 0x0F04 0 (leN 8 n) [])
  s.finish (x.desc 0 0 [] []) (plain stOk)

/-- The C0 programme that a value needs before it can take effect: the signature check of a manifest (R152), or, with C2 slots too, the
generation of an officer's key pair (R226, log 109), a curve load (R318) or the subgroup check of a public key (R320). Lattice pair or
PK pair, C2 slots, frames. -/
def State.valueProgramme (s : State) (key : Nat) (v : Bytes) : Option (Bool × Bool × Nat) :=
  let i := key / 256
  let n := (i - 0x2100) / 256
  if 0x2100 ≤ i ∧ i < 0x2500 ∧ i % 256 = 1 ∧ 1 ≤ key % 256 ∧ key % 256 ≤ 3 ∧ !v.isEmpty ∧ manStruct v n ∧ s.manRange n v then
    some (uLE v 14 2 == 2, false, ownerFrames (uLE v 14 2))
  else if key = 0x400006 ∧ keyCmdForm v = 0 ∧ u8 v 0 = 1 then
    let c := keyCmdOf v
    let t := c.attrs.typ
    let h := uLE c.data 132 4
    if c.data.isEmpty ∧ isGenPriv t then some (decide (0x40 ≤ t), true, s.genFrames t 0)
    else if t = 0x50 ∧ c.data.length = keyLen t then some (false, true, 4000)
    else if (t == 0x29 && (s.curveAt h).any (fun p => decide (1 < curveH p))) = true then
      some (false, true, s.ecdhFrames 6 h)
    else none
  else none

/-- A write whose other checks pass, or fail on what the programme finds, waits for its programme. -/
def State.programmeFor (s : State) (key : Nat) (v : Bytes) (e : Nat) : Option (Bool × Bool × Nat) :=
  if e = 0 ∨ (e = stImageInvalid ∧ key ≠ 0x400006) ∨ (key = 0x400006 ∧ (e = stParamRejected ∨ e = stPointInvalid)) then
    s.valueProgramme key v
  else none

/-- A write that has passed what it waits for (R431). -/
def State.writeReady (s : State) (x : Sess) (key : Nat) (v : Bytes) : State :=
  let e := s.writeCheck x key v
  if e ≠ 0 then (s.refusedValue key v e).finish (x.desc 0 0 [] []) (plain e) else s.askWrite x key v

/-- A write or a WRITE_END by a requester (R431). One that needs a C0 programme is answered when the programme has ended (R152). -/
def State.writeValue (s : State) (x : Sess) (key : Nat) (v : Bytes) : State :=
  let d := x.desc 0 0 [] []
  if key = 0x500001 then
    let e := if !roleIn 0x10 x.role then stRole else if s.heldCheck x.chan.iface key ≠ 0 then s.heldCheck x.chan.iface key
             else if v.length ≠ 64 then stBadFormat else 0
    if e ≠ 0 then s.finish d (plain e) else (s.written key v).askManager d (some (if x.chan.iface = 9 then 1000 + x.slot else x.slot)) v
  else
    let e := s.writeCheck x key v
    let quorum := s.needsQuorum x.role key && x.chan.iface != 9
    match s.programmeFor key v e with
    | some (lattice, c2, frames) =>
      if c2 && quorum then s.askWrite x key v else s.addDev (.pair lattice c2 frames (.write x key v))
    | none =>
      if e ≠ 0 then (s.refusedValue key v e).finish d (plain e)
      else if exportEntry key then s.writeExport x key v
      else if key = 0x001001 ∧ ofLE v = s.dict.committed then s.finish d (plain stOk)
      else s.askWrite x key v

/-- An approval that has passed what it waits for takes the write through its checks again (R435). -/
def State.approveReady (s : State) (x : Sess) (id : Nat) : State :=
  let d := x.desc 0 0 [] []
  match s.proposal? id with
  | none => s.finish d (plain stRange)
  | some p =>
    let e := s.effCheck d (.approve id x.cred)
    if e ≠ 0 then (s.refusedValue p.key p.value e).finish d (plain e)
    else s.logChange d (.approve id x.cred)

/-- An APPROVE by a requester (R435); a value that needs a C0 programme waits for it (R152, R226). -/
def State.approveBy (s : State) (x : Sess) (id : Nat) (digest : Bytes) : State :=
  let d := x.desc 0 0 [] []
  match s.proposal? id with
  | none => s.finish d (plain stRange)
  | some p =>
    if x.role ≠ 1 ∨ x.cred = p.cred ∨ x.keyDig = p.keyDig then s.finish d (plain stRole)
    else if digest ≠ sha384 p.value then s.finish d (plain stMismatch)
    else match (if p.target = 0 then s.programmeFor p.key p.value (s.effCheck d (.approve id x.cred)) else none) with
      | some (lattice, c2, frames) => s.addDev (.pair lattice c2 frames (.approve x id digest))
      | none => s.approveReady x id

/-- A WITHDRAW by a requester (R433, R436): its entry is written before it takes effect (R14, R442). -/
def State.withdrawBy (s : State) (x : Sess) (id : Nat) : State :=
  let d := x.desc 0 0 [] []
  match s.proposal? id with
  | none => s.finish d (plain stRange)
  | some p => if x.cred ≠ p.cred then s.finish d (plain stRole)
              else s.logChange d (.withdraw { p with slot := x.slot, iface := x.chan.iface } 0x0105)

end Sys2Proof.Machine
end

