-- ==== Sys2Proof/Machine/Sessions.lean ====
section
/-! DEFINITION. Dictionary sessions and their operations (R422 to R436, R475). -/

namespace Sys2Proof.Machine

open Sys2Proof

/-! ### Channels -/

/-- The bit of `iface.dict.transports` for an interface code (R422). -/
def dictBit (iface : Nat) : Option Nat :=
  if iface = 4 then some 0 else if iface = 5 then some 1 else if iface = 6 then some 2 else if iface = 3 then some 3
  else if iface = 7 then some 4 else if iface = 8 then some 5 else none

/-- Dictionary messages are handled on a transport: the stewards serve, its bit is set, and it is up (R17, R422, R424). -/
def State.dictOn (s : State) (iface : Nat) : Bool :=
  s.serving && (match dictBit iface with
    | some b => (s.valU (mkKey 0xA000 0x01)).testBit b
    | none => false) &&
  (if iface = 3 then s.pwr.link && s.dmb.busy else if iface = 4 then s.pwr.link
   else if iface = 7 then s.valU (mkKey 0xA010 0x01) == 1 else if iface = 8 then s.valU (mkKey 0xA011 0x01) == 1 else true)

/-- A protected channel is up (R422): an established SPDM session, or a DTLS connection. -/
def State.channelUp (s : State) (c : Chan) : Bool :=
  if c.iface = 7 ∨ c.iface = 8 then s.dict.conns.any (fun x => 7 + x.port == c.iface && x.id == c.id)
  else s.par.sessions.any (fun x => x.established && x.id == c.id && transportIface x.transport == c.iface)

/-- A dictionary message is discarded (R422, R426, R427). -/
def State.dictDiscard (s : State) : State :=
  ((s.modDict (fun d => { d with dead := d.dead + 1 })).latch 22 13).emit .discard

/-- A message on a transport that takes none is discarded; one on IC0 or IC1, written here as interfaces 13 and 14, is
counted (R422). -/
def State.dictOff (s : State) (iface : Nat) : State :=
  let s := s.emit .discard
  if iface = 13 ∨ iface = 14 then s.lateMctp.latch 22 14 else if iface = 3 then s.mboxDiscard else s

/-- Traffic on a channel holds off its idle time (R423, R426). -/
def State.touch (s : State) (x : Sess) : State :=
  (s.modSession x.slot (fun y => { y with lastAt := s.now })).modDict (fun d => { d with
    conns := d.conns.map (fun c => if 7 + c.port = x.chan.iface ∧ c.id = x.chan.id then { c with lastAt := s.now } else c) })

/-! ### Requests -/

/-- A request on a session (R426, R427): one on a session that is not live, or that comes while the previous request is being
handled, is discarded; a repeated sequence gets the stored response; any other sequence but the next is refused. -/
def State.request (s : State) (r : Req) (op : Nat) (f : State → Sess → State) : State :=
  if !s.serving then s
  else match s.dict.sessions.find? (fun x => x.id == r.sid) with
    | none => s.dictDiscard
    | some x =>
      if !s.dictOn x.chan.iface then s.dictOff x.chan.iface
      else if x.busy then s.dictDiscard
      else
        let s := s.touch x
        if x.role = 0 then s.sendReply x.chan op r.seq x.id (plain stRole)
        else match x.lastReply, decide (r.seq = x.lastSeq) with
          | some old, true => s.sendReply x.chan x.lastOp x.lastSeq x.id old
          | _, _ =>
            if r.seq ≠ (x.lastSeq + 1) % 65536 then s.sendReply x.chan op r.seq x.id (plain stBadFormat)
            else
              let s := s.modSession x.slot (fun y => { y with busy := true, lastSeq := r.seq, lastOp := op, lastReply := none })
              f s { x with busy := true, lastSeq := r.seq, lastOp := op, lastReply := none, lastAt := s.now }

/-- Answer the request of a session. -/
def State.reply (s : State) (x : Sess) (r : Reply) : State := s.answer x.slot r

/-- A request with an approval by another officer in the same step, once its proposal is live (R434, R435). -/
def State.withApproval (s : State) (r : Req) (op : Nat) (f : State → Sess → State) : State :=
  let t := s.request r op f
  match r.approver, t.dict.sessions.find? (fun x => x.id == r.sid) with
  | some b, some x => match x.lastReply, t.dict.sessions.find? (fun y => y.id == b) with
    | some rep, some y =>
      if rep.status = stQuorumPending then match t.proposal? rep.info with
        | some p => t.request { sid := b, seq := (y.lastSeq + 1) % 65536, approver := none } 0x20
            (fun s z => s.approveBy z p.id (sha384 p.value))
        | none => t
      else t
    | _, _ => t
  | _, _ => t

/-- A write of a value on a session, as WRITE does it; the staging buffer is cleared (R429). -/
def State.writeRow (s : State) (r : Req) (key : Nat) (v : Bytes) : State :=
  s.withApproval r 0x11 (fun s x => (s.modSession x.slot (fun y => { y with staging := none })).writeValue x key v)

/-- A value of `n` bytes from a number; one that does not fit gets a length that its type refuses. -/
def encN (n v : Nat) : Bytes := if v < 256 ^ n then leN n v else leN (n + 1) v

/-! ### Opening and closing -/

/-- A free session slot: one whose closing entry still waits is not free (R447). -/
def State.freeSessSlot (s : State) : Option Nat :=
  (List.range 32).find? (fun k => !s.dict.sessions.any (fun x => x.slot == k) &&
    !s.log.due.any (fun d => d.desc.code == 0x0302 && d.desc.detail == k))

/-- DICT_OPEN (R425, R426): a nonce and a session ID. -/
def execDictOpen (ch : Chan) (cred : Nat) (s : State) : Res :=
  let s := s.fresh
  .next (if !s.serving then s
    else if !s.dictOn ch.iface then s.dictOff ch.iface
    else if !s.channelUp ch then s.emit .discard
    else if s.dict.sessions.any (fun x => x.chan == ch) then (s.latch 22 12).sendReply ch 1 0 0 (plain stRange)
    else match s.freeSessSlot with
      | none => (s.latch 22 12).sendReply ch 1 0 0 (plain stRange)
      | some slot =>
        if s.drbgFails then s.sendReply ch 1 0 0 (plain stEntropy)
        else
          let d := s.draw 32
          let i := d.2.freshId 4 (fun v => v == 0 || d.2.dict.sessions.any (fun x => x.id == v) || recent s.now s.dict.ended v)
            (33 + s.dict.ended.length)
          let x : Sess := { slot := slot, id := i.1, chan := ch, cred := cred, role := 0, keyDig := [], nonce := d.1, lastSeq := 0,
                            lastOp := 1, lastReply := none, busy := false, staging := none, lastAt := s.now }
          let s := i.2.modDict (fun d => { d with sessions := d.sessions ++ [x] })
          s.sendReply ch 1 0 0 { status := stOk, info := 0, payload := d.1 ++ leN 4 i.1 })

/-- The role that a key gives under a credential index, 0 where it gives none (R418 to R421, R462). -/
def State.authRole (s : State) (cred : Nat) (key : Bytes) : Nat :=
  let h := sha384 key
  if cred < 32 then
    let rec_ := s.val (mkKey 0x0101 cred)
    if (s.lcCode = 2 ∨ s.lcCode = 3) ∧ slice rec_ 16 48 = h ∧ key.length = ownerKeyLen (u8 rec_ 1) then u8 rec_ 0 else 0
  else if cred = 0xFE then
    if s.lcCode = 2 ∧ (h = s.fuse.owner0 ∨ h = s.fuse.owner1) ∧ key.length = ownerKeyLen s.fuse.ownerAlg.toNat then 1 else 0
  else if cred = 0xFF then
    if (s.lcCode = 1 ∨ s.lcCode = 4) ∧ (key.length = 96 ∨ key.length = 1952) ∧
        (List.range 4).any (fun k => s.fuse.vendorDigest.getD k [] == h && !s.fuse.revoked k) = true then 7 else 0
  else 0

/-- The message that AUTH signs (R425). -/
def authMessage (binding nonce : Bytes) (sid cred : Nat) : Bytes :=
  ascii "EV7100-DICT-OPEN" ++ binding ++ nonce ++ leN 4 sid ++ leN 1 cred

/-- The channel binding (R425): TH2 of an SPDM session; the exporter value of a DTLS connection comes from outside. -/
def State.binding (s : State) (c : Chan) (given : Bytes) : Bytes :=
  match s.par.sessions.find? (fun x => x.id == c.id && transportIface x.transport == c.iface) with
  | some x => x.th2
  | none => given

/-- A channel ends by the device's own decision (R425). -/
def State.dropChannel (s : State) (c : Chan) : State :=
  let s := (s.par.sessions.filter (fun x => x.id == c.id && transportIface x.transport == c.iface)).foldl (fun s x => s.endSpdm x) s
  (s.dict.conns.filter (fun x => 7 + x.port == c.iface && x.id == c.id)).foldl (fun s x => s.endDtls x) s

/-- AUTH fails, for a reason it does not tell; the third failure ends the channel (R425). -/
def State.authFails (s : State) (x : Sess) (seq : Nat) : State :=
  let s := (s.latch 22 2).logEv (x.desc 0x0303 x.id [] [])
  let s := s.sendReply x.chan 2 seq x.id (plain stRole)
  let n := match s.dict.authFails.find? (fun a => a.1 == x.chan) with | some a => a.2 + 1 | none => 1
  let s := s.modDict (fun d => { d with authFails := d.authFails.filter (fun a => a.1 != x.chan) ++ [(x.chan, n)] })
  if 3 ≤ n then (s.dropChannel x.chan).latch 22 3 else s

/-- The session of an AUTH or of a request that waits still lives; one that came over the Cucen Link is not held here. -/
def State.sessLives (s : State) (x : Sess) : Bool := x.chan.iface == 9 || s.dict.sessions.any (fun y => y.slot == x.slot && y.id == x.id)

/-- The signature of an AUTH has been checked (R425). -/
def State.authDone (s : State) (x : Sess) (seq : Nat) (key : Bytes) (ok : Bool) : State :=
  let role := s.authRole x.cred key
  if role = 0 ∨ !ok then (s.modSession x.slot (fun y => { y with busy := false })).authFails x seq
  else
    let s := s.modSession x.slot (fun y => { y with
      role := role, keyDig := sha384 key, lastSeq := 0, lastOp := 2, busy := false,
      lastReply := if seq = 0 then some (plain stOk) else none })
    let s := (s.latch 22 0).logEv ({ x with role := role }.desc 0x0301 x.id [] [])
    s.sendReply x.chan 2 seq x.id (plain stOk)

/-- DICT_AUTH (R425, R427): the signature check is a C0 programme. Where the device state or the active sheet, as sheet 0 does, gives
it no slot, the stewards check it themselves (log 110). -/
def execDictAuth (r : Req) (key sig : Bytes) (binding : Bytes) (s : State) : Res :=
  let s := s.fresh
  .next (if !s.serving then s
    else match s.dict.sessions.find? (fun x => x.id == r.sid) with
      | none => s.dictDiscard
      | some x =>
        if x.role ≠ 0 then s.request r 2 (fun s x => s.reply x (plain stRole))
        else if !s.dictOn x.chan.iface then s.dictOff x.chan.iface
        else if x.busy then s.dictDiscard
        else
          let s := s.touch x
          let alg := if key.length = 96 then 1 else 2
          let ok := ownerVerify alg key (authMessage (s.binding x.chan binding) x.nonce x.id x.cred) sig
          if s.authRole x.cred key = 0 then s.authFails x r.seq
          else if s.core.op.working ∧ s.classOn (if alg = 1 then .pk else .lattice) 0 then
            (s.modSession x.slot (fun y => { y with busy := true })).addDev
              (.pair (alg == 2) false (ownerFrames alg) (.auth x r.seq key ok))
          else s.authDone x r.seq key ok)

/-- DICT_CLOSE (R426, R429). -/
def execDictClose (r : Req) (s : State) : Res :=
  let s := s.fresh
  .next (s.request r 3 (fun s x => (s.reply x (plain stOk)).endSession x))

/-- DICT_SESSION_IDLE (R423, R426): a session, or a DTLS connection, has been idle for `role.session.idle_s`. -/
def execDictSessionIdle (sid : Nat) (conn : Bool) (s : State) : Res :=
  let s := s.fresh
  let idle := s.valU (mkKey 0x0100 0x02) * secFrames
  .next (if !s.serving then s
    else if conn then match s.dict.conns.find? (fun c => c.id == sid && decide (c.lastAt + idle ≤ s.now)) with
      | some c => s.endDtls c
      | none => s
    else match s.dict.sessions.find? (fun x => x.id == sid) with
      | some x => if x.lastAt + idle ≤ s.now ∧ x.busy = false then s.endSession x else s
      | none => s)

/-! ### Reading -/

/-- The payload of a READ: the offset, in bytes 4 to 7 the length of the whole value, then value bytes from the offset, as many as the
payload holds (R428, R429, log 57). -/
def readPart (v : Bytes) (off : Nat) : Bytes := leN 4 off ++ leN 4 v.length ++ (v.drop off).take 8168

/-- Serial of a value (R428). -/
def State.serial (s : State) (key : Nat) : Nat := (getKey s.dict.serials key).getD 0

/-- Checks 1 and 3 of R431 on a read. -/
def readCheck (role key : Nat) : Nat := match entryOf key with
  | none => existCheck role key
  | some e => if roleIn e.read role then 0 else stRole

/-- A READ on a session (R431). Reading `debug.nonce` draws a fresh one (R475). -/
def State.readOn (s : State) (x : Sess) (key off : Nat) : State :=
  let d := x.desc 0 0 [] []
  let e := readCheck x.role key
  if e ≠ 0 then s.finish d (plain e)
  else if key = 0x100101 then
    if s.drbgFails then s.finish d (plain stEntropy)
    else
      let n := s.draw 32
      let s := n.2.modLc (fun l => { l with nonce := some (n.1, s.now) })
      s.finish d { status := stOk, info := s.serial key, payload := readPart n.1 off }
  else s.finish d { status := stOk, info := s.serial key, payload := readPart (s.readValue (some x) key) off }

/-- DICT_READ (R422, R429): session ID 0 is a read outside any session, of index 0x0000 alone. -/
def execDictRead (ch : Chan) (r : Req) (index sub off : Nat) (s : State) : Res :=
  let s := s.fresh
  let key := mkKey index sub
  .next (if r.sid ≠ 0 then s.request r 0x10 (fun s x => s.readOn x key off)
    else if !s.serving then s
    else if !s.dictOn ch.iface then s.dictOff ch.iface
    else if index ≠ 0 then s.sendReply ch 0x10 r.seq 0 (plain stRole)
    else if (entryOf key).isNone then s.sendReply ch 0x10 r.seq 0 (plain stRange)
    else s.sendReply ch 0x10 r.seq 0
      { status := stOk, info := s.serial key, payload := readPart (s.readValue none key) off })

/-- DEBUG_NONCE_READ (R475): a READ of `debug.nonce`. -/
def execDebugNonceRead (r : Req) (s : State) : Res :=
  let s := s.fresh
  .next (s.request r 0x10 (fun s x => s.readOn x 0x100101 0))

/-! ### Writing -/

/-- DICT_WRITE (R429, R431). -/
def execDictWrite (r : Req) (index sub : Nat) (value : Bytes) (s : State) : Res :=
  let s := s.fresh
  .next (s.writeRow r (mkKey index sub) value)

/-- Bytes of a session's staging buffer (R429). -/
def stagingSize : Nat := 3145728

/-- Bytes staged for an entry. -/
def Sess.staged (x : Sess) (key : Nat) : Bytes := match x.staging with
  | some (k, b) => if k = key then b else []
  | none => []

/-- WRITE_PART (R429): a part beyond the buffer completes with `ST_RANGE` (log 45). -/
def execWritePart (r : Req) (index sub off : Nat) (data : Bytes) (s : State) : Res :=
  let s := s.fresh
  let key := mkKey index sub
  .next (s.request r 0x12 (fun s x =>
    let b := x.staged key
    if stagingSize < off + data.length then (s.modSession x.slot (fun y => { y with staging := some (key, b) })).reply x (plain stRange)
    else
      let b := fit (max b.length off) b
      (s.modSession x.slot (fun y => { y with staging := some (key, b.take off ++ data ++ b.drop (off + data.length)) })).reply x
        (plain stOk)))

/-- WRITE_END (R429, R431). -/
def execWriteEnd (r : Req) (index sub total : Nat) (digest : Bytes) (s : State) : Res :=
  let s := s.fresh
  let key := mkKey index sub
  let b := match s.dict.sessions.find? (fun x => x.id == r.sid) with | some x => x.staged key | none => []
  .next (s.withApproval r 0x13 (fun s x =>
    let s := s.modSession x.slot (fun y => { y with staging := none })
    if total ≠ b.length then s.reply x (plain stLengthMismatch)
    else if digest ≠ sha384 b then s.reply x (plain stMismatch)
    else s.writeValue x key b))

/-! ### Quorum -/

/-- APPROVE (R435). -/
def execApprove (r : Req) (id : Nat) (digest : Bytes) (s : State) : Res :=
  let s := s.fresh
  .next (s.request r 0x20 (fun s x => s.approveBy x id digest))

/-- WITHDRAW (R433, R436). -/
def execWithdraw (r : Req) (id : Nat) (s : State) : Res :=
  let s := s.fresh
  .next (s.request r 0x21 (fun s x => s.withdrawBy x id))

/-- PROPOSAL_EXPIRY (R435): at the boundary that ends its expiry frame; its entry is written first (R442). -/
def execProposalExpiry (id : Nat) (s : State) : Res :=
  let s := s.fresh
  .next (match s.dict.proposals.find? (fun p => p.id == id) with
    | some p => if p.expiry < s.now ∧ !s.log.due.any (fun d => d.eff == .withdraw p 0x0104) then
        s.logChange (p.endDesc 0x0104) (.withdraw p 0x0104) else s
    | none => s)

/-! ### Stack members (R430) -/

/-- A REMOTE request on the master (R412, R430): carried to the member, whose response is `answer`; quorum is kept here, and a
write is logged here as the request. -/
def State.remoteMaster (s : State) (x : Sess) (target op key : Nat) (v : Bytes) (answer : Option Reply) : State :=
  let d := x.desc 0 0 [] []
  let ans := answer.getD (plain stPeerLost)
  if s.cas.role ≠ .master then s.finish d (plain stRole)
  else if op = 0x20 then s.approveBy x (uLE v 0 2) (slice v 2 48)
  else if op = 0x21 then s.withdrawBy x (uLE v 0 2)
  else if op = 1 ∨ op = 2 ∨ op = 3 then s.finish d (plain stBadFormat)
  else if op ≠ 0x10 ∧ op ≠ 0x11 ∧ op ≠ 0x12 ∧ op ≠ 0x13 then s.finish d (plain stBadOpcode)
  else if !s.members.contains target then s.finish d (plain stPeerLost)
  else if op = 0x10 ∨ op = 0x12 then (s.sendRemote target key v).finish d ans
  else
    let e := match entryOf key with
      | none => existCheck x.role key
      | some e => if e.write = 0 then stReadOnly else if !roleIn e.write x.role then stRole else 0
    if e ≠ 0 then s.finish d (plain e)
    else if s.needsQuorum x.role key then
      let p : Proposal := { id := 0, key := key, target := 8 + target, value := v, cred := x.cred, keyDig := x.keyDig,
                            slot := x.slot, iface := x.chan.iface, expiry := 0 }
      if !s.proposalRoom p then s.finish d (plain stRange) else s.logChange d (.propose p)
    else s.logChange d (.remote (8 + target) key v ans)

/-- A request that the master carries to this member (R430): `detail` is the origin detail of R447, `role` the role of the
master's session. -/
def State.remoteMember (s : State) (detail role op key : Nat) (v : Bytes) : State :=
  let x : Sess := { slot := detail, id := 0, chan := { iface := 9, id := 0 }, cred := 0xFF, role := role, keyDig := [], nonce := [],
                    lastSeq := 0, lastOp := op, lastReply := none, busy := true, staging := none, lastAt := s.now }
  if op = 0x10 then s.readOn x key (uLE v 0 4)
  else if op = 0x11 ∨ op = 0x13 then s.writeValue x key v
  else s.finish (x.desc 0 0 [] []) (plain stBadOpcode)

/-- REMOTE_REQUEST (R430): `role` 0 is a request on a session of this device; any other is the role that the master sends with
a request to this member. -/
def execRemoteRequest (r : Req) (target op index sub : Nat) (value : Bytes) (role : Nat) (answer : Option Reply) (s : State) : Res :=
  let s := s.fresh
  let key := mkKey index sub
  .next (if role = 0 then s.withApproval r op (fun s x => s.remoteMaster x target op key value answer)
    else if s.serving ∧ s.cas.role = .member ∧ target = s.pwr.cascadeId.toNat ∧ role < 8 then
      s.remoteMember (r.sid % 4096) role op key value
    else s)

end Sys2Proof.Machine
end

