-- ==== Sys2Proof/Machine/JobRows.lean ====
section
/-! DEFINITION. The end of each service's last step (R253 to R264, R295, R302 to R323, R331 to R355), and the dispatch and
completion of jobs (R44, R45, R381, R382). `id` is the job's acceptance number. A row whose job is not at that point has no
effect (log 11); a job that changes keys then asks for its change (R229, R349). -/

namespace Sys2Proof.Machine

open Sys2Proof

/-- The key checks of a job that takes no step: those of the curve that it names, and those of the key that it changes. -/
def State.noStepCheck (s : State) (j : Job) : Nat := match s.checkNeeds true j.world j.maskArg j.needs with
  | .error e => e
  | .ok _ => if 4 ≤ opKeyCode j.op ∧ opKeyCode j.op ≤ 7 then s.jobCheck { j with newKey := none } else 0

/-- A job that takes no step is performed once it has been ready for a frame (R349): after its key checks, with `ST_LENGTH_MISMATCH`
where its source ended early (R334). -/
def State.performNow (s : State) (op id : Nat) (f : State → Job → Ending) : State :=
  match s.job? id with
  | none => s
  | some j =>
    if s.noStepReady j op then
      let e := s.noStepCheck j
      s.settle id (if e ≠ 0 then bare e else if j.short then bare stLengthMismatch else f s j)
    else s

/-- PIN_TRANSLATE (R333, R337, R339). -/
def execPinTranslate (id : Nat) (s : State) : Res :=
  let s := s.fresh
  .next (s.endPlain 0x10 id true Job.pinTranslate)

/-- PIN_VERIFY (R340, R341). -/
def execPinVerify (id : Nat) (s : State) : Res :=
  let s := s.fresh
  .next (s.endPlain 0x11 id true Job.pinVerify)

/-- DUKPT_PIN_TRANSLATE (R342 to R344). -/
def execDukptPinTranslate (id : Nat) (s : State) : Res :=
  let s := s.fresh
  .next (s.endPlain 0x12 id true Job.dukptTranslate)

/-- PIN_CHECK_VALUE (R340). -/
def execPinCheckValue (id : Nat) (s : State) : Res :=
  let s := s.fresh
  .next (s.endPlain 0x13 id true Job.pinCheckValue)

/-- MAC_GENERATE (R345). -/
def execMacGenerate (id : Nat) (s : State) : Res :=
  let s := s.fresh
  .next (s.endPlain 0x20 id true Job.macGenerate)

/-- MAC_VERIFY (R345). -/
def execMacVerify (id : Nat) (s : State) : Res :=
  let s := s.fresh
  .next (s.endPlain 0x21 id true Job.macVerify)

/-- CRYPTOGRAM_VERIFY (R346 to R348). -/
def execCryptogramVerify (id : Nat) (s : State) : Res :=
  let s := s.fresh
  .next (s.endPlain 0x28 id true Job.cryptogram)

/-- CRYPTOGRAM_VERIFY_RESPOND (R346 to R348). -/
def execCryptogramVerifyRespond (id : Nat) (s : State) : Res :=
  let s := s.fresh
  .next (s.endPlain 0x29 id true Job.cryptogramRespond)

/-- KEY_GENERATE (R349). -/
def execKeyGenerate (id : Nat) (s : State) : Res :=
  let s := s.fresh
  .next ((s.endWith 0x30 id true State.generateEnd).askJob id)

/-- KEY_PAIR_GENERATE (R312, R349). -/
def execKeyPairGenerate (id : Nat) (agree : Bool) (s : State) : Res :=
  let s := s.fresh
  .next ((s.endWith 0x31 id agree State.pairEnd).askJob id)

/-- KEY_IMPORT (R239, R349). -/
def execKeyImport (id : Nat) (s : State) : Res :=
  let s := s.fresh
  .next ((s.endWith 0x32 id true State.importEnd).askJob id)

/-- KEY_IMPORT_WRAPPED (R241, R349). -/
def execKeyImportWrapped (id : Nat) (s : State) : Res :=
  let s := s.fresh
  .next ((s.endWith 0x33 id true State.importWrappedEnd).askJob id)

/-- KEY_EXPORT (R239, R349). -/
def execKeyExport (id : Nat) (s : State) : Res :=
  let s := s.fresh
  .next ((s.endWith 0x34 id true State.exportEnd).askJob id)

/-- KEY_DERIVE (R349, R351). -/
def execKeyDerive (id : Nat) (s : State) : Res :=
  let s := s.fresh
  .next ((s.endWith 0x35 id true State.deriveEnd).askJob id)

/-- KEY_REVOKE (R232, R349). -/
def execKeyRevoke (id : Nat) (s : State) : Res :=
  let s := s.fresh
  .next ((s.performNow 0x36 id (fun _ _ => bare stOk)).askJob id)

/-- KEY_ERASE (R231, R349). -/
def execKeyErase (id : Nat) (s : State) : Res :=
  let s := s.fresh
  .next ((s.performNow 0x37 id (fun _ _ => bare stOk)).askJob id)

/-- KEY_REWRITE (R235, R349). -/
def execKeyRewrite (id : Nat) (s : State) : Res :=
  let s := s.fresh
  .next ((s.endPlain 0x38 id true (fun _ => bare stOk)).askJob id)

/-- KEY_DRAIN (R236, R349). -/
def execKeyDrain (id : Nat) (s : State) : Res :=
  let s := s.fresh
  .next ((s.performNow 0x39 id (fun _ _ => bare stOk)).askJob id)

/-- KCV (R289, R349). -/
def execKcv (id : Nat) (s : State) : Res :=
  let s := s.fresh
  .next (s.endWith 0x3A id true State.kcvEnd)

/-- KEY_STORE_PUBLIC (R318 to R320, R349). -/
def execKeyStorePublic (id : Nat) (agree : Bool) (s : State) : Res :=
  let s := s.fresh
  .next (((s.endWith 0x3B id agree State.storeEnd).performNow 0x3B id State.storeEnd).askJob id)

/-- DIGEST (R253). -/
def execDigest (id : Nat) (s : State) : Res :=
  let s := s.fresh
  .next (s.endPlain 0x40 id true Job.digestEnd)

/-- HMAC (R253). -/
def execHmacJob (id : Nat) (s : State) : Res :=
  let s := s.fresh
  .next (s.endPlain 0x41 id true Job.digestEnd)

/-- DIGEST_COMPARE (R253, R255). -/
def execDigestCompare (id : Nat) (s : State) : Res :=
  let s := s.fresh
  .next (s.endPlain 0x42 id true Job.compareEnd)

/-- HMAC_COMPARE (R253, R255). -/
def execHmacCompare (id : Nat) (s : State) : Res :=
  let s := s.fresh
  .next (s.endPlain 0x43 id true Job.compareEnd)

/-- OPEN (R254, R259). -/
def execOpenStream (id : Nat) (s : State) : Res :=
  let s := s.fresh
  .next (s.endPlain 0x44 id true Job.openEnd)

/-- OPEN_KEYED (R254, R260). -/
def execOpenKeyed (id : Nat) (s : State) : Res :=
  let s := s.fresh
  .next (s.endPlain 0x45 id true Job.openEnd)

/-- UPDATE (R254, R259). -/
def execUpdate (id : Nat) (s : State) : Res :=
  let s := s.fresh
  .next (s.endStep 0x46 id true State.updateEnd)

/-- FINAL (R254, R264). -/
def execFinal (id : Nat) (s : State) : Res :=
  let s := s.fresh
  .next (s.endStep 0x47 id true State.finalEnd)

/-- FINAL_COMPARE (R254, R255). -/
def execFinalCompare (id : Nat) (s : State) : Res :=
  let s := s.fresh
  .next (s.endStep 0x48 id true State.finalCompareEnd)

/-- ABANDON (R254). -/
def execAbandon (id : Nat) (s : State) : Res :=
  let s := s.fresh
  .next (s.endStep 0x49 id true State.abandonEnd)

/-- SIGN (R307 to R310, R321). -/
def execSign (id : Nat) (agree : Bool) (s : State) : Res :=
  let s := s.fresh
  .next (s.endPlain 0x50 id agree Job.sign)

/-- VERIFY (R307 to R310, R315). -/
def execVerify (id : Nat) (agree : Bool) (s : State) : Res :=
  let s := s.fresh
  .next (s.endPlain 0x51 id agree (fun j => bare j.verifyOne))

/-- BATCH_VERIFY (R313, R354), for one part of a batch: `id` is the part's own number. -/
def execBatchVerify (id : Nat) (agree : Bool) (s : State) : Res :=
  let s := s.fresh
  .next (s.endPlain 0x52 id agree (fun j => bare j.verifyOne))

/-- ECDH (R311, R353). -/
def execEcdh (id : Nat) (agree : Bool) (s : State) : Res :=
  let s := s.fresh
  .next ((s.endWith 0x53 id agree State.ecdhEnd).askJob id)

/-- ENCAPSULATE_RETURN (R310, R353). -/
def execEncapsulateReturn (id : Nat) (agree : Bool) (s : State) : Res :=
  let s := s.fresh
  .next (s.endWith 0x54 id agree State.encapEnd)

/-- ENCAPSULATE_AES (R310, R353). -/
def execEncapsulateAes (id : Nat) (agree : Bool) (s : State) : Res :=
  let s := s.fresh
  .next ((s.endWith 0x55 id agree State.encapEnd).askJob id)

/-- ENCAPSULATE_HMAC (R310, R353). -/
def execEncapsulateHmac (id : Nat) (agree : Bool) (s : State) : Res :=
  let s := s.fresh
  .next ((s.endWith 0x56 id agree State.encapEnd).askJob id)

/-- DECAPSULATE_AES (R310, R353). -/
def execDecapsulateAes (id : Nat) (agree : Bool) (s : State) : Res :=
  let s := s.fresh
  .next ((s.endWith 0x57 id agree State.decapEnd).askJob id)

/-- DECAPSULATE_HMAC (R310, R353). -/
def execDecapsulateHmac (id : Nat) (agree : Bool) (s : State) : Res :=
  let s := s.fresh
  .next ((s.endWith 0x58 id agree State.decapEnd).askJob id)

/-- RANDOM (R355). -/
def execRandom (id : Nat) (s : State) : Res :=
  let s := s.fresh
  .next (s.endPlain 0x70 id true Job.randomEnd)

/-- JOB_DISPATCH (R44, R45, R221): a free lane takes what its sheet entry names. `hamper` is what the read of an exported
context brings (R267). -/
def execJobDispatch (lane : Nat) (hamper : Bytes) (s : State) : Res :=
  let s := s.fresh
  .next (if s.core.op.working ∧ lane < 92 ∧ s.sup.hold = false then ((s.dispatchLane lane (some hamper)).sweepSteps s.devJobs).loadLanes else s)

/-- JOB_COMPLETE (R381, R382). -/
def execJobComplete (id : Nat) (s : State) : Res :=
  let s := s.fresh
  .next (match s.job? id with
    | some j => if s.completes j then s.complete j else s
    | none => s)

end Sys2Proof.Machine
end

