-- ==== Sys2Proof/Machine/Requests.lean ====
section
/-! DEFINITION. Writes of the entries that the command table names, each as the WRITE of that entry on a session, and the
paddock manager's commands from the mailbox or a session (R247, R364 to R368, R390 to R393, R429 to R432). -/

namespace Sys2Proof.Machine

open Sys2Proof

/-- The 64-byte header of a key command with its code, and the data that follows it (R247). -/
def keyValue (code : Nat) (header data : Bytes) : Bytes := leN 1 code ++ (fit 64 header).drop 1 ++ data

/-- The mailbox executes the command in `MGR_CMD` (R364). -/
def State.mgrMailbox (s : State) (c : Bytes) : State :=
  (s.modPci (fun p => { p with mgrCmd := c, mgrBusy := true })).askManager
    { iface := 2, detail := 0, role := 5, code := 0, ref := 0, old := [], new := [], mon := none, fixedStamp := none } none c

/-- A manager command (R364, R365): from the mailbox when it is free, or as a write on a session. -/
def State.manage (s : State) (via : Via) (code : Nat) (cmd : Bytes) : State :=
  let c := leN 1 code ++ (fit 64 cmd).drop 1
  match via with
  | .session r => s.writeRow r 0x500001 c
  | .mailbox => if !s.serving ∨ !s.pwr.link ∨ s.pci.mgrBusy then s else s.mgrMailbox c

/-- FW_ACTIVATE (R91). -/
def execFwActivate (r : Req) (slot : Nat) (s : State) : Res :=
  let s := s.fresh
  .next (s.writeRow r 0x11000A (encN 1 slot))

/-- FW_CONFIRM (R94). -/
def execFwConfirm (r : Req) (v : Nat) (s : State) : Res :=
  let s := s.fresh
  .next (s.writeRow r 0x110008 (encN 1 v))

/-- FW_RESTART (R98). -/
def execFwRestart (r : Req) (v : Nat) (s : State) : Res :=
  let s := s.fresh
  .next (s.writeRow r 0x11000B (encN 1 v))

/-- FW_FLOOR_REQUEST (R82). -/
def execFwFloorRequest (r : Req) (target : Nat) (s : State) : Res :=
  let s := s.fresh
  .next (s.writeRow r 0x110005 (encN 1 target))

/-- TIMETABLE_LOAD (R51). -/
def execTimetableLoad (r : Req) (image : Bytes) (s : State) : Res :=
  let s := s.fresh
  .next (s.writeRow r 0x600001 image)

/-- SHEET_SWITCH_REQUEST (R55). -/
def execSheetSwitchRequest (r : Req) (sheet : Nat) (s : State) : Res :=
  let s := s.fresh
  .next (s.writeRow r 0x600102 (encN 1 sheet))

/-- HALTER_SCHEDULE_WRITE (R113). -/
def execHalterScheduleWrite (r : Req) (value : Bytes) (s : State) : Res :=
  let s := s.fresh
  .next (s.writeRow r 0x200001 value)

/-- HALTER_RESUME (R111). -/
def execHalterResume (r : Req) (v : Nat) (s : State) : Res :=
  let s := s.fresh
  .next (s.writeRow r 0x200005 (encN 1 v))

/-- HALTER_HOLD_CLEAR (R103). -/
def execHalterHoldClear (r : Req) (v : Nat) (s : State) : Res :=
  let s := s.fresh
  .next (s.writeRow r 0x200105 (encN 1 v))

/-- STILE_ACTIVATE (R172). -/
def execStileActivate (r : Req) (port slot : Nat) (s : State) : Res :=
  let s := s.fresh
  .next (s.writeRow r (lKey port 0x09) (encN 1 slot))

/-- STILE_CONFIRM (R173). -/
def execStileConfirm (r : Req) (port v : Nat) (s : State) : Res :=
  let s := s.fresh
  .next (s.writeRow r (lKey port 0x0A) (encN 1 v))

/-- STILE_RESTART (R181). -/
def execStileRestart (r : Req) (port v : Nat) (s : State) : Res :=
  let s := s.fresh
  .next (s.writeRow r (lKey port 0x0B) (encN 1 v))

/-- MANIFEST_WRITE (R174): slots 1 A, 2 B, 3 R. -/
def execManifestWrite (r : Req) (port slot : Nat) (value : Bytes) (s : State) : Res :=
  let s := s.fresh
  .next (s.writeRow r (iKey port slot) value)

/-- STILE_FLOOR_WRITE (R175). -/
def execStileFloorWrite (r : Req) (port v : Nat) (s : State) : Res :=
  let s := s.fresh
  .next (s.writeRow r (iKey port 0x09) (encN 2 v))

/-- SLOT_BASE_WRITE (R146): items 4 and 5 the bases, 6 the size. -/
def execSlotBaseWrite (r : Req) (port item v : Nat) (s : State) : Res :=
  let s := s.fresh
  .next (s.writeRow r (iKey port item) (encN 4 v))

/-- STILE_CLOCK_CONFIG_WRITE (R132). -/
def execStileClockConfigWrite (r : Req) (port item v : Nat) (s : State) : Res :=
  let s := s.fresh
  .next (s.writeRow r (pKey port item) (encN (if item = 7 ∨ item = 9 then 1 else 4) v))

/-- CREATE (R226, R247). -/
def execCreate (r : Req) (header data : Bytes) (s : State) : Res :=
  let s := s.fresh
  .next (s.writeRow r 0x400006 (keyValue 1 header data))

/-- IMPORT (R226, R239, R247). -/
def execImport (r : Req) (header data : Bytes) (s : State) : Res :=
  let s := s.fresh
  .next (s.writeRow r 0x400006 (keyValue 2 header data))

/-- DERIVE (R226, R247). -/
def execDerive (r : Req) (header data : Bytes) (s : State) : Res :=
  let s := s.fresh
  .next (s.writeRow r 0x400006 (keyValue 3 header data))

/-- REVOKE (R226, R232). -/
def execRevoke (r : Req) (header : Bytes) (s : State) : Res :=
  let s := s.fresh
  .next (s.writeRow r 0x400006 (keyValue 4 header []))

/-- ERASE (R226, R231). -/
def execErase (r : Req) (header : Bytes) (s : State) : Res :=
  let s := s.fresh
  .next (s.writeRow r 0x400006 (keyValue 5 header []))

/-- REWRITE (R226, R235). -/
def execRewrite (r : Req) (header : Bytes) (s : State) : Res :=
  let s := s.fresh
  .next (s.writeRow r 0x400006 (keyValue 6 header []))

/-- DRAIN (R226, R236). -/
def execDrain (r : Req) (header : Bytes) (s : State) : Res :=
  let s := s.fresh
  .next (s.writeRow r 0x400006 (keyValue 7 header []))

/-- EXPORT (R226, R241). -/
def execExport (r : Req) (header : Bytes) (s : State) : Res :=
  let s := s.fresh
  .next (s.writeRow r 0x400006 (keyValue 8 header []))

/-- SRK_GENERATE (R242). -/
def execSrkGenerate (r : Req) (v : Nat) (s : State) : Res :=
  let s := s.fresh
  .next (s.writeRow r 0x400005 (encN 1 v))

/-- MONO_INC (R245). -/
def execMonoInc (r : Req) (n k : Nat) (s : State) : Res :=
  let s := s.fresh
  .next (s.writeRow r (mkKey 0x4002 n) (encN 4 k))

/-- PK_RETEST (R326). -/
def execPkRetest (r : Req) (v : Nat) (s : State) : Res :=
  let s := s.fresh
  .next (s.writeRow r 0x604004 (encN 1 v))

/-- ATN_CLEAR_ENTRY (R513). -/
def execAtnClearEntry (r : Req) (value : Bytes) (s : State) : Res :=
  let s := s.fresh
  .next (s.writeRow r 0xA02301 value)

/-- ATN_ENABLE_ENTRY (R512). -/
def execAtnEnableEntry (r : Req) (g v : Nat) (s : State) : Res :=
  let s := s.fresh
  .next (s.writeRow r (mkKey 0xA020 g) (encN 2 v))

/-- ME_PORT_CONFIG_WRITE (R441). -/
def execMePortConfigWrite (r : Req) (port item : Nat) (value : Bytes) (s : State) : Res :=
  let s := s.fresh
  .next (s.writeRow r (mkKey (0xA010 + port) item) value)

/-- POLICY_RECORD_WRITE (R196). -/
def execPolicyRecordWrite (r : Req) (k : Nat) (value : Bytes) (s : State) : Res :=
  let s := s.fresh
  .next (s.writeRow r (mkKey 0x3200 k) value)

/-- OWNER_CERT_WRITE (R206). -/
def execOwnerCertWrite (r : Req) (value : Bytes) (s : State) : Res :=
  let s := s.fresh
  .next (s.writeRow r 0x330001 value)

/-- CREDENTIAL_WRITE (R420). -/
def execCredentialWrite (r : Req) (n : Nat) (value : Bytes) (s : State) : Res :=
  let s := s.fresh
  .next (s.writeRow r (mkKey 0x0101 n) value)

/-- DICT_COMMIT (R438). -/
def execDictCommit (r : Req) (v : Nat) (s : State) : Res :=
  let s := s.fresh
  .next (s.writeRow r 0x001001 (encN 8 v))

/-- RESTORE_DEFAULTS (R440). -/
def execRestoreDefaults (r : Req) (v : Nat) (s : State) : Res :=
  let s := s.fresh
  .next (s.writeRow r 0x001003 (encN 1 v))

/-- LOG_EXPORT_ACK (R457). -/
def execLogExportAck (r : Req) (value : Bytes) (s : State) : Res :=
  let s := s.fresh
  .next (s.writeRow r 0x800103 value)

/-- LOG_WINDOW_START_WRITE (R456). -/
def execLogWindowStartWrite (r : Req) (v : Nat) (s : State) : Res :=
  let s := s.fresh
  .next (s.writeRow r 0x800101 (encN 8 v))

/-- LOG_TIME_EPOCH_WRITE (R452). -/
def execLogTimeEpochWrite (r : Req) (v : Nat) (s : State) : Res :=
  let s := s.fresh
  .next (s.writeRow r 0x800301 (encN 8 v))

/-- LOG_POLICY_WRITE (R458). -/
def execLogPolicyWrite (r : Req) (v : Nat) (s : State) : Res :=
  let s := s.fresh
  .next (s.writeRow r 0x800005 (encN 1 v))

/-- MON_CLEAR (R488). -/
def execMonClear (r : Req) (v : Nat) (s : State) : Res :=
  let s := s.fresh
  .next (s.writeRow r 0x700003 (encN 4 v))

/-- MON_TEST (R499). -/
def execMonTest (r : Req) (n : Nat) (s : State) : Res :=
  let s := s.fresh
  .next (s.writeRow r 0x700004 (encN 1 n))

/-- MON_CONFIG_WRITE (R483). -/
def execMonConfigWrite (r : Req) (n v : Nat) (s : State) : Res :=
  let s := s.fresh
  .next (s.writeRow r (mkKey 0x7010 n) (encN 1 v))

/-- LC_REQUEST (R466). -/
def execLcRequest (r : Req) (value : Bytes) (s : State) : Res :=
  let s := s.fresh
  .next (s.writeRow r 0x100002 value)

/-- LC_CANCEL (R466). -/
def execLcCancel (r : Req) (v : Nat) (s : State) : Res :=
  let s := s.fresh
  .next (s.writeRow r 0x100004 (encN 1 v))

/-- DEBUG_TOKEN (R477). -/
def execDebugToken (r : Req) (value : Bytes) (s : State) : Res :=
  let s := s.fresh
  .next (s.writeRow r 0x100102 value)

/-- CASCADE_ENABLE_WRITE (R405). -/
def execCascadeEnableWrite (r : Req) (v : Nat) (s : State) : Res :=
  let s := s.fresh
  .next (s.writeRow r 0x900003 (encN 1 v))

/-- CASCADE_PROMOTE (R413). -/
def execCascadePromote (r : Req) (v : Nat) (s : State) : Res :=
  let s := s.fresh
  .next (s.writeRow r 0x900009 (encN 1 v))

/-- ACTING_MASTER_CLEAR (R413). -/
def execActingMasterClear (r : Req) (v : Nat) (s : State) : Res :=
  let s := s.fresh
  .next (s.writeRow r 0x90000A (encN 1 v))

/-- POWER_SLEEP (R543). -/
def execPowerSleep (r : Req) (v : Nat) (s : State) : Res :=
  let s := s.fresh
  .next (s.writeRow r 0x710001 (encN 1 v))

/-- PADDOCK_CREATE (R366). -/
def execPaddockCreate (v : Via) (cmd : Bytes) (s : State) : Res :=
  let s := s.fresh
  .next (s.manage v 1 cmd)

/-- MODIFY (R366). -/
def execModify (v : Via) (cmd : Bytes) (s : State) : Res :=
  let s := s.fresh
  .next (s.manage v 2 cmd)

/-- RESET (R366, R384). -/
def execPaddockResetCommand (v : Via) (cmd : Bytes) (s : State) : Res :=
  let s := s.fresh
  .next (s.manage v 3 cmd)

/-- DESTROY (R366). -/
def execDestroy (v : Via) (cmd : Bytes) (s : State) : Res :=
  let s := s.fresh
  .next (s.manage v 4 cmd)

/-- QUERY (R368). -/
def execQuery (v : Via) (cmd : Bytes) (s : State) : Res :=
  let s := s.fresh
  .next (s.manage v 5 cmd)

/-- LOG_START (R390). -/
def execLogStart (v : Via) (cmd : Bytes) (s : State) : Res :=
  let s := s.fresh
  .next (s.manage v 6 cmd)

/-- LOG_STOP (R393). -/
def execLogStop (v : Via) (cmd : Bytes) (s : State) : Res :=
  let s := s.fresh
  .next (s.manage v 7 cmd)

/-- LOG_DRAIN (R393). -/
def execLogDrain (v : Via) (cmd : Bytes) (s : State) : Res :=
  let s := s.fresh
  .next (s.manage v 8 cmd)

end Sys2Proof.Machine
end

