-- ==== Sys2Proof/Machine/Access.lean ====
section
/-! DEFINITION. Host accesses to the BARs: writes by offset, the value that each register reads as (R6, R32, R89, R115, R144, R270,
R329, R364, R369 to R372, R414, R424, R505, R507, R517 to R523). -/

namespace Sys2Proof.Machine

open Sys2Proof

/-! ### Writes -/

/-- The bytes of a register file with the word at `off` written. -/
def putWord (b : Bytes) (off : Nat) (w : Bytes) : Bytes := b.take off ++ fit 4 w ++ b.drop (off + 4)

/-- A number with its low or its high 32 bits written. -/
def putHalf (high : Bool) (old v : Nat) : Nat := if high then old % 2 ^ 32 + v * 2 ^ 32 else old / 2 ^ 32 * 2 ^ 32 + v

/-- A write to a Register Digest Window register (R270). -/
def State.writeRdw (s : State) (w : Bool) (off : Nat) (d : Bytes) : State :=
  let v := ofLE d
  if !s.windowOpen w then s
  else if off = 0x10 ∨ off = 0x14 then s.windowData w (off == 0x14) d
  else if off = 0x18 ∨ off = 0x1C then s.windowLast w (off == 0x1C) d
  else if off = 0x00 then
    if bitN v 8 then s.windowStart w v
    else
      let s := if bitN v 9 then (s.windowDrop w).modWindow w (fun r => { r with
          st := if r.st = 3 then 3 else 0, half := none, msg := [], words := 0, free := 4096 }) else s
      s.modWindow w (fun r => { r with alg := v % 4, keyed := bitN v 2, compare := bitN v 3 })
  else if 0x80 ≤ off ∧ off < 0xC0 then s.modWindow w (fun r => { r with expect := putWord r.expect (off - 0x80) d })
  else s.modWindow w (fun r => match off with
    | 0x04 => { r with key := v }
    | 0x08 => { r with length := putHalf false r.length v }
    | 0x0C => { r with length := putHalf true r.length (v % 2) }
    | 0x20 => if 1 ≤ v % 16 ∧ v % 16 ≤ 8 then { r with lastCount := v % 16 } else { r with code := stBadLength }
    | 0x24 => { r with early := r.early && !bitN v 2 }
    | 0x2C => { r with expLen := v % 128 }
    | _ => r)

/-- A write to the attention tree (R507, R511, R512). -/
def State.writeAtn (s : State) (off v : Nat) : State :=
  let g := (off - 0x100) / 16
  if off = 0x04 then s.modAtn (fun a => { a with irqEn := bitN v 0, rearm := a.rearm || bitN v 1 })
  else if off < 0x100 ∨ 0x280 ≤ off then s
  else if off % 16 = 0 then s.clearLeaves g (BitVec.ofNat 16 v)
  else if off % 16 = 4 then s.writeEnable g v
  else s

/-- `MGR_GO.GO` (R364): the command in `MGR_CMD`. -/
def State.mgrGo (s : State) : State := if !s.serving ∨ s.pci.mgrBusy then s else s.mgrMailbox s.pci.mgrCmd

/-- `DICT_GO.GO` (R424): the request waits to be handled; one of another type or length is discarded. -/
def State.dictGo (s : State) : State :=
  if s.dmb.busy then s
  else
    let t := u8 s.dmb.req 0
    let ok := (t == 5 || t == 6 || t == 0x7E) && 1 ≤ s.dmb.len && s.dmb.len ≤ 8192
    s.modDmb (fun d => { d with valid := false, busy := ok })

/-- A write to a ring register (R370, R371). -/
def State.writeRing (s : State) (p r off v : Nat) : State :=
  let base := fun (f : Ring → Ring) => s.modRing p r (fun x => if x.active then x else f x)
  match (if (s.openPad p).isSome then off else 0x1C) with
  | 0x00 => base (fun x => { x with sqBase := putHalf false x.sqBase v })
  | 0x04 => base (fun x => { x with sqBase := putHalf true x.sqBase v })
  | 0x08 => base (fun x => { x with cqBase := putHalf false x.cqBase v })
  | 0x0C => base (fun x => { x with cqBase := putHalf true x.cqBase v })
  | 0x10 =>
    let s := base (fun x => { x with depthLog2 := v % 16 })
    if bitN v 8 then s.enableRing p r else s.disableRing p r
  | 0x14 => s.writeTail p r v
  | 0x18 => s.writeHead p r v
  | _ => s

/-- The bytes of one write TLP to the push window, in address order, slot by slot (R375); `n` bounds the slots. -/
def State.pushBytes (s : State) (p off : Nat) (d : Bytes) : Nat → State
  | 0 => s
  | n + 1 =>
    let here := d.take (64 - off % 64)
    let rest := d.drop (64 - off % 64)
    let t := s.pushWrite p (off / 64) (off % 64) here
    let t := if off % 64 + here.length = 64 then t.serveFront else t
    if rest.isEmpty ∨ 0x1000 ≤ off / 64 * 64 + 64 then t else t.pushBytes p (off / 64 * 64 + 64) rest n

/-- A write to a paddock page (R369, R372, R375, R389). -/
def State.writePage (s : State) (p off : Nat) (d : Bytes) : State :=
  let v := ofLE d
  if (s.openPad p).isNone then s
  else if off < 0x1000 then s.pushBytes p off d (d.length / 64 + 2)
  else if off < 0x1080 then s.writeRing p ((off - 0x1000) / 32) (off % 32) v
  else match off with
    | 0x2008 => if bitN v 0 then s.resetPads [p] else s
    | 0x200C => s.modPad p (fun q => { q with atn := clearBits q.atn (clearBits (BitVec.ofNat 7 v) q.atnNew) })
    | 0x2010 => s.modPad p (fun q => { q with atnEn := BitVec.ofNat 7 v })
    | _ => s

/-- One 4-byte write to PF BAR0 outside the paddock pages (R518, R522). -/
def State.writePf (s : State) (off : Nat) (d : Bytes) : State :=
  let v := ofLE d
  let o := off % 65536
  match off / 65536 with
  | 0 => if o = 0x14 then s.modCore (fun c => { c with scratch := BitVec.ofNat 32 v }) else s
  | 1 => s.writeAtn o v
  | 2 => s.writeRdw false o d
  | 3 => if o < 0x40 then s.modPci (fun c => { c with mgrCmd := putWord c.mgrCmd o d })
         else if o = 0x40 ∧ bitN v 0 then s.mgrGo else s
  | 4 => if o < 0x2000 then s.modDmb (fun m => { m with req := putWord m.req o d })
         else if o = 0x4000 then s.modDmb (fun m => { m with len := v % 2 ^ 14 })
         else if o = 0x4004 ∧ bitN v 0 then s.dictGo else s
  | _ => s

/-- A write to the MSI-X table of a function (R511, R517, R520): a pending message of an unmasked vector is sent. -/
def State.writeMsix (s : State) (fn off : Nat) (d : Bytes) : State :=
  let n := off / 16
  let key := 64 * fn + n
  if (if fn = 0 then 33 else 0) < n then s
  else
    let d := if off % 16 = 12 then leN 4 (ofLE d % 2) else d
    let s := s.setMsix key (putWord (s.msixEntry key) (off % 16) d)
    if s.atn.msixEn.contains fn ∧ bitN (u8 (s.msixEntry key) 12) 0 = false ∧ s.atn.pend.contains key then
      (s.modAtn (fun a => { a with pend := a.pend.filter (· != key) })).emit (.msix fn n)
    else s

/-- The paddock whose page holds an offset of a function's BAR0, and the offset within it (R518, R519). -/
def pageOf (fn off : Nat) : Option (Nat × Nat) :=
  if fn ≠ 0 then (if off < 0x10000 then some (fn, off) else none)
  else if 0x100000 ≤ off ∧ off < 0x110000 then some (0, off - 0x100000)
  else if 0x200000 ≤ off ∧ off < 0x400000 then some (256 + (off - 0x200000) / 65536, off % 65536)
  else none

/-- One register write of 4 bytes, or of 8 to a word register of the Register Digest Window (R521). Offsets from 2^24 are those
of BAR2. -/
def State.writeReg (s : State) (fn off : Nat) (d : Bytes) : State :=
  if 2 ^ 24 ≤ off then s.writeMsix fn (off - 2 ^ 24) d
  else match pageOf fn off with
    | some p => s.writePage p.1 p.2 d
    | none => if fn = 0 then s.writePf off d else s

/-- A write to a BAR (R521). Function 256 stands for the stewards, whose window is at the offsets of R270 (R275). -/
def State.barWrite (s : State) (fn off : Nat) (d : Bytes) : State :=
  let push := fn != 256 && (match pageOf fn off with | some p => off < 2 ^ 24 && p.2 < 0x1000 | none => false)
  let window := fn == 256 || (fn == 0 && off / 65536 == 2)
  let word := window && (off % 65536 == 0x10 || off % 65536 == 0x18)
  let one := fun (s : State) (off : Nat) (d : Bytes) => if fn = 256 then s.writeRdw true off d else s.writeReg fn off d
  if fn ≠ 256 ∧ !(s.pwr.link && (fn == 0 || (fn < 256 && s.padPresent fn))) then s
  else if push then (if d.isEmpty then s else s.writeReg fn off d)
  else if d.length = 4 ∧ off % 4 = 0 then one s off d
  else if d.length = 8 ∧ off % 8 = 0 then
    if word then one s off d else one (one s off (d.take 4)) (off + 4) (d.drop 4)
  else s

/-- REGISTER_WRITE (R521). -/
def execRegisterWrite (fn off : Nat) (data : Bytes) (s : State) : Res :=
  let s := s.fresh
  .next (s.barWrite fn off data)

/-- FRAME_CT_LO_READ (R32): the read returns the low half of the count and latches the high half. -/
def execFrameCtLoRead (s : State) : Res :=
  let s := s.fresh
  .next (if s.pwr.link then
      (s.modCore (fun c => { c with frameHi := BitVec.ofNat 32 (c.frameCt / 2 ^ 32) })).emit (.read (s.core.frameCt % 2 ^ 32))
    else s)

/-! ### Values that registers read as -/

/-- `GLB_STATE` (R522). -/
def State.glbState (s : State) : Nat :=
  s.core.op.code + 16 * b2n s.sup.hold + 256 * s.lcCode + 2048 * b2n s.scopeOpen + 4096 * s.logState + 16384 * b2n s.lcMark.isSome

/-- `YARD_SHEET` (R32, R58): PENDING is the sheet of whatever switch is due. -/
def State.yardSheet (s : State) : Nat :=
  s.yard.sheet + 16 * (s.nextSheet.getD 0) + 128 * b2n s.nextSheet.isSome + 256 * b2n s.yard.safe + 512 * b2n s.constAct +
    65536 * s.posAt s.core.frameCt

/-- `BOOT_REPORT` (R89). -/
def State.bootReport (s : State) : Nat :=
  b2n s.boot.slotB + 4 * s.boot.path + 16 * b2n s.boot.trial + 32 * b2n s.boot.fallback + 256 * s.boot.svn + 65536 * s.boot.floor +
    2 ^ 24 * s.boot.lastFail

/-- `HALTER_STEP` (R115). -/
def State.halterStep (s : State) : Nat :=
  s.hal.step + 256 * s.halterState + 65536 * s.hal.portHold.toNat + 2 ^ 20 * b2n s.hal.alarmHold

/-- `STILE_PORT_N` (R144). -/
def State.stilePort (s : State) (n : Nat) : Nat :=
  let p := s.port n
  (match p.phase with | .hold => 0 | .verify => 1 | .serve => 2 | .update => 3) +
    4 * (match p.mode with | .off => 0 | .measure => 1 | .manifest => 2) + 16 * b2n p.attached + 32 * b2n p.recAttached +
    256 * (match p.wire with | .spi => 0 | .qpi => 1 | .octal => 2) + 2048 * b2n p.addr4 + 65536 * min 0xFFFF p.refused

/-- Quarantined and disabled pairs from row `first` (R329). -/
def State.pairState (s : State) (first n : Nat) : Nat :=
  (List.range n).foldl (fun m k => m + b2n (s.lane (first + k)).quarantine * 2 ^ k + b2n (s.lane (first + k)).disabled * 2 ^ (16 + k)) 0

/-- `CASCADE_STATE` (R414). -/
def State.cascadeState (s : State) : Nat :=
  s.pwr.cascadeId.toNat + 16 * (match s.cas.role with | .standalone => 0 | .master => 1 | .member => 2 | .orphan => 3) +
    256 * s.cas.present.toNat + 65536 * s.cas.lost.toNat + 2 ^ 24 * b2n s.cas.cl0 + 2 ^ 25 * b2n s.cas.cl1

/-- The highest latched class plus 1, or 0 (R505). -/
def State.monHighest (s : State) : Nat :=
  (List.range 24).foldl (fun m k => if s.mon.latched.getLsbD k then max m (s.mon.cls.getD k 0 + 1) else m) 0

/-- `MON_STATUS` (R505). -/
def State.monStatus (s : State) : Nat :=
  s.monHighest + 8 * b2n s.mon.testEnd.isSome + 16 * s.mon.testMon +
    512 * (match s.mon.testResult with | .none => 0 | .running => 0 | .pass => 1 | .fail => 2) + 2048 * b2n s.mon.rootLost +
    4096 * b2n s.mon.backupLost

/-- A register of the identity and global control region (R522, R523). -/
def State.readGlobal (s : State) (off : Nat) : Nat := match off with
  | 0x000 => 0x00A17100
  | 0x004 => s.boot.release
  | 0x008 => s.fuse.serial.toNat % 2 ^ 32
  | 0x00C => s.fuse.serial.toNat / 2 ^ 32
  | 0x010 => s.glbState
  | 0x014 => s.core.scratch.toNat
  | 0x018 => 8 + 32 * 255 + 2 ^ 13 * 32
  | 0x100 => s.core.frameCt % 2 ^ 32
  | 0x104 => s.core.frameHi.toNat
  | 0x108 => s.yardSheet
  | 0x110 => s.bootReport
  | 0x120 => s.halterOut.toNat
  | 0x124 => s.halterIn.toNat
  | 0x128 => s.halterStep
  | 0x130 => s.stilePort 0
  | 0x134 => s.stilePort 1
  | 0x138 => s.stilePort 2
  | 0x13C => s.stilePort 3
  | 0x140 => s.pairState 4 16
  | 0x144 => s.pairState 20 8
  | 0x148 => min 0xFFFF s.yard.faults
  | 0x150 => s.cascadeState
  | 0x160 => s.mon.latched.toNat
  | 0x164 => s.mon.active.toNat
  | 0x168 => s.monStatus
  | 0x16C => min 0xFFFF s.sup.holds + 65536 * min 0xFFFF s.sup.longest
  | _ => 0

/-- A register of the attention tree (R507). -/
def State.atnReg (s : State) (off : Nat) : Nat :=
  let g := (off - 0x100) / 16
  if off = 0 then s.atnSummary
  else if off = 4 then b2n s.atn.irqEn + 4 * b2n s.atn.pin
  else if off = 8 then s.atnRaw
  else if off < 0x100 ∨ 0x280 ≤ off then 0
  else if off % 16 = 0 then (s.atn.cause.getD g 0).toNat
  else if off % 16 = 4 then (s.atn.enable.getD g 0).toNat else 0

/-- A register of a Register Digest Window (R270, R273); a read of `RDW_RESULT` before DONE gives 0. -/
def Rdw.read (r : Rdw) (off : Nat) : Nat := match off with
  | 0x00 => r.alg + 4 * b2n r.keyed + 8 * b2n r.compare
  | 0x04 => r.key
  | 0x08 => r.length % 2 ^ 32
  | 0x0C => r.length / 2 ^ 32
  | 0x20 => r.lastCount
  | 0x24 => r.st + 4 * b2n r.early + 65536 * r.code
  | 0x28 => r.free
  | 0x2C => r.expLen
  | _ => if 0x40 ≤ off ∧ off < 0x80 ∧ r.st = 3 then uLE r.result (off - 0x40) 4 else 0

/-- A register of a ring (R370). -/
def Ring.read (r : Ring) (off : Nat) : Nat := match off with
  | 0x00 => r.sqBase % 2 ^ 32
  | 0x04 => r.sqBase / 2 ^ 32
  | 0x08 => r.cqBase % 2 ^ 32
  | 0x0C => r.cqBase / 2 ^ 32
  | 0x10 => r.depthLog2 + 256 * b2n r.enable + 512 * b2n r.active + 65536 * r.code
  | 0x14 => r.tail
  | 0x18 => r.head
  | 0x1C => r.sqHead + 65536 * r.outstanding + 2 ^ 29 * b2n r.error
  | _ => 0

/-- A register of a paddock page (R369, R370, R372, R389); a paddock without a configuration reads as DISABLED. -/
def State.readPage (s : State) (p off : Nat) : Nat :=
  let n := fun (f : Pad → Nat) => match s.pad? p with | some q => if q.st = .resetting then 0 else f q | none => 0
  if 0x1000 ≤ off ∧ off < 0x1080 then
    n (fun q => (q.ring.getD ((off - 0x1000) / 32) ringReset).read (off % 32))
  else match off with
    | 0x2000 => p + 512 * (if p = 0 then 0 else if p < 256 then 1 else 2) + 65536 * s.pgen p
    | 0x2004 => match s.pad? p with
      | some q => (match q.st with | .disabled => 0 | .enabled => 1 | .resetting => 2)
      | none => 0
    | 0x200C => n (fun q => q.atn.toNat)
    | 0x2010 => match s.pad? p with | some q => if q.st = .resetting then 0x7F else q.atnEn.toNat | none => 0x7F
    | 0x2014 => n (fun q => q.refTag + 65536 * q.refRing + 2 ^ 18 * q.refSlot)
    | 0x2018 => n (fun q => q.refCode + 65536 * q.refCount)
    | 0x201C => match s.pad? p with | some q => if q.st = .resetting then 0x7F else q.families.toNat | none => 0x7F
    | _ => 0

/-- What a 4-byte read of a register of a function's BAR0 gives (R518, R519, R521), apart from its side effects. -/
def State.readReg (s : State) (fn off : Nat) : Nat :=
  let o := off % 65536
  match pageOf fn off with
  | some p => s.readPage p.1 p.2
  | none => if fn ≠ 0 then 0 else match off / 65536 with
    | 0 => s.readGlobal o
    | 1 => s.atnReg o
    | 2 => s.rdw.read o
    | 3 => if o < 0x40 then uLE s.pci.mgrCmd o 4
           else if o = 0x44 then b2n s.pci.mgrBusy + 65536 * s.pci.mgrCode
           else if 0x80 ≤ o ∧ o < 0xC0 then uLE s.pci.mgrResult (o - 0x80) 4 else 0
    | 4 => if o < 0x2000 then uLE s.dmb.req o 4
           else if o < 0x4000 then uLE s.dmb.resp (o - 0x2000) 4
           else if o = 0x4000 then s.dmb.len
           else if o = 0x4008 then b2n s.dmb.busy + 2 * b2n s.dmb.valid + 65536 * s.dmb.respLen else 0
    | _ => 0

end Sys2Proof.Machine
end

