-- ==== Sys2Proof/Machine/Holding.lean ====
section
/-! DEFINITION. From BOOTING to HOLDING, and every later entry to HOLDING (R21, R54, R79, R83, R87, R88, R94, R104, R113, R121, R122, R152, R186,
R188, R244, R439, R451 to R455, R489, R503, R504, R509). -/

namespace Sys2Proof.Machine

open Sys2Proof

/-! ### What every entry to HOLDING does -/

/-- A target port raises one hot-join request (R186): with I3C traffic on its bus and no dynamic address. -/
def State.askHotJoin (s : State) (traffic2 traffic3 : Bool) : State :=
  let s := if traffic2 ∧ s.par.dyn2.isNone then s.emit (.i3c 2 0x02) else s
  if traffic3 ∧ s.par.dyn3.isNone then s.emit (.i3c 3 0x02) else s

/-- The ports are probed, the controller ports that the dictionary enables discover, and the round-robin pointers restart (R45,
R121, R122, R185, R186, R188). -/
def State.holdingEntry (s : State) (h : HoldInput) : State :=
  let was0 := s.par.ic0
  let was1 := s.par.ic1
  let s := s.modPar (fun p => { p with ic0 := s.valU (mkKey 0x3000 0x01) == 1, ic1 := s.valU (mkKey 0x3000 0x02) == 1 })
  let s := (s.modYard (fun y => { y with rr := [] })).askHotJoin h.i3cTraffic2 h.i3cTraffic3
  ((s.probePorts h.probes).discoverBus 0 (!was0) h.found).discoverBus 1 (!was1) h.found

/-- An entry to HOLDING at which the release schedule begins as well (R109, R113). -/
def State.holdingActs (s : State) (h : HoldInput) : State := (s.holdingEntry h).beginSchedule

/-- RECOVERY_COMPLETE (R181 step 4, R182): with no other port recovering the device enters HOLDING again. -/
def execRecoveryComplete (port : Nat) (h : HoldInput) (s : State) : Res :=
  let s := s.fresh
  let p := s.port port
  .next (if s.core.op = .recovery ∧ s.haltLatched = false ∧ p.recovering ∧ (p.phase = .serve ∨ p.phase = .hold) then
      let s := if p.recHold then s else s.endPortHold port
      let s := (s.modPort port (fun p => { p with recovering := false, recHold := false })).latch (portGroup port)
        (if p.phase = .serve then 12 else 13)
      let s := s.ev 3 5 .recoveryEnded [port, if p.phase = .serve then 1 else 0]
      if s.ports.any (·.recovering) then s else (s.setOp .holding).holdingActs h
    else s)

/-- LEAVE_ALARM_HALT (R489): no class H or Z latch is left. Back in HOLDING the schedule resumes, and what every entry to HOLDING
does is done (R45, R121, R185, R188). -/
def execLeaveAlarmHalt (h : HoldInput) (s : State) : Res :=
  let s := s.fresh
  .next (if s.core.op ≠ .alarmHalt ∨ s.haltLatched ∨ s.mon.due ≠ 0 then s
    else if s.core.zSince then s.beginStart .alarmClear
    else if s.core.before = .booting then (s.setOp .holding).holdingActs h
    else if s.core.before = .holding then (s.setOp .holding).holdingEntry h
    else s.setOp s.core.before)

/-! ### The stores at a start -/

/-- The dictionary takes the bank in force; with none, every stored entry takes its default (R437, R439). -/
def State.loadDict (s : State) : State := match s.dict.bank with
  | some b => s.modDict (fun d => { d with vals := b.vals, changes := b.changes, committed := b.changes })
  | none => (s.latch 0 8).ev 0 8 .dictLoss []

/-- The role in the stack (R399, R413). -/
def State.takeRole (s : State) : State :=
  let on := s.valU (mkKey 0x9000 0x03) == 1
  s.modCas (fun c => { c with
    enabled := on,
    role := if on && (s.pwr.cascadeId == 0 || s.valU (mkKey 0x9000 0x0A) == 1) then .master
            else if on then c.role else .standalone })

/-- Persistent records are reloaded (R224, R244): one that does not unwrap is LOST. -/
def State.reloadKeys (s : State) : State :=
  s.tack.mram.foldl (fun s r =>
    let k := r.key s.tack.srk
    let k := { k with useCount := if k.useLimit = 0 then 0 else k.mark }
    let keep := fun (k : Key) => s.modTack (fun t => { t with keys := t.keys ++ [k] })
    if k.st = .lost then (keep k).keyEvent 0x11 k
    else if k.st = .active ∧ k.useLimit ≠ 0 ∧ k.useLimit ≤ k.useCount then (keep k).exhaust k
    else keep k) s

/-- The stored Timetable, verified again, and the sheet activated at boot (R54, R490); a MEMBER keeps the sheet that it
adopted (R401). -/
def State.bootSheet (s : State) : State :=
  let img := s.val (mkKey 0x6000 0x01)
  let s := s.modYard (fun y => { y with timetable := none, leaving := none, loadDue := false, pending := none })
  let s := if img.isEmpty ∨ s.timetableCheck img ≠ 0 then s
           else s.modYard (fun y => { y with timetable := some (timetableOf img) })
  if s.cas.role = .member then s
  else
    let n := s.valU (mkKey 0x6001 0x05)
    let s := s.modYard (fun y => { y with sheet := if s.hasSheet n then n else 0, base := 0, safe := false })
    let s := if s.hasSheet n then s else s.ev 1 8 .sheetSubstitute [n]
    s.modYard (fun y => { y with safeDue := y.safeDue && decide (y.sheet ≠ s.safeSheet) })

/-- Stage 1 verifies every stored manifest again; one that fails counts as absent for this start (R152). -/
def State.checkManifests (s : State) : State :=
  (List.range 4).foldl (fun s n => [Slot.a, .b, .r].foldl (fun s x =>
    let m := s.manifest n x
    if m.isEmpty then s
    else if s.manSigOk m then s.modPort n (fun p => { p with manOk := updAt p.manOk (slotSub x - 1) (fun _ => true) })
    else s.ev 3 5 .manifestAbsent [n, slotSub x]) s) s

/-- Stage 1's ledger records: the first one names the slot that booted as ACTIVE and the other as EMPTY (R79), and a floor
target that the floor has reached is cleared (R83). A forced boot writes none (R80). -/
def State.stageLedger (s : State) : State :=
  if s.boot.path = 2 then s
  else
    let b := s.boot
    match s.ledger with
    | none => s.putLedger (fun l => if b.slotB
        then { l with active := some .b, stB := .active, svnB := b.svn, digB := b.bodyDigest.take 16 }
        else { l with active := some .a, stA := .active, svnA := b.svn, digA := b.bodyDigest.take 16 })
    | some l => if l.target ≠ 0 ∧ l.target ≤ floorOf s.fuse.arbFloor then s.putLedger (fun l => { l with target := 0 })
                else s

/-- After a fast wake no block, digest or tag lane and no pair works before it has passed its test (R497). -/
def State.wakeTests (s : State) : State :=
  if s.boot.path ≠ 1 then s
  else
    let s := s.modYard (fun y => { y with lanes := y.lanes.map (fun l => { l with needTest := true }) })
    (List.range 92).foldl (fun s n => s.addDev (if 4 ≤ n ∧ n < 28 then .pairCheck n else .selfTest n)) s

/-! ### The start entries (R444, R451, R453, R455, R503, R504) -/

/-- Boot records not yet logged, oldest first (R65). -/
def State.logBootRecords (s : State) : State :=
  let s := s.boot.records.foldl (fun s r => if r.logged then s
    else s.writeEvent (devDesc 0 (evCode 8 .bootRecord)
      (Config.eventRef .bootRecord [b2n r.slotB, r.reason, r.svn, r.frame]).toNat)) s
  s.modBoot (fun b => { b with records := b.records.map (fun r => { r with logged := true }) })

/-- The FIFO entries that the ROM found, each removed once written (R452, R503). -/
def State.logFifo (s : State) : State :=
  let l := s.mon.fifoAtStart
  let s := l.foldl (fun s r => s.writeEvent { devDesc 7 (evCode 7 .fifoAlarm)
      (Config.eventRef .fifoAlarm [r.mon, r.cls, b2n r.hold, b2n r.battery, r.count]).toNat with fixedStamp := some r.secs }) s
  s.modMon (fun m => { m with fifo := m.fifo.drop l.length })

/-- The time base is raised where stamps would go back (R451): the number of the last entry's seconds plus one. -/
def State.raiseBase (s : State) : Bool × State :=
  let last := uLE s.log.last 6 8 % 2 ^ 40
  if s.log.entries.isEmpty ∨ last ≤ s.log.secs + s.log.timeBase then (false, s)
  else (true, s.modLog (fun l => { l with timeBase := last + 1 - l.secs, discont := l.discont + 1 }))

/-- Events of one step of the start, written at once. -/
def State.writeNow (s : State) (b : Bool) (d : LogDesc) : State := if b then s.writeEvent d else s

/-- The start entries in order, then the events that BOOTING buffered, then the start checkpoint (R17, R444, R455, R503). -/
def State.startEntries (s : State) : State :=
  let r := s.raiseBase
  let s := (r.2.logBootRecords).logFifo
  let s := s.writeNow s.mon.backupLost (devDesc 7 (evCode 7 .backupLost) (Config.eventRef .backupLost []).toNat)
  let s := (s.writeNow r.1 (devDesc 8 0x0F02 0))
  let s := if r.1 then s.latch 2 13 else s
  let s := s.writeNow s.mon.rootLost (devDesc 7 (evCode 7 .rootLost) (Config.eventRef .rootLost []).toNat)
  let due := s.log.due
  let s := s.modLog (fun l => { l with due := [] })
  let s := due.foldl (fun s d => s.writeEvent d.desc) s
  let s := if s.ckptRoom ∧ !s.drbgFails then s.writeCheckpoint s.log.ckptBody
           else (s.modLog (fun l => { l with owed := true })).latch 2 12
  s.modLog (fun l => { l with written := 0 })

/-- The leaves that the start findings name (R509, R514). -/
def State.startLeaves (s : State) : State :=
  let s := (monitorsIn s.mon.word).foldl (fun s n => s.latchMonitor n) s
  let s := if s.mon.rootLost then s.latch 0 3 else s
  let s := if s.mon.backupLost then s.latch 0 4 else s
  let s := if s.boot.fallback then s.latch 0 7 else s
  let s := if s.boot.trialFrom.isSome then s.latch 5 13 else s
  if s.boot.lastFail ≠ 0 then s.latch 5 15 else s

/-- Configurations and enables that the dictionary gives (R483, R509). -/
def State.loadConfig (s : State) : State :=
  let s := s.modMon (fun m => { m with cfg := (List.range 24).map (fun n => s.valU (mkKey 0x7010 n)), valid := true })
  s.modAtn (fun a => { a with enable := (List.range 24).map (fun g => BitVec.ofNat 16 (s.valU (mkKey 0xA020 g))) })

/-- A class H or Z finding or latch makes the device enter ALARM_HALT in place of HOLDING (R21, R88, R490). -/
def State.startHalts (s : State) : Bool := s.haltLatched || s.boot.findH

/-- Stage 1 may leave BOOTING (R87, R68, R401). -/
def State.stageOneDone (s : State) : Bool :=
  s.core.op == .booting && s.boot.handoverLock && s.boot.tackBuilt && !s.sup.hold && (!s.joins || s.cas.formDone)

/-- Stage 1's work before the state changes. -/
def State.stageOne (s : State) : State :=
  let s := s.loadDict.takeRole
  let s := s.reloadKeys.deriveHampers.bootSheet.checkManifests.stageLedger
  let s := (s.loadConfig.startLeaves).modLog (fun l => { l with auditCert := Config.auditCert s.auditKey })
  s.issueAlias.seedMasks.startEntries.wakeTests

/-- The stores are loaded, the start entries written, and the device enters HOLDING or ALARM_HALT (R21, R87, R88); the PCIe link
trains (R547), and an AUTO trial is confirmed (R94). -/
def State.leaveBooting (s : State) (h : HoldInput) : State :=
  let z := s.latchedAs (monitorsIn s.mon.latched) 3 || s.mon.fifoAtStart.any (fun r => r.cls == 3)
  let s := s.stageOne
  let s := if s.startHalts then (s.modCore (fun c => { c with before := .booting, zSince := z })).setOp .alarmHalt
           else (s.setOp .holding).holdingActs h
  let s := if s.mon.holdRec then s.beginAlarmHold else s
  let s := s.modPwr (fun p => { p with link := p.perst })
  let s := ((s.modPar (fun p => { p with reattestAt := s.now })).modYard (fun y => { y with lastPeriod := s.now })).snapBlocks
  if s.valU (mkKey 0x1100 0x07) = 0 ∧ h.selfTests then s.confirmTrial else s

/-- ENTER_HOLDING (R21, R87, R88). What the stage-1 firmware of another release does is outside the manual (R1, R2). -/
def execEnterHolding (h : HoldInput) (s : State) : Res :=
  let s := s.fresh
  if !s.stageOneDone then .next s
  else if !releaseOk s.boot.release then .refused .otherRelease
  else .next (s.leaveBooting h)

end Sys2Proof.Machine
end

