-- ==== Sys2Proof/Machine/C0.lean ====
section
/-! DEFINITION. What goes on when a C0 programme on a pair has ended (R38, R152, R179, R195, R202, R226, R425). -/

namespace Sys2Proof.Machine

open Sys2Proof

/-- A C0 programme on a pair whose last step has ended. -/
def DevJob.pairEnded (d : DevJob) : Bool := d.ended && (match d.what with
  | .pair _ _ _ _ => true
  | _ => false)

/-- What an ended programme was for goes on. A write, an approval or an AUTH ends with its session (log 112). -/
def State.c0End (s : State) (a : C0End) : State := match a with
  | .auth x seq key ok => if s.sessLives x then s.authDone x seq key ok else s
  | .write x key v => if s.sessLives x then s.writeReady x key v else s
  | .approve x id _ => if s.sessLives x then s.approveReady x id else s
  | .update => s.updateChecked
  | .sign t peer => s.signDone t peer
  | .partner k run left payload ok session => s.partnerChecked k run left payload ok session

/-- The programmes that have ended leave, oldest first, and what they were for goes on while the stewards serve (R480). -/
def State.c0Ends (s : State) : State :=
  if !s.serving then s
  else (s.devJobs.filter (·.pairEnded)).foldl (fun s d =>
    let s := s.modDevJobs (fun l => l.filter (fun e => e.id != d.id))
    match d.what with
    | .pair _ _ _ a => s.c0End a
    | _ => s) s

end Sys2Proof.Machine
end

