-- ==== Sys2Proof/Machine/Boundary.lean ====
section
/-! DEFINITION. The frame boundary (R5, R31, R33, R48, R59, R426, R451, R479, R482, R491, R525). -/

namespace Sys2Proof.Machine

open Sys2Proof

/-! ### Clocks and inputs -/

/-- A frame passes for the seconds counter of the backup domain (R451, R500), which runs while VIN or VBAT supplies it; at
its tick the deviation of REFCLK is measured (R541). -/
def State.secondsPass (s : State) (ppm : Int) : State :=
  if !s.pwr.vinGood && !s.pwr.vbatOk then s
  else if s.log.fracFrames + 1 < secFrames then s.modLog (fun l => { l with fracFrames := l.fracFrames + 1 })
  else
    let s := s.modLog (fun l => { l with secs := l.secs + 1, fracFrames := 0 })
    if s.core.op.powered then s.modPwr (fun p => { p with ppm := ppm }) else s

/-- The inputs of the frame that ended: the lowest VIN (R491, R549), the conditions that monitors 0 to 20 read, as far as
they are enabled (R482, R483), and the temperatures where they were sampled. A clock that monitors 18 or 19 find wanting counts as
lost from its first such frame (R542); a cell that monitor 17 does not find low serves again (R504, log 118). -/
def State.takeInputs (s : State) (vinMv active : Nat) (temps : List Int) : State :=
  let on := (List.range 21).filter (fun n => active.testBit n && (12 ≤ n || (s.monConfig n).testBit 3))
  let s := s.modMon (fun m => { m with
    active := on.foldl (fun a n => setBit a n) 0,
    inactiveAt := m.inactiveAt.mapIdx (fun n f => if on.contains n then s.now - 1 else f),
    temps := if temps.length = 8 then temps else m.temps })
  let s := s.modPwr (fun p => { p with
    vinMv := vinMv,
    vbatOk := p.vbatOk || !active.testBit 17,
    clkLost := if on.contains 18 ∨ on.contains 19 then some (p.clkLost.getD (s.now - 1)) else none })
  if vinMv < s.vinWarn then s.modSup (fun u => { u with crossing := true, calm := 0 }) else s

/-- What counts within one frame starts at 0 again: Logbook entries (R444), logged key commands (R230), accepted descriptors
(R44). -/
def State.newFrame (s : State) : State :=
  ((s.modLog (fun l => { l with written := 0 })).modTack (fun t => { t with cmdsThisFrame := 0 })).modPci
    (fun c => { c with accepted := 0 })

/-- The frame that ended counts for the release schedule unless its steps might not act in it (R112, R480). -/
def State.halterCounts (s : State) : State :=
  if s.halterPaused then s else s.modHal (fun h => { h with counted := h.counted + 1 })

/-! ### Order 2 -/

/-- Sessions whose credential record changed (R420), connections of a reconfigured port (R441), and the PF mailbox's session
after a reset of its registers (R525) end. -/
def State.endChannels (s : State) : State :=
  let creds := s.dict.endSess
  let ports := s.dict.endConns
  let mbox := s.pci.mboxEnd
  let s := (s.modDict (fun d => { d with endSess := [], endConns := [] })).modPci (fun c => { c with mboxEnd := false })
  let s := s.endSessions (fun x => creds.contains x.cred)
  let s := (s.dict.conns.filter (fun c => ports.contains c.port)).foldl (fun s c => s.endDtls c) s
  if mbox then (s.par.sessions.filter (fun x => x.transport == 5)).foldl (fun s x => s.endSpdm x) s else s

/-- The programmes that a class H alarm or a hold of 2,000 frames aborts (R20, R493), and the queue after class Z (R486). -/
def State.haltAborts (s : State) : State :=
  let long := s.sup.hold && s.sup.holdFrames == 1999 && s.core.op != .booting
  let s := if s.sup.abortDue || long then (s.modSup (fun u => { u with abortDue := false })).haltYard else s
  if s.mon.zDue then (s.modMon (fun m => { m with zDue := false })).holdQueue else s

/-- Monitor configurations that were written in the last frame come into force (R483). -/
def State.monConfigs (s : State) : State :=
  s.modMon (fun m => { m with cfg := (List.range 24).map (fun n => s.valU (mkKey 0x7010 n)) })

/-- Order 2 of R33. One transition is taken at a boundary, by the order of R22; a full reset that another transition precedes
waits for the next boundary. After the LAST step of the schedule the device enters RUNNING (R109). -/
def State.orderTwo (s : State) : State :=
  let op := s.core.op
  let s := if s.mon.due = 0 then s else s.alarmRespond
  let s := (s.haltAborts.runReplicas.runStrikes.strikePads.openScopes.runCancels.sendChanges.orphan.endChannels).monConfigs
  let s := (s.takeRecoveries (s.core.op == .alarmHalt)).enterSleep
  match s.core.fullReset with
  | some c => if s.core.op = op then s.beginStart c else s
  | none => if s.core.op = .holding ∧ op = .holding ∧ s.hal.st = .done then s.setOp .running else s

/-! ### Orders 4 and 5 -/

/-- A device job that waits and that no lane's row in the active sheet can take. -/
def State.devWithoutSlots (s : State) (d : DevJob) : Bool :=
  d.lane.isNone && d.taken < d.what.steps && (match d.what with
    | .pairCheck _ => false
    | w => !(List.range 92).any (fun l => [0, 2, 5].any (fun c => w.fits l c && s.rowHas s.yard.sheet l c)))

/-- At a round boundary a class without slots latches its leaf, and so does a checkpoint that waits for want of one
(R48, R455). -/
def State.slotLeaves (s : State) : State :=
  if s.posAt s.core.frameCt ≠ 0 then s
  else
    let s := if s.classWithoutSlots || s.devJobs.any s.devWithoutSlots then s.latch 0 9 else s
    if s.devJobs.any (fun d => d.what == .checkpoint && s.devWithoutSlots d) then s.latch 2 12 else s

/-- The dummy steps of constant activity draw their operands (R59). -/
def State.dummySteps (s : State) : State :=
  if s.constAct then
    s.modTack (fun t => { t with draws := t.draws + ((List.range 92).filter s.laneFree).length })
  else s

/-- The runs of curve loads that have ended without a key, or whose jobs are gone, are free (R319). -/
def State.freeLoads (s : State) : State :=
  if s.tack.loads.isEmpty then s
  else s.modTack (fun t => { t with loads := t.loads.filter (fun x => s.jobs.any (fun j => j.id == x.1 && (!j.settled || j.waitsLog))) })

/-- Orders 4 and 5 of R33: dispatch in sheet row order, then the next step of what runs already. -/
def State.runYard (s : State) : State :=
  let before := s.devJobs
  let s := s.freeLoads.forwardJobs
  let s := s.jobs.foldl (fun s j => s.startHamper j) s
  (s.stepAll.dispatchAll.sweepSteps before).passJobs.loadLanes

/-- The ready jobs of each group that wait once the boundary has dispatched (R61). -/
def State.noteWaiting (s : State) : State :=
  let count := fun (g : Nat) => (s.jobs.filter (fun j => j.group == g && s.offered j)).length
  let l := ((s.jobs.map (·.group)).eraseDups.map (fun g => (g, count g))).filter (fun x => decide (x.1 < 64 ∧ 0 < x.2))
  s.modYard (fun y => { y with waiting := l })

/-- The boundary of a state in which the device works or is halted. -/
def State.workBoundary (s : State) (calm : Bool) : State :=
  let s := (s.endSteps.takeSwitch s.core.frameCt).orderTwo
  if !s.core.op.powered then s
  else
    let s := (s.fixHold calm).domainsBoundary
    let s := s.slotLeaves
    let s := if s.core.op.working ∧ s.sup.hold = false then s.runYard else s
    let s := s.noteWaiting.dummySteps.portsFrame
    let s := if s.serving then s.c0Ends.partnerBoundary.signLate.pldmBoundary else s
    (if s.pwr.link then s.serveFront else s).snapBlocks

/-- FRAME_BOUNDARY (R33): a frame ends and the next one starts. In OFF only the backup domain counts; in DEEP_SLEEP the
power-down goes on (R544); in BOOTING there is no Yard yet (R68, R490). -/
def execFrameBoundary (vinMv : Nat) (levels : Levels) (temps : List Int) (ppm : Int) (s : State) : Res :=
  let s := s.fresh
  .next (
    let s := s.secondsPass ppm
    if s.core.op = .off then s
    else if s.core.op = .deepSleep then
      ((s.sampleInputs levels.hi).modCore (fun c => { c with tick := c.tick + 1 })).atnBoundary.sleepFrame
    else
      let calm := decide (s.vinWarn + 20 < vinMv)
      let s := (s.halterCounts.halterSees.sampleInputs levels.hi).modCore (fun c => { c with tick := c.tick + 1, frameCt := c.frameCt + 1 })
      let s := ((s.newFrame.takeInputs vinMv levels.active temps).atnBoundary).padMessages
      if s.core.op = .booting then
        let s := if s.mon.due = 0 then s else s.alarmRespond
        match s.core.fullReset with
        | some c => s.beginStart c
        | none => s.fixHold calm
      else s.workBoundary calm)

end Sys2Proof.Machine
end

