-- ==== Sys2Proof/Machine/Dispatch.lean ====
section
/-! DEFINITION. What each command does: one arm per row of the opcode table. -/

namespace Sys2Proof.Machine

open Sys2Proof

def exec (i : Instr) (s : State) : Host.Outcome State Fault Refusal :=
  match i with
  | .vinRise mv st => Sys2Proof.Machine.execVinRise mv st s
  | .vinFall mv => Sys2Proof.Machine.execVinFall mv s
  | .vinWarnCrossing mv => Sys2Proof.Machine.execVinWarnCrossing mv s
  | .supplyHoldEnd => Sys2Proof.Machine.execSupplyHoldEnd s
  | .supplyHoldAbort => Sys2Proof.Machine.execSupplyHoldAbort s
  | .supplyHoldEpisodeEntry => Sys2Proof.Machine.execSupplyHoldEpisodeEntry s
  | .sysRstNLow => Sys2Proof.Machine.execSysRstNLow s
  | .sysRstNRelease st => Sys2Proof.Machine.execSysRstNRelease st s
  | .perstNChange high => Sys2Proof.Machine.execPerstNChange high s
  | .pllLock => Sys2Proof.Machine.execPllLock s
  | .refclkRecoveryTimeout => Sys2Proof.Machine.execRefclkRecoveryTimeout s
  | .frameBoundary vinMv levels temps ppm => Sys2Proof.Machine.execFrameBoundary vinMv levels temps ppm s
  | .sheetSwitch => Sys2Proof.Machine.execSheetSwitch s
  | .domainWakeEnd d => Sys2Proof.Machine.execDomainWakeEnd d s
  | .romStart r => Sys2Proof.Machine.execRomStart r s
  | .getstatus => Sys2Proof.Machine.execGetstatus s
  | .romLockWrite v => Sys2Proof.Machine.execRomLockWrite v s
  | .coreReleaseWrite v => Sys2Proof.Machine.execCoreReleaseWrite v s
  | .handoverLockWrite v => Sys2Proof.Machine.execHandoverLockWrite v s
  | .stackFormation f => Sys2Proof.Machine.execStackFormation f s
  | .formTimeout => Sys2Proof.Machine.execFormTimeout s
  | .enterHolding h => Sys2Proof.Machine.execEnterHolding h s
  | .trialWatchdogExpiry => Sys2Proof.Machine.execTrialWatchdogExpiry s
  | .releaseStepActs => Sys2Proof.Machine.execReleaseStepActs s
  | .waitTimeout => Sys2Proof.Machine.execWaitTimeout s
  | .pulseEnd k => Sys2Proof.Machine.execPulseEnd k s
  | .hiLevelChange k level => Sys2Proof.Machine.execHiLevelChange k level s
  | .measurementRecorded port data => Sys2Proof.Machine.execMeasurementRecorded port data s
  | .startVerificationEnd port data => Sys2Proof.Machine.execStartVerificationEnd port data s
  | .stileRead c => Sys2Proof.Machine.execStileRead c s
  | .fastRead c => Sys2Proof.Machine.execFastRead c s
  | .dualOutputFastRead c => Sys2Proof.Machine.execDualOutputFastRead c s
  | .dualIoFastRead c => Sys2Proof.Machine.execDualIoFastRead c s
  | .quadOutputFastRead c => Sys2Proof.Machine.execQuadOutputFastRead c s
  | .quadIoFastRead c => Sys2Proof.Machine.execQuadIoFastRead c s
  | .octalDtrRead c => Sys2Proof.Machine.execOctalDtrRead c s
  | .readStatusRegister c => Sys2Proof.Machine.execReadStatusRegister c s
  | .readJedecId c => Sys2Proof.Machine.execReadJedecId c s
  | .readSfdp c => Sys2Proof.Machine.execReadSfdp c s
  | .writeEnable c => Sys2Proof.Machine.execWriteEnable c s
  | .writeDisable c => Sys2Proof.Machine.execWriteDisable c s
  | .pageProgram c => Sys2Proof.Machine.execPageProgram c s
  | .quadInputPageProgram c => Sys2Proof.Machine.execQuadInputPageProgram c s
  | .erase4Kib c => Sys2Proof.Machine.execErase4Kib c s
  | .erase64Kib c => Sys2Proof.Machine.execErase64Kib c s
  | .chipErase c alt => Sys2Proof.Machine.execChipErase c alt s
  | .writeStatusRegister c => Sys2Proof.Machine.execWriteStatusRegister c s
  | .writeVolatileConfiguration c => Sys2Proof.Machine.execWriteVolatileConfiguration c s
  | .securityRegisterCommand c erase => Sys2Proof.Machine.execSecurityRegisterCommand c erase s
  | .enter4ByteAddressMode c => Sys2Proof.Machine.execEnter4ByteAddressMode c s
  | .exit4ByteAddressMode c => Sys2Proof.Machine.execExit4ByteAddressMode c s
  | .enterQpi c => Sys2Proof.Machine.execEnterQpi c s
  | .exitQpi c => Sys2Proof.Machine.execExitQpi c s
  | .resetEnable c => Sys2Proof.Machine.execResetEnable c s
  | .stileReset c => Sys2Proof.Machine.execStileReset c s
  | .unknownCommand c opcode => Sys2Proof.Machine.execUnknownCommand c opcode s
  | .stnRstNLow port => Sys2Proof.Machine.execStnRstNLow port s
  | .refusedBusyEnd port => Sys2Proof.Machine.execRefusedBusyEnd port s
  | .downstreamStatusPoll port idle => Sys2Proof.Machine.execDownstreamStatusPoll port idle s
  | .tagVerdict port host block => Sys2Proof.Machine.execTagVerdict port host block s
  | .debtClearRead port => Sys2Proof.Machine.execDebtClearRead port s
  | .sweepComplete port => Sys2Proof.Machine.execSweepComplete port s
  | .sweepLate port => Sys2Proof.Machine.execSweepLate port s
  | .platformTrialExpiry port => Sys2Proof.Machine.execPlatformTrialExpiry port s
  | .recoveryComplete port h => Sys2Proof.Machine.execRecoveryComplete port h s
  | .queryDeviceIdentifiers q => Sys2Proof.Machine.execQueryDeviceIdentifiers q s
  | .getFirmwareParameters q => Sys2Proof.Machine.execGetFirmwareParameters q s
  | .requestUpdate q maxXfer => Sys2Proof.Machine.execRequestUpdate q maxXfer s
  | .passComponentTable q comp => Sys2Proof.Machine.execPassComponentTable q comp s
  | .updateComponent q comp stamp size => Sys2Proof.Machine.execUpdateComponent q comp stamp size s
  | .firmwareDataReceived q data flashOk readback => Sys2Proof.Machine.execFirmwareDataReceived q data flashOk readback s
  | .activateFirmware q selfContained => Sys2Proof.Machine.execActivateFirmware q selfContained s
  | .getStatus q => Sys2Proof.Machine.execGetStatus q s
  | .cancelUpdateComponent q => Sys2Proof.Machine.execCancelUpdateComponent q s
  | .cancelUpdate q => Sys2Proof.Machine.execCancelUpdate q s
  | .pldmTimeout => Sys2Proof.Machine.execPldmTimeout s
  | .setEndpointId bus eid => Sys2Proof.Machine.execSetEndpointId bus eid s
  | .dynamicAddressAssignment bus addr => Sys2Proof.Machine.execDynamicAddressAssignment bus addr s
  | .rstdaa bus => Sys2Proof.Machine.execRstdaa bus s
  | .enthdr bus transfers => Sys2Proof.Machine.execEnthdr bus transfers s
  | .hotJoin f => Sys2Proof.Machine.execHotJoin f s
  | .requesterResponse k r => Sys2Proof.Machine.execRequesterResponse k r s
  | .requesterTimeout k => Sys2Proof.Machine.execRequesterTimeout k s
  | .partnerPoll k answered => Sys2Proof.Machine.execPartnerPoll k answered s
  | .quarantineExpiry eid bus v => Sys2Proof.Machine.execQuarantineExpiry eid bus v s
  | .reattestTimer => Sys2Proof.Machine.execReattestTimer s
  | .getVersion q => Sys2Proof.Machine.execGetVersion q s
  | .getCapabilities q => Sys2Proof.Machine.execGetCapabilities q s
  | .negotiateAlgorithms q common => Sys2Proof.Machine.execNegotiateAlgorithms q common s
  | .getDigests q => Sys2Proof.Machine.execGetDigests q s
  | .getCertificate q slot off len => Sys2Proof.Machine.execGetCertificate q slot off len s
  | .challenge q slot summary => Sys2Proof.Machine.execChallenge q slot summary s
  | .getMeasurements q index sign => Sys2Proof.Machine.execGetMeasurements q index sign s
  | .keyExchange q slot => Sys2Proof.Machine.execKeyExchange q slot s
  | .finish q sid hmacOk => Sys2Proof.Machine.execFinish q sid hmacOk s
  | .heartbeat q sid => Sys2Proof.Machine.execHeartbeat q sid s
  | .keyUpdate q sid op => Sys2Proof.Machine.execKeyUpdate q sid op s
  | .respondIfReady q => Sys2Proof.Machine.execRespondIfReady q s
  | .unsupportedSpdmRequest q code => Sys2Proof.Machine.execUnsupportedSpdmRequest q code s
  | .securedMessage q sid aeadOk => Sys2Proof.Machine.execSecuredMessage q sid aeadOk s
  | .sessionHeartbeatTimeout sid => Sys2Proof.Machine.execSessionHeartbeatTimeout sid s
  | .clientHello port conn acceptable => Sys2Proof.Machine.execClientHello port conn acceptable s
  | .dictOpen ch cred => Sys2Proof.Machine.execDictOpen ch cred s
  | .dictAuth r key sig binding => Sys2Proof.Machine.execDictAuth r key sig binding s
  | .dictClose r => Sys2Proof.Machine.execDictClose r s
  | .dictRead ch r index sub off => Sys2Proof.Machine.execDictRead ch r index sub off s
  | .dictWrite r index sub value => Sys2Proof.Machine.execDictWrite r index sub value s
  | .writePart r index sub off data => Sys2Proof.Machine.execWritePart r index sub off data s
  | .writeEnd r index sub total digest => Sys2Proof.Machine.execWriteEnd r index sub total digest s
  | .approve r id digest => Sys2Proof.Machine.execApprove r id digest s
  | .withdraw r id => Sys2Proof.Machine.execWithdraw r id s
  | .proposalExpiry id => Sys2Proof.Machine.execProposalExpiry id s
  | .dictSessionIdle sid conn => Sys2Proof.Machine.execDictSessionIdle sid conn s
  | .remoteRequest r target op index sub value role answer => Sys2Proof.Machine.execRemoteRequest r target op index sub value role answer s
  | .fwActivate r slot => Sys2Proof.Machine.execFwActivate r slot s
  | .fwConfirm r v => Sys2Proof.Machine.execFwConfirm r v s
  | .fwRestart r v => Sys2Proof.Machine.execFwRestart r v s
  | .fwFloorRequest r target => Sys2Proof.Machine.execFwFloorRequest r target s
  | .timetableLoad r image => Sys2Proof.Machine.execTimetableLoad r image s
  | .sheetSwitchRequest r sheet => Sys2Proof.Machine.execSheetSwitchRequest r sheet s
  | .halterScheduleWrite r value => Sys2Proof.Machine.execHalterScheduleWrite r value s
  | .halterResume r v => Sys2Proof.Machine.execHalterResume r v s
  | .halterHoldClear r v => Sys2Proof.Machine.execHalterHoldClear r v s
  | .stileActivate r port slot => Sys2Proof.Machine.execStileActivate r port slot s
  | .stileConfirm r port v => Sys2Proof.Machine.execStileConfirm r port v s
  | .stileRestart r port v => Sys2Proof.Machine.execStileRestart r port v s
  | .manifestWrite r port slot value => Sys2Proof.Machine.execManifestWrite r port slot value s
  | .stileFloorWrite r port v => Sys2Proof.Machine.execStileFloorWrite r port v s
  | .slotBaseWrite r port item v => Sys2Proof.Machine.execSlotBaseWrite r port item v s
  | .stileClockConfigWrite r port item v => Sys2Proof.Machine.execStileClockConfigWrite r port item v s
  | .create r header data => Sys2Proof.Machine.execCreate r header data s
  | .import_ r header data => Sys2Proof.Machine.execImport r header data s
  | .derive_ r header data => Sys2Proof.Machine.execDerive r header data s
  | .revoke r header => Sys2Proof.Machine.execRevoke r header s
  | .erase r header => Sys2Proof.Machine.execErase r header s
  | .rewrite r header => Sys2Proof.Machine.execRewrite r header s
  | .drain r header => Sys2Proof.Machine.execDrain r header s
  | .export_ r header => Sys2Proof.Machine.execExport r header s
  | .drainErase slot => Sys2Proof.Machine.execDrainErase slot s
  | .drainTimeout slot => Sys2Proof.Machine.execDrainTimeout slot s
  | .lineageSweepEnd => Sys2Proof.Machine.execLineageSweepEnd s
  | .srkGenerate r v => Sys2Proof.Machine.execSrkGenerate r v s
  | .monoInc r n k => Sys2Proof.Machine.execMonoInc r n k s
  | .entropyTestFail => Sys2Proof.Machine.execEntropyTestFail s
  | .drbgRecovery => Sys2Proof.Machine.execDrbgRecovery s
  | .pushSlotSeal pad slot off data => Sys2Proof.Machine.execPushSlotSeal pad slot off data s
  | .ringSqTailWrite pad ring v => Sys2Proof.Machine.execRingSqTailWrite pad ring v s
  | .ringCqHeadWrite pad ring v => Sys2Proof.Machine.execRingCqHeadWrite pad ring v s
  | .ringEnable pad ring => Sys2Proof.Machine.execRingEnable pad ring s
  | .ringDisable pad ring => Sys2Proof.Machine.execRingDisable pad ring s
  | .fetchCompletion tag data => Sys2Proof.Machine.execFetchCompletion tag data s
  | .pinTranslate id => Sys2Proof.Machine.execPinTranslate id s
  | .pinVerify id => Sys2Proof.Machine.execPinVerify id s
  | .dukptPinTranslate id => Sys2Proof.Machine.execDukptPinTranslate id s
  | .pinCheckValue id => Sys2Proof.Machine.execPinCheckValue id s
  | .macGenerate id => Sys2Proof.Machine.execMacGenerate id s
  | .macVerify id => Sys2Proof.Machine.execMacVerify id s
  | .cryptogramVerify id => Sys2Proof.Machine.execCryptogramVerify id s
  | .cryptogramVerifyRespond id => Sys2Proof.Machine.execCryptogramVerifyRespond id s
  | .keyGenerate id => Sys2Proof.Machine.execKeyGenerate id s
  | .keyPairGenerate id agree => Sys2Proof.Machine.execKeyPairGenerate id agree s
  | .keyImport id => Sys2Proof.Machine.execKeyImport id s
  | .keyImportWrapped id => Sys2Proof.Machine.execKeyImportWrapped id s
  | .keyExport id => Sys2Proof.Machine.execKeyExport id s
  | .keyDerive id => Sys2Proof.Machine.execKeyDerive id s
  | .keyRevoke id => Sys2Proof.Machine.execKeyRevoke id s
  | .keyErase id => Sys2Proof.Machine.execKeyErase id s
  | .keyRewrite id => Sys2Proof.Machine.execKeyRewrite id s
  | .keyDrain id => Sys2Proof.Machine.execKeyDrain id s
  | .kcv id => Sys2Proof.Machine.execKcv id s
  | .keyStorePublic id agree => Sys2Proof.Machine.execKeyStorePublic id agree s
  | .digest id => Sys2Proof.Machine.execDigest id s
  | .hmacJob id => Sys2Proof.Machine.execHmacJob id s
  | .digestCompare id => Sys2Proof.Machine.execDigestCompare id s
  | .hmacCompare id => Sys2Proof.Machine.execHmacCompare id s
  | .openStream id => Sys2Proof.Machine.execOpenStream id s
  | .openKeyed id => Sys2Proof.Machine.execOpenKeyed id s
  | .update id => Sys2Proof.Machine.execUpdate id s
  | .final id => Sys2Proof.Machine.execFinal id s
  | .finalCompare id => Sys2Proof.Machine.execFinalCompare id s
  | .abandon id => Sys2Proof.Machine.execAbandon id s
  | .sign id agree => Sys2Proof.Machine.execSign id agree s
  | .verify id agree => Sys2Proof.Machine.execVerify id agree s
  | .batchVerify id agree => Sys2Proof.Machine.execBatchVerify id agree s
  | .ecdh id agree => Sys2Proof.Machine.execEcdh id agree s
  | .encapsulateReturn id agree => Sys2Proof.Machine.execEncapsulateReturn id agree s
  | .encapsulateAes id agree => Sys2Proof.Machine.execEncapsulateAes id agree s
  | .encapsulateHmac id agree => Sys2Proof.Machine.execEncapsulateHmac id agree s
  | .decapsulateAes id agree => Sys2Proof.Machine.execDecapsulateAes id agree s
  | .decapsulateHmac id agree => Sys2Proof.Machine.execDecapsulateHmac id agree s
  | .random id => Sys2Proof.Machine.execRandom id s
  | .sourceDataArrival id data => Sys2Proof.Machine.execSourceDataArrival id data s
  | .jobDispatch lane hamper => Sys2Proof.Machine.execJobDispatch lane hamper s
  | .jobComplete id => Sys2Proof.Machine.execJobComplete id s
  | .pairCheckComplete lane pass => Sys2Proof.Machine.execPairCheckComplete lane pass s
  | .pkRetest r v => Sys2Proof.Machine.execPkRetest r v s
  | .selfTestPeriod => Sys2Proof.Machine.execSelfTestPeriod s
  | .selfTestResult lane pass => Sys2Proof.Machine.execSelfTestResult lane pass s
  | .paddockCreate v cmd => Sys2Proof.Machine.execPaddockCreate v cmd s
  | .modify v cmd => Sys2Proof.Machine.execModify v cmd s
  | .paddockResetCommand v cmd => Sys2Proof.Machine.execPaddockResetCommand v cmd s
  | .destroy v cmd => Sys2Proof.Machine.execDestroy v cmd s
  | .query v cmd => Sys2Proof.Machine.execQuery v cmd s
  | .logStart v cmd => Sys2Proof.Machine.execLogStart v cmd s
  | .logStop v cmd => Sys2Proof.Machine.execLogStop v cmd s
  | .logDrain v cmd => Sys2Proof.Machine.execLogDrain v cmd s
  | .paddockResetWrite pad v => Sys2Proof.Machine.execPaddockResetWrite pad v s
  | .vfFlr n => Sys2Proof.Machine.execVfFlr n s
  | .pfFlr => Sys2Proof.Machine.execPfFlr s
  | .hotReset => Sys2Proof.Machine.execHotReset s
  | .vfEnableChange enable numVfs => Sys2Proof.Machine.execVfEnableChange enable numVfs s
  | .pasidEnableChange enable => Sys2Proof.Machine.execPasidEnableChange enable s
  | .paddockResetComplete pad => Sys2Proof.Machine.execPaddockResetComplete pad s
  | .lateCompletion tag => Sys2Proof.Machine.execLateCompletion tag s
  | .completionTimeout tag => Sys2Proof.Machine.execCompletionTimeout tag s
  | .rdwStart steward ctrl => Sys2Proof.Machine.execRdwStart steward ctrl s
  | .rdwAbort steward ctrl => Sys2Proof.Machine.execRdwAbort steward ctrl s
  | .rdwDataWrite steward high w => Sys2Proof.Machine.execRdwDataWrite steward high w s
  | .rdwLastwordWrite steward high w => Sys2Proof.Machine.execRdwLastwordWrite steward high w s
  | .rdwLastcountWrite steward v => Sys2Proof.Machine.execRdwLastcountWrite steward v s
  | .rdwResultRead steward word => Sys2Proof.Machine.execRdwResultRead steward word s
  | .frameCtLoRead => Sys2Proof.Machine.execFrameCtLoRead s
  | .atnCauseClear g v => Sys2Proof.Machine.execAtnCauseClear g v s
  | .atnEnableWrite g v => Sys2Proof.Machine.execAtnEnableWrite g v s
  | .atnRearm => Sys2Proof.Machine.execAtnRearm s
  | .registerWrite fn off data => Sys2Proof.Machine.execRegisterWrite fn off data s
  | .atnClearEntry r value => Sys2Proof.Machine.execAtnClearEntry r value s
  | .atnEnableEntry r g v => Sys2Proof.Machine.execAtnEnableEntry r g v s
  | .mePortConfigWrite r port item value => Sys2Proof.Machine.execMePortConfigWrite r port item value s
  | .policyRecordWrite r k value => Sys2Proof.Machine.execPolicyRecordWrite r k value s
  | .ownerCertWrite r value => Sys2Proof.Machine.execOwnerCertWrite r value s
  | .credentialWrite r n value => Sys2Proof.Machine.execCredentialWrite r n value s
  | .dictCommit r v => Sys2Proof.Machine.execDictCommit r v s
  | .restoreDefaults r v => Sys2Proof.Machine.execRestoreDefaults r v s
  | .logEntryWrite => Sys2Proof.Machine.execLogEntryWrite s
  | .checkpointDue => Sys2Proof.Machine.execCheckpointDue s
  | .checkpointWritten => Sys2Proof.Machine.execCheckpointWritten s
  | .logExportAck r value => Sys2Proof.Machine.execLogExportAck r value s
  | .logWindowStartWrite r v => Sys2Proof.Machine.execLogWindowStartWrite r v s
  | .logTimeEpochWrite r v => Sys2Proof.Machine.execLogTimeEpochWrite r v s
  | .logPolicyWrite r v => Sys2Proof.Machine.execLogPolicyWrite r v s
  | .monitorDetect n => Sys2Proof.Machine.execMonitorDetect n s
  | .alarmResponse => Sys2Proof.Machine.execAlarmResponse s
  | .latchSelfClear n => Sys2Proof.Machine.execLatchSelfClear n s
  | .monClear r v => Sys2Proof.Machine.execMonClear r v s
  | .leaveAlarmHalt h => Sys2Proof.Machine.execLeaveAlarmHalt h s
  | .monTest r n => Sys2Proof.Machine.execMonTest r n s
  | .monTestWindowEnd detected real => Sys2Proof.Machine.execMonTestWindowEnd detected real s
  | .monConfigWrite r n v => Sys2Proof.Machine.execMonConfigWrite r n v s
  | .backupDetection n => Sys2Proof.Machine.execBackupDetection n s
  | .vbatCollapse => Sys2Proof.Machine.execVbatCollapse s
  | .lcRequest r value => Sys2Proof.Machine.execLcRequest r value s
  | .lcCancel r v => Sys2Proof.Machine.execLcCancel r v s
  | .lcMailboxToken token => Sys2Proof.Machine.execLcMailboxToken token s
  | .debugNonceRead r => Sys2Proof.Machine.execDebugNonceRead r s
  | .nonceExpiry => Sys2Proof.Machine.execNonceExpiry s
  | .debugToken r value => Sys2Proof.Machine.execDebugToken r value s
  | .cascadeEnableWrite r v => Sys2Proof.Machine.execCascadeEnableWrite r v s
  | .cascadePromote r v => Sys2Proof.Machine.execCascadePromote r v s
  | .actingMasterClear r v => Sys2Proof.Machine.execActingMasterClear r v s
  | .promotionNotice => Sys2Proof.Machine.execPromotionNotice s
  | .linkDown port => Sys2Proof.Machine.execLinkDown port s
  | .memberLost d => Sys2Proof.Machine.execMemberLost d s
  | .linkRekey r secret transcript => Sys2Proof.Machine.execLinkRekey r secret transcript s
  | .forwardedJob desc data master mask => Sys2Proof.Machine.execForwardedJob desc data master mask s
  | .forwardedResult id status lane result dest => Sys2Proof.Machine.execForwardedResult id status lane result dest s
  | .keyReplication k master => Sys2Proof.Machine.execKeyReplication k master s
  | .replicaChange master what secret => Sys2Proof.Machine.execReplicaChange master what secret s
  | .forwardCancellation id => Sys2Proof.Machine.execForwardCancellation id s
  | .remoteSheetSwitch sheet base safe => Sys2Proof.Machine.execRemoteSheetSwitch sheet base safe s
  | .powerSleep r v => Sys2Proof.Machine.execPowerSleep r v s
  | .wake w hi => Sys2Proof.Machine.execWake w hi s
  | .wakeTimerExpiry => Sys2Proof.Machine.execWakeTimerExpiry s
  | .vioMgRise st => Sys2Proof.Machine.execVioMgRise st s
  | .debuggerHalt => Sys2Proof.Machine.execDebuggerHalt s
  | .debuggerResume => Sys2Proof.Machine.execDebuggerResume s
  | .vectorUnmask fn vector => Sys2Proof.Machine.execVectorUnmask fn vector s
  | .smbusTimeout bus => Sys2Proof.Machine.execSmbusTimeout bus s
  | .pushWindowWrite pad slot off data => Sys2Proof.Machine.execPushWindowWrite pad slot off data s
  | .mctpControlRequest m eid cmd typ => Sys2Proof.Machine.execMctpControlRequest m eid cmd typ s
  | .memberJoin j => Sys2Proof.Machine.execMemberJoin j s
  | .replicationAck member master => Sys2Proof.Machine.execReplicationAck member master s
  | .stackClassTReport member => Sys2Proof.Machine.execStackClassTReport member s

end Sys2Proof.Machine
end

