-- ==== Sys2Proof/Safety.lean ====
section
/-! DEFINITION. What a sound state looks like, and what no command may undo: the words in which the statements about every
step are written. -/

namespace Sys2Proof.Machine

open Sys2Proof

/-- How many ports, execution lanes, cause groups (cause, enable and new-cause words), partner entries, monotonic counters,
monitors and temperature sensors a state holds. -/
def State.sizes (s : State) : List Nat :=
  [s.ports.length, s.yard.lanes.length, s.atn.cause.length, s.atn.enable.length, s.atn.fresh.length,
   s.par.table.length, s.tack.mono.length, s.mon.cls.length, s.mon.temps.length]

/-- A sound state: 4 ports, 92 execution lanes, 24 cause groups (R513), 64 partner entries (R190), 16 monotonic counters
of 64 bits (R245), 24 monitors (R482), 8 sensors, and a Shed in its canonical form (R155). -/
def State.shaped (s : State) : Prop :=
  s.sizes = [4, 92, 24, 24, 24, 64, 16, 24, 8] ∧ Memory.wf s.shed = true ∧ ∀ x ∈ s.tack.mono, x < 2 ^ 64

/-- No fuse of `f` is unblown in `g`, and what the factory burned is as it was: the ROM only blows fuses (R81, R83, R469). -/
def Fuse.under (f g : Fuse) : Prop :=
  f.arbFloor &&& g.arbFloor = f.arbFloor ∧ f.lcState &&& g.lcState = f.lcState ∧
  f.ownerAlg &&& g.ownerAlg = f.ownerAlg ∧ f.bfMode &&& g.bfMode = f.bfMode ∧
  (f.bootselLock = true → g.bootselLock = true) ∧
  g.serial = f.serial ∧ g.mfgInfo = f.mfgInfo ∧ g.uds = f.uds ∧ g.vendorDigest = f.vendorDigest ∧
  g.vendorRevoke = f.vendorRevoke

/-- No counter of `l` stands lower in `m` (R245). -/
def monoUnder (l m : List Nat) : Prop := ∀ i, l.getD i 0 ≤ m.getD i 0

/-- What every change of the block, whatever command it belongs to, keeps of the state it started from: the commands that
wait, every blown fuse, every monotonic counter at least where it was, and a sound shape. -/
def State.keeps (s t : State) : Prop :=
  t.pending = s.pending ∧ s.fuse.under t.fuse ∧ (s.shaped → t.shaped ∧ monoUnder s.tack.mono t.tack.mono)

/-- Leaf `k` of attention group `g` is latched (R507, R508). -/
def State.leaf (s : State) (g k : Nat) : Bool := (s.atn.cause.getD g 0).getLsbD k

/-- The parts of the state, pending commands apart. -/
inductive Part where
  | core | pwr | sup | fuse | boot | hal | ports | shed | tagTable | shedLost | pldm | par | tack | yard | jobs
  | devJobs | nextJob | pads | pmem | pci | rdw | rdwSc | dmb | cas | dict | log | lc | mon | atn | out
  deriving DecidableEq, Repr

/-- Part `p` is the same in two states. -/
def State.same (p : Part) (s t : State) : Prop :=
  match p with
  | .core => t.core = s.core
  | .pwr => t.pwr = s.pwr
  | .sup => t.sup = s.sup
  | .fuse => t.fuse = s.fuse
  | .boot => t.boot = s.boot
  | .hal => t.hal = s.hal
  | .ports => t.ports = s.ports
  | .shed => t.shed = s.shed
  | .tagTable => t.tagTable = s.tagTable
  | .shedLost => t.shedLost = s.shedLost
  | .pldm => t.pldm = s.pldm
  | .par => t.par = s.par
  | .tack => t.tack = s.tack
  | .yard => t.yard = s.yard
  | .jobs => t.jobs = s.jobs
  | .devJobs => t.devJobs = s.devJobs
  | .nextJob => t.nextJob = s.nextJob
  | .pads => t.pads = s.pads
  | .pmem => t.pmem = s.pmem
  | .pci => t.pci = s.pci
  | .rdw => t.rdw = s.rdw
  | .rdwSc => t.rdwSc = s.rdwSc
  | .dmb => t.dmb = s.dmb
  | .cas => t.cas = s.cas
  | .dict => t.dict = s.dict
  | .log => t.log = s.log
  | .lc => t.lc = s.lc
  | .mon => t.mon = s.mon
  | .atn => t.atn = s.atn
  | .out => t.out = s.out

/-- `t` differs from `s` in the parts of `L` alone. -/
def State.only (L : List Part) (s t : State) : Prop := ∀ p, p ∉ L → s.same p t

/-- What a requested change can reach once its Logbook entry is written: the dictionary and everything that it configures. -/
def changeParts : List Part :=
  [.core, .pwr, .boot, .hal, .ports, .par, .tack, .yard, .jobs, .devJobs, .nextJob, .pads, .pmem, .pci, .rdw, .dmb,
  .cas, .dict, .log, .lc, .mon, .atn, .out]

/-- All but the fuses: what a start or the end of main power can reach. -/
def startParts : List Part :=
  [.core, .pwr, .sup, .boot, .hal, .ports, .shed, .tagTable, .shedLost, .pldm, .par, .tack, .yard, .jobs, .devJobs,
  .nextJob, .pads, .pmem, .pci, .rdw, .rdwSc, .dmb, .cas, .dict, .log, .lc, .mon, .atn, .out]

/-- The parts of the state that a command may change; every other part it leaves alone. `out` is the model's record of what
the last command sent (log 7). -/
def touches (c : Instr) : List Part :=
  match c with
  | .vinRise _ _ | .sysRstNRelease _ | .perstNChange _ | .pllLock | .frameBoundary _ _ _ _
  | .trialWatchdogExpiry | .leaveAlarmHalt _ | .lcMailboxToken _ | .wake _ _ | .wakeTimerExpiry | .vioMgRise _ =>
    startParts
  | .vinFall _ | .sysRstNLow | .refclkRecoveryTimeout =>
    [.core, .pwr, .sup, .boot, .hal, .ports, .shed, .tagTable, .shedLost, .pldm, .par, .tack, .yard, .jobs, .devJobs,
    .nextJob, .pads, .pci, .rdw, .rdwSc, .dmb, .cas, .dict, .log, .lc, .mon, .atn, .out]
  | .vinWarnCrossing _ | .supplyHoldAbort => [.sup, .out]
  | .supplyHoldEnd => [.sup, .log, .atn, .out]
  | .supplyHoldEpisodeEntry => [.sup, .log, .out]
  | .sheetSwitch | .remoteSheetSwitch _ _ _ => [.yard, .cas, .log, .atn, .out]
  | .domainWakeEnd _ | .debuggerHalt | .debuggerResume => [.pwr, .out]
  | .romStart _ => [.pwr, .fuse, .boot, .tack, .dict, .log, .lc, .mon, .out]
  | .getstatus | .debtClearRead _ | .enthdr _ _ | .smbusTimeout _ => [.out]
  | .romLockWrite _ | .coreReleaseWrite _ => [.boot, .out]
  | .handoverLockWrite _ => [.boot, .tack, .cas, .out]
  | .stackFormation _ => [.core, .yard, .cas, .log, .atn, .out]
  | .formTimeout | .linkRekey _ _ _ | .memberJoin _ => [.cas, .log, .atn, .out]
  | .enterHolding _ =>
    [.core, .pwr, .boot, .hal, .ports, .par, .tack, .yard, .devJobs, .nextJob, .cas, .dict, .log, .mon, .atn, .out]
  | .releaseStepActs | .waitTimeout => [.hal, .log, .atn, .out]
  | .pulseEnd _ => [.hal, .log, .out]
  | .hiLevelChange _ _ => [.hal, .atn, .out]
  | .measurementRecorded _ _ => [.ports, .yard, .devJobs, .log, .atn, .out]
  | .startVerificationEnd _ _ => [.hal, .ports, .shed, .tagTable, .tack, .yard, .devJobs, .nextJob, .log, .atn, .out]
  | .stileRead _ | .fastRead _ | .dualOutputFastRead _ | .dualIoFastRead _ | .quadOutputFastRead _
  | .quadIoFastRead _ | .octalDtrRead _ | .tagVerdict _ _ _ => [.hal, .ports, .log, .atn, .out]
  | .readStatusRegister _ | .readJedecId _ | .readSfdp _ | .writeEnable _ | .writeDisable _
  | .enter4ByteAddressMode _ | .exit4ByteAddressMode _ | .resetEnable _ | .stileReset _ => [.ports, .atn, .out]
  | .pageProgram _ | .quadInputPageProgram _ | .erase4Kib _ | .erase64Kib _ | .chipErase _ _
  | .writeStatusRegister _ | .writeVolatileConfiguration _ | .securityRegisterCommand _ _ | .enterQpi _
  | .exitQpi _ | .unknownCommand _ _ | .sweepComplete _ | .sweepLate _ | .platformTrialExpiry _ =>
    [.ports, .log, .atn, .out]
  | .stnRstNLow _ | .refusedBusyEnd _ | .downstreamStatusPoll _ _ => [.ports, .out]
  | .recoveryComplete _ _ => [.core, .hal, .ports, .par, .tack, .yard, .devJobs, .nextJob, .log, .atn, .out]
  | .queryDeviceIdentifiers _ | .getFirmwareParameters _ | .getStatus _ | .dynamicAddressAssignment _ _
  | .rstdaa _ | .mctpControlRequest _ _ _ _ => [.par, .atn, .out]
  | .requestUpdate _ _ | .passComponentTable _ _ => [.pldm, .par, .atn, .out]
  | .updateComponent _ _ _ _ => [.pldm, .par, .log, .atn, .out]
  | .firmwareDataReceived _ _ _ _ => [.boot, .ports, .pldm, .par, .devJobs, .nextJob, .log, .atn, .out]
  | .activateFirmware _ _ => [.ports, .pldm, .par, .log, .atn, .out]
  | .cancelUpdateComponent _ | .cancelUpdate _ => [.boot, .ports, .pldm, .par, .yard, .devJobs, .log, .atn, .out]
  | .pldmTimeout => [.boot, .ports, .pldm, .yard, .devJobs, .log, .atn, .out]
  | .setEndpointId _ _ => [.par, .out]
  | .hotJoin _ | .quarantineExpiry _ _ _ => [.par, .tack, .yard, .devJobs, .log, .atn, .out]
  | .requesterResponse _ _ => [.par, .tack, .devJobs, .nextJob, .log, .atn, .out]
  | .requesterTimeout _ => [.par, .log, .atn, .out]
  | .partnerPoll _ _ => [.par, .yard, .devJobs, .log, .atn, .out]
  | .reattestTimer => [.par, .tack, .yard, .devJobs, .log, .out]
  | .getVersion _ | .getCapabilities _ | .negotiateAlgorithms _ _ | .getDigests _ | .getCertificate _ _ _ _
  | .heartbeat _ _ | .keyUpdate _ _ _ | .unsupportedSpdmRequest _ _ => [.par, .dmb, .atn, .out]
  | .challenge _ _ _ | .getMeasurements _ _ _ | .keyExchange _ _ => [.par, .devJobs, .nextJob, .dmb, .atn, .out]
  | .finish _ _ _ | .securedMessage _ _ _ | .dictClose _ => [.par, .dmb, .dict, .log, .atn, .out]
  | .respondIfReady _ => [.par, .tack, .dmb, .atn, .out]
  | .sessionHeartbeatTimeout _ => [.par, .dict, .log, .atn, .out]
  | .clientHello _ _ _ => [.dict, .atn, .out]
  | .dictOpen _ _ => [.par, .tack, .dmb, .dict, .atn, .out]
  | .dictAuth _ _ _ _ => [.par, .devJobs, .nextJob, .dmb, .dict, .log, .atn, .out]
  | .dictRead _ _ _ _ _ | .debugNonceRead _ => [.par, .tack, .dmb, .cas, .dict, .lc, .atn, .out]
  | .dictWrite _ _ _ _ | .writeEnd _ _ _ _ _ | .approve _ _ _ | .withdraw _ _ | .proposalExpiry _
  | .remoteRequest _ _ _ _ _ _ _ _ | .fwActivate _ _ | .fwConfirm _ _ | .fwRestart _ _ | .fwFloorRequest _ _
  | .timetableLoad _ _ | .sheetSwitchRequest _ _ | .halterScheduleWrite _ _ | .halterResume _ _
  | .halterHoldClear _ _ | .stileActivate _ _ _ | .stileConfirm _ _ _ | .stileRestart _ _ _
  | .manifestWrite _ _ _ _ | .stileFloorWrite _ _ _ | .slotBaseWrite _ _ _ _ | .stileClockConfigWrite _ _ _ _
  | .create _ _ _ | .import_ _ _ _ | .derive_ _ _ _ | .revoke _ _ | .erase _ _ | .rewrite _ _ | .drain _ _
  | .export_ _ _ | .srkGenerate _ _ | .monoInc _ _ _ | .keyGenerate _ | .keyPairGenerate _ _ | .keyImport _
  | .keyImportWrapped _ | .keyExport _ | .keyDerive _ | .keyRevoke _ | .keyErase _ | .keyRewrite _ | .keyDrain _
  | .keyStorePublic _ _ | .ecdh _ _ | .encapsulateAes _ _ | .encapsulateHmac _ _ | .decapsulateAes _ _
  | .decapsulateHmac _ _ | .pkRetest _ _ | .paddockCreate _ _ | .modify _ _ | .paddockResetCommand _ _
  | .destroy _ _ | .query _ _ | .logStart _ _ | .logStop _ _ | .logDrain _ _ | .atnClearEntry _ _
  | .atnEnableEntry _ _ _ | .mePortConfigWrite _ _ _ _ | .policyRecordWrite _ _ _ | .ownerCertWrite _ _
  | .credentialWrite _ _ _ | .dictCommit _ _ | .restoreDefaults _ _ | .logEntryWrite | .logExportAck _ _
  | .logWindowStartWrite _ _ | .logTimeEpochWrite _ _ | .logPolicyWrite _ _ | .monClear _ _ | .monTest _ _
  | .monConfigWrite _ _ _ | .lcRequest _ _ | .lcCancel _ _ | .debugToken _ _ | .cascadeEnableWrite _ _
  | .cascadePromote _ _ | .actingMasterClear _ _ | .powerSleep _ _ => changeParts
  | .writePart _ _ _ _ _ => [.par, .dmb, .dict, .atn, .out]
  | .dictSessionIdle _ _ => [.dict, .log, .atn, .out]
  | .drainErase _ | .drainTimeout _ | .keyReplication _ _ => [.tack, .devJobs, .nextJob, .cas, .out]
  | .lineageSweepEnd => [.tack, .devJobs, .log, .atn, .out]
  | .entropyTestFail | .drbgRecovery => [.tack, .log, .atn, .out]
  | .pushSlotSeal _ _ _ _ | .fetchCompletion _ _ | .completionTimeout _ =>
    [.yard, .jobs, .nextJob, .pads, .pci, .atn, .out]
  | .ringSqTailWrite _ _ _ | .ringCqHeadWrite _ _ _ | .pushWindowWrite _ _ _ _ => [.pads, .pci, .atn, .out]
  | .ringEnable _ _ => [.pads, .pci, .out]
  | .ringDisable _ _ => [.pads, .out]
  | .pinTranslate _ | .pinVerify _ | .dukptPinTranslate _ | .pinCheckValue _ | .macGenerate _ | .macVerify _
  | .cryptogramVerify _ | .cryptogramVerifyRespond _ | .kcv _ | .digest _ | .hmacJob _ | .digestCompare _
  | .hmacCompare _ | .openStream _ | .openKeyed _ | .update _ | .final _ | .finalCompare _ | .abandon _
  | .sign _ _ | .verify _ _ | .batchVerify _ _ | .encapsulateReturn _ _ | .random _ => [.yard, .jobs, .pads, .out]
  | .sourceDataArrival _ _ => [.yard, .jobs, .pci, .out]
  | .jobDispatch _ _ => [.tack, .yard, .jobs, .devJobs, .nextJob, .pads, .rdw, .rdwSc, .cas, .log, .atn, .out]
  | .jobComplete _ =>
    [.ports, .shed, .tagTable, .shedLost, .tack, .yard, .jobs, .devJobs, .nextJob, .pads, .rdw, .rdwSc, .cas, .log,
    .mon, .atn, .out]
  | .pairCheckComplete _ _ | .selfTestResult _ _ | .monitorDetect _ | .monTestWindowEnd _ _ =>
    [.ports, .shed, .tagTable, .shedLost, .tack, .yard, .jobs, .devJobs, .pads, .log, .mon, .atn, .out]
  | .selfTestPeriod => [.yard, .devJobs, .nextJob, .out]
  | .paddockResetWrite _ _ => [.yard, .jobs, .pads, .pmem, .pci, .rdw, .atn, .out]
  | .vfFlr _ => [.pads, .pmem, .pci, .atn, .out]
  | .pfFlr => [.core, .tack, .yard, .jobs, .pads, .pmem, .pci, .rdw, .dmb, .atn, .out]
  | .hotReset => [.core, .yard, .jobs, .pads, .pmem, .pci, .rdw, .dmb, .atn, .out]
  | .vfEnableChange _ _ | .pasidEnableChange _ => [.tack, .pads, .pmem, .pci, .atn, .out]
  | .paddockResetComplete _ => [.pads, .pci, .dmb, .cas, .dict, .atn, .out]
  | .lateCompletion _ => [.pci, .atn, .out]
  | .rdwStart _ _ | .rdwLastwordWrite _ _ _ => [.yard, .jobs, .nextJob, .pads, .rdw, .rdwSc, .out]
  | .rdwAbort _ _ | .rdwDataWrite _ _ _ => [.yard, .jobs, .pads, .rdw, .rdwSc, .out]
  | .rdwLastcountWrite _ _ | .rdwResultRead _ _ => [.rdw, .rdwSc, .out]
  | .frameCtLoRead => [.core, .out]
  | .atnCauseClear _ _ | .atnRearm | .vectorUnmask _ _ => [.atn, .out]
  | .atnEnableWrite _ _ => [.log, .atn, .out]
  | .registerWrite _ _ _ =>
    [.core, .pwr, .boot, .hal, .ports, .par, .tack, .yard, .jobs, .devJobs, .nextJob, .pads, .pmem, .pci, .rdw,
    .rdwSc, .dmb, .cas, .dict, .log, .lc, .mon, .atn, .out]
  | .checkpointDue => [.devJobs, .nextJob, .log, .atn, .out]
  | .checkpointWritten => [.ports, .tack, .devJobs, .log, .atn, .out]
  | .alarmResponse => [.core, .sup, .hal, .yard, .cas, .log, .mon, .atn, .out]
  | .latchSelfClear _ => [.mon, .out]
  | .backupDetection _ => [.pwr, .tack, .mon, .out]
  | .vbatCollapse => [.pwr, .tack, .log, .mon, .out]
  | .nonceExpiry => [.lc, .out]
  | .promotionNotice => [.core, .tack, .yard, .jobs, .devJobs, .nextJob, .pads, .cas, .log, .atn, .out]
  | .linkDown _ => [.cas, .atn, .out]
  | .memberLost _ => [.yard, .jobs, .cas, .log, .atn, .out]
  | .forwardedJob _ _ _ _ => [.jobs, .nextJob, .cas, .out]
  | .forwardedResult _ _ _ _ _ => [.jobs, .cas, .out]
  | .replicaChange _ _ _ | .forwardCancellation _ | .replicationAck _ _ => [.cas, .out]
  | .stackClassTReport _ => [.yard, .out]

/-! The words of the statements about single commands. -/

/-- The keys outside the STEWARD world (R214). -/
abbrev State.openKeys (s : State) : List Key := s.tack.keys.filter (fun k => !k.world.getLsbD 0)

/-- An allow-list record of a port that a command falls under (R136). -/
abbrev allowed (a : AllowRec) (p : Port) (r : OpRow) (w : WMode) : Prop :=
  a.opcode = r.op ∧ a.cls = r.cls ∧ a.phases.testBit (phaseBit p.phase) = true ∧ a.wires.testBit (wireBit w) = true

/-- The Stile serves the port on its proxy path and accepts the form of the command (R117, R123 to R125, R127): the clock
within its limit, a wire mode of its row in the port's wire state, in 8D-8D-8D the right opcode extension, and a dedicated 4-byte
form only where the row has one. -/
abbrev State.flashReady (s : State) (c : SpiCmd) (r : OpRow) : Prop :=
  s.core.op.powered = true ∧ c.port < s.ports.length ∧ (s.port c.port).mode = .manifest ∧
  c.khz ≤ s.upLimit c.port true (r.op == 0x03) c.wire ∧ r.modes.contains c.wire = true ∧
  wireState c.wire = (s.port c.port).wire ∧ (c.wire = .w8d → c.extOk = true) ∧ (c.form4 = true → r.op4 ≠ 0)

/-- The allow-list has a record for the command's row (R136, R137). -/
abbrev State.flashListed (s : State) (c : SpiCmd) (r : OpRow) : Prop :=
  ∃ a ∈ (s.port c.port).allow, allowed a (s.port c.port) r c.wire

/-- The Stile serves the port on its transparent path, and the command keeps to its limit (R117, R124). -/
abbrev State.flashClear (s : State) (c : SpiCmd) : Prop :=
  s.core.op.powered = true ∧ c.port < s.ports.length ∧ (s.port c.port).mode = .measure ∧
  c.khz ≤ s.clearLimit c false

/-- A command on the proxy path above the clock limit of its port (R124). -/
abbrev State.flashFast (s : State) (c : SpiCmd) (r : OpRow) : Prop :=
  s.core.op.powered = true ∧ c.port < s.ports.length ∧ (s.port c.port).mode = .manifest ∧
  s.upLimit c.port true (r.op == 0x03) c.wire < c.khz

/-- A command without data on the transparent path above the clock limit (R124). -/
abbrev State.flashClearFast (s : State) (c : SpiCmd) : Prop :=
  s.core.op.powered = true ∧ c.port < s.ports.length ∧ (s.port c.port).mode = .measure ∧ s.clearLimit c false < c.khz

/-- The digest lanes have hashed what was read of a source (R168). -/
abbrev State.hashed (s : State) (n : Nat) (x : Slot) (data : Option (List Bytes)) : Prop :=
  sha384Frames ((regionsRead (imageRegions (s.manifest n x)) data).map (·.len)) ≤ s.digestTaken n

/-- The port of a command as its meaning finds it: no Reset is armed, and a measurement read has been interrupted at a byte
boundary (R25, R126). -/
def State.portHeard (s : State) (n : Nat) : Port :=
  if s.measuring n then { s.port n with resetArmed := false, measBits := (s.port n).measBits / 8 * 8, measLead := 40 }
  else { s.port n with resetArmed := false }

/-- A refused command at its port (R139, R140). -/
abbrev State.refusedAs (s t : State) (n busy : Nat) : Prop :=
  (t.port n).refused = (s.port n).refused + 1 ∧ (t.port n).busyUntil = some (s.now + busy) ∧ (t.port n).wel = false ∧
  (t.port n).passedBusy = (s.port n).passedBusy ∧ ∀ m, m ≠ n → t.port m = s.port m

/-- The commands that stop by name: START_VERIFICATION_END and the reads where the Shed has not the address (R155), ENTER_HOLDING where
the image is of another release (R2). -/
def State.stops (s : State) : Instr → Bool
  | .enterHolding _ => !releaseOk s.boot.release
  | .startVerificationEnd n _ => (match (s.port n).cand with | some x => !s.shedFits n x | none => false)
  | .stileRead c => s.shedHole c.port (s.sized c ⟨0x03, 1, [.w111], 0x13, 0⟩).addr c.len
  | .fastRead c => s.shedHole c.port (s.sized c ⟨0x0B, 1, [.w111, .w444], 0x0C, 0⟩).addr c.len
  | .dualOutputFastRead c => s.shedHole c.port (s.sized c ⟨0x3B, 1, [.w112], 0x3C, 0⟩).addr c.len
  | .dualIoFastRead c => s.shedHole c.port (s.sized c ⟨0xBB, 1, [.w122], 0xBC, 0⟩).addr c.len
  | .quadOutputFastRead c => s.shedHole c.port (s.sized c ⟨0x6B, 1, [.w114], 0x6C, 0⟩).addr c.len
  | .quadIoFastRead c => s.shedHole c.port (s.sized c ⟨0xEB, 1, [.w144, .w444], 0xEC, 0⟩).addr c.len
  | .octalDtrRead c => s.shedHole c.port (s.sized c ⟨0xEE, 1, [.w8d], 0, 0⟩).addr c.len
  | _ => false

/-- A link's keys have reached a limit of R402. -/
abbrev State.rekeyDue (s : State) (peer : Nat) : Prop :=
  ∃ l ∈ s.cas.links, l.peer = peer ∧ (2 ^ 32 ≤ l.msgs ∨ l.keyedAt + 3600 * secFrames ≤ s.now)

/-- PLDM is served on a transport (R17, R176, R480). -/
abbrev State.pldmOpen (s : State) (t src : Nat) : Prop :=
  s.core.op.powered = true ∧ s.pwr.halted = false ∧ s.fromQuarantine t src = false ∧ (s.valU (mkKey 0x2800 0x03)).testBit t = true

/-- A portion is taken: the transfer it belongs to runs on its transport, past its manifest or header, and nothing pauses the writes
(R179, R180). -/
abbrev State.portionTaken (s : State) (t src : Nat) (x : Slot) : Prop :=
  s.core.op.powered = true ∧ s.pwr.halted = false ∧ s.sup.hold = false ∧ s.fromQuarantine t src = false ∧
  s.pldm.target = some x ∧ s.pldm.st = .download ∧ s.pldm.transport = t ∧ s.pldm.checking = false ∧ s.pldm.portion = none ∧
  s.pldm.manifestDone = true

/-- A portion has come: as much of it as was asked for. -/
def State.portioned (s : State) (d : Bytes) (b : Option (List Bytes)) : State :=
  s.modPldm (fun p => { p with
    data := p.data ++ d.take p.requestLen, received := p.received + (d.take p.requestLen).length, portion := none, readback := b })

/-- A response to the outstanding request of a partner's entry (R194, R198, R200). -/
abbrev State.responded (s : State) (k : Nat) (r : Resp) : Prop :=
  k < s.par.table.length ∧ s.serving = true ∧ s.eidQuarantined r.srcEid = false ∧
  s.addrQuarantined (s.partner k).bus r.srcAddr = false ∧ (s.partner k).waiting = true ∧ (s.partner k).tag = r.tag ∧
  (s.partner k).eid = r.srcEid

/-- A request reaches a live session, with nothing outstanding and of its connection's version (R198, R201, R209, R210). -/
abbrev State.sessReady (s : State) (q : SpdmReq) (i : Nat) (x : SpdmSess) : Prop :=
  s.spdmOn q.transport = true ∧ s.fromQuarantine q.transport q.peer = false ∧ s.spdmSess? q i = some x ∧
  s.spdmBusy q = false ∧ ∀ c, s.conn? q.transport q.peer = some c → c.version = q.version

/-- The in-band interrupt with which a target port announces a response on a bus (R186). -/
def State.announced (s : State) (bus : Nat) : List Out :=
  if isTarget bus ∧ (s.dynAddr bus).isSome then [.i3c bus 0xAE] else []

/-- The request that goes out to a partner at its step (R193, R194); FINISH and GET_MEASUREMENTS go inside the session when one
exists. -/
def State.partnerAsk (s : State) (k : Nat) : Out :=
  let p := s.partner k
  let pol := s.policy k
  if p.session ≠ 0 ∧ 7 ≤ p.step then .secured (3 + p.bus) p.eid p.session (stepCode pol p.step) (stepPayload p pol p.step)
  else .spdm (3 + p.bus) p.eid (stepCode pol p.step) (stepPayload p pol p.step)

/-- A valid SPDM request reaches a connection at one of the stages `lo` to `hi`, with nothing outstanding (R201, R202). -/
abbrev State.spdmReady (s : State) (q : SpdmReq) (c : SpdmConn) (lo hi : Nat) : Prop :=
  s.spdmOn q.transport = true ∧ s.fromQuarantine q.transport q.peer = false ∧ q.valid = true ∧
  s.conn? q.transport q.peer = some c ∧ c.owed = none ∧ lo ≤ c.stage ∧ c.stage ≤ hi ∧
  (2 ≤ c.stage → q.version = c.version)

/-- A request on a session is handled (R17, R424 to R427): the stewards serve its transport, it is the session's, which has
authenticated and handles none, and its sequence is the next one. -/
abbrev State.requestReady (s : State) (r : Req) (x : Sess) : Prop :=
  s.serving = true ∧ s.dict.sessions.find? (fun y => y.id == r.sid) = some x ∧ s.session? x.slot = some x ∧
  s.dictOn x.chan.iface = true ∧ x.busy = false ∧ x.role ≠ 0 ∧ r.seq = (x.lastSeq + 1) % 65536

/-- The Logbook takes an entry at once (R444, R455, R458, R459): it is OPEN, nothing waits before the entry, and fewer than four
entries have been written in the frame. -/
abbrev State.logOpen (s : State) : Prop :=
  s.logState = 0 ∧ s.logBlocked = false ∧ s.log.written < 4 ∧ s.summaryDue = false ∧ s.log.due = []

/-- A write of an entry is accepted and takes effect in this frame (R431 to R434, R444): its request is handled, checks 1 to 6
pass, it waits for no programme of a lane, no quorum applies to it, and the Logbook takes its entry at once. -/
abbrev State.takes (s : State) (r : Req) (x : Sess) (key : Nat) (v : Bytes) : Prop :=
  s.requestReady r x ∧ r.approver = none ∧ s.writeCheck x key v = 0 ∧ s.valueProgramme key v = none ∧
  s.needsQuorum x.role key = false ∧ s.logOpen ∧ (key = 0x400006 → s.tack.cmdsThisFrame < 8)

/-- A job that is no part of a batch (R313, R354). -/
def JobSrc.whole : JobSrc → Bool
  | .part _ => false
  | _ => true

/-- A job once its service has ended in frame `now` (R229, R381, R382): it has its status and result and completes in the next
frame, but a key change waits for its Logbook entry. -/
def Job.ended (j : Job) (e : Ending) (now : Nat) : Job :=
  { j.wiped with
    status := some e.st, settled := true, held := false, result := e.inl, dest := e.dest, resLen := e.len, newKey := e.key,
    waitsLog := decide (e.st = stOk ∧ opKeyCode j.op ≠ 0),
    completeAt := if e.st = stOk ∧ opKeyCode j.op ≠ 0 then none else some (now + 1) }

/-- How a service ends (R221, R334, R529): members that disagree and a source that fell short come before the service's own
ending. -/
def Job.ending (j : Job) (agree : Bool) (e : Ending) : Ending :=
  if agree = false then bare stFaultDetected else if j.short then bare stLengthMismatch else e

/-- How a job that takes no step ends (R334, R349): its key checks and a source that fell short come before the service's own
ending. -/
def State.noStepEnding (s : State) (j : Job) (e : Ending) : Ending :=
  if s.noStepCheck j ≠ 0 then bare (s.noStepCheck j) else if j.short then bare stLengthMismatch else e

/-- Job `id` is `j`, no part of a batch, and its last step for service `op` has ended (R44, R529). -/
abbrev State.atLastStep (s : State) (id op : Nat) (j : Job) : Prop :=
  s.job? id = some j ∧ j.atEnd op = true ∧ j.src.whole = true

/-- Job `id` has a status and completes in the frame after `now`, if nothing holds it (R382). -/
def State.closes (t : State) (id st now : Nat) : Prop :=
  ∃ y, t.job? id = some y ∧ y.status = some st ∧ y.waitsLog = false ∧ y.completeAt = some (now + 1)

/-- A key job that ended with `e` changes no key: its service failed, or a check that its change takes again does (R230). -/
def State.keyJobFails (s t : State) (id : Nat) (j : Job) (e : Ending) : Prop :=
  (e.st ≠ stOk → t.job? id = some (j.ended e s.now) ∧ t.tack = s.tack) ∧
  (e.st = stOk → s.jobCheck (j.ended e s.now) ≠ 0 → t.tack = s.tack ∧ t.closes id (s.jobCheck (j.ended e s.now)) s.now)

/-- A key job that ended with `e` adds its key (R213, R230, R333, R349): the key takes the run that is found, and the job
returns its handle and the destination bytes of `e`. -/
def State.keyJobAdds (s t : State) (id : Nat) (j : Job) (e : Ending) : Prop :=
  ∀ k slot t0, e.st = stOk → e.key = some k → s.jobCheck (j.ended e s.now) = 0 →
    s.jobPlace id k.run (k.world.getLsbD 0) = some (slot, t0) →
    t.tack.keys = s.tack.keys.filter (fun x => x.slot != slot) ++ [{ k with slot := slot, gen := s.tack.gen slot }] ∧
    ∃ y kcv, t.job? id = some y ∧ y.status = some stOk ∧ y.waitsLog = false ∧ y.dest = e.dest ∧
      y.completeAt = some (s.now + 1) ∧ y.result = leN 4 (slot + s.tack.gen slot * 32768) ++ kcv

/-- A push slot after a write TLP has merged its bytes (R375). -/
def Pad.slotWith (q : Pad) (n off : Nat) (data : Bytes) : PushSlot :=
  let old := (q.slots.find? (fun x => x.num == n)).getD { num := n, data := zeros 64, dwords := 0, sealed := false }
  { num := n, data := (old.data.take off ++ data ++ old.data.drop (off + data.length)).take 64, sealed := false,
    dwords := (List.range 16).foldl (fun (m : BitVec 16) i =>
      if off ≤ 4 * i ∧ 4 * i < off + data.length then setBit m i else m) old.dwords }

/-- The slot holds a sealed descriptor that is not yet accepted (R376). -/
def Pad.slotSealed (q : Pad) (n : Nat) : Bool := match q.slots.find? (fun x => x.num == n) with
  | some x => x.sealed
  | none => false

/-- A write TLP of whole aligned dwords (R375). -/
abbrev wholeDwords (off : Nat) (data : Bytes) : Prop := off % 4 = 0 ∧ data.length % 4 = 0 ∧ data ≠ [] ∧ off + data.length ≤ 64

/-- A refusal of a push is recorded and raised (R372, R375). -/
def Pad.refused (q q' : Pad) (code : Nat) : Prop :=
  q'.refCode = code ∧ q'.refCount = min 0xFFFF (q.refCount + 1) ∧ q'.atn.getLsbD 4 = true

/-- The other slots of a paddock. -/
def Pad.otherSlots (q : Pad) (n : Nat) : List PushSlot := q.slots.filter (fun x => x.num != n)

/-- The ring that a descriptor names (R373). -/
def PushSlot.ringOf (x : PushSlot) : Nat := field (u8 x.data 1) 2 1

/-- A paddock's reset has been accepted in frame `now` (R387, R388): RESETTING, its page empty, the reset counted. -/
def Pad.resetting (q q' : Pad) (now : Nat) : Prop :=
  q'.num = q.num ∧ q'.st = .resetting ∧ q'.slots = [] ∧ q'.ring = [ringReset, ringReset, ringReset, ringReset] ∧
  q'.resets = q.resets + 1 ∧ q'.sinceQuery = q.sinceQuery + 1 ∧ q'.resetAt = some now

/-- Paddock `p` takes a reset: it is RESETTING and its generation has moved on (R385, R387). -/
def State.resets (s t : State) (p : Nat) : Prop :=
  ∀ q, s.pad? p = some q → q.st = .enabled →
    ∃ q', t.pad? p = some q' ∧ q.resetting q' s.now ∧ t.pgen p = (s.pgen p + 1) % 256

/-- The command bytes of a manager command (R365): its code, then what the sender gives. -/
def mgrCommand (code : Nat) (cmd : Bytes) : Bytes := leN 1 code ++ (fit 64 cmd).drop 1

/-- A manager command is executed (R364, R431, R480): the stewards serve and the mailbox is free, or a manager's session has sent
it and no check before the command's own refuses it. -/
def State.managerReady (s : State) : Via → Prop
  | .mailbox => s.serving = true ∧ s.pwr.link = true ∧ s.pci.mgrBusy = false ∧ s.pci.mgrDiscard = false
  | .session r => ∃ x, s.requestReady r x ∧ r.approver = none ∧ roleIn 0x10 x.role = true ∧
      s.heldCheck x.chan.iface 0x500001 = 0 ∧ x.slot < 32

/-- A manager command has completed with a status (R364, R368): at the mailbox, or with a response. -/
def State.managed (s t : State) (v : Via) (st : Nat) : Prop := match v with
  | .mailbox => t.pci.mgrBusy = false ∧ t.pci.mgrCode = st
  | .session r => ∃ x, s.requestReady r x ∧ .reply x.id r.seq st 0 [] ∈ t.out

/-- The sender of an accepted manager command waits for the reset of a paddock (R366, R384). -/
def State.waits (s : State) (v : Via) (q : Pad) : Prop := match v with
  | .mailbox => 0 ∈ q.mgrWaits
  | .session r => ∀ x, s.requestReady r x → x.slot + 1 ∈ q.mgrWaits

/-- The manager commands by their codes (R366). -/
def managerRow (code : Nat) (v : Via) (cmd : Bytes) : Instr := match code with
  | 1 => .paddockCreate v cmd
  | 2 => .modify v cmd
  | 3 => .paddockResetCommand v cmd
  | 4 => .destroy v cmd
  | 5 => .query v cmd
  | 6 => .logStart v cmd
  | 7 => .logStop v cmd
  | _ => .logDrain v cmd

/-- A window right after START has opened a message (R271). -/
def Rdw.opened (r : Rdw) (ctrl : Nat) : Rdw :=
  { r with
    alg := ctrl % 4, keyed := bitN ctrl 2, compare := bitN ctrl 3, lastCount := 0, result := zeros 64, st := 1,
    words := 0, half := none, msg := [], free := 4096, job := none }

/-- What START refuses of a message (R255, R271); 0: nothing. -/
def Rdw.refusal (r : Rdw) : Nat :=
  if 2 ^ 32 < r.length then stBadLength else if r.alg = 0 then stBadFormat
  else if r.compare = true ∧ r.expOk = false then stBadLength else 0

/-- A message that has failed (R272): DONE without a result. -/
def Rdw.failed (r : Rdw) (code : Nat) : Rdw := { r with job := none, st := 3, code := code, result := zeros 64 }

/-- A whole word or the high half of one completes the window's word `v` (R270). -/
def Rdw.completes (r : Rdw) (high : Bool) (b v : Bytes) : Prop :=
  (8 ≤ b.length ∧ v = b.take 8) ∨ (b.length < 8 ∧ high = true ∧ v = fit 4 (r.half.getD (zeros 4)) ++ fit 4 b)

/-- Once its last word has come, a window's message is a job (R274, R275). -/
def State.windowRuns (t : State) (w : Bool) (r : Rdw) : Prop :=
  ∃ j, t.window w = { r with st := 2, job := some j.id } ∧ j ∈ t.jobs ∧ j.src = .window w ∧
    j.op = 0x40 + b2n r.keyed + 2 * b2n r.compare ∧ j.srcLen = r.length ∧
    j.data = r.msg ++ (if r.compare then r.expect.take r.expLen else [])

/-- A slot by its sub-index of the manifest entries (R174). -/
def manSlot (k : Nat) : Slot := if k = 1 then .a else if k = 2 then .b else .r

/-- The key that a command makes, in the slot that it gets (R213, R226 to R228). -/
def newKeyAt (s : State) (parent : Option Key) (a : NewKey) (secret : Bytes) (slot : Nat) : Key :=
  { makeKey parent s.tack a secret with slot := slot, gen := s.tack.gen slot }

/-- A job of a paddock is held, whatever its progress. -/
def State.holdsJob (s : State) (id pad op tag : Nat) : Prop :=
  ∃ j ∈ s.jobs, j.id = id ∧ j.src = .paddock ∧ j.pad = pad ∧ j.op = op ∧ j.tag = tag

/-- A request that is handled (R426, R427): its session holds its sequence and is busy until the answer. -/
def Sess.begun (x : Sess) (r : Req) (op now : Nat) : Sess :=
  { x with busy := true, lastSeq := r.seq, lastOp := op, lastReply := none, lastAt := now }

/-- The READ rows of R127 with the modes and the 4-byte form of each. -/
def flashReads : List ((SpiCmd → Instr) × OpRow) :=
  [(.stileRead, ⟨0x03, 1, [.w111], 0x13, 0⟩), (.fastRead, ⟨0x0B, 1, [.w111, .w444], 0x0C, 0⟩),
   (.dualOutputFastRead, ⟨0x3B, 1, [.w112], 0x3C, 0⟩), (.dualIoFastRead, ⟨0xBB, 1, [.w122], 0xBC, 0⟩),
   (.quadOutputFastRead, ⟨0x6B, 1, [.w114], 0x6C, 0⟩), (.quadIoFastRead, ⟨0xEB, 1, [.w144, .w444], 0xEC, 0⟩),
   (.octalDtrRead, ⟨0xEE, 1, [.w8d], 0, 0⟩)]

/-- The commands that set or clear one thing at their port: the row of R127, the opcode on the transparent path, the change. -/
def flashModes : List ((SpiCmd → Instr) × OpRow × Nat × (Port → Port)) :=
  [(.writeEnable, ⟨0x06, 4, allModes, 0, 0⟩, 0x06, fun p => { p with wel := true }),
   (.writeDisable, ⟨0x06, 4, allModes, 0, 0x04⟩, 0x04, fun p => { p with wel := false }),
   (.enter4ByteAddressMode, ⟨0xB7, 8, allModes, 0, 0⟩, 0xB7, fun p => { p with addr4 := true }),
   (.exit4ByteAddressMode, ⟨0xB7, 8, allModes, 0, 0xE9⟩, 0xE9, fun p => { p with addr4 := false }),
   (.resetEnable, ⟨0x66, 10, allModes, 0, 0⟩, 0x66, fun p => { p with resetArmed := true })]

/-- The PROGRAM and ERASE rows that touch a range: row of R127, bytes touched, presented busy in frames (R137, R139). -/
def flashWrites : List ((SpiCmd → Instr) × OpRow × Nat × Nat) :=
  [(.pageProgram, ⟨0x02, 5, [.w111, .w444, .w8d], 0x12, 0⟩, 256, 800), (.quadInputPageProgram, ⟨0x32, 5, [.w114], 0x34, 0⟩, 256, 800),
   (.erase4Kib, ⟨0x20, 6, allModes, 0x21, 0⟩, 4096, 60000), (.erase64Kib, ⟨0xD8, 6, allModes, 0xDC, 0⟩, 65536, 240000)]

/-- The STATUS and ID rows of R127 and what the port answers on the proxy path (R128, R134, R135). -/
def flashAnswers : List ((SpiCmd → Instr) × OpRow × (State → SpiCmd → Bytes)) :=
  [(.readStatusRegister, ⟨0x05, 2, allModes, 0, 0⟩, fun s c => List.replicate c.len
      (if (s.port c.port).phase = .hold ∨ (s.port c.port).phase = .verify then 0x01
       else BitVec.ofNat 8 (b2n (s.wip c.port) + 2 * b2n (s.port c.port).wel))),
   (.readJedecId, ⟨0x9F, 3, [.w111, .w444, .w8d], 0, 0⟩, fun s c =>
      fit c.len (if allZero (s.val (pKey c.port 0x0B)) then (s.port c.port).flashId else s.val (pKey c.port 0x0B))),
   (.readSfdp, ⟨0x5A, 3, [.w111, .w8d], 0, 0⟩, fun s c =>
      (List.range c.len).map (fun i => (s.port c.port).sfdp.getD
        (c.addr % (if c.form4 = true ∨ c.wire = .w8d then 2 ^ 32 else 2 ^ 24) + i) 0xFF))]

end Sys2Proof.Machine
end

