-- ==== Sys2Proof/Certificates/Slice0/Obligations.lean ====
section
/-! DEFINITION. The statements about the EV-7100, in the order of OBLIGATIONS.json. -/

open Sys2Proof Sys2Proof.Machine

/-- A step runs the command at the front of the queue (the form of a block; log 1). -/
def Obligations.StepTakesFrontCommand : Prop :=
  (∀ (c : Instr) (l : List Instr) (s : State), s.pending = c :: l → step s = exec c { s with pending := l }) ∧
  (∀ s : State, s.pending = [] → step s = .next s)

/-- What the state right after reset holds (R31, R102, R121, R270, R364, R507, R522, R547; log 2). -/
def Obligations.ResetLeaves : Prop :=
  State.reset.shaped ∧ State.reset.pending = [] ∧ State.reset.core.op = .booting ∧ State.reset.core.frameCt = 0 ∧
  State.reset.core.frameHi = 0 ∧ State.reset.core.scratch = 0 ∧
  State.reset.atn.cause = List.replicate 24 0 ∧ State.reset.atn.enable = List.replicate 24 0 ∧
  State.reset.atn.irqEn = true ∧ State.reset.atn.pin = false ∧
  State.reset.pci.mgrCmd = zeros 64 ∧ State.reset.pci.mgrBusy = false ∧ State.reset.pci.mgrCode = 0 ∧
  State.reset.pci.mgrResult = zeros 64 ∧
  (∀ w, (State.reset.window w).alg = 0 ∧ (State.reset.window w).key = 0 ∧ (State.reset.window w).length = 0 ∧
    (State.reset.window w).lastCount = 0 ∧ (State.reset.window w).st = 0 ∧ (State.reset.window w).early = false ∧
    (State.reset.window w).code = 0 ∧ (State.reset.window w).free = 4096 ∧ (State.reset.window w).expLen = 0 ∧
    (State.reset.window w).result = zeros 64) ∧
  State.reset.hal.level = 0xFFFFFFFF ∧ (∀ n, n < 4 → (State.reset.port n).phase = .hold)

/-- Every command completes but where it stops by name, and what it then leaves unchanged: the queue, every part of the state its list
does not name, and the fuses already blown (the rows of 95_what_each_step_holds.md; R69; the three stops are R2's and R155's). -/
def Obligations.CommandFrame : Prop :=
  (∀ (c : Instr) (s : State), s.stops c = false → ∃ t, exec c s = .next t ∧ t.pending = s.pending ∧
    (∀ p, p ∉ touches c → s.same p t) ∧ s.fuse.under t.fuse) ∧
  (∀ (c : Instr) (s t : State), exec c s = .next t → t.pending = s.pending ∧ (∀ p, p ∉ touches c → s.same p t) ∧
    s.fuse.under t.fuse)

/-- Every step keeps the shape of the state (R50, R117, R155, R190, R245, R482, R507). -/
def Obligations.StepKeepsShape : Prop :=
  ∀ (s t : State), s.shaped → step s = .next t → t.shaped

/-- The anti-rollback floor is the highest blown fuse plus one, from 0 to 255, and no command lowers it (R81). -/
def Obligations.FloorOnlyRises : Prop :=
  (∀ (f : BitVec 255) (k : Nat), k < 255 → f.getLsbD k = true → k + 1 ≤ floorOf f) ∧
  (∀ f : BitVec 255, floorOf f ≠ 0 → f.getLsbD (floorOf f - 1) = true) ∧
  (∀ f : BitVec 255, floorOf f ≤ 255) ∧
  (∀ (c : Instr) (s t : State), exec c s = .next t → floorOf s.fuse.arbFloor ≤ floorOf t.fuse.arbFloor)

/-- The 16 monotonic counters start at 0, add what is written, stop at 2^64 - 1, and never fall (R245). -/
def Obligations.MonotonicCounters : Prop :=
  State.reset.tack.mono = List.replicate 16 0 ∧
  (∀ (r : Req) (x : Sess) (n k : Nat) (s : State), s.takes r x (mkKey 0x4002 n) (encN 4 k) → n < 256 → k < 4294967296
    → ∃ t, exec (.monoInc r n k) s = .next t ∧ t.tack.mono = updAt s.tack.mono n (fun _ => min (s.tack.mono.getD n 0
    + k) (2 ^ 64 - 1)) ∧ .reply x.id r.seq (if 2 ^ 64 - 1 < s.tack.mono.getD n 0 + k then stRange else stOk) 0 [] ∈
    t.out) ∧
  (∀ (c : Instr) (s t : State), s.shaped → exec c s = .next t →
    t.tack.mono.length = 16 ∧ (∀ x ∈ t.tack.mono, x < 2 ^ 64) ∧ ∀ i, s.tack.mono.getD i 0 ≤ t.tack.mono.getD i 0)

/-- Paddock resets leave key slots alone; destroying a paddock erases the slots it owns (R237). -/
def Obligations.PaddockResetsKeepKeys : Prop :=
  (∀ (pad v : Nat) (s : State), ∃ t, exec (.paddockResetWrite pad v) s = .next t ∧ t.tack.keys = s.tack.keys) ∧
  (∀ (n : Nat) (s : State), ∃ t, exec (.vfFlr n) s = .next t ∧ t.tack.keys = s.tack.keys) ∧
  (∀ (s : State), ∃ t, exec .pfFlr s = .next t ∧ t.openKeys = s.openKeys) ∧
  (∀ (s : State), ∃ t, exec .hotReset s = .next t ∧ t.tack.keys = s.tack.keys) ∧
  (∀ (e : Bool) (n : Nat) (s : State), ∃ t, exec (.vfEnableChange e n) s = .next t ∧ t.openKeys = s.openKeys) ∧
  (∀ (e : Bool) (s : State), ∃ t, exec (.pasidEnableChange e) s = .next t ∧ t.openKeys = s.openKeys) ∧
  (∀ (n : Nat) (s : State), ∃ t, exec (.paddockResetComplete n) s = .next t ∧ t.tack.keys = s.tack.keys) ∧
  (∀ (v : Via) (cmd : Bytes) (s : State), s.managerReady v → s.logOpen → ∃ t, exec (.paddockResetCommand v cmd) s =
    .next t ∧ t.tack.keys = s.tack.keys) ∧
  (∀ (v : Via) (cmd : Bytes) (s : State), s.managerReady v → s.logOpen → s.mgrCheck (mgrCommand 4 cmd) = 0 → ∃ t,
    exec (.destroy v cmd) s = .next t ∧ (∀ k ∈ t.tack.keys, k ∈ s.tack.keys ∧ (k.owner = uLE (mgrCommand 4 cmd) 2 2 →
    k.world.getLsbD 0 = true)))

/-- The default release schedule: 32 steps, ALL_PORTS first, then a delay of 2,000 each (R114). -/
def Obligations.DefaultSchedule : Prop :=
  ∀ s : State, getKey s.dict.vals 0x200001 = none →
    scheduleCheck (s.val 0x200001) = stOk ∧ s.beginSchedule.hal.st = .running ∧ s.beginSchedule.hal.step = 1 ∧
    s.beginSchedule.hal.steps.length = 32 ∧
    ∀ k, k < 32 → ∃ h, s.beginSchedule.hal.steps[k]? = some h ∧ h.wait = (if k = 0 then 5 else 1) ∧ h.action = 1 ∧
      h.mask = BitVec.ofNat 32 (2 ^ k) ∧ (0 < k → h.count = 2000) ∧ (k = 0 → h.count = 0) ∧ h.last = decide (k = 31) ∧
      h.cont = false

/-- A PARTNER_PASS wait, as a frame boundary finds it: PASS satisfies it, FAIL stops the schedule, every other state leaves it waiting
(R109, R192). -/
def Obligations.PartnerVerdicts : Prop :=
  ∀ (h : HStep) (s : State), s.currentStep = some h → h.wait = 6 → 1 ≤ s.hal.counted →
    ∃ t, exec .releaseStepActs s.halterSees = .next t ∧
      ((s.partner h.operand).st = .pass → t.hal = (s.halterSees.hal.act s.now h).advance h) ∧
      ((s.partner h.operand).st = .fail → t.hal = { s.halterSees.hal with st := .stopped }) ∧
      ((s.partner h.operand).st ≠ .pass → (s.partner h.operand).st ≠ .fail → t = s.halterSees.fresh)

/-- What a passed start verification stores in the Shed, and that no other byte changes (R153, R155, R156, R168). -/
def Obligations.ShedStores : Prop :=
  (∀ (m : List Host.Cell) (a k : Nat) (b : Bytes),
    memRead (memWrite m a b) k = if a ≤ k ∧ k < a + b.length then b.getD (k - a) 0 else memRead m k) ∧
  (∀ (n : Nat) (x : Slot) (l : List Bytes) (s : State), n < s.ports.length → s.core.op.working = true →
    (s.port n).mode = .manifest → (s.port n).phase = .verify → (s.port n).cand = some x →
    s.sourceReason n x (some l) = 0 → s.hashed n x (some l) → s.shedFits n x = true →
    ∃ t, exec (.startVerificationEnd n (some l)) s = .next t ∧
      (∀ p ∈ (imageIndexes (s.manifest n x)).zip l, (manRegion (s.manifest n x) p.1).cls = 1 →
        ∀ i, i < p.2.length →
          memRead t.shed ((s.port n).shedBase + totalBefore (manRegions (s.manifest n x)) p.1 1 + i) = p.2.getD i 0) ∧
      (∀ a, ¬((s.port n).shedBase ≤ a ∧ a < (s.port n).shedBase + regionTotal (manRegions (s.manifest n x)) 1) →
        memRead t.shed a = memRead s.shed a)) ∧
  (∀ (n : Nat) (x : Slot) (l : Option (List Bytes)) (s : State), s.core.op.working = true → (s.port n).mode = .manifest →
    (s.port n).phase = .verify → (s.port n).cand = some x → s.sourceReason n x l = 0 → s.hashed n x l → n < s.ports.length →
    s.shedFits n x = false → exec (.startVerificationEnd n l) s = .fault .noSuchShedAddress)

/-- Supplies, reset pins, clock loss and the supply hold (R18, R491 to R495, R531 to R533, R542, R547, R548). -/
def Obligations.SupplyAndResetPins : Prop :=
  (∀ (mv : Nat) (st : Straps) (s : State), s.core.op = .off → s.pwr.vinGood = false → s.pwr.vioMg = true →
    s.pwr.sysRst = true → s.core.fullReset = none → vinRst < mv → ∃ t, exec (.vinRise mv st) s = .next t ∧ t.core.op
    = .booting ∧ t.core.resetCause = .powerOn ∧ t.pwr.vinGood = true ∧ t.pwr.hoPol = st.hoPol ∧ t.pwr.cascadeId =
    st.cascadeId ∧ t.pwr.bootSel = st.bootSel ∧ t.core.frameCt = 0) ∧
  (∀ (mv : Nat) (s : State), mv < vinRst → ∃ t, exec (.vinFall mv) s = .next t ∧ t.core.op = .off ∧ t.pwr.vinGood =
    false ∧ t.pwr.vinMv = mv ∧ t.jobs = [] ∧ t.shed = [] ∧ t.fuse = s.fuse ∧ t.log.entries = s.log.entries) ∧
  (∀ (s : State), s.core.op ≠ .off → ∃ t, exec .sysRstNLow s = .next t ∧ t.core.op = .off ∧ t.pwr.sysRst = false ∧
    t.jobs = [] ∧ t.fuse = s.fuse) ∧
  (∀ (st : Straps) (s : State), s.core.op = .off → s.pwr.sysRst = false → s.pwr.vinGood = true → s.pwr.vioMg = true →
    s.core.fullReset = none → ∃ t, exec (.sysRstNRelease st) s = .next t ∧ t.core.op = .booting ∧ t.core.resetCause =
    .sysRst ∧ t.pwr.bootSel = st.bootSel ∧ t.pwr.hoPol = s.pwr.hoPol ∧ t.core.frameCt = 0) ∧
  (∀ (st : Straps) (s : State), s.core.op = .off → s.pwr.vioMg = false → s.pwr.vinGood = true → s.pwr.sysRst = true →
    s.core.fullReset = none → ∃ t, exec (.vioMgRise st) s = .next t ∧ t.core.op = .booting ∧ t.core.resetCause =
    .powerOn ∧ t.pwr.vioMg = true ∧ t.pwr.bootSel = st.bootSel ∧ t.pwr.hoPol = st.hoPol) ∧
  (∀ (s : State), s.core.op = .running ∨ s.core.op = .holding ∨ s.core.op = .recovery ∨ s.core.op = .alarmHalt → ∃ t,
    exec (.perstNChange true) s = .next t ∧ t.pwr.perst = true ∧ t.pwr.link = true) ∧
  (∀ (s : State), s.pwr.link = true → ∃ t, exec (.perstNChange false) s = .next t ∧ t.pwr.perst = false ∧ t.pwr.link
    = false) ∧
  (∀ (s : State), s.core.op = .off → s.core.fullReset = some .refclkLoss → s.pwr.vioMg = true → s.pwr.sysRst = true →
    s.pwr.vinGood = true → ∃ t, exec .pllLock s = .next t ∧ t.core.op = .booting ∧ t.core.resetCause = .refclkLoss ∧
    t.pwr.pll = true) ∧
  (∀ (f : Nat) (s : State), s.core.op ≠ .off → s.pwr.clkLost = some f → f + 20000 ≤ s.now → ∃ t, exec
    .refclkRecoveryTimeout s = .next t ∧ t.core.op = .off ∧ t.pwr.pll = false ∧ t.core.fullReset = some .refclkLoss ∧
    t.fuse = s.fuse) ∧
  (∀ (mv : Nat) (s : State), s.core.op ≠ .off → s.core.op ≠ .deepSleep → mv < s.vinWarn → ∃ t, exec (.vinWarnCrossing
    mv) s = .next t ∧ t.sup.crossing = true ∧ t.sup.calm = 0 ∧ t.sup.hold = s.sup.hold) ∧
  (∀ (s : State), s.sup.hold = true → 7 ≤ s.sup.calm → s.sup.crossing = false → 0 < s.atn.cause.length → ∃ t, exec
    .supplyHoldEnd s = .next t ∧ t.sup.hold = false ∧ t.sup.longest = max s.sup.longest (s.sup.holdFrames + 1) ∧
    t.leaf 0 2 = true) ∧
  (∀ (s : State), s.sup.hold = true → 1999 ≤ s.sup.holdFrames → s.core.op ≠ .booting → ∃ t, exec .supplyHoldAbort s =
    .next t ∧ t.sup.abortDue = true ∧ t.sup.hold = true) ∧
  (∀ (f : Nat) (s : State), s.sup.lastEntry = some f → f + secFrames ≤ s.now → s.sup.hold = false → s.sup.counted ≠ 0
    → ∃ t, exec .supplyHoldEpisodeEntry s = .next t ∧ t.sup.lastEntry = some s.now ∧ t.sup.counted = 0 ∧
    t.sup.countedLongest = 0 ∧ t.log.due.length = s.log.due.length + 1)

/-- The start: ROM, steward control registers, trial watchdog, and the entry to HOLDING (R1, R2, R62, R64, R86 to R88,
R93). -/
def Obligations.StartSequence : Prop :=
  (∀ (r : RomInput) (s : State), s.core.op = .booting → s.boot.romDone = false → s.sup.hold = false → s.pwr.pll =
    true → ∃ t, exec (.romStart r) s = .next t ∧ t.boot.romDone = true ∧ (t.boot.handover.isSome ∨
    t.boot.stuck.isSome) ∧ t.core = s.core) ∧
  (∀ (c : Nat) (s : State), s.core.op = .booting → s.boot.stuck = some c → ∃ t, exec .getstatus s = .next t ∧ t.out =
    [.i3c 2 (c * 256)]) ∧
  (∀ (v : BitVec 32) (s : State), v.getLsbD 0 = true → ∃ t, exec (.romLockWrite v) s = .next t ∧ t.boot.romLock =
    true) ∧
  (∀ (v : BitVec 32) (s : State), ∃ t, exec (.coreReleaseWrite v) s = .next t ∧ t.boot.coreRelease =
    s.boot.coreRelease ||| (v >>> 1).setWidth 3) ∧
  (∀ (v : BitVec 32) (h : Handover) (s : State), v.getLsbD 0 = true → s.boot.handover = some h → ∃ t, exec
    (.handoverLockWrite v) s = .next t ∧ t.boot.handover = none ∧ t.boot.handoverLock = true ∧ t.boot.tackBuilt =
    true ∧ t.boot.sId = h.sId ∧ t.boot.sAud = h.sAud ∧ t.boot.cdi1 = h.cdi1 ∧ t.boot.bootKey = h.kv ∧ (s.tack.keys =
    [] → s.tack.retired = [] → s.tack.loads = [] → s.tack.sptr = 1 → ∀ x ∈ [h.kv, h.cdi1, h.sId, h.sAud] ++ [p384Key h.sId, p384Key
    (hmac384 h.cdi1 (ascii "EV7100-ALIAS")), p384Key h.sAud], ∃ k ∈ t.tack.keys, k.secret = x ∧ k.world = 1)) ∧
  (∀ (f : Nat) (s : State), s.boot.trialFrom = some f → s.core.op ≠ .off → f + s.trialWindow
    ≤ s.now → ∃ t, exec .trialWatchdogExpiry s = .next t ∧ t.core.op = .booting ∧ t.core.resetCause = .trialExpired ∧
    t.boot.trialFrom = none) ∧
  (∀ (h : HoldInput) (s : State), s.stageOneDone = true → releaseOk s.boot.release = true → ∃ t, exec (.enterHolding
    h) s = .next t ∧ (t.core.op = .holding ∨ t.core.op = .alarmHalt) ∧ t.pwr.link = s.pwr.perst ∧ t.core.frameCt =
    s.core.frameCt ∧ t.fuse = s.fuse) ∧
  (∀ (h : HoldInput) (s : State), s.stageOneDone = true → releaseOk s.boot.release = false → exec (.enterHolding h) s
    = .refused .otherRelease)

/-- How stack formation ends (R31, R401 to R403; log 51). -/
def Obligations.StackFormation : Prop :=
  (∀ (f : FormInput) (s : State), s.forming = true → f.idOk = true → f.failStep = 0 → -2 ≤ f.offset → f.offset ≤ 2 →
    s.peerFits (s.bankVal (mkKey 0x9000 0x04)) f.master f.peer = true → ∃ t, exec (.stackFormation f) s = .next t ∧ t.cas.role = .member ∧ t.cas.formDone = true ∧
    t.core.frameCt = f.frame ∧ t.yard.sheet = f.sheet ∧ t.yard.base = f.base ∧ (⟨8, linkKeysOf f.secret
    f.transcript, 0, s.now⟩ : LinkKey) ∈ t.cas.links) ∧
  (∀ (f : FormInput) (s : State), s.forming = true → f.idOk = false ∨ f.failStep ≠ 0 ∨ f.offset < -2 ∨ 2 < f.offset ∨
    s.peerFits (s.bankVal (mkKey 0x9000 0x04)) f.master f.peer = false → ∃ t, exec (.stackFormation f) s = .next t ∧
    t.cas.role = .standalone ∧ t.cas.formDone = true ∧ t.yard = s.yard ∧ t.core = s.core) ∧
  (∀ (f : Nat) (s : State), s.forming = true → s.cas.formAt = some f → f + s.bankU (mkKey 0x9000 0x05) * msFrames ≤
    s.now → ∃ t, exec .formTimeout s = .next t ∧ t.cas.role = .standalone ∧ t.cas.formDone = true ∧ t.cas.cl0 =
    false)

/-- How the release schedule moves, and the pulses and inputs of the Halter (R106, R108 to R111). -/
def Obligations.ReleaseSchedule : Prop :=
  (∀ (h : HStep) (s : State), s.currentStep = some h → s.halterSees.hal.met = s.waitMet h ∧ s.halterSees.hal.fails =
    s.waitFails h ∧ s.halterSees.currentStep = some h) ∧
  (∀ (h : HStep) (s : State), s.currentStep = some h → s.hal.fails = false → s.hal.met = true → ∃ t, exec
    .releaseStepActs s = .next t ∧ t.hal = (s.hal.act s.now h).advance h) ∧
  (∀ (h : HStep) (s : State), s.currentStep = some h → s.hal.fails = false → s.hal.met = false → exec .releaseStepActs s =
    .next s.fresh) ∧
  (∀ (h : HStep) (s : State), s.currentStep = some h → s.hal.fails = true → 0 < s.atn.cause.length - 5 → ∃ t, exec
    .releaseStepActs s = .next t ∧ t.hal = { s.hal with st := .stopped } ∧ t.leaf 5 0 = true) ∧
  (∀ (h : HStep) (s : State), s.currentStep = some h → h.wait ≠ 1 → h.count ≠ 0 → h.count ≤ s.hal.counted →
    s.hal.fails = false → s.hal.met = false → h.cont = false → ∃ t, exec .waitTimeout s = .next t ∧ t.hal =
    { s.hal with st := .stopped }) ∧
  (∀ (h : HStep) (s : State), s.currentStep = some h → h.wait ≠ 1 → h.count ≠ 0 → h.count ≤ s.hal.counted →
    s.hal.fails = false → s.hal.met = false → h.cont = true → ∃ t, exec .waitTimeout s = .next t ∧ t.hal =
    (s.hal.act s.now h).advance h) ∧
  (∀ (k : Nat) (s : State), s.hal.pulses.any (fun p => p.1 == k && decide (p.2 ≤ s.now)) = true → ∃ t, exec
    (.pulseEnd k) s = .next t ∧ t.hal.level = clearBits s.hal.level (BitVec.ofNat 32 (2 ^ k)) ∧ t.hal.pulses =
    s.hal.pulses.filter (fun p => p.1 != k)) ∧
  (∀ (k : Nat) (v : Bool) (s : State), s.hal.hiLevel.getLsbD k ≠ v → k < 32 → s.core.op ≠ .off → s.hal.steady k v = true →
    ∃ t, exec (.hiLevelChange k v) s = .next t ∧ t.hal.hiLevel.getLsbD k = v ∧ t.hal.level = s.hal.level ∧ ∀ j, j ≠ k →
    t.hal.hiLevel.getLsbD j = s.hal.hiLevel.getLsbD j)

/-- What a frame boundary does to the frame count, the clocks and the inputs (R21, R31, R33, R106, R451, R500, R541, R543, R547). -/
def Obligations.FrameBoundary : Prop :=
  (∀ (vinMv active : Nat) (temps : List Int) (ppm : Int) (hi : BitVec 32) (s : State), s.core.op = .off → ∃ t, exec
    (.frameBoundary vinMv ⟨active, hi⟩ temps ppm) s = .next t ∧ t = s.fresh.secondsPass ppm ∧ t.core = s.core ∧ t.jobs =
    s.jobs ∧ t.dict = s.dict) ∧
  (∀ (vinMv active : Nat) (temps : List Int) (ppm : Int) (hi : BitVec 32) (s : State), s.core.op.powered = true →
    s.core.fullReset = none → ∃ t, exec (.frameBoundary vinMv ⟨active, hi⟩ temps ppm) s = .next t ∧ t.core.frameCt =
    s.core.frameCt + 1 ∧ t.core.tick = s.core.tick + 1 ∧ t.core.starts = s.core.starts) ∧
  (∀ (vinMv active : Nat) (temps : List Int) (ppm : Int) (hi : BitVec 32) (s : State), s.core.op = .booting →
    s.core.fullReset = none → ∃ t, exec (.frameBoundary vinMv ⟨active, hi⟩ temps ppm) s = .next t ∧ t.core.frameCt =
    s.core.frameCt + 1 ∧ t.core.tick = s.core.tick + 1 ∧ t.core.starts = s.core.starts) ∧
  (∀ (vinMv active : Nat) (temps : List Int) (ppm : Int) (hi : BitVec 32) (s : State), s.core.op = .deepSleep →
    s.pwr.poweredDown = true → ∃ t, exec (.frameBoundary vinMv ⟨active, hi⟩ temps ppm) s = .next t ∧ t.core.tick =
    s.core.tick + 1 ∧ t.core.op = .deepSleep ∧ t.core.frameCt = s.core.frameCt ∧ t.hal.samples = hi :: s.hal.samples.take 3) ∧
  (∀ (c : ResetCause) (vinMv active : Nat) (temps : List Int) (ppm : Int) (hi : BitVec 32) (s : State), s.core.op =
    .booting → s.core.fullReset = some c → s.mon.due = 0 → ∃ t, exec (.frameBoundary vinMv ⟨active, hi⟩ temps ppm) s = .next
    t ∧ t.core.op = .booting ∧ t.core.resetCause = c ∧ t.core.frameCt = 0 ∧ t.core.starts = s.core.starts + 1 ∧
    t.core.fullReset = none) ∧
  (∀ (ppm : Int) (s : State), s.pwr.vinGood = true ∨ s.pwr.vbatOk = true →
    (s.log.fracFrames + 1 < secFrames → (s.secondsPass ppm).log.fracFrames = s.log.fracFrames + 1 ∧
      (s.secondsPass ppm).log.secs = s.log.secs) ∧
    (secFrames ≤ s.log.fracFrames + 1 → (s.secondsPass ppm).log.fracFrames = 0 ∧ (s.secondsPass ppm).log.secs =
      s.log.secs + 1))

/-- Sheet switches, domain wakes, deep sleep and debugger halts (R54 to R58, R412, R480, R538, R545, R546). -/
def Obligations.SheetAndPower : Prop :=
  (∀ (n : Nat) (s : State), s.core.op.powered = true → s.cas.remote = none → s.roundBoundary (s.core.frameCt + 1) =
    true → s.nextSheet = some n → s.cas.role ≠ .master → ∃ t, exec .sheetSwitch s = .next t ∧ t.yard.sheet = n ∧
    t.yard.base = s.core.frameCt + 1 ∧ t.yard.safe = s.yard.safeDue ∧ t.yard.pending = none ∧ t.leaf 0 11 = (decide
    (0 < s.atn.cause.length) || s.leaf 0 11)) ∧
  (∀ (n b : Nat) (v : Bool) (s : State), s.cas.role = .member → s.hasSheet n = true → s.core.frameCt < b → ∃ t, exec
    (.remoteSheetSwitch n b v) s = .next t ∧ t.cas.remote = some (n, b, v) ∧ t.yard = s.yard) ∧
  (∀ (m : Nat) (s : State), s.cas.role = .master → s.members.contains m = true → s.core.op ≠ .booting → s.yard.sheet
    ≠ s.safeSheet → ∃ t, exec (.stackClassTReport m) s = .next t ∧ t.yard.safeDue = true ∧ t.yard.sheet =
    s.yard.sheet) ∧
  (∀ (d f : Nat) (s : State), (d, f) ∈ s.pwr.waking → f + 23 ≤ s.now → ∃ t, exec (.domainWakeEnd d) s = .next t ∧ (d,
    f) ∉ t.pwr.waking ∧ t.pwr.gated = s.pwr.gated) ∧
  (∀ (k : Nat) (s : State), s.core.op = .deepSleep → s.pwr.poweredDown = true → k < 32 → (s.valU (mkKey 0x7100
    0x02)).testBit k = true → ∃ t, exec (.wake .hi k) s = .next t ∧ t.core.op = .booting ∧ t.core.resetCause = .wake
    ∧ t.core.wakeLast = .hi) ∧
  (∀ (s : State), s.core.op = .deepSleep → s.pwr.poweredDown = false → s.pwr.wakeLatched = none → s.valU (mkKey
    0x7100 0x03) ≠ 0 → ∃ t, exec .wakeTimerExpiry s = .next t ∧ t.core.op = .deepSleep ∧ t.pwr.wakeLatched = some
    .timer) ∧
  (∀ (s : State), s.core.op = .deepSleep → s.pwr.poweredDown = true → s.valU (mkKey 0x7100 0x03) ≠ 0 → ∃ t, exec
    .wakeTimerExpiry s = .next t ∧ t.core.op = .booting ∧ t.core.resetCause = .wake) ∧
  (∀ (s : State), s.haltScope = true → s.core.op ≠ .off → s.core.op ≠ .deepSleep → ∃ t, exec .debuggerHalt s = .next
    t ∧ t.pwr.halted = true) ∧
  (∀ (s : State), ∃ t, exec .debuggerResume s = .next t ∧ t.pwr.halted = false ∧ t.core = s.core)

/-- Detections, responses, self-clearing latches, the backup domain and the DRBG (R21, R246, R484 to R490, R499 to
R504). -/
def Obligations.MonitorEvents : Prop :=
  (∀ (n : Nat) (s : State), n < 21 → s.core.op ≠ .off → s.core.op ≠ .deepSleep → (n < 12 → (s.monConfig n).testBit 3
    = true) → s.mon.testEnd = none → s.mon.latched.getLsbD n = false → s.monConfig n % 4 < 3 → ∃ t, exec
    (.monitorDetect n) s = .next t ∧ t.mon.latched = setBit s.mon.latched n ∧ t.mon.due = setBit s.mon.due n ∧ (2 ≤
    s.monConfig n % 4 → t.mon.word = setBit s.mon.word n) ∧ t.core = s.core ∧ t.tack = s.tack) ∧
  (∀ (n : Nat) (s : State), n < 21 → s.core.op ≠ .off → s.core.op ≠ .deepSleep → (n < 12 → (s.monConfig n).testBit 3
    = true) → s.mon.testEnd = none → s.mon.latched.getLsbD n = false → s.monConfig n % 4 = 3 → ∃ t, exec
    (.monitorDetect n) s = .next t ∧ t.mon.latched = setBit s.mon.latched n ∧ t.mon.wordZ = setBit s.mon.wordZ n ∧
    t.mon.zDue = true ∧ t.tack.keys = [] ∧ t.tack.srk = none ∧ t.tack.bootKey = none ∧ t.tack.mram = s.tack.mram ∧
    t.shed = [] ∧ t.tagTable = []) ∧
  (∀ (s : State), s.mon.due ≠ 0 → ∃ t, exec .alarmResponse s = .next t ∧ t.mon.due = 0 ∧ t.core.frameCt =
    s.core.frameCt) ∧
  (∀ (n : Nat) (s : State), s.mon.latched.getLsbD n = true → s.mon.cls.getD n 0 < 2 → s.mon.due.getLsbD n = false →
    21 ≤ n ∨ (s.mon.active.getLsbD n = false ∧ s.mon.inactiveAt.getD n 0 + secFrames ≤ s.now) → ∃ t, exec
    (.latchSelfClear n) s = .next t ∧ t.mon.latched = clearBits s.mon.latched (BitVec.ofNat 24 (2 ^ n))) ∧
  (∀ (real : Bool) (e : Nat) (s : State), s.mon.testEnd = some e → e ≤ s.now → (if s.mon.testMon < 21 then real else
    s.mon.heldBack.getLsbD s.mon.testMon) = false → ∃ t, exec (.monTestWindowEnd true real) s = .next t ∧
    t.mon.testEnd = none ∧ t.mon.testResult = .pass ∧ t.mon.latched = s.mon.latched) ∧
  (∀ (n : Nat) (s : State), s.core.op = .off → backupWatched n = true → s.mon.word.getLsbD n = false → s.pwr.vinGood
    = true ∨ s.pwr.vbatOk = true → (n < 12 → (s.monConfig n).testBit 3 = true) → ∃ t, exec (.backupDetection n) s =
    .next t ∧ t.mon.fifo = fifoAdd s.mon.fifo ⟨s.log.secs, n, s.monConfig n % 4, (s.monConfig n).testBit 2,
    !s.pwr.vinGood, 1⟩ ∧ (2 ≤ s.monConfig n % 4 → t.mon.word = setBit s.mon.word n) ∧ (s.monConfig n % 4 = 3 →
    t.tack.srk = none ∧ t.tack.bootKey = none ∧ t.mon.wordZ = setBit s.mon.wordZ n)) ∧
  (∀ (s : State), s.pwr.vinGood = false → ∃ t, exec .vbatCollapse s = .next t ∧ t.tack.srk = none ∧ t.tack.bootKey =
    none ∧ t.mon.word = 0 ∧ t.mon.fifo = [] ∧ t.mon.valid = false ∧ t.log.secs = 0 ∧ t.pwr.vbatOk = false) ∧
  (∀ (s : State), s.pwr.vinGood = true → ∃ t, exec .vbatCollapse s = .next t ∧ t.pwr.vbatOk = false ∧ t.tack = s.tack
    ∧ t.mon = s.mon ∧ t.log = s.log) ∧
  (∀ (s : State), s.core.op ≠ .off → s.core.op ≠ .deepSleep → s.tack.drbgOk = true → 0 < s.atn.cause.length → ∃ t,
    exec .entropyTestFail s = .next t ∧ t.tack.drbgOk = false ∧ t.leaf 0 5 = true ∧ t.tack.keys = s.tack.keys) ∧
  (∀ (s : State), s.core.op ≠ .off → s.core.op ≠ .deepSleep → s.tack.drbgOk = false → 0 < s.atn.cause.length → ∃ t,
    exec .drbgRecovery s = .next t ∧ t.tack.drbgOk = true ∧ t.leaf 0 6 = true) ∧
  (∀ (h : HoldInput) (s : State), s.core.op = .alarmHalt → s.haltLatched = false → s.mon.due = 0 → s.core.zSince =
    false → s.core.before ≠ .booting → ∃ t, exec (.leaveAlarmHalt h) s = .next t ∧ t.core.op = s.core.before ∧
    t.core.frameCt = s.core.frameCt) ∧
  (∀ (h : HoldInput) (s : State), s.core.op = .alarmHalt → s.haltLatched = false → s.mon.due = 0 → s.core.zSince =
    true → ∃ t, exec (.leaveAlarmHalt h) s = .next t ∧ t.core.op = .booting ∧ t.core.resetCause = .alarmClear ∧
    t.core.frameCt = 0)

/-- Device jobs: self-tests, pair checks, checkpoints, and the nonces of debug and life cycle (R324 to R326, R453 to
R455, R473, R475, R496 to R498). -/
def Obligations.DeviceJobs : Prop :=
  (∀ (s : State), s.core.op.powered = true → s.yard.lastPeriod + s.valU (mkKey 0x7000 0x09) * secFrames ≤ s.now → ∃
    t, exec .selfTestPeriod s = .next t ∧ t.yard.lastPeriod = s.now ∧ t.devJobs.any (fun d => d.what == .zeroPass) =
    true ∧ t.jobs = s.jobs) ∧
  (∀ (l : Nat) (s : State), l < 92 → s.devEnded (.selfTest l) = true → l < s.yard.lanes.length → ∃ t, exec
    (.selfTestResult l true) s = .next t ∧ t.devJobs = (s.dropDev (.selfTest l)).devJobs ∧ t.lane l =
    { s.lane l with needTest := false } ∧ t.mon = s.mon) ∧
  (∀ (l : Nat) (s : State), l < 92 → s.devEnded (.selfTest l) = true → s.yard.lanes.length = 92 → ∃ t, exec
    (.selfTestResult l false) s = .next t ∧ (t.lane l).disabled = true ∧ (s.mon.testEnd = none →
    t.mon.latched.getLsbD 23 = true)) ∧
  (∀ (l : Nat) (s : State), s.devEnded (.pairCheck l) = true → l < s.yard.lanes.length → ∃ t, exec
    (.pairCheckComplete l true) s = .next t ∧ (t.lane l).quarantine = false ∧ (t.lane l).disabled = false ∧ (t.lane
    l).needTest = false ∧ t.yard.faults = s.yard.faults) ∧
  (∀ (l : Nat) (s : State), s.devEnded (.pairCheck l) = true → l < s.yard.lanes.length → ∃ t, exec
    (.pairCheckComplete l false) s = .next t ∧ (t.lane l).disabled = true ∧ (t.lane l).quarantine = false ∧
    t.yard.faults = s.yard.faults + 1) ∧
  (∀ (s : State), s.core.op.powered = true → 1022 ≤ s.log.sinceCkpt ∨ s.log.owed = true → s.devJobs.any (fun d =>
    d.what == .checkpoint) = false → ∃ t, exec .checkpointDue s = .next t ∧ t.log.owed = true ∧ t.devJobs = s.devJobs
    ++ [⟨s.nextJob, .checkpoint, s.now, none, 0⟩] ∧ t.log.entries = s.log.entries) ∧
  (∀ (b : Bytes) (s : State), s.log.signing = some b → s.devEnded .checkpoint = true → s.sup.hold = false →
    s.pwr.halted = false → s.log.written ≤ 2 → s.ckptRoom = true → ∃ t, exec .checkpointWritten s = .next t ∧
    t.log.signing = none ∧ t.log.owed = false ∧ t.log.sinceCkpt = 0 ∧ t.log.ckptLast = s.log.head ∧ t.log.head =
    s.log.head + 2) ∧
  (∀ (b : Bytes) (f : Nat) (s : State), s.lc.nonce = some (b, f) → f + 600000000 ≤ s.now → ∃ t, exec .nonceExpiry s =
    .next t ∧ t.lc.nonce = none) ∧
  (∀ (s : State), s.core.op = .booting → s.boot.stuck.isSome = true → s.lcCode = 2 ∨ s.lcCode = 3 → ∃ t, exec
    (.lcMailboxToken []) s = .next t ∧ t.lc.jtagNonce = some (Config.drbg s.tack.draws 32) ∧ t.out = [.jtag
    (Config.drbg s.tack.draws 32)] ∧ t.tack.draws = s.tack.draws + 1) ∧
  (∀ (b : Bytes) (s : State), s.core.op = .booting → s.boot.stuck.isSome = true → s.lcCode = 5 → ∃ t, exec
    (.lcMailboxToken b) s = .next t ∧ t.out = [.jtag (leN 8 s.fuse.serial.toNat)])

/-- Host flash reads on the proxy path (R120, R124, R127, R128, R130 to R132, R153 to R155). -/
def Obligations.FlashReads : Prop :=
  ∀ x ∈ flashReads, ∀ (c : SpiCmd) (s : State),
    (s.flashReady c x.2 → s.flashListed c x.2 → s.shedHole c.port (s.sized c x.2).addr c.len = true →
      exec (x.1 c) s = .fault .noSuchShedAddress) ∧
    (s.flashReady c x.2 → s.flashListed c x.2 → s.shedHole c.port (s.sized c x.2).addr c.len = false →
      ∃ t, exec (x.1 c) s = .next t ∧ t.shed = s.shed ∧ t.core = s.core ∧
      ((s.port c.port).phase = .hold ∨ (s.port c.port).phase = .verify →
        t.out = [.up c.port (List.replicate c.len 0xFF)] ∧
        t.port c.port = { s.port c.port with resetArmed := false } ∧ ∀ m, m ≠ c.port → t.port m = s.port m) ∧
      (¬((s.port c.port).phase = .hold ∨ (s.port c.port).phase = .verify) →
        ∃ b, Out.up c.port b ∈ t.out ∧ b.length = c.len ∧ ∀ i, i < c.len →
          (s.byteSrc c.port ((s.sized c x.2).addr + i) = .hole → b.getD i 0 = 0xFF) ∧
          (∀ a, s.byteSrc c.port ((s.sized c x.2).addr + i) = .shed a → b.getD i 0 = s.shedByte a) ∧
          (∀ f a, s.byteSrc c.port ((s.sized c x.2).addr + i) = .flash f a →
            b.getD i 0 = c.data.getD i 0xFF ∨ b.getD i 0 = 0xFF))) ∧
    (s.flashReady c x.2 → ¬s.flashListed c x.2 → ∃ t, exec (x.1 c) s = .next t ∧ t.out = [.undriven c.port] ∧
      t.port c.port = { s.port c.port with resetArmed := false, unknown := (s.port c.port).unknown + 1 } ∧
      ∀ m, m ≠ c.port → t.port m = s.port m) ∧
    (s.flashFast c x.2 → ∃ t, exec (x.1 c) s = .next t ∧ t.out = [.up c.port (List.replicate c.len 0xFF)] ∧
      t.port c.port = { s.port c.port with resetArmed := false, lateBytes := (s.port c.port).lateBytes + c.len } ∧
      ∀ m, m ≠ c.port → t.port m = s.port m)

/-- Mode and write-enable commands at a port (R118, R123 to R127, R136 to R138). -/
def Obligations.FlashModes : Prop :=
  ∀ x ∈ flashModes, ∀ (c : SpiCmd) (s : State),
    (s.flashReady c x.2.1 → s.flashListed c x.2.1 → ∃ t, exec (x.1 c) s = .next t ∧
      t.port c.port = x.2.2.2 { s.port c.port with resetArmed := false } ∧ (∀ m, m ≠ c.port → t.port m = s.port m) ∧
      t.out = []) ∧
    ((s.flashReady c x.2.1 ∧ ¬s.flashListed c x.2.1) ∨ s.flashFast c x.2.1 → ∃ t, exec (x.1 c) s = .next t ∧
      t.port c.port = { s.port c.port with resetArmed := false, unknown := (s.port c.port).unknown + 1 } ∧
      (∀ m, m ≠ c.port → t.port m = s.port m) ∧ t.out = [.undriven c.port]) ∧
    (s.flashClear c → ∃ t, exec (x.1 c) s = .next t ∧ t.port c.port = x.2.2.2 (s.portHeard c.port) ∧
      (∀ m, m ≠ c.port → t.port m = s.port m) ∧ t.out = [.down c.port 0 x.2.2.1 c.addr c.data]) ∧
    (s.flashClearFast c → ∃ t, exec (x.1 c) s = .next t ∧
      t.port c.port = { s.portHeard c.port with unknown := (s.port c.port).unknown + 1 } ∧
      (∀ m, m ≠ c.port → t.port m = s.port m) ∧
      t.out = [.cut c.port (x.2.1.sent c) x.2.1.cutAt, .down c.port 0 0x04 0 []])

/-- Program and erase commands: passed, refused, or ignored without write enable (R24, R118, R127, R137 to R141, R153). That presented
WEL clears with a command that passes is the model's choice (log 99). -/
def Obligations.FlashWrites : Prop :=
  ∀ x ∈ flashWrites, ∀ (c : SpiCmd) (s : State),
    (s.flashReady c x.2.1 → (s.port c.port).wel = false → ∃ t, exec (x.1 c) s = .next t ∧
      t.port c.port = { s.port c.port with resetArmed := false } ∧ (∀ m, m ≠ c.port → t.port m = s.port m) ∧ t.out = []) ∧
    (∀ f : Nat × Nat, s.flashReady c x.2.1 → s.flashListed c x.2.1 → (s.port c.port).wel = true →
      s.mayWrite c.port ((s.sized c x.2.1).addr / x.2.2.1 * x.2.2.1) x.2.2.1 = true →
      s.flashAt c.port (s.sized c x.2.1).addr = some f →
      ∃ t, exec (x.1 c) s = .next t ∧ t.out = [.down c.port f.1 (x.2.1.sent c) f.2 c.data] ∧
        t.port c.port = { s.port c.port with
          resetArmed := false, wel := false, passedBusy := true, busyCs := f.1, pollAt := s.now + 8 } ∧
        ∀ m, m ≠ c.port → t.port m = s.port m) ∧
    (s.flashReady c x.2.1 → (s.port c.port).wel = true →
      ¬s.flashListed c x.2.1 ∨ s.mayWrite c.port ((s.sized c x.2.1).addr / x.2.2.1 * x.2.2.1) x.2.2.1 = false →
      ∃ t, exec (x.1 c) s = .next t ∧ s.refusedAs t c.port x.2.2.2 ∧ t.out = []) ∧
    (s.flashFast c x.2.1 → ∃ t, exec (x.1 c) s = .next t ∧ t.out = [.undriven c.port] ∧
      t.port c.port = { s.port c.port with resetArmed := false, unknown := (s.port c.port).unknown + 1 } ∧
      ∀ m, m ≠ c.port → t.port m = s.port m) ∧
    (s.flashClear c → (s.port c.port).phase = .hold ∨ (s.sized c x.2.1).addr / x.2.2.1 * x.2.2.1 < 0x100000 →
      ∃ t, exec (x.1 c) s = .next t ∧ s.refusedAs t c.port x.2.2.2 ∧
        t.out = [.cut c.port (x.2.1.sent c) .address, .down c.port 0 0x04 0 []]) ∧
    (s.flashClear c → (s.port c.port).phase ≠ .hold → 0x100000 ≤ (s.sized c x.2.1).addr / x.2.2.1 * x.2.2.1 →
      ∃ t, exec (x.1 c) s = .next t ∧ t.out = [.down c.port 0 (x.2.1.sent c) (s.sized c x.2.1).addr c.data] ∧
        t.port c.port = { s.portHeard c.port with wel := false, passedBusy := true, busyCs := 0, pollAt := s.now + 8 } ∧
        ∀ m, m ≠ c.port → t.port m = s.port m) ∧
    (s.flashClearFast c → ∃ t, exec (x.1 c) s = .next t ∧
      t.port c.port = { s.portHeard c.port with unknown := (s.port c.port).unknown + 1 } ∧
      t.out = [.cut c.port (x.2.1.sent c) .address, .down c.port 0 0x04 0 []] ∧ ∀ m, m ≠ c.port → t.port m = s.port m)

/-- Status, JEDEC ID and SFDP reads on the proxy path (R124, R127, R128, R134 to R136). -/
def Obligations.FlashIdentity : Prop :=
  ∀ x ∈ flashAnswers, ∀ (c : SpiCmd) (s : State),
    (s.flashReady c x.2.1 → ∃ t, exec (x.1 c) s = .next t ∧
      (s.flashListed c x.2.1 → t.out = [.up c.port (x.2.2 s c)] ∧
        t.port c.port = { s.port c.port with resetArmed := false }) ∧
      (¬s.flashListed c x.2.1 → t.out = [.undriven c.port] ∧
        t.port c.port = { s.port c.port with resetArmed := false, unknown := (s.port c.port).unknown + 1 }) ∧
      ∀ m, m ≠ c.port → t.port m = s.port m) ∧
    (s.flashFast c x.2.1 → ∃ t, exec (x.1 c) s = .next t ∧ t.out = [.up c.port (List.replicate c.len 0xFF)] ∧
      t.port c.port = { s.port c.port with resetArmed := false, lateBytes := (s.port c.port).lateBytes + c.len } ∧
      ∀ m, m ≠ c.port → t.port m = s.port m)

/-- Reads and unknown opcodes on the transparent path (R25, R117, R118, R124, R138, R139). -/
def Obligations.FlashTransparent : Prop :=
  (∀ (c : SpiCmd) (s : State), s.flashClear c → ∃ t, exec (.readStatusRegister c) s = .next t ∧
      t.port c.port = s.portHeard c.port ∧ (∀ m, m ≠ c.port → t.port m = s.port m) ∧
      ((∀ f, (s.port c.port).busyUntil = some f → f ≤ s.now) →
        t.out = [.down c.port 0 (OpRow.sent ⟨0x05, 2, allModes, 0, 0⟩ c) (s.sized c ⟨0x05, 2, allModes, 0, 0⟩).addr [],
          .up c.port (fit c.len c.data)]) ∧
      (∀ f, (s.port c.port).busyUntil = some f → s.now < f →
        t.out = [.down c.port 0 (OpRow.sent ⟨0x05, 2, allModes, 0, 0⟩ c) (s.sized c ⟨0x05, 2, allModes, 0, 0⟩).addr [],
          .up c.port (List.replicate c.len 0x01)])) ∧
  (∀ x ∈ flashReads ++ [(.readJedecId, ⟨0x9F, 3, [.w111, .w444, .w8d], 0, 0⟩), (.readSfdp, ⟨0x5A, 3, [.w111, .w8d], 0, 0⟩)],
    ∀ (c : SpiCmd) (s : State), s.core.op.powered = true → c.port < s.ports.length → (s.port c.port).mode = .measure →
    (c.khz ≤ s.clearLimit c (x.2.op == 0x03) → ∃ t, exec (x.1 c) s = .next t ∧
      t.out = [.down c.port 0 (x.2.sent c) (s.sized c x.2).addr [], .up c.port (fit c.len c.data)] ∧
      t.port c.port = s.portHeard c.port ∧ ∀ m, m ≠ c.port → t.port m = s.port m) ∧
    (s.clearLimit c (x.2.op == 0x03) < c.khz → ∃ t, exec (x.1 c) s = .next t ∧
      t.out = [.up c.port (List.replicate c.len 0xFF)] ∧
      t.port c.port = { s.portHeard c.port with lateBytes := (s.port c.port).lateBytes + c.len } ∧
      ∀ m, m ≠ c.port → t.port m = s.port m)) ∧
  (∀ (c : SpiCmd) (op : Nat) (s : State), s.flashClear c → op ≠ 0x31 → op ≠ 0x11 →
    ∃ t, exec (.unknownCommand c op) s = .next t ∧ t.port c.port = s.portHeard c.port ∧
      (∀ m, m ≠ c.port → t.port m = s.port m) ∧
      t.out = (if 0 < c.len then [.down c.port 0 op c.addr [], .up c.port (fit c.len c.data)]
        else [.down c.port 0 op c.addr c.data])) ∧
  (∀ (c : SpiCmd) (s : State), s.flashClear c → ∃ t, exec (.writeVolatileConfiguration c) s = .next t ∧
    t.port c.port = s.portHeard c.port ∧ (∀ m, m ≠ c.port → t.port m = s.port m) ∧
    t.out = [.down c.port 0 0x81 c.addr c.data])

/-- Commands the Stile refuses whole, and their exceptions (R118, R123, R125, R136 to R140). That ADDR4 is set on entry to 8D-8D-8D is
the model's choice (log 100). -/
def Obligations.FlashRefusals : Prop :=
  (∀ (c : SpiCmd) (alt : Bool) (s : State), s.flashReady c ⟨0xC7, 6, allModes, 0, 0⟩ → (s.port c.port).wel = true →
    ∃ t, exec (.chipErase c alt) s = .next t ∧ s.refusedAs t c.port 20000000 ∧ t.out = []) ∧
  (∀ (c : SpiCmd) (alt : Bool) (s : State), s.flashReady c ⟨0xC7, 6, allModes, 0, 0⟩ → (s.port c.port).wel = false →
    ∃ t, exec (.chipErase c alt) s = .next t ∧ t.port c.port = { s.port c.port with resetArmed := false } ∧ t.out = []) ∧
  (∀ (c : SpiCmd) (alt : Bool) (s : State), s.flashClear c → ∃ t, exec (.chipErase c alt) s = .next t ∧
    s.refusedAs t c.port 20000000 ∧
    t.out = [.cut c.port (if alt then 0x60 else 0xC7) .clocks, .down c.port 0 0x04 0 []]) ∧
  (∀ (c : SpiCmd) (s : State), s.flashReady c ⟨0x01, 7, [.w111, .w444], 0, 0⟩ → ∃ t, exec (.writeStatusRegister c) s = .next t ∧
    s.refusedAs t c.port 10000 ∧ t.out = []) ∧
  (∀ (c : SpiCmd) (s : State), s.flashClear c → ∃ t, exec (.writeStatusRegister c) s = .next t ∧
    s.refusedAs t c.port 10000 ∧ t.out = [.cut c.port 0x01 .data, .down c.port 0 0x04 0 []]) ∧
  (∀ (c : SpiCmd) (s : State), s.flashReady c ⟨0x81, 9, [.w111], 0, 0⟩ →
    ¬(s.flashListed c ⟨0x81, 9, [.w111], 0, 0⟩ ∧ s.profile c.port = 2 ∧ (s.port c.port).wel = true ∧
      (s.port c.port).addr4 = false ∧ c.addr = 0 ∧ c.data = [0xE7]) →
    ∃ t, exec (.writeVolatileConfiguration c) s = .next t ∧ s.refusedAs t c.port 10000 ∧ t.out = []) ∧
  (∀ (c : SpiCmd) (s : State), s.flashReady c ⟨0x81, 9, [.w111], 0, 0⟩ → s.flashListed c ⟨0x81, 9, [.w111], 0, 0⟩ →
    s.profile c.port = 2 → (s.port c.port).wel = true → (s.port c.port).addr4 = false → c.addr = 0 → c.data = [0xE7] →
    ∃ t, exec (.writeVolatileConfiguration c) s = .next t ∧ t.out = [] ∧ t.port c.port =
      { s.port c.port with resetArmed := false, wire := .octal, addr4 := true, wel := false }) ∧
  (∀ (c : SpiCmd) (e : Bool) (s : State), s.flashClear c → ∃ t, exec (.securityRegisterCommand c e) s = .next t ∧
    s.refusedAs t c.port 10000 ∧
    t.out = [.cut c.port (if e then 0x44 else 0x42) .address, .down c.port 0 0x04 0 []]) ∧
  (∀ (c : SpiCmd) (e : Bool) (s : State), s.core.op.powered = true → c.port < s.ports.length →
    (s.port c.port).mode = .manifest → ∃ t, exec (.securityRegisterCommand c e) s = .next t ∧
      t.port c.port = { s.port c.port with resetArmed := false, unknown := (s.port c.port).unknown + 1 } ∧
      t.out = [.undriven c.port]) ∧
  (∀ (c : SpiCmd) (op : Nat) (s : State), s.core.op.powered = true → c.port < s.ports.length →
    (s.port c.port).mode = .manifest → ∃ t, exec (.unknownCommand c op) s = .next t ∧
      t.port c.port = { s.port c.port with resetArmed := false, unknown := (s.port c.port).unknown + 1 } ∧
      t.out = [.undriven c.port]) ∧
  (∀ (c : SpiCmd) (op : Nat) (s : State), s.flashClear c → op = 0x31 ∨ op = 0x11 →
    ∃ t, exec (.unknownCommand c op) s = .next t ∧ s.refusedAs t c.port 10000 ∧
      t.out = [.cut c.port op .data, .down c.port 0 0x04 0 []])

/-- QPI entry and exit, reset commands, the reset pin, and busy times, on both paths (R117, R123, R126, R137, R139, R141). -/
def Obligations.FlashResets : Prop :=
  (∀ (c : SpiCmd) (s : State), s.flashReady c ⟨0x38, 9, [.w111], 0, 0⟩ → s.flashListed c ⟨0x38, 9, [.w111], 0, 0⟩ →
    ∃ t, exec (.enterQpi c) s = .next t ∧ t.out = [] ∧ (∀ m, m ≠ c.port → t.port m = s.port m) ∧
      t.port c.port = { s.port c.port with
        resetArmed := false, wire := if s.profile c.port = 1 then .qpi else (s.port c.port).wire }) ∧
  (∀ (c : SpiCmd) (s : State), s.flashReady c ⟨0x38, 9, [.w111], 0, 0⟩ → ¬s.flashListed c ⟨0x38, 9, [.w111], 0, 0⟩ →
    ∃ t, exec (.enterQpi c) s = .next t ∧ s.refusedAs t c.port 10000 ∧ t.out = []) ∧
  (∀ (c : SpiCmd) (s : State), s.flashClear c → ∃ t, exec (.enterQpi c) s = .next t ∧
    t.port c.port = s.portHeard c.port ∧ (∀ m, m ≠ c.port → t.port m = s.port m) ∧
    t.out = [.down c.port 0 0x38 c.addr c.data]) ∧
  (∀ (c : SpiCmd) (s : State), s.flashReady c ⟨0x38, 9, [.w444], 0, 0⟩ → s.flashListed c ⟨0x38, 9, [.w444], 0, 0⟩ →
    ∃ t, exec (.exitQpi c) s = .next t ∧ t.out = [] ∧ (∀ m, m ≠ c.port → t.port m = s.port m) ∧
      t.port c.port = { s.port c.port with resetArmed := false, wire := .spi, addr4 := false, wel := false }) ∧
  (∀ (c : SpiCmd) (s : State), s.flashReady c ⟨0x38, 9, [.w444], 0, 0⟩ → ¬s.flashListed c ⟨0x38, 9, [.w444], 0, 0⟩ →
    ∃ t, exec (.exitQpi c) s = .next t ∧ s.refusedAs t c.port 10000 ∧ t.out = []) ∧
  (∀ (c : SpiCmd) (s : State), s.flashClear c → ∃ t, exec (.exitQpi c) s = .next t ∧
    t.port c.port = { s.portHeard c.port with wire := .spi, addr4 := false, wel := false } ∧
    (∀ m, m ≠ c.port → t.port m = s.port m) ∧ t.out = [.down c.port 0 0xF5 c.addr c.data]) ∧
  (∀ (c : SpiCmd) (s : State), s.flashReady c ⟨0x66, 10, allModes, 0, 0⟩ → s.flashListed c ⟨0x66, 10, allModes, 0, 0⟩ →
    ∃ t, exec (.stileReset c) s = .next t ∧ t.out = [] ∧ (∀ m, m ≠ c.port → t.port m = s.port m) ∧
      t.port c.port = if (s.port c.port).resetArmed = true then
          { s.port c.port with resetArmed := false, wire := .spi, addr4 := false, wel := false, busyUntil := none }
        else { s.port c.port with resetArmed := false }) ∧
  (∀ (c : SpiCmd) (s : State), s.flashReady c ⟨0x66, 10, allModes, 0, 0⟩ → ¬s.flashListed c ⟨0x66, 10, allModes, 0, 0⟩ →
    ∃ t, exec (.stileReset c) s = .next t ∧ t.out = [.undriven c.port] ∧ (∀ m, m ≠ c.port → t.port m = s.port m) ∧
      t.port c.port = { s.port c.port with resetArmed := false, unknown := (s.port c.port).unknown + 1 }) ∧
  (∀ (c : SpiCmd) (s : State), s.flashClear c → ∃ t, exec (.stileReset c) s = .next t ∧
    (∀ m, m ≠ c.port → t.port m = s.port m) ∧ t.out = [.down c.port 0 0x99 c.addr c.data] ∧
    t.port c.port = if (s.port c.port).resetArmed = true then
        { s.portHeard c.port with wire := .spi, addr4 := false, wel := false, busyUntil := none }
      else s.portHeard c.port) ∧
  (∀ (n : Nat) (s : State), n < s.ports.length → ∃ t, exec (.stnRstNLow n) s = .next t ∧
    t.port n = { s.port n with resetArmed := false, wire := .spi, addr4 := false, wel := false, busyUntil := none } ∧
    ∀ m, m ≠ n → t.port m = s.port m) ∧
  (∀ (n f : Nat) (s : State), n < s.ports.length → (s.port n).busyUntil = some f → f ≤ s.now →
    ∃ t, exec (.refusedBusyEnd n) s = .next t ∧ t.port n = { s.port n with busyUntil := none } ∧
      ∀ m, m ≠ n → t.port m = s.port m) ∧
  (∀ (n : Nat) (s : State), (∀ f, (s.port n).busyUntil = some f → s.now < f) →
    exec (.refusedBusyEnd n) s = .next s.fresh) ∧
  (∀ (n : Nat) (idle : Bool) (s : State), n < s.ports.length → (s.port n).passedBusy = true → (s.port n).mode ≠ .off →
    (s.port n).pollAt ≤ s.now → ∃ t, exec (.downstreamStatusPoll n idle) s = .next t ∧
      t.out = [.down n (s.port n).busyCs 0x05 0 []] ∧
      t.port n = { s.port n with passedBusy := !idle, pollAt := s.now + 8 } ∧ ∀ m, m ≠ n → t.port m = s.port m)

/-- Measurement, start verification, tags, sweeps, trials and recovery of a port (R23, R25, R122, R158 to R165, R167 to
R169, R173, R181, R182). -/
def Obligations.FlashVerification : Prop :=
  (∀ (n : Nat) (data : Bytes) (s : State), n < s.ports.length → s.core.op.working = true → (s.port n).mode = .measure
    → (s.port n).phase = .verify → s.sup.hold = false → data.length = (s.port n).measureLen →
    8 * (s.port n).measureLen ≤ (s.port n).measBits → sha384Frames [(s.port n).measureLen] ≤ s.digestTaken n → ∃ t,
    exec (.measurementRecorded n data) s = .next t ∧ (t.port n).measDigest = some (sha384 data) ∧ (t.port n).verdict =
    .pass ∧ (t.port n).reason = 0 ∧ (t.port n).phase = .serve) ∧
  (∀ (n : Nat) (data : Option (List Bytes)) (x : Slot) (s : State), n < s.ports.length → s.core.op.working = true →
    (s.port n).mode = .manifest → (s.port n).phase = .verify → (s.port n).cand = some x → s.sourceReason n x data = 0
    → s.hashed n x data → (s.port n).shedBase + regionTotal (manRegions (s.manifest n x)) 1 ≤ 67108864 → ∃ t, exec
    (.startVerificationEnd n data) s = .next t ∧ (t.port n).verdict = .pass ∧ (t.port n).serving = some x ∧
    (t.port n).phase = .serve ∧ (t.port n).cand = none) ∧
  (∀ (n : Nat) (data : Option (List Bytes)) (x : Slot) (r : Nat) (s : State), n < s.ports.length → s.core.op.working
    = true → (s.port n).mode = .manifest → (s.port n).phase = .verify → (s.port n).cand = some x → s.sourceReason n x
    data = r → r ≠ 0 → (r = 3 ∨ r = 4 → s.hashed n x data) → (s.port n).trialServed = false →
    s.nextSource n (some x) false (s.port n).fallbackOf = none → ∃ t, exec (.startVerificationEnd n data) s = .next t ∧
    (t.port n).verdict = .fail ∧ (t.port n).reason = r ∧ (t.port n).phase = .hold) ∧
  (∀ (n host : Nat) (block : Bytes) (k cs a idx : Nat) (s : State), n < s.ports.length → s.core.op.powered = true →
    (s.port n).mode = .manifest → (s.port n).phase = .serve ∨ (s.port n).phase = .update → s.shedLost = false →
    (s.lane n).disabled = false → (s.lane n).needTest = false → s.blockPlace n host = some (k, cs, a) → s.tagIdx n
    host = some idx → ∃ t, exec (.tagVerdict n host block) s = .next t ∧ ((tagAt s.tagTable idx = some (blockTag
    (s.port n).tagSecret n cs k a ((getKey (s.port n).tagPend host).getD block)) → t.port n =
    { (if (getKey (s.port n).tagPend host).isSome then s.port n else (s.port n).sweepOn idx) with
      debts := (s.port n).debts.filter (· != idx), tagPend := dropKey (s.port n).tagPend host } ∧ t.log
    = s.log) ∧ (tagAt s.tagTable idx ≠ some (blockTag (s.port n).tagSecret n cs k a ((getKey (s.port n).tagPend
    host).getD block)) → (t.port n).tagFail = (s.port n).tagFail + 1))) ∧
  (∀ (n idx : Nat) (l : List Nat) (h k cs a : Nat) (s : State), s.core.op.powered = true → (s.port n).mode = .manifest →
    (s.port n).phase = .serve ∨ (s.port n).phase = .update → (s.port n).csBusy cs = false → (s.port n).debts = idx :: l →
    s.hostOfTag n idx = some h → s.blockPlace n h = some (k, cs, a) → ∃ t, exec (.debtClearRead n) s = .next t ∧
    t.out = [.down n cs (downOp (s.port n).down) a []] ∧ t.ports = s.ports) ∧
  (∀ (n f : Nat) (s : State), n < s.ports.length → (s.port n).sweep = some f → s.shedLost = false →
    s.sweepLen n ≤ (s.port n).sweepAt → ∃ t, exec (.sweepComplete n) s = .next
    t ∧ (t.port n).sweep = (if (s.port n).sweepAgain then some s.now else none) ∧ (t.port n).sweepAgain = false) ∧
  (∀ (n f : Nat) (s : State), n < s.ports.length → (s.port n).sweep = some f → (s.port n).sweepLate = false → f + 2 *
    secFrames ≤ s.now → ∃ t, exec (.sweepLate n) s = .next t ∧ t.port n = { s.port n with sweepLate := true }) ∧
  (∀ (n e : Nat) (s : State), n < s.ports.length → (s.port n).trialEnd = some e → e ≤ s.now → ∃ t, exec
    (.platformTrialExpiry n) s = .next t ∧ t.port n = { s.port n with trialEnd := none, recoverDue := true }) ∧
  (∀ (n : Nat) (h : HoldInput) (s : State), n < s.ports.length → s.core.op = .recovery → s.haltLatched = false →
    (s.port n).recovering = true → (s.port n).phase = .serve ∨ (s.port n).phase = .hold → ∃ t, exec
    (.recoveryComplete n h) s = .next t ∧ ((∀ m, m ≠ n → (s.port m).recovering = false) → t.core.op = .holding) ∧
    (∀ m, m ≠ n → m < s.ports.length → (s.port m).recovering = true → t.core.op = .recovery ∧ t.port n =
    { s.port n with recovering := false, recHold := false }))

/-- The PLDM firmware device (R176 to R180, R184, R186; log 8). -/
def Obligations.FirmwareUpdate : Prop :=
  (∀ (p src : Nat) (s : State), s.pldmOpen p src → ∃ t, exec (.queryDeviceIdentifiers ⟨p, src⟩) s = .next t ∧ (∃ b, t.out =
    .pldm p 0x01 (0 :: b) :: s.announced (transportBus p)) ∧ t.pldm = s.pldm) ∧
  (∀ (p src : Nat) (s : State), s.pldmOpen p src → ∃ t, exec (.getFirmwareParameters ⟨p, src⟩) s = .next t ∧ (∃ b, t.out =
    .pldm p 0x02 (0 :: (leN 2 compIds.length ++ compIds.flatMap (fun c => leN 2 compClass ++ leN 2 c ++
      leN 4 (s.compStamps c).1 ++ leN 4 (s.compStamps c).2) ++ b)) :: s.announced (transportBus p)) ∧ t.pldm = s.pldm) ∧
  (∀ (p src k : Nat) (s : State), s.pldmOpen p src → s.pldm.st = .idle → ∃ t, exec (.requestUpdate ⟨p, src⟩ k) s = .next t ∧
    t.out = .pldm p 0x10 [0] :: s.announced (transportBus p) ∧ t.pldm =
    { s.pldm with st := .learn, transport := p, updated := [], xfer := min (s.valU (mkKey 0x2800 0x04)) k }) ∧
  (∀ (p src k : Nat) (s : State), s.pldmOpen p src → s.pldm.st ≠ .idle → ∃ t, exec (.requestUpdate ⟨p, src⟩ k) s = .next t ∧
    t.out = .pldm p 0x10 [0x81] :: s.announced (transportBus p) ∧ t.pldm = s.pldm) ∧
  (∀ (p src cls c : Nat) (s : State), s.pldmOpen p src → s.pldm.st = .learn ∨ s.pldm.st = .ready → ∃ t, exec
    (.passComponentTable ⟨p, src⟩ ⟨cls, c⟩) s = .next t ∧ t.out = .pldm p 0x13 [0, if cls = compClass ∧ compKnown c = true
    then 0 else 1] :: s.announced (transportBus p) ∧ t.pldm = { s.pldm with st := .ready }) ∧
  (∀ (p src c k z : Nat) (x : Slot) (s : State), s.pldmOpen p src → s.pldm.st = .ready → s.updateTarget c k = some x →
    0 < z → ∃ t, exec (.updateComponent ⟨p, src⟩ ⟨compClass, c⟩ k z) s = .next t ∧ t.pldm =
    { s.pldm.rest .download with component := c, size := z, stamp := k, target := some x } ∧ t.out =
    .pldm p 0x14 [0, 0] :: (s.announced (transportBus p) ++ .pldm s.pldm.transport 0x15 (leN 4 0 ++
      leN 4 (min s.pldm.xfer (if c = 0x7100 then z else min 64 z))) :: s.announced (transportBus s.pldm.transport))) ∧
  (∀ (p src cls c k z : Nat) (s : State), s.pldmOpen p src → s.pldm.st = .ready → cls ≠ compClass ∨
    s.updateTarget c k = none → ∃ t, exec (.updateComponent ⟨p, src⟩ ⟨cls, c⟩ k z) s = .next t ∧ t.pldm = s.pldm ∧
    t.out = .pldm p 0x14 [0, 1] :: s.announced (transportBus p)) ∧
  (∀ (p src : Nat) (s : State), s.pldmOpen p src → s.pldm.st = .ready → ∃ t, exec (.activateFirmware ⟨p, src⟩ false) s =
    .next t ∧ t.pldm = { s.pldm with st := .activate, updated := [] } ∧ t.out = .pldm p 0x1A [0] :: s.announced
    (transportBus p)) ∧
  (∀ (p src : Nat) (s : State), s.pldmOpen p src → ∃ t, exec (.activateFirmware ⟨p, src⟩ true) s = .next t ∧
    t.pldm = s.pldm ∧ t.out = .pldm p 0x1A [0x8C] :: s.announced (transportBus p)) ∧
  (∀ (p src : Nat) (s : State), s.pldmOpen p src → ∃ t, exec (.getStatus ⟨p, src⟩) s = .next t ∧ t.out = .pldm p 0x1B [0,
    BitVec.ofNat 8 s.pldm.st.code] :: s.announced (transportBus p) ∧ t.pldm = s.pldm) ∧
  (∀ (p src : Nat) (x : Slot) (s : State), s.pldmOpen p src → s.pldm.st = .download → s.pldm.target = some x → ∃ t, exec
    (.cancelUpdateComponent ⟨p, src⟩) s = .next t ∧ t.pldm = s.pldm.rest .ready) ∧
  (∀ (p src : Nat) (s : State), s.pldmOpen p src → s.pldm.st ≠ .idle → ∃ t, exec (.cancelUpdate ⟨p, src⟩) s = .next t ∧
    t.pldm.st = .idle ∧ t.pldm.target = none ∧ t.pldm.updated = []) ∧
  (∀ (s : State), s.core.op.powered = true → s.pwr.halted = false → s.pldm.st ≠ .idle → ∃ t, exec .pldmTimeout s =
    .next t ∧ t.pldm.st = .idle ∧ t.pldm.target = none ∧ t.pldm.updated = []) ∧
  (∀ (p src : Nat) (d : Bytes) (b : Option (List Bytes)) (x : Slot) (s : State), s.portionTaken p src x →
    (s.portioned d b).pldm.received < s.pldm.size → ∃ t, exec (.firmwareDataReceived ⟨p, src⟩ d true b) s = .next t ∧
    t.pldm = (s.portioned d b).pldm ∧ (∃ l, t.out = l ++ .pldm p 0x15 (leN 4 (s.portioned d b).pldm.received ++ leN 4
    (s.portioned d b).pldm.requestLen) :: s.announced (transportBus p))) ∧
  (∀ (p src : Nat) (d : Bytes) (b : Option (List Bytes)) (x : Slot) (s : State), s.portionTaken p src x →
    s.pldm.size ≤ (s.portioned d b).pldm.received → (s.portioned d b).lengthRight = true → ∃ t, exec
    (.firmwareDataReceived ⟨p, src⟩ d true b) s = .next t ∧ t.pldm = { (s.portioned d b).pldm with st := .verify } ∧
    (∃ l, t.out = l ++ .pldm p 0x16 [0] :: s.announced (transportBus p))) ∧
  (∀ (p src : Nat) (d : Bytes) (b : Option (List Bytes)) (x : Slot) (s : State), s.portionTaken p src x →
    s.pldm.size ≤ (s.portioned d b).pldm.received → (s.portioned d b).lengthRight = false → ∃ t, exec
    (.firmwareDataReceived ⟨p, src⟩ d true b) s = .next t ∧ t.pldm = s.pldm.rest .ready) ∧
  (∀ (p src : Nat) (d : Bytes) (b : Option (List Bytes)) (x : Slot) (s : State), s.portionTaken p src x → ∃ t, exec
    (.firmwareDataReceived ⟨p, src⟩ d false b) s = .next t ∧ t.pldm = s.pldm.rest .ready)

/-- MCTP endpoint IDs, dynamic addresses and what the buses ignore (R177, R185 to R187, R198, R211; log 8). -/
def Obligations.BusEndpoint : Prop :=
  (∀ (b e : Nat) (s : State), s.endpointOn b = true → 8 ≤ e → e ≤ 0xFE → ∃ t, exec (.setEndpointId b
    e) s = .next t ∧ t.ownEid b = e ∧ t.out = .mctp b (if b = 4 then 0x238 else if (s.dynAddr b).isNone then 0x237 else
    0x233) (if isTarget b then s.targetAddr b else 0) e 0 0 (bytesOf [0, 1, 0, e]) :: s.announced b ∧ (∀ o, o ≠ b →
    o < 5 → t.ownEid o = s.ownEid o)) ∧
  (∀ (b a : Nat) (s : State), s.core.op.powered = true → b = 2 ∨ b = 3 → a < 128 → s.atn.cause.length = 24 → ∃ t,
    exec (.dynamicAddressAssignment b a) s = .next t ∧ t.dynAddr b = some a ∧ t.targetAddr b = a ∧ t.leaf 10 15 = true) ∧
  (∀ (b : Nat) (s : State), s.core.op.powered = true → b = 2 ∨ b = 3 → ∃ t, exec (.rstdaa b) s = .next t ∧ t.dynAddr
    b = none ∧ t.targetAddr b = s.valU (mkKey 0x3000 (b + 1))) ∧
  (∀ (b k : Nat) (s : State), ∃ t, exec (.enthdr b k) s = .next t ∧ t = s.fresh) ∧
  (∀ (b src a e c : Nat) (s : State), s.endpointOn b = true → e = 0 ∨ e = s.ownEid b → ∃ t, exec (.mctpControlRequest ⟨b,
    src, a⟩ e c 0) s = .next t ∧ t.out = .mctp b (if b = 4 then 0x238 else if (s.dynAddr b).isNone then 0x237 else 0x233)
    (if isTarget b then s.targetAddr b else 0) (s.ownEid b) src 0 (bytesOf [0, c, 0, s.ownEid b]) :: s.announced b ∧
    t.par = s.par) ∧
  (∀ (b src a e c y : Nat) (s : State), s.endpointOn b = true → y ∉ [0, 1, 5, 6, 0x7E] → ∃ t, exec (.mctpControlRequest
    ⟨b, src, a⟩ e c y) s = .next t ∧ t.par = { s.par with late := s.par.late + 1 } ∧ t.out = []) ∧
  (∀ (b src a e c y : Nat) (s : State), b < 2 → s.serving = true → s.busOn b = true → s.eidQuarantined src = true ∨
    s.addrQuarantined b a = true ∨ y ∉ [0, 1, 5, 6, 0x7E] → ∃ t, exec (.mctpControlRequest ⟨b, src, a⟩ e c y) s = .next t ∧
    t.par = { s.par with late := s.par.late + 1 } ∧ t.out = []) ∧
  (∀ (b src a e c : Nat) (s : State), s.endpointOn b = true → e = 0 ∨ e = s.ownEid b → pldmKnown c = false → ∃ t, exec
    (.mctpControlRequest ⟨b, src, a⟩ e c 1) s = .next t ∧ t.out = .pldm (busTransport b) c [5] :: s.announced b ∧
    t.par = s.par ∧ t.pldm = s.pldm) ∧
  (∀ (b : Nat) (s : State), s.core.op.powered = true → b = 2 ∨ b = 3 → s.dynAddr b = none → ∃ t, exec (.smbusTimeout
    b) s = .next t ∧ t.out = [.discard] ∧ t.par = s.par)

/-- Partner entries: hot join, responses, timeouts, polls, quarantine and re-attestation (R188 to R200; log 111). -/
def Obligations.Partners : Prop :=
  (∀ (f : Found) (k a : Nat) (s : State), s.serving = true → s.busOn f.bus = true → f.kind = 1 → k <
    s.par.table.length → s.policyFor f = some k → s.entryOfFound f = none → (s.partner k).st.live = false →
    s.freeAddr f.bus = some a → (∀ e, s.freeEid = some e → e ≠ 0) → ∃ t, exec (.hotJoin f) s = .next t ∧
    (t.partner k).addr = a ∧ (t.partner k).bus = f.bus ∧ (t.partner k).pid = f.pid ∧
    (s.freeEid = none → (t.partner k).st = .found ∧ (t.partner k).eid = 0) ∧
    (∀ e, s.freeEid = some e → f.eidOk = false → (t.partner k).st = .found ∧ (t.partner k).reason = 8) ∧
    (∀ e, s.freeEid = some e → f.eidOk = true → f.spdm = false → (t.partner k).st = .fail ∧ (t.partner k).reason = 1 ∧
      (t.partner k).eid = e) ∧
    (∀ e, s.freeEid = some e → f.eidOk = true → f.spdm = true → (t.partner k).st = (if s.c0Pk then .attesting else
      .endpoint) ∧ (t.partner k).step = 1 ∧ (t.partner k).waiting = true ∧ (t.partner k).eid = e)) ∧
  (∀ (k : Nat) (r : Resp) (s : State), s.responded k r → (s.partner k).step = 2 → ∃ t, exec (.requesterResponse k r) s =
    .next t ∧ (t.partner k).step = 3 ∧ (t.partner k).waiting = true ∧ (t.partner k).attempts = 1 ∧ t.out = [.spdm (3 +
    (s.partner k).bus) (s.partner k).eid 0xE3 (bytesOf [3, 3, 3, 3, 1])] ∧ t.par.late = s.par.late) ∧
  (∀ (k : Nat) (r : Resp) (s : State), s.responded k r → (s.partner k).step = 3 → ∃ t, exec (.requesterResponse k r) s =
    .next t ∧ (algsCommon (s.policy k) r = true → (t.partner k).step = 4 ∧ (t.partner k).sig = r.sig ∧ (t.partner k).hash
    = r.hash) ∧ (algsCommon (s.policy k) r = false → (t.partner k).st = .fail ∧ (t.partner k).reason = 2)) ∧
  (∀ (k : Nat) (r : Resp) (s : State), s.responded k r → (s.partner k).step = 6 ∨ (s.partner k).step = 8 → (s.partner
    k).outside r = false → ∃ t, exec (.requesterResponse k r) s = .next t ∧ (t.partner k).checking = true ∧
    (t.partner k).waiting = false ∧ (∃ d, t.devJobs = s.devJobs ++ [d] ∧ d.what.forPartner k = true)) ∧
  (∀ (k : Nat) (r : Resp) (s : State), s.serving = true → s.eidQuarantined r.srcEid = true ∨ s.addrQuarantined (s.partner
    k).bus r.srcAddr = true ∨ (s.partner k).waiting = false ∨ (s.partner k).tag ≠ r.tag ∨ (s.partner k).eid ≠ r.srcEid →
    ∃ t, exec (.requesterResponse k r) s = .next t ∧ t.par = { s.par with late := s.par.late + 1 }) ∧
  (∀ (k : Nat) (r : Resp) (s : State), s.responded k r → (s.partner k).outside r = true → ∃ t, exec
    (.requesterResponse k r) s = .next t ∧ t.par = { s.par with dead := s.par.dead + 1 }) ∧
  (∀ (k : Nat) (s : State), k < s.par.table.length → s.serving = true → (s.partner k).waiting = true → (s.partner
    k).sentAt + 200000 ≤ s.now → ∃ t, exec (.requesterTimeout k) s = .next t ∧ ((s.partner k).attempts < 3 →
    (t.partner k).waiting = true ∧ (t.partner k).attempts = (s.partner k).attempts + 1 ∧ (t.partner k).sentAt =
    s.now) ∧ (3 ≤ (s.partner k).attempts → (t.partner k).st = .fail ∧ (t.partner k).reason = 8 ∧ (t.partner
    k).waiting = false)) ∧
  (∀ (k : Nat) (a : Bool) (s : State), k < s.par.table.length → s.serving = true → (s.partner k).st.polled = true →
    (s.partner k).polledAt + s.valU (mkKey 0x3000 0x08) * 2000 ≤ s.now → ∃ t, exec (.partnerPoll k a) s = .next t ∧
    (a = true → t.partner k = { s.partner k with lastTag := s.nextTag k, polledAt := s.now, missed := 0 }) ∧ (a = false →
    (s.partner k).missed < 2 → t.partner k = { s.partner k with lastTag := s.nextTag k, polledAt := s.now, missed :=
    (s.partner k).missed + 1 }) ∧ (a = false → 2 ≤ (s.partner k).missed → (t.partner k).st = .departed ∧ (t.partner
    k).eid = 0 ∧ (t.partner k).session = 0)) ∧
  (∀ (b v : Nat) (s : State), ∃ t, exec (.quarantineExpiry false b v) s = .next t ∧ t.par =
    { s.par with addrQuar := s.par.addrQuar.filter (fun q => !(q.1 == b && q.2.1 == v && q.2.2 + 20000000 ≤ s.now)) }) ∧
  (∀ (b v f : Nat) (s : State), (v, f) ∈ s.par.eidQuar → f + 20000000 ≤ s.now → (∀ k, k < 64 → ¬((s.partner k).st = .found
    ∧ (s.partner k).summary ≠ [])) → ∃ t, exec (.quarantineExpiry true b v) s = .next t ∧ t.par =
    { s.par with eidQuar := s.par.eidQuar.filter (fun q => !(q.1 == v && q.2 + 20000000 ≤ s.now)) }) ∧
  (∀ (s : State), s.serving = true → s.valU (mkKey 0x3000 0x09) ≠ 0 → s.par.reattestAt + s.valU (mkKey 0x3000 0x09) *
    2000000 ≤ s.now → ∃ t, exec .reattestTimer s = .next t ∧ t.par.reattestAt = s.now ∧ (∀ k, (s.partner k).st ≠
    .pass → t.partner k = s.partner k))

/-- SPDM connection messages to the device (R198, R201 to R206; log 8). -/
def Obligations.SpdmConnection : Prop :=
  (∀ (q : SpdmReq) (s : State), s.spdmOn q.transport = true → s.fromQuarantine q.transport q.peer = false → s.spdmBusy q =
    false → q.valid = true → ∃ t, exec (.getVersion q) s = .next t ∧ t.conn? q.transport q.peer = some
    { transport := q.transport, peer := q.peer, version := 0, stage := 1, owed := none, transcript := q.payload, measFrom := none }
    ∧ Out.spdm q.transport q.peer 0x04 [0x12, 0x13] ∈ t.out) ∧
  (∀ (q : SpdmReq) (c : SpdmConn)  (s : State), s.spdmReady q c 1 1 → q.version = 0x12 ∨ q.version = 0x13 → ∃ t, exec
    (.getCapabilities q) s = .next t ∧ t.conn? q.transport q.peer = some
    { c with version := q.version, stage := 2, transcript := c.transcript ++ q.payload } ∧ Out.spdm q.transport
    q.peer 0x61 (bytesOf [q.version, 12] ++ leN 4 spdmCaps) ∈ t.out) ∧
  (∀ (q : SpdmReq) (c : SpdmConn)  (s : State), s.spdmReady q c 2 2 → ∃ t, exec (.negotiateAlgorithms q true) s =
    .next t ∧ t.conn? q.transport q.peer = some { c with stage := 3, transcript := c.transcript ++ q.payload } ∧
    Out.spdm q.transport q.peer 0x63 spdmAlgs ∈ t.out) ∧
  (∀ (q : SpdmReq) (c : SpdmConn)  (s : State), s.spdmReady q c 2 2 → ∃ t, exec (.negotiateAlgorithms q false) s =
    .next t ∧ t.conn? q.transport q.peer = some { c with  transcript := c.transcript ++ q.payload } ∧ Out.spdm
    q.transport q.peer 0x7F [0x01] ∈ t.out) ∧
  (∀ (q : SpdmReq) (c : SpdmConn)  (s : State), s.spdmReady q c 3 3 → ∃ t, exec (.getDigests q) s = .next t ∧ t.conn?
    q.transport q.peer = some { c with  transcript := c.transcript ++ q.payload } ∧ Out.spdm q.transport q.peer 0x01
    (((List.range 2).filterMap s.certChain).flatMap sha384) ∈ t.out) ∧
  (∀ (q : SpdmReq) (c : SpdmConn) (k o l : Nat) (b : Bytes) (s : State), s.spdmReady q c 3 3 → s.certChain k = some b
    → o < b.length → l ≠ 0 → ∃ t, exec (.getCertificate q k o l) s = .next t ∧ t.conn? q.transport q.peer = some
    { c with  transcript := c.transcript ++ q.payload } ∧ Out.spdm q.transport q.peer 0x02 (leN 2 (slice b o
    l).length ++ leN 2 (b.length - o - (slice b o l).length) ++ slice b o l) ∈ t.out) ∧
  (∀ (q : SpdmReq) (k : Nat) (s : State), s.spdmOn q.transport = true → s.fromQuarantine q.transport q.peer = false → ∃ t,
    exec (.unsupportedSpdmRequest q k) s = .next t ∧ Out.spdm q.transport q.peer 0x7F [if s.spdmBusy q then 0x03 else
    0x07] ∈ t.out ∧ t.par = s.par) ∧
  (∀ f ∈ ([.getVersion, .getCapabilities, fun q => .negotiateAlgorithms q true, .getDigests, fun q => .getCertificate q 0 0
    0, fun q => .challenge q 0 0, fun q => .getMeasurements q 0 false, fun q => .keyExchange q 0] : List (SpdmReq →
    Instr)), ∀ (q : SpdmReq) (s : State), s.spdmOn q.transport = true → s.fromQuarantine q.transport q.peer = false →
    s.spdmBusy q = true → ∃ t, exec (f q) s = .next t ∧ Out.spdm q.transport q.peer 0x7F [0x03] ∈ t.out ∧ t.par =
    s.par) ∧
  (∀ f ∈ ([.getVersion, .getCapabilities, fun q => .negotiateAlgorithms q true, .getDigests, fun q => .getCertificate q 0 0
    0, fun q => .challenge q 0 0, fun q => .getMeasurements q 0 false, fun q => .keyExchange q 0] : List (SpdmReq →
    Instr)), ∀ (q : SpdmReq) (s : State), s.spdmOn q.transport = true → s.fromQuarantine q.transport q.peer = true →
    ∃ t, exec (f q) s = .next t ∧ t.out = [] ∧ t.par = { s.par with late := s.par.late + 1 })

/-- SPDM responses with a signature, made by C0 programmes: challenge, measurements, key exchange (R201, R202, R207 to R210; log 8,
log 9). -/
def Obligations.SpdmSigned : Prop :=
  (∀ (q : SpdmReq) (c : SpdmConn) (k m : Nat) (b : Bytes) (s : State), s.spdmReady q c 3 3 → s.certChain k = some b →
    m = 0 ∨ m = 1 ∨ m = 0xFF → ∃ t, exec (.challenge q k m) s = .next t ∧ t.conn? q.transport q.peer = some
    { c with transcript := c.transcript ++ q.payload, owed := some { code := 3, a := k, b := m, payload := q.payload, askedAt := s.now, left := 1, told := !s.c0Pk } }
    ∧ t.devJobs = s.devJobs ++ [⟨s.nextJob, .pair false false 36 (.sign q.transport q.peer), s.now, none, 0⟩] ∧
    (s.c0Pk = false → Out.spdm q.transport q.peer 0x7F [0x42, 12, 0x03] ∈ t.out)) ∧
  (∀ (q : SpdmReq) (c : SpdmConn) (i : Nat) (r : Bytes) (s : State), s.spdmReady q c 3 3 → s.measRecord i = some r →
    ∃ t, exec (.getMeasurements q i false) s = .next t ∧ (∃ n, Out.spdm q.transport q.peer 0x60 (bytesOf [i, n] ++ r)
    ∈ t.out)) ∧
  (∀ (q : SpdmReq) (c : SpdmConn) (i : Nat) (r : Bytes) (s : State), s.spdmReady q c 3 3 → s.measRecord i = some r →
    ∃ t, exec (.getMeasurements q i true) s = .next t ∧ t.conn? q.transport q.peer = some
    { c with transcript := c.transcript ++ q.payload, measFrom := some (c.measFrom.getD s.par.measSerial), owed := some { code := 0x60, a := i, b := 0, payload := q.payload, askedAt := s.now, left := 1, told := !s.c0Pk } }
    ∧ t.devJobs = s.devJobs ++ [⟨s.nextJob, .pair false false 36 (.sign q.transport q.peer), s.now, none, 0⟩] ∧
    (s.c0Pk = false → Out.spdm q.transport q.peer 0x7F [0x42, 12, 0x60] ∈ t.out)) ∧
  (∀ (q : SpdmReq) (c : SpdmConn) (k : Nat) (b : Bytes) (s : State), s.spdmReady q c 3 3 → s.certChain k = some b → ∃
    t, exec (.keyExchange q k) s = .next t ∧ t.par.sessions = s.par.sessions ∧ (s.par.sessions.length < 8 → t.conn?
    q.transport q.peer = some
    { c with transcript := c.transcript ++ q.payload, owed := some { code := 0x64, a := k, b := 0, payload := q.payload, askedAt := s.now, left := 2, told := !s.c0Pk } }
    ∧ t.devJobs = s.devJobs ++ [⟨s.nextJob, .pair false false 36 (.sign q.transport q.peer), s.now, none, 0⟩,
    ⟨s.nextJob + 1, .pair false false 70 (.sign q.transport q.peer), s.now, none, 0⟩]) ∧ (8 ≤ s.par.sessions.length →
    Out.spdm q.transport q.peer 0x7F [0x0A] ∈ t.out)) ∧
  (∀ (q : SpdmReq) (c : SpdmConn) (o : Owed) (s : State), s.spdmOn q.transport = true → s.fromQuarantine q.transport
    q.peer = false → s.conn? q.transport q.peer = some c → c.owed = some o → o.told = true → q.valid = true → q.version =
    c.version → ∃ t, exec (.respondIfReady q) s = .next t ∧ (o.left ≠ 0 → Out.spdm q.transport q.peer 0x7F (bytesOf
    [0x42, 12, o.code]) ∈ t.out ∧ t.conn? q.transport q.peer = some c) ∧ (o.left = 0 → o.code ≠ 0x64 ∨
    s.par.sessions.length < 8 → (∃ g, Out.spdm q.transport q.peer o.code g ∈ t.out) ∧ t.conn? q.transport q.peer = some
    { c with owed := none } ∧ (o.code = 0x64 → ∃ x, t.par.sessions = s.par.sessions ++ [x] ∧ x.transport = q.transport ∧
    x.peer = q.peer ∧ x.established = false)))

/-- SPDM sessions and DTLS connections (R201, R209, R210, R423; log 8). -/
def Obligations.SpdmSessions : Prop :=
  (∀ (q : SpdmReq) (i : Nat) (x : SpdmSess)  (s : State), s.sessReady q i x → x.established = false → ∃ t, exec (.finish
    q i true) s = .next t ∧ Out.spdm q.transport q.peer 0x65 [] ∈ t.out ∧
    (∀ y ∈ t.par.sessions, y.id = i → y.established = true) ∧ t.par.sessions.length = s.par.sessions.length) ∧
  (∀ (q : SpdmReq) (i : Nat) (x : SpdmSess)  (s : State), s.sessReady q i x → x.established = false → ∃ t, exec (.finish
    q i false) s = .next t ∧ Out.spdm q.transport q.peer 0x7F [0x06] ∈ t.out ∧ (∀ y ∈ t.par.sessions, y.id ≠ i)) ∧
  (∀ (q : SpdmReq) (i : Nat) (x : SpdmSess)  (s : State), s.sessReady q i x → x.established = true → ∃ t, exec (.heartbeat
    q i) s = .next t ∧ Out.spdm q.transport q.peer 0x68 [] ∈ t.out ∧
    t.par.sessions = s.par.sessions.map (fun y => if y.id == i then { y with lastAt := s.now } else y)) ∧
  (∀ (q : SpdmReq) (i : Nat) (x : SpdmSess) (o : Nat) (s : State), s.sessReady q i x → x.established = true → 1 ≤ o →
    o ≤ 3 → ∃ t, exec (.keyUpdate q i o) s = .next t ∧ Out.spdm q.transport
    q.peer 0x69 (bytesOf [o]) ∈ t.out ∧ t.par.sessions = s.par.sessions.map (fun y => if y.id == i then
    { y with lastAt := s.now, keyEpoch := if o = 3 then y.keyEpoch else y.keyEpoch + 1 } else y)) ∧
  (∀ (q : SpdmReq) (i : Nat) (x : SpdmSess)  (s : State), s.sessReady q i x → ∃ t, exec (.securedMessage q i true) s =
    .next t ∧ t.par.sessions = s.par.sessions.map (fun y => if y.id == i then
    { y with lastAt := s.now } else y) ∧ t.out = []) ∧
  (∀ (q : SpdmReq) (i : Nat) (x : SpdmSess)  (s : State), s.sessReady q i x → ∃ t, exec (.securedMessage q i false) s =
    .next t ∧ Out.spdm q.transport q.peer 0x7F [0x06] ∈ t.out ∧ (∀ y ∈ t.par.sessions, y.id ≠ i)) ∧
  (∀ (q : SpdmReq) (i : Nat) (b : Bool) (s : State), s.spdmOn q.transport = true → s.fromQuarantine q.transport q.peer =
    false → s.spdmSess? q i = none → ∃ t, exec (.securedMessage q i b) s = .next t ∧ t.par =
    { s.par with dead := s.par.dead + 1 } ∧ t.out = []) ∧
  (∀ (i : Nat) (x : SpdmSess) (s : State), s.serving = true → s.par.sessions.find? (·.id == i) = some x → x.lastAt +
    240000000 ≤ s.now → ∃ t, exec (.sessionHeartbeatTimeout i) s = .next t ∧ (∀ y ∈ t.par.sessions, y.id ≠ i)) ∧
  (∀ (i k : Nat) (s : State), s.serving = true → s.par.sessions.find? (·.id == i) = none → i ≠ 0 → k < 64 → k <
    s.par.table.length → (s.partner k).session = i → (∀ j, j < k → (s.partner j).session ≠ i) → (s.partner k).sessAt +
    240000000 ≤ s.now → ∃ t, exec (.sessionHeartbeatTimeout i) s = .next t ∧ (t.partner k).session = 0) ∧
  (∀ (p n : Nat) (s : State), s.serving = true → p < 2 → s.valU (mkKey (0xA010 + p) 0x01) = 1 → (s.dict.conns.filter
    (·.port == p)).length < 8 → s.dict.conns.any (fun c => c.port == p && c.id == n) = false → ∃ t, exec
    (.clientHello p n true) s = .next t ∧ t.dict.conns = s.dict.conns ++ [{ port := p, id := n, lastAt := s.now }] ∧
    t.out = [.dtls p 2])

/-- Writes of the device-firmware entries and the sleep request (R82, R91 to R94, R98, R544). -/
def Obligations.FirmwareEntries : Prop :=
  (∀ (r : Req) (x : Sess) (slot : Nat) (s : State), s.takes r x 0x11000A (encN 1 slot) → slot = 1 ∨ slot = 2 → ∃ t,
    exec (.fwActivate r slot) s = .next t ∧ (∃ l, t.ledger = some l ∧ l.trial = some (if slot = 2 then Slot.b else
    .a) ∧ l.count = 0 ∧ (if slot = 2 then l.stB else l.stA) = .trial) ∧ .reply x.id r.seq stOk 0 [] ∈ t.out) ∧
  (∀ (r : Req) (x : Sess) (v : Nat) (s : State), s.takes r x 0x110008 (encN 1 v) → v = 1 → s.boot.trialFrom.isSome =
    true → ∃ t, exec (.fwConfirm r v) s = .next t ∧ (∃ l, t.ledger = some l ∧ l.trial = none ∧ l.active = some (if
    s.boot.slotB then Slot.b else .a) ∧ (if s.boot.slotB then l.stB else l.stA) = .active ∧ (if s.boot.slotB then
    l.stA else l.stB) = .retired) ∧ t.boot.trialFrom = none ∧ .reply x.id r.seq stOk 0 [] ∈ t.out) ∧
  (∀ (r : Req) (x : Sess) (v : Nat) (s : State), s.takes r x 0x11000B (encN 1 v) → v = 1 → ∃ t, exec (.fwRestart r v)
    s = .next t ∧ t.core.fullReset = some (s.core.fullReset.getD .fwRestart) ∧ .reply x.id r.seq stOk 0 [] ∈ t.out) ∧
  (∀ (r : Req) (x : Sess) (v : Nat) (s : State), s.takes r x 0x110005 (encN 1 v) → v < 256 → ∃ t, exec
    (.fwFloorRequest r v) s = .next t ∧ (∃ l, t.ledger = some l ∧ l.target = v) ∧ .reply x.id r.seq stOk 0 [] ∈
    t.out) ∧
  (∀ (r : Req) (x : Sess) (v : Nat) (s : State), s.takes r x 0x710001 (encN 1 v) → v = 1 → ∃ t, exec (.powerSleep r
    v) s = .next t ∧ t.pwr.sleepReq = true ∧ .reply x.id r.seq stOk 0 [] ∈ t.out)

/-- Writes of the Halter and Stile entries (R103, R104, R111, R113, R116, R145, R170 to R175, R183). -/
def Obligations.StileEntries : Prop :=
  (∀ (r : Req) (x : Sess) (port v : Nat) (y : Slot) (l : PortLedger) (s : State), s.takes r x (lKey port 0x09) (encN
    1 v) → port < 4 → port < s.ports.length → v < 256 → slotOf v = some y → s.portLedger port = some l → l.st y =
    .staged → ∃ t, exec (.stileActivate r port v) s = .next t ∧ t.portLedger port = some
    { (if y = .r then l.setSt .r .active else if l.active.isNone then { l.setSt y .active with active := some y } else { l.setSt y .trial with trial := some y, count := 0 }) with seq := l.seq + 1 }
    ∧ .reply x.id r.seq stOk 0 [] ∈ t.out) ∧
  (∀ (r : Req) (x : Sess) (port v : Nat) (y : Slot) (l : PortLedger) (s : State), s.takes r x (lKey port 0x0A) (encN
    1 v) → port < 4 → port < s.ports.length → v = 1 → s.portLedger port = some l → l.trial = some y → ∃ t, exec
    (.stileConfirm r port v) s = .next t ∧ t.portLedger port = some
    { (l.setSt y .active).setSt (if y = .a then .b else .a) .retired with active := some y, trial := none, seq := l.seq + 1 }
    ∧ (t.port port).trialEnd = none ∧ (t.port port).trialServed = false ∧ .reply x.id r.seq stOk 0 [] ∈ t.out) ∧
  (∀ (r : Req) (x : Sess) (port v : Nat) (s : State), s.takes r x (lKey port 0x0B) (encN 1 v) → port < 4 → port <
    s.ports.length → v = 1 → ∃ t, exec (.stileRestart r port v) s = .next t ∧ (t.port port).recoverDue = true ∧
    .reply x.id r.seq stOk 0 [] ∈ t.out) ∧
  (∀ (r : Req) (x : Sess) (port k : Nat) (v : Bytes) (l : PortLedger) (s : State), s.takes r x (iKey port k) (v) →
    port < 4 → port < s.ports.length → 1 ≤ k ∧ k ≤ 3 → s.portLedger port = some l → ∃ t, exec (.manifestWrite r port
    k v) s = .next t ∧ t.val (iKey port k) = v ∧ t.portLedger port = some (if v = [] then l else
    { (l.setSt (manSlot k) .staged).setMan (manSlot k) v with
      active := if l.active = some (manSlot k) then none else l.active, seq := l.seq + 1 }) ∧ (v ≠ [] → (t.port port).manOk =
    updAt (s.port port).manOk (slotSub (manSlot k) - 1) (fun _ => true)) ∧ .reply x.id r.seq stOk 0 [] ∈ t.out) ∧
  (∀ (r : Req) (x : Sess) (port v : Nat) (s : State), s.takes r x (iKey port 0x09) (encN 2 v) → port < 4 → v < 65536
    → ∃ t, exec (.stileFloorWrite r port v) s = .next t ∧ t.valU (iKey port 0x09) = v ∧ t.portLedger port =
    s.portLedger port ∧ .reply x.id r.seq stOk 0 [] ∈ t.out) ∧
  (∀ (r : Req) (x : Sess) (port k v : Nat) (s : State), s.takes r x (iKey port k) (encN 4 v) → port < 4 → k = 4 ∨ k =
    5 ∨ k = 6 → v < 4294967296 → ∃ t, exec (.slotBaseWrite r port k v) s = .next t ∧ t.valU (iKey port k) = v ∧
    .reply x.id r.seq stOk 0 [] ∈ t.out) ∧
  (∀ (r : Req) (x : Sess) (port k v : Nat) (s : State), s.takes r x (pKey port k) (encN (if k = 7 ∨ k = 9 then 1 else
    4) v) → port < 4 → 7 ≤ k ∧ k ≤ 10 → v < (if k = 7 ∨ k = 9 then 256 else 4294967296) → ∃ t, exec
    (.stileClockConfigWrite r port k v) s = .next t ∧ t.valU (pKey port k) = v ∧ .reply x.id r.seq stOk 0 [] ∈ t.out) ∧
  (∀ (r : Req) (x : Sess) (v : Bytes) (s : State), s.takes r x 0x200001 (v) → ∃ t, exec (.halterScheduleWrite r v) s
    = .next t ∧ t.val 0x200001 = v ∧ t.hal = s.hal ∧ .reply x.id r.seq stOk 0 [] ∈ t.out) ∧
  (∀ (r : Req) (x : Sess) (v : Nat) (s : State), s.takes r x 0x200005 (encN 1 v) → v = 1 → s.hal.st = .stopped → ∃ t,
    exec (.halterResume r v) s = .next t ∧ t.hal.st = .running ∧ t.hal.counted = 0 ∧ t.hal.step = s.hal.step ∧ .reply
    x.id r.seq stOk 0 [] ∈ t.out) ∧
  (∀ (r : Req) (x : Sess) (v : Nat) (s : State), s.takes r x 0x200105 (encN 1 v) → v < 32 → ∃ t, exec
    (.halterHoldClear r v) s = .next t ∧ (∀ n < 4, t.hal.portHold.getLsbD n = (s.hal.portHold.getLsbD n && !v.testBit
    n)) ∧ t.hal.alarmHold = (s.hal.alarmHold && !v.testBit 4) ∧ .reply x.id r.seq stOk 0 [] ∈ t.out)

/-- Writes of the monitor, Cucen Link and attention entries (R397, R413, R415, R486, R499, R506, R508, R512, R516). -/
def Obligations.MonitorEntries : Prop :=
  (∀ (r : Req) (x : Sess) (v : Nat) (s : State), s.takes r x (0x700003) (encN 4 v) → v < 16777216 → ∃ t, exec
    (.monClear r v) s = .next t ∧ t.mon.latched = clearBits s.mon.latched (BitVec.ofNat 24 v) ∧ t.mon.word =
    clearBits s.mon.word (BitVec.ofNat 24 v) ∧ t.mon.wordZ = clearBits s.mon.wordZ (BitVec.ofNat 24 v) ∧ .reply x.id
    r.seq stOk 0 [] ∈ t.out) ∧
  (∀ (r : Req) (x : Sess) (n : Nat) (s : State), s.takes r x (0x700004) (encN 1 n) → n < 256 → ∃ t, exec (.monTest r
    n) s = .next t ∧ t.mon.testMon = n ∧ t.mon.testEnd = some (s.now + testWindow n) ∧ t.mon.testResult = .running ∧
    .reply x.id r.seq stOk 0 [] ∈ t.out) ∧
  (∀ (r : Req) (x : Sess) (n v : Nat) (s : State), s.takes r x (mkKey 0x7010 n) (encN 1 v) → n < 24 → ∃ t, exec
    (.monConfigWrite r n v) s = .next t ∧ t.val (mkKey 0x7010 n) = encN 1 v ∧ t.mon = s.mon ∧ .reply x.id r.seq stOk
    0 [] ∈ t.out) ∧
  (∀ (r : Req) (x : Sess) (v : Nat) (s : State), s.takes r x (0x900003) (encN 1 v) → v < 2 → ∃ t, exec
    (.cascadeEnableWrite r v) s = .next t ∧ t.valU 0x900003 = v ∧ t.cas = s.cas ∧ .reply x.id r.seq stOk 0 [] ∈
    t.out) ∧
  (∀ (r : Req) (x : Sess) (v : Nat) (s : State), s.takes r x (0x90000A) (encN 1 v) → v = 0 → ∃ t, exec
    (.actingMasterClear r v) s = .next t ∧ t.valU 0x90000A = 0 ∧ (s.valU 0x90000A = 1 → t.core.fullReset = some
    (s.core.fullReset.getD .cascade)) ∧ .reply x.id r.seq stOk 0 [] ∈ t.out) ∧
  (∀ (r : Req) (x : Sess) (v : Bytes) (s : State), s.takes r x (0xA02301) (v) → ∃ t, exec (.atnClearEntry r v) s =
    .next t ∧ (∀ b, (BitVec.ofNat 16 (uLE v 2 2)).getLsbD b = true → (t.atn.fresh.getD (u8 v 0) 0).getLsbD b = false
    → (t.atn.cause.getD (u8 v 0) 0).getLsbD b = false) ∧ .reply x.id r.seq stOk 0 [] ∈ t.out) ∧
  (∀ (r : Req) (x : Sess) (g v : Nat) (s : State), s.takes r x (mkKey 0xA020 g) (encN 2 v) → g < 24 → v < 65536 → ∃
    t, exec (.atnEnableEntry r g v) s = .next t ∧ t.atn.dueEn.getLast? = some (g, BitVec.ofNat 16 v) ∧ t.val (mkKey
    0xA020 g) = encN 2 v ∧ .reply x.id r.seq stOk 0 [] ∈ t.out)

/-- Life-cycle requests and debug tokens (R465 to R468, R474 to R478). -/
def Obligations.LifeCycleEntries : Prop :=
  (∀ (r : Req) (x : Sess) (v : Bytes) (s : State), s.takes r x (0x100002) (v) → ∃ t, exec (.lcRequest r v) s = .next
    t ∧ (∃ k, t.lcMark = some k ∧ k.source = s.lcCode ∧ k.target = u8 v 0 ∧ k.step = 0 ∧ k.record = v) ∧ t.fuse =
    s.fuse ∧ .reply x.id r.seq stOk 0 [] ∈ t.out) ∧
  (∀ (r : Req) (x : Sess) (v : Nat) (s : State), s.takes r x (0x100004) (encN 1 v) → v = 1 → ∃ t, exec (.lcCancel r
    v) s = .next t ∧ t.lcMark = none ∧ t.fuse = s.fuse ∧ .reply x.id r.seq stOk 0 [] ∈ t.out) ∧
  (∀ (r : Req) (x : Sess) (v : Bytes) (s : State), s.requestReady r x → r.approver = none → s.needsQuorum x.role
    0x100102 = false → s.logOpen → ∃ t, exec (.debugToken r v) s = .next t ∧ (s.writeCheck x 0x100102 v = 0 →
    t.lc.epoch = s.lc.epoch + 1 ∧ t.lc.scopesDue = s.lc.scopesDue ||| BitVec.ofNat 3 (u8 v 5) ∧ t.lc.nonce = none ∧
    t.lc.scopes = s.lc.scopes) ∧ (s.writeCheck x 0x100102 v ≠ 0 → t.lc.epoch = s.lc.epoch ∧ t.lc.scopesDue =
    s.lc.scopesDue ∧ (s.tokenSpends v = true → t.lc.nonce = none)) ∧ .reply x.id r.seq (s.writeCheck x 0x100102 v) 0
    [] ∈ t.out)

/-- Commit and restore defaults (R437 to R440). -/
def Obligations.CommitAndRestore : Prop :=
  (∀ (r : Req) (x : Sess) (v : Nat) (s : State), s.takes r x 0x001001 (encN 8 v) → v < 18446744073709551616 → v ≠
    s.dict.committed → ∃ t, exec (.dictCommit r v) s = .next t ∧ t.dict.committed = s.dict.changes ∧ (∃ b,
    t.dict.bank = some b ∧ b.changes = s.dict.changes ∧ b.vals = s.snapshot) ∧ (∀ j, j ≠ 0x001001 → t.val j = s.val
    j) ∧ .reply x.id r.seq stOk 0 [] ∈ t.out) ∧
  (∀ (r : Req) (x : Sess) (v : Nat) (s : State), s.takes r x 0x001003 (encN 1 v) → v = 1 → ∃ t, exec
    (.restoreDefaults r v) s = .next t ∧ (∀ j, j ≠ 0x001003 → t.val j = s.val j ∨ (j ∈ restoreKeys ∧ t.val j = dfltOf
    j)) ∧ (∀ n < 32, t.val (mkKey 0x0101 n) = s.val (mkKey 0x0101 n)))

/-- Writes of credentials, management ports, partner policy, owner certificate and promotion (R190, R206, R413, R420,
R421, R423). -/
def Obligations.AccessEntries : Prop :=
  (∀ (r : Req) (x : Sess) (n : Nat) (v : Bytes) (s : State), s.takes r x (mkKey 0x0101 n) (v) → n < 32 → ∃ t, exec
    (.credentialWrite r n v) s = .next t ∧ t.val (mkKey 0x0101 n) = v ∧ (∀ k, k ≠ n → t.val (mkKey 0x0101 k) = s.val
    (mkKey 0x0101 k)) ∧ n ∈ t.dict.endSess ∧ .reply x.id r.seq stOk 0 [] ∈ t.out) ∧
  (∀ (r : Req) (x : Sess) (port k : Nat) (v : Bytes) (s : State), s.takes r x (mkKey (0xA010 + port) k) (v) → port <
    2 → k ≤ 5 → ∃ t, exec (.mePortConfigWrite r port k v) s = .next t ∧ t.val (mkKey (0xA010 + port) k) = v ∧ port ∈
    t.dict.endConns ∧ .reply x.id r.seq stOk 0 [] ∈ t.out) ∧
  (∀ (r : Req) (x : Sess) (k : Nat) (v : Bytes) (s : State), s.takes r x (mkKey 0x3200 k) (v) → k < 64 → ∃ t, exec
    (.policyRecordWrite r k v) s = .next t ∧ t.val (mkKey 0x3200 k) = v ∧ .reply x.id r.seq stOk 0 [] ∈ t.out) ∧
  (∀ (r : Req) (x : Sess) (k : Nat) (v : Bytes) (s : State), s.takes r x (mkKey 0x3200 k) (v) → k < 64 →
    s.par.table.length = 64 → (∀ j, j ≠ k → (s.partner j).st.live = true → (s.partner j).equals v = false ∧
    ¬((s.partner j).pid = (s.partner k).pid ∧ (s.partner j).bus = (s.partner k).bus)) → ∃ t, exec
    (.policyRecordWrite r k v) s = .next t ∧ ((s.partner k).st.polled = true → (t.partner k).st = .endpoint ∧
    (t.partner k).session = 0 ∧ (t.partner k).restart = true ∧ (t.partner k).noPolicy = !(s.partner k).equals v) ∧
    (∀ j, j ≠ k → ∃ a b, t.partner j = { s.partner j with noPolicy := a, reason := b })) ∧
  (∀ (r : Req) (x : Sess) (k j : Nat) (v : Bytes) (s : State), s.takes r x (mkKey 0x3200 k) (v) → k < 64 → j < 64 → j ≠ k →
    s.par.table.length = 64 → (s.partner j).st.live = true → (s.partner j).equals v = true → (∀ i, i < j →
    (s.partner i).st.live = true → (s.partner i).equals v = false) → ∃ t, exec (.policyRecordWrite r k v) s = .next t ∧
    (t.partner k).pid = (s.partner j).pid ∧ (t.partner k).bus = (s.partner j).bus ∧ (t.partner k).eid = (s.partner j).eid ∧
    (t.partner j).pid = (s.partner k).pid ∧ (t.partner j).bus = (s.partner k).bus ∧ (t.partner j).eid = (s.partner k).eid) ∧
  (∀ (r : Req) (x : Sess) (v : Bytes) (s : State), s.takes r x (0x330001) (v) → ∃ t, exec (.ownerCertWrite r v) s =
    .next t ∧ t.val 0x330001 = v ∧ (∀ j, j ≠ 0x330001 → t.val j = s.val j) ∧ .reply x.id r.seq stOk 0 [] ∈ t.out) ∧
  (∀ (r : Req) (x : Sess) (v : Nat) (s : State), s.takes r x 0x900009 (encN 1 v) → v = 1 → ∃ t, exec (.cascadePromote
    r v) s = .next t ∧ t.cas.role = .master ∧ t.cas.present = 0 ∧ t.valU 0x90000A = 1)

/-- Writes of the Logbook entries (R451, R456 to R458, R461). -/
def Obligations.LogbookEntries : Prop :=
  (∀ (r : Req) (x : Sess) (v : Nat) (s : State), s.takes r x (0x800301) (encN 8 v) → v < 18446744073709551616 → ∃ t,
    exec (.logTimeEpochWrite r v) s = .next t ∧ t.valU 0x800301 = v ∧ .reply x.id r.seq stOk 0 [] ∈ t.out) ∧
  (∀ (r : Req) (x : Sess) (v : Nat) (s : State), s.takes r x (0x800005) (encN 1 v) → v < 256 → ∃ t, exec
    (.logPolicyWrite r v) s = .next t ∧ t.valU 0x800005 = v ∧ .reply x.id r.seq stOk 0 [] ∈ t.out) ∧
  (∀ (r : Req) (x : Sess) (v : Bytes) (s : State), s.requestReady r x → r.approver = none → ∃ t, exec (.logExportAck
    r v) s = .next t ∧ (s.writeCheck x 0x800103 v = 0 → t.log.acked = uLE v 0 8 + 1) ∧ (s.writeCheck x 0x800103 v ≠ 0
    → t.log = s.log)) ∧
  (∀ (r : Req) (x : Sess) (v : Nat) (s : State), s.requestReady r x → r.approver = none → s.writeCheck x 0x800101
    (encN 8 v) = 0 → v < 18446744073709551616 → ∃ t, exec (.logWindowStartWrite r v) s = .next t ∧ t.log.winStart = v
    ∧ t.log.entries = s.log.entries)

/-- Timetable load, sheet request and pair retest (R49 to R51, R54 to R56, R326). -/
def Obligations.YardEntries : Prop :=
  (∀ (r : Req) (x : Sess) (v : Bytes) (s : State), s.requestReady r x → r.approver = none → s.needsQuorum x.role
    0x600001 = false → s.logOpen → ∃ t, exec (.timetableLoad r v) s = .next t ∧ (s.writeCheck x 0x600001 v = 0 →
    t.yard.timetable = some (timetableOf v) ∧ t.yard.pending = none ∧ t.yard.sheet = s.yard.sheet ∧ t.yard.loadDue =
    decide (s.yard.sheet ≠ 0)) ∧ (s.writeCheck x 0x600001 v ≠ 0 → t.yard = s.yard) ∧ .reply x.id r.seq (s.writeCheck
    x 0x600001 v) 0 [] ∈ t.out) ∧
  (∀ (r : Req) (x : Sess) (n : Nat) (s : State), s.takes r x (0x600102) (encN 1 n) → n < 256 → ∃ t, exec
    (.sheetSwitchRequest r n) s = .next t ∧ t.yard.pending = some n ∧ t.yard.sheet = s.yard.sheet ∧ .reply x.id r.seq
    stOk 0 [] ∈ t.out) ∧
  (∀ (r : Req) (x : Sess) (v : Nat) (s : State), s.takes r x (0x604004) (encN 1 v) → v = 1 → ∃ t, exec (.pkRetest r
    v) s = .next t ∧ (∀ l < 24, (s.lane (4 + l)).disabled = true → ∃ d ∈ t.devJobs, d.what = .pairCheck (4 + l)) ∧
    .reply x.id r.seq stOk 0 [] ∈ t.out)

/-- How a dictionary write is decided, and writing in parts (R428 to R433). -/
def Obligations.DictionaryWrites : Prop :=
  (∀ (r : Req) (x : Sess) (index sub : Nat) (v : Bytes) (s : State), s.takes r x (mkKey index sub) v → mkKey index
    sub ≠ 0x500001 ∧ mkKey index sub ≠ 0x800101 ∧ mkKey index sub ≠ 0x800103 ∧ mkKey index sub ≠ 0x001001 ∧ mkKey
    index sub ≠ 0x001003 ∧ mkKey index sub ≠ 0x900009 → mkKey index sub ≠ 0x400006 → mkKey index sub / 256 ≠ 0x4002 →
    ∃ t, exec (.dictWrite r index sub v) s = .next t ∧ (∀ j, t.val j = if j = mkKey index sub then v else s.val j) ∧
    .reply x.id r.seq stOk 0 [] ∈ t.out) ∧
  (∀ (r : Req) (x : Sess) (index sub : Nat) (v : Bytes) (s : State), s.requestReady r x → r.approver = none →
    s.valueProgramme (mkKey index sub) v = none → mkKey index sub ≠ 0x500001 → s.writeCheck x (mkKey index sub) v ≠ 0 →
    ∃ t, exec (.dictWrite r index sub v) s = .next t ∧ (∀ j, t.val j = s.val j) ∧ (∀ p, p ∉ [Part.tack, .log, .lc,
    .atn, .dmb, .dict, .out] → s.same p t) ∧ .reply x.id r.seq (s.writeCheck x (mkKey index sub) v) 0 [] ∈ t.out) ∧
  (∀ (r : Req) (x : Sess) (index sub n : Nat) (l c : Bool) (v : Bytes) (s : State), s.requestReady r x → r.approver = none →
    s.writeCheck x (mkKey index sub) v = 0 → s.valueProgramme (mkKey index sub) v = some (l, c, n) → s.needsQuorum x.role
    (mkKey index sub) = false → ∃ t, exec (.dictWrite r index sub v) s = .next t ∧ (∀ j, t.val j = s.val j) ∧ t.devJobs =
    s.devJobs ++ [⟨s.nextJob, .pair l c n (.write (x.begun r 0x11 s.now) (mkKey index sub) v), s.now, none, 0⟩]) ∧
  (∀ (r : Req) (x : Sess) (index sub off : Nat) (data : Bytes) (s : State), s.requestReady r x → off + data.length ≤
    stagingSize → ∃ t, exec (.writePart r index sub off data) s = .next t ∧ (∃ y, t.session? x.slot = some y ∧
    y.staging = some (mkKey index sub, (fit (max (x.staged (mkKey index sub)).length off) (x.staged (mkKey index
    sub))).take off ++ data ++ (fit (max (x.staged (mkKey index sub)).length off) (x.staged (mkKey index sub))).drop
    (off + data.length))) ∧ (∀ j, t.val j = s.val j)) ∧
  (∀ (r : Req) (x : Sess) (index sub total : Nat) (digest : Bytes) (s : State), s.requestReady r x → r.approver =
    none → s.valueProgramme (mkKey index sub) (x.staged (mkKey index sub)) = none → s.writeCheck x (mkKey index sub)
    (x.staged (mkKey index sub)) = 0 → s.needsQuorum x.role (mkKey index sub) = false → s.logOpen → total = (x.staged
    (mkKey index sub)).length → digest = sha384 (x.staged (mkKey index sub)) → mkKey index sub ≠ 0x500001 ∧ mkKey
    index sub ≠ 0x800101 ∧ mkKey index sub ≠ 0x800103 ∧ mkKey index sub ≠ 0x001001 ∧ mkKey index sub ≠ 0x001003 ∧
    mkKey index sub ≠ 0x900009 → mkKey index sub ≠ 0x400006 → ∃ t, exec (.writeEnd r index sub total digest) s =
    .next t ∧ (∀ j, t.val j = if j = mkKey index sub then x.staged (mkKey index sub) else s.val j))

/-- Dictionary reads (R422, R428 to R430, R475; log 57). -/
def Obligations.DictionaryReads : Prop :=
  (∀ (ch : Chan) (x : Sess) (r : Req) (index sub off : Nat) (s : State), s.requestReady r x → r.sid ≠ 0 → readCheck
    x.role (mkKey index sub) = 0 → 0x1000 ≤ mkKey index sub / 256 → mkKey index sub / 256 < 0xA000 → mkKey index sub
    ≠ 0x100101 → ∃ t, exec (.dictRead ch r index sub off) s = .next t ∧ .reply x.id r.seq stOk (s.serial (mkKey index
    sub)) (readPart (s.readValue none (mkKey index sub)) off) ∈ t.out ∧ (∀ j, t.val j = s.val j)) ∧
  (∀ (ch : Chan) (r : Req) (index sub off : Nat) (s : State), r.sid = 0 → s.serving = true → s.dictOn ch.iface = true
    → index = 0 → (entryOf (mkKey index sub)).isSome = true → ∃ t, exec (.dictRead ch r index sub off) s = .next t ∧
    .reply 0 r.seq stOk (s.serial (mkKey index sub)) (readPart (s.readValue none (mkKey index sub)) off) ∈ t.out ∧ (∀
    j, t.val j = s.val j)) ∧
  (∀ (r : Req) (x : Sess) (s : State), s.requestReady r x → x.role = 1 → s.drbgFails = false → ∃ t, exec
    (.debugNonceRead r) s = .next t ∧ t.lc.nonce = some ((s.draw 32).1, s.now) ∧ .reply x.id r.seq stOk (s.serial
    0x100101) (readPart (s.draw 32).1 0) ∈ t.out)

/-- Quorum: approval, withdrawal and expiry of proposals (R434 to R436). -/
def Obligations.Proposals : Prop :=
  (∀ (r : Req) (x : Sess) (id : Nat) (digest : Bytes) (p : Proposal) (s : State), s.requestReady r x → s.proposal? id
    = some p → p.target = 0 → s.valueProgramme p.key p.value = none → x.role = 1 → x.cred ≠ p.cred → x.keyDig ≠ p.keyDig
    → digest = sha384 p.value → s.effCheck (x.desc 0 0 [] []) (.approve id x.cred) = 0 → s.logOpen → p.key ≠ 0x001003
    ∧ p.key ≠ 0x900009 → ∃ t, exec (.approve r id digest) s = .next t ∧ t.val p.key = p.value ∧ (∀ j, j ≠ p.key →
    t.val j = s.val j) ∧ (∀ q ∈ t.dict.proposals, q.id ≠ id)) ∧
  (∀ (r : Req) (x : Sess) (id : Nat) (p : Proposal) (s : State), s.requestReady r x → s.proposal? id = some p →
    x.cred = p.cred → s.logOpen → ∃ t, exec (.withdraw r id) s = .next t ∧ (∀ q ∈ t.dict.proposals, q.id ≠ id) ∧ (∀
    j, t.val j = s.val j) ∧ .reply x.id r.seq stOk 0 [] ∈ t.out) ∧
  (∀ (id : Nat) (p : Proposal) (s : State), s.dict.proposals.find? (fun p => p.id == id) = some p → p.expiry < s.now
    → s.logOpen → ∃ t, exec (.proposalExpiry id) s = .next t ∧ t.dict.proposals = s.dict.proposals.filter (fun q => q.id != p.id)
    ∧ (∀ j, t.val j = s.val j))

/-- Opening, authenticating, closing and expiring dictionary sessions, and requests to stack members (R412, R419, R424
to R427; log 57, log 110). -/
def Obligations.DictionarySessions : Prop :=
  (∀ (ch : Chan) (cred slot : Nat) (s : State), s.serving = true → s.dictOn ch.iface = true → s.channelUp ch = true →
    s.dict.sessions.any (fun x => x.chan == ch) = false → s.freeSessSlot = some slot → s.drbgFails = false → ∃ t,
    exec (.dictOpen ch cred) s = .next t ∧ (∃ x ∈ t.dict.sessions, x.slot = slot ∧ x.chan = ch ∧ x.cred = cred ∧
    x.role = 0 ∧ x.nonce = (s.draw 32).1 ∧ .reply 0 0 stOk 0 (x.nonce ++ leN 4 x.id) ∈ t.out) ∧ (∀ x ∈
    s.dict.sessions, x ∈ t.dict.sessions)) ∧
  (∀ (r : Req) (x : Sess) (key sig binding : Bytes) (s : State), s.serving = true → s.dict.sessions.find? (fun y =>
    y.id == r.sid) = some x → s.session? x.slot = some x → x.role = 0 → x.busy = false → s.dictOn x.chan.iface = true → ∃ t,
    exec (.dictAuth r key sig binding) s = .next t ∧
    (s.authRole x.cred key = 0 → .reply x.id r.seq stRole 0 [] ∈ t.out) ∧
    (s.authRole x.cred key ≠ 0 → s.core.op.working = true ∧ s.classOn (if key.length = 96 then .pk else .lattice) 0 = true →
      t.devJobs = s.devJobs ++ [⟨s.nextJob, .pair (key.length != 96) false (ownerFrames (if key.length = 96 then 1 else 2))
        (.auth x r.seq key (ownerVerify (if key.length = 96 then 1 else 2) key (authMessage (s.binding x.chan binding) x.nonce
        x.id x.cred) sig)), s.now, none, 0⟩] ∧ t.session? x.slot = some { x with lastAt := s.now, busy := true }) ∧
    (s.authRole x.cred key ≠ 0 → ¬(s.core.op.working = true ∧ s.classOn (if key.length = 96 then .pk else .lattice) 0 = true) →
      (ownerVerify (if key.length = 96 then 1 else 2) key (authMessage (s.binding x.chan binding) x.nonce x.id x.cred) sig =
        true → .reply x.id r.seq stOk 0 [] ∈ t.out ∧ ∃ y, t.session? x.slot = some y ∧ y.role = s.authRole x.cred key ∧
        y.keyDig = sha384 key ∧ y.lastSeq = 0) ∧
      (ownerVerify (if key.length = 96 then 1 else 2) key (authMessage (s.binding x.chan binding) x.nonce x.id x.cred) sig =
        false → .reply x.id r.seq stRole 0 [] ∈ t.out))) ∧
  (∀ (r : Req) (x : Sess) (s : State), s.requestReady r x → ∃ t, exec (.dictClose r) s = .next t ∧ (∀ y ∈
    t.dict.sessions, y.slot ≠ x.slot) ∧ (x.id, s.now) ∈ t.dict.ended ∧ .reply x.id r.seq stOk 0 [] ∈ t.out) ∧
  (∀ (sid : Nat) (conn : Bool) (x : Sess) (s : State), conn = false → s.serving = true → s.dict.sessions.find? (fun y
    => y.id == sid) = some x → x.lastAt + s.valU (mkKey 0x0100 0x02) * secFrames ≤ s.now → x.busy = false → ∃ t, exec
    (.dictSessionIdle sid conn) s = .next t ∧ (∀ y ∈ t.dict.sessions, y.slot ≠ x.slot) ∧ (x.id, s.now) ∈
    t.dict.ended) ∧
  (∀ (r : Req) (x : Sess) (target op index sub : Nat) (value : Bytes) (role : Nat) (answer : Option Reply) (s :
    State), role = 0 → r.approver = none → s.requestReady r x → s.cas.role = .master → op = 0x10 → s.members.contains
    target = true → ∃ t, exec (.remoteRequest r target op index sub value role answer) s = .next t ∧ .link (target %
    8) 12 (leN 4 (mkKey index sub) ++ value) ∈ t.out ∧ .reply x.id r.seq (answer.getD (plain stPeerLost)).status
    (answer.getD (plain stPeerLost)).info (answer.getD (plain stPeerLost)).payload ∈ t.out)

/-- Key commands by officers through the dictionary (R213, R226 to R229, R231, R235, R236, R239, R247; log 10). -/
def Obligations.OfficerKeys : Prop :=
  (∀ (r : Req) (x : Sess) (h : Bytes) (d : Bytes) (s : State), s.requestReady r x → r.approver = none → s.valueProgramme
    0x400006 (keyValue 1 h d) = none → s.needsQuorum x.role 0x400006 = false → s.logOpen → s.tack.cmdsThisFrame < 8 → ∃ t,
    exec (.create r h d) s = .next t ∧ (∀
    parent a sec slot t0, s.writeCheck x 0x400006 (keyValue 1 h d) = 0 → s.keyPlan (keyCmdOf (keyValue 1 h d)) = .ok
    (.add parent a sec) → s.place (keyRun a.typ) ((BitVec.ofNat 5 a.world).getLsbD 0) = some (slot, t0) → t.tack.keys
    = s.tack.keys.filter (fun k => k.slot != slot) ++ [newKeyAt s parent a sec slot] ∧ (∃ kcv, t.tack.result =
    tackResult stOk (t.tack.handleOf slot) kcv) ∧ .reply x.id r.seq stOk 0 [] ∈ t.out) ∧ (s.writeCheck x 0x400006
    (keyValue 1 h d) ≠ 0 → t.tack =
    { s.tack with result := tackResult (s.writeCheck x 0x400006 (keyValue 1 h d)) 0 [] } ∧ .reply x.id r.seq
    (s.writeCheck x 0x400006 (keyValue 1 h d)) 0 [] ∈ t.out)) ∧
  (∀ (r : Req) (x : Sess) (h : Bytes) (d : Bytes) (l c : Bool) (n : Nat) (s : State), s.requestReady r x → r.approver = none →
    s.writeCheck x 0x400006 (keyValue 1 h d) = 0 → s.valueProgramme 0x400006 (keyValue 1 h d) = some (l, c, n) →
    s.needsQuorum x.role 0x400006 = false → ∃ t, exec (.create r h d) s = .next t ∧ t.tack = s.tack ∧ t.devJobs = s.devJobs ++
    [⟨s.nextJob, .pair l c n (.write (x.begun r 0x11 s.now) 0x400006 (keyValue 1 h d)), s.now, none, 0⟩]) ∧
  (∀ (r : Req) (x : Sess) (h : Bytes) (d : Bytes) (s : State), s.requestReady r x → r.approver = none → s.needsQuorum
    x.role 0x400006 = false → s.logOpen → s.tack.cmdsThisFrame < 8 → ∃ t, exec (.import_ r h d) s = .next t ∧ (∀
    parent a sec slot t0, s.writeCheck x 0x400006 (keyValue 2 h d) = 0 → s.keyPlan (keyCmdOf (keyValue 2 h d)) = .ok
    (.add parent a sec) → s.place (keyRun a.typ) ((BitVec.ofNat 5 a.world).getLsbD 0) = some (slot, t0) → t.tack.keys
    = s.tack.keys.filter (fun k => k.slot != slot) ++ [newKeyAt s parent a sec slot] ∧ (∃ kcv, t.tack.result =
    tackResult stOk (t.tack.handleOf slot) kcv) ∧ .reply x.id r.seq stOk 0 [] ∈ t.out) ∧ (s.writeCheck x 0x400006
    (keyValue 2 h d) ≠ 0 → t.tack =
    { s.tack with result := tackResult (s.writeCheck x 0x400006 (keyValue 2 h d)) 0 [] } ∧ .reply x.id r.seq
    (s.writeCheck x 0x400006 (keyValue 2 h d)) 0 [] ∈ t.out)) ∧
  (∀ (r : Req) (x : Sess) (h : Bytes) (d : Bytes) (s : State), s.requestReady r x → r.approver = none → s.needsQuorum
    x.role 0x400006 = false → s.logOpen → s.tack.cmdsThisFrame < 8 → ∃ t, exec (.derive_ r h d) s = .next t ∧ (∀
    parent a sec slot t0, s.writeCheck x 0x400006 (keyValue 3 h d) = 0 → s.keyPlan (keyCmdOf (keyValue 3 h d)) = .ok
    (.add parent a sec) → s.place (keyRun a.typ) ((BitVec.ofNat 5 a.world).getLsbD 0) = some (slot, t0) → t.tack.keys
    = s.tack.keys.filter (fun k => k.slot != slot) ++ [newKeyAt s parent a sec slot] ∧ (∃ kcv, t.tack.result =
    tackResult stOk (t.tack.handleOf slot) kcv) ∧ .reply x.id r.seq stOk 0 [] ∈ t.out) ∧ (s.writeCheck x 0x400006
    (keyValue 3 h d) ≠ 0 → t.tack =
    { s.tack with result := tackResult (s.writeCheck x 0x400006 (keyValue 3 h d)) 0 [] } ∧ .reply x.id r.seq
    (s.writeCheck x 0x400006 (keyValue 3 h d)) 0 [] ∈ t.out)) ∧
  (∀ (r : Req) (x : Sess) (h : Bytes) (k : Key) (s : State), s.requestReady r x → r.approver = none → s.needsQuorum
    x.role 0x400006 = false → s.logOpen → s.tack.cmdsThisFrame < 8 → s.writeCheck x 0x400006 (keyValue 4 h []) = 0 →
    s.keyPlan (keyCmdOf (keyValue 4 h [])) = .ok (.change k) → k.st ≠ .revoked → s.tack.worn k = false → ∃ t, exec
    (.revoke r h) s = .next t ∧ (∃ g, t.tack.keys = s.tack.keys.filter (fun y => y.slot != k.slot) ++
    [{ k with st := .revoked, secret := [], gen := g, drainEnd := none }]) ∧ .reply x.id r.seq stOk 0 [] ∈ t.out) ∧
  (∀ (r : Req) (x : Sess) (h : Bytes) (k : Key) (s : State), s.requestReady r x → r.approver = none → s.needsQuorum
    x.role 0x400006 = false → s.logOpen → s.tack.cmdsThisFrame < 8 → s.writeCheck x 0x400006 (keyValue 5 h []) = 0 →
    s.keyPlan (keyCmdOf (keyValue 5 h [])) = .ok (.change k) → ∃ t, exec (.erase r h) s = .next t ∧ t.tack.keys =
    s.tack.keys.filter (fun y => y.slot != k.slot) ∧ .reply x.id r.seq stOk 0 [] ∈ t.out) ∧
  (∀ (r : Req) (x : Sess) (h : Bytes) (k : Key) (s : State), s.requestReady r x → r.approver = none → s.needsQuorum
    x.role 0x400006 = false → s.logOpen → s.tack.cmdsThisFrame < 8 → s.writeCheck x 0x400006 (keyValue 6 h []) = 0 →
    s.keyPlan (keyCmdOf (keyValue 6 h [])) = .ok (.change k) → ∃ t, exec (.rewrite r h) s = .next t ∧ (∃ g,
    t.tack.keys = s.tack.keys.filter (fun y => y.slot != k.slot) ++
    [{ k with st := .active, secret := rewriteSecret k s.tack.draws, gen := g, useCount := 0, mark := 0 }])
    ∧ .reply x.id r.seq stOk 0 [] ∈ t.out) ∧
  (∀ (r : Req) (x : Sess) (h : Bytes) (k : Key) (s : State), s.requestReady r x → r.approver = none → s.needsQuorum
    x.role 0x400006 = false → s.logOpen → s.tack.cmdsThisFrame < 8 → s.writeCheck x 0x400006 (keyValue 7 h []) = 0 →
    s.keyPlan (keyCmdOf (keyValue 7 h [])) = .ok (.change k) → ∃ t, exec (.drain r h) s = .next t ∧ t.tack.keys =
    s.tack.keys.filter (fun y => y.slot != k.slot) ++
    [{ k with st := .draining, drainEnd := some (s.now + (keyCmdOf (keyValue 7 h [])).timeout) }] ∧ .reply x.id r.seq
    stOk 0 [] ∈ t.out) ∧
  (∀ (r : Req) (x : Sess) (h : Bytes) (s : State), s.requestReady r x → r.approver = none → s.needsQuorum x.role
    0x400006 = false → s.logOpen → s.tack.cmdsThisFrame < 8 → ∃ t, exec (.export_ r h) s = .next t ∧ (∀ b,
    s.writeCheck x 0x400006 (keyValue 8 h []) = 0 → s.keyPlan (keyCmdOf (keyValue 8 h [])) = .ok (.blockOut b) →
    t.tack = { s.tack with exported := b, result := tackResult stOk (keyCmdOf (keyValue 8 h [])).handle [] } ∧ .reply
    x.id r.seq stOk 0 [] ∈ t.out) ∧ (s.writeCheck x 0x400006 (keyValue 8 h []) ≠ 0 → t.tack =
    { s.tack with result := tackResult (s.writeCheck x 0x400006 (keyValue 8 h [])) 0 [] } ∧ .reply x.id r.seq
    (s.writeCheck x 0x400006 (keyValue 8 h [])) 0 [] ∈ t.out))

/-- The Storage Root Key, drains and lineage sweeps (R233, R236, R242 to R244). -/
def Obligations.TackMaintenance : Prop :=
  (∀ (r : Req) (x : Sess) (v : Nat) (s : State), s.takes r x (0x400005) (encN 1 v) → v = 1 → ∃ t, exec (.srkGenerate
    r v) s = .next t ∧ t.tack.srk = some (s.draw 32).1 ∧ (∀ k ∈ t.tack.keys, (k ∈ s.tack.keys ∨ k.world.getLsbD 0 =
    true) ∧ k.st ≠ .lost) ∧ .reply x.id r.seq stOk 0 [] ∈ t.out) ∧
  (∀ (slot : Nat) (k : Key) (s : State), s.draining slot = some k → s.keyUsed slot = false → ∃ t, exec (.drainErase
    slot) s = .next t ∧ t.tack.keys = s.tack.keys.filter (fun y => y.slot != k.slot)) ∧
  (∀ (slot e : Nat) (k : Key) (s : State), s.draining slot = some k → k.drainEnd = some e → e ≤ s.now → ∃ t, exec
    (.drainTimeout slot) s = .next t ∧ t.tack.keys = s.tack.keys.filter (fun y => y.slot != k.slot)) ∧
  (∀ (s : State), s.devEnded .sweep = true → ∃ t, exec .lineageSweepEnd s = .next t ∧ t.tack.sweeps = s.tack.sweeps +
    1 ∧ t.tack.keys = s.tack.keys ∧ t.devJobs = (s.dropDev .sweep).devJobs)

/-- Services on PIN blocks, MACs and cryptograms, and the key check value (R288, R289, R335 to R348; log 8). -/
def Obligations.PaymentServices : Prop :=
  (∀ (id : Nat) (j : Job) (s : State), s.atLastStep id 0x10 j → ∃ t, exec (.pinTranslate id) s = .next t ∧ t.job? id
    = some (j.ended (j.ending true (j.pinTranslate)) s.now)) ∧
  (∀ (id : Nat) (j : Job) (s : State), s.atLastStep id 0x11 j → ∃ t, exec (.pinVerify id) s = .next t ∧ t.job? id =
    some (j.ended (j.ending true (j.pinVerify)) s.now)) ∧
  (∀ (id : Nat) (j : Job) (s : State), s.atLastStep id 0x12 j → ∃ t, exec (.dukptPinTranslate id) s = .next t ∧
    t.job? id = some (j.ended (j.ending true (j.dukptTranslate)) s.now)) ∧
  (∀ (id : Nat) (j : Job) (s : State), s.atLastStep id 0x13 j → ∃ t, exec (.pinCheckValue id) s = .next t ∧ t.job? id
    = some (j.ended (j.ending true (j.pinCheckValue)) s.now)) ∧
  (∀ (id : Nat) (j : Job) (s : State), s.atLastStep id 0x20 j → ∃ t, exec (.macGenerate id) s = .next t ∧ t.job? id =
    some (j.ended (j.ending true (value ((macOf j.param j.typA j.secA j.data).take j.dstLen))) s.now)) ∧
  (∀ (id : Nat) (j : Job) (s : State), s.atLastStep id 0x21 j → ∃ t, exec (.macVerify id) s = .next t ∧ t.job? id =
    some (j.ended (j.ending true (bare (if (macOf j.param j.typA j.secA (j.data.drop j.dstLen)).take j.dstLen =
    j.data.take j.dstLen then stOk else stMismatch))) s.now)) ∧
  (∀ (id : Nat) (j : Job) (s : State), s.atLastStep id 0x28 j → ∃ t, exec (.cryptogramVerify id) s = .next t ∧ t.job?
    id = some (j.ended (j.ending true (bare (if j.arqcOk then stOk else stMismatch))) s.now)) ∧
  (∀ (id : Nat) (j : Job) (s : State), s.atLastStep id 0x29 j → ∃ t, exec (.cryptogramVerifyRespond id) s = .next t ∧
    t.job? id = some (j.ended (j.ending true (if j.arqcOk then inlineOnly j.arpc else bare stMismatch)) s.now)) ∧
  (∀ (id : Nat) (j : Job) (s : State), s.atLastStep id 0x3A j → ∃ t, exec (.kcv id) s = .next t ∧ t.job? id = some
    (j.ended (j.ending true (inlineOnly (if j.param = 0 then s.defaultKcv j.typA j.secA else kcvOf j.typA (j.param ==
    2) j.secA))) s.now))

/-- Digest and HMAC jobs and digest streams (R253 to R269; log 8). -/
def Obligations.DigestServices : Prop :=
  (∀ (id : Nat) (j : Job) (s : State), s.atLastStep id 0x40 j → ∃ t, exec (.digest id) s = .next t ∧ t.job? id = some
    (j.ended (j.ending true (value ((hashOfCode j.param).run (j.data.take j.srcLen)))) s.now)) ∧
  (∀ (id : Nat) (j : Job) (s : State), s.atLastStep id 0x41 j → ∃ t, exec (.hmacJob id) s = .next t ∧ t.job? id =
    some (j.ended (j.ending true (value (hmac (hashOfCode j.param) j.secA (j.data.take j.srcLen)))) s.now)) ∧
  (∀ (id : Nat) (j : Job) (s : State), s.atLastStep id 0x42 j → ∃ t, exec (.digestCompare id) s = .next t ∧ t.job? id
    = some (j.ended (j.ending true (bare (if ((hashOfCode j.param).run (j.data.take j.srcLen)).take j.dstLen =
    j.expected then stOk else stMismatch))) s.now)) ∧
  (∀ (id : Nat) (j : Job) (s : State), s.atLastStep id 0x43 j → ∃ t, exec (.hmacCompare id) s = .next t ∧ t.job? id =
    some (j.ended (j.ending true (bare (if (hmac (hashOfCode j.param) j.secA (j.data.take j.srcLen)).take j.dstLen =
    j.expected then stOk else stMismatch))) s.now)) ∧
  (∀ (id : Nat) (j : Job) (s : State), s.atLastStep id 0x44 j → ∃ t, exec (.openStream id) s = .next t ∧ t.job? id =
    some (j.ended (j.ending true (inlineOnly (leN 4 j.keyB))) s.now)) ∧
  (∀ (id : Nat) (j : Job) (s : State), s.atLastStep id 0x45 j → ∃ t, exec (.openKeyed id) s = .next t ∧ t.job? id =
    some (j.ended (j.ending true (inlineOnly (leN 4 j.keyB))) s.now)) ∧
  (∀ (id : Nat) (j : Job) (s : State), s.atLastStep id 0x46 j → ∃ t, exec (.update id) s = .next t ∧ t.job? id = some
    (j.ended (j.ending true (bare stOk)) s.now) ∧ (∀ x, j.short = false → s.stream? j.pad j.keyB = some x → t.stream?
    j.pad j.keyB = some { x with absorbed := x.absorbed ++ j.data.take j.srcLen }) ∧ (j.short = true → (∀ q, s.pad?
    j.pad = some q → ∃ y, t.pad? j.pad = some y ∧ y.streams = q.streams.filter (fun z => z.handle != j.keyB)))) ∧
  (∀ (id : Nat) (j : Job) (s : State), s.atLastStep id 0x47 j → ∃ t, exec (.final id) s = .next t ∧ t.job? id = some
    (j.ended (j.ending true (value (s.streamOut j))) s.now) ∧ (∀ q, s.pad? j.pad = some q → ∃ y, t.pad? j.pad = some
    y ∧ y.streams = q.streams.filter (fun z => z.handle != j.keyB))) ∧
  (∀ (id : Nat) (j : Job) (s : State), s.atLastStep id 0x48 j → ∃ t, exec (.finalCompare id) s = .next t ∧ t.job? id
    = some (j.ended (j.ending true (bare (if (s.streamOut j).take j.dstLen = j.expected then stOk else stMismatch)))
    s.now) ∧ (∀ q, s.pad? j.pad = some q → ∃ y, t.pad? j.pad = some y ∧ y.streams = q.streams.filter (fun z =>
    z.handle != j.keyB))) ∧
  (∀ (id : Nat) (j : Job) (s : State), s.atLastStep id 0x49 j → ∃ t, exec (.abandon id) s = .next t ∧ t.job? id =
    some (j.ended (j.ending true (bare stOk)) s.now) ∧ (∀ q, s.pad? j.pad = some q → ∃ y, t.pad? j.pad = some y ∧
    y.streams = q.streams.filter (fun z => z.handle != j.keyB)))

/-- Sign, verify, batch verify, encapsulation and random jobs (R307 to R313, R321, R324, R353 to R355; log 9, log 10).
-/
def Obligations.PublicKeyServices : Prop :=
  (∀ (id : Nat) (agree : Bool) (j : Job) (s : State), s.atLastStep id 0x50 j → ∃ t, exec (.sign id agree) s = .next t
    ∧ t.job? id = some (j.ended (j.ending agree (j.sign)) s.now)) ∧
  (∀ (id : Nat) (agree : Bool) (j : Job) (s : State), s.atLastStep id 0x51 j → ∃ t, exec (.verify id agree) s = .next
    t ∧ t.job? id = some (j.ended (j.ending agree (bare j.verifyOne)) s.now)) ∧
  (∀ (id p : Nat) (agree : Bool) (j : Job) (s : State), s.job? id = some j → j.atEnd 0x52 = true → j.src = .part p →
    p ≠ id → ∃ t, exec (.batchVerify id agree) s = .next t ∧ t.job? id = some (j.ended (j.ending agree (bare
    j.verifyOne)) s.now)) ∧
  (∀ (id : Nat) (agree : Bool) (j : Job) (s : State), s.atLastStep id 0x54 j → ∃ t, exec (.encapsulateReturn id
    agree) s = .next t ∧ t.job? id = some (j.ended (j.ending agree (s.encapEnd j)) s.now)) ∧
  (∀ (id : Nat) (j : Job) (s : State), s.atLastStep id 0x70 j → ∃ t, exec (.random id) s = .next t ∧ t.job? id = some
    (j.ended (j.ending true (value (Config.drbg j.drawNo j.dstLen))) s.now))

/-- Jobs that make keys: generate, pair generate, import, derive, agreement, encapsulation, storing a public key
(R213, R226 to R229, R349 to R354; log 9, log 10). -/
def Obligations.KeyMakingJobs : Prop :=
  (∀ (id : Nat) (j : Job) (s : State), s.atLastStep id 0x30 j → s.logOpen → s.tack.cmdsThisFrame < 8 → ∃ t, exec
    (.keyGenerate id) s = .next t ∧ s.keyJobFails t id j (j.ending true (s.generateEnd j)) ∧ s.keyJobAdds t id j
    (j.ending true (s.generateEnd j))) ∧
  (∀ (id : Nat) (agree : Bool) (j : Job) (s : State), s.atLastStep id 0x31 j → s.logOpen → s.tack.cmdsThisFrame < 8 →
    ∃ t, exec (.keyPairGenerate id agree) s = .next t ∧ s.keyJobFails t id j (j.ending agree (s.pairEnd j)) ∧
    s.keyJobAdds t id j (j.ending agree (s.pairEnd j))) ∧
  (∀ (id : Nat) (j : Job) (s : State), s.atLastStep id 0x32 j → s.logOpen → s.tack.cmdsThisFrame < 8 → ∃ t, exec
    (.keyImport id) s = .next t ∧ s.keyJobFails t id j (j.ending true (s.importEnd j)) ∧ s.keyJobAdds t id j
    (j.ending true (s.importEnd j))) ∧
  (∀ (id : Nat) (j : Job) (s : State), s.atLastStep id 0x33 j → s.logOpen → s.tack.cmdsThisFrame < 8 → ∃ t, exec
    (.keyImportWrapped id) s = .next t ∧ s.keyJobFails t id j (j.ending true (s.importWrappedEnd j)) ∧ s.keyJobAdds t
    id j (j.ending true (s.importWrappedEnd j))) ∧
  (∀ (id : Nat) (j : Job) (s : State), s.atLastStep id 0x35 j → s.logOpen → s.tack.cmdsThisFrame < 8 → ∃ t, exec
    (.keyDerive id) s = .next t ∧ s.keyJobFails t id j (j.ending true (s.deriveEnd j)) ∧ s.keyJobAdds t id j
    (j.ending true (s.deriveEnd j))) ∧
  (∀ (id : Nat) (agree : Bool) (j : Job) (s : State), s.atLastStep id 0x53 j → s.logOpen → s.tack.cmdsThisFrame < 8 →
    ∃ t, exec (.ecdh id agree) s = .next t ∧ s.keyJobFails t id j (j.ending agree (s.ecdhEnd j)) ∧ s.keyJobAdds t id
    j (j.ending agree (s.ecdhEnd j))) ∧
  (∀ (id : Nat) (agree : Bool) (j : Job) (s : State), s.atLastStep id 0x55 j → s.logOpen → s.tack.cmdsThisFrame < 8 →
    ∃ t, exec (.encapsulateAes id agree) s = .next t ∧ s.keyJobFails t id j (j.ending agree (s.encapEnd j)) ∧
    s.keyJobAdds t id j (j.ending agree (s.encapEnd j))) ∧
  (∀ (id : Nat) (agree : Bool) (j : Job) (s : State), s.atLastStep id 0x56 j → s.logOpen → s.tack.cmdsThisFrame < 8 →
    ∃ t, exec (.encapsulateHmac id agree) s = .next t ∧ s.keyJobFails t id j (j.ending agree (s.encapEnd j)) ∧
    s.keyJobAdds t id j (j.ending agree (s.encapEnd j))) ∧
  (∀ (id : Nat) (agree : Bool) (j : Job) (s : State), s.atLastStep id 0x57 j → s.logOpen → s.tack.cmdsThisFrame < 8 →
    ∃ t, exec (.decapsulateAes id agree) s = .next t ∧ s.keyJobFails t id j (j.ending agree (s.decapEnd j)) ∧
    s.keyJobAdds t id j (j.ending agree (s.decapEnd j))) ∧
  (∀ (id : Nat) (agree : Bool) (j : Job) (s : State), s.atLastStep id 0x58 j → s.logOpen → s.tack.cmdsThisFrame < 8 →
    ∃ t, exec (.decapsulateHmac id agree) s = .next t ∧ s.keyJobFails t id j (j.ending agree (s.decapEnd j)) ∧
    s.keyJobAdds t id j (j.ending agree (s.decapEnd j))) ∧
  (∀ (id : Nat) (agree : Bool) (j : Job) (s : State), s.atLastStep id 0x3B j → s.logOpen → s.tack.cmdsThisFrame < 8 →
    ∃ t, exec (.keyStorePublic id agree) s = .next t ∧ s.keyJobFails t id j (j.ending agree (s.storeEnd j)) ∧
    s.keyJobAdds t id j (j.ending agree (s.storeEnd j))) ∧
  (∀ (id : Nat) (agree : Bool) (j : Job) (s : State), s.job? id = some j → s.noStepReady j 0x3B = true → j.begun =
    false → j.src.whole = true → s.logOpen → s.tack.cmdsThisFrame < 8 → ∃ t, exec (.keyStorePublic id agree) s =
    .next t ∧ s.keyJobFails t id j (s.noStepEnding j (s.storeEnd j)) ∧ s.keyJobAdds t id j (s.noStepEnding j (s.storeEnd j)))

/-- Jobs that change or export keys: revoke, erase, rewrite, drain, export (R231, R235, R236, R239 to R241, R349 to
R352; log 10). -/
def Obligations.KeyChangingJobs : Prop :=
  (∀ (id : Nat) (j : Job) (s : State), s.job? id = some j → s.noStepReady j 0x36 = true → j.src.whole = true → j.short = false →
    s.logOpen → s.tack.cmdsThisFrame < 8 → ∃ t, exec (.keyRevoke id) s = .next t ∧ (∀ e, s.cmdTarget 4 j.world j.pad
    j.keyA = .error e → e ≠ 0 → t.tack = s.tack ∧ t.closes id e s.now) ∧ (∀ k, s.cmdTarget 4 j.world j.pad j.keyA =
    .ok k → k.st ≠ .revoked → s.tack.worn k = false → (∃ g, t.tack.keys = s.tack.keys.filter (fun y => y.slot !=
    k.slot) ++ [{ k with st := .revoked, secret := [], gen := g, drainEnd := none }]) ∧ t.closes id stOk s.now)) ∧
  (∀ (id : Nat) (j : Job) (s : State), s.job? id = some j → s.noStepReady j 0x37 = true → j.src.whole = true → j.short = false →
    s.logOpen → s.tack.cmdsThisFrame < 8 → ∃ t, exec (.keyErase id) s = .next t ∧ (∀ e, s.cmdTarget 5 j.world j.pad
    j.keyA = .error e → e ≠ 0 → t.tack = s.tack ∧ t.closes id e s.now) ∧ (∀ k, s.cmdTarget 5 j.world j.pad j.keyA =
    .ok k → t.tack.keys = s.tack.keys.filter (fun y => y.slot != k.slot) ∧ t.closes id stOk s.now)) ∧
  (∀ (id : Nat) (j : Job) (s : State), s.atLastStep id 0x38 j → j.short = false → s.logOpen → s.tack.cmdsThisFrame <
    8 → ∃ t, exec (.keyRewrite id) s = .next t ∧ (∀ e, s.cmdTarget 6 j.world j.pad j.keyA = .error e → e ≠ 0 → t.tack
    = s.tack ∧ t.closes id e s.now) ∧ (∀ k, s.cmdTarget 6 j.world j.pad j.keyA = .ok k → s.changeCheck 6 k = 0 → (∃
    g, t.tack.keys = s.tack.keys.filter (fun y => y.slot != k.slot) ++
    [{ k with st := .active, secret := rewriteSecret k j.drawNo, gen := g, useCount := 0, mark := 0 }]) ∧
    t.closes id stOk s.now)) ∧
  (∀ (id : Nat) (j : Job) (s : State), s.job? id = some j → s.noStepReady j 0x39 = true → j.src.whole = true → j.short = false →
    s.logOpen → s.tack.cmdsThisFrame < 8 → ∃ t, exec (.keyDrain id) s = .next t ∧ (∀ e, s.cmdTarget 7 j.world j.pad
    j.keyA = .error e → e ≠ 0 → t.tack = s.tack ∧ t.closes id e s.now) ∧ (∀ k, s.cmdTarget 7 j.world j.pad j.keyA =
    .ok k → k.st ≠ .draining → t.tack.keys = s.tack.keys.filter (fun y => y.slot != k.slot) ++
    [{ k with st := .draining, drainEnd := some (s.now + ofLE j.data) }] ∧ t.closes id stOk s.now)) ∧
  (∀ (id : Nat) (j : Job) (s : State), s.atLastStep id 0x34 j → s.logOpen → s.tack.cmdsThisFrame < 8 → ∃ t, exec
    (.keyExport id) s = .next t ∧ s.keyJobFails t id j (j.ending true (s.exportEnd j)) ∧ t.tack.keys = s.tack.keys ∧
    ((j.ending true (s.exportEnd j)).st = stOk → s.jobCheck (j.ended (j.ending true (s.exportEnd j)) s.now) = 0 → ∃ y, t.job? id = some y ∧ y.status = some stOk ∧ y.waitsLog = false
    ∧ y.completeAt = some (s.now + 1) ∧ y.dest = (s.exportEnd j).dest))

/-- Writes to the push window (R375, R376, R379). -/
def Obligations.PushWindows : Prop :=
  (∀ (pad slot off : Nat) (data : Bytes) (q : Pad) (s : State), s.openPad pad = some q → slot < 64 → off +
    data.length < 64 → ∃ t, exec (.pushWindowWrite pad slot off data) s = .next t ∧ (∃ q', t.pad? pad = some q' ∧ (¬
    wholeDwords off data → q.refused q' stBadAlignment) ∧ (wholeDwords off data → q.slotSealed slot = true →
    q.refused q' stBadFormat ∧ q'.slots = q.slots) ∧ (wholeDwords off data → q.slotSealed slot = false → q' =
    { q with slots := q.otherSlots slot ++ [q.slotWith slot off data] }))) ∧
  (∀ (pad slot off : Nat) (data : Bytes) (q : Pad) (s : State), s.openPad pad = some q → slot < 64 → off +
    data.length = 64 → ∃ t, exec (.pushSlotSeal pad slot off data) s = .next t ∧ (∃ q', t.pad? pad = some q' ∧ (¬
    wholeDwords off data → q.refused q' stBadAlignment) ∧ (wholeDwords off data → q.slotSealed slot = true →
    q.refused q' stBadFormat) ∧ (wholeDwords off data → q.slotSealed slot = false → ((u8 (q.slotWith slot off
    data).data 63 ≠ 0xA5 ∨ (q.slotWith slot off data).dwords ≠ 0xFFFF ∨ (q.ring.getD (q.slotWith slot off
    data).ringOf ringReset).active = false → q.refused q' stBadFormat) ∧ (u8 (q.slotWith slot off data).data 63 =
    0xA5 → (q.slotWith slot off data).dwords = 0xFFFF → (q.ring.getD (q.slotWith slot off data).ringOf
    ringReset).active = true → ((q.ring.getD (q.slotWith slot off data).ringOf ringReset).depth ≤ (q.ring.getD
    (q.slotWith slot off data).ringOf ringReset).outstanding → q.refused q' stQueueFull ∧ q'.queueFull = q.queueFull
    + 1) ∧ ((q.ring.getD (q.slotWith slot off data).ringOf ringReset).outstanding < (q.ring.getD (q.slotWith slot off
    data).ringOf ringReset).depth → (8 ≤ s.pci.accepted → t.pci.front = s.pci.front ++ [⟨pad, (q.slotWith slot off
    data).ringOf, some slot, (q.slotWith slot off data).data⟩]) ∧ (s.pci.accepted < 8 → s.pci.front = [] → t.holdsJob
    s.nextJob pad (u8 (q.slotWith slot off data).data 0) (uLE (q.slotWith slot off data).data 2 2))))))))

/-- Ring registers, doorbells and descriptor fetches (R370, R377 to R379). -/
def Obligations.SubmissionRings : Prop :=
  (∀ (pad ring v : Nat) (q : Pad) (x : Ring) (s : State), s.openPad pad = some q → ring < 4 → q.ring[ring]? = some x
    → ∃ t, exec (.ringSqTailWrite pad ring v) s = .next t ∧ (∃ q' x', t.pad? pad = some q' ∧ q'.ring[ring]? = some x'
    ∧ x'.tail = v % 65536 ∧ (x.active = true → x.depth ≤ v % 65536 → x'.error = true ∧ q'.atn.getLsbD 5 = true) ∧ (¬
    (x.active = true ∧ x.depth ≤ v % 65536) → x'.error = x.error ∧ q'.atn = q.atn))) ∧
  (∀ (pad ring v : Nat) (q : Pad) (x : Ring) (n : Nat) (s : State), s.openPad pad = some q → ring < 4 → q.ring[ring]?
    = some x → s.pads = [q] → (∀ i, i < 4 → i ≠ ring → (q.ring.getD i ringReset).active = false) → x.active = true →
    x.enable = true → x.error = false → v % 65536 < x.depth → n = min (min 8 ((v % 65536 + x.depth - x.sqHead) %
    x.depth)) (min (x.depth - x.outstanding) (min (x.depth - x.sqHead) (64 - s.fetchHeld))) → n ≠ 0 → ∃ t, exec
    (.ringSqTailWrite pad ring v) s = .next t ∧ .dmaRead pad s.pci.nextTag (x.sqBase + 64 * x.sqHead) (64 * n) ∈
    t.out) ∧
  (∀ (pad ring v : Nat) (q : Pad) (x : Ring) (s : State), s.openPad pad = some q → ring < 4 → q.ring[ring]? = some x
    → x.active = true → ∃ t, exec (.ringCqHeadWrite pad ring v) s = .next t ∧ (∃ q' x', t.pad? pad = some q' ∧
    q'.ring[ring]? = some x' ∧ x'.head = v % 65536 ∧ (x.depth ≤ v % 65536 ∨ x.jobs < (v % 65536 + x.depth - x.head) %
    x.depth + s.liveJobs pad ring → x'.error = true ∧ x'.jobs = x.jobs ∧ q'.atn.getLsbD 5 = true) ∧ (¬ (x.depth ≤ v %
    65536 ∨ x.jobs < (v % 65536 + x.depth - x.head) % x.depth + s.liveJobs pad ring) → x'.error = x.error ∧ x'.jobs =
    x.jobs - (v % 65536 + x.depth - x.head) % x.depth ∧ q'.atn = q.atn))) ∧
  (∀ (pad ring : Nat) (q : Pad) (x : Ring) (s : State), s.openPad pad = some q → ring < 4 → q.ring[ring]? = some x →
    ∃ t, exec (.ringEnable pad ring) s = .next t ∧ (∃ q' x', t.pad? pad = some q' ∧ q'.ring[ring]? = some x' ∧
    (x.active = true → x'.active = true ∧ x'.code = x.code ∧ x'.tail = x.tail ∧ x'.head = x.head) ∧ (x.active = false
    → (q.rings ≤ ring ∨ x.depthLog2 < 4 ∨ 12 < x.depthLog2 ∨ q.maxDepth < x.depth) → x'.active = false ∧ x'.code =
    stRange) ∧ (x.active = false → ¬ (q.rings ≤ ring ∨ x.depthLog2 < 4 ∨ 12 < x.depthLog2 ∨ q.maxDepth < x.depth) →
    (x.sqBase % 4096 ≠ 0 ∨ x.cqBase % 4096 ≠ 0) → x'.active = false ∧ x'.code = stBadAlignment) ∧ (x.active = false →
    ¬ (q.rings ≤ ring ∨ x.depthLog2 < 4 ∨ 12 < x.depthLog2 ∨ q.maxDepth < x.depth) → ¬ (x.sqBase % 4096 ≠ 0 ∨
    x.cqBase % 4096 ≠ 0) → x'.active = true ∧ x'.code = stOk ∧ x'.tail = 0 ∧ x'.head = 0 ∧ x'.sqHead = 0 ∧
    x'.outstanding = 0))) ∧
  (∀ (pad ring : Nat) (q : Pad) (x : Ring) (s : State), s.openPad pad = some q → ring < 4 → q.ring[ring]? = some x →
    ∃ t, exec (.ringDisable pad ring) s = .next t ∧ (∃ q' x', t.pad? pad = some q' ∧ q'.ring[ring]? = some x' ∧
    x'.enable = false ∧ (x.outstanding = 0 → x'.active = false) ∧ (x.outstanding ≠ 0 → x'.active = x.active))) ∧
  (∀ (tag r n : Nat) (data : Option Bytes) (x : PciRead) (s : State), s.pci.reads.find? (fun r => r.tag == tag) =
    some x → x.what = .fetch r n → ∃ t, exec (.fetchCompletion tag data) s = .next t ∧ (∀ d, data = some d → d.length
    = 64 * n → 8 ≤ s.pci.accepted → t.pci.front = s.pci.front ++ (chunks 64 d).map (fun e => ⟨x.pad, r, none, e⟩)) ∧
    (∀ d q, data = some d → d.length = 64 → n = 1 → s.pci.accepted < 8 → s.pci.front = [] → s.pad? x.pad = some q →
    t.holdsJob s.nextJob x.pad (u8 d 0) (uLE d 2 2)) ∧ ((∀ d, data = some d → d.length ≠ 64 * n) → ∀ q y, s.pad?
    x.pad = some q → q.ring[r]? = some y → ∃ q' y', t.pad? x.pad = some q' ∧ q'.ring[r]? = some y' ∧ y'.error = true
    ∧ q'.atn.getLsbD 5 = true))

/-- From source data to completion record (R44, R45, R220, R274, R317, R381 to R383, R390). -/
def Obligations.JobFlow : Prop :=
  (∀ (id want : Nat) (data : Option Bytes) (short : Bool) (j : Job) (s : State), s.job? id = some j → j.src.whole =
    true → s.pci.reads.any (fun r => r.what == .source id) = true → want = j.srcLen + (if opCompare j.op then
    j.dstLen else 0) → short = (data.isNone || decide ((data.getD []).length < want)) → ∃ t, exec (.sourceDataArrival
    id data) s = .next t ∧ ((short = true ∨ s.headerCheck
    { j with data := (data.getD []).take want, short := false, ready := true, readyAt := s.now } = 0) → ∃ y, t.job?
    id = some y ∧ y.data = (data.getD []).take want ∧ y.short = short ∧ y.ready = true ∧ y.readyAt = s.now) ∧ (short
    = false → s.headerCheck
    { j with data := (data.getD []).take want, short := false, ready := true, readyAt := s.now } ≠ 0 → ∃ y, t.job? id
    = some y ∧ y.status = some (s.headerCheck
    { j with data := (data.getD []).take want, short := false, ready := true, readyAt := s.now }) ∧ y.completeAt =
    some (s.now + 1))) ∧
  (∀ (lane : Nat) (h : Bytes) (s : State), s.core.op.working = true → lane < 92 → s.sup.hold = false → s.laneIdle
    lane = false ∨ (s.lane lane).spent = true ∨ (s.sheetEntry s.yard.sheet lane (s.roundAt s.core.frameCt) (s.posAt
    s.core.frameCt)).1 = 6 → exec (.jobDispatch lane h) s = .next s.fresh.loadLanes) ∧
  (∀ (lane c g : Nat) (h : Bytes) (j : Job) (s : State), s.core.op.working = true → lane < 92 → s.sup.hold = false →
    s.laneIdle lane = true → (s.lane lane).spent = false → s.sheetEntry s.yard.sheet lane (s.roundAt s.core.frameCt) (s.posAt s.core.frameCt) = (c,
    g) → 1 ≤ c ∧ c ≤ 4 → g ≠ 0xFF → s.devJobs.find? (fun d => d.what == .pairCheck lane && d.lane.isNone && d.taken
    == 0) = none → (s.lane lane).quarantine = false ∧ (s.lane lane).disabled = false ∧ (s.lane lane).needTest = false
    → oldest (s.queue c (laneKind lane) (· == g)) = some j → j.src = .paddock → j.begun = false → ∃ t, exec
    (.jobDispatch lane h) s = .next t ∧ (∀ e, s.fresh.firstLoad j = .error e → t = (s.fresh.failLoad j lane e).loadLanes) ∧ (∀ u k
    load, s.fresh.firstLoad j = .ok (u, k, load) → t = (u.onLane k lane load).loadLanes)) ∧
  (∀ (id : Nat) (j : Job) (q : Pad) (x : Ring) (s : State), s.job? id = some j → s.completes j = true → j.src =
    .paddock → s.pad? j.pad = some q → q.ring[j.ring]? = some x → ∃ t, exec (.jobComplete id) s = .next t ∧ (∃ a b c,
    t.out = a ++ (if j.dstAddr = 0 ∨ j.dest.isEmpty then [] else [.dmaWrite j.pad j.dstAddr j.dest]) ++ b ++
    .dmaWrite j.pad (x.cqBase + 32 * x.cqNext) (s.record j x) :: c) ∧ (∀ k ∈ t.jobs, k.id ≠ id) ∧ (j.status ≠ some
    stFaultDetected → ∃ q', t.pad? j.pad = some q' ∧ q'.ring[j.ring]? = some
    { x with cqNext := (x.cqNext + 1) % 2 ^ x.depthLog2, written := x.written + 1 } ∧ q'.atn = (if j.quiet then q.atn
    else setBit q.atn j.ring))) ∧
  (∀ (id : Nat) (j : Job) (w : Bool) (s : State), s.job? id = some j → s.completes j = true → j.src = .window w →
    j.status ≠ some stFaultDetected → ∃ t, exec (.jobComplete id) s = .next t ∧ (t.window w).st = 3 ∧ (t.window
    w).code = j.status.getD 0 ∧ (t.window w).result = (if j.status = some stOk ∧ (s.window w).compare = false then
    fit 64 j.dest else zeros 64)) ∧
  (∀ (tag : Nat) (s : State), s.pci.quar.any (fun q => q.1 == tag) = true → ∃ t, exec (.lateCompletion tag) s = .next
    t ∧ t.pci = { s.pci with quar := s.pci.quar.filter (fun q => q.1 != tag), lateCpl := s.pci.lateCpl + 1 } ∧ t.pads
    = s.pads ∧ t.jobs = s.jobs) ∧
  (∀ (tag : Nat) (s : State), s.pci.quar.any (fun q => q.1 == tag && decide (q.2 + s.cplTimeout ≤ s.now)) = true → ∃
    t, exec (.completionTimeout tag) s = .next t ∧ t.pci =
    { s.pci with quar := s.pci.quar.filter (fun q => q.1 != tag) } ∧ t.pads = s.pads ∧ t.jobs = s.jobs) ∧
  (∀ (tag id : Nat) (x : PciRead) (j : Job) (s : State), s.pci.quar.any (fun q => q.1 == tag) = false →
    s.pci.reads.find? (fun r => r.tag == tag && decide (r.at_ + s.cplTimeout ≤ s.now)) = some x → x.what = .source id
    → s.job? id = some j → j.src.whole = true → ∃ t, exec (.completionTimeout tag) s = .next t ∧ (∃ y, t.job? id =
    some y ∧ y.short = true ∧ y.ready = true ∧ y.readyAt = s.now))

/-- Paddock and function resets (R359, R360, R385 to R390, R524, R525). -/
def Obligations.FunctionResets : Prop :=
  (∀ (pad v : Nat) (q : Pad) (s : State), s.openPad pad = some q → v % 2 = 1 → ∃ t, exec (.paddockResetWrite pad v) s
    = .next t ∧ s.resets t pad ∧ (pad = 0 → t.rdw = rdwReset)) ∧
  (∀ (n : Nat) (s : State), s.pwr.link = true → 1 ≤ n → n < 256 → s.padPresent n = true → ∃ t, exec (.vfFlr n) s =
    .next t ∧ s.resets t n ∧ (∀ f ∈ t.atn.msixEn, f ≠ n) ∧ (∀ v ∈ t.atn.pend, v / 64 ≠ n)) ∧
  (∀ (s : State), s.pwr.link = true → ∃ t, exec .pfFlr s = .next t ∧ (∀ p, p < 288 → s.resets t p) ∧ t.pci.vfEnable =
    false ∧ t.pci.numVfs = 0 ∧ t.pci.mgrCmd = zeros 64 ∧ t.pci.mgrResult = zeros 64 ∧ t.pci.mgrCode = 0 ∧ t.rdw =
    rdwReset ∧ t.core.scratch = 0) ∧
  (∀ (s : State), s.pwr.link = true → ∃ t, exec .hotReset s = .next t ∧ (∀ p, p < 288 → s.resets t p) ∧ t.pci.mgrCmd
    = zeros 64 ∧ t.pci.mgrResult = zeros 64 ∧ t.pci.mgrCode = 0 ∧ t.rdw = rdwReset ∧ t.core.scratch = 0) ∧
  (∀ (enable : Bool) (n : Nat) (s : State), s.pwr.link = true → n ≤ 255 → ¬ (s.pci.vfEnable = enable ∧ s.pci.numVfs =
    n) → ∃ t, exec (.vfEnableChange enable n) s = .next t ∧ t.pci.vfEnable = enable ∧ t.pci.numVfs = n ∧ (∀ p, 1 ≤ p
    → p ≤ 255 → ¬ (enable = true ∧ p ≤ n) → s.resets t p) ∧ (∀ p q, 1 ≤ p → p ≤ n → enable = true → s.pad? p = some q
    → q.st = .disabled → t.pad? p = some { q with st := .enabled })) ∧
  (∀ (enable : Bool) (s : State), s.pwr.link = true → s.pci.pasid ≠ enable → ∃ t, exec (.pasidEnableChange enable) s
    = .next t ∧ t.pci.pasid = enable ∧ (∀ p, 256 ≤ p → p ≤ 287 → enable = false → s.resets t p) ∧ (∀ p q, 256 ≤ p → p
    ≤ 287 → enable = true → s.pad? p = some q → q.st = .disabled → t.pad? p = some { q with st := .enabled })) ∧
  (∀ (pad r : Nat) (q : Pad) (s : State), s.pad? pad = some q → q.resetAt = some r → q.struck = true → r < s.now → r
    + 3 ≤ s.now ∨ s.yard.lanes.any (fun l => l.zero != 0) = false → ∃ t, exec (.paddockResetComplete pad) s = .next t
    ∧ (q.destroy = true → t.pad? pad = none) ∧ (q.destroy = false → ∃ q', t.pad? pad = some q' ∧ q'.st = (if
    s.padPresent pad then .enabled else .disabled) ∧ q'.resetAt = none ∧ q'.mgrWaits = [] ∧ q'.atn = setBit q.atn 6))

/-- The manager mailbox commands, accepted and refused (R361 to R368, R391 to R393). -/
def Obligations.ManagerCommands : Prop :=
  (∀ (v : Via) (cmd : Bytes) (s : State), s.managerReady v → s.logOpen → s.mgrCheck (mgrCommand 1 cmd) = 0 → ∃ t,
    exec (.paddockCreate v cmd) s = .next t ∧ t.pads = insertPad
    { configOf (padFresh (uLE (mgrCommand 1 cmd) 2 2)) (mgrCommand 1 cmd) with pasid := uLE (mgrCommand 1 cmd) 20 4 }
    s.pads ∧ s.managed t v stOk) ∧
  (∀ (v : Via) (cmd : Bytes) (s : State), s.managerReady v → s.logOpen → s.mgrCheck (mgrCommand 2 cmd) = 0 → ∃ t,
    exec (.modify v cmd) s = .next t ∧ (∀ q, s.pad? (uLE (mgrCommand 2 cmd) 2 2) = some q → t.pad? (uLE (mgrCommand 2
    cmd) 2 2) = some (configOf q (mgrCommand 2 cmd))) ∧ (∀ k, k ≠ uLE (mgrCommand 2 cmd) 2 2 → t.pad? k = s.pad? k) ∧
    s.managed t v stOk) ∧
  (∀ (v : Via) (cmd : Bytes) (s : State), s.managerReady v → s.logOpen → s.mgrCheck (mgrCommand 3 cmd) = 0 → ∃ t,
    exec (.paddockResetCommand v cmd) s = .next t ∧ s.resets t (uLE (mgrCommand 3 cmd) 2 2) ∧ (∀ q, t.pad? (uLE
    (mgrCommand 3 cmd) 2 2) = some q → s.waits v q)) ∧
  (∀ (v : Via) (cmd : Bytes) (s : State), s.managerReady v → s.logOpen → s.mgrCheck (mgrCommand 4 cmd) = 0 → ∃ t,
    exec (.destroy v cmd) s = .next t ∧ (∀ k ∈ t.tack.keys, k ∈ s.tack.keys ∧ (k.owner = uLE (mgrCommand 4 cmd) 2 2 →
    k.world.getLsbD 0 = true)) ∧ (∀ q, s.pad? (uLE (mgrCommand 4 cmd) 2 2) = some q → q.st = .enabled → s.resets t
    (uLE (mgrCommand 4 cmd) 2 2) ∧ ∀ q', t.pad? (uLE (mgrCommand 4 cmd) 2 2) = some q' → q'.destroy = true ∧ s.waits
    v q') ∧ (∀ q, s.pad? (uLE (mgrCommand 4 cmd) 2 2) = some q → q.st = .disabled → t.pads = s.pads.filter (fun x =>
    x.num != uLE (mgrCommand 4 cmd) 2 2) ∧ s.managed t v stOk)) ∧
  (∀ (v : Via) (cmd : Bytes) (s : State), s.managerReady v → s.logOpen → s.mgrCheck (mgrCommand 5 cmd) = 0 → ∃ t,
    exec (.query v cmd) s = .next t ∧ s.managed t v stOk ∧ (v = .mailbox → t.pci.mgrResult = s.mgrResult (uLE
    (mgrCommand 5 cmd) 2 2) stOk) ∧ (∀ q, s.pad? (uLE (mgrCommand 5 cmd) 2 2) = some q → t.pad? (uLE (mgrCommand 5
    cmd) 2 2) = some { q with sinceQuery := 0 })) ∧
  (∀ (v : Via) (cmd : Bytes) (s : State), s.managerReady v → s.logOpen → s.mgrCheck (mgrCommand 6 cmd) = 0 → ∃ t,
    exec (.logStart v cmd) s = .next t ∧ s.managed t v stOk ∧ (∀ q, s.pad? (uLE (mgrCommand 6 cmd) 2 2) = some q →
    t.pad? (uLE (mgrCommand 6 cmd) 2 2) = some
    { q with log := some { base := uLE (mgrCommand 6 cmd) 24 8, first := uLE (mgrCommand 6 cmd) 32 8, pages := uLE (mgrCommand 6 cmd) 40 4, bits := [] } })) ∧
  (∀ (v : Via) (cmd : Bytes) (s : State), s.managerReady v → s.logOpen → s.mgrCheck (mgrCommand 7 cmd) = 0 → ∃ t,
    exec (.logStop v cmd) s = .next t ∧ s.managed t v stOk ∧ (∀ q, s.pad? (uLE (mgrCommand 7 cmd) 2 2) = some q →
    t.pad? (uLE (mgrCommand 7 cmd) 2 2) = some { q with log := none })) ∧
  (∀ (v : Via) (cmd : Bytes) (s : State), s.managerReady v → s.logOpen → s.mgrCheck (mgrCommand 8 cmd) = 0 → ∃ t,
    exec (.logDrain v cmd) s = .next t ∧ s.managed t v stOk ∧ (∀ q l, s.pad? (uLE (mgrCommand 8 cmd) 2 2) = some q →
    q.log = some l → ∃ q', t.pad? (uLE (mgrCommand 8 cmd) 2 2) = some q' ∧ q'.log = some (if uLE (mgrCommand 8 cmd)
    24 8 = 0 then l else { l with base := uLE (mgrCommand 8 cmd) 24 8, bits := [] }))) ∧
  (∀ (code : Nat) (v : Via) (cmd : Bytes) (s : State), 1 ≤ code → code ≤ 8 → s.managerReady v → s.logOpen →
    s.mgrCheck (mgrCommand code cmd) ≠ 0 →
    ∃ t, exec (managerRow code v cmd) s = .next t ∧ t.pads = s.pads ∧ t.tack = s.tack ∧
      s.managed t v (s.mgrCheck (mgrCommand code cmd)))

/-- The Register Digest Windows (R270 to R275). -/
def Obligations.DigestWindows : Prop :=
  (∀ (w : Bool) (ctrl : Nat) (s : State), s.windowOpen w = true → ((s.window w).opened ctrl).refusal ≠ 0 → ∃ t, exec
    (.rdwStart w ctrl) s = .next t ∧ t.window w =
    { (((s.window w).opened ctrl)) with st := 0, code := ((s.window w).opened ctrl).refusal } ∧ t.window (!w) =
    s.window (!w)) ∧
  (∀ (w : Bool) (ctrl : Nat) (s : State), s.windowOpen w = true → ((s.window w).opened ctrl).refusal = 0 → 1 ≤
    (s.window w).length → (s.window w).length ≤ 448 ∨ s.core.op = .booting → ∃ t, exec (.rdwStart w ctrl) s = .next t
    ∧ t.window w = (s.window w).opened ctrl ∧ t.window (!w) = s.window (!w)) ∧
  (∀ (w : Bool) (ctrl : Nat) (s : State), s.windowOpen w = true → ((s.window w).opened ctrl).refusal = 0 → 448 <
    (s.window w).length → s.core.op ≠ .booting → ∃ t, exec (.rdwStart w ctrl) s = .next t ∧ (∃ j, t.window w =
    { (((s.window w).opened ctrl)) with job := some j.id } ∧ j ∈ t.jobs ∧ j.src = .window w) ∧ t.window (!w) =
    s.window (!w)) ∧
  (∀ (w : Bool) (ctrl : Nat) (s : State), s.windowOpen w = true → ((s.window w).opened ctrl).refusal = 0 → (s.window
    w).length = 0 → s.core.op ≠ .booting → ∃ t, exec (.rdwStart w ctrl) s = .next t ∧ t.windowRuns w (((s.window
    w).opened ctrl)) ∧ t.window (!w) = s.window (!w)) ∧
  (∀ (w : Bool) (ctrl : Nat) (s : State), s.windowOpen w = true → ((s.window w).opened ctrl).refusal = 0 → (s.window
    w).length = 0 → s.core.op = .booting → (((s.window w).opened ctrl)).keyed = false → (((s.window w).opened
    ctrl)).compare = false → ∃ t, exec (.rdwStart w ctrl) s = .next t ∧ t.window w =
    { (((s.window w).opened ctrl)) with st := 3, code := stOk, result := fit 64 ((hashOfCode ((s.window w).opened ctrl).alg).run []) }
    ∧ t.window (!w) = s.window (!w)) ∧
  (∀ (w : Bool) (ctrl : Nat) (s : State), s.windowOpen w = true → ∃ t, exec (.rdwAbort w ctrl) s = .next t ∧ t.window
    w =
    { (s.window w) with alg := ctrl % 4, keyed := bitN ctrl 2, compare := bitN ctrl 3, st := if (s.window w).st = 3 then 3 else 0, half := none, msg := [], words := 0, free := 4096, job := none }
    ∧ t.window (!w) = s.window (!w)) ∧
  (∀ (w : Bool) (b : Bytes) (s : State), s.windowOpen w = true → (s.window w).st ≠ 0 → b.length < 8 → ∃ t, exec
    (.rdwDataWrite w false b) s = .next t ∧ t.window w = { (s.window w) with half := some (fit 4 b) } ∧ t.window (!w)
    = s.window (!w)) ∧
  (∀ (w high : Bool) (b v : Bytes) (s : State), s.windowOpen w = true → (s.window w).completes high b v → (s.window
    w).st = 1 → (s.window w).words < (s.window w).plain → 8 ≤ (s.window w).free → ∃ t, exec (.rdwDataWrite w high b)
    s = .next t ∧ t.window w =
    { (s.window w) with half := if b.length < 8 then none else (s.window w).half, msg := (s.window w).msg ++ v, words := (s.window w).words + 1, free := if s.core.op = .booting then (s.window w).free else (s.window w).free - 8 }
    ∧ t.window (!w) = s.window (!w)) ∧
  (∀ (w high : Bool) (b v : Bytes) (s : State), s.windowOpen w = true → (s.window w).completes high b v → (s.window
    w).st ≠ 0 → ¬ ((s.window w).st = 1 ∧ (s.window w).words < (s.window w).plain ∧ 8 ≤ (s.window w).free) → ∃ t, exec
    (.rdwDataWrite w high b) s = .next t ∧ t.window w =
    { (s.window w) with half := if b.length < 8 then none else (s.window w).half }.failed stLengthMismatch ∧ t.window
    (!w) = s.window (!w)) ∧
  (∀ (w high : Bool) (b v : Bytes) (s : State), s.windowOpen w = true → (s.window w).completes high b v → (s.window
    w).st = 1 → 8 ≤ (s.window w).free → 1 ≤ (s.window w).lastCount → 8 * (s.window w).words + (s.window w).lastCount
    = (s.window w).length → s.core.op ≠ .booting → (s.window w).job = none → ∃ t, exec (.rdwLastwordWrite w high b) s
    = .next t ∧ t.windowRuns w
    { (s.window w) with half := if b.length < 8 then none else (s.window w).half, msg := (s.window w).msg ++ v.take (s.window w).lastCount }
    ∧ t.window (!w) = s.window (!w)) ∧
  (∀ (w high : Bool) (b v : Bytes) (s : State), s.windowOpen w = true → (s.window w).completes high b v → (s.window
    w).st = 1 → 8 ≤ (s.window w).free → 1 ≤ (s.window w).lastCount → 8 * (s.window w).words + (s.window w).lastCount
    = (s.window w).length → s.core.op = .booting → (s.window w).keyed = false → (s.window w).compare = false → ∃ t,
    exec (.rdwLastwordWrite w high b) s = .next t ∧ (t.window w).st = 3 ∧ (t.window w).code = stOk ∧ (t.window
    w).result = fit 64 ((hashOfCode (s.window w).alg).run ((s.window w).msg ++ v.take (s.window w).lastCount)) ∧
    t.window (!w) = s.window (!w)) ∧
  (∀ (w high : Bool) (b v : Bytes) (s : State), s.windowOpen w = true → (s.window w).completes high b v → (s.window
    w).st ≠ 0 → (s.window w).st ≠ 1 ∨ (s.window w).free < 8 ∨ ((s.window w).lastCount ≠ 0 ∧ 8 * (s.window w).words +
    (s.window w).lastCount ≠ (s.window w).length) → ∃ t, exec (.rdwLastwordWrite w high b) s = .next t ∧ t.window w =
    { (s.window w) with half := if b.length < 8 then none else (s.window w).half }.failed stLengthMismatch ∧ t.window
    (!w) = s.window (!w)) ∧
  (∀ (w high : Bool) (b v : Bytes) (s : State), s.windowOpen w = true → (s.window w).completes high b v → (s.window
    w).st = 1 → 8 ≤ (s.window w).free → (s.window w).lastCount = 0 → ∃ t, exec (.rdwLastwordWrite w high b) s = .next
    t ∧ t.window w = { (s.window w) with half := if b.length < 8 then none else (s.window w).half }.failed
    stBadLength ∧ t.window (!w) = s.window (!w)) ∧
  (∀ (w : Bool) (n : Nat) (s : State), s.windowOpen w = true → ∃ t, exec (.rdwLastcountWrite w n) s = .next t ∧ (1 ≤
    n % 16 → n % 16 ≤ 8 → t.window w = { (s.window w) with lastCount := n % 16 }) ∧ (n % 16 = 0 ∨ 8 < n % 16 →
    t.window w = { (s.window w) with code := stBadLength }) ∧ t.window (!w) = s.window (!w)) ∧
  (∀ (w : Bool) (n : Nat) (s : State), s.windowOpen w = true → ∃ t, exec (.rdwResultRead w n) s = .next t ∧
    ((s.window w).st = 3 → t.out = [.read (uLE (s.window w).result (4 * n) 4)] ∧ t.window w = s.window w) ∧
    ((s.window w).st ≠ 3 → t.out = [.read 0] ∧ t.window w =
    { (s.window w) with early := true, code := stResultNotReady }) ∧ t.window (!w) = s.window (!w))

/-- FRAME_CT reads, attention registers, MSI-X and the writing of Logbook entries (R32, R444 to R446, R508 to R513,
R517, R520). -/
def Obligations.AttentionCommands : Prop :=
  (∀ (s : State), s.pwr.link = true → ∃ t, exec .frameCtLoRead s = .next t ∧ t.out = [.read (s.core.frameCt % 2 ^
    32)] ∧ t.core = { s.core with frameHi := BitVec.ofNat 32 (s.core.frameCt / 2 ^ 32) }) ∧
  (∀ (g v : Nat) (s : State), s.pwr.link = true → g < 24 → ∃ t, exec (.atnCauseClear g v) s = .next t ∧ (∀ k b,
    ((t.atn.cause.getD k 0).getLsbD b = if k = g ∧ (BitVec.ofNat 16 v).getLsbD b = true ∧ (s.atn.fresh.getD k
    0).getLsbD b = false then false else (s.atn.cause.getD k 0).getLsbD b)) ∧ t.atn.enable = s.atn.enable ∧ t.log =
    s.log) ∧
  (∀ (g v : Nat) (s : State), s.pwr.link = true → g < 24 → ∃ t, exec (.atnEnableWrite g v) s = .next t ∧ t.atn.enable
    = s.atn.enable ∧ t.atn.pfEn = s.atn.pfEn ++ [(g, BitVec.ofNat 16 v)] ∧ t.dict = s.dict ∧ (∃ d, t.log.due =
    s.log.due ++ [d] ∧ d.eff = .none ∧ d.desc.iface = 11)) ∧
  (∀ (s : State), s.pwr.link = true → ∃ t, exec .atnRearm s = .next t ∧ t.atn = { s.atn with rearm := true } ∧ t.out
    = []) ∧
  (∀ (fn vec : Nat) (s : State), s.pwr.link = true → fn < 256 → vec ≤ (if fn = 0 then 33 else 0) → ∃ t, exec
    (.vectorUnmask fn vec) s = .next t ∧ (t.atn.msixEn.contains fn = true) ∧ (t.out = if s.atn.pend.contains (64 * fn
    + vec) then [.msix fn vec] else []) ∧ (∀ k, k ∈ t.atn.pend ↔ k ∈ s.atn.pend ∧ k ≠ 64 * fn + vec) ∧ t.atn.cause =
    s.atn.cause) ∧
  (∀ (d : LogDue) (s : State), s.logBlocked = false → s.log.written < 4 → s.log.unlogged = 0 → s.logState ≠ 2 →
    s.log.room ≠ 0 → s.log.due = [d] → d.eff = .none → d.desc.mon = none → (∀ n, (s.port n).refSealed = 0) → ∃ t,
    exec .logEntryWrite s = .next t ∧ t.log.due = [] ∧ t.log.head = s.log.head + 1 ∧ t.log.entries = (s.log.entries
    ++ [s.log.entryBytes d.desc]).drop (s.log.entries.length + 1 - ringSize))

/-- Register writes over PCIe (R270, R275, R364, R372, R424, R507, R518, R521, R522; log 79). -/
def Obligations.RegisterWrites : Prop :=
  (∀ (d : Bytes) (s : State), s.pwr.link = true → d.length = 4 → ∃ t, exec (.registerWrite 0 (0x14) d) s = .next t ∧
    t.core = { s.core with scratch := BitVec.ofNat 32 (ofLE d) }) ∧
  (∀ (d : Bytes) (s : State), s.pwr.link = true → d.length = 4 → ∃ t, exec (.registerWrite 0 (0x10004) d) s = .next t
    ∧ t.atn = { s.atn with irqEn := bitN (ofLE d) 0, rearm := s.atn.rearm || bitN (ofLE d) 1 }) ∧
  (∀ (o : Nat)(d : Bytes) (s : State), s.pwr.link = true → d.length = 4 → o < 0x40 → o % 4 = 0 → ∃ t, exec
    (.registerWrite 0 (0x30000 + o) d) s = .next t ∧ t.pci = { s.pci with mgrCmd := putWord s.pci.mgrCmd o d } ∧
    t.pads = s.pads) ∧
  (∀ (o : Nat)(d : Bytes) (s : State), s.pwr.link = true → d.length = 4 → o < 0x2000 → o % 4 = 0 → ∃ t, exec
    (.registerWrite 0 (0x40000 + o) d) s = .next t ∧ t.dmb = { s.dmb with req := putWord s.dmb.req o d }) ∧
  (∀ (d : Bytes) (s : State), s.pwr.link = true → d.length = 4 → ∃ t, exec (.registerWrite 0 (0x44000) d) s = .next t
    ∧ t.dmb = { s.dmb with len := ofLE d % 2 ^ 14 }) ∧
  (∀ (d : Bytes) (s : State), s.pwr.link = true → d.length = 4 → bitN (ofLE d) 0 = true → s.dmb.busy = false → ∃ t,
    exec (.registerWrite 0 (0x44004) d) s = .next t ∧ t.dmb =
    { s.dmb with valid := false, busy := (u8 s.dmb.req 0 == 5 || u8 s.dmb.req 0 == 6 || u8 s.dmb.req 0 == 0x7E) && 1 ≤ s.dmb.len && s.dmb.len ≤ 8192 }) ∧
  (∀ (w : Bool) (d : Bytes) (s : State), s.windowOpen w = true → d.length = 4 → ∃ t, exec (.registerWrite (if w then
    256 else 0) ((if w then 0 else 0x20000) + 0x04) d) s = .next t ∧ t.window w = { (s.window w) with key := ofLE d }
    ∧ t.window (!w) = s.window (!w)) ∧
  (∀ (w : Bool) (d : Bytes) (s : State), s.windowOpen w = true → d.length = 4 → ∃ t, exec (.registerWrite (if w then
    256 else 0) ((if w then 0 else 0x20000) + 0x08) d) s = .next t ∧ t.window w =
    { (s.window w) with length := putHalf false (s.window w).length (ofLE d) } ∧ t.window (!w) = s.window (!w)) ∧
  (∀ (w : Bool) (d : Bytes) (s : State), s.windowOpen w = true → d.length = 4 → ∃ t, exec (.registerWrite (if w then
    256 else 0) ((if w then 0 else 0x20000) + 0x0C) d) s = .next t ∧ t.window w =
    { (s.window w) with length := putHalf true (s.window w).length (ofLE d % 2) } ∧ t.window (!w) = s.window (!w)) ∧
  (∀ (w : Bool) (d : Bytes) (s : State), s.windowOpen w = true → d.length = 4 → ∃ t, exec (.registerWrite (if w then
    256 else 0) ((if w then 0 else 0x20000) + 0x24) d) s = .next t ∧ t.window w =
    { (s.window w) with early := (s.window w).early && !bitN (ofLE d) 2 } ∧ t.window (!w) = s.window (!w)) ∧
  (∀ (w : Bool) (d : Bytes) (s : State), s.windowOpen w = true → d.length = 4 → ∃ t, exec (.registerWrite (if w then
    256 else 0) ((if w then 0 else 0x20000) + 0x2C) d) s = .next t ∧ t.window w =
    { (s.window w) with expLen := ofLE d % 128 } ∧ t.window (!w) = s.window (!w)) ∧
  (∀ (p : Nat) (q : Pad) (d : Bytes) (s : State), s.openPad p = some q → p < 288 → (1 ≤ p → p < 256 → s.padPresent p
    = true) → d.length = 4 → ∃ t, exec (.registerWrite (if 1 ≤ p ∧ p < 256 then p else 0) ((if p = 0 then 0x100000
    else if p < 256 then 0 else 0x200000 + 65536 * (p - 256)) + 0x200C) d) s = .next t ∧ t.pad? p = some
    { q with atn := clearBits q.atn (clearBits (BitVec.ofNat 7 (ofLE d)) q.atnNew) }) ∧
  (∀ (p : Nat) (q : Pad) (d : Bytes) (s : State), s.openPad p = some q → p < 288 → (1 ≤ p → p < 256 → s.padPresent p
    = true) → d.length = 4 → ∃ t, exec (.registerWrite (if 1 ≤ p ∧ p < 256 then p else 0) ((if p = 0 then 0x100000
    else if p < 256 then 0 else 0x200000 + 65536 * (p - 256)) + 0x2010) d) s = .next t ∧ t.pad? p = some
    { q with atnEn := BitVec.ofNat 7 (ofLE d) })

/-- The Cucen Link: link loss, rekeying, forwarded jobs, replicas and joining members (R396 to R413; log 7). -/
def Obligations.CascadeLink : Prop :=
  (∀ (s : State), s.cas.role = .orphan → ∃ t, exec .promotionNotice s = .next t ∧ t.core =
    { s.core with fullReset := some (s.core.fullReset.getD .cascade) } ∧ (∃ d, t.log.due = s.log.due ++ [d])) ∧
  (∀ (s : State), s.cas.cl0 = true → s.cas.role = .member → ∃ t, exec (.linkDown 0) s = .next t ∧ t.cas =
    { s.cas with cl0 := false, orphanDue := true }) ∧
  (∀ (s : State), s.cas.cl1 = true → s.cas.role = .master → ∃ t, exec (.linkDown 1) s = .next t ∧ t.cas.cl1 = false ∧
    (∀ d ∈ s.members, ∃ x ∈ t.cas.suspect, x.1 = d) ∧ (∀ x ∈ s.cas.suspect, x ∈ t.cas.suspect)) ∧
  (∀ (d : Nat) (s : State), s.cas.role = .master → d ∈ s.members → ∃ t, exec (.linkDown (8 + d)) s = .next t ∧ (∃ x ∈
    t.cas.suspect, x.1 = d) ∧ t.cas.cl1 = s.cas.cl1) ∧
  (∀ (d : Nat) (s : State), s.cas.role = .master → d ∈ s.members → (∃ x ∈ s.cas.suspect, x.1 = d ∧ x.2 + 64 ≤ s.now)
    ∨ (∃ a ∈ s.cas.acksWaited, a.2.1 + 64 ≤ s.now ∧ d ∈ a.2.2) → (∀ k ∈ s.jobs, k.src.whole = true) → ∃ t, exec
    (.memberLost d) s = .next t ∧ t.cas.present = clearBits s.cas.present (BitVec.ofNat 8 (2 ^ d)) ∧ t.cas.lost =
    setBit s.cas.lost d ∧ (∀ x ∈ t.cas.suspect, x.1 ≠ d) ∧ (∀ id j, s.job? id = some j → j.forwarded = some d →
    j.settled = false → ∃ y, t.job? id = some y ∧ y.status = some stPeerLost ∧ y.completeAt = some (s.now + 1))) ∧
  (∀ (p : Nat) (sec tr : Bytes) (s : State), s.rekeyDue p → ∃ t, exec (.linkRekey ⟨p, true⟩ sec tr) s = .next t ∧ t.cas =
    { s.cas with links := s.cas.links.filter (fun l => l.peer != p) ++ [⟨p, linkKeysOf sec tr, 0, s.now⟩] }) ∧
  (∀ (p : Nat) (sec tr : Bytes) (s : State), s.rekeyDue p → s.cas.role = .member → ∃ t, exec (.linkRekey ⟨p, false⟩ sec tr) s
    = .next t ∧ t.cas = { s.cas with cl0 := false, orphanDue := true }) ∧
  (∀ (p : Nat) (sec tr : Bytes) (s : State), s.rekeyDue p → s.cas.role ≠ .member → ∃ t, exec (.linkRekey ⟨p, false⟩ sec tr) s
    = .next t ∧ t.cas = { s.cas with cl1 := false, suspect := s.members.map (fun d => (d, s.now)) }) ∧
  (∀ (desc data : Bytes) (master mask : Nat) (s : State), s.cas.role = .member → s.cas.orphanDue = false →
    s.core.op.powered = true → ∃ t, exec (.forwardedJob desc data master mask) s = .next t ∧ (∃ j, t.jobs = s.jobs ++
    [j] ∧ j.src = .peer master mask ∧ j.op = u8 desc 0 ∧ j.data = data ∧ j.group = s.valU (mkKey 0x9000 0x08)) ∧
    t.cas.forwarded = s.cas.forwarded + 1) ∧
  (∀ (id status lane : Nat) (result dest : Bytes) (j : Job) (d : Nat) (s : State), s.cas.role = .master → s.job? id =
    some j → j.forwarded = some d → j.settled = false → d ∈ s.members → (∀ x ∈ s.cas.suspect, x.1 = d → s.now < x.2 +
    64) → ∃ t, exec (.forwardedResult id status lane result dest) s = .next t ∧ t.job? id = some
    { j with status := some status, settled := true, completeAt := some (s.now + 1), lastLane := 0x8000 + 4096 * d + lane % 4096, result := if status = stOk then result.take 16 else [], dest := if status = stOk then dest else [], resLen := if status ≠ stOk then 0 else if dest.isEmpty then result.length else dest.length }
    ∧ t.cas.credits = updAt s.cas.credits d (· + 1)) ∧
  (∀ (k : Key) (master p : Nat) (s : State), s.cas.role = .member → s.replica (master % 32768) = none →
    s.tack.replicaPlace (keyRun k.typ) = some p → ∃ t, exec (.keyReplication k master) s = .next t ∧ t.tack.keys =
    s.tack.keys.filter (fun x => x.slot != p) ++
    [{ k with slot := p, gen := s.tack.gen p, run := keyRun k.typ, st := .active, depth := 1, persistent := false, world := BitVec.ofNat 5 16, parent := none, useCount := 0, useLimit := 0, mark := 0, origin := some master, drainEnd := none }]
    ∧ t.out = [.link 8 8 (leN 4 master)]) ∧
  (∀ (master what : Nat) (sec : Bytes) (s : State), s.cas.role = .member → ∃ t, exec (.replicaChange master what sec) s =
    .next t ∧ t.cas = { s.cas.count 8 with arrived := s.cas.arrived ++ [(master, what, sec)] } ∧ t.tack = s.tack) ∧
  (∀ (master : Nat) (sec : Bytes) (k : Key) (s : State), s.tack.keys.find? (fun x => x.origin == some master) = some k →
    (k.st ≠ .revoked → s.tack.worn k = false → ∃ g, (s.changeReplica master 0 sec).tack.keys = s.tack.keys.filter (fun x
      => x.slot != k.slot) ++ [{ k with st := .revoked, secret := [], gen := g, drainEnd := none }]) ∧
    (s.changeReplica master 1 sec).tack.keys = s.tack.keys.filter (fun x => x.slot != k.slot) ∧
    (∃ g, (s.changeReplica master 2 sec).tack.keys = s.tack.keys.filter (fun x => x.slot != k.slot) ++
      [{ k with st := .active, secret := sec, gen := g, useCount := 0, mark := 0, origin := some (master % 2 ^ 27 / 32768 * 32768 + 32768 + master % 32768) }]) ∧
    (s.changeReplica master 3 sec).tack.keys = s.tack.keys.filter (fun x => x.slot != k.slot) ++
      [{ k with st := .draining, drainEnd := none }]) ∧
  (∀ (id : Nat) (s : State), s.cas.role = .member → ∃ t, exec (.forwardCancellation id) s = .next t ∧ t.cas =
    { s.cas.count 8 with cancels := s.cas.cancels ++ [id] } ∧ t.jobs = s.jobs) ∧
  (∀ (j : JoinInput) (s : State), s.cas.role = .master → s.core.op.powered = true → s.core.op ≠ .alarmHalt → j.member
    < 8 → j.member ≠ s.pwr.cascadeId.toNat → j.actingBelow = false ∨ s.pwr.cascadeId ≠ 0 → s.c0Pk = true → s.classOn
    .lattice 0 = true → s.peerFits (s.val (mkKey 0x9000 0x04)) j.member j.peer = true → j.sigOk = true → ∃
    t, exec (.memberJoin j) s = .next t ∧ t.cas.present = setBit s.cas.present j.member ∧ t.cas.lost = clearBits
    s.cas.lost (BitVec.ofNat 8 (2 ^ j.member)) ∧ t.cas.cl1 = true ∧ (∃ l ∈ t.cas.links, l.peer = j.member ∧ l.keys = linkKeysOf j.secret j.transcript)
    ∧ t.cas.credits = updAt s.cas.credits j.member (fun _ => 1024) ∧ .link j.member 7 (leN 8 s.adoptionFrame) ∈
    t.out) ∧
  (∀ (member master : Nat) (s : State), s.cas.role = .master → member ∈ s.members → ∃ t, exec (.replicationAck member
    master) s = .next t ∧ t.cas.acksWaited = (s.cas.acksWaited.map (fun a => if a.1 = master % 32768 then (a.1,
    a.2.1, a.2.2.filter (· != member)) else a)).filter (fun a => !a.2.2.isEmpty) ∧ (∀ x ∈ t.cas.suspect, x.1 ≠
    member))
end

