-- ==== Sys2Proof/Laws/Memory.lean ====
section
/-! SUPPORT. The canonical form of the Shed, which every write keeps. -/

namespace Sys2Proof.Machine

open Sys2Proof

/-- The canonical form, said by pairs. -/
theorem Memory.wf_iff (m : List Host.Cell) :
    Memory.wf m = true ↔ m.Pairwise (fun c d => c.1 < d.1) ∧ ∀ c ∈ m, c.2 ≠ 0 := by
  induction m with
  | nil => simp [Memory.wf]
  | cons c r ih =>
    cases r with
    | nil => simp [Memory.wf]
    | cons d r =>
      rw [Memory.wf, Bool.and_eq_true, Bool.and_eq_true, ih, decide_eq_true_eq, bne_iff_ne,
        List.pairwise_cons (a := c), List.forall_mem_cons (a := c)]
      constructor
      · rintro ⟨⟨h0, h1⟩, h2, h3⟩
        refine ⟨⟨fun x hx => ?_, h2⟩, h0, h3⟩
        rcases List.mem_cons.mp hx with rfl | hx
        · exact h1
        · exact Nat.lt_trans h1 ((List.pairwise_cons.mp h2).1 x hx)
      · rintro ⟨⟨h1, h2⟩, h0, h3⟩
        exact ⟨⟨h0, h1 d List.mem_cons_self⟩, h2, h3⟩

theorem memCells_bounds (a : Nat) (b : Bytes) : ∀ c ∈ memCells a b, a ≤ c.1 ∧ c.1 < a + b.length := by
  induction b generalizing a with
  | nil => simp [memCells]
  | cons x r ih =>
    intro c hc
    unfold memCells at hc
    split at hc
    · have := ih _ c hc; simp only [List.length_cons]; omega
    · rcases List.mem_cons.mp hc with rfl | hc
      · simp
      · have := ih _ c hc; simp only [List.length_cons]; omega

theorem memCells_wf (a : Nat) (b : Bytes) : Memory.wf (memCells a b) = true := by
  rw [Memory.wf_iff]
  induction b generalizing a with
  | nil => simp [memCells]
  | cons x r ih =>
    unfold memCells
    split
    · exact ih _
    · next h =>
      refine ⟨List.pairwise_cons.mpr ⟨fun c hc => ?_, (ih _).1⟩, ?_⟩
      · have := memCells_bounds _ _ c hc; simp only; omega
      · exact List.forall_mem_cons.mpr ⟨h, (ih _).2⟩

/-- A write keeps the canonical form. -/
theorem memWrite_wf (m : List Host.Cell) (a : Nat) (b : Bytes) (h : Memory.wf m = true) :
    Memory.wf (memWrite m a b) = true := by
  obtain ⟨h1, h2⟩ := (Memory.wf_iff _).mp h
  obtain ⟨k1, k2⟩ := (Memory.wf_iff _).mp (memCells_wf a b)
  have kb := memCells_bounds a b
  refine (Memory.wf_iff _).mpr ⟨?_, ?_⟩
  · unfold memWrite
    rw [List.pairwise_append, List.pairwise_append]
    refine ⟨⟨h1.filter _, k1, fun c hc d hd => ?_⟩, h1.filter _, fun c hc d hd => ?_⟩
    · have := (List.mem_filter.mp hc).2
      have := kb d hd
      simp at *; omega
    · have hd := (List.mem_filter.mp hd).2
      rcases List.mem_append.mp hc with hc | hc
      · have := (List.mem_filter.mp hc).2
        simp at *; omega
      · have := kb c hc
        simp at *; omega
  · intro c hc
    simp only [memWrite, List.mem_append, List.mem_filter] at hc
    rcases hc with (hc | hc) | hc
    · exact h2 c hc.1
    · exact k2 c hc
    · exact h2 c hc.1

end Sys2Proof.Machine
end

