-- ==== Sys2Proof/Laws/KeepsBase.lean ====
section
/-! SUPPORT. What each modifier keeps of waiting commands, fuses, counters and shape. -/

namespace Sys2Proof.Machine

open Sys2Proof

@[simp] theorem updAt_length {α : Type} (l : List α) (i : Nat) (f : α → α) : (updAt l i f).length = l.length := by
  simp [updAt]

theorem Fuse.under_refl (f : Fuse) : f.under f := by simp [Fuse.under]

theorem and_and_left {n : Nat} {a b c : BitVec n} (h : a &&& b = a) (k : b &&& c = b) : a &&& c = a := by
  rw [← h, BitVec.and_assoc, k]

theorem Fuse.under_trans {f g h : Fuse} (a : f.under g) (b : g.under h) : f.under h := by
  obtain ⟨a1, a2, a3, a4, a5, a6, a7, a8, a9, a10⟩ := a
  obtain ⟨b1, b2, b3, b4, b5, b6, b7, b8, b9, b10⟩ := b
  exact ⟨and_and_left a1 b1, and_and_left a2 b2, and_and_left a3 b3, and_and_left a4 b4, fun k => b5 (a5 k),
    b6.trans a6, b7.trans a7, b8.trans a8, b9.trans a9, b10.trans a10⟩

theorem monoUnder_refl (l : List Nat) : monoUnder l l := fun _ => Nat.le_refl _

theorem State.keeps_refl (s : State) : s.keeps s := ⟨rfl, Fuse.under_refl _, fun h => ⟨h, monoUnder_refl _⟩⟩

theorem State.keeps_trans {r s t : State} (a : r.keeps s) (b : s.keeps t) : r.keeps t :=
  ⟨b.1.trans a.1, Fuse.under_trans a.2.1 b.2.1, fun h =>
    ⟨(b.2.2 (a.2.2 h).1).1, fun i => Nat.le_trans ((a.2.2 h).2 i) ((b.2.2 (a.2.2 h).1).2 i)⟩⟩

/-- A fold keeps what each of its steps keeps. -/
theorem foldl_keeps {α : Type} {r : State} (l : List α) (f : State → α → State) (s : State)
    (h : ∀ s x, r.keeps s → r.keeps (f s x)) (hs : r.keeps s) : r.keeps (l.foldl f s) := by
  induction l generalizing s with
  | nil => exact hs
  | cons x l ih => exact ih _ (h _ _ hs)

theorem ite_keeps {r : State} {c : Prop} [Decidable c] {a b : State} (ha : r.keeps a) (hb : r.keeps b) :
    r.keeps (if c then a else b) := by
  by_cases h : c <;> simp only [h, if_true, if_false] <;> assumption

theorem ite_keeps_fst {r : State} {α : Type} {c : Prop} [Decidable c] {a b : State × α} (ha : r.keeps a.1) (hb :
    r.keeps b.1) :
    r.keeps (if c then a else b).1 := by
  by_cases h : c <;> simp only [h, if_true, if_false] <;> assumption

theorem ite_keeps_snd {r : State} {α : Type} {c : Prop} [Decidable c] {a b : α × State} (ha : r.keeps a.2) (hb :
    r.keeps b.2) :
    r.keeps (if c then a else b).2 := by
  by_cases h : c <;> simp only [h, if_true, if_false] <;> assumption

/-- A change that leaves alone everything `keeps` speaks of. -/
theorem keeps_of_same {r s t : State} (hs : r.keeps s) (h1 : t.pending = s.pending) (h2 : t.fuse = s.fuse)
    (h3 : s.shaped → t.sizes = s.sizes) (h4 : t.shed = s.shed) (h5 : t.tack.mono = s.tack.mono) : r.keeps t := by
  refine ⟨h1.trans hs.1, h2 ▸ hs.2.1, fun hr => ?_⟩
  obtain ⟨⟨a, b, c⟩, d⟩ := hs.2.2 hr
  exact ⟨⟨(h3 ⟨a, b, c⟩).trans a, h4 ▸ b, h5 ▸ c⟩, h5 ▸ d⟩

theorem State.modCore_keeps {r s : State} (f : Core → Core) (hs : r.keeps s) :
    r.keeps (s.modCore f) := hs

theorem State.modPwr_keeps {r s : State} (f : Pwr → Pwr) (hs : r.keeps s) :
    r.keeps (s.modPwr f) := hs

theorem State.modSup_keeps {r s : State} (f : Sup → Sup) (hs : r.keeps s) :
    r.keeps (s.modSup f) := hs

theorem State.modFuse_keeps {r s : State} (f : Fuse → Fuse) (h : s.fuse.under (f s.fuse)) (hs : r.keeps s) :
    r.keeps (s.modFuse f) := ⟨hs.1, Fuse.under_trans hs.2.1 h, hs.2.2⟩

theorem State.modBoot_keeps {r s : State} (f : Boot → Boot) (hs : r.keeps s) :
    r.keeps (s.modBoot f) := hs

theorem State.modHal_keeps {r s : State} (f : Hal → Hal) (hs : r.keeps s) :
    r.keeps (s.modHal f) := hs

theorem State.modPorts_keeps {r s : State} (f : List Port → List Port) (h : (f s.ports).length = s.ports.length) (hs :
    r.keeps s) :
    r.keeps (s.modPorts f) := keeps_of_same hs rfl rfl (fun _ => by simp [State.sizes, State.modPorts, h]) rfl rfl

theorem State.modShed_keeps {r s : State} (f : List Host.Cell → List Host.Cell) (h : Memory.wf s.shed = true →
    Memory.wf (f s.shed) = true) (hs : r.keeps s) :
    r.keeps (s.modShed f) := ⟨hs.1, hs.2.1, fun hr => ⟨⟨(hs.2.2 hr).1.1, h (hs.2.2 hr).1.2.1, (hs.2.2 hr).1.2.2⟩,
        (hs.2.2 hr).2⟩⟩

theorem State.modShedLost_keeps {r s : State} (f : Bool → Bool) (hs : r.keeps s) :
    r.keeps (s.modShedLost f) := hs

theorem State.modPldm_keeps {r s : State} (f : Pldm → Pldm) (hs : r.keeps s) :
    r.keeps (s.modPldm f) := hs

theorem State.modPar_keeps {r s : State} (f : Par → Par) (h : (f s.par).table.length = s.par.table.length) (hs :
    r.keeps s) :
    r.keeps (s.modPar f) := keeps_of_same hs rfl rfl (fun _ => by simp [State.sizes, State.modPar, h]) rfl rfl

theorem State.modTack_keeps {r s : State} (f : Tack → Tack) (h : (f s.tack).mono = s.tack.mono) (hs : r.keeps s) :
    r.keeps (s.modTack f) := keeps_of_same hs rfl rfl (fun _ => by simp [State.sizes, State.modTack, h]) rfl h

theorem State.modYard_keeps {r s : State} (f : Yard → Yard) (h : (f s.yard).lanes.length = s.yard.lanes.length) (hs :
    r.keeps s) :
    r.keeps (s.modYard f) := keeps_of_same hs rfl rfl (fun _ => by simp [State.sizes, State.modYard, h]) rfl rfl

theorem State.modJobs_keeps {r s : State} (f : List Job → List Job) (hs : r.keeps s) :
    r.keeps (s.modJobs f) := hs

theorem State.modDevJobs_keeps {r s : State} (f : List DevJob → List DevJob) (hs : r.keeps s) :
    r.keeps (s.modDevJobs f) := hs

theorem State.modNextJob_keeps {r s : State} (f : Nat → Nat) (hs : r.keeps s) :
    r.keeps (s.modNextJob f) := hs

theorem State.modPads_keeps {r s : State} (f : List Pad → List Pad) (hs : r.keeps s) :
    r.keeps (s.modPads f) := hs

theorem State.modPmem_keeps {r s : State} (f : Pmem → Pmem) (hs : r.keeps s) :
    r.keeps (s.modPmem f) := hs

theorem State.modPci_keeps {r s : State} (f : Pci → Pci) (hs : r.keeps s) :
    r.keeps (s.modPci f) := hs

theorem State.modRdw_keeps {r s : State} (f : Rdw → Rdw) (hs : r.keeps s) :
    r.keeps (s.modRdw f) := hs

theorem State.modRdwSc_keeps {r s : State} (f : Rdw → Rdw) (hs : r.keeps s) :
    r.keeps (s.modRdwSc f) := hs

theorem State.modDmb_keeps {r s : State} (f : Dmb → Dmb) (hs : r.keeps s) :
    r.keeps (s.modDmb f) := hs

theorem State.modCas_keeps {r s : State} (f : Cas → Cas) (hs : r.keeps s) :
    r.keeps (s.modCas f) := hs

theorem State.modDict_keeps {r s : State} (f : Dict → Dict) (hs : r.keeps s) :
    r.keeps (s.modDict f) := hs

theorem State.modLog_keeps {r s : State} (f : Log → Log) (hs : r.keeps s) :
    r.keeps (s.modLog f) := hs

theorem State.modLc_keeps {r s : State} (f : Lc → Lc) (hs : r.keeps s) :
    r.keeps (s.modLc f) := hs

theorem State.modMon_keeps {r s : State} (f : Mon → Mon) (h : s.mon.temps.length = 8 → s.mon.cls.length = 24 → (f
    s.mon).cls.length = s.mon.cls.length ∧ (f s.mon).temps.length = s.mon.temps.length) (hs : r.keeps s) :
    r.keeps (s.modMon f) := keeps_of_same hs rfl rfl (fun k => by have := k.1; simp [State.sizes] at this; simp
        [State.sizes, State.modMon, h this.2.2.2.2.2.2.2.2 this.2.2.2.2.2.2.2.1]) rfl rfl

theorem State.modAtn_keeps {r s : State} (f : Atn → Atn) (h : s.atn.cause.length = 24 → (f s.atn).cause.length =
    s.atn.cause.length ∧ (f s.atn).enable.length = s.atn.enable.length ∧ (f s.atn).fresh.length = s.atn.fresh.length)
        (hs : r.keeps s) :
    r.keeps (s.modAtn f) := keeps_of_same hs rfl rfl (fun k => by have := k.1; simp [State.sizes] at this; simp
        [State.sizes, State.modAtn, h this.2.2.1]) rfl rfl

theorem State.modOut_keeps {r s : State} (f : List Out → List Out) (hs : r.keeps s) :
    r.keeps (s.modOut f) := hs

theorem State.modTagTable_keeps {r s : State} (f : List (Nat × Bytes) → List (Nat × Bytes)) (hs : r.keeps s) :
    r.keeps (s.modTagTable f) := hs

@[simp] theorem Tack.bump_mono (t : Tack) (n : Nat) : (t.bump n).mono = t.mono := by unfold Tack.bump; split <;> rfl
@[simp] theorem Tack.bumpRun_mono (t : Tack) (slot run : Nat) : (t.bumpRun slot run).mono = t.mono := by
  unfold Tack.bumpRun
  generalize List.range run = l
  induction l generalizing t with
  | nil => rfl
  | cons x l ih => rw [List.foldl_cons, ih, Tack.bump_mono]
theorem foldl_mono {α : Type} (l : List α) (f : Tack → α → Tack) (t : Tack) (h : ∀ t x, (f t x).mono = t.mono) :
    (l.foldl f t).mono = t.mono := by
  induction l generalizing t with
  | nil => rfl
  | cons x l ih => rw [List.foldl_cons, ih, h]
@[simp] theorem Tack.atStart_mono (t : Tack) : t.atStart.mono = t.mono :=
  foldl_mono _ _ _ (fun t k => by split; rfl; exact Tack.bumpRun_mono _ _ _)
@[simp] theorem bumps_mono (l : List Key) (t : Tack) :
    (l.foldl (fun t k => if k.persistent then t else t.bumpRun k.slot k.run) t).mono = t.mono :=
  foldl_mono _ _ _ (fun t k => by split; rfl; exact Tack.bumpRun_mono _ _ _)
theorem State.clearVolatile_keeps {r : State} (s : State) (hs : r.keeps s) : r.keeps s.clearVolatile := by
  refine ⟨hs.1, hs.2.1, fun hr => ?_⟩
  obtain ⟨⟨a, b, c⟩, d⟩ := hs.2.2 hr
  simp [State.sizes] at a
  refine ⟨⟨?_, rfl, ?_⟩, ?_⟩
  · simp [State.sizes, State.clearVolatile, a, yardReset, atnReset, parReset, Mon.atStart]
  · simpa [State.clearVolatile] using c
  · simpa [State.clearVolatile] using d

theorem absorb {n : Nat} (a b : BitVec n) : a &&& (a ||| b) = a := by
  ext i hi
  simp only [BitVec.getElem_and, BitVec.getElem_or]
  cases a[i] <;> rfl
@[simp] theorem Tack.put_mono (t : Tack) (k : Key) : (t.put k).mono = t.mono := rfl
@[simp] theorem Tack.remove_mono (t : Tack) (n : Nat) : (t.remove n).mono = t.mono := rfl
@[simp] theorem Tack.strike_mono (t : Tack) (n k : Nat) : (t.strike n k).mono = t.mono := rfl

end Sys2Proof.Machine
end

