-- ==== Sys2Proof/Laws/KeepsCore.lean ====
section
/-! SUPPORT. What the operations of Dict, Ops, LogWrite, Reset, Start, Power keep. -/

set_option maxRecDepth 20000

namespace Sys2Proof.Machine

open Sys2Proof

theorem State.setVal_keeps {σ : State} (s : State) (key : Nat) (v : Bytes) (hs : σ.keeps s) : σ.keeps (State.setVal s
    key v) := by
  unfold State.setVal
  repeat' first
    | with_reducible first
        | assumption | apply State.modDict_keeps | apply State.modDict_keeps | refine ite_keeps ?_ ?_
    | (intro _ _ _) | (intro _ _) | split | (simp; done) | (dsimp only)

theorem State.emit_keeps {σ : State} (s : State) (o : Out) (hs : σ.keeps s) :
    σ.keeps (State.emit s o) := by
  unfold State.emit
  repeat' with_reducible first
      | assumption | apply State.modOut_keeps

theorem State.linkSend_keeps {σ : State} (s : State) (d code : Nat) (p : Bytes) (hs : σ.keeps s) :
    σ.keeps (State.linkSend s d code p) := by
  unfold State.linkSend
  repeat' with_reducible first
      | assumption | apply State.emit_keeps | apply State.modCas_keeps

theorem State.latch_keeps {σ : State} (s : State) (g k : Nat) (hs : σ.keeps s) :
    σ.keeps (State.latch s g k) := by
  unfold State.latch
  repeat' first
    | with_reducible first
        | assumption | apply State.modAtn_keeps
    | (simp; done)

theorem State.clearLeaves_keeps {σ : State} (s : State) (g : Nat) (m : BitVec 16) (hs : σ.keeps s) :
    σ.keeps (State.clearLeaves s g m) := by
  unfold State.clearLeaves
  repeat' first
    | with_reducible first
        | assumption | apply State.modAtn_keeps
    | (simp; done)

theorem State.modPort_keeps {σ : State} (s : State) (n : Nat) (f : Port → Port) (hs : σ.keeps s) :
    σ.keeps (State.modPort s n f) := by
  unfold State.modPort
  repeat' first
    | with_reducible first
        | assumption | apply State.modPorts_keeps
    | (simp; done)

theorem State.modPad_keeps {σ : State} (s : State) (n : Nat) (f : Pad → Pad) (hs : σ.keeps s) : σ.keeps (State.modPad s
    n f) := by
  unfold State.modPad
  repeat' first
    | with_reducible first
        | assumption | apply State.modPads_keeps | apply State.modPads_keeps | refine ite_keeps ?_ ?_
    | (intro _ _ _) | (intro _ _) | split | (simp; done) | (dsimp only)

theorem State.modLane_keeps {σ : State} (s : State) (n : Nat) (f : Lane → Lane) (hs : σ.keeps s) :
    σ.keeps (State.modLane s n f) := by
  unfold State.modLane
  repeat' first
    | with_reducible first
        | assumption | apply State.modYard_keeps
    | (simp; done)

theorem State.modJob_keeps {σ : State} (s : State) (id : Nat) (f : Job → Job) (hs : σ.keeps s) : σ.keeps (State.modJob s
    id f) := by
  unfold State.modJob
  repeat' first
    | with_reducible first
        | assumption | apply State.modJobs_keeps | apply State.modJobs_keeps | refine ite_keeps ?_ ?_
    | (intro _ _ _) | (intro _ _) | split | (simp; done) | (dsimp only)

theorem State.dropJob_keeps {σ : State} (s : State) (id : Nat) (hs : σ.keeps s) :
    σ.keeps (State.dropJob s id) := by
  unfold State.dropJob
  repeat' with_reducible first
      | assumption | apply State.modJobs_keeps

theorem State.draw_keeps {σ : State} (s : State) (len : Nat) (hs : σ.keeps s) :
    σ.keeps ((State.draw s len).2) := by
  unfold State.draw
  repeat' first
    | with_reducible first
        | assumption | apply State.modTack_keeps
    | (simp; done)

theorem State.logDueAdd_keeps {σ : State} (s : State) (d : LogDesc) (e : Effect) (hs : σ.keeps s) :
    σ.keeps (State.logDueAdd s d e) := by
  unfold State.logDueAdd
  repeat' with_reducible first
      | assumption | apply State.modLog_keeps

theorem State.logEv_keeps {σ : State} (s : State) (d : LogDesc) (hs : σ.keeps s) :
    σ.keeps (State.logEv s d) := by
  unfold State.logEv
  repeat' with_reducible first
      | assumption | apply State.logDueAdd_keeps

theorem State.ev_keeps {σ : State} (s : State) (subsystem family : Nat) (e : Config.Ev) (facts : List Nat) (hs :
    σ.keeps s) :
    σ.keeps (State.ev s subsystem family e facts) := by
  unfold State.ev
  repeat' with_reducible first
      | assumption | apply State.logEv_keeps

theorem State.setOp_keeps {σ : State} (s : State) (o : Op) (hs : σ.keeps s) :
    σ.keeps (State.setOp s o) := by
  unfold State.setOp
  repeat' with_reducible first
      | assumption | apply State.modCore_keeps | apply State.latch_keeps | apply State.ev_keeps
      | refine ite_keeps ?_ ?_

theorem State.beginPortHold_keeps {σ : State} (s : State) (n : Nat) (hs : σ.keeps s) :
    σ.keeps (State.beginPortHold s n) := by
  unfold State.beginPortHold
  repeat' with_reducible first
      | assumption | apply State.modHal_keeps | apply State.latch_keeps | apply State.ev_keeps
      | refine ite_keeps ?_ ?_

theorem State.endPortHold_keeps {σ : State} (s : State) (n : Nat) (hs : σ.keeps s) :
    σ.keeps (State.endPortHold s n) := by
  unfold State.endPortHold
  repeat' with_reducible first
      | assumption | apply State.modHal_keeps | apply State.latch_keeps | apply State.ev_keeps
      | refine ite_keeps ?_ ?_

theorem State.beginAlarmHold_keeps {σ : State} (s : State) (hs : σ.keeps s) :
    σ.keeps (State.beginAlarmHold s) := by
  unfold State.beginAlarmHold
  repeat' first
    | with_reducible first
        | assumption | apply State.modMon_keeps | apply State.modHal_keeps | apply State.latch_keeps
        | apply State.ev_keeps | refine ite_keeps ?_ ?_
    | (simp; done)

theorem State.endAlarmHold_keeps {σ : State} (s : State) (hs : σ.keeps s) :
    σ.keeps (State.endAlarmHold s) := by
  unfold State.endAlarmHold
  repeat' first
    | with_reducible first
        | assumption | apply State.modHal_keeps | apply State.modMon_keeps | apply State.latch_keeps
        | apply State.ev_keeps | refine ite_keeps ?_ ?_
    | (simp; done)

theorem State.passOn_keeps {σ : State} (s : State) (port member : Nat) (hs : σ.keeps s) : σ.keeps (State.passOn s port
    member) := by
  unfold State.passOn
  repeat' first
    | with_reducible first
        | assumption | apply State.emit_keeps | refine ite_keeps ?_ ?_
    | split | (simp; done) | (dsimp only)

theorem State.inBand_keeps {σ : State} (s : State) (bus : Nat) (hs : σ.keeps s) :
    σ.keeps (State.inBand s bus) := by
  unfold State.inBand
  repeat' with_reducible first
      | assumption | apply State.emit_keeps | refine ite_keeps ?_ ?_

theorem State.mctpSend_keeps {σ : State} (s : State) (bus addr dst tag : Nat) (static : Bool) (p : Bytes) (hs : σ.keeps
    s) : σ.keeps (State.mctpSend s bus addr dst tag static p) := by
  unfold State.mctpSend
  repeat' first
    | with_reducible first
        | assumption | apply State.emit_keeps | refine ite_keeps ?_ ?_
    | split | (simp; done) | (dsimp only)

theorem State.mctpAnswer_keeps {σ : State} (s : State) (bus dst : Nat) (p : Bytes) (hs : σ.keeps s) : σ.keeps
    (State.mctpAnswer s bus dst p) := by
  unfold State.mctpAnswer
  repeat' first
    | with_reducible first
        | assumption | apply State.mctpSend_keeps | apply State.inBand_keeps | refine ite_keeps ?_ ?_
    | split | (simp; done) | (dsimp only)

theorem State.lateMctp_keeps {σ : State} (s : State) (hs : σ.keeps s) :
    σ.keeps (State.lateMctp s) := by
  unfold State.lateMctp
  repeat' first
    | with_reducible first
        | assumption | apply State.modPar_keeps | apply State.latch_keeps
    | (simp; done)

theorem State.addDev_keeps {σ : State} (s : State) (w : DevWhat) (hs : σ.keeps s) :
    σ.keeps (State.addDev s w) := by
  unfold State.addDev
  repeat' with_reducible first
      | assumption | apply State.modDevJobs_keeps | apply State.modNextJob_keeps

theorem State.modDev_keeps {σ : State} (s : State) (id : Nat) (f : DevJob → DevJob) (hs : σ.keeps s) : σ.keeps
    (State.modDev s id f) := by
  unfold State.modDev
  repeat' first
    | with_reducible first
        | assumption | apply State.modDevJobs_keeps | apply State.modDevJobs_keeps | refine ite_keeps ?_ ?_
    | (intro _ _ _) | (intro _ _) | split | (simp; done) | (dsimp only)

theorem State.dropWhat_keeps {σ : State} (s : State) (p : DevWhat → Bool) (hs : σ.keeps s) : σ.keeps (State.dropWhat s
    p) := by
  unfold State.dropWhat
  repeat' first
    | with_reducible first
        | assumption | apply State.modYard_keeps | apply State.modDevJobs_keeps | apply State.modYard_keeps
        | apply State.modDevJobs_keeps | refine ite_keeps ?_ ?_
    | (intro _ _ _) | split | (simp; done) | (dsimp only)

theorem State.dropDev_keeps {σ : State} (s : State) (w : DevWhat) (hs : σ.keeps s) :
    σ.keeps (State.dropDev s w) := by
  unfold State.dropDev
  repeat' with_reducible first
      | assumption | apply State.modDevJobs_keeps

theorem State.fresh_keeps {σ : State} (s : State) (hs : σ.keeps s) :
    σ.keeps (State.fresh s) := by
  unfold State.fresh
  repeat' with_reducible first
      | assumption | apply State.modOut_keeps

theorem State.refusedSummaries_keeps {σ : State} (s : State) (hs : σ.keeps s) :
    σ.keeps (State.refusedSummaries s) := by
  unfold State.refusedSummaries
  repeat' first
    | with_reducible first
        | assumption | apply State.ev_keeps | apply State.modPort_keeps | refine foldl_keeps _ _ _ ?_ ?_
        | refine ite_keeps ?_ ?_
    | (intro _ _ _)

theorem State.logLatches_keeps {σ : State} (s : State) (hs : σ.keeps s) :
    σ.keeps (State.logLatches s) := by
  unfold State.logLatches
  repeat' with_reducible first
      | assumption | apply State.latch_keeps | apply State.modLog_keeps | apply State.refusedSummaries_keeps
      | refine ite_keeps ?_ ?_

theorem State.ringPut_keeps {σ : State} (s : State) (mk : Log → Bytes) (hs : σ.keeps s) :
    σ.keeps (State.ringPut s mk) := by
  unfold State.ringPut
  repeat' with_reducible first
      | assumption | apply State.modLog_keeps | apply State.logLatches_keeps | apply State.latch_keeps
      | apply State.logEv_keeps | refine ite_keeps ?_ ?_

theorem State.summarise_keeps {σ : State} (s : State) (hs : σ.keeps s) :
    σ.keeps (State.summarise s) := by
  unfold State.summarise
  repeat' with_reducible first
      | assumption | apply State.ringPut_keeps | apply State.modLog_keeps | apply State.latch_keeps
      | refine ite_keeps ?_ ?_

theorem State.writeEvent_keeps {σ : State} (s : State) (d : LogDesc) (hs : σ.keeps s) :
    σ.keeps (State.writeEvent s d) := by
  unfold State.writeEvent
  repeat' first
    | with_reducible first
        | assumption | apply State.summarise_keeps | apply State.modLog_keeps | apply State.ringPut_keeps
        | apply State.modMon_keeps | refine ite_keeps ?_ ?_
    | split
    | (simp; done)

theorem State.writeCheckpoint_keeps {σ : State} (s : State) (body : Bytes) (hs : σ.keeps s) :
    σ.keeps (State.writeCheckpoint s body) := by
  unfold State.writeCheckpoint
  repeat' with_reducible first
      | assumption | apply State.draw_keeps | apply State.ringPut_keeps | apply State.modLog_keeps

theorem State.toOff_keeps {σ : State} (s : State) (hs : σ.keeps s) :
    σ.keeps (State.toOff s) := by
  unfold State.toOff
  repeat' with_reducible first
      | assumption | apply State.modPmem_keeps | apply State.clearVolatile_keeps | apply State.modCore_keeps
      | apply State.modPwr_keeps

theorem State.beginStart_keeps {σ : State} (s : State) (cause : ResetCause) (hs : σ.keeps s) :
    σ.keeps (State.beginStart s cause) := by
  unfold State.beginStart
  repeat' with_reducible first
      | assumption | apply State.modPmem_keeps | apply State.clearVolatile_keeps | apply State.modCore_keeps
      | apply State.modPwr_keeps | apply State.ev_keeps | refine ite_keeps ?_ ?_

theorem State.sampleStraps_keeps {σ : State} (s : State) (st : Straps) (hs : σ.keeps s) :
    σ.keeps (State.sampleStraps s st) := by
  unfold State.sampleStraps
  repeat' with_reducible first
      | assumption | apply State.modPwr_keeps

theorem State.sampleBoot_keeps {σ : State} (s : State) (st : Straps) (hs : σ.keeps s) :
    σ.keeps (State.sampleBoot s st) := by
  unfold State.sampleBoot
  repeat' with_reducible first
      | assumption | apply State.modPwr_keeps

theorem State.fullResetDue_keeps {σ : State} (s : State) (c : ResetCause) (hs : σ.keeps s) :
    σ.keeps (State.fullResetDue s c) := by
  unfold State.fullResetDue
  repeat' with_reducible first
      | assumption | apply State.modCore_keeps

theorem State.wipeBackupKeys_keeps {σ : State} (s : State) (hs : σ.keeps s) :
    σ.keeps (State.wipeBackupKeys s) := by
  unfold State.wipeBackupKeys
  repeat' first
    | with_reducible first
        | assumption | apply State.modTack_keeps
    | (simp; done)

theorem State.wipeStores_keeps {σ : State} (s : State) (hs : σ.keeps s) :
    σ.keeps (State.wipeStores s) := by
  unfold State.wipeStores
  repeat' first
    | with_reducible first
        | assumption | apply State.modTack_keeps | apply State.modDict_keeps
    | (simp; done)

theorem State.lcStep_keeps {σ : State} (s : State) (target : Nat) (rec : Bytes) (k : Nat) (hs : σ.keeps s) :
    σ.keeps (State.lcStep s target rec k) := by
  unfold State.lcStep
  repeat' first
    | with_reducible first
        | assumption | apply State.modFuse_keeps | apply State.wipeBackupKeys_keeps | apply State.modLc_keeps
        | apply State.wipeStores_keeps | refine ite_keeps ?_ ?_
    | (simp +contextual [Fuse.under, blowGroup, absorb]; done)

theorem State.putMark_keeps {σ : State} (s : State) (m : Option LcMark) (hs : σ.keeps s) :
    σ.keeps (State.putMark s m) := by
  unfold State.putMark
  repeat' with_reducible first
      | assumption | apply State.modLc_keeps

theorem State.lcSteps_keeps {σ : State} (s : State) (m : LcMark) (from_ : Nat) (hs : σ.keeps s) :
    σ.keeps (State.lcSteps s m from_) := by
  unfold State.lcSteps
  repeat' first
    | with_reducible first
        | assumption | apply State.lcStep_keeps | apply State.putMark_keeps | refine foldl_keeps _ _ _ ?_ ?_
        | refine ite_keeps ?_ ?_
    | (intro _ _ _)

theorem State.lcMarkRun_keeps {σ : State} (s : State) (hs : σ.keeps s) :
    σ.keeps (State.lcMarkRun s) := by
  unfold State.lcMarkRun
  repeat' first
    | with_reducible first
        | assumption | apply State.putMark_keeps | apply State.ev_keeps | apply State.lcSteps_keeps
    | split

theorem State.lcEveryStart_keeps {σ : State} (s : State) (hs : σ.keeps s) :
    σ.keeps (State.lcEveryStart s) := by
  unfold State.lcEveryStart
  repeat' first
    | with_reducible first
        | assumption | apply State.modFuse_keeps | apply State.modTack_keeps | apply State.modDict_keeps
        | refine ite_keeps ?_ ?_
    | (simp +contextual [Fuse.under, blowGroup, absorb]; done)

theorem State.bootFlashRead_keeps {σ : State} (s : State) (addr len : Nat) (hs : σ.keeps s) : σ.keeps
    (State.bootFlashRead s addr len) := by
  unfold State.bootFlashRead
  repeat' first
    | with_reducible first
        | assumption | apply State.emit_keeps
    | split | (simp; done) | (dsimp only)

theorem State.loadSlot_keeps {σ : State} (s : State) (x : Slot) (r : BootRead) (hs : σ.keeps s) : σ.keeps
    (State.loadSlot s x r) := by
  unfold State.loadSlot
  repeat' first
    | with_reducible first
        | assumption | apply State.bootFlashRead_keeps | apply State.modPwr_keeps | apply State.modPwr_keeps
        | refine ite_keeps ?_ ?_
    | (intro _ _ _) | split | (simp; done) | (dsimp only)

theorem State.putLedger_keeps {σ : State} (s : State) (f : DevLedger → DevLedger) (hs : σ.keeps s) : σ.keeps
    (State.putLedger s f) := by
  unfold State.putLedger
  repeat' first
    | with_reducible first
        | assumption | apply State.modBoot_keeps | apply State.ev_keeps | apply State.modBoot_keeps
        | refine ite_keeps ?_ ?_
    | (intro _ _ _) | (intro _ _) | split | (simp; done) | (dsimp only)

theorem State.bootRecord_keeps {σ : State} (s : State) (slotB : Bool) (reason svn : Nat) (hs : σ.keeps s) :
    σ.keeps (State.bootRecord s slotB reason svn) := by
  unfold State.bootRecord
  repeat' with_reducible first
      | assumption | apply State.modBoot_keeps

theorem State.bootFail_keeps {σ : State} (s : State) (slotB : Bool) (reason svn : Nat) (hs : σ.keeps s) : σ.keeps
    (State.bootFail s slotB reason svn) := by
  unfold State.bootFail
  repeat' first
    | with_reducible first
        | assumption | apply State.bootRecord_keeps | apply State.modBoot_keeps | apply State.modBoot_keeps
    | (intro _ _ _) | (simp; done) | (dsimp only)

theorem State.romStop_keeps {σ : State} (s : State) (reason : Nat) (hs : σ.keeps s) : σ.keeps (State.romStop s reason)
    := by
  unfold State.romStop
  repeat' first
    | with_reducible first
        | assumption | apply State.modBoot_keeps | apply State.modBoot_keeps | refine ite_keeps ?_ ?_
    | (intro _ _ _) | (intro _ _) | split | (simp; done) | (dsimp only)

theorem State.slotBad_keeps {σ : State} (s : State) (x : Slot) (forced : Bool) (hs : σ.keeps s) :
    σ.keeps (State.slotBad s x forced) := by
  unfold State.slotBad
  repeat' with_reducible first
      | assumption | apply State.putLedger_keeps | refine ite_keeps ?_ ?_

theorem State.trySlot_keeps {σ : State} (s : State) (x : Slot) (forced : Bool) (r1 r2 : BootRead) (hs : σ.keeps s) :
    σ.keeps ((State.trySlot s x forced r1 r2).1) := by
  unfold State.trySlot
  repeat' first
    | with_reducible first
        | assumption | apply State.loadSlot_keeps | apply State.bootFail_keeps | apply State.slotBad_keeps
        | refine ite_keeps ?_ ?_ | refine ite_keeps_fst ?_ ?_
    | (intro _ _ _) | split | (simp; done) | (dsimp only)

theorem State.trialItem_keeps {σ : State} (s : State) (hs : σ.keeps s) : σ.keeps ((State.trialItem s).1) := by
  unfold State.trialItem
  repeat' first
    | with_reducible first
        | assumption | apply State.putLedger_keeps | apply State.bootFail_keeps | refine ite_keeps ?_ ?_
        | refine ite_keeps_fst ?_ ?_
    | (intro _ _ _) | split | (simp; done) | (dsimp only)

theorem State.activeItem_keeps {σ : State} (s : State) (r : RomInput) (hs : σ.keeps s) :
    σ.keeps ((State.activeItem s r).1) := by
  unfold State.activeItem
  repeat' first
    | with_reducible first
        | assumption | apply State.trySlot_keeps | apply State.putLedger_keeps
    | split
    | (dsimp only)

theorem State.chooseSlot_keeps {σ : State} (s : State) (r : RomInput) (hs : σ.keeps s) :
    σ.keeps ((State.chooseSlot s r).1) := by
  unfold State.chooseSlot
  repeat' first
    | with_reducible first
        | assumption | apply State.trySlot_keeps | apply State.trialItem_keeps | apply State.activeItem_keeps
    | split
    | (dsimp only)

theorem State.blowFloor_keeps {σ : State} (s : State) (c : Chosen) (svn : Nat) (hs : σ.keeps s) :
    σ.keeps (State.blowFloor s c svn) := by
  unfold State.blowFloor
  repeat' first
    | with_reducible first
        | assumption | apply State.modFuse_keeps
    | split
    | (simp +contextual [Fuse.under, blowGroup, absorb]; done)

theorem State.romJump_keeps {σ : State} (s : State) (slot : Slot) (path : Nat) (trial fallback : Bool) (svn : Nat)
    (digest : Bytes) (release keyIndex : Nat) (retain : Bool) (hs : σ.keeps s) : σ.keeps (State.romJump s slot path
    trial fallback svn digest release keyIndex retain) := by
  unfold State.romJump
  repeat' first
    | with_reducible first
        | assumption | apply State.modBoot_keeps | apply State.modBoot_keeps | refine ite_keeps ?_ ?_
    | (intro _ _ _) | split | (simp; done) | (dsimp only)

theorem State.sameSlot_keeps {σ : State} (s : State) (x : Slot) (r : RomInput) (hs : σ.keeps s) : σ.keeps
    ((State.sameSlot s x r).1) := by
  unfold State.sameSlot
  repeat' first
    | with_reducible first
        | assumption | apply State.chooseSlot_keeps | apply State.activeItem_keeps | apply State.trySlot_keeps
        | refine ite_keeps ?_ ?_ | refine ite_keeps_fst ?_ ?_ | refine ite_keeps_snd ?_ ?_
    | (intro _ _ _) | split | (simp; done) | (dsimp only)

theorem State.fullBoot_keeps {σ : State} (s : State) (same : Option Slot) (r : RomInput) (hs : σ.keeps s) : σ.keeps
    (State.fullBoot s same r) := by
  unfold State.fullBoot
  repeat' first
    | with_reducible first
        | assumption | apply State.romStop_keeps | apply State.sameSlot_keeps | apply State.chooseSlot_keeps
        | apply State.bootFail_keeps | apply State.blowFloor_keeps | apply State.romJump_keeps
        | refine ite_keeps ?_ ?_ | refine ite_keeps_fst ?_ ?_ | refine ite_keeps_snd ?_ ?_
    | split | (simp; done) | (dsimp only)

theorem State.readBackup_keeps {σ : State} (s : State) (hs : σ.keeps s) : σ.keeps (State.readBackup s) := by
  unfold State.readBackup
  repeat' first
    | with_reducible first
        | assumption | apply State.modTack_keeps | apply State.modMon_keeps | apply State.modTack_keeps
        | apply State.modMon_keeps
    | (intro _ _ _) | split | (simp; done) | (dsimp only)

theorem State.readInfo_keeps {σ : State} (s : State) (r : RomInput) (hs : σ.keeps s) :
    σ.keeps (State.readInfo s r) := by
  unfold State.readInfo
  repeat' with_reducible first
      | assumption | apply State.modBoot_keeps

theorem State.romAfterLc_keeps {σ : State} (s : State) (r : RomInput) (hs : σ.keeps s) : σ.keeps (State.romAfterLc s r)
    := by
  unfold State.romAfterLc
  repeat' first
    | with_reducible first
        | assumption | apply State.bootFail_keeps | apply State.romStop_keeps | apply State.readBackup_keeps
        | apply State.readInfo_keeps | apply State.modTack_keeps | apply State.romJump_keeps
        | apply State.fullBoot_keeps | apply State.modTack_keeps | refine ite_keeps ?_ ?_
    | (intro _ _ _) | split | (simp; done) | (dsimp only)

theorem State.romRun_keeps {σ : State} (s : State) (r : RomInput) (hs : σ.keeps s) : σ.keeps (State.romRun s r) := by
  unfold State.romRun
  repeat' first
    | with_reducible first
        | assumption | apply State.bootFail_keeps | apply State.romStop_keeps | apply State.lcMarkRun_keeps
        | apply State.lcEveryStart_keeps | apply State.romAfterLc_keeps | refine ite_keeps ?_ ?_
    | (intro _ _ _) | split | (simp; done) | (dsimp only)

theorem State.sampleStart_keeps {σ : State} (s : State) (r : RomInput) (hs : σ.keeps s) : σ.keeps (State.sampleStart s
    r) := by
  unfold State.sampleStart
  repeat' first
    | with_reducible first
        | assumption | apply State.modPwr_keeps | apply State.modPwr_keeps | refine ite_keeps ?_ ?_
    | (intro _ _ _) | split | (simp; done) | (dsimp only)

theorem State.loseBackup_keeps {σ : State} (s : State) (hs : σ.keeps s) : σ.keeps (State.loseBackup s) := by
  unfold State.loseBackup
  repeat' first
    | with_reducible first
        | assumption | apply State.modTack_keeps | apply State.modMon_keeps | apply State.modLog_keeps
        | apply State.modTack_keeps | apply State.modMon_keeps | apply State.modLog_keeps
    | (intro _ _ _) | split | (simp; done) | (dsimp only)

theorem State.wakeNow_keeps {σ : State} (s : State) (w : WakeSource) (hs : σ.keeps s) : σ.keeps (State.wakeNow s w) :=
    by
  unfold State.wakeNow
  repeat' first
    | with_reducible first
        | assumption | apply State.modCore_keeps | apply State.beginStart_keeps | apply State.modPwr_keeps
        | apply State.modCas_keeps | apply State.modCore_keeps | apply State.modPwr_keeps | apply State.modCas_keeps
    | (intro _ _ _) | (simp; done) | (dsimp only)

theorem State.wakeEvent_keeps {σ : State} (s : State) (w : WakeSource) (hs : σ.keeps s) :
    σ.keeps (State.wakeEvent s w) := by
  unfold State.wakeEvent
  repeat' with_reducible first
      | assumption | apply State.wakeNow_keeps | apply State.modPwr_keeps | refine ite_keeps ?_ ?_

theorem State.latchMonitor_keeps {σ : State} (s : State) (n : Nat) (hs : σ.keeps s) :
    σ.keeps (State.latchMonitor s n) := by
  unfold State.latchMonitor
  repeat' with_reducible first
      | assumption | apply State.latch_keeps | refine ite_keeps ?_ ?_

theorem State.zeroize_keeps {σ : State} (s : State) (hs : σ.keeps s) :
    σ.keeps (State.zeroize s) := by
  unfold State.zeroize
  repeat' first
    | with_reducible first
        | assumption | apply State.modTack_keeps | apply State.modPorts_keeps | apply State.modShed_keeps
        | apply State.modTagTable_keeps | apply State.modShedLost_keeps | apply State.modDevJobs_keeps
        | apply State.modLog_keeps | apply State.modYard_keeps | apply State.modJobs_keeps
        | apply State.modPads_keeps
    | (simp; done)
    | (exact fun _ => rfl)

theorem State.monLatch_keeps {σ : State} (s : State) (n : Nat) (hs : σ.keeps s) :
    σ.keeps (State.monLatch s n) := by
  unfold State.monLatch
  repeat' first
    | with_reducible first
        | assumption | apply State.modMon_keeps | apply State.latchMonitor_keeps | apply State.logEv_keeps
        | apply State.zeroize_keeps | refine ite_keeps ?_ ?_
    | (simp; done)

theorem State.monDetect_keeps {σ : State} (s : State) (n : Nat) (hs : σ.keeps s) :
    σ.keeps (State.monDetect s n) := by
  unfold State.monDetect
  repeat' first
    | with_reducible first
        | assumption | apply State.modMon_keeps | apply State.monLatch_keeps | refine ite_keeps ?_ ?_
    | (simp; done)

theorem State.beginHold_keeps {σ : State} (s : State) (hs : σ.keeps s) :
    σ.keeps (State.beginHold s) := by
  unfold State.beginHold
  repeat' with_reducible first
      | assumption | apply State.modSup_keeps | apply State.latch_keeps | apply State.monDetect_keeps
      | refine ite_keeps ?_ ?_

theorem State.holdEntry_keeps {σ : State} (s : State) (first : Bool) (hs : σ.keeps s) :
    σ.keeps (State.holdEntry s first) := by
  unfold State.holdEntry
  repeat' with_reducible first
      | assumption | apply State.modLog_keeps | apply State.logEv_keeps | apply State.modSup_keeps
      | refine ite_keeps ?_ ?_

theorem State.endHold_keeps {σ : State} (s : State) (len : Nat) (hs : σ.keeps s) :
    σ.keeps (State.endHold s len) := by
  unfold State.endHold
  repeat' with_reducible first
      | assumption | apply State.modSup_keeps | apply State.latch_keeps | apply State.holdEntry_keeps
      | refine ite_keeps ?_ ?_

theorem State.fixHold_keeps {σ : State} (s : State) (calm : Bool) (hs : σ.keeps s) :
    σ.keeps (State.fixHold s calm) := by
  unfold State.fixHold
  repeat' with_reducible first
      | assumption | apply State.modSup_keeps | apply State.endHold_keeps | apply State.monDetect_keeps
      | apply State.beginHold_keeps | refine ite_keeps ?_ ?_

end Sys2Proof.Machine
end

