-- ==== Sys2Proof/Laws/KeepsStile.lean ====
section
/-! SUPPORT. What the operations of Manifest, Ports, Stile, Halter, Verify, Pldm keep. -/

set_option maxRecDepth 20000

namespace Sys2Proof.Machine

open Sys2Proof

theorem State.place_mono {s : State} {run : Nat} {b : Bool} {p : Nat × Tack} (h : s.place run b = some p) :
    p.2.mono = s.tack.mono := by
  unfold State.place at h
  dsimp only at h
  split at h
  · cases h; rfl
  · split at h
    · cases h; rfl
    · cases h

theorem State.jobPlace_mono {s : State} {id run : Nat} {b : Bool} {p : Nat × Tack} (h : s.jobPlace id run b = some p) :
    p.2.mono = s.tack.mono := by
  unfold State.jobPlace at h
  split at h
  · cases h; rfl
  · exact State.place_mono h

theorem State.hold_keeps {σ : State} (s : State) (k : Key) (hs : σ.keeps s) : σ.keeps ((State.hold s k).2) := by
  unfold State.hold
  split
  · exact hs
  · next e => exact State.modTack_keeps _ (State.place_mono e) hs

theorem State.unhold_keeps {σ : State} (s : State) (w : BitVec 5) (h : Option (Nat × Nat)) (hs : σ.keeps s) :
    σ.keeps (State.unhold s w h) := by
  unfold State.unhold
  split
  · split
    · exact State.modTack_keeps _ (by simp) hs
    · exact hs
  · exact hs

theorem State.holdSecrets_keeps {σ : State} (s : State) (kv : Bytes) (hs : σ.keeps s) :
    σ.keeps (State.holdSecrets s kv) := by
  unfold State.holdSecrets
  exact foldl_keeps _ _ _ (fun s k h => State.hold_keeps s k h) hs

theorem State.dropHamper_keeps {σ : State} (s : State) (p : Nat) (hs : σ.keeps s) :
    σ.keeps (State.dropHamper s p) :=
  State.modTack_keeps _ rfl (State.unhold_keeps s _ _ hs)

theorem State.deriveHamper_keeps {σ : State} (s : State) (p : Nat) (hs : σ.keeps s) :
    σ.keeps (State.deriveHamper s p) := by
  have h := State.dropHamper_keeps s p hs
  unfold State.deriveHamper
  dsimp only
  split
  · exact h
  · have h2 := State.hold_keeps _ (serviceKey 1 0x03 0x0030 ‹Bytes›) h
    split
    · exact State.modTack_keeps _ rfl h2
    · exact h2

theorem State.deriveHampers_keeps {σ : State} (s : State) (hs : σ.keeps s) : σ.keeps (State.deriveHampers s) := by
  unfold State.deriveHampers
  refine foldl_keeps _ _ _ (fun s q h => ?_) hs
  split
  · exact h
  · exact State.deriveHamper_keeps s _ h

theorem State.putPortLedger_keeps {σ : State} (s : State) (n : Nat) (f : PortLedger → PortLedger) (hs : σ.keeps s) :
    σ.keeps (State.putPortLedger s n f) := by
  unfold State.putPortLedger
  repeat' first
    | with_reducible first
        | assumption | apply State.modPort_keeps | apply State.ev_keeps | refine ite_keeps ?_ ?_
    | (intro _ _ _) | (intro _ _) | split | (simp; done) | (dsimp only)

theorem State.setPhase_keeps {σ : State} (s : State) (n : Nat) (ph : Phase) (hs : σ.keeps s) :
    σ.keeps (State.setPhase s n ph) := by
  unfold State.setPhase
  repeat' with_reducible first
      | assumption | apply State.modPort_keeps | apply State.latch_keeps | refine ite_keeps ?_ ?_

theorem State.toHold_keeps {σ : State} (s : State) (n : Nat) (hs : σ.keeps s) :
    σ.keeps (State.toHold s n) := by
  unfold State.toHold
  repeat' with_reducible first
      | assumption | apply State.modPort_keeps | apply State.setPhase_keeps

theorem State.recoverAsk_keeps {σ : State} (s : State) (n : Nat) (hs : σ.keeps s) :
    σ.keeps (State.recoverAsk s n) := by
  unfold State.recoverAsk
  repeat' with_reducible first
      | assumption | apply State.modPort_keeps

theorem State.responseHold_keeps {σ : State} (s : State) (n : Nat) (hs : σ.keeps s) :
    σ.keeps (State.responseHold s n) := by
  unfold State.responseHold
  repeat' with_reducible first
      | assumption | apply State.modPort_keeps | apply State.beginPortHold_keeps | refine ite_keeps ?_ ?_

theorem State.failResponse_keeps {σ : State} (s : State) (n : Nat) (hs : σ.keeps s) :
    σ.keeps (State.failResponse s n) := by
  unfold State.failResponse
  repeat' with_reducible first
      | assumption | apply State.responseHold_keeps | apply State.latch_keeps | apply State.recoverAsk_keeps
      | apply State.ev_keeps | refine ite_keeps ?_ ?_

theorem State.beginSweep_keeps {σ : State} (s : State) (n : Nat) (hs : σ.keeps s) :
    σ.keeps (State.beginSweep s n) := by
  unfold State.beginSweep
  repeat' first
    | with_reducible first
        | assumption | apply State.modPort_keeps | apply State.latch_keeps | apply State.ev_keeps
    | split

theorem State.overflowResponse_keeps {σ : State} (s : State) (n : Nat) (hs : σ.keeps s) :
    σ.keeps (State.overflowResponse s n) := by
  unfold State.overflowResponse
  repeat' with_reducible first
      | assumption | apply State.ev_keeps | apply State.responseHold_keeps | apply State.latch_keeps
      | apply State.beginSweep_keeps | apply State.recoverAsk_keeps | refine ite_keeps ?_ ?_

theorem State.addDebt_keeps {σ : State} (s : State) (n idx : Nat) (hs : σ.keeps s) :
    σ.keeps (State.addDebt s n idx) := by
  unfold State.addDebt
  repeat' with_reducible first
      | assumption | apply State.modPort_keeps | apply State.overflowResponse_keeps | refine ite_keeps ?_ ?_

theorem State.portTrialItem_keeps {σ : State} (s : State) (n : Nat) (hs : σ.keeps s) :
    σ.keeps ((State.portTrialItem s n).1) := by
  unfold State.portTrialItem
  repeat' first
    | with_reducible first
        | assumption | apply State.putPortLedger_keeps
    | split

theorem State.verdictFail_keeps {σ : State} (s : State) (n reason : Nat) (hs : σ.keeps s) :
    σ.keeps (State.verdictFail s n reason) := by
  unfold State.verdictFail
  repeat' with_reducible first
      | assumption | apply State.modPort_keeps | apply State.latch_keeps | apply State.ev_keeps

theorem State.dropDigest_keeps {σ : State} (s : State) (n : Nat) (hs : σ.keeps s) : σ.keeps (State.dropDigest s n) := by
  unfold State.dropDigest
  repeat' first
    | with_reducible first
        | assumption | apply State.dropWhat_keeps
    | (simp; done) | (dsimp only)

theorem State.startDigest_keeps {σ : State} (s : State) (n : Nat) (lens : List Nat) (hs : σ.keeps s) : σ.keeps
    (State.startDigest s n lens) := by
  unfold State.startDigest
  repeat' first
    | with_reducible first
        | assumption | apply State.dropDigest_keeps | apply State.addDev_keeps
    | (simp; done) | (dsimp only)

theorem State.tryCand_keeps {σ : State} (s : State) (n : Nat) (hs : σ.keeps s) : σ.keeps (State.tryCand s n) := by
  unfold State.tryCand
  repeat' first
    | with_reducible first
        | assumption | apply State.dropDigest_keeps | apply State.startDigest_keeps | refine ite_keeps ?_ ?_
    | split | (simp; done) | (dsimp only)

theorem State.verifyFail_keeps {σ : State} (s : State) (n reason : Nat) (hs : σ.keeps s) : σ.keeps (State.verifyFail s n
    reason) := by
  unfold State.verifyFail
  repeat' first
    | with_reducible first
        | assumption | apply State.verdictFail_keeps | apply State.dropDigest_keeps | apply State.toHold_keeps
        | apply State.failResponse_keeps
    | (simp; done) | (dsimp only)

theorem State.placePort_keeps {σ : State} (s : State) (n : Nat) (hs : σ.keeps s) : σ.keeps (State.placePort s n) := by
  unfold State.placePort
  repeat' first
    | with_reducible first
        | assumption | apply State.modPort_keeps | refine foldl_keeps _ _ _ ?_ ?_
    | (intro _ _ _) | split | (simp; done) | (dsimp only)

theorem State.enterVerify_keeps {σ : State} (s : State) (n : Nat) (hs : σ.keeps s) : σ.keeps (State.enterVerify s n) :=
    by
  unfold State.enterVerify
  repeat' first
    | with_reducible first
        | assumption | apply State.setPhase_keeps | apply State.modPort_keeps | apply State.startDigest_keeps
        | apply State.placePort_keeps | apply State.portTrialItem_keeps | apply State.tryCand_keeps
        | apply State.verifyFail_keeps | refine ite_keeps ?_ ?_ | refine ite_keeps_fst ?_ ?_
        | refine ite_keeps_snd ?_ ?_
    | (intro _ _ _) | split | (simp; done) | (dsimp only)

theorem State.freshTagKey_keeps {σ : State} (s : State) (n : Nat) (hs : σ.keeps s) :
    σ.keeps (State.freshTagKey s n) := by
  unfold State.freshTagKey
  repeat' with_reducible first
      | assumption | apply State.draw_keeps | apply State.modPort_keeps | apply State.unhold_keeps
      | apply State.hold_keeps

theorem State.fillPort_keeps {σ : State} (s : State) (n : Nat) (x : Slot) (data : List Bytes) (hs : σ.keeps s) :
    σ.keeps (State.fillPort s n x data) := by
  unfold State.fillPort
  repeat' first
    | with_reducible first
        | assumption | apply State.modShed_keeps | apply State.modTagTable_keeps | refine foldl_keeps _ _ _ ?_ ?_
        | refine ite_keeps ?_ ?_
    | (intro _ _ _)
    | (exact fun h => memWrite_wf _ _ _ h)

theorem State.advertise_keeps {σ : State} (s : State) (n : Nat) (hs : σ.keeps s) : σ.keeps (State.advertise s n) := by
  unfold State.advertise
  repeat' first
    | with_reducible first
        | assumption | apply State.modPort_keeps | refine ite_keeps ?_ ?_ | refine ite_keeps_fst ?_ ?_
        | refine ite_keeps_snd ?_ ?_
    | (intro _ _ _) | split | (simp; done) | (dsimp only)

theorem State.sourcePass_keeps {σ : State} (s : State) (n : Nat) (x : Slot) (hs : σ.keeps s) : σ.keeps (State.sourcePass
    s n x) := by
  unfold State.sourcePass
  repeat' first
    | with_reducible first
        | assumption | apply State.putPortLedger_keeps | apply State.modPort_keeps | apply State.advertise_keeps
        | apply State.dropDigest_keeps | apply State.latch_keeps | apply State.setPhase_keeps | apply State.ev_keeps
        | refine ite_keeps ?_ ?_
    | (intro _ _ _) | split | (simp; done) | (dsimp only)

theorem State.sourceFail_keeps {σ : State} (s : State) (n : Nat) (x : Slot) (reason : Nat) (hs : σ.keeps s) : σ.keeps
    (State.sourceFail s n x reason) := by
  unfold State.sourceFail
  repeat' first
    | with_reducible first
        | assumption | apply State.putPortLedger_keeps | apply State.verifyFail_keeps | apply State.modPort_keeps
        | apply State.tryCand_keeps | refine ite_keeps ?_ ?_
    | (intro _ _ _) | split | (simp; done) | (dsimp only)

theorem State.probeSends_keeps {σ : State} (s : State) (n : Nat) (pr : Probe) (d : Option DownRead) (hs : σ.keeps s) :
    σ.keeps (State.probeSends s n pr d) := by
  unfold State.probeSends
  repeat' first
    | with_reducible first
        | assumption | apply State.emit_keeps | refine ite_keeps ?_ ?_
    | split | (simp; done) | (dsimp only)

theorem State.probePort_keeps {σ : State} (s : State) (n : Nat) (pr : Probe) (hs : σ.keeps s) : σ.keeps (State.probePort
    s n pr) := by
  unfold State.probePort
  repeat' first
    | with_reducible first
        | assumption | apply State.modPort_keeps | apply State.verdictFail_keeps | apply State.probeSends_keeps
        | apply State.enterVerify_keeps | apply State.setPhase_keeps | apply State.verifyFail_keeps
        | refine ite_keeps ?_ ?_
    | (intro _ _ _) | split | (simp; done) | (dsimp only)

theorem State.probePorts_keeps {σ : State} (s : State) (l : List Probe) (hs : σ.keeps s) :
    σ.keeps (State.probePorts s l) := by
  unfold State.probePorts
  repeat' first
    | with_reducible first
        | assumption | apply State.probePort_keeps | refine foldl_keeps _ _ _ ?_ ?_
    | (intro _ _ _)

theorem State.endTransfer_keeps {σ : State} (s : State) (hs : σ.keeps s) : σ.keeps (State.endTransfer s) := by
  unfold State.endTransfer
  repeat' first
    | with_reducible first
        | assumption | apply State.putLedger_keeps | apply State.putPortLedger_keeps | apply State.setPhase_keeps
        | apply State.latch_keeps | apply State.dropWhat_keeps | apply State.modPldm_keeps | apply State.ev_keeps
        | apply State.modPldm_keeps | refine ite_keeps ?_ ?_
    | (intro _ _ _) | split | (simp; done) | (dsimp only)

theorem State.startRecovery_keeps {σ : State} (s : State) (n : Nat) (hs : σ.keeps s) :
    σ.keeps (State.startRecovery s n) := by
  unfold State.startRecovery
  repeat' with_reducible first
      | assumption | apply State.modPort_keeps | apply State.ev_keeps | apply State.setOp_keeps
      | apply State.beginPortHold_keeps | apply State.latch_keeps | apply State.endTransfer_keeps
      | apply State.enterVerify_keeps | refine ite_keeps ?_ ?_

theorem State.takeRecoveries_keeps {σ : State} (s : State) (alarm : Bool) (hs : σ.keeps s) :
    σ.keeps (State.takeRecoveries s alarm) := by
  unfold State.takeRecoveries
  repeat' first
    | with_reducible first
        | assumption | apply State.modPort_keeps | apply State.ev_keeps | apply State.startRecovery_keeps
        | refine foldl_keeps _ _ _ ?_ ?_ | refine ite_keeps ?_ ?_
    | (intro _ _ _)

theorem State.interrupt_keeps {σ : State} (s : State) (n : Nat) (hs : σ.keeps s) : σ.keeps (State.interrupt s n) := by
  unfold State.interrupt
  repeat' first
    | with_reducible first
        | assumption | apply State.modPort_keeps | refine ite_keeps ?_ ?_
    | (intro _ _ _) | split | (simp; done) | (dsimp only)

theorem State.disarm_keeps {σ : State} (s : State) (n : Nat) (hs : σ.keeps s) :
    σ.keeps (State.disarm s n) := by
  unfold State.disarm
  repeat' with_reducible first
      | assumption | apply State.modPort_keeps

theorem State.unknownCmd_keeps {σ : State} (s : State) (n : Nat) (hs : σ.keeps s) :
    σ.keeps (State.unknownCmd s n) := by
  unfold State.unknownCmd
  repeat' with_reducible first
      | assumption | apply State.modPort_keeps | apply State.latch_keeps | apply State.emit_keeps

theorem State.lateBytes_keeps {σ : State} (s : State) (n k : Nat) (hs : σ.keeps s) :
    σ.keeps (State.lateBytes s n k) := by
  unfold State.lateBytes
  repeat' with_reducible first
      | assumption | apply State.modPort_keeps | apply State.latch_keeps | refine ite_keeps ?_ ?_

theorem State.allLate_keeps {σ : State} (s : State) (c : SpiCmd) (hs : σ.keeps s) :
    σ.keeps (State.allLate s c) := by
  unfold State.allLate
  repeat' with_reducible first
      | assumption | apply State.lateBytes_keeps | apply State.emit_keeps

theorem State.cancelDown_keeps {σ : State} (s : State) (n op : Nat) (at_ : CutAt) (hs : σ.keeps s) : σ.keeps
    (State.cancelDown s n op at_) := by
  unfold State.cancelDown
  repeat' first
    | with_reducible first
        | assumption | apply State.emit_keeps
    | (simp; done) | (dsimp only)

theorem State.refusedEntry_keeps {σ : State} (s : State) (n op addr : Nat) (hs : σ.keeps s) :
    σ.keeps (State.refusedEntry s n op addr) := by
  unfold State.refusedEntry
  repeat' with_reducible first
      | assumption | apply State.modPort_keeps | apply State.ev_keeps | refine ite_keeps ?_ ?_

theorem State.refuse_keeps {σ : State} (s : State) (c : SpiCmd) (op : Nat) (at_ : CutAt) (busy : Nat) (hs : σ.keeps s) :
    σ.keeps (State.refuse s c op at_ busy) := by
  unfold State.refuse
  repeat' first
    | with_reducible first
        | assumption | apply State.modPort_keeps | apply State.cancelDown_keeps | apply State.latch_keeps
        | apply State.refusedEntry_keeps | refine ite_keeps ?_ ?_
    | (intro _ _ _) | split | (simp; done) | (dsimp only)

theorem State.portResetWire_keeps {σ : State} (s : State) (n : Nat) (hs : σ.keeps s) :
    σ.keeps (State.portResetWire s n) := by
  unfold State.portResetWire
  repeat' with_reducible first
      | assumption | apply State.modPort_keeps

theorem State.passThrough_keeps {σ : State} (s : State) (c : SpiCmd) (op : Nat) (ret : Bool) (hs : σ.keeps s) :
    σ.keeps (State.passThrough s c op ret) := by
  unfold State.passThrough
  repeat' with_reducible first
      | assumption | apply State.emit_keeps | refine ite_keeps ?_ ?_

theorem State.clearRead_keeps {σ : State} (s : State) (c : SpiCmd) (op : Nat) (read03 : Bool) (hs : σ.keeps s) :
    σ.keeps (State.clearRead s c op read03) := by
  unfold State.clearRead
  repeat' with_reducible first
      | assumption | apply State.allLate_keeps | apply State.passThrough_keeps | refine ite_keeps ?_ ?_

theorem State.readBlocks_keeps {σ : State} (s : State) (c : SpiCmd) (starts : List Nat) (hs : σ.keeps s) :
    σ.keeps (State.readBlocks s c starts) := by
  unfold State.readBlocks
  repeat' first
    | with_reducible first
        | assumption | apply State.modPort_keeps | apply State.addDebt_keeps | refine foldl_keeps _ _ _ ?_ ?_
    | (intro _ _ _)
    | split

theorem State.startReads_keeps {σ : State} (s : State) (c : SpiCmd) (starts : List Nat) (hs : σ.keeps s) : σ.keeps
    (State.startReads s c starts) := by
  unfold State.startReads
  repeat' first
    | with_reducible first
        | assumption | apply State.emit_keeps | refine foldl_keeps _ _ _ ?_ ?_ | refine ite_keeps ?_ ?_
        | refine ite_keeps_fst ?_ ?_ | refine ite_keeps_snd ?_ ?_
    | (intro _ _ _) | split | (simp; done) | (dsimp only)

theorem State.proxyRead_keeps {σ : State} (s : State) (c : SpiCmd) (dummy : Nat) (hs : σ.keeps s) : σ.keeps
    (State.proxyRead s c dummy) := by
  unfold State.proxyRead
  repeat' first
    | with_reducible first
        | assumption | apply State.emit_keeps | apply State.startReads_keeps | apply State.lateBytes_keeps
        | apply State.readBlocks_keeps | refine ite_keeps ?_ ?_ | refine ite_keeps_fst ?_ ?_
        | refine ite_keeps_snd ?_ ?_
    | split | (simp; done) | (dsimp only)

theorem State.passedWrite_keeps {σ : State} (s : State) (n cs : Nat) (hs : σ.keeps s) : σ.keeps (State.passedWrite s n
    cs) := by
  unfold State.passedWrite
  repeat' first
    | with_reducible first
        | assumption | apply State.modPort_keeps
    | (intro _ _ _) | (simp; done) | (dsimp only)

theorem State.clearWrite_keeps {σ : State} (s : State) (c : SpiCmd) (r : OpRow) (first busy : Nat) (hs : σ.keeps s) :
    σ.keeps (State.clearWrite s c r first busy) := by
  unfold State.clearWrite
  repeat' first
    | with_reducible first
        | assumption | apply State.refuse_keeps | apply State.passThrough_keeps | apply State.passedWrite_keeps
        | refine ite_keeps ?_ ?_
    | split | (simp; done) | (dsimp only)

theorem State.proxyWrite_keeps {σ : State} (s : State) (c : SpiCmd) (r : OpRow) (first len busy : Nat) (hs : σ.keeps s)
    : σ.keeps (State.proxyWrite s c r first len busy) := by
  unfold State.proxyWrite
  repeat' first
    | with_reducible first
        | assumption | apply State.emit_keeps | apply State.passedWrite_keeps | apply State.refuse_keeps
        | refine ite_keeps ?_ ?_ | refine ite_keeps_fst ?_ ?_ | refine ite_keeps_snd ?_ ?_
    | split | (simp; done) | (dsimp only)

theorem State.listRefuse_keeps {σ : State} (s : State) (c : SpiCmd) (op : Nat) (at_ : CutAt) (busy : Nat) (hs : σ.keeps
    s) : σ.keeps (State.listRefuse s c op at_ busy) := by
  unfold State.listRefuse
  repeat' first
    | with_reducible first
        | assumption | apply State.refuse_keeps | refine ite_keeps ?_ ?_
    | split | (simp; done) | (dsimp only)

theorem State.leaveQpi_keeps {σ : State} (s : State) (n : Nat) (hs : σ.keeps s) : σ.keeps (State.leaveQpi s n) := by
  unfold State.leaveQpi
  repeat' first
    | with_reducible first
        | assumption | apply State.modPort_keeps
    | (intro _ _ _) | (simp; done) | (dsimp only)

theorem State.stepActs_keeps {σ : State} (s : State) (st : HStep) (hs : σ.keeps s) :
    σ.keeps (State.stepActs s st) := by
  unfold State.stepActs
  repeat' with_reducible first
      | assumption | apply State.modHal_keeps | apply State.ev_keeps | apply State.latch_keeps
      | refine ite_keeps ?_ ?_

theorem State.stopSchedule_keeps {σ : State} (s : State) (hs : σ.keeps s) :
    σ.keeps (State.stopSchedule s) := by
  unfold State.stopSchedule
  repeat' with_reducible first
      | assumption | apply State.modHal_keeps | apply State.latch_keeps | apply State.ev_keeps

theorem State.beginSchedule_keeps {σ : State} (s : State) (hs : σ.keeps s) :
    σ.keeps (State.beginSchedule s) := by
  unfold State.beginSchedule
  repeat' with_reducible first
      | assumption | apply State.modHal_keeps

theorem State.resumeSchedule_keeps {σ : State} (s : State) (hs : σ.keeps s) :
    σ.keeps (State.resumeSchedule s) := by
  unfold State.resumeSchedule
  repeat' with_reducible first
      | assumption | apply State.modHal_keeps | refine ite_keeps ?_ ?_

theorem State.halterSees_keeps {σ : State} (s : State) (hs : σ.keeps s) : σ.keeps (State.halterSees s) := by
  unfold State.halterSees
  repeat' first
    | with_reducible first
        | assumption | apply State.modHal_keeps | apply State.modHal_keeps
    | (intro _ _ _) | split | (simp; done) | (dsimp only)

theorem State.latchInput_keeps {σ : State} (s : State) (k : Nat) (hs : σ.keeps s) :
    σ.keeps (State.latchInput s k) := by
  unfold State.latchInput
  repeat' with_reducible first
      | assumption | apply State.latch_keeps | refine ite_keeps ?_ ?_

theorem State.sampleInputs_keeps {σ : State} (s : State) (hi : BitVec 32) (hs : σ.keeps s) : σ.keeps (State.sampleInputs
    s hi) := by
  unfold State.sampleInputs
  repeat' first
    | with_reducible first
        | assumption | apply State.modHal_keeps | apply State.modHal_keeps
    | (intro _ _ _) | (simp; done) | (dsimp only)

theorem State.measureFrame_keeps {σ : State} (s : State) (n : Nat) (hs : σ.keeps s) : σ.keeps (State.measureFrame s n)
    := by
  unfold State.measureFrame
  repeat' first
    | with_reducible first
        | assumption | apply State.emit_keeps | apply State.modPort_keeps | refine ite_keeps ?_ ?_
    | (intro _ _ _) | split | (simp; done) | (dsimp only)

theorem State.regionReads_keeps {σ : State} (s : State) (n : Nat) (x : Slot) (rs : List Region) (hs : σ.keeps s) :
    σ.keeps (State.regionReads s n x rs) := by
  unfold State.regionReads
  repeat' first
    | with_reducible first
        | assumption | apply State.emit_keeps | refine foldl_keeps _ _ _ ?_ ?_
    | (intro _ _ _) | split | (simp; done) | (dsimp only)

theorem State.tagFailed_keeps {σ : State} (s : State) (n host flash : Nat) (hs : σ.keeps s) :
    σ.keeps (State.tagFailed s n host flash) := by
  unfold State.tagFailed
  repeat' with_reducible first
      | assumption | apply State.modPort_keeps | apply State.ev_keeps | apply State.failResponse_keeps
      | refine ite_keeps ?_ ?_

theorem State.readBlock_keeps {σ s t : State} {n i : Nat} (h : s.readBlock n i = some t) (hs : σ.keeps s) : σ.keeps t := by
  unfold State.readBlock at h
  split at h
  · split at h
    · cases h
    · cases h
      exact State.emit_keeps _ _ hs
  · cases h

theorem State.sweepFrame_keeps {σ : State} (s : State) (n : Nat) (hs : σ.keeps s) : σ.keeps (State.sweepFrame s n) := by
  unfold State.sweepFrame
  repeat' first
    | with_reducible first
        | assumption | apply State.modPort_keeps | refine ite_keeps ?_ ?_
    | (intro _ _ _) | split | (refine State.readBlock_keeps (by assumption) ?_) | (simp; done) | (dsimp only)

theorem State.portsFrame_keeps {σ : State} (s : State) (hs : σ.keeps s) : σ.keeps (State.portsFrame s) := by
  unfold State.portsFrame
  repeat' first
    | with_reducible first
        | assumption | apply State.measureFrame_keeps | apply State.sweepFrame_keeps | refine foldl_keeps _ _ _ ?_ ?_
    | (intro _ _ _) | (simp; done) | (dsimp only)

theorem State.pldmSend_keeps {σ : State} (s : State) (t cmd : Nat) (p : Bytes) (hs : σ.keeps s) : σ.keeps
    (State.pldmSend s t cmd p) := by
  unfold State.pldmSend
  repeat' first
    | with_reducible first
        | assumption | apply State.emit_keeps | apply State.inBand_keeps
    | (simp; done) | (dsimp only)

theorem State.pldmReply_keeps {σ : State} (s : State) (t cmd code : Nat) (p : Bytes) (hs : σ.keeps s) : σ.keeps
    (State.pldmReply s t cmd code p) := by
  unfold State.pldmReply
  repeat' first
    | with_reducible first
        | assumption | apply State.pldmSend_keeps
    | (simp; done) | (dsimp only)

theorem State.requestData_keeps {σ : State} (s : State) (hs : σ.keeps s) : σ.keeps (State.requestData s) := by
  unfold State.requestData
  repeat' first
    | with_reducible first
        | assumption | apply State.pldmSend_keeps | refine ite_keeps ?_ ?_
    | split | (simp; done) | (dsimp only)

theorem State.updateFails_keeps {σ : State} (s : State) (cmd : Nat) (bad : Bool) (reason : Nat) (hs : σ.keeps s) :
    σ.keeps (State.updateFails s cmd bad reason) := by
  unfold State.updateFails
  repeat' first
    | with_reducible first
        | assumption | apply State.putLedger_keeps | apply State.bootRecord_keeps | apply State.putPortLedger_keeps
        | apply State.setPhase_keeps | apply State.latch_keeps | apply State.modPldm_keeps | apply State.ev_keeps
        | apply State.pldmSend_keeps | apply State.modPldm_keeps | refine ite_keeps ?_ ?_
    | (intro _ _ _) | split | (simp; done) | (dsimp only)

theorem State.storeNow_keeps {σ : State} (s : State) (key : Nat) (v : Bytes) (hs : σ.keeps s) : σ.keeps (State.storeNow
    s key v) := by
  unfold State.storeNow
  repeat' first
    | with_reducible first
        | assumption | apply State.setVal_keeps | apply State.modDict_keeps | apply State.modDict_keeps
        | refine ite_keeps ?_ ?_
    | (intro _ _ _) | (intro _ _) | split | (simp; done) | (dsimp only)

theorem State.updateStaged_keeps {σ : State} (s : State) (x : Slot) (hs : σ.keeps s) : σ.keeps (State.updateStaged s x)
    := by
  unfold State.updateStaged
  repeat' first
    | with_reducible first
        | assumption | apply State.putLedger_keeps | apply State.modBoot_keeps | apply State.latch_keeps
        | apply State.storeNow_keeps | apply State.modPort_keeps | apply State.putPortLedger_keeps
        | apply State.setPhase_keeps | apply State.modPldm_keeps | apply State.ev_keeps | apply State.pldmSend_keeps
        | apply State.modBoot_keeps | apply State.modPldm_keeps | refine ite_keeps ?_ ?_
    | (intro _ _ _) | split | (simp; done) | (dsimp only)

theorem State.updateHead_keeps {σ : State} (s : State) (x : Slot) (hs : σ.keeps s) : σ.keeps (State.updateHead s x) :=
    by
  unfold State.updateHead
  repeat' first
    | with_reducible first
        | assumption | apply State.updateFails_keeps | apply State.putLedger_keeps | apply State.modPldm_keeps
        | apply State.addDev_keeps | apply State.modPldm_keeps | refine ite_keeps ?_ ?_
    | (intro _ _ _) | split | (simp; done) | (dsimp only)

theorem State.writePayload_keeps {σ : State} (s : State) (x : Slot) (o e : Nat) (hs : σ.keeps s) : σ.keeps
    (State.writePayload s x o e) := by
  unfold State.writePayload
  repeat' first
    | with_reducible first
        | assumption | apply State.emit_keeps | refine foldl_keeps _ _ _ ?_ ?_ | refine ite_keeps ?_ ?_
        | refine ite_keeps_fst ?_ ?_ | refine ite_keeps_snd ?_ ?_
    | (intro _ _ _) | split | (simp; done) | (dsimp only)

theorem State.writePortion_keeps {σ : State} (s : State) (x : Slot) (o : Nat) (hs : σ.keeps s) : σ.keeps
    (State.writePortion s x o) := by
  unfold State.writePortion
  repeat' first
    | with_reducible first
        | assumption | apply State.emit_keeps | apply State.writePayload_keeps | refine ite_keeps ?_ ?_
    | split | (simp; done) | (dsimp only)

theorem State.portionDone_keeps {σ : State} (s : State) (hs : σ.keeps s) : σ.keeps (State.portionDone s) := by
  unfold State.portionDone
  repeat' first
    | with_reducible first
        | assumption | apply State.requestData_keeps | apply State.updateFails_keeps | apply State.pldmSend_keeps
        | apply State.modPldm_keeps | apply State.modPldm_keeps | refine ite_keeps ?_ ?_
    | (intro _ _ _) | split | (simp; done) | (dsimp only)

theorem State.portionIn_keeps {σ : State} (s : State) (x : Slot) (r : Portion) (hs : σ.keeps s) : σ.keeps
    (State.portionIn s x r) := by
  unfold State.portionIn
  repeat' first
    | with_reducible first
        | assumption | apply State.modPldm_keeps | apply State.updateHead_keeps | apply State.updateFails_keeps
        | apply State.writePortion_keeps | apply State.portionDone_keeps | apply State.modPldm_keeps
        | refine ite_keeps ?_ ?_
    | (intro _ _ _) | split | (simp; done) | (dsimp only)

theorem State.updateChecked_keeps {σ : State} (s : State) (hs : σ.keeps s) : σ.keeps (State.updateChecked s) := by
  unfold State.updateChecked
  repeat' first
    | with_reducible first
        | assumption | apply State.modPldm_keeps | apply State.updateFails_keeps | apply State.putPortLedger_keeps
        | apply State.setPhase_keeps | apply State.latch_keeps | apply State.portionDone_keeps
        | apply State.modPldm_keeps | refine ite_keeps ?_ ?_
    | (intro _ _ _) | split | (simp; done) | (dsimp only)

theorem State.pldmVerify_keeps {σ : State} (s : State) (x : Slot) (hs : σ.keeps s) : σ.keeps (State.pldmVerify s x) :=
    by
  unfold State.pldmVerify
  repeat' first
    | with_reducible first
        | assumption | apply State.bootFlashRead_keeps | apply State.regionReads_keeps | apply State.updateFails_keeps
        | apply State.pldmSend_keeps | apply State.modPldm_keeps | apply State.modPldm_keeps | refine ite_keeps ?_ ?_
    | (intro _ _ _) | split | (simp; done) | (dsimp only)

theorem State.pldmBoundary_keeps {σ : State} (s : State) (hs : σ.keeps s) : σ.keeps (State.pldmBoundary s) := by
  unfold State.pldmBoundary
  repeat' first
    | with_reducible first
        | assumption | apply State.modPldm_keeps | apply State.portionIn_keeps | apply State.pldmVerify_keeps
        | apply State.updateStaged_keeps | apply State.modPldm_keeps | refine ite_keeps ?_ ?_
    | (intro _ _ _) | split | (simp; done) | (dsimp only)

theorem State.portActivate_keeps {σ : State} (s : State) (n : Nat) (x : Slot) (hs : σ.keeps s) :
    σ.keeps (State.portActivate s n x) := by
  unfold State.portActivate
  repeat' first
    | with_reducible first
        | assumption | apply State.putPortLedger_keeps
    | split

end Sys2Proof.Machine
end

