-- ==== Sys2Proof/Laws/KeepsTack.lean ====
section
/-! SUPPORT. What the operations of Tack, Load keep. -/

set_option maxRecDepth 20000

namespace Sys2Proof.Machine

open Sys2Proof

theorem State.queueSweep_keeps {σ : State} (s : State) (slot : Nat) (hs : σ.keeps s) : σ.keeps (State.queueSweep s slot)
    := by
  unfold State.queueSweep
  repeat' first
    | with_reducible first
        | assumption | apply State.addDev_keeps | refine ite_keeps ?_ ?_
    | (intro _ _ _) | split | (simp; done) | (dsimp only)

theorem State.tellStack_keeps {σ : State} (s : State) (k : Key) (kind : Nat) (hs : σ.keeps s) :
    σ.keeps (State.tellStack s k kind) := by
  unfold State.tellStack
  repeat' with_reducible first
      | assumption | apply State.modCas_keeps | refine ite_keeps ?_ ?_

theorem State.revokeKey_keeps {σ : State} (s : State) (k : Key) (hs : σ.keeps s) :
    σ.keeps (State.revokeKey s k) := by
  unfold State.revokeKey
  repeat' first
    | with_reducible first
        | assumption | apply State.tellStack_keeps | apply State.queueSweep_keeps | apply State.modTack_keeps
    | split
    | (simp; done)
    | (dsimp only)

theorem State.eraseKey_keeps {σ : State} (s : State) (k : Key) (hs : σ.keeps s) :
    σ.keeps (State.eraseKey s k) := by
  unfold State.eraseKey
  repeat' first
    | with_reducible first
        | assumption | apply State.tellStack_keeps | apply State.queueSweep_keeps | apply State.modTack_keeps
    | (simp; done)

theorem State.rewriteKey_keeps {σ : State} (s : State) (k : Key) (secret : Bytes) (hs : σ.keeps s) :
    σ.keeps (State.rewriteKey s k secret) := by
  unfold State.rewriteKey
  repeat' first
    | with_reducible first
        | assumption | apply State.tellStack_keeps | apply State.queueSweep_keeps | apply State.modTack_keeps
    | (simp; done)

theorem State.keyEvent_keeps {σ : State} (s : State) (code : Nat) (k : Key) (hs : σ.keeps s) :
    σ.keeps (State.keyEvent s code k) := by
  unfold State.keyEvent
  repeat' with_reducible first
      | assumption | apply State.latch_keeps | apply State.logEv_keeps

theorem State.exhaust_keeps {σ : State} (s : State) (k : Key) (hs : σ.keeps s) :
    σ.keeps (State.exhaust s k) := by
  unfold State.exhaust
  repeat' first
    | with_reducible first
        | assumption | apply State.modTack_keeps | apply State.keyEvent_keeps
    | (simp; done)

theorem State.takeUses_keeps {σ : State} (s : State) (slot uses : Nat) (hs : σ.keeps s) :
    σ.keeps (State.takeUses s slot uses) := by
  unfold State.takeUses
  repeat' first
    | with_reducible first
        | assumption | apply State.modTack_keeps | apply State.exhaust_keeps | refine ite_keeps ?_ ?_
    | split
    | (simp; done)

theorem State.replicate_keeps {σ : State} (s : State) (k : Key) (hs : σ.keeps s) :
    σ.keeps (State.replicate s k) := by
  unfold State.replicate
  repeat' first
    | with_reducible first
        | assumption | apply State.linkSend_keeps | apply State.modCas_keeps | refine foldl_keeps _ _ _ ?_ ?_
        | refine ite_keeps ?_ ?_
    | (intro _ _ _)

theorem State.addKeyAt_keeps {σ s : State} {q : Option (Nat × Tack)} {k : Key} {p : State × Nat}
    (h : s.addKeyAt q k = .ok p) (hm : ∀ x, q = some x → x.2.mono = s.tack.mono) (hs : σ.keeps s) : σ.keeps p.1 := by
  unfold State.addKeyAt at h
  split at h
  · cases h
  · cases h
    exact State.replicate_keeps _ _ (State.modTack_keeps _ (hm _ rfl) hs)

theorem State.addKey_keeps {σ s : State} {k : Key} {p : State × Nat} (h : s.addKey k = .ok p) (hs : σ.keeps s) :
    σ.keeps p.1 := State.addKeyAt_keeps h (fun _ e => State.place_mono e) hs

theorem State.freshSecret_keeps {σ : State} (s : State) (t : Nat) (hs : σ.keeps s) :
    σ.keeps ((State.freshSecret s t).2) := by
  unfold State.freshSecret
  repeat' with_reducible first
      | assumption | apply State.draw_keeps | refine ite_keeps_snd ?_ ?_

theorem State.modStream_keeps {σ : State} (s : State) (p h : Nat) (f : Stream → Stream) (hs : σ.keeps s) : σ.keeps
    (State.modStream s p h f) := by
  unfold State.modStream
  repeat' first
    | with_reducible first
        | assumption | apply State.modPad_keeps | refine ite_keeps ?_ ?_
    | (intro _ _ _) | (intro _ _) | split | (simp; done) | (dsimp only)

theorem State.closeStream_keeps {σ : State} (s : State) (p h : Nat) (hs : σ.keeps s) :
    σ.keeps (State.closeStream s p h) := by
  unfold State.closeStream
  repeat' with_reducible first
      | assumption | apply State.modPad_keeps

theorem State.openStream_keeps {σ : State} (s : State) (p : Nat) (alg : HashAlg) (key : Option Key) (hs : σ.keeps s) :
    σ.keeps ((State.openStream s p alg key).1) := by
  unfold State.openStream
  repeat' first
    | with_reducible first
        | assumption | apply State.modPad_keeps
    | split

theorem State.takeJobUses_keeps {σ : State} (s : State) (j : Job) (ks : List Key) (hs : σ.keeps s) :
    σ.keeps (State.takeJobUses s j ks) := by
  unfold State.takeJobUses
  repeat' first
    | with_reducible first
        | assumption | apply State.takeUses_keeps | refine foldl_keeps _ _ _ ?_ ?_
    | (intro _ _ _)

theorem State.reserveRun_keeps {σ s t : State} {j : Job} (h : s.reserveRun j = some t) (hs : σ.keeps s) : σ.keeps t := by
  unfold State.reserveRun at h
  split at h
  · split at h
    · cases h
    · next e => cases h; exact State.modTack_keeps _ (State.place_mono e) hs
  · cases h; exact hs

theorem State.firstLoad_keeps {σ s : State} {j : Job} {p : State × Job × List Nat} (h : s.firstLoad j = .ok p)
    (hs : σ.keeps s) : σ.keeps p.1 := by
  unfold State.firstLoad at h
  repeat' (first
    | (cases h; done)
    | (cases h; exact hs)
    | (cases h
       repeat' (first
         | exact State.takeJobUses_keeps _ _ _ (State.reserveRun_keeps (by assumption) hs)
         | (apply State.modTack_keeps; exact rfl)
         | (apply State.modYard_keeps; exact rfl)
         | apply State.openStream_keeps
         | apply ite_keeps))
    | split at h
    | dsimp only at h)

theorem State.dukptFail_keeps {σ : State} (s : State) (j : Job) (e : Nat) (hs : σ.keeps s) :
    σ.keeps (State.dukptFail s j e) := by
  unfold State.dukptFail
  repeat' first
    | with_reducible first
        | assumption | apply State.modYard_keeps | apply State.exhaust_keeps
    | split
    | (simp; done)

end Sys2Proof.Machine
end

