-- ==== Sys2Proof/Laws/KeepsYard.lean ====
section
/-! SUPPORT. What the operations of Yard, KeyOps, Jobs, Reply keep. -/

set_option maxRecDepth 20000

namespace Sys2Proof.Machine

open Sys2Proof

theorem State.modWindow_keeps {σ : State} (s : State) (steward : Bool) (f : Rdw → Rdw) (hs : σ.keeps s) :
    σ.keeps (State.modWindow s steward f) := by
  unfold State.modWindow
  repeat' with_reducible first
      | assumption | apply State.modRdwSc_keeps | apply State.modRdw_keeps | refine ite_keeps ?_ ?_

theorem State.batchCheck_keeps {σ : State} (s : State) (parent at_ : Nat) (hs : σ.keeps s) :
    σ.keeps (State.batchCheck s parent at_) := by
  unfold State.batchCheck
  repeat' first
    | with_reducible first
        | assumption | apply State.modJobs_keeps | apply State.modJob_keeps | refine ite_keeps ?_ ?_
    | split

theorem State.endJob_keeps {σ : State} (s : State) (id st at_ : Nat) (hs : σ.keeps s) :
    σ.keeps (State.endJob s id st at_) := by
  unfold State.endJob
  repeat' first
    | with_reducible first
        | assumption | apply State.modYard_keeps | apply State.modJob_keeps | apply State.batchCheck_keeps
    | split
    | (simp; done)

theorem State.failLoad_keeps {σ : State} (s : State) (j : Job) (lane e : Nat) (hs : σ.keeps s) : σ.keeps (State.failLoad
    s j lane e) := by
  unfold State.failLoad
  repeat' first
    | with_reducible first
        | assumption | apply State.dukptFail_keeps | apply State.modLane_keeps | apply State.closeStream_keeps
        | apply State.endJob_keeps | refine ite_keeps ?_ ?_
    | (intro _ _ _) | split | (simp; done) | (dsimp only)

theorem State.abortJob_keeps {σ : State} (s : State) (id : Nat) (st : Option Nat) (hs : σ.keeps s) :
    σ.keeps (State.abortJob s id st) := by
  unfold State.abortJob
  repeat' first
    | with_reducible first
        | assumption | apply State.modLane_keeps | apply State.modJob_keeps | apply State.closeStream_keeps
        | apply State.dropJob_keeps | apply State.endJob_keeps | apply State.modYard_keeps
    | split
    | (simp; done)

theorem State.abortDev_keeps {σ : State} (s : State) (d : DevJob) (hs : σ.keeps s) :
    σ.keeps (State.abortDev s d) := by
  unfold State.abortDev
  repeat' first
    | with_reducible first
        | assumption | apply State.modLog_keeps | apply State.modLane_keeps | apply State.modDev_keeps
    | split

theorem State.haltYard_keeps {σ : State} (s : State) (hs : σ.keeps s) :
    σ.keeps (State.haltYard s) := by
  unfold State.haltYard
  repeat' first
    | with_reducible first
        | assumption | apply State.abortJob_keeps | apply State.abortDev_keeps | refine foldl_keeps _ _ _ ?_ ?_
        | refine ite_keeps ?_ ?_
    | (intro _ _ _)

theorem State.holdQueue_keeps {σ : State} (s : State) (hs : σ.keeps s) :
    σ.keeps (State.holdQueue s) := by
  unfold State.holdQueue
  repeat' first
    | with_reducible first
        | assumption | apply State.dropJob_keeps | apply State.endJob_keeps | refine foldl_keeps _ _ _ ?_ ?_
    | (intro _ _ _)
    | split

theorem State.strikeLanes_keeps {σ : State} (s : State) (slot kind : Nat) (hs : σ.keeps s) :
    σ.keeps (State.strikeLanes s slot kind) := by
  unfold State.strikeLanes
  repeat' first
    | with_reducible first
        | assumption | apply State.modPorts_keeps | apply State.abortJob_keeps | refine foldl_keeps _ _ _ ?_ ?_
    | (intro _ _ _)
    | split
    | (simp; done)

theorem State.runStrikes_keeps {σ : State} (s : State) (hs : σ.keeps s) :
    σ.keeps (State.runStrikes s) := by
  unfold State.runStrikes
  repeat' first
    | with_reducible first
        | assumption | apply State.strikeLanes_keeps | apply State.modTack_keeps | refine foldl_keeps _ _ _ ?_ ?_
    | (intro _ _ _)
    | (simp; done)

theorem State.dma_keeps {σ : State} (s : State) (p addr : Nat) (d : Bytes) (hs : σ.keeps s) :
    σ.keeps (State.dma s p addr d) := by
  unfold State.dma
  repeat' first
    | with_reducible first
        | assumption | apply State.emit_keeps | apply State.modPad_keeps | refine foldl_keeps _ _ _ ?_ ?_
    | (intro _ _ _)
    | split
    | (dsimp only)

theorem State.nextExport_keeps {σ : State} (s : State) (p : Nat) (hs : σ.keeps s) : σ.keeps ((State.nextExport s p).2)
    := by
  unfold State.nextExport
  repeat' first
    | with_reducible first
        | assumption | apply State.modPmem_keeps | apply State.modPmem_keeps | refine ite_keeps ?_ ?_
        | refine ite_keeps_snd ?_ ?_
    | (intro _ _ _) | (intro _ _) | split | (simp; done) | (dsimp only)

theorem State.hamperDone_keeps {σ : State} (s : State) (h : Job) (hs : σ.keeps s) :
    σ.keeps (State.hamperDone s h) := by
  unfold State.hamperDone
  repeat' first
    | with_reducible first
        | assumption | apply State.dropJob_keeps | apply State.nextExport_keeps | apply State.dma_keeps
        | apply State.modStream_keeps | apply State.modYard_keeps | apply State.latch_keeps
        | apply State.closeStream_keeps | apply State.endJob_keeps
    | split
    | (dsimp only)

theorem State.addHamper_keeps {σ : State} (s : State) (j : Job) (handle : Nat) (out : Bool) (hs : σ.keeps s) :
    σ.keeps (State.addHamper s j handle out) := by
  unfold State.addHamper
  repeat' with_reducible first
      | assumption | apply State.modJobs_keeps | apply State.modNextJob_keeps

theorem State.startHamper_keeps {σ : State} (s : State) (j : Job) (hs : σ.keeps s) :
    σ.keeps (State.startHamper s j) := by
  unfold State.startHamper
  repeat' first
    | with_reducible first
        | assumption | apply State.endJob_keeps | apply State.addHamper_keeps | refine ite_keeps ?_ ?_
    | split

theorem State.maskProgram_keeps {σ : State} (s : State) (lane : Nat) (hs : σ.keeps s) : σ.keeps (State.maskProgram s
    lane) := by
  unfold State.maskProgram
  repeat' first
    | with_reducible first
        | assumption | apply State.modYard_keeps | apply State.modTack_keeps | apply State.modYard_keeps
        | apply State.modTack_keeps | refine ite_keeps ?_ ?_
    | (intro _ _ _) | split | (simp; done) | (dsimp only)

theorem State.seedMasks_keeps {σ : State} (s : State) (hs : σ.keeps s) : σ.keeps (State.seedMasks s) := by
  unfold State.seedMasks
  repeat' first
    | with_reducible first
        | assumption | apply State.modYard_keeps | apply State.modTack_keeps | apply State.modYard_keeps
        | apply State.modTack_keeps | refine ite_keeps ?_ ?_
    | (intro _ _ _) | split | (simp; done) | (dsimp only)

theorem State.onLane_keeps {σ : State} (s : State) (j : Job) (lane : Nat) (load : List Nat) (hs : σ.keeps s) : σ.keeps
    (State.onLane s j lane load) := by
  unfold State.onLane
  repeat' first
    | with_reducible first
        | assumption | apply State.maskProgram_keeps | apply State.modLane_keeps | apply State.modJob_keeps
        | apply State.modWindow_keeps | apply State.modYard_keeps | apply State.modYard_keeps | refine ite_keeps ?_ ?_
    | (intro _ _ _) | split | (simp; done) | (dsimp only)

theorem State.offer_keeps {σ : State} (s : State) (j : Job) (lane : Nat) (hamper : Bytes) (hs : σ.keeps s) :
    σ.keeps (s.offer j lane hamper) := by
  unfold State.offer
  repeat' first
    | with_reducible first
        | assumption | apply State.onLane_keeps | apply State.failLoad_keeps | apply State.dropJob_keeps
        | apply State.modJob_keeps | exact State.firstLoad_keeps (p := (_, _, _)) (by assumption) hs
    | split
    | (dsimp only)

theorem State.devOnLane_keeps {σ : State} (s : State) (d : DevJob) (lane : Nat) (hs : σ.keeps s) : σ.keeps
    (State.devOnLane s d lane) := by
  unfold State.devOnLane
  repeat' first
    | with_reducible first
        | assumption | apply State.modLog_keeps | apply State.maskProgram_keeps | apply State.modLane_keeps
        | apply State.modDev_keeps | apply State.modLog_keeps | refine ite_keeps ?_ ?_
    | (intro _ _ _) | split | (simp; done) | (dsimp only)

theorem State.anyJob_keeps {σ s : State} {cls : Nat} {kind : LaneKind} {p : Job × State} (h : s.anyJob cls kind = some
    p)
    (hs : σ.keeps s) : σ.keeps p.2 := by
  unfold State.anyJob at h
  dsimp only at h
  split at h
  · cases h
  · obtain ⟨j, -, rfl⟩ := Option.map_eq_some_iff.mp h
    exact State.modYard_keeps _ rfl hs

theorem State.dispatchLane_keeps {σ : State} (s : State) (lane : Nat) (hamper : Option Bytes) (hs : σ.keeps s) :
    σ.keeps (s.dispatchLane lane hamper) := by
  unfold State.dispatchLane
  extract_lets l kind e fit q
  have hq : ∀ j s', q = some (j, s') → σ.keeps s' := by
    intro j s' h
    unfold q at h
    repeat' (first
      | (cases h; done)
      | (cases h; exact hs)
      | exact State.anyJob_keeps h hs
      | split at h)
  split
  · exact hs
  · split
    · exact State.devOnLane_keeps _ _ _ hs
    · split
      · exact hs
      · split
        · split
          · exact State.devOnLane_keeps _ _ _ hs
          · exact hs
        · clear_value q
          rcases q with _ | ⟨j, s'⟩
          · dsimp only
            split
            · exact State.devOnLane_keeps _ _ _ hs
            · exact hs
          · have h1 := hq j s' rfl
            dsimp only
            split
            · exact hs
            · exact State.offer_keeps _ _ _ _ h1

theorem State.dispatchAll_keeps {σ : State} (s : State) (hs : σ.keeps s) :
    σ.keeps (State.dispatchAll s) := by
  unfold State.dispatchAll
  repeat' first
    | with_reducible first
        | assumption | apply State.dispatchLane_keeps | refine foldl_keeps _ _ _ ?_ ?_
    | (intro _ _ _)

theorem State.sweepStep_keeps {σ : State} (s : State) (k : Nat) (hs : σ.keeps s) :
    σ.keeps (State.sweepStep s k) := by
  unfold State.sweepStep
  repeat' first
    | with_reducible first
        | assumption | apply State.revokeKey_keeps | apply State.modTack_keeps | refine foldl_keeps _ _ _ ?_ ?_
    | (intro _ _ _)
    | split
    | (simp; done)

theorem State.stepAll_keeps {σ : State} (s : State) (hs : σ.keeps s) : σ.keeps (State.stepAll s) := by
  unfold State.stepAll
  repeat' first
    | with_reducible first
        | assumption | apply State.modJobs_keeps | apply State.modDevJobs_keeps | apply State.modJobs_keeps
        | apply State.modDevJobs_keeps | refine ite_keeps ?_ ?_
    | (intro _ _ _) | (intro _ _) | split | (simp; done) | (dsimp only)

theorem State.sweepSteps_keeps {σ : State} (s : State) (before : List DevJob) (hs : σ.keeps s) :
    σ.keeps (State.sweepSteps s before) := by
  unfold State.sweepSteps
  repeat' first
    | with_reducible first
        | assumption | apply State.modTack_keeps | apply State.sweepStep_keeps | refine foldl_keeps _ _ _ ?_ ?_
        | refine ite_keeps ?_ ?_
    | (intro _ _ _)
    | (simp; done)

theorem State.endSteps_keeps {σ : State} (s : State) (hs : σ.keeps s) :
    σ.keeps (State.endSteps s) := by
  unfold State.endSteps
  repeat' first
    | with_reducible first
        | assumption | apply State.modYard_keeps | apply State.modLane_keeps | apply State.modJob_keeps
        | apply State.modStream_keeps | apply State.hamperDone_keeps | apply State.modDev_keeps
        | refine foldl_keeps _ _ _ ?_ ?_
    | (intro _ _ _)
    | split
    | (simp; done)

theorem State.latchPair_keeps {σ : State} (s : State) (lane : Nat) (hs : σ.keeps s) :
    σ.keeps (State.latchPair s lane) := by
  unfold State.latchPair
  repeat' with_reducible first
      | assumption | apply State.latch_keeps | refine ite_keeps ?_ ?_

theorem State.countFault_keeps {σ : State} (s : State) (hs : σ.keeps s) :
    σ.keeps (State.countFault s) := by
  unfold State.countFault
  repeat' first
    | with_reducible first
        | assumption | apply State.modYard_keeps | apply State.monDetect_keeps | refine ite_keeps ?_ ?_
    | (simp; done)

theorem State.quarantinePair_keeps {σ : State} (s : State) (lane : Nat) (hs : σ.keeps s) :
    σ.keeps (State.quarantinePair s lane) := by
  unfold State.quarantinePair
  repeat' with_reducible first
      | assumption | apply State.countFault_keeps | apply State.modLane_keeps | apply State.latchPair_keeps
      | apply State.ev_keeps | apply State.addDev_keeps | refine ite_keeps ?_ ?_

theorem State.loadLanes_keeps {σ : State} (s : State) (hs : σ.keeps s) : σ.keeps (State.loadLanes s) := by
  unfold State.loadLanes
  repeat' first
    | with_reducible first
        | assumption | apply State.modYard_keeps | apply State.modYard_keeps | refine ite_keeps ?_ ?_
    | (intro _ _ _) | split | (simp; done) | (dsimp only)

theorem State.drainKey_keeps {σ : State} (s : State) (k : Key) (timeout : Nat) (hs : σ.keeps s) :
    σ.keeps (State.drainKey s k timeout) := by
  unfold State.drainKey
  repeat' first
    | with_reducible first
        | assumption | apply State.tellStack_keeps | apply State.modTack_keeps
    | (simp; done)

theorem State.changeKey_keeps {σ : State} (s : State) (code : Nat) (k : Key) (timeout n : Nat) (hs : σ.keeps s) :
    σ.keeps (State.changeKey s code k timeout n) := by
  unfold State.changeKey
  repeat' with_reducible first
      | assumption | apply State.revokeKey_keeps | apply State.eraseKey_keeps | apply State.rewriteKey_keeps
      | apply State.replicate_keeps | apply State.drainKey_keeps | refine ite_keeps ?_ ?_

theorem State.overQuota_keeps {σ : State} (s : State) (p : Nat) (hs : σ.keeps s) :
    σ.keeps (State.overQuota s p) := by
  unfold State.overQuota
  repeat' first
    | with_reducible first
        | assumption | apply State.latch_keeps
    | split

theorem State.runCommand_keeps {σ : State} (s : State) (c : KeyCmd) (hs : σ.keeps s) : σ.keeps (s.runCommand c).2 := by
  unfold State.runCommand
  repeat' first
    | with_reducible first
        | assumption | apply State.overQuota_keeps | apply State.changeKey_keeps
        | exact State.addKey_keeps (p := (_, _)) (by assumption) hs
    | (refine State.modTack_keeps _ rfl ?_)
    | split

theorem State.acceptOne_keeps {σ : State} (s : State) (f : FrontDesc) (hs : σ.keeps s) : σ.keeps (State.acceptOne s f)
    := by
  unfold State.acceptOne
  repeat' first
    | with_reducible first
        | assumption | apply State.modNextJob_keeps | apply State.modPad_keeps | apply State.modJobs_keeps
        | apply State.endJob_keeps | apply State.modJob_keeps | apply State.emit_keeps | apply State.modPci_keeps
        | apply State.modNextJob_keeps | apply State.modJobs_keeps | apply State.modPci_keeps
        | refine foldl_keeps _ _ _ ?_ ?_ | refine ite_keeps ?_ ?_ | refine ite_keeps_fst ?_ ?_
        | refine ite_keeps_snd ?_ ?_
    | (intro _ _ _) | split | (simp; done) | (dsimp only)

theorem State.acceptSome_keeps {σ : State} (n : Nat) (s : State) (hs : σ.keeps s) : σ.keeps (State.acceptSome n s) := by
  induction n generalizing s with
  | zero => exact hs
  | succ n ih =>
    unfold State.acceptSome
    split
    · split
      · exact hs
      · exact ih _ (State.acceptOne_keeps _ _ (State.modPci_keeps _ hs))
    · exact hs

theorem State.acceptFront_keeps {σ : State} (s : State) (hs : σ.keeps s) :
    σ.keeps (State.acceptFront s) := by
  unfold State.acceptFront
  repeat' with_reducible first
      | assumption | apply State.acceptSome_keeps

theorem State.splitBatch_keeps {σ : State} (s : State) (b : Job) (hs : σ.keeps s) :
    σ.keeps (State.splitBatch s b) := by
  unfold State.splitBatch
  repeat' with_reducible first
      | assumption | apply State.modJobs_keeps

theorem State.arrive_keeps {σ : State} (s : State) (id : Nat) (data : Option Bytes) (hs : σ.keeps s) :
    σ.keeps (State.arrive s id data) := by
  unfold State.arrive
  repeat' first
    | with_reducible first
        | assumption | apply State.modPci_keeps | apply State.modJob_keeps | apply State.endJob_keeps
        | apply State.splitBatch_keeps | refine ite_keeps ?_ ?_
    | split

theorem State.settle_keeps {σ : State} (s : State) (id : Nat) (e : Ending) (hs : σ.keeps s) : σ.keeps (s.settle id e)
    := by
  unfold State.settle
  split
  · exact hs
  · extract_lets bad s1 waits s2
    have h1 : σ.keeps s1 := State.modYard_keeps _ rfl hs
    have h2 : σ.keeps s2 := State.modJob_keeps _ _ _ h1
    clear_value s1 s2
    split
    · exact State.batchCheck_keeps _ _ _ h2
    · exact h2

theorem State.endStep_keeps {σ : State} (s : State) (op id : Nat) (agree : Bool) (f : State → Job → State × Ending)
    (hf : ∀ j, σ.keeps (f s j).1) (hs : σ.keeps s) : σ.keeps (s.endStep op id agree f) := by
  unfold State.endStep
  split
  · exact hs
  · refine ite_keeps hs (ite_keeps (State.settle_keeps _ _ _ hs) (ite_keeps ?_ ?_))
    · exact State.settle_keeps _ _ _ (ite_keeps (State.closeStream_keeps _ _ _ hs) hs)
    · exact State.settle_keeps _ _ _ (hf _)

theorem State.endPlain_keeps {σ : State} (s : State) (op id : Nat) (agree : Bool) (f : Job → Ending) (hs : σ.keeps s) :
    σ.keeps (s.endPlain op id agree f) := State.endStep_keeps _ _ _ _ _ (fun _ => hs) hs

theorem State.endWith_keeps {σ : State} (s : State) (op id : Nat) (agree : Bool) (f : State → Job → Ending) (hs :
    σ.keeps s) :
    σ.keeps (s.endWith op id agree f) := State.endStep_keeps _ _ _ _ _ (fun _ => hs) hs

theorem State.updateEnd_keeps {σ : State} (s : State) (j : Job) (hs : σ.keeps s) :
    σ.keeps ((State.updateEnd s j).1) := by
  unfold State.updateEnd
  repeat' with_reducible first
      | assumption | apply State.modStream_keeps

theorem State.finalEnd_keeps {σ : State} (s : State) (j : Job) (hs : σ.keeps s) :
    σ.keeps ((State.finalEnd s j).1) := by
  unfold State.finalEnd
  repeat' with_reducible first
      | assumption | apply State.closeStream_keeps

theorem State.finalCompareEnd_keeps {σ : State} (s : State) (j : Job) (hs : σ.keeps s) : σ.keeps ((State.finalCompareEnd
    s j).1) := by
  unfold State.finalCompareEnd
  repeat' first
    | with_reducible first
        | assumption | apply State.closeStream_keeps | refine ite_keeps ?_ ?_ | refine ite_keeps_fst ?_ ?_
    | split | (simp; done) | (dsimp only)

theorem State.abandonEnd_keeps {σ : State} (s : State) (j : Job) (hs : σ.keeps s) :
    σ.keeps ((State.abandonEnd s j).1) := by
  unfold State.abandonEnd
  repeat' with_reducible first
      | assumption | apply State.closeStream_keeps

theorem State.jobApply_keeps {σ : State} (s : State) (id : Nat) (hs : σ.keeps s) : σ.keeps (s.jobApply id) := by
  unfold State.jobApply
  repeat' first
    | with_reducible first
        | assumption | apply State.modJob_keeps | apply State.overQuota_keeps | apply State.changeKey_keeps
        | exact State.addKeyAt_keeps (p := (_, _)) (by assumption) (fun _ e => State.jobPlace_mono e) hs
    | split
    | (dsimp only)

theorem State.countJob_keeps {σ : State} (s : State) (j : Job) (hs : σ.keeps s) :
    σ.keeps (State.countJob s j) := by
  unfold State.countJob
  repeat' first
    | with_reducible first
        | assumption | apply State.modYard_keeps | apply State.latch_keeps | refine ite_keeps ?_ ?_
    | (simp; done)

theorem State.writeCompletion_keeps {σ : State} (s : State) (j : Job) (hs : σ.keeps s) :
    σ.keeps (State.writeCompletion s j) := by
  unfold State.writeCompletion
  repeat' first
    | with_reducible first
        | assumption | apply State.dma_keeps | apply State.modPad_keeps
    | split

theorem State.complete_keeps {σ : State} (s : State) (j : Job) (hs : σ.keeps s) :
    σ.keeps (State.complete s j) := by
  unfold State.complete
  repeat' first
    | with_reducible first
        | assumption | apply State.countJob_keeps | apply State.writeCompletion_keeps | apply State.modWindow_keeps
        | apply State.linkSend_keeps | apply State.quarantinePair_keeps | apply State.modJobs_keeps
        | refine foldl_keeps _ _ _ ?_ ?_
    | split

theorem State.mboxAnswer_keeps {σ : State} (s : State) (b : Bytes) (hs : σ.keeps s) :
    σ.keeps (State.mboxAnswer s b) := by
  unfold State.mboxAnswer
  repeat' with_reducible first
      | assumption | apply State.modDmb_keeps

theorem State.sendReply_keeps {σ : State} (s : State) (c : Chan) (op seq sid : Nat) (r : Reply) (hs : σ.keeps s) :
    σ.keeps (State.sendReply s c op seq sid r) := by
  unfold State.sendReply
  repeat' first
    | with_reducible first
        | assumption | apply State.emit_keeps | apply State.inBand_keeps | apply State.mboxAnswer_keeps
        | refine ite_keeps ?_ ?_
    | split | (simp; done) | (dsimp only)

theorem State.modSession_keeps {σ : State} (s : State) (slot : Nat) (f : Sess → Sess) (hs : σ.keeps s) : σ.keeps
    (State.modSession s slot f) := by
  unfold State.modSession
  repeat' first
    | with_reducible first
        | assumption | apply State.modDict_keeps | apply State.modDict_keeps | refine ite_keeps ?_ ?_
    | (intro _ _ _) | (intro _ _) | split | (simp; done) | (dsimp only)

theorem State.answer_keeps {σ : State} (s : State) (slot : Nat) (r : Reply) (hs : σ.keeps s) :
    σ.keeps (State.answer s slot r) := by
  unfold State.answer
  repeat' first
    | with_reducible first
        | assumption | apply State.sendReply_keeps | apply State.modSession_keeps
    | split

end Sys2Proof.Machine
end

