-- ==== Sys2Proof/Laws/KeepsHost.lean ====
section
/-! SUPPORT. What the operations of Pads, Window, Rings, Attention keep. -/

set_option maxRecDepth 20000

namespace Sys2Proof.Machine

open Sys2Proof

theorem State.modRing_keeps {σ : State} (s : State) (p r : Nat) (f : Ring → Ring) (hs : σ.keeps s) :
    σ.keeps (State.modRing s p r f) := by
  unfold State.modRing
  repeat' with_reducible first
      | assumption | apply State.modPad_keeps

theorem State.refusePush_keeps {σ : State} (s : State) (p slot tag ring code : Nat) (hs : σ.keeps s) :
    σ.keeps (State.refusePush s p slot tag ring code) := by
  unfold State.refusePush
  repeat' with_reducible first
      | assumption | apply State.modPad_keeps | apply State.latch_keeps | refine ite_keeps ?_ ?_

theorem State.pushWrite_keeps {σ : State} (s : State) (p n off : Nat) (data : Bytes) (hs : σ.keeps s) : σ.keeps
    (State.pushWrite s p n off data) := by
  unfold State.pushWrite
  repeat' first
    | with_reducible first
        | assumption | apply State.modPad_keeps | apply State.refusePush_keeps | apply State.modPci_keeps
        | apply State.modPci_keeps | refine foldl_keeps _ _ _ ?_ ?_ | refine ite_keeps ?_ ?_
    | (intro _ _ _) | split | (simp; done) | (dsimp only)

theorem State.stopRing_keeps {σ : State} (s : State) (p r : Nat) (hs : σ.keeps s) :
    σ.keeps (State.stopRing s p r) := by
  unfold State.stopRing
  repeat' with_reducible first
      | assumption | apply State.modPad_keeps | apply State.latch_keeps

theorem State.fetchRing_keeps {σ : State} (s : State) (p r : Nat) (hs : σ.keeps s) :
    σ.keeps (State.fetchRing s p r) := by
  unfold State.fetchRing
  repeat' first
    | with_reducible first
        | assumption | apply State.emit_keeps | apply State.modRing_keeps | apply State.modPci_keeps
        | refine ite_keeps ?_ ?_
    | split

theorem State.fetchAll_keeps {σ : State} (s : State) (hs : σ.keeps s) :
    σ.keeps (State.fetchAll s) := by
  unfold State.fetchAll
  repeat' first
    | with_reducible first
        | assumption | apply State.fetchRing_keeps | refine foldl_keeps _ _ _ ?_ ?_
    | (intro _ _ _)

theorem State.writeTail_keeps {σ : State} (s : State) (p r v : Nat) (hs : σ.keeps s) :
    σ.keeps (State.writeTail s p r v) := by
  unfold State.writeTail
  repeat' first
    | with_reducible first
        | assumption | apply State.modRing_keeps | apply State.stopRing_keeps | apply State.fetchAll_keeps
        | refine ite_keeps ?_ ?_
    | split

theorem State.writeHead_keeps {σ : State} (s : State) (p r v : Nat) (hs : σ.keeps s) :
    σ.keeps (State.writeHead s p r v) := by
  unfold State.writeHead
  repeat' first
    | with_reducible first
        | assumption | apply State.modRing_keeps | apply State.stopRing_keeps | apply State.fetchAll_keeps
        | refine ite_keeps ?_ ?_
    | split

theorem State.enableRing_keeps {σ : State} (s : State) (p r : Nat) (hs : σ.keeps s) :
    σ.keeps (State.enableRing s p r) := by
  unfold State.enableRing
  repeat' first
    | with_reducible first
        | assumption | apply State.modRing_keeps | apply State.fetchAll_keeps | refine ite_keeps ?_ ?_
    | split

theorem State.disableRing_keeps {σ : State} (s : State) (p r : Nat) (hs : σ.keeps s) :
    σ.keeps (State.disableRing s p r) := by
  unfold State.disableRing
  repeat' first
    | with_reducible first
        | assumption | apply State.modRing_keeps
    | split

theorem State.dropRead_keeps {σ : State} (s : State) (tag : Nat) (hs : σ.keeps s) :
    σ.keeps (State.dropRead s tag) := by
  unfold State.dropRead
  repeat' with_reducible first
      | assumption | apply State.modPci_keeps

theorem State.fetchDone_keeps {σ : State} (s : State) (tag : Nat) (data : Option Bytes) (hs : σ.keeps s) :
    σ.keeps (State.fetchDone s tag data) := by
  unfold State.fetchDone
  repeat' first
    | with_reducible first
        | assumption | apply State.dropRead_keeps | apply State.modPci_keeps | apply State.modRing_keeps
        | apply State.stopRing_keeps
    | split

theorem State.resetPad_keeps {σ : State} (s : State) (p : Nat) (hs : σ.keeps s) :
    σ.keeps (State.resetPad s p) := by
  unfold State.resetPad
  repeat' first
    | with_reducible first
        | assumption | apply State.modPmem_keeps | apply State.modPad_keeps | apply State.modPci_keeps
        | apply State.latch_keeps
    | split

theorem State.strikePad_keeps {σ : State} (s : State) (p : Nat) (hs : σ.keeps s) :
    σ.keeps (State.strikePad s p) := by
  unfold State.strikePad
  repeat' first
    | with_reducible first
        | assumption | apply State.deriveHamper_keeps | apply State.linkSend_keeps | apply State.modCas_keeps | apply State.abortJob_keeps
        | apply State.modPad_keeps | refine foldl_keeps _ _ _ ?_ ?_ | refine ite_keeps ?_ ?_ 
    | (intro _ _ _)
    | split

theorem State.strikePads_keeps {σ : State} (s : State) (hs : σ.keeps s) :
    σ.keeps (State.strikePads s) := by
  unfold State.strikePads
  repeat' first
    | with_reducible first
        | assumption | apply State.strikePad_keeps | refine foldl_keeps _ _ _ ?_ ?_
    | (intro _ _ _)
    | split

theorem State.windowReset_keeps {σ : State} (s : State) (hs : σ.keeps s) :
    σ.keeps (State.windowReset s) := by
  unfold State.windowReset
  repeat' first
    | with_reducible first
        | assumption | apply State.abortJob_keeps | apply State.modRdw_keeps
    | split

theorem State.resetPads_keeps {σ : State} (s : State) (l : List Nat) (hs : σ.keeps s) :
    σ.keeps (State.resetPads s l) := by
  unfold State.resetPads
  repeat' first
    | with_reducible first
        | assumption | apply State.windowReset_keeps | apply State.resetPad_keeps | refine foldl_keeps _ _ _ ?_ ?_
        | refine ite_keeps ?_ ?_
    | (intro _ _ _)

theorem State.eraseOwned_keeps {σ : State} (s : State) (p : Nat) (hs : σ.keeps s) :
    σ.keeps (State.eraseOwned s p) := by
  unfold State.eraseOwned
  repeat' first
    | with_reducible first
        | assumption | apply State.eraseKey_keeps | refine foldl_keeps _ _ _ ?_ ?_ | refine ite_keeps ?_ ?_
    | (intro _ _ _)

theorem State.mgrEnd_keeps {σ : State} (s : State) (who : Nat) (res : Bytes) (hs : σ.keeps s) :
    σ.keeps (State.mgrEnd s who res) := by
  unfold State.mgrEnd
  repeat' with_reducible first
      | assumption | apply State.latch_keeps | apply State.modPci_keeps | apply State.linkSend_keeps
      | apply State.answer_keeps | refine ite_keeps ?_ ?_

theorem State.dropPad_keeps {σ : State} (s : State) (p : Nat) (hs : σ.keeps s) :
    σ.keeps (State.dropPad s p) := by
  unfold State.dropPad
  repeat' with_reducible first
      | assumption | apply State.modPads_keeps

theorem State.mgrApply_keeps {σ : State} (s : State) (c : Bytes) (who : Nat) (hs : σ.keeps s) :
    σ.keeps (State.mgrApply s c who) := by
  unfold State.mgrApply
  repeat' first
    | with_reducible first
        | assumption | apply State.deriveHamper_keeps | apply State.dropHamper_keeps | apply State.mgrEnd_keeps | apply State.modPads_keeps | apply State.modPad_keeps
        | apply State.overQuota_keeps | apply State.resetPads_keeps | apply State.eraseOwned_keeps
        | apply State.resetPad_keeps | apply State.dropPad_keeps | apply State.latch_keeps | refine ite_keeps ?_ ?_
    | split

theorem State.mgrRefuse_keeps {σ : State} (s : State) (c : Bytes) (who e : Nat) (hs : σ.keeps s) :
    σ.keeps (State.mgrRefuse s c who e) := by
  unfold State.mgrRefuse
  repeat' with_reducible first
      | assumption | apply State.mgrEnd_keeps

theorem State.resetDone_keeps {σ : State} (s : State) (p : Nat) (hs : σ.keeps s) :
    σ.keeps (State.resetDone s p) := by
  unfold State.resetDone
  repeat' first
    | with_reducible first
        | assumption | apply State.modPad_keeps | apply State.latch_keeps | apply State.dropPad_keeps
        | apply State.mgrEnd_keeps | refine foldl_keeps _ _ _ ?_ ?_
    | (intro _ _ _)
    | split

theorem State.presence_keeps {σ : State} (s : State) (p : Nat) (hs : σ.keeps s) :
    σ.keeps (State.presence s p) := by
  unfold State.presence
  repeat' first
    | with_reducible first
        | assumption | apply State.deriveHamper_keeps | apply State.modPad_keeps | apply State.resetPad_keeps
    | split

theorem State.pfMailboxes_keeps {σ : State} (s : State) (hs : σ.keeps s) :
    σ.keeps (State.pfMailboxes s) := by
  unfold State.pfMailboxes
  repeat' first
    | with_reducible first
        | assumption | apply State.abortJob_keeps | apply State.modRdw_keeps | apply State.modPci_keeps
        | apply State.modDmb_keeps | apply State.modCore_keeps
    | split

theorem State.windowDrop_keeps {σ : State} (s : State) (w : Bool) (hs : σ.keeps s) :
    σ.keeps (State.windowDrop s w) := by
  unfold State.windowDrop
  repeat' first
    | with_reducible first
        | assumption | apply State.abortJob_keeps | apply State.modWindow_keeps
    | split

theorem State.windowFail_keeps {σ : State} (s : State) (w : Bool) (code : Nat) (hs : σ.keeps s) :
    σ.keeps (State.windowFail s w code) := by
  unfold State.windowFail
  repeat' with_reducible first
      | assumption | apply State.windowDrop_keeps | apply State.modWindow_keeps

theorem State.windowJob_keeps {σ : State} (s : State) (w : Bool) (hs : σ.keeps s) : σ.keeps (State.windowJob s w) := by
  unfold State.windowJob
  repeat' first
    | with_reducible first
        | assumption | apply State.modJobs_keeps | apply State.modNextJob_keeps | apply State.modWindow_keeps
        | apply State.modJobs_keeps | apply State.modNextJob_keeps | refine ite_keeps ?_ ?_
    | (intro _ _ _) | (intro _ _) | split | (simp; done) | (dsimp only)

theorem State.windowEnd_keeps {σ : State} (s : State) (w : Bool) (hs : σ.keeps s) :
    σ.keeps (State.windowEnd s w) := by
  unfold State.windowEnd
  repeat' first
    | with_reducible first
        | assumption | apply State.modWindow_keeps | apply State.modJob_keeps | apply State.windowJob_keeps
        | refine ite_keeps ?_ ?_
    | split

theorem State.windowStart_keeps {σ : State} (s : State) (w : Bool) (ctrl : Nat) (hs : σ.keeps s) :
    σ.keeps (State.windowStart s w ctrl) := by
  unfold State.windowStart
  repeat' with_reducible first
      | assumption | apply State.windowDrop_keeps | apply State.modWindow_keeps | apply State.windowEnd_keeps
      | apply State.windowJob_keeps | refine ite_keeps ?_ ?_

theorem State.windowWord_keeps {σ : State} (s : State) (w high : Bool) (b : Bytes) (hs : σ.keeps s) :
    σ.keeps ((State.windowWord s w high b).1) := by
  unfold State.windowWord
  repeat' with_reducible first
      | assumption | apply State.modWindow_keeps | refine ite_keeps_fst ?_ ?_

theorem State.windowData_keeps {σ : State} (s : State) (w high : Bool) (b : Bytes) (hs : σ.keeps s) :
    σ.keeps (s.windowData w high b) := by
  have h := State.windowWord_keeps s w high b hs
  unfold State.windowData
  split
  · exact hs
  · split
    · next e => rw [e] at h; exact h
    · next e =>
      rw [e] at h
      exact ite_keeps (State.modWindow_keeps _ _ _ h) (State.windowFail_keeps _ _ _ h)

theorem State.windowLast_keeps {σ : State} (s : State) (w high : Bool) (b : Bytes) (hs : σ.keeps s) :
    σ.keeps (s.windowLast w high b) := by
  have h := State.windowWord_keeps s w high b hs
  unfold State.windowLast
  split
  · exact hs
  · split
    · next e => rw [e] at h; exact h
    · next e =>
      rw [e] at h
      exact ite_keeps (State.windowFail_keeps _ _ _ h) (ite_keeps (State.windowFail_keeps _ _ _ h)
        (ite_keeps (State.windowFail_keeps _ _ _ h) (State.windowEnd_keeps _ _ (State.modWindow_keeps _ _ _ h))))

theorem State.serveFront_keeps {σ : State} (s : State) (hs : σ.keeps s) :
    σ.keeps (State.serveFront s) := by
  unfold State.serveFront
  repeat' with_reducible first
      | assumption | apply State.acceptFront_keeps | apply State.fetchAll_keeps

theorem State.msixReset_keeps {σ : State} (s : State) (fn : Nat) (hs : σ.keeps s) :
    σ.keeps (State.msixReset s fn) := by
  unfold State.msixReset
  repeat' first
    | with_reducible first
        | assumption | apply State.modAtn_keeps
    | (simp; done)

theorem State.hotReset_keeps {σ : State} (s : State) (hs : σ.keeps s) :
    σ.keeps (State.hotReset s) := by
  unfold State.hotReset
  repeat' with_reducible first
      | assumption | apply State.pfMailboxes_keeps | apply State.latch_keeps | apply State.resetPads_keeps
      | apply State.msixReset_keeps | refine foldl_keeps _ _ _ ?_ ?_

theorem State.setMsix_keeps {σ : State} (s : State) (key : Nat) (e : Bytes) (hs : σ.keeps s) : σ.keeps (State.setMsix s
    key e) := by
  unfold State.setMsix
  repeat' first
    | with_reducible first
        | assumption | apply State.modAtn_keeps | apply State.modAtn_keeps | refine ite_keeps ?_ ?_
    | (intro _ _ _) | (intro _ _) | split | (simp; done) | (dsimp only)

theorem State.sendMsix_keeps {σ : State} (s : State) (fn vector : Nat) (hs : σ.keeps s) :
    σ.keeps (State.sendMsix s fn vector) := by
  unfold State.sendMsix
  repeat' first
    | with_reducible first
        | assumption | apply State.emit_keeps | apply State.modAtn_keeps | refine ite_keeps ?_ ?_
    | (simp; done)

theorem State.atnBoundary_keeps {σ : State} (s : State) (hs : σ.keeps s) : σ.keeps s.atnBoundary := by
  have key : ∀ (l : List (Nat × BitVec 16)) (m : List (BitVec 16)),
      (l.foldl (fun l e => updAt l e.1 (fun _ => e.2)) m).length = m.length := by
    intro l
    induction l with
    | nil => intro m; rfl
    | cons x l ih => intro m; rw [List.foldl_cons, ih, updAt_length]
  unfold State.atnBoundary
  extract_lets up rise again s1 s2
  have h1 : s.shaped → s1.sizes = s.sizes := by
    intro k
    have k1 := k.1
    simp only [State.sizes, List.cons.injEq, and_true] at k1
    simp only [s1, State.sizes, State.modAtn, key, List.length_replicate, k1]
  have h1' : σ.keeps s1 := keeps_of_same hs rfl rfl h1 rfl rfl
  have h2 : σ.keeps s2 := ite_keeps (State.sendMsix_keeps _ _ _ h1') h1'
  exact ite_keeps (State.sendMsix_keeps _ _ _ h2) h2

theorem State.padMessages_keeps {σ : State} (s : State) (hs : σ.keeps s) :
    σ.keeps (State.padMessages s) := by
  unfold State.padMessages
  repeat' first
    | with_reducible first
        | assumption | apply State.sendMsix_keeps | apply State.modPad_keeps | refine foldl_keeps _ _ _ ?_ ?_
        | refine ite_keeps ?_ ?_
    | (intro _ _ _)

theorem State.writeEnable_keeps {σ : State} (s : State) (g v : Nat) (hs : σ.keeps s) :
    σ.keeps (State.writeEnable s g v) := by
  unfold State.writeEnable
  repeat' first
    | with_reducible first
        | assumption | apply State.modAtn_keeps | apply State.logEv_keeps
    | (simp; done)

end Sys2Proof.Machine
end

