-- ==== Sys2Proof/Laws/KeepsDevice.lean ====
section
/-! SUPPORT. What the operations of Switch, Monitors, Sess, Partners, Responder, Sleep, Cascade, Lifecycle keep. -/

set_option maxRecDepth 20000

namespace Sys2Proof.Machine

open Sys2Proof

theorem State.discardSwitch_keeps {σ : State} (s : State) (hs : σ.keeps s) :
    σ.keeps (State.discardSwitch s) := by
  unfold State.discardSwitch
  repeat' first
    | with_reducible first
        | assumption | apply State.modYard_keeps | apply State.ev_keeps
    | split
    | (simp; done)

theorem State.activate_keeps {σ : State} (s : State) (sheet base : Nat) (safe : Bool) (hs : σ.keeps s) :
    σ.keeps (State.activate s sheet base safe) := by
  unfold State.activate
  repeat' first
    | with_reducible first
        | assumption | apply State.discardSwitch_keeps | apply State.modYard_keeps | apply State.latch_keeps
        | apply State.linkSend_keeps | apply State.ev_keeps | refine foldl_keeps _ _ _ ?_ ?_ | refine ite_keeps ?_ ?_
    | (intro _ _ _)
    | (simp; done)

theorem State.takeSwitch_keeps {σ : State} (s : State) (f : Nat) (hs : σ.keeps s) :
    σ.keeps (State.takeSwitch s f) := by
  unfold State.takeSwitch
  repeat' first
    | with_reducible first
        | assumption | apply State.modCas_keeps | apply State.activate_keeps
    | split

theorem State.makeSafeDue_keeps {σ : State} (s : State) (hs : σ.keeps s) :
    σ.keeps (State.makeSafeDue s) := by
  unfold State.makeSafeDue
  repeat' first
    | with_reducible first
        | assumption | apply State.modYard_keeps | refine ite_keeps ?_ ?_
    | (simp; done)

theorem State.classT_keeps {σ : State} (s : State) (hs : σ.keeps s) :
    σ.keeps (State.classT s) := by
  unfold State.classT
  repeat' with_reducible first
      | assumption | apply State.linkSend_keeps | apply State.makeSafeDue_keeps | refine ite_keeps ?_ ?_

theorem State.alarmRespond_keeps {σ : State} (s : State) (hs : σ.keeps s) :
    σ.keeps (State.alarmRespond s) := by
  unfold State.alarmRespond
  repeat' first
    | with_reducible first
        | assumption | apply State.modMon_keeps | apply State.beginAlarmHold_keeps | apply State.classT_keeps
        | apply State.modCore_keeps | apply State.setOp_keeps | apply State.modSup_keeps | refine ite_keeps ?_ ?_
    | split
    | (simp; done)

theorem State.clearMonitors_keeps {σ : State} (s : State) (m : BitVec 24) (hs : σ.keeps s) :
    σ.keeps (State.clearMonitors s m) := by
  unfold State.clearMonitors
  repeat' first
    | with_reducible first
        | assumption | apply State.modMon_keeps
    | (simp; done)

theorem State.beginTest_keeps {σ : State} (s : State) (n : Nat) (hs : σ.keeps s) :
    σ.keeps (State.beginTest s n) := by
  unfold State.beginTest
  repeat' first
    | with_reducible first
        | assumption | apply State.modMon_keeps
    | (simp; done)

theorem State.backupDetect_keeps {σ : State} (s : State) (n : Nat) (hs : σ.keeps s) :
    σ.keeps (State.backupDetect s n) := by
  unfold State.backupDetect
  repeat' first
    | with_reducible first
        | assumption | apply State.modMon_keeps | apply State.modTack_keeps | apply State.modPwr_keeps
        | refine ite_keeps ?_ ?_
    | (simp; done)

theorem State.latchLane_keeps {σ : State} (s : State) (n : Nat) (hs : σ.keeps s) :
    σ.keeps (State.latchLane s n) := by
  unfold State.latchLane
  repeat' with_reducible first
      | assumption | apply State.latch_keeps | refine ite_keeps ?_ ?_

theorem State.freshId_keeps {σ : State} (s : State) (len : Nat) (barred : Nat → Bool) (bars : Nat) (hs : σ.keeps s) :
    σ.keeps ((State.freshId s len barred bars).2) := by
  unfold State.freshId
  repeat' first
    | with_reducible first
        | assumption | apply State.modTack_keeps
    | split
    | (dsimp only)

theorem State.endSession_keeps {σ : State} (s : State) (x : Sess) (hs : σ.keeps s) :
    σ.keeps (State.endSession s x) := by
  unfold State.endSession
  repeat' with_reducible first
      | assumption | apply State.modDict_keeps | apply State.latch_keeps | apply State.logEv_keeps
      | refine ite_keeps ?_ ?_

theorem State.endSessions_keeps {σ : State} (s : State) (p : Sess → Bool) (hs : σ.keeps s) :
    σ.keeps (State.endSessions s p) := by
  unfold State.endSessions
  repeat' with_reducible first
      | assumption | apply State.endSession_keeps | refine foldl_keeps _ _ _ ?_ ?_

theorem State.endChannel_keeps {σ : State} (s : State) (c : Chan) (hs : σ.keeps s) :
    σ.keeps (State.endChannel s c) := by
  unfold State.endChannel
  repeat' with_reducible first
      | assumption | apply State.endSessions_keeps | apply State.modDict_keeps

theorem State.endSpdm_keeps {σ : State} (s : State) (x : SpdmSess) (hs : σ.keeps s) :
    σ.keeps (State.endSpdm s x) := by
  unfold State.endSpdm
  repeat' first
    | with_reducible first
        | assumption | apply State.modPar_keeps | apply State.endChannel_keeps | apply State.ev_keeps
        | refine ite_keeps ?_ ?_
    | (simp; done)

theorem State.endDtls_keeps {σ : State} (s : State) (c : Dtls) (hs : σ.keeps s) :
    σ.keeps (State.endDtls s c) := by
  unfold State.endDtls
  repeat' with_reducible first
      | assumption | apply State.modDict_keeps | apply State.endChannel_keeps

theorem State.modPartner_keeps {σ : State} (s : State) (k : Nat) (f : Partner → Partner) (hs : σ.keeps s) :
    σ.keeps (State.modPartner s k f) := by
  unfold State.modPartner
  repeat' first
    | with_reducible first
        | assumption | apply State.modPar_keeps
    | (simp; done)

theorem State.restTag_keeps {σ : State} (s : State) (k t : Nat) (hs : σ.keeps s) : σ.keeps (State.restTag s k t) := by
  unfold State.restTag
  repeat' first
    | with_reducible first
        | assumption | apply State.modPar_keeps | apply State.modPar_keeps
    | (intro _ _ _) | (simp; done) | (dsimp only)

theorem State.ctrlReq_keeps {σ : State} (s : State) (k cmd : Nat) (d : Bytes) (hs : σ.keeps s) : σ.keeps (State.ctrlReq
    s k cmd d) := by
  unfold State.ctrlReq
  repeat' first
    | with_reducible first
        | assumption | apply State.modPartner_keeps | apply State.mctpSend_keeps
    | (intro _ _ _) | split | (simp; done) | (dsimp only)

theorem State.sendReq_keeps {σ : State} (s : State) (k : Nat) (hs : σ.keeps s) : σ.keeps (State.sendReq s k) := by
  unfold State.sendReq
  repeat' first
    | with_reducible first
        | assumption | apply State.modPartner_keeps | apply State.emit_keeps | refine ite_keeps ?_ ?_
    | (intro _ _ _) | (intro _ _) | split | (simp; done) | (dsimp only)

theorem State.endOwnSession_keeps {σ : State} (s : State) (k : Nat) (hs : σ.keeps s) : σ.keeps (State.endOwnSession s k)
    := by
  unfold State.endOwnSession
  repeat' first
    | with_reducible first
        | assumption | apply State.modPar_keeps | apply State.modPartner_keeps | apply State.ev_keeps
        | apply State.modPar_keeps | refine ite_keeps ?_ ?_
    | (intro _ _ _) | split | (simp; done) | (dsimp only)

theorem State.stopAttest_keeps {σ : State} (s : State) (k : Nat) (hs : σ.keeps s) : σ.keeps (State.stopAttest s k) := by
  unfold State.stopAttest
  repeat' first
    | with_reducible first
        | assumption | apply State.endOwnSession_keeps | apply State.dropWhat_keeps | apply State.modPartner_keeps
    | (intro _ _ _) | (simp; done) | (dsimp only)

theorem State.toStep_keeps {σ : State} (s : State) (k n : Nat) (hs : σ.keeps s) : σ.keeps (State.toStep s k n) := by
  unfold State.toStep
  repeat' first
    | with_reducible first
        | assumption | apply State.modPartner_keeps | apply State.freshId_keeps | apply State.sendReq_keeps
        | refine ite_keeps ?_ ?_ | refine ite_keeps_fst ?_ ?_ | refine ite_keeps_snd ?_ ?_
    | (intro _ _ _) | split | (simp; done) | (dsimp only)

theorem State.attest_keeps {σ : State} (s : State) (k : Nat) (again : Bool) (hs : σ.keeps s) : σ.keeps (State.attest s k
    again) := by
  unfold State.attest
  repeat' first
    | with_reducible first
        | assumption | apply State.stopAttest_keeps | apply State.modPartner_keeps | apply State.toStep_keeps
    | (intro _ _ _) | (simp; done) | (dsimp only)

theorem State.latchEntry_keeps {σ : State} (s : State) (k : Nat) (hs : σ.keeps s) :
    σ.keeps (State.latchEntry s k) := by
  unfold State.latchEntry
  repeat' with_reducible first
      | assumption | apply State.latch_keeps

theorem State.partnerVerdict_keeps {σ : State} (s : State) (k : Nat) (reason : Nat) (hs : σ.keeps s) :
    σ.keeps (State.partnerVerdict s k reason) := by
  unfold State.partnerVerdict
  repeat' with_reducible first
      | assumption | apply State.modPartner_keeps | apply State.latch_keeps | apply State.latchEntry_keeps
      | apply State.logEv_keeps | refine ite_keeps ?_ ?_

theorem State.compareEntry_keeps {σ : State} (s : State) (k : Nat) (hs : σ.keeps s) : σ.keeps (State.compareEntry s k)
    := by
  unfold State.compareEntry
  repeat' first
    | with_reducible first
        | assumption | apply State.partnerVerdict_keeps | refine ite_keeps ?_ ?_
    | split | (simp; done) | (dsimp only)

theorem State.checkJob_keeps {σ : State} (s : State) (k left : Nat) (payload : Bytes) (ok : Bool) (session : Nat) (hs :
    σ.keeps s) : σ.keeps (State.checkJob s k left payload ok session) := by
  unfold State.checkJob
  repeat' first
    | with_reducible first
        | assumption | apply State.modPartner_keeps | apply State.addDev_keeps | refine ite_keeps ?_ ?_
    | (intro _ _ _) | split | (simp; done) | (dsimp only)

theorem State.chainChecked_keeps {σ : State} (s : State) (k : Nat) (hs : σ.keeps s) : σ.keeps (State.chainChecked s k)
    := by
  unfold State.chainChecked
  repeat' first
    | with_reducible first
        | assumption | apply State.partnerVerdict_keeps | apply State.toStep_keeps | refine ite_keeps ?_ ?_
    | split | (simp; done) | (dsimp only)

theorem State.answerChecked_keeps {σ : State} (s : State) (k : Nat) (payload : Bytes) (ok : Bool) (session : Nat) (hs :
    σ.keeps s) : σ.keeps (State.answerChecked s k payload ok session) := by
  unfold State.answerChecked
  repeat' first
    | with_reducible first
        | assumption | apply State.partnerVerdict_keeps | apply State.modPartner_keeps | apply State.toStep_keeps
        | apply State.compareEntry_keeps | refine ite_keeps ?_ ?_
    | (intro _ _ _) | split | (simp; done) | (dsimp only)

theorem State.partnerChecked_keeps {σ : State} (s : State) (k run left : Nat) (payload : Bytes) (ok : Bool) (session :
    Nat) (hs : σ.keeps s) : σ.keeps (State.partnerChecked s k run left payload ok session) := by
  unfold State.partnerChecked
  repeat' first
    | with_reducible first
        | assumption | apply State.checkJob_keeps | apply State.modPartner_keeps | apply State.chainChecked_keeps
        | apply State.answerChecked_keeps | refine ite_keeps ?_ ?_
    | (intro _ _ _) | split | (simp; done) | (dsimp only)

theorem State.stepDone_keeps {σ : State} (s : State) (k : Nat) (r : Resp) (hs : σ.keeps s) : σ.keeps (State.stepDone s k
    r) := by
  unfold State.stepDone
  repeat' first
    | with_reducible first
        | assumption | apply State.modPartner_keeps | apply State.toStep_keeps | apply State.partnerVerdict_keeps
        | apply State.sendReq_keeps | apply State.checkJob_keeps | apply State.compareEntry_keeps
        | refine ite_keeps ?_ ?_
    | (intro _ _ _) | split | (simp; done) | (dsimp only)

theorem State.depart_keeps {σ : State} (s : State) (k : Nat) (hs : σ.keeps s) : σ.keeps (State.depart s k) := by
  unfold State.depart
  repeat' first
    | with_reducible first
        | assumption | apply State.modPar_keeps | apply State.stopAttest_keeps | apply State.modPartner_keeps
        | apply State.latch_keeps | apply State.latchEntry_keeps | apply State.ev_keeps | apply State.modPar_keeps
        | refine ite_keeps ?_ ?_
    | (intro _ _ _) | split | (simp; done) | (dsimp only)

theorem State.joinMctp_keeps {σ : State} (s : State) (k : Nat) (eidOk spdm : Bool) (hs : σ.keeps s) : σ.keeps
    (State.joinMctp s k eidOk spdm) := by
  unfold State.joinMctp
  repeat' first
    | with_reducible first
        | assumption | apply State.latch_keeps | apply State.modPartner_keeps | apply State.ctrlReq_keeps
        | apply State.attest_keeps | apply State.partnerVerdict_keeps | refine ite_keeps ?_ ?_
    | (intro _ _ _) | split | (simp; done) | (dsimp only)

theorem State.discover_keeps {σ : State} (s : State) (f : Found) (hs : σ.keeps s) :
    σ.keeps (State.discover s f) := by
  unfold State.discover
  repeat' first
    | with_reducible first
        | assumption | apply State.depart_keeps | apply State.latch_keeps | apply State.modPar_keeps
        | apply State.ev_keeps | apply State.modPartner_keeps | apply State.joinMctp_keeps
    | split
    | (dsimp only)

theorem State.probeStatic_keeps {σ : State} (s : State) (bus : Nat) (l : List Found) (hs : σ.keeps s) : σ.keeps
    (State.probeStatic s bus l) := by
  unfold State.probeStatic
  repeat' first
    | with_reducible first
        | assumption | apply State.mctpSend_keeps | apply State.discover_keeps | refine foldl_keeps _ _ _ ?_ ?_
    | (intro _ _ _) | split | (simp; done) | (dsimp only)

theorem State.discoverBus_keeps {σ : State} (s : State) (bus : Nat) (first : Bool) (l : List Found) (hs : σ.keeps s) :
    σ.keeps (State.discoverBus s bus first l) := by
  unfold State.discoverBus
  repeat' first
    | with_reducible first
        | assumption | apply State.emit_keeps | apply State.discover_keeps | apply State.probeStatic_keeps
        | apply State.latch_keeps | refine foldl_keeps _ _ _ ?_ ?_ | refine ite_keeps ?_ ?_
    | (intro _ _ _) | split | (simp; done) | (dsimp only)

theorem State.bindEntry_keeps {σ : State} (s : State) (k : Nat) (hs : σ.keeps s) : σ.keeps (State.bindEntry s k) := by
  unfold State.bindEntry
  repeat' first
    | with_reducible first
        | assumption | apply State.dropWhat_keeps | apply State.modPartner_keeps | refine ite_keeps ?_ ?_
    | (intro _ _ _) | split | (simp; done) | (dsimp only)

theorem State.policyWritten_keeps {σ : State} (s : State) (k : Nat) (hs : σ.keeps s) : σ.keeps (State.policyWritten s k)
    := by
  unfold State.policyWritten
  repeat' first
    | with_reducible first
        | assumption | apply State.bindEntry_keeps | apply State.modPartner_keeps | apply State.stopAttest_keeps
        | refine foldl_keeps _ _ _ ?_ ?_ | refine ite_keeps ?_ ?_
    | (intro _ _ _) | split | (simp; done) | (dsimp only)

theorem State.partnerBoundary_keeps {σ : State} (s : State) (hs : σ.keeps s) :
    σ.keeps (State.partnerBoundary s) := by
  unfold State.partnerBoundary
  repeat' first
    | with_reducible first
        | assumption | apply State.attest_keeps | apply State.toStep_keeps | refine foldl_keeps _ _ _ ?_ ?_
        | refine ite_keeps ?_ ?_
    | (intro _ _ _)

theorem State.setDyn_keeps {σ : State} (s : State) (bus : Nat) (a : Option Nat) (hs : σ.keeps s) :
    σ.keeps (State.setDyn s bus a) := by
  unfold State.setDyn
  repeat' first
    | with_reducible first
        | assumption | apply State.modPar_keeps | apply State.latch_keeps
    | split
    | (simp; done)

theorem State.issueAlias_keeps {σ : State} (s : State) (hs : σ.keeps s) : σ.keeps (State.issueAlias s) := by
  unfold State.issueAlias
  repeat' first
    | with_reducible first
        | assumption | apply State.draw_keeps | apply State.modPar_keeps | apply State.modPar_keeps
    | (intro _ _ _) | split | (simp; done) | (dsimp only)

theorem State.snapBlocks_keeps {σ : State} (s : State) (hs : σ.keeps s) : σ.keeps (State.snapBlocks s) := by
  unfold State.snapBlocks
  repeat' first
    | with_reducible first
        | assumption | apply State.modPar_keeps | apply State.modPar_keeps
    | (intro _ _ _) | split | (simp; done) | (dsimp only)

theorem State.mboxDiscard_keeps {σ : State} (s : State) (hs : σ.keeps s) :
    σ.keeps (State.mboxDiscard s) := by
  unfold State.mboxDiscard
  repeat' with_reducible first
      | assumption | apply State.modDmb_keeps

theorem State.spdmReply_keeps {σ : State} (s : State) (t peer code : Nat) (p : Bytes) (hs : σ.keeps s) :
    σ.keeps (State.spdmReply s t peer code p) := by
  unfold State.spdmReply
  repeat' with_reducible first
      | assumption | apply State.emit_keeps | apply State.inBand_keeps | apply State.mboxAnswer_keeps
      | refine ite_keeps ?_ ?_

theorem State.spdmErr_keeps {σ : State} (s : State) (q : SpdmReq) (e : Nat) (data : Bytes) (hs : σ.keeps s) :
    σ.keeps (State.spdmErr s q e data) := by
  unfold State.spdmErr
  repeat' with_reducible first
      | assumption | apply State.spdmReply_keeps

theorem State.putConn_keeps {σ : State} (s : State) (c : SpdmConn) (hs : σ.keeps s) :
    σ.keeps (State.putConn s c) := by
  unfold State.putConn
  repeat' first
    | with_reducible first
        | assumption | apply State.modPar_keeps
    | (simp; done)

theorem State.spdmTakes_keeps {σ s t : State} {q : SpdmReq} (h : s.spdmTakes q = some t) (hs : σ.keeps s) : σ.keeps t := by
  unfold State.spdmTakes at h
  split at h
  · cases h; exact hs
  · split at h
    · cases h; exact State.lateMctp_keeps _ hs
    · cases h

theorem State.aliasSign_keeps {σ : State} (s : State) (m : Bytes) (hs : σ.keeps s) :
    σ.keeps ((State.aliasSign s m).2) := by
  unfold State.aliasSign
  repeat' with_reducible first
      | assumption | apply State.draw_keeps

theorem State.keyExchangeReply_keeps {σ : State} (s : State) (c : SpdmConn) (o : Owed) (hs : σ.keeps s) : σ.keeps
    (State.keyExchangeReply s c o) := by
  unfold State.keyExchangeReply
  repeat' first
    | with_reducible first
        | assumption | apply State.putConn_keeps | apply State.latch_keeps | apply State.spdmErr_keeps
        | apply State.freshId_keeps | apply State.draw_keeps | apply State.aliasSign_keeps | apply State.modPar_keeps
        | apply State.spdmReply_keeps | apply State.modPar_keeps | refine ite_keeps ?_ ?_ | refine ite_keeps_fst ?_ ?_
        | refine ite_keeps_snd ?_ ?_
    | (intro _ _ _) | split | (simp; done) | (dsimp only)

theorem State.signedReply_keeps {σ : State} (s : State) (c : SpdmConn) (o : Owed) (hs : σ.keeps s) : σ.keeps
    (State.signedReply s c o) := by
  unfold State.signedReply
  repeat' first
    | with_reducible first
        | assumption | apply State.keyExchangeReply_keeps | apply State.aliasSign_keeps | apply State.putConn_keeps
        | apply State.spdmReply_keeps | refine ite_keeps ?_ ?_ | refine ite_keeps_fst ?_ ?_
        | refine ite_keeps_snd ?_ ?_
    | split | (simp; done) | (dsimp only)

theorem State.notReady_keeps {σ : State} (s : State) (c : SpdmConn) (o : Owed) (hs : σ.keeps s) : σ.keeps
    (State.notReady s c o) := by
  unfold State.notReady
  repeat' first
    | with_reducible first
        | assumption | apply State.putConn_keeps | apply State.latch_keeps | apply State.spdmReply_keeps
    | (simp; done) | (dsimp only)

theorem State.signOwed_keeps {σ : State} (s : State) (q : SpdmReq) (c : SpdmConn) (code a b : Nat) (hs : σ.keeps s) :
    σ.keeps (State.signOwed s q c code a b) := by
  unfold State.signOwed
  repeat' first
    | with_reducible first
        | assumption | apply State.addDev_keeps | apply State.putConn_keeps | apply State.notReady_keeps
        | refine ite_keeps ?_ ?_
    | (intro _ _ _) | split | (simp; done) | (dsimp only)

theorem State.signDone_keeps {σ : State} (s : State) (t peer : Nat) (hs : σ.keeps s) : σ.keeps (State.signDone s t peer)
    := by
  unfold State.signDone
  repeat' first
    | with_reducible first
        | assumption | apply State.putConn_keeps | apply State.signedReply_keeps | refine ite_keeps ?_ ?_
    | split | (simp; done) | (dsimp only)

theorem State.signLate_keeps {σ : State} (s : State) (hs : σ.keeps s) : σ.keeps (State.signLate s) := by
  unfold State.signLate
  repeat' first
    | with_reducible first
        | assumption | apply State.notReady_keeps | refine foldl_keeps _ _ _ ?_ ?_ | refine ite_keeps ?_ ?_
    | (intro _ _ _) | split | (simp; done) | (dsimp only)

theorem State.modSpdm_keeps {σ : State} (s : State) (sid : Nat) (f : SpdmSess → SpdmSess) (hs : σ.keeps s) : σ.keeps
    (State.modSpdm s sid f) := by
  unfold State.modSpdm
  repeat' first
    | with_reducible first
        | assumption | apply State.modPar_keeps | apply State.modPar_keeps | refine ite_keeps ?_ ?_
    | (intro _ _ _) | (intro _ _) | split | (simp; done) | (dsimp only)

theorem State.deadSpdm_keeps {σ : State} (s : State) (q : SpdmReq) (hs : σ.keeps s) :
    σ.keeps (State.deadSpdm s q) := by
  unfold State.deadSpdm
  repeat' first
    | with_reducible first
        | assumption | apply State.modPar_keeps | apply State.latch_keeps | apply State.mboxDiscard_keeps
        | refine ite_keeps ?_ ?_
    | (simp; done)

theorem State.domainsBoundary_keeps {σ : State} (s : State) (hs : σ.keeps s) : σ.keeps (State.domainsBoundary s) := by
  unfold State.domainsBoundary
  repeat' first
    | with_reducible first
        | assumption | apply State.modPwr_keeps | apply State.modPwr_keeps | refine foldl_keeps _ _ _ ?_ ?_
        | refine ite_keeps ?_ ?_ | refine ite_keeps_fst ?_ ?_ | refine ite_keeps_snd ?_ ?_
    | (intro _ _ _) | split | (simp; done) | (dsimp only)

theorem State.dropLink_keeps {σ : State} (s : State) (hs : σ.keeps s) :
    σ.keeps (State.dropLink s) := by
  unfold State.dropLink
  repeat' with_reducible first
      | assumption | apply State.hotReset_keeps | apply State.modPwr_keeps | refine ite_keeps ?_ ?_

theorem State.enterSleep_keeps {σ : State} (s : State) (hs : σ.keeps s) : σ.keeps (State.enterSleep s) := by
  unfold State.enterSleep
  repeat' first
    | with_reducible first
        | assumption | apply State.modPwr_keeps | apply State.ev_keeps | apply State.dropLink_keeps
        | apply State.toHold_keeps | apply State.modJobs_keeps | apply State.modDevJobs_keeps
        | apply State.modYard_keeps | apply State.modLog_keeps | apply State.modSup_keeps | apply State.modCas_keeps
        | apply State.setOp_keeps | apply State.modPwr_keeps | apply State.modJobs_keeps
        | apply State.modDevJobs_keeps | apply State.modYard_keeps | apply State.modLog_keeps
        | apply State.modSup_keeps | apply State.modCas_keeps | refine foldl_keeps _ _ _ ?_ ?_
        | refine ite_keeps ?_ ?_
    | (intro _ _ _) | split | (simp; done) | (dsimp only)

theorem State.finishSleep_keeps {σ : State} (s : State) (hs : σ.keeps s) :
    σ.keeps (State.finishSleep s) := by
  unfold State.finishSleep
  repeat' first
    | with_reducible first
        | assumption | apply State.draw_keeps | apply State.modTack_keeps | apply State.modPwr_keeps
        | apply State.wakeNow_keeps
    | split
    | (dsimp only)

theorem State.sleepFrame_keeps {σ : State} (s : State) (hs : σ.keeps s) :
    σ.keeps (State.sleepFrame s) := by
  unfold State.sleepFrame
  repeat' first
    | with_reducible first
        | assumption | apply State.finishSleep_keeps
    | split

theorem State.keyLink_keeps {σ : State} (s : State) (peer : Nat) (secret transcript : Bytes) (hs : σ.keeps s) : σ.keeps
    (State.keyLink s peer secret transcript) := by
  unfold State.keyLink
  repeat' first
    | with_reducible first
        | assumption | apply State.modCas_keeps | apply State.modCas_keeps
    | (intro _ _ _) | (simp; done) | (dsimp only)

theorem State.formFails_keeps {σ : State} (s : State) (step : Nat) (hs : σ.keeps s) :
    σ.keeps (State.formFails s step) := by
  unfold State.formFails
  repeat' with_reducible first
      | assumption | apply State.modCas_keeps | apply State.latch_keeps | apply State.ev_keeps

theorem State.refuseLink_keeps {σ : State} (s : State) (facts : List Nat) (hs : σ.keeps s) :
    σ.keeps (State.refuseLink s facts) := by
  unfold State.refuseLink
  repeat' with_reducible first
      | assumption | apply State.latch_keeps | apply State.ev_keeps

theorem State.heard_keeps {σ : State} (s : State) (d : Nat) (hs : σ.keeps s) :
    σ.keeps (State.heard s d) := by
  unfold State.heard
  repeat' with_reducible first
      | assumption | apply State.modCas_keeps

theorem State.orphan_keeps {σ : State} (s : State) (hs : σ.keeps s) :
    σ.keeps (State.orphan s) := by
  unfold State.orphan
  repeat' first
    | with_reducible first
        | assumption | apply State.modCas_keeps | apply State.abortJob_keeps | apply State.eraseKey_keeps
        | apply State.latch_keeps | apply State.ev_keeps | refine foldl_keeps _ _ _ ?_ ?_
    | (intro _ _ _)
    | split

theorem State.changeReplica_keeps {σ : State} (s : State) (master what : Nat) (secret : Bytes) (hs : σ.keeps s) :
    σ.keeps (State.changeReplica s master what secret) := by
  unfold State.changeReplica
  repeat' first
    | with_reducible first
        | assumption | apply State.revokeKey_keeps | apply State.eraseKey_keeps | apply State.rewriteKey_keeps
        | apply State.modTack_keeps | apply State.modTack_keeps | refine ite_keeps ?_ ?_
    | (intro _ _ _) | split | (simp; done) | (dsimp only)

theorem State.runReplicas_keeps {σ : State} (s : State) (hs : σ.keeps s) : σ.keeps (State.runReplicas s) := by
  unfold State.runReplicas
  repeat' first
    | with_reducible first
        | assumption | apply State.changeReplica_keeps | apply State.modCas_keeps | apply State.modCas_keeps
        | refine foldl_keeps _ _ _ ?_ ?_
    | (intro _ _ _) | split | (simp; done) | (dsimp only)

theorem State.sendChanges_keeps {σ : State} (s : State) (hs : σ.keeps s) :
    σ.keeps (State.sendChanges s) := by
  unfold State.sendChanges
  repeat' first
    | with_reducible first
        | assumption | apply State.modCas_keeps | apply State.linkSend_keeps | refine foldl_keeps _ _ _ ?_ ?_
        | refine ite_keeps ?_ ?_
    | (intro _ _ _)

theorem State.forward_keeps {σ : State} (s : State) (j : Job) (d : Nat) (hs : σ.keeps s) :
    σ.keeps (State.forward s j d) := by
  unfold State.forward
  repeat' first
    | with_reducible first
        | assumption | apply State.dukptFail_keeps | apply State.endJob_keeps | apply State.takeJobUses_keeps
        | apply State.modJob_keeps | apply State.modCas_keeps | apply State.linkSend_keeps
    | split
    | (dsimp only)

theorem State.forwardJobs_keeps {σ : State} (s : State) (hs : σ.keeps s) :
    σ.keeps (State.forwardJobs s) := by
  unfold State.forwardJobs
  repeat' first
    | with_reducible first
        | assumption | apply State.endJob_keeps | apply State.modCas_keeps | apply State.forward_keeps
        | refine foldl_keeps _ _ _ ?_ ?_
    | (intro _ _ _)
    | split

theorem State.passJobs_keeps {σ : State} (s : State) (hs : σ.keeps s) :
    σ.keeps (State.passJobs s) := by
  unfold State.passJobs
  repeat' with_reducible first
      | assumption | apply State.modJobs_keeps | refine ite_keeps ?_ ?_

theorem State.runCancels_keeps {σ : State} (s : State) (hs : σ.keeps s) :
    σ.keeps (State.runCancels s) := by
  unfold State.runCancels
  repeat' first
    | with_reducible first
        | assumption | apply State.modCas_keeps | apply State.abortJob_keeps | refine foldl_keeps _ _ _ ?_ ?_
    | (intro _ _ _)
    | split

theorem State.promote_keeps {σ : State} (s : State) (hs : σ.keeps s) :
    σ.keeps (State.promote s) := by
  unfold State.promote
  repeat' with_reducible first
      | assumption | apply State.storeNow_keeps | apply State.modCas_keeps | apply State.linkSend_keeps
      | apply State.ev_keeps

theorem State.lcRequest_keeps {σ : State} (s : State) (v : Bytes) (hs : σ.keeps s) :
    σ.keeps (State.lcRequest s v) := by
  unfold State.lcRequest
  repeat' with_reducible first
      | assumption | apply State.putMark_keeps | apply State.latch_keeps

theorem State.endNonce_keeps {σ : State} (s : State) (hs : σ.keeps s) :
    σ.keeps (State.endNonce s) := by
  unfold State.endNonce
  repeat' with_reducible first
      | assumption | apply State.modLc_keeps

theorem State.debugOpen_keeps {σ : State} (s : State) (t : Bytes) (hs : σ.keeps s) :
    σ.keeps (State.debugOpen s t) := by
  unfold State.debugOpen
  repeat' with_reducible first
      | assumption | apply State.modLc_keeps

theorem State.openScopes_keeps {σ : State} (s : State) (hs : σ.keeps s) :
    σ.keeps (State.openScopes s) := by
  unfold State.openScopes
  repeat' first
    | with_reducible first
        | assumption | apply State.modLc_keeps | apply State.latch_keeps | apply State.modPar_keeps
        | apply State.strikeLanes_keeps | apply State.endSessions_keeps | apply State.endSpdm_keeps
        | apply State.endDtls_keeps | refine foldl_keeps _ _ _ ?_ ?_ | refine ite_keeps ?_ ?_
    | (intro _ _ _)
    | (simp; done)

end Sys2Proof.Machine
end

