-- ==== Sys2Proof/Laws/KeepsDict.lean ====
section
/-! SUPPORT. What the operations of Entries, Changes, Sessions, JobRows, Requests, Access, Holding, Boundary keep. -/

set_option maxRecDepth 20000

namespace Sys2Proof.Machine

open Sys2Proof

theorem State.confirmTrial_keeps {σ : State} (s : State) (hs : σ.keeps s) :
    σ.keeps (State.confirmTrial s) := by
  unfold State.confirmTrial
  repeat' first
    | with_reducible first
        | assumption | apply State.putLedger_keeps | apply State.modBoot_keeps | apply State.latch_keeps
    | split

theorem State.confirmPort_keeps {σ : State} (s : State) (n : Nat) (hs : σ.keeps s) :
    σ.keeps (State.confirmPort s n) := by
  unfold State.confirmPort
  repeat' first
    | with_reducible first
        | assumption | apply State.putPortLedger_keeps | apply State.modPort_keeps | apply State.latch_keeps
        | apply State.ev_keeps
    | split

theorem State.manifestWritten_keeps {σ : State} (s : State) (n : Nat) (x : Slot) (v : Bytes) (hs : σ.keeps s) :
    σ.keeps (State.manifestWritten s n x v) := by
  unfold State.manifestWritten
  repeat' with_reducible first
      | assumption | apply State.modPort_keeps | apply State.putPortLedger_keeps | refine ite_keeps ?_ ?_

theorem State.timetableLoaded_keeps {σ : State} (s : State) (v : Bytes) (hs : σ.keeps s) : σ.keeps
    (State.timetableLoaded s v) := by
  unfold State.timetableLoaded
  repeat' first
    | with_reducible first
        | assumption | apply State.discardSwitch_keeps | apply State.modYard_keeps | apply State.latch_keeps
        | apply State.modYard_keeps | refine ite_keeps ?_ ?_
    | (intro _ _ _) | (intro _ _) | split | (simp; done) | (dsimp only)

theorem State.srkGenerated_keeps {σ : State} (s : State) (hs : σ.keeps s) :
    σ.keeps (State.srkGenerated s) := by
  unfold State.srkGenerated
  repeat' first
    | with_reducible first
        | assumption | apply State.deriveHampers_keeps | apply State.draw_keeps | apply State.modTack_keeps | apply State.eraseKey_keeps
        | refine foldl_keeps _ _ _ ?_ ?_
    | (simp; done)

theorem State.monoAdd_keeps {σ : State} (s : State) (n k : Nat) (hs : σ.keeps s) : σ.keeps (s.monoAdd n k).2 := by
  refine ⟨hs.1, hs.2.1, fun hr => ?_⟩
  obtain ⟨⟨a, b, c⟩, d⟩ := hs.2.2 hr
  refine ⟨⟨?_, b, ?_⟩, fun i => Nat.le_trans (d i) ?_⟩
  · simpa [State.sizes, State.monoAdd, State.modTack] using a
  · intro x hx
    simp only [State.monoAdd, State.modTack, updAt, List.mem_mapIdx] at hx
    obtain ⟨i, h, rfl⟩ := hx
    split
    · omega
    · exact c _ (List.getElem_mem h)
  · simp only [State.monoAdd, State.modTack, updAt, List.getD_eq_getElem?_getD, List.getElem?_mapIdx]
    rcases h : s.tack.mono[i]? with _ | x
    · simp
    · have hx := c x (List.mem_of_getElem? h)
      simp only [Option.map_some, Option.getD_some]
      split
      · next e => have := of_decide_eq_true (p := i = n) (by simpa using e)
                  subst this; rw [h]; simp only [Option.getD_some]; omega
      · exact Nat.le_refl _

theorem State.retestPairs_keeps {σ : State} (s : State) (hs : σ.keeps s) :
    σ.keeps (State.retestPairs s) := by
  unfold State.retestPairs
  repeat' first
    | with_reducible first
        | assumption | apply State.addDev_keeps | refine foldl_keeps _ _ _ ?_ ?_ | refine ite_keeps ?_ ?_
    | (intro _ _ _)

theorem State.clearHolds_keeps {σ : State} (s : State) (w : Nat) (hs : σ.keeps s) :
    σ.keeps (State.clearHolds s w) := by
  unfold State.clearHolds
  repeat' first
    | with_reducible first
        | assumption | apply State.endPortHold_keeps | apply State.endAlarmHold_keeps
        | refine foldl_keeps _ _ _ ?_ ?_ | refine ite_keeps ?_ ?_
    | (intro _ _ _)

theorem State.commit_keeps {σ : State} (s : State) (hs : σ.keeps s) :
    σ.keeps (State.commit s) := by
  unfold State.commit
  repeat' with_reducible first
      | assumption | apply State.modDict_keeps | apply State.latch_keeps

theorem State.applyPlatform_keeps {σ : State} (s : State) (key : Nat) (v : Bytes) (hs : σ.keeps s) : σ.keeps
    (State.applyPlatform s key v) := by
  unfold State.applyPlatform
  repeat' first
    | with_reducible first
        | assumption | apply State.putLedger_keeps | apply State.confirmTrial_keeps | apply State.fullResetDue_keeps
        | apply State.resumeSchedule_keeps | apply State.clearHolds_keeps | apply State.manifestWritten_keeps
        | apply State.advertise_keeps | apply State.portActivate_keeps | apply State.confirmPort_keeps
        | apply State.recoverAsk_keeps | refine ite_keeps ?_ ?_
    | (intro _ _ _) | split | (simp; done) | (dsimp only)

theorem State.applyUnit_keeps {σ : State} (s : State) (key : Nat) (v : Bytes) (hs : σ.keeps s) :
    σ.keeps ((State.applyUnit s key v).2) := by
  unfold State.applyUnit
  repeat' first
    | with_reducible first
        | assumption | apply State.commit_keeps | apply State.lcRequest_keeps | apply State.putMark_keeps
        | apply State.debugOpen_keeps | apply State.endNonce_keeps | apply State.srkGenerated_keeps
        | apply State.runCommand_keeps | apply State.timetableLoaded_keeps | apply State.modYard_keeps
        | apply State.retestPairs_keeps | apply State.clearMonitors_keeps | apply State.beginTest_keeps
        | apply State.modPwr_keeps | apply State.logLatches_keeps | apply State.promote_keeps
        | apply State.clearLeaves_keeps | apply State.modDict_keeps | apply State.latch_keeps
        | apply State.policyWritten_keeps | apply State.monoAdd_keeps | apply State.modAtn_keeps
        | apply State.applyPlatform_keeps | refine ite_keeps ?_ ?_ | refine ite_keeps_snd ?_ ?_
    | split
    | (simp; done)

theorem State.clearActing_keeps {σ : State} (s : State) (hs : σ.keeps s) :
    σ.keeps (State.clearActing s) := by
  unfold State.clearActing
  repeat' with_reducible first
      | assumption | apply State.storeNow_keeps | apply State.fullResetDue_keeps | refine ite_keeps ?_ ?_

theorem State.written_keeps {σ : State} (s : State) (key : Nat) (v : Bytes) (hs : σ.keeps s) : σ.keeps (State.written s
    key v) := by
  unfold State.written
  repeat' first
    | with_reducible first
        | assumption | apply State.setVal_keeps | apply State.modDict_keeps | apply State.modDict_keeps
        | refine ite_keeps ?_ ?_
    | (intro _ _ _) | (intro _ _) | split | (simp; done) | (dsimp only)

theorem State.applyEntry_keeps {σ : State} (s : State) (key : Nat) (v : Bytes) (hs : σ.keeps s) :
    σ.keeps ((State.applyEntry s key v).2) := by
  unfold State.applyEntry
  repeat' first
    | with_reducible first
        | assumption | apply State.clearActing_keeps | apply State.written_keeps | apply State.modTack_keeps
        | apply State.applyUnit_keeps | refine ite_keeps_snd ?_ ?_
    | (simp; done)

theorem State.restoreDefaults_keeps {σ : State} (s : State) (hs : σ.keeps s) :
    σ.keeps (State.restoreDefaults s) := by
  unfold State.restoreDefaults
  repeat' first
    | with_reducible first
        | assumption | apply State.modDict_keeps | apply State.applyEntry_keeps | apply State.latch_keeps
        | refine foldl_keeps _ _ _ ?_ ?_ | refine ite_keeps ?_ ?_
    | (intro _ _ _)

theorem State.finish_keeps {σ : State} (s : State) (d : LogDesc) (r : Reply) (hs : σ.keeps s) :
    σ.keeps (State.finish s d r) := by
  unfold State.finish
  repeat' with_reducible first
      | assumption | apply State.answer_keeps | apply State.linkSend_keeps | refine ite_keeps ?_ ?_

theorem State.dropProposal_keeps {σ : State} (s : State) (p : Proposal) (hs : σ.keeps s) : σ.keeps (State.dropProposal s
    p) := by
  unfold State.dropProposal
  repeat' first
    | with_reducible first
        | assumption | apply State.modDict_keeps | apply State.latch_keeps | apply State.modDict_keeps
    | (intro _ _ _) | (simp; done) | (dsimp only)

theorem State.endProposal_keeps {σ : State} (s : State) (p : Proposal) (code : Nat) (hs : σ.keeps s) : σ.keeps
    (State.endProposal s p code) := by
  unfold State.endProposal
  repeat' first
    | with_reducible first
        | assumption | apply State.dropProposal_keeps | apply State.logEv_keeps
    | (simp; done) | (dsimp only)

theorem State.refusedValue_keeps {σ : State} (s : State) (key : Nat) (v : Bytes) (e : Nat) (hs : σ.keeps s) :
    σ.keeps (State.refusedValue s key v e) := by
  unfold State.refusedValue
  repeat' first
    | with_reducible first
        | assumption | apply State.latch_keeps | apply State.ev_keeps | apply State.modTack_keeps
        | apply State.endNonce_keeps
    | split
    | (simp; done)

theorem State.effFail_keeps {σ : State} (s : State) (d : LogDesc) (e : Effect) (st : Nat) (hs : σ.keeps s) :
    σ.keeps (State.effFail s d e st) := by
  unfold State.effFail
  repeat' first
    | with_reducible first
        | assumption | apply State.endJob_keeps | apply State.mgrRefuse_keeps | apply State.refusedValue_keeps
        | apply State.finish_keeps
    | split

theorem State.takeWrite_keeps {σ : State} (s : State) (key : Nat) (v : Bytes) (hs : σ.keeps s) :
    σ.keeps ((State.takeWrite s key v).2) := by
  unfold State.takeWrite
  repeat' with_reducible first
      | assumption | apply State.applyEntry_keeps | apply State.restoreDefaults_keeps | refine ite_keeps_snd ?_ ?_

theorem State.sendRemote_keeps {σ : State} (s : State) (target key : Nat) (v : Bytes) (hs : σ.keeps s) :
    σ.keeps (State.sendRemote s target key v) := by
  unfold State.sendRemote
  repeat' with_reducible first
      | assumption | apply State.linkSend_keeps

theorem State.effApply_keeps {σ : State} (s : State) (d : LogDesc) (e : Effect) (hs : σ.keeps s) : σ.keeps
    (State.effApply s d e) := by
  unfold State.effApply
  repeat' first
    | with_reducible first
        | assumption | apply State.takeWrite_keeps | apply State.finish_keeps | apply State.endProposal_keeps
        | apply State.modDict_keeps | apply State.latch_keeps | apply State.sendRemote_keeps
        | apply State.jobApply_keeps | apply State.modTack_keeps | apply State.mgrApply_keeps
        | apply State.dropProposal_keeps | apply State.modDict_keeps | apply State.modTack_keeps
        | refine foldl_keeps _ _ _ ?_ ?_ | refine ite_keeps ?_ ?_ | refine ite_keeps_fst ?_ ?_
        | refine ite_keeps_snd ?_ ?_
    | (intro _ _ _) | split | (simp; done) | (dsimp only)

theorem State.writeChange_keeps {σ : State} (s : State) (d : LogDesc) (e : Effect) (hs : σ.keeps s) : σ.keeps
    (State.writeChange s d e) := by
  unfold State.writeChange
  repeat' first
    | with_reducible first
        | assumption | apply State.effFail_keeps | apply State.writeEvent_keeps | apply State.ringPut_keeps
        | apply State.effApply_keeps | refine ite_keeps ?_ ?_
    | (intro _ _ _) | split | (simp; done) | (dsimp only)

theorem State.writeDue_keeps {σ : State} (n : Nat) (s : State) (hs : σ.keeps s) : σ.keeps (State.writeDue n s) := by
  induction n generalizing s with
  | zero => exact hs
  | succ n ih =>
    unfold State.writeDue
    repeat' first
      | with_reducible first
          | assumption | apply ih | apply State.summarise_keeps | apply State.writeEvent_keeps
          | apply State.writeChange_keeps | apply State.effFail_keeps | apply State.modLog_keeps
      | split

theorem State.logChange_keeps {σ : State} (s : State) (d : LogDesc) (e : Effect) (hs : σ.keeps s) :
    σ.keeps (State.logChange s d e) := by
  unfold State.logChange
  repeat' with_reducible first
      | assumption | apply State.effFail_keeps | apply State.logDueAdd_keeps | apply State.writeChange_keeps
      | refine ite_keeps ?_ ?_

theorem State.askJob_keeps {σ : State} (s : State) (id : Nat) (hs : σ.keeps s) :
    σ.keeps (State.askJob s id) := by
  unfold State.askJob
  repeat' first
    | with_reducible first
        | assumption | apply State.logChange_keeps
    | split

theorem State.askWrite_keeps {σ : State} (s : State) (x : Sess) (key : Nat) (v : Bytes) (hs : σ.keeps s) :
    σ.keeps (State.askWrite s x key v) := by
  unfold State.askWrite
  repeat' with_reducible first
      | assumption | apply State.finish_keeps | apply State.logChange_keeps | refine ite_keeps ?_ ?_

theorem State.askManager_keeps {σ : State} (s : State) (d : LogDesc) (sess : Option Nat) (c : Bytes) (hs : σ.keeps s) :
    σ.keeps (State.askManager s d sess c) := by
  unfold State.askManager
  repeat' with_reducible first
      | assumption | apply State.mgrRefuse_keeps | apply State.logEv_keeps | apply State.mgrApply_keeps
      | apply State.logChange_keeps | refine ite_keeps ?_ ?_

theorem State.writeExport_keeps {σ : State} (s : State) (x : Sess) (key : Nat) (v : Bytes) (hs : σ.keeps s) :
    σ.keeps (State.writeExport s x key v) := by
  unfold State.writeExport
  repeat' with_reducible first
      | assumption | apply State.written_keeps | apply State.modLog_keeps | apply State.logLatches_keeps
      | apply State.latch_keeps | apply State.logEv_keeps | apply State.finish_keeps | refine ite_keeps ?_ ?_

theorem State.writeReady_keeps {σ : State} (s : State) (x : Sess) (key : Nat) (v : Bytes) (hs : σ.keeps s) : σ.keeps
    (State.writeReady s x key v) := by
  unfold State.writeReady
  repeat' first
    | with_reducible first
        | assumption | apply State.refusedValue_keeps | apply State.finish_keeps | apply State.askWrite_keeps
        | refine ite_keeps ?_ ?_
    | split | (simp; done) | (dsimp only)

theorem State.writeValue_keeps {σ : State} (s : State) (x : Sess) (key : Nat) (v : Bytes) (hs : σ.keeps s) : σ.keeps
    (State.writeValue s x key v) := by
  unfold State.writeValue
  repeat' first
    | with_reducible first
        | assumption | apply State.finish_keeps | apply State.written_keeps | apply State.askManager_keeps
        | apply State.askWrite_keeps | apply State.addDev_keeps | apply State.refusedValue_keeps
        | apply State.writeExport_keeps | refine ite_keeps ?_ ?_
    | split | (simp; done) | (dsimp only)

theorem State.approveReady_keeps {σ : State} (s : State) (x : Sess) (id : Nat) (hs : σ.keeps s) : σ.keeps
    (State.approveReady s x id) := by
  unfold State.approveReady
  repeat' first
    | with_reducible first
        | assumption | apply State.finish_keeps | apply State.refusedValue_keeps | apply State.logChange_keeps
        | refine ite_keeps ?_ ?_
    | split | (simp; done) | (dsimp only)

theorem State.approveBy_keeps {σ : State} (s : State) (x : Sess) (id : Nat) (digest : Bytes) (hs : σ.keeps s) : σ.keeps
    (State.approveBy s x id digest) := by
  unfold State.approveBy
  repeat' first
    | with_reducible first
        | assumption | apply State.finish_keeps | apply State.addDev_keeps | apply State.approveReady_keeps
        | refine ite_keeps ?_ ?_
    | split | (simp; done) | (dsimp only)

theorem State.withdrawBy_keeps {σ : State} (s : State) (x : Sess) (id : Nat) (hs : σ.keeps s) : σ.keeps
    (State.withdrawBy s x id) := by
  unfold State.withdrawBy
  repeat' first
    | with_reducible first
        | assumption | apply State.finish_keeps | apply State.logChange_keeps | refine ite_keeps ?_ ?_
    | split | (simp; done) | (dsimp only)

theorem State.dictDiscard_keeps {σ : State} (s : State) (hs : σ.keeps s) :
    σ.keeps (State.dictDiscard s) := by
  unfold State.dictDiscard
  repeat' with_reducible first
      | assumption | apply State.modDict_keeps | apply State.latch_keeps | apply State.emit_keeps

theorem State.dictOff_keeps {σ : State} (s : State) (iface : Nat) (hs : σ.keeps s) :
    σ.keeps (State.dictOff s iface) := by
  unfold State.dictOff
  repeat' with_reducible first
      | assumption | apply State.emit_keeps | apply State.lateMctp_keeps | apply State.latch_keeps
      | apply State.mboxDiscard_keeps | refine ite_keeps ?_ ?_

theorem State.touch_keeps {σ : State} (s : State) (x : Sess) (hs : σ.keeps s) : σ.keeps (State.touch s x) := by
  unfold State.touch
  repeat' first
    | with_reducible first
        | assumption | apply State.modSession_keeps | apply State.modDict_keeps | apply State.modDict_keeps
        | refine ite_keeps ?_ ?_
    | (intro _ _ _) | (intro _ _) | split | (simp; done) | (dsimp only)

theorem State.request_keeps {σ : State} (s : State) (r : Req) (op : Nat) (f : State → Sess → State)
    (hf : ∀ s x, σ.keeps s → σ.keeps (f s x)) (hs : σ.keeps s) : σ.keeps (s.request r op f) := by
  unfold State.request
  repeat' first
    | with_reducible first
        | assumption | apply hf | apply State.modSession_keeps | apply State.sendReply_keeps
        | apply State.touch_keeps | apply State.dictOff_keeps | apply State.dictDiscard_keeps
    | split

theorem State.reply_keeps {σ : State} (s : State) (x : Sess) (r : Reply) (hs : σ.keeps s) :
    σ.keeps (State.reply s x r) := by
  unfold State.reply
  repeat' with_reducible first
      | assumption | apply State.answer_keeps

theorem State.withApproval_keeps {σ : State} (s : State) (r : Req) (op : Nat) (f : State → Sess → State)
    (hf : ∀ s x, σ.keeps s → σ.keeps (f s x)) (hs : σ.keeps s) : σ.keeps (s.withApproval r op f) := by
  have h := State.request_keeps s r op f hf hs
  unfold State.withApproval
  repeat' first
    | with_reducible first
        | assumption | refine State.request_keeps _ _ _ _ ?_ ?_ | apply State.approveBy_keeps
    | (intro _ _ _)
    | split
    | (dsimp only)

theorem State.writeRow_keeps {σ : State} (s : State) (r : Req) (key : Nat) (v : Bytes) (hs : σ.keeps s) :
    σ.keeps (State.writeRow s r key v) := by
  unfold State.writeRow
  repeat' first
    | with_reducible first
        | assumption | apply State.withApproval_keeps | apply State.modSession_keeps | apply State.writeValue_keeps
        | refine ite_keeps ?_ ?_
    | (intro _ _ _)

theorem State.dropChannel_keeps {σ : State} (s : State) (c : Chan) (hs : σ.keeps s) :
    σ.keeps (State.dropChannel s c) := by
  unfold State.dropChannel
  repeat' with_reducible first
      | assumption | apply State.endSpdm_keeps | apply State.endDtls_keeps | refine foldl_keeps _ _ _ ?_ ?_

theorem State.authFails_keeps {σ : State} (s : State) (x : Sess) (seq : Nat) (hs : σ.keeps s) :
    σ.keeps (State.authFails s x seq) := by
  unfold State.authFails
  repeat' with_reducible first
      | assumption | apply State.latch_keeps | apply State.logEv_keeps | apply State.sendReply_keeps
      | apply State.modDict_keeps | apply State.dropChannel_keeps | refine ite_keeps ?_ ?_

theorem State.authDone_keeps {σ : State} (s : State) (x : Sess) (seq : Nat) (key : Bytes) (ok : Bool) (hs : σ.keeps s) :
    σ.keeps (State.authDone s x seq key ok) := by
  unfold State.authDone
  repeat' first
    | with_reducible first
        | assumption | apply State.modSession_keeps | apply State.authFails_keeps | apply State.latch_keeps
        | apply State.logEv_keeps | apply State.sendReply_keeps | refine ite_keeps ?_ ?_
    | (intro _ _ _) | split | (simp; done) | (dsimp only)

theorem State.readOn_keeps {σ : State} (s : State) (x : Sess) (key off : Nat) (hs : σ.keeps s) :
    σ.keeps (State.readOn s x key off) := by
  unfold State.readOn
  repeat' with_reducible first
      | assumption | apply State.finish_keeps | apply State.draw_keeps | apply State.modLc_keeps
      | refine ite_keeps ?_ ?_

theorem State.remoteMaster_keeps {σ : State} (s : State) (x : Sess) (target op key : Nat) (v : Bytes) (answer : Option
    Reply) (hs : σ.keeps s) :
    σ.keeps (State.remoteMaster s x target op key v answer) := by
  unfold State.remoteMaster
  repeat' with_reducible first
      | assumption | apply State.finish_keeps | apply State.approveBy_keeps | apply State.withdrawBy_keeps
      | apply State.sendRemote_keeps | apply State.logChange_keeps | refine ite_keeps ?_ ?_

theorem State.remoteMember_keeps {σ : State} (s : State) (detail role op key : Nat) (v : Bytes) (hs : σ.keeps s) :
    σ.keeps (State.remoteMember s detail role op key v) := by
  unfold State.remoteMember
  repeat' with_reducible first
      | assumption | apply State.readOn_keeps | apply State.writeValue_keeps | apply State.finish_keeps
      | refine ite_keeps ?_ ?_

theorem State.performNow_keeps {σ : State} (s : State) (op id : Nat) (f : State → Job → Ending) (hs : σ.keeps s) :
    σ.keeps (s.performNow op id f) := by
  unfold State.performNow
  split
  · exact hs
  · exact ite_keeps (State.settle_keeps _ _ _ hs) hs

theorem State.mgrMailbox_keeps {σ : State} (s : State) (c : Bytes) (hs : σ.keeps s) :
    σ.keeps (State.mgrMailbox s c) := by
  unfold State.mgrMailbox
  repeat' with_reducible first
      | assumption | apply State.modPci_keeps | apply State.askManager_keeps

theorem State.manage_keeps {σ : State} (s : State) (via : Via) (code : Nat) (cmd : Bytes) (hs : σ.keeps s) :
    σ.keeps (State.manage s via code cmd) := by
  unfold State.manage
  repeat' first
    | with_reducible first
        | assumption | apply State.writeRow_keeps | apply State.mgrMailbox_keeps
    | split

theorem State.writeRdw_keeps {σ : State} (s : State) (w : Bool) (off : Nat) (d : Bytes) (hs : σ.keeps s) :
    σ.keeps (State.writeRdw s w off d) := by
  unfold State.writeRdw
  repeat' with_reducible first
      | assumption | apply State.windowData_keeps | apply State.windowLast_keeps | apply State.windowStart_keeps
      | apply State.windowDrop_keeps | apply State.modWindow_keeps | refine ite_keeps ?_ ?_

theorem State.writeAtn_keeps {σ : State} (s : State) (off v : Nat) (hs : σ.keeps s) :
    σ.keeps (State.writeAtn s off v) := by
  unfold State.writeAtn
  repeat' first
    | with_reducible first
        | assumption | apply State.modAtn_keeps | apply State.clearLeaves_keeps | apply State.writeEnable_keeps
        | refine ite_keeps ?_ ?_
    | (simp; done)

theorem State.mgrGo_keeps {σ : State} (s : State) (hs : σ.keeps s) :
    σ.keeps (State.mgrGo s) := by
  unfold State.mgrGo
  repeat' with_reducible first
      | assumption | apply State.mgrMailbox_keeps | refine ite_keeps ?_ ?_

theorem State.dictGo_keeps {σ : State} (s : State) (hs : σ.keeps s) :
    σ.keeps (State.dictGo s) := by
  unfold State.dictGo
  repeat' with_reducible first
      | assumption | apply State.modDmb_keeps | refine ite_keeps ?_ ?_

theorem State.writeRing_keeps {σ : State} (s : State) (p r off v : Nat) (hs : σ.keeps s) :
    σ.keeps (State.writeRing s p r off v) := by
  unfold State.writeRing
  repeat' first
    | with_reducible first
        | assumption | apply State.modRing_keeps | apply State.enableRing_keeps | apply State.disableRing_keeps
        | apply State.writeTail_keeps | apply State.writeHead_keeps
    | split

theorem State.pushBytes_keeps {σ : State} (n : Nat) (s : State) (p off : Nat) (d : Bytes) (hs : σ.keeps s) :
    σ.keeps (State.pushBytes s p off d n) := by
  induction n generalizing s off d with
  | zero => exact hs
  | succ n ih =>
    unfold State.pushBytes
    have h : σ.keeps (if off % 64 + (d.take (64 - off % 64)).length = 64 then
        (s.pushWrite p (off / 64) (off % 64) (d.take (64 - off % 64))).serveFront
        else s.pushWrite p (off / 64) (off % 64) (d.take (64 - off % 64))) :=
      ite_keeps (State.serveFront_keeps _ (State.pushWrite_keeps _ _ _ _ _ hs)) (State.pushWrite_keeps _ _ _ _ _ hs)
    exact ite_keeps h (ih _ _ _ h)

theorem State.writePage_keeps {σ : State} (s : State) (p off : Nat) (d : Bytes) (hs : σ.keeps s) : σ.keeps
    (State.writePage s p off d) := by
  unfold State.writePage
  repeat' first
    | with_reducible first
        | assumption | apply State.pushBytes_keeps | apply State.writeRing_keeps | apply State.resetPads_keeps
        | apply State.modPad_keeps | refine ite_keeps ?_ ?_
    | (intro _ _ _) | split | (simp; done) | (dsimp only)

theorem State.writePf_keeps {σ : State} (s : State) (off : Nat) (d : Bytes) (hs : σ.keeps s) :
    σ.keeps (State.writePf s off d) := by
  unfold State.writePf
  repeat' first
    | with_reducible first
        | assumption | apply State.modCore_keeps | apply State.writeAtn_keeps | apply State.writeRdw_keeps
        | apply State.modPci_keeps | apply State.mgrGo_keeps | apply State.modDmb_keeps | apply State.dictGo_keeps
        | refine ite_keeps ?_ ?_
    | split

theorem State.writeMsix_keeps {σ : State} (s : State) (fn off : Nat) (d : Bytes) (hs : σ.keeps s) :
    σ.keeps (State.writeMsix s fn off d) := by
  unfold State.writeMsix
  repeat' first
    | with_reducible first
        | assumption | apply State.setMsix_keeps | apply State.modAtn_keeps | apply State.emit_keeps
        | refine ite_keeps ?_ ?_
    | (simp; done)

theorem State.writeReg_keeps {σ : State} (s : State) (fn off : Nat) (d : Bytes) (hs : σ.keeps s) :
    σ.keeps (State.writeReg s fn off d) := by
  unfold State.writeReg
  repeat' first
    | with_reducible first
        | assumption | apply State.writeMsix_keeps | apply State.writePage_keeps | apply State.writePf_keeps
    | split

theorem State.barWrite_keeps {σ : State} (s : State) (fn off : Nat) (d : Bytes) (hs : σ.keeps s) :
    σ.keeps (State.barWrite s fn off d) := by
  unfold State.barWrite
  repeat' with_reducible first
      | assumption | apply State.writeRdw_keeps | apply State.writeReg_keeps | refine ite_keeps ?_ ?_

theorem State.askHotJoin_keeps {σ : State} (s : State) (traffic2 traffic3 : Bool) (hs : σ.keeps s) :
    σ.keeps (State.askHotJoin s traffic2 traffic3) := by
  unfold State.askHotJoin
  repeat' with_reducible first
      | assumption | apply State.emit_keeps | refine ite_keeps ?_ ?_

theorem State.holdingEntry_keeps {σ : State} (s : State) (h : HoldInput) (hs : σ.keeps s) : σ.keeps (State.holdingEntry
    s h) := by
  unfold State.holdingEntry
  repeat' first
    | with_reducible first
        | assumption | apply State.modPar_keeps | apply State.modYard_keeps | apply State.askHotJoin_keeps
        | apply State.probePorts_keeps | apply State.discoverBus_keeps | apply State.modPar_keeps
        | apply State.modYard_keeps
    | (intro _ _ _) | split | (simp; done) | (dsimp only)

theorem State.holdingActs_keeps {σ : State} (s : State) (h : HoldInput) (hs : σ.keeps s) : σ.keeps (State.holdingActs s
    h) := by
  unfold State.holdingActs
  repeat' first
    | with_reducible first
        | assumption | apply State.holdingEntry_keeps | apply State.beginSchedule_keeps
    | (simp; done) | (dsimp only)

theorem State.loadDict_keeps {σ : State} (s : State) (hs : σ.keeps s) :
    σ.keeps (State.loadDict s) := by
  unfold State.loadDict
  repeat' first
    | with_reducible first
        | assumption | apply State.modDict_keeps | apply State.latch_keeps | apply State.ev_keeps
    | split

theorem State.takeRole_keeps {σ : State} (s : State) (hs : σ.keeps s) : σ.keeps (State.takeRole s) := by
  unfold State.takeRole
  repeat' first
    | with_reducible first
        | assumption | apply State.modCas_keeps | apply State.modCas_keeps | refine ite_keeps ?_ ?_
    | (intro _ _ _) | (intro _ _) | split | (simp; done) | (dsimp only)

theorem State.reloadKeys_keeps {σ : State} (s : State) (hs : σ.keeps s) :
    σ.keeps (State.reloadKeys s) := by
  unfold State.reloadKeys
  repeat' first
    | with_reducible first
        | assumption | apply State.modTack_keeps | apply State.keyEvent_keeps | apply State.exhaust_keeps
        | refine foldl_keeps _ _ _ ?_ ?_ | refine ite_keeps ?_ ?_
    | (intro _ _ _)
    | (simp; done)

theorem State.bootSheet_keeps {σ : State} (s : State) (hs : σ.keeps s) :
    σ.keeps (State.bootSheet s) := by
  unfold State.bootSheet
  repeat' first
    | with_reducible first
        | assumption | apply State.modYard_keeps | apply State.ev_keeps | refine ite_keeps ?_ ?_
    | (simp; done)

theorem State.checkManifests_keeps {σ : State} (s : State) (hs : σ.keeps s) :
    σ.keeps (State.checkManifests s) := by
  unfold State.checkManifests
  repeat' first
    | with_reducible first
        | assumption | apply State.modPort_keeps | apply State.ev_keeps | refine foldl_keeps _ _ _ ?_ ?_
        | refine ite_keeps ?_ ?_
    | (intro _ _ _)
    | (simp; done)

theorem State.stageLedger_keeps {σ : State} (s : State) (hs : σ.keeps s) :
    σ.keeps (State.stageLedger s) := by
  unfold State.stageLedger
  dsimp only
  split
  · exact hs
  · split
    · exact State.putLedger_keeps _ _ hs
    · split
      · exact State.putLedger_keeps _ _ hs
      · exact hs

theorem State.wakeTests_keeps {σ : State} (s : State) (hs : σ.keeps s) :
    σ.keeps (State.wakeTests s) := by
  unfold State.wakeTests
  repeat' first
    | with_reducible first
        | assumption | apply State.modYard_keeps | apply State.addDev_keeps | refine foldl_keeps _ _ _ ?_ ?_
        | refine ite_keeps ?_ ?_
    | (intro _ _ _)
    | (simp; done)

theorem State.logBootRecords_keeps {σ : State} (s : State) (hs : σ.keeps s) : σ.keeps (State.logBootRecords s) := by
  unfold State.logBootRecords
  repeat' first
    | with_reducible first
        | assumption | apply State.writeEvent_keeps | apply State.bootRecord_keeps | apply State.modBoot_keeps
        | apply State.modBoot_keeps | refine foldl_keeps _ _ _ ?_ ?_ | refine ite_keeps ?_ ?_
    | (intro _ _ _) | split | (simp; done) | (dsimp only)

theorem State.logFifo_keeps {σ : State} (s : State) (hs : σ.keeps s) :
    σ.keeps (State.logFifo s) := by
  unfold State.logFifo
  repeat' first
    | with_reducible first
        | assumption | apply State.writeEvent_keeps | apply State.modMon_keeps | refine foldl_keeps _ _ _ ?_ ?_
    | (intro _ _ _)
    | (simp; done)

theorem State.raiseBase_keeps {σ : State} (s : State) (hs : σ.keeps s) :
    σ.keeps ((State.raiseBase s).2) := by
  unfold State.raiseBase
  repeat' with_reducible first
      | assumption | apply State.modLog_keeps | refine ite_keeps_snd ?_ ?_

theorem State.writeNow_keeps {σ : State} (s : State) (b : Bool) (d : LogDesc) (hs : σ.keeps s) :
    σ.keeps (State.writeNow s b d) := by
  unfold State.writeNow
  repeat' with_reducible first
      | assumption | apply State.writeEvent_keeps | refine ite_keeps ?_ ?_

theorem State.startEntries_keeps {σ : State} (s : State) (hs : σ.keeps s) :
    σ.keeps (State.startEntries s) := by
  unfold State.startEntries
  repeat' first
    | with_reducible first
        | assumption | apply State.raiseBase_keeps | apply State.logBootRecords_keeps | apply State.logFifo_keeps
        | apply State.writeNow_keeps | apply State.latch_keeps | apply State.modLog_keeps
        | apply State.writeEvent_keeps | apply State.writeCheckpoint_keeps | refine foldl_keeps _ _ _ ?_ ?_
        | refine ite_keeps ?_ ?_
    | (intro _ _ _)

theorem State.startLeaves_keeps {σ : State} (s : State) (hs : σ.keeps s) :
    σ.keeps (State.startLeaves s) := by
  unfold State.startLeaves
  repeat' with_reducible first
      | assumption | apply State.latchMonitor_keeps | apply State.latch_keeps | refine foldl_keeps _ _ _ ?_ ?_
      | refine ite_keeps ?_ ?_

theorem State.loadConfig_keeps {σ : State} (s : State) (hs : σ.keeps s) : σ.keeps s.loadConfig := by
  refine keeps_of_same hs rfl rfl (fun k => ?_) rfl rfl
  have k1 := k.1
  simp only [State.sizes, List.cons.injEq, and_true] at k1
  simp only [State.sizes, State.loadConfig, State.modAtn, State.modMon, List.length_map, List.length_range, k1]

theorem State.stageOne_keeps {σ : State} (s : State) (hs : σ.keeps s) : σ.keeps (State.stageOne s) := by
  unfold State.stageOne
  repeat' first
    | with_reducible first
        | assumption | apply State.loadDict_keeps | apply State.takeRole_keeps | apply State.reloadKeys_keeps
        | apply State.deriveHampers_keeps | apply State.bootSheet_keeps | apply State.checkManifests_keeps
        | apply State.stageLedger_keeps | apply State.loadConfig_keeps | apply State.startLeaves_keeps
        | apply State.modLog_keeps | apply State.issueAlias_keeps | apply State.seedMasks_keeps
        | apply State.startEntries_keeps | apply State.wakeTests_keeps | apply State.modLog_keeps
    | (intro _ _ _) | split | (simp; done) | (dsimp only)

theorem State.leaveBooting_keeps {σ : State} (s : State) (h : HoldInput) (hs : σ.keeps s) : σ.keeps (State.leaveBooting
    s h) := by
  unfold State.leaveBooting
  repeat' first
    | with_reducible first
        | assumption | apply State.stageOne_keeps | apply State.modCore_keeps | apply State.setOp_keeps
        | apply State.holdingActs_keeps | apply State.beginAlarmHold_keeps | apply State.modPwr_keeps
        | apply State.modPar_keeps | apply State.modYard_keeps | apply State.snapBlocks_keeps
        | apply State.confirmTrial_keeps | apply State.modCore_keeps | apply State.modPwr_keeps
        | apply State.modPar_keeps | apply State.modYard_keeps | refine ite_keeps ?_ ?_
    | (intro _ _ _) | split | (simp; done) | (dsimp only)

theorem State.c0End_keeps {σ : State} (s : State) (a : C0End) (hs : σ.keeps s) : σ.keeps (State.c0End s a) := by
  unfold State.c0End
  repeat' first
    | with_reducible first
        | assumption | apply State.authDone_keeps | apply State.writeReady_keeps | apply State.approveReady_keeps
        | apply State.updateChecked_keeps | apply State.signDone_keeps | apply State.partnerChecked_keeps
        | refine ite_keeps ?_ ?_
    | split | (simp; done) | (dsimp only)

theorem State.c0Ends_keeps {σ : State} (s : State) (hs : σ.keeps s) : σ.keeps (State.c0Ends s) := by
  unfold State.c0Ends
  repeat' first
    | with_reducible first
        | assumption | apply State.modDevJobs_keeps | apply State.c0End_keeps | apply State.modDevJobs_keeps
        | refine foldl_keeps _ _ _ ?_ ?_ | refine ite_keeps ?_ ?_
    | (intro _ _ _) | split | (simp; done) | (dsimp only)

theorem State.secondsPass_keeps {σ : State} (s : State) (ppm : Int) (hs : σ.keeps s) :
    σ.keeps (State.secondsPass s ppm) := by
  unfold State.secondsPass
  repeat' with_reducible first
      | assumption | apply State.modLog_keeps | apply State.modPwr_keeps | refine ite_keeps ?_ ?_

theorem State.takeInputs_keeps {σ : State} (s : State) (vinMv active : Nat) (temps : List Int) (hs : σ.keeps s) :
    σ.keeps (State.takeInputs s vinMv active temps) := by
  unfold State.takeInputs
  repeat' first
    | with_reducible first
        | assumption | apply State.modMon_keeps | apply State.modPwr_keeps | apply State.modSup_keeps
        | refine ite_keeps ?_ ?_
    | split
    | (simp_all; done)

theorem State.newFrame_keeps {σ : State} (s : State) (hs : σ.keeps s) :
    σ.keeps (State.newFrame s) := by
  unfold State.newFrame
  repeat' first
    | with_reducible first
        | assumption | apply State.modLog_keeps | apply State.modTack_keeps | apply State.modPci_keeps
    | (simp; done)

theorem State.halterCounts_keeps {σ : State} (s : State) (hs : σ.keeps s) :
    σ.keeps (State.halterCounts s) := by
  unfold State.halterCounts
  repeat' with_reducible first
      | assumption | apply State.modHal_keeps | refine ite_keeps ?_ ?_

theorem State.endChannels_keeps {σ : State} (s : State) (hs : σ.keeps s) :
    σ.keeps (State.endChannels s) := by
  unfold State.endChannels
  repeat' with_reducible first
      | assumption | apply State.modDict_keeps | apply State.modPci_keeps | apply State.endSessions_keeps
      | apply State.endDtls_keeps | apply State.endSpdm_keeps | refine foldl_keeps _ _ _ ?_ ?_
      | refine ite_keeps ?_ ?_

theorem State.haltAborts_keeps {σ : State} (s : State) (hs : σ.keeps s) :
    σ.keeps (State.haltAborts s) := by
  unfold State.haltAborts
  repeat' first
    | with_reducible first
        | assumption | apply State.modSup_keeps | apply State.haltYard_keeps | apply State.modMon_keeps
        | apply State.holdQueue_keeps | refine ite_keeps ?_ ?_
    | (simp; done)

theorem State.monConfigs_keeps {σ : State} (s : State) (hs : σ.keeps s) :
    σ.keeps (State.monConfigs s) := by
  unfold State.monConfigs
  repeat' first
    | with_reducible first
        | assumption | apply State.modMon_keeps
    | (simp; done)

theorem State.orderTwo_keeps {σ : State} (s : State) (hs : σ.keeps s) : σ.keeps (State.orderTwo s) := by
  unfold State.orderTwo
  repeat' first
    | with_reducible first
        | assumption | apply State.alarmRespond_keeps | apply State.haltAborts_keeps | apply State.runReplicas_keeps
        | apply State.runStrikes_keeps | apply State.strikePads_keeps | apply State.openScopes_keeps
        | apply State.runCancels_keeps | apply State.sendChanges_keeps | apply State.orphan_keeps
        | apply State.endChannels_keeps | apply State.monConfigs_keeps | apply State.takeRecoveries_keeps
        | apply State.enterSleep_keeps | apply State.beginStart_keeps | apply State.setOp_keeps
        | refine ite_keeps ?_ ?_
    | split | (simp; done) | (dsimp only)

theorem State.slotLeaves_keeps {σ : State} (s : State) (hs : σ.keeps s) :
    σ.keeps (State.slotLeaves s) := by
  unfold State.slotLeaves
  repeat' with_reducible first
      | assumption | apply State.latch_keeps | refine ite_keeps ?_ ?_

theorem State.dummySteps_keeps {σ : State} (s : State) (hs : σ.keeps s) :
    σ.keeps (State.dummySteps s) := by
  unfold State.dummySteps
  repeat' first
    | with_reducible first
        | assumption | apply State.modTack_keeps | refine ite_keeps ?_ ?_
    | (simp; done)

theorem State.freeLoads_keeps {σ : State} (s : State) (hs : σ.keeps s) : σ.keeps (State.freeLoads s) := by
  unfold State.freeLoads
  repeat' first
    | with_reducible first
        | assumption | apply State.modTack_keeps | apply State.modTack_keeps | refine ite_keeps ?_ ?_
        | refine ite_keeps_fst ?_ ?_
    | (intro _ _ _) | split | (simp; done) | (dsimp only)

theorem State.runYard_keeps {σ : State} (s : State) (hs : σ.keeps s) : σ.keeps (State.runYard s) := by
  unfold State.runYard
  repeat' first
    | with_reducible first
        | assumption | apply State.freeLoads_keeps | apply State.forwardJobs_keeps | apply State.startHamper_keeps
        | apply State.stepAll_keeps | apply State.dispatchAll_keeps | apply State.sweepSteps_keeps
        | apply State.passJobs_keeps | apply State.loadLanes_keeps | refine foldl_keeps _ _ _ ?_ ?_
    | (intro _ _ _) | split | (simp; done) | (dsimp only)

theorem State.noteWaiting_keeps {σ : State} (s : State) (hs : σ.keeps s) : σ.keeps (State.noteWaiting s) := by
  unfold State.noteWaiting
  repeat' first
    | with_reducible first
        | assumption | apply State.modYard_keeps | apply State.modYard_keeps
    | (intro _ _ _) | split | (simp; done) | (dsimp only)

theorem State.workBoundary_keeps {σ : State} (s : State) (calm : Bool) (hs : σ.keeps s) : σ.keeps (State.workBoundary s
    calm) := by
  unfold State.workBoundary
  repeat' first
    | with_reducible first
        | assumption | apply State.endSteps_keeps | apply State.takeSwitch_keeps | apply State.orderTwo_keeps
        | apply State.fixHold_keeps | apply State.domainsBoundary_keeps | apply State.slotLeaves_keeps
        | apply State.runYard_keeps | apply State.noteWaiting_keeps | apply State.dummySteps_keeps
        | apply State.portsFrame_keeps | apply State.c0Ends_keeps | apply State.partnerBoundary_keeps
        | apply State.signLate_keeps | apply State.pldmBoundary_keeps | apply State.serveFront_keeps
        | apply State.snapBlocks_keeps | refine ite_keeps ?_ ?_
    | split | (simp; done) | (dsimp only)

end Sys2Proof.Machine
end

