-- ==== Sys2Proof/Laws/KeepsExec.lean ====
section
/-! SUPPORT. What the meaning of every command keeps. -/

set_option maxRecDepth 20000

namespace Sys2Proof.Machine

open Sys2Proof

/-- Whatever next state an outcome is, `σ` led to it with everything kept. -/
def State.keepsRes (σ : State) (r : Res) : Prop := ∀ t, r = .next t → σ.keeps t

theorem keepsRes_next {σ t : State} (h : σ.keeps t) : σ.keepsRes (.next t) :=
    fun u e => by cases e; exact h

theorem keepsRes_fault {σ : State} {f : Fault} : σ.keepsRes (.fault f) := fun _ e => by cases e

theorem keepsRes_refused {σ : State} {f : Refusal} : σ.keepsRes (.refused f) := fun _ e => by cases e

theorem keepsRes_ite {σ : State} {c : Prop} [Decidable c] {a b : Res} (ha : σ.keepsRes a) (hb : σ.keepsRes b) :
    σ.keepsRes (if c then a else b) := by
  by_cases h : c <;> simp only [h, if_true, if_false] <;> assumption

theorem State.plainCmd_keeps {σ : State} (s : State) (c : SpiCmd) (r : OpRow) (clear refuse proxy : State → State)
    (h1 : ∀ t, σ.keeps t → σ.keeps (clear t)) (h2 : ∀ t, σ.keeps t → σ.keeps (refuse t))
    (h3 : ∀ t, σ.keeps t → σ.keeps (proxy t)) (hs : σ.keeps s) : σ.keepsRes (s.plainCmd c r clear refuse proxy) := by
  have h := State.interrupt_keeps _ c.port hs
  refine keepsRes_next (ite_keeps (State.emit_keeps _ _ h) (ite_keeps (ite_keeps ?_ (h1 _ h)) ?_))
  · exact State.cancelDown_keeps _ _ _ _ (State.latch_keeps _ _ _ (State.modPort_keeps _ _ _ h))
  · split
    · exact h3 _ h
    · exact h2 _ h
    · exact State.unknownCmd_keeps _ _ h

theorem State.dataCmd_keeps {σ : State} (s : State) (c : SpiCmd) (r : OpRow) (proxy clear : State → Bytes)
    (hs : σ.keeps s) : σ.keepsRes (s.dataCmd c r proxy clear) := by
  have h := State.interrupt_keeps _ c.port (State.disarm_keeps _ c.port (State.fresh_keeps _ hs))
  refine keepsRes_next (ite_keeps (State.emit_keeps _ _ h) (ite_keeps (ite_keeps (State.allLate_keeps _ _ h) ?_) ?_))
  · exact State.emit_keeps _ _ (State.emit_keeps _ _ h)
  · split
    · exact State.allLate_keeps _ _ h
    · exact State.emit_keeps _ _ h
    · exact State.unknownCmd_keeps _ _ h

theorem State.readCmd_keeps {σ : State} (s : State) (c : SpiCmd) (r : OpRow) (dummy : State → Nat) (hs : σ.keeps s) :
    σ.keepsRes (s.readCmd c r dummy) := by
  have h := State.interrupt_keeps _ c.port (State.disarm_keeps _ c.port (State.fresh_keeps _ hs))
  refine keepsRes_ite (keepsRes_next (State.emit_keeps _ _ h))
    (keepsRes_ite (keepsRes_next (State.clearRead_keeps _ _ _ _ h)) ?_)
  split
  · exact keepsRes_next (State.allLate_keeps _ _ h)
  · exact keepsRes_ite keepsRes_fault (keepsRes_next (State.proxyRead_keeps _ _ _ h))
  · exact keepsRes_next (State.unknownCmd_keeps _ _ h)

theorem State.writeCmd_keeps {σ : State} (s : State) (c : SpiCmd) (r : OpRow) (size busy : Nat) (hs : σ.keeps s) :
    σ.keepsRes (s.writeCmd c r size busy) := by
  have h := State.disarm_keeps _ c.port (State.fresh_keeps _ hs)
  unfold State.writeCmd
  refine State.plainCmd_keeps _ _ _ _ _ _ ?_ ?_ ?_ h <;> intro t ht
  · exact State.clearWrite_keeps _ _ _ _ _ ht
  · exact State.listRefuse_keeps _ _ _ _ _ ht
  · exact State.proxyWrite_keeps _ _ _ _ _ _ ht

theorem State.pldmReq_keeps {σ : State} (s : State) (t src cmd : Nat) (f : State → State)
    (h : ∀ u, σ.keeps u → σ.keeps (f u)) (hs : σ.keeps s) : σ.keepsRes (s.pldmReq t src cmd f) := by
  have h0 := State.fresh_keeps _ hs
  exact keepsRes_next (ite_keeps h0 (ite_keeps (State.lateMctp_keeps _ h0)
    (ite_keeps (State.pldmReply_keeps _ _ _ _ _ h0) (h _ h0))))

theorem State.spdmReq_keeps {σ : State} (s : State) (q : SpdmReq) (lo hi : Nat) (f : State → SpdmConn → State)
    (hf : ∀ s c, σ.keeps s → σ.keeps (f s c)) (hs : σ.keeps s) : σ.keepsRes (s.spdmReq q lo hi f) := by
  have h := State.fresh_keeps _ hs
  refine keepsRes_next ?_
  split
  · exact State.spdmTakes_keeps (by assumption) h
  · refine ite_keeps (State.spdmErr_keeps _ _ _ _ h) (ite_keeps (State.spdmErr_keeps _ _ _ _ h) ?_)
    split
    · exact State.spdmErr_keeps _ _ _ _ h
    · exact ite_keeps (State.spdmErr_keeps _ _ _ _ h) (ite_keeps (State.spdmErr_keeps _ _ _ _ h)
        (hf _ _ (State.putConn_keeps _ _ h)))

theorem State.spdmIn_keeps {σ : State} (s : State) (q : SpdmReq) (sid : Nat) (f : State → SpdmSess → State)
    (hf : ∀ s c, σ.keeps s → σ.keeps (f s c)) (hs : σ.keeps s) : σ.keepsRes (s.spdmIn q sid f) := by
  have h := State.fresh_keeps _ hs
  refine keepsRes_next ?_
  split
  · exact State.spdmTakes_keeps (by assumption) h
  · split
    · exact State.deadSpdm_keeps _ _ h
    · exact hf _ _ (State.modSpdm_keeps _ _ _ h)

theorem State.spdmInReq_keeps {σ : State} (s : State) (q : SpdmReq) (sid : Nat) (f : State → SpdmSess → State)
    (hf : ∀ s c, σ.keeps s → σ.keeps (f s c)) (hs : σ.keeps s) : σ.keepsRes (s.spdmInReq q sid f) :=
  State.spdmIn_keeps _ _ _ _ (fun _ _ h => ite_keeps (State.spdmErr_keeps _ _ _ _ h)
    (ite_keeps (State.spdmErr_keeps _ _ _ _ h) (hf _ _ h))) hs

theorem execVinRise_keeps (mv : Nat) (st : Straps) (s : State) : s.keepsRes (execVinRise mv st s) := by
  have h0 := State.keeps_refl s
  unfold execVinRise
  repeat' first
    | with_reducible first
        | assumption | apply State.fresh_keeps | apply State.modPwr_keeps | apply State.sampleStraps_keeps
        | apply State.modCas_keeps | apply State.beginStart_keeps | apply State.modPwr_keeps
        | apply State.modCas_keeps | refine keepsRes_next ?_ | refine ite_keeps ?_ ?_
    | (intro _ _ _) | split | (simp; done) | (dsimp only)

theorem execVinFall_keeps (mv : Nat) (s : State) : s.keepsRes (execVinFall mv s) := by
  have h0 := State.keeps_refl s
  unfold execVinFall
  repeat' first
    | with_reducible first
        | assumption | apply State.fresh_keeps | apply State.modPwr_keeps | apply State.toOff_keeps
        | apply State.modCas_keeps | apply State.loseBackup_keeps | apply State.modPwr_keeps
        | apply State.modCas_keeps | refine keepsRes_next ?_ | refine ite_keeps ?_ ?_
    | (intro _ _ _) | split | (simp; done) | (dsimp only)

theorem execVinWarnCrossing_keeps (mv : Nat) (s : State) : s.keepsRes (execVinWarnCrossing mv s) := by
  have h0 := State.keeps_refl s
  unfold execVinWarnCrossing
  repeat' with_reducible first
      | assumption | apply State.fresh_keeps | apply State.modSup_keeps | refine keepsRes_next ?_
      | refine ite_keeps ?_ ?_

theorem execSupplyHoldEnd_keeps (s : State) : s.keepsRes (execSupplyHoldEnd s) := by
  have h0 := State.keeps_refl s
  unfold execSupplyHoldEnd
  repeat' with_reducible first
      | assumption | apply State.fresh_keeps | apply State.endHold_keeps | refine keepsRes_next ?_
      | refine ite_keeps ?_ ?_

theorem execSupplyHoldAbort_keeps (s : State) : s.keepsRes (execSupplyHoldAbort s) := by
  have h0 := State.keeps_refl s
  unfold execSupplyHoldAbort
  repeat' with_reducible first
      | assumption | apply State.fresh_keeps | apply State.modSup_keeps | refine keepsRes_next ?_
      | refine ite_keeps ?_ ?_

theorem execSupplyHoldEpisodeEntry_keeps (s : State) : s.keepsRes (execSupplyHoldEpisodeEntry s) := by
  have h0 := State.keeps_refl s
  unfold execSupplyHoldEpisodeEntry
  repeat' first
    | with_reducible first
        | assumption | apply State.fresh_keeps | apply State.modSup_keeps | apply State.holdEntry_keeps
        | refine keepsRes_next ?_
    | split

theorem execSysRstNLow_keeps (s : State) : s.keepsRes (execSysRstNLow s) := by
  have h0 := State.keeps_refl s
  unfold execSysRstNLow
  repeat' with_reducible first
      | assumption | apply State.fresh_keeps | apply State.toOff_keeps | apply State.modPwr_keeps
      | refine keepsRes_next ?_ | refine ite_keeps ?_ ?_

theorem execSysRstNRelease_keeps (st : Straps) (s : State) : s.keepsRes (execSysRstNRelease st s) := by
  have h0 := State.keeps_refl s
  unfold execSysRstNRelease
  repeat' with_reducible first
      | assumption | apply State.fresh_keeps | apply State.modPwr_keeps | apply State.sampleBoot_keeps
      | apply State.beginStart_keeps | refine keepsRes_next ?_ | refine ite_keeps ?_ ?_

theorem execPerstNChange_keeps (high : Bool) (s : State) : s.keepsRes (execPerstNChange high s) := by
  have h0 := State.keeps_refl s
  unfold execPerstNChange
  repeat' with_reducible first
      | assumption | apply State.fresh_keeps | apply State.modPwr_keeps | apply State.dropLink_keeps
      | apply State.wakeEvent_keeps | refine keepsRes_next ?_ | refine ite_keeps ?_ ?_

theorem execPllLock_keeps (s : State) : s.keepsRes (execPllLock s) := by
  have h0 := State.keeps_refl s
  unfold execPllLock
  repeat' first
    | with_reducible first
        | assumption | apply State.fresh_keeps | apply State.modPwr_keeps | apply State.modCas_keeps
        | apply State.modCore_keeps | apply State.beginStart_keeps | apply State.modPwr_keeps
        | apply State.modCas_keeps | apply State.modCore_keeps | refine keepsRes_next ?_ | refine ite_keeps ?_ ?_
    | (intro _ _ _) | split | (simp; done) | (dsimp only)

theorem execRefclkRecoveryTimeout_keeps (s : State) : s.keepsRes (execRefclkRecoveryTimeout s) := by
  have h0 := State.keeps_refl s
  unfold execRefclkRecoveryTimeout
  repeat' first
    | with_reducible first
        | assumption | apply State.fresh_keeps | apply State.toOff_keeps | apply State.modPwr_keeps
        | apply State.modCore_keeps | refine keepsRes_next ?_
    | split

theorem execFrameBoundary_keeps (vinMv : Nat) (levels : Levels) (temps : List Int) (ppm : Int) (s : State) :
    s.keepsRes (execFrameBoundary vinMv levels temps ppm s) := by
  have h0 := State.keeps_refl s
  unfold execFrameBoundary
  repeat' first
    | with_reducible first
        | assumption | apply State.fresh_keeps | apply State.secondsPass_keeps | apply State.sampleInputs_keeps
        | apply State.modCore_keeps | apply State.atnBoundary_keeps | apply State.sleepFrame_keeps
        | apply State.halterCounts_keeps | apply State.halterSees_keeps | apply State.newFrame_keeps
        | apply State.takeInputs_keeps | apply State.padMessages_keeps | apply State.alarmRespond_keeps
        | apply State.beginStart_keeps | apply State.fixHold_keeps | apply State.workBoundary_keeps
        | apply State.modCore_keeps | refine keepsRes_next ?_ | refine ite_keeps ?_ ?_
    | (intro _ _ _) | split | (simp; done) | (dsimp only)

theorem execSheetSwitch_keeps (s : State) : s.keepsRes (execSheetSwitch s) := by
  have h0 := State.keeps_refl s
  unfold execSheetSwitch
  repeat' with_reducible first
      | assumption | apply State.fresh_keeps | apply State.takeSwitch_keeps | refine keepsRes_next ?_
      | refine ite_keeps ?_ ?_

theorem execDomainWakeEnd_keeps (d : Nat) (s : State) : s.keepsRes (execDomainWakeEnd d s) := by
  have h0 := State.keeps_refl s
  unfold execDomainWakeEnd
  repeat' with_reducible first
      | assumption | apply State.fresh_keeps | apply State.modPwr_keeps | refine keepsRes_next ?_

theorem execRomStart_keeps (r : RomInput) (s : State) : s.keepsRes (execRomStart r s) := by
  have h0 := State.keeps_refl s
  unfold execRomStart
  repeat' first
    | with_reducible first
        | assumption | apply State.fresh_keeps | apply State.sampleStart_keeps | apply State.romRun_keeps
        | refine keepsRes_next ?_ | refine ite_keeps ?_ ?_
    | split | (simp; done) | (dsimp only)

theorem execGetstatus_keeps (s : State) : s.keepsRes (execGetstatus s) := by
  have h0 := State.keeps_refl s
  unfold execGetstatus
  repeat' first
    | with_reducible first
        | assumption | apply State.fresh_keeps | apply State.emit_keeps | refine keepsRes_next ?_
    | split

theorem execRomLockWrite_keeps (v : BitVec 32) (s : State) : s.keepsRes (execRomLockWrite v s) := by
  have h0 := State.keeps_refl s
  unfold execRomLockWrite
  repeat' with_reducible first
      | assumption | apply State.fresh_keeps | apply State.modBoot_keeps | refine keepsRes_next ?_

theorem execCoreReleaseWrite_keeps (v : BitVec 32) (s : State) : s.keepsRes (execCoreReleaseWrite v s) := by
  have h0 := State.keeps_refl s
  unfold execCoreReleaseWrite
  repeat' with_reducible first
      | assumption | apply State.fresh_keeps | apply State.modBoot_keeps | refine keepsRes_next ?_

theorem execHandoverLockWrite_keeps (v : BitVec 32) (s : State) : s.keepsRes (execHandoverLockWrite v s) := by
  have h0 := State.keeps_refl s
  unfold execHandoverLockWrite
  dsimp only
  repeat' first
    | with_reducible first
        | assumption | apply State.holdSecrets_keeps | apply State.fresh_keeps | apply State.modCas_keeps | apply State.modBoot_keeps
      | refine keepsRes_next ?_ | refine ite_keeps ?_ ?_
    | split

theorem execStackFormation_keeps (f : FormInput) (s : State) : s.keepsRes (execStackFormation f s) := by
  have h0 := State.keeps_refl s
  unfold execStackFormation
  repeat' first
    | with_reducible first
        | assumption | apply State.fresh_keeps | apply State.modCas_keeps | apply State.refuseLink_keeps
        | apply State.formFails_keeps | apply State.keyLink_keeps | apply State.modYard_keeps
        | apply State.modCore_keeps | apply State.latch_keeps | apply State.ev_keeps | refine keepsRes_next ?_
        | refine ite_keeps ?_ ?_
    | (simp; done)

theorem execFormTimeout_keeps (s : State) : s.keepsRes (execFormTimeout s) := by
  have h0 := State.keeps_refl s
  unfold execFormTimeout
  repeat' first
    | with_reducible first
        | assumption | apply State.fresh_keeps | apply State.formFails_keeps | refine keepsRes_next ?_
    | split

theorem execEnterHolding_keeps (h : HoldInput) (s : State) : s.keepsRes (execEnterHolding h s) := by
  have h0 := State.keeps_refl s
  unfold execEnterHolding
  repeat' with_reducible first
      | assumption | apply State.fresh_keeps | apply State.leaveBooting_keeps | refine keepsRes_next ?_
      | exact keepsRes_refused | refine keepsRes_ite ?_ ?_

theorem execTrialWatchdogExpiry_keeps (s : State) : s.keepsRes (execTrialWatchdogExpiry s) := by
  have h0 := State.keeps_refl s
  unfold execTrialWatchdogExpiry
  repeat' first
    | with_reducible first
        | assumption | apply State.fresh_keeps | apply State.bootRecord_keeps | apply State.putLedger_keeps
        | apply State.beginStart_keeps | refine keepsRes_next ?_
    | split

theorem execReleaseStepActs_keeps (s : State) : s.keepsRes (execReleaseStepActs s) := by
  have h0 := State.keeps_refl s
  unfold execReleaseStepActs
  repeat' first
    | with_reducible first
        | assumption | apply State.fresh_keeps | apply State.stopSchedule_keeps | apply State.stepActs_keeps
        | refine keepsRes_next ?_
    | split

theorem execWaitTimeout_keeps (s : State) : s.keepsRes (execWaitTimeout s) := by
  have h0 := State.keeps_refl s
  unfold execWaitTimeout
  repeat' first
    | with_reducible first
        | assumption | apply State.fresh_keeps | apply State.stopSchedule_keeps | apply State.stepActs_keeps
        | apply State.latch_keeps | apply State.ev_keeps | refine keepsRes_next ?_
    | split

theorem execPulseEnd_keeps (k : Nat) (s : State) : s.keepsRes (execPulseEnd k s) := by
  have h0 := State.keeps_refl s
  unfold execPulseEnd
  repeat' with_reducible first
      | assumption | apply State.fresh_keeps | apply State.modHal_keeps | apply State.ev_keeps
      | refine keepsRes_next ?_ | refine ite_keeps ?_ ?_

theorem execHiLevelChange_keeps (k : Nat) (level : Bool) (s : State) : s.keepsRes (execHiLevelChange k level s) := by
  have h0 := State.keeps_refl s
  unfold execHiLevelChange
  repeat' with_reducible first
      | assumption | apply State.fresh_keeps | apply State.modHal_keeps | apply State.latchInput_keeps
      | refine keepsRes_next ?_ | refine ite_keeps ?_ ?_

theorem execMeasurementRecorded_keeps (port : Nat) (data : Bytes) (s : State) : s.keepsRes (execMeasurementRecorded port
    data s) := by
  have h0 := State.keeps_refl s
  unfold execMeasurementRecorded
  repeat' first
    | with_reducible first
        | assumption | apply State.fresh_keeps | apply State.modPort_keeps | apply State.dropDigest_keeps
        | apply State.latch_keeps | apply State.setPhase_keeps | apply State.logEv_keeps | refine keepsRes_next ?_
        | refine ite_keeps ?_ ?_
    | (intro _ _ _) | split | (simp; done) | (dsimp only)

theorem execStartVerificationEnd_keeps (port : Nat) (data : Option (List Bytes)) (s : State) : s.keepsRes
    (execStartVerificationEnd port data s) := by
  have h0 := State.keeps_refl s
  unfold execStartVerificationEnd
  repeat' first
    | with_reducible first
        | assumption | apply State.fresh_keeps | apply State.freshTagKey_keeps | apply State.regionReads_keeps
        | apply State.sourceFail_keeps | apply State.fillPort_keeps | apply State.sourcePass_keeps
        | refine keepsRes_next ?_ | exact keepsRes_fault | refine keepsRes_ite ?_ ?_ | refine ite_keeps ?_ ?_
    | split | (simp; done) | (dsimp only)

theorem execStileRead_keeps (c : SpiCmd) (s : State) : s.keepsRes (execStileRead c s) := by
  have h0 := State.keeps_refl s
  unfold execStileRead
  repeat' with_reducible first
      | assumption | refine State.readCmd_keeps _ _ _ _ ?_

theorem execFastRead_keeps (c : SpiCmd) (s : State) : s.keepsRes (execFastRead c s) := by
  have h0 := State.keeps_refl s
  unfold execFastRead
  repeat' with_reducible first
      | assumption | refine State.readCmd_keeps _ _ _ _ ?_

theorem execDualOutputFastRead_keeps (c : SpiCmd) (s : State) : s.keepsRes (execDualOutputFastRead c s) := by
  have h0 := State.keeps_refl s
  unfold execDualOutputFastRead
  repeat' with_reducible first
      | assumption | refine State.readCmd_keeps _ _ _ _ ?_

theorem execDualIoFastRead_keeps (c : SpiCmd) (s : State) : s.keepsRes (execDualIoFastRead c s) := by
  have h0 := State.keeps_refl s
  unfold execDualIoFastRead
  repeat' with_reducible first
      | assumption | refine State.readCmd_keeps _ _ _ _ ?_

theorem execQuadOutputFastRead_keeps (c : SpiCmd) (s : State) : s.keepsRes (execQuadOutputFastRead c s) := by
  have h0 := State.keeps_refl s
  unfold execQuadOutputFastRead
  repeat' with_reducible first
      | assumption | refine State.readCmd_keeps _ _ _ _ ?_

theorem execQuadIoFastRead_keeps (c : SpiCmd) (s : State) : s.keepsRes (execQuadIoFastRead c s) := by
  have h0 := State.keeps_refl s
  unfold execQuadIoFastRead
  repeat' with_reducible first
      | assumption | refine State.readCmd_keeps _ _ _ _ ?_

theorem execOctalDtrRead_keeps (c : SpiCmd) (s : State) : s.keepsRes (execOctalDtrRead c s) := by
  have h0 := State.keeps_refl s
  unfold execOctalDtrRead
  repeat' with_reducible first
      | assumption | refine State.readCmd_keeps _ _ _ _ ?_

theorem execReadStatusRegister_keeps (c : SpiCmd) (s : State) : s.keepsRes (execReadStatusRegister c s) := by
  have h0 := State.keeps_refl s
  unfold execReadStatusRegister
  repeat' first
    | with_reducible first
        | assumption | refine State.dataCmd_keeps _ _ _ _ _ ?_ | refine keepsRes_next ?_ | refine ite_keeps ?_ ?_
    | (intro _ _ _) | (intro _ _) | split | (simp; done) | (dsimp only)

theorem execReadJedecId_keeps (c : SpiCmd) (s : State) : s.keepsRes (execReadJedecId c s) := by
  have h0 := State.keeps_refl s
  unfold execReadJedecId
  repeat' first
    | with_reducible first
        | assumption | refine State.dataCmd_keeps _ _ _ _ _ ?_ | refine keepsRes_next ?_ | refine ite_keeps ?_ ?_
    | (intro _ _ _) | (intro _ _) | split | (simp; done) | (dsimp only)

theorem execReadSfdp_keeps (c : SpiCmd) (s : State) : s.keepsRes (execReadSfdp c s) := by
  have h0 := State.keeps_refl s
  unfold execReadSfdp
  repeat' with_reducible first
      | assumption | refine State.dataCmd_keeps _ _ _ _ _ ?_

theorem execWriteEnable_keeps (c : SpiCmd) (s : State) : s.keepsRes (execWriteEnable c s) := by
  have h0 := State.keeps_refl s
  unfold execWriteEnable
  repeat' first
    | with_reducible first
        | assumption | apply State.fresh_keeps | apply State.disarm_keeps | apply State.passThrough_keeps
        | apply State.modPort_keeps | apply State.unknownCmd_keeps
        | refine State.plainCmd_keeps _ _ _ _ _ _ ?_ ?_ ?_ ?_ | refine keepsRes_next ?_
    | (intro _ _ _) | (intro _ _) | (simp; done) | (dsimp only)

theorem execWriteDisable_keeps (c : SpiCmd) (s : State) : s.keepsRes (execWriteDisable c s) := by
  have h0 := State.keeps_refl s
  unfold execWriteDisable
  repeat' first
    | with_reducible first
        | assumption | apply State.fresh_keeps | apply State.disarm_keeps | apply State.passThrough_keeps
        | apply State.modPort_keeps | apply State.unknownCmd_keeps
        | refine State.plainCmd_keeps _ _ _ _ _ _ ?_ ?_ ?_ ?_ | refine keepsRes_next ?_
    | (intro _ _ _) | (intro _ _) | (simp; done) | (dsimp only)

theorem execPageProgram_keeps (c : SpiCmd) (s : State) : s.keepsRes (execPageProgram c s) := by
  have h0 := State.keeps_refl s
  unfold execPageProgram
  repeat' with_reducible first
      | assumption | refine State.writeCmd_keeps _ _ _ _ _ ?_

theorem execQuadInputPageProgram_keeps (c : SpiCmd) (s : State) : s.keepsRes (execQuadInputPageProgram c s) := by
  have h0 := State.keeps_refl s
  unfold execQuadInputPageProgram
  repeat' with_reducible first
      | assumption | refine State.writeCmd_keeps _ _ _ _ _ ?_

theorem execErase4Kib_keeps (c : SpiCmd) (s : State) : s.keepsRes (execErase4Kib c s) := by
  have h0 := State.keeps_refl s
  unfold execErase4Kib
  repeat' with_reducible first
      | assumption | refine State.writeCmd_keeps _ _ _ _ _ ?_

theorem execErase64Kib_keeps (c : SpiCmd) (s : State) : s.keepsRes (execErase64Kib c s) := by
  have h0 := State.keeps_refl s
  unfold execErase64Kib
  repeat' with_reducible first
      | assumption | refine State.writeCmd_keeps _ _ _ _ _ ?_

theorem execChipErase_keeps (c : SpiCmd) (alt : Bool) (s : State) : s.keepsRes (execChipErase c alt s) := by
  have h0 := State.keeps_refl s
  unfold execChipErase
  repeat' first
    | with_reducible first
        | assumption | apply State.fresh_keeps | apply State.disarm_keeps | apply State.refuse_keeps
        | apply State.listRefuse_keeps | refine State.plainCmd_keeps _ _ _ _ _ _ ?_ ?_ ?_ ?_ | refine keepsRes_next ?_
        | refine ite_keeps ?_ ?_
    | (intro _ _ _) | (intro _ _) | split | (simp; done) | (dsimp only)

theorem execWriteStatusRegister_keeps (c : SpiCmd) (s : State) : s.keepsRes (execWriteStatusRegister c s) := by
  have h0 := State.keeps_refl s
  unfold execWriteStatusRegister
  repeat' first
    | with_reducible first
        | assumption | apply State.fresh_keeps | apply State.disarm_keeps | apply State.refuse_keeps
        | refine State.plainCmd_keeps _ _ _ _ _ _ ?_ ?_ ?_ ?_ | refine keepsRes_next ?_
    | (intro _ _ _) | (intro _ _) | (simp; done) | (dsimp only)

theorem execWriteVolatileConfiguration_keeps (c : SpiCmd) (s : State) : s.keepsRes (execWriteVolatileConfiguration c s)
    := by
  have h0 := State.keeps_refl s
  unfold execWriteVolatileConfiguration
  repeat' first
    | with_reducible first
        | assumption | apply State.fresh_keeps | apply State.disarm_keeps | apply State.passThrough_keeps
        | apply State.refuse_keeps | apply State.modPort_keeps | refine State.plainCmd_keeps _ _ _ _ _ _ ?_ ?_ ?_ ?_
        | refine keepsRes_next ?_ | refine ite_keeps ?_ ?_
    | (intro _ _ _) | (intro _ _) | split | (simp; done) | (dsimp only)

theorem execSecurityRegisterCommand_keeps (c : SpiCmd) (erase : Bool) (s : State) : s.keepsRes
    (execSecurityRegisterCommand c erase s) := by
  have h0 := State.keeps_refl s
  unfold execSecurityRegisterCommand
  repeat' first
    | with_reducible first
        | assumption | apply State.fresh_keeps | apply State.disarm_keeps | apply State.refuse_keeps
        | apply State.unknownCmd_keeps | refine State.plainCmd_keeps _ _ _ _ _ _ ?_ ?_ ?_ ?_ | refine keepsRes_next ?_
        | refine ite_keeps ?_ ?_
    | (intro _ _ _) | (intro _ _) | split | (simp; done) | (dsimp only)

theorem execEnter4ByteAddressMode_keeps (c : SpiCmd) (s : State) : s.keepsRes (execEnter4ByteAddressMode c s) := by
  have h0 := State.keeps_refl s
  unfold execEnter4ByteAddressMode
  repeat' first
    | with_reducible first
        | assumption | apply State.fresh_keeps | apply State.disarm_keeps | apply State.passThrough_keeps
        | apply State.modPort_keeps | apply State.unknownCmd_keeps
        | refine State.plainCmd_keeps _ _ _ _ _ _ ?_ ?_ ?_ ?_ | refine keepsRes_next ?_
    | (intro _ _ _) | (intro _ _) | (simp; done) | (dsimp only)

theorem execExit4ByteAddressMode_keeps (c : SpiCmd) (s : State) : s.keepsRes (execExit4ByteAddressMode c s) := by
  have h0 := State.keeps_refl s
  unfold execExit4ByteAddressMode
  repeat' first
    | with_reducible first
        | assumption | apply State.fresh_keeps | apply State.disarm_keeps | apply State.passThrough_keeps
        | apply State.modPort_keeps | apply State.unknownCmd_keeps
        | refine State.plainCmd_keeps _ _ _ _ _ _ ?_ ?_ ?_ ?_ | refine keepsRes_next ?_
    | (intro _ _ _) | (intro _ _) | (simp; done) | (dsimp only)

theorem execEnterQpi_keeps (c : SpiCmd) (s : State) : s.keepsRes (execEnterQpi c s) := by
  have h0 := State.keeps_refl s
  unfold execEnterQpi
  repeat' first
    | with_reducible first
        | assumption | apply State.fresh_keeps | apply State.disarm_keeps | apply State.passThrough_keeps
        | apply State.refuse_keeps | apply State.modPort_keeps | refine State.plainCmd_keeps _ _ _ _ _ _ ?_ ?_ ?_ ?_
        | refine keepsRes_next ?_ | refine ite_keeps ?_ ?_
    | (intro _ _ _) | (intro _ _) | split | (simp; done) | (dsimp only)

theorem execExitQpi_keeps (c : SpiCmd) (s : State) : s.keepsRes (execExitQpi c s) := by
  have h0 := State.keeps_refl s
  unfold execExitQpi
  repeat' first
    | with_reducible first
        | assumption | apply State.fresh_keeps | apply State.disarm_keeps | apply State.passThrough_keeps
        | apply State.leaveQpi_keeps | apply State.refuse_keeps | refine State.plainCmd_keeps _ _ _ _ _ _ ?_ ?_ ?_ ?_
        | refine keepsRes_next ?_
    | (intro _ _ _) | (intro _ _) | (simp; done) | (dsimp only)

theorem execResetEnable_keeps (c : SpiCmd) (s : State) : s.keepsRes (execResetEnable c s) := by
  have h0 := State.keeps_refl s
  unfold execResetEnable
  repeat' first
    | with_reducible first
        | assumption | apply State.fresh_keeps | apply State.disarm_keeps | apply State.passThrough_keeps
        | apply State.modPort_keeps | apply State.unknownCmd_keeps
        | refine State.plainCmd_keeps _ _ _ _ _ _ ?_ ?_ ?_ ?_ | refine keepsRes_next ?_
    | (intro _ _ _) | (intro _ _) | (simp; done) | (dsimp only)

theorem execStileReset_keeps (c : SpiCmd) (s : State) : s.keepsRes (execStileReset c s) := by
  have h0 := State.keeps_refl s
  unfold execStileReset
  repeat' first
    | with_reducible first
        | assumption | apply State.fresh_keeps | apply State.disarm_keeps | apply State.passThrough_keeps
        | apply State.portResetWire_keeps | apply State.unknownCmd_keeps
        | refine State.plainCmd_keeps _ _ _ _ _ _ ?_ ?_ ?_ ?_ | refine keepsRes_next ?_ | refine ite_keeps ?_ ?_
    | (intro _ _ _) | (intro _ _) | split | (simp; done) | (dsimp only)

theorem execUnknownCommand_keeps (c : SpiCmd) (opcode : Nat) (s : State) : s.keepsRes (execUnknownCommand c opcode s) :=
    by
  have h0 := State.keeps_refl s
  unfold execUnknownCommand
  repeat' first
    | with_reducible first
        | assumption | apply State.fresh_keeps | apply State.disarm_keeps | apply State.interrupt_keeps
        | apply State.emit_keeps | apply State.modPort_keeps | apply State.latch_keeps | apply State.cancelDown_keeps
        | apply State.refuse_keeps | apply State.passThrough_keeps | apply State.unknownCmd_keeps
        | refine keepsRes_next ?_ | refine ite_keeps ?_ ?_
    | (intro _ _ _) | split | (simp; done) | (dsimp only)

theorem execStnRstNLow_keeps (port : Nat) (s : State) : s.keepsRes (execStnRstNLow port s) := by
  have h0 := State.keeps_refl s
  unfold execStnRstNLow
  repeat' with_reducible first
      | assumption | apply State.fresh_keeps | apply State.portResetWire_keeps | refine keepsRes_next ?_

theorem execRefusedBusyEnd_keeps (port : Nat) (s : State) : s.keepsRes (execRefusedBusyEnd port s) := by
  have h0 := State.keeps_refl s
  unfold execRefusedBusyEnd
  repeat' first
    | with_reducible first
        | assumption | apply State.fresh_keeps | apply State.modPort_keeps | refine keepsRes_next ?_
    | split

theorem execDownstreamStatusPoll_keeps (port : Nat) (idle : Bool) (s : State) : s.keepsRes (execDownstreamStatusPoll
    port idle s) := by
  have h0 := State.keeps_refl s
  unfold execDownstreamStatusPoll
  repeat' with_reducible first
      | assumption | apply State.fresh_keeps | apply State.emit_keeps | apply State.modPort_keeps
      | refine keepsRes_next ?_ | refine ite_keeps ?_ ?_

theorem execTagVerdict_keeps (port host : Nat) (block : Bytes) (s : State) : s.keepsRes (execTagVerdict port host
    block s) := by
  have h0 := State.keeps_refl s
  unfold execTagVerdict
  repeat' first
    | with_reducible first
        | assumption | apply State.fresh_keeps | apply State.modPort_keeps | apply State.tagFailed_keeps
        | refine keepsRes_next ?_ | refine ite_keeps ?_ ?_
    | split

theorem execDebtClearRead_keeps (port : Nat) (s : State) : s.keepsRes (execDebtClearRead port s) := by
  have h0 := State.keeps_refl s
  unfold execDebtClearRead
  repeat' first
    | with_reducible first
        | assumption | apply State.fresh_keeps | refine keepsRes_next ?_ | refine ite_keeps ?_ ?_
    | split | (refine State.readBlock_keeps (by assumption) ?_) | (simp; done) | (dsimp only)

theorem execSweepComplete_keeps (port : Nat) (s : State) : s.keepsRes (execSweepComplete port s) := by
  have h0 := State.keeps_refl s
  unfold execSweepComplete
  repeat' first
    | with_reducible first
        | assumption | apply State.fresh_keeps | apply State.modPort_keeps | apply State.latch_keeps
        | apply State.ev_keeps | apply State.beginSweep_keeps | refine keepsRes_next ?_ | refine ite_keeps ?_ ?_
    | split

theorem execSweepLate_keeps (port : Nat) (s : State) : s.keepsRes (execSweepLate port s) := by
  have h0 := State.keeps_refl s
  unfold execSweepLate
  repeat' first
    | with_reducible first
        | assumption | apply State.fresh_keeps | apply State.modPort_keeps | apply State.latch_keeps
        | apply State.ev_keeps | refine keepsRes_next ?_
    | split

theorem execPlatformTrialExpiry_keeps (port : Nat) (s : State) : s.keepsRes (execPlatformTrialExpiry port s) := by
  have h0 := State.keeps_refl s
  unfold execPlatformTrialExpiry
  repeat' first
    | with_reducible first
        | assumption | apply State.fresh_keeps | apply State.modPort_keeps | apply State.latch_keeps
        | apply State.ev_keeps | apply State.recoverAsk_keeps | refine keepsRes_next ?_
    | split

theorem execRecoveryComplete_keeps (port : Nat) (h : HoldInput) (s : State) : s.keepsRes (execRecoveryComplete port h
    s) := by
  have h0 := State.keeps_refl s
  unfold execRecoveryComplete
  repeat' with_reducible first
      | assumption | apply State.fresh_keeps | apply State.endPortHold_keeps | apply State.modPort_keeps
      | apply State.latch_keeps | apply State.ev_keeps | apply State.setOp_keeps | apply State.holdingActs_keeps
      | refine keepsRes_next ?_ | refine ite_keeps ?_ ?_

theorem execQueryDeviceIdentifiers_keeps (q : PldmFrom) (s : State) : s.keepsRes (execQueryDeviceIdentifiers q s) :=
    by
  have h0 := State.keeps_refl s
  unfold execQueryDeviceIdentifiers
  repeat' first
    | with_reducible first
        | assumption | apply State.pldmReply_keeps | refine State.pldmReq_keeps _ _ _ _ _ ?_ ?_
        | refine keepsRes_next ?_
    | (intro _ _ _) | (intro _ _) | (simp; done) | (dsimp only)

theorem execGetFirmwareParameters_keeps (q : PldmFrom) (s : State) : s.keepsRes (execGetFirmwareParameters q s) := by
  have h0 := State.keeps_refl s
  unfold execGetFirmwareParameters
  repeat' first
    | with_reducible first
        | assumption | apply State.pldmReply_keeps | refine State.pldmReq_keeps _ _ _ _ _ ?_ ?_
        | refine keepsRes_next ?_
    | (intro _ _ _) | (intro _ _) | (simp; done) | (dsimp only)

theorem execRequestUpdate_keeps (q : PldmFrom) (maxXfer : Nat) (s : State) : s.keepsRes (execRequestUpdate q maxXfer s) := by
  have h0 := State.keeps_refl s
  unfold execRequestUpdate
  repeat' first
    | with_reducible first
        | assumption | apply State.pldmReply_keeps | apply State.modPldm_keeps | apply State.modPldm_keeps
        | refine State.pldmReq_keeps _ _ _ _ _ ?_ ?_ | refine keepsRes_next ?_ | refine ite_keeps ?_ ?_
    | (intro _ _ _) | (intro _ _) | split | (simp; done) | (dsimp only)

theorem execPassComponentTable_keeps (q : PldmFrom) (comp : Component) (s : State) : s.keepsRes (execPassComponentTable q comp s) := by
  have h0 := State.keeps_refl s
  unfold execPassComponentTable
  repeat' first
    | with_reducible first
        | assumption | apply State.pldmReply_keeps | apply State.modPldm_keeps | apply State.modPldm_keeps
        | refine State.pldmReq_keeps _ _ _ _ _ ?_ ?_ | refine keepsRes_next ?_ | refine ite_keeps ?_ ?_
    | (intro _ _ _) | (intro _ _) | split | (simp; done) | (dsimp only)

theorem execUpdateComponent_keeps (q : PldmFrom) (comp : Component) (stamp size : Nat) (s : State) : s.keepsRes (execUpdateComponent q comp stamp size s) := by
  have h0 := State.keeps_refl s
  unfold execUpdateComponent
  repeat' first
    | with_reducible first
        | assumption | apply State.pldmReply_keeps | apply State.latch_keeps | apply State.ev_keeps
        | apply State.modPldm_keeps | apply State.requestData_keeps | apply State.modPldm_keeps
        | refine State.pldmReq_keeps _ _ _ _ _ ?_ ?_ | refine keepsRes_next ?_ | refine ite_keeps ?_ ?_
    | (intro _ _ _) | (intro _ _) | split | (simp; done) | (dsimp only)

theorem execFirmwareDataReceived_keeps (q : PldmFrom) (data : Bytes) (flashOk : Bool) (readback : Option (List Bytes)) (s
    : State) : s.keepsRes (execFirmwareDataReceived q data flashOk readback s) := by
  have h0 := State.keeps_refl s
  unfold execFirmwareDataReceived
  repeat' first
    | with_reducible first
        | assumption | apply State.fresh_keeps | apply State.lateMctp_keeps | apply State.modPldm_keeps
        | apply State.portionIn_keeps | apply State.modPldm_keeps | refine keepsRes_next ?_ | refine ite_keeps ?_ ?_
    | (intro _ _ _) | split | (simp; done) | (dsimp only)

theorem execActivateFirmware_keeps (q : PldmFrom) (selfContained : Bool) (s : State) : s.keepsRes (execActivateFirmware q selfContained s) := by
  have h0 := State.keeps_refl s
  unfold execActivateFirmware
  repeat' first
    | with_reducible first
        | assumption | apply State.pldmReply_keeps | apply State.portActivate_keeps | apply State.modPldm_keeps
        | apply State.ev_keeps | apply State.modPldm_keeps | refine State.pldmReq_keeps _ _ _ _ _ ?_ ?_
        | refine keepsRes_next ?_ | refine foldl_keeps _ _ _ ?_ ?_ | refine ite_keeps ?_ ?_
        | refine ite_keeps_fst ?_ ?_ | refine ite_keeps_snd ?_ ?_
    | (intro _ _ _) | (intro _ _) | split | (simp; done) | (dsimp only)

theorem execGetStatus_keeps (q : PldmFrom) (s : State) : s.keepsRes (execGetStatus q s) := by
  have h0 := State.keeps_refl s
  unfold execGetStatus
  repeat' first
    | with_reducible first
        | assumption | apply State.pldmReply_keeps | refine State.pldmReq_keeps _ _ _ _ _ ?_ ?_
        | refine keepsRes_next ?_
    | (intro _ _ _) | (intro _ _) | (simp; done) | (dsimp only)

theorem execCancelUpdateComponent_keeps (q : PldmFrom) (s : State) : s.keepsRes (execCancelUpdateComponent q s) := by
  have h0 := State.keeps_refl s
  unfold execCancelUpdateComponent
  repeat' first
    | with_reducible first
        | assumption | apply State.pldmReply_keeps | apply State.endTransfer_keeps
        | refine State.pldmReq_keeps _ _ _ _ _ ?_ ?_ | refine keepsRes_next ?_ | refine ite_keeps ?_ ?_
    | (intro _ _ _) | (intro _ _) | split | (simp; done) | (dsimp only)

theorem execCancelUpdate_keeps (q : PldmFrom) (s : State) : s.keepsRes (execCancelUpdate q s) := by
  have h0 := State.keeps_refl s
  unfold execCancelUpdate
  repeat' first
    | with_reducible first
        | assumption | apply State.pldmReply_keeps | apply State.endTransfer_keeps | apply State.modPldm_keeps
        | apply State.modPldm_keeps | refine State.pldmReq_keeps _ _ _ _ _ ?_ ?_ | refine keepsRes_next ?_
        | refine ite_keeps ?_ ?_
    | (intro _ _ _) | (intro _ _) | split | (simp; done) | (dsimp only)

theorem execPldmTimeout_keeps (s : State) : s.keepsRes (execPldmTimeout s) := by
  have h0 := State.keeps_refl s
  unfold execPldmTimeout
  repeat' with_reducible first
      | assumption | apply State.fresh_keeps | apply State.endTransfer_keeps | apply State.modPldm_keeps
      | refine keepsRes_next ?_ | refine ite_keeps ?_ ?_

theorem execSetEndpointId_keeps (bus eid : Nat) (s : State) : s.keepsRes (execSetEndpointId bus eid s) := by
  have h0 := State.keeps_refl s
  unfold execSetEndpointId
  repeat' first
    | with_reducible first
        | assumption | apply State.fresh_keeps | apply State.modPar_keeps | apply State.mctpAnswer_keeps
        | apply State.modPar_keeps | refine keepsRes_next ?_ | refine ite_keeps ?_ ?_
    | (intro _ _ _) | split | (simp; done) | (dsimp only)

theorem execDynamicAddressAssignment_keeps (bus addr : Nat) (s : State) : s.keepsRes (execDynamicAddressAssignment bus
    addr s) := by
  have h0 := State.keeps_refl s
  unfold execDynamicAddressAssignment
  repeat' with_reducible first
      | assumption | apply State.fresh_keeps | apply State.setDyn_keeps | refine keepsRes_next ?_
      | refine ite_keeps ?_ ?_

theorem execRstdaa_keeps (bus : Nat) (s : State) : s.keepsRes (execRstdaa bus s) := by
  have h0 := State.keeps_refl s
  unfold execRstdaa
  repeat' with_reducible first
      | assumption | apply State.fresh_keeps | apply State.setDyn_keeps | refine keepsRes_next ?_
      | refine ite_keeps ?_ ?_

theorem execEnthdr_keeps (_bus _transfers : Nat) (s : State) : s.keepsRes (execEnthdr _bus _transfers s) := by
  have h0 := State.keeps_refl s
  unfold execEnthdr
  repeat' with_reducible first
      | assumption | apply State.fresh_keeps | refine keepsRes_next ?_

theorem execHotJoin_keeps (f : Found) (s : State) : s.keepsRes (execHotJoin f s) := by
  have h0 := State.keeps_refl s
  unfold execHotJoin
  repeat' first
    | with_reducible first
        | assumption | apply State.fresh_keeps | apply State.latch_keeps | apply State.emit_keeps
        | apply State.discover_keeps | refine keepsRes_next ?_ | refine ite_keeps ?_ ?_
    | split | (simp; done) | (dsimp only)

theorem execRequesterResponse_keeps (k : Nat) (r : Resp) (s : State) : s.keepsRes (execRequesterResponse k r s) := by
  have h0 := State.keeps_refl s
  unfold execRequesterResponse
  repeat' first
    | with_reducible first
        | assumption | apply State.fresh_keeps | apply State.lateMctp_keeps | apply State.modPar_keeps
        | apply State.latch_keeps | apply State.modPartner_keeps | apply State.stepDone_keeps
        | apply State.modPar_keeps | refine keepsRes_next ?_ | refine ite_keeps ?_ ?_
    | (intro _ _ _) | split | (simp; done) | (dsimp only)

theorem execRequesterTimeout_keeps (k : Nat) (s : State) : s.keepsRes (execRequesterTimeout k s) := by
  have h0 := State.keeps_refl s
  unfold execRequesterTimeout
  repeat' first
    | with_reducible first
        | assumption | apply State.fresh_keeps | apply State.restTag_keeps | apply State.modPartner_keeps
        | apply State.sendReq_keeps | apply State.partnerVerdict_keeps | refine keepsRes_next ?_
        | refine ite_keeps ?_ ?_
    | (intro _ _ _) | split | (simp; done) | (dsimp only)

theorem execPartnerPoll_keeps (k : Nat) (answered : Bool) (s : State) : s.keepsRes (execPartnerPoll k answered s) := by
  have h0 := State.keeps_refl s
  unfold execPartnerPoll
  repeat' first
    | with_reducible first
        | assumption | apply State.fresh_keeps | apply State.ctrlReq_keeps | apply State.restTag_keeps
        | apply State.modPartner_keeps | apply State.depart_keeps | refine keepsRes_next ?_ | refine ite_keeps ?_ ?_
    | (intro _ _ _) | split | (simp; done) | (dsimp only)

theorem execQuarantineExpiry_keeps (eid : Bool) (bus v : Nat) (s : State) : s.keepsRes (execQuarantineExpiry eid bus v
    s) := by
  have h0 := State.keeps_refl s
  unfold execQuarantineExpiry
  repeat' first
    | with_reducible first
        | assumption | apply State.fresh_keeps | apply State.modPar_keeps | apply State.joinMctp_keeps
        | refine keepsRes_next ?_
    | split
    | (dsimp only)

theorem execReattestTimer_keeps (s : State) : s.keepsRes (execReattestTimer s) := by
  have h0 := State.keeps_refl s
  unfold execReattestTimer
  repeat' first
    | with_reducible first
        | assumption | apply State.fresh_keeps | apply State.attest_keeps | apply State.modPar_keeps
        | refine keepsRes_next ?_ | refine foldl_keeps _ _ _ ?_ ?_ | refine ite_keeps ?_ ?_
    | (intro _ _ _)
    | (simp; done)

theorem execGetVersion_keeps (q : SpdmReq) (s : State) : s.keepsRes (execGetVersion q s) := by
  have h0 := State.keeps_refl s
  unfold execGetVersion
  repeat' first
    | with_reducible first
        | assumption | apply State.fresh_keeps | apply State.spdmErr_keeps | apply State.putConn_keeps
        | apply State.spdmReply_keeps | refine keepsRes_next ?_ | refine ite_keeps ?_ ?_
    | split | (refine State.spdmTakes_keeps (by assumption) ?_) | (simp; done) | (dsimp only)

theorem execGetCapabilities_keeps (q : SpdmReq) (s : State) : s.keepsRes (execGetCapabilities q s) := by
  have h0 := State.keeps_refl s
  unfold execGetCapabilities
  repeat' first
    | with_reducible first
        | assumption | refine State.spdmReq_keeps _ _ _ _ _ ?_ ?_ | apply State.spdmErr_keeps
        | apply State.putConn_keeps | apply State.spdmReply_keeps | refine ite_keeps ?_ ?_
    | (intro _ _ _)

theorem execNegotiateAlgorithms_keeps (q : SpdmReq) (common : Bool) (s : State) : s.keepsRes (execNegotiateAlgorithms
    q common s) := by
  have h0 := State.keeps_refl s
  unfold execNegotiateAlgorithms
  repeat' first
    | with_reducible first
        | assumption | refine State.spdmReq_keeps _ _ _ _ _ ?_ ?_ | apply State.putConn_keeps
        | apply State.spdmReply_keeps | apply State.spdmErr_keeps | refine ite_keeps ?_ ?_
    | (intro _ _ _)

theorem execGetDigests_keeps (q : SpdmReq) (s : State) : s.keepsRes (execGetDigests q s) := by
  have h0 := State.keeps_refl s
  unfold execGetDigests
  repeat' first
    | with_reducible first
        | assumption | refine State.spdmReq_keeps _ _ _ _ _ ?_ ?_ | apply State.spdmReply_keeps
    | (intro _ _ _)

theorem execGetCertificate_keeps (q : SpdmReq) (slot off len : Nat) (s : State) : s.keepsRes (execGetCertificate q
    slot off len s) := by
  have h0 := State.keeps_refl s
  unfold execGetCertificate
  repeat' first
    | with_reducible first
        | assumption | refine State.spdmReq_keeps _ _ _ _ _ ?_ ?_ | apply State.spdmErr_keeps
        | apply State.spdmReply_keeps
    | (intro _ _ _)
    | split

theorem execChallenge_keeps (q : SpdmReq) (slot summary : Nat) (s : State) : s.keepsRes (execChallenge q slot summary s)
    := by
  have h0 := State.keeps_refl s
  unfold execChallenge
  repeat' first
    | with_reducible first
        | assumption | apply State.spdmErr_keeps | apply State.signOwed_keeps
        | refine State.spdmReq_keeps _ _ _ _ _ ?_ ?_ | refine keepsRes_next ?_ | refine ite_keeps ?_ ?_
    | (intro _ _ _) | split | (simp; done) | (dsimp only)

theorem execGetMeasurements_keeps (q : SpdmReq) (index : Nat) (sign : Bool) (s : State) : s.keepsRes
    (execGetMeasurements q index sign s) := by
  have h0 := State.keeps_refl s
  unfold execGetMeasurements
  repeat' first
    | with_reducible first
        | assumption | apply State.putConn_keeps | apply State.spdmErr_keeps | apply State.signOwed_keeps
        | apply State.spdmReply_keeps | refine State.spdmReq_keeps _ _ _ _ _ ?_ ?_ | refine keepsRes_next ?_
        | refine ite_keeps ?_ ?_
    | (intro _ _ _) | split | (simp; done) | (dsimp only)

theorem execKeyExchange_keeps (q : SpdmReq) (slot : Nat) (s : State) : s.keepsRes (execKeyExchange q slot s) := by
  have h0 := State.keeps_refl s
  unfold execKeyExchange
  repeat' first
    | with_reducible first
        | assumption | apply State.spdmErr_keeps | apply State.latch_keeps | apply State.signOwed_keeps
        | refine State.spdmReq_keeps _ _ _ _ _ ?_ ?_ | refine keepsRes_next ?_ | refine ite_keeps ?_ ?_
    | (intro _ _ _) | split | (simp; done) | (dsimp only)

theorem execFinish_keeps (q : SpdmReq) (sid : Nat) (hmacOk : Bool) (s : State) : s.keepsRes (execFinish q sid hmacOk s)
    := by
  have h0 := State.keeps_refl s
  unfold execFinish
  repeat' first
    | with_reducible first
        | assumption | apply State.spdmErr_keeps | apply State.endSpdm_keeps | apply State.modSpdm_keeps
        | apply State.spdmReply_keeps | apply State.ev_keeps | refine State.spdmInReq_keeps _ _ _ _ ?_ ?_
        | refine keepsRes_next ?_ | refine ite_keeps ?_ ?_
    | (intro _ _ _) | split | (simp; done) | (dsimp only)

theorem execHeartbeat_keeps (q : SpdmReq) (sid : Nat) (s : State) : s.keepsRes (execHeartbeat q sid s) := by
  have h0 := State.keeps_refl s
  unfold execHeartbeat
  repeat' first
    | with_reducible first
        | assumption | apply State.spdmReply_keeps | apply State.spdmErr_keeps
        | refine State.spdmInReq_keeps _ _ _ _ ?_ ?_ | refine keepsRes_next ?_ | refine ite_keeps ?_ ?_
    | (intro _ _ _) | split | (simp; done) | (dsimp only)

theorem execKeyUpdate_keeps (q : SpdmReq) (sid op : Nat) (s : State) : s.keepsRes (execKeyUpdate q sid op s) := by
  have h0 := State.keeps_refl s
  unfold execKeyUpdate
  repeat' first
    | with_reducible first
        | assumption | apply State.spdmErr_keeps | apply State.modSpdm_keeps | apply State.spdmReply_keeps
        | refine State.spdmInReq_keeps _ _ _ _ ?_ ?_ | refine keepsRes_next ?_ | refine ite_keeps ?_ ?_
    | (intro _ _ _) | split | (simp; done) | (dsimp only)

theorem execRespondIfReady_keeps (q : SpdmReq) (s : State) : s.keepsRes (execRespondIfReady q s) := by
  have h0 := State.keeps_refl s
  unfold execRespondIfReady
  repeat' first
    | with_reducible first
        | assumption | apply State.fresh_keeps | apply State.spdmErr_keeps | apply State.signedReply_keeps
        | apply State.notReady_keeps | refine keepsRes_next ?_ | refine ite_keeps ?_ ?_
    | (intro _ _ _) | split | (refine State.spdmTakes_keeps (by assumption) ?_) | (simp; done) | (dsimp only)

theorem execUnsupportedSpdmRequest_keeps (q : SpdmReq) (_code : Nat) (s : State) : s.keepsRes
    (execUnsupportedSpdmRequest q _code s) := by
  have h0 := State.keeps_refl s
  unfold execUnsupportedSpdmRequest
  repeat' first
    | with_reducible first
        | assumption | apply State.fresh_keeps | apply State.spdmErr_keeps | refine keepsRes_next ?_
        | refine ite_keeps ?_ ?_
    | split | (refine State.spdmTakes_keeps (by assumption) ?_) | (simp; done) | (dsimp only)

theorem execSecuredMessage_keeps (q : SpdmReq) (sid : Nat) (aeadOk : Bool) (s : State) : s.keepsRes
    (execSecuredMessage q sid aeadOk s) := by
  have h0 := State.keeps_refl s
  unfold execSecuredMessage
  repeat' first
    | with_reducible first
        | assumption | refine State.spdmIn_keeps _ _ _ _ ?_ ?_ | apply State.spdmErr_keeps
        | apply State.endSpdm_keeps | apply State.latch_keeps | refine ite_keeps ?_ ?_
    | (intro _ _ _)

theorem execSessionHeartbeatTimeout_keeps (sid : Nat) (s : State) : s.keepsRes (execSessionHeartbeatTimeout sid s) := by
  have h0 := State.keeps_refl s
  unfold execSessionHeartbeatTimeout
  repeat' first
    | with_reducible first
        | assumption | apply State.fresh_keeps | apply State.endOwnSession_keeps | apply State.latch_keeps
        | apply State.endSpdm_keeps | refine keepsRes_next ?_ | refine ite_keeps ?_ ?_
    | (intro _ _ _) | split | (simp; done) | (dsimp only)

theorem execClientHello_keeps (port conn : Nat) (acceptable : Bool) (s : State) : s.keepsRes (execClientHello port
    conn acceptable s) := by
  have h0 := State.keeps_refl s
  unfold execClientHello
  repeat' with_reducible first
      | assumption | apply State.fresh_keeps | apply State.emit_keeps | apply State.latch_keeps
      | apply State.modDict_keeps | refine keepsRes_next ?_ | refine ite_keeps ?_ ?_

theorem execDictOpen_keeps (ch : Chan) (cred : Nat) (s : State) : s.keepsRes (execDictOpen ch cred s) := by
  have h0 := State.keeps_refl s
  unfold execDictOpen
  repeat' first
    | with_reducible first
        | assumption | apply State.fresh_keeps | apply State.dictOff_keeps | apply State.emit_keeps
        | apply State.latch_keeps | apply State.sendReply_keeps | apply State.draw_keeps | apply State.freshId_keeps
        | apply State.modDict_keeps | refine keepsRes_next ?_
    | split

theorem execDictAuth_keeps (r : Req) (key sig : Bytes) (binding : Bytes) (s : State) : s.keepsRes (execDictAuth r key
    sig binding s) := by
  have h0 := State.keeps_refl s
  unfold execDictAuth
  repeat' first
    | with_reducible first
        | assumption | apply State.fresh_keeps | apply State.dictDiscard_keeps | apply State.reply_keeps
        | apply State.dictOff_keeps | apply State.touch_keeps | apply State.authFails_keeps
        | apply State.modSession_keeps | apply State.addDev_keeps | apply State.authDone_keeps
        | refine State.request_keeps _ _ _ _ ?_ ?_ | refine keepsRes_next ?_ | refine ite_keeps ?_ ?_
    | (intro _ _ _) | split | (simp; done) | (dsimp only)

theorem execDictClose_keeps (r : Req) (s : State) : s.keepsRes (execDictClose r s) := by
  have h0 := State.keeps_refl s
  unfold execDictClose
  repeat' first
    | with_reducible first
        | assumption | apply State.fresh_keeps | refine State.request_keeps _ _ _ _ ?_ ?_ | apply State.reply_keeps
        | apply State.endSession_keeps | refine keepsRes_next ?_
    | (intro _ _ _)

theorem execDictRead_keeps (ch : Chan) (r : Req) (index sub off : Nat) (s : State) : s.keepsRes (execDictRead ch r
    index sub off s) := by
  have h0 := State.keeps_refl s
  unfold execDictRead
  repeat' first
    | with_reducible first
        | assumption | apply State.fresh_keeps | refine State.request_keeps _ _ _ _ ?_ ?_ | apply State.readOn_keeps
        | apply State.dictOff_keeps | apply State.sendReply_keeps | refine keepsRes_next ?_ | refine ite_keeps ?_ ?_
    | (intro _ _ _)

theorem execDictWrite_keeps (r : Req) (index sub : Nat) (value : Bytes) (s : State) : s.keepsRes (execDictWrite r
    index sub value s) := by
  have h0 := State.keeps_refl s
  unfold execDictWrite
  repeat' with_reducible first
      | assumption | apply State.fresh_keeps | apply State.writeRow_keeps | refine keepsRes_next ?_

theorem execWritePart_keeps (r : Req) (index sub off : Nat) (data : Bytes) (s : State) : s.keepsRes (execWritePart r
    index sub off data s) := by
  have h0 := State.keeps_refl s
  unfold execWritePart
  repeat' first
    | with_reducible first
        | assumption | apply State.fresh_keeps | refine State.request_keeps _ _ _ _ ?_ ?_
        | apply State.modSession_keeps | apply State.reply_keeps | refine keepsRes_next ?_ | refine ite_keeps ?_ ?_
    | (intro _ _ _)

theorem execWriteEnd_keeps (r : Req) (index sub total : Nat) (digest : Bytes) (s : State) : s.keepsRes (execWriteEnd r
    index sub total digest s) := by
  have h0 := State.keeps_refl s
  unfold execWriteEnd
  repeat' first
    | with_reducible first
        | assumption | apply State.fresh_keeps | refine State.withApproval_keeps _ _ _ _ ?_ ?_
        | apply State.modSession_keeps | apply State.reply_keeps | apply State.writeValue_keeps
        | refine keepsRes_next ?_ | refine ite_keeps ?_ ?_
    | (intro _ _ _)

theorem execApprove_keeps (r : Req) (id : Nat) (digest : Bytes) (s : State) : s.keepsRes (execApprove r id digest s)
    := by
  have h0 := State.keeps_refl s
  unfold execApprove
  repeat' first
    | with_reducible first
        | assumption | apply State.fresh_keeps | refine State.request_keeps _ _ _ _ ?_ ?_
        | apply State.approveBy_keeps | refine keepsRes_next ?_ | refine ite_keeps ?_ ?_
    | (intro _ _ _)

theorem execWithdraw_keeps (r : Req) (id : Nat) (s : State) : s.keepsRes (execWithdraw r id s) := by
  have h0 := State.keeps_refl s
  unfold execWithdraw
  repeat' first
    | with_reducible first
        | assumption | apply State.fresh_keeps | refine State.request_keeps _ _ _ _ ?_ ?_
        | apply State.withdrawBy_keeps | refine keepsRes_next ?_
    | (intro _ _ _)

theorem execProposalExpiry_keeps (id : Nat) (s : State) : s.keepsRes (execProposalExpiry id s) := by
  have h0 := State.keeps_refl s
  unfold execProposalExpiry
  repeat' first
    | with_reducible first
        | assumption | apply State.fresh_keeps | apply State.logChange_keeps | refine keepsRes_next ?_
        | refine ite_keeps ?_ ?_
    | (intro _ _ _) | split | (simp; done) | (dsimp only)

theorem execDictSessionIdle_keeps (sid : Nat) (conn : Bool) (s : State) : s.keepsRes (execDictSessionIdle sid conn s)
    := by
  have h0 := State.keeps_refl s
  unfold execDictSessionIdle
  repeat' first
    | with_reducible first
        | assumption | apply State.fresh_keeps | apply State.endDtls_keeps | apply State.endSession_keeps
        | refine keepsRes_next ?_
    | split

theorem execRemoteRequest_keeps (r : Req) (target op index sub : Nat) (value : Bytes) (role : Nat) (answer : Option
    Reply) (s : State) : s.keepsRes (execRemoteRequest r target op index sub value role answer s) := by
  have h0 := State.keeps_refl s
  unfold execRemoteRequest
  repeat' first
    | with_reducible first
        | assumption | apply State.fresh_keeps | refine State.withApproval_keeps _ _ _ _ ?_ ?_
        | apply State.remoteMaster_keeps | apply State.remoteMember_keeps | refine keepsRes_next ?_
        | refine ite_keeps ?_ ?_
    | (intro _ _ _)

theorem execFwActivate_keeps (r : Req) (slot : Nat) (s : State) : s.keepsRes (execFwActivate r slot s) := by
  have h0 := State.keeps_refl s
  unfold execFwActivate
  repeat' with_reducible first
      | assumption | apply State.fresh_keeps | apply State.writeRow_keeps | refine keepsRes_next ?_

theorem execFwConfirm_keeps (r : Req) (v : Nat) (s : State) : s.keepsRes (execFwConfirm r v s) := by
  have h0 := State.keeps_refl s
  unfold execFwConfirm
  repeat' with_reducible first
      | assumption | apply State.fresh_keeps | apply State.writeRow_keeps | refine keepsRes_next ?_

theorem execFwRestart_keeps (r : Req) (v : Nat) (s : State) : s.keepsRes (execFwRestart r v s) := by
  have h0 := State.keeps_refl s
  unfold execFwRestart
  repeat' with_reducible first
      | assumption | apply State.fresh_keeps | apply State.writeRow_keeps | refine keepsRes_next ?_

theorem execFwFloorRequest_keeps (r : Req) (target : Nat) (s : State) : s.keepsRes (execFwFloorRequest r target s) := by
  have h0 := State.keeps_refl s
  unfold execFwFloorRequest
  repeat' with_reducible first
      | assumption | apply State.fresh_keeps | apply State.writeRow_keeps | refine keepsRes_next ?_

theorem execTimetableLoad_keeps (r : Req) (image : Bytes) (s : State) : s.keepsRes (execTimetableLoad r image s) := by
  have h0 := State.keeps_refl s
  unfold execTimetableLoad
  repeat' with_reducible first
      | assumption | apply State.fresh_keeps | apply State.writeRow_keeps | refine keepsRes_next ?_

theorem execSheetSwitchRequest_keeps (r : Req) (sheet : Nat) (s : State) : s.keepsRes (execSheetSwitchRequest r sheet
    s) := by
  have h0 := State.keeps_refl s
  unfold execSheetSwitchRequest
  repeat' with_reducible first
      | assumption | apply State.fresh_keeps | apply State.writeRow_keeps | refine keepsRes_next ?_

theorem execHalterScheduleWrite_keeps (r : Req) (value : Bytes) (s : State) : s.keepsRes (execHalterScheduleWrite r
    value s) := by
  have h0 := State.keeps_refl s
  unfold execHalterScheduleWrite
  repeat' with_reducible first
      | assumption | apply State.fresh_keeps | apply State.writeRow_keeps | refine keepsRes_next ?_

theorem execHalterResume_keeps (r : Req) (v : Nat) (s : State) : s.keepsRes (execHalterResume r v s) := by
  have h0 := State.keeps_refl s
  unfold execHalterResume
  repeat' with_reducible first
      | assumption | apply State.fresh_keeps | apply State.writeRow_keeps | refine keepsRes_next ?_

theorem execHalterHoldClear_keeps (r : Req) (v : Nat) (s : State) : s.keepsRes (execHalterHoldClear r v s) := by
  have h0 := State.keeps_refl s
  unfold execHalterHoldClear
  repeat' with_reducible first
      | assumption | apply State.fresh_keeps | apply State.writeRow_keeps | refine keepsRes_next ?_

theorem execStileActivate_keeps (r : Req) (port slot : Nat) (s : State) : s.keepsRes (execStileActivate r port slot s)
    := by
  have h0 := State.keeps_refl s
  unfold execStileActivate
  repeat' with_reducible first
      | assumption | apply State.fresh_keeps | apply State.writeRow_keeps | refine keepsRes_next ?_

theorem execStileConfirm_keeps (r : Req) (port v : Nat) (s : State) : s.keepsRes (execStileConfirm r port v s) := by
  have h0 := State.keeps_refl s
  unfold execStileConfirm
  repeat' with_reducible first
      | assumption | apply State.fresh_keeps | apply State.writeRow_keeps | refine keepsRes_next ?_

theorem execStileRestart_keeps (r : Req) (port v : Nat) (s : State) : s.keepsRes (execStileRestart r port v s) := by
  have h0 := State.keeps_refl s
  unfold execStileRestart
  repeat' with_reducible first
      | assumption | apply State.fresh_keeps | apply State.writeRow_keeps | refine keepsRes_next ?_

theorem execManifestWrite_keeps (r : Req) (port slot : Nat) (value : Bytes) (s : State) : s.keepsRes
    (execManifestWrite r port slot value s) := by
  have h0 := State.keeps_refl s
  unfold execManifestWrite
  repeat' with_reducible first
      | assumption | apply State.fresh_keeps | apply State.writeRow_keeps | refine keepsRes_next ?_

theorem execStileFloorWrite_keeps (r : Req) (port v : Nat) (s : State) : s.keepsRes (execStileFloorWrite r port v s)
    := by
  have h0 := State.keeps_refl s
  unfold execStileFloorWrite
  repeat' with_reducible first
      | assumption | apply State.fresh_keeps | apply State.writeRow_keeps | refine keepsRes_next ?_

theorem execSlotBaseWrite_keeps (r : Req) (port item v : Nat) (s : State) : s.keepsRes (execSlotBaseWrite r port item
    v s) := by
  have h0 := State.keeps_refl s
  unfold execSlotBaseWrite
  repeat' with_reducible first
      | assumption | apply State.fresh_keeps | apply State.writeRow_keeps | refine keepsRes_next ?_

theorem execStileClockConfigWrite_keeps (r : Req) (port item v : Nat) (s : State) : s.keepsRes
    (execStileClockConfigWrite r port item v s) := by
  have h0 := State.keeps_refl s
  unfold execStileClockConfigWrite
  repeat' with_reducible first
      | assumption | apply State.fresh_keeps | apply State.writeRow_keeps | refine keepsRes_next ?_

theorem execCreate_keeps (r : Req) (header data : Bytes) (s : State) : s.keepsRes (execCreate r header data s) := by
  have h0 := State.keeps_refl s
  unfold execCreate
  repeat' with_reducible first
      | assumption | apply State.fresh_keeps | apply State.writeRow_keeps | refine keepsRes_next ?_

theorem execImport_keeps (r : Req) (header data : Bytes) (s : State) : s.keepsRes (execImport r header data s) := by
  have h0 := State.keeps_refl s
  unfold execImport
  repeat' with_reducible first
      | assumption | apply State.fresh_keeps | apply State.writeRow_keeps | refine keepsRes_next ?_

theorem execDerive_keeps (r : Req) (header data : Bytes) (s : State) : s.keepsRes (execDerive r header data s) := by
  have h0 := State.keeps_refl s
  unfold execDerive
  repeat' with_reducible first
      | assumption | apply State.fresh_keeps | apply State.writeRow_keeps | refine keepsRes_next ?_

theorem execRevoke_keeps (r : Req) (header : Bytes) (s : State) : s.keepsRes (execRevoke r header s) := by
  have h0 := State.keeps_refl s
  unfold execRevoke
  repeat' with_reducible first
      | assumption | apply State.fresh_keeps | apply State.writeRow_keeps | refine keepsRes_next ?_

theorem execErase_keeps (r : Req) (header : Bytes) (s : State) : s.keepsRes (execErase r header s) := by
  have h0 := State.keeps_refl s
  unfold execErase
  repeat' with_reducible first
      | assumption | apply State.fresh_keeps | apply State.writeRow_keeps | refine keepsRes_next ?_

theorem execRewrite_keeps (r : Req) (header : Bytes) (s : State) : s.keepsRes (execRewrite r header s) := by
  have h0 := State.keeps_refl s
  unfold execRewrite
  repeat' with_reducible first
      | assumption | apply State.fresh_keeps | apply State.writeRow_keeps | refine keepsRes_next ?_

theorem execDrain_keeps (r : Req) (header : Bytes) (s : State) : s.keepsRes (execDrain r header s) := by
  have h0 := State.keeps_refl s
  unfold execDrain
  repeat' with_reducible first
      | assumption | apply State.fresh_keeps | apply State.writeRow_keeps | refine keepsRes_next ?_

theorem execExport_keeps (r : Req) (header : Bytes) (s : State) : s.keepsRes (execExport r header s) := by
  have h0 := State.keeps_refl s
  unfold execExport
  repeat' with_reducible first
      | assumption | apply State.fresh_keeps | apply State.writeRow_keeps | refine keepsRes_next ?_

theorem execDrainErase_keeps (slot : Nat) (s : State) : s.keepsRes (execDrainErase slot s) := by
  have h0 := State.keeps_refl s
  unfold execDrainErase
  repeat' first
    | with_reducible first
        | assumption | apply State.fresh_keeps | apply State.eraseKey_keeps | refine keepsRes_next ?_
    | split

theorem execDrainTimeout_keeps (slot : Nat) (s : State) : s.keepsRes (execDrainTimeout slot s) := by
  have h0 := State.keeps_refl s
  unfold execDrainTimeout
  repeat' first
    | with_reducible first
        | assumption | apply State.fresh_keeps | apply State.eraseKey_keeps | refine keepsRes_next ?_
    | split

theorem execLineageSweepEnd_keeps (s : State) : s.keepsRes (execLineageSweepEnd s) := by
  have h0 := State.keeps_refl s
  unfold execLineageSweepEnd
  repeat' first
    | with_reducible first
        | assumption | apply State.fresh_keeps | apply State.dropDev_keeps | apply State.modTack_keeps
        | apply State.latch_keeps | apply State.logEv_keeps | refine keepsRes_next ?_ | refine ite_keeps ?_ ?_
    | (simp; done)

theorem execSrkGenerate_keeps (r : Req) (v : Nat) (s : State) : s.keepsRes (execSrkGenerate r v s) := by
  have h0 := State.keeps_refl s
  unfold execSrkGenerate
  repeat' with_reducible first
      | assumption | apply State.fresh_keeps | apply State.writeRow_keeps | refine keepsRes_next ?_

theorem execMonoInc_keeps (r : Req) (n k : Nat) (s : State) : s.keepsRes (execMonoInc r n k s) := by
  have h0 := State.keeps_refl s
  unfold execMonoInc
  repeat' with_reducible first
      | assumption | apply State.fresh_keeps | apply State.writeRow_keeps | refine keepsRes_next ?_

theorem execEntropyTestFail_keeps (s : State) : s.keepsRes (execEntropyTestFail s) := by
  have h0 := State.keeps_refl s
  unfold execEntropyTestFail
  repeat' first
    | with_reducible first
        | assumption | apply State.fresh_keeps | apply State.modTack_keeps | apply State.latch_keeps
        | apply State.logEv_keeps | refine keepsRes_next ?_ | refine ite_keeps ?_ ?_
    | (simp; done)

theorem execDrbgRecovery_keeps (s : State) : s.keepsRes (execDrbgRecovery s) := by
  have h0 := State.keeps_refl s
  unfold execDrbgRecovery
  repeat' first
    | with_reducible first
        | assumption | apply State.fresh_keeps | apply State.modTack_keeps | apply State.latch_keeps
        | apply State.logEv_keeps | refine keepsRes_next ?_ | refine ite_keeps ?_ ?_
    | (simp; done)

theorem execPushSlotSeal_keeps (pad slot off : Nat) (data : Bytes) (s : State) : s.keepsRes (execPushSlotSeal pad slot
    off data s) := by
  have h0 := State.keeps_refl s
  unfold execPushSlotSeal
  repeat' with_reducible first
      | assumption | apply State.fresh_keeps | apply State.pushWrite_keeps | apply State.serveFront_keeps
      | refine keepsRes_next ?_ | refine ite_keeps ?_ ?_

theorem execRingSqTailWrite_keeps (pad ring v : Nat) (s : State) : s.keepsRes (execRingSqTailWrite pad ring v s) := by
  have h0 := State.keeps_refl s
  unfold execRingSqTailWrite
  repeat' with_reducible first
      | assumption | apply State.fresh_keeps | apply State.writeTail_keeps | refine keepsRes_next ?_
      | refine ite_keeps ?_ ?_

theorem execRingCqHeadWrite_keeps (pad ring v : Nat) (s : State) : s.keepsRes (execRingCqHeadWrite pad ring v s) := by
  have h0 := State.keeps_refl s
  unfold execRingCqHeadWrite
  repeat' with_reducible first
      | assumption | apply State.fresh_keeps | apply State.writeHead_keeps | refine keepsRes_next ?_
      | refine ite_keeps ?_ ?_

theorem execRingEnable_keeps (pad ring : Nat) (s : State) : s.keepsRes (execRingEnable pad ring s) := by
  have h0 := State.keeps_refl s
  unfold execRingEnable
  repeat' with_reducible first
      | assumption | apply State.fresh_keeps | apply State.enableRing_keeps | refine keepsRes_next ?_
      | refine ite_keeps ?_ ?_

theorem execRingDisable_keeps (pad ring : Nat) (s : State) : s.keepsRes (execRingDisable pad ring s) := by
  have h0 := State.keeps_refl s
  unfold execRingDisable
  repeat' with_reducible first
      | assumption | apply State.fresh_keeps | apply State.disableRing_keeps | refine keepsRes_next ?_
      | refine ite_keeps ?_ ?_

theorem execFetchCompletion_keeps (tag : Nat) (data : Option Bytes) (s : State) : s.keepsRes (execFetchCompletion tag
    data s) := by
  have h0 := State.keeps_refl s
  unfold execFetchCompletion
  repeat' with_reducible first
      | assumption | apply State.fresh_keeps | apply State.fetchDone_keeps | apply State.serveFront_keeps
      | refine keepsRes_next ?_

theorem execPinTranslate_keeps (id : Nat) (s : State) : s.keepsRes (execPinTranslate id s) := by
  have h0 := State.keeps_refl s
  unfold execPinTranslate
  repeat' with_reducible first
      | assumption | apply State.fresh_keeps | apply State.endPlain_keeps | refine keepsRes_next ?_

theorem execPinVerify_keeps (id : Nat) (s : State) : s.keepsRes (execPinVerify id s) := by
  have h0 := State.keeps_refl s
  unfold execPinVerify
  repeat' with_reducible first
      | assumption | apply State.fresh_keeps | apply State.endPlain_keeps | refine keepsRes_next ?_

theorem execDukptPinTranslate_keeps (id : Nat) (s : State) : s.keepsRes (execDukptPinTranslate id s) := by
  have h0 := State.keeps_refl s
  unfold execDukptPinTranslate
  repeat' with_reducible first
      | assumption | apply State.fresh_keeps | apply State.endPlain_keeps | refine keepsRes_next ?_

theorem execPinCheckValue_keeps (id : Nat) (s : State) : s.keepsRes (execPinCheckValue id s) := by
  have h0 := State.keeps_refl s
  unfold execPinCheckValue
  repeat' with_reducible first
      | assumption | apply State.fresh_keeps | apply State.endPlain_keeps | refine keepsRes_next ?_

theorem execMacGenerate_keeps (id : Nat) (s : State) : s.keepsRes (execMacGenerate id s) := by
  have h0 := State.keeps_refl s
  unfold execMacGenerate
  repeat' with_reducible first
      | assumption | apply State.fresh_keeps | apply State.endPlain_keeps | refine keepsRes_next ?_

theorem execMacVerify_keeps (id : Nat) (s : State) : s.keepsRes (execMacVerify id s) := by
  have h0 := State.keeps_refl s
  unfold execMacVerify
  repeat' with_reducible first
      | assumption | apply State.fresh_keeps | apply State.endPlain_keeps | refine keepsRes_next ?_

theorem execCryptogramVerify_keeps (id : Nat) (s : State) : s.keepsRes (execCryptogramVerify id s) := by
  have h0 := State.keeps_refl s
  unfold execCryptogramVerify
  repeat' with_reducible first
      | assumption | apply State.fresh_keeps | apply State.endPlain_keeps | refine keepsRes_next ?_

theorem execCryptogramVerifyRespond_keeps (id : Nat) (s : State) : s.keepsRes (execCryptogramVerifyRespond id s) := by
  have h0 := State.keeps_refl s
  unfold execCryptogramVerifyRespond
  repeat' with_reducible first
      | assumption | apply State.fresh_keeps | apply State.endPlain_keeps | refine keepsRes_next ?_

theorem execKeyGenerate_keeps (id : Nat) (s : State) : s.keepsRes (execKeyGenerate id s) := by
  have h0 := State.keeps_refl s
  unfold execKeyGenerate
  repeat' with_reducible first
      | assumption | apply State.fresh_keeps | apply State.endWith_keeps | apply State.askJob_keeps
      | refine keepsRes_next ?_

theorem execKeyPairGenerate_keeps (id : Nat) (agree : Bool) (s : State) : s.keepsRes (execKeyPairGenerate id agree s)
    := by
  have h0 := State.keeps_refl s
  unfold execKeyPairGenerate
  repeat' with_reducible first
      | assumption | apply State.fresh_keeps | apply State.endWith_keeps | apply State.askJob_keeps
      | refine keepsRes_next ?_

theorem execKeyImport_keeps (id : Nat) (s : State) : s.keepsRes (execKeyImport id s) := by
  have h0 := State.keeps_refl s
  unfold execKeyImport
  repeat' with_reducible first
      | assumption | apply State.fresh_keeps | apply State.endWith_keeps | apply State.askJob_keeps
      | refine keepsRes_next ?_

theorem execKeyImportWrapped_keeps (id : Nat) (s : State) : s.keepsRes (execKeyImportWrapped id s) := by
  have h0 := State.keeps_refl s
  unfold execKeyImportWrapped
  repeat' with_reducible first
      | assumption | apply State.fresh_keeps | apply State.endWith_keeps | apply State.askJob_keeps
      | refine keepsRes_next ?_

theorem execKeyExport_keeps (id : Nat) (s : State) : s.keepsRes (execKeyExport id s) := by
  have h0 := State.keeps_refl s
  unfold execKeyExport
  repeat' with_reducible first
      | assumption | apply State.fresh_keeps | apply State.endWith_keeps | apply State.askJob_keeps
      | refine keepsRes_next ?_

theorem execKeyDerive_keeps (id : Nat) (s : State) : s.keepsRes (execKeyDerive id s) := by
  have h0 := State.keeps_refl s
  unfold execKeyDerive
  repeat' with_reducible first
      | assumption | apply State.fresh_keeps | apply State.endWith_keeps | apply State.askJob_keeps
      | refine keepsRes_next ?_

theorem execKeyRevoke_keeps (id : Nat) (s : State) : s.keepsRes (execKeyRevoke id s) := by
  have h0 := State.keeps_refl s
  unfold execKeyRevoke
  repeat' with_reducible first
      | assumption | apply State.fresh_keeps | apply State.performNow_keeps | apply State.askJob_keeps
      | refine keepsRes_next ?_

theorem execKeyErase_keeps (id : Nat) (s : State) : s.keepsRes (execKeyErase id s) := by
  have h0 := State.keeps_refl s
  unfold execKeyErase
  repeat' with_reducible first
      | assumption | apply State.fresh_keeps | apply State.performNow_keeps | apply State.askJob_keeps
      | refine keepsRes_next ?_

theorem execKeyRewrite_keeps (id : Nat) (s : State) : s.keepsRes (execKeyRewrite id s) := by
  have h0 := State.keeps_refl s
  unfold execKeyRewrite
  repeat' with_reducible first
      | assumption | apply State.fresh_keeps | apply State.endPlain_keeps | apply State.askJob_keeps
      | refine keepsRes_next ?_

theorem execKeyDrain_keeps (id : Nat) (s : State) : s.keepsRes (execKeyDrain id s) := by
  have h0 := State.keeps_refl s
  unfold execKeyDrain
  repeat' with_reducible first
      | assumption | apply State.fresh_keeps | apply State.performNow_keeps | apply State.askJob_keeps
      | refine keepsRes_next ?_

theorem execKcv_keeps (id : Nat) (s : State) : s.keepsRes (execKcv id s) := by
  have h0 := State.keeps_refl s
  unfold execKcv
  repeat' with_reducible first
      | assumption | apply State.fresh_keeps | apply State.endWith_keeps | refine keepsRes_next ?_

theorem execKeyStorePublic_keeps (id : Nat) (agree : Bool) (s : State) : s.keepsRes (execKeyStorePublic id agree s) :=
    by
  have h0 := State.keeps_refl s
  unfold execKeyStorePublic
  repeat' with_reducible first
      | assumption | apply State.fresh_keeps | apply State.endWith_keeps | apply State.performNow_keeps
      | apply State.askJob_keeps | refine keepsRes_next ?_

theorem execDigest_keeps (id : Nat) (s : State) : s.keepsRes (execDigest id s) := by
  have h0 := State.keeps_refl s
  unfold execDigest
  repeat' with_reducible first
      | assumption | apply State.fresh_keeps | apply State.endPlain_keeps | refine keepsRes_next ?_

theorem execHmacJob_keeps (id : Nat) (s : State) : s.keepsRes (execHmacJob id s) := by
  have h0 := State.keeps_refl s
  unfold execHmacJob
  repeat' with_reducible first
      | assumption | apply State.fresh_keeps | apply State.endPlain_keeps | refine keepsRes_next ?_

theorem execDigestCompare_keeps (id : Nat) (s : State) : s.keepsRes (execDigestCompare id s) := by
  have h0 := State.keeps_refl s
  unfold execDigestCompare
  repeat' with_reducible first
      | assumption | apply State.fresh_keeps | apply State.endPlain_keeps | refine keepsRes_next ?_

theorem execHmacCompare_keeps (id : Nat) (s : State) : s.keepsRes (execHmacCompare id s) := by
  have h0 := State.keeps_refl s
  unfold execHmacCompare
  repeat' with_reducible first
      | assumption | apply State.fresh_keeps | apply State.endPlain_keeps | refine keepsRes_next ?_

theorem execOpenStream_keeps (id : Nat) (s : State) : s.keepsRes (execOpenStream id s) := by
  have h0 := State.keeps_refl s
  unfold execOpenStream
  repeat' with_reducible first
      | assumption | apply State.fresh_keeps | apply State.endPlain_keeps | refine keepsRes_next ?_

theorem execOpenKeyed_keeps (id : Nat) (s : State) : s.keepsRes (execOpenKeyed id s) := by
  have h0 := State.keeps_refl s
  unfold execOpenKeyed
  repeat' with_reducible first
      | assumption | apply State.fresh_keeps | apply State.endPlain_keeps | refine keepsRes_next ?_

theorem execUpdate_keeps (id : Nat) (s : State) : s.keepsRes (execUpdate id s) := by
  have h0 := State.keeps_refl s
  unfold execUpdate
  repeat' with_reducible first
      | assumption | apply State.fresh_keeps | refine State.endStep_keeps _ _ _ _ _ (fun _ => ?_) ?_
      | apply State.updateEnd_keeps | refine keepsRes_next ?_

theorem execFinal_keeps (id : Nat) (s : State) : s.keepsRes (execFinal id s) := by
  have h0 := State.keeps_refl s
  unfold execFinal
  repeat' with_reducible first
      | assumption | apply State.fresh_keeps | refine State.endStep_keeps _ _ _ _ _ (fun _ => ?_) ?_
      | apply State.finalEnd_keeps | refine keepsRes_next ?_

theorem execFinalCompare_keeps (id : Nat) (s : State) : s.keepsRes (execFinalCompare id s) := by
  have h0 := State.keeps_refl s
  unfold execFinalCompare
  repeat' with_reducible first
      | assumption | apply State.fresh_keeps | refine State.endStep_keeps _ _ _ _ _ (fun _ => ?_) ?_
      | apply State.finalCompareEnd_keeps | refine keepsRes_next ?_

theorem execAbandon_keeps (id : Nat) (s : State) : s.keepsRes (execAbandon id s) := by
  have h0 := State.keeps_refl s
  unfold execAbandon
  repeat' with_reducible first
      | assumption | apply State.fresh_keeps | refine State.endStep_keeps _ _ _ _ _ (fun _ => ?_) ?_
      | apply State.abandonEnd_keeps | refine keepsRes_next ?_

theorem execSign_keeps (id : Nat) (agree : Bool) (s : State) : s.keepsRes (execSign id agree s) := by
  have h0 := State.keeps_refl s
  unfold execSign
  repeat' with_reducible first
      | assumption | apply State.fresh_keeps | apply State.endPlain_keeps | refine keepsRes_next ?_

theorem execVerify_keeps (id : Nat) (agree : Bool) (s : State) : s.keepsRes (execVerify id agree s) := by
  have h0 := State.keeps_refl s
  unfold execVerify
  repeat' with_reducible first
      | assumption | apply State.fresh_keeps | apply State.endPlain_keeps | refine keepsRes_next ?_

theorem execBatchVerify_keeps (id : Nat) (agree : Bool) (s : State) : s.keepsRes (execBatchVerify id agree s) := by
  have h0 := State.keeps_refl s
  unfold execBatchVerify
  repeat' with_reducible first
      | assumption | apply State.fresh_keeps | apply State.endPlain_keeps | refine keepsRes_next ?_

theorem execEcdh_keeps (id : Nat) (agree : Bool) (s : State) : s.keepsRes (execEcdh id agree s) := by
  have h0 := State.keeps_refl s
  unfold execEcdh
  repeat' with_reducible first
      | assumption | apply State.fresh_keeps | apply State.endWith_keeps | apply State.askJob_keeps
      | refine keepsRes_next ?_

theorem execEncapsulateReturn_keeps (id : Nat) (agree : Bool) (s : State) : s.keepsRes (execEncapsulateReturn id agree
    s) := by
  have h0 := State.keeps_refl s
  unfold execEncapsulateReturn
  repeat' with_reducible first
      | assumption | apply State.fresh_keeps | apply State.endWith_keeps | refine keepsRes_next ?_

theorem execEncapsulateAes_keeps (id : Nat) (agree : Bool) (s : State) : s.keepsRes (execEncapsulateAes id agree s) :=
    by
  have h0 := State.keeps_refl s
  unfold execEncapsulateAes
  repeat' with_reducible first
      | assumption | apply State.fresh_keeps | apply State.endWith_keeps | apply State.askJob_keeps
      | refine keepsRes_next ?_

theorem execEncapsulateHmac_keeps (id : Nat) (agree : Bool) (s : State) : s.keepsRes (execEncapsulateHmac id agree s)
    := by
  have h0 := State.keeps_refl s
  unfold execEncapsulateHmac
  repeat' with_reducible first
      | assumption | apply State.fresh_keeps | apply State.endWith_keeps | apply State.askJob_keeps
      | refine keepsRes_next ?_

theorem execDecapsulateAes_keeps (id : Nat) (agree : Bool) (s : State) : s.keepsRes (execDecapsulateAes id agree s) :=
    by
  have h0 := State.keeps_refl s
  unfold execDecapsulateAes
  repeat' with_reducible first
      | assumption | apply State.fresh_keeps | apply State.endWith_keeps | apply State.askJob_keeps
      | refine keepsRes_next ?_

theorem execDecapsulateHmac_keeps (id : Nat) (agree : Bool) (s : State) : s.keepsRes (execDecapsulateHmac id agree s)
    := by
  have h0 := State.keeps_refl s
  unfold execDecapsulateHmac
  repeat' with_reducible first
      | assumption | apply State.fresh_keeps | apply State.endWith_keeps | apply State.askJob_keeps
      | refine keepsRes_next ?_

theorem execRandom_keeps (id : Nat) (s : State) : s.keepsRes (execRandom id s) := by
  have h0 := State.keeps_refl s
  unfold execRandom
  repeat' with_reducible first
      | assumption | apply State.fresh_keeps | apply State.endPlain_keeps | refine keepsRes_next ?_

theorem execSourceDataArrival_keeps (id : Nat) (data : Option Bytes) (s : State) : s.keepsRes (execSourceDataArrival
    id data s) := by
  have h0 := State.keeps_refl s
  unfold execSourceDataArrival
  repeat' with_reducible first
      | assumption | apply State.fresh_keeps | apply State.arrive_keeps | refine keepsRes_next ?_
      | refine ite_keeps ?_ ?_

theorem execJobDispatch_keeps (lane : Nat) (hamper : Bytes) (s : State) : s.keepsRes (execJobDispatch lane hamper s) :=
    by
  have h0 := State.keeps_refl s
  unfold execJobDispatch
  repeat' first
    | with_reducible first
        | assumption | apply State.fresh_keeps | apply State.dispatchLane_keeps | apply State.sweepSteps_keeps
        | apply State.loadLanes_keeps | refine keepsRes_next ?_ | refine ite_keeps ?_ ?_
    | split | (simp; done) | (dsimp only)

theorem execJobComplete_keeps (id : Nat) (s : State) : s.keepsRes (execJobComplete id s) := by
  have h0 := State.keeps_refl s
  unfold execJobComplete
  repeat' first
    | with_reducible first
        | assumption | apply State.fresh_keeps | apply State.complete_keeps | refine keepsRes_next ?_
    | split

theorem execPairCheckComplete_keeps (lane : Nat) (pass : Bool) (s : State) : s.keepsRes (execPairCheckComplete lane
    pass s) := by
  have h0 := State.keeps_refl s
  unfold execPairCheckComplete
  repeat' with_reducible first
      | assumption | apply State.fresh_keeps | apply State.dropDev_keeps | apply State.modLane_keeps
      | apply State.latchPair_keeps | apply State.latch_keeps | apply State.ev_keeps | apply State.countFault_keeps
      | refine keepsRes_next ?_ | refine ite_keeps ?_ ?_

theorem execPkRetest_keeps (r : Req) (v : Nat) (s : State) : s.keepsRes (execPkRetest r v s) := by
  have h0 := State.keeps_refl s
  unfold execPkRetest
  repeat' with_reducible first
      | assumption | apply State.fresh_keeps | apply State.writeRow_keeps | refine keepsRes_next ?_

theorem execSelfTestPeriod_keeps (s : State) : s.keepsRes (execSelfTestPeriod s) := by
  have h0 := State.keeps_refl s
  unfold execSelfTestPeriod
  repeat' first
    | with_reducible first
        | assumption | apply State.fresh_keeps | apply State.modYard_keeps | apply State.addDev_keeps
        | refine keepsRes_next ?_ | refine foldl_keeps _ _ _ ?_ ?_ | refine ite_keeps ?_ ?_
    | (intro _ _ _)
    | (simp; done)

theorem execSelfTestResult_keeps (lane : Nat) (pass : Bool) (s : State) : s.keepsRes (execSelfTestResult lane pass s)
    := by
  have h0 := State.keeps_refl s
  unfold execSelfTestResult
  repeat' with_reducible first
      | assumption | apply State.fresh_keeps | apply State.dropDev_keeps | apply State.modLane_keeps
      | apply State.latchLane_keeps | apply State.ev_keeps | apply State.monDetect_keeps | apply State.latch_keeps
      | refine keepsRes_next ?_ | refine ite_keeps ?_ ?_

theorem execPaddockCreate_keeps (v : Via) (cmd : Bytes) (s : State) : s.keepsRes (execPaddockCreate v cmd s) := by
  have h0 := State.keeps_refl s
  unfold execPaddockCreate
  repeat' with_reducible first
      | assumption | apply State.fresh_keeps | apply State.manage_keeps | refine keepsRes_next ?_

theorem execModify_keeps (v : Via) (cmd : Bytes) (s : State) : s.keepsRes (execModify v cmd s) := by
  have h0 := State.keeps_refl s
  unfold execModify
  repeat' with_reducible first
      | assumption | apply State.fresh_keeps | apply State.manage_keeps | refine keepsRes_next ?_

theorem execPaddockResetCommand_keeps (v : Via) (cmd : Bytes) (s : State) : s.keepsRes (execPaddockResetCommand v cmd
    s) := by
  have h0 := State.keeps_refl s
  unfold execPaddockResetCommand
  repeat' with_reducible first
      | assumption | apply State.fresh_keeps | apply State.manage_keeps | refine keepsRes_next ?_

theorem execDestroy_keeps (v : Via) (cmd : Bytes) (s : State) : s.keepsRes (execDestroy v cmd s) := by
  have h0 := State.keeps_refl s
  unfold execDestroy
  repeat' with_reducible first
      | assumption | apply State.fresh_keeps | apply State.manage_keeps | refine keepsRes_next ?_

theorem execQuery_keeps (v : Via) (cmd : Bytes) (s : State) : s.keepsRes (execQuery v cmd s) := by
  have h0 := State.keeps_refl s
  unfold execQuery
  repeat' with_reducible first
      | assumption | apply State.fresh_keeps | apply State.manage_keeps | refine keepsRes_next ?_

theorem execLogStart_keeps (v : Via) (cmd : Bytes) (s : State) : s.keepsRes (execLogStart v cmd s) := by
  have h0 := State.keeps_refl s
  unfold execLogStart
  repeat' with_reducible first
      | assumption | apply State.fresh_keeps | apply State.manage_keeps | refine keepsRes_next ?_

theorem execLogStop_keeps (v : Via) (cmd : Bytes) (s : State) : s.keepsRes (execLogStop v cmd s) := by
  have h0 := State.keeps_refl s
  unfold execLogStop
  repeat' with_reducible first
      | assumption | apply State.fresh_keeps | apply State.manage_keeps | refine keepsRes_next ?_

theorem execLogDrain_keeps (v : Via) (cmd : Bytes) (s : State) : s.keepsRes (execLogDrain v cmd s) := by
  have h0 := State.keeps_refl s
  unfold execLogDrain
  repeat' with_reducible first
      | assumption | apply State.fresh_keeps | apply State.manage_keeps | refine keepsRes_next ?_

theorem execPaddockResetWrite_keeps (pad : Nat) (v : Nat) (s : State) : s.keepsRes (execPaddockResetWrite pad v s) := by
  have h0 := State.keeps_refl s
  unfold execPaddockResetWrite
  repeat' with_reducible first
      | assumption | apply State.fresh_keeps | apply State.resetPads_keeps | refine keepsRes_next ?_
      | refine ite_keeps ?_ ?_

theorem execVfFlr_keeps (n : Nat) (s : State) : s.keepsRes (execVfFlr n s) := by
  have h0 := State.keeps_refl s
  unfold execVfFlr
  repeat' with_reducible first
      | assumption | apply State.fresh_keeps | apply State.resetPad_keeps | apply State.msixReset_keeps
      | refine keepsRes_next ?_ | refine ite_keeps ?_ ?_

theorem execPfFlr_keeps (s : State) : s.keepsRes (execPfFlr s) := by
  have h0 := State.keeps_refl s
  unfold execPfFlr
  repeat' with_reducible first
      | assumption | apply State.fresh_keeps | apply State.pfMailboxes_keeps | apply State.latch_keeps
      | apply State.resetPads_keeps | apply State.modPci_keeps | apply State.presence_keeps
      | apply State.msixReset_keeps | refine keepsRes_next ?_ | refine foldl_keeps _ _ _ ?_ ?_
      | refine ite_keeps ?_ ?_

theorem execHotReset_keeps (s : State) : s.keepsRes (execHotReset s) := by
  have h0 := State.keeps_refl s
  unfold execHotReset
  repeat' with_reducible first
      | assumption | apply State.fresh_keeps | apply State.hotReset_keeps | refine keepsRes_next ?_
      | refine ite_keeps ?_ ?_

theorem execVfEnableChange_keeps (enable : Bool) (numVfs : Nat) (s : State) : s.keepsRes (execVfEnableChange enable
    numVfs s) := by
  have h0 := State.keeps_refl s
  unfold execVfEnableChange
  repeat' with_reducible first
      | assumption | apply State.fresh_keeps | apply State.modPci_keeps | apply State.latch_keeps
      | apply State.presence_keeps | refine keepsRes_next ?_ | refine foldl_keeps _ _ _ ?_ ?_
      | refine ite_keeps ?_ ?_

theorem execPasidEnableChange_keeps (enable : Bool) (s : State) : s.keepsRes (execPasidEnableChange enable s) := by
  have h0 := State.keeps_refl s
  unfold execPasidEnableChange
  repeat' with_reducible first
      | assumption | apply State.fresh_keeps | apply State.modPci_keeps | apply State.latch_keeps
      | apply State.presence_keeps | refine keepsRes_next ?_ | refine foldl_keeps _ _ _ ?_ ?_
      | refine ite_keeps ?_ ?_

theorem execPaddockResetComplete_keeps (pad : Nat) (s : State) : s.keepsRes (execPaddockResetComplete pad s) := by
  have h0 := State.keeps_refl s
  unfold execPaddockResetComplete
  repeat' with_reducible first
      | assumption | apply State.fresh_keeps | apply State.resetDone_keeps | refine keepsRes_next ?_

theorem execLateCompletion_keeps (tag : Nat) (s : State) : s.keepsRes (execLateCompletion tag s) := by
  have h0 := State.keeps_refl s
  unfold execLateCompletion
  repeat' with_reducible first
      | assumption | apply State.fresh_keeps | apply State.modPci_keeps | apply State.latch_keeps
      | refine keepsRes_next ?_ | refine ite_keeps ?_ ?_

theorem execCompletionTimeout_keeps (tag : Nat) (s : State) : s.keepsRes (execCompletionTimeout tag s) := by
  have h0 := State.keeps_refl s
  unfold execCompletionTimeout
  repeat' first
    | with_reducible first
        | assumption | apply State.fresh_keeps | apply State.modPci_keeps | apply State.latch_keeps
        | apply State.fetchDone_keeps | apply State.serveFront_keeps | apply State.arrive_keeps
        | refine keepsRes_next ?_ | refine ite_keeps ?_ ?_
    | split

theorem execRdwStart_keeps (steward : Bool) (ctrl : Nat) (s : State) : s.keepsRes (execRdwStart steward ctrl s) := by
  have h0 := State.keeps_refl s
  unfold execRdwStart
  repeat' with_reducible first
      | assumption | apply State.fresh_keeps | apply State.windowStart_keeps | refine keepsRes_next ?_
      | refine ite_keeps ?_ ?_

theorem execRdwAbort_keeps (steward : Bool) (ctrl : Nat) (s : State) : s.keepsRes (execRdwAbort steward ctrl s) := by
  have h0 := State.keeps_refl s
  unfold execRdwAbort
  repeat' with_reducible first
      | assumption | apply State.fresh_keeps | apply State.windowDrop_keeps | apply State.modWindow_keeps
      | refine keepsRes_next ?_ | refine ite_keeps ?_ ?_

theorem execRdwDataWrite_keeps (steward high : Bool) (w : Bytes) (s : State) : s.keepsRes (execRdwDataWrite steward
    high w s) := by
  have h0 := State.keeps_refl s
  unfold execRdwDataWrite
  repeat' with_reducible first
      | assumption | apply State.fresh_keeps | apply State.windowData_keeps | refine keepsRes_next ?_
      | refine ite_keeps ?_ ?_

theorem execRdwLastwordWrite_keeps (steward high : Bool) (w : Bytes) (s : State) : s.keepsRes (execRdwLastwordWrite
    steward high w s) := by
  have h0 := State.keeps_refl s
  unfold execRdwLastwordWrite
  repeat' with_reducible first
      | assumption | apply State.fresh_keeps | apply State.windowLast_keeps | refine keepsRes_next ?_
      | refine ite_keeps ?_ ?_

theorem execRdwLastcountWrite_keeps (steward : Bool) (v : Nat) (s : State) : s.keepsRes (execRdwLastcountWrite steward
    v s) := by
  have h0 := State.keeps_refl s
  unfold execRdwLastcountWrite
  repeat' with_reducible first
      | assumption | apply State.fresh_keeps | apply State.modWindow_keeps | refine keepsRes_next ?_
      | refine ite_keeps ?_ ?_

theorem execRdwResultRead_keeps (steward : Bool) (word : Nat) (s : State) : s.keepsRes (execRdwResultRead steward word
    s) := by
  have h0 := State.keeps_refl s
  unfold execRdwResultRead
  repeat' with_reducible first
      | assumption | apply State.fresh_keeps | apply State.emit_keeps | apply State.modWindow_keeps
      | refine keepsRes_next ?_ | refine ite_keeps ?_ ?_

theorem execFrameCtLoRead_keeps (s : State) : s.keepsRes (execFrameCtLoRead s) := by
  have h0 := State.keeps_refl s
  unfold execFrameCtLoRead
  repeat' with_reducible first
      | assumption | apply State.fresh_keeps | apply State.modCore_keeps | apply State.emit_keeps
      | refine keepsRes_next ?_ | refine ite_keeps ?_ ?_

theorem execAtnCauseClear_keeps (g v : Nat) (s : State) : s.keepsRes (execAtnCauseClear g v s) := by
  have h0 := State.keeps_refl s
  unfold execAtnCauseClear
  repeat' with_reducible first
      | assumption | apply State.fresh_keeps | apply State.clearLeaves_keeps | refine keepsRes_next ?_
      | refine ite_keeps ?_ ?_

theorem execAtnEnableWrite_keeps (g v : Nat) (s : State) : s.keepsRes (execAtnEnableWrite g v s) := by
  have h0 := State.keeps_refl s
  unfold execAtnEnableWrite
  repeat' with_reducible first
      | assumption | apply State.fresh_keeps | apply State.writeEnable_keeps | refine keepsRes_next ?_
      | refine ite_keeps ?_ ?_

theorem execAtnRearm_keeps (s : State) : s.keepsRes (execAtnRearm s) := by
  have h0 := State.keeps_refl s
  unfold execAtnRearm
  repeat' first
    | with_reducible first
        | assumption | apply State.fresh_keeps | apply State.modAtn_keeps | refine keepsRes_next ?_
        | refine ite_keeps ?_ ?_
    | (simp; done)

theorem execRegisterWrite_keeps (fn off : Nat) (data : Bytes) (s : State) : s.keepsRes (execRegisterWrite fn off data
    s) := by
  have h0 := State.keeps_refl s
  unfold execRegisterWrite
  repeat' with_reducible first
      | assumption | apply State.fresh_keeps | apply State.barWrite_keeps | refine keepsRes_next ?_

theorem execAtnClearEntry_keeps (r : Req) (value : Bytes) (s : State) : s.keepsRes (execAtnClearEntry r value s) := by
  have h0 := State.keeps_refl s
  unfold execAtnClearEntry
  repeat' with_reducible first
      | assumption | apply State.fresh_keeps | apply State.writeRow_keeps | refine keepsRes_next ?_

theorem execAtnEnableEntry_keeps (r : Req) (g v : Nat) (s : State) : s.keepsRes (execAtnEnableEntry r g v s) := by
  have h0 := State.keeps_refl s
  unfold execAtnEnableEntry
  repeat' with_reducible first
      | assumption | apply State.fresh_keeps | apply State.writeRow_keeps | refine keepsRes_next ?_

theorem execMePortConfigWrite_keeps (r : Req) (port item : Nat) (value : Bytes) (s : State) : s.keepsRes
    (execMePortConfigWrite r port item value s) := by
  have h0 := State.keeps_refl s
  unfold execMePortConfigWrite
  repeat' with_reducible first
      | assumption | apply State.fresh_keeps | apply State.writeRow_keeps | refine keepsRes_next ?_

theorem execPolicyRecordWrite_keeps (r : Req) (k : Nat) (value : Bytes) (s : State) : s.keepsRes
    (execPolicyRecordWrite r k value s) := by
  have h0 := State.keeps_refl s
  unfold execPolicyRecordWrite
  repeat' with_reducible first
      | assumption | apply State.fresh_keeps | apply State.writeRow_keeps | refine keepsRes_next ?_

theorem execOwnerCertWrite_keeps (r : Req) (value : Bytes) (s : State) : s.keepsRes (execOwnerCertWrite r value s) := by
  have h0 := State.keeps_refl s
  unfold execOwnerCertWrite
  repeat' with_reducible first
      | assumption | apply State.fresh_keeps | apply State.writeRow_keeps | refine keepsRes_next ?_

theorem execCredentialWrite_keeps (r : Req) (n : Nat) (value : Bytes) (s : State) : s.keepsRes (execCredentialWrite r
    n value s) := by
  have h0 := State.keeps_refl s
  unfold execCredentialWrite
  repeat' with_reducible first
      | assumption | apply State.fresh_keeps | apply State.writeRow_keeps | refine keepsRes_next ?_

theorem execDictCommit_keeps (r : Req) (v : Nat) (s : State) : s.keepsRes (execDictCommit r v s) := by
  have h0 := State.keeps_refl s
  unfold execDictCommit
  repeat' with_reducible first
      | assumption | apply State.fresh_keeps | apply State.writeRow_keeps | refine keepsRes_next ?_

theorem execRestoreDefaults_keeps (r : Req) (v : Nat) (s : State) : s.keepsRes (execRestoreDefaults r v s) := by
  have h0 := State.keeps_refl s
  unfold execRestoreDefaults
  repeat' with_reducible first
      | assumption | apply State.fresh_keeps | apply State.writeRow_keeps | refine keepsRes_next ?_

theorem execLogEntryWrite_keeps (s : State) : s.keepsRes (execLogEntryWrite s) := by
  have h0 := State.keeps_refl s
  unfold execLogEntryWrite
  repeat' with_reducible first
      | assumption | apply State.fresh_keeps | apply State.writeDue_keeps | refine keepsRes_next ?_

theorem execCheckpointDue_keeps (s : State) : s.keepsRes (execCheckpointDue s) := by
  have h0 := State.keeps_refl s
  unfold execCheckpointDue
  repeat' with_reducible first
      | assumption | apply State.fresh_keeps | apply State.modLog_keeps | apply State.addDev_keeps
      | apply State.latch_keeps | refine keepsRes_next ?_ | refine ite_keeps ?_ ?_

theorem execCheckpointWritten_keeps (s : State) : s.keepsRes (execCheckpointWritten s) := by
  have h0 := State.keeps_refl s
  unfold execCheckpointWritten
  repeat' first
    | with_reducible first
        | assumption | apply State.fresh_keeps | apply State.dropDev_keeps | apply State.writeCheckpoint_keeps
        | refine keepsRes_next ?_
    | split

theorem execLogExportAck_keeps (r : Req) (value : Bytes) (s : State) : s.keepsRes (execLogExportAck r value s) := by
  have h0 := State.keeps_refl s
  unfold execLogExportAck
  repeat' with_reducible first
      | assumption | apply State.fresh_keeps | apply State.writeRow_keeps | refine keepsRes_next ?_

theorem execLogWindowStartWrite_keeps (r : Req) (v : Nat) (s : State) : s.keepsRes (execLogWindowStartWrite r v s) := by
  have h0 := State.keeps_refl s
  unfold execLogWindowStartWrite
  repeat' with_reducible first
      | assumption | apply State.fresh_keeps | apply State.writeRow_keeps | refine keepsRes_next ?_

theorem execLogTimeEpochWrite_keeps (r : Req) (v : Nat) (s : State) : s.keepsRes (execLogTimeEpochWrite r v s) := by
  have h0 := State.keeps_refl s
  unfold execLogTimeEpochWrite
  repeat' with_reducible first
      | assumption | apply State.fresh_keeps | apply State.writeRow_keeps | refine keepsRes_next ?_

theorem execLogPolicyWrite_keeps (r : Req) (v : Nat) (s : State) : s.keepsRes (execLogPolicyWrite r v s) := by
  have h0 := State.keeps_refl s
  unfold execLogPolicyWrite
  repeat' with_reducible first
      | assumption | apply State.fresh_keeps | apply State.writeRow_keeps | refine keepsRes_next ?_

theorem execMonitorDetect_keeps (n : Nat) (s : State) : s.keepsRes (execMonitorDetect n s) := by
  have h0 := State.keeps_refl s
  unfold execMonitorDetect
  repeat' first
    | with_reducible first
        | assumption | apply State.fresh_keeps | apply State.modMon_keeps | apply State.monDetect_keeps
        | refine keepsRes_next ?_ | refine ite_keeps ?_ ?_
    | (simp; done)

theorem execAlarmResponse_keeps (s : State) : s.keepsRes (execAlarmResponse s) := by
  have h0 := State.keeps_refl s
  unfold execAlarmResponse
  repeat' with_reducible first
      | assumption | apply State.fresh_keeps | apply State.alarmRespond_keeps | refine keepsRes_next ?_
      | refine ite_keeps ?_ ?_

theorem execLatchSelfClear_keeps (n : Nat) (s : State) : s.keepsRes (execLatchSelfClear n s) := by
  have h0 := State.keeps_refl s
  unfold execLatchSelfClear
  repeat' first
    | with_reducible first
        | assumption | apply State.fresh_keeps | apply State.modMon_keeps | refine keepsRes_next ?_
        | refine ite_keeps ?_ ?_
    | (simp; done)

theorem execMonClear_keeps (r : Req) (v : Nat) (s : State) : s.keepsRes (execMonClear r v s) := by
  have h0 := State.keeps_refl s
  unfold execMonClear
  repeat' with_reducible first
      | assumption | apply State.fresh_keeps | apply State.writeRow_keeps | refine keepsRes_next ?_

theorem execLeaveAlarmHalt_keeps (h : HoldInput) (s : State) : s.keepsRes (execLeaveAlarmHalt h s) := by
  have h0 := State.keeps_refl s
  unfold execLeaveAlarmHalt
  repeat' first
    | with_reducible first
        | assumption | apply State.fresh_keeps | apply State.beginStart_keeps | apply State.setOp_keeps
        | apply State.holdingActs_keeps | apply State.holdingEntry_keeps | refine keepsRes_next ?_
        | refine ite_keeps ?_ ?_
    | split | (simp; done) | (dsimp only)

theorem execMonTest_keeps (r : Req) (n : Nat) (s : State) : s.keepsRes (execMonTest r n s) := by
  have h0 := State.keeps_refl s
  unfold execMonTest
  repeat' with_reducible first
      | assumption | apply State.fresh_keeps | apply State.writeRow_keeps | refine keepsRes_next ?_

theorem execMonTestWindowEnd_keeps (detected real : Bool) (s : State) : s.keepsRes (execMonTestWindowEnd detected real
    s) := by
  have h0 := State.keeps_refl s
  unfold execMonTestWindowEnd
  repeat' first
    | with_reducible first
        | assumption | apply State.fresh_keeps | apply State.modMon_keeps | apply State.ev_keeps
        | apply State.monDetect_keeps | refine keepsRes_next ?_ | refine ite_keeps ?_ ?_
    | split
    | (simp; done)

theorem execMonConfigWrite_keeps (r : Req) (n v : Nat) (s : State) : s.keepsRes (execMonConfigWrite r n v s) := by
  have h0 := State.keeps_refl s
  unfold execMonConfigWrite
  repeat' with_reducible first
      | assumption | apply State.fresh_keeps | apply State.writeRow_keeps | refine keepsRes_next ?_

theorem execBackupDetection_keeps (n : Nat) (s : State) : s.keepsRes (execBackupDetection n s) := by
  have h0 := State.keeps_refl s
  unfold execBackupDetection
  repeat' with_reducible first
      | assumption | apply State.fresh_keeps | apply State.backupDetect_keeps | refine keepsRes_next ?_
      | refine ite_keeps ?_ ?_

theorem execVbatCollapse_keeps (s : State) : s.keepsRes (execVbatCollapse s) := by
  have h0 := State.keeps_refl s
  unfold execVbatCollapse
  repeat' first
    | with_reducible first
        | assumption | apply State.fresh_keeps | apply State.modPwr_keeps | apply State.loseBackup_keeps
        | apply State.modPwr_keeps | refine keepsRes_next ?_ | refine ite_keeps ?_ ?_
    | (intro _ _ _) | split | (simp; done) | (dsimp only)

theorem execLcRequest_keeps (r : Req) (value : Bytes) (s : State) : s.keepsRes (execLcRequest r value s) := by
  have h0 := State.keeps_refl s
  unfold execLcRequest
  repeat' with_reducible first
      | assumption | apply State.fresh_keeps | apply State.writeRow_keeps | refine keepsRes_next ?_

theorem execLcCancel_keeps (r : Req) (v : Nat) (s : State) : s.keepsRes (execLcCancel r v s) := by
  have h0 := State.keeps_refl s
  unfold execLcCancel
  repeat' with_reducible first
      | assumption | apply State.fresh_keeps | apply State.writeRow_keeps | refine keepsRes_next ?_

theorem execLcMailboxToken_keeps (token : Bytes) (s : State) : s.keepsRes (execLcMailboxToken token s) := by
  have h0 := State.keeps_refl s
  unfold execLcMailboxToken
  repeat' with_reducible first
      | assumption | apply State.fresh_keeps | apply State.emit_keeps | apply State.draw_keeps
      | apply State.modLc_keeps | apply State.putMark_keeps | apply State.beginStart_keeps | refine keepsRes_next ?_
      | refine ite_keeps ?_ ?_

theorem execDebugNonceRead_keeps (r : Req) (s : State) : s.keepsRes (execDebugNonceRead r s) := by
  have h0 := State.keeps_refl s
  unfold execDebugNonceRead
  repeat' first
    | with_reducible first
        | assumption | apply State.fresh_keeps | refine State.request_keeps _ _ _ _ ?_ ?_ | apply State.readOn_keeps
        | refine keepsRes_next ?_
    | (intro _ _ _)

theorem execNonceExpiry_keeps (s : State) : s.keepsRes (execNonceExpiry s) := by
  have h0 := State.keeps_refl s
  unfold execNonceExpiry
  repeat' first
    | with_reducible first
        | assumption | apply State.fresh_keeps | apply State.endNonce_keeps | refine keepsRes_next ?_
    | split

theorem execDebugToken_keeps (r : Req) (value : Bytes) (s : State) : s.keepsRes (execDebugToken r value s) := by
  have h0 := State.keeps_refl s
  unfold execDebugToken
  repeat' with_reducible first
      | assumption | apply State.fresh_keeps | apply State.writeRow_keeps | refine keepsRes_next ?_

theorem execCascadeEnableWrite_keeps (r : Req) (v : Nat) (s : State) : s.keepsRes (execCascadeEnableWrite r v s) := by
  have h0 := State.keeps_refl s
  unfold execCascadeEnableWrite
  repeat' with_reducible first
      | assumption | apply State.fresh_keeps | apply State.writeRow_keeps | refine keepsRes_next ?_

theorem execCascadePromote_keeps (r : Req) (v : Nat) (s : State) : s.keepsRes (execCascadePromote r v s) := by
  have h0 := State.keeps_refl s
  unfold execCascadePromote
  repeat' with_reducible first
      | assumption | apply State.fresh_keeps | apply State.writeRow_keeps | refine keepsRes_next ?_

theorem execActingMasterClear_keeps (r : Req) (v : Nat) (s : State) : s.keepsRes (execActingMasterClear r v s) := by
  have h0 := State.keeps_refl s
  unfold execActingMasterClear
  repeat' with_reducible first
      | assumption | apply State.fresh_keeps | apply State.writeRow_keeps | refine keepsRes_next ?_

theorem execPromotionNotice_keeps (s : State) : s.keepsRes (execPromotionNotice s) := by
  have h0 := State.keeps_refl s
  unfold execPromotionNotice
  repeat' first
    | with_reducible first
        | assumption | apply State.fresh_keeps | apply State.passOn_keeps | apply State.orphan_keeps
        | apply State.latch_keeps | apply State.ev_keeps | apply State.fullResetDue_keeps | refine keepsRes_next ?_
        | refine ite_keeps ?_ ?_
    | split | (simp; done) | (dsimp only)

theorem execLinkDown_keeps (port : Nat) (s : State) : s.keepsRes (execLinkDown port s) := by
  have h0 := State.keeps_refl s
  unfold execLinkDown
  repeat' first
    | with_reducible first
        | assumption | apply State.fresh_keeps | apply State.modCas_keeps | apply State.latch_keeps
        | apply State.modCas_keeps | refine keepsRes_next ?_ | refine foldl_keeps _ _ _ ?_ ?_ | refine ite_keeps ?_ ?_
        | refine ite_keeps_fst ?_ ?_
    | (intro _ _ _) | split | (simp; done) | (dsimp only)

theorem execMemberLost_keeps (d : Nat) (s : State) : s.keepsRes (execMemberLost d s) := by
  have h0 := State.keeps_refl s
  unfold execMemberLost
  repeat' first
    | with_reducible first
        | assumption | apply State.fresh_keeps | apply State.endJob_keeps | apply State.modCas_keeps
        | apply State.latch_keeps | apply State.ev_keeps | refine keepsRes_next ?_ | refine foldl_keeps _ _ _ ?_ ?_
        | refine ite_keeps ?_ ?_
    | (intro _ _ _)

theorem execLinkRekey_keeps (r : Rekey) (secret transcript : Bytes) (s : State) : s.keepsRes (execLinkRekey
    r secret transcript s) := by
  have h0 := State.keeps_refl s
  unfold execLinkRekey
  repeat' first
    | with_reducible first
        | assumption | apply State.fresh_keeps | apply State.keyLink_keeps | apply State.ev_keeps
        | apply State.latch_keeps | apply State.modCas_keeps | apply State.modCas_keeps | refine keepsRes_next ?_
        | refine ite_keeps ?_ ?_
    | (intro _ _ _) | split | (simp; done) | (dsimp only)

theorem execForwardedJob_keeps (desc data : Bytes) (master mask : Nat) (s : State) : s.keepsRes (execForwardedJob desc
    data master mask s) := by
  have h0 := State.keeps_refl s
  unfold execForwardedJob
  repeat' with_reducible first
      | assumption | apply State.fresh_keeps | apply State.modCas_keeps | apply State.modJobs_keeps
      | apply State.modNextJob_keeps | refine keepsRes_next ?_ | refine ite_keeps ?_ ?_

theorem execForwardedResult_keeps (id status lane : Nat) (result dest : Bytes) (s : State) : s.keepsRes
    (execForwardedResult id status lane result dest s) := by
  have h0 := State.keeps_refl s
  unfold execForwardedResult
  repeat' first
    | with_reducible first
        | assumption | apply State.fresh_keeps | apply State.heard_keeps | apply State.modCas_keeps
        | apply State.modJob_keeps | refine keepsRes_next ?_
    | split

theorem execKeyReplication_keeps (k : Key) (master : Nat) (s : State) : s.keepsRes (execKeyReplication k master s) := by
  have h0 := State.keeps_refl s
  unfold execKeyReplication
  repeat' first
    | with_reducible first
        | assumption | apply State.fresh_keeps | apply State.linkSend_keeps | apply State.eraseKey_keeps
        | apply State.modTack_keeps | refine keepsRes_next ?_
    | split
    | (simp; done)
    | (dsimp only)

theorem execReplicaChange_keeps (master what : Nat) (secret : Bytes) (s : State) : s.keepsRes (execReplicaChange master
    what secret s) := by
  have h0 := State.keeps_refl s
  unfold execReplicaChange
  repeat' first
    | with_reducible first
        | assumption | apply State.fresh_keeps | apply State.modCas_keeps | apply State.modCas_keeps
        | refine keepsRes_next ?_ | refine ite_keeps ?_ ?_
    | (intro _ _ _) | split | (simp; done) | (dsimp only)

theorem execForwardCancellation_keeps (id : Nat) (s : State) : s.keepsRes (execForwardCancellation id s) := by
  have h0 := State.keeps_refl s
  unfold execForwardCancellation
  repeat' with_reducible first
      | assumption | apply State.fresh_keeps | apply State.modCas_keeps | refine keepsRes_next ?_
      | refine ite_keeps ?_ ?_

theorem execRemoteSheetSwitch_keeps (sheet base : Nat) (safe : Bool) (s : State) : s.keepsRes (execRemoteSheetSwitch
    sheet base safe s) := by
  have h0 := State.keeps_refl s
  unfold execRemoteSheetSwitch
  repeat' with_reducible first
      | assumption | apply State.fresh_keeps | apply State.modCas_keeps | apply State.takeSwitch_keeps
      | refine keepsRes_next ?_ | refine ite_keeps ?_ ?_

theorem execPowerSleep_keeps (r : Req) (v : Nat) (s : State) : s.keepsRes (execPowerSleep r v s) := by
  have h0 := State.keeps_refl s
  unfold execPowerSleep
  repeat' with_reducible first
      | assumption | apply State.fresh_keeps | apply State.writeRow_keeps | refine keepsRes_next ?_

theorem execWake_keeps (w : WakeSource) (hi : Nat) (s : State) : s.keepsRes (execWake w hi s) := by
  have h0 := State.keeps_refl s
  unfold execWake
  repeat' with_reducible first
      | assumption | apply State.fresh_keeps | apply State.modPwr_keeps | apply State.wakeEvent_keeps
      | refine keepsRes_next ?_ | refine ite_keeps ?_ ?_

theorem execWakeTimerExpiry_keeps (s : State) : s.keepsRes (execWakeTimerExpiry s) := by
  have h0 := State.keeps_refl s
  unfold execWakeTimerExpiry
  repeat' with_reducible first
      | assumption | apply State.fresh_keeps | apply State.wakeEvent_keeps | refine keepsRes_next ?_
      | refine ite_keeps ?_ ?_

theorem execVioMgRise_keeps (st : Straps) (s : State) : s.keepsRes (execVioMgRise st s) := by
  have h0 := State.keeps_refl s
  unfold execVioMgRise
  repeat' with_reducible first
      | assumption | apply State.fresh_keeps | apply State.modPwr_keeps | apply State.sampleStraps_keeps
      | apply State.beginStart_keeps | refine keepsRes_next ?_ | refine ite_keeps ?_ ?_

theorem execDebuggerHalt_keeps (s : State) : s.keepsRes (execDebuggerHalt s) := by
  have h0 := State.keeps_refl s
  unfold execDebuggerHalt
  repeat' with_reducible first
      | assumption | apply State.fresh_keeps | apply State.modPwr_keeps | refine keepsRes_next ?_
      | refine ite_keeps ?_ ?_

theorem execDebuggerResume_keeps (s : State) : s.keepsRes (execDebuggerResume s) := by
  have h0 := State.keeps_refl s
  unfold execDebuggerResume
  repeat' with_reducible first
      | assumption | apply State.fresh_keeps | apply State.modPwr_keeps | refine keepsRes_next ?_

theorem execVectorUnmask_keeps (fn vector : Nat) (s : State) : s.keepsRes (execVectorUnmask fn vector s) := by
  have h0 := State.keeps_refl s
  unfold execVectorUnmask
  repeat' first
    | with_reducible first
        | assumption | apply State.fresh_keeps | apply State.setMsix_keeps | apply State.modAtn_keeps
        | apply State.emit_keeps | refine keepsRes_next ?_ | refine ite_keeps ?_ ?_
    | (simp; done)

theorem execSmbusTimeout_keeps (bus : Nat) (s : State) : s.keepsRes (execSmbusTimeout bus s) := by
  have h0 := State.keeps_refl s
  unfold execSmbusTimeout
  repeat' with_reducible first
      | assumption | apply State.fresh_keeps | apply State.emit_keeps | refine keepsRes_next ?_
      | refine ite_keeps ?_ ?_

theorem execPushWindowWrite_keeps (pad slot off : Nat) (data : Bytes) (s : State) : s.keepsRes (execPushWindowWrite
    pad slot off data s) := by
  have h0 := State.keeps_refl s
  unfold execPushWindowWrite
  repeat' with_reducible first
      | assumption | apply State.fresh_keeps | apply State.pushWrite_keeps | refine keepsRes_next ?_
      | refine ite_keeps ?_ ?_

theorem execMctpControlRequest_keeps (m : MctpFrom) (eid cmd typ : Nat) (s : State) : s.keepsRes (execMctpControlRequest
    m eid cmd typ s) := by
  have h0 := State.keeps_refl s
  unfold execMctpControlRequest
  repeat' first
    | with_reducible first
        | assumption | apply State.fresh_keeps | apply State.lateMctp_keeps | apply State.pldmReply_keeps
        | apply State.mctpAnswer_keeps | refine keepsRes_next ?_ | refine ite_keeps ?_ ?_
    | split | (simp; done) | (dsimp only)

theorem execMemberJoin_keeps (j : JoinInput) (s : State) : s.keepsRes (execMemberJoin j s) := by
  have h0 := State.keeps_refl s
  unfold execMemberJoin
  repeat' first
    | with_reducible first
        | assumption | apply State.fresh_keeps | apply State.passOn_keeps | apply State.refuseLink_keeps
        | apply State.modCas_keeps | apply State.keyLink_keeps | apply State.linkSend_keeps | apply State.latch_keeps
        | apply State.ev_keeps | apply State.modCas_keeps | refine keepsRes_next ?_ | refine foldl_keeps _ _ _ ?_ ?_
        | refine ite_keeps ?_ ?_ | refine ite_keeps_fst ?_ ?_
    | (intro _ _ _) | split | (simp; done) | (dsimp only)

theorem execReplicationAck_keeps (member master : Nat) (s : State) : s.keepsRes (execReplicationAck member master s) :=
    by
  have h0 := State.keeps_refl s
  unfold execReplicationAck
  repeat' first
    | with_reducible first
        | assumption | apply State.fresh_keeps | apply State.passOn_keeps | apply State.heard_keeps
        | apply State.modCas_keeps | apply State.modCas_keeps | refine keepsRes_next ?_ | refine ite_keeps ?_ ?_
        | refine ite_keeps_fst ?_ ?_ | refine ite_keeps_snd ?_ ?_
    | (intro _ _ _) | split | (simp; done) | (dsimp only)

theorem execStackClassTReport_keeps (member : Nat) (s : State) : s.keepsRes (execStackClassTReport member s) := by
  have h0 := State.keeps_refl s
  unfold execStackClassTReport
  repeat' first
    | with_reducible first
        | assumption | apply State.fresh_keeps | apply State.makeSafeDue_keeps | apply State.passOn_keeps
        | refine keepsRes_next ?_ | refine ite_keeps ?_ ?_
    | split | (simp; done) | (dsimp only)

end Sys2Proof.Machine
end

