-- ==== Sys2Proof/Laws/OnlyBase.lean ====
section
/-! SUPPORT. What each modifier leaves alone. -/

namespace Sys2Proof.Machine

open Sys2Proof

theorem State.only_refl (L : List Part) (s : State) : State.only L s s := fun p _ => by cases p <;> rfl

theorem State.only_step {L : List Part} {r s t : State} {q : Part} (h : ∀ p, p ≠ q → s.same p t) (m : q ∈ L)
    (hs : State.only L r s) : State.only L r t := fun p hp => by
  have h1 := hs p hp
  have h2 := h p (fun e => hp (e ▸ m))
  cases p <;> exact Eq.trans h2 h1

theorem foldl_only {α : Type} {L : List Part} {r : State} (l : List α) (f : State → α → State) (s : State)
    (h : ∀ s x, r.only L s → r.only L (f s x)) (hs : r.only L s) : r.only L (l.foldl f s) := by
  induction l generalizing s with
  | nil => exact hs
  | cons x l ih => exact ih _ (h _ _ hs)

theorem ite_only {L : List Part} {r : State} {c : Prop} [Decidable c] {a b : State} (ha : r.only L a)
    (hb : r.only L b) :
    r.only L (if c then a else b) := by
  by_cases h : c <;> simp only [h, if_true, if_false] <;> assumption

theorem ite_only_fst {L : List Part} {r : State} {α : Type} {c : Prop} [Decidable c] {a b : State × α}
    (ha : r.only L a.1) (hb : r.only L b.1) :
    r.only L (if c then a else b).1 := by
  by_cases h : c <;> simp only [h, if_true, if_false] <;> assumption

theorem ite_only_snd {L : List Part} {r : State} {α : Type} {c : Prop} [Decidable c] {a b : α × State}
    (ha : r.only L a.2) (hb : r.only L b.2) :
    r.only L (if c then a else b).2 := by
  by_cases h : c <;> simp only [h, if_true, if_false] <;> assumption

theorem State.modCore_only {L : List Part} {r s : State} (f : Core → Core) (h : Part.core ∈ L) (hs : r.only L s) :
    r.only L (s.modCore f) := State.only_step (fun p h => by cases p <;> first | rfl | exact absurd rfl h) h hs

theorem State.modPwr_only {L : List Part} {r s : State} (f : Pwr → Pwr) (h : Part.pwr ∈ L) (hs : r.only L s) :
    r.only L (s.modPwr f) := State.only_step (fun p h => by cases p <;> first | rfl | exact absurd rfl h) h hs

theorem State.modSup_only {L : List Part} {r s : State} (f : Sup → Sup) (h : Part.sup ∈ L) (hs : r.only L s) :
    r.only L (s.modSup f) := State.only_step (fun p h => by cases p <;> first | rfl | exact absurd rfl h) h hs

theorem State.modFuse_only {L : List Part} {r s : State} (f : Fuse → Fuse) (h : Part.fuse ∈ L) (hs : r.only L s) :
    r.only L (s.modFuse f) := State.only_step (fun p h => by cases p <;> first | rfl | exact absurd rfl h) h hs

theorem State.modBoot_only {L : List Part} {r s : State} (f : Boot → Boot) (h : Part.boot ∈ L) (hs : r.only L s) :
    r.only L (s.modBoot f) := State.only_step (fun p h => by cases p <;> first | rfl | exact absurd rfl h) h hs

theorem State.modHal_only {L : List Part} {r s : State} (f : Hal → Hal) (h : Part.hal ∈ L) (hs : r.only L s) :
    r.only L (s.modHal f) := State.only_step (fun p h => by cases p <;> first | rfl | exact absurd rfl h) h hs

theorem State.modPorts_only {L : List Part} {r s : State} (f : List Port → List Port) (h : Part.ports ∈ L)
    (hs : r.only L s) :
    r.only L (s.modPorts f) := State.only_step (fun p h => by cases p <;> first | rfl | exact absurd rfl h) h hs

theorem State.modShed_only {L : List Part} {r s : State} (f : List Host.Cell → List Host.Cell) (h : Part.shed ∈ L)
    (hs : r.only L s) :
    r.only L (s.modShed f) := State.only_step (fun p h => by cases p <;> first | rfl | exact absurd rfl h) h hs

theorem State.modTagTable_only {L : List Part} {r s : State} (f : List (Nat × Bytes) → List (Nat × Bytes))
    (h : Part.tagTable ∈ L) (hs : r.only L s) :
    r.only L (s.modTagTable f) := State.only_step (fun p h => by cases p <;> first | rfl | exact absurd rfl h) h hs

theorem State.modShedLost_only {L : List Part} {r s : State} (f : Bool → Bool) (h : Part.shedLost ∈ L)
    (hs : r.only L s) :
    r.only L (s.modShedLost f) := State.only_step (fun p h => by cases p <;> first | rfl | exact absurd rfl h) h hs

theorem State.modPldm_only {L : List Part} {r s : State} (f : Pldm → Pldm) (h : Part.pldm ∈ L) (hs : r.only L s) :
    r.only L (s.modPldm f) := State.only_step (fun p h => by cases p <;> first | rfl | exact absurd rfl h) h hs

theorem State.modPar_only {L : List Part} {r s : State} (f : Par → Par) (h : Part.par ∈ L) (hs : r.only L s) :
    r.only L (s.modPar f) := State.only_step (fun p h => by cases p <;> first | rfl | exact absurd rfl h) h hs

theorem State.modTack_only {L : List Part} {r s : State} (f : Tack → Tack) (h : Part.tack ∈ L) (hs : r.only L s) :
    r.only L (s.modTack f) := State.only_step (fun p h => by cases p <;> first | rfl | exact absurd rfl h) h hs

theorem State.modYard_only {L : List Part} {r s : State} (f : Yard → Yard) (h : Part.yard ∈ L) (hs : r.only L s) :
    r.only L (s.modYard f) := State.only_step (fun p h => by cases p <;> first | rfl | exact absurd rfl h) h hs

theorem State.modJobs_only {L : List Part} {r s : State} (f : List Job → List Job) (h : Part.jobs ∈ L)
    (hs : r.only L s) :
    r.only L (s.modJobs f) := State.only_step (fun p h => by cases p <;> first | rfl | exact absurd rfl h) h hs

theorem State.modDevJobs_only {L : List Part} {r s : State} (f : List DevJob → List DevJob) (h : Part.devJobs ∈ L)
    (hs : r.only L s) :
    r.only L (s.modDevJobs f) := State.only_step (fun p h => by cases p <;> first | rfl | exact absurd rfl h) h hs

theorem State.modNextJob_only {L : List Part} {r s : State} (f : Nat → Nat) (h : Part.nextJob ∈ L) (hs : r.only L s) :
    r.only L (s.modNextJob f) := State.only_step (fun p h => by cases p <;> first | rfl | exact absurd rfl h) h hs

theorem State.modPads_only {L : List Part} {r s : State} (f : List Pad → List Pad) (h : Part.pads ∈ L)
    (hs : r.only L s) :
    r.only L (s.modPads f) := State.only_step (fun p h => by cases p <;> first | rfl | exact absurd rfl h) h hs

theorem State.modPmem_only {L : List Part} {r s : State} (f : Pmem → Pmem) (h : Part.pmem ∈ L) (hs : r.only L s) :
    r.only L (s.modPmem f) := State.only_step (fun p h => by cases p <;> first | rfl | exact absurd rfl h) h hs

theorem State.modPci_only {L : List Part} {r s : State} (f : Pci → Pci) (h : Part.pci ∈ L) (hs : r.only L s) :
    r.only L (s.modPci f) := State.only_step (fun p h => by cases p <;> first | rfl | exact absurd rfl h) h hs

theorem State.modRdw_only {L : List Part} {r s : State} (f : Rdw → Rdw) (h : Part.rdw ∈ L) (hs : r.only L s) :
    r.only L (s.modRdw f) := State.only_step (fun p h => by cases p <;> first | rfl | exact absurd rfl h) h hs

theorem State.modRdwSc_only {L : List Part} {r s : State} (f : Rdw → Rdw) (h : Part.rdwSc ∈ L) (hs : r.only L s) :
    r.only L (s.modRdwSc f) := State.only_step (fun p h => by cases p <;> first | rfl | exact absurd rfl h) h hs

theorem State.modDmb_only {L : List Part} {r s : State} (f : Dmb → Dmb) (h : Part.dmb ∈ L) (hs : r.only L s) :
    r.only L (s.modDmb f) := State.only_step (fun p h => by cases p <;> first | rfl | exact absurd rfl h) h hs

theorem State.modCas_only {L : List Part} {r s : State} (f : Cas → Cas) (h : Part.cas ∈ L) (hs : r.only L s) :
    r.only L (s.modCas f) := State.only_step (fun p h => by cases p <;> first | rfl | exact absurd rfl h) h hs

theorem State.modDict_only {L : List Part} {r s : State} (f : Dict → Dict) (h : Part.dict ∈ L) (hs : r.only L s) :
    r.only L (s.modDict f) := State.only_step (fun p h => by cases p <;> first | rfl | exact absurd rfl h) h hs

theorem State.modLog_only {L : List Part} {r s : State} (f : Log → Log) (h : Part.log ∈ L) (hs : r.only L s) :
    r.only L (s.modLog f) := State.only_step (fun p h => by cases p <;> first | rfl | exact absurd rfl h) h hs

theorem State.modLc_only {L : List Part} {r s : State} (f : Lc → Lc) (h : Part.lc ∈ L) (hs : r.only L s) :
    r.only L (s.modLc f) := State.only_step (fun p h => by cases p <;> first | rfl | exact absurd rfl h) h hs

theorem State.modMon_only {L : List Part} {r s : State} (f : Mon → Mon) (h : Part.mon ∈ L) (hs : r.only L s) :
    r.only L (s.modMon f) := State.only_step (fun p h => by cases p <;> first | rfl | exact absurd rfl h) h hs

theorem State.modAtn_only {L : List Part} {r s : State} (f : Atn → Atn) (h : Part.atn ∈ L) (hs : r.only L s) :
    r.only L (s.modAtn f) := State.only_step (fun p h => by cases p <;> first | rfl | exact absurd rfl h) h hs

theorem State.modOut_only {L : List Part} {r s : State} (f : List Out → List Out) (h : Part.out ∈ L) (hs : r.only L s) :
    r.only L (s.modOut f) := State.only_step (fun p h => by cases p <;> first | rfl | exact absurd rfl h) h hs

theorem State.clearVolatile_only {L : List Part} {r : State} (s : State)
    (hL : [.sup, .boot, .hal, .ports, .shed, .tagTable, .shedLost, .pldm, .par, .tack, .yard, .jobs, .devJobs,
        .nextJob, .pads, .pci, .rdw, .rdwSc, .dmb, .cas, .dict, .log, .lc, .mon, .atn] ⊆ L) (hs : r.only L s) :
    r.only L s.clearVolatile := fun p hp => by
  have h1 := hs p hp
  cases p <;> first
    | exact h1
    | exact absurd (hL (by decide)) hp

end Sys2Proof.Machine
end

