-- ==== Sys2Proof/Laws/OnlyCore.lean ====
section
/-! SUPPORT. What the operations of Dict, Ops, LogWrite, Reset, Start, Power leave alone. -/

set_option maxRecDepth 20000

namespace Sys2Proof.Machine

open Sys2Proof

theorem State.setVal_only {L : List Part} {σ : State} (s : State) (key : Nat) (v : Bytes) (hL : [.dict] ⊆ L) (hs :
    σ.only L s) : σ.only L (State.setVal s key v) := by
  unfold State.setVal
  repeat' first
    | with_reducible first
        | assumption | apply State.modDict_only | apply State.modDict_only | refine ite_only ?_ ?_
    | with_reducible intro _ _ _ | with_reducible intro _ _ | exact hL (by decide) | exact List.Subset.trans (by decide) hL | split | (dsimp only)

theorem State.emit_only {L : List Part} {σ : State} (s : State) (o : Out)
    (hL : [.out] ⊆ L) (hs : σ.only L s) : σ.only L (State.emit s o) := by
  unfold State.emit
  repeat' first
    | with_reducible first
        | assumption | apply State.modOut_only
    | exact hL (by decide)

theorem State.linkSend_only {L : List Part} {σ : State} (s : State) (d code : Nat) (p : Bytes)
    (hL : [.cas, .out] ⊆ L) (hs : σ.only L s) : σ.only L (State.linkSend s d code p) := by
  unfold State.linkSend
  repeat' first
    | with_reducible first
        | assumption | apply State.emit_only | apply State.modCas_only
    | exact hL (by decide) | exact List.Subset.trans (by decide) hL

theorem State.latch_only {L : List Part} {σ : State} (s : State) (g k : Nat)
    (hL : [.atn] ⊆ L) (hs : σ.only L s) : σ.only L (State.latch s g k) := by
  unfold State.latch
  repeat' first
    | with_reducible first
        | assumption | apply State.modAtn_only
    | exact hL (by decide)

theorem State.clearLeaves_only {L : List Part} {σ : State} (s : State) (g : Nat) (m : BitVec 16)
    (hL : [.atn] ⊆ L) (hs : σ.only L s) : σ.only L (State.clearLeaves s g m) := by
  unfold State.clearLeaves
  repeat' first
    | with_reducible first
        | assumption | apply State.modAtn_only
    | exact hL (by decide)

theorem State.modPort_only {L : List Part} {σ : State} (s : State) (n : Nat) (f : Port → Port)
    (hL : [.ports] ⊆ L) (hs : σ.only L s) : σ.only L (State.modPort s n f) := by
  unfold State.modPort
  repeat' first
    | with_reducible first
        | assumption | apply State.modPorts_only
    | exact hL (by decide)

theorem State.modPad_only {L : List Part} {σ : State} (s : State) (n : Nat) (f : Pad → Pad) (hL : [.pads] ⊆ L) (hs :
    σ.only L s) : σ.only L (State.modPad s n f) := by
  unfold State.modPad
  repeat' first
    | with_reducible first
        | assumption | apply State.modPads_only | apply State.modPads_only | refine ite_only ?_ ?_
    | with_reducible intro _ _ _ | with_reducible intro _ _ | exact hL (by decide) | exact List.Subset.trans (by decide) hL | split | (dsimp only)

theorem State.modLane_only {L : List Part} {σ : State} (s : State) (n : Nat) (f : Lane → Lane)
    (hL : [.yard] ⊆ L) (hs : σ.only L s) : σ.only L (State.modLane s n f) := by
  unfold State.modLane
  repeat' first
    | with_reducible first
        | assumption | apply State.modYard_only
    | exact hL (by decide)

theorem State.modJob_only {L : List Part} {σ : State} (s : State) (id : Nat) (f : Job → Job) (hL : [.jobs] ⊆ L) (hs :
    σ.only L s) : σ.only L (State.modJob s id f) := by
  unfold State.modJob
  repeat' first
    | with_reducible first
        | assumption | apply State.modJobs_only | apply State.modJobs_only | refine ite_only ?_ ?_
    | with_reducible intro _ _ _ | with_reducible intro _ _ | exact hL (by decide) | exact List.Subset.trans (by decide) hL | split | (dsimp only)

theorem State.dropJob_only {L : List Part} {σ : State} (s : State) (id : Nat)
    (hL : [.jobs] ⊆ L) (hs : σ.only L s) : σ.only L (State.dropJob s id) := by
  unfold State.dropJob
  repeat' first
    | with_reducible first
        | assumption | apply State.modJobs_only
    | exact hL (by decide)

theorem State.draw_only {L : List Part} {σ : State} (s : State) (len : Nat)
    (hL : [.tack] ⊆ L) (hs : σ.only L s) : σ.only L ((State.draw s len).2) := by
  unfold State.draw
  repeat' first
    | with_reducible first
        | assumption | apply State.modTack_only
    | exact hL (by decide)

theorem State.logDueAdd_only {L : List Part} {σ : State} (s : State) (d : LogDesc) (e : Effect)
    (hL : [.log] ⊆ L) (hs : σ.only L s) : σ.only L (State.logDueAdd s d e) := by
  unfold State.logDueAdd
  repeat' first
    | with_reducible first
        | assumption | apply State.modLog_only
    | exact hL (by decide)

theorem State.logEv_only {L : List Part} {σ : State} (s : State) (d : LogDesc)
    (hL : [.log] ⊆ L) (hs : σ.only L s) : σ.only L (State.logEv s d) := by
  unfold State.logEv
  repeat' with_reducible first
    | assumption | apply State.logDueAdd_only

theorem State.ev_only {L : List Part} {σ : State} (s : State) (subsystem family : Nat) (e : Config.Ev) (facts : List
    Nat)
    (hL : [.log] ⊆ L) (hs : σ.only L s) : σ.only L (State.ev s subsystem family e facts) := by
  unfold State.ev
  repeat' with_reducible first
    | assumption | apply State.logEv_only

theorem State.setOp_only {L : List Part} {σ : State} (s : State) (o : Op)
    (hL : [.core, .log, .atn] ⊆ L) (hs : σ.only L s) : σ.only L (State.setOp s o) := by
  unfold State.setOp
  repeat' first
    | with_reducible first
        | assumption | apply State.modCore_only | apply State.latch_only | apply State.ev_only | refine ite_only ?_ ?_
    | exact hL (by decide) | exact List.Subset.trans (by decide) hL

theorem State.beginPortHold_only {L : List Part} {σ : State} (s : State) (n : Nat)
    (hL : [.hal, .log, .atn] ⊆ L) (hs : σ.only L s) : σ.only L (State.beginPortHold s n) := by
  unfold State.beginPortHold
  repeat' first
    | with_reducible first
        | assumption | apply State.modHal_only | apply State.latch_only | apply State.ev_only | refine ite_only ?_ ?_
    | exact hL (by decide) | exact List.Subset.trans (by decide) hL

theorem State.endPortHold_only {L : List Part} {σ : State} (s : State) (n : Nat)
    (hL : [.hal, .log, .atn] ⊆ L) (hs : σ.only L s) : σ.only L (State.endPortHold s n) := by
  unfold State.endPortHold
  repeat' first
    | with_reducible first
        | assumption | apply State.modHal_only | apply State.latch_only | apply State.ev_only | refine ite_only ?_ ?_
    | exact hL (by decide) | exact List.Subset.trans (by decide) hL

theorem State.beginAlarmHold_only {L : List Part} {σ : State} (s : State)
    (hL : [.hal, .log, .mon, .atn] ⊆ L) (hs : σ.only L s) : σ.only L (State.beginAlarmHold s) := by
  unfold State.beginAlarmHold
  repeat' first
    | with_reducible first
        | assumption | apply State.modMon_only | apply State.modHal_only | apply State.latch_only | apply State.ev_only
        | refine ite_only ?_ ?_
    | exact hL (by decide) | exact List.Subset.trans (by decide) hL

theorem State.endAlarmHold_only {L : List Part} {σ : State} (s : State)
    (hL : [.hal, .log, .mon, .atn] ⊆ L) (hs : σ.only L s) : σ.only L (State.endAlarmHold s) := by
  unfold State.endAlarmHold
  repeat' first
    | with_reducible first
        | assumption | apply State.modHal_only | apply State.modMon_only | apply State.latch_only | apply State.ev_only
        | refine ite_only ?_ ?_
    | exact hL (by decide) | exact List.Subset.trans (by decide) hL

theorem State.passOn_only {L : List Part} {σ : State} (s : State) (port member : Nat) (hL : [.out] ⊆ L) (hs : σ.only L
    s) : σ.only L (State.passOn s port member) := by
  unfold State.passOn
  repeat' first
    | with_reducible first
        | assumption | apply State.emit_only | refine ite_only ?_ ?_
    | exact hL (by decide) | exact List.Subset.trans (by decide) hL | split | (dsimp only)

theorem State.inBand_only {L : List Part} {σ : State} (s : State) (bus : Nat)
    (hL : [.out] ⊆ L) (hs : σ.only L s) : σ.only L (State.inBand s bus) := by
  unfold State.inBand
  repeat' with_reducible first
    | assumption | apply State.emit_only | refine ite_only ?_ ?_

theorem State.mctpSend_only {L : List Part} {σ : State} (s : State) (bus addr dst tag : Nat) (static : Bool) (p : Bytes)
    (hL : [.out] ⊆ L) (hs : σ.only L s) : σ.only L (State.mctpSend s bus addr dst tag static p) := by
  unfold State.mctpSend
  repeat' first
    | with_reducible first
        | assumption | apply State.emit_only | refine ite_only ?_ ?_
    | exact hL (by decide) | exact List.Subset.trans (by decide) hL | split | (dsimp only)

theorem State.mctpAnswer_only {L : List Part} {σ : State} (s : State) (bus dst : Nat) (p : Bytes) (hL : [.out] ⊆ L) (hs
    : σ.only L s) : σ.only L (State.mctpAnswer s bus dst p) := by
  unfold State.mctpAnswer
  repeat' first
    | with_reducible first
        | assumption | apply State.mctpSend_only | apply State.inBand_only | refine ite_only ?_ ?_
    | exact hL (by decide) | exact List.Subset.trans (by decide) hL | split | (dsimp only)

theorem State.lateMctp_only {L : List Part} {σ : State} (s : State)
    (hL : [.par, .atn] ⊆ L) (hs : σ.only L s) : σ.only L (State.lateMctp s) := by
  unfold State.lateMctp
  repeat' first
    | with_reducible first
        | assumption | apply State.modPar_only | apply State.latch_only
    | exact hL (by decide) | exact List.Subset.trans (by decide) hL

theorem State.addDev_only {L : List Part} {σ : State} (s : State) (w : DevWhat)
    (hL : [.devJobs, .nextJob] ⊆ L) (hs : σ.only L s) : σ.only L (State.addDev s w) := by
  unfold State.addDev
  repeat' first
    | with_reducible first
        | assumption | apply State.modDevJobs_only | apply State.modNextJob_only
    | exact hL (by decide)

theorem State.modDev_only {L : List Part} {σ : State} (s : State) (id : Nat) (f : DevJob → DevJob) (hL : [.devJobs] ⊆ L)
    (hs : σ.only L s) : σ.only L (State.modDev s id f) := by
  unfold State.modDev
  repeat' first
    | with_reducible first
        | assumption | apply State.modDevJobs_only | apply State.modDevJobs_only | refine ite_only ?_ ?_
    | with_reducible intro _ _ _ | with_reducible intro _ _ | exact hL (by decide) | exact List.Subset.trans (by decide) hL | split | (dsimp only)

theorem State.dropWhat_only {L : List Part} {σ : State} (s : State) (p : DevWhat → Bool) (hL : [.yard, .devJobs] ⊆ L)
    (hs : σ.only L s) : σ.only L (State.dropWhat s p) := by
  unfold State.dropWhat
  repeat' first
    | with_reducible first
        | assumption | apply State.modYard_only | apply State.modDevJobs_only | apply State.modYard_only
        | apply State.modDevJobs_only | refine ite_only ?_ ?_
    | with_reducible intro _ _ _ | with_reducible intro _ _ | exact hL (by decide) | exact List.Subset.trans (by decide) hL | split | (dsimp only)

theorem State.dropDev_only {L : List Part} {σ : State} (s : State) (w : DevWhat)
    (hL : [.devJobs] ⊆ L) (hs : σ.only L s) : σ.only L (State.dropDev s w) := by
  unfold State.dropDev
  repeat' first
    | with_reducible first
        | assumption | apply State.modDevJobs_only
    | exact hL (by decide)

theorem State.fresh_only {L : List Part} {σ : State} (s : State)
    (hL : [.out] ⊆ L) (hs : σ.only L s) : σ.only L (State.fresh s) := by
  unfold State.fresh
  repeat' first
    | with_reducible first
        | assumption | apply State.modOut_only
    | exact hL (by decide)

theorem State.refusedSummaries_only {L : List Part} {σ : State} (s : State)
    (hL : [.ports, .log] ⊆ L) (hs : σ.only L s) : σ.only L (State.refusedSummaries s) := by
  unfold State.refusedSummaries
  repeat' first
    | with_reducible first
        | assumption | apply State.ev_only | apply State.modPort_only | refine foldl_only _ _ _ ?_ ?_
        | refine ite_only ?_ ?_
    | exact List.Subset.trans (by decide) hL | intro _ _ _

theorem State.logLatches_only {L : List Part} {σ : State} (s : State)
    (hL : [.ports, .log, .atn] ⊆ L) (hs : σ.only L s) : σ.only L (State.logLatches s) := by
  unfold State.logLatches
  repeat' first
    | with_reducible first
        | assumption | apply State.latch_only | apply State.modLog_only | apply State.refusedSummaries_only
        | refine ite_only ?_ ?_
    | exact hL (by decide) | exact List.Subset.trans (by decide) hL

theorem State.ringPut_only {L : List Part} {σ : State} (s : State) (mk : Log → Bytes)
    (hL : [.ports, .log, .atn] ⊆ L) (hs : σ.only L s) : σ.only L (State.ringPut s mk) := by
  unfold State.ringPut
  repeat' first
    | with_reducible first
        | assumption | apply State.modLog_only | apply State.logLatches_only | apply State.latch_only
        | apply State.logEv_only | refine ite_only ?_ ?_
    | exact hL (by decide) | exact List.Subset.trans (by decide) hL

theorem State.summarise_only {L : List Part} {σ : State} (s : State)
    (hL : [.ports, .log, .atn] ⊆ L) (hs : σ.only L s) : σ.only L (State.summarise s) := by
  unfold State.summarise
  repeat' first
    | with_reducible first
        | assumption | apply State.ringPut_only | apply State.modLog_only | apply State.latch_only
        | refine ite_only ?_ ?_
    | exact hL (by decide) | exact List.Subset.trans (by decide) hL

theorem State.writeEvent_only {L : List Part} {σ : State} (s : State) (d : LogDesc)
    (hL : [.ports, .log, .mon, .atn] ⊆ L) (hs : σ.only L s) : σ.only L (State.writeEvent s d) := by
  unfold State.writeEvent
  repeat' first
    | with_reducible first
        | assumption | apply State.summarise_only | apply State.modLog_only | apply State.ringPut_only
        | apply State.modMon_only | refine ite_only ?_ ?_
    | exact hL (by decide) | exact List.Subset.trans (by decide) hL | split

theorem State.writeCheckpoint_only {L : List Part} {σ : State} (s : State) (body : Bytes)
    (hL : [.ports, .tack, .log, .atn] ⊆ L) (hs : σ.only L s) : σ.only L (State.writeCheckpoint s body) :=
        by
  unfold State.writeCheckpoint
  repeat' first
    | with_reducible first
        | assumption | apply State.draw_only | apply State.ringPut_only | apply State.modLog_only
    | exact hL (by decide) | exact List.Subset.trans (by decide) hL

theorem State.toOff_only {L : List Part} {σ : State} (s : State) (hL : [.core, .pwr, .sup, .boot, .hal, .ports, .shed,
    .tagTable, .shedLost, .pldm, .par, .tack, .yard, .jobs, .devJobs, .nextJob, .pads, .pci, .rdw, .rdwSc, .dmb, .cas,
    .dict, .log, .lc, .mon, .atn] ⊆ L) (hs : σ.only L s) : σ.only L (State.toOff s) := by
  unfold State.toOff
  repeat' first
    | with_reducible first
        | assumption | apply State.clearVolatile_only | apply State.modCore_only | apply State.modPwr_only
        | apply State.modCore_only | apply State.modPwr_only
    | with_reducible intro _ _ _ | with_reducible intro _ _ | exact hL (by decide) | exact List.Subset.trans (by decide) hL | split | (dsimp only)

theorem State.beginStart_only {L : List Part} {σ : State} (s : State) (cause : ResetCause)
    (hL : [.core, .pwr, .sup, .boot, .hal, .ports, .shed, .tagTable, .shedLost, .pldm, .par, .tack, .yard, .jobs,
        .devJobs, .nextJob, .pads, .pmem, .pci, .rdw, .rdwSc, .dmb, .cas, .dict, .log, .lc, .mon, .atn] ⊆ L) (hs :
            σ.only L s) : σ.only L (State.beginStart s cause) := by
  unfold State.beginStart
  repeat' first
    | with_reducible first
        | assumption | apply State.modPmem_only | apply State.clearVolatile_only | apply State.modCore_only
        | apply State.modPwr_only | apply State.ev_only | refine ite_only ?_ ?_
    | exact hL (by decide) | exact List.Subset.trans (by decide) hL

theorem State.sampleStraps_only {L : List Part} {σ : State} (s : State) (st : Straps)
    (hL : [.pwr] ⊆ L) (hs : σ.only L s) : σ.only L (State.sampleStraps s st) := by
  unfold State.sampleStraps
  repeat' first
    | with_reducible first
        | assumption | apply State.modPwr_only
    | exact hL (by decide)

theorem State.sampleBoot_only {L : List Part} {σ : State} (s : State) (st : Straps)
    (hL : [.pwr] ⊆ L) (hs : σ.only L s) : σ.only L (State.sampleBoot s st) := by
  unfold State.sampleBoot
  repeat' first
    | with_reducible first
        | assumption | apply State.modPwr_only
    | exact hL (by decide)

theorem State.fullResetDue_only {L : List Part} {σ : State} (s : State) (c : ResetCause)
    (hL : [.core] ⊆ L) (hs : σ.only L s) : σ.only L (State.fullResetDue s c) := by
  unfold State.fullResetDue
  repeat' first
    | with_reducible first
        | assumption | apply State.modCore_only
    | exact hL (by decide)

theorem State.wipeBackupKeys_only {L : List Part} {σ : State} (s : State)
    (hL : [.tack] ⊆ L) (hs : σ.only L s) : σ.only L (State.wipeBackupKeys s) := by
  unfold State.wipeBackupKeys
  repeat' first
    | with_reducible first
        | assumption | apply State.modTack_only
    | exact hL (by decide)

theorem State.wipeStores_only {L : List Part} {σ : State} (s : State)
    (hL : [.tack, .dict] ⊆ L) (hs : σ.only L s) : σ.only L (State.wipeStores s) := by
  unfold State.wipeStores
  repeat' first
    | with_reducible first
        | assumption | apply State.modTack_only | apply State.modDict_only
    | exact hL (by decide)

theorem State.lcStep_only {L : List Part} {σ : State} (s : State) (target : Nat) (rec : Bytes) (k : Nat)
    (hL : [.fuse, .tack, .dict, .lc] ⊆ L) (hs : σ.only L s) : σ.only L (State.lcStep s target rec k) := by
  unfold State.lcStep
  repeat' first
    | with_reducible first
        | assumption | apply State.modFuse_only | apply State.wipeBackupKeys_only | apply State.modLc_only
        | apply State.wipeStores_only | refine ite_only ?_ ?_
    | exact hL (by decide) | exact List.Subset.trans (by decide) hL

theorem State.putMark_only {L : List Part} {σ : State} (s : State) (m : Option LcMark)
    (hL : [.lc] ⊆ L) (hs : σ.only L s) : σ.only L (State.putMark s m) := by
  unfold State.putMark
  repeat' first
    | with_reducible first
        | assumption | apply State.modLc_only
    | exact hL (by decide)

theorem State.lcSteps_only {L : List Part} {σ : State} (s : State) (m : LcMark) (from_ : Nat)
    (hL : [.fuse, .tack, .dict, .lc] ⊆ L) (hs : σ.only L s) : σ.only L (State.lcSteps s m from_) := by
  unfold State.lcSteps
  repeat' first
    | with_reducible first
        | assumption | apply State.lcStep_only | apply State.putMark_only | refine foldl_only _ _ _ ?_ ?_
        | refine ite_only ?_ ?_
    | exact List.Subset.trans (by decide) hL | intro _ _ _

theorem State.lcMarkRun_only {L : List Part} {σ : State} (s : State)
    (hL : [.fuse, .tack, .dict, .log, .lc] ⊆ L) (hs : σ.only L s) : σ.only L (State.lcMarkRun s) := by
  unfold State.lcMarkRun
  repeat' first
    | with_reducible first
        | assumption | apply State.putMark_only | apply State.ev_only | apply State.lcSteps_only
    | exact List.Subset.trans (by decide) hL | split

theorem State.lcEveryStart_only {L : List Part} {σ : State} (s : State)
    (hL : [.fuse, .tack, .dict] ⊆ L) (hs : σ.only L s) : σ.only L (State.lcEveryStart s) := by
  unfold State.lcEveryStart
  repeat' first
    | with_reducible first
        | assumption | apply State.modFuse_only | apply State.modTack_only | apply State.modDict_only
        | refine ite_only ?_ ?_
    | exact hL (by decide)

theorem State.bootFlashRead_only {L : List Part} {σ : State} (s : State) (addr len : Nat) (hL : [.out] ⊆ L) (hs : σ.only
    L s) : σ.only L (State.bootFlashRead s addr len) := by
  unfold State.bootFlashRead
  repeat' first
    | with_reducible first
        | assumption | apply State.emit_only
    | exact hL (by decide) | exact List.Subset.trans (by decide) hL | split | (dsimp only)

theorem State.loadSlot_only {L : List Part} {σ : State} (s : State) (x : Slot) (r : BootRead) (hL : [.pwr, .out] ⊆ L)
    (hs : σ.only L s) : σ.only L (State.loadSlot s x r) := by
  unfold State.loadSlot
  repeat' first
    | with_reducible first
        | assumption | apply State.bootFlashRead_only | apply State.modPwr_only | apply State.modPwr_only
        | refine ite_only ?_ ?_
    | with_reducible intro _ _ _ | with_reducible intro _ _ | exact hL (by decide) | exact List.Subset.trans (by decide) hL | split | (dsimp only)

theorem State.putLedger_only {L : List Part} {σ : State} (s : State) (f : DevLedger → DevLedger) (hL : [.boot, .log] ⊆
    L) (hs : σ.only L s) : σ.only L (State.putLedger s f) := by
  unfold State.putLedger
  repeat' first
    | with_reducible first
        | assumption | apply State.modBoot_only | apply State.ev_only | apply State.modBoot_only
        | refine ite_only ?_ ?_
    | with_reducible intro _ _ _ | with_reducible intro _ _ | exact hL (by decide) | exact List.Subset.trans (by decide) hL | split | (dsimp only)

theorem State.bootRecord_only {L : List Part} {σ : State} (s : State) (slotB : Bool) (reason svn : Nat)
    (hL : [.boot] ⊆ L) (hs : σ.only L s) : σ.only L (State.bootRecord s slotB reason svn) := by
  unfold State.bootRecord
  repeat' first
    | with_reducible first
        | assumption | apply State.modBoot_only
    | exact hL (by decide)

theorem State.bootFail_only {L : List Part} {σ : State} (s : State) (slotB : Bool) (reason svn : Nat) (hL : [.boot] ⊆ L)
    (hs : σ.only L s) : σ.only L (State.bootFail s slotB reason svn) := by
  unfold State.bootFail
  repeat' first
    | with_reducible first
        | assumption | apply State.bootRecord_only | apply State.modBoot_only | apply State.modBoot_only
    | with_reducible intro _ _ _ | with_reducible intro _ _ | exact hL (by decide) | exact List.Subset.trans (by decide) hL | (dsimp only)

theorem State.romStop_only {L : List Part} {σ : State} (s : State) (reason : Nat) (hL : [.boot] ⊆ L) (hs : σ.only L s) :
    σ.only L (State.romStop s reason) := by
  unfold State.romStop
  repeat' first
    | with_reducible first
        | assumption | apply State.modBoot_only | apply State.modBoot_only | refine ite_only ?_ ?_
    | with_reducible intro _ _ _ | with_reducible intro _ _ | exact hL (by decide) | exact List.Subset.trans (by decide) hL | split | (dsimp only)

theorem State.slotBad_only {L : List Part} {σ : State} (s : State) (x : Slot) (forced : Bool)
    (hL : [.boot, .log] ⊆ L) (hs : σ.only L s) : σ.only L (State.slotBad s x forced) := by
  unfold State.slotBad
  repeat' with_reducible first
    | assumption | apply State.putLedger_only | refine ite_only ?_ ?_

theorem State.trySlot_only {L : List Part} {σ : State} (s : State) (x : Slot) (forced : Bool) (r1 r2 : BootRead) (hL :
    [.pwr, .boot, .log, .out] ⊆ L) (hs : σ.only L s) : σ.only L ((State.trySlot s x forced r1 r2).1) := by
  unfold State.trySlot
  repeat' first
    | with_reducible first
        | assumption | apply State.loadSlot_only | apply State.bootFail_only | apply State.slotBad_only
        | refine ite_only ?_ ?_ | refine ite_only_fst ?_ ?_
    | with_reducible intro _ _ _ | with_reducible intro _ _ | exact hL (by decide) | exact List.Subset.trans (by decide) hL | split | (dsimp only)

theorem State.trialItem_only {L : List Part} {σ : State} (s : State) (hL : [.boot, .log] ⊆ L) (hs : σ.only L s) : σ.only
    L ((State.trialItem s).1) := by
  unfold State.trialItem
  repeat' first
    | with_reducible first
        | assumption | apply State.putLedger_only | apply State.bootFail_only | refine ite_only ?_ ?_
        | refine ite_only_fst ?_ ?_
    | with_reducible intro _ _ _ | with_reducible intro _ _ | exact hL (by decide) | exact List.Subset.trans (by decide) hL | split | (dsimp only)

theorem State.activeItem_only {L : List Part} {σ : State} (s : State) (r : RomInput) (hL : [.pwr, .boot, .log, .out] ⊆
    L) (hs : σ.only L s) : σ.only L ((State.activeItem s r).1) := by
  unfold State.activeItem
  repeat' first
    | with_reducible first
        | assumption | apply State.trySlot_only | apply State.putLedger_only | refine ite_only ?_ ?_
        | refine ite_only_fst ?_ ?_ | refine ite_only_snd ?_ ?_
    | with_reducible intro _ _ _ | with_reducible intro _ _ | exact hL (by decide) | exact List.Subset.trans (by decide) hL | split | (dsimp only)

theorem State.chooseSlot_only {L : List Part} {σ : State} (s : State) (r : RomInput) (hL : [.pwr, .boot, .log, .out] ⊆
    L) (hs : σ.only L s) : σ.only L ((State.chooseSlot s r).1) := by
  unfold State.chooseSlot
  repeat' first
    | with_reducible first
        | assumption | apply State.trySlot_only | apply State.trialItem_only | apply State.activeItem_only
        | refine ite_only ?_ ?_ | refine ite_only_fst ?_ ?_ | refine ite_only_snd ?_ ?_
    | with_reducible intro _ _ _ | with_reducible intro _ _ | exact hL (by decide) | exact List.Subset.trans (by decide) hL | split | (dsimp only)

theorem State.blowFloor_only {L : List Part} {σ : State} (s : State) (c : Chosen) (svn : Nat)
    (hL : [.fuse] ⊆ L) (hs : σ.only L s) : σ.only L (State.blowFloor s c svn) := by
  unfold State.blowFloor
  repeat' first
    | with_reducible first
        | assumption | apply State.modFuse_only
    | exact hL (by decide) | split

theorem State.romJump_only {L : List Part} {σ : State} (s : State) (slot : Slot) (path : Nat) (trial fallback : Bool)
    (svn : Nat) (digest : Bytes) (release keyIndex : Nat) (retain : Bool) (hL : [.boot] ⊆ L) (hs : σ.only L s) : σ.only
    L (State.romJump s slot path trial fallback svn digest release keyIndex retain) := by
  unfold State.romJump
  repeat' first
    | with_reducible first
        | assumption | apply State.modBoot_only | apply State.modBoot_only | refine ite_only ?_ ?_
    | with_reducible intro _ _ _ | with_reducible intro _ _ | exact hL (by decide) | exact List.Subset.trans (by decide) hL | split | (dsimp only)

theorem State.sameSlot_only {L : List Part} {σ : State} (s : State) (x : Slot) (r : RomInput) (hL : [.pwr, .boot, .log,
    .out] ⊆ L) (hs : σ.only L s) : σ.only L ((State.sameSlot s x r).1) := by
  unfold State.sameSlot
  repeat' first
    | with_reducible first
        | assumption | apply State.chooseSlot_only | apply State.activeItem_only | apply State.trySlot_only
        | refine ite_only ?_ ?_ | refine ite_only_fst ?_ ?_ | refine ite_only_snd ?_ ?_
    | with_reducible intro _ _ _ | with_reducible intro _ _ | exact hL (by decide) | exact List.Subset.trans (by decide) hL | split | (dsimp only)

theorem State.fullBoot_only {L : List Part} {σ : State} (s : State) (same : Option Slot) (r : RomInput) (hL : [.pwr,
    .fuse, .boot, .log, .out] ⊆ L) (hs : σ.only L s) : σ.only L (State.fullBoot s same r) := by
  unfold State.fullBoot
  repeat' first
    | with_reducible first
        | assumption | apply State.romStop_only | apply State.sameSlot_only | apply State.chooseSlot_only
        | apply State.bootFail_only | apply State.blowFloor_only | apply State.romJump_only | refine ite_only ?_ ?_
        | refine ite_only_fst ?_ ?_ | refine ite_only_snd ?_ ?_
    | exact hL (by decide) | exact List.Subset.trans (by decide) hL | split | (dsimp only)

theorem State.readBackup_only {L : List Part} {σ : State} (s : State) (hL : [.tack, .mon] ⊆ L) (hs : σ.only L s) :
    σ.only L (State.readBackup s) := by
  unfold State.readBackup
  repeat' first
    | with_reducible first
        | assumption | apply State.modTack_only | apply State.modMon_only | apply State.modTack_only
        | apply State.modMon_only
    | with_reducible intro _ _ _ | with_reducible intro _ _ | exact hL (by decide) | exact List.Subset.trans (by decide) hL | split | (dsimp only)

theorem State.readInfo_only {L : List Part} {σ : State} (s : State) (r : RomInput)
    (hL : [.boot] ⊆ L) (hs : σ.only L s) : σ.only L (State.readInfo s r) := by
  unfold State.readInfo
  repeat' first
    | with_reducible first
        | assumption | apply State.modBoot_only
    | exact hL (by decide)

theorem State.romAfterLc_only {L : List Part} {σ : State} (s : State) (r : RomInput) (hL : [.pwr, .fuse, .boot, .tack,
    .log, .mon, .out] ⊆ L) (hs : σ.only L s) : σ.only L (State.romAfterLc s r) := by
  unfold State.romAfterLc
  repeat' first
    | with_reducible first
        | assumption | apply State.bootFail_only | apply State.romStop_only | apply State.readBackup_only
        | apply State.readInfo_only | apply State.modTack_only | apply State.romJump_only | apply State.fullBoot_only
        | apply State.modTack_only | refine ite_only ?_ ?_
    | with_reducible intro _ _ _ | with_reducible intro _ _ | exact hL (by decide) | exact List.Subset.trans (by decide) hL | split | (dsimp only)

theorem State.romRun_only {L : List Part} {σ : State} (s : State) (r : RomInput) (hL : [.pwr, .fuse, .boot, .tack,
    .dict, .log, .lc, .mon, .out] ⊆ L) (hs : σ.only L s) : σ.only L (State.romRun s r) := by
  unfold State.romRun
  repeat' first
    | with_reducible first
        | assumption | apply State.bootFail_only | apply State.romStop_only | apply State.lcMarkRun_only
        | apply State.lcEveryStart_only | apply State.romAfterLc_only | refine ite_only ?_ ?_
    | with_reducible intro _ _ _ | with_reducible intro _ _ | exact hL (by decide) | exact List.Subset.trans (by decide) hL | split | (dsimp only)

theorem State.sampleStart_only {L : List Part} {σ : State} (s : State) (r : RomInput) (hL : [.pwr] ⊆ L) (hs : σ.only L
    s) : σ.only L (State.sampleStart s r) := by
  unfold State.sampleStart
  repeat' first
    | with_reducible first
        | assumption | apply State.modPwr_only | apply State.modPwr_only | refine ite_only ?_ ?_
    | with_reducible intro _ _ _ | with_reducible intro _ _ | exact hL (by decide) | exact List.Subset.trans (by decide) hL | split | (dsimp only)

theorem State.loseBackup_only {L : List Part} {σ : State} (s : State) (hL : [.tack, .log, .mon] ⊆ L) (hs : σ.only L s) :
    σ.only L (State.loseBackup s) := by
  unfold State.loseBackup
  repeat' first
    | with_reducible first
        | assumption | apply State.modTack_only | apply State.modMon_only | apply State.modLog_only
        | apply State.modTack_only | apply State.modMon_only | apply State.modLog_only
    | with_reducible intro _ _ _ | with_reducible intro _ _ | exact hL (by decide) | exact List.Subset.trans (by decide) hL | split | (dsimp only)

theorem State.wakeNow_only {L : List Part} {σ : State} (s : State) (w : WakeSource) (hL : [.core, .pwr, .sup, .boot,
    .hal, .ports, .shed, .tagTable, .shedLost, .pldm, .par, .tack, .yard, .jobs, .devJobs, .nextJob, .pads, .pmem, .pci,
    .rdw, .rdwSc, .dmb, .cas, .dict, .log, .lc, .mon, .atn] ⊆ L) (hs : σ.only L s) : σ.only L (State.wakeNow s w) := by
  unfold State.wakeNow
  repeat' first
    | with_reducible first
        | assumption | apply State.modCore_only | apply State.beginStart_only | apply State.modPwr_only
        | apply State.modCas_only | apply State.modCore_only | apply State.modPwr_only | apply State.modCas_only
    | with_reducible intro _ _ _ | with_reducible intro _ _ | exact hL (by decide) | exact List.Subset.trans (by decide) hL | (dsimp only)

theorem State.wakeEvent_only {L : List Part} {σ : State} (s : State) (w : WakeSource)
    (hL : [.core, .pwr, .sup, .boot, .hal, .ports, .shed, .tagTable, .shedLost, .pldm, .par, .tack, .yard, .jobs,
        .devJobs, .nextJob, .pads, .pmem, .pci, .rdw, .rdwSc, .dmb, .cas, .dict, .log, .lc, .mon, .atn] ⊆ L) (hs :
            σ.only L s) : σ.only L (State.wakeEvent s w) := by
  unfold State.wakeEvent
  repeat' first
    | with_reducible first
        | assumption | apply State.wakeNow_only | apply State.modPwr_only | refine ite_only ?_ ?_
    | exact hL (by decide)

theorem State.latchMonitor_only {L : List Part} {σ : State} (s : State) (n : Nat)
    (hL : [.atn] ⊆ L) (hs : σ.only L s) : σ.only L (State.latchMonitor s n) := by
  unfold State.latchMonitor
  repeat' with_reducible first
    | assumption | apply State.latch_only | refine ite_only ?_ ?_

theorem State.zeroize_only {L : List Part} {σ : State} (s : State) (hL : [.ports, .shed, .tagTable, .shedLost, .tack,
    .yard, .jobs, .devJobs, .pads, .log] ⊆ L) (hs : σ.only L s) : σ.only L (State.zeroize s) := by
  unfold State.zeroize
  repeat' first
    | with_reducible first
        | assumption | apply State.modTack_only | apply State.modPorts_only | apply State.modShed_only
        | apply State.modTagTable_only | apply State.modShedLost_only | apply State.modDevJobs_only
        | apply State.modLog_only | apply State.modYard_only | apply State.modJobs_only | apply State.modPads_only
        | apply State.modTack_only | apply State.modPorts_only | apply State.modShed_only
        | apply State.modTagTable_only | apply State.modShedLost_only | apply State.modDevJobs_only
        | apply State.modLog_only | apply State.modYard_only | apply State.modJobs_only | apply State.modPads_only
        | refine foldl_only _ _ _ ?_ ?_ | refine ite_only ?_ ?_
    | with_reducible intro _ _ _ | with_reducible intro _ _ | exact hL (by decide) | exact List.Subset.trans (by decide) hL | split | (dsimp only)

theorem State.monLatch_only {L : List Part} {σ : State} (s : State) (n : Nat)
    (hL : [.ports, .shed, .tagTable, .shedLost, .tack, .yard, .jobs, .devJobs, .pads, .log, .mon, .atn] ⊆ L) (hs
        : σ.only L s) : σ.only L (State.monLatch s n) := by
  unfold State.monLatch
  repeat' first
    | with_reducible first
        | assumption | apply State.modMon_only | apply State.latchMonitor_only | apply State.logEv_only
        | apply State.zeroize_only | refine ite_only ?_ ?_
    | exact hL (by decide) | exact List.Subset.trans (by decide) hL

theorem State.monDetect_only {L : List Part} {σ : State} (s : State) (n : Nat)
    (hL : [.ports, .shed, .tagTable, .shedLost, .tack, .yard, .jobs, .devJobs, .pads, .log, .mon, .atn] ⊆ L) (hs
        : σ.only L s) : σ.only L (State.monDetect s n) := by
  unfold State.monDetect
  repeat' first
    | with_reducible first
        | assumption | apply State.modMon_only | apply State.monLatch_only | refine ite_only ?_ ?_
    | exact hL (by decide)

theorem State.beginHold_only {L : List Part} {σ : State} (s : State)
    (hL : [.sup, .ports, .shed, .tagTable, .shedLost, .tack, .yard, .jobs, .devJobs, .pads, .log, .mon, .atn] ⊆ L) (hs : σ.only L s) : σ.only L (State.beginHold s) := by
  unfold State.beginHold
  repeat' first
    | with_reducible first
        | assumption | apply State.modSup_only | apply State.latch_only | apply State.monDetect_only
        | refine ite_only ?_ ?_
    | exact hL (by decide) | exact List.Subset.trans (by decide) hL

theorem State.holdEntry_only {L : List Part} {σ : State} (s : State) (first : Bool)
    (hL : [.sup, .log] ⊆ L) (hs : σ.only L s) : σ.only L (State.holdEntry s first) := by
  unfold State.holdEntry
  repeat' first
    | with_reducible first
        | assumption | apply State.modLog_only | apply State.logEv_only | apply State.modSup_only
        | refine ite_only ?_ ?_
    | exact hL (by decide) | exact List.Subset.trans (by decide) hL

theorem State.endHold_only {L : List Part} {σ : State} (s : State) (len : Nat)
    (hL : [.sup, .log, .atn] ⊆ L) (hs : σ.only L s) : σ.only L (State.endHold s len) := by
  unfold State.endHold
  repeat' first
    | with_reducible first
        | assumption | apply State.modSup_only | apply State.latch_only | apply State.holdEntry_only
        | refine ite_only ?_ ?_
    | exact hL (by decide) | exact List.Subset.trans (by decide) hL

theorem State.fixHold_only {L : List Part} {σ : State} (s : State) (calm : Bool)
    (hL : [.sup, .ports, .shed, .tagTable, .shedLost, .tack, .yard, .jobs, .devJobs, .pads, .log, .mon, .atn] ⊆ L) (hs : σ.only L s) : σ.only L (State.fixHold s calm) := by
  unfold State.fixHold
  repeat' first
    | with_reducible first
        | assumption | apply State.modSup_only | apply State.endHold_only | apply State.monDetect_only
        | apply State.beginHold_only | refine ite_only ?_ ?_
    | exact hL (by decide) | exact List.Subset.trans (by decide) hL

end Sys2Proof.Machine
end

