-- ==== Sys2Proof/Laws/OnlyStile.lean ====
section
/-! SUPPORT. What the operations of Manifest, Ports, Stile, Halter, Verify, Pldm leave alone. -/

set_option maxRecDepth 20000

namespace Sys2Proof.Machine

open Sys2Proof

theorem State.hold_only {L : List Part} {σ : State} (s : State) (k : Key) (hL : [.tack] ⊆ L) (hs : σ.only L s) :
    σ.only L ((State.hold s k).2) := by
  unfold State.hold
  split
  · exact hs
  · exact State.modTack_only _ (hL (by decide)) hs

theorem State.unhold_only {L : List Part} {σ : State} (s : State) (w : BitVec 5) (h : Option (Nat × Nat)) (hL : [.tack] ⊆ L)
    (hs : σ.only L s) : σ.only L (State.unhold s w h) := by
  unfold State.unhold
  split
  · split
    · exact State.modTack_only _ (hL (by decide)) hs
    · exact hs
  · exact hs

theorem State.holdSecrets_only {L : List Part} {σ : State} (s : State) (kv : Bytes) (hL : [.tack] ⊆ L)
    (hs : σ.only L s) : σ.only L (State.holdSecrets s kv) := by
  unfold State.holdSecrets
  exact foldl_only _ _ _ (fun s k h => State.hold_only s k hL h) hs

theorem State.dropHamper_only {L : List Part} {σ : State} (s : State) (p : Nat) (hL : [.tack] ⊆ L)
    (hs : σ.only L s) : σ.only L (State.dropHamper s p) :=
  State.modTack_only _ (hL (by decide)) (State.unhold_only s _ _ hL hs)

theorem State.deriveHamper_only {L : List Part} {σ : State} (s : State) (p : Nat) (hL : [.tack] ⊆ L)
    (hs : σ.only L s) : σ.only L (State.deriveHamper s p) := by
  have h := State.dropHamper_only s p hL hs
  unfold State.deriveHamper
  dsimp only
  split
  · exact h
  · have h2 := State.hold_only _ (serviceKey 1 0x03 0x0030 ‹Bytes›) hL h
    split
    · exact State.modTack_only _ (hL (by decide)) h2
    · exact h2

theorem State.deriveHampers_only {L : List Part} {σ : State} (s : State) (hL : [.tack] ⊆ L) (hs : σ.only L s) :
    σ.only L (State.deriveHampers s) := by
  unfold State.deriveHampers
  refine foldl_only _ _ _ (fun s q h => ?_) hs
  split
  · exact h
  · exact State.deriveHamper_only s _ hL h

theorem State.putPortLedger_only {L : List Part} {σ : State} (s : State) (n : Nat) (f : PortLedger → PortLedger) (hL :
    [.ports, .log] ⊆ L) (hs : σ.only L s) : σ.only L (State.putPortLedger s n f) := by
  unfold State.putPortLedger
  repeat' first
    | with_reducible first
        | assumption | apply State.modPort_only | apply State.ev_only | refine ite_only ?_ ?_
    | with_reducible intro _ _ _ | with_reducible intro _ _ | exact hL (by decide) | exact List.Subset.trans (by decide) hL | split | (dsimp only)

theorem State.setPhase_only {L : List Part} {σ : State} (s : State) (n : Nat) (ph : Phase)
    (hL : [.ports, .atn] ⊆ L) (hs : σ.only L s) : σ.only L (State.setPhase s n ph) := by
  unfold State.setPhase
  repeat' first
    | with_reducible first
        | assumption | apply State.modPort_only | apply State.latch_only | refine foldl_only _ _ _ ?_ ?_
        | refine ite_only ?_ ?_
    | exact hL (by decide) | exact List.Subset.trans (by decide) hL | intro _ _ _

theorem State.toHold_only {L : List Part} {σ : State} (s : State) (n : Nat)
    (hL : [.ports, .atn] ⊆ L) (hs : σ.only L s) : σ.only L (State.toHold s n) := by
  unfold State.toHold
  repeat' first
    | with_reducible first
        | assumption | apply State.modPort_only | apply State.setPhase_only | refine foldl_only _ _ _ ?_ ?_
    | exact hL (by decide) | exact List.Subset.trans (by decide) hL | intro _ _ _

theorem State.recoverAsk_only {L : List Part} {σ : State} (s : State) (n : Nat)
    (hL : [.ports] ⊆ L) (hs : σ.only L s) : σ.only L (State.recoverAsk s n) := by
  unfold State.recoverAsk
  repeat' first
    | with_reducible first
        | assumption | apply State.modPort_only | refine foldl_only _ _ _ ?_ ?_
    | exact hL (by decide) | exact List.Subset.trans (by decide) hL | intro _ _ _

theorem State.responseHold_only {L : List Part} {σ : State} (s : State) (n : Nat)
    (hL : [.hal, .ports, .log, .atn] ⊆ L) (hs : σ.only L s) : σ.only L (State.responseHold s n) := by
  unfold State.responseHold
  repeat' first
    | with_reducible first
        | assumption | apply State.modPort_only | apply State.beginPortHold_only | refine foldl_only _ _ _ ?_ ?_
        | refine ite_only ?_ ?_
    | exact hL (by decide) | exact List.Subset.trans (by decide) hL | intro _ _ _

theorem State.failResponse_only {L : List Part} {σ : State} (s : State) (n : Nat)
    (hL : [.hal, .ports, .log, .atn] ⊆ L) (hs : σ.only L s) : σ.only L (State.failResponse s n) := by
  unfold State.failResponse
  repeat' first
    | with_reducible first
        | assumption | apply State.responseHold_only | apply State.latch_only | apply State.recoverAsk_only
        | apply State.ev_only | refine foldl_only _ _ _ ?_ ?_ | refine ite_only ?_ ?_
    | exact hL (by decide) | exact List.Subset.trans (by decide) hL | intro _ _ _

theorem State.beginSweep_only {L : List Part} {σ : State} (s : State) (n : Nat)
    (hL : [.ports, .log, .atn] ⊆ L) (hs : σ.only L s) : σ.only L (State.beginSweep s n) := by
  unfold State.beginSweep
  repeat' first
    | with_reducible first
        | assumption | apply State.modPort_only | apply State.latch_only | apply State.ev_only
        | refine foldl_only _ _ _ ?_ ?_
    | exact hL (by decide) | exact List.Subset.trans (by decide) hL | intro _ _ _ | split

theorem State.overflowResponse_only {L : List Part} {σ : State} (s : State) (n : Nat)
    (hL : [.hal, .ports, .log, .atn] ⊆ L) (hs : σ.only L s) : σ.only L (State.overflowResponse s n) := by
  unfold State.overflowResponse
  repeat' first
    | with_reducible first
        | assumption | apply State.ev_only | apply State.responseHold_only | apply State.latch_only
        | apply State.beginSweep_only | apply State.recoverAsk_only | refine foldl_only _ _ _ ?_ ?_
        | refine ite_only ?_ ?_
    | exact hL (by decide) | exact List.Subset.trans (by decide) hL | intro _ _ _

theorem State.addDebt_only {L : List Part} {σ : State} (s : State) (n idx : Nat)
    (hL : [.hal, .ports, .log, .atn] ⊆ L) (hs : σ.only L s) : σ.only L (State.addDebt s n idx) := by
  unfold State.addDebt
  repeat' first
    | with_reducible first
        | assumption | apply State.modPort_only | apply State.overflowResponse_only | refine foldl_only _ _ _ ?_ ?_
        | refine ite_only ?_ ?_
    | exact hL (by decide) | exact List.Subset.trans (by decide) hL | intro _ _ _

theorem State.portTrialItem_only {L : List Part} {σ : State} (s : State) (n : Nat)
    (hL : [.ports, .log] ⊆ L) (hs : σ.only L s) : σ.only L ((State.portTrialItem s n).1) := by
  unfold State.portTrialItem
  repeat' first
    | with_reducible first
        | assumption | apply State.putPortLedger_only | refine foldl_only _ _ _ ?_ ?_
    | exact hL (by decide) | exact List.Subset.trans (by decide) hL | intro _ _ _ | split

theorem State.verdictFail_only {L : List Part} {σ : State} (s : State) (n reason : Nat)
    (hL : [.ports, .log, .atn] ⊆ L) (hs : σ.only L s) : σ.only L (State.verdictFail s n reason) := by
  unfold State.verdictFail
  repeat' first
    | with_reducible first
        | assumption | apply State.modPort_only | apply State.latch_only | apply State.ev_only
        | refine foldl_only _ _ _ ?_ ?_
    | exact hL (by decide) | exact List.Subset.trans (by decide) hL | intro _ _ _

theorem State.dropDigest_only {L : List Part} {σ : State} (s : State) (n : Nat) (hL : [.yard, .devJobs] ⊆ L) (hs :
    σ.only L s) : σ.only L (State.dropDigest s n) := by
  unfold State.dropDigest
  repeat' first
    | with_reducible first
        | assumption | apply State.dropWhat_only
    | with_reducible intro _ _ _ | with_reducible intro _ _ | exact hL (by decide) | exact List.Subset.trans (by decide) hL | (dsimp only)

theorem State.startDigest_only {L : List Part} {σ : State} (s : State) (n : Nat) (lens : List Nat) (hL : [.yard,
    .devJobs, .nextJob] ⊆ L) (hs : σ.only L s) : σ.only L (State.startDigest s n lens) := by
  unfold State.startDigest
  repeat' first
    | with_reducible first
        | assumption | apply State.dropDigest_only | apply State.addDev_only
    | exact hL (by decide) | exact List.Subset.trans (by decide) hL | (dsimp only)

theorem State.tryCand_only {L : List Part} {σ : State} (s : State) (n : Nat) (hL : [.yard, .devJobs, .nextJob] ⊆ L) (hs
    : σ.only L s) : σ.only L (State.tryCand s n) := by
  unfold State.tryCand
  repeat' first
    | with_reducible first
        | assumption | apply State.dropDigest_only | apply State.startDigest_only | refine ite_only ?_ ?_
    | with_reducible intro _ _ _ | with_reducible intro _ _ | exact hL (by decide) | exact List.Subset.trans (by decide) hL | split | (dsimp only)

theorem State.verifyFail_only {L : List Part} {σ : State} (s : State) (n reason : Nat) (hL : [.hal, .ports, .yard,
    .devJobs, .log, .atn] ⊆ L) (hs : σ.only L s) : σ.only L (State.verifyFail s n reason) := by
  unfold State.verifyFail
  repeat' first
    | with_reducible first
        | assumption | apply State.verdictFail_only | apply State.dropDigest_only | apply State.toHold_only
        | apply State.failResponse_only
    | exact hL (by decide) | exact List.Subset.trans (by decide) hL | (dsimp only)

theorem State.placePort_only {L : List Part} {σ : State} (s : State) (n : Nat)
    (hL : [.ports] ⊆ L) (hs : σ.only L s) : σ.only L (State.placePort s n) := by
  unfold State.placePort
  repeat' first
    | with_reducible first
        | assumption | apply State.modPort_only | refine foldl_only _ _ _ ?_ ?_
    | exact hL (by decide) | exact List.Subset.trans (by decide) hL | intro _ _ _

theorem State.enterVerify_only {L : List Part} {σ : State} (s : State) (n : Nat) (hL : [.hal, .ports, .yard, .devJobs,
    .nextJob, .log, .atn] ⊆ L) (hs : σ.only L s) : σ.only L (State.enterVerify s n) := by
  unfold State.enterVerify
  repeat' first
    | with_reducible first
        | assumption | apply State.setPhase_only | apply State.modPort_only | apply State.startDigest_only
        | apply State.placePort_only | apply State.portTrialItem_only | apply State.tryCand_only
        | apply State.verifyFail_only | refine ite_only ?_ ?_ | refine ite_only_fst ?_ ?_ | refine ite_only_snd ?_ ?_
    | with_reducible intro _ _ _ | with_reducible intro _ _ | exact hL (by decide) | exact List.Subset.trans (by decide) hL | split | (dsimp only)

theorem State.freshTagKey_only {L : List Part} {σ : State} (s : State) (n : Nat)
    (hL : [.ports, .tack] ⊆ L) (hs : σ.only L s) : σ.only L (State.freshTagKey s n) := by
  unfold State.freshTagKey
  repeat' first
    | with_reducible first
        | assumption | apply State.hold_only | apply State.unhold_only | apply State.draw_only | apply State.modPort_only | refine foldl_only _ _ _ ?_ ?_
    | exact hL (by decide) | exact List.Subset.trans (by decide) hL | intro _ _ _

theorem State.fillPort_only {L : List Part} {σ : State} (s : State) (n : Nat) (x : Slot) (data : List Bytes)
    (hL : [.shed, .tagTable] ⊆ L) (hs : σ.only L s) : σ.only L (State.fillPort s n x data) := by
  unfold State.fillPort
  repeat' first
    | with_reducible first
        | assumption | apply State.modShed_only | apply State.modTagTable_only | refine foldl_only _ _ _ ?_ ?_
        | refine ite_only ?_ ?_
    | exact hL (by decide) | exact List.Subset.trans (by decide) hL | intro _ _ _

theorem State.advertise_only {L : List Part} {σ : State} (s : State) (n : Nat) (hL : [.ports] ⊆ L) (hs : σ.only L s) :
    σ.only L (State.advertise s n) := by
  unfold State.advertise
  repeat' first
    | with_reducible first
        | assumption | apply State.modPort_only | refine ite_only ?_ ?_ | refine ite_only_fst ?_ ?_
        | refine ite_only_snd ?_ ?_
    | with_reducible intro _ _ _ | with_reducible intro _ _ | exact hL (by decide) | exact List.Subset.trans (by decide) hL | split | (dsimp only)

theorem State.sourcePass_only {L : List Part} {σ : State} (s : State) (n : Nat) (x : Slot) (hL : [.ports, .yard,
    .devJobs, .log, .atn] ⊆ L) (hs : σ.only L s) : σ.only L (State.sourcePass s n x) := by
  unfold State.sourcePass
  repeat' first
    | with_reducible first
        | assumption | apply State.putPortLedger_only | apply State.modPort_only | apply State.advertise_only
        | apply State.dropDigest_only | apply State.latch_only | apply State.setPhase_only | apply State.ev_only
        | refine ite_only ?_ ?_
    | with_reducible intro _ _ _ | with_reducible intro _ _ | exact hL (by decide) | exact List.Subset.trans (by decide) hL | split | (dsimp only)

theorem State.sourceFail_only {L : List Part} {σ : State} (s : State) (n : Nat) (x : Slot) (reason : Nat) (hL : [.hal,
    .ports, .yard, .devJobs, .nextJob, .log, .atn] ⊆ L) (hs : σ.only L s) : σ.only L (State.sourceFail s n x reason) :=
    by
  unfold State.sourceFail
  repeat' first
    | with_reducible first
        | assumption | apply State.putPortLedger_only | apply State.verifyFail_only | apply State.modPort_only
        | apply State.tryCand_only | refine ite_only ?_ ?_
    | with_reducible intro _ _ _ | with_reducible intro _ _ | exact hL (by decide) | exact List.Subset.trans (by decide) hL | split | (dsimp only)

theorem State.probeSends_only {L : List Part} {σ : State} (s : State) (n : Nat) (pr : Probe) (d : Option DownRead) (hL :
    [.out] ⊆ L) (hs : σ.only L s) : σ.only L (State.probeSends s n pr d) := by
  unfold State.probeSends
  repeat' first
    | with_reducible first
        | assumption | apply State.emit_only | refine ite_only ?_ ?_
    | exact hL (by decide) | exact List.Subset.trans (by decide) hL | split | (dsimp only)

theorem State.probePort_only {L : List Part} {σ : State} (s : State) (n : Nat) (pr : Probe) (hL : [.hal, .ports, .yard,
    .devJobs, .nextJob, .log, .atn, .out] ⊆ L) (hs : σ.only L s) : σ.only L (State.probePort s n pr) := by
  unfold State.probePort
  repeat' first
    | with_reducible first
        | assumption | apply State.modPort_only | apply State.verdictFail_only | apply State.probeSends_only
        | apply State.enterVerify_only | apply State.setPhase_only | apply State.verifyFail_only
        | refine ite_only ?_ ?_
    | with_reducible intro _ _ _ | with_reducible intro _ _ | exact hL (by decide) | exact List.Subset.trans (by decide) hL | split | (dsimp only)

theorem State.probePorts_only {L : List Part} {σ : State} (s : State) (l : List Probe) (hL : [.hal, .ports, .yard,
    .devJobs, .nextJob, .log, .atn, .out] ⊆ L) (hs : σ.only L s) : σ.only L (State.probePorts s l) := by
  unfold State.probePorts
  repeat' first
    | with_reducible first
        | assumption | apply State.probePort_only | refine foldl_only _ _ _ ?_ ?_
    | with_reducible intro _ _ _ | with_reducible intro _ _ | exact hL (by decide) | exact List.Subset.trans (by decide) hL | (dsimp only)

theorem State.endTransfer_only {L : List Part} {σ : State} (s : State) (hL : [.boot, .ports, .pldm, .yard, .devJobs,
    .log, .atn] ⊆ L) (hs : σ.only L s) : σ.only L (State.endTransfer s) := by
  unfold State.endTransfer
  repeat' first
    | with_reducible first
        | assumption | apply State.putLedger_only | apply State.putPortLedger_only | apply State.setPhase_only
        | apply State.latch_only | apply State.dropWhat_only | apply State.modPldm_only | apply State.ev_only
        | apply State.modPldm_only | refine ite_only ?_ ?_
    | with_reducible intro _ _ _ | with_reducible intro _ _ | exact hL (by decide) | exact List.Subset.trans (by decide) hL | split | (dsimp only)

theorem State.startRecovery_only {L : List Part} {σ : State} (s : State) (n : Nat) (hL : [.core, .boot, .hal, .ports,
    .pldm, .yard, .devJobs, .nextJob, .log, .atn] ⊆ L) (hs : σ.only L s) : σ.only L (State.startRecovery s n) := by
  unfold State.startRecovery
  repeat' first
    | with_reducible first
        | assumption | apply State.modPort_only | apply State.ev_only | apply State.setOp_only
        | apply State.beginPortHold_only | apply State.latch_only | apply State.endTransfer_only
        | apply State.enterVerify_only | refine ite_only ?_ ?_
    | with_reducible intro _ _ _ | with_reducible intro _ _ | exact hL (by decide) | exact List.Subset.trans (by decide) hL | split | (dsimp only)

theorem State.takeRecoveries_only {L : List Part} {σ : State} (s : State) (alarm : Bool) (hL : [.core, .boot, .hal,
    .ports, .pldm, .yard, .devJobs, .nextJob, .log, .atn] ⊆ L) (hs : σ.only L s) : σ.only L (State.takeRecoveries s
    alarm) := by
  unfold State.takeRecoveries
  repeat' first
    | with_reducible first
        | assumption | apply State.modPort_only | apply State.ev_only | apply State.startRecovery_only
        | refine foldl_only _ _ _ ?_ ?_ | refine ite_only ?_ ?_
    | with_reducible intro _ _ _ | with_reducible intro _ _ | exact hL (by decide) | exact List.Subset.trans (by decide) hL | split | (dsimp only)

theorem State.interrupt_only {L : List Part} {σ : State} (s : State) (n : Nat) (hL : [.ports] ⊆ L) (hs : σ.only L s) :
    σ.only L (State.interrupt s n) := by
  unfold State.interrupt
  repeat' first
    | with_reducible first
        | assumption | apply State.modPort_only | refine ite_only ?_ ?_
    | with_reducible intro _ _ _ | with_reducible intro _ _ | exact hL (by decide) | exact List.Subset.trans (by decide) hL | split | (dsimp only)

theorem State.disarm_only {L : List Part} {σ : State} (s : State) (n : Nat)
    (hL : [.ports] ⊆ L) (hs : σ.only L s) : σ.only L (State.disarm s n) := by
  unfold State.disarm
  repeat' with_reducible first
    | assumption | apply State.modPort_only

theorem State.unknownCmd_only {L : List Part} {σ : State} (s : State) (n : Nat)
    (hL : [.ports, .atn, .out] ⊆ L) (hs : σ.only L s) : σ.only L (State.unknownCmd s n) := by
  unfold State.unknownCmd
  repeat' first
    | with_reducible first
        | assumption | apply State.modPort_only | apply State.latch_only | apply State.emit_only
    | exact List.Subset.trans (by decide) hL

theorem State.lateBytes_only {L : List Part} {σ : State} (s : State) (n k : Nat)
    (hL : [.ports, .atn] ⊆ L) (hs : σ.only L s) : σ.only L (State.lateBytes s n k) := by
  unfold State.lateBytes
  repeat' first
    | with_reducible first
        | assumption | apply State.modPort_only | apply State.latch_only | refine ite_only ?_ ?_
    | exact List.Subset.trans (by decide) hL

theorem State.allLate_only {L : List Part} {σ : State} (s : State) (c : SpiCmd)
    (hL : [.ports, .atn, .out] ⊆ L) (hs : σ.only L s) : σ.only L (State.allLate s c) := by
  unfold State.allLate
  repeat' first
    | with_reducible first
        | assumption | apply State.lateBytes_only | apply State.emit_only
    | exact List.Subset.trans (by decide) hL

theorem State.cancelDown_only {L : List Part} {σ : State} (s : State) (n op : Nat) (at_ : CutAt) (hL : [.out] ⊆ L) (hs :
    σ.only L s) : σ.only L (State.cancelDown s n op at_) := by
  unfold State.cancelDown
  repeat' first
    | with_reducible first
        | assumption | apply State.emit_only
    | exact hL (by decide) | exact List.Subset.trans (by decide) hL | (dsimp only)

theorem State.refusedEntry_only {L : List Part} {σ : State} (s : State) (n op addr : Nat)
    (hL : [.ports, .log] ⊆ L) (hs : σ.only L s) : σ.only L (State.refusedEntry s n op addr) := by
  unfold State.refusedEntry
  repeat' first
    | with_reducible first
        | assumption | apply State.modPort_only | apply State.ev_only | refine ite_only ?_ ?_
    | exact List.Subset.trans (by decide) hL

theorem State.refuse_only {L : List Part} {σ : State} (s : State) (c : SpiCmd) (op : Nat) (at_ : CutAt) (busy : Nat) (hL
    : [.ports, .log, .atn, .out] ⊆ L) (hs : σ.only L s) : σ.only L (State.refuse s c op at_ busy) := by
  unfold State.refuse
  repeat' first
    | with_reducible first
        | assumption | apply State.modPort_only | apply State.cancelDown_only | apply State.latch_only
        | apply State.refusedEntry_only | refine ite_only ?_ ?_
    | with_reducible intro _ _ _ | with_reducible intro _ _ | exact hL (by decide) | exact List.Subset.trans (by decide) hL | split | (dsimp only)

theorem State.portResetWire_only {L : List Part} {σ : State} (s : State) (n : Nat)
    (hL : [.ports] ⊆ L) (hs : σ.only L s) : σ.only L (State.portResetWire s n) := by
  unfold State.portResetWire
  repeat' with_reducible first
    | assumption | apply State.modPort_only

theorem State.passThrough_only {L : List Part} {σ : State} (s : State) (c : SpiCmd) (op : Nat) (ret : Bool)
    (hL : [.out] ⊆ L) (hs : σ.only L s) : σ.only L (State.passThrough s c op ret) := by
  unfold State.passThrough
  repeat' with_reducible first
    | assumption | apply State.emit_only | refine ite_only ?_ ?_

theorem State.clearRead_only {L : List Part} {σ : State} (s : State) (c : SpiCmd) (op : Nat) (read03 : Bool)
    (hL : [.ports, .atn, .out] ⊆ L) (hs : σ.only L s) : σ.only L (State.clearRead s c op read03) := by
  unfold State.clearRead
  repeat' first
    | with_reducible first
        | assumption | apply State.allLate_only | apply State.passThrough_only | refine ite_only ?_ ?_
    | exact List.Subset.trans (by decide) hL

theorem State.readBlocks_only {L : List Part} {σ : State} (s : State) (c : SpiCmd) (starts : List Nat)
    (hL : [.hal, .ports, .log, .atn] ⊆ L) (hs : σ.only L s) : σ.only L (State.readBlocks s c starts) := by
  unfold State.readBlocks
  repeat' first
    | with_reducible first
        | assumption | apply State.modPort_only | apply State.addDebt_only | refine foldl_only _ _ _ ?_ ?_
    | exact List.Subset.trans (by decide) hL | intro _ _ _ | split

theorem State.startReads_only {L : List Part} {σ : State} (s : State) (c : SpiCmd) (starts : List Nat) (hL : [.out] ⊆ L)
    (hs : σ.only L s) : σ.only L (State.startReads s c starts) := by
  unfold State.startReads
  repeat' first
    | with_reducible first
        | assumption | apply State.emit_only | refine foldl_only _ _ _ ?_ ?_ | refine ite_only ?_ ?_
        | refine ite_only_fst ?_ ?_ | refine ite_only_snd ?_ ?_
    | with_reducible intro _ _ _ | with_reducible intro _ _ | exact hL (by decide) | exact List.Subset.trans (by decide) hL | split | (dsimp only)

theorem State.proxyRead_only {L : List Part} {σ : State} (s : State) (c : SpiCmd) (dummy : Nat) (hL : [.hal, .ports,
    .log, .atn, .out] ⊆ L) (hs : σ.only L s) : σ.only L (State.proxyRead s c dummy) := by
  unfold State.proxyRead
  repeat' first
    | with_reducible first
        | assumption | apply State.emit_only | apply State.startReads_only | apply State.lateBytes_only
        | apply State.readBlocks_only | refine ite_only ?_ ?_ | refine ite_only_fst ?_ ?_ | refine ite_only_snd ?_ ?_
    | with_reducible intro _ _ _ | with_reducible intro _ _ | exact hL (by decide) | exact List.Subset.trans (by decide) hL | split | (dsimp only)

theorem State.passedWrite_only {L : List Part} {σ : State} (s : State) (n cs : Nat) (hL : [.ports] ⊆ L) (hs : σ.only L
    s) : σ.only L (State.passedWrite s n cs) := by
  unfold State.passedWrite
  repeat' first
    | with_reducible first
        | assumption | apply State.modPort_only
    | with_reducible intro _ _ _ | with_reducible intro _ _ | exact hL (by decide) | exact List.Subset.trans (by decide) hL | (dsimp only)

theorem State.clearWrite_only {L : List Part} {σ : State} (s : State) (c : SpiCmd) (r : OpRow) (first busy : Nat) (hL :
    [.ports, .log, .atn, .out] ⊆ L) (hs : σ.only L s) : σ.only L (State.clearWrite s c r first busy) := by
  unfold State.clearWrite
  repeat' first
    | with_reducible first
        | assumption | apply State.refuse_only | apply State.passThrough_only | apply State.passedWrite_only
        | refine ite_only ?_ ?_
    | exact hL (by decide) | exact List.Subset.trans (by decide) hL | split | (dsimp only)

theorem State.proxyWrite_only {L : List Part} {σ : State} (s : State) (c : SpiCmd) (r : OpRow) (first len busy : Nat)
    (hL : [.ports, .log, .atn, .out] ⊆ L) (hs : σ.only L s) : σ.only L (State.proxyWrite s c r first len busy) := by
  unfold State.proxyWrite
  repeat' first
    | with_reducible first
        | assumption | apply State.emit_only | apply State.passedWrite_only | apply State.refuse_only
        | refine ite_only ?_ ?_ | refine ite_only_fst ?_ ?_ | refine ite_only_snd ?_ ?_
    | exact hL (by decide) | exact List.Subset.trans (by decide) hL | split | (dsimp only)

theorem State.listRefuse_only {L : List Part} {σ : State} (s : State) (c : SpiCmd) (op : Nat) (at_ : CutAt) (busy : Nat)
    (hL : [.ports, .log, .atn, .out] ⊆ L) (hs : σ.only L s) : σ.only L (State.listRefuse s c op at_ busy) := by
  unfold State.listRefuse
  repeat' first
    | with_reducible first
        | assumption | apply State.refuse_only | refine ite_only ?_ ?_
    | exact hL (by decide) | exact List.Subset.trans (by decide) hL | split | (dsimp only)

theorem State.leaveQpi_only {L : List Part} {σ : State} (s : State) (n : Nat) (hL : [.ports] ⊆ L) (hs : σ.only L s) :
    σ.only L (State.leaveQpi s n) := by
  unfold State.leaveQpi
  repeat' first
    | with_reducible first
        | assumption | apply State.modPort_only
    | with_reducible intro _ _ _ | with_reducible intro _ _ | exact hL (by decide) | exact List.Subset.trans (by decide) hL | (dsimp only)

theorem State.stepActs_only {L : List Part} {σ : State} (s : State) (st : HStep)
    (hL : [.hal, .log, .atn] ⊆ L) (hs : σ.only L s) : σ.only L (State.stepActs s st) := by
  unfold State.stepActs
  repeat' first
    | with_reducible first
        | assumption | apply State.modHal_only | apply State.ev_only | apply State.latch_only | refine ite_only ?_ ?_
    | exact hL (by decide) | exact List.Subset.trans (by decide) hL

theorem State.stopSchedule_only {L : List Part} {σ : State} (s : State)
    (hL : [.hal, .log, .atn] ⊆ L) (hs : σ.only L s) : σ.only L (State.stopSchedule s) := by
  unfold State.stopSchedule
  repeat' first
    | with_reducible first
        | assumption | apply State.modHal_only | apply State.latch_only | apply State.ev_only
    | exact hL (by decide) | exact List.Subset.trans (by decide) hL

theorem State.beginSchedule_only {L : List Part} {σ : State} (s : State)
    (hL : [.hal] ⊆ L) (hs : σ.only L s) : σ.only L (State.beginSchedule s) := by
  unfold State.beginSchedule
  repeat' first
    | with_reducible first
        | assumption | apply State.modHal_only
    | exact hL (by decide)

theorem State.resumeSchedule_only {L : List Part} {σ : State} (s : State)
    (hL : [.hal] ⊆ L) (hs : σ.only L s) : σ.only L (State.resumeSchedule s) := by
  unfold State.resumeSchedule
  repeat' first
    | with_reducible first
        | assumption | apply State.modHal_only | refine ite_only ?_ ?_
    | exact hL (by decide)

theorem State.halterSees_only {L : List Part} {σ : State} (s : State) (hL : [.hal] ⊆ L) (hs : σ.only L s) : σ.only L
    (State.halterSees s) := by
  unfold State.halterSees
  repeat' first
    | with_reducible first
        | assumption | apply State.modHal_only | apply State.modHal_only
    | with_reducible intro _ _ _ | with_reducible intro _ _ | exact hL (by decide) | exact List.Subset.trans (by decide) hL | split | (dsimp only)

theorem State.latchInput_only {L : List Part} {σ : State} (s : State) (k : Nat)
    (hL : [.atn] ⊆ L) (hs : σ.only L s) : σ.only L (State.latchInput s k) := by
  unfold State.latchInput
  repeat' with_reducible first
    | assumption | apply State.latch_only | refine ite_only ?_ ?_

theorem State.sampleInputs_only {L : List Part} {σ : State} (s : State) (hi : BitVec 32) (hL : [.hal] ⊆ L) (hs : σ.only
    L s) : σ.only L (State.sampleInputs s hi) := by
  unfold State.sampleInputs
  repeat' first
    | with_reducible first
        | assumption | apply State.modHal_only | apply State.modHal_only
    | with_reducible intro _ _ _ | with_reducible intro _ _ | exact hL (by decide) | exact List.Subset.trans (by decide) hL | (dsimp only)

theorem State.measureFrame_only {L : List Part} {σ : State} (s : State) (n : Nat) (hL : [.ports, .out] ⊆ L) (hs : σ.only
    L s) : σ.only L (State.measureFrame s n) := by
  unfold State.measureFrame
  repeat' first
    | with_reducible first
        | assumption | apply State.emit_only | apply State.modPort_only | refine ite_only ?_ ?_
    | with_reducible intro _ _ _ | with_reducible intro _ _ | exact hL (by decide) | exact List.Subset.trans (by decide) hL | split | (dsimp only)

theorem State.regionReads_only {L : List Part} {σ : State} (s : State) (n : Nat) (x : Slot) (rs : List Region) (hL :
    [.out] ⊆ L) (hs : σ.only L s) : σ.only L (State.regionReads s n x rs) := by
  unfold State.regionReads
  repeat' first
    | with_reducible first
        | assumption | apply State.emit_only | refine foldl_only _ _ _ ?_ ?_
    | with_reducible intro _ _ _ | with_reducible intro _ _ | exact hL (by decide) | exact List.Subset.trans (by decide) hL | split | (dsimp only)

theorem State.tagFailed_only {L : List Part} {σ : State} (s : State) (n host flash : Nat)
    (hL : [.hal, .ports, .log, .atn] ⊆ L) (hs : σ.only L s) : σ.only L (State.tagFailed s n host flash) := by
  unfold State.tagFailed
  repeat' first
    | with_reducible first
        | assumption | apply State.modPort_only | apply State.ev_only | apply State.failResponse_only
        | refine ite_only ?_ ?_
    | exact List.Subset.trans (by decide) hL

theorem State.readBlock_only {L : List Part} {σ s t : State} {n i : Nat} (h : s.readBlock n i = some t) (hL : [.out] ⊆ L)
    (hs : σ.only L s) : σ.only L t := by
  unfold State.readBlock at h
  split at h
  · split at h
    · cases h
    · cases h
      exact State.emit_only _ _ hL hs
  · cases h

theorem State.sweepFrame_only {L : List Part} {σ : State} (s : State) (n : Nat) (hL : [.ports, .out] ⊆ L) (hs : σ.only L
    s) : σ.only L (State.sweepFrame s n) := by
  unfold State.sweepFrame
  repeat' first
    | with_reducible first
        | assumption | apply State.modPort_only | refine ite_only ?_ ?_
    | with_reducible intro _ _ _ | with_reducible intro _ _ | exact hL (by decide) | exact List.Subset.trans (by decide) hL | split
    | (refine State.readBlock_only (by assumption) ?_ ?_) | (dsimp only)

theorem State.portsFrame_only {L : List Part} {σ : State} (s : State) (hL : [.ports, .out] ⊆ L) (hs : σ.only L s) :
    σ.only L (State.portsFrame s) := by
  unfold State.portsFrame
  repeat' first
    | with_reducible first
        | assumption | apply State.measureFrame_only | apply State.sweepFrame_only | refine foldl_only _ _ _ ?_ ?_
    | with_reducible intro _ _ _ | with_reducible intro _ _ | exact hL (by decide) | exact List.Subset.trans (by decide) hL | (dsimp only)

theorem State.pldmSend_only {L : List Part} {σ : State} (s : State) (t cmd : Nat) (p : Bytes) (hL : [.out] ⊆ L) (hs :
    σ.only L s) : σ.only L (State.pldmSend s t cmd p) := by
  unfold State.pldmSend
  repeat' first
    | with_reducible first
        | assumption | apply State.emit_only | apply State.inBand_only
    | exact hL (by decide) | exact List.Subset.trans (by decide) hL | (dsimp only)

theorem State.pldmReply_only {L : List Part} {σ : State} (s : State) (t cmd code : Nat) (p : Bytes) (hL : [.out] ⊆ L)
    (hs : σ.only L s) : σ.only L (State.pldmReply s t cmd code p) := by
  unfold State.pldmReply
  repeat' first
    | with_reducible first
        | assumption | apply State.pldmSend_only
    | exact hL (by decide) | exact List.Subset.trans (by decide) hL | (dsimp only)

theorem State.requestData_only {L : List Part} {σ : State} (s : State) (hL : [.out] ⊆ L) (hs : σ.only L s) : σ.only L
    (State.requestData s) := by
  unfold State.requestData
  repeat' first
    | with_reducible first
        | assumption | apply State.pldmSend_only | refine ite_only ?_ ?_
    | exact hL (by decide) | exact List.Subset.trans (by decide) hL | split | (dsimp only)

theorem State.updateFails_only {L : List Part} {σ : State} (s : State) (cmd : Nat) (bad : Bool) (reason : Nat) (hL :
    [.boot, .ports, .pldm, .log, .atn, .out] ⊆ L) (hs : σ.only L s) : σ.only L (State.updateFails s cmd bad reason) :=
    by
  unfold State.updateFails
  repeat' first
    | with_reducible first
        | assumption | apply State.putLedger_only | apply State.bootRecord_only | apply State.putPortLedger_only
        | apply State.setPhase_only | apply State.latch_only | apply State.modPldm_only | apply State.ev_only
        | apply State.pldmSend_only | apply State.modPldm_only | refine ite_only ?_ ?_
    | with_reducible intro _ _ _ | with_reducible intro _ _ | exact hL (by decide) | exact List.Subset.trans (by decide) hL | split | (dsimp only)

theorem State.storeNow_only {L : List Part} {σ : State} (s : State) (key : Nat) (v : Bytes) (hL : [.dict] ⊆ L) (hs :
    σ.only L s) : σ.only L (State.storeNow s key v) := by
  unfold State.storeNow
  repeat' first
    | with_reducible first
        | assumption | apply State.setVal_only | apply State.modDict_only | apply State.modDict_only
        | refine ite_only ?_ ?_
    | with_reducible intro _ _ _ | with_reducible intro _ _ | exact hL (by decide) | exact List.Subset.trans (by decide) hL | split | (dsimp only)

theorem State.updateStaged_only {L : List Part} {σ : State} (s : State) (x : Slot) (hL : [.boot, .ports, .pldm, .dict,
    .log, .atn, .out] ⊆ L) (hs : σ.only L s) : σ.only L (State.updateStaged s x) := by
  unfold State.updateStaged
  repeat' first
    | with_reducible first
        | assumption | apply State.putLedger_only | apply State.modBoot_only | apply State.latch_only
        | apply State.storeNow_only | apply State.modPort_only | apply State.putPortLedger_only
        | apply State.setPhase_only | apply State.modPldm_only | apply State.ev_only | apply State.pldmSend_only
        | apply State.modBoot_only | apply State.modPldm_only | refine ite_only ?_ ?_
    | with_reducible intro _ _ _ | with_reducible intro _ _ | exact hL (by decide) | exact List.Subset.trans (by decide) hL | split | (dsimp only)

theorem State.updateHead_only {L : List Part} {σ : State} (s : State) (x : Slot) (hL : [.boot, .ports, .pldm, .devJobs,
    .nextJob, .log, .atn, .out] ⊆ L) (hs : σ.only L s) : σ.only L (State.updateHead s x) := by
  unfold State.updateHead
  repeat' first
    | with_reducible first
        | assumption | apply State.updateFails_only | apply State.putLedger_only | apply State.modPldm_only
        | apply State.addDev_only | apply State.modPldm_only | refine ite_only ?_ ?_
    | with_reducible intro _ _ _ | with_reducible intro _ _ | exact hL (by decide) | exact List.Subset.trans (by decide) hL | split | (dsimp only)

theorem State.writePayload_only {L : List Part} {σ : State} (s : State) (x : Slot) (o e : Nat) (hL : [.out] ⊆ L) (hs :
    σ.only L s) : σ.only L (State.writePayload s x o e) := by
  unfold State.writePayload
  repeat' first
    | with_reducible first
        | assumption | apply State.emit_only | refine foldl_only _ _ _ ?_ ?_ | refine ite_only ?_ ?_
        | refine ite_only_fst ?_ ?_ | refine ite_only_snd ?_ ?_
    | with_reducible intro _ _ _ | with_reducible intro _ _ | exact hL (by decide) | exact List.Subset.trans (by decide) hL | split | (dsimp only)

theorem State.writePortion_only {L : List Part} {σ : State} (s : State) (x : Slot) (o : Nat) (hL : [.out] ⊆ L) (hs :
    σ.only L s) : σ.only L (State.writePortion s x o) := by
  unfold State.writePortion
  repeat' first
    | with_reducible first
        | assumption | apply State.emit_only | apply State.writePayload_only | refine ite_only ?_ ?_
    | exact hL (by decide) | exact List.Subset.trans (by decide) hL | split | (dsimp only)

theorem State.portionDone_only {L : List Part} {σ : State} (s : State) (hL : [.boot, .ports, .pldm, .log, .atn, .out] ⊆
    L) (hs : σ.only L s) : σ.only L (State.portionDone s) := by
  unfold State.portionDone
  repeat' first
    | with_reducible first
        | assumption | apply State.requestData_only | apply State.updateFails_only | apply State.pldmSend_only
        | apply State.modPldm_only | apply State.modPldm_only | refine ite_only ?_ ?_
    | with_reducible intro _ _ _ | with_reducible intro _ _ | exact hL (by decide) | exact List.Subset.trans (by decide) hL | split | (dsimp only)

theorem State.portionIn_only {L : List Part} {σ : State} (s : State) (x : Slot) (r : Portion) (hL : [.boot, .ports,
    .pldm, .devJobs, .nextJob, .log, .atn, .out] ⊆ L) (hs : σ.only L s) : σ.only L (State.portionIn s x r) := by
  unfold State.portionIn
  repeat' first
    | with_reducible first
        | assumption | apply State.modPldm_only | apply State.updateHead_only | apply State.updateFails_only
        | apply State.writePortion_only | apply State.portionDone_only | apply State.modPldm_only
        | refine ite_only ?_ ?_
    | with_reducible intro _ _ _ | with_reducible intro _ _ | exact hL (by decide) | exact List.Subset.trans (by decide) hL | split | (dsimp only)

theorem State.updateChecked_only {L : List Part} {σ : State} (s : State) (hL : [.boot, .ports, .pldm, .log, .atn, .out]
    ⊆ L) (hs : σ.only L s) : σ.only L (State.updateChecked s) := by
  unfold State.updateChecked
  repeat' first
    | with_reducible first
        | assumption | apply State.modPldm_only | apply State.updateFails_only | apply State.putPortLedger_only
        | apply State.setPhase_only | apply State.latch_only | apply State.portionDone_only | apply State.modPldm_only
        | refine ite_only ?_ ?_
    | with_reducible intro _ _ _ | with_reducible intro _ _ | exact hL (by decide) | exact List.Subset.trans (by decide) hL | split | (dsimp only)

theorem State.pldmVerify_only {L : List Part} {σ : State} (s : State) (x : Slot) (hL : [.boot, .ports, .pldm, .log,
    .atn, .out] ⊆ L) (hs : σ.only L s) : σ.only L (State.pldmVerify s x) := by
  unfold State.pldmVerify
  repeat' first
    | with_reducible first
        | assumption | apply State.bootFlashRead_only | apply State.regionReads_only | apply State.updateFails_only
        | apply State.pldmSend_only | apply State.modPldm_only | apply State.modPldm_only | refine ite_only ?_ ?_
    | with_reducible intro _ _ _ | with_reducible intro _ _ | exact hL (by decide) | exact List.Subset.trans (by decide) hL | split | (dsimp only)

theorem State.pldmBoundary_only {L : List Part} {σ : State} (s : State) (hL : [.boot, .ports, .pldm, .devJobs, .nextJob,
    .dict, .log, .atn, .out] ⊆ L) (hs : σ.only L s) : σ.only L (State.pldmBoundary s) := by
  unfold State.pldmBoundary
  repeat' first
    | with_reducible first
        | assumption | apply State.modPldm_only | apply State.portionIn_only | apply State.pldmVerify_only
        | apply State.updateStaged_only | apply State.modPldm_only | refine ite_only ?_ ?_
    | with_reducible intro _ _ _ | with_reducible intro _ _ | exact hL (by decide) | exact List.Subset.trans (by decide) hL | split | (dsimp only)

theorem State.portActivate_only {L : List Part} {σ : State} (s : State) (n : Nat) (x : Slot)
    (hL : [.ports, .log] ⊆ L) (hs : σ.only L s) : σ.only L (State.portActivate s n x) := by
  unfold State.portActivate
  repeat' first
    | with_reducible first
        | assumption | apply State.putPortLedger_only
    | exact hL (by decide) | exact List.Subset.trans (by decide) hL | split

end Sys2Proof.Machine
end

