-- ==== Sys2Proof/Laws/OnlyTack.lean ====
section
/-! SUPPORT. What the operations of Tack, Load leave alone. -/

set_option maxRecDepth 20000

namespace Sys2Proof.Machine

open Sys2Proof

theorem State.queueSweep_only {L : List Part} {σ : State} (s : State) (slot : Nat) (hL : [.devJobs, .nextJob] ⊆ L) (hs :
    σ.only L s) : σ.only L (State.queueSweep s slot) := by
  unfold State.queueSweep
  repeat' first
    | with_reducible first
        | assumption | apply State.addDev_only | refine ite_only ?_ ?_
    | with_reducible intro _ _ _ | with_reducible intro _ _ | exact hL (by decide) | exact List.Subset.trans (by decide) hL | split | (dsimp only)

theorem State.tellStack_only {L : List Part} {σ : State} (s : State) (k : Key) (kind : Nat)
    (hL : [.cas] ⊆ L) (hs : σ.only L s) : σ.only L (State.tellStack s k kind) := by
  unfold State.tellStack
  repeat' first
    | with_reducible first
        | assumption | apply State.modCas_only | refine ite_only ?_ ?_
    | exact hL (by decide)

theorem State.revokeKey_only {L : List Part} {σ : State} (s : State) (k : Key) (hL : [.tack, .devJobs, .nextJob, .cas] ⊆
    L) (hs : σ.only L s) : σ.only L (State.revokeKey s k) := by
  unfold State.revokeKey
  repeat' first
    | with_reducible first
        | assumption | apply State.tellStack_only | apply State.queueSweep_only | apply State.modTack_only
        | apply State.modTack_only | refine ite_only ?_ ?_
    | with_reducible intro _ _ _ | with_reducible intro _ _ | exact hL (by decide) | exact List.Subset.trans (by decide) hL | split | (dsimp only)

theorem State.eraseKey_only {L : List Part} {σ : State} (s : State) (k : Key)
    (hL : [.tack, .devJobs, .nextJob, .cas] ⊆ L) (hs : σ.only L s) : σ.only L (State.eraseKey s k) := by
  unfold State.eraseKey
  repeat' first
    | with_reducible first
        | assumption | apply State.tellStack_only | apply State.queueSweep_only | apply State.modTack_only
    | exact hL (by decide) | exact List.Subset.trans (by decide) hL

theorem State.rewriteKey_only {L : List Part} {σ : State} (s : State) (k : Key) (secret : Bytes)
    (hL : [.tack, .devJobs, .nextJob, .cas] ⊆ L) (hs : σ.only L s) : σ.only L (State.rewriteKey s k secret) := by
  unfold State.rewriteKey
  repeat' first
    | with_reducible first
        | assumption | apply State.tellStack_only | apply State.queueSweep_only | apply State.modTack_only
    | exact hL (by decide) | exact List.Subset.trans (by decide) hL

theorem State.keyEvent_only {L : List Part} {σ : State} (s : State) (code : Nat) (k : Key)
    (hL : [.log, .atn] ⊆ L) (hs : σ.only L s) : σ.only L (State.keyEvent s code k) := by
  unfold State.keyEvent
  repeat' first
    | with_reducible first
        | assumption | apply State.latch_only | apply State.logEv_only
    | exact List.Subset.trans (by decide) hL

theorem State.exhaust_only {L : List Part} {σ : State} (s : State) (k : Key)
    (hL : [.tack, .log, .atn] ⊆ L) (hs : σ.only L s) : σ.only L (State.exhaust s k) := by
  unfold State.exhaust
  repeat' first
    | with_reducible first
        | assumption | apply State.modTack_only | apply State.keyEvent_only
    | exact hL (by decide) | exact List.Subset.trans (by decide) hL

theorem State.takeUses_only {L : List Part} {σ : State} (s : State) (slot uses : Nat)
    (hL : [.tack, .log, .atn] ⊆ L) (hs : σ.only L s) : σ.only L (State.takeUses s slot uses) := by
  unfold State.takeUses
  repeat' first
    | with_reducible first
        | assumption | apply State.modTack_only | apply State.exhaust_only | refine ite_only ?_ ?_
    | exact hL (by decide) | split

theorem State.replicate_only {L : List Part} {σ : State} (s : State) (k : Key)
    (hL : [.cas, .out] ⊆ L) (hs : σ.only L s) : σ.only L (State.replicate s k) := by
  unfold State.replicate
  repeat' first
    | with_reducible first
        | assumption | apply State.linkSend_only | apply State.modCas_only | refine foldl_only _ _ _ ?_ ?_
        | refine ite_only ?_ ?_
    | exact hL (by decide) | intro _ _ _

theorem State.addKeyAt_only {L : List Part} {σ s : State} {q : Option (Nat × Tack)} {k : Key} {p : State × Nat}
    (h : s.addKeyAt q k = .ok p) (hL : [.tack, .cas, .out] ⊆ L) (hs : σ.only L s) : σ.only L p.1 := by
  unfold State.addKeyAt at h
  split at h
  · cases h
  · cases h
    exact State.replicate_only _ _ (List.Subset.trans (by decide) hL) (State.modTack_only _ (hL (by decide)) hs)

theorem State.addKey_only {L : List Part} {σ s : State} {k : Key} {p : State × Nat} (h : s.addKey k = .ok p)
    (hL : [.tack, .cas, .out] ⊆ L) (hs : σ.only L s) : σ.only L p.1 := State.addKeyAt_only h hL hs

theorem State.freshSecret_only {L : List Part} {σ : State} (s : State) (t : Nat)
    (hL : [.tack] ⊆ L) (hs : σ.only L s) : σ.only L ((State.freshSecret s t).2) := by
  unfold State.freshSecret
  repeat' with_reducible first
    | assumption | apply State.draw_only | refine ite_only_snd ?_ ?_

theorem State.modStream_only {L : List Part} {σ : State} (s : State) (p h : Nat) (f : Stream → Stream)
    (hL : [.pads] ⊆ L) (hs : σ.only L s) : σ.only L (State.modStream s p h f) := by
  unfold State.modStream
  repeat' first
    | with_reducible first
        | assumption | apply State.modPad_only | refine foldl_only _ _ _ ?_ ?_ | refine ite_only ?_ ?_
        | refine ite_only_fst ?_ ?_ | refine ite_only_snd ?_ ?_
    | exact hL (by decide) | exact List.Subset.trans (by decide) hL | intro _ _ _ | split | dsimp only

theorem State.closeStream_only {L : List Part} {σ : State} (s : State) (p h : Nat)
    (hL : [.pads] ⊆ L) (hs : σ.only L s) : σ.only L (State.closeStream s p h) := by
  unfold State.closeStream
  repeat' first
    | with_reducible first
        | assumption | apply State.modPad_only | refine foldl_only _ _ _ ?_ ?_ | refine ite_only ?_ ?_
        | refine ite_only_fst ?_ ?_ | refine ite_only_snd ?_ ?_
    | exact hL (by decide) | exact List.Subset.trans (by decide) hL | intro _ _ _ | split | dsimp only

theorem State.openStream_only {L : List Part} {σ : State} (s : State) (p : Nat) (alg : HashAlg) (key : Option Key)
    (hL : [.pads] ⊆ L) (hs : σ.only L s) : σ.only L ((State.openStream s p alg key).1) := by
  unfold State.openStream
  repeat' first
    | with_reducible first
        | assumption | apply State.pgen_only | apply State.modPad_only | refine foldl_only _ _ _ ?_ ?_
        | refine ite_only ?_ ?_ | refine ite_only_fst ?_ ?_ | refine ite_only_snd ?_ ?_
    | exact hL (by decide) | exact List.Subset.trans (by decide) hL | intro _ _ _ | split | dsimp only

theorem State.takeJobUses_only {L : List Part} {σ : State} (s : State) (j : Job) (ks : List Key)
    (hL : [.tack, .log, .atn] ⊆ L) (hs : σ.only L s) : σ.only L (State.takeJobUses s j ks) := by
  unfold State.takeJobUses
  repeat' first
    | with_reducible first
        | assumption | apply State.takeUses_only | refine foldl_only _ _ _ ?_ ?_ | refine ite_only ?_ ?_
        | refine ite_only_fst ?_ ?_ | refine ite_only_snd ?_ ?_
    | exact hL (by decide) | exact List.Subset.trans (by decide) hL | intro _ _ _ | split | dsimp only

theorem State.reserveRun_only {L : List Part} {σ s t : State} {j : Job} (h : s.reserveRun j = some t) (hL : [.tack] ⊆ L)
    (hs : σ.only L s) : σ.only L t := by
  unfold State.reserveRun at h
  split at h
  · split at h
    · cases h
    · cases h; exact State.modTack_only _ (hL (by decide)) hs
  · cases h; exact hs

theorem State.firstLoad_only {L : List Part} {σ s : State} {j : Job} {p : State × Job × List Nat} (h : s.firstLoad j =
    .ok p)
    (hL : [.tack, .yard, .pads, .log, .atn] ⊆ L) (hs : σ.only L s) : σ.only L p.1 := by
  unfold State.firstLoad at h
  repeat' (first
    | (cases h; done)
    | (cases h; exact hs)
    | (cases h
       repeat' (first
         | exact State.reserveRun_only (by assumption) (List.Subset.trans (by decide) hL) hs
         | exact hL (by decide)
         | exact List.Subset.trans (by decide) hL
         | apply State.takeJobUses_only
         | apply State.modTack_only
         | apply State.modYard_only
         | apply State.openStream_only
         | apply ite_only))
    | split at h
    | dsimp only at h)

theorem State.dukptFail_only {L : List Part} {σ : State} (s : State) (j : Job) (e : Nat)
    (hL : [.tack, .yard, .log, .atn] ⊆ L) (hs : σ.only L s) : σ.only L (State.dukptFail s j e) := by
  unfold State.dukptFail
  repeat' first
    | with_reducible first
        | assumption | apply State.modYard_only | apply State.exhaust_only | refine foldl_only _ _ _ ?_ ?_
        | refine ite_only ?_ ?_ | refine ite_only_fst ?_ ?_ | refine ite_only_snd ?_ ?_
    | exact hL (by decide) | exact List.Subset.trans (by decide) hL | intro _ _ _ | split | dsimp only

end Sys2Proof.Machine
end

