-- ==== Sys2Proof/Laws/OnlyYard.lean ====
section
/-! SUPPORT. What the operations of Yard, KeyOps, Jobs, Reply leave alone. -/

set_option maxRecDepth 20000

namespace Sys2Proof.Machine

open Sys2Proof

theorem State.modWindow_only {L : List Part} {σ : State} (s : State) (steward : Bool) (f : Rdw → Rdw)
    (hL : [.rdw, .rdwSc] ⊆ L) (hs : σ.only L s) : σ.only L (State.modWindow s steward f) := by
  unfold State.modWindow
  repeat' first
    | with_reducible first
        | assumption | apply State.modRdwSc_only | apply State.modRdw_only | refine ite_only ?_ ?_
    | exact hL (by decide)

theorem State.batchCheck_only {L : List Part} {σ : State} (s : State) (parent at_ : Nat)
    (hL : [.jobs] ⊆ L) (hs : σ.only L s) : σ.only L (State.batchCheck s parent at_) := by
  unfold State.batchCheck
  repeat' first
    | with_reducible first
        | assumption | apply State.modJobs_only | apply State.modJob_only | refine ite_only ?_ ?_
    | exact hL (by decide) | split

theorem State.endJob_only {L : List Part} {σ : State} (s : State) (id st at_ : Nat)
    (hL : [.yard, .jobs] ⊆ L) (hs : σ.only L s) : σ.only L (State.endJob s id st at_) := by
  unfold State.endJob
  repeat' first
    | with_reducible first
        | assumption | apply State.modYard_only | apply State.modJob_only | apply State.batchCheck_only
    | exact hL (by decide) | exact List.Subset.trans (by decide) hL | split

theorem State.failLoad_only {L : List Part} {σ : State} (s : State) (j : Job) (lane e : Nat) (hL : [.tack, .yard, .jobs,
    .pads, .log, .atn] ⊆ L) (hs : σ.only L s) : σ.only L (State.failLoad s j lane e) := by
  unfold State.failLoad
  repeat' first
    | with_reducible first
        | assumption | apply State.dukptFail_only | apply State.modLane_only | apply State.closeStream_only
        | apply State.endJob_only | refine ite_only ?_ ?_
    | with_reducible intro _ _ _ | with_reducible intro _ _ | exact hL (by decide) | exact List.Subset.trans (by decide) hL | split | (dsimp only)

theorem State.abortJob_only {L : List Part} {σ : State} (s : State) (id : Nat) (st : Option Nat)
    (hL : [.yard, .jobs, .pads] ⊆ L) (hs : σ.only L s) : σ.only L (State.abortJob s id st) := by
  unfold State.abortJob
  repeat' first
    | with_reducible first
        | assumption | apply State.modLane_only | apply State.modJob_only | apply State.closeStream_only
        | apply State.dropJob_only | apply State.endJob_only | apply State.modYard_only
    | exact hL (by decide) | exact List.Subset.trans (by decide) hL | split

theorem State.abortDev_only {L : List Part} {σ : State} (s : State) (d : DevJob)
    (hL : [.yard, .devJobs, .log] ⊆ L) (hs : σ.only L s) : σ.only L (State.abortDev s d) := by
  unfold State.abortDev
  repeat' first
    | with_reducible first
        | assumption | apply State.modLog_only | apply State.modLane_only | apply State.modDev_only
    | exact hL (by decide) | exact List.Subset.trans (by decide) hL | split

theorem State.haltYard_only {L : List Part} {σ : State} (s : State)
    (hL : [.yard, .jobs, .devJobs, .pads, .log] ⊆ L) (hs : σ.only L s) : σ.only L (State.haltYard s) := by
  unfold State.haltYard
  repeat' first
    | with_reducible first
        | assumption | apply State.abortJob_only | apply State.abortDev_only | refine foldl_only _ _ _ ?_ ?_
        | refine ite_only ?_ ?_
    | exact List.Subset.trans (by decide) hL | intro _ _ _

theorem State.holdQueue_only {L : List Part} {σ : State} (s : State)
    (hL : [.yard, .jobs] ⊆ L) (hs : σ.only L s) : σ.only L (State.holdQueue s) := by
  unfold State.holdQueue
  repeat' first
    | with_reducible first
        | assumption | apply State.dropJob_only | apply State.endJob_only | refine foldl_only _ _ _ ?_ ?_
    | exact List.Subset.trans (by decide) hL | intro _ _ _ | split

theorem State.strikeLanes_only {L : List Part} {σ : State} (s : State) (slot kind : Nat)
    (hL : [.ports, .yard, .jobs, .pads] ⊆ L) (hs : σ.only L s) : σ.only L (State.strikeLanes s slot kind) := by
  unfold State.strikeLanes
  repeat' first
    | with_reducible first
        | assumption | apply State.modPorts_only | apply State.abortJob_only | refine foldl_only _ _ _ ?_ ?_
    | exact hL (by decide) | exact List.Subset.trans (by decide) hL | intro _ _ _ | split

theorem State.runStrikes_only {L : List Part} {σ : State} (s : State)
    (hL : [.ports, .tack, .yard, .jobs, .pads] ⊆ L) (hs : σ.only L s) : σ.only L (State.runStrikes s) := by
  unfold State.runStrikes
  repeat' first
    | with_reducible first
        | assumption | apply State.strikeLanes_only | apply State.modTack_only | refine foldl_only _ _ _ ?_ ?_
    | exact hL (by decide) | exact List.Subset.trans (by decide) hL | intro _ _ _

theorem State.dma_only {L : List Part} {σ : State} (s : State) (p addr : Nat) (d : Bytes)
    (hL : [.pads, .out] ⊆ L) (hs : σ.only L s) : σ.only L (State.dma s p addr d) := by
  unfold State.dma
  repeat' first
    | with_reducible first
        | assumption | apply State.emit_only | apply State.modPad_only | refine foldl_only _ _ _ ?_ ?_
    | exact List.Subset.trans (by decide) hL | intro _ _ _ | split | dsimp only

theorem State.nextExport_only {L : List Part} {σ : State} (s : State) (p : Nat) (hL : [.pmem] ⊆ L) (hs : σ.only L s) :
    σ.only L ((State.nextExport s p).2) := by
  unfold State.nextExport
  repeat' first
    | with_reducible first
        | assumption | apply State.modPmem_only | apply State.modPmem_only | refine ite_only ?_ ?_
        | refine ite_only_snd ?_ ?_
    | with_reducible intro _ _ _ | with_reducible intro _ _ | exact hL (by decide) | exact List.Subset.trans (by decide) hL | split | (dsimp only)

theorem State.hamperDone_only {L : List Part} {σ : State} (s : State) (h : Job)
    (hL : [.yard, .jobs, .pads, .pmem, .atn, .out] ⊆ L) (hs : σ.only L s) : σ.only L (State.hamperDone s h) := by
  unfold State.hamperDone
  repeat' first
    | with_reducible first
        | assumption | apply State.dropJob_only | apply State.nextExport_only | apply State.dma_only
        | apply State.modStream_only | apply State.modYard_only | apply State.latch_only | apply State.closeStream_only
        | apply State.endJob_only
    | exact hL (by decide) | exact List.Subset.trans (by decide) hL | split | dsimp only

theorem State.addHamper_only {L : List Part} {σ : State} (s : State) (j : Job) (handle : Nat) (out : Bool)
    (hL : [.jobs, .nextJob] ⊆ L) (hs : σ.only L s) : σ.only L (State.addHamper s j handle out) := by
  unfold State.addHamper
  repeat' first
    | with_reducible first
        | assumption | apply State.modJobs_only | apply State.modNextJob_only
    | exact hL (by decide)

theorem State.startHamper_only {L : List Part} {σ : State} (s : State) (j : Job)
    (hL : [.yard, .jobs, .nextJob] ⊆ L) (hs : σ.only L s) : σ.only L (State.startHamper s j) := by
  unfold State.startHamper
  repeat' first
    | with_reducible first
        | assumption | apply State.endJob_only | apply State.addHamper_only | refine ite_only ?_ ?_
    | exact List.Subset.trans (by decide) hL | split

theorem State.maskProgram_only {L : List Part} {σ : State} (s : State) (lane : Nat) (hL : [.tack, .yard] ⊆ L) (hs :
    σ.only L s) : σ.only L (State.maskProgram s lane) := by
  unfold State.maskProgram
  repeat' first
    | with_reducible first
        | assumption | apply State.modYard_only | apply State.modTack_only | apply State.modYard_only
        | apply State.modTack_only | refine ite_only ?_ ?_
    | with_reducible intro _ _ _ | with_reducible intro _ _ | exact hL (by decide) | exact List.Subset.trans (by decide) hL | split | (dsimp only)

theorem State.seedMasks_only {L : List Part} {σ : State} (s : State) (hL : [.tack, .yard] ⊆ L) (hs : σ.only L s) :
    σ.only L (State.seedMasks s) := by
  unfold State.seedMasks
  repeat' first
    | with_reducible first
        | assumption | apply State.modYard_only | apply State.modTack_only | apply State.modYard_only
        | apply State.modTack_only | refine ite_only ?_ ?_
    | with_reducible intro _ _ _ | with_reducible intro _ _ | exact hL (by decide) | exact List.Subset.trans (by decide) hL | split | (dsimp only)

theorem State.onLane_only {L : List Part} {σ : State} (s : State) (j : Job) (lane : Nat) (load : List Nat) (hL : [.tack,
    .yard, .jobs, .rdw, .rdwSc] ⊆ L) (hs : σ.only L s) : σ.only L (State.onLane s j lane load) := by
  unfold State.onLane
  repeat' first
    | with_reducible first
        | assumption | apply State.maskProgram_only | apply State.modLane_only | apply State.modJob_only
        | apply State.modWindow_only | apply State.modYard_only | apply State.modYard_only | refine ite_only ?_ ?_
    | with_reducible intro _ _ _ | with_reducible intro _ _ | exact hL (by decide) | exact List.Subset.trans (by decide) hL | split | (dsimp only)

theorem State.offer_only {L : List Part} {σ : State} (s : State) (j : Job) (lane : Nat) (hamper : Bytes)
    (hL : [.tack, .yard, .jobs, .pads, .rdw, .rdwSc, .log, .atn] ⊆ L) (hs : σ.only L s) : σ.only L (s.offer j
        lane hamper) := by
  unfold State.offer
  repeat' first
    | with_reducible first
        | assumption | apply State.onLane_only | apply State.failLoad_only | apply State.dropJob_only
        | apply State.modJob_only
        | exact State.firstLoad_only (p := (_, _, _)) (by assumption) (List.Subset.trans (by decide) hL) hs
    | exact List.Subset.trans (by decide) hL | split | dsimp only

theorem State.devOnLane_only {L : List Part} {σ : State} (s : State) (d : DevJob) (lane : Nat) (hL : [.tack, .yard,
    .devJobs, .log] ⊆ L) (hs : σ.only L s) : σ.only L (State.devOnLane s d lane) := by
  unfold State.devOnLane
  repeat' first
    | with_reducible first
        | assumption | apply State.modLog_only | apply State.maskProgram_only | apply State.modLane_only
        | apply State.modDev_only | apply State.modLog_only | refine ite_only ?_ ?_
    | with_reducible intro _ _ _ | with_reducible intro _ _ | exact hL (by decide) | exact List.Subset.trans (by decide) hL | split | (dsimp only)

theorem State.anyJob_only {L : List Part} {σ s : State} {cls : Nat} {kind : LaneKind} {p : Job × State} (h : s.anyJob
    cls kind = some p)
    (hL : [.yard] ⊆ L) (hs : σ.only L s) : σ.only L p.2 := by
  unfold State.anyJob at h
  dsimp only at h
  split at h
  · cases h
  · obtain ⟨j, -, rfl⟩ := Option.map_eq_some_iff.mp h
    exact State.modYard_only _ (hL (by decide)) hs

theorem State.dispatchLane_only {L : List Part} {σ : State} (s : State) (lane : Nat) (hamper : Option Bytes)
    (hL : [.tack, .yard, .jobs, .devJobs, .pads, .rdw, .rdwSc, .log, .atn] ⊆ L) (hs : σ.only L s) : σ.only L
        (s.dispatchLane lane hamper) := by
  unfold State.dispatchLane
  extract_lets l kind e fit q
  have hd : ∀ d, σ.only L (s.devOnLane d lane) := fun d => State.devOnLane_only _ _ _ (List.Subset.trans (by decide)
      hL) hs
  have hq : ∀ j s', q = some (j, s') → σ.only L s' := by
    intro j s' h
    unfold q at h
    repeat' (first
      | (cases h; done)
      | (cases h; exact hs)
      | exact State.anyJob_only h (List.Subset.trans (by decide) hL) hs
      | split at h)
  clear_value q
  repeat' first
    | with_reducible first
        | assumption | apply hd | exact State.offer_only _ _ _ _ (List.Subset.trans (by decide) hL) (hq _ _ rfl)
    | split

theorem State.dispatchAll_only {L : List Part} {σ : State} (s : State)
    (hL : [.tack, .yard, .jobs, .devJobs, .pads, .rdw, .rdwSc, .log, .atn] ⊆ L) (hs : σ.only L s) : σ.only L
        (State.dispatchAll s) := by
  unfold State.dispatchAll
  repeat' first
    | with_reducible first
        | assumption | apply State.dispatchLane_only | refine foldl_only _ _ _ ?_ ?_
    | intro _ _ _

theorem State.sweepStep_only {L : List Part} {σ : State} (s : State) (k : Nat)
    (hL : [.tack, .devJobs, .nextJob, .cas] ⊆ L) (hs : σ.only L s) : σ.only L (State.sweepStep s k) := by
  unfold State.sweepStep
  repeat' first
    | with_reducible first
        | assumption | apply State.revokeKey_only | apply State.modTack_only | refine foldl_only _ _ _ ?_ ?_
    | exact hL (by decide) | intro _ _ _ | split

theorem State.stepAll_only {L : List Part} {σ : State} (s : State) (hL : [.jobs, .devJobs] ⊆ L) (hs : σ.only L s) :
    σ.only L (State.stepAll s) := by
  unfold State.stepAll
  repeat' first
    | with_reducible first
        | assumption | apply State.modJobs_only | apply State.modDevJobs_only | apply State.modJobs_only
        | apply State.modDevJobs_only | refine ite_only ?_ ?_
    | with_reducible intro _ _ _ | with_reducible intro _ _ | exact hL (by decide) | exact List.Subset.trans (by decide) hL | split | (dsimp only)

theorem State.sweepSteps_only {L : List Part} {σ : State} (s : State) (before : List DevJob)
    (hL : [.tack, .devJobs, .nextJob, .cas] ⊆ L) (hs : σ.only L s) : σ.only L (State.sweepSteps s before) := by
  unfold State.sweepSteps
  repeat' first
    | with_reducible first
        | assumption | apply State.modTack_only | apply State.sweepStep_only | refine foldl_only _ _ _ ?_ ?_
        | refine ite_only ?_ ?_
    | exact hL (by decide) | intro _ _ _

theorem State.endSteps_only {L : List Part} {σ : State} (s : State)
    (hL : [.yard, .jobs, .devJobs, .pads, .pmem, .atn, .out] ⊆ L) (hs : σ.only L s) : σ.only L (State.endSteps s) := by
  unfold State.endSteps
  repeat' first
    | with_reducible first
        | assumption | apply State.modYard_only | apply State.modLane_only | apply State.modJob_only
        | apply State.modStream_only | apply State.hamperDone_only | apply State.modDev_only
        | refine foldl_only _ _ _ ?_ ?_
    | exact hL (by decide) | exact List.Subset.trans (by decide) hL | intro _ _ _ | split

theorem State.latchPair_only {L : List Part} {σ : State} (s : State) (lane : Nat)
    (hL : [.atn] ⊆ L) (hs : σ.only L s) : σ.only L (State.latchPair s lane) := by
  unfold State.latchPair
  repeat' with_reducible first
    | assumption | apply State.latch_only | refine ite_only ?_ ?_

theorem State.countFault_only {L : List Part} {σ : State} (s : State)
    (hL : [.ports, .shed, .tagTable, .shedLost, .tack, .yard, .jobs, .devJobs, .pads, .log, .mon, .atn] ⊆ L) (hs
        : σ.only L s) : σ.only L (State.countFault s) := by
  unfold State.countFault
  repeat' first
    | with_reducible first
        | assumption | apply State.modYard_only | apply State.monDetect_only | refine ite_only ?_ ?_
    | exact hL (by decide)

theorem State.quarantinePair_only {L : List Part} {σ : State} (s : State) (lane : Nat)
    (hL : [.ports, .shed, .tagTable, .shedLost, .tack, .yard, .jobs, .devJobs, .nextJob, .pads, .log, .mon, .atn] ⊆ L) (hs : σ.only L s) : σ.only L (State.quarantinePair s lane) := by
  unfold State.quarantinePair
  repeat' first
    | with_reducible first
        | assumption | apply State.countFault_only | apply State.modLane_only | apply State.latchPair_only
        | apply State.ev_only | apply State.addDev_only | refine ite_only ?_ ?_
    | exact List.Subset.trans (by decide) hL

theorem State.loadLanes_only {L : List Part} {σ : State} (s : State) (hL : [.yard] ⊆ L) (hs : σ.only L s) : σ.only L
    (State.loadLanes s) := by
  unfold State.loadLanes
  repeat' first
    | with_reducible first
        | assumption | apply State.modYard_only | apply State.modYard_only | refine ite_only ?_ ?_
    | with_reducible intro _ _ _ | with_reducible intro _ _ | exact hL (by decide) | exact List.Subset.trans (by decide) hL | split | (dsimp only)

theorem State.drainKey_only {L : List Part} {σ : State} (s : State) (k : Key) (timeout : Nat)
    (hL : [.tack, .cas] ⊆ L) (hs : σ.only L s) : σ.only L (State.drainKey s k timeout) := by
  unfold State.drainKey
  repeat' first
    | with_reducible first
        | assumption | apply State.tellStack_only | apply State.modTack_only
    | exact hL (by decide) | exact List.Subset.trans (by decide) hL

theorem State.changeKey_only {L : List Part} {σ : State} (s : State) (code : Nat) (k : Key) (timeout n : Nat)
    (hL : [.tack, .devJobs, .nextJob, .cas, .out] ⊆ L) (hs : σ.only L s) : σ.only L (State.changeKey s code k timeout
        n) := by
  unfold State.changeKey
  repeat' first
    | with_reducible first
        | assumption | apply State.revokeKey_only | apply State.eraseKey_only | apply State.rewriteKey_only
        | apply State.replicate_only | apply State.drainKey_only | refine ite_only ?_ ?_
    | exact List.Subset.trans (by decide) hL

theorem State.overQuota_only {L : List Part} {σ : State} (s : State) (p : Nat)
    (hL : [.atn] ⊆ L) (hs : σ.only L s) : σ.only L (State.overQuota s p) := by
  unfold State.overQuota
  repeat' first
    | with_reducible first
        | assumption | apply State.latch_only
    | split

theorem State.runCommand_only {L : List Part} {σ : State} (s : State) (c : KeyCmd) (hL : [.tack, .devJobs, .nextJob,
    .cas, .atn, .out] ⊆ L)
    (hs : σ.only L s) : σ.only L (s.runCommand c).2 := by
  unfold State.runCommand
  repeat' first
    | with_reducible first
        | assumption | apply State.modTack_only | apply State.overQuota_only | apply State.changeKey_only
        | exact State.addKey_only (p := (_, _)) (by assumption) (List.Subset.trans (by decide) hL) hs
    | exact hL (by decide) | exact List.Subset.trans (by decide) hL | split

theorem State.acceptOne_only {L : List Part} {σ : State} (s : State) (f : FrontDesc) (hL : [.yard, .jobs, .nextJob,
    .pads, .pci, .out] ⊆ L) (hs : σ.only L s) : σ.only L (State.acceptOne s f) := by
  unfold State.acceptOne
  repeat' first
    | with_reducible first
        | assumption | apply State.modNextJob_only | apply State.modPad_only | apply State.modJobs_only
        | apply State.endJob_only | apply State.modJob_only | apply State.emit_only | apply State.modPci_only
        | apply State.modNextJob_only | apply State.modJobs_only | apply State.modPci_only
        | refine foldl_only _ _ _ ?_ ?_ | refine ite_only ?_ ?_ | refine ite_only_fst ?_ ?_
        | refine ite_only_snd ?_ ?_
    | with_reducible intro _ _ _ | with_reducible intro _ _ | exact hL (by decide) | exact List.Subset.trans (by decide) hL | split | (dsimp only)

theorem State.acceptSome_only {L : List Part} {σ : State} (n : Nat) (s : State) (hL : [.yard, .jobs, .nextJob, .pads,
    .pci, .out] ⊆ L) (hs : σ.only L s) :
    σ.only L (State.acceptSome n s) := by
  induction n generalizing s with
  | zero => exact hs
  | succ n ih =>
      simp only [State.acceptSome]
      repeat' first
        | with_reducible first
            | apply ih | assumption | apply State.modPci_only | apply State.acceptOne_only
        | exact hL (by decide) | split

theorem State.acceptFront_only {L : List Part} {σ : State} (s : State)
    (hL : [.yard, .jobs, .nextJob, .pads, .pci, .out] ⊆ L) (hs : σ.only L s) : σ.only L (State.acceptFront s) := by
  unfold State.acceptFront
  repeat' with_reducible first
    | assumption | apply State.acceptSome_only

theorem State.splitBatch_only {L : List Part} {σ : State} (s : State) (b : Job)
    (hL : [.jobs] ⊆ L) (hs : σ.only L s) : σ.only L (State.splitBatch s b) := by
  unfold State.splitBatch
  repeat' first
    | with_reducible first
        | assumption | apply State.modJobs_only
    | exact hL (by decide)

theorem State.arrive_only {L : List Part} {σ : State} (s : State) (id : Nat) (data : Option Bytes)
    (hL : [.yard, .jobs, .pci] ⊆ L) (hs : σ.only L s) : σ.only L (State.arrive s id data) := by
  unfold State.arrive
  repeat' first
    | with_reducible first
        | assumption | apply State.modPci_only | apply State.modJob_only | apply State.endJob_only
        | apply State.splitBatch_only | refine ite_only ?_ ?_
    | exact hL (by decide) | exact List.Subset.trans (by decide) hL | split

theorem State.settle_only {L : List Part} {σ : State} (s : State) (id : Nat) (e : Ending)
    (hL : [.yard, .jobs] ⊆ L) (hs : σ.only L s) : σ.only L (s.settle id e) := by
  unfold State.settle
  split
  · exact hs
  · extract_lets bad s1 waits s2
    have h1 : σ.only L s1 := State.modYard_only _ (hL (by decide)) hs
    have h2 : σ.only L s2 := State.modJob_only _ _ _ (List.Subset.trans (by decide) hL) h1
    clear_value s1 s2
    split
    · exact State.batchCheck_only _ _ _ (List.Subset.trans (by decide) hL) h2
    · exact h2

theorem State.endStep_only {L : List Part} {σ : State} (s : State) (op id : Nat) (agree : Bool) (f : State → Job →
    State × Ending)
    (hL : [.yard, .jobs, .pads] ⊆ L) (hf : ∀ j, σ.only L (f s j).1) (hs : σ.only L s) : σ.only L (s.endStep op id
        agree f) := by
  have hk : ∀ (t : State) (e : Ending), σ.only L t → σ.only L (t.settle id e) :=
    fun t e h => State.settle_only _ _ _ (List.Subset.trans (by decide) hL) h
  unfold State.endStep
  split
  · exact hs
  · refine ite_only hs (ite_only (hk _ _ hs) (ite_only ?_ (hk _ _ (hf _))))
    exact hk _ _ (ite_only (State.closeStream_only _ _ _ (List.Subset.trans (by decide) hL) hs) hs)

theorem State.endPlain_only {L : List Part} {σ : State} (s : State) (op id : Nat) (agree : Bool) (f : Job → Ending)
    (hL : [.yard, .jobs, .pads] ⊆ L) (hs : σ.only L s) : σ.only L (s.endPlain op id agree f) :=
  State.endStep_only _ _ _ _ _ hL (fun _ => hs) hs

theorem State.endWith_only {L : List Part} {σ : State} (s : State) (op id : Nat) (agree : Bool) (f : State → Job →
    Ending)
    (hL : [.yard, .jobs, .pads] ⊆ L) (hs : σ.only L s) : σ.only L (s.endWith op id agree f) :=
  State.endStep_only _ _ _ _ _ hL (fun _ => hs) hs

theorem State.updateEnd_only {L : List Part} {σ : State} (s : State) (j : Job)
    (hL : [.pads] ⊆ L) (hs : σ.only L s) : σ.only L ((State.updateEnd s j).1) := by
  unfold State.updateEnd
  repeat' with_reducible first
    | assumption | apply State.modStream_only

theorem State.finalEnd_only {L : List Part} {σ : State} (s : State) (j : Job)
    (hL : [.pads] ⊆ L) (hs : σ.only L s) : σ.only L ((State.finalEnd s j).1) := by
  unfold State.finalEnd
  repeat' with_reducible first
    | assumption | apply State.closeStream_only

theorem State.finalCompareEnd_only {L : List Part} {σ : State} (s : State) (j : Job) (hL : [.pads] ⊆ L) (hs : σ.only L
    s) : σ.only L ((State.finalCompareEnd s j).1) := by
  unfold State.finalCompareEnd
  repeat' first
    | with_reducible first
        | assumption | apply State.closeStream_only | refine ite_only ?_ ?_ | refine ite_only_fst ?_ ?_
    | exact hL (by decide) | exact List.Subset.trans (by decide) hL | split | (dsimp only)

theorem State.abandonEnd_only {L : List Part} {σ : State} (s : State) (j : Job)
    (hL : [.pads] ⊆ L) (hs : σ.only L s) : σ.only L ((State.abandonEnd s j).1) := by
  unfold State.abandonEnd
  repeat' with_reducible first
    | assumption | apply State.closeStream_only

theorem State.jobApply_only {L : List Part} {σ : State} (s : State) (id : Nat) (hL : [.tack, .jobs, .devJobs,
    .nextJob, .cas, .atn, .out] ⊆ L)
    (hs : σ.only L s) : σ.only L (s.jobApply id) := by
  unfold State.jobApply
  repeat' first
    | with_reducible first
        | assumption | apply State.modJob_only | apply State.overQuota_only | apply State.changeKey_only
        | exact State.addKeyAt_only (p := (_, _)) (by assumption) (List.Subset.trans (by decide) hL) hs
    | exact List.Subset.trans (by decide) hL | split | dsimp only

theorem State.countJob_only {L : List Part} {σ : State} (s : State) (j : Job)
    (hL : [.yard, .atn] ⊆ L) (hs : σ.only L s) : σ.only L (State.countJob s j) := by
  unfold State.countJob
  repeat' first
    | with_reducible first
        | assumption | apply State.modYard_only | apply State.latch_only | refine ite_only ?_ ?_
    | exact hL (by decide) | exact List.Subset.trans (by decide) hL

theorem State.writeCompletion_only {L : List Part} {σ : State} (s : State) (j : Job)
    (hL : [.pads, .out] ⊆ L) (hs : σ.only L s) : σ.only L (State.writeCompletion s j) := by
  unfold State.writeCompletion
  repeat' first
    | with_reducible first
        | assumption | apply State.dma_only | apply State.modPad_only
    | exact List.Subset.trans (by decide) hL | split

theorem State.complete_only {L : List Part} {σ : State} (s : State) (j : Job)
    (hL : [.ports, .shed, .tagTable, .shedLost, .tack, .yard, .jobs, .devJobs, .nextJob, .pads, .rdw, .rdwSc, .cas, .log, .mon, .atn, .out] ⊆ L) (hs : σ.only L s) : σ.only L (State.complete s j) := by
  unfold State.complete
  repeat' first
    | with_reducible first
        | assumption | apply State.countJob_only | apply State.writeCompletion_only | apply State.modWindow_only
        | apply State.linkSend_only | apply State.quarantinePair_only | apply State.modJobs_only
        | refine foldl_only _ _ _ ?_ ?_
    | exact hL (by decide) | exact List.Subset.trans (by decide) hL | intro _ _ _ | split

theorem State.mboxAnswer_only {L : List Part} {σ : State} (s : State) (b : Bytes)
    (hL : [.dmb] ⊆ L) (hs : σ.only L s) : σ.only L (State.mboxAnswer s b) := by
  unfold State.mboxAnswer
  repeat' first
    | with_reducible first
        | assumption | apply State.modDmb_only
    | exact hL (by decide)

theorem State.sendReply_only {L : List Part} {σ : State} (s : State) (c : Chan) (op seq sid : Nat) (r : Reply) (hL :
    [.dmb, .out] ⊆ L) (hs : σ.only L s) : σ.only L (State.sendReply s c op seq sid r) := by
  unfold State.sendReply
  repeat' first
    | with_reducible first
        | assumption | apply State.emit_only | apply State.inBand_only | apply State.mboxAnswer_only
        | refine ite_only ?_ ?_
    | exact hL (by decide) | exact List.Subset.trans (by decide) hL | split | (dsimp only)

theorem State.modSession_only {L : List Part} {σ : State} (s : State) (slot : Nat) (f : Sess → Sess) (hL : [.dict] ⊆ L)
    (hs : σ.only L s) : σ.only L (State.modSession s slot f) := by
  unfold State.modSession
  repeat' first
    | with_reducible first
        | assumption | apply State.modDict_only | apply State.modDict_only | refine ite_only ?_ ?_
    | with_reducible intro _ _ _ | with_reducible intro _ _ | exact hL (by decide) | exact List.Subset.trans (by decide) hL | split | (dsimp only)

theorem State.answer_only {L : List Part} {σ : State} (s : State) (slot : Nat) (r : Reply)
    (hL : [.dmb, .dict, .out] ⊆ L) (hs : σ.only L s) : σ.only L (State.answer s slot r) := by
  unfold State.answer
  repeat' first
    | with_reducible first
        | assumption | apply State.sendReply_only | apply State.modSession_only
    | exact List.Subset.trans (by decide) hL | split

end Sys2Proof.Machine
end

