-- ==== Sys2Proof/Laws/OnlyHost.lean ====
section
/-! SUPPORT. What the operations of Pads, Window, Rings, Attention leave alone. -/

set_option maxRecDepth 20000

namespace Sys2Proof.Machine

open Sys2Proof

theorem State.modRing_only {L : List Part} {σ : State} (s : State) (p r : Nat) (f : Ring → Ring)
    (hL : [.pads] ⊆ L) (hs : σ.only L s) : σ.only L (State.modRing s p r f) := by
  unfold State.modRing
  repeat' with_reducible first
    | assumption | apply State.modPad_only

theorem State.refusePush_only {L : List Part} {σ : State} (s : State) (p slot tag ring code : Nat)
    (hL : [.pads, .atn] ⊆ L) (hs : σ.only L s) : σ.only L (State.refusePush s p slot tag ring code) := by
  unfold State.refusePush
  repeat' first
    | with_reducible first
        | assumption | apply State.modPad_only | apply State.latch_only | refine ite_only ?_ ?_
    | exact List.Subset.trans (by decide) hL

theorem State.pushWrite_only {L : List Part} {σ : State} (s : State) (p n off : Nat) (data : Bytes) (hL : [.pads, .pci,
    .atn] ⊆ L) (hs : σ.only L s) : σ.only L (State.pushWrite s p n off data) := by
  unfold State.pushWrite
  repeat' first
    | with_reducible first
        | assumption | apply State.modPad_only | apply State.refusePush_only | apply State.modPci_only
        | apply State.modPci_only | refine foldl_only _ _ _ ?_ ?_ | refine ite_only ?_ ?_
    | with_reducible intro _ _ _ | with_reducible intro _ _ | exact hL (by decide) | exact List.Subset.trans (by decide) hL | split | (dsimp only)

theorem State.stopRing_only {L : List Part} {σ : State} (s : State) (p r : Nat)
    (hL : [.pads, .atn] ⊆ L) (hs : σ.only L s) : σ.only L (State.stopRing s p r) := by
  unfold State.stopRing
  repeat' first
    | with_reducible first
        | assumption | apply State.modPad_only | apply State.latch_only
    | exact List.Subset.trans (by decide) hL

theorem State.fetchRing_only {L : List Part} {σ : State} (s : State) (p r : Nat)
    (hL : [.pads, .pci, .out] ⊆ L) (hs : σ.only L s) : σ.only L (State.fetchRing s p r) := by
  unfold State.fetchRing
  repeat' first
    | with_reducible first
        | assumption | apply State.emit_only | apply State.modRing_only | apply State.modPci_only
        | refine ite_only ?_ ?_
    | exact hL (by decide) | exact List.Subset.trans (by decide) hL | split

theorem State.fetchAll_only {L : List Part} {σ : State} (s : State)
    (hL : [.pads, .pci, .out] ⊆ L) (hs : σ.only L s) : σ.only L (State.fetchAll s) := by
  unfold State.fetchAll
  repeat' first
    | with_reducible first
        | assumption | apply State.fetchRing_only | refine foldl_only _ _ _ ?_ ?_
    | intro _ _ _

theorem State.writeTail_only {L : List Part} {σ : State} (s : State) (p r v : Nat)
    (hL : [.pads, .pci, .atn, .out] ⊆ L) (hs : σ.only L s) : σ.only L (State.writeTail s p r v) := by
  unfold State.writeTail
  repeat' first
    | with_reducible first
        | assumption | apply State.modRing_only | apply State.stopRing_only | apply State.fetchAll_only
        | refine ite_only ?_ ?_
    | exact List.Subset.trans (by decide) hL | split

theorem State.writeHead_only {L : List Part} {σ : State} (s : State) (p r v : Nat)
    (hL : [.pads, .pci, .atn, .out] ⊆ L) (hs : σ.only L s) : σ.only L (State.writeHead s p r v) := by
  unfold State.writeHead
  repeat' first
    | with_reducible first
        | assumption | apply State.modRing_only | apply State.stopRing_only | apply State.fetchAll_only
        | refine ite_only ?_ ?_
    | exact List.Subset.trans (by decide) hL | split

theorem State.enableRing_only {L : List Part} {σ : State} (s : State) (p r : Nat)
    (hL : [.pads, .pci, .out] ⊆ L) (hs : σ.only L s) : σ.only L (State.enableRing s p r) := by
  unfold State.enableRing
  repeat' first
    | with_reducible first
        | assumption | apply State.modRing_only | apply State.fetchAll_only | refine ite_only ?_ ?_
    | exact List.Subset.trans (by decide) hL | split

theorem State.disableRing_only {L : List Part} {σ : State} (s : State) (p r : Nat)
    (hL : [.pads] ⊆ L) (hs : σ.only L s) : σ.only L (State.disableRing s p r) := by
  unfold State.disableRing
  repeat' first
    | with_reducible first
        | assumption | apply State.modRing_only
    | split

theorem State.dropRead_only {L : List Part} {σ : State} (s : State) (tag : Nat)
    (hL : [.pci] ⊆ L) (hs : σ.only L s) : σ.only L (State.dropRead s tag) := by
  unfold State.dropRead
  repeat' first
    | with_reducible first
        | assumption | apply State.modPci_only
    | exact hL (by decide)

theorem State.fetchDone_only {L : List Part} {σ : State} (s : State) (tag : Nat) (data : Option Bytes)
    (hL : [.pads, .pci, .atn] ⊆ L) (hs : σ.only L s) : σ.only L (State.fetchDone s tag data) := by
  unfold State.fetchDone
  repeat' first
    | with_reducible first
        | assumption | apply State.dropRead_only | apply State.modPci_only | apply State.modRing_only
        | apply State.stopRing_only
    | exact hL (by decide) | exact List.Subset.trans (by decide) hL | split

theorem State.resetPad_only {L : List Part} {σ : State} (s : State) (p : Nat)
    (hL : [.pads, .pmem, .pci, .atn] ⊆ L) (hs : σ.only L s) : σ.only L (State.resetPad s p) := by
  unfold State.resetPad
  repeat' first
    | with_reducible first
        | assumption | apply State.modPmem_only | apply State.modPad_only | apply State.modPci_only
        | apply State.latch_only
    | exact hL (by decide) | exact List.Subset.trans (by decide) hL | split

theorem State.strikePad_only {L : List Part} {σ : State} (s : State) (p : Nat)
    (hL : [.tack, .yard, .jobs, .pads, .cas, .out] ⊆ L) (hs : σ.only L s) : σ.only L (State.strikePad s p) := by
  unfold State.strikePad
  repeat' first
    | with_reducible first
        | assumption | apply State.deriveHamper_only | apply State.linkSend_only | apply State.modCas_only | apply State.abortJob_only
        | apply State.modPad_only | refine foldl_only _ _ _ ?_ ?_ | refine ite_only ?_ ?_
    | exact hL (by decide) | exact List.Subset.trans (by decide) hL | intro _ _ _ | split

theorem State.strikePads_only {L : List Part} {σ : State} (s : State)
    (hL : [.tack, .yard, .jobs, .pads, .cas, .out] ⊆ L) (hs : σ.only L s) : σ.only L (State.strikePads s) := by
  unfold State.strikePads
  repeat' first
    | with_reducible first
        | assumption | apply State.strikePad_only | refine foldl_only _ _ _ ?_ ?_
    | intro _ _ _ | split

theorem State.windowReset_only {L : List Part} {σ : State} (s : State)
    (hL : [.yard, .jobs, .pads, .rdw] ⊆ L) (hs : σ.only L s) : σ.only L (State.windowReset s) := by
  unfold State.windowReset
  repeat' first
    | with_reducible first
        | assumption | apply State.abortJob_only | apply State.modRdw_only
    | exact hL (by decide) | exact List.Subset.trans (by decide) hL | split

theorem State.resetPads_only {L : List Part} {σ : State} (s : State) (l : List Nat)
    (hL : [.yard, .jobs, .pads, .pmem, .pci, .rdw, .atn] ⊆ L) (hs : σ.only L s) : σ.only L (State.resetPads s l)
        := by
  unfold State.resetPads
  repeat' first
    | with_reducible first
        | assumption | apply State.windowReset_only | apply State.resetPad_only | refine foldl_only _ _ _ ?_ ?_
        | refine ite_only ?_ ?_
    | exact List.Subset.trans (by decide) hL | intro _ _ _

theorem State.eraseOwned_only {L : List Part} {σ : State} (s : State) (p : Nat)
    (hL : [.tack, .devJobs, .nextJob, .cas] ⊆ L) (hs : σ.only L s) : σ.only L (State.eraseOwned s p) := by
  unfold State.eraseOwned
  repeat' first
    | with_reducible first
        | assumption | apply State.eraseKey_only | refine foldl_only _ _ _ ?_ ?_ | refine ite_only ?_ ?_
    | intro _ _ _

theorem State.mgrEnd_only {L : List Part} {σ : State} (s : State) (who : Nat) (res : Bytes)
    (hL : [.pci, .dmb, .cas, .dict, .atn, .out] ⊆ L) (hs : σ.only L s) : σ.only L (State.mgrEnd s who res) := by
  unfold State.mgrEnd
  repeat' first
    | with_reducible first
        | assumption | apply State.latch_only | apply State.modPci_only | apply State.linkSend_only
        | apply State.answer_only | refine ite_only ?_ ?_
    | exact hL (by decide) | exact List.Subset.trans (by decide) hL

theorem State.dropPad_only {L : List Part} {σ : State} (s : State) (p : Nat)
    (hL : [.pads] ⊆ L) (hs : σ.only L s) : σ.only L (State.dropPad s p) := by
  unfold State.dropPad
  repeat' first
    | with_reducible first
        | assumption | apply State.modPads_only
    | exact hL (by decide)

theorem State.mgrApply_only {L : List Part} {σ : State} (s : State) (c : Bytes) (who : Nat)
    (hL : [.tack, .yard, .jobs, .devJobs, .nextJob, .pads, .pmem, .pci, .rdw, .dmb, .cas, .dict, .atn, .out] ⊆ L) (hs
        : σ.only L s) : σ.only L (State.mgrApply s c who) := by
  unfold State.mgrApply
  repeat' first
    | with_reducible first
        | assumption | apply State.deriveHamper_only | apply State.dropHamper_only | apply State.mgrEnd_only | apply State.modPads_only | apply State.modPad_only
        | apply State.overQuota_only | apply State.resetPads_only | apply State.eraseOwned_only
        | apply State.resetPad_only | apply State.dropPad_only | apply State.latch_only | refine ite_only ?_ ?_
    | exact hL (by decide) | exact List.Subset.trans (by decide) hL | split

theorem State.mgrRefuse_only {L : List Part} {σ : State} (s : State) (c : Bytes) (who e : Nat)
    (hL : [.pci, .dmb, .cas, .dict, .atn, .out] ⊆ L) (hs : σ.only L s) : σ.only L (State.mgrRefuse s c who e) := by
  unfold State.mgrRefuse
  repeat' with_reducible first
    | assumption | apply State.mgrEnd_only

theorem State.resetDone_only {L : List Part} {σ : State} (s : State) (p : Nat)
    (hL : [.pads, .pci, .dmb, .cas, .dict, .atn, .out] ⊆ L) (hs : σ.only L s) : σ.only L (State.resetDone s p) := by
  unfold State.resetDone
  repeat' first
    | with_reducible first
        | assumption | apply State.modPad_only | apply State.latch_only | apply State.dropPad_only
        | apply State.mgrEnd_only | refine foldl_only _ _ _ ?_ ?_
    | exact List.Subset.trans (by decide) hL | intro _ _ _ | split

theorem State.presence_only {L : List Part} {σ : State} (s : State) (p : Nat)
    (hL : [.tack, .pads, .pmem, .pci, .atn] ⊆ L) (hs : σ.only L s) : σ.only L (State.presence s p) := by
  unfold State.presence
  repeat' first
    | with_reducible first
        | assumption | apply State.deriveHamper_only | apply State.modPad_only | apply State.resetPad_only
    | exact hL (by decide) | exact List.Subset.trans (by decide) hL | split

theorem State.pfMailboxes_only {L : List Part} {σ : State} (s : State)
    (hL : [.core, .yard, .jobs, .pads, .pci, .rdw, .dmb] ⊆ L) (hs : σ.only L s) : σ.only L (State.pfMailboxes s) := by
  unfold State.pfMailboxes
  repeat' first
    | with_reducible first
        | assumption | apply State.abortJob_only | apply State.modRdw_only | apply State.modPci_only
        | apply State.modDmb_only | apply State.modCore_only
    | exact hL (by decide) | exact List.Subset.trans (by decide) hL | split

theorem State.windowDrop_only {L : List Part} {σ : State} (s : State) (w : Bool)
    (hL : [.yard, .jobs, .pads, .rdw, .rdwSc] ⊆ L) (hs : σ.only L s) : σ.only L (State.windowDrop s w) := by
  unfold State.windowDrop
  repeat' first
    | with_reducible first
        | assumption | apply State.abortJob_only | apply State.modWindow_only
    | exact List.Subset.trans (by decide) hL | split

theorem State.windowFail_only {L : List Part} {σ : State} (s : State) (w : Bool) (code : Nat)
    (hL : [.yard, .jobs, .pads, .rdw, .rdwSc] ⊆ L) (hs : σ.only L s) : σ.only L (State.windowFail s w code) := by
  unfold State.windowFail
  repeat' first
    | with_reducible first
        | assumption | apply State.windowDrop_only | apply State.modWindow_only
    | exact List.Subset.trans (by decide) hL

theorem State.windowJob_only {L : List Part} {σ : State} (s : State) (w : Bool) (hL : [.jobs, .nextJob, .rdw, .rdwSc] ⊆
    L) (hs : σ.only L s) : σ.only L (State.windowJob s w) := by
  unfold State.windowJob
  repeat' first
    | with_reducible first
        | assumption | apply State.modJobs_only | apply State.modNextJob_only | apply State.modWindow_only
        | apply State.modJobs_only | apply State.modNextJob_only | refine ite_only ?_ ?_
    | with_reducible intro _ _ _ | with_reducible intro _ _ | exact hL (by decide) | exact List.Subset.trans (by decide) hL | split | (dsimp only)

theorem State.windowEnd_only {L : List Part} {σ : State} (s : State) (w : Bool)
    (hL : [.jobs, .nextJob, .rdw, .rdwSc] ⊆ L) (hs : σ.only L s) : σ.only L (State.windowEnd s w) := by
  unfold State.windowEnd
  repeat' first
    | with_reducible first
        | assumption | apply State.modWindow_only | apply State.modJob_only | apply State.windowJob_only
        | refine ite_only ?_ ?_
    | exact List.Subset.trans (by decide) hL | split

theorem State.windowStart_only {L : List Part} {σ : State} (s : State) (w : Bool) (ctrl : Nat)
    (hL : [.yard, .jobs, .nextJob, .pads, .rdw, .rdwSc] ⊆ L) (hs : σ.only L s) : σ.only L (State.windowStart s w ctrl)
        := by
  unfold State.windowStart
  repeat' first
    | with_reducible first
        | assumption | apply State.windowDrop_only | apply State.modWindow_only | apply State.windowEnd_only
        | apply State.windowJob_only | refine ite_only ?_ ?_
    | exact List.Subset.trans (by decide) hL

theorem State.windowWord_only {L : List Part} {σ : State} (s : State) (w high : Bool) (b : Bytes)
    (hL : [.rdw, .rdwSc] ⊆ L) (hs : σ.only L s) : σ.only L ((State.windowWord s w high b).1) := by
  unfold State.windowWord
  repeat' with_reducible first
    | assumption | apply State.modWindow_only | refine ite_only_fst ?_ ?_

theorem State.windowData_only {L : List Part} {σ : State} (s : State) (w high : Bool) (b : Bytes)
    (hL : [.yard, .jobs, .pads, .rdw, .rdwSc] ⊆ L) (hs : σ.only L s) : σ.only L (s.windowData w high b) := by
  have h := State.windowWord_only s w high b (List.Subset.trans (by decide) hL) hs
  unfold State.windowData
  split
  · exact hs
  · split
    · next e => rw [e] at h; exact h
    · next e =>
      rw [e] at h
      exact ite_only (State.modWindow_only _ _ _ (List.Subset.trans (by decide) hL) h)
        (State.windowFail_only _ _ _ (List.Subset.trans (by decide) hL) h)

theorem State.windowLast_only {L : List Part} {σ : State} (s : State) (w high : Bool) (b : Bytes)
    (hL : [.yard, .jobs, .nextJob, .pads, .rdw, .rdwSc] ⊆ L) (hs : σ.only L s) : σ.only L (s.windowLast w high b) := by
  have h := State.windowWord_only s w high b (List.Subset.trans (by decide) hL) hs
  have hf : ∀ (t : State) (e : Nat), σ.only L t → σ.only L (t.windowFail w e) :=
    fun t e h => State.windowFail_only _ _ _ (List.Subset.trans (by decide) hL) h
  unfold State.windowLast
  split
  · exact hs
  · split
    · next e => rw [e] at h; exact h
    · next e =>
      rw [e] at h
      exact ite_only (hf _ _ h) (ite_only (hf _ _ h) (ite_only (hf _ _ h) (State.windowEnd_only _ _
        (List.Subset.trans (by decide) hL) (State.modWindow_only _ _ _ (List.Subset.trans (by decide) hL) h))))

theorem State.serveFront_only {L : List Part} {σ : State} (s : State)
    (hL : [.yard, .jobs, .nextJob, .pads, .pci, .out] ⊆ L) (hs : σ.only L s) : σ.only L (State.serveFront s) := by
  unfold State.serveFront
  repeat' first
    | with_reducible first
        | assumption | apply State.acceptFront_only | apply State.fetchAll_only
    | exact List.Subset.trans (by decide) hL

theorem State.msixReset_only {L : List Part} {σ : State} (s : State) (fn : Nat)
    (hL : [.atn] ⊆ L) (hs : σ.only L s) : σ.only L (State.msixReset s fn) := by
  unfold State.msixReset
  repeat' first
    | with_reducible first
        | assumption | apply State.modAtn_only
    | exact hL (by decide)

theorem State.hotReset_only {L : List Part} {σ : State} (s : State)
    (hL : [.core, .yard, .jobs, .pads, .pmem, .pci, .rdw, .dmb, .atn] ⊆ L) (hs : σ.only L s) : σ.only L
        (State.hotReset s) := by
  unfold State.hotReset
  repeat' first
    | with_reducible first
        | assumption | apply State.pfMailboxes_only | apply State.latch_only | apply State.resetPads_only
        | apply State.msixReset_only | refine foldl_only _ _ _ ?_ ?_
    | exact List.Subset.trans (by decide) hL | intro _ _ _

theorem State.setMsix_only {L : List Part} {σ : State} (s : State) (key : Nat) (e : Bytes) (hL : [.atn] ⊆ L) (hs :
    σ.only L s) : σ.only L (State.setMsix s key e) := by
  unfold State.setMsix
  repeat' first
    | with_reducible first
        | assumption | apply State.modAtn_only | apply State.modAtn_only | refine ite_only ?_ ?_
    | with_reducible intro _ _ _ | with_reducible intro _ _ | exact hL (by decide) | exact List.Subset.trans (by decide) hL | split | (dsimp only)

theorem State.sendMsix_only {L : List Part} {σ : State} (s : State) (fn vector : Nat)
    (hL : [.atn, .out] ⊆ L) (hs : σ.only L s) : σ.only L (State.sendMsix s fn vector) := by
  unfold State.sendMsix
  repeat' first
    | with_reducible first
        | assumption | apply State.emit_only | apply State.modAtn_only | refine ite_only ?_ ?_
    | exact hL (by decide) | exact List.Subset.trans (by decide) hL

theorem State.atnBoundary_only {L : List Part} {σ : State} (s : State) (hL : [.atn, .out] ⊆ L) (hs : σ.only L s) :
    σ.only L (State.atnBoundary s) := by
  unfold State.atnBoundary
  repeat' first
    | with_reducible first
        | assumption | apply State.modAtn_only | apply State.sendMsix_only | apply State.modAtn_only
        | refine foldl_only _ _ _ ?_ ?_ | refine ite_only ?_ ?_ | refine ite_only_fst ?_ ?_
        | refine ite_only_snd ?_ ?_
    | with_reducible intro _ _ _ | with_reducible intro _ _ | exact hL (by decide) | exact List.Subset.trans (by decide) hL | split | (dsimp only)

theorem State.padMessages_only {L : List Part} {σ : State} (s : State)
    (hL : [.pads, .atn, .out] ⊆ L) (hs : σ.only L s) : σ.only L (State.padMessages s) := by
  unfold State.padMessages
  repeat' first
    | with_reducible first
        | assumption | apply State.sendMsix_only | apply State.modPad_only | refine foldl_only _ _ _ ?_ ?_
        | refine ite_only ?_ ?_
    | exact List.Subset.trans (by decide) hL | intro _ _ _

theorem State.writeEnable_only {L : List Part} {σ : State} (s : State) (g v : Nat)
    (hL : [.log, .atn] ⊆ L) (hs : σ.only L s) : σ.only L (State.writeEnable s g v) := by
  unfold State.writeEnable
  repeat' first
    | with_reducible first
        | assumption | apply State.modAtn_only | apply State.logEv_only
    | exact hL (by decide) | exact List.Subset.trans (by decide) hL

end Sys2Proof.Machine
end

