-- ==== Sys2Proof/Laws/OnlyDevice.lean ====
section
/-! SUPPORT. What the operations of Switch, Monitors, Sess, Partners, Responder, Sleep, Cascade, Lifecycle leave
    alone. -/

set_option maxRecDepth 20000

namespace Sys2Proof.Machine

open Sys2Proof

theorem State.discardSwitch_only {L : List Part} {σ : State} (s : State)
    (hL : [.yard, .log] ⊆ L) (hs : σ.only L s) : σ.only L (State.discardSwitch s) := by
  unfold State.discardSwitch
  repeat' first
    | with_reducible first
        | assumption | apply State.modYard_only | apply State.ev_only
    | exact hL (by decide) | exact List.Subset.trans (by decide) hL | split

theorem State.activate_only {L : List Part} {σ : State} (s : State) (sheet base : Nat) (safe : Bool)
    (hL : [.yard, .cas, .log, .atn, .out] ⊆ L) (hs : σ.only L s) : σ.only L (State.activate s sheet base safe) := by
  unfold State.activate
  repeat' first
    | with_reducible first
        | assumption | apply State.discardSwitch_only | apply State.modYard_only | apply State.latch_only
        | apply State.linkSend_only | apply State.ev_only | refine foldl_only _ _ _ ?_ ?_ | refine ite_only ?_ ?_
    | exact hL (by decide) | exact List.Subset.trans (by decide) hL | intro _ _ _

theorem State.takeSwitch_only {L : List Part} {σ : State} (s : State) (f : Nat)
    (hL : [.yard, .cas, .log, .atn, .out] ⊆ L) (hs : σ.only L s) : σ.only L (State.takeSwitch s f) := by
  unfold State.takeSwitch
  repeat' first
    | with_reducible first
        | assumption | apply State.modCas_only | apply State.activate_only
    | exact hL (by decide) | split

theorem State.makeSafeDue_only {L : List Part} {σ : State} (s : State)
    (hL : [.yard] ⊆ L) (hs : σ.only L s) : σ.only L (State.makeSafeDue s) := by
  unfold State.makeSafeDue
  repeat' first
    | with_reducible first
        | assumption | apply State.modYard_only | refine ite_only ?_ ?_
    | exact hL (by decide)

theorem State.classT_only {L : List Part} {σ : State} (s : State)
    (hL : [.yard, .cas, .out] ⊆ L) (hs : σ.only L s) : σ.only L (State.classT s) := by
  unfold State.classT
  repeat' first
    | with_reducible first
        | assumption | apply State.linkSend_only | apply State.makeSafeDue_only | refine ite_only ?_ ?_
    | exact List.Subset.trans (by decide) hL

theorem State.alarmRespond_only {L : List Part} {σ : State} (s : State)
    (hL : [.core, .sup, .hal, .yard, .cas, .log, .mon, .atn, .out] ⊆ L) (hs : σ.only L s) : σ.only L
        (State.alarmRespond s) := by
  unfold State.alarmRespond
  repeat' first
    | with_reducible first
        | assumption | apply State.modMon_only | apply State.beginAlarmHold_only | apply State.classT_only
        | apply State.modCore_only | apply State.setOp_only | apply State.modSup_only | refine ite_only ?_ ?_
    | exact hL (by decide) | exact List.Subset.trans (by decide) hL | split

theorem State.clearMonitors_only {L : List Part} {σ : State} (s : State) (m : BitVec 24)
    (hL : [.mon] ⊆ L) (hs : σ.only L s) : σ.only L (State.clearMonitors s m) := by
  unfold State.clearMonitors
  repeat' first
    | with_reducible first
        | assumption | apply State.modMon_only
    | exact hL (by decide)

theorem State.beginTest_only {L : List Part} {σ : State} (s : State) (n : Nat)
    (hL : [.mon] ⊆ L) (hs : σ.only L s) : σ.only L (State.beginTest s n) := by
  unfold State.beginTest
  repeat' first
    | with_reducible first
        | assumption | apply State.modMon_only
    | exact hL (by decide)

theorem State.backupDetect_only {L : List Part} {σ : State} (s : State) (n : Nat)
    (hL : [.pwr, .tack, .mon] ⊆ L) (hs : σ.only L s) : σ.only L (State.backupDetect s n) := by
  unfold State.backupDetect
  repeat' first
    | with_reducible first
        | assumption | apply State.modMon_only | apply State.modTack_only | apply State.modPwr_only
        | refine ite_only ?_ ?_
    | exact hL (by decide)

theorem State.latchLane_only {L : List Part} {σ : State} (s : State) (n : Nat)
    (hL : [.atn] ⊆ L) (hs : σ.only L s) : σ.only L (State.latchLane s n) := by
  unfold State.latchLane
  repeat' with_reducible first
    | assumption | apply State.latch_only | refine ite_only ?_ ?_

theorem State.freshId_only {L : List Part} {σ : State} (s : State) (len : Nat) (barred : Nat → Bool) (bars : Nat)
    (hL : [.tack] ⊆ L) (hs : σ.only L s) : σ.only L ((State.freshId s len barred bars).2) := by
  unfold State.freshId
  repeat' first
    | with_reducible first
        | assumption | apply State.modTack_only
    | exact hL (by decide) | split | dsimp only

theorem State.endSession_only {L : List Part} {σ : State} (s : State) (x : Sess)
    (hL : [.dict, .log, .atn] ⊆ L) (hs : σ.only L s) : σ.only L (State.endSession s x) := by
  unfold State.endSession
  repeat' first
    | with_reducible first
        | assumption | apply State.modDict_only | apply State.latch_only | apply State.logEv_only
        | refine ite_only ?_ ?_
    | exact hL (by decide) | exact List.Subset.trans (by decide) hL

theorem State.endSessions_only {L : List Part} {σ : State} (s : State) (p : Sess → Bool)
    (hL : [.dict, .log, .atn] ⊆ L) (hs : σ.only L s) : σ.only L (State.endSessions s p) := by
  unfold State.endSessions
  repeat' first
    | with_reducible first
        | assumption | apply State.endSession_only | refine foldl_only _ _ _ ?_ ?_
    | intro _ _ _

theorem State.endChannel_only {L : List Part} {σ : State} (s : State) (c : Chan)
    (hL : [.dict, .log, .atn] ⊆ L) (hs : σ.only L s) : σ.only L (State.endChannel s c) := by
  unfold State.endChannel
  repeat' first
    | with_reducible first
        | assumption | apply State.endSessions_only | apply State.modDict_only
    | exact hL (by decide) | exact List.Subset.trans (by decide) hL

theorem State.endSpdm_only {L : List Part} {σ : State} (s : State) (x : SpdmSess)
    (hL : [.par, .dict, .log, .atn] ⊆ L) (hs : σ.only L s) : σ.only L (State.endSpdm s x) := by
  unfold State.endSpdm
  repeat' first
    | with_reducible first
        | assumption | apply State.modPar_only | apply State.endChannel_only | apply State.ev_only
        | refine ite_only ?_ ?_
    | exact hL (by decide) | exact List.Subset.trans (by decide) hL

theorem State.endDtls_only {L : List Part} {σ : State} (s : State) (c : Dtls)
    (hL : [.dict, .log, .atn] ⊆ L) (hs : σ.only L s) : σ.only L (State.endDtls s c) := by
  unfold State.endDtls
  repeat' first
    | with_reducible first
        | assumption | apply State.modDict_only | apply State.endChannel_only
    | exact hL (by decide)

theorem State.modPartner_only {L : List Part} {σ : State} (s : State) (k : Nat) (f : Partner → Partner)
    (hL : [.par] ⊆ L) (hs : σ.only L s) : σ.only L (State.modPartner s k f) := by
  unfold State.modPartner
  repeat' first
    | with_reducible first
        | assumption | apply State.modPar_only
    | exact hL (by decide)

theorem State.restTag_only {L : List Part} {σ : State} (s : State) (k t : Nat) (hL : [.par] ⊆ L) (hs : σ.only L s) :
    σ.only L (State.restTag s k t) := by
  unfold State.restTag
  repeat' first
    | with_reducible first
        | assumption | apply State.modPar_only | apply State.modPar_only
    | with_reducible intro _ _ _ | with_reducible intro _ _ | exact hL (by decide) | exact List.Subset.trans (by decide) hL | (dsimp only)

theorem State.ctrlReq_only {L : List Part} {σ : State} (s : State) (k cmd : Nat) (d : Bytes) (hL : [.par, .out] ⊆ L) (hs
    : σ.only L s) : σ.only L (State.ctrlReq s k cmd d) := by
  unfold State.ctrlReq
  repeat' first
    | with_reducible first
        | assumption | apply State.modPartner_only | apply State.mctpSend_only
    | with_reducible intro _ _ _ | with_reducible intro _ _ | exact hL (by decide) | exact List.Subset.trans (by decide) hL | split | (dsimp only)

theorem State.sendReq_only {L : List Part} {σ : State} (s : State) (k : Nat) (hL : [.par, .out] ⊆ L) (hs : σ.only L s) :
    σ.only L (State.sendReq s k) := by
  unfold State.sendReq
  repeat' first
    | with_reducible first
        | assumption | apply State.modPartner_only | apply State.emit_only | refine ite_only ?_ ?_
    | with_reducible intro _ _ _ | with_reducible intro _ _ | exact hL (by decide) | exact List.Subset.trans (by decide) hL | split | (dsimp only)

theorem State.endOwnSession_only {L : List Part} {σ : State} (s : State) (k : Nat) (hL : [.par, .log] ⊆ L) (hs : σ.only
    L s) : σ.only L (State.endOwnSession s k) := by
  unfold State.endOwnSession
  repeat' first
    | with_reducible first
        | assumption | apply State.modPar_only | apply State.modPartner_only | apply State.ev_only
        | apply State.modPar_only | refine ite_only ?_ ?_
    | with_reducible intro _ _ _ | with_reducible intro _ _ | exact hL (by decide) | exact List.Subset.trans (by decide) hL | split | (dsimp only)

theorem State.stopAttest_only {L : List Part} {σ : State} (s : State) (k : Nat) (hL : [.par, .yard, .devJobs, .log] ⊆ L)
    (hs : σ.only L s) : σ.only L (State.stopAttest s k) := by
  unfold State.stopAttest
  repeat' first
    | with_reducible first
        | assumption | apply State.endOwnSession_only | apply State.dropWhat_only | apply State.modPartner_only
    | with_reducible intro _ _ _ | with_reducible intro _ _ | exact hL (by decide) | exact List.Subset.trans (by decide) hL | (dsimp only)

theorem State.toStep_only {L : List Part} {σ : State} (s : State) (k n : Nat) (hL : [.par, .tack, .out] ⊆ L) (hs :
    σ.only L s) : σ.only L (State.toStep s k n) := by
  unfold State.toStep
  repeat' first
    | with_reducible first
        | assumption | apply State.modPartner_only | apply State.freshId_only | apply State.sendReq_only
        | refine ite_only ?_ ?_ | refine ite_only_fst ?_ ?_ | refine ite_only_snd ?_ ?_
    | with_reducible intro _ _ _ | with_reducible intro _ _ | exact hL (by decide) | exact List.Subset.trans (by decide) hL | split | (dsimp only)

theorem State.attest_only {L : List Part} {σ : State} (s : State) (k : Nat) (again : Bool) (hL : [.par, .tack, .yard,
    .devJobs, .log, .out] ⊆ L) (hs : σ.only L s) : σ.only L (State.attest s k again) := by
  unfold State.attest
  repeat' first
    | with_reducible first
        | assumption | apply State.stopAttest_only | apply State.modPartner_only | apply State.toStep_only
    | with_reducible intro _ _ _ | with_reducible intro _ _ | exact hL (by decide) | exact List.Subset.trans (by decide) hL | (dsimp only)

theorem State.latchEntry_only {L : List Part} {σ : State} (s : State) (k : Nat)
    (hL : [.atn] ⊆ L) (hs : σ.only L s) : σ.only L (State.latchEntry s k) := by
  unfold State.latchEntry
  repeat' with_reducible first
    | assumption | apply State.latch_only

theorem State.partnerVerdict_only {L : List Part} {σ : State} (s : State) (k : Nat) (reason : Nat)
    (hL : [.par, .log, .atn] ⊆ L) (hs : σ.only L s) : σ.only L (State.partnerVerdict s k reason) := by
  unfold State.partnerVerdict
  repeat' first
    | with_reducible first
        | assumption | apply State.modPartner_only | apply State.latch_only | apply State.latchEntry_only
        | apply State.logEv_only | refine ite_only ?_ ?_
    | exact List.Subset.trans (by decide) hL

theorem State.compareEntry_only {L : List Part} {σ : State} (s : State) (k : Nat) (hL : [.par, .log, .atn] ⊆ L) (hs :
    σ.only L s) : σ.only L (State.compareEntry s k) := by
  unfold State.compareEntry
  repeat' first
    | with_reducible first
        | assumption | apply State.partnerVerdict_only | refine ite_only ?_ ?_
    | exact hL (by decide) | exact List.Subset.trans (by decide) hL | split | (dsimp only)

theorem State.checkJob_only {L : List Part} {σ : State} (s : State) (k left : Nat) (payload : Bytes) (ok : Bool)
    (session : Nat) (hL : [.par, .devJobs, .nextJob] ⊆ L) (hs : σ.only L s) : σ.only L (State.checkJob s k left payload
    ok session) := by
  unfold State.checkJob
  repeat' first
    | with_reducible first
        | assumption | apply State.modPartner_only | apply State.addDev_only | refine ite_only ?_ ?_
    | with_reducible intro _ _ _ | with_reducible intro _ _ | exact hL (by decide) | exact List.Subset.trans (by decide) hL | split | (dsimp only)

theorem State.chainChecked_only {L : List Part} {σ : State} (s : State) (k : Nat) (hL : [.par, .tack, .log, .atn, .out]
    ⊆ L) (hs : σ.only L s) : σ.only L (State.chainChecked s k) := by
  unfold State.chainChecked
  repeat' first
    | with_reducible first
        | assumption | apply State.partnerVerdict_only | apply State.toStep_only | refine ite_only ?_ ?_
    | exact hL (by decide) | exact List.Subset.trans (by decide) hL | split | (dsimp only)

theorem State.answerChecked_only {L : List Part} {σ : State} (s : State) (k : Nat) (payload : Bytes) (ok : Bool)
    (session : Nat) (hL : [.par, .tack, .log, .atn, .out] ⊆ L) (hs : σ.only L s) : σ.only L (State.answerChecked s k
    payload ok session) := by
  unfold State.answerChecked
  repeat' first
    | with_reducible first
        | assumption | apply State.partnerVerdict_only | apply State.modPartner_only | apply State.toStep_only
        | apply State.compareEntry_only | refine ite_only ?_ ?_
    | with_reducible intro _ _ _ | with_reducible intro _ _ | exact hL (by decide) | exact List.Subset.trans (by decide) hL | split | (dsimp only)

theorem State.partnerChecked_only {L : List Part} {σ : State} (s : State) (k run left : Nat) (payload : Bytes) (ok :
    Bool) (session : Nat) (hL : [.par, .tack, .devJobs, .nextJob, .log, .atn, .out] ⊆ L) (hs : σ.only L s) : σ.only L
    (State.partnerChecked s k run left payload ok session) := by
  unfold State.partnerChecked
  repeat' first
    | with_reducible first
        | assumption | apply State.checkJob_only | apply State.modPartner_only | apply State.chainChecked_only
        | apply State.answerChecked_only | refine ite_only ?_ ?_
    | with_reducible intro _ _ _ | with_reducible intro _ _ | exact hL (by decide) | exact List.Subset.trans (by decide) hL | split | (dsimp only)

theorem State.stepDone_only {L : List Part} {σ : State} (s : State) (k : Nat) (r : Resp) (hL : [.par, .tack, .devJobs,
    .nextJob, .log, .atn, .out] ⊆ L) (hs : σ.only L s) : σ.only L (State.stepDone s k r) := by
  unfold State.stepDone
  repeat' first
    | with_reducible first
        | assumption | apply State.modPartner_only | apply State.toStep_only | apply State.partnerVerdict_only
        | apply State.sendReq_only | apply State.checkJob_only | apply State.compareEntry_only | refine ite_only ?_ ?_
    | with_reducible intro _ _ _ | with_reducible intro _ _ | exact hL (by decide) | exact List.Subset.trans (by decide) hL | split | (dsimp only)

theorem State.depart_only {L : List Part} {σ : State} (s : State) (k : Nat) (hL : [.par, .yard, .devJobs, .log, .atn] ⊆
    L) (hs : σ.only L s) : σ.only L (State.depart s k) := by
  unfold State.depart
  repeat' first
    | with_reducible first
        | assumption | apply State.modPar_only | apply State.stopAttest_only | apply State.modPartner_only
        | apply State.latch_only | apply State.latchEntry_only | apply State.ev_only | apply State.modPar_only
        | refine ite_only ?_ ?_
    | with_reducible intro _ _ _ | with_reducible intro _ _ | exact hL (by decide) | exact List.Subset.trans (by decide) hL | split | (dsimp only)

theorem State.joinMctp_only {L : List Part} {σ : State} (s : State) (k : Nat) (eidOk spdm : Bool) (hL : [.par, .tack,
    .yard, .devJobs, .log, .atn, .out] ⊆ L) (hs : σ.only L s) : σ.only L (State.joinMctp s k eidOk spdm) := by
  unfold State.joinMctp
  repeat' first
    | with_reducible first
        | assumption | apply State.latch_only | apply State.modPartner_only | apply State.ctrlReq_only
        | apply State.attest_only | apply State.partnerVerdict_only | refine ite_only ?_ ?_
    | with_reducible intro _ _ _ | with_reducible intro _ _ | exact hL (by decide) | exact List.Subset.trans (by decide) hL | split | (dsimp only)

theorem State.discover_only {L : List Part} {σ : State} (s : State) (f : Found) (hL : [.par, .tack, .yard, .devJobs,
    .log, .atn, .out] ⊆ L) (hs : σ.only L s) : σ.only L (State.discover s f) := by
  unfold State.discover
  repeat' first
    | with_reducible first
        | assumption | apply State.depart_only | apply State.latch_only | apply State.modPar_only
        | apply State.ev_only | apply State.modPartner_only | apply State.joinMctp_only | apply State.modPar_only
        | refine ite_only ?_ ?_
    | with_reducible intro _ _ _ | with_reducible intro _ _ | exact hL (by decide) | exact List.Subset.trans (by decide) hL | split | (dsimp only)

theorem State.probeStatic_only {L : List Part} {σ : State} (s : State) (bus : Nat) (l : List Found) (hL : [.par, .tack,
    .yard, .devJobs, .log, .atn, .out] ⊆ L) (hs : σ.only L s) : σ.only L (State.probeStatic s bus l) := by
  unfold State.probeStatic
  repeat' first
    | with_reducible first
        | assumption | apply State.mctpSend_only | apply State.discover_only | refine foldl_only _ _ _ ?_ ?_
    | with_reducible intro _ _ _ | with_reducible intro _ _ | exact hL (by decide) | exact List.Subset.trans (by decide) hL | split | (dsimp only)

theorem State.discoverBus_only {L : List Part} {σ : State} (s : State) (bus : Nat) (first : Bool) (l : List Found) (hL :
    [.par, .tack, .yard, .devJobs, .log, .atn, .out] ⊆ L) (hs : σ.only L s) : σ.only L (State.discoverBus s bus first l)
    := by
  unfold State.discoverBus
  repeat' first
    | with_reducible first
        | assumption | apply State.emit_only | apply State.discover_only | apply State.probeStatic_only
        | apply State.latch_only | refine foldl_only _ _ _ ?_ ?_ | refine ite_only ?_ ?_
    | with_reducible intro _ _ _ | with_reducible intro _ _ | exact hL (by decide) | exact List.Subset.trans (by decide) hL | split | (dsimp only)

theorem State.bindEntry_only {L : List Part} {σ : State} (s : State) (k : Nat) (hL : [.par, .yard, .devJobs] ⊆ L) (hs :
    σ.only L s) : σ.only L (State.bindEntry s k) := by
  unfold State.bindEntry
  repeat' first
    | with_reducible first
        | assumption | apply State.dropWhat_only | apply State.modPartner_only | refine ite_only ?_ ?_
    | with_reducible intro _ _ _ | with_reducible intro _ _ | exact hL (by decide) | exact List.Subset.trans (by decide) hL | split | (dsimp only)

theorem State.policyWritten_only {L : List Part} {σ : State} (s : State) (k : Nat) (hL : [.par, .yard, .devJobs, .log] ⊆
    L) (hs : σ.only L s) : σ.only L (State.policyWritten s k) := by
  unfold State.policyWritten
  repeat' first
    | with_reducible first
        | assumption | apply State.bindEntry_only | apply State.modPartner_only | apply State.stopAttest_only
        | refine foldl_only _ _ _ ?_ ?_ | refine ite_only ?_ ?_
    | with_reducible intro _ _ _ | with_reducible intro _ _ | exact hL (by decide) | exact List.Subset.trans (by decide) hL | split | (dsimp only)

theorem State.partnerBoundary_only {L : List Part} {σ : State} (s : State) (hL : [.par, .tack, .yard, .devJobs, .log,
    .out] ⊆ L) (hs : σ.only L s) : σ.only L (State.partnerBoundary s) := by
  unfold State.partnerBoundary
  repeat' first
    | with_reducible first
        | assumption | apply State.attest_only | apply State.toStep_only | refine foldl_only _ _ _ ?_ ?_
        | refine ite_only ?_ ?_
    | with_reducible intro _ _ _ | with_reducible intro _ _ | exact hL (by decide) | exact List.Subset.trans (by decide) hL | split | (dsimp only)

theorem State.setDyn_only {L : List Part} {σ : State} (s : State) (bus : Nat) (a : Option Nat) (hL : [.par, .atn] ⊆ L)
    (hs : σ.only L s) : σ.only L (State.setDyn s bus a) := by
  unfold State.setDyn
  repeat' first
    | with_reducible first
        | assumption | apply State.modPar_only | apply State.latch_only | apply State.modPar_only
        | refine ite_only ?_ ?_
    | with_reducible intro _ _ _ | with_reducible intro _ _ | exact hL (by decide) | exact List.Subset.trans (by decide) hL | split | (dsimp only)

theorem State.issueAlias_only {L : List Part} {σ : State} (s : State) (hL : [.par, .tack] ⊆ L) (hs : σ.only L s) :
    σ.only L (State.issueAlias s) := by
  unfold State.issueAlias
  repeat' first
    | with_reducible first
        | assumption | apply State.draw_only | apply State.modPar_only | apply State.modPar_only
    | with_reducible intro _ _ _ | with_reducible intro _ _ | exact hL (by decide) | exact List.Subset.trans (by decide) hL | split | (dsimp only)

theorem State.snapBlocks_only {L : List Part} {σ : State} (s : State) (hL : [.par] ⊆ L) (hs : σ.only L s) : σ.only L
    (State.snapBlocks s) := by
  unfold State.snapBlocks
  repeat' first
    | with_reducible first
        | assumption | apply State.modPar_only | apply State.modPar_only
    | with_reducible intro _ _ _ | with_reducible intro _ _ | exact hL (by decide) | exact List.Subset.trans (by decide) hL | split | (dsimp only)

theorem State.mboxDiscard_only {L : List Part} {σ : State} (s : State)
    (hL : [.dmb] ⊆ L) (hs : σ.only L s) : σ.only L (State.mboxDiscard s) := by
  unfold State.mboxDiscard
  repeat' first
    | with_reducible first
        | assumption | apply State.modDmb_only
    | exact hL (by decide)

theorem State.spdmReply_only {L : List Part} {σ : State} (s : State) (t peer code : Nat) (p : Bytes)
    (hL : [.dmb, .out] ⊆ L) (hs : σ.only L s) : σ.only L (State.spdmReply s t peer code p) := by
  unfold State.spdmReply
  repeat' first
    | with_reducible first
        | assumption | apply State.emit_only | apply State.inBand_only | apply State.mboxAnswer_only
        | refine ite_only ?_ ?_
    | exact List.Subset.trans (by decide) hL

theorem State.spdmErr_only {L : List Part} {σ : State} (s : State) (q : SpdmReq) (e : Nat) (data : Bytes)
    (hL : [.dmb, .out] ⊆ L) (hs : σ.only L s) : σ.only L (State.spdmErr s q e data) := by
  unfold State.spdmErr
  repeat' with_reducible first
    | assumption | apply State.spdmReply_only

theorem State.putConn_only {L : List Part} {σ : State} (s : State) (c : SpdmConn)
    (hL : [.par] ⊆ L) (hs : σ.only L s) : σ.only L (State.putConn s c) := by
  unfold State.putConn
  repeat' first
    | with_reducible first
        | assumption | apply State.modPar_only
    | exact hL (by decide)

theorem State.spdmTakes_only {L : List Part} {σ s t : State} {q : SpdmReq} (h : s.spdmTakes q = some t)
    (hL : [.par, .atn] ⊆ L) (hs : σ.only L s) : σ.only L t := by
  unfold State.spdmTakes at h
  split at h
  · cases h; exact hs
  · split at h
    · cases h; exact State.lateMctp_only _ hL hs
    · cases h

theorem State.aliasSign_only {L : List Part} {σ : State} (s : State) (m : Bytes)
    (hL : [.tack] ⊆ L) (hs : σ.only L s) : σ.only L ((State.aliasSign s m).2) := by
  unfold State.aliasSign
  repeat' with_reducible first
    | assumption | apply State.draw_only

theorem State.keyExchangeReply_only {L : List Part} {σ : State} (s : State) (c : SpdmConn) (o : Owed) (hL : [.par,
    .tack, .dmb, .atn, .out] ⊆ L) (hs : σ.only L s) : σ.only L (State.keyExchangeReply s c o) := by
  unfold State.keyExchangeReply
  repeat' first
    | with_reducible first
        | assumption | apply State.putConn_only | apply State.latch_only | apply State.spdmErr_only
        | apply State.freshId_only | apply State.draw_only | apply State.aliasSign_only | apply State.modPar_only
        | apply State.spdmReply_only | apply State.modPar_only | refine ite_only ?_ ?_ | refine ite_only_fst ?_ ?_
        | refine ite_only_snd ?_ ?_
    | with_reducible intro _ _ _ | with_reducible intro _ _ | exact hL (by decide) | exact List.Subset.trans (by decide) hL | split | (dsimp only)

theorem State.signedReply_only {L : List Part} {σ : State} (s : State) (c : SpdmConn) (o : Owed) (hL : [.par, .tack,
    .dmb, .atn, .out] ⊆ L) (hs : σ.only L s) : σ.only L (State.signedReply s c o) := by
  unfold State.signedReply
  repeat' first
    | with_reducible first
        | assumption | apply State.keyExchangeReply_only | apply State.aliasSign_only | apply State.putConn_only
        | apply State.spdmReply_only | refine ite_only ?_ ?_ | refine ite_only_fst ?_ ?_ | refine ite_only_snd ?_ ?_
    | exact hL (by decide) | exact List.Subset.trans (by decide) hL | split | (dsimp only)

theorem State.notReady_only {L : List Part} {σ : State} (s : State) (c : SpdmConn) (o : Owed) (hL : [.par, .dmb, .atn,
    .out] ⊆ L) (hs : σ.only L s) : σ.only L (State.notReady s c o) := by
  unfold State.notReady
  repeat' first
    | with_reducible first
        | assumption | apply State.putConn_only | apply State.latch_only | apply State.spdmReply_only
    | exact hL (by decide) | exact List.Subset.trans (by decide) hL | (dsimp only)

theorem State.signOwed_only {L : List Part} {σ : State} (s : State) (q : SpdmReq) (c : SpdmConn) (code a b : Nat) (hL :
    [.par, .devJobs, .nextJob, .dmb, .atn, .out] ⊆ L) (hs : σ.only L s) : σ.only L (State.signOwed s q c code a b) := by
  unfold State.signOwed
  repeat' first
    | with_reducible first
        | assumption | apply State.addDev_only | apply State.putConn_only | apply State.notReady_only
        | refine ite_only ?_ ?_
    | with_reducible intro _ _ _ | with_reducible intro _ _ | exact hL (by decide) | exact List.Subset.trans (by decide) hL | split | (dsimp only)

theorem State.signDone_only {L : List Part} {σ : State} (s : State) (t peer : Nat) (hL : [.par, .tack, .dmb, .atn, .out]
    ⊆ L) (hs : σ.only L s) : σ.only L (State.signDone s t peer) := by
  unfold State.signDone
  repeat' first
    | with_reducible first
        | assumption | apply State.putConn_only | apply State.signedReply_only | refine ite_only ?_ ?_
    | exact hL (by decide) | exact List.Subset.trans (by decide) hL | split | (dsimp only)

theorem State.signLate_only {L : List Part} {σ : State} (s : State) (hL : [.par, .dmb, .atn, .out] ⊆ L) (hs : σ.only L
    s) : σ.only L (State.signLate s) := by
  unfold State.signLate
  repeat' first
    | with_reducible first
        | assumption | apply State.notReady_only | refine foldl_only _ _ _ ?_ ?_ | refine ite_only ?_ ?_
    | with_reducible intro _ _ _ | with_reducible intro _ _ | exact hL (by decide) | exact List.Subset.trans (by decide) hL | split | (dsimp only)

theorem State.modSpdm_only {L : List Part} {σ : State} (s : State) (sid : Nat) (f : SpdmSess → SpdmSess) (hL : [.par] ⊆
    L) (hs : σ.only L s) : σ.only L (State.modSpdm s sid f) := by
  unfold State.modSpdm
  repeat' first
    | with_reducible first
        | assumption | apply State.modPar_only | apply State.modPar_only | refine ite_only ?_ ?_
    | with_reducible intro _ _ _ | with_reducible intro _ _ | exact hL (by decide) | exact List.Subset.trans (by decide) hL | split | (dsimp only)

theorem State.deadSpdm_only {L : List Part} {σ : State} (s : State) (q : SpdmReq)
    (hL : [.par, .dmb, .atn] ⊆ L) (hs : σ.only L s) : σ.only L (State.deadSpdm s q) := by
  unfold State.deadSpdm
  repeat' first
    | with_reducible first
        | assumption | apply State.modPar_only | apply State.latch_only | apply State.mboxDiscard_only
        | refine ite_only ?_ ?_
    | exact hL (by decide) | exact List.Subset.trans (by decide) hL

theorem State.domainsBoundary_only {L : List Part} {σ : State} (s : State) (hL : [.pwr] ⊆ L) (hs : σ.only L s) : σ.only
    L (State.domainsBoundary s) := by
  unfold State.domainsBoundary
  repeat' first
    | with_reducible first
        | assumption | apply State.modPwr_only | apply State.modPwr_only | refine foldl_only _ _ _ ?_ ?_
        | refine ite_only ?_ ?_ | refine ite_only_fst ?_ ?_ | refine ite_only_snd ?_ ?_
    | with_reducible intro _ _ _ | with_reducible intro _ _ | exact hL (by decide) | exact List.Subset.trans (by decide) hL | split | (dsimp only)

theorem State.dropLink_only {L : List Part} {σ : State} (s : State)
    (hL : [.core, .pwr, .yard, .jobs, .pads, .pmem, .pci, .rdw, .dmb, .atn] ⊆ L) (hs : σ.only L s) : σ.only L
        (State.dropLink s) := by
  unfold State.dropLink
  repeat' first
    | with_reducible first
        | assumption | apply State.hotReset_only | apply State.modPwr_only | refine ite_only ?_ ?_
    | exact hL (by decide) | exact List.Subset.trans (by decide) hL

theorem State.enterSleep_only {L : List Part} {σ : State} (s : State) (hL : [.core, .pwr, .sup, .ports, .yard, .jobs,
    .devJobs, .pads, .pmem, .pci, .rdw, .dmb, .cas, .log, .atn] ⊆ L) (hs : σ.only L s) : σ.only L (State.enterSleep s)
    := by
  unfold State.enterSleep
  repeat' first
    | with_reducible first
        | assumption | apply State.modPwr_only | apply State.ev_only | apply State.dropLink_only
        | apply State.toHold_only | apply State.modJobs_only | apply State.modDevJobs_only | apply State.modYard_only
        | apply State.modLog_only | apply State.modSup_only | apply State.modCas_only | apply State.setOp_only
        | apply State.modPwr_only | apply State.modJobs_only | apply State.modDevJobs_only | apply State.modYard_only
        | apply State.modLog_only | apply State.modSup_only | apply State.modCas_only | refine foldl_only _ _ _ ?_ ?_
        | refine ite_only ?_ ?_
    | with_reducible intro _ _ _ | with_reducible intro _ _ | exact hL (by decide) | exact List.Subset.trans (by decide) hL | split | (dsimp only)

theorem State.finishSleep_only {L : List Part} {σ : State} (s : State)
    (hL : [.core, .pwr, .sup, .boot, .hal, .ports, .shed, .tagTable, .shedLost, .pldm, .par, .tack, .yard, .jobs,
        .devJobs, .nextJob, .pads, .pmem, .pci, .rdw, .rdwSc, .dmb, .cas, .dict, .log, .lc, .mon, .atn] ⊆ L) (hs :
            σ.only L s) : σ.only L (State.finishSleep s) := by
  unfold State.finishSleep
  repeat' first
    | with_reducible first
        | assumption | apply State.draw_only | apply State.modTack_only | apply State.modPwr_only
        | apply State.wakeNow_only
    | exact hL (by decide) | exact List.Subset.trans (by decide) hL | split | dsimp only

theorem State.sleepFrame_only {L : List Part} {σ : State} (s : State)
    (hL : [.core, .pwr, .sup, .boot, .hal, .ports, .shed, .tagTable, .shedLost, .pldm, .par, .tack, .yard, .jobs,
        .devJobs, .nextJob, .pads, .pmem, .pci, .rdw, .rdwSc, .dmb, .cas, .dict, .log, .lc, .mon, .atn] ⊆ L) (hs :
            σ.only L s) : σ.only L (State.sleepFrame s) := by
  unfold State.sleepFrame
  repeat' first
    | with_reducible first
        | assumption | apply State.finishSleep_only
    | split

theorem State.keyLink_only {L : List Part} {σ : State} (s : State) (peer : Nat) (secret transcript : Bytes) (hL : [.cas]
    ⊆ L) (hs : σ.only L s) : σ.only L (State.keyLink s peer secret transcript) := by
  unfold State.keyLink
  repeat' first
    | with_reducible first
        | assumption | apply State.modCas_only | apply State.modCas_only
    | with_reducible intro _ _ _ | with_reducible intro _ _ | exact hL (by decide) | exact List.Subset.trans (by decide) hL | (dsimp only)

theorem State.formFails_only {L : List Part} {σ : State} (s : State) (step : Nat)
    (hL : [.cas, .log, .atn] ⊆ L) (hs : σ.only L s) : σ.only L (State.formFails s step) := by
  unfold State.formFails
  repeat' first
    | with_reducible first
        | assumption | apply State.modCas_only | apply State.latch_only | apply State.ev_only
    | exact hL (by decide) | exact List.Subset.trans (by decide) hL

theorem State.refuseLink_only {L : List Part} {σ : State} (s : State) (facts : List Nat)
    (hL : [.log, .atn] ⊆ L) (hs : σ.only L s) : σ.only L (State.refuseLink s facts) := by
  unfold State.refuseLink
  repeat' first
    | with_reducible first
        | assumption | apply State.latch_only | apply State.ev_only
    | exact List.Subset.trans (by decide) hL

theorem State.heard_only {L : List Part} {σ : State} (s : State) (d : Nat)
    (hL : [.cas] ⊆ L) (hs : σ.only L s) : σ.only L (State.heard s d) := by
  unfold State.heard
  repeat' first
    | with_reducible first
        | assumption | apply State.modCas_only
    | exact hL (by decide)

theorem State.orphan_only {L : List Part} {σ : State} (s : State)
    (hL : [.tack, .yard, .jobs, .devJobs, .nextJob, .pads, .cas, .log, .atn] ⊆ L) (hs : σ.only L s) : σ.only L
        (State.orphan s) := by
  unfold State.orphan
  repeat' first
    | with_reducible first
        | assumption | apply State.modCas_only | apply State.abortJob_only | apply State.eraseKey_only
        | apply State.latch_only | apply State.ev_only | refine foldl_only _ _ _ ?_ ?_
    | exact hL (by decide) | exact List.Subset.trans (by decide) hL | intro _ _ _ | split

theorem State.changeReplica_only {L : List Part} {σ : State} (s : State) (master what : Nat) (secret : Bytes) (hL :
    [.tack, .devJobs, .nextJob, .cas] ⊆ L) (hs : σ.only L s) : σ.only L (State.changeReplica s master what secret) := by
  unfold State.changeReplica
  repeat' first
    | with_reducible first
        | assumption | apply State.revokeKey_only | apply State.eraseKey_only | apply State.rewriteKey_only
        | apply State.modTack_only | apply State.modTack_only | refine ite_only ?_ ?_
    | with_reducible intro _ _ _ | with_reducible intro _ _ | exact hL (by decide) | exact List.Subset.trans (by decide) hL | split | (dsimp only)

theorem State.runReplicas_only {L : List Part} {σ : State} (s : State) (hL : [.tack, .devJobs, .nextJob, .cas] ⊆ L) (hs
    : σ.only L s) : σ.only L (State.runReplicas s) := by
  unfold State.runReplicas
  repeat' first
    | with_reducible first
        | assumption | apply State.changeReplica_only | apply State.modCas_only | apply State.modCas_only
        | refine foldl_only _ _ _ ?_ ?_
    | with_reducible intro _ _ _ | with_reducible intro _ _ | exact hL (by decide) | exact List.Subset.trans (by decide) hL | split | (dsimp only)

theorem State.sendChanges_only {L : List Part} {σ : State} (s : State)
    (hL : [.cas, .out] ⊆ L) (hs : σ.only L s) : σ.only L (State.sendChanges s) := by
  unfold State.sendChanges
  repeat' first
    | with_reducible first
        | assumption | apply State.modCas_only | apply State.linkSend_only | refine foldl_only _ _ _ ?_ ?_
        | refine ite_only ?_ ?_
    | exact hL (by decide) | intro _ _ _

theorem State.forward_only {L : List Part} {σ : State} (s : State) (j : Job) (d : Nat)
    (hL : [.tack, .yard, .jobs, .cas, .log, .atn, .out] ⊆ L) (hs : σ.only L s) : σ.only L (State.forward s j d) := by
  unfold State.forward
  repeat' first
    | with_reducible first
        | assumption | apply State.dukptFail_only | apply State.endJob_only | apply State.takeJobUses_only
        | apply State.modJob_only | apply State.modCas_only | apply State.linkSend_only
    | exact hL (by decide) | exact List.Subset.trans (by decide) hL | split | dsimp only

theorem State.forwardJobs_only {L : List Part} {σ : State} (s : State)
    (hL : [.tack, .yard, .jobs, .cas, .log, .atn, .out] ⊆ L) (hs : σ.only L s) : σ.only L (State.forwardJobs s) := by
  unfold State.forwardJobs
  repeat' first
    | with_reducible first
        | assumption | apply State.endJob_only | apply State.modCas_only | apply State.forward_only
        | refine foldl_only _ _ _ ?_ ?_
    | exact hL (by decide) | exact List.Subset.trans (by decide) hL | intro _ _ _ | split

theorem State.passJobs_only {L : List Part} {σ : State} (s : State)
    (hL : [.jobs] ⊆ L) (hs : σ.only L s) : σ.only L (State.passJobs s) := by
  unfold State.passJobs
  repeat' first
    | with_reducible first
        | assumption | apply State.modJobs_only | refine ite_only ?_ ?_
    | exact hL (by decide)

theorem State.runCancels_only {L : List Part} {σ : State} (s : State)
    (hL : [.yard, .jobs, .pads, .cas] ⊆ L) (hs : σ.only L s) : σ.only L (State.runCancels s) := by
  unfold State.runCancels
  repeat' first
    | with_reducible first
        | assumption | apply State.modCas_only | apply State.abortJob_only | refine foldl_only _ _ _ ?_ ?_
    | exact hL (by decide) | exact List.Subset.trans (by decide) hL | intro _ _ _ | split

theorem State.promote_only {L : List Part} {σ : State} (s : State)
    (hL : [.cas, .dict, .log, .out] ⊆ L) (hs : σ.only L s) : σ.only L (State.promote s) := by
  unfold State.promote
  repeat' first
    | with_reducible first
        | assumption | apply State.storeNow_only | apply State.modCas_only | apply State.linkSend_only
        | apply State.ev_only
    | exact hL (by decide) | exact List.Subset.trans (by decide) hL

theorem State.lcRequest_only {L : List Part} {σ : State} (s : State) (v : Bytes)
    (hL : [.lc, .atn] ⊆ L) (hs : σ.only L s) : σ.only L (State.lcRequest s v) := by
  unfold State.lcRequest
  repeat' first
    | with_reducible first
        | assumption | apply State.putMark_only | apply State.latch_only
    | exact List.Subset.trans (by decide) hL

theorem State.endNonce_only {L : List Part} {σ : State} (s : State)
    (hL : [.lc] ⊆ L) (hs : σ.only L s) : σ.only L (State.endNonce s) := by
  unfold State.endNonce
  repeat' first
    | with_reducible first
        | assumption | apply State.modLc_only
    | exact hL (by decide)

theorem State.debugOpen_only {L : List Part} {σ : State} (s : State) (t : Bytes)
    (hL : [.lc] ⊆ L) (hs : σ.only L s) : σ.only L (State.debugOpen s t) := by
  unfold State.debugOpen
  repeat' first
    | with_reducible first
        | assumption | apply State.modLc_only
    | exact hL (by decide)

theorem State.openScopes_only {L : List Part} {σ : State} (s : State)
    (hL : [.ports, .par, .yard, .jobs, .pads, .dict, .log, .lc, .atn] ⊆ L) (hs : σ.only L s) : σ.only L
        (State.openScopes s) := by
  unfold State.openScopes
  repeat' first
    | with_reducible first
        | assumption | apply State.modLc_only | apply State.latch_only | apply State.modPar_only
        | apply State.strikeLanes_only | apply State.endSessions_only | apply State.endSpdm_only
        | apply State.endDtls_only | refine foldl_only _ _ _ ?_ ?_ | refine ite_only ?_ ?_
    | exact hL (by decide) | exact List.Subset.trans (by decide) hL | intro _ _ _

end Sys2Proof.Machine
end

