-- ==== Sys2Proof/Laws/OnlyDict.lean ====
section
/-! SUPPORT. What the operations of Entries, Changes, Sessions, JobRows, Requests, Access, Holding, Boundary leave
    alone. -/

set_option maxRecDepth 20000

namespace Sys2Proof.Machine

open Sys2Proof

theorem State.confirmTrial_only {L : List Part} {σ : State} (s : State)
    (hL : [.boot, .log, .atn] ⊆ L) (hs : σ.only L s) : σ.only L (State.confirmTrial s) := by
  unfold State.confirmTrial
  repeat' first
    | with_reducible first
        | assumption | apply State.putLedger_only | apply State.modBoot_only | apply State.latch_only
    | exact hL (by decide) | exact List.Subset.trans (by decide) hL | split

theorem State.confirmPort_only {L : List Part} {σ : State} (s : State) (n : Nat)
    (hL : [.ports, .log, .atn] ⊆ L) (hs : σ.only L s) : σ.only L (State.confirmPort s n) := by
  unfold State.confirmPort
  repeat' first
    | with_reducible first
        | assumption | apply State.putPortLedger_only | apply State.modPort_only | apply State.latch_only
        | apply State.ev_only
    | exact List.Subset.trans (by decide) hL | split

theorem State.manifestWritten_only {L : List Part} {σ : State} (s : State) (n : Nat) (x : Slot) (v : Bytes)
    (hL : [.ports, .log] ⊆ L) (hs : σ.only L s) : σ.only L (State.manifestWritten s n x v) := by
  unfold State.manifestWritten
  repeat' first
    | with_reducible first
        | assumption | apply State.modPort_only | apply State.putPortLedger_only | refine ite_only ?_ ?_
    | exact List.Subset.trans (by decide) hL

theorem State.timetableLoaded_only {L : List Part} {σ : State} (s : State) (v : Bytes) (hL : [.yard, .log, .atn] ⊆ L)
    (hs : σ.only L s) : σ.only L (State.timetableLoaded s v) := by
  unfold State.timetableLoaded
  repeat' first
    | with_reducible first
        | assumption | apply State.discardSwitch_only | apply State.modYard_only | apply State.latch_only
        | apply State.modYard_only | refine ite_only ?_ ?_
    | with_reducible intro _ _ _ | with_reducible intro _ _ | exact hL (by decide) | exact List.Subset.trans (by decide) hL | split | (dsimp only)

theorem State.srkGenerated_only {L : List Part} {σ : State} (s : State)
    (hL : [.tack, .devJobs, .nextJob, .cas] ⊆ L) (hs : σ.only L s) : σ.only L (State.srkGenerated s) := by
  unfold State.srkGenerated
  repeat' first
    | with_reducible first
        | assumption | apply State.deriveHampers_only | apply State.draw_only | apply State.modTack_only | apply State.eraseKey_only
        | refine foldl_only _ _ _ ?_ ?_
    | exact hL (by decide) | exact List.Subset.trans (by decide) hL | intro _ _ _

theorem State.monoAdd_only {L : List Part} {σ : State} (s : State) (n k : Nat) (hL : [.tack] ⊆ L) (hs : σ.only L s) :
    σ.only L ((State.monoAdd s n k).2) := by
  unfold State.monoAdd
  repeat' first
    | with_reducible first
        | assumption | apply State.modTack_only | apply State.modTack_only | refine ite_only ?_ ?_
        | refine ite_only_snd ?_ ?_
    | with_reducible intro _ _ _ | with_reducible intro _ _ | exact hL (by decide) | exact List.Subset.trans (by decide) hL | split | (dsimp only)

theorem State.retestPairs_only {L : List Part} {σ : State} (s : State)
    (hL : [.devJobs, .nextJob] ⊆ L) (hs : σ.only L s) : σ.only L (State.retestPairs s) := by
  unfold State.retestPairs
  repeat' first
    | with_reducible first
        | assumption | apply State.addDev_only | refine foldl_only _ _ _ ?_ ?_ | refine ite_only ?_ ?_
    | intro _ _ _

theorem State.clearHolds_only {L : List Part} {σ : State} (s : State) (w : Nat)
    (hL : [.hal, .log, .mon, .atn] ⊆ L) (hs : σ.only L s) : σ.only L (State.clearHolds s w) := by
  unfold State.clearHolds
  repeat' first
    | with_reducible first
        | assumption | apply State.endPortHold_only | apply State.endAlarmHold_only | refine foldl_only _ _ _ ?_ ?_
        | refine ite_only ?_ ?_
    | exact List.Subset.trans (by decide) hL | intro _ _ _

theorem State.commit_only {L : List Part} {σ : State} (s : State)
    (hL : [.dict, .atn] ⊆ L) (hs : σ.only L s) : σ.only L (State.commit s) := by
  unfold State.commit
  repeat' first
    | with_reducible first
        | assumption | apply State.modDict_only | apply State.latch_only
    | exact hL (by decide) | exact List.Subset.trans (by decide) hL

theorem State.applyPlatform_only {L : List Part} {σ : State} (s : State) (key : Nat) (v : Bytes) (hL : [.core, .boot,
    .hal, .ports, .log, .mon, .atn] ⊆ L) (hs : σ.only L s) : σ.only L (State.applyPlatform s key v) := by
  unfold State.applyPlatform
  repeat' first
    | with_reducible first
        | assumption | apply State.putLedger_only | apply State.confirmTrial_only | apply State.fullResetDue_only
        | apply State.resumeSchedule_only | apply State.clearHolds_only | apply State.manifestWritten_only
        | apply State.advertise_only | apply State.portActivate_only | apply State.confirmPort_only
        | apply State.recoverAsk_only | refine ite_only ?_ ?_
    | with_reducible intro _ _ _ | with_reducible intro _ _ | exact hL (by decide) | exact List.Subset.trans (by decide) hL | split | (dsimp only)

theorem State.applyUnit_only {L : List Part} {σ : State} (s : State) (key : Nat) (v : Bytes)
    (hL : [.core, .pwr, .boot, .hal, .ports, .par, .tack, .yard, .devJobs, .nextJob, .cas, .dict, .log, .lc, .mon,
        .atn, .out] ⊆ L) (hs : σ.only L s) : σ.only L ((State.applyUnit s key v).2) := by
  unfold State.applyUnit
  repeat' first
    | with_reducible first
        | assumption | apply State.commit_only | apply State.lcRequest_only | apply State.putMark_only
        | apply State.debugOpen_only | apply State.endNonce_only | apply State.srkGenerated_only
        | apply State.runCommand_only | apply State.timetableLoaded_only | apply State.modYard_only
        | apply State.retestPairs_only | apply State.clearMonitors_only | apply State.beginTest_only
        | apply State.modPwr_only | apply State.logLatches_only | apply State.promote_only
        | apply State.clearLeaves_only | apply State.modDict_only | apply State.latch_only
        | apply State.policyWritten_only | apply State.monoAdd_only | apply State.modAtn_only
        | apply State.applyPlatform_only | refine ite_only ?_ ?_ | refine ite_only_snd ?_ ?_
    | exact hL (by decide) | exact List.Subset.trans (by decide) hL | split

theorem State.clearActing_only {L : List Part} {σ : State} (s : State)
    (hL : [.core, .dict] ⊆ L) (hs : σ.only L s) : σ.only L (State.clearActing s) := by
  unfold State.clearActing
  repeat' first
    | with_reducible first
        | assumption | apply State.storeNow_only | apply State.fullResetDue_only | refine ite_only ?_ ?_
    | exact List.Subset.trans (by decide) hL

theorem State.written_only {L : List Part} {σ : State} (s : State) (key : Nat) (v : Bytes) (hL : [.dict] ⊆ L) (hs :
    σ.only L s) : σ.only L (State.written s key v) := by
  unfold State.written
  repeat' first
    | with_reducible first
        | assumption | apply State.setVal_only | apply State.modDict_only | apply State.modDict_only
        | refine ite_only ?_ ?_
    | with_reducible intro _ _ _ | with_reducible intro _ _ | exact hL (by decide) | exact List.Subset.trans (by decide) hL | split | (dsimp only)

theorem State.applyEntry_only {L : List Part} {σ : State} (s : State) (key : Nat) (v : Bytes)
    (hL : [.core, .pwr, .boot, .hal, .ports, .par, .tack, .yard, .devJobs, .nextJob, .cas, .dict, .log, .lc, .mon,
        .atn, .out] ⊆ L) (hs : σ.only L s) : σ.only L ((State.applyEntry s key v).2) := by
  unfold State.applyEntry
  repeat' first
    | with_reducible first
        | assumption | apply State.clearActing_only | apply State.written_only | apply State.modTack_only
        | apply State.applyUnit_only | refine ite_only_snd ?_ ?_
    | exact hL (by decide) | exact List.Subset.trans (by decide) hL

theorem State.restoreDefaults_only {L : List Part} {σ : State} (s : State)
    (hL : [.core, .pwr, .boot, .hal, .ports, .par, .tack, .yard, .devJobs, .nextJob, .cas, .dict, .log, .lc, .mon,
        .atn, .out] ⊆ L) (hs : σ.only L s) : σ.only L (State.restoreDefaults s) := by
  unfold State.restoreDefaults
  repeat' first
    | with_reducible first
        | assumption | apply State.modDict_only | apply State.applyEntry_only | apply State.latch_only
        | refine foldl_only _ _ _ ?_ ?_ | refine ite_only ?_ ?_
    | exact hL (by decide) | exact List.Subset.trans (by decide) hL | intro _ _ _

theorem State.finish_only {L : List Part} {σ : State} (s : State) (d : LogDesc) (r : Reply)
    (hL : [.dmb, .cas, .dict, .out] ⊆ L) (hs : σ.only L s) : σ.only L (State.finish s d r) := by
  unfold State.finish
  repeat' first
    | with_reducible first
        | assumption | apply State.answer_only | apply State.linkSend_only | refine ite_only ?_ ?_
    | exact List.Subset.trans (by decide) hL

theorem State.dropProposal_only {L : List Part} {σ : State} (s : State) (p : Proposal) (hL : [.dict, .atn] ⊆ L) (hs :
    σ.only L s) : σ.only L (State.dropProposal s p) := by
  unfold State.dropProposal
  repeat' first
    | with_reducible first
        | assumption | apply State.modDict_only | apply State.latch_only | apply State.modDict_only
    | with_reducible intro _ _ _ | with_reducible intro _ _ | exact hL (by decide) | exact List.Subset.trans (by decide) hL | (dsimp only)

theorem State.endProposal_only {L : List Part} {σ : State} (s : State) (p : Proposal) (code : Nat) (hL : [.dict, .log,
    .atn] ⊆ L) (hs : σ.only L s) : σ.only L (State.endProposal s p code) := by
  unfold State.endProposal
  repeat' first
    | with_reducible first
        | assumption | apply State.dropProposal_only | apply State.logEv_only
    | exact hL (by decide) | exact List.Subset.trans (by decide) hL | (dsimp only)

theorem State.refusedValue_only {L : List Part} {σ : State} (s : State) (key : Nat) (v : Bytes) (e : Nat)
    (hL : [.tack, .log, .lc, .atn] ⊆ L) (hs : σ.only L s) : σ.only L (State.refusedValue s key v e) := by
  unfold State.refusedValue
  repeat' first
    | with_reducible first
        | assumption | apply State.latch_only | apply State.ev_only | apply State.modTack_only
        | apply State.endNonce_only
    | exact hL (by decide) | exact List.Subset.trans (by decide) hL | split

theorem State.effFail_only {L : List Part} {σ : State} (s : State) (d : LogDesc) (e : Effect) (st : Nat)
    (hL : [.tack, .yard, .jobs, .pci, .dmb, .cas, .dict, .log, .lc, .atn, .out] ⊆ L) (hs : σ.only L s) : σ.only L
        (State.effFail s d e st) := by
  unfold State.effFail
  repeat' first
    | with_reducible first
        | assumption | apply State.endJob_only | apply State.mgrRefuse_only | apply State.refusedValue_only
        | apply State.finish_only
    | exact List.Subset.trans (by decide) hL | split

theorem State.takeWrite_only {L : List Part} {σ : State} (s : State) (key : Nat) (v : Bytes)
    (hL : [.core, .pwr, .boot, .hal, .ports, .par, .tack, .yard, .devJobs, .nextJob, .cas, .dict, .log, .lc, .mon,
        .atn, .out] ⊆ L) (hs : σ.only L s) : σ.only L ((State.takeWrite s key v).2) := by
  unfold State.takeWrite
  repeat' with_reducible first
    | assumption | apply State.applyEntry_only | apply State.restoreDefaults_only | refine ite_only_snd ?_ ?_

theorem State.sendRemote_only {L : List Part} {σ : State} (s : State) (target key : Nat) (v : Bytes)
    (hL : [.cas, .out] ⊆ L) (hs : σ.only L s) : σ.only L (State.sendRemote s target key v) := by
  unfold State.sendRemote
  repeat' with_reducible first
    | assumption | apply State.linkSend_only

theorem State.effApply_only {L : List Part} {σ : State} (s : State) (d : LogDesc) (e : Effect) (hL : changeParts ⊆ L)
    (hs : σ.only L s) : σ.only L (State.effApply s d e) := by
  unfold State.effApply
  repeat' first
    | with_reducible first
        | assumption | apply State.takeWrite_only | apply State.finish_only | apply State.endProposal_only
        | apply State.modDict_only | apply State.latch_only | apply State.sendRemote_only | apply State.jobApply_only
        | apply State.modTack_only | apply State.mgrApply_only | apply State.dropProposal_only
        | apply State.modDict_only | apply State.modTack_only | refine foldl_only _ _ _ ?_ ?_ | refine ite_only ?_ ?_
        | refine ite_only_fst ?_ ?_ | refine ite_only_snd ?_ ?_
    | with_reducible intro _ _ _ | with_reducible intro _ _ | exact hL (by decide) | exact List.Subset.trans (by decide) hL | split | (dsimp only)

theorem State.writeChange_only {L : List Part} {σ : State} (s : State) (d : LogDesc) (e : Effect) (hL : changeParts ⊆ L)
    (hs : σ.only L s) : σ.only L (State.writeChange s d e) := by
  unfold State.writeChange
  repeat' first
    | with_reducible first
        | assumption | apply State.effFail_only | apply State.writeEvent_only | apply State.ringPut_only
        | apply State.effApply_only | refine ite_only ?_ ?_
    | with_reducible intro _ _ _ | with_reducible intro _ _ | exact hL (by decide) | exact List.Subset.trans (by decide) hL | split | (dsimp only)

theorem State.writeDue_only {L : List Part} {σ : State} (n : Nat) (s : State) (hL : changeParts ⊆ L)
    (hs : σ.only L s) : σ.only L (State.writeDue n s) := by
  induction n generalizing s with
  | zero => exact hs
  | succ n ih =>
    unfold State.writeDue
    repeat' first
      | with_reducible first
          | assumption | apply ih | apply State.summarise_only | apply State.writeEvent_only
          | apply State.writeChange_only | apply State.effFail_only | apply State.modLog_only
      | exact hL (by decide) | exact List.Subset.trans (by decide) hL | split

theorem State.logChange_only {L : List Part} {σ : State} (s : State) (d : LogDesc) (e : Effect)
    (hL : changeParts ⊆ L) (hs : σ.only L s) : σ.only L (State.logChange s d e) := by
  unfold State.logChange
  repeat' first
    | with_reducible first
        | assumption | apply State.effFail_only | apply State.logDueAdd_only | apply State.writeChange_only
        | refine ite_only ?_ ?_
    | exact List.Subset.trans (by decide) hL

theorem State.askJob_only {L : List Part} {σ : State} (s : State) (id : Nat)
    (hL : changeParts ⊆ L) (hs : σ.only L s) : σ.only L (State.askJob s id) := by
  unfold State.askJob
  repeat' first
    | with_reducible first
        | assumption | apply State.logChange_only
    | split

theorem State.askWrite_only {L : List Part} {σ : State} (s : State) (x : Sess) (key : Nat) (v : Bytes)
    (hL : changeParts ⊆ L) (hs : σ.only L s) : σ.only L (State.askWrite s x key v) := by
  unfold State.askWrite
  repeat' first
    | with_reducible first
        | assumption | apply State.finish_only | apply State.logChange_only | refine ite_only ?_ ?_
    | exact List.Subset.trans (by decide) hL

theorem State.askManager_only {L : List Part} {σ : State} (s : State) (d : LogDesc) (sess : Option Nat) (c : Bytes)
    (hL : changeParts ⊆ L) (hs : σ.only L s) : σ.only L (State.askManager s d sess c) := by
  unfold State.askManager
  repeat' first
    | with_reducible first
        | assumption | apply State.mgrRefuse_only | apply State.logEv_only | apply State.mgrApply_only
        | apply State.logChange_only | refine ite_only ?_ ?_
    | exact List.Subset.trans (by decide) hL

theorem State.writeExport_only {L : List Part} {σ : State} (s : State) (x : Sess) (key : Nat) (v : Bytes)
    (hL : [.ports, .dmb, .cas, .dict, .log, .atn, .out] ⊆ L) (hs : σ.only L s) : σ.only L (State.writeExport s x key
        v) := by
  unfold State.writeExport
  repeat' first
    | with_reducible first
        | assumption | apply State.written_only | apply State.modLog_only | apply State.logLatches_only
        | apply State.latch_only | apply State.logEv_only | apply State.finish_only | refine ite_only ?_ ?_
    | exact hL (by decide) | exact List.Subset.trans (by decide) hL

theorem State.writeReady_only {L : List Part} {σ : State} (s : State) (x : Sess) (key : Nat) (v : Bytes) (hL :
    changeParts ⊆ L) (hs : σ.only L s) : σ.only L (State.writeReady s x key v) := by
  unfold State.writeReady
  repeat' first
    | with_reducible first
        | assumption | apply State.refusedValue_only | apply State.finish_only | apply State.askWrite_only
        | refine ite_only ?_ ?_
    | exact hL (by decide) | exact List.Subset.trans (by decide) hL | split | (dsimp only)

theorem State.writeValue_only {L : List Part} {σ : State} (s : State) (x : Sess) (key : Nat) (v : Bytes) (hL :
    changeParts ⊆ L) (hs : σ.only L s) : σ.only L (State.writeValue s x key v) := by
  unfold State.writeValue
  repeat' first
    | with_reducible first
        | assumption | apply State.finish_only | apply State.written_only | apply State.askManager_only
        | apply State.askWrite_only | apply State.addDev_only | apply State.refusedValue_only
        | apply State.writeExport_only | refine ite_only ?_ ?_
    | exact hL (by decide) | exact List.Subset.trans (by decide) hL | split | (dsimp only)

theorem State.approveReady_only {L : List Part} {σ : State} (s : State) (x : Sess) (id : Nat) (hL : changeParts ⊆ L) (hs
    : σ.only L s) : σ.only L (State.approveReady s x id) := by
  unfold State.approveReady
  repeat' first
    | with_reducible first
        | assumption | apply State.finish_only | apply State.refusedValue_only | apply State.logChange_only
        | refine ite_only ?_ ?_
    | exact hL (by decide) | exact List.Subset.trans (by decide) hL | split | (dsimp only)

theorem State.approveBy_only {L : List Part} {σ : State} (s : State) (x : Sess) (id : Nat) (digest : Bytes) (hL :
    changeParts ⊆ L) (hs : σ.only L s) : σ.only L (State.approveBy s x id digest) := by
  unfold State.approveBy
  repeat' first
    | with_reducible first
        | assumption | apply State.finish_only | apply State.addDev_only | apply State.approveReady_only
        | refine ite_only ?_ ?_
    | exact hL (by decide) | exact List.Subset.trans (by decide) hL | split | (dsimp only)

theorem State.withdrawBy_only {L : List Part} {σ : State} (s : State) (x : Sess) (id : Nat) (hL : changeParts ⊆ L) (hs :
    σ.only L s) : σ.only L (State.withdrawBy s x id) := by
  unfold State.withdrawBy
  repeat' first
    | with_reducible first
        | assumption | apply State.finish_only | apply State.logChange_only | refine ite_only ?_ ?_
    | exact hL (by decide) | exact List.Subset.trans (by decide) hL | split | (dsimp only)

theorem State.dictDiscard_only {L : List Part} {σ : State} (s : State)
    (hL : [.dict, .atn, .out] ⊆ L) (hs : σ.only L s) : σ.only L (State.dictDiscard s) := by
  unfold State.dictDiscard
  repeat' first
    | with_reducible first
        | assumption | apply State.modDict_only | apply State.latch_only | apply State.emit_only
    | exact hL (by decide) | exact List.Subset.trans (by decide) hL

theorem State.dictOff_only {L : List Part} {σ : State} (s : State) (iface : Nat)
    (hL : [.par, .dmb, .atn, .out] ⊆ L) (hs : σ.only L s) : σ.only L (State.dictOff s iface) := by
  unfold State.dictOff
  repeat' first
    | with_reducible first
        | assumption | apply State.emit_only | apply State.lateMctp_only | apply State.latch_only
        | apply State.mboxDiscard_only | refine ite_only ?_ ?_
    | exact List.Subset.trans (by decide) hL

theorem State.touch_only {L : List Part} {σ : State} (s : State) (x : Sess) (hL : [.dict] ⊆ L) (hs : σ.only L s) :
    σ.only L (State.touch s x) := by
  unfold State.touch
  repeat' first
    | with_reducible first
        | assumption | apply State.modSession_only | apply State.modDict_only | apply State.modDict_only
        | refine ite_only ?_ ?_
    | with_reducible intro _ _ _ | with_reducible intro _ _ | exact hL (by decide) | exact List.Subset.trans (by decide) hL | split | (dsimp only)

theorem State.request_only {L : List Part} {σ : State} (s : State) (r : Req) (op : Nat) (f : State → Sess → State)
    (hL : [.par, .dmb, .dict, .atn, .out] ⊆ L) (hf : ∀ s x, σ.only L s → σ.only L (f s x)) (hs : σ.only L s) :
    σ.only L (s.request r op f) := by
  unfold State.request
  repeat' first
    | with_reducible first
        | assumption | apply hf | apply State.modSession_only | apply State.sendReply_only | apply State.touch_only
        | apply State.dictOff_only | apply State.dictDiscard_only
    | exact List.Subset.trans (by decide) hL | split

theorem State.reply_only {L : List Part} {σ : State} (s : State) (x : Sess) (r : Reply)
    (hL : [.dmb, .dict, .out] ⊆ L) (hs : σ.only L s) : σ.only L (State.reply s x r) := by
  unfold State.reply
  repeat' with_reducible first
    | assumption | apply State.answer_only

theorem State.withApproval_only {L : List Part} {σ : State} (s : State) (r : Req) (op : Nat) (f : State → Sess → State)
    (hL : changeParts ⊆ L)
    (hf : ∀ s x, σ.only L s → σ.only L (f s x)) (hs : σ.only L s) : σ.only L (s.withApproval r op f) := by
  have h := State.request_only s r op f (List.Subset.trans (by decide) hL) hf hs
  unfold State.withApproval
  repeat' first
    | with_reducible first
        | assumption | apply State.request_only | apply State.approveBy_only
    | exact List.Subset.trans (by decide) hL | intro _ _ _ | split | dsimp only

theorem State.writeRow_only {L : List Part} {σ : State} (s : State) (r : Req) (key : Nat) (v : Bytes)
    (hL : changeParts ⊆ L) (hs : σ.only L s) : σ.only L (State.writeRow s r key v) := by
  unfold State.writeRow
  repeat' first
    | with_reducible first
        | assumption | apply State.withApproval_only | apply State.modSession_only | apply State.writeValue_only
        | refine ite_only ?_ ?_
    | exact List.Subset.trans (by decide) hL | intro _ _ _

theorem State.dropChannel_only {L : List Part} {σ : State} (s : State) (c : Chan)
    (hL : [.par, .dict, .log, .atn] ⊆ L) (hs : σ.only L s) : σ.only L (State.dropChannel s c) := by
  unfold State.dropChannel
  repeat' first
    | with_reducible first
        | assumption | apply State.endSpdm_only | apply State.endDtls_only | refine foldl_only _ _ _ ?_ ?_
    | exact List.Subset.trans (by decide) hL | intro _ _ _

theorem State.authFails_only {L : List Part} {σ : State} (s : State) (x : Sess) (seq : Nat)
    (hL : [.par, .dmb, .dict, .log, .atn, .out] ⊆ L) (hs : σ.only L s) : σ.only L (State.authFails s x seq) := by
  unfold State.authFails
  repeat' first
    | with_reducible first
        | assumption | apply State.latch_only | apply State.logEv_only | apply State.sendReply_only
        | apply State.modDict_only | apply State.dropChannel_only | refine ite_only ?_ ?_
    | exact hL (by decide) | exact List.Subset.trans (by decide) hL

theorem State.authDone_only {L : List Part} {σ : State} (s : State) (x : Sess) (seq : Nat) (key : Bytes) (ok : Bool) (hL
    : [.par, .dmb, .dict, .log, .atn, .out] ⊆ L) (hs : σ.only L s) : σ.only L (State.authDone s x seq key ok) := by
  unfold State.authDone
  repeat' first
    | with_reducible first
        | assumption | apply State.modSession_only | apply State.authFails_only | apply State.latch_only
        | apply State.logEv_only | apply State.sendReply_only | refine ite_only ?_ ?_
    | with_reducible intro _ _ _ | with_reducible intro _ _ | exact hL (by decide) | exact List.Subset.trans (by decide) hL | split | (dsimp only)

theorem State.readOn_only {L : List Part} {σ : State} (s : State) (x : Sess) (key off : Nat)
    (hL : [.tack, .dmb, .cas, .dict, .lc, .out] ⊆ L) (hs : σ.only L s) : σ.only L (State.readOn s x key off) := by
  unfold State.readOn
  repeat' first
    | with_reducible first
        | assumption | apply State.finish_only | apply State.draw_only | apply State.modLc_only | refine ite_only ?_ ?_
    | exact hL (by decide) | exact List.Subset.trans (by decide) hL

theorem State.remoteMaster_only {L : List Part} {σ : State} (s : State) (x : Sess) (target op key : Nat) (v : Bytes)
    (answer : Option Reply)
    (hL : changeParts ⊆ L) (hs : σ.only L s) : σ.only L (State.remoteMaster s x target op key v answer) := by
  unfold State.remoteMaster
  repeat' first
    | with_reducible first
        | assumption | apply State.finish_only | apply State.approveBy_only | apply State.withdrawBy_only
        | apply State.sendRemote_only | apply State.logChange_only | refine ite_only ?_ ?_
    | exact List.Subset.trans (by decide) hL

theorem State.remoteMember_only {L : List Part} {σ : State} (s : State) (detail role op key : Nat) (v : Bytes)
    (hL : changeParts ⊆ L) (hs : σ.only L s) : σ.only L (State.remoteMember s detail role op key v) := by
  unfold State.remoteMember
  repeat' first
    | with_reducible first
        | assumption | apply State.readOn_only | apply State.writeValue_only | apply State.finish_only
        | refine ite_only ?_ ?_
    | exact List.Subset.trans (by decide) hL

theorem State.performNow_only {L : List Part} {σ : State} (s : State) (op id : Nat) (f : State → Job → Ending)
    (hL : [.yard, .jobs] ⊆ L) (hs : σ.only L s) : σ.only L (s.performNow op id f) := by
  unfold State.performNow
  split
  · exact hs
  · exact ite_only (State.settle_only _ _ _ hL hs) hs

theorem State.mgrMailbox_only {L : List Part} {σ : State} (s : State) (c : Bytes)
    (hL : changeParts ⊆ L) (hs : σ.only L s) : σ.only L (State.mgrMailbox s c) := by
  unfold State.mgrMailbox
  repeat' first
    | with_reducible first
        | assumption | apply State.modPci_only | apply State.askManager_only
    | exact hL (by decide)

theorem State.manage_only {L : List Part} {σ : State} (s : State) (via : Via) (code : Nat) (cmd : Bytes)
    (hL : changeParts ⊆ L) (hs : σ.only L s) : σ.only L (State.manage s via code cmd) := by
  unfold State.manage
  repeat' first
    | with_reducible first
        | assumption | apply State.writeRow_only | apply State.mgrMailbox_only
    | split

theorem State.writeRdw_only {L : List Part} {σ : State} (s : State) (w : Bool) (off : Nat) (d : Bytes)
    (hL : [.yard, .jobs, .nextJob, .pads, .rdw, .rdwSc] ⊆ L) (hs : σ.only L s) : σ.only L (State.writeRdw s w off d)
        := by
  unfold State.writeRdw
  repeat' first
    | with_reducible first
        | assumption | apply State.windowData_only | apply State.windowLast_only | apply State.windowStart_only
        | apply State.windowDrop_only | apply State.modWindow_only | refine ite_only ?_ ?_
    | exact List.Subset.trans (by decide) hL

theorem State.writeAtn_only {L : List Part} {σ : State} (s : State) (off v : Nat)
    (hL : [.log, .atn] ⊆ L) (hs : σ.only L s) : σ.only L (State.writeAtn s off v) := by
  unfold State.writeAtn
  repeat' first
    | with_reducible first
        | assumption | apply State.modAtn_only | apply State.clearLeaves_only | apply State.writeEnable_only
        | refine ite_only ?_ ?_
    | exact hL (by decide) | exact List.Subset.trans (by decide) hL

theorem State.mgrGo_only {L : List Part} {σ : State} (s : State)
    (hL : changeParts ⊆ L) (hs : σ.only L s) : σ.only L (State.mgrGo s) := by
  unfold State.mgrGo
  repeat' with_reducible first
    | assumption | apply State.mgrMailbox_only | refine ite_only ?_ ?_

theorem State.dictGo_only {L : List Part} {σ : State} (s : State)
    (hL : [.dmb] ⊆ L) (hs : σ.only L s) : σ.only L (State.dictGo s) := by
  unfold State.dictGo
  repeat' first
    | with_reducible first
        | assumption | apply State.modDmb_only | refine ite_only ?_ ?_
    | exact hL (by decide)

theorem State.writeRing_only {L : List Part} {σ : State} (s : State) (p r off v : Nat)
    (hL : [.pads, .pci, .atn, .out] ⊆ L) (hs : σ.only L s) : σ.only L (State.writeRing s p r off v) := by
  unfold State.writeRing
  repeat' first
    | with_reducible first
        | assumption | apply State.modRing_only | apply State.enableRing_only | apply State.disableRing_only
        | apply State.writeTail_only | apply State.writeHead_only
    | exact List.Subset.trans (by decide) hL | split

theorem State.pushBytes_only {L : List Part} {σ : State} (n : Nat) (s : State) (p off : Nat) (d : Bytes)
    (hL : [.yard, .jobs, .nextJob, .pads, .pci, .atn, .out] ⊆ L) (hs : σ.only L s) :
    σ.only L (State.pushBytes s p off d n) := by
  induction n generalizing s off d with
  | zero => exact hs
  | succ n ih =>
    unfold State.pushBytes
    have w := State.pushWrite_only s p (off / 64) (off % 64) (d.take (64 - off % 64)) (List.Subset.trans (by decide) hL) hs
    have h := ite_only (c := off % 64 + (d.take (64 - off % 64)).length = 64)
      (State.serveFront_only _ (List.Subset.trans (by decide) hL) w) w
    exact ite_only h (ih _ _ _ h)

theorem State.writePage_only {L : List Part} {σ : State} (s : State) (p off : Nat) (d : Bytes) (hL : [.yard, .jobs,
    .nextJob, .pads, .pmem, .pci, .rdw, .atn, .out] ⊆ L) (hs : σ.only L s) : σ.only L (State.writePage s p off d) := by
  unfold State.writePage
  repeat' first
    | with_reducible first
        | assumption | apply State.pushBytes_only | apply State.writeRing_only | apply State.resetPads_only
        | apply State.modPad_only | refine ite_only ?_ ?_
    | with_reducible intro _ _ _ | with_reducible intro _ _ | exact hL (by decide) | exact List.Subset.trans (by decide) hL | split | (dsimp only)

theorem State.writePf_only {L : List Part} {σ : State} (s : State) (off : Nat) (d : Bytes)
    (hL : [.core, .pwr, .boot, .hal, .ports, .par, .tack, .yard, .jobs, .devJobs, .nextJob, .pads, .pmem, .pci, .rdw,
        .rdwSc, .dmb, .cas, .dict, .log, .lc, .mon, .atn, .out] ⊆ L) (hs : σ.only L s) : σ.only L (State.writePf s off
            d) := by
  unfold State.writePf
  repeat' first
    | with_reducible first
        | assumption | apply State.modCore_only | apply State.writeAtn_only | apply State.writeRdw_only
        | apply State.modPci_only | apply State.mgrGo_only | apply State.modDmb_only | apply State.dictGo_only
        | refine ite_only ?_ ?_
    | exact hL (by decide) | exact List.Subset.trans (by decide) hL | split

theorem State.writeMsix_only {L : List Part} {σ : State} (s : State) (fn off : Nat) (d : Bytes)
    (hL : [.atn, .out] ⊆ L) (hs : σ.only L s) : σ.only L (State.writeMsix s fn off d) := by
  unfold State.writeMsix
  repeat' first
    | with_reducible first
        | assumption | apply State.setMsix_only | apply State.modAtn_only | apply State.emit_only
        | refine ite_only ?_ ?_
    | exact hL (by decide) | exact List.Subset.trans (by decide) hL

theorem State.writeReg_only {L : List Part} {σ : State} (s : State) (fn off : Nat) (d : Bytes)
    (hL : [.core, .pwr, .boot, .hal, .ports, .par, .tack, .yard, .jobs, .devJobs, .nextJob, .pads, .pmem, .pci, .rdw,
        .rdwSc, .dmb, .cas, .dict, .log, .lc, .mon, .atn, .out] ⊆ L) (hs : σ.only L s) : σ.only L (State.writeReg s fn
            off d) := by
  unfold State.writeReg
  repeat' first
    | with_reducible first
        | assumption | apply State.writeMsix_only | apply State.writePage_only | apply State.writePf_only
    | exact List.Subset.trans (by decide) hL | split

theorem State.barWrite_only {L : List Part} {σ : State} (s : State) (fn off : Nat) (d : Bytes)
    (hL : [.core, .pwr, .boot, .hal, .ports, .par, .tack, .yard, .jobs, .devJobs, .nextJob, .pads, .pmem, .pci, .rdw,
        .rdwSc, .dmb, .cas, .dict, .log, .lc, .mon, .atn, .out] ⊆ L) (hs : σ.only L s) : σ.only L (State.barWrite s fn
            off d) := by
  unfold State.barWrite
  repeat' first
    | with_reducible first
        | assumption | apply State.writeRdw_only | apply State.writeReg_only | refine ite_only ?_ ?_
    | exact List.Subset.trans (by decide) hL

theorem State.askHotJoin_only {L : List Part} {σ : State} (s : State) (traffic2 traffic3 : Bool)
    (hL : [.out] ⊆ L) (hs : σ.only L s) : σ.only L (State.askHotJoin s traffic2 traffic3) := by
  unfold State.askHotJoin
  repeat' with_reducible first
    | assumption | apply State.emit_only | refine ite_only ?_ ?_

theorem State.holdingEntry_only {L : List Part} {σ : State} (s : State) (h : HoldInput) (hL : [.hal, .ports, .par,
    .tack, .yard, .devJobs, .nextJob, .log, .atn, .out] ⊆ L) (hs : σ.only L s) : σ.only L (State.holdingEntry s h) := by
  unfold State.holdingEntry
  repeat' first
    | with_reducible first
        | assumption | apply State.modPar_only | apply State.modYard_only | apply State.askHotJoin_only
        | apply State.probePorts_only | apply State.discoverBus_only | apply State.modPar_only
        | apply State.modYard_only
    | with_reducible intro _ _ _ | with_reducible intro _ _ | exact hL (by decide) | exact List.Subset.trans (by decide) hL | split | (dsimp only)

theorem State.holdingActs_only {L : List Part} {σ : State} (s : State) (h : HoldInput) (hL : [.hal, .ports, .par, .tack,
    .yard, .devJobs, .nextJob, .log, .atn, .out] ⊆ L) (hs : σ.only L s) : σ.only L (State.holdingActs s h) := by
  unfold State.holdingActs
  repeat' first
    | with_reducible first
        | assumption | apply State.holdingEntry_only | apply State.beginSchedule_only
    | exact hL (by decide) | exact List.Subset.trans (by decide) hL | (dsimp only)

theorem State.loadDict_only {L : List Part} {σ : State} (s : State)
    (hL : [.dict, .log, .atn] ⊆ L) (hs : σ.only L s) : σ.only L (State.loadDict s) := by
  unfold State.loadDict
  repeat' first
    | with_reducible first
        | assumption | apply State.modDict_only | apply State.latch_only | apply State.ev_only
    | exact hL (by decide) | exact List.Subset.trans (by decide) hL | split

theorem State.takeRole_only {L : List Part} {σ : State} (s : State) (hL : [.cas] ⊆ L) (hs : σ.only L s) : σ.only L
    (State.takeRole s) := by
  unfold State.takeRole
  repeat' first
    | with_reducible first
        | assumption | apply State.modCas_only | apply State.modCas_only | refine ite_only ?_ ?_
    | with_reducible intro _ _ _ | with_reducible intro _ _ | exact hL (by decide) | exact List.Subset.trans (by decide) hL | split | (dsimp only)

theorem State.reloadKeys_only {L : List Part} {σ : State} (s : State)
    (hL : [.tack, .log, .atn] ⊆ L) (hs : σ.only L s) : σ.only L (State.reloadKeys s) := by
  unfold State.reloadKeys
  repeat' first
    | with_reducible first
        | assumption | apply State.modTack_only | apply State.keyEvent_only | apply State.exhaust_only
        | refine foldl_only _ _ _ ?_ ?_ | refine ite_only ?_ ?_
    | exact hL (by decide) | exact List.Subset.trans (by decide) hL | intro _ _ _

theorem State.bootSheet_only {L : List Part} {σ : State} (s : State)
    (hL : [.yard, .log] ⊆ L) (hs : σ.only L s) : σ.only L (State.bootSheet s) := by
  unfold State.bootSheet
  repeat' first
    | with_reducible first
        | assumption | apply State.modYard_only | apply State.ev_only | refine ite_only ?_ ?_
    | exact hL (by decide) | exact List.Subset.trans (by decide) hL

theorem State.checkManifests_only {L : List Part} {σ : State} (s : State)
    (hL : [.ports, .log] ⊆ L) (hs : σ.only L s) : σ.only L (State.checkManifests s) := by
  unfold State.checkManifests
  repeat' first
    | with_reducible first
        | assumption | apply State.modPort_only | apply State.ev_only | refine foldl_only _ _ _ ?_ ?_
        | refine ite_only ?_ ?_
    | (intro _ _ _)
    | exact hL (by decide) | exact List.Subset.trans (by decide) hL

theorem State.stageLedger_only {L : List Part} {σ : State} (s : State)
    (hL : [.boot, .log] ⊆ L) (hs : σ.only L s) : σ.only L (State.stageLedger s) := by
  unfold State.stageLedger
  dsimp only
  split
  · exact hs
  · split
    · exact State.putLedger_only _ _ hL hs
    · split
      · exact State.putLedger_only _ _ hL hs
      · exact hs

theorem State.wakeTests_only {L : List Part} {σ : State} (s : State)
    (hL : [.yard, .devJobs, .nextJob] ⊆ L) (hs : σ.only L s) : σ.only L (State.wakeTests s) := by
  unfold State.wakeTests
  repeat' first
    | with_reducible first
        | assumption | apply State.modYard_only | apply State.addDev_only | refine foldl_only _ _ _ ?_ ?_
        | refine ite_only ?_ ?_
    | exact hL (by decide) | exact List.Subset.trans (by decide) hL | intro _ _ _

theorem State.logBootRecords_only {L : List Part} {σ : State} (s : State)
    (hL : [.boot, .ports, .log, .mon, .atn] ⊆ L) (hs : σ.only L s) : σ.only L (State.logBootRecords s) :=
        by
  unfold State.logBootRecords
  repeat' first
    | with_reducible first
        | assumption | apply State.writeEvent_only | apply State.modBoot_only | refine foldl_only _ _ _ ?_ ?_
        | refine ite_only ?_ ?_
    | exact hL (by decide) | exact List.Subset.trans (by decide) hL | intro _ _ _

theorem State.logFifo_only {L : List Part} {σ : State} (s : State)
    (hL : [.ports, .log, .mon, .atn] ⊆ L) (hs : σ.only L s) : σ.only L (State.logFifo s) := by
  unfold State.logFifo
  repeat' first
    | with_reducible first
        | assumption | apply State.writeEvent_only | apply State.modMon_only | refine foldl_only _ _ _ ?_ ?_
    | exact hL (by decide) | intro _ _ _

theorem State.raiseBase_only {L : List Part} {σ : State} (s : State)
    (hL : [.log] ⊆ L) (hs : σ.only L s) : σ.only L ((State.raiseBase s).2) := by
  unfold State.raiseBase
  repeat' first
    | with_reducible first
        | assumption | apply State.modLog_only | refine ite_only_snd ?_ ?_
    | exact hL (by decide)

theorem State.writeNow_only {L : List Part} {σ : State} (s : State) (b : Bool) (d : LogDesc)
    (hL : [.ports, .log, .mon, .atn] ⊆ L) (hs : σ.only L s) : σ.only L (State.writeNow s b d) := by
  unfold State.writeNow
  repeat' with_reducible first
    | assumption | apply State.writeEvent_only | refine ite_only ?_ ?_

theorem State.startEntries_only {L : List Part} {σ : State} (s : State)
    (hL : [.boot, .ports, .tack, .log, .mon, .atn] ⊆ L) (hs : σ.only L s) : σ.only L (State.startEntries
        s) := by
  unfold State.startEntries
  repeat' first
    | with_reducible first
        | assumption | apply State.raiseBase_only | apply State.logBootRecords_only | apply State.logFifo_only
        | apply State.writeNow_only | apply State.latch_only | apply State.modLog_only | apply State.writeEvent_only
        | apply State.writeCheckpoint_only | refine foldl_only _ _ _ ?_ ?_ | refine ite_only ?_ ?_
    | exact hL (by decide) | exact List.Subset.trans (by decide) hL | intro _ _ _

theorem State.startLeaves_only {L : List Part} {σ : State} (s : State)
    (hL : [.atn] ⊆ L) (hs : σ.only L s) : σ.only L (State.startLeaves s) := by
  unfold State.startLeaves
  repeat' first
    | with_reducible first
        | assumption | apply State.latchMonitor_only | apply State.latch_only | refine foldl_only _ _ _ ?_ ?_
        | refine ite_only ?_ ?_
    | intro _ _ _

theorem State.loadConfig_only {L : List Part} {σ : State} (s : State)
    (hL : [.mon, .atn] ⊆ L) (hs : σ.only L s) : σ.only L (State.loadConfig s) := by
  unfold State.loadConfig
  repeat' first
    | with_reducible first
        | assumption | apply State.modMon_only | apply State.modAtn_only
    | exact hL (by decide)

theorem State.stageOne_only {L : List Part} {σ : State} (s : State) (hL : [.boot, .ports, .par, .tack, .yard, .devJobs,
    .nextJob, .cas, .dict, .log, .mon, .atn] ⊆ L) (hs : σ.only L s) : σ.only L (State.stageOne s) := by
  unfold State.stageOne
  repeat' first
    | with_reducible first
        | assumption | apply State.loadDict_only | apply State.takeRole_only | apply State.reloadKeys_only
        | apply State.deriveHampers_only | apply State.bootSheet_only | apply State.checkManifests_only
        | apply State.stageLedger_only | apply State.loadConfig_only | apply State.startLeaves_only
        | apply State.modLog_only | apply State.issueAlias_only | apply State.seedMasks_only
        | apply State.startEntries_only | apply State.wakeTests_only | apply State.modLog_only
    | with_reducible intro _ _ _ | with_reducible intro _ _ | exact hL (by decide) | exact List.Subset.trans (by decide) hL | split | (dsimp only)

theorem State.leaveBooting_only {L : List Part} {σ : State} (s : State) (h : HoldInput) (hL : [.core, .pwr, .boot, .hal,
    .ports, .par, .tack, .yard, .devJobs, .nextJob, .cas, .dict, .log, .mon, .atn, .out] ⊆ L) (hs : σ.only L s) : σ.only
    L (State.leaveBooting s h) := by
  unfold State.leaveBooting
  repeat' first
    | with_reducible first
        | assumption | apply State.stageOne_only | apply State.modCore_only | apply State.setOp_only
        | apply State.holdingActs_only | apply State.beginAlarmHold_only | apply State.modPwr_only
        | apply State.modPar_only | apply State.modYard_only | apply State.snapBlocks_only
        | apply State.confirmTrial_only | apply State.modCore_only | apply State.modPwr_only | apply State.modPar_only
        | apply State.modYard_only | refine ite_only ?_ ?_
    | with_reducible intro _ _ _ | with_reducible intro _ _ | exact hL (by decide) | exact List.Subset.trans (by decide) hL | split | (dsimp only)

theorem State.c0End_only {L : List Part} {σ : State} (s : State) (a : C0End) (hL : [.core, .pwr, .boot, .hal, .ports,
    .pldm, .par, .tack, .yard, .jobs, .devJobs, .nextJob, .pads, .pmem, .pci, .rdw, .dmb, .cas, .dict, .log, .lc, .mon,
    .atn, .out] ⊆ L) (hs : σ.only L s) : σ.only L (State.c0End s a) := by
  unfold State.c0End
  repeat' first
    | with_reducible first
        | assumption | apply State.authDone_only | apply State.writeReady_only | apply State.approveReady_only
        | apply State.updateChecked_only | apply State.signDone_only | apply State.partnerChecked_only
        | refine ite_only ?_ ?_
    | exact hL (by decide) | exact List.Subset.trans (by decide) hL | split | (dsimp only)

theorem State.c0Ends_only {L : List Part} {σ : State} (s : State) (hL : [.core, .pwr, .boot, .hal, .ports, .pldm, .par,
    .tack, .yard, .jobs, .devJobs, .nextJob, .pads, .pmem, .pci, .rdw, .dmb, .cas, .dict, .log, .lc, .mon, .atn, .out] ⊆
    L) (hs : σ.only L s) : σ.only L (State.c0Ends s) := by
  unfold State.c0Ends
  repeat' first
    | with_reducible first
        | assumption | apply State.modDevJobs_only | apply State.c0End_only | apply State.modDevJobs_only
        | refine foldl_only _ _ _ ?_ ?_ | refine ite_only ?_ ?_
    | with_reducible intro _ _ _ | with_reducible intro _ _ | exact hL (by decide) | exact List.Subset.trans (by decide) hL | split | (dsimp only)

theorem State.secondsPass_only {L : List Part} {σ : State} (s : State) (ppm : Int)
    (hL : [.pwr, .log] ⊆ L) (hs : σ.only L s) : σ.only L (State.secondsPass s ppm) := by
  unfold State.secondsPass
  repeat' first
    | with_reducible first
        | assumption | apply State.modLog_only | apply State.modPwr_only | refine ite_only ?_ ?_
    | exact hL (by decide)

theorem State.takeInputs_only {L : List Part} {σ : State} (s : State) (vinMv active : Nat) (temps : List Int) (hL :
    [.pwr, .sup, .mon] ⊆ L) (hs : σ.only L s) : σ.only L (State.takeInputs s vinMv active temps) := by
  unfold State.takeInputs
  repeat' first
    | with_reducible first
        | assumption | apply State.modMon_only | apply State.modPwr_only | apply State.modSup_only
        | apply State.modMon_only | apply State.modPwr_only | apply State.modSup_only | refine foldl_only _ _ _ ?_ ?_
        | refine ite_only ?_ ?_
    | with_reducible intro _ _ _ | with_reducible intro _ _ | exact hL (by decide) | exact List.Subset.trans (by decide) hL | split | (dsimp only)

theorem State.newFrame_only {L : List Part} {σ : State} (s : State)
    (hL : [.tack, .pci, .log] ⊆ L) (hs : σ.only L s) : σ.only L (State.newFrame s) := by
  unfold State.newFrame
  repeat' first
    | with_reducible first
        | assumption | apply State.modLog_only | apply State.modTack_only | apply State.modPci_only
    | exact hL (by decide)

theorem State.halterCounts_only {L : List Part} {σ : State} (s : State)
    (hL : [.hal] ⊆ L) (hs : σ.only L s) : σ.only L (State.halterCounts s) := by
  unfold State.halterCounts
  repeat' first
    | with_reducible first
        | assumption | apply State.modHal_only | refine ite_only ?_ ?_
    | exact hL (by decide)

theorem State.endChannels_only {L : List Part} {σ : State} (s : State)
    (hL : [.par, .pci, .dict, .log, .atn] ⊆ L) (hs : σ.only L s) : σ.only L (State.endChannels s) := by
  unfold State.endChannels
  repeat' first
    | with_reducible first
        | assumption | apply State.modDict_only | apply State.modPci_only | apply State.endSessions_only
        | apply State.endDtls_only | apply State.endSpdm_only | refine foldl_only _ _ _ ?_ ?_ | refine ite_only ?_ ?_
    | exact hL (by decide) | exact List.Subset.trans (by decide) hL | intro _ _ _

theorem State.haltAborts_only {L : List Part} {σ : State} (s : State)
    (hL : [.sup, .yard, .jobs, .devJobs, .pads, .log, .mon] ⊆ L) (hs : σ.only L s) : σ.only L (State.haltAborts s) := by
  unfold State.haltAborts
  repeat' first
    | with_reducible first
        | assumption | apply State.modSup_only | apply State.haltYard_only | apply State.modMon_only
        | apply State.holdQueue_only | refine ite_only ?_ ?_
    | exact hL (by decide) | exact List.Subset.trans (by decide) hL

theorem State.monConfigs_only {L : List Part} {σ : State} (s : State)
    (hL : [.mon] ⊆ L) (hs : σ.only L s) : σ.only L (State.monConfigs s) := by
  unfold State.monConfigs
  repeat' first
    | with_reducible first
        | assumption | apply State.modMon_only
    | exact hL (by decide)

theorem State.orderTwo_only {L : List Part} {σ : State} (s : State) (hL : startParts ⊆ L) (hs : σ.only L s) : σ.only L
    (State.orderTwo s) := by
  unfold State.orderTwo
  repeat' first
    | with_reducible first
        | assumption | apply State.alarmRespond_only | apply State.haltAborts_only | apply State.runReplicas_only
        | apply State.runStrikes_only | apply State.strikePads_only | apply State.openScopes_only
        | apply State.runCancels_only | apply State.sendChanges_only | apply State.orphan_only
        | apply State.endChannels_only | apply State.monConfigs_only | apply State.takeRecoveries_only
        | apply State.enterSleep_only | apply State.beginStart_only | apply State.setOp_only | refine ite_only ?_ ?_
    | exact hL (by decide) | exact List.Subset.trans (by decide) hL | split | (dsimp only)

theorem State.slotLeaves_only {L : List Part} {σ : State} (s : State)
    (hL : [.atn] ⊆ L) (hs : σ.only L s) : σ.only L (State.slotLeaves s) := by
  unfold State.slotLeaves
  repeat' with_reducible first
    | assumption | apply State.latch_only | refine ite_only ?_ ?_

theorem State.dummySteps_only {L : List Part} {σ : State} (s : State)
    (hL : [.tack] ⊆ L) (hs : σ.only L s) : σ.only L (State.dummySteps s) := by
  unfold State.dummySteps
  repeat' first
    | with_reducible first
        | assumption | apply State.modTack_only | refine ite_only ?_ ?_
    | exact hL (by decide)

theorem State.freeLoads_only {L : List Part} {σ : State} (s : State) (hL : [.tack] ⊆ L) (hs : σ.only L s) : σ.only L
    (State.freeLoads s) := by
  unfold State.freeLoads
  repeat' first
    | with_reducible first
        | assumption | apply State.modTack_only | apply State.modTack_only | refine ite_only ?_ ?_
        | refine ite_only_fst ?_ ?_
    | with_reducible intro _ _ _ | with_reducible intro _ _ | exact hL (by decide) | exact List.Subset.trans (by decide) hL | split | (dsimp only)

theorem State.runYard_only {L : List Part} {σ : State} (s : State) (hL : [.tack, .yard, .jobs, .devJobs, .nextJob,
    .pads, .rdw, .rdwSc, .cas, .log, .atn, .out] ⊆ L) (hs : σ.only L s) : σ.only L (State.runYard s) := by
  unfold State.runYard
  repeat' first
    | with_reducible first
        | assumption | apply State.freeLoads_only | apply State.forwardJobs_only | apply State.startHamper_only
        | apply State.stepAll_only | apply State.dispatchAll_only | apply State.sweepSteps_only
        | apply State.passJobs_only | apply State.loadLanes_only | refine foldl_only _ _ _ ?_ ?_
    | with_reducible intro _ _ _ | with_reducible intro _ _ | exact hL (by decide) | exact List.Subset.trans (by decide) hL | split | (dsimp only)

theorem State.noteWaiting_only {L : List Part} {σ : State} (s : State) (hL : [.yard] ⊆ L) (hs : σ.only L s) : σ.only L
    (State.noteWaiting s) := by
  unfold State.noteWaiting
  repeat' first
    | with_reducible first
        | assumption | apply State.modYard_only | apply State.modYard_only
    | with_reducible intro _ _ _ | with_reducible intro _ _ | exact hL (by decide) | exact List.Subset.trans (by decide) hL | split | (dsimp only)

theorem State.workBoundary_only {L : List Part} {σ : State} (s : State) (calm : Bool) (hL : startParts ⊆ L) (hs : σ.only
    L s) : σ.only L (State.workBoundary s calm) := by
  unfold State.workBoundary
  repeat' first
    | with_reducible first
        | assumption | apply State.endSteps_only | apply State.takeSwitch_only | apply State.orderTwo_only
        | apply State.fixHold_only | apply State.domainsBoundary_only | apply State.slotLeaves_only
        | apply State.runYard_only | apply State.noteWaiting_only | apply State.dummySteps_only
        | apply State.portsFrame_only | apply State.c0Ends_only | apply State.partnerBoundary_only
        | apply State.signLate_only | apply State.pldmBoundary_only | apply State.serveFront_only
        | apply State.snapBlocks_only | refine ite_only ?_ ?_
    | exact hL (by decide) | exact List.Subset.trans (by decide) hL | split | (dsimp only)

end Sys2Proof.Machine
end

