-- ==== Sys2Proof/Laws/OnlyExec.lean ====
section
/-! SUPPORT. What the meaning of every command leaves alone. -/

set_option maxRecDepth 20000

namespace Sys2Proof.Machine

open Sys2Proof

/-- Whatever next state an outcome is, it differs from `σ` in the parts of `L` alone. -/
def State.onlyRes (L : List Part) (σ : State) (r : Res) : Prop := ∀ t, r = .next t → σ.only L t

theorem onlyRes_next {L : List Part} {σ t : State} (h : σ.only L t) : σ.onlyRes L (.next t) :=
    fun u e => by cases e; exact h

theorem onlyRes_fault {L : List Part} {σ : State} {f : Fault} : σ.onlyRes L (.fault f) := fun _ e => by cases e

theorem onlyRes_refused {L : List Part} {σ : State} {f : Refusal} : σ.onlyRes L (.refused f) := fun _ e => by cases e

theorem onlyRes_ite {L : List Part} {σ : State} {c : Prop} [Decidable c] {a b : Res} (ha : σ.onlyRes L a) (hb :
    σ.onlyRes L b) :
    σ.onlyRes L (if c then a else b) := by
  by_cases h : c <;> simp only [h, if_true, if_false] <;> assumption

theorem State.plainCmd_only {L : List Part} {σ : State} (s : State) (c : SpiCmd) (r : OpRow) (clear refuse proxy :
    State → State)
    (hL : [.ports, .atn, .out] ⊆ L) (h1 : ∀ t, σ.only L t → σ.only L (clear t))
    (h2 : ∀ t, σ.only L t → σ.only L (refuse t)) (h3 : ∀ t, σ.only L t → σ.only L (proxy t)) (hs : σ.only L s) :
    σ.onlyRes L (s.plainCmd c r clear refuse proxy) := by
  unfold State.plainCmd
  repeat' first
    | with_reducible first
        | assumption | apply h1 | apply h2 | apply h3 | apply State.emit_only | apply State.cancelDown_only
        | apply State.latch_only | apply State.modPort_only | apply State.unknownCmd_only | apply State.interrupt_only
        | refine onlyRes_next ?_ | refine ite_only ?_ ?_
    | exact List.Subset.trans (by decide) hL | split

theorem State.dataCmd_only {L : List Part} {σ : State} (s : State) (c : SpiCmd) (r : OpRow) (proxy clear : State →
    Bytes)
    (hL : [.ports, .atn, .out] ⊆ L) (hs : σ.only L s) : σ.onlyRes L (s.dataCmd c r proxy clear) := by
  unfold State.dataCmd
  repeat' first
    | with_reducible first
        | assumption | apply State.emit_only | apply State.allLate_only | apply State.unknownCmd_only
        | apply State.disarm_only | apply State.interrupt_only | apply State.fresh_only | refine onlyRes_next ?_
        | refine ite_only ?_ ?_
    | exact List.Subset.trans (by decide) hL | split

theorem State.readCmd_only {L : List Part} {σ : State} (s : State) (c : SpiCmd) (r : OpRow) (dummy : State → Nat)
    (hL : [.hal, .ports, .log, .atn, .out] ⊆ L) (hs : σ.only L s) : σ.onlyRes L (s.readCmd c r dummy) := by
  unfold State.readCmd
  repeat' first
    | with_reducible first
        | assumption | apply State.emit_only | apply State.clearRead_only | apply State.allLate_only
        | apply State.proxyRead_only | apply State.unknownCmd_only | apply State.disarm_only | apply State.interrupt_only
        | apply State.fresh_only | refine onlyRes_next ?_ | exact onlyRes_fault | refine onlyRes_ite ?_ ?_
    | exact List.Subset.trans (by decide) hL | split

theorem State.writeCmd_only {L : List Part} {σ : State} (s : State) (c : SpiCmd) (r : OpRow) (size busy : Nat)
    (hL : [.ports, .log, .atn, .out] ⊆ L) (hs : σ.only L s) : σ.onlyRes L (s.writeCmd c r size busy) := by
  unfold State.writeCmd
  repeat' first
    | with_reducible first
        | assumption | apply State.plainCmd_only | apply State.clearWrite_only | apply State.listRefuse_only
        | apply State.proxyWrite_only | apply State.disarm_only | apply State.fresh_only
    | exact List.Subset.trans (by decide) hL | with_reducible intro _ _

theorem State.pldmReq_only {L : List Part} {σ : State} (s : State) (t src cmd : Nat) (f : State → State)
    (hL : [.par, .atn, .out] ⊆ L) (h : ∀ u, σ.only L u → σ.only L (f u)) (hs : σ.only L s) :
    σ.onlyRes L (s.pldmReq t src cmd f) := by
  unfold State.pldmReq
  repeat' first
    | with_reducible first
        | assumption | apply h | apply State.pldmReply_only | apply State.lateMctp_only | apply State.fresh_only
        | refine onlyRes_next ?_ | refine ite_only ?_ ?_
    | exact List.Subset.trans (by decide) hL

theorem State.spdmReq_only {L : List Part} {σ : State} (s : State) (q : SpdmReq) (lo hi : Nat) (f : State → SpdmConn →
    State)
    (hL : [.par, .dmb, .atn, .out] ⊆ L) (hf : ∀ s c, σ.only L s → σ.only L (f s c)) (hs : σ.only L s) : σ.onlyRes L
        (s.spdmReq q lo hi f) := by
  unfold State.spdmReq
  repeat' first
    | with_reducible first
        | assumption | apply hf | apply State.spdmErr_only | apply State.putConn_only
        | apply State.fresh_only | refine onlyRes_next ?_
    | refine State.spdmTakes_only (by assumption) ?_ ?_ | exact List.Subset.trans (by decide) hL | split

theorem State.spdmIn_only {L : List Part} {σ : State} (s : State) (q : SpdmReq) (sid : Nat) (f : State → SpdmSess →
    State)
    (hL : [.par, .dmb, .atn, .out] ⊆ L) (hf : ∀ s c, σ.only L s → σ.only L (f s c)) (hs : σ.only L s) : σ.onlyRes L
        (s.spdmIn q sid f) := by
  unfold State.spdmIn
  repeat' first
    | with_reducible first
        | assumption | apply hf | apply State.deadSpdm_only | apply State.modSpdm_only | apply State.fresh_only
        | refine onlyRes_next ?_
    | refine State.spdmTakes_only (by assumption) ?_ ?_ | exact List.Subset.trans (by decide) hL | split

theorem State.spdmInReq_only {L : List Part} {σ : State} (s : State) (q : SpdmReq) (sid : Nat) (f : State → SpdmSess →
    State)
    (hL : [.par, .dmb, .atn, .out] ⊆ L) (hf : ∀ s c, σ.only L s → σ.only L (f s c)) (hs : σ.only L s) : σ.onlyRes L
        (s.spdmInReq q sid f) :=
  State.spdmIn_only _ _ _ _ hL (fun _ _ h => ite_only (State.spdmErr_only _ _ _ _ (List.Subset.trans (by decide) hL) h)
    (ite_only (State.spdmErr_only _ _ _ _ (List.Subset.trans (by decide) hL) h) (hf _ _ h))) hs

theorem execVinRise_only {L : List Part} (mv : Nat) (st : Straps) (s : State) (hL : startParts ⊆ L) : s.onlyRes L
    (execVinRise mv st s) := by
  have h0 := State.only_refl L s
  unfold execVinRise
  repeat' first
    | with_reducible first
        | assumption | apply State.fresh_only | apply State.modPwr_only | apply State.sampleStraps_only
        | apply State.modCas_only | apply State.beginStart_only | apply State.modPwr_only | apply State.modCas_only
        | refine onlyRes_next ?_ | refine ite_only ?_ ?_
    | with_reducible intro _ _ _ | with_reducible intro _ _ | exact hL (by decide) | exact List.Subset.trans (by decide) hL | split | (dsimp only)

theorem execVinFall_only {L : List Part} (mv : Nat) (s : State) (hL : [.core, .pwr, .sup, .boot, .hal, .ports, .shed,
    .tagTable, .shedLost, .pldm, .par, .tack, .yard, .jobs, .devJobs, .nextJob, .pads, .pci, .rdw, .rdwSc, .dmb, .cas,
    .dict, .log, .lc, .mon, .atn, .out] ⊆ L) : s.onlyRes L (execVinFall mv s) := by
  have h0 := State.only_refl L s
  unfold execVinFall
  repeat' first
    | with_reducible first
        | assumption | apply State.fresh_only | apply State.modPwr_only | apply State.toOff_only
        | apply State.modCas_only | apply State.loseBackup_only | apply State.modPwr_only | apply State.modCas_only
        | refine onlyRes_next ?_ | refine ite_only ?_ ?_
    | with_reducible intro _ _ _ | with_reducible intro _ _ | exact hL (by decide) | exact List.Subset.trans (by decide) hL | split | (dsimp only)

theorem execVinWarnCrossing_only {L : List Part} (mv : Nat) (s : State) (hL : [.sup, .out] ⊆ L) : s.onlyRes L
    (execVinWarnCrossing mv s) := by
  have h0 := State.only_refl L s
  unfold execVinWarnCrossing
  repeat' first
    | with_reducible first
        | assumption | apply State.fresh_only | apply State.modSup_only | refine onlyRes_next ?_
        | refine ite_only ?_ ?_
    | exact hL (by decide) | exact List.Subset.trans (by decide) hL

theorem execSupplyHoldEnd_only {L : List Part} (s : State) (hL : [.sup, .log, .atn, .out] ⊆ L) : s.onlyRes L
    (execSupplyHoldEnd s) := by
  have h0 := State.only_refl L s
  unfold execSupplyHoldEnd
  repeat' first
    | with_reducible first
        | assumption | apply State.fresh_only | apply State.endHold_only | refine onlyRes_next ?_
        | refine ite_only ?_ ?_
    | exact List.Subset.trans (by decide) hL

theorem execSupplyHoldAbort_only {L : List Part} (s : State) (hL : [.sup, .out] ⊆ L) : s.onlyRes L
    (execSupplyHoldAbort s) := by
  have h0 := State.only_refl L s
  unfold execSupplyHoldAbort
  repeat' first
    | with_reducible first
        | assumption | apply State.fresh_only | apply State.modSup_only | refine onlyRes_next ?_
        | refine ite_only ?_ ?_
    | exact hL (by decide) | exact List.Subset.trans (by decide) hL

theorem execSupplyHoldEpisodeEntry_only {L : List Part} (s : State) (hL : [.sup, .log, .out] ⊆ L) : s.onlyRes L
    (execSupplyHoldEpisodeEntry s) := by
  have h0 := State.only_refl L s
  unfold execSupplyHoldEpisodeEntry
  repeat' first
    | with_reducible first
        | assumption | apply State.fresh_only | apply State.modSup_only | apply State.holdEntry_only
        | refine onlyRes_next ?_
    | exact hL (by decide) | exact List.Subset.trans (by decide) hL | split

theorem execSysRstNLow_only {L : List Part} (s : State) (hL : [.core, .pwr, .sup, .boot, .hal, .ports, .shed, .tagTable,
    .shedLost, .pldm, .par, .tack, .yard, .jobs, .devJobs, .nextJob, .pads, .pci, .rdw, .rdwSc, .dmb, .cas, .dict, .log,
    .lc, .mon, .atn, .out] ⊆ L) : s.onlyRes L (execSysRstNLow s) := by
  have h0 := State.only_refl L s
  unfold execSysRstNLow
  repeat' first
    | with_reducible first
        | assumption | apply State.fresh_only | apply State.toOff_only | apply State.modPwr_only
        | apply State.modPwr_only | refine onlyRes_next ?_ | refine ite_only ?_ ?_
    | with_reducible intro _ _ _ | with_reducible intro _ _ | exact hL (by decide) | exact List.Subset.trans (by decide) hL | split | (dsimp only)

theorem execSysRstNRelease_only {L : List Part} (st : Straps) (s : State) (hL : startParts ⊆ L) : s.onlyRes L
    (execSysRstNRelease st s) := by
  have h0 := State.only_refl L s
  unfold execSysRstNRelease
  repeat' first
    | with_reducible first
        | assumption | apply State.fresh_only | apply State.modPwr_only | apply State.sampleBoot_only
        | apply State.beginStart_only | refine onlyRes_next ?_ | refine ite_only ?_ ?_
    | exact hL (by decide) | exact List.Subset.trans (by decide) hL

theorem execPerstNChange_only {L : List Part} (high : Bool) (s : State) (hL : startParts ⊆ L) : s.onlyRes L
    (execPerstNChange high s) := by
  have h0 := State.only_refl L s
  unfold execPerstNChange
  repeat' first
    | with_reducible first
        | assumption | apply State.fresh_only | apply State.modPwr_only | apply State.dropLink_only
        | apply State.wakeEvent_only | refine onlyRes_next ?_ | refine ite_only ?_ ?_
    | exact hL (by decide) | exact List.Subset.trans (by decide) hL

theorem execPllLock_only {L : List Part} (s : State) (hL : startParts ⊆ L) : s.onlyRes L (execPllLock s) := by
  have h0 := State.only_refl L s
  unfold execPllLock
  repeat' first
    | with_reducible first
        | assumption | apply State.fresh_only | apply State.modPwr_only | apply State.modCas_only
        | apply State.modCore_only | apply State.beginStart_only | apply State.modPwr_only | apply State.modCas_only
        | apply State.modCore_only | refine onlyRes_next ?_ | refine ite_only ?_ ?_
    | with_reducible intro _ _ _ | with_reducible intro _ _ | exact hL (by decide) | exact List.Subset.trans (by decide) hL | split | (dsimp only)

theorem execRefclkRecoveryTimeout_only {L : List Part} (s : State) (hL : [.core, .pwr, .sup, .boot, .hal, .ports, .shed,
    .tagTable, .shedLost, .pldm, .par, .tack, .yard, .jobs, .devJobs, .nextJob, .pads, .pci, .rdw, .rdwSc, .dmb, .cas,
    .dict, .log, .lc, .mon, .atn, .out] ⊆ L) : s.onlyRes L (execRefclkRecoveryTimeout s) := by
  have h0 := State.only_refl L s
  unfold execRefclkRecoveryTimeout
  repeat' first
    | with_reducible first
        | assumption | apply State.fresh_only | apply State.toOff_only | apply State.modPwr_only
        | apply State.modCore_only | apply State.modPwr_only | apply State.modCore_only | refine onlyRes_next ?_
        | refine ite_only ?_ ?_
    | with_reducible intro _ _ _ | with_reducible intro _ _ | exact hL (by decide) | exact List.Subset.trans (by decide) hL | split | (dsimp only)

theorem execFrameBoundary_only {L : List Part} (vinMv : Nat) (levels : Levels) (temps : List Int) (ppm : Int) (s :
    State) (hL : startParts ⊆ L) : s.onlyRes L (execFrameBoundary vinMv levels temps ppm s) := by
  have h0 := State.only_refl L s
  unfold execFrameBoundary
  repeat' first
    | with_reducible first
        | assumption | apply State.fresh_only | apply State.secondsPass_only | apply State.sampleInputs_only
        | apply State.modCore_only | apply State.atnBoundary_only | apply State.sleepFrame_only
        | apply State.halterCounts_only | apply State.halterSees_only | apply State.newFrame_only
        | apply State.takeInputs_only | apply State.padMessages_only | apply State.alarmRespond_only
        | apply State.beginStart_only | apply State.fixHold_only | apply State.workBoundary_only
        | apply State.modCore_only | refine onlyRes_next ?_ | refine ite_only ?_ ?_
    | with_reducible intro _ _ _ | with_reducible intro _ _ | exact hL (by decide) | exact List.Subset.trans (by decide) hL | split | (dsimp only)

theorem execSheetSwitch_only {L : List Part} (s : State) (hL : [.yard, .cas, .log, .atn, .out] ⊆ L) : s.onlyRes L
    (execSheetSwitch s) := by
  have h0 := State.only_refl L s
  unfold execSheetSwitch
  repeat' first
    | with_reducible first
        | assumption | apply State.fresh_only | apply State.takeSwitch_only | refine onlyRes_next ?_
        | refine ite_only ?_ ?_
    | exact List.Subset.trans (by decide) hL

theorem execDomainWakeEnd_only {L : List Part} (d : Nat) (s : State) (hL : [.pwr, .out] ⊆ L) : s.onlyRes L
    (execDomainWakeEnd d s) := by
  have h0 := State.only_refl L s
  unfold execDomainWakeEnd
  repeat' first
    | with_reducible first
        | assumption | apply State.fresh_only | apply State.modPwr_only | refine onlyRes_next ?_
    | exact hL (by decide) | exact List.Subset.trans (by decide) hL

theorem execRomStart_only {L : List Part} (r : RomInput) (s : State) (hL : [.pwr, .fuse, .boot, .tack, .dict, .log, .lc,
    .mon, .out] ⊆ L) : s.onlyRes L (execRomStart r s) := by
  have h0 := State.only_refl L s
  unfold execRomStart
  repeat' first
    | with_reducible first
        | assumption | apply State.fresh_only | apply State.sampleStart_only | apply State.romRun_only
        | refine onlyRes_next ?_ | refine ite_only ?_ ?_
    | exact hL (by decide) | exact List.Subset.trans (by decide) hL | split | (dsimp only)

theorem execGetstatus_only {L : List Part} (s : State) (hL : [.out] ⊆ L) : s.onlyRes L (execGetstatus s) := by
  have h0 := State.only_refl L s
  unfold execGetstatus
  repeat' first
    | with_reducible first
        | assumption | apply State.fresh_only | apply State.emit_only | refine onlyRes_next ?_
    | split

theorem execRomLockWrite_only {L : List Part} (v : BitVec 32) (s : State) (hL : [.boot, .out] ⊆ L) : s.onlyRes L
    (execRomLockWrite v s) := by
  have h0 := State.only_refl L s
  unfold execRomLockWrite
  repeat' first
    | with_reducible first
        | assumption | apply State.fresh_only | apply State.modBoot_only | refine onlyRes_next ?_
    | exact hL (by decide) | exact List.Subset.trans (by decide) hL

theorem execCoreReleaseWrite_only {L : List Part} (v : BitVec 32) (s : State) (hL : [.boot, .out] ⊆ L) : s.onlyRes L
    (execCoreReleaseWrite v s) := by
  have h0 := State.only_refl L s
  unfold execCoreReleaseWrite
  repeat' first
    | with_reducible first
        | assumption | apply State.fresh_only | apply State.modBoot_only | refine onlyRes_next ?_
    | exact hL (by decide) | exact List.Subset.trans (by decide) hL

theorem execHandoverLockWrite_only {L : List Part} (v : BitVec 32) (s : State) (hL : [.boot, .tack, .cas, .out] ⊆ L) :
    s.onlyRes L (execHandoverLockWrite v s) := by
  have h0 := State.only_refl L s
  unfold execHandoverLockWrite
  dsimp only
  repeat' first
    | with_reducible first
        | assumption | apply State.holdSecrets_only | apply State.fresh_only | apply State.modCas_only | apply State.modBoot_only
        | refine onlyRes_next ?_ | refine ite_only ?_ ?_
    | exact hL (by decide) | exact List.Subset.trans (by decide) hL | split

theorem execStackFormation_only {L : List Part} (f : FormInput) (s : State) (hL : [.core, .yard, .cas, .log, .atn,
    .out] ⊆ L) : s.onlyRes L (execStackFormation f s) := by
  have h0 := State.only_refl L s
  unfold execStackFormation
  repeat' first
    | with_reducible first
        | assumption | apply State.fresh_only | apply State.modCas_only | apply State.refuseLink_only
        | apply State.formFails_only | apply State.keyLink_only | apply State.modYard_only | apply State.modCore_only
        | apply State.latch_only | apply State.ev_only | refine onlyRes_next ?_ | refine ite_only ?_ ?_
    | exact hL (by decide) | exact List.Subset.trans (by decide) hL

theorem execFormTimeout_only {L : List Part} (s : State) (hL : [.cas, .log, .atn, .out] ⊆ L) : s.onlyRes L
    (execFormTimeout s) := by
  have h0 := State.only_refl L s
  unfold execFormTimeout
  repeat' first
    | with_reducible first
        | assumption | apply State.fresh_only | apply State.formFails_only | refine onlyRes_next ?_
    | exact List.Subset.trans (by decide) hL | split

theorem execEnterHolding_only {L : List Part} (h : HoldInput) (s : State) (hL : [.core, .pwr, .boot, .hal, .ports,
    .par, .tack, .yard, .devJobs, .nextJob, .cas, .dict, .log, .mon, .atn, .out] ⊆ L) : s.onlyRes L (execEnterHolding
        h s) := by
  have h0 := State.only_refl L s
  unfold execEnterHolding
  repeat' first
    | with_reducible first
        | assumption | apply State.fresh_only | apply State.leaveBooting_only | refine onlyRes_next ?_
        | exact onlyRes_refused | refine onlyRes_ite ?_ ?_
    | exact List.Subset.trans (by decide) hL

theorem execTrialWatchdogExpiry_only {L : List Part} (s : State) (hL : startParts ⊆ L) : s.onlyRes L
    (execTrialWatchdogExpiry s) := by
  have h0 := State.only_refl L s
  unfold execTrialWatchdogExpiry
  repeat' first
    | with_reducible first
        | assumption | apply State.fresh_only | apply State.bootRecord_only | apply State.putLedger_only
        | apply State.beginStart_only | refine onlyRes_next ?_
    | exact List.Subset.trans (by decide) hL | split

theorem execReleaseStepActs_only {L : List Part} (s : State) (hL : [.hal, .log, .atn, .out] ⊆ L) : s.onlyRes L
    (execReleaseStepActs s) := by
  have h0 := State.only_refl L s
  unfold execReleaseStepActs
  repeat' first
    | with_reducible first
        | assumption | apply State.fresh_only | apply State.stopSchedule_only | apply State.stepActs_only
        | refine onlyRes_next ?_
    | exact List.Subset.trans (by decide) hL | split

theorem execWaitTimeout_only {L : List Part} (s : State) (hL : [.hal, .log, .atn, .out] ⊆ L) : s.onlyRes L
    (execWaitTimeout s) := by
  have h0 := State.only_refl L s
  unfold execWaitTimeout
  repeat' first
    | with_reducible first
        | assumption | apply State.fresh_only | apply State.stopSchedule_only | apply State.stepActs_only
        | apply State.latch_only | apply State.ev_only | refine onlyRes_next ?_
    | exact List.Subset.trans (by decide) hL | split

theorem execPulseEnd_only {L : List Part} (k : Nat) (s : State) (hL : [.hal, .log, .out] ⊆ L) : s.onlyRes L
    (execPulseEnd k s) := by
  have h0 := State.only_refl L s
  unfold execPulseEnd
  repeat' first
    | with_reducible first
        | assumption | apply State.fresh_only | apply State.modHal_only | apply State.ev_only | refine onlyRes_next ?_
        | refine ite_only ?_ ?_
    | exact hL (by decide) | exact List.Subset.trans (by decide) hL

theorem execHiLevelChange_only {L : List Part} (k : Nat) (level : Bool) (s : State) (hL : [.hal, .atn, .out] ⊆ L) :
    s.onlyRes L (execHiLevelChange k level s) := by
  have h0 := State.only_refl L s
  unfold execHiLevelChange
  repeat' first
    | with_reducible first
        | assumption | apply State.fresh_only | apply State.modHal_only | apply State.latchInput_only
        | refine onlyRes_next ?_ | refine ite_only ?_ ?_
    | exact hL (by decide) | exact List.Subset.trans (by decide) hL

theorem execMeasurementRecorded_only {L : List Part} (port : Nat) (data : Bytes) (s : State) (hL : [.ports, .yard,
    .devJobs, .log, .atn, .out] ⊆ L) : s.onlyRes L (execMeasurementRecorded port data s) := by
  have h0 := State.only_refl L s
  unfold execMeasurementRecorded
  repeat' first
    | with_reducible first
        | assumption | apply State.fresh_only | apply State.modPort_only | apply State.dropDigest_only
        | apply State.latch_only | apply State.setPhase_only | apply State.logEv_only | refine onlyRes_next ?_
        | refine ite_only ?_ ?_
    | with_reducible intro _ _ _ | with_reducible intro _ _ | exact hL (by decide) | exact List.Subset.trans (by decide) hL | split | (dsimp only)

theorem execStartVerificationEnd_only {L : List Part} (port : Nat) (data : Option (List Bytes)) (s : State) (hL : [.hal,
    .ports, .shed, .tagTable, .tack, .yard, .devJobs, .nextJob, .log, .atn, .out] ⊆ L) : s.onlyRes L
    (execStartVerificationEnd port data s) := by
  have h0 := State.only_refl L s
  unfold execStartVerificationEnd
  repeat' first
    | with_reducible first
        | assumption | apply State.fresh_only | apply State.freshTagKey_only | apply State.regionReads_only
        | apply State.sourceFail_only | apply State.fillPort_only | apply State.sourcePass_only
        | refine onlyRes_next ?_ | exact onlyRes_fault | refine onlyRes_ite ?_ ?_ | refine ite_only ?_ ?_
    | with_reducible intro _ _ _ | with_reducible intro _ _ | exact hL (by decide)
    | exact List.Subset.trans (by decide) hL | split | (dsimp only)

theorem execStileRead_only {L : List Part} (c : SpiCmd) (s : State) (hL : [.hal, .ports, .log, .atn, .out] ⊆ L)
    : s.onlyRes L (execStileRead c s) := by
  have h0 := State.only_refl L s
  unfold execStileRead
  repeat' with_reducible first
    | assumption | apply State.readCmd_only

theorem execFastRead_only {L : List Part} (c : SpiCmd) (s : State) (hL : [.hal, .ports, .log, .atn, .out] ⊆ L) :
    s.onlyRes L (execFastRead c s) := by
  have h0 := State.only_refl L s
  unfold execFastRead
  repeat' with_reducible first
    | assumption | apply State.readCmd_only

theorem execDualOutputFastRead_only {L : List Part} (c : SpiCmd) (s : State) (hL : [.hal, .ports, .log, .atn, .out] ⊆ L) : s.onlyRes L (execDualOutputFastRead c s) := by
  have h0 := State.only_refl L s
  unfold execDualOutputFastRead
  repeat' with_reducible first
    | assumption | apply State.readCmd_only

theorem execDualIoFastRead_only {L : List Part} (c : SpiCmd) (s : State) (hL : [.hal, .ports, .log, .atn, .out] ⊆ L) : s.onlyRes L (execDualIoFastRead c s) := by
  have h0 := State.only_refl L s
  unfold execDualIoFastRead
  repeat' with_reducible first
    | assumption | apply State.readCmd_only

theorem execQuadOutputFastRead_only {L : List Part} (c : SpiCmd) (s : State) (hL : [.hal, .ports, .log, .atn, .out] ⊆ L) : s.onlyRes L (execQuadOutputFastRead c s) := by
  have h0 := State.only_refl L s
  unfold execQuadOutputFastRead
  repeat' with_reducible first
    | assumption | apply State.readCmd_only

theorem execQuadIoFastRead_only {L : List Part} (c : SpiCmd) (s : State) (hL : [.hal, .ports, .log, .atn, .out] ⊆ L) : s.onlyRes L (execQuadIoFastRead c s) := by
  have h0 := State.only_refl L s
  unfold execQuadIoFastRead
  repeat' with_reducible first
    | assumption | apply State.readCmd_only

theorem execOctalDtrRead_only {L : List Part} (c : SpiCmd) (s : State) (hL : [.hal, .ports, .log, .atn, .out] ⊆ L) : s.onlyRes L (execOctalDtrRead c s) := by
  have h0 := State.only_refl L s
  unfold execOctalDtrRead
  repeat' with_reducible first
    | assumption | apply State.readCmd_only

theorem execReadStatusRegister_only {L : List Part} (c : SpiCmd) (s : State) (hL : [.ports, .atn, .out] ⊆ L) : s.onlyRes
    L (execReadStatusRegister c s) := by
  have h0 := State.only_refl L s
  unfold execReadStatusRegister
  repeat' first
    | with_reducible first
        | assumption | refine State.dataCmd_only _ _ _ _ _ ?_ ?_ | refine onlyRes_next ?_ | refine ite_only ?_ ?_
    | with_reducible intro _ _ _ | with_reducible intro _ _ | exact hL (by decide) | exact List.Subset.trans (by decide) hL | split | (dsimp only)

theorem execReadJedecId_only {L : List Part} (c : SpiCmd) (s : State) (hL : [.ports, .atn, .out] ⊆ L) : s.onlyRes L
    (execReadJedecId c s) := by
  have h0 := State.only_refl L s
  unfold execReadJedecId
  repeat' first
    | with_reducible first
        | assumption | refine State.dataCmd_only _ _ _ _ _ ?_ ?_ | refine onlyRes_next ?_ | refine ite_only ?_ ?_
    | with_reducible intro _ _ _ | with_reducible intro _ _ | exact hL (by decide) | exact List.Subset.trans (by decide) hL | split | (dsimp only)

theorem execReadSfdp_only {L : List Part} (c : SpiCmd) (s : State) (hL : [.ports, .atn, .out] ⊆ L) : s.onlyRes L
    (execReadSfdp c s) := by
  have h0 := State.only_refl L s
  unfold execReadSfdp
  repeat' with_reducible first
    | assumption | apply State.dataCmd_only

theorem execWriteEnable_only {L : List Part} (c : SpiCmd) (s : State) (hL : [.ports, .atn, .out] ⊆ L) : s.onlyRes L
    (execWriteEnable c s) := by
  have h0 := State.only_refl L s
  unfold execWriteEnable
  repeat' first
    | with_reducible first
        | assumption | apply State.fresh_only | apply State.disarm_only | apply State.passThrough_only
        | apply State.modPort_only | apply State.unknownCmd_only
        | refine State.plainCmd_only _ _ _ _ _ _ ?_ ?_ ?_ ?_ ?_ | refine onlyRes_next ?_
    | with_reducible intro _ _ _ | with_reducible intro _ _ | exact hL (by decide)
    | exact List.Subset.trans (by decide) hL | (dsimp only)

theorem execWriteDisable_only {L : List Part} (c : SpiCmd) (s : State) (hL : [.ports, .atn, .out] ⊆ L) : s.onlyRes L
    (execWriteDisable c s) := by
  have h0 := State.only_refl L s
  unfold execWriteDisable
  repeat' first
    | with_reducible first
        | assumption | apply State.fresh_only | apply State.disarm_only | apply State.passThrough_only
        | apply State.modPort_only | apply State.unknownCmd_only
        | refine State.plainCmd_only _ _ _ _ _ _ ?_ ?_ ?_ ?_ ?_ | refine onlyRes_next ?_
    | with_reducible intro _ _ _ | with_reducible intro _ _ | exact hL (by decide)
    | exact List.Subset.trans (by decide) hL | (dsimp only)

theorem execPageProgram_only {L : List Part} (c : SpiCmd) (s : State) (hL : [.ports, .log, .atn, .out] ⊆ L) :
    s.onlyRes L (execPageProgram c s) := by
  have h0 := State.only_refl L s
  unfold execPageProgram
  repeat' with_reducible first
    | assumption | apply State.writeCmd_only

theorem execQuadInputPageProgram_only {L : List Part} (c : SpiCmd) (s : State) (hL : [.ports, .log, .atn, .out] ⊆ L) :
    s.onlyRes L (execQuadInputPageProgram c s) := by
  have h0 := State.only_refl L s
  unfold execQuadInputPageProgram
  repeat' with_reducible first
    | assumption | apply State.writeCmd_only

theorem execErase4Kib_only {L : List Part} (c : SpiCmd) (s : State) (hL : [.ports, .log, .atn, .out] ⊆ L) : s.onlyRes
    L (execErase4Kib c s) := by
  have h0 := State.only_refl L s
  unfold execErase4Kib
  repeat' with_reducible first
    | assumption | apply State.writeCmd_only

theorem execErase64Kib_only {L : List Part} (c : SpiCmd) (s : State) (hL : [.ports, .log, .atn, .out] ⊆ L) : s.onlyRes
    L (execErase64Kib c s) := by
  have h0 := State.only_refl L s
  unfold execErase64Kib
  repeat' with_reducible first
    | assumption | apply State.writeCmd_only

theorem execChipErase_only {L : List Part} (c : SpiCmd) (alt : Bool) (s : State) (hL : [.ports, .log, .atn, .out] ⊆ L) :
    s.onlyRes L (execChipErase c alt s) := by
  have h0 := State.only_refl L s
  unfold execChipErase
  repeat' first
    | with_reducible first
        | assumption | apply State.fresh_only | apply State.disarm_only | apply State.refuse_only
        | apply State.listRefuse_only | refine State.plainCmd_only _ _ _ _ _ _ ?_ ?_ ?_ ?_ ?_ | refine onlyRes_next ?_
        | refine ite_only ?_ ?_
    | with_reducible intro _ _ _ | with_reducible intro _ _ | exact hL (by decide) | exact List.Subset.trans (by decide) hL | split | (dsimp only)

theorem execWriteStatusRegister_only {L : List Part} (c : SpiCmd) (s : State) (hL : [.ports, .log, .atn, .out] ⊆ L) :
    s.onlyRes L (execWriteStatusRegister c s) := by
  have h0 := State.only_refl L s
  unfold execWriteStatusRegister
  repeat' first
    | with_reducible first
        | assumption | apply State.fresh_only | apply State.disarm_only | apply State.refuse_only
        | refine State.plainCmd_only _ _ _ _ _ _ ?_ ?_ ?_ ?_ ?_ | refine onlyRes_next ?_
    | with_reducible intro _ _ _ | with_reducible intro _ _ | exact hL (by decide)
    | exact List.Subset.trans (by decide) hL | (dsimp only)

theorem execWriteVolatileConfiguration_only {L : List Part} (c : SpiCmd) (s : State) (hL : [.ports, .log, .atn, .out] ⊆
    L) : s.onlyRes L (execWriteVolatileConfiguration c s) := by
  have h0 := State.only_refl L s
  unfold execWriteVolatileConfiguration
  repeat' first
    | with_reducible first
        | assumption | apply State.fresh_only | apply State.disarm_only | apply State.passThrough_only
        | apply State.refuse_only | apply State.modPort_only | refine State.plainCmd_only _ _ _ _ _ _ ?_ ?_ ?_ ?_ ?_
        | refine onlyRes_next ?_ | refine ite_only ?_ ?_
    | with_reducible intro _ _ _ | with_reducible intro _ _ | exact hL (by decide)
    | exact List.Subset.trans (by decide) hL | split | (dsimp only)

theorem execSecurityRegisterCommand_only {L : List Part} (c : SpiCmd) (erase : Bool) (s : State) (hL : [.ports, .log,
    .atn, .out] ⊆ L) : s.onlyRes L (execSecurityRegisterCommand c erase s) := by
  have h0 := State.only_refl L s
  unfold execSecurityRegisterCommand
  repeat' first
    | with_reducible first
        | assumption | apply State.fresh_only | apply State.disarm_only | apply State.refuse_only
        | apply State.unknownCmd_only | refine State.plainCmd_only _ _ _ _ _ _ ?_ ?_ ?_ ?_ ?_ | refine onlyRes_next ?_
        | refine ite_only ?_ ?_
    | with_reducible intro _ _ _ | with_reducible intro _ _ | exact hL (by decide) | exact List.Subset.trans (by decide) hL | split | (dsimp only)

theorem execEnter4ByteAddressMode_only {L : List Part} (c : SpiCmd) (s : State) (hL : [.ports, .atn, .out] ⊆ L) :
    s.onlyRes L (execEnter4ByteAddressMode c s) := by
  have h0 := State.only_refl L s
  unfold execEnter4ByteAddressMode
  repeat' first
    | with_reducible first
        | assumption | apply State.fresh_only | apply State.disarm_only | apply State.passThrough_only
        | apply State.modPort_only | apply State.unknownCmd_only
        | refine State.plainCmd_only _ _ _ _ _ _ ?_ ?_ ?_ ?_ ?_ | refine onlyRes_next ?_
    | with_reducible intro _ _ _ | with_reducible intro _ _ | exact hL (by decide)
    | exact List.Subset.trans (by decide) hL | (dsimp only)

theorem execExit4ByteAddressMode_only {L : List Part} (c : SpiCmd) (s : State) (hL : [.ports, .atn, .out] ⊆ L) :
    s.onlyRes L (execExit4ByteAddressMode c s) := by
  have h0 := State.only_refl L s
  unfold execExit4ByteAddressMode
  repeat' first
    | with_reducible first
        | assumption | apply State.fresh_only | apply State.disarm_only | apply State.passThrough_only
        | apply State.modPort_only | apply State.unknownCmd_only
        | refine State.plainCmd_only _ _ _ _ _ _ ?_ ?_ ?_ ?_ ?_ | refine onlyRes_next ?_
    | with_reducible intro _ _ _ | with_reducible intro _ _ | exact hL (by decide)
    | exact List.Subset.trans (by decide) hL | (dsimp only)

theorem execEnterQpi_only {L : List Part} (c : SpiCmd) (s : State) (hL : [.ports, .log, .atn, .out] ⊆ L) : s.onlyRes L
    (execEnterQpi c s) := by
  have h0 := State.only_refl L s
  unfold execEnterQpi
  repeat' first
    | with_reducible first
        | assumption | apply State.fresh_only | apply State.disarm_only | apply State.passThrough_only
        | apply State.refuse_only | apply State.modPort_only | refine State.plainCmd_only _ _ _ _ _ _ ?_ ?_ ?_ ?_ ?_
        | refine onlyRes_next ?_ | refine ite_only ?_ ?_
    | with_reducible intro _ _ _ | with_reducible intro _ _ | exact hL (by decide)
    | exact List.Subset.trans (by decide) hL | split | (dsimp only)

theorem execExitQpi_only {L : List Part} (c : SpiCmd) (s : State) (hL : [.ports, .log, .atn, .out] ⊆ L) : s.onlyRes L
    (execExitQpi c s) := by
  have h0 := State.only_refl L s
  unfold execExitQpi
  repeat' first
    | with_reducible first
        | assumption | apply State.fresh_only | apply State.disarm_only | apply State.passThrough_only
        | apply State.leaveQpi_only | apply State.refuse_only | refine State.plainCmd_only _ _ _ _ _ _ ?_ ?_ ?_ ?_ ?_
        | refine onlyRes_next ?_
    | with_reducible intro _ _ _ | with_reducible intro _ _ | exact hL (by decide) | exact List.Subset.trans (by decide) hL | (dsimp only)

theorem execResetEnable_only {L : List Part} (c : SpiCmd) (s : State) (hL : [.ports, .atn, .out] ⊆ L) : s.onlyRes L
    (execResetEnable c s) := by
  have h0 := State.only_refl L s
  unfold execResetEnable
  repeat' first
    | with_reducible first
        | assumption | apply State.fresh_only | apply State.disarm_only | apply State.passThrough_only
        | apply State.modPort_only | apply State.unknownCmd_only
        | refine State.plainCmd_only _ _ _ _ _ _ ?_ ?_ ?_ ?_ ?_ | refine onlyRes_next ?_
    | with_reducible intro _ _ _ | with_reducible intro _ _ | exact hL (by decide)
    | exact List.Subset.trans (by decide) hL | (dsimp only)

theorem execStileReset_only {L : List Part} (c : SpiCmd) (s : State) (hL : [.ports, .atn, .out] ⊆ L) : s.onlyRes L
    (execStileReset c s) := by
  have h0 := State.only_refl L s
  unfold execStileReset
  repeat' first
    | with_reducible first
        | assumption | apply State.fresh_only | apply State.disarm_only | apply State.passThrough_only
        | apply State.portResetWire_only | apply State.unknownCmd_only
        | refine State.plainCmd_only _ _ _ _ _ _ ?_ ?_ ?_ ?_ ?_ | refine onlyRes_next ?_ | refine ite_only ?_ ?_
    | with_reducible intro _ _ _ | with_reducible intro _ _ | exact hL (by decide)
    | exact List.Subset.trans (by decide) hL | split | (dsimp only)

theorem execUnknownCommand_only {L : List Part} (c : SpiCmd) (opcode : Nat) (s : State) (hL : [.ports, .log, .atn, .out]
    ⊆ L) : s.onlyRes L (execUnknownCommand c opcode s) := by
  have h0 := State.only_refl L s
  unfold execUnknownCommand
  repeat' first
    | with_reducible first
        | assumption | apply State.fresh_only | apply State.disarm_only | apply State.interrupt_only
        | apply State.emit_only | apply State.modPort_only | apply State.latch_only | apply State.cancelDown_only
        | apply State.refuse_only | apply State.passThrough_only | apply State.unknownCmd_only
        | refine onlyRes_next ?_ | refine ite_only ?_ ?_
    | with_reducible intro _ _ _ | with_reducible intro _ _ | exact hL (by decide) | exact List.Subset.trans (by decide) hL | split | (dsimp only)

theorem execStnRstNLow_only {L : List Part} (port : Nat) (s : State) (hL : [.ports, .out] ⊆ L) : s.onlyRes L
    (execStnRstNLow port s) := by
  have h0 := State.only_refl L s
  unfold execStnRstNLow
  repeat' first
    | with_reducible first
        | assumption | apply State.fresh_only | apply State.portResetWire_only | refine onlyRes_next ?_
    | exact List.Subset.trans (by decide) hL

theorem execRefusedBusyEnd_only {L : List Part} (port : Nat) (s : State) (hL : [.ports, .out] ⊆ L) : s.onlyRes L
    (execRefusedBusyEnd port s) := by
  have h0 := State.only_refl L s
  unfold execRefusedBusyEnd
  repeat' first
    | with_reducible first
        | assumption | apply State.fresh_only | apply State.modPort_only | refine onlyRes_next ?_
    | exact List.Subset.trans (by decide) hL | split

theorem execDownstreamStatusPoll_only {L : List Part} (port : Nat) (idle : Bool) (s : State) (hL : [.ports, .out] ⊆ L)
    : s.onlyRes L (execDownstreamStatusPoll port idle s) := by
  have h0 := State.only_refl L s
  unfold execDownstreamStatusPoll
  repeat' first
    | with_reducible first
        | assumption | apply State.fresh_only | apply State.emit_only | apply State.modPort_only
        | refine onlyRes_next ?_ | refine ite_only ?_ ?_
    | exact List.Subset.trans (by decide) hL

theorem execTagVerdict_only {L : List Part} (port host : Nat) (block : Bytes) (s : State) (hL : [.hal, .ports, .log,
    .atn, .out] ⊆ L) : s.onlyRes L (execTagVerdict port host block s) := by
  have h0 := State.only_refl L s
  unfold execTagVerdict
  repeat' first
    | with_reducible first
        | assumption | apply State.fresh_only | apply State.modPort_only | apply State.tagFailed_only
        | refine onlyRes_next ?_ | refine ite_only ?_ ?_
    | exact List.Subset.trans (by decide) hL | split

theorem execDebtClearRead_only {L : List Part} (port : Nat) (s : State) (hL : [.out] ⊆ L) : s.onlyRes L
    (execDebtClearRead port s) := by
  have h0 := State.only_refl L s
  unfold execDebtClearRead
  repeat' first
    | with_reducible first
        | assumption | apply State.fresh_only | refine onlyRes_next ?_ | refine ite_only ?_ ?_
    | exact hL (by decide) | exact List.Subset.trans (by decide) hL | split
    | (refine State.readBlock_only (by assumption) ?_ ?_) | (dsimp only)

theorem execSweepComplete_only {L : List Part} (port : Nat) (s : State) (hL : [.ports, .log, .atn, .out] ⊆ L) :
    s.onlyRes L (execSweepComplete port s) := by
  have h0 := State.only_refl L s
  unfold execSweepComplete
  repeat' first
    | with_reducible first
        | assumption | apply State.fresh_only | apply State.modPort_only | apply State.latch_only | apply State.ev_only
        | apply State.beginSweep_only | refine onlyRes_next ?_ | refine ite_only ?_ ?_
    | exact List.Subset.trans (by decide) hL | split

theorem execSweepLate_only {L : List Part} (port : Nat) (s : State) (hL : [.ports, .log, .atn, .out] ⊆ L) : s.onlyRes
    L (execSweepLate port s) := by
  have h0 := State.only_refl L s
  unfold execSweepLate
  repeat' first
    | with_reducible first
        | assumption | apply State.fresh_only | apply State.modPort_only | apply State.latch_only | apply State.ev_only
        | refine onlyRes_next ?_
    | exact List.Subset.trans (by decide) hL | split

theorem execPlatformTrialExpiry_only {L : List Part} (port : Nat) (s : State) (hL : [.ports, .log, .atn, .out] ⊆ L) :
    s.onlyRes L (execPlatformTrialExpiry port s) := by
  have h0 := State.only_refl L s
  unfold execPlatformTrialExpiry
  repeat' first
    | with_reducible first
        | assumption | apply State.fresh_only | apply State.modPort_only | apply State.latch_only | apply State.ev_only
        | apply State.recoverAsk_only | refine onlyRes_next ?_
    | exact List.Subset.trans (by decide) hL | split

theorem execRecoveryComplete_only {L : List Part} (port : Nat) (h : HoldInput) (s : State) (hL : [.core, .hal, .ports,
    .par, .tack, .yard, .devJobs, .nextJob, .log, .atn, .out] ⊆ L) : s.onlyRes L (execRecoveryComplete port h s) := by
  have h0 := State.only_refl L s
  unfold execRecoveryComplete
  repeat' first
    | with_reducible first
        | assumption | apply State.fresh_only | apply State.endPortHold_only | apply State.modPort_only
        | apply State.latch_only | apply State.ev_only | apply State.setOp_only | apply State.holdingActs_only
        | refine onlyRes_next ?_ | refine ite_only ?_ ?_
    | with_reducible intro _ _ _ | with_reducible intro _ _ | exact hL (by decide) | exact List.Subset.trans (by decide) hL | split | (dsimp only)

theorem execQueryDeviceIdentifiers_only {L : List Part} (q : PldmFrom) (s : State) (hL : [.par, .atn, .out] ⊆ L) :
    s.onlyRes L (execQueryDeviceIdentifiers q s) := by
  have h0 := State.only_refl L s
  unfold execQueryDeviceIdentifiers
  repeat' first
    | with_reducible first
        | assumption | apply State.pldmReply_only | refine State.pldmReq_only _ _ _ _ _ ?_ ?_ ?_
        | refine onlyRes_next ?_
    | with_reducible intro _ _ _ | with_reducible intro _ _ | exact hL (by decide) | exact List.Subset.trans (by decide) hL | (dsimp only)

theorem execGetFirmwareParameters_only {L : List Part} (q : PldmFrom) (s : State) (hL : [.par, .atn, .out] ⊆ L) :
    s.onlyRes L (execGetFirmwareParameters q s) := by
  have h0 := State.only_refl L s
  unfold execGetFirmwareParameters
  repeat' first
    | with_reducible first
        | assumption | apply State.pldmReply_only | refine State.pldmReq_only _ _ _ _ _ ?_ ?_ ?_
        | refine onlyRes_next ?_
    | with_reducible intro _ _ _ | with_reducible intro _ _ | exact hL (by decide) | exact List.Subset.trans (by decide) hL | (dsimp only)

theorem execRequestUpdate_only {L : List Part} (q : PldmFrom) (maxXfer : Nat) (s : State) (hL : [.pldm, .par, .atn, .out] ⊆ L) :
    s.onlyRes L (execRequestUpdate q maxXfer s) := by
  have h0 := State.only_refl L s
  unfold execRequestUpdate
  repeat' first
    | with_reducible first
        | assumption | apply State.pldmReply_only | apply State.modPldm_only | apply State.modPldm_only
        | refine State.pldmReq_only _ _ _ _ _ ?_ ?_ ?_ | refine onlyRes_next ?_ | refine ite_only ?_ ?_
    | with_reducible intro _ _ _ | with_reducible intro _ _ | exact hL (by decide) | exact List.Subset.trans (by decide) hL | split | (dsimp only)

theorem execPassComponentTable_only {L : List Part} (q : PldmFrom) (comp : Component) (s : State) (hL : [.pldm, .par, .atn, .out] ⊆
    L) : s.onlyRes L (execPassComponentTable q comp s) := by
  have h0 := State.only_refl L s
  unfold execPassComponentTable
  repeat' first
    | with_reducible first
        | assumption | apply State.pldmReply_only | apply State.modPldm_only | apply State.modPldm_only
        | refine State.pldmReq_only _ _ _ _ _ ?_ ?_ ?_ | refine onlyRes_next ?_ | refine ite_only ?_ ?_
    | with_reducible intro _ _ _ | with_reducible intro _ _ | exact hL (by decide) | exact List.Subset.trans (by decide) hL | split | (dsimp only)

theorem execUpdateComponent_only {L : List Part} (q : PldmFrom) (comp : Component) (stamp size : Nat) (s : State) (hL : [.pldm, .par, .log,
    .atn, .out] ⊆ L) : s.onlyRes L (execUpdateComponent q comp stamp size s) := by
  have h0 := State.only_refl L s
  unfold execUpdateComponent
  repeat' first
    | with_reducible first
        | assumption | apply State.pldmReply_only | apply State.latch_only | apply State.ev_only
        | apply State.modPldm_only | apply State.requestData_only | apply State.modPldm_only
        | refine State.pldmReq_only _ _ _ _ _ ?_ ?_ ?_ | refine onlyRes_next ?_ | refine ite_only ?_ ?_
    | with_reducible intro _ _ _ | with_reducible intro _ _ | exact hL (by decide) | exact List.Subset.trans (by decide) hL | split | (dsimp only)

theorem execFirmwareDataReceived_only {L : List Part} (q : PldmFrom) (data : Bytes) (flashOk : Bool) (readback : Option
    (List Bytes)) (s : State) (hL : [.boot, .ports, .pldm, .par, .devJobs, .nextJob, .log, .atn, .out] ⊆ L) : s.onlyRes
    L (execFirmwareDataReceived q data flashOk readback s) := by
  have h0 := State.only_refl L s
  unfold execFirmwareDataReceived
  repeat' first
    | with_reducible first
        | assumption | apply State.fresh_only | apply State.lateMctp_only | apply State.modPldm_only
        | apply State.portionIn_only | apply State.modPldm_only | refine onlyRes_next ?_ | refine ite_only ?_ ?_
    | with_reducible intro _ _ _ | with_reducible intro _ _ | exact hL (by decide) | exact List.Subset.trans (by decide) hL | split | (dsimp only)

theorem execActivateFirmware_only {L : List Part} (q : PldmFrom) (selfContained : Bool) (s : State) (hL : [.ports, .pldm,
    .par, .log, .atn, .out] ⊆ L) : s.onlyRes L (execActivateFirmware q selfContained s) := by
  have h0 := State.only_refl L s
  unfold execActivateFirmware
  repeat' first
    | with_reducible first
        | assumption | apply State.pldmReply_only | apply State.portActivate_only | apply State.modPldm_only
        | apply State.ev_only | apply State.modPldm_only | refine State.pldmReq_only _ _ _ _ _ ?_ ?_ ?_
        | refine onlyRes_next ?_ | refine foldl_only _ _ _ ?_ ?_ | refine ite_only ?_ ?_ | refine ite_only_fst ?_ ?_
        | refine ite_only_snd ?_ ?_
    | with_reducible intro _ _ _ | with_reducible intro _ _ | exact hL (by decide) | exact List.Subset.trans (by decide) hL | split | (dsimp only)

theorem execGetStatus_only {L : List Part} (q : PldmFrom) (s : State) (hL : [.par, .atn, .out] ⊆ L) : s.onlyRes L
    (execGetStatus q s) := by
  have h0 := State.only_refl L s
  unfold execGetStatus
  repeat' first
    | with_reducible first
        | assumption | apply State.pldmReply_only | refine State.pldmReq_only _ _ _ _ _ ?_ ?_ ?_
        | refine onlyRes_next ?_
    | with_reducible intro _ _ _ | with_reducible intro _ _ | exact hL (by decide) | exact List.Subset.trans (by decide) hL | (dsimp only)

theorem execCancelUpdateComponent_only {L : List Part} (q : PldmFrom) (s : State) (hL : [.boot, .ports, .pldm, .par,
    .yard, .devJobs, .log, .atn, .out] ⊆ L) : s.onlyRes L (execCancelUpdateComponent q s) := by
  have h0 := State.only_refl L s
  unfold execCancelUpdateComponent
  repeat' first
    | with_reducible first
        | assumption | apply State.pldmReply_only | apply State.endTransfer_only
        | refine State.pldmReq_only _ _ _ _ _ ?_ ?_ ?_ | refine onlyRes_next ?_ | refine ite_only ?_ ?_
    | with_reducible intro _ _ _ | with_reducible intro _ _ | exact hL (by decide) | exact List.Subset.trans (by decide) hL | split | (dsimp only)

theorem execCancelUpdate_only {L : List Part} (q : PldmFrom) (s : State) (hL : [.boot, .ports, .pldm, .par, .yard,
    .devJobs, .log, .atn, .out] ⊆ L) : s.onlyRes L (execCancelUpdate q s) := by
  have h0 := State.only_refl L s
  unfold execCancelUpdate
  repeat' first
    | with_reducible first
        | assumption | apply State.pldmReply_only | apply State.endTransfer_only | apply State.modPldm_only
        | apply State.modPldm_only | refine State.pldmReq_only _ _ _ _ _ ?_ ?_ ?_ | refine onlyRes_next ?_
        | refine ite_only ?_ ?_
    | with_reducible intro _ _ _ | with_reducible intro _ _ | exact hL (by decide) | exact List.Subset.trans (by decide) hL | split | (dsimp only)

theorem execPldmTimeout_only {L : List Part} (s : State) (hL : [.boot, .ports, .pldm, .yard, .devJobs, .log, .atn, .out]
    ⊆ L) : s.onlyRes L (execPldmTimeout s) := by
  have h0 := State.only_refl L s
  unfold execPldmTimeout
  repeat' first
    | with_reducible first
        | assumption | apply State.fresh_only | apply State.endTransfer_only | apply State.modPldm_only
        | apply State.modPldm_only | refine onlyRes_next ?_ | refine ite_only ?_ ?_
    | with_reducible intro _ _ _ | with_reducible intro _ _ | exact hL (by decide) | exact List.Subset.trans (by decide) hL | split | (dsimp only)

theorem execSetEndpointId_only {L : List Part} (bus eid : Nat) (s : State) (hL : [.par, .out] ⊆ L) : s.onlyRes L
    (execSetEndpointId bus eid s) := by
  have h0 := State.only_refl L s
  unfold execSetEndpointId
  repeat' first
    | with_reducible first
        | assumption | apply State.fresh_only | apply State.modPar_only | apply State.mctpAnswer_only
        | apply State.modPar_only | refine onlyRes_next ?_ | refine ite_only ?_ ?_
    | with_reducible intro _ _ _ | with_reducible intro _ _ | exact hL (by decide) | exact List.Subset.trans (by decide) hL | split | (dsimp only)

theorem execDynamicAddressAssignment_only {L : List Part} (bus addr : Nat) (s : State) (hL : [.par, .atn, .out] ⊆ L) :
    s.onlyRes L (execDynamicAddressAssignment bus addr s) := by
  have h0 := State.only_refl L s
  unfold execDynamicAddressAssignment
  repeat' first
    | with_reducible first
        | assumption | apply State.fresh_only | apply State.setDyn_only | refine onlyRes_next ?_
        | refine ite_only ?_ ?_
    | exact List.Subset.trans (by decide) hL

theorem execRstdaa_only {L : List Part} (bus : Nat) (s : State) (hL : [.par, .atn, .out] ⊆ L) : s.onlyRes L
    (execRstdaa bus s) := by
  have h0 := State.only_refl L s
  unfold execRstdaa
  repeat' first
    | with_reducible first
        | assumption | apply State.fresh_only | apply State.setDyn_only | refine onlyRes_next ?_
        | refine ite_only ?_ ?_
    | exact List.Subset.trans (by decide) hL

theorem execEnthdr_only {L : List Part} (_bus _transfers : Nat) (s : State) (hL : [.out] ⊆ L) : s.onlyRes L
    (execEnthdr _bus _transfers s) := by
  have h0 := State.only_refl L s
  unfold execEnthdr
  repeat' with_reducible first
    | assumption | apply State.fresh_only | refine onlyRes_next ?_

theorem execHotJoin_only {L : List Part} (f : Found) (s : State) (hL : [.par, .tack, .yard, .devJobs, .log, .atn, .out]
    ⊆ L) : s.onlyRes L (execHotJoin f s) := by
  have h0 := State.only_refl L s
  unfold execHotJoin
  repeat' first
    | with_reducible first
        | assumption | apply State.fresh_only | apply State.latch_only | apply State.emit_only
        | apply State.discover_only | refine onlyRes_next ?_ | refine ite_only ?_ ?_
    | exact hL (by decide) | exact List.Subset.trans (by decide) hL | split | (dsimp only)

theorem execRequesterResponse_only {L : List Part} (k : Nat) (r : Resp) (s : State) (hL : [.par, .tack, .devJobs,
    .nextJob, .log, .atn, .out] ⊆ L) : s.onlyRes L (execRequesterResponse k r s) := by
  have h0 := State.only_refl L s
  unfold execRequesterResponse
  repeat' first
    | with_reducible first
        | assumption | apply State.fresh_only | apply State.lateMctp_only | apply State.modPar_only
        | apply State.latch_only | apply State.modPartner_only | apply State.stepDone_only | apply State.modPar_only
        | refine onlyRes_next ?_ | refine ite_only ?_ ?_
    | with_reducible intro _ _ _ | with_reducible intro _ _ | exact hL (by decide) | exact List.Subset.trans (by decide) hL | split | (dsimp only)

theorem execRequesterTimeout_only {L : List Part} (k : Nat) (s : State) (hL : [.par, .log, .atn, .out] ⊆ L) : s.onlyRes
    L (execRequesterTimeout k s) := by
  have h0 := State.only_refl L s
  unfold execRequesterTimeout
  repeat' first
    | with_reducible first
        | assumption | apply State.fresh_only | apply State.restTag_only | apply State.modPartner_only
        | apply State.sendReq_only | apply State.partnerVerdict_only | refine onlyRes_next ?_ | refine ite_only ?_ ?_
    | with_reducible intro _ _ _ | with_reducible intro _ _ | exact hL (by decide) | exact List.Subset.trans (by decide) hL | split | (dsimp only)

theorem execPartnerPoll_only {L : List Part} (k : Nat) (answered : Bool) (s : State) (hL : [.par, .yard, .devJobs, .log,
    .atn, .out] ⊆ L) : s.onlyRes L (execPartnerPoll k answered s) := by
  have h0 := State.only_refl L s
  unfold execPartnerPoll
  repeat' first
    | with_reducible first
        | assumption | apply State.fresh_only | apply State.ctrlReq_only | apply State.restTag_only
        | apply State.modPartner_only | apply State.depart_only | refine onlyRes_next ?_ | refine onlyRes_ite ?_ ?_
        | refine ite_only ?_ ?_
    | with_reducible intro _ _ _ | with_reducible intro _ _ | exact hL (by decide) | exact List.Subset.trans (by decide) hL | split | (dsimp only)

theorem execQuarantineExpiry_only {L : List Part} (eid : Bool) (bus v : Nat) (s : State) (hL : [.par, .tack, .yard,
    .devJobs, .log, .atn, .out] ⊆ L) : s.onlyRes L (execQuarantineExpiry eid bus v s) := by
  have h0 := State.only_refl L s
  unfold execQuarantineExpiry
  repeat' first
    | with_reducible first
        | assumption | apply State.fresh_only | apply State.modPar_only | apply State.joinMctp_only
        | apply State.modPar_only | refine onlyRes_next ?_ | refine ite_only ?_ ?_ | refine ite_only_fst ?_ ?_
        | refine ite_only_snd ?_ ?_
    | with_reducible intro _ _ _ | with_reducible intro _ _ | exact hL (by decide) | exact List.Subset.trans (by decide) hL | split | (dsimp only)

theorem execReattestTimer_only {L : List Part} (s : State) (hL : [.par, .tack, .yard, .devJobs, .log, .out] ⊆ L) :
    s.onlyRes L (execReattestTimer s) := by
  have h0 := State.only_refl L s
  unfold execReattestTimer
  repeat' first
    | with_reducible first
        | assumption | apply State.fresh_only | apply State.attest_only | apply State.modPar_only
        | apply State.modPar_only | refine onlyRes_next ?_ | refine foldl_only _ _ _ ?_ ?_ | refine ite_only ?_ ?_
    | with_reducible intro _ _ _ | with_reducible intro _ _ | exact hL (by decide) | exact List.Subset.trans (by decide) hL | split | (dsimp only)

theorem execGetVersion_only {L : List Part} (q : SpdmReq) (s : State) (hL : [.par, .dmb, .atn, .out] ⊆ L) : s.onlyRes L
    (execGetVersion q s) := by
  have h0 := State.only_refl L s
  unfold execGetVersion
  repeat' first
    | with_reducible first
        | assumption | apply State.fresh_only | apply State.spdmErr_only | apply State.putConn_only
        | apply State.spdmReply_only | refine onlyRes_next ?_ | refine ite_only ?_ ?_
    | exact hL (by decide) | exact List.Subset.trans (by decide) hL | split
    | (refine State.spdmTakes_only (by assumption) ?_ ?_) | (dsimp only)

theorem execGetCapabilities_only {L : List Part} (q : SpdmReq) (s : State) (hL : [.par, .dmb, .atn, .out] ⊆ L) :
    s.onlyRes L (execGetCapabilities q s) := by
  have h0 := State.only_refl L s
  unfold execGetCapabilities
  repeat' first
    | with_reducible first
        | assumption | apply State.spdmReq_only | apply State.spdmErr_only | apply State.putConn_only
        | apply State.spdmReply_only | intro _ | refine ite_only ?_ ?_
    | exact List.Subset.trans (by decide) hL

theorem execNegotiateAlgorithms_only {L : List Part} (q : SpdmReq) (common : Bool) (s : State) (hL : [.par, .dmb,
    .atn, .out] ⊆ L) : s.onlyRes L (execNegotiateAlgorithms q common s) := by
  have h0 := State.only_refl L s
  unfold execNegotiateAlgorithms
  repeat' first
    | with_reducible first
        | assumption | apply State.spdmReq_only | apply State.putConn_only | apply State.spdmReply_only
        | apply State.spdmErr_only | intro _ | refine ite_only ?_ ?_
    | exact List.Subset.trans (by decide) hL

theorem execGetDigests_only {L : List Part} (q : SpdmReq) (s : State) (hL : [.par, .dmb, .atn, .out] ⊆ L) : s.onlyRes
    L (execGetDigests q s) := by
  have h0 := State.only_refl L s
  unfold execGetDigests
  repeat' first
    | with_reducible first
        | assumption | apply State.spdmReq_only | apply State.spdmReply_only | intro _
    | exact List.Subset.trans (by decide) hL

theorem execGetCertificate_only {L : List Part} (q : SpdmReq) (slot off len : Nat) (s : State) (hL : [.par, .dmb,
    .atn, .out] ⊆ L) : s.onlyRes L (execGetCertificate q slot off len s) := by
  have h0 := State.only_refl L s
  unfold execGetCertificate
  repeat' first
    | with_reducible first
        | assumption | apply State.spdmReq_only | apply State.spdmErr_only | apply State.spdmReply_only | intro _
    | exact List.Subset.trans (by decide) hL | split

theorem execChallenge_only {L : List Part} (q : SpdmReq) (slot summary : Nat) (s : State) (hL : [.par, .devJobs,
    .nextJob, .dmb, .atn, .out] ⊆ L) : s.onlyRes L (execChallenge q slot summary s) := by
  have h0 := State.only_refl L s
  unfold execChallenge
  repeat' first
    | with_reducible first
        | assumption | apply State.spdmErr_only | apply State.signOwed_only
        | refine State.spdmReq_only _ _ _ _ _ ?_ ?_ ?_ | refine onlyRes_next ?_ | refine ite_only ?_ ?_
    | with_reducible intro _ _ _ | with_reducible intro _ _ | exact hL (by decide) | exact List.Subset.trans (by decide) hL | split | (dsimp only)

theorem execGetMeasurements_only {L : List Part} (q : SpdmReq) (index : Nat) (sign : Bool) (s : State) (hL : [.par,
    .devJobs, .nextJob, .dmb, .atn, .out] ⊆ L) : s.onlyRes L (execGetMeasurements q index sign s) := by
  have h0 := State.only_refl L s
  unfold execGetMeasurements
  repeat' first
    | with_reducible first
        | assumption | apply State.putConn_only | apply State.spdmErr_only | apply State.signOwed_only
        | apply State.spdmReply_only | refine State.spdmReq_only _ _ _ _ _ ?_ ?_ ?_ | refine onlyRes_next ?_
        | refine ite_only ?_ ?_
    | with_reducible intro _ _ _ | with_reducible intro _ _ | exact hL (by decide) | exact List.Subset.trans (by decide) hL | split | (dsimp only)

theorem execKeyExchange_only {L : List Part} (q : SpdmReq) (slot : Nat) (s : State) (hL : [.par, .devJobs, .nextJob,
    .dmb, .atn, .out] ⊆ L) : s.onlyRes L (execKeyExchange q slot s) := by
  have h0 := State.only_refl L s
  unfold execKeyExchange
  repeat' first
    | with_reducible first
        | assumption | apply State.spdmErr_only | apply State.latch_only | apply State.signOwed_only
        | refine State.spdmReq_only _ _ _ _ _ ?_ ?_ ?_ | refine onlyRes_next ?_ | refine ite_only ?_ ?_
    | with_reducible intro _ _ _ | with_reducible intro _ _ | exact hL (by decide) | exact List.Subset.trans (by decide) hL | split | (dsimp only)

theorem execFinish_only {L : List Part} (q : SpdmReq) (sid : Nat) (hmacOk : Bool) (s : State) (hL : [.par, .dmb, .dict,
    .log, .atn, .out] ⊆ L) : s.onlyRes L (execFinish q sid hmacOk s) := by
  have h0 := State.only_refl L s
  unfold execFinish
  repeat' first
    | with_reducible first
        | assumption | apply State.spdmErr_only | apply State.endSpdm_only | apply State.modSpdm_only
        | apply State.spdmReply_only | apply State.ev_only | refine State.spdmInReq_only _ _ _ _ ?_ ?_ ?_
        | refine onlyRes_next ?_ | refine ite_only ?_ ?_
    | with_reducible intro _ _ _ | with_reducible intro _ _ | exact hL (by decide) | exact List.Subset.trans (by decide) hL | split | (dsimp only)

theorem execHeartbeat_only {L : List Part} (q : SpdmReq) (sid : Nat) (s : State) (hL : [.par, .dmb, .atn, .out] ⊆ L) :
    s.onlyRes L (execHeartbeat q sid s) := by
  have h0 := State.only_refl L s
  unfold execHeartbeat
  repeat' first
    | with_reducible first
        | assumption | apply State.spdmReply_only | apply State.spdmErr_only
        | refine State.spdmInReq_only _ _ _ _ ?_ ?_ ?_ | refine onlyRes_next ?_ | refine ite_only ?_ ?_
    | with_reducible intro _ _ _ | with_reducible intro _ _ | exact hL (by decide) | exact List.Subset.trans (by decide) hL | split | (dsimp only)

theorem execKeyUpdate_only {L : List Part} (q : SpdmReq) (sid op : Nat) (s : State) (hL : [.par, .dmb, .atn, .out] ⊆ L)
    : s.onlyRes L (execKeyUpdate q sid op s) := by
  have h0 := State.only_refl L s
  unfold execKeyUpdate
  repeat' first
    | with_reducible first
        | assumption | apply State.spdmErr_only | apply State.modSpdm_only | apply State.spdmReply_only
        | refine State.spdmInReq_only _ _ _ _ ?_ ?_ ?_ | refine onlyRes_next ?_ | refine ite_only ?_ ?_
    | with_reducible intro _ _ _ | with_reducible intro _ _ | exact hL (by decide) | exact List.Subset.trans (by decide) hL | split | (dsimp only)

theorem execRespondIfReady_only {L : List Part} (q : SpdmReq) (s : State) (hL : [.par, .tack, .dmb, .atn, .out] ⊆ L) :
    s.onlyRes L (execRespondIfReady q s) := by
  have h0 := State.only_refl L s
  unfold execRespondIfReady
  repeat' first
    | with_reducible first
        | assumption | apply State.fresh_only | apply State.spdmErr_only | apply State.signedReply_only
        | apply State.notReady_only | refine onlyRes_next ?_ | refine ite_only ?_ ?_
    | with_reducible intro _ _ _ | with_reducible intro _ _ | exact hL (by decide) | exact List.Subset.trans (by decide) hL | split
    | (refine State.spdmTakes_only (by assumption) ?_ ?_) | (dsimp only)

theorem execUnsupportedSpdmRequest_only {L : List Part} (q : SpdmReq) (_code : Nat) (s : State) (hL : [.par, .dmb, .atn,
    .out] ⊆ L) : s.onlyRes L (execUnsupportedSpdmRequest q _code s) := by
  have h0 := State.only_refl L s
  unfold execUnsupportedSpdmRequest
  repeat' first
    | with_reducible first
        | assumption | apply State.fresh_only | apply State.spdmErr_only | refine onlyRes_next ?_
        | refine ite_only ?_ ?_
    | exact hL (by decide) | exact List.Subset.trans (by decide) hL | split
    | (refine State.spdmTakes_only (by assumption) ?_ ?_) | (dsimp only)

theorem execSecuredMessage_only {L : List Part} (q : SpdmReq) (sid : Nat) (aeadOk : Bool) (s : State) (hL : [.par,
    .dmb, .dict, .log, .atn, .out] ⊆ L) : s.onlyRes L (execSecuredMessage q sid aeadOk s) := by
  have h0 := State.only_refl L s
  unfold execSecuredMessage
  repeat' first
    | with_reducible first
        | assumption | apply State.spdmIn_only | apply State.spdmErr_only | apply State.endSpdm_only
        | apply State.latch_only | intro _ | refine ite_only ?_ ?_
    | exact List.Subset.trans (by decide) hL

theorem execSessionHeartbeatTimeout_only {L : List Part} (sid : Nat) (s : State) (hL : [.par, .dict, .log, .atn, .out] ⊆
    L) : s.onlyRes L (execSessionHeartbeatTimeout sid s) := by
  have h0 := State.only_refl L s
  unfold execSessionHeartbeatTimeout
  repeat' first
    | with_reducible first
        | assumption | apply State.fresh_only | apply State.endOwnSession_only | apply State.latch_only
        | apply State.endSpdm_only | refine onlyRes_next ?_ | refine ite_only ?_ ?_
    | with_reducible intro _ _ _ | with_reducible intro _ _ | exact hL (by decide) | exact List.Subset.trans (by decide) hL | split | (dsimp only)

theorem execClientHello_only {L : List Part} (port conn : Nat) (acceptable : Bool) (s : State) (hL : [.dict, .atn,
    .out] ⊆ L) : s.onlyRes L (execClientHello port conn acceptable s) := by
  have h0 := State.only_refl L s
  unfold execClientHello
  repeat' first
    | with_reducible first
        | assumption | apply State.fresh_only | apply State.emit_only | apply State.latch_only
        | apply State.modDict_only | refine onlyRes_next ?_ | refine ite_only ?_ ?_
    | exact hL (by decide) | exact List.Subset.trans (by decide) hL

theorem execDictOpen_only {L : List Part} (ch : Chan) (cred : Nat) (s : State) (hL : [.par, .tack, .dmb, .dict, .atn,
    .out] ⊆ L) : s.onlyRes L (execDictOpen ch cred s) := by
  have h0 := State.only_refl L s
  unfold execDictOpen
  repeat' first
    | with_reducible first
        | assumption | apply State.fresh_only | apply State.dictOff_only | apply State.emit_only
        | apply State.latch_only | apply State.sendReply_only | apply State.draw_only | apply State.freshId_only
        | apply State.modDict_only | refine onlyRes_next ?_
    | exact hL (by decide) | exact List.Subset.trans (by decide) hL | split

theorem execDictAuth_only {L : List Part} (r : Req) (key sig : Bytes) (binding : Bytes) (s : State) (hL : [.par,
    .devJobs, .nextJob, .dmb, .dict, .log, .atn, .out] ⊆ L) : s.onlyRes L (execDictAuth r key sig binding s) := by
  have h0 := State.only_refl L s
  unfold execDictAuth
  repeat' first
    | with_reducible first
        | assumption | apply State.fresh_only | apply State.dictDiscard_only | apply State.reply_only
        | apply State.dictOff_only | apply State.touch_only | apply State.authFails_only | apply State.modSession_only
        | apply State.addDev_only | apply State.authDone_only | refine State.request_only _ _ _ _ ?_ ?_ ?_
        | refine onlyRes_next ?_ | refine ite_only ?_ ?_
    | with_reducible intro _ _ _ | with_reducible intro _ _ | exact hL (by decide) | exact List.Subset.trans (by decide) hL | split | (dsimp only)

theorem execDictClose_only {L : List Part} (r : Req) (s : State) (hL : [.par, .dmb, .dict, .log, .atn, .out] ⊆ L) :
    s.onlyRes L (execDictClose r s) := by
  have h0 := State.only_refl L s
  unfold execDictClose
  repeat' first
    | with_reducible first
        | assumption | apply State.fresh_only | apply State.request_only | apply State.reply_only
        | apply State.endSession_only | refine onlyRes_next ?_ | intro _
    | exact List.Subset.trans (by decide) hL

theorem execDictRead_only {L : List Part} (ch : Chan) (r : Req) (index sub off : Nat) (s : State) (hL : [.par, .tack,
    .dmb, .cas, .dict, .lc, .atn, .out] ⊆ L) : s.onlyRes L (execDictRead ch r index sub off s) := by
  have h0 := State.only_refl L s
  unfold execDictRead
  repeat' first
    | with_reducible first
        | assumption | apply State.fresh_only | apply State.request_only | apply State.readOn_only
        | apply State.dictOff_only | apply State.sendReply_only | refine onlyRes_next ?_ | intro _
        | refine ite_only ?_ ?_
    | exact List.Subset.trans (by decide) hL

theorem execDictWrite_only {L : List Part} (r : Req) (index sub : Nat) (value : Bytes) (s : State) (hL : changeParts ⊆
    L) : s.onlyRes L (execDictWrite r index sub value s) := by
  have h0 := State.only_refl L s
  unfold execDictWrite
  repeat' first
    | with_reducible first
        | assumption | apply State.fresh_only | apply State.writeRow_only | refine onlyRes_next ?_
    | exact List.Subset.trans (by decide) hL

theorem execWritePart_only {L : List Part} (r : Req) (index sub off : Nat) (data : Bytes) (s : State) (hL : [.par,
    .dmb, .dict, .atn, .out] ⊆ L) : s.onlyRes L (execWritePart r index sub off data s) := by
  have h0 := State.only_refl L s
  unfold execWritePart
  repeat' first
    | with_reducible first
        | assumption | apply State.fresh_only | apply State.request_only | apply State.modSession_only
        | apply State.reply_only | refine onlyRes_next ?_ | intro _ | refine ite_only ?_ ?_
    | exact List.Subset.trans (by decide) hL

theorem execWriteEnd_only {L : List Part} (r : Req) (index sub total : Nat) (digest : Bytes) (s : State) (hL :
    changeParts ⊆ L) : s.onlyRes L (execWriteEnd r index sub total digest s) := by
  have h0 := State.only_refl L s
  unfold execWriteEnd
  repeat' first
    | with_reducible first
        | assumption | apply State.fresh_only | apply State.withApproval_only | apply State.modSession_only
        | apply State.reply_only | apply State.writeValue_only | refine onlyRes_next ?_ | intro _
        | refine ite_only ?_ ?_
    | exact List.Subset.trans (by decide) hL

theorem execApprove_only {L : List Part} (r : Req) (id : Nat) (digest : Bytes) (s : State) (hL : changeParts ⊆ L) :
    s.onlyRes L (execApprove r id digest s) := by
  have h0 := State.only_refl L s
  unfold execApprove
  repeat' first
    | with_reducible first
        | assumption | apply State.fresh_only | apply State.request_only | apply State.approveBy_only
        | refine onlyRes_next ?_ | intro _ | refine ite_only ?_ ?_
    | exact List.Subset.trans (by decide) hL

theorem execWithdraw_only {L : List Part} (r : Req) (id : Nat) (s : State) (hL : changeParts ⊆ L) : s.onlyRes L
    (execWithdraw r id s) := by
  have h0 := State.only_refl L s
  unfold execWithdraw
  repeat' first
    | with_reducible first
        | assumption | apply State.fresh_only | apply State.withdrawBy_only
        | refine State.request_only _ _ _ _ ?_ ?_ ?_ | refine onlyRes_next ?_
    | with_reducible intro _ _ _ | with_reducible intro _ _ | exact hL (by decide) | exact List.Subset.trans (by decide) hL | split | (dsimp only)

theorem execProposalExpiry_only {L : List Part} (id : Nat) (s : State) (hL : changeParts ⊆ L) : s.onlyRes L
    (execProposalExpiry id s) := by
  have h0 := State.only_refl L s
  unfold execProposalExpiry
  repeat' first
    | with_reducible first
        | assumption | apply State.fresh_only | apply State.logChange_only | refine onlyRes_next ?_
        | refine ite_only ?_ ?_
    | with_reducible intro _ _ _ | with_reducible intro _ _ | exact hL (by decide) | exact List.Subset.trans (by decide) hL | split | (dsimp only)

theorem execDictSessionIdle_only {L : List Part} (sid : Nat) (conn : Bool) (s : State) (hL : [.dict, .log, .atn, .out] ⊆ L) : s.onlyRes L (execDictSessionIdle sid conn s) := by
  have h0 := State.only_refl L s
  unfold execDictSessionIdle
  repeat' first
    | with_reducible first
        | assumption | apply State.fresh_only | apply State.endDtls_only | apply State.endSession_only
        | refine onlyRes_next ?_
    | exact List.Subset.trans (by decide) hL | split

theorem execRemoteRequest_only {L : List Part} (r : Req) (target op index sub : Nat) (value : Bytes) (role : Nat)
    (answer : Option Reply) (s : State) (hL : changeParts ⊆ L) : s.onlyRes L (execRemoteRequest r target op index sub
        value role answer s) := by
  have h0 := State.only_refl L s
  unfold execRemoteRequest
  repeat' first
    | with_reducible first
        | assumption | apply State.fresh_only | apply State.withApproval_only | apply State.remoteMaster_only
        | apply State.remoteMember_only | refine onlyRes_next ?_ | intro _ | refine ite_only ?_ ?_
    | exact List.Subset.trans (by decide) hL

theorem execFwActivate_only {L : List Part} (r : Req) (slot : Nat) (s : State) (hL : changeParts ⊆ L) : s.onlyRes L
    (execFwActivate r slot s) := by
  have h0 := State.only_refl L s
  unfold execFwActivate
  repeat' first
    | with_reducible first
        | assumption | apply State.fresh_only | apply State.writeRow_only | refine onlyRes_next ?_
    | exact List.Subset.trans (by decide) hL

theorem execFwConfirm_only {L : List Part} (r : Req) (v : Nat) (s : State) (hL : changeParts ⊆ L) : s.onlyRes L
    (execFwConfirm r v s) := by
  have h0 := State.only_refl L s
  unfold execFwConfirm
  repeat' first
    | with_reducible first
        | assumption | apply State.fresh_only | apply State.writeRow_only | refine onlyRes_next ?_
    | exact List.Subset.trans (by decide) hL

theorem execFwRestart_only {L : List Part} (r : Req) (v : Nat) (s : State) (hL : changeParts ⊆ L) : s.onlyRes L
    (execFwRestart r v s) := by
  have h0 := State.only_refl L s
  unfold execFwRestart
  repeat' first
    | with_reducible first
        | assumption | apply State.fresh_only | apply State.writeRow_only | refine onlyRes_next ?_
    | exact List.Subset.trans (by decide) hL

theorem execFwFloorRequest_only {L : List Part} (r : Req) (target : Nat) (s : State) (hL : changeParts ⊆ L) :
    s.onlyRes L (execFwFloorRequest r target s) := by
  have h0 := State.only_refl L s
  unfold execFwFloorRequest
  repeat' first
    | with_reducible first
        | assumption | apply State.fresh_only | apply State.writeRow_only | refine onlyRes_next ?_
    | exact List.Subset.trans (by decide) hL

theorem execTimetableLoad_only {L : List Part} (r : Req) (image : Bytes) (s : State) (hL : changeParts ⊆ L) :
    s.onlyRes L (execTimetableLoad r image s) := by
  have h0 := State.only_refl L s
  unfold execTimetableLoad
  repeat' first
    | with_reducible first
        | assumption | apply State.fresh_only | apply State.writeRow_only | refine onlyRes_next ?_
    | exact List.Subset.trans (by decide) hL

theorem execSheetSwitchRequest_only {L : List Part} (r : Req) (sheet : Nat) (s : State) (hL : changeParts ⊆ L) :
    s.onlyRes L (execSheetSwitchRequest r sheet s) := by
  have h0 := State.only_refl L s
  unfold execSheetSwitchRequest
  repeat' first
    | with_reducible first
        | assumption | apply State.fresh_only | apply State.writeRow_only | refine onlyRes_next ?_
    | exact List.Subset.trans (by decide) hL

theorem execHalterScheduleWrite_only {L : List Part} (r : Req) (value : Bytes) (s : State) (hL : changeParts ⊆ L) :
    s.onlyRes L (execHalterScheduleWrite r value s) := by
  have h0 := State.only_refl L s
  unfold execHalterScheduleWrite
  repeat' first
    | with_reducible first
        | assumption | apply State.fresh_only | apply State.writeRow_only | refine onlyRes_next ?_
    | exact List.Subset.trans (by decide) hL

theorem execHalterResume_only {L : List Part} (r : Req) (v : Nat) (s : State) (hL : changeParts ⊆ L) : s.onlyRes L
    (execHalterResume r v s) := by
  have h0 := State.only_refl L s
  unfold execHalterResume
  repeat' first
    | with_reducible first
        | assumption | apply State.fresh_only | apply State.writeRow_only | refine onlyRes_next ?_
    | exact List.Subset.trans (by decide) hL

theorem execHalterHoldClear_only {L : List Part} (r : Req) (v : Nat) (s : State) (hL : changeParts ⊆ L) : s.onlyRes L
    (execHalterHoldClear r v s) := by
  have h0 := State.only_refl L s
  unfold execHalterHoldClear
  repeat' first
    | with_reducible first
        | assumption | apply State.fresh_only | apply State.writeRow_only | refine onlyRes_next ?_
    | exact List.Subset.trans (by decide) hL

theorem execStileActivate_only {L : List Part} (r : Req) (port slot : Nat) (s : State) (hL : changeParts ⊆ L) :
    s.onlyRes L (execStileActivate r port slot s) := by
  have h0 := State.only_refl L s
  unfold execStileActivate
  repeat' first
    | with_reducible first
        | assumption | apply State.fresh_only | apply State.writeRow_only | refine onlyRes_next ?_
    | exact List.Subset.trans (by decide) hL

theorem execStileConfirm_only {L : List Part} (r : Req) (port v : Nat) (s : State) (hL : changeParts ⊆ L) : s.onlyRes
    L (execStileConfirm r port v s) := by
  have h0 := State.only_refl L s
  unfold execStileConfirm
  repeat' first
    | with_reducible first
        | assumption | apply State.fresh_only | apply State.writeRow_only | refine onlyRes_next ?_
    | exact List.Subset.trans (by decide) hL

theorem execStileRestart_only {L : List Part} (r : Req) (port v : Nat) (s : State) (hL : changeParts ⊆ L) : s.onlyRes
    L (execStileRestart r port v s) := by
  have h0 := State.only_refl L s
  unfold execStileRestart
  repeat' first
    | with_reducible first
        | assumption | apply State.fresh_only | apply State.writeRow_only | refine onlyRes_next ?_
    | exact List.Subset.trans (by decide) hL

theorem execManifestWrite_only {L : List Part} (r : Req) (port slot : Nat) (value : Bytes) (s : State) (hL :
    changeParts ⊆ L) : s.onlyRes L (execManifestWrite r port slot value s) := by
  have h0 := State.only_refl L s
  unfold execManifestWrite
  repeat' first
    | with_reducible first
        | assumption | apply State.fresh_only | apply State.writeRow_only | refine onlyRes_next ?_
    | exact List.Subset.trans (by decide) hL

theorem execStileFloorWrite_only {L : List Part} (r : Req) (port v : Nat) (s : State) (hL : changeParts ⊆ L) :
    s.onlyRes L (execStileFloorWrite r port v s) := by
  have h0 := State.only_refl L s
  unfold execStileFloorWrite
  repeat' first
    | with_reducible first
        | assumption | apply State.fresh_only | apply State.writeRow_only | refine onlyRes_next ?_
    | exact List.Subset.trans (by decide) hL

theorem execSlotBaseWrite_only {L : List Part} (r : Req) (port item v : Nat) (s : State) (hL : changeParts ⊆ L) :
    s.onlyRes L (execSlotBaseWrite r port item v s) := by
  have h0 := State.only_refl L s
  unfold execSlotBaseWrite
  repeat' first
    | with_reducible first
        | assumption | apply State.fresh_only | apply State.writeRow_only | refine onlyRes_next ?_
    | exact List.Subset.trans (by decide) hL

theorem execStileClockConfigWrite_only {L : List Part} (r : Req) (port item v : Nat) (s : State) (hL : changeParts ⊆
    L) : s.onlyRes L (execStileClockConfigWrite r port item v s) := by
  have h0 := State.only_refl L s
  unfold execStileClockConfigWrite
  repeat' first
    | with_reducible first
        | assumption | apply State.fresh_only | apply State.writeRow_only | refine onlyRes_next ?_
    | exact List.Subset.trans (by decide) hL

theorem execCreate_only {L : List Part} (r : Req) (header data : Bytes) (s : State) (hL : changeParts ⊆ L) : s.onlyRes
    L (execCreate r header data s) := by
  have h0 := State.only_refl L s
  unfold execCreate
  repeat' first
    | with_reducible first
        | assumption | apply State.fresh_only | apply State.writeRow_only | refine onlyRes_next ?_
    | exact List.Subset.trans (by decide) hL

theorem execImport_only {L : List Part} (r : Req) (header data : Bytes) (s : State) (hL : changeParts ⊆ L) : s.onlyRes
    L (execImport r header data s) := by
  have h0 := State.only_refl L s
  unfold execImport
  repeat' first
    | with_reducible first
        | assumption | apply State.fresh_only | apply State.writeRow_only | refine onlyRes_next ?_
    | exact List.Subset.trans (by decide) hL

theorem execDerive_only {L : List Part} (r : Req) (header data : Bytes) (s : State) (hL : changeParts ⊆ L) : s.onlyRes
    L (execDerive r header data s) := by
  have h0 := State.only_refl L s
  unfold execDerive
  repeat' first
    | with_reducible first
        | assumption | apply State.fresh_only | apply State.writeRow_only | refine onlyRes_next ?_
    | exact List.Subset.trans (by decide) hL

theorem execRevoke_only {L : List Part} (r : Req) (header : Bytes) (s : State) (hL : changeParts ⊆ L) : s.onlyRes L
    (execRevoke r header s) := by
  have h0 := State.only_refl L s
  unfold execRevoke
  repeat' first
    | with_reducible first
        | assumption | apply State.fresh_only | apply State.writeRow_only | refine onlyRes_next ?_
    | exact List.Subset.trans (by decide) hL

theorem execErase_only {L : List Part} (r : Req) (header : Bytes) (s : State) (hL : changeParts ⊆ L) : s.onlyRes L
    (execErase r header s) := by
  have h0 := State.only_refl L s
  unfold execErase
  repeat' first
    | with_reducible first
        | assumption | apply State.fresh_only | apply State.writeRow_only | refine onlyRes_next ?_
    | exact List.Subset.trans (by decide) hL

theorem execRewrite_only {L : List Part} (r : Req) (header : Bytes) (s : State) (hL : changeParts ⊆ L) : s.onlyRes L
    (execRewrite r header s) := by
  have h0 := State.only_refl L s
  unfold execRewrite
  repeat' first
    | with_reducible first
        | assumption | apply State.fresh_only | apply State.writeRow_only | refine onlyRes_next ?_
    | exact List.Subset.trans (by decide) hL

theorem execDrain_only {L : List Part} (r : Req) (header : Bytes) (s : State) (hL : changeParts ⊆ L) : s.onlyRes L
    (execDrain r header s) := by
  have h0 := State.only_refl L s
  unfold execDrain
  repeat' first
    | with_reducible first
        | assumption | apply State.fresh_only | apply State.writeRow_only | refine onlyRes_next ?_
    | exact List.Subset.trans (by decide) hL

theorem execExport_only {L : List Part} (r : Req) (header : Bytes) (s : State) (hL : changeParts ⊆ L) : s.onlyRes L
    (execExport r header s) := by
  have h0 := State.only_refl L s
  unfold execExport
  repeat' first
    | with_reducible first
        | assumption | apply State.fresh_only | apply State.writeRow_only | refine onlyRes_next ?_
    | exact List.Subset.trans (by decide) hL

theorem execDrainErase_only {L : List Part} (slot : Nat) (s : State) (hL : [.tack, .devJobs, .nextJob, .cas, .out] ⊆
    L) : s.onlyRes L (execDrainErase slot s) := by
  have h0 := State.only_refl L s
  unfold execDrainErase
  repeat' first
    | with_reducible first
        | assumption | apply State.fresh_only | apply State.eraseKey_only | refine onlyRes_next ?_
    | exact List.Subset.trans (by decide) hL | split

theorem execDrainTimeout_only {L : List Part} (slot : Nat) (s : State) (hL : [.tack, .devJobs, .nextJob, .cas, .out] ⊆
    L) : s.onlyRes L (execDrainTimeout slot s) := by
  have h0 := State.only_refl L s
  unfold execDrainTimeout
  repeat' first
    | with_reducible first
        | assumption | apply State.fresh_only | apply State.eraseKey_only | refine onlyRes_next ?_
    | exact List.Subset.trans (by decide) hL | split

theorem execLineageSweepEnd_only {L : List Part} (s : State) (hL : [.tack, .devJobs, .log, .atn, .out] ⊆ L) :
    s.onlyRes L (execLineageSweepEnd s) := by
  have h0 := State.only_refl L s
  unfold execLineageSweepEnd
  repeat' first
    | with_reducible first
        | assumption | apply State.fresh_only | apply State.dropDev_only | apply State.modTack_only
        | apply State.latch_only | apply State.logEv_only | refine onlyRes_next ?_ | refine ite_only ?_ ?_
    | exact hL (by decide) | exact List.Subset.trans (by decide) hL

theorem execSrkGenerate_only {L : List Part} (r : Req) (v : Nat) (s : State) (hL : changeParts ⊆ L) : s.onlyRes L
    (execSrkGenerate r v s) := by
  have h0 := State.only_refl L s
  unfold execSrkGenerate
  repeat' first
    | with_reducible first
        | assumption | apply State.fresh_only | apply State.writeRow_only | refine onlyRes_next ?_
    | exact List.Subset.trans (by decide) hL

theorem execMonoInc_only {L : List Part} (r : Req) (n k : Nat) (s : State) (hL : changeParts ⊆ L) : s.onlyRes L
    (execMonoInc r n k s) := by
  have h0 := State.only_refl L s
  unfold execMonoInc
  repeat' first
    | with_reducible first
        | assumption | apply State.fresh_only | apply State.writeRow_only | refine onlyRes_next ?_
    | exact List.Subset.trans (by decide) hL

theorem execEntropyTestFail_only {L : List Part} (s : State) (hL : [.tack, .log, .atn, .out] ⊆ L) : s.onlyRes L
    (execEntropyTestFail s) := by
  have h0 := State.only_refl L s
  unfold execEntropyTestFail
  repeat' first
    | with_reducible first
        | assumption | apply State.fresh_only | apply State.modTack_only | apply State.latch_only
        | apply State.logEv_only | refine onlyRes_next ?_ | refine ite_only ?_ ?_
    | exact hL (by decide) | exact List.Subset.trans (by decide) hL

theorem execDrbgRecovery_only {L : List Part} (s : State) (hL : [.tack, .log, .atn, .out] ⊆ L) : s.onlyRes L
    (execDrbgRecovery s) := by
  have h0 := State.only_refl L s
  unfold execDrbgRecovery
  repeat' first
    | with_reducible first
        | assumption | apply State.fresh_only | apply State.modTack_only | apply State.latch_only
        | apply State.logEv_only | refine onlyRes_next ?_ | refine ite_only ?_ ?_
    | exact hL (by decide) | exact List.Subset.trans (by decide) hL

theorem execPushSlotSeal_only {L : List Part} (pad slot off : Nat) (data : Bytes) (s : State) (hL : [.yard, .jobs,
    .nextJob, .pads, .pci, .atn, .out] ⊆ L) : s.onlyRes L (execPushSlotSeal pad slot off data s) := by
  have h0 := State.only_refl L s
  unfold execPushSlotSeal
  repeat' first
    | with_reducible first
        | assumption | apply State.fresh_only | apply State.pushWrite_only | apply State.serveFront_only
        | refine onlyRes_next ?_ | refine ite_only ?_ ?_
    | exact List.Subset.trans (by decide) hL

theorem execRingSqTailWrite_only {L : List Part} (pad ring v : Nat) (s : State) (hL : [.pads, .pci, .atn, .out] ⊆ L) :
    s.onlyRes L (execRingSqTailWrite pad ring v s) := by
  have h0 := State.only_refl L s
  unfold execRingSqTailWrite
  repeat' first
    | with_reducible first
        | assumption | apply State.fresh_only | apply State.writeTail_only | refine onlyRes_next ?_
        | refine ite_only ?_ ?_
    | exact List.Subset.trans (by decide) hL

theorem execRingCqHeadWrite_only {L : List Part} (pad ring v : Nat) (s : State) (hL : [.pads, .pci, .atn, .out] ⊆ L) :
    s.onlyRes L (execRingCqHeadWrite pad ring v s) := by
  have h0 := State.only_refl L s
  unfold execRingCqHeadWrite
  repeat' first
    | with_reducible first
        | assumption | apply State.fresh_only | apply State.writeHead_only | refine onlyRes_next ?_
        | refine ite_only ?_ ?_
    | exact List.Subset.trans (by decide) hL

theorem execRingEnable_only {L : List Part} (pad ring : Nat) (s : State) (hL : [.pads, .pci, .out] ⊆ L) : s.onlyRes L
    (execRingEnable pad ring s) := by
  have h0 := State.only_refl L s
  unfold execRingEnable
  repeat' first
    | with_reducible first
        | assumption | apply State.fresh_only | apply State.enableRing_only | refine onlyRes_next ?_
        | refine ite_only ?_ ?_
    | exact List.Subset.trans (by decide) hL

theorem execRingDisable_only {L : List Part} (pad ring : Nat) (s : State) (hL : [.pads, .out] ⊆ L) : s.onlyRes L
    (execRingDisable pad ring s) := by
  have h0 := State.only_refl L s
  unfold execRingDisable
  repeat' first
    | with_reducible first
        | assumption | apply State.fresh_only | apply State.disableRing_only | refine onlyRes_next ?_
        | refine ite_only ?_ ?_
    | exact List.Subset.trans (by decide) hL

theorem execFetchCompletion_only {L : List Part} (tag : Nat) (data : Option Bytes) (s : State) (hL : [.yard, .jobs,
    .nextJob, .pads, .pci, .atn, .out] ⊆ L) : s.onlyRes L (execFetchCompletion tag data s) := by
  have h0 := State.only_refl L s
  unfold execFetchCompletion
  repeat' first
    | with_reducible first
        | assumption | apply State.fresh_only | apply State.fetchDone_only | apply State.serveFront_only
        | refine onlyRes_next ?_
    | exact List.Subset.trans (by decide) hL

theorem execPinTranslate_only {L : List Part} (id : Nat) (s : State) (hL : [.yard, .jobs, .pads, .out] ⊆ L) :
    s.onlyRes L (execPinTranslate id s) := by
  have h0 := State.only_refl L s
  unfold execPinTranslate
  repeat' first
    | with_reducible first
        | assumption | apply State.fresh_only | apply State.endPlain_only | refine onlyRes_next ?_
    | exact List.Subset.trans (by decide) hL

theorem execPinVerify_only {L : List Part} (id : Nat) (s : State) (hL : [.yard, .jobs, .pads, .out] ⊆ L) : s.onlyRes L
    (execPinVerify id s) := by
  have h0 := State.only_refl L s
  unfold execPinVerify
  repeat' first
    | with_reducible first
        | assumption | apply State.fresh_only | apply State.endPlain_only | refine onlyRes_next ?_
    | exact List.Subset.trans (by decide) hL

theorem execDukptPinTranslate_only {L : List Part} (id : Nat) (s : State) (hL : [.yard, .jobs, .pads, .out] ⊆ L) :
    s.onlyRes L (execDukptPinTranslate id s) := by
  have h0 := State.only_refl L s
  unfold execDukptPinTranslate
  repeat' first
    | with_reducible first
        | assumption | apply State.fresh_only | apply State.endPlain_only | refine onlyRes_next ?_
    | exact List.Subset.trans (by decide) hL

theorem execPinCheckValue_only {L : List Part} (id : Nat) (s : State) (hL : [.yard, .jobs, .pads, .out] ⊆ L) :
    s.onlyRes L (execPinCheckValue id s) := by
  have h0 := State.only_refl L s
  unfold execPinCheckValue
  repeat' first
    | with_reducible first
        | assumption | apply State.fresh_only | apply State.endPlain_only | refine onlyRes_next ?_
    | exact List.Subset.trans (by decide) hL

theorem execMacGenerate_only {L : List Part} (id : Nat) (s : State) (hL : [.yard, .jobs, .pads, .out] ⊆ L) : s.onlyRes
    L (execMacGenerate id s) := by
  have h0 := State.only_refl L s
  unfold execMacGenerate
  repeat' first
    | with_reducible first
        | assumption | apply State.fresh_only | apply State.endPlain_only | refine onlyRes_next ?_
    | exact List.Subset.trans (by decide) hL

theorem execMacVerify_only {L : List Part} (id : Nat) (s : State) (hL : [.yard, .jobs, .pads, .out] ⊆ L) : s.onlyRes L
    (execMacVerify id s) := by
  have h0 := State.only_refl L s
  unfold execMacVerify
  repeat' first
    | with_reducible first
        | assumption | apply State.fresh_only | apply State.endPlain_only | refine onlyRes_next ?_
    | exact List.Subset.trans (by decide) hL

theorem execCryptogramVerify_only {L : List Part} (id : Nat) (s : State) (hL : [.yard, .jobs, .pads, .out] ⊆ L) :
    s.onlyRes L (execCryptogramVerify id s) := by
  have h0 := State.only_refl L s
  unfold execCryptogramVerify
  repeat' first
    | with_reducible first
        | assumption | apply State.fresh_only | apply State.endPlain_only | refine onlyRes_next ?_
    | exact List.Subset.trans (by decide) hL

theorem execCryptogramVerifyRespond_only {L : List Part} (id : Nat) (s : State) (hL : [.yard, .jobs, .pads, .out] ⊆ L)
    : s.onlyRes L (execCryptogramVerifyRespond id s) := by
  have h0 := State.only_refl L s
  unfold execCryptogramVerifyRespond
  repeat' first
    | with_reducible first
        | assumption | apply State.fresh_only | apply State.endPlain_only | refine onlyRes_next ?_
    | exact List.Subset.trans (by decide) hL

theorem execKeyGenerate_only {L : List Part} (id : Nat) (s : State) (hL : changeParts ⊆ L) : s.onlyRes L
    (execKeyGenerate id s) := by
  have h0 := State.only_refl L s
  unfold execKeyGenerate
  repeat' first
    | with_reducible first
        | assumption | apply State.fresh_only | apply State.endWith_only | apply State.askJob_only
        | refine onlyRes_next ?_
    | exact List.Subset.trans (by decide) hL

theorem execKeyPairGenerate_only {L : List Part} (id : Nat) (agree : Bool) (s : State) (hL : changeParts ⊆ L) :
    s.onlyRes L (execKeyPairGenerate id agree s) := by
  have h0 := State.only_refl L s
  unfold execKeyPairGenerate
  repeat' first
    | with_reducible first
        | assumption | apply State.fresh_only | apply State.endWith_only | apply State.askJob_only
        | refine onlyRes_next ?_
    | exact List.Subset.trans (by decide) hL

theorem execKeyImport_only {L : List Part} (id : Nat) (s : State) (hL : changeParts ⊆ L) : s.onlyRes L (execKeyImport
    id s) := by
  have h0 := State.only_refl L s
  unfold execKeyImport
  repeat' first
    | with_reducible first
        | assumption | apply State.fresh_only | apply State.endWith_only | apply State.askJob_only
        | refine onlyRes_next ?_
    | exact List.Subset.trans (by decide) hL

theorem execKeyImportWrapped_only {L : List Part} (id : Nat) (s : State) (hL : changeParts ⊆ L) : s.onlyRes L
    (execKeyImportWrapped id s) := by
  have h0 := State.only_refl L s
  unfold execKeyImportWrapped
  repeat' first
    | with_reducible first
        | assumption | apply State.fresh_only | apply State.endWith_only | apply State.askJob_only
        | refine onlyRes_next ?_
    | exact List.Subset.trans (by decide) hL

theorem execKeyExport_only {L : List Part} (id : Nat) (s : State) (hL : changeParts ⊆ L) : s.onlyRes L (execKeyExport
    id s) := by
  have h0 := State.only_refl L s
  unfold execKeyExport
  repeat' first
    | with_reducible first
        | assumption | apply State.fresh_only | apply State.endWith_only | apply State.askJob_only
        | refine onlyRes_next ?_
    | exact List.Subset.trans (by decide) hL

theorem execKeyDerive_only {L : List Part} (id : Nat) (s : State) (hL : changeParts ⊆ L) : s.onlyRes L (execKeyDerive
    id s) := by
  have h0 := State.only_refl L s
  unfold execKeyDerive
  repeat' first
    | with_reducible first
        | assumption | apply State.fresh_only | apply State.endWith_only | apply State.askJob_only
        | refine onlyRes_next ?_
    | exact List.Subset.trans (by decide) hL

theorem execKeyRevoke_only {L : List Part} (id : Nat) (s : State) (hL : changeParts ⊆ L) : s.onlyRes L (execKeyRevoke
    id s) := by
  have h0 := State.only_refl L s
  unfold execKeyRevoke
  repeat' first
    | with_reducible first
        | assumption | apply State.fresh_only | apply State.performNow_only | apply State.askJob_only
        | refine onlyRes_next ?_
    | exact List.Subset.trans (by decide) hL

theorem execKeyErase_only {L : List Part} (id : Nat) (s : State) (hL : changeParts ⊆ L) : s.onlyRes L (execKeyErase id
    s) := by
  have h0 := State.only_refl L s
  unfold execKeyErase
  repeat' first
    | with_reducible first
        | assumption | apply State.fresh_only | apply State.performNow_only | apply State.askJob_only
        | refine onlyRes_next ?_
    | exact List.Subset.trans (by decide) hL

theorem execKeyRewrite_only {L : List Part} (id : Nat) (s : State) (hL : changeParts ⊆ L) : s.onlyRes L
    (execKeyRewrite id s) := by
  have h0 := State.only_refl L s
  unfold execKeyRewrite
  repeat' first
    | with_reducible first
        | assumption | apply State.fresh_only | apply State.endPlain_only | apply State.askJob_only
        | refine onlyRes_next ?_
    | exact List.Subset.trans (by decide) hL

theorem execKeyDrain_only {L : List Part} (id : Nat) (s : State) (hL : changeParts ⊆ L) : s.onlyRes L (execKeyDrain id
    s) := by
  have h0 := State.only_refl L s
  unfold execKeyDrain
  repeat' first
    | with_reducible first
        | assumption | apply State.fresh_only | apply State.performNow_only | apply State.askJob_only
        | refine onlyRes_next ?_
    | exact List.Subset.trans (by decide) hL

theorem execKcv_only {L : List Part} (id : Nat) (s : State) (hL : [.yard, .jobs, .pads, .out] ⊆ L) : s.onlyRes L
    (execKcv id s) := by
  have h0 := State.only_refl L s
  unfold execKcv
  repeat' first
    | with_reducible first
        | assumption | apply State.fresh_only | apply State.endWith_only | refine onlyRes_next ?_
    | exact List.Subset.trans (by decide) hL

theorem execKeyStorePublic_only {L : List Part} (id : Nat) (agree : Bool) (s : State) (hL : changeParts ⊆ L) :
    s.onlyRes L (execKeyStorePublic id agree s) := by
  have h0 := State.only_refl L s
  unfold execKeyStorePublic
  repeat' first
    | with_reducible first
        | assumption | apply State.fresh_only | apply State.endWith_only | apply State.performNow_only
        | apply State.askJob_only | refine onlyRes_next ?_
    | exact List.Subset.trans (by decide) hL

theorem execDigest_only {L : List Part} (id : Nat) (s : State) (hL : [.yard, .jobs, .pads, .out] ⊆ L) : s.onlyRes L
    (execDigest id s) := by
  have h0 := State.only_refl L s
  unfold execDigest
  repeat' first
    | with_reducible first
        | assumption | apply State.fresh_only | apply State.endPlain_only | refine onlyRes_next ?_
    | exact List.Subset.trans (by decide) hL

theorem execHmacJob_only {L : List Part} (id : Nat) (s : State) (hL : [.yard, .jobs, .pads, .out] ⊆ L) : s.onlyRes L
    (execHmacJob id s) := by
  have h0 := State.only_refl L s
  unfold execHmacJob
  repeat' first
    | with_reducible first
        | assumption | apply State.fresh_only | apply State.endPlain_only | refine onlyRes_next ?_
    | exact List.Subset.trans (by decide) hL

theorem execDigestCompare_only {L : List Part} (id : Nat) (s : State) (hL : [.yard, .jobs, .pads, .out] ⊆ L) :
    s.onlyRes L (execDigestCompare id s) := by
  have h0 := State.only_refl L s
  unfold execDigestCompare
  repeat' first
    | with_reducible first
        | assumption | apply State.fresh_only | apply State.endPlain_only | refine onlyRes_next ?_
    | exact List.Subset.trans (by decide) hL

theorem execHmacCompare_only {L : List Part} (id : Nat) (s : State) (hL : [.yard, .jobs, .pads, .out] ⊆ L) : s.onlyRes
    L (execHmacCompare id s) := by
  have h0 := State.only_refl L s
  unfold execHmacCompare
  repeat' first
    | with_reducible first
        | assumption | apply State.fresh_only | apply State.endPlain_only | refine onlyRes_next ?_
    | exact List.Subset.trans (by decide) hL

theorem execOpenStream_only {L : List Part} (id : Nat) (s : State) (hL : [.yard, .jobs, .pads, .out] ⊆ L) : s.onlyRes
    L (execOpenStream id s) := by
  have h0 := State.only_refl L s
  unfold execOpenStream
  repeat' first
    | with_reducible first
        | assumption | apply State.fresh_only | apply State.endPlain_only | refine onlyRes_next ?_
    | exact List.Subset.trans (by decide) hL

theorem execOpenKeyed_only {L : List Part} (id : Nat) (s : State) (hL : [.yard, .jobs, .pads, .out] ⊆ L) : s.onlyRes L
    (execOpenKeyed id s) := by
  have h0 := State.only_refl L s
  unfold execOpenKeyed
  repeat' first
    | with_reducible first
        | assumption | apply State.fresh_only | apply State.endPlain_only | refine onlyRes_next ?_
    | exact List.Subset.trans (by decide) hL

theorem execUpdate_only {L : List Part} (id : Nat) (s : State) (hL : [.yard, .jobs, .pads, .out] ⊆ L) : s.onlyRes L
    (execUpdate id s) := by
  have h0 := State.only_refl L s
  unfold execUpdate
  repeat' first
    | with_reducible first
        | assumption | apply State.fresh_only | apply State.endStep_only | apply State.updateEnd_only
        | refine onlyRes_next ?_ | intro _
    | exact List.Subset.trans (by decide) hL

theorem execFinal_only {L : List Part} (id : Nat) (s : State) (hL : [.yard, .jobs, .pads, .out] ⊆ L) : s.onlyRes L
    (execFinal id s) := by
  have h0 := State.only_refl L s
  unfold execFinal
  repeat' first
    | with_reducible first
        | assumption | apply State.fresh_only | apply State.endStep_only | apply State.finalEnd_only
        | refine onlyRes_next ?_ | intro _
    | exact List.Subset.trans (by decide) hL

theorem execFinalCompare_only {L : List Part} (id : Nat) (s : State) (hL : [.yard, .jobs, .pads, .out] ⊆ L) :
    s.onlyRes L (execFinalCompare id s) := by
  have h0 := State.only_refl L s
  unfold execFinalCompare
  repeat' first
    | with_reducible first
        | assumption | apply State.fresh_only | apply State.endStep_only | apply State.finalCompareEnd_only
        | refine onlyRes_next ?_ | intro _
    | exact List.Subset.trans (by decide) hL

theorem execAbandon_only {L : List Part} (id : Nat) (s : State) (hL : [.yard, .jobs, .pads, .out] ⊆ L) : s.onlyRes L
    (execAbandon id s) := by
  have h0 := State.only_refl L s
  unfold execAbandon
  repeat' first
    | with_reducible first
        | assumption | apply State.fresh_only | apply State.endStep_only | apply State.abandonEnd_only
        | refine onlyRes_next ?_ | intro _
    | exact List.Subset.trans (by decide) hL

theorem execSign_only {L : List Part} (id : Nat) (agree : Bool) (s : State) (hL : [.yard, .jobs, .pads, .out] ⊆ L) :
    s.onlyRes L (execSign id agree s) := by
  have h0 := State.only_refl L s
  unfold execSign
  repeat' first
    | with_reducible first
        | assumption | apply State.fresh_only | apply State.endPlain_only | refine onlyRes_next ?_
    | exact List.Subset.trans (by decide) hL

theorem execVerify_only {L : List Part} (id : Nat) (agree : Bool) (s : State) (hL : [.yard, .jobs, .pads, .out] ⊆ L) :
    s.onlyRes L (execVerify id agree s) := by
  have h0 := State.only_refl L s
  unfold execVerify
  repeat' first
    | with_reducible first
        | assumption | apply State.fresh_only | apply State.endPlain_only | refine onlyRes_next ?_
    | exact List.Subset.trans (by decide) hL

theorem execBatchVerify_only {L : List Part} (id : Nat) (agree : Bool) (s : State) (hL : [.yard, .jobs, .pads, .out] ⊆
    L) : s.onlyRes L (execBatchVerify id agree s) := by
  have h0 := State.only_refl L s
  unfold execBatchVerify
  repeat' first
    | with_reducible first
        | assumption | apply State.fresh_only | apply State.endPlain_only | refine onlyRes_next ?_
    | exact List.Subset.trans (by decide) hL

theorem execEcdh_only {L : List Part} (id : Nat) (agree : Bool) (s : State) (hL : changeParts ⊆ L) : s.onlyRes L
    (execEcdh id agree s) := by
  have h0 := State.only_refl L s
  unfold execEcdh
  repeat' first
    | with_reducible first
        | assumption | apply State.fresh_only | apply State.endWith_only | apply State.askJob_only
        | refine onlyRes_next ?_
    | exact List.Subset.trans (by decide) hL

theorem execEncapsulateReturn_only {L : List Part} (id : Nat) (agree : Bool) (s : State) (hL : [.yard, .jobs, .pads,
    .out] ⊆ L) : s.onlyRes L (execEncapsulateReturn id agree s) := by
  have h0 := State.only_refl L s
  unfold execEncapsulateReturn
  repeat' first
    | with_reducible first
        | assumption | apply State.fresh_only | apply State.endWith_only | refine onlyRes_next ?_
    | exact List.Subset.trans (by decide) hL

theorem execEncapsulateAes_only {L : List Part} (id : Nat) (agree : Bool) (s : State) (hL : changeParts ⊆ L) :
    s.onlyRes L (execEncapsulateAes id agree s) := by
  have h0 := State.only_refl L s
  unfold execEncapsulateAes
  repeat' first
    | with_reducible first
        | assumption | apply State.fresh_only | apply State.endWith_only | apply State.askJob_only
        | refine onlyRes_next ?_
    | exact List.Subset.trans (by decide) hL

theorem execEncapsulateHmac_only {L : List Part} (id : Nat) (agree : Bool) (s : State) (hL : changeParts ⊆ L) :
    s.onlyRes L (execEncapsulateHmac id agree s) := by
  have h0 := State.only_refl L s
  unfold execEncapsulateHmac
  repeat' first
    | with_reducible first
        | assumption | apply State.fresh_only | apply State.endWith_only | apply State.askJob_only
        | refine onlyRes_next ?_
    | exact List.Subset.trans (by decide) hL

theorem execDecapsulateAes_only {L : List Part} (id : Nat) (agree : Bool) (s : State) (hL : changeParts ⊆ L) :
    s.onlyRes L (execDecapsulateAes id agree s) := by
  have h0 := State.only_refl L s
  unfold execDecapsulateAes
  repeat' first
    | with_reducible first
        | assumption | apply State.fresh_only | apply State.endWith_only | apply State.askJob_only
        | refine onlyRes_next ?_
    | exact List.Subset.trans (by decide) hL

theorem execDecapsulateHmac_only {L : List Part} (id : Nat) (agree : Bool) (s : State) (hL : changeParts ⊆ L) :
    s.onlyRes L (execDecapsulateHmac id agree s) := by
  have h0 := State.only_refl L s
  unfold execDecapsulateHmac
  repeat' first
    | with_reducible first
        | assumption | apply State.fresh_only | apply State.endWith_only | apply State.askJob_only
        | refine onlyRes_next ?_
    | exact List.Subset.trans (by decide) hL

theorem execRandom_only {L : List Part} (id : Nat) (s : State) (hL : [.yard, .jobs, .pads, .out] ⊆ L) : s.onlyRes L
    (execRandom id s) := by
  have h0 := State.only_refl L s
  unfold execRandom
  repeat' first
    | with_reducible first
        | assumption | apply State.fresh_only | apply State.endPlain_only | refine onlyRes_next ?_
    | exact List.Subset.trans (by decide) hL

theorem execSourceDataArrival_only {L : List Part} (id : Nat) (data : Option Bytes) (s : State) (hL : [.yard, .jobs,
    .pci, .out] ⊆ L) : s.onlyRes L (execSourceDataArrival id data s) := by
  have h0 := State.only_refl L s
  unfold execSourceDataArrival
  repeat' first
    | with_reducible first
        | assumption | apply State.fresh_only | apply State.arrive_only | refine onlyRes_next ?_
        | refine ite_only ?_ ?_
    | exact List.Subset.trans (by decide) hL

theorem execJobDispatch_only {L : List Part} (lane : Nat) (hamper : Bytes) (s : State) (hL : [.tack, .yard, .jobs,
    .devJobs, .nextJob, .pads, .rdw, .rdwSc, .cas, .log, .atn, .out] ⊆ L) : s.onlyRes L (execJobDispatch lane hamper s)
    := by
  have h0 := State.only_refl L s
  unfold execJobDispatch
  repeat' first
    | with_reducible first
        | assumption | apply State.fresh_only | apply State.dispatchLane_only | apply State.sweepSteps_only
        | apply State.loadLanes_only | refine onlyRes_next ?_ | refine ite_only ?_ ?_
    | exact hL (by decide) | exact List.Subset.trans (by decide) hL | split | (dsimp only)

theorem execJobComplete_only {L : List Part} (id : Nat) (s : State) (hL : [.ports, .shed, .tagTable, .shedLost, .tack, .yard, .jobs, .devJobs, .nextJob, .pads, .rdw, .rdwSc, .cas, .log, .mon, .atn, .out] ⊆ L) : s.onlyRes L
        (execJobComplete id s) := by
  have h0 := State.only_refl L s
  unfold execJobComplete
  repeat' first
    | with_reducible first
        | assumption | apply State.fresh_only | apply State.complete_only | refine onlyRes_next ?_
    | exact List.Subset.trans (by decide) hL | split

theorem execPairCheckComplete_only {L : List Part} (lane : Nat) (pass : Bool) (s : State) (hL : [.ports, .shed,
    .tagTable, .shedLost, .tack, .yard, .jobs, .devJobs, .pads, .log, .mon, .atn, .out] ⊆ L) : s.onlyRes L
        (execPairCheckComplete lane pass s) := by
  have h0 := State.only_refl L s
  unfold execPairCheckComplete
  repeat' first
    | with_reducible first
        | assumption | apply State.fresh_only | apply State.dropDev_only | apply State.modLane_only
        | apply State.latchPair_only | apply State.latch_only | apply State.ev_only | apply State.countFault_only
        | refine onlyRes_next ?_ | refine ite_only ?_ ?_
    | exact List.Subset.trans (by decide) hL

theorem execPkRetest_only {L : List Part} (r : Req) (v : Nat) (s : State) (hL : changeParts ⊆ L) : s.onlyRes L
    (execPkRetest r v s) := by
  have h0 := State.only_refl L s
  unfold execPkRetest
  repeat' first
    | with_reducible first
        | assumption | apply State.fresh_only | apply State.writeRow_only | refine onlyRes_next ?_
    | exact List.Subset.trans (by decide) hL

theorem execSelfTestPeriod_only {L : List Part} (s : State) (hL : [.yard, .devJobs, .nextJob, .out] ⊆ L) : s.onlyRes L
    (execSelfTestPeriod s) := by
  have h0 := State.only_refl L s
  unfold execSelfTestPeriod
  repeat' first
    | with_reducible first
        | assumption | apply State.fresh_only | apply State.modYard_only | apply State.addDev_only
        | refine onlyRes_next ?_ | refine foldl_only _ _ _ ?_ ?_ | intro _ | refine ite_only ?_ ?_
    | exact hL (by decide) | exact List.Subset.trans (by decide) hL

theorem execSelfTestResult_only {L : List Part} (lane : Nat) (pass : Bool) (s : State) (hL : [.ports, .shed,
    .tagTable, .shedLost, .tack, .yard, .jobs, .devJobs, .pads, .log, .mon, .atn, .out] ⊆ L) : s.onlyRes L
        (execSelfTestResult lane pass s) := by
  have h0 := State.only_refl L s
  unfold execSelfTestResult
  repeat' first
    | with_reducible first
        | assumption | apply State.fresh_only | apply State.dropDev_only | apply State.modLane_only
        | apply State.latchLane_only | apply State.ev_only | apply State.monDetect_only | apply State.latch_only
        | refine onlyRes_next ?_ | refine ite_only ?_ ?_
    | exact List.Subset.trans (by decide) hL

theorem execPaddockCreate_only {L : List Part} (v : Via) (cmd : Bytes) (s : State) (hL : changeParts ⊆ L) : s.onlyRes
    L (execPaddockCreate v cmd s) := by
  have h0 := State.only_refl L s
  unfold execPaddockCreate
  repeat' first
    | with_reducible first
        | assumption | apply State.fresh_only | apply State.manage_only | refine onlyRes_next ?_
    | exact List.Subset.trans (by decide) hL

theorem execModify_only {L : List Part} (v : Via) (cmd : Bytes) (s : State) (hL : changeParts ⊆ L) : s.onlyRes L
    (execModify v cmd s) := by
  have h0 := State.only_refl L s
  unfold execModify
  repeat' first
    | with_reducible first
        | assumption | apply State.fresh_only | apply State.manage_only | refine onlyRes_next ?_
    | exact List.Subset.trans (by decide) hL

theorem execPaddockResetCommand_only {L : List Part} (v : Via) (cmd : Bytes) (s : State) (hL : changeParts ⊆ L) :
    s.onlyRes L (execPaddockResetCommand v cmd s) := by
  have h0 := State.only_refl L s
  unfold execPaddockResetCommand
  repeat' first
    | with_reducible first
        | assumption | apply State.fresh_only | apply State.manage_only | refine onlyRes_next ?_
    | exact List.Subset.trans (by decide) hL

theorem execDestroy_only {L : List Part} (v : Via) (cmd : Bytes) (s : State) (hL : changeParts ⊆ L) : s.onlyRes L
    (execDestroy v cmd s) := by
  have h0 := State.only_refl L s
  unfold execDestroy
  repeat' first
    | with_reducible first
        | assumption | apply State.fresh_only | apply State.manage_only | refine onlyRes_next ?_
    | exact List.Subset.trans (by decide) hL

theorem execQuery_only {L : List Part} (v : Via) (cmd : Bytes) (s : State) (hL : changeParts ⊆ L) : s.onlyRes L
    (execQuery v cmd s) := by
  have h0 := State.only_refl L s
  unfold execQuery
  repeat' first
    | with_reducible first
        | assumption | apply State.fresh_only | apply State.manage_only | refine onlyRes_next ?_
    | exact List.Subset.trans (by decide) hL

theorem execLogStart_only {L : List Part} (v : Via) (cmd : Bytes) (s : State) (hL : changeParts ⊆ L) : s.onlyRes L
    (execLogStart v cmd s) := by
  have h0 := State.only_refl L s
  unfold execLogStart
  repeat' first
    | with_reducible first
        | assumption | apply State.fresh_only | apply State.manage_only | refine onlyRes_next ?_
    | exact List.Subset.trans (by decide) hL

theorem execLogStop_only {L : List Part} (v : Via) (cmd : Bytes) (s : State) (hL : changeParts ⊆ L) : s.onlyRes L
    (execLogStop v cmd s) := by
  have h0 := State.only_refl L s
  unfold execLogStop
  repeat' first
    | with_reducible first
        | assumption | apply State.fresh_only | apply State.manage_only | refine onlyRes_next ?_
    | exact List.Subset.trans (by decide) hL

theorem execLogDrain_only {L : List Part} (v : Via) (cmd : Bytes) (s : State) (hL : changeParts ⊆ L) : s.onlyRes L
    (execLogDrain v cmd s) := by
  have h0 := State.only_refl L s
  unfold execLogDrain
  repeat' first
    | with_reducible first
        | assumption | apply State.fresh_only | apply State.manage_only | refine onlyRes_next ?_
    | exact List.Subset.trans (by decide) hL

theorem execPaddockResetWrite_only {L : List Part} (pad : Nat) (v : Nat) (s : State) (hL : [.yard, .jobs, .pads,
    .pmem, .pci, .rdw, .atn, .out] ⊆ L) : s.onlyRes L (execPaddockResetWrite pad v s) := by
  have h0 := State.only_refl L s
  unfold execPaddockResetWrite
  repeat' first
    | with_reducible first
        | assumption | apply State.fresh_only | apply State.resetPads_only | refine onlyRes_next ?_
        | refine ite_only ?_ ?_
    | exact List.Subset.trans (by decide) hL

theorem execVfFlr_only {L : List Part} (n : Nat) (s : State) (hL : [.pads, .pmem, .pci, .atn, .out] ⊆ L) : s.onlyRes L
    (execVfFlr n s) := by
  have h0 := State.only_refl L s
  unfold execVfFlr
  repeat' first
    | with_reducible first
        | assumption | apply State.fresh_only | apply State.resetPad_only | apply State.msixReset_only
        | refine onlyRes_next ?_ | refine ite_only ?_ ?_
    | exact List.Subset.trans (by decide) hL

theorem execPfFlr_only {L : List Part} (s : State) (hL : [.core, .tack, .yard, .jobs, .pads, .pmem, .pci, .rdw, .dmb, .atn,
    .out] ⊆ L) : s.onlyRes L (execPfFlr s) := by
  have h0 := State.only_refl L s
  unfold execPfFlr
  repeat' first
    | with_reducible first
        | assumption | apply State.fresh_only | apply State.pfMailboxes_only | apply State.latch_only
        | apply State.resetPads_only | apply State.modPci_only | apply State.presence_only | apply State.msixReset_only
        | refine onlyRes_next ?_ | refine foldl_only _ _ _ ?_ ?_ | intro _ | refine ite_only ?_ ?_
    | exact hL (by decide) | exact List.Subset.trans (by decide) hL

theorem execHotReset_only {L : List Part} (s : State) (hL : [.core, .yard, .jobs, .pads, .pmem, .pci, .rdw, .dmb,
    .atn, .out] ⊆ L) : s.onlyRes L (execHotReset s) := by
  have h0 := State.only_refl L s
  unfold execHotReset
  repeat' first
    | with_reducible first
        | assumption | apply State.fresh_only | apply State.hotReset_only | refine onlyRes_next ?_
        | refine ite_only ?_ ?_
    | exact List.Subset.trans (by decide) hL

theorem execVfEnableChange_only {L : List Part} (enable : Bool) (numVfs : Nat) (s : State) (hL : [.tack, .pads, .pmem, .pci,
    .atn, .out] ⊆ L) : s.onlyRes L (execVfEnableChange enable numVfs s) := by
  have h0 := State.only_refl L s
  unfold execVfEnableChange
  repeat' first
    | with_reducible first
        | assumption | apply State.fresh_only | apply State.modPci_only | apply State.latch_only
        | apply State.presence_only | refine onlyRes_next ?_ | refine foldl_only _ _ _ ?_ ?_ | intro _
        | refine ite_only ?_ ?_
    | exact hL (by decide) | exact List.Subset.trans (by decide) hL

theorem execPasidEnableChange_only {L : List Part} (enable : Bool) (s : State) (hL : [.tack, .pads, .pmem, .pci, .atn, .out]
    ⊆ L) : s.onlyRes L (execPasidEnableChange enable s) := by
  have h0 := State.only_refl L s
  unfold execPasidEnableChange
  repeat' first
    | with_reducible first
        | assumption | apply State.fresh_only | apply State.modPci_only | apply State.latch_only
        | apply State.presence_only | refine onlyRes_next ?_ | refine foldl_only _ _ _ ?_ ?_ | intro _
        | refine ite_only ?_ ?_
    | exact hL (by decide) | exact List.Subset.trans (by decide) hL

theorem execPaddockResetComplete_only {L : List Part} (pad : Nat) (s : State) (hL : [.pads, .pci, .dmb, .cas, .dict,
    .atn, .out] ⊆ L) : s.onlyRes L (execPaddockResetComplete pad s) := by
  have h0 := State.only_refl L s
  unfold execPaddockResetComplete
  repeat' first
    | with_reducible first
        | assumption | apply State.fresh_only | apply State.resetDone_only | refine onlyRes_next ?_
    | exact List.Subset.trans (by decide) hL

theorem execLateCompletion_only {L : List Part} (tag : Nat) (s : State) (hL : [.pci, .atn, .out] ⊆ L) : s.onlyRes L
    (execLateCompletion tag s) := by
  have h0 := State.only_refl L s
  unfold execLateCompletion
  repeat' first
    | with_reducible first
        | assumption | apply State.fresh_only | apply State.modPci_only | apply State.latch_only
        | refine onlyRes_next ?_ | refine ite_only ?_ ?_
    | exact hL (by decide) | exact List.Subset.trans (by decide) hL

theorem execCompletionTimeout_only {L : List Part} (tag : Nat) (s : State) (hL : [.yard, .jobs, .nextJob, .pads, .pci,
    .atn, .out] ⊆ L) : s.onlyRes L (execCompletionTimeout tag s) := by
  have h0 := State.only_refl L s
  unfold execCompletionTimeout
  repeat' first
    | with_reducible first
        | assumption | apply State.fresh_only | apply State.modPci_only | apply State.latch_only
        | apply State.fetchDone_only | apply State.serveFront_only | apply State.arrive_only | refine onlyRes_next ?_
        | refine ite_only ?_ ?_
    | exact hL (by decide) | exact List.Subset.trans (by decide) hL | split

theorem execRdwStart_only {L : List Part} (steward : Bool) (ctrl : Nat) (s : State) (hL : [.yard, .jobs, .nextJob,
    .pads, .rdw, .rdwSc, .out] ⊆ L) : s.onlyRes L (execRdwStart steward ctrl s) := by
  have h0 := State.only_refl L s
  unfold execRdwStart
  repeat' first
    | with_reducible first
        | assumption | apply State.fresh_only | apply State.windowStart_only | refine onlyRes_next ?_
        | refine ite_only ?_ ?_
    | exact List.Subset.trans (by decide) hL

theorem execRdwAbort_only {L : List Part} (steward : Bool) (ctrl : Nat) (s : State) (hL : [.yard, .jobs, .pads, .rdw,
    .rdwSc, .out] ⊆ L) : s.onlyRes L (execRdwAbort steward ctrl s) := by
  have h0 := State.only_refl L s
  unfold execRdwAbort
  repeat' first
    | with_reducible first
        | assumption | apply State.fresh_only | apply State.windowDrop_only | apply State.modWindow_only
        | refine onlyRes_next ?_ | refine ite_only ?_ ?_
    | exact List.Subset.trans (by decide) hL

theorem execRdwDataWrite_only {L : List Part} (steward high : Bool) (w : Bytes) (s : State) (hL : [.yard, .jobs,
    .pads, .rdw, .rdwSc, .out] ⊆ L) : s.onlyRes L (execRdwDataWrite steward high w s) := by
  have h0 := State.only_refl L s
  unfold execRdwDataWrite
  repeat' first
    | with_reducible first
        | assumption | apply State.fresh_only | apply State.windowData_only | refine onlyRes_next ?_
        | refine ite_only ?_ ?_
    | exact List.Subset.trans (by decide) hL

theorem execRdwLastwordWrite_only {L : List Part} (steward high : Bool) (w : Bytes) (s : State) (hL : [.yard, .jobs,
    .nextJob, .pads, .rdw, .rdwSc, .out] ⊆ L) : s.onlyRes L (execRdwLastwordWrite steward high w s) := by
  have h0 := State.only_refl L s
  unfold execRdwLastwordWrite
  repeat' first
    | with_reducible first
        | assumption | apply State.fresh_only | apply State.windowLast_only | refine onlyRes_next ?_
        | refine ite_only ?_ ?_
    | exact List.Subset.trans (by decide) hL

theorem execRdwLastcountWrite_only {L : List Part} (steward : Bool) (v : Nat) (s : State) (hL : [.rdw, .rdwSc, .out] ⊆
    L) : s.onlyRes L (execRdwLastcountWrite steward v s) := by
  have h0 := State.only_refl L s
  unfold execRdwLastcountWrite
  repeat' first
    | with_reducible first
        | assumption | apply State.fresh_only | apply State.modWindow_only | refine onlyRes_next ?_
        | refine ite_only ?_ ?_
    | exact List.Subset.trans (by decide) hL

theorem execRdwResultRead_only {L : List Part} (steward : Bool) (word : Nat) (s : State) (hL : [.rdw, .rdwSc, .out] ⊆
    L) : s.onlyRes L (execRdwResultRead steward word s) := by
  have h0 := State.only_refl L s
  unfold execRdwResultRead
  repeat' first
    | with_reducible first
        | assumption | apply State.fresh_only | apply State.emit_only | apply State.modWindow_only
        | refine onlyRes_next ?_ | refine ite_only ?_ ?_
    | exact List.Subset.trans (by decide) hL

theorem execFrameCtLoRead_only {L : List Part} (s : State) (hL : [.core, .out] ⊆ L) : s.onlyRes L (execFrameCtLoRead
    s) := by
  have h0 := State.only_refl L s
  unfold execFrameCtLoRead
  repeat' first
    | with_reducible first
        | assumption | apply State.fresh_only | apply State.modCore_only | apply State.emit_only
        | refine onlyRes_next ?_ | refine ite_only ?_ ?_
    | exact hL (by decide) | exact List.Subset.trans (by decide) hL

theorem execAtnCauseClear_only {L : List Part} (g v : Nat) (s : State) (hL : [.atn, .out] ⊆ L) : s.onlyRes L
    (execAtnCauseClear g v s) := by
  have h0 := State.only_refl L s
  unfold execAtnCauseClear
  repeat' first
    | with_reducible first
        | assumption | apply State.fresh_only | apply State.clearLeaves_only | refine onlyRes_next ?_
        | refine ite_only ?_ ?_
    | exact List.Subset.trans (by decide) hL

theorem execAtnEnableWrite_only {L : List Part} (g v : Nat) (s : State) (hL : [.log, .atn, .out] ⊆ L) : s.onlyRes L
    (execAtnEnableWrite g v s) := by
  have h0 := State.only_refl L s
  unfold execAtnEnableWrite
  repeat' first
    | with_reducible first
        | assumption | apply State.fresh_only | apply State.writeEnable_only | refine onlyRes_next ?_
        | refine ite_only ?_ ?_
    | exact List.Subset.trans (by decide) hL

theorem execAtnRearm_only {L : List Part} (s : State) (hL : [.atn, .out] ⊆ L) : s.onlyRes L (execAtnRearm s) := by
  have h0 := State.only_refl L s
  unfold execAtnRearm
  repeat' first
    | with_reducible first
        | assumption | apply State.fresh_only | apply State.modAtn_only | refine onlyRes_next ?_
        | refine ite_only ?_ ?_
    | exact hL (by decide) | exact List.Subset.trans (by decide) hL

theorem execRegisterWrite_only {L : List Part} (fn off : Nat) (data : Bytes) (s : State) (hL : [.core, .pwr, .boot,
    .hal, .ports, .par, .tack, .yard, .jobs, .devJobs, .nextJob, .pads, .pmem, .pci, .rdw, .rdwSc, .dmb, .cas, .dict,
        .log, .lc, .mon, .atn, .out] ⊆ L) : s.onlyRes L (execRegisterWrite fn off data s) := by
  have h0 := State.only_refl L s
  unfold execRegisterWrite
  repeat' first
    | with_reducible first
        | assumption | apply State.fresh_only | apply State.barWrite_only | refine onlyRes_next ?_
    | exact List.Subset.trans (by decide) hL

theorem execAtnClearEntry_only {L : List Part} (r : Req) (value : Bytes) (s : State) (hL : changeParts ⊆ L) :
    s.onlyRes L (execAtnClearEntry r value s) := by
  have h0 := State.only_refl L s
  unfold execAtnClearEntry
  repeat' first
    | with_reducible first
        | assumption | apply State.fresh_only | apply State.writeRow_only | refine onlyRes_next ?_
    | exact List.Subset.trans (by decide) hL

theorem execAtnEnableEntry_only {L : List Part} (r : Req) (g v : Nat) (s : State) (hL : changeParts ⊆ L) : s.onlyRes L
    (execAtnEnableEntry r g v s) := by
  have h0 := State.only_refl L s
  unfold execAtnEnableEntry
  repeat' first
    | with_reducible first
        | assumption | apply State.fresh_only | apply State.writeRow_only | refine onlyRes_next ?_
    | exact List.Subset.trans (by decide) hL

theorem execMePortConfigWrite_only {L : List Part} (r : Req) (port item : Nat) (value : Bytes) (s : State) (hL :
    changeParts ⊆ L) : s.onlyRes L (execMePortConfigWrite r port item value s) := by
  have h0 := State.only_refl L s
  unfold execMePortConfigWrite
  repeat' first
    | with_reducible first
        | assumption | apply State.fresh_only | apply State.writeRow_only | refine onlyRes_next ?_
    | exact List.Subset.trans (by decide) hL

theorem execPolicyRecordWrite_only {L : List Part} (r : Req) (k : Nat) (value : Bytes) (s : State) (hL : changeParts ⊆
    L) : s.onlyRes L (execPolicyRecordWrite r k value s) := by
  have h0 := State.only_refl L s
  unfold execPolicyRecordWrite
  repeat' first
    | with_reducible first
        | assumption | apply State.fresh_only | apply State.writeRow_only | refine onlyRes_next ?_
    | exact List.Subset.trans (by decide) hL

theorem execOwnerCertWrite_only {L : List Part} (r : Req) (value : Bytes) (s : State) (hL : changeParts ⊆ L) :
    s.onlyRes L (execOwnerCertWrite r value s) := by
  have h0 := State.only_refl L s
  unfold execOwnerCertWrite
  repeat' first
    | with_reducible first
        | assumption | apply State.fresh_only | apply State.writeRow_only | refine onlyRes_next ?_
    | exact List.Subset.trans (by decide) hL

theorem execCredentialWrite_only {L : List Part} (r : Req) (n : Nat) (value : Bytes) (s : State) (hL : changeParts ⊆
    L) : s.onlyRes L (execCredentialWrite r n value s) := by
  have h0 := State.only_refl L s
  unfold execCredentialWrite
  repeat' first
    | with_reducible first
        | assumption | apply State.fresh_only | apply State.writeRow_only | refine onlyRes_next ?_
    | exact List.Subset.trans (by decide) hL

theorem execDictCommit_only {L : List Part} (r : Req) (v : Nat) (s : State) (hL : changeParts ⊆ L) : s.onlyRes L
    (execDictCommit r v s) := by
  have h0 := State.only_refl L s
  unfold execDictCommit
  repeat' first
    | with_reducible first
        | assumption | apply State.fresh_only | apply State.writeRow_only | refine onlyRes_next ?_
    | exact List.Subset.trans (by decide) hL

theorem execRestoreDefaults_only {L : List Part} (r : Req) (v : Nat) (s : State) (hL : changeParts ⊆ L) : s.onlyRes L
    (execRestoreDefaults r v s) := by
  have h0 := State.only_refl L s
  unfold execRestoreDefaults
  repeat' first
    | with_reducible first
        | assumption | apply State.fresh_only | apply State.writeRow_only | refine onlyRes_next ?_
    | exact List.Subset.trans (by decide) hL

theorem execLogEntryWrite_only {L : List Part} (s : State) (hL : changeParts ⊆ L) : s.onlyRes L (execLogEntryWrite s)
    := by
  have h0 := State.only_refl L s
  unfold execLogEntryWrite
  repeat' first
    | with_reducible first
        | assumption | apply State.fresh_only | apply State.writeDue_only | refine onlyRes_next ?_
    | exact List.Subset.trans (by decide) hL

theorem execCheckpointDue_only {L : List Part} (s : State) (hL : [.devJobs, .nextJob, .log, .atn, .out] ⊆ L) :
    s.onlyRes L (execCheckpointDue s) := by
  have h0 := State.only_refl L s
  unfold execCheckpointDue
  repeat' first
    | with_reducible first
        | assumption | apply State.fresh_only | apply State.modLog_only | apply State.addDev_only
        | apply State.latch_only | refine onlyRes_next ?_ | refine ite_only ?_ ?_
    | exact hL (by decide) | exact List.Subset.trans (by decide) hL

theorem execCheckpointWritten_only {L : List Part} (s : State) (hL : [.ports, .tack, .devJobs, .log, .atn, .out] ⊆ L) : s.onlyRes L (execCheckpointWritten s) := by
  have h0 := State.only_refl L s
  unfold execCheckpointWritten
  repeat' first
    | with_reducible first
        | assumption | apply State.fresh_only | apply State.dropDev_only | apply State.writeCheckpoint_only
        | refine onlyRes_next ?_
    | exact List.Subset.trans (by decide) hL | split

theorem execLogExportAck_only {L : List Part} (r : Req) (value : Bytes) (s : State) (hL : changeParts ⊆ L) : s.onlyRes
    L (execLogExportAck r value s) := by
  have h0 := State.only_refl L s
  unfold execLogExportAck
  repeat' first
    | with_reducible first
        | assumption | apply State.fresh_only | apply State.writeRow_only | refine onlyRes_next ?_
    | exact List.Subset.trans (by decide) hL

theorem execLogWindowStartWrite_only {L : List Part} (r : Req) (v : Nat) (s : State) (hL : changeParts ⊆ L) :
    s.onlyRes L (execLogWindowStartWrite r v s) := by
  have h0 := State.only_refl L s
  unfold execLogWindowStartWrite
  repeat' first
    | with_reducible first
        | assumption | apply State.fresh_only | apply State.writeRow_only | refine onlyRes_next ?_
    | exact List.Subset.trans (by decide) hL

theorem execLogTimeEpochWrite_only {L : List Part} (r : Req) (v : Nat) (s : State) (hL : changeParts ⊆ L) : s.onlyRes
    L (execLogTimeEpochWrite r v s) := by
  have h0 := State.only_refl L s
  unfold execLogTimeEpochWrite
  repeat' first
    | with_reducible first
        | assumption | apply State.fresh_only | apply State.writeRow_only | refine onlyRes_next ?_
    | exact List.Subset.trans (by decide) hL

theorem execLogPolicyWrite_only {L : List Part} (r : Req) (v : Nat) (s : State) (hL : changeParts ⊆ L) : s.onlyRes L
    (execLogPolicyWrite r v s) := by
  have h0 := State.only_refl L s
  unfold execLogPolicyWrite
  repeat' first
    | with_reducible first
        | assumption | apply State.fresh_only | apply State.writeRow_only | refine onlyRes_next ?_
    | exact List.Subset.trans (by decide) hL

theorem execMonitorDetect_only {L : List Part} (n : Nat) (s : State) (hL : [.ports, .shed, .tagTable, .shedLost,
    .tack, .yard, .jobs, .devJobs, .pads, .log, .mon, .atn, .out] ⊆ L) : s.onlyRes L (execMonitorDetect n s) := by
  have h0 := State.only_refl L s
  unfold execMonitorDetect
  repeat' first
    | with_reducible first
        | assumption | apply State.fresh_only | apply State.modMon_only | apply State.monDetect_only
        | refine onlyRes_next ?_ | refine ite_only ?_ ?_
    | exact hL (by decide) | exact List.Subset.trans (by decide) hL

theorem execAlarmResponse_only {L : List Part} (s : State) (hL : [.core, .sup, .hal, .yard, .cas, .log, .mon, .atn,
    .out] ⊆ L) : s.onlyRes L (execAlarmResponse s) := by
  have h0 := State.only_refl L s
  unfold execAlarmResponse
  repeat' first
    | with_reducible first
        | assumption | apply State.fresh_only | apply State.alarmRespond_only | refine onlyRes_next ?_
        | refine ite_only ?_ ?_
    | exact List.Subset.trans (by decide) hL

theorem execLatchSelfClear_only {L : List Part} (n : Nat) (s : State) (hL : [.mon, .out] ⊆ L) : s.onlyRes L
    (execLatchSelfClear n s) := by
  have h0 := State.only_refl L s
  unfold execLatchSelfClear
  repeat' first
    | with_reducible first
        | assumption | apply State.fresh_only | apply State.modMon_only | refine onlyRes_next ?_
        | refine ite_only ?_ ?_
    | exact hL (by decide) | exact List.Subset.trans (by decide) hL

theorem execMonClear_only {L : List Part} (r : Req) (v : Nat) (s : State) (hL : changeParts ⊆ L) : s.onlyRes L
    (execMonClear r v s) := by
  have h0 := State.only_refl L s
  unfold execMonClear
  repeat' first
    | with_reducible first
        | assumption | apply State.fresh_only | apply State.writeRow_only | refine onlyRes_next ?_
    | exact List.Subset.trans (by decide) hL

theorem execLeaveAlarmHalt_only {L : List Part} (h : HoldInput) (s : State) (hL : startParts ⊆ L) : s.onlyRes L
    (execLeaveAlarmHalt h s) := by
  have h0 := State.only_refl L s
  unfold execLeaveAlarmHalt
  repeat' first
    | with_reducible first
        | assumption | apply State.fresh_only | apply State.beginStart_only | apply State.setOp_only
        | apply State.holdingActs_only | apply State.holdingEntry_only | refine onlyRes_next ?_
        | refine ite_only ?_ ?_
    | exact hL (by decide) | exact List.Subset.trans (by decide) hL | split | (dsimp only)

theorem execMonTest_only {L : List Part} (r : Req) (n : Nat) (s : State) (hL : changeParts ⊆ L) : s.onlyRes L
    (execMonTest r n s) := by
  have h0 := State.only_refl L s
  unfold execMonTest
  repeat' first
    | with_reducible first
        | assumption | apply State.fresh_only | apply State.writeRow_only | refine onlyRes_next ?_
    | exact List.Subset.trans (by decide) hL

theorem execMonTestWindowEnd_only {L : List Part} (detected real : Bool) (s : State) (hL : [.ports, .shed, .tagTable,
    .shedLost, .tack, .yard, .jobs, .devJobs, .pads, .log, .mon, .atn, .out] ⊆ L) : s.onlyRes L (execMonTestWindowEnd
        detected real s) := by
  have h0 := State.only_refl L s
  unfold execMonTestWindowEnd
  repeat' first
    | with_reducible first
        | assumption | apply State.fresh_only | apply State.modMon_only | apply State.ev_only
        | apply State.monDetect_only | refine onlyRes_next ?_ | refine ite_only ?_ ?_
    | exact hL (by decide) | exact List.Subset.trans (by decide) hL | split

theorem execMonConfigWrite_only {L : List Part} (r : Req) (n v : Nat) (s : State) (hL : changeParts ⊆ L) : s.onlyRes L
    (execMonConfigWrite r n v s) := by
  have h0 := State.only_refl L s
  unfold execMonConfigWrite
  repeat' first
    | with_reducible first
        | assumption | apply State.fresh_only | apply State.writeRow_only | refine onlyRes_next ?_
    | exact List.Subset.trans (by decide) hL

theorem execBackupDetection_only {L : List Part} (n : Nat) (s : State) (hL : [.pwr, .tack, .mon, .out] ⊆ L) :
    s.onlyRes L (execBackupDetection n s) := by
  have h0 := State.only_refl L s
  unfold execBackupDetection
  repeat' first
    | with_reducible first
        | assumption | apply State.fresh_only | apply State.backupDetect_only | refine onlyRes_next ?_
        | refine ite_only ?_ ?_
    | exact List.Subset.trans (by decide) hL

theorem execVbatCollapse_only {L : List Part} (s : State) (hL : [.pwr, .tack, .log, .mon, .out] ⊆ L) : s.onlyRes L
    (execVbatCollapse s) := by
  have h0 := State.only_refl L s
  unfold execVbatCollapse
  repeat' first
    | with_reducible first
        | assumption | apply State.fresh_only | apply State.modPwr_only | apply State.loseBackup_only
        | apply State.modPwr_only | refine onlyRes_next ?_ | refine ite_only ?_ ?_
    | with_reducible intro _ _ _ | with_reducible intro _ _ | exact hL (by decide) | exact List.Subset.trans (by decide) hL | split | (dsimp only)

theorem execLcRequest_only {L : List Part} (r : Req) (value : Bytes) (s : State) (hL : changeParts ⊆ L) : s.onlyRes L
    (execLcRequest r value s) := by
  have h0 := State.only_refl L s
  unfold execLcRequest
  repeat' first
    | with_reducible first
        | assumption | apply State.fresh_only | apply State.writeRow_only | refine onlyRes_next ?_
    | exact List.Subset.trans (by decide) hL

theorem execLcCancel_only {L : List Part} (r : Req) (v : Nat) (s : State) (hL : changeParts ⊆ L) : s.onlyRes L
    (execLcCancel r v s) := by
  have h0 := State.only_refl L s
  unfold execLcCancel
  repeat' first
    | with_reducible first
        | assumption | apply State.fresh_only | apply State.writeRow_only | refine onlyRes_next ?_
    | exact List.Subset.trans (by decide) hL

theorem execLcMailboxToken_only {L : List Part} (token : Bytes) (s : State) (hL : startParts ⊆ L) : s.onlyRes L
    (execLcMailboxToken token s) := by
  have h0 := State.only_refl L s
  unfold execLcMailboxToken
  repeat' first
    | with_reducible first
        | assumption | apply State.fresh_only | apply State.emit_only | apply State.draw_only | apply State.modLc_only
        | apply State.putMark_only | apply State.beginStart_only | refine onlyRes_next ?_ | refine ite_only ?_ ?_
    | exact hL (by decide) | exact List.Subset.trans (by decide) hL

theorem execDebugNonceRead_only {L : List Part} (r : Req) (s : State) (hL : [.par, .tack, .dmb, .cas, .dict, .lc,
    .atn, .out] ⊆ L) : s.onlyRes L (execDebugNonceRead r s) := by
  have h0 := State.only_refl L s
  unfold execDebugNonceRead
  repeat' first
    | with_reducible first
        | assumption | apply State.fresh_only | apply State.request_only | apply State.readOn_only
        | refine onlyRes_next ?_ | intro _
    | exact List.Subset.trans (by decide) hL

theorem execNonceExpiry_only {L : List Part} (s : State) (hL : [.lc, .out] ⊆ L) : s.onlyRes L (execNonceExpiry s) := by
  have h0 := State.only_refl L s
  unfold execNonceExpiry
  repeat' first
    | with_reducible first
        | assumption | apply State.fresh_only | apply State.endNonce_only | refine onlyRes_next ?_
    | exact List.Subset.trans (by decide) hL | split

theorem execDebugToken_only {L : List Part} (r : Req) (value : Bytes) (s : State) (hL : changeParts ⊆ L) : s.onlyRes L
    (execDebugToken r value s) := by
  have h0 := State.only_refl L s
  unfold execDebugToken
  repeat' first
    | with_reducible first
        | assumption | apply State.fresh_only | apply State.writeRow_only | refine onlyRes_next ?_
    | exact List.Subset.trans (by decide) hL

theorem execCascadeEnableWrite_only {L : List Part} (r : Req) (v : Nat) (s : State) (hL : changeParts ⊆ L) : s.onlyRes
    L (execCascadeEnableWrite r v s) := by
  have h0 := State.only_refl L s
  unfold execCascadeEnableWrite
  repeat' first
    | with_reducible first
        | assumption | apply State.fresh_only | apply State.writeRow_only | refine onlyRes_next ?_
    | exact List.Subset.trans (by decide) hL

theorem execCascadePromote_only {L : List Part} (r : Req) (v : Nat) (s : State) (hL : changeParts ⊆ L) : s.onlyRes L
    (execCascadePromote r v s) := by
  have h0 := State.only_refl L s
  unfold execCascadePromote
  repeat' first
    | with_reducible first
        | assumption | apply State.fresh_only | apply State.writeRow_only | refine onlyRes_next ?_
    | exact List.Subset.trans (by decide) hL

theorem execActingMasterClear_only {L : List Part} (r : Req) (v : Nat) (s : State) (hL : changeParts ⊆ L) : s.onlyRes
    L (execActingMasterClear r v s) := by
  have h0 := State.only_refl L s
  unfold execActingMasterClear
  repeat' first
    | with_reducible first
        | assumption | apply State.fresh_only | apply State.writeRow_only | refine onlyRes_next ?_
    | exact List.Subset.trans (by decide) hL

theorem execPromotionNotice_only {L : List Part} (s : State) (hL : [.core, .tack, .yard, .jobs, .devJobs, .nextJob,
    .pads, .cas, .log, .atn, .out] ⊆ L) : s.onlyRes L (execPromotionNotice s) := by
  have h0 := State.only_refl L s
  unfold execPromotionNotice
  repeat' first
    | with_reducible first
        | assumption | apply State.fresh_only | apply State.passOn_only | apply State.orphan_only
        | apply State.latch_only | apply State.ev_only | apply State.fullResetDue_only | refine onlyRes_next ?_
        | refine ite_only ?_ ?_
    | exact hL (by decide) | exact List.Subset.trans (by decide) hL | split | (dsimp only)

theorem execLinkDown_only {L : List Part} (port : Nat) (s : State) (hL : [.cas, .atn, .out] ⊆ L) : s.onlyRes L
    (execLinkDown port s) := by
  have h0 := State.only_refl L s
  unfold execLinkDown
  repeat' first
    | with_reducible first
        | assumption | apply State.fresh_only | apply State.modCas_only | apply State.latch_only
        | apply State.modCas_only | refine onlyRes_next ?_ | refine foldl_only _ _ _ ?_ ?_ | refine ite_only ?_ ?_
        | refine ite_only_fst ?_ ?_
    | with_reducible intro _ _ _ | with_reducible intro _ _ | exact hL (by decide) | exact List.Subset.trans (by decide) hL | split | (dsimp only)

theorem execMemberLost_only {L : List Part} (d : Nat) (s : State) (hL : [.yard, .jobs, .cas, .log, .atn, .out] ⊆ L) :
    s.onlyRes L (execMemberLost d s) := by
  have h0 := State.only_refl L s
  unfold execMemberLost
  repeat' first
    | with_reducible first
        | assumption | apply State.fresh_only | apply State.endJob_only | apply State.modCas_only
        | apply State.latch_only | apply State.ev_only | refine onlyRes_next ?_ | refine foldl_only _ _ _ ?_ ?_
        | intro _ | refine ite_only ?_ ?_
    | exact hL (by decide) | exact List.Subset.trans (by decide) hL

theorem execLinkRekey_only {L : List Part} (r : Rekey) (secret transcript : Bytes) (s : State) (hL : [.cas,
    .log, .atn, .out] ⊆ L) : s.onlyRes L (execLinkRekey r secret transcript s) := by
  have h0 := State.only_refl L s
  unfold execLinkRekey
  repeat' first
    | with_reducible first
        | assumption | apply State.fresh_only | apply State.keyLink_only | apply State.ev_only
        | apply State.latch_only | apply State.modCas_only | apply State.modCas_only | refine onlyRes_next ?_
        | refine ite_only ?_ ?_
    | with_reducible intro _ _ _ | with_reducible intro _ _ | exact hL (by decide) | exact List.Subset.trans (by decide) hL | split | (dsimp only)

theorem execForwardedJob_only {L : List Part} (desc data : Bytes) (master mask : Nat) (s : State) (hL : [.jobs,
    .nextJob, .cas, .out] ⊆ L) : s.onlyRes L (execForwardedJob desc data master mask s) := by
  have h0 := State.only_refl L s
  unfold execForwardedJob
  repeat' first
    | with_reducible first
        | assumption | apply State.fresh_only | apply State.modCas_only | apply State.modJobs_only
        | apply State.modNextJob_only | refine onlyRes_next ?_ | refine ite_only ?_ ?_
    | exact hL (by decide) | exact List.Subset.trans (by decide) hL

theorem execForwardedResult_only {L : List Part} (id status lane : Nat) (result dest : Bytes) (s : State) (hL :
    [.jobs, .cas, .out] ⊆ L) : s.onlyRes L (execForwardedResult id status lane result dest s) := by
  have h0 := State.only_refl L s
  unfold execForwardedResult
  repeat' first
    | with_reducible first
        | assumption | apply State.fresh_only | apply State.heard_only | apply State.modCas_only
        | apply State.modJob_only | refine onlyRes_next ?_
    | exact hL (by decide) | exact List.Subset.trans (by decide) hL | split

theorem execKeyReplication_only {L : List Part} (k : Key) (master : Nat) (s : State) (hL : [.tack, .devJobs, .nextJob,
    .cas, .out] ⊆ L) : s.onlyRes L (execKeyReplication k master s) := by
  have h0 := State.only_refl L s
  unfold execKeyReplication
  repeat' first
    | with_reducible first
        | assumption | apply State.fresh_only | apply State.linkSend_only | apply State.eraseKey_only
        | apply State.modTack_only | refine onlyRes_next ?_
    | exact hL (by decide) | exact List.Subset.trans (by decide) hL | split | dsimp only

theorem execReplicaChange_only {L : List Part} (master what : Nat) (secret : Bytes) (s : State) (hL : [.cas, .out] ⊆ L)
    : s.onlyRes L (execReplicaChange master what secret s) := by
  have h0 := State.only_refl L s
  unfold execReplicaChange
  repeat' first
    | with_reducible first
        | assumption | apply State.fresh_only | apply State.modCas_only | apply State.modCas_only
        | refine onlyRes_next ?_ | refine ite_only ?_ ?_
    | with_reducible intro _ _ _ | with_reducible intro _ _ | exact hL (by decide) | exact List.Subset.trans (by decide) hL | split | (dsimp only)

theorem execForwardCancellation_only {L : List Part} (id : Nat) (s : State) (hL : [.cas, .out] ⊆ L) : s.onlyRes L
    (execForwardCancellation id s) := by
  have h0 := State.only_refl L s
  unfold execForwardCancellation
  repeat' first
    | with_reducible first
        | assumption | apply State.fresh_only | apply State.modCas_only | refine onlyRes_next ?_
        | refine ite_only ?_ ?_
    | exact hL (by decide) | exact List.Subset.trans (by decide) hL

theorem execRemoteSheetSwitch_only {L : List Part} (sheet base : Nat) (safe : Bool) (s : State) (hL : [.yard, .cas,
    .log, .atn, .out] ⊆ L) : s.onlyRes L (execRemoteSheetSwitch sheet base safe s) := by
  have h0 := State.only_refl L s
  unfold execRemoteSheetSwitch
  repeat' first
    | with_reducible first
        | assumption | apply State.fresh_only | apply State.modCas_only | apply State.takeSwitch_only
        | refine onlyRes_next ?_ | refine ite_only ?_ ?_
    | exact hL (by decide) | exact List.Subset.trans (by decide) hL

theorem execPowerSleep_only {L : List Part} (r : Req) (v : Nat) (s : State) (hL : changeParts ⊆ L) : s.onlyRes L
    (execPowerSleep r v s) := by
  have h0 := State.only_refl L s
  unfold execPowerSleep
  repeat' first
    | with_reducible first
        | assumption | apply State.fresh_only | apply State.writeRow_only | refine onlyRes_next ?_
    | exact List.Subset.trans (by decide) hL

theorem execWake_only {L : List Part} (w : WakeSource) (hi : Nat) (s : State) (hL : startParts ⊆ L) : s.onlyRes L
    (execWake w hi s) := by
  have h0 := State.only_refl L s
  unfold execWake
  repeat' first
    | with_reducible first
        | assumption | apply State.fresh_only | apply State.modPwr_only | apply State.wakeEvent_only
        | refine onlyRes_next ?_ | refine ite_only ?_ ?_
    | exact hL (by decide) | exact List.Subset.trans (by decide) hL

theorem execWakeTimerExpiry_only {L : List Part} (s : State) (hL : startParts ⊆ L) : s.onlyRes L (execWakeTimerExpiry
    s) := by
  have h0 := State.only_refl L s
  unfold execWakeTimerExpiry
  repeat' first
    | with_reducible first
        | assumption | apply State.fresh_only | apply State.wakeEvent_only | refine onlyRes_next ?_
        | refine ite_only ?_ ?_
    | exact List.Subset.trans (by decide) hL

theorem execVioMgRise_only {L : List Part} (st : Straps) (s : State) (hL : startParts ⊆ L) : s.onlyRes L
    (execVioMgRise st s) := by
  have h0 := State.only_refl L s
  unfold execVioMgRise
  repeat' first
    | with_reducible first
        | assumption | apply State.fresh_only | apply State.modPwr_only | apply State.sampleStraps_only
        | apply State.beginStart_only | refine onlyRes_next ?_ | refine ite_only ?_ ?_
    | exact hL (by decide) | exact List.Subset.trans (by decide) hL

theorem execDebuggerHalt_only {L : List Part} (s : State) (hL : [.pwr, .out] ⊆ L) : s.onlyRes L (execDebuggerHalt s)
    := by
  have h0 := State.only_refl L s
  unfold execDebuggerHalt
  repeat' first
    | with_reducible first
        | assumption | apply State.fresh_only | apply State.modPwr_only | refine onlyRes_next ?_
        | refine ite_only ?_ ?_
    | exact hL (by decide) | exact List.Subset.trans (by decide) hL

theorem execDebuggerResume_only {L : List Part} (s : State) (hL : [.pwr, .out] ⊆ L) : s.onlyRes L (execDebuggerResume
    s) := by
  have h0 := State.only_refl L s
  unfold execDebuggerResume
  repeat' first
    | with_reducible first
        | assumption | apply State.fresh_only | apply State.modPwr_only | refine onlyRes_next ?_
    | exact hL (by decide) | exact List.Subset.trans (by decide) hL

theorem execVectorUnmask_only {L : List Part} (fn vector : Nat) (s : State) (hL : [.atn, .out] ⊆ L) : s.onlyRes L
    (execVectorUnmask fn vector s) := by
  have h0 := State.only_refl L s
  unfold execVectorUnmask
  repeat' first
    | with_reducible first
        | assumption | apply State.fresh_only | apply State.setMsix_only | apply State.modAtn_only
        | apply State.emit_only | refine onlyRes_next ?_ | refine ite_only ?_ ?_
    | exact hL (by decide) | exact List.Subset.trans (by decide) hL

theorem execSmbusTimeout_only {L : List Part} (bus : Nat) (s : State) (hL : [.out] ⊆ L) : s.onlyRes L
    (execSmbusTimeout bus s) := by
  have h0 := State.only_refl L s
  unfold execSmbusTimeout
  repeat' with_reducible first
    | assumption | apply State.fresh_only | apply State.emit_only | refine onlyRes_next ?_ | refine ite_only ?_ ?_

theorem execPushWindowWrite_only {L : List Part} (pad slot off : Nat) (data : Bytes) (s : State) (hL : [.pads, .pci,
    .atn, .out] ⊆ L) : s.onlyRes L (execPushWindowWrite pad slot off data s) := by
  have h0 := State.only_refl L s
  unfold execPushWindowWrite
  repeat' first
    | with_reducible first
        | assumption | apply State.fresh_only | apply State.pushWrite_only | refine onlyRes_next ?_
        | refine ite_only ?_ ?_
    | exact List.Subset.trans (by decide) hL

theorem execMctpControlRequest_only {L : List Part} (m : MctpFrom) (eid cmd typ : Nat) (s : State) (hL : [.par, .atn,
    .out] ⊆ L) : s.onlyRes L (execMctpControlRequest m eid cmd typ s) := by
  have h0 := State.only_refl L s
  unfold execMctpControlRequest
  repeat' first
    | with_reducible first
        | assumption | apply State.fresh_only | apply State.lateMctp_only | apply State.pldmReply_only
        | apply State.mctpAnswer_only | refine onlyRes_next ?_ | refine ite_only ?_ ?_
    | exact hL (by decide) | exact List.Subset.trans (by decide) hL | split | (dsimp only)

theorem execMemberJoin_only {L : List Part} (j : JoinInput) (s : State) (hL : [.cas, .log, .atn, .out] ⊆ L) : s.onlyRes
    L (execMemberJoin j s) := by
  have h0 := State.only_refl L s
  unfold execMemberJoin
  repeat' first
    | with_reducible first
        | assumption | apply State.fresh_only | apply State.passOn_only | apply State.refuseLink_only
        | apply State.modCas_only | apply State.keyLink_only | apply State.linkSend_only | apply State.latch_only
        | apply State.ev_only | apply State.modCas_only | refine onlyRes_next ?_ | refine foldl_only _ _ _ ?_ ?_
        | refine ite_only ?_ ?_ | refine ite_only_fst ?_ ?_
    | with_reducible intro _ _ _ | with_reducible intro _ _ | exact hL (by decide) | exact List.Subset.trans (by decide) hL | split | (dsimp only)

theorem execReplicationAck_only {L : List Part} (member master : Nat) (s : State) (hL : [.cas, .out] ⊆ L) : s.onlyRes L
    (execReplicationAck member master s) := by
  have h0 := State.only_refl L s
  unfold execReplicationAck
  repeat' first
    | with_reducible first
        | assumption | apply State.fresh_only | apply State.passOn_only | apply State.heard_only
        | apply State.modCas_only | apply State.modCas_only | refine onlyRes_next ?_ | refine ite_only ?_ ?_
        | refine ite_only_fst ?_ ?_ | refine ite_only_snd ?_ ?_
    | with_reducible intro _ _ _ | with_reducible intro _ _ | exact hL (by decide) | exact List.Subset.trans (by decide) hL | split | (dsimp only)

theorem execStackClassTReport_only {L : List Part} (member : Nat) (s : State) (hL : [.yard, .out] ⊆ L) : s.onlyRes L
    (execStackClassTReport member s) := by
  have h0 := State.only_refl L s
  unfold execStackClassTReport
  repeat' first
    | with_reducible first
        | assumption | apply State.fresh_only | apply State.makeSafeDue_only | apply State.passOn_only
        | refine onlyRes_next ?_ | refine ite_only ?_ ?_
    | exact hL (by decide) | exact List.Subset.trans (by decide) hL | split | (dsimp only)

end Sys2Proof.Machine
end

