-- ==== Sys2Proof/Laws/State.lean ====
section
/-! SUPPORT. One lemma per part of the state per modifier, each true by definition: no proof unfolds a record update. -/

namespace Sys2Proof.Machine

@[simp] theorem State.modCore_core (s : State) (f : Core → Core) : (s.modCore f).core = f s.core := rfl
@[simp] theorem State.modCore_pwr (s : State) (f : Core → Core) : (s.modCore f).pwr = s.pwr := rfl
@[simp] theorem State.modCore_sup (s : State) (f : Core → Core) : (s.modCore f).sup = s.sup := rfl
@[simp] theorem State.modCore_fuse (s : State) (f : Core → Core) : (s.modCore f).fuse = s.fuse := rfl
@[simp] theorem State.modCore_boot (s : State) (f : Core → Core) : (s.modCore f).boot = s.boot := rfl
@[simp] theorem State.modCore_hal (s : State) (f : Core → Core) : (s.modCore f).hal = s.hal := rfl
@[simp] theorem State.modCore_ports (s : State) (f : Core → Core) : (s.modCore f).ports = s.ports := rfl
@[simp] theorem State.modCore_shed (s : State) (f : Core → Core) : (s.modCore f).shed = s.shed := rfl
@[simp] theorem State.modCore_tagTable (s : State) (f : Core → Core) : (s.modCore f).tagTable = s.tagTable := rfl
@[simp] theorem State.modCore_shedLost (s : State) (f : Core → Core) : (s.modCore f).shedLost = s.shedLost := rfl
@[simp] theorem State.modCore_pldm (s : State) (f : Core → Core) : (s.modCore f).pldm = s.pldm := rfl
@[simp] theorem State.modCore_par (s : State) (f : Core → Core) : (s.modCore f).par = s.par := rfl
@[simp] theorem State.modCore_tack (s : State) (f : Core → Core) : (s.modCore f).tack = s.tack := rfl
@[simp] theorem State.modCore_yard (s : State) (f : Core → Core) : (s.modCore f).yard = s.yard := rfl
@[simp] theorem State.modCore_jobs (s : State) (f : Core → Core) : (s.modCore f).jobs = s.jobs := rfl
@[simp] theorem State.modCore_devJobs (s : State) (f : Core → Core) : (s.modCore f).devJobs = s.devJobs := rfl
@[simp] theorem State.modCore_nextJob (s : State) (f : Core → Core) : (s.modCore f).nextJob = s.nextJob := rfl
@[simp] theorem State.modCore_pads (s : State) (f : Core → Core) : (s.modCore f).pads = s.pads := rfl
@[simp] theorem State.modCore_pmem (s : State) (f : Core → Core) : (s.modCore f).pmem = s.pmem := rfl
@[simp] theorem State.modCore_pci (s : State) (f : Core → Core) : (s.modCore f).pci = s.pci := rfl
@[simp] theorem State.modCore_rdw (s : State) (f : Core → Core) : (s.modCore f).rdw = s.rdw := rfl
@[simp] theorem State.modCore_rdwSc (s : State) (f : Core → Core) : (s.modCore f).rdwSc = s.rdwSc := rfl
@[simp] theorem State.modCore_dmb (s : State) (f : Core → Core) : (s.modCore f).dmb = s.dmb := rfl
@[simp] theorem State.modCore_cas (s : State) (f : Core → Core) : (s.modCore f).cas = s.cas := rfl
@[simp] theorem State.modCore_dict (s : State) (f : Core → Core) : (s.modCore f).dict = s.dict := rfl
@[simp] theorem State.modCore_log (s : State) (f : Core → Core) : (s.modCore f).log = s.log := rfl
@[simp] theorem State.modCore_lc (s : State) (f : Core → Core) : (s.modCore f).lc = s.lc := rfl
@[simp] theorem State.modCore_mon (s : State) (f : Core → Core) : (s.modCore f).mon = s.mon := rfl
@[simp] theorem State.modCore_atn (s : State) (f : Core → Core) : (s.modCore f).atn = s.atn := rfl
@[simp] theorem State.modCore_pending (s : State) (f : Core → Core) : (s.modCore f).pending = s.pending := rfl
@[simp] theorem State.modCore_out (s : State) (f : Core → Core) : (s.modCore f).out = s.out := rfl
@[simp] theorem State.modPwr_core (s : State) (f : Pwr → Pwr) : (s.modPwr f).core = s.core := rfl
@[simp] theorem State.modPwr_pwr (s : State) (f : Pwr → Pwr) : (s.modPwr f).pwr = f s.pwr := rfl
@[simp] theorem State.modPwr_sup (s : State) (f : Pwr → Pwr) : (s.modPwr f).sup = s.sup := rfl
@[simp] theorem State.modPwr_fuse (s : State) (f : Pwr → Pwr) : (s.modPwr f).fuse = s.fuse := rfl
@[simp] theorem State.modPwr_boot (s : State) (f : Pwr → Pwr) : (s.modPwr f).boot = s.boot := rfl
@[simp] theorem State.modPwr_hal (s : State) (f : Pwr → Pwr) : (s.modPwr f).hal = s.hal := rfl
@[simp] theorem State.modPwr_ports (s : State) (f : Pwr → Pwr) : (s.modPwr f).ports = s.ports := rfl
@[simp] theorem State.modPwr_shed (s : State) (f : Pwr → Pwr) : (s.modPwr f).shed = s.shed := rfl
@[simp] theorem State.modPwr_tagTable (s : State) (f : Pwr → Pwr) : (s.modPwr f).tagTable = s.tagTable := rfl
@[simp] theorem State.modPwr_shedLost (s : State) (f : Pwr → Pwr) : (s.modPwr f).shedLost = s.shedLost := rfl
@[simp] theorem State.modPwr_pldm (s : State) (f : Pwr → Pwr) : (s.modPwr f).pldm = s.pldm := rfl
@[simp] theorem State.modPwr_par (s : State) (f : Pwr → Pwr) : (s.modPwr f).par = s.par := rfl
@[simp] theorem State.modPwr_tack (s : State) (f : Pwr → Pwr) : (s.modPwr f).tack = s.tack := rfl
@[simp] theorem State.modPwr_yard (s : State) (f : Pwr → Pwr) : (s.modPwr f).yard = s.yard := rfl
@[simp] theorem State.modPwr_jobs (s : State) (f : Pwr → Pwr) : (s.modPwr f).jobs = s.jobs := rfl
@[simp] theorem State.modPwr_devJobs (s : State) (f : Pwr → Pwr) : (s.modPwr f).devJobs = s.devJobs := rfl
@[simp] theorem State.modPwr_nextJob (s : State) (f : Pwr → Pwr) : (s.modPwr f).nextJob = s.nextJob := rfl
@[simp] theorem State.modPwr_pads (s : State) (f : Pwr → Pwr) : (s.modPwr f).pads = s.pads := rfl
@[simp] theorem State.modPwr_pmem (s : State) (f : Pwr → Pwr) : (s.modPwr f).pmem = s.pmem := rfl
@[simp] theorem State.modPwr_pci (s : State) (f : Pwr → Pwr) : (s.modPwr f).pci = s.pci := rfl
@[simp] theorem State.modPwr_rdw (s : State) (f : Pwr → Pwr) : (s.modPwr f).rdw = s.rdw := rfl
@[simp] theorem State.modPwr_rdwSc (s : State) (f : Pwr → Pwr) : (s.modPwr f).rdwSc = s.rdwSc := rfl
@[simp] theorem State.modPwr_dmb (s : State) (f : Pwr → Pwr) : (s.modPwr f).dmb = s.dmb := rfl
@[simp] theorem State.modPwr_cas (s : State) (f : Pwr → Pwr) : (s.modPwr f).cas = s.cas := rfl
@[simp] theorem State.modPwr_dict (s : State) (f : Pwr → Pwr) : (s.modPwr f).dict = s.dict := rfl
@[simp] theorem State.modPwr_log (s : State) (f : Pwr → Pwr) : (s.modPwr f).log = s.log := rfl
@[simp] theorem State.modPwr_lc (s : State) (f : Pwr → Pwr) : (s.modPwr f).lc = s.lc := rfl
@[simp] theorem State.modPwr_mon (s : State) (f : Pwr → Pwr) : (s.modPwr f).mon = s.mon := rfl
@[simp] theorem State.modPwr_atn (s : State) (f : Pwr → Pwr) : (s.modPwr f).atn = s.atn := rfl
@[simp] theorem State.modPwr_pending (s : State) (f : Pwr → Pwr) : (s.modPwr f).pending = s.pending := rfl
@[simp] theorem State.modPwr_out (s : State) (f : Pwr → Pwr) : (s.modPwr f).out = s.out := rfl
@[simp] theorem State.modSup_core (s : State) (f : Sup → Sup) : (s.modSup f).core = s.core := rfl
@[simp] theorem State.modSup_pwr (s : State) (f : Sup → Sup) : (s.modSup f).pwr = s.pwr := rfl
@[simp] theorem State.modSup_sup (s : State) (f : Sup → Sup) : (s.modSup f).sup = f s.sup := rfl
@[simp] theorem State.modSup_fuse (s : State) (f : Sup → Sup) : (s.modSup f).fuse = s.fuse := rfl
@[simp] theorem State.modSup_boot (s : State) (f : Sup → Sup) : (s.modSup f).boot = s.boot := rfl
@[simp] theorem State.modSup_hal (s : State) (f : Sup → Sup) : (s.modSup f).hal = s.hal := rfl
@[simp] theorem State.modSup_ports (s : State) (f : Sup → Sup) : (s.modSup f).ports = s.ports := rfl
@[simp] theorem State.modSup_shed (s : State) (f : Sup → Sup) : (s.modSup f).shed = s.shed := rfl
@[simp] theorem State.modSup_tagTable (s : State) (f : Sup → Sup) : (s.modSup f).tagTable = s.tagTable := rfl
@[simp] theorem State.modSup_shedLost (s : State) (f : Sup → Sup) : (s.modSup f).shedLost = s.shedLost := rfl
@[simp] theorem State.modSup_pldm (s : State) (f : Sup → Sup) : (s.modSup f).pldm = s.pldm := rfl
@[simp] theorem State.modSup_par (s : State) (f : Sup → Sup) : (s.modSup f).par = s.par := rfl
@[simp] theorem State.modSup_tack (s : State) (f : Sup → Sup) : (s.modSup f).tack = s.tack := rfl
@[simp] theorem State.modSup_yard (s : State) (f : Sup → Sup) : (s.modSup f).yard = s.yard := rfl
@[simp] theorem State.modSup_jobs (s : State) (f : Sup → Sup) : (s.modSup f).jobs = s.jobs := rfl
@[simp] theorem State.modSup_devJobs (s : State) (f : Sup → Sup) : (s.modSup f).devJobs = s.devJobs := rfl
@[simp] theorem State.modSup_nextJob (s : State) (f : Sup → Sup) : (s.modSup f).nextJob = s.nextJob := rfl
@[simp] theorem State.modSup_pads (s : State) (f : Sup → Sup) : (s.modSup f).pads = s.pads := rfl
@[simp] theorem State.modSup_pmem (s : State) (f : Sup → Sup) : (s.modSup f).pmem = s.pmem := rfl
@[simp] theorem State.modSup_pci (s : State) (f : Sup → Sup) : (s.modSup f).pci = s.pci := rfl
@[simp] theorem State.modSup_rdw (s : State) (f : Sup → Sup) : (s.modSup f).rdw = s.rdw := rfl
@[simp] theorem State.modSup_rdwSc (s : State) (f : Sup → Sup) : (s.modSup f).rdwSc = s.rdwSc := rfl
@[simp] theorem State.modSup_dmb (s : State) (f : Sup → Sup) : (s.modSup f).dmb = s.dmb := rfl
@[simp] theorem State.modSup_cas (s : State) (f : Sup → Sup) : (s.modSup f).cas = s.cas := rfl
@[simp] theorem State.modSup_dict (s : State) (f : Sup → Sup) : (s.modSup f).dict = s.dict := rfl
@[simp] theorem State.modSup_log (s : State) (f : Sup → Sup) : (s.modSup f).log = s.log := rfl
@[simp] theorem State.modSup_lc (s : State) (f : Sup → Sup) : (s.modSup f).lc = s.lc := rfl
@[simp] theorem State.modSup_mon (s : State) (f : Sup → Sup) : (s.modSup f).mon = s.mon := rfl
@[simp] theorem State.modSup_atn (s : State) (f : Sup → Sup) : (s.modSup f).atn = s.atn := rfl
@[simp] theorem State.modSup_pending (s : State) (f : Sup → Sup) : (s.modSup f).pending = s.pending := rfl
@[simp] theorem State.modSup_out (s : State) (f : Sup → Sup) : (s.modSup f).out = s.out := rfl
@[simp] theorem State.modFuse_core (s : State) (f : Fuse → Fuse) : (s.modFuse f).core = s.core := rfl
@[simp] theorem State.modFuse_pwr (s : State) (f : Fuse → Fuse) : (s.modFuse f).pwr = s.pwr := rfl
@[simp] theorem State.modFuse_sup (s : State) (f : Fuse → Fuse) : (s.modFuse f).sup = s.sup := rfl
@[simp] theorem State.modFuse_fuse (s : State) (f : Fuse → Fuse) : (s.modFuse f).fuse = f s.fuse := rfl
@[simp] theorem State.modFuse_boot (s : State) (f : Fuse → Fuse) : (s.modFuse f).boot = s.boot := rfl
@[simp] theorem State.modFuse_hal (s : State) (f : Fuse → Fuse) : (s.modFuse f).hal = s.hal := rfl
@[simp] theorem State.modFuse_ports (s : State) (f : Fuse → Fuse) : (s.modFuse f).ports = s.ports := rfl
@[simp] theorem State.modFuse_shed (s : State) (f : Fuse → Fuse) : (s.modFuse f).shed = s.shed := rfl
@[simp] theorem State.modFuse_tagTable (s : State) (f : Fuse → Fuse) : (s.modFuse f).tagTable = s.tagTable := rfl
@[simp] theorem State.modFuse_shedLost (s : State) (f : Fuse → Fuse) : (s.modFuse f).shedLost = s.shedLost := rfl
@[simp] theorem State.modFuse_pldm (s : State) (f : Fuse → Fuse) : (s.modFuse f).pldm = s.pldm := rfl
@[simp] theorem State.modFuse_par (s : State) (f : Fuse → Fuse) : (s.modFuse f).par = s.par := rfl
@[simp] theorem State.modFuse_tack (s : State) (f : Fuse → Fuse) : (s.modFuse f).tack = s.tack := rfl
@[simp] theorem State.modFuse_yard (s : State) (f : Fuse → Fuse) : (s.modFuse f).yard = s.yard := rfl
@[simp] theorem State.modFuse_jobs (s : State) (f : Fuse → Fuse) : (s.modFuse f).jobs = s.jobs := rfl
@[simp] theorem State.modFuse_devJobs (s : State) (f : Fuse → Fuse) : (s.modFuse f).devJobs = s.devJobs := rfl
@[simp] theorem State.modFuse_nextJob (s : State) (f : Fuse → Fuse) : (s.modFuse f).nextJob = s.nextJob := rfl
@[simp] theorem State.modFuse_pads (s : State) (f : Fuse → Fuse) : (s.modFuse f).pads = s.pads := rfl
@[simp] theorem State.modFuse_pmem (s : State) (f : Fuse → Fuse) : (s.modFuse f).pmem = s.pmem := rfl
@[simp] theorem State.modFuse_pci (s : State) (f : Fuse → Fuse) : (s.modFuse f).pci = s.pci := rfl
@[simp] theorem State.modFuse_rdw (s : State) (f : Fuse → Fuse) : (s.modFuse f).rdw = s.rdw := rfl
@[simp] theorem State.modFuse_rdwSc (s : State) (f : Fuse → Fuse) : (s.modFuse f).rdwSc = s.rdwSc := rfl
@[simp] theorem State.modFuse_dmb (s : State) (f : Fuse → Fuse) : (s.modFuse f).dmb = s.dmb := rfl
@[simp] theorem State.modFuse_cas (s : State) (f : Fuse → Fuse) : (s.modFuse f).cas = s.cas := rfl
@[simp] theorem State.modFuse_dict (s : State) (f : Fuse → Fuse) : (s.modFuse f).dict = s.dict := rfl
@[simp] theorem State.modFuse_log (s : State) (f : Fuse → Fuse) : (s.modFuse f).log = s.log := rfl
@[simp] theorem State.modFuse_lc (s : State) (f : Fuse → Fuse) : (s.modFuse f).lc = s.lc := rfl
@[simp] theorem State.modFuse_mon (s : State) (f : Fuse → Fuse) : (s.modFuse f).mon = s.mon := rfl
@[simp] theorem State.modFuse_atn (s : State) (f : Fuse → Fuse) : (s.modFuse f).atn = s.atn := rfl
@[simp] theorem State.modFuse_pending (s : State) (f : Fuse → Fuse) : (s.modFuse f).pending = s.pending := rfl
@[simp] theorem State.modFuse_out (s : State) (f : Fuse → Fuse) : (s.modFuse f).out = s.out := rfl
@[simp] theorem State.modBoot_core (s : State) (f : Boot → Boot) : (s.modBoot f).core = s.core := rfl
@[simp] theorem State.modBoot_pwr (s : State) (f : Boot → Boot) : (s.modBoot f).pwr = s.pwr := rfl
@[simp] theorem State.modBoot_sup (s : State) (f : Boot → Boot) : (s.modBoot f).sup = s.sup := rfl
@[simp] theorem State.modBoot_fuse (s : State) (f : Boot → Boot) : (s.modBoot f).fuse = s.fuse := rfl
@[simp] theorem State.modBoot_boot (s : State) (f : Boot → Boot) : (s.modBoot f).boot = f s.boot := rfl
@[simp] theorem State.modBoot_hal (s : State) (f : Boot → Boot) : (s.modBoot f).hal = s.hal := rfl
@[simp] theorem State.modBoot_ports (s : State) (f : Boot → Boot) : (s.modBoot f).ports = s.ports := rfl
@[simp] theorem State.modBoot_shed (s : State) (f : Boot → Boot) : (s.modBoot f).shed = s.shed := rfl
@[simp] theorem State.modBoot_tagTable (s : State) (f : Boot → Boot) : (s.modBoot f).tagTable = s.tagTable := rfl
@[simp] theorem State.modBoot_shedLost (s : State) (f : Boot → Boot) : (s.modBoot f).shedLost = s.shedLost := rfl
@[simp] theorem State.modBoot_pldm (s : State) (f : Boot → Boot) : (s.modBoot f).pldm = s.pldm := rfl
@[simp] theorem State.modBoot_par (s : State) (f : Boot → Boot) : (s.modBoot f).par = s.par := rfl
@[simp] theorem State.modBoot_tack (s : State) (f : Boot → Boot) : (s.modBoot f).tack = s.tack := rfl
@[simp] theorem State.modBoot_yard (s : State) (f : Boot → Boot) : (s.modBoot f).yard = s.yard := rfl
@[simp] theorem State.modBoot_jobs (s : State) (f : Boot → Boot) : (s.modBoot f).jobs = s.jobs := rfl
@[simp] theorem State.modBoot_devJobs (s : State) (f : Boot → Boot) : (s.modBoot f).devJobs = s.devJobs := rfl
@[simp] theorem State.modBoot_nextJob (s : State) (f : Boot → Boot) : (s.modBoot f).nextJob = s.nextJob := rfl
@[simp] theorem State.modBoot_pads (s : State) (f : Boot → Boot) : (s.modBoot f).pads = s.pads := rfl
@[simp] theorem State.modBoot_pmem (s : State) (f : Boot → Boot) : (s.modBoot f).pmem = s.pmem := rfl
@[simp] theorem State.modBoot_pci (s : State) (f : Boot → Boot) : (s.modBoot f).pci = s.pci := rfl
@[simp] theorem State.modBoot_rdw (s : State) (f : Boot → Boot) : (s.modBoot f).rdw = s.rdw := rfl
@[simp] theorem State.modBoot_rdwSc (s : State) (f : Boot → Boot) : (s.modBoot f).rdwSc = s.rdwSc := rfl
@[simp] theorem State.modBoot_dmb (s : State) (f : Boot → Boot) : (s.modBoot f).dmb = s.dmb := rfl
@[simp] theorem State.modBoot_cas (s : State) (f : Boot → Boot) : (s.modBoot f).cas = s.cas := rfl
@[simp] theorem State.modBoot_dict (s : State) (f : Boot → Boot) : (s.modBoot f).dict = s.dict := rfl
@[simp] theorem State.modBoot_log (s : State) (f : Boot → Boot) : (s.modBoot f).log = s.log := rfl
@[simp] theorem State.modBoot_lc (s : State) (f : Boot → Boot) : (s.modBoot f).lc = s.lc := rfl
@[simp] theorem State.modBoot_mon (s : State) (f : Boot → Boot) : (s.modBoot f).mon = s.mon := rfl
@[simp] theorem State.modBoot_atn (s : State) (f : Boot → Boot) : (s.modBoot f).atn = s.atn := rfl
@[simp] theorem State.modBoot_pending (s : State) (f : Boot → Boot) : (s.modBoot f).pending = s.pending := rfl
@[simp] theorem State.modBoot_out (s : State) (f : Boot → Boot) : (s.modBoot f).out = s.out := rfl
@[simp] theorem State.modHal_core (s : State) (f : Hal → Hal) : (s.modHal f).core = s.core := rfl
@[simp] theorem State.modHal_pwr (s : State) (f : Hal → Hal) : (s.modHal f).pwr = s.pwr := rfl
@[simp] theorem State.modHal_sup (s : State) (f : Hal → Hal) : (s.modHal f).sup = s.sup := rfl
@[simp] theorem State.modHal_fuse (s : State) (f : Hal → Hal) : (s.modHal f).fuse = s.fuse := rfl
@[simp] theorem State.modHal_boot (s : State) (f : Hal → Hal) : (s.modHal f).boot = s.boot := rfl
@[simp] theorem State.modHal_hal (s : State) (f : Hal → Hal) : (s.modHal f).hal = f s.hal := rfl
@[simp] theorem State.modHal_ports (s : State) (f : Hal → Hal) : (s.modHal f).ports = s.ports := rfl
@[simp] theorem State.modHal_shed (s : State) (f : Hal → Hal) : (s.modHal f).shed = s.shed := rfl
@[simp] theorem State.modHal_tagTable (s : State) (f : Hal → Hal) : (s.modHal f).tagTable = s.tagTable := rfl
@[simp] theorem State.modHal_shedLost (s : State) (f : Hal → Hal) : (s.modHal f).shedLost = s.shedLost := rfl
@[simp] theorem State.modHal_pldm (s : State) (f : Hal → Hal) : (s.modHal f).pldm = s.pldm := rfl
@[simp] theorem State.modHal_par (s : State) (f : Hal → Hal) : (s.modHal f).par = s.par := rfl
@[simp] theorem State.modHal_tack (s : State) (f : Hal → Hal) : (s.modHal f).tack = s.tack := rfl
@[simp] theorem State.modHal_yard (s : State) (f : Hal → Hal) : (s.modHal f).yard = s.yard := rfl
@[simp] theorem State.modHal_jobs (s : State) (f : Hal → Hal) : (s.modHal f).jobs = s.jobs := rfl
@[simp] theorem State.modHal_devJobs (s : State) (f : Hal → Hal) : (s.modHal f).devJobs = s.devJobs := rfl
@[simp] theorem State.modHal_nextJob (s : State) (f : Hal → Hal) : (s.modHal f).nextJob = s.nextJob := rfl
@[simp] theorem State.modHal_pads (s : State) (f : Hal → Hal) : (s.modHal f).pads = s.pads := rfl
@[simp] theorem State.modHal_pmem (s : State) (f : Hal → Hal) : (s.modHal f).pmem = s.pmem := rfl
@[simp] theorem State.modHal_pci (s : State) (f : Hal → Hal) : (s.modHal f).pci = s.pci := rfl
@[simp] theorem State.modHal_rdw (s : State) (f : Hal → Hal) : (s.modHal f).rdw = s.rdw := rfl
@[simp] theorem State.modHal_rdwSc (s : State) (f : Hal → Hal) : (s.modHal f).rdwSc = s.rdwSc := rfl
@[simp] theorem State.modHal_dmb (s : State) (f : Hal → Hal) : (s.modHal f).dmb = s.dmb := rfl
@[simp] theorem State.modHal_cas (s : State) (f : Hal → Hal) : (s.modHal f).cas = s.cas := rfl
@[simp] theorem State.modHal_dict (s : State) (f : Hal → Hal) : (s.modHal f).dict = s.dict := rfl
@[simp] theorem State.modHal_log (s : State) (f : Hal → Hal) : (s.modHal f).log = s.log := rfl
@[simp] theorem State.modHal_lc (s : State) (f : Hal → Hal) : (s.modHal f).lc = s.lc := rfl
@[simp] theorem State.modHal_mon (s : State) (f : Hal → Hal) : (s.modHal f).mon = s.mon := rfl
@[simp] theorem State.modHal_atn (s : State) (f : Hal → Hal) : (s.modHal f).atn = s.atn := rfl
@[simp] theorem State.modHal_pending (s : State) (f : Hal → Hal) : (s.modHal f).pending = s.pending := rfl
@[simp] theorem State.modHal_out (s : State) (f : Hal → Hal) : (s.modHal f).out = s.out := rfl
@[simp] theorem State.modPorts_core (s : State) (f : List Port → List Port) : (s.modPorts f).core = s.core := rfl
@[simp] theorem State.modPorts_pwr (s : State) (f : List Port → List Port) : (s.modPorts f).pwr = s.pwr := rfl
@[simp] theorem State.modPorts_sup (s : State) (f : List Port → List Port) : (s.modPorts f).sup = s.sup := rfl
@[simp] theorem State.modPorts_fuse (s : State) (f : List Port → List Port) : (s.modPorts f).fuse = s.fuse := rfl
@[simp] theorem State.modPorts_boot (s : State) (f : List Port → List Port) : (s.modPorts f).boot = s.boot := rfl
@[simp] theorem State.modPorts_hal (s : State) (f : List Port → List Port) : (s.modPorts f).hal = s.hal := rfl
@[simp] theorem State.modPorts_ports (s : State) (f : List Port → List Port) : (s.modPorts f).ports = f s.ports := rfl
@[simp] theorem State.modPorts_shed (s : State) (f : List Port → List Port) : (s.modPorts f).shed = s.shed := rfl
@[simp] theorem State.modPorts_tagTable (s : State) (f : List Port → List Port) : (s.modPorts f).tagTable = s.tagTable := rfl
@[simp] theorem State.modPorts_shedLost (s : State) (f : List Port → List Port) : (s.modPorts f).shedLost = s.shedLost := rfl
@[simp] theorem State.modPorts_pldm (s : State) (f : List Port → List Port) : (s.modPorts f).pldm = s.pldm := rfl
@[simp] theorem State.modPorts_par (s : State) (f : List Port → List Port) : (s.modPorts f).par = s.par := rfl
@[simp] theorem State.modPorts_tack (s : State) (f : List Port → List Port) : (s.modPorts f).tack = s.tack := rfl
@[simp] theorem State.modPorts_yard (s : State) (f : List Port → List Port) : (s.modPorts f).yard = s.yard := rfl
@[simp] theorem State.modPorts_jobs (s : State) (f : List Port → List Port) : (s.modPorts f).jobs = s.jobs := rfl
@[simp] theorem State.modPorts_devJobs (s : State) (f : List Port → List Port) : (s.modPorts f).devJobs = s.devJobs := rfl
@[simp] theorem State.modPorts_nextJob (s : State) (f : List Port → List Port) : (s.modPorts f).nextJob = s.nextJob := rfl
@[simp] theorem State.modPorts_pads (s : State) (f : List Port → List Port) : (s.modPorts f).pads = s.pads := rfl
@[simp] theorem State.modPorts_pmem (s : State) (f : List Port → List Port) : (s.modPorts f).pmem = s.pmem := rfl
@[simp] theorem State.modPorts_pci (s : State) (f : List Port → List Port) : (s.modPorts f).pci = s.pci := rfl
@[simp] theorem State.modPorts_rdw (s : State) (f : List Port → List Port) : (s.modPorts f).rdw = s.rdw := rfl
@[simp] theorem State.modPorts_rdwSc (s : State) (f : List Port → List Port) : (s.modPorts f).rdwSc = s.rdwSc := rfl
@[simp] theorem State.modPorts_dmb (s : State) (f : List Port → List Port) : (s.modPorts f).dmb = s.dmb := rfl
@[simp] theorem State.modPorts_cas (s : State) (f : List Port → List Port) : (s.modPorts f).cas = s.cas := rfl
@[simp] theorem State.modPorts_dict (s : State) (f : List Port → List Port) : (s.modPorts f).dict = s.dict := rfl
@[simp] theorem State.modPorts_log (s : State) (f : List Port → List Port) : (s.modPorts f).log = s.log := rfl
@[simp] theorem State.modPorts_lc (s : State) (f : List Port → List Port) : (s.modPorts f).lc = s.lc := rfl
@[simp] theorem State.modPorts_mon (s : State) (f : List Port → List Port) : (s.modPorts f).mon = s.mon := rfl
@[simp] theorem State.modPorts_atn (s : State) (f : List Port → List Port) : (s.modPorts f).atn = s.atn := rfl
@[simp] theorem State.modPorts_pending (s : State) (f : List Port → List Port) : (s.modPorts f).pending = s.pending := rfl
@[simp] theorem State.modPorts_out (s : State) (f : List Port → List Port) : (s.modPorts f).out = s.out := rfl
@[simp] theorem State.modShed_core (s : State) (f : List Host.Cell → List Host.Cell) : (s.modShed f).core = s.core := rfl
@[simp] theorem State.modShed_pwr (s : State) (f : List Host.Cell → List Host.Cell) : (s.modShed f).pwr = s.pwr := rfl
@[simp] theorem State.modShed_sup (s : State) (f : List Host.Cell → List Host.Cell) : (s.modShed f).sup = s.sup := rfl
@[simp] theorem State.modShed_fuse (s : State) (f : List Host.Cell → List Host.Cell) : (s.modShed f).fuse = s.fuse := rfl
@[simp] theorem State.modShed_boot (s : State) (f : List Host.Cell → List Host.Cell) : (s.modShed f).boot = s.boot := rfl
@[simp] theorem State.modShed_hal (s : State) (f : List Host.Cell → List Host.Cell) : (s.modShed f).hal = s.hal := rfl
@[simp] theorem State.modShed_ports (s : State) (f : List Host.Cell → List Host.Cell) : (s.modShed f).ports = s.ports := rfl
@[simp] theorem State.modShed_shed (s : State) (f : List Host.Cell → List Host.Cell) : (s.modShed f).shed = f s.shed := rfl
@[simp] theorem State.modShed_tagTable (s : State) (f : List Host.Cell → List Host.Cell) : (s.modShed f).tagTable = s.tagTable := rfl
@[simp] theorem State.modShed_shedLost (s : State) (f : List Host.Cell → List Host.Cell) : (s.modShed f).shedLost = s.shedLost := rfl
@[simp] theorem State.modShed_pldm (s : State) (f : List Host.Cell → List Host.Cell) : (s.modShed f).pldm = s.pldm := rfl
@[simp] theorem State.modShed_par (s : State) (f : List Host.Cell → List Host.Cell) : (s.modShed f).par = s.par := rfl
@[simp] theorem State.modShed_tack (s : State) (f : List Host.Cell → List Host.Cell) : (s.modShed f).tack = s.tack := rfl
@[simp] theorem State.modShed_yard (s : State) (f : List Host.Cell → List Host.Cell) : (s.modShed f).yard = s.yard := rfl
@[simp] theorem State.modShed_jobs (s : State) (f : List Host.Cell → List Host.Cell) : (s.modShed f).jobs = s.jobs := rfl
@[simp] theorem State.modShed_devJobs (s : State) (f : List Host.Cell → List Host.Cell) : (s.modShed f).devJobs = s.devJobs := rfl
@[simp] theorem State.modShed_nextJob (s : State) (f : List Host.Cell → List Host.Cell) : (s.modShed f).nextJob = s.nextJob := rfl
@[simp] theorem State.modShed_pads (s : State) (f : List Host.Cell → List Host.Cell) : (s.modShed f).pads = s.pads := rfl
@[simp] theorem State.modShed_pmem (s : State) (f : List Host.Cell → List Host.Cell) : (s.modShed f).pmem = s.pmem := rfl
@[simp] theorem State.modShed_pci (s : State) (f : List Host.Cell → List Host.Cell) : (s.modShed f).pci = s.pci := rfl
@[simp] theorem State.modShed_rdw (s : State) (f : List Host.Cell → List Host.Cell) : (s.modShed f).rdw = s.rdw := rfl
@[simp] theorem State.modShed_rdwSc (s : State) (f : List Host.Cell → List Host.Cell) : (s.modShed f).rdwSc = s.rdwSc := rfl
@[simp] theorem State.modShed_dmb (s : State) (f : List Host.Cell → List Host.Cell) : (s.modShed f).dmb = s.dmb := rfl
@[simp] theorem State.modShed_cas (s : State) (f : List Host.Cell → List Host.Cell) : (s.modShed f).cas = s.cas := rfl
@[simp] theorem State.modShed_dict (s : State) (f : List Host.Cell → List Host.Cell) : (s.modShed f).dict = s.dict := rfl
@[simp] theorem State.modShed_log (s : State) (f : List Host.Cell → List Host.Cell) : (s.modShed f).log = s.log := rfl
@[simp] theorem State.modShed_lc (s : State) (f : List Host.Cell → List Host.Cell) : (s.modShed f).lc = s.lc := rfl
@[simp] theorem State.modShed_mon (s : State) (f : List Host.Cell → List Host.Cell) : (s.modShed f).mon = s.mon := rfl
@[simp] theorem State.modShed_atn (s : State) (f : List Host.Cell → List Host.Cell) : (s.modShed f).atn = s.atn := rfl
@[simp] theorem State.modShed_pending (s : State) (f : List Host.Cell → List Host.Cell) : (s.modShed f).pending = s.pending := rfl
@[simp] theorem State.modShed_out (s : State) (f : List Host.Cell → List Host.Cell) : (s.modShed f).out = s.out := rfl
@[simp] theorem State.modTagTable_core (s : State) (f : List (Nat × Bytes) → List (Nat × Bytes)) : (s.modTagTable f).core = s.core := rfl
@[simp] theorem State.modTagTable_pwr (s : State) (f : List (Nat × Bytes) → List (Nat × Bytes)) : (s.modTagTable f).pwr = s.pwr := rfl
@[simp] theorem State.modTagTable_sup (s : State) (f : List (Nat × Bytes) → List (Nat × Bytes)) : (s.modTagTable f).sup = s.sup := rfl
@[simp] theorem State.modTagTable_fuse (s : State) (f : List (Nat × Bytes) → List (Nat × Bytes)) : (s.modTagTable f).fuse = s.fuse := rfl
@[simp] theorem State.modTagTable_boot (s : State) (f : List (Nat × Bytes) → List (Nat × Bytes)) : (s.modTagTable f).boot = s.boot := rfl
@[simp] theorem State.modTagTable_hal (s : State) (f : List (Nat × Bytes) → List (Nat × Bytes)) : (s.modTagTable f).hal = s.hal := rfl
@[simp] theorem State.modTagTable_ports (s : State) (f : List (Nat × Bytes) → List (Nat × Bytes)) : (s.modTagTable f).ports = s.ports := rfl
@[simp] theorem State.modTagTable_shed (s : State) (f : List (Nat × Bytes) → List (Nat × Bytes)) : (s.modTagTable f).shed = s.shed := rfl
@[simp] theorem State.modTagTable_tagTable (s : State) (f : List (Nat × Bytes) → List (Nat × Bytes)) : (s.modTagTable f).tagTable = f s.tagTable := rfl
@[simp] theorem State.modTagTable_shedLost (s : State) (f : List (Nat × Bytes) → List (Nat × Bytes)) : (s.modTagTable f).shedLost = s.shedLost := rfl
@[simp] theorem State.modTagTable_pldm (s : State) (f : List (Nat × Bytes) → List (Nat × Bytes)) : (s.modTagTable f).pldm = s.pldm := rfl
@[simp] theorem State.modTagTable_par (s : State) (f : List (Nat × Bytes) → List (Nat × Bytes)) : (s.modTagTable f).par = s.par := rfl
@[simp] theorem State.modTagTable_tack (s : State) (f : List (Nat × Bytes) → List (Nat × Bytes)) : (s.modTagTable f).tack = s.tack := rfl
@[simp] theorem State.modTagTable_yard (s : State) (f : List (Nat × Bytes) → List (Nat × Bytes)) : (s.modTagTable f).yard = s.yard := rfl
@[simp] theorem State.modTagTable_jobs (s : State) (f : List (Nat × Bytes) → List (Nat × Bytes)) : (s.modTagTable f).jobs = s.jobs := rfl
@[simp] theorem State.modTagTable_devJobs (s : State) (f : List (Nat × Bytes) → List (Nat × Bytes)) : (s.modTagTable f).devJobs = s.devJobs := rfl
@[simp] theorem State.modTagTable_nextJob (s : State) (f : List (Nat × Bytes) → List (Nat × Bytes)) : (s.modTagTable f).nextJob = s.nextJob := rfl
@[simp] theorem State.modTagTable_pads (s : State) (f : List (Nat × Bytes) → List (Nat × Bytes)) : (s.modTagTable f).pads = s.pads := rfl
@[simp] theorem State.modTagTable_pmem (s : State) (f : List (Nat × Bytes) → List (Nat × Bytes)) : (s.modTagTable f).pmem = s.pmem := rfl
@[simp] theorem State.modTagTable_pci (s : State) (f : List (Nat × Bytes) → List (Nat × Bytes)) : (s.modTagTable f).pci = s.pci := rfl
@[simp] theorem State.modTagTable_rdw (s : State) (f : List (Nat × Bytes) → List (Nat × Bytes)) : (s.modTagTable f).rdw = s.rdw := rfl
@[simp] theorem State.modTagTable_rdwSc (s : State) (f : List (Nat × Bytes) → List (Nat × Bytes)) : (s.modTagTable f).rdwSc = s.rdwSc := rfl
@[simp] theorem State.modTagTable_dmb (s : State) (f : List (Nat × Bytes) → List (Nat × Bytes)) : (s.modTagTable f).dmb = s.dmb := rfl
@[simp] theorem State.modTagTable_cas (s : State) (f : List (Nat × Bytes) → List (Nat × Bytes)) : (s.modTagTable f).cas = s.cas := rfl
@[simp] theorem State.modTagTable_dict (s : State) (f : List (Nat × Bytes) → List (Nat × Bytes)) : (s.modTagTable f).dict = s.dict := rfl
@[simp] theorem State.modTagTable_log (s : State) (f : List (Nat × Bytes) → List (Nat × Bytes)) : (s.modTagTable f).log = s.log := rfl
@[simp] theorem State.modTagTable_lc (s : State) (f : List (Nat × Bytes) → List (Nat × Bytes)) : (s.modTagTable f).lc = s.lc := rfl
@[simp] theorem State.modTagTable_mon (s : State) (f : List (Nat × Bytes) → List (Nat × Bytes)) : (s.modTagTable f).mon = s.mon := rfl
@[simp] theorem State.modTagTable_atn (s : State) (f : List (Nat × Bytes) → List (Nat × Bytes)) : (s.modTagTable f).atn = s.atn := rfl
@[simp] theorem State.modTagTable_pending (s : State) (f : List (Nat × Bytes) → List (Nat × Bytes)) : (s.modTagTable f).pending = s.pending := rfl
@[simp] theorem State.modTagTable_out (s : State) (f : List (Nat × Bytes) → List (Nat × Bytes)) : (s.modTagTable f).out = s.out := rfl
@[simp] theorem State.modShedLost_core (s : State) (f : Bool → Bool) : (s.modShedLost f).core = s.core := rfl
@[simp] theorem State.modShedLost_pwr (s : State) (f : Bool → Bool) : (s.modShedLost f).pwr = s.pwr := rfl
@[simp] theorem State.modShedLost_sup (s : State) (f : Bool → Bool) : (s.modShedLost f).sup = s.sup := rfl
@[simp] theorem State.modShedLost_fuse (s : State) (f : Bool → Bool) : (s.modShedLost f).fuse = s.fuse := rfl
@[simp] theorem State.modShedLost_boot (s : State) (f : Bool → Bool) : (s.modShedLost f).boot = s.boot := rfl
@[simp] theorem State.modShedLost_hal (s : State) (f : Bool → Bool) : (s.modShedLost f).hal = s.hal := rfl
@[simp] theorem State.modShedLost_ports (s : State) (f : Bool → Bool) : (s.modShedLost f).ports = s.ports := rfl
@[simp] theorem State.modShedLost_shed (s : State) (f : Bool → Bool) : (s.modShedLost f).shed = s.shed := rfl
@[simp] theorem State.modShedLost_tagTable (s : State) (f : Bool → Bool) : (s.modShedLost f).tagTable = s.tagTable := rfl
@[simp] theorem State.modShedLost_shedLost (s : State) (f : Bool → Bool) : (s.modShedLost f).shedLost = f s.shedLost := rfl
@[simp] theorem State.modShedLost_pldm (s : State) (f : Bool → Bool) : (s.modShedLost f).pldm = s.pldm := rfl
@[simp] theorem State.modShedLost_par (s : State) (f : Bool → Bool) : (s.modShedLost f).par = s.par := rfl
@[simp] theorem State.modShedLost_tack (s : State) (f : Bool → Bool) : (s.modShedLost f).tack = s.tack := rfl
@[simp] theorem State.modShedLost_yard (s : State) (f : Bool → Bool) : (s.modShedLost f).yard = s.yard := rfl
@[simp] theorem State.modShedLost_jobs (s : State) (f : Bool → Bool) : (s.modShedLost f).jobs = s.jobs := rfl
@[simp] theorem State.modShedLost_devJobs (s : State) (f : Bool → Bool) : (s.modShedLost f).devJobs = s.devJobs := rfl
@[simp] theorem State.modShedLost_nextJob (s : State) (f : Bool → Bool) : (s.modShedLost f).nextJob = s.nextJob := rfl
@[simp] theorem State.modShedLost_pads (s : State) (f : Bool → Bool) : (s.modShedLost f).pads = s.pads := rfl
@[simp] theorem State.modShedLost_pmem (s : State) (f : Bool → Bool) : (s.modShedLost f).pmem = s.pmem := rfl
@[simp] theorem State.modShedLost_pci (s : State) (f : Bool → Bool) : (s.modShedLost f).pci = s.pci := rfl
@[simp] theorem State.modShedLost_rdw (s : State) (f : Bool → Bool) : (s.modShedLost f).rdw = s.rdw := rfl
@[simp] theorem State.modShedLost_rdwSc (s : State) (f : Bool → Bool) : (s.modShedLost f).rdwSc = s.rdwSc := rfl
@[simp] theorem State.modShedLost_dmb (s : State) (f : Bool → Bool) : (s.modShedLost f).dmb = s.dmb := rfl
@[simp] theorem State.modShedLost_cas (s : State) (f : Bool → Bool) : (s.modShedLost f).cas = s.cas := rfl
@[simp] theorem State.modShedLost_dict (s : State) (f : Bool → Bool) : (s.modShedLost f).dict = s.dict := rfl
@[simp] theorem State.modShedLost_log (s : State) (f : Bool → Bool) : (s.modShedLost f).log = s.log := rfl
@[simp] theorem State.modShedLost_lc (s : State) (f : Bool → Bool) : (s.modShedLost f).lc = s.lc := rfl
@[simp] theorem State.modShedLost_mon (s : State) (f : Bool → Bool) : (s.modShedLost f).mon = s.mon := rfl
@[simp] theorem State.modShedLost_atn (s : State) (f : Bool → Bool) : (s.modShedLost f).atn = s.atn := rfl
@[simp] theorem State.modShedLost_pending (s : State) (f : Bool → Bool) : (s.modShedLost f).pending = s.pending := rfl
@[simp] theorem State.modShedLost_out (s : State) (f : Bool → Bool) : (s.modShedLost f).out = s.out := rfl
@[simp] theorem State.modPldm_core (s : State) (f : Pldm → Pldm) : (s.modPldm f).core = s.core := rfl
@[simp] theorem State.modPldm_pwr (s : State) (f : Pldm → Pldm) : (s.modPldm f).pwr = s.pwr := rfl
@[simp] theorem State.modPldm_sup (s : State) (f : Pldm → Pldm) : (s.modPldm f).sup = s.sup := rfl
@[simp] theorem State.modPldm_fuse (s : State) (f : Pldm → Pldm) : (s.modPldm f).fuse = s.fuse := rfl
@[simp] theorem State.modPldm_boot (s : State) (f : Pldm → Pldm) : (s.modPldm f).boot = s.boot := rfl
@[simp] theorem State.modPldm_hal (s : State) (f : Pldm → Pldm) : (s.modPldm f).hal = s.hal := rfl
@[simp] theorem State.modPldm_ports (s : State) (f : Pldm → Pldm) : (s.modPldm f).ports = s.ports := rfl
@[simp] theorem State.modPldm_shed (s : State) (f : Pldm → Pldm) : (s.modPldm f).shed = s.shed := rfl
@[simp] theorem State.modPldm_tagTable (s : State) (f : Pldm → Pldm) : (s.modPldm f).tagTable = s.tagTable := rfl
@[simp] theorem State.modPldm_shedLost (s : State) (f : Pldm → Pldm) : (s.modPldm f).shedLost = s.shedLost := rfl
@[simp] theorem State.modPldm_pldm (s : State) (f : Pldm → Pldm) : (s.modPldm f).pldm = f s.pldm := rfl
@[simp] theorem State.modPldm_par (s : State) (f : Pldm → Pldm) : (s.modPldm f).par = s.par := rfl
@[simp] theorem State.modPldm_tack (s : State) (f : Pldm → Pldm) : (s.modPldm f).tack = s.tack := rfl
@[simp] theorem State.modPldm_yard (s : State) (f : Pldm → Pldm) : (s.modPldm f).yard = s.yard := rfl
@[simp] theorem State.modPldm_jobs (s : State) (f : Pldm → Pldm) : (s.modPldm f).jobs = s.jobs := rfl
@[simp] theorem State.modPldm_devJobs (s : State) (f : Pldm → Pldm) : (s.modPldm f).devJobs = s.devJobs := rfl
@[simp] theorem State.modPldm_nextJob (s : State) (f : Pldm → Pldm) : (s.modPldm f).nextJob = s.nextJob := rfl
@[simp] theorem State.modPldm_pads (s : State) (f : Pldm → Pldm) : (s.modPldm f).pads = s.pads := rfl
@[simp] theorem State.modPldm_pmem (s : State) (f : Pldm → Pldm) : (s.modPldm f).pmem = s.pmem := rfl
@[simp] theorem State.modPldm_pci (s : State) (f : Pldm → Pldm) : (s.modPldm f).pci = s.pci := rfl
@[simp] theorem State.modPldm_rdw (s : State) (f : Pldm → Pldm) : (s.modPldm f).rdw = s.rdw := rfl
@[simp] theorem State.modPldm_rdwSc (s : State) (f : Pldm → Pldm) : (s.modPldm f).rdwSc = s.rdwSc := rfl
@[simp] theorem State.modPldm_dmb (s : State) (f : Pldm → Pldm) : (s.modPldm f).dmb = s.dmb := rfl
@[simp] theorem State.modPldm_cas (s : State) (f : Pldm → Pldm) : (s.modPldm f).cas = s.cas := rfl
@[simp] theorem State.modPldm_dict (s : State) (f : Pldm → Pldm) : (s.modPldm f).dict = s.dict := rfl
@[simp] theorem State.modPldm_log (s : State) (f : Pldm → Pldm) : (s.modPldm f).log = s.log := rfl
@[simp] theorem State.modPldm_lc (s : State) (f : Pldm → Pldm) : (s.modPldm f).lc = s.lc := rfl
@[simp] theorem State.modPldm_mon (s : State) (f : Pldm → Pldm) : (s.modPldm f).mon = s.mon := rfl
@[simp] theorem State.modPldm_atn (s : State) (f : Pldm → Pldm) : (s.modPldm f).atn = s.atn := rfl
@[simp] theorem State.modPldm_pending (s : State) (f : Pldm → Pldm) : (s.modPldm f).pending = s.pending := rfl
@[simp] theorem State.modPldm_out (s : State) (f : Pldm → Pldm) : (s.modPldm f).out = s.out := rfl
@[simp] theorem State.modPar_core (s : State) (f : Par → Par) : (s.modPar f).core = s.core := rfl
@[simp] theorem State.modPar_pwr (s : State) (f : Par → Par) : (s.modPar f).pwr = s.pwr := rfl
@[simp] theorem State.modPar_sup (s : State) (f : Par → Par) : (s.modPar f).sup = s.sup := rfl
@[simp] theorem State.modPar_fuse (s : State) (f : Par → Par) : (s.modPar f).fuse = s.fuse := rfl
@[simp] theorem State.modPar_boot (s : State) (f : Par → Par) : (s.modPar f).boot = s.boot := rfl
@[simp] theorem State.modPar_hal (s : State) (f : Par → Par) : (s.modPar f).hal = s.hal := rfl
@[simp] theorem State.modPar_ports (s : State) (f : Par → Par) : (s.modPar f).ports = s.ports := rfl
@[simp] theorem State.modPar_shed (s : State) (f : Par → Par) : (s.modPar f).shed = s.shed := rfl
@[simp] theorem State.modPar_tagTable (s : State) (f : Par → Par) : (s.modPar f).tagTable = s.tagTable := rfl
@[simp] theorem State.modPar_shedLost (s : State) (f : Par → Par) : (s.modPar f).shedLost = s.shedLost := rfl
@[simp] theorem State.modPar_pldm (s : State) (f : Par → Par) : (s.modPar f).pldm = s.pldm := rfl
@[simp] theorem State.modPar_par (s : State) (f : Par → Par) : (s.modPar f).par = f s.par := rfl
@[simp] theorem State.modPar_tack (s : State) (f : Par → Par) : (s.modPar f).tack = s.tack := rfl
@[simp] theorem State.modPar_yard (s : State) (f : Par → Par) : (s.modPar f).yard = s.yard := rfl
@[simp] theorem State.modPar_jobs (s : State) (f : Par → Par) : (s.modPar f).jobs = s.jobs := rfl
@[simp] theorem State.modPar_devJobs (s : State) (f : Par → Par) : (s.modPar f).devJobs = s.devJobs := rfl
@[simp] theorem State.modPar_nextJob (s : State) (f : Par → Par) : (s.modPar f).nextJob = s.nextJob := rfl
@[simp] theorem State.modPar_pads (s : State) (f : Par → Par) : (s.modPar f).pads = s.pads := rfl
@[simp] theorem State.modPar_pmem (s : State) (f : Par → Par) : (s.modPar f).pmem = s.pmem := rfl
@[simp] theorem State.modPar_pci (s : State) (f : Par → Par) : (s.modPar f).pci = s.pci := rfl
@[simp] theorem State.modPar_rdw (s : State) (f : Par → Par) : (s.modPar f).rdw = s.rdw := rfl
@[simp] theorem State.modPar_rdwSc (s : State) (f : Par → Par) : (s.modPar f).rdwSc = s.rdwSc := rfl
@[simp] theorem State.modPar_dmb (s : State) (f : Par → Par) : (s.modPar f).dmb = s.dmb := rfl
@[simp] theorem State.modPar_cas (s : State) (f : Par → Par) : (s.modPar f).cas = s.cas := rfl
@[simp] theorem State.modPar_dict (s : State) (f : Par → Par) : (s.modPar f).dict = s.dict := rfl
@[simp] theorem State.modPar_log (s : State) (f : Par → Par) : (s.modPar f).log = s.log := rfl
@[simp] theorem State.modPar_lc (s : State) (f : Par → Par) : (s.modPar f).lc = s.lc := rfl
@[simp] theorem State.modPar_mon (s : State) (f : Par → Par) : (s.modPar f).mon = s.mon := rfl
@[simp] theorem State.modPar_atn (s : State) (f : Par → Par) : (s.modPar f).atn = s.atn := rfl
@[simp] theorem State.modPar_pending (s : State) (f : Par → Par) : (s.modPar f).pending = s.pending := rfl
@[simp] theorem State.modPar_out (s : State) (f : Par → Par) : (s.modPar f).out = s.out := rfl
@[simp] theorem State.modTack_core (s : State) (f : Tack → Tack) : (s.modTack f).core = s.core := rfl
@[simp] theorem State.modTack_pwr (s : State) (f : Tack → Tack) : (s.modTack f).pwr = s.pwr := rfl
@[simp] theorem State.modTack_sup (s : State) (f : Tack → Tack) : (s.modTack f).sup = s.sup := rfl
@[simp] theorem State.modTack_fuse (s : State) (f : Tack → Tack) : (s.modTack f).fuse = s.fuse := rfl
@[simp] theorem State.modTack_boot (s : State) (f : Tack → Tack) : (s.modTack f).boot = s.boot := rfl
@[simp] theorem State.modTack_hal (s : State) (f : Tack → Tack) : (s.modTack f).hal = s.hal := rfl
@[simp] theorem State.modTack_ports (s : State) (f : Tack → Tack) : (s.modTack f).ports = s.ports := rfl
@[simp] theorem State.modTack_shed (s : State) (f : Tack → Tack) : (s.modTack f).shed = s.shed := rfl
@[simp] theorem State.modTack_tagTable (s : State) (f : Tack → Tack) : (s.modTack f).tagTable = s.tagTable := rfl
@[simp] theorem State.modTack_shedLost (s : State) (f : Tack → Tack) : (s.modTack f).shedLost = s.shedLost := rfl
@[simp] theorem State.modTack_pldm (s : State) (f : Tack → Tack) : (s.modTack f).pldm = s.pldm := rfl
@[simp] theorem State.modTack_par (s : State) (f : Tack → Tack) : (s.modTack f).par = s.par := rfl
@[simp] theorem State.modTack_tack (s : State) (f : Tack → Tack) : (s.modTack f).tack = f s.tack := rfl
@[simp] theorem State.modTack_yard (s : State) (f : Tack → Tack) : (s.modTack f).yard = s.yard := rfl
@[simp] theorem State.modTack_jobs (s : State) (f : Tack → Tack) : (s.modTack f).jobs = s.jobs := rfl
@[simp] theorem State.modTack_devJobs (s : State) (f : Tack → Tack) : (s.modTack f).devJobs = s.devJobs := rfl
@[simp] theorem State.modTack_nextJob (s : State) (f : Tack → Tack) : (s.modTack f).nextJob = s.nextJob := rfl
@[simp] theorem State.modTack_pads (s : State) (f : Tack → Tack) : (s.modTack f).pads = s.pads := rfl
@[simp] theorem State.modTack_pmem (s : State) (f : Tack → Tack) : (s.modTack f).pmem = s.pmem := rfl
@[simp] theorem State.modTack_pci (s : State) (f : Tack → Tack) : (s.modTack f).pci = s.pci := rfl
@[simp] theorem State.modTack_rdw (s : State) (f : Tack → Tack) : (s.modTack f).rdw = s.rdw := rfl
@[simp] theorem State.modTack_rdwSc (s : State) (f : Tack → Tack) : (s.modTack f).rdwSc = s.rdwSc := rfl
@[simp] theorem State.modTack_dmb (s : State) (f : Tack → Tack) : (s.modTack f).dmb = s.dmb := rfl
@[simp] theorem State.modTack_cas (s : State) (f : Tack → Tack) : (s.modTack f).cas = s.cas := rfl
@[simp] theorem State.modTack_dict (s : State) (f : Tack → Tack) : (s.modTack f).dict = s.dict := rfl
@[simp] theorem State.modTack_log (s : State) (f : Tack → Tack) : (s.modTack f).log = s.log := rfl
@[simp] theorem State.modTack_lc (s : State) (f : Tack → Tack) : (s.modTack f).lc = s.lc := rfl
@[simp] theorem State.modTack_mon (s : State) (f : Tack → Tack) : (s.modTack f).mon = s.mon := rfl
@[simp] theorem State.modTack_atn (s : State) (f : Tack → Tack) : (s.modTack f).atn = s.atn := rfl
@[simp] theorem State.modTack_pending (s : State) (f : Tack → Tack) : (s.modTack f).pending = s.pending := rfl
@[simp] theorem State.modTack_out (s : State) (f : Tack → Tack) : (s.modTack f).out = s.out := rfl
@[simp] theorem State.modYard_core (s : State) (f : Yard → Yard) : (s.modYard f).core = s.core := rfl
@[simp] theorem State.modYard_pwr (s : State) (f : Yard → Yard) : (s.modYard f).pwr = s.pwr := rfl
@[simp] theorem State.modYard_sup (s : State) (f : Yard → Yard) : (s.modYard f).sup = s.sup := rfl
@[simp] theorem State.modYard_fuse (s : State) (f : Yard → Yard) : (s.modYard f).fuse = s.fuse := rfl
@[simp] theorem State.modYard_boot (s : State) (f : Yard → Yard) : (s.modYard f).boot = s.boot := rfl
@[simp] theorem State.modYard_hal (s : State) (f : Yard → Yard) : (s.modYard f).hal = s.hal := rfl
@[simp] theorem State.modYard_ports (s : State) (f : Yard → Yard) : (s.modYard f).ports = s.ports := rfl
@[simp] theorem State.modYard_shed (s : State) (f : Yard → Yard) : (s.modYard f).shed = s.shed := rfl
@[simp] theorem State.modYard_tagTable (s : State) (f : Yard → Yard) : (s.modYard f).tagTable = s.tagTable := rfl
@[simp] theorem State.modYard_shedLost (s : State) (f : Yard → Yard) : (s.modYard f).shedLost = s.shedLost := rfl
@[simp] theorem State.modYard_pldm (s : State) (f : Yard → Yard) : (s.modYard f).pldm = s.pldm := rfl
@[simp] theorem State.modYard_par (s : State) (f : Yard → Yard) : (s.modYard f).par = s.par := rfl
@[simp] theorem State.modYard_tack (s : State) (f : Yard → Yard) : (s.modYard f).tack = s.tack := rfl
@[simp] theorem State.modYard_yard (s : State) (f : Yard → Yard) : (s.modYard f).yard = f s.yard := rfl
@[simp] theorem State.modYard_jobs (s : State) (f : Yard → Yard) : (s.modYard f).jobs = s.jobs := rfl
@[simp] theorem State.modYard_devJobs (s : State) (f : Yard → Yard) : (s.modYard f).devJobs = s.devJobs := rfl
@[simp] theorem State.modYard_nextJob (s : State) (f : Yard → Yard) : (s.modYard f).nextJob = s.nextJob := rfl
@[simp] theorem State.modYard_pads (s : State) (f : Yard → Yard) : (s.modYard f).pads = s.pads := rfl
@[simp] theorem State.modYard_pmem (s : State) (f : Yard → Yard) : (s.modYard f).pmem = s.pmem := rfl
@[simp] theorem State.modYard_pci (s : State) (f : Yard → Yard) : (s.modYard f).pci = s.pci := rfl
@[simp] theorem State.modYard_rdw (s : State) (f : Yard → Yard) : (s.modYard f).rdw = s.rdw := rfl
@[simp] theorem State.modYard_rdwSc (s : State) (f : Yard → Yard) : (s.modYard f).rdwSc = s.rdwSc := rfl
@[simp] theorem State.modYard_dmb (s : State) (f : Yard → Yard) : (s.modYard f).dmb = s.dmb := rfl
@[simp] theorem State.modYard_cas (s : State) (f : Yard → Yard) : (s.modYard f).cas = s.cas := rfl
@[simp] theorem State.modYard_dict (s : State) (f : Yard → Yard) : (s.modYard f).dict = s.dict := rfl
@[simp] theorem State.modYard_log (s : State) (f : Yard → Yard) : (s.modYard f).log = s.log := rfl
@[simp] theorem State.modYard_lc (s : State) (f : Yard → Yard) : (s.modYard f).lc = s.lc := rfl
@[simp] theorem State.modYard_mon (s : State) (f : Yard → Yard) : (s.modYard f).mon = s.mon := rfl
@[simp] theorem State.modYard_atn (s : State) (f : Yard → Yard) : (s.modYard f).atn = s.atn := rfl
@[simp] theorem State.modYard_pending (s : State) (f : Yard → Yard) : (s.modYard f).pending = s.pending := rfl
@[simp] theorem State.modYard_out (s : State) (f : Yard → Yard) : (s.modYard f).out = s.out := rfl
@[simp] theorem State.modJobs_core (s : State) (f : List Job → List Job) : (s.modJobs f).core = s.core := rfl
@[simp] theorem State.modJobs_pwr (s : State) (f : List Job → List Job) : (s.modJobs f).pwr = s.pwr := rfl
@[simp] theorem State.modJobs_sup (s : State) (f : List Job → List Job) : (s.modJobs f).sup = s.sup := rfl
@[simp] theorem State.modJobs_fuse (s : State) (f : List Job → List Job) : (s.modJobs f).fuse = s.fuse := rfl
@[simp] theorem State.modJobs_boot (s : State) (f : List Job → List Job) : (s.modJobs f).boot = s.boot := rfl
@[simp] theorem State.modJobs_hal (s : State) (f : List Job → List Job) : (s.modJobs f).hal = s.hal := rfl
@[simp] theorem State.modJobs_ports (s : State) (f : List Job → List Job) : (s.modJobs f).ports = s.ports := rfl
@[simp] theorem State.modJobs_shed (s : State) (f : List Job → List Job) : (s.modJobs f).shed = s.shed := rfl
@[simp] theorem State.modJobs_tagTable (s : State) (f : List Job → List Job) : (s.modJobs f).tagTable = s.tagTable := rfl
@[simp] theorem State.modJobs_shedLost (s : State) (f : List Job → List Job) : (s.modJobs f).shedLost = s.shedLost := rfl
@[simp] theorem State.modJobs_pldm (s : State) (f : List Job → List Job) : (s.modJobs f).pldm = s.pldm := rfl
@[simp] theorem State.modJobs_par (s : State) (f : List Job → List Job) : (s.modJobs f).par = s.par := rfl
@[simp] theorem State.modJobs_tack (s : State) (f : List Job → List Job) : (s.modJobs f).tack = s.tack := rfl
@[simp] theorem State.modJobs_yard (s : State) (f : List Job → List Job) : (s.modJobs f).yard = s.yard := rfl
@[simp] theorem State.modJobs_jobs (s : State) (f : List Job → List Job) : (s.modJobs f).jobs = f s.jobs := rfl
@[simp] theorem State.modJobs_devJobs (s : State) (f : List Job → List Job) : (s.modJobs f).devJobs = s.devJobs := rfl
@[simp] theorem State.modJobs_nextJob (s : State) (f : List Job → List Job) : (s.modJobs f).nextJob = s.nextJob := rfl
@[simp] theorem State.modJobs_pads (s : State) (f : List Job → List Job) : (s.modJobs f).pads = s.pads := rfl
@[simp] theorem State.modJobs_pmem (s : State) (f : List Job → List Job) : (s.modJobs f).pmem = s.pmem := rfl
@[simp] theorem State.modJobs_pci (s : State) (f : List Job → List Job) : (s.modJobs f).pci = s.pci := rfl
@[simp] theorem State.modJobs_rdw (s : State) (f : List Job → List Job) : (s.modJobs f).rdw = s.rdw := rfl
@[simp] theorem State.modJobs_rdwSc (s : State) (f : List Job → List Job) : (s.modJobs f).rdwSc = s.rdwSc := rfl
@[simp] theorem State.modJobs_dmb (s : State) (f : List Job → List Job) : (s.modJobs f).dmb = s.dmb := rfl
@[simp] theorem State.modJobs_cas (s : State) (f : List Job → List Job) : (s.modJobs f).cas = s.cas := rfl
@[simp] theorem State.modJobs_dict (s : State) (f : List Job → List Job) : (s.modJobs f).dict = s.dict := rfl
@[simp] theorem State.modJobs_log (s : State) (f : List Job → List Job) : (s.modJobs f).log = s.log := rfl
@[simp] theorem State.modJobs_lc (s : State) (f : List Job → List Job) : (s.modJobs f).lc = s.lc := rfl
@[simp] theorem State.modJobs_mon (s : State) (f : List Job → List Job) : (s.modJobs f).mon = s.mon := rfl
@[simp] theorem State.modJobs_atn (s : State) (f : List Job → List Job) : (s.modJobs f).atn = s.atn := rfl
@[simp] theorem State.modJobs_pending (s : State) (f : List Job → List Job) : (s.modJobs f).pending = s.pending := rfl
@[simp] theorem State.modJobs_out (s : State) (f : List Job → List Job) : (s.modJobs f).out = s.out := rfl
@[simp] theorem State.modDevJobs_core (s : State) (f : List DevJob → List DevJob) : (s.modDevJobs f).core = s.core := rfl
@[simp] theorem State.modDevJobs_pwr (s : State) (f : List DevJob → List DevJob) : (s.modDevJobs f).pwr = s.pwr := rfl
@[simp] theorem State.modDevJobs_sup (s : State) (f : List DevJob → List DevJob) : (s.modDevJobs f).sup = s.sup := rfl
@[simp] theorem State.modDevJobs_fuse (s : State) (f : List DevJob → List DevJob) : (s.modDevJobs f).fuse = s.fuse := rfl
@[simp] theorem State.modDevJobs_boot (s : State) (f : List DevJob → List DevJob) : (s.modDevJobs f).boot = s.boot := rfl
@[simp] theorem State.modDevJobs_hal (s : State) (f : List DevJob → List DevJob) : (s.modDevJobs f).hal = s.hal := rfl
@[simp] theorem State.modDevJobs_ports (s : State) (f : List DevJob → List DevJob) : (s.modDevJobs f).ports = s.ports := rfl
@[simp] theorem State.modDevJobs_shed (s : State) (f : List DevJob → List DevJob) : (s.modDevJobs f).shed = s.shed := rfl
@[simp] theorem State.modDevJobs_tagTable (s : State) (f : List DevJob → List DevJob) : (s.modDevJobs f).tagTable = s.tagTable := rfl
@[simp] theorem State.modDevJobs_shedLost (s : State) (f : List DevJob → List DevJob) : (s.modDevJobs f).shedLost = s.shedLost := rfl
@[simp] theorem State.modDevJobs_pldm (s : State) (f : List DevJob → List DevJob) : (s.modDevJobs f).pldm = s.pldm := rfl
@[simp] theorem State.modDevJobs_par (s : State) (f : List DevJob → List DevJob) : (s.modDevJobs f).par = s.par := rfl
@[simp] theorem State.modDevJobs_tack (s : State) (f : List DevJob → List DevJob) : (s.modDevJobs f).tack = s.tack := rfl
@[simp] theorem State.modDevJobs_yard (s : State) (f : List DevJob → List DevJob) : (s.modDevJobs f).yard = s.yard := rfl
@[simp] theorem State.modDevJobs_jobs (s : State) (f : List DevJob → List DevJob) : (s.modDevJobs f).jobs = s.jobs := rfl
@[simp] theorem State.modDevJobs_devJobs (s : State) (f : List DevJob → List DevJob) : (s.modDevJobs f).devJobs = f s.devJobs := rfl
@[simp] theorem State.modDevJobs_nextJob (s : State) (f : List DevJob → List DevJob) : (s.modDevJobs f).nextJob = s.nextJob := rfl
@[simp] theorem State.modDevJobs_pads (s : State) (f : List DevJob → List DevJob) : (s.modDevJobs f).pads = s.pads := rfl
@[simp] theorem State.modDevJobs_pmem (s : State) (f : List DevJob → List DevJob) : (s.modDevJobs f).pmem = s.pmem := rfl
@[simp] theorem State.modDevJobs_pci (s : State) (f : List DevJob → List DevJob) : (s.modDevJobs f).pci = s.pci := rfl
@[simp] theorem State.modDevJobs_rdw (s : State) (f : List DevJob → List DevJob) : (s.modDevJobs f).rdw = s.rdw := rfl
@[simp] theorem State.modDevJobs_rdwSc (s : State) (f : List DevJob → List DevJob) : (s.modDevJobs f).rdwSc = s.rdwSc := rfl
@[simp] theorem State.modDevJobs_dmb (s : State) (f : List DevJob → List DevJob) : (s.modDevJobs f).dmb = s.dmb := rfl
@[simp] theorem State.modDevJobs_cas (s : State) (f : List DevJob → List DevJob) : (s.modDevJobs f).cas = s.cas := rfl
@[simp] theorem State.modDevJobs_dict (s : State) (f : List DevJob → List DevJob) : (s.modDevJobs f).dict = s.dict := rfl
@[simp] theorem State.modDevJobs_log (s : State) (f : List DevJob → List DevJob) : (s.modDevJobs f).log = s.log := rfl
@[simp] theorem State.modDevJobs_lc (s : State) (f : List DevJob → List DevJob) : (s.modDevJobs f).lc = s.lc := rfl
@[simp] theorem State.modDevJobs_mon (s : State) (f : List DevJob → List DevJob) : (s.modDevJobs f).mon = s.mon := rfl
@[simp] theorem State.modDevJobs_atn (s : State) (f : List DevJob → List DevJob) : (s.modDevJobs f).atn = s.atn := rfl
@[simp] theorem State.modDevJobs_pending (s : State) (f : List DevJob → List DevJob) : (s.modDevJobs f).pending = s.pending := rfl
@[simp] theorem State.modDevJobs_out (s : State) (f : List DevJob → List DevJob) : (s.modDevJobs f).out = s.out := rfl
@[simp] theorem State.modNextJob_core (s : State) (f : Nat → Nat) : (s.modNextJob f).core = s.core := rfl
@[simp] theorem State.modNextJob_pwr (s : State) (f : Nat → Nat) : (s.modNextJob f).pwr = s.pwr := rfl
@[simp] theorem State.modNextJob_sup (s : State) (f : Nat → Nat) : (s.modNextJob f).sup = s.sup := rfl
@[simp] theorem State.modNextJob_fuse (s : State) (f : Nat → Nat) : (s.modNextJob f).fuse = s.fuse := rfl
@[simp] theorem State.modNextJob_boot (s : State) (f : Nat → Nat) : (s.modNextJob f).boot = s.boot := rfl
@[simp] theorem State.modNextJob_hal (s : State) (f : Nat → Nat) : (s.modNextJob f).hal = s.hal := rfl
@[simp] theorem State.modNextJob_ports (s : State) (f : Nat → Nat) : (s.modNextJob f).ports = s.ports := rfl
@[simp] theorem State.modNextJob_shed (s : State) (f : Nat → Nat) : (s.modNextJob f).shed = s.shed := rfl
@[simp] theorem State.modNextJob_tagTable (s : State) (f : Nat → Nat) : (s.modNextJob f).tagTable = s.tagTable := rfl
@[simp] theorem State.modNextJob_shedLost (s : State) (f : Nat → Nat) : (s.modNextJob f).shedLost = s.shedLost := rfl
@[simp] theorem State.modNextJob_pldm (s : State) (f : Nat → Nat) : (s.modNextJob f).pldm = s.pldm := rfl
@[simp] theorem State.modNextJob_par (s : State) (f : Nat → Nat) : (s.modNextJob f).par = s.par := rfl
@[simp] theorem State.modNextJob_tack (s : State) (f : Nat → Nat) : (s.modNextJob f).tack = s.tack := rfl
@[simp] theorem State.modNextJob_yard (s : State) (f : Nat → Nat) : (s.modNextJob f).yard = s.yard := rfl
@[simp] theorem State.modNextJob_jobs (s : State) (f : Nat → Nat) : (s.modNextJob f).jobs = s.jobs := rfl
@[simp] theorem State.modNextJob_devJobs (s : State) (f : Nat → Nat) : (s.modNextJob f).devJobs = s.devJobs := rfl
@[simp] theorem State.modNextJob_nextJob (s : State) (f : Nat → Nat) : (s.modNextJob f).nextJob = f s.nextJob := rfl
@[simp] theorem State.modNextJob_pads (s : State) (f : Nat → Nat) : (s.modNextJob f).pads = s.pads := rfl
@[simp] theorem State.modNextJob_pmem (s : State) (f : Nat → Nat) : (s.modNextJob f).pmem = s.pmem := rfl
@[simp] theorem State.modNextJob_pci (s : State) (f : Nat → Nat) : (s.modNextJob f).pci = s.pci := rfl
@[simp] theorem State.modNextJob_rdw (s : State) (f : Nat → Nat) : (s.modNextJob f).rdw = s.rdw := rfl
@[simp] theorem State.modNextJob_rdwSc (s : State) (f : Nat → Nat) : (s.modNextJob f).rdwSc = s.rdwSc := rfl
@[simp] theorem State.modNextJob_dmb (s : State) (f : Nat → Nat) : (s.modNextJob f).dmb = s.dmb := rfl
@[simp] theorem State.modNextJob_cas (s : State) (f : Nat → Nat) : (s.modNextJob f).cas = s.cas := rfl
@[simp] theorem State.modNextJob_dict (s : State) (f : Nat → Nat) : (s.modNextJob f).dict = s.dict := rfl
@[simp] theorem State.modNextJob_log (s : State) (f : Nat → Nat) : (s.modNextJob f).log = s.log := rfl
@[simp] theorem State.modNextJob_lc (s : State) (f : Nat → Nat) : (s.modNextJob f).lc = s.lc := rfl
@[simp] theorem State.modNextJob_mon (s : State) (f : Nat → Nat) : (s.modNextJob f).mon = s.mon := rfl
@[simp] theorem State.modNextJob_atn (s : State) (f : Nat → Nat) : (s.modNextJob f).atn = s.atn := rfl
@[simp] theorem State.modNextJob_pending (s : State) (f : Nat → Nat) : (s.modNextJob f).pending = s.pending := rfl
@[simp] theorem State.modNextJob_out (s : State) (f : Nat → Nat) : (s.modNextJob f).out = s.out := rfl
@[simp] theorem State.modPads_core (s : State) (f : List Pad → List Pad) : (s.modPads f).core = s.core := rfl
@[simp] theorem State.modPads_pwr (s : State) (f : List Pad → List Pad) : (s.modPads f).pwr = s.pwr := rfl
@[simp] theorem State.modPads_sup (s : State) (f : List Pad → List Pad) : (s.modPads f).sup = s.sup := rfl
@[simp] theorem State.modPads_fuse (s : State) (f : List Pad → List Pad) : (s.modPads f).fuse = s.fuse := rfl
@[simp] theorem State.modPads_boot (s : State) (f : List Pad → List Pad) : (s.modPads f).boot = s.boot := rfl
@[simp] theorem State.modPads_hal (s : State) (f : List Pad → List Pad) : (s.modPads f).hal = s.hal := rfl
@[simp] theorem State.modPads_ports (s : State) (f : List Pad → List Pad) : (s.modPads f).ports = s.ports := rfl
@[simp] theorem State.modPads_shed (s : State) (f : List Pad → List Pad) : (s.modPads f).shed = s.shed := rfl
@[simp] theorem State.modPads_tagTable (s : State) (f : List Pad → List Pad) : (s.modPads f).tagTable = s.tagTable := rfl
@[simp] theorem State.modPads_shedLost (s : State) (f : List Pad → List Pad) : (s.modPads f).shedLost = s.shedLost := rfl
@[simp] theorem State.modPads_pldm (s : State) (f : List Pad → List Pad) : (s.modPads f).pldm = s.pldm := rfl
@[simp] theorem State.modPads_par (s : State) (f : List Pad → List Pad) : (s.modPads f).par = s.par := rfl
@[simp] theorem State.modPads_tack (s : State) (f : List Pad → List Pad) : (s.modPads f).tack = s.tack := rfl
@[simp] theorem State.modPads_yard (s : State) (f : List Pad → List Pad) : (s.modPads f).yard = s.yard := rfl
@[simp] theorem State.modPads_jobs (s : State) (f : List Pad → List Pad) : (s.modPads f).jobs = s.jobs := rfl
@[simp] theorem State.modPads_devJobs (s : State) (f : List Pad → List Pad) : (s.modPads f).devJobs = s.devJobs := rfl
@[simp] theorem State.modPads_nextJob (s : State) (f : List Pad → List Pad) : (s.modPads f).nextJob = s.nextJob := rfl
@[simp] theorem State.modPads_pads (s : State) (f : List Pad → List Pad) : (s.modPads f).pads = f s.pads := rfl
@[simp] theorem State.modPads_pmem (s : State) (f : List Pad → List Pad) : (s.modPads f).pmem = s.pmem := rfl
@[simp] theorem State.modPads_pci (s : State) (f : List Pad → List Pad) : (s.modPads f).pci = s.pci := rfl
@[simp] theorem State.modPads_rdw (s : State) (f : List Pad → List Pad) : (s.modPads f).rdw = s.rdw := rfl
@[simp] theorem State.modPads_rdwSc (s : State) (f : List Pad → List Pad) : (s.modPads f).rdwSc = s.rdwSc := rfl
@[simp] theorem State.modPads_dmb (s : State) (f : List Pad → List Pad) : (s.modPads f).dmb = s.dmb := rfl
@[simp] theorem State.modPads_cas (s : State) (f : List Pad → List Pad) : (s.modPads f).cas = s.cas := rfl
@[simp] theorem State.modPads_dict (s : State) (f : List Pad → List Pad) : (s.modPads f).dict = s.dict := rfl
@[simp] theorem State.modPads_log (s : State) (f : List Pad → List Pad) : (s.modPads f).log = s.log := rfl
@[simp] theorem State.modPads_lc (s : State) (f : List Pad → List Pad) : (s.modPads f).lc = s.lc := rfl
@[simp] theorem State.modPads_mon (s : State) (f : List Pad → List Pad) : (s.modPads f).mon = s.mon := rfl
@[simp] theorem State.modPads_atn (s : State) (f : List Pad → List Pad) : (s.modPads f).atn = s.atn := rfl
@[simp] theorem State.modPads_pending (s : State) (f : List Pad → List Pad) : (s.modPads f).pending = s.pending := rfl
@[simp] theorem State.modPads_out (s : State) (f : List Pad → List Pad) : (s.modPads f).out = s.out := rfl
@[simp] theorem State.modPmem_core (s : State) (f : Pmem → Pmem) : (s.modPmem f).core = s.core := rfl
@[simp] theorem State.modPmem_pwr (s : State) (f : Pmem → Pmem) : (s.modPmem f).pwr = s.pwr := rfl
@[simp] theorem State.modPmem_sup (s : State) (f : Pmem → Pmem) : (s.modPmem f).sup = s.sup := rfl
@[simp] theorem State.modPmem_fuse (s : State) (f : Pmem → Pmem) : (s.modPmem f).fuse = s.fuse := rfl
@[simp] theorem State.modPmem_boot (s : State) (f : Pmem → Pmem) : (s.modPmem f).boot = s.boot := rfl
@[simp] theorem State.modPmem_hal (s : State) (f : Pmem → Pmem) : (s.modPmem f).hal = s.hal := rfl
@[simp] theorem State.modPmem_ports (s : State) (f : Pmem → Pmem) : (s.modPmem f).ports = s.ports := rfl
@[simp] theorem State.modPmem_shed (s : State) (f : Pmem → Pmem) : (s.modPmem f).shed = s.shed := rfl
@[simp] theorem State.modPmem_tagTable (s : State) (f : Pmem → Pmem) : (s.modPmem f).tagTable = s.tagTable := rfl
@[simp] theorem State.modPmem_shedLost (s : State) (f : Pmem → Pmem) : (s.modPmem f).shedLost = s.shedLost := rfl
@[simp] theorem State.modPmem_pldm (s : State) (f : Pmem → Pmem) : (s.modPmem f).pldm = s.pldm := rfl
@[simp] theorem State.modPmem_par (s : State) (f : Pmem → Pmem) : (s.modPmem f).par = s.par := rfl
@[simp] theorem State.modPmem_tack (s : State) (f : Pmem → Pmem) : (s.modPmem f).tack = s.tack := rfl
@[simp] theorem State.modPmem_yard (s : State) (f : Pmem → Pmem) : (s.modPmem f).yard = s.yard := rfl
@[simp] theorem State.modPmem_jobs (s : State) (f : Pmem → Pmem) : (s.modPmem f).jobs = s.jobs := rfl
@[simp] theorem State.modPmem_devJobs (s : State) (f : Pmem → Pmem) : (s.modPmem f).devJobs = s.devJobs := rfl
@[simp] theorem State.modPmem_nextJob (s : State) (f : Pmem → Pmem) : (s.modPmem f).nextJob = s.nextJob := rfl
@[simp] theorem State.modPmem_pads (s : State) (f : Pmem → Pmem) : (s.modPmem f).pads = s.pads := rfl
@[simp] theorem State.modPmem_pmem (s : State) (f : Pmem → Pmem) : (s.modPmem f).pmem = f s.pmem := rfl
@[simp] theorem State.modPmem_pci (s : State) (f : Pmem → Pmem) : (s.modPmem f).pci = s.pci := rfl
@[simp] theorem State.modPmem_rdw (s : State) (f : Pmem → Pmem) : (s.modPmem f).rdw = s.rdw := rfl
@[simp] theorem State.modPmem_rdwSc (s : State) (f : Pmem → Pmem) : (s.modPmem f).rdwSc = s.rdwSc := rfl
@[simp] theorem State.modPmem_dmb (s : State) (f : Pmem → Pmem) : (s.modPmem f).dmb = s.dmb := rfl
@[simp] theorem State.modPmem_cas (s : State) (f : Pmem → Pmem) : (s.modPmem f).cas = s.cas := rfl
@[simp] theorem State.modPmem_dict (s : State) (f : Pmem → Pmem) : (s.modPmem f).dict = s.dict := rfl
@[simp] theorem State.modPmem_log (s : State) (f : Pmem → Pmem) : (s.modPmem f).log = s.log := rfl
@[simp] theorem State.modPmem_lc (s : State) (f : Pmem → Pmem) : (s.modPmem f).lc = s.lc := rfl
@[simp] theorem State.modPmem_mon (s : State) (f : Pmem → Pmem) : (s.modPmem f).mon = s.mon := rfl
@[simp] theorem State.modPmem_atn (s : State) (f : Pmem → Pmem) : (s.modPmem f).atn = s.atn := rfl
@[simp] theorem State.modPmem_pending (s : State) (f : Pmem → Pmem) : (s.modPmem f).pending = s.pending := rfl
@[simp] theorem State.modPmem_out (s : State) (f : Pmem → Pmem) : (s.modPmem f).out = s.out := rfl
@[simp] theorem State.modPci_core (s : State) (f : Pci → Pci) : (s.modPci f).core = s.core := rfl
@[simp] theorem State.modPci_pwr (s : State) (f : Pci → Pci) : (s.modPci f).pwr = s.pwr := rfl
@[simp] theorem State.modPci_sup (s : State) (f : Pci → Pci) : (s.modPci f).sup = s.sup := rfl
@[simp] theorem State.modPci_fuse (s : State) (f : Pci → Pci) : (s.modPci f).fuse = s.fuse := rfl
@[simp] theorem State.modPci_boot (s : State) (f : Pci → Pci) : (s.modPci f).boot = s.boot := rfl
@[simp] theorem State.modPci_hal (s : State) (f : Pci → Pci) : (s.modPci f).hal = s.hal := rfl
@[simp] theorem State.modPci_ports (s : State) (f : Pci → Pci) : (s.modPci f).ports = s.ports := rfl
@[simp] theorem State.modPci_shed (s : State) (f : Pci → Pci) : (s.modPci f).shed = s.shed := rfl
@[simp] theorem State.modPci_tagTable (s : State) (f : Pci → Pci) : (s.modPci f).tagTable = s.tagTable := rfl
@[simp] theorem State.modPci_shedLost (s : State) (f : Pci → Pci) : (s.modPci f).shedLost = s.shedLost := rfl
@[simp] theorem State.modPci_pldm (s : State) (f : Pci → Pci) : (s.modPci f).pldm = s.pldm := rfl
@[simp] theorem State.modPci_par (s : State) (f : Pci → Pci) : (s.modPci f).par = s.par := rfl
@[simp] theorem State.modPci_tack (s : State) (f : Pci → Pci) : (s.modPci f).tack = s.tack := rfl
@[simp] theorem State.modPci_yard (s : State) (f : Pci → Pci) : (s.modPci f).yard = s.yard := rfl
@[simp] theorem State.modPci_jobs (s : State) (f : Pci → Pci) : (s.modPci f).jobs = s.jobs := rfl
@[simp] theorem State.modPci_devJobs (s : State) (f : Pci → Pci) : (s.modPci f).devJobs = s.devJobs := rfl
@[simp] theorem State.modPci_nextJob (s : State) (f : Pci → Pci) : (s.modPci f).nextJob = s.nextJob := rfl
@[simp] theorem State.modPci_pads (s : State) (f : Pci → Pci) : (s.modPci f).pads = s.pads := rfl
@[simp] theorem State.modPci_pmem (s : State) (f : Pci → Pci) : (s.modPci f).pmem = s.pmem := rfl
@[simp] theorem State.modPci_pci (s : State) (f : Pci → Pci) : (s.modPci f).pci = f s.pci := rfl
@[simp] theorem State.modPci_rdw (s : State) (f : Pci → Pci) : (s.modPci f).rdw = s.rdw := rfl
@[simp] theorem State.modPci_rdwSc (s : State) (f : Pci → Pci) : (s.modPci f).rdwSc = s.rdwSc := rfl
@[simp] theorem State.modPci_dmb (s : State) (f : Pci → Pci) : (s.modPci f).dmb = s.dmb := rfl
@[simp] theorem State.modPci_cas (s : State) (f : Pci → Pci) : (s.modPci f).cas = s.cas := rfl
@[simp] theorem State.modPci_dict (s : State) (f : Pci → Pci) : (s.modPci f).dict = s.dict := rfl
@[simp] theorem State.modPci_log (s : State) (f : Pci → Pci) : (s.modPci f).log = s.log := rfl
@[simp] theorem State.modPci_lc (s : State) (f : Pci → Pci) : (s.modPci f).lc = s.lc := rfl
@[simp] theorem State.modPci_mon (s : State) (f : Pci → Pci) : (s.modPci f).mon = s.mon := rfl
@[simp] theorem State.modPci_atn (s : State) (f : Pci → Pci) : (s.modPci f).atn = s.atn := rfl
@[simp] theorem State.modPci_pending (s : State) (f : Pci → Pci) : (s.modPci f).pending = s.pending := rfl
@[simp] theorem State.modPci_out (s : State) (f : Pci → Pci) : (s.modPci f).out = s.out := rfl
@[simp] theorem State.modRdw_core (s : State) (f : Rdw → Rdw) : (s.modRdw f).core = s.core := rfl
@[simp] theorem State.modRdw_pwr (s : State) (f : Rdw → Rdw) : (s.modRdw f).pwr = s.pwr := rfl
@[simp] theorem State.modRdw_sup (s : State) (f : Rdw → Rdw) : (s.modRdw f).sup = s.sup := rfl
@[simp] theorem State.modRdw_fuse (s : State) (f : Rdw → Rdw) : (s.modRdw f).fuse = s.fuse := rfl
@[simp] theorem State.modRdw_boot (s : State) (f : Rdw → Rdw) : (s.modRdw f).boot = s.boot := rfl
@[simp] theorem State.modRdw_hal (s : State) (f : Rdw → Rdw) : (s.modRdw f).hal = s.hal := rfl
@[simp] theorem State.modRdw_ports (s : State) (f : Rdw → Rdw) : (s.modRdw f).ports = s.ports := rfl
@[simp] theorem State.modRdw_shed (s : State) (f : Rdw → Rdw) : (s.modRdw f).shed = s.shed := rfl
@[simp] theorem State.modRdw_tagTable (s : State) (f : Rdw → Rdw) : (s.modRdw f).tagTable = s.tagTable := rfl
@[simp] theorem State.modRdw_shedLost (s : State) (f : Rdw → Rdw) : (s.modRdw f).shedLost = s.shedLost := rfl
@[simp] theorem State.modRdw_pldm (s : State) (f : Rdw → Rdw) : (s.modRdw f).pldm = s.pldm := rfl
@[simp] theorem State.modRdw_par (s : State) (f : Rdw → Rdw) : (s.modRdw f).par = s.par := rfl
@[simp] theorem State.modRdw_tack (s : State) (f : Rdw → Rdw) : (s.modRdw f).tack = s.tack := rfl
@[simp] theorem State.modRdw_yard (s : State) (f : Rdw → Rdw) : (s.modRdw f).yard = s.yard := rfl
@[simp] theorem State.modRdw_jobs (s : State) (f : Rdw → Rdw) : (s.modRdw f).jobs = s.jobs := rfl
@[simp] theorem State.modRdw_devJobs (s : State) (f : Rdw → Rdw) : (s.modRdw f).devJobs = s.devJobs := rfl
@[simp] theorem State.modRdw_nextJob (s : State) (f : Rdw → Rdw) : (s.modRdw f).nextJob = s.nextJob := rfl
@[simp] theorem State.modRdw_pads (s : State) (f : Rdw → Rdw) : (s.modRdw f).pads = s.pads := rfl
@[simp] theorem State.modRdw_pmem (s : State) (f : Rdw → Rdw) : (s.modRdw f).pmem = s.pmem := rfl
@[simp] theorem State.modRdw_pci (s : State) (f : Rdw → Rdw) : (s.modRdw f).pci = s.pci := rfl
@[simp] theorem State.modRdw_rdw (s : State) (f : Rdw → Rdw) : (s.modRdw f).rdw = f s.rdw := rfl
@[simp] theorem State.modRdw_rdwSc (s : State) (f : Rdw → Rdw) : (s.modRdw f).rdwSc = s.rdwSc := rfl
@[simp] theorem State.modRdw_dmb (s : State) (f : Rdw → Rdw) : (s.modRdw f).dmb = s.dmb := rfl
@[simp] theorem State.modRdw_cas (s : State) (f : Rdw → Rdw) : (s.modRdw f).cas = s.cas := rfl
@[simp] theorem State.modRdw_dict (s : State) (f : Rdw → Rdw) : (s.modRdw f).dict = s.dict := rfl
@[simp] theorem State.modRdw_log (s : State) (f : Rdw → Rdw) : (s.modRdw f).log = s.log := rfl
@[simp] theorem State.modRdw_lc (s : State) (f : Rdw → Rdw) : (s.modRdw f).lc = s.lc := rfl
@[simp] theorem State.modRdw_mon (s : State) (f : Rdw → Rdw) : (s.modRdw f).mon = s.mon := rfl
@[simp] theorem State.modRdw_atn (s : State) (f : Rdw → Rdw) : (s.modRdw f).atn = s.atn := rfl
@[simp] theorem State.modRdw_pending (s : State) (f : Rdw → Rdw) : (s.modRdw f).pending = s.pending := rfl
@[simp] theorem State.modRdw_out (s : State) (f : Rdw → Rdw) : (s.modRdw f).out = s.out := rfl
@[simp] theorem State.modRdwSc_core (s : State) (f : Rdw → Rdw) : (s.modRdwSc f).core = s.core := rfl
@[simp] theorem State.modRdwSc_pwr (s : State) (f : Rdw → Rdw) : (s.modRdwSc f).pwr = s.pwr := rfl
@[simp] theorem State.modRdwSc_sup (s : State) (f : Rdw → Rdw) : (s.modRdwSc f).sup = s.sup := rfl
@[simp] theorem State.modRdwSc_fuse (s : State) (f : Rdw → Rdw) : (s.modRdwSc f).fuse = s.fuse := rfl
@[simp] theorem State.modRdwSc_boot (s : State) (f : Rdw → Rdw) : (s.modRdwSc f).boot = s.boot := rfl
@[simp] theorem State.modRdwSc_hal (s : State) (f : Rdw → Rdw) : (s.modRdwSc f).hal = s.hal := rfl
@[simp] theorem State.modRdwSc_ports (s : State) (f : Rdw → Rdw) : (s.modRdwSc f).ports = s.ports := rfl
@[simp] theorem State.modRdwSc_shed (s : State) (f : Rdw → Rdw) : (s.modRdwSc f).shed = s.shed := rfl
@[simp] theorem State.modRdwSc_tagTable (s : State) (f : Rdw → Rdw) : (s.modRdwSc f).tagTable = s.tagTable := rfl
@[simp] theorem State.modRdwSc_shedLost (s : State) (f : Rdw → Rdw) : (s.modRdwSc f).shedLost = s.shedLost := rfl
@[simp] theorem State.modRdwSc_pldm (s : State) (f : Rdw → Rdw) : (s.modRdwSc f).pldm = s.pldm := rfl
@[simp] theorem State.modRdwSc_par (s : State) (f : Rdw → Rdw) : (s.modRdwSc f).par = s.par := rfl
@[simp] theorem State.modRdwSc_tack (s : State) (f : Rdw → Rdw) : (s.modRdwSc f).tack = s.tack := rfl
@[simp] theorem State.modRdwSc_yard (s : State) (f : Rdw → Rdw) : (s.modRdwSc f).yard = s.yard := rfl
@[simp] theorem State.modRdwSc_jobs (s : State) (f : Rdw → Rdw) : (s.modRdwSc f).jobs = s.jobs := rfl
@[simp] theorem State.modRdwSc_devJobs (s : State) (f : Rdw → Rdw) : (s.modRdwSc f).devJobs = s.devJobs := rfl
@[simp] theorem State.modRdwSc_nextJob (s : State) (f : Rdw → Rdw) : (s.modRdwSc f).nextJob = s.nextJob := rfl
@[simp] theorem State.modRdwSc_pads (s : State) (f : Rdw → Rdw) : (s.modRdwSc f).pads = s.pads := rfl
@[simp] theorem State.modRdwSc_pmem (s : State) (f : Rdw → Rdw) : (s.modRdwSc f).pmem = s.pmem := rfl
@[simp] theorem State.modRdwSc_pci (s : State) (f : Rdw → Rdw) : (s.modRdwSc f).pci = s.pci := rfl
@[simp] theorem State.modRdwSc_rdw (s : State) (f : Rdw → Rdw) : (s.modRdwSc f).rdw = s.rdw := rfl
@[simp] theorem State.modRdwSc_rdwSc (s : State) (f : Rdw → Rdw) : (s.modRdwSc f).rdwSc = f s.rdwSc := rfl
@[simp] theorem State.modRdwSc_dmb (s : State) (f : Rdw → Rdw) : (s.modRdwSc f).dmb = s.dmb := rfl
@[simp] theorem State.modRdwSc_cas (s : State) (f : Rdw → Rdw) : (s.modRdwSc f).cas = s.cas := rfl
@[simp] theorem State.modRdwSc_dict (s : State) (f : Rdw → Rdw) : (s.modRdwSc f).dict = s.dict := rfl
@[simp] theorem State.modRdwSc_log (s : State) (f : Rdw → Rdw) : (s.modRdwSc f).log = s.log := rfl
@[simp] theorem State.modRdwSc_lc (s : State) (f : Rdw → Rdw) : (s.modRdwSc f).lc = s.lc := rfl
@[simp] theorem State.modRdwSc_mon (s : State) (f : Rdw → Rdw) : (s.modRdwSc f).mon = s.mon := rfl
@[simp] theorem State.modRdwSc_atn (s : State) (f : Rdw → Rdw) : (s.modRdwSc f).atn = s.atn := rfl
@[simp] theorem State.modRdwSc_pending (s : State) (f : Rdw → Rdw) : (s.modRdwSc f).pending = s.pending := rfl
@[simp] theorem State.modRdwSc_out (s : State) (f : Rdw → Rdw) : (s.modRdwSc f).out = s.out := rfl
@[simp] theorem State.modDmb_core (s : State) (f : Dmb → Dmb) : (s.modDmb f).core = s.core := rfl
@[simp] theorem State.modDmb_pwr (s : State) (f : Dmb → Dmb) : (s.modDmb f).pwr = s.pwr := rfl
@[simp] theorem State.modDmb_sup (s : State) (f : Dmb → Dmb) : (s.modDmb f).sup = s.sup := rfl
@[simp] theorem State.modDmb_fuse (s : State) (f : Dmb → Dmb) : (s.modDmb f).fuse = s.fuse := rfl
@[simp] theorem State.modDmb_boot (s : State) (f : Dmb → Dmb) : (s.modDmb f).boot = s.boot := rfl
@[simp] theorem State.modDmb_hal (s : State) (f : Dmb → Dmb) : (s.modDmb f).hal = s.hal := rfl
@[simp] theorem State.modDmb_ports (s : State) (f : Dmb → Dmb) : (s.modDmb f).ports = s.ports := rfl
@[simp] theorem State.modDmb_shed (s : State) (f : Dmb → Dmb) : (s.modDmb f).shed = s.shed := rfl
@[simp] theorem State.modDmb_tagTable (s : State) (f : Dmb → Dmb) : (s.modDmb f).tagTable = s.tagTable := rfl
@[simp] theorem State.modDmb_shedLost (s : State) (f : Dmb → Dmb) : (s.modDmb f).shedLost = s.shedLost := rfl
@[simp] theorem State.modDmb_pldm (s : State) (f : Dmb → Dmb) : (s.modDmb f).pldm = s.pldm := rfl
@[simp] theorem State.modDmb_par (s : State) (f : Dmb → Dmb) : (s.modDmb f).par = s.par := rfl
@[simp] theorem State.modDmb_tack (s : State) (f : Dmb → Dmb) : (s.modDmb f).tack = s.tack := rfl
@[simp] theorem State.modDmb_yard (s : State) (f : Dmb → Dmb) : (s.modDmb f).yard = s.yard := rfl
@[simp] theorem State.modDmb_jobs (s : State) (f : Dmb → Dmb) : (s.modDmb f).jobs = s.jobs := rfl
@[simp] theorem State.modDmb_devJobs (s : State) (f : Dmb → Dmb) : (s.modDmb f).devJobs = s.devJobs := rfl
@[simp] theorem State.modDmb_nextJob (s : State) (f : Dmb → Dmb) : (s.modDmb f).nextJob = s.nextJob := rfl
@[simp] theorem State.modDmb_pads (s : State) (f : Dmb → Dmb) : (s.modDmb f).pads = s.pads := rfl
@[simp] theorem State.modDmb_pmem (s : State) (f : Dmb → Dmb) : (s.modDmb f).pmem = s.pmem := rfl
@[simp] theorem State.modDmb_pci (s : State) (f : Dmb → Dmb) : (s.modDmb f).pci = s.pci := rfl
@[simp] theorem State.modDmb_rdw (s : State) (f : Dmb → Dmb) : (s.modDmb f).rdw = s.rdw := rfl
@[simp] theorem State.modDmb_rdwSc (s : State) (f : Dmb → Dmb) : (s.modDmb f).rdwSc = s.rdwSc := rfl
@[simp] theorem State.modDmb_dmb (s : State) (f : Dmb → Dmb) : (s.modDmb f).dmb = f s.dmb := rfl
@[simp] theorem State.modDmb_cas (s : State) (f : Dmb → Dmb) : (s.modDmb f).cas = s.cas := rfl
@[simp] theorem State.modDmb_dict (s : State) (f : Dmb → Dmb) : (s.modDmb f).dict = s.dict := rfl
@[simp] theorem State.modDmb_log (s : State) (f : Dmb → Dmb) : (s.modDmb f).log = s.log := rfl
@[simp] theorem State.modDmb_lc (s : State) (f : Dmb → Dmb) : (s.modDmb f).lc = s.lc := rfl
@[simp] theorem State.modDmb_mon (s : State) (f : Dmb → Dmb) : (s.modDmb f).mon = s.mon := rfl
@[simp] theorem State.modDmb_atn (s : State) (f : Dmb → Dmb) : (s.modDmb f).atn = s.atn := rfl
@[simp] theorem State.modDmb_pending (s : State) (f : Dmb → Dmb) : (s.modDmb f).pending = s.pending := rfl
@[simp] theorem State.modDmb_out (s : State) (f : Dmb → Dmb) : (s.modDmb f).out = s.out := rfl
@[simp] theorem State.modCas_core (s : State) (f : Cas → Cas) : (s.modCas f).core = s.core := rfl
@[simp] theorem State.modCas_pwr (s : State) (f : Cas → Cas) : (s.modCas f).pwr = s.pwr := rfl
@[simp] theorem State.modCas_sup (s : State) (f : Cas → Cas) : (s.modCas f).sup = s.sup := rfl
@[simp] theorem State.modCas_fuse (s : State) (f : Cas → Cas) : (s.modCas f).fuse = s.fuse := rfl
@[simp] theorem State.modCas_boot (s : State) (f : Cas → Cas) : (s.modCas f).boot = s.boot := rfl
@[simp] theorem State.modCas_hal (s : State) (f : Cas → Cas) : (s.modCas f).hal = s.hal := rfl
@[simp] theorem State.modCas_ports (s : State) (f : Cas → Cas) : (s.modCas f).ports = s.ports := rfl
@[simp] theorem State.modCas_shed (s : State) (f : Cas → Cas) : (s.modCas f).shed = s.shed := rfl
@[simp] theorem State.modCas_tagTable (s : State) (f : Cas → Cas) : (s.modCas f).tagTable = s.tagTable := rfl
@[simp] theorem State.modCas_shedLost (s : State) (f : Cas → Cas) : (s.modCas f).shedLost = s.shedLost := rfl
@[simp] theorem State.modCas_pldm (s : State) (f : Cas → Cas) : (s.modCas f).pldm = s.pldm := rfl
@[simp] theorem State.modCas_par (s : State) (f : Cas → Cas) : (s.modCas f).par = s.par := rfl
@[simp] theorem State.modCas_tack (s : State) (f : Cas → Cas) : (s.modCas f).tack = s.tack := rfl
@[simp] theorem State.modCas_yard (s : State) (f : Cas → Cas) : (s.modCas f).yard = s.yard := rfl
@[simp] theorem State.modCas_jobs (s : State) (f : Cas → Cas) : (s.modCas f).jobs = s.jobs := rfl
@[simp] theorem State.modCas_devJobs (s : State) (f : Cas → Cas) : (s.modCas f).devJobs = s.devJobs := rfl
@[simp] theorem State.modCas_nextJob (s : State) (f : Cas → Cas) : (s.modCas f).nextJob = s.nextJob := rfl
@[simp] theorem State.modCas_pads (s : State) (f : Cas → Cas) : (s.modCas f).pads = s.pads := rfl
@[simp] theorem State.modCas_pmem (s : State) (f : Cas → Cas) : (s.modCas f).pmem = s.pmem := rfl
@[simp] theorem State.modCas_pci (s : State) (f : Cas → Cas) : (s.modCas f).pci = s.pci := rfl
@[simp] theorem State.modCas_rdw (s : State) (f : Cas → Cas) : (s.modCas f).rdw = s.rdw := rfl
@[simp] theorem State.modCas_rdwSc (s : State) (f : Cas → Cas) : (s.modCas f).rdwSc = s.rdwSc := rfl
@[simp] theorem State.modCas_dmb (s : State) (f : Cas → Cas) : (s.modCas f).dmb = s.dmb := rfl
@[simp] theorem State.modCas_cas (s : State) (f : Cas → Cas) : (s.modCas f).cas = f s.cas := rfl
@[simp] theorem State.modCas_dict (s : State) (f : Cas → Cas) : (s.modCas f).dict = s.dict := rfl
@[simp] theorem State.modCas_log (s : State) (f : Cas → Cas) : (s.modCas f).log = s.log := rfl
@[simp] theorem State.modCas_lc (s : State) (f : Cas → Cas) : (s.modCas f).lc = s.lc := rfl
@[simp] theorem State.modCas_mon (s : State) (f : Cas → Cas) : (s.modCas f).mon = s.mon := rfl
@[simp] theorem State.modCas_atn (s : State) (f : Cas → Cas) : (s.modCas f).atn = s.atn := rfl
@[simp] theorem State.modCas_pending (s : State) (f : Cas → Cas) : (s.modCas f).pending = s.pending := rfl
@[simp] theorem State.modCas_out (s : State) (f : Cas → Cas) : (s.modCas f).out = s.out := rfl
@[simp] theorem State.modDict_core (s : State) (f : Dict → Dict) : (s.modDict f).core = s.core := rfl
@[simp] theorem State.modDict_pwr (s : State) (f : Dict → Dict) : (s.modDict f).pwr = s.pwr := rfl
@[simp] theorem State.modDict_sup (s : State) (f : Dict → Dict) : (s.modDict f).sup = s.sup := rfl
@[simp] theorem State.modDict_fuse (s : State) (f : Dict → Dict) : (s.modDict f).fuse = s.fuse := rfl
@[simp] theorem State.modDict_boot (s : State) (f : Dict → Dict) : (s.modDict f).boot = s.boot := rfl
@[simp] theorem State.modDict_hal (s : State) (f : Dict → Dict) : (s.modDict f).hal = s.hal := rfl
@[simp] theorem State.modDict_ports (s : State) (f : Dict → Dict) : (s.modDict f).ports = s.ports := rfl
@[simp] theorem State.modDict_shed (s : State) (f : Dict → Dict) : (s.modDict f).shed = s.shed := rfl
@[simp] theorem State.modDict_tagTable (s : State) (f : Dict → Dict) : (s.modDict f).tagTable = s.tagTable := rfl
@[simp] theorem State.modDict_shedLost (s : State) (f : Dict → Dict) : (s.modDict f).shedLost = s.shedLost := rfl
@[simp] theorem State.modDict_pldm (s : State) (f : Dict → Dict) : (s.modDict f).pldm = s.pldm := rfl
@[simp] theorem State.modDict_par (s : State) (f : Dict → Dict) : (s.modDict f).par = s.par := rfl
@[simp] theorem State.modDict_tack (s : State) (f : Dict → Dict) : (s.modDict f).tack = s.tack := rfl
@[simp] theorem State.modDict_yard (s : State) (f : Dict → Dict) : (s.modDict f).yard = s.yard := rfl
@[simp] theorem State.modDict_jobs (s : State) (f : Dict → Dict) : (s.modDict f).jobs = s.jobs := rfl
@[simp] theorem State.modDict_devJobs (s : State) (f : Dict → Dict) : (s.modDict f).devJobs = s.devJobs := rfl
@[simp] theorem State.modDict_nextJob (s : State) (f : Dict → Dict) : (s.modDict f).nextJob = s.nextJob := rfl
@[simp] theorem State.modDict_pads (s : State) (f : Dict → Dict) : (s.modDict f).pads = s.pads := rfl
@[simp] theorem State.modDict_pmem (s : State) (f : Dict → Dict) : (s.modDict f).pmem = s.pmem := rfl
@[simp] theorem State.modDict_pci (s : State) (f : Dict → Dict) : (s.modDict f).pci = s.pci := rfl
@[simp] theorem State.modDict_rdw (s : State) (f : Dict → Dict) : (s.modDict f).rdw = s.rdw := rfl
@[simp] theorem State.modDict_rdwSc (s : State) (f : Dict → Dict) : (s.modDict f).rdwSc = s.rdwSc := rfl
@[simp] theorem State.modDict_dmb (s : State) (f : Dict → Dict) : (s.modDict f).dmb = s.dmb := rfl
@[simp] theorem State.modDict_cas (s : State) (f : Dict → Dict) : (s.modDict f).cas = s.cas := rfl
@[simp] theorem State.modDict_dict (s : State) (f : Dict → Dict) : (s.modDict f).dict = f s.dict := rfl
@[simp] theorem State.modDict_log (s : State) (f : Dict → Dict) : (s.modDict f).log = s.log := rfl
@[simp] theorem State.modDict_lc (s : State) (f : Dict → Dict) : (s.modDict f).lc = s.lc := rfl
@[simp] theorem State.modDict_mon (s : State) (f : Dict → Dict) : (s.modDict f).mon = s.mon := rfl
@[simp] theorem State.modDict_atn (s : State) (f : Dict → Dict) : (s.modDict f).atn = s.atn := rfl
@[simp] theorem State.modDict_pending (s : State) (f : Dict → Dict) : (s.modDict f).pending = s.pending := rfl
@[simp] theorem State.modDict_out (s : State) (f : Dict → Dict) : (s.modDict f).out = s.out := rfl
@[simp] theorem State.modLog_core (s : State) (f : Log → Log) : (s.modLog f).core = s.core := rfl
@[simp] theorem State.modLog_pwr (s : State) (f : Log → Log) : (s.modLog f).pwr = s.pwr := rfl
@[simp] theorem State.modLog_sup (s : State) (f : Log → Log) : (s.modLog f).sup = s.sup := rfl
@[simp] theorem State.modLog_fuse (s : State) (f : Log → Log) : (s.modLog f).fuse = s.fuse := rfl
@[simp] theorem State.modLog_boot (s : State) (f : Log → Log) : (s.modLog f).boot = s.boot := rfl
@[simp] theorem State.modLog_hal (s : State) (f : Log → Log) : (s.modLog f).hal = s.hal := rfl
@[simp] theorem State.modLog_ports (s : State) (f : Log → Log) : (s.modLog f).ports = s.ports := rfl
@[simp] theorem State.modLog_shed (s : State) (f : Log → Log) : (s.modLog f).shed = s.shed := rfl
@[simp] theorem State.modLog_tagTable (s : State) (f : Log → Log) : (s.modLog f).tagTable = s.tagTable := rfl
@[simp] theorem State.modLog_shedLost (s : State) (f : Log → Log) : (s.modLog f).shedLost = s.shedLost := rfl
@[simp] theorem State.modLog_pldm (s : State) (f : Log → Log) : (s.modLog f).pldm = s.pldm := rfl
@[simp] theorem State.modLog_par (s : State) (f : Log → Log) : (s.modLog f).par = s.par := rfl
@[simp] theorem State.modLog_tack (s : State) (f : Log → Log) : (s.modLog f).tack = s.tack := rfl
@[simp] theorem State.modLog_yard (s : State) (f : Log → Log) : (s.modLog f).yard = s.yard := rfl
@[simp] theorem State.modLog_jobs (s : State) (f : Log → Log) : (s.modLog f).jobs = s.jobs := rfl
@[simp] theorem State.modLog_devJobs (s : State) (f : Log → Log) : (s.modLog f).devJobs = s.devJobs := rfl
@[simp] theorem State.modLog_nextJob (s : State) (f : Log → Log) : (s.modLog f).nextJob = s.nextJob := rfl
@[simp] theorem State.modLog_pads (s : State) (f : Log → Log) : (s.modLog f).pads = s.pads := rfl
@[simp] theorem State.modLog_pmem (s : State) (f : Log → Log) : (s.modLog f).pmem = s.pmem := rfl
@[simp] theorem State.modLog_pci (s : State) (f : Log → Log) : (s.modLog f).pci = s.pci := rfl
@[simp] theorem State.modLog_rdw (s : State) (f : Log → Log) : (s.modLog f).rdw = s.rdw := rfl
@[simp] theorem State.modLog_rdwSc (s : State) (f : Log → Log) : (s.modLog f).rdwSc = s.rdwSc := rfl
@[simp] theorem State.modLog_dmb (s : State) (f : Log → Log) : (s.modLog f).dmb = s.dmb := rfl
@[simp] theorem State.modLog_cas (s : State) (f : Log → Log) : (s.modLog f).cas = s.cas := rfl
@[simp] theorem State.modLog_dict (s : State) (f : Log → Log) : (s.modLog f).dict = s.dict := rfl
@[simp] theorem State.modLog_log (s : State) (f : Log → Log) : (s.modLog f).log = f s.log := rfl
@[simp] theorem State.modLog_lc (s : State) (f : Log → Log) : (s.modLog f).lc = s.lc := rfl
@[simp] theorem State.modLog_mon (s : State) (f : Log → Log) : (s.modLog f).mon = s.mon := rfl
@[simp] theorem State.modLog_atn (s : State) (f : Log → Log) : (s.modLog f).atn = s.atn := rfl
@[simp] theorem State.modLog_pending (s : State) (f : Log → Log) : (s.modLog f).pending = s.pending := rfl
@[simp] theorem State.modLog_out (s : State) (f : Log → Log) : (s.modLog f).out = s.out := rfl
@[simp] theorem State.modLc_core (s : State) (f : Lc → Lc) : (s.modLc f).core = s.core := rfl
@[simp] theorem State.modLc_pwr (s : State) (f : Lc → Lc) : (s.modLc f).pwr = s.pwr := rfl
@[simp] theorem State.modLc_sup (s : State) (f : Lc → Lc) : (s.modLc f).sup = s.sup := rfl
@[simp] theorem State.modLc_fuse (s : State) (f : Lc → Lc) : (s.modLc f).fuse = s.fuse := rfl
@[simp] theorem State.modLc_boot (s : State) (f : Lc → Lc) : (s.modLc f).boot = s.boot := rfl
@[simp] theorem State.modLc_hal (s : State) (f : Lc → Lc) : (s.modLc f).hal = s.hal := rfl
@[simp] theorem State.modLc_ports (s : State) (f : Lc → Lc) : (s.modLc f).ports = s.ports := rfl
@[simp] theorem State.modLc_shed (s : State) (f : Lc → Lc) : (s.modLc f).shed = s.shed := rfl
@[simp] theorem State.modLc_tagTable (s : State) (f : Lc → Lc) : (s.modLc f).tagTable = s.tagTable := rfl
@[simp] theorem State.modLc_shedLost (s : State) (f : Lc → Lc) : (s.modLc f).shedLost = s.shedLost := rfl
@[simp] theorem State.modLc_pldm (s : State) (f : Lc → Lc) : (s.modLc f).pldm = s.pldm := rfl
@[simp] theorem State.modLc_par (s : State) (f : Lc → Lc) : (s.modLc f).par = s.par := rfl
@[simp] theorem State.modLc_tack (s : State) (f : Lc → Lc) : (s.modLc f).tack = s.tack := rfl
@[simp] theorem State.modLc_yard (s : State) (f : Lc → Lc) : (s.modLc f).yard = s.yard := rfl
@[simp] theorem State.modLc_jobs (s : State) (f : Lc → Lc) : (s.modLc f).jobs = s.jobs := rfl
@[simp] theorem State.modLc_devJobs (s : State) (f : Lc → Lc) : (s.modLc f).devJobs = s.devJobs := rfl
@[simp] theorem State.modLc_nextJob (s : State) (f : Lc → Lc) : (s.modLc f).nextJob = s.nextJob := rfl
@[simp] theorem State.modLc_pads (s : State) (f : Lc → Lc) : (s.modLc f).pads = s.pads := rfl
@[simp] theorem State.modLc_pmem (s : State) (f : Lc → Lc) : (s.modLc f).pmem = s.pmem := rfl
@[simp] theorem State.modLc_pci (s : State) (f : Lc → Lc) : (s.modLc f).pci = s.pci := rfl
@[simp] theorem State.modLc_rdw (s : State) (f : Lc → Lc) : (s.modLc f).rdw = s.rdw := rfl
@[simp] theorem State.modLc_rdwSc (s : State) (f : Lc → Lc) : (s.modLc f).rdwSc = s.rdwSc := rfl
@[simp] theorem State.modLc_dmb (s : State) (f : Lc → Lc) : (s.modLc f).dmb = s.dmb := rfl
@[simp] theorem State.modLc_cas (s : State) (f : Lc → Lc) : (s.modLc f).cas = s.cas := rfl
@[simp] theorem State.modLc_dict (s : State) (f : Lc → Lc) : (s.modLc f).dict = s.dict := rfl
@[simp] theorem State.modLc_log (s : State) (f : Lc → Lc) : (s.modLc f).log = s.log := rfl
@[simp] theorem State.modLc_lc (s : State) (f : Lc → Lc) : (s.modLc f).lc = f s.lc := rfl
@[simp] theorem State.modLc_mon (s : State) (f : Lc → Lc) : (s.modLc f).mon = s.mon := rfl
@[simp] theorem State.modLc_atn (s : State) (f : Lc → Lc) : (s.modLc f).atn = s.atn := rfl
@[simp] theorem State.modLc_pending (s : State) (f : Lc → Lc) : (s.modLc f).pending = s.pending := rfl
@[simp] theorem State.modLc_out (s : State) (f : Lc → Lc) : (s.modLc f).out = s.out := rfl
@[simp] theorem State.modMon_core (s : State) (f : Mon → Mon) : (s.modMon f).core = s.core := rfl
@[simp] theorem State.modMon_pwr (s : State) (f : Mon → Mon) : (s.modMon f).pwr = s.pwr := rfl
@[simp] theorem State.modMon_sup (s : State) (f : Mon → Mon) : (s.modMon f).sup = s.sup := rfl
@[simp] theorem State.modMon_fuse (s : State) (f : Mon → Mon) : (s.modMon f).fuse = s.fuse := rfl
@[simp] theorem State.modMon_boot (s : State) (f : Mon → Mon) : (s.modMon f).boot = s.boot := rfl
@[simp] theorem State.modMon_hal (s : State) (f : Mon → Mon) : (s.modMon f).hal = s.hal := rfl
@[simp] theorem State.modMon_ports (s : State) (f : Mon → Mon) : (s.modMon f).ports = s.ports := rfl
@[simp] theorem State.modMon_shed (s : State) (f : Mon → Mon) : (s.modMon f).shed = s.shed := rfl
@[simp] theorem State.modMon_tagTable (s : State) (f : Mon → Mon) : (s.modMon f).tagTable = s.tagTable := rfl
@[simp] theorem State.modMon_shedLost (s : State) (f : Mon → Mon) : (s.modMon f).shedLost = s.shedLost := rfl
@[simp] theorem State.modMon_pldm (s : State) (f : Mon → Mon) : (s.modMon f).pldm = s.pldm := rfl
@[simp] theorem State.modMon_par (s : State) (f : Mon → Mon) : (s.modMon f).par = s.par := rfl
@[simp] theorem State.modMon_tack (s : State) (f : Mon → Mon) : (s.modMon f).tack = s.tack := rfl
@[simp] theorem State.modMon_yard (s : State) (f : Mon → Mon) : (s.modMon f).yard = s.yard := rfl
@[simp] theorem State.modMon_jobs (s : State) (f : Mon → Mon) : (s.modMon f).jobs = s.jobs := rfl
@[simp] theorem State.modMon_devJobs (s : State) (f : Mon → Mon) : (s.modMon f).devJobs = s.devJobs := rfl
@[simp] theorem State.modMon_nextJob (s : State) (f : Mon → Mon) : (s.modMon f).nextJob = s.nextJob := rfl
@[simp] theorem State.modMon_pads (s : State) (f : Mon → Mon) : (s.modMon f).pads = s.pads := rfl
@[simp] theorem State.modMon_pmem (s : State) (f : Mon → Mon) : (s.modMon f).pmem = s.pmem := rfl
@[simp] theorem State.modMon_pci (s : State) (f : Mon → Mon) : (s.modMon f).pci = s.pci := rfl
@[simp] theorem State.modMon_rdw (s : State) (f : Mon → Mon) : (s.modMon f).rdw = s.rdw := rfl
@[simp] theorem State.modMon_rdwSc (s : State) (f : Mon → Mon) : (s.modMon f).rdwSc = s.rdwSc := rfl
@[simp] theorem State.modMon_dmb (s : State) (f : Mon → Mon) : (s.modMon f).dmb = s.dmb := rfl
@[simp] theorem State.modMon_cas (s : State) (f : Mon → Mon) : (s.modMon f).cas = s.cas := rfl
@[simp] theorem State.modMon_dict (s : State) (f : Mon → Mon) : (s.modMon f).dict = s.dict := rfl
@[simp] theorem State.modMon_log (s : State) (f : Mon → Mon) : (s.modMon f).log = s.log := rfl
@[simp] theorem State.modMon_lc (s : State) (f : Mon → Mon) : (s.modMon f).lc = s.lc := rfl
@[simp] theorem State.modMon_mon (s : State) (f : Mon → Mon) : (s.modMon f).mon = f s.mon := rfl
@[simp] theorem State.modMon_atn (s : State) (f : Mon → Mon) : (s.modMon f).atn = s.atn := rfl
@[simp] theorem State.modMon_pending (s : State) (f : Mon → Mon) : (s.modMon f).pending = s.pending := rfl
@[simp] theorem State.modMon_out (s : State) (f : Mon → Mon) : (s.modMon f).out = s.out := rfl
@[simp] theorem State.modAtn_core (s : State) (f : Atn → Atn) : (s.modAtn f).core = s.core := rfl
@[simp] theorem State.modAtn_pwr (s : State) (f : Atn → Atn) : (s.modAtn f).pwr = s.pwr := rfl
@[simp] theorem State.modAtn_sup (s : State) (f : Atn → Atn) : (s.modAtn f).sup = s.sup := rfl
@[simp] theorem State.modAtn_fuse (s : State) (f : Atn → Atn) : (s.modAtn f).fuse = s.fuse := rfl
@[simp] theorem State.modAtn_boot (s : State) (f : Atn → Atn) : (s.modAtn f).boot = s.boot := rfl
@[simp] theorem State.modAtn_hal (s : State) (f : Atn → Atn) : (s.modAtn f).hal = s.hal := rfl
@[simp] theorem State.modAtn_ports (s : State) (f : Atn → Atn) : (s.modAtn f).ports = s.ports := rfl
@[simp] theorem State.modAtn_shed (s : State) (f : Atn → Atn) : (s.modAtn f).shed = s.shed := rfl
@[simp] theorem State.modAtn_tagTable (s : State) (f : Atn → Atn) : (s.modAtn f).tagTable = s.tagTable := rfl
@[simp] theorem State.modAtn_shedLost (s : State) (f : Atn → Atn) : (s.modAtn f).shedLost = s.shedLost := rfl
@[simp] theorem State.modAtn_pldm (s : State) (f : Atn → Atn) : (s.modAtn f).pldm = s.pldm := rfl
@[simp] theorem State.modAtn_par (s : State) (f : Atn → Atn) : (s.modAtn f).par = s.par := rfl
@[simp] theorem State.modAtn_tack (s : State) (f : Atn → Atn) : (s.modAtn f).tack = s.tack := rfl
@[simp] theorem State.modAtn_yard (s : State) (f : Atn → Atn) : (s.modAtn f).yard = s.yard := rfl
@[simp] theorem State.modAtn_jobs (s : State) (f : Atn → Atn) : (s.modAtn f).jobs = s.jobs := rfl
@[simp] theorem State.modAtn_devJobs (s : State) (f : Atn → Atn) : (s.modAtn f).devJobs = s.devJobs := rfl
@[simp] theorem State.modAtn_nextJob (s : State) (f : Atn → Atn) : (s.modAtn f).nextJob = s.nextJob := rfl
@[simp] theorem State.modAtn_pads (s : State) (f : Atn → Atn) : (s.modAtn f).pads = s.pads := rfl
@[simp] theorem State.modAtn_pmem (s : State) (f : Atn → Atn) : (s.modAtn f).pmem = s.pmem := rfl
@[simp] theorem State.modAtn_pci (s : State) (f : Atn → Atn) : (s.modAtn f).pci = s.pci := rfl
@[simp] theorem State.modAtn_rdw (s : State) (f : Atn → Atn) : (s.modAtn f).rdw = s.rdw := rfl
@[simp] theorem State.modAtn_rdwSc (s : State) (f : Atn → Atn) : (s.modAtn f).rdwSc = s.rdwSc := rfl
@[simp] theorem State.modAtn_dmb (s : State) (f : Atn → Atn) : (s.modAtn f).dmb = s.dmb := rfl
@[simp] theorem State.modAtn_cas (s : State) (f : Atn → Atn) : (s.modAtn f).cas = s.cas := rfl
@[simp] theorem State.modAtn_dict (s : State) (f : Atn → Atn) : (s.modAtn f).dict = s.dict := rfl
@[simp] theorem State.modAtn_log (s : State) (f : Atn → Atn) : (s.modAtn f).log = s.log := rfl
@[simp] theorem State.modAtn_lc (s : State) (f : Atn → Atn) : (s.modAtn f).lc = s.lc := rfl
@[simp] theorem State.modAtn_mon (s : State) (f : Atn → Atn) : (s.modAtn f).mon = s.mon := rfl
@[simp] theorem State.modAtn_atn (s : State) (f : Atn → Atn) : (s.modAtn f).atn = f s.atn := rfl
@[simp] theorem State.modAtn_pending (s : State) (f : Atn → Atn) : (s.modAtn f).pending = s.pending := rfl
@[simp] theorem State.modAtn_out (s : State) (f : Atn → Atn) : (s.modAtn f).out = s.out := rfl
@[simp] theorem State.modOut_core (s : State) (f : List Out → List Out) : (s.modOut f).core = s.core := rfl
@[simp] theorem State.modOut_pwr (s : State) (f : List Out → List Out) : (s.modOut f).pwr = s.pwr := rfl
@[simp] theorem State.modOut_sup (s : State) (f : List Out → List Out) : (s.modOut f).sup = s.sup := rfl
@[simp] theorem State.modOut_fuse (s : State) (f : List Out → List Out) : (s.modOut f).fuse = s.fuse := rfl
@[simp] theorem State.modOut_boot (s : State) (f : List Out → List Out) : (s.modOut f).boot = s.boot := rfl
@[simp] theorem State.modOut_hal (s : State) (f : List Out → List Out) : (s.modOut f).hal = s.hal := rfl
@[simp] theorem State.modOut_ports (s : State) (f : List Out → List Out) : (s.modOut f).ports = s.ports := rfl
@[simp] theorem State.modOut_shed (s : State) (f : List Out → List Out) : (s.modOut f).shed = s.shed := rfl
@[simp] theorem State.modOut_tagTable (s : State) (f : List Out → List Out) : (s.modOut f).tagTable = s.tagTable := rfl
@[simp] theorem State.modOut_shedLost (s : State) (f : List Out → List Out) : (s.modOut f).shedLost = s.shedLost := rfl
@[simp] theorem State.modOut_pldm (s : State) (f : List Out → List Out) : (s.modOut f).pldm = s.pldm := rfl
@[simp] theorem State.modOut_par (s : State) (f : List Out → List Out) : (s.modOut f).par = s.par := rfl
@[simp] theorem State.modOut_tack (s : State) (f : List Out → List Out) : (s.modOut f).tack = s.tack := rfl
@[simp] theorem State.modOut_yard (s : State) (f : List Out → List Out) : (s.modOut f).yard = s.yard := rfl
@[simp] theorem State.modOut_jobs (s : State) (f : List Out → List Out) : (s.modOut f).jobs = s.jobs := rfl
@[simp] theorem State.modOut_devJobs (s : State) (f : List Out → List Out) : (s.modOut f).devJobs = s.devJobs := rfl
@[simp] theorem State.modOut_nextJob (s : State) (f : List Out → List Out) : (s.modOut f).nextJob = s.nextJob := rfl
@[simp] theorem State.modOut_pads (s : State) (f : List Out → List Out) : (s.modOut f).pads = s.pads := rfl
@[simp] theorem State.modOut_pmem (s : State) (f : List Out → List Out) : (s.modOut f).pmem = s.pmem := rfl
@[simp] theorem State.modOut_pci (s : State) (f : List Out → List Out) : (s.modOut f).pci = s.pci := rfl
@[simp] theorem State.modOut_rdw (s : State) (f : List Out → List Out) : (s.modOut f).rdw = s.rdw := rfl
@[simp] theorem State.modOut_rdwSc (s : State) (f : List Out → List Out) : (s.modOut f).rdwSc = s.rdwSc := rfl
@[simp] theorem State.modOut_dmb (s : State) (f : List Out → List Out) : (s.modOut f).dmb = s.dmb := rfl
@[simp] theorem State.modOut_cas (s : State) (f : List Out → List Out) : (s.modOut f).cas = s.cas := rfl
@[simp] theorem State.modOut_dict (s : State) (f : List Out → List Out) : (s.modOut f).dict = s.dict := rfl
@[simp] theorem State.modOut_log (s : State) (f : List Out → List Out) : (s.modOut f).log = s.log := rfl
@[simp] theorem State.modOut_lc (s : State) (f : List Out → List Out) : (s.modOut f).lc = s.lc := rfl
@[simp] theorem State.modOut_mon (s : State) (f : List Out → List Out) : (s.modOut f).mon = s.mon := rfl
@[simp] theorem State.modOut_atn (s : State) (f : List Out → List Out) : (s.modOut f).atn = s.atn := rfl
@[simp] theorem State.modOut_pending (s : State) (f : List Out → List Out) : (s.modOut f).pending = s.pending := rfl
@[simp] theorem State.modOut_out (s : State) (f : List Out → List Out) : (s.modOut f).out = f s.out := rfl

end Sys2Proof.Machine
end

