-- ==== Sys2Proof/Laws/Ops.lean ====
section
/-! SUPPORT. What the operations of every family leave alone: forgetting the last outputs, sending, latching a leaf, logging
an event. -/

namespace Sys2Proof.Machine

open Sys2Proof

@[simp] theorem State.fresh_core (s : State) : (s.fresh).core = s.core := rfl
@[simp] theorem State.fresh_pwr (s : State) : (s.fresh).pwr = s.pwr := rfl
@[simp] theorem State.fresh_sup (s : State) : (s.fresh).sup = s.sup := rfl
@[simp] theorem State.fresh_fuse (s : State) : (s.fresh).fuse = s.fuse := rfl
@[simp] theorem State.fresh_boot (s : State) : (s.fresh).boot = s.boot := rfl
@[simp] theorem State.fresh_hal (s : State) : (s.fresh).hal = s.hal := rfl
@[simp] theorem State.fresh_ports (s : State) : (s.fresh).ports = s.ports := rfl
@[simp] theorem State.fresh_shed (s : State) : (s.fresh).shed = s.shed := rfl
@[simp] theorem State.fresh_tagTable (s : State) : (s.fresh).tagTable = s.tagTable := rfl
@[simp] theorem State.fresh_shedLost (s : State) : (s.fresh).shedLost = s.shedLost := rfl
@[simp] theorem State.fresh_pldm (s : State) : (s.fresh).pldm = s.pldm := rfl
@[simp] theorem State.fresh_par (s : State) : (s.fresh).par = s.par := rfl
@[simp] theorem State.fresh_tack (s : State) : (s.fresh).tack = s.tack := rfl
@[simp] theorem State.fresh_yard (s : State) : (s.fresh).yard = s.yard := rfl
@[simp] theorem State.fresh_jobs (s : State) : (s.fresh).jobs = s.jobs := rfl
@[simp] theorem State.fresh_devJobs (s : State) : (s.fresh).devJobs = s.devJobs := rfl
@[simp] theorem State.fresh_nextJob (s : State) : (s.fresh).nextJob = s.nextJob := rfl
@[simp] theorem State.fresh_pads (s : State) : (s.fresh).pads = s.pads := rfl
@[simp] theorem State.fresh_pmem (s : State) : (s.fresh).pmem = s.pmem := rfl
@[simp] theorem State.fresh_pci (s : State) : (s.fresh).pci = s.pci := rfl
@[simp] theorem State.fresh_rdw (s : State) : (s.fresh).rdw = s.rdw := rfl
@[simp] theorem State.fresh_rdwSc (s : State) : (s.fresh).rdwSc = s.rdwSc := rfl
@[simp] theorem State.fresh_dmb (s : State) : (s.fresh).dmb = s.dmb := rfl
@[simp] theorem State.fresh_cas (s : State) : (s.fresh).cas = s.cas := rfl
@[simp] theorem State.fresh_dict (s : State) : (s.fresh).dict = s.dict := rfl
@[simp] theorem State.fresh_log (s : State) : (s.fresh).log = s.log := rfl
@[simp] theorem State.fresh_lc (s : State) : (s.fresh).lc = s.lc := rfl
@[simp] theorem State.fresh_mon (s : State) : (s.fresh).mon = s.mon := rfl
@[simp] theorem State.fresh_atn (s : State) : (s.fresh).atn = s.atn := rfl
@[simp] theorem State.fresh_pending (s : State) : (s.fresh).pending = s.pending := rfl
@[simp] theorem State.emit_core (s : State) (o : Out) : (s.emit o).core = s.core := rfl
@[simp] theorem State.emit_pwr (s : State) (o : Out) : (s.emit o).pwr = s.pwr := rfl
@[simp] theorem State.emit_sup (s : State) (o : Out) : (s.emit o).sup = s.sup := rfl
@[simp] theorem State.emit_fuse (s : State) (o : Out) : (s.emit o).fuse = s.fuse := rfl
@[simp] theorem State.emit_boot (s : State) (o : Out) : (s.emit o).boot = s.boot := rfl
@[simp] theorem State.emit_hal (s : State) (o : Out) : (s.emit o).hal = s.hal := rfl
@[simp] theorem State.emit_ports (s : State) (o : Out) : (s.emit o).ports = s.ports := rfl
@[simp] theorem State.emit_shed (s : State) (o : Out) : (s.emit o).shed = s.shed := rfl
@[simp] theorem State.emit_tagTable (s : State) (o : Out) : (s.emit o).tagTable = s.tagTable := rfl
@[simp] theorem State.emit_shedLost (s : State) (o : Out) : (s.emit o).shedLost = s.shedLost := rfl
@[simp] theorem State.emit_pldm (s : State) (o : Out) : (s.emit o).pldm = s.pldm := rfl
@[simp] theorem State.emit_par (s : State) (o : Out) : (s.emit o).par = s.par := rfl
@[simp] theorem State.emit_tack (s : State) (o : Out) : (s.emit o).tack = s.tack := rfl
@[simp] theorem State.emit_yard (s : State) (o : Out) : (s.emit o).yard = s.yard := rfl
@[simp] theorem State.emit_jobs (s : State) (o : Out) : (s.emit o).jobs = s.jobs := rfl
@[simp] theorem State.emit_devJobs (s : State) (o : Out) : (s.emit o).devJobs = s.devJobs := rfl
@[simp] theorem State.emit_nextJob (s : State) (o : Out) : (s.emit o).nextJob = s.nextJob := rfl
@[simp] theorem State.emit_pads (s : State) (o : Out) : (s.emit o).pads = s.pads := rfl
@[simp] theorem State.emit_pmem (s : State) (o : Out) : (s.emit o).pmem = s.pmem := rfl
@[simp] theorem State.emit_pci (s : State) (o : Out) : (s.emit o).pci = s.pci := rfl
@[simp] theorem State.emit_rdw (s : State) (o : Out) : (s.emit o).rdw = s.rdw := rfl
@[simp] theorem State.emit_rdwSc (s : State) (o : Out) : (s.emit o).rdwSc = s.rdwSc := rfl
@[simp] theorem State.emit_dmb (s : State) (o : Out) : (s.emit o).dmb = s.dmb := rfl
@[simp] theorem State.emit_cas (s : State) (o : Out) : (s.emit o).cas = s.cas := rfl
@[simp] theorem State.emit_dict (s : State) (o : Out) : (s.emit o).dict = s.dict := rfl
@[simp] theorem State.emit_log (s : State) (o : Out) : (s.emit o).log = s.log := rfl
@[simp] theorem State.emit_lc (s : State) (o : Out) : (s.emit o).lc = s.lc := rfl
@[simp] theorem State.emit_mon (s : State) (o : Out) : (s.emit o).mon = s.mon := rfl
@[simp] theorem State.emit_atn (s : State) (o : Out) : (s.emit o).atn = s.atn := rfl
@[simp] theorem State.emit_pending (s : State) (o : Out) : (s.emit o).pending = s.pending := rfl
@[simp] theorem State.latch_core (s : State) (g k : Nat) : (s.latch g k).core = s.core := rfl
@[simp] theorem State.latch_pwr (s : State) (g k : Nat) : (s.latch g k).pwr = s.pwr := rfl
@[simp] theorem State.latch_sup (s : State) (g k : Nat) : (s.latch g k).sup = s.sup := rfl
@[simp] theorem State.latch_fuse (s : State) (g k : Nat) : (s.latch g k).fuse = s.fuse := rfl
@[simp] theorem State.latch_boot (s : State) (g k : Nat) : (s.latch g k).boot = s.boot := rfl
@[simp] theorem State.latch_hal (s : State) (g k : Nat) : (s.latch g k).hal = s.hal := rfl
@[simp] theorem State.latch_ports (s : State) (g k : Nat) : (s.latch g k).ports = s.ports := rfl
@[simp] theorem State.latch_shed (s : State) (g k : Nat) : (s.latch g k).shed = s.shed := rfl
@[simp] theorem State.latch_tagTable (s : State) (g k : Nat) : (s.latch g k).tagTable = s.tagTable := rfl
@[simp] theorem State.latch_shedLost (s : State) (g k : Nat) : (s.latch g k).shedLost = s.shedLost := rfl
@[simp] theorem State.latch_pldm (s : State) (g k : Nat) : (s.latch g k).pldm = s.pldm := rfl
@[simp] theorem State.latch_par (s : State) (g k : Nat) : (s.latch g k).par = s.par := rfl
@[simp] theorem State.latch_tack (s : State) (g k : Nat) : (s.latch g k).tack = s.tack := rfl
@[simp] theorem State.latch_yard (s : State) (g k : Nat) : (s.latch g k).yard = s.yard := rfl
@[simp] theorem State.latch_jobs (s : State) (g k : Nat) : (s.latch g k).jobs = s.jobs := rfl
@[simp] theorem State.latch_devJobs (s : State) (g k : Nat) : (s.latch g k).devJobs = s.devJobs := rfl
@[simp] theorem State.latch_nextJob (s : State) (g k : Nat) : (s.latch g k).nextJob = s.nextJob := rfl
@[simp] theorem State.latch_pads (s : State) (g k : Nat) : (s.latch g k).pads = s.pads := rfl
@[simp] theorem State.latch_pmem (s : State) (g k : Nat) : (s.latch g k).pmem = s.pmem := rfl
@[simp] theorem State.latch_pci (s : State) (g k : Nat) : (s.latch g k).pci = s.pci := rfl
@[simp] theorem State.latch_rdw (s : State) (g k : Nat) : (s.latch g k).rdw = s.rdw := rfl
@[simp] theorem State.latch_rdwSc (s : State) (g k : Nat) : (s.latch g k).rdwSc = s.rdwSc := rfl
@[simp] theorem State.latch_dmb (s : State) (g k : Nat) : (s.latch g k).dmb = s.dmb := rfl
@[simp] theorem State.latch_cas (s : State) (g k : Nat) : (s.latch g k).cas = s.cas := rfl
@[simp] theorem State.latch_dict (s : State) (g k : Nat) : (s.latch g k).dict = s.dict := rfl
@[simp] theorem State.latch_log (s : State) (g k : Nat) : (s.latch g k).log = s.log := rfl
@[simp] theorem State.latch_lc (s : State) (g k : Nat) : (s.latch g k).lc = s.lc := rfl
@[simp] theorem State.latch_mon (s : State) (g k : Nat) : (s.latch g k).mon = s.mon := rfl
@[simp] theorem State.latch_pending (s : State) (g k : Nat) : (s.latch g k).pending = s.pending := rfl
@[simp] theorem State.latch_out (s : State) (g k : Nat) : (s.latch g k).out = s.out := rfl
@[simp] theorem State.logDueAdd_core (s : State) (d : LogDesc) (e : Effect) : (s.logDueAdd d e).core = s.core := rfl
@[simp] theorem State.logDueAdd_pwr (s : State) (d : LogDesc) (e : Effect) : (s.logDueAdd d e).pwr = s.pwr := rfl
@[simp] theorem State.logDueAdd_sup (s : State) (d : LogDesc) (e : Effect) : (s.logDueAdd d e).sup = s.sup := rfl
@[simp] theorem State.logDueAdd_fuse (s : State) (d : LogDesc) (e : Effect) : (s.logDueAdd d e).fuse = s.fuse := rfl
@[simp] theorem State.logDueAdd_boot (s : State) (d : LogDesc) (e : Effect) : (s.logDueAdd d e).boot = s.boot := rfl
@[simp] theorem State.logDueAdd_hal (s : State) (d : LogDesc) (e : Effect) : (s.logDueAdd d e).hal = s.hal := rfl
@[simp] theorem State.logDueAdd_ports (s : State) (d : LogDesc) (e : Effect) : (s.logDueAdd d e).ports = s.ports := rfl
@[simp] theorem State.logDueAdd_shed (s : State) (d : LogDesc) (e : Effect) : (s.logDueAdd d e).shed = s.shed := rfl
@[simp] theorem State.logDueAdd_tagTable (s : State) (d : LogDesc) (e : Effect) : (s.logDueAdd d e).tagTable = s.tagTable := rfl
@[simp] theorem State.logDueAdd_shedLost (s : State) (d : LogDesc) (e : Effect) : (s.logDueAdd d e).shedLost = s.shedLost := rfl
@[simp] theorem State.logDueAdd_pldm (s : State) (d : LogDesc) (e : Effect) : (s.logDueAdd d e).pldm = s.pldm := rfl
@[simp] theorem State.logDueAdd_par (s : State) (d : LogDesc) (e : Effect) : (s.logDueAdd d e).par = s.par := rfl
@[simp] theorem State.logDueAdd_tack (s : State) (d : LogDesc) (e : Effect) : (s.logDueAdd d e).tack = s.tack := rfl
@[simp] theorem State.logDueAdd_yard (s : State) (d : LogDesc) (e : Effect) : (s.logDueAdd d e).yard = s.yard := rfl
@[simp] theorem State.logDueAdd_jobs (s : State) (d : LogDesc) (e : Effect) : (s.logDueAdd d e).jobs = s.jobs := rfl
@[simp] theorem State.logDueAdd_devJobs (s : State) (d : LogDesc) (e : Effect) : (s.logDueAdd d e).devJobs = s.devJobs := rfl
@[simp] theorem State.logDueAdd_nextJob (s : State) (d : LogDesc) (e : Effect) : (s.logDueAdd d e).nextJob = s.nextJob := rfl
@[simp] theorem State.logDueAdd_pads (s : State) (d : LogDesc) (e : Effect) : (s.logDueAdd d e).pads = s.pads := rfl
@[simp] theorem State.logDueAdd_pmem (s : State) (d : LogDesc) (e : Effect) : (s.logDueAdd d e).pmem = s.pmem := rfl
@[simp] theorem State.logDueAdd_pci (s : State) (d : LogDesc) (e : Effect) : (s.logDueAdd d e).pci = s.pci := rfl
@[simp] theorem State.logDueAdd_rdw (s : State) (d : LogDesc) (e : Effect) : (s.logDueAdd d e).rdw = s.rdw := rfl
@[simp] theorem State.logDueAdd_rdwSc (s : State) (d : LogDesc) (e : Effect) : (s.logDueAdd d e).rdwSc = s.rdwSc := rfl
@[simp] theorem State.logDueAdd_dmb (s : State) (d : LogDesc) (e : Effect) : (s.logDueAdd d e).dmb = s.dmb := rfl
@[simp] theorem State.logDueAdd_cas (s : State) (d : LogDesc) (e : Effect) : (s.logDueAdd d e).cas = s.cas := rfl
@[simp] theorem State.logDueAdd_dict (s : State) (d : LogDesc) (e : Effect) : (s.logDueAdd d e).dict = s.dict := rfl
@[simp] theorem State.logDueAdd_lc (s : State) (d : LogDesc) (e : Effect) : (s.logDueAdd d e).lc = s.lc := rfl
@[simp] theorem State.logDueAdd_mon (s : State) (d : LogDesc) (e : Effect) : (s.logDueAdd d e).mon = s.mon := rfl
@[simp] theorem State.logDueAdd_atn (s : State) (d : LogDesc) (e : Effect) : (s.logDueAdd d e).atn = s.atn := rfl
@[simp] theorem State.logDueAdd_pending (s : State) (d : LogDesc) (e : Effect) : (s.logDueAdd d e).pending = s.pending := rfl
@[simp] theorem State.logDueAdd_out (s : State) (d : LogDesc) (e : Effect) : (s.logDueAdd d e).out = s.out := rfl
@[simp] theorem State.logEv_core (s : State) (d : LogDesc) : (s.logEv d).core = s.core := rfl
@[simp] theorem State.logEv_pwr (s : State) (d : LogDesc) : (s.logEv d).pwr = s.pwr := rfl
@[simp] theorem State.logEv_sup (s : State) (d : LogDesc) : (s.logEv d).sup = s.sup := rfl
@[simp] theorem State.logEv_fuse (s : State) (d : LogDesc) : (s.logEv d).fuse = s.fuse := rfl
@[simp] theorem State.logEv_boot (s : State) (d : LogDesc) : (s.logEv d).boot = s.boot := rfl
@[simp] theorem State.logEv_hal (s : State) (d : LogDesc) : (s.logEv d).hal = s.hal := rfl
@[simp] theorem State.logEv_ports (s : State) (d : LogDesc) : (s.logEv d).ports = s.ports := rfl
@[simp] theorem State.logEv_shed (s : State) (d : LogDesc) : (s.logEv d).shed = s.shed := rfl
@[simp] theorem State.logEv_tagTable (s : State) (d : LogDesc) : (s.logEv d).tagTable = s.tagTable := rfl
@[simp] theorem State.logEv_shedLost (s : State) (d : LogDesc) : (s.logEv d).shedLost = s.shedLost := rfl
@[simp] theorem State.logEv_pldm (s : State) (d : LogDesc) : (s.logEv d).pldm = s.pldm := rfl
@[simp] theorem State.logEv_par (s : State) (d : LogDesc) : (s.logEv d).par = s.par := rfl
@[simp] theorem State.logEv_tack (s : State) (d : LogDesc) : (s.logEv d).tack = s.tack := rfl
@[simp] theorem State.logEv_yard (s : State) (d : LogDesc) : (s.logEv d).yard = s.yard := rfl
@[simp] theorem State.logEv_jobs (s : State) (d : LogDesc) : (s.logEv d).jobs = s.jobs := rfl
@[simp] theorem State.logEv_devJobs (s : State) (d : LogDesc) : (s.logEv d).devJobs = s.devJobs := rfl
@[simp] theorem State.logEv_nextJob (s : State) (d : LogDesc) : (s.logEv d).nextJob = s.nextJob := rfl
@[simp] theorem State.logEv_pads (s : State) (d : LogDesc) : (s.logEv d).pads = s.pads := rfl
@[simp] theorem State.logEv_pmem (s : State) (d : LogDesc) : (s.logEv d).pmem = s.pmem := rfl
@[simp] theorem State.logEv_pci (s : State) (d : LogDesc) : (s.logEv d).pci = s.pci := rfl
@[simp] theorem State.logEv_rdw (s : State) (d : LogDesc) : (s.logEv d).rdw = s.rdw := rfl
@[simp] theorem State.logEv_rdwSc (s : State) (d : LogDesc) : (s.logEv d).rdwSc = s.rdwSc := rfl
@[simp] theorem State.logEv_dmb (s : State) (d : LogDesc) : (s.logEv d).dmb = s.dmb := rfl
@[simp] theorem State.logEv_cas (s : State) (d : LogDesc) : (s.logEv d).cas = s.cas := rfl
@[simp] theorem State.logEv_dict (s : State) (d : LogDesc) : (s.logEv d).dict = s.dict := rfl
@[simp] theorem State.logEv_lc (s : State) (d : LogDesc) : (s.logEv d).lc = s.lc := rfl
@[simp] theorem State.logEv_mon (s : State) (d : LogDesc) : (s.logEv d).mon = s.mon := rfl
@[simp] theorem State.logEv_atn (s : State) (d : LogDesc) : (s.logEv d).atn = s.atn := rfl
@[simp] theorem State.logEv_pending (s : State) (d : LogDesc) : (s.logEv d).pending = s.pending := rfl
@[simp] theorem State.logEv_out (s : State) (d : LogDesc) : (s.logEv d).out = s.out := rfl
@[simp] theorem State.ev_core (s : State) (sub fam : Nat) (e : Config.Ev) (l : List Nat) : (s.ev sub fam e l).core = s.core := rfl
@[simp] theorem State.ev_pwr (s : State) (sub fam : Nat) (e : Config.Ev) (l : List Nat) : (s.ev sub fam e l).pwr = s.pwr := rfl
@[simp] theorem State.ev_sup (s : State) (sub fam : Nat) (e : Config.Ev) (l : List Nat) : (s.ev sub fam e l).sup = s.sup := rfl
@[simp] theorem State.ev_fuse (s : State) (sub fam : Nat) (e : Config.Ev) (l : List Nat) : (s.ev sub fam e l).fuse = s.fuse := rfl
@[simp] theorem State.ev_boot (s : State) (sub fam : Nat) (e : Config.Ev) (l : List Nat) : (s.ev sub fam e l).boot = s.boot := rfl
@[simp] theorem State.ev_hal (s : State) (sub fam : Nat) (e : Config.Ev) (l : List Nat) : (s.ev sub fam e l).hal = s.hal := rfl
@[simp] theorem State.ev_ports (s : State) (sub fam : Nat) (e : Config.Ev) (l : List Nat) : (s.ev sub fam e l).ports = s.ports := rfl
@[simp] theorem State.ev_shed (s : State) (sub fam : Nat) (e : Config.Ev) (l : List Nat) : (s.ev sub fam e l).shed = s.shed := rfl
@[simp] theorem State.ev_tagTable (s : State) (sub fam : Nat) (e : Config.Ev) (l : List Nat) : (s.ev sub fam e l).tagTable = s.tagTable := rfl
@[simp] theorem State.ev_shedLost (s : State) (sub fam : Nat) (e : Config.Ev) (l : List Nat) : (s.ev sub fam e l).shedLost = s.shedLost := rfl
@[simp] theorem State.ev_pldm (s : State) (sub fam : Nat) (e : Config.Ev) (l : List Nat) : (s.ev sub fam e l).pldm = s.pldm := rfl
@[simp] theorem State.ev_par (s : State) (sub fam : Nat) (e : Config.Ev) (l : List Nat) : (s.ev sub fam e l).par = s.par := rfl
@[simp] theorem State.ev_tack (s : State) (sub fam : Nat) (e : Config.Ev) (l : List Nat) : (s.ev sub fam e l).tack = s.tack := rfl
@[simp] theorem State.ev_yard (s : State) (sub fam : Nat) (e : Config.Ev) (l : List Nat) : (s.ev sub fam e l).yard = s.yard := rfl
@[simp] theorem State.ev_jobs (s : State) (sub fam : Nat) (e : Config.Ev) (l : List Nat) : (s.ev sub fam e l).jobs = s.jobs := rfl
@[simp] theorem State.ev_devJobs (s : State) (sub fam : Nat) (e : Config.Ev) (l : List Nat) : (s.ev sub fam e l).devJobs = s.devJobs := rfl
@[simp] theorem State.ev_nextJob (s : State) (sub fam : Nat) (e : Config.Ev) (l : List Nat) : (s.ev sub fam e l).nextJob = s.nextJob := rfl
@[simp] theorem State.ev_pads (s : State) (sub fam : Nat) (e : Config.Ev) (l : List Nat) : (s.ev sub fam e l).pads = s.pads := rfl
@[simp] theorem State.ev_pmem (s : State) (sub fam : Nat) (e : Config.Ev) (l : List Nat) : (s.ev sub fam e l).pmem = s.pmem := rfl
@[simp] theorem State.ev_pci (s : State) (sub fam : Nat) (e : Config.Ev) (l : List Nat) : (s.ev sub fam e l).pci = s.pci := rfl
@[simp] theorem State.ev_rdw (s : State) (sub fam : Nat) (e : Config.Ev) (l : List Nat) : (s.ev sub fam e l).rdw = s.rdw := rfl
@[simp] theorem State.ev_rdwSc (s : State) (sub fam : Nat) (e : Config.Ev) (l : List Nat) : (s.ev sub fam e l).rdwSc = s.rdwSc := rfl
@[simp] theorem State.ev_dmb (s : State) (sub fam : Nat) (e : Config.Ev) (l : List Nat) : (s.ev sub fam e l).dmb = s.dmb := rfl
@[simp] theorem State.ev_cas (s : State) (sub fam : Nat) (e : Config.Ev) (l : List Nat) : (s.ev sub fam e l).cas = s.cas := rfl
@[simp] theorem State.ev_dict (s : State) (sub fam : Nat) (e : Config.Ev) (l : List Nat) : (s.ev sub fam e l).dict = s.dict := rfl
@[simp] theorem State.ev_lc (s : State) (sub fam : Nat) (e : Config.Ev) (l : List Nat) : (s.ev sub fam e l).lc = s.lc := rfl
@[simp] theorem State.ev_mon (s : State) (sub fam : Nat) (e : Config.Ev) (l : List Nat) : (s.ev sub fam e l).mon = s.mon := rfl
@[simp] theorem State.ev_atn (s : State) (sub fam : Nat) (e : Config.Ev) (l : List Nat) : (s.ev sub fam e l).atn = s.atn := rfl
@[simp] theorem State.ev_pending (s : State) (sub fam : Nat) (e : Config.Ev) (l : List Nat) : (s.ev sub fam e l).pending = s.pending := rfl
@[simp] theorem State.ev_out (s : State) (sub fam : Nat) (e : Config.Ev) (l : List Nat) : (s.ev sub fam e l).out = s.out := rfl
@[simp] theorem State.fresh_out (s : State) : s.fresh.out = [] := rfl
@[simp] theorem State.emit_out (s : State) (o : Out) : (s.emit o).out = s.out ++ [o] := rfl
@[simp] theorem State.fresh_now_read (s : State) : s.fresh.now = s.now := rfl
@[simp] theorem State.emit_now_read (s : State) (o : Out) : (s.emit o).now = s.now := rfl
@[simp] theorem State.fresh_vinWarn_read (s : State) : s.fresh.vinWarn = s.vinWarn := rfl
@[simp] theorem State.emit_vinWarn_read (s : State) (o : Out) : (s.emit o).vinWarn = s.vinWarn := rfl
@[simp] theorem State.fresh_valU_read (s : State) (k : Nat) : s.fresh.valU k = s.valU k := rfl
@[simp] theorem State.emit_valU_read (s : State) (o : Out) (k : Nat) : (s.emit o).valU k = s.valU k := rfl
@[simp] theorem State.fresh_val_read (s : State) (k : Nat) : s.fresh.val k = s.val k := rfl
@[simp] theorem State.emit_val_read (s : State) (o : Out) (k : Nat) : (s.emit o).val k = s.val k := rfl
@[simp] theorem State.fresh_port_read (s : State) (n : Nat) : s.fresh.port n = s.port n := rfl
@[simp] theorem State.emit_port_read (s : State) (o : Out) (n : Nat) : (s.emit o).port n = s.port n := rfl
@[simp] theorem State.fresh_pad_read (s : State) (n : Nat) : s.fresh.pad? n = s.pad? n := rfl
@[simp] theorem State.emit_pad_read (s : State) (o : Out) (n : Nat) : (s.emit o).pad? n = s.pad? n := rfl
@[simp] theorem State.fresh_lane_read (s : State) (n : Nat) : s.fresh.lane n = s.lane n := rfl
@[simp] theorem State.emit_lane_read (s : State) (o : Out) (n : Nat) : (s.emit o).lane n = s.lane n := rfl
@[simp] theorem State.fresh_job_read (s : State) (n : Nat) : s.fresh.job? n = s.job? n := rfl
@[simp] theorem State.emit_job_read (s : State) (o : Out) (n : Nat) : (s.emit o).job? n = s.job? n := rfl
@[simp] theorem State.fresh_lcCode_read (s : State) : s.fresh.lcCode = s.lcCode := rfl
@[simp] theorem State.emit_lcCode_read (s : State) (o : Out) : (s.emit o).lcCode = s.lcCode := rfl
@[simp] theorem State.fresh_scopeOpen_read (s : State) : s.fresh.scopeOpen = s.scopeOpen := rfl
@[simp] theorem State.emit_scopeOpen_read (s : State) (o : Out) : (s.emit o).scopeOpen = s.scopeOpen := rfl
@[simp] theorem State.fresh_logState_read (s : State) : s.fresh.logState = s.logState := rfl
@[simp] theorem State.emit_logState_read (s : State) (o : Out) : (s.emit o).logState = s.logState := rfl
@[simp] theorem State.fresh_halterPaused_read (s : State) : s.fresh.halterPaused = s.halterPaused := rfl
@[simp] theorem State.emit_halterPaused_read (s : State) (o : Out) : (s.emit o).halterPaused = s.halterPaused := rfl
@[simp] theorem State.fresh_leaf_read (s : State) (g k : Nat) : s.fresh.leaf g k = s.leaf g k := rfl
@[simp] theorem State.emit_leaf_read (s : State) (o : Out) (g k : Nat) : (s.emit o).leaf g k = s.leaf g k := rfl
@[simp] theorem State.fresh_bind_read (s : State) (n : Nat) : s.fresh.bind n = s.bind n := rfl
@[simp] theorem State.emit_bind_read (s : State) (o : Out) (n : Nat) : (s.emit o).bind n = s.bind n := rfl
@[simp] theorem State.fresh_overwrites_read (s : State) : s.fresh.overwrites = s.overwrites := rfl
@[simp] theorem State.emit_overwrites_read (s : State) (o : Out) : (s.emit o).overwrites = s.overwrites := rfl
@[simp] theorem State.fresh_constAct_read (s : State) : s.fresh.constAct = s.constAct := rfl
@[simp] theorem State.emit_constAct_read (s : State) (o : Out) : (s.emit o).constAct = s.constAct := rfl
@[simp] theorem State.fresh_dictOn_read (s : State) : s.fresh.dictOn = s.dictOn := rfl
@[simp] theorem State.emit_dictOn_read (s : State) (o : Out) : (s.emit o).dictOn = s.dictOn := rfl
@[simp] theorem State.fresh_serving_read (s : State) : s.fresh.serving = s.serving := rfl
@[simp] theorem State.emit_serving_read (s : State) (o : Out) : (s.emit o).serving = s.serving := rfl
@[simp] theorem State.modCore_leaf (s : State) (f : Core → Core) (g k : Nat) : (s.modCore f).leaf g k = s.leaf g k := rfl
@[simp] theorem State.modPwr_leaf (s : State) (f : Pwr → Pwr) (g k : Nat) : (s.modPwr f).leaf g k = s.leaf g k := rfl
@[simp] theorem State.modSup_leaf (s : State) (f : Sup → Sup) (g k : Nat) : (s.modSup f).leaf g k = s.leaf g k := rfl
@[simp] theorem State.modFuse_leaf (s : State) (f : Fuse → Fuse) (g k : Nat) : (s.modFuse f).leaf g k = s.leaf g k := rfl
@[simp] theorem State.modBoot_leaf (s : State) (f : Boot → Boot) (g k : Nat) : (s.modBoot f).leaf g k = s.leaf g k := rfl
@[simp] theorem State.modHal_leaf (s : State) (f : Hal → Hal) (g k : Nat) : (s.modHal f).leaf g k = s.leaf g k := rfl
@[simp] theorem State.modPorts_leaf (s : State) (f : List Port → List Port) (g k : Nat) : (s.modPorts f).leaf g k = s.leaf g k := rfl
@[simp] theorem State.modShed_leaf (s : State) (f : List Host.Cell → List Host.Cell) (g k : Nat) : (s.modShed f).leaf g k = s.leaf g k := rfl
@[simp] theorem State.modTagTable_leaf (s : State) (f : List (Nat × Bytes) → List (Nat × Bytes)) (g k : Nat) : (s.modTagTable f).leaf g k = s.leaf g k := rfl
@[simp] theorem State.modShedLost_leaf (s : State) (f : Bool → Bool) (g k : Nat) : (s.modShedLost f).leaf g k = s.leaf g k := rfl
@[simp] theorem State.modPldm_leaf (s : State) (f : Pldm → Pldm) (g k : Nat) : (s.modPldm f).leaf g k = s.leaf g k := rfl
@[simp] theorem State.modPar_leaf (s : State) (f : Par → Par) (g k : Nat) : (s.modPar f).leaf g k = s.leaf g k := rfl
@[simp] theorem State.modTack_leaf (s : State) (f : Tack → Tack) (g k : Nat) : (s.modTack f).leaf g k = s.leaf g k := rfl
@[simp] theorem State.modYard_leaf (s : State) (f : Yard → Yard) (g k : Nat) : (s.modYard f).leaf g k = s.leaf g k := rfl
@[simp] theorem State.modJobs_leaf (s : State) (f : List Job → List Job) (g k : Nat) : (s.modJobs f).leaf g k = s.leaf g k := rfl
@[simp] theorem State.modDevJobs_leaf (s : State) (f : List DevJob → List DevJob) (g k : Nat) : (s.modDevJobs f).leaf g k = s.leaf g k := rfl
@[simp] theorem State.modNextJob_leaf (s : State) (f : Nat → Nat) (g k : Nat) : (s.modNextJob f).leaf g k = s.leaf g k := rfl
@[simp] theorem State.modPads_leaf (s : State) (f : List Pad → List Pad) (g k : Nat) : (s.modPads f).leaf g k = s.leaf g k := rfl
@[simp] theorem State.modPmem_leaf (s : State) (f : Pmem → Pmem) (g k : Nat) : (s.modPmem f).leaf g k = s.leaf g k := rfl
@[simp] theorem State.modPci_leaf (s : State) (f : Pci → Pci) (g k : Nat) : (s.modPci f).leaf g k = s.leaf g k := rfl
@[simp] theorem State.modRdw_leaf (s : State) (f : Rdw → Rdw) (g k : Nat) : (s.modRdw f).leaf g k = s.leaf g k := rfl
@[simp] theorem State.modRdwSc_leaf (s : State) (f : Rdw → Rdw) (g k : Nat) : (s.modRdwSc f).leaf g k = s.leaf g k := rfl
@[simp] theorem State.modDmb_leaf (s : State) (f : Dmb → Dmb) (g k : Nat) : (s.modDmb f).leaf g k = s.leaf g k := rfl
@[simp] theorem State.modCas_leaf (s : State) (f : Cas → Cas) (g k : Nat) : (s.modCas f).leaf g k = s.leaf g k := rfl
@[simp] theorem State.modDict_leaf (s : State) (f : Dict → Dict) (g k : Nat) : (s.modDict f).leaf g k = s.leaf g k := rfl
@[simp] theorem State.modLog_leaf (s : State) (f : Log → Log) (g k : Nat) : (s.modLog f).leaf g k = s.leaf g k := rfl
@[simp] theorem State.modLc_leaf (s : State) (f : Lc → Lc) (g k : Nat) : (s.modLc f).leaf g k = s.leaf g k := rfl
@[simp] theorem State.modMon_leaf (s : State) (f : Mon → Mon) (g k : Nat) : (s.modMon f).leaf g k = s.leaf g k := rfl
@[simp] theorem State.modOut_leaf (s : State) (f : List Out → List Out) (g k : Nat) : (s.modOut f).leaf g k = s.leaf g k := rfl
@[simp] theorem State.logDueAdd_leaf (s : State) (d : LogDesc) (e : Effect) (g k : Nat) : (s.logDueAdd d e).leaf g k = s.leaf g k := rfl
@[simp] theorem State.logEv_leaf (s : State) (d : LogDesc) (g k : Nat) : (s.logEv d).leaf g k = s.leaf g k := rfl
@[simp] theorem State.ev_leaf (s : State) (sub fam : Nat) (e : Config.Ev) (l : List Nat) (g k : Nat) :
    (s.ev sub fam e l).leaf g k = s.leaf g k := rfl

theorem updAt_getD {α : Type} (l : List α) (i j : Nat) (f : α → α) (d : α) :
    (updAt l i f).getD j d = if j = i ∧ j < l.length then f (l.getD j d) else l.getD j d := by
  simp only [updAt, List.getD_eq_getElem?_getD, List.getElem?_mapIdx]
  by_cases hj : j < l.length
  · by_cases e : j = i
    · subst e; simp [hj]
    · simp [e]
  · have h : l[j]? = none := List.getElem?_eq_none_iff.mpr (Nat.not_lt.mp hj)
    simp [hj]

theorem setBit_getLsbD {w : Nat} (b : BitVec w) (k j : Nat) :
    (setBit b k).getLsbD j = (b.getLsbD j || (decide (j < w) && decide (j = k))) := by
  simp only [setBit, BitVec.getLsbD_or, BitVec.getLsbD_ofNat, Nat.testBit_two_pow, @eq_comm _ k j]

/-- A latched leaf is latched, and no other leaf changes (R508). -/
theorem State.latch_leaf (s : State) (g k i j : Nat) :
    (s.latch g k).leaf i j = (s.leaf i j || decide (i = g ∧ j = k ∧ i < s.atn.cause.length ∧ j < 16)) := by
  simp only [State.leaf, State.latch, State.modAtn, updAt_getD]
  by_cases h : i = g ∧ i < s.atn.cause.length
  · rw [if_pos h, setBit_getLsbD]
    simp [h.1, h.1 ▸ h.2, Bool.and_comm]
  · rw [if_neg h]
    have : ¬(i = g ∧ j = k ∧ i < s.atn.cause.length ∧ j < 16) := fun e => h ⟨e.1, e.2.2.1⟩
    simp [this]


end Sys2Proof.Machine
end

