-- ==== Sys2Proof/Laws/EffectsStart.lean ====
section
/-! SUPPORT. What the shared operations and the single commands do to the fields that the statements speak of: the start, the clock, the monitors and the Logbook ring. -/

set_option maxRecDepth 10000
set_option linter.unusedVariables false
set_option linter.unusedSimpArgs false

namespace Sys2Proof.Machine

open Sys2Proof

/-- Every path of the ROM ends in the jump or in a stop (R62, R64, R89). -/
theorem romRun_end (s : State) (r : RomInput) :
    (s.romRun r).boot.romDone = true ∧ ((s.romRun r).boot.handover.isSome ∨ (s.romRun r).boot.stuck.isSome) := by
  unfold State.romRun State.romAfterLc State.fullBoot
  repeat' first
    | split
    | (simp [State.romStop, State.romJump]; done)
    | dsimp only

/-- A start in state BOOTING, whatever comes before it (R21, R31, R547). -/
theorem State.beginStart_core (s : State) (c : ResetCause) :
    (s.beginStart c).core.op = .booting ∧ (s.beginStart c).core.resetCause = c ∧ (s.beginStart c).core.frameCt = 0 ∧
    (s.beginStart c).core.tick = 0 ∧ (s.beginStart c).core.fullReset = none ∧
    (s.beginStart c).core.starts = s.core.starts + 1 := by
  unfold State.beginStart
  dsimp only
  split <;> simp [State.clearVolatile]

/-- What a start clears and what it keeps (R548). -/
theorem State.beginStart_rest (s : State) (c : ResetCause) :
    (s.beginStart c).boot = bootReset s.boot.ledger s.boot.records ∧ (s.beginStart c).fuse = s.fuse ∧
    (s.beginStart c).tack = s.tack.atStart ∧ (s.beginStart c).jobs = [] ∧ (s.beginStart c).shed = [] ∧
    (s.beginStart c).pads = [padZero] ∧ (s.beginStart c).dict = s.dict.atStart ∧
    (s.beginStart c).log.entries = s.log.entries ∧ (s.beginStart c).pwr.link = false ∧
    (s.beginStart c).pwr.hoPol = s.pwr.hoPol ∧ (s.beginStart c).pwr.bootSel = s.pwr.bootSel ∧
    (s.beginStart c).pwr.cascadeId = s.pwr.cascadeId ∧ (s.beginStart c).pwr.vinGood = s.pwr.vinGood ∧
    (s.beginStart c).pwr.vioMg = s.pwr.vioMg ∧ (s.beginStart c).pwr.pll = s.pwr.pll := by
  unfold State.beginStart
  dsimp only
  split <;> simp [State.clearVolatile, State.ev, State.logEv, State.logDueAdd, Log.atStart]

/-- OFF (R17, R21): nothing on main power keeps its state. -/
theorem State.toOff_facts (s : State) :
    s.toOff.core.op = .off ∧ s.toOff.jobs = [] ∧ s.toOff.shed = [] ∧ s.toOff.fuse = s.fuse ∧ s.toOff.pads = [padZero] ∧
    s.toOff.tack = s.tack.atStart ∧ s.toOff.log.entries = s.log.entries ∧ s.toOff.pwr.link = false := by
  simp [State.toOff, State.clearVolatile, Log.atStart]

/-- The state that `setOp` enters (R17). -/
@[simp] theorem State.setOp_op (s : State) (o : Op) : (s.setOp o).core.op = o := by
  unfold State.setOp
  split
  · assumption
  · simp

/-- What a chain of operations leaves alone, read off as an equation. -/
theorem State.only.eq {L : List Part} {s t : State} (h : s.only L t) (p : Part) (hp : p ∉ L) : s.same p t := h p hp

/-- Stage 1 leaves BOOTING for HOLDING or ALARM_HALT (R21, R88), and the link trains with PERST_N (R547). -/
theorem State.leaveBooting_facts (s : State) (h : HoldInput) :
    ((s.leaveBooting h).core.op = .holding ∨ (s.leaveBooting h).core.op = .alarmHalt) ∧
    (s.leaveBooting h).core.frameCt = s.core.frameCt ∧ (s.leaveBooting h).pwr.link = s.pwr.perst := by
  have h0 : s.stageOne.core = s.core :=
    State.stageOne_only s (List.Subset.refl _) (State.only_refl _ s) .core (by decide)
  have p0 : s.stageOne.pwr = s.pwr :=
    State.stageOne_only s (List.Subset.refl _) (State.only_refl _ s) .pwr (by decide)
  have hc : ∀ t : State, t.confirmTrial.core = t.core ∧ t.confirmTrial.pwr = t.pwr := fun t =>
    ⟨State.confirmTrial_only t (List.Subset.refl _) (State.only_refl _ t) .core (by decide),
     State.confirmTrial_only t (List.Subset.refl _) (State.only_refl _ t) .pwr (by decide)⟩
  have hb : ∀ t : State, t.beginAlarmHold.core = t.core ∧ t.beginAlarmHold.pwr = t.pwr := fun t =>
    ⟨State.beginAlarmHold_only t (List.Subset.refl _) (State.only_refl _ t) .core (by decide),
     State.beginAlarmHold_only t (List.Subset.refl _) (State.only_refl _ t) .pwr (by decide)⟩
  have ha : ∀ t : State, (t.holdingActs h).core = t.core ∧ (t.holdingActs h).pwr = t.pwr := fun t =>
    ⟨State.holdingActs_only t h (List.Subset.refl _) (State.only_refl _ t) .core (by decide),
     State.holdingActs_only t h (List.Subset.refl _) (State.only_refl _ t) .pwr (by decide)⟩
  have hs : ∀ (t : State) (o : Op), (t.setOp o).core.frameCt = t.core.frameCt ∧ (t.setOp o).pwr = t.pwr := by
    intro t o; unfold State.setOp; split <;> simp
  have hn : ∀ t : State, t.snapBlocks.core = t.core ∧ t.snapBlocks.pwr = t.pwr := fun t =>
    ⟨State.snapBlocks_only t (List.Subset.refl _) (State.only_refl _ t) .core (by decide),
     State.snapBlocks_only t (List.Subset.refl _) (State.only_refl _ t) .pwr (by decide)⟩
  unfold State.leaveBooting
  dsimp only
  split <;> split <;> split <;> simp [hc, hb, ha, hs, h0, p0, hn]

theorem clearBit_getLsbD {w : Nat} (b : BitVec w) (k j : Nat) :
    (clearBits b (BitVec.ofNat w (2 ^ k))).getLsbD j = (b.getLsbD j && decide (j ≠ k)) := by
  simp only [clearBits, BitVec.getLsbD_and, BitVec.getLsbD_not, BitVec.getLsbD_ofNat, Nat.testBit_two_pow]
  by_cases h : j < w
  · by_cases e : j = k <;> simp [h, e, @eq_comm _ k j]
  · simp [h]
    intro h'
    exact absurd (BitVec.lt_of_getLsbD h') h

/-- The counts of frames are as they were. -/
def State.sameFrame (s t : State) : Prop := t.core.frameCt = s.core.frameCt ∧ t.core.tick = s.core.tick

/-- The mode and the counts of frames and of starts are as they were. -/
def State.counts (s t : State) : Prop :=
  t.core.op = s.core.op ∧ t.core.frameCt = s.core.frameCt ∧ t.core.tick = s.core.tick ∧ t.core.starts = s.core.starts

theorem State.counts_refl (s : State) : s.counts s := ⟨rfl, rfl, rfl, rfl⟩

theorem State.counts_of {L : List Part} {σ s t : State} (h : s.only L t) (hp : Part.core ∉ L) (hs : σ.counts s) :
    σ.counts t := by
  unfold State.counts at *; rw [h .core hp]; exact hs

theorem ite_counts {σ s t : State} {p : Prop} [Decidable p] (h1 : σ.counts s) (h2 : σ.counts t) :
    σ.counts (if p then s else t) := by split <;> assumption

theorem ite_counts_snd {α : Type} {σ : State} {s t : α × State} {p : Prop} [Decidable p] (h1 : σ.counts s.2) (h2 : σ.counts t.2) :
    σ.counts (if p then s else t).2 := by split <;> assumption

theorem foldl_counts {α : Type} {σ : State} (l : List α) (f : State → α → State) (s : State)
    (h : ∀ (s : State) x, σ.counts s → σ.counts (f s x)) (hs : σ.counts s) : σ.counts (l.foldl f s) := by
  induction l generalizing s with
  | nil => exact hs
  | cons x l ih => exact ih _ (h s x hs)

theorem State.putLedger_counts {σ : State} (s : State) (f : DevLedger → DevLedger) (hs : σ.counts s) : σ.counts
    (State.putLedger s f) :=
  State.counts_of (State.putLedger_only s f (List.Subset.refl _) (State.only_refl _ _)) (by decide) hs

theorem State.confirmTrial_counts {σ : State} (s : State) (hs : σ.counts s) : σ.counts (State.confirmTrial s) :=
  State.counts_of (State.confirmTrial_only s (List.Subset.refl _) (State.only_refl _ _)) (by decide) hs

theorem State.resumeSchedule_counts {σ : State} (s : State) (hs : σ.counts s) : σ.counts (State.resumeSchedule s) :=
  State.counts_of (State.resumeSchedule_only s (List.Subset.refl _) (State.only_refl _ _)) (by decide) hs

theorem State.clearHolds_counts {σ : State} (s : State) (w : Nat) (hs : σ.counts s) : σ.counts (State.clearHolds s w) :=
  State.counts_of (State.clearHolds_only s w (List.Subset.refl _) (State.only_refl _ _)) (by decide) hs

theorem State.manifestWritten_counts {σ : State} (s : State) (n : Nat) (x : Slot) (v : Bytes) (hs : σ.counts s) :
    σ.counts (State.manifestWritten s n x v) :=
  State.counts_of (State.manifestWritten_only s n x v (List.Subset.refl _) (State.only_refl _ _)) (by decide) hs

theorem State.advertise_counts {σ : State} (s : State) (n : Nat) (hs : σ.counts s) : σ.counts (State.advertise s n) :=
  State.counts_of (State.advertise_only s n (List.Subset.refl _) (State.only_refl _ _)) (by decide) hs

theorem State.portActivate_counts {σ : State} (s : State) (n : Nat) (x : Slot) (hs : σ.counts s) : σ.counts
    (State.portActivate s n x) :=
  State.counts_of (State.portActivate_only s n x (List.Subset.refl _) (State.only_refl _ _)) (by decide) hs

theorem State.confirmPort_counts {σ : State} (s : State) (n : Nat) (hs : σ.counts s) : σ.counts (State.confirmPort s n)
    :=
  State.counts_of (State.confirmPort_only s n (List.Subset.refl _) (State.only_refl _ _)) (by decide) hs

theorem State.recoverAsk_counts {σ : State} (s : State) (n : Nat) (hs : σ.counts s) : σ.counts (State.recoverAsk s n) :=
  State.counts_of (State.recoverAsk_only s n (List.Subset.refl _) (State.only_refl _ _)) (by decide) hs

theorem State.storeNow_counts {σ : State} (s : State) (key : Nat) (v : Bytes) (hs : σ.counts s) : σ.counts
    (State.storeNow s key v) :=
  State.counts_of (State.storeNow_only s key v (List.Subset.refl _) (State.only_refl _ _)) (by decide) hs

theorem State.commit_counts {σ : State} (s : State) (hs : σ.counts s) : σ.counts (State.commit s) :=
  State.counts_of (State.commit_only s (List.Subset.refl _) (State.only_refl _ _)) (by decide) hs

theorem State.lcRequest_counts {σ : State} (s : State) (v : Bytes) (hs : σ.counts s) : σ.counts (State.lcRequest s v) :=
  State.counts_of (State.lcRequest_only s v (List.Subset.refl _) (State.only_refl _ _)) (by decide) hs

theorem State.putMark_counts {σ : State} (s : State) (m : Option LcMark) (hs : σ.counts s) : σ.counts (State.putMark s
    m) :=
  State.counts_of (State.putMark_only s m (List.Subset.refl _) (State.only_refl _ _)) (by decide) hs

theorem State.debugOpen_counts {σ : State} (s : State) (t : Bytes) (hs : σ.counts s) : σ.counts (State.debugOpen s t) :=
  State.counts_of (State.debugOpen_only s t (List.Subset.refl _) (State.only_refl _ _)) (by decide) hs

theorem State.endNonce_counts {σ : State} (s : State) (hs : σ.counts s) : σ.counts (State.endNonce s) :=
  State.counts_of (State.endNonce_only s (List.Subset.refl _) (State.only_refl _ _)) (by decide) hs

theorem State.srkGenerated_counts {σ : State} (s : State) (hs : σ.counts s) : σ.counts (State.srkGenerated s) :=
  State.counts_of (State.srkGenerated_only s (List.Subset.refl _) (State.only_refl _ _)) (by decide) hs

theorem State.runCommand_counts {σ : State} (s : State) (c : KeyCmd) (hs : σ.counts s) : σ.counts ((State.runCommand s
    c).2) :=
  State.counts_of (State.runCommand_only s c (List.Subset.refl _) (State.only_refl _ _)) (by decide) hs

theorem State.timetableLoaded_counts {σ : State} (s : State) (v : Bytes) (hs : σ.counts s) : σ.counts
    (State.timetableLoaded s v) :=
  State.counts_of (State.timetableLoaded_only s v (List.Subset.refl _) (State.only_refl _ _)) (by decide) hs

theorem State.modYard_counts {σ : State} (s : State) (f : Yard → Yard) (hs : σ.counts s) : σ.counts (State.modYard s f)
    := hs

theorem State.retestPairs_counts {σ : State} (s : State) (hs : σ.counts s) : σ.counts (State.retestPairs s) :=
  State.counts_of (State.retestPairs_only s (List.Subset.refl _) (State.only_refl _ _)) (by decide) hs

theorem State.clearMonitors_counts {σ : State} (s : State) (m : BitVec 24) (hs : σ.counts s) : σ.counts
    (State.clearMonitors s m) :=
  State.counts_of (State.clearMonitors_only s m (List.Subset.refl _) (State.only_refl _ _)) (by decide) hs

theorem State.beginTest_counts {σ : State} (s : State) (n : Nat) (hs : σ.counts s) : σ.counts (State.beginTest s n) :=
  State.counts_of (State.beginTest_only s n (List.Subset.refl _) (State.only_refl _ _)) (by decide) hs

theorem State.modPwr_counts {σ : State} (s : State) (f : Pwr → Pwr) (hs : σ.counts s) : σ.counts (State.modPwr s f) := hs

theorem State.logLatches_counts {σ : State} (s : State) (hs : σ.counts s) : σ.counts (State.logLatches s) :=
  State.counts_of (State.logLatches_only s (List.Subset.refl _) (State.only_refl _ _)) (by decide) hs

theorem State.promote_counts {σ : State} (s : State) (hs : σ.counts s) : σ.counts (State.promote s) :=
  State.counts_of (State.promote_only s (List.Subset.refl _) (State.only_refl _ _)) (by decide) hs

theorem State.clearLeaves_counts {σ : State} (s : State) (g : Nat) (m : BitVec 16) (hs : σ.counts s) : σ.counts
    (State.clearLeaves s g m) :=
  State.counts_of (State.clearLeaves_only s g m (List.Subset.refl _) (State.only_refl _ _)) (by decide) hs

theorem State.modDict_counts {σ : State} (s : State) (f : Dict → Dict) (hs : σ.counts s) : σ.counts (State.modDict s f)
    := hs

theorem State.latch_counts {σ : State} (s : State) (g k : Nat) (hs : σ.counts s) : σ.counts (State.latch s g k) :=
  State.counts_of (State.latch_only s g k (List.Subset.refl _) (State.only_refl _ _)) (by decide) hs

theorem State.policyWritten_counts {σ : State} (s : State) (k : Nat) (hs : σ.counts s) : σ.counts (State.policyWritten s
    k) :=
  State.counts_of (State.policyWritten_only s k (List.Subset.refl _) (State.only_refl _ _)) (by decide) hs

theorem State.monoAdd_counts {σ : State} (s : State) (n k : Nat) (hs : σ.counts s) : σ.counts ((State.monoAdd s n k).2)
    :=
  State.counts_of (State.monoAdd_only s n k (List.Subset.refl _) (State.only_refl _ _)) (by decide) hs

theorem State.modAtn_counts {σ : State} (s : State) (f : Atn → Atn) (hs : σ.counts s) : σ.counts (State.modAtn s f) := hs

theorem State.written_counts {σ : State} (s : State) (key : Nat) (v : Bytes) (hs : σ.counts s) : σ.counts (State.written
    s key v) :=
  State.counts_of (State.written_only s key v (List.Subset.refl _) (State.only_refl _ _)) (by decide) hs

theorem State.modTack_counts {σ : State} (s : State) (f : Tack → Tack) (hs : σ.counts s) : σ.counts (State.modTack s f)
    := hs

theorem State.finish_counts {σ : State} (s : State) (d : LogDesc) (r : Reply) (hs : σ.counts s) : σ.counts (State.finish
    s d r) :=
  State.counts_of (State.finish_only s d r (List.Subset.refl _) (State.only_refl _ _)) (by decide) hs

theorem State.endProposal_counts {σ : State} (s : State) (p : Proposal) (code : Nat) (hs : σ.counts s) : σ.counts
    (State.endProposal s p code) :=
  State.counts_of (State.endProposal_only s p code (List.Subset.refl _) (State.only_refl _ _)) (by decide) hs

theorem State.sendRemote_counts {σ : State} (s : State) (target key : Nat) (v : Bytes) (hs : σ.counts s) : σ.counts
    (State.sendRemote s target key v) :=
  State.counts_of (State.sendRemote_only s target key v (List.Subset.refl _) (State.only_refl _ _)) (by decide) hs

theorem State.jobApply_counts {σ : State} (s : State) (id : Nat) (hs : σ.counts s) : σ.counts (State.jobApply s id) :=
  State.counts_of (State.jobApply_only s id (List.Subset.refl _) (State.only_refl _ _)) (by decide) hs

theorem State.mgrApply_counts {σ : State} (s : State) (c : Bytes) (who : Nat) (hs : σ.counts s) : σ.counts
    (State.mgrApply s c who) :=
  State.counts_of (State.mgrApply_only s c who (List.Subset.refl _) (State.only_refl _ _)) (by decide) hs

theorem State.dropProposal_counts {σ : State} (s : State) (p : Proposal) (hs : σ.counts s) : σ.counts
    (State.dropProposal s p) :=
  State.counts_of (State.dropProposal_only s p (List.Subset.refl _) (State.only_refl _ _)) (by decide) hs

theorem State.effFail_counts {σ : State} (s : State) (d : LogDesc) (e : Effect) (st : Nat) (hs : σ.counts s) : σ.counts
    (State.effFail s d e st) :=
  State.counts_of (State.effFail_only s d e st (List.Subset.refl _) (State.only_refl _ _)) (by decide) hs

theorem State.writeEvent_counts {σ : State} (s : State) (d : LogDesc) (hs : σ.counts s) : σ.counts (State.writeEvent s
    d) :=
  State.counts_of (State.writeEvent_only s d (List.Subset.refl _) (State.only_refl _ _)) (by decide) hs

theorem State.ringPut_counts {σ : State} (s : State) (mk : Log → Bytes) (hs : σ.counts s) : σ.counts (State.ringPut s
    mk) :=
  State.counts_of (State.ringPut_only s mk (List.Subset.refl _) (State.only_refl _ _)) (by decide) hs

theorem State.logDueAdd_counts {σ : State} (s : State) (d : LogDesc) (e : Effect) (hs : σ.counts s) : σ.counts
    (State.logDueAdd s d e) :=
  State.counts_of (State.logDueAdd_only s d e (List.Subset.refl _) (State.only_refl _ _)) (by decide) hs

theorem State.refusedValue_counts {σ : State} (s : State) (key : Nat) (v : Bytes) (e : Nat) (hs : σ.counts s) : σ.counts
    (State.refusedValue s key v e) :=
  State.counts_of (State.refusedValue_only s key v e (List.Subset.refl _) (State.only_refl _ _)) (by decide) hs

theorem State.authDone_counts {σ : State} (s : State) (x : Sess) (seq : Nat) (key : Bytes) (ok : Bool) (hs : σ.counts s)
    : σ.counts (State.authDone s x seq key ok) :=
  State.counts_of (State.authDone_only s x seq key ok (List.Subset.refl _) (State.only_refl _ _)) (by decide) hs

theorem State.updateChecked_counts {σ : State} (s : State) (hs : σ.counts s) : σ.counts (State.updateChecked s) :=
  State.counts_of (State.updateChecked_only s (List.Subset.refl _) (State.only_refl _ _)) (by decide) hs

theorem State.signDone_counts {σ : State} (s : State) (t peer : Nat) (hs : σ.counts s) : σ.counts (State.signDone s t
    peer) :=
  State.counts_of (State.signDone_only s t peer (List.Subset.refl _) (State.only_refl _ _)) (by decide) hs

theorem State.partnerChecked_counts {σ : State} (s : State) (k run left : Nat) (payload : Bytes) (ok : Bool) (session :
    Nat) (hs : σ.counts s) : σ.counts (State.partnerChecked s k run left payload ok session) :=
  State.counts_of (State.partnerChecked_only s k run left payload ok session (List.Subset.refl _) (State.only_refl _ _)) (by decide) hs

theorem State.modDevJobs_counts {σ : State} (s : State) (f : List DevJob → List DevJob) (hs : σ.counts s) : σ.counts
    (State.modDevJobs s f) := hs

theorem State.fullResetDue_counts {σ : State} (s : State) (c : ResetCause) (hs : σ.counts s) : σ.counts
    (State.fullResetDue s c) := hs

theorem State.applyPlatform_counts {σ : State} (s : State) (key : Nat) (v : Bytes) (hs : σ.counts s) : σ.counts
    (State.applyPlatform s key v) := by
  unfold State.applyPlatform
  repeat' first
    | with_reducible first
        | assumption | apply State.putLedger_counts | apply State.confirmTrial_counts
        | apply State.fullResetDue_counts | apply State.resumeSchedule_counts | apply State.clearHolds_counts
        | apply State.manifestWritten_counts | apply State.advertise_counts | apply State.portActivate_counts
        | apply State.confirmPort_counts | apply State.recoverAsk_counts | refine ite_counts ?_ ?_
    | (intro _ _ _) | (intro _ _) | split | (dsimp only)

theorem State.clearActing_counts {σ : State} (s : State) (hs : σ.counts s) : σ.counts (State.clearActing s) := by
  unfold State.clearActing
  repeat' first
    | with_reducible first
        | assumption | apply State.storeNow_counts | apply State.fullResetDue_counts | refine ite_counts ?_ ?_
    | split | (dsimp only)

theorem State.applyUnit_counts {σ : State} (s : State) (key : Nat) (v : Bytes) (hs : σ.counts s) : σ.counts
    ((State.applyUnit s key v).2) := by
  unfold State.applyUnit
  repeat' first
    | with_reducible first
        | assumption | apply State.commit_counts | apply State.lcRequest_counts | apply State.putMark_counts
        | apply State.debugOpen_counts | apply State.endNonce_counts | apply State.srkGenerated_counts
        | apply State.runCommand_counts | apply State.timetableLoaded_counts | apply State.modYard_counts
        | apply State.retestPairs_counts | apply State.clearMonitors_counts | apply State.beginTest_counts
        | apply State.modPwr_counts | apply State.logLatches_counts | apply State.promote_counts
        | apply State.clearLeaves_counts | apply State.modDict_counts | apply State.latch_counts
        | apply State.policyWritten_counts | apply State.monoAdd_counts | apply State.modAtn_counts
        | apply State.applyPlatform_counts | apply State.modYard_counts | apply State.modPwr_counts
        | apply State.modDict_counts | apply State.modAtn_counts | refine ite_counts ?_ ?_
        | refine ite_counts_snd ?_ ?_
    | (intro _ _ _) | (intro _ _) | split | (dsimp only)

theorem State.applyEntry_counts {σ : State} (s : State) (key : Nat) (v : Bytes) (hs : σ.counts s) : σ.counts
    ((State.applyEntry s key v).2) := by
  unfold State.applyEntry
  repeat' first
    | with_reducible first
        | assumption | apply State.clearActing_counts | apply State.written_counts | apply State.modTack_counts
        | apply State.applyUnit_counts | apply State.modTack_counts | refine ite_counts ?_ ?_
        | refine ite_counts_snd ?_ ?_
    | (intro _ _ _) | (intro _ _) | split | (dsimp only)

theorem State.restoreDefaults_counts {σ : State} (s : State) (hs : σ.counts s) : σ.counts (State.restoreDefaults s) :=
    by
  unfold State.restoreDefaults
  repeat' first
    | with_reducible first
        | assumption | apply State.modDict_counts | apply State.applyEntry_counts | apply State.latch_counts
        | apply State.modDict_counts | refine foldl_counts _ _ _ ?_ ?_ | refine ite_counts ?_ ?_
        | refine ite_counts_snd ?_ ?_
    | (intro _ _ _) | (intro _ _) | split | (dsimp only)

theorem State.takeWrite_counts {σ : State} (s : State) (key : Nat) (v : Bytes) (hs : σ.counts s) : σ.counts
    ((State.takeWrite s key v).2) := by
  unfold State.takeWrite
  repeat' first
    | with_reducible first
        | assumption | apply State.applyEntry_counts | apply State.restoreDefaults_counts | refine ite_counts ?_ ?_
        | refine ite_counts_snd ?_ ?_
    | split | (dsimp only)

theorem State.effApply_counts {σ : State} (s : State) (d : LogDesc) (e : Effect) (hs : σ.counts s) : σ.counts
    (State.effApply s d e) := by
  unfold State.effApply
  repeat' first
    | with_reducible first
        | assumption | apply State.takeWrite_counts | apply State.finish_counts | apply State.endProposal_counts
        | apply State.modDict_counts | apply State.latch_counts | apply State.sendRemote_counts
        | apply State.jobApply_counts | apply State.modTack_counts | apply State.mgrApply_counts
        | apply State.dropProposal_counts | apply State.modDict_counts | apply State.modTack_counts
        | refine foldl_counts _ _ _ ?_ ?_ | refine ite_counts ?_ ?_ | refine ite_counts_snd ?_ ?_
    | (intro _ _ _) | (intro _ _) | split | (dsimp only)

theorem State.writeChange_counts {σ : State} (s : State) (d : LogDesc) (e : Effect) (hs : σ.counts s) : σ.counts
    (State.writeChange s d e) := by
  unfold State.writeChange
  repeat' first
    | with_reducible first
        | assumption | apply State.effFail_counts | apply State.writeEvent_counts | apply State.ringPut_counts
        | apply State.effApply_counts | refine ite_counts ?_ ?_
    | (intro _ _ _) | (intro _ _) | split | (dsimp only)

theorem State.logChange_counts {σ : State} (s : State) (d : LogDesc) (e : Effect) (hs : σ.counts s) : σ.counts
    (State.logChange s d e) := by
  unfold State.logChange
  repeat' first
    | with_reducible first
        | assumption | apply State.effFail_counts | apply State.logDueAdd_counts | apply State.writeChange_counts
        | refine ite_counts ?_ ?_
    | split | (dsimp only)

theorem State.askWrite_counts {σ : State} (s : State) (x : Sess) (key : Nat) (v : Bytes) (hs : σ.counts s) : σ.counts
    (State.askWrite s x key v) := by
  unfold State.askWrite
  repeat' first
    | with_reducible first
        | assumption | apply State.finish_counts | apply State.logChange_counts | refine ite_counts ?_ ?_
    | split | (dsimp only)

theorem State.writeReady_counts {σ : State} (s : State) (x : Sess) (key : Nat) (v : Bytes) (hs : σ.counts s) : σ.counts
    (State.writeReady s x key v) := by
  unfold State.writeReady
  repeat' first
    | with_reducible first
        | assumption | apply State.refusedValue_counts | apply State.finish_counts | apply State.askWrite_counts
        | refine ite_counts ?_ ?_
    | split | (dsimp only)

theorem State.approveReady_counts {σ : State} (s : State) (x : Sess) (id : Nat) (hs : σ.counts s) : σ.counts
    (State.approveReady s x id) := by
  unfold State.approveReady
  repeat' first
    | with_reducible first
        | assumption | apply State.finish_counts | apply State.refusedValue_counts | apply State.logChange_counts
        | refine ite_counts ?_ ?_
    | split | (dsimp only)

theorem State.c0End_counts {σ : State} (s : State) (a : C0End) (hs : σ.counts s) : σ.counts (State.c0End s a) := by
  unfold State.c0End
  repeat' first
    | with_reducible first
        | assumption | apply State.authDone_counts | apply State.writeReady_counts | apply State.approveReady_counts
        | apply State.updateChecked_counts | apply State.signDone_counts | apply State.partnerChecked_counts
        | refine ite_counts ?_ ?_
    | split | (dsimp only)

theorem State.c0Ends_counts {σ : State} (s : State) (hs : σ.counts s) : σ.counts (State.c0Ends s) := by
  unfold State.c0Ends
  repeat' first
    | with_reducible first
        | assumption | apply State.modDevJobs_counts | apply State.c0End_counts | apply State.modDevJobs_counts
        | refine foldl_counts _ _ _ ?_ ?_ | refine ite_counts ?_ ?_
    | (intro _ _ _) | (intro _ _) | split | (dsimp only)

/-- The counts of frames and of starts and a pending full reset are as they were. -/
def State.clockAs (s t : State) : Prop :=
  t.core.frameCt = s.core.frameCt ∧ t.core.tick = s.core.tick ∧ t.core.fullReset = s.core.fullReset ∧
    t.core.starts = s.core.starts

theorem State.clockAs.trans {r s t : State} (a : r.clockAs s) (b : s.clockAs t) : r.clockAs t :=
  ⟨b.1.trans a.1, b.2.1.trans a.2.1, b.2.2.1.trans a.2.2.1, b.2.2.2.trans a.2.2.2⟩

theorem State.clockAs_of_core {s t : State} (h : t.core = s.core) : s.clockAs t := by simp [State.clockAs, h]

theorem State.only.clock {L : List Part} {s t : State} (h : s.only L t) (hp : Part.core ∉ L) : s.clockAs t :=
  State.clockAs_of_core (h .core hp)

theorem State.foldl_clock {α : Type} (l : List α) (f : State → α → State) (s : State)
    (h : ∀ (s : State) x, s.clockAs (f s x)) : s.clockAs (l.foldl f s) := by
  induction l generalizing s with
  | nil => exact State.clockAs_of_core rfl
  | cons x l ih => exact (h s x).trans (ih _)

theorem State.hotReset_clock (s : State) : s.clockAs s.hotReset := by
  have ha : ∀ (t : State) (n : Nat), t.clockAs (t.abortJob n none) := fun t n =>
    (State.abortJob_only t n none (List.Subset.refl _) (State.only_refl _ t)).clock (by decide)
  have hp : s.clockAs s.pfMailboxes := by
    unfold State.pfMailboxes
    extract_lets s1 s2 s3 s4
    have h1 : s.clockAs s1 := by
      unfold s1
      split
      · split
        · exact ha _ _
        · exact State.clockAs_of_core rfl
      · exact State.clockAs_of_core rfl
    exact h1.trans ⟨rfl, rfl, rfl, rfl⟩
  unfold State.hotReset
  exact hp.trans (State.clockAs.trans (s := (s.pfMailboxes.latch 23 11).resetPads (0 :: vfPads ++ slicePads))
    ((State.resetPads_only _ _ (List.Subset.refl _) (State.only_refl _ (s.pfMailboxes.latch 23 11))).clock (by decide))
    (State.foldl_clock _ _ _ (fun t n =>
      (State.msixReset_only t n (List.Subset.refl _) (State.only_refl _ t)).clock (by decide))))

theorem State.dropLink_clock (s : State) : s.clockAs s.dropLink := by
  unfold State.dropLink
  split
  · exact (State.hotReset_clock s).trans (State.clockAs_of_core (State.modPwr_core _ _))
  · exact State.clockAs_of_core rfl

theorem State.setOp_clock (s : State) (o : Op) : s.clockAs (s.setOp o) := by
  unfold State.setOp; split <;> simp [State.clockAs]

theorem State.alarmRespond_clock (s : State) : s.clockAs s.alarmRespond := by
  have hb : ∀ t : State, t.clockAs t.beginAlarmHold := fun t =>
    (State.beginAlarmHold_only t (List.Subset.refl _) (State.only_refl _ t)).clock (by decide)
  have hc : ∀ t : State, t.clockAs t.classT := fun t =>
    (State.classT_only t (List.Subset.refl _) (State.only_refl _ t)).clock (by decide)
  unfold State.alarmRespond
  extract_lets l s1 s2 s3 z
  have h1 : s.clockAs s1 := ⟨rfl, rfl, rfl, rfl⟩
  have h2 : s.clockAs s2 := by unfold s2; split; exact h1.trans (hb _); exact h1
  have h3 : s.clockAs s3 := by unfold s3; split; exact h2.trans (hc _); exact h2
  have h4 : ∀ (t : State) (x : Op), t.clockAs ((t.modCore (fun c => { c with before := c.op, zSince := z })).setOp x) :=
    fun t x => State.clockAs.trans (s := t.modCore (fun c => { c with before := c.op, zSince := z })) ⟨rfl, rfl, rfl, rfl⟩
      (State.setOp_clock _ _)
  split
  · exact h3
  · split
    · exact h3.trans ⟨rfl, rfl, rfl, rfl⟩
    all_goals first
      | exact h3
      | (split
         · exact h3.trans ((h4 _ _).trans ⟨rfl, rfl, rfl, rfl⟩)
         · exact h3.trans (h4 _ _))

theorem State.startRecovery_clock (s : State) (n : Nat) : s.clockAs (s.startRecovery n) := by
  have hb : ∀ (t : State), t.clockAs (t.beginPortHold n) := fun t =>
    (State.beginPortHold_only t n (List.Subset.refl _) (State.only_refl _ t)).clock (by decide)
  have he : ∀ (t : State), t.clockAs t.endTransfer := fun t =>
    (State.endTransfer_only t (List.Subset.refl _) (State.only_refl _ t)).clock (by decide)
  have hv : ∀ (t : State), t.clockAs (t.enterVerify n) := fun t =>
    (State.enterVerify_only t n (List.Subset.refl _) (State.only_refl _ t)).clock (by decide)
  unfold State.startRecovery
  extract_lets s1 s2 s3 s4 s5
  have h1 : s.clockAs s1 := ⟨rfl, rfl, rfl, rfl⟩
  have h4 : s.clockAs s4 := (h1.trans ((State.setOp_clock _ _).trans (hb _))).trans ⟨rfl, rfl, rfl, rfl⟩
  have h5 : s.clockAs s5 := by unfold s5; split; exact h4.trans (he _); exact h4
  split
  · exact h1.trans ⟨rfl, rfl, rfl, rfl⟩
  · split
    · exact h1.trans ⟨rfl, rfl, rfl, rfl⟩
    · split
      · exact h5.trans (hv _)
      · exact h5

theorem State.takeRecoveries_clock (s : State) (b : Bool) : s.clockAs (s.takeRecoveries b) := by
  refine State.foldl_clock _ _ _ (fun t n => ?_)
  split
  · split
    · exact ⟨rfl, rfl, rfl, rfl⟩
    · exact State.startRecovery_clock _ _
  · exact ⟨rfl, rfl, rfl, rfl⟩

theorem State.enterSleep_clock (s : State) : s.clockAs s.enterSleep := by
  have hd : ∀ (t : State), t.clockAs t.dropLink := State.dropLink_clock
  have hh : ∀ (t : State) (n : Nat), t.clockAs (t.toHold n) := fun t n =>
    (State.toHold_only t n (List.Subset.refl _) (State.only_refl _ t)).clock (by decide)
  unfold State.enterSleep
  split
  · exact ⟨rfl, rfl, rfl, rfl⟩
  · extract_lets s1 s2 s3 s4 s5 s6 s7 s8
    split
    · exact State.clockAs_of_core rfl
    · have h2 : s.clockAs s2 := State.clockAs.trans (s := s1) (State.clockAs_of_core (State.modPwr_core _ _)) (hd s1)
      have h3 : s.clockAs s3 := h2.trans (State.foldl_clock _ _ _ hh)
      clear_value s3
      have h7 : s.clockAs s8 := h3.trans (State.clockAs_of_core (by
        simp only [s8, s7, s6, s5, s4, State.modCas_core, State.modSup_core, State.modLog_core, State.modYard_core, State.modDevJobs_core,
          State.modJobs_core]))
      clear_value s8
      exact (h7.trans (State.setOp_clock _ _)).trans (State.clockAs_of_core (State.modPwr_core _ _))

/-- A boundary of a working or halted device counts one frame, unless a full reset is due (R5, R21, R33). -/
theorem State.workBoundary_clock (s : State) (calm : Bool) (h : s.core.fullReset = none) :
    s.sameFrame (s.workBoundary calm) := by
  have ho : ∀ (t : State), t.core.fullReset = none → t.clockAs t.orderTwo := by
    intro t ht
    unfold State.orderTwo
    extract_lets op s1 s2 s3
    have h1 : t.clockAs s1 := by unfold s1; split; exact ⟨rfl, rfl, rfl, rfl⟩; exact State.alarmRespond_clock t
    have h2 : t.clockAs s2 := by
      refine h1.trans ((State.monConfigs_only _ (List.Subset.trans (by decide) (List.Subset.refl
        [.pwr, .par, .tack, .yard, .jobs, .devJobs, .nextJob, .pads, .pci, .cas, .dict, .log, .lc, .mon, .atn, .hal, .sup, .ports, .shed, .tagTable, .shedLost, .pmem, .rdw, .rdwSc, .dmb, .boot, .pldm, .out]))
        ?_).clock (by decide))
      repeat' first
        | with_reducible apply State.endChannels_only
        | with_reducible apply State.orphan_only
        | with_reducible apply State.sendChanges_only
        | with_reducible apply State.runCancels_only
        | with_reducible apply State.openScopes_only
        | with_reducible apply State.strikePads_only
        | with_reducible apply State.runStrikes_only
        | with_reducible apply State.haltAborts_only
        | with_reducible apply State.runReplicas_only
        | exact State.only_refl _ _
        | decide
    have h3 : t.clockAs s3 := h2.trans ((State.takeRecoveries_clock _ _).trans (State.enterSleep_clock _))
    have h4 : s3.core.fullReset = none := h3.2.2.1.trans ht
    rw [h4]
    dsimp only
    split
    · exact h3.trans (State.setOp_clock _ _)
    · exact h3
  have h1 : s.clockAs (s.endSteps.takeSwitch s.core.frameCt) :=
    ((State.endSteps_only s (List.Subset.refl _) (State.only_refl _ s)).clock (by decide)).trans
      ((State.takeSwitch_only _ _ (List.Subset.refl _) (State.only_refl _ _)).clock (by decide))
  have h2 := h1.trans (ho _ (h1.2.2.1.trans h))
  have h0 : s.sameFrame (s.endSteps.takeSwitch s.core.frameCt).orderTwo := ⟨h2.1, h2.2.1⟩
  unfold State.workBoundary
  extract_lets s1 s2 s3 s4 s5 s6
  have h3 : s.clockAs s2 := h2.trans (State.clockAs.trans (s := s1.fixHold calm)
    ((State.fixHold_only s1 calm (List.Subset.refl _) (State.only_refl _ s1)).clock (by decide))
    ((State.domainsBoundary_only _ (List.Subset.refl _) (State.only_refl _ _)).clock (by decide)))
  have h4 : s.clockAs s3 := h3.trans ((State.slotLeaves_only _ (List.Subset.refl _) (State.only_refl _ _)).clock (by decide))
  have h5 : s.clockAs s4 := by
    unfold s4; split
    · exact h4.trans ((State.runYard_only _ (List.Subset.refl _) (State.only_refl _ _)).clock (by decide))
    · exact h4
  clear_value s4
  have h6 : s.clockAs s5 :=
    ((h5.trans ((State.noteWaiting_only _ (List.Subset.refl _) (State.only_refl _ _)).clock (by decide))).trans
      ((State.dummySteps_only _ (List.Subset.refl _) (State.only_refl _ _)).clock (by decide))).trans
      ((State.portsFrame_only _ (List.Subset.refl _) (State.only_refl _ _)).clock (by decide))
  have h7 : s5.counts s6 := by
    unfold s6
    clear_value s5
    split
    · exact State.counts_of (State.pldmBoundary_only _ (List.Subset.refl _) (State.only_refl _ _)) (by decide)
        (State.counts_of (State.signLate_only _ (List.Subset.refl _) (State.only_refl _ _)) (by decide)
        (State.counts_of (State.partnerBoundary_only _ (List.Subset.refl _) (State.only_refl _ _)) (by decide)
        (State.c0Ends_counts _ (State.counts_refl _))))
    · exact State.counts_refl _
  clear_value s6
  have h8 : ∀ t : State, s5.counts t → s.sameFrame t.snapBlocks := by
    intro t k
    have e := State.counts_of (State.snapBlocks_only t (List.Subset.refl _) (State.only_refl _ t)) (by decide) k
    exact ⟨e.2.1.trans h6.1, e.2.2.1.trans h6.2.1⟩
  split
  · exact h0
  · split
    · exact h8 _ (State.counts_of (State.serveFront_only _ (List.Subset.refl _) (State.only_refl _ _)) (by decide) h7)
    · exact h8 _ h7

theorem bumpRun_mram (t : Tack) (slot run : Nat) : (t.bumpRun slot run).mram = t.mram := by
  unfold Tack.bumpRun
  generalize List.range run = l
  induction l generalizing t with
  | nil => rfl
  | cons x l ih =>
    rw [List.foldl_cons, ih]
    unfold Tack.bump; split <;> rfl

/-- A clearing of volatile keys leaves the records in MRAM (R217, R486). -/
theorem bumps_mram (l : List Key) (t : Tack) :
    (l.foldl (fun t k => if k.persistent then t else t.bumpRun k.slot k.run) t).mram = t.mram := by
  induction l generalizing t with
  | nil => rfl
  | cons x l ih => rw [List.foldl_cons, ih]; split; rfl; exact bumpRun_mram _ _ _

/-- An enabled monitor that is not under test latches (R482, R499). -/
theorem State.monDetect_eq (s : State) (n : Nat) (h : n < 12 → (s.monConfig n).testBit 3 = true) (k : s.mon.testEnd = none) :
    s.monDetect n = s.monLatch n := by
  unfold State.monDetect
  rw [if_neg (fun e => e.2 (h e.1)), if_neg (by simp [k])]

/-- What a latch of class L, T or H does at once (R484, R485). -/
theorem State.monLatch_low (s : State) (n : Nat) (h : s.mon.latched.getLsbD n = false) (c : s.monConfig n % 4 < 3) :
    (s.monLatch n).mon.latched = setBit s.mon.latched n ∧ (s.monLatch n).mon.due = setBit s.mon.due n ∧
    (2 ≤ s.monConfig n % 4 → (s.monLatch n).mon.word = setBit s.mon.word n) ∧ (s.monLatch n).core = s.core ∧
    (s.monLatch n).tack = s.tack := by
  have hc : s.monConfig n % 4 ≠ 3 := by omega
  unfold State.monLatch
  rw [if_neg (by simp [h])]
  dsimp only
  rw [if_neg hc]
  unfold State.latchMonitor
  split <;> (refine ⟨rfl, rfl, fun k => ?_, rfl, rfl⟩; simp [k])

/-- What a latch of class Z does at once: the keys, the Shed and its tags are gone (R486). -/
theorem State.monLatch_z (s : State) (n : Nat) (h : s.mon.latched.getLsbD n = false) (c : s.monConfig n % 4 = 3) :
    (s.monLatch n).mon.latched = setBit s.mon.latched n ∧ (s.monLatch n).mon.wordZ = setBit s.mon.wordZ n ∧
    (s.monLatch n).mon.zDue = true ∧ (s.monLatch n).tack.keys = [] ∧ (s.monLatch n).tack.srk = none ∧
    (s.monLatch n).tack.bootKey = none ∧ (s.monLatch n).tack.mram = s.tack.mram ∧ (s.monLatch n).shed = [] ∧
    (s.monLatch n).tagTable = [] := by
  unfold State.monLatch
  rw [if_neg (by simp [h])]
  dsimp only
  rw [if_pos c]
  unfold State.latchMonitor State.zeroize
  split <;> (refine ⟨rfl, ?_, rfl, rfl, rfl, rfl, ?_, rfl, rfl⟩ <;> simp [c, bumps_mram])

/-- The alarms that were due have had their response (R485). -/
theorem State.alarmRespond_due (s : State) : s.alarmRespond.mon.due = 0 := by
  have hb : ∀ t : State, t.beginAlarmHold.mon.due = t.mon.due := by
    intro t; unfold State.beginAlarmHold; dsimp only; split <;> rfl
  have hc : ∀ t : State, t.classT.mon = t.mon := fun t =>
    State.classT_only t (List.Subset.refl _) (State.only_refl _ t) .mon (by decide)
  have ho : ∀ (t : State) (o : Op), (t.setOp o).mon = t.mon := by
    intro t o; unfold State.setOp; split <;> rfl
  unfold State.alarmRespond
  extract_lets l s1 s2 s3 z
  have h2 : s2.mon.due = 0 := by unfold s2; split; exact hb _; rfl
  have h3 : s3.mon.due = 0 := by unfold s3; split; exact (congrArg Mon.due (hc _)).trans h2; exact h2
  clear_value s3
  split
  · exact h3
  · split
    · exact h3
    all_goals first
      | exact h3
      | (split
         · exact (congrArg Mon.due (ho _ _)).trans h3
         · exact (congrArg Mon.due (ho _ _)).trans h3)

/-- An entry takes the next place at the head (R445). -/
theorem Log.append_head (l : Log) (e : Bytes) : (l.append e).head = l.head + 1 := by
  unfold Log.append Log.head Log.headRec
  rcases ha : l.headA with _ | a
  · simp [ha]
    rcases hb : l.headB with _ | b <;> simp
  · rcases hb : l.headB with _ | b
    · simp [ha, hb]
    · by_cases h : a.next < b.next
      · simp [h]
      · simp [h]

theorem Log.head_congr {l m : Log} (h : l.headA = m.headA) (k : l.headB = m.headB) : l.head = m.head := by
  unfold Log.head Log.headRec; rw [h, k]

theorem State.refusedSummaries_log (s : State) :
    s.refusedSummaries.log.head = s.log.head ∧ s.refusedSummaries.log.entries = s.log.entries := by
  unfold State.refusedSummaries
  generalize List.range 4 = l
  induction l generalizing s with
  | nil => exact ⟨rfl, rfl⟩
  | cons n l ih =>
    rw [List.foldl_cons]
    refine ⟨(ih _).1.trans ?_, (ih _).2.trans ?_⟩ <;> dsimp only <;> split <;> rfl

theorem State.logLatches_log (s : State) :
    s.logLatches.log.head = s.log.head ∧ s.logLatches.log.entries = s.log.entries := by
  unfold State.logLatches
  extract_lets st low s1 s2 s3
  have h1 : s1.log = s.log := by unfold s1; split <;> rfl
  have h2 : s2.log = s.log := by unfold s2; split; exact h1; exact h1
  have h3 : s3.log.head = s.log.head ∧ s3.log.entries = s.log.entries := ⟨by rw [← h2]; rfl, by rw [← h2]; rfl⟩
  split
  · exact h3
  · exact ⟨(State.refusedSummaries_log _).1.trans h3.1, (State.refusedSummaries_log _).2.trans h3.2⟩

/-- Putting 64 bytes into the ring moves the head on by one, and they stand last (R445). -/
theorem State.ringPut_head (s : State) (mk : Log → Bytes) : (s.ringPut mk).log.head = s.log.head + 1 := by
  unfold State.ringPut
  extract_lets ov s1 s2 s3
  have h1 : s1.log.head = s.log.head := by unfold s1; split <;> exact Log.head_congr rfl rfl
  have h2 : s2.log.head = s.log.head + 1 := by
    rw [← h1, ← Log.append_head s1.log (mk s1.log)]; exact Log.head_congr rfl rfl
  clear_value s2
  have h3 : s3.log.head = s.log.head + 1 := (State.logLatches_log _).1.trans h2
  clear_value s3
  split
  · rw [← h3]; exact Log.head_congr rfl rfl
  · exact h3

theorem State.modLane_lane (s : State) (n : Nat) (f : Lane → Lane) (h : n < s.yard.lanes.length) :
    (s.modLane n f).lane n = f (s.lane n) := by
  simp only [State.modLane, State.lane, State.modYard_yard]
  rw [updAt_getD, if_pos ⟨rfl, h⟩]

/-- Zeroization leaves every lane as enabled as it was (R486). -/
theorem State.zeroize_yard (s : State) :
    s.zeroize.yard.lanes = s.yard.lanes.map (fun l => { l.empty with zero := if l.job.isSome then 2 else l.zero }) ∧
    s.zeroize.yard.faults = s.yard.faults := ⟨rfl, rfl⟩

theorem State.monDetect_yard (s : State) (n : Nat) :
    (∀ l, ((s.monDetect n).lane l).disabled = (s.lane l).disabled) ∧
    (s.monDetect n).yard.lanes.length = s.yard.lanes.length ∧ (s.monDetect n).yard.faults = s.yard.faults := by
  have hz : ∀ t : State, (∀ l, (t.zeroize.lane l).disabled = (t.lane l).disabled) ∧
      t.zeroize.yard.lanes.length = t.yard.lanes.length ∧ t.zeroize.yard.faults = t.yard.faults := by
    intro t
    refine ⟨fun l => ?_, by rw [(State.zeroize_yard t).1, List.length_map], (State.zeroize_yard t).2⟩
    simp only [State.lane, (State.zeroize_yard t).1, List.getD_eq_getElem?_getD, List.getElem?_map]
    rcases t.yard.lanes[l]? with _ | x <;> rfl
  unfold State.monDetect
  split
  · exact ⟨fun _ => rfl, rfl, rfl⟩
  · split
    · exact ⟨fun _ => rfl, rfl, rfl⟩
    · unfold State.monLatch
      split
      · exact ⟨fun _ => rfl, rfl, rfl⟩
      · extract_lets cfg cls hold rec_ s1 s2 d s3
        have h3 : s3.yard = s.yard := by unfold s3 s2 State.latchMonitor; split <;> rfl
        have hl : ∀ l, s3.lane l = s.lane l := fun l => by unfold State.lane; rw [h3]
        split
        · have := hz (s3.modMon (fun m => { m with zDue := true }))
          exact ⟨fun l => (this.1 l).trans (congrArg Lane.disabled (hl l)), this.2.1.trans (by rw [← h3]; rfl),
            this.2.2.trans (by rw [← h3]; rfl)⟩
        · exact ⟨fun l => congrArg Lane.disabled (hl l), by rw [h3], by rw [h3]⟩

theorem State.monDetect_disabled (s : State) (n l : Nat) : ((s.monDetect n).lane l).disabled = (s.lane l).disabled :=
  (State.monDetect_yard s n).1 l

/-- A monitor that watches an event of the device itself latches at once (R482, R485). -/
theorem State.monDetect_event (s : State) (n : Nat) (h : 12 ≤ n ∧ n < 24) (k : s.mon.testEnd = none) :
    (s.monDetect n).mon.latched.getLsbD n = true := by
  rw [State.monDetect_eq _ _ (fun e => absurd e (by omega)) k]
  by_cases hl : s.mon.latched.getLsbD n = true
  · unfold State.monLatch; rw [if_pos hl]; exact hl
  · have hl : s.mon.latched.getLsbD n = false := by simpa using hl
    have e : (s.monLatch n).mon.latched = setBit s.mon.latched n := by
      by_cases c : s.monConfig n % 4 = 3
      · exact (State.monLatch_z s n hl c).1
      · exact (State.monLatch_low s n hl (by omega)).1
    rw [e, setBit_getLsbD]; simp [h.2]

theorem State.countFault_facts (s : State) :
    s.countFault.yard.faults = s.yard.faults + 1 ∧ s.countFault.yard.lanes.length = s.yard.lanes.length := by
  unfold State.countFault
  extract_lets f third hit s1
  split
  · exact ⟨(State.monDetect_yard s1 21).2.2, (State.monDetect_yard s1 21).2.1⟩
  · exact ⟨rfl, rfl⟩

/-- A checkpoint takes two places, which begin at the head (R454, R455). -/
theorem State.writeCheckpoint_log (s : State) (b : Bytes) :
    (s.writeCheckpoint b).log.head = s.log.head + 2 ∧ (s.writeCheckpoint b).log.ckptLast = s.log.head ∧
    (s.writeCheckpoint b).log.signing = none ∧ (s.writeCheckpoint b).log.owed = false ∧
    (s.writeCheckpoint b).log.sinceCkpt = 0 := by
  unfold State.writeCheckpoint
  extract_lets d s1 sig p a
  have h1 : s1.log = s.log := rfl
  refine ⟨?_, by rw [← h1]; rfl, rfl, rfl, rfl⟩
  have h2 := State.ringPut_head (s1.ringPut fun _ => p.1) (fun _ => p.2)
  have h3 : (s1.ringPut fun _ => p.1).log.head = s.log.head + 1 := h1 ▸ State.ringPut_head s1 (fun _ => p.1)
  rw [h3] at h2
  rw [← h2]
  exact Log.head_congr rfl rfl

end Sys2Proof.Machine
end

