-- ==== Sys2Proof/Laws/EffectsStile.lean ====
section
/-! SUPPORT. What the shared operations and the single commands do to the fields that the statements speak of: the ports. -/

set_option maxRecDepth 10000
set_option linter.unusedVariables false
set_option linter.unusedSimpArgs false

namespace Sys2Proof.Machine

open Sys2Proof

theorem State.modPort_port (s : State) (n m : Nat) (f : Port → Port) :
    (s.modPort n f).port m = if m = n ∧ m < s.ports.length then f (s.port m) else s.port m := by
  simp only [State.port, State.modPort, State.modPorts, updAt_getD]

theorem State.modPort_port_self (s : State) (n : Nat) (f : Port → Port) (h : n < s.ports.length) :
    (s.modPort n f).port n = f (s.port n) := by rw [State.modPort_port, if_pos ⟨rfl, h⟩]

theorem State.modPort_port_other (s : State) (n m : Nat) (f : Port → Port) (h : m ≠ n) :
    (s.modPort n f).port m = s.port m := by rw [State.modPort_port, if_neg (fun e => h e.1)]

theorem State.modPort_length (s : State) (n : Nat) (f : Port → Port) : (s.modPort n f).ports.length = s.ports.length := by
  simp [State.modPort, State.modPorts, updAt]

theorem State.disarm_port (s : State) (n : Nat) (h : n < s.ports.length) :
    (s.fresh.disarm n).port n = { s.port n with resetArmed := false } := State.modPort_port_self _ _ _ h

/-- Only a port in mode MEASURE has a measurement read to interrupt (R25). -/
theorem State.interrupt_off (s : State) (n : Nat) (h : (s.port n).mode ≠ .measure) : s.interrupt n = s := by
  have : s.measuring n = false := by
    unfold State.measuring
    dsimp only
    have e : ((s.port n).mode == PortMode.measure) = false := by simpa using h
    rw [e]; simp
  unfold State.interrupt; rw [this]; rfl

theorem State.portHeard_off (s : State) (n : Nat) (h : (s.port n).mode ≠ .measure) :
    s.portHeard n = { s.port n with resetArmed := false } := by
  have : s.measuring n = false := by
    unfold State.measuring
    dsimp only
    have e : ((s.port n).mode == PortMode.measure) = false := by simpa using h
    rw [e]; simp
  unfold State.portHeard; rw [this]; rfl

/-- What a command finds once the armed reset and the measurement read are dealt with (R25, R126). -/
theorem State.hear_facts (s : State) (n : Nat) (h : n < s.ports.length) :
    ((s.fresh.disarm n).interrupt n).port n = s.portHeard n ∧
    (∀ m, m ≠ n → ((s.fresh.disarm n).interrupt n).port m = s.port m) ∧
    ((s.fresh.disarm n).interrupt n).ports.length = s.ports.length ∧ ((s.fresh.disarm n).interrupt n).core = s.core ∧
    ((s.fresh.disarm n).interrupt n).dict = s.dict ∧ ((s.fresh.disarm n).interrupt n).out = [] ∧
    ((s.fresh.disarm n).interrupt n).mon = s.mon := by
  have hq := s.disarm_port n h
  have hm : (s.fresh.disarm n).measuring n = s.measuring n := by
    unfold State.measuring; rw [hq]; rfl
  have hl : (s.fresh.disarm n).ports.length = s.ports.length := State.modPort_length _ _ _
  have ho : ∀ m, m ≠ n → (s.fresh.disarm n).port m = s.port m := fun m k => State.modPort_port_other _ _ _ _ k
  unfold State.interrupt State.portHeard
  rw [hm]
  split
  · refine ⟨?_, fun m k => (State.modPort_port_other _ _ _ _ k).trans (ho m k), (State.modPort_length _ _ _).trans hl, rfl, rfl, rfl, rfl⟩
    rw [State.modPort_port_self _ _ _ (hl ▸ h), hq]
  · exact ⟨hq, ho, hl, rfl, rfl, rfl, rfl⟩

theorem State.ready_check (s q : State) (c : SpiCmd) (r : OpRow) (h : s.flashReady c r)
    (hc : q.core = s.core) (hp : ∃ b, q.port c.port = { s.port c.port with resetArmed := b }) (hd : q.dict = s.dict) :
    q.stileOff c.port = false ∧ (q.port c.port).mode ≠ .measure ∧
    (s.flashListed c r → q.proxyCheck c r = .pass) ∧
    (¬s.flashListed c r → q.proxyCheck c r =
      if r.cls = 5 ∨ r.cls = 6 ∨ r.cls = 7 ∨ r.cls = 9 then .refused else .unknown) := by
  obtain ⟨h1, h2, h3, h4, h5, h6, h7, h8⟩ := h
  obtain ⟨b, hb⟩ := hp
  have hu : q.upLimit c.port true (r.op == 0x03) c.wire = s.upLimit c.port true (r.op == 0x03) c.wire := by
    simp only [State.upLimit, State.upMax, State.valU, State.val, State.setVal, hd]
  have ha : q.stileOff c.port = false := by
    simp [State.stileOff, hb, h3, hc, h1]
  have hg : ¬(q.upLimit c.port true (r.op == 0x03) c.wire < c.khz) := by rw [hu]; exact Nat.not_lt.mpr h4
  have hw : ¬((c.form4 && r.op4 == 0) = true ∨ (!r.modes.contains c.wire) = true ∨ wireState c.wire ≠ (q.port c.port).wire ∨
      (c.wire = .w8d ∧ c.extOk = false)) := by
    rw [hb]
    rintro (x | x | x | ⟨x, y⟩)
    · simp only [Bool.and_eq_true, beq_iff_eq] at x; exact h8 x.1 x.2
    · rw [h5] at x; cases x
    · exact x h6
    · rw [h7 x] at y; cases y
  refine ⟨ha, ?_, ?_, ?_⟩
  · rw [hb]; show (s.port c.port).mode ≠ .measure; rw [h3]; decide
  · intro ⟨a, m, x1, x2, x3, x4⟩
    unfold State.proxyCheck
    dsimp only
    rw [if_neg hg, if_neg hw, if_pos]
    rw [hb]
    refine List.any_eq_true.mpr ⟨a, m, ?_⟩
    simp [x1, x2, x3, x4]
  · intro hn
    unfold State.proxyCheck
    dsimp only
    rw [if_neg hg, if_neg hw, if_neg]
    rw [hb]
    intro he
    obtain ⟨a, m, e⟩ := List.any_eq_true.mp he
    simp only [Bool.and_eq_true, beq_iff_eq] at e
    exact hn ⟨a, m, e.1.1.1, e.1.1.2, e.1.2, e.2⟩

/-- The source of a proxy-read byte does not hang on the armed reset (R119). -/
theorem State.byteSrc_congr (s q : State) (n a : Nat) (hp : ∃ b, q.port n = { s.port n with resetArmed := b })
    (hd : q.dict = s.dict) : q.byteSrc n a = s.byteSrc n a := by
  obtain ⟨b, hb⟩ := hp
  have hv : ∀ k, q.val k = s.val k := fun k => by unfold State.val; rw [hd]
  have hs : q.served n = s.served n := by
    unfold State.served State.manifest; rw [hb]; simp only [hv]
  have hr : q.regionAt n a = s.regionAt n a := by unfold State.regionAt; rw [hs]
  have h1 : q.shedAt n a = s.shedAt n a := by
    unfold State.shedAt; rw [hr, hb, hs]
  have h2 : q.flashAt n a = s.flashAt n a := by
    have hf : ∀ x r, q.regionFlash n x r = s.regionFlash n x r := by
      intro x r
      unfold State.regionFlash
      split
      · rfl
      · split
        · unfold State.slotBase; split <;> simp only [State.valU, hv]
        · rfl
    unfold State.flashAt; rw [hr, hb]; simp only [hf]
  unfold State.byteSrc; rw [h1, h2]

theorem State.shedHole_congr (s q : State) (n a l : Nat) (h : ∀ x, q.byteSrc n x = s.byteSrc n x) :
    q.shedHole n a l = s.shedHole n a l := by
  have hx : ∀ x, q.shedAt n x = s.shedAt n x := by
    intro x
    have := h x
    unfold State.byteSrc at this
    revert this
    generalize q.shedAt n x = u
    generalize s.shedAt n x = v
    cases u <;> cases v <;> (repeat' split) <;> simp_all
  unfold State.shedHole; simp only [hx]

theorem State.sized_congr (s q : State) (c : SpiCmd) (r : OpRow) (h : (q.port c.port).addr4 = (s.port c.port).addr4) :
    q.sized c r = s.sized c r := by
  unfold State.sized State.addrLong; rw [h]

/-- The width of an address changes neither the form of a command nor what its row checks (R127). -/
theorem State.sized_ready (s q : State) (c : SpiCmd) (r : OpRow) (h : s.flashReady c r) : s.flashReady (q.sized c r) r := h
theorem State.sized_listed (s q : State) (c : SpiCmd) (r : OpRow) : s.flashListed (q.sized c r) r ↔ s.flashListed c r := Iff.rfl

/-- A READ-class command that its port accepts (R119, R120). -/
theorem State.readCmd_ready (s : State) (c : SpiCmd) (r : OpRow) (d : State → Nat) (h : s.flashReady c r)
    (hl : s.flashListed c r) :
    s.readCmd c r d = if s.shedHole c.port (s.sized c r).addr c.len then .fault .noSuchShedAddress
      else .next ((s.fresh.disarm c.port).proxyRead (s.sized c r) (d (s.fresh.disarm c.port))) := by
  have hp : ∃ b, (s.fresh.disarm c.port).port c.port = { s.port c.port with resetArmed := b } := ⟨_, s.disarm_port c.port h.2.1⟩
  have hm : ((s.fresh.disarm c.port).port c.port).mode ≠ .measure := by
    rw [s.disarm_port c.port h.2.1]; show (s.port c.port).mode ≠ .measure; rw [h.2.2.1]; decide
  have hz : (s.fresh.disarm c.port).sized c r = s.sized c r :=
    State.sized_congr _ _ _ _ (by rw [s.disarm_port c.port h.2.1])
  obtain ⟨a1, a2, a3, -⟩ := State.ready_check s (s.fresh.disarm c.port) (s.sized c r) r (s.sized_ready s c r h) rfl hp rfl
  unfold State.readCmd
  dsimp only
  have hh : (s.fresh.disarm c.port).shedHole (s.sized c r).port (s.sized c r).addr (s.sized c r).len =
      s.shedHole c.port (s.sized c r).addr c.len :=
    State.shedHole_congr s (s.fresh.disarm c.port) _ _ _ (fun x => State.byteSrc_congr s _ _ x hp rfl)
  rw [State.interrupt_off _ _ hm, hz, if_neg (by rw [a1]; decide), if_neg a2, a3 hl]
  dsimp only
  rw [hh]

/-- A read on the proxy path of a port that serves (R119, R120). -/
theorem State.proxyRead_serve (s : State) (c : SpiCmd) (d : Nat)
    (h : ¬((s.port c.port).phase = .hold ∨ (s.port c.port).phase = .verify)) :
    ∃ b, Out.up c.port b ∈ (s.proxyRead c d).out ∧ b.length = c.len ∧ ∀ i, i < c.len →
      (s.byteSrc c.port (c.addr + i) = .hole → b.getD i 0 = 0xFF) ∧
      (∀ a, s.byteSrc c.port (c.addr + i) = .shed a → b.getD i 0 = s.shedByte a) ∧
      (∀ f a, s.byteSrc c.port (c.addr + i) = .flash f a → b.getD i 0 = c.data.getD i 0xFF ∨ b.getD i 0 = 0xFF) := by
  unfold State.proxyRead
  dsimp only
  rw [if_neg h]
  refine ⟨((List.range c.len).map (s.readByte c d (s.readStarts c.port c.addr c.len))).map (·.1), ?_, by simp, ?_⟩
  · generalize hm : (List.range c.len).map (s.readByte c d (s.readStarts c.port c.addr c.len)) = l
    clear hm
    generalize hx : State.emit _ (Out.up c.port (l.map (·.1))) = x
    have he : Out.up c.port (l.map (·.1)) ∈ x.out := by rw [← hx]; simp
    rw [show (x.readBlocks c (s.readStarts c.port c.addr c.len)).out = x.out from
      State.readBlocks_only _ _ _ (List.Subset.refl _) (State.only_refl _ _) .out (by decide)]
    exact he
  · intro i hi
    have e : (((List.range c.len).map (s.readByte c d (s.readStarts c.port c.addr c.len))).map (·.1)).getD i 0 =
        (s.readByte c d (s.readStarts c.port c.addr c.len) i).1 := by
      simp [List.getD_eq_getElem?_getD, List.getElem?_map, List.getElem?_range hi]
    rw [e]
    unfold State.readByte
    dsimp only
    refine ⟨fun k => by rw [k], fun a k => by rw [k], fun f a k => ?_⟩
    rw [k]
    dsimp only
    repeat' split
    all_goals first | exact .inr rfl | exact .inl rfl

/-- A command without data that its port accepts in form: passed, refused or unknown (R128, R137). -/
theorem State.plainCmd_ready (s q : State) (c : SpiCmd) (r : OpRow) (f g p : State → State) (h : s.flashReady c r)
    (hc : q.core = s.core) (hp : ∃ b, q.port c.port = { s.port c.port with resetArmed := b }) (hd : q.dict = s.dict) :
    (s.flashListed c r → q.plainCmd c r f g p = .next (p q)) ∧
    (¬s.flashListed c r → q.plainCmd c r f g p =
      .next (if r.cls = 5 ∨ r.cls = 6 ∨ r.cls = 7 ∨ r.cls = 9 then g q else q.unknownCmd c.port)) := by
  obtain ⟨a1, a2, a3, a4⟩ := State.ready_check s q c r h hc hp hd
  unfold State.plainCmd
  rw [State.interrupt_off q c.port a2]
  dsimp only
  rw [if_neg (by rw [a1]; decide), if_neg a2]
  refine ⟨fun k => by rw [a3 k], fun k => ?_⟩
  rw [a4 k]
  by_cases hk : r.cls = 5 ∨ r.cls = 6 ∨ r.cls = 7 ∨ r.cls = 9
  · rw [if_pos hk, if_pos hk]
  · rw [if_neg hk, if_neg hk]

/-- The limit of the transparent path once an interruption has left the measurement read unfinished (R25, R124). -/
theorem State.clearLimit_hear (s : State) (c c' : SpiCmd) (b : Bool) (h : c.port < s.ports.length) (hc : c'.port = c.port)
    (hw : c'.wire = c.wire) : ((s.fresh.disarm c.port).interrupt c.port).clearLimit c' b = s.clearLimit c b := by
  have hf := State.hear_facts s c.port h
  have hm : ((s.fresh.disarm c.port).interrupt c.port).measuring c.port = s.measuring c.port := by
    have hs : ((s.fresh.disarm c.port).interrupt c.port).sup = s.sup := by unfold State.interrupt; split <;> rfl
    unfold State.measuring
    rw [hf.1, hf.2.2.2.1, hs]
    unfold State.portHeard
    split
    · rename_i e
      unfold State.measuring at e
      dsimp only at e ⊢
      simp only [Bool.and_eq_true, decide_eq_true_eq] at e
      have : (s.port c.port).measBits / 8 * 8 < 8 * (s.port c.port).measureLen :=
        Nat.lt_of_le_of_lt (Nat.div_mul_le_self _ _) e.2
      have e2 := e.2
      simp only [Port.measureLen] at this e2 ⊢
      exact congrArg (fun b => _ && b) (decide_eq_decide.mpr (iff_of_true this e2))
    · rfl
  have hp : ((s.fresh.disarm c.port).interrupt c.port).upLimit c.port false b c.wire = s.upLimit c.port false b c.wire := by
    simp only [State.upLimit, State.upMax, State.valU, State.val, hf.2.2.2.2.1]
  unfold State.clearLimit
  rw [hc, hw, hp, hm]

/-- The transparent path takes a command (R117, R124). -/
theorem State.clear_check (s : State) (c : SpiCmd) (h : s.flashClear c) :
    ((s.fresh.disarm c.port).interrupt c.port).stileOff c.port = false ∧
    (((s.fresh.disarm c.port).interrupt c.port).port c.port).mode = .measure ∧
    c.khz ≤ ((s.fresh.disarm c.port).interrupt c.port).clearLimit c false := by
  obtain ⟨h1, h2, h3, h4⟩ := h
  have hf := State.hear_facts s c.port h2
  have hm : (((s.fresh.disarm c.port).interrupt c.port).port c.port).mode = .measure := by
    rw [hf.1]; unfold State.portHeard; split <;> exact h3
  refine ⟨by simp [State.stileOff, hm, hf.2.2.2.1, h1], hm, ?_⟩
  rw [State.clearLimit_hear s c c false h2 rfl rfl]
  exact h4

/-- The transparent path takes a command within its limit (R117, R124). -/
theorem State.plainCmd_clear (s : State) (c : SpiCmd) (r : OpRow) (f g p : State → State) (h : s.flashClear c) :
    (s.fresh.disarm c.port).plainCmd c r f g p = .next (f ((s.fresh.disarm c.port).interrupt c.port)) := by
  obtain ⟨a1, a2, a3⟩ := State.clear_check s c h
  unfold State.plainCmd
  dsimp only
  rw [if_neg (by rw [a1]; decide), if_pos a2, if_neg (Nat.not_lt.mpr a3)]

/-- A refused command (R139, R140). -/
theorem State.refuse_facts (s : State) (c : SpiCmd) (op : Nat) (cut : CutAt) (busy : Nat) (h : c.port < s.ports.length) :
    ((s.refuse c op cut busy).port c.port).refused = (s.port c.port).refused + 1 ∧
    ((s.refuse c op cut busy).port c.port).busyUntil = some (s.now + busy) ∧
    ((s.refuse c op cut busy).port c.port).wel = false ∧
    ((s.refuse c op cut busy).port c.port).passedBusy = (s.port c.port).passedBusy ∧
    (s.refuse c op cut busy).out = s.out ++ (if (s.port c.port).mode = .measure then [.cut c.port op cut, .down c.port 0 0x04 0 []] else []) ∧
    ∀ m, m ≠ c.port → (s.refuse c op cut busy).port m = s.port m := by
  have hr : ∀ (t : State), c.port < t.ports.length → ∃ x y z,
      (t.refusedEntry c.port op c.addr).port c.port = { t.port c.port with refSealed := x, refSince := y, refEntryAt := z } ∧
      (t.refusedEntry c.port op c.addr).out = t.out ∧
      ∀ m, m ≠ c.port → (t.refusedEntry c.port op c.addr).port m = t.port m := by
    intro t ht
    unfold State.refusedEntry
    extract_lets p
    repeat' split
    all_goals first
      | exact ⟨_, _, _, State.modPort_port_self t _ _ ht, rfl, fun m hm => State.modPort_port_other t _ _ _ hm⟩
      | exact ⟨_, _, _, State.modPort_port_self (t.ev 3 5 _ _) _ _ ht, rfl, fun m hm => State.modPort_port_other (t.ev 3 5 _ _) _ _ _ hm⟩
  unfold State.refuse
  extract_lets n s1 s2
  have h1 : s1.port c.port = { s.port c.port with refused := (s.port c.port).refused + 1, busyUntil := some (s.now + busy), wel := false } :=
    State.modPort_port_self _ _ _ h
  have h1o : ∀ m, m ≠ c.port → s1.port m = s.port m := fun m hm => State.modPort_port_other _ _ _ _ hm
  have h2 : s2.ports = s1.ports ∧ s2.out = s.out ++ (if (s.port c.port).mode = .measure then [.cut c.port op cut, .down c.port 0 0x04 0 []] else []) := by
    have e : (s1.port c.port).mode = (s.port c.port).mode := by rw [h1]
    show (if (s1.port c.port).mode = .measure then s1.cancelDown c.port op cut else s1).ports = _ ∧ (if (s1.port c.port).mode = .measure then s1.cancelDown c.port op cut else s1).out = _
    rw [e]
    split
    · exact ⟨rfl, List.append_assoc _ _ _⟩
    · exact ⟨rfl, (List.append_nil _).symm⟩
  have hl : c.port < (s2.latch (portGroup n) 8).ports.length := by
    show c.port < s2.ports.length
    rw [h2.1]; unfold s1; rw [State.modPort_length]; exact h
  obtain ⟨x, y, z, e1, e2, e3⟩ := hr (s2.latch (portGroup n) 8) hl
  have hs : ∀ m, (s2.latch (portGroup n) 8).port m = s1.port m := fun m => by
    show s2.ports.getD m _ = s1.ports.getD m _
    rw [h2.1]
  rw [e1, hs, h1]
  exact ⟨rfl, rfl, rfl, rfl, e2.trans h2.2, fun m hm => (e3 m hm).trans ((hs m).trans (h1o m hm))⟩

/-- An unknown command (R128). -/
theorem State.unknownCmd_facts (s : State) (n : Nat) (h : n < s.ports.length) :
    (s.unknownCmd n).port n = { s.port n with unknown := (s.port n).unknown + 1 } ∧
    (s.unknownCmd n).out = s.out ++ [.undriven n] ∧ ∀ m, m ≠ n → (s.unknownCmd n).port m = s.port m :=
  ⟨State.modPort_port_self _ _ _ h, rfl, fun _ hm => State.modPort_port_other _ _ _ _ hm⟩

/-- A STATUS or ID command on the proxy path (R128, R134, R135, R137). -/
theorem State.dataCmd_ready (s : State) (c : SpiCmd) (r : OpRow) (p g : State → Bytes) (h : s.flashReady c r)
    (hk : r.cls = 2 ∨ r.cls = 3) :
    (s.flashListed c r → s.dataCmd c r p g =
      .next ((s.fresh.disarm c.port).emit (.up c.port (p (s.fresh.disarm c.port))))) ∧
    (¬s.flashListed c r → s.dataCmd c r p g = .next ((s.fresh.disarm c.port).unknownCmd c.port)) := by
  have hm : ((s.fresh.disarm c.port).port c.port).mode ≠ .measure := by
    rw [s.disarm_port c.port h.2.1]; show (s.port c.port).mode ≠ .measure; rw [h.2.2.1]; decide
  have hz : (s.fresh.disarm c.port).sized c r = s.sized c r :=
    State.sized_congr _ _ _ _ (by rw [s.disarm_port c.port h.2.1])
  obtain ⟨a1, a2, a3, a4⟩ := State.ready_check s (s.fresh.disarm c.port) (s.sized c r) r (s.sized_ready s c r h) rfl
    ⟨false, s.disarm_port c.port h.2.1⟩ rfl
  unfold State.dataCmd
  dsimp only
  rw [State.interrupt_off _ _ hm, hz, if_neg (by rw [a1]; decide), if_neg a2]
  refine ⟨fun k => by rw [a3 k]; rfl, fun k => ?_⟩
  rw [a4 k, if_neg (by rcases hk with e | e <;> simp [e])]
  rfl

/-- A STATUS or ID command on the transparent path (R117). -/
theorem State.dataCmd_clear (s : State) (c : SpiCmd) (r : OpRow) (p g : State → Bytes) (h : s.flashClear c) :
    s.dataCmd c r p g = .next ((((s.fresh.disarm c.port).interrupt c.port).emit
      (.down c.port 0 (r.sent c) (s.sized c r).addr [])).emit
      (.up c.port (g ((s.fresh.disarm c.port).interrupt c.port)))) := by
  obtain ⟨a1, a2, a3⟩ := State.clear_check s c h
  have hz : ((s.fresh.disarm c.port).interrupt c.port).sized c r = s.sized c r :=
    State.sized_congr _ _ _ _ (by rw [(State.hear_facts s c.port h.2.1).1]; unfold State.portHeard; split <;> rfl)
  unfold State.dataCmd
  dsimp only
  rw [hz]
  show Host.Outcome.next (if _ then _ else if (((s.fresh.disarm c.port).interrupt c.port).port c.port).mode = PortMode.measure then
    (if ((s.fresh.disarm c.port).interrupt c.port).clearLimit c false < c.khz then _ else _) else _) = _
  rw [if_neg (by rw [show (s.sized c r).port = c.port from rfl, a1]; decide), if_pos a2, if_neg (Nat.not_lt.mpr a3)]
  rfl

/-- A READ-class command on the transparent path (R117, R124). -/
theorem State.readCmd_clear (s : State) (c : SpiCmd) (r : OpRow) (d : State → Nat) (h1 : s.core.op.powered = true)
    (h2 : c.port < s.ports.length) (h3 : (s.port c.port).mode = .measure) :
    s.readCmd c r d = .next (if s.clearLimit c (r.op == 0x03) < c.khz then
      ((s.fresh.disarm c.port).interrupt c.port).allLate (s.sized c r)
      else ((s.fresh.disarm c.port).interrupt c.port).passThrough (s.sized c r) (r.sent c) true) := by
  have hf := State.hear_facts s c.port h2
  have hm : (((s.fresh.disarm c.port).interrupt c.port).port c.port).mode = .measure := by
    rw [hf.1]; unfold State.portHeard; split <;> exact h3
  have ha : ((s.fresh.disarm c.port).interrupt c.port).stileOff c.port = false := by
    simp [State.stileOff, hm, hf.2.2.2.1, h1]
  have hz : ((s.fresh.disarm c.port).interrupt c.port).sized c r = s.sized c r :=
    State.sized_congr _ _ _ _ (by rw [hf.1]; unfold State.portHeard; split <;> rfl)
  have hu := State.clearLimit_hear s c (s.sized c r) (r.op == 0x03) h2 rfl rfl
  unfold State.readCmd State.clearRead
  dsimp only
  rw [hz, hu, if_neg (by rw [show (s.sized c r).port = c.port from rfl, ha]; decide)]
  show (if (((s.fresh.disarm c.port).interrupt c.port).port c.port).mode = .measure then _ else _) = _
  rw [if_pos hm]
  rfl

/-- Late bytes of an overclocked command (R124, R130). -/
theorem State.allLate_facts (s : State) (c : SpiCmd) (h : c.port < s.ports.length) :
    (s.allLate c).out = s.out ++ [.up c.port (List.replicate c.len 0xFF)] ∧
    (s.allLate c).port c.port = { s.port c.port with lateBytes := (s.port c.port).lateBytes + c.len } ∧
    ∀ m, m ≠ c.port → (s.allLate c).port m = s.port m := by
  unfold State.allLate State.lateBytes
  by_cases k : c.len = 0
  · rw [if_pos k, k]
    exact ⟨rfl, rfl, fun _ _ => rfl⟩
  · rw [if_neg k]
    exact ⟨rfl, State.modPort_port_self _ _ _ h, fun _ hm => State.modPort_port_other _ _ _ _ hm⟩

/-- A command that is refused whole once the port has taken it in form (R137 to R140). -/
theorem State.refuse_as (s : State) (c : SpiCmd) (op : Nat) (cut : CutAt) (busy : Nat) (h : c.port < s.ports.length) :
    s.refusedAs (((s.fresh.disarm c.port).interrupt c.port).refuse c op cut busy) c.port busy ∧
    (((s.fresh.disarm c.port).interrupt c.port).refuse c op cut busy).out =
      (if (s.port c.port).mode = .measure then [.cut c.port op cut, .down c.port 0 0x04 0 []] else []) := by
  have hf := State.hear_facts s c.port h
  obtain ⟨r1, r2, r3, r4, r5, r6⟩ := State.refuse_facts ((s.fresh.disarm c.port).interrupt c.port) c op cut busy (hf.2.2.1 ▸ h)
  have hn : ((s.fresh.disarm c.port).interrupt c.port).now = s.now := by unfold State.now; rw [hf.2.2.2.1]
  have hh : (s.portHeard c.port).refused = (s.port c.port).refused ∧ (s.portHeard c.port).passedBusy = (s.port c.port).passedBusy ∧
      (s.portHeard c.port).mode = (s.port c.port).mode := by unfold State.portHeard; split <;> exact ⟨rfl, rfl, rfl⟩
  rw [hf.1, hh.1] at r1
  rw [hf.1, hh.2.1] at r4
  rw [hf.1, hh.2.2, hf.2.2.2.2.2.1] at r5
  exact ⟨⟨r1, hn ▸ r2, r3, r4, fun m hm => (r6 m hm).trans (hf.2.1 m hm)⟩, r5⟩

theorem State.disarm_mod (s : State) (n : Nat) (f : Port → Port) (h : n < s.ports.length) :
    ((s.fresh.disarm n).modPort n f).port n = f { s.port n with resetArmed := false } ∧
    ∀ m, m ≠ n → ((s.fresh.disarm n).modPort n f).port m = s.port m :=
  ⟨(State.modPort_port_self _ _ _ (by rw [State.disarm, State.modPort_length]; exact h)).trans (congrArg f (s.disarm_port n h)),
   fun _ hm => (State.modPort_port_other _ _ _ _ hm).trans (State.modPort_port_other _ _ _ _ hm)⟩

theorem State.setPhase_port (s : State) (n : Nat) (ph : Phase) (h : n < s.ports.length) :
    (s.setPhase n ph).port n = { s.port n with phase := ph } ∧ (s.setPhase n ph).ports.length = s.ports.length ∧
    ∀ m, m ≠ n → (s.setPhase n ph).port m = s.port m := by
  unfold State.setPhase
  split
  · next e => exact ⟨by rw [← e], rfl, fun _ _ => rfl⟩
  · exact ⟨State.modPort_port_self s _ _ h, State.modPort_length _ _ _, fun _ hm => State.modPort_port_other s _ _ _ hm⟩

theorem State.dropDigest_ports (s : State) (n : Nat) : (s.dropDigest n).ports = s.ports :=
  State.dropDigest_only s n (List.Subset.refl _) (State.only_refl _ s) .ports (by decide)

/-- What a port advertises changes nothing else at it (R131, R135). -/
theorem State.advertise_port (s : State) (n : Nat) (h : n < s.ports.length) :
    ∃ a b c, (s.advertise n).port n = { s.port n with dummy := a, fastMax := b, sfdp := c } ∧
      (s.advertise n).ports.length = s.ports.length ∧ ∀ m, m ≠ n → (s.advertise n).port m = s.port m := by
  unfold State.advertise
  split
  · exact ⟨_, _, _, rfl, rfl, fun _ _ => rfl⟩
  · exact ⟨_, _, _, State.modPort_port_self _ _ _ h, State.modPort_length _ _ _, fun _ k => State.modPort_port_other _ _ _ _ k⟩

/-- A source passes (R167, R169). -/
theorem State.sourcePass_facts (s : State) (n : Nat) (x : Slot) (h : n < s.ports.length) :
    ((s.sourcePass n x).port n).verdict = .pass ∧ ((s.sourcePass n x).port n).serving = some x ∧
    ((s.sourcePass n x).port n).phase = .serve ∧ ((s.sourcePass n x).port n).cand = none := by
  unfold State.sourcePass
  extract_lets fb s1 window s2 s3 s4
  have l1 : s1.ports.length = s.ports.length := by
    unfold s1 fb
    cases (s.port n).fallbackOf with
    | none => rfl
    | some y => exact State.modPort_length _ _ _
  have p2 : (s2.port n).verdict = .pass ∧ (s2.port n).serving = some x ∧ (s2.port n).cand = none ∧ s2.ports.length = s.ports.length := by
    unfold s2
    rw [State.modPort_port_self _ _ _ (by rw [l1]; exact h)]
    exact ⟨rfl, rfl, rfl, by rw [State.modPort_length, l1]⟩
  obtain ⟨a, b, c, q1, q2, -⟩ := State.advertise_port s2 n (by rw [p2.2.2.2]; exact h)
  have p3 : (s3.port n).verdict = .pass ∧ (s3.port n).serving = some x ∧ (s3.port n).cand = none ∧ s3.ports.length = s.ports.length := by
    have e : s3.ports = (s2.advertise n).ports := State.dropDigest_ports _ _
    have e' : s3.port n = (s2.advertise n).port n := by unfold State.port; rw [e]
    rw [e', e, q1, q2]
    exact p2
  have p4 : s4.ports = s3.ports := by
    unfold s4
    split <;> rfl
  have e : (s4.latch (portGroup n) 1).port n = s3.port n := by
    show s4.ports.getD n _ = _
    rw [p4]; rfl
  have q := State.setPhase_port (s4.latch (portGroup n) 1) n .serve (by show n < s4.ports.length; rw [p4, p3.2.2.2]; exact h)
  rw [e] at q
  show (((s4.latch (portGroup n) 1).setPhase n .serve).port n).verdict = .pass ∧ (((s4.latch (portGroup n) 1).setPhase n .serve).port n).serving = some x ∧
    (((s4.latch (portGroup n) 1).setPhase n .serve).port n).phase = .serve ∧ (((s4.latch (portGroup n) 1).setPhase n .serve).port n).cand = none
  rw [q.1]
  exact ⟨p3.1, p3.2.1, rfl, p3.2.2.1⟩

theorem State.failResponse_port (s : State) (n : Nat) (h : n < s.ports.length) :
    ((s.failResponse n).port n).verdict = (s.port n).verdict ∧ ((s.failResponse n).port n).reason = (s.port n).reason ∧
    ((s.failResponse n).port n).phase = (s.port n).phase ∧ ((s.failResponse n).port n).tagFail = (s.port n).tagFail := by
  have hh : ∀ t : State, (t.beginPortHold n).ports = t.ports := fun t =>
    State.beginPortHold_only t n (List.Subset.refl _) (State.only_refl _ t) .ports (by decide)
  have hr : ∀ t : State, n < t.ports.length → ((t.responseHold n).port n).verdict = (t.port n).verdict ∧ ((t.responseHold n).port n).reason = (t.port n).reason ∧
    ((t.responseHold n).port n).phase = (t.port n).phase ∧ ((t.responseHold n).port n).tagFail = (t.port n).tagFail ∧ n < (t.responseHold n).ports.length := by
    intro t ht
    have hx : ∀ (u : State), (u.beginPortHold n).port n = u.port n := fun u => by unfold State.port; rw [hh]
    unfold State.responseHold
    rw [hx, hh]
    by_cases k : (t.port n).recovering = true
    · have := State.modPort_port_self t n (fun p => { p with recHold := true }) ht
      rw [if_pos k, this, State.modPort_length]
      exact ⟨rfl, rfl, rfl, rfl, ht⟩
    · rw [if_neg k]; exact ⟨rfl, rfl, rfl, rfl, ht⟩
  unfold State.failResponse
  extract_lets v s1 s2 s3
  have h1 : (s1.port n).verdict = (s.port n).verdict ∧ (s1.port n).reason = (s.port n).reason ∧
    (s1.port n).phase = (s.port n).phase ∧ (s1.port n).tagFail = (s.port n).tagFail ∧ n < s1.ports.length := by
    unfold s1; split
    · exact hr s h
    · exact ⟨rfl, rfl, rfl, rfl, h⟩
  have h2 : s2.ports = s1.ports := by unfold s2; split <;> rfl
  have h3 : (s3.port n).verdict = (s1.port n).verdict ∧ (s3.port n).reason = (s1.port n).reason ∧
    (s3.port n).phase = (s1.port n).phase ∧ (s3.port n).tagFail = (s1.port n).tagFail := by
    have e : s2.port n = s1.port n := by unfold State.port; rw [h2]
    unfold s3; split
    · have := State.modPort_port_self s2 n (fun p => { p with recoverDue := true }) (h2 ▸ h1.2.2.2.2)
      show ((s2.modPort n _).port n).verdict = _ ∧ ((s2.modPort n _).port n).reason = _ ∧ ((s2.modPort n _).port n).phase = _ ∧ ((s2.modPort n _).port n).tagFail = _
      rw [this, e]
      exact ⟨rfl, rfl, rfl, rfl⟩
    · rw [e]; exact ⟨rfl, rfl, rfl, rfl⟩
  exact ⟨h3.1.trans h1.1, h3.2.1.trans h1.2.1, h3.2.2.1.trans h1.2.2.1, h3.2.2.2.trans h1.2.2.2.1⟩

/-- A verification that fails with no further source (R121, R167). -/
theorem State.verifyFail_facts (s : State) (n r : Nat) (h : n < s.ports.length) :
    ((s.verifyFail n r).port n).verdict = .fail ∧ ((s.verifyFail n r).port n).reason = r ∧
    ((s.verifyFail n r).port n).phase = .hold := by
  unfold State.verifyFail State.toHold
  generalize hv : (s.verdictFail n r).dropDigest n = t
  have ht : (t.port n).verdict = .fail ∧ (t.port n).reason = r ∧ n < t.ports.length := by
    have := State.modPort_port_self s n (fun p => { p with
      verdict := .fail, reason := r, cand := none, fallbackOf := none, serving := none, trialServed := false,
      trialEnd := none }) h
    rw [← hv]
    unfold State.port
    rw [State.dropDigest_ports]
    show ((s.modPort n _).port n).verdict = .fail ∧ ((s.modPort n _).port n).reason = r ∧ n < (s.modPort n _).ports.length
    rw [this, State.modPort_length]
    exact ⟨rfl, rfl, h⟩
  have hm := State.modPort_port_self t n (fun p => { p with wire := .spi, addr4 := false, wel := false, resetArmed := false }) ht.2.2
  generalize hu : t.modPort n (fun p => { p with wire := .spi, addr4 := false, wel := false, resetArmed := false }) = u at hm
  have hl : n < u.ports.length := by rw [← hu, State.modPort_length]; exact ht.2.2
  have hp := State.setPhase_port u n .hold hl
  have hf := State.failResponse_port (u.setPhase n .hold) n (hp.2.1 ▸ hl)
  rw [hp.1, hm] at hf
  exact ⟨hf.1.trans ht.1, hf.2.1.trans ht.2.1, hf.2.2.1⟩

end Sys2Proof.Machine
end

