-- ==== Sys2Proof/Laws/EffectsBus.lean ====
section
/-! SUPPORT. What the shared operations and the single commands do to the fields that the statements speak of: PLDM, partners and SPDM. -/

set_option maxRecDepth 10000
set_option linter.unusedVariables false
set_option linter.unusedSimpArgs false

namespace Sys2Proof.Machine

open Sys2Proof

theorem State.pldmOn_open (s : State) (h1 : s.core.op.powered = true) (h2 : s.pwr.halted = false) : s.fresh.pldmOn = true := by
  simp [State.pldmOn, h1, h2]

theorem State.pldmReq_open (s : State) (t src cmd : Nat) (f : State → State) (h : s.pldmOpen t src) :
    s.pldmReq t src cmd f = .next (f s.fresh) := by
  unfold State.pldmReq
  dsimp only
  rw [State.pldmOn_open s h.1 h.2.1, show s.fresh.fromQuarantine t src = false from h.2.2.1,
    show (s.fresh.valU (mkKey 0x2800 0x03)).testBit t = true from h.2.2.2]
  rfl

/-- A response that is announced changes nothing but what leaves (R186). -/
theorem State.inBand_out (s : State) (b : Nat) : (s.inBand b).out = s.out ++ s.announced b := by
  unfold State.inBand State.announced; split
  · rfl
  · exact (List.append_nil _).symm

theorem State.inBand_pldm (s : State) (b : Nat) : (s.inBand b).pldm = s.pldm := by unfold State.inBand; split <;> rfl

theorem State.pldmSend_out (s : State) (t cmd : Nat) (p : Bytes) :
    (s.pldmSend t cmd p).out = s.out ++ [.pldm t cmd p] ++ s.announced (transportBus t) := by
  unfold State.pldmSend; rw [State.inBand_out]; rfl

theorem State.pldmSend_pldm (s : State) (t cmd : Nat) (p : Bytes) : (s.pldmSend t cmd p).pldm = s.pldm :=
  State.inBand_pldm _ _

/-- A transfer that ends early (R180). -/
theorem State.endTransfer_pldm (s : State) :
    s.endTransfer.pldm.target = none ∧ s.endTransfer.pldm.data = [] ∧
    s.endTransfer.pldm.st = (if s.pldm.st == .download || s.pldm.st == .verify || s.pldm.st == .apply then .ready else s.pldm.st) ∧
    s.endTransfer.pldm.updated = s.pldm.updated := by
  unfold State.endTransfer
  extract_lets c busy n s1 s2 s3
  have h1 : s1.pldm = s.pldm := by
    unfold s1
    cases s.pldm.target with
    | none => rfl
    | some x =>
      dsimp only
      split
      · cases s.ledger with
        | none => rfl
        | some l => dsimp only; split <;> rfl
      · cases s.portLedger n with
        | none => rfl
        | some l => dsimp only; split <;> rfl
  have h2 : s2.pldm = s.pldm := by
    rw [← h1]; unfold s2; split
    · exact (State.setPhase_only s1 n .serve (List.Subset.refl _) (State.only_refl _ _) .pldm (by decide) :)
    · rfl
  have h3 : s3.pldm.target = none ∧ s3.pldm.data = [] ∧ s3.pldm.st = (if busy then .ready else s.pldm.st) ∧ s3.pldm.updated = s.pldm.updated := by
    unfold s3
    exact ⟨rfl, rfl, by show (if busy then _ else s2.pldm.st) = _; rw [h2], by show s2.pldm.updated = _; rw [h2]⟩
  have hb : (s.pldm.st == .download || s.pldm.st == .verify || s.pldm.st == .apply) = busy := rfl
  rw [hb]
  by_cases k : busy = true
  · rw [if_pos k]; exact h3
  · rw [if_neg k]; exact h3

/-- A transfer that fails (R92, R179). -/
theorem State.updateFails_pldm (s : State) (cmd : Nat) (bad : Bool) (r : Nat) :
    (s.updateFails cmd bad r).pldm.st = .ready ∧ (s.updateFails cmd bad r).pldm.target = none ∧
    (s.updateFails cmd bad r).pldm.updated = s.pldm.updated := by
  unfold State.updateFails
  extract_lets c n s1 s2 s3
  have h1 : s1.pldm = s.pldm := by
    unfold s1
    cases s.pldm.target with
    | none => rfl
    | some x => dsimp only; (repeat' split) <;> rfl
  have h2 : s2.pldm = s.pldm := by
    rw [← h1]; unfold s2; split
    · exact (State.setPhase_only s1 n .serve (List.Subset.refl _) (State.only_refl _ _) .pldm (by decide) :)
    · rfl
  rw [State.pldmSend_pldm]
  exact ⟨rfl, rfl, by show s2.pldm.updated = _; rw [h2]⟩

theorem State.setPhase_pldm (s : State) (n : Nat) (ph : Phase) : (s.setPhase n ph).pldm = s.pldm :=
  State.setPhase_only s n ph (List.Subset.refl _) (State.only_refl _ _) .pldm (by decide)

/-- A transfer whose slot is staged (R91, R179). -/
theorem State.updateStaged_pldm (s : State) (x : Slot) :
    (s.updateStaged x).pldm.st = .ready ∧ (s.updateStaged x).pldm.target = none ∧
    (s.updateStaged x).pldm.updated = s.pldm.updated ++ [(s.pldm.component, x)] := by
  by_cases hc : s.pldm.component = 0x7100
  · simp only [State.updateStaged, if_pos hc, State.pldmSend_pldm]
    exact ⟨rfl, rfl, rfl⟩
  · simp only [State.updateStaged, if_neg hc, State.pldmSend_pldm]
    refine ⟨rfl, rfl, ?_⟩
    show (State.setPhase _ _ .serve).pldm.updated ++ _ = _
    rw [State.setPhase_pldm]; rfl

theorem State.requestData_pldm (s : State) : s.requestData.pldm = s.pldm := by
  unfold State.requestData; dsimp only; split
  · rw [State.pldmSend_pldm]
  · rfl

theorem State.requestData_out (s : State) (h : s.pldm.received < s.pldm.size) : s.requestData.out = s.out ++
    [.pldm s.pldm.transport 0x15 (leN 4 s.pldm.received ++ leN 4 s.pldm.requestLen)] ++
    s.announced (transportBus s.pldm.transport) := by
  unfold State.requestData; dsimp only; rw [if_pos h, State.pldmSend_out]

theorem State.modPartner_partner (s : State) (k : Nat) (f : Partner → Partner) (h : k < s.par.table.length) :
    (s.modPartner k f).partner k = f (s.partner k) := by
  show (updAt s.par.table k f).getD k _ = f (s.par.table.getD k _)
  rw [updAt_getD, if_pos ⟨rfl, h⟩]

theorem State.modPartner_length (s : State) (k : Nat) (f : Partner → Partner) :
    (s.modPartner k f).par.table.length = s.par.table.length := by
  simp [State.modPartner, State.modPar, updAt]

/-- A request to a partner goes out (R194, R200). -/
theorem State.sendReq_facts (s : State) (k : Nat) (h : k < s.par.table.length) :
    ((s.sendReq k).partner k).waiting = true ∧ ((s.sendReq k).partner k).attempts = (s.partner k).attempts + 1 ∧
    ((s.sendReq k).partner k).sentAt = s.now ∧ ((s.sendReq k).partner k).step = (s.partner k).step ∧
    (s.sendReq k).out = s.out ++ [s.partnerAsk k] := by
  unfold State.sendReq State.partnerAsk
  extract_lets p pol tag s1
  have := State.modPartner_partner s k (fun p => { p with
    tag := tag, lastTag := tag, waiting := true, attempts := p.attempts + 1, sentAt := s.now }) h
  have e : ∀ o, ((s1.emit o).partner k).waiting = true ∧ ((s1.emit o).partner k).attempts = (s.partner k).attempts + 1 ∧
      ((s1.emit o).partner k).sentAt = s.now ∧ ((s1.emit o).partner k).step = (s.partner k).step ∧
      (s1.emit o).out = s.out ++ [o] := by
    intro o
    show (s1.partner k).waiting = true ∧ (s1.partner k).attempts = _ ∧ (s1.partner k).sentAt = _ ∧ (s1.partner k).step = _ ∧ _
    unfold s1
    rw [this]
    exact ⟨rfl, rfl, rfl, rfl, rfl⟩
  split
  · exact e _
  · exact e _

theorem State.partnerVerdict_facts (s : State) (k r : Nat) (h : k < s.par.table.length) :
    (s.partnerVerdict k r).partner k = { s.partner k with
      st := if r = 0 then .pass else .fail, reason := r, verdictAt := s.core.frameCt, step := 0, waiting := false, again := false, attempts := 0,
      checking := false } := by
  unfold State.partnerVerdict
  extract_lets p st s1 s2 s3 q
  have e1 : s1.partner k = { s.partner k with
      st := if r = 0 then .pass else .fail, reason := r, verdictAt := s.core.frameCt, step := 0, waiting := false, again := false, attempts := 0,
      checking := false } :=
    State.modPartner_partner s k _ h
  have e2 : s2.par = s1.par := by unfold s2; split <;> rfl
  have e3 : s3.par = s1.par := by rw [← e2]; unfold s3; split <;> rfl
  rw [← e1]
  show s3.par.table.getD k _ = s1.par.table.getD k _
  rw [e3]

theorem State.modPartner_other (s : State) (k m : Nat) (f : Partner → Partner) (h : m ≠ k) :
    (s.modPartner k f).partner m = s.partner m := by
  show (updAt s.par.table k f).getD m _ = s.par.table.getD m _
  rw [updAt_getD, if_neg (fun e => h e.1)]

/-- Between two states only entry `k` of the partner table differs, and no re-attestation is due earlier or later. -/
def State.entryOnly (s t : State) (k : Nat) : Prop := t.par.reattestAt = s.par.reattestAt ∧ ∀ m, m ≠ k → t.partner m = s.partner m

theorem State.entryOnly.trans {s t u : State} {k : Nat} (h : s.entryOnly t k) (g : t.entryOnly u k) : s.entryOnly u k :=
  ⟨g.1.trans h.1, fun m hm => (g.2 m hm).trans (h.2 m hm)⟩

theorem State.entryOnly_par {s t : State} (k : Nat) (h : t.par.table = s.par.table) (g : t.par.reattestAt = s.par.reattestAt) :
    s.entryOnly t k := ⟨g, fun m _ => by unfold State.partner; rw [h]⟩

theorem State.modPartner_entry (s : State) (k : Nat) (f : Partner → Partner) : s.entryOnly (s.modPartner k f) k :=
  ⟨rfl, fun m hm => State.modPartner_other s k m f hm⟩

theorem State.sendReq_entry (s : State) (k : Nat) : s.entryOnly (s.sendReq k) k := by
  unfold State.sendReq; dsimp only
  split
  · exact State.modPartner_entry s k _
  · exact State.modPartner_entry s k _

theorem State.endOwnSession_entry (s : State) (k : Nat) : s.entryOnly (s.endOwnSession k) k := by
  unfold State.endOwnSession; dsimp only
  split
  · exact State.entryOnly_par k rfl rfl
  · refine State.entryOnly.trans (t := (s.modPar _).modPartner k _) ?_ (State.entryOnly_par k rfl rfl)
    exact (State.entryOnly_par k rfl rfl).trans (State.modPartner_entry _ k _)

theorem State.stopAttest_entry (s : State) (k : Nat) : s.entryOnly (s.stopAttest k) k := by
  unfold State.stopAttest
  have e : ((s.endOwnSession k).dropWhat (·.forPartner k)).par = (s.endOwnSession k).par :=
    State.dropWhat_only _ _ (List.Subset.refl _) (State.only_refl _ _) .par (by decide)
  exact ((s.endOwnSession_entry k).trans (State.entryOnly_par k (congrArg Par.table e) (congrArg Par.reattestAt e))).trans
    (State.modPartner_entry _ k _)

theorem State.freshId_par (s : State) (n : Nat) (b : Nat → Bool) (k : Nat) : (s.freshId n b k).2.par = s.par := by
  unfold State.freshId; dsimp only; split <;> rfl

theorem State.toStep_entry (s : State) (k n : Nat) : s.entryOnly (s.toStep k n) k := by
  unfold State.toStep
  extract_lets s1 d
  have h1 : s.entryOnly s1 k := State.modPartner_entry s k _
  split
  · exact h1
  split
  · have e : d.2.par = s1.par := State.freshId_par _ _ _ _
    exact ((h1.trans (State.entryOnly_par k (congrArg Par.table e) (congrArg Par.reattestAt e))).trans
      (State.modPartner_entry _ k _)).trans (State.sendReq_entry _ k)
  · exact h1.trans (State.sendReq_entry _ k)

/-- An attestation that begins touches its own entry alone (R194). -/
theorem State.attest_frame (s : State) (k : Nat) (a : Bool) :
    (s.attest k a).par.reattestAt = s.par.reattestAt ∧ ∀ m, m ≠ k → (s.attest k a).partner m = s.partner m := by
  have l0 := (s.stopAttest_entry k).trans ((s.stopAttest k).modPartner_entry k
    (fun p => { p with again := a, chain := [], summary := [], runNo := p.runNo + 1 }))
  exact l0.trans (State.toStep_entry _ k 1)

theorem State.putConn_conn (s : State) (c : SpdmConn) : (s.putConn c).conn? c.transport c.peer = some c := by
  unfold State.conn? State.putConn
  show (List.filter (fun x => !(x.transport == c.transport && x.peer == c.peer)) s.par.conns ++ [c]).find? _ = some c
  rw [List.find?_append, List.find?_eq_none.mpr, Option.none_or]
  · simp
  · intro x hx
    have := (List.mem_filter.mp hx).2
    simp at this ⊢
    exact fun e1 e2 => this.elim (· e1) (· e2)

theorem State.inBand_par (s : State) (b : Nat) : (s.inBand b).par = s.par := by unfold State.inBand; split <;> rfl

theorem State.mboxAnswer_par (s : State) (b : Bytes) : (s.mboxAnswer b).par = s.par := rfl

theorem State.spdmReply_par (s : State) (t p c : Nat) (b : Bytes) : (s.spdmReply t p c b).par = s.par := by
  unfold State.spdmReply
  dsimp only
  split
  · rw [State.mboxAnswer_par, State.inBand_par]; rfl
  · rw [State.inBand_par]; rfl

theorem State.spdmReply_out (s : State) (t p c : Nat) (b : Bytes) : Out.spdm t p c b ∈ (s.spdmReply t p c b).out := by
  have h1 : Out.spdm t p c b ∈ ((s.emit (.spdm t p c b)).inBand (if t < 5 then transportBus t else 5)).out := by
    rw [State.inBand_out]
    exact List.mem_append_left _ (List.mem_append_right _ (List.mem_singleton.mpr rfl))
  unfold State.spdmReply
  dsimp only
  split
  · exact h1
  · exact h1

theorem State.conn_par {s t : State} (h : t.par = s.par) (a b : Nat) : t.conn? a b = s.conn? a b := by
  unfold State.conn?; rw [h]

/-- A request that its connection takes (R201). -/
theorem State.spdmReq_ready (s : State) (q : SpdmReq) (c : SpdmConn) (lo hi : Nat) (f : State → SpdmConn → State)
    (h : s.spdmReady q c lo hi) :
    s.spdmReq q lo hi f = .next (f (s.fresh.putConn { c with transcript := c.transcript ++ q.payload })
      { c with transcript := c.transcript ++ q.payload }) ∧ c.transport = q.transport ∧ c.peer = q.peer := by
  obtain ⟨h1, h2, h3, h4, h5, h6, h7, h8⟩ := h
  have hc := List.find?_some h4
  simp only [Bool.and_eq_true, beq_iff_eq] at hc
  refine ⟨?_, hc.1, hc.2⟩
  unfold State.spdmReq
  dsimp only
  have e1 : s.fresh.spdmTakes q = none := by
    unfold State.spdmTakes
    rw [show s.fresh.spdmOn q.transport = true from h1, show s.fresh.fromQuarantine q.transport q.peer = false from h2]; rfl
  have e2 : s.fresh.spdmBusy q = false := by
    unfold State.spdmBusy
    rw [show s.fresh.conn? q.transport q.peer = some c from h4]; dsimp only; rw [h5]; rfl
  rw [e1]
  dsimp only
  rw [e2, if_neg Bool.false_ne_true, if_neg (by rw [h3]; decide), show s.fresh.conn? q.transport q.peer = some c from h4]
  dsimp only
  rw [if_neg (fun k => k.elim (Nat.not_lt.mpr h6) (Nat.not_lt.mpr h7)), if_neg (fun k => k.2 (h8 k.1))]

/-- A session that a signed KEY_EXCHANGE_RSP starts (R209, R210). -/
theorem State.keyExchangeReply_session (s : State) (c : SpdmConn) (o : Owed) (h : s.par.sessions.length < 8) :
    ∃ x, (s.keyExchangeReply c o).par.sessions = s.par.sessions ++ [x] ∧ x.transport = c.transport ∧
      x.peer = c.peer ∧ x.established = false := by
  unfold State.keyExchangeReply
  extract_lets q chain r id d pub g x s1
  rw [if_neg (Nat.not_le.mpr h), State.spdmReply_par]
  exact ⟨x, congrArg (· ++ [x]) (congrArg Par.sessions (State.freshId_par s _ _ _)), rfl, rfl, rfl⟩

theorem State.spdmErr_par (s : State) (q : SpdmReq) (e : Nat) (d : Bytes) : (s.spdmErr q e d).par = s.par :=
  State.spdmReply_par _ _ _ _ _

/-- A message in a live session (R209, R210). -/
theorem State.spdmIn_live (s : State) (q : SpdmReq) (sid : Nat) (x : SpdmSess) (f : State → SpdmSess → State)
    (h : s.spdmOn q.transport = true) (hq : s.fromQuarantine q.transport q.peer = false) (hx : s.spdmSess? q sid = some x) :
    s.spdmIn q sid f = .next (f (s.fresh.modSpdm sid (fun x => { x with lastAt := s.now })) x) := by
  unfold State.spdmIn
  dsimp only
  have e1 : s.fresh.spdmTakes q = none := by
    unfold State.spdmTakes
    rw [show s.fresh.spdmOn q.transport = true from h, show s.fresh.fromQuarantine q.transport q.peer = false from hq]; rfl
  rw [e1]
  dsimp only
  rw [show s.fresh.spdmSess? q sid = some x from hx]
  rfl

theorem State.endSpdm_sessions (s : State) (x : SpdmSess) :
    (s.endSpdm x).par.sessions = s.par.sessions.filter (fun y => y.id != x.id) := by
  unfold State.endSpdm
  extract_lets s1 s2
  have : s2.par = s1.par := State.endChannel_only s1 _ (List.Subset.refl _) (State.only_refl _ _) .par (by decide)
  show s2.par.sessions = _
  rw [this]; rfl

theorem State.endSpdm_out (s : State) (x : SpdmSess) : (s.endSpdm x).out = s.out :=
  State.endSpdm_only s x (List.Subset.refl _) (State.only_refl _ _) .out (by decide)

end Sys2Proof.Machine
end

