-- ==== Sys2Proof/Laws/Records.lean ====
section
/-! SUPPORT. The two-bank MRAM records: a record that fits its form reads back as it was written, and what is written is in force. -/

set_option linter.unusedVariables false

namespace Sys2Proof.Machine

open Sys2Proof

/-! ### Bytes -/

theorem leN_length (n v : Nat) : (leN n v).length = n := by
  induction n generalizing v with
  | zero => rfl
  | succ n ih => exact congrArg (· + 1) (ih _)

theorem ofLE_leN (n v : Nat) (h : v < 256 ^ n) : ofLE (leN n v) = v := by
  induction n generalizing v with
  | zero => simp at h; subst h; rfl
  | succ n ih =>
    have h2 : v / 256 < 256 ^ n := by
      rw [Nat.div_lt_iff_lt_mul (by decide)]; rw [Nat.pow_succ] at h; exact h
    show (BitVec.ofNat 8 v).toNat + 256 * ofLE (leN n (v / 256)) = v
    rw [ih _ h2, BitVec.toNat_ofNat]
    omega

theorem ofLE_lt (b : Bytes) : ofLE b < 256 ^ b.length := by
  induction b with
  | nil => decide
  | cons x b ih =>
    have := x.isLt
    show x.toNat + 256 * ofLE b < 256 ^ (b.length + 1)
    rw [Nat.pow_succ]; omega

theorem slice_length_le (b : Bytes) (o n : Nat) : (slice b o n).length ≤ n := by
  unfold slice; rw [List.length_take]; omega

theorem slice_length (b : Bytes) (o n : Nat) (h : o + n ≤ b.length) : (slice b o n).length = n := by
  unfold slice; rw [List.length_take, List.length_drop]; omega

theorem uLE_lt (b : Bytes) (o n : Nat) : uLE b o n < 256 ^ n :=
  Nat.lt_of_lt_of_le (ofLE_lt _) (Nat.pow_le_pow_right (by decide) (slice_length_le b o n))

theorem u8_lt (b : Bytes) (o : Nat) : u8 b o < 256 := (b.getD o 0).isLt

theorem fit_length (n : Nat) (b : Bytes) : (fit n b).length = n := by
  unfold fit zeros
  rw [List.length_take, List.length_append, List.length_replicate]; omega

theorem fit_self (n : Nat) (b : Bytes) (h : b.length = n) : fit n b = b := by
  unfold fit
  rw [List.take_append_of_le_length (Nat.le_of_eq h.symm), ← h, List.take_length]

/-- What stands after a prefix of known length. -/
theorem slice_append (a b c : Bytes) (o n : Nat) (ha : a.length = o) (hb : b.length = n) : slice (a ++ (b ++ c)) o n = b := by
  subst ha; subst hb
  unfold slice
  rw [List.drop_left, List.take_left]

/-! ### Records -/

theorem crcBit_lt (c : Nat) (h : c < 2 ^ 32) : crcBit c < 2 ^ 32 := by
  unfold crcBit
  split
  · exact Nat.xor_lt_two_pow (by omega) (by decide)
  · omega

theorem crcByte_lt (c : Nat) (b : Byte) (h : c < 2 ^ 32) : crcByte c b < 2 ^ 32 := by
  have hb : b.toNat < 2 ^ 32 := by have := b.isLt; omega
  unfold crcByte
  exact crcBit_lt _ (crcBit_lt _ (crcBit_lt _ (crcBit_lt _ (crcBit_lt _ (crcBit_lt _ (crcBit_lt _
    (crcBit_lt _ (Nat.xor_lt_two_pow h hb))))))))

theorem crc32c_lt (b : Bytes) : crc32c b < 2 ^ 32 := by
  have : ∀ (l : Bytes) (c : Nat), c < 2 ^ 32 → l.foldl crcByte c < 2 ^ 32 := by
    intro l
    induction l with
    | nil => intro c h; exact h
    | cons x l ih => intro c h; exact ih _ (crcByte_lt c x h)
  exact Nat.xor_lt_two_pow (this b _ (by decide)) (by decide)

/-- A record as its bank gives it back. -/
def RecordForm.stored {α : Type} (f : RecordForm α) (r : α) : α := f.parse (f.encode r)

/-- A record of the form's size is valid, and reads as its fields stand in the bank (R90). -/
theorem RecordForm.read_encode {α : Type} (f : RecordForm α) (r : α) (h1 : f.magic.length = 4)
    (h2 : (f.body r).length + 12 = f.size) : f.read (f.encode r) = some (f.stored r) := by
  obtain ⟨b, hb⟩ : ∃ b, b = f.magic ++ leN 4 (f.seq r).toNat ++ f.body r := ⟨_, rfl⟩
  have hl : b.length = f.size - 4 := by
    rw [hb, List.length_append, List.length_append, h1, leN_length]; omega
  have he : f.encode r = b ++ leN 4 (crc32c b) := by unfold RecordForm.encode; rw [← hb]
  unfold RecordForm.read RecordForm.stored
  refine if_pos ?_
  unfold RecordForm.valid
  rw [he]
  have g1 : (b ++ leN 4 (crc32c b)).length = f.size := by rw [List.length_append, hl, leN_length]; omega
  have g2 : slice (b ++ leN 4 (crc32c b)) 0 4 = f.magic := by
    rw [hb, List.append_assoc, List.append_assoc]
    exact slice_append [] f.magic _ 0 4 rfl h1
  have g3 : (b ++ leN 4 (crc32c b)).take (f.size - 4) = b := by rw [← hl, List.take_left]
  have g4 : uLE (b ++ leN 4 (crc32c b)) (f.size - 4) 4 = crc32c b := by
    unfold uLE
    have := slice_append b (leN 4 (crc32c b)) [] (f.size - 4) 4 hl (leN_length _ _)
    rw [List.append_nil] at this
    rw [this]
    exact ofLE_leN 4 _ (crc32c_lt b)
  rw [g1, g2, g3, g4]
  simp

theorem bv32_cycle (x y : BitVec 32) (h : y = x + 1) : x ≠ y + 1 := by
  intro q; bv_omega

/-- A record written with the next sequence number is the one in force (R90, R170). -/
theorem Banks.put_inForce {α : Type} (b : Banks) (f : RecordForm α) (r r' : α) (e : f.read (f.encode r) = some r')
    (h : ∀ x, b.inForce f = some x → f.seq r' = f.seq x + 1) : (b.put f r).inForce f = some r' := by
  obtain ⟨b0, b1⟩ := b
  unfold Banks.inForce at h
  unfold Banks.put
  dsimp only at h ⊢
  cases e0 : f.read b0 with
  | none =>
    unfold Banks.inForce
    dsimp only
    rw [e]
    cases e1 : f.read b1 with
    | none => rfl
    | some y =>
      rw [e0, e1] at h
      have g := h y rfl
      dsimp only
      rw [if_neg (bv32_cycle _ _ g), if_pos g]
  | some x =>
    cases e1 : f.read b1 with
    | none =>
      rw [e0, e1] at h
      have g := h x rfl
      unfold Banks.inForce
      dsimp only
      rw [e, e0]
      dsimp only
      rw [if_pos g]
    | some y =>
      rw [e0, e1] at h
      dsimp only at h ⊢
      have one : f.seq r' = f.seq x + 1 → (Banks.mk b0 (f.encode r)).inForce f = some r' := by
        intro g
        unfold Banks.inForce
        dsimp only
        rw [e, e0]
        dsimp only
        rw [if_pos g]
      have zero : f.seq r' = f.seq y + 1 → (Banks.mk (f.encode r) b1).inForce f = some r' := by
        intro g
        unfold Banks.inForce
        dsimp only
        rw [e, e1]
        dsimp only
        rw [if_neg (bv32_cycle _ _ g), if_pos g]
      split
      · rename_i q
        rw [if_pos q] at h
        exact zero (h y rfl)
      · rename_i q1
        rw [if_neg q1] at h
        split
        · rename_i q
          rw [if_pos q] at h
          exact one (h x rfl)
        · rename_i q2
          rw [if_neg q2] at h
          split
          · rename_i q
            rw [if_pos q] at h
            exact zero (h y rfl)
          · rename_i q
            rw [if_neg q] at h
            exact one (h x rfl)

theorem Banks.inForce_read {α : Type} (b : Banks) (f : RecordForm α) (x : α) (h : b.inForce f = some x) :
    ∃ c, f.valid c = true ∧ x = f.parse c := by
  have key : ∀ c, f.read c = some x → ∃ c, f.valid c = true ∧ x = f.parse c := by
    intro c hc
    unfold RecordForm.read at hc
    split at hc
    · rename_i v; exact ⟨c, v, (Option.some.inj hc).symm⟩
    · cases hc
  unfold Banks.inForce at h
  split at h
  · exact key _ h
  · exact key _ (by assumption)
  · rename_i e0 e1
    (repeat' split at h) <;> (cases h; first | exact key _ e1 | exact key _ e0)

theorem RecordForm.valid_length {α : Type} {f : RecordForm α} {b : Bytes} (h : f.valid b = true) : b.length = f.size := by
  unfold RecordForm.valid at h
  simp only [Bool.and_eq_true, beq_iff_eq] at h
  exact h.1.1

/-! ### Fields -/

theorem SlotState.ofCode_code (x : SlotState) : SlotState.ofCode x.code = x := by cases x <;> rfl

theorem byteSlot_slotByte (x : Option Slot) (h : x ≠ some .r) : byteSlot (slotByte x) = x := by
  cases x with
  | none => rfl
  | some y => cases y <;> first | rfl | exact absurd rfl h

theorem slotByte_lt (x : Option Slot) : slotByte x < 256 := by
  cases x with
  | none => decide
  | some y => cases y <;> decide

theorem code_lt (x : SlotState) : x.code < 256 := by cases x <;> decide

theorem byteSlot_ne (v : Nat) : byteSlot v ≠ some .r := by unfold byteSlot; repeat' split <;> simp

theorem ofNat8 (v : Nat) (h : v < 256) : (BitVec.ofNat 8 v).toNat = v := by rw [BitVec.toNat_ofNat]; omega

/-- A device ledger that its 64 bytes can hold (R90). -/
def DevLedger.fits (l : DevLedger) : Prop :=
  l.active ≠ some .r ∧ l.trial ≠ some .r ∧ l.count < 256 ∧ l.target < 256 ∧ l.svnA < 256 ∧ l.svnB < 256 ∧
  l.digA.length = 16 ∧ l.digB.length = 16

/-- A port ledger that its 64 bytes can hold (R170). -/
def PortLedger.fits (l : PortLedger) : Prop :=
  l.active ≠ some .r ∧ l.trial ≠ some .r ∧ l.count < 256 ∧ l.svA < 65536 ∧ l.svB < 65536 ∧ l.svR < 65536 ∧
  l.digA.length = 12 ∧ l.digB.length = 12 ∧ l.digR.length = 12

/-- A life-cycle mark that its 192 bytes can hold (R468). -/
def LcMark.fits (m : LcMark) : Prop := m.source < 256 ∧ m.target < 256 ∧ m.step < 256 ∧ m.record.length = 128

/-- The bytes of a device ledger before its digests. -/
def DevLedger.head (l : DevLedger) : Bytes :=
  bytesOf [0x44, 0x46, 0x4C, 0x31] ++ leN 4 l.seq.toNat ++ leN 1 (slotByte l.active) ++ leN 1 (slotByte l.trial) ++
    leN 1 l.stA.code ++ leN 1 l.stB.code ++ leN 1 l.count ++ leN 1 l.target ++ zeros 2 ++ leN 1 l.svnA ++ leN 1 l.svnB ++ zeros 2

theorem DevLedger.encode_eq (l : DevLedger) (h7 : l.digA.length = 16) (h8 : l.digB.length = 16) :
    ∃ c, devForm.encode l = l.head ++ (l.digA ++ (l.digB ++ c)) := by
  refine ⟨zeros 8 ++ leN 4 (crc32c (devForm.magic ++ leN 4 (devForm.seq l).toNat ++ devForm.body l)), ?_⟩
  unfold RecordForm.encode devForm DevLedger.head
  simp only [fit_self 16 _ h7, fit_self 16 _ h8, List.append_assoc]

theorem DevLedger.head_bytes (l : DevLedger) (c : Bytes) (h3 : l.count < 256) (h4 : l.target < 256) (h5 : l.svnA < 256)
    (h6 : l.svnB < 256) :
    u8 (l.head ++ c) 8 = slotByte l.active ∧ u8 (l.head ++ c) 9 = slotByte l.trial ∧ u8 (l.head ++ c) 10 = l.stA.code ∧
    u8 (l.head ++ c) 11 = l.stB.code ∧ u8 (l.head ++ c) 12 = l.count ∧ u8 (l.head ++ c) 13 = l.target ∧
    u8 (l.head ++ c) 16 = l.svnA ∧ u8 (l.head ++ c) 17 = l.svnB := by
  have a := slotByte_lt l.active
  have b := slotByte_lt l.trial
  have d := code_lt l.stA
  have e := code_lt l.stB
  simp [DevLedger.head, u8, leN, bytesOf, zeros, List.replicate, BitVec.toNat_ofNat, Nat.mod_eq_of_lt, *]

theorem uLE_seq (m : Bytes) (v : BitVec 32) (c : Bytes) (hm : m.length = 4) : uLE (m ++ (leN 4 v.toNat ++ c)) 4 4 = v.toNat := by
  unfold uLE
  rw [slice_append m (leN 4 v.toNat) c 4 4 hm (leN_length _ _)]
  exact ofLE_leN 4 _ v.isLt

theorem DevLedger.head_seq (l : DevLedger) (c : Bytes) : uLE (l.head ++ c) 4 4 = l.seq.toNat := by
  unfold DevLedger.head
  simp only [List.append_assoc]
  exact uLE_seq _ _ _ rfl

/-- A device ledger reads back from its bank (R90). -/
theorem DevLedger.read_encode (l : DevLedger) (h : l.fits) : devForm.read (devForm.encode l) = some l := by
  obtain ⟨h1, h2, h3, h4, h5, h6, h7, h8⟩ := h
  refine (RecordForm.read_encode devForm l rfl ?_).trans (congrArg some ?_)
  · simp [devForm, leN_length, fit_length, zeros]
  obtain ⟨c, he⟩ := DevLedger.encode_eq l h7 h8
  have hh : l.head.length = 20 := rfl
  have e3 : slice (devForm.encode l) 20 16 = l.digA := by rw [he]; exact slice_append _ _ _ _ _ hh h7
  have e4 : slice (devForm.encode l) 36 16 = l.digB := by
    rw [he, ← List.append_assoc]
    exact slice_append _ _ _ _ _ (by rw [List.length_append, hh, h7]) h8
  obtain ⟨k8, k9, k10, k11, k12, k13, k16, k17⟩ := DevLedger.head_bytes l (l.digA ++ (l.digB ++ c)) h3 h4 h5 h6
  have e0 := DevLedger.head_seq l (l.digA ++ (l.digB ++ c))
  rw [← he] at k8 k9 k10 k11 k12 k13 k16 k17 e0
  show devForm.parse (devForm.encode l) = l
  generalize devForm.encode l = b at *
  show ({ seq := BitVec.ofNat 32 (uLE b 4 4), active := byteSlot (u8 b 8), trial := byteSlot (u8 b 9), stA := .ofCode (u8 b 10),
          stB := .ofCode (u8 b 11), count := u8 b 12, target := u8 b 13, svnA := u8 b 16, svnB := u8 b 17,
          digA := slice b 20 16, digB := slice b 36 16 } : DevLedger) = l
  rw [e0, e3, e4, k8, k9, k10, k11, k12, k13, k16, k17, byteSlot_slotByte _ h1, byteSlot_slotByte _ h2,
    SlotState.ofCode_code, SlotState.ofCode_code, BitVec.ofNat_toNat, BitVec.setWidth_eq]

/-- The bytes of a port ledger before its digests. -/
def PortLedger.head (l : PortLedger) : Bytes :=
  bytesOf [0x50, 0x53, 0x4C, 0x31] ++ leN 4 l.seq.toNat ++ leN 1 (slotByte l.active) ++ leN 1 (slotByte l.trial) ++
    leN 1 l.stA.code ++ leN 1 l.stB.code ++ leN 1 l.count ++ leN 1 l.stR.code ++ zeros 2 ++ leN 2 l.svA ++ leN 2 l.svB ++
    leN 2 l.svR ++ zeros 2

theorem PortLedger.encode_eq (l : PortLedger) (h7 : l.digA.length = 12) (h8 : l.digB.length = 12) (h9 : l.digR.length = 12) :
    ∃ c, portForm.encode l = l.head ++ (l.digA ++ (l.digB ++ (l.digR ++ c))) := by
  refine ⟨leN 4 (crc32c (portForm.magic ++ leN 4 (portForm.seq l).toNat ++ portForm.body l)), ?_⟩
  unfold RecordForm.encode portForm PortLedger.head
  simp only [fit_self 12 _ h7, fit_self 12 _ h8, fit_self 12 _ h9, List.append_assoc]

theorem PortLedger.head_bytes (l : PortLedger) (c : Bytes) (h3 : l.count < 256) :
    u8 (l.head ++ c) 8 = slotByte l.active ∧ u8 (l.head ++ c) 9 = slotByte l.trial ∧ u8 (l.head ++ c) 10 = l.stA.code ∧
    u8 (l.head ++ c) 11 = l.stB.code ∧ u8 (l.head ++ c) 12 = l.count ∧ u8 (l.head ++ c) 13 = l.stR.code := by
  have a := slotByte_lt l.active
  have b := slotByte_lt l.trial
  have d := code_lt l.stA
  have e := code_lt l.stB
  have g := code_lt l.stR
  simp [PortLedger.head, u8, leN, bytesOf, zeros, List.replicate, BitVec.toNat_ofNat, Nat.mod_eq_of_lt, *]

theorem PortLedger.head_words (l : PortLedger) (c : Bytes) (h4 : l.svA < 65536) (h5 : l.svB < 65536) (h6 : l.svR < 65536) :
    uLE (l.head ++ c) 16 2 = l.svA ∧ uLE (l.head ++ c) 18 2 = l.svB ∧ uLE (l.head ++ c) 20 2 = l.svR := by
  have e : ∀ a v d o, List.length a = o → v < 65536 → uLE (a ++ (leN 2 v ++ d)) o 2 = v := by
    intro a v d o ha hv
    unfold uLE
    rw [slice_append a (leN 2 v) d o 2 ha (leN_length _ _)]
    exact ofLE_leN 2 _ hv
  refine ⟨?_, ?_, ?_⟩
  · have := e (bytesOf [0x50, 0x53, 0x4C, 0x31] ++ leN 4 l.seq.toNat ++ leN 1 (slotByte l.active) ++ leN 1 (slotByte l.trial) ++
      leN 1 l.stA.code ++ leN 1 l.stB.code ++ leN 1 l.count ++ leN 1 l.stR.code ++ zeros 2) l.svA
      (leN 2 l.svB ++ leN 2 l.svR ++ zeros 2 ++ c) 16 (by simp [leN_length, zeros, bytesOf]) h4
    simpa only [PortLedger.head, List.append_assoc] using this
  · have := e (bytesOf [0x50, 0x53, 0x4C, 0x31] ++ leN 4 l.seq.toNat ++ leN 1 (slotByte l.active) ++ leN 1 (slotByte l.trial) ++
      leN 1 l.stA.code ++ leN 1 l.stB.code ++ leN 1 l.count ++ leN 1 l.stR.code ++ zeros 2 ++ leN 2 l.svA) l.svB
      (leN 2 l.svR ++ zeros 2 ++ c) 18 (by simp [leN_length, zeros, bytesOf]) h5
    simpa only [PortLedger.head, List.append_assoc] using this
  · have := e (bytesOf [0x50, 0x53, 0x4C, 0x31] ++ leN 4 l.seq.toNat ++ leN 1 (slotByte l.active) ++ leN 1 (slotByte l.trial) ++
      leN 1 l.stA.code ++ leN 1 l.stB.code ++ leN 1 l.count ++ leN 1 l.stR.code ++ zeros 2 ++ leN 2 l.svA ++ leN 2 l.svB) l.svR
      (zeros 2 ++ c) 20 (by simp [leN_length, zeros, bytesOf]) h6
    simpa only [PortLedger.head, List.append_assoc] using this

theorem PortLedger.head_seq (l : PortLedger) (c : Bytes) : uLE (l.head ++ c) 4 4 = l.seq.toNat := by
  unfold PortLedger.head
  simp only [List.append_assoc]
  exact uLE_seq _ _ _ rfl

/-- A port ledger reads back from its bank (R170). -/
theorem PortLedger.read_encode (l : PortLedger) (h : l.fits) : portForm.read (portForm.encode l) = some l := by
  obtain ⟨h1, h2, h3, h4, h5, h6, h7, h8, h9⟩ := h
  refine (RecordForm.read_encode portForm l rfl ?_).trans (congrArg some ?_)
  · simp [portForm, leN_length, fit_length, zeros]
  obtain ⟨c, he⟩ := PortLedger.encode_eq l h7 h8 h9
  have hh : l.head.length = 24 := rfl
  have e3 : slice (portForm.encode l) 24 12 = l.digA := by rw [he]; exact slice_append _ _ _ _ _ hh h7
  have e4 : slice (portForm.encode l) 36 12 = l.digB := by
    rw [he, ← List.append_assoc]
    exact slice_append _ _ _ _ _ (by rw [List.length_append, hh, h7]) h8
  have e5 : slice (portForm.encode l) 48 12 = l.digR := by
    rw [he, ← List.append_assoc, ← List.append_assoc]
    exact slice_append _ _ _ _ _ (by rw [List.length_append, List.length_append, hh, h7, h8]) h9
  obtain ⟨k8, k9, k10, k11, k12, k13⟩ := PortLedger.head_bytes l (l.digA ++ (l.digB ++ (l.digR ++ c))) h3
  obtain ⟨w16, w18, w20⟩ := PortLedger.head_words l (l.digA ++ (l.digB ++ (l.digR ++ c))) h4 h5 h6
  have e0 := PortLedger.head_seq l (l.digA ++ (l.digB ++ (l.digR ++ c)))
  rw [← he] at k8 k9 k10 k11 k12 k13 w16 w18 w20 e0
  show portForm.parse (portForm.encode l) = l
  generalize portForm.encode l = b at *
  show ({ seq := BitVec.ofNat 32 (uLE b 4 4), active := byteSlot (u8 b 8), trial := byteSlot (u8 b 9), stA := .ofCode (u8 b 10),
          stB := .ofCode (u8 b 11), count := u8 b 12, stR := .ofCode (u8 b 13), svA := uLE b 16 2, svB := uLE b 18 2,
          svR := uLE b 20 2, digA := slice b 24 12, digB := slice b 36 12, digR := slice b 48 12 } : PortLedger) = l
  rw [e0, e3, e4, e5, k8, k9, k10, k11, k12, k13, w16, w18, w20, byteSlot_slotByte _ h1, byteSlot_slotByte _ h2,
    SlotState.ofCode_code, SlotState.ofCode_code, SlotState.ofCode_code, BitVec.ofNat_toNat, BitVec.setWidth_eq]

theorem LcMark.read_encode (m : LcMark) (h : m.fits) : markForm.read (markForm.encode m) = some m := by
  obtain ⟨h1, h2, h3, h4⟩ := h
  refine (RecordForm.read_encode markForm m rfl ?_).trans (congrArg some ?_)
  · simp [markForm, leN_length, fit_length, zeros]
  obtain ⟨c, hc⟩ : ∃ c, c = leN 4 (crc32c (markForm.magic ++ leN 4 (markForm.seq m).toNat ++ markForm.body m)) := ⟨_, rfl⟩
  have he : markForm.encode m = (bytesOf [0x4C, 0x43, 0x50, 0x31] ++ leN 4 m.seq.toNat ++ leN 1 m.source ++ leN 1 m.target ++
      leN 1 m.step ++ zeros 5) ++ (m.record ++ (zeros 44 ++ c)) := by
    rw [hc]
    unfold RecordForm.encode markForm
    simp only [fit_self 128 _ h4, List.append_assoc]
  have e3 : slice (markForm.encode m) 16 128 = m.record := by
    rw [he]; exact slice_append _ _ _ _ _ (by simp [leN_length, zeros, bytesOf]) h4
  have e0 : uLE (markForm.encode m) 4 4 = m.seq.toNat := by
    rw [he]; simp only [List.append_assoc]
    unfold uLE
    rw [slice_append (bytesOf [0x4C, 0x43, 0x50, 0x31]) (leN 4 m.seq.toNat) _ 4 4 rfl (leN_length _ _)]
    exact ofLE_leN 4 _ m.seq.isLt
  have k : ∀ i, u8 (markForm.encode m) i = u8 ((bytesOf [0x4C, 0x43, 0x50, 0x31] ++ leN 4 m.seq.toNat ++ leN 1 m.source ++
      leN 1 m.target ++ leN 1 m.step ++ zeros 5) ++ (m.record ++ (zeros 44 ++ c))) i := fun i => by rw [he]
  have k8 : u8 (markForm.encode m) 8 = m.source := (k 8).trans (ofNat8 _ h1)
  have k9 : u8 (markForm.encode m) 9 = m.target := (k 9).trans (ofNat8 _ h2)
  have k10 : u8 (markForm.encode m) 10 = m.step := (k 10).trans (ofNat8 _ h3)
  show markForm.parse (markForm.encode m) = m
  generalize markForm.encode m = b at *
  show ({ seq := BitVec.ofNat 32 (uLE b 4 4), source := u8 b 8, target := u8 b 9, step := u8 b 10, record := slice b 16 128 } : LcMark) = m
  rw [e0, e3, k8, k9, k10, BitVec.ofNat_toNat, BitVec.setWidth_eq]

/-! ### Records in force -/

theorem State.ledger_fits (s : State) : (s.ledger.getD ledgerZero).fits := by
  cases h : s.ledger with
  | none => exact ⟨by decide, by decide, by decide, by decide, by decide, by decide, rfl, rfl⟩
  | some l =>
    obtain ⟨c, hv, rfl⟩ := Banks.inForce_read _ _ _ h
    have hl : c.length = 64 := RecordForm.valid_length hv
    exact ⟨byteSlot_ne _, byteSlot_ne _, u8_lt _ _, u8_lt _ _, u8_lt _ _, u8_lt _ _, slice_length _ _ _ (by omega),
      slice_length _ _ _ (by omega)⟩

theorem State.portLedger_fits (s : State) (n : Nat) : ((s.portLedger n).getD portLedgerZero).fits := by
  cases h : s.portLedger n with
  | none => exact ⟨by decide, by decide, by decide, by decide, by decide, by decide, rfl, rfl, rfl⟩
  | some l =>
    obtain ⟨c, hv, rfl⟩ := Banks.inForce_read _ _ _ h
    have hl : c.length = 64 := RecordForm.valid_length hv
    exact ⟨byteSlot_ne _, byteSlot_ne _, u8_lt _ _, uLE_lt _ _ 2, uLE_lt _ _ 2, uLE_lt _ _ 2, slice_length _ _ _ (by omega),
      slice_length _ _ _ (by omega), slice_length _ _ _ (by omega)⟩

theorem DevLedger.setSt_fits {l : DevLedger} (h : l.fits) (x : Slot) (v : SlotState) : (l.setSt x v).fits := by cases x <;> exact h

theorem PortLedger.setSt_fits {l : PortLedger} (h : l.fits) (x : Slot) (v : SlotState) : (l.setSt x v).fits := by
  cases x <;> exact h

theorem PortLedger.setMan_fits {l : PortLedger} (h : l.fits) (x : Slot) (m : Bytes) (hd : ((sha384 m).take 12).length = 12) :
    (l.setMan x m).fits := by
  obtain ⟨h1, h2, h3, h4, h5, h6, h7, h8, h9⟩ := h
  have hm : manVersion m < 65536 := uLE_lt _ _ 2
  cases x
  · exact ⟨h1, h2, h3, hm, h5, h6, hd, h8, h9⟩
  · exact ⟨h1, h2, h3, h4, hm, h6, h7, hd, h9⟩
  · exact ⟨h1, h2, h3, h4, h5, hm, h7, h8, hd⟩

/-- The record that a change of the firmware ledger leaves in force (R90). -/
theorem State.putLedger_ledger (s : State) (f : DevLedger → DevLedger) (hf : (f (s.ledger.getD ledgerZero)).fits) :
    (s.putLedger f).ledger = some { f (s.ledger.getD ledgerZero) with
      seq := if s.ledger.isNone then 0 else (s.ledger.getD ledgerZero).seq + 1 } := by
  unfold State.putLedger
  refine Banks.put_inForce _ devForm _ _ (DevLedger.read_encode _ hf) (fun x h => ?_)
  have e : s.ledger = some x := h
  show (if s.ledger.isNone then 0 else (s.ledger.getD ledgerZero).seq + 1) = x.seq + 1
  rw [e]; rfl

/-- The record that a change of a port ledger leaves in force (R170). -/
theorem State.putPortLedger_ledger (s : State) (n : Nat) (f : PortLedger → PortLedger) (h : n < s.ports.length)
    (hf : (f ((s.portLedger n).getD portLedgerZero)).fits) :
    (s.putPortLedger n f).portLedger n = some { f ((s.portLedger n).getD portLedgerZero) with
      seq := if (s.portLedger n).isNone then 0 else ((s.portLedger n).getD portLedgerZero).seq + 1 } := by
  unfold State.putPortLedger
  dsimp only
  have q : ∀ (g : Port → Port) (a b : Nat) (e : Config.Ev) (l : List Nat),
      ((s.modPort n g).ev a b e l).portLedger n = (g (s.port n)).ledger.inForce portForm := by
    intro g a b e l
    show ((s.modPort n g).port n).ledger.inForce portForm = _
    rw [State.modPort_port_self _ _ _ h]
  rw [q]
  refine Banks.put_inForce _ portForm _ _ (PortLedger.read_encode _ hf) (fun x h => ?_)
  have e : s.portLedger n = some x := h
  show (if (s.portLedger n).isNone then 0 else ((s.portLedger n).getD portLedgerZero).seq + 1) = x.seq + 1
  rw [e]; rfl

/-- The mark that a life-cycle step writes is in force (R468). -/
theorem State.putMark_mark (s : State) (x : LcMark) (hx : x.fits) : (s.putMark (some x)).lcMark = some { x with
    seq := match s.lc.mark.inForce markForm with | some y => y.seq + 1 | none => 0 } := by
  unfold State.putMark State.lcMark
  refine Banks.put_inForce _ markForm _ _ (LcMark.read_encode _ hx) (fun y h => ?_)
  show (match s.lc.mark.inForce markForm with | some y => y.seq + 1 | none => (0 : BitVec 32)) = y.seq + 1
  rw [h]

/-- A SHA state has 8 words, and a digest the length of its kind. -/
theorem shaRound_length (p : ShaKind) (st : List Nat × List Nat) (k : Nat) (h : st.1.length = 8) : (shaRound p st k).1.length = 8 := by
  obtain ⟨v, w⟩ := st
  unfold shaRound
  split
  · rfl
  · exact h
theorem shaBlock_length (p : ShaKind) (h : List Nat) (b : Bytes) (e : h.length = 8) : (shaBlock p h b).length = 8 := by
  have : ∀ (l : List Nat) (st : List Nat × List Nat), st.1.length = 8 → (l.foldl (shaRound p) st).1.length = 8 := by
    intro l
    induction l with
    | nil => exact fun st h => h
    | cons k l ih => exact fun st h => ih _ (shaRound_length p st k h)
  unfold shaBlock
  dsimp only
  rw [List.length_zipWith, this _ _ (by exact e), e]; rfl
theorem shaRun_length (p : ShaKind) (iv : List Nat) (n : Nat) (m : Bytes) (e : iv.length = 8) (hn : n ≤ 8 * (p.w / 8)) :
    (shaRun p iv n m).length = n := by
  have : ∀ (l : List Bytes) (h : List Nat), h.length = 8 → (l.foldl (shaBlock p) h).length = 8 := by
    intro l
    induction l with
    | nil => exact fun st h => h
    | cons k l ih => exact fun st h => ih _ (shaBlock_length p st k h)
  have hb : ∀ k v, (beN k v).length = k := by intro k v; simp [beN, leN_length]
  unfold shaRun
  dsimp only
  rw [List.length_take, List.length_flatMap]
  simp only [hb, List.map_const', List.sum_replicate, smul_eq_mul]
  rw [this _ _ e]; omega
theorem sha384_length (m : Bytes) : (sha384 m).length = 48 := shaRun_length _ _ _ _ rfl (by decide)

end Sys2Proof.Machine
end

