-- ==== Sys2Proof/Laws/EffectsDict.lean ====
section
/-! SUPPORT. What the shared operations and the single commands do to the fields that the statements speak of: requests and the writes of entries. -/

set_option maxRecDepth 10000
set_option linter.unusedVariables false
set_option linter.unusedSimpArgs false

namespace Sys2Proof.Machine

open Sys2Proof

/-- Other sessions and connections, and nothing sent yet. -/
def State.sess (s : State) (a : List Sess) (c : List Dtls) : State :=
  { s with out := [], dict := { s.dict with sessions := a, conns := c } }

section
variable (s : State) (a : List Sess) (c : List Dtls)
theorem State.sess_newKeyCheck (i j t k) : (s.sess a c).newKeyCheck i j t k = s.newKeyCheck i j t k := by
  unfold State.newKeyCheck; rfl
theorem State.sess_secretCheck (i t k) : (s.sess a c).secretCheck i t k = s.secretCheck i t k := by
  unfold State.secretCheck; rfl
theorem State.sess_place (i t) : (s.sess a c).place i t = s.place i t := by unfold State.place; rfl
theorem State.sess_freshSecret (i) : ((s.sess a c).freshSecret i).1 = (s.freshSecret i).1 := by
  unfold State.freshSecret; split <;> rfl
theorem State.sess_officerUse (i t) : (s.sess a c).officerUse i t = s.officerUse i t := by unfold State.officerUse; rfl
theorem State.sess_cmdTarget (i j k l) : (s.sess a c).cmdTarget i j k l = s.cmdTarget i j k l := by
  unfold State.cmdTarget; rfl
theorem State.sess_keyPlan (k) : (s.sess a c).keyPlan k = s.keyPlan k := by
  unfold State.keyPlan; dsimp only
  simp only [State.sess_newKeyCheck, State.sess_secretCheck, State.sess_place, State.sess_freshSecret, State.sess_officerUse,
    State.sess_cmdTarget]
  rfl
theorem State.sess_timetableCheck (v) : (s.sess a c).timetableCheck v = s.timetableCheck v := by
  unfold State.timetableCheck; rfl
theorem State.sess_unitRule (key v) : (s.sess a c).unitRule key v = s.unitRule key v := by
  unfold State.unitRule; dsimp only
  simp only [State.sess_keyPlan, State.sess_timetableCheck]
  rfl
theorem State.sess_fwRule (key v) : (s.sess a c).fwRule key v = s.fwRule key v := by unfold State.fwRule; rfl
theorem State.sess_portRule (key v) : (s.sess a c).portRule key v = s.portRule key v := by unfold State.portRule; rfl
theorem State.sess_systemRule (key v r) : (s.sess a c).systemRule r key v = s.systemRule r key v := by
  unfold State.systemRule; rfl
theorem State.sess_entryCheck (key v r) : (s.sess a c).entryCheck r key v = s.entryCheck r key v := by
  unfold State.entryCheck
  simp only [State.sess_unitRule, State.sess_fwRule, State.sess_portRule, State.sess_systemRule]
  rfl
theorem State.sess_writeCheck (x : Sess) (key v) : (s.sess a c).writeCheck x key v = s.writeCheck x key v := by
  unfold State.writeCheck
  simp only [State.sess_entryCheck]
  rfl
theorem State.begun_writeCheck (x : Sess) (r op now key v) : s.writeCheck (x.begun r op now) key v = s.writeCheck x key v := by
  unfold State.writeCheck; rfl
theorem State.sess_valueProgramme (key v) : (s.sess a c).valueProgramme key v = s.valueProgramme key v := by
  unfold State.valueProgramme; rfl
theorem State.sess_needsQuorum (r key) : (s.sess a c).needsQuorum r key = s.needsQuorum r key := by
  unfold State.needsQuorum; rfl
theorem State.sess_logOpen : (s.sess a c).logOpen = s.logOpen := rfl
end

/-- `m` is `s` but for Logbook, sessions, latches and the counts of refused commands that await a summary: what writing an
entry for a request leaves (R140, R427, R444). -/
structure State.noted (s m : State) : Prop where
  only : s.only [.ports, .log, .atn, .dict] m
  dict : ∃ a c, m.dict = { s.dict with sessions := a, conns := c }
  port : ∀ n, ∃ k, m.port n = { s.port n with refSealed := k }
  len : m.ports.length = s.ports.length

theorem State.noted.refl (s : State) : s.noted s :=
  ⟨State.only_refl _ _, ⟨_, _, rfl⟩, fun _ => ⟨_, rfl⟩, rfl⟩

theorem State.noted.trans {s m u : State} (a : s.noted m) (b : m.noted u) : s.noted u := by
  obtain ⟨a1, ⟨p, q, a2⟩, a3, a4⟩ := a
  obtain ⟨b1, ⟨p', q', b2⟩, b3, b4⟩ := b
  refine ⟨fun x hx => ?_, ⟨p', q', by rw [b2, a2]⟩, fun n => ?_, b4.trans a4⟩
  · have := a1 x hx; have := b1 x hx
    cases x <;> simp_all [State.same]
  · obtain ⟨k, e⟩ := a3 n; obtain ⟨k', e'⟩ := b3 n
    exact ⟨k', by rw [e', e]⟩

theorem State.noted_of_only {s m : State} (h : s.only [.log, .atn] m) : s.noted m := by
  refine ⟨fun x hx => h x (fun e => hx (by revert e; cases x <;> simp)), ⟨s.dict.sessions, s.dict.conns, ?_⟩,
    fun n => ⟨(s.port n).refSealed, ?_⟩, ?_⟩
  · exact (h .dict (by decide) : m.dict = s.dict)
  · have hp : m.ports = s.ports := h .ports (by decide)
    have e : m.port n = s.port n := by unfold State.port; rw [hp]
    rw [e]
  · rw [(h .ports (by decide) : m.ports = s.ports)]

theorem State.touch_noted (s : State) (x : Sess) : s.noted (s.touch x) := by
  refine ⟨?_, ⟨_, _, rfl⟩, fun n => ⟨_, rfl⟩, rfl⟩
  exact State.touch_only s x (by decide) (State.only_refl _ _)

theorem State.modSession_noted (s : State) (k : Nat) (f : Sess → Sess) : s.noted (s.modSession k f) := by
  refine ⟨?_, ⟨_, s.dict.conns, rfl⟩, fun n => ⟨_, rfl⟩, rfl⟩
  exact State.modSession_only s k f (by decide) (State.only_refl _ _)

theorem State.sealed_noted (s : State) (n : Nat) : s.noted (s.modPort n (fun p => { p with refSealed := 0 })) := by
  refine ⟨State.modPort_only s n _ (by decide) (State.only_refl _ _), ⟨s.dict.sessions, s.dict.conns, rfl⟩, fun k => ?_,
    State.modPort_length _ _ _⟩
  rw [State.modPort_port]
  split
  · exact ⟨0, rfl⟩
  · exact ⟨_, rfl⟩

theorem State.ev_noted (s : State) (a b : Nat) (e : Config.Ev) (l : List Nat) : s.noted (s.ev a b e l) :=
  State.noted_of_only (State.ev_only s a b e l (by decide) (State.only_refl _ _))

theorem State.refusedSummaries_noted (s : State) : s.noted s.refusedSummaries := by
  unfold State.refusedSummaries
  generalize List.range 4 = l
  induction l generalizing s with
  | nil => exact State.noted.refl s
  | cons n l ih =>
    rw [List.foldl_cons]
    refine State.noted.trans ?_ (ih _)
    dsimp only
    split
    · exact State.noted.refl s
    · exact (State.ev_noted s _ _ _ _).trans (State.sealed_noted _ _)

theorem State.logLatches_noted (s : State) : s.noted s.logLatches := by
  unfold State.logLatches
  extract_lets a b c d e
  have h : s.noted e := by
    refine State.noted_of_only ?_
    unfold e d c
    repeat' first
      | with_reducible first
          | assumption | apply State.latch_only | apply State.modLog_only
          | refine ite_only ?_ ?_
      | exact State.only_refl _ _ | decide
  split
  · exact h
  · exact h.trans (State.refusedSummaries_noted e)

/-- Writing an entry changes nothing but the Logbook and what follows from its room (R140, R444, R459). -/
theorem State.ringPut_noted (s : State) (mk : Log → Bytes) : s.noted (s.ringPut mk) := by
  unfold State.ringPut
  extract_lets a b c d
  have h : s.noted d := by
    refine State.noted.trans (m := c) (State.noted_of_only ?_) (State.logLatches_noted c)
    unfold c b
    repeat' first
      | with_reducible first
          | assumption | apply State.modLog_only
          | refine ite_only ?_ ?_
      | exact State.only_refl _ _ | decide
  split
  · refine h.trans (State.noted_of_only ?_)
    repeat' first
      | with_reducible first
          | assumption | apply State.latch_only | apply State.modLog_only | apply State.logEv_only
      | exact State.only_refl _ _ | decide
  · exact h

theorem State.modSession_session (s : State) (k : Nat) (f : Sess → Sess) (hf : ∀ y, (f y).slot = y.slot) :
    (s.modSession k f).session? k = (s.session? k).map f := by
  unfold State.session? State.modSession State.modDict
  dsimp only
  rw [List.find?_map]
  have e : ((fun x : Sess => x.slot == k) ∘ fun x => if (x.slot == k) = true then f x else x) = fun x => x.slot == k := by
    funext y; simp only [Function.comp]; split <;> simp_all
  rw [e]
  cases q : s.dict.sessions.find? (fun x => x.slot == k) with
  | none => rfl
  | some y =>
    have := List.find?_some q
    simp only [Option.map_some]
    rw [if_pos this]

theorem State.request_ready (s : State) (r : Req) (x : Sess) (op : Nat) (f : State → Sess → State) (h : s.requestReady r x) :
    ∃ m, s.noted m ∧ m = { s with dict := m.dict } ∧ m.session? x.slot = some (x.begun r op s.now) ∧
      s.request r op f = f m (x.begun r op s.now) := by
  obtain ⟨a1, a2, a3, a4, a5, a6, a7⟩ := h
  refine ⟨(s.touch x).modSession x.slot (fun y => { y with busy := true, lastSeq := r.seq, lastOp := op, lastReply := none }),
    (State.touch_noted s x).trans (State.modSession_noted _ _ _), rfl, ?_, ?_⟩
  · refine (State.modSession_session _ _ _ (fun y => by rfl)).trans ?_
    have e : (s.touch x).session? x.slot = some { x with lastAt := s.now } := by
      have := State.modSession_session s x.slot (fun y => { y with lastAt := s.now }) (fun _ => rfl)
      rw [a3] at this; exact this
    rw [e]; rfl
  · unfold State.request
    rw [if_neg (by rw [a1]; decide), a2]
    dsimp only
    rw [if_neg (by rw [a4]; decide), if_neg (by rw [a5]; decide), if_neg a6]
    have e : decide (r.seq = x.lastSeq) = false := by rw [decide_eq_false_iff_not]; omega
    rw [e]
    split
    · rename_i q; cases q
    · rw [if_neg (fun q => q a7)]
      rfl

/-- No change waits for its entry in a Logbook that is open (R230). -/
theorem State.cmdLater_open (s : State) (key : Nat) (v : Bytes) (h : s.log.due = []) : s.cmdLater key v = false := by
  unfold State.cmdLater State.slotDue
  rw [h]
  simp

/-- A value that needs no programme waits for none (R152). -/
theorem State.programmeFor_none (s : State) (key : Nat) (v : Bytes) (e : Nat) (h : s.valueProgramme key v = none) :
    s.programmeFor key v e = none := by
  unfold State.programmeFor
  rw [h, ite_self]

/-- A write that passes its checks, once its entry can be written (R431, R432, R444). -/
theorem State.writeValue_takes (s : State) (x : Sess) (key : Nat) (v : Bytes) (b3 : s.writeCheck x key v = 0)
    (bp : s.valueProgramme key v = none)
    (b4 : s.needsQuorum x.role key = false) (c : s.logOpen) (d : key = 0x400006 → s.tack.cmdsThisFrame < 8)
    (k1 : key ≠ 0x500001) (k2 : exportEntry key = false) (k3 : key = 0x001001 → ofLE v ≠ s.dict.committed) :
    ∃ m, s.noted m ∧ m.dict = s.dict ∧
      s.writeValue x key v = (m.takeWrite key v).2.finish (x.desc 0 0 [] []) (plain (m.takeWrite key v).1) := by
  obtain ⟨c1, c2, c3, c4, c5⟩ := c
  refine ⟨s.ringPut (fun l => l.entryBytes (s.fullDesc (x.desc 0 0 [] []) (.entry key v x.cred))), State.ringPut_noted s _,
    State.ringPut_only s _ (List.Subset.refl _) (State.only_refl _ s) .dict (by decide), ?_⟩
  have e1 : s.effCheck (x.desc 0 0 [] []) (.entry key v x.cred) = 0 := by
    unfold State.writeCheck at b3
    show (if s.heldCheck x.chan.iface key ≠ 0 then s.heldCheck x.chan.iface key else s.entryCheck x.role key v) = 0
    revert b3
    split
    · rename_i hn
      unfold existCheck
      rw [hn]
      intro q
      split at q <;> simp [stRole, stRange] at q
    · split
      · intro q; simp [stReadOnly] at q
      · split
        · intro q; simp [stRole] at q
        · rw [s.cmdLater_open key v c5]; exact id
  have e2 : (∃ y, (Effect.entry key v y).isKey = true ∧ 8 ≤ s.tack.cmdsThisFrame) → False := by
    rintro ⟨y, q1, q2⟩
    simp only [Effect.isKey, beq_iff_eq] at q1
    have := d q1; omega
  unfold State.writeValue
  dsimp only
  rw [if_neg k1, b3, s.programmeFor_none key v 0 bp]
  dsimp only
  rw [if_neg (fun q => q rfl), if_neg (by rw [k2]; decide), if_neg (fun q => k3 q.1 q.2)]
  unfold State.askWrite
  rw [if_neg (by rw [b4]; simp)]
  unfold State.logChange
  rw [if_neg (by rw [c1]; simp), if_neg (by
    rw [c2, c4, c5]; rintro (q | q | q | q | q)
    · cases q
    · omega
    · cases q
    · cases q
    · exact e2 ⟨_, q⟩)]
  unfold State.writeChange
  rw [e1]
  rfl

/-- A write that is accepted (R431, R432, R444): its entry is written, and the value takes effect on a state that differs from
the one before in sessions and Logbook alone. -/
theorem State.writeRow_takes (s : State) (r : Req) (x : Sess) (key : Nat) (v : Bytes) (h : s.takes r x key v)
    (k1 : key ≠ 0x500001) (k2 : exportEntry key = false) (k3 : key = 0x001001 → ofLE v ≠ s.dict.committed) :
    ∃ m, s.fresh.noted m ∧ m.session? x.slot = some { x.begun r 0x11 s.now with staging := none } ∧
      s.fresh.writeRow r key v = (m.takeWrite key v).2.finish (x.desc 0 0 [] []) (plain (m.takeWrite key v).1) := by
  obtain ⟨a, b1, b3, b2, b4, c, d⟩ := h
  unfold State.writeRow
  unfold State.withApproval
  rw [b1]
  dsimp only
  obtain ⟨m, hm, hd, hs, e⟩ := State.request_ready s.fresh r x 0x11
    (fun s x => (s.modSession x.slot (fun y => { y with staging := none })).writeValue x key v) a
  rw [e]
  obtain ⟨p, q, hq⟩ := hm.dict
  have hn := hm.trans (State.modSession_noted m x.slot (fun y => { y with staging := none }))
  have hy : (m.modSession x.slot (fun y => { y with staging := none })).session? x.slot =
      some { x.begun r 0x11 s.now with staging := none } := by
    refine (State.modSession_session _ _ _ (fun y => by rfl)).trans ?_
    rw [hs]; rfl
  rw [hq] at hd
  have hd' : m = s.sess p q := hd
  have hm' : m.modSession x.slot (fun y => { y with staging := none }) =
      s.sess (m.modSession x.slot (fun y => { y with staging := none })).dict.sessions q := by rw [hd']; rfl
  generalize (m.modSession x.slot (fun y => { y with staging := none })).dict.sessions = w at hm'
  change ∃ m1, _ ∧ _ ∧ (m.modSession x.slot (fun y => { y with staging := none })).writeValue (x.begun r 0x11 s.now) key v = _
  rw [hm'] at hn hy ⊢
  obtain ⟨u, hu, hv, e2⟩ := State.writeValue_takes (s.sess w q) (x.begun r 0x11 s.now) key v
    (by rw [State.sess_writeCheck, State.begun_writeCheck]; exact b3) (by rw [State.sess_valueProgramme]; exact b2)
    (by rw [State.sess_needsQuorum]; exact b4) c d k1 k2 k3
  refine ⟨u, hn.trans hu, ?_, e2⟩
  rw [← hy]; unfold State.session?; rw [hv]

theorem getKey_putKey {α : Type} (l : List (Nat × α)) (k j : Nat) (v : α) :
    getKey (putKey l k v) j = if j = k then some v else getKey l j := by
  unfold getKey
  induction l with
  | nil =>
    unfold putKey
    by_cases e : j = k
    · subst e; simp
    · have : ¬ k = j := fun q => e q.symm
      simp [e, this]
  | cons p l ih =>
    obtain ⟨a, b⟩ := p
    unfold putKey
    by_cases e : j = k
    · subst e
      split
      · simp
      · split
        · simp
        · have q : ¬ a = j := by omega
          have q' : (a == j) = false := by simp [q]
          simp only [List.find?_cons, q']
          exact ih.trans (by simp)
    · have hk : ¬ k = j := fun q => e q.symm
      split
      · simp [List.find?_cons, hk, e]
      · split
        · rename_i q; subst q; simp [List.find?_cons, hk, e]
        · simp only [e, if_false] at ih ⊢
          simp only [List.find?_cons]
          split
          · rfl
          · exact ih

theorem getKey_dropKey {α : Type} (l : List (Nat × α)) (k j : Nat) :
    getKey (dropKey l k) j = if j = k then none else getKey l j := by
  unfold getKey dropKey
  by_cases e : j = k
  · subst e
    simp [List.find?_filter]
  · rw [if_neg e, List.find?_filter]
    congr 2
    funext p
    by_cases q : p.1 = j <;> simp [q, e]

/-- A value that is set is read, and no other entry's value changes (R432). -/
theorem State.setVal_val (s : State) (k j : Nat) (v : Bytes) : (s.setVal k v).val j = if j = k then v else s.val j := by
  unfold State.setVal State.val
  simp only [State.modDict]
  split
  · rename_i h
    rw [getKey_dropKey]
    by_cases e : j = k
    · subst e; simp [h]
    · simp [e]
  · rw [getKey_putKey]
    by_cases e : j = k
    · subst e; simp
    · simp [e]

theorem State.sendReply_dict (s : State) (c : Chan) (op seq sid : Nat) (r : Reply) : (s.sendReply c op seq sid r).dict = s.dict :=
  State.sendReply_only s c op seq sid r (List.Subset.refl _) (State.only_refl _ s) .dict (by decide)

/-- A response leaves, and what left before stays (R428). -/
theorem State.sendReply_sends (s : State) (c : Chan) (op seq sid : Nat) (r : Reply) :
    .reply sid seq r.status r.info r.payload ∈ (s.sendReply c op seq sid r).out ∧ ∀ o ∈ s.out, o ∈ (s.sendReply c op seq sid r).out := by
  have h : ∀ t : State, (.reply sid seq r.status r.info r.payload ∈ ((t.emit (.reply sid seq r.status r.info r.payload)).inBand
      (c.iface - 3)).out ∧ ∀ o ∈ t.out, o ∈ ((t.emit (.reply sid seq r.status r.info r.payload)).inBand (c.iface - 3)).out) := by
    intro t
    rw [State.inBand_out]
    exact ⟨List.mem_append_left _ (List.mem_append_right _ (List.mem_singleton.mpr rfl)),
      fun o ho => List.mem_append_left _ (List.mem_append_left _ ho)⟩
  unfold State.sendReply
  dsimp only
  split
  · exact h s
  · exact h s

/-- A request is answered without a change of any setting (R427, R428). -/
theorem State.answer_dict (s : State) (k : Nat) (r : Reply) : ∃ a, (s.answer k r).dict = { s.dict with sessions := a } := by
  unfold State.answer
  split
  · exact ⟨_, rfl⟩
  · refine ⟨s.dict.sessions.map fun x => if x.slot == k then { x with busy := false, lastReply := some r } else x, ?_⟩
    unfold State.modSession
    rw [State.modDict_dict, State.sendReply_dict]

theorem State.dictOn_iface {s : State} {i : Nat} (h : s.dictOn i = true) : 3 ≤ i ∧ i ≤ 8 := by
  unfold State.dictOn dictBit at h
  refine ⟨Nat.le_of_not_lt fun q => ?_, Nat.le_of_not_lt fun q => ?_⟩
  · have h1 : i ≠ 4 := by omega
    have h2 : i ≠ 5 := by omega
    have h3 : i ≠ 6 := by omega
    have h4 : i ≠ 3 := by omega
    have h5 : i ≠ 7 := by omega
    have h6 : i ≠ 8 := by omega
    simp [h1, h2, h3, h4, h5, h6] at h
  · have h1 : i ≠ 4 := by omega
    have h2 : i ≠ 5 := by omega
    have h3 : i ≠ 6 := by omega
    have h4 : i ≠ 3 := by omega
    have h5 : i ≠ 7 := by omega
    have h6 : i ≠ 8 := by omega
    simp [h1, h2, h3, h4, h5, h6] at h

/-- The settings, the sessions and the proposals are as they were. -/
def State.setAs (s t : State) : Prop :=
  t.dict.vals = s.dict.vals ∧ t.dict.sessions = s.dict.sessions ∧ t.dict.proposals = s.dict.proposals

theorem State.setAs_of_dict {s t : State} (h : t.dict = s.dict) : s.setAs t := by simp [State.setAs, h]

/-- The effects of a write beyond its value leave the settings and the sessions alone, but for a promotion (R413, R432). -/
theorem State.applyUnit_setAs (s : State) (key : Nat) (v : Bytes) (k : key ≠ 0x900009) : s.setAs (s.applyUnit key v).2 := by
  have hp : s.setAs (s.applyPlatform key v) := State.setAs_of_dict
    (State.applyPlatform_only s key v (List.Subset.refl _) (State.only_refl _ s) .dict (by decide))
  have hr : s.setAs (s.runCommand (keyCmdOf v)).2 := State.setAs_of_dict
    (State.runCommand_only s (keyCmdOf v) (List.Subset.refl _) (State.only_refl _ s) .dict (by decide))
  have hg : s.setAs s.srkGenerated := State.setAs_of_dict
    (State.srkGenerated_only s (List.Subset.refl _) (State.only_refl _ s) .dict (by decide))
  have ht : s.setAs (s.timetableLoaded v) := State.setAs_of_dict
    (State.timetableLoaded_only s v (List.Subset.refl _) (State.only_refl _ s) .dict (by decide))
  have hq : s.setAs s.retestPairs := State.setAs_of_dict
    (State.retestPairs_only s (List.Subset.refl _) (State.only_refl _ s) .dict (by decide))
  have hl : s.setAs s.logLatches := State.setAs_of_dict
    (State.logLatches_only s (List.Subset.refl _) (State.only_refl _ s) .dict (by decide))
  have hw : s.setAs (s.policyWritten (key % 256)) := State.setAs_of_dict
    (State.policyWritten_only s _ (List.Subset.refl _) (State.only_refl _ s) .dict (by decide))
  have hc : s.setAs s.commit := by
    have e : ∀ (d : Dict) l, (d.putBank l).vals = d.vals ∧ (d.putBank l).sessions = d.sessions ∧
        (d.putBank l).proposals = d.proposals := by
      intro d l; unfold Dict.putBank; dsimp only; split <;> (try split) <;> exact ⟨rfl, rfl, rfl⟩
    exact e s.dict s.snapshot
  unfold State.applyUnit
  dsimp only
  split
  case h_1 => exact hc
  case h_2 => exact ⟨rfl, rfl, rfl⟩
  case h_3 => split <;> exact ⟨rfl, rfl, rfl⟩
  case h_4 => exact ⟨rfl, rfl, rfl⟩
  case h_5 => split; exact hg; exact ⟨rfl, rfl, rfl⟩
  case h_6 => exact hr
  case h_7 => exact ht
  case h_8 => exact ⟨rfl, rfl, rfl⟩
  case h_9 => split; (dsimp only; exact hq); exact ⟨rfl, rfl, rfl⟩
  case h_10 => exact ⟨rfl, rfl, rfl⟩
  case h_11 => exact ⟨rfl, rfl, rfl⟩
  case h_12 => split <;> exact ⟨rfl, rfl, rfl⟩
  case h_13 => exact hl
  case h_14 => exact hl
  case h_15 => exact absurd rfl k
  case h_16 => exact ⟨rfl, rfl, rfl⟩
  case h_17 =>
    split
    · exact ⟨rfl, rfl, rfl⟩
    · split
      · dsimp only; exact hw
      · split
        · exact ⟨rfl, rfl, rfl⟩
        · split
          · exact ⟨rfl, rfl, rfl⟩
          · split
            · exact ⟨rfl, rfl, rfl⟩
            · exact hp

theorem State.written_val (s : State) (k j : Nat) (v : Bytes) : (s.written k v).val j = if j = k then v else s.val j :=
  State.setVal_val s k j v

/-- A write of an entry changes the working value of that entry alone (R432), but for a promotion (R413). -/
theorem State.applyEntry_val (s : State) (key j : Nat) (v : Bytes) (k : key ≠ 0x900009) :
    (s.applyEntry key v).2.val j = (if j = key then v else s.val j) ∧
      (s.applyEntry key v).2.dict.sessions = s.dict.sessions ∧
      (s.applyEntry key v).2.dict.proposals = s.dict.proposals := by
  unfold State.applyEntry
  split
  · rename_i e; subst e
    refine ⟨?_, ?_, ?_⟩
    · refine (State.written_val _ _ _ _).trans ?_
      have e : s.clearActing.val j = if j = 0x90000A then s.clearActing.val j else s.val j := by
        unfold State.clearActing
        by_cases z : s.valU (mkKey 0x9000 0x0A) = 1
        · rw [if_pos z]
          show (s.storeNow (mkKey 0x9000 0x0A) [0]).val j = if j = 0x90000A then _ else _
          have q : ∀ (t : State) (f : Dict → Dict), (∀ d, (f d).vals = d.vals) → (t.modDict f).val j = t.val j := by
            intro t f hf; unfold State.val State.modDict; rw [hf]
          unfold State.storeNow
          dsimp only
          by_cases y : j = 0x90000A
          · rw [if_pos y]; rfl
          · rw [q _ _ (fun d => by split <;> rfl), State.setVal_val]
            rw [if_neg y, if_neg (show ¬ j = mkKey 0x9000 0x0A from y)]
        · rw [if_neg z]; split <;> rfl
      rw [e]; split <;> rfl
    · show s.clearActing.dict.sessions = _
      unfold State.clearActing
      split
      · unfold State.storeNow
        show (if _ then _ else _ : Dict).sessions = _
        split <;> rfl
      · rfl
    · show s.clearActing.dict.proposals = _
      unfold State.clearActing
      split
      · unfold State.storeNow
        show (if _ then _ else _ : Dict).proposals = _
        split <;> rfl
      · rfl
  · split
    · exact ⟨State.written_val _ _ _ _, rfl, rfl⟩
    · obtain ⟨a, b⟩ := State.applyUnit_setAs (s.written key v) key v k
      refine ⟨?_, b⟩
      unfold State.val
      rw [a]
      exact State.written_val _ _ _ _

/-- A write that is accepted: what it does to the values, and that every other part is as its effect leaves it (R427, R432). -/
theorem State.writeRow_facts (s : State) (r : Req) (x : Sess) (key : Nat) (v : Bytes) (h : s.takes r x key v)
    (k1 : key ≠ 0x500001) (k2 : exportEntry key = false) (k3 : key = 0x001001 → ofLE v ≠ s.dict.committed)
    (k4 : key ≠ 0x001003) (k5 : key ≠ 0x900009) :
    ∃ m, s.fresh.noted m ∧
      (∀ p, p ∉ [Part.dmb, .dict, .out] → (m.applyEntry key v).2.same p (s.fresh.writeRow r key v)) ∧
      (∃ a, (s.fresh.writeRow r key v).dict = { (m.applyEntry key v).2.dict with sessions := a }) ∧
      (∀ j, (s.fresh.writeRow r key v).val j = if j = key then v else s.val j) ∧
      .reply x.id r.seq (m.applyEntry key v).1 0 [] ∈ (s.fresh.writeRow r key v).out := by
  obtain ⟨m, hm, hs, e⟩ := State.writeRow_takes s r x key v h k1 k2 k3
  have ht : m.takeWrite key v = m.applyEntry key v := by
    unfold State.takeWrite; dsimp only; rw [if_neg (fun q => k4 q.1)]
  have hf : ∀ (t : State) (y : Reply), t.finish (x.desc 0 0 [] []) y = t.answer x.slot y := by
    intro t y
    unfold State.finish
    exact if_pos (State.dictOn_iface h.1.2.2.2.1)
  rw [ht, hf] at e
  obtain ⟨a, ha⟩ := State.answer_dict (m.applyEntry key v).2 x.slot (plain (m.applyEntry key v).1)
  refine ⟨m, hm, ?_, ⟨a, by rw [e]; exact ha⟩, ?_, ?_⟩
  · rw [e]
    exact State.answer_only _ _ _ (List.Subset.refl _) (State.only_refl _ _)
  · intro j
    rw [e]
    have q : ∀ (t : State), (∃ a, t.dict = { (m.applyEntry key v).2.dict with sessions := a }) →
        t.val j = (m.applyEntry key v).2.val j := by
      rintro t ⟨a, q⟩; unfold State.val; rw [q]
    rw [q _ ⟨a, ha⟩, (State.applyEntry_val m key j v k5).1]
    obtain ⟨b, c, d⟩ := hm.dict
    have : m.val j = s.val j := by unfold State.val; rw [d]; rfl
    rw [this]
  · rw [e]
    have q : (m.applyEntry key v).2.session? x.slot = some { x.begun r 0x11 s.now with staging := none } := by
      rw [← hs]; unfold State.session?; rw [(State.applyEntry_val m key 0 v k5).2.1]
    unfold State.answer
    rw [q]
    exact (State.sendReply_sends _ x.chan 0x11 r.seq x.id (plain (m.applyEntry key v).1)).1

theorem ofLE_encN (n v : Nat) (h : v < 256 ^ n) : ofLE (encN n v) = v := by
  unfold encN; rw [if_pos h]; exact ofLE_leN n v h

theorem State.endPortHold_hal (s : State) (n : Nat) :
    (s.endPortHold n).hal = { s.hal with portHold := clearBits s.hal.portHold (BitVec.ofNat 4 (2 ^ n)) } := by
  unfold State.endPortHold
  split
  · rfl
  · rename_i h
    have e : clearBits s.hal.portHold (BitVec.ofNat 4 (2 ^ n)) = s.hal.portHold := by
      apply BitVec.eq_of_getLsbD_eq
      intro i hi
      rw [clearBit_getLsbD]
      by_cases q : i = n
      · subst q; simp only [Bool.not_eq_true] at h; rw [h]; rfl
      · simp [q]
    rw [e]

theorem State.endAlarmHold_hal (s : State) : s.endAlarmHold.hal = { s.hal with alarmHold := false } := by
  unfold State.endAlarmHold
  split
  · rfl
  · rename_i h; simp only [Bool.not_eq_true] at h; rw [← h]

/-- The holds whose bits are written end, and no other (R103, R104). -/
theorem State.clearHolds_hal (s : State) (w : Nat) :
    (∀ n < 4, (s.clearHolds w).hal.portHold.getLsbD n = (s.hal.portHold.getLsbD n && !w.testBit n)) ∧
      (s.clearHolds w).hal.alarmHold = (s.hal.alarmHold && !w.testBit 4) := by
  have st : ∀ (t : State) (n : Nat), (if w.testBit n then t.endPortHold n else t).hal.alarmHold = t.hal.alarmHold ∧
      ∀ k, (if w.testBit n then t.endPortHold n else t).hal.portHold.getLsbD k =
        (t.hal.portHold.getLsbD k && !(w.testBit n && decide (k = n))) := by
    intro t n
    split
    · rename_i h
      rw [State.endPortHold_hal]
      refine ⟨rfl, fun k => ?_⟩
      show (clearBits t.hal.portHold _).getLsbD k = _
      rw [clearBit_getLsbD, h]; simp
    · rename_i h; simp only [Bool.not_eq_true] at h; simp [h]
  have al : ∀ t : State, (if w.testBit 4 then t.endAlarmHold else t).hal.portHold = t.hal.portHold ∧
      (if w.testBit 4 then t.endAlarmHold else t).hal.alarmHold = (t.hal.alarmHold && !w.testBit 4) := by
    intro t
    split
    · rename_i h; rw [State.endAlarmHold_hal, h]; simp
    · rename_i h; simp only [Bool.not_eq_true] at h; simp [h]
  unfold State.clearHolds
  simp only [show List.range 4 = [0, 1, 2, 3] from rfl, List.foldl_cons, List.foldl_nil]
  refine ⟨fun n hn => ?_, ?_⟩
  · rw [(al _).1, (st _ 3).2, (st _ 2).2, (st _ 1).2, (st _ 0).2]
    rcases n with _ | _ | _ | _ | n
    · simp
    · simp
    · simp
    · simp
    · omega
  · rw [(al _).2, (st _ 3).1, (st _ 2).1, (st _ 1).1, (st _ 0).1]

/-- The record that ends a trial of the firmware (R91, R94). -/
theorem State.confirmTrial_facts (s : State) (k : Nat) (h : s.boot.trialFrom = some k) :
    ∃ l, s.confirmTrial.ledger = some l ∧ l.trial = none ∧ l.active = some (if s.boot.slotB then Slot.b else .a) ∧
      (if s.boot.slotB then l.stB else l.stA) = .active ∧ (if s.boot.slotB then l.stA else l.stB) = .retired := by
  unfold State.confirmTrial
  rw [h]
  dsimp only
  have q : ∀ (t : State) (g : Boot → Boot), (∀ b, (g b).ledger = b.ledger) → ((t.modBoot g).latch 5 14).ledger = t.ledger := by
    intro t g hg; unfold State.ledger; rw [State.latch_boot, State.modBoot_boot, hg]
  rw [q _ (fun b => { b with trialFrom := none }) (fun _ => rfl)]
  have hl := s.ledger_fits
  cases s.boot.slotB with
  | true => exact ⟨_, State.putLedger_ledger _ _ ⟨by simp, by simp, hl.2.2.1, hl.2.2.2⟩, rfl, rfl, rfl, rfl⟩
  | false => exact ⟨_, State.putLedger_ledger _ _ ⟨by simp, by simp, hl.2.2.1, hl.2.2.2⟩, rfl, rfl, rfl, rfl⟩

theorem State.writeRow_facts' (s : State) (r : Req) (x : Sess) (key : Nat) (v : Bytes) (h : s.takes r x key v)
    (k : key ≠ 0x500001 ∧ key ≠ 0x800101 ∧ key ≠ 0x800103 ∧ key ≠ 0x001001 ∧ key ≠ 0x001003 ∧ key ≠ 0x900009) :
    ∃ m, s.fresh.noted m ∧
      (∀ p, p ∉ [Part.dmb, .dict, .out] → (m.applyEntry key v).2.same p (s.fresh.writeRow r key v)) ∧
      (∃ a, (s.fresh.writeRow r key v).dict = { (m.applyEntry key v).2.dict with sessions := a }) ∧
      (∀ j, (s.fresh.writeRow r key v).val j = if j = key then v else s.val j) ∧
      .reply x.id r.seq (m.applyEntry key v).1 0 [] ∈ (s.fresh.writeRow r key v).out :=
  State.writeRow_facts s r x key v h k.1 (by unfold exportEntry; simp [k.2.1, k.2.2.1]) (fun e => absurd e k.2.2.2.1)
    k.2.2.2.2.1 k.2.2.2.2.2

theorem fourPorts {p : Nat} (h : p < 4) : p = 0 ∨ p = 1 ∨ p = 2 ∨ p = 3 := by omega

theorem State.apply_stileActivate (m : State) (p : Nat) (v : Bytes) (h : p < 4) : m.applyEntry (lKey p 0x09) v =
    (stOk, match slotOf (ofLE v) with
      | some x => (m.written (lKey p 0x09) v).portActivate p x
      | none => m.written (lKey p 0x09) v) := by
  rcases fourPorts h with rfl | rfl | rfl | rfl <;> rfl

theorem State.apply_stileConfirm (m : State) (p : Nat) (v : Bytes) (h : p < 4) : m.applyEntry (lKey p 0x0A) v =
    (stOk, if ofLE v = 1 then (m.written (lKey p 0x0A) v).confirmPort p else m.written (lKey p 0x0A) v) := by
  rcases fourPorts h with rfl | rfl | rfl | rfl <;> rfl

theorem State.apply_stileRestart (m : State) (p : Nat) (v : Bytes) (h : p < 4) : m.applyEntry (lKey p 0x0B) v =
    (stOk, if ofLE v = 1 then (m.written (lKey p 0x0B) v).recoverAsk p else m.written (lKey p 0x0B) v) := by
  rcases fourPorts h with rfl | rfl | rfl | rfl <;> rfl

theorem State.apply_manifest (m : State) (p k : Nat) (v : Bytes) (h : p < 4) (hk : 1 ≤ k ∧ k ≤ 3) :
    m.applyEntry (iKey p k) v = (stOk, (m.written (iKey p k) v).manifestWritten p (manSlot k) v) := by
  have : k = 1 ∨ k = 2 ∨ k = 3 := by omega
  rcases fourPorts h with rfl | rfl | rfl | rfl <;> rcases this with rfl | rfl | rfl <;> rfl

theorem State.apply_floor (m : State) (p k : Nat) (v : Bytes) (h : p < 4) (hk : k = 4 ∨ k = 5 ∨ k = 6 ∨ k = 9) :
    m.applyEntry (iKey p k) v = (stOk, m.written (iKey p k) v) := by
  rcases fourPorts h with rfl | rfl | rfl | rfl <;> rcases hk with rfl | rfl | rfl | rfl <;> rfl

theorem State.apply_clock (m : State) (p k : Nat) (v : Bytes) (h : p < 4) (hk : 7 ≤ k ∧ k ≤ 10) :
    m.applyEntry (pKey p k) v = (stOk, if k ≤ 8 then (m.written (pKey p k) v).advertise p else m.written (pKey p k) v) := by
  have : k = 7 ∨ k = 8 ∨ k = 9 ∨ k = 10 := by omega
  rcases fourPorts h with rfl | rfl | rfl | rfl <;> rcases this with rfl | rfl | rfl | rfl <;> rfl

theorem State.apply_rest (m : State) (key : Nat) (v : Bytes) (h : key / 256 = 0x7010) :
    m.applyEntry key v = (stOk, m.written key v) := by
  unfold State.applyEntry
  rw [if_neg (by omega), if_neg (by omega)]
  unfold State.applyUnit
  split
  all_goals first | omega | skip
  dsimp only
  rw [if_neg (by omega), if_neg (by omega), if_neg (by omega), if_neg (by omega), if_neg (by omega)]
  unfold State.applyPlatform
  split
  all_goals first | omega | skip
  dsimp only
  rw [if_pos (by omega)]

theorem State.apply_credential (m : State) (key : Nat) (v : Bytes) (h : key / 256 = 0x0101) :
    m.applyEntry key v = (stOk, ((m.written key v).modDict (fun d => { d with endSess := d.endSess ++ [key % 256] })).latch 22 10) := by
  unfold State.applyEntry
  rw [if_neg (by omega), if_neg (by omega)]
  unfold State.applyUnit
  split
  all_goals first | omega | skip
  dsimp only
  rw [if_pos (by omega)]

theorem State.apply_policy (m : State) (key : Nat) (v : Bytes) (h : key / 256 = 0x3200) :
    m.applyEntry key v = (stOk, (m.written key v).policyWritten (key % 256)) := by
  unfold State.applyEntry
  rw [if_neg (by omega), if_neg (by omega)]
  unfold State.applyUnit
  split
  all_goals first | omega | skip
  dsimp only
  rw [if_neg (by omega), if_pos (by omega)]

theorem State.apply_mono (m : State) (key : Nat) (v : Bytes) (h : key / 256 = 0x4002) :
    m.applyEntry key v = (m.written key v).monoAdd (key % 256) (ofLE v) := by
  unfold State.applyEntry
  rw [if_neg (by omega), if_neg (by omega)]
  unfold State.applyUnit
  split
  all_goals first | omega | skip
  dsimp only
  have h1 : ¬ key / 256 = 0x0101 := by omega
  have h2 : ¬ key / 256 = 0x3200 := by omega
  simp only [h]
  rw [if_neg (by decide), if_neg (by decide), if_pos trivial]

theorem State.apply_mePort (m : State) (key i : Nat) (v : Bytes) (h : key / 256 = i) (hi : i = 0xA010 ∨ i = 0xA011)
    (h5 : key % 256 ≤ 5) :
    m.applyEntry key v = (stOk, (m.written key v).modDict (fun d => { d with endConns := d.endConns ++ [i - 0xA010] })) := by
  unfold State.applyEntry
  rw [if_neg (by omega), if_neg (by omega)]
  unfold State.applyUnit
  dsimp only
  split
  case h_17 =>
    rw [h]
    have h1 : ¬ i = 0x0101 := by rcases hi with rfl | rfl <;> decide
    have h2 : ¬ i = 0x3200 := by rcases hi with rfl | rfl <;> decide
    have h3 : ¬ i = 0x4002 := by rcases hi with rfl | rfl <;> decide
    exact (if_neg h1).trans ((if_neg h2).trans ((if_neg h3).trans (if_pos ⟨hi, h5⟩)))
  all_goals (exfalso; omega)

theorem State.apply_atnEnable (m : State) (key : Nat) (v : Bytes) (h : key / 256 = 0xA020) :
    m.applyEntry key v = (stOk, (m.written key v).modAtn (fun a => { a with dueEn := a.dueEn ++ [(key % 256, BitVec.ofNat 16 (ofLE v))] })) := by
  unfold State.applyEntry
  rw [if_neg (by omega), if_neg (by omega)]
  unfold State.applyUnit
  split
  all_goals first | omega | skip
  dsimp only
  simp only [h]
  rw [if_neg (by decide), if_neg (by decide), if_neg (by decide), if_neg (fun q => absurd q.1 (by decide)), if_pos trivial]

/-- A write whose request is handled (R426, R427, R429). -/
theorem State.writeRow_ready (s : State) (r : Req) (x : Sess) (key : Nat) (v : Bytes) (a : s.requestReady r x)
    (b1 : r.approver = none) :
    ∃ w q, s.fresh.noted (s.sess w q) ∧
      (s.sess w q).session? x.slot = some { x.begun r 0x11 s.now with staging := none } ∧
      s.fresh.writeRow r key v = (s.sess w q).writeValue (x.begun r 0x11 s.now) key v := by
  unfold State.writeRow
  unfold State.withApproval
  rw [b1]
  dsimp only
  obtain ⟨m, hm, hd, hs, e⟩ := State.request_ready s.fresh r x 0x11
    (fun s x => (s.modSession x.slot (fun y => { y with staging := none })).writeValue x key v) a
  rw [e]
  obtain ⟨p, q, hq⟩ := hm.dict
  have hn := hm.trans (State.modSession_noted m x.slot (fun y => { y with staging := none }))
  have hy : (m.modSession x.slot (fun y => { y with staging := none })).session? x.slot =
      some { x.begun r 0x11 s.now with staging := none } := by
    refine (State.modSession_session _ _ _ (fun y => by rfl)).trans ?_
    rw [hs]; rfl
  rw [hq] at hd
  have hd' : m = s.sess p q := hd
  have hm' : m.modSession x.slot (fun y => { y with staging := none }) =
      s.sess (m.modSession x.slot (fun y => { y with staging := none })).dict.sessions q := by rw [hd']; rfl
  generalize (m.modSession x.slot (fun y => { y with staging := none })).dict.sessions = w at hm'
  change ∃ w1 q1, _ ∧ _ ∧ (m.modSession x.slot (fun y => { y with staging := none })).writeValue (x.begun r 0x11 s.now) key v = _
  rw [hm'] at hn hy ⊢
  exact ⟨w, q, hn, hy, rfl⟩

/-- The response of a request with a session (R427, R428). -/
theorem State.answer_out (s : State) (k : Nat) (y : Sess) (r : Reply) (h : s.session? k = some y) :
    .reply y.id y.lastSeq r.status r.info r.payload ∈ (s.answer k r).out := by
  unfold State.answer
  rw [h]
  exact (State.sendReply_sends s y.chan y.lastOp y.lastSeq y.id r).1

/-- A write that a check refuses leaves the settings alone and is answered with the check's status (R431). -/
theorem State.writeRow_refuses (s : State) (r : Req) (x : Sess) (key : Nat) (v : Bytes) (a : s.requestReady r x)
    (b1 : r.approver = none) (b2 : s.valueProgramme key v = none) (k : key ≠ 0x500001) (b3 : s.writeCheck x key v ≠ 0) :
    ∃ w q, s.fresh.noted (s.sess w q) ∧
      (∀ p, p ∉ [Part.dmb, .dict, .out] →
        ((s.sess w q).refusedValue key v (s.writeCheck x key v)).same p (s.fresh.writeRow r key v)) ∧
      (∃ l, (s.fresh.writeRow r key v).dict = { s.dict with sessions := l, conns := q }) ∧
      .reply x.id r.seq (s.writeCheck x key v) 0 [] ∈ (s.fresh.writeRow r key v).out := by
  obtain ⟨w, q, hn, hs, e⟩ := State.writeRow_ready s r x key v a b1
  have hc : (s.sess w q).writeCheck (x.begun r 0x11 s.now) key v = s.writeCheck x key v := by
    rw [State.sess_writeCheck, State.begun_writeCheck]
  have e2 : s.fresh.writeRow r key v =
      ((s.sess w q).refusedValue key v (s.writeCheck x key v)).answer x.slot (plain (s.writeCheck x key v)) := by
    rw [e]
    unfold State.writeValue
    dsimp only
    rw [if_neg k, hc, State.programmeFor_none _ key v _ ((State.sess_valueProgramme s w q key v).trans b2)]
    dsimp only
    rw [if_pos b3]
    unfold State.finish
    exact if_pos (State.dictOn_iface a.2.2.2.1)
  have hd : ((s.sess w q).refusedValue key v (s.writeCheck x key v)).dict = (s.sess w q).dict :=
    State.refusedValue_only _ _ _ _ (List.Subset.refl _) (State.only_refl _ _) .dict (by decide)
  obtain ⟨l, hl⟩ := State.answer_dict ((s.sess w q).refusedValue key v (s.writeCheck x key v)) x.slot (plain (s.writeCheck x key v))
  refine ⟨w, q, hn, ?_, ⟨l, ?_⟩, ?_⟩
  · rw [e2]; exact State.answer_only _ _ _ (List.Subset.refl _) (State.only_refl _ _)
  · rw [e2, hl, hd]; rfl
  · rw [e2]
    refine State.answer_out _ x.slot { x.begun r 0x11 s.now with staging := none } (plain (s.writeCheck x key v)) ?_
    rw [← hs]; unfold State.session?; rw [hd]

theorem filter_putKey {α : Type} (l : List (Nat × α)) (k : Nat) (v : α) (p : Nat × α → Bool) (h : ∀ w, p (k, w) = false) :
    (putKey l k v).filter p = l.filter p := by
  induction l with
  | nil => simp [putKey, h]
  | cons q l ih =>
    obtain ⟨a, b⟩ := q
    unfold putKey
    split
    · simp [List.filter_cons, h]
    · split
      · rename_i e; subst e; simp [List.filter_cons, h]
      · simp [List.filter_cons, ih]

theorem filter_dropKey {α : Type} (l : List (Nat × α)) (k : Nat) (p : Nat × α → Bool) (h : ∀ w, p (k, w) = false) :
    (dropKey l k).filter p = l.filter p := by
  unfold dropKey
  rw [List.filter_filter]
  refine List.filter_congr fun x _ => ?_
  obtain ⟨a, b⟩ := x
  by_cases e : a = k
  · subst e; simp [h]
  · simp [e]

/-- The bank that a commit writes is the one in force (R438, R439). -/
theorem Dict.putBank_bank (d : Dict) (l : List (Nat × Bytes)) :
    ∃ b, (d.putBank l).bank = some b ∧ b.changes = d.changes ∧ b.vals = l := by
  obtain ⟨vals, bankA, bankB, changes, committed, kept, serials, props, next, sess, ended, dead, fails, conns, es, ec⟩ := d
  cases bankA with
  | none =>
    cases bankB with
    | none => exact ⟨⟨0, changes, l⟩, rfl, rfl, rfl⟩
    | some b =>
      refine ⟨⟨b.seq + 1, changes, l⟩, ?_, rfl, rfl⟩
      exact if_neg (show ¬ b.seq + 1 < b.seq by omega)
  | some a =>
    cases bankB with
    | none =>
      refine ⟨⟨a.seq + 1, changes, l⟩, ?_, rfl, rfl⟩
      exact if_pos (show a.seq < a.seq + 1 by omega)
    | some b =>
      by_cases h : a.seq < b.seq
      · refine ⟨⟨b.seq + 1, changes, l⟩, ?_, rfl, rfl⟩
        simp only [Dict.putBank, Dict.bank, h, if_true]
        exact if_neg (show ¬ b.seq + 1 < b.seq by omega)
      · refine ⟨⟨a.seq + 1, changes, l⟩, ?_, rfl, rfl⟩
        simp only [Dict.putBank, Dict.bank, h, if_false]
        exact if_pos (show a.seq < a.seq + 1 by omega)

/-- A restore gives entries their defaults and changes no other value (R440). -/
theorem State.restore_val (s : State) (j : Nat) :
    s.restoreDefaults.val j = s.val j ∨ (j ∈ restoreKeys ∧ s.restoreDefaults.val j = dfltOf j) := by
  have hk : 0x900009 ∉ restoreKeys := by decide +kernel
  unfold State.restoreDefaults
  extract_lets a b
  have ha : a.val j = s.val j := rfl
  have hb : b.val j = s.val j ∨ (j ∈ restoreKeys ∧ b.val j = dfltOf j) := by
    unfold b
    rw [← ha]
    clear ha
    clear b
    revert a
    generalize hl : restoreKeys = l at hk
    have main : ∀ (l' : List Nat) (a : State), (∀ k ∈ l', k ∈ l) →
        (l'.foldl (fun s k =>
          if s.val k = dfltOf k then s
          else if s.entryCheck 1 k (dfltOf k) = 0 then (s.applyEntry k (dfltOf k)).2
          else s.modDict (fun d => { d with restoreKept := d.restoreKept + 1 })) a).val j = a.val j ∨
        (j ∈ l ∧ (l'.foldl (fun s k =>
          if s.val k = dfltOf k then s
          else if s.entryCheck 1 k (dfltOf k) = 0 then (s.applyEntry k (dfltOf k)).2
          else s.modDict (fun d => { d with restoreKept := d.restoreKept + 1 })) a).val j = dfltOf j) := by
      intro l'
      induction l' with
      | nil => intro a _; exact Or.inl rfl
      | cons k l' ih =>
        intro a h
        have st : (if a.val k = dfltOf k then a
            else if a.entryCheck 1 k (dfltOf k) = 0 then (a.applyEntry k (dfltOf k)).2
            else a.modDict (fun d => { d with restoreKept := d.restoreKept + 1 })).val j = a.val j ∨
          (j ∈ l ∧ (if a.val k = dfltOf k then a
            else if a.entryCheck 1 k (dfltOf k) = 0 then (a.applyEntry k (dfltOf k)).2
            else a.modDict (fun d => { d with restoreKept := d.restoreKept + 1 })).val j = dfltOf j) := by
          split
          · exact Or.inl rfl
          · split
            · rw [(State.applyEntry_val a k j _ (fun e => hk (e ▸ h k (by simp)))).1]
              split
              · rename_i e; subst e; exact Or.inr ⟨h j (by simp), rfl⟩
              · exact Or.inl rfl
            · exact Or.inl rfl
        rw [List.foldl_cons]
        rcases ih _ (fun x hx => h x (by simp [hx])) with e | e
        · rcases st with e2 | e2
          · exact Or.inl (e.trans e2)
          · exact Or.inr ⟨e2.1, e.trans e2.2⟩
        · exact Or.inr e
    intro a
    exact main l a (fun _ h => h)
  clear_value b
  exact hb

theorem State.answer_val (s : State) (k : Nat) (r : Reply) (j : Nat) : (s.answer k r).val j = s.val j := by
  obtain ⟨a, h⟩ := State.answer_dict s k r
  unfold State.val; rw [h]

/-- A write of an export entry takes its value at once (R456, R457). -/
theorem State.writeRow_export (s : State) (r : Req) (x : Sess) (key : Nat) (v : Bytes) (a : s.requestReady r x)
    (b1 : r.approver = none) (b2 : s.valueProgramme key v = none) (b3 : s.writeCheck x key v = 0) (k : exportEntry key = true) :
    ∃ w q, s.fresh.noted (s.sess w q) ∧ s.fresh.writeRow r key v =
      (if key = 0x800101 then ((s.sess w q).written key v).modLog (fun l => { l with winStart := uLE v 0 8 })
        else (((((s.sess w q).written key v).modLog (fun l => { l with acked := uLE v 0 8 + 1 })).logLatches).latch 22 15).logEv
          (x.desc 0x0F04 0 (leN 8 (uLE v 0 8)) [])).answer x.slot (plain stOk) := by
  obtain ⟨w, q, hn, hs, e⟩ := State.writeRow_ready s r x key v a b1
  have hc : (s.sess w q).writeCheck (x.begun r 0x11 s.now) key v = s.writeCheck x key v := by
    rw [State.sess_writeCheck, State.begun_writeCheck]
  have k1 : key ≠ 0x500001 := by rintro rfl; cases k
  refine ⟨w, q, hn, ?_⟩
  rw [e]
  unfold State.writeValue
  dsimp only
  rw [if_neg k1, hc, b3, State.programmeFor_none _ key v _ ((State.sess_valueProgramme s w q key v).trans b2)]
  dsimp only
  rw [if_neg (fun q => q rfl), if_pos k]
  unfold State.writeExport State.finish
  dsimp only
  exact if_pos (State.dictOn_iface a.2.2.2.1)

theorem State.logLatches_acked (s : State) : s.logLatches.log.acked = s.log.acked := by
  have hr : ∀ t : State, t.refusedSummaries.log.acked = t.log.acked := by
    intro t
    unfold State.refusedSummaries
    generalize List.range 4 = l
    induction l generalizing t with
    | nil => rfl
    | cons n l ih =>
      rw [List.foldl_cons, ih]
      dsimp only
      split
      · rfl
      · rfl
  unfold State.logLatches
  extract_lets a b c d e
  have h : e.log.acked = s.log.acked := by
    unfold e d c
    show (if a = _ then _ else _ : State).log.acked = _
    split <;> (show (if _ then _ else _ : State).log.acked = _; split <;> rfl)
  split
  · exact h
  · rw [hr]; exact h

theorem State.promote_facts (u : State) : u.promote.cas.role = .master ∧ u.promote.cas.present = 0 ∧
    u.promote.val 0x90000A = [1] ∧ u.promote.dict.sessions = u.dict.sessions := by
  unfold State.promote
  extract_lets a
  have hd : (((a.modCas (fun c => { c with role := .master, present := 0, lost := 0 })).linkSend
      (a.pwr.cascadeId.toNat + 1) 10 []).ev 9 9 .promotion [a.pwr.cascadeId.toNat]).dict = a.dict := by
    have hl : ∀ (t : State) (n c : Nat) (b : Bytes), (t.linkSend n c b).dict = t.dict := fun t n c b =>
      State.linkSend_only t n c b (List.Subset.refl _) (State.only_refl _ t) .dict (by decide)
    rw [State.ev_dict, hl, State.modCas_dict]
  have hv : a.val 0x90000A = [1] := by
    unfold a State.storeNow
    have q2 : ∀ (t : State) (f : Dict → Dict), (∀ d, (f d).vals = d.vals) → (t.modDict f).val 0x90000A = t.val 0x90000A := by
      intro t f hf; unfold State.val State.modDict; rw [hf]
    dsimp only
    rw [q2 _ _ (fun d => by split <;> rfl), State.setVal_val]
    exact if_pos rfl
  have hs : a.dict.sessions = u.dict.sessions := by
    unfold a State.storeNow
    show (if _ then _ else _ : Dict).sessions = _
    split <;> rfl
  clear_value a
  refine ⟨rfl, rfl, ?_, ?_⟩
  · unfold State.val at hv ⊢; rw [hd]; exact hv
  · rw [hd]; exact hs

theorem addDev_has (s : State) (w v : DevWhat) (h : ∃ d ∈ s.devJobs, d.what = v) : ∃ d ∈ (s.addDev w).devJobs, d.what = v := by
  obtain ⟨d, h1, h2⟩ := h
  exact ⟨d, List.mem_append_left _ h1, h2⟩

/-- A retest queues a pair check on every disabled pair (R326). -/
theorem State.retestPairs_has (s : State) (l : Nat) (hl : l < 24) (h : (s.lane (4 + l)).disabled = true) :
    ∃ d ∈ s.retestPairs.devJobs, d.what = .pairCheck (4 + l) := by
  unfold State.retestPairs
  have hm : l ∈ List.range 24 := by simpa using hl
  generalize List.range 24 = r at hm
  have step : ∀ (t : State) (k : Nat), t.yard = s.yard →
      (if (t.lane (4 + k)).disabled ∧ t.devJobs.any (fun d => d.what == .pairCheck (4 + k)) = false then t.addDev (.pairCheck (4 + k)) else t).yard = s.yard := by
    intro t k ht; split
    · exact ht
    · exact ht
  have keep : ∀ (q : List Nat) (t : State), (∃ d ∈ t.devJobs, d.what = .pairCheck (4 + l)) →
      ∃ d ∈ (q.foldl (fun s l => if (s.lane (4 + l)).disabled ∧ s.devJobs.any (fun d => d.what == .pairCheck (4 + l)) = false
        then s.addDev (.pairCheck (4 + l)) else s) t).devJobs, d.what = .pairCheck (4 + l) := by
    intro q
    induction q with
    | nil => intro t h; exact h
    | cons k q ih =>
      intro t h
      rw [List.foldl_cons]
      refine ih _ ?_
      split
      · exact addDev_has _ _ _ h
      · exact h
  have main : ∀ (q : List Nat) (t : State), t.yard = s.yard → l ∈ q →
      ∃ d ∈ (q.foldl (fun s l => if (s.lane (4 + l)).disabled ∧ s.devJobs.any (fun d => d.what == .pairCheck (4 + l)) = false
        then s.addDev (.pairCheck (4 + l)) else s) t).devJobs, d.what = .pairCheck (4 + l) := by
    intro q
    induction q with
    | nil => intro t _ h; cases h
    | cons k q ih =>
      intro t ht hq
      rw [List.foldl_cons]
      by_cases e : l = k
      · subst e
        refine keep q _ ?_
        have hd : (t.lane (4 + l)).disabled = true := by unfold State.lane; rw [ht]; exact h
        split
        · exact ⟨_, List.mem_append_right _ (List.mem_singleton.2 rfl), rfl⟩
        · rename_i hn
          have : t.devJobs.any (fun d => d.what == .pairCheck (4 + l)) = true := by
            cases hb : t.devJobs.any (fun d => d.what == .pairCheck (4 + l)) with
            | true => rfl
            | false => exact absurd ⟨hd, hb⟩ hn
          obtain ⟨d, q1, q2⟩ := List.any_eq_true.1 this
          exact ⟨d, q1, by simpa using q2⟩
      · exact ih _ (step t k ht) (by simpa [e] using hq)
  exact main r s rfl hm

theorem uLE_encN (n v : Nat) (h : v < 256 ^ n) : uLE (encN n v) 0 n = v := by
  have e : encN n v = leN n v := if_pos h
  have hl : ∀ n v, (leN n v).length = n := by
    intro n; induction n with
    | zero => intro v; rfl
    | succ n ih => intro v; show (leN n (v / 256)).length + 1 = n + 1; rw [ih]
  have : slice (leN n v) 0 n = leN n v := by
    show (List.drop 0 (leN n v)).take n = _
    rw [List.drop_zero]; exact List.take_of_length_le (Nat.le_of_eq (hl n v))
  unfold uLE
  rw [e, this]; exact ofLE_leN n v h

/-- A value outside the identity and interface indices does not depend on sessions (R428). -/
theorem State.sess_readValue (s : State) (w : List Sess) (q : List Dtls) (key : Nat) (x : Option Sess) (h : 0x1000 ≤ key / 256)
    (h2 : key / 256 < 0xA000) : (s.sess w q).readValue x key = s.readValue none key := by
  unfold State.readValue
  dsimp only
  rw [if_neg (by omega : ¬ key / 256 < 0x1000)]
  have e1 : (s.sess w q).readLc key = s.readLc key := by unfold State.readLc; rfl
  have e2 : (s.sess w q).readFw key = s.readFw key := by unfold State.readFw; rfl
  have e3 : (s.sess w q).readHalter key = s.readHalter key := by unfold State.readHalter; rfl
  have e4 : (s.sess w q).readPort key = s.readPort key := by unfold State.readPort; rfl
  have e5 : (s.sess w q).readPartner key = s.readPartner key := by unfold State.readPartner; rfl
  have e6 : (s.sess w q).readTack key = s.readTack key := by unfold State.readTack; rfl
  have e7 : (s.sess w q).readPads key = s.readPads key := by unfold State.readPads; rfl
  have e8 : (s.sess w q).readPad key = s.readPad key := by unfold State.readPad; rfl
  have e9 : (s.sess w q).readLanes key = s.readLanes key := by unfold State.readLanes; rfl
  have ea : (s.sess w q).readMon key = s.readMon key := by unfold State.readMon; rfl
  have eb : (s.sess w q).readPower key = s.readPower key := by unfold State.readPower; rfl
  have ec : (s.sess w q).readLog key = s.readLog key := by unfold State.readLog; rfl
  have ed : (s.sess w q).readCascade key = s.readCascade key := by unfold State.readCascade; rfl
  simp only [e1, e2, e3, e4, e5, e6, e7, e8, e9, ea, eb, ec, ed, h2, if_true]
  rw [if_neg (by omega : ¬ key / 256 < 0x1000)]

/-- The status of a write that takes effect is ST_OK, but for key commands and counters (R245, R247, R432). -/
theorem State.applyEntry_ok (s : State) (key : Nat) (v : Bytes) (k : key ≠ 0x400006) (k2 : key / 256 ≠ 0x4002) :
    (s.applyEntry key v).1 = stOk := by
  unfold State.applyEntry
  split
  · rfl
  · split
    · rfl
    · unfold State.applyUnit
      dsimp only
      split
      case h_6 => exact absurd rfl k
      case h_17 =>
        split
        · rfl
        · split
          · rfl
          · split
            · rfl
            · split <;> rfl
      all_goals rfl

/-- A write on a session whose request is handled and whose checks pass (R427, R431, R432, R444). -/
theorem State.writeValue_facts (s : State) (r : Req) (x : Sess) (op : Nat) (w : List Sess) (q : List Dtls) (y : Sess) (key : Nat)
    (v : Bytes) (a : s.dictOn x.chan.iface = true) (bp : s.valueProgramme key v = none) (hn : s.fresh.noted (s.sess w q))
    (hs : (s.sess w q).session? x.slot = some y) (hy : y.id = x.id) (hy2 : y.lastSeq = r.seq) (b3 : s.writeCheck x key v = 0)
    (b4 : s.needsQuorum x.role key = false) (c : s.logOpen) (d : key = 0x400006 → s.tack.cmdsThisFrame < 8)
    (k : key ≠ 0x500001 ∧ key ≠ 0x800101 ∧ key ≠ 0x800103 ∧ key ≠ 0x001001 ∧ key ≠ 0x001003 ∧ key ≠ 0x900009) :
    ∃ m, s.fresh.noted m ∧
      (∀ p, p ∉ [Part.dmb, .dict, .out] → (m.applyEntry key v).2.same p ((s.sess w q).writeValue (x.begun r op s.now) key v)) ∧
      (∀ j, ((s.sess w q).writeValue (x.begun r op s.now) key v).val j = if j = key then v else s.val j) ∧
      .reply x.id r.seq (m.applyEntry key v).1 0 [] ∈ ((s.sess w q).writeValue (x.begun r op s.now) key v).out := by
  obtain ⟨u, hu, hv, e2⟩ := State.writeValue_takes (s.sess w q) (x.begun r op s.now) key v
    (by rw [State.sess_writeCheck, State.begun_writeCheck]; exact b3) (by rw [State.sess_valueProgramme]; exact bp)
    (by rw [State.sess_needsQuorum]; exact b4) c d k.1 (by unfold exportEntry; simp [k.2.1, k.2.2.1]) (fun e => absurd e k.2.2.2.1)
  have hm := hn.trans hu
  have ht : u.takeWrite key v = u.applyEntry key v := by
    unfold State.takeWrite; dsimp only; rw [if_neg (fun q => k.2.2.2.2.1 q.1)]
  have hf : ∀ (t : State) (y : Reply), t.finish ((x.begun r op s.now).desc 0 0 [] []) y = t.answer x.slot y := by
    intro t y
    unfold State.finish
    exact if_pos (State.dictOn_iface a)
  rw [ht, hf] at e2
  have hv2 := fun j => State.applyEntry_val u key j v k.2.2.2.2.2
  refine ⟨u, hm, ?_, ?_, ?_⟩
  · rw [e2]; exact State.answer_only _ _ _ (List.Subset.refl _) (State.only_refl _ _)
  · intro j
    rw [e2, State.answer_val, (hv2 j).1]
    obtain ⟨b, c, d⟩ := hm.dict
    have : u.val j = s.val j := by unfold State.val; rw [d]; rfl
    rw [this]
  · rw [e2]
    have q : (u.applyEntry key v).2.session? x.slot = some y := by
      rw [← hs]; unfold State.session?; rw [(hv2 0).2.1, hv]
    have := State.answer_out (u.applyEntry key v).2 x.slot y (plain (u.applyEntry key v).1) q
    rw [hy, hy2] at this; exact this

/-- A request that is handled and answered with no other effect (R427). -/
theorem State.request_state (s : State) (r : Req) (x : Sess) (op : Nat) (f : State → Sess → State) (h : s.requestReady r x) :
    ∃ w q, s.fresh.noted (s.sess w q) ∧ (s.sess w q).session? x.slot = some (x.begun r op s.now) ∧
      s.fresh.request r op f = f (s.sess w q) (x.begun r op s.now) := by
  obtain ⟨m, hm, hd, hs, e⟩ := State.request_ready s.fresh r x op f h
  obtain ⟨p, q, hq⟩ := hm.dict
  rw [hq] at hd
  have hd' : m = s.sess p q := hd
  subst hd'
  exact ⟨p, q, hm, hs, e⟩

theorem State.finish_session (s : State) (x : Sess) (r : Req) (op now : Nat) (y : Reply) (a : s.dictOn x.chan.iface = true) (t : State) :
    t.finish ((x.begun r op now).desc 0 0 [] []) y = t.answer x.slot y := by
  unfold State.finish
  exact if_pos (State.dictOn_iface a)

theorem State.sendReply_out (s : State) (c : Chan) (op seq sid : Nat) (r : Reply) :
    .reply sid seq r.status r.info r.payload ∈ (s.sendReply c op seq sid r).out := by
  exact (State.sendReply_sends s c op seq sid r).1

/-- The session after its request is answered (R427). -/
theorem State.answer_session (s : State) (k : Nat) (y : Sess) (r : Reply) (h : s.session? k = some y) :
    (s.answer k r).session? k = some { y with busy := false, lastReply := some r } := by
  unfold State.answer
  rw [h]
  have e : (s.sendReply y.chan y.lastOp y.lastSeq y.id r).session? k = some y := by
    rw [← h]
    unfold State.session?
    rw [State.sendReply_dict]
  refine (State.modSession_session _ k _ (fun x => by rfl)).trans ?_
  rw [e]; rfl

theorem State.answer_out_mono (s : State) (k : Nat) (r : Reply) (o : Out) (h : o ∈ s.out) : o ∈ (s.answer k r).out := by
  unfold State.answer
  split
  · exact h
  · exact (State.sendReply_sends s _ _ _ _ r).2 o h

theorem State.endSession_facts (s : State) (x : Sess) :
    (s.endSession x).dict.sessions = s.dict.sessions.filter (fun y => y.slot != x.slot) ∧
    (s.endSession x).dict.ended = s.dict.ended ++ [(x.id, s.now)] ∧ (s.endSession x).out = s.out ∧
    (s.endSession x).dict.vals = s.dict.vals := by
  unfold State.endSession
  dsimp only
  split <;> exact ⟨rfl, rfl, rfl, rfl⟩

/-- An approval that passes its checks, once its entry can be written (R435, R444). -/
theorem State.approveBy_takes (s : State) (r : Req) (x : Sess) (id : Nat) (digest : Bytes) (p : Proposal) (w : List Sess)
    (q : List Dtls) (h1 : s.requestReady r x) (h2 : s.proposal? id = some p) (h3 : p.target = 0) (h5 : x.role = 1)
    (h6 : x.cred ≠ p.cred) (h7 : x.keyDig ≠ p.keyDig) (h8 : digest = sha384 p.value)
    (h9 : s.effCheck (x.desc 0 0 [] []) (.approve id x.cred) = 0) (bp : s.valueProgramme p.key p.value = none) (h10 : s.logOpen) :
    ∃ m : State, (∀ j, m.val j = s.val j) ∧ m.dict.proposals = s.dict.proposals.filter (fun z => z.id != id) ∧
      (s.sess w q).approveBy (x.begun r 0x20 s.now) id digest =
        (m.takeWrite p.key p.value).2.answer x.slot (plain (m.takeWrite p.key p.value).1) := by
  obtain ⟨c1, c2, c3, c4, c5⟩ := h10
  generalize hd : (s.sess w q).fullDesc ((x.begun r 0x20 s.now).desc 0 0 [] []) (.approve id x.cred) = full
  have hr := State.ringPut_only (s.sess w q) (fun l => l.entryBytes full) (List.Subset.refl _) (State.only_refl _ _)
  have hdict : ((s.sess w q).ringPut (fun l => l.entryBytes full)).dict = (s.sess w q).dict := hr .dict (by decide)
  have hcore : ((s.sess w q).ringPut (fun l => l.entryBytes full)).core = (s.sess w q).core := hr .core (by decide)
  have hprop : ((s.sess w q).ringPut (fun l => l.entryBytes full)).proposal? id = some p := by
    rw [← h2]; unfold State.proposal? State.now; rw [hdict, hcore]; rfl
  have hpv : (s.sess w q).proposal? id = some p := h2
  have he : (s.sess w q).effCheck ((x.begun r 0x20 s.now).desc 0 0 [] []) (.approve id x.cred) = 0 := by
    rw [← h9]
    unfold State.effCheck
    dsimp only
    rw [hpv, h2]
    dsimp only
    rw [State.sess_entryCheck]
    rfl
  refine ⟨(((s.sess w q).ringPut (fun l => l.entryBytes full)).modDict
    (fun d => { d with proposals := d.proposals.filter (fun z => z.id != id) })).latch 22 5, ?_, ?_, ?_⟩
  · intro j; unfold State.val
    show (getKey ((s.sess w q).ringPut (fun l => l.entryBytes full)).dict.vals j).getD _ = _
    rw [hdict]; rfl
  · show ((s.sess w q).ringPut (fun l => l.entryBytes full)).dict.proposals.filter _ = _
    rw [hdict]; rfl
  · unfold State.approveBy
    dsimp only
    rw [hpv]
    dsimp only
    rw [if_neg (by rintro (k | k | k); exact k h5; exact h6 k; exact h7 k), if_neg (fun k => k h8), if_pos h3,
      State.programmeFor_none _ _ _ _ ((State.sess_valueProgramme s w q p.key p.value).trans bp)]
    unfold State.approveReady
    dsimp only
    rw [hpv]
    dsimp only
    rw [show (x.begun r 0x20 s.now).cred = x.cred from rfl, he, if_neg (fun k => k rfl)]
    unfold State.logChange
    rw [if_neg (by rw [show (s.sess w q).logState = 0 from c1]; simp), if_neg (by
      rw [show (s.sess w q).logBlocked = false from c2, show (s.sess w q).summaryDue = false from c4,
        show (s.sess w q).log.due = [] from c5]
      rintro (k | k | k | k | k)
      · cases k
      · exact absurd k (Nat.not_le.2 c3)
      · cases k
      · cases k
      · cases k.1)]
    unfold State.writeChange
    dsimp only
    rw [he, if_neg (fun k => k rfl), hd]
    unfold State.effApply
    dsimp only
    rw [show (Effect.approve id x.cred).always = false from rfl]
    simp only [Bool.false_eq_true, if_false]
    rw [hprop]
    dsimp only
    rw [if_neg (fun k => k h3), State.finish_session s x r 0x20 s.now _ h1.2.2.2.1]

theorem State.linkSend_out (s : State) (d code : Nat) (p : Bytes) : .link d code p ∈ (s.linkSend d code p).out := by
  unfold State.linkSend
  show _ ∈ s.out ++ [_]
  simp

/-- A change that sends no more than the state has sent keeps what it sent. -/
def State.sent (s t : State) : Prop := ∀ o ∈ s.out, o ∈ t.out

theorem State.only.sent {L : List Part} {s t : State} (h : s.only L t) (hp : Part.out ∉ L) : s.sent t := by
  intro o ho
  have : t.out = s.out := h .out hp
  rw [this]; exact ho

theorem State.authFails_out (s : State) (x : Sess) (seq : Nat) : .reply x.id seq stRole 0 [] ∈ (s.authFails x seq).out := by
  unfold State.authFails
  extract_lets a b n c
  have h1 : .reply x.id seq stRole 0 [] ∈ b.out := State.sendReply_out a x.chan 2 seq x.id (plain stRole)
  have h2 : .reply x.id seq stRole 0 [] ∈ c.out := h1
  clear_value c
  split
  · have := State.dropChannel_only c x.chan (List.Subset.refl _) (State.only_refl _ c) .out (by decide)
    have e : (c.dropChannel x.chan).out = c.out := this
    show _ ∈ (c.dropChannel x.chan).out
    rw [e]; exact h2
  · exact h2

/-- A state in which nothing but ports, Logbook, latches, dictionary and output differs. -/
theorem State.only_upd {s m : State} (h : s.only [.ports, .log, .atn, .dict, .out] m) :
    m = { s with ports := m.ports, log := m.log, atn := m.atn, dict := m.dict, pending := m.pending, out := m.out } := by
  have g : ∀ p, p ∉ [Part.ports, .log, .atn, .dict, .out] → s.same p m := fun p hp => h p hp
  cases m
  have := g .core (by decide); have := g .pwr (by decide); have := g .sup (by decide); have := g .fuse (by decide)
  have := g .boot (by decide); have := g .hal (by decide); have := g .shed (by decide)
  have := g .tagTable (by decide); have := g .shedLost (by decide); have := g .pldm (by decide)
  have := g .par (by decide); have := g .tack (by decide); have := g .yard (by decide); have := g .jobs (by decide)
  have := g .devJobs (by decide); have := g .nextJob (by decide); have := g .pads (by decide)
  have := g .pmem (by decide); have := g .rdw (by decide); have := g .rdwSc (by decide); have := g .pci (by decide)
  have := g .dmb (by decide); have := g .cas (by decide); have := g .lc (by decide); have := g .mon (by decide)
  simp only [State.same] at *
  simp_all

end Sys2Proof.Machine
end

