-- ==== Sys2Proof/Laws/EffectsTack.lean ====
section
/-! SUPPORT. What the shared operations and the single commands do to the fields that the statements speak of: key commands. -/

set_option maxRecDepth 10000
set_option linter.unusedVariables false
set_option linter.unusedSimpArgs false

namespace Sys2Proof.Machine

open Sys2Proof

/-- Ports, Logbook, latches, dictionary and output replaced. -/
def State.side (s : State) (p : List Port) (l : Log) (a : Atn) (d : Dict) (pd : List Instr) (o : List Out) : State :=
  { s with ports := p, log := l, atn := a, dict := d, pending := pd, out := o }

section
variable (s : State) (p : List Port) (l : Log) (a : Atn) (d : Dict) (pd : List Instr) (o : List Out)
theorem State.side_newKeyCheck (i j t k) : (s.side p l a d pd o).newKeyCheck i j t k = s.newKeyCheck i j t k := by
  unfold State.newKeyCheck; rfl
theorem State.side_secretCheck (i t k) : (s.side p l a d pd o).secretCheck i t k = s.secretCheck i t k := by
  unfold State.secretCheck; rfl
theorem State.side_freshSecret (i) : ((s.side p l a d pd o).freshSecret i).1 = (s.freshSecret i).1 := by
  unfold State.freshSecret; split <;> rfl
theorem State.side_officerUse (i t) : (s.side p l a d pd o).officerUse i t = s.officerUse i t := by unfold State.officerUse; rfl
theorem State.side_cmdTarget (i j k q) : (s.side p l a d pd o).cmdTarget i j k q = s.cmdTarget i j k q := by
  unfold State.cmdTarget; rfl
theorem State.side_place (h : (s.side p l a d pd o).tackTop = s.tackTop) (i t) : (s.side p l a d pd o).place i t = s.place i t := by
  unfold State.place; rw [h]; rfl
theorem State.side_keyPlan (h : (s.side p l a d pd o).tackTop = s.tackTop) (k) : (s.side p l a d pd o).keyPlan k = s.keyPlan k := by
  unfold State.keyPlan; dsimp only
  simp only [State.side_newKeyCheck, State.side_secretCheck, State.side_place s p l a d pd o h, State.side_freshSecret,
    State.side_officerUse, State.side_cmdTarget]
  rfl
end

/-- What a state that runs a key command owes to the one in which it was sent. -/
structure State.keyView (s u : State) : Prop where
  tack : u.tack = s.tack
  now : u.now = s.now
  cas : u.cas = s.cas
  plan : ∀ c, u.keyPlan c = s.keyPlan c
  place : ∀ i b, u.place i b = s.place i b

/-- A key command that a requester writes (R226, R230, R247). -/
theorem State.keyRow_facts (s : State) (r : Req) (x : Sess) (v : Bytes) (a : s.requestReady r x) (b1 : r.approver = none)
    (bp : s.valueProgramme 0x400006 v = none) (b4 : s.needsQuorum x.role 0x400006 = false) (c : s.logOpen) (d : s.tack.cmdsThisFrame < 8) :
    (s.writeCheck x 0x400006 v = 0 → ∃ u, s.keyView u ∧
      (s.fresh.writeRow r 0x400006 v).tack = (u.runCommand (keyCmdOf v)).2.tack ∧
      .reply x.id r.seq (u.runCommand (keyCmdOf v)).1 0 [] ∈ (s.fresh.writeRow r 0x400006 v).out) ∧
    (s.writeCheck x 0x400006 v ≠ 0 →
      (s.fresh.writeRow r 0x400006 v).tack = { s.tack with result := tackResult (s.writeCheck x 0x400006 v) 0 [] } ∧
      .reply x.id r.seq (s.writeCheck x 0x400006 v) 0 [] ∈ (s.fresh.writeRow r 0x400006 v).out) := by
  refine ⟨fun hz => ?_, fun hz => ?_⟩
  · have h5 : s.takes r x 0x400006 v := ⟨a, b1, hz, bp, b4, c, fun _ => d⟩
    obtain ⟨m, hm, ht, hd, hv, hr⟩ := State.writeRow_facts' s r x 0x400006 v h5 (by decide)
    have hu : s.only [.ports, .log, .atn, .dict, .out] (m.written 0x400006 v) := by
      refine State.written_only m _ _ (by decide) ?_
      intro p hp
      have h1 := hm.only p (by revert hp; cases p <;> decide)
      revert h1 hp; cases p <;> first | exact fun _ h => h | (intro q; exact absurd (by decide) q)
    have he := State.only_upd hu
    have htop : (m.written 0x400006 v).tackTop = s.tackTop := by
      unfold State.tackTop State.valU
      rw [State.written_val, if_neg (show ¬ mkKey 0x9000 0x03 = 0x400006 by decide)]
      obtain ⟨e1, e2, e3⟩ := hm.dict
      have : m.val (mkKey 0x9000 0x03) = s.val (mkKey 0x9000 0x03) := by unfold State.val; rw [e3]; rfl
      rw [this]
    generalize hw : m.written 0x400006 v = u at he htop hu
    have he' : u = s.side u.ports u.log u.atn u.dict u.pending u.out := he
    refine ⟨u, ⟨hu .tack (by decide), ?_, hu .cas (by decide), fun c => ?_, fun i b => ?_⟩, ?_, ?_⟩
    · exact congrArg Core.tick (hu .core (by decide))
    · rw [he']; exact State.side_keyPlan _ _ _ _ _ _ _ (by rw [← he']; exact htop) c
    · rw [he']; exact State.side_place _ _ _ _ _ _ _ (by rw [← he']; exact htop) i b
    · have e := ht .tack (by decide)
      have : m.applyEntry 0x400006 v = (m.written 0x400006 v).runCommand (keyCmdOf v) := rfl
      rw [this, hw] at e; exact e
    · have : m.applyEntry 0x400006 v = (m.written 0x400006 v).runCommand (keyCmdOf v) := rfl
      rw [this, hw] at hr; exact hr
  · obtain ⟨w, q, hn, ht, hd, hr⟩ := State.writeRow_refuses s r x 0x400006 v a b1 bp (by decide) hz
    exact ⟨ht .tack (by decide), hr⟩

theorem State.replicate_tack (s : State) (k : Key) : (s.replicate k).tack = s.tack :=
  State.replicate_only s k (List.Subset.refl _) (State.only_refl _ s) .tack (by decide)

theorem State.overQuota_tack (s : State) (p : Nat) : (s.overQuota p).tack = s.tack :=
  State.overQuota_only s p (List.Subset.refl _) (State.only_refl _ s) .tack (by decide)

theorem State.place_keys (s : State) (i : Nat) (b : Bool) (slot : Nat) (t : Tack) (h : s.place i b = some (slot, t)) :
    t.keys = s.tack.keys ∧ t.gens = s.tack.gens := by
  unfold State.place at h
  dsimp only at h
  split at h
  · simp only [Option.some.injEq, Prod.mk.injEq] at h; rw [← h.2]; exact ⟨rfl, rfl⟩
  · split at h
    · simp only [Option.some.injEq, Prod.mk.injEq] at h; rw [← h.2]; exact ⟨rfl, rfl⟩
    · cases h

theorem State.addKey_facts (s : State) (parent : Option Key) (a : NewKey) (sec : Bytes) (slot : Nat) (t0 : Tack)
    (h2 : s.place (keyRun a.typ) ((BitVec.ofNat 5 a.world).getLsbD 0) = some (slot, t0)) :
    ∃ u, s.addKey (makeKey parent s.tack a sec) = .ok (u, slot) ∧
      u.tack = t0.put (newKeyAt s parent a sec slot) := by
  unfold State.addKey
  rw [show (makeKey parent s.tack a sec).run = keyRun a.typ from rfl,
    show (makeKey parent s.tack a sec).world = BitVec.ofNat 5 a.world from rfl, h2]
  refine ⟨_, rfl, ?_⟩
  rw [State.replicate_tack]
  have : t0.gen slot = s.tack.gen slot := by unfold Tack.gen; rw [(State.place_keys s _ _ _ _ h2).2]
  unfold newKeyAt
  rw [← this]; rfl

/-- A key command that makes a key (R226 to R229). -/
theorem State.runCommand_add (s : State) (c : KeyCmd) (parent : Option Key) (a : NewKey) (sec : Bytes) (slot : Nat) (t0 : Tack)
    (h1 : s.keyPlan c = .ok (.add parent a sec))
    (h2 : s.place (keyRun a.typ) ((BitVec.ofNat 5 a.world).getLsbD 0) = some (slot, t0)) :
    (s.runCommand c).1 = stOk ∧
    (s.runCommand c).2.tack.keys = s.tack.keys.filter (fun x => x.slot != slot) ++ [newKeyAt s parent a sec slot] ∧
    ∃ kcv, (s.runCommand c).2.tack.result = tackResult stOk ((s.runCommand c).2.tack.handleOf slot) kcv := by
  obtain ⟨u, e, hu⟩ := State.addKey_facts s parent a sec slot t0 h2
  have hk : u.tack.keys = s.tack.keys.filter (fun x => x.slot != slot) ++ [newKeyAt s parent a sec slot] := by
    rw [hu]; unfold Tack.put; dsimp only
    rw [(State.place_keys s _ _ _ _ h2).1]; rfl
  unfold State.runCommand
  dsimp only
  rw [h1]
  dsimp only
  rw [e]
  dsimp only
  generalize hw : (if c.code = 1 ∧ (c.data.isEmpty = true ∨ a.typ = 0x50) then u.modTack (fun t => { t with draws := t.draws + 1 }) else u) = w
  have hwk : w.tack.keys = u.tack.keys := by rw [← hw]; split <;> rfl
  refine ⟨rfl, ?_, ?_⟩
  · rw [State.overQuota_tack]
    show w.tack.keys = _
    rw [hwk, hk]
  · refine ⟨(w.slotAnswer slot).drop 4, ?_⟩
    rw [State.overQuota_tack]; rfl

theorem State.runCommand_export (s : State) (c : KeyCmd) (b : Bytes) (h1 : s.keyPlan c = .ok (.blockOut b)) :
    (s.runCommand c).1 = stOk ∧ (s.runCommand c).2.tack = { s.tack with exported := b, result := tackResult stOk c.handle [] } := by
  unfold State.runCommand
  dsimp only
  rw [h1]; exact ⟨rfl, rfl⟩

theorem State.tellStack_tack (s : State) (k : Key) (i : Nat) : (s.tellStack k i).tack = s.tack := by
  unfold State.tellStack; split <;> rfl

theorem State.queueSweep_tack (s : State) (i : Nat) : (s.queueSweep i).tack = s.tack := by
  unfold State.queueSweep; split <;> rfl

theorem Tack.bumpRun_keys (t : Tack) (slot run : Nat) : (t.bumpRun slot run).keys = t.keys := by
  unfold Tack.bumpRun
  generalize List.range run = l
  induction l generalizing t with
  | nil => rfl
  | cons x l ih =>
    rw [List.foldl_cons, ih]
    unfold Tack.bump; split <;> rfl

/-- An erased key's run is free (R231, R235). -/
theorem State.eraseKey_keys (s : State) (k : Key) :
    (s.eraseKey k).tack.keys = s.tack.keys.filter (fun x => x.slot != k.slot) := by
  unfold State.eraseKey
  show (Tack.remove _ _).keys = _
  rw [State.queueSweep_tack, State.tellStack_tack]
  unfold Tack.remove Tack.strike
  dsimp only
  rw [Tack.bumpRun_keys]

theorem Tack.put_keys (t : Tack) (k : Key) : (t.put k).keys = t.keys.filter (fun x => x.slot != k.slot) ++ [k] := rfl

/-- A revoked key keeps its run, without its secret, unless the run is worn out (R217, R231). -/
theorem State.revokeKey_keys (s : State) (k : Key) (h : s.tack.worn k = false) :
    ∃ g, (s.revokeKey k).tack.keys = s.tack.keys.filter (fun x => x.slot != k.slot) ++
      [{ k with st := .revoked, secret := [], gen := g, drainEnd := none }] := by
  unfold State.revokeKey
  rw [State.modTack_tack, State.queueSweep_tack, State.tellStack_tack]
  dsimp only
  rw [h, if_neg (by decide), Tack.put_keys]
  unfold Tack.strike
  dsimp only
  rw [Tack.bumpRun_keys]
  exact ⟨_, rfl⟩

/-- A rewritten key is ACTIVE with a new secret and no uses (R226, R235). -/
theorem State.rewriteKey_keys (s : State) (k : Key) (sec : Bytes) :
    ∃ g, (s.rewriteKey k sec).tack.keys = s.tack.keys.filter (fun x => x.slot != k.slot) ++
      [{ k with st := .active, secret := sec, gen := g, useCount := 0, mark := 0 }] := by
  unfold State.rewriteKey
  rw [State.modTack_tack, State.queueSweep_tack, State.tellStack_tack]
  dsimp only
  rw [Tack.put_keys]
  unfold Tack.strike
  dsimp only
  rw [Tack.bumpRun_keys]
  exact ⟨_, rfl⟩

/-- A draining key has its end set (R236). -/
theorem State.drainKey_keys (s : State) (k : Key) (n : Nat) :
    (s.drainKey k n).tack.keys = s.tack.keys.filter (fun x => x.slot != k.slot) ++
      [{ k with st := .draining, drainEnd := some (s.now + n) }] := by
  unfold State.drainKey
  rw [State.modTack_tack, State.tellStack_tack]; rfl

/-- A key command that changes a key (R226, R231, R235, R236). -/
theorem State.runCommand_change (s : State) (c : KeyCmd) (k : Key) (h1 : s.keyPlan c = .ok (.change k)) :
    (s.runCommand c).1 = stOk ∧
    (c.code = 4 → k.st ≠ .revoked → s.tack.worn k = false → ∃ g, (s.runCommand c).2.tack.keys =
      s.tack.keys.filter (fun x => x.slot != k.slot) ++ [{ k with st := .revoked, secret := [], gen := g, drainEnd := none }]) ∧
    (c.code = 5 → (s.runCommand c).2.tack.keys = s.tack.keys.filter (fun x => x.slot != k.slot)) ∧
    (c.code = 6 → ∃ g, (s.runCommand c).2.tack.keys = s.tack.keys.filter (fun x => x.slot != k.slot) ++
      [{ k with st := .active, secret := rewriteSecret k s.tack.draws, gen := g, useCount := 0, mark := 0 }]) ∧
    (c.code = 7 → (s.runCommand c).2.tack.keys = s.tack.keys.filter (fun x => x.slot != k.slot) ++
      [{ k with st := .draining, drainEnd := some (s.now + c.timeout) }]) := by
  unfold State.runCommand
  dsimp only
  rw [h1]
  dsimp only
  refine ⟨rfl, fun h h2 h3 => ?_, fun h => ?_, fun h => ?_, fun h => ?_⟩
  · rw [if_neg (show ¬ c.code = 6 by omega)]
    unfold State.changeKey
    rw [if_pos h, if_neg h2]
    exact State.revokeKey_keys s k h3
  · rw [if_neg (show ¬ c.code = 6 by omega)]
    unfold State.changeKey
    rw [if_neg (show ¬ c.code = 4 by omega), if_pos h]
    exact State.eraseKey_keys s k
  · rw [if_pos h]
    unfold State.changeKey
    rw [if_neg (show ¬ c.code = 4 by omega), if_neg (show ¬ c.code = 5 by omega), if_pos h]
    show ∃ g, (State.replicate _ _).tack.keys = _
    rw [State.replicate_tack]
    exact State.rewriteKey_keys (s.modTack (fun t => { t with draws := t.draws + 1 })) k _
  · rw [if_neg (show ¬ c.code = 6 by omega)]
    unfold State.changeKey
    rw [if_neg (show ¬ c.code = 4 by omega), if_neg (show ¬ c.code = 5 by omega), if_neg (show ¬ c.code = 6 by omega)]
    exact State.drainKey_keys s k c.timeout

/-- A key held or given back changes no key of another world, and no root key (R213, R235). -/
theorem State.place_tack (s : State) (i : Nat) (b : Bool) (p : Nat × Tack) (h : s.place i b = some p) :
    p.2.srk = s.tack.srk ∧ p.2.keys = s.tack.keys ∧ p.2.hampers = s.tack.hampers := by
  unfold State.place at h
  dsimp only at h
  split at h
  · cases h; exact ⟨rfl, rfl, rfl⟩
  · split at h
    · cases h; exact ⟨rfl, rfl, rfl⟩
    · cases h
theorem Tack.bumpRun_srk (t : Tack) (a n : Nat) : (t.bumpRun a n).srk = t.srk := by
  unfold Tack.bumpRun
  have : ∀ (r : List Nat) (u : Tack), (r.foldl (fun t i => t.bump (a + i)) u).srk = u.srk := by
    intro r; induction r with
    | nil => intro u; rfl
    | cons a r ih => intro u; rw [List.foldl_cons, ih]; unfold Tack.bump; split <;> rfl
  exact this _ _
theorem State.dropHamper_keys (s : State) (p : Nat) : (s.dropHamper p).tack.srk = s.tack.srk ∧
    (∀ k ∈ (s.dropHamper p).tack.keys, k ∈ s.tack.keys) ∧
    (s.dropHamper p).tack.keys.filter (fun k => !k.world.getLsbD 0) = s.tack.keys.filter (fun k => !k.world.getLsbD 0) := by
  show (s.unhold 1 _).tack.srk = _ ∧ (∀ k ∈ (s.unhold 1 _).tack.keys, _) ∧ (s.unhold 1 _).tack.keys.filter _ = _
  unfold State.unhold
  split
  · split
    · next h _ =>
      refine ⟨Tack.bumpRun_srk _ _ _, fun k hk => (List.mem_filter.1 hk).1, ?_⟩
      show (s.tack.keys.filter _).filter _ = _
      rw [List.filter_filter]
      refine List.filter_congr (fun k _ => ?_)
      cases hw : k.world.getLsbD 0
      · have : (k.world != (1 : BitVec 5)) = true := by
          rw [bne_iff_ne]; intro c; rw [c] at hw; cases hw
        rw [this]; simp
      · simp
    · exact ⟨rfl, fun _ hk => hk, rfl⟩
  · exact ⟨rfl, fun _ hk => hk, rfl⟩
/-- A hamper key is an ACTIVE key of the STEWARD world, and no other key changes with it (R267). -/
theorem State.deriveHamper_keys (s : State) (p : Nat) : (s.deriveHamper p).tack.srk = s.tack.srk ∧
    (∀ k ∈ (s.deriveHamper p).tack.keys, k ∈ s.tack.keys ∨ (k.world.getLsbD 0 = true ∧ k.st = .active)) ∧
    (s.deriveHamper p).tack.keys.filter (fun k => !k.world.getLsbD 0) = s.tack.keys.filter (fun k => !k.world.getLsbD 0) := by
  obtain ⟨d1, d2, d3⟩ := State.dropHamper_keys s p
  have hold : ∀ (u : State) (v : Bytes), (u.hold (serviceKey 1 0x03 0x0030 v)).2.tack.srk = u.tack.srk ∧
      (∀ k ∈ (u.hold (serviceKey 1 0x03 0x0030 v)).2.tack.keys, k ∈ u.tack.keys ∨ (k.world.getLsbD 0 = true ∧ k.st = .active)) ∧
      (u.hold (serviceKey 1 0x03 0x0030 v)).2.tack.keys.filter (fun k => !k.world.getLsbD 0) =
        u.tack.keys.filter (fun k => !k.world.getLsbD 0) := by
    intro u v
    unfold State.hold
    split
    · exact ⟨rfl, fun k hk => .inl hk, rfl⟩
    · next e =>
      obtain ⟨p1, p2, -⟩ := State.place_tack _ _ _ _ e
      refine ⟨p1, fun k hk => ?_, ?_⟩
      · rcases List.mem_append.1 hk with c | c
        · exact .inl (by rw [p2] at c; exact c)
        · have c := List.mem_singleton.1 c
          subst c; exact .inr ⟨show (1 : BitVec 5).getLsbD 0 = true by decide, rfl⟩
      · dsimp only [State.modTack_tack] at p2 ⊢
        rw [p2, List.filter_append]
        simp [serviceKey]
  unfold State.deriveHamper
  dsimp only
  split
  · exact ⟨d1, fun k hk => .inl (d2 k hk), d3⟩
  · next v _ =>
    obtain ⟨h1, h2, h3⟩ := hold (s.dropHamper p) v
    have key : ∀ k ∈ ((s.dropHamper p).hold (serviceKey 1 0x03 0x0030 v)).2.tack.keys,
        k ∈ s.tack.keys ∨ (k.world.getLsbD 0 = true ∧ k.st = .active) :=
      fun k hk => (h2 k hk).elim (fun c => .inl (d2 k c)) .inr
    split
    · exact ⟨h1.trans d1, key, h3.trans d3⟩
    · exact ⟨h1.trans d1, key, h3.trans d3⟩
theorem State.deriveHampers_keys (s : State) : s.deriveHampers.tack.srk = s.tack.srk ∧
    (∀ k ∈ s.deriveHampers.tack.keys, k ∈ s.tack.keys ∨ (k.world.getLsbD 0 = true ∧ k.st = .active)) ∧
    s.deriveHampers.tack.keys.filter (fun k => !k.world.getLsbD 0) = s.tack.keys.filter (fun k => !k.world.getLsbD 0) := by
  unfold State.deriveHampers
  generalize s.pads = l
  induction l generalizing s with
  | nil => exact ⟨rfl, fun _ hk => .inl hk, rfl⟩
  | cons a l ih =>
    rw [List.foldl_cons]
    obtain ⟨i1, i2, i3⟩ := ih (if a.st = .disabled then s else s.deriveHamper a.num)
    have : (if a.st = .disabled then s else s.deriveHamper a.num).tack.srk = s.tack.srk ∧
      (∀ k ∈ (if a.st = .disabled then s else s.deriveHamper a.num).tack.keys, k ∈ s.tack.keys ∨ (k.world.getLsbD 0 = true ∧ k.st = .active)) ∧
      (if a.st = .disabled then s else s.deriveHamper a.num).tack.keys.filter (fun k => !k.world.getLsbD 0) =
        s.tack.keys.filter (fun k => !k.world.getLsbD 0) := by
      split
      · exact ⟨rfl, fun _ hk => .inl hk, rfl⟩
      · exact State.deriveHamper_keys s a.num
    refine ⟨i1.trans this.1, fun k hk => ?_, i3.trans this.2.2⟩
    exact (i2 k hk).elim (this.2.1 k) .inr
/-- A new Storage Root Key leaves no LOST run (R242, R244). -/
theorem State.srkGenerated_tack (s : State) : s.srkGenerated.tack.srk = some (s.draw 32).1 ∧
    ∀ k ∈ s.srkGenerated.tack.keys, (k ∈ s.tack.keys ∨ k.world.getLsbD 0 = true) ∧ k.st ≠ .lost := by
  have fold : ∀ (l : List Key) (t : State), ((l.foldl (fun s k => s.eraseKey k) t).tack.srk = t.tack.srk) ∧
      ∀ k ∈ (l.foldl (fun s k => s.eraseKey k) t).tack.keys, k ∈ t.tack.keys ∧ ∀ y ∈ l, k.slot ≠ y.slot := by
    intro l
    induction l with
    | nil => intro t; exact ⟨rfl, fun k hk => ⟨hk, fun y hy => by cases hy⟩⟩
    | cons x l ih =>
      intro t
      obtain ⟨i1, i2⟩ := ih (t.eraseKey x)
      rw [List.foldl_cons]
      refine ⟨i1.trans ?_, fun k hk => ?_⟩
      · unfold State.eraseKey
        rw [State.modTack_tack, State.queueSweep_tack, State.tellStack_tack]
        show (Tack.bumpRun _ _ _).srk = _
        unfold Tack.bumpRun
        have : ∀ (r : List Nat) (u : Tack), (r.foldl (fun t i => t.bump (x.slot + i)) u).srk = u.srk := by
          intro r; induction r with
          | nil => intro u; rfl
          | cons a r ih => intro u; rw [List.foldl_cons, ih]; unfold Tack.bump; split <;> rfl
        exact this _ _
      · obtain ⟨j1, j2⟩ := i2 k hk
        rw [State.eraseKey_keys] at j1
        have := List.mem_filter.1 j1
        refine ⟨this.1, fun y hy => ?_⟩
        rcases List.mem_cons.1 hy with e | e
        · subst e; simpa using this.2
        · exact j2 y e
  unfold State.srkGenerated
  extract_lets d u
  obtain ⟨f1, f2⟩ := fold (u.tack.keys.filter (fun k => k.st == .lost)) u
  obtain ⟨g1, g2, -⟩ := State.deriveHampers_keys ((u.tack.keys.filter (fun k => k.st == .lost)).foldl (fun s k => s.eraseKey k) u)
  have u1 : u.tack.srk = some (s.draw 32).1 := rfl
  have u2 : u.tack.keys = s.tack.keys := rfl
  clear_value u
  rw [u1] at f1
  rw [u2] at f2 g2
  rw [u2] at f1 g1
  rw [u2]
  refine ⟨g1.trans f1, fun k hk => ?_⟩
  rcases g2 k hk with hk | hk
  · obtain ⟨j1, j2⟩ := f2 k hk
    refine ⟨.inl j1, fun e => ?_⟩
    exact j2 k (List.mem_filter.2 ⟨j1, by rw [e]; rfl⟩) rfl
  · exact ⟨.inr hk.1, by rw [hk.2]; decide⟩
/-- A fresh tag key changes the port's own key fields and the Tack Room (R157). -/
theorem State.freshTagKey_facts (s : State) (n : Nat) : (s.freshTagKey n).ports.length = s.ports.length ∧
    (s.freshTagKey n).dict = s.dict ∧ (s.freshTagKey n).shed = s.shed ∧
    (n < s.ports.length → ((s.freshTagKey n).port n).shedBase = (s.port n).shedBase) := by
  have ho : s.only [.ports, .tack] (s.freshTagKey n) := State.freshTagKey_only s n (List.Subset.refl _) (State.only_refl _ s)
  have hu : s.only [.tack] (((s.draw 32).2.hold (serviceKey 2 0x06 0x0400 (s.draw 32).1)).2.unhold 2 (s.port n).tagKey) :=
    State.unhold_only _ _ _ (List.Subset.refl _) (State.hold_only _ _ (List.Subset.refl _) (State.draw_only s 32 (List.Subset.refl _) (State.only_refl _ s)))
  have hp := hu .ports (by decide)
  refine ⟨?_, ho .dict (by decide), ho .shed (by decide), fun h => ?_⟩
  · exact (State.modPort_length _ _ _).trans (congrArg List.length hp)
  · unfold State.freshTagKey
    dsimp only
    rw [State.modPort_port_self _ _ _ (by rw [show (State.ports _) = s.ports from hp]; exact h)]
    show (State.port _ n).shedBase = _
    exact congrArg (fun l : List Port => (l.getD n (portReset noBanks)).shedBase) hp
/-- A STEWARD key of one slot takes the slot at the pointer while no key stands there or above (R213). -/
theorem State.hold_next (s : State) (k : Key) (hr : s.tack.retired = []) (hl : s.tack.loads = [])
    (hk : ∀ y ∈ s.tack.keys, y.slot + y.run ≤ s.tack.sptr)
    (hp : s.tack.sptr < 255) (h1 : k.run = 1) (hw : k.world.getLsbD 0 = true) :
    (s.hold k).2.tack.keys = s.tack.keys ++ [{ k with slot := s.tack.sptr, gen := s.tack.gen s.tack.sptr }] ∧
    (s.hold k).2.tack.retired = [] ∧ (s.hold k).2.tack.sptr = s.tack.sptr + 1 ∧ (s.hold k).2.tack.loads = [] := by
  have hf : s.tack.fits s.tack.sptr 1 = true := by
    unfold Tack.fits
    rw [hr, hl]
    simp only [List.all_nil, Bool.and_true, List.all_eq_true, Bool.or_eq_true, decide_eq_true_eq]
    exact fun y hy => .inl (hk y hy)
  have hs : s.tack.search 1 256 1 255 s.tack.sptr = some s.tack.sptr := by
    show (if _ then _ else _) = _
    rw [if_pos ⟨by omega, hf⟩]
  have e : s.place k.run (k.world.getLsbD 0) = some (s.tack.sptr, { s.tack with sptr := s.tack.sptr + 1 }) := by
    unfold State.place
    rw [h1, hw]
    dsimp only
    rw [if_pos rfl, hs]
    dsimp only
    rw [if_pos (by omega)]
  unfold State.hold
  rw [e]
  exact ⟨rfl, hr, rfl, hl⟩
theorem State.hold_all (l : List Key) : ∀ (s : State), s.tack.retired = [] → s.tack.loads = [] → (∀ y ∈ s.tack.keys, y.slot + y.run ≤ s.tack.sptr) →
    s.tack.sptr + l.length ≤ 255 → (∀ k ∈ l, k.run = 1 ∧ k.world.getLsbD 0 = true) →
    ∀ k ∈ l, ∃ y ∈ (l.foldl (fun s k => (s.hold k).2) s).tack.keys, y.secret = k.secret ∧ y.world = k.world ∧ y.typ = k.typ ∧
      y.usage = k.usage := by
  have keep : ∀ (l : List Key) (s : State) (y : Key), y ∈ s.tack.keys → y ∈ (l.foldl (fun s k => (s.hold k).2) s).tack.keys := by
    intro l; induction l with
    | nil => intro s y h; exact h
    | cons a l ih =>
      intro s y h
      rw [List.foldl_cons]
      refine ih _ _ ?_
      unfold State.hold
      split
      · exact h
      · next e =>
        obtain ⟨-, p2, -⟩ := State.place_tack _ _ _ _ e
        dsimp only at p2
        exact List.mem_append_left _ (by rw [p2]; exact h)
  induction l with
  | nil => intro s _ _ _ _ _ k hk; cases hk
  | cons a l ih =>
    intro s hr hld hk hp hl k hkl
    obtain ⟨a1, a2⟩ := hl a (List.mem_cons_self ..)
    rw [List.length_cons] at hp
    obtain ⟨n1, n2, n3, n4⟩ := State.hold_next s a hr hld hk (by omega) a1 a2
    rw [List.foldl_cons]
    rcases List.mem_cons.1 hkl with c | c
    · refine ⟨_, keep l _ _ (by rw [n1]; exact List.mem_append_right _ (List.mem_singleton.2 rfl)), ?_⟩
      rw [c]; exact ⟨rfl, rfl, rfl, rfl⟩
    · refine ih _ n2 n4 (fun y hy => ?_) (by rw [n3]; omega) (fun z hz => hl z (List.mem_cons_of_mem _ hz)) k c
      rw [n1] at hy; rw [n3]
      rcases List.mem_append.1 hy with d | d
      · have := hk y d; omega
      · rw [List.mem_singleton.1 d]; show _ + a.run ≤ _; rw [a1]

end Sys2Proof.Machine
end

