-- ==== Sys2Proof/Laws/EffectsJobs.lean ====
section
/-! SUPPORT. What the shared operations and the single commands do to the fields that the statements speak of: the ends of jobs. -/

set_option maxRecDepth 10000
set_option linter.unusedVariables false
set_option linter.unusedSimpArgs false

namespace Sys2Proof.Machine

open Sys2Proof

theorem State.modJob_job (s : State) (i : Nat) (f : Job → Job) (hf : ∀ j, (f j).id = j.id) (k : Nat) :
    (s.modJob i f).job? k = if k = i then (s.job? k).map f else s.job? k := by
  unfold State.job? State.modJob State.modJobs
  dsimp only
  rw [List.find?_map]
  have e : ((fun j : Job => j.id == k) ∘ fun j => if (j.id == i) = true then f j else j) = fun j => j.id == k := by
    funext y; simp only [Function.comp]; split <;> simp_all
  rw [e]
  cases q : s.jobs.find? (fun j => j.id == k) with
  | none => simp
  | some y =>
    have := List.find?_some q
    simp only [Option.map_some, beq_iff_eq] at this ⊢
    subst this
    split <;> rfl

theorem State.job_id {s : State} {i : Nat} {j : Job} (h : s.job? i = some j) : j.id = i := by
  have := List.find?_some h; simpa using this

/-- A job that is no part of a batch takes its ending (R229, R382). -/
theorem State.settle_facts (s : State) (id : Nat) (e : Ending) (j : Job) (h : s.job? id = some j) (hp : j.src.whole = true) :
    (s.settle id e).job? id = some (j.ended e s.now) ∧ s.only [.yard, .jobs] (s.settle id e) := by
  refine ⟨?_, State.settle_only s id e (List.Subset.refl _) (State.only_refl _ s)⟩
  unfold State.settle
  rw [h]
  dsimp only
  generalize hu : s.modYard _ = u
  have hj : u.job? id = some j := by rw [← hu]; exact h
  have hn : u.now = s.now := by rw [← hu]; rfl
  split
  · rename_i q; rw [q] at hp; cases hp
  · rw [State.modJob_job _ _ _ (fun j => by rfl), if_pos rfl, hj, hn]; rfl

/-- A service whose last step has ended (R221, R261, R334, R529). -/
theorem State.endStep_facts (s : State) (op id : Nat) (agree : Bool) (f : State → Job → State × Ending) (j : Job)
    (h : s.atLastStep id op j) (h1 : (f s j).1.job? id = s.job? id) (h2 : (f s j).1.now = s.now) :
    ∃ u, (agree = true → j.short = false → u = (f s j).1) ∧
      (agree = true → j.short = true → opStream op = true → u = s.closeStream j.pad j.keyB) ∧
      ((agree = false ∨ (j.short = true ∧ opStream op = false)) → u = s) ∧
      u.only [.yard, .jobs] (s.endStep op id agree f) ∧
      (s.endStep op id agree f).job? id = some (j.ended (j.ending agree (f s j).2) s.now) := by
  obtain ⟨a1, a2, a3⟩ := h
  have t : opStream op = true ∨ opStream op = false := by cases opStream op <;> simp
  unfold State.endStep
  rw [a1]
  dsimp only
  rw [a2]
  unfold Job.ending
  cases agree
  · obtain ⟨q1, q2⟩ := State.settle_facts s id (bare stFaultDetected) j a1 a3
    exact ⟨s, by simp, by simp, by simp, q2, q1⟩
  · cases hs : j.short
    · obtain ⟨q1, q2⟩ := State.settle_facts (f s j).1 id (f s j).2 j (h1.trans a1) a3
      rw [h2] at q1
      exact ⟨(f s j).1, by simp, by simp, by simp, q2, q1⟩
    · rcases t with t | t
      · obtain ⟨q1, q2⟩ := State.settle_facts (s.closeStream j.pad j.keyB) id (bare stLengthMismatch) j a1 a3
        rw [t]
        exact ⟨s.closeStream j.pad j.keyB, by simp, by simp, by simp, q2, q1⟩
      · obtain ⟨q1, q2⟩ := State.settle_facts s id (bare stLengthMismatch) j a1 a3
        rw [t]
        exact ⟨s, by simp, by simp, by simp, q2, q1⟩

theorem State.endPlain_facts (s : State) (op id : Nat) (agree : Bool) (f : Job → Ending) (j : Job)
    (h : s.atLastStep id op j) : (s.endPlain op id agree f).job? id = some (j.ended (j.ending agree (f j)) s.now) := by
  obtain ⟨u, -, -, -, -, q⟩ := State.endStep_facts s op id agree (fun s j => (s, f j)) j h rfl rfl
  exact q

theorem State.endWith_facts (s : State) (op id : Nat) (agree : Bool) (f : State → Job → Ending) (j : Job)
    (h : s.atLastStep id op j) (ho : opStream op = false) : s.only [.yard, .jobs] (s.endWith op id agree f) ∧
    (s.endWith op id agree f).job? id = some (j.ended (j.ending agree (f s j)) s.now) := by
  obtain ⟨u, q1, q2, q3, q4, q⟩ := State.endStep_facts s op id agree (fun s j => (s, f s j)) j h rfl rfl
  refine ⟨?_, q⟩
  have : u = s := by
    cases agree
    · exact q3 (.inl rfl)
    · cases hs : j.short
      · exact q1 rfl hs
      · exact q3 (.inr ⟨hs, ho⟩)
  rw [this] at q4; exact q4
theorem find_filter {α : Type} (l : List α) (p q : α → Bool) (h : ∀ x ∈ l, q x = true → p x = true) :
    (l.filter p).find? q = l.find? q := by
  induction l with
  | nil => rfl
  | cons a l ih =>
    have i := ih (fun x hx => h x (List.mem_cons_of_mem _ hx))
    cases hq : q a
    · rw [List.find?_cons_of_neg (by rw [hq]; decide)]
      rw [List.filter_cons]
      split
      · rw [List.find?_cons_of_neg (by rw [hq]; decide)]; exact i
      · exact i
    · rw [List.filter_cons_of_pos (h a (List.mem_cons_self ..) hq), List.find?_cons_of_pos hq, List.find?_cons_of_pos hq]

/-- The check of a batch leaves a part that has ended (R313, R354). -/
theorem State.batchCheck_job (s : State) (p at_ i : Nat) (hi : i ≠ p) (h : ∀ y ∈ s.jobs, (y.id == i) = true → y.settled = true) :
    (s.batchCheck p at_).job? i = s.job? i := by
  unfold State.batchCheck
  cases hq : s.job? p with
  | none => rfl
  | some b =>
    dsimp only
    cases hb : b.status with
    | some x =>
      dsimp only
      have e : (s.modJobs (fun l => l.filter (fun j => !(j.src == .part p && j.lane.isNone && !j.settled)))).job? i = s.job? i := by
        refine find_filter _ _ _ (fun y hy hj => ?_)
        rw [h y hy hj]; simp
      split
      · rw [State.modJob_job _ _ _ (fun y => by rfl), if_neg hi]; exact e
      · exact e
    | none =>
      dsimp only
      split
      · rw [State.modJob_job _ _ _ (fun y => by rfl), if_neg hi]
      · rfl

/-- One signature of a batch has been checked (R313, R354). -/
theorem State.part_facts (s : State) (op id p : Nat) (agree : Bool) (f : Job → Ending) (j : Job) (h1 : s.job? id = some j)
    (h2 : j.atEnd op = true) (h3 : j.src = .part p) (h4 : p ≠ id) (ho : opStream op = false) :
    (s.endPlain op id agree f).job? id = some (j.ended (j.ending agree (f j)) s.now) := by
  have key : ∀ e, (s.settle id e).job? id = some (j.ended e s.now) := by
    intro e
    unfold State.settle
    rw [h1]
    dsimp only
    generalize hu : s.modYard _ = u
    have hj : u.job? id = some j := by rw [← hu]; exact h1
    have hn : u.now = s.now := by rw [← hu]; rfl
    rw [h3]
    dsimp only
    rw [State.batchCheck_job _ _ _ _ (Ne.symm h4)]
    · rw [State.modJob_job _ _ _ (fun j => by rfl), if_pos rfl, hj, hn]; rfl
    · intro y hy hi
      simp only [State.modJob, State.modJobs, List.mem_map] at hy
      obtain ⟨w, hw, rfl⟩ := hy
      split at hi
      · rename_i q; rw [if_pos q]
      · rename_i q; exact absurd hi q
  unfold State.endPlain State.endStep Job.ending
  rw [h1]
  dsimp only
  rw [h2, ho]
  cases agree
  · exact key _
  · cases hs : j.short <;> exact key _
/-- `find?` in a list whose elements with one key are changed, keys kept. -/
theorem find_upd {α : Type} (l : List α) (key : α → Nat) (f : α → α) (hf : ∀ a, key (f a) = key a) (i k : Nat) :
    (l.map (fun a => if (key a == i) = true then f a else a)).find? (fun a => key a == k) =
      if k = i then (l.find? (fun a => key a == k)).map f else l.find? (fun a => key a == k) := by
  rw [List.find?_map]
  have e : ((fun a => key a == k) ∘ fun a => if (key a == i) = true then f a else a) = fun a => key a == k := by
    funext y; simp only [Function.comp]; split <;> simp_all
  rw [e]
  cases q : l.find? (fun a => key a == k) with
  | none => simp
  | some y =>
    have := List.find?_some q
    simp only [Option.map_some, beq_iff_eq] at this ⊢
    subst this
    split <;> rfl

theorem State.modPad_pad (s : State) (p : Nat) (f : Pad → Pad) (hf : ∀ q, (f q).num = q.num) (k : Nat) :
    (s.modPad p f).pad? k = if k = p then (s.pad? k).map f else s.pad? k := find_upd s.pads Pad.num f hf p k

theorem State.closeStream_pad (s : State) (p h : Nat) (q : Pad) (hq : s.pad? p = some q) :
    (s.closeStream p h).pad? p = some { q with streams := q.streams.filter (fun x => x.handle != h) } := by
  unfold State.closeStream
  rw [State.modPad_pad _ _ _ (fun q => by rfl), if_pos rfl, hq]; rfl

theorem State.modStream_stream (s : State) (p h : Nat) (f : Stream → Stream) (hf : ∀ x, (f x).handle = x.handle) (x : Stream)
    (hx : s.stream? p h = some x) : (s.modStream p h f).stream? p h = some (f x) := by
  unfold State.stream? at hx ⊢
  unfold State.modStream
  rw [State.modPad_pad _ _ _ (fun q => by rfl), if_pos rfl]
  cases hq : s.pad? p with
  | none => rw [hq] at hx; cases hx
  | some q =>
    rw [hq] at hx
    dsimp only [Option.map_some] at hx ⊢
    refine (find_upd q.streams Stream.handle f hf h h).trans ?_
    rw [if_pos rfl, hx]; rfl
/-- Yard, jobs and the queue replaced. -/
def State.work (s : State) (y : Yard) (j : List Job) (pd : List Instr) : State := { s with yard := y, jobs := j, pending := pd }

theorem State.only_work {s m : State} (h : s.only [.yard, .jobs] m) : m = s.work m.yard m.jobs m.pending := by
  have g : ∀ p, p ∉ [Part.yard, .jobs] → s.same p m := fun p hp => h p hp
  cases m
  have := g .core (by decide); have := g .pwr (by decide); have := g .sup (by decide); have := g .fuse (by decide)
  have := g .boot (by decide); have := g .hal (by decide); have := g .shed (by decide); have := g .ports (by decide)
  have := g .tagTable (by decide); have := g .shedLost (by decide); have := g .pldm (by decide)
  have := g .par (by decide); have := g .tack (by decide); have := g .log (by decide); have := g .atn (by decide)
  have := g .devJobs (by decide); have := g .nextJob (by decide); have := g .pads (by decide); have := g .dict (by decide)
  have := g .pmem (by decide); have := g .rdw (by decide); have := g .rdwSc (by decide); have := g .pci (by decide)
  have := g .dmb (by decide); have := g .cas (by decide); have := g .lc (by decide); have := g .mon (by decide)
  have := g .out (by decide)
  simp only [State.same] at *
  unfold State.work
  simp_all

theorem State.work_jobPlace (s : State) (y : Yard) (j : List Job) (pd : List Instr) (id run : Nat) (b : Bool) :
    (s.work y j pd).jobPlace id run b = s.jobPlace id run b := by unfold State.jobPlace State.place; rfl

/-- The place of a job's key in the Tack Room (R213, R319). -/
theorem State.jobPlace_keys (s : State) (id run : Nat) (b : Bool) (slot : Nat) (t : Tack) (h : s.jobPlace id run b = some (slot, t)) :
    t.keys = s.tack.keys ∧ t.gens = s.tack.gens := by
  unfold State.jobPlace at h
  split at h
  · simp only [Option.some.injEq, Prod.mk.injEq] at h; rw [← h.2]; exact ⟨rfl, rfl⟩
  · exact State.place_keys s _ _ _ _ h

theorem State.work_jobCheck (s : State) (y : Yard) (j : List Job) (pd : List Instr) (k : Job) :
    (s.work y j pd).jobCheck k = s.jobCheck k := by unfold State.jobCheck; rfl

/-- The change of a key job is written at once where the Logbook takes its entry (R229, R230, R444). -/
theorem State.askJob_facts (s u : State) (id : Nat) (j : Job) (hu : s.only [.yard, .jobs] u) (h : u.job? id = some j)
    (c : s.logOpen) (d : s.tack.cmdsThisFrame < 8) :
    (j.waitsLog = false → u.askJob id = u) ∧
    (j.waitsLog = true → s.jobCheck j ≠ 0 → u.askJob id = u.endJob id (s.jobCheck j) (s.now + 1)) ∧
    (j.waitsLog = true → s.jobCheck j = 0 → ∃ m, u.noted m ∧
      u.askJob id = (m.jobApply id).modTack (fun t => { t with cmdsThisFrame := t.cmdsThisFrame + 1 })) := by
  have e := State.only_work hu
  have hc : u.jobCheck j = s.jobCheck j := by rw [e]; exact State.work_jobCheck s _ _ _ j
  have hn : u.now = s.now := by rw [e]; rfl
  have c' : u.logOpen := by rw [e]; exact c
  have d' : u.tack.cmdsThisFrame < 8 := by rw [e]; exact d
  obtain ⟨c1, c2, c3, c4, c5⟩ := c'
  have key : ∀ x : LogDesc, u.logChange x (.job id) = u.writeChange x (.job id) := by
    intro x
    unfold State.logChange
    rw [if_neg (by rw [c1]; simp), if_neg (by
      rw [c2, c4, c5]; rintro (q | q | q | q | q)
      · cases q
      · omega
      · cases q
      · cases q
      · omega)]
  refine ⟨fun w => ?_, fun w z => ?_, fun w z => ?_⟩
  · unfold State.askJob; rw [h]; dsimp only; rw [w]; rfl
  · unfold State.askJob; rw [h]; dsimp only; rw [w, if_pos rfl, key]
    unfold State.writeChange
    have : u.effCheck (u.jobDesc j) (.job id) = s.jobCheck j := by
      show (match u.job? id with | some j => u.jobCheck j | none => 0) = _
      rw [h]; exact hc
    rw [this, if_pos z]
    show u.endJob id _ (u.now + 1) = _
    rw [hn]
  · refine ⟨u.ringPut (fun l => l.entryBytes (u.fullDesc (u.jobDesc j) (.job id))), State.ringPut_noted u _, ?_⟩
    unfold State.askJob; rw [h]; dsimp only; rw [w, if_pos rfl, key]
    unfold State.writeChange
    have : u.effCheck (u.jobDesc j) (.job id) = 0 := by
      show (match u.job? id with | some j => u.jobCheck j | none => 0) = _
      rw [h]; exact hc.trans z
    rw [this, if_neg (fun q => q rfl)]
    rfl

theorem State.endJob_job (s : State) (id st at_ : Nat) (j : Job) (h : s.job? id = some j) (hp : j.src.whole = true) :
    (s.endJob id st at_).job? id = some { j.wiped with
      status := some st, settled := true, completeAt := some at_, lane := none, held := false, waitsLog := false,
      result := [], dest := [], resLen := 0, newKey := none } := by
  unfold State.endJob
  rw [h]
  dsimp only
  generalize hu : (if j.held = true then s.modYard (fun y => { y with ctxReserve := y.ctxReserve - 1 }) else s) = u
  have hj : u.job? id = some j := by rw [← hu]; split <;> exact h
  split
  · rename_i q; rw [q] at hp; cases hp
  · rw [State.modJob_job _ _ _ (fun j => by rfl), if_pos rfl, hj]; rfl

/-- What a written change leaves a state in which the job was settled. -/
theorem State.noted_views {s m : State} (h : s.noted m) : m.tack = s.tack ∧ m.jobs = s.jobs ∧ m.now = s.now ∧
    m.tackTop = s.tackTop ∧ (∀ d i b, m.jobPlace d i b = s.jobPlace d i b) ∧ (∀ c w p k, m.cmdTarget c w p k = s.cmdTarget c w p k) := by
  have hu : s.only [.ports, .log, .atn, .dict, .out] m := fun p hp => h.only p (by revert hp; cases p <;> decide)
  have e := State.only_upd hu
  have top : m.tackTop = s.tackTop := by
    unfold State.tackTop State.valU
    obtain ⟨e1, e2, e3⟩ := h.dict
    have : m.val (mkKey 0x9000 0x03) = s.val (mkKey 0x9000 0x03) := by unfold State.val; rw [e3]
    rw [this]
  have e' : m = s.side m.ports m.log m.atn m.dict m.pending m.out := e
  refine ⟨h.only .tack (by decide), h.only .jobs (by decide), congrArg Core.tick (h.only .core (by decide)), top, fun d i b => ?_,
    fun c w p k => ?_⟩
  · have : ∀ i b, m.place i b = s.place i b := fun i b => by
      rw [e']; exact State.side_place _ _ _ _ _ _ _ (by rw [← e']; exact top) i b
    unfold State.jobPlace
    rw [this, (h.only .tack (by decide) : m.tack = s.tack)]
  · rw [e']; exact State.side_cmdTarget _ _ _ _ _ _ _ c w p k

/-- A job's new key takes its slot (R213, R230, R349). -/
theorem State.jobApply_new (s : State) (id : Nat) (j : Job) (k : Key) (slot : Nat) (t0 : Tack) (h : s.job? id = some j)
    (hk : j.newKey = some k) (hp : s.jobPlace id k.run (k.world.getLsbD 0) = some (slot, t0)) :
    (s.jobApply id).tack.keys = s.tack.keys.filter (fun x => x.slot != slot) ++ [{ k with slot := slot, gen := s.tack.gen slot }] ∧
    ∃ y kcv, (s.jobApply id).job? id = some y ∧ y.status = j.status ∧ y.waitsLog = false ∧ y.newKey = none ∧ y.dest = j.dest ∧
      y.completeAt = some (s.now + 1) ∧ y.result = leN 4 (slot + s.tack.gen slot * 32768) ++ kcv := by
  obtain ⟨pk, pg⟩ := State.jobPlace_keys s _ _ _ _ _ hp
  have hg : t0.gen slot = s.tack.gen slot := by unfold Tack.gen; rw [pg]
  generalize hx : ({ k with slot := slot, gen := s.tack.gen slot } : Key) = x
  have hxs : x.slot = slot := by rw [← hx]
  have ha : s.addKeyAt (s.jobPlace id k.run (k.world.getLsbD 0)) k = .ok ((s.modTack (fun _ => t0.put x)).replicate x, slot) := by
    unfold State.addKeyAt; rw [hp]; dsimp only; rw [hg, hx]
  generalize hv : (s.modTack (fun _ => t0.put x)).replicate x = v at ha
  have hvt : v.tack = t0.put x := by rw [← hv, State.replicate_tack]; rfl
  have hvo : s.only [.tack, .cas, .out] v := by
    rw [← hv]; exact State.replicate_only _ x (by decide) (State.modTack_only _ (by decide) (State.only_refl _ s))
  have hvj : v.job? id = some j := by unfold State.job?; rw [(hvo .jobs (by decide) : v.jobs = s.jobs)]; exact h
  have hvn : v.now = s.now := congrArg Core.tick (hvo .core (by decide))
  have hkey : v.tack.key? slot = some x := by
    rw [hvt]; unfold Tack.put Tack.key?; dsimp only
    rw [List.find?_append, hxs]
    have : (t0.keys.filter (fun y => y.slot != slot)).find? (fun k => k.slot == slot) = none := by
      rw [List.find?_eq_none]; intro y hy; have := (List.mem_filter.1 hy).2; simpa using this
    rw [this]; simp [hxs]
  have hgen : v.tack.gen slot = s.tack.gen slot := by rw [hvt]; exact hg
  have hans : ∃ kcv, v.slotAnswer slot = leN 4 (slot + s.tack.gen slot * 32768) ++ kcv := by
    unfold State.slotAnswer; rw [hkey]; unfold Tack.handleOf; rw [hgen]; exact ⟨_, rfl⟩
  obtain ⟨kcv, hans⟩ := hans
  unfold State.jobApply
  rw [h]
  dsimp only
  rw [hk]
  dsimp only
  rw [ha]
  dsimp only
  refine ⟨?_, ?_⟩
  · rw [State.overQuota_tack]
    show v.tack.keys = _
    rw [hvt]; unfold Tack.put; dsimp only; rw [pk, hxs]
  · have ho : ∀ w : State, (w.overQuota j.pad).job? id = w.job? id := by
      intro w; unfold State.job?
      rw [(State.overQuota_only w j.pad (List.Subset.refl _) (State.only_refl _ w) .jobs (by decide) : _ = w.jobs)]
    rw [ho, State.modJob_job _ _ _ (fun j => by rfl), if_pos rfl, hvj, hans]
    rw [Option.map_some]
    refine ⟨_, kcv, rfl, rfl, rfl, rfl, rfl, ?_, ?_⟩
    · show some (v.now + 1) = _
      rw [hvn]
    · have hl : (leN 4 (slot + s.tack.gen slot * 32768) ++ kcv).isEmpty = false := rfl
      dsimp only
      rw [hl]; rfl
/-- What a key job's end leaves where the Logbook takes its entry at once (R229, R230, R349). -/
theorem State.keyJob_facts (s u : State) (id : Nat) (j : Job) (e : Ending) (hu : s.only [.yard, .jobs] u)
    (h : u.job? id = some (j.ended e s.now)) (hw : j.src.whole = true) (hc : opKeyCode j.op ≠ 0) (c : s.logOpen)
    (d : s.tack.cmdsThisFrame < 8) :
    s.keyJobFails (u.askJob id) id j e ∧ s.keyJobAdds (u.askJob id) id j e ∧
    (e.st = stOk → s.jobCheck (j.ended e s.now) = 0 → ∃ m : State, m.tack = s.tack ∧ m.now = s.now ∧
      (∀ c w p k, m.cmdTarget c w p k = s.cmdTarget c w p k) ∧ m.job? id = some (j.ended e s.now) ∧
      u.askJob id = (m.jobApply id).modTack (fun t => { t with cmdsThisFrame := t.cmdsThisFrame + 1 })) := by
  obtain ⟨q1, q2, q3⟩ := State.askJob_facts s u id _ hu h c d
  have ht : u.tack = s.tack := hu .tack (by decide)
  have hn : u.now = s.now := congrArg Core.tick (hu .core (by decide))
  have wok : e.st = stOk → (j.ended e s.now).waitsLog = true := fun o => by
    unfold Job.ended; simp [o, hc]
  refine ⟨⟨fun o => ?_, fun o z => ?_⟩, fun k slot t0 o hk z hp => ?_, fun o z => ?_⟩
  · rw [q1 (by unfold Job.ended; simp [o])]; exact ⟨h, ht⟩
  · rw [q2 (wok o) z]
    refine ⟨(State.endJob_only u id _ _ (List.Subset.refl _) (State.only_refl _ u) .tack (by decide)).trans ht, ?_⟩
    exact ⟨_, State.endJob_job u id _ _ _ h hw, rfl, rfl, rfl⟩
  · obtain ⟨m, hm, e1⟩ := q3 (wok o) z
    obtain ⟨m1, m2, m3, m4, m5, m6⟩ := State.noted_views hm
    have hj : m.job? id = some (j.ended e s.now) := by unfold State.job?; rw [m2]; exact h
    have hu2 := State.only_work hu
    have hpl : m.jobPlace id k.run (k.world.getLsbD 0) = some (slot, t0) := by
      rw [m5, hu2, State.work_jobPlace]; exact hp
    obtain ⟨z1, y, kcv, z2, z3, z4, z5, z6, z7, z8⟩ := State.jobApply_new m id _ k slot t0 hj hk hpl
    rw [e1]
    rw [m1, ht] at z1 z8
    rw [m3, hn] at z7
    refine ⟨z1, y, kcv, z2, ?_, z4, ?_, z7, z8⟩
    · rw [z3]; show some e.st = _; rw [o]
    · rw [z6]; rfl
  · obtain ⟨m, hm, e1⟩ := q3 (wok o) z
    obtain ⟨m1, m2, m3, m4, m5, m6⟩ := State.noted_views hm
    have hu2 := State.only_work hu
    refine ⟨m, m1.trans ht, m3.trans hn, fun a b c d => ?_, ?_, e1⟩
    · rw [m6, hu2]; rfl
    · unfold State.job?; rw [m2]; exact h

theorem Job.atEnd_op {j : Job} {op : Nat} (h : j.atEnd op = true) : j.op = op := by
  unfold Job.atEnd at h; simp only [Bool.and_eq_true, beq_iff_eq] at h; exact h.1.1.1.1.1

/-- An export changes no key (R239, R349). -/
theorem State.jobApply_export (m : State) (id : Nat) (j : Job) (h : m.job? id = some j) (hk : j.newKey = none) (ho : opKeyCode j.op = 8) :
    (m.jobApply id).tack = m.tack ∧ ∃ y, (m.jobApply id).job? id = some y ∧ y.status = j.status ∧ y.waitsLog = false ∧
      y.completeAt = some (m.now + 1) ∧ y.dest = j.dest ∧ y.result = j.result := by
  unfold State.jobApply
  rw [h]
  dsimp only
  rw [hk]
  dsimp only
  rw [if_pos ho]
  refine ⟨rfl, ?_⟩
  rw [State.modJob_job _ _ _ (fun j => by rfl), if_pos rfl, h, Option.map_some]
  exact ⟨_, rfl, rfl, rfl, rfl, rfl, rfl⟩

/-- A key job that acts on a key (R226, R231, R235, R236, R349). -/
theorem State.jobApply_change (m : State) (id : Nat) (j : Job) (k : Key) (h : m.job? id = some j) (hk : j.newKey = none)
    (ho : opKeyCode j.op = 4 ∨ opKeyCode j.op = 5 ∨ opKeyCode j.op = 6 ∨ opKeyCode j.op = 7)
    (hc : m.cmdTarget (opKeyCode j.op) j.world j.pad j.keyA = .ok k) :
    (m.jobApply id).tack.keys = (m.changeKey (opKeyCode j.op) k (if opKeyCode j.op = 7 then ofLE j.data else 0) j.drawNo).tack.keys ∧
    ∃ y, (m.jobApply id).job? id = some y ∧ y.status = j.status ∧ y.waitsLog = false ∧ y.completeAt = some (m.now + 1) := by
  unfold State.jobApply
  rw [h]
  dsimp only
  rw [hk]
  dsimp only
  rw [if_neg (by omega), hc]
  dsimp only
  generalize hv : m.changeKey (opKeyCode j.op) k (if opKeyCode j.op = 7 then ofLE j.data else 0) j.drawNo = v
  have hvo := State.changeKey_only m (opKeyCode j.op) k (if opKeyCode j.op = 7 then ofLE j.data else 0) j.drawNo
    (List.Subset.refl _) (State.only_refl _ m)
  rw [hv] at hvo
  have hvj : v.job? id = some j := by unfold State.job?; rw [(hvo .jobs (by decide) : v.jobs = m.jobs)]; exact h
  have hvn : v.now = m.now := congrArg Core.tick (hvo .core (by decide))
  split
  · refine ⟨rfl, ?_⟩
    rw [State.modJob_job _ _ _ (fun j => by rfl), if_pos rfl, hvj, Option.map_some]
    exact ⟨_, rfl, rfl, rfl, by rw [hvn]⟩
  · refine ⟨rfl, ?_⟩
    rw [State.modJob_job _ _ _ (fun j => by rfl), if_pos rfl, hvj, Option.map_some]
    exact ⟨_, rfl, rfl, rfl, by rw [hvn]⟩

/-- What a job that acts on a key leaves, in either outcome of the checks that its change takes again. -/
theorem State.keyChange_facts (s u : State) (id : Nat) (j : Job) (code : Nat) (e : Ending) (hu : s.only [.yard, .jobs] u)
    (h : u.job? id = some (j.ended e s.now)) (hw : j.src.whole = true) (ho : opKeyCode j.op = code)
    (h4 : code = 4 ∨ code = 5 ∨ code = 6 ∨ code = 7) (c : s.logOpen)
    (d : s.tack.cmdsThisFrame < 8) (he : e.st = stOk) (hk : e.key = none) :
    (∀ x, s.cmdTarget code j.world j.pad j.keyA = .error x → x ≠ 0 → (u.askJob id).tack = s.tack ∧ (u.askJob id).closes id x s.now) ∧
    (∀ k, s.cmdTarget code j.world j.pad j.keyA = .ok k → s.changeCheck code k = 0 →
      ∃ m : State, m.tack = s.tack ∧ m.now = s.now ∧ (u.askJob id).tack.keys = (m.changeKey code k (if code = 7 then ofLE j.data else 0) j.drawNo).tack.keys ∧
        (u.askJob id).closes id stOk s.now) := by
  obtain ⟨⟨-, q2⟩, -, q3⟩ := State.keyJob_facts s u id j e hu h hw (by omega) c d
  have hjc : s.jobCheck (j.ended e s.now) = (match s.cmdTarget code j.world j.pad j.keyA with
      | .error e => e
      | .ok k => let e := s.changeCheck code k
                 if e = stEntropy then 0 else e) := by
    unfold State.jobCheck
    rw [show (j.ended e s.now).newKey = none from hk, show opKeyCode (j.ended e s.now).op = code from ho]
    dsimp only
    rw [if_neg (by omega)]; rfl
  refine ⟨fun x hx hz => ?_, fun k hx hz => ?_⟩
  · rw [hx] at hjc
    have := q2 he (by rw [hjc]; exact hz)
    rw [hjc] at this; exact this
  · rw [hx] at hjc
    dsimp only at hjc
    rw [hz, if_neg (by decide)] at hjc
    obtain ⟨m, m1, m2, m3, m4, m5⟩ := q3 he hjc
    refine ⟨m, m1, m2, ?_⟩
    have ho' : opKeyCode (j.ended e s.now).op = code := ho
    obtain ⟨z1, y, z2, z3, z4, z5⟩ := State.jobApply_change m id _ k m4 hk (by rw [ho']; exact h4) (by rw [m3, ho']; exact hx)
    rw [m5]
    refine ⟨?_, y, z2, ?_, z4, ?_⟩
    · show (m.jobApply id).tack.keys = _
      rw [z1, ho']; rfl
    · rw [z3]; show some e.st = _; rw [he]
    · rw [z5, m2]

/-- A job that takes no step is performed (R349). -/
theorem State.performNow_facts (s : State) (op id : Nat) (f : State → Job → Ending) (j : Job) (h : s.job? id = some j)
    (hr : s.noStepReady j op = true) (hp : j.src.whole = true) :
    (s.performNow op id f).job? id = some (j.ended (s.noStepEnding j (f s j)) s.now) ∧ s.only [.yard, .jobs] (s.performNow op id f) := by
  unfold State.performNow
  rw [h]; dsimp only; rw [hr, if_pos rfl]
  exact State.settle_facts s id _ j h hp

theorem State.noStep_op {s : State} {j : Job} {op : Nat} (h : s.noStepReady j op = true) : j.op = op := by
  unfold State.noStepReady at h; simp only [Bool.and_eq_true, beq_iff_eq] at h; exact h.1.1.1.1.1.1

theorem State.performNow_idle (s : State) (op id : Nat) (f : State → Job → Ending) (j : Job) (h : s.job? id = some j)
    (hr : s.noStepReady j op = false) : s.performNow op id f = s := by
  unfold State.performNow
  rw [h]; dsimp only; rw [hr]; rfl

end Sys2Proof.Machine
end

