-- ==== Sys2Proof/Laws/EffectsHost.lean ====
section
/-! SUPPORT. What the shared operations and the single commands do to the fields that the statements speak of: push slots, rings, arrival, dispatch and completion. -/

set_option maxRecDepth 10000
set_option linter.unusedVariables false
set_option linter.unusedSimpArgs false

namespace Sys2Proof.Machine

open Sys2Proof

theorem updAt_get {α : Type} (l : List α) (i j : Nat) (f : α → α) : (updAt l i f)[j]? = if j = i then (l[j]?).map f else l[j]? := by
  simp only [updAt, List.getElem?_mapIdx]
  by_cases h : j = i
  · subst h; rw [if_pos rfl]; cases l[j]? <;> simp
  · rw [if_neg h]; cases l[j]? <;> simp [h]

/-- What serving the front end leaves of a paddock (R377 to R379). -/
def State.frontKeeps (s t : State) : Prop :=
  ∀ p q, s.pad? p = some q → ∃ a r sl, t.pad? p = some { q with accepted := a, ring := r, slots := sl } ∧
    ∀ (i : Nat) x, q.ring[i]? = some x → ∃ y, r[i]? = some y ∧ y.error = x.error

/-- What the fetch engine leaves of a paddock (R378, R379). -/
def State.fetchKeeps (s t : State) : Prop :=
  ∀ p q, s.pad? p = some q → ∃ r', t.pad? p = some { q with ring := r' } ∧
    ∀ (i : Nat) x, q.ring[i]? = some x → ∃ h f, r'[i]? = some { x with sqHead := h, fetched := f }

theorem State.frontKeeps.refl (s : State) : s.frontKeeps s := fun p q h => ⟨q.accepted, q.ring, q.slots, h, fun i x hx => ⟨x, hx, rfl⟩⟩
theorem State.frontKeeps.trans {s m u : State} (a : s.frontKeeps m) (b : m.frontKeeps u) : s.frontKeeps u := by
  intro p q h
  obtain ⟨_, _, _, e, k⟩ := a p q h
  obtain ⟨x, y, z, e', k'⟩ := b p _ e
  refine ⟨x, y, z, e', fun i w hw => ?_⟩
  obtain ⟨w1, c1, c2⟩ := k i w hw
  obtain ⟨w2, c3, c4⟩ := k' i w1 c1
  exact ⟨w2, c3, c4.trans c2⟩
theorem State.fetchKeeps.refl (s : State) : s.fetchKeeps s := fun p q h => ⟨q.ring, h, fun i x hx => ⟨x.sqHead, x.fetched, hx⟩⟩
theorem State.fetchKeeps.trans {s m u : State} (a : s.fetchKeeps m) (b : m.fetchKeeps u) : s.fetchKeeps u := by
  intro p q h
  obtain ⟨r, e, k⟩ := a p q h
  obtain ⟨r', e', k'⟩ := b p _ e
  refine ⟨r', e', fun i x hx => ?_⟩
  obtain ⟨c, d, f⟩ := k i x hx
  obtain ⟨c', d', f'⟩ := k' i _ f
  exact ⟨c', d', f'⟩
theorem State.fetchKeeps.front {s t : State} (h : s.fetchKeeps t) : s.frontKeeps t := by
  intro p q e
  obtain ⟨r, e', k⟩ := h p q e
  refine ⟨q.accepted, r, q.slots, e', fun i x hx => ?_⟩
  obtain ⟨c, d, f⟩ := k i x hx
  exact ⟨_, f, rfl⟩
theorem State.frontKeeps_of_pads {s t : State} (h : t.pads = s.pads) : s.frontKeeps t := by
  intro p q e
  refine ⟨q.accepted, q.ring, q.slots, ?_, fun i x hx => ⟨x, hx, rfl⟩⟩
  unfold State.pad? at e ⊢; rw [h]; exact e
theorem State.fetchKeeps_of_pads {s t : State} (h : t.pads = s.pads) : s.fetchKeeps t := by
  intro p q e
  refine ⟨q.ring, ?_, fun i x hx => ⟨x.sqHead, x.fetched, hx⟩⟩
  unfold State.pad? at e ⊢; rw [h]; exact e

theorem State.fetchRing_rings (s : State) (p r : Nat) : s.fetchKeeps (s.fetchRing p r) := by
  unfold State.fetchRing
  split
  · exact .refl s
  · rename_i q0 hq0
    extract_lets x d avail n tag s1 s2
    split
    · exact .refl s
    · rename_i hc
      have h2 : (s2.modPci (fun c => { c with nextTag := tag + 1, reads := c.reads ++ [⟨tag, p, .fetch r n, s2.now⟩] })).pads = s2.pads := rfl
      refine State.fetchKeeps.trans ?_ (State.fetchKeeps_of_pads h2)
      intro k q hk
      have hp : s.pad? p = some q0 := by
        unfold State.openPad at hq0; split at hq0
        · rw [Option.filter_eq_some_iff] at hq0; exact hq0.1
        · cases hq0
      have e : s2.pad? k = if k = p then (s.pad? k).map (fun q => { q with ring := updAt q.ring r (fun x => ({ x with sqHead := (x.sqHead + n) % d, fetched := x.fetched + n } : Ring).idleOff) }) else s.pad? k :=
        State.modPad_pad s1 p _ (fun q => by rfl) k
      by_cases hkp : k = p
      · subst hkp
        rw [if_pos rfl, hk, Option.map_some] at e
        rw [hp] at hk; cases hk
        refine ⟨_, e, fun i y hy => ?_⟩
        rw [updAt_get]
        by_cases hi : i = r
        · subst hi
          rw [if_pos rfl, hy, Option.map_some]
          have hx : x = y := by show q0.ring.getD i ringReset = y; rw [List.getD_eq_getElem?_getD, hy]; rfl
          refine ⟨(y.sqHead + n) % d, y.fetched + n, ?_⟩
          have hen : y.enable = true := by
            rw [← hx]; cases he : x.enable
            · exact absurd (Or.inr (Or.inl (by rw [he]; rfl))) hc
            · rfl
          unfold Ring.idleOff
          rw [if_neg (by intro q; simp [hen] at q)]
        · rw [if_neg hi, hy]; exact ⟨_, _, rfl⟩
      · rw [if_neg hkp, hk] at e
        exact ⟨q.ring, e, fun i y hy => ⟨_, _, hy⟩⟩

theorem State.fetchAll_rings (s : State) : s.fetchKeeps s.fetchAll := by
  unfold State.fetchAll
  extract_lets l
  generalize l.filter _ ++ l.filter _ = r
  induction r generalizing s with
  | nil => exact .refl s
  | cons k r ih => rw [List.foldl_cons]; exact (State.fetchRing_rings s _ _).trans (ih _)

theorem State.modPad_front (s : State) (p : Nat) (f : Pad → Pad) (hf : ∀ q, ∃ a r sl, f q = { q with accepted := a, ring := r, slots := sl } ∧
    ∀ (i : Nat) x, q.ring[i]? = some x → ∃ y, r[i]? = some y ∧ y.error = x.error) :
    s.frontKeeps (s.modPad p f) := by
  intro k q hk
  have hn : ∀ q, (f q).num = q.num := by intro q; obtain ⟨a, r, sl, e, -⟩ := hf q; rw [e]
  rw [State.modPad_pad s p f hn, hk]
  split
  · obtain ⟨a, r, sl, e, k⟩ := hf q; exact ⟨a, r, sl, by rw [Option.map_some, e], k⟩
  · exact ⟨_, _, _, rfl, fun i x hx => ⟨x, hx, rfl⟩⟩

/-- The reads of a job's source leave paddocks, jobs and the front end alone (R253, R379). -/
theorem State.sourceReads_same (l : List (Nat × Nat)) (p id : Nat) (u : State) : ∀ t, t = l.foldl (fun s x =>
      let tag := s.pci.nextTag
      (s.emit (.dmaRead p tag x.1 x.2)).modPci (fun c => { c with
        nextTag := tag + 1, reads := c.reads ++ [{ tag := tag, pad := p, what := .source id, at_ := s.now }] })) u →
    t.pads = u.pads ∧ t.jobs = u.jobs ∧ t.nextJob = u.nextJob ∧ t.pci.front = u.pci.front := by
  induction l generalizing u with
  | nil => intro t e; rw [e]; exact ⟨rfl, rfl, rfl, rfl⟩
  | cons x l ih =>
    intro t e
    rw [List.foldl_cons] at e
    obtain ⟨a, b, c, d⟩ := ih _ t e
    exact ⟨a, b, c, d⟩

theorem State.acceptOne_front (s : State) (f : FrontDesc) : s.frontKeeps (s.acceptOne f) := by
  unfold State.acceptOne
  split
  · exact .refl s
  · extract_lets id d pushed j1 j2 count s1 s2 lost e s3 j3 s4 addr expect parts
    have k : s.frontKeeps s3 := by
      refine State.frontKeeps.trans (m := s1) (State.frontKeeps_of_pads rfl) (State.frontKeeps.trans (m := s2) ?_ (State.frontKeeps_of_pads rfl))
      exact State.modPad_front s1 _ _ (fun q => ⟨_, _, _, rfl, fun i x hx => by
        rw [updAt_get, hx]; split <;> exact ⟨_, rfl, rfl⟩⟩)
    have ej : ∀ i a b, s3.frontKeeps (s3.endJob i a b) := fun i a b =>
      State.frontKeeps_of_pads (State.endJob_only s3 i a b (List.Subset.refl _) (State.only_refl _ s3) .pads (by decide))
    repeat' split
    all_goals first
      | exact k.trans (ej _ _ _)
      | exact k.trans (State.frontKeeps_of_pads rfl)
      | exact k.trans (State.frontKeeps_of_pads (State.sourceReads_same parts f.pad id s4 _ rfl).1)

theorem State.serveFront_front (s : State) : s.frontKeeps s.serveFront := by
  have h : ∀ n (u : State), u.frontKeeps (u.acceptSome n) := by
    intro n
    induction n with
    | zero => intro u; exact .refl u
    | succ n ih =>
      intro u
      unfold State.acceptSome
      split
      · split
        · exact .refl u
        · rename_i f r _
          exact State.frontKeeps.trans (State.frontKeeps.trans (State.frontKeeps_of_pads
            (t := u.modPci (fun p => { p with front := r, accepted := p.accepted + 1 })) rfl) (State.acceptOne_front _ f)) (ih _)
      · exact .refl u
  exact (h 8 s).trans (State.fetchAll_rings _).front

theorem State.holdsJob_of_jobs {s t : State} {i p o g : Nat} (h : s.holdsJob i p o g) (e : t.jobs = s.jobs) : t.holdsJob i p o g := by
  unfold State.holdsJob; rw [e]; exact h

theorem State.modJob_holds {s : State} {i p o g : Nat} (k : Nat) (f : Job → Job)
    (hf : ∀ j, (f j).id = j.id ∧ (f j).src = j.src ∧ (f j).pad = j.pad ∧ (f j).op = j.op ∧ (f j).tag = j.tag)
    (h : s.holdsJob i p o g) : (s.modJob k f).holdsJob i p o g := by
  obtain ⟨j, hj, a1, a2, a3, a4, a5⟩ := h
  refine ⟨if j.id == k then f j else j, List.mem_map.2 ⟨j, hj, rfl⟩, ?_⟩
  split
  · obtain ⟨b1, b2, b3, b4, b5⟩ := hf j
    exact ⟨b1.trans a1, b2.trans a2, b3.trans a3, b4.trans a4, b5.trans a5⟩
  · exact ⟨a1, a2, a3, a4, a5⟩

theorem State.batchCheck_holds {s : State} {i p o g : Nat} (k a : Nat) (h : s.holdsJob i p o g) : (s.batchCheck k a).holdsJob i p o g := by
  unfold State.batchCheck
  have hw : ∀ w : State, w.jobs = s.jobs.filter (fun j => !(j.src == .part k && j.lane.isNone && !j.settled)) → w.holdsJob i p o g := by
    intro w e
    obtain ⟨j, hj, a1, a2, a3, a4, a5⟩ := h
    refine ⟨j, ?_, a1, a2, a3, a4, a5⟩
    rw [e]
    refine List.mem_filter.2 ⟨hj, ?_⟩
    rw [a2]
    rfl
  split
  · exact h
  · dsimp only
    split
    · split
      · exact State.modJob_holds _ _ (fun j => ⟨rfl, rfl, rfl, rfl, rfl⟩) (hw _ rfl)
      · exact hw _ rfl
    · split
      · exact State.modJob_holds _ _ (fun j => ⟨rfl, rfl, rfl, rfl, rfl⟩) h
      · exact h

theorem State.endJob_holds {s : State} {i p o g : Nat} (k a b : Nat) (h : s.holdsJob i p o g) : (s.endJob k a b).holdsJob i p o g := by
  unfold State.endJob
  split
  · exact h
  · extract_lets u v
    have hu : u.holdsJob i p o g := by
      unfold u; split
      · exact State.holdsJob_of_jobs h rfl
      · exact h
    have hv : v.holdsJob i p o g := State.modJob_holds _ _ (fun j => ⟨rfl, rfl, rfl, rfl, rfl⟩) hu
    split
    · exact State.batchCheck_holds _ _ (State.modJob_holds _ _ (fun j => by split <;> exact ⟨rfl, rfl, rfl, rfl, rfl⟩) hv)
    · exact hv

theorem State.shape_frame (s : State) (j : Job) : (s.shape j).id = j.id ∧ (s.shape j).src = j.src ∧ (s.shape j).pad = j.pad ∧
    (s.shape j).op = j.op ∧ (s.shape j).tag = j.tag := by
  unfold State.shape
  extract_lets one a pk t
  repeat' first | exact ⟨rfl, rfl, rfl, rfl, rfl⟩ | split

/-- A descriptor leaves the front end as a job (R44, R379). -/
theorem State.acceptOne_job (s : State) (f : FrontDesc) (q : Pad) (h : s.pad? f.pad = some q) :
    (s.acceptOne f).holdsJob s.nextJob f.pad (u8 f.data 0) (uLE f.data 2 2) ∧ (s.acceptOne f).pci.front = s.pci.front ∧
    s.nextJob < (s.acceptOne f).nextJob := by
  unfold State.acceptOne
  split
  · rename_i q'; rw [h] at q'; cases q'
  rename_i q hq
  extract_lets id d pushed j1 j2 count s1 s2 lost e s3 j3 s4 addr expect parts
  have hf : j2.id = id ∧ j2.src = .paddock ∧ j2.pad = f.pad ∧ j2.op = u8 f.data 0 ∧ j2.tag = uLE f.data 2 2 := by
    unfold j2; split <;> exact ⟨rfl, rfl, rfl, rfl, rfl⟩
  have k : s3.holdsJob id f.pad (u8 f.data 0) (uLE f.data 2 2) :=
    ⟨j2, List.mem_append_right _ (List.mem_singleton.2 rfl), hf⟩
  have hn : s.nextJob < s3.nextJob := by show s.nextJob < s.nextJob + 1 + count; omega
  have k4 : s4.holdsJob id f.pad (u8 f.data 0) (uLE f.data 2 2) := by
    refine ⟨j3, ?_, ?_⟩
    · refine List.mem_map.2 ⟨j2, List.mem_append_right _ (List.mem_singleton.2 rfl), ?_⟩
      rw [if_pos (by rw [hf.1]; exact beq_self_eq_true id)]
    · obtain ⟨b1, b2, b3, b4, b5⟩ := State.shape_frame s3 j2
      exact ⟨b1.trans hf.1, b2.trans hf.2.1, b3.trans hf.2.2.1, b4.trans hf.2.2.2.1, b5.trans hf.2.2.2.2⟩
  have ej : ∀ a b, (s3.endJob id a b).pci.front = s.pci.front ∧ s.nextJob < (s3.endJob id a b).nextJob := by
    intro a b
    have o := State.endJob_only s3 id a b (List.Subset.refl _) (State.only_refl _ s3)
    exact ⟨congrArg Pci.front (o .pci (by decide) : _ = s3.pci), by rw [(o .nextJob (by decide) : _ = s3.nextJob)]; exact hn⟩
  repeat' split
  all_goals first
    | exact ⟨State.endJob_holds _ _ _ k, ej _ _⟩
    | exact ⟨State.modJob_holds _ _ (fun j => ⟨rfl, rfl, rfl, rfl, rfl⟩) k4, rfl, hn⟩
    | exact ⟨State.holdsJob_of_jobs k4 (State.sourceReads_same parts f.pad id s4 _ rfl).2.1,
        (State.sourceReads_same parts f.pad id s4 _ rfl).2.2.2,
        Nat.lt_of_lt_of_eq hn (State.sourceReads_same parts f.pad id s4 _ rfl).2.2.1.symm⟩

/-- The only descriptor at the front end is accepted in its frame while fewer than 8 have been (R379). -/
theorem State.serveFront_job (s : State) (f : FrontDesc) (q : Pad) (h1 : s.pci.accepted < 8) (h2 : s.pci.front = [f])
    (h : s.pad? f.pad = some q) : s.serveFront.holdsJob s.nextJob f.pad (u8 f.data 0) (uLE f.data 2 2) := by
  obtain ⟨k1, k2, k3⟩ := State.acceptOne_job (s.modPci (fun p => { p with front := [], accepted := p.accepted + 1 })) f q h
  have e : s.acceptFront = (s.modPci (fun p => { p with front := [], accepted := p.accepted + 1 })).acceptOne f := by
    unfold State.acceptFront
    rw [show (8 : Nat) = 7 + 1 from rfl]
    unfold State.acceptSome
    rw [if_pos h1, h2]
    dsimp only
    have : ∀ (n : Nat) (u : State), u.pci.front = [] → u.acceptSome n = u := by
      intro n u hu; cases n with
      | zero => rfl
      | succ n => unfold State.acceptSome; rw [hu]; split <;> rfl
    exact this 7 _ k2
  unfold State.serveFront
  rw [e]
  exact State.holdsJob_of_jobs k1 (State.fetchAll_only _ (List.Subset.refl _) (State.only_refl _ _) .jobs (by decide))
theorem State.openPad_facts {s : State} {p : Nat} {q : Pad} (h : s.openPad p = some q) :
    s.pwr.link = true ∧ s.pad? p = some q ∧ q.st = .enabled := by
  unfold State.openPad at h
  split at h
  · rename_i hl
    rw [Option.filter_eq_some_iff] at h
    exact ⟨hl, h.1, by simpa using h.2⟩
  · cases h

/-- A paddock whose push has been refused (R372, R375). -/
def Pad.refusing (q : Pad) (slot tag ring code : Nat) : Pad := { q with
    refTag := tag, refRing := ring, refSlot := slot, refCode := code, refCount := min 0xFFFF (q.refCount + 1),
    queueFull := if code = stQueueFull then q.queueFull + 1 else q.queueFull,
    pushFaults := if code = stQueueFull then q.pushFaults else q.pushFaults + 1,
    atn := setBit q.atn 4, atnNew := setBit q.atnNew 4 }

theorem State.refusePush_pad (s : State) (p slot tag ring code : Nat) (q : Pad) (h : s.pad? p = some q) :
    ∃ q', (s.refusePush p slot tag ring code).pad? p = some q' ∧ q.refused q' code ∧ q'.slots = q.slots ∧
      (code = stQueueFull → q'.queueFull = q.queueFull + 1) ∧ (code ≠ stQueueFull → q'.pushFaults = q.pushFaults + 1) := by
  have e := State.modPad_pad s p (fun q => q.refusing slot tag ring code) (fun q => by rfl) p
  rw [if_pos rfl, h, Option.map_some] at e
  have e1 : (s.refusePush p slot tag ring code).pad? p = some (q.refusing slot tag ring code) := by
    refine Eq.trans ?_ e
    unfold State.refusePush Pad.refusing
    dsimp only
    split <;> rfl
  refine ⟨_, e1, ⟨rfl, rfl, ?_⟩, rfl, fun c => if_pos c, fun c => if_neg c⟩
  show (setBit q.atn 4).getLsbD 4 = true
  unfold setBit
  simp

/-- What a write TLP to a push-window slot does (R375 to R377). -/
theorem State.pushWrite_facts (s : State) (p n off : Nat) (data : Bytes) (q : Pad) (h : s.openPad p = some q) :
    ∃ q', (s.pushWrite p n off data).pad? p = some q' ∧ (s.pushWrite p n off data).nextJob = s.nextJob ∧
    (s.pushWrite p n off data).pci.accepted = s.pci.accepted ∧
    (¬ wholeDwords off data → q.refused q' stBadAlignment) ∧
    (wholeDwords off data → q.slotSealed n = true → q.refused q' stBadFormat ∧ q'.slots = q.slots) ∧
    (wholeDwords off data → q.slotSealed n = false → off + data.length < 64 →
      q' = { q with slots := q.otherSlots n ++ [q.slotWith n off data] }) ∧
    (wholeDwords off data → q.slotSealed n = false → off + data.length = 64 →
      (u8 (q.slotWith n off data).data 63 ≠ 0xA5 ∨ (q.slotWith n off data).dwords ≠ 0xFFFF ∨
        (q.ring.getD (q.slotWith n off data).ringOf ringReset).active = false →
        q.refused q' stBadFormat ∧ q'.slots = q.otherSlots n) ∧
      (u8 (q.slotWith n off data).data 63 = 0xA5 → (q.slotWith n off data).dwords = 0xFFFF →
        (q.ring.getD (q.slotWith n off data).ringOf ringReset).active = true →
        ((q.ring.getD (q.slotWith n off data).ringOf ringReset).depth ≤
            (q.ring.getD (q.slotWith n off data).ringOf ringReset).outstanding →
          q.refused q' stQueueFull ∧ q'.slots = q.otherSlots n ∧ q'.queueFull = q.queueFull + 1) ∧
        ((q.ring.getD (q.slotWith n off data).ringOf ringReset).outstanding <
            (q.ring.getD (q.slotWith n off data).ringOf ringReset).depth →
          q'.slots = q.otherSlots n ++ [{ q.slotWith n off data with sealed := true }] ∧
          (s.pushWrite p n off data).pci.front = s.pci.front ++
            [⟨p, (q.slotWith n off data).ringOf, some n, (q.slotWith n off data).data⟩]))) := by
  obtain ⟨h1, h2, h3⟩ := State.openPad_facts h
  have hfree : ∀ (f : Pad → Pad), (∀ x, (f x).num = x.num) →
      (s.modPad p f).pad? p = some (f q) := by
    intro f hf; rw [State.modPad_pad s p f hf, if_pos rfl, h2]; rfl
  unfold State.pushWrite
  rw [h]
  dsimp only
  have hs : q.slotSealed n = ((q.slots.find? (fun x => x.num == n)).getD { num := n, data := zeros 64, dwords := 0, sealed := false }).sealed := by
    unfold Pad.slotSealed; cases q.slots.find? (fun x => x.num == n) <;> rfl
  rw [hs]
  unfold Pad.slotWith Pad.otherSlots PushSlot.ringOf
  dsimp only
  generalize hold : (q.slots.find? (fun x => x.num == n)).getD { num := n, data := zeros 64, dwords := 0, sealed := false } = old
  generalize hb : (old.data.take off ++ data ++ old.data.drop (off + data.length)).take 64 = b
  generalize hd : (List.range 16).foldl (fun (m : BitVec 16) i =>
      if off ≤ 4 * i ∧ 4 * i < off + data.length then setBit m i else m) old.dwords = dw
  have hw : (off % 4 ≠ 0 ∨ data.length % 4 ≠ 0 ∨ data.isEmpty = true ∨ 64 < off + data.length) ↔ ¬ wholeDwords off data := by
    unfold wholeDwords
    rw [List.isEmpty_iff]
    constructor
    · rintro (q | q | q | q) ⟨a, b, c, d⟩
      · exact q a
      · exact q b
      · exact c q
      · omega
    · intro q
      by_cases a : off % 4 = 0
      · by_cases b : data.length % 4 = 0
        · by_cases c : data = []
          · exact .inr (.inr (.inl c))
          · exact .inr (.inr (.inr (by
              by_cases d : off + data.length ≤ 64
              · exact absurd ⟨a, b, c, d⟩ q
              · omega)))
        · exact .inr (.inl b)
      · exact .inl a
  have bn : ∀ (u : State) (a b c d e : Nat), (u.refusePush a b c d e).nextJob = u.nextJob := by
    intro u a b c d e
    unfold State.refusePush; dsimp only; split <;> rfl
  have ba : ∀ (u : State) (a b c d e : Nat), (u.refusePush a b c d e).pci.accepted = u.pci.accepted := by
    intro u a b c d e
    unfold State.refusePush; dsimp only; split <;> rfl
  have filt := hfree (fun q => { q with slots := q.slots.filter (fun x => x.num != n) }) (fun x => by rfl)
  by_cases hW : wholeDwords off data
  · rw [if_neg (fun q => (hw.1 q) hW)]
    cases hsl : old.sealed
    · rw [if_neg (by decide)]
      by_cases hlt : off + data.length < 64
      · rw [if_pos hlt]
        have e := hfree (fun q => { q with slots := q.slots.filter (fun x => x.num != n) ++ [⟨n, b, dw, false⟩] }) (fun x => by rfl)
        refine ⟨_, ?_, rfl, rfl, fun c => absurd hW c, fun _ c => (by cases c), fun _ _ _ => rfl, fun _ _ c => absurd hlt (by omega)⟩
        rw [State.modPad_pad _ _ _ (fun x => by rfl), if_pos rfl, filt]; rfl
      · rw [if_neg hlt]
        have nolt : ∀ {P : Prop}, off + data.length < 64 → P := fun c => absurd c hlt
        by_cases hseal : u8 b 63 ≠ 0xA5 ∨ dw ≠ 0xFFFF
        · rw [if_pos hseal]
          generalize (if (dw.getLsbD 0 && !false) = true then uLE b 2 2 else if false = true ∧ off = 0 then uLE data 2 2 else 0) = tg
          generalize (if (dw.getLsbD 0 && !false) = true then field (u8 b 1) 2 1 else if false = true ∧ off = 0 then field (u8 data 1) 2 1 else 0) = rg
          obtain ⟨q', a1, a2, a3, a4, a5⟩ := State.refusePush_pad _ p n tg rg stBadFormat _ filt
          refine ⟨q', a1, bn _ _ _ _ _ _, ba _ _ _ _ _ _, fun c => absurd hW c, fun _ c => (by cases c), fun _ _ c => nolt c,
            fun _ _ _ => ⟨fun _ => ⟨a2, a3⟩, fun c1 c2 => ?_⟩⟩
          rcases hseal with c | c
          · exact absurd c1 c
          · exact absurd c2 c
        · rw [if_neg hseal]
          have hk : dw = 0xFFFF := by
            by_cases c : dw = 0xFFFF
            · exact c
            · exact absurd (Or.inr c) hseal
          have hu : u8 b 63 = 0xA5 := by
            by_cases c : u8 b 63 = 0xA5
            · exact c
            · exact absurd (Or.inl c) hseal
          have hknown : (dw.getLsbD 0 && !false) = true := by rw [hk]; decide
          rw [if_pos hknown, if_pos hknown]
          cases hact : (q.ring.getD (field (u8 b 1) 2 1) ringReset).active
          · rw [if_pos (show (!false) = true from rfl)]
            obtain ⟨q', a1, a2, a3, a4, a5⟩ := State.refusePush_pad _ p n (uLE b 2 2) (field (u8 b 1) 2 1) stBadFormat _ filt
            exact ⟨q', a1, bn _ _ _ _ _ _, ba _ _ _ _ _ _, fun c => absurd hW c, fun _ c => (by cases c), fun _ _ c => nolt c,
              fun _ _ _ => ⟨fun _ => ⟨a2, a3⟩, fun _ _ c => (by cases c)⟩⟩
          · rw [if_neg (show ¬ (!true) = true by decide)]
            by_cases hfull : (q.ring.getD (field (u8 b 1) 2 1) ringReset).depth ≤ (q.ring.getD (field (u8 b 1) 2 1) ringReset).outstanding
            · rw [if_pos hfull]
              obtain ⟨q', a1, a2, a3, a4, a5⟩ := State.refusePush_pad _ p n (uLE b 2 2) (field (u8 b 1) 2 1) stQueueFull _ filt
              refine ⟨q', a1, bn _ _ _ _ _ _, ba _ _ _ _ _ _, fun c => absurd hW c, fun _ c => (by cases c), fun _ _ c => nolt c,
                fun _ _ _ => ⟨fun c => ?_, fun _ _ _ => ⟨fun _ => ⟨a2, a3, a4 rfl⟩, fun c => absurd hfull (by omega)⟩⟩⟩
              rcases c with c | c | c
              · exact absurd hu c
              · exact absurd hk c
              · cases c
            · rw [if_neg hfull]
              refine ⟨{ q with slots := q.slots.filter (fun x => x.num != n) ++ [⟨n, b, dw, true⟩], ring := updAt q.ring (field (u8 b 1) 2 1) (fun r => { r with sealed := r.sealed + 1 }) }, ?_, rfl, rfl, fun c => absurd hW c, fun _ c => (by cases c), fun _ _ c => nolt c,
                fun _ _ _ => ⟨fun c => ?_, fun _ _ _ => ⟨fun c => absurd c hfull, fun _ => ⟨rfl, rfl⟩⟩⟩⟩
              · show (State.modPad _ p _).pad? p = _
                rw [State.modPad_pad _ _ _ (fun x => by rfl), if_pos rfl, filt]; rfl
              · rcases c with c | c | c
                · exact absurd hu c
                · exact absurd hk c
                · cases c
    · rw [if_pos rfl]
      generalize (if (dw.getLsbD 0 && !true) = true then uLE b 2 2 else if true = true ∧ off = 0 then uLE data 2 2 else 0) = tg
      generalize (if (dw.getLsbD 0 && !true) = true then field (u8 b 1) 2 1 else if true = true ∧ off = 0 then field (u8 data 1) 2 1 else 0) = rg
      obtain ⟨q', a1, a2, a3, a4, a5⟩ := State.refusePush_pad s p n tg rg stBadFormat q h2
      exact ⟨q', a1, bn _ _ _ _ _ _, ba _ _ _ _ _ _, fun c => absurd hW c, fun _ _ => ⟨a2, a3⟩, fun _ c => (by cases c), fun _ c => (by cases c)⟩
  · rw [if_pos (hw.2 hW)]
    generalize (if (dw.getLsbD 0 && !old.sealed) = true then uLE b 2 2 else if old.sealed = true ∧ off = 0 then uLE data 2 2 else 0) = tg
    generalize (if (dw.getLsbD 0 && !old.sealed) = true then field (u8 b 1) 2 1 else if old.sealed = true ∧ off = 0 then field (u8 data 1) 2 1 else 0) = rg
    cases old.sealed
    · rw [if_neg (by decide)]
      obtain ⟨q', a1, a2, a3, a4, a5⟩ := State.refusePush_pad _ p n tg rg stBadAlignment _ filt
      exact ⟨q', a1, bn _ _ _ _ _ _, ba _ _ _ _ _ _, fun _ => a2, fun c => absurd c hW, fun c => absurd c hW, fun c => absurd c hW⟩
    · rw [if_pos rfl]
      obtain ⟨q', a1, a2, a3, a4, a5⟩ := State.refusePush_pad s p n tg rg stBadAlignment q h2
      exact ⟨q', a1, bn _ _ _ _ _ _, ba _ _ _ _ _ _, fun _ => a2, fun c => absurd c hW, fun c => absurd c hW, fun c => absurd c hW⟩

theorem State.fetchAll_front (s : State) : s.fetchAll.pci.front = s.pci.front := by
  have one : ∀ (u : State) (p r : Nat), (u.fetchRing p r).pci.front = u.pci.front := by
    intro u p r
    unfold State.fetchRing
    split
    · rfl
    · dsimp only; split <;> rfl
  unfold State.fetchAll
  extract_lets l
  generalize l.filter _ ++ l.filter _ = r
  induction r generalizing s with
  | nil => rfl
  | cons k r ih => rw [List.foldl_cons, ih, one]

/-- With 8 descriptors accepted in a frame the front end keeps the others (R379). -/
theorem State.serveFront_full (s : State) (h : 8 ≤ s.pci.accepted) : s.serveFront.pci.front = s.pci.front := by
  unfold State.serveFront
  rw [State.fetchAll_front]
  unfold State.acceptFront
  rw [show (8 : Nat) = 7 + 1 from rfl]
  unfold State.acceptSome
  rw [if_neg (by omega)]
theorem Ring.idleOff_frame (r : Ring) : ∃ a, r.idleOff = { r with active := a } := by
  unfold Ring.idleOff; split
  · exact ⟨false, rfl⟩
  · exact ⟨r.active, rfl⟩

theorem State.modRing_ring (s : State) (p r : Nat) (f : Ring → Ring) (q : Pad) (h : s.pad? p = some q) :
    (s.modRing p r f).pad? p = some { q with ring := updAt q.ring r (fun x => (f x).idleOff) } := by
  unfold State.modRing
  rw [State.modPad_pad _ _ _ (fun x => by rfl), if_pos rfl, h]; rfl

theorem State.stopRing_pad (s : State) (p r : Nat) (q : Pad) (h : s.pad? p = some q) :
    (s.stopRing p r).pad? p = some { q with ring := updAt q.ring r (fun x => { x with error := true }), atn := setBit q.atn 5, atnNew := setBit q.atnNew 5 } := by
  have e := State.modPad_pad s p (fun q => { q with ring := updAt q.ring r (fun x => { x with error := true }), atn := setBit q.atn 5, atnNew := setBit q.atnNew 5 }) (fun x => by rfl) p
  rw [if_pos rfl, h] at e
  exact e

/-- A write of the submission tail (R378). -/
theorem State.writeTail_facts (s : State) (p r v : Nat) (q : Pad) (x : Ring) (h : s.openPad p = some q)
    (hx : q.ring[r]? = some x) :
    ∃ q' x', (s.writeTail p r v).pad? p = some q' ∧ q'.ring[r]? = some x' ∧ x'.tail = v % 65536 ∧
      (x.active = true → x.depth ≤ v % 65536 → x'.error = true ∧ q'.atn.getLsbD 5 = true) ∧
      (¬ (x.active = true ∧ x.depth ≤ v % 65536) → x'.error = x.error ∧ q'.atn = q.atn) := by
  obtain ⟨h1, h2, h3⟩ := State.openPad_facts h
  have hg : q.ring.getD r ringReset = x := by rw [List.getD_eq_getElem?_getD, hx]; rfl
  unfold State.writeTail
  rw [h]
  dsimp only
  rw [hg]
  have e := State.modRing_ring s p r (fun x => { x with tail := v % 65536 }) q h2
  obtain ⟨a, ha⟩ := Ring.idleOff_frame { x with tail := v % 65536 }
  by_cases hc : x.active = true ∧ x.depth ≤ v % 65536
  · rw [if_pos hc]
    have e2 := State.stopRing_pad _ p r _ e
    refine ⟨_, { x with tail := v % 65536, active := a, error := true }, e2, ?_, rfl, fun _ _ => ⟨rfl, ?_⟩, fun c => absurd hc c⟩
    · rw [updAt_get, if_pos rfl, updAt_get, if_pos rfl, hx]
      simp only [Option.map_some, ha]
    · show (setBit q.atn 5).getLsbD 5 = true
      unfold setBit; simp
  · rw [if_neg hc]
    obtain ⟨r', e3, k⟩ := State.fetchAll_rings _ p _ e
    obtain ⟨c, d, k'⟩ := k r { x with tail := v % 65536, active := a } (by
      dsimp only; rw [updAt_get, if_pos rfl, hx, Option.map_some, ha])
    exact ⟨_, _, e3, k', rfl, fun c1 c2 => absurd ⟨c1, c2⟩ hc, fun _ => ⟨rfl, rfl⟩⟩

/-- A write of the completion head (R377, R378). -/
theorem State.writeHead_facts (s : State) (p r v : Nat) (q : Pad) (x : Ring) (h : s.openPad p = some q)
    (hx : q.ring[r]? = some x) (ha : x.active = true) :
    ∃ q' x', (s.writeHead p r v).pad? p = some q' ∧ q'.ring[r]? = some x' ∧ x'.head = v % 65536 ∧
      (x.depth ≤ v % 65536 ∨ x.jobs < (v % 65536 + x.depth - x.head) % x.depth + s.liveJobs p r →
        x'.error = true ∧ x'.jobs = x.jobs ∧ q'.atn.getLsbD 5 = true) ∧
      (¬ (x.depth ≤ v % 65536 ∨ x.jobs < (v % 65536 + x.depth - x.head) % x.depth + s.liveJobs p r) →
        x'.error = x.error ∧ x'.jobs = x.jobs - (v % 65536 + x.depth - x.head) % x.depth ∧ q'.atn = q.atn) := by
  obtain ⟨h1, h2, h3⟩ := State.openPad_facts h
  have hg : q.ring.getD r ringReset = x := by rw [List.getD_eq_getElem?_getD, hx]; rfl
  unfold State.writeHead
  rw [h]
  dsimp only
  rw [hg, if_neg (by rw [ha]; decide)]
  by_cases hc : x.depth ≤ v % 65536 ∨ x.jobs < (v % 65536 + x.depth - x.head) % x.depth + s.liveJobs p r
  · rw [if_pos hc]
    have e := State.modRing_ring s p r (fun x => { x with head := v % 65536 }) q h2
    obtain ⟨a, hb⟩ := Ring.idleOff_frame { x with head := v % 65536 }
    have e2 := State.stopRing_pad _ p r _ e
    refine ⟨_, { x with head := v % 65536, active := a, error := true }, e2, ?_, rfl, fun _ => ⟨rfl, rfl, ?_⟩, fun c => absurd hc c⟩
    · rw [updAt_get, if_pos rfl, updAt_get, if_pos rfl, hx]
      simp only [Option.map_some, hb]
    · show (setBit q.atn 5).getLsbD 5 = true
      unfold setBit; simp
  · rw [if_neg hc]
    have e := State.modRing_ring s p r (fun y => { y with head := v % 65536, jobs := y.jobs - (v % 65536 + x.depth - x.head) % x.depth }) q h2
    obtain ⟨a, hb⟩ := Ring.idleOff_frame { x with head := v % 65536, jobs := x.jobs - (v % 65536 + x.depth - x.head) % x.depth }
    obtain ⟨r', e3, k⟩ := State.fetchAll_rings _ p _ e
    obtain ⟨c, d, k'⟩ := k r { x with head := v % 65536, jobs := x.jobs - (v % 65536 + x.depth - x.head) % x.depth, active := a } (by
      dsimp only; rw [updAt_get, if_pos rfl, hx, Option.map_some, hb])
    exact ⟨_, _, e3, k', rfl, fun c => absurd c hc, fun _ => ⟨rfl, rfl, rfl⟩⟩

/-- A write of 1 to `RING_CFG.ENABLE` (R371). -/
theorem State.enableRing_facts (s : State) (p r : Nat) (q : Pad) (x : Ring) (h : s.openPad p = some q)
    (hx : q.ring[r]? = some x) :
    ∃ q' x', (s.enableRing p r).pad? p = some q' ∧ q'.ring[r]? = some x' ∧
      (x.active = true → x'.active = true ∧ x'.code = x.code ∧ x'.tail = x.tail ∧ x'.head = x.head) ∧
      (x.active = false → q.rings ≤ r ∨ x.depthLog2 < 4 ∨ 12 < x.depthLog2 ∨ q.maxDepth < x.depth →
        x'.active = false ∧ x'.code = stRange) ∧
      (x.active = false → ¬ (q.rings ≤ r ∨ x.depthLog2 < 4 ∨ 12 < x.depthLog2 ∨ q.maxDepth < x.depth) →
        x.sqBase % 4096 ≠ 0 ∨ x.cqBase % 4096 ≠ 0 → x'.active = false ∧ x'.code = stBadAlignment) ∧
      (x.active = false → ¬ (q.rings ≤ r ∨ x.depthLog2 < 4 ∨ 12 < x.depthLog2 ∨ q.maxDepth < x.depth) →
        ¬ (x.sqBase % 4096 ≠ 0 ∨ x.cqBase % 4096 ≠ 0) →
        x'.active = true ∧ x'.code = stOk ∧ x'.tail = 0 ∧ x'.head = 0 ∧ x'.sqHead = 0 ∧ x'.outstanding = 0) := by
  obtain ⟨h1, h2, h3⟩ := State.openPad_facts h
  have hg : q.ring.getD r ringReset = x := by rw [List.getD_eq_getElem?_getD, hx]; rfl
  have on : ∀ y : Ring, y.enable = true → y.idleOff = y := by
    intro y hy; unfold Ring.idleOff; rw [if_neg (by intro c; simp [hy] at c)]
  have md : ∀ f : Ring → Ring, (f x).enable = true →
      ∃ q', (s.modRing p r f).pad? p = some q' ∧ q'.ring[r]? = some (f x) := by
    intro f hf
    refine ⟨_, State.modRing_ring s p r f q h2, ?_⟩
    dsimp only; rw [updAt_get, if_pos rfl, hx, Option.map_some, on _ hf]
  unfold State.enableRing
  rw [h]
  dsimp only
  rw [hg]
  cases hact : x.active
  · rw [if_neg (by decide)]
    by_cases c1 : q.rings ≤ r ∨ x.depthLog2 < 4 ∨ 12 < x.depthLog2 ∨ q.maxDepth < x.depth
    · rw [if_pos c1]
      obtain ⟨q', e1, e2⟩ := md (fun x => { x with enable := true, code := stRange }) rfl
      exact ⟨q', _, e1, e2, (fun c => by cases c), fun _ _ => ⟨hact, rfl⟩, fun _ c => absurd c1 c, fun _ c => absurd c1 c⟩
    · rw [if_neg c1]
      by_cases c2 : x.sqBase % 4096 ≠ 0 ∨ x.cqBase % 4096 ≠ 0
      · rw [if_pos c2]
        obtain ⟨q', e1, e2⟩ := md (fun x => { x with enable := true, code := stBadAlignment }) rfl
        exact ⟨q', _, e1, e2, (fun c => by cases c), fun _ c => absurd c c1, fun _ _ _ => ⟨hact, rfl⟩, fun _ _ c => absurd c2 c⟩
      · rw [if_neg c2]
        obtain ⟨q', e1, e2⟩ := md (fun x => { x with
          enable := true, active := true, code := stOk, tail := 0, head := 0, sqHead := 0, cqNext := 0, written := 0,
          jobs := 0, sealed := 0, fetched := 0 }) rfl
        exact ⟨q', _, e1, e2, (fun c => by cases c), fun _ c => absurd c c1, fun _ _ c => absurd c c2, fun _ _ _ => ⟨rfl, rfl, rfl, rfl, rfl, rfl⟩⟩
  · rw [if_pos rfl]
    obtain ⟨q', e1, e2⟩ := md (fun x => { x with enable := true }) rfl
    obtain ⟨r', e3, k⟩ := State.fetchAll_rings _ p _ e1
    obtain ⟨c, d, k'⟩ := k r _ e2
    exact ⟨_, _, e3, k', fun _ => ⟨hact, rfl, rfl, rfl⟩, (fun c => by cases c), (fun c => by cases c), (fun c => by cases c)⟩

theorem State.fetchRing_idle (s : State) (p r : Nat) (h : ∀ q, s.openPad p = some q → (q.ring.getD r ringReset).active = false) :
    s.fetchRing p r = s := by
  unfold State.fetchRing
  split
  · rfl
  · rename_i q hq
    extract_lets x d avail n tag
    rw [if_pos (Or.inl (by rw [show x.active = false from h q hq]; rfl))]

theorem fetched_sum (l : List Ring) (i : Nat) (f : Ring → Ring) (hf : ∀ x, (f x).fetched = x.fetched) (n : Nat) :
    (updAt l i f).foldl (fun n r => n + r.fetched) n = l.foldl (fun n r => n + r.fetched) n := by
  have e : (updAt l i f).map Ring.fetched = l.map Ring.fetched := by
    unfold updAt
    apply List.ext_getElem?
    intro j
    rw [List.getElem?_map, List.getElem?_mapIdx, List.getElem?_map]
    cases l[j]? with
    | none => rfl
    | some x =>
      rw [Option.map_some, Option.map_some, Option.map_some]
      split
      · rw [hf]
      · rfl
  have g : ∀ l : List Ring, ∀ n, l.foldl (fun n r => n + r.fetched) n = (l.map Ring.fetched).foldl (fun n r => n + r) n := by
    intro l; induction l with
    | nil => intro n; rfl
    | cons a l ih => intro n; simp only [List.foldl_cons, List.map_cons]; exact ih _
  rw [g, e, ← g]

/-- The fetch that a new tail calls for, where no other ring waits (R377 to R379). -/
theorem State.writeTail_fetch (s : State) (p r v : Nat) (q : Pad) (x : Ring) (h : s.openPad p = some q) (hq : s.pads = [q])
    (hr : r < 4) (ho : ∀ i, i < 4 → i ≠ r → (q.ring.getD i ringReset).active = false) (hx : q.ring[r]? = some x)
    (ha : x.active = true) (he : x.enable = true) (hn : x.error = false) (hv : v % 65536 < x.depth)
    (n : Nat) (hn2 : n = min (min 8 ((v % 65536 + x.depth - x.sqHead) % x.depth)) (min (x.depth - x.outstanding)
      (min (x.depth - x.sqHead) (64 - s.fetchHeld)))) (hn3 : n ≠ 0) :
    .dmaRead p s.pci.nextTag (x.sqBase + 64 * x.sqHead) (64 * n) ∈ (s.writeTail p r v).out := by
  obtain ⟨h1, h2, h3⟩ := State.openPad_facts h
  have hg : q.ring.getD r ringReset = x := by rw [List.getD_eq_getElem?_getD, hx]; rfl
  have hpn : q.num = p := by have := List.find?_some h2; simpa using this
  unfold State.writeTail
  rw [h]
  dsimp only
  rw [hg, if_neg (by omega)]
  have em := State.modRing_ring s p r (fun x => { x with tail := v % 65536 }) q h2
  generalize hq1 : ({ q with ring := updAt q.ring r (fun x => ({ x with tail := v % 65536 } : Ring).idleOff) } : Pad) = q1 at em
  generalize hm : s.modRing p r (fun x => { x with tail := v % 65536 }) = m at em ⊢
  have hmp : m.pads = [q1] := by
    rw [← hm, ← hq1]; show (s.pads.map _) = _; rw [hq]; simp [hpn]
  have hring : q1.ring = updAt q.ring r (fun x => ({ x with tail := v % 65536 } : Ring).idleOff) := by rw [← hq1]
  have hq1n : q1.num = p := by rw [← hq1]; exact hpn
  have hon : ∀ u : State, u.pwr = s.pwr → u.pads = [q1] → u.openPad p = some q1 := by
    intro u e1 e2
    have : u.pad? p = some q1 := by unfold State.pad?; rw [e2]; simp [hq1n]
    unfold State.openPad; rw [e1, h1, if_pos rfl, this]
    have : q1.st = .enabled := by rw [← hq1]; exact h3
    simp [this]
  have hmpw : m.pwr = s.pwr := by rw [← hm]; rfl
  have hx1 : q1.ring.getD r ringReset = { x with tail := v % 65536 } := by
    rw [hring, List.getD_eq_getElem?_getD, updAt_get, if_pos rfl, hx]
    unfold Ring.idleOff
    simp [he]
  have hoth : ∀ i, i < 4 → i ≠ r → (q1.ring.getD i ringReset).active = false := by
    intro i hi hne
    rw [hring, List.getD_eq_getElem?_getD, updAt_get, if_neg hne, ← List.getD_eq_getElem?_getD]; exact ho i hi hne
  have hf : m.fetchHeld = s.fetchHeld := by
    unfold State.fetchHeld
    rw [hmp, hq, List.foldl_cons, List.foldl_cons, hring]
    rw [fetched_sum _ _ _ (fun x => by obtain ⟨a, e⟩ := Ring.idleOff_frame { x with tail := v % 65536 }; rw [e])]
  have htag : m.pci = s.pci := by rw [← hm]; rfl
  have go : .dmaRead p s.pci.nextTag (x.sqBase + 64 * x.sqHead) (64 * n) ∈ (m.fetchRing p r).out := by
    unfold State.fetchRing
    rw [hon m hmpw hmp]
    dsimp only
    rw [hx1, hf]
    dsimp only
    have hn4 : min (min 8 ((v % 65536 + Ring.depth { x with tail := v % 65536 } - x.sqHead) % Ring.depth { x with tail := v % 65536 }))
      (min (Ring.depth { x with tail := v % 65536 } - Ring.outstanding { x with tail := v % 65536 })
        (min (Ring.depth { x with tail := v % 65536 } - x.sqHead) (64 - s.fetchHeld))) = n := hn2.symm
    rw [hn4, if_neg (by rw [ha, he, hn]; rintro (c | c | c | c); · cases c
                        · cases c
                        · cases c
                        · exact hn3 c)]
    rw [htag]
    show _ ∈ m.out ++ [_]
    simp
  have keep' : ∀ (u : State) (k : Nat) o, o ∈ u.out → o ∈ (u.fetchRing (k / 4) (k % 4)).out := by
    intro u i o hu
    unfold State.fetchRing
    split
    · exact hu
    · dsimp only
      split
      · exact hu
      · exact List.mem_append_left _ hu
  have idle : ∀ i, i < 4 → i ≠ r → m.fetchRing p i = m := by
    intro i hi hne
    refine State.fetchRing_idle m p i (fun q' hq' => ?_)
    rw [hon m hmpw hmp] at hq'; cases hq'; exact hoth i hi hne
  have keeps : ∀ (l : List Nat) (u : State) o, o ∈ u.out → o ∈ (l.foldl (fun s k => s.fetchRing (k / 4) (k % 4)) u).out := by
    intro l
    induction l with
    | nil => intro u o h; exact h
    | cons k l ih => intro u o h; exact ih _ o (keep' u k o h)
  have main : ∀ l : List Nat, (∀ k ∈ l, k / 4 = p) → 4 * p + r ∈ l →
      .dmaRead p s.pci.nextTag (x.sqBase + 64 * x.sqHead) (64 * n) ∈ (l.foldl (fun s k => s.fetchRing (k / 4) (k % 4)) m).out := by
    intro l
    induction l with
    | nil => intro _ h; cases h
    | cons k l ih =>
      intro hl hm
      have hk := hl k (List.mem_cons_self ..)
      rw [List.foldl_cons, hk]
      by_cases e : k % 4 = r
      · rw [e]; exact keeps _ _ _ go
      · rw [idle (k % 4) (Nat.mod_lt _ (by decide)) e]
        refine ih (fun y hy => hl y (List.mem_cons_of_mem _ hy)) ?_
        rcases List.mem_cons.1 hm with c | c
        · exact absurd (by omega) e
        · exact c
  unfold State.fetchAll
  rw [hmp]
  dsimp only
  have hl : [q1].flatMap (fun q => (List.range 4).map (4 * q.num + ·)) = [4 * p, 4 * p + 1, 4 * p + 2, 4 * p + 3] := by
    simp only [List.flatMap_cons, List.flatMap_nil, List.append_nil, hq1n]; rfl
  rw [hl]
  refine main _ (fun k hk => ?_) ?_
  · have : k ∈ [4 * p, 4 * p + 1, 4 * p + 2, 4 * p + 3] := by
      rcases List.mem_append.1 hk with c | c <;> exact (List.mem_filter.1 c).1
    simp only [List.mem_cons, List.not_mem_nil, or_false] at this
    omega
  · have : 4 * p + r ∈ [4 * p, 4 * p + 1, 4 * p + 2, 4 * p + 3] := by
      simp only [List.mem_cons, List.not_mem_nil, or_false]; omega
    by_cases c : m.pci.turn ≤ 4 * p + r
    · exact List.mem_append_left _ (List.mem_filter.2 ⟨this, decide_eq_true c⟩)
    · exact List.mem_append_right _ (List.mem_filter.2 ⟨this, decide_eq_true (by omega)⟩)
/-- A fetch read that brings its entries, or fails (R378, R379). -/
theorem State.fetchDone_facts (s : State) (tag : Nat) (data : Option Bytes) (x : PciRead) (r n : Nat)
    (h : s.pci.reads.find? (fun r => r.tag == tag) = some x) (hw : x.what = .fetch r n) :
    (s.fetchDone tag data).pci.accepted = s.pci.accepted ∧ (s.fetchDone tag data).nextJob = s.nextJob ∧
    (∀ d, data = some d → d.length = 64 * n → (s.fetchDone tag data).pads = s.pads ∧
      (s.fetchDone tag data).pci.front = s.pci.front ++ (chunks 64 d).map (fun e => ⟨x.pad, r, none, e⟩)) ∧
    ((∀ d, data = some d → d.length ≠ 64 * n) → ∀ q y, s.pad? x.pad = some q → q.ring[r]? = some y →
      ∃ q' y', (s.fetchDone tag data).pad? x.pad = some q' ∧ q'.ring[r]? = some y' ∧ y'.error = true ∧ q'.atn.getLsbD 5 = true) := by
  have stop : ∀ u : State, u.pads = s.pads → ∀ q y, s.pad? x.pad = some q → q.ring[r]? = some y →
      ∃ q' y', ((u.modRing x.pad r (fun y => { y with fetched := y.fetched - n })).stopRing x.pad r).pad? x.pad = some q' ∧
        q'.ring[r]? = some y' ∧ y'.error = true ∧ q'.atn.getLsbD 5 = true := by
    intro u hu q y hq hy
    have hq' : u.pad? x.pad = some q := by unfold State.pad? at hq ⊢; rw [hu]; exact hq
    have e := State.stopRing_pad _ x.pad r _ (State.modRing_ring u x.pad r (fun y => { y with fetched := y.fetched - n }) q hq')
    refine ⟨_, { (({ y with fetched := y.fetched - n } : Ring).idleOff) with error := true }, e, ?_, rfl, ?_⟩
    · rw [updAt_get, if_pos rfl, updAt_get, if_pos rfl, hy]; rfl
    · show (setBit q.atn 5).getLsbD 5 = true
      unfold setBit; simp
  unfold State.fetchDone
  rw [h]
  dsimp only
  rw [hw]
  dsimp only
  cases data with
  | none => exact ⟨rfl, rfl, (fun d c => by cases c), fun _ => stop _ rfl⟩
  | some d =>
    dsimp only
    by_cases hl : d.length = 64 * n
    · rw [if_pos hl]
      exact ⟨rfl, rfl, fun d' c hl' => by cases c; exact ⟨rfl, rfl⟩, fun c => absurd hl (c d rfl)⟩
    · rw [if_neg hl]
      exact ⟨rfl, rfl, fun d' c hl' => by cases c; exact absurd hl' hl, fun _ => stop _ rfl⟩

theorem chunks_one (d : Bytes) (h : d.length = 64) : chunks 64 d = [d] := by
  match d, h with
  | a :: l, h =>
    have e : l.drop 63 = [] := List.drop_eq_nil_of_le (by simp at h; omega)
    have t : (a :: l).take 64 = a :: l := List.take_of_length_le (by omega)
    unfold chunks
    rw [h]
    simp [chunksAux, e, t]
/-- No sweep takes its first step where the device jobs stand (R252). -/
theorem State.sweepSteps_same (s : State) (l : List DevJob) (h : s.devJobs = l) : s.sweepSteps l = s := by
  unfold State.sweepSteps
  have : ∀ (m : List DevJob) (u : State), (∀ d ∈ m, d ∈ l) → m.foldl (fun s d =>
      if d.what ≠ .sweep ∨ d.lane.isNone ∨ l.any (fun x => x.id == d.id && x.taken == d.taken) then s
      else (if d.taken = 1 then s.modTack (fun t => { t with swept := 0 }) else s).sweepStep d.taken) u = u := by
    intro m
    induction m with
    | nil => intro u _; rfl
    | cons d m ih =>
      intro u hm
      rw [List.foldl_cons, if_pos, ih u (fun x hx => hm x (List.mem_cons_of_mem _ hx))]
      refine .inr (.inr ?_)
      rw [List.any_eq_true]
      exact ⟨d, hm d (List.mem_cons_self ..), by simp⟩
  rw [h]
  exact this l s (fun d hd => hd)

/-- A free lane takes the oldest ready job that its entry names (R45). -/
theorem State.dispatch_names (s : State) (lane g : Nat) (h : Bytes) (j : Job) (c : Nat)
    (h1 : s.laneIdle lane = true) (hs : (s.lane lane).spent = false) (h2 : s.sheetEntry s.yard.sheet lane (s.roundAt s.core.frameCt) (s.posAt s.core.frameCt) = (c, g))
    (h3 : 1 ≤ c ∧ c ≤ 4) (h4 : g ≠ 0xFF) (h5 : s.devJobs.find? (fun d => d.what == .pairCheck lane && d.lane.isNone && d.taken == 0) = none)
    (h6 : (s.lane lane).quarantine = false ∧ (s.lane lane).disabled = false ∧ (s.lane lane).needTest = false)
    (h7 : oldest (s.queue c (laneKind lane) (· == g)) = some j) (h8 : j.needsHamper = false) :
    s.dispatchLane lane (some h) = s.offer j lane h := by
  obtain ⟨a, b⟩ := h3
  obtain ⟨p, q, r⟩ := h6
  unfold State.dispatchLane
  dsimp only
  rw [h2, h1, hs, h5]
  dsimp only
  rw [if_neg (by simp; omega), p, q, r]
  rw [if_neg (by simp), if_neg (by simp), if_neg (by omega), if_neg h4, h7]
  dsimp only
  rw [h8]; rfl

theorem State.dispatch_idle (s : State) (lane : Nat) (h : Option Bytes)
    (h1 : s.laneIdle lane = false ∨ (s.lane lane).spent = true ∨ (s.sheetEntry s.yard.sheet lane (s.roundAt s.core.frameCt) (s.posAt s.core.frameCt)).1 = 6) :
    s.dispatchLane lane h = s := by
  unfold State.dispatchLane
  dsimp only
  rw [if_pos (by rcases h1 with h1 | h1; · rw [h1]; exact .inl rfl
                 · exact .inr h1)]

theorem State.offer_first (s : State) (j : Job) (lane : Nat) (h : Bytes) (h1 : j.src = .paddock) (h2 : j.begun = false) :
    s.offer j lane h = match s.firstLoad j with
      | .error e => s.failLoad j lane e
      | .ok (s, j, load) => s.onLane j lane load := by
  unfold State.offer
  rw [h1]
  dsimp only
  rw [h2]
  rfl
theorem State.dma_out (s : State) (p a : Nat) (d : Bytes) (h : d.isEmpty = false) :
    ∃ l, (s.dma p a d).out = s.out ++ .dmaWrite p a d :: l := by
  have f : ∀ (ws : List (Nat × Bytes)) (u : State), ∃ l, (ws.foldl (fun s w => s.emit (.dmaWrite 0 w.1 w.2)) u).out = u.out ++ l := by
    intro ws
    induction ws with
    | nil => intro u; exact ⟨[], by simp⟩
    | cons w ws ih =>
      intro u
      obtain ⟨l, e⟩ := ih (u.emit (.dmaWrite 0 w.1 w.2))
      exact ⟨.dmaWrite 0 w.1 w.2 :: l, by rw [List.foldl_cons, e]; show (u.out ++ [_]) ++ l = _; simp⟩
  unfold State.dma
  rw [h]
  dsimp only
  rw [if_neg (by decide)]
  split
  · exact ⟨[], rfl⟩
  · rename_i x _
    obtain ⟨l, e⟩ := f (dirtyWords x a d.length) ((s.emit (.dmaWrite p a d)).modPad p
      (fun q => { q with log := q.log.map (fun l => dirtyBits l a d.length) }))
    exact ⟨l, by rw [e]; show (s.out ++ [_]) ++ l = _; simp⟩

theorem State.dma_pad (s : State) (p a : Nat) (d : Bytes) (q : Pad) (h : s.pad? p = some q) :
    ∃ g, (s.dma p a d).pad? p = some { q with log := g } := by
  have f : ∀ (ws : List (Nat × Bytes)) (u : State), (ws.foldl (fun s w => s.emit (.dmaWrite 0 w.1 w.2)) u).pads = u.pads := by
    intro ws
    induction ws with
    | nil => intro u; rfl
    | cons w ws ih => intro u; rw [List.foldl_cons, ih]; rfl
  unfold State.dma
  split
  · exact ⟨q.log, h⟩
  · have e := State.modPad_pad (s.emit (.dmaWrite p a d)) p (fun q => { q with log := q.log.map (fun l => dirtyBits l a d.length) }) (fun q => by rfl) p
    rw [if_pos rfl, State.emit_pad_read, h, Option.map_some] at e
    dsimp only
    split
    · exact ⟨_, e⟩
    · rename_i x _
      refine ⟨_, Eq.trans ?_ e⟩
      unfold State.pad?
      rw [f]

theorem State.record_some (s : State) (j : Job) (r : Ring) : (s.record j r).isEmpty = false := by
  unfold State.record leN; simp [leN]

/-- Completion of a job of a paddock (R381 to R383): the destination bytes are written, then the record, and the queue's bit is
set unless the job asks for quiet. -/
theorem State.complete_facts (s : State) (j : Job) (q : Pad) (x : Ring) (h1 : j.src = .paddock) (h2 : s.pad? j.pad = some q)
    (h3 : q.ring[j.ring]? = some x) :
    (∃ a b c, (s.complete j).out = a ++ (if j.dstAddr = 0 ∨ j.dest.isEmpty then [] else [.dmaWrite j.pad j.dstAddr j.dest]) ++ b ++
      .dmaWrite j.pad (x.cqBase + 32 * x.cqNext) (s.record j x) :: c) ∧
    (∀ k ∈ (s.complete j).jobs, k.id ≠ j.id) ∧
    (j.status ≠ some stFaultDetected → ∃ q', (s.complete j).pad? j.pad = some q' ∧
      q'.ring[j.ring]? = some { x with cqNext := (x.cqNext + 1) % 2 ^ x.depthLog2, written := x.written + 1 } ∧
      q'.atn = (if j.quiet then q.atn else setBit q.atn j.ring)) := by
  have hg : q.ring.getD j.ring ringReset = x := by rw [List.getD_eq_getElem?_getD, h3]; rfl
  unfold State.complete
  dsimp only
  rw [h1]
  dsimp only
  generalize hu : s.countJob j = u
  have ho : s.only [.yard, .atn] u := by rw [← hu]; exact State.countJob_only s j (List.Subset.refl _) (State.only_refl _ s)
  have hup : u.pad? j.pad = some q := by unfold State.pad?; rw [(ho .pads (by decide) : u.pads = s.pads)]; exact h2
  have hrec : ∀ v : State, v.core = s.core → v.record j x = s.record j x := by
    intro v hv; unfold State.record; rw [hv]
  generalize hv : (if j.dstAddr = 0 ∨ j.dest.isEmpty = true then u else u.dma j.pad j.dstAddr j.dest) = v
  have hvc : v.core = s.core := by
    rw [← hv]; split
    · exact ho .core (by decide)
    · exact (State.dma_only u _ _ _ (List.Subset.refl _) (State.only_refl _ u) .core (by decide)).trans (ho .core (by decide))
  have hvo : ∃ b, v.out = u.out ++ (if j.dstAddr = 0 ∨ j.dest.isEmpty = true then [] else [.dmaWrite j.pad j.dstAddr j.dest]) ++ b := by
    rw [← hv]; split
    · exact ⟨[], by simp⟩
    · rename_i hc
      have : j.dest.isEmpty = false := by
        cases e : j.dest.isEmpty
        · rfl
        · exact absurd (.inr e) hc
      obtain ⟨l, e⟩ := State.dma_out u j.pad j.dstAddr j.dest this
      exact ⟨l, by rw [e]; simp⟩
  have hvp : ∃ g, v.pad? j.pad = some { q with log := g } := by
    rw [← hv]; split
    · exact ⟨q.log, hup⟩
    · exact State.dma_pad u _ _ _ q hup
  have hw : ∃ w, u.writeCompletion j = w ∧ (∃ l, w.out = v.out ++ .dmaWrite j.pad (x.cqBase + 32 * x.cqNext) (s.record j x) :: l) ∧
      (∃ g, w.pad? j.pad = some { q with log := g, ring := updAt q.ring j.ring (fun r => { r with cqNext := (r.cqNext + 1) % 2 ^ r.depthLog2, written := r.written + 1 }), atn := (if j.quiet then q.atn else setBit q.atn j.ring), atnNew := (if j.quiet then q.atnNew else setBit q.atnNew j.ring) }) := by
    refine ⟨_, rfl, ?_⟩
    unfold State.writeCompletion
    rw [hup]
    dsimp only
    rw [hg, hv, hrec v hvc]
    obtain ⟨g, hp⟩ := hvp
    obtain ⟨l, e1⟩ := State.dma_out v j.pad (x.cqBase + 32 * x.cqNext) (s.record j x) (State.record_some s j x)
    obtain ⟨g', e2⟩ := State.dma_pad v j.pad (x.cqBase + 32 * x.cqNext) (s.record j x) _ hp
    refine ⟨⟨l, e1⟩, g', ?_⟩
    rw [State.modPad_pad _ _ _ (fun q => by rfl), if_pos rfl, e2]
    rfl
  obtain ⟨w, ew, ⟨l, wo⟩, ⟨g, wp⟩⟩ := hw
  rw [ew]
  obtain ⟨b, hvo⟩ := hvo
  refine ⟨?_, fun k hk => by have := (List.mem_filter.1 hk).2; simp at this; exact this.1, fun hs => ?_⟩
  · have fo : ∀ (ls : List Nat) (y : State), (ls.foldl (fun s l => s.quarantinePair l) y).out = y.out := by
      intro ls
      induction ls with
      | nil => intro y; rfl
      | cons a ls ih =>
        intro y; rw [List.foldl_cons, ih]
        exact State.quarantinePair_only y a (List.Subset.refl _) (State.only_refl _ y) .out (by decide)
    refine ⟨u.out, b, l, ?_⟩
    refine Eq.trans (show _ = (List.foldl (fun s l => s.quarantinePair l) w (s.faultyLanes j)).out from rfl) ?_
    rw [fo, wo, hvo]
  · have : s.faultyLanes j = [] := by unfold State.faultyLanes; rw [if_pos hs]
    rw [this]
    refine ⟨_, wp, ?_, rfl⟩
    dsimp only
    rw [updAt_get, if_pos rfl, h3]; rfl

/-- `find?` in a list whose elements of one key are replaced by one that has it. -/
theorem find_set {α : Type} (l : List α) (key : α → Nat) (k : Nat) (b : α) (hb : key b = k) :
    (l.map (fun a => if (key a == k) = true then b else a)).find? (fun a => key a == k) =
      (l.find? (fun a => key a == k)).map (fun _ => b) := by
  induction l with
  | nil => rfl
  | cons a l ih =>
    rw [List.map_cons]
    cases h : key a == k
    · rw [if_neg (by decide), List.find?_cons_of_neg (by rw [h]; decide), List.find?_cons_of_neg (by rw [h]; decide)]; exact ih
    · rw [if_pos rfl, List.find?_cons_of_pos (p := fun a => key a == k) (by simp [hb]), List.find?_cons_of_pos (p := fun a => key a == k) h]; rfl

theorem State.shape_form (s : State) (j : Job) : ∃ a b c d e,
    s.shape j = { j with cls := a, clsTyp := b, kind := c, steps := d, segmented := e } := by
  unfold State.shape
  extract_lets one a pk t
  repeat' first | exact ⟨_, _, _, _, _, rfl⟩ | split

theorem State.find_append (s : State) (l : List Job) (id : Nat) (j : Job) (h : s.job? id = some j) :
    (s.modJobs (fun k => k ++ l)).job? id = some j := by
  show (s.jobs ++ l).find? _ = _
  rw [List.find?_append]
  have : s.jobs.find? (fun j => j.id == id) = some j := h
  rw [this]; rfl

/-- Source data that arrives, or fails to (R44, R334): a header fault ends the job, otherwise it is ready. -/
theorem State.arrive_facts (s : State) (id : Nat) (data : Option Bytes) (j : Job) (h : s.job? id = some j) (hp : j.src.whole = true)
    (want : Nat) (hw : want = j.srcLen + (if opCompare j.op then j.dstLen else 0)) (d : Bytes) (hd : d = data.getD [])
    (short : Bool) (hs : short = (data.isNone || decide (d.length < want))) :
    ((short = true ∨ s.headerCheck { j with data := d.take want, short := false, ready := true, readyAt := s.now } = 0) →
      ∃ y, (s.arrive id data).job? id = some y ∧ y.data = d.take want ∧ y.short = short ∧ y.ready = true ∧ y.readyAt = s.now) ∧
    (short = false → s.headerCheck { j with data := d.take want, short := false, ready := true, readyAt := s.now } ≠ 0 →
      ∃ y, (s.arrive id data).job? id = some y ∧
        y.status = some (s.headerCheck { j with data := d.take want, short := false, ready := true, readyAt := s.now }) ∧
        y.completeAt = some (s.now + 1)) := by
  have hid : j.id = id := State.job_id h
  have hc : ∀ (f : Pci → Pci) (g : List Job → List Job) (k : Job), ((s.modPci f).modJobs g).headerCheck k = s.headerCheck k := by
    intro f g k; unfold State.headerCheck State.pinHeader; rfl
  unfold State.arrive
  rw [h]
  dsimp only
  rw [← hw, ← hd, ← hs]
  generalize hm : (s.modPci (fun p => { p with reads := p.reads.filter (fun r => r.what != .source id) })) = m
  have hmj : m.job? id = some j := by rw [← hm]; exact h
  have hmn : m.now = s.now := by rw [← hm]; rfl
  generalize hj2 : ({ j with data := d.take want, short := short, ready := true, readyAt := s.now } : Job) = j2
  have i2 : j2.id = id := by rw [← hj2]; exact hid
  have hm1 : (m.modJob id (fun _ => j2)).job? id = some j2 := by
    unfold State.job? State.modJob State.modJobs
    dsimp only
    have := find_set m.jobs Job.id id j2 i2
    rw [this]
    rw [show m.jobs.find? (fun a => a.id == id) = some j from hmj]; rfl
  have hch : (m.modJob id (fun _ => j2)).headerCheck j2 = s.headerCheck j2 := by
    rw [← hm]; exact hc _ _ j2
  have src2 : j2.src.whole = true := by rw [← hj2]; exact hp
  have done : ∀ k : Job, k.id = id → k.data = d.take want → k.short = short → k.ready = true → k.readyAt = s.now → ∀ b : Bool, 
      ∃ y, ((if b = true then ((m.modJob id (fun _ => j2)).modJob id (fun _ => k)).splitBatch k else (m.modJob id (fun _ => j2)).modJob id (fun _ => k)).job? id) = some y ∧
        y.data = d.take want ∧ y.short = short ∧ y.ready = true ∧ y.readyAt = s.now := by
    intro k hk k1 k2 k3 k4 b
    have e : ((m.modJob id (fun _ => j2)).modJob id (fun _ => k)).job? id = some k := by
      unfold State.job? State.modJob State.modJobs
      dsimp only
      rw [find_set _ Job.id id k hk]
      rw [show (List.map (fun j => if (j.id == id) = true then j2 else j) m.jobs).find? (fun a => a.id == id) = some j2 from hm1]; rfl
    refine ⟨k, ?_, k1, k2, k3, k4⟩
    cases b
    · exact e
    · exact State.find_append _ _ id k e
  have shp : ∀ v : State, ∃ a b c d e, v.shape j2 = { j2 with cls := a, clsTyp := b, kind := c, steps := d, segmented := e } :=
    fun v => State.shape_form v j2
  have hr2 : j2.ready = true ∧ j2.readyAt = s.now ∧ j2.short = short ∧ j2.data = d.take want := by rw [← hj2]; exact ⟨rfl, rfl, rfl, rfl⟩
  cases short
  · have ef : ∀ {α : Type} (a b : α), (if false = true then a else b) = b := fun _ _ => rfl
    simp only [ef, hch]
    rw [hj2]
    by_cases z : s.headerCheck j2 = 0
    · rw [if_neg (fun q => q z)]
      refine ⟨fun _ => ?_, fun _ q => absurd z q⟩
      obtain ⟨a, b, c, e, f, hf⟩ := shp (m.modJob id (fun _ => j2))
      have := done ((m.modJob id (fun _ => j2)).shape j2) (by rw [hf]; exact i2) (by rw [hf]; exact hr2.2.2.2) (by rw [hf]; exact hr2.2.2.1) (by rw [hf]; exact hr2.1) (by rw [hf]; exact hr2.2.1)
      exact this _
    · rw [if_pos z]
      refine ⟨fun q => ?_, fun _ _ => ?_⟩
      · rcases q with q | q
        · cases q
        · exact absurd q z
      · exact ⟨_, State.endJob_job _ id _ _ j2 hm1 src2, rfl, by show some (m.now + 1) = _; rw [hmn]⟩
  · refine ⟨fun _ => ?_, (fun q => by cases q)⟩
    have ef : ∀ {α : Type} (a b : α), (if true = true then a else b) = a := fun _ _ => rfl
    simp only [ef]
    rw [if_neg (fun q => q rfl)]
    obtain ⟨a, b, c, e, f, hf⟩ := shp (m.modJob id (fun _ => j2))
    have := done ((m.modJob id (fun _ => j2)).shape j2) (by rw [hf]; exact i2) (by rw [hf]; exact hr2.2.2.2) (by rw [hf]; exact hr2.2.2.1) (by rw [hf]; exact hr2.1) (by rw [hf]; exact hr2.2.1)
    exact this _

end Sys2Proof.Machine
end

