-- ==== Sys2Proof/Laws/EffectsResets.lean ====
section
/-! SUPPORT. What the shared operations and the single commands do to the fields that the statements speak of: paddock and function resets. -/

set_option maxRecDepth 10000
set_option linter.unusedVariables false
set_option linter.unusedSimpArgs false

namespace Sys2Proof.Machine

open Sys2Proof

theorem State.abortJob_pad (s : State) (id : Nat) (e : Option Nat) (p : Nat) (q : Pad) (h : s.pad? p = some q) :
    ∃ g, (s.abortJob id e).pad? p = some { q with streams := g } := by
  have of : ∀ u : State, u.pads = s.pads → ∃ g, u.pad? p = some { q with streams := g } := by
    intro u e; refine ⟨q.streams, ?_⟩; unfold State.pad? at h ⊢; rw [e]; exact h
  unfold State.abortJob
  split
  · exact of s rfl
  · rename_i j hj
    extract_lets u v w w'
    have hv : v.pads = s.pads := by
      show u.pads = _
      unfold u; split <;> rfl
    have hw : ∃ g, w.pad? p = some { q with streams := g } := by
      unfold w
      split
      · unfold State.closeStream
        rw [State.modPad_pad _ _ _ (fun x => by rfl)]
        have hp : v.pad? p = some q := by unfold State.pad? at h ⊢; rw [hv]; exact h
        split
        · rw [hp]; exact ⟨_, rfl⟩
        · rw [hp]; exact ⟨_, rfl⟩
      · exact of v hv
    have of' : ∀ x : State, x.pads = w.pads → ∃ g, x.pad? p = some { q with streams := g } := by
      intro x hx; obtain ⟨g, e⟩ := hw; refine ⟨g, ?_⟩; unfold State.pad? at e ⊢; rw [hx]; exact e
    split
    · exact of' _ rfl
    · exact of' _ (State.endJob_only w _ _ _ (List.Subset.refl _) (State.only_refl _ w) .pads (by decide))
    · refine of' _ ?_
      show w'.pads = _
      unfold w'; split <;> rfl

theorem State.windowReset_pad (s : State) (p : Nat) (q : Pad) (h : s.pad? p = some q) :
    ∃ g, s.windowReset.pad? p = some { q with streams := g } := by
  unfold State.windowReset
  dsimp only
  split
  · split
    · exact State.abortJob_pad s _ _ p q h
    · exact ⟨q.streams, h⟩
  · exact ⟨q.streams, h⟩

theorem State.resetPad_other (s : State) (p k : Nat) (h : k ≠ p) : (s.resetPad p).pad? k = s.pad? k ∧ (s.resetPad p).pgen k = s.pgen k := by
  unfold State.resetPad
  split
  · exact ⟨rfl, rfl⟩
  · dsimp only
    split
    · exact ⟨rfl, rfl⟩
    · have hp : ∀ (u : State), u.pads = ((s.modPmem (fun m => { m with pgen := putKey m.pgen p ((s.pgen p + 1) % 256) })).modPad p (fun q => { q with
          st := .resetting, slots := [], ring := [ringReset, ringReset, ringReset, ringReset], atn := 0, atnNew := 0,
          atnEn := 0x7F, refTag := 0, refRing := 0, refSlot := 0, refCode := 0, refCount := 0,
          resets := q.resets + 1, sinceQuery := q.sinceQuery + 1, resetAt := some s.now, struck := false })).pads → u.pad? k = s.pad? k := by
        intro u hu
        have := State.modPad_pad (s.modPmem (fun m => { m with pgen := putKey m.pgen p ((s.pgen p + 1) % 256) })) p (fun q => { q with
          st := .resetting, slots := [], ring := [ringReset, ringReset, ringReset, ringReset], atn := 0, atnNew := 0,
          atnEn := 0x7F, refTag := 0, refRing := 0, refSlot := 0, refCode := 0, refCount := 0,
          resets := q.resets + 1, sinceQuery := q.sinceQuery + 1, resetAt := some s.now, struck := false }) (fun q => by rfl) k
        rw [if_neg h] at this
        unfold State.pad? at this ⊢; rw [hu]; exact this
      have hg : ∀ u : State, u.pmem = { s.pmem with pgen := putKey s.pmem.pgen p ((s.pgen p + 1) % 256) } → u.pgen k = s.pgen k := by
        intro u hu; unfold State.pgen; rw [hu]; dsimp only
        rw [getKey_putKey, if_neg h]
      split
      · exact ⟨hp _ rfl, hg _ rfl⟩
      · exact ⟨hp _ rfl, hg _ rfl⟩

theorem State.resetPad_takes (s : State) (p : Nat) (q : Pad) (h : s.pad? p = some q) (he : q.st = .enabled) :
    ∃ q', (s.resetPad p).pad? p = some q' ∧ q.resetting q' s.now ∧ (s.resetPad p).pgen p = (s.pgen p + 1) % 256 := by
  unfold State.resetPad
  rw [h]
  dsimp only
  rw [if_neg (fun c => c he)]
  have e := State.modPad_pad (s.modPmem (fun m => { m with pgen := putKey m.pgen p ((s.pgen p + 1) % 256) })) p (fun q => { q with
          st := .resetting, slots := [], ring := [ringReset, ringReset, ringReset, ringReset], atn := 0, atnNew := 0,
          atnEn := 0x7F, refTag := 0, refRing := 0, refSlot := 0, refCode := 0, refCount := 0,
          resets := q.resets + 1, sinceQuery := q.sinceQuery + 1, resetAt := some s.now, struck := false }) (fun q => by rfl) p
  rw [if_pos rfl, show (s.modPmem (fun m => { m with pgen := putKey m.pgen p ((s.pgen p + 1) % 256) })).pad? p = some q from h, Option.map_some] at e
  have hg : ∀ u : State, u.pmem = { s.pmem with pgen := putKey s.pmem.pgen p ((s.pgen p + 1) % 256) } → u.pgen p = (s.pgen p + 1) % 256 := by
    intro u hu; unfold State.pgen; rw [hu]; dsimp only
    rw [getKey_putKey, if_pos rfl]; rfl
  split
  · exact ⟨_, e, ⟨rfl, rfl, rfl, rfl, rfl, rfl, rfl⟩, hg _ rfl⟩
  · exact ⟨_, e, ⟨rfl, rfl, rfl, rfl, rfl, rfl, rfl⟩, hg _ rfl⟩

theorem State.resetPad_off (s : State) (p : Nat) (q : Pad) (h : s.pad? p = some q) (he : q.st ≠ .enabled) : s.resetPad p = s := by
  unfold State.resetPad
  rw [h]
  dsimp only
  rw [if_pos he]

/-- Which states a list of resets may pass for paddock `p`: a paddock that is reset stays so. -/
theorem State.resetPads_facts (l : List Nat) (p : Nat) : ∀ (s : State) (q : Pad), s.pad? p = some q →
    (q.st ≠ .enabled ∨ p ∉ l → (∃ g, (s.resetPads l).pad? p = some { q with streams := g }) ∧ (s.resetPads l).pgen p = s.pgen p) ∧
    (p ∈ l → q.st = .enabled → ∃ q', (s.resetPads l).pad? p = some q' ∧ q.resetting q' s.now ∧ (s.resetPads l).pgen p = (s.pgen p + 1) % 256) := by
  induction l with
  | nil => intro s q h; exact ⟨fun _ => ⟨⟨q.streams, h⟩, rfl⟩, fun c => by cases c⟩
  | cons a l ih =>
    intro s q h
    obtain ⟨u, hu, hs⟩ : ∃ u, (u = s.windowReset ∨ u = s) ∧ s.resetPads (a :: l) = (u.resetPad a).resetPads l := by
      refine ⟨_, ?_, rfl⟩
      exact (Decidable.em _).elim (fun c => .inl (if_pos c)) (fun c => .inr (if_neg c))
    have up : ∃ g, u.pad? p = some { q with streams := g } := by
      rcases hu with rfl | rfl
      · exact State.windowReset_pad s p q h
      · exact ⟨q.streams, h⟩
    have un : u.now = s.now := by
      rcases hu with rfl | rfl
      · exact congrArg Core.tick (State.windowReset_only s (List.Subset.refl _) (State.only_refl _ s) .core (by decide))
      · rfl
    have ug : u.pgen p = s.pgen p := by
      have : u.pmem = s.pmem := by
        rcases hu with rfl | rfl
        · exact State.windowReset_only s (List.Subset.refl _) (State.only_refl _ s) .pmem (by decide)
        · rfl
      unfold State.pgen; rw [this]
    obtain ⟨g, up⟩ := up
    rw [hs]
    by_cases hap : a = p
    · subst hap
      by_cases he : q.st = .enabled
      · obtain ⟨q', e1, e2, e3⟩ := State.resetPad_takes u a _ up he
        have e2' : q.resetting q' s.now := by rw [← un]; exact e2
        obtain ⟨k1, -⟩ := ih (u.resetPad a) q' e1
        obtain ⟨⟨g', k2⟩, k3⟩ := k1 (.inl (by rw [e2.2.1]; decide))
        refine ⟨fun c => ?_, fun _ _ => ⟨_, k2, e2', by rw [k3, e3, ug]⟩⟩
        rcases c with c | c
        · exact absurd he c
        · exact absurd (List.mem_cons_self ..) c
      · rw [State.resetPad_off u a _ up he]
        obtain ⟨k1, -⟩ := ih u _ up
        obtain ⟨⟨g', k2⟩, k3⟩ := k1 (.inl he)
        exact ⟨fun _ => ⟨⟨g', k2⟩, by rw [k3, ug]⟩, fun _ c => absurd c he⟩
    · obtain ⟨o1, o2⟩ := State.resetPad_other u a p (fun c => hap c.symm)
      have up2 : (u.resetPad a).pad? p = some { q with streams := g } := by rw [o1]; exact up
      have un2 : (u.resetPad a).now = u.now :=
        congrArg Core.tick (State.resetPad_only u a (List.Subset.refl _) (State.only_refl _ u) .core (by decide))
      obtain ⟨k1, k2⟩ := ih (u.resetPad a) _ up2
      refine ⟨fun c => ?_, fun c d => ?_⟩
      · obtain ⟨⟨g', k3⟩, k4⟩ := k1 (by
          rcases c with c | c
          · exact .inl c
          · exact .inr (fun m => c (List.mem_cons_of_mem _ m)))
        exact ⟨⟨g', k3⟩, by rw [k4, o2, ug]⟩
      · have c' : p ∈ l := by
          rcases List.mem_cons.1 c with e | e
          · exact absurd e.symm hap
          · exact e
        obtain ⟨q', e1, e2, e3⟩ := k2 c' d
        exact ⟨q', e1, by rw [← un, ← un2]; exact e2, by rw [e3, o2, ug]⟩

theorem State.resetPads_resets (s : State) (l : List Nat) (p : Nat) (h : p ∈ l) : s.resets (s.resetPads l) p :=
  fun q h1 h2 => (State.resetPads_facts l p s q h1).2 h h2

theorem State.resetPad_resets (s : State) (p : Nat) : s.resets (s.resetPad p) p := fun q h1 h2 => State.resetPad_takes s p q h1 h2
/-- What leaves a paddock alone but for its streams, and its generation, takes a reset before or after. -/
theorem State.resets_before {s m t : State} {p : Nat} (h1 : ∀ q, s.pad? p = some q → ∃ g, m.pad? p = some { q with streams := g })
    (h2 : m.now = s.now) (h3 : m.pgen p = s.pgen p) (h : m.resets t p) : s.resets t p := by
  intro q hq he
  obtain ⟨g, e⟩ := h1 q hq
  obtain ⟨q', a, b, c⟩ := h _ e he
  exact ⟨q', a, by rw [← h2]; exact b, by rw [← h3]; exact c⟩

theorem State.resets_after {s m t : State} {p : Nat} (h1 : ∀ q, m.pad? p = some q → q.st ≠ .enabled → ∃ g, t.pad? p = some { q with streams := g })
    (h3 : t.pgen p = m.pgen p) (h : s.resets m p) : s.resets t p := by
  intro q hq he
  obtain ⟨q', a, b, c⟩ := h q hq he
  obtain ⟨g, e⟩ := h1 _ a (by rw [b.2.1]; decide)
  exact ⟨_, e, b, by rw [h3]; exact c⟩

theorem State.resetPad_present (s : State) (p k : Nat) : (s.resetPad p).padPresent k = s.padPresent k := by
  have : (s.resetPad p).pci.vfEnable = s.pci.vfEnable ∧ (s.resetPad p).pci.numVfs = s.pci.numVfs ∧ (s.resetPad p).pci.pasid = s.pci.pasid := by
    unfold State.resetPad
    split
    · exact ⟨rfl, rfl, rfl⟩
    · dsimp only
      split
      · exact ⟨rfl, rfl, rfl⟩
      · split <;> exact ⟨rfl, rfl, rfl⟩
  unfold State.padPresent
  rw [this.1, this.2.1, this.2.2]

theorem State.deriveHamper_pads (s : State) (p : Nat) : (s.deriveHamper p).pads = s.pads :=
  State.deriveHamper_only s p (List.Subset.refl _) (State.only_refl _ s) .pads (by decide)
theorem State.deriveHamper_pmem (s : State) (p : Nat) : (s.deriveHamper p).pmem = s.pmem :=
  State.deriveHamper_only s p (List.Subset.refl _) (State.only_refl _ s) .pmem (by decide)
theorem State.deriveHamper_pci (s : State) (p : Nat) : (s.deriveHamper p).pci = s.pci :=
  State.deriveHamper_only s p (List.Subset.refl _) (State.only_refl _ s) .pci (by decide)
theorem State.deriveHamper_core (s : State) (p : Nat) : (s.deriveHamper p).core = s.core :=
  State.deriveHamper_only s p (List.Subset.refl _) (State.only_refl _ s) .core (by decide)
theorem State.deriveHamper_atn (s : State) (p : Nat) : (s.deriveHamper p).atn = s.atn :=
  State.deriveHamper_only s p (List.Subset.refl _) (State.only_refl _ s) .atn (by decide)
theorem State.deriveHamper_out (s : State) (p : Nat) : (s.deriveHamper p).out = s.out :=
  State.deriveHamper_only s p (List.Subset.refl _) (State.only_refl _ s) .out (by decide)
theorem State.deriveHamper_pad (s : State) (p k : Nat) : (s.deriveHamper p).pad? k = s.pad? k := by
  unfold State.pad?; rw [State.deriveHamper_pads]
theorem State.deriveHamper_pgen (s : State) (p k : Nat) : (s.deriveHamper p).pgen k = s.pgen k := by
  unfold State.pgen; rw [State.deriveHamper_pmem]
theorem State.deriveHamper_present (s : State) (p k : Nat) : (s.deriveHamper p).padPresent k = s.padPresent k := by
  unfold State.padPresent; rw [State.deriveHamper_pci]
theorem State.presence_frame (s : State) (p k : Nat) : (s.presence p).padPresent k = s.padPresent k ∧ (s.presence p).now = s.now ∧
    (k ≠ p → (s.presence p).pad? k = s.pad? k ∧ (s.presence p).pgen k = s.pgen k) := by
  unfold State.presence
  split
  · exact ⟨rfl, rfl, fun _ => ⟨rfl, rfl⟩⟩
  · split
    · split
      · refine ⟨by rw [State.deriveHamper_present]; rfl, congrArg Core.tick (State.deriveHamper_core _ _),
          fun h => ⟨?_, by rw [State.deriveHamper_pgen]; rfl⟩⟩
        rw [State.deriveHamper_pad, State.modPad_pad _ _ _ (fun q => by rfl), if_neg h]
      · exact ⟨rfl, rfl, fun _ => ⟨rfl, rfl⟩⟩
    · exact ⟨State.resetPad_present s p k,
        congrArg Core.tick (State.resetPad_only s p (List.Subset.refl _) (State.only_refl _ s) .core (by decide)),
        fun h => State.resetPad_other s p k h⟩

/-- The functions of a list of paddocks appear or go (R359, R360). -/
theorem State.presences_facts (l : List Nat) (p : Nat) (q : Pad) : ∀ s : State, s.pad? p = some q →
    (p ∉ l ∨ (s.padPresent p = true ∧ q.st ≠ .disabled) ∨ (s.padPresent p = false ∧ q.st ≠ .enabled) →
      (l.foldl (fun s n => s.presence n) s).pad? p = some q ∧ (l.foldl (fun s n => s.presence n) s).pgen p = s.pgen p) ∧
    (p ∈ l → s.padPresent p = true → q.st = .disabled →
      (l.foldl (fun s n => s.presence n) s).pad? p = some { q with st := .enabled }) ∧
    (p ∈ l → s.padPresent p = false → q.st = .enabled →
      ∃ q', (l.foldl (fun s n => s.presence n) s).pad? p = some q' ∧ q.resetting q' s.now ∧
        (l.foldl (fun s n => s.presence n) s).pgen p = (s.pgen p + 1) % 256) := by
  induction l generalizing q with
  | nil => intro s h; exact ⟨fun _ => ⟨h, rfl⟩, (fun c => by cases c), (fun c => by cases c)⟩
  | cons a l ih =>
    intro s h
    rw [List.foldl_cons]
    obtain ⟨f1, f2, f3⟩ := State.presence_frame s a p
    by_cases hap : a = p
    · subst hap
      cases hpr : s.padPresent a
      · -- absent
        have e : s.presence a = s.resetPad a := by unfold State.presence; rw [h, hpr]; rfl
        by_cases he : q.st = .enabled
        · obtain ⟨q', e1, e2, e3⟩ := State.resetPad_takes s a q h he
          rw [← e] at e1 e3
          obtain ⟨k, -, -⟩ := ih q' (s.presence a) e1
          obtain ⟨k1, k2⟩ := k (.inr (.inr ⟨by rw [f1]; exact hpr, by rw [e2.2.1]; decide⟩))
          refine ⟨fun c => ?_, (fun _ c => by cases c), fun _ _ _ => ⟨q', k1, e2, by rw [k2, e3]⟩⟩
          rcases c with c | c | c
          · exact absurd (List.mem_cons_self ..) c
          · exact absurd c.1 (by decide)
          · exact absurd he c.2
        · have e4 : s.presence a = s := by rw [e]; exact State.resetPad_off s a q h he
          rw [e4]
          obtain ⟨k, -, -⟩ := ih q s h
          have := k (.inr (.inr ⟨hpr, he⟩))
          exact ⟨fun _ => this, (fun _ c => by cases c), fun _ _ c => absurd c he⟩
      · by_cases hd : q.st = .disabled
        · have e : s.presence a = (s.modPad a (fun q => { q with st := .enabled })).deriveHamper a := by
            unfold State.presence; rw [h]; dsimp only; rw [hpr, if_pos rfl, if_pos hd]
          have e1 : (s.presence a).pad? a = some { q with st := .enabled } := by
            rw [e, State.deriveHamper_pad, State.modPad_pad _ _ _ (fun q => by rfl), if_pos rfl, h]; rfl
          obtain ⟨k, -, -⟩ := ih _ (s.presence a) e1
          obtain ⟨k1, k2⟩ := k (.inr (.inl ⟨by rw [f1]; exact hpr, (fun c => by cases c)⟩))
          refine ⟨fun c => ?_, fun _ _ _ => k1, (fun _ c => by cases c)⟩
          rcases c with c | c | c
          · exact absurd (List.mem_cons_self ..) c
          · exact absurd hd c.2
          · cases c.1
        · have e : s.presence a = s := by
            unfold State.presence; rw [h]; dsimp only; rw [hpr, if_pos rfl, if_neg hd]
          rw [e]
          obtain ⟨k, -, -⟩ := ih q s h
          have := k (.inr (.inl ⟨hpr, hd⟩))
          exact ⟨fun _ => this, fun _ _ c => absurd c hd, (fun _ c => by cases c)⟩
    · obtain ⟨o1, o2⟩ := f3 (fun c => hap c.symm)
      obtain ⟨k1, k2, k3⟩ := ih q (s.presence a) (by rw [o1]; exact h)
      rw [f1] at k1 k2 k3
      rw [f2, o2] at k3
      rw [o2] at k1
      have mem : p ∈ a :: l → p ∈ l := fun c => by
        rcases List.mem_cons.1 c with e | e
        · exact absurd e.symm hap
        · exact e
      refine ⟨fun c => k1 ?_, fun c => k2 (mem c), fun c => k3 (mem c)⟩
      rcases c with c | c
      · exact .inl (fun m => c (List.mem_cons_of_mem _ m))
      · exact .inr c

theorem State.pfMailboxes_pad (s : State) (p : Nat) (q : Pad) (h : s.pad? p = some q) :
    ∃ g, s.pfMailboxes.pad? p = some { q with streams := g } := by
  unfold State.pfMailboxes
  dsimp only
  split
  · split
    · exact State.abortJob_pad s _ _ p q h
    · exact ⟨q.streams, h⟩
  · exact ⟨q.streams, h⟩

/-- A reset completes (R388). -/
theorem State.resetDone_facts (s : State) (p r : Nat) (q : Pad) (h : s.pad? p = some q) (h1 : q.resetAt = some r) (h2 : q.struck = true)
    (h3 : r < s.now) (h4 : r + 3 ≤ s.now ∨ s.yard.lanes.any (fun l => l.zero != 0) = false) :
    (q.destroy = true → (s.resetDone p).pad? p = none) ∧
    (q.destroy = false → ∃ q', (s.resetDone p).pad? p = some q' ∧ q'.st = (if s.padPresent p then .enabled else .disabled) ∧
      q'.resetAt = none ∧ q'.mgrWaits = [] ∧ q'.atn = setBit q.atn 6) := by
  have fold : ∀ (l : List Nat) (u : State) (b : Nat), (l.foldl (fun s w => s.mgrEnd w (s.mgrResult p stOk)) u).pads = u.pads := by
    intro l
    induction l with
    | nil => intro u b; rfl
    | cons a l ih =>
      intro u b; rw [List.foldl_cons, ih _ b]
      exact State.mgrEnd_only u a _ (List.Subset.refl _) (State.only_refl _ u) .pads (by decide)
  unfold State.resetDone
  rw [h]
  dsimp only
  rw [h1]
  dsimp only
  rw [if_neg (by
    rintro (c | c | ⟨c, d⟩)
    · rw [h2] at c; cases c
    · omega
    · rcases h4 with e | e
      · omega
      · rw [e] at d; cases d)]
  generalize hf : (fun q : Pad => ({ q with
          st := if s.padPresent p then .enabled else .disabled, resetAt := none, struck := false, mgrWaits := [],
          destroy := false, atn := setBit q.atn 6, atnNew := setBit q.atnNew 6 } : Pad)) = f
  have hfn : ∀ q, (f q).num = q.num := by intro q; rw [← hf]
  have e : ((s.modPad p f).latch 23 2).pad? p = some (f q) := by
    have := State.modPad_pad s p f hfn p
    rw [if_pos rfl, h] at this; exact this
  refine ⟨fun c => ?_, fun c => ?_⟩
  · rw [c, if_pos rfl]
    unfold State.pad?
    rw [fold _ _ 0]
    show (List.filter _ _).find? _ = none
    rw [List.find?_eq_none]
    intro x hx; have := (List.mem_filter.1 hx).2; simpa using this
  · rw [c, if_neg (by decide)]
    refine ⟨f q, ?_, by rw [← hf], by rw [← hf], by rw [← hf], by rw [← hf]⟩
    unfold State.pad? at e ⊢
    rw [fold _ _ 0]; exact e
theorem State.resetPad_pci (s : State) (p : Nat) : (s.resetPad p).pci = { s.pci with front := (s.resetPad p).pci.front, reads := (s.resetPad p).pci.reads, quar := (s.resetPad p).pci.quar } := by
  unfold State.resetPad
  split
  · rfl
  · dsimp only
    split
    · rfl
    · split <;> rfl

theorem State.presence_pci (s : State) (p : Nat) : (s.presence p).pci = { s.pci with front := (s.presence p).pci.front, reads := (s.presence p).pci.reads, quar := (s.presence p).pci.quar } := by
  unfold State.presence
  split
  · rfl
  · split
    · split
      · rw [State.deriveHamper_pci]; rfl
      · rfl
    · exact State.resetPad_pci s p

theorem State.presences_pci (l : List Nat) : ∀ u : State, (l.foldl (fun s n => s.presence n) u).pci = { u.pci with front := (l.foldl (fun s n => s.presence n) u).pci.front, reads := (l.foldl (fun s n => s.presence n) u).pci.reads, quar := (l.foldl (fun s n => s.presence n) u).pci.quar } := by
  induction l with
  | nil => intro u; rfl
  | cons a l ih =>
    intro u; rw [List.foldl_cons, ih (u.presence a), State.presence_pci u a]

theorem State.resetPads_pci (s : State) (l : List Nat) : (s.resetPads l).pci = { s.pci with front := (s.resetPads l).pci.front, reads := (s.resetPads l).pci.reads, quar := (s.resetPads l).pci.quar } := by
  induction l generalizing s with
  | nil => rfl
  | cons a l ih =>
    obtain ⟨u, hu, hs⟩ : ∃ u, (u = s.windowReset ∨ u = s) ∧ s.resetPads (a :: l) = (u.resetPad a).resetPads l := by
      refine ⟨_, ?_, rfl⟩
      exact (Decidable.em _).elim (fun c => .inl (if_pos c)) (fun c => .inr (if_neg c))
    have : u.pci = s.pci := by
      rcases hu with rfl | rfl
      · exact State.windowReset_only s (List.Subset.refl _) (State.only_refl _ s) .pci (by decide)
      · rfl
    rw [hs, ih, State.resetPad_pci u a, this]

theorem State.resetPads_rdw (s : State) (l : List Nat) (h : s.rdw = rdwReset) : (s.resetPads l).rdw = rdwReset := by
  induction l generalizing s with
  | nil => exact h
  | cons a l ih =>
    obtain ⟨u, hu, hs⟩ : ∃ u, (u = s.windowReset ∨ u = s) ∧ s.resetPads (a :: l) = (u.resetPad a).resetPads l := by
      refine ⟨_, ?_, rfl⟩
      exact (Decidable.em _).elim (fun c => .inl (if_pos c)) (fun c => .inr (if_neg c))
    have : u.rdw = rdwReset := by
      rcases hu with rfl | rfl
      · rfl
      · exact h
    rw [hs]
    refine ih _ ?_
    rw [← this]
    exact State.resetPad_only u a (List.Subset.refl _) (State.only_refl _ u) .rdw (by decide)

theorem State.resetPads_pgen (l : List Nat) (p : Nat) (s : State) (h : p ∉ l) : (s.resetPads l).pgen p = s.pgen p := by
  induction l generalizing s with
  | nil => rfl
  | cons a l ih =>
    obtain ⟨u, hu, hs⟩ : ∃ u, (u = s.windowReset ∨ u = s) ∧ s.resetPads (a :: l) = (u.resetPad a).resetPads l := by
      refine ⟨_, ?_, rfl⟩
      exact (Decidable.em _).elim (fun c => .inl (if_pos c)) (fun c => .inr (if_neg c))
    have : u.pmem = s.pmem := by
      rcases hu with rfl | rfl
      · exact State.windowReset_only s (List.Subset.refl _) (State.only_refl _ s) .pmem (by decide)
      · rfl
    rw [hs, ih _ (fun c => h (List.mem_cons_of_mem _ c)), (State.resetPad_other u a p (fun c => h (c ▸ List.mem_cons_self ..))).2]
    unfold State.pgen; rw [this]

theorem State.presences_pgen (l : List Nat) (p : Nat) (s : State) (h : p ∉ l) : (l.foldl (fun s n => s.presence n) s).pgen p = s.pgen p := by
  induction l generalizing s with
  | nil => rfl
  | cons a l ih =>
    rw [List.foldl_cons, ih _ (fun c => h (List.mem_cons_of_mem _ c))]
    exact ((State.presence_frame s a p).2.2 (fun c => h (c ▸ List.mem_cons_self ..))).2

theorem vf_mem2 (p : Nat) (a : 1 ≤ p) (b : p ≤ 255) : p ∈ vfPads := List.mem_map.2 ⟨p - 1, List.mem_range.2 (by omega), by omega⟩
theorem slice_mem (p : Nat) (a : 256 ≤ p) (b : p ≤ 287) : p ∈ slicePads := List.mem_map.2 ⟨p - 256, List.mem_range.2 (by omega), by omega⟩
theorem vf_le (p : Nat) (h : p ∈ vfPads) : 1 ≤ p ∧ p ≤ 255 := by
  obtain ⟨k, hk, e⟩ := List.mem_map.1 h; have := List.mem_range.1 hk; omega
theorem slice_le (p : Nat) (h : p ∈ slicePads) : 256 ≤ p ∧ p ≤ 287 := by
  obtain ⟨k, hk, e⟩ := List.mem_map.1 h; have := List.mem_range.1 hk; omega
theorem vf_not_slice (p : Nat) (h : p ∈ 0 :: slicePads) : p ∉ vfPads := by
  intro c; have := vf_le p c
  rcases List.mem_cons.1 h with e | e
  · omega
  · have := slice_le p e; omega
theorem vf_mem (p : Nat) (h : p < 288) (z : p ∉ 0 :: slicePads) : p ∈ vfPads ∧ p ≠ 0 ∧ p < 256 := by
  have h0 : p ≠ 0 := fun c => z (c ▸ List.mem_cons_self ..)
  have h1 : p < 256 := by
    by_cases c : p < 256
    · exact c
    · exact absurd (List.mem_cons_of_mem _ (slice_mem p (by omega) (by omega))) z
  exact ⟨vf_mem2 p (by omega) (by omega), h0, h1⟩
theorem pad_mem (p : Nat) (h : p < 288) : p ∈ 0 :: vfPads ++ slicePads := by
  by_cases z : p ∈ 0 :: slicePads
  · rcases List.mem_cons.1 z with e | e
    · rw [e]; exact List.mem_append_left _ (List.mem_cons_self ..)
    · exact List.mem_append_right _ e
  · exact List.mem_append_left _ (List.mem_cons_of_mem _ (vf_mem p h z).1)
/-- Presence changes touch only keys of the STEWARD world (R237, R267). -/
theorem State.presence_keys (s : State) (p : Nat) : (s.presence p).openKeys = s.openKeys := by
  unfold State.presence
  split
  · rfl
  · split
    · split
      · exact (State.deriveHamper_keys _ p).2.2
      · rfl
    · show (s.resetPad p).tack.keys.filter _ = _
      rw [show (s.resetPad p).tack = s.tack from
        State.resetPad_only s p (List.Subset.refl _) (State.only_refl _ s) .tack (by decide)]
theorem State.presences_keys (l : List Nat) (u : State) : (l.foldl (fun s n => s.presence n) u).openKeys = u.openKeys := by
  induction l generalizing u with
  | nil => rfl
  | cons a l ih => rw [List.foldl_cons, ih, State.presence_keys]
theorem State.msixReset_keys (s : State) (n : Nat) : (s.msixReset n).openKeys = s.openKeys := rfl
theorem execPfFlr_keys (s : State) : ∃ t, execPfFlr s = .next t ∧ t.openKeys = s.openKeys := by
  unfold execPfFlr
  refine ⟨_, rfl, ?_⟩
  have h : ((s.fresh.pfMailboxes.latch 23 10).resetPads (0 :: slicePads)).tack = s.tack :=
    State.resetPads_only (L := [.core, .yard, .jobs, .pads, .pmem, .pci, .rdw, .dmb, .atn]) _ _ (by decide)
      (State.latch_only _ _ _ (by decide) (State.pfMailboxes_only _ (by decide) (State.only_refl _ s.fresh))) .tack (by decide)
  have k : ∀ u : State, u.tack = s.tack → ((vfPads.foldl (fun s n => s.presence n) u).msixReset 0).openKeys = s.openKeys := by
    intro u hu
    rw [State.msixReset_keys, State.presences_keys]
    unfold State.openKeys
    rw [hu]
  generalize (s.fresh.pfMailboxes.latch 23 10).resetPads (0 :: slicePads) = m at h ⊢
  split
  · rfl
  · exact k _ h
theorem State.presences_only (l : List Nat) (u : State) : u.only [.tack, .pads, .pmem, .pci, .atn] (l.foldl (fun s n => s.presence n) u) :=
  foldl_only _ _ _ (fun s n h => State.presence_only s n (List.Subset.refl _) h) (State.only_refl _ u)
theorem State.msixResets_only (l : List Nat) (u : State) : u.only [.atn] (l.foldl (fun s n => s.msixReset n) u) :=
  foldl_only _ _ _ (fun s n h => State.msixReset_only s n (List.Subset.refl _) h) (State.only_refl _ u)
theorem State.pfMailboxes_facts (s m : State) (k n : Nat) (hm : s.pfMailboxes.latch k n = m) :
    m.now = s.now ∧ (∀ p, m.pgen p = s.pgen p) ∧ (∀ p q, s.pad? p = some q → ∃ g, m.pad? p = some { q with streams := g }) ∧
    m.pci.mgrCmd = zeros 64 ∧ m.pci.mgrResult = zeros 64 ∧ m.pci.mgrCode = 0 ∧ m.rdw = rdwReset ∧ m.core.scratch = 0 := by
  have hmo : s.only [.core, .yard, .jobs, .pads, .pci, .rdw, .dmb, .atn] m := by
    rw [← hm]; exact State.latch_only _ _ _ (by decide) (State.pfMailboxes_only s (by decide) (State.only_refl _ _))
  refine ⟨?_, fun p => ?_, fun p q h => ?_, ?_⟩
  · rw [← hm]; show s.pfMailboxes.core.tick = _
    unfold State.pfMailboxes; dsimp only
    split
    · split
      · show (s.abortJob _ none).core.tick = _
        exact congrArg Core.tick (State.abortJob_only s _ _ (List.Subset.refl _) (State.only_refl _ _) .core (by decide))
      · rfl
    · rfl
  · unfold State.pgen; rw [show m.pmem = s.pmem from hmo .pmem (by decide)]
  · rw [← hm]; exact State.pfMailboxes_pad s p q h
  · rw [← hm]; exact ⟨rfl, rfl, rfl, rfl, rfl⟩

end Sys2Proof.Machine
end

