-- ==== Sys2Proof/Laws/EffectsManager.lean ====
section
/-! SUPPORT. What the shared operations and the single commands do to the fields that the statements speak of: manager commands. -/

set_option maxRecDepth 10000
set_option linter.unusedVariables false
set_option linter.unusedSimpArgs false

namespace Sys2Proof.Machine

open Sys2Proof

theorem uLE_head (n v : Nat) (b : Bytes) (h : v < 256 ^ n) : uLE (leN n v ++ b) 0 n = v := by
  have : slice (leN n v ++ b) 0 n = leN n v := by
    show (List.drop 0 (leN n v ++ b)).take n = _
    rw [List.drop_zero]
    have := List.take_left (l₁ := leN n v) (l₂ := b)
    rw [leN_length] at this; exact this
  unfold uLE; rw [this]; exact ofLE_leN n v h

theorem State.mgrResult_code (s : State) (p st : Nat) (h : st < 65536) : uLE (s.mgrResult p st) 0 2 = st := by
  unfold State.mgrResult
  dsimp only
  simp only [List.append_assoc]
  exact uLE_head 2 st _ (by simpa using h)

/-- `m` is `s` but for Logbook, latches, sessions, mailbox and output: where a manager command runs. -/
structure State.mgrView (s u : State) (v : Via) : Prop where
  pads : u.pads = s.pads
  tack : u.tack = s.tack
  pmem : u.pmem = s.pmem
  rdw : u.rdw = s.rdw
  now : u.now = s.now
  pres : ∀ p, u.padPresent p = s.padPresent p
  dest : match v with
    | .mailbox => u.pci.mgrDiscard = false
    | .session r => ∃ x y, s.requestReady r x ∧ u.session? x.slot = some y ∧ y.id = x.id ∧ y.lastSeq = r.seq

/-- Where the result of a command goes. -/
def State.viaTo (s : State) (w : Nat) : Via → Prop
  | .mailbox => w = 0
  | .session r => ∀ x, s.requestReady r x → w = x.slot + 1 ∧ x.slot < 1000

theorem State.mgrEnd_pads (s : State) (w : Nat) (b : Bytes) : (s.mgrEnd w b).pads = s.pads ∧ (s.mgrEnd w b).tack = s.tack ∧ (s.mgrEnd w b).pmem = s.pmem := by
  have o := State.mgrEnd_only s w b (List.Subset.refl _) (State.only_refl _ s)
  exact ⟨o .pads (by decide), o .tack (by decide), o .pmem (by decide)⟩

/-- The result of a command reaches its sender (R364, R368, R427). -/
theorem State.mgrEnd_managed (s u : State) (v : Via) (w st p : Nat) (hs : st < 65536)
    (hv : match v with
      | .mailbox => w = 0 ∧ u.pci.mgrDiscard = false
      | .session r => ∃ x y, s.requestReady r x ∧ u.session? x.slot = some y ∧ y.id = x.id ∧ y.lastSeq = r.seq ∧ w = x.slot + 1 ∧ x.slot < 1000) :
    s.managed (u.mgrEnd w (u.mgrResult p st)) v st ∧ (v = .mailbox → (u.mgrEnd w (u.mgrResult p st)).pci.mgrResult = u.mgrResult p st) := by
  unfold State.mgrEnd
  rw [State.mgrResult_code u p st hs]
  cases v with
  | mailbox =>
    obtain ⟨h1, h2⟩ := hv
    dsimp only
    rw [if_pos h1]
    refine ⟨⟨rfl, ?_⟩, fun _ => ?_⟩
    · show (if (u.latch 23 0).pci.mgrDiscard = true then 0 else st) = st
      rw [show (u.latch 23 0).pci.mgrDiscard = false from h2]; rfl
    · show (if (u.latch 23 0).pci.mgrDiscard = true then zeros 64 else u.mgrResult p st) = _
      rw [show (u.latch 23 0).pci.mgrDiscard = false from h2]; rfl
  | session r =>
    obtain ⟨x, y, h1, h2, h3, h4, h5, h6⟩ := hv
    dsimp only
    refine ⟨?_, (fun c => by cases c)⟩
    rw [if_neg (by omega), if_neg (by omega)]
    refine ⟨x, h1, ?_⟩
    rw [show w - 1 = x.slot by omega, ← h3, ← h4]
    exact State.answer_out _ x.slot y { status := st, info := 0, payload := [] } h2

theorem State.askManager_facts (m : State) (d : LogDesc) (sess : Option Nat) (c : Bytes) (h : m.logOpen) :
    (m.mgrCheck c ≠ 0 → m.askManager d sess c = m.mgrRefuse c (mgrWho sess) (m.mgrCheck c)) ∧
    (m.mgrCheck c = 0 → ∃ u, m.noted u ∧ u.dict = m.dict ∧ m.askManager d sess c = u.mgrApply c (mgrWho sess)) := by
  obtain ⟨c1, c2, c3, c4, c5⟩ := h
  refine ⟨fun z => ?_, fun z => ?_⟩
  · unfold State.askManager; dsimp only; rw [if_pos z]
  · unfold State.askManager
    dsimp only
    rw [if_neg (fun q => q z)]
    by_cases k : u8 c 0 = 3 ∨ u8 c 0 = 5 ∨ u8 c 0 = 8
    · rw [if_pos k]
      exact ⟨_, State.noted_of_only (State.logEv_only m _ (by decide) (State.only_refl _ m)), rfl, rfl⟩
    · rw [if_neg k]
      refine ⟨m.ringPut (fun l => l.entryBytes (m.fullDesc d (.manager c sess))), State.ringPut_noted m _,
        State.ringPut_only m _ (List.Subset.refl _) (State.only_refl _ m) .dict (by decide), ?_⟩
      unfold State.logChange
      rw [if_neg (by rw [c1]; simp), if_neg (by
        rw [c2, c4, c5]; rintro (q | q | q | q | q)
        · cases q
        · omega
        · cases q
        · cases q
        · cases q.1)]
      unfold State.writeChange
      rw [show m.effCheck d (.manager c sess) = 0 from z, if_neg (fun q => q rfl)]
      rfl

theorem State.mgrCheck_lt (s : State) (c : Bytes) : s.mgrCheck c < 65536 := by
  have hs : stBadOpcode < 65536 ∧ stBadFormat < 65536 ∧ stBadAlignment < 65536 ∧ stPaddockReset < 65536 ∧ stRange < 65536 := by decide
  unfold State.mgrCheck
  extract_lets code p q resetting disabled ok
  split
  · exact hs.1
  · split
    · exact hs.2.1
    · split
      · exact hs.2.2.1
      · split
        · exact hs.2.2.2.1
        · split
          · exact hs.2.2.2.2
          · split
            · decide
            · exact hs.2.2.2.2

/-- A manager command, from either sender (R364 to R367, R431). -/
theorem State.manage_facts (s : State) (v : Via) (code : Nat) (cmd : Bytes) (h : s.managerReady v) (ho : s.logOpen) :
    ∃ w, (s.mgrCheck (mgrCommand code cmd) ≠ 0 → ∃ u, s.mgrView u v ∧
        s.fresh.manage v code cmd = u.mgrEnd w (u.mgrResult (uLE (mgrCommand code cmd) 2 2) (s.mgrCheck (mgrCommand code cmd)))) ∧
      (s.mgrCheck (mgrCommand code cmd) = 0 → ∃ u, s.mgrView u v ∧ s.fresh.manage v code cmd = u.mgrApply (mgrCommand code cmd) w) ∧
      s.viaTo w v := by
  unfold State.manage
  dsimp only
  rw [show leN 1 code ++ (fit 64 cmd).drop 1 = mgrCommand code cmd from rfl]
  generalize hc : mgrCommand code cmd = c
  have hlen : c.length = 64 := by
    rw [← hc]; unfold mgrCommand
    rw [List.length_append, leN_length, List.length_drop]
    have : (fit 64 cmd).length = 64 := by
      unfold fit; simp [zeros]
    rw [this]
  have nview : ∀ (m u : State), m.noted u → u.pads = m.pads ∧ u.tack = m.tack ∧ u.pmem = m.pmem ∧ u.rdw = m.rdw ∧ u.now = m.now ∧ u.pci = m.pci :=
    fun m u k => ⟨k.only .pads (by decide), k.only .tack (by decide), k.only .pmem (by decide), k.only .rdw (by decide),
      congrArg Core.tick (k.only .core (by decide)), k.only .pci (by decide)⟩
  have pres : ∀ (u : State), u.pci.vfEnable = s.pci.vfEnable → u.pci.numVfs = s.pci.numVfs → u.pci.pasid = s.pci.pasid → ∀ p, u.padPresent p = s.padPresent p := by
    intro u e1 e2 e3 p; unfold State.padPresent; rw [e1, e2, e3]
  cases v with
  | mailbox =>
    obtain ⟨h1, h2, h3, h4⟩ := h
    dsimp only
    rw [if_neg (by rw [show s.fresh.serving = true from h1, show s.fresh.pwr.link = true from h2, show s.fresh.pci.mgrBusy = false from h3]; decide)]
    unfold State.mgrMailbox
    generalize hm : s.fresh.modPci (fun p => { p with mgrCmd := c, mgrBusy := true }) = m
    have hmo : m.logOpen := by rw [← hm]; exact ho
    have hmc : m.mgrCheck c = s.mgrCheck c := by rw [← hm]; unfold State.mgrCheck State.padPresent State.quotaOk; rfl
    obtain ⟨a1, a2⟩ := State.askManager_facts m { iface := 2, detail := 0, role := 5, code := 0, ref := 0, old := [], new := [], mon := none, fixedStamp := none } none c hmo
    rw [hmc] at a1 a2
    have mv : ∀ u, m.noted u → s.mgrView u .mailbox := by
      intro u k
      obtain ⟨b1, b2, b3, b4, b5, b6⟩ := nview m u k
      exact ⟨by rw [b1, ← hm]; rfl, by rw [b2, ← hm]; rfl, by rw [b3, ← hm]; rfl, by rw [b4, ← hm]; rfl, by rw [b5, ← hm]; rfl,
        pres u (by rw [b6, ← hm]; rfl) (by rw [b6, ← hm]; rfl) (by rw [b6, ← hm]; rfl), by show u.pci.mgrDiscard = false; rw [b6, ← hm]; exact h4⟩
    refine ⟨0, fun z => ⟨m, mv m (State.noted.refl m), a1 z⟩, fun z => ?_, rfl⟩
    obtain ⟨u, k1, k2, k3⟩ := a2 z
    exact ⟨u, mv u k1, k3⟩
  | session r =>
    obtain ⟨x, h1, h2, h3, h4, h5⟩ := h
    dsimp only
    unfold State.writeRow
    unfold State.withApproval
    rw [h2]
    dsimp only
    obtain ⟨m, hm, hd, hs, e⟩ := State.request_ready s.fresh r x 0x11
      (fun s x => (s.modSession x.slot (fun y => { y with staging := none })).writeValue x 0x500001 c) h1
    rw [e]
    obtain ⟨p, q, hq⟩ := hm.dict
    generalize hu : m.modSession x.slot (fun y => { y with staging := none }) = u
    have hn : s.fresh.noted u := by rw [← hu]; exact hm.trans (State.modSession_noted m x.slot (fun y => { y with staging := none }))
    have hy : u.session? x.slot = some { x.begun r 0x11 s.now with staging := none } := by
      rw [← hu]
      refine (State.modSession_session _ _ _ (fun y => by rfl)).trans ?_
      rw [hs]; rfl
    have hud : u = { s.fresh with dict := u.dict } := by
      rw [← hu, hd]; rfl
    have hx1 : (x.begun r 0x11 s.now).role = x.role ∧ (x.begun r 0x11 s.now).chan = x.chan ∧ (x.begun r 0x11 s.now).slot = x.slot := ⟨rfl, rfl, rfl⟩
    have hheld : u.heldCheck x.chan.iface 0x500001 = 0 := by rw [hud]; exact h4
    have hif := State.dictOn_iface h1.2.2.2.1
    show ∃ w, (_ → ∃ z, _ ∧ (m.modSession x.slot (fun y => { y with staging := none })).writeValue (x.begun r 0x11 s.now) 0x500001 c = _) ∧ (_ → ∃ z, _ ∧ (m.modSession x.slot (fun y => { y with staging := none })).writeValue (x.begun r 0x11 s.now) 0x500001 c = _) ∧ _
    rw [hu]
    unfold State.writeValue
    dsimp only
    rw [if_pos rfl, hx1.1, hx1.2.1, hx1.2.2, h3]
    rw [hheld, hlen]
    rw [if_neg (show ¬ (if (!true) = true then stRole else if (0:Nat) ≠ 0 then 0 else if (64:Nat) ≠ 64 then stBadFormat else 0) ≠ 0 by decide), if_neg (show ¬ x.chan.iface = 9 by omega)]
    generalize hw : u.written 0x500001 c = w
    have hwv : w = { s.fresh with dict := w.dict } := by
      rw [← hw, hud]; rfl
    have hwo : w.logOpen := by
      obtain ⟨c1, c2, c3, c4, c5⟩ := ho
      have hv8 : w.overwrites = s.overwrites := by
        have e1 : w.val (mkKey 0x8000 0x05) = s.val (mkKey 0x8000 0x05) := by
          rw [← hw]
          refine (State.setVal_val u 0x500001 (mkKey 0x8000 0x05) c).trans ?_
          rw [if_neg (by decide), ← hu]
          show (getKey m.dict.vals _).getD _ = _
          rw [hq]; rfl
        unfold State.overwrites State.valU; rw [e1]
      have hl : w.log = s.log := by rw [hwv]; rfl
      have hls : w.logState = 0 := by unfold State.logState; rw [hv8, hl]; exact c1
      refine ⟨hls, by rw [hwv]; exact c2, by rw [hl]; exact c3, ?_, by rw [hl]; exact c5⟩
      unfold State.summaryDue
      rw [hls, hl]
      unfold State.summaryDue at c4
      rw [c1] at c4; exact c4
    have hwc : w.mgrCheck c = s.mgrCheck c := by rw [hwv]; unfold State.mgrCheck State.padPresent State.quotaOk; rfl
    have hws : w.session? x.slot = some { x.begun r 0x11 s.now with staging := none } := by
      rw [← hy, ← hw]; unfold State.session? State.written State.setVal; rfl
    obtain ⟨a1, a2⟩ := State.askManager_facts w ((x.begun r 0x11 s.now).desc 0 0 [] []) (some x.slot) c hwo
    rw [hwc] at a1 a2
    have mv : ∀ z, w.noted z → z.dict = w.dict → s.mgrView z (.session r) := by
      intro z k kd
      obtain ⟨b1, b2, b3, b4, b5, b6⟩ := nview w z k
      refine ⟨by rw [b1, hwv]; rfl, by rw [b2, hwv]; rfl, by rw [b3, hwv]; rfl, by rw [b4, hwv]; rfl, by rw [b5, hwv]; rfl,
        pres z (by rw [b6, hwv]; rfl) (by rw [b6, hwv]; rfl) (by rw [b6, hwv]; rfl), x, { x.begun r 0x11 s.now with staging := none }, h1, ?_, rfl, rfl⟩
      rw [← hws]; unfold State.session?; rw [kd]
    refine ⟨x.slot + 1, fun z => ⟨w, mv w (State.noted.refl w) rfl, a1 z⟩, fun z => ?_, fun y hy' => ?_⟩
    · obtain ⟨z1, k1, k2, k3⟩ := a2 z
      exact ⟨z1, mv z1 k1 k2, k3⟩
    · have := h1.2.1.symm.trans hy'.2.1
      cases this; exact ⟨rfl, by omega⟩
theorem State.mgrView.result {s u : State} {v : Via} (h : s.mgrView u v) (p st : Nat) : u.mgrResult p st = s.mgrResult p st := by
  unfold State.mgrResult State.pad? State.pgen State.slotsOwned
  rw [h.pads, h.tack, h.pmem]

/-- The result of a command that has run in `z` reaches its sender. -/
theorem State.mgrView.fin {s u : State} {v : Via} (hv : s.mgrView u v) {w : Nat}
    (hw : s.viaTo w v)
    (z : State) (hp : z.pci = u.pci) (hd : z.dict = u.dict) (p st : Nat) (hs : st < 65536) :
    s.managed (z.mgrEnd w (z.mgrResult p st)) v st ∧
    (v = .mailbox → (z.mgrEnd w (z.mgrResult p st)).pci.mgrResult = z.mgrResult p st) := by
  refine State.mgrEnd_managed s z v w st p hs ?_
  have ht := hv.dest
  cases v with
  | mailbox => exact ⟨hw, by rw [hp]; exact ht⟩
  | session r =>
    obtain ⟨x, y, h1, h2, h3, h4⟩ := ht
    obtain ⟨a, b⟩ := hw x h1
    exact ⟨x, y, h1, by rw [← h2]; unfold State.session?; rw [hd], h3, h4, a, b⟩

theorem State.mgrView.wait {s u : State} {v : Via} (hv : s.mgrView u v) {w : Nat}
    (hw : s.viaTo w v) (q : Pad) (h : w ∈ q.mgrWaits) : s.waits v q := by
  cases v with
  | mailbox => have e : w = 0 := hw; subst e; exact h
  | session r => intro x hx; rw [← (hw x hx).1]; exact h

theorem State.mgrView.pad {s u : State} {v : Via} (h : s.mgrView u v) (p : Nat) : u.pad? p = s.pad? p := by
  unfold State.pad?; rw [h.pads]

theorem State.mgrView.resets {s u t : State} {v : Via} (h : s.mgrView u v) {p : Nat} (hr : u.resets t p) : s.resets t p := by
  refine State.resets_before (fun q hq => ⟨q.streams, ?_⟩) h.now ?_ hr
  · rw [h.pad]; exact hq
  · unfold State.pgen; rw [h.pmem]

theorem State.eraseOwned_keys (s : State) (p : Nat) : ∀ k ∈ (s.eraseOwned p).tack.keys, k ∈ s.tack.keys ∧
    (k.owner = p → k.world.getLsbD 0 = true) := by
  have fold : ∀ (l : List Key) (t : State),
      ∀ k ∈ (l.foldl (fun s k => if k.owner = p ∧ !k.world.getLsbD 0 then s.eraseKey k else s) t).tack.keys, k ∈ t.tack.keys ∧
        ∀ y ∈ l, k = y → ¬ (y.owner = p ∧ (!y.world.getLsbD 0) = true) := by
    intro l
    induction l with
    | nil => intro t k hk; exact ⟨hk, fun y hy => by cases hy⟩
    | cons x l ih =>
      intro t k hk
      rw [List.foldl_cons] at hk
      obtain ⟨j1, j2⟩ := ih _ k hk
      by_cases c : x.owner = p ∧ (!x.world.getLsbD 0) = true
      · rw [if_pos c, State.eraseKey_keys] at j1
        have := List.mem_filter.1 j1
        refine ⟨this.1, fun y hy e => ?_⟩
        rcases List.mem_cons.1 hy with e' | e'
        · subst e'; subst e; simp at this
        · exact j2 y e' e
      · rw [if_neg c] at j1
        refine ⟨j1, fun y hy e => ?_⟩
        rcases List.mem_cons.1 hy with e' | e'
        · subst e'; exact c
        · exact j2 y e' e
  intro k hk
  obtain ⟨a, b⟩ := fold _ _ k hk
  refine ⟨a, fun e => ?_⟩
  have := b k a rfl
  cases h : k.world.getLsbD 0 with
  | true => rfl
  | false => exact absurd ⟨e, by rw [h]; rfl⟩ this

/-- A manager command is refused (R364 to R366). -/
theorem State.manage_refused (s : State) (v : Via) (code : Nat) (cmd : Bytes) (h : s.managerReady v) (ho : s.logOpen)
    (e : s.mgrCheck (mgrCommand code cmd) ≠ 0) :
    (s.fresh.manage v code cmd).pads = s.pads ∧ (s.fresh.manage v code cmd).tack = s.tack ∧
    s.managed (s.fresh.manage v code cmd) v (s.mgrCheck (mgrCommand code cmd)) := by
  obtain ⟨w, h1, -, hw⟩ := State.manage_facts s v code cmd h ho
  obtain ⟨u, hu, e1⟩ := h1 e
  rw [e1]
  obtain ⟨a, b, -⟩ := State.mgrEnd_pads u w (u.mgrResult (uLE (mgrCommand code cmd) 2 2) (s.mgrCheck (mgrCommand code cmd)))
  exact ⟨a.trans hu.pads, b.trans hu.tack, (hu.fin hw u rfl rfl _ _ (State.mgrCheck_lt s _)).1⟩

theorem mgrCommand_code (code : Nat) (cmd : Bytes) (h : code < 256) : u8 (mgrCommand code cmd) 0 = code := by
  have e : uLE (mgrCommand code cmd) 0 1 = code := uLE_head 1 code _ h
  have : u8 (mgrCommand code cmd) 0 = (BitVec.ofNat 8 code).toNat := rfl
  rw [this, BitVec.toNat_ofNat]; omega

/-- An accepted manager command, by its code (R366, R368, R388, R390 to R393). -/
theorem State.manage_accepted (s : State) (v : Via) (code : Nat) (cmd : Bytes) (h : s.managerReady v) (ho : s.logOpen)
    (e : s.mgrCheck (mgrCommand code cmd) = 0) :
    ∃ u w, s.mgrView u v ∧ s.fresh.manage v code cmd = u.mgrApply (mgrCommand code cmd) w ∧
      (∀ z : State, z.pci = u.pci → z.dict = u.dict → ∀ p, s.managed (z.mgrEnd w (z.mgrResult p stOk)) v stOk ∧
        (v = .mailbox → (z.mgrEnd w (z.mgrResult p stOk)).pci.mgrResult = z.mgrResult p stOk)) ∧
      (∀ q : Pad, w ∈ q.mgrWaits → s.waits v q) := by
  obtain ⟨w, -, h1, hw⟩ := State.manage_facts s v code cmd h ho
  obtain ⟨u, hu, e1⟩ := h1 e
  exact ⟨u, w, hu, e1, fun z a b p => hu.fin hw z a b p stOk (by decide), fun q hq => hu.wait hw q hq⟩

theorem State.managed_of {s t t' : State} {v : Via} {st : Nat} (h1 : t'.pci = t.pci) (h2 : t'.out = t.out) (h : s.managed t v st) :
    s.managed t' v st := by
  cases v with
  | mailbox => obtain ⟨a, b⟩ := h; exact ⟨by rw [h1]; exact a, by rw [h1]; exact b⟩
  | session r => obtain ⟨x, a, b⟩ := h; exact ⟨x, a, by rw [h2]; exact b⟩
theorem State.mgrApply_create (s : State) (c : Bytes) (w : Nat) (h : u8 c 0 = 1) : s.mgrApply c w =
    ((s.modPads (insertPad { configOf (padFresh (uLE c 2 2)) c with pasid := uLE c 20 4 })).deriveHamper (uLE c 2 2)).mgrEnd w
      (((s.modPads (insertPad { configOf (padFresh (uLE c 2 2)) c with pasid := uLE c 20 4 })).deriveHamper (uLE c 2 2)).mgrResult (uLE c 2 2) stOk) := by
  unfold State.mgrApply; rw [h]; rfl
theorem State.mgrApply_modify (s : State) (c : Bytes) (w : Nat) (h : u8 c 0 = 2) : s.mgrApply c w =
    ((s.modPad (uLE c 2 2) (fun q => configOf q c)).overQuota (uLE c 2 2)).mgrEnd w
      (((s.modPad (uLE c 2 2) (fun q => configOf q c)).overQuota (uLE c 2 2)).mgrResult (uLE c 2 2) stOk) := by
  unfold State.mgrApply; rw [h]; rfl
theorem State.mgrApply_reset (s : State) (c : Bytes) (w : Nat) (h : u8 c 0 = 3) : s.mgrApply c w =
    (s.resetPads [uLE c 2 2]).modPad (uLE c 2 2) (fun q => { q with mgrWaits := q.mgrWaits ++ [w] }) := by
  unfold State.mgrApply; rw [h]; rfl
theorem State.mgrApply_destroy (s : State) (c : Bytes) (w : Nat) (h : u8 c 0 = 4) : s.mgrApply c w =
    if (match ((s.eraseOwned (uLE c 2 2)).dropHamper (uLE c 2 2)).pad? (uLE c 2 2) with | some q => q.st != .disabled | none => false) = true then
      (((s.eraseOwned (uLE c 2 2)).dropHamper (uLE c 2 2)).resetPad (uLE c 2 2)).modPad (uLE c 2 2) (fun q => { q with destroy := true, mgrWaits := q.mgrWaits ++ [w] })
    else (((s.eraseOwned (uLE c 2 2)).dropHamper (uLE c 2 2)).dropPad (uLE c 2 2)).mgrEnd w ((((s.eraseOwned (uLE c 2 2)).dropHamper (uLE c 2 2)).dropPad (uLE c 2 2)).mgrResult (uLE c 2 2) stOk) := by
  unfold State.mgrApply; rw [h]; rfl
theorem State.mgrApply_query (s : State) (c : Bytes) (w : Nat) (h : u8 c 0 = 5) : s.mgrApply c w =
    (s.mgrEnd w (s.mgrResult (uLE c 2 2) stOk)).modPad (uLE c 2 2) (fun q => { q with sinceQuery := 0 }) := by
  unfold State.mgrApply; rw [h]; rfl
theorem State.mgrApply_start (s : State) (c : Bytes) (w : Nat) (h : u8 c 0 = 6) : s.mgrApply c w =
    (s.modPad (uLE c 2 2) (fun q => { q with
      log := some { base := uLE c 24 8, first := uLE c 32 8, pages := uLE c 40 4, bits := [] } })).mgrEnd w
      ((s.modPad (uLE c 2 2) (fun q => { q with
      log := some { base := uLE c 24 8, first := uLE c 32 8, pages := uLE c 40 4, bits := [] } })).mgrResult (uLE c 2 2) stOk) := by
  unfold State.mgrApply; rw [h]; rfl
theorem State.mgrApply_stop (s : State) (c : Bytes) (w : Nat) (h : u8 c 0 = 7) : s.mgrApply c w =
    ((s.modPad (uLE c 2 2) (fun q => { q with log := none })).mgrEnd w
      ((s.modPad (uLE c 2 2) (fun q => { q with log := none })).mgrResult (uLE c 2 2) stOk)).latch 23 9 := by
  unfold State.mgrApply; rw [h]; rfl
theorem State.mgrApply_drain (s : State) (c : Bytes) (w : Nat) (h : u8 c 0 = 8) : s.mgrApply c w =
    ((s.modPad (uLE c 2 2) (fun q => { q with log := q.log.map (fun l =>
      if uLE c 24 8 = 0 then l else { l with base := uLE c 24 8, bits := [] }) })).mgrEnd w
      ((s.modPad (uLE c 2 2) (fun q => { q with log := q.log.map (fun l =>
      if uLE c 24 8 = 0 then l else { l with base := uLE c 24 8, bits := [] }) })).mgrResult (uLE c 2 2) stOk)).latch 23 9 := by
  unfold State.mgrApply; rw [h]; rfl

end Sys2Proof.Machine
end

