-- ==== Sys2Proof/Laws/Effects.lean ====
section
/-! SUPPORT. What the shared operations and the single commands do to the fields that the statements speak of: windows, Logbook entries, registers, the stack and the Shed. -/

set_option maxRecDepth 10000
set_option linter.unusedVariables false
set_option linter.unusedSimpArgs false

namespace Sys2Proof.Machine

open Sys2Proof

theorem State.modWindow_window (s : State) (w : Bool) (f : Rdw → Rdw) : (s.modWindow w f).window w = f (s.window w) := by
  cases w <;> rfl
theorem State.modWindow_other (s : State) (w : Bool) (f : Rdw → Rdw) : (s.modWindow w f).window (!w) = s.window (!w) := by
  cases w <;> rfl
theorem State.modWindow_core (s : State) (w : Bool) (f : Rdw → Rdw) : (s.modWindow w f).core = s.core ∧ (s.modWindow w f).jobs = s.jobs ∧
    (s.modWindow w f).nextJob = s.nextJob ∧ (s.modWindow w f).now = s.now := by
  cases w <;> exact ⟨rfl, rfl, rfl, rfl⟩

/-- A window whose job is dropped is otherwise as before (R271). -/
theorem State.windowDrop_facts (s : State) (w : Bool) :
    (s.windowDrop w).window w = { s.window w with job := none } ∧ (s.windowDrop w).window (!w) = s.window (!w) ∧
    (s.windowDrop w).core = s.core := by
  have hc := State.windowDrop_only (L := [.yard, .jobs, .pads, .rdw, .rdwSc]) s w (List.Subset.refl _) (State.only_refl _ s) .core (by decide)
  suffices h : ∀ m : State, (∀ b, m.window b = s.window b) → (m.modWindow w (fun r => { r with job := none })).window w = { s.window w with job := none } ∧
      (m.modWindow w (fun r => { r with job := none })).window (!w) = s.window (!w) by
    have : ∃ m : State, (∀ b, m.window b = s.window b) ∧ s.windowDrop w = m.modWindow w (fun r => { r with job := none }) := by
      unfold State.windowDrop
      refine ⟨_, fun b => ?_, rfl⟩
      have ha : ∀ id, (s.abortJob id none).window b = s.window b := by
        intro id
        have o := State.abortJob_only (L := [.yard, .jobs, .pads]) s id none (List.Subset.refl _) (State.only_refl _ s)
        unfold State.window
        rw [show (s.abortJob id none).rdw = _ from o .rdw (by decide), show (s.abortJob id none).rdwSc = _ from o .rdwSc (by decide)]
      split
      · split
        · exact ha _
        · rfl
      · rfl
    obtain ⟨m, hm, e⟩ := this
    obtain ⟨a, b⟩ := h m hm
    exact ⟨by rw [e]; exact a, by rw [e]; exact b, hc⟩
  intro m hm
  exact ⟨by rw [State.modWindow_window, hm], by rw [State.modWindow_other, hm]⟩

/-- A window's message fails (R272). -/
theorem State.windowFail_facts (s : State) (w : Bool) (code : Nat) :
    (s.windowFail w code).window w = { s.window w with job := none, st := 3, code := code, result := zeros 64 } ∧
    (s.windowFail w code).window (!w) = s.window (!w) := by
  obtain ⟨a, b, -⟩ := State.windowDrop_facts s w
  unfold State.windowFail
  exact ⟨by rw [State.modWindow_window, a], by rw [State.modWindow_other, b]⟩

/-- A window's message gets its job (R274, R275). -/
theorem State.windowJob_facts (s : State) (w : Bool) : ∃ j, (s.windowJob w).window w = { s.window w with job := some j.id } ∧
    (s.windowJob w).jobs = s.jobs ++ [j] ∧ j.src = .window w ∧ (s.windowJob w).window (!w) = s.window (!w) ∧
    j.op = 0x40 + b2n (s.window w).keyed + 2 * b2n (s.window w).compare ∧ j.srcLen = (s.window w).length ∧
    j.data = (s.window w).msg ++ (if (s.window w).compare then (s.window w).expect.take (s.window w).expLen else []) := by
  unfold State.windowJob
  extract_lets r group j0 j1 j2 j3 m
  have h3 : j3.src = j1.src ∧ j3.op = j1.op ∧ j3.srcLen = j1.srcLen ∧ j3.data = j1.data := by
    obtain ⟨a, b, c, d, e, h⟩ := State.shape_form s j1
    have h2 : j2.src = j1.src ∧ j2.op = j1.op ∧ j2.srcLen = j1.srcLen ∧ j2.data = j1.data := by
      rw [show j2 = _ from h]; exact ⟨rfl, rfl, rfl, rfl⟩
    show (if w = true then _ else _ : Job).src = _ ∧ (if w = true then _ else _ : Job).op = _ ∧ (if w = true then _ else _ : Job).srcLen = _ ∧ (if w = true then _ else _ : Job).data = _
    cases w <;> exact h2
  have hm : ∀ b, m.window b = s.window b := fun b => by cases b <;> rfl
  refine ⟨j3, ?_, ?_, h3.1, ?_, h3.2.1, h3.2.2.1, h3.2.2.2⟩
  · rw [State.modWindow_window, hm]
  · rw [(State.modWindow_core _ _ _).2.1]; rfl
  · rw [State.modWindow_other, hm]
theorem Rdw.refusal_zero (r : Rdw) (h : r.refusal = 0) : ¬ 2 ^ 32 < r.length ∧ ¬ r.alg = 0 ∧ ¬ (r.compare = true ∧ r.expOk = false) := by
  unfold Rdw.refusal at h
  by_cases a : 2 ^ 32 < r.length
  · rw [if_pos a] at h; exact absurd h (by decide)
  · rw [if_neg a] at h
    by_cases b : r.alg = 0
    · rw [if_pos b] at h; exact absurd h (by decide)
    · rw [if_neg b] at h
      by_cases c : r.compare = true ∧ r.expOk = false
      · rw [if_pos c] at h; exact absurd h (by decide)
      · exact ⟨a, b, c⟩
theorem State.refusedSummaries_idle (s : State) (h : ∀ n, (s.port n).refSealed = 0) : s.refusedSummaries = s := by
  unfold State.refusedSummaries
  generalize List.range 4 = l
  induction l with
  | nil => rfl
  | cons n l ih => rw [List.foldl_cons, if_pos (h n)]; exact ih

theorem State.logLatches_idle (s : State) (h : ∀ n, (s.port n).refSealed = 0) : ∃ a b, s.logLatches.log = { s.log with warned := a, stSeen := b } := by
  unfold State.logLatches
  extract_lets st low s1 s2 s3
  have h1 : s1.log = s.log ∧ s1.ports = s.ports := by unfold s1; split <;> exact ⟨rfl, rfl⟩
  have h2 : s2.log = s.log ∧ s2.ports = s.ports := by unfold s2; split; exact h1; exact h1
  have h3 : ∃ b, s3.log = { s.log with warned := b, stSeen := st } := by
    refine ⟨decide low, (show s3.log = { s2.log with warned := decide low, stSeen := st } from rfl).trans ?_⟩
    rw [h2.1]
  obtain ⟨b, h3⟩ := h3
  have h4 : ∀ n, (s3.port n).refSealed = 0 := by
    intro n; rw [← h n]; unfold State.port; rw [show s3.ports = s.ports from h2.2]
  split
  · exact ⟨_, _, h3⟩
  · rw [State.refusedSummaries_idle s3 h4]; exact ⟨_, _, h3⟩

theorem Log.append_form (l : Log) (e : Bytes) : ∃ a b, l.append e =
    { l with entries := (l.entries ++ [e]).drop (l.entries.length + 1 - ringSize), headA := a, headB := b } := by
  unfold Log.append
  dsimp only
  repeat' split
  all_goals exact ⟨_, _, rfl⟩

/-- An entry is put into a ring with room, and no refused command awaits its summary (R445). -/
theorem State.ringPut_idle (s : State) (mk : Log → Bytes) (h : ∀ n, (s.port n).refSealed = 0) (hr : s.log.room ≠ 0) :
    (s.ringPut mk).log.due = s.log.due ∧ (s.ringPut mk).log.unlogged = s.log.unlogged ∧
    (s.ringPut mk).log.entries = (s.log.entries ++ [mk s.log]).drop (s.log.entries.length + 1 - ringSize) ∧
    (s.ringPut mk).log.head = s.log.head + 1 := by
  have hh := State.ringPut_head s mk
  obtain ⟨ha, hb, hf⟩ := Log.append_form s.log (mk s.log)
  have key : ∃ a b w, (s.ringPut mk).log = { s.log with entries := (s.log.entries ++ [mk s.log]).drop (s.log.entries.length + 1 - ringSize), headA := ha, headB := hb, written := s.log.written + 1, sinceCkpt := w, warned := a, stSeen := b } := by
    unfold State.ringPut
    extract_lets ov s1 s2 s3
    have e1 : s1 = s := if_neg hr
    obtain ⟨a, b, e⟩ := State.logLatches_idle s2 (fun n => by rw [← h n, ← e1]; rfl)
    refine ⟨a, b, s.log.sinceCkpt + 1, ?_⟩
    rw [if_neg (fun c => hr c.1)]
    refine (show s3.log = { s2.log with warned := a, stSeen := b } from e).trans ?_
    have e2 : s2.log = { (s1.log.append (mk s1.log)) with written := s1.log.written + 1, sinceCkpt := s1.log.sinceCkpt + 1 } := rfl
    rw [e2, e1, hf]
  obtain ⟨a, b, w, e⟩ := key
  exact ⟨by rw [e], by rw [e], by rw [e], hh⟩

/-- An event that is due is written (R443, R444). -/
theorem State.writeDue_event (s : State) (d : LogDue) (h1 : s.logBlocked = false) (h2 : s.log.written < 4) (h3 : s.log.unlogged = 0)
    (h4 : s.logState ≠ 2) (h5 : s.log.room ≠ 0) (h6 : s.log.due = [d]) (h7 : d.eff = .none) (h8 : d.desc.mon = none)
    (h9 : ∀ n, (s.port n).refSealed = 0) :
    (State.writeDue 2 s).log.due = [] ∧ (State.writeDue 2 s).log.head = s.log.head + 1 ∧
    (State.writeDue 2 s).log.entries = (s.log.entries ++ [s.log.entryBytes d.desc]).drop (s.log.entries.length + 1 - ringSize) := by
  have hsd : ∀ m : State, m.log.unlogged = 0 → m.summaryDue = false := by
    intro m hm; unfold State.summaryDue; rw [hm]; rfl
  generalize hm : s.modLog (fun l => { l with due := [] }) = m
  have mo : m.only [] m := State.only_refl _ _
  have hml : m.log = { s.log with due := [] } := by rw [← hm]; rfl
  have hmp : ∀ n, (m.port n).refSealed = 0 := by intro n; rw [← h9 n, ← hm]; rfl
  have hmr : m.log.room ≠ 0 := by rw [hml]; exact h5
  obtain ⟨a, b, c, e⟩ := State.ringPut_idle m (fun l => l.entryBytes d.desc) hmp hmr
  have hw : m.writeEvent d.desc = m.ringPut (fun l => l.entryBytes d.desc) := by
    have hu : m.log.unlogged = 0 := by rw [hml]; exact h3
    have hs : m.logState ≠ 2 := by
      have : m.logState = s.logState := by rw [← hm]; rfl
      rw [this]; exact h4
    have hsum : m.summarise = m := by
      unfold State.summarise
      rw [if_neg (fun q => by have := q.1; omega)]
    unfold State.writeEvent
    rw [hsum]
    dsimp only
    rw [if_neg hs, h8]
  have step : State.writeDue 2 s = State.writeDue 1 (m.writeEvent d.desc) := by
    rw [State.writeDue, if_neg (by rw [h1]; simp; omega), hsd s h3, if_neg (by decide), h6]
    dsimp only
    rw [if_pos h7, hm]
  have last : State.writeDue 1 (m.writeEvent d.desc) = m.writeEvent d.desc := by
    rw [hw]
    rw [State.writeDue]
    split
    · rfl
    · rw [hsd _ (by rw [b, hml]; exact h3), if_neg (by decide), a, hml]
  rw [step, last, hw]
  refine ⟨by rw [a, hml], by rw [e, hml]; rfl, ?_⟩
  rw [c, hml]; rfl
/-- A 4-byte write to the PF's registers outside the paddock pages (R518, R521, R522). -/
theorem State.barWrite_pf (s : State) (off : Nat) (d : Bytes) (hl : s.pwr.link = true) (hd : d.length = 4) (h4 : off % 4 = 0)
    (h : off < 0x100000) : s.barWrite 0 off d = s.writePf off d := by
  have hp : pageOf 0 off = none := by
    unfold pageOf
    rw [if_neg (by simp), if_neg (by omega), if_neg (by omega)]
  unfold State.barWrite
  dsimp only
  rw [if_neg (by rw [hl]; simp), if_neg (by rw [hp]; simp), if_pos ⟨hd, h4⟩, if_neg (by decide)]
  unfold State.writeReg
  rw [if_neg (by omega), hp]
  rfl

/-- A 4-byte write to a Register Digest Window's register (R270, R275, R521). -/
theorem State.barWrite_rdw (s : State) (w : Bool) (o : Nat) (d : Bytes) (hw : s.windowOpen w = true) (hd : d.length = 4)
    (h4 : o % 4 = 0) (h : o < 0x10000) :
    s.barWrite (if w then 256 else 0) ((if w then 0 else 0x20000) + o) d = s.writeRdw w o d := by
  cases w with
  | false =>
    have hl : s.pwr.link = true := hw
    show s.barWrite 0 (0x20000 + o) d = _
    rw [State.barWrite_pf s _ d hl hd (by omega) (by omega)]
    unfold State.writePf
    dsimp only
    rw [show (0x20000 + o) / 65536 = 2 by omega, show (0x20000 + o) % 65536 = o by omega]
    rfl
  | true =>
    show s.barWrite 256 (0 + o) d = _
    rw [Nat.zero_add]
    unfold State.barWrite
    dsimp only
    rw [if_neg (fun c => c.1 rfl), if_neg (by simp), if_pos ⟨hd, h4⟩, if_pos rfl]

/-- A 4-byte write to a register of a paddock page (R369, R372, R518 to R521). -/
theorem State.barWrite_page (s : State) (p o : Nat) (d : Bytes) (hl : s.pwr.link = true) (hd : d.length = 4) (h4 : o % 4 = 0)
    (hp : p < 288) (hv : 1 ≤ p → p < 256 → s.padPresent p = true) (h : 0x1000 ≤ o) (h2 : o < 0x10000) :
    s.barWrite (if 1 ≤ p ∧ p < 256 then p else 0)
      ((if p = 0 then 0x100000 else if p < 256 then 0 else 0x200000 + 65536 * (p - 256)) + o) d = s.writePage p o d := by
  have key : ∀ fn off, pageOf fn off = some (p, o) → off % 4 = 0 → off < 2 ^ 24 → fn < 256 → (fn ≠ 0 → s.padPresent fn = true) →
      s.barWrite fn off d = s.writePage p o d := by
    intro fn off e1 e2 e3 e4 e5
    unfold State.barWrite
    dsimp only
    rw [if_neg, if_neg (by rw [e1]; simp; omega), if_pos ⟨hd, e2⟩, if_neg (by omega)]
    · unfold State.writeReg
      rw [if_neg (by omega), e1]
    · rw [hl]
      by_cases c : fn = 0
      · subst c; simp
      · rw [e5 c]; simp; intro; omega
  by_cases c0 : p = 0
  · subst c0
    rw [if_neg (by omega), if_pos rfl]
    apply key
    · unfold pageOf; rw [if_neg (by simp), if_pos (by omega), show 0x100000 + o - 0x100000 = o by omega]
    · omega
    · omega
    · omega
    · intro c; exact absurd rfl c
  · by_cases c1 : p < 256
    · rw [if_pos ⟨by omega, c1⟩, if_neg c0, if_pos c1, Nat.zero_add]
      apply key
      · unfold pageOf; rw [if_pos c0, if_pos h2]
      · exact h4
      · omega
      · exact c1
      · intro _; exact hv (by omega) c1
    · rw [if_neg (by omega), if_neg c0, if_neg c1]
      apply key
      · unfold pageOf
        rw [if_neg (by simp), if_neg (by omega), if_pos (by omega)]
        rw [show 256 + (0x200000 + 65536 * (p - 256) + o - 0x200000) / 65536 = p by omega, show (0x200000 + 65536 * (p - 256) + o) % 65536 = o by omega]
      · omega
      · omega
      · omega
      · intro c; exact absurd rfl c
theorem State.endJob_wholes (s : State) (id st at_ : Nat) (h : ∀ k ∈ s.jobs, k.src.whole = true) :
    (∀ k ∈ (s.endJob id st at_).jobs, k.src.whole = true) ∧ (∀ i, i ≠ id → (s.endJob id st at_).job? i = s.job? i) := by
  unfold State.endJob
  cases hj : s.job? id with
  | none => exact ⟨h, fun _ _ => rfl⟩
  | some j =>
    dsimp only
    have hw : j.src.whole = true := h j (List.mem_of_find?_eq_some hj)
    generalize hu : (if j.held = true then s.modYard (fun y => { y with ctxReserve := y.ctxReserve - 1 }) else s) = u
    have hjs : u.jobs = s.jobs := by rw [← hu]; split <;> rfl
    have hq : ∀ i, u.job? i = s.job? i := by intro i; unfold State.job?; rw [hjs]
    split
    · rename_i q; rw [q] at hw; cases hw
    · refine ⟨fun k hk => ?_, fun i hi => ?_⟩
      · obtain ⟨k', hk', e⟩ := List.mem_map.1 hk
        rw [hjs] at hk'
        split at e <;> rw [← e] <;> exact h k' hk'
      · rw [State.modJob_job _ _ _ (fun j => by rfl), if_neg hi, hq]

/-- Several jobs end (R410). -/
theorem State.endJobs_facts (l : List Job) (st : Nat) : ∀ (s : State), (∀ k ∈ s.jobs, k.src.whole = true) → ∀ (id : Nat) (y : Job),
    s.job? id = some y → ∃ z, (l.foldl (fun s j => s.endJob j.id st (s.now + 1)) s).job? id = some z ∧
      ((∀ j ∈ l, j.id ≠ id) → z = y) ∧
      ((∃ j ∈ l, j.id = id) ∨ (y.status = some st ∧ y.settled = true ∧ y.completeAt = some (s.now + 1)) →
        z.status = some st ∧ z.settled = true ∧ z.completeAt = some (s.now + 1)) := by
  induction l with
  | nil =>
    intro s _ id y h
    refine ⟨y, h, fun _ => rfl, fun c => ?_⟩
    rcases c with ⟨j, hj, -⟩ | c
    · cases hj
    · exact c
  | cons a l ih =>
    intro s hw id y h
    rw [List.foldl_cons]
    obtain ⟨w1, w2⟩ := State.endJob_wholes s a.id st (s.now + 1) hw
    have hn : (s.endJob a.id st (s.now + 1)).now = s.now :=
      congrArg Core.tick (State.endJob_only s a.id st (s.now + 1) (List.Subset.refl _) (State.only_refl _ s) .core (by decide))
    by_cases e : id = a.id
    · have hy := State.endJob_job s id st (s.now + 1) y h (hw y (List.mem_of_find?_eq_some h))
      rw [e] at hy
      obtain ⟨z, h1, h2, h3⟩ := ih _ w1 a.id _ hy
      rw [hn] at h3
      refine ⟨z, by rw [e]; exact h1, fun c => absurd e.symm (c a (List.mem_cons_self ..)), fun _ => ?_⟩
      exact h3 (.inr ⟨rfl, rfl, rfl⟩)
    · have hy : (s.endJob a.id st (s.now + 1)).job? id = some y := by rw [w2 id e]; exact h
      obtain ⟨z, h1, h2, h3⟩ := ih _ w1 id y hy
      rw [hn] at h3
      refine ⟨z, h1, fun c => h2 (fun j hj => c j (List.mem_cons_of_mem _ hj)), fun c => h3 ?_⟩
      rcases c with ⟨j, hj, k⟩ | c
      · rcases List.mem_cons.1 hj with q | q
        · subst q; exact absurd k.symm e
        · exact .inl ⟨j, q, k⟩
      · exact .inr c
theorem floorOf_facts : (∀ (f : BitVec 255) (k : Nat), k < 255 → f.getLsbD k = true → k + 1 ≤ floorOf f) ∧
    (∀ f : BitVec 255, floorOf f ≠ 0 → f.getLsbD (floorOf f - 1) = true) ∧ (∀ f : BitVec 255, floorOf f ≤ 255) := by
  have key : ∀ (f : BitVec 255) (n : Nat),
      (∀ k, k < n → f.getLsbD k = true → k + 1 ≤ (List.range n).foldl (fun a k => if f.getLsbD k then k + 1 else a) 0) ∧
      ((List.range n).foldl (fun a k => if f.getLsbD k then k + 1 else a) 0 ≠ 0 →
        f.getLsbD ((List.range n).foldl (fun a k => if f.getLsbD k then k + 1 else a) 0 - 1) = true) ∧
      (List.range n).foldl (fun a k => if f.getLsbD k then k + 1 else a) 0 ≤ n := by
    intro f n
    induction n with
    | zero => exact ⟨fun k h => absurd h (by omega), fun h => absurd rfl h, Nat.le_refl _⟩
    | succ n ih =>
      obtain ⟨i1, i2, i3⟩ := ih
      rw [List.range_succ, List.foldl_append]
      simp only [List.foldl_cons, List.foldl_nil]
      by_cases h : f.getLsbD n = true
      · rw [if_pos h]
        exact ⟨fun k hk _ => by omega, fun _ => by simpa using h, by omega⟩
      · rw [if_neg h]
        refine ⟨fun k hk hb => ?_, i2, by omega⟩
        have : k ≠ n := fun e => h (by rw [← e]; exact hb)
        exact i1 k (by omega) hb
  exact ⟨fun f k => (key f 255).1 k, fun f => (key f 255).2.1, fun f => (key f 255).2.2⟩

/-- A byte read after a write: a written one is the byte written, any other is as before. -/
theorem memRead_write (m : List Host.Cell) (a k : Nat) (b : Bytes) :
    memRead (memWrite m a b) k = if a ≤ k ∧ k < a + b.length then b.getD (k - a) 0 else memRead m k := by
  have hc : ∀ (b : Bytes) (a : Nat), (memCells a b).find? (fun c => c.1 == k) =
      if a ≤ k ∧ k < a + b.length ∧ b.getD (k - a) 0 ≠ 0 then some (k, b.getD (k - a) 0) else none := by
    intro b
    induction b with
    | nil => intro a; rw [if_neg (by simp)]; rfl
    | cons x r ih =>
      intro a
      have key : ∀ h : a < k, (x :: r).getD (k - a) 0 = r.getD (k - (a + 1)) 0 := by
        intro h
        rw [show k - a = (k - (a + 1)) + 1 by omega, List.getD_cons_succ]
      unfold memCells
      by_cases hk : k = a
      · subst hk
        rw [Nat.sub_self, List.getD_cons_zero]
        split
        · next z => rw [ih, if_neg (by omega), if_neg (by simp [z])]
        · next z => rw [List.find?_cons_of_pos (by simp), if_pos ⟨Nat.le_refl _, by simp, z⟩]
      · have e : (a + 1 ≤ k ∧ k < a + 1 + r.length ∧ r.getD (k - (a + 1)) 0 ≠ 0) ↔
            (a ≤ k ∧ k < a + (x :: r).length ∧ (x :: r).getD (k - a) 0 ≠ 0) := by
          rw [List.length_cons]
          constructor
          · rintro ⟨h1, h2, h3⟩; exact ⟨by omega, by omega, by rw [key (by omega)]; exact h3⟩
          · rintro ⟨h1, h2, h3⟩; exact ⟨by omega, by omega, by rw [← key (by omega)]; exact h3⟩
        have e2 : (memCells (a + 1) r).find? (fun c => c.1 == k) =
            if a ≤ k ∧ k < a + (x :: r).length ∧ (x :: r).getD (k - a) 0 ≠ 0 then some (k, (x :: r).getD (k - a) 0) else none := by
          rw [ih]
          by_cases h : a ≤ k ∧ k < a + (x :: r).length ∧ (x :: r).getD (k - a) 0 ≠ 0
          · rw [if_pos h, if_pos (e.mpr h), key (by omega)]
          · rw [if_neg h, if_neg (fun q => h (e.mp q))]
        split
        · exact e2
        · rw [List.find?_cons_of_neg (by simpa using Ne.symm hk)]; exact e2
  have f1 : (m.filter (fun c => c.1 < a)).find? (fun c => c.1 == k) = if k < a then m.find? (fun c => c.1 == k) else none := by
    rw [List.find?_filter]
    split
    · next h => congr 1; funext c; by_cases q : c.1 = k <;> simp [q, h]
    · next h => rw [List.find?_eq_none]; intro c _; simp; omega
  have f2 : (m.filter (fun c => a + b.length ≤ c.1)).find? (fun c => c.1 == k) = if a + b.length ≤ k then m.find? (fun c => c.1 == k) else none := by
    rw [List.find?_filter]
    split
    · next h => congr 1; funext c; by_cases q : c.1 = k <;> simp [q, h]
    · next h => rw [List.find?_eq_none]; intro c _; simp; omega
  unfold memRead memWrite
  rw [List.find?_append, List.find?_append, f1, f2, hc]
  by_cases h1 : k < a
  · rw [if_pos h1, if_neg (by omega), if_neg (by omega), if_neg (by omega)]
    cases m.find? (fun c => c.1 == k) <;> rfl
  · by_cases h2 : a + b.length ≤ k
    · rw [if_neg h1, if_neg (by omega), if_pos h2, if_neg (by omega)]
      cases m.find? (fun c => c.1 == k) <;> rfl
    · rw [if_neg h1, if_neg h2, if_pos (show a ≤ k ∧ k < a + b.length by omega)]
      by_cases z : b.getD (k - a) 0 = 0
      · rw [if_neg (by simp only [z]; simp), z]; rfl
      · rw [if_pos ⟨by omega, by omega, z⟩]; rfl

theorem totalBefore_step (rs : List Region) (i j : Nat) (r : Region) (hi : rs[i]? = some r) (h1 : r.cls = 1) (hij : i < j) :
    totalBefore rs i 1 + r.len ≤ totalBefore rs j 1 := by
  have mono : ∀ (l : List Region) (a : Nat), a ≤ l.foldl (fun a r => if r.cls = 1 then a + r.len else a) a := by
    intro l
    induction l with
    | nil => intro a; exact Nat.le_refl _
    | cons x l ih =>
      intro a; rw [List.foldl_cons]
      refine Nat.le_trans ?_ (ih _)
      split <;> omega
  unfold totalBefore regionTotal
  obtain ⟨d, rfl⟩ := Nat.exists_eq_add_of_lt hij
  have e : rs.take (i + d + 1) = rs.take i ++ [r] ++ (rs.drop (i + 1)).take d := by
    have h2 : i < rs.length := by
      rcases Nat.lt_or_ge i rs.length with h | h
      · exact h
      · rw [List.getElem?_eq_none h] at hi; cases hi
    have h3 : rs[i] = r := by rw [List.getElem?_eq_getElem h2] at hi; exact Option.some.inj hi
    rw [show i + d + 1 = (i + 1) + d by omega, List.take_add, ← h3]
    rw [List.take_succ_eq_append_getElem h2]
  rw [e, List.foldl_append, List.foldl_append]
  refine Nat.le_trans ?_ (mono _ _)
  rw [List.foldl_cons, List.foldl_nil, if_pos h1]

theorem totalBefore_le (rs : List Region) (i : Nat) (r : Region) (hi : rs[i]? = some r) (h1 : r.cls = 1) :
    totalBefore rs i 1 + r.len ≤ regionTotal rs 1 := by
  have h2 : i < rs.length := by
    rcases Nat.lt_or_ge i rs.length with h | h
    · exact h
    · rw [List.getElem?_eq_none h] at hi; cases hi
  have := totalBefore_step rs i rs.length r hi h1 h2
  unfold totalBefore at this
  rw [List.take_length] at this
  exact this

theorem manRegions_get (m : Bytes) (k : Nat) (h : k < manCount m) : (manRegions m)[k]? = some (manRegion m k) := by
  unfold manRegions
  rw [List.getElem?_map, List.getElem?_range h]; rfl

/-- One region of a fill. -/
theorem fill_one (s : State) (n : Nat) (key : Bytes) (x : Slot) (m : Bytes) (rs : List Region) (p : Nat × Bytes) (a : Nat) :
    let t := if (manRegion m p.1).cls = 1 then s.modShed (fun l => memWrite l ((s.port n).shedBase + totalBefore rs p.1 1) p.2)
      else s.modTagTable (fun t => tagsWrite t ((s.port n).tagBase + totalBefore rs p.1 2 / 256)
        (regionTags key n (s.regionFlash n (some x) (manRegion m p.1)).1 p.1 (s.regionFlash n (some x) (manRegion m p.1)).2 p.2))
    t.ports = s.ports ∧ t.dict = s.dict ∧ memRead t.shed a =
      if (manRegion m p.1).cls = 1 ∧ (s.port n).shedBase + totalBefore rs p.1 1 ≤ a ∧ a < (s.port n).shedBase + totalBefore rs p.1 1 + p.2.length
      then p.2.getD (a - ((s.port n).shedBase + totalBefore rs p.1 1)) 0 else memRead s.shed a := by
  dsimp only
  by_cases h : (manRegion m p.1).cls = 1
  · rw [if_pos h]
    refine ⟨rfl, rfl, ?_⟩
    show memRead (memWrite s.shed _ p.2) a = _
    rw [memRead_write]
    by_cases g : (s.port n).shedBase + totalBefore rs p.1 1 ≤ a ∧ a < (s.port n).shedBase + totalBefore rs p.1 1 + p.2.length
    · rw [if_pos g, if_pos ⟨h, g⟩]
    · rw [if_neg g, if_neg (fun q => g q.2)]
  · rw [if_neg h]
    exact ⟨rfl, rfl, by rw [if_neg (fun q => h q.1)]; rfl⟩

/-- The regions that an image fill writes: the state after a list of regions. -/
def fillWith (n : Nat) (key : Bytes) (x : Slot) (m : Bytes) (s : State) (kd : Nat × Bytes) : State :=
  if (manRegion m kd.1).cls = 1 then
    s.modShed (fun l => memWrite l ((s.port n).shedBase + totalBefore (manRegions m) kd.1 1) kd.2)
  else
    s.modTagTable (fun t => tagsWrite t ((s.port n).tagBase + totalBefore (manRegions m) kd.1 2 / 256)
      (regionTags key n (s.regionFlash n (some x) (manRegion m kd.1)).1 kd.1 (s.regionFlash n (some x) (manRegion m kd.1)).2 kd.2))

theorem fill_all (n : Nat) (key : Bytes) (x : Slot) (m : Bytes) (L : List (Nat × Bytes)) :
    ∀ s : State, (∀ p ∈ L, p.1 < manCount m ∧ p.2.length = (manRegion m p.1).len) → L.Pairwise (fun p q => p.1 < q.1) →
    (∀ p ∈ L, (manRegion m p.1).cls = 1 → ∀ i, i < p.2.length →
      memRead (L.foldl (fillWith n key x m) s).shed ((s.port n).shedBase + totalBefore (manRegions m) p.1 1 + i) = p.2.getD i 0) ∧
    (∀ a, (∀ p ∈ L, (manRegion m p.1).cls = 1 → ¬((s.port n).shedBase + totalBefore (manRegions m) p.1 1 ≤ a ∧
        a < (s.port n).shedBase + totalBefore (manRegions m) p.1 1 + p.2.length)) →
      memRead (L.foldl (fillWith n key x m) s).shed a = memRead s.shed a) := by
  induction L with
  | nil => intro s _ _; exact ⟨fun p h => absurd h (by simp), fun a _ => rfl⟩
  | cons q L ih =>
    intro s hb hp
    have one := fun a => fill_one s n key x m (manRegions m) q a
    have hpo : (fillWith n key x m s q).port n = s.port n := by
      unfold State.port; rw [show (fillWith n key x m s q).ports = s.ports from (one 0).1]
    obtain ⟨i1, i2⟩ := ih (fillWith n key x m s q) (fun p h => hb p (List.mem_cons_of_mem _ h)) (List.pairwise_cons.mp hp).2
    rw [hpo] at i1 i2
    refine ⟨fun p h hc i hi => ?_, fun a ha => ?_⟩
    · rcases List.mem_cons.mp h with e | h
      · subst e
        rw [List.foldl_cons, i2 _ (fun r hr hrc => ?_)]
        · have o := (one ((s.port n).shedBase + totalBefore (manRegions m) p.1 1 + i)).2.2
          refine o.trans ?_
          rw [if_pos ⟨hc, by omega, by omega⟩]
          congr 1; omega
        · have hlt := (List.pairwise_cons.mp hp).1 r hr
          have := totalBefore_step (manRegions m) p.1 r.1 _ (manRegions_get m p.1 (hb p List.mem_cons_self).1) hc hlt
          have := (hb p List.mem_cons_self).2
          omega
      · exact i1 p h hc i hi
    · rw [List.foldl_cons, i2 a (fun p h hc => ha p (List.mem_cons_of_mem _ h) hc)]
      refine ((one a).2.2).trans ?_
      rw [if_neg (fun g => ha q List.mem_cons_self g.1 g.2)]

theorem fillPort_eq (s : State) (n : Nat) (x : Slot) (l : List Bytes) :
    s.fillPort n x l = ((imageIndexes (s.manifest n x)).zip l).foldl (fillWith n (s.port n).tagSecret x (s.manifest n x)) s := rfl

/-- What was read of an image that passes has the lengths of its regions. -/
theorem sourceReason_lengths (s : State) (n : Nat) (x : Slot) (l : List Bytes) (h : s.sourceReason n x (some l) = 0) :
    ∀ p ∈ (imageIndexes (s.manifest n x)).zip l, p.1 < manCount (s.manifest n x) ∧
      p.2.length = (manRegion (s.manifest n x) p.1).len := by
  unfold State.sourceReason at h
  dsimp only at h
  split at h
  · cases h
  split at h
  · cases h
  · split at h
    · cases h
    · split at h
      · cases h
      · split at h
        · next g =>
          have e : imageRegions (s.manifest n x) = (imageIndexes (s.manifest n x)).map (manRegion (s.manifest n x)) := rfl
          rw [e] at g
          intro p hp
          have hi := List.of_mem_zip hp
          refine ⟨List.mem_range.mp (List.mem_filter.mp hi.1).1, ?_⟩
          obtain ⟨i, hlt, hv⟩ := List.getElem_of_mem hp
          rw [List.getElem_zip] at hv
          have a := List.all_eq_true.mp g.2
          rw [List.length_zip] at hlt
          have b := a _ (List.getElem_mem (l := List.zipWith _ _ _) (n := i) (by rw [List.length_zipWith, List.length_map]; exact hlt))
          rw [List.getElem_zipWith, List.getElem_map] at b
          have e1 := congrArg Prod.fst hv; have e2 := congrArg Prod.snd hv
          dsimp only at e1 e2
          rw [e1, e2] at b
          simp only [id, Bool.and_eq_true, beq_iff_eq] at b
          exact b.1
        · cases h

theorem imageIndexes_rise (m : Bytes) (l : List Bytes) : ((imageIndexes m).zip l).Pairwise (fun p q => p.1 < q.1) := by
  have a : (imageIndexes m).Pairwise (· < ·) := List.Pairwise.filter _ List.pairwise_lt_range
  generalize imageIndexes m = r at a
  induction r generalizing l with
  | nil => exact List.Pairwise.nil
  | cons x r ih =>
    cases l with
    | nil => exact List.Pairwise.nil
    | cons y l =>
      have b := List.pairwise_cons.mp a
      exact List.pairwise_cons.mpr ⟨fun q hq => b.1 _ (List.of_mem_zip hq).1, ih l b.2⟩

end Sys2Proof.Machine
end

