-- ==== Sys2Proof/Laws/Completes.lean ====
section
/-! SUPPORT. Every command answers a next state, but for the three that may stop by name. -/

set_option maxRecDepth 20000

namespace Sys2Proof.Machine

open Sys2Proof

/-- The reads of a verified source leave ports, dictionary and Shed alone (R168). -/
theorem State.regionReads_sub (s : State) (n : Nat) (x : Slot) (rs : List Region) :
    (s.regionReads n x rs).ports = s.ports ∧ (s.regionReads n x rs).dict = s.dict ∧ (s.regionReads n x rs).shed = s.shed := by
  unfold State.regionReads
  induction rs generalizing s with
  | nil => exact ⟨rfl, rfl, rfl⟩
  | cons r l ih => rw [List.foldl_cons]; exact ih _

/-- Hearing a command at a port leaves the Shed places of its reads alone (R126, R155). -/
theorem State.shedHole_heard (s : State) (n m a l : Nat) :
    ((s.fresh.disarm m).interrupt m).shedHole n a l = s.shedHole n a l := by
  have hp : ∀ (q : State) (f : Port → Port) k, (∀ p, (f p).serving = p.serving ∧ (f p).shedBase = p.shedBase) →
      ((q.modPort m f).port k).serving = (q.port k).serving ∧ ((q.modPort m f).port k).shedBase = (q.port k).shedBase := by
    intro q f k h
    rw [State.modPort_port]; split
    · exact h _
    · exact ⟨rfl, rfl⟩
  have key : ∀ q : State, q.dict = s.dict → (q.port n).serving = (s.port n).serving →
      (q.port n).shedBase = (s.port n).shedBase → q.shedHole n a l = s.shedHole n a l := by
    intro q hd hs hb
    have hv : ∀ k, q.val k = s.val k := fun k => by unfold State.val; rw [hd]
    have h1 : q.served n = s.served n := by unfold State.served State.manifest; rw [hs]; simp only [hv]
    have h2 : ∀ a, q.regionAt n a = s.regionAt n a := fun a => by unfold State.regionAt; rw [h1]
    unfold State.shedHole State.shedAt
    simp only [h1, h2, hb]
  have h1 := hp s.fresh (fun p => { p with resetArmed := false }) n (fun _ => ⟨rfl, rfl⟩)
  apply key
  · unfold State.interrupt; split <;> rfl
  · unfold State.interrupt; split
    · refine (hp (s.fresh.disarm m) _ n ?_).1.trans h1.1; exact fun _ => ⟨rfl, rfl⟩
    · exact h1.1
  · unfold State.interrupt; split
    · refine (hp (s.fresh.disarm m) _ n ?_).2.trans h1.2; exact fun _ => ⟨rfl, rfl⟩
    · exact h1.2

/-- Hearing a command at a port leaves the width of its addresses alone (R127). -/
theorem State.sized_heard (s : State) (m : Nat) (c : SpiCmd) (r : OpRow) :
    ((s.fresh.disarm m).interrupt m).sized c r = s.sized c r := by
  have hp : ∀ (q : State) (f : Port → Port) k, (∀ p, (f p).addr4 = p.addr4) →
      ((q.modPort m f).port k).addr4 = (q.port k).addr4 := by
    intro q f k h
    rw [State.modPort_port]; split
    · exact h _
    · rfl
  apply State.sized_congr
  have h1 := hp s.fresh (fun p => { p with resetArmed := false }) c.port (fun _ => rfl)
  unfold State.interrupt; split
  · refine (hp (s.fresh.disarm m) _ c.port ?_).trans h1; exact fun _ => rfl
  · exact h1

theorem State.readCmd_next (s : State) (c : SpiCmd) (r : OpRow) (d : State → Nat)
    (h : s.shedHole c.port (s.sized c r).addr c.len = false) : ∃ t, s.readCmd c r d = .next t := by
  unfold State.readCmd
  dsimp only
  simp only [State.sized_heard]
  split
  · exact ⟨_, rfl⟩
  split
  · exact ⟨_, rfl⟩
  split
  · exact ⟨_, rfl⟩
  · rw [State.shedHole_heard, if_neg (by
      show ¬ (s.shedHole c.port (s.sized c r).addr c.len = true)
      rw [h]; decide)]
    exact ⟨_, rfl⟩
  · exact ⟨_, rfl⟩

theorem State.startVerificationEnd_next (n : Nat) (data : Option (List Bytes)) (s : State) (h : s.stops (.startVerificationEnd n data) = false) :
    ∃ t, execStartVerificationEnd n data s = .next t := by
  unfold execStartVerificationEnd
  dsimp only
  split
  · split
    · exact ⟨_, rfl⟩
    · rename_i x hx
      split
      · exact ⟨_, rfl⟩
      · split
        · exact ⟨_, rfl⟩
        · rw [if_neg]
          · exact ⟨_, rfl⟩
          · have hx' : (s.port n).cand = some x := hx
            dsimp only [State.stops] at h
            rw [hx'] at h
            have hn : n < s.ports.length := by
              by_contra hc
              unfold State.port at hx'
              rw [List.getD_eq_default _ _ (by omega)] at hx'
              cases hx'
            replace h : (!s.shedFits n x) = false := h
            rw [Bool.not_eq_false'] at h
            have e := State.freshTagKey_facts s.fresh n
            have : ∀ q : State, q.dict = s.dict → (q.port n).shedBase = (s.port n).shedBase → q.shedFits n x = s.shedFits n x := by
              intro q hd hb
              unfold State.shedFits State.manifest State.val
              rw [hd, hb]
            have e2 : ∀ l, ((s.fresh.freshTagKey n).regionReads n x l).shedFits n x = s.shedFits n x := fun l => by
              have r := State.regionReads_sub (s.fresh.freshTagKey n) n x l
              apply this
              · rw [r.2.1, e.2.1]; rfl
              · unfold State.port; rw [r.1]; exact e.2.2.2 hn
            split
            · rw [show s.fresh.shedFits n x = s.shedFits n x from rfl, h]; decide
            · rw [e2, h]; decide
  · exact ⟨_, rfl⟩

theorem State.enterHolding_next (i : HoldInput) (s : State) (h : s.stops (.enterHolding i) = false) :
    ∃ t, execEnterHolding i s = .next t := by
  replace h : (!releaseOk s.boot.release) = false := h
  unfold execEnterHolding
  dsimp only
  split
  · exact ⟨_, rfl⟩
  · rw [if_neg (by rw [show s.fresh.boot = s.boot from rfl, h]; decide)]; exact ⟨_, rfl⟩

/-- Every command that does not stop by name answers a next state. -/
theorem State.exec_next (c : Instr) (s : State) (h : s.stops c = false) : ∃ t, exec c s = .next t := by
  cases c <;> dsimp only [exec]
  all_goals first
    | exact ⟨_, rfl⟩ | exact s.enterHolding_next _ h | exact State.startVerificationEnd_next _ _ s h | exact s.readCmd_next _ _ _ h
end Sys2Proof.Machine
end

