-- ==== Sys2Proof/WellFormed.lean ====
section
/-! DEFINITION. Which commands name only things the device has: ports, lanes, paddocks, rings, slots, monitors. -/

namespace Sys2Proof

open Sys2Proof.Machine

/-- The command names only existing ports, pins, lanes, paddocks, rings, push slots, monitors, groups and entries. -/
def wellFormed : Instr → Bool
  | .pulseEnd k => k < 32
  | .hiLevelChange k _ => k < 32
  | .domainWakeEnd d => d < 152
  | .measurementRecorded p _ | .startVerificationEnd p _ | .stnRstNLow p | .refusedBusyEnd p
  | .downstreamStatusPoll p _ | .tagVerdict p _ _ | .debtClearRead p | .sweepComplete p | .sweepLate p
  | .platformTrialExpiry p | .recoveryComplete p _ => p < 4
  | .stileRead c | .fastRead c | .dualOutputFastRead c | .dualIoFastRead c | .quadOutputFastRead c
  | .quadIoFastRead c | .octalDtrRead c | .readStatusRegister c | .readJedecId c | .readSfdp c | .writeEnable c
  | .writeDisable c | .pageProgram c | .quadInputPageProgram c | .erase4Kib c | .erase64Kib c | .chipErase c _
  | .writeStatusRegister c | .writeVolatileConfiguration c | .securityRegisterCommand c _
  | .enter4ByteAddressMode c | .exit4ByteAddressMode c | .enterQpi c | .exitQpi c | .resetEnable c
  | .stileReset c => c.port < 4
  | .unknownCommand c op => c.port < 4 && op < 256
  | .stileActivate _ p _ | .stileConfirm _ p _ | .stileRestart _ p _ | .stileFloorWrite _ p _ => p < 4
  | .manifestWrite _ p n _ => p < 4 && 1 ≤ n && n ≤ 3
  | .slotBaseWrite _ p n _ => p < 4 && 4 ≤ n && n ≤ 6
  | .stileClockConfigWrite _ p n _ => p < 4 && 7 ≤ n && n ≤ 10
  | .mePortConfigWrite _ p n _ => p < 2 && n < 256
  | .requesterResponse k _ | .requesterTimeout k | .partnerPoll k _ | .policyRecordWrite _ k _ => k < 64
  | .setEndpointId b _ => 2 ≤ b && b ≤ 4
  | .mctpControlRequest m _ _ _ => m.bus ≤ 4
  | .pushSlotSeal p n off d | .pushWindowWrite p n off d => p < 288 && n < 64 && off + d.length ≤ 64
  | .ringSqTailWrite p r v | .ringCqHeadWrite p r v => p < 288 && r < 4 && v < 65536
  | .ringEnable p r | .ringDisable p r => p < 288 && r < 4
  | .paddockResetWrite p _ | .paddockResetComplete p => p < 288
  | .vfFlr n => 0 < n && n < 256
  | .jobDispatch l _ | .pairCheckComplete l _ | .selfTestResult l _ => l < 92
  | .monitorDetect n | .latchSelfClear n | .backupDetection n | .monTest _ n | .monConfigWrite _ n _ => n < 24
  | .atnCauseClear g v | .atnEnableWrite g v | .atnEnableEntry _ g v => g < 24 && v < 65536
  | .monoInc _ n _ => n < 16
  | .credentialWrite _ n _ => n < 32
  | .linkDown p => p < 2 || (8 ≤ p && p < 16)
  | .memberLost d => d < 8
  | _ => true

end Sys2Proof
end

