-- ==== Sys2Proof/Tests/Slice0.lean ====
section
/-! SUPPORT. Small states, tests of single steps and functions, and a witness for the hypotheses of every statement. -/

set_option maxRecDepth 10000
set_option Elab.async false
set_option linter.unusedVariables false

namespace Sys2Proof.Tests

open Sys2Proof Sys2Proof.Machine

/-- The machine after reset, in an operating state. -/
def atOp (o : Op) : State := State.reset.modCore (fun c => { c with op := o, before := o })
/-- The Halter with a schedule of one unconditional step. -/
def stSchedule : State := (atOp .holding).modHal (fun h =>
  { h with st := .running, step := 1, counted := 1, steps := [⟨0, 0, 1, true, false, 3, 0, 0⟩] })
/-- A member that forms a stack. -/
def stForming : State :=
  ((State.reset.modBoot (fun b => { b with tackBuilt := true })).modPwr (fun p => { p with cascadeId := 1 })).modDict
    (fun d => { d with bankA := some ⟨1, 0, [(mkKey 0x9000 0x03, [1]), (mkKey 0x9000 0x04, sha384 [1] ++ zeros 336)]⟩ }) |>.modFuse
    (fun f => { f with lcState := 0x01FFFF })
/-- What the master of that stack presents. -/
def masterFacts : PeerFacts := ⟨[1], stForming.boot.bodyDigest, stForming.timetableDigest, true⟩
/-- A command of a row in its first mode, on port 0. -/
def rowCmd (r : OpRow) : SpiCmd := ⟨0, false, r.modes.getD 0 .w111, 0, 4, 1000, true, [1, 2, 3, 4]⟩
/-- Port 0 on the proxy path with a record for a row. -/
def stRow (r : OpRow) (ph : Phase) (f : Port → Port) : State := (atOp .running).modPort 0 (fun p =>
  f { p with mode := .manifest, phase := ph, wire := wireState (r.modes.getD 0 .w111), allow := [⟨r.op, r.cls, 15, 7⟩] })
/-- A manifest of one DATA region of 64 KiB at host and flash address 0, writable in SERVE. -/
def dataManifest : Bytes := bytesOf [0, 0, 0, 0, 0, 0, 1, 0] ++ zeros 56 ++ leN 4 0 ++ leN 4 65536 ++ leN 4 0 ++
  bytesOf [3, 0, 1, 0] ++ zeros 64
/-- Port 0 serves slot A with one DATA region of 64 KiB at address 0, writable in SERVE. -/
def stData (r : OpRow) (f : Port → Port) : State := (stRow r .serve (fun p => f { p with serving := some .a, wel := true })).setVal (iKey 0 1) dataManifest
/-- A manifest of one region of 4 KiB in the Shed at host address 0. -/
def shedManifest : Bytes := bytesOf [0, 0, 0, 0, 0, 0, 1, 0] ++ zeros 56 ++ leN 4 0 ++ leN 4 4096 ++ leN 4 0 ++
  bytesOf [1, 0, 0, 0] ++ zeros 64
/-- Port 0 serves that region from a place outside the Shed. -/
def stHole (r : OpRow) : State := (stRow r .serve (fun p => { p with serving := some .a, shedBase := 67108864 })).setVal (iKey 0 1) shedManifest
/-- A command of a row above every clock limit. -/
def fastCmd (r : OpRow) : SpiCmd := { rowCmd r with khz := 1000000 }
/-- Port 0 on the proxy path without a record for a row, and on the transparent path. -/
def stUnlisted (r : OpRow) : State := stRow r .serve (fun p => { p with allow := [], wel := true })
def stClear (r : OpRow) : State := stRow r .serve (fun p => { p with mode := .measure })
/-- A command of a row past the first MiB. -/
def farCmd (r : OpRow) : SpiCmd := { rowCmd r with addr := 0x100000 }
/-- Port 0 with that region while a component is updated. -/
def stUpdate (r : OpRow) : State := stData r (fun p => { p with phase := .update })
/-- Port 0 under start verification with an empty manifest in slot A. -/
def stVerify : State := ((((atOp .holding).modPort 0 (fun p => { p with
  mode := .manifest, phase := .verify, cand := some .a, manOk := [true, true, true],
  down := some { mode := 5, clocks := 20, khz := 133000 } })).modTack (fun t => { t with drbgOk := true })).modDevJobs (fun _ =>
  [⟨1, .digest 0 99, 0, none, 99999⟩])).setVal (iKey 0 1) (zeros 64)
/-- A manifest of one STREAMED region of 4 KiB at host address 0. -/
def streamManifest : Bytes := bytesOf [0, 0, 0, 0, 0, 0, 1, 0] ++ zeros 56 ++ leN 4 0 ++ leN 4 4096 ++ leN 4 0 ++
  bytesOf [2, 0, 0, 0] ++ zeros 64
/-- Port 0 serves the STREAMED region, with a debt for its first block. -/
def stStream : State := ((atOp .running).modPort 0 (fun p => { p with
  mode := .manifest, phase := .serve, serving := some .a, debts := [0] })).setVal (iKey 0 1) streamManifest
/-- PLDM served on transport 0, with a ledger. -/
def stPldm (f : FdState) : State := ((((atOp .running).setVal (mkKey 0x2800 0x03) [1, 0, 0, 0]).modPldm (fun p => { p with st := f })).modBoot
  (fun b => { b with ledger := ⟨devForm.encode ledgerZero, []⟩ }))
/-- Entry 0 of the partner table, changed by `f`. -/
def stPartner (f : Partner → Partner) : State := (atOp .running).modPar (fun q => { q with table := updAt q.table 0 f })
/-- A response in time from EID 8, and a partner that policy record 0 names. -/
def respOk : Resp := ⟨0, 8, 0, [], 0, 0, 0, 0, false, [], true, 0, true⟩
def foundOne : Found := ⟨0, 1, [1, 2, 3, 4, 5, 6], 0, 0, true, false⟩
def stFound : State := ((atOp .running).setVal (mkKey 0x3200 0) ([1, 0, 1, 2, 3, 4, 5, 6] ++ zeros 120)).modPar (fun q => { q with ic0 := true })
/-- The responder answers on IC2, with one connection. -/
def stConn (c : SpdmConn) : State := ((atOp .running).setVal (mkKey 0x3000 0x0A) [0x1F, 0, 0, 0]).modPar (fun p => { p with conns := [c] })
/-- A sheet of one position, all of class C0, is active. -/
def withC0 (s : State) : State := s.modYard (fun y => { y with sheet := 1, timetable := some ⟨1, 1, [⟨1, false, zeros 184⟩], []⟩ })
/-- The responder answers on IC2, with one session. -/
def stSess (e : Bool) : State := (stConn ⟨1, 8, 0x12, 3, none, [], none⟩).modPar (fun p => { p with sessions := [⟨7, 1, 8, [], e, 0, [], 0⟩] })
/-- The session of a requester with a role, on IC2. -/
def reqSess (role : Nat) : Sess := ⟨0, 7, ⟨5, 1⟩, 0, role, zeros 48, [], 3, 0x11, none, false, none, 0⟩
/-- The next request on that session. -/
def nextReq : Req := ⟨7, 4, none⟩
/-- A state with the session of a requester, in life cycle MANUFACTURE, changed by `f`. -/
def stReq (role : Nat) (f : State → State) : State :=
  f (((atOp .running).setVal (mkKey 0xA000 0x01) [0x3F]).modDict (fun d => { d with sessions := [reqSess role] }))
/-- A firmware ledger, changed from the zero record, is in force. -/
def withLedger (f : DevLedger → DevLedger) (s : State) : State := s.modBoot (fun b => { b with ledger := ⟨devForm.encode (f ledgerZero), []⟩ })
/-- An AES-128 key in slot 300, changed by `f`. -/
def aesKey (f : Key → Key) : Key := f ⟨300, 1, 1, .active, 1, false, 0, false, false, 0, 0x1E, 0x3F, 0x0003, 0, 0, false, none, 0, 0,
  zeros 16, 0, none, none⟩
/-- That key is held, in state RUNNING with an officer's session. -/
def stKey (f : Key → Key) (s : State) : State := s.modTack (fun t => { t with keys := [aesKey f], drbgOk := true })
/-- A job of a service whose only step has ended, in paddock 0, changed by `f`. -/
def doneJob (op : Nat) (f : Job → Job) : Job := f ⟨5, .paddock, 0, 0, 0, op, 9, 0, false, false, true, 0, 0, 0, 0, 0, 0, zeros 64, false,
  true, 0, 0, 0, none, .digest, 1, 1, false, none, 3, none, none, true, false, 0, none, [], [], 0, none, false, none, none, 0, false, []⟩
/-- A state with that job. -/
def stJob (op : Nat) (f : Job → Job) : State := (atOp .running).modJobs (fun _ => [doneJob op f])
/-- A paddock with one ring of 16 entries, changed by `f`. -/
def padWith (f : Pad → Pad) : Pad := f { padFresh 0 with st := .enabled, rings := 1, maxDepth := 4096, ring := [{ ringReset with depthLog2 := 4, enable := true, active := true }, ringReset, ringReset, ringReset] }
/-- A state with that paddock and the link up. -/
def stPad (f : Pad → Pad) : State := ((atOp .running).modPads (fun _ => [padWith f])).modPwr (fun p => { p with link := true })
/-- A sheet of one position, all of class C1 and group 0, is active. -/
def sheetOne (s : State) : State := s.modYard (fun y => { y with sheet := 1, timetable := some ⟨1, 1, [⟨1, false, (List.replicate 92 (bytesOf [1, 0])).flatten⟩], []⟩ })
/-- The physical function's link is up with two virtual functions, and these paddocks are configured. -/
def stMgr (l : List Pad) : State := (((atOp .running).modPads (fun _ => l)).modPwr (fun p => { p with link := true })).modPci
  (fun c => { c with vfEnable := true, numVfs := 2 })
/-- A manager command on paddock 1, with `b` in bytes 4 and up. -/
def cmdOn1 (b : List Nat) : Bytes := bytesOf ([0, 0, 1, 0] ++ b)
/-- CREATE or MODIFY of paddock 1 with one ring of at most 16 entries. -/
def cmdConfig : Bytes := cmdOn1 [0, 1, 16, 0]
/-- LOG_START on paddock 1: one page from address 0, bitmap at 4096. -/
def cmdStart : Bytes := cmdOn1 ([0, 0, 0, 0] ++ List.replicate 16 0 ++ [0, 16, 0, 0, 0, 0, 0, 0] ++ List.replicate 8 0 ++ [1, 0, 0, 0])
/-- A page log. -/
def pageLog : DirtyLog := ⟨4096, 0, 1, []⟩
/-- Paddock 1 with one ring. -/
def padOne (f : Pad → Pad) : Pad := f { padWith id with num := 1 }
/-- The replica of the key in slot 0 of the master, generation 1. -/
def repKey (f : Key → Key) : Key := f { aesKey id with origin := some 32768 }
/-- A master in FIELD whose sheet gives every class a slot of C0, that knows member 1's key. -/
def stMaster : State := ((((((withC0 (atOp .running)).modCas (fun c => { c with role := .master })).modFuse (fun f => { f with lcState := 0x01FFFF })).modBoot
  (fun b => { b with bodyDigest := [] })).setVal (mkKey 0x9000 0x04) (zeros 48 ++ sha384 [1] ++ zeros 288)))
/-- What a member in FIELD with the same firmware and Timetable offers when it joins. -/
def joinInput : JoinInput := ⟨1, false, ⟨[1], [], stMaster.timetableDigest, true⟩, true, zeros 32, zeros 48⟩

/-! ### Ill-formed commands, one or more for each check of `wellFormed`, are refused -/

theorem test_ill_formed_pins :
    (wellFormed (.pulseEnd 32) || wellFormed (.hiLevelChange 32 true) || wellFormed (.domainWakeEnd 152)) = false := by decide

theorem test_ill_formed_ports :
    (wellFormed (.measurementRecorded 4 []) || wellFormed (.recoveryComplete 4 ⟨[], [], true, false, false⟩) ||
     wellFormed (.stileRead ⟨4, false, .w111, 0, 1, 1000, true, []⟩) ||
     wellFormed (.unknownCommand ⟨0, false, .w111, 0, 1, 1000, true, []⟩ 256) ||
     wellFormed (.stileActivate nextReq 4 1)) = false := by decide

theorem test_ill_formed_port_entries :
    (wellFormed (.manifestWrite nextReq 0 4 []) || wellFormed (.slotBaseWrite nextReq 0 7 0) ||
     wellFormed (.stileClockConfigWrite nextReq 0 11 0) || wellFormed (.mePortConfigWrite nextReq 2 0 []) ||
     wellFormed (.policyRecordWrite nextReq 64 [])) = false := by decide

theorem test_ill_formed_buses : (wellFormed (.partnerPoll 64 true) || wellFormed (.setEndpointId 5 8) ||
    wellFormed (.mctpControlRequest ⟨5, 8, 0⟩ 8 0 2)) = false := by decide

theorem test_ill_formed_paddocks :
    (wellFormed (.pushWindowWrite 0 64 0 []) || wellFormed (.pushWindowWrite 0 0 64 [1]) ||
     wellFormed (.ringSqTailWrite 0 4 0) || wellFormed (.ringCqHeadWrite 0 0 65536) || wellFormed (.ringEnable 288 0) ||
     wellFormed (.paddockResetWrite 288 1) || wellFormed (.vfFlr 0) || wellFormed (.vfFlr 256)) = false := by decide

theorem test_ill_formed_lanes_and_monitors :
    (wellFormed (.jobDispatch 92 []) || wellFormed (.monitorDetect 24) || wellFormed (.atnCauseClear 24 0) ||
     wellFormed (.atnEnableWrite 0 65536) || wellFormed (.monoInc nextReq 16 1) ||
     wellFormed (.credentialWrite nextReq 32 []) || wellFormed (.linkDown 2) || wellFormed (.memberLost 8)) = false := by
  decide

theorem test_well_formed_at_the_bounds :
    (wellFormed (.pulseEnd 31) && wellFormed (.domainWakeEnd 151) && wellFormed (.unknownCommand ⟨3, false, .w111, 0, 1, 1000, true, []⟩ 255) &&
     wellFormed (.pushWindowWrite 287 63 60 [1, 2, 3, 4]) && wellFormed (.vfFlr 255) && wellFormed (.jobDispatch 91 []) &&
     wellFormed (.linkDown 15) && wellFormed (.monoInc nextReq 15 1)) = true := by decide

/-! ### Numbers that the spec works out, and published vectors of the standards it names -/

/-- The table of 02, "a P-256 verification under sheet 0": round 15,626, position 40, P9 in class C3 for any group, 40 steps. -/
theorem test_sheet_zero_at_frame_1000104 :
    State.reset.roundAt 1000104 = 15626 ∧ State.reset.posAt 1000104 = 40 ∧
    State.reset.sheetEntry 0 13 15626 40 = (3, 0xFF) ∧ State.reset.sheetEntry 0 13 15627 0 = (2, 0xFF) ∧
    State.reset.verifyFrames 1 0 0 160 = 40 := by decide +kernel

/-- The UPDATE of 1,000 bytes and the FINAL of 104 bytes in 09's worked example. -/
theorem test_digest_steps : digestSteps .sha384 (1000 / 128) = 2 ∧ digestSteps .sha384 (digestK .sha384 true 104) = 1 := by decide

/-- The segmented CMAC of 10's worked example: 188 blocks in 4 steps. -/
theorem test_segmented_cmac : macBlocks 1 16 3000 = 188 ∧ ceilDiv (macBlocks 1 16 3000) 48 = 4 := by decide

/-- The PAN field, the PIN field and the handle of 12's worked example. -/
theorem test_pin_translation_fields :
    panField8 [4, 0, 0, 0, 0, 0, 1, 2, 3, 4, 5, 6, 7, 8, 9, 9] = bytesOf [0, 0, 0, 1, 0x23, 0x45, 0x67, 0x89] ∧
    ({ State.reset.tack with gens := [(1200, 1)] }).handleOf 1200 = 0x84B0 := by decide +kernel

/-- SHA-256 of "abc" (FIPS 180-4). -/
theorem test_sha256_abc : sha256 (ascii "abc") =
    bytesOf [0xba, 0x78, 0x16, 0xbf, 0x8f, 0x01, 0xcf, 0xea, 0x41, 0x41, 0x40, 0xde, 0x5d, 0xae, 0x22, 0x23, 0xb0, 0x03, 0x61,
      0xa3, 0x96, 0x17, 0x7a, 0x9c, 0xb4, 0x10, 0xff, 0x61, 0xf2, 0x00, 0x15, 0xad] := by decide +kernel

/-- The AES-128 example of FIPS 197, appendix C.1. -/
theorem test_aes_fips_197 : aesEncK (aesKeys (bytesOf (List.range 16))) (bytesOf ((List.range 16).map (· * 17))) =
    bytesOf [0x69, 0xc4, 0xe0, 0xd8, 0x6a, 0x7b, 0x04, 0x30, 0xd8, 0xcd, 0xb7, 0x80, 0x70, 0xb4, 0xc5, 0x5a] := by decide +kernel

/-! ### Memory, decoding and the queue -/

theorem test_shed_write_of_zeros_is_empty : memWrite (memWrite [] 5 [1, 2]) 5 [0, 0] = [] := by decide

theorem test_no_word_spells_a_command : decodeTableWord 32 0 = none ∧ (State.reset.withFetchWord 32 0) = State.reset := by
  decide +kernel

theorem test_reset_is_shaped : State.reset.shaped := ⟨by decide +kernel, by decide +kernel, by decide +kernel⟩

/-! ### The state that each statement with hypotheses speaks of exists -/

theorem test_witness_supply_and_reset_pins :
    (∃ mv : Nat, ∃ st : Straps, ∃ s : State, s.core.op = .off ∧ s.pwr.vinGood = false ∧ s.pwr.vioMg = true ∧
      s.pwr.sysRst = true ∧ s.core.fullReset = none ∧ vinRst < mv) ∧
    (∃ mv : Nat, ∃ s : State, mv < vinRst) ∧
    (∃ s : State, s.core.op ≠ .off) ∧
    (∃ st : Straps, ∃ s : State, s.core.op = .off ∧ s.pwr.sysRst = false ∧ s.pwr.vinGood = true ∧ s.pwr.vioMg = true
      ∧ s.core.fullReset = none) ∧
    (∃ st : Straps, ∃ s : State, s.core.op = .off ∧ s.pwr.vioMg = false ∧ s.pwr.vinGood = true ∧ s.pwr.sysRst = true
      ∧ s.core.fullReset = none) ∧
    (∃ s : State, (s.core.op = .running ∨ s.core.op = .holding ∨ s.core.op = .recovery ∨ s.core.op = .alarmHalt)) ∧
    (∃ s : State, s.pwr.link = true) ∧
    (∃ s : State, s.core.op = .off ∧ s.core.fullReset = some .refclkLoss ∧ s.pwr.vioMg = true ∧ s.pwr.sysRst = true ∧
      s.pwr.vinGood = true) ∧
    (∃ f : Nat, ∃ s : State, s.core.op ≠ .off ∧ s.pwr.clkLost = some f ∧ f + 20000 ≤ s.now) :=
  ⟨⟨801, ⟨0, 0, 0, []⟩, (atOp .off).modPwr (fun p => { p with vinGood := false }), by decide +kernel⟩,
   ⟨799, atOp .running, by decide +kernel⟩,
   ⟨atOp .running, by decide +kernel⟩,
   ⟨⟨0, 0, 3, []⟩, (atOp .off).modPwr (fun p => { p with sysRst := false }), by decide +kernel⟩,
   ⟨⟨15, 7, 3, []⟩, (atOp .off).modPwr (fun p => { p with vioMg := false }), by decide +kernel⟩,
   ⟨atOp .holding, by decide +kernel⟩,
   ⟨(atOp .running).modPwr (fun p => { p with link := true }), by decide +kernel⟩,
   ⟨(atOp .off).modCore (fun c => { c with fullReset := some .refclkLoss }), by decide +kernel⟩,
   ⟨5, ((atOp .running).modPwr (fun p => { p with clkLost := some 5 })).modCore (fun c => { c with tick := 20005 }), by decide +kernel⟩⟩

theorem test_witness_supply_hold :
    (∃ mv : Nat, ∃ s : State, s.core.op ≠ .off ∧ s.core.op ≠ .deepSleep ∧ mv < s.vinWarn) ∧
    (∃ s : State, s.sup.hold = true ∧ 7 ≤ s.sup.calm ∧ s.sup.crossing = false ∧ 0 < s.atn.cause.length) ∧
    (∃ s : State, s.sup.hold = true ∧ 1999 ≤ s.sup.holdFrames ∧ s.core.op ≠ .booting) ∧
    (∃ f : Nat, ∃ s : State, s.sup.lastEntry = some f ∧ f + secFrames ≤ s.now ∧ s.sup.hold = false ∧ s.sup.counted ≠
      0) :=
  ⟨⟨850, atOp .running, by decide +kernel⟩,
   ⟨(atOp .running).modSup (fun u => { u with hold := true, calm := 7 }), by decide +kernel⟩,
   ⟨(atOp .running).modSup (fun u => { u with hold := true, holdFrames := 1999 }), by decide +kernel⟩,
   ⟨0, ((atOp .running).modSup (fun u => { u with lastEntry := some 0, counted := 1 })).modCore (fun c => { c with tick := secFrames }), by decide +kernel⟩⟩

theorem test_witness_start_sequence :
    (∃ r : RomInput, ∃ s : State, s.core.op = .booting ∧ s.boot.romDone = false ∧ s.sup.hold = false ∧ s.pwr.pll =
      true) ∧
    (∃ c : Nat, ∃ s : State, s.core.op = .booting ∧ s.boot.stuck = some c) ∧
    (∃ v : BitVec 32, ∃ s : State, v.getLsbD 0 = true) ∧
    (∃ v : BitVec 32, ∃ h : Handover, ∃ s : State, v.getLsbD 0 = true ∧ s.boot.handover = some h) ∧
    (∃ f : Nat, ∃ s : State, s.boot.trialFrom = some f ∧ s.core.op ≠ .off ∧ f + s.trialWindow ≤ s.now) ∧
    (∃ h : HoldInput, ∃ s : State, s.stageOneDone = true ∧ releaseOk s.boot.release = true) ∧
    (∃ h : HoldInput, ∃ s : State, s.stageOneDone = true ∧ releaseOk s.boot.release = false) :=
  ⟨⟨⟨true, true, ⟨none, none⟩, ⟨none, none⟩, ⟨none, none⟩, ⟨none, none⟩, [], 0, []⟩, State.reset, by decide +kernel⟩,
   ⟨0x20, State.reset.modBoot (fun b => { b with stuck := some 0x20 }), by decide +kernel⟩,
   ⟨1, State.reset, by decide +kernel⟩,
   ⟨1, ⟨[], [], [], [], false, 0, 0, 0, false, 0, 0⟩, State.reset.modBoot (fun b => { b with handover := some ⟨[], [], [], [], false, 0, 0, 0, false, 0, 0⟩ }), by decide +kernel⟩,
   ⟨0, ((atOp .running).modBoot (fun b => { b with trialFrom := some 0 })).modCore (fun c => { c with tick := 600 * secFrames }), by decide +kernel⟩,
   ⟨⟨[], [], true, false, false⟩, State.reset.modBoot (fun b => { b with handoverLock := true, tackBuilt := true, release := 0x01000000 }), by decide +kernel⟩,
   ⟨⟨[], [], true, false, false⟩, State.reset.modBoot (fun b => { b with handoverLock := true, tackBuilt := true, release := 0 }), by decide +kernel⟩⟩

theorem test_witness_stack_formation :
    (∃ f : FormInput, ∃ s : State, s.forming = true ∧ f.idOk = true ∧ f.failStep = 0 ∧ -2 ≤ f.offset ∧ f.offset ≤ 2 ∧
      s.peerFits (s.bankVal (mkKey 0x9000 0x04)) f.master f.peer = true) ∧
    (∃ f : FormInput, ∃ s : State, s.forming = true ∧ (f.idOk = false ∨ f.failStep ≠ 0 ∨ f.offset < -2 ∨ 2 < f.offset
      ∨ s.peerFits (s.bankVal (mkKey 0x9000 0x04)) f.master f.peer = false)) ∧
    (∃ f : Nat, ∃ s : State, s.forming = true ∧ s.cas.formAt = some f ∧ f + s.bankU (mkKey 0x9000 0x05) * msFrames ≤
      s.now) :=
  ⟨⟨⟨true, 0, masterFacts, 0, 2, [], [], 7, 1, 3⟩, stForming, by decide +kernel⟩,
   ⟨⟨true, 0, masterFacts, 5, 0, [], [], 7, 1, 3⟩, stForming, by decide +kernel⟩,
   ⟨0, (stForming.modCas (fun c => { c with formAt := some 0 })).modCore (fun c => { c with tick := 10000000 }), by decide +kernel⟩⟩

theorem test_witness_release_schedule :
    (∃ h : HStep, ∃ s : State, s.currentStep = some h) ∧
    (∃ h : HStep, ∃ s : State, s.currentStep = some h ∧ s.hal.fails = false ∧ s.hal.met = true) ∧
    (∃ h : HStep, ∃ s : State, s.currentStep = some h ∧ s.hal.fails = false ∧ s.hal.met = false) ∧
    (∃ h : HStep, ∃ s : State, s.currentStep = some h ∧ s.hal.fails = true ∧ 0 < s.atn.cause.length - 5) ∧
    (∃ h : HStep, ∃ s : State, s.currentStep = some h ∧ h.wait ≠ 1 ∧ h.count ≠ 0 ∧ h.count ≤ s.hal.counted ∧
      s.hal.fails = false ∧ s.hal.met = false ∧ h.cont = false) ∧
    (∃ h : HStep, ∃ s : State, s.currentStep = some h ∧ h.wait ≠ 1 ∧ h.count ≠ 0 ∧ h.count ≤ s.hal.counted ∧
      s.hal.fails = false ∧ s.hal.met = false ∧ h.cont = true) ∧
    (∃ k : Nat, ∃ s : State, s.hal.pulses.any (fun p => p.1 == k && decide (p.2 ≤ s.now)) = true) ∧
    (∃ k : Nat, ∃ v : Bool, ∃ s : State, s.hal.hiLevel.getLsbD k ≠ v ∧ k < 32 ∧ s.core.op ≠ .off ∧ s.hal.steady k v =
      true) :=
  ⟨⟨⟨0, 0, 1, true, false, 3, 0, 0⟩, stSchedule, by decide +kernel⟩,
   ⟨⟨0, 0, 1, true, false, 3, 0, 0⟩, stSchedule.halterSees, by decide +kernel⟩,
   ⟨⟨0, 0, 1, true, false, 3, 0, 0⟩, stSchedule, by decide +kernel⟩,
   ⟨⟨4, 0, 1, true, false, 3, 0, 0⟩, ((stSchedule.modHal (fun h => { h with steps := [⟨4, 0, 1, true, false, 3, 0, 0⟩], counted := 1 })).modPort 0 (fun p => { p with verdict := .fail })).halterSees, by decide +kernel⟩,
   ⟨⟨4, 0, 1, true, false, 3, 1, 0⟩, (stSchedule.modHal (fun h => { h with steps := [⟨4, 0, 1, true, false, 3, 1, 0⟩], counted := 1 })), by decide +kernel⟩,
   ⟨⟨4, 0, 1, true, true, 3, 1, 0⟩, (stSchedule.modHal (fun h => { h with steps := [⟨4, 0, 1, true, true, 3, 1, 0⟩], counted := 1 })), by decide +kernel⟩,
   ⟨31, (atOp .running).modHal (fun h => { h with pulses := [(31, 0)] }), by decide +kernel⟩,
   ⟨31, true, (atOp .running).modHal (fun h => { h with samples := List.replicate 4 0x80000000 }), by decide +kernel⟩⟩

theorem test_witness_frame_boundary :
    (∃ vinMv : Nat, ∃ active : Nat, ∃ temps : List Int, ∃ ppm : Int, ∃ hi : BitVec 32, ∃ s : State, s.core.op = .off) ∧
    (∃ vinMv : Nat, ∃ active : Nat, ∃ temps : List Int, ∃ ppm : Int, ∃ hi : BitVec 32, ∃ s : State, s.core.op.powered
      = true ∧ s.core.fullReset = none) ∧
    (∃ vinMv : Nat, ∃ active : Nat, ∃ temps : List Int, ∃ ppm : Int, ∃ hi : BitVec 32, ∃ s : State, s.core.op =
      .booting ∧ s.core.fullReset = none) ∧
    (∃ vinMv : Nat, ∃ active : Nat, ∃ temps : List Int, ∃ ppm : Int, ∃ hi : BitVec 32, ∃ s : State, s.core.op =
      .deepSleep ∧ s.pwr.poweredDown = true) ∧
    (∃ c : ResetCause, ∃ vinMv : Nat, ∃ active : Nat, ∃ temps : List Int, ∃ ppm : Int, ∃ hi : BitVec 32, ∃ s : State,
      s.core.op = .booting ∧ s.core.fullReset = some c ∧ s.mon.due = 0) ∧
    (∃ ppm : Int, ∃ s : State, (s.pwr.vinGood = true ∨ s.pwr.vbatOk = true)) :=
  ⟨⟨0, 0, [], 0, 0, atOp .off, by decide +kernel⟩,
   ⟨1000, 0, [], 0, 0, atOp .alarmHalt, by decide +kernel⟩,
   ⟨1000, 0, [], 0, 0, State.reset, by decide +kernel⟩,
   ⟨1000, 0, [], 0, 0, (atOp .deepSleep).modPwr (fun p => { p with poweredDown := true }), by decide +kernel⟩,
   ⟨.fwRestart, 1000, 0, [], 0, 0, State.reset.modCore (fun c => { c with fullReset := some .fwRestart }), by decide +kernel⟩,
   ⟨0, State.reset, by decide +kernel⟩⟩

theorem test_witness_sheet_and_power :
    (∃ n : Nat, ∃ s : State, s.core.op.powered = true ∧ s.cas.remote = none ∧ s.roundBoundary (s.core.frameCt + 1) =
      true ∧ s.nextSheet = some n ∧ s.cas.role ≠ .master) ∧
    (∃ n : Nat, ∃ b : Nat, ∃ v : Bool, ∃ s : State, s.cas.role = .member ∧ s.hasSheet n = true ∧ s.core.frameCt < b) ∧
    (∃ m : Nat, ∃ s : State, s.cas.role = .master ∧ s.members.contains m = true ∧ s.core.op ≠ .booting ∧ s.yard.sheet
      ≠ s.safeSheet) ∧
    (∃ d : Nat, ∃ f : Nat, ∃ s : State, (d, f) ∈ s.pwr.waking ∧ f + 23 ≤ s.now) ∧
    (∃ k : Nat, ∃ s : State, s.core.op = .deepSleep ∧ s.pwr.poweredDown = true ∧ k < 32 ∧ (s.valU (mkKey 0x7100
      0x02)).testBit k = true) ∧
    (∃ s : State, s.core.op = .deepSleep ∧ s.pwr.poweredDown = false ∧ s.pwr.wakeLatched = none ∧ s.valU (mkKey
      0x7100 0x03) ≠ 0) ∧
    (∃ s : State, s.core.op = .deepSleep ∧ s.pwr.poweredDown = true ∧ s.valU (mkKey 0x7100 0x03) ≠ 0) ∧
    (∃ s : State, s.haltScope = true ∧ s.core.op ≠ .off ∧ s.core.op ≠ .deepSleep) :=
  ⟨⟨3, ((atOp .running).modYard (fun y => { y with pending := some 3 })).modCore (fun c => { c with frameCt := 63 }), by decide +kernel⟩,
   ⟨0, 1, true, (atOp .running).modCas (fun c => { c with role := .member }), by decide +kernel⟩,
   ⟨1, ((atOp .running).modCas (fun c => { c with role := .master, present := 3 })).modYard (fun y => { y with sheet := 5 }), by decide +kernel⟩,
   ⟨151, 0, ((atOp .running).modPwr (fun p => { p with waking := [(151, 0)] })).modCore (fun c => { c with tick := 23 }), by decide +kernel⟩,
   ⟨31, ((atOp .deepSleep).modPwr (fun p => { p with poweredDown := true })).modDict (fun d => { d with vals := [(mkKey 0x7100 0x02, leN 4 0x80000000)] }), by decide +kernel⟩,
   ⟨((atOp .deepSleep).modPwr (fun p => { p with poweredDown := false })).modDict (fun d => { d with vals := [(mkKey 0x7100 0x03, leN 4 1)] }), by decide +kernel⟩,
   ⟨((atOp .deepSleep).modPwr (fun p => { p with poweredDown := true })).modDict (fun d => { d with vals := [(mkKey 0x7100 0x03, leN 4 1)] }), by decide +kernel⟩,
   ⟨(atOp .running).modLc (fun l => { l with scopes := 1 }), by decide +kernel⟩⟩

theorem test_witness_monitor_events :
    (∃ n : Nat, ∃ s : State, n < 21 ∧ s.core.op ≠ .off ∧ s.core.op ≠ .deepSleep ∧ ((n < 12 → (s.monConfig n).testBit
      3 = true)) ∧ s.mon.testEnd = none ∧ s.mon.latched.getLsbD n = false ∧ s.monConfig n % 4 < 3) ∧
    (∃ n : Nat, ∃ s : State, n < 21 ∧ s.core.op ≠ .off ∧ s.core.op ≠ .deepSleep ∧ ((n < 12 → (s.monConfig n).testBit
      3 = true)) ∧ s.mon.testEnd = none ∧ s.mon.latched.getLsbD n = false ∧ s.monConfig n % 4 = 3) ∧
    (∃ s : State, s.mon.due ≠ 0) ∧
    (∃ n : Nat, ∃ s : State, s.mon.latched.getLsbD n = true ∧ s.mon.cls.getD n 0 < 2 ∧ s.mon.due.getLsbD n = false ∧
      (21 ≤ n ∨ (s.mon.active.getLsbD n = false ∧ s.mon.inactiveAt.getD n 0 + secFrames ≤ s.now))) ∧
    (∃ real : Bool, ∃ e : Nat, ∃ s : State, s.mon.testEnd = some e ∧ e ≤ s.now ∧ (if s.mon.testMon < 21 then real
      else s.mon.heldBack.getLsbD s.mon.testMon) = false) ∧
    (∃ n : Nat, ∃ s : State, s.core.op = .off ∧ backupWatched n = true ∧ s.mon.word.getLsbD n = false ∧
      (s.pwr.vinGood = true ∨ s.pwr.vbatOk = true) ∧ ((n < 12 → (s.monConfig n).testBit 3 = true))) ∧
    (∃ s : State, s.pwr.vinGood = false) ∧
    (∃ s : State, s.pwr.vinGood = true) ∧
    (∃ s : State, s.core.op ≠ .off ∧ s.core.op ≠ .deepSleep ∧ s.tack.drbgOk = true ∧ 0 < s.atn.cause.length) ∧
    (∃ s : State, s.core.op ≠ .off ∧ s.core.op ≠ .deepSleep ∧ s.tack.drbgOk = false ∧ 0 < s.atn.cause.length) ∧
    (∃ h : HoldInput, ∃ s : State, s.core.op = .alarmHalt ∧ s.haltLatched = false ∧ s.mon.due = 0 ∧ s.core.zSince =
      false ∧ s.core.before ≠ .booting) ∧
    (∃ h : HoldInput, ∃ s : State, s.core.op = .alarmHalt ∧ s.haltLatched = false ∧ s.mon.due = 0 ∧ s.core.zSince =
      true) :=
  ⟨⟨20, atOp .running, by decide +kernel⟩,
   ⟨20, ((atOp .running).modMon (fun m => { m with cfg := List.replicate 24 3 })), by decide +kernel⟩,
   ⟨(atOp .running).modMon (fun m => { m with due := 1 }), by decide +kernel⟩,
   ⟨23, (atOp .running).modMon (fun m => { m with latched := 0x800000 }), by decide +kernel⟩,
   ⟨false, 0, (atOp .running).modMon (fun m => { m with testEnd := some 0 }), by decide +kernel⟩,
   ⟨20, atOp .off, by decide +kernel⟩,
   ⟨(atOp .off).modPwr (fun p => { p with vinGood := false }), by decide +kernel⟩,
   ⟨atOp .running, by decide +kernel⟩,
   ⟨atOp .running, by decide +kernel⟩,
   ⟨(atOp .running).modTack (fun t => { t with drbgOk := false }), by decide +kernel⟩,
   ⟨⟨[], [], true, false, false⟩, (atOp .alarmHalt).modCore (fun c => { c with before := .running }), by decide +kernel⟩,
   ⟨⟨[], [], true, false, false⟩, (atOp .alarmHalt).modCore (fun c => { c with zSince := true }), by decide +kernel⟩⟩

theorem test_witness_device_jobs :
    (∃ s : State, s.core.op.powered = true ∧ s.yard.lastPeriod + s.valU (mkKey 0x7000 0x09) * secFrames ≤ s.now) ∧
    (∃ l : Nat, ∃ s : State, l < 92 ∧ s.devEnded (.selfTest l) = true ∧ l < s.yard.lanes.length) ∧
    (∃ l : Nat, ∃ s : State, l < 92 ∧ s.devEnded (.selfTest l) = true ∧ s.yard.lanes.length = 92) ∧
    (∃ l : Nat, ∃ s : State, s.devEnded (.pairCheck l) = true ∧ l < s.yard.lanes.length) ∧
    (∃ l : Nat, ∃ s : State, s.devEnded (.pairCheck l) = true ∧ l < s.yard.lanes.length) ∧
    (∃ s : State, s.core.op.powered = true ∧ (1022 ≤ s.log.sinceCkpt ∨ s.log.owed = true) ∧ s.devJobs.any (fun d =>
      d.what == .checkpoint) = false) ∧
    (∃ b : Bytes, ∃ s : State, s.log.signing = some b ∧ s.devEnded .checkpoint = true ∧ s.sup.hold = false ∧
      s.pwr.halted = false ∧ s.log.written ≤ 2 ∧ s.ckptRoom = true) ∧
    (∃ b : Bytes, ∃ f : Nat, ∃ s : State, s.lc.nonce = some (b, f) ∧ f + 600000000 ≤ s.now) ∧
    (∃ s : State, s.core.op = .booting ∧ s.boot.stuck.isSome = true ∧ (s.lcCode = 2 ∨ s.lcCode = 3)) ∧
    (∃ b : Bytes, ∃ s : State, s.core.op = .booting ∧ s.boot.stuck.isSome = true ∧ s.lcCode = 5) :=
  ⟨⟨(atOp .running).modCore (fun c => { c with tick := 10 ^ 13 }), by decide +kernel⟩,
   ⟨91, (atOp .running).modDevJobs (fun _ => [⟨0, .selfTest 91, 0, none, 99⟩]), by decide +kernel⟩,
   ⟨91, (atOp .running).modDevJobs (fun _ => [⟨0, .selfTest 91, 0, none, 99⟩]), by decide +kernel⟩,
   ⟨27, (atOp .running).modDevJobs (fun _ => [⟨0, .pairCheck 27, 0, none, 999⟩]), by decide +kernel⟩,
   ⟨27, (atOp .running).modDevJobs (fun _ => [⟨0, .pairCheck 27, 0, none, 999⟩]), by decide +kernel⟩,
   ⟨(atOp .running).modLog (fun l => { l with sinceCkpt := 1022 }), by decide +kernel⟩,
   ⟨[], ((atOp .running).modDevJobs (fun _ => [⟨0, .checkpoint, 0, none, 99⟩])).modLog (fun l => { l with signing := some [] }), by decide +kernel⟩,
   ⟨[1], 0, ((atOp .running).modLc (fun l => { l with nonce := some ([1], 0) })).modCore (fun c => { c with tick := 600000000 }), by decide +kernel⟩,
   ⟨State.reset.modBoot (fun b => { b with stuck := some 0x20 }), by decide +kernel⟩,
   ⟨[], (State.reset.modBoot (fun b => { b with stuck := some 0 })).modFuse (fun f => { f with lcState := 0xFFFFFFFFFF }), by decide +kernel⟩⟩

theorem test_witness_flash_reads : ∀ x ∈ flashReads,
    ((stHole x.2).flashReady (rowCmd x.2) x.2 ∧ (stHole x.2).flashListed (rowCmd x.2) x.2 ∧
      (stHole x.2).shedHole 0 ((stHole x.2).sized (rowCmd x.2) x.2).addr (rowCmd x.2).len = true) ∧
    (∀ ph ∈ [Phase.hold, .verify, .serve, .update],
      (stRow x.2 ph id).flashReady (rowCmd x.2) x.2 ∧ (stRow x.2 ph id).flashListed (rowCmd x.2) x.2 ∧
      (stRow x.2 ph id).shedHole 0 ((stRow x.2 ph id).sized (rowCmd x.2) x.2).addr (rowCmd x.2).len = false) ∧
    ((stUnlisted x.2).flashReady (rowCmd x.2) x.2 ∧ ¬(stUnlisted x.2).flashListed (rowCmd x.2) x.2) ∧
    (stRow x.2 .serve id).flashFast (fastCmd x.2) x.2 := by decide +kernel

theorem test_witness_flash_modes : ∀ x ∈ flashModes,
    ((stRow x.2.1 .serve id).flashReady (rowCmd x.2.1) x.2.1 ∧ (stRow x.2.1 .serve id).flashListed (rowCmd x.2.1) x.2.1) ∧
    ((stUnlisted x.2.1).flashReady (rowCmd x.2.1) x.2.1 ∧ ¬(stUnlisted x.2.1).flashListed (rowCmd x.2.1) x.2.1) ∧
    (stRow x.2.1 .serve id).flashFast (fastCmd x.2.1) x.2.1 ∧
    (stClear x.2.1).flashClear (rowCmd x.2.1) ∧ (stClear x.2.1).flashClearFast (fastCmd x.2.1) := by decide +kernel

theorem test_witness_flash_writes : ∀ x ∈ flashWrites,
    ((stRow x.2.1 .serve id).flashReady (rowCmd x.2.1) x.2.1 ∧ ((stRow x.2.1 .serve id).port 0).wel = false) ∧
    ((stData x.2.1 id).flashReady (rowCmd x.2.1) x.2.1 ∧ (stData x.2.1 id).flashListed (rowCmd x.2.1) x.2.1 ∧
      ((stData x.2.1 id).port 0).wel = true ∧
      (stData x.2.1 id).mayWrite 0 (((stData x.2.1 id).sized (rowCmd x.2.1) x.2.1).addr / x.2.2.1 * x.2.2.1) x.2.2.1
        = true ∧ ((stData x.2.1 id).flashAt 0 ((stData x.2.1 id).sized (rowCmd x.2.1) x.2.1).addr).isSome) ∧
    ((stUpdate x.2.1).flashReady (rowCmd x.2.1) x.2.1 ∧ ((stUpdate x.2.1).port 0).wel = true ∧
      (stUpdate x.2.1).mayWrite 0 (((stUpdate x.2.1).sized (rowCmd x.2.1) x.2.1).addr / x.2.2.1 * x.2.2.1) x.2.2.1 = false) := by decide +kernel

/-- The same on a port without a record for the row, and above the clock limit. -/
theorem test_witness_flash_writes_refused : ∀ x ∈ flashWrites,
    ((stUnlisted x.2.1).flashReady (rowCmd x.2.1) x.2.1 ∧ ((stUnlisted x.2.1).port 0).wel = true ∧ ¬(stUnlisted
      x.2.1).flashListed (rowCmd x.2.1) x.2.1) ∧
    (stData x.2.1 id).flashFast (fastCmd x.2.1) x.2.1 := by decide +kernel

/-- The same on the transparent path. -/
theorem test_witness_flash_writes_clear : ∀ x ∈ flashWrites,
    ((stClear x.2.1).flashClear (rowCmd x.2.1) ∧ ((stClear x.2.1).sized (rowCmd x.2.1) x.2.1).addr / x.2.2.1 *
      x.2.2.1 < 0x100000) ∧
    ((stClear x.2.1).flashClear (farCmd x.2.1) ∧ ((stClear x.2.1).port 0).phase ≠ .hold ∧ 0x100000 ≤ ((stClear
      x.2.1).sized (farCmd x.2.1) x.2.1).addr / x.2.2.1 * x.2.2.1) ∧
    (stClear x.2.1).flashClearFast (fastCmd x.2.1) := by decide +kernel

theorem test_witness_flash_identity : ∀ x ∈ flashAnswers,
    ((stRow x.2.1 .serve id).flashReady (rowCmd x.2.1) x.2.1 ∧ (stRow x.2.1 .serve id).flashListed (rowCmd x.2.1) x.2.1) ∧
    ((stUnlisted x.2.1).flashReady (rowCmd x.2.1) x.2.1 ∧ ¬(stUnlisted x.2.1).flashListed (rowCmd x.2.1) x.2.1) ∧
    (stRow x.2.1 .serve id).flashFast (fastCmd x.2.1) x.2.1 := by decide +kernel

theorem test_witness_flash_transparent :
    ((∃ c : SpiCmd, ∃ s : State, s.flashClear c ∧ (s.port c.port).busyUntil = none) ∧
      ∃ c : SpiCmd, ∃ s : State, ∃ f : Nat, s.flashClear c ∧ (s.port c.port).busyUntil = some f ∧ s.now < f) ∧
    (∀ x ∈ flashReads ++ [(.readJedecId, ⟨0x9F, 3, [.w111, .w444, .w8d], 0, 0⟩), (.readSfdp, ⟨0x5A, 3, [.w111, .w8d], 0, 0⟩)],
      ∀ c ∈ [rowCmd x.2, fastCmd x.2],
        (stClear x.2).core.op.powered = true ∧ c.port < (stClear x.2).ports.length ∧ ((stClear x.2).port c.port).mode = .measure ∧
        (if c = rowCmd x.2 then c.khz ≤ (stClear x.2).clearLimit c (x.2.op == 0x03)
          else (stClear x.2).clearLimit c (x.2.op == 0x03) < c.khz)) ∧
    (∃ c : SpiCmd, ∃ op : Nat, ∃ s : State, s.flashClear c ∧ op ≠ 0x31 ∧ op ≠ 0x11) ∧
    (∃ c : SpiCmd, ∃ s : State, s.flashClear c) :=
  ⟨⟨⟨rowCmd ⟨0x05, 2, allModes, 0, 0⟩, stClear ⟨0x05, 2, allModes, 0, 0⟩, by decide +kernel⟩,
     ⟨rowCmd ⟨0x05, 2, allModes, 0, 0⟩, (stClear ⟨0x05, 2, allModes, 0, 0⟩).modPort 0 (fun p => { p with busyUntil := some 5 }), 5,
      by decide +kernel⟩⟩,
   by decide +kernel,
   ⟨rowCmd ⟨0x77, 2, allModes, 0, 0⟩, 0x77, stClear ⟨0x77, 2, allModes, 0, 0⟩, by decide +kernel⟩,
   ⟨rowCmd ⟨0x81, 9, [.w111], 0, 0⟩, stClear ⟨0x81, 9, [.w111], 0, 0⟩, by decide +kernel⟩⟩

theorem test_witness_flash_refusals :
    (∃ c : SpiCmd, ∃ alt : Bool, ∃ s : State, s.flashReady c ⟨0xC7, 6, allModes, 0, 0⟩ ∧ (s.port c.port).wel = true) ∧
    (∃ c : SpiCmd, ∃ alt : Bool, ∃ s : State, s.flashReady c ⟨0xC7, 6, allModes, 0, 0⟩ ∧ (s.port c.port).wel = false) ∧
    (∃ c : SpiCmd, ∃ alt : Bool, ∃ s : State, s.flashClear c) ∧
    (∃ c : SpiCmd, ∃ s : State, s.flashReady c ⟨0x01, 7, [.w111, .w444], 0, 0⟩) ∧
    (∃ c : SpiCmd, ∃ s : State, s.flashClear c) ∧
    (∃ c : SpiCmd, ∃ s : State, s.flashReady c ⟨0x81, 9, [.w111], 0, 0⟩ ∧ ¬(s.flashListed c ⟨0x81, 9, [.w111], 0, 0⟩
      ∧ s.profile c.port = 2 ∧ (s.port c.port).wel = true ∧ (s.port c.port).addr4 = false ∧ c.addr = 0 ∧ c.data =
      [0xE7])) ∧
    (∃ c : SpiCmd, ∃ s : State, s.flashReady c ⟨0x81, 9, [.w111], 0, 0⟩ ∧ s.flashListed c ⟨0x81, 9, [.w111], 0, 0⟩ ∧
      s.profile c.port = 2 ∧ (s.port c.port).wel = true ∧ (s.port c.port).addr4 = false ∧ c.addr = 0 ∧ c.data =
      [0xE7]) ∧
    (∃ c : SpiCmd, ∃ e : Bool, ∃ s : State, s.flashClear c) ∧
    (∃ c : SpiCmd, ∃ e : Bool, ∃ s : State, s.core.op.powered = true ∧ c.port < s.ports.length ∧ (s.port c.port).mode
      = .manifest) ∧
    (∃ c : SpiCmd, ∃ op : Nat, ∃ s : State, s.core.op.powered = true ∧ c.port < s.ports.length ∧ (s.port c.port).mode
      = .manifest) ∧
    (∃ c : SpiCmd, ∃ op : Nat, ∃ s : State, s.flashClear c ∧ (op = 0x31 ∨ op = 0x11)) :=
  ⟨⟨rowCmd ⟨0xC7, 6, allModes, 0, 0⟩, true, stRow ⟨0xC7, 6, allModes, 0, 0⟩ .serve (fun p => { p with wel := true }), by decide +kernel⟩,
   ⟨rowCmd ⟨0xC7, 6, allModes, 0, 0⟩, true, stRow ⟨0xC7, 6, allModes, 0, 0⟩ .serve id, by decide +kernel⟩,
   ⟨rowCmd ⟨0xC7, 6, allModes, 0, 0⟩, false, stClear ⟨0xC7, 6, allModes, 0, 0⟩, by decide +kernel⟩,
   ⟨rowCmd ⟨0x01, 7, [.w111, .w444], 0, 0⟩, stRow ⟨0x01, 7, [.w111, .w444], 0, 0⟩ .serve id, by decide +kernel⟩,
   ⟨rowCmd ⟨0x01, 7, [.w111, .w444], 0, 0⟩, stClear ⟨0x01, 7, [.w111, .w444], 0, 0⟩, by decide +kernel⟩,
   ⟨rowCmd ⟨0x81, 9, [.w111], 0, 0⟩, stRow ⟨0x81, 9, [.w111], 0, 0⟩ .serve id, by decide +kernel⟩,
   ⟨{ rowCmd ⟨0x81, 9, [.w111], 0, 0⟩ with data := [0xE7] }, (stRow ⟨0x81, 9, [.w111], 0, 0⟩ .serve (fun p => { p with wel := true })).setVal (pKey 0 7) [2], by decide +kernel⟩,
   ⟨rowCmd ⟨0xC7, 6, allModes, 0, 0⟩, true, stClear ⟨0xC7, 6, allModes, 0, 0⟩, by decide +kernel⟩,
   ⟨rowCmd ⟨0xC7, 6, allModes, 0, 0⟩, false, stRow ⟨0xC7, 6, allModes, 0, 0⟩ .serve id, by decide +kernel⟩,
   ⟨rowCmd ⟨0xC7, 6, allModes, 0, 0⟩, 0x77, stRow ⟨0xC7, 6, allModes, 0, 0⟩ .serve id, by decide +kernel⟩,
   ⟨rowCmd ⟨0xC7, 6, allModes, 0, 0⟩, 0x31, stClear ⟨0xC7, 6, allModes, 0, 0⟩, by decide +kernel⟩⟩

theorem test_witness_flash_resets :
    (∃ c : SpiCmd, ∃ s : State, s.flashReady c ⟨0x38, 9, [.w111], 0, 0⟩ ∧ s.flashListed c ⟨0x38, 9, [.w111], 0, 0⟩) ∧
    (∃ c : SpiCmd, ∃ s : State, s.flashReady c ⟨0x38, 9, [.w111], 0, 0⟩ ∧ ¬s.flashListed c ⟨0x38, 9, [.w111], 0, 0⟩) ∧
    (∃ c : SpiCmd, ∃ s : State, s.flashClear c) ∧
    (∃ c : SpiCmd, ∃ s : State, s.flashReady c ⟨0x38, 9, [.w444], 0, 0⟩ ∧ s.flashListed c ⟨0x38, 9, [.w444], 0, 0⟩) ∧
    (∃ c : SpiCmd, ∃ s : State, s.flashReady c ⟨0x38, 9, [.w444], 0, 0⟩ ∧ ¬s.flashListed c ⟨0x38, 9, [.w444], 0, 0⟩) ∧
    (∃ c : SpiCmd, ∃ s : State, s.flashClear c) ∧
    (∃ c : SpiCmd, ∃ s : State, s.flashReady c ⟨0x66, 10, allModes, 0, 0⟩ ∧ s.flashListed c ⟨0x66, 10, allModes, 0,
      0⟩) ∧
    (∃ c : SpiCmd, ∃ s : State, s.flashReady c ⟨0x66, 10, allModes, 0, 0⟩ ∧ ¬s.flashListed c ⟨0x66, 10, allModes, 0,
      0⟩) ∧
    (∃ c : SpiCmd, ∃ s : State, s.flashClear c) ∧
    (∃ n : Nat, ∃ s : State, n < s.ports.length) ∧
    (∃ n : Nat, ∃ f : Nat, ∃ s : State, n < s.ports.length ∧ (s.port n).busyUntil = some f ∧ f ≤ s.now) ∧
    (∃ n : Nat, ∃ s : State, (∀ f, (s.port n).busyUntil = some f → s.now < f)) ∧
    (∃ n : Nat, ∃ idle : Bool, ∃ s : State, n < s.ports.length ∧ (s.port n).passedBusy = true ∧ (s.port n).mode ≠
      .off ∧ (s.port n).pollAt ≤ s.now) :=
  ⟨⟨rowCmd ⟨0x38, 9, [.w111], 0, 0⟩, stRow ⟨0x38, 9, [.w111], 0, 0⟩ .serve id, by decide +kernel⟩,
   ⟨rowCmd ⟨0x38, 9, [.w111], 0, 0⟩, stUnlisted ⟨0x38, 9, [.w111], 0, 0⟩, by decide +kernel⟩,
   ⟨rowCmd ⟨0x38, 9, [.w111], 0, 0⟩, stClear ⟨0x38, 9, [.w111], 0, 0⟩, by decide +kernel⟩,
   ⟨rowCmd ⟨0x38, 9, [.w444], 0, 0⟩, stRow ⟨0x38, 9, [.w444], 0, 0⟩ .serve id, by decide +kernel⟩,
   ⟨rowCmd ⟨0x38, 9, [.w444], 0, 0⟩, stUnlisted ⟨0x38, 9, [.w444], 0, 0⟩, by decide +kernel⟩,
   ⟨rowCmd ⟨0x38, 9, [.w444], 0, 0⟩, stClear ⟨0x38, 9, [.w444], 0, 0⟩, by decide +kernel⟩,
   ⟨rowCmd ⟨0x66, 10, allModes, 0, 0⟩, stRow ⟨0x66, 10, allModes, 0, 0⟩ .serve id, by decide +kernel⟩,
   ⟨rowCmd ⟨0x66, 10, allModes, 0, 0⟩, stUnlisted ⟨0x66, 10, allModes, 0, 0⟩, by decide +kernel⟩,
   ⟨rowCmd ⟨0x66, 10, allModes, 0, 0⟩, stClear ⟨0x66, 10, allModes, 0, 0⟩, by decide +kernel⟩,
   ⟨3, State.reset, by decide +kernel⟩,
   ⟨0, 5, ((atOp .running).modPort 0 (fun p => { p with busyUntil := some 5 })).modCore (fun c => { c with tick := 5 }), by decide +kernel⟩,
   ⟨0, (atOp .running).modPort 0 (fun p => { p with busyUntil := some 5 }), fun f h => by injection h with e; subst e; decide⟩,
   ⟨0, true, (atOp .running).modPort 0 (fun p => { p with passedBusy := true, mode := .manifest }), by decide +kernel⟩⟩

theorem test_witness_flash_verification :
    (∃ n : Nat, ∃ data : Bytes, ∃ s : State, n < s.ports.length ∧ s.core.op.working = true ∧ (s.port n).mode =
      .measure ∧ (s.port n).phase = .verify ∧ s.sup.hold = false ∧ data.length = (s.port n).measureLen ∧ 8 * (s.port
      n).measureLen ≤ (s.port n).measBits ∧ sha384Frames [(s.port n).measureLen] ≤ s.digestTaken n) ∧
    (∃ n : Nat, ∃ data : Option (List Bytes), ∃ x : Slot, ∃ s : State, n < s.ports.length ∧ s.core.op.working = true
      ∧ (s.port n).mode = .manifest ∧ (s.port n).phase = .verify ∧ (s.port n).cand = some x ∧ s.sourceReason n x data
      = 0 ∧ s.hashed n x data ∧ (s.port n).shedBase + regionTotal (manRegions (s.manifest n x)) 1 ≤ 67108864) ∧
    (∃ n : Nat, ∃ data : Option (List Bytes), ∃ x : Slot, ∃ r : Nat, ∃ s : State, n < s.ports.length ∧
      s.core.op.working = true ∧ (s.port n).mode = .manifest ∧ (s.port n).phase = .verify ∧ (s.port n).cand = some x
      ∧ s.sourceReason n x data = r ∧ r ≠ 0 ∧ (r = 3 ∨ r = 4 → s.hashed n x data) ∧ (s.port n).trialServed = false ∧
      s.nextSource n (some x) false (s.port n).fallbackOf = none) ∧
    (∃ n : Nat, ∃ host : Nat, ∃ block : Bytes, ∃ k : Nat, ∃ cs : Nat, ∃ a : Nat, ∃ idx : Nat, ∃ s : State, n <
      s.ports.length ∧ s.core.op.powered = true ∧ (s.port n).mode = .manifest ∧ ((s.port n).phase = .serve ∨ (s.port
      n).phase = .update) ∧ s.shedLost = false ∧ (s.lane n).disabled = false ∧ (s.lane n).needTest = false ∧
      s.blockPlace n host = some (k, cs, a) ∧ s.tagIdx n host = some idx) ∧
    (∃ n : Nat, ∃ idx : Nat, ∃ l : List Nat, ∃ h : Nat, ∃ k : Nat, ∃ cs : Nat, ∃ a : Nat, ∃ s : State,
      s.core.op.powered = true ∧ (s.port n).mode = .manifest ∧ ((s.port n).phase = .serve ∨ (s.port n).phase =
      .update) ∧ (s.port n).csBusy cs = false ∧ (s.port n).debts = idx :: l ∧ s.hostOfTag n idx = some h ∧
      s.blockPlace n h = some (k, cs, a)) ∧
    (∃ n : Nat, ∃ f : Nat, ∃ s : State, n < s.ports.length ∧ (s.port n).sweep = some f ∧ s.shedLost = false ∧
      s.sweepLen n ≤ (s.port n).sweepAt) ∧
    (∃ n : Nat, ∃ f : Nat, ∃ s : State, n < s.ports.length ∧ (s.port n).sweep = some f ∧ (s.port n).sweepLate = false
      ∧ f + 2 * secFrames ≤ s.now) ∧
    (∃ n : Nat, ∃ e : Nat, ∃ s : State, n < s.ports.length ∧ (s.port n).trialEnd = some e ∧ e ≤ s.now) ∧
    (∃ n : Nat, ∃ h : HoldInput, ∃ s : State, n < s.ports.length ∧ s.core.op = .recovery ∧ s.haltLatched = false ∧
      (s.port n).recovering = true ∧ ((s.port n).phase = .serve ∨ (s.port n).phase = .hold)) :=
  ⟨⟨0, zeros 1024, ((atOp .running).modPort 0 (fun p => { p with mode := .measure, phase := .verify, flashSize := 1, measBits := 8192 })).modDevJobs (fun _ => [⟨1, .digest 0 99, 0, none, 99999⟩]), by decide +kernel⟩,
   ⟨0, some [], .a, stVerify, by decide +kernel⟩,
   ⟨0, none, .a, 7, stVerify.modPort 0 (fun p => { p with manOk := [false, true, true] }), by decide +kernel⟩,
   ⟨0, 0, [], 0, 0, 0, 0, stStream, by decide +kernel⟩,
   ⟨0, 0, [], 0, 0, 0, 0, stStream, by decide +kernel⟩,
   ⟨0, 0, (atOp .running).modPort 0 (fun p => { p with sweep := some 0, sweepAgain := true }), by decide +kernel⟩,
   ⟨0, 0, ((atOp .running).modPort 0 (fun p => { p with sweep := some 0 })).modCore (fun c => { c with tick := 4000000 }), by decide +kernel⟩,
   ⟨0, 0, (atOp .running).modPort 0 (fun p => { p with trialEnd := some 0 }), by decide +kernel⟩,
   ⟨0, ⟨[], [], true, false, false⟩, (atOp .recovery).modPort 0 (fun p => { p with recovering := true }), by decide +kernel⟩⟩

/-- The reason 2 of a source that has no manifest, under the same hypotheses. -/
theorem test_witness_flash_verification_absent : ∃ s : State, 0 < s.ports.length ∧ s.core.op.working = true ∧
    (s.port 0).mode = .manifest ∧ (s.port 0).phase = .verify ∧ (s.port 0).cand = some .r ∧
    s.sourceReason 0 .r none = 2 ∧ (s.port 0).trialServed = false ∧
    s.nextSource 0 (some .r) false (s.port 0).fallbackOf = none :=
  ⟨(atOp .running).modPort 0 (fun p => { p with mode := .manifest, phase := .verify, cand := some .r }), by decide +kernel⟩

theorem test_witness_firmware_update :
    (∃ p : Nat, ∃ src : Nat, ∃ s : State, s.pldmOpen p src) ∧
    (∃ p : Nat, ∃ src : Nat, ∃ s : State, s.pldmOpen p src) ∧
    (∃ p : Nat, ∃ src : Nat, ∃ k : Nat, ∃ s : State, s.pldmOpen p src ∧ s.pldm.st = .idle) ∧
    (∃ p : Nat, ∃ src : Nat, ∃ k : Nat, ∃ s : State, s.pldmOpen p src ∧ s.pldm.st ≠ .idle) ∧
    (∃ p : Nat, ∃ src : Nat, ∃ cls : Nat, ∃ c : Nat, ∃ s : State, s.pldmOpen p src ∧ (s.pldm.st = .learn ∨ s.pldm.st
      = .ready)) ∧
    (∃ p : Nat, ∃ src : Nat, ∃ c : Nat, ∃ k : Nat, ∃ z : Nat, ∃ x : Slot, ∃ s : State, s.pldmOpen p src ∧ s.pldm.st =
      .ready ∧ s.updateTarget c k = some x ∧ 0 < z) ∧
    (∃ p : Nat, ∃ src : Nat, ∃ cls : Nat, ∃ c : Nat, ∃ k : Nat, ∃ z : Nat, ∃ s : State, s.pldmOpen p src ∧ s.pldm.st
      = .ready ∧ (cls ≠ compClass ∨ s.updateTarget c k = none)) ∧
    (∃ p : Nat, ∃ src : Nat, ∃ s : State, s.pldmOpen p src ∧ s.pldm.st = .ready) ∧
    (∃ p : Nat, ∃ src : Nat, ∃ s : State, s.pldmOpen p src) ∧
    (∃ p : Nat, ∃ src : Nat, ∃ s : State, s.pldmOpen p src) ∧
    (∃ p : Nat, ∃ src : Nat, ∃ x : Slot, ∃ s : State, s.pldmOpen p src ∧ s.pldm.st = .download ∧ s.pldm.target = some
      x) ∧
    (∃ p : Nat, ∃ src : Nat, ∃ s : State, s.pldmOpen p src ∧ s.pldm.st ≠ .idle) ∧
    (∃ s : State, s.core.op.powered = true ∧ s.pwr.halted = false ∧ s.pldm.st ≠ .idle) ∧
    (∃ p : Nat, ∃ src : Nat, ∃ d : Bytes, ∃ b : Option (List Bytes), ∃ x : Slot, ∃ s : State, s.portionTaken p src x
      ∧ (s.portioned d b).pldm.received < s.pldm.size) ∧
    (∃ p : Nat, ∃ src : Nat, ∃ d : Bytes, ∃ b : Option (List Bytes), ∃ x : Slot, ∃ s : State, s.portionTaken p src x
      ∧ s.pldm.size ≤ (s.portioned d b).pldm.received ∧ (s.portioned d b).lengthRight = true) ∧
    (∃ p : Nat, ∃ src : Nat, ∃ d : Bytes, ∃ b : Option (List Bytes), ∃ x : Slot, ∃ s : State, s.portionTaken p src x
      ∧ s.pldm.size ≤ (s.portioned d b).pldm.received ∧ (s.portioned d b).lengthRight = false) ∧
    (∃ p : Nat, ∃ src : Nat, ∃ d : Bytes, ∃ b : Option (List Bytes), ∃ x : Slot, ∃ s : State, s.portionTaken p src x) :=
  ⟨⟨0, 8, stPldm .idle, by decide +kernel⟩,
   ⟨0, 8, stPldm .idle, by decide +kernel⟩,
   ⟨0, 8, 512, stPldm .idle, by decide +kernel⟩,
   ⟨0, 8, 512, stPldm .ready, by decide +kernel⟩,
   ⟨0, 8, 10, 0x7100, stPldm .learn, by decide +kernel⟩,
   ⟨0, 8, 0x7100, 0, 16384, .a, stPldm .ready, by decide +kernel⟩,
   ⟨0, 8, 11, 0x7100, 0, 16384, stPldm .ready, by decide +kernel⟩,
   ⟨0, 8, stPldm .ready, by decide +kernel⟩,
   ⟨0, 8, stPldm .idle, by decide +kernel⟩,
   ⟨0, 8, stPldm .idle, by decide +kernel⟩,
   ⟨0, 8, .a, (stPldm .download).modPldm (fun p => { p with target := some .a }), by decide +kernel⟩,
   ⟨0, 8, stPldm .ready, by decide +kernel⟩,
   ⟨stPldm .ready, by decide +kernel⟩,
   ⟨0, 8, [1], none, .a, (stPldm .download).modPldm (fun p => { p with target := some .a, manifestDone := true, component := 0x7100, size := 2 }), by decide +kernel⟩,
   ⟨0, 8, [], none, .a, (stPldm .download).modPldm (fun p => { p with target := some .a, manifestDone := true, component := 0x7100, size := 8192, received := 8192 }), by decide +kernel⟩,
   ⟨0, 8, [], none, .a, (stPldm .download).modPldm (fun p => { p with target := some .a, manifestDone := true, component := 0x7100, size := 0 }), by decide +kernel⟩,
   ⟨0, 8, [1], none, .a, (stPldm .download).modPldm (fun p => { p with target := some .a, manifestDone := true, component := 0x7100, size := 2 }), by decide +kernel⟩⟩

theorem test_witness_bus_endpoint :
    (∃ b : Nat, ∃ e : Nat, ∃ s : State, s.endpointOn b = true ∧ 8 ≤ e ∧ e ≤ 0xFE) ∧
    (∃ b : Nat, ∃ a : Nat, ∃ s : State, s.core.op.powered = true ∧ (b = 2 ∨ b = 3) ∧ a < 128 ∧ s.atn.cause.length =
      24) ∧
    (∃ b : Nat, ∃ s : State, s.core.op.powered = true ∧ (b = 2 ∨ b = 3)) ∧
    (∃ b : Nat, ∃ src : Nat, ∃ a : Nat, ∃ e : Nat, ∃ c : Nat, ∃ s : State, s.endpointOn b = true ∧ (e = 0 ∨ e =
      s.ownEid b)) ∧
    (∃ b : Nat, ∃ src : Nat, ∃ a : Nat, ∃ e : Nat, ∃ c : Nat, ∃ y : Nat, ∃ s : State, s.endpointOn b = true ∧ y ∉ [0,
      1, 5, 6, 0x7E]) ∧
    (∃ b : Nat, ∃ src : Nat, ∃ a : Nat, ∃ e : Nat, ∃ c : Nat, ∃ y : Nat, ∃ s : State, b < 2 ∧ s.serving = true ∧
      s.busOn b = true ∧ (s.eidQuarantined src = true ∨ s.addrQuarantined b a = true ∨ y ∉ [0, 1, 5, 6, 0x7E])) ∧
    (∃ b : Nat, ∃ src : Nat, ∃ a : Nat, ∃ e : Nat, ∃ c : Nat, ∃ s : State, s.endpointOn b = true ∧ (e = 0 ∨ e =
      s.ownEid b) ∧ pldmKnown c = false) ∧
    (∃ b : Nat, ∃ s : State, s.core.op.powered = true ∧ (b = 2 ∨ b = 3) ∧ s.dynAddr b = none) :=
  ⟨⟨2, 8, atOp .holding, by decide +kernel⟩,
   ⟨2, 8, atOp .holding, by decide +kernel⟩,
   ⟨2, atOp .holding, by decide +kernel⟩,
   ⟨2, 9, 0, 0, 2, atOp .holding, by decide +kernel⟩,
   ⟨2, 9, 0, 0, 2, 3, atOp .holding, by decide +kernel⟩,
   ⟨0, 9, 0x10, 0, 2, 3, (atOp .holding).modPar (fun q => { q with ic0 := true }), by decide +kernel⟩,
   ⟨2, 9, 0, 0, 0x55, atOp .holding, by decide +kernel⟩,
   ⟨2, atOp .holding, by decide +kernel⟩⟩

theorem test_witness_partners :
    (∃ f : Found, ∃ k : Nat, ∃ a : Nat, ∃ s : State, s.serving = true ∧ s.busOn f.bus = true ∧ f.kind = 1 ∧ k <
      s.par.table.length ∧ s.policyFor f = some k ∧ s.entryOfFound f = none ∧ (s.partner k).st.live = false ∧
      s.freeAddr f.bus = some a ∧ (∀ e, s.freeEid = some e → e ≠ 0)) ∧
    (∃ k : Nat, ∃ r : Resp, ∃ s : State, s.responded k r ∧ (s.partner k).step = 2) ∧
    (∃ k : Nat, ∃ r : Resp, ∃ s : State, s.responded k r ∧ (s.partner k).step = 3) ∧
    (∃ k : Nat, ∃ r : Resp, ∃ s : State, s.responded k r ∧ ((s.partner k).step = 6 ∨ (s.partner k).step = 8) ∧
      (s.partner k).outside r = false) ∧
    (∃ k : Nat, ∃ r : Resp, ∃ s : State, s.serving = true ∧ (s.eidQuarantined r.srcEid = true ∨ s.addrQuarantined
      (s.partner k).bus r.srcAddr = true ∨ (s.partner k).waiting = false ∨ (s.partner k).tag ≠ r.tag ∨ (s.partner
      k).eid ≠ r.srcEid)) ∧
    (∃ k : Nat, ∃ r : Resp, ∃ s : State, s.responded k r ∧ (s.partner k).outside r = true) ∧
    (∃ k : Nat, ∃ s : State, k < s.par.table.length ∧ s.serving = true ∧ (s.partner k).waiting = true ∧ (s.partner
      k).sentAt + 200000 ≤ s.now) ∧
    (∃ k : Nat, ∃ a : Bool, ∃ s : State, k < s.par.table.length ∧ s.serving = true ∧ (s.partner k).st.polled = true ∧
      (s.partner k).polledAt + s.valU (mkKey 0x3000 0x08) * 2000 ≤ s.now) ∧
    (∃ b : Nat, ∃ v : Nat, ∃ f : Nat, ∃ s : State, (v, f) ∈ s.par.eidQuar ∧ f + 20000000 ≤ s.now ∧ (∀ k, k < 64 →
      ¬((s.partner k).st = .found ∧ (s.partner k).summary ≠ []))) ∧
    (∃ s : State, s.serving = true ∧ s.valU (mkKey 0x3000 0x09) ≠ 0 ∧ s.par.reattestAt + s.valU (mkKey 0x3000 0x09) *
      2000000 ≤ s.now) :=
  ⟨⟨foundOne, 0, 0x10, stFound, by decide +kernel, by decide +kernel, by decide +kernel, by decide +kernel, by decide +kernel, by decide +kernel, by decide +kernel, by decide +kernel, fun e h => by rw [show stFound.freeEid = some 32 by decide +kernel] at h; injection h with h; subst h; decide⟩,
   ⟨0, respOk, (stPartner (fun p => { p with waiting := true, eid := 8, step := 2 })), by decide +kernel⟩,
   ⟨0, respOk, (stPartner (fun p => { p with waiting := true, eid := 8, step := 3 })), by decide +kernel⟩,
   ⟨0, respOk, (stPartner (fun p => { p with waiting := true, eid := 8, step := 8 })), by decide +kernel⟩,
   ⟨0, respOk, atOp .running, by decide +kernel⟩,
   ⟨0, respOk, (stPartner (fun p => { p with waiting := true, eid := 8, step := 8, session := 0x10001 })), by decide +kernel⟩,
   ⟨0, (stPartner (fun p => { p with waiting := true, eid := 8, step := 2 })).modCore (fun c => { c with tick := 200000 }), by decide +kernel⟩,
   ⟨0, true, (stPartner (fun p => { p with st := .endpoint })).modCore (fun c => { c with tick := 10 ^ 12 }), by decide +kernel⟩,
   ⟨0, 8, 0, ((atOp .running).modPar (fun q => { q with eidQuar := [(8, 0)] })).modCore (fun c => { c with tick := 20000000 }), by decide +kernel⟩,
   ⟨((atOp .running).setVal (mkKey 0x3000 0x09) [1, 0, 0, 0]).modCore (fun c => { c with tick := 2000000 }), by decide +kernel⟩⟩

theorem test_witness_spdm_connection :
    (∃ q : SpdmReq, ∃ s : State, s.spdmOn q.transport = true ∧ s.fromQuarantine q.transport q.peer = false ∧
      s.spdmBusy q = false ∧ q.valid = true) ∧
    (∃ q : SpdmReq, ∃ c : SpdmConn, ∃ s : State, s.spdmReady q c 1 1 ∧ (q.version = 0x12 ∨ q.version = 0x13)) ∧
    (∃ q : SpdmReq, ∃ c : SpdmConn, ∃ s : State, s.spdmReady q c 2 2) ∧
    (∃ q : SpdmReq, ∃ c : SpdmConn, ∃ s : State, s.spdmReady q c 2 2) ∧
    (∃ q : SpdmReq, ∃ c : SpdmConn, ∃ s : State, s.spdmReady q c 3 3) ∧
    (∃ q : SpdmReq, ∃ c : SpdmConn, ∃ k : Nat, ∃ o : Nat, ∃ l : Nat, ∃ b : Bytes, ∃ s : State, s.spdmReady q c 3 3 ∧
      s.certChain k = some b ∧ o < b.length ∧ l ≠ 0) ∧
    (∃ q : SpdmReq, ∃ k : Nat, ∃ s : State, s.spdmOn q.transport = true ∧ s.fromQuarantine q.transport q.peer =
      false) ∧
    (∃ q : SpdmReq, ∃ s : State, s.spdmOn q.transport = true ∧ s.fromQuarantine q.transport q.peer = false ∧
      s.spdmBusy q = true) ∧
    (∃ q : SpdmReq, ∃ s : State, s.spdmOn q.transport = true ∧ s.fromQuarantine q.transport q.peer = true) :=
  ⟨⟨⟨1, 8, 0x12, true, []⟩, (stConn ⟨1, 8, 0x12, 1, none, [], none⟩), by decide +kernel⟩,
   ⟨⟨1, 8, 0x12, true, []⟩, ⟨1, 8, 0x12, 1, none, [], none⟩, (stConn ⟨1, 8, 0x12, 1, none, [], none⟩), by decide +kernel⟩,
   ⟨⟨1, 8, 0x12, true, []⟩, ⟨1, 8, 0x12, 2, none, [], none⟩, (stConn ⟨1, 8, 0x12, 2, none, [], none⟩), by decide +kernel⟩,
   ⟨⟨1, 8, 0x12, true, []⟩, ⟨1, 8, 0x12, 2, none, [], none⟩, (stConn ⟨1, 8, 0x12, 2, none, [], none⟩), by decide +kernel⟩,
   ⟨⟨1, 8, 0x12, true, []⟩, ⟨1, 8, 0x12, 3, none, [], none⟩, (stConn ⟨1, 8, 0x12, 3, none, [], none⟩), by decide +kernel⟩,
   ⟨⟨1, 8, 0x12, true, []⟩, ⟨1, 8, 0x12, 3, none, [], none⟩, 1, 0, 1, _, (stConn ⟨1, 8, 0x12, 3, none, [], none⟩).setVal (mkKey 0x3300 0x01) [1], by decide +kernel, rfl, by rw [List.length_append]; exact Nat.lt_of_lt_of_le (by decide +kernel) (Nat.le_add_right _ _), by decide⟩,
   ⟨⟨1, 8, 0x12, true, []⟩, 0, (stConn ⟨1, 8, 0x12, 1, none, [], none⟩), by decide +kernel⟩,
   ⟨⟨1, 8, 0x12, true, []⟩, stConn ⟨1, 8, 0x12, 3, (some ⟨0x83, 0, 0, [0, 0], 0, 5, true⟩), [], none⟩, by decide +kernel⟩,
   ⟨⟨3, 8, 0x12, true, []⟩, (stConn ⟨1, 8, 0x12, 3, none, [], none⟩).modPar (fun p => { p with ic0 := true, eidQuar := [(8, 0)] }), by decide +kernel⟩⟩

theorem test_witness_spdm_signed :
    (∃ q : SpdmReq, ∃ c : SpdmConn, ∃ k : Nat, ∃ m : Nat, ∃ b : Bytes, ∃ s : State, s.spdmReady q c 3 3 ∧ s.certChain
      k = some b ∧ (m = 0 ∨ m = 1 ∨ m = 0xFF)) ∧
    (∃ q : SpdmReq, ∃ c : SpdmConn, ∃ i : Nat, ∃ r : Bytes, ∃ s : State, s.spdmReady q c 3 3 ∧ s.measRecord i = some
      r) ∧
    (∃ q : SpdmReq, ∃ c : SpdmConn, ∃ i : Nat, ∃ r : Bytes, ∃ s : State, s.spdmReady q c 3 3 ∧ s.measRecord i = some
      r) ∧
    (∃ q : SpdmReq, ∃ c : SpdmConn, ∃ k : Nat, ∃ b : Bytes, ∃ s : State, s.spdmReady q c 3 3 ∧ s.certChain k = some
      b) ∧
    (∃ q : SpdmReq, ∃ c : SpdmConn, ∃ o : Owed, ∃ s : State, s.spdmOn q.transport = true ∧ s.fromQuarantine
      q.transport q.peer = false ∧ s.conn? q.transport q.peer = some c ∧ c.owed = some o ∧ o.told = true ∧ q.valid =
      true ∧ q.version = c.version) ∧
    (∃ q : SpdmReq, ∃ c : SpdmConn, ∃ o : Owed, ∃ s : State, s.spdmOn q.transport = true ∧ s.conn? q.transport q.peer
      = some c ∧ c.owed = some o ∧ o.told = true ∧ o.left ≠ 0) :=
  ⟨⟨⟨1, 8, 0x12, true, []⟩, ⟨1, 8, 0x12, 3, none, [], none⟩, 1, 0, _, (stConn ⟨1, 8, 0x12, 3, none, [], none⟩).setVal (mkKey 0x3300 0x01) [1], by decide +kernel, rfl, by decide⟩,
   ⟨⟨1, 8, 0x12, true, []⟩, ⟨1, 8, 0x12, 3, none, [], none⟩, 0, _, (stConn ⟨1, 8, 0x12, 3, none, [], none⟩), by decide +kernel, rfl⟩,
   ⟨⟨1, 8, 0x12, true, []⟩, ⟨1, 8, 0x12, 3, none, [], none⟩, 0, _, (stConn ⟨1, 8, 0x12, 3, none, [], none⟩), by decide +kernel, rfl⟩,
   ⟨⟨1, 8, 0x12, true, []⟩, ⟨1, 8, 0x12, 3, none, [], none⟩, 1, _, (stConn ⟨1, 8, 0x12, 3, none, [], none⟩).setVal (mkKey 0x3300 0x01) [1], by decide +kernel, rfl⟩,
   ⟨⟨1, 8, 0x12, true, []⟩, ⟨1, 8, 0x12, 3, (some ⟨0x83, 0, 0, [0, 0], 0, 0, true⟩), [], none⟩, ⟨0x83, 0, 0, [0, 0], 0, 0, true⟩, stConn ⟨1, 8, 0x12, 3, (some ⟨0x83, 0, 0, [0, 0], 0, 0, true⟩), [], none⟩, by decide +kernel⟩,
   ⟨⟨1, 8, 0x12, true, []⟩, ⟨1, 8, 0x12, 3, (some ⟨0x83, 0, 0, [0, 0], 0, 5, true⟩), [], none⟩, ⟨0x83, 0, 0, [0, 0], 0, 5, true⟩, stConn ⟨1, 8, 0x12, 3, (some ⟨0x83, 0, 0, [0, 0], 0, 5, true⟩), [], none⟩, by decide +kernel⟩⟩

theorem stSess_version (e : Bool) : ∀ c, (stSess e).conn? 1 8 = some c → c.version = 0x12 := by
  intro c h
  have hc : (stSess e).conn? 1 8 = some ⟨1, 8, 0x12, 3, none, [], none⟩ := by cases e <;> decide +kernel
  rw [hc] at h
  injection h with h
  subst h
  rfl

theorem test_witness_spdm_sessions :
    (∃ q : SpdmReq, ∃ i : Nat, ∃ x : SpdmSess, ∃ s : State, s.sessReady q i x ∧ x.established = false) ∧
    (∃ q : SpdmReq, ∃ i : Nat, ∃ x : SpdmSess, ∃ s : State, s.sessReady q i x ∧ x.established = false) ∧
    (∃ q : SpdmReq, ∃ i : Nat, ∃ x : SpdmSess, ∃ s : State, s.sessReady q i x ∧ x.established = true) ∧
    (∃ q : SpdmReq, ∃ i : Nat, ∃ x : SpdmSess, ∃ o : Nat, ∃ s : State, s.sessReady q i x ∧ x.established = true ∧ 1 ≤
      o ∧ o ≤ 3) ∧
    (∃ q : SpdmReq, ∃ i : Nat, ∃ x : SpdmSess, ∃ s : State, s.sessReady q i x) ∧
    (∃ q : SpdmReq, ∃ i : Nat, ∃ x : SpdmSess, ∃ s : State, s.sessReady q i x) ∧
    (∃ q : SpdmReq, ∃ i : Nat, ∃ b : Bool, ∃ s : State, s.spdmOn q.transport = true ∧ s.fromQuarantine q.transport
      q.peer = false ∧ s.spdmSess? q i = none) ∧
    (∃ i : Nat, ∃ x : SpdmSess, ∃ s : State, s.serving = true ∧ s.par.sessions.find? (·.id == i) = some x ∧ x.lastAt
      + 240000000 ≤ s.now) ∧
    (∃ i : Nat, ∃ k : Nat, ∃ s : State, s.serving = true ∧ s.par.sessions.find? (·.id == i) = none ∧ i ≠ 0 ∧ k < 64 ∧
      k < s.par.table.length ∧ (s.partner k).session = i ∧ (∀ j, j < k → (s.partner j).session ≠ i) ∧ (s.partner
      k).sessAt + 240000000 ≤ s.now) ∧
    (∃ p : Nat, ∃ n : Nat, ∃ s : State, s.serving = true ∧ p < 2 ∧ s.valU (mkKey (0xA010 + p) 0x01) = 1 ∧
      (s.dict.conns.filter (·.port == p)).length < 8 ∧ s.dict.conns.any (fun c => c.port == p && c.id == n) = false) :=
  ⟨⟨⟨1, 8, 0x12, true, []⟩, 7, ⟨7, 1, 8, [], false, 0, [], 0⟩, stSess false, ⟨by decide +kernel, by decide +kernel, by decide +kernel, by decide +kernel, stSess_version _⟩, by decide +kernel⟩,
   ⟨⟨1, 8, 0x12, true, []⟩, 7, ⟨7, 1, 8, [], false, 0, [], 0⟩, stSess false, ⟨by decide +kernel, by decide +kernel, by decide +kernel, by decide +kernel, stSess_version _⟩, by decide +kernel⟩,
   ⟨⟨1, 8, 0x12, true, []⟩, 7, ⟨7, 1, 8, [], true, 0, [], 0⟩, stSess true, ⟨by decide +kernel, by decide +kernel, by decide +kernel, by decide +kernel, stSess_version _⟩, by decide +kernel⟩,
   ⟨⟨1, 8, 0x12, true, []⟩, 7, ⟨7, 1, 8, [], true, 0, [], 0⟩, 1, stSess true, ⟨by decide +kernel, by decide +kernel, by decide +kernel, by decide +kernel, stSess_version _⟩, by decide +kernel⟩,
   ⟨⟨1, 8, 0x12, true, []⟩, 7, ⟨7, 1, 8, [], true, 0, [], 0⟩, stSess true, by decide +kernel, by decide +kernel, by decide +kernel, by decide +kernel, stSess_version _⟩,
   ⟨⟨1, 8, 0x12, true, []⟩, 7, ⟨7, 1, 8, [], true, 0, [], 0⟩, stSess true, by decide +kernel, by decide +kernel, by decide +kernel, by decide +kernel, stSess_version _⟩,
   ⟨⟨1, 8, 0x12, true, []⟩, 8, true, stSess true, by decide +kernel⟩,
   ⟨7, ⟨7, 1, 8, [], true, 0, [], 0⟩, (stSess true).modCore (fun c => { c with tick := 240000000 }), by decide +kernel⟩,
   ⟨0x10001, 0, (stPartner (fun p => { p with session := 0x10001 })).modCore (fun c => { c with tick := 240000000 }), by decide +kernel, by decide +kernel, by decide, by decide, by decide +kernel, by decide +kernel, fun j h => absurd h (Nat.not_lt_zero j), by decide +kernel⟩,
   ⟨0, 1, (atOp .running).setVal (mkKey 0xA010 0x01) [1], by decide +kernel⟩⟩

theorem test_witness_firmware_entries :
    (∃ r : Req, ∃ x : Sess, ∃ slot : Nat, ∃ s : State, s.takes r x 0x11000A (encN 1 slot) ∧ (slot = 1 ∨ slot = 2)) ∧
    (∃ r : Req, ∃ x : Sess, ∃ v : Nat, ∃ s : State, s.takes r x 0x110008 (encN 1 v) ∧ v = 1 ∧ s.boot.trialFrom.isSome
      = true) ∧
    (∃ r : Req, ∃ x : Sess, ∃ v : Nat, ∃ s : State, s.takes r x 0x11000B (encN 1 v) ∧ v = 1) ∧
    (∃ r : Req, ∃ x : Sess, ∃ v : Nat, ∃ s : State, s.takes r x 0x110005 (encN 1 v) ∧ v < 256) ∧
    (∃ r : Req, ∃ x : Sess, ∃ v : Nat, ∃ s : State, s.takes r x 0x710001 (encN 1 v) ∧ v = 1) :=
  ⟨⟨nextReq, reqSess 1, 1, stReq 1 (withLedger (fun l => { l with stA := .staged })), by decide +kernel⟩,
   ⟨nextReq, reqSess 1, 1, stReq 1 (fun s => (withLedger (fun l => { l with stA := .trial, trial := some .a }) s).modBoot (fun b => { b with trialFrom := some 0 })), by decide +kernel⟩,
   ⟨nextReq, reqSess 1, 1, stReq 1 id, by decide +kernel⟩,
   ⟨nextReq, reqSess 1, 0, stReq 1 (withLedger id), by decide +kernel⟩,
   ⟨nextReq, reqSess 1, 1, stReq 1 id, by decide +kernel⟩⟩

theorem test_witness_stile_entries :
    (∃ r : Req, ∃ x : Sess, ∃ port : Nat, ∃ v : Nat, ∃ y : Slot, ∃ l : PortLedger, ∃ s : State, s.takes r x (lKey
      port 0x09) (encN 1 v) ∧ port < 4 ∧ port < s.ports.length ∧ v < 256 ∧ slotOf v = some y ∧ s.portLedger port =
      some l ∧ l.st y = .staged) ∧
    (∃ r : Req, ∃ x : Sess, ∃ port : Nat, ∃ v : Nat, ∃ y : Slot, ∃ l : PortLedger, ∃ s : State, s.takes r x (lKey
      port 0x0A) (encN 1 v) ∧ port < 4 ∧ port < s.ports.length ∧ v = 1 ∧ s.portLedger port = some l ∧ l.trial = some
      y) ∧
    (∃ r : Req, ∃ x : Sess, ∃ port : Nat, ∃ v : Nat, ∃ s : State, s.takes r x (lKey port 0x0B) (encN 1 v) ∧ port < 4
      ∧ port < s.ports.length ∧ v = 1) ∧
    (∃ r : Req, ∃ x : Sess, ∃ port : Nat, ∃ k : Nat, ∃ v : Bytes, ∃ l : PortLedger, ∃ s : State, s.takes r x (iKey
      port k) (v) ∧ port < 4 ∧ port < s.ports.length ∧ 1 ≤ k ∧ k ≤ 3 ∧ s.portLedger port = some l) ∧
    (∃ r : Req, ∃ x : Sess, ∃ port : Nat, ∃ v : Nat, ∃ s : State, s.takes r x (iKey port 0x09) (encN 2 v) ∧ port < 4
      ∧ v < 65536) ∧
    (∃ r : Req, ∃ x : Sess, ∃ port : Nat, ∃ k : Nat, ∃ v : Nat, ∃ s : State, s.takes r x (iKey port k) (encN 4 v) ∧
      port < 4 ∧ (k = 4 ∨ k = 5 ∨ k = 6) ∧ v < 4294967296) ∧
    (∃ r : Req, ∃ x : Sess, ∃ port : Nat, ∃ k : Nat, ∃ v : Nat, ∃ s : State, (s.takes r x (pKey port k) (encN (if k =
      7 ∨ k = 9 then 1 else 4) v)) ∧ port < 4 ∧ 7 ≤ k ∧ k ≤ 10 ∧ (v < (if k = 7 ∨ k = 9 then 256 else 4294967296))) ∧
    (∃ r : Req, ∃ x : Sess, ∃ v : Bytes, ∃ s : State, s.takes r x 0x200001 (v)) ∧
    (∃ r : Req, ∃ x : Sess, ∃ v : Nat, ∃ s : State, s.takes r x 0x200005 (encN 1 v) ∧ v = 1 ∧ s.hal.st = .stopped) ∧
    (∃ r : Req, ∃ x : Sess, ∃ v : Nat, ∃ s : State, s.takes r x 0x200105 (encN 1 v) ∧ v < 32) :=
  ⟨⟨nextReq, reqSess 1, 0, 1, Slot.a, { portLedgerZero with stA := .staged }, stReq 1 (fun s => s.modPort 0 (fun p => { p with ledger := ⟨portForm.encode { portLedgerZero with stA := .staged }, []⟩ })), by decide +kernel⟩,
   ⟨nextReq, reqSess 1, 0, 1, Slot.a, { portLedgerZero with stA := .trial, trial := some .a }, stReq 1 (fun s => s.modPort 0 (fun p => { p with ledger := ⟨portForm.encode { portLedgerZero with stA := .trial, trial := some .a }, []⟩, trialServed := true, serving := some .a })), by decide +kernel⟩,
   ⟨nextReq, reqSess 1, 0, 1, stReq 1 id, by decide +kernel⟩,
   ⟨nextReq, reqSess 1, 0, 1, [], portLedgerZero, stReq 1 (fun s => s.modPort 0 (fun p => { p with ledger := ⟨portForm.encode portLedgerZero, []⟩ })), by decide +kernel⟩,
   ⟨nextReq, reqSess 1, 0, 0, stReq 1 (fun s => s.modPort 0 (fun p => { p with ledger := ⟨portForm.encode portLedgerZero, []⟩ })), by decide +kernel⟩,
   ⟨nextReq, reqSess 1, 0, 6, 4096, stReq 1 id, by decide +kernel⟩,
   ⟨nextReq, reqSess 1, 0, 8, 50000, stReq 1 id, by decide +kernel⟩,
   ⟨nextReq, reqSess 1, defaultSchedule, stReq 1 id, by decide +kernel⟩,
   ⟨nextReq, reqSess 1, 1, stReq 1 (fun s => s.modHal (fun h => { h with st := .stopped, step := 2 })), by decide +kernel⟩,
   ⟨nextReq, reqSess 1, 3, stReq 1 (fun s => s.modHal (fun h => { h with portHold := 3, alarmHold := true })), by decide +kernel⟩⟩

theorem test_witness_monitor_entries :
    (∃ r : Req, ∃ x : Sess, ∃ v : Nat, ∃ s : State, s.takes r x (0x700003) (encN 4 v) ∧ v < 16777216) ∧
    (∃ r : Req, ∃ x : Sess, ∃ n : Nat, ∃ s : State, s.takes r x (0x700004) (encN 1 n) ∧ n < 256) ∧
    (∃ r : Req, ∃ x : Sess, ∃ n : Nat, ∃ v : Nat, ∃ s : State, s.takes r x (mkKey 0x7010 n) (encN 1 v) ∧ n < 24) ∧
    (∃ r : Req, ∃ x : Sess, ∃ v : Nat, ∃ s : State, s.takes r x (0x900003) (encN 1 v) ∧ v < 2) ∧
    (∃ r : Req, ∃ x : Sess, ∃ v : Nat, ∃ s : State, s.takes r x (0x90000A) (encN 1 v) ∧ v = 0) ∧
    (∃ r : Req, ∃ x : Sess, ∃ v : Bytes, ∃ s : State, s.takes r x (0xA02301) (v)) ∧
    (∃ r : Req, ∃ x : Sess, ∃ g : Nat, ∃ v : Nat, ∃ s : State, s.takes r x (mkKey 0xA020 g) (encN 2 v) ∧ g < 24 ∧ v <
      65536) :=
  ⟨⟨nextReq, reqSess 1, 5, stReq 1 id, by decide +kernel⟩,
   ⟨nextReq, reqSess 1, 3, stReq 1 id, by decide +kernel⟩,
   ⟨nextReq, reqSess 1, 4, 9, stReq 1 id, by decide +kernel⟩,
   ⟨nextReq, reqSess 1, 0, stReq 1 id, by decide +kernel⟩,
   ⟨nextReq, reqSess 1, 0, stReq 1 id, by decide +kernel⟩,
   ⟨nextReq, reqSess 1, [3, 0, 1, 0], stReq 1 id, by decide +kernel⟩,
   ⟨nextReq, reqSess 1, 2, 7, stReq 1 id, by decide +kernel⟩⟩

theorem test_witness_life_cycle_entries :
    (∃ r : Req, ∃ x : Sess, ∃ v : Bytes, ∃ s : State, s.takes r x (0x100002) (v)) ∧
    (∃ r : Req, ∃ x : Sess, ∃ v : Nat, ∃ s : State, s.takes r x (0x100004) (encN 1 v) ∧ v = 1) ∧
    (∃ r : Req, ∃ x : Sess, ∃ v : Bytes, ∃ s : State, s.requestReady r x ∧ r.approver = none ∧ s.needsQuorum x.role
      0x100102 = false ∧ s.logOpen) :=
  ⟨⟨nextReq, reqSess 1, 5 :: zeros 127, stReq 1 id, by decide +kernel⟩,
   ⟨nextReq, reqSess 1, 1, stReq 1 (fun s => s.modLc (fun l => { l with mark := ⟨markForm.encode ⟨0, 2, 3, 0, []⟩, []⟩ })), by decide +kernel⟩,
   ⟨nextReq, reqSess 1, [], stReq 1 id, by decide +kernel⟩⟩

theorem test_witness_commit_and_restore :
    (∃ r : Req, ∃ x : Sess, ∃ v : Nat, ∃ s : State, s.takes r x 0x001001 (encN 8 v) ∧ v < 18446744073709551616 ∧ v ≠
      s.dict.committed) ∧
    (∃ r : Req, ∃ x : Sess, ∃ v : Nat, ∃ s : State, s.takes r x 0x001003 (encN 1 v) ∧ v = 1) :=
  ⟨⟨nextReq, reqSess 1, 2, stReq 1 fun s => s.modDict (fun d => { d with changes := 2 }), by decide +kernel⟩,
   ⟨nextReq, reqSess 1, 1, stReq 1 id, by decide +kernel⟩⟩

theorem no_live_partner (v : Bytes) : ∀ j, j ≠ 63 → ((stReq 1 id).partner j).st.live = true →
    ((stReq 1 id).partner j).equals v = false ∧
    ¬(((stReq 1 id).partner j).pid = ((stReq 1 id).partner 63).pid ∧ ((stReq 1 id).partner j).bus = ((stReq 1 id).partner 63).bus) := by
  intro j _ h
  have e : (stReq 1 id).partner j = partnerReset := by
    show (List.replicate 64 partnerReset).getD j partnerReset = partnerReset
    rw [List.getD_eq_getElem?_getD, List.getElem?_replicate]
    split <;> rfl
  rw [e] at h
  exact absurd h (by decide)

theorem test_witness_access_entries :
    (∃ r : Req, ∃ x : Sess, ∃ n : Nat, ∃ v : Bytes, ∃ s : State, s.takes r x (mkKey 0x0101 n) (v) ∧ n < 32) ∧
    (∃ r : Req, ∃ x : Sess, ∃ port : Nat, ∃ k : Nat, ∃ v : Bytes, ∃ s : State, s.takes r x (mkKey (0xA010 + port) k)
      (v) ∧ port < 2 ∧ k ≤ 5) ∧
    (∃ r : Req, ∃ x : Sess, ∃ k : Nat, ∃ v : Bytes, ∃ s : State, s.takes r x (mkKey 0x3200 k) (v) ∧ k < 64) ∧
    (∃ r : Req, ∃ x : Sess, ∃ k : Nat, ∃ v : Bytes, ∃ s : State, s.takes r x (mkKey 0x3200 k) (v) ∧ k < 64 ∧
      s.par.table.length = 64 ∧ (∀ j, j ≠ k → (s.partner j).st.live = true → (s.partner j).equals v = false ∧
      ¬((s.partner j).pid = (s.partner k).pid ∧ (s.partner j).bus = (s.partner k).bus))) ∧
    (∃ r : Req, ∃ x : Sess, ∃ k : Nat, ∃ j : Nat, ∃ v : Bytes, ∃ s : State, s.takes r x (mkKey 0x3200 k) (v) ∧ k < 64
      ∧ j < 64 ∧ j ≠ k ∧ s.par.table.length = 64 ∧ (s.partner j).st.live = true ∧ (s.partner j).equals v = true ∧ (∀
      i, i < j → (s.partner i).st.live = true → (s.partner i).equals v = false)) ∧
    (∃ r : Req, ∃ x : Sess, ∃ v : Bytes, ∃ s : State, s.takes r x (0x330001) (v)) ∧
    (∃ r : Req, ∃ x : Sess, ∃ v : Nat, ∃ s : State, s.takes r x 0x900009 (encN 1 v) ∧ v = 1) :=
  ⟨⟨nextReq, reqSess 1, 4, zeros 64, stReq 1 id, by decide +kernel⟩,
   ⟨nextReq, reqSess 1, 1, 1, [1], stReq 1 id, by decide +kernel⟩,
   ⟨nextReq, reqSess 1, 3, zeros 128, stReq 1 id, by decide +kernel⟩,
   ⟨nextReq, reqSess 1, 63, ([1, 0, 1, 2, 3, 4, 5, 6, 0, 0x12] ++ zeros 118), stReq 1 id, by decide +kernel, by decide, rfl, no_live_partner ([1, 0, 1, 2, 3, 4, 5, 6, 0, 0x12] ++ zeros 118)⟩,
   ⟨nextReq, reqSess 1, 63, 5, ([1, 0, 1, 2, 3, 4, 5, 6, 0, 0x12] ++ zeros 118), stReq 1 (fun s => s.modPar (fun q => { q with table := updAt q.table 5 (fun p => { p with st := .endpoint, bus := 0, pid := [1, 2, 3, 4, 5, 6] }) })), by decide +kernel, by decide, by decide, by decide, rfl, by decide +kernel, by decide +kernel, fun i h => by interval_cases i <;> decide +kernel⟩,
   ⟨nextReq, reqSess 1, [], stReq 1 id, by decide +kernel⟩,
   ⟨nextReq, reqSess 1, 1, stReq 1 fun s => s.modCas (fun c => { c with role := .orphan }), by decide +kernel⟩⟩

theorem test_witness_logbook_entries :
    (∃ r : Req, ∃ x : Sess, ∃ v : Nat, ∃ s : State, s.takes r x (0x800301) (encN 8 v) ∧ v < 18446744073709551616) ∧
    (∃ r : Req, ∃ x : Sess, ∃ v : Nat, ∃ s : State, s.takes r x (0x800005) (encN 1 v) ∧ v < 256) ∧
    (∃ r : Req, ∃ x : Sess, ∃ v : Bytes, ∃ s : State, s.requestReady r x ∧ r.approver = none) ∧
    (∃ r : Req, ∃ x : Sess, ∃ v : Nat, ∃ s : State, s.requestReady r x ∧ r.approver = none ∧ s.writeCheck x 0x800101
      (encN 8 v) = 0 ∧ v < 18446744073709551616) :=
  ⟨⟨nextReq, reqSess 1, 9, stReq 1 id, by decide +kernel⟩,
   ⟨nextReq, reqSess 1, 1, stReq 1 id, by decide +kernel⟩,
   ⟨nextReq, reqSess 1, [], stReq 1 id, by decide +kernel⟩,
   ⟨nextReq, reqSess 1, 5, stReq 1 id, by decide +kernel⟩⟩

theorem test_witness_yard_entries :
    (∃ r : Req, ∃ x : Sess, ∃ v : Bytes, ∃ s : State, s.requestReady r x ∧ r.approver = none ∧ s.needsQuorum x.role
      0x600001 = false ∧ s.logOpen) ∧
    (∃ r : Req, ∃ x : Sess, ∃ n : Nat, ∃ s : State, s.takes r x (0x600102) (encN 1 n) ∧ n < 256) ∧
    (∃ r : Req, ∃ x : Sess, ∃ v : Nat, ∃ s : State, s.takes r x (0x604004) (encN 1 v) ∧ v = 1) :=
  ⟨⟨nextReq, reqSess 1, [], stReq 1 id, by decide +kernel⟩,
   ⟨nextReq, reqSess 1, 0, stReq 1 id, by decide +kernel⟩,
   ⟨nextReq, reqSess 1, 1, stReq 1 (fun s => s.modLane 5 (fun l => { l with disabled := true })), by decide +kernel⟩⟩

/-- CREATE of an ML-DSA-44 key pair for the device to generate. -/
def pairHeader : Bytes := zeros 12 ++ bytesOf [0x40, 0, 0, 0, 0, 0, 0, 0, 0x80, 0] ++ zeros 42
def createPair : Bytes := keyValue 1 pairHeader []
/-- The DRBG serves. -/
def stEntropyOk (s : State) : State := s.modTack (fun t => { t with drbgOk := true })

theorem create_pair_check : (stReq 1 stEntropyOk).writeCheck (reqSess 1) 0x400006 createPair = 0 := by
  have hv : ∀ v : Bytes, (stReq 1 stEntropyOk).secretCheck 0x40 (fit (keyLen 0x40) v) false = 0 := by
    intro v
    rw [State.secretCheck, if_neg (by decide), if_neg (by rw [fit_length]; exact fun h => h rfl),
      if_neg (by simp [tdeaWeak, isTdea]), if_neg (by simp), State.curvePoint, if_pos (by decide)]
  have hp : ∃ p, (stReq 1 stEntropyOk).keyPlan (keyCmdOf createPair) = .ok p := by
    rw [State.keyPlan]
    simp only [show (keyCmdOf createPair).code = 1 from by decide +kernel, show (keyCmdOf createPair).data = [] from by decide +kernel,
      show (keyCmdOf createPair).attrs.typ = 0x40 from by decide +kernel]
    rw [if_neg (by decide), if_neg (by decide), if_neg (by decide), if_neg (by decide), if_neg (by decide +kernel),
      if_neg (by decide +kernel), if_neg (by rw [hv]; decide), if_neg (by decide +kernel)]
    exact ⟨_, rfl⟩
  obtain ⟨p, hp⟩ := hp
  have hu : (stReq 1 stEntropyOk).unitRule 0x400006 createPair = 0 := by
    show (if keyCmdForm createPair ≠ 0 then keyCmdForm createPair else
      match (stReq 1 stEntropyOk).keyPlan (keyCmdOf createPair) with
      | .ok _ => 0
      | .error e => e) = 0
    rw [if_neg (by decide +kernel), hp]
  have he : (stReq 1 stEntropyOk).entryCheck 1 0x400006 createPair = (stReq 1 stEntropyOk).unitRule 0x400006 createPair := by
    unfold State.entryCheck
    rw [show entryOf 0x400006 = some _ from rfl]
    dsimp only
    rw [if_neg (by decide +kernel), if_neg (by decide +kernel), if_neg (by decide +kernel), if_neg (by decide), if_neg (by decide),
      if_pos (by decide)]
  rw [State.writeCheck, show entryOf 0x400006 = some _ from rfl]
  dsimp only
  rw [if_neg (by decide +kernel), if_neg (by decide +kernel), if_neg (by decide +kernel), if_neg (by decide +kernel)]
  exact he.trans hu

theorem test_witness_dictionary_writes :
    (∃ r : Req, ∃ x : Sess, ∃ index : Nat, ∃ sub : Nat, ∃ v : Bytes, ∃ s : State, s.takes r x (mkKey index sub) v ∧
      mkKey index sub ≠ 0x500001 ∧ mkKey index sub ≠ 0x800101 ∧ mkKey index sub ≠ 0x800103 ∧ mkKey index sub ≠
      0x001001 ∧ mkKey index sub ≠ 0x001003 ∧ mkKey index sub ≠ 0x900009 ∧ mkKey index sub ≠ 0x400006 ∧ mkKey index
      sub / 256 ≠ 0x4002) ∧
    (∃ r : Req, ∃ x : Sess, ∃ index : Nat, ∃ sub : Nat, ∃ v : Bytes, ∃ s : State, s.requestReady r x ∧ r.approver =
      none ∧ s.valueProgramme (mkKey index sub) v = none ∧ mkKey index sub ≠ 0x500001 ∧ s.writeCheck x (mkKey index
      sub) v ≠ 0) ∧
    (∃ r : Req, ∃ x : Sess, ∃ index : Nat, ∃ sub : Nat, ∃ n : Nat, ∃ l : Bool, ∃ c : Bool, ∃ v : Bytes, ∃ s : State,
      s.requestReady r x ∧ r.approver = none ∧ s.writeCheck x (mkKey index sub) v = 0 ∧ s.valueProgramme (mkKey index
      sub) v = some (l, c, n) ∧ s.needsQuorum x.role (mkKey index sub) = false) ∧
    (∃ r : Req, ∃ x : Sess, ∃ index : Nat, ∃ sub : Nat, ∃ off : Nat, ∃ data : Bytes, ∃ s : State, s.requestReady r x
      ∧ off + data.length ≤ stagingSize) ∧
    (∃ r : Req, ∃ x : Sess, ∃ index : Nat, ∃ sub : Nat, ∃ total : Nat, ∃ digest : Bytes, ∃ s : State, s.requestReady
      r x ∧ r.approver = none ∧ s.valueProgramme (mkKey index sub) (x.staged (mkKey index sub)) = none ∧ s.writeCheck
      x (mkKey index sub) (x.staged (mkKey index sub)) = 0 ∧ s.needsQuorum x.role (mkKey index sub) = false ∧
      s.logOpen ∧ total = (x.staged (mkKey index sub)).length ∧ digest = sha384 (x.staged (mkKey index sub)) ∧ mkKey
      index sub ≠ 0x500001 ∧ mkKey index sub ≠ 0x800101 ∧ mkKey index sub ≠ 0x800103 ∧ mkKey index sub ≠ 0x001001 ∧
      mkKey index sub ≠ 0x001003 ∧ mkKey index sub ≠ 0x900009 ∧ mkKey index sub ≠ 0x400006) :=
  ⟨⟨nextReq, reqSess 1, 0x2800, 0x01, [100, 0, 0, 0], stReq 1 id, by decide +kernel⟩,
   ⟨nextReq, reqSess 2, 0x1100, 0x0B, [1], stReq 2 id, by decide +kernel⟩,
   ⟨nextReq, reqSess 1, 0x4000, 6, _, _, _, createPair, stReq 1 stEntropyOk, by decide +kernel, rfl, create_pair_check, rfl, by decide +kernel⟩,
   ⟨nextReq, reqSess 1, 0x2800, 0x01, 2, [1, 2], stReq 1 id, by decide +kernel⟩,
   ⟨nextReq, { reqSess 1 with staging := some (mkKey 0x2800 0x01, [100, 0, 0, 0]) }, 0x2800, 0x01, 4, sha384 [100, 0, 0, 0], (stReq 1 id).modDict (fun d => { d with sessions := [{ reqSess 1 with staging := some (mkKey 0x2800 0x01, [100, 0, 0, 0]) }] }), by decide +kernel, rfl, by decide +kernel, by decide +kernel, by decide +kernel, by decide +kernel, by decide +kernel, rfl, by decide +kernel, by decide +kernel⟩⟩

theorem test_witness_dictionary_reads :
    (∃ ch : Chan, ∃ x : Sess, ∃ r : Req, ∃ index : Nat, ∃ sub : Nat, ∃ off : Nat, ∃ s : State, s.requestReady r x ∧
      r.sid ≠ 0 ∧ readCheck x.role (mkKey index sub) = 0 ∧ 0x1000 ≤ mkKey index sub / 256 ∧ mkKey index sub / 256 <
      0xA000 ∧ mkKey index sub ≠ 0x100101) ∧
    (∃ ch : Chan, ∃ r : Req, ∃ index : Nat, ∃ sub : Nat, ∃ off : Nat, ∃ s : State, r.sid = 0 ∧ s.serving = true ∧
      s.dictOn ch.iface = true ∧ index = 0 ∧ (entryOf (mkKey index sub)).isSome = true) ∧
    (∃ r : Req, ∃ x : Sess, ∃ s : State, s.requestReady r x ∧ x.role = 1 ∧ s.drbgFails = false) :=
  ⟨⟨⟨5, 1⟩, reqSess 2, nextReq, 0x1100, 0x04, 0, stReq 2 id, by decide +kernel⟩,
   ⟨⟨5, 1⟩, ⟨0, 4, none⟩, 0, 3, 0, stReq 2 id, by decide +kernel⟩,
   ⟨nextReq, reqSess 1, stReq 1 (fun s => s.modTack (fun t => { t with drbgOk := true })), by decide +kernel⟩⟩

theorem test_witness_proposals :
    (∃ r : Req, ∃ x : Sess, ∃ id : Nat, ∃ digest : Bytes, ∃ p : Proposal, ∃ s : State, s.requestReady r x ∧
      s.proposal? id = some p ∧ p.target = 0 ∧ s.valueProgramme p.key p.value = none ∧ x.role = 1 ∧ x.cred ≠ p.cred ∧
      x.keyDig ≠ p.keyDig ∧ digest = sha384 p.value ∧ s.effCheck (x.desc 0 0 [] []) (.approve id x.cred) = 0 ∧
      s.logOpen ∧ p.key ≠ 0x001003 ∧ p.key ≠ 0x900009) ∧
    (∃ r : Req, ∃ x : Sess, ∃ id : Nat, ∃ p : Proposal, ∃ s : State, s.requestReady r x ∧ s.proposal? id = some p ∧
      x.cred = p.cred ∧ s.logOpen) ∧
    (∃ id : Nat, ∃ p : Proposal, ∃ s : State, s.dict.proposals.find? (fun p => p.id == id) = some p ∧ p.expiry <
      s.now ∧ s.logOpen) :=
  ⟨⟨nextReq, reqSess 1, 5, sha384 [100, 0, 0, 0], { id := 5, key := 0x280001, target := 0, value := [100, 0, 0, 0], cred := 3, keyDig := [1], slot := 1, iface := 5, expiry := 100 }, (stReq 1 id).modDict (fun d => { d with proposals := [{ id := 5, key := 0x280001, target := 0, value := [100, 0, 0, 0], cred := 3, keyDig := [1], slot := 1, iface := 5, expiry := 100 }] }), by decide +kernel, by decide +kernel, rfl, by decide +kernel, by decide +kernel, by decide +kernel, by decide +kernel, rfl, by decide +kernel, by decide +kernel, by decide +kernel⟩,
   ⟨nextReq, reqSess 1, 5, { id := 5, key := 0x280001, target := 0, value := [100, 0, 0, 0], cred := 0, keyDig := [1], slot := 1, iface := 5, expiry := 100 }, (stReq 1 id).modDict (fun d => { d with proposals := [{ id := 5, key := 0x280001, target := 0, value := [100, 0, 0, 0], cred := 0, keyDig := [1], slot := 1, iface := 5, expiry := 100 }] }), by decide +kernel⟩,
   ⟨5, { id := 5, key := 0x280001, target := 0, value := [100, 0, 0, 0], cred := 0, keyDig := [1], slot := 1, iface := 5, expiry := 0 }, (stReq 1 (fun s => s.modCore (fun c => { c with tick := 1 }))).modDict (fun d => { d with proposals := [{ id := 5, key := 0x280001, target := 0, value := [100, 0, 0, 0], cred := 0, keyDig := [1], slot := 1, iface := 5, expiry := 0 }] }), by decide +kernel⟩⟩

theorem test_witness_dictionary_sessions :
    (∃ ch : Chan, ∃ cred : Nat, ∃ slot : Nat, ∃ s : State, s.serving = true ∧ s.dictOn ch.iface = true ∧ s.channelUp
      ch = true ∧ s.dict.sessions.any (fun x => x.chan == ch) = false ∧ s.freeSessSlot = some slot ∧ s.drbgFails =
      false) ∧
    (∃ r : Req, ∃ x : Sess, ∃ key : Bytes, ∃ sig : Bytes, ∃ binding : Bytes, ∃ s : State, s.serving = true ∧
      s.dict.sessions.find? (fun y => y.id == r.sid) = some x ∧ s.session? x.slot = some x ∧ x.role = 0 ∧ x.busy =
      false ∧ s.dictOn x.chan.iface = true) ∧
    (∃ r : Req, ∃ x : Sess, ∃ s : State, s.requestReady r x) ∧
    (∃ sid : Nat, ∃ conn : Bool, ∃ x : Sess, ∃ s : State, conn = false ∧ s.serving = true ∧ s.dict.sessions.find?
      (fun y => y.id == sid) = some x ∧ x.lastAt + s.valU (mkKey 0x0100 0x02) * secFrames ≤ s.now ∧ x.busy = false) ∧
    (∃ r : Req, ∃ x : Sess, ∃ target : Nat, ∃ op : Nat, ∃ index : Nat, ∃ sub : Nat, ∃ value : Bytes, ∃ role : Nat, ∃
      answer : Option Reply, ∃ s : State, role = 0 ∧ r.approver = none ∧ s.requestReady r x ∧ s.cas.role = .master ∧
      op = 0x10 ∧ s.members.contains target = true) ∧
    (∃ r : Req, ∃ x : Sess, ∃ key : Bytes, ∃ s : State, s.dict.sessions.find? (fun y => y.id == r.sid) = some x ∧
      x.role = 0 ∧ s.authRole x.cred key ≠ 0 ∧ s.core.op.working = true ∧ s.classOn (if key.length = 96 then .pk else
      .lattice) 0 = true) ∧
    (∃ r : Req, ∃ x : Sess, ∃ key : Bytes, ∃ s : State, s.dict.sessions.find? (fun y => y.id == r.sid) = some x ∧
      x.role = 0 ∧ s.authRole x.cred key ≠ 0 ∧ ¬(s.core.op.working = true ∧ s.classOn (if key.length = 96 then .pk
      else .lattice) 0 = true)) :=
  ⟨⟨⟨5, 7⟩, 0, 0, ((stSess true).setVal (mkKey 0xA000 0x01) [0x3F]).modTack (fun t => { t with drbgOk := true }), by decide +kernel⟩,
   ⟨nextReq, reqSess 0, [], [], [], stReq 0 id, by decide +kernel⟩,
   ⟨nextReq, reqSess 1, stReq 1 id, by decide +kernel⟩,
   ⟨7, false, reqSess 1, stReq 1 (fun s => s.modCore (fun c => { c with tick := 4000000000000 })), by decide +kernel⟩,
   ⟨nextReq, reqSess 1, 2, 0x10, 0x1100, 4, [], 0, none, stReq 1 (fun s => s.modCas (fun c => { c with role := .master, present := 0xFF })), by decide +kernel⟩,
   ⟨nextReq, reqSess 0, zeros 96, stReq 0 (fun s => (withC0 s).setVal (mkKey 0x0101 0) (bytesOf [1, 1] ++ zeros 14 ++ sha384 (zeros 96))), by decide +kernel⟩,
   ⟨nextReq, reqSess 0, zeros 96, stReq 0 (fun s => s.setVal (mkKey 0x0101 0) (bytesOf [1, 1] ++ zeros 14 ++ sha384 (zeros 96)) |>.modYard (fun y => { y with sheet := 1 })), by decide +kernel⟩⟩

theorem test_witness_officer_keys :
    (∃ r : Req, ∃ x : Sess, ∃ h : Bytes, ∃ d : Bytes, ∃ s : State, s.requestReady r x ∧ r.approver = none ∧
      s.valueProgramme 0x400006 (keyValue 1 h d) = none ∧ s.needsQuorum x.role 0x400006 = false ∧ s.logOpen ∧
      s.tack.cmdsThisFrame < 8) ∧
    (∃ r : Req, ∃ x : Sess, ∃ h : Bytes, ∃ d : Bytes, ∃ l : Bool, ∃ c : Bool, ∃ n : Nat, ∃ s : State, s.requestReady
      r x ∧ r.approver = none ∧ s.writeCheck x 0x400006 (keyValue 1 h d) = 0 ∧ s.valueProgramme 0x400006 (keyValue 1
      h d) = some (l, c, n) ∧ s.needsQuorum x.role 0x400006 = false) ∧
    (∃ r : Req, ∃ x : Sess, ∃ h : Bytes, ∃ d : Bytes, ∃ s : State, s.requestReady r x ∧ r.approver = none ∧
      s.needsQuorum x.role 0x400006 = false ∧ s.logOpen ∧ s.tack.cmdsThisFrame < 8) ∧
    (∃ r : Req, ∃ x : Sess, ∃ h : Bytes, ∃ d : Bytes, ∃ s : State, s.requestReady r x ∧ r.approver = none ∧
      s.needsQuorum x.role 0x400006 = false ∧ s.logOpen ∧ s.tack.cmdsThisFrame < 8) ∧
    (∃ r : Req, ∃ x : Sess, ∃ h : Bytes, ∃ k : Key, ∃ s : State, s.requestReady r x ∧ r.approver = none ∧
      s.needsQuorum x.role 0x400006 = false ∧ s.logOpen ∧ s.tack.cmdsThisFrame < 8 ∧ s.writeCheck x 0x400006
      (keyValue 4 h []) = 0 ∧ s.keyPlan (keyCmdOf (keyValue 4 h [])) = .ok (.change k) ∧ k.st ≠ .revoked ∧
      s.tack.worn k = false) ∧
    (∃ r : Req, ∃ x : Sess, ∃ h : Bytes, ∃ k : Key, ∃ s : State, s.requestReady r x ∧ r.approver = none ∧
      s.needsQuorum x.role 0x400006 = false ∧ s.logOpen ∧ s.tack.cmdsThisFrame < 8 ∧ s.writeCheck x 0x400006
      (keyValue 5 h []) = 0 ∧ s.keyPlan (keyCmdOf (keyValue 5 h [])) = .ok (.change k)) ∧
    (∃ r : Req, ∃ x : Sess, ∃ h : Bytes, ∃ k : Key, ∃ s : State, s.requestReady r x ∧ r.approver = none ∧
      s.needsQuorum x.role 0x400006 = false ∧ s.logOpen ∧ s.tack.cmdsThisFrame < 8 ∧ s.writeCheck x 0x400006
      (keyValue 6 h []) = 0 ∧ s.keyPlan (keyCmdOf (keyValue 6 h [])) = .ok (.change k)) ∧
    (∃ r : Req, ∃ x : Sess, ∃ h : Bytes, ∃ k : Key, ∃ s : State, s.requestReady r x ∧ r.approver = none ∧
      s.needsQuorum x.role 0x400006 = false ∧ s.logOpen ∧ s.tack.cmdsThisFrame < 8 ∧ s.writeCheck x 0x400006
      (keyValue 7 h []) = 0 ∧ s.keyPlan (keyCmdOf (keyValue 7 h [])) = .ok (.change k)) ∧
    (∃ r : Req, ∃ x : Sess, ∃ h : Bytes, ∃ s : State, s.requestReady r x ∧ r.approver = none ∧ s.needsQuorum x.role
      0x400006 = false ∧ s.logOpen ∧ s.tack.cmdsThisFrame < 8) :=
  ⟨⟨nextReq, reqSess 1, [], [], stReq 1 id, by decide +kernel⟩,
   ⟨nextReq, reqSess 1, pairHeader, [], _, _, _, stReq 1 stEntropyOk, by decide +kernel, rfl, create_pair_check, rfl, by decide +kernel⟩,
   ⟨nextReq, reqSess 1, [], [], stReq 1 id, by decide +kernel⟩,
   ⟨nextReq, reqSess 1, [], [], stReq 1 id, by decide +kernel⟩,
   ⟨nextReq, reqSess 1, (zeros 4 ++ leN 4 300 ++ zeros 24 ++ leN 2 0 ++ zeros 30), aesKey id, stKey id (stReq 1 id), by decide +kernel, by decide +kernel, by decide +kernel, by decide +kernel, by decide +kernel, by decide +kernel, rfl, by decide +kernel, by decide +kernel⟩,
   ⟨nextReq, reqSess 1, (zeros 4 ++ leN 4 300 ++ zeros 24 ++ leN 2 0 ++ zeros 30), aesKey id, stKey id (stReq 1 id), by decide +kernel, by decide +kernel, by decide +kernel, by decide +kernel, by decide +kernel, by decide +kernel, rfl⟩,
   ⟨nextReq, reqSess 1, (zeros 4 ++ leN 4 300 ++ zeros 24 ++ leN 2 0 ++ zeros 30), aesKey id, stKey id (stReq 1 id), by decide +kernel, by decide +kernel, by decide +kernel, by decide +kernel, by decide +kernel, by decide +kernel, rfl⟩,
   ⟨nextReq, reqSess 1, (zeros 4 ++ leN 4 300 ++ zeros 24 ++ leN 2 100 ++ zeros 30), aesKey id, stKey id (stReq 1 id), by decide +kernel, by decide +kernel, by decide +kernel, by decide +kernel, by decide +kernel, by decide +kernel, rfl⟩,
   ⟨nextReq, reqSess 1, [], stReq 1 id, by decide +kernel⟩⟩

theorem test_witness_tack_maintenance :
    (∃ r : Req, ∃ x : Sess, ∃ v : Nat, ∃ s : State, s.takes r x (0x400005) (encN 1 v) ∧ v = 1) ∧
    (∃ slot : Nat, ∃ k : Key, ∃ s : State, s.draining slot = some k ∧ s.keyUsed slot = false) ∧
    (∃ slot : Nat, ∃ e : Nat, ∃ k : Key, ∃ s : State, s.draining slot = some k ∧ k.drainEnd = some e ∧ e ≤ s.now) ∧
    (∃ s : State, s.devEnded .sweep = true) :=
  ⟨⟨nextReq, reqSess 1, 1, stReq 1 (fun s => s.modTack (fun t => { t with drbgOk := true, keys := [aesKey (fun k => { k with st := .lost })] })), by decide +kernel⟩,
   ⟨300, aesKey (fun k => { k with st := .draining, drainEnd := some 9 }), stKey (fun k => { k with st := .draining, drainEnd := some 9 }) (atOp .running), by decide +kernel⟩,
   ⟨300, 0, aesKey (fun k => { k with st := .draining, drainEnd := some 0 }), stKey (fun k => { k with st := .draining, drainEnd := some 0 }) (atOp .running), by decide +kernel⟩,
   ⟨(atOp .running).modDevJobs (fun _ => [⟨1, .sweep, 0, none, 9999⟩]), by decide +kernel⟩⟩

theorem test_witness_payment_services :
    (∃ id : Nat, ∃ j : Job, ∃ s : State, s.atLastStep id 0x10 j) ∧
    (∃ id : Nat, ∃ j : Job, ∃ s : State, s.atLastStep id 0x11 j) ∧
    (∃ id : Nat, ∃ j : Job, ∃ s : State, s.atLastStep id 0x12 j) ∧
    (∃ id : Nat, ∃ j : Job, ∃ s : State, s.atLastStep id 0x13 j) ∧
    (∃ id : Nat, ∃ j : Job, ∃ s : State, s.atLastStep id 0x20 j) ∧
    (∃ id : Nat, ∃ j : Job, ∃ s : State, s.atLastStep id 0x21 j) ∧
    (∃ id : Nat, ∃ j : Job, ∃ s : State, s.atLastStep id 0x28 j) ∧
    (∃ id : Nat, ∃ j : Job, ∃ s : State, s.atLastStep id 0x29 j) ∧
    (∃ id : Nat, ∃ j : Job, ∃ s : State, s.atLastStep id 0x3A j) :=
  ⟨⟨5, doneJob 0x10 id, stJob 0x10 id, by decide +kernel⟩,
   ⟨5, doneJob 0x11 id, stJob 0x11 id, by decide +kernel⟩,
   ⟨5, doneJob 0x12 id, stJob 0x12 id, by decide +kernel⟩,
   ⟨5, doneJob 0x13 id, stJob 0x13 id, by decide +kernel⟩,
   ⟨5, doneJob 0x20 id, stJob 0x20 id, by decide +kernel⟩,
   ⟨5, doneJob 0x21 id, stJob 0x21 id, by decide +kernel⟩,
   ⟨5, doneJob 0x28 id, stJob 0x28 id, by decide +kernel⟩,
   ⟨5, doneJob 0x29 id, stJob 0x29 id, by decide +kernel⟩,
   ⟨5, doneJob 0x3A id, stJob 0x3A id, by decide +kernel⟩⟩

theorem test_witness_digest_services :
    (∃ id : Nat, ∃ j : Job, ∃ s : State, s.atLastStep id 0x40 j) ∧
    (∃ id : Nat, ∃ j : Job, ∃ s : State, s.atLastStep id 0x41 j) ∧
    (∃ id : Nat, ∃ j : Job, ∃ s : State, s.atLastStep id 0x42 j) ∧
    (∃ id : Nat, ∃ j : Job, ∃ s : State, s.atLastStep id 0x43 j) ∧
    (∃ id : Nat, ∃ j : Job, ∃ s : State, s.atLastStep id 0x44 j) ∧
    (∃ id : Nat, ∃ j : Job, ∃ s : State, s.atLastStep id 0x45 j) ∧
    (∃ id : Nat, ∃ j : Job, ∃ s : State, s.atLastStep id 0x46 j) ∧
    (∃ id : Nat, ∃ j : Job, ∃ s : State, s.atLastStep id 0x47 j) ∧
    (∃ id : Nat, ∃ j : Job, ∃ s : State, s.atLastStep id 0x48 j) ∧
    (∃ id : Nat, ∃ j : Job, ∃ s : State, s.atLastStep id 0x49 j) :=
  ⟨⟨5, doneJob 0x40 id, stJob 0x40 id, by decide +kernel⟩,
   ⟨5, doneJob 0x41 id, stJob 0x41 id, by decide +kernel⟩,
   ⟨5, doneJob 0x42 id, stJob 0x42 id, by decide +kernel⟩,
   ⟨5, doneJob 0x43 id, stJob 0x43 id, by decide +kernel⟩,
   ⟨5, doneJob 0x44 id, stJob 0x44 id, by decide +kernel⟩,
   ⟨5, doneJob 0x45 id, stJob 0x45 id, by decide +kernel⟩,
   ⟨5, doneJob 0x46 id, stJob 0x46 id, by decide +kernel⟩,
   ⟨5, doneJob 0x47 id, stJob 0x47 id, by decide +kernel⟩,
   ⟨5, doneJob 0x48 id, stJob 0x48 id, by decide +kernel⟩,
   ⟨5, doneJob 0x49 id, stJob 0x49 id, by decide +kernel⟩⟩

theorem test_witness_public_key_services :
    (∃ id : Nat, ∃ agree : Bool, ∃ j : Job, ∃ s : State, s.atLastStep id 0x50 j) ∧
    (∃ id : Nat, ∃ agree : Bool, ∃ j : Job, ∃ s : State, s.atLastStep id 0x51 j) ∧
    (∃ id : Nat, ∃ p : Nat, ∃ agree : Bool, ∃ j : Job, ∃ s : State, s.job? id = some j ∧ j.atEnd 0x52 = true ∧ j.src
      = .part p ∧ p ≠ id) ∧
    (∃ id : Nat, ∃ agree : Bool, ∃ j : Job, ∃ s : State, s.atLastStep id 0x54 j) ∧
    (∃ id : Nat, ∃ j : Job, ∃ s : State, s.atLastStep id 0x70 j) :=
  ⟨⟨5, true, doneJob 0x50 id, stJob 0x50 id, by decide +kernel⟩,
   ⟨5, true, doneJob 0x51 id, stJob 0x51 id, by decide +kernel⟩,
   ⟨5, 4, true, doneJob 0x52 (fun j => { j with src := .part 4 }), stJob 0x52 (fun j => { j with src := .part 4 }), by decide +kernel⟩,
   ⟨5, true, doneJob 0x54 id, stJob 0x54 id, by decide +kernel⟩,
   ⟨5, doneJob 0x70 id, stJob 0x70 id, by decide +kernel⟩⟩

theorem test_witness_key_making_jobs :
    (∃ id : Nat, ∃ j : Job, ∃ s : State, s.atLastStep id 0x30 j ∧ s.logOpen ∧ s.tack.cmdsThisFrame < 8) ∧
    (∃ id : Nat, ∃ agree : Bool, ∃ j : Job, ∃ s : State, s.atLastStep id 0x31 j ∧ s.logOpen ∧ s.tack.cmdsThisFrame <
      8) ∧
    (∃ id : Nat, ∃ j : Job, ∃ s : State, s.atLastStep id 0x32 j ∧ s.logOpen ∧ s.tack.cmdsThisFrame < 8) ∧
    (∃ id : Nat, ∃ j : Job, ∃ s : State, s.atLastStep id 0x33 j ∧ s.logOpen ∧ s.tack.cmdsThisFrame < 8) ∧
    (∃ id : Nat, ∃ j : Job, ∃ s : State, s.atLastStep id 0x35 j ∧ s.logOpen ∧ s.tack.cmdsThisFrame < 8) ∧
    (∃ id : Nat, ∃ agree : Bool, ∃ j : Job, ∃ s : State, s.atLastStep id 0x53 j ∧ s.logOpen ∧ s.tack.cmdsThisFrame <
      8) ∧
    (∃ id : Nat, ∃ agree : Bool, ∃ j : Job, ∃ s : State, s.atLastStep id 0x55 j ∧ s.logOpen ∧ s.tack.cmdsThisFrame <
      8) ∧
    (∃ id : Nat, ∃ agree : Bool, ∃ j : Job, ∃ s : State, s.atLastStep id 0x56 j ∧ s.logOpen ∧ s.tack.cmdsThisFrame <
      8) ∧
    (∃ id : Nat, ∃ agree : Bool, ∃ j : Job, ∃ s : State, s.atLastStep id 0x57 j ∧ s.logOpen ∧ s.tack.cmdsThisFrame <
      8) ∧
    (∃ id : Nat, ∃ agree : Bool, ∃ j : Job, ∃ s : State, s.atLastStep id 0x58 j ∧ s.logOpen ∧ s.tack.cmdsThisFrame <
      8) ∧
    (∃ id : Nat, ∃ agree : Bool, ∃ j : Job, ∃ s : State, s.atLastStep id 0x3B j ∧ s.logOpen ∧ s.tack.cmdsThisFrame <
      8) ∧
    (∃ id : Nat, ∃ agree : Bool, ∃ j : Job, ∃ s : State, s.job? id = some j ∧ s.noStepReady j 0x3B = true ∧ j.begun =
      false ∧ j.src.whole = true ∧ s.logOpen ∧ s.tack.cmdsThisFrame < 8) :=
  ⟨⟨5, doneJob 0x30 id, stJob 0x30 id, by decide +kernel⟩,
   ⟨5, true, doneJob 0x31 id, stJob 0x31 id, by decide +kernel⟩,
   ⟨5, doneJob 0x32 id, stJob 0x32 id, by decide +kernel⟩,
   ⟨5, doneJob 0x33 id, stJob 0x33 id, by decide +kernel⟩,
   ⟨5, doneJob 0x35 id, stJob 0x35 id, by decide +kernel⟩,
   ⟨5, true, doneJob 0x53 id, stJob 0x53 id, by decide +kernel⟩,
   ⟨5, true, doneJob 0x55 id, stJob 0x55 id, by decide +kernel⟩,
   ⟨5, true, doneJob 0x56 id, stJob 0x56 id, by decide +kernel⟩,
   ⟨5, true, doneJob 0x57 id, stJob 0x57 id, by decide +kernel⟩,
   ⟨5, true, doneJob 0x58 id, stJob 0x58 id, by decide +kernel⟩,
   ⟨5, true, doneJob 0x3B id, stJob 0x3B id, by decide +kernel⟩,
   ⟨5, true, doneJob 0x3B (fun j => { j with begun := false }), (stJob 0x3B (fun j => { j with begun := false })).modCore (fun c => { c with tick := 9 }), by decide +kernel⟩⟩

theorem test_witness_key_changing_jobs :
    (∃ id : Nat, ∃ j : Job, ∃ s : State, s.job? id = some j ∧ s.noStepReady j 0x36 = true ∧ j.src.whole = true ∧
      j.short = false ∧ s.logOpen ∧ s.tack.cmdsThisFrame < 8) ∧
    (∃ id : Nat, ∃ j : Job, ∃ s : State, s.job? id = some j ∧ s.noStepReady j 0x37 = true ∧ j.src.whole = true ∧
      j.short = false ∧ s.logOpen ∧ s.tack.cmdsThisFrame < 8) ∧
    (∃ id : Nat, ∃ j : Job, ∃ s : State, s.atLastStep id 0x38 j ∧ j.short = false ∧ s.logOpen ∧ s.tack.cmdsThisFrame
      < 8) ∧
    (∃ id : Nat, ∃ j : Job, ∃ s : State, s.job? id = some j ∧ s.noStepReady j 0x39 = true ∧ j.src.whole = true ∧
      j.short = false ∧ s.logOpen ∧ s.tack.cmdsThisFrame < 8) ∧
    (∃ id : Nat, ∃ j : Job, ∃ s : State, s.atLastStep id 0x34 j ∧ s.logOpen ∧ s.tack.cmdsThisFrame < 8) :=
  ⟨⟨5, doneJob 0x36 id, (stJob 0x36 id).modCore (fun c => { c with tick := 9 }), by decide +kernel⟩,
   ⟨5, doneJob 0x37 id, (stJob 0x37 id).modCore (fun c => { c with tick := 9 }), by decide +kernel⟩,
   ⟨5, doneJob 0x38 id, stJob 0x38 id, by decide +kernel⟩,
   ⟨5, doneJob 0x39 id, (stJob 0x39 id).modCore (fun c => { c with tick := 9 }), by decide +kernel⟩,
   ⟨5, doneJob 0x34 id, stJob 0x34 id, by decide +kernel⟩⟩

theorem test_witness_push_windows :
    (∃ pad : Nat, ∃ slot : Nat, ∃ off : Nat, ∃ data : Bytes, ∃ q : Pad, ∃ s : State, s.openPad pad = some q ∧ slot <
      64 ∧ off + data.length < 64) ∧
    (∃ pad : Nat, ∃ slot : Nat, ∃ off : Nat, ∃ data : Bytes, ∃ q : Pad, ∃ s : State, s.openPad pad = some q ∧ slot <
      64 ∧ off + data.length = 64) :=
  ⟨⟨0, 3, 0, zeros 8, padWith id, stPad id, by decide +kernel⟩,
   ⟨0, 3, 0, zeros 63 ++ [0xA5], padWith id, stPad id, by decide +kernel⟩⟩

theorem test_witness_submission_rings :
    (∃ pad : Nat, ∃ ring : Nat, ∃ v : Nat, ∃ q : Pad, ∃ x : Ring, ∃ s : State, s.openPad pad = some q ∧ ring < 4 ∧
      q.ring[ring]? = some x) ∧
    (∃ pad : Nat, ∃ ring : Nat, ∃ v : Nat, ∃ q : Pad, ∃ x : Ring, ∃ n : Nat, ∃ s : State, s.openPad pad = some q ∧
      ring < 4 ∧ q.ring[ring]? = some x ∧ s.pads = [q] ∧ (∀ i, i < 4 → i ≠ ring → (q.ring.getD i ringReset).active =
      false) ∧ x.active = true ∧ x.enable = true ∧ x.error = false ∧ v % 65536 < x.depth ∧ n = min (min 8 ((v % 65536
      + x.depth - x.sqHead) % x.depth)) (min (x.depth - x.outstanding) (min (x.depth - x.sqHead) (64 - s.fetchHeld)))
      ∧ n ≠ 0) ∧
    (∃ pad : Nat, ∃ ring : Nat, ∃ v : Nat, ∃ q : Pad, ∃ x : Ring, ∃ s : State, s.openPad pad = some q ∧ ring < 4 ∧
      q.ring[ring]? = some x ∧ x.active = true) ∧
    (∃ pad : Nat, ∃ ring : Nat, ∃ q : Pad, ∃ x : Ring, ∃ s : State, s.openPad pad = some q ∧ ring < 4 ∧ q.ring[ring]?
      = some x) ∧
    (∃ pad : Nat, ∃ ring : Nat, ∃ q : Pad, ∃ x : Ring, ∃ s : State, s.openPad pad = some q ∧ ring < 4 ∧ q.ring[ring]?
      = some x) ∧
    (∃ tag : Nat, ∃ r : Nat, ∃ n : Nat, ∃ data : Option Bytes, ∃ x : PciRead, ∃ s : State, s.pci.reads.find? (fun r
      => r.tag == tag) = some x ∧ x.what = .fetch r n) :=
  ⟨⟨0, 0, 3, padWith id, { ringReset with depthLog2 := 4, enable := true, active := true }, stPad id, by decide +kernel⟩,
   ⟨0, 0, 3, padWith id, { ringReset with depthLog2 := 4, enable := true, active := true }, 3, stPad id, by decide +kernel⟩,
   ⟨0, 0, 0, padWith id, { ringReset with depthLog2 := 4, enable := true, active := true }, stPad id, by decide +kernel⟩,
   ⟨0, 0, padWith id, { ringReset with depthLog2 := 4, enable := true, active := true }, stPad id, by decide +kernel⟩,
   ⟨0, 0, padWith id, { ringReset with depthLog2 := 4, enable := true, active := true }, stPad id, by decide +kernel⟩,
   ⟨7, 0, 1, some (zeros 64), ⟨7, 0, .fetch 0 1, 0⟩, (stPad id).modPci (fun c => { c with reads := [⟨7, 0, .fetch 0 1, 0⟩] }), by decide +kernel⟩⟩

theorem test_witness_job_flow :
    (∃ id : Nat, ∃ want : Nat, ∃ data : Option Bytes, ∃ short : Bool, ∃ j : Job, ∃ s : State, s.job? id = some j ∧
      j.src.whole = true ∧ s.pci.reads.any (fun r => r.what == .source id) = true ∧ want = j.srcLen + (if opCompare
      j.op then j.dstLen else 0) ∧ short = (data.isNone || decide ((data.getD []).length < want))) ∧
    (∃ lane : Nat, ∃ h : Bytes, ∃ s : State, s.core.op.working = true ∧ lane < 92 ∧ s.sup.hold = false ∧ (s.laneIdle
      lane = false ∨ (s.lane lane).spent = true ∨ (s.sheetEntry s.yard.sheet lane (s.roundAt s.core.frameCt) (s.posAt
      s.core.frameCt)).1 = 6)) ∧
    (∃ lane : Nat, ∃ c : Nat, ∃ g : Nat, ∃ h : Bytes, ∃ j : Job, ∃ s : State, s.core.op.working = true ∧ lane < 92 ∧
      s.sup.hold = false ∧ s.laneIdle lane = true ∧ (s.lane lane).spent = false ∧ s.sheetEntry s.yard.sheet lane
      (s.roundAt s.core.frameCt) (s.posAt s.core.frameCt) = (c, g) ∧ 1 ≤ c ∧ c ≤ 4 ∧ g ≠ 0xFF ∧ s.devJobs.find? (fun
      d => d.what == .pairCheck lane && d.lane.isNone && d.taken == 0) = none ∧ (s.lane lane).quarantine = false ∧
      (s.lane lane).disabled = false ∧ (s.lane lane).needTest = false ∧ oldest (s.queue c (laneKind lane) (· == g)) =
      some j ∧ j.src = .paddock ∧ j.begun = false) ∧
    (∃ id : Nat, ∃ j : Job, ∃ q : Pad, ∃ x : Ring, ∃ s : State, s.job? id = some j ∧ s.completes j = true ∧ j.src =
      .paddock ∧ s.pad? j.pad = some q ∧ q.ring[j.ring]? = some x) ∧
    (∃ id : Nat, ∃ j : Job, ∃ w : Bool, ∃ s : State, s.job? id = some j ∧ s.completes j = true ∧ j.src = .window w ∧
      j.status ≠ some stFaultDetected) ∧
    (∃ tag : Nat, ∃ s : State, s.pci.quar.any (fun q => q.1 == tag) = true) ∧
    (∃ tag : Nat, ∃ s : State, s.pci.quar.any (fun q => q.1 == tag && decide (q.2 + s.cplTimeout ≤ s.now)) = true) ∧
    (∃ tag : Nat, ∃ id : Nat, ∃ x : PciRead, ∃ j : Job, ∃ s : State, s.pci.quar.any (fun q => q.1 == tag) = false ∧
      s.pci.reads.find? (fun r => r.tag == tag && decide (r.at_ + s.cplTimeout ≤ s.now)) = some x ∧ x.what = .source
      id ∧ s.job? id = some j ∧ j.src.whole = true) :=
  ⟨⟨5, 64, none, true, doneJob 0x40 (fun j => { j with srcLen := 64 }), (stJob 0x40 (fun j => { j with srcLen := 64 })).modPci (fun c => { c with reads := [⟨7, 0, .source 5, 0⟩] }), by decide +kernel⟩,
   ⟨4, [], (atOp .running).modPwr (fun p => { p with gated := 16 }), by decide +kernel⟩,
   ⟨70, 1, 0, [], doneJob 0x40 (fun j => { j with cls := 1, begun := false, taken := 0 }), sheetOne ((stJob 0x40 (fun j => { j with cls := 1, begun := false, taken := 0 })).modCore (fun c => { c with tick := 9 })), by decide +kernel⟩,
   ⟨5, doneJob 0x40 (fun j => { j with status := some 0, settled := true, completeAt := some 0 }), padWith id, { ringReset with depthLog2 := 4, enable := true, active := true }, (stPad id).modJobs (fun _ => [doneJob 0x40 (fun j => { j with status := some 0, settled := true, completeAt := some 0 })]), by decide +kernel⟩,
   ⟨5, doneJob 0x40 (fun j => { j with src := .window true, status := some 0, settled := true, completeAt := some 0 }), true, stJob 0x40 (fun j => { j with src := .window true, status := some 0, settled := true, completeAt := some 0 }), by decide +kernel⟩,
   ⟨7, (atOp .running).modPci (fun c => { c with quar := [(7, 0)] }), by decide +kernel⟩,
   ⟨7, ((atOp .running).modPci (fun c => { c with quar := [(7, 0)] })).modCore (fun c => { c with tick := 1000000 }), by decide +kernel⟩,
   ⟨7, 5, ⟨7, 0, .source 5, 0⟩, doneJob 0x40 id, ((stJob 0x40 id).modPci (fun c => { c with reads := [⟨7, 0, .source 5, 0⟩] })).modCore (fun c => { c with tick := 1000000 }), by decide +kernel⟩⟩

theorem test_witness_function_resets :
    (∃ pad : Nat, ∃ v : Nat, ∃ q : Pad, ∃ s : State, s.openPad pad = some q ∧ v % 2 = 1) ∧
    (∃ n : Nat, ∃ s : State, s.pwr.link = true ∧ 1 ≤ n ∧ n < 256 ∧ s.padPresent n = true) ∧
    (∃ s : State, s.pwr.link = true) ∧
    (∃ s : State, s.pwr.link = true) ∧
    (∃ enable : Bool, ∃ n : Nat, ∃ s : State, s.pwr.link = true ∧ n ≤ 255 ∧ ¬ (s.pci.vfEnable = enable ∧ s.pci.numVfs
      = n)) ∧
    (∃ enable : Bool, ∃ s : State, s.pwr.link = true ∧ s.pci.pasid ≠ enable) ∧
    (∃ pad : Nat, ∃ r : Nat, ∃ q : Pad, ∃ s : State, s.pad? pad = some q ∧ q.resetAt = some r ∧ q.struck = true ∧ r <
      s.now ∧ (r + 3 ≤ s.now ∨ s.yard.lanes.any (fun l => l.zero != 0) = false)) :=
  ⟨⟨0, 1, padWith id, stPad id, by decide +kernel⟩,
   ⟨1, (stPad (fun q => { q with num := 1 })).modPci (fun c => { c with vfEnable := true, numVfs := 2 }), by decide +kernel⟩,
   ⟨stPad id, by decide +kernel⟩,
   ⟨stPad id, by decide +kernel⟩,
   ⟨true, 2, (stPad (fun q => { q with num := 1, st := .disabled })), by decide +kernel⟩,
   ⟨true, (stPad (fun q => { q with num := 256, st := .disabled })), by decide +kernel⟩,
   ⟨0, 2, padWith (fun q => { q with st := .resetting, resetAt := some 2, struck := true }), (stPad (fun q => { q with st := .resetting, resetAt := some 2, struck := true })).modCore (fun c => { c with tick := 9 }), by decide +kernel⟩⟩

theorem stMgr_ready (l : List Pad) : (stMgr l).managerReady .mailbox := by refine ⟨?_, ?_, ?_, ?_⟩ <;> rfl
theorem stMgr_open (l : List Pad) : (stMgr l).logOpen := by
  have h : (stMgr []).logOpen := by decide +kernel
  exact h

theorem test_witness_manager_commands :
    (∃ v : Via, ∃ cmd : Bytes, ∃ s : State, s.managerReady v ∧ s.logOpen ∧ s.mgrCheck (mgrCommand 1 cmd) = 0) ∧
    (∃ v : Via, ∃ cmd : Bytes, ∃ s : State, s.managerReady v ∧ s.logOpen ∧ s.mgrCheck (mgrCommand 2 cmd) = 0) ∧
    (∃ v : Via, ∃ cmd : Bytes, ∃ s : State, s.managerReady v ∧ s.logOpen ∧ s.mgrCheck (mgrCommand 3 cmd) = 0) ∧
    (∃ v : Via, ∃ cmd : Bytes, ∃ s : State, s.managerReady v ∧ s.logOpen ∧ s.mgrCheck (mgrCommand 4 cmd) = 0) ∧
    (∃ v : Via, ∃ cmd : Bytes, ∃ s : State, s.managerReady v ∧ s.logOpen ∧ s.mgrCheck (mgrCommand 5 cmd) = 0) ∧
    (∃ v : Via, ∃ cmd : Bytes, ∃ s : State, s.managerReady v ∧ s.logOpen ∧ s.mgrCheck (mgrCommand 6 cmd) = 0) ∧
    (∃ v : Via, ∃ cmd : Bytes, ∃ s : State, s.managerReady v ∧ s.logOpen ∧ s.mgrCheck (mgrCommand 7 cmd) = 0) ∧
    (∃ v : Via, ∃ cmd : Bytes, ∃ s : State, s.managerReady v ∧ s.logOpen ∧ s.mgrCheck (mgrCommand 8 cmd) = 0) :=
  ⟨⟨.mailbox, cmdConfig, stMgr [], stMgr_ready _, stMgr_open _, by decide +kernel⟩,
   ⟨.mailbox, cmdConfig, stMgr [padOne id], stMgr_ready _, stMgr_open _, by decide +kernel⟩,
   ⟨.mailbox, (cmdOn1 []), stMgr [padOne id], stMgr_ready _, stMgr_open _, by decide +kernel⟩,
   ⟨.mailbox, (cmdOn1 []), stMgr [padOne id], stMgr_ready _, stMgr_open _, by decide +kernel⟩,
   ⟨.mailbox, (cmdOn1 []), stMgr [padOne id], stMgr_ready _, stMgr_open _, by decide +kernel⟩,
   ⟨.mailbox, cmdStart, stMgr [padOne id], stMgr_ready _, stMgr_open _, by decide +kernel⟩,
   ⟨.mailbox, (cmdOn1 []), stMgr [padOne (fun q => { q with log := some pageLog })], stMgr_ready _, stMgr_open _, by decide +kernel⟩,
   ⟨.mailbox, (cmdOn1 []), stMgr [padOne (fun q => { q with log := some pageLog })], stMgr_ready _, stMgr_open _, by decide +kernel⟩⟩

theorem test_witness_manager_refusals : ∃ (code : Nat) (v : Via) (cmd : Bytes) (s : State), 1 ≤ code ∧ code ≤ 8 ∧
    s.managerReady v ∧ s.logOpen ∧ s.mgrCheck (mgrCommand code cmd) ≠ 0 :=
  ⟨7, .mailbox, (cmdOn1 []), stMgr [], by decide, by decide, stMgr_ready _, stMgr_open _, by decide +kernel⟩

theorem test_witness_digest_windows :
    (∃ w : Bool, ∃ ctrl : Nat, ∃ s : State, s.windowOpen w = true ∧ ((s.window w).opened ctrl).refusal ≠ 0) ∧
    (∃ w : Bool, ∃ ctrl : Nat, ∃ s : State, s.windowOpen w = true ∧ ((s.window w).opened ctrl).refusal = 0 ∧ 1 ≤
      (s.window w).length ∧ ((s.window w).length ≤ 448 ∨ s.core.op = .booting)) ∧
    (∃ w : Bool, ∃ ctrl : Nat, ∃ s : State, s.windowOpen w = true ∧ ((s.window w).opened ctrl).refusal = 0 ∧ 448 <
      (s.window w).length ∧ s.core.op ≠ .booting) ∧
    (∃ w : Bool, ∃ ctrl : Nat, ∃ s : State, s.windowOpen w = true ∧ ((s.window w).opened ctrl).refusal = 0 ∧
      (s.window w).length = 0 ∧ s.core.op ≠ .booting) ∧
    (∃ w : Bool, ∃ ctrl : Nat, ∃ s : State, s.windowOpen w = true ∧ ((s.window w).opened ctrl).refusal = 0 ∧
      (s.window w).length = 0 ∧ s.core.op = .booting ∧ (((s.window w).opened ctrl)).keyed = false ∧ (((s.window
      w).opened ctrl)).compare = false) ∧
    (∃ w : Bool, ∃ ctrl : Nat, ∃ s : State, s.windowOpen w = true) ∧
    (∃ w : Bool, ∃ b : Bytes, ∃ s : State, s.windowOpen w = true ∧ (s.window w).st ≠ 0 ∧ b.length < 8) ∧
    (∃ w : Bool, ∃ high : Bool, ∃ b : Bytes, ∃ v : Bytes, ∃ s : State, s.windowOpen w = true ∧ (s.window w).completes
      high b v ∧ (s.window w).st = 1 ∧ (s.window w).words < (s.window w).plain ∧ 8 ≤ (s.window w).free) ∧
    (∃ w : Bool, ∃ high : Bool, ∃ b : Bytes, ∃ v : Bytes, ∃ s : State, s.windowOpen w = true ∧ (s.window w).completes
      high b v ∧ (s.window w).st ≠ 0 ∧ ¬ ((s.window w).st = 1 ∧ (s.window w).words < (s.window w).plain ∧ 8 ≤
      (s.window w).free)) ∧
    (∃ w : Bool, ∃ high : Bool, ∃ b : Bytes, ∃ v : Bytes, ∃ s : State, s.windowOpen w = true ∧ (s.window w).completes
      high b v ∧ (s.window w).st = 1 ∧ 8 ≤ (s.window w).free ∧ 1 ≤ (s.window w).lastCount ∧ 8 * (s.window w).words +
      (s.window w).lastCount = (s.window w).length ∧ s.core.op ≠ .booting ∧ (s.window w).job = none) ∧
    (∃ w : Bool, ∃ high : Bool, ∃ b : Bytes, ∃ v : Bytes, ∃ s : State, s.windowOpen w = true ∧ (s.window w).completes
      high b v ∧ (s.window w).st = 1 ∧ 8 ≤ (s.window w).free ∧ 1 ≤ (s.window w).lastCount ∧ 8 * (s.window w).words +
      (s.window w).lastCount = (s.window w).length ∧ s.core.op = .booting ∧ (s.window w).keyed = false ∧ (s.window
      w).compare = false) ∧
    (∃ w : Bool, ∃ high : Bool, ∃ b : Bytes, ∃ v : Bytes, ∃ s : State, s.windowOpen w = true ∧ (s.window w).completes
      high b v ∧ (s.window w).st ≠ 0 ∧ ((s.window w).st ≠ 1 ∨ (s.window w).free < 8 ∨ ((s.window w).lastCount ≠ 0 ∧ 8
      * (s.window w).words + (s.window w).lastCount ≠ (s.window w).length))) ∧
    (∃ w : Bool, ∃ high : Bool, ∃ b : Bytes, ∃ v : Bytes, ∃ s : State, s.windowOpen w = true ∧ (s.window w).completes
      high b v ∧ (s.window w).st = 1 ∧ 8 ≤ (s.window w).free ∧ (s.window w).lastCount = 0) ∧
    (∃ w : Bool, ∃ n : Nat, ∃ s : State, s.windowOpen w = true) ∧
    (∃ w : Bool, ∃ n : Nat, ∃ s : State, s.windowOpen w = true) :=
  ⟨⟨false, 0, ((atOp .booting).modRdw (fun r => { r with length := 8 })).modPwr (fun p => { p with link := true }), by decide +kernel⟩,
   ⟨false, 1, ((atOp .booting).modRdw (fun r => { r with length := 8 })).modPwr (fun p => { p with link := true }), by decide +kernel⟩,
   ⟨false, 1, ((atOp .running).modRdw (fun r => { r with length := 500 })).modPwr (fun p => { p with link := true }), by decide +kernel⟩,
   ⟨false, 1, ((atOp .running).modRdw (fun r => { r with length := 0 })).modPwr (fun p => { p with link := true }), by decide +kernel⟩,
   ⟨false, 1, ((atOp .booting).modRdw (fun r => { r with length := 0 })).modPwr (fun p => { p with link := true }), by decide +kernel⟩,
   ⟨true, 0, atOp .running, by decide +kernel⟩,
   ⟨true, [1,2,3,4], (atOp .running).modRdwSc (fun r => { r with st := 1 }), by decide +kernel⟩,
   ⟨true, false, [1,2,3,4,5,6,7,8], [1,2,3,4,5,6,7,8], (atOp .running).modRdwSc (fun r => { r with st := 1, length := 20 }), by decide +kernel, .inl ⟨by decide, by decide⟩, by decide +kernel⟩,
   ⟨true, true, [9, 9, 9, 9], zeros 4 ++ [9, 9, 9, 9], (atOp .running).modRdwSc (fun r => { r with st := 2, length := 20 }), by decide +kernel, .inr ⟨by decide, by decide, by decide⟩, by decide +kernel⟩,
   ⟨true, false, [1,2,3,4,5,6,7,8], [1,2,3,4,5,6,7,8], (atOp .running).modRdwSc (fun r => { r with st := 1, length := 5, lastCount := 5 }), by decide +kernel, .inl ⟨by decide, by decide⟩, by decide +kernel⟩,
   ⟨true, false, [1,2,3,4,5,6,7,8], [1,2,3,4,5,6,7,8], (atOp .booting).modRdwSc (fun r => { r with st := 1, length := 5, lastCount := 5 }), by decide +kernel, .inl ⟨by decide, by decide⟩, by decide +kernel⟩,
   ⟨true, false, [1,2,3,4,5,6,7,8], [1,2,3,4,5,6,7,8], (atOp .running).modRdwSc (fun r => { r with st := 1, length := 6, lastCount := 5 }), by decide +kernel, .inl ⟨by decide, by decide⟩, by decide +kernel⟩,
   ⟨true, false, [1,2,3,4,5,6,7,8], [1,2,3,4,5,6,7,8], (atOp .running).modRdwSc (fun r => { r with st := 1, length := 6, lastCount := 0 }), by decide +kernel, .inl ⟨by decide, by decide⟩, by decide +kernel⟩,
   ⟨true, 9, atOp .running, by decide +kernel⟩,
   ⟨true, 0, atOp .running, by decide +kernel⟩⟩

theorem idle_ports : ∀ n, ((atOp .running).port n).refSealed = 0 := by
  intro n
  match n with
  | 0 => rfl
  | 1 => rfl
  | 2 => rfl
  | 3 => rfl
  | n + 4 => rfl

theorem test_witness_attention_commands :
    (∃ s : State, s.pwr.link = true) ∧
    (∃ g : Nat, ∃ v : Nat, ∃ s : State, s.pwr.link = true ∧ g < 24) ∧
    (∃ g : Nat, ∃ v : Nat, ∃ s : State, s.pwr.link = true ∧ g < 24) ∧
    (∃ s : State, s.pwr.link = true) ∧
    (∃ fn : Nat, ∃ vec : Nat, ∃ s : State, s.pwr.link = true ∧ fn < 256 ∧ vec ≤ (if fn = 0 then 33 else 0)) ∧
    (∃ d : LogDue, ∃ s : State, s.logBlocked = false ∧ s.log.written < 4 ∧ s.log.unlogged = 0 ∧ s.logState ≠ 2 ∧
      s.log.room ≠ 0 ∧ s.log.due = [d] ∧ d.eff = .none ∧ d.desc.mon = none ∧ ((∀ n, (s.port n).refSealed = 0))) :=
  ⟨⟨(atOp .running).modPwr (fun p => { p with link := true }), by decide +kernel⟩,
   ⟨3, 1, (atOp .running).modPwr (fun p => { p with link := true }), by decide +kernel⟩,
   ⟨3, 1, (atOp .running).modPwr (fun p => { p with link := true }), by decide +kernel⟩,
   ⟨(atOp .running).modPwr (fun p => { p with link := true }), by decide +kernel⟩,
   ⟨0, 33, (atOp .running).modPwr (fun p => { p with link := true }), by decide +kernel⟩,
   ⟨⟨devDesc 8 0x0F03 1, .none, 0⟩, (atOp .running).modLog (fun l => { l with due := [⟨devDesc 8 0x0F03 1, .none, 0⟩] }), by decide +kernel, by decide +kernel, by decide +kernel, by decide +kernel, by decide +kernel, rfl, rfl, rfl, idle_ports⟩⟩

theorem test_witness_register_writes :
    (∃ d : Bytes, ∃ s : State, s.pwr.link = true ∧ d.length = 4) ∧
    (∃ d : Bytes, ∃ s : State, s.pwr.link = true ∧ d.length = 4) ∧
    (∃ o : Nat, ∃ d : Bytes, ∃ s : State, s.pwr.link = true ∧ d.length = 4 ∧ o < 0x40 ∧ o % 4 = 0) ∧
    (∃ o : Nat, ∃ d : Bytes, ∃ s : State, s.pwr.link = true ∧ d.length = 4 ∧ o < 0x2000 ∧ o % 4 = 0) ∧
    (∃ d : Bytes, ∃ s : State, s.pwr.link = true ∧ d.length = 4) ∧
    (∃ d : Bytes, ∃ s : State, s.pwr.link = true ∧ d.length = 4 ∧ bitN (ofLE d) 0 = true ∧ s.dmb.busy = false) ∧
    (∃ w : Bool, ∃ d : Bytes, ∃ s : State, s.windowOpen w = true ∧ d.length = 4) ∧
    (∃ w : Bool, ∃ d : Bytes, ∃ s : State, s.windowOpen w = true ∧ d.length = 4) ∧
    (∃ w : Bool, ∃ d : Bytes, ∃ s : State, s.windowOpen w = true ∧ d.length = 4) ∧
    (∃ w : Bool, ∃ d : Bytes, ∃ s : State, s.windowOpen w = true ∧ d.length = 4) ∧
    (∃ w : Bool, ∃ d : Bytes, ∃ s : State, s.windowOpen w = true ∧ d.length = 4) ∧
    (∃ p : Nat, ∃ q : Pad, ∃ d : Bytes, ∃ s : State, s.openPad p = some q ∧ p < 288 ∧ ((1 ≤ p → p < 256 →
      s.padPresent p = true)) ∧ d.length = 4) ∧
    (∃ p : Nat, ∃ q : Pad, ∃ d : Bytes, ∃ s : State, s.openPad p = some q ∧ p < 288 ∧ ((1 ≤ p → p < 256 →
      s.padPresent p = true)) ∧ d.length = 4) :=
  ⟨⟨[1, 0, 0, 0], (atOp .running).modPwr (fun p => { p with link := true }), by decide +kernel⟩,
   ⟨[1, 0, 0, 0], (atOp .running).modPwr (fun p => { p with link := true }), by decide +kernel⟩,
   ⟨4, [1, 0, 0, 0], (atOp .running).modPwr (fun p => { p with link := true }), by decide +kernel⟩,
   ⟨4, [1, 0, 0, 0], (atOp .running).modPwr (fun p => { p with link := true }), by decide +kernel⟩,
   ⟨[1, 0, 0, 0], (atOp .running).modPwr (fun p => { p with link := true }), by decide +kernel⟩,
   ⟨[1, 0, 0, 0], (atOp .running).modPwr (fun p => { p with link := true }), by decide +kernel⟩,
   ⟨true, [1, 0, 0, 0], atOp .running, by decide +kernel⟩,
   ⟨true, [1, 0, 0, 0], atOp .running, by decide +kernel⟩,
   ⟨true, [1, 0, 0, 0], atOp .running, by decide +kernel⟩,
   ⟨true, [1, 0, 0, 0], atOp .running, by decide +kernel⟩,
   ⟨true, [1, 0, 0, 0], atOp .running, by decide +kernel⟩,
   ⟨0, padWith id, [1, 0, 0, 0], stPad id, by decide +kernel⟩,
   ⟨0, padWith id, [1, 0, 0, 0], stPad id, by decide +kernel⟩⟩

theorem test_witness_cascade_link :
    (∃ s : State, s.cas.role = .orphan) ∧
    (∃ s : State, s.cas.cl0 = true ∧ s.cas.role = .member) ∧
    (∃ s : State, s.cas.cl1 = true ∧ s.cas.role = .master) ∧
    (∃ d : Nat, ∃ s : State, s.cas.role = .master ∧ d ∈ s.members) ∧
    (∃ d : Nat, ∃ s : State, s.cas.role = .master ∧ d ∈ s.members ∧ ((∃ x ∈ s.cas.suspect, x.1 = d ∧ x.2 + 64 ≤
      s.now) ∨ (∃ a ∈ s.cas.acksWaited, a.2.1 + 64 ≤ s.now ∧ d ∈ a.2.2)) ∧ (∀ k ∈ s.jobs, k.src.whole = true)) ∧
    (∃ p : Nat, ∃ sec : Bytes, ∃ tr : Bytes, ∃ s : State, s.rekeyDue p) ∧
    (∃ p : Nat, ∃ sec : Bytes, ∃ tr : Bytes, ∃ s : State, s.rekeyDue p ∧ s.cas.role = .member) ∧
    (∃ p : Nat, ∃ sec : Bytes, ∃ tr : Bytes, ∃ s : State, s.rekeyDue p ∧ s.cas.role ≠ .member) ∧
    (∃ desc : Bytes, ∃ data : Bytes, ∃ master : Nat, ∃ mask : Nat, ∃ s : State, s.cas.role = .member ∧
      s.cas.orphanDue = false ∧ s.core.op.powered = true) ∧
    (∃ id : Nat, ∃ status : Nat, ∃ lane : Nat, ∃ result : Bytes, ∃ dest : Bytes, ∃ j : Job, ∃ d : Nat, ∃ s : State,
      s.cas.role = .master ∧ s.job? id = some j ∧ j.forwarded = some d ∧ j.settled = false ∧ d ∈ s.members ∧ (∀ x ∈
      s.cas.suspect, x.1 = d → s.now < x.2 + 64)) ∧
    (∃ k : Key, ∃ master : Nat, ∃ p : Nat, ∃ s : State, s.cas.role = .member ∧ s.replica (master % 32768) = none ∧
      s.tack.replicaPlace (keyRun k.typ) = some p) ∧
    (∃ master : Nat, ∃ what : Nat, ∃ sec : Bytes, ∃ s : State, s.cas.role = .member) ∧
    (∃ master : Nat, ∃ sec : Bytes, ∃ k : Key, ∃ s : State, s.tack.keys.find? (fun x => x.origin == some master) =
      some k) ∧
    (∃ id : Nat, ∃ s : State, s.cas.role = .member) ∧
    (∃ j : JoinInput, ∃ s : State, s.cas.role = .master ∧ s.core.op.powered = true ∧ s.core.op ≠ .alarmHalt ∧
      j.member < 8 ∧ j.member ≠ s.pwr.cascadeId.toNat ∧ (j.actingBelow = false ∨ s.pwr.cascadeId ≠ 0) ∧ s.c0Pk = true
      ∧ s.classOn .lattice 0 = true ∧ s.peerFits (s.val (mkKey 0x9000 0x04)) j.member j.peer = true ∧ j.sigOk = true) ∧
    (∃ member : Nat, ∃ master : Nat, ∃ s : State, s.cas.role = .master ∧ member ∈ s.members) :=
  ⟨⟨(atOp .running).modCas (fun c => { c with role := .orphan }), by decide +kernel⟩,
   ⟨(atOp .running).modCas (fun c => { c with role := .member, cl0 := true }), by decide +kernel⟩,
   ⟨(atOp .running).modCas (fun c => { c with role := .master, cl1 := true, present := 2 }), by decide +kernel⟩,
   ⟨1, (atOp .running).modCas (fun c => { c with role := .master, present := 2 }), by decide +kernel⟩,
   ⟨1, (stJob 0x10 (fun j => { j with forwarded := some 1, settled := false })).modCas (fun c => { c with role := .master, present := 2, suspect := [(1, 0)] }) |>.modCore (fun c => { c with tick := 64 }), by decide +kernel⟩,
   ⟨8, [1], [2], (atOp .running).modCas (fun c => { c with role := .member, links := [⟨8, [], 2 ^ 32, 0⟩] }), by decide +kernel⟩,
   ⟨8, [1], [2], (atOp .running).modCas (fun c => { c with role := .member, links := [⟨8, [], 2 ^ 32, 0⟩] }), by decide +kernel⟩,
   ⟨8, [1], [2], (atOp .running).modCas (fun c => { c with role := .master, links := [⟨8, [], 2 ^ 32, 0⟩] }), by decide +kernel⟩,
   ⟨zeros 64, [], 5, 0, (atOp .running).modCas (fun c => { c with role := .member }), by decide +kernel⟩,
   ⟨5, 0, 7, [1], [], doneJob 0x10 (fun j => { j with forwarded := some 1, settled := false }), 1, (stJob 0x10 (fun j => { j with forwarded := some 1, settled := false })).modCas (fun c => { c with role := .master, present := 2 }), by decide +kernel⟩,
   ⟨aesKey id, 32768 + 5, 30720, (atOp .running).modCas (fun c => { c with role := .member }), by decide +kernel⟩,
   ⟨32768, 0, [7], (atOp .running).modCas (fun c => { c with role := .member }), by decide +kernel⟩,
   ⟨32768, [7], repKey id, stKey (fun _ => repKey id) (atOp .running), by decide +kernel⟩,
   ⟨5, (atOp .running).modCas (fun c => { c with role := .member }), by decide +kernel⟩,
   ⟨joinInput, stMaster, by decide +kernel⟩,
   ⟨1, 300, (atOp .running).modCas (fun c => { c with role := .master, present := 2 }), by decide +kernel⟩⟩

theorem test_witness_step_takes_front_command :
    (∃ (c : Instr) (l : List Instr) (s : State), s.pending = c :: l) ∧ (∃ s : State, s.pending = []) :=
  ⟨⟨.atnRearm, [], { State.reset with pending := [.atnRearm] }, rfl⟩, ⟨State.reset, rfl⟩⟩

theorem test_witness_command_frame :
    (∃ (c : Instr) (s : State), s.stops c = false) ∧
    (∃ (c : Instr) (s t : State), exec c s = .next t ∧ Part.fuse ∉ touches c) :=
  ⟨⟨.stileRead (rowCmd ⟨0x03, 1, [.w111], 0x13, 0⟩), State.reset, by decide +kernel⟩, ⟨.atnRearm, State.reset, _, rfl, by decide⟩⟩

theorem test_witness_step_keeps_shape : ∃ s t : State, s.shaped ∧ step s = .next t ∧ t.atn ≠ s.atn :=
  ⟨{ (State.reset.modPwr (fun p => { p with link := true })) with pending := [.atnRearm] }, _,
    ⟨by decide +kernel, by decide +kernel, by decide +kernel⟩, rfl, by decide +kernel⟩

theorem test_witness_floor_only_rises :
    (∃ (f : BitVec 255) (k : Nat), k < 255 ∧ f.getLsbD k = true ∧ floorOf f = 255) ∧ (∃ f : BitVec 255, floorOf f = 0) ∧
    (∃ f : BitVec 255, floorOf f = 3 ∧ f.getLsbD 0 = false) ∧ (∃ (c : Instr) (s t : State), exec c s = .next t) :=
  ⟨⟨BitVec.allOnes 255, 254, by decide +kernel⟩, ⟨0, by decide +kernel⟩, ⟨4, by decide +kernel⟩, ⟨.atnRearm, State.reset, _, rfl⟩⟩

theorem test_witness_blown_fuses_stay : ∃ (c : Instr) (s t : State), exec c s = .next t ∧ s.fuse.arbFloor ≠ 0 :=
  ⟨.atnRearm, State.reset.modFuse (fun f => { f with arbFloor := 1 }), _, rfl, by decide +kernel⟩

theorem test_witness_monotonic_counters :
    ∃ r : Req, ∃ x : Sess, ∃ n : Nat, ∃ k : Nat, ∃ s : State, s.takes r x (mkKey 0x4002 n) (encN 4 k) ∧ n < 256 ∧ k <
      4294967296 :=
  ⟨nextReq, reqSess 1, 3, 7, stReq 1 id, by decide +kernel⟩

theorem test_witness_paddock_resets_keep_keys :
    (∃ v : Via, ∃ cmd : Bytes, ∃ s : State, s.managerReady v ∧ s.logOpen) ∧
    (∃ v : Via, ∃ cmd : Bytes, ∃ s : State, s.managerReady v ∧ s.logOpen ∧ s.mgrCheck (mgrCommand 4 cmd) = 0) :=
  ⟨⟨.mailbox, (cmdOn1 []), stMgr [padOne id], stMgr_ready _, stMgr_open _⟩,
   ⟨.mailbox, (cmdOn1 []), stMgr [padOne id], stMgr_ready _, stMgr_open _, by decide +kernel⟩⟩

theorem test_witness_default_schedule : ∃ s : State, getKey s.dict.vals 0x200001 = none := ⟨State.reset, rfl⟩

theorem test_witness_partner_verdicts : ∀ st ∈ [PState.pass, .fail, .departed], ∃ (h : HStep) (s : State),
    s.currentStep = some h ∧ h.wait = 6 ∧ 1 ≤ s.hal.counted ∧ (s.partner h.operand).st = st := by
  intro st hst
  refine ⟨⟨6, 63, 1, true, false, 3, 0, 0⟩, (stSchedule.modHal (fun h => { h with
    steps := [⟨6, 63, 1, true, false, 3, 0, 0⟩] })).modPar (fun p => { p with table := List.replicate 64 { partnerReset with st := st } }), ?_⟩
  simp only [List.mem_cons, List.not_mem_nil, or_false] at hst
  rcases hst with e | e | e <;> subst e <;> decide +kernel

theorem test_witness_shed_stores :
    (∃ n : Nat, ∃ x : Slot, ∃ l : List Bytes, ∃ s : State, n < s.ports.length ∧ s.core.op.working = true ∧ (s.port
      n).mode = .manifest ∧ (s.port n).phase = .verify ∧ (s.port n).cand = some x ∧ s.sourceReason n x (some l) = 0 ∧
      s.hashed n x (some l) ∧ s.shedFits n x = true) ∧
    (∃ n : Nat, ∃ x : Slot, ∃ l : Option (List Bytes), ∃ s : State, s.core.op.working = true ∧ (s.port n).mode =
      .manifest ∧ (s.port n).phase = .verify ∧ (s.port n).cand = some x ∧ s.sourceReason n x l = 0 ∧ s.hashed n x l ∧
      n < s.ports.length ∧ s.shedFits n x = false) :=
  ⟨⟨0, .a, [], stVerify, by decide +kernel⟩,
   ⟨0, .a, some [], stVerify.modPort 0 (fun p => { p with shedBase := 67108865 }), by decide +kernel⟩⟩

end Sys2Proof.Tests
end

/-! What every command keeps, put together from the law of each command, and the anti-rollback floor of R81. -/

namespace Sys2Proof.Machine

open Sys2Proof

/-- Every command keeps the waiting commands, the blown fuses, the counters and the shape: the dispatch of `exec`, arm by
arm, from what each command's own meaning keeps. -/
theorem exec_keeps (c : Instr) (s : State) : s.keepsRes (exec c s) :=
  match c with
  | .vinRise mv st => execVinRise_keeps mv st s
  | .vinFall mv => execVinFall_keeps mv s
  | .vinWarnCrossing mv => execVinWarnCrossing_keeps mv s
  | .supplyHoldEnd => execSupplyHoldEnd_keeps s
  | .supplyHoldAbort => execSupplyHoldAbort_keeps s
  | .supplyHoldEpisodeEntry => execSupplyHoldEpisodeEntry_keeps s
  | .sysRstNLow => execSysRstNLow_keeps s
  | .sysRstNRelease st => execSysRstNRelease_keeps st s
  | .perstNChange high => execPerstNChange_keeps high s
  | .pllLock => execPllLock_keeps s
  | .refclkRecoveryTimeout => execRefclkRecoveryTimeout_keeps s
  | .frameBoundary vinMv levels temps ppm => execFrameBoundary_keeps vinMv levels temps ppm s
  | .sheetSwitch => execSheetSwitch_keeps s
  | .domainWakeEnd d => execDomainWakeEnd_keeps d s
  | .romStart r => execRomStart_keeps r s
  | .getstatus => execGetstatus_keeps s
  | .romLockWrite v => execRomLockWrite_keeps v s
  | .coreReleaseWrite v => execCoreReleaseWrite_keeps v s
  | .handoverLockWrite v => execHandoverLockWrite_keeps v s
  | .stackFormation f => execStackFormation_keeps f s
  | .formTimeout => execFormTimeout_keeps s
  | .enterHolding h => execEnterHolding_keeps h s
  | .trialWatchdogExpiry => execTrialWatchdogExpiry_keeps s
  | .releaseStepActs => execReleaseStepActs_keeps s
  | .waitTimeout => execWaitTimeout_keeps s
  | .pulseEnd k => execPulseEnd_keeps k s
  | .hiLevelChange k level => execHiLevelChange_keeps k level s
  | .measurementRecorded port data => execMeasurementRecorded_keeps port data s
  | .startVerificationEnd port data => execStartVerificationEnd_keeps port data s
  | .stileRead c => execStileRead_keeps c s
  | .fastRead c => execFastRead_keeps c s
  | .dualOutputFastRead c => execDualOutputFastRead_keeps c s
  | .dualIoFastRead c => execDualIoFastRead_keeps c s
  | .quadOutputFastRead c => execQuadOutputFastRead_keeps c s
  | .quadIoFastRead c => execQuadIoFastRead_keeps c s
  | .octalDtrRead c => execOctalDtrRead_keeps c s
  | .readStatusRegister c => execReadStatusRegister_keeps c s
  | .readJedecId c => execReadJedecId_keeps c s
  | .readSfdp c => execReadSfdp_keeps c s
  | .writeEnable c => execWriteEnable_keeps c s
  | .writeDisable c => execWriteDisable_keeps c s
  | .pageProgram c => execPageProgram_keeps c s
  | .quadInputPageProgram c => execQuadInputPageProgram_keeps c s
  | .erase4Kib c => execErase4Kib_keeps c s
  | .erase64Kib c => execErase64Kib_keeps c s
  | .chipErase c alt => execChipErase_keeps c alt s
  | .writeStatusRegister c => execWriteStatusRegister_keeps c s
  | .writeVolatileConfiguration c => execWriteVolatileConfiguration_keeps c s
  | .securityRegisterCommand c erase => execSecurityRegisterCommand_keeps c erase s
  | .enter4ByteAddressMode c => execEnter4ByteAddressMode_keeps c s
  | .exit4ByteAddressMode c => execExit4ByteAddressMode_keeps c s
  | .enterQpi c => execEnterQpi_keeps c s
  | .exitQpi c => execExitQpi_keeps c s
  | .resetEnable c => execResetEnable_keeps c s
  | .stileReset c => execStileReset_keeps c s
  | .unknownCommand c opcode => execUnknownCommand_keeps c opcode s
  | .stnRstNLow port => execStnRstNLow_keeps port s
  | .refusedBusyEnd port => execRefusedBusyEnd_keeps port s
  | .downstreamStatusPoll port idle => execDownstreamStatusPoll_keeps port idle s
  | .tagVerdict port host block => execTagVerdict_keeps port host block s
  | .debtClearRead port => execDebtClearRead_keeps port s
  | .sweepComplete port => execSweepComplete_keeps port s
  | .sweepLate port => execSweepLate_keeps port s
  | .platformTrialExpiry port => execPlatformTrialExpiry_keeps port s
  | .recoveryComplete port h => execRecoveryComplete_keeps port h s
  | .queryDeviceIdentifiers q => execQueryDeviceIdentifiers_keeps q s
  | .getFirmwareParameters q => execGetFirmwareParameters_keeps q s
  | .requestUpdate q maxXfer => execRequestUpdate_keeps q maxXfer s
  | .passComponentTable q comp => execPassComponentTable_keeps q comp s
  | .updateComponent q comp stamp size => execUpdateComponent_keeps q comp stamp size s
  | .firmwareDataReceived q data flashOk readback => execFirmwareDataReceived_keeps q data flashOk readback s
  | .activateFirmware q selfContained => execActivateFirmware_keeps q selfContained s
  | .getStatus q => execGetStatus_keeps q s
  | .cancelUpdateComponent q => execCancelUpdateComponent_keeps q s
  | .cancelUpdate q => execCancelUpdate_keeps q s
  | .pldmTimeout => execPldmTimeout_keeps s
  | .setEndpointId bus eid => execSetEndpointId_keeps bus eid s
  | .dynamicAddressAssignment bus addr => execDynamicAddressAssignment_keeps bus addr s
  | .rstdaa bus => execRstdaa_keeps bus s
  | .enthdr bus transfers => execEnthdr_keeps bus transfers s
  | .hotJoin f => execHotJoin_keeps f s
  | .requesterResponse k r => execRequesterResponse_keeps k r s
  | .requesterTimeout k => execRequesterTimeout_keeps k s
  | .partnerPoll k answered => execPartnerPoll_keeps k answered s
  | .quarantineExpiry eid bus v => execQuarantineExpiry_keeps eid bus v s
  | .reattestTimer => execReattestTimer_keeps s
  | .getVersion q => execGetVersion_keeps q s
  | .getCapabilities q => execGetCapabilities_keeps q s
  | .negotiateAlgorithms q common => execNegotiateAlgorithms_keeps q common s
  | .getDigests q => execGetDigests_keeps q s
  | .getCertificate q slot off len => execGetCertificate_keeps q slot off len s
  | .challenge q slot summary => execChallenge_keeps q slot summary s
  | .getMeasurements q index sign => execGetMeasurements_keeps q index sign s
  | .keyExchange q slot => execKeyExchange_keeps q slot s
  | .finish q sid hmacOk => execFinish_keeps q sid hmacOk s
  | .heartbeat q sid => execHeartbeat_keeps q sid s
  | .keyUpdate q sid op => execKeyUpdate_keeps q sid op s
  | .respondIfReady q => execRespondIfReady_keeps q s
  | .unsupportedSpdmRequest q code => execUnsupportedSpdmRequest_keeps q code s
  | .securedMessage q sid aeadOk => execSecuredMessage_keeps q sid aeadOk s
  | .sessionHeartbeatTimeout sid => execSessionHeartbeatTimeout_keeps sid s
  | .clientHello port conn acceptable => execClientHello_keeps port conn acceptable s
  | .dictOpen ch cred => execDictOpen_keeps ch cred s
  | .dictAuth r key sig binding => execDictAuth_keeps r key sig binding s
  | .dictClose r => execDictClose_keeps r s
  | .dictRead ch r index sub off => execDictRead_keeps ch r index sub off s
  | .dictWrite r index sub value => execDictWrite_keeps r index sub value s
  | .writePart r index sub off data => execWritePart_keeps r index sub off data s
  | .writeEnd r index sub total digest => execWriteEnd_keeps r index sub total digest s
  | .approve r id digest => execApprove_keeps r id digest s
  | .withdraw r id => execWithdraw_keeps r id s
  | .proposalExpiry id => execProposalExpiry_keeps id s
  | .dictSessionIdle sid conn => execDictSessionIdle_keeps sid conn s
  | .remoteRequest r target op index sub value role answer => execRemoteRequest_keeps r target op index sub value role answer s
  | .fwActivate r slot => execFwActivate_keeps r slot s
  | .fwConfirm r v => execFwConfirm_keeps r v s
  | .fwRestart r v => execFwRestart_keeps r v s
  | .fwFloorRequest r target => execFwFloorRequest_keeps r target s
  | .timetableLoad r image => execTimetableLoad_keeps r image s
  | .sheetSwitchRequest r sheet => execSheetSwitchRequest_keeps r sheet s
  | .halterScheduleWrite r value => execHalterScheduleWrite_keeps r value s
  | .halterResume r v => execHalterResume_keeps r v s
  | .halterHoldClear r v => execHalterHoldClear_keeps r v s
  | .stileActivate r port slot => execStileActivate_keeps r port slot s
  | .stileConfirm r port v => execStileConfirm_keeps r port v s
  | .stileRestart r port v => execStileRestart_keeps r port v s
  | .manifestWrite r port slot value => execManifestWrite_keeps r port slot value s
  | .stileFloorWrite r port v => execStileFloorWrite_keeps r port v s
  | .slotBaseWrite r port item v => execSlotBaseWrite_keeps r port item v s
  | .stileClockConfigWrite r port item v => execStileClockConfigWrite_keeps r port item v s
  | .create r header data => execCreate_keeps r header data s
  | .import_ r header data => execImport_keeps r header data s
  | .derive_ r header data => execDerive_keeps r header data s
  | .revoke r header => execRevoke_keeps r header s
  | .erase r header => execErase_keeps r header s
  | .rewrite r header => execRewrite_keeps r header s
  | .drain r header => execDrain_keeps r header s
  | .export_ r header => execExport_keeps r header s
  | .drainErase slot => execDrainErase_keeps slot s
  | .drainTimeout slot => execDrainTimeout_keeps slot s
  | .lineageSweepEnd => execLineageSweepEnd_keeps s
  | .srkGenerate r v => execSrkGenerate_keeps r v s
  | .monoInc r n k => execMonoInc_keeps r n k s
  | .entropyTestFail => execEntropyTestFail_keeps s
  | .drbgRecovery => execDrbgRecovery_keeps s
  | .pushSlotSeal pad slot off data => execPushSlotSeal_keeps pad slot off data s
  | .ringSqTailWrite pad ring v => execRingSqTailWrite_keeps pad ring v s
  | .ringCqHeadWrite pad ring v => execRingCqHeadWrite_keeps pad ring v s
  | .ringEnable pad ring => execRingEnable_keeps pad ring s
  | .ringDisable pad ring => execRingDisable_keeps pad ring s
  | .fetchCompletion tag data => execFetchCompletion_keeps tag data s
  | .pinTranslate id => execPinTranslate_keeps id s
  | .pinVerify id => execPinVerify_keeps id s
  | .dukptPinTranslate id => execDukptPinTranslate_keeps id s
  | .pinCheckValue id => execPinCheckValue_keeps id s
  | .macGenerate id => execMacGenerate_keeps id s
  | .macVerify id => execMacVerify_keeps id s
  | .cryptogramVerify id => execCryptogramVerify_keeps id s
  | .cryptogramVerifyRespond id => execCryptogramVerifyRespond_keeps id s
  | .keyGenerate id => execKeyGenerate_keeps id s
  | .keyPairGenerate id agree => execKeyPairGenerate_keeps id agree s
  | .keyImport id => execKeyImport_keeps id s
  | .keyImportWrapped id => execKeyImportWrapped_keeps id s
  | .keyExport id => execKeyExport_keeps id s
  | .keyDerive id => execKeyDerive_keeps id s
  | .keyRevoke id => execKeyRevoke_keeps id s
  | .keyErase id => execKeyErase_keeps id s
  | .keyRewrite id => execKeyRewrite_keeps id s
  | .keyDrain id => execKeyDrain_keeps id s
  | .kcv id => execKcv_keeps id s
  | .keyStorePublic id agree => execKeyStorePublic_keeps id agree s
  | .digest id => execDigest_keeps id s
  | .hmacJob id => execHmacJob_keeps id s
  | .digestCompare id => execDigestCompare_keeps id s
  | .hmacCompare id => execHmacCompare_keeps id s
  | .openStream id => execOpenStream_keeps id s
  | .openKeyed id => execOpenKeyed_keeps id s
  | .update id => execUpdate_keeps id s
  | .final id => execFinal_keeps id s
  | .finalCompare id => execFinalCompare_keeps id s
  | .abandon id => execAbandon_keeps id s
  | .sign id agree => execSign_keeps id agree s
  | .verify id agree => execVerify_keeps id agree s
  | .batchVerify id agree => execBatchVerify_keeps id agree s
  | .ecdh id agree => execEcdh_keeps id agree s
  | .encapsulateReturn id agree => execEncapsulateReturn_keeps id agree s
  | .encapsulateAes id agree => execEncapsulateAes_keeps id agree s
  | .encapsulateHmac id agree => execEncapsulateHmac_keeps id agree s
  | .decapsulateAes id agree => execDecapsulateAes_keeps id agree s
  | .decapsulateHmac id agree => execDecapsulateHmac_keeps id agree s
  | .random id => execRandom_keeps id s
  | .sourceDataArrival id data => execSourceDataArrival_keeps id data s
  | .jobDispatch lane hamper => execJobDispatch_keeps lane hamper s
  | .jobComplete id => execJobComplete_keeps id s
  | .pairCheckComplete lane pass => execPairCheckComplete_keeps lane pass s
  | .pkRetest r v => execPkRetest_keeps r v s
  | .selfTestPeriod => execSelfTestPeriod_keeps s
  | .selfTestResult lane pass => execSelfTestResult_keeps lane pass s
  | .paddockCreate v cmd => execPaddockCreate_keeps v cmd s
  | .modify v cmd => execModify_keeps v cmd s
  | .paddockResetCommand v cmd => execPaddockResetCommand_keeps v cmd s
  | .destroy v cmd => execDestroy_keeps v cmd s
  | .query v cmd => execQuery_keeps v cmd s
  | .logStart v cmd => execLogStart_keeps v cmd s
  | .logStop v cmd => execLogStop_keeps v cmd s
  | .logDrain v cmd => execLogDrain_keeps v cmd s
  | .paddockResetWrite pad v => execPaddockResetWrite_keeps pad v s
  | .vfFlr n => execVfFlr_keeps n s
  | .pfFlr => execPfFlr_keeps s
  | .hotReset => execHotReset_keeps s
  | .vfEnableChange enable numVfs => execVfEnableChange_keeps enable numVfs s
  | .pasidEnableChange enable => execPasidEnableChange_keeps enable s
  | .paddockResetComplete pad => execPaddockResetComplete_keeps pad s
  | .lateCompletion tag => execLateCompletion_keeps tag s
  | .completionTimeout tag => execCompletionTimeout_keeps tag s
  | .rdwStart steward ctrl => execRdwStart_keeps steward ctrl s
  | .rdwAbort steward ctrl => execRdwAbort_keeps steward ctrl s
  | .rdwDataWrite steward high w => execRdwDataWrite_keeps steward high w s
  | .rdwLastwordWrite steward high w => execRdwLastwordWrite_keeps steward high w s
  | .rdwLastcountWrite steward v => execRdwLastcountWrite_keeps steward v s
  | .rdwResultRead steward word => execRdwResultRead_keeps steward word s
  | .frameCtLoRead => execFrameCtLoRead_keeps s
  | .atnCauseClear g v => execAtnCauseClear_keeps g v s
  | .atnEnableWrite g v => execAtnEnableWrite_keeps g v s
  | .atnRearm => execAtnRearm_keeps s
  | .registerWrite fn off data => execRegisterWrite_keeps fn off data s
  | .atnClearEntry r value => execAtnClearEntry_keeps r value s
  | .atnEnableEntry r g v => execAtnEnableEntry_keeps r g v s
  | .mePortConfigWrite r port item value => execMePortConfigWrite_keeps r port item value s
  | .policyRecordWrite r k value => execPolicyRecordWrite_keeps r k value s
  | .ownerCertWrite r value => execOwnerCertWrite_keeps r value s
  | .credentialWrite r n value => execCredentialWrite_keeps r n value s
  | .dictCommit r v => execDictCommit_keeps r v s
  | .restoreDefaults r v => execRestoreDefaults_keeps r v s
  | .logEntryWrite => execLogEntryWrite_keeps s
  | .checkpointDue => execCheckpointDue_keeps s
  | .checkpointWritten => execCheckpointWritten_keeps s
  | .logExportAck r value => execLogExportAck_keeps r value s
  | .logWindowStartWrite r v => execLogWindowStartWrite_keeps r v s
  | .logTimeEpochWrite r v => execLogTimeEpochWrite_keeps r v s
  | .logPolicyWrite r v => execLogPolicyWrite_keeps r v s
  | .monitorDetect n => execMonitorDetect_keeps n s
  | .alarmResponse => execAlarmResponse_keeps s
  | .latchSelfClear n => execLatchSelfClear_keeps n s
  | .monClear r v => execMonClear_keeps r v s
  | .leaveAlarmHalt h => execLeaveAlarmHalt_keeps h s
  | .monTest r n => execMonTest_keeps r n s
  | .monTestWindowEnd detected real => execMonTestWindowEnd_keeps detected real s
  | .monConfigWrite r n v => execMonConfigWrite_keeps r n v s
  | .backupDetection n => execBackupDetection_keeps n s
  | .vbatCollapse => execVbatCollapse_keeps s
  | .lcRequest r value => execLcRequest_keeps r value s
  | .lcCancel r v => execLcCancel_keeps r v s
  | .lcMailboxToken token => execLcMailboxToken_keeps token s
  | .debugNonceRead r => execDebugNonceRead_keeps r s
  | .nonceExpiry => execNonceExpiry_keeps s
  | .debugToken r value => execDebugToken_keeps r value s
  | .cascadeEnableWrite r v => execCascadeEnableWrite_keeps r v s
  | .cascadePromote r v => execCascadePromote_keeps r v s
  | .actingMasterClear r v => execActingMasterClear_keeps r v s
  | .promotionNotice => execPromotionNotice_keeps s
  | .linkDown port => execLinkDown_keeps port s
  | .memberLost d => execMemberLost_keeps d s
  | .linkRekey r secret transcript => execLinkRekey_keeps r secret transcript s
  | .forwardedJob desc data master mask => execForwardedJob_keeps desc data master mask s
  | .forwardedResult id status lane result dest => execForwardedResult_keeps id status lane result dest s
  | .keyReplication k master => execKeyReplication_keeps k master s
  | .replicaChange master what secret => execReplicaChange_keeps master what secret s
  | .forwardCancellation id => execForwardCancellation_keeps id s
  | .remoteSheetSwitch sheet base safe => execRemoteSheetSwitch_keeps sheet base safe s
  | .powerSleep r v => execPowerSleep_keeps r v s
  | .wake w hi => execWake_keeps w hi s
  | .wakeTimerExpiry => execWakeTimerExpiry_keeps s
  | .vioMgRise st => execVioMgRise_keeps st s
  | .debuggerHalt => execDebuggerHalt_keeps s
  | .debuggerResume => execDebuggerResume_keeps s
  | .vectorUnmask fn vector => execVectorUnmask_keeps fn vector s
  | .smbusTimeout bus => execSmbusTimeout_keeps bus s
  | .pushWindowWrite pad slot off data => execPushWindowWrite_keeps pad slot off data s
  | .mctpControlRequest m eid cmd typ => execMctpControlRequest_keeps m eid cmd typ s
  | .memberJoin j => execMemberJoin_keeps j s
  | .replicationAck member master => execReplicationAck_keeps member master s
  | .stackClassTReport member => execStackClassTReport_keeps member s

/-- No command unblows a fuse (R69, R81). -/
theorem exec_fuse_under {c : Instr} {s t : State} (h : exec c s = .next t) : s.fuse.under t.fuse := by
  obtain ⟨-, hFuse, -⟩ := exec_keeps c s t h
  exact hFuse

/-- A fuse blown in `f` is blown in every word that covers `f`. -/
theorem getLsbD_of_and_eq {f g : BitVec 255} (h : f &&& g = f) {k : Nat} (hk : f.getLsbD k = true) :
    g.getLsbD k = true := by
  have hand : (f &&& g).getLsbD k = true := h.symm ▸ hk
  rw [BitVec.getLsbD_and, Bool.and_eq_true] at hand
  exact hand.2

/-- Blowing further fuses never lowers the floor: the highest fuse blown before is blown still (R81). -/
theorem floorOf_mono {f g : BitVec 255} (h : f &&& g = f) : floorOf f ≤ floorOf g := by
  obtain ⟨le_floor, top_blown, le_255⟩ := floorOf_facts
  by_cases h0 : floorOf f = 0
  · exact h0.trans_le (Nat.zero_le _)
  · have hpos : floorOf f - 1 + 1 = floorOf f := Nat.sub_add_cancel (Nat.pos_of_ne_zero h0)
    have hlt : floorOf f - 1 < 255 := Nat.sub_one_lt_of_le (Nat.pos_of_ne_zero h0) (le_255 f)
    calc floorOf f = floorOf f - 1 + 1 := hpos.symm
      _ ≤ floorOf g := le_floor g _ hlt (getLsbD_of_and_eq h (top_blown f h0))

/-- Settles O5: the fuses of a next state cover those before it (`exec_fuse_under`), and the floor is monotone in the blown
fuses (`floorOf_mono`). -/
theorem floorOnlyRises : Obligations.FloorOnlyRises := by
  obtain ⟨le_floor, top_blown, le_255⟩ := floorOf_facts
  refine ⟨le_floor, top_blown, le_255, fun c s t h => ?_⟩
  obtain ⟨hFloor, -⟩ := exec_fuse_under h
  exact floorOf_mono hFloor

end Sys2Proof.Machine

/-! The default release schedule: a record and a schedule read back as the steps they spell (R107), a schedule that spells
well-formed steps passes the check of R113, and the default of R114 spells such steps. -/

namespace Sys2Proof.Machine

open Sys2Proof

/-! ### Step records -/

/-- The fields of a step fit in the bytes that its record gives them (R107). -/
def HStep.fits (h : HStep) : Prop :=
  h.wait < 256 ∧ h.operand < 256 ∧ h.action < 256 ∧ h.count < 256 ^ 4 ∧ h.width < 256 ^ 4

@[simp] theorem stepBytes_length (h : HStep) : (stepBytes h).length = 16 := by
  simp [stepBytes, bytesOf, leN_length]

theorem stepBytes_flags (h : HStep) : u8 (stepBytes h) 3 = b2n h.last + 2 * b2n h.cont := by
  cases hl : h.last <;> cases hc : h.cont <;> simp [stepBytes, u8, bytesOf, b2n, hl, hc]

/-- Flag bit 0 of a record is LAST. -/
@[simp] theorem stepBytes_last (h : HStep) : bitN (u8 (stepBytes h) 3) 0 = h.last := by
  rw [stepBytes_flags]
  cases h.last <;> cases h.cont <;> rfl

/-- Flag bit 1 of a record is CONTINUE. -/
@[simp] theorem stepBytes_cont (h : HStep) : bitN (u8 (stepBytes h) 3) 1 = h.cont := by
  rw [stepBytes_flags]
  cases h.last <;> cases h.cont <;> rfl

/-- The reserved flag bits of a record are clear. -/
theorem stepBytes_flags_lt (h : HStep) : u8 (stepBytes h) 3 < 4 := by
  rw [stepBytes_flags]
  cases h.last <;> cases h.cont <;> decide

/-- A little-endian integer reads back wherever it stands. -/
theorem uLE_append_leN {a c : Bytes} {o n v : Nat} (ha : a.length = o) (hv : v < 256 ^ n) :
    uLE (a ++ (leN n v ++ c)) o n = v := by
  rw [uLE, slice_append a _ c o n ha (leN_length n v), ofLE_leN n v hv]

theorem stepBytes_mask (h : HStep) : uLE (stepBytes h) 4 4 = h.mask.toNat := by
  rw [stepBytes, List.append_assoc, List.append_assoc]
  exact uLE_append_leN rfl h.mask.isLt

theorem stepBytes_count {h : HStep} (hc : h.count < 256 ^ 4) : uLE (stepBytes h) 8 4 = h.count := by
  rw [stepBytes, List.append_assoc]
  exact uLE_append_leN rfl hc

theorem stepBytes_width {h : HStep} (hw : h.width < 256 ^ 4) : uLE (stepBytes h) 12 4 = h.width := by
  rw [stepBytes, ← List.append_nil (_ ++ leN 4 h.width), List.append_assoc]
  exact uLE_append_leN rfl hw

/-- A record reads back as the step it spells (R107). -/
theorem stepOf_stepBytes {h : HStep} (hf : h.fits) : stepOf (stepBytes h) = h := by
  obtain ⟨hwait, hoperand, haction, hcount, hwidth⟩ := hf
  have hw : u8 (stepBytes h) 0 = h.wait := Nat.mod_eq_of_lt hwait
  have ho : u8 (stepBytes h) 1 = h.operand := Nat.mod_eq_of_lt hoperand
  have ha : u8 (stepBytes h) 2 = h.action := Nat.mod_eq_of_lt haction
  simp [stepOf, hw, ho, ha, stepBytes_mask, stepBytes_count hcount, stepBytes_width hwidth]

/-! ### The records of a schedule -/

/-- A string that begins with strings of `n` bytes is cut into these first. -/
theorem chunksAux_flatMap {α : Type} {f : α → Bytes} {n : Nat} (hn : 0 < n) (hf : ∀ x, (f x).length = n) (r : Bytes)
    {l : List α} {fuel : Nat} (hl : l.length ≤ fuel) :
    chunksAux n fuel (l.flatMap f ++ r) = l.map f ++ chunksAux n (fuel - l.length) r := by
  induction l generalizing fuel with
  | nil => rfl
  | cons x l ih =>
    obtain ⟨k, rfl⟩ : ∃ k, fuel = k + 1 := Nat.exists_eq_succ_of_ne_zero (Nat.ne_zero_of_lt hl)
    have hx : f x ≠ [] := List.ne_nil_of_length_pos (hf x ▸ hn)
    simp [chunksAux, hx, hf x, ih (Nat.le_of_succ_le_succ hl)]

/-- Every piece of a string of zero bytes is zero. -/
theorem chunksAux_zeros_allZero (n fuel k : Nat) : (chunksAux n fuel (zeros k)).all allZero = true := by
  induction fuel generalizing k with
  | zero => rfl
  | succ fuel ih =>
    unfold chunksAux
    split
    · rfl
    · have htake : allZero ((zeros k).take n) = true := by simp [zeros, allZero]
      have hdrop : (zeros k).drop n = zeros (k - n) := List.drop_replicate
      rw [hdrop, List.all_cons, htake, ih, Bool.and_self]

theorem fit_eq_append_zeros {n : Nat} {b : Bytes} (h : b.length ≤ n) : fit n b = b ++ zeros (n - b.length) := by
  simp [fit, zeros, List.take_append, List.take_of_length_le h]

/-- The value of `halter.schedule` that spells the steps `l`, zero-filled to 1,024 bytes (R107). -/
def scheduleBytes (l : List HStep) : Bytes := fit 1024 (l.flatMap stepBytes)

/-- A schedule's records are those of its steps, then zero records. -/
theorem chunks_scheduleBytes {l : List HStep} (hl : l.length ≤ 64) :
    ∃ z : List Bytes, z.all allZero = true ∧ chunks 16 (scheduleBytes l) = l.map stepBytes ++ z := by
  have hlen : (l.flatMap stepBytes).length ≤ 1024 := by
    simp only [List.length_flatMap, stepBytes_length, List.map_const', List.sum_replicate, smul_eq_mul]
    omega
  refine ⟨_, chunksAux_zeros_allZero 16 (1024 - l.length) (1024 - (l.flatMap stepBytes).length), ?_⟩
  rw [chunks, scheduleBytes, fit_length, fit_eq_append_zeros hlen]
  exact chunksAux_flatMap (by decide) stepBytes_length _ (by omega)

/-! ### Schedules of which the last step alone carries LAST -/

section
variable {l : List HStep} {e : HStep} (hl : ∀ h ∈ l, h.last = false) (he : e.last = true)
  (hfits : ∀ h ∈ l ++ [e], h.fits)
include hl he hfits

/-- The steps end with the first that carries LAST, whatever records follow. -/
theorem stepsUpToLast_map_stepBytes (z : List Bytes) : stepsUpToLast ((l ++ [e]).map stepBytes ++ z) = l ++ [e] := by
  induction l with
  | nil => simp [stepsUpToLast, he, stepOf_stepBytes (hfits e (by simp))]
  | cons h l ih =>
    have ih := ih (fun x hx => hl x (List.mem_cons_of_mem h hx)) (fun x hx => hfits x (List.mem_cons_of_mem h hx))
    simpa [stepsUpToLast, hl h, stepOf_stepBytes (hfits h (by simp))] using ih

/-- A schedule reads back as the steps it spells. -/
theorem scheduleOf_scheduleBytes (hlen : (l ++ [e]).length ≤ 64) : scheduleOf (scheduleBytes (l ++ [e])) = l ++ [e] := by
  obtain ⟨z, -, hz⟩ := chunks_scheduleBytes hlen
  rw [scheduleOf, hz, stepsUpToLast_map_stepBytes hl he hfits]

/-- A schedule none of whose steps has a fault passes the check (R113). -/
theorem scheduleCheck_scheduleBytes (hlen : (l ++ [e]).length ≤ 64)
    (hstruct : ∀ h ∈ l ++ [e], stepStructBad (stepBytes h) = false)
    (hrange : ∀ h ∈ l ++ [e], stepRangeBad (stepBytes h) = false) :
    scheduleCheck (scheduleBytes (l ++ [e])) = stOk := by
  obtain ⟨z, hzero, hz⟩ := chunks_scheduleBytes hlen
  have hsize : (scheduleBytes (l ++ [e])).length = 1024 := fit_length ..
  have htake : ((l ++ [e]).map stepBytes ++ z).take (l ++ [e]).length = (l ++ [e]).map stepBytes :=
    List.take_left' (List.length_map ..)
  have hdrop : ((l ++ [e]).map stepBytes ++ z).drop (l ++ [e]).length = z := List.drop_left' (List.length_map ..)
  have hmark : ((l ++ [e]).map stepBytes).any (fun b => bitN (u8 b 3) 0) = true := by simp [he]
  have hnoStruct : ((l ++ [e]).map stepBytes).any stepStructBad = false := by
    simpa only [List.any_map, List.any_eq_false, Function.comp_apply, Bool.not_eq_true] using hstruct
  have hnoRange : ((l ++ [e]).map stepBytes).any stepRangeBad = false := by
    simpa only [List.any_map, List.any_eq_false, Function.comp_apply, Bool.not_eq_true] using hrange
  simp only [scheduleCheck, hsize, scheduleOf_scheduleBytes hl he hfits hlen, hz, htake, hdrop, hmark, hnoStruct, hnoRange,
    hzero]
  rfl

end

/-! ### The default schedule -/

/-- Steps 1 to 31 of the default schedule; its last step is `defaultStep 32` (R114). -/
def defaultSteps : List HStep := (List.range 31).map (fun k => defaultStep (k + 1))

/-- The default schedule spells the default steps. -/
theorem defaultSchedule_eq : defaultSchedule = scheduleBytes (defaultSteps ++ [defaultStep 32]) := by
  simp only [defaultSchedule, scheduleBytes, defaultSteps, List.range_succ (n := 31), List.flatMap_append, List.flatMap_map,
    List.flatMap_singleton]

theorem defaultSteps_get {k : Nat} (hk : k < 32) : (defaultSteps ++ [defaultStep 32])[k]? = some (defaultStep (k + 1)) := by
  have h : defaultSteps ++ [defaultStep 32] = (List.range 32).map (fun k => defaultStep (k + 1)) := by
    simp only [defaultSteps, List.range_succ (n := 31), List.map_append, List.map_singleton]
  simp [h, hk]

theorem exists_of_mem_defaultSteps {h : HStep} (hm : h ∈ defaultSteps ++ [defaultStep 32]) :
    ∃ k < 32, h = defaultStep (k + 1) := by
  obtain ⟨k, hk, rfl⟩ := List.mem_iff_getElem.mp hm
  have hk : k < 32 := hk
  exact ⟨k, hk, Option.some_inj.mp ((List.getElem?_eq_getElem _).symm.trans (defaultSteps_get hk))⟩

theorem defaultSteps_last {h : HStep} (hm : h ∈ defaultSteps) : h.last = false := by
  obtain ⟨k, hk, rfl⟩ := List.mem_map.mp hm
  have hk := List.mem_range.mp hk
  simp [defaultStep]
  omega

theorem defaultStep_fits (k : Nat) : (defaultStep k).fits := by
  by_cases hk : k = 1 <;> simp [HStep.fits, defaultStep, hk]

/-- The mask of a default step names an output. -/
theorem defaultStep_mask_ne_zero {k : Nat} (hk : k < 32) : (defaultStep (k + 1)).mask ≠ 0 := by
  intro h
  have hlt : 2 ^ k < 2 ^ 32 := Nat.pow_lt_pow_right (by decide) hk
  have hz : 2 ^ k % 2 ^ 32 = 0 := congrArg BitVec.toNat h
  rw [Nat.mod_eq_of_lt hlt] at hz
  exact absurd hz (Nat.two_pow_pos k).ne'

theorem defaultStep_structOk (k : Nat) : stepStructBad (stepBytes (defaultStep k)) = false := by
  have hflags : decide (u8 (stepBytes (defaultStep k)) 3 ≥ 4) = false := by simpa using stepBytes_flags_lt (defaultStep k)
  simp only [stepStructBad, stepOf_stepBytes (defaultStep_fits k), hflags]
  by_cases hk : k = 1 <;> simp [defaultStep, hk]

theorem defaultStep_rangeOk {k : Nat} (hk : k < 32) : stepRangeBad (stepBytes (defaultStep (k + 1))) = false := by
  have hmask : ((defaultStep (k + 1)).mask == 0) = false := beq_false_of_ne (defaultStep_mask_ne_zero hk)
  simp only [stepRangeBad, stepOf_stepBytes (defaultStep_fits (k + 1)), hmask]
  by_cases h0 : k = 0 <;> simp [defaultStep, h0]

theorem scheduleOf_defaultSchedule : scheduleOf defaultSchedule = defaultSteps ++ [defaultStep 32] := by
  rw [defaultSchedule_eq]
  refine scheduleOf_scheduleBytes (fun h => defaultSteps_last) rfl (fun h hm => ?_) (by decide)
  obtain ⟨k, -, rfl⟩ := exists_of_mem_defaultSteps hm
  exact defaultStep_fits (k + 1)

theorem scheduleCheck_defaultSchedule : scheduleCheck defaultSchedule = stOk := by
  rw [defaultSchedule_eq]
  refine scheduleCheck_scheduleBytes (fun h => defaultSteps_last) rfl (fun h hm => ?_) (by decide) (fun h hm => ?_)
    (fun h hm => ?_)
  all_goals obtain ⟨k, hk, rfl⟩ := exists_of_mem_defaultSteps hm
  · exact defaultStep_fits (k + 1)
  · exact defaultStep_structOk (k + 1)
  · exact defaultStep_rangeOk hk

/-- `halter.schedule` reads as the default schedule while it is not set (R114). -/
theorem State.val_schedule_default {s : State} (h : getKey s.dict.vals 0x200001 = none) : s.val 0x200001 = defaultSchedule := by
  rw [State.val, h, dfltOf, show entryOf 0x200001 = some _ from rfl]
  rfl

/-- Settles O8: the default value passes the check (`scheduleCheck_defaultSchedule`), and the schedule that begins runs the
default steps that this value spells (`scheduleOf_defaultSchedule`). -/
theorem defaultReleaseSchedule : Obligations.DefaultSchedule := by
  intro s hs
  have hval := State.val_schedule_default hs
  have hsteps : s.beginSchedule.hal.steps = defaultSteps ++ [defaultStep 32] :=
    (congrArg scheduleOf hval).trans scheduleOf_defaultSchedule
  refine ⟨hval ▸ scheduleCheck_defaultSchedule, rfl, rfl, hsteps ▸ rfl, fun k hk => ⟨defaultStep (k + 1), ?_, ?_⟩⟩
  · rw [hsteps, defaultSteps_get hk]
  · by_cases h0 : k = 0 <;> simp [defaultStep, h0, beq_eq_decide]

end Sys2Proof.Machine

/-! What a frame boundary leaves RELEASE_STEP_ACTS to do (R109, R111), for every kind of wait, and what the verdict of a partner
makes of a wait for PARTNER_PASS (R192). -/

namespace Sys2Proof.Machine

open Sys2Proof

/-! ### What the boundary latches -/

@[simp] theorem State.halterSees_currentStep (s : State) : s.halterSees.currentStep = s.currentStep := rfl

@[simp] theorem State.halterSees_now (s : State) : s.halterSees.now = s.now := rfl

theorem State.halterSees_met {s : State} {h : HStep} (hs : s.currentStep = some h) :
    s.halterSees.hal.met = s.waitMet h := by
  simp [State.halterSees, hs]

theorem State.halterSees_fails {s : State} {h : HStep} (hs : s.currentStep = some h) :
    s.halterSees.hal.fails = s.waitFails h := by
  simp [State.halterSees, hs]

/-! ### What the step does with it -/

@[simp] theorem State.stepActs_hal (s : State) (h : HStep) : (s.stepActs h).hal = (s.hal.act s.now h).advance h := by
  by_cases hl : h.last = true <;> simp [State.stepActs, hl]

@[simp] theorem State.stopSchedule_hal (s : State) : s.stopSchedule.hal = { s.hal with st := .stopped } := by
  simp [State.stopSchedule]

/-- RELEASE_STEP_ACTS at a current step: a failing verdict comes before a wait found satisfied (R109, R111). -/
theorem exec_releaseStepActs_of_currentStep {s : State} {h : HStep} (hs : s.currentStep = some h) :
    exec .releaseStepActs s = .next (if s.hal.fails then s.fresh.stopSchedule
      else if s.hal.met then s.fresh.stepActs h else s.fresh) := by
  have hfresh : s.fresh.currentStep = some h := hs
  change execReleaseStepActs s = _
  simp only [execReleaseStepActs, hfresh]
  rfl

/-! ### A wait for PARTNER_PASS -/

theorem State.waitMet_partnerPass {s : State} {h : HStep} (hw : h.wait = 6) (hc : 1 ≤ s.hal.counted) :
    s.waitMet h = ((s.partner h.operand).st == .pass) := by
  simp [State.waitMet, State.partner, hw, hc]

theorem State.waitFails_partnerPass {s : State} {h : HStep} (hw : h.wait = 6) (hc : 1 ≤ s.hal.counted) :
    s.waitFails h = ((s.partner h.operand).st == .fail) := by
  simp [State.waitFails, State.partner, hw, hc]

/-- Settles O9: the boundary latches PASS as a wait satisfied and FAIL as a failing verdict (`waitMet_partnerPass`,
`waitFails_partnerPass`), and the step follows what was latched (`exec_releaseStepActs_of_currentStep`). -/
theorem partnerVerdicts : Obligations.PartnerVerdicts := by
  intro h s hs hw hc
  have hmet := (State.halterSees_met hs).trans (State.waitMet_partnerPass hw hc)
  have hfails := (State.halterSees_fails hs).trans (State.waitFails_partnerPass hw hc)
  refine ⟨_, exec_releaseStepActs_of_currentStep (s.halterSees_currentStep.trans hs), fun hpass => ?pass,
    fun hfail => ?fail, fun hpass hfail => ?waits⟩
  case pass => simp [hmet, hfails, hpass]
  case fail => simp [hfails, hfail]
  case waits => simp [hmet, hfails, hpass, hfail]

end Sys2Proof.Machine

/-! The 16 monotonic counters of R245: what one increment does, and what every command keeps of them. -/

namespace Sys2Proof.Machine

open Sys2Proof

/-- An increment adds to its own counter and stops at `2^64 - 1` (R245). -/
theorem State.monoAdd_tack_mono (s : State) (n k : Nat) :
    (s.monoAdd n k).2.tack.mono = updAt s.tack.mono n (fun _ => min (s.tack.mono.getD n 0 + k) (2 ^ 64 - 1)) := rfl

/-- The status of an increment says whether the sum has passed the counter's range (R245). -/
theorem State.monoAdd_status (s : State) (n k : Nat) :
    (s.monoAdd n k).1 = if 2 ^ 64 - 1 < s.tack.mono.getD n 0 + k then stRange else stOk := by
  simp [State.monoAdd]

/-- A write of `k` to the entry of counter `n` is an increment by `k` (R245). -/
theorem State.applyEntry_monoKey (m : State) {n k : Nat} (hn : n < 256) (hk : k < 256 ^ 4) :
    m.applyEntry (mkKey 0x4002 n) (encN 4 k) = (m.written (mkKey 0x4002 n) (encN 4 k)).monoAdd n k := by
  have hindex : mkKey 0x4002 n / 256 = 0x4002 := by unfold mkKey; omega
  have hsub : mkKey 0x4002 n % 256 = n := by unfold mkKey; omega
  rw [State.apply_mono _ _ _ hindex, hsub, ofLE_encN 4 k hk]

/-- An accepted MONO_INC leaves the counters of the increment and answers its status (R245). -/
theorem exec_monoInc_of_takes {r : Req} {x : Sess} {n k : Nat} {s : State} (h : s.takes r x (mkKey 0x4002 n) (encN 4 k))
    (hn : n < 256) (hk : k < 256 ^ 4) :
    ∃ t, exec (.monoInc r n k) s = .next t ∧ t.tack.mono = (s.monoAdd n k).2.tack.mono ∧
      .reply x.id r.seq (s.monoAdd n k).1 0 [] ∈ t.out := by
  have hother : ∀ j, j / 256 ≠ 0x4002 → mkKey 0x4002 n ≠ j := by
    intro j hj e; unfold mkKey at e; omega
  obtain ⟨m, hm, hsame, -, -, hout⟩ := State.writeRow_facts' s r x _ _ h
    ⟨hother _ (by decide), hother _ (by decide), hother _ (by decide), hother _ (by decide), hother _ (by decide),
      hother _ (by decide)⟩
  rw [State.applyEntry_monoKey m hn hk] at hsame hout
  have hwritten : (m.written (mkKey 0x4002 n) (encN 4 k)).tack = s.tack := hm.only .tack (by decide)
  have htack : (s.fresh.writeRow r (mkKey 0x4002 n) (encN 4 k)).tack =
      ((m.written (mkKey 0x4002 n) (encN 4 k)).monoAdd n k).2.tack := hsame .tack (by decide)
  refine ⟨_, rfl, ?_, ?_⟩
  · rw [htack, State.monoAdd_tack_mono, State.monoAdd_tack_mono, hwritten]
  · rw [State.monoAdd_status, hwritten, ← State.monoAdd_status] at hout
    exact hout

/-- No command lowers a counter of a sound state or takes one past its 64 bits (R245). -/
theorem exec_mono_of_shaped {c : Instr} {s t : State} (hs : s.shaped) (h : exec c s = .next t) :
    t.tack.mono.length = 16 ∧ (∀ x ∈ t.tack.mono, x < 2 ^ 64) ∧ monoUnder s.tack.mono t.tack.mono := by
  obtain ⟨-, -, hkeeps⟩ := exec_keeps c s t h
  obtain ⟨⟨hsizes, -, hbound⟩, hunder⟩ := hkeeps hs
  have hlength : t.tack.mono.length = 16 := by
    simp only [State.sizes, List.cons.injEq] at hsizes
    obtain ⟨-, -, -, -, -, -, hmono, -⟩ := hsizes
    exact hmono
  exact ⟨hlength, hbound, hunder⟩

/-- Settles O6: an accepted increment is `monoAdd` (`exec_monoInc_of_takes`), and every command keeps the counters from
falling (`exec_mono_of_shaped`). -/
theorem monotonicCounters : Obligations.MonotonicCounters := by
  refine ⟨rfl, fun r x n k s h hn hk => ?_, fun c s t hs h => exec_mono_of_shaped hs h⟩
  obtain ⟨t, hexec, hmono, hout⟩ := exec_monoInc_of_takes h hn hk
  rw [State.monoAdd_status] at hout
  exact ⟨t, hexec, hmono, hout⟩

end Sys2Proof.Machine

/-! What the resets of paddocks leave of the Tack Room's keys, and what DESTROY erases (R237). -/

namespace Sys2Proof.Machine

open Sys2Proof

/-- A command that may change other parts only leaves every key slot alone. -/
theorem State.onlyRes.keys {L : List Part} {s t : State} {r : Res} (h : s.onlyRes L r) (hL : Part.tack ∉ L)
    (hr : r = .next t) : t.tack.keys = s.tack.keys :=
  congrArg Tack.keys (h t hr .tack hL)

@[simp] theorem State.resetPad_tack (s : State) (p : Nat) : (s.resetPad p).tack = s.tack :=
  State.resetPad_only s p (List.Subset.refl _) (State.only_refl _ s) .tack (by decide)

@[simp] theorem State.resetPads_tack (s : State) (l : List Nat) : (s.resetPads l).tack = s.tack :=
  State.resetPads_only s l (List.Subset.refl _) (State.only_refl _ s) .tack (by decide)

@[simp] theorem State.mgrEnd_tack (s : State) (w : Nat) (b : Bytes) : (s.mgrEnd w b).tack = s.tack :=
  State.mgrEnd_only s w b (List.Subset.refl _) (State.only_refl _ s) .tack (by decide)

/-! ### Functions that appear and go -/

/-- A change of VF enable touches no key outside the STEWARD world (R237, R267). -/
theorem exec_vfEnableChange_openKeys (e : Bool) (n : Nat) (s : State) :
    ∃ t, exec (.vfEnableChange e n) s = .next t ∧ t.openKeys = s.openKeys := by
  refine ⟨_, rfl, ?_⟩
  dsimp only
  split
  · rfl
  · exact State.presences_keys vfPads _

/-- A change of PASID enable touches no key outside the STEWARD world (R237, R267). -/
theorem exec_pasidEnableChange_openKeys (e : Bool) (s : State) :
    ∃ t, exec (.pasidEnableChange e) s = .next t ∧ t.openKeys = s.openKeys := by
  refine ⟨_, rfl, ?_⟩
  dsimp only
  split
  · rfl
  · exact State.presences_keys slicePads _

/-! ### The manager's commands -/

theorem State.mgrApply_reset_tack (s : State) {c : Bytes} (w : Nat) (h : u8 c 0 = 3) : (s.mgrApply c w).tack = s.tack := by
  rw [State.mgrApply_reset s c w h]
  exact State.resetPads_tack s _

/-- Of the Tack Room, DESTROY changes the slots of the paddock and its hamper key, whether the paddock still has to reset or
is gone at once (R237, R366). -/
theorem State.mgrApply_destroy_tack (s : State) {c : Bytes} (w : Nat) (h : u8 c 0 = 4) :
    (s.mgrApply c w).tack = ((s.eraseOwned (uLE c 2 2)).dropHamper (uLE c 2 2)).tack := by
  rw [State.mgrApply_destroy s c w h]
  split_ifs
  · exact State.resetPad_tack _ _
  · exact State.mgrEnd_tack _ _ _

/-- The manager's RESET leaves the Tack Room alone, refused or accepted (R237). -/
theorem exec_paddockResetCommand_tack {v : Via} {s : State} (cmd : Bytes) (hv : s.managerReady v) (ho : s.logOpen) :
    ∃ t, exec (.paddockResetCommand v cmd) s = .next t ∧ t.tack = s.tack := by
  refine ⟨s.fresh.manage v 3 cmd, rfl, ?_⟩
  by_cases hcheck : s.mgrCheck (mgrCommand 3 cmd) = 0
  · obtain ⟨u, w, hu, happly, -, -⟩ := State.manage_accepted s v 3 cmd hv ho hcheck
    rw [happly, State.mgrApply_reset_tack u w (mgrCommand_code 3 cmd (by decide)), hu.tack]
  · obtain ⟨-, htack, -⟩ := State.manage_refused s v 3 cmd hv ho hcheck
    exact htack

/-- An accepted DESTROY makes no key and leaves none of a paddock world that the paddock owns (R237). -/
theorem exec_destroy_keys {v : Via} {cmd : Bytes} {s : State} (hv : s.managerReady v) (ho : s.logOpen)
    (hcheck : s.mgrCheck (mgrCommand 4 cmd) = 0) :
    ∃ t, exec (.destroy v cmd) s = .next t ∧ ∀ k ∈ t.tack.keys,
      k ∈ s.tack.keys ∧ (k.owner = uLE (mgrCommand 4 cmd) 2 2 → k.world.getLsbD 0 = true) := by
  obtain ⟨u, w, hu, happly, -, -⟩ := State.manage_accepted s v 4 cmd hv ho hcheck
  refine ⟨s.fresh.manage v 4 cmd, rfl, fun k hk => ?_⟩
  rw [happly, State.mgrApply_destroy_tack u w (mgrCommand_code 4 cmd (by decide))] at hk
  obtain ⟨-, hdrop, -⟩ := State.dropHamper_keys (u.eraseOwned (uLE (mgrCommand 4 cmd) 2 2)) (uLE (mgrCommand 4 cmd) 2 2)
  rw [← hu.tack]
  exact State.eraseOwned_keys u _ k (hdrop k hk)

/-- Settles O7: the resets that cannot enable a paddock leave the Tack Room alone (`State.onlyRes.keys`), those that can are
changes of presence (`State.presences_keys`), and DESTROY erases slot by slot (`exec_destroy_keys`). -/
theorem paddockResetsKeepKeys : Obligations.PaddockResetsKeepKeys := by
  refine ⟨fun pad v s => ⟨_, rfl, ?resetWrite⟩, fun n s => ⟨_, rfl, ?vfFlr⟩, execPfFlr_keys, fun s => ⟨_, rfl, ?hotReset⟩,
    exec_vfEnableChange_openKeys, exec_pasidEnableChange_openKeys, fun n s => ⟨_, rfl, ?resetComplete⟩,
    fun v cmd s hv ho => ?resetCommand, fun v cmd s => exec_destroy_keys⟩
  case resetWrite => exact (execPaddockResetWrite_only pad v s (List.Subset.refl _)).keys (by decide) rfl
  case vfFlr => exact (execVfFlr_only n s (List.Subset.refl _)).keys (by decide) rfl
  case hotReset => exact (execHotReset_only s (List.Subset.refl _)).keys (by decide) rfl
  case resetComplete => exact (execPaddockResetComplete_only n s (List.Subset.refl _)).keys (by decide) rfl
  case resetCommand =>
    obtain ⟨t, hexec, htack⟩ := exec_paddockResetCommand_tack cmd hv ho
    exact ⟨t, hexec, congrArg Tack.keys htack⟩

end Sys2Proof.Machine

/-! What every command keeps and what it leaves alone, over all commands: the frame of a command, the shape of the state, the
step of the block and the state after reset. -/

namespace Sys2Proof.Machine

open Sys2Proof

/-- The dispatch of `exec`, arm by arm, from what each command's own meaning may change. -/
theorem exec_only (c : Instr) (s : State) : s.onlyRes (touches c) (exec c s) :=
  match c with
  | .vinRise mv st => execVinRise_only mv st s (List.Subset.refl _)
  | .vinFall mv => execVinFall_only mv s (List.Subset.refl _)
  | .vinWarnCrossing mv => execVinWarnCrossing_only mv s (List.Subset.refl _)
  | .supplyHoldEnd => execSupplyHoldEnd_only s (List.Subset.refl _)
  | .supplyHoldAbort => execSupplyHoldAbort_only s (List.Subset.refl _)
  | .supplyHoldEpisodeEntry => execSupplyHoldEpisodeEntry_only s (List.Subset.refl _)
  | .sysRstNLow => execSysRstNLow_only s (List.Subset.refl _)
  | .sysRstNRelease st => execSysRstNRelease_only st s (List.Subset.refl _)
  | .perstNChange high => execPerstNChange_only high s (List.Subset.refl _)
  | .pllLock => execPllLock_only s (List.Subset.refl _)
  | .refclkRecoveryTimeout => execRefclkRecoveryTimeout_only s (List.Subset.refl _)
  | .frameBoundary vinMv levels temps ppm => execFrameBoundary_only vinMv levels temps ppm s (List.Subset.refl _)
  | .sheetSwitch => execSheetSwitch_only s (List.Subset.refl _)
  | .domainWakeEnd d => execDomainWakeEnd_only d s (List.Subset.refl _)
  | .romStart r => execRomStart_only r s (List.Subset.refl _)
  | .getstatus => execGetstatus_only s (List.Subset.refl _)
  | .romLockWrite v => execRomLockWrite_only v s (List.Subset.refl _)
  | .coreReleaseWrite v => execCoreReleaseWrite_only v s (List.Subset.refl _)
  | .handoverLockWrite v => execHandoverLockWrite_only v s (List.Subset.refl _)
  | .stackFormation f => execStackFormation_only f s (List.Subset.refl _)
  | .formTimeout => execFormTimeout_only s (List.Subset.refl _)
  | .enterHolding h => execEnterHolding_only h s (List.Subset.refl _)
  | .trialWatchdogExpiry => execTrialWatchdogExpiry_only s (List.Subset.refl _)
  | .releaseStepActs => execReleaseStepActs_only s (List.Subset.refl _)
  | .waitTimeout => execWaitTimeout_only s (List.Subset.refl _)
  | .pulseEnd k => execPulseEnd_only k s (List.Subset.refl _)
  | .hiLevelChange k level => execHiLevelChange_only k level s (List.Subset.refl _)
  | .measurementRecorded port data => execMeasurementRecorded_only port data s (List.Subset.refl _)
  | .startVerificationEnd port data => execStartVerificationEnd_only port data s (List.Subset.refl _)
  | .stileRead c => execStileRead_only c s (List.Subset.refl _)
  | .fastRead c => execFastRead_only c s (List.Subset.refl _)
  | .dualOutputFastRead c => execDualOutputFastRead_only c s (List.Subset.refl _)
  | .dualIoFastRead c => execDualIoFastRead_only c s (List.Subset.refl _)
  | .quadOutputFastRead c => execQuadOutputFastRead_only c s (List.Subset.refl _)
  | .quadIoFastRead c => execQuadIoFastRead_only c s (List.Subset.refl _)
  | .octalDtrRead c => execOctalDtrRead_only c s (List.Subset.refl _)
  | .readStatusRegister c => execReadStatusRegister_only c s (List.Subset.refl _)
  | .readJedecId c => execReadJedecId_only c s (List.Subset.refl _)
  | .readSfdp c => execReadSfdp_only c s (List.Subset.refl _)
  | .writeEnable c => execWriteEnable_only c s (List.Subset.refl _)
  | .writeDisable c => execWriteDisable_only c s (List.Subset.refl _)
  | .pageProgram c => execPageProgram_only c s (List.Subset.refl _)
  | .quadInputPageProgram c => execQuadInputPageProgram_only c s (List.Subset.refl _)
  | .erase4Kib c => execErase4Kib_only c s (List.Subset.refl _)
  | .erase64Kib c => execErase64Kib_only c s (List.Subset.refl _)
  | .chipErase c alt => execChipErase_only c alt s (List.Subset.refl _)
  | .writeStatusRegister c => execWriteStatusRegister_only c s (List.Subset.refl _)
  | .writeVolatileConfiguration c => execWriteVolatileConfiguration_only c s (List.Subset.refl _)
  | .securityRegisterCommand c erase => execSecurityRegisterCommand_only c erase s (List.Subset.refl _)
  | .enter4ByteAddressMode c => execEnter4ByteAddressMode_only c s (List.Subset.refl _)
  | .exit4ByteAddressMode c => execExit4ByteAddressMode_only c s (List.Subset.refl _)
  | .enterQpi c => execEnterQpi_only c s (List.Subset.refl _)
  | .exitQpi c => execExitQpi_only c s (List.Subset.refl _)
  | .resetEnable c => execResetEnable_only c s (List.Subset.refl _)
  | .stileReset c => execStileReset_only c s (List.Subset.refl _)
  | .unknownCommand c opcode => execUnknownCommand_only c opcode s (List.Subset.refl _)
  | .stnRstNLow port => execStnRstNLow_only port s (List.Subset.refl _)
  | .refusedBusyEnd port => execRefusedBusyEnd_only port s (List.Subset.refl _)
  | .downstreamStatusPoll port idle => execDownstreamStatusPoll_only port idle s (List.Subset.refl _)
  | .tagVerdict port host block => execTagVerdict_only port host block s (List.Subset.refl _)
  | .debtClearRead port => execDebtClearRead_only port s (List.Subset.refl _)
  | .sweepComplete port => execSweepComplete_only port s (List.Subset.refl _)
  | .sweepLate port => execSweepLate_only port s (List.Subset.refl _)
  | .platformTrialExpiry port => execPlatformTrialExpiry_only port s (List.Subset.refl _)
  | .recoveryComplete port h => execRecoveryComplete_only port h s (List.Subset.refl _)
  | .queryDeviceIdentifiers q => execQueryDeviceIdentifiers_only q s (List.Subset.refl _)
  | .getFirmwareParameters q => execGetFirmwareParameters_only q s (List.Subset.refl _)
  | .requestUpdate q maxXfer => execRequestUpdate_only q maxXfer s (List.Subset.refl _)
  | .passComponentTable q comp => execPassComponentTable_only q comp s (List.Subset.refl _)
  | .updateComponent q comp stamp size => execUpdateComponent_only q comp stamp size s (List.Subset.refl _)
  | .firmwareDataReceived q data flashOk readback => execFirmwareDataReceived_only q data flashOk readback s (List.Subset.refl _)
  | .activateFirmware q selfContained => execActivateFirmware_only q selfContained s (List.Subset.refl _)
  | .getStatus q => execGetStatus_only q s (List.Subset.refl _)
  | .cancelUpdateComponent q => execCancelUpdateComponent_only q s (List.Subset.refl _)
  | .cancelUpdate q => execCancelUpdate_only q s (List.Subset.refl _)
  | .pldmTimeout => execPldmTimeout_only s (List.Subset.refl _)
  | .setEndpointId bus eid => execSetEndpointId_only bus eid s (List.Subset.refl _)
  | .dynamicAddressAssignment bus addr => execDynamicAddressAssignment_only bus addr s (List.Subset.refl _)
  | .rstdaa bus => execRstdaa_only bus s (List.Subset.refl _)
  | .enthdr bus transfers => execEnthdr_only bus transfers s (List.Subset.refl _)
  | .hotJoin f => execHotJoin_only f s (List.Subset.refl _)
  | .requesterResponse k r => execRequesterResponse_only k r s (List.Subset.refl _)
  | .requesterTimeout k => execRequesterTimeout_only k s (List.Subset.refl _)
  | .partnerPoll k answered => execPartnerPoll_only k answered s (List.Subset.refl _)
  | .quarantineExpiry eid bus v => execQuarantineExpiry_only eid bus v s (List.Subset.refl _)
  | .reattestTimer => execReattestTimer_only s (List.Subset.refl _)
  | .getVersion q => execGetVersion_only q s (List.Subset.refl _)
  | .getCapabilities q => execGetCapabilities_only q s (List.Subset.refl _)
  | .negotiateAlgorithms q common => execNegotiateAlgorithms_only q common s (List.Subset.refl _)
  | .getDigests q => execGetDigests_only q s (List.Subset.refl _)
  | .getCertificate q slot off len => execGetCertificate_only q slot off len s (List.Subset.refl _)
  | .challenge q slot summary => execChallenge_only q slot summary s (List.Subset.refl _)
  | .getMeasurements q index sign => execGetMeasurements_only q index sign s (List.Subset.refl _)
  | .keyExchange q slot => execKeyExchange_only q slot s (List.Subset.refl _)
  | .finish q sid hmacOk => execFinish_only q sid hmacOk s (List.Subset.refl _)
  | .heartbeat q sid => execHeartbeat_only q sid s (List.Subset.refl _)
  | .keyUpdate q sid op => execKeyUpdate_only q sid op s (List.Subset.refl _)
  | .respondIfReady q => execRespondIfReady_only q s (List.Subset.refl _)
  | .unsupportedSpdmRequest q code => execUnsupportedSpdmRequest_only q code s (List.Subset.refl _)
  | .securedMessage q sid aeadOk => execSecuredMessage_only q sid aeadOk s (List.Subset.refl _)
  | .sessionHeartbeatTimeout sid => execSessionHeartbeatTimeout_only sid s (List.Subset.refl _)
  | .clientHello port conn acceptable => execClientHello_only port conn acceptable s (List.Subset.refl _)
  | .dictOpen ch cred => execDictOpen_only ch cred s (List.Subset.refl _)
  | .dictAuth r key sig binding => execDictAuth_only r key sig binding s (List.Subset.refl _)
  | .dictClose r => execDictClose_only r s (List.Subset.refl _)
  | .dictRead ch r index sub off => execDictRead_only ch r index sub off s (List.Subset.refl _)
  | .dictWrite r index sub value => execDictWrite_only r index sub value s (List.Subset.refl _)
  | .writePart r index sub off data => execWritePart_only r index sub off data s (List.Subset.refl _)
  | .writeEnd r index sub total digest => execWriteEnd_only r index sub total digest s (List.Subset.refl _)
  | .approve r id digest => execApprove_only r id digest s (List.Subset.refl _)
  | .withdraw r id => execWithdraw_only r id s (List.Subset.refl _)
  | .proposalExpiry id => execProposalExpiry_only id s (List.Subset.refl _)
  | .dictSessionIdle sid conn => execDictSessionIdle_only sid conn s (List.Subset.refl _)
  | .remoteRequest r target op index sub value role answer => execRemoteRequest_only r target op index sub value role answer s (List.Subset.refl _)
  | .fwActivate r slot => execFwActivate_only r slot s (List.Subset.refl _)
  | .fwConfirm r v => execFwConfirm_only r v s (List.Subset.refl _)
  | .fwRestart r v => execFwRestart_only r v s (List.Subset.refl _)
  | .fwFloorRequest r target => execFwFloorRequest_only r target s (List.Subset.refl _)
  | .timetableLoad r image => execTimetableLoad_only r image s (List.Subset.refl _)
  | .sheetSwitchRequest r sheet => execSheetSwitchRequest_only r sheet s (List.Subset.refl _)
  | .halterScheduleWrite r value => execHalterScheduleWrite_only r value s (List.Subset.refl _)
  | .halterResume r v => execHalterResume_only r v s (List.Subset.refl _)
  | .halterHoldClear r v => execHalterHoldClear_only r v s (List.Subset.refl _)
  | .stileActivate r port slot => execStileActivate_only r port slot s (List.Subset.refl _)
  | .stileConfirm r port v => execStileConfirm_only r port v s (List.Subset.refl _)
  | .stileRestart r port v => execStileRestart_only r port v s (List.Subset.refl _)
  | .manifestWrite r port slot value => execManifestWrite_only r port slot value s (List.Subset.refl _)
  | .stileFloorWrite r port v => execStileFloorWrite_only r port v s (List.Subset.refl _)
  | .slotBaseWrite r port item v => execSlotBaseWrite_only r port item v s (List.Subset.refl _)
  | .stileClockConfigWrite r port item v => execStileClockConfigWrite_only r port item v s (List.Subset.refl _)
  | .create r header data => execCreate_only r header data s (List.Subset.refl _)
  | .import_ r header data => execImport_only r header data s (List.Subset.refl _)
  | .derive_ r header data => execDerive_only r header data s (List.Subset.refl _)
  | .revoke r header => execRevoke_only r header s (List.Subset.refl _)
  | .erase r header => execErase_only r header s (List.Subset.refl _)
  | .rewrite r header => execRewrite_only r header s (List.Subset.refl _)
  | .drain r header => execDrain_only r header s (List.Subset.refl _)
  | .export_ r header => execExport_only r header s (List.Subset.refl _)
  | .drainErase slot => execDrainErase_only slot s (List.Subset.refl _)
  | .drainTimeout slot => execDrainTimeout_only slot s (List.Subset.refl _)
  | .lineageSweepEnd => execLineageSweepEnd_only s (List.Subset.refl _)
  | .srkGenerate r v => execSrkGenerate_only r v s (List.Subset.refl _)
  | .monoInc r n k => execMonoInc_only r n k s (List.Subset.refl _)
  | .entropyTestFail => execEntropyTestFail_only s (List.Subset.refl _)
  | .drbgRecovery => execDrbgRecovery_only s (List.Subset.refl _)
  | .pushSlotSeal pad slot off data => execPushSlotSeal_only pad slot off data s (List.Subset.refl _)
  | .ringSqTailWrite pad ring v => execRingSqTailWrite_only pad ring v s (List.Subset.refl _)
  | .ringCqHeadWrite pad ring v => execRingCqHeadWrite_only pad ring v s (List.Subset.refl _)
  | .ringEnable pad ring => execRingEnable_only pad ring s (List.Subset.refl _)
  | .ringDisable pad ring => execRingDisable_only pad ring s (List.Subset.refl _)
  | .fetchCompletion tag data => execFetchCompletion_only tag data s (List.Subset.refl _)
  | .pinTranslate id => execPinTranslate_only id s (List.Subset.refl _)
  | .pinVerify id => execPinVerify_only id s (List.Subset.refl _)
  | .dukptPinTranslate id => execDukptPinTranslate_only id s (List.Subset.refl _)
  | .pinCheckValue id => execPinCheckValue_only id s (List.Subset.refl _)
  | .macGenerate id => execMacGenerate_only id s (List.Subset.refl _)
  | .macVerify id => execMacVerify_only id s (List.Subset.refl _)
  | .cryptogramVerify id => execCryptogramVerify_only id s (List.Subset.refl _)
  | .cryptogramVerifyRespond id => execCryptogramVerifyRespond_only id s (List.Subset.refl _)
  | .keyGenerate id => execKeyGenerate_only id s (List.Subset.refl _)
  | .keyPairGenerate id agree => execKeyPairGenerate_only id agree s (List.Subset.refl _)
  | .keyImport id => execKeyImport_only id s (List.Subset.refl _)
  | .keyImportWrapped id => execKeyImportWrapped_only id s (List.Subset.refl _)
  | .keyExport id => execKeyExport_only id s (List.Subset.refl _)
  | .keyDerive id => execKeyDerive_only id s (List.Subset.refl _)
  | .keyRevoke id => execKeyRevoke_only id s (List.Subset.refl _)
  | .keyErase id => execKeyErase_only id s (List.Subset.refl _)
  | .keyRewrite id => execKeyRewrite_only id s (List.Subset.refl _)
  | .keyDrain id => execKeyDrain_only id s (List.Subset.refl _)
  | .kcv id => execKcv_only id s (List.Subset.refl _)
  | .keyStorePublic id agree => execKeyStorePublic_only id agree s (List.Subset.refl _)
  | .digest id => execDigest_only id s (List.Subset.refl _)
  | .hmacJob id => execHmacJob_only id s (List.Subset.refl _)
  | .digestCompare id => execDigestCompare_only id s (List.Subset.refl _)
  | .hmacCompare id => execHmacCompare_only id s (List.Subset.refl _)
  | .openStream id => execOpenStream_only id s (List.Subset.refl _)
  | .openKeyed id => execOpenKeyed_only id s (List.Subset.refl _)
  | .update id => execUpdate_only id s (List.Subset.refl _)
  | .final id => execFinal_only id s (List.Subset.refl _)
  | .finalCompare id => execFinalCompare_only id s (List.Subset.refl _)
  | .abandon id => execAbandon_only id s (List.Subset.refl _)
  | .sign id agree => execSign_only id agree s (List.Subset.refl _)
  | .verify id agree => execVerify_only id agree s (List.Subset.refl _)
  | .batchVerify id agree => execBatchVerify_only id agree s (List.Subset.refl _)
  | .ecdh id agree => execEcdh_only id agree s (List.Subset.refl _)
  | .encapsulateReturn id agree => execEncapsulateReturn_only id agree s (List.Subset.refl _)
  | .encapsulateAes id agree => execEncapsulateAes_only id agree s (List.Subset.refl _)
  | .encapsulateHmac id agree => execEncapsulateHmac_only id agree s (List.Subset.refl _)
  | .decapsulateAes id agree => execDecapsulateAes_only id agree s (List.Subset.refl _)
  | .decapsulateHmac id agree => execDecapsulateHmac_only id agree s (List.Subset.refl _)
  | .random id => execRandom_only id s (List.Subset.refl _)
  | .sourceDataArrival id data => execSourceDataArrival_only id data s (List.Subset.refl _)
  | .jobDispatch lane hamper => execJobDispatch_only lane hamper s (List.Subset.refl _)
  | .jobComplete id => execJobComplete_only id s (List.Subset.refl _)
  | .pairCheckComplete lane pass => execPairCheckComplete_only lane pass s (List.Subset.refl _)
  | .pkRetest r v => execPkRetest_only r v s (List.Subset.refl _)
  | .selfTestPeriod => execSelfTestPeriod_only s (List.Subset.refl _)
  | .selfTestResult lane pass => execSelfTestResult_only lane pass s (List.Subset.refl _)
  | .paddockCreate v cmd => execPaddockCreate_only v cmd s (List.Subset.refl _)
  | .modify v cmd => execModify_only v cmd s (List.Subset.refl _)
  | .paddockResetCommand v cmd => execPaddockResetCommand_only v cmd s (List.Subset.refl _)
  | .destroy v cmd => execDestroy_only v cmd s (List.Subset.refl _)
  | .query v cmd => execQuery_only v cmd s (List.Subset.refl _)
  | .logStart v cmd => execLogStart_only v cmd s (List.Subset.refl _)
  | .logStop v cmd => execLogStop_only v cmd s (List.Subset.refl _)
  | .logDrain v cmd => execLogDrain_only v cmd s (List.Subset.refl _)
  | .paddockResetWrite pad v => execPaddockResetWrite_only pad v s (List.Subset.refl _)
  | .vfFlr n => execVfFlr_only n s (List.Subset.refl _)
  | .pfFlr => execPfFlr_only s (List.Subset.refl _)
  | .hotReset => execHotReset_only s (List.Subset.refl _)
  | .vfEnableChange enable numVfs => execVfEnableChange_only enable numVfs s (List.Subset.refl _)
  | .pasidEnableChange enable => execPasidEnableChange_only enable s (List.Subset.refl _)
  | .paddockResetComplete pad => execPaddockResetComplete_only pad s (List.Subset.refl _)
  | .lateCompletion tag => execLateCompletion_only tag s (List.Subset.refl _)
  | .completionTimeout tag => execCompletionTimeout_only tag s (List.Subset.refl _)
  | .rdwStart steward ctrl => execRdwStart_only steward ctrl s (List.Subset.refl _)
  | .rdwAbort steward ctrl => execRdwAbort_only steward ctrl s (List.Subset.refl _)
  | .rdwDataWrite steward high w => execRdwDataWrite_only steward high w s (List.Subset.refl _)
  | .rdwLastwordWrite steward high w => execRdwLastwordWrite_only steward high w s (List.Subset.refl _)
  | .rdwLastcountWrite steward v => execRdwLastcountWrite_only steward v s (List.Subset.refl _)
  | .rdwResultRead steward word => execRdwResultRead_only steward word s (List.Subset.refl _)
  | .frameCtLoRead => execFrameCtLoRead_only s (List.Subset.refl _)
  | .atnCauseClear g v => execAtnCauseClear_only g v s (List.Subset.refl _)
  | .atnEnableWrite g v => execAtnEnableWrite_only g v s (List.Subset.refl _)
  | .atnRearm => execAtnRearm_only s (List.Subset.refl _)
  | .registerWrite fn off data => execRegisterWrite_only fn off data s (List.Subset.refl _)
  | .atnClearEntry r value => execAtnClearEntry_only r value s (List.Subset.refl _)
  | .atnEnableEntry r g v => execAtnEnableEntry_only r g v s (List.Subset.refl _)
  | .mePortConfigWrite r port item value => execMePortConfigWrite_only r port item value s (List.Subset.refl _)
  | .policyRecordWrite r k value => execPolicyRecordWrite_only r k value s (List.Subset.refl _)
  | .ownerCertWrite r value => execOwnerCertWrite_only r value s (List.Subset.refl _)
  | .credentialWrite r n value => execCredentialWrite_only r n value s (List.Subset.refl _)
  | .dictCommit r v => execDictCommit_only r v s (List.Subset.refl _)
  | .restoreDefaults r v => execRestoreDefaults_only r v s (List.Subset.refl _)
  | .logEntryWrite => execLogEntryWrite_only s (List.Subset.refl _)
  | .checkpointDue => execCheckpointDue_only s (List.Subset.refl _)
  | .checkpointWritten => execCheckpointWritten_only s (List.Subset.refl _)
  | .logExportAck r value => execLogExportAck_only r value s (List.Subset.refl _)
  | .logWindowStartWrite r v => execLogWindowStartWrite_only r v s (List.Subset.refl _)
  | .logTimeEpochWrite r v => execLogTimeEpochWrite_only r v s (List.Subset.refl _)
  | .logPolicyWrite r v => execLogPolicyWrite_only r v s (List.Subset.refl _)
  | .monitorDetect n => execMonitorDetect_only n s (List.Subset.refl _)
  | .alarmResponse => execAlarmResponse_only s (List.Subset.refl _)
  | .latchSelfClear n => execLatchSelfClear_only n s (List.Subset.refl _)
  | .monClear r v => execMonClear_only r v s (List.Subset.refl _)
  | .leaveAlarmHalt h => execLeaveAlarmHalt_only h s (List.Subset.refl _)
  | .monTest r n => execMonTest_only r n s (List.Subset.refl _)
  | .monTestWindowEnd detected real => execMonTestWindowEnd_only detected real s (List.Subset.refl _)
  | .monConfigWrite r n v => execMonConfigWrite_only r n v s (List.Subset.refl _)
  | .backupDetection n => execBackupDetection_only n s (List.Subset.refl _)
  | .vbatCollapse => execVbatCollapse_only s (List.Subset.refl _)
  | .lcRequest r value => execLcRequest_only r value s (List.Subset.refl _)
  | .lcCancel r v => execLcCancel_only r v s (List.Subset.refl _)
  | .lcMailboxToken token => execLcMailboxToken_only token s (List.Subset.refl _)
  | .debugNonceRead r => execDebugNonceRead_only r s (List.Subset.refl _)
  | .nonceExpiry => execNonceExpiry_only s (List.Subset.refl _)
  | .debugToken r value => execDebugToken_only r value s (List.Subset.refl _)
  | .cascadeEnableWrite r v => execCascadeEnableWrite_only r v s (List.Subset.refl _)
  | .cascadePromote r v => execCascadePromote_only r v s (List.Subset.refl _)
  | .actingMasterClear r v => execActingMasterClear_only r v s (List.Subset.refl _)
  | .promotionNotice => execPromotionNotice_only s (List.Subset.refl _)
  | .linkDown port => execLinkDown_only port s (List.Subset.refl _)
  | .memberLost d => execMemberLost_only d s (List.Subset.refl _)
  | .linkRekey r secret transcript => execLinkRekey_only r secret transcript s (List.Subset.refl _)
  | .forwardedJob desc data master mask => execForwardedJob_only desc data master mask s (List.Subset.refl _)
  | .forwardedResult id status lane result dest => execForwardedResult_only id status lane result dest s (List.Subset.refl _)
  | .keyReplication k master => execKeyReplication_only k master s (List.Subset.refl _)
  | .replicaChange master what secret => execReplicaChange_only master what secret s (List.Subset.refl _)
  | .forwardCancellation id => execForwardCancellation_only id s (List.Subset.refl _)
  | .remoteSheetSwitch sheet base safe => execRemoteSheetSwitch_only sheet base safe s (List.Subset.refl _)
  | .powerSleep r v => execPowerSleep_only r v s (List.Subset.refl _)
  | .wake w hi => execWake_only w hi s (List.Subset.refl _)
  | .wakeTimerExpiry => execWakeTimerExpiry_only s (List.Subset.refl _)
  | .vioMgRise st => execVioMgRise_only st s (List.Subset.refl _)
  | .debuggerHalt => execDebuggerHalt_only s (List.Subset.refl _)
  | .debuggerResume => execDebuggerResume_only s (List.Subset.refl _)
  | .vectorUnmask fn vector => execVectorUnmask_only fn vector s (List.Subset.refl _)
  | .smbusTimeout bus => execSmbusTimeout_only bus s (List.Subset.refl _)
  | .pushWindowWrite pad slot off data => execPushWindowWrite_only pad slot off data s (List.Subset.refl _)
  | .mctpControlRequest m eid cmd typ => execMctpControlRequest_only m eid cmd typ s (List.Subset.refl _)
  | .memberJoin j => execMemberJoin_only j s (List.Subset.refl _)
  | .replicationAck member master => execReplicationAck_only member master s (List.Subset.refl _)
  | .stackClassTReport member => execStackClassTReport_only member s (List.Subset.refl _)

/-- A part that a command does not touch is as it was. -/
theorem exec_same {c : Instr} {s t : State} (h : exec c s = .next t) (p : Part) (hp : decide (p ∉ touches c) = true) :
    s.same p t :=
  exec_only c s t h p (of_decide_eq_true hp)

/-- What a next state of a command has of the state before it: the queue, the parts that the command does not touch, and the
blown fuses (R69). -/
theorem exec_frame {c : Instr} {s t : State} (h : exec c s = .next t) :
    t.pending = s.pending ∧ (∀ p, p ∉ touches c → s.same p t) ∧ s.fuse.under t.fuse := by
  obtain ⟨hPending, hFuse, -⟩ := exec_keeps c s t h
  exact ⟨hPending, exec_only c s t h, hFuse⟩

/-- Settles O3: every command but the stops answers a next state (`State.exec_next`), and each next state keeps the frame
(`exec_frame`). -/
theorem commandFrame : Obligations.CommandFrame := by
  refine ⟨fun c s hstops => ?_, fun c s t h => exec_frame h⟩
  obtain ⟨t, h⟩ := s.exec_next c hstops
  exact ⟨t, h, exec_frame h⟩

/-- No command takes the shape from a state (R50, R117, R155, R190, R245, R482, R507). -/
theorem exec_shaped {c : Instr} {s t : State} (hs : s.shaped) (h : exec c s = .next t) : t.shaped := by
  obtain ⟨-, -, hkeeps⟩ := exec_keeps c s t h
  exact (hkeeps hs).1

/-- A step runs the command at the front of the queue on the state with the queue's rest. -/
theorem step_of_cons {c : Instr} {l : List Instr} {s : State} (h : s.pending = c :: l) :
    step s = exec c { s with pending := l } := by
  simp only [step, h]

/-- On an empty queue the block idles (log 14). -/
theorem step_of_nil {s : State} (h : s.pending = []) : step s = .next s := by
  simp only [step, h]

/-- Settles O4: the shape does not speak of the queue, so the state whose front command has been taken has it, and the command
keeps it (`exec_shaped`). -/
theorem stepKeepsShape : Obligations.StepKeepsShape := by
  intro s t hs h
  cases hq : s.pending with
  | nil =>
    rw [step_of_nil hq] at h
    exact (Host.Outcome.next.inj h) ▸ hs
  | cons c l =>
    rw [step_of_cons hq] at h
    have hrest : ({ s with pending := l } : State).shaped := hs
    exact exec_shaped hrest h

/-- Settles O1: the two branches of `step`. -/
theorem stepTakesFrontCommand : Obligations.StepTakesFrontCommand :=
  ⟨fun _ _ _ => step_of_cons, fun _ => step_of_nil⟩

end Sys2Proof.Machine

/-! The state after reset. -/

namespace Sys2Proof.Machine

open Sys2Proof

/-- Settles O2: the fields of the state after reset, each as it is written down (log 2). -/
theorem resetLeaves : Obligations.ResetLeaves := by
  refine ⟨⟨rfl, rfl, ?counters⟩, rfl, rfl, rfl, rfl, rfl, rfl, rfl, rfl, rfl, rfl, rfl, rfl, rfl, ?windows, rfl, ?ports⟩
  case counters =>
    intro x hx
    obtain rfl : x = 0 := List.eq_of_mem_replicate (n := 16) hx
    decide
  case windows => rintro (_ | _) <;> exact ⟨rfl, rfl, rfl, rfl, rfl, rfl, rfl, rfl, rfl, rfl⟩
  case ports =>
    intro n hn
    interval_cases n <;> rfl

end Sys2Proof.Machine

/-! What a passed start verification stores in the Shed (R155, R168). -/

namespace Sys2Proof.Machine

open Sys2Proof

/-! ### What a passed start verification stores -/

/-- The state in which START_VERIFICATION_END stores a source that has been read: the port's new tag key has been drawn and the
downstream reads recorded (R157, R168). -/
def State.sourceRead (s : State) (n : Nat) (x : Slot) (data : Option (List Bytes)) : State :=
  (s.fresh.freshTagKey n).regionReads n x (regionsRead (imageRegions (s.manifest n x)) data)

theorem State.sourceRead_dict (s : State) (n : Nat) (x : Slot) (d : Option (List Bytes)) :
    (s.sourceRead n x d).dict = s.dict := by
  obtain ⟨-, hdict, -⟩ := (s.fresh.freshTagKey n).regionReads_sub n x (regionsRead (imageRegions (s.manifest n x)) d)
  obtain ⟨-, hkey, -⟩ := s.fresh.freshTagKey_facts n
  exact hdict.trans hkey

theorem State.sourceRead_shed (s : State) (n : Nat) (x : Slot) (d : Option (List Bytes)) :
    (s.sourceRead n x d).shed = s.shed := by
  obtain ⟨-, -, hshed⟩ := (s.fresh.freshTagKey n).regionReads_sub n x (regionsRead (imageRegions (s.manifest n x)) d)
  obtain ⟨-, -, hkey, -⟩ := s.fresh.freshTagKey_facts n
  exact hshed.trans hkey

theorem State.sourceRead_shedBase (s : State) {n : Nat} (x : Slot) (d : Option (List Bytes)) (hn : n < s.ports.length) :
    ((s.sourceRead n x d).port n).shedBase = (s.port n).shedBase := by
  obtain ⟨hports, -, -⟩ := (s.fresh.freshTagKey n).regionReads_sub n x (regionsRead (imageRegions (s.manifest n x)) d)
  obtain ⟨-, -, -, hkey⟩ := s.fresh.freshTagKey_facts n
  exact (congrArg (fun l : List Port => (l.getD n (portReset noBanks)).shedBase) hports).trans (hkey hn)

theorem State.manifest_of_dict {s t : State} (h : t.dict = s.dict) (n : Nat) (x : Slot) : t.manifest n x = s.manifest n x := by
  simp only [State.manifest, State.val, h]

/-- START_VERIFICATION_END of a source without fault: it stores the source and passes it, or stops where the Shed has no room
for it (R155, R168). -/
theorem exec_startVerificationEnd_of_source {n : Nat} {x : Slot} {d : Option (List Bytes)} {s : State}
    (hop : s.core.op.working = true) (hmode : (s.port n).mode = .manifest) (hphase : (s.port n).phase = .verify)
    (hcand : (s.port n).cand = some x) (hreason : s.sourceReason n x d = 0) (hhash : s.hashed n x d) (hn : n < s.ports.length) :
    exec (.startVerificationEnd n d) s = if s.shedFits n x then
      .next (((s.sourceRead n x d).fillPort n x (d.getD [])).sourcePass n x) else .fault .noSuchShedAddress := by
  have hfits : (s.sourceRead n x d).shedFits n x = s.shedFits n x := by
    simp only [State.shedFits, s.sourceRead_shedBase x d hn, State.manifest_of_dict (s.sourceRead_dict n x d)]
  have hreason' : s.fresh.sourceReason n x d = 0 := hreason
  have hwait : ¬ s.fresh.digestTaken n < sha384Frames ((regionsRead (imageRegions (s.fresh.manifest n x)) d).map (·.len)) :=
    Nat.not_lt.mpr hhash
  change execStartVerificationEnd n d s = _
  simp only [execStartVerificationEnd, State.fresh_core, State.fresh_port_read, hop, hmode, hphase, hcand, hreason', hwait,
    and_self, and_false, if_true, if_false, ne_eq, not_true_eq_false]
  simp only [show ((0 : Nat) == 2 || (0 : Nat) == 7 || (0 : Nat) == 5 || (0 : Nat) == 6) = false from rfl, Bool.false_eq_true, if_false]
  change (if !(s.sourceRead n x d).shedFits n x then _ else Host.Outcome.next _) = _
  rw [hfits]
  cases s.shedFits n x <;> rfl

/-- Passing a source leaves the Shed as the fill left it (R155). -/
theorem State.sourcePass_shed (s : State) (n : Nat) (x : Slot) : (s.sourcePass n x).shed = s.shed :=
  State.sourcePass_only s n x (List.Subset.refl _) (State.only_refl _ s) .shed (by decide)

/-- Settles O10: the fill of a passed source writes region by region (`fill_all`), each inside the port's CACHED total
(`totalBefore_le`). -/
theorem shedStores : Obligations.ShedStores := by
  refine ⟨memRead_write, fun n x l s hn hop hmode hphase hcand hreason hhash hfits => ?stored,
    fun n x d s hop hmode hphase hcand hreason hhash hn hfits => ?stops⟩
  case stored =>
    have hlen := sourceReason_lengths s n x l hreason
    obtain ⟨hbytes, hrest⟩ := fill_all n ((s.sourceRead n x (some l)).port n).tagSecret x (s.manifest n x)
      ((imageIndexes (s.manifest n x)).zip l) (s.sourceRead n x (some l)) hlen (imageIndexes_rise _ l)
    rw [s.sourceRead_shedBase x (some l) hn] at hbytes hrest
    rw [s.sourceRead_shed] at hrest
    refine ⟨_, (exec_startVerificationEnd_of_source hop hmode hphase hcand hreason hhash hn).trans (if_pos hfits), ?_, ?_⟩ <;>
      rw [State.sourcePass_shed, fillPort_eq, State.manifest_of_dict (s.sourceRead_dict n x (some l))]
    · exact hbytes
    · refine fun a ha => hrest a fun p hp hcls hin => ha ?_
      obtain ⟨hcount, hplen⟩ := hlen p hp
      have hle := totalBefore_le _ _ _ (manRegions_get _ _ hcount) hcls
      omega
  case stops =>
    rw [exec_startVerificationEnd_of_source hop hmode hphase hcand hreason hhash hn, hfits]
    rfl

end Sys2Proof.Machine

/-! Supplies, reset pins, the reference clock and the supply hold (R491 to R495, R542, R547). -/

namespace Sys2Proof.Machine

open Sys2Proof

/-! ### The fields of a start, of OFF and of a lost link -/

@[simp] theorem State.beginStart_op (s : State) (c : ResetCause) : (s.beginStart c).core.op = .booting :=
  (s.beginStart_core c).1

@[simp] theorem State.beginStart_cause (s : State) (c : ResetCause) : (s.beginStart c).core.resetCause = c :=
  (s.beginStart_core c).2.1

@[simp] theorem State.beginStart_frameCt (s : State) (c : ResetCause) : (s.beginStart c).core.frameCt = 0 :=
  (s.beginStart_core c).2.2.1

/-- A start leaves the straps as they were sampled and the supplies as they are (R547). -/
theorem State.beginStart_pwr (s : State) (c : ResetCause) :
    (s.beginStart c).pwr.hoPol = s.pwr.hoPol ∧ (s.beginStart c).pwr.bootSel = s.pwr.bootSel ∧
    (s.beginStart c).pwr.cascadeId = s.pwr.cascadeId ∧ (s.beginStart c).pwr.vinGood = s.pwr.vinGood ∧
    (s.beginStart c).pwr.vioMg = s.pwr.vioMg ∧ (s.beginStart c).pwr.pll = s.pwr.pll := by
  obtain ⟨-, -, -, -, -, -, -, -, -, hho, hboot, hcas, hvin, hvio, hpll⟩ := s.beginStart_rest c
  exact ⟨hho, hboot, hcas, hvin, hvio, hpll⟩

/-- A hot reset does not touch the supplies (R385). -/
@[simp] theorem State.hotReset_perst (s : State) : s.hotReset.pwr = s.pwr :=
  State.hotReset_only s (List.Subset.refl _) (State.only_refl _ s) .pwr (by decide)

@[simp] theorem State.dropLink_link (s : State) : s.dropLink.pwr.link = false := by
  by_cases h : s.pwr.link <;> simp [State.dropLink, h]

@[simp] theorem State.dropLink_perst (s : State) : s.dropLink.pwr.perst = s.pwr.perst := by
  by_cases h : s.pwr.link <;> simp [State.dropLink, h]

theorem State.leaf_of_atn {s t : State} (h : t.atn = s.atn) (g k : Nat) : t.leaf g k = s.leaf g k := by
  simp only [State.leaf, h]

theorem insertDue_length (l : List LogDue) (d : LogDue) : (insertDue l d).length = l.length + 1 := by
  unfold insertDue
  split
  · simp
  · rw [List.length_append, List.length_cons, ← Nat.add_assoc, ← List.length_append, List.takeWhile_append_dropWhile]

/-! ### Supplies, reset pins and the clock -/

/-- A state in OFF whose supplies and pins are good may leave it (R547). -/
theorem State.mayLeaveOff_iff (s : State) : s.mayLeaveOff = true ↔ s.core.op = .off ∧ s.pwr.vinGood = true ∧
    s.pwr.vioMg = true ∧ s.pwr.sysRst = true ∧ s.core.fullReset = none := by
  simp [State.mayLeaveOff, and_assoc]

/-- VIN comes up with all else good: the straps are sampled and the device starts (R547). -/
theorem exec_vinRise_starts {mv : Nat} {st : Straps} {s : State} (hop : s.core.op = .off) (hvin : s.pwr.vinGood = false)
    (hvio : s.pwr.vioMg = true) (hrst : s.pwr.sysRst = true) (hfull : s.core.fullReset = none) (hmv : vinRst < mv) :
    ∃ u : State, exec (.vinRise mv st) s = .next (u.beginStart .powerOn) ∧ u.pwr.vinGood = true ∧ u.pwr.hoPol = st.hoPol ∧
      u.pwr.cascadeId = st.cascadeId ∧ u.pwr.bootSel = st.bootSel := by
  refine ⟨((s.fresh.modPwr (fun p => { p with vinGood := true, vinMv := mv, pll := false })).sampleStraps st).modCas
    (fun c => { c with fwd := false }), ?_, rfl, rfl, rfl, rfl⟩
  change execVinRise mv st s = _
  simp [execVinRise, hvin, State.mayLeaveOff, State.sampleStraps, hop, hvio, hrst, hfull, Nat.not_le.mpr hmv]

/-- VIN falls: the device is OFF, whether the backup cell holds its domain or not (R18, R547). -/
theorem exec_vinFall_off {mv : Nat} (s : State) (hmv : mv < vinRst) :
    ∃ t, exec (.vinFall mv) s = .next t ∧ t.core = s.fresh.toOff.core ∧ t.pwr = { s.fresh.toOff.pwr with vinGood := false, vinMv := mv, pll := false } ∧
      t.jobs = s.fresh.toOff.jobs ∧ t.shed = s.fresh.toOff.shed ∧ t.fuse = s.fresh.toOff.fuse ∧
      t.log.entries = s.fresh.toOff.log.entries := by
  refine ⟨_, rfl, ?_⟩
  dsimp only
  rw [if_neg (Nat.not_le.mpr hmv)]
  split_ifs <;> exact ⟨rfl, rfl, rfl, rfl, rfl, rfl⟩

/-- SYS_RST_N is released with all else good: the boot straps are sampled and the device starts (R547). -/
theorem exec_sysRstNRelease_starts {st : Straps} {s : State} (hop : s.core.op = .off) (hrst : s.pwr.sysRst = false)
    (hvin : s.pwr.vinGood = true) (hvio : s.pwr.vioMg = true) (hfull : s.core.fullReset = none) :
    exec (.sysRstNRelease st) s =
      .next (((s.fresh.modPwr (fun p => { p with sysRst := true })).sampleBoot st).beginStart .sysRst) := by
  change execSysRstNRelease st s = _
  simp [execSysRstNRelease, hrst, State.mayLeaveOff, hop, hvin, hvio, hfull]

/-- The bank VIO_MG comes back with all else good: the straps are sampled and the device starts (R547). -/
theorem exec_vioMgRise_starts {st : Straps} {s : State} (hop : s.core.op = .off) (hvio : s.pwr.vioMg = false)
    (hvin : s.pwr.vinGood = true) (hrst : s.pwr.sysRst = true) (hfull : s.core.fullReset = none) :
    exec (.vioMgRise st) s =
      .next (((s.fresh.modPwr (fun p => { p with vioMg := true })).sampleStraps st).beginStart .powerOn) := by
  change execVioMgRise st s = _
  simp [execVioMgRise, hvio, State.mayLeaveOff, State.sampleStraps, hop, hvin, hrst, hfull]

/-- The PLLs lock after a lost reference clock: the device starts (R542). -/
theorem exec_pllLock_starts {s : State} (hop : s.core.op = .off) (hfull : s.core.fullReset = some .refclkLoss)
    (hvio : s.pwr.vioMg = true) (hrst : s.pwr.sysRst = true) (hvin : s.pwr.vinGood = true) :
    exec .pllLock s = .next ((((s.fresh.modPwr (fun p => { p with pll := true, clkLost := none })).modCas
      (fun c => { c with fwd := true })).modCore (fun c => { c with fullReset := none })).beginStart .refclkLoss) := by
  change execPllLock s = _
  simp [execPllLock, State.mayLeaveOff, hop, hvio, hvin, hrst, hfull]

/-- A reference clock that stays lost takes the device to OFF (R542). -/
theorem exec_refclkRecoveryTimeout_off {f : Nat} {s : State} (hop : s.core.op ≠ .off) (hclk : s.pwr.clkLost = some f)
    (hf : f + 20000 ≤ s.now) : exec .refclkRecoveryTimeout s = .next (((s.fresh.toOff).modPwr
      (fun p => { p with pll := false })).modCore (fun c => { c with fullReset := some .refclkLoss })) := by
  change execRefclkRecoveryTimeout s = _
  simp [execRefclkRecoveryTimeout, hclk, hop, Nat.not_lt.mpr hf]

/-! ### The supply hold -/

theorem State.holdEntry_sup (s : State) (first : Bool) :
    (s.holdEntry first).sup = { s.sup with lastEntry := some s.now, counted := 0, countedLongest := 0 } := by
  cases first <;> rfl

theorem State.holdEntry_atn (s : State) (first : Bool) : (s.holdEntry first).atn = s.atn :=
  State.holdEntry_only s first (List.Subset.refl _) (State.only_refl _ s) .atn (by decide)

/-- A hold entry waits for its place in the Logbook (R495). -/
theorem State.holdEntry_due_length (s : State) (first : Bool) :
    (s.holdEntry first).log.due.length = s.log.due.length + 1 := by
  cases first <;> simp [State.holdEntry, State.logEv, State.logDueAdd, insertDue_length]

/-- The end of a supply hold counts its length and latches leaf 2 of group 0 (R493). -/
theorem State.endHold_facts (s : State) (len : Nat) (hatn : 0 < s.atn.cause.length) :
    (s.endHold len).sup.hold = false ∧ (s.endHold len).sup.longest = max s.sup.longest len ∧ (s.endHold len).leaf 0 2 = true := by
  have hleaf : ∀ u : State, u.atn = s.atn → (u.latch 0 2).leaf 0 2 = true := by
    intro u hu
    simp [State.latch_leaf, hu, hatn]
  by_cases h : s.sup.lastEntry.isNone
  · simp only [State.endHold, h, if_true, State.holdEntry_sup, State.leaf_of_atn (State.holdEntry_atn _ _)]
    exact ⟨rfl, rfl, hleaf _ rfl⟩
  · simp only [State.endHold, h, if_false, Bool.false_eq_true]
    exact ⟨rfl, rfl, hleaf _ rfl⟩

/-- Settles O11: a start by its straps and cause (`State.beginStart_core`, `State.beginStart_pwr`), the entry to OFF
(`State.toOff_facts`), and the supply hold's end and entry (`State.endHold_facts`, `State.holdEntry_due_length`). -/
theorem supplyAndResetPins : Obligations.SupplyAndResetPins := by
  refine ⟨fun mv st s hop hvin hvio hrst hfull hmv => ?vinRise, fun mv s hmv => ?vinFall, fun s hop => ?sysRstLow,
    fun st s hop hrst hvin hvio hfull => ?sysRstRelease, fun st s hop hvio hvin hrst hfull => ?vioMgRise,
    fun s hop => ?perstHigh, fun s hlink => ?perstLow, fun s hop hfull hvio hrst hvin => ?pllLock,
    fun f s hop hclk hf => ?clockLost, fun mv s hop hsleep hmv => ?warn, fun s hhold hcalm hcross hatn => ?holdEnd,
    fun s hhold hlong hop => ?abort, fun f s hlast hf hhold hcount => ?episode⟩
  case vinRise =>
    obtain ⟨u, hexec, uvin, uho, ucas, uboot⟩ := exec_vinRise_starts (st := st) hop hvin hvio hrst hfull hmv
    obtain ⟨tho, tboot, tcas, tvin, -, -⟩ := u.beginStart_pwr .powerOn
    exact ⟨_, hexec, u.beginStart_op _, u.beginStart_cause _, tvin.trans uvin, tho.trans uho, tcas.trans ucas,
      tboot.trans uboot, u.beginStart_frameCt _⟩
  case vinFall =>
    obtain ⟨t, hexec, hcore, hpwr, hjobs, hshed, hfuse, hlog⟩ := exec_vinFall_off s hmv
    exact ⟨t, hexec, by rw [hcore]; rfl, by rw [hpwr], by rw [hpwr], hjobs, hshed, hfuse, hlog⟩
  case sysRstLow =>
    refine ⟨s.fresh.toOff.modPwr (fun p => { p with sysRst := false }), ?_, rfl, rfl, rfl, rfl⟩
    change execSysRstNLow s = _
    simp [execSysRstNLow, hop]
  case sysRstRelease =>
    obtain ⟨tho, tboot, -, -, -, -⟩ := ((s.fresh.modPwr (fun p => { p with sysRst := true })).sampleBoot st).beginStart_pwr .sysRst
    exact ⟨_, exec_sysRstNRelease_starts hop hrst hvin hvio hfull, State.beginStart_op _ _, State.beginStart_cause _ _,
      tboot, tho, State.beginStart_frameCt _ _⟩
  case vioMgRise =>
    obtain ⟨tho, tboot, -, -, tvio, -⟩ := ((s.fresh.modPwr (fun p => { p with vioMg := true })).sampleStraps st).beginStart_pwr .powerOn
    exact ⟨_, exec_vioMgRise_starts hop hvio hvin hrst hfull, State.beginStart_op _ _, State.beginStart_cause _ _,
      tvio, tboot, tho⟩
  case perstHigh =>
    have hpow : s.core.op.powered = true := by rcases hop with h | h | h | h <;> rw [h] <;> rfl
    refine ⟨_, rfl, ?_⟩
    simp [hpow]
  case perstLow =>
    refine ⟨_, rfl, ?_⟩
    simp
  case pllLock =>
    obtain ⟨-, -, -, -, -, tpll⟩ := State.beginStart_pwr (((s.fresh.modPwr (fun p => { p with pll := true, clkLost := none })).modCas
      (fun c => { c with fwd := true })).modCore (fun c => { c with fullReset := none })) .refclkLoss
    exact ⟨_, exec_pllLock_starts hop hfull hvio hrst hvin, State.beginStart_op _ _, State.beginStart_cause _ _, tpll⟩
  case clockLost => exact ⟨_, exec_refclkRecoveryTimeout_off hop hclk hf, rfl, rfl, rfl, rfl⟩
  case warn =>
    refine ⟨_, rfl, ?_⟩
    simp [hop, hsleep, Nat.not_le.mpr hmv]
  case holdEnd =>
    refine ⟨_, rfl, ?_⟩
    simp only [State.fresh_sup, hhold, hcalm, hcross, and_self, if_true]
    exact s.fresh.endHold_facts _ hatn
  case abort =>
    refine ⟨_, rfl, ?_⟩
    simp [hhold, hlong, hop]
  case episode =>
    refine ⟨_, rfl, ?_⟩
    simp only [State.fresh_sup, hlast, hhold, State.fresh_now_read, Nat.not_lt.mpr hf, hcount, Bool.false_eq_true,
      or_self, if_false, State.holdEntry_sup, true_and]
    exact State.holdEntry_due_length _ _

end Sys2Proof.Machine

/-! How a stack formation ends (R401 to R403), and the release schedule of the Halter (R106 to R111). -/

namespace Sys2Proof.Machine

open Sys2Proof

/-! ### The end of a stack formation -/

/-- A formation that fails leaves the device STANDALONE, and Yard and core alone (R403). -/
theorem State.formFails_facts (s : State) (k : Nat) : (s.formFails k).cas.role = .standalone ∧
    (s.formFails k).cas.formDone = true ∧ (s.formFails k).yard = s.yard ∧ (s.formFails k).core = s.core := by
  simp [State.formFails]

/-- A formation that fails leaves the device STANDALONE (R403). -/
theorem exec_stackFormation_fails {f : FormInput} {s : State} (hforming : s.forming = true)
    (hfail : f.idOk = false ∨ f.failStep ≠ 0 ∨ f.offset < -2 ∨ 2 < f.offset ∨
      s.peerFits (s.bankVal (mkKey 0x9000 0x04)) f.master f.peer = false) :
    ∃ t, exec (.stackFormation f) s = .next t ∧ t.cas.role = .standalone ∧ t.cas.formDone = true ∧ t.yard = s.yard ∧
      t.core = s.core := by
  have hforming' : s.fresh.forming = true := hforming
  have hpeer : s.fresh.peerFits (s.fresh.bankVal (mkKey 0x9000 0x04)) f.master f.peer =
    s.peerFits (s.bankVal (mkKey 0x9000 0x04)) f.master f.peer := rfl
  change ∃ t, execStackFormation f s = .next t ∧ _
  simp only [execStackFormation, hforming', hpeer, Bool.not_true, Bool.false_eq_true, if_false]
  split_ifs with hid h1 h2 h3 hstep
  · exact ⟨_, rfl, by simp [State.refuseLink]⟩
  · exact ⟨_, rfl, s.fresh.formFails_facts _⟩
  · exact ⟨_, rfl, s.fresh.formFails_facts _⟩
  · exact ⟨_, rfl, s.fresh.formFails_facts _⟩
  · exact ⟨_, rfl, s.fresh.formFails_facts _⟩
  · exfalso
    simp only [Bool.not_eq_true', not_or, not_not, Bool.not_eq_false] at hid h2 h3 hstep
    simp [hid, h2, h3, hstep] at hfail

/-- A formation whose steps and comparison all pass makes the device MEMBER (R401, R402). -/
theorem exec_stackFormation_joins {f : FormInput} {s : State} (hforming : s.forming = true) (hid : f.idOk = true)
    (hstep : f.failStep = 0) (hlow : -2 ≤ f.offset) (hhigh : f.offset ≤ 2)
    (hpeer : s.peerFits (s.bankVal (mkKey 0x9000 0x04)) f.master f.peer = true) :
    ∃ t, exec (.stackFormation f) s = .next t ∧ t.cas.role = .member ∧ t.cas.formDone = true ∧
      t.core.frameCt = f.frame ∧ t.yard.sheet = f.sheet ∧ t.yard.base = f.base ∧
      (⟨8, linkKeysOf f.secret f.transcript, 0, s.now⟩ : LinkKey) ∈ t.cas.links := by
  refine ⟨_, rfl, ?_⟩
  have hforming' : s.fresh.forming = true := hforming
  have hpeer' : s.fresh.peerFits (s.fresh.bankVal (mkKey 0x9000 0x04)) f.master f.peer = true := hpeer
  dsimp only
  simp only [hforming', hid, hstep, hpeer', Int.not_lt.mpr hlow, Int.not_lt.mpr hhigh, Bool.not_true, Bool.false_eq_true,
    if_false, OfNat.zero_ne_ofNat, zero_ne_one, or_self, ne_eq, not_true_eq_false]
  exact ⟨rfl, rfl, rfl, rfl, rfl, List.mem_append_right _ List.mem_cons_self⟩

/-- Settles O13: the formation that passes (`exec_stackFormation_joins`), the one that fails (`exec_stackFormation_fails`), and
its end by the clock. -/
theorem stackFormation : Obligations.StackFormation := by
  refine ⟨fun f s hforming hid hstep hlow hhigh hpeer => exec_stackFormation_joins hforming hid hstep hlow hhigh hpeer,
    fun f s hforming hfail => exec_stackFormation_fails hforming hfail, fun f s hforming hat htime => ⟨_, rfl, ?timeout⟩⟩
  case timeout =>
    have hdue : s.fresh.forming = true ∧ f + s.fresh.bankU (mkKey 0x9000 0x05) * msFrames ≤ s.fresh.now := ⟨hforming, htime⟩
    simp only [State.fresh_cas, hat, if_pos hdue]
    exact ⟨rfl, rfl, rfl⟩

/-! ### The release schedule, the pulses and the inputs -/

/-- A stopped schedule latches leaf 0 of group 5 (R111). -/
theorem State.stopSchedule_leaf (s : State) (h : 0 < s.atn.cause.length - 5) : s.stopSchedule.leaf 5 0 = true := by
  have : 5 < s.atn.cause.length := by omega
  simp [State.stopSchedule, State.latch_leaf, this]

/-- WAIT_TIMEOUT at a step whose wait has run out unmet: it stops the schedule, or acts where the step says CONTINUE (R110). -/
theorem exec_waitTimeout_of_late {s : State} {h : HStep} (hs : s.currentStep = some h) (hwait : h.wait ≠ 1)
    (hcount : h.count ≠ 0) (hlate : h.count ≤ s.hal.counted) (hfails : s.hal.fails = false) (hmet : s.hal.met = false) :
    exec .waitTimeout s = .next (if h.cont
      then ((s.fresh.latch 5 2).ev 4 5 .halterTimeout [s.hal.step]).stepActs h
      else (s.fresh.ev 4 5 .halterTimeout [s.hal.step]).stopSchedule) := by
  have hfresh : s.fresh.currentStep = some h := hs
  change execWaitTimeout s = _
  simp [execWaitTimeout, hfresh, hwait, hcount, Nat.not_lt.mpr hlate, hfails, hmet]

/-- An input that is steady at a new level takes it; the outputs and the other inputs stay (R106). -/
theorem exec_hiLevelChange_of_steady {k : Nat} {v : Bool} {s : State} (hnew : s.hal.hiLevel.getLsbD k ≠ v) (hk : k < 32)
    (hop : s.core.op ≠ .off) (hsteady : s.hal.steady k v = true) :
    ∃ t, exec (.hiLevelChange k v) s = .next t ∧ t.hal.level = s.hal.level ∧
      t.hal.hiLevel = if v then setBit s.hal.hiLevel k else clearBits s.hal.hiLevel (BitVec.ofNat 32 (2 ^ k)) := by
  have hchange : ¬ (s.hal.hiLevel.getLsbD k = v ∨ 32 ≤ k ∨ s.core.op = .off ∨ s.hal.steady k v = false) := by
    simp [hnew, Nat.not_le.mpr hk, hop, hsteady]
  refine ⟨_, congrArg Host.Outcome.next (if_neg hchange), ?_⟩
  unfold State.latchInput
  split_ifs <;> exact ⟨rfl, rfl⟩

/-- Settles O14: what the boundary latches (`State.halterSees_met`, `State.halterSees_fails`), what the step makes of it
(`exec_releaseStepActs_of_currentStep`), the timeout, the pulses and the inputs. -/
theorem releaseSchedule : Obligations.ReleaseSchedule := by
  refine ⟨fun h s hs => ⟨State.halterSees_met hs, State.halterSees_fails hs, s.halterSees_currentStep.trans hs⟩,
    fun h s hs hfails hmet => ?acts, fun h s hs hfails hmet => ?idle, fun h s hs hfails hatn => ?stops,
    fun h s hs hwait hcount hlate hfails hmet hcont => ?late, fun h s hs hwait hcount hlate hfails hmet hcont => ?goesOn,
    fun k s hpulse => ?pulse, fun k v s hnew hk hop hsteady => ?input⟩
  case acts => exact ⟨_, exec_releaseStepActs_of_currentStep hs, by simp [hfails, hmet]⟩
  case idle => simp [exec_releaseStepActs_of_currentStep hs, hfails, hmet]
  case stops =>
    refine ⟨_, exec_releaseStepActs_of_currentStep hs, ?_⟩
    simp only [hfails, if_true, State.stopSchedule_hal, State.fresh_hal, true_and]
    exact s.fresh.stopSchedule_leaf hatn
  case late => exact ⟨_, exec_waitTimeout_of_late hs hwait hcount hlate hfails hmet, by simp [hcont]⟩
  case goesOn =>
    refine ⟨_, exec_waitTimeout_of_late hs hwait hcount hlate hfails hmet, ?_⟩
    simp only [hcont, if_true, State.stepActs_hal]
    rfl
  case pulse => exact ⟨_, congrArg Host.Outcome.next (if_pos hpulse), rfl, rfl⟩
  case input =>
    obtain ⟨t, hexec, hlevel, hin⟩ := exec_hiLevelChange_of_steady hnew hk hop hsteady
    refine ⟨t, hexec, ?_, hlevel, fun j hj => ?_⟩ <;> rw [hin] <;> cases v <;>
      simp only [setBit_getLsbD, clearBit_getLsbD, if_true, if_false, Bool.false_eq_true] <;> simp [*]

end Sys2Proof.Machine

/-! The start: the ROM, the handover, the trial watchdog and the end of stage 1 (R62 to R93). -/

namespace Sys2Proof.Machine

open Sys2Proof

/-! ### The start of the device -/

/-- In an empty Tack Room every secret that stage 1 takes over gets a slot of the STEWARD world (R88, R210). -/
theorem State.holdSecrets_holds (s : State) (kv : Bytes) (hkeys : s.tack.keys = []) (hret : s.tack.retired = [])
    (hloads : s.tack.loads = []) (hptr : s.tack.sptr = 1) :
    ∀ x ∈ [kv, s.boot.cdi1, s.boot.sId, s.boot.sAud] ++ [s.deviceKey, s.aliasKey, s.auditKey],
      ∃ k ∈ (s.holdSecrets kv).tack.keys, k.secret = x ∧ k.world = 1 := by
  have hall := State.hold_all ([kv, s.boot.cdi1, s.boot.sId, s.boot.sAud].map (serviceKey 1 0x07 0x0040) ++
    [s.deviceKey, s.aliasKey, s.auditKey].map (serviceKey 1 0x11 0x0080)) s hret hloads (by simp [hkeys])
    (by simp [hptr]) (by simp [serviceKey])
  intro x hx
  have hmem : ∃ k ∈ [kv, s.boot.cdi1, s.boot.sId, s.boot.sAud].map (serviceKey 1 0x07 0x0040) ++
      [s.deviceKey, s.aliasKey, s.auditKey].map (serviceKey 1 0x11 0x0080), k.secret = x ∧ k.world = 1 := by
    rcases List.mem_append.mp hx with h | h
    · exact ⟨_, List.mem_append_left _ (List.mem_map_of_mem h), rfl, rfl⟩
    · exact ⟨_, List.mem_append_right _ (List.mem_map_of_mem h), rfl, rfl⟩
  obtain ⟨k, hk, hsecret, hworld⟩ := hmem
  obtain ⟨y, hy, ysecret, yworld, -⟩ := hall k hk
  exact ⟨y, hy, ysecret.trans hsecret, yworld.trans hworld⟩

/-- A HANDOVER_LOCK write with a handover takes it into stage 1 and builds the Tack Room (R86). -/
theorem exec_handoverLockWrite_of_handover {v : BitVec 32} {h : Handover} {s : State} (hv : v.getLsbD 0 = true)
    (hh : s.boot.handover = some h) : ∃ u : State, exec (.handoverLockWrite v) s = .next (u.holdSecrets h.kv) ∧
    u.tack = s.tack ∧ u.boot = { s.boot with
      handoverLock := true, handover := none, tackBuilt := true, cdi1 := h.cdi1, sId := h.sId, sAud := h.sAud,
      bootKey := h.kv } := by
  refine ⟨(s.fresh.modCas (fun c => { c with formAt := some s.now })).modBoot (fun b => { b with
      handoverLock := true, handover := none, tackBuilt := true, cdi1 := h.cdi1, sId := h.sId, sAud := h.sAud,
      bootKey := h.kv }), ?_, rfl, rfl⟩
  change execHandoverLockWrite v s = _
  simp [execHandoverLockWrite, hv, hh]

theorem State.holdSecrets_boot (s : State) (kv : Bytes) : (s.holdSecrets kv).boot = s.boot :=
  State.holdSecrets_only s kv (List.Subset.refl _) (State.only_refl _ s) .boot (by decide)

/-- An expired trial restarts the device, its boot registers as at every start (R93). -/
theorem exec_trialWatchdogExpiry_restarts {f : Nat} {s : State} (hfrom : s.boot.trialFrom = some f)
    (hop : s.core.op ≠ .off) (htime : f + s.trialWindow ≤ s.now) :
    ∃ u : State, exec .trialWatchdogExpiry s = .next (u.beginStart .trialExpired) := by
  have hdue : ¬ (s.fresh.core.op = .off ∨ s.fresh.now < f + s.fresh.trialWindow) :=
    not_or.mpr ⟨hop, Nat.not_lt.mpr htime⟩
  change ∃ u : State, execTrialWatchdogExpiry s = _
  simp only [execTrialWatchdogExpiry, State.fresh_boot, hfrom, if_neg hdue]
  exact ⟨_, rfl⟩

theorem State.beginStart_trialFrom (s : State) (c : ResetCause) : (s.beginStart c).boot.trialFrom = none := by
  obtain ⟨hboot, -⟩ := s.beginStart_rest c
  rw [hboot]
  rfl

/-- The end of stage 1: it leaves BOOTING where the image is of release 1.0, and is refused for another release (R1, R2, R88). -/
theorem exec_enterHolding_of_stageOneDone {h : HoldInput} {s : State} (hdone : s.stageOneDone = true) :
    exec (.enterHolding h) s =
      if releaseOk s.boot.release then .next (s.fresh.leaveBooting h) else .refused .otherRelease := by
  have hdone' : s.fresh.stageOneDone = true := hdone
  change execEnterHolding h s = _
  cases hrel : releaseOk s.boot.release <;> simp [execEnterHolding, hdone', hrel]

/-- Settles O12: the ROM's two ends (`romRun_end`), the handover (`State.holdSecrets_holds`), the restart of a trial
(`State.beginStart_core`) and the end of stage 1 (`State.leaveBooting_facts`). -/
theorem startSequence : Obligations.StartSequence := by
  refine ⟨fun r s hop hrom hhold hpll => ?rom, fun c s hop hstuck => ?status, fun v s hv => ⟨_, rfl, ?romLock⟩,
    fun v s => ⟨_, rfl, rfl⟩, fun v h s hv hh => ?handover, fun f s hfrom hop htime => ?trial,
    fun h s hdone hrel => ?holding, fun h s hdone hrel => ?refused⟩
  case rom =>
    have hruns : ¬ (s.fresh.core.op ≠ .booting ∨ s.fresh.boot.romDone ∨ s.fresh.sup.hold ∨ !s.fresh.pwr.pll) := by
      simp [hop, hrom, hhold, hpll]
    obtain ⟨hromDone, hend⟩ := romRun_end (s.fresh.sampleStart r) r
    have hexec : exec (.romStart r) s = .next ((s.fresh.sampleStart r).romRun r) := congrArg Host.Outcome.next (if_neg hruns)
    exact ⟨_, hexec, hromDone, hend, exec_same hexec .core rfl⟩
  case status =>
    refine ⟨_, rfl, ?_⟩
    simp only [State.fresh_core, State.fresh_boot, hop, hstuck]
    rfl
  case romLock => simp [hv]
  case handover =>
    obtain ⟨u, hexec, htack, hboot⟩ := exec_handoverLockWrite_of_handover hv hh
    refine ⟨_, hexec, ?_⟩
    rw [u.holdSecrets_boot, hboot, ← htack]
    refine ⟨rfl, rfl, rfl, rfl, rfl, rfl, rfl, fun hkeys hret hloads hptr => ?_⟩
    have hholds := u.holdSecrets_holds h.kv hkeys hret hloads hptr
    simp only [State.deviceKey, State.aliasKey, State.auditKey, hboot] at hholds
    exact hholds
  case trial =>
    obtain ⟨u, hexec⟩ := exec_trialWatchdogExpiry_restarts hfrom hop htime
    exact ⟨_, hexec, u.beginStart_op _, u.beginStart_cause _, u.beginStart_trialFrom _⟩
  case holding =>
    have hexec := (exec_enterHolding_of_stageOneDone (h := h) hdone).trans (if_pos hrel)
    obtain ⟨hop, hframe, hlink⟩ := s.fresh.leaveBooting_facts h
    exact ⟨_, hexec, hop, hlink, hframe, exec_same hexec .fuse rfl⟩
  case refused => simp [exec_enterHolding_of_stageOneDone hdone, hrel]

end Sys2Proof.Machine

/-! What a frame boundary does to the clocks and the inputs (R21, R31, R33, R451, R541, R543). -/

namespace Sys2Proof.Machine

open Sys2Proof

/-! ### The parts of a boundary -/

theorem State.secondsPass_core (s : State) (ppm : Int) : (s.secondsPass ppm).core = s.core :=
  State.secondsPass_only s ppm (List.Subset.refl _) (State.only_refl _ s) .core (by decide)

theorem State.secondsPass_hal (s : State) (ppm : Int) : (s.secondsPass ppm).hal = s.hal :=
  State.secondsPass_only s ppm (List.Subset.refl _) (State.only_refl _ s) .hal (by decide)

theorem State.secondsPass_mon (s : State) (ppm : Int) : (s.secondsPass ppm).mon = s.mon :=
  State.secondsPass_only s ppm (List.Subset.refl _) (State.only_refl _ s) .mon (by decide)

theorem State.secondsPass_jobs (s : State) (ppm : Int) : (s.secondsPass ppm).jobs = s.jobs :=
  State.secondsPass_only s ppm (List.Subset.refl _) (State.only_refl _ s) .jobs (by decide)

theorem State.secondsPass_dict (s : State) (ppm : Int) : (s.secondsPass ppm).dict = s.dict :=
  State.secondsPass_only s ppm (List.Subset.refl _) (State.only_refl _ s) .dict (by decide)

/-- The passing of a second does not power anything down (R451). -/
theorem State.secondsPass_poweredDown (s : State) (ppm : Int) :
    (s.secondsPass ppm).pwr.poweredDown = s.pwr.poweredDown := by
  unfold State.secondsPass
  dsimp only
  split_ifs <;> rfl

/-- The seconds count while a supply is good (R451). -/
theorem State.secondsPass_counts (s : State) (ppm : Int) (h : s.pwr.vinGood = true ∨ s.pwr.vbatOk = true) :
    (s.log.fracFrames + 1 < secFrames → (s.secondsPass ppm).log.fracFrames = s.log.fracFrames + 1 ∧
      (s.secondsPass ppm).log.secs = s.log.secs) ∧
    (secFrames ≤ s.log.fracFrames + 1 → (s.secondsPass ppm).log.fracFrames = 0 ∧ (s.secondsPass ppm).log.secs =
      s.log.secs + 1) := by
  have hgood : (!s.pwr.vinGood && !s.pwr.vbatOk) = false := by rcases h with h | h <;> simp [h]
  unfold State.secondsPass
  refine ⟨fun hlt => ?_, fun hle => ?_⟩
  · simp [hgood, hlt]
  · simp only [hgood, Nat.not_lt.mpr hle, Bool.false_eq_true, if_false]
    split_ifs <;> exact ⟨rfl, rfl⟩

/-- The counts of a frame that begins, once the Halter's wait has been judged and the inputs sampled (R33). -/
def State.ticked (s : State) (hi : BitVec 32) : State :=
  (s.halterCounts.halterSees.sampleInputs hi).modCore (fun c => { c with tick := c.tick + 1, frameCt := c.frameCt + 1 })

/-- What a boundary of a running device does first (R33): the frame is counted, and its inputs and messages are taken. -/
def State.frameCounted (s : State) (vinMv : Nat) (levels : Levels) (temps : List Int) : State :=
  (((s.ticked levels.hi).newFrame.takeInputs vinMv levels.active temps).atnBoundary).padMessages

theorem State.ticked_core (s : State) (hi : BitVec 32) :
    (s.ticked hi).core = { s.core with tick := s.core.tick + 1, frameCt := s.core.frameCt + 1 } := by
  have hcounts : s.halterCounts.core = s.core :=
    State.halterCounts_only s (List.Subset.refl _) (State.only_refl _ s) .core (by decide)
  simp [State.ticked, State.halterSees, State.sampleInputs, hcounts]

theorem State.frameCounted_core (s : State) (vinMv : Nat) (levels : Levels) (temps : List Int) :
    (s.frameCounted vinMv levels temps).core =
      { s.core with tick := s.core.tick + 1, frameCt := s.core.frameCt + 1 } := by
  have hrest : (s.ticked levels.hi).only [.pwr, .sup, .mon, .log, .tack, .pci, .pads, .atn, .out]
      (s.frameCounted vinMv levels temps) :=
    State.padMessages_only _ (by decide) (State.atnBoundary_only _ (by decide) (State.takeInputs_only _ _ _ _ (by decide)
      (State.newFrame_only _ (by decide) (State.only_refl _ _))))
  exact (hrest .core (by decide)).trans (s.ticked_core _)

theorem State.takeInputs_due (s : State) (vinMv active : Nat) (temps : List Int) :
    (s.takeInputs vinMv active temps).mon.due = s.mon.due := by
  unfold State.takeInputs
  dsimp only
  split_ifs <;> rfl

/-- The start of a frame makes no response of a monitor due (R33, R484). -/
theorem State.frameCounted_due (s : State) (vinMv : Nat) (levels : Levels) (temps : List Int) :
    (s.frameCounted vinMv levels temps).mon.due = s.mon.due := by
  have hmessages : ((s.ticked levels.hi).newFrame.takeInputs vinMv levels.active temps).only [.pads, .atn, .out]
      (s.frameCounted vinMv levels temps) :=
    State.padMessages_only _ (by decide) (State.atnBoundary_only _ (by decide) (State.only_refl _ _))
  have hcounts : s.halterCounts.mon = s.mon :=
    State.halterCounts_only s (List.Subset.refl _) (State.only_refl _ s) .mon (by decide)
  calc (s.frameCounted vinMv levels temps).mon.due
      = ((s.ticked levels.hi).newFrame.takeInputs vinMv levels.active temps).mon.due :=
        congrArg Mon.due (hmessages .mon (by decide))
    _ = s.halterCounts.mon.due := State.takeInputs_due _ _ _ _
    _ = s.mon.due := congrArg Mon.due hcounts

/-- A device that has powered its domains down sleeps on (R543). -/
theorem State.sleepFrame_of_poweredDown (s : State) (h : s.pwr.poweredDown = true) : s.sleepFrame = s := by
  unfold State.sleepFrame
  cases s.pwr.sleepAt <;> simp [h]

/-! ### A boundary with no full reset due counts no start -/

/-- The transitions of a boundary without a full reset due leave the clocks (R21, R33). -/
theorem State.orderTwo_clock (s : State) (h : s.core.fullReset = none) : s.clockAs s.orderTwo := by
  unfold State.orderTwo
  extract_lets op u v w
  have hu : s.clockAs u := by
    unfold u
    split
    · exact State.clockAs_of_core rfl
    · exact s.alarmRespond_clock
  have hv : u.only (startParts.erase .core) v :=
    State.monConfigs_only _ (by decide) <| State.endChannels_only _ (by decide) <| State.orphan_only _ (by decide) <|
    State.sendChanges_only _ (by decide) <| State.runCancels_only _ (by decide) <| State.openScopes_only _ (by decide) <|
    State.strikePads_only _ (by decide) <| State.runStrikes_only _ (by decide) <| State.runReplicas_only _ (by decide) <|
    State.haltAborts_only _ (by decide) (State.only_refl _ u)
  have hw : s.clockAs w :=
    (hu.trans (hv.clock (by decide))).trans ((v.takeRecoveries_clock _).trans (State.enterSleep_clock _))
  have hnone : w.core.fullReset = none := hw.2.2.1.trans h
  clear_value w
  rw [hnone]
  dsimp only
  split
  · exact hw.trans (w.setOp_clock _)
  · exact hw

/-- An operation that cannot touch the core leaves mode, frames and starts. -/
theorem State.counts_of_only {L : List Part} {s t : State} (h : s.only L t) (hcore : Part.core ∉ L) : s.counts t :=
  State.counts_of h hcore s.counts_refl

theorem State.counts.trans {r s t : State} (a : r.counts s) (b : s.counts t) : r.counts t :=
  ⟨b.1.trans a.1, b.2.1.trans a.2.1, b.2.2.1.trans a.2.2.1, b.2.2.2.trans a.2.2.2⟩

/-- The hold, the power domains and the slots of a boundary leave mode, frames and starts (R33). -/
theorem State.holdBoundary_counts (s : State) (calm : Bool) : s.counts (s.fixHold calm).domainsBoundary.slotLeaves := by
  have hhold := State.counts_of_only (State.fixHold_only s calm (List.Subset.refl _) (State.only_refl _ s)) (by decide)
  have hdomains := State.counts_of_only
    (State.domainsBoundary_only (s.fixHold calm) (List.Subset.refl _) (State.only_refl _ _)) (by decide)
  have hslots := State.counts_of_only
    (State.slotLeaves_only (s.fixHold calm).domainsBoundary (List.Subset.refl _) (State.only_refl _ _)) (by decide)
  exact (hhold.trans hdomains).trans hslots

/-- The waiting steps and the ports at a boundary leave mode, frames and starts (R33). -/
theorem State.waitBoundary_counts (s : State) : s.counts s.noteWaiting.dummySteps.portsFrame := by
  have hwaiting := State.counts_of_only (State.noteWaiting_only s (List.Subset.refl _) (State.only_refl _ s)) (by decide)
  have hdummy := State.counts_of_only (State.dummySteps_only s.noteWaiting (List.Subset.refl _) (State.only_refl _ _)) (by decide)
  have hports := State.counts_of_only
    (State.portsFrame_only s.noteWaiting.dummySteps (List.Subset.refl _) (State.only_refl _ _)) (by decide)
  exact (hwaiting.trans hdummy).trans hports

theorem State.runYard_counts (s : State) : s.counts s.runYard :=
  State.counts_of_only (State.runYard_only s (List.Subset.refl _) (State.only_refl _ s)) (by decide)

/-- What the serving stewards do at a boundary leaves mode, frames and starts (R33). -/
theorem State.serveBoundary_counts (s : State) : s.counts s.c0Ends.partnerBoundary.signLate.pldmBoundary := by
  have hends : s.counts s.c0Ends := State.c0Ends_counts s s.counts_refl
  have hpartners := State.counts_of_only (State.partnerBoundary_only s.c0Ends (List.Subset.refl _) (State.only_refl _ _)) (by decide)
  have hlate := State.counts_of_only
    (State.signLate_only s.c0Ends.partnerBoundary (List.Subset.refl _) (State.only_refl _ _)) (by decide)
  have hpldm := State.counts_of_only
    (State.pldmBoundary_only s.c0Ends.partnerBoundary.signLate (List.Subset.refl _) (State.only_refl _ _)) (by decide)
  exact ((hends.trans hpartners).trans hlate).trans hpldm

/-- The front end at a boundary leaves mode, frames and starts (R33). -/
theorem State.frontBoundary_counts (s : State) : s.counts (if s.pwr.link then s.serveFront else s).snapBlocks := by
  have hfront := State.counts_of_only (State.serveFront_only s (List.Subset.refl _) (State.only_refl _ s)) (by decide)
  have hsnap : ∀ t : State, t.counts t.snapBlocks := fun t =>
    State.counts_of_only (State.snapBlocks_only t (List.Subset.refl _) (State.only_refl _ t)) (by decide)
  exact (ite_counts hfront s.counts_refl).trans (hsnap _)

/-- A boundary of a working or halted device without a full reset due counts no start (R21, R33). -/
theorem State.workBoundary_starts (s : State) (calm : Bool) (h : s.core.fullReset = none) :
    (s.workBoundary calm).core.starts = s.core.starts := by
  have hends : s.clockAs s.endSteps := (State.endSteps_only s (List.Subset.refl _) (State.only_refl _ s)).clock (by decide)
  have hswitch := hends.trans
    ((State.takeSwitch_only s.endSteps s.core.frameCt (List.Subset.refl _) (State.only_refl _ _)).clock (by decide))
  have hreset : (s.endSteps.takeSwitch s.core.frameCt).core.fullReset = none := hswitch.2.2.1.trans h
  have htransit := hswitch.trans (State.orderTwo_clock _ hreset)
  unfold State.workBoundary
  extract_lets s1 s2 s3 s4 s5 s6
  have hfirst : s.clockAs s1 := htransit
  have hslots : s1.counts s3 := s1.holdBoundary_counts calm
  have hyard : s1.counts s4 := by
    unfold s4
    split
    · exact hslots.trans s3.runYard_counts
    · exact hslots
  clear_value s4
  have hwait : s1.counts s5 := hyard.trans s4.waitBoundary_counts
  clear_value s5
  have hserve : s1.counts s6 := by
    unfold s6
    split
    · exact hwait.trans s5.serveBoundary_counts
    · exact hwait
  clear_value s1 s6
  obtain ⟨-, -, -, hfirst⟩ := hfirst
  obtain ⟨-, -, -, hstarts⟩ := hserve.trans s6.frontBoundary_counts
  by_cases hpowered : (!s1.core.op.powered) = true
  · rw [if_pos hpowered]
    exact hfirst
  · rw [if_neg hpowered]
    exact hstarts.trans hfirst

/-! ### The command -/

/-- A boundary of a device that is neither OFF nor in DEEP_SLEEP (R33). -/
theorem exec_frameBoundary_awake {vinMv : Nat} {levels : Levels} {temps : List Int} {ppm : Int} {s : State}
    (hoff : s.core.op ≠ .off) (hsleep : s.core.op ≠ .deepSleep) :
    ∃ u : State, u.core = { s.core with tick := s.core.tick + 1, frameCt := s.core.frameCt + 1 } ∧ u.mon.due = s.mon.due ∧
      exec (.frameBoundary vinMv levels temps ppm) s = .next (
        let calm := decide ((s.fresh.secondsPass ppm).vinWarn + 20 < vinMv)
        if s.core.op = .booting then
          let s := if u.mon.due = 0 then u else u.alarmRespond
          match s.core.fullReset with
          | some c => s.beginStart c
          | none => s.fixHold calm
        else u.workBoundary calm) := by
  have hcore : (s.fresh.secondsPass ppm).core = s.core := s.fresh.secondsPass_core ppm
  have hmon : (s.fresh.secondsPass ppm).mon = s.mon := s.fresh.secondsPass_mon ppm
  have hucore := (s.fresh.secondsPass ppm).frameCounted_core vinMv levels temps
  have hop : ((s.fresh.secondsPass ppm).frameCounted vinMv levels temps).core.op = s.core.op := by rw [hucore, hcore]
  refine ⟨(s.fresh.secondsPass ppm).frameCounted vinMv levels temps, by rw [hucore, hcore],
    ((s.fresh.secondsPass ppm).frameCounted_due _ _ _).trans (by rw [hmon]), ?_⟩
  rw [← hop]
  refine congrArg Host.Outcome.next ((if_neg ?_).trans ((if_neg ?_).trans ?_))
  · rw [hcore]; exact hoff
  · rw [hcore]; exact hsleep
  · rfl

/-- Settles O15: the seconds (`State.secondsPass_counts`), the frame counts of a boundary (`State.frameCounted_core`,
`State.workBoundary_clock`, `State.workBoundary_starts`), a due full reset (`State.beginStart_core`) and the sleeping device
(`State.sleepFrame_of_poweredDown`). -/
theorem frameBoundary : Obligations.FrameBoundary := by
  refine ⟨fun vinMv active temps ppm hi s hop => ?off, fun vinMv active temps ppm hi s hop hreset => ?powered,
    fun vinMv active temps ppm hi s hop hreset => ?booting, fun vinMv active temps ppm hi s hop hdown => ?asleep,
    fun c vinMv active temps ppm hi s hop hreset hdue => ?reset, fun ppm s h => s.secondsPass_counts ppm h⟩
  case off =>
    refine ⟨s.fresh.secondsPass ppm, congrArg Host.Outcome.next (if_pos ?_), rfl, s.fresh.secondsPass_core ppm,
      s.fresh.secondsPass_jobs ppm, s.fresh.secondsPass_dict ppm⟩
    rw [State.secondsPass_core]
    exact hop
  case powered =>
    have hoff : s.core.op ≠ .off := by rintro h; simp [h, Op.powered] at hop
    have hsleep : s.core.op ≠ .deepSleep := by rintro h; simp [h, Op.powered] at hop
    have hboot : s.core.op ≠ .booting := by rintro h; simp [h, Op.powered] at hop
    obtain ⟨u, hcore, -, hexec⟩ := exec_frameBoundary_awake (vinMv := vinMv) (levels := ⟨active, hi⟩) (temps := temps)
      (ppm := ppm) hoff hsleep
    have hnone : u.core.fullReset = none := by rw [hcore]; exact hreset
    obtain ⟨hframe, htick⟩ := u.workBoundary_clock (decide ((s.fresh.secondsPass ppm).vinWarn + 20 < vinMv)) hnone
    refine ⟨_, hexec.trans (congrArg Host.Outcome.next (if_neg hboot)), hframe.trans ?_, htick.trans ?_,
      (u.workBoundary_starts _ hnone).trans ?_⟩ <;> rw [hcore]
  case booting =>
    obtain ⟨u, hcore, -, hexec⟩ := exec_frameBoundary_awake (vinMv := vinMv) (levels := ⟨active, hi⟩) (temps := temps)
      (ppm := ppm) (s := s) (by simp [hop]) (by simp [hop])
    let v := if u.mon.due = 0 then u else u.alarmRespond
    have hv : u.clockAs v := by
      unfold v
      split
      · exact State.clockAs_of_core rfl
      · exact u.alarmRespond_clock
    have hnone : v.core.fullReset = none := by rw [hv.2.2.1, hcore]; exact hreset
    obtain ⟨hframe, htick, -, hstarts⟩ := hv.trans
      ((State.fixHold_only v (decide ((s.fresh.secondsPass ppm).vinWarn + 20 < vinMv)) (List.Subset.refl _) (State.only_refl _ v)).clock (by decide))
    refine ⟨v.fixHold (decide ((s.fresh.secondsPass ppm).vinWarn + 20 < vinMv)), ?_, hframe.trans ?_, htick.trans ?_, hstarts.trans ?_⟩
    · refine hexec.trans (congrArg Host.Outcome.next ((if_pos hop).trans ?_))
      change (match v.core.fullReset with | some c => v.beginStart c | none => v.fixHold _) = _
      rw [hnone]
    all_goals rw [hcore]
  case asleep =>
    let u := ((s.fresh.secondsPass ppm).sampleInputs hi).modCore (fun c => { c with tick := c.tick + 1 })
    have hatn : u.only [.atn, .out] u.atnBoundary := State.atnBoundary_only _ (by decide) (State.only_refl _ _)
    have hcore : u.atnBoundary.core = { s.core with tick := s.core.tick + 1 } := by
      rw [show u.atnBoundary.core = u.core from hatn .core (by decide)]
      simp [u, State.sampleInputs, State.secondsPass_core]
    have hhal : u.atnBoundary.hal = { s.hal with samples := hi :: s.hal.samples.take 3 } := by
      rw [show u.atnBoundary.hal = u.hal from hatn .hal (by decide)]
      simp [u, State.sampleInputs, State.secondsPass_hal]
    have hpwr : u.atnBoundary.pwr.poweredDown = true := by
      rw [show u.atnBoundary.pwr = u.pwr from hatn .pwr (by decide)]
      exact (s.fresh.secondsPass_poweredDown ppm).trans hdown
    have hsleep : (s.fresh.secondsPass ppm).core.op = .deepSleep := by rw [State.secondsPass_core]; exact hop
    refine ⟨u.atnBoundary, ?_, ?_, ?_, ?_, ?_⟩
    · refine congrArg Host.Outcome.next ((if_neg (by simp [hsleep])).trans ((if_pos hsleep).trans ?_))
      exact u.atnBoundary.sleepFrame_of_poweredDown hpwr
    · rw [hcore]
    · rw [hcore]; exact hop
    · rw [hcore]
    · rw [hhal]
  case reset =>
    obtain ⟨u, hcore, hudue, hexec⟩ := exec_frameBoundary_awake (vinMv := vinMv) (levels := ⟨active, hi⟩) (temps := temps)
      (ppm := ppm) (s := s) (by simp [hop]) (by simp [hop])
    have hureset : u.core.fullReset = some c := by rw [hcore]; exact hreset
    obtain ⟨hstart, hcause, hframe, -, hnone, hstarts⟩ := u.beginStart_core c
    refine ⟨u.beginStart c, ?_, hstart, hcause, hframe, hstarts.trans (by rw [hcore]), hnone⟩
    refine hexec.trans (congrArg Host.Outcome.next ((if_pos hop).trans ?_))
    simp only [if_pos (hudue.trans hdue), hureset]

end Sys2Proof.Machine

/-! Sheet switches, power domains, deep sleep, monitors and device jobs (R54 to R58, R324, R453, R473, R484 to R504, R538 to
R546). -/

namespace Sys2Proof.Machine

open Sys2Proof

/-! ### Sheets -/

theorem State.discardSwitch_atn (s : State) : s.discardSwitch.atn = s.atn :=
  State.discardSwitch_only s (List.Subset.refl _) (State.only_refl _ s) .atn (by decide)

theorem State.discardSwitch_cas (s : State) : s.discardSwitch.cas = s.cas :=
  State.discardSwitch_only s (List.Subset.refl _) (State.only_refl _ s) .cas (by decide)

/-- An activated sheet runs from its base frame, with nothing pending, and latches leaf 11 of group 0 (R55, R57). -/
theorem State.activate_facts (s : State) (n b : Nat) (safe : Bool) (hrole : s.cas.role ≠ .master) :
    (s.activate n b safe).yard.sheet = n ∧ (s.activate n b safe).yard.base = b ∧ (s.activate n b safe).yard.safe = safe ∧
    (s.activate n b safe).yard.pending = none ∧
    (s.activate n b safe).leaf 0 11 = (decide (0 < s.atn.cause.length) || s.leaf 0 11) := by
  have hleaf : ∀ u : State, u.atn = s.atn → (u.latch 0 11).leaf 0 11 = (decide (0 < s.atn.cause.length) || s.leaf 0 11) := by
    intro u hu
    simp [State.latch_leaf, State.leaf_of_atn hu, hu, Bool.or_comm]
  cases safe
  · simp only [State.activate, Bool.false_eq_true, if_false, State.latch_cas, State.modYard_cas, if_neg hrole]
    exact ⟨rfl, rfl, rfl, rfl, hleaf _ rfl⟩
  · simp only [State.activate, if_true, State.latch_cas, State.modYard_cas, s.discardSwitch_cas, if_neg hrole]
    refine ⟨rfl, rfl, rfl, rfl, ?_⟩
    rw [State.latch_leaf]
    simp only [hleaf (s.discardSwitch.modYard _) s.discardSwitch_atn]
    simp

/-- A switch due at a round boundary of a device that follows no other's takes its own sheet (R54 to R56). -/
theorem State.takeSwitch_of_nextSheet {n f : Nat} {s : State} (hremote : s.cas.remote = none)
    (hround : s.roundBoundary f = true) (hnext : s.nextSheet = some n) : s.takeSwitch f = s.activate n f s.yard.safeDue := by
  have hown : s.ownSheet = some n := by
    simp only [State.nextSheet, hremote] at hnext
    exact hnext
  simp [State.takeSwitch, hremote, hround, hown]

/-! ### Deep sleep -/

/-- A wake source acts at once on a device that has powered its domains down, and is latched before (R545, R546). -/
theorem State.wakeEvent_of_poweredDown {w : WakeSource} {s : State} (hop : s.core.op = .deepSleep)
    (hdown : s.pwr.poweredDown = true) : s.wakeEvent w = s.wakeNow w := by
  simp [State.wakeEvent, hop, hdown]

theorem State.wakeNow_facts (s : State) (w : WakeSource) : (s.wakeNow w).core.op = .booting ∧
    (s.wakeNow w).core.resetCause = .wake ∧ (s.wakeNow w).core.wakeLast = w := by
  refine ⟨State.beginStart_op _ _, State.beginStart_cause _ _, ?_⟩
  simp only [State.wakeNow, State.modCas_core, State.modPwr_core, State.beginStart]
  split <;> simp [State.clearVolatile]

/-- The wake timer is set (R545). -/
theorem State.wakeEnabled_timer {s : State} (h : s.valU (mkKey 0x7100 0x03) ≠ 0) : s.wakeEnabled .timer 0 = true :=
  bne_iff_ne.mpr h

/-- A wake timer that expires in DEEP_SLEEP is a wake event (R545). -/
theorem exec_wakeTimerExpiry_of_sleep {s : State} (hop : s.core.op = .deepSleep) (htimer : s.valU (mkKey 0x7100 0x03) ≠ 0) :
    exec .wakeTimerExpiry s = .next (s.fresh.wakeEvent .timer) :=
  congrArg Host.Outcome.next (if_pos ⟨hop, s.wakeEnabled_timer htimer⟩)

/-- Settles O16: the switch (`State.takeSwitch_of_nextSheet`, `State.activate_facts`), the wakes (`State.wakeEvent_of_poweredDown`,
`State.wakeNow_facts`), and what the debugger does to the stewards. -/
theorem sheetAndPower : Obligations.SheetAndPower := by
  refine ⟨fun n s hop hremote hround hnext hrole => ?switch, fun n b v s hrole hsheet hb => ?remote,
    fun m s hrole hmember hop hsheet => ?report, fun d f s hwaking hf => ⟨_, rfl, ?domain, rfl⟩,
    fun k s hop hdown hk hbit => ?wake, fun s hop hdown hlatched htimer => ?timerEarly, fun s hop hdown htimer => ?timer,
    fun s hscope hoff hsleep => ⟨_, congrArg Host.Outcome.next (if_pos ⟨hscope, hoff, hsleep⟩), rfl⟩,
    fun s => ⟨_, rfl, rfl, rfl⟩⟩
  case switch =>
    have hexec : exec .sheetSwitch s = .next (s.fresh.takeSwitch (s.core.frameCt + 1)) :=
      congrArg Host.Outcome.next (if_pos hop)
    rw [State.takeSwitch_of_nextSheet (s := s.fresh) hremote hround hnext] at hexec
    exact ⟨_, hexec, s.fresh.activate_facts n _ _ hrole⟩
  case remote =>
    exact ⟨_, congrArg Host.Outcome.next ((if_pos ⟨hrole, hsheet⟩).trans (if_neg (Nat.not_le.mpr hb))), rfl, rfl⟩
  case report =>
    have hsafe : ¬ (s.fresh.core.op ≠ .booting ∧ s.fresh.yard.sheet = s.fresh.safeSheet ∧ s.fresh.yard.loadDue = false) :=
      fun h => hsheet h.2.1
    exact ⟨_, congrArg Host.Outcome.next ((if_pos ⟨hrole, hmember⟩).trans (if_neg hsafe)), rfl, rfl⟩
  case domain => simp [hf]
  case wake =>
    have henabled : s.fresh.wakeEnabled .hi k = true := by
      simp only [State.wakeEnabled, Bool.and_eq_true, decide_eq_true_eq]
      exact ⟨hk, hbit⟩
    have hexec : exec (.wake .hi k) s = .next (s.fresh.wakeEvent .hi) :=
      congrArg Host.Outcome.next (if_pos ⟨hop, henabled⟩)
    rw [State.wakeEvent_of_poweredDown (s := s.fresh) hop hdown] at hexec
    exact ⟨_, hexec, s.fresh.wakeNow_facts .hi⟩
  case timerEarly =>
    refine ⟨_, exec_wakeTimerExpiry_of_sleep hop htimer, ?_⟩
    simp [State.wakeEvent, hop, hdown, hlatched]
  case timer =>
    have hexec := exec_wakeTimerExpiry_of_sleep hop htimer
    rw [State.wakeEvent_of_poweredDown (s := s.fresh) hop hdown] at hexec
    obtain ⟨top, tcause, -⟩ := s.fresh.wakeNow_facts .timer
    exact ⟨_, hexec, top, tcause⟩

/-! ### The monitors and the backup domain -/

/-- A monitor that is enabled where it can be switched off, outside a test window, latches at its detection (R484). -/
theorem exec_monitorDetect_latches {n : Nat} {s : State} (hn : n < 21) (hoff : s.core.op ≠ .off) (hsleep : s.core.op ≠ .deepSleep)
    (henabled : n < 12 → (s.monConfig n).testBit 3 = true) (htest : s.mon.testEnd = none) :
    exec (.monitorDetect n) s = .next ((s.fresh.modMon (fun m => { m with active := setBit m.active n })).monLatch n) := by
  have hdetects : ¬ (21 ≤ n ∨ s.fresh.core.op = .off ∨ s.fresh.core.op = .deepSleep ∨
      (n < 12 ∧ ¬ (s.fresh.monConfig n).testBit 3)) := by
    rintro (h | h | h | ⟨h, hbit⟩)
    · omega
    · exact hoff h
    · exact hsleep h
    · exact hbit (henabled h)
  refine congrArg Host.Outcome.next ((if_neg hdetects).trans ?_)
  exact State.monDetect_eq _ n henabled htest

/-- ALARM_HALT is left for the state before it (R21). -/
theorem exec_leaveAlarmHalt_op {h : HoldInput} {s : State} (hop : s.core.op = .alarmHalt) (hlatched : s.haltLatched = false)
    (hdue : s.mon.due = 0) (hz : s.core.zSince = false) (hbefore : s.core.before ≠ .booting) :
    ∃ t, exec (.leaveAlarmHalt h) s = .next t ∧ t.core.op = s.core.before ∧ t.core.frameCt = s.core.frameCt := by
  have hentry : ∀ u : State, (u.holdingEntry h).core = u.core := fun u =>
    State.holdingEntry_only u h (List.Subset.refl _) (State.only_refl _ u) .core (by decide)
  have hleaves : ¬ (s.fresh.core.op ≠ .alarmHalt ∨ s.fresh.haltLatched ∨ s.fresh.mon.due ≠ 0) := by
    rintro (h | h | h)
    · exact h hop
    · exact absurd (hlatched.symm.trans h) (by decide)
    · exact h hdue
  have hsame : ¬ s.fresh.core.zSince = true := by simp [hz]
  refine ⟨_, congrArg Host.Outcome.next ((if_neg hleaves).trans ((if_neg hsame).trans (if_neg hbefore))), ?_⟩
  split
  · next hholding =>
    obtain ⟨hframe, -, -, -⟩ := s.fresh.setOp_clock .holding
    rw [hentry]
    exact ⟨(s.fresh.setOp_op .holding).trans hholding.symm, hframe⟩
  · obtain ⟨hframe, -, -, -⟩ := s.fresh.setOp_clock s.core.before
    exact ⟨s.fresh.setOp_op _, hframe⟩

/-- A detection on the backup cell alone writes the FIFO, and the backup words and secrets by its class (R500 to R503). -/
theorem State.backupDetect_facts (s : State) (n : Nat) (hop : s.core.op = .off) :
    (s.backupDetect n).mon.fifo = fifoAdd s.mon.fifo ⟨s.log.secs, n, s.monConfig n % 4, (s.monConfig n).testBit 2,
      !s.pwr.vinGood, 1⟩ ∧
    (2 ≤ s.monConfig n % 4 → (s.backupDetect n).mon.word = setBit s.mon.word n) ∧
    (s.monConfig n % 4 = 3 → (s.backupDetect n).tack.srk = none ∧ (s.backupDetect n).tack.bootKey = none ∧
      (s.backupDetect n).mon.wordZ = setBit s.mon.wordZ n) := by
  have hawake : (Op.off == Op.deepSleep) = false := rfl
  by_cases hz : s.monConfig n % 4 = 3
  · simp [State.backupDetect, hz, hop, hawake]
  · simp +contextual [State.backupDetect, hz, hop, hawake]

/-- Settles O17: a detection latches (`exec_monitorDetect_latches`, `State.monLatch_low`, `State.monLatch_z`), the response clears
what is due (`State.alarmRespond_due`), and ALARM_HALT is left by `exec_leaveAlarmHalt_op` or by a start. -/
theorem monitorEvents : Obligations.MonitorEvents := by
  refine ⟨fun n s hn hoff hsleep henabled htest hlatched hcls => ?low, fun n s hn hoff hsleep henabled htest hlatched hcls => ?classZ,
    fun s hdue => ?response, fun n s hlatched hcls hdue hquiet => ?selfClear, fun real e s hend he hback => ?window,
    fun n s hop hwatched hword hsupply henabled => ?backup, fun s hvin => ?collapse, fun s hvin => ?cell,
    fun s hoff hsleep hok hatn => ?entropy, fun s hoff hsleep hok hatn => ?recovery,
    fun h s hop hlatched hdue hz hbefore => exec_leaveAlarmHalt_op hop hlatched hdue hz hbefore,
    fun h s hop hlatched hdue hz => ?restart⟩
  case low =>
    exact ⟨_, exec_monitorDetect_latches hn hoff hsleep henabled htest, State.monLatch_low _ n hlatched hcls⟩
  case classZ =>
    exact ⟨_, exec_monitorDetect_latches hn hoff hsleep henabled htest, State.monLatch_z _ n hlatched hcls⟩
  case response =>
    obtain ⟨hframe, -, -, -⟩ := s.fresh.alarmRespond_clock
    exact ⟨_, congrArg Host.Outcome.next (if_neg hdue), s.fresh.alarmRespond_due, hframe⟩
  case selfClear =>
    exact ⟨_, congrArg Host.Outcome.next (if_pos ⟨hlatched, hcls, hdue, hquiet⟩), rfl⟩
  case window =>
    refine ⟨(s.fresh.modMon (fun m => { m with testEnd := none, heldBack := 0, testResult := .pass })).ev 6 7 .alarmTest
      [s.mon.testMon, b2n true], congrArg Host.Outcome.next ?_, rfl, rfl, rfl⟩
    simp only [State.fresh_mon, hend]
    exact (if_neg (Nat.not_lt.mpr he)).trans (if_neg (ne_true_of_eq_false hback))
  case backup =>
    have hrecords : (s.fresh.core.op = .off ∨ s.fresh.core.op = .deepSleep) ∧ backupWatched n = true ∧
        s.fresh.mon.word.getLsbD n = false ∧ (s.fresh.pwr.vinGood ∨ s.fresh.pwr.vbatOk) ∧
        (12 ≤ n ∨ (s.fresh.monConfig n).testBit 3) :=
      ⟨.inl hop, hwatched, hword, hsupply, (Nat.lt_or_ge n 12).elim (fun h => .inr (henabled h)) .inl⟩
    exact ⟨_, congrArg Host.Outcome.next (if_pos hrecords), s.fresh.backupDetect_facts n hop⟩
  case collapse =>
    refine ⟨(s.fresh.modPwr (fun p => { p with vbatOk := false })).loseBackup, congrArg Host.Outcome.next (if_neg ?_),
      rfl, rfl, rfl, rfl, rfl, rfl, rfl⟩
    simp [hvin]
  case cell =>
    exact ⟨s.fresh.modPwr (fun p => { p with vbatOk := false }), congrArg Host.Outcome.next (if_pos hvin), rfl, rfl, rfl, rfl⟩
  case entropy =>
    refine ⟨_, congrArg Host.Outcome.next (if_neg ?_), rfl, ?_, rfl⟩
    · simp [hoff, hsleep, hok]
    · simp [State.latch_leaf, hatn]
  case recovery =>
    refine ⟨_, congrArg Host.Outcome.next (if_neg ?_), rfl, ?_⟩
    · simp [hoff, hsleep, hok]
    · simp [State.latch_leaf, hatn]
  case restart =>
    obtain ⟨hstart, hcause, hframe, -⟩ := s.fresh.beginStart_core .alarmClear
    refine ⟨s.fresh.beginStart .alarmClear, congrArg Host.Outcome.next ((if_neg ?_).trans (if_pos hz)), hstart, hcause, hframe⟩
    have hlatched' : s.fresh.haltLatched = false := hlatched
    simp [hop, hlatched', hdue]

/-! ### Device jobs -/

theorem State.latchPair_yard (s : State) (n : Nat) : (s.latchPair n).yard = s.yard :=
  State.latchPair_only s n (List.Subset.refl _) (State.only_refl _ s) .yard (by decide)

theorem State.latchLane_yard (s : State) (n : Nat) : (s.latchLane n).yard = s.yard :=
  State.latchLane_only s n (List.Subset.refl _) (State.only_refl _ s) .yard (by decide)

theorem State.latchLane_mon (s : State) (n : Nat) : (s.latchLane n).mon = s.mon :=
  State.latchLane_only s n (List.Subset.refl _) (State.only_refl _ s) .mon (by decide)

theorem State.lane_of_yard {s t : State} (h : t.yard = s.yard) (n : Nat) : t.lane n = s.lane n := by
  simp only [State.lane, h]

/-- A device job that is queued unless it waits already. -/
def State.addDevOnce (s : State) (w : DevWhat) : State := if s.devJobs.any (·.what == w) then s else s.addDev w

theorem State.addDevOnce_only (s : State) (w : DevWhat) {σ : State} (hs : σ.only [.devJobs, .nextJob] s) :
    σ.only [.devJobs, .nextJob] (s.addDevOnce w) :=
  ite_only hs (State.addDev_only s w (List.Subset.refl _) hs)

theorem State.addDevOnce_any (s : State) (w : DevWhat) : (s.addDevOnce w).devJobs.any (fun d => d.what == w) = true := by
  by_cases h : s.devJobs.any (·.what == w) = true
  · rw [State.addDevOnce, if_pos h]
    exact h
  · rw [State.addDevOnce, if_neg h]
    simp [State.addDev]

/-- The self-test period queues device jobs, the zeroization pass last (R496). -/
theorem exec_selfTestPeriod_queues {s : State} (hop : s.core.op.powered = true)
    (hdue : s.yard.lastPeriod + s.valU (mkKey 0x7000 0x09) * secFrames ≤ s.now) :
    ∃ u : State, exec .selfTestPeriod s = .next (u.addDevOnce .zeroPass) ∧ u.yard.lastPeriod = s.now := by
  have hruns : ¬ ((!s.fresh.core.op.powered) = true ∨ s.fresh.now < s.fresh.yard.lastPeriod +
      s.fresh.valU (mkKey 0x7000 0x09) * secFrames) := by
    rintro (h | h)
    · exact absurd h (by simp [hop])
    · exact absurd hdue (Nat.not_le.mpr h)
  let v := s.fresh.modYard (fun y => { y with lastPeriod := s.now })
  refine ⟨(List.range 92).foldl (fun s n => if hasSelfTest n && !(s.lane n).disabled then s.addDevOnce (.selfTest n) else s) v,
    congrArg Host.Outcome.next (if_neg hruns), ?_⟩
  have honly := foldl_only (L := [.devJobs, .nextJob]) (r := v) (List.range 92)
    (fun s n => if hasSelfTest n && !(s.lane n).disabled then s.addDevOnce (.selfTest n) else s) v
    (fun s n hs => ite_only (s.addDevOnce_only _ hs) hs) (State.only_refl _ v)
  exact congrArg Yard.lastPeriod (honly .yard (by decide))

/-- A lane whose self-test failed is disabled, and monitor 23 sees it (R497). -/
theorem exec_selfTestResult_fail {l : Nat} {s : State} (hl : l < 92) (hended : s.devEnded (.selfTest l) = true)
    (hlanes : s.yard.lanes.length = 92) :
    ∃ t, exec (.selfTestResult l false) s = .next t ∧ (t.lane l).disabled = true ∧
      (s.mon.testEnd = none → t.mon.latched.getLsbD 23 = true) := by
  let u := (((s.fresh.dropDev (.selfTest l)).modLane l (fun x => { x with disabled := true })).latchLane l).ev 1 7 .selfTestFail [l]
  have hended' : ¬ (!s.fresh.devEnded (.selfTest l)) = true := by
    rw [show s.fresh.devEnded (.selfTest l) = true from hended]; decide
  have hdisabled : (u.lane l).disabled = true := by
    rw [State.lane_of_yard (show u.yard = _ from State.latchLane_yard _ l)]
    rw [State.modLane_lane _ _ _ (by rw [show (s.fresh.dropDev (.selfTest l)).yard = s.yard from rfl, hlanes]; exact hl)]
  refine ⟨u.monDetect 23, congrArg Host.Outcome.next ((if_pos hl).trans ((if_neg hended').trans (if_neg Bool.false_ne_true))),
    (u.monDetect_disabled 23 l).trans hdisabled, fun htest => u.monDetect_event 23 (by decide) ?_⟩
  exact (congrArg Mon.testEnd (show u.mon = s.mon from State.latchLane_mon _ l)).trans htest

/-- A pair that passed its check is enabled, out of quarantine and tested (R325, R326). -/
theorem exec_pairCheckComplete_pass {l : Nat} {s : State} (hended : s.devEnded (.pairCheck l) = true)
    (hlanes : l < s.yard.lanes.length) : ∃ t, exec (.pairCheckComplete l true) s = .next t ∧
      (t.lane l).quarantine = false ∧ (t.lane l).disabled = false ∧ (t.lane l).needTest = false ∧
      t.yard.faults = s.yard.faults := by
  let u := (s.fresh.dropDev (.pairCheck l)).modLane l (fun x => { x with quarantine := false, disabled := false, needTest := false })
  have hlane : u.lane l = { s.lane l with quarantine := false, disabled := false, needTest := false } :=
    State.modLane_lane _ _ _ hlanes
  have hended' : ¬ (!s.fresh.devEnded (.pairCheck l)) = true := by
    rw [show s.fresh.devEnded (.pairCheck l) = true from hended]; decide
  refine ⟨_, congrArg Host.Outcome.next ((if_neg hended').trans (if_pos rfl)), ?_⟩
  have hyard : ∀ t : State, t.yard = (u.latchPair l).yard → (t.lane l).quarantine = false ∧ (t.lane l).disabled = false ∧
      (t.lane l).needTest = false ∧ t.yard.faults = s.yard.faults := by
    intro t ht
    have h : t.yard = u.yard := ht.trans (u.latchPair_yard l)
    rw [State.lane_of_yard h, hlane, h]
    exact ⟨rfl, rfl, rfl, rfl⟩
  split
  · exact hyard _ rfl
  · exact hyard _ rfl

/-- A pair that failed its check is disabled, and a fault is counted (R325). -/
theorem exec_pairCheckComplete_fail {l : Nat} {s : State} (hended : s.devEnded (.pairCheck l) = true)
    (hlanes : l < s.yard.lanes.length) : ∃ t, exec (.pairCheckComplete l false) s = .next t ∧
      (t.lane l).disabled = true ∧ (t.lane l).quarantine = false ∧ t.yard.faults = s.yard.faults + 1 := by
  obtain ⟨hfaults, hlength⟩ := (s.fresh.dropDev (.pairCheck l)).countFault_facts
  let u := (s.fresh.dropDev (.pairCheck l)).countFault.modLane l (fun x => { x with quarantine := false, disabled := true })
  have hlane := State.modLane_lane (s.fresh.dropDev (.pairCheck l)).countFault l
    (fun x => { x with quarantine := false, disabled := true }) (hlength ▸ hlanes)
  have hended' : ¬ (!s.fresh.devEnded (.pairCheck l)) = true := by
    rw [show s.fresh.devEnded (.pairCheck l) = true from hended]; decide
  have hyard : ((u.latchPair l).ev 1 8 .pairDisabled [l]).yard = u.yard := u.latchPair_yard l
  refine ⟨(u.latchPair l).ev 1 8 .pairDisabled [l],
    congrArg Host.Outcome.next ((if_neg hended').trans (if_neg Bool.false_ne_true)), ?_⟩
  rw [State.lane_of_yard hyard, hyard, hlane]
  exact ⟨rfl, rfl, hfaults⟩

/-- A checkpoint that is due is queued once (R453). -/
theorem exec_checkpointDue_queues {s : State} (hop : s.core.op.powered = true)
    (hdue : 1022 ≤ s.log.sinceCkpt ∨ s.log.owed = true) (hnone : s.devJobs.any (fun d => d.what == .checkpoint) = false) :
    ∃ t, exec .checkpointDue s = .next t ∧ t.log.owed = true ∧
      t.devJobs = s.devJobs ++ [⟨s.nextJob, .checkpoint, s.now, none, 0⟩] ∧ t.log.entries = s.log.entries := by
  have hqueues : ¬ ((!s.fresh.core.op.powered) = true ∨ (s.fresh.log.sinceCkpt < 1022 ∧ (!s.fresh.log.owed) = true) ∨
      s.fresh.devJobs.any (fun d => d.what == .checkpoint) = true) := by
    simp only [State.fresh_core, State.fresh_log, State.fresh_devJobs, hop, hnone]
    rcases hdue with h | h
    · simp [Nat.not_lt.mpr h]
    · simp [h]
  refine ⟨_, congrArg Host.Outcome.next (if_neg hqueues), ?_⟩
  dsimp only
  split <;> exact ⟨rfl, rfl, rfl⟩

/-- Settles O18: the self-tests (`exec_selfTestPeriod_queues`, `exec_selfTestResult_fail`), the pair checks
(`exec_pairCheckComplete_pass`, `exec_pairCheckComplete_fail`), the checkpoint (`State.writeCheckpoint_log`) and the nonces. -/
theorem deviceJobs : Obligations.DeviceJobs := by
  refine ⟨fun s hop hdue => ?period, fun l s hl hended hlanes => ?passes,
    fun l s hl hended hlanes => exec_selfTestResult_fail hl hended hlanes,
    fun l s hended hlanes => exec_pairCheckComplete_pass hended hlanes,
    fun l s hended hlanes => exec_pairCheckComplete_fail hended hlanes,
    fun s hop hdue hnone => exec_checkpointDue_queues hop hdue hnone,
    fun b s hsigning hended hhold hhalted hwritten hroom => ?checkpoint, fun b f s hnonce hf => ?expiry,
    fun s hop hstuck hcode => ?nonce, fun b s hop hstuck hcode => ?serial⟩
  case period =>
    obtain ⟨u, hexec, hperiod⟩ := exec_selfTestPeriod_queues hop hdue
    have hyard : (u.addDevOnce .zeroPass).yard = u.yard := u.addDevOnce_only _ (State.only_refl _ u) .yard (by decide)
    exact ⟨_, hexec, (congrArg Yard.lastPeriod hyard).trans hperiod, u.addDevOnce_any .zeroPass, exec_same hexec .jobs rfl⟩
  case passes =>
    have hended' : ¬ (!s.fresh.devEnded (.selfTest l)) = true := by
      rw [show s.fresh.devEnded (.selfTest l) = true from hended]; decide
    exact ⟨_, congrArg Host.Outcome.next ((if_pos hl).trans ((if_neg hended').trans (if_pos rfl))), rfl,
      State.modLane_lane _ _ _ hlanes, rfl⟩
  case checkpoint =>
    have hwrites : ¬ ((!s.fresh.devEnded .checkpoint) = true ∨ s.fresh.sup.hold = true ∨ s.fresh.pwr.halted = true ∨
        2 < s.fresh.log.written ∨ (!s.fresh.ckptRoom) = true) := by
      rw [show s.fresh.devEnded .checkpoint = true from hended, show s.fresh.ckptRoom = true from hroom]
      simp [hhold, hhalted, hwritten]
    obtain ⟨hhead, hlast, hsigned, howed, hsince⟩ := (s.fresh.dropDev .checkpoint).writeCheckpoint_log b
    refine ⟨(s.fresh.dropDev .checkpoint).writeCheckpoint b, ?_, hsigned, howed, hsince, hlast, hhead⟩
    refine congrArg Host.Outcome.next ?_
    simp only [State.fresh_log, hsigning]
    exact if_neg hwrites
  case expiry =>
    refine ⟨s.fresh.endNonce, congrArg Host.Outcome.next ?_, rfl⟩
    simp only [State.fresh_lc, hnonce]
    exact if_pos hf
  case nonce =>
    have hstops : ¬ (s.fresh.core.op ≠ .booting ∨ s.fresh.boot.stuck.isNone = true) := by
      simp [hop, Option.isNone_eq_false_iff.mpr hstuck]
    have hserial : ¬ s.fresh.lcCode = 5 := by
      rw [State.fresh_lcCode_read]; rcases hcode with h | h <;> rw [h] <;> decide
    have hasks : ¬ (s.fresh.lcCode ≠ 2 ∧ s.fresh.lcCode ≠ 3) := by
      rw [State.fresh_lcCode_read]; rcases hcode with h | h <;> rw [h] <;> decide
    exact ⟨_, congrArg Host.Outcome.next ((if_neg hstops).trans ((if_neg hserial).trans ((if_neg hasks).trans (if_pos rfl)))),
      rfl, rfl, rfl⟩
  case serial =>
    have hstops : ¬ (s.fresh.core.op ≠ .booting ∨ s.fresh.boot.stuck.isNone = true) := by
      simp [hop, Option.isNone_eq_false_iff.mpr hstuck]
    exact ⟨_, congrArg Host.Outcome.next ((if_neg hstops).trans (if_pos hcode)), rfl⟩

end Sys2Proof.Machine

/-! # Settled: the commands at the Stile's ports (O19 to O25) -/

namespace Sys2Proof.Machine

open Sys2Proof

/-! ### The read, data and plain commands above their clock limit -/

/-- Above the proxy path's limit the row's class alone decides (R124). -/
theorem State.fast_check (s q : State) (c : SpiCmd) (r : OpRow) (h : s.flashFast c r) (hc : q.core = s.core)
    (hp : ∃ b, q.port c.port = { s.port c.port with resetArmed := b }) (hd : q.dict = s.dict) :
    q.stileOff c.port = false ∧ (q.port c.port).mode ≠ .measure ∧
    q.proxyCheck c r = if returnsData r.cls then .overclocked else .unknown := by
  obtain ⟨hpow, -, hman, hfast⟩ := h
  obtain ⟨b, hb⟩ := hp
  have hlimit : q.upLimit c.port true (r.op == 0x03) c.wire = s.upLimit c.port true (r.op == 0x03) c.wire := by
    simp only [State.upLimit, State.upMax, State.valU, State.val, hd]
  refine ⟨by simp [State.stileOff, hb, hman, hc, hpow], by simp [hb, hman], ?_⟩
  unfold State.proxyCheck
  dsimp only
  rw [if_pos (hlimit ▸ hfast)]

theorem State.plainCmd_fast (s q : State) (c : SpiCmd) (r : OpRow) (f g p : State → State) (h : s.flashFast c r)
    (hk : returnsData r.cls = false) (hc : q.core = s.core)
    (hp : ∃ b, q.port c.port = { s.port c.port with resetArmed := b }) (hd : q.dict = s.dict) :
    q.plainCmd c r f g p = .next (q.unknownCmd c.port) := by
  obtain ⟨hon, hmode, hcheck⟩ := State.fast_check s q c r h hc hp hd
  unfold State.plainCmd
  rw [State.interrupt_off q c.port hmode]
  dsimp only
  rw [if_neg (by rw [hon]; decide), if_neg hmode, hcheck, hk]
  rfl

/-- What a disarmed port hands to the checks of a data-returning command above its limit (R124). -/
theorem State.disarm_fast (s : State) (c : SpiCmd) (r : OpRow) (h : s.flashFast c r) :
    (s.fresh.disarm c.port).interrupt c.port = s.fresh.disarm c.port ∧
    (s.fresh.disarm c.port).sized c r = s.sized c r ∧
    (s.fresh.disarm c.port).stileOff (s.sized c r).port = false ∧
    ((s.fresh.disarm c.port).port (s.sized c r).port).mode ≠ .measure ∧
    (s.fresh.disarm c.port).proxyCheck (s.sized c r) r = if returnsData r.cls then .overclocked else .unknown := by
  have hp := s.disarm_port c.port h.2.1
  obtain ⟨hon, hmode, hcheck⟩ := State.fast_check s (s.fresh.disarm c.port) (s.sized c r) r h rfl ⟨_, hp⟩ rfl
  exact ⟨State.interrupt_off _ _ hmode, State.sized_congr _ _ _ _ (by rw [hp]), hon, hmode, hcheck⟩

theorem State.readCmd_fast (s : State) (c : SpiCmd) (r : OpRow) (d : State → Nat) (h : s.flashFast c r)
    (hk : returnsData r.cls = true) : s.readCmd c r d = .next ((s.fresh.disarm c.port).allLate (s.sized c r)) := by
  obtain ⟨hheard, hsized, hon, hmode, hcheck⟩ := s.disarm_fast c r h
  unfold State.readCmd
  dsimp only
  rw [hheard, hsized, if_neg (by rw [hon]; decide), if_neg hmode, hcheck, hk]
  rfl

theorem State.dataCmd_fast (s : State) (c : SpiCmd) (r : OpRow) (p g : State → Bytes) (h : s.flashFast c r)
    (hk : returnsData r.cls = true) : s.dataCmd c r p g = .next ((s.fresh.disarm c.port).allLate (s.sized c r)) := by
  obtain ⟨hheard, hsized, hon, hmode, hcheck⟩ := s.disarm_fast c r h
  unfold State.dataCmd
  dsimp only
  rw [hheard, hsized, if_neg (by rw [hon]; decide), if_neg hmode, hcheck, hk]
  rfl

/-- A READ-class command that is not on the port's list (R128, R137). -/
theorem State.readCmd_unlisted (s : State) (c : SpiCmd) (r : OpRow) (d : State → Nat) (h : s.flashReady c r)
    (hl : ¬s.flashListed c r) (hk : r.cls = 1) : s.readCmd c r d = .next ((s.fresh.disarm c.port).unknownCmd c.port) := by
  have hp := s.disarm_port c.port h.2.1
  obtain ⟨hon, hmode, -, hcheck⟩ := State.ready_check s (s.fresh.disarm c.port) (s.sized c r) r (s.sized_ready s c r h) rfl
    ⟨_, hp⟩ rfl
  have hsized : (s.fresh.disarm c.port).sized c r = s.sized c r := State.sized_congr _ _ _ _ (by rw [hp])
  unfold State.readCmd
  dsimp only
  rw [State.interrupt_off _ c.port hmode, hsized, if_neg (by rw [hon]; decide), if_neg hmode, hcheck hl, if_neg (by simp [hk])]
  rfl

/-- Above its limit the transparent path still hears the command (R118, R124). -/
theorem State.clearFast_check (s : State) (c : SpiCmd) (h : s.flashClearFast c) :
    ((s.fresh.disarm c.port).interrupt c.port).stileOff c.port = false ∧
    (((s.fresh.disarm c.port).interrupt c.port).port c.port).mode = .measure ∧
    ((s.fresh.disarm c.port).interrupt c.port).clearLimit c false < c.khz := by
  obtain ⟨hpow, hn, hmeasure, hfast⟩ := h
  obtain ⟨hport, -, -, hcore, -⟩ := s.hear_facts c.port hn
  have hm : (((s.fresh.disarm c.port).interrupt c.port).port c.port).mode = .measure := by
    rw [hport]; unfold State.portHeard; split <;> exact hmeasure
  refine ⟨by simp [State.stileOff, hm, hcore, hpow], hm, ?_⟩
  rw [State.clearLimit_hear s c c false hn rfl rfl]
  exact hfast

/-- Above the transparent path's limit a command without data is counted and cut (R118, R124). -/
theorem State.plainCmd_clearFast (s : State) (c : SpiCmd) (r : OpRow) (f g p : State → State) (h : s.flashClearFast c) :
    ∃ t, (s.fresh.disarm c.port).plainCmd c r f g p = .next t ∧
      t.port c.port = { s.portHeard c.port with unknown := (s.port c.port).unknown + 1 } ∧
      (∀ m, m ≠ c.port → t.port m = s.port m) ∧ t.out = [.cut c.port (r.sent c) r.cutAt, .down c.port 0 0x04 0 []] := by
  obtain ⟨hon, hmode, hlimit⟩ := s.clearFast_check c h
  obtain ⟨hport, hother, hlen, -, -, hout, -⟩ := s.hear_facts c.port h.2.1
  refine ⟨((((s.fresh.disarm c.port).interrupt c.port).modPort c.port (fun p => { p with unknown := p.unknown + 1 })).latch
    (portGroup c.port) 10).cancelDown c.port (r.sent c) r.cutAt, ?_, ?_, ?_, ?_⟩
  · unfold State.plainCmd
    dsimp only
    rw [if_neg (by rw [hon]; decide), if_pos hmode, if_pos hlimit]
  · refine (State.modPort_port_self _ _ _ (hlen ▸ h.2.1)).trans ?_
    rw [hport]
    unfold State.portHeard
    split <;> rfl
  · exact fun m hm => (State.modPort_port_other _ _ _ _ hm).trans (hother m hm)
  · show ((((s.fresh.disarm c.port).interrupt c.port).out ++ _) ++ _) = _
    rw [hout]
    rfl

/-- An unknown command after the port's reset is disarmed (R126, R128). -/
theorem State.disarm_unknown (s : State) (n : Nat) (h : n < s.ports.length) :
    ((s.fresh.disarm n).unknownCmd n).port n = { s.port n with resetArmed := false, unknown := (s.port n).unknown + 1 } ∧
    (∀ m, m ≠ n → ((s.fresh.disarm n).unknownCmd n).port m = s.port m) ∧
    ((s.fresh.disarm n).unknownCmd n).out = [.undriven n] :=
  let ⟨hport, hother⟩ := s.disarm_mod n (fun p => { p with unknown := p.unknown + 1 }) h
  ⟨hport, hother, rfl⟩

/-- Late bytes after the port's reset is disarmed (R124, R126). -/
theorem State.disarm_late (s : State) (c : SpiCmd) (r : OpRow) (h : c.port < s.ports.length) :
    ((s.fresh.disarm c.port).allLate (s.sized c r)).out = [.up c.port (List.replicate c.len 0xFF)] ∧
    ((s.fresh.disarm c.port).allLate (s.sized c r)).port c.port =
      { s.port c.port with resetArmed := false, lateBytes := (s.port c.port).lateBytes + c.len } ∧
    ∀ m, m ≠ c.port → ((s.fresh.disarm c.port).allLate (s.sized c r)).port m = s.port m := by
  have hlen : (s.sized c r).port < (s.fresh.disarm c.port).ports.length := by
    rw [State.disarm, State.modPort_length]; exact h
  obtain ⟨hout, hport, hother⟩ := State.allLate_facts (s.fresh.disarm c.port) (s.sized c r) hlen
  refine ⟨hout, hport.trans ?_, fun m hm => (hother m hm).trans (State.modPort_port_other _ _ _ _ hm)⟩
  rw [show (s.sized c r).port = c.port from rfl, s.disarm_port c.port h]
  rfl

/-- A command that passes on the transparent path changes the port as heard (R117). -/
theorem State.passThrough_mod (s : State) (c : SpiCmd) (op : Nat) (f : Port → Port) (h : c.port < s.ports.length) :
    ((((s.fresh.disarm c.port).interrupt c.port).passThrough c op false).modPort c.port f).port c.port =
      f (s.portHeard c.port) ∧
    (∀ m, m ≠ c.port → ((((s.fresh.disarm c.port).interrupt c.port).passThrough c op false).modPort c.port f).port m =
      s.port m) ∧
    ((((s.fresh.disarm c.port).interrupt c.port).passThrough c op false).modPort c.port f).out =
      [.down c.port 0 op c.addr c.data] := by
  obtain ⟨hport, hother, hlen, -, -, hout, -⟩ := s.hear_facts c.port h
  refine ⟨?_, fun m hm => (State.modPort_port_other _ _ _ _ hm).trans (hother m hm), ?_⟩
  · refine (State.modPort_port_self _ _ _ ?_).trans (congrArg f hport)
    show c.port < ((s.fresh.disarm c.port).interrupt c.port).ports.length
    rw [hlen]; exact h
  · show ((s.fresh.disarm c.port).interrupt c.port).out ++ _ = _
    rw [hout]; rfl

/-! ### Reads (O19) -/

/-- Every read row runs as a READ-class command of its row (R127). -/
theorem exec_flashRead (c : SpiCmd) (s : State) :
    ∀ x ∈ flashReads, x.2.cls = 1 ∧ ∃ d, exec (x.1 c) s = s.readCmd c x.2 d := by
  unfold flashReads
  simp only [List.forall_mem_cons]
  exact ⟨⟨trivial, fun _ => 0, rfl⟩, ⟨trivial, fun _ => 8, rfl⟩, ⟨trivial, adv c.port 0, rfl⟩, ⟨trivial, adv c.port 1, rfl⟩,
    ⟨trivial, adv c.port 2, rfl⟩, ⟨trivial, adv c.port 3, rfl⟩, ⟨trivial, adv c.port 4, rfl⟩, by simp⟩

/-- A proxy read changes neither Shed nor core. -/
theorem State.proxyRead_shed_core (s : State) (c : SpiCmd) (d : Nat) :
    (s.proxyRead c d).shed = s.shed ∧ (s.proxyRead c d).core = s.core :=
  ⟨State.proxyRead_only s c d (List.Subset.refl _) (State.only_refl _ _) .shed (by decide),
    State.proxyRead_only s c d (List.Subset.refl _) (State.only_refl _ _) .core (by decide)⟩

theorem State.proxyRead_held (s : State) (c : SpiCmd) (d : Nat)
    (h : (s.port c.port).phase = .hold ∨ (s.port c.port).phase = .verify) :
    s.proxyRead c d = s.emit (.up c.port (List.replicate c.len 0xFF)) := by
  unfold State.proxyRead
  dsimp only
  rw [if_pos h]

/-- Settles O19: every read row is one READ-class command, taken apart by the checks of the proxy path. -/
theorem flashReads_answered : Obligations.FlashReads := by
  intro x hx c s
  obtain ⟨hcls, d, hexec⟩ := exec_flashRead c s x hx
  rw [hexec]
  refine ⟨fun hready hlisted hhole => ?_, fun hready hlisted hhole => ?_, fun hready hunlisted => ?_, fun hfast => ?_⟩
  · rw [s.readCmd_ready c x.2 d hready hlisted, if_pos hhole]
  · have hn := hready.2.1
    have hport := s.disarm_port c.port hn
    have hsrc : ∀ a, (s.fresh.disarm c.port).byteSrc c.port a = s.byteSrc c.port a := fun a =>
      State.byteSrc_congr s _ _ a ⟨_, hport⟩ rfl
    have hphase : ((s.fresh.disarm c.port).port c.port).phase = (s.port c.port).phase := by rw [hport]
    rw [s.readCmd_ready c x.2 d hready hlisted, if_neg (by simp [hhole])]
    obtain ⟨hshed, hcore⟩ := (s.fresh.disarm c.port).proxyRead_shed_core (s.sized c x.2) (d (s.fresh.disarm c.port))
    refine ⟨_, rfl, hshed, hcore, fun hheld => ?_, fun hserve => ?_⟩
    · rw [State.proxyRead_held _ _ _ (hphase ▸ hheld : ((s.fresh.disarm c.port).port (s.sized c x.2).port).phase = _ ∨ _)]
      exact ⟨rfl, hport, fun m hm => State.modPort_port_other _ _ _ _ hm⟩
    · obtain ⟨b, hup, hlen, hbytes⟩ := (s.fresh.disarm c.port).proxyRead_serve (s.sized c x.2) (d (s.fresh.disarm c.port))
        (hphase ▸ hserve : ¬(((s.fresh.disarm c.port).port (s.sized c x.2).port).phase = _ ∨ _))
      refine ⟨b, hup, hlen, fun i hi => ?_⟩
      have hbyte := hbytes i hi
      rw [show (s.sized c x.2).port = c.port from rfl, hsrc] at hbyte
      exact hbyte
  · obtain ⟨hport, hother, hout⟩ := s.disarm_unknown c.port hready.2.1
    exact ⟨_, s.readCmd_unlisted c x.2 d hready hunlisted hcls, hout, hport, hother⟩
  · exact ⟨_, s.readCmd_fast c x.2 d hfast (by rw [hcls]; rfl), s.disarm_late c x.2 hfast.2.1⟩

/-! ### Mode and write-enable commands (O20) -/

/-- A mode row does its change to the port on either path (R123 to R127). -/
theorem exec_flashMode (c : SpiCmd) (s : State) : ∀ x ∈ flashModes, (x.2.1.cls = 4 ∨ x.2.1.cls = 8 ∨ x.2.1.cls = 10) ∧
    exec (x.1 c) s = (s.fresh.disarm c.port).plainCmd c x.2.1
      (fun q => (q.passThrough c x.2.2.1 false).modPort c.port x.2.2.2) (fun q => q.unknownCmd c.port)
      (fun q => q.modPort c.port x.2.2.2) := by
  unfold flashModes
  simp only [List.forall_mem_cons]
  exact ⟨⟨.inl trivial, rfl⟩, ⟨.inl trivial, rfl⟩, ⟨.inr (.inl trivial), rfl⟩, ⟨.inr (.inl trivial), rfl⟩, ⟨.inr (.inr trivial), rfl⟩, by simp⟩

/-- Settles O20: each mode row is one plain command with its change of the port. -/
theorem flashModes_change : Obligations.FlashModes := by
  intro x hx c s
  obtain ⟨hcls, hexec⟩ := exec_flashMode c s x hx
  rw [hexec]
  refine ⟨fun hready hlisted => ?_, fun h => ?_, fun hclear => ?_, fun hfast => s.plainCmd_clearFast c _ _ _ _ hfast⟩
  · obtain ⟨hport, hother⟩ := s.disarm_mod c.port x.2.2.2 hready.2.1
    exact ⟨_, (State.plainCmd_ready s (s.fresh.disarm c.port) c _ _ _ _ hready rfl ⟨_, s.disarm_port c.port hready.2.1⟩ rfl).1 hlisted,
      hport, hother, rfl⟩
  · have hunknown : c.port < s.ports.length ∧ (s.fresh.disarm c.port).plainCmd c x.2.1
        (fun q => (q.passThrough c x.2.2.1 false).modPort c.port x.2.2.2) (fun q => q.unknownCmd c.port)
        (fun q => q.modPort c.port x.2.2.2) = .next ((s.fresh.disarm c.port).unknownCmd c.port) := by
      rcases h with ⟨hready, hunlisted⟩ | hfast
      · refine ⟨hready.2.1, ?_⟩
        rw [(State.plainCmd_ready s (s.fresh.disarm c.port) c _ _ _ _ hready rfl ⟨_, s.disarm_port c.port hready.2.1⟩ rfl).2 hunlisted, ite_self]
      · refine ⟨hfast.2.1, State.plainCmd_fast s (s.fresh.disarm c.port) c _ _ _ _ hfast ?_ rfl ⟨_, s.disarm_port c.port hfast.2.1⟩ rfl⟩
        rcases hcls with e | e | e <;> rw [e] <;> rfl
    exact ⟨_, hunknown.2, s.disarm_unknown c.port hunknown.1⟩
  · exact ⟨_, s.plainCmd_clear c _ _ _ _ hclear, s.passThrough_mod c x.2.2.1 x.2.2.2 hclear.2.1⟩

/-! ### Program and erase (O21) -/

/-- Every program and erase row runs as a write command of its row, unit and busy time (R127, R139). -/
theorem exec_flashWrite (c : SpiCmd) (s : State) : ∀ x ∈ flashWrites, (x.2.1.cls = 5 ∨ x.2.1.cls = 6) ∧
    x.2.1.cutAt = .address ∧ exec (x.1 c) s = s.writeCmd c x.2.1 x.2.2.1 x.2.2.2 := by
  unfold flashWrites
  simp only [List.forall_mem_cons]
  exact ⟨⟨.inl trivial, rfl, rfl⟩, ⟨.inl trivial, rfl, rfl⟩, ⟨.inr trivial, rfl, rfl⟩, ⟨.inr trivial, rfl, rfl⟩, by simp⟩

/-- The region and the flash place of an address do not hang on the armed reset (R119). -/
theorem State.disarm_regionAt_flashAt (s : State) (n a : Nat) (h : n < s.ports.length) :
    (s.fresh.disarm n).regionAt n a = s.regionAt n a ∧ (s.fresh.disarm n).flashAt n a = s.flashAt n a := by
  have hport := s.disarm_port n h
  have hval : ∀ k, (s.fresh.disarm n).val k = s.val k := fun _ => rfl
  have hregion : (s.fresh.disarm n).regionAt n a = s.regionAt n a := by
    unfold State.regionAt State.served State.manifest
    rw [hport]
    rfl
  have hflash : ∀ x r, (s.fresh.disarm n).regionFlash n x r = s.regionFlash n x r := fun _ _ => rfl
  refine ⟨hregion, ?_⟩
  unfold State.flashAt
  rw [hregion, hport]
  simp only [hflash]

theorem State.disarm_mayWrite (s : State) (n a l : Nat) (h : n < s.ports.length) :
    (s.fresh.disarm n).mayWrite n a l = s.mayWrite n a l := by
  have hport := s.disarm_port n h
  unfold State.mayWrite
  simp only [(s.disarm_regionAt_flashAt n _ h).1, (s.disarm_regionAt_flashAt n _ h).2, hport]

/-- A write command is a plain command with the address its bytes spell (R127). -/
theorem State.writeCmd_plain (s : State) (c : SpiCmd) (r : OpRow) (size busy : Nat) (h : c.port < s.ports.length) :
    s.writeCmd c r size busy = (s.fresh.disarm c.port).plainCmd (s.sized c r) r
      (fun q => q.clearWrite (s.sized c r) r ((s.sized c r).addr / size * size) busy)
      (fun q => q.listRefuse (s.sized c r) (r.sent c) r.cutAt busy)
      (fun q => q.proxyWrite (s.sized c r) r ((s.sized c r).addr / size * size) size busy) := by
  unfold State.writeCmd
  dsimp only
  rw [State.sized_congr s (s.fresh.disarm c.port) c r (by rw [s.disarm_port c.port h])]
  rfl

/-- A refusal on the proxy path drives nothing downstream (R137, R139). -/
theorem State.disarm_refuse (s : State) (c : SpiCmd) (op : Nat) (cut : CutAt) (busy : Nat) (h : c.port < s.ports.length)
    (hm : (s.port c.port).mode = .manifest) :
    s.refusedAs ((s.fresh.disarm c.port).refuse c op cut busy) c.port busy ∧
    ((s.fresh.disarm c.port).refuse c op cut busy).out = [] := by
  have hoff : (s.fresh.disarm c.port).interrupt c.port = s.fresh.disarm c.port :=
    State.interrupt_off _ _ (by rw [s.disarm_port c.port h]; simp [hm])
  obtain ⟨has, hout⟩ := s.refuse_as c op cut busy h
  rw [hoff] at has hout
  exact ⟨has, hout.trans (if_neg (by simp [hm]))⟩

/-- A refusal on the transparent path cuts the command and sends a Write Disable (R118, R139). -/
theorem State.heard_refuse (s : State) (c : SpiCmd) (op : Nat) (cut : CutAt) (busy : Nat) (h : c.port < s.ports.length)
    (hm : (s.port c.port).mode = .measure) :
    s.refusedAs (((s.fresh.disarm c.port).interrupt c.port).refuse c op cut busy) c.port busy ∧
    (((s.fresh.disarm c.port).interrupt c.port).refuse c op cut busy).out =
      [.cut c.port op cut, .down c.port 0 0x04 0 []] :=
  let ⟨has, hout⟩ := s.refuse_as c op cut busy h
  ⟨has, hout.trans (if_pos hm)⟩

theorem State.portHeard_phase (s : State) (n : Nat) : (s.portHeard n).phase = (s.port n).phase := by
  unfold State.portHeard; split <;> rfl

/-- A write command with presented WEL that the list or the regions refuse (R128, R137). -/
theorem State.writeCmd_refused (s : State) (c : SpiCmd) (r : OpRow) (size busy : Nat) (hready : s.flashReady c r)
    (hcls : r.cls = 5 ∨ r.cls = 6) (hwel : (s.port c.port).wel = true)
    (h : ¬s.flashListed c r ∨ s.mayWrite c.port ((s.sized c r).addr / size * size) size = false) :
    s.writeCmd c r size busy = .next ((s.fresh.disarm c.port).refuse (s.sized c r) (r.sent c) r.cutAt busy) := by
  have hport := s.disarm_port c.port hready.2.1
  have hwel' : ((s.fresh.disarm c.port).port (s.sized c r).port).wel = true := by
    rw [show (s.sized c r).port = c.port from rfl, hport]; exact hwel
  have hplain := State.plainCmd_ready s (s.fresh.disarm c.port) (s.sized c r) r
    (fun q => q.clearWrite (s.sized c r) r ((s.sized c r).addr / size * size) busy)
    (fun q => q.listRefuse (s.sized c r) (r.sent c) r.cutAt busy)
    (fun q => q.proxyWrite (s.sized c r) r ((s.sized c r).addr / size * size) size busy)
    (s.sized_ready s c r hready) rfl ⟨_, hport⟩ rfl
  rw [s.writeCmd_plain c r size busy hready.2.1]
  by_cases hl : s.flashListed c r
  · rw [hplain.1 hl]
    have hmay := h.resolve_left (not_not_intro hl)
    unfold State.proxyWrite
    rw [if_neg (by simp [hwel']), if_neg (by
      rw [show (s.sized c r).port = c.port from rfl, s.disarm_mayWrite _ _ _ hready.2.1, hmay]; decide)]
    rfl
  · rw [hplain.2 hl, if_pos (hcls.elim .inl fun e => .inr (.inl e))]
    exact congrArg Host.Outcome.next (if_pos hwel')

/-- Without presented WEL a write command has no effect on the proxy path (R128). -/
theorem State.writeCmd_ignored (s : State) (c : SpiCmd) (r : OpRow) (size busy : Nat) (hready : s.flashReady c r)
    (hcls : r.cls = 5 ∨ r.cls = 6) (hwel : (s.port c.port).wel = false) :
    s.writeCmd c r size busy = .next (s.fresh.disarm c.port) := by
  have hport := s.disarm_port c.port hready.2.1
  have hwel' : ((s.fresh.disarm c.port).port (s.sized c r).port).wel = false := by
    rw [show (s.sized c r).port = c.port from rfl, hport]; exact hwel
  have hplain := State.plainCmd_ready s (s.fresh.disarm c.port) (s.sized c r) r
    (fun q => q.clearWrite (s.sized c r) r ((s.sized c r).addr / size * size) busy)
    (fun q => q.listRefuse (s.sized c r) (r.sent c) r.cutAt busy)
    (fun q => q.proxyWrite (s.sized c r) r ((s.sized c r).addr / size * size) size busy)
    (s.sized_ready s c r hready) rfl ⟨_, hport⟩ rfl
  rw [s.writeCmd_plain c r size busy hready.2.1]
  by_cases hl : s.flashListed c r
  · rw [hplain.1 hl]
    exact congrArg Host.Outcome.next (if_pos (by simp [hwel']))
  · rw [hplain.2 hl, if_pos (hcls.elim .inl fun e => .inr (.inl e))]
    exact congrArg Host.Outcome.next (if_neg (by simp [hwel']))

/-- A write that the list and the regions permit goes down at its mapped address (R137, R141). -/
theorem State.writeCmd_passed (s : State) (c : SpiCmd) (r : OpRow) (size busy : Nat) (f : Nat × Nat)
    (hready : s.flashReady c r) (hlisted : s.flashListed c r) (hwel : (s.port c.port).wel = true)
    (hmay : s.mayWrite c.port ((s.sized c r).addr / size * size) size = true)
    (hflash : s.flashAt c.port (s.sized c r).addr = some f) :
    s.writeCmd c r size busy =
      .next (((s.fresh.disarm c.port).emit (.down c.port f.1 (r.sent c) f.2 c.data)).passedWrite c.port f.1) := by
  have hport := s.disarm_port c.port hready.2.1
  rw [s.writeCmd_plain c r size busy hready.2.1, (State.plainCmd_ready s (s.fresh.disarm c.port) (s.sized c r) r _ _ _
    (s.sized_ready s c r hready) rfl ⟨_, hport⟩ rfl).1 hlisted]
  unfold State.proxyWrite
  rw [if_neg (by rw [show (s.sized c r).port = c.port from rfl, hport]; simp [hwel]),
    if_pos (by rw [show (s.sized c r).port = c.port from rfl, s.disarm_mayWrite _ _ _ hready.2.1, hmay]),
    show (s.sized c r).port = c.port from rfl, (s.disarm_regionAt_flashAt c.port _ hready.2.1).2, hflash]
  rfl

/-- A write command on the transparent path (R24, R117). -/
theorem State.writeCmd_clear (s : State) (c : SpiCmd) (r : OpRow) (size busy : Nat) (h : s.flashClear c) :
    s.writeCmd c r size busy = .next (((s.fresh.disarm c.port).interrupt c.port).clearWrite (s.sized c r) r
      ((s.sized c r).addr / size * size) busy) := by
  rw [s.writeCmd_plain c r size busy h.2.1]
  exact s.plainCmd_clear (s.sized c r) r _ _ _ h

/-- Settles O21: a write row is ignored, refused, cut or passed by its presented WEL, the list, the regions and the path. -/
theorem flashWrites_decided : Obligations.FlashWrites := by
  intro x hx c s
  obtain ⟨hcls, hcut, hexec⟩ := exec_flashWrite c s x hx
  rw [hexec]
  refine ⟨fun hready hwel => ?_, fun f hready hlisted hwel hmay hflash => ?_, fun hready hwel hrefused => ?_,
    fun hfast => ?_, fun hclear hlow => ?_, fun hclear hphase hhigh => ?_, fun hfast => ?_⟩
  · exact ⟨_, s.writeCmd_ignored c _ _ _ hready hcls hwel, s.disarm_port c.port hready.2.1,
      fun m hm => State.modPort_port_other _ _ _ _ hm, rfl⟩
  · obtain ⟨hport, hother⟩ := s.disarm_mod c.port
      (fun p => { p with wel := false, passedBusy := true, busyCs := f.1, pollAt := s.now + 8 }) hready.2.1
    exact ⟨_, s.writeCmd_passed c _ _ _ f hready hlisted hwel hmay hflash, rfl, hport, hother⟩
  · exact ⟨_, s.writeCmd_refused c _ _ _ hready hcls hwel hrefused,
      s.disarm_refuse (s.sized c x.2.1) _ _ _ hready.2.1 hready.2.2.1⟩
  · obtain ⟨hport, hother, hout⟩ := s.disarm_unknown c.port hfast.2.1
    refine ⟨_, (s.writeCmd_plain c _ _ _ hfast.2.1).trans (State.plainCmd_fast s (s.fresh.disarm c.port) (s.sized c x.2.1) _
      _ _ _ hfast ?_ rfl ⟨_, s.disarm_port c.port hfast.2.1⟩ rfl), hout, hport, hother⟩
    rcases hcls with e | e <;> rw [e] <;> rfl
  · obtain ⟨has, hout⟩ := s.heard_refuse (s.sized c x.2.1) (x.2.1.sent c) .address x.2.2.2 hclear.2.1 hclear.2.2.1
    refine ⟨_, (s.writeCmd_clear c _ _ _ hclear).trans (congrArg Host.Outcome.next (if_pos ?_)), ?_, ?_⟩
    · rw [show (s.sized c x.2.1).port = c.port from rfl, (s.hear_facts c.port hclear.2.1).1, s.portHeard_phase]
      exact hlow
    · rw [hcut]; exact has
    · rw [hcut]; exact hout
  · obtain ⟨hport, hother, hlen, hcore, -, hout, -⟩ := s.hear_facts c.port hclear.2.1
    refine ⟨_, (s.writeCmd_clear c _ _ _ hclear).trans (congrArg Host.Outcome.next (if_neg ?_)), ?_, ?_, fun m hm => ?_⟩
    · rw [show (s.sized c x.2.1).port = c.port from rfl, hport, s.portHeard_phase]
      exact fun h => h.elim hphase (Nat.not_lt.mpr hhigh)
    · show ((s.fresh.disarm c.port).interrupt c.port).out ++ _ = _
      rw [hout]; rfl
    · refine (State.modPort_port_self _ _ _ (show c.port < ((s.fresh.disarm c.port).interrupt c.port).ports.length from
        hlen ▸ hclear.2.1)).trans ?_
      show ({ ((s.fresh.disarm c.port).interrupt c.port).port c.port with
        wel := false, passedBusy := true, busyCs := 0, pollAt := ((s.fresh.disarm c.port).interrupt c.port).now + 8 } : Port) = _
      rw [hport]; unfold State.now; rw [hcore]
    · exact (State.modPort_port_other _ _ _ _ hm).trans (hother m hm)
  · obtain ⟨t, ht, hport, hother, hout⟩ := s.plainCmd_clearFast (s.sized c x.2.1) x.2.1 _ _ _ hfast
    exact ⟨t, (s.writeCmd_plain c _ _ _ hfast.2.1).trans ht, hport, by rw [hout, hcut]; rfl, hother⟩

/-! ### Status and identity (O22), and the transparent path (O23) -/

/-- Every status and identity row runs as a data command with the answer of its row (R128, R134, R135). -/
theorem exec_flashAnswer (c : SpiCmd) (s : State) (h : c.port < s.ports.length) :
    ∀ x ∈ flashAnswers, (x.2.1.cls = 2 ∨ x.2.1.cls = 3) ∧
      ∃ p g, exec (x.1 c) s = s.dataCmd c x.2.1 p g ∧ p (s.fresh.disarm c.port) = x.2.2 s c := by
  have hport := s.disarm_port c.port h
  unfold flashAnswers
  simp only [List.forall_mem_cons]
  refine ⟨⟨.inl trivial, ?_⟩, ⟨.inr trivial, ?_⟩, ⟨.inr trivial, ?_⟩, by simp⟩
  · change ∃ p g, execReadStatusRegister c s = _ ∧ _
    unfold execReadStatusRegister
    refine ⟨_, _, rfl, ?_⟩
    simp only [State.statusByte, State.wip, hport]
    rfl
  · change ∃ p g, execReadJedecId c s = _ ∧ _
    unfold execReadJedecId
    refine ⟨_, _, rfl, ?_⟩
    dsimp only
    rw [hport]
    rfl
  · change ∃ p g, execReadSfdp c s = _ ∧ _
    unfold execReadSfdp
    refine ⟨_, _, rfl, ?_⟩
    rw [hport]
    simp only [State.sized, State.addrLong, Bool.or_eq_true, beq_iff_eq, bne_self_eq_false, Bool.and_false,
      Bool.false_and, Bool.or_false]

/-- Settles O22: each answer row is one data command, by the checks of the proxy path. -/
theorem flashIdentity : Obligations.FlashIdentity := by
  intro x hx c s
  refine ⟨fun hready => ?_, fun hfast => ?_⟩
  · obtain ⟨hcls, p, g, hexec, hanswer⟩ := exec_flashAnswer c s hready.2.1 x hx
    obtain ⟨hlisted, hunlisted⟩ := s.dataCmd_ready c x.2.1 p g hready hcls
    rw [hexec]
    by_cases hl : s.flashListed c x.2.1
    · refine ⟨_, hlisted hl, fun _ => ⟨?_, s.disarm_port c.port hready.2.1⟩, fun hn => absurd hl hn,
        fun m hm => State.modPort_port_other _ _ _ _ hm⟩
      rw [hanswer]; rfl
    · obtain ⟨hport, hother, hout⟩ := s.disarm_unknown c.port hready.2.1
      exact ⟨_, hunlisted hl, fun hy => absurd hy hl, fun _ => ⟨hout, hport⟩, hother⟩
  · obtain ⟨hcls, p, g, hexec, -⟩ := exec_flashAnswer c s hfast.2.1 x hx
    exact ⟨_, hexec.trans (s.dataCmd_fast c _ p g hfast (by rcases hcls with e | e <;> rw [e] <;> rfl)),
      s.disarm_late c x.2.1 hfast.2.1⟩

/-- A data command above the transparent path's limit (R124). -/
theorem State.dataCmd_clearFast (s : State) (c : SpiCmd) (r : OpRow) (p g : State → Bytes) (h : s.flashClearFast c) :
    s.dataCmd c r p g = .next (((s.fresh.disarm c.port).interrupt c.port).allLate (s.sized c r)) := by
  obtain ⟨hon, hmode, hlimit⟩ := s.clearFast_check (s.sized c r) h
  have hsized : ((s.fresh.disarm c.port).interrupt c.port).sized c r = s.sized c r :=
    State.sized_congr _ _ _ _ (by rw [(s.hear_facts c.port h.2.1).1]; unfold State.portHeard; split <;> rfl)
  unfold State.dataCmd
  dsimp only
  rw [hsized]
  exact congrArg Host.Outcome.next ((if_neg (ne_true_of_eq_false hon)).trans ((if_pos hmode).trans (if_pos hlimit)))

/-- A read, JEDEC ID or SFDP row on the transparent path: late bytes above the limit, otherwise the flash's answer (R117, R124). -/
theorem exec_clearAnswer (c : SpiCmd) (s : State) (hpow : s.core.op.powered = true) (hn : c.port < s.ports.length)
    (hm : (s.port c.port).mode = .measure) :
    ∀ x ∈ flashReads ++ [(.readJedecId, ⟨0x9F, 3, [.w111, .w444, .w8d], 0, 0⟩), (.readSfdp, ⟨0x5A, 3, [.w111, .w8d], 0, 0⟩)],
      exec (x.1 c) s = .next (if s.clearLimit c (x.2.op == 0x03) < c.khz then
        ((s.fresh.disarm c.port).interrupt c.port).allLate (s.sized c x.2)
        else ((s.fresh.disarm c.port).interrupt c.port).passThrough (s.sized c x.2) (x.2.sent c) true) := by
  have hdata : ∀ (r : OpRow) (p : State → Bytes), (r.op == 0x03) = false →
      s.dataCmd c r p (fun _ => fit c.len c.data) = .next (if s.clearLimit c (r.op == 0x03) < c.khz then
        ((s.fresh.disarm c.port).interrupt c.port).allLate (s.sized c r)
        else ((s.fresh.disarm c.port).interrupt c.port).passThrough (s.sized c r) (r.sent c) true) := by
    intro r p hop
    rw [hop]
    by_cases hfast : s.clearLimit c false < c.khz
    · rw [if_pos hfast, s.dataCmd_clearFast c r _ _ ⟨hpow, hn, hm, hfast⟩]
    · rw [if_neg hfast, s.dataCmd_clear c r _ _ ⟨hpow, hn, hm, Nat.not_lt.mp hfast⟩]
      rfl
  intro x hx
  rcases List.mem_append.mp hx with hread | hid
  · obtain ⟨-, d, hexec⟩ := exec_flashRead c s x hread
    rw [hexec, s.readCmd_clear c x.2 d hpow hn hm]
  · simp only [List.mem_cons, List.not_mem_nil, or_false] at hid
    rcases hid with rfl | rfl
    · exact (show execReadJedecId c s = _ from hdata ⟨0x9F, 3, [.w111, .w444, .w8d], 0, 0⟩ _ rfl)
    · exact (show execReadSfdp c s = _ from hdata ⟨0x5A, 3, [.w111, .w8d], 0, 0⟩ _ rfl)

/-- Any command but the register writes of R138 passes the transparent path unchanged. -/
theorem exec_unknownCommand_clear (c : SpiCmd) (op : Nat) (s : State) (h : s.flashClear c) :
    exec (.unknownCommand c op) s = .next (if op = 0x31 ∨ op = 0x11 then
      ((s.fresh.disarm c.port).interrupt c.port).refuse c op .data 10000
      else ((s.fresh.disarm c.port).interrupt c.port).passThrough c op (decide (0 < c.len))) := by
  obtain ⟨hon, hmode, hlimit⟩ := s.clear_check c h
  exact congrArg Host.Outcome.next ((if_neg (ne_true_of_eq_false hon)).trans ((if_pos hmode).trans
    (if_neg (Nat.not_lt.mpr hlimit))))

/-- The port as heard keeps its presented busy time (R139). -/
theorem State.portHeard_busyUntil (s : State) (n : Nat) : (s.portHeard n).busyUntil = (s.port n).busyUntil := by
  unfold State.portHeard; split <;> rfl

theorem State.portHeard_lateBytes (s : State) (n : Nat) : (s.portHeard n).lateBytes = (s.port n).lateBytes := by
  unfold State.portHeard; split <;> rfl

/-- A status read on the transparent path: the flash's byte, or 0x01 while a refused command's busy is presented (R139). -/
theorem exec_readStatusRegister_clear (c : SpiCmd) (s : State) (h : s.flashClear c) (b : Bytes)
    (hb : b = if (match (s.port c.port).busyUntil with | some f => decide (s.now < f) | none => false)
      then List.replicate c.len 0x01 else fit c.len c.data) :
    exec (.readStatusRegister c) s = .next ((((s.fresh.disarm c.port).interrupt c.port).emit
      (.down c.port 0 (OpRow.sent ⟨0x05, 2, allModes, 0, 0⟩ c) (s.sized c ⟨0x05, 2, allModes, 0, 0⟩).addr [])).emit
      (.up c.port b)) := by
  obtain ⟨hport, -, -, hcore, -⟩ := s.hear_facts c.port h.2.1
  refine (show execReadStatusRegister c s = _ from s.dataCmd_clear c ⟨0x05, 2, allModes, 0, 0⟩ _ _ h).trans ?_
  rw [hb, hport, s.portHeard_busyUntil]
  unfold State.now
  rw [hcore] <;> rfl

/-- What stands after a command that only puts items out leaves the ports as heard. -/
theorem State.heard_ports (s t : State) (n : Nat) (h : n < s.ports.length)
    (ht : t.ports = ((s.fresh.disarm n).interrupt n).ports) :
    t.port n = s.portHeard n ∧ ∀ m, m ≠ n → t.port m = s.port m := by
  obtain ⟨hport, hother, -⟩ := s.hear_facts n h
  have hsame : ∀ m, t.port m = ((s.fresh.disarm n).interrupt n).port m := fun m => by unfold State.port; rw [ht]
  exact ⟨(hsame n).trans hport, fun m hm => (hsame m).trans (hother m hm)⟩

theorem State.heard_out_append (s : State) (n : Nat) (l : List Out) (h : n < s.ports.length) :
    ((s.fresh.disarm n).interrupt n).out ++ l = l := by
  rw [(s.hear_facts n h).2.2.2.2.2.1]; rfl

/-- Settles O23: on the transparent path every data row and unknown opcode goes to the flash and back. -/
theorem flashTransparent : Obligations.FlashTransparent := by
  refine ⟨fun c s h => ?_, fun x hx c s hpow hn hm => ⟨fun hslow => ?_, fun hfast => ?_⟩, fun c op s h hop1 hop2 => ?_,
    fun c s h => ?_⟩
  · obtain ⟨hport, hother⟩ := s.heard_ports _ c.port h.2.1 rfl
    have hout : ∀ b : Bytes, ((((s.fresh.disarm c.port).interrupt c.port).emit
        (.down c.port 0 (OpRow.sent ⟨0x05, 2, allModes, 0, 0⟩ c) (s.sized c ⟨0x05, 2, allModes, 0, 0⟩).addr [])).emit
        (.up c.port b)).out = [.down c.port 0 (OpRow.sent ⟨0x05, 2, allModes, 0, 0⟩ c)
          (s.sized c ⟨0x05, 2, allModes, 0, 0⟩).addr [], .up c.port b] := fun b =>
      (List.append_assoc _ _ _).trans (s.heard_out_append c.port _ h.2.1)
    refine ⟨_, exec_readStatusRegister_clear c s h _ rfl, hport, hother, fun hidle => ?_, fun f hf hbusy => ?_⟩
    · rw [hout]
      cases hb : (s.port c.port).busyUntil with
      | none => rfl
      | some f =>
        exact congrArg (fun b => [_, Out.up c.port b]) (if_neg (by simpa using hidle f hb))
    · rw [hout]
      exact congrArg (fun b => [_, Out.up c.port b]) (if_pos (by simpa [hf] using hbusy))
  · obtain ⟨hport, hother⟩ := s.heard_ports _ c.port hn rfl
    refine ⟨_, (exec_clearAnswer c s hpow hn hm x hx).trans (congrArg _ (if_neg (Nat.not_lt.mpr hslow))), ?_, hport, hother⟩
    exact (List.append_assoc _ _ _).trans (s.heard_out_append c.port _ hn)
  · obtain ⟨hport, hother, hlen, -, -, hout, -⟩ := s.hear_facts c.port hn
    obtain ⟨hlateOut, hlatePort, hlateOther⟩ := State.allLate_facts ((s.fresh.disarm c.port).interrupt c.port)
      (s.sized c x.2) (hlen ▸ hn)
    refine ⟨_, (exec_clearAnswer c s hpow hn hm x hx).trans (congrArg _ (if_pos hfast)), ?_, ?_,
      fun m hmn => (hlateOther m hmn).trans (hother m hmn)⟩
    · rw [hlateOut, hout]; rfl
    · refine hlatePort.trans ?_
      rw [show (s.sized c x.2).port = c.port from rfl, hport, s.portHeard_lateBytes]
      rfl
  · obtain ⟨hport, hother⟩ := s.heard_ports (((s.fresh.disarm c.port).interrupt c.port).passThrough c op (decide (0 < c.len)))
      c.port h.2.1 (by unfold State.passThrough; dsimp only; split <;> rfl)
    refine ⟨_, (exec_unknownCommand_clear c op s h).trans (congrArg _ (if_neg (not_or.mpr ⟨hop1, hop2⟩))), hport, hother, ?_⟩
    by_cases hlen : 0 < c.len
    · rw [if_pos hlen, decide_eq_true hlen]
      exact (List.append_assoc _ _ _).trans (s.heard_out_append c.port _ h.2.1)
    · rw [if_neg hlen, decide_eq_false hlen]
      exact s.heard_out_append c.port _ h.2.1
  · obtain ⟨hport, hother⟩ := s.heard_ports _ c.port h.2.1 rfl
    exact ⟨_, (show execWriteVolatileConfiguration c s = _ from s.plainCmd_clear c _ _ _ _ h), hport, hother, s.heard_out_append c.port _ h.2.1⟩

/-! ### Refused commands and their exceptions (O24) -/

/-- A command that the list refuses, or its own rule refuses, on the proxy path (R137). -/
theorem State.plainCmd_refuses (s : State) (c : SpiCmd) (r : OpRow) (op : Nat) (cut : CutAt) (busy : Nat)
    (f g p : State → State) (hready : s.flashReady c r) (hcls : r.cls = 5 ∨ r.cls = 6 ∨ r.cls = 7 ∨ r.cls = 9)
    (hg : ¬s.flashListed c r → g (s.fresh.disarm c.port) = (s.fresh.disarm c.port).refuse c op cut busy)
    (hp : s.flashListed c r → p (s.fresh.disarm c.port) = (s.fresh.disarm c.port).refuse c op cut busy) :
    ∃ t, (s.fresh.disarm c.port).plainCmd c r f g p = .next t ∧ s.refusedAs t c.port busy ∧ t.out = [] := by
  have hplain := State.plainCmd_ready s (s.fresh.disarm c.port) c r f g p hready rfl ⟨_, s.disarm_port c.port hready.2.1⟩ rfl
  refine ⟨_, ?_, s.disarm_refuse c op cut busy hready.2.1 hready.2.2.1⟩
  by_cases hl : s.flashListed c r
  · rw [hplain.1 hl, hp hl]
  · rw [hplain.2 hl, if_pos hcls, hg hl]

/-- A command that the transparent path refuses (R118, R138). -/
theorem State.plainCmd_clear_refuses (s : State) (c : SpiCmd) (r : OpRow) (op : Nat) (cut : CutAt) (busy : Nat)
    (f g p : State → State) (h : s.flashClear c)
    (hf : f ((s.fresh.disarm c.port).interrupt c.port) =
      ((s.fresh.disarm c.port).interrupt c.port).refuse c op cut busy) :
    ∃ t, (s.fresh.disarm c.port).plainCmd c r f g p = .next t ∧ s.refusedAs t c.port busy ∧
      t.out = [.cut c.port op cut, .down c.port 0 0x04 0 []] :=
  ⟨_, (s.plainCmd_clear c r f g p h).trans (congrArg _ hf), s.heard_refuse c op cut busy h.2.1 h.2.2.1⟩

/-- On a manifest port a command outside the opcode table is only counted (R128). -/
theorem State.manifest_unknown (s : State) (c : SpiCmd) (hpow : s.core.op.powered = true) (hn : c.port < s.ports.length)
    (hm : (s.port c.port).mode = .manifest) :
    (s.fresh.disarm c.port).interrupt c.port = s.fresh.disarm c.port ∧
    (s.fresh.disarm c.port).stileOff c.port = false ∧ ((s.fresh.disarm c.port).port c.port).mode ≠ .measure := by
  have hport := s.disarm_port c.port hn
  have hmode : ((s.fresh.disarm c.port).port c.port).mode ≠ .measure := by simp [hport, hm]
  refine ⟨State.interrupt_off _ _ hmode, ?_, hmode⟩
  unfold State.stileOff
  rw [hport]
  simp only [hm, show (s.fresh.disarm c.port).core = s.core from rfl, hpow]
  rfl

/-- A row without wire modes passes no check: its command is unknown (R127, R128). -/
theorem State.plainCmd_no_modes (s : State) (c : SpiCmd) (op : Nat) (f g p : State → State)
    (hpow : s.core.op.powered = true) (hn : c.port < s.ports.length) (hm : (s.port c.port).mode = .manifest) :
    (s.fresh.disarm c.port).plainCmd c { op := op, cls := 0, modes := [] } f g p =
      .next ((s.fresh.disarm c.port).unknownCmd c.port) := by
  obtain ⟨hheard, hon, hmode⟩ := s.manifest_unknown c hpow hn hm
  have hcheck : (s.fresh.disarm c.port).proxyCheck c { op := op, cls := 0, modes := [] } = .unknown := by
    unfold State.proxyCheck
    simp [returnsData]
  unfold State.plainCmd
  dsimp only
  rw [hheard, if_neg (ne_true_of_eq_false hon), if_neg hmode, hcheck]

/-- A write to the volatile configuration that its row passes (R125). -/
def volatileConfiguration (c : SpiCmd) (q : State) : State :=
  if q.profile c.port = 2 ∧ (q.port c.port).wel ∧ (q.port c.port).addr4 = false ∧ c.addr = 0 ∧ c.data = [0xE7] then
    q.modPort c.port (fun p => { p with wire := .octal, addr4 := true, wel := false })
  else q.refuse c 0x81 .address 10000

theorem exec_writeVolatileConfiguration (c : SpiCmd) (s : State) :
    exec (.writeVolatileConfiguration c) s = (s.fresh.disarm c.port).plainCmd c ⟨0x81, 9, [.w111], 0, 0⟩
      (fun q => q.passThrough c 0x81 false) (fun q => q.refuse c 0x81 .address 10000) (volatileConfiguration c) := rfl

theorem exec_chipErase (c : SpiCmd) (alt : Bool) (s : State) :
    exec (.chipErase c alt) s = (s.fresh.disarm c.port).plainCmd c ⟨0xC7, 6, allModes, 0, if alt then 0x60 else 0⟩
      (fun q => q.refuse c (if alt then 0x60 else 0xC7) .clocks 20000000)
      (fun q => q.listRefuse c (if alt then 0x60 else 0xC7) .clocks 20000000)
      (fun q => q.listRefuse c (if alt then 0x60 else 0xC7) .clocks 20000000) := rfl

theorem exec_writeStatusRegister (c : SpiCmd) (s : State) :
    exec (.writeStatusRegister c) s = (s.fresh.disarm c.port).plainCmd c ⟨0x01, 7, [.w111, .w444], 0, 0⟩
      (fun q => q.refuse c 0x01 .data 10000) (fun q => q.refuse c 0x01 .data 10000)
      (fun q => q.refuse c 0x01 .data 10000) := rfl

theorem exec_securityRegisterCommand (c : SpiCmd) (e : Bool) (s : State) :
    exec (.securityRegisterCommand c e) s =
      (s.fresh.disarm c.port).plainCmd c { op := if e then 0x44 else 0x42, cls := 0, modes := [] }
      (fun q => q.refuse c (if e then 0x44 else 0x42) .address 10000) (fun q => q.unknownCmd c.port)
      (fun q => q.unknownCmd c.port) := rfl

theorem volatileConfiguration_octal (c : SpiCmd) (q : State) (h : q.profile c.port = 2 ∧ (q.port c.port).wel = true ∧
    (q.port c.port).addr4 = false ∧ c.addr = 0 ∧ c.data = [0xE7]) : volatileConfiguration c q =
      q.modPort c.port (fun p => { p with wire := .octal, addr4 := true, wel := false }) := if_pos h

theorem volatileConfiguration_refused (c : SpiCmd) (q : State) (h : ¬(q.profile c.port = 2 ∧ (q.port c.port).wel = true ∧
    (q.port c.port).addr4 = false ∧ c.addr = 0 ∧ c.data = [0xE7])) : volatileConfiguration c q =
      q.refuse c 0x81 .address 10000 := if_neg h

/-- The disarmed port presents the WEL and the address width of before, at the profile of before. -/
theorem State.disarm_presents (s : State) (n : Nat) (h : n < s.ports.length) :
    (s.fresh.disarm n).profile n = s.profile n ∧ ((s.fresh.disarm n).port n).wel = (s.port n).wel ∧
    ((s.fresh.disarm n).port n).addr4 = (s.port n).addr4 ∧ ((s.fresh.disarm n).port n).wire = (s.port n).wire := by
  rw [s.disarm_port n h]
  exact ⟨rfl, rfl, rfl, rfl⟩

/-- Settles O24: the refused rows through `refuse`, the exceptions by their own rule. -/
theorem flashRefusals : Obligations.FlashRefusals := by
  refine ⟨fun c alt s hready hwel => ?_, fun c alt s hready hwel => ?_, fun c alt s hclear => ?_, fun c s hready => ?_,
    fun c s hclear => ?_, fun c s hready hnot => ?_, fun c s hready hlisted hprofile hwel haddr4 haddr hdata => ?_,
    fun c e s hclear => ?_, fun c e s hpow hn hm => ?_, fun c op s hpow hn hm => ?_, fun c op s hclear hop => ?_⟩
  · have hrefuse : (s.fresh.disarm c.port).listRefuse c (if alt then 0x60 else 0xC7) .clocks 20000000 =
        (s.fresh.disarm c.port).refuse c (if alt then 0x60 else 0xC7) .clocks 20000000 :=
      if_pos (by rw [(s.disarm_presents c.port hready.2.1).2.1, hwel])
    rw [exec_chipErase]
    exact s.plainCmd_refuses c ⟨0xC7, 6, allModes, 0, if alt then 0x60 else 0⟩ _ _ _ _ _ _ hready (.inr (.inl rfl))
      (fun _ => hrefuse) (fun _ => hrefuse)
  · have hignore : (s.fresh.disarm c.port).listRefuse c (if alt then 0x60 else 0xC7) .clocks 20000000 =
        s.fresh.disarm c.port := if_neg (by rw [(s.disarm_presents c.port hready.2.1).2.1, hwel]; decide)
    refine ⟨s.fresh.disarm c.port, ?_, s.disarm_port c.port hready.2.1, rfl⟩
    rw [exec_chipErase]
    have hready' : s.flashReady c ⟨0xC7, 6, allModes, 0, if alt then 0x60 else 0⟩ := hready
    by_cases hl : s.flashListed c ⟨0xC7, 6, allModes, 0, if alt then 0x60 else 0⟩
    · rw [(State.plainCmd_ready s (s.fresh.disarm c.port) c _ _ _ _ hready' rfl
        ⟨_, s.disarm_port c.port hready.2.1⟩ rfl).1 hl, hignore]
    · rw [(State.plainCmd_ready s (s.fresh.disarm c.port) c _ _ _ _ hready' rfl
        ⟨_, s.disarm_port c.port hready.2.1⟩ rfl).2 hl, if_pos (.inr (.inl rfl)), hignore]
  · rw [exec_chipErase]
    exact s.plainCmd_clear_refuses c _ _ .clocks 20000000 _ _ _ hclear rfl
  · rw [exec_writeStatusRegister]
    exact s.plainCmd_refuses c _ 0x01 .data 10000 _ _ _ hready (.inr (.inr (.inl rfl))) (fun _ => rfl) (fun _ => rfl)
  · rw [exec_writeStatusRegister]
    exact s.plainCmd_clear_refuses c _ 0x01 .data 10000 _ _ _ hclear rfl
  · obtain ⟨hprofile, hwel, haddr4, -⟩ := s.disarm_presents c.port hready.2.1
    rw [exec_writeVolatileConfiguration]
    refine s.plainCmd_refuses c _ 0x81 .address 10000 _ _ _ hready (.inr (.inr (.inr rfl))) (fun _ => rfl)
      (fun hl => volatileConfiguration_refused c _ ?_)
    rw [hprofile, hwel, haddr4]
    exact fun h => hnot ⟨hl, h⟩
  · obtain ⟨hprofile', hwel', haddr4', -⟩ := s.disarm_presents c.port hready.2.1
    rw [exec_writeVolatileConfiguration, (State.plainCmd_ready s (s.fresh.disarm c.port) c _ _ _ _ hready rfl
      ⟨_, s.disarm_port c.port hready.2.1⟩ rfl).1 hlisted, volatileConfiguration_octal c _
      ⟨hprofile'.trans hprofile, hwel'.trans hwel, haddr4'.trans haddr4, haddr, hdata⟩]
    exact ⟨_, rfl, rfl, (s.disarm_mod c.port _ hready.2.1).1⟩
  · rw [exec_securityRegisterCommand]
    exact s.plainCmd_clear_refuses c _ _ .address 10000 _ _ _ hclear rfl
  · obtain ⟨hport, -, hout⟩ := s.disarm_unknown c.port hn
    exact ⟨_, (exec_securityRegisterCommand c e s).trans (s.plainCmd_no_modes c _ _ _ _ hpow hn hm), hport, hout⟩
  · obtain ⟨hport, -, hout⟩ := s.disarm_unknown c.port hn
    obtain ⟨hheard, hon, hmode⟩ := s.manifest_unknown c hpow hn hm
    refine ⟨_, ?_, hport, hout⟩
    change execUnknownCommand c op s = _
    unfold execUnknownCommand
    dsimp only
    rw [hheard, if_neg (ne_true_of_eq_false hon), if_neg hmode]
  · exact ⟨_, (exec_unknownCommand_clear c op s hclear).trans (congrArg _ (if_pos hop)),
      s.heard_refuse c op .data 10000 hclear.2.1 hclear.2.2.1⟩

/-! ### QPI, reset and busy times (O25) -/

theorem exec_enterQpi (c : SpiCmd) (s : State) :
    exec (.enterQpi c) s = (s.fresh.disarm c.port).plainCmd c ⟨0x38, 9, [.w111], 0, 0⟩
      (fun q => q.passThrough c 0x38 false) (fun q => q.refuse c 0x38 .clocks 10000)
      (fun q => if q.profile c.port = 1 then q.modPort c.port (fun p => { p with wire := .qpi }) else q) := rfl

theorem exec_exitQpi (c : SpiCmd) (s : State) :
    exec (.exitQpi c) s = (s.fresh.disarm c.port).plainCmd c { op := 0x38, cls := 9, modes := [.w444], other := 0xF5 }
      (fun q => (q.passThrough c 0xF5 false).leaveQpi c.port) (fun q => q.refuse c 0xF5 .clocks 10000)
      (fun q => q.leaveQpi c.port) := rfl

theorem exec_stileReset (c : SpiCmd) (s : State) :
    exec (.stileReset c) s = (s.fresh.disarm c.port).plainCmd c { op := 0x66, cls := 10, modes := allModes, other := 0x99 }
      (fun q => if (s.port c.port).resetArmed then (q.passThrough c 0x99 false).portResetWire c.port
        else q.passThrough c 0x99 false)
      (fun q => q.unknownCmd c.port)
      (fun q => if (s.port c.port).resetArmed then q.portResetWire c.port else q) := rfl

/-- What a refusal by the list is on a row of class REGISTER (R137). -/
theorem State.plainCmd_unlisted_refuses (s : State) (c : SpiCmd) (r : OpRow) (op : Nat) (cut : CutAt) (busy : Nat)
    (f p : State → State) (hready : s.flashReady c r) (hcls : r.cls = 9) (hl : ¬s.flashListed c r) :
    ∃ t, (s.fresh.disarm c.port).plainCmd c r f (fun q => q.refuse c op cut busy) p = .next t ∧
      s.refusedAs t c.port busy ∧ t.out = [] :=
  s.plainCmd_refuses c r op cut busy _ _ _ hready (.inr (.inr (.inr hcls))) (fun _ => rfl) (fun h => absurd h hl)

/-- Settles O25: the QPI and reset rows on both paths, the reset pin, and the ends of busy times. -/
theorem flashResets : Obligations.FlashResets := by
  refine ⟨fun c s hready hlisted => ?_, fun c s hready hunlisted => ?_, fun c s hclear => ?_, fun c s hready hlisted => ?_,
    fun c s hready hunlisted => ?_, fun c s hclear => ?_, fun c s hready hlisted => ?_, fun c s hready hunlisted => ?_,
    fun c s hclear => ?_, fun n s hn => ?_, fun n f s hn hbusy hend => ?_, fun n s hbusy => ?_,
    fun n idle s hn hpassed hmode hpoll => ?_⟩
  · obtain ⟨hprofile, -, -, hwire⟩ := s.disarm_presents c.port hready.2.1
    rw [exec_enterQpi, (State.plainCmd_ready s (s.fresh.disarm c.port) c _ _ _ _ hready rfl
      ⟨_, s.disarm_port c.port hready.2.1⟩ rfl).1 hlisted, hprofile]
    refine ⟨_, rfl, ?_⟩
    by_cases h1 : s.profile c.port = 1
    · obtain ⟨hport, hother⟩ := s.disarm_mod c.port (fun p => { p with wire := .qpi }) hready.2.1
      rw [if_pos h1, if_pos h1]
      exact ⟨rfl, hother, hport⟩
    · rw [if_neg h1, if_neg h1]
      exact ⟨rfl, fun m hm => State.modPort_port_other _ _ _ _ hm, s.disarm_port c.port hready.2.1⟩
  · rw [exec_enterQpi]
    exact s.plainCmd_unlisted_refuses c _ _ _ _ _ _ hready rfl hunlisted
  · obtain ⟨hport, hother⟩ := s.heard_ports _ c.port hclear.2.1 rfl
    rw [exec_enterQpi, s.plainCmd_clear c _ _ _ _ hclear]
    exact ⟨_, rfl, hport, hother, s.heard_out_append c.port _ hclear.2.1⟩
  · obtain ⟨hport, hother⟩ := s.disarm_mod c.port (fun p => { p with wire := .spi, addr4 := false, wel := false }) hready.2.1
    rw [exec_exitQpi, (State.plainCmd_ready s (s.fresh.disarm c.port) c { op := 0x38, cls := 9, modes := [.w444], other := 0xF5 }
      _ _ _ hready rfl ⟨_, s.disarm_port c.port hready.2.1⟩ rfl).1 hlisted]
    exact ⟨_, rfl, rfl, hother, hport⟩
  · rw [exec_exitQpi]
    exact s.plainCmd_unlisted_refuses c { op := 0x38, cls := 9, modes := [.w444], other := 0xF5 } _ _ _ _ _ hready rfl
      hunlisted
  · rw [exec_exitQpi, s.plainCmd_clear c _ _ _ _ hclear]
    exact ⟨_, rfl, s.passThrough_mod c 0xF5 (fun p => { p with wire := .spi, addr4 := false, wel := false }) hclear.2.1⟩
  · rw [exec_stileReset, (State.plainCmd_ready s (s.fresh.disarm c.port) c
      { op := 0x66, cls := 10, modes := allModes, other := 0x99 } _ _ _ hready rfl
      ⟨_, s.disarm_port c.port hready.2.1⟩ rfl).1 hlisted]
    refine ⟨_, rfl, ?_⟩
    by_cases harmed : (s.port c.port).resetArmed = true
    · obtain ⟨hport, hother⟩ := s.disarm_mod c.port
        (fun p => { p with wire := .spi, addr4 := false, wel := false, busyUntil := none, resetArmed := false }) hready.2.1
      rw [if_pos harmed, if_pos harmed]
      exact ⟨rfl, hother, hport⟩
    · rw [if_neg harmed, if_neg harmed]
      exact ⟨rfl, fun m hm => State.modPort_port_other _ _ _ _ hm, s.disarm_port c.port hready.2.1⟩
  · obtain ⟨hport, hother, hout⟩ := s.disarm_unknown c.port hready.2.1
    rw [exec_stileReset, (State.plainCmd_ready s (s.fresh.disarm c.port) c
      { op := 0x66, cls := 10, modes := allModes, other := 0x99 } _ _ _ hready rfl
      ⟨_, s.disarm_port c.port hready.2.1⟩ rfl).2 hunlisted, ite_self]
    exact ⟨_, rfl, hout, hother, hport⟩
  · rw [exec_stileReset, s.plainCmd_clear c _ _ _ _ hclear]
    refine ⟨_, rfl, ?_⟩
    by_cases harmed : (s.port c.port).resetArmed = true
    · obtain ⟨hport, hother, hout⟩ := s.passThrough_mod c 0x99
        (fun p => { p with wire := .spi, addr4 := false, wel := false, busyUntil := none, resetArmed := false }) hclear.2.1
      rw [if_pos harmed, if_pos harmed]
      refine ⟨hother, hout, hport.trans ?_⟩
      unfold State.portHeard
      split <;> rfl
    · obtain ⟨hport, hother⟩ := s.heard_ports _ c.port hclear.2.1 rfl
      rw [if_neg harmed, if_neg harmed]
      exact ⟨hother, s.heard_out_append c.port _ hclear.2.1, hport⟩
  · exact ⟨_, rfl, State.modPort_port_self _ _ _ hn, fun m hm => State.modPort_port_other _ _ _ _ hm⟩
  · refine ⟨s.fresh.modPort n (fun p => { p with busyUntil := none }), congrArg Host.Outcome.next ?_,
      State.modPort_port_self _ _ _ hn, fun m hm => State.modPort_port_other _ _ _ _ hm⟩
    rw [show (s.fresh.port n).busyUntil = some f from hbusy]
    exact if_neg (Nat.not_lt.mpr hend)
  · refine congrArg Host.Outcome.next ?_
    cases hb : (s.port n).busyUntil with
    | none => rw [show (s.fresh.port n).busyUntil = none from hb]
    | some f =>
      rw [show (s.fresh.port n).busyUntil = some f from hb]
      exact if_pos (hbusy f hb)
  · refine ⟨_, congrArg Host.Outcome.next (if_pos ⟨hpassed, hmode, hpoll⟩), rfl, State.modPort_port_self _ _ _ hn,
      fun m hm => State.modPort_port_other _ _ _ _ hm⟩

end Sys2Proof.Machine

/-! # Settled: verification of the ports, their tags, sweeps, trials and recovery (O26) -/

namespace Sys2Proof.Machine

open Sys2Proof

/-! ### Verification -/

/-- A new tag key leaves the port's trial, fallback and ledger. -/
theorem State.freshTagKey_keeps_choice (s : State) {n : Nat} (hn : n < s.ports.length) :
    ((s.freshTagKey n).port n).trialServed = (s.port n).trialServed ∧
    ((s.freshTagKey n).port n).fallbackOf = (s.port n).fallbackOf ∧
    ((s.freshTagKey n).port n).ledger = (s.port n).ledger := by
  have hkeys : s.only [.tack] (((s.draw 32).2.hold (serviceKey 2 0x06 0x0400 (s.draw 32).1)).2.unhold 2 (s.port n).tagKey) :=
    State.unhold_only _ _ _ (List.Subset.refl _) (State.hold_only _ _ (List.Subset.refl _)
      (State.draw_only s 32 (List.Subset.refl _) (State.only_refl _ s)))
  have hports := hkeys .ports (by decide)
  unfold State.freshTagKey
  dsimp only
  rw [State.modPort_port_self _ _ _ (by rw [show (State.ports _) = s.ports from hports]; exact hn)]
  exact ⟨congrArg (fun l : List Port => (l.getD n (portReset noBanks)).trialServed) hports,
    congrArg (fun l : List Port => (l.getD n (portReset noBanks)).fallbackOf) hports,
    congrArg (fun l : List Port => (l.getD n (portReset noBanks)).ledger) hports⟩

/-- Reading a source leaves the port's trial, fallback and ledger. -/
theorem State.sourceRead_keeps_choice (s : State) {n : Nat} (x : Slot) (d : Option (List Bytes)) (hn : n < s.ports.length) :
    ((s.sourceRead n x d).port n).trialServed = (s.port n).trialServed ∧
    ((s.sourceRead n x d).port n).fallbackOf = (s.port n).fallbackOf ∧
    ((s.sourceRead n x d).port n).ledger = (s.port n).ledger := by
  obtain ⟨hreads, -, -⟩ := (s.fresh.freshTagKey n).regionReads_sub n x (regionsRead (imageRegions (s.manifest n x)) d)
  have hport := congrArg (fun l : List Port => l.getD n (portReset noBanks)) hreads
  obtain ⟨htrial, hfallback, hledger⟩ := s.fresh.freshTagKey_keeps_choice hn
  exact ⟨(congrArg Port.trialServed hport).trans htrial, (congrArg Port.fallbackOf hport).trans hfallback,
    (congrArg Port.ledger hport).trans hledger⟩

theorem State.nextSource_of_ledger {s t : State} {n : Nat} (h : (t.port n).ledger = (s.port n).ledger) (x : Option Slot)
    (trial : Bool) (fb : Option Slot) : t.nextSource n x trial fb = s.nextSource n x trial fb := by
  unfold State.nextSource State.portLedger
  rw [h]

/-- A source that fails, with no trial served and no other source, fails the verification (R167). -/
theorem State.sourceFail_last (s : State) (n : Nat) (x : Slot) (r : Nat) (htrial : (s.port n).trialServed = false)
    (hnext : s.nextSource n (some x) false (s.port n).fallbackOf = none) : s.sourceFail n x r = s.verifyFail n r := by
  simp only [State.sourceFail, htrial, hnext, Bool.false_eq_true, if_false]

/-- START_VERIFICATION_END of a source with a fault fails that source, read or unread (R167, R168). -/
theorem exec_startVerificationEnd_of_fault {n : Nat} {x : Slot} {d : Option (List Bytes)} {r : Nat} {s : State}
    (hop : s.core.op.working = true) (hmode : (s.port n).mode = .manifest) (hphase : (s.port n).phase = .verify)
    (hcand : (s.port n).cand = some x) (hreason : s.sourceReason n x d = r) (hr : r ≠ 0)
    (hhash : r = 3 ∨ r = 4 → s.hashed n x d) :
    ∃ u, exec (.startVerificationEnd n d) s = .next (u.sourceFail n x r) ∧ (u = s.fresh ∨ u = s.sourceRead n x d) := by
  have hreason' : s.fresh.sourceReason n x d = r := hreason
  have hrange : (r == 2 || r == 7 || r == 5 || r == 6) = false → r = 3 ∨ r = 4 := by
    intro hlate
    have hsome : s.sourceReason n x d ∈ [2, 7, 5, 6, 4, 0, 3] := by
      unfold State.sourceReason
      dsimp only
      repeat' split
      all_goals simp
    rw [hreason] at hsome
    simp only [Bool.or_eq_false_iff, beq_eq_false_iff_ne] at hlate
    simp only [List.mem_cons, List.not_mem_nil, or_false] at hsome
    omega
  cases hearly : (r == 2 || r == 7 || r == 5 || r == 6) with
  | true =>
    refine ⟨s.fresh, ?_, .inl rfl⟩
    change execStartVerificationEnd n d s = _
    simp only [execStartVerificationEnd, State.fresh_core, State.fresh_port_read, hop, hmode, hphase, hcand, hreason', hearly,
      Bool.not_true, Bool.false_eq_true, false_and, and_self, if_true, if_false]
    rw [if_pos hr]
  | false =>
    refine ⟨s.sourceRead n x d, ?_, .inr rfl⟩
    have hwait : ¬ s.fresh.digestTaken n < sha384Frames ((regionsRead (imageRegions (s.fresh.manifest n x)) d).map (·.len)) :=
      Nat.not_lt.mpr (hhash (hrange hearly))
    change execStartVerificationEnd n d s = _
    simp only [execStartVerificationEnd, State.fresh_core, State.fresh_port_read, hop, hmode, hphase, hcand, hreason', hearly,
      hwait, Bool.false_eq_true, and_false, and_self, if_true, if_false]
    rw [if_pos hr]
    rfl

theorem State.sourceRead_length (s : State) (n : Nat) (x : Slot) (d : Option (List Bytes)) :
    (s.sourceRead n x d).ports.length = s.ports.length := by
  obtain ⟨hreads, -, -⟩ := (s.fresh.freshTagKey n).regionReads_sub n x (regionsRead (imageRegions (s.manifest n x)) d)
  exact (congrArg List.length hreads).trans (s.fresh.freshTagKey_facts n).1

theorem State.fillPort_length (s : State) (n : Nat) (x : Slot) (d : List Bytes) :
    (s.fillPort n x d).ports.length = s.ports.length :=
  congrArg List.length (State.fillPort_only s n x d (List.Subset.refl _) (State.only_refl _ s) .ports (by decide))

@[simp] theorem State.logEv_port (s : State) (d : LogDesc) (n : Nat) : (s.logEv d).port n = s.port n := rfl
@[simp] theorem State.ev_port (s : State) (sub fam : Nat) (e : Config.Ev) (l : List Nat) (n : Nat) :
    (s.ev sub fam e l).port n = s.port n := rfl
@[simp] theorem State.latch_port (s : State) (g k n : Nat) : (s.latch g k).port n = s.port n := rfl

theorem State.port_of_ports {s t : State} (h : t.ports = s.ports) (n : Nat) : t.port n = s.port n := by
  unfold State.port; rw [h]

/-- A measured port serves (R25). -/
theorem State.measured_serves (s : State) (n : Nat) (h : n < s.ports.length) :
    (((s.dropDigest n).latch (portGroup n) 1).setPhase n .serve).port n = { s.port n with phase := .serve } := by
  have hports : ((s.dropDigest n).latch (portGroup n) 1).ports = s.ports := State.dropDigest_ports s n
  rw [(State.setPhase_port _ n .serve (by rw [hports]; exact h)).1, State.latch_port,
    State.port_of_ports (State.dropDigest_ports s n)]

/-- A measurement whose reads and digest are complete (R25). -/
theorem exec_measurementRecorded {n : Nat} {data : Bytes} {s : State} (hn : n < s.ports.length)
    (hdone : s.core.op.working = true ∧ (s.port n).mode = .measure ∧ (s.port n).phase = .verify ∧ s.sup.hold = false ∧
      data.length = (s.port n).measureLen ∧ 8 * (s.port n).measureLen ≤ (s.port n).measBits ∧
      sha384Frames [(s.port n).measureLen] ≤ s.digestTaken n) :
    ∃ t, exec (.measurementRecorded n data) s = .next t ∧ (t.port n).measDigest = some (sha384 data) ∧
      (t.port n).verdict = .pass ∧ (t.port n).reason = 0 ∧ (t.port n).phase = .serve := by
  refine ⟨_, congrArg Host.Outcome.next (if_pos hdone), ?_⟩
  rw [State.logEv_port, State.measured_serves _ _ (by rw [State.modPort_length]; exact hn),
    State.modPort_port_self s.fresh n _ hn]
  exact ⟨rfl, rfl, rfl, rfl⟩

/-! ### Tags, sweeps, trials and recovery -/

theorem State.tagFailed_tagFail (s : State) (n host a : Nat) (h : n < s.ports.length) :
    ((s.tagFailed n host a).port n).tagFail = (s.port n).tagFail + 1 := by
  have hmod := State.modPort_port_self s n (fun p => { p with tagFail := p.tagFail + 1, failAt := some s.now }) h
  have hlen := State.modPort_length s n (fun p => { p with tagFail := p.tagFail + 1, failAt := some s.now })
  unfold State.tagFailed
  dsimp only
  split
  · exact congrArg Port.tagFail hmod
  · exact (State.failResponse_port (State.ev _ 3 5 .tagFail [n, host, a]) n (hlen ▸ h)).2.2.2.trans (congrArg Port.tagFail hmod)

/-- The end of a sweep: the next one begins when one was asked for (R163). -/
theorem exec_sweepComplete {n f : Nat} {s : State} (hn : n < s.ports.length) (hsweep : (s.port n).sweep = some f)
    (hshed : s.shedLost = false) (hend : s.sweepLen n ≤ (s.port n).sweepAt) :
    ∃ t, exec (.sweepComplete n) s = .next t ∧
      (t.port n).sweep = (if (s.port n).sweepAgain then some s.now else none) ∧ (t.port n).sweepAgain = false := by
  have hended : ∀ (u : State) (p : Port), n < u.ports.length → u.port n = p → p.sweep = none → p.sweepAgain = false →
      ((u.beginSweep n).port n).sweep = some u.now ∧ ((u.beginSweep n).port n).sweepAgain = false := by
    intro u p hu hp hnone hagain
    unfold State.beginSweep
    rw [hp, hnone]
    dsimp only
    rw [State.ev_port, State.latch_port, State.modPort_port_self _ _ _ hu, hp]
    exact ⟨rfl, hagain⟩
  have hgo : ¬(s.fresh.shedLost = true ∨ (s.port n).sweepAt < s.fresh.sweepLen n) := fun h =>
    h.elim (fun e => by rw [show s.fresh.shedLost = s.shedLost from rfl, hshed] at e; cases e) (Nat.not_lt.mpr hend)
  have hport := State.modPort_port_self s.fresh n (fun p => { p with sweep := none, sweepAgain := false, sweepLate := false }) hn
  change ∃ t, execSweepComplete n s = .next t ∧ _
  unfold execSweepComplete
  dsimp only
  rw [State.fresh_port_read, hsweep]
  dsimp only
  rw [if_neg hgo]
  refine ⟨_, rfl, ?_⟩
  cases (s.port n).sweepAgain with
  | true =>
    exact hended _ _ (by rw [State.ev_ports, State.latch_ports, State.modPort_length]; exact hn)
      (by rw [State.ev_port, State.latch_port, hport]) rfl rfl
  | false =>
    rw [if_neg (by decide), if_neg (by decide), State.ev_port, State.latch_port, hport]
    exact ⟨rfl, rfl⟩

/-- A port whose tag lane has read the block at `host`, of tag `idx` (R159, R160). -/
def Port.tagRead (p : Port) (host idx : Nat) : Port :=
  let q := if (getKey p.tagPend host).isSome then p else p.sweepOn idx
  { q with debts := p.debts.filter (· != idx), tagPend := dropKey p.tagPend host }

/-- A platform tag's verdict (R159 to R162). -/
theorem exec_tagVerdict {n host k cs a idx : Nat} {block : Bytes} {s : State}
    (hgo : s.core.op.powered = true ∧ (s.port n).mode = .manifest ∧ ((s.port n).phase = .serve ∨ (s.port n).phase = .update) ∧
      s.shedLost = false ∧ (s.lane n).disabled = false ∧ (s.lane n).needTest = false)
    (hplace : s.blockPlace n host = some (k, cs, a)) (hidx : s.tagIdx n host = some idx) :
    exec (.tagVerdict n host block) s = .next (
      if (tagAt s.tagTable idx == some (blockTag (s.port n).tagSecret n cs k a ((getKey (s.port n).tagPend host).getD block)))
        then s.fresh.modPort n (·.tagRead host idx) else (s.fresh.modPort n (·.tagRead host idx)).tagFailed n host a) := by
  refine (congrArg Host.Outcome.next (if_pos hgo)).trans ?_
  rw [show s.fresh.blockPlace n host = _ from hplace, show s.fresh.tagIdx n host = _ from hidx]
  rfl

/-- The last port to recover leads to HOLDING (R182). -/
theorem exec_recoveryComplete {n : Nat} {h : HoldInput} {s : State} (hn : n < s.ports.length)
    (hgo : s.core.op = .recovery ∧ s.haltLatched = false ∧ (s.port n).recovering = true ∧
      ((s.port n).phase = .serve ∨ (s.port n).phase = .hold)) :
    ∃ t u, exec (.recoveryComplete n h) s = .next t ∧
      t = (if u.ports.any (·.recovering) then u else (u.setOp .holding).holdingActs h) ∧ u.core = s.core ∧
      u.ports.length = s.ports.length ∧ u.port n = { s.port n with recovering := false, recHold := false } ∧
      ∀ m, m ≠ n → u.port m = s.port m := by
  refine ⟨_, _, congrArg Host.Outcome.next (if_pos hgo), rfl, ?_⟩
  have hhold : ∀ b : Bool, (if b then s.fresh else s.fresh.endPortHold n).ports = s.ports ∧
      (if b then s.fresh else s.fresh.endPortHold n).core = s.core := by
    intro b
    cases b
    · exact ⟨State.endPortHold_only s.fresh n (List.Subset.refl _) (State.only_refl _ _) .ports (by decide),
        State.endPortHold_only s.fresh n (List.Subset.refl _) (State.only_refl _ _) .core (by decide)⟩
    · exact ⟨rfl, rfl⟩
  obtain ⟨hports, hcore⟩ := hhold (s.fresh.port n).recHold
  refine ⟨hcore, (State.modPort_length _ _ _).trans (congrArg List.length hports), ?_, fun m hm => ?_⟩
  · rw [State.ev_port, State.latch_port, State.modPort_port_self (if (s.fresh.port n).recHold then s.fresh else s.fresh.endPortHold n) n _ (by rw [hports]; exact hn)]
    rw [State.port_of_ports hports]
  · rw [State.ev_port, State.latch_port, State.modPort_port_other _ _ _ _ hm]
    rw [State.port_of_ports hports]

theorem State.holdingActs_op (s : State) (h : HoldInput) (hop : s.core.op ≠ .holding) :
    ((s.setOp .holding).holdingActs h).core.op = .holding := by
  have hentry : ((s.setOp .holding).holdingEntry h).core = (s.setOp .holding).core :=
    State.holdingEntry_only _ h (List.Subset.refl _) (State.only_refl _ _) .core (by decide)
  have hbegin : ∀ u : State, u.beginSchedule.core = u.core := fun _ => rfl
  unfold State.holdingActs
  rw [hbegin, hentry]
  unfold State.setOp
  rw [if_neg hop]
  rfl

/-- Settles O26: measurement, source verdict, tag verdict, debt read, sweep, trial and recovery, each by its command. -/
theorem flashVerification : Obligations.FlashVerification := by
  refine ⟨fun n data s hn hop hmode hphase hhold hlen hbits hhash => ?_,
    fun n data x s hn hop hmode hphase hcand hreason hhash hfits => ?_,
    fun n data x r s hn hop hmode hphase hcand hreason hr hhash htrial hnext => ?_,
    fun n host block k cs a idx s hn hpow hmode hphase hshed hlane htest hplace hidx => ?_,
    fun n idx l h k cs a s hpow hmode hphase hbusy hdebts hhost hplace => ?_,
    fun n f s hn hsweep hshed hend => exec_sweepComplete hn hsweep hshed hend,
    fun n f s hn hsweep hlate hend => ?_, fun n e s hn htrial hend => ?_,
    fun n h s hn hop hhalt hrec hphase => ?_⟩
  · exact exec_measurementRecorded hn ⟨hop, hmode, hphase, hhold, hlen, hbits, hhash⟩
  · have hlength : n < ((s.sourceRead n x data).fillPort n x (data.getD [])).ports.length := by
      rw [State.fillPort_length, State.sourceRead_length]; exact hn
    refine ⟨_, (exec_startVerificationEnd_of_source hop hmode hphase hcand hreason hhash hn).trans
      (if_pos (decide_eq_true hfits)), State.sourcePass_facts _ n x hlength⟩
  · obtain ⟨u, hexec, hu⟩ := exec_startVerificationEnd_of_fault hop hmode hphase hcand hreason hr hhash
    have hkeep : (u.port n).trialServed = (s.port n).trialServed ∧ (u.port n).fallbackOf = (s.port n).fallbackOf ∧
        (u.port n).ledger = (s.port n).ledger ∧ n < u.ports.length := by
      rcases hu with rfl | rfl
      · exact ⟨rfl, rfl, rfl, hn⟩
      · obtain ⟨h1, h2, h3⟩ := s.sourceRead_keeps_choice x data hn
        exact ⟨h1, h2, h3, by rw [State.sourceRead_length]; exact hn⟩
    obtain ⟨hserved, hfallback, hledger, hlength⟩ := hkeep
    refine ⟨_, hexec, ?_⟩
    rw [State.sourceFail_last u n x r (hserved.trans htrial) (by rw [hfallback, State.nextSource_of_ledger hledger, hnext])]
    exact State.verifyFail_facts u n r hlength
  · have hport : (s.fresh.modPort n (·.tagRead host idx)).port n = (s.port n).tagRead host idx :=
      State.modPort_port_self s.fresh n _ hn
    refine ⟨_, exec_tagVerdict ⟨hpow, hmode, hphase, hshed, hlane, htest⟩ hplace hidx, fun hpass => ?_, fun hfail => ?_⟩
    · rw [if_pos (by rw [hpass]; exact beq_self_eq_true _)]
      exact ⟨hport, rfl⟩
    · rw [if_neg (by rw [beq_eq_false_iff_ne.mpr hfail]; decide), State.tagFailed_tagFail _ _ _ _ (by
        rw [State.modPort_length]; exact hn), hport]
      unfold Port.tagRead Port.sweepOn
      dsimp only
      split
      · rfl
      · split <;> rfl
  · refine ⟨s.fresh.emit (.down n cs (downOp (s.port n).down) a []),
      (congrArg Host.Outcome.next (if_pos (show s.fresh.core.op.powered = true ∧ _ from ⟨hpow, hmode, hphase⟩))).trans ?_,
      rfl, rfl⟩
    have hblock : s.fresh.readBlock n idx = some (s.fresh.emit (.down n cs (downOp (s.port n).down) a [])) := by
      unfold State.readBlock
      rw [show s.fresh.hostOfTag n idx = _ from hhost, Option.bind_some, show s.fresh.blockPlace n h = _ from hplace]
      exact if_neg (ne_true_of_eq_false hbusy)
    rw [show (s.fresh.port n).debts = _ from hdebts]
    dsimp only
    rw [hblock]
  · change ∃ t, execSweepLate n s = .next t ∧ _
    unfold execSweepLate
    dsimp only
    rw [State.fresh_port_read, hsweep]
    refine ⟨_, congrArg Host.Outcome.next (if_neg ?_), ?_⟩
    · rw [hlate]
      exact fun h => h.elim (fun e => by cases e) (Nat.not_lt.mpr hend)
    · rw [State.ev_port, State.latch_port, State.modPort_port_self s.fresh n _ hn, State.fresh_port_read, hsweep]
  · change ∃ t, execPlatformTrialExpiry n s = .next t ∧ _
    unfold execPlatformTrialExpiry
    dsimp only
    rw [State.fresh_port_read, htrial]
    refine ⟨_, congrArg Host.Outcome.next (if_neg (Nat.not_lt.mpr hend)), ?_⟩
    unfold State.recoverAsk
    rw [State.modPort_port_self _ _ _ (by rw [State.ev_ports, State.latch_ports, State.modPort_length]; exact hn),
      State.ev_port, State.latch_port, State.modPort_port_self s.fresh n _ hn]
    rfl
  · obtain ⟨t, u, hexec, ht, hcore, hlength, hport, hother⟩ := exec_recoveryComplete (h := h) hn ⟨hop, hhalt, hrec, hphase⟩
    refine ⟨t, hexec, fun hlast => ?_, fun m hm hlen hmrec => ?_⟩
    · have hnone : u.ports.any (·.recovering) = false := by
        rw [List.any_eq_false]
        intro p hp
        obtain ⟨m, hmlen, rfl⟩ := List.getElem_of_mem hp
        have hget : u.ports[m] = u.port m := by simp [State.port, List.getD_eq_getElem?_getD, hmlen]
        rw [hget]
        by_cases hm : m = n
        · rw [hm, hport]; exact Bool.false_ne_true
        · rw [hother m hm, hlast m hm]; exact Bool.false_ne_true
      rw [ht, if_neg (by rw [hnone]; decide)]
      exact State.holdingActs_op u h (by rw [hcore, hop]; decide)
    · have hmlen : m < u.ports.length := by rw [hlength]; exact hlen
      have hsome : u.ports.any (·.recovering) = true := by
        refine List.any_eq_true.mpr ⟨u.ports[m], List.getElem_mem hmlen, ?_⟩
        have hget : u.ports[m] = u.port m := by simp [State.port, List.getD_eq_getElem?_getD, hmlen]
        rw [hget, hother m hm, hmrec]
      rw [ht, if_pos hsome, hcore]
      exact ⟨hop, hport⟩

end Sys2Proof.Machine

/-! # Settled: the PLDM firmware device (O27) -/

namespace Sys2Proof.Machine

open Sys2Proof

/-! ### Answers -/

theorem State.pldmReply_pldm (s : State) (t cmd code : Nat) (p : Bytes) : (s.pldmReply t cmd code p).pldm = s.pldm :=
  State.pldmSend_pldm _ _ _ _

/-- An answer with nothing out before it: the message, and its announcement (R177, R186). -/
theorem State.pldmReply_out (s : State) (t cmd code : Nat) (p : Bytes) (h : s.out = []) :
    (s.pldmReply t cmd code p).out = .pldm t cmd (leN 1 code ++ p) :: s.announced (transportBus t) := by
  unfold State.pldmReply
  rw [State.pldmSend_out, h]
  rfl

/-- A request that only answers (R177). -/
theorem State.pldmReq_answers (s : State) (t src cmd code : Nat) (p : Bytes) (f : State → State) (h : s.pldmOpen t src)
    (hf : f s.fresh = s.fresh.pldmReply t cmd code p) :
    ∃ u, s.pldmReq t src cmd f = .next u ∧ u.out = .pldm t cmd (leN 1 code ++ p) :: s.announced (transportBus t) ∧
      u.pldm = s.pldm :=
  ⟨_, (s.pldmReq_open t src cmd f h).trans (congrArg _ hf), s.fresh.pldmReply_out t cmd code p rfl,
    s.fresh.pldmReply_pldm t cmd code p⟩

/-! ### The transfer -/

/-- A transfer that fails leaves no more of it than its end (R92, R179). -/
theorem State.updateFails_rest (s : State) (cmd : Nat) (bad : Bool) (r : Nat) :
    (s.updateFails cmd bad r).pldm = s.pldm.rest .ready := by
  unfold State.updateFails
  extract_lets c n s1 s2 s3
  have hledger : s1.pldm = s.pldm := by
    unfold s1
    cases s.pldm.target with
    | none => rfl
    | some x => dsimp only; (repeat' split) <;> rfl
  have hphase : s2.pldm = s.pldm := by
    rw [← hledger]; unfold s2; split
    · exact State.setPhase_pldm s1 n .serve
    · rfl
  rw [State.pldmSend_pldm]
  exact congrArg (·.rest FdState.ready) hphase

/-- A download that is cancelled leaves no more of it than its end (R180). -/
theorem State.endTransfer_rest (s : State) (h : s.pldm.st = .download) : s.endTransfer.pldm = s.pldm.rest .ready := by
  unfold State.endTransfer
  extract_lets c busy n s1 s2 s3
  have hledger : s1.pldm = s.pldm := by
    unfold s1
    cases s.pldm.target with
    | none => rfl
    | some x =>
      dsimp only
      split
      · cases s.ledger with
        | none => rfl
        | some l => dsimp only; split <;> rfl
      · cases s.portLedger n with
        | none => rfl
        | some l => dsimp only; split <;> rfl
  have hphase : s2.pldm = s.pldm := by
    rw [← hledger]; unfold s2; split
    · exact State.setPhase_pldm s1 n .serve
    · rfl
  have hbusy : busy = true := by simp [busy, h]
  rw [if_pos hbusy]
  show s2.pldm.rest (if busy then FdState.ready else s2.pldm.st) = _
  rw [if_pos hbusy, hphase]

/-- Update mode that is left keeps nothing of the transfer (R180). -/
theorem State.leaveUpdate_pldm (s : State) :
    (s.endTransfer.modPldm (fun p => { p with st := .idle, updated := [] })).pldm.st = .idle ∧
    (s.endTransfer.modPldm (fun p => { p with st := .idle, updated := [] })).pldm.target = none ∧
    (s.endTransfer.modPldm (fun p => { p with st := .idle, updated := [] })).pldm.updated = [] :=
  ⟨rfl, s.endTransfer_pldm.1, rfl⟩

/-- Activating the ports' slots touches neither what leaves nor PLDM nor the buses (R172, R179). -/
theorem State.activated_only (s : State) (l : List (Nat × Slot)) :
    s.only [.ports, .log] (l.foldl (fun s c =>
      if c.1 = 0x7100 ∨ compRecovery c.1 then s else s.portActivate (compPort c.1) c.2) s) :=
  foldl_only l _ s (fun u c hu => by
    split
    · exact hu
    · exact State.portActivate_only u _ _ (List.Subset.refl _) hu) (State.only_refl _ s)

theorem State.announced_of_par {s t : State} (h : t.par = s.par) (b : Nat) : t.announced b = s.announced b := by
  unfold State.announced State.dynAddr
  rw [h]

/-- A portion past its manifest is written and goes on, or ends the transfer (R179). -/
theorem State.portionIn_taken (s : State) (x : Slot) (d : Bytes) (ok : Bool) (b : Option (List Bytes))
    (htarget : s.pldm.target = some x) (hcheck : s.pldm.checking = false) (hdone : s.pldm.manifestDone = true) :
    s.portionIn x { data := d, flashOk := ok, readback := b } =
      if ok then ((s.portioned d b).writePortion x s.pldm.received).portionDone
      else (s.portioned d b).updateFails 0x16 true 0x10 := by
  have hhead : (s.portioned d b).updateHead x = s.portioned d b := by
    unfold State.updateHead
    dsimp only
    exact if_pos hdone
  have hgo : ¬((s.portioned d b).pldm.target.isNone = true ∨ (s.portioned d b).pldm.checking = true) := by
    show ¬(s.pldm.target.isNone = true ∨ s.pldm.checking = true)
    simp [htarget, hcheck]
  change (if ((s.portioned d b).updateHead x).pldm.target.isNone = true ∨ ((s.portioned d b).updateHead x).pldm.checking = true
    then (s.portioned d b).updateHead x else if ((s.portioned d b).updateHead x).pldm.manifestDone = true then
      (if (!ok) = true then ((s.portioned d b).updateHead x).updateFails 0x16 true 0x10
        else (((s.portioned d b).updateHead x).writePortion x s.pldm.received).portionDone)
    else ((s.portioned d b).updateHead x).portionDone) = _
  rw [hhead, if_neg hgo, if_pos (show (s.portioned d b).pldm.manifestDone = true from hdone)]
  cases ok <;> rfl

/-- FIRMWARE_DATA_RECEIVED for the transfer that runs (R179). -/
theorem exec_firmwareDataReceived {p src : Nat} {d : Bytes} {ok : Bool} {b : Option (List Bytes)} {x : Slot} {s : State}
    (h : s.portionTaken p src x) : exec (.firmwareDataReceived ⟨p, src⟩ d ok b) s = .next (
      if ok then ((s.fresh.portioned d b).writePortion x s.pldm.received).portionDone
      else (s.fresh.portioned d b).updateFails 0x16 true 0x10) := by
  obtain ⟨hpow, hhalt, hhold, hquar, htarget, hst, htransport, hcheck, hportion, hdone⟩ := h
  have hlate : ¬(s.fresh.core.op.powered = true ∧ s.fresh.fromQuarantine p src = true) := fun e => by
    rw [show s.fresh.fromQuarantine p src = false from hquar] at e
    cases e.2
  have hgo : ¬((!s.core.op.powered) = true ∨ s.pldm.st ≠ .download ∨ s.pldm.transport ≠ p ∨ s.pldm.checking = true ∨
      s.pldm.portion.isSome = true) := by simp [hpow, hst, htransport, hcheck, hportion]
  have hrun : ¬(s.pwr.halted = true ∨ (s.sup.hold = true ∧ (s.pldm.manifestDone = true ∨ s.pldm.component = 0x7100))) := by
    simp [hhalt, hhold]
  change execFirmwareDataReceived ⟨p, src⟩ d ok b s = _
  unfold execFirmwareDataReceived
  dsimp only
  rw [show s.fresh.pldm.target = some x from htarget]
  exact congrArg Host.Outcome.next ((if_neg hlate).trans ((if_neg hgo).trans ((if_neg hrun).trans
    (s.fresh.portionIn_taken x d ok b htarget hcheck hdone))))

theorem portionTaken_transport {p src : Nat} {x : Slot} {s : State} (h : s.portionTaken p src x) : s.pldm.transport = p := by
  obtain ⟨-, -, -, -, -, -, htransport, -⟩ := h
  exact htransport

theorem portionTaken_manifest {p src : Nat} {x : Slot} {s : State} (h : s.portionTaken p src x) :
    s.pldm.manifestDone = true := by
  obtain ⟨-, -, -, -, -, -, -, -, -, hdone⟩ := h
  exact hdone

theorem State.portioned_rest (s : State) (d : Bytes) (b : Option (List Bytes)) (st : FdState) :
    (s.portioned d b).pldm.rest st = s.pldm.rest st := rfl

/-- Writing a portion only lets commands out. -/
theorem State.writePortion_frame (s : State) (x : Slot) (o : Nat) :
    (s.writePortion x o).pldm = s.pldm ∧ (s.writePortion x o).par = s.par := by
  have h := State.writePortion_only s x o (List.Subset.refl _) (State.only_refl _ s)
  exact ⟨h .pldm (by decide), h .par (by decide)⟩

/-- A portion taken with the component incomplete: the next one is asked for (R179 step 3). -/
theorem State.portionDone_more (s : State) (h : s.pldm.received < s.pldm.size) : s.portionDone = s.requestData := if_pos h

theorem State.portionDone_whole (s : State) (h : s.pldm.size ≤ s.pldm.received) (hdone : s.pldm.manifestDone = true) :
    s.portionDone = if s.lengthRight then (s.pldmSend s.pldm.transport 0x16 [0]).modPldm (fun p => { p with st := .verify })
      else s.updateFails 0x16 true 0x11 := by
  unfold State.portionDone
  rw [if_neg (Nat.not_lt.mpr h), hdone]
  cases s.lengthRight <;> rfl

theorem State.lengthRight_of_pldm {s t : State} (h : t.pldm = s.pldm) : t.lengthRight = s.lengthRight := by
  unfold State.lengthRight; rw [h]

/-- A component that may be updated begins its transfer with the first request for data (R91, R178). -/
theorem exec_updateComponent {p src c k z : Nat} {x : Slot} {s : State} (hopen : s.pldmOpen p src)
    (hst : s.pldm.st = .ready) (htarget : s.updateTarget c k = some x) :
    exec (.updateComponent ⟨p, src⟩ ⟨compClass, c⟩ k z) s = .next ((((((s.fresh.modPldm (fun p =>
      { p.rest .download with component := c, size := z, stamp := k, target := some x })).latch 5 6).ev 3 5 .updateBegan
        [c]).pldmReply p 0x14 0 (bytesOf [0])).requestData)) := by
  refine (show execUpdateComponent ⟨p, src⟩ ⟨compClass, c⟩ k z s = _ from State.pldmReq_open s p src 0x14 _ hopen).trans
    (congrArg Host.Outcome.next ((if_neg (not_not_intro hst)).trans ?_))
  rw [if_pos rfl, show s.fresh.updateTarget c k = some x from htarget]

/-- A component that cannot be updated is answered so (R91, R178). -/
theorem exec_updateComponent_refused {p src cls c k z : Nat} {s : State} (hopen : s.pldmOpen p src)
    (hst : s.pldm.st = .ready) (hno : cls ≠ compClass ∨ s.updateTarget c k = none) :
    ∃ t, exec (.updateComponent ⟨p, src⟩ ⟨cls, c⟩ k z) s = .next t ∧ t.pldm = s.pldm ∧
      t.out = .pldm p 0x14 [0, 1] :: s.announced (transportBus p) := by
  have hnone : (if cls = compClass then s.fresh.updateTarget c k else none) = none := by
    rcases hno with h | h
    · exact if_neg h
    · rw [show s.fresh.updateTarget c k = none from h, ite_self]
  have hreply := s.fresh.pldmReply_out p 0x14 0 (bytesOf [1]) rfl
  have hpldm := s.fresh.pldmReply_pldm p 0x14 0 (bytesOf [1])
  refine ⟨_, (show execUpdateComponent ⟨p, src⟩ ⟨cls, c⟩ k z s = _ from State.pldmReq_open s p src 0x14 _ hopen).trans
    (congrArg Host.Outcome.next (if_neg (not_not_intro hst))), ?_⟩
  rw [hnone]
  dsimp only
  split
  · exact ⟨hpldm, hreply⟩
  · exact ⟨hpldm, hreply⟩

/-- Activation answers once the slots of the update are dealt with (R177, R179 step 6). -/
theorem exec_activateFirmware {p src : Nat} {s : State} (hopen : s.pldmOpen p src) (hst : s.pldm.st = .ready) :
    ∃ (u : State) (l : List Nat), exec (.activateFirmware ⟨p, src⟩ false) s =
      .next (((u.modPldm (fun q => { q with st := .activate, updated := [] })).ev 3 5 .updateActivated l).pldmReply p 0x1A 0 []) ∧
      s.fresh.only [.ports, .log] u := by
  refine ⟨_, _, (show execActivateFirmware ⟨p, src⟩ false s = _ from s.pldmReq_open p src 0x1A _ hopen).trans
    (congrArg Host.Outcome.next ((if_neg (by decide)).trans (if_neg (not_not_intro hst)))), ?_⟩
  split
  · exact s.fresh.activated_only s.pldm.updated
  · exact State.only_refl _ _

/-- What is asked for first: of a device image a whole portion, otherwise the manifest's header (R177, R179). -/
theorem Pldm.requestLen_begin (p : Pldm) (c z k : Nat) (x : Option Slot) :
    ({ p.rest .download with component := c, size := z, stamp := k, target := x } : Pldm).requestLen =
      min p.xfer (if c = 0x7100 then z else min 64 z) := by
  unfold Pldm.requestLen Pldm.rest
  by_cases hc : c = 0x7100 <;> simp [hc]

theorem State.pldmReply_par (s : State) (t cmd code : Nat) (p : Bytes) : (s.pldmReply t cmd code p).par = s.par :=
  State.inBand_par _ _

/-- A request for data after what is already out (R177). -/
theorem State.requestData_out_append (s : State) (h : s.pldm.received < s.pldm.size) :
    ∃ l, s.requestData.out = l ++ .pldm s.pldm.transport 0x15 (leN 4 s.pldm.received ++ leN 4 s.pldm.requestLen) ::
      s.announced (transportBus s.pldm.transport) :=
  ⟨s.out, (s.requestData_out h).trans (List.append_assoc _ _ _)⟩

theorem State.pldmSend_out_append (s : State) (t cmd : Nat) (p : Bytes) :
    ∃ l, (s.pldmSend t cmd p).out = l ++ .pldm t cmd p :: s.announced (transportBus t) :=
  ⟨s.out, (s.pldmSend_out t cmd p).trans (List.append_assoc _ _ _)⟩

/-- Settles O27: each PLDM command by what it does to the firmware device and what it sends. -/
theorem firmwareUpdate : Obligations.FirmwareUpdate := by
  refine ⟨fun p src s h => ?_, fun p src s h => ?_, fun p src k s h hst => ?_, fun p src k s h hst => ?_,
    fun p src cls c s h hst => ?_, fun p src c k z x s h hst htarget hz => ?_,
    fun p src cls c k z s h hst hno => exec_updateComponent_refused h hst hno, fun p src s h hst => ?_, fun p src s h => ?_,
    fun p src s h => ?_, fun p src x s h hst htarget => ?_, fun p src s h hst => ?_, fun s hpow hhalt hst => ?_,
    fun p src d b x s h hmore => ?_, fun p src d b x s h hwhole hlen => ?_, fun p src d b x s h hwhole hlen => ?_,
    fun p src d b x s h => ?_⟩
  · change ∃ t, execQueryDeviceIdentifiers ⟨p, src⟩ s = _ ∧ _
    unfold execQueryDeviceIdentifiers
    refine ⟨_, s.pldmReq_open p src 0x01 _ h, ⟨Config.message 0x01 [s.fuse.serial.toNat] [], ?_⟩, State.pldmReply_pldm _ _ _ _ _⟩
    exact State.pldmReply_out s.fresh p 0x01 0 _ rfl
  · change ∃ t, execGetFirmwareParameters ⟨p, src⟩ s = _ ∧ _
    unfold execGetFirmwareParameters
    refine ⟨_, s.pldmReq_open p src 0x02 _ h, ⟨Config.message 0x02 [] [], ?_⟩, State.pldmReply_pldm _ _ _ _ _⟩
    refine (State.pldmReply_out s.fresh p 0x02 0 _ rfl).trans ?_
    rw [List.append_assoc (leN 2 compIds.length)]
    rfl
  · change ∃ t, execRequestUpdate ⟨p, src⟩ k s = _ ∧ _
    unfold execRequestUpdate
    refine ⟨_, (s.pldmReq_open p src 0x10 _ h).trans (congrArg _ (if_neg (not_not_intro hst))),
      State.pldmReply_out (s.fresh.modPldm _) p 0x10 0 [] rfl, State.pldmReply_pldm _ _ _ _ _⟩
  · change ∃ t, execRequestUpdate ⟨p, src⟩ k s = _ ∧ _
    unfold execRequestUpdate
    exact s.pldmReq_answers p src 0x10 0x81 [] _ h (if_pos hst)
  · have hgo : ¬(s.pldm.st ≠ .learn ∧ s.pldm.st ≠ .ready) := fun e => hst.elim e.1 e.2
    have hcode : leN 1 0 ++ bytesOf [b2n (cls != compClass || !compKnown c)] =
        [0, if cls = compClass ∧ compKnown c = true then 0 else 1] := by
      by_cases hcls : cls = compClass <;> cases hknown : compKnown c <;> simp [hcls, b2n] <;> rfl
    change ∃ t, execPassComponentTable ⟨p, src⟩ ⟨cls, c⟩ s = _ ∧ _
    unfold execPassComponentTable
    refine ⟨_, (s.pldmReq_open p src 0x13 _ h).trans (congrArg _ (if_neg hgo)), ?_, State.pldmReply_pldm _ _ _ _ _⟩
    rw [← hcode]
    exact State.pldmReply_out (s.fresh.modPldm _) p 0x13 0 _ rfl
  · have hmore : 0 < z := hz
    refine ⟨_, exec_updateComponent h hst htarget, ?_, ?_⟩
    · rw [State.requestData_pldm, State.pldmReply_pldm]
      rfl
    · rw [State.requestData_out _ (by rw [State.pldmReply_pldm]; exact hmore), State.pldmReply_out _ _ _ _ _ rfl,
        State.pldmReply_pldm, State.announced_of_par (State.pldmReply_par _ _ _ _ _)]
      refine (List.append_assoc _ _ _).trans ?_
      exact congrArg (fun n => Out.pldm p 0x14 [0, 0] :: (s.announced (transportBus p) ++
        .pldm s.pldm.transport 0x15 (leN 4 0 ++ leN 4 n) :: s.announced (transportBus s.pldm.transport)))
        (s.pldm.requestLen_begin c z k (some x))
  · obtain ⟨u, l, hexec, hu⟩ := exec_activateFirmware h hst
    refine ⟨_, hexec, ?_, ?_⟩
    · rw [State.pldmReply_pldm, State.ev_pldm]
      exact congrArg (fun q : Pldm => { q with st := .activate, updated := [] }) (hu .pldm (by decide))
    · refine (State.pldmReply_out _ p 0x1A 0 [] (by rw [State.ev_out]; exact hu .out (by decide))).trans ?_
      rw [State.announced_of_par (s := s) (by rw [State.ev_par]; exact hu .par (by decide))]
      rfl
  · change ∃ t, execActivateFirmware ⟨p, src⟩ true s = _ ∧ _
    unfold execActivateFirmware
    exact ⟨_, (s.pldmReq_open p src 0x1A _ h).trans (congrArg _ (if_pos rfl)), State.pldmReply_pldm _ _ _ _ _,
      s.fresh.pldmReply_out p 0x1A 0x8C [] rfl⟩
  · change ∃ t, execGetStatus ⟨p, src⟩ s = _ ∧ _
    unfold execGetStatus
    exact s.pldmReq_answers p src 0x1B 0 _ _ h rfl
  · change ∃ t, execCancelUpdateComponent ⟨p, src⟩ s = _ ∧ _
    unfold execCancelUpdateComponent
    refine ⟨_, (s.pldmReq_open p src 0x1C _ h).trans (congrArg _ ((if_neg ?_).trans (if_neg ?_))), ?_⟩
    · rw [show s.fresh.pldm.st = _ from hst]; decide
    · rw [show s.fresh.pldm.target = _ from htarget]; simp
    · rw [State.pldmReply_pldm]; exact s.fresh.endTransfer_rest hst
  · change ∃ t, execCancelUpdate ⟨p, src⟩ s = _ ∧ _
    unfold execCancelUpdate
    refine ⟨_, (s.pldmReq_open p src 0x1D _ h).trans (congrArg _ (if_neg hst)), ?_⟩
    rw [State.pldmReply_pldm]
    exact s.fresh.leaveUpdate_pldm
  · refine ⟨_, congrArg Host.Outcome.next (if_neg ?_), s.fresh.leaveUpdate_pldm⟩
    rw [State.pldmOn_open s hpow hhalt]
    exact fun e => e.elim hst (by decide)
  · obtain ⟨hwrite, hpar⟩ := (s.fresh.portioned d b).writePortion_frame x s.pldm.received
    refine ⟨_, (exec_firmwareDataReceived h).trans (congrArg _ ((if_pos rfl).trans
      (State.portionDone_more _ (by rw [hwrite]; exact hmore)))), ?_, ?_⟩
    · rw [State.requestData_pldm, hwrite]; rfl
    · have htransport : s.pldm.transport = p := (portionTaken_transport (s := s) h)
      obtain ⟨l, hl⟩ := State.requestData_out_append ((s.fresh.portioned d b).writePortion x s.pldm.received)
        (by rw [hwrite]; exact hmore)
      refine ⟨l, hl.trans ?_⟩
      rw [hwrite, State.announced_of_par hpar, show (s.fresh.portioned d b).pldm.transport = p from htransport]
      rfl
  · obtain ⟨hwrite, hpar⟩ := (s.fresh.portioned d b).writePortion_frame x s.pldm.received
    have htransport : ((s.fresh.portioned d b).writePortion x s.pldm.received).pldm.transport = p := by
      rw [hwrite]; exact portionTaken_transport (s := s) h
    refine ⟨_, (exec_firmwareDataReceived h).trans (congrArg _ ((if_pos rfl).trans ((State.portionDone_whole _
      (by rw [hwrite]; exact hwhole) (by rw [hwrite]; exact portionTaken_manifest (s := s) h)).trans
      (if_pos ((State.lengthRight_of_pldm hwrite).trans hlen))))), ?_, ?_⟩
    · show { (State.pldmSend _ _ _ _).pldm with st := FdState.verify } = _
      rw [State.pldmSend_pldm, hwrite]
      rfl
    · obtain ⟨l, hl⟩ := State.pldmSend_out_append ((s.fresh.portioned d b).writePortion x s.pldm.received) p 0x16 [0]
      refine ⟨l, ?_⟩
      rw [htransport]
      refine hl.trans ?_
      rw [State.announced_of_par hpar]
      rfl
  · obtain ⟨hwrite, hpar⟩ := (s.fresh.portioned d b).writePortion_frame x s.pldm.received
    refine ⟨_, (exec_firmwareDataReceived h).trans (congrArg _ ((if_pos rfl).trans ((State.portionDone_whole _
      (by rw [hwrite]; exact hwhole) (by rw [hwrite]; exact portionTaken_manifest (s := s) h)).trans
      (if_neg (ne_true_of_eq_false ((State.lengthRight_of_pldm hwrite).trans hlen)))))), ?_⟩
    rw [State.updateFails_rest, hwrite]
    rfl
  · refine ⟨_, exec_firmwareDataReceived h, ?_⟩
    rw [if_neg (by decide), State.updateFails_rest]
    rfl

end Sys2Proof.Machine

/-! # Settled: partner entries (O29) -/

namespace Sys2Proof.Machine

open Sys2Proof

/-! ### Steps of an attestation -/

/-- An entry at a step, before its request has gone out (R194, R195). -/
def Partner.atStep (p : Partner) (c0 : Bool) (n : Nat) : Partner :=
  { p with step := n, attempts := 0, waiting := false, st := if p.again then p.st else if c0 then .attesting else .endpoint }

/-- An entry whose request has gone out (R194, R200). -/
def Partner.asked (p : Partner) (tag now : Nat) : Partner :=
  { p with tag := tag, lastTag := tag, waiting := true, attempts := p.attempts + 1, sentAt := now }

theorem State.sendReq_partner (s : State) (k : Nat) (h : k < s.par.table.length) :
    (s.sendReq k).partner k = (s.partner k).asked (s.nextTag k) s.now := by
  have hmod := State.modPartner_partner s k (fun p => p.asked (s.nextTag k) s.now) h
  unfold State.sendReq
  dsimp only
  split <;> exact hmod

/-- Every step but those that wait or draw sends its request (R194). -/
theorem State.toStep_sends (s : State) (k n : Nat) (h : k < s.par.table.length) (h5 : n ≠ 5) (h6 : n ≠ 6) :
    ∃ u : State, s.toStep k n = u.sendReq k ∧ u.partner k = (s.partner k).atStep s.c0Pk n ∧
      u.par.table.length = s.par.table.length ∧ u.out = s.out ∧ u.par.late = s.par.late ∧ u.now = s.now ∧
      (∀ j, u.policy j = s.policy j) := by
  refine ⟨s.modPartner k (fun p => p.atStep s.c0Pk n), ?_, State.modPartner_partner s k _ h, State.modPartner_length _ _ _,
    rfl, rfl, rfl, fun _ => rfl⟩
  unfold State.toStep
  dsimp only
  rw [if_neg (fun e => h5 e.1), if_neg (fun e => h6 e.1)]
  rfl

/-- The entry after such a step (R194). -/
theorem State.toStep_partner (s : State) (k n : Nat) (h : k < s.par.table.length) (h5 : n ≠ 5) (h6 : n ≠ 6) :
    ∃ tag, (s.toStep k n).partner k = ((s.partner k).atStep s.c0Pk n).asked tag s.now := by
  obtain ⟨u, hstep, hpartner, hlen, -, -, hnow, -⟩ := s.toStep_sends k n h h5 h6
  refine ⟨u.nextTag k, ?_⟩
  rw [hstep, u.sendReq_partner k (by rw [hlen]; exact h), hpartner, hnow]

theorem State.sendReq_late (s : State) (k : Nat) : (s.sendReq k).par.late = s.par.late := by
  unfold State.sendReq
  dsimp only
  split <;> rfl

/-! ### Discovery -/

theorem updAt_any {α : Type} (l : List α) (k : Nat) (f : α → α) (q : α → Bool) (h : ∀ x, l[k]? = some x → q (f x) = q x) :
    (updAt l k f).any q = l.any q := by
  unfold updAt
  induction l generalizing k with
  | nil => rfl
  | cons a l ih =>
    rw [List.mapIdx_cons, List.any_cons, List.any_cons]
    cases k with
    | zero =>
      have hrest : List.mapIdx (fun i x => if i + 1 == 0 then f x else x) l = l := by
        rw [List.mapIdx_eq_iff]
        simp
      rw [hrest, if_pos (beq_self_eq_true 0), h a rfl]
    | succ k =>
      have hrest := ih k h
      simp only [beq_iff_eq, Nat.add_right_cancel_iff, Nat.zero_ne_add_one, if_false] at hrest ⊢
      rw [hrest]

/-- The entry a partner with a record takes when it is found (R188, R190). -/
def foundEntry (f : Found) (a : Nat) (p : Partner) : Partner :=
  { partnerReset with
    st := .found, bus := f.bus, addr := a, pid := f.pid, bcr := f.bcr, dcr := f.dcr, noPolicy := false,
    reason := 0, departures := p.departures, lastTag := p.lastTag, runNo := p.runNo }

/-- A partner with a record, no entry and a free address takes its record's entry (R188, R190). -/
theorem State.discover_bound (s : State) (f : Found) (k a : Nat) (hkind : f.kind = 1) (hpolicy : s.policyFor f = some k)
    (hentry : s.entryOfFound f = none) (hlive : (s.partner k).st.live = false) (haddr : s.freeAddr f.bus = some a) :
    s.discover f = (s.modPartner k (foundEntry f a)).joinMctp k f.eidOk f.spdm := by
  unfold State.discover
  simp only [hpolicy, hentry, hlive, hkind, haddr, Bool.false_eq_true, if_false, Option.isNone_some, OfNat.one_ne_ofNat]
  rfl

/-- EID 0 is not free for anyone once an entry without EID is live (R188). -/
theorem State.found_holds_zero (s : State) (f : Found) (k a : Nat) (hk : k < s.par.table.length) :
    (s.modPartner k (foundEntry f a)).par.table.any (fun p => p.st.live && p.eid == 0) = true := by
  have hlen : k < (s.modPartner k (foundEntry f a)).par.table.length := by rw [State.modPartner_length]; exact hk
  have hget : (s.modPartner k (foundEntry f a)).par.table[k] = foundEntry f a (s.partner k) := by
    have hpartner := s.modPartner_partner k (foundEntry f a) hk
    unfold State.partner at hpartner
    rw [List.getD_eq_getElem _ _ hlen] at hpartner
    exact hpartner
  exact List.any_eq_true.mpr ⟨_, List.getElem_mem hlen, by rw [hget]; rfl⟩

/-- Another EID is as free after an entry without one as before it. -/
theorem State.found_holds_other (s : State) (f : Found) (k a e : Nat) (hlive : (s.partner k).st.live = false) (he : e ≠ 0) :
    (s.modPartner k (foundEntry f a)).par.table.any (fun p => p.st.live && p.eid == e) =
      s.par.table.any (fun p => p.st.live && p.eid == e) := by
  refine updAt_any _ _ _ _ fun p hp => ?_
  have hpk : p = s.partner k := by
    unfold State.partner
    rw [List.getD_eq_getElem?_getD, hp]
    rfl
  rw [hpk, hlive]
  simp [foundEntry, partnerReset, Ne.symm he]

/-- An EID pool that offers 0 offers it first (R188). -/
theorem find?_offset_zero (base n : Nat) (q : Nat → Bool) (h0 : 0 ∈ (List.range n).map (· + base)) (hq : q 0 = true) :
    ((List.range n).map (· + base)).find? q = some 0 := by
  obtain ⟨i, hi, hsum⟩ := List.mem_map.mp h0
  have hi' := List.mem_range.mp hi
  obtain ⟨m, rfl⟩ : ∃ m, n = m + 1 := ⟨n - 1, by omega⟩
  obtain rfl : base = 0 := by omega
  rw [List.range_succ_eq_map, List.map_cons, List.find?_cons_of_pos (by simpa using hq)]

/-- An entry that is found takes no EID from the pool (R188). -/
theorem State.freeEid_found (s : State) (f : Found) (k a : Nat) (hk : k < s.par.table.length)
    (hlive : (s.partner k).st.live = false) (hzero : ∀ e, s.freeEid = some e → e ≠ 0) :
    (s.modPartner k (foundEntry f a)).freeEid = s.freeEid := by
  unfold State.freeEid at hzero ⊢
  refine List.find?_congr fun e he => ?_
  show (!(s.modPartner k (foundEntry f a)).par.table.any _ && _) = _
  by_cases h0 : e = 0
  · subst h0
    rw [s.found_holds_zero f k a hk, Bool.not_true, Bool.false_and]
    exact (Bool.eq_false_iff.mpr fun htrue => hzero 0 (find?_offset_zero _ _ _ he htrue) rfl).symm
  · rw [s.found_holds_other f k a e hlive h0]
    rfl

/-! ### Requests to a partner that is found -/

/-- A control request changes the last tag of its entry alone (R188, R200). -/
theorem State.ctrlReq_partner (s : State) (k cmd : Nat) (d : Bytes) (h : k < s.par.table.length) :
    (s.ctrlReq k cmd d).partner k = { s.partner k with lastTag := s.nextTag k } ∧
    (s.ctrlReq k cmd d).par.table.length = s.par.table.length ∧ (s.ctrlReq k cmd d).now = s.now ∧
    (s.ctrlReq k cmd d).c0Pk = s.c0Pk :=
  ⟨State.modPartner_partner s k _ h, State.modPartner_length _ _ _, rfl, rfl⟩

theorem State.endOwnSession_partner (s : State) (k : Nat) (h : k < s.par.table.length) :
    (s.endOwnSession k).partner k = { s.partner k with session := 0 } ∧
    (s.endOwnSession k).par.table.length = s.par.table.length := by
  unfold State.endOwnSession
  dsimp only
  split
  · next h0 => exact ⟨by rw [← h0], rfl⟩
  · exact ⟨State.modPartner_partner (s.modPar _) k _ h, State.modPartner_length (s.modPar _) _ _⟩

theorem State.stopAttest_partner (s : State) (k : Nat) (h : k < s.par.table.length) :
    (s.stopAttest k).partner k = { s.partner k with
      session := 0, step := 0, waiting := false, attempts := 0, again := false, restart := false, checking := false } ∧
    (s.stopAttest k).par.table.length = s.par.table.length := by
  obtain ⟨hend, hlen⟩ := s.endOwnSession_partner k h
  have hdrop : ((s.endOwnSession k).dropWhat (·.forPartner k)).par = (s.endOwnSession k).par := rfl
  unfold State.stopAttest
  rw [State.modPartner_partner _ _ _ (by rw [hdrop, hlen]; exact h), State.modPartner_length, hdrop, hlen]
  refine ⟨?_, rfl⟩
  rw [show ((s.endOwnSession k).dropWhat (·.forPartner k)).partner k = (s.endOwnSession k).partner k from rfl, hend]

theorem State.c0Pk_of_yard {s t : State} (hsheet : t.yard.sheet = s.yard.sheet) (hdue : t.yard.loadDue = s.yard.loadDue)
    (hleaving : t.yard.leaving = s.yard.leaving) (htable : t.yard.timetable = s.yard.timetable) : t.c0Pk = s.c0Pk := by
  unfold State.c0Pk State.classOn State.rowHas State.sheetEntry State.sheet?
  rw [hsheet, hdue, hleaving, htable]

theorem State.stopAttest_c0Pk (s : State) (k : Nat) : (s.stopAttest k).c0Pk = s.c0Pk := by
  have hend : (s.endOwnSession k).yard = s.yard :=
    State.endOwnSession_only s k (List.Subset.refl _) (State.only_refl _ s) .yard (by decide)
  have hstop : (s.stopAttest k).c0Pk = (s.endOwnSession k).c0Pk := State.c0Pk_of_yard rfl rfl rfl rfl
  rw [hstop]
  exact State.c0Pk_of_yard (by rw [hend]) (by rw [hend]) (by rw [hend]) (by rw [hend])

/-- Attestation begins with GET_VERSION (R194). -/
theorem State.attest_partner (s : State) (k : Nat) (h : k < s.par.table.length) :
    ∃ p : Partner, (s.attest k false).partner k = p ∧ p.st = (if s.c0Pk then .attesting else .endpoint) ∧ p.step = 1 ∧
      p.waiting = true ∧ p.eid = (s.partner k).eid ∧ p.addr = (s.partner k).addr ∧ p.bus = (s.partner k).bus ∧
      p.pid = (s.partner k).pid := by
  obtain ⟨hstop, hlen⟩ := s.stopAttest_partner k h
  have hbegin := State.modPartner_partner (s.stopAttest k) k
    (fun p => { p with again := false, chain := [], summary := [], runNo := p.runNo + 1 }) (by rw [hlen]; exact h)
  obtain ⟨tag, hstep⟩ := State.toStep_partner ((s.stopAttest k).modPartner k
    (fun p => { p with again := false, chain := [], summary := [], runNo := p.runNo + 1 })) k 1
    (by rw [State.modPartner_length, hlen]; exact h) (by decide) (by decide)
  refine ⟨_, hstep, ?_⟩
  rw [hbegin, hstop, show (State.modPartner (s.stopAttest k) k _).c0Pk = (s.stopAttest k).c0Pk from rfl, s.stopAttest_c0Pk]
  exact ⟨rfl, rfl, rfl, rfl, rfl, rfl, rfl⟩

/-- An entry as it stands in the pool's next step (R188 steps 4 to 6; log 111). -/
theorem State.joinMctp_facts (s : State) (k : Nat) (eidOk spdm : Bool) (h : k < s.par.table.length)
    (hfound : (s.partner k).st = .found) (hzero : (s.partner k).eid = 0) (hpolicy : (s.partner k).noPolicy = false) :
    ((s.joinMctp k eidOk spdm).partner k).addr = (s.partner k).addr ∧
    ((s.joinMctp k eidOk spdm).partner k).bus = (s.partner k).bus ∧
    ((s.joinMctp k eidOk spdm).partner k).pid = (s.partner k).pid ∧
    (s.freeEid = none → ((s.joinMctp k eidOk spdm).partner k).st = .found ∧ ((s.joinMctp k eidOk spdm).partner k).eid = 0) ∧
    (∀ e, s.freeEid = some e → eidOk = false → ((s.joinMctp k eidOk spdm).partner k).st = .found ∧
      ((s.joinMctp k eidOk spdm).partner k).reason = 8) ∧
    (∀ e, s.freeEid = some e → eidOk = true → spdm = false → ((s.joinMctp k eidOk spdm).partner k).st = .fail ∧
      ((s.joinMctp k eidOk spdm).partner k).reason = 1 ∧ ((s.joinMctp k eidOk spdm).partner k).eid = e) ∧
    (∀ e, s.freeEid = some e → eidOk = true → spdm = true → ((s.joinMctp k eidOk spdm).partner k).st =
      (if s.c0Pk then .attesting else .endpoint) ∧ ((s.joinMctp k eidOk spdm).partner k).step = 1 ∧
      ((s.joinMctp k eidOk spdm).partner k).waiting = true ∧ ((s.joinMctp k eidOk spdm).partner k).eid = e) := by
  unfold State.joinMctp
  cases hfree : s.freeEid with
  | none =>
    have hmod := State.modPartner_partner (s.latch 10 4) k (fun p => { p with summary := bytesOf [b2n eidOk, b2n spdm] }) h
    dsimp only
    rw [hmod]
    exact ⟨rfl, rfl, rfl, fun _ => ⟨hfound, hzero⟩, by simp, by simp, by simp⟩
  | some e =>
    obtain ⟨hctrl, hlen, hnow, hc0⟩ := s.ctrlReq_partner k 1 (bytesOf [0, e]) h
    dsimp only
    cases eidOk with
    | false =>
      have hmod := State.modPartner_partner (s.ctrlReq k 1 (bytesOf [0, e])) k
        (fun p => { p with reason := if p.noPolicy then 9 else 8, summary := [] }) (by rw [hlen]; exact h)
      rw [if_pos (by decide), hmod, hctrl]
      exact ⟨rfl, rfl, rfl, by simp, fun _ _ _ => ⟨hfound, if_neg (by simp [hpolicy])⟩, by simp, by simp⟩
    | true =>
      rw [if_neg (by decide)]
      generalize hu : (s.ctrlReq k 1 (bytesOf [0, e])).modPartner k (fun p => { p with
        eid := e, st := .endpoint, polledAt := (s.ctrlReq k 1 (bytesOf [0, e])).now,
        reason := if p.noPolicy then 9 else 0 }) = u
      have hmod : u.partner k = { s.partner k with
          lastTag := s.nextTag k, eid := e, st := .endpoint, polledAt := (s.ctrlReq k 1 (bytesOf [0, e])).now,
          reason := if (s.partner k).noPolicy then 9 else 0 } := by
        rw [← hu, State.modPartner_partner _ _ _ (by rw [hlen]; exact h), hctrl]
      have hulen : k < u.par.table.length := by rw [← hu, State.modPartner_length, hlen]; exact h
      have huc0 : u.c0Pk = s.c0Pk := by rw [← hu]; exact hc0
      obtain ⟨hask, hasklen, -, haskc0⟩ := u.ctrlReq_partner k 5 [] hulen
      cases spdm with
      | false =>
        rw [if_neg (by decide), State.partnerVerdict_facts _ k 1 (by rw [hasklen]; exact hulen), hask, hmod]
        exact ⟨rfl, rfl, rfl, by simp, by simp, fun e' he' _ _ => ⟨rfl, rfl, Option.some.inj he'⟩, by simp⟩
      | true =>
        obtain ⟨p, hp, hst, hstep, hwait, heid, haddr, hbus, hpid⟩ := State.attest_partner (u.ctrlReq k 5 []) k
          (by rw [hasklen]; exact hulen)
        rw [hask, hmod] at heid haddr hbus hpid
        rw [if_pos rfl, hp]
        refine ⟨haddr, hbus, hpid, by simp, by simp, by simp, fun e' he' _ _ => ⟨?_, hstep, hwait, ?_⟩⟩
        · rw [hst, haskc0, huc0]
        · rw [heid]; exact Option.some.inj he'

/-! ### The commands -/

theorem State.stepDone_two (s : State) (k : Nat) (r : Resp) (h : (s.partner k).step = 2) : s.stepDone k r = s.toStep k 3 := by
  unfold State.stepDone
  simp only [h]

theorem State.stepDone_three (s : State) (k : Nat) (r : Resp) (h : (s.partner k).step = 3) :
    s.stepDone k r = if algsCommon (s.policy k) r then
      (s.modPartner k (fun p => { p with sig := r.sig, hash := r.hash })).toStep k 4 else s.partnerVerdict k 2 := by
  unfold State.stepDone
  simp only [h]

/-- An answer that is checked by its signature becomes a C0 programme (R195). -/
theorem State.stepDone_signed (s : State) (k : Nat) (r : Resp) (h : (s.partner k).step = 6 ∨ (s.partner k).step = 8) :
    ∃ session, s.stepDone k r = s.checkJob k 0 r.payload r.sigOk session := by
  unfold State.stepDone
  rcases h with h | h
  · exact ⟨r.session, by simp only [h]⟩
  · exact ⟨0, by simp only [h]⟩

/-- The entry once its response has come (R194). -/
def Partner.answered (p : Partner) (now : Nat) : Partner := { p with waiting := false, sessAt := now }

/-- A response to the outstanding request is neither late nor quarantined (R194, R198, R200). -/
theorem exec_requesterResponse_expected {k : Nat} {r : Resp} {s : State} (h : s.responded k r) :
    exec (.requesterResponse k r) s = .next (if (s.partner k).outside r then
      (s.fresh.modPar (fun q => { q with dead := q.dead + 1 })).latch 10 13
      else (s.fresh.modPartner k (·.answered s.now)).stepDone k r) := by
  obtain ⟨-, hserving, heid, haddr, hwait, htag, hsrc⟩ := h
  have hon : ¬((!s.fresh.serving) = true) := by
    rw [show s.fresh.serving = true from hserving]; decide
  have hexpected : ¬(s.fresh.eidQuarantined r.srcEid = true ∨ s.fresh.addrQuarantined (s.partner k).bus r.srcAddr = true ∨
      (!(s.partner k).waiting) = true ∨ (s.partner k).tag ≠ r.tag ∨ (s.partner k).eid ≠ r.srcEid) := by
    rw [show s.fresh.eidQuarantined r.srcEid = false from heid,
      show s.fresh.addrQuarantined (s.partner k).bus r.srcAddr = false from haddr, hwait]
    simp [htag, hsrc]
  exact congrArg Host.Outcome.next ((if_neg hon).trans (if_neg hexpected))

/-- A response to the outstanding request, inside its session where it has one, ends its step (R194). -/
theorem exec_requesterResponse {k : Nat} {r : Resp} {s : State} (h : s.responded k r)
    (hinside : (s.partner k).outside r = false) :
    exec (.requesterResponse k r) s = .next ((s.fresh.modPartner k (·.answered s.now)).stepDone k r) := by
  rw [exec_requesterResponse_expected h, if_neg (ne_true_of_eq_false hinside)]

/-- Only steps 7 and 8 are answered inside a session (R194). -/
theorem Partner.outside_early (p : Partner) (r : Resp) (h : p.step < 7) : p.outside r = false := by
  unfold Partner.outside
  simp [Nat.not_le.mpr h]

theorem State.answered_facts (s : State) (k : Nat) (h : k < s.par.table.length) :
    (s.fresh.modPartner k (·.answered s.now)).partner k = (s.partner k).answered s.now ∧
    (s.fresh.modPartner k (·.answered s.now)).par.table.length = s.par.table.length :=
  ⟨State.modPartner_partner s.fresh k _ h, State.modPartner_length _ _ _⟩

/-- An entry whose request has run out: its tag rests (R200). -/
def State.expired (s : State) (k : Nat) : State :=
  (s.fresh.restTag k (s.partner k).tag).modPartner k (fun p => { p with waiting := false })

theorem State.expired_facts (s : State) (k : Nat) (h : k < s.par.table.length) :
    (s.expired k).partner k = { s.partner k with waiting := false } ∧ (s.expired k).par.table.length = s.par.table.length :=
  ⟨State.modPartner_partner (s.fresh.restTag k (s.partner k).tag) k _ h, State.modPartner_length _ _ _⟩

/-- A request without a response is sent again at most twice (R194, R200). -/
theorem exec_requesterTimeout {k : Nat} {s : State} (hon : s.serving = true) (hwait : (s.partner k).waiting = true)
    (hdue : (s.partner k).sentAt + 200000 ≤ s.now) :
    exec (.requesterTimeout k) s = .next (if (s.partner k).attempts < 3 then (s.expired k).sendReq k
      else (s.expired k).partnerVerdict k 8) := by
  have hgo : ¬((!s.serving) = true ∨ (!(s.partner k).waiting) = true ∨ s.now < (s.partner k).sentAt + 100 * msFrames) := by
    simp [hon, hwait, msFrames, hdue]
  exact congrArg Host.Outcome.next (if_neg hgo)

/-- An entry that has been polled (R197, R200). -/
def State.polledOnce (s : State) (k : Nat) (answered : Bool) : State :=
  (if answered then s.fresh.ctrlReq k 2 [] else (s.fresh.ctrlReq k 2 []).restTag k (s.nextTag k)).modPartner k (fun p =>
    { p with polledAt := s.now, missed := if answered then 0 else p.missed + 1 })

theorem State.polled_facts (s : State) (k : Nat) (answered : Bool) (h : k < s.par.table.length) :
    (s.polledOnce k answered).partner k = { s.partner k with
      lastTag := s.nextTag k, polledAt := s.now, missed := if answered then 0 else (s.partner k).missed + 1 } ∧
    (s.polledOnce k answered).par.table.length = s.par.table.length := by
  obtain ⟨hctrl, hlen, -⟩ := s.fresh.ctrlReq_partner k 2 [] h
  have hasked : ∀ b : Bool, (if b then s.fresh.ctrlReq k 2 [] else (s.fresh.ctrlReq k 2 []).restTag k (s.nextTag k)).par.table =
      (s.fresh.ctrlReq k 2 []).par.table := by intro b; cases b <;> rfl
  have hpartner : (if answered then s.fresh.ctrlReq k 2 [] else (s.fresh.ctrlReq k 2 []).restTag k (s.nextTag k)).partner k =
      { s.partner k with lastTag := s.nextTag k } :=
    (congrArg (fun l : List Partner => l.getD k partnerReset) (hasked answered)).trans hctrl
  unfold State.polledOnce
  rw [State.modPartner_partner _ _ _ (by rw [hasked, hlen]; exact h), hpartner, State.modPartner_length, hasked, hlen]
  exact ⟨rfl, rfl⟩

/-- A poll that is due: the third one without an answer departs the partner (R197). -/
theorem exec_partnerPoll {k : Nat} {a : Bool} {s : State} (hon : s.serving = true) (hpolled : (s.partner k).st.polled = true)
    (hdue : (s.partner k).polledAt + s.valU (mkKey 0x3000 0x08) * 2000 ≤ s.now) :
    exec (.partnerPoll k a) s = .next (if 3 ≤ ((s.polledOnce k a).partner k).missed then (s.polledOnce k a).depart k
      else s.polledOnce k a) := by
  have hgo : ¬((!s.serving) = true ∨ (!(s.partner k).st.polled) = true ∨
      s.now < (s.partner k).polledAt + s.valU (mkKey 0x3000 0x08) * msFrames) := by
    simp [hon, hpolled, msFrames, hdue]
  refine congrArg Host.Outcome.next ((if_neg hgo).trans ?_)
  cases a <;> rfl

theorem State.partner_of_par {s t : State} (h : t.par = s.par) (k : Nat) : t.partner k = s.partner k := by
  unfold State.partner
  rw [h]

/-- An entry whose partner has departed (R197). -/
def Partner.gone (p : Partner) : Partner :=
  { p with st := .departed, eid := 0, departures := min 0xFFFF (p.departures + 1), missed := 0 }

/-- What of the quarantines an entry that departs fills (R197, R198). -/
def State.quarantined (s : State) (k : Nat) : State :=
  s.modPar (fun q => { q with
    eidQuar := if (s.partner k).eid = 0 then q.eidQuar else q.eidQuar ++ [((s.partner k).eid, s.now)],
    addrQuar := if (s.partner k).isStatic then q.addrQuar
      else q.addrQuar ++ [((s.partner k).bus, (s.partner k).addr, s.now)] })

theorem State.depart_par (s : State) (k : Nat) :
    (s.depart k).par = (((s.quarantined k).stopAttest k).modPartner k Partner.gone).par := by
  unfold State.depart State.latchEntry
  rw [State.ev_par, State.latch_par, State.latch_par]
  rfl

/-- An entry that departs keeps neither EID nor session (R197). -/
theorem State.depart_partner (s : State) (k : Nat) (h : k < s.par.table.length) :
    ((s.depart k).partner k).st = .departed ∧ ((s.depart k).partner k).eid = 0 ∧ ((s.depart k).partner k).session = 0 := by
  obtain ⟨hstop, hlen⟩ := (s.quarantined k).stopAttest_partner k h
  rw [State.partner_of_par (s.depart_par k),
    State.modPartner_partner ((s.quarantined k).stopAttest k) k _ (by rw [hlen]; exact h), hstop]
  exact ⟨rfl, rfl, rfl⟩

/-- Entries in PASS are attested again in their order (R196). -/
def State.reattested (s : State) (l : List Nat) : State :=
  l.foldl (fun s k => if (s.partner k).st = .pass ∧ (s.partner k).step = 0 then s.attest k true else s) s

theorem exec_reattestTimer {s : State} (hon : s.serving = true) (hperiod : s.valU (mkKey 0x3000 0x09) ≠ 0)
    (hdue : s.par.reattestAt + s.valU (mkKey 0x3000 0x09) * 2000000 ≤ s.now) :
    exec .reattestTimer s = .next ((s.fresh.modPar (fun p => { p with reattestAt := s.now })).reattested (List.range 64)) := by
  have hgo : ¬((!s.serving) = true ∨ s.valU (mkKey 0x3000 0x09) * secFrames = 0 ∨
      s.now < s.par.reattestAt + s.valU (mkKey 0x3000 0x09) * secFrames) := by
    simp only [hon, Bool.not_true, Bool.false_eq_true, secFrames, Nat.mul_eq_zero, hperiod, false_or, OfNat.ofNat_ne_zero,
      Nat.not_lt]
    exact hdue
  unfold State.reattested
  exact congrArg Host.Outcome.next (if_neg hgo)

/-- Re-attestation touches the entries in PASS alone (R196). -/
theorem State.reattested_frame (s : State) (l : List Nat) :
    (s.reattested l).par.reattestAt = s.par.reattestAt ∧
    ∀ k, (s.partner k).st ≠ .pass → (s.reattested l).partner k = s.partner k := by
  induction l generalizing s with
  | nil => exact ⟨rfl, fun _ _ => rfl⟩
  | cons j l ih =>
    unfold State.reattested at ih ⊢
    rw [List.foldl_cons]
    by_cases hj : (s.partner j).st = .pass ∧ (s.partner j).step = 0
    · obtain ⟨hat, hothers⟩ := s.attest_frame j true
      obtain ⟨hrest, hrestOthers⟩ := ih (s.attest j true)
      rw [if_pos hj]
      refine ⟨hrest.trans hat, fun k hk => ?_⟩
      have hkj : (s.attest j true).partner k = s.partner k := hothers k (fun e => hk (e ▸ hj.1))
      exact (hrestOthers k (by rw [hkj]; exact hk)).trans hkj
    · rw [if_neg hj]
      exact ih s

/-- Settles O29: a hot join by `discover_bound` and `joinMctp_facts`, a response by its step, and the clocks of an entry. -/
theorem partners : Obligations.Partners := by
  refine ⟨fun f k a s hon hbus hkind hk hpolicy hentry hlive haddr hzero => ?_, fun k r s h hstep => ?_,
    fun k r s h hstep => ?_, fun k r s h hstep hinside => ?_, fun k r s hon hlate => ?_, fun k r s h hout => ?_,
    fun k s hk hon hwait hdue => ?_, fun k a s hk hon hpolled hdue => ?_, fun b v s => ⟨_, rfl, rfl⟩,
    fun b v f s hmem hdue hnone => ?_, fun s hon hperiod hdue => ?_⟩
  · obtain ⟨u, hu⟩ : ∃ u, u = (s.fresh.latch 10 2).emit (.i3c f.bus 0x07) := ⟨_, rfl⟩
    have hpartner : (u.modPartner k (foundEntry f a)).partner k = foundEntry f a (s.partner k) := by
      rw [hu]; exact State.modPartner_partner _ k _ hk
    have hlen : k < (u.modPartner k (foundEntry f a)).par.table.length := by
      rw [State.modPartner_length, hu]; exact hk
    have hfree : (u.modPartner k (foundEntry f a)).freeEid = s.freeEid := by
      rw [hu]; exact State.freeEid_found _ f k a hk hlive hzero
    have hc0 : (u.modPartner k (foundEntry f a)).c0Pk = s.c0Pk := by rw [hu]; exact State.c0Pk_of_yard rfl rfl rfl rfl
    have hdiscover := State.discover_bound u f k a hkind (by rw [hu]; exact hpolicy) (by rw [hu]; exact hentry)
      (by rw [hu]; exact hlive) (by rw [hu]; exact haddr)
    have hjoin := State.joinMctp_facts (u.modPartner k (foundEntry f a)) k f.eidOk f.spdm hlen (by rw [hpartner]; rfl)
      (by rw [hpartner]; rfl) (by rw [hpartner]; rfl)
    rw [hpartner, hfree, hc0] at hjoin
    refine ⟨_, congrArg Host.Outcome.next ((if_pos ⟨hon, hbus, hkind⟩).trans ?_), hjoin⟩
    rw [← hdiscover, hu]
  · obtain ⟨hpartner, hlen⟩ := s.answered_facts k h.1
    obtain ⟨u, hsend, hup, hulen, huout, hulate, hunow, hupol⟩ := State.toStep_sends
      (s.fresh.modPartner k (·.answered s.now)) k 3 (by rw [hlen]; exact h.1) (by decide) (by decide)
    have hu : k < u.par.table.length := by rw [hulen, hlen]; exact h.1
    obtain ⟨hwait, hattempts, -, hustep, hout⟩ := u.sendReq_facts k hu
    rw [hpartner] at hup
    refine ⟨_, (exec_requesterResponse h ((s.partner k).outside_early r (by omega))).trans (congrArg _
      ((State.stepDone_two _ k r (by rw [hpartner]; exact hstep)).trans hsend)), ?_, hwait, ?_, ?_, ?_⟩
    · rw [hustep, hup]; rfl
    · rw [hattempts, hup]; rfl
    · rw [hout, huout, State.partnerAsk, hup]
      exact congrArg (fun o => ([] : List Out) ++ [o]) (if_neg (fun e => absurd e.2 (show ¬7 ≤ 3 by decide)))
    · rw [State.sendReq_late, hulate]
      rfl
  · obtain ⟨hpartner, hlen⟩ := s.answered_facts k h.1
    have hpol : (s.fresh.modPartner k (·.answered s.now)).policy k = s.policy k := rfl
    refine ⟨_, (exec_requesterResponse h ((s.partner k).outside_early r (by omega))).trans (congrArg _
      (State.stepDone_three _ k r (by rw [hpartner]; exact hstep))), fun hcommon => ?_, fun hnone => ?_⟩
    · rw [hpol, if_pos hcommon]
      obtain ⟨tag, hstep4⟩ := State.toStep_partner ((s.fresh.modPartner k (·.answered s.now)).modPartner k
        (fun p => { p with sig := r.sig, hash := r.hash })) k 4 (by rw [State.modPartner_length, hlen]; exact h.1)
        (by decide) (by decide)
      rw [hstep4, State.modPartner_partner _ _ _ (by rw [hlen]; exact h.1)]
      exact ⟨rfl, rfl, rfl⟩
    · rw [hpol, if_neg (ne_true_of_eq_false hnone), State.partnerVerdict_facts _ k 2 (by rw [hlen]; exact h.1)]
      exact ⟨rfl, rfl⟩
  · obtain ⟨hpartner, hlen⟩ := s.answered_facts k h.1
    obtain ⟨session, hsigned⟩ := State.stepDone_signed (s.fresh.modPartner k (·.answered s.now)) k r
      (by rw [hpartner]; exact hstep)
    have hcheck := State.modPartner_partner (s.fresh.modPartner k (·.answered s.now)) k
      (fun p => { p with checking := true }) (by rw [hlen]; exact h.1)
    rw [hpartner] at hcheck
    refine ⟨_, (exec_requesterResponse h hinside).trans (congrArg _ hsigned), ?_, ?_, ⟨_, rfl, beq_self_eq_true k⟩⟩
    · exact congrArg Partner.checking hcheck
    · exact congrArg Partner.waiting hcheck
  · have hgo : ¬((!s.fresh.serving) = true) := by rw [show s.fresh.serving = true from hon]; decide
    have hlate' : s.fresh.eidQuarantined r.srcEid = true ∨ s.fresh.addrQuarantined (s.partner k).bus r.srcAddr = true ∨
        (!(s.partner k).waiting) = true ∨ (s.partner k).tag ≠ r.tag ∨ (s.partner k).eid ≠ r.srcEid := by
      simpa only [Bool.not_eq_true', show s.fresh.eidQuarantined = s.eidQuarantined from rfl,
        show s.fresh.addrQuarantined = s.addrQuarantined from rfl] using hlate
    exact ⟨_, congrArg Host.Outcome.next ((if_neg hgo).trans (if_pos hlate')), rfl⟩
  · exact ⟨_, (exec_requesterResponse_expected h).trans (congrArg _ (if_pos hout)), rfl⟩
  · obtain ⟨hpartner, hlen⟩ := s.expired_facts k hk
    rw [exec_requesterTimeout hon hwait hdue]
    refine ⟨_, rfl, fun hfew => ?_, fun hmany => ?_⟩
    · obtain ⟨hwaiting, hattempts, hsent, -⟩ := State.sendReq_facts (s.expired k) k (by rw [hlen]; exact hk)
      rw [hpartner] at hattempts
      rw [if_pos hfew]
      exact ⟨hwaiting, hattempts, hsent⟩
    · rw [if_neg (Nat.not_lt.mpr hmany), State.partnerVerdict_facts (s.expired k) k 8 (by rw [hlen]; exact hk)]
      exact ⟨rfl, rfl, rfl⟩
  · obtain ⟨hpartner, hlen⟩ := s.polled_facts k a hk
    rw [exec_partnerPoll hon hpolled hdue]
    refine ⟨_, rfl, fun ha => ?_, fun ha hfew => ?_, fun ha hmany => ?_⟩
    · subst ha
      rw [if_neg (by rw [hpartner]; exact Nat.not_succ_le_zero 2), hpartner]
      rfl
    · subst ha
      rw [if_neg (by rw [hpartner]; exact Nat.not_le.mpr (Nat.succ_lt_succ hfew)), hpartner]
      rfl
    · subst ha
      rw [if_pos (by rw [hpartner]; exact Nat.succ_le_succ hmany)]
      exact State.depart_partner _ k (by rw [hlen]; exact hk)
  · have hany : s.par.eidQuar.any (fun q => q.1 == v && q.2 + 20000000 ≤ s.now) = true :=
      List.any_eq_true.mpr ⟨(v, f), hmem, by simpa using hdue⟩
    have hfind : (List.range 64).find? (fun k => (s.partner k).st == .found && !(s.partner k).summary.isEmpty) = none := by
      refine List.find?_eq_none.mpr fun k hk => ?_
      have := hnone k (List.mem_range.mp hk)
      simpa [not_and] using this
    refine ⟨s.fresh.modPar (fun p => { p with eidQuar := p.eidQuar.filter (fun q =>
      !(q.1 == v && q.2 + 20000000 ≤ s.now)) }), congrArg Host.Outcome.next ((if_pos rfl).trans ((if_pos hany).trans ?_)), rfl⟩
    change (match (List.range 64).find? (fun k => (s.partner k).st == .found && !(s.partner k).summary.isEmpty) with
      | some k => _ | none => _) = _
    rw [hfind]
    rfl
  · exact ⟨_, exec_reattestTimer hon hperiod hdue, State.reattested_frame _ _⟩

end Sys2Proof.Machine

/-! # Settled: the device as SPDM responder (O30, O31, O32) -/

namespace Sys2Proof.Machine

open Sys2Proof

/-! ### What a request meets -/

theorem State.putConn_reads (s : State) (c : SpdmConn) (t p : Nat) (ht : c.transport = t) (hp : c.peer = p) :
    (s.putConn c).conn? t p = some c := ht ▸ hp ▸ s.putConn_conn c

/-- A reply to a request leaves the connection as put (R201). -/
theorem State.putConn_reply (s : State) (c : SpdmConn) (t p code : Nat) (b : Bytes) (ht : c.transport = t) (hp : c.peer = p) :
    ((s.putConn c).spdmReply t p code b).conn? t p = some c :=
  (State.conn_par (State.spdmReply_par _ _ _ _ _) t p).trans (s.putConn_reads c t p ht hp)

theorem State.spdmErr_out (s : State) (q : SpdmReq) (e : Nat) :
    Out.spdm q.transport q.peer 0x7F [BitVec.ofNat 8 e] ∈ (s.spdmErr q e []).out :=
  s.spdmReply_out q.transport q.peer 0x7F (bytesOf [e] ++ [])

/-- Outside quarantine the responder takes a message where SPDM is served (R198, R201). -/
theorem State.spdmTakes_none (s : State) (q : SpdmReq) (hon : s.spdmOn q.transport = true)
    (hquar : s.fromQuarantine q.transport q.peer = false) : s.fresh.spdmTakes q = none := by
  unfold State.spdmTakes
  rw [show s.fresh.spdmOn q.transport = true from hon, show s.fresh.fromQuarantine q.transport q.peer = false from hquar]
  rfl

theorem State.spdmTakes_quarantined (s : State) (q : SpdmReq) (hon : s.spdmOn q.transport = true)
    (hquar : s.fromQuarantine q.transport q.peer = true) : s.fresh.spdmTakes q = some s.fresh.lateMctp := by
  unfold State.spdmTakes
  rw [show s.fresh.spdmOn q.transport = true from hon, show s.fresh.fromQuarantine q.transport q.peer = true from hquar]
  rfl

/-- A request while another is outstanding is answered Busy (R201). -/
theorem State.spdmReq_busy (s : State) (q : SpdmReq) (lo hi : Nat) (f : State → SpdmConn → State)
    (hon : s.spdmOn q.transport = true) (hquar : s.fromQuarantine q.transport q.peer = false) (hbusy : s.spdmBusy q = true) :
    s.spdmReq q lo hi f = .next (s.fresh.spdmErr q 0x03 []) := by
  unfold State.spdmReq
  dsimp only
  rw [s.spdmTakes_none q hon hquar]
  exact congrArg Host.Outcome.next (if_pos hbusy)

theorem State.spdmReq_quarantined (s : State) (q : SpdmReq) (lo hi : Nat) (f : State → SpdmConn → State)
    (hon : s.spdmOn q.transport = true) (hquar : s.fromQuarantine q.transport q.peer = true) :
    s.spdmReq q lo hi f = .next s.fresh.lateMctp := by
  unfold State.spdmReq
  dsimp only
  rw [s.spdmTakes_quarantined q hon hquar]

/-- The connection of a request that is taken, with the request in its transcript (R201). -/
def SpdmConn.heard (c : SpdmConn) (q : SpdmReq) : SpdmConn := { c with transcript := c.transcript ++ q.payload }

/-- A request that is taken, answered from the state with its transcript (R201). -/
theorem State.spdmReq_answers (s : State) (q : SpdmReq) (c : SpdmConn) (lo hi code : Nat) (b : Bytes)
    (f : State → SpdmConn → State) (h : s.spdmReady q c lo hi)
    (hf : f (s.fresh.putConn (c.heard q)) (c.heard q) =
      (s.fresh.putConn (c.heard q)).spdmReply q.transport q.peer code b) :
    ∃ t, s.spdmReq q lo hi f = .next t ∧ t.conn? q.transport q.peer = some (c.heard q) ∧
      Out.spdm q.transport q.peer code b ∈ t.out := by
  obtain ⟨hexec, ht, hp⟩ := s.spdmReq_ready q c lo hi f h
  exact ⟨_, hexec.trans (congrArg _ hf), State.putConn_reply _ (c.heard q) _ _ _ _ ht hp, State.spdmReply_out _ _ _ _ _⟩

/-- A request that is taken and moves its connection (R201). -/
theorem State.spdmReq_moves (s : State) (q : SpdmReq) (c c' : SpdmConn) (lo hi code : Nat) (b : Bytes)
    (f : State → SpdmConn → State) (h : s.spdmReady q c lo hi) (ht : c'.transport = c.transport) (hp : c'.peer = c.peer)
    (hf : f (s.fresh.putConn (c.heard q)) (c.heard q) =
      ((s.fresh.putConn (c.heard q)).putConn c').spdmReply q.transport q.peer code b) :
    ∃ t, s.spdmReq q lo hi f = .next t ∧ t.conn? q.transport q.peer = some c' ∧
      Out.spdm q.transport q.peer code b ∈ t.out := by
  obtain ⟨hexec, htc, hpc⟩ := s.spdmReq_ready q c lo hi f h
  exact ⟨_, hexec.trans (congrArg _ hf), State.putConn_reply _ c' _ _ _ _ (ht.trans htc) (hp.trans hpc),
    State.spdmReply_out _ _ _ _ _⟩

/-! ### Connection messages (O30) -/

/-- The connection that GET_VERSION starts again (R201). -/
def firstConn (q : SpdmReq) : SpdmConn :=
  { transport := q.transport, peer := q.peer, version := 0, stage := 1, owed := none, transcript := q.payload, measFrom := none }

/-- The requests that every connection may meet while it is busy or in quarantine are taken by one rule (R198, R201). -/
theorem exec_spdmRequest (q : SpdmReq) (s : State) (hon : s.spdmOn q.transport = true) :
    ∀ f ∈ ([.getVersion, .getCapabilities, fun q => .negotiateAlgorithms q true, .getDigests, fun q => .getCertificate q 0 0
    0, fun q => .challenge q 0 0, fun q => .getMeasurements q 0 false, fun q => .keyExchange q 0] : List (SpdmReq →
    Instr)),
    (s.fromQuarantine q.transport q.peer = false → s.spdmBusy q = true → exec (f q) s = .next (s.fresh.spdmErr q 0x03 [])) ∧
    (s.fromQuarantine q.transport q.peer = true → exec (f q) s = .next s.fresh.lateMctp) := by
  have hreq : ∀ r : Res, (∃ lo hi g, r = s.spdmReq q lo hi g) →
      (s.fromQuarantine q.transport q.peer = false → s.spdmBusy q = true → r = .next (s.fresh.spdmErr q 0x03 [])) ∧
      (s.fromQuarantine q.transport q.peer = true → r = .next s.fresh.lateMctp) := by
    rintro r ⟨lo, hi, g, rfl⟩
    exact ⟨fun hquar hbusy => s.spdmReq_busy q lo hi g hon hquar hbusy, fun hquar => s.spdmReq_quarantined q lo hi g hon hquar⟩
  simp only [List.forall_mem_cons]
  refine ⟨⟨fun hquar hbusy => ?_, fun hquar => ?_⟩, hreq (execGetCapabilities q s) ⟨1, 1, _, rfl⟩,
    hreq (execNegotiateAlgorithms q true s) ⟨2, 2, _, rfl⟩, hreq (execGetDigests q s) ⟨3, 3, _, rfl⟩,
    hreq (execGetCertificate q 0 0 0 s) ⟨3, 3, _, rfl⟩, hreq (execChallenge q 0 0 s) ⟨3, 3, _, rfl⟩,
    hreq (execGetMeasurements q 0 false s) ⟨3, 3, _, rfl⟩, hreq (execKeyExchange q 0 s) ⟨3, 3, _, rfl⟩, by simp⟩
  · change execGetVersion q s = _
    unfold execGetVersion
    dsimp only
    rw [s.spdmTakes_none q hon hquar]
    exact congrArg Host.Outcome.next (if_pos hbusy)
  · change execGetVersion q s = _
    unfold execGetVersion
    dsimp only
    rw [s.spdmTakes_quarantined q hon hquar]

/-- Settles O30: each connection message through the responder's one check of requests. -/
theorem spdmConnection : Obligations.SpdmConnection := by
  refine ⟨fun q s hon hquar hbusy hvalid => ?_, fun q c s h hversion => ?_, fun q c s h => ?_, fun q c s h => ?_,
    fun q c s h => ?_, fun q c k o l b s h hchain hoff hlen => ?_, fun q k s hon hquar => ?_,
    fun f hf q s hon hquar hbusy => ?_, fun f hf q s hon hquar => ?_⟩
  · refine ⟨_, ?_, State.putConn_reply s.fresh (firstConn q) _ _ 0x04 (bytesOf [0x12, 0x13]) rfl rfl,
      State.spdmReply_out _ _ _ _ _⟩
    change execGetVersion q s = _
    unfold execGetVersion
    dsimp only
    rw [s.spdmTakes_none q hon hquar]
    exact congrArg Host.Outcome.next ((if_neg (ne_true_of_eq_false hbusy)).trans (if_neg (by simp [hvalid])))
  · change ∃ t, execGetCapabilities q s = _ ∧ _
    unfold execGetCapabilities
    exact s.spdmReq_moves q c { c.heard q with version := q.version, stage := 2 } 1 1 _ _ _ h rfl rfl
      (if_neg (fun e => hversion.elim e.1 e.2))
  · change ∃ t, execNegotiateAlgorithms q true s = _ ∧ _
    unfold execNegotiateAlgorithms
    exact s.spdmReq_moves q c { c.heard q with stage := 3 } 2 2 _ _ _ h rfl rfl (if_pos rfl)
  · change ∃ t, execNegotiateAlgorithms q false s = _ ∧ _
    unfold execNegotiateAlgorithms
    exact s.spdmReq_answers q c 2 2 0x7F [0x01] _ h (if_neg (by decide))
  · change ∃ t, execGetDigests q s = _ ∧ _
    unfold execGetDigests
    exact s.spdmReq_answers q c 3 3 0x01 _ _ h rfl
  · change ∃ t, execGetCertificate q k o l s = _ ∧ _
    unfold execGetCertificate
    refine s.spdmReq_answers q c 3 3 0x02 _ _ h ?_
    dsimp only
    rw [show (s.fresh.putConn (c.heard q)).certChain k = some b from hchain]
    exact if_neg (fun e => e.elim (Nat.not_le.mpr hoff) hlen)
  · refine ⟨s.fresh.spdmErr q (if s.spdmBusy q then 0x03 else 0x07) [], ?_, ?_, State.spdmErr_par _ _ _ _⟩
    · change execUnsupportedSpdmRequest q k s = _
      unfold execUnsupportedSpdmRequest
      dsimp only
      rw [s.spdmTakes_none q hon hquar, show s.fresh.spdmBusy q = s.spdmBusy q from rfl]
      cases s.spdmBusy q <;> rfl
    · have hout := s.fresh.spdmErr_out q (if s.spdmBusy q then 0x03 else 0x07)
      cases hbusy : s.spdmBusy q <;> rw [hbusy] at hout <;> exact hout
  · exact ⟨_, (exec_spdmRequest q s hon f hf).1 hquar hbusy, s.fresh.spdmErr_out q 0x03, State.spdmErr_par _ _ _ _⟩
  · exact ⟨_, (exec_spdmRequest q s hon f hf).2 hquar, rfl, rfl⟩

/-! ### Signed responses (O31) -/

/-- The response that a request with a signature leaves owed (R202). -/
def owedOf (q : SpdmReq) (code a b now : Nat) (told : Bool) : Owed :=
  { code := code, a := a, b := b, payload := q.payload, askedAt := now, left := if code = 0x64 then 2 else 1, told := told }

/-- The C0 programmes of a signed response (R202). -/
def signJobs (q : SpdmReq) (code id now : Nat) : List DevJob :=
  ⟨id, .pair false false 36 (.sign q.transport q.peer), now, none, 0⟩ ::
    (if code = 0x64 then [⟨id + 1, .pair false false 70 (.sign q.transport q.peer), now, none, 0⟩] else [])

theorem State.notReady_facts (s : State) (c : SpdmConn) (o : Owed) (t p : Nat) (ht : c.transport = t) (hp : c.peer = p) :
    (s.notReady c o).conn? t p = some { c with owed := some { o with told := true } } ∧
    (s.notReady c o).devJobs = s.devJobs ∧ (s.notReady c o).par.sessions = s.par.sessions ∧
    Out.spdm t p 0x7F (bytesOf [0x42, 12, o.code]) ∈ (s.notReady c o).out := by
  unfold State.notReady
  refine ⟨(State.conn_par (State.spdmReply_par _ _ _ _ _) _ _).trans
    (State.putConn_reads s { c with owed := some { o with told := true } } t p ht hp), ?_, ?_, ?_⟩
  · exact State.spdmReply_only _ _ _ _ _ (List.Subset.refl _) (State.only_refl _ _) .devJobs (by decide)
  · rw [State.spdmReply_par]
    rfl
  · rw [ht, hp]
    exact State.spdmReply_out _ _ _ _ _

/-- A response that needs a signature is owed, and its programmes are queued (R202). -/
theorem State.signOwed_facts (s : State) (q : SpdmReq) (c : SpdmConn) (code a b : Nat) (ht : c.transport = q.transport)
    (hp : c.peer = q.peer) :
    (s.signOwed q c code a b).conn? q.transport q.peer =
      some { c with owed := some (owedOf q code a b s.now (!s.c0Pk)) } ∧
    (s.signOwed q c code a b).devJobs = s.devJobs ++ signJobs q code s.nextJob s.now ∧
    (s.signOwed q c code a b).par.sessions = s.par.sessions ∧
    (s.c0Pk = false → Out.spdm q.transport q.peer 0x7F (bytesOf [0x42, 12, code]) ∈ (s.signOwed q c code a b).out) := by
  obtain ⟨u, hu⟩ : ∃ u, u = s.putConn { c with owed := some (owedOf q code a b s.now false) } := ⟨_, rfl⟩
  obtain ⟨v, hv⟩ : ∃ v : State, v = (if code = 0x64 then (u.addDev (.pair false false 36 (.sign q.transport q.peer))).addDev
      (.pair false false 70 (.sign q.transport q.peer)) else u.addDev (.pair false false 36 (.sign q.transport q.peer))) := ⟨_, rfl⟩
  have hpar : v.par = u.par := by rw [hv]; split <;> rfl
  have hjobs : v.devJobs = s.devJobs ++ signJobs q code s.nextJob s.now := by
    rw [hv, hu]
    unfold signJobs
    split
    · exact List.append_assoc _ _ _
    · rfl
  have hc0 : v.c0Pk = s.c0Pk := by
    rw [hv, hu]
    split <;> exact State.c0Pk_of_yard rfl rfl rfl rfl
  have hsigned : s.signOwed q c code a b = if v.c0Pk then v else v.notReady c (owedOf q code a b s.now false) := by
    rw [hv, hu]
    rfl
  have hsessions : u.par.sessions = s.par.sessions := by rw [hu]; rfl
  rw [hsigned, hc0]
  cases hready : s.c0Pk with
  | true =>
    rw [if_pos rfl]
    refine ⟨?_, hjobs, by rw [hpar, hsessions], fun h => by cases h⟩
    rw [State.conn_par hpar, hu]
    exact State.putConn_reads s _ _ _ ht hp
  | false =>
    rw [if_neg (by decide)]
    obtain ⟨hconn, hdev, hsess, hout⟩ := v.notReady_facts c (owedOf q code a b s.now false) _ _ ht hp
    exact ⟨hconn, by rw [hdev, hjobs], by rw [hsess, hpar, hsessions], fun _ => hout⟩

/-- A signed response other than KEY_EXCHANGE_RSP leaves, and nothing more is owed (R202). -/
theorem State.signedReply_plain (s : State) (c : SpdmConn) (o : Owed) (t p : Nat) (ht : c.transport = t) (hp : c.peer = p)
    (h : o.code ≠ 0x64) :
    (∃ g, Out.spdm t p o.code g ∈ (s.signedReply c o).out) ∧
    (s.signedReply c o).conn? t p = some { c with owed := none } := by
  unfold State.signedReply
  rw [if_neg h]
  refine ⟨?_, (State.conn_par (State.spdmReply_par _ _ _ _ _) _ _).trans
    (State.putConn_reads _ { c with owed := none } _ _ ht hp)⟩
  rw [ht, hp]
  exact ⟨_, State.spdmReply_out _ _ _ _ _⟩

/-- KEY_EXCHANGE_RSP leaves with its session, while eight are not open (R202, R209). -/
theorem State.keyExchangeReply_leaves (s : State) (c : SpdmConn) (o : Owed) (t p : Nat) (ht : c.transport = t) (hp : c.peer = p)
    (h : s.par.sessions.length < 8) :
    (∃ g, Out.spdm t p 0x64 g ∈ (s.keyExchangeReply c o).out) ∧
    (s.keyExchangeReply c o).conn? t p = some { c with owed := none } := by
  unfold State.keyExchangeReply
  dsimp only
  rw [if_neg (Nat.not_le.mpr h)]
  refine ⟨?_, (State.conn_par (State.spdmReply_par _ _ _ _ _) _ _).trans
    (State.putConn_reads _ { c with owed := none } _ _ ht hp)⟩
  rw [ht, hp]
  exact ⟨_, State.spdmReply_out _ _ _ _ _⟩

theorem State.signedReply_keyExchange (s : State) (c : SpdmConn) (o : Owed) (h : o.code = 0x64) :
    s.signedReply c o = s.keyExchangeReply c o := if_pos h

/-- RESPOND_IF_READY for a response that is owed and was told not ready (R202). -/
theorem exec_respondIfReady {q : SpdmReq} {c : SpdmConn} {o : Owed} {s : State} (hon : s.spdmOn q.transport = true)
    (hquar : s.fromQuarantine q.transport q.peer = false) (hconn : s.conn? q.transport q.peer = some c)
    (howed : c.owed = some o) (htold : o.told = true) (hvalid : q.valid = true) (hversion : q.version = c.version) :
    exec (.respondIfReady q) s = .next (if o.left = 0 then s.fresh.signedReply c o else s.fresh.notReady c o) := by
  change execRespondIfReady q s = _
  unfold execRespondIfReady
  dsimp only
  rw [s.spdmTakes_none q hon hquar, show s.fresh.conn? q.transport q.peer = some c from hconn]
  simp only [Option.bind_some, howed, Option.map_some, htold, hvalid, hversion, Bool.not_true, Bool.false_eq_true, if_false,
    ne_eq, not_true_eq_false]

/-- The connection whose measurement transcript begins with this request, if none did (R207). -/
def SpdmConn.measured (c : SpdmConn) (s : State) : SpdmConn := { c with measFrom := some (c.measFrom.getD s.par.measSerial) }

/-- What GET_MEASUREMENTS does with a request that is taken (R207). -/
def measReply (q : SpdmReq) (i : Nat) (sign : Bool) (s : State) (c : SpdmConn) : State :=
  match s.measRecord i with
  | none => (s.putConn (c.measured s)).spdmErr q 0x01 []
  | some r =>
    if sign then (s.putConn (c.measured s)).signOwed q (c.measured s) 0x60 i 0
    else (s.putConn (c.measured s)).spdmReply q.transport q.peer 0x60
      (bytesOf [i, (s.putConn (c.measured s)).measNote (c.measured s)] ++ r)

theorem measReply_record (q : SpdmReq) (i : Nat) (sign : Bool) (s : State) (c : SpdmConn) (r : Bytes)
    (h : s.measRecord i = some r) :
    measReply q i sign s c = if sign then (s.putConn (c.measured s)).signOwed q (c.measured s) 0x60 i 0
      else (s.putConn (c.measured s)).spdmReply q.transport q.peer 0x60
        (bytesOf [i, (s.putConn (c.measured s)).measNote (c.measured s)] ++ r) := by
  unfold measReply
  rw [h]

/-- Settles O31: a signed response is owed with its programmes, and leaves when they have ended. -/
theorem spdmSigned : Obligations.SpdmSigned := by
  refine ⟨fun q c k m b s h hchain hm => ?_, fun q c i r s h hrecord => ?_, fun q c i r s h hrecord => ?_,
    fun q c k b s h hchain => ?_, fun q c o s hon hquar hconn howed htold hvalid hversion => ?_⟩
  · obtain ⟨hexec, ht, hp⟩ := s.spdmReq_ready q c 3 3 (fun s c =>
      if (s.certChain k).isNone ∨ (m ≠ 0 ∧ m ≠ 1 ∧ m ≠ 0xFF) then s.spdmErr q 0x01 [] else s.signOwed q c 3 k m) h
    have hgo : ¬((s.certChain k).isNone = true ∨ (m ≠ 0 ∧ m ≠ 1 ∧ m ≠ 0xFF)) := by
      simp only [hchain, Option.isNone_some, Bool.false_eq_true, false_or, not_and, not_not]
      omega
    obtain ⟨howed, hjobs, -, hout⟩ := State.signOwed_facts (s.fresh.putConn (c.heard q)) q (c.heard q) 3 k m ht hp
    have hc0 : (s.fresh.putConn (c.heard q)).c0Pk = s.c0Pk := State.c0Pk_of_yard rfl rfl rfl rfl
    rw [hc0] at howed hout
    exact ⟨_, (show execChallenge q k m s = _ from hexec).trans (congrArg _ (if_neg hgo)), howed, hjobs, hout⟩
  · obtain ⟨hexec, -, -⟩ := s.spdmReq_ready q c 3 3 (measReply q i false) h
    refine ⟨_, (show execGetMeasurements q i false s = _ from hexec).trans (congrArg Host.Outcome.next
      (measReply_record q i false _ _ r hrecord)), _, State.spdmReply_out _ _ _ _ _⟩
  · obtain ⟨hexec, ht, hp⟩ := s.spdmReq_ready q c 3 3 (measReply q i true) h
    obtain ⟨howed, hjobs, -, hout⟩ := State.signOwed_facts ((s.fresh.putConn (c.heard q)).putConn ((c.heard q).measured s)) q
      ((c.heard q).measured s) 0x60 i 0 ht hp
    have hc0 : ((s.fresh.putConn (c.heard q)).putConn ((c.heard q).measured s)).c0Pk = s.c0Pk :=
      State.c0Pk_of_yard rfl rfl rfl rfl
    rw [hc0] at howed hout
    exact ⟨_, (show execGetMeasurements q i true s = _ from hexec).trans (congrArg Host.Outcome.next
      (measReply_record q i true _ _ r hrecord)), howed, hjobs, hout⟩
  · obtain ⟨hexec, ht, hp⟩ := s.spdmReq_ready q c 3 3 (fun s c => if (s.certChain k).isNone then s.spdmErr q 0x01 []
      else if 8 ≤ s.par.sessions.length then (s.latch 10 11).spdmErr q 0x0A [] else s.signOwed q c 0x64 k 0) h
    have hgo : ¬((s.certChain k).isNone = true) := by simp [hchain]
    obtain ⟨howed, hjobs, hsess, -⟩ := State.signOwed_facts (s.fresh.putConn (c.heard q)) q (c.heard q) 0x64 k 0 ht hp
    have hc0 : (s.fresh.putConn (c.heard q)).c0Pk = s.c0Pk := State.c0Pk_of_yard rfl rfl rfl rfl
    rw [hc0] at howed
    have hrun := (show execKeyExchange q k s = _ from hexec).trans (congrArg Host.Outcome.next (if_neg hgo))
    by_cases hfull : 8 ≤ s.par.sessions.length
    · exact ⟨_, hrun.trans (congrArg Host.Outcome.next (if_pos hfull)), (congrArg Par.sessions (State.spdmErr_par _ _ _ _) :),
        fun h => absurd hfull (Nat.not_le.mpr h), fun _ => State.spdmErr_out _ q 0x0A⟩
    · exact ⟨_, hrun.trans (congrArg Host.Outcome.next (if_neg hfull)), hsess, fun _ => ⟨howed, hjobs⟩, fun h => absurd h hfull⟩
  · have hfind := List.find?_some hconn
    simp only [Bool.and_eq_true, beq_iff_eq] at hfind
    obtain ⟨ht, hp⟩ := hfind
    refine ⟨_, exec_respondIfReady hon hquar hconn howed htold hvalid hversion, fun hleft => ?_, fun hleft hroom => ?_⟩
    · obtain ⟨hc, -, -, hout⟩ := s.fresh.notReady_facts c o _ _ ht hp
      have hsame : ({ c with owed := some { o with told := true } } : SpdmConn) = c := by
        rw [show ({ o with told := true } : Owed) = o by rw [← htold], ← howed]
      rw [if_neg hleft]
      exact ⟨hout, hc.trans (congrArg some hsame)⟩
    · rw [if_pos hleft]
      by_cases hcode : o.code = 0x64
      · have hfew := hroom.resolve_left (not_not_intro hcode)
        obtain ⟨⟨g, hg⟩, hc⟩ := s.fresh.keyExchangeReply_leaves c o _ _ ht hp hfew
        obtain ⟨x, hx, hxt, hxp, hxe⟩ := s.fresh.keyExchangeReply_session c o hfew
        rw [State.signedReply_keyExchange _ _ _ hcode, hcode]
        exact ⟨⟨g, hg⟩, hc, fun _ => ⟨x, hx, hxt.trans ht, hxp.trans hp, hxe⟩⟩
      · obtain ⟨hg, hc⟩ := s.fresh.signedReply_plain c o _ _ ht hp hcode
        exact ⟨hg, hc, fun e => absurd e hcode⟩


/-! ### Sessions (O32) -/

/-- A request in a live session is answered from the state in which the session was heard (R209). -/
theorem State.spdmInReq_ready (s : State) (q : SpdmReq) (i : Nat) (x : SpdmSess) (f : State → SpdmSess → State)
    (h : s.sessReady q i x) :
    s.spdmInReq q i f = .next (f (s.fresh.modSpdm i (fun x => { x with lastAt := s.now })) x) := by
  obtain ⟨hon, hquar, hx, hbusy, hversion⟩ := h
  have hsame : ¬((match s.conn? q.transport q.peer with | some c => c.version != q.version | none => false) = true) := by
    cases hc : s.conn? q.transport q.peer with
    | none => exact Bool.false_ne_true
    | some c => simp [hversion c hc]
  exact (s.spdmIn_live q i x _ hon hquar hx).trans (congrArg Host.Outcome.next
    ((if_neg (ne_true_of_eq_false hbusy)).trans (if_neg hsame)))

theorem State.spdmSess_id {s : State} {q : SpdmReq} {i : Nat} {x : SpdmSess} (h : s.spdmSess? q i = some x) : x.id = i := by
  have hfind := List.find?_some h
  simp only [Bool.and_eq_true, beq_iff_eq] at hfind
  exact hfind.1.1

/-- No session of the ended one's ID is left (R209). -/
theorem State.endSpdm_gone (s : State) (x : SpdmSess) : ∀ y ∈ (s.endSpdm x).par.sessions, y.id ≠ x.id := by
  intro y hy
  rw [State.endSpdm_sessions] at hy
  simpa using (List.mem_filter.mp hy).2

/-- The change of a session leaves the other sessions and every ID. -/
theorem modSess_map (l : List SpdmSess) (i : Nat) (f g : SpdmSess → SpdmSess) (hid : ∀ y, (f y).id = y.id) :
    (l.map (fun y => if y.id == i then f y else y)).map (fun y => if y.id == i then g y else y) =
      l.map (fun y => if y.id == i then g (f y) else y) := by
  rw [List.map_map]
  refine List.map_congr_left fun y _ => ?_
  by_cases h : y.id = i
  · simp [Function.comp, h, hid]
  · simp [Function.comp, h]

/-- Settles O32: each session message, through the rule that finds its session. -/
theorem spdmSessions : Obligations.SpdmSessions := by
  refine ⟨fun q i x s h hopen => ?_, fun q i x s h hopen => ?_, fun q i x s h hopen => ?_, fun q i x o s h hopen h1 h3 => ?_,
    fun q i x s h => ?_, fun q i x s h => ?_, fun q i b s hon hquar hnone => ?_, fun i x s hserving hx hdue => ?_,
    fun i k s hserving hnone hi hk hlen hk' hfirst hdue => ?_, fun p n s hserving hp hval hroom hnew => ?_⟩
  · change ∃ t, execFinish q i true s = _ ∧ _
    unfold execFinish
    refine ⟨_, (s.spdmInReq_ready q i x _ h).trans (congrArg Host.Outcome.next ((if_neg (ne_true_of_eq_false hopen)).trans
      (if_neg (by decide)))), ?_, ?_, ?_⟩
    · exact State.spdmReply_out _ _ _ _ _
    · rw [State.ev_par, State.spdmReply_par]
      intro y hy hid
      obtain ⟨z, -, rfl⟩ := List.mem_map.mp hy
      by_cases hz : z.id = i
      · simp [hz]
      · simp [hz] at hid
    · rw [State.ev_par, State.spdmReply_par]
      exact (List.length_map _).trans (List.length_map _)
  · change ∃ t, execFinish q i false s = _ ∧ _
    unfold execFinish
    refine ⟨_, (s.spdmInReq_ready q i x _ h).trans (congrArg Host.Outcome.next ((if_neg (ne_true_of_eq_false hopen)).trans
      (if_pos (by decide)))), ?_, ?_⟩
    · rw [State.endSpdm_out]
      exact State.spdmErr_out _ q 0x06
    · rw [← State.spdmSess_id h.2.2.1]
      exact State.endSpdm_gone _ x
  · change ∃ t, execHeartbeat q i s = _ ∧ _
    unfold execHeartbeat
    exact ⟨_, (s.spdmInReq_ready q i x _ h).trans (congrArg Host.Outcome.next (if_pos hopen)), State.spdmReply_out _ _ _ _ _,
      congrArg Par.sessions (State.spdmReply_par _ _ _ _ _)⟩
  · change ∃ t, execKeyUpdate q i o s = _ ∧ _
    unfold execKeyUpdate
    exact ⟨_, (s.spdmInReq_ready q i x _ h).trans (congrArg Host.Outcome.next ((if_neg (by simp [hopen])).trans
      (if_neg (by omega)))), State.spdmReply_out _ _ _ _ _, (congrArg Par.sessions (State.spdmReply_par _ _ _ _ _)).trans
      (modSess_map _ _ _ _ fun _ => rfl)⟩
  · change ∃ t, execSecuredMessage q i true s = _ ∧ _
    unfold execSecuredMessage
    exact ⟨_, (s.spdmIn_live q i x _ h.1 h.2.1 h.2.2.1).trans (congrArg Host.Outcome.next (if_pos rfl)), rfl, rfl⟩
  · change ∃ t, execSecuredMessage q i false s = _ ∧ _
    unfold execSecuredMessage
    refine ⟨_, (s.spdmIn_live q i x _ h.1 h.2.1 h.2.2.1).trans (congrArg Host.Outcome.next (if_neg (by decide))), ?_, ?_⟩
    · rw [State.latch_out, State.endSpdm_out]
      exact State.spdmErr_out _ q 0x06
    · rw [State.latch_par, ← State.spdmSess_id h.2.2.1]
      exact State.endSpdm_gone _ x
  · refine ⟨s.fresh.deadSpdm q, ?_, ?_⟩
    · change execSecuredMessage q i b s = _
      unfold execSecuredMessage State.spdmIn
      dsimp only
      rw [s.spdmTakes_none q hon hquar, show s.fresh.spdmSess? q i = none from hnone]
    · unfold State.deadSpdm
      dsimp only
      split <;> exact ⟨rfl, rfl⟩
  · have hid : x.id = i := by simpa using List.find?_some hx
    refine ⟨(s.fresh.endSpdm x).latch 10 12, ?_, ?_⟩
    · change execSessionHeartbeatTimeout i s = _
      unfold execSessionHeartbeatTimeout
      dsimp only
      rw [show s.fresh.par.sessions.find? (·.id == i) = some x from hx]
      exact congrArg Host.Outcome.next (if_neg fun e => e.elim (fun e => by rw [show s.serving = _ from e] at hserving; cases hserving)
        (Nat.not_lt.mpr hdue))
    · rw [State.latch_par, ← hid]
      exact State.endSpdm_gone _ x
  · have hfind : (List.range 64).find? (fun k => i != 0 && (s.fresh.partner k).session == i) = some k := by
      change (List.range 64).find? (fun k => i != 0 && (s.partner k).session == i) = some k
      refine List.find?_range_eq_some.mpr ⟨by simpa [hi] using hk', List.mem_range.mpr hk, fun j hj => ?_⟩
      simpa [hi] using hfirst j hj
    refine ⟨(s.fresh.endOwnSession k).latch 10 12, ?_, ?_⟩
    · change execSessionHeartbeatTimeout i s = _
      unfold execSessionHeartbeatTimeout
      dsimp only
      rw [show s.fresh.par.sessions.find? (·.id == i) = none from hnone]
      dsimp only
      rw [hfind]
      exact congrArg Host.Outcome.next (if_neg fun e => e.elim (fun e => by rw [show s.serving = _ from e] at hserving; cases hserving)
        (Nat.not_lt.mpr hdue))
    · rw [State.partner_of_par (State.latch_par _ _ _) k, (State.endOwnSession_partner s.fresh k hlen).1]
  · refine ⟨_, congrArg Host.Outcome.next ((if_neg ?_).trans ((if_neg (Nat.not_le.mpr hroom)).trans ((if_neg (by decide)).trans
      (if_neg (ne_true_of_eq_false hnew))))), rfl, rfl⟩
    change ¬((!s.serving) = true ∨ 1 < p ∨ s.valU (mkKey (0xA010 + p) 0x01) ≠ 1)
    simp only [hserving, hval, Bool.not_true, Bool.false_eq_true, ne_eq, not_true_eq_false, false_or, or_false]
    omega

end Sys2Proof.Machine

/-! # Settled: the writes of dictionary entries (O33, O35 to O40) -/

namespace Sys2Proof.Machine

open Sys2Proof

/-! ### What an accepted write leaves -/

/-- The entries whose write follows the common rule: none of those with a rule of their own (R431, R437 to R440, R456). -/
def plainEntry (key : Nat) : Prop :=
  key ≠ 0x500001 ∧ key ≠ 0x800101 ∧ key ≠ 0x800103 ∧ key ≠ 0x001001 ∧ key ≠ 0x001003 ∧ key ≠ 0x900009

/-- An accepted write of a plain entry with a known effect: the parts, the values and the reply (R427, R432). -/
theorem State.writeRow_applies (s : State) (r : Req) (x : Sess) (key : Nat) (v : Bytes) (u : State → State)
    (h : s.takes r x key v) (hkey : plainEntry key) (hu : ∀ m, m.applyEntry key v = (stOk, u m)) :
    ∃ m, s.fresh.noted m ∧ (∀ p, p ∉ [Part.dmb, .dict, .out] → (u m).same p (s.fresh.writeRow r key v)) ∧
      (∃ a, (s.fresh.writeRow r key v).dict = { (u m).dict with sessions := a }) ∧
      (∀ j, (s.fresh.writeRow r key v).val j = if j = key then v else s.val j) ∧
      .reply x.id r.seq stOk 0 [] ∈ (s.fresh.writeRow r key v).out := by
  obtain ⟨m, hm, hsame, hdict, hval, hout⟩ := s.writeRow_facts' r x key v h hkey
  rw [hu m] at hsame hdict hout
  exact ⟨m, hm, hsame, hdict, hval, hout⟩

theorem State.written_core (s : State) (key : Nat) (v : Bytes) : (s.written key v).core = s.core := rfl

theorem State.noted.unchanged {s m : State} (h : s.noted m) (p : Part) (hp : p ∉ [Part.ports, .log, .atn, .dict]) : s.same p m :=
  h.only p hp

/-! ### The device-firmware entries (O33) -/

theorem State.fwActivate_ledger (m : State) (v : Bytes) (slot : Nat) (hslot : slot = 1 ∨ slot = 2) (hv : ofLE v = slot) :
    ∃ l, (m.applyPlatform 0x11000A v).ledger = some l ∧ l.trial = some (if slot = 2 then Slot.b else .a) ∧ l.count = 0 ∧
      (if slot = 2 then l.stB else l.stA) = .trial := by
  have hfits := DevLedger.setSt_fits m.ledger_fits (if slot = 2 then Slot.b else .a) .trial
  have hrec := m.putLedger_ledger (fun l => { l.setSt (if slot = 2 then Slot.b else .a) .trial with
    trial := some (if slot = 2 then Slot.b else .a), count := 0 })
    ⟨hfits.1, by dsimp only; rcases hslot with rfl | rfl <;> simp, Nat.zero_lt_succ _, hfits.2.2.2⟩
  have happly : m.applyPlatform 0x11000A v = m.putLedger (fun l => { l.setSt (if slot = 2 then Slot.b else .a) .trial with
      trial := some (if slot = 2 then Slot.b else .a), count := 0 }) := by rw [← hv]; rfl
  refine ⟨_, (congrArg State.ledger happly).trans hrec, rfl, rfl, ?_⟩
  rcases hslot with rfl | rfl <;> rfl

theorem State.confirmTrial_ends {s : State} (h : s.boot.trialFrom.isSome = true) : s.confirmTrial.boot.trialFrom = none := by
  obtain ⟨k, hk⟩ := Option.isSome_iff_exists.mp h
  unfold State.confirmTrial
  rw [hk]
  rfl

/-- Settles O33: each entry's effect on the firmware ledger, the reset and the power state. -/
theorem firmwareEntries : Obligations.FirmwareEntries := by
  refine ⟨fun r x slot s h hslot => ?_, fun r x v s h hv htrial => ?_, fun r x v s h hv => ?_, fun r x v s h hv => ?_,
    fun r x v s h hv => ?_⟩
  · obtain ⟨m, hm, hsame, -, -, hout⟩ := s.writeRow_applies r x 0x11000A (encN 1 slot)
      (fun m => (m.written 0x11000A (encN 1 slot)).applyPlatform 0x11000A (encN 1 slot)) h (by unfold plainEntry; decide)
      (fun _ => rfl)
    refine ⟨_, rfl, ?_, hout⟩
    obtain ⟨l, hl, hfacts⟩ := (m.written 0x11000A (encN 1 slot)).fwActivate_ledger (encN 1 slot) slot hslot
      (ofLE_encN 1 slot (by omega))
    exact ⟨l, (congrArg (fun b : Boot => b.ledger.inForce devForm) (hsame .boot (by decide))).trans hl, hfacts⟩
  · subst hv
    obtain ⟨m, hm, hsame, -, -, hout⟩ := s.writeRow_applies r x 0x110008 (encN 1 1)
      (fun m => (m.written 0x110008 (encN 1 1)).confirmTrial) h (by unfold plainEntry; decide) (fun _ => rfl)
    have hsameBoot : (m.written 0x110008 (encN 1 1)).boot = s.boot := hm.unchanged .boot (by decide)
    obtain ⟨k, hk⟩ := Option.isSome_iff_exists.mp htrial
    have hboot : (s.fresh.writeRow r 0x110008 (encN 1 1)).boot = (m.written 0x110008 (encN 1 1)).confirmTrial.boot :=
      hsame .boot (by decide)
    obtain ⟨l, hl, hfacts⟩ := (m.written 0x110008 (encN 1 1)).confirmTrial_facts k (by rw [hsameBoot, hk])
    rw [hsameBoot] at hfacts
    refine ⟨_, rfl, ⟨l, (congrArg (fun b : Boot => b.ledger.inForce devForm) hboot).trans hl, hfacts⟩, ?_, hout⟩
    rw [hboot, State.confirmTrial_ends (by rw [hsameBoot, hk]; rfl)]
  · subst hv
    obtain ⟨m, hm, hsame, -, -, hout⟩ := s.writeRow_applies r x 0x11000B (encN 1 1)
      (fun m => (m.written 0x11000B (encN 1 1)).fullResetDue .fwRestart) h (by unfold plainEntry; decide) (fun _ => rfl)
    have hcore : m.core = s.core := hm.unchanged .core (by decide)
    exact ⟨_, rfl, (congrArg Core.fullReset (hsame .core (by decide))).trans (by rw [← hcore]; rfl), hout⟩
  · obtain ⟨m, hm, hsame, -, -, hout⟩ := s.writeRow_applies r x 0x110005 (encN 1 v)
      (fun m => (m.written 0x110005 (encN 1 v)).putLedger (fun l => { l with target := ofLE (encN 1 v) })) h
      (by unfold plainEntry; decide) (fun _ => rfl)
    obtain ⟨h1, h2, h3, -, h5⟩ := (m.written 0x110005 (encN 1 v)).ledger_fits
    have htarget : ofLE (encN 1 v) = v := ofLE_encN 1 v hv
    have hrec := (m.written 0x110005 (encN 1 v)).putLedger_ledger (fun l => { l with target := ofLE (encN 1 v) })
      ⟨h1, h2, h3, htarget.trans_lt hv, h5⟩
    exact ⟨_, rfl, ⟨_, (congrArg (fun b : Boot => b.ledger.inForce devForm) (hsame .boot (by decide))).trans hrec, htarget⟩, hout⟩
  · subst hv
    obtain ⟨m, hm, hsame, -, -, hout⟩ := s.writeRow_applies r x 0x710001 (encN 1 1)
      (fun m => (m.written 0x710001 (encN 1 1)).modPwr (fun p => { p with sleepReq := true })) h
      (by unfold plainEntry; decide) (fun _ => rfl)
    exact ⟨_, rfl, congrArg Pwr.sleepReq (hsame .pwr (by decide)), hout⟩

/-! ### The monitor, Cucen Link and attention entries (O35) -/

theorem State.noted.val {s m : State} (h : s.noted m) (j : Nat) : m.val j = s.val j := by
  obtain ⟨a, c, hdict⟩ := h.dict
  unfold State.val
  rw [hdict]

theorem mkKey_index {i k : Nat} (h : k < 256) : mkKey i k / 256 = i ∧ mkKey i k % 256 = k := by
  unfold mkKey
  omega

/-- A cleared acting-master entry makes a restart due where it was set (R413). -/
theorem State.clearActing_resets {s : State} (h : s.valU 0x90000A = 1) :
    s.clearActing.core.fullReset = some (s.core.fullReset.getD .cascade) := by
  unfold State.clearActing
  rw [if_pos (show s.valU (mkKey 0x9000 0x0A) = 1 from h)]
  rfl

/-- The written bits that are not fresh are clear in their group (R512). -/
theorem State.clearLeaves_clear (s : State) (g : Nat) (m : BitVec 16) (b : Nat) (hm : m.getLsbD b = true)
    (hfresh : ((s.clearLeaves g m).atn.fresh.getD g 0).getLsbD b = false) :
    ((s.clearLeaves g m).atn.cause.getD g 0).getLsbD b = false := by
  change ((updAt s.atn.cause g (fun c => clearBits c (clearBits m (s.atn.fresh.getD g 0)))).getD g 0).getLsbD b = false
  have hf : (s.atn.fresh.getD g 0).getLsbD b = false := hfresh
  rw [updAt_getD]
  split
  · simp only [clearBits, BitVec.getLsbD_and, BitVec.getLsbD_not, hm, hf]
    simp
  · rename_i hout
    rw [List.getD_eq_default _ _ (Nat.le_of_not_lt fun hlt => hout ⟨rfl, hlt⟩)]
    simp

/-- Settles O35: each entry's effect on the monitors, the link and the attention registers. -/
theorem monitorEntries : Obligations.MonitorEntries := by
  refine ⟨fun r x v s h hv => ?_, fun r x n s h hn => ?_, fun r x n v s h hn => ?_, fun r x v s h hv => ?_,
    fun r x v s h hv => ?_, fun r x v s h => ?_, fun r x g v s h hg hv => ?_⟩
  · obtain ⟨m, hm, hsame, -, -, hout⟩ := s.writeRow_applies r x 0x700003 (encN 4 v)
      (fun m => (m.written 0x700003 (encN 4 v)).clearMonitors (BitVec.ofNat 24 (ofLE (encN 4 v)))) h
      (by unfold plainEntry; decide) (fun _ => rfl)
    have hmon : (s.fresh.writeRow r 0x700003 (encN 4 v)).mon = (s.clearMonitors (BitVec.ofNat 24 v)).mon := by
      rw [(hsame .mon (by decide) :)]
      change (m.clearMonitors (BitVec.ofNat 24 (ofLE (encN 4 v)))).mon = _
      rw [ofLE_encN 4 v (by omega)]
      unfold State.clearMonitors State.modMon
      rw [(hm.unchanged .mon (by decide) : m.mon = s.mon)]
      rfl
    exact ⟨_, rfl, congrArg Mon.latched hmon, congrArg Mon.word hmon, congrArg Mon.wordZ hmon, hout⟩
  · obtain ⟨m, hm, hsame, -, -, hout⟩ := s.writeRow_applies r x 0x700004 (encN 1 n)
      (fun m => (m.written 0x700004 (encN 1 n)).beginTest (ofLE (encN 1 n))) h (by unfold plainEntry; decide) (fun _ => rfl)
    have hmon : (s.fresh.writeRow r 0x700004 (encN 1 n)).mon = (s.beginTest n).mon := by
      rw [(hsame .mon (by decide) :)]
      change (m.beginTest (ofLE (encN 1 n))).mon = _
      rw [ofLE_encN 1 n hn]
      unfold State.beginTest State.modMon State.now
      rw [(hm.unchanged .mon (by decide) : m.mon = s.mon), (hm.unchanged .core (by decide) : m.core = s.core)]
      rfl
    exact ⟨_, rfl, congrArg Mon.testMon hmon, congrArg Mon.testEnd hmon, congrArg Mon.testResult hmon, hout⟩
  · obtain ⟨hindex, -⟩ := mkKey_index (i := 0x7010) (show n < 256 by omega)
    obtain ⟨m, hm, hsame, -, hval, hout⟩ := s.writeRow_applies r x (mkKey 0x7010 n) (encN 1 v)
      (fun m => m.written (mkKey 0x7010 n) (encN 1 v)) h (by unfold plainEntry; omega) (fun m => m.apply_rest _ _ hindex)
    exact ⟨_, rfl, (hval _).trans (if_pos rfl), (hsame .mon (by decide)).trans (hm.unchanged .mon (by decide)), hout⟩
  · obtain ⟨m, hm, hsame, -, hval, hout⟩ := s.writeRow_applies r x 0x900003 (encN 1 v)
      (fun m => m.written 0x900003 (encN 1 v)) h (by unfold plainEntry; decide) (fun _ => rfl)
    exact ⟨_, rfl, (congrArg ofLE ((hval _).trans (if_pos rfl))).trans (ofLE_encN 1 v (by omega)),
      (hsame .cas (by decide)).trans (hm.unchanged .cas (by decide)), hout⟩
  · subst hv
    obtain ⟨m, hm, hsame, -, hval, hout⟩ := s.writeRow_applies r x 0x90000A (encN 1 0)
      (fun m => m.clearActing.written 0x90000A (encN 1 0)) h (by unfold plainEntry; decide) (fun _ => rfl)
    refine ⟨_, rfl, (congrArg ofLE ((hval _).trans (if_pos rfl))).trans (ofLE_encN 1 0 (by decide)), fun hset => ?_, hout⟩
    have hcore : (s.fresh.writeRow r 0x90000A (encN 1 0)).core = m.clearActing.core :=
      (hsame .core (by decide) :).trans (State.written_core _ _ _)
    rw [hcore, State.clearActing_resets (by unfold State.valU; rw [hm.val]; exact hset),
      (hm.unchanged .core (by decide) : m.core = s.core)]
    rfl
  · obtain ⟨m, hm, hsame, -, -, hout⟩ := s.writeRow_applies r x 0xA02301 v
      (fun m => (m.written 0xA02301 v).clearLeaves (u8 v 0) (BitVec.ofNat 16 (uLE v 2 2))) h
      (by unfold plainEntry; decide) (fun _ => rfl)
    refine ⟨_, rfl, fun b hb hfresh => ?_, hout⟩
    have hatn : (s.fresh.writeRow r 0xA02301 v).atn = _ := hsame .atn (by decide)
    rw [hatn] at hfresh ⊢
    exact State.clearLeaves_clear _ _ _ b hb hfresh
  · obtain ⟨hindex, hrest⟩ := mkKey_index (i := 0xA020) (show g < 256 by omega)
    obtain ⟨m, hm, hsame, -, hval, hout⟩ := s.writeRow_applies r x (mkKey 0xA020 g) (encN 2 v) _ h
      (by unfold plainEntry; omega) (fun m => m.apply_atnEnable _ _ hindex)
    have hatn : (s.fresh.writeRow r (mkKey 0xA020 g) (encN 2 v)).atn = _ := hsame .atn (by decide)
    refine ⟨_, rfl, ?_, (hval _).trans (if_pos rfl), hout⟩
    rw [hatn, hrest, ofLE_encN 2 v hv]
    exact List.getLast?_concat

/-! ### Life-cycle entries (O36) -/

/-- A write that passes its checks passes those of its entry (R427, R431). -/
theorem State.writeCheck_entry {s : State} {x : Sess} {key : Nat} {v : Bytes} (h : s.writeCheck x key v = 0)
    (hnow : s.cmdLater key v = false) : s.entryCheck x.role key v = 0 := by
  unfold State.writeCheck at h
  split at h
  · rename_i hnone
    unfold existCheck at h
    rw [hnone] at h
    split at h <;> simp [stRole, stRange] at h
  · rename_i e he
    by_cases hread : e.write = 0
    · rw [if_pos hread] at h
      cases h
    rw [if_neg hread] at h
    by_cases hrole : (!roleIn e.write x.role) = true
    · rw [if_pos hrole] at h
      cases h
    rw [if_neg hrole] at h
    by_cases hheld : s.heldCheck x.chan.iface key ≠ 0
    · rw [if_pos hheld] at h
      exact absurd h hheld
    rw [if_neg hheld, if_neg (ne_true_of_eq_false hnow)] at h
    exact h

/-- An entry of fixed length holds values of that length only (R431). -/
theorem State.entryCheck_length {s : State} {role key n : Nat} {v : Bytes} (h : s.entryCheck role key v = 0)
    (hfix : fixedLen key = some n) : v.length = n := by
  unfold State.entryCheck at h
  split at h
  · cases h
  · by_cases hcycle : s.lifecycleRule key ≠ 0
    · rw [if_pos hcycle] at h
      exact absurd h hcycle
    · rw [if_neg hcycle, hfix] at h
      by_contra hne
      rw [if_pos (by simpa using hne)] at h
      cases h

theorem lcCodeOf_lt (f : BitVec 64) : lcCodeOf f < 256 := by
  unfold lcCodeOf
  refine List.foldlRecOn (motive := fun c => c < 256) (List.range 5) _ (by decide) fun c hc g hg => ?_
  have := List.mem_range.mp hg
  split
  · omega
  · exact hc

theorem State.lcMark_of_lc {s t : State} (h : s.lc = t.lc) : s.lcMark = t.lcMark := by
  unfold State.lcMark
  rw [h]

theorem State.putMark_none (s : State) : (s.putMark none).lcMark = none := rfl

/-- Settles O36: the progress mark, and the debug scopes that a token opens or its nonce alone. -/
theorem lifeCycleEntries : Obligations.LifeCycleEntries := by
  refine ⟨fun r x v s h => ?_, fun r x v s h hv => ?_, fun r x v s hready happr hquorum hlog => ?_⟩
  · obtain ⟨m, hm, hsame, -, -, hout⟩ := s.writeRow_applies r x 0x100002 v (fun m => (m.written 0x100002 v).lcRequest v) h
      (by unfold plainEntry; decide) (fun _ => rfl)
    have hlen : v.length = 128 := State.entryCheck_length (State.writeCheck_entry h.2.2.1 rfl) rfl
    have hfuse : m.fuse = s.fuse := hm.unchanged .fuse (by decide)
    have hcode : (m.written 0x100002 v).lcCode = s.lcCode := congrArg (fun f : Fuse => lcCodeOf f.lcState) hfuse
    have hmark := (m.written 0x100002 v).putMark_mark
      { seq := 0, source := (m.written 0x100002 v).lcCode, target := u8 v 0, step := 0, record := v }
      ⟨lcCodeOf_lt _, u8_lt _ _, Nat.zero_lt_succ _, hlen⟩
    have hsameMark : (s.fresh.writeRow r 0x100002 v).lcMark = ((m.written 0x100002 v).putMark
        (some { seq := 0, source := (m.written 0x100002 v).lcCode, target := u8 v 0, step := 0, record := v })).lcMark :=
      State.lcMark_of_lc (hsame .lc (by decide))
    have hkept : ((m.written 0x100002 v).lcRequest v).fuse = (m.written 0x100002 v).fuse :=
      State.lcRequest_only _ v (List.Subset.refl _) (State.only_refl _ _) .fuse (by decide)
    refine ⟨_, rfl, ⟨_, hsameMark.trans hmark, hcode, rfl, rfl, rfl⟩, ?_, hout⟩
    rw [(hsame .fuse (by decide) :), hkept]
    exact hfuse
  · subst hv
    obtain ⟨m, hm, hsame, -, -, hout⟩ := s.writeRow_applies r x 0x100004 (encN 1 1)
      (fun m => (m.written 0x100004 (encN 1 1)).putMark none) h (by unfold plainEntry; decide) (fun _ => rfl)
    exact ⟨_, rfl, (State.lcMark_of_lc (hsame .lc (by decide))).trans (State.putMark_none _),
      (hsame .fuse (by decide)).trans (hm.unchanged .fuse (by decide)), hout⟩
  · by_cases hcheck : s.writeCheck x 0x100102 v = 0
    · obtain ⟨m, hm, hsame, -, -, hout⟩ := s.writeRow_applies r x 0x100102 v
        (fun m => ((m.written 0x100102 v).debugOpen v).endNonce)
        ⟨hready, happr, hcheck, rfl, hquorum, hlog, fun e => absurd e (by decide)⟩ (by unfold plainEntry; decide) (fun _ => rfl)
      have hlc : m.lc = s.lc := hm.unchanged .lc (by decide)
      have hopened : (s.fresh.writeRow r 0x100102 v).lc = (s.debugOpen v).endNonce.lc := by
        rw [(hsame .lc (by decide) :)]
        unfold State.endNonce State.debugOpen State.modLc
        dsimp only
        rw [show (m.written 0x100102 v).lc = s.lc from hlc]
      rw [hcheck]
      exact ⟨_, rfl, fun _ => ⟨congrArg Lc.epoch hopened, congrArg Lc.scopesDue hopened, congrArg Lc.nonce hopened,
        (congrArg Lc.scopes hopened :)⟩, fun h => absurd rfl h, hout⟩
    · obtain ⟨w, q, hm, hsame, -, hout⟩ := s.writeRow_refuses r x 0x100102 v hready happr rfl (by decide) hcheck
      have hspent : (s.fresh.writeRow r 0x100102 v).lc = if s.tokenSpends v then s.endNonce.lc else s.lc := by
        rw [(hsame .lc (by decide) :)]
        change (if (s.sess w q).tokenSpends v then (s.sess w q).endNonce else s.sess w q).lc = _
        rw [show (s.sess w q).tokenSpends v = s.tokenSpends v from rfl]
        split <;> rfl
      refine ⟨_, rfl, fun h => absurd h hcheck, fun _ => ?_, hout⟩
      rw [hspent]
      split
      · exact ⟨rfl, rfl, fun _ => rfl⟩
      · rename_i hkeep
        exact ⟨rfl, rfl, fun h => absurd h hkeep⟩

/-! ### Commit and restore defaults (O37) -/

/-- An entry whose value is among the stored ones (R437). -/
def storedEntry (key : Nat) : Bool := match entryOf key with | some e => e.stored | none => false

theorem storedEntry_commit : storedEntry 0x001001 = false := by decide +kernel

/-- The commit entry itself is not stored: its write moves neither the change count nor the snapshot (R437). -/
theorem State.written_commit (s : State) (v : Bytes) :
    (s.written 0x001001 v).dict.changes = s.dict.changes ∧ (s.written 0x001001 v).snapshot = s.snapshot := by
  refine ⟨?_, ?_⟩
  · change (if storedEntry 0x001001 = true then s.dict.changes + 1 else s.dict.changes) = _
    rw [storedEntry_commit]
    rfl
  · change (if v = dfltOf 0x001001 then dropKey s.dict.vals 0x001001 else putKey s.dict.vals 0x001001 v).filter
      (fun p => storedEntry p.1) = s.dict.vals.filter (fun p => storedEntry p.1)
    split
    · exact filter_dropKey _ _ _ fun _ => storedEntry_commit
    · exact filter_putKey _ _ _ _ fun _ => storedEntry_commit

theorem State.snapshot_of_vals {s t : State} (h : t.dict.vals = s.dict.vals) : t.snapshot = s.snapshot := by
  unfold State.snapshot
  rw [h]

theorem Dict.bank_sessions (d : Dict) (a : List Sess) : ({ d with sessions := a } : Dict).bank = d.bank := rfl

/-- A commit puts the present snapshot and change count in a bank (R437, R438). -/
theorem State.commit_bank (s : State) : s.commit.dict.committed = s.dict.changes ∧
    ∃ b, s.commit.dict.bank = some b ∧ b.changes = s.dict.changes ∧ b.vals = s.snapshot :=
  ⟨rfl, Dict.putBank_bank s.dict s.snapshot⟩

/-- No credential is among the entries that a restore gives their defaults (R440). -/
theorem restoreKeys_credential {k : Nat} (h : k ∈ restoreKeys) : k / 256 ≠ 0x0101 := by
  simpa using (List.mem_filter.mp h).2

/-- A request in a session is answered in it (R427). -/
theorem State.finish_session_on {s : State} {x : Sess} (t : State) (h : s.dictOn x.chan.iface = true) (y : Reply) :
    t.finish (x.desc 0 0 [] []) y = t.answer x.slot y := if_pos (State.dictOn_iface h)

/-- A write of 1 to the restore entry restores the defaults of the others (R440). -/
theorem State.takeWrite_restore (s : State) :
    (s.takeWrite 0x001003 (encN 1 1)).2 = (s.written 0x001003 (encN 1 1)).restoreDefaults := by
  have happly : (s.applyEntry 0x001003 (encN 1 1)).2 = s.written 0x001003 (encN 1 1) := rfl
  unfold State.takeWrite
  dsimp only
  rw [if_pos ⟨rfl, ofLE_encN 1 1 (by decide)⟩, happly]

/-- Settles O37: the bank that a commit writes, and the entries that a restore reaches. -/
theorem commitAndRestore : Obligations.CommitAndRestore := by
  refine ⟨fun r x v s h hv hnew => ?_, fun r x v s h hv => ?_⟩
  · obtain ⟨m, hm, -, ⟨a, hdict⟩, hval, hout⟩ := s.writeRow_facts r x 0x001001 (encN 8 v) h (by decide) rfl
      (fun _ => by rwa [ofLE_encN 8 v hv]) (by decide) (by decide)
    obtain ⟨p, q, hmdict⟩ := hm.dict
    obtain ⟨hchanges, hsnap⟩ := m.written_commit (encN 8 v)
    have hmsnap : m.snapshot = s.snapshot := State.snapshot_of_vals (congrArg Dict.vals hmdict :)
    have hmchanges : m.dict.changes = s.dict.changes := (congrArg Dict.changes hmdict :)
    obtain ⟨hcommitted, b, hbank, hbchanges, hbvals⟩ := (m.written 0x001001 (encN 8 v)).commit_bank
    refine ⟨_, rfl, ?_, ⟨b, ?_, hbchanges.trans (hchanges.trans hmchanges), hbvals.trans (hsnap.trans hmsnap)⟩,
      fun j hj => (hval j).trans (if_neg hj), hout⟩
    · rw [hdict]
      exact hcommitted.trans (hchanges.trans hmchanges)
    · rw [hdict]
      exact hbank
  · subst hv
    obtain ⟨m, hm, -, hrow⟩ := s.writeRow_takes r x 0x001003 (encN 1 1) h (by decide) rfl (fun e => absurd e (by decide))
    have hrestore : ∀ j, (s.fresh.writeRow r 0x001003 (encN 1 1)).val j = (m.written 0x001003 (encN 1 1)).restoreDefaults.val j := by
      intro j
      rw [hrow, State.finish_session_on _ h.1.2.2.2.1, State.answer_val, State.takeWrite_restore]
    have hkept : ∀ j, j ≠ 0x001003 → (s.fresh.writeRow r 0x001003 (encN 1 1)).val j = s.val j ∨
        (j ∈ restoreKeys ∧ (s.fresh.writeRow r 0x001003 (encN 1 1)).val j = dfltOf j) := by
      intro j hj
      rw [hrestore j]
      have hwritten : (m.written 0x001003 (encN 1 1)).val j = s.val j :=
        (State.written_val _ _ _ _).trans ((if_neg hj).trans (hm.val j))
      rw [← hwritten]
      exact State.restore_val _ j
    refine ⟨_, rfl, hkept, fun n hn => (hkept _ (by unfold mkKey; omega)).resolve_right fun hre => ?_⟩
    exact restoreKeys_credential hre.1 (mkKey_index (by omega)).1

/-! ### Access entries (O38) -/

/-- A partner weighed against the policy record of its entry (R190). -/
def Partner.weighed (p : Partner) (pol : Bytes) : Partner :=
  { p with noPolicy := !p.equals pol, reason := if (!p.equals pol) = true then 9 else if p.reason = 9 then 0 else p.reason }

/-- A partner whose attestation starts again (R190, R194). -/
def Partner.restarted (p : Partner) : Partner :=
  { p with session := 0, step := 0, waiting := false, attempts := 0, again := false, restart := true, checking := false, st := .endpoint }

/-- What a policy write makes of the partner in an entry (R190). -/
def Partner.rejudged (p : Partner) (pol : Bytes) (moved : Bool) : Partner :=
  if (!p.st.live) = true then p else if moved = true ∧ p.st.polled = true then (p.weighed pol).restarted else p.weighed pol

/-- The entry of the written record, and a partner that it names elsewhere (R190). -/
def movedFrom (at0 : Partner) (k j : Nat) (p : Partner) : Bool := j == k || (at0.st.live && p.pid == at0.pid && p.bus == at0.bus)

/-- The step of a policy write for one entry (R190). -/
def State.rejudge (at0 : Partner) (k : Nat) (s : State) (j : Nat) : State :=
  if (!(s.partner j).st.live) = true then s
  else
    let t := s.modPartner j (fun p => { p with
      noPolicy := !(s.partner j).equals (s.policy j),
      reason := if (!(s.partner j).equals (s.policy j)) = true then 9 else if p.reason = 9 then 0 else p.reason })
    if movedFrom at0 k j (s.partner j) = true ∧ (s.partner j).st.polled = true then
      (t.stopAttest j).modPartner j (fun p => { p with st := .endpoint, restart := true })
    else t

theorem State.policyWritten_eq (s : State) (k : Nat) :
    s.policyWritten k = (List.range 64).foldl (State.rejudge (s.partner k) k) (s.bindEntry k) := rfl

theorem State.policy_of_dict {s t : State} (h : t.dict = s.dict) (k : Nat) : t.policy k = s.policy k := by
  unfold State.policy State.val
  rw [h]

theorem State.rejudge_facts (at0 : Partner) (k : Nat) (s : State) (j : Nat) (h : j < s.par.table.length) :
    (s.rejudge at0 k j).partner j = (s.partner j).rejudged (s.policy j) (movedFrom at0 k j (s.partner j)) ∧
    (∀ i, i ≠ j → (s.rejudge at0 k j).partner i = s.partner i) ∧
    (s.rejudge at0 k j).par.table.length = s.par.table.length ∧ (s.rejudge at0 k j).dict = s.dict := by
  unfold State.rejudge Partner.rejudged
  by_cases hlive : (!(s.partner j).st.live) = true
  · rw [if_pos hlive, if_pos hlive]
    exact ⟨rfl, fun _ _ => rfl, rfl, rfl⟩
  rw [if_neg hlive, if_neg hlive]
  extract_lets t
  have hself : t.partner j = (s.partner j).weighed (s.policy j) := State.modPartner_partner s j _ h
  have hother : ∀ i, i ≠ j → t.partner i = s.partner i := fun i hi => State.modPartner_other s j i _ hi
  have hlen : t.par.table.length = s.par.table.length := State.modPartner_length s j _
  have hdict : t.dict = s.dict := rfl
  clear_value t
  by_cases hmoved : movedFrom at0 k j (s.partner j) = true ∧ (s.partner j).st.polled = true
  · rw [if_pos hmoved, if_pos hmoved]
    obtain ⟨hstop, hstopLen⟩ := t.stopAttest_partner j (by rw [hlen]; exact h)
    refine ⟨?_, fun i hi => ?_, ?_, ?_⟩
    · rw [State.modPartner_partner _ _ _ (by rw [hstopLen, hlen]; exact h), hstop, hself]
      rfl
    · rw [State.modPartner_other _ _ _ _ hi, (t.stopAttest_entry j).2 i hi, hother i hi]
    · rw [State.modPartner_length, hstopLen, hlen]
    · exact (State.stopAttest_only t j (List.Subset.refl _) (State.only_refl _ _) .dict (by decide) :).trans hdict
  · rw [if_neg hmoved, if_neg hmoved]
    exact ⟨hself, hother, hlen, hdict⟩

theorem State.rejudge_all (at0 : Partner) (k : Nat) (s : State) (n : Nat) (h : n ≤ s.par.table.length) :
    (∀ i, ((List.range n).foldl (State.rejudge at0 k) s).partner i =
      if i < n then (s.partner i).rejudged (s.policy i) (movedFrom at0 k i (s.partner i)) else s.partner i) ∧
    ((List.range n).foldl (State.rejudge at0 k) s).par.table.length = s.par.table.length ∧
    ((List.range n).foldl (State.rejudge at0 k) s).dict = s.dict := by
  induction n with
  | zero => exact ⟨fun i => rfl, rfl, rfl⟩
  | succ n ih =>
    obtain ⟨hpart, hlen, hdict⟩ := ih (Nat.le_of_succ_le h)
    rw [List.range_succ, List.foldl_append, List.foldl_cons, List.foldl_nil]
    obtain ⟨u, hu⟩ : ∃ u, u = (List.range n).foldl (State.rejudge at0 k) s := ⟨_, rfl⟩
    rw [← hu] at hpart hlen hdict ⊢
    obtain ⟨hself, hother, hlen', hdict'⟩ := State.rejudge_facts at0 k u n (by omega)
    refine ⟨fun i => ?_, hlen'.trans hlen, hdict'.trans hdict⟩
    by_cases hi : i = n
    · rw [hi, hself, hpart n, if_neg (Nat.lt_irrefl n), if_pos (Nat.lt_succ_self n), State.policy_of_dict hdict]
    · rw [hother i hi, hpart i]
      by_cases hlt : i < n
      · rw [if_pos hlt, if_pos (Nat.lt_succ_of_lt hlt)]
      · rw [if_neg hlt, if_neg (by omega)]


theorem State.bindEntry_length (s : State) (k : Nat) : (s.bindEntry k).par.table.length = s.par.table.length := by
  unfold State.bindEntry
  split
  · split
    · rfl
    · dsimp only
      rw [State.modPartner_length, State.modPartner_length]
      rfl
  · rfl

/-- Where no other partner matches the record, the entry keeps its partner (R190). -/
theorem State.bindEntry_kept (s : State) (k : Nat)
    (h : ∀ j, j ≠ k → (s.partner j).st.live = true → (s.partner j).equals (s.policy k) = false) : s.bindEntry k = s := by
  unfold State.bindEntry
  split
  · rename_i j hj
    have hmatch := List.find?_some hj
    simp only [Bool.and_eq_true] at hmatch
    exact if_pos (by_contra fun hne => by simp [h j hne hmatch.1] at hmatch)
  · rfl

/-- The first other partner that matches the record changes places with the entry's (R190). -/
theorem State.bindEntry_swaps (s : State) (k j : Nat) (hlen : s.par.table.length = 64) (hk : k < 64) (hj : j < 64) (hjk : j ≠ k)
    (hlive : (s.partner j).st.live = true) (hmatch : (s.partner j).equals (s.policy k) = true)
    (hfirst : ∀ i, i < j → (s.partner i).st.live = true → (s.partner i).equals (s.policy k) = false) :
    (s.bindEntry k).partner k = s.partner j ∧ (s.bindEntry k).partner j = s.partner k := by
  have hfind : (List.range 64).find? (fun j => (s.partner j).st.live && (s.partner j).equals (s.policy k)) = some j := by
    refine List.find?_range_eq_some.mpr ⟨by simp [hlive, hmatch], List.mem_range.mpr hj, fun i hi => ?_⟩
    cases hl : (s.partner i).st.live with
    | false => rfl
    | true => simp [hfirst i hi hl]
  unfold State.bindEntry
  rw [hfind]
  dsimp only
  rw [if_neg hjk]
  obtain ⟨u, hu⟩ : ∃ u, u = s.dropWhat (fun w => w.forPartner j || w.forPartner k) := ⟨_, rfl⟩
  have hulen : u.par.table.length = 64 := by rw [hu]; exact hlen
  rw [← hu]
  refine ⟨State.modPartner_partner _ _ _ (by rw [State.modPartner_length, hulen]; exact hk), ?_⟩
  rw [State.modPartner_other _ _ _ _ hjk]
  exact State.modPartner_partner _ _ _ (by rw [hulen]; exact hj)

/-- Every entry after a policy write (R190). -/
theorem State.policyWritten_partner (s : State) (k i : Nat) (h : s.par.table.length = 64) :
    (s.policyWritten k).partner i =
      if i < 64 then ((s.bindEntry k).partner i).rejudged (s.policy i) (movedFrom (s.partner k) k i ((s.bindEntry k).partner i))
      else (s.bindEntry k).partner i := by
  have hdict : (s.bindEntry k).dict = s.dict :=
    State.bindEntry_only s k (List.Subset.refl _) (State.only_refl _ s) .dict (by decide)
  rw [State.policyWritten_eq, (State.rejudge_all (s.partner k) k (s.bindEntry k) 64 (by rw [State.bindEntry_length, h])).1 i,
    State.policy_of_dict hdict]

theorem Partner.rejudged_place (p : Partner) (pol : Bytes) (b : Bool) :
    (p.rejudged pol b).pid = p.pid ∧ (p.rejudged pol b).bus = p.bus ∧ (p.rejudged pol b).eid = p.eid := by
  unfold Partner.rejudged
  split
  · exact ⟨rfl, rfl, rfl⟩
  · split <;> exact ⟨rfl, rfl, rfl⟩

/-- A partner that is polled and named by the record starts again (R190, R194). -/
theorem Partner.rejudged_moved (p : Partner) (pol : Bytes) (h : p.st.polled = true) :
    p.rejudged pol true = (p.weighed pol).restarted := by
  unfold Partner.rejudged
  rw [if_neg (by revert h; cases p.st <;> simp [PState.polled, PState.live]), if_pos ⟨rfl, h⟩]

/-- A partner that the record does not name keeps its attestation (R190). -/
theorem Partner.rejudged_unmoved (p : Partner) (pol : Bytes) (b : Bool) (h : p.st.live = true → b = false) :
    ∃ x y, p.rejudged pol b = { p with noPolicy := x, reason := y } := by
  unfold Partner.rejudged
  cases hlive : p.st.live with
  | false => exact ⟨p.noPolicy, p.reason, if_pos rfl⟩
  | true => exact ⟨_, _, (if_neg (by decide)).trans (if_neg fun e => by rw [h hlive] at e; exact Bool.false_ne_true e.1)⟩

/-- A policy write of entry `k` (R190). -/
theorem State.policyRow (s : State) (r : Req) (x : Sess) (k : Nat) (v : Bytes) (h : s.takes r x (mkKey 0x3200 k) v) (hk : k < 64) :
    ∃ m : State, m.par = s.par ∧ (∀ i, m.policy i = if i = k then v else s.policy i) ∧
      (s.fresh.writeRow r (mkKey 0x3200 k) v).par = (m.policyWritten k).par ∧
      (s.fresh.writeRow r (mkKey 0x3200 k) v).val (mkKey 0x3200 k) = v ∧
      .reply x.id r.seq stOk 0 [] ∈ (s.fresh.writeRow r (mkKey 0x3200 k) v).out := by
  obtain ⟨hindex, hrest⟩ := mkKey_index (i := 0x3200) (show k < 256 by omega)
  obtain ⟨m, hm, hsame, -, hval, hout⟩ := s.writeRow_applies r x (mkKey 0x3200 k) v _ h (by unfold plainEntry; omega)
    (fun m => m.apply_policy _ _ hindex)
  rw [hrest] at hsame
  refine ⟨m.written (mkKey 0x3200 k) v, hm.unchanged .par (by decide), fun i => ?_, hsame .par (by decide),
    (hval _).trans (if_pos rfl), hout⟩
  unfold State.policy
  rw [State.written_val, hm.val]
  by_cases hi : i = k
  · rw [if_pos hi, if_pos (by rw [hi])]
  · rw [if_neg hi, if_neg (by unfold mkKey; omega)]
    rfl

/-- A write of 1 to the promotion entry promotes the device (R413). -/
theorem State.takeWrite_promote (s : State) :
    (s.takeWrite 0x900009 (encN 1 1)).2 = (s.written 0x900009 (encN 1 1)).promote := by
  unfold State.takeWrite
  dsimp only
  rw [if_neg (fun e => absurd e.1 (by decide))]
  change (stOk, if ofLE (encN 1 1) = 1 then (s.written 0x900009 (encN 1 1)).promote else s.written 0x900009 (encN 1 1)).2 = _
  rw [if_pos (ofLE_encN 1 1 (by decide))]

/-- Settles O38: each entry's effect on the credentials, the ports, the partners and the role. -/
theorem accessEntries : Obligations.AccessEntries := by
  refine ⟨fun r x n v s h hn => ?_, fun r x port k v s h hp hk => ?_, fun r x k v s h hk => ?_,
    fun r x k v s h hk hlen hothers => ?_, fun r x k j v s h hk hj hjk hlen hlive hmatch hfirst => ?_, fun r x v s h => ?_,
    fun r x v s h hv => ?_⟩
  · obtain ⟨hindex, hrest⟩ := mkKey_index (i := 0x0101) (show n < 256 by omega)
    obtain ⟨m, hm, -, ⟨a, hdict⟩, hval, hout⟩ := s.writeRow_applies r x (mkKey 0x0101 n) v _ h (by unfold plainEntry; omega)
      (fun m => m.apply_credential _ _ hindex)
    refine ⟨_, rfl, (hval _).trans (if_pos rfl), fun k hk => (hval _).trans (if_neg (by unfold mkKey; omega)), ?_, hout⟩
    rw [hdict, hrest]
    exact List.mem_append_right _ (List.mem_singleton.mpr rfl)
  · obtain ⟨hindex, hrest⟩ := mkKey_index (i := 0xA010 + port) (show k < 256 by omega)
    obtain ⟨m, hm, -, ⟨a, hdict⟩, hval, hout⟩ := s.writeRow_applies r x (mkKey (0xA010 + port) k) v _ h
      (by unfold plainEntry; omega) (fun m => m.apply_mePort _ _ _ hindex (by omega) (by omega))
    refine ⟨_, rfl, (hval _).trans (if_pos rfl), ?_, hout⟩
    rw [hdict]
    exact List.mem_append_right _ (List.mem_singleton.mpr (by omega))
  · obtain ⟨m, -, -, -, hval, hout⟩ := s.policyRow r x k v h hk
    exact ⟨_, rfl, hval, hout⟩
  · obtain ⟨m, hmpar, hpol, hpar, -, -⟩ := s.policyRow r x k v h hk
    have hmlen : m.par.table.length = 64 := by rw [hmpar, hlen]
    have hsame : ∀ i, m.partner i = s.partner i := fun i => State.partner_of_par hmpar i
    have hkept : m.bindEntry k = m := m.bindEntry_kept k fun j hj hl => by
      rw [hsame] at hl ⊢
      rw [hpol, if_pos rfl]
      exact (hothers j hj hl).1
    have hafter : ∀ i, (s.fresh.writeRow r (mkKey 0x3200 k) v).partner i = if i < 64 then
        (s.partner i).rejudged (m.policy i) (movedFrom (s.partner k) k i (s.partner i)) else s.partner i := by
      intro i
      rw [State.partner_of_par hpar i, m.policyWritten_partner k i hmlen, hkept, hsame, hsame]
    refine ⟨_, rfl, fun hpolled => ?_, fun j hj => ?_⟩
    · rw [hafter k, if_pos hk, hpol, if_pos rfl, show movedFrom (s.partner k) k k (s.partner k) = true by simp [movedFrom],
        Partner.rejudged_moved _ _ hpolled]
      exact ⟨rfl, rfl, rfl, rfl⟩
    · rw [hafter j]
      split
      · refine Partner.rejudged_unmoved _ _ _ fun hl => ?_
        obtain ⟨-, hplace⟩ := hothers j hj hl
        unfold movedFrom
        simp only [beq_eq_false_iff_ne.mpr hj, Bool.false_or]
        by_contra hmoved
        simp only [Bool.not_eq_false, Bool.and_eq_true, beq_iff_eq] at hmoved
        exact hplace ⟨hmoved.1.2, hmoved.2⟩
      · exact ⟨_, _, rfl⟩
  · obtain ⟨m, hmpar, hpol, hpar, -, -⟩ := s.policyRow r x k v h hk
    have hmlen : m.par.table.length = 64 := by rw [hmpar, hlen]
    have hsame : ∀ i, m.partner i = s.partner i := fun i => State.partner_of_par hmpar i
    obtain ⟨hbk, hbj⟩ := m.bindEntry_swaps k j hmlen hk hj hjk (by rw [hsame]; exact hlive)
      (by rw [hsame, hpol, if_pos rfl]; exact hmatch)
      (fun i hi hl => by rw [hsame] at hl ⊢; rw [hpol, if_pos rfl]; exact hfirst i hi hl)
    rw [hsame] at hbk hbj
    refine ⟨_, rfl, ?_⟩
    rw [State.partner_of_par hpar k, State.partner_of_par hpar j, m.policyWritten_partner k k hmlen,
      m.policyWritten_partner k j hmlen, if_pos hk, if_pos hj, hbk, hbj]
    obtain ⟨hkp, hkb, hke⟩ := (s.partner j).rejudged_place (m.policy k) (movedFrom (m.partner k) k k (s.partner j))
    obtain ⟨hjp, hjb, hje⟩ := (s.partner k).rejudged_place (m.policy j) (movedFrom (m.partner k) k j (s.partner k))
    exact ⟨hkp, hkb, hke, hjp, hjb, hje⟩
  · obtain ⟨m, hm, -, -, hval, hout⟩ := s.writeRow_facts' r x 0x330001 v h (by decide)
    exact ⟨_, rfl, (hval _).trans (if_pos rfl), fun j hj => (hval j).trans (if_neg hj), hout⟩
  · subst hv
    obtain ⟨m, hm, -, hrow⟩ := s.writeRow_takes r x 0x900009 (encN 1 1) h (by decide) rfl (fun e => absurd e (by decide))
    obtain ⟨hrole, hpresent, hacting, -⟩ := (m.written 0x900009 (encN 1 1)).promote_facts
    have hcas : (s.fresh.writeRow r 0x900009 (encN 1 1)).cas = (m.written 0x900009 (encN 1 1)).promote.cas := by
      rw [hrow, State.finish_session_on _ h.1.2.2.2.1, State.takeWrite_promote]
      exact State.answer_only _ _ _ (List.Subset.refl _) (State.only_refl _ _) .cas (by decide)
    refine ⟨_, rfl, by rw [hcas, hrole], by rw [hcas, hpresent], ?_⟩
    unfold State.valU
    rw [hrow, State.finish_session_on _ h.1.2.2.2.1, State.answer_val, State.takeWrite_promote, hacting]
    rfl

/-! ### Logbook entries (O39) -/

theorem State.answer_log (s : State) (k : Nat) (r : Reply) : (s.answer k r).log = s.log :=
  State.answer_only s k r (List.Subset.refl _) (State.only_refl _ _) .log (by decide)

/-- The start of the window of exports is taken at once (R457). -/
theorem State.writeRow_window (s : State) (r : Req) (x : Sess) (v : Bytes) (hready : s.requestReady r x)
    (happr : r.approver = none) (hcheck : s.writeCheck x 0x800101 v = 0) :
    (s.fresh.writeRow r 0x800101 v).log = { s.log with winStart := uLE v 0 8 } := by
  obtain ⟨w, q, -, hrow⟩ := s.writeRow_export r x 0x800101 v hready happr rfl hcheck rfl
  rw [hrow, State.answer_log, if_pos rfl]
  rfl

theorem State.logEv_acked (s : State) (d : LogDesc) : (s.logEv d).log.acked = s.log.acked := rfl

/-- An acknowledgement that passes its check moves the acknowledged count past the entry it names (R456). -/
theorem State.writeRow_acked (s : State) (r : Req) (x : Sess) (v : Bytes) (hready : s.requestReady r x)
    (happr : r.approver = none) (hcheck : s.writeCheck x 0x800103 v = 0) :
    (s.fresh.writeRow r 0x800103 v).log.acked = uLE v 0 8 + 1 := by
  obtain ⟨w, q, -, hrow⟩ := s.writeRow_export r x 0x800103 v hready happr rfl hcheck rfl
  rw [hrow, State.answer_log, if_neg (by decide), State.logEv_acked, State.latch_log, State.logLatches_acked]
  rfl

theorem State.refusedValue_ack (s : State) (v : Bytes) (e : Nat) : s.refusedValue 0x800103 v e = s := rfl

/-- Settles O39: the settings, the acknowledged count and the start of the window of exports. -/
theorem logbookEntries : Obligations.LogbookEntries := by
  refine ⟨fun r x v s h hv => ?_, fun r x v s h hv => ?_, fun r x v s hready happr => ?_, fun r x v s hready happr hcheck hv => ?_⟩
  · obtain ⟨m, -, -, -, hval, hout⟩ := s.writeRow_facts' r x 0x800301 (encN 8 v) h (by decide)
    exact ⟨_, rfl, (congrArg ofLE ((hval _).trans (if_pos rfl))).trans (ofLE_encN 8 v hv), hout⟩
  · obtain ⟨m, -, -, -, hval, hout⟩ := s.writeRow_facts' r x 0x800005 (encN 1 v) h (by decide)
    exact ⟨_, rfl, (congrArg ofLE ((hval _).trans (if_pos rfl))).trans (ofLE_encN 1 v hv), hout⟩
  · refine ⟨_, rfl, s.writeRow_acked r x v hready happr, fun hcheck => ?_⟩
    obtain ⟨w, q, -, hsame, -, -⟩ := s.writeRow_refuses r x 0x800103 v hready happr rfl (by decide) hcheck
    have hlog := (hsame .log (by decide) :)
    rw [State.refusedValue_ack] at hlog
    exact hlog
  · have hlog := s.writeRow_window r x (encN 8 v) hready happr hcheck
    exact ⟨_, rfl, (congrArg Log.winStart hlog).trans (uLE_encN 8 v hv), (congrArg Log.entries hlog :)⟩

/-! ### Timetable, sheet and retest entries (O40) -/

theorem State.discardSwitch_facts (s : State) :
    s.discardSwitch.yard.pending = none ∧ s.discardSwitch.yard.sheet = s.yard.sheet := by
  unfold State.discardSwitch
  split
  · rename_i h
    exact ⟨h, rfl⟩
  · exact ⟨rfl, rfl⟩

theorem State.timetableLoaded_facts (s : State) (v : Bytes) :
    (s.timetableLoaded v).yard.timetable = some (timetableOf v) ∧ (s.timetableLoaded v).yard.pending = none ∧
    (s.timetableLoaded v).yard.sheet = s.yard.sheet ∧ (s.timetableLoaded v).yard.loadDue = decide (s.yard.sheet ≠ 0) := by
  obtain ⟨hpending, hsheet⟩ := s.discardSwitch_facts
  exact ⟨rfl, hpending, hsheet, congrArg (fun n => decide (n ≠ 0)) hsheet⟩

/-- Settles O40: the stored Timetable, the pending sheet, and a check for every disabled pair. -/
theorem yardEntries : Obligations.YardEntries := by
  refine ⟨fun r x v s hready happr hquorum hlog => ?_, fun r x n s h hn => ?_, fun r x v s h hv => ?_⟩
  · by_cases hcheck : s.writeCheck x 0x600001 v = 0
    · obtain ⟨m, hm, hsame, -, -, hout⟩ := s.writeRow_applies r x 0x600001 v (fun m => (m.written 0x600001 v).timetableLoaded v)
        ⟨hready, happr, hcheck, rfl, hquorum, hlog, fun e => absurd e (by decide)⟩ (by unfold plainEntry; decide) (fun _ => rfl)
      have hyard : m.yard = s.yard := hm.unchanged .yard (by decide)
      rw [hcheck]
      refine ⟨_, rfl, fun _ => ?_, fun h => absurd rfl h, hout⟩
      rw [(hsame .yard (by decide) :), ← hyard]
      exact (m.written 0x600001 v).timetableLoaded_facts v
    · obtain ⟨w, q, -, hsame, -, hout⟩ := s.writeRow_refuses r x 0x600001 v hready happr rfl (by decide) hcheck
      exact ⟨_, rfl, fun h => absurd h hcheck, fun _ => hsame .yard (by decide), hout⟩
  · obtain ⟨m, hm, hsame, -, -, hout⟩ := s.writeRow_applies r x 0x600102 (encN 1 n)
      (fun m => (m.written 0x600102 (encN 1 n)).modYard (fun y => { y with pending := some (ofLE (encN 1 n)) })) h
      (by unfold plainEntry; decide) (fun _ => rfl)
    have hyard : m.yard = s.yard := hm.unchanged .yard (by decide)
    refine ⟨_, rfl, ?_, ?_, hout⟩
    · rw [(hsame .yard (by decide) :)]
      exact congrArg some (ofLE_encN 1 n hn)
    · rw [(hsame .yard (by decide) :)]
      exact (congrArg Yard.sheet hyard :)
  · subst hv
    obtain ⟨m, hm, hsame, -, -, hout⟩ := s.writeRow_applies r x 0x604004 (encN 1 1)
      (fun m => (m.written 0x604004 (encN 1 1)).retestPairs) h (by unfold plainEntry; decide) (fun _ => rfl)
    have hyard : m.yard = s.yard := hm.unchanged .yard (by decide)
    refine ⟨_, rfl, fun l hl hdis => ?_, hout⟩
    rw [(hsame .devJobs (by decide) :)]
    refine State.retestPairs_has _ l hl ?_
    rw [State.lane_of_yard (show (m.written 0x604004 (encN 1 1)).yard = s.yard from hyard)]
    exact hdis

end Sys2Proof.Machine

/-! # Settled: dictionary writes, reads, proposals and sessions (O41 to O44) -/

namespace Sys2Proof.Machine

open Sys2Proof

/-! ### Writes (O41) -/

theorem State.same_trans {p : Part} {s t u : State} (h : s.same p t) (g : t.same p u) : s.same p u := by
  cases p <;> exact g.trans h

theorem State.sess_only (s : State) (w : List Sess) (q : List Dtls) : s.only [.dict, .out] (s.sess w q) := by
  intro p hp
  cases p
  case dict => exact absurd (by decide) hp
  case out => exact absurd (by decide) hp
  all_goals rfl

theorem State.sess_val (s : State) (w : List Sess) (q : List Dtls) (j : Nat) : (s.sess w q).val j = s.val j := rfl

theorem State.val_of_dict {s t : State} (h : t.dict.vals = s.dict.vals) (j : Nat) : t.val j = s.val j := by
  unfold State.val
  rw [h]

/-- A value that a C0 programme checks waits for it as a device job (R431). -/
theorem State.writeValue_waits (s : State) (x : Sess) (key n : Nat) (l c : Bool) (v : Bytes) (hcheck : s.writeCheck x key v = 0)
    (hprog : s.valueProgramme key v = some (l, c, n)) (hquorum : s.needsQuorum x.role key = false) :
    s.writeValue x key v = s.addDev (.pair l c n (.write x key v)) := by
  have hkey : key ≠ 0x500001 := by
    rintro rfl
    have hnone : s.valueProgramme 0x500001 v = none := rfl
    rw [hnone] at hprog
    cases hprog
  have hfor : s.programmeFor key v 0 = some (l, c, n) := (if_pos (Or.inl rfl)).trans hprog
  unfold State.writeValue
  dsimp only
  rw [if_neg hkey, hcheck, hfor, hquorum]
  dsimp only
  exact if_neg (by simp)

/-- With no approver a request stands alone (R434). -/
theorem State.withApproval_none (s : State) (r : Req) (op : Nat) (f : State → Sess → State) (h : r.approver = none) :
    s.withApproval r op f = s.request r op f := by
  unfold State.withApproval
  rw [h]

theorem State.modSession_some {s : State} {k : Nat} {f : Sess → Sess} {y : Sess} (h : s.session? k = some y)
    (hf : ∀ y, (f y).slot = y.slot) : (s.modSession k f).session? k = some (f y) :=
  (State.modSession_session s k f hf).trans (congrArg (Option.map f) h)

/-- A part of a value in the session's staging (R433). -/
def Sess.withPart (x : Sess) (key off : Nat) (data : Bytes) : Bytes :=
  (fit (max (x.staged key).length off) (x.staged key)).take off ++ data ++
    (fit (max (x.staged key).length off) (x.staged key)).drop (off + data.length)

/-- The end of a write in parts (R433). -/
def endWrite (s : State) (x : Sess) (key : Nat) (b : Bytes) (total : Nat) (digest : Bytes) : State :=
  if total ≠ b.length then s.reply x (plain stLengthMismatch)
  else if digest ≠ sha384 b then s.reply x (plain stMismatch)
  else s.writeValue x key b

/-- Settles O41: a write decided at once, one that waits, one refused, and the parts and end of a staged value. -/
theorem dictionaryWrites : Obligations.DictionaryWrites := by
  refine ⟨fun r x index sub v s h hkey hcmd hmono => ?_, fun r x index sub v s hready happr hprog hkey hcheck => ?_,
    fun r x index sub n l c v s hready happr hcheck hprog hquorum => ?_, fun r x index sub off data s hready hroom => ?_,
    fun r x index sub total digest s hready happr hprog hcheck hquorum hlog htotal hdigest hkey hcmd => ?_⟩
  · obtain ⟨m, -, -, -, hval, hout⟩ := s.writeRow_facts' r x (mkKey index sub) v h hkey
    rw [State.applyEntry_ok m _ v hcmd hmono] at hout
    exact ⟨_, rfl, hval, hout⟩
  · obtain ⟨w, q, -, hsame, ⟨a, hdict⟩, hout⟩ := s.writeRow_refuses r x (mkKey index sub) v hready happr hprog hkey hcheck
    refine ⟨_, rfl, State.val_of_dict (congrArg Dict.vals hdict :), fun p hp => ?_, hout⟩
    have hrefused : s.only [.tack, .log, .lc, .atn, .dict, .out] ((s.sess w q).refusedValue (mkKey index sub) v
        (s.writeCheck x (mkKey index sub) v)) :=
      State.refusedValue_only _ _ _ _ (by decide) fun p hp => s.sess_only w q p (by simp at hp ⊢; tauto)
    simp only [List.mem_cons, List.not_mem_nil, or_false, not_or] at hp
    obtain ⟨htack, hplog, hlc, hatn, hdmb, hpdict, hpout⟩ := hp
    exact State.same_trans (hrefused p (by simp [htack, hplog, hlc, hatn, hpdict, hpout])) (hsame p (by simp [hdmb, hpdict, hpout]))
  · obtain ⟨w, q, -, -, hrow⟩ := s.writeRow_ready r x (mkKey index sub) v hready happr
    rw [State.writeValue_waits _ _ _ n l c v (by rw [State.sess_writeCheck, State.begun_writeCheck]; exact hcheck)
      (by rw [State.sess_valueProgramme]; exact hprog) (by rw [State.sess_needsQuorum]; exact hquorum)] at hrow
    exact ⟨_, congrArg Host.Outcome.next hrow, fun j => rfl, rfl⟩
  · obtain ⟨w, q, -, hsess, hreq⟩ := s.request_state r x 0x12 (fun s x => if stagingSize < off + data.length then
        (s.modSession x.slot (fun y => { y with staging := some (mkKey index sub, x.staged (mkKey index sub)) })).reply x
          (plain stRange)
      else (s.modSession x.slot (fun y => { y with staging := some (mkKey index sub, x.withPart (mkKey index sub) off data) })).reply x
        (plain stOk)) hready
    have hstaged : ((s.sess w q).modSession x.slot (fun y => { y with
        staging := some (mkKey index sub, x.withPart (mkKey index sub) off data) })).session? x.slot = _ :=
      State.modSession_some hsess fun _ => rfl
    refine ⟨_, congrArg Host.Outcome.next (hreq.trans (if_neg (Nat.not_lt.mpr hroom))), ⟨_, State.answer_session _ _ _ _ hstaged, rfl⟩,
      fun j => State.answer_val _ _ _ j⟩
  · subst htotal hdigest
    obtain ⟨w, q, hn, hsess, hreq⟩ := s.request_state r x 0x13 (fun t y =>
      endWrite (t.modSession y.slot (fun z => { z with staging := none })) y (mkKey index sub) (x.staged (mkKey index sub))
        (x.staged (mkKey index sub)).length (sha384 (x.staged (mkKey index sub)))) hready
    have hstaged : (match s.dict.sessions.find? (fun x => x.id == r.sid) with
        | some x => x.staged (mkKey index sub) | none => []) = x.staged (mkKey index sub) := by rw [hready.2.1]
    have hexec : exec (.writeEnd r index sub (x.staged (mkKey index sub)).length (sha384 (x.staged (mkKey index sub)))) s =
        .next (s.fresh.withApproval r 0x13 (fun t y =>
          endWrite (t.modSession y.slot (fun z => { z with staging := none })) y (mkKey index sub) (x.staged (mkKey index sub))
            (x.staged (mkKey index sub)).length (sha384 (x.staged (mkKey index sub))))) := by
      rw [← hstaged]
      rfl
    rw [State.withApproval_none _ _ _ _ happr, hreq] at hexec
    obtain ⟨w', hw'⟩ : ∃ w', (s.sess w q).modSession x.slot (fun z => { z with staging := none }) = s.sess w' q := ⟨_, rfl⟩
    have hn' : s.fresh.noted (s.sess w' q) := hw' ▸ hn.trans (State.modSession_noted _ _ _)
    have hsess' : (s.sess w' q).session? x.slot = some { x.begun r 0x13 s.now with staging := none } :=
      hw' ▸ State.modSession_some hsess fun _ => rfl
    obtain ⟨m, -, -, hval, -⟩ := s.writeValue_facts r x 0x13 w' q _ (mkKey index sub) (x.staged (mkKey index sub))
      hready.2.2.2.1 hprog hn' hsess' rfl rfl hcheck hquorum hlog (fun e => absurd e hcmd) hkey
    refine ⟨_, hexec, ?_⟩
    unfold endWrite
    rw [if_neg (fun e => e rfl), if_neg (fun e => e rfl), show (x.begun r 0x13 s.now).slot = x.slot from rfl, hw']
    exact hval

/-! ### Reads (O42) -/

/-- A read in a session of a value outside the identity and interface indices (R428, R430). -/
theorem State.readOn_answers {s : State} {x : Sess} (r : Req) (w : List Sess) (q : List Dtls) (key off : Nat)
    (hon : s.dictOn x.chan.iface = true) (hread : readCheck x.role key = 0) (hlow : 0x1000 ≤ key / 256) (hhigh : key / 256 < 0xA000)
    (hnonce : key ≠ 0x100101) :
    (s.sess w q).readOn (x.begun r 0x10 s.now) key off =
      (s.sess w q).answer x.slot { status := stOk, info := s.serial key, payload := readPart (s.readValue none key) off } := by
  unfold State.readOn
  dsimp only
  rw [if_neg (show ¬readCheck (x.begun r 0x10 s.now).role key ≠ 0 from fun h => h hread), if_neg hnonce,
    State.finish_session s x r 0x10 s.now _ hon, State.sess_readValue s w q key _ hlow hhigh]
  rfl

/-- A read of the debug nonce draws it anew (R475). -/
theorem State.readOn_nonce {s : State} {x : Sess} (r : Req) (w : List Sess) (q : List Dtls)
    (hon : s.dictOn x.chan.iface = true) (hread : readCheck x.role 0x100101 = 0) (hdrbg : s.drbgFails = false) :
    (s.sess w q).readOn (x.begun r 0x10 s.now) 0x100101 0 =
      ((((s.sess w q).draw 32).2.modLc (fun l => { l with nonce := some ((s.draw 32).1, s.now) })).answer x.slot
        { status := stOk, info := s.serial 0x100101, payload := readPart (s.draw 32).1 0 }) := by
  unfold State.readOn
  dsimp only
  rw [if_neg (show ¬readCheck (x.begun r 0x10 s.now).role 0x100101 ≠ 0 from fun h => h hread), if_pos rfl,
    if_neg (ne_true_of_eq_false (show (s.sess w q).drbgFails = false from hdrbg)), State.finish_session s x r 0x10 s.now _ hon]
  rfl

theorem readCheck_nonce : readCheck 1 0x100101 = 0 := by decide +kernel

/-- Settles O42: what a read answers, and the nonce that a read of it draws. -/
theorem dictionaryReads : Obligations.DictionaryReads := by
  refine ⟨fun ch x r index sub off s hready hsid hread hlow hhigh hnonce => ?_,
    fun ch r index sub off s hsid hserving hon hindex hentry => ?_, fun r x s hready hrole hdrbg => ?_⟩
  · obtain ⟨w, q, -, hsess, hreq⟩ := s.request_state r x 0x10 (fun s x => s.readOn x (mkKey index sub) off) hready
    rw [State.readOn_answers r w q _ off hready.2.2.2.1 hread hlow hhigh hnonce] at hreq
    exact ⟨_, congrArg Host.Outcome.next ((if_pos hsid).trans hreq), State.answer_out _ _ _ _ hsess,
      fun j => State.answer_val _ _ _ j⟩
  · have hsome : ¬((entryOf (mkKey index sub)).isNone = true) := by simpa [Option.isNone_iff_eq_none, Option.isSome_iff_ne_none] using hentry
    refine ⟨_, congrArg Host.Outcome.next ((if_neg (fun h => h hsid)).trans ((if_neg (by simp [hserving])).trans
      ((if_neg ?_).trans ((if_neg (fun h => h hindex)).trans (if_neg hsome))))), State.sendReply_out _ _ _ _ _ _, fun j => ?_⟩
    · show ¬(!s.dictOn ch.iface) = true
      simp [hon]
    · exact State.val_of_dict (congrArg Dict.vals (State.sendReply_dict _ _ _ _ _ _)) j
  · obtain ⟨w, q, -, hsess, hreq⟩ := s.request_state r x 0x10 (fun s x => s.readOn x 0x100101 0) hready
    rw [State.readOn_nonce r w q hready.2.2.2.1 (by rw [hrole]; exact readCheck_nonce) hdrbg] at hreq
    refine ⟨_, congrArg Host.Outcome.next hreq, ?_, State.answer_out _ x.slot (x.begun r 0x10 s.now) _ (by exact hsess)⟩
    rw [(State.answer_only _ _ _ (List.Subset.refl _) (State.only_refl _ _) .lc (by decide) :)]
    rfl

/-! ### Proposals (O43) -/

/-- A change that the Logbook takes at once (R444, R449). -/
theorem State.logChange_open (s : State) (d : LogDesc) (e : Effect) (h : s.logOpen) (hkey : e.isKey = true → s.tack.cmdsThisFrame < 8) :
    s.logChange d e = s.writeChange d e := by
  obtain ⟨hstate, hblocked, hwritten, hsummary, hdue⟩ := h
  unfold State.logChange
  rw [if_neg (fun h => h.1 hstate), if_neg ?_]
  rw [hblocked, hsummary, hdue]
  rintro (h | h | h | h | h)
  · cases h
  · omega
  · cases h
  · cases h
  · exact absurd (hkey h.1) (Nat.not_lt.mpr h.2)

/-- A proposal that ends: it leaves the table, and no value changes (R434 to R436). -/
theorem State.endProposal_ends (s : State) (d : LogDesc) (p : Proposal) (code : Nat) (h : s.logOpen)
    (hp : s.dict.proposals.any (fun q => q.id == p.id) = true) :
    ∃ u : State, u.dict = { s.dict with proposals := s.dict.proposals.filter (fun q => q.id != p.id) } ∧
      s.logChange d (.withdraw p code) = if code = 0x0105 then u.finish d (plain stOk) else u := by
  have hcheck : s.effCheck d (.withdraw p code) = 0 := if_pos hp
  have hdict : (s.writeEvent (s.fullDesc d (.withdraw p code))).dict = s.dict :=
    State.writeEvent_only _ _ (List.Subset.refl _) (State.only_refl _ _) .dict (by decide)
  refine ⟨(s.writeEvent (s.fullDesc d (.withdraw p code))).dropProposal p, ?_, ?_⟩
  · rw [← hdict]
    rfl
  · rw [State.logChange_open s d _ h (fun e => by cases e)]
    unfold State.writeChange
    dsimp only
    rw [hcheck, if_neg (fun e => e rfl)]
    rfl

/-- A value accepted through quorum is in force, and no other changes (R432, R435). -/
theorem State.takeWrite_val (s : State) (key j : Nat) (v : Bytes) (hrestore : key ≠ 0x001003) (hpromote : key ≠ 0x900009) :
    (s.takeWrite key v).2.val j = (if j = key then v else s.val j) ∧ (s.takeWrite key v).2.dict.proposals = s.dict.proposals := by
  have htake : s.takeWrite key v = s.applyEntry key v := if_neg fun h => hrestore h.1
  obtain ⟨hval, -, hprops⟩ := s.applyEntry_val key j v hpromote
  rw [htake]
  exact ⟨hval, hprops⟩

theorem State.answer_proposals (s : State) (k : Nat) (r : Reply) : (s.answer k r).dict.proposals = s.dict.proposals := by
  obtain ⟨a, ha⟩ := s.answer_dict k r
  exact (congrArg Dict.proposals ha :)

theorem proposal_any {s : State} {id : Nat} {p : Proposal} (h : s.proposal? id = some p) :
    p.id = id ∧ s.dict.proposals.any (fun q => q.id == p.id) = true := by
  have hmatch := List.find?_some h
  simp only [Bool.and_eq_true, beq_iff_eq] at hmatch
  exact ⟨hmatch.1, List.any_eq_true.mpr ⟨p, List.mem_of_find?_eq_some h, by simp⟩⟩

/-- Settles O43: the value that an approval writes, and the proposals that go without a value. -/
theorem proposals_settled : Obligations.Proposals := by
  refine ⟨fun r x id digest p s hready hp htarget hprog hrole hcred hkey hdigest heff hlog hplain => ?_,
    fun r x id p s hready hp hcred hlog => ?_, fun id p s hp hexpiry hlog => ?_⟩
  · obtain ⟨w, q, -, -, hreq⟩ := s.request_state r x 0x20 (fun s x => s.approveBy x id digest) hready
    obtain ⟨m, hval, hprops, happrove⟩ := s.approveBy_takes r x id digest p w q hready hp htarget hrole hcred hkey hdigest heff
      hprog hlog
    have htaken := fun j => m.takeWrite_val p.key j p.value hplain.1 hplain.2
    rw [happrove] at hreq
    refine ⟨_, congrArg Host.Outcome.next hreq, ?_, fun j hj => ?_, ?_⟩
    · rw [State.answer_val, (htaken p.key).1, if_pos rfl]
    · rw [State.answer_val, (htaken j).1, if_neg hj, hval]
    · rw [State.answer_proposals, (htaken 0).2, hprops]
      intro z hz
      simpa using (List.mem_filter.mp hz).2
  · obtain ⟨w, q, -, hsess, hreq⟩ := s.request_state r x 0x21 (fun s x => s.withdrawBy x id) hready
    obtain ⟨hid, hany⟩ := proposal_any hp
    obtain ⟨u, hdict, hend⟩ := (s.sess w q).endProposal_ends ((x.begun r 0x21 s.now).desc 0 0 [] [])
      { p with slot := x.slot, iface := x.chan.iface } 0x0105 hlog hany
    have hby : (s.sess w q).withdrawBy (x.begun r 0x21 s.now) id =
        u.finish ((x.begun r 0x21 s.now).desc 0 0 [] []) (plain stOk) := by
      unfold State.withdrawBy
      dsimp only
      rw [show (s.sess w q).proposal? id = some p from hp]
      dsimp only
      rw [if_neg (show ¬(x.begun r 0x21 s.now).cred ≠ p.cred from fun h => h hcred)]
      exact hend.trans (if_pos rfl)
    rw [hby, State.finish_session s x r 0x21 s.now _ hready.2.2.2.1] at hreq
    refine ⟨_, congrArg Host.Outcome.next hreq, ?_, fun j => ?_, State.answer_out _ x.slot (x.begun r 0x21 s.now) _ ?_⟩
    · rw [State.answer_proposals, congrArg Dict.proposals hdict]
      intro z hz
      rw [← hid]
      simpa using (List.mem_filter.mp hz).2
    · rw [State.answer_val]
      exact State.val_of_dict (congrArg Dict.vals hdict :) j
    · rw [← hsess]
      unfold State.session?
      rw [hdict]
  · obtain ⟨u, hdict, hend⟩ := s.fresh.endProposal_ends (p.endDesc 0x0104) p 0x0104 hlog
      (List.any_eq_true.mpr ⟨p, List.mem_of_find?_eq_some hp, by simp⟩)
    refine ⟨u, ?_, congrArg Dict.proposals hdict, State.val_of_dict (congrArg Dict.vals hdict :)⟩
    change execProposalExpiry id s = _
    unfold execProposalExpiry
    dsimp only
    rw [show s.fresh.dict.proposals.find? (fun p => p.id == id) = some p from hp]
    dsimp only
    rw [if_pos ⟨hexpiry, by rw [show s.fresh.log.due = [] from hlog.2.2.2.2]; rfl⟩, hend, if_neg (by decide)]

/-! ### Sessions (O44) -/

/-- The session that an OPEN makes (R424, R425). -/
def opened (s : State) (ch : Chan) (cred slot i : Nat) : Sess :=
  { slot := slot, id := i, chan := ch, cred := cred, role := 0, keyDig := [], nonce := (s.draw 32).1, lastSeq := 0, lastOp := 1,
    lastReply := none, busy := false, staging := none, lastAt := s.now }

theorem State.freshId_dict (s : State) (n : Nat) (b : Nat → Bool) (k : Nat) : (s.freshId n b k).2.dict = s.dict := by
  unfold State.freshId
  dsimp only
  split <;> rfl

/-- An OPEN that finds a free slot (R424, R425; log 57). -/
theorem State.dictOpen_opens {s : State} {ch : Chan} {slot : Nat} (cred : Nat) (hserving : s.serving = true)
    (hon : s.dictOn ch.iface = true) (hup : s.channelUp ch = true) (hnone : s.dict.sessions.any (fun x => x.chan == ch) = false)
    (hslot : s.freeSessSlot = some slot) (hdrbg : s.drbgFails = false) :
    ∃ (i : Nat) (u : State), u.dict.sessions = s.dict.sessions ++ [opened s ch cred slot i] ∧
      exec (.dictOpen ch cred) s =
        .next (u.sendReply ch 1 0 0 { status := stOk, info := 0, payload := (s.draw 32).1 ++ leN 4 i }) := by
  change ∃ i u, _ ∧ execDictOpen ch cred s = _
  unfold execDictOpen
  dsimp only
  rw [if_neg (by simp [show s.fresh.serving = true from hserving]), if_neg (by simp [show s.fresh.dictOn ch.iface = true from hon]),
    if_neg (by simp [show s.fresh.channelUp ch = true from hup]),
    if_neg (ne_true_of_eq_false (show s.fresh.dict.sessions.any (fun x => x.chan == ch) = false from hnone)),
    show s.fresh.freeSessSlot = some slot from hslot]
  dsimp only
  rw [if_neg (ne_true_of_eq_false (show s.fresh.drbgFails = false from hdrbg))]
  refine ⟨_, _, ?_, rfl⟩
  change (State.freshId _ _ _ _).2.dict.sessions ++ _ = _
  rw [State.freshId_dict]
  rfl

theorem State.session_of_dict {s t : State} (h : t.dict = s.dict) (k : Nat) : t.session? k = s.session? k := by
  unfold State.session?
  rw [h]

theorem State.touch_session {s : State} {x : Sess} (h : s.session? x.slot = some x) :
    (s.touch x).session? x.slot = some { x with lastAt := s.now } := State.modSession_some h fun _ => rfl

/-- What an AUTH with one of the credential's keys comes to once its signature is known (R426). -/
theorem State.authDone_facts (s : State) (x y : Sess) (seq : Nat) (key : Bytes) (ok : Bool) (hsess : s.session? x.slot = some y)
    (hrole : s.authRole x.cred key ≠ 0) :
    (ok = true → .reply x.id seq stOk 0 [] ∈ (s.authDone x seq key ok).out ∧
      ∃ z, (s.authDone x seq key ok).session? x.slot = some z ∧ z.role = s.authRole x.cred key ∧ z.keyDig = sha384 key ∧ z.lastSeq = 0) ∧
    (ok = false → .reply x.id seq stRole 0 [] ∈ (s.authDone x seq key ok).out) := by
  unfold State.authDone
  dsimp only
  cases ok with
  | true =>
    rw [if_neg (by simp [hrole])]
    refine ⟨fun _ => ⟨State.sendReply_out _ _ _ _ _ _, ?_⟩, fun h => by cases h⟩
    refine ⟨{ y with
      role := s.authRole x.cred key, keyDig := sha384 key, lastSeq := 0, lastOp := 2, busy := false,
      lastReply := if seq = 0 then some (plain stOk) else none }, ?_, rfl, rfl, rfl⟩
    refine (State.session_of_dict (State.sendReply_dict _ _ _ _ _ _) _).trans ?_
    exact State.modSession_some hsess fun _ => rfl
  | false =>
    rw [if_pos (Or.inr (by decide))]
    exact ⟨fun h => absurd h (by decide), fun _ => State.authFails_out _ _ _⟩

theorem State.answer_now (s : State) (k : Nat) (r : Reply) : (s.answer k r).now = s.now :=
  congrArg Core.tick (State.answer_only s k r (List.Subset.refl _) (State.only_refl _ s) .core (by decide))

theorem authClass (n : Nat) :
    (if (if n = 96 then 1 else 2) = 1 then LaneKind.pk else .lattice) = if n = 96 then .pk else .lattice := by
  by_cases h : n = 96 <;> simp [h]

theorem authLattice (n : Nat) : ((if n = 96 then 1 else 2) == 2) = (n != 96) := by
  by_cases h : n = 96 <;> simp [h]

/-- What an AUTH in a session without role comes to (R426; log 110). -/
def State.authHeard (s : State) (x : Sess) (seq : Nat) (key : Bytes) (ok : Bool) : State :=
  if s.authRole x.cred key = 0 then s.authFails x seq
  else if s.core.op.working ∧ s.classOn (if (if key.length = 96 then 1 else 2) = 1 then .pk else .lattice) 0 then
    (s.modSession x.slot (fun y => { y with busy := true })).addDev
      (.pair ((if key.length = 96 then 1 else 2) == 2) false (ownerFrames (if key.length = 96 then 1 else 2)) (.auth x seq key ok))
  else s.authDone x seq key ok

theorem State.authHeard_stranger (s : State) (x : Sess) (seq : Nat) (key : Bytes) (ok : Bool) (h : s.authRole x.cred key = 0) :
    .reply x.id seq stRole 0 [] ∈ (s.authHeard x seq key ok).out := by
  unfold State.authHeard
  rw [if_pos h]
  exact State.authFails_out _ _ _

/-- The signature of an AUTH is a C0 programme's where one can run (R426). -/
theorem State.authHeard_queued (s : State) (x : Sess) {y : Sess} (seq : Nat) (key : Bytes) (ok : Bool)
    (hsess : s.session? x.slot = some y) (hkey : s.authRole x.cred key ≠ 0)
    (hroom : s.core.op.working = true ∧ s.classOn (if key.length = 96 then .pk else .lattice) 0 = true) :
    (s.authHeard x seq key ok).devJobs = s.devJobs ++ [⟨s.nextJob, .pair (key.length != 96) false
      (ownerFrames (if key.length = 96 then 1 else 2)) (.auth x seq key ok), s.now, none, 0⟩] ∧
    (s.authHeard x seq key ok).session? x.slot = some { y with busy := true } := by
  unfold State.authHeard
  rw [if_neg hkey, authClass, if_pos hroom, authLattice]
  exact ⟨rfl, State.modSession_some (f := fun y => { y with busy := true }) hsess fun _ => rfl⟩

/-- The signature of an AUTH is checked at once where no programme can run (log 110). -/
theorem State.authHeard_done (s : State) (x : Sess) {y : Sess} (seq : Nat) (key : Bytes) (ok : Bool)
    (hsess : s.session? x.slot = some y) (hkey : s.authRole x.cred key ≠ 0)
    (hnone : ¬(s.core.op.working = true ∧ s.classOn (if key.length = 96 then .pk else .lattice) 0 = true)) :
    (ok = true → .reply x.id seq stOk 0 [] ∈ (s.authHeard x seq key ok).out ∧
      ∃ z, (s.authHeard x seq key ok).session? x.slot = some z ∧ z.role = s.authRole x.cred key ∧ z.keyDig = sha384 key ∧ z.lastSeq = 0) ∧
    (ok = false → .reply x.id seq stRole 0 [] ∈ (s.authHeard x seq key ok).out) := by
  unfold State.authHeard
  rw [if_neg hkey, authClass, if_neg hnone]
  exact s.authDone_facts x y seq key ok hsess hkey

/-- What an AUTH reads of the state is as it was before its session was touched (R424). -/
theorem State.touch_reads (s : State) (x : Sess) :
    (∀ cred key, (s.fresh.touch x).authRole cred key = s.authRole cred key) ∧
    (∀ k c, (s.fresh.touch x).classOn k c = s.classOn k c) ∧ (s.fresh.touch x).core = s.core ∧
    (s.fresh.touch x).devJobs = s.devJobs ∧ (s.fresh.touch x).now = s.now ∧ (s.fresh.touch x).nextJob = s.nextJob ∧
    (∀ c b, (s.fresh.touch x).binding c b = s.binding c b) :=
  ⟨fun _ _ => rfl, fun _ _ => rfl, rfl, rfl, rfl, rfl, fun _ _ => rfl⟩

theorem State.dictAuth_heard {s : State} {x : Sess} (r : Req) (key sig binding : Bytes) (hserving : s.serving = true)
    (hfind : s.dict.sessions.find? (fun y => y.id == r.sid) = some x) (hrole : x.role = 0) (hbusy : x.busy = false)
    (hon : s.dictOn x.chan.iface = true) :
    exec (.dictAuth r key sig binding) s = .next ((s.fresh.touch x).authHeard x r.seq key
      (ownerVerify (if key.length = 96 then 1 else 2) key
        (authMessage ((s.fresh.touch x).binding x.chan binding) x.nonce x.id x.cred) sig)) := by
  change execDictAuth r key sig binding s = _
  unfold execDictAuth
  dsimp only
  rw [if_neg (by simp [show s.fresh.serving = true from hserving]),
    show s.fresh.dict.sessions.find? (fun y => y.id == r.sid) = some x from hfind]
  dsimp only
  rw [if_neg (fun h => h hrole), if_neg (by simp [show s.fresh.dictOn x.chan.iface = true from hon]), if_neg (ne_true_of_eq_false hbusy)]
  rfl

/-- Settles O44: each session request, from the rule that finds its session. -/
theorem dictionarySessions : Obligations.DictionarySessions := by
  refine ⟨fun ch cred slot s hserving hon hup hnone hslot hdrbg => ?_, fun r x key sig binding s hserving hfind hsess hrole hbusy hon => ?_,
    fun r x s hready => ?_, fun sid conn x s hconn hserving hfind hidle hbusy => ?_,
    fun r x target op index sub value role answer s hrole happr hready hmaster hop hmember => ?_⟩
  · obtain ⟨i, u, hsessions, hexec⟩ := State.dictOpen_opens cred hserving hon hup hnone hslot hdrbg
    have hafter : (u.sendReply ch 1 0 0 { status := stOk, info := 0, payload := (s.draw 32).1 ++ leN 4 i }).dict.sessions = _ :=
      (congrArg Dict.sessions (State.sendReply_dict _ _ _ _ _ _)).trans hsessions
    refine ⟨_, hexec, ⟨opened s ch cred slot i, ?_, rfl, rfl, rfl, rfl, rfl, State.sendReply_out _ _ _ _ _ _⟩, fun x hx => ?_⟩
    · rw [hafter]
      exact List.mem_append_right _ (List.mem_singleton.mpr rfl)
    · rw [hafter]
      exact List.mem_append_left _ hx
  · obtain ⟨u, hu⟩ : ∃ u, u = s.fresh.touch x := ⟨_, rfl⟩
    have hheard := State.dictAuth_heard r key sig binding hserving hfind hrole hbusy hon
    have htouched : u.session? x.slot = some { x with lastAt := s.now } := by
      rw [hu]
      exact State.touch_session (s := s.fresh) hsess
    obtain ⟨hrole', hclass, hwork, hdev, hnow, hnext, hbind⟩ := s.touch_reads x
    rw [hbind, ← hu] at hheard
    rw [← hu] at hrole' hclass hwork hdev hnow hnext
    rw [← hnow] at htouched
    rw [← hrole', ← hclass, ← hwork, ← hdev, ← hnow, ← hnext]
    refine ⟨_, hheard, fun hkey => ?_, fun hkey hroom => ?_, fun hkey hnone => ?_⟩
    · exact u.authHeard_stranger x r.seq key _ hkey
    · exact u.authHeard_queued x r.seq key _ htouched hkey hroom
    · exact u.authHeard_done x r.seq key _ htouched hkey hnone
  · obtain ⟨w, q, -, hs, hreq⟩ := s.request_state r x 3 (fun s x => (s.reply x (plain stOk)).endSession x) hready
    obtain ⟨hsessions, hended, hout, -⟩ := (((s.sess w q).reply (x.begun r 3 s.now) (plain stOk)).endSession_facts (x.begun r 3 s.now))
    refine ⟨_, congrArg Host.Outcome.next hreq, fun y hy => ?_, ?_, ?_⟩
    · rw [hsessions] at hy
      have hkept := (List.mem_filter.mp hy).2
      simp only [bne_iff_ne] at hkept
      exact hkept
    · rw [hended]
      refine List.mem_append_right _ (List.mem_singleton.mpr ?_)
      exact congrArg (Prod.mk x.id) (State.answer_now (s.sess w q) _ _).symm
    · rw [hout]
      exact State.answer_out _ x.slot (x.begun r 3 s.now) _ hs
  · subst hconn
    obtain ⟨hsessions, hended, -, -⟩ := s.fresh.endSession_facts x
    refine ⟨s.fresh.endSession x, ?_, fun y hy => ?_, ?_⟩
    · change execDictSessionIdle sid false s = _
      unfold execDictSessionIdle
      dsimp only
      rw [if_neg (by simp [show s.fresh.serving = true from hserving]), if_neg (by decide),
        show s.fresh.dict.sessions.find? (fun x => x.id == sid) = some x from hfind]
      exact congrArg Host.Outcome.next (if_pos ⟨hidle, hbusy⟩)
    · rw [hsessions] at hy
      simpa using (List.mem_filter.mp hy).2
    · rw [hended]
      exact List.mem_append_right _ (List.mem_singleton.mpr rfl)
  · subst hrole hop
    obtain ⟨w, q, -, hs, hreq⟩ := s.request_state r x 0x10
      (fun s x => s.remoteMaster x target 0x10 (mkKey index sub) value answer) hready
    have hread : (s.sess w q).remoteMaster (x.begun r 0x10 s.now) target 0x10 (mkKey index sub) value answer =
        ((s.sess w q).sendRemote target (mkKey index sub) value).answer x.slot (answer.getD (plain stPeerLost)) := by
      rw [← State.finish_session s x r 0x10 s.now _ hready.2.2.2.1]
      refine (if_neg (fun h => h hmaster)).trans ((if_neg (by decide)).trans ((if_neg (by decide)).trans ((if_neg (by decide)).trans
        ((if_neg (by decide)).trans ((if_neg ?_).trans (if_pos (Or.inl rfl)))))))
      show ¬(!s.members.contains target) = true
      rw [hmember]
      decide
    rw [hread] at hreq
    refine ⟨_, congrArg Host.Outcome.next ((if_pos rfl).trans ((State.withApproval_none _ _ _ _ happr).trans hreq)), ?_,
      State.answer_out _ x.slot (x.begun r 0x10 s.now) _ (by exact hs)⟩
    exact State.answer_out_mono _ _ _ _ (State.linkSend_out _ _ _ _)

end Sys2Proof.Machine

/-! # Settled: key commands by officers and the upkeep of the Tack Room (O45, O46) -/

namespace Sys2Proof.Machine

open Sys2Proof

/-! ### Key commands through the dictionary (O45) -/

theorem keyValue_code (code : Nat) (h d : Bytes) (hc : code < 256) : u8 (keyValue code h d) 0 = code :=
  (BitVec.toNat_ofNat code 8).trans (Nat.mod_eq_of_lt hc)

/-- Only the CREATE of a key has a programme of its own (R213). -/
theorem State.keyValue_plain (s : State) (code : Nat) (h d : Bytes) (hc : code < 256) (h1 : code ≠ 1) :
    s.valueProgramme 0x400006 (keyValue code h d) = none := by
  have hno : ¬(0x400006 = 0x400006 ∧ keyCmdForm (keyValue code h d) = 0 ∧ u8 (keyValue code h d) 0 = 1) := by
    rw [keyValue_code code h d hc]
    exact fun e => h1 e.2.2
  unfold State.valueProgramme
  dsimp only
  rw [if_neg (by omega), if_neg hno]

/-- A key command that makes one key, or fails (R226 to R229, R247). -/
theorem State.keyRow_adds (s : State) (r : Req) (x : Sess) (v : Bytes) (hready : s.requestReady r x) (happr : r.approver = none)
    (hprog : s.valueProgramme 0x400006 v = none) (hquorum : s.needsQuorum x.role 0x400006 = false) (hlog : s.logOpen)
    (hcmds : s.tack.cmdsThisFrame < 8) (parent : Option Key) (a : NewKey) (sec : Bytes) (slot : Nat) (t0 : Tack)
    (hcheck : s.writeCheck x 0x400006 v = 0) (hplan : s.keyPlan (keyCmdOf v) = .ok (.add parent a sec))
    (hplace : s.place (keyRun a.typ) ((BitVec.ofNat 5 a.world).getLsbD 0) = some (slot, t0)) :
    (s.fresh.writeRow r 0x400006 v).tack.keys = s.tack.keys.filter (fun k => k.slot != slot) ++ [newKeyAt s parent a sec slot] ∧
    (∃ kcv, (s.fresh.writeRow r 0x400006 v).tack.result =
      tackResult stOk ((s.fresh.writeRow r 0x400006 v).tack.handleOf slot) kcv) ∧
    .reply x.id r.seq stOk 0 [] ∈ (s.fresh.writeRow r 0x400006 v).out := by
  obtain ⟨u, hview, htack, hout⟩ := (s.keyRow_facts r x v hready happr hprog hquorum hlog hcmds).1 hcheck
  obtain ⟨hst, hkeys, hresult⟩ := u.runCommand_add (keyCmdOf v) parent a sec slot t0 ((hview.plan _).trans hplan)
    ((hview.place _ _).trans hplace)
  rw [hst] at hout
  rw [hview.tack] at hkeys
  rw [htack]
  refine ⟨?_, hresult, hout⟩
  rw [hkeys]
  unfold newKeyAt
  rw [hview.tack]

/-- A key command that changes one key (R226, R231, R235, R236). -/
theorem State.keyRow_changes (s : State) (r : Req) (x : Sess) (v : Bytes) (k : Key) (hready : s.requestReady r x)
    (happr : r.approver = none) (hprog : s.valueProgramme 0x400006 v = none) (hquorum : s.needsQuorum x.role 0x400006 = false)
    (hlog : s.logOpen) (hcmds : s.tack.cmdsThisFrame < 8) (hcheck : s.writeCheck x 0x400006 v = 0)
    (hplan : s.keyPlan (keyCmdOf v) = .ok (.change k)) :
    ∃ u, s.keyView u ∧ u.keyPlan (keyCmdOf v) = .ok (.change k) ∧
      (s.fresh.writeRow r 0x400006 v).tack = (u.runCommand (keyCmdOf v)).2.tack ∧
      .reply x.id r.seq stOk 0 [] ∈ (s.fresh.writeRow r 0x400006 v).out := by
  obtain ⟨u, hview, htack, hout⟩ := (s.keyRow_facts r x v hready happr hprog hquorum hlog hcmds).1 hcheck
  have hplan' := (hview.plan (keyCmdOf v)).trans hplan
  rw [(u.runCommand_change (keyCmdOf v) k hplan').1] at hout
  exact ⟨u, hview, hplan', htack, hout⟩

/-- Settles O45: each key command through the rule of key commands, by the plan that its checks leave. -/
theorem officerKeys : Obligations.OfficerKeys := by
  refine ⟨fun r x h d s hready happr hprog hquorum hlog hcmds => ?_, fun r x h d l c n s hready happr hcheck hprog hquorum => ?_,
    fun r x h d s hready happr hquorum hlog hcmds => ?_, fun r x h d s hready happr hquorum hlog hcmds => ?_,
    fun r x h k s hready happr hquorum hlog hcmds hcheck hplan hst hworn => ?_,
    fun r x h k s hready happr hquorum hlog hcmds hcheck hplan => ?_, fun r x h k s hready happr hquorum hlog hcmds hcheck hplan => ?_,
    fun r x h k s hready happr hquorum hlog hcmds hcheck hplan => ?_, fun r x h s hready happr hquorum hlog hcmds => ?_⟩
  · exact ⟨_, rfl, s.keyRow_adds r x _ hready happr hprog hquorum hlog hcmds,
      (s.keyRow_facts r x _ hready happr hprog hquorum hlog hcmds).2⟩
  · obtain ⟨w, q, -, -, hrow⟩ := s.writeRow_ready r x 0x400006 (keyValue 1 h d) hready happr
    rw [State.writeValue_waits _ _ _ n l c _ (by rw [State.sess_writeCheck, State.begun_writeCheck]; exact hcheck)
      (by rw [State.sess_valueProgramme]; exact hprog) (by rw [State.sess_needsQuorum]; exact hquorum)] at hrow
    exact ⟨_, congrArg Host.Outcome.next hrow, rfl, rfl⟩
  · have hprog := s.keyValue_plain 2 h d (by decide) (by decide)
    exact ⟨_, rfl, s.keyRow_adds r x _ hready happr hprog hquorum hlog hcmds,
      (s.keyRow_facts r x _ hready happr hprog hquorum hlog hcmds).2⟩
  · have hprog := s.keyValue_plain 3 h d (by decide) (by decide)
    exact ⟨_, rfl, s.keyRow_adds r x _ hready happr hprog hquorum hlog hcmds,
      (s.keyRow_facts r x _ hready happr hprog hquorum hlog hcmds).2⟩
  · obtain ⟨u, hview, hplan', htack, hout⟩ := s.keyRow_changes r x _ k hready happr
      (s.keyValue_plain 4 h [] (by decide) (by decide)) hquorum hlog hcmds hcheck hplan
    obtain ⟨-, hrevoke, -⟩ := u.runCommand_change _ k hplan'
    refine ⟨_, rfl, ?_, hout⟩
    rw [htack, ← hview.tack]
    exact hrevoke (keyValue_code 4 h [] (by decide)) hst (by rw [hview.tack]; exact hworn)
  · obtain ⟨u, hview, hplan', htack, hout⟩ := s.keyRow_changes r x _ k hready happr
      (s.keyValue_plain 5 h [] (by decide) (by decide)) hquorum hlog hcmds hcheck hplan
    obtain ⟨-, -, herase, -⟩ := u.runCommand_change _ k hplan'
    refine ⟨_, rfl, ?_, hout⟩
    rw [htack, ← hview.tack]
    exact herase (keyValue_code 5 h [] (by decide))
  · obtain ⟨u, hview, hplan', htack, hout⟩ := s.keyRow_changes r x _ k hready happr
      (s.keyValue_plain 6 h [] (by decide) (by decide)) hquorum hlog hcmds hcheck hplan
    obtain ⟨-, -, -, hrewrite, -⟩ := u.runCommand_change _ k hplan'
    refine ⟨_, rfl, ?_, hout⟩
    rw [htack, ← hview.tack]
    exact hrewrite (keyValue_code 6 h [] (by decide))
  · obtain ⟨u, hview, hplan', htack, hout⟩ := s.keyRow_changes r x _ k hready happr
      (s.keyValue_plain 7 h [] (by decide) (by decide)) hquorum hlog hcmds hcheck hplan
    obtain ⟨-, -, -, -, hdrain⟩ := u.runCommand_change _ k hplan'
    refine ⟨_, rfl, ?_, hout⟩
    rw [htack, ← hview.tack, ← hview.now]
    exact hdrain (keyValue_code 7 h [] (by decide))
  · obtain ⟨hpass, hfail⟩ := s.keyRow_facts r x _ hready happr (s.keyValue_plain 8 h [] (by decide) (by decide)) hquorum hlog hcmds
    refine ⟨_, rfl, fun b hcheck hplan => ?_, hfail⟩
    obtain ⟨u, hview, htack, hout⟩ := hpass hcheck
    obtain ⟨hst, hexport⟩ := u.runCommand_export _ b ((hview.plan _).trans hplan)
    rw [hst] at hout
    rw [htack, hexport, hview.tack]
    exact ⟨rfl, hout⟩

/-! ### The Storage Root Key, drains and sweeps (O46) -/

/-- Settles O46: the new root key, the erased keys and the counted sweep. -/
theorem tackMaintenance : Obligations.TackMaintenance := by
  refine ⟨fun r x v s h hv => ?_, fun slot k s hdrain hused => ?_, fun slot e k s hdrain hend hdue => ?_, fun s hended => ?_⟩
  · subst hv
    obtain ⟨m, hm, hsame, -, -, hout⟩ := s.writeRow_applies r x 0x400005 (encN 1 1)
      (fun m => (m.written 0x400005 (encN 1 1)).srkGenerated) h (by unfold plainEntry; decide) (fun _ => rfl)
    have htack : (m.written 0x400005 (encN 1 1)).tack = s.tack := hm.unchanged .tack (by decide)
    obtain ⟨hsrk, hkeys⟩ := (m.written 0x400005 (encN 1 1)).srkGenerated_tack
    rw [htack] at hkeys
    refine ⟨_, rfl, ?_, ?_, hout⟩
    · rw [(hsame .tack (by decide) :), hsrk]
      unfold State.draw
      rw [htack]
    · rw [(hsame .tack (by decide) :)]
      exact hkeys
  · refine ⟨s.fresh.eraseKey k, ?_, State.eraseKey_keys s.fresh k⟩
    change execDrainErase slot s = _
    unfold execDrainErase
    dsimp only
    rw [show s.fresh.draining slot = some k from hdrain]
    exact congrArg Host.Outcome.next (if_neg (ne_true_of_eq_false hused))
  · refine ⟨s.fresh.eraseKey k, ?_, State.eraseKey_keys s.fresh k⟩
    change execDrainTimeout slot s = _
    unfold execDrainTimeout
    dsimp only
    rw [show s.fresh.draining slot = some k from hdrain]
    dsimp only
    rw [hend]
    exact congrArg Host.Outcome.next (if_pos (decide_eq_true hdue))
  · refine ⟨_, congrArg Host.Outcome.next (if_neg (fun h => ?_)), rfl, rfl, rfl⟩
    rw [show s.fresh.devEnded .sweep = true from hended] at h
    cases h

end Sys2Proof.Machine

/-! # Settled: the services of jobs (O47 to O51) -/

namespace Sys2Proof.Machine

open Sys2Proof

/-! ### PIN blocks, MACs and cryptograms (O47) -/

/-- Settles O47: each service is its function of the job, ended with its last step. -/
theorem paymentServices : Obligations.PaymentServices := by
  refine ⟨fun id j s h => ?_, fun id j s h => ?_, fun id j s h => ?_, fun id j s h => ?_, fun id j s h => ?_, fun id j s h => ?_,
    fun id j s h => ?_, fun id j s h => ?_, fun id j s h => ?_⟩
  · exact ⟨_, rfl, s.fresh.endPlain_facts 0x10 id true Job.pinTranslate j h⟩
  · exact ⟨_, rfl, s.fresh.endPlain_facts 0x11 id true Job.pinVerify j h⟩
  · exact ⟨_, rfl, s.fresh.endPlain_facts 0x12 id true Job.dukptTranslate j h⟩
  · exact ⟨_, rfl, s.fresh.endPlain_facts 0x13 id true Job.pinCheckValue j h⟩
  · exact ⟨_, rfl, s.fresh.endPlain_facts 0x20 id true Job.macGenerate j h⟩
  · exact ⟨_, rfl, s.fresh.endPlain_facts 0x21 id true Job.macVerify j h⟩
  · exact ⟨_, rfl, s.fresh.endPlain_facts 0x28 id true Job.cryptogram j h⟩
  · exact ⟨_, rfl, s.fresh.endPlain_facts 0x29 id true Job.cryptogramRespond j h⟩
  · exact ⟨_, rfl, (s.fresh.endWith_facts 0x3A id true State.kcvEnd j h rfl).2⟩

/-! ### Digests and streams (O48) -/

theorem Job.digestOut_plain {j : Job} (h : j.op % 2 = 0) : j.digestOut = (hashOfCode j.param).run (j.data.take j.srcLen) :=
  if_neg (by omega)

theorem Job.digestOut_keyed {j : Job} (h : j.op % 2 = 1) : j.digestOut = hmac (hashOfCode j.param) j.secA (j.data.take j.srcLen) :=
  if_pos h

theorem State.stream_of_pads {s t : State} (h : t.pads = s.pads) (p k : Nat) : t.stream? p k = s.stream? p k := by
  unfold State.stream? State.pad?
  rw [h]

theorem State.pad_of_pads {s t : State} (h : t.pads = s.pads) (p : Nat) : t.pad? p = s.pad? p := by
  unfold State.pad?
  rw [h]

/-- A service that closes its stream, whether or not its source fell short (R268, R269). -/
theorem State.closing_facts (s : State) (op id : Nat) (f : State → Job → State × Ending) (j : Job) (h : s.atLastStep id op j)
    (hstream : opStream op = true) (hf : (f s j).1 = s.closeStream j.pad j.keyB) :
    (s.endStep op id true f).job? id = some (j.ended (j.ending true (f s j).2) s.now) ∧
    (∀ q, s.pad? j.pad = some q → ∃ y, (s.endStep op id true f).pad? j.pad = some y ∧
      y.streams = q.streams.filter (fun z => z.handle != j.keyB)) := by
  obtain ⟨u, hwhole, hshort, -, honly, hjob⟩ := s.endStep_facts op id true f j h (by rw [hf]; rfl) (by rw [hf]; rfl)
  have hu : u = s.closeStream j.pad j.keyB := by
    cases hs : j.short with
    | false => exact (hwhole rfl hs).trans hf
    | true => exact hshort rfl hs hstream
  refine ⟨hjob, fun q hq => ⟨{ q with streams := q.streams.filter (fun z => z.handle != j.keyB) },
    (State.pad_of_pads (honly .pads (by decide)) _).trans ?_, rfl⟩⟩
  rw [hu]
  exact s.closeStream_pad _ _ q hq

/-- Settles O48: the digests by the parity of their opcode, and what each stream service does with its stream. -/
theorem digestServices : Obligations.DigestServices := by
  refine ⟨fun id j s h => ?_, fun id j s h => ?_, fun id j s h => ?_, fun id j s h => ?_, fun id j s h => ?_, fun id j s h => ?_,
    fun id j s h => ?_, fun id j s h => ?_, fun id j s h => ?_, fun id j s h => ?_⟩
  · refine ⟨_, rfl, ?_⟩
    rw [← Job.digestOut_plain (by rw [Job.atEnd_op h.2.1])]
    exact s.fresh.endPlain_facts 0x40 id true Job.digestEnd j h
  · refine ⟨_, rfl, ?_⟩
    rw [← Job.digestOut_keyed (by rw [Job.atEnd_op h.2.1])]
    exact s.fresh.endPlain_facts 0x41 id true Job.digestEnd j h
  · refine ⟨_, rfl, ?_⟩
    rw [← Job.digestOut_plain (by rw [Job.atEnd_op h.2.1])]
    exact s.fresh.endPlain_facts 0x42 id true Job.compareEnd j h
  · refine ⟨_, rfl, ?_⟩
    rw [← Job.digestOut_keyed (by rw [Job.atEnd_op h.2.1])]
    exact s.fresh.endPlain_facts 0x43 id true Job.compareEnd j h
  · exact ⟨_, rfl, s.fresh.endPlain_facts 0x44 id true Job.openEnd j h⟩
  · exact ⟨_, rfl, s.fresh.endPlain_facts 0x45 id true Job.openEnd j h⟩
  · obtain ⟨u, hwhole, hshort, -, honly, hjob⟩ := s.fresh.endStep_facts 0x46 id true State.updateEnd j h rfl rfl
    refine ⟨_, rfl, hjob, fun x hs hx => ?_, fun hs q hq => ⟨{ q with streams := q.streams.filter (fun z => z.handle != j.keyB) }, ?_, rfl⟩⟩
    · rw [State.stream_of_pads (honly .pads (by decide) :), hwhole rfl hs]
      exact State.modStream_stream s.fresh j.pad j.keyB (fun x => { x with absorbed := x.absorbed ++ j.data.take j.srcLen })
        (fun _ => rfl) x hx
    · rw [State.pad_of_pads (honly .pads (by decide) :), hshort rfl hs rfl]
      exact s.fresh.closeStream_pad _ _ q hq
  · exact ⟨_, rfl, s.fresh.closing_facts 0x47 id State.finalEnd j h rfl rfl⟩
  · exact ⟨_, rfl, s.fresh.closing_facts 0x48 id State.finalCompareEnd j h rfl rfl⟩
  · exact ⟨_, rfl, s.fresh.closing_facts 0x49 id State.abandonEnd j h rfl rfl⟩

/-! ### Signatures, encapsulation and random bytes (O49) -/

/-- Settles O49: each service is its function of the job, primary and twin agreeing. -/
theorem publicKeyServices : Obligations.PublicKeyServices := by
  refine ⟨fun id agree j s h => ?_, fun id agree j s h => ?_, fun id p agree j s hj hend hsrc hp => ?_, fun id agree j s h => ?_,
    fun id j s h => ?_⟩
  · exact ⟨_, rfl, s.fresh.endPlain_facts 0x50 id agree Job.sign j h⟩
  · exact ⟨_, rfl, s.fresh.endPlain_facts 0x51 id agree (fun j => bare j.verifyOne) j h⟩
  · exact ⟨_, rfl, s.fresh.part_facts 0x52 id p agree (fun j => bare j.verifyOne) j hj hend hsrc hp rfl⟩
  · exact ⟨_, rfl, (s.fresh.endWith_facts 0x54 id agree State.encapEnd j h rfl).2⟩
  · exact ⟨_, rfl, s.fresh.endPlain_facts 0x70 id true Job.randomEnd j h⟩

/-! ### Jobs that make keys (O50) -/

theorem State.fresh_place (s : State) (run : Nat) (b : Bool) : s.fresh.place run b = s.place run b :=
  s.side_place s.ports s.log s.atn s.dict s.pending [] rfl run b

theorem State.fresh_jobPlace (s : State) (id run : Nat) (b : Bool) : s.fresh.jobPlace id run b = s.jobPlace id run b := by
  unfold State.jobPlace
  rw [State.fresh_place]
  rfl

theorem State.fresh_jobCheck (s : State) (j : Job) : s.fresh.jobCheck j = s.jobCheck j := by
  have hcurve : ∀ k, s.fresh.curveHolds k = s.curveHolds k := fun _ => rfl
  have howned : ∀ p, s.fresh.slotsOwned p = s.slotsOwned p := fun _ => rfl
  have hpad : ∀ p, s.fresh.pad? p = s.pad? p := fun _ => rfl
  have hreload : s.fresh.reload j = s.reload j := rfl
  have htarget : ∀ c w p h, s.fresh.cmdTarget c w p h = s.cmdTarget c w p h := fun _ _ _ _ => rfl
  have hchange : ∀ c k, s.fresh.changeCheck c k = s.changeCheck c k := fun _ _ => rfl
  unfold State.jobCheck
  simp only [State.fresh_jobPlace, hcurve, howned, hpad, hreload, htarget, hchange, State.fresh_tack]

theorem State.fresh_checkNeeds (s : State) (six : Bool) (w p : Nat) (l : List Need) :
    s.fresh.checkNeeds six w p l = s.checkNeeds six w p l := by
  induction l with
  | nil => rfl
  | cons n l ih =>
    unfold State.checkNeeds
    rw [ih]
    rfl

theorem State.fresh_keyJobFails (s t : State) (id : Nat) (j : Job) (e : Ending) :
    s.fresh.keyJobFails t id j e ↔ s.keyJobFails t id j e := by
  unfold State.keyJobFails
  rw [State.fresh_jobCheck]
  exact Iff.rfl

theorem State.fresh_keyJobAdds (s t : State) (id : Nat) (j : Job) (e : Ending) :
    s.fresh.keyJobAdds t id j e ↔ s.keyJobAdds t id j e := by
  unfold State.keyJobAdds
  simp only [State.fresh_jobCheck, State.fresh_jobPlace]
  exact Iff.rfl

/-- A key job at its last step fails with its status, or makes its key (R229, R230, R349). -/
theorem State.makesKey (s : State) (op id : Nat) (agree : Bool) (f : State → Job → Ending) (j : Job) (h : s.atLastStep id op j)
    (hstream : opStream op = false) (hcode : opKeyCode op ≠ 0) (hlog : s.logOpen) (hcmds : s.tack.cmdsThisFrame < 8)
    (hf : f s.fresh j = f s j) :
    s.keyJobFails ((s.fresh.endWith op id agree f).askJob id) id j (j.ending agree (f s j)) ∧
    s.keyJobAdds ((s.fresh.endWith op id agree f).askJob id) id j (j.ending agree (f s j)) := by
  obtain ⟨honly, hjob⟩ := s.fresh.endWith_facts op id agree f j h hstream
  obtain ⟨hfails, hadds, -⟩ := s.fresh.keyJob_facts _ id j _ honly hjob h.2.2 (by rw [Job.atEnd_op h.2.1]; exact hcode) hlog hcmds
  rw [hf] at hfails hadds
  exact ⟨(s.fresh_keyJobFails _ _ _ _).mp hfails, (s.fresh_keyJobAdds _ _ _ _).mp hadds⟩

/-- A job that has ended takes no step (R349). -/
theorem State.noStepReady_ended (s : State) (op n : Nat) (j : Job) (e : Ending) : s.noStepReady (j.ended e n) op = false := by
  unfold State.noStepReady
  rw [show (j.ended e n).settled = true from rfl]
  simp

/-- A job that has begun no step is not at its last one (R334). -/
theorem State.endWith_idle {s : State} {op id : Nat} {agree : Bool} {f : State → Job → Ending} {j : Job} (h : s.job? id = some j)
    (hbegun : j.begun = false) : s.endWith op id agree f = s := by
  unfold State.endWith State.endStep
  rw [h]
  exact if_pos (by simp [Job.atEnd, hbegun])

theorem State.fresh_noStepEnding (s : State) (j : Job) (e : Ending) : s.fresh.noStepEnding j e = s.noStepEnding j e := by
  have hcheck : s.fresh.noStepCheck j = s.noStepCheck j := by
    unfold State.noStepCheck
    rw [State.fresh_jobCheck, State.fresh_checkNeeds]
  unfold State.noStepEnding
  rw [hcheck]

/-- Settles O50: one rule for the key jobs, whichever way they end. -/
theorem keyMakingJobs : Obligations.KeyMakingJobs := by
  refine ⟨fun id j s h hlog hcmds => ?_, fun id agree j s h hlog hcmds => ?_, fun id j s h hlog hcmds => ?_,
    fun id j s h hlog hcmds => ?_, fun id j s h hlog hcmds => ?_, fun id agree j s h hlog hcmds => ?_,
    fun id agree j s h hlog hcmds => ?_, fun id agree j s h hlog hcmds => ?_, fun id agree j s h hlog hcmds => ?_,
    fun id agree j s h hlog hcmds => ?_, fun id agree j s h hlog hcmds => ?_,
    fun id agree j s hj hready hbegun hwhole hlog hcmds => ?_⟩
  · exact ⟨_, rfl, s.makesKey 0x30 id true State.generateEnd j h rfl (by decide) hlog hcmds rfl⟩
  · exact ⟨_, rfl, s.makesKey 0x31 id agree State.pairEnd j h rfl (by decide) hlog hcmds rfl⟩
  · exact ⟨_, rfl, s.makesKey 0x32 id true State.importEnd j h rfl (by decide) hlog hcmds rfl⟩
  · exact ⟨_, rfl, s.makesKey 0x33 id true State.importWrappedEnd j h rfl (by decide) hlog hcmds rfl⟩
  · exact ⟨_, rfl, s.makesKey 0x35 id true State.deriveEnd j h rfl (by decide) hlog hcmds rfl⟩
  · exact ⟨_, rfl, s.makesKey 0x53 id agree State.ecdhEnd j h rfl (by decide) hlog hcmds rfl⟩
  · exact ⟨_, rfl, s.makesKey 0x55 id agree State.encapEnd j h rfl (by decide) hlog hcmds rfl⟩
  · exact ⟨_, rfl, s.makesKey 0x56 id agree State.encapEnd j h rfl (by decide) hlog hcmds rfl⟩
  · exact ⟨_, rfl, s.makesKey 0x57 id agree State.decapEnd j h rfl (by decide) hlog hcmds rfl⟩
  · exact ⟨_, rfl, s.makesKey 0x58 id agree State.decapEnd j h rfl (by decide) hlog hcmds rfl⟩
  · obtain ⟨-, hjob⟩ := s.fresh.endWith_facts 0x3B id agree State.storeEnd j h rfl
    have hidle : (s.fresh.endWith 0x3B id agree State.storeEnd).performNow 0x3B id State.storeEnd =
        s.fresh.endWith 0x3B id agree State.storeEnd := State.performNow_idle _ _ _ _ _ hjob (State.noStepReady_ended _ _ _ _ _)
    exact ⟨_, congrArg (fun t : State => Host.Outcome.next (t.askJob id)) hidle,
      s.makesKey 0x3B id agree State.storeEnd j h rfl (by decide) hlog hcmds rfl⟩
  · have hidle : s.fresh.endWith 0x3B id agree State.storeEnd = s.fresh := State.endWith_idle (s := s.fresh) hj hbegun
    obtain ⟨hjob, honly⟩ := s.fresh.performNow_facts 0x3B id State.storeEnd j hj hready hwhole
    obtain ⟨hfails, hadds, -⟩ := s.fresh.keyJob_facts _ id j _ honly hjob hwhole (by rw [State.noStep_op hready]; decide) hlog hcmds
    rw [State.fresh_noStepEnding] at hfails hadds
    exact ⟨_, congrArg (fun t : State => Host.Outcome.next ((t.performNow 0x3B id State.storeEnd).askJob id)) hidle,
      (s.fresh_keyJobFails _ _ _ _).mp hfails, (s.fresh_keyJobAdds _ _ _ _).mp hadds⟩

/-! ### Jobs that change or hand out keys (O51) -/

/-- The check that a job which changes a key meets before it takes effect (R231, R235, R236). -/
theorem State.noStepCheck_change {s : State} {j : Job} (hneeds : j.needs = []) (hcode : 4 ≤ opKeyCode j.op ∧ opKeyCode j.op ≤ 7) :
    s.noStepCheck j = match s.cmdTarget (opKeyCode j.op) j.world j.pad j.keyA with
      | .error e => e
      | .ok k => if s.changeCheck (opKeyCode j.op) k = stEntropy then 0 else s.changeCheck (opKeyCode j.op) k := by
  unfold State.noStepCheck
  rw [hneeds]
  unfold State.checkNeeds
  dsimp only
  rw [if_pos hcode]
  unfold State.jobCheck
  dsimp only
  rw [if_neg (by omega)]
  rfl

/-- A job that changes a key and takes no step, in either outcome of its check (R231, R235, R236, R349). -/
theorem State.changesKey (s : State) (op id : Nat) (j : Job) (hj : s.job? id = some j) (hready : s.noStepReady j op = true)
    (hwhole : j.src.whole = true) (hshort : j.short = false) (hneeds : j.needs = [])
    (hcode : opKeyCode op = 4 ∨ opKeyCode op = 5 ∨ opKeyCode op = 7) (hlog : s.logOpen) (hcmds : s.tack.cmdsThisFrame < 8) :
    (∀ e, s.cmdTarget (opKeyCode op) j.world j.pad j.keyA = .error e → e ≠ 0 →
      ((s.fresh.performNow op id (fun _ _ => bare stOk)).askJob id).tack = s.tack ∧
      ((s.fresh.performNow op id (fun _ _ => bare stOk)).askJob id).closes id e s.now) ∧
    (∀ k, s.cmdTarget (opKeyCode op) j.world j.pad j.keyA = .ok k → s.changeCheck (opKeyCode op) k = 0 →
      ∃ m : State, m.tack = s.tack ∧ m.now = s.now ∧
        ((s.fresh.performNow op id (fun _ _ => bare stOk)).askJob id).tack.keys =
          (m.changeKey (opKeyCode op) k (if opKeyCode op = 7 then ofLE j.data else 0) j.drawNo).tack.keys ∧
        ((s.fresh.performNow op id (fun _ _ => bare stOk)).askJob id).closes id stOk s.now) := by
  obtain ⟨hjob, honly⟩ := s.fresh.performNow_facts op id (fun _ _ => bare stOk) j hj hready hwhole
  have hop : j.op = op := State.noStep_op hready
  have hcheck := s.noStepCheck_change hneeds (by rw [hop]; omega)
  rw [hop] at hcheck
  rw [State.fresh_noStepEnding] at hjob
  unfold State.noStepEnding at hjob
  refine ⟨fun e he hne => ?_, fun k hk hpass => ?_⟩
  · rw [he] at hcheck
    rw [hcheck, if_pos hne] at hjob
    obtain ⟨⟨hfails, -⟩, -, -⟩ := s.fresh.keyJob_facts _ id j (bare e) honly hjob hwhole (by rw [hop]; omega) hlog hcmds
    obtain ⟨hended, htack⟩ := hfails hne
    refine ⟨htack, _, hended, rfl, decide_eq_false fun h => hne h.1, if_neg fun h => hne h.1⟩
  · rw [hk] at hcheck
    dsimp only at hcheck
    rw [hpass, if_neg (by decide)] at hcheck
    rw [hcheck, if_neg (fun h => h rfl), if_neg (ne_true_of_eq_false hshort)] at hjob
    obtain ⟨-, hdone⟩ := s.fresh.keyChange_facts _ id j (opKeyCode op) (bare stOk) honly hjob hwhole (by rw [hop])
      (by omega) hlog hcmds rfl rfl
    exact hdone k hk hpass

/-- The needs of the jobs that change a key and take no step are none (R349). -/
theorem Job.needs_change {j : Job} (h : j.op = 0x36 ∨ j.op = 0x37 ∨ j.op = 0x39) : j.needs = [] := by
  unfold Job.needs
  rcases h with h | h | h <;> (rw [h]; rfl)

theorem Job.ending_ok {j : Job} {agree : Bool} {e : Ending} (h : (j.ending agree e).st = stOk) : j.ending agree e = e := by
  unfold Job.ending at h ⊢
  split
  · rename_i hne
    rw [if_pos hne] at h
    exact absurd h (by decide)
  · rename_i hne
    rw [if_neg hne] at h
    split
    · rename_i hshort
      rw [if_pos hshort] at h
      exact absurd h (by decide)
    · rfl

theorem State.exportEnd_key (s : State) (j : Job) : (s.exportEnd j).key = none := by
  unfold State.exportEnd
  split
  · split <;> rfl
  · rfl

theorem State.changeKey_revoke (s : State) {k : Key} (timeout n : Nat) (h : k.st ≠ .revoked) :
    s.changeKey 4 k timeout n = s.revokeKey k := (if_pos rfl).trans (if_neg h)

theorem State.changeCheck_drain (s : State) {k : Key} (h : k.st ≠ .draining) : s.changeCheck 7 k = 0 :=
  (if_neg (by decide)).trans (if_neg fun e => h e.2)

/-- Settles O51: the target check, then the change of the named key; exporting changes none. -/
theorem keyChangingJobs : Obligations.KeyChangingJobs := by
  refine ⟨fun id j s hj hready hwhole hshort hlog hcmds => ?_, fun id j s hj hready hwhole hshort hlog hcmds => ?_,
    fun id j s h hshort hlog hcmds => ?_, fun id j s hj hready hwhole hshort hlog hcmds => ?_, fun id j s h hlog hcmds => ?_⟩
  · obtain ⟨hfail, hdone⟩ := s.changesKey 0x36 id j hj hready hwhole hshort (Job.needs_change (Or.inl (State.noStep_op hready)))
      (by decide) hlog hcmds
    refine ⟨_, rfl, hfail, fun k hk hst hworn => ?_⟩
    obtain ⟨m, htack, -, hkeys, hcloses⟩ := hdone k hk rfl
    obtain ⟨g, hg⟩ := m.revokeKey_keys k (by rw [htack]; exact hworn)
    rw [htack] at hg
    exact ⟨⟨g, hkeys.trans ((congrArg (fun t : State => t.tack.keys) (m.changeKey_revoke _ _ hst)).trans hg)⟩, hcloses⟩
  · obtain ⟨hfail, hdone⟩ := s.changesKey 0x37 id j hj hready hwhole hshort
      (Job.needs_change (Or.inr (Or.inl (State.noStep_op hready)))) (by decide) hlog hcmds
    refine ⟨_, rfl, hfail, fun k hk => ?_⟩
    obtain ⟨m, htack, -, hkeys, hcloses⟩ := hdone k hk rfl
    have herase := m.eraseKey_keys k
    rw [htack] at herase
    exact ⟨hkeys.trans herase, hcloses⟩
  · obtain ⟨honly, hjob⟩ := s.fresh.endWith_facts 0x38 id true (fun _ _ => bare stOk) j h rfl
    rw [show j.ending true (bare stOk) = bare stOk from if_neg (ne_true_of_eq_false hshort)] at hjob
    have hop : opKeyCode j.op = 6 := by rw [Job.atEnd_op h.2.1]; decide
    obtain ⟨hfail, hdone⟩ := s.fresh.keyChange_facts _ id j 6 (bare stOk) honly hjob h.2.2 hop (by decide) hlog hcmds rfl rfl
    refine ⟨_, rfl, hfail, fun k hk hpass => ?_⟩
    obtain ⟨m, htack, -, hkeys, hcloses⟩ := hdone k hk hpass
    obtain ⟨g, hg⟩ := m.rewriteKey_keys k (rewriteSecret k j.drawNo)
    rw [htack] at hg
    exact ⟨⟨g, hkeys.trans ((congrArg (·.keys) (State.replicate_tack _ _)).trans hg)⟩, hcloses⟩
  · obtain ⟨hfail, hdone⟩ := s.changesKey 0x39 id j hj hready hwhole hshort
      (Job.needs_change (Or.inr (Or.inr (State.noStep_op hready)))) (by decide) hlog hcmds
    refine ⟨_, rfl, hfail, fun k hk hst => ?_⟩
    obtain ⟨m, htack, hnow, hkeys, hcloses⟩ := hdone k hk (s.changeCheck_drain hst)
    have hdrain := m.drainKey_keys k (ofLE j.data)
    rw [htack, hnow] at hdrain
    exact ⟨hkeys.trans hdrain, hcloses⟩
  · obtain ⟨honly, hjob⟩ := s.fresh.endWith_facts 0x34 id true State.exportEnd j h rfl
    have hop : j.op = 0x34 := Job.atEnd_op h.2.1
    obtain ⟨hfails, -, hpass⟩ := s.fresh.keyJob_facts _ id j _ honly hjob h.2.2 (by rw [hop]; decide) hlog hcmds
    obtain ⟨hfails', -⟩ := s.makesKey 0x34 id true State.exportEnd j h rfl (by decide) hlog hcmds rfl
    have hout : (j.ending true (s.exportEnd j)).st = stOk → s.jobCheck (j.ended (j.ending true (s.exportEnd j)) s.now) = 0 →
        ((s.fresh.endWith 0x34 id true State.exportEnd).askJob id).tack.keys = s.tack.keys ∧
        ∃ y, ((s.fresh.endWith 0x34 id true State.exportEnd).askJob id).job? id = some y ∧ y.status = some stOk ∧
          y.waitsLog = false ∧ y.completeAt = some (s.now + 1) ∧ y.dest = (s.exportEnd j).dest := by
      intro hst hcheck
      obtain ⟨m, htack, hnow, -, hm, happly⟩ := hpass hst (by rw [State.fresh_jobCheck]; exact hcheck)
      rw [show j.ending true (s.fresh.exportEnd j) = s.exportEnd j from Job.ending_ok hst] at hm
      obtain ⟨hkept, y, hy, hstatus, hwaits, hat, hdest, -⟩ := m.jobApply_export id _ hm (s.exportEnd_key j)
        (show opKeyCode j.op = 8 by rw [hop]; decide)
      rw [happly]
      refine ⟨(congrArg Tack.keys (hkept.trans htack) :), y, hy, ?_, hwaits, by rw [hat, hnow]; rfl, hdest⟩
      rw [hstatus]
      exact congrArg some (by rw [← Job.ending_ok hst]; exact hst)
    refine ⟨_, rfl, hfails', ?_, fun hst hcheck => (hout hst hcheck).2⟩
    by_cases hst : (j.ending true (s.exportEnd j)).st = stOk
    · by_cases hcheck : s.jobCheck (j.ended (j.ending true (s.exportEnd j)) s.now) = 0
      · exact (hout hst hcheck).1
      · exact congrArg Tack.keys (hfails'.2 hst hcheck).1
    · exact congrArg Tack.keys (hfails'.1 hst).2

end Sys2Proof.Machine

/-! # Settled: push windows, rings and the flow of jobs (O52 to O54) -/

namespace Sys2Proof.Machine

open Sys2Proof

/-! ### The push window (O52) -/

/-- Serving the front end leaves a refusal as it stands: only accepted count, rings and slots of a paddock move. -/
theorem State.serveFront_pad {s : State} {p : Nat} {q : Pad} (h : s.pad? p = some q) :
    ∃ a r sl, s.serveFront.pad? p = some { q with accepted := a, ring := r, slots := sl } := by
  obtain ⟨a, r, sl, e, -⟩ := s.serveFront_front p q h
  exact ⟨a, r, sl, e⟩

/-- Settles O52: the window's write lands or is refused, and a seal hands its descriptor to the front end, which
    serving leaves in the queue when full and accepts when free. -/
theorem pushWindows : Obligations.PushWindows := by
  refine ⟨fun pad slot off data q s h hs hl => ?_, fun pad slot off data q s h hs hl => ?_⟩
  · obtain ⟨q', e, -, -, hbad, hseal, hput, -⟩ := s.fresh.pushWrite_facts pad slot off data q h
    exact ⟨_, congrArg Host.Outcome.next (if_pos ⟨hl, hs⟩), q', e, hbad, hseal, fun hw hn => hput hw hn hl⟩
  · obtain ⟨q', e, hid, hacc, hbad, hseal, -, hfull⟩ := s.fresh.pushWrite_facts pad slot off data q h
    obtain ⟨a, r, sl, e'⟩ := State.serveFront_pad e
    refine ⟨_, congrArg Host.Outcome.next (if_pos ⟨hl, hs⟩), _, e', hbad, fun hw hn => (hseal hw hn).1, fun hw hn => ?_⟩
    obtain ⟨hfmt, hgo⟩ := hfull hw hn hl
    refine ⟨fun hb => (hfmt hb).1, fun h63 hdw hact => ⟨fun hd => ?_, fun hd => ⟨fun h8 => ?_, fun h8 hf => ?_⟩⟩⟩
    · obtain ⟨hq, -, hc⟩ := (hgo h63 hdw hact).1 hd
      exact ⟨hq, hc⟩
    · exact (State.serveFront_full _ (by rw [hacc]; exact h8)).trans ((hgo h63 hdw hact).2 hd).2
    · have hone := ((hgo h63 hdw hact).2 hd).2
      rw [show s.fresh.pci.front = [] from hf, List.nil_append] at hone
      have hjob := State.serveFront_job _ _ q' (by rw [hacc]; exact h8) hone e
      rwa [hid] at hjob

/-! ### Rings and doorbells (O53) -/

/-- Disabling an open paddock's ring clears its enable bit and idles it where nothing is outstanding. -/
theorem State.disableRing_ring {s : State} {p : Nat} (r : Nat) {q : Pad} (h : s.openPad p = some q) :
    (s.disableRing p r).pad? p =
      some { q with ring := updAt q.ring r (fun x => ({ x with enable := false } : Ring).idleOff) } := by
  obtain ⟨-, hq, -⟩ := State.openPad_facts h
  unfold State.disableRing
  rw [h]
  exact s.modRing_ring p r _ q hq

theorem Ring.idleOff_disabled (x : Ring) :
    (({ x with enable := false } : Ring).idleOff).enable = false ∧
    (x.outstanding = 0 → (({ x with enable := false } : Ring).idleOff).active = false) ∧
    (x.outstanding ≠ 0 → (({ x with enable := false } : Ring).idleOff).active = x.active) := by
  by_cases h : x.outstanding = 0
  · have e : ({ x with enable := false } : Ring).idleOff = { x with enable := false, active := false } := if_pos ⟨rfl, h⟩
    rw [e]
    exact ⟨rfl, fun _ => rfl, fun hn => absurd h hn⟩
  · have e : ({ x with enable := false } : Ring).idleOff = { x with enable := false } := if_neg (fun k => h k.2)
    rw [e]
    exact ⟨rfl, fun hn => absurd hn h, fun _ => rfl⟩

/-- Settles O53: each doorbell is the model's function of it; a fetch hands its descriptors to the front end, which
    serving leaves in order when full and accepts when free. -/
theorem submissionRings : Obligations.SubmissionRings := by
  refine ⟨fun pad ring v q x s h hr hx => ?_, fun pad ring v q x n s h hr hx hq ho ha he hn hv hn2 hn3 => ?_,
    fun pad ring v q x s h hr hx ha => ?_, fun pad ring q x s h hr hx => ?_, fun pad ring q x s h hr hx => ?_,
    fun tag r n data x s hf hw => ?_⟩
  · exact ⟨_, congrArg Host.Outcome.next (if_pos hr), s.fresh.writeTail_facts pad ring v q x h hx⟩
  · exact ⟨_, congrArg Host.Outcome.next (if_pos hr),
      s.fresh.writeTail_fetch pad ring v q x h hq hr ho hx ha he hn hv n hn2 hn3⟩
  · exact ⟨_, congrArg Host.Outcome.next (if_pos hr), s.fresh.writeHead_facts pad ring v q x h hx ha⟩
  · exact ⟨_, congrArg Host.Outcome.next (if_pos hr), s.fresh.enableRing_facts pad ring q x h hx⟩
  · refine ⟨_, congrArg Host.Outcome.next (if_pos hr), _, _, State.disableRing_ring (s := s.fresh) ring h, ?_,
      x.idleOff_disabled⟩
    exact (updAt_get _ _ _ _).trans ((if_pos rfl).trans (congrArg (Option.map _) hx))
  · obtain ⟨hacc, hid, hgood, hbad⟩ := s.fresh.fetchDone_facts tag data x r n hf hw
    refine ⟨_, rfl, fun d hd hl h8 => ?_, fun d q hd hl hn h8 hfr hq => ?_, fun hd q y hq hy => ?_⟩
    · exact (State.serveFront_full _ (by rw [hacc]; exact h8)).trans (hgood d hd hl).2
    · obtain ⟨hpads, hfront⟩ := hgood d hd (by omega)
      rw [show s.fresh.pci.front = [] from hfr, List.nil_append, chunks_one d hl] at hfront
      have hjob := State.serveFront_job _ _ q (by rw [hacc]; exact h8) hfront ((State.pad_of_pads hpads _).trans hq)
      rwa [hid] at hjob
    · obtain ⟨q', y', hp, hr', herr, hatn⟩ := hbad hd q y hq hy
      obtain ⟨a, rs, sl, hs, hk⟩ := State.serveFront_front _ _ _ hp
      obtain ⟨z, hz, hze⟩ := hk _ _ hr'
      exact ⟨_, z, hs, hz, hze.trans herr, hatn⟩

/-! ### From source data to completion record (O54) -/

/-- A dispatch that leaves the device's own jobs sweeps nothing: the lane's change and the prefetch are the whole command. -/
theorem exec_jobDispatch_of_dispatched {s u : State} {lane : Nat} {h : Bytes} (hwork : s.core.op.working = true)
    (hlane : lane < 92) (hhold : s.sup.hold = false) (hu : s.fresh.dispatchLane lane (some h) = u)
    (hdev : u.devJobs = s.devJobs) : exec (.jobDispatch lane h) s = .next u.loadLanes := by
  refine congrArg Host.Outcome.next ((if_pos ⟨hwork, hlane, hhold⟩).trans ?_)
  show ((s.fresh.dispatchLane lane (some h)).sweepSteps s.devJobs).loadLanes = u.loadLanes
  rw [hu, State.sweepSteps_same u _ hdev]

theorem State.countJob_window (s : State) (j : Job) (w : Bool) : (s.countJob j).window w = s.window w := by
  have hrdw := State.countJob_only s j (List.Subset.refl _) (State.only_refl _ s) .rdw (by decide)
  have hrdwSc := State.countJob_only s j (List.Subset.refl _) (State.only_refl _ s) .rdwSc (by decide)
  cases w
  · exact hrdw
  · exact hrdwSc

/-- A window's job that ends without a fault leaves its register as the completion sets it. -/
theorem State.complete_window {s : State} {j : Job} {w : Bool} (hsrc : j.src = .window w)
    (hfault : j.status ≠ some stFaultDetected) :
    (s.complete j).window w = { s.window w with
      st := 3, job := none, code := j.status.getD 0,
      result := if j.status = some stOk ∧ (s.window w).compare = false then fit 64 j.dest else zeros 64 } := by
  have hbad : s.faultyLanes j = [] := if_pos hfault
  unfold State.complete
  dsimp only
  rw [hsrc, hbad]
  refine (State.modWindow_window (s.countJob j) w _).trans ?_
  rw [State.countJob_window]
  simp only [Bool.not_eq_true']

/-- The job a whole source times out for is ready and short (R390). -/
theorem State.arrive_none {s : State} {id : Nat} {j : Job} (h : s.job? id = some j) (hw : j.src.whole = true) :
    ∃ y, (s.arrive id none).job? id = some y ∧ y.short = true ∧ y.ready = true ∧ y.readyAt = s.now := by
  obtain ⟨hshort, -⟩ := s.arrive_facts id none j h hw _ rfl [] rfl true rfl
  obtain ⟨y, hy, -, hs, hr, ha⟩ := hshort (.inl rfl)
  exact ⟨y, hy, hs, hr, ha⟩

theorem exec_jobComplete_of_due {s : State} {id : Nat} {j : Job} (hj : s.job? id = some j) (hdue : s.completes j = true) :
    exec (.jobComplete id) s = .next (s.fresh.complete j) := by
  change execJobComplete id s = _
  unfold execJobComplete
  dsimp only
  rw [show s.fresh.job? id = some j from hj]
  exact congrArg Host.Outcome.next (if_pos hdue)

theorem exec_completionTimeout_of_source {s : State} {tag id : Nat} {x : PciRead}
    (hquar : s.pci.quar.any (fun q => q.1 == tag) = false)
    (hread : s.pci.reads.find? (fun r => r.tag == tag && decide (r.at_ + s.cplTimeout ≤ s.now)) = some x)
    (hwhat : x.what = .source id) :
    exec (.completionTimeout tag) s = .next ((s.fresh.latch 23 5).arrive id none) := by
  have hold : ¬ s.pci.quar.any (fun q => q.1 == tag && decide (q.2 + s.cplTimeout ≤ s.now)) = true := by
    simp only [List.any_eq_true, not_exists, not_and, Bool.and_eq_true]
    intro q hq htag
    exact absurd hquar (by simp only [Bool.not_eq_false, List.any_eq_true]; exact ⟨q, hq, htag⟩)
  change execCompletionTimeout tag s = _
  unfold execCompletionTimeout
  dsimp only
  refine congrArg Host.Outcome.next ((if_neg hold).trans ?_)
  rw [show s.fresh.pci.reads.find? (fun r => r.tag == tag && decide (r.at_ + s.fresh.cplTimeout ≤ s.fresh.now)) = some x
    from hread]
  dsimp only
  rw [hwhat]

/-- Settles O54: arrival, dispatch, completion and the read timeouts, each by what its operation does. -/
theorem jobFlow : Obligations.JobFlow := by
  refine ⟨fun id want data short j s hj hwhole hread hwant hshort => ?_,
    fun lane h s hwork hlane hhold hidle => ?_,
    fun lane c g h j s hwork hlane hhold hidle hspent hentry hc hg hcheck hfree hold hsrc hbegun => ?_,
    fun id j q x s hj hdue hsrc hq hx => ?_, fun id j w s hj hdue hsrc hfault => ?_, fun tag s hquar => ?_,
    fun tag s hquar => ?_, fun tag id x j s hquar hread hwhat hj hwhole => ?_⟩
  · exact ⟨_, congrArg Host.Outcome.next (if_pos hread),
      s.fresh.arrive_facts id data j hj hwhole want hwant _ rfl short hshort⟩
  · exact exec_jobDispatch_of_dispatched hwork hlane hhold (s.fresh.dispatch_idle lane (some h) hidle) rfl
  · have hnames := s.fresh.dispatch_names lane g h j c hidle hspent hentry hc hg hcheck hfree hold
      (by unfold Job.needsHamper; rw [hsrc])
    rw [s.fresh.offer_first j lane h hsrc hbegun] at hnames
    cases hload : s.fresh.firstLoad j with
    | error e =>
      rw [hload] at hnames
      refine ⟨_, exec_jobDispatch_of_dispatched hwork hlane hhold hnames
        (State.failLoad_only s.fresh j lane e (List.Subset.refl _) (State.only_refl _ _) .devJobs (by decide)),
        fun e' he => ?_, fun u k load he => nomatch he⟩
      cases he; rfl
    | ok p =>
      obtain ⟨u, k, load⟩ := p
      rw [hload] at hnames
      have hu : u.devJobs = s.devJobs :=
        State.firstLoad_only hload (List.Subset.refl _) (State.only_refl _ s.fresh) .devJobs (by decide)
      refine ⟨_, exec_jobDispatch_of_dispatched hwork hlane hhold hnames
        ((State.onLane_only u k lane load (List.Subset.refl _) (State.only_refl _ _) .devJobs (by decide)).trans hu),
        (fun e' he => nomatch he), fun u' k' load' he => ?_⟩
      cases he; rfl
  · obtain ⟨hout, hjobs, hpad⟩ := s.fresh.complete_facts j q x hsrc hq hx
    exact ⟨_, exec_jobComplete_of_due hj hdue, hout, fun k hk => by rw [← State.job_id hj]; exact hjobs k hk, hpad⟩
  · have hw := State.complete_window (s := s.fresh) hsrc hfault
    exact ⟨_, exec_jobComplete_of_due hj hdue, by rw [hw], by rw [hw], by rw [hw]; rfl⟩
  · exact ⟨_, congrArg Host.Outcome.next (if_pos hquar), rfl, rfl, rfl⟩
  · exact ⟨_, congrArg Host.Outcome.next (if_pos hquar), rfl, rfl, rfl⟩
  · exact ⟨_, exec_completionTimeout_of_source hquar hread hwhat,
      State.arrive_none (s := s.fresh.latch 23 5) hj hwhole⟩

end Sys2Proof.Machine

/-! # Settled: paddock resets and the manager mailbox (O55, O56) -/

namespace Sys2Proof.Machine

open Sys2Proof

/-! ### Paddock and function resets (O55) -/

/-- A presence change resets each paddock it finds enabled and no longer present. -/
theorem State.presences_resets {l : List Nat} {p : Nat} {s : State} (hp : p ∈ l) (habsent : s.padPresent p = false) :
    s.resets (l.foldl (fun s n => s.presence n) s) p := fun q hq he =>
  (State.presences_facts l p q s hq).2.2 hp habsent he

/-- A presence change of other paddocks keeps a reset that stands. -/
theorem State.resets_presences {s m : State} {p : Nat} {l : List Nat} (h : s.resets m p) (hp : p ∉ l) :
    s.resets (l.foldl (fun s n => s.presence n) m) p :=
  State.resets_after (fun q hq _ => ⟨q.streams, ((State.presences_facts l p q m hq).1 (.inl hp)).1⟩)
    (State.presences_pgen l p m hp) h

/-- Clearing the function's MSI-X state touches neither paddocks nor generations. -/
theorem State.resets_msixResets {s m : State} {p : Nat} (l : List Nat) (h : s.resets m p) :
    s.resets (l.foldl (fun s n => s.msixReset n) m) p := by
  have hpads := State.msixResets_only l m .pads (by decide)
  have hpmem := State.msixResets_only l m .pmem (by decide)
  have hpad := State.pad_of_pads hpads p
  refine State.resets_after (fun q hq _ => ⟨q.streams, hpad.trans hq⟩) ?_ h
  unfold State.pgen
  rw [show (l.foldl (fun s n => s.msixReset n) m).pmem = m.pmem from hpmem]

/-- A write to the reset register of the PF's own paddock resets the host's digest window too. -/
theorem State.resetPads_pf {s : State} {q : Pad} (hq : s.pad? 0 = some q) (he : q.st = .enabled) :
    (s.resetPads [0]).rdw = rdwReset := by
  have hen : (match s.pad? 0 with | some q => q.st == .enabled | none => false) = true := by rw [hq]; simp [he]
  have hone : s.resetPads [0] = s.windowReset.resetPad 0 := congrArg (fun u : State => u.resetPad 0) (if_pos ⟨rfl, hen⟩)
  rw [hone]
  exact (State.resetPad_only _ 0 (List.Subset.refl _) (State.only_refl _ _) .rdw (by decide)).trans rfl

theorem exec_paddockResetWrite_settled {pad v : Nat} {q : Pad} {s : State} (h : s.openPad pad = some q) (hv : v % 2 = 1) :
    ∃ t, exec (.paddockResetWrite pad v) s = .next t ∧ s.resets t pad ∧ (pad = 0 → t.rdw = rdwReset) := by
  have hopen : (s.fresh.openPad pad).isSome = true := by rw [show s.fresh.openPad pad = some q from h]; rfl
  refine ⟨s.fresh.resetPads [pad], congrArg Host.Outcome.next (if_pos ⟨hv, hopen⟩),
    s.fresh.resetPads_resets [pad] pad (List.mem_cons_self ..), fun hp => ?_⟩
  obtain ⟨-, hq, he⟩ := State.openPad_facts h
  subst hp
  exact State.resetPads_pf hq he

theorem exec_vfFlr_settled {n : Nat} {s : State} (hlink : s.pwr.link = true) (h1 : 1 ≤ n) (h2 : n < 256)
    (hp : s.padPresent n = true) : ∃ t, exec (.vfFlr n) s = .next t ∧ s.resets t n ∧ (∀ f ∈ t.atn.msixEn, f ≠ n) ∧
      (∀ v ∈ t.atn.pend, v / 64 ≠ n) := by
  refine ⟨(s.fresh.resetPad n).msixReset n, congrArg Host.Outcome.next (if_pos ⟨hlink, h1, h2, hp⟩),
    State.resets_msixResets [n] (s.fresh.resetPad_resets n), fun f hf => ?_, fun v hv => ?_⟩
  · simpa using (List.mem_filter.1 hf).2
  · simpa using (List.mem_filter.1 hv).2

/-- Resetting the paddocks `k`, then withdrawing VF enable and taking the presence of the VFs `l`, resets the paddocks
    of both. -/
theorem State.resets_withoutVfs {m : State} {k l : List Nat} {p : Nat} (hdisj : p ∈ k → p ∉ l)
    (hcover : p ∉ k → p ∈ l ∧ p ≠ 0 ∧ p < 256) :
    m.resets (l.foldl (fun s n => s.presence n)
      ((m.resetPads k).modPci (fun c => { c with vfEnable := false, numVfs := 0 }))) p := by
  obtain ⟨u, hu⟩ : ∃ u, (m.resetPads k).modPci (fun c => { c with vfEnable := false, numVfs := 0 }) = u := ⟨_, rfl⟩
  have hpads : ∀ n, u.pad? n = (m.resetPads k).pad? n := fun n => by rw [← hu]; rfl
  have hgen : u.pgen p = (m.resetPads k).pgen p := by rw [← hu]; rfl
  rw [hu]
  by_cases hin : p ∈ k
  · have hres : m.resets (m.resetPads k) p := State.resetPads_resets m k p hin
    exact State.resets_presences
      (State.resets_after (fun q hq _ => ⟨q.streams, (hpads p).trans hq⟩) hgen hres) (hdisj hin)
  · obtain ⟨hl, h0, h256⟩ := hcover hin
    have habsent : u.padPresent p = false := by
      rw [← hu]; unfold State.padPresent; simp [State.modPci, h0, h256]
    refine State.resets_before (fun q hq => ?_) ?_ (hgen.trans (State.resetPads_pgen k p m hin))
      (State.presences_resets hl habsent)
    · obtain ⟨⟨g, hg⟩, -⟩ := (State.resetPads_facts k p m q hq).1 (.inr hin)
      exact ⟨g, (hpads p).trans hg⟩
    · rw [← hu]
      exact congrArg Core.tick (State.resetPads_only m k (List.Subset.refl _) (State.only_refl _ m) .core (by decide))

/-- A PF reset: the mailboxes and registers of the PF are at their reset values, the PF's and the PASID paddocks reset,
    and the VFs' with the presence that VF enable gave them. -/
theorem exec_pfFlr_settled {s : State} (hlink : s.pwr.link = true) : ∃ t, exec .pfFlr s = .next t ∧
    (∀ p, p < 288 → s.resets t p) ∧ t.pci.vfEnable = false ∧ t.pci.numVfs = 0 ∧ t.pci.mgrCmd = zeros 64 ∧
    t.pci.mgrResult = zeros 64 ∧ t.pci.mgrCode = 0 ∧ t.rdw = rdwReset ∧ t.core.scratch = 0 := by
  obtain ⟨m, hm⟩ : ∃ m, s.fresh.pfMailboxes.latch 23 10 = m := ⟨_, rfl⟩
  obtain ⟨hnow, hgen, hpads, hcmd, hres, hcode, hrdw, hscratch⟩ := State.pfMailboxes_facts s.fresh m 23 10 hm
  obtain ⟨k, l, hk, hl, hdisj, hcover⟩ : ∃ k l, 0 :: slicePads = k ∧ vfPads = l ∧ (∀ p, p ∈ k → p ∉ l) ∧
      (∀ p, p < 288 → p ∉ k → p ∈ l ∧ p ≠ 0 ∧ p < 256) := ⟨_, _, rfl, rfl, vf_not_slice, vf_mem⟩
  obtain ⟨u, hu⟩ : ∃ u, (m.resetPads k).modPci (fun c => { c with vfEnable := false, numVfs := 0 }) = u :=
    ⟨_, rfl⟩
  obtain ⟨t, ht⟩ : ∃ t, l.foldl (fun s n => s.presence n) u = t := ⟨_, rfl⟩
  have hexec : exec .pfFlr s = .next (t.msixReset 0) := by
    rw [← ht, ← hu, ← hm, ← hl, ← hk]
    exact congrArg Host.Outcome.next (if_neg (by rw [show s.fresh.pwr.link = true from hlink]; decide))
  have hpci := State.presences_pci l u
  have hrest := State.presences_only l u
  rw [ht] at hpci hrest
  have hupci : u.pci = { (m.resetPads k).pci with vfEnable := false, numVfs := 0 } := by rw [← hu]; rfl
  rw [hupci, State.resetPads_pci m] at hpci
  refine ⟨_, hexec, fun p hp => State.resets_msixResets [0] ?_, ?_⟩
  · refine State.resets_before (s := s) (m := m) (hpads p) hnow (hgen p) ?_
    rw [← ht, ← hu]
    exact State.resets_withoutVfs (hdisj p) (hcover p hp)
  · have hmsix : (t.msixReset 0).pci = t.pci := rfl
    have hut : t.rdw = rdwReset := (hrest .rdw (by decide)).trans (by rw [← hu]; exact State.resetPads_rdw m k hrdw)
    have huc : t.core.scratch = 0 := by
      rw [show t.core = u.core from hrest .core (by decide), ← hu]
      exact (congrArg Core.scratch
        (State.resetPads_only m k (List.Subset.refl _) (State.only_refl _ m) .core (by decide))).trans hscratch
    rw [hmsix, hpci]
    exact ⟨rfl, rfl, hcmd, hres, hcode, hut, huc⟩

/-- A hot reset resets every paddock and the PF's mailboxes and registers. -/
theorem exec_hotReset_settled {s : State} (hlink : s.pwr.link = true) : ∃ t, exec .hotReset s = .next t ∧
    (∀ p, p < 288 → s.resets t p) ∧ t.pci.mgrCmd = zeros 64 ∧ t.pci.mgrResult = zeros 64 ∧ t.pci.mgrCode = 0 ∧
    t.rdw = rdwReset ∧ t.core.scratch = 0 := by
  obtain ⟨m, hm⟩ : ∃ m, s.fresh.pfMailboxes.latch 23 11 = m := ⟨_, rfl⟩
  obtain ⟨hnow, hgen, hpads, hcmd, hres, hcode, hrdw, hscratch⟩ := State.pfMailboxes_facts s.fresh m 23 11 hm
  obtain ⟨k, hk, hall⟩ : ∃ k, 0 :: vfPads ++ slicePads = k ∧ ∀ p, p < 288 → p ∈ k := ⟨_, rfl, pad_mem⟩
  obtain ⟨l, hl⟩ : ∃ l, 0 :: vfPads = l := ⟨_, rfl⟩
  obtain ⟨u, hu⟩ : ∃ u, m.resetPads k = u := ⟨_, rfl⟩
  obtain ⟨t, ht⟩ : ∃ t, l.foldl (fun s n => s.msixReset n) u = t := ⟨_, rfl⟩
  have hexec : exec .hotReset s = .next t := by
    rw [← ht, ← hu, ← hm, ← hl, ← hk]
    exact congrArg Host.Outcome.next (if_pos hlink)
  have hrest := State.msixResets_only l u
  rw [ht] at hrest
  have hpci : t.pci = (m.resetPads k).pci := by rw [hu]; exact hrest .pci (by decide)
  have hut : t.rdw = rdwReset := (hrest .rdw (by decide)).trans (by rw [← hu]; exact State.resetPads_rdw m k hrdw)
  have huc : t.core.scratch = 0 := by
    rw [show t.core = u.core from hrest .core (by decide), ← hu]
    exact (congrArg Core.scratch
      (State.resetPads_only m _ (List.Subset.refl _) (State.only_refl _ m) .core (by decide))).trans hscratch
  refine ⟨t, hexec, fun p hp => ?_, ?_⟩
  · rw [← ht, ← hu]
    exact State.resets_msixResets l
      (State.resets_before (s := s) (m := m) (hpads p) hnow (hgen p) (State.resetPads_resets m k p (hall p hp)))
  · rw [hpci, State.resetPads_pci m k]
    exact ⟨hcmd, hres, hcode, hut, huc⟩

/-- A change of the presence of the paddocks `l`: those absent now reset, those present now and disabled are enabled. -/
theorem State.presences_change {s : State} {f : Pci → Pci} {g k : Nat} {l : List Nat} {u : State}
    (hu : (s.modPci f).latch g k = u) {p : Nat} (hp : p ∈ l) :
    (u.padPresent p = false → s.resets (l.foldl (fun s n => s.presence n) u) p) ∧
    (u.padPresent p = true → ∀ q, s.pad? p = some q → q.st = .disabled →
      (l.foldl (fun s n => s.presence n) u).pad? p = some { q with st := .enabled }) := by
  have hpad : u.pad? p = s.pad? p := by rw [← hu]; rfl
  refine ⟨fun habsent => ?_, fun hpresent q hq hd =>
    (State.presences_facts l p q u (hpad.trans hq)).2.1 hp hpresent hd⟩
  exact State.resets_before (fun q hq => ⟨q.streams, hpad.trans hq⟩) (by rw [← hu]; rfl) (by rw [← hu]; rfl)
    (State.presences_resets hp habsent)

theorem State.padPresent_vf {u : State} {p : Nat} (h1 : 1 ≤ p) (h2 : p ≤ 255) :
    u.padPresent p = (u.pci.vfEnable && decide (p ≤ u.pci.numVfs)) := by
  have h0 : (p == 0) = false := by simp; omega
  have h : p < 256 := by omega
  unfold State.padPresent
  rw [h0, if_pos h, Bool.false_or]

theorem State.padPresent_slice {u : State} {p : Nat} (h1 : 256 ≤ p) (h2 : p ≤ 287) : u.padPresent p = u.pci.pasid := by
  have h0 : (p == 0) = false := by simp; omega
  have h : ¬ p < 256 := by omega
  have h3 : decide (p < 288) = true := decide_eq_true (by omega)
  unfold State.padPresent
  rw [h0, if_neg h, h3, Bool.false_or, Bool.true_and]

theorem exec_vfEnableChange_settled {enable : Bool} {n : Nat} {s : State} (hlink : s.pwr.link = true) (hn : n ≤ 255)
    (hne : ¬ (s.pci.vfEnable = enable ∧ s.pci.numVfs = n)) : ∃ t, exec (.vfEnableChange enable n) s = .next t ∧
      t.pci.vfEnable = enable ∧ t.pci.numVfs = n ∧
      (∀ p, 1 ≤ p → p ≤ 255 → ¬ (enable = true ∧ p ≤ n) → s.resets t p) ∧
      (∀ p q, 1 ≤ p → p ≤ n → enable = true → s.pad? p = some q → q.st = .disabled →
        t.pad? p = some { q with st := .enabled }) := by
  obtain ⟨l, hl, hmem⟩ : ∃ l, vfPads = l ∧ ∀ p, 1 ≤ p → p ≤ 255 → p ∈ l := ⟨_, rfl, vf_mem2⟩
  obtain ⟨u, hu⟩ : ∃ u, (s.fresh.modPci (fun c => { c with vfEnable := enable, numVfs := n })).latch 23 12 = u := ⟨_, rfl⟩
  have hexec : exec (.vfEnableChange enable n) s = .next (l.foldl (fun s n => s.presence n) u) := by
    rw [← hu, ← hl]
    refine congrArg Host.Outcome.next (if_neg ?_)
    rw [show s.fresh.pwr.link = true from hlink]
    rintro (h | h | h)
    · exact absurd h (by decide)
    · omega
    · exact hne h
  have hen : u.pci.vfEnable = enable := by rw [← hu]; rfl
  have hnum : u.pci.numVfs = n := by rw [← hu]; rfl
  refine ⟨_, hexec, by rw [State.presences_pci]; exact hen, by rw [State.presences_pci]; exact hnum,
    fun p h1 h2 hnot => ?_, fun p q h1 h2 he hq hd => ?_⟩
  · refine (State.presences_change (s := s.fresh) hu (hmem p h1 h2)).1 ?_
    rw [State.padPresent_vf h1 h2, hen, hnum]
    simpa using hnot
  · refine (State.presences_change (s := s.fresh) hu (hmem p h1 (by omega))).2 ?_ q hq hd
    rw [State.padPresent_vf h1 (by omega), hen, hnum, he, decide_eq_true h2]; rfl

theorem exec_pasidEnableChange_settled {enable : Bool} {s : State} (hlink : s.pwr.link = true)
    (hne : s.pci.pasid ≠ enable) : ∃ t, exec (.pasidEnableChange enable) s = .next t ∧ t.pci.pasid = enable ∧
      (∀ p, 256 ≤ p → p ≤ 287 → enable = false → s.resets t p) ∧
      (∀ p q, 256 ≤ p → p ≤ 287 → enable = true → s.pad? p = some q → q.st = .disabled →
        t.pad? p = some { q with st := .enabled }) := by
  obtain ⟨l, hl, hmem⟩ : ∃ l, slicePads = l ∧ ∀ p, 256 ≤ p → p ≤ 287 → p ∈ l := ⟨_, rfl, slice_mem⟩
  obtain ⟨u, hu⟩ : ∃ u, (s.fresh.modPci (fun c => { c with pasid := enable })).latch 23 13 = u := ⟨_, rfl⟩
  have hexec : exec (.pasidEnableChange enable) s = .next (l.foldl (fun s n => s.presence n) u) := by
    rw [← hu, ← hl]
    refine congrArg Host.Outcome.next (if_neg ?_)
    rw [show s.fresh.pwr.link = true from hlink]
    rintro (h | h)
    · exact absurd h (by decide)
    · exact hne h
  have hen : u.pci.pasid = enable := by rw [← hu]; rfl
  have hpresent : ∀ p, 256 ≤ p → p ≤ 287 → u.padPresent p = enable := fun p h1 h2 =>
    (State.padPresent_slice h1 h2).trans hen
  refine ⟨_, hexec, by rw [State.presences_pci]; exact hen, fun p h1 h2 he => ?_, fun p q h1 h2 he hq hd => ?_⟩
  · exact (State.presences_change (s := s.fresh) hu (hmem p h1 h2)).1 ((hpresent p h1 h2).trans he)
  · exact (State.presences_change (s := s.fresh) hu (hmem p h1 h2)).2 ((hpresent p h1 h2).trans he) q hq hd

/-- Settles O55: each reset is the reset of the paddocks it names, or of those whose presence it takes. -/
theorem functionResets : Obligations.FunctionResets :=
  ⟨fun _ _ _ _ h hv => exec_paddockResetWrite_settled h hv,
    fun _ _ hlink h1 h2 hp => exec_vfFlr_settled hlink h1 h2 hp,
    fun _ hlink => exec_pfFlr_settled hlink,
    fun _ hlink => exec_hotReset_settled hlink,
    fun _ _ _ hlink hn hne => exec_vfEnableChange_settled hlink hn hne,
    fun _ _ hlink hne => exec_pasidEnableChange_settled hlink hne,
    fun pad r q s hq hr hst hlt hz => ⟨_, rfl, s.fresh.resetDone_facts pad r q hq hr hst hlt hz⟩⟩

/-! ### The manager mailbox (O56) -/

theorem State.modPad_self {s : State} {p : Nat} {q : Pad} {f : Pad → Pad} (hf : ∀ x, (f x).num = x.num)
    (h : s.pad? p = some q) : (s.modPad p f).pad? p = some (f q) := by
  rw [State.modPad_pad s p f hf, if_pos rfl, h]; rfl

theorem State.modPad_some {s : State} {p : Nat} {q' : Pad} {f : Pad → Pad} (h : (s.modPad p f).pad? p = some q')
    (hf : ∀ x, (f x).num = x.num) : ∃ q, s.pad? p = some q ∧ f q = q' := by
  rwa [State.modPad_pad s p f hf, if_pos rfl, Option.map_eq_some_iff] at h

theorem State.modPad_elsewhere {s : State} {p k : Nat} {f : Pad → Pad} (hf : ∀ x, (f x).num = x.num) (hk : k ≠ p) :
    (s.modPad p f).pad? k = s.pad? k := by
  rw [State.modPad_pad s p f hf, if_neg hk]

/-- The result of a command is written without a change of any paddock. -/
theorem State.mgrEnd_pad (s : State) (w : Nat) (b : Bytes) (p : Nat) : (s.mgrEnd w b).pad? p = s.pad? p :=
  State.pad_of_pads (s.mgrEnd_pads w b).1 p

/-- Waiting for the end of a reset, and a mark to destroy, keep the reset. -/
theorem State.resets_marked {s m : State} {p : Nat} {f : Pad → Pad}
    (hf : ∀ q, ∃ d ws, f q = { q with destroy := d, mgrWaits := ws }) (h : s.resets m p) : s.resets (m.modPad p f) p := by
  intro q hq he
  obtain ⟨q', hq', hr, hg⟩ := h q hq he
  obtain ⟨d, ws, e⟩ := hf q'
  refine ⟨f q', State.modPad_self (fun x => by obtain ⟨_, _, e⟩ := hf x; rw [e]) hq', ?_, hg⟩
  rw [e]; exact hr

theorem exec_managerRow {code : Nat} {v : Via} {cmd : Bytes} {s : State} (h1 : 1 ≤ code) (h8 : code ≤ 8) :
    exec (managerRow code v cmd) s = .next (s.fresh.manage v code cmd) := by
  interval_cases code <;> rfl

/-- What DESTROY erases first touches neither paddocks, generations nor what the host reads. -/
theorem State.eraseOwned_dropHamper_only (u : State) (p : Nat) :
    u.only [.tack, .devJobs, .nextJob, .cas] ((u.eraseOwned p).dropHamper p) :=
  State.dropHamper_only _ p (by decide) (State.eraseOwned_only u p (by decide) (State.only_refl _ u))

theorem State.mem_eraseOwned_dropHamper {u : State} {p : Nat} :
    ∀ k ∈ ((u.eraseOwned p).dropHamper p).tack.keys, k ∈ u.tack.keys ∧ (k.owner = p → k.world.getLsbD 0 = true) :=
  fun k hk => u.eraseOwned_keys p k ((State.dropHamper_keys (u.eraseOwned p) p).2.1 k hk)

theorem State.ite_tack {b : Prop} [Decidable b] {x y z : State} (hx : x.tack = z.tack) (hy : y.tack = z.tack) :
    (if b then x else y).tack = z.tack := by
  split
  · exact hx
  · exact hy

/-- CREATE once its checks passed: the new paddock stands in its place, and its result is written. -/
theorem State.mgrApply_create_facts (u : State) {c : Bytes} (w : Nat) (hcode : u8 c 0 = 1) : ∃ z : State,
    z.pci = u.pci ∧ z.dict = u.dict ∧
    z.pads = insertPad { configOf (padFresh (uLE c 2 2)) c with pasid := uLE c 20 4 } u.pads ∧
    u.mgrApply c w = z.mgrEnd w (z.mgrResult (uLE c 2 2) stOk) := by
  obtain ⟨m, hm⟩ : ∃ m, u.modPads (insertPad { configOf (padFresh (uLE c 2 2)) c with pasid := uLE c 20 4 }) = m := ⟨_, rfl⟩
  have happ := u.mgrApply_create c w hcode
  rw [hm] at happ
  have hrest := State.deriveHamper_only m (uLE c 2 2) (List.Subset.refl _) (State.only_refl _ m)
  refine ⟨_, (hrest .pci (by decide)).trans ?_, (hrest .dict (by decide)).trans ?_, (hrest .pads (by decide)).trans ?_,
    happ⟩
  all_goals rw [← hm]; rfl

/-- MODIFY once its checks passed: the paddock has its new configuration, and its result is written. -/
theorem State.mgrApply_modify_facts (u : State) {c : Bytes} (w : Nat) (hcode : u8 c 0 = 2) : ∃ z : State,
    z.pci = u.pci ∧ z.dict = u.dict ∧ z.pads = (u.modPad (uLE c 2 2) (fun q => configOf q c)).pads ∧
    u.mgrApply c w = z.mgrEnd w (z.mgrResult (uLE c 2 2) stOk) := by
  obtain ⟨m, hm⟩ : ∃ m, u.modPad (uLE c 2 2) (fun q => configOf q c) = m := ⟨_, rfl⟩
  have happ := u.mgrApply_modify c w hcode
  rw [hm] at happ ⊢
  have hrest := State.overQuota_only m (uLE c 2 2) (List.Subset.refl _) (State.only_refl _ m)
  refine ⟨_, (hrest .pci (by decide)).trans ?_, (hrest .dict (by decide)).trans ?_, hrest .pads (by decide), happ⟩
  all_goals rw [← hm]; rfl

/-- DESTROY once its checks passed: the paddock's own keys are gone; an enabled paddock resets, marked and awaited, and
    a disabled one is removed at once. -/
theorem State.mgrApply_destroy_facts (u : State) {c : Bytes} (w : Nat) (hcode : u8 c 0 = 4) :
    (∀ k ∈ (u.mgrApply c w).tack.keys, k ∈ u.tack.keys ∧ (k.owner = uLE c 2 2 → k.world.getLsbD 0 = true)) ∧
    (∀ q, u.pad? (uLE c 2 2) = some q → q.st = .enabled → u.resets (u.mgrApply c w) (uLE c 2 2) ∧
      ∀ q', (u.mgrApply c w).pad? (uLE c 2 2) = some q' → q'.destroy = true ∧ w ∈ q'.mgrWaits) ∧
    (∀ q, u.pad? (uLE c 2 2) = some q → q.st = .disabled → ∃ z : State, z.pci = u.pci ∧ z.dict = u.dict ∧
      z.pads = u.pads.filter (fun x => x.num != uLE c 2 2) ∧
      u.mgrApply c w = z.mgrEnd w (z.mgrResult (uLE c 2 2) stOk)) := by
  have hrest := u.eraseOwned_dropHamper_only (uLE c 2 2)
  have hkeys := State.mem_eraseOwned_dropHamper (u := u) (p := uLE c 2 2)
  rw [u.mgrApply_destroy c w hcode]
  generalize hz : (u.eraseOwned (uLE c 2 2)).dropHamper (uLE c 2 2) = z at hrest hkeys ⊢
  have hpad : ∀ k, z.pad? k = u.pad? k := State.pad_of_pads (hrest .pads (by decide))
  refine ⟨?_, fun q hq he => ?_, fun q hq hd => ?_⟩
  · have hreset := State.resetPad_only z (uLE c 2 2) (List.Subset.refl _) (State.only_refl _ z) .tack (by decide)
    rw [State.ite_tack (z := z)]
    · exact hkeys
    · exact hreset
    · exact (State.mgrEnd_pads (z.dropPad (uLE c 2 2)) w _).2.1
  · rw [if_pos (by rw [hpad, hq]; simp [he])]
    refine ⟨State.resets_marked (fun q => ⟨true, q.mgrWaits ++ [w], rfl⟩) ?_, fun q' hq' => ?_⟩
    · refine State.resets_before (m := z) (fun q h => ⟨q.streams, (hpad _).trans h⟩) ?_ ?_ (z.resetPad_resets _)
      · exact congrArg Core.tick (hrest .core (by decide))
      · unfold State.pgen
        rw [show z.pmem = u.pmem from hrest .pmem (by decide)]
    · obtain ⟨q0, -, rfl⟩ := State.modPad_some hq' (fun _ => rfl)
      exact ⟨rfl, List.mem_append_right _ (List.mem_cons_self ..)⟩
  · rw [if_neg (by rw [hpad, hq]; simp [hd])]
    exact ⟨z.dropPad (uLE c 2 2), hrest .pci (by decide), hrest .dict (by decide),
      congrArg (List.filter _) (hrest .pads (by decide)), rfl⟩

/-- Settles O56: an accepted command is the function of its code; a refused one leaves paddocks and keys alone. -/
theorem managerCommands : Obligations.ManagerCommands := by
  refine ⟨fun v cmd s hr ho hc => ?_, fun v cmd s hr ho hc => ?_, fun v cmd s hr ho hc => ?_,
    fun v cmd s hr ho hc => ?_, fun v cmd s hr ho hc => ?_, fun v cmd s hr ho hc => ?_, fun v cmd s hr ho hc => ?_,
    fun v cmd s hr ho hc => ?_, fun code v cmd s h1 h8 hr ho hc => ?_⟩
  · obtain ⟨u, w, hu, happ, hfin, -⟩ := s.manage_accepted v 1 cmd hr ho hc
    obtain ⟨z, hpci, hdict, hpads, happ'⟩ := u.mgrApply_create_facts w (mgrCommand_code 1 cmd (by decide))
    refine ⟨_, congrArg Host.Outcome.next (happ.trans happ'), ?_, (hfin z hpci hdict _).1⟩
    rw [(z.mgrEnd_pads _ _).1, hpads, hu.pads]
  · obtain ⟨u, w, hu, happ, hfin, -⟩ := s.manage_accepted v 2 cmd hr ho hc
    obtain ⟨z, hpci, hdict, hpads, happ'⟩ := u.mgrApply_modify_facts w (mgrCommand_code 2 cmd (by decide))
    have hpad := fun k => (z.mgrEnd_pad w (z.mgrResult (uLE (mgrCommand 2 cmd) 2 2) stOk) k).trans (State.pad_of_pads hpads k)
    refine ⟨_, congrArg Host.Outcome.next (happ.trans happ'), fun q h => (hpad _).trans ?_, fun k hk => (hpad k).trans ?_,
      (hfin z hpci hdict _).1⟩
    · exact State.modPad_self (f := fun q => configOf q (mgrCommand 2 cmd)) (fun _ => rfl) ((hu.pad _).trans h)
    · exact (State.modPad_elsewhere (f := fun q => configOf q (mgrCommand 2 cmd)) (fun _ => rfl) hk).trans (hu.pad k)
  · obtain ⟨u, w, hu, happ, -, hwait⟩ := s.manage_accepted v 3 cmd hr ho hc
    rw [State.mgrApply_reset _ _ _ (mgrCommand_code 3 cmd (by decide))] at happ
    refine ⟨_, congrArg Host.Outcome.next happ,
      hu.resets (State.resets_marked (fun q => ⟨q.destroy, q.mgrWaits ++ [w], rfl⟩)
        (u.resetPads_resets _ _ (List.mem_cons_self ..))), fun q hq => hwait q ?_⟩
    obtain ⟨q0, -, rfl⟩ := State.modPad_some hq (fun _ => rfl)
    exact List.mem_append_right _ (List.mem_cons_self ..)
  · obtain ⟨u, w, hu, happ, hfin, hwait⟩ := s.manage_accepted v 4 cmd hr ho hc
    obtain ⟨hkeys, hen, hdis⟩ := u.mgrApply_destroy_facts w (mgrCommand_code 4 cmd (by decide))
    refine ⟨_, congrArg Host.Outcome.next happ, by rw [← hu.tack]; exact hkeys, fun q hq he => ?_, fun q hq hd => ?_⟩
    · obtain ⟨hres, hmark⟩ := hen q ((hu.pad _).trans hq) he
      exact ⟨hu.resets hres, fun q' hq' => ⟨(hmark q' hq').1, hwait q' (hmark q' hq').2⟩⟩
    · obtain ⟨z, hpci, hdict, hpads, happ'⟩ := hdis q ((hu.pad _).trans hq) hd
      rw [happ']
      exact ⟨by rw [(z.mgrEnd_pads _ _).1, hpads, hu.pads], (hfin z hpci hdict _).1⟩
  · obtain ⟨u, w, hu, happ, hfin, -⟩ := s.manage_accepted v 5 cmd hr ho hc
    rw [State.mgrApply_query _ _ _ (mgrCommand_code 5 cmd (by decide))] at happ
    obtain ⟨hman, hres⟩ := hfin u rfl rfl (uLE (mgrCommand 5 cmd) 2 2)
    refine ⟨_, congrArg Host.Outcome.next happ, State.managed_of rfl rfl hman,
      fun hv => (hres hv).trans (hu.result _ _), fun q h => ?_⟩
    exact State.modPad_self (fun _ => rfl) ((State.mgrEnd_pad _ _ _ _).trans ((hu.pad _).trans h))
  · obtain ⟨u, w, hu, happ, hfin, -⟩ := s.manage_accepted v 6 cmd hr ho hc
    rw [State.mgrApply_start _ _ _ (mgrCommand_code 6 cmd (by decide))] at happ
    refine ⟨_, congrArg Host.Outcome.next happ, (hfin (u.modPad _ _) rfl rfl _).1, fun q h => ?_⟩
    rw [State.mgrEnd_pad]
    exact State.modPad_self (fun _ => rfl) ((hu.pad _).trans h)
  · obtain ⟨u, w, hu, happ, hfin, -⟩ := s.manage_accepted v 7 cmd hr ho hc
    rw [State.mgrApply_stop _ _ _ (mgrCommand_code 7 cmd (by decide))] at happ
    refine ⟨_, congrArg Host.Outcome.next happ, State.managed_of rfl rfl (hfin (u.modPad _ _) rfl rfl _).1, fun q h => ?_⟩
    refine (State.mgrEnd_pad _ _ _ _).trans ?_
    exact State.modPad_self (fun _ => rfl) ((hu.pad _).trans h)
  · obtain ⟨u, w, hu, happ, hfin, -⟩ := s.manage_accepted v 8 cmd hr ho hc
    rw [State.mgrApply_drain _ _ _ (mgrCommand_code 8 cmd (by decide))] at happ
    refine ⟨_, congrArg Host.Outcome.next happ, State.managed_of rfl rfl (hfin (u.modPad _ _) rfl rfl _).1, fun q l h hl => ?_⟩
    refine ⟨_, (State.mgrEnd_pad _ _ _ _).trans (State.modPad_self (fun _ => rfl) ((hu.pad _).trans h)), ?_⟩
    exact congrArg (Option.map _) hl
  · obtain ⟨hpads, htack, hman⟩ := s.manage_refused v code cmd hr ho hc
    exact ⟨_, exec_managerRow h1 h8, hpads, htack, hman⟩

end Sys2Proof.Machine

/-! # Settled: digest windows, attention and registers (O57 to O59) -/

namespace Sys2Proof.Machine

open Sys2Proof

/-! ### The Register Digest Windows (O57) -/

/-- START drops the open message's job and opens the window with what the write gives. -/
theorem State.windowStart_opened (s : State) (w : Bool) (ctrl : Nat) : ∃ m : State,
    m.window w = (s.window w).opened ctrl ∧ m.window (!w) = s.window (!w) ∧ m.core = s.core ∧
    s.windowStart w ctrl = (
      let refuse := fun (e : Nat) => m.modWindow w (fun r => { r with st := 0, code := e })
      if 2 ^ 32 < (m.window w).length then refuse stBadLength
      else if (m.window w).alg = 0 then refuse stBadFormat
      else if (m.window w).compare ∧ !(m.window w).expOk then refuse stBadLength
      else if (m.window w).length = 0 then m.windowEnd w
      else if 448 < (m.window w).length ∧ m.core.op ≠ .booting then m.windowJob w
      else m) := by
  obtain ⟨hw, hother, hcore⟩ := s.windowDrop_facts w
  refine ⟨_, ?_, (State.modWindow_other _ w _).trans hother, (State.modWindow_core _ w _).1.trans hcore, rfl⟩
  rw [State.modWindow_window, hw]
  rfl

/-- START on an open window with a message that is refused: idle, with the refusal's code. -/
theorem State.windowStart_refused {s : State} {w : Bool} {ctrl : Nat} (h : ((s.window w).opened ctrl).refusal ≠ 0) :
    (s.windowStart w ctrl).window w =
      { (s.window w).opened ctrl with st := 0, code := ((s.window w).opened ctrl).refusal } ∧
    (s.windowStart w ctrl).window (!w) = s.window (!w) := by
  obtain ⟨m, hm, hother, -, hstart⟩ := s.windowStart_opened w ctrl
  have hrefuse : ∀ e, (m.modWindow w (fun r => { r with st := 0, code := e })).window w =
      { (s.window w).opened ctrl with st := 0, code := e } ∧
      (m.modWindow w (fun r => { r with st := 0, code := e })).window (!w) = s.window (!w) := fun e =>
    ⟨by rw [State.modWindow_window, hm], by rw [State.modWindow_other, hother]⟩
  rw [hstart, hm]
  dsimp only
  generalize (s.window w).opened ctrl = r at h hrefuse ⊢
  unfold Rdw.refusal at h ⊢
  by_cases hlen : 2 ^ 32 < r.length
  · simp only [if_pos hlen]; exact hrefuse _
  by_cases halg : r.alg = 0
  · simp only [if_neg hlen, if_pos halg]; exact hrefuse _
  by_cases hexp : r.compare = true ∧ r.expOk = false
  · have hexp' : r.compare = true ∧ (!r.expOk) = true := ⟨hexp.1, by rw [hexp.2]; rfl⟩
    simp only [if_neg hlen, if_neg halg, if_pos hexp, if_pos hexp']; exact hrefuse _
  · simp only [if_neg hlen, if_neg halg, if_neg hexp] at h
    exact absurd rfl h

/-- START on an open window with a message that is accepted: opened, ended at once where empty, a job where long. -/
theorem State.windowStart_accepted {s : State} {w : Bool} {ctrl : Nat} (h : ((s.window w).opened ctrl).refusal = 0) :
    ∃ m : State, m.window w = (s.window w).opened ctrl ∧ m.window (!w) = s.window (!w) ∧ m.core = s.core ∧
      s.windowStart w ctrl = if (s.window w).length = 0 then m.windowEnd w
        else if 448 < (s.window w).length ∧ s.core.op ≠ .booting then m.windowJob w else m := by
  obtain ⟨m, hm, hother, hcore, hstart⟩ := s.windowStart_opened w ctrl
  obtain ⟨hlen, halg, hexp⟩ := Rdw.refusal_zero _ h
  have hexp' : ¬ (((s.window w).opened ctrl).compare = true ∧ (!((s.window w).opened ctrl).expOk) = true) := fun k =>
    hexp ⟨k.1, by simpa using k.2⟩
  refine ⟨m, hm, hother, hcore, hstart.trans ?_⟩
  rw [hm, hcore]
  exact (if_neg hlen).trans ((if_neg halg).trans (if_neg hexp'))

/-- The end of a message of a device past BOOTING, without a job of its own yet, is a job of the window. -/
theorem State.windowEnd_runs {s : State} {w : Bool} (hop : s.core.op ≠ .booting) (hjob : (s.window w).job = none) :
    (s.windowEnd w).windowRuns w (s.window w) ∧ (s.windowEnd w).window (!w) = s.window (!w) := by
  obtain ⟨m, hm⟩ : ∃ m, s.modWindow w (fun r => { r with st := 2 }) = m := ⟨_, rfl⟩
  have hmw : m.window w = { s.window w with st := 2 } := by rw [← hm]; exact State.modWindow_window s w _
  have hmo : m.window (!w) = s.window (!w) := by rw [← hm]; exact State.modWindow_other s w _
  have hmc : m.core = s.core := by rw [← hm]; exact (State.modWindow_core s w _).1
  have hend : s.windowEnd w = m.windowJob w := by
    unfold State.windowEnd
    dsimp only
    rw [hm, hmc, if_neg hop, hmw, hjob]
  obtain ⟨j, hw, hjobs, hsrc, hother, hjop, hlen, hdata⟩ := m.windowJob_facts w
  rw [hmw] at hw hjop hlen hdata
  rw [hend]
  exact ⟨⟨j, hw, by rw [hjobs]; exact List.mem_append_right _ (List.mem_cons_self ..), hsrc, hjop, hlen, hdata⟩,
    hother.trans hmo⟩

/-- In BOOTING a plain message ends at once with its digest. -/
theorem State.windowEnd_booting {s : State} {w : Bool} (hop : s.core.op = .booting) (hkeyed : (s.window w).keyed = false)
    (hcompare : (s.window w).compare = false) :
    (s.windowEnd w).window w = { s.window w with
      st := 3, code := stOk, result := fit 64 ((hashOfCode (s.window w).alg).run (s.window w).msg) } ∧
    (s.windowEnd w).window (!w) = s.window (!w) := by
  obtain ⟨m, hm⟩ : ∃ m, s.modWindow w (fun r => { r with st := 2 }) = m := ⟨_, rfl⟩
  have hmw : m.window w = { s.window w with st := 2 } := by rw [← hm]; exact State.modWindow_window s w _
  have hmo : m.window (!w) = s.window (!w) := by rw [← hm]; exact State.modWindow_other s w _
  have hmc : m.core = s.core := by rw [← hm]; exact (State.modWindow_core s w _).1
  unfold State.windowEnd
  dsimp only
  rw [hm, hmc, if_pos hop, State.modWindow_window, State.modWindow_other, hmw]
  simp [hkeyed, hcompare, hmo]

/-- A whole word reaches the window, with the half that waited spent. -/
theorem State.windowWord_completes {s : State} {w high : Bool} {b v : Bytes} (h : (s.window w).completes high b v) :
    ∃ m : State, s.windowWord w high b = (m, some v) ∧
      m.window w = { s.window w with half := if b.length < 8 then none else (s.window w).half } ∧
      m.window (!w) = s.window (!w) ∧ m.core = s.core := by
  unfold State.windowWord
  rcases h with ⟨hlen, rfl⟩ | ⟨hlen, rfl, rfl⟩
  · exact ⟨s, if_pos hlen, by rw [if_neg (by omega)], rfl, rfl⟩
  · refine ⟨_, (if_neg (by omega)).trans (if_pos rfl), ?_, State.modWindow_other s w _, (State.modWindow_core s w _).1⟩
    rw [State.modWindow_window, if_pos hlen]

/-- A whole word written as data: appended where the message takes it, a failure of the message otherwise. -/
theorem State.windowData_completes {s : State} {w high : Bool} {b v : Bytes} (h : (s.window w).completes high b v)
    (hst : (s.window w).st ≠ 0) : ∃ m : State,
      m.window w = { s.window w with half := if b.length < 8 then none else (s.window w).half } ∧
      m.window (!w) = s.window (!w) ∧
      s.windowData w high b = if (s.window w).st = 1 ∧ (s.window w).words < (s.window w).plain ∧ 8 ≤ (s.window w).free
        then m.modWindow w (fun r => { r with msg := r.msg ++ v, words := r.words + 1,
                                              free := if s.core.op = .booting then r.free else r.free - 8 })
        else m.windowFail w stLengthMismatch := by
  obtain ⟨m, hword, hm, hother, hcore⟩ := State.windowWord_completes h
  refine ⟨m, hm, hother, ?_⟩
  unfold State.windowData
  rw [if_neg hst, hword]
  dsimp only
  rw [hm, hcore]
  rfl

/-- The low half of a word waits for its high half. -/
theorem State.windowData_half {s : State} {w : Bool} {b : Bytes} (hst : (s.window w).st ≠ 0) (hlen : b.length < 8) :
    s.windowData w false b = s.modWindow w (fun r => { r with half := some (fit 4 b) }) := by
  have hword : s.windowWord w false b = (s.modWindow w (fun r => { r with half := some (fit 4 b) }), none) :=
    (if_neg (by omega)).trans (if_neg (by decide))
  unfold State.windowData
  rw [if_neg hst, hword]

/-- A whole word written as the last one: a failure of the message, or its end. -/
theorem State.windowLast_completes {s : State} {w high : Bool} {b v : Bytes} (h : (s.window w).completes high b v)
    (hst : (s.window w).st ≠ 0) : ∃ m : State,
      m.window w = { s.window w with half := if b.length < 8 then none else (s.window w).half } ∧
      m.window (!w) = s.window (!w) ∧ m.core = s.core ∧
      s.windowLast w high b = if (s.window w).st ≠ 1 ∨ (s.window w).free < 8 then m.windowFail w stLengthMismatch
        else if (s.window w).lastCount = 0 then m.windowFail w stBadLength
        else if 8 * (s.window w).words + (s.window w).lastCount ≠ (s.window w).length then
          m.windowFail w stLengthMismatch
        else (m.modWindow w (fun r => { r with msg := r.msg ++ v.take r.lastCount })).windowEnd w := by
  obtain ⟨m, hword, hm, hother, hcore⟩ := State.windowWord_completes h
  refine ⟨m, hm, hother, hcore, ?_⟩
  unfold State.windowLast
  rw [if_neg hst, hword]
  dsimp only
  rw [hm]

/-- A message that fails leaves the other window as it was. -/
theorem State.windowFail_failed {s m : State} {w : Bool} {r : Rdw} {code : Nat} (hm : m.window w = r)
    (hother : m.window (!w) = s.window (!w)) :
    (m.windowFail w code).window w = r.failed code ∧ (m.windowFail w code).window (!w) = s.window (!w) := by
  obtain ⟨hw, ho⟩ := m.windowFail_facts w code
  exact ⟨by rw [hw, hm]; rfl, ho.trans hother⟩

/-- The message that a right last word ends: its bytes appended, all else as it was. -/
theorem State.windowLast_ends {s : State} {w high : Bool} {b v : Bytes} (h : (s.window w).completes high b v)
    (hst : (s.window w).st = 1) (hfree : 8 ≤ (s.window w).free) (hcount : 1 ≤ (s.window w).lastCount)
    (hlen : 8 * (s.window w).words + (s.window w).lastCount = (s.window w).length) : ∃ m : State,
      m.window w = { s.window w with
        half := if b.length < 8 then none else (s.window w).half,
        msg := (s.window w).msg ++ v.take (s.window w).lastCount } ∧
      m.window (!w) = s.window (!w) ∧ m.core = s.core ∧ s.windowLast w high b = m.windowEnd w := by
  obtain ⟨m, hm, hother, hcore, hlast⟩ := State.windowLast_completes h (by omega)
  refine ⟨_, ?_, (State.modWindow_other m w _).trans hother, (State.modWindow_core m w _).1.trans hcore,
    hlast.trans ((if_neg (by omega)).trans ((if_neg (by omega)).trans (if_neg (by omega))))⟩
  rw [State.modWindow_window, hm]

/-- Settles O57: START, data, the last word, LASTCOUNT and RESULT of a window, each on its own window only. -/
theorem digestWindows : Obligations.DigestWindows := by
  refine ⟨fun w ctrl s h href => ?_, fun w ctrl s h href h1 hshort => ?_, fun w ctrl s h href hlong hop => ?_,
    fun w ctrl s h href h0 hop => ?_, fun w ctrl s h href h0 hop hk hc => ?_, fun w ctrl s h => ?_,
    fun w b s h hst hlen => ?_, fun w high b v s h hcompl hst hw hf => ?_, fun w high b v s h hcompl hst hno => ?_,
    fun w high b v s h hcompl hst hf hc hlen hop hjob => ?_, fun w high b v s h hcompl hst hf hc hlen hop hk hcmp => ?_,
    fun w high b v s h hcompl hst hbad => ?_, fun w high b v s h hcompl hst hf hc => ?_, fun w n s h => ?_,
    fun w n s h => ?_⟩
  · exact ⟨_, congrArg Host.Outcome.next (if_pos h), State.windowStart_refused (s := s.fresh) href⟩
  · obtain ⟨m, hm, hother, -, hstart⟩ := State.windowStart_accepted (s := s.fresh) href
    have hno : ¬ (448 < (s.window w).length ∧ s.core.op ≠ .booting) := fun k => hshort.elim (by omega) k.2
    have hrun := hstart.trans ((if_neg (by show ¬ (s.window w).length = 0; omega)).trans (if_neg hno))
    exact ⟨_, congrArg Host.Outcome.next ((if_pos h).trans hrun), hm, hother⟩
  · obtain ⟨m, hm, hother, -, hstart⟩ := State.windowStart_accepted (s := s.fresh) href
    have hrun := hstart.trans ((if_neg (by show ¬ (s.window w).length = 0; omega)).trans (if_pos ⟨hlong, hop⟩))
    obtain ⟨j, hw, hjobs, hsrc, hj, -⟩ := m.windowJob_facts w
    exact ⟨_, congrArg Host.Outcome.next ((if_pos h).trans hrun),
      ⟨j, by rw [hw, hm]; rfl, by rw [hjobs]; exact List.mem_append_right _ (List.mem_cons_self ..), hsrc⟩, hj.trans hother⟩
  · obtain ⟨m, hm, hother, hcore, hstart⟩ := State.windowStart_accepted (s := s.fresh) href
    obtain ⟨hruns, ho⟩ := State.windowEnd_runs (s := m) (w := w) (by rw [hcore]; exact hop) (by rw [hm]; rfl)
    rw [hm] at hruns
    exact ⟨_, congrArg Host.Outcome.next ((if_pos h).trans (hstart.trans (if_pos h0))), hruns, ho.trans hother⟩
  · obtain ⟨m, hm, hother, hcore, hstart⟩ := State.windowStart_accepted (s := s.fresh) href
    obtain ⟨hend, ho⟩ := State.windowEnd_booting (s := m) (w := w) (by rw [hcore]; exact hop) (by rw [hm]; exact hk)
      (by rw [hm]; exact hc)
    rw [hm] at hend
    exact ⟨_, congrArg Host.Outcome.next ((if_pos h).trans (hstart.trans (if_pos h0))), hend, ho.trans hother⟩
  · obtain ⟨hw, hother, -⟩ := s.fresh.windowDrop_facts w
    refine ⟨_, congrArg Host.Outcome.next (if_pos h), ?_, (State.modWindow_other _ w _).trans hother⟩
    rw [State.modWindow_window, hw]; rfl
  · refine ⟨_, congrArg Host.Outcome.next ((if_pos h).trans (State.windowData_half (s := s.fresh) hst hlen)), ?_,
      State.modWindow_other _ w _⟩
    rw [State.modWindow_window]; rfl
  · obtain ⟨m, hm, hother, hdata⟩ := State.windowData_completes (s := s.fresh) hcompl
      (show (s.window w).st ≠ 0 by omega)
    refine ⟨_, congrArg Host.Outcome.next ((if_pos h).trans (hdata.trans (if_pos ⟨hst, hw, hf⟩))), ?_,
      (State.modWindow_other m w _).trans hother⟩
    rw [State.modWindow_window, hm]; rfl
  · obtain ⟨m, hm, hother, hdata⟩ := State.windowData_completes (s := s.fresh) hcompl hst
    exact ⟨_, congrArg Host.Outcome.next ((if_pos h).trans (hdata.trans (if_neg hno))),
      State.windowFail_failed (s := s.fresh) hm hother⟩
  · obtain ⟨m, hm, hother, hcore, hlast⟩ := State.windowLast_ends (s := s.fresh) hcompl hst hf hc hlen
    obtain ⟨hruns, ho⟩ := State.windowEnd_runs (s := m) (w := w) (by rw [hcore]; exact hop) (by rw [hm]; exact hjob)
    rw [hm] at hruns
    exact ⟨_, congrArg Host.Outcome.next ((if_pos h).trans hlast), hruns, ho.trans hother⟩
  · obtain ⟨m, hm, hother, hcore, hlast⟩ := State.windowLast_ends (s := s.fresh) hcompl hst hf hc hlen
    obtain ⟨hend, ho⟩ := State.windowEnd_booting (s := m) (w := w) (by rw [hcore]; exact hop) (by rw [hm]; exact hk)
      (by rw [hm]; exact hcmp)
    rw [hm] at hend
    exact ⟨_, congrArg Host.Outcome.next ((if_pos h).trans hlast), by rw [hend], by rw [hend], by rw [hend]; rfl,
      ho.trans hother⟩
  · obtain ⟨m, hm, hother, -, hlast⟩ := State.windowLast_completes (s := s.fresh) hcompl hst
    have hfail : s.fresh.windowLast w high b = m.windowFail w stLengthMismatch := by
      rw [hlast]
      by_cases hfirst : (s.window w).st ≠ 1 ∨ (s.window w).free < 8
      · exact if_pos hfirst
      · obtain ⟨hc, hne⟩ : (s.window w).lastCount ≠ 0 ∧
            8 * (s.window w).words + (s.window w).lastCount ≠ (s.window w).length := by
          rcases hbad with k | k | k
          · exact absurd (.inl k) hfirst
          · exact absurd (.inr k) hfirst
          · exact k
        exact (if_neg hfirst).trans ((if_neg hc).trans (if_pos hne))
    exact ⟨_, congrArg Host.Outcome.next ((if_pos h).trans hfail), State.windowFail_failed (s := s.fresh) hm hother⟩
  · obtain ⟨m, hm, hother, -, hlast⟩ := State.windowLast_completes (s := s.fresh) hcompl
      (show (s.window w).st ≠ 0 by omega)
    have hfirst : ¬ ((s.window w).st ≠ 1 ∨ (s.window w).free < 8) := by omega
    exact ⟨_, congrArg Host.Outcome.next ((if_pos h).trans (hlast.trans ((if_neg hfirst).trans (if_pos hc)))),
      State.windowFail_failed (s := s.fresh) hm hother⟩
  · refine ⟨_, congrArg Host.Outcome.next (if_pos h), fun h1 h8 => ?_, fun hbad => ?_, State.modWindow_other _ w _⟩
    · exact (State.modWindow_window _ w _).trans (if_pos ⟨h1, h8⟩)
    · exact (State.modWindow_window _ w _).trans (if_neg (by omega))
  · have hopen : ¬ (!s.windowOpen w) = true := by rw [h]; decide
    by_cases hst : (s.window w).st = 3
    · exact ⟨_, congrArg Host.Outcome.next ((if_neg hopen).trans (if_pos hst)), fun _ => ⟨rfl, rfl⟩,
        fun hn => absurd hst hn, rfl⟩
    · refine ⟨_, congrArg Host.Outcome.next ((if_neg hopen).trans (if_neg hst)), fun hn => absurd hn hst,
        fun _ => ⟨?_, ?_⟩, ?_⟩
      · cases w <;> rfl
      · exact State.modWindow_window s.fresh w _
      · exact State.modWindow_other s.fresh w _

/-! ### Attention, MSI-X and the Logbook's next entry (O58) -/

theorem exec_frameCtLoRead_settled {s : State} (h : s.pwr.link = true) : ∃ t, exec .frameCtLoRead s = .next t ∧
    t.out = [.read (s.core.frameCt % 2 ^ 32)] ∧
    t.core = { s.core with frameHi := BitVec.ofNat 32 (s.core.frameCt / 2 ^ 32) } :=
  ⟨_, congrArg Host.Outcome.next (if_pos h), rfl, rfl⟩

/-- Bits are cleared where they are set in the mask. -/
theorem clearBits_getLsbD {n : Nat} (m c : BitVec n) (b : Nat) :
    (clearBits m c).getLsbD b = (m.getLsbD b && !c.getLsbD b) := by
  unfold clearBits
  rw [BitVec.getLsbD_and, BitVec.getLsbD_not]
  by_cases h : b < n
  · rw [decide_eq_true h, Bool.true_and]
  · rw [BitVec.getLsbD_of_ge m b (by omega), Bool.false_and, Bool.false_and]

/-- A clear of group `g` takes exactly the written bits that are not fresh. -/
theorem State.clearLeaves_getLsbD (s : State) (g : Nat) (m : BitVec 16) (k b : Nat) :
    ((s.clearLeaves g m).atn.cause.getD k 0).getLsbD b =
      if k = g ∧ m.getLsbD b = true ∧ (s.atn.fresh.getD k 0).getLsbD b = false then false
      else (s.atn.cause.getD k 0).getLsbD b := by
  show ((updAt s.atn.cause g _).getD k 0).getLsbD b = _
  rw [updAt_getD]
  by_cases hk : k = g
  · subst hk
    by_cases hlen : k < s.atn.cause.length
    · rw [if_pos ⟨rfl, hlen⟩, clearBits_getLsbD, clearBits_getLsbD]
      cases m.getLsbD b <;> cases (s.atn.fresh.getD k 0).getLsbD b <;> simp
    · have hzero : s.atn.cause.getD k 0 = 0 := List.getD_eq_default _ _ (by omega)
      rw [if_neg (fun h => hlen h.2), hzero]
      simp
  · rw [if_neg (fun h => hk h.1), if_neg (fun h => hk h.1)]

/-- The vector's table entry, unmasked: its function's MSI-X is enabled, and what was pending for it goes out. -/
theorem exec_vectorUnmask_settled {fn vec : Nat} {s : State} (hlink : s.pwr.link = true) (hfn : fn < 256)
    (hvec : vec ≤ (if fn = 0 then 33 else 0)) : ∃ t, exec (.vectorUnmask fn vec) s = .next t ∧
      (t.atn.msixEn.contains fn = true) ∧ (t.out = if s.atn.pend.contains (64 * fn + vec) then [.msix fn vec] else []) ∧
      (∀ k, k ∈ t.atn.pend ↔ k ∈ s.atn.pend ∧ k ≠ 64 * fn + vec) ∧ t.atn.cause = s.atn.cause := by
  have hgo : ¬ ((!s.pwr.link) = true ∨ 255 < fn ∨ (if fn = 0 then 33 else 0) < vec) := by
    rw [hlink]; simp only [Bool.not_true, Bool.false_eq_true, false_or]; omega
  have hen : (if s.atn.msixEn.contains fn then s.atn.msixEn else s.atn.msixEn ++ [fn]).contains fn = true := by
    split
    · assumption
    · simp
  by_cases hpend : s.atn.pend.contains (64 * fn + vec) = true
  · exact ⟨_, congrArg Host.Outcome.next ((if_neg hgo).trans (if_pos hpend)), hen, (if_pos hpend).symm,
      fun k => List.mem_filter.trans (and_congr_right fun _ => bne_iff_ne), rfl⟩
  · refine ⟨_, congrArg Host.Outcome.next ((if_neg hgo).trans (if_neg hpend)), hen, (if_neg hpend).symm, fun k => ?_, rfl⟩
    have hnot : 64 * fn + vec ∉ s.atn.pend := fun h => hpend (List.contains_iff_mem.2 h)
    exact ⟨fun h => ⟨h, fun e => hnot (e ▸ h)⟩, fun h => h.1⟩

/-- Settles O58: each register's read or write, and the one due entry that the Logbook's writer takes. -/
theorem attentionCommands : Obligations.AttentionCommands := by
  refine ⟨fun s h => exec_frameCtLoRead_settled h, fun g v s h hg => ?_, fun g v s h hg => ?_, fun s h => ?_,
    fun fn vec s h hfn hvec => exec_vectorUnmask_settled h hfn hvec, fun d s hb hw hu hst hr hd he hm hp => ?_⟩
  · exact ⟨_, congrArg Host.Outcome.next (if_pos ⟨h, hg⟩), s.fresh.clearLeaves_getLsbD g _, rfl, rfl⟩
  · exact ⟨_, congrArg Host.Outcome.next (if_pos ⟨h, hg⟩), rfl, rfl, rfl, _, rfl, rfl, rfl⟩
  · exact ⟨_, congrArg Host.Outcome.next (if_pos h), rfl, rfl⟩
  · have hone : s.fresh.log.due.length + 1 = 2 := by rw [show s.fresh.log.due = [d] from hd]; rfl
    refine ⟨State.writeDue 2 s.fresh, ?_, s.fresh.writeDue_event d hb hw hu hst hr hd he hm hp⟩
    exact congrArg (fun n => Host.Outcome.next (State.writeDue n s.fresh)) hone

/-! ### Register writes (O59) -/

/-- A 4-byte write to a register of the PF outside the paddock pages. -/
theorem exec_registerWrite_pf {s : State} {off : Nat} {d : Bytes} (hlink : s.pwr.link = true) (hd : d.length = 4)
    (h4 : off % 4 = 0) (hoff : off < 0x100000) : exec (.registerWrite 0 off d) s = .next (s.fresh.writePf off d) :=
  congrArg Host.Outcome.next (s.fresh.barWrite_pf off d hlink hd h4 hoff)

theorem State.writePf_block3 {s : State} {o : Nat} {d : Bytes} (ho : o < 0x40) :
    s.writePf (0x30000 + o) d = s.modPci (fun c => { c with mgrCmd := putWord c.mgrCmd o d }) := by
  unfold State.writePf
  dsimp only
  rw [show (0x30000 + o) / 65536 = 3 by omega, show (0x30000 + o) % 65536 = o by omega]
  exact if_pos ho

theorem State.writePf_block4 {s : State} {o : Nat} {d : Bytes} (ho : o < 0x2000) :
    s.writePf (0x40000 + o) d = s.modDmb (fun m => { m with req := putWord m.req o d }) := by
  unfold State.writePf
  dsimp only
  rw [show (0x40000 + o) / 65536 = 4 by omega, show (0x40000 + o) % 65536 = o by omega]
  exact if_pos ho

/-- GO on a mailbox that is not busy: it turns busy where type and length are ones it serves. -/
theorem State.writePf_dictGo {s : State} {d : Bytes} (hgo : bitN (ofLE d) 0 = true) (hfree : s.dmb.busy = false) :
    s.writePf 0x44004 d = s.modDmb (fun m => { m with
      valid := false,
      busy := (u8 s.dmb.req 0 == 5 || u8 s.dmb.req 0 == 6 || u8 s.dmb.req 0 == 0x7E) && 1 ≤ s.dmb.len &&
        s.dmb.len ≤ 8192 }) := by
  have hpf : s.writePf 0x44004 d = s.dictGo := by
    refine (show s.writePf 0x44004 d = if 0x4004 = 0x4004 ∧ bitN (ofLE d) 0 then s.dictGo else s from rfl).trans ?_
    exact if_pos ⟨rfl, hgo⟩
  rw [hpf]
  exact if_neg (by rw [hfree]; decide)

/-- The plain registers of an open window. -/
theorem State.writeRdw_registers {s : State} {w : Bool} (d : Bytes) (h : s.windowOpen w = true) :
    s.writeRdw w 0x04 d = s.modWindow w (fun r => { r with key := ofLE d }) ∧
    s.writeRdw w 0x08 d = s.modWindow w (fun r => { r with length := putHalf false r.length (ofLE d) }) ∧
    s.writeRdw w 0x0C d = s.modWindow w (fun r => { r with length := putHalf true r.length (ofLE d % 2) }) ∧
    s.writeRdw w 0x24 d = s.modWindow w (fun r => { r with early := r.early && !bitN (ofLE d) 2 }) ∧
    s.writeRdw w 0x2C d = s.modWindow w (fun r => { r with expLen := ofLE d % 128 }) := by
  unfold State.writeRdw
  rw [h]
  exact ⟨rfl, rfl, rfl, rfl, rfl⟩

/-- A 4-byte write to a register of an open window, and the window's change by it. -/
theorem exec_registerWrite_rdw {s : State} {w : Bool} {o : Nat} {d : Bytes} {f : Rdw → Rdw} (h : s.windowOpen w = true)
    (hd : d.length = 4) (h4 : o % 4 = 0) (ho : o < 0x10000) (hf : s.fresh.writeRdw w o d = s.fresh.modWindow w f) :
    ∃ t, exec (.registerWrite (if w then 256 else 0) ((if w then 0 else 0x20000) + o) d) s = .next t ∧
      t.window w = f (s.window w) ∧ t.window (!w) = s.window (!w) :=
  ⟨_, congrArg Host.Outcome.next ((s.fresh.barWrite_rdw w o d h hd h4 ho).trans hf),
    State.modWindow_window s.fresh w f, State.modWindow_other s.fresh w f⟩

/-- A 4-byte write to a register of an open paddock's page. -/
theorem exec_registerWrite_page {s : State} {p o : Nat} {q : Pad} {d : Bytes} (h : s.openPad p = some q) (hp : p < 288)
    (hv : 1 ≤ p → p < 256 → s.padPresent p = true) (hd : d.length = 4) (h4 : o % 4 = 0) (h1 : 0x1000 ≤ o)
    (h2 : o < 0x10000) :
    exec (.registerWrite (if 1 ≤ p ∧ p < 256 then p else 0)
      ((if p = 0 then 0x100000 else if p < 256 then 0 else 0x200000 + 65536 * (p - 256)) + o) d) s =
      .next (s.fresh.writePage p o d) :=
  congrArg Host.Outcome.next (s.fresh.barWrite_page p o d (State.openPad_facts h).1 hd h4 hp hv h1 h2)

/-- The attention registers of an open paddock's page. -/
theorem State.writePage_attention {s : State} {p : Nat} {q : Pad} {d : Bytes} (h : s.openPad p = some q) :
    s.writePage p 0x200C d = s.modPad p (fun q => { q with
      atn := clearBits q.atn (clearBits (BitVec.ofNat 7 (ofLE d)) q.atnNew) }) ∧
    s.writePage p 0x2010 d = s.modPad p (fun q => { q with atnEn := BitVec.ofNat 7 (ofLE d) }) := by
  have hopen : ¬ (s.openPad p).isNone = true := by rw [h]; exact Bool.false_ne_true
  constructor
  · exact (if_neg hopen).trans ((if_neg (by decide)).trans (if_neg (by decide)))
  · exact (if_neg hopen).trans ((if_neg (by decide)).trans (if_neg (by decide)))

/-- Settles O59: each register of the PF, of a window and of a paddock page by its access rule. -/
theorem registerWrites : Obligations.RegisterWrites := by
  refine ⟨fun d s hl hd => ⟨_, exec_registerWrite_pf hl hd rfl (by decide), rfl⟩,
    fun d s hl hd => ⟨_, exec_registerWrite_pf hl hd rfl (by decide), rfl⟩,
    fun o d s hl hd ho h4 => ?_, fun o d s hl hd ho h4 => ?_,
    fun d s hl hd => ⟨_, exec_registerWrite_pf hl hd rfl (by decide), rfl⟩, fun d s hl hd hgo hfree => ?_,
    fun w d s h hd => ?_, fun w d s h hd => ?_, fun w d s h hd => ?_, fun w d s h hd => ?_, fun w d s h hd => ?_,
    fun p q d s h hp hv hd => ?_, fun p q d s h hp hv hd => ?_⟩
  · refine ⟨_, (exec_registerWrite_pf hl hd (by omega) (by omega)).trans
      (congrArg Host.Outcome.next (State.writePf_block3 ho)), rfl, rfl⟩
  · refine ⟨_, (exec_registerWrite_pf hl hd (by omega) (by omega)).trans
      (congrArg Host.Outcome.next (State.writePf_block4 ho)), rfl⟩
  · exact ⟨_, (exec_registerWrite_pf hl hd rfl (by decide)).trans
      (congrArg Host.Outcome.next (State.writePf_dictGo (s := s.fresh) hgo hfree)), rfl⟩
  · obtain ⟨hkey, -⟩ := State.writeRdw_registers (s := s.fresh) d h
    exact exec_registerWrite_rdw h hd rfl (by decide) hkey
  · obtain ⟨-, hlow, -⟩ := State.writeRdw_registers (s := s.fresh) d h
    exact exec_registerWrite_rdw h hd rfl (by decide) hlow
  · obtain ⟨-, -, hhigh, -⟩ := State.writeRdw_registers (s := s.fresh) d h
    exact exec_registerWrite_rdw h hd rfl (by decide) hhigh
  · obtain ⟨-, -, -, hearly, -⟩ := State.writeRdw_registers (s := s.fresh) d h
    exact exec_registerWrite_rdw h hd rfl (by decide) hearly
  · obtain ⟨-, -, -, -, hexp⟩ := State.writeRdw_registers (s := s.fresh) d h
    exact exec_registerWrite_rdw h hd rfl (by decide) hexp
  · refine ⟨_, (exec_registerWrite_page h hp hv hd rfl (by decide) (by decide)).trans
      (congrArg Host.Outcome.next (State.writePage_attention (s := s.fresh) h).1), ?_⟩
    exact State.modPad_self (fun _ => rfl) (State.openPad_facts h).2.1
  · refine ⟨_, (exec_registerWrite_page h hp hv hd rfl (by decide) (by decide)).trans
      (congrArg Host.Outcome.next (State.writePage_attention (s := s.fresh) h).2), ?_⟩
    exact State.modPad_self (fun _ => rfl) (State.openPad_facts h).2.1

end Sys2Proof.Machine

/-! # Settled: the Cucen Link (O60) -/

namespace Sys2Proof.Machine

open Sys2Proof

/-! ### What link commands do to the cascade's record -/

/-- Passing a notice on only puts it out. -/
theorem State.passOn_only_out (s : State) (port member : Nat) : s.only [.out] (s.passOn port member) :=
  State.passOn_only s port member (List.Subset.refl _) (State.only_refl _ s)

theorem exec_promotionNotice_orphan {s : State} (h : s.cas.role = .orphan) : ∃ t, exec .promotionNotice s = .next t ∧
    t.core = { s.core with fullReset := some (s.core.fullReset.getD .cascade) } ∧
    (∃ d, t.log.due = s.log.due ++ [d]) := by
  have honly := s.fresh.passOn_only_out 1 (s.fresh.pwr.cascadeId.toNat + 1)
  have hcas : (s.fresh.passOn 1 (s.fresh.pwr.cascadeId.toNat + 1)).cas = s.cas := honly .cas (by decide)
  have hcore : (s.fresh.passOn 1 (s.fresh.pwr.cascadeId.toNat + 1)).core = s.core := honly .core (by decide)
  have hlog : (s.fresh.passOn 1 (s.fresh.pwr.cascadeId.toNat + 1)).log = s.log := honly .log (by decide)
  exact ⟨_, congrArg Host.Outcome.next (if_pos ((congrArg Cas.role hcas).trans h)),
    congrArg (fun c : Core => { c with fullReset := some (c.fullReset.getD .cascade) }) hcore,
    _, congrArg (fun l : Log => l.due ++ [_]) hlog⟩

/-- The suspects with member `d` among them, since `now` where it was none. -/
def withSuspect (now : Nat) (l : List (Nat × Nat)) (d : Nat) : List (Nat × Nat) :=
  if l.any (·.1 == d) then l else l ++ [(d, now)]

theorem withSuspect_mem (now : Nat) (l : List (Nat × Nat)) (d : Nat) : ∃ x ∈ withSuspect now l d, x.1 = d := by
  unfold withSuspect
  split
  · rename_i h
    obtain ⟨x, hx, he⟩ := List.any_eq_true.1 h
    exact ⟨x, hx, eq_of_beq he⟩
  · exact ⟨(d, now), List.mem_append_right _ (List.mem_cons_self ..), rfl⟩

theorem subset_withSuspect (now : Nat) (l : List (Nat × Nat)) (d : Nat) : l ⊆ withSuspect now l d := by
  unfold withSuspect
  split
  · exact List.Subset.refl _
  · exact List.subset_append_left _ _

theorem subset_withSuspects (now : Nat) (ms : List Nat) (l : List (Nat × Nat)) : l ⊆ ms.foldl (withSuspect now) l := by
  induction ms generalizing l with
  | nil => exact List.Subset.refl _
  | cons m ms ih => exact List.Subset.trans (subset_withSuspect now l m) (ih _)

theorem withSuspects_mem (now : Nat) (ms : List Nat) (l : List (Nat × Nat)) :
    ∀ d ∈ ms, ∃ x ∈ ms.foldl (withSuspect now) l, x.1 = d := by
  induction ms generalizing l with
  | nil => exact fun d hd => nomatch hd
  | cons m ms ih =>
    intro d hd
    rcases List.mem_cons.1 hd with rfl | hd
    · obtain ⟨x, hx, he⟩ := withSuspect_mem now l d
      exact ⟨x, subset_withSuspects now ms _ hx, he⟩
    · exact ih _ d hd

theorem exec_linkDown_below {s : State} (hlink : s.cas.cl1 = true) (hrole : s.cas.role = .master) :
    ∃ t, exec (.linkDown 1) s = .next t ∧ t.cas.cl1 = false ∧ (∀ d ∈ s.members, ∃ x ∈ t.cas.suspect, x.1 = d) ∧
      (∀ x ∈ s.cas.suspect, x ∈ t.cas.suspect) := by
  have hup : ¬ (1 = 0 ∧ s.cas.cl0 = true) := fun h => absurd h.1 (by decide)
  refine ⟨_, congrArg Host.Outcome.next ((if_neg hup).trans ((if_pos ⟨rfl, hlink⟩).trans (if_pos hrole))), rfl,
    withSuspects_mem s.now s.members s.cas.suspect, fun x hx => subset_withSuspects s.now s.members s.cas.suspect hx⟩

theorem exec_linkDown_member {s : State} {d : Nat} (hrole : s.cas.role = .master) (hd : d ∈ s.members) :
    ∃ t, exec (.linkDown (8 + d)) s = .next t ∧ (∃ x ∈ t.cas.suspect, x.1 = d) ∧ t.cas.cl1 = s.cas.cl1 := by
  have hup : ¬ (8 + d = 0 ∧ s.cas.cl0 = true) := by omega
  have hdown : ¬ (8 + d = 1 ∧ s.cas.cl1 = true) := by omega
  have hsub : 8 + d - 8 = d := by omega
  have hmem : s.members.contains (8 + d - 8) = true := by rw [hsub]; exact List.contains_iff_mem.2 hd
  refine ⟨_, congrArg Host.Outcome.next ((if_neg hup).trans ((if_neg hdown).trans (if_pos ⟨by omega, hrole, hmem⟩))),
    ?_, rfl⟩
  obtain ⟨x, hx, he⟩ := withSuspect_mem s.now s.cas.suspect (8 + d - 8)
  exact ⟨x, hx, he.trans hsub⟩

/-- Several jobs that end leave the cascade's record as it was. -/
theorem State.endJobs_cas (l : List Job) (st : Nat) (s : State) :
    (l.foldl (fun s j => s.endJob j.id st (s.now + 1)) s).cas = s.cas := by
  induction l generalizing s with
  | nil => rfl
  | cons j l ih =>
    exact (ih _).trans (State.endJob_only s j.id st (s.now + 1) (List.Subset.refl _) (State.only_refl _ s) .cas (by decide))

/-- The state once member `d` is lost and its `n` jobs have ended (R410). -/
def State.withoutMember (u : State) (d n : Nat) : State :=
  ((u.modCas (fun c => { c with
    present := clearBits c.present (BitVec.ofNat 8 (2 ^ d)), lost := setBit c.lost d,
    suspect := c.suspect.filter (fun x => x.1 != d), peerLost := c.peerLost + n,
    links := c.links.filter (fun l => l.peer != d),
    acksWaited := (c.acksWaited.map (fun a => (a.1, a.2.1, a.2.2.filter (· != d)))).filter
      (fun a => !a.2.2.isEmpty) })).latch 21 d).ev 9 9 .memberLost [d]

theorem State.withoutMember_cas (u : State) (d n : Nat) :
    (u.withoutMember d n).cas.present = clearBits u.cas.present (BitVec.ofNat 8 (2 ^ d)) ∧
    (u.withoutMember d n).cas.lost = setBit u.cas.lost d ∧
    (∀ x ∈ (u.withoutMember d n).cas.suspect, x.1 ≠ d) :=
  ⟨rfl, rfl, fun _ hx => by simpa using (List.mem_filter.1 hx).2⟩

theorem State.withoutMember_job (u : State) (d n id : Nat) : (u.withoutMember d n).job? id = u.job? id := rfl

/-- A lost member: its bit moves from present to lost, none suspects it, and its forwarded jobs end. -/
theorem exec_memberLost_settled {d : Nat} {s : State} (hrole : s.cas.role = .master) (hd : d ∈ s.members)
    (hlate : (∃ x ∈ s.cas.suspect, x.1 = d ∧ x.2 + 64 ≤ s.now) ∨
      (∃ a ∈ s.cas.acksWaited, a.2.1 + 64 ≤ s.now ∧ d ∈ a.2.2)) (hwhole : ∀ k ∈ s.jobs, k.src.whole = true) :
    ∃ t, exec (.memberLost d) s = .next t ∧ t.cas.present = clearBits s.cas.present (BitVec.ofNat 8 (2 ^ d)) ∧
      t.cas.lost = setBit s.cas.lost d ∧ (∀ x ∈ t.cas.suspect, x.1 ≠ d) ∧
      (∀ id j, s.job? id = some j → j.forwarded = some d → j.settled = false →
        ∃ y, t.job? id = some y ∧ y.status = some stPeerLost ∧ y.completeAt = some (s.now + 1)) := by
  have hlate' : (s.cas.suspect.any (fun x => x.1 == d && x.2 + 64 ≤ s.now) ||
      s.cas.acksWaited.any (fun a => a.2.1 + 64 ≤ s.now && a.2.2.contains d)) = true := by
    rcases hlate with ⟨x, hx, h1, h2⟩ | ⟨a, ha, h1, h2⟩
    · have hany : s.cas.suspect.any (fun x => x.1 == d && x.2 + 64 ≤ s.now) = true :=
        List.any_eq_true.2 ⟨x, hx, by simp [h1, h2]⟩
      rw [hany, Bool.true_or]
    · have hany : s.cas.acksWaited.any (fun a => a.2.1 + 64 ≤ s.now && a.2.2.contains d) = true :=
        List.any_eq_true.2 ⟨a, ha, by simp [h1, h2]⟩
      rw [hany, Bool.or_true]
  have hgo : ¬ (s.cas.role ≠ .master ∨ (!s.members.contains d) = true ∨ (!(s.cas.suspect.any (fun x => x.1 == d && x.2 + 64 ≤ s.now) ||
      s.cas.acksWaited.any (fun a => a.2.1 + 64 ≤ s.now && a.2.2.contains d))) = true) := by
    rw [hlate', List.contains_iff_mem.2 hd]
    rintro (h | h | h)
    · exact h hrole
    · exact absurd h (by decide)
    · exact absurd h (by decide)
  obtain ⟨gone, hgone⟩ : ∃ gone, s.fresh.jobs.filter (fun j => !j.settled && (j.forwarded == some d ||
      (j.forwarded.isNone && s.fresh.jobMember j == some d))) = gone := ⟨_, rfl⟩
  have hexec : exec (.memberLost d) s = .next
      ((gone.foldl (fun s j => s.endJob j.id stPeerLost (s.now + 1)) s.fresh).withoutMember d gone.length) := by
    rw [← hgone]
    exact congrArg Host.Outcome.next (if_neg hgo)
  obtain ⟨hpresent, hlost, hsuspect⟩ := State.withoutMember_cas
    (gone.foldl (fun s j => s.endJob j.id stPeerLost (s.now + 1)) s.fresh) d gone.length
  rw [State.endJobs_cas] at hpresent hlost
  refine ⟨_, hexec, hpresent, hlost, hsuspect, fun id j hj hf hs => ?_⟩
  have hmem : j ∈ gone := by
    rw [← hgone]
    exact List.mem_filter.2 ⟨List.mem_of_find?_eq_some hj, by simp [hs, hf]⟩
  obtain ⟨y, hy, -, hend⟩ := State.endJobs_facts gone stPeerLost s.fresh hwhole id j hj
  obtain ⟨hst, -, hat⟩ := hend (.inl ⟨j, hmem, State.job_id hj⟩)
  exact ⟨y, (State.withoutMember_job _ d gone.length id).trans hy, hst, hat⟩

theorem State.rekeyDue_any {s : State} {p : Nat} (h : s.rekeyDue p) :
    ¬ (!s.cas.links.any (fun l => l.peer == p && (2 ^ 32 ≤ l.msgs || l.keyedAt + 3600 * secFrames ≤ s.now))) = true := by
  obtain ⟨l, hl, hp, hdue⟩ := h
  have hany : s.cas.links.any (fun l => l.peer == p && (2 ^ 32 ≤ l.msgs || l.keyedAt + 3600 * secFrames ≤ s.now)) = true :=
    List.any_eq_true.2 ⟨l, hl, by simp only [hp, beq_self_eq_true, Bool.true_and, Bool.or_eq_true, decide_eq_true_eq]; exact hdue⟩
  rw [hany]
  decide

/-- The shape of a job leaves its source, code, data and group. -/
theorem State.shape_keeps (s : State) (j : Job) : (s.shape j).src = j.src ∧ (s.shape j).op = j.op ∧
    (s.shape j).data = j.data ∧ (s.shape j).group = j.group := by
  obtain ⟨a, b, c, d, e, h⟩ := s.shape_form j
  rw [h]
  exact ⟨rfl, rfl, rfl, rfl⟩

/-- A member runs a forwarded job as its own. -/
theorem exec_forwardedJob_settled {desc data : Bytes} {master mask : Nat} {s : State} (hrole : s.cas.role = .member)
    (horphan : s.cas.orphanDue = false) (hpow : s.core.op.powered = true) :
    ∃ t, exec (.forwardedJob desc data master mask) s = .next t ∧ (∃ j, t.jobs = s.jobs ++ [j] ∧
      j.src = .peer master mask ∧ j.op = u8 desc 0 ∧ j.data = data ∧ j.group = s.valU (mkKey 0x9000 0x08)) ∧
      t.cas.forwarded = s.cas.forwarded + 1 := by
  have hgo : ¬ (s.cas.role ≠ .member ∨ s.cas.orphanDue = true ∨ (!s.core.op.powered) = true) := by
    rw [hrole, horphan, hpow]; decide
  refine ⟨_, congrArg Host.Outcome.next (if_neg hgo), ⟨_, rfl, ?_⟩, rfl⟩
  exact s.fresh.shape_keeps _

theorem State.modJob_self {s : State} {i : Nat} {f : Job → Job} {j : Job} (h : s.job? i = some j)
    (hf : ∀ j, (f j).id = j.id) : (s.modJob i f).job? i = some (f j) := by
  rw [State.modJob_job _ _ _ hf, if_pos rfl, h]; rfl

theorem exec_forwardedResult_settled {id status lane : Nat} {result dest : Bytes} {j : Job} {d : Nat} {s : State}
    (hrole : s.cas.role = .master) (hj : s.job? id = some j) (hf : j.forwarded = some d) (hs : j.settled = false)
    (hd : d ∈ s.members) (hfresh : ∀ x ∈ s.cas.suspect, x.1 = d → s.now < x.2 + 64) :
    ∃ t, exec (.forwardedResult id status lane result dest) s = .next t ∧ t.job? id = some { j with
      status := some status, settled := true, completeAt := some (s.now + 1),
      lastLane := 0x8000 + 4096 * d + lane % 4096, result := if status = stOk then result.take 16 else [],
      dest := if status = stOk then dest else [],
      resLen := if status ≠ stOk then 0 else if dest.isEmpty then result.length else dest.length } ∧
    t.cas.credits = updAt s.cas.credits d (· + 1) := by
  have hgo : ¬ (s.cas.role ≠ .master ∨ j.settled = true ∨ (!s.members.contains d) = true ∨
      s.cas.suspect.any (fun x => x.1 == d && x.2 + 64 ≤ s.now) = true) := by
    rw [hs, List.contains_iff_mem.2 hd]
    rintro (h | h | h | h)
    · exact h hrole
    · exact absurd h (by decide)
    · exact absurd h (by decide)
    · obtain ⟨x, hx, hand⟩ := List.any_eq_true.1 h
      rw [Bool.and_eq_true, beq_iff_eq, decide_eq_true_eq] at hand
      have := hfresh x hx hand.1
      omega
  have hexec : exec (.forwardedResult id status lane result dest) s =
      .next (((s.fresh.heard d).modCas (fun c => { c with credits := updAt c.credits d (· + 1) })).modJob id
        (fun j => { j with
          status := some status, settled := true, completeAt := some (s.now + 1),
          lastLane := 0x8000 + 4096 * d + lane % 4096, result := if status = stOk then result.take 16 else [],
          dest := if status = stOk then dest else [],
          resLen := if status ≠ stOk then 0 else if dest.isEmpty then result.length else dest.length })) := by
    change execForwardedResult id status lane result dest s = _
    unfold execForwardedResult
    dsimp only
    rw [show s.fresh.job? id = some j from hj]
    dsimp only
    rw [hf]
    exact congrArg Host.Outcome.next (if_neg hgo)
  exact ⟨_, hexec, State.modJob_self hj (fun _ => rfl), rfl⟩

/-- A replica new to the member takes the place found for it, and its arrival is acknowledged. -/
theorem exec_keyReplication_placed {k : Key} {master p : Nat} {s : State} (hrole : s.cas.role = .member)
    (hnew : s.replica (master % 32768) = none) (hplace : s.tack.replicaPlace (keyRun k.typ) = some p) :
    ∃ t, exec (.keyReplication k master) s = .next t ∧ t.tack.keys = s.tack.keys.filter (fun x => x.slot != p) ++
      [{ k with slot := p, gen := s.tack.gen p, run := keyRun k.typ, st := .active, depth := 1, persistent := false,
                world := BitVec.ofNat 5 16, parent := none, useCount := 0, useLimit := 0, mark := 0,
                origin := some master, drainEnd := none }] ∧
      t.out = [.link 8 8 (leN 4 master)] := by
  have hmember : ¬ s.cas.role ≠ .member := fun h => h hrole
  have hexec : exec (.keyReplication k master) s = .next ((s.fresh.modTack (fun t => t.put
      { k with slot := p, gen := t.gen p, run := keyRun k.typ, st := .active, depth := 1, persistent := false,
               world := BitVec.ofNat 5 16, parent := none, useCount := 0, useLimit := 0, mark := 0,
               origin := some master, drainEnd := none })).linkSend 8 8 (leN 4 master)) := by
    change execKeyReplication k master s = _
    unfold execKeyReplication
    dsimp only
    refine congrArg Host.Outcome.next ((if_neg hmember).trans ?_)
    rw [show s.fresh.replica (master % 32768) = none from hnew]
    dsimp only
    rw [show s.fresh.tack.replicaPlace (keyRun k.typ) = some p from hplace]
  exact ⟨_, hexec, Tack.put_keys _ _, rfl⟩

/-- What a change of a replica does when the next boundary takes it (R411). -/
theorem State.changeReplica_facts {s : State} {master : Nat} (sec : Bytes) {k : Key}
    (hk : s.tack.keys.find? (fun x => x.origin == some master) = some k) :
    (k.st ≠ .revoked → s.tack.worn k = false → ∃ g, (s.changeReplica master 0 sec).tack.keys =
      s.tack.keys.filter (fun x => x.slot != k.slot) ++
        [{ k with st := .revoked, secret := [], gen := g, drainEnd := none }]) ∧
    (s.changeReplica master 1 sec).tack.keys = s.tack.keys.filter (fun x => x.slot != k.slot) ∧
    (∃ g, (s.changeReplica master 2 sec).tack.keys = s.tack.keys.filter (fun x => x.slot != k.slot) ++
      [{ k with st := .active, secret := sec, gen := g, useCount := 0, mark := 0,
                origin := some (master % 2 ^ 27 / 32768 * 32768 + 32768 + master % 32768) }]) ∧
    (s.changeReplica master 3 sec).tack.keys = s.tack.keys.filter (fun x => x.slot != k.slot) ++
      [{ k with st := .draining, drainEnd := none }] := by
  have hchange : ∀ what, s.changeReplica master what sec =
      if what = 0 then (if k.st = .revoked then s else s.revokeKey k)
      else if what = 1 then s.eraseKey k
      else if what = 2 then
        s.rewriteKey { k with origin := some (master % 2 ^ 27 / 32768 * 32768 + 32768 + master % 32768) } sec
      else if what = 3 then s.modTack (fun t => t.put { k with st := .draining, drainEnd := none })
      else s := fun what => by
    unfold State.changeReplica
    rw [hk]
  refine ⟨fun hst hworn => ?_, ?_, ?_, ?_⟩
  · rw [hchange, if_pos rfl, if_neg hst]
    exact s.revokeKey_keys k hworn
  · rw [hchange, if_neg (by decide), if_pos rfl]
    exact s.eraseKey_keys k
  · rw [hchange, if_neg (by decide), if_neg (by decide), if_pos rfl]
    exact s.rewriteKey_keys _ sec
  · rw [hchange, if_neg (by decide), if_neg (by decide), if_neg (by decide), if_pos rfl]
    exact Tack.put_keys _ _

/-- What offering the stack's keys to a member leaves: the cascade's record but for the links' counts and the
    acknowledgements it waits for, every link's peer and keys, and what was put out before. -/
structure State.offersTo (s t : State) : Prop where
  present : t.cas.present = s.cas.present
  lost : t.cas.lost = s.cas.lost
  cl1 : t.cas.cl1 = s.cas.cl1
  credits : t.cas.credits = s.cas.credits
  links : ∀ l ∈ s.cas.links, ∃ l' ∈ t.cas.links, l'.peer = l.peer ∧ l'.keys = l.keys
  out : ∀ o ∈ s.out, o ∈ t.out

theorem State.offersTo.refl (s : State) : s.offersTo s :=
  ⟨rfl, rfl, rfl, rfl, fun l hl => ⟨l, hl, rfl, rfl⟩, fun _ h => h⟩

theorem State.offersTo.trans {s m t : State} (h : s.offersTo m) (k : m.offersTo t) : s.offersTo t where
  present := k.present.trans h.present
  lost := k.lost.trans h.lost
  cl1 := k.cl1.trans h.cl1
  credits := k.credits.trans h.credits
  links := fun l hl => by
    obtain ⟨m1, hm, hp, hk⟩ := h.links l hl
    obtain ⟨l', hl', hp', hk'⟩ := k.links m1 hm
    exact ⟨l', hl', hp'.trans hp, hk'.trans hk⟩
  out := fun o ho => k.out o (h.out o ho)

theorem State.linkSend_offersTo (s : State) (d code : Nat) (b : Bytes) : s.offersTo (s.linkSend d code b) where
  present := rfl
  lost := rfl
  cl1 := rfl
  credits := rfl
  links := fun l hl => ⟨_, List.mem_map_of_mem hl, by split <;> exact ⟨rfl, rfl⟩⟩
  out := fun _ ho => List.mem_append_left _ ho

/-- Each key of the stack goes to the member and its acknowledgement is awaited. -/
theorem State.offerKeys_offersTo (d : Nat) (ks : List Key) (s : State) :
    s.offersTo (ks.foldl (fun s k => (s.linkSend d 1 (leN 4 (s.tack.handleOf k.slot))).modCas (fun c => { c with
      acksWaited := c.acksWaited ++ [(k.slot, s.now, [d])] })) s) := by
  induction ks generalizing s with
  | nil => exact .refl s
  | cons k ks ih =>
    obtain ⟨hpresent, hlost, hcl1, hcredits, hlinks, hout⟩ := s.linkSend_offersTo d 1 (leN 4 (s.tack.handleOf k.slot))
    exact State.offersTo.trans (m := (s.linkSend d 1 (leN 4 (s.tack.handleOf k.slot))).modCas (fun c => { c with
      acksWaited := c.acksWaited ++ [(k.slot, s.now, [d])] })) ⟨hpresent, hlost, hcl1, hcredits, hlinks, hout⟩ (ih _)

/-- The state of a master that has taken member `d` into its record and keyed the link to it (R405). -/
def State.withMember (s : State) (d : Nat) (secret transcript : Bytes) : State :=
  (s.modCas (fun c => { c with
    present := setBit c.present d, lost := clearBits c.lost (BitVec.ofNat 8 (2 ^ d)), cl1 := true,
    credits := updAt c.credits d (fun _ => 1024), suspect := c.suspect.filter (fun x => x.1 != d) })).keyLink d secret
      transcript

theorem State.withMember_adoptionFrame (s : State) (d : Nat) (secret transcript : Bytes) :
    (s.withMember d secret transcript).adoptionFrame = s.adoptionFrame := rfl

theorem State.withMember_link (s : State) (d : Nat) (secret transcript : Bytes) :
    ∃ l ∈ (s.withMember d secret transcript).cas.links, l.peer = d ∧ l.keys = linkKeysOf secret transcript :=
  ⟨⟨d, linkKeysOf secret transcript, 0, s.now⟩, List.mem_append_right _ (List.mem_cons_self ..), rfl, rfl⟩

theorem exec_memberJoin_settled {j : JoinInput} {s : State} (hrole : s.cas.role = .master)
    (hpow : s.core.op.powered = true) (halt : s.core.op ≠ .alarmHalt) (h8 : j.member < 8)
    (hself : j.member ≠ s.pwr.cascadeId.toNat) (hbelow : j.actingBelow = false ∨ s.pwr.cascadeId ≠ 0)
    (hc0 : s.c0Pk = true) (hclass : s.classOn .lattice 0 = true)
    (hfits : s.peerFits (s.val (mkKey 0x9000 0x04)) j.member j.peer = true) (hsig : j.sigOk = true) :
    ∃ t, exec (.memberJoin j) s = .next t ∧ t.cas.present = setBit s.cas.present j.member ∧
      t.cas.lost = clearBits s.cas.lost (BitVec.ofNat 8 (2 ^ j.member)) ∧ t.cas.cl1 = true ∧
      (∃ l ∈ t.cas.links, l.peer = j.member ∧ l.keys = linkKeysOf j.secret j.transcript) ∧
      t.cas.credits = updAt s.cas.credits j.member (fun _ => 1024) ∧
      .link j.member 7 (leN 8 s.adoptionFrame) ∈ t.out := by
  have hmaster : ¬ (s.cas.role ≠ .master ∨ (!s.core.op.powered) = true) := by rw [hrole, hpow]; decide
  have hplace : ¬ (s.core.op = .alarmHalt ∨ 7 < j.member ∨ j.member = s.pwr.cascadeId.toNat) := by
    rintro (h | h | h)
    · exact halt h
    · omega
    · exact hself h
  have hacting : ¬ (j.actingBelow = true ∧ s.pwr.cascadeId = 0) := by
    rintro ⟨ha, h0⟩
    rcases hbelow with h | h
    · exact absurd (h.symm.trans ha) (by decide)
    · exact h h0
  have hclass' : ¬ (!(s.c0Pk && s.classOn .lattice 0)) = true := by rw [hc0, hclass]; decide
  have hfits' : ¬ (!s.peerFits (s.val (mkKey 0x9000 0x04)) j.member j.peer) = true := by rw [hfits]; decide
  have hsig' : ¬ (!j.sigOk) = true := by rw [hsig]; decide
  obtain ⟨m, hm⟩ : ∃ m, s.fresh.withMember j.member j.secret j.transcript = m := ⟨_, rfl⟩
  obtain ⟨u, hu⟩ : ∃ u, m.linkSend j.member 7 (leN 8 m.adoptionFrame) = u := ⟨_, rfl⟩
  obtain ⟨v, hv⟩ : ∃ v, u.stackKeys.foldl (fun s k => (s.linkSend j.member 1 (leN 4 (s.tack.handleOf k.slot))).modCas
      (fun c => { c with acksWaited := c.acksWaited ++ [(k.slot, s.now, [j.member])] })) u = v := ⟨_, rfl⟩
  have hexec : exec (.memberJoin j) s = .next ((v.latch 21 9).ev 9 9 .memberJoined [j.member]) := by
    rw [← hv, ← hu, ← hm]
    exact congrArg Host.Outcome.next ((if_neg hmaster).trans ((if_neg hplace).trans ((if_neg hacting).trans
      ((if_neg hclass').trans ((if_neg hfits').trans (if_neg hsig'))))))
  have hoffers : m.offersTo v := by
    rw [← hv]
    exact State.offersTo.trans (by rw [← hu]; exact m.linkSend_offersTo _ _ _) (State.offerKeys_offersTo _ _ u)
  have hframe : m.adoptionFrame = s.adoptionFrame := by rw [← hm]; exact s.fresh.withMember_adoptionFrame _ _ _
  have hsent : Out.link j.member 7 (leN 8 s.adoptionFrame) ∈ u.out := by
    rw [← hu, ← hframe]; exact m.linkSend_out _ _ _
  obtain ⟨l, hl, hpeer, hkeys⟩ : ∃ l ∈ m.cas.links, l.peer = j.member ∧ l.keys = linkKeysOf j.secret j.transcript := by
    rw [← hm]; exact s.fresh.withMember_link _ _ _
  obtain ⟨l', hl', hpeer', hkeys'⟩ := hoffers.links l hl
  refine ⟨_, hexec, hoffers.present.trans (by rw [← hm]; rfl), hoffers.lost.trans (by rw [← hm]; rfl),
    hoffers.cl1.trans (by rw [← hm]; rfl), ⟨l', hl', hpeer'.trans hpeer, hkeys'.trans hkeys⟩,
    hoffers.credits.trans (by rw [← hm]; rfl), ?_⟩
  rw [← hv]
  exact (State.offerKeys_offersTo _ _ u).out _ hsent

/-- Settles O60: each command of the link by what it does to the cascade's record. -/
theorem cascadeLink : Obligations.CascadeLink := by
  refine ⟨fun s h => exec_promotionNotice_orphan h, fun s hlink hrole => ?_,
    fun s hlink hrole => exec_linkDown_below hlink hrole, fun d s hrole hd => exec_linkDown_member hrole hd,
    fun d s hrole hd hlate hwhole => exec_memberLost_settled hrole hd hlate hwhole,
    fun p sec tr s h => ⟨_, congrArg Host.Outcome.next ((if_neg (State.rekeyDue_any h)).trans (if_pos rfl)), rfl⟩,
    fun p sec tr s h hrole => ?_, fun p sec tr s h hrole => ?_,
    fun desc data master mask s hrole ho hpow => exec_forwardedJob_settled hrole ho hpow,
    fun id status lane result dest j d s hrole hj hf hs hd hfresh =>
      exec_forwardedResult_settled hrole hj hf hs hd hfresh,
    fun k master p s hrole hnew hplace => exec_keyReplication_placed hrole hnew hplace,
    fun master what sec s hrole => ⟨_, congrArg Host.Outcome.next (if_neg (fun h => h hrole)), rfl, rfl⟩,
    fun master sec k s hk => State.changeReplica_facts sec hk,
    fun id s hrole => ⟨_, congrArg Host.Outcome.next (if_pos hrole), rfl, rfl⟩,
    fun j s hrole hpow halt h8 hself hbelow hc0 hclass hfits hsig =>
      exec_memberJoin_settled hrole hpow halt h8 hself hbelow hc0 hclass hfits hsig,
    fun member master s hrole hm => ?_⟩
  · exact ⟨_, congrArg Host.Outcome.next ((if_pos ⟨rfl, hlink⟩).trans (if_pos hrole)), rfl⟩
  · exact ⟨_, congrArg Host.Outcome.next
      ((if_neg (State.rekeyDue_any h)).trans ((if_neg Bool.false_ne_true).trans (if_pos hrole))), rfl⟩
  · exact ⟨_, congrArg Host.Outcome.next
      ((if_neg (State.rekeyDue_any h)).trans ((if_neg Bool.false_ne_true).trans (if_neg hrole))), rfl⟩
  · have hmember : ¬ (!s.members.contains member) = true := by rw [List.contains_iff_mem.2 hm]; decide
    refine ⟨_, congrArg Host.Outcome.next ((if_neg (fun h => h hrole)).trans (if_neg hmember)), rfl, fun x hx => ?_⟩
    simpa using (List.mem_filter.1 hx).2

end Sys2Proof.Machine
